-- ==== Sys2Proof/Word.lean ====
section
/-! DEFINITION. Words, bytes and the plainest arithmetic on bit fields and two's complement numbers (R3, R4). -/

namespace Sys2Proof

/-- A 32-bit word of a register, a packet or a configuration window. -/
abbrev Word := BitVec 32

/-- A byte of a memory or of a frame. -/
abbrev Byte := BitVec 8

/-- Bits [hi:lo] of a number (R3). -/
def bits (n hi lo : Nat) : Nat := (n >>> lo) % 2 ^ (hi + 1 - lo)

/-- A truth value as a bit. -/
def b2n (b : Bool) : Nat := if b then 1 else 0

/-- The two's complement reading of the low `w` bits of `n`. -/
def signed (w n : Nat) : Int :=
  if n % 2 ^ w < 2 ^ (w - 1) then (n % 2 ^ w : Nat) else ((n % 2 ^ w : Nat) : Int) - (2 ^ w : Nat)

/-- The low `w` bits of an integer in two's complement. -/
def unsigned (w : Nat) (i : Int) : Nat := (i % ((2 ^ w : Nat) : Int)).toNat

/-- The integer nearest to `i` within [lo, hi]. -/
def clampI (lo hi i : Int) : Int := if i < lo then lo else if hi < i then hi else i

/-- The word of a number, modulo 2³². -/
def w32 (n : Nat) : Word := BitVec.ofNat 32 n

/-- The word of an integer in two's complement, modulo 2³². -/
def w32i (i : Int) : Word := BitVec.ofNat 32 (unsigned 32 i)

/-- Word `i` of a packet or table as a number; 0 beyond its end. -/
def wordAt (l : List Word) (i : Nat) : Nat := (l.getD i 0).toNat

/-- The four bytes of a word, least significant first (R4). -/
def wordBytes (w : Word) : List Byte :=
  [BitVec.ofNat 8 w.toNat, BitVec.ofNat 8 (w.toNat / 2 ^ 8),
   BitVec.ofNat 8 (w.toNat / 2 ^ 16), BitVec.ofNat 8 (w.toNat / 2 ^ 24)]

/-- The bytes of a list of words, each word least significant byte first (R4). -/
def wordsBytes (l : List Word) : List Byte := l.flatMap wordBytes

/-- Number read from bytes, the first the least significant (R4). -/
def leNat : List Byte → Nat
  | [] => 0
  | b :: t => b.toNat + 256 * leNat t

/-- The words spelled by bytes, least significant byte first, the last word padded with zeros (R4). -/
def bytesWords : List Byte → List Word
  | [] => []
  | [a] => [w32 (leNat [a])]
  | [a, b] => [w32 (leNat [a, b])]
  | [a, b, c] => [w32 (leNat [a, b, c])]
  | a :: b :: c :: d :: t => w32 (leNat [a, b, c, d]) :: bytesWords t

/-- Rounding division of integers to the nearest, ties to the even quotient; the divisor is positive. -/
def rdivEven (a : Int) (b : Nat) : Int :=
  let q := a / (b : Int)
  let r := a % (b : Int)
  if 2 * r < (b : Int) then q
  else if (b : Int) < 2 * r then q + 1
  else if q % 2 = 0 then q else q + 1

/-- Arithmetic right shift of an integer by `n`, rounding toward −∞. -/
def asr (a : Int) (n : Nat) : Int := a / ((2 ^ n : Nat) : Int)

/-- A comparison of counts modulo 2^w: the signed difference a − b in w bits. -/
def modDiff (w a b : Nat) : Int := signed w (a + 2 ^ w - b % 2 ^ w)

end Sys2Proof
end

