-- ==== Sys2Proof/Syntax.lean ====
section
/-! DEFINITION. The commands the block takes from outside: one constructor of `Instr` per row of opcode_table.json,
with the row's operands. A row whose tick the spec does not fix by the state carries the tick `t` (POS_TICK, in
engine-clock ticks of 1.25 ns) at which it happens; a row that needs something only the outside world knows (a frame
received, a pin level, a meter reading) carries it. -/

namespace Sys2Proof.Machine

/-- The four host interfaces, in the order of R460. -/
inductive Iface where
  | pcie
  | mac0
  | mac1
  | spi
  deriving DecidableEq, Repr

/-- The number of a host interface, in the order of R460. -/
def Iface.idx : Iface → Nat
  | .pcie => 0
  | .mac0 => 1
  | .mac1 => 2
  | .spi => 3

/-- The device's Lading FIFOs (R238, R311, R325, R339, R473, R478). -/
inductive LadId where
  | tow (i : Fin 16)
  | slu (i : Fin 4)
  | adc (x : Fin 2)
  | gau
  | evt (i : Fin 4)
  | rxf (m : Fin 2)
  deriving DecidableEq, Repr

/-- The source of a UDP datagram (R477). -/
structure UdpSrc where
  ip : Word
  port : Nat
  hw : BitVec 48
  deriving DecidableEq, Repr

/-- A Towpath frame as its characters arrived: the two header words of R220, the payload words, and whether the
character count, the CRC and the EOF were right. -/
structure TowFrame where
  w0 : Word
  w1 : Word
  payload : List Word
  good : Bool
  sof : Nat
  deriving DecidableEq, Repr

/-- What a Towpath receiver found (R215): code errors within 256 characters, and whether it was lost by 100 ns without a
transition. -/
structure RxErrors where
  codes : Nat
  lost : Bool
  deriving DecidableEq, Repr

/-- The memory errors a Sluice stage's kernel read (R292): how many were corrected, and whether one was uncorrectable. -/
structure StageEcc where
  corrected : Nat
  uncorrectable : Bool
  deriving DecidableEq, Repr

/-- A rise of VIN (R502, R527): its tick, and whether the core-buck inductors are fitted and intact. -/
structure VinRise where
  t : Nat
  coil : Bool
  deriving DecidableEq, Repr

/-- What decides which domain a PTP message belongs to (R280): the MAC it came by, domainNumber, majorSdoId, whether it
came over UDP, and its IEEE 802.1Q tags. -/
structure PtpHead where
  mac : Fin 2
  domain : Fin 256
  sdo : Fin 16
  udp : Bool
  tags : Nat
  deriving DecidableEq, Repr

/-- A PTP Sync (R281): its head, the origin time and the correction in units of 2⁻¹⁶ ns, the grandmaster identity, the
logMessageInterval and the currentUtcOffset the master announced. -/
structure PtpSync where
  head : PtpHead
  t1 : Int
  corr : Int
  gm : BitVec 64
  logInt : Int
  utc : Nat
  deriving DecidableEq, Repr

/-- A delay response (R281): its head, the path delay it yields in units of 2⁻¹⁶ ns, and the log₂ of the request interval
the master asks for, where the message carries one. -/
structure PtpDelay where
  head : PtpHead
  delay : Int
  logReq : Option Int
  deriving DecidableEq, Repr

/-- What the Lockkeeper reads from the die (R425): the four energy meters in nJ and the eight temperature sensors in
units of 0.25 °C. -/
structure HeadReadings where
  vin : Nat
  bsn : Nat
  slu : Nat
  mgt : Nat
  temps : List Int
  deriving DecidableEq, Repr

/-- An Ethernet frame as a MAC received it: the bytes from the destination address on, without FCS, and whether the
FCS was right. -/
structure EthFrame where
  bytes : List Byte
  fcsOk : Bool
  deriving DecidableEq, Repr

/-- An ARP message received: a request or a reply, its sender and its target (R477). -/
structure ArpFrame where
  request : Bool
  senderIp : Word
  senderHw : BitVec 48
  targetIp : Word
  deriving DecidableEq, Repr

/-- What resets the PCIe endpoint (R462). -/
inductive PcieReset where
  | perst
  | hot
  | linkDown
  | d3hot
  deriving DecidableEq, Repr

/-- A serial transfer's data (R197, R198): the position word as received, the second word of a double transmission,
the CRC bits as received (before inversion), the parity bit of each transmission, and the levels of the error and the
warning bit. -/
structure SerialReading where
  word : Nat
  word2 : Nat
  crc : Nat
  par : Bool
  par2 : Bool
  errBit : Bool
  warnBit : Bool
  deriving DecidableEq, Repr

/-- What the lanes met while a Basin job ran (R128, R154): nothing, a corrected or an uncorrectable ECC error, or, for a
TEST job, the lanes whose signatures differ. -/
inductive JobFault where
  | none
  | corrected
  | uncorrectable
  | lanes (mask : BitVec 64)
  deriving DecidableEq, Repr

/-- What a flight update met in bank memory or in its stored words (R56, R90): nothing, a corrected error, an
uncorrectable one in a bank word, or one in a stored state or command. -/
inductive BankEcc where
  | none
  | corrected
  | bank
  | stored
  deriving DecidableEq, Repr

/-- The source of a Weir internal fault (R363): a lockstep error of Weir B, a memory ECC error, a failed self-test. -/
inductive WeirFaultSrc where
  | lockstep
  | memory
  | selfTest
  deriving DecidableEq, Repr

/-- What the boundary tick brings in from outside the block: whether the compare records of the two Weir channels
differed beyond what the state shows (R348), the output pins a channel reads back inverted, by channel (R367), the
channels whose sample failed the check of Weir A and that of Weir B (R356), the deviation of the Weir's tick count
(R347), and the REMOTE_OUT connections whose frame the two channels form differently (R384). -/
structure BoundaryEnv where
  differ : Bool
  flipA : Nat
  flipB : Nat
  crcFail : List Nat
  crcFailB : List Nat
  dev : Int
  withheld : List Nat
  deriving DecidableEq, Repr

/-- The levels of the 24 safe input pins of one side, A or B, as the receivers of Weir A and of Weir B take them, bit i
for input i (R346). -/
structure PinLevels where
  byA : Nat
  byB : Nat
  deriving DecidableEq, Repr

/-- The end of a set's check: its tick, and the bits in which the CRC Weir B formed differs from Weir A's (R375). -/
structure CheckEnd where
  t : Nat
  crcDiff : Word
  deriving DecidableEq, Repr

/-- What a command release brings in from outside: the connections whose safety frame the Weir withholds (R386). -/
structure ReleaseEnv where
  withheld : List Nat
  deriving DecidableEq, Repr

/-- The tick of a command that reads record memory, and the offsets of the DWs whose read finds an uncorrectable error
(R343, R467). -/
structure ReadEnv where
  t : Nat
  ue : List Nat
  deriving DecidableEq, Repr

/-- What every Aqueduct frame carries in its header and checks (R439): whether the frame is good, its SEQ and EPOCH. -/
structure AquHead where
  ok : Bool
  seq : Nat
  epoch : Word
  deriving DecidableEq, Repr

/-- A HELLO's payload (R439): role, operating state, RANK and CONFIG_CRC. -/
structure Hello where
  h : AquHead
  role : Nat
  state : Nat
  rank : Nat
  crc : Word
  deriving DecidableEq, Repr

/-- A SYNC (R440): the sender's A_RX, and the arrival of its SOF relative to this device's boundary, both in 1/8 tick. -/
structure AquSync where
  h : AquHead
  aPeer : Int
  aOwn : Int
  deriving DecidableEq, Repr

/-- A HEARTBEAT (R441): its pound and its four words. -/
structure Heartbeat where
  h : AquHead
  pound : Word
  w0 : Word
  commit : Word
  configCrc : Word
  setCrc : Word
  deriving DecidableEq, Repr

/-- The FLIGHT record of a flight update (R60, R443): the flight, word 0x04, the ages, y, r, x̂, stored u, the reseed
values and the CLEAR_FLAGS mask applied at the pound's boundary. -/
structure FlightRec where
  f : Nat
  w0 : Word
  ages : List Nat
  y : List Int
  r : List Int
  x : List Int
  u : List Int
  xi : List Int
  clear : Option Nat
  deriving DecidableEq, Repr

/-- An entry of the CHANNEL record (R443). -/
structure ChanEntry where
  ch : Nat
  age : Nat
  conf : Nat
  flags : Nat
  pos : Nat
  spd : Word
  raw : Nat
  deriving DecidableEq, Repr

/-- What the ledger holds (R443). The records of kinds 5 to 8 have no layout in the spec; each entry here is one fact
such a record carries. A segment is its header words followed by its coefficient words. -/
inductive LedgerRec where
  | state (st cause : Nat) (pend : Option Nat)
  | flight (r : FlightRec)
  | cleared (f mask : Nat)
  | channel (l : List ChanEntry)
  | chainage (cn h : Nat) (inc : Word) (ofs : Nat) (status : Word)
  | queue (f pops : Nat) (p0 : Option Nat) (released : Bool) (flush : Bool) (segs : List (List Word))
  | manAdd (handle seq : Nat) (w : List Word)
  | manCancel (handle : Nat)
  | manFire (handle status : Nat)
  | publication (status : Nat) (segs : List (Nat × List (List Word)))
  | config (id crc : Word)
  deriving DecidableEq, Repr

/-- A LEDGER frame (R442, R444): pound, PART, LAST, the payload's bytes and the records it completes. -/
structure LedgerFrame where
  h : AquHead
  pound : Word
  part : Nat
  last : Bool
  bytes : Nat
  recs : List LedgerRec
  deriving DecidableEq, Repr

/-- A flight in a snapshot (R457): its status words, x̂, u, set-points, limiter steps and targets, its queue, and the
changes of mode that wait: the pounds from which a start and a resume count, a stop and a hold. -/
structure FlightSnap where
  f : Nat
  stat : Word
  stat2 : Word
  x : List Int
  u : List Int
  r : List Int
  s : List Int
  tgt : List Int
  queue : List (List Word)
  startAt : Option Nat
  resumeAt : Option Nat
  ramp : Bool
  hold : Bool
  deriving DecidableEq, Repr

/-- The dynamic state frozen at a boundary for a twin in RESYNC (R457): operating state, flights with limiters, queues
and regions, the Manifest's armed entries as handle, sequence number and words and its waiting ones as handle and words,
the chainage interpolator, the channels and the epoch. -/
structure Snapshot where
  pound : Word
  state : Nat
  cause : Nat
  flights : List FlightSnap
  man : List (Nat × Nat × List Word)
  waiting : List (Nat × List Word)
  manSeq : Nat
  levels : Nat
  ofs : Nat
  h : Nat
  acc : Nat
  inc : Word
  chnStatus : Word
  chans : List ChanEntry
  deriving DecidableEq, Repr

/-- The content of a BULK frame or transfer (R436, R439, R457): words of a configuration memory (0 Lock window, 1 bank
memory, 2 Sluice window, 3 planner window) at an offset, a word of a configuration register, or a snapshot. -/
inductive BulkData where
  | memory (which off : Nat) (ws : List Word)
  | register (off : Nat) (w : Word)
  | snapshot (s : Snapshot)
  deriving DecidableEq, Repr

/-- A BULK frame (R439). The frames of a snapshot but the last carry their part of it, the last one makes it whole. -/
structure BulkFrame where
  h : AquHead
  last : Bool
  data : BulkData
  deriving DecidableEq, Repr

/-- What a MAC's PHY reports (R476): the link, 1,000 and not 100 Mbit/s, full duplex. -/
structure MacLink where
  up : Bool
  gigabit : Bool
  full : Bool
  deriving DecidableEq, Repr

/-- A read request for BAR0 registers (R463): the first offset and the number of DWs. -/
structure RegRead where
  off : Nat
  ndw : Nat
  deriving DecidableEq, Repr

/-- What the boot ROM meets (R506, R509): bytes an external programmer has put into the flash, whether the flash
answered, and whether SRAM initialisation was free of uncorrectable errors. -/
structure BootEnv where
  flash : List (Nat × List Byte)
  flashOk : Bool
  sramOk : Bool
  deriving DecidableEq, Repr

end Sys2Proof.Machine

namespace Sys2Proof
open Machine

/-- A command of the block: one constructor per row of the table of operations and events. -/
inductive Instr where
  /-- POUND_BOUNDARY (R23). -/
  | poundBoundary (e : BoundaryEnv)
  /-- PHASE_CORRECTION (R19). -/
  | phaseCorrection (t : Nat)
  /-- SYS_POUND_CFG_WRITE (R36). -/
  | sysPoundCfgWrite (t : Nat) (ifc : Iface) (off : Fin 2) (v : Word)
  /-- COMMAND_RELEASE (R23). -/
  | commandRelease (e : ReleaseEnv)
  /-- FLIGHT_UPDATE_START (R53). -/
  | flightUpdateStart (t : Nat) (f : Fin 32)
  /-- FLIGHT_UPDATE_COMPLETE (R54). -/
  | flightUpdateComplete (t : Nat) (f : Fin 32) (ecc : BankEcc)
  /-- CYCLE_MARK_FIRE (R27). -/
  | cycleMarkFire (m : Fin 32)
  /-- SYS_CMARK_WRITE (R28). -/
  | sysCmarkWrite (t : Nat) (ifc : Iface) (m : Fin 32) (v : Word)
  /-- RESEED_RETRY (R151). -/
  | reseedRetry (t : Nat) (f : Fin 32)
  /-- RESEED_TIMEOUT (R84). -/
  | reseedTimeout (f : Fin 32)
  /-- BANK_POINTER_CHECK_DONE (R86). -/
  | bankPointerCheckDone (t : Nat) (f : Fin 32) (slot : Fin 16)
  /-- POS_CHN_CFG_WRITE (R94). -/
  | posChnCfgWrite (t : Nat) (ifc : Iface) (off : Fin 2) (v : Word)
  /-- CHN_STANDSTILL (R97). -/
  | chnStandstill (t : Nat)
  /-- MANIFEST_ARM (R111). -/
  | manifestArm (t : Nat)
  /-- MANIFEST_FIRE (R112). -/
  | manifestFire (t : Nat)
  /-- OUT_PULSE_END (R114). -/
  | outPulseEnd (line : Fin 8)
  /-- CANCEL_TICK (R116). -/
  | cancelTick (t : Nat)
  /-- DISPATCH (R419). -/
  | dispatch (t : Nat) (worker : Fin 70)
  /-- TRIGGER_LATCH_RETRY (R417). -/
  | triggerLatchRetry (t : Nat) (chain : Fin 64)
  /-- JOB_COMPLETE (R135). -/
  | jobComplete (t : Nat) (slot : Fin 256) (fault : JobFault)
  /-- JOB_DEADLINE (R138). -/
  | jobDeadline (slot : Fin 256)
  /-- QP_ITERATION_END (R171). -/
  | qpIterationEnd (t : Nat) (slot : Fin 256)
  /-- BSN_RD_SEL_WRITE (R147). -/
  | bsnRdSelWrite (t : Nat) (ifc : Iface) (v : Word)
  /-- BSN_RD_WIN_READ (R147). -/
  | bsnRdWinRead (t : Nat) (ifc : Iface) (w : Fin 1024)
  /-- PLAN_BUILD_COMPLETE (R159). -/
  | planBuildComplete (t : Nat)
  /-- ABZ_EDGE (R193). -/
  | abzEdge (t : Nat) (k : Fin 32) (a : Bool) (b : Bool) (z : Bool)
  /-- CHANNEL_SAMPLE (R190). -/
  | channelSample (t : Nat) (ch : Fin 256)
  /-- SERIAL_TRANSFER_START (R197). -/
  | serialTransferStart (t : Nat) (p : Fin 16)
  /-- SERIAL_READING_CHECK (R198). -/
  | serialReadingCheck (t : Nat) (p : Fin 16) (r : SerialReading)
  /-- SERIAL_TIMEOUT (R198). -/
  | serialTimeout (t : Nat) (p : Fin 16)
  /-- INDEX_EVENT (R201). -/
  | indexEvent (t : Nat) (ch : Fin 256)
  /-- IDX_ARM (R202). -/
  | idxArm (t : Nat) (ifc : Iface) (ch : Fin 256)
  /-- POS_CH_CFG_WRITE (R191). -/
  | posChCfgWrite (t : Nat) (ifc : Iface) (off : Nat) (v : Word)
  /-- PD_OUTPUT_EDGE (R210). -/
  | pdOutputEdge (t : Nat) (d : Fin 8)
  /-- POS_PD_CFG_WRITE (R211). -/
  | posPdCfgWrite (t : Nat) (ifc : Iface) (d : Fin 8) (v : Word)
  /-- RECEIVER_UP (R215). -/
  | receiverUp (t : Nat) (p : Fin 64)
  /-- RECEIVER_DOWN (R215): `errs`, what the receiver found. -/
  | receiverDown (t : Nat) (p : Fin 64) (errs : RxErrors)
  /-- POLL_SEND (R250). -/
  | pollSend (t : Nat) (entry : Fin 4096) (rx : Option (Nat × Option Nat))
  /-- REPLY_RECEIVED (R252). -/
  | replyReceived (t : Nat) (p : Fin 64) (fr : TowFrame)
  /-- REPLY_WINDOW_CLOSE (R252). -/
  | replyWindowClose (t : Nat) (entry : Fin 4096)
  /-- REFERENCE_RECEIVED (R263). -/
  | referenceReceived (t : Nat) (p : Fin 64) (fr : TowFrame)
  /-- MGMT_SEND (R251). -/
  | mgmtSend (t : Nat) (entry : Fin 4096) (rx : Option (Nat × Option Nat))
  /-- MGMT_RSP_RECEIVED (R251). -/
  | mgmtRspReceived (t : Nat) (p : Fin 64) (fr : TowFrame)
  /-- MGMT_WINDOW_CLOSE (R251). -/
  | mgmtWindowClose (t : Nat) (p : Fin 64)
  /-- BRINGUP_STEP_LIMIT (R258). -/
  | bringupStepLimit (t : Nat) (p : Fin 64)
  /-- ENUM_WINDOW_END (R260): `n`, the FID of the ENUM whose 20 µs have passed. -/
  | enumWindowEnd (t : Nat) (p : Fin 64) (n : Nat)
  /-- TOW_PORT_CTL_BRINGUP (R258). -/
  | towPortCtlBringup (t : Nat) (ifc : Iface) (p : Fin 64)
  /-- MRG_RST (R253). -/
  | mrgRst (t : Nat) (ifc : Iface) (p : Fin 64)
  /-- LADING_DATA_LO_READ (R243). -/
  | ladingDataLoRead (t : Nat) (ifc : Iface) (l : LadId)
  /-- LADING_FLUSH (R241). -/
  | ladingFlush (t : Nat) (ifc : Iface) (l : LadId)
  /-- FLUSH_TIMEOUT (R241). -/
  | flushTimeout (t : Nat) (l : LadId)
  /-- PTP_SYNC_RECEIVED (R281). -/
  | ptpSyncReceived (t : Nat) (d : Fin 2) (y : PtpSync)
  /-- DELAY_RESP_RECEIVED (R281). -/
  | delayRespReceived (t : Nat) (d : Fin 2) (y : PtpDelay)
  /-- PDELAY_REQ_RECEIVED (R280). -/
  | pdelayReqReceived (t : Nat) (h : PtpHead) (seq : Word)
  /-- SYNC_TIMEOUT (R282). -/
  | syncTimeout (t : Nat) (d : Fin 2)
  /-- HOLD_LIM_EXPIRY (R282). -/
  | holdLimExpiry (t : Nat) (d : Fin 2)
  /-- REVERT_TIMER (R284). -/
  | revertTimer (t : Nat)
  /-- CORR_SLEW (R286). -/
  | corrSlew (t : Nat)
  /-- SNAP (R278). -/
  | snap (t : Nat) (ifc : Iface)
  /-- TIM_USER_CFG_WRITE (R276). -/
  | timUserCfgWrite (t : Nat) (ifc : Iface) (u : Fin 2) (v : Word)
  /-- TIM_USER_OFS_HI_WRITE (R276). -/
  | timUserOfsHiWrite (t : Nat) (ifc : Iface) (u : Fin 2) (v : Word)
  /-- TB_READ (R277). -/
  | tbRead (t : Nat) (ifc : Iface) (k : Fin 8)
  /-- WIDE_VALUE_LO_READ (R9). -/
  | wideValueLoRead (t : Nat) (ifc : Iface) (r : RegRead)
  /-- RC_FIELD_READ (R6). -/
  | rcFieldRead (t : Nat) (ifc : Iface) (r : RegRead)
  /-- FRAME_STAMP (R288). -/
  | frameStamp (t : Nat) (m : Fin 2) (aborted : Bool)
  /-- TIM_TALLY_W0_READ (R290). -/
  | timTallyW0Read (t : Nat) (ifc : Iface)
  /-- SLUICE_STAGE_END (R308): `ecc`, the memory errors the stage's kernel read. -/
  | sluiceStageEnd (t : Nat) (core : Fin 4) (ecc : StageEcc)
  /-- CHAIN_DEADLINE (R309). -/
  | chainDeadline (core : Fin 4)
  /-- SLU_MEM_APPLY (R310). -/
  | sluMemApply (t : Nat) (core : Fin 4)
  /-- SLU_CAP_CFG_WRITE (R298). -/
  | sluCapCfgWrite (t : Nat) (ifc : Iface) (off : Nat) (v : Word)
  /-- ADC_RUN_START (R321). -/
  | adcRunStart (t : Nat) (x : Fin 2) (inj : Bool)
  /-- ADC_CONVERSION_END (R325): the voltages in nV at the 24 inputs at the sampling instant. -/
  | adcConversionEnd (t : Nat) (x : Fin 2) (ains : List Int)
  /-- COMPARATOR_CROSSING (R327): the voltage in nV at the input over the filter's ticks. -/
  | comparatorCrossing (t : Nat) (k : Fin 8) (v : Int)
  /-- REG_GO (R321). -/
  | regGo (t : Nat) (ifc : Iface) (x : Fin 2)
  /-- INJ_GO (R321). -/
  | injGo (t : Nat) (ifc : Iface) (x : Fin 2)
  /-- ADC_CMP_WRITE (R328). -/
  | adcCmpWrite (t : Nat) (ifc : Iface) (k : Fin 8) (v : Word)
  /-- GAU_CTL_ARM (R337). -/
  | gauCtlArm (t : Nat) (ifc : Iface)
  /-- GAU_CTL_STOP (R337). -/
  | gauCtlStop (t : Nat) (ifc : Iface)
  /-- GAU_CTL_FORCE (R336). -/
  | gauCtlForce (t : Nat) (ifc : Iface)
  /-- MEMORY_RESERVED (R338). -/
  | memoryReserved (t : Nat)
  /-- GAUGE_SAMPLE (R332). -/
  | gaugeSample (t : Nat)
  /-- FINISH_END (R337). -/
  | finishEnd (t : Nat)
  /-- GAU_REL_WRITE (R343). -/
  | gauRelWrite (t : Nat) (ifc : Iface) (v : Word)
  /-- WEIR_TICK_MISSING (R347). -/
  | weirTickMissing (t : Nat)
  /-- WEIR_CLOCK_INTERVAL (R347). -/
  | weirClockInterval (t : Nat) (ticks : Nat)
  /-- SAFE_INPUT_SAMPLE (R351). -/
  | safeInputSample (t : Nat) (pinsA : PinLevels) (pinsB : PinLevels)
  /-- FAST_DEMAND (R352). -/
  | fastDemand (t : Nat) (k : Fin 24) (chB : Bool)
  /-- TEST_PULSE_START (R353). -/
  | testPulseStart (t : Nat) (k : Fin 8)
  /-- TEST_PULSE_END (R353). -/
  | testPulseEnd (t : Nat) (k : Fin 8) (pinsA : PinLevels) (pinsB : PinLevels) (tpLevel : Bool)
  /-- SS1_EXPIRY (R364). -/
  | ss1Expiry (t : Nat) (g : Fin 16)
  /-- PSET_CHECK_COMPLETE (R375). -/
  | psetCheckComplete (e : CheckEnd)
  /-- CONFIRM_WINDOW_EXPIRY (R376). -/
  | confirmWindowExpiry (t : Nat)
  /-- PSET_FLASH_WRITE_DONE (R376). -/
  | psetFlashWriteDone (t : Nat) (ok : Bool)
  /-- PSET_CRC_RECHECK (R376). -/
  | psetCrcRecheck (t : Nat) (okA : Bool) (okB : Bool)
  /-- SAFETY_DATAGRAM_RECEIVED (R388). -/
  | safetyDatagramReceived (t : Nat) (m : Fin 2) (bytes : List Byte)
  /-- SAFETY_WATCHDOG_EXPIRY (R391). -/
  | safetyWatchdogExpiry (t : Nat) (conn : Fin 256)
  /-- HEAD_COMPUTATION (R425). -/
  | headComputation (t : Nat) (r : HeadReadings)
  /-- BUDGET_HIT (R424). -/
  | budgetHit (t : Nat) (cls : Fin 10)
  /-- JOIN_END (R435). -/
  | joinEnd (t : Nat)
  /-- HELLO_SEND (R457). -/
  | helloSend (t : Nat)
  /-- HELLO_RECEIVED (R435). -/
  | helloReceived (t : Nat) (h : Hello)
  /-- AQUEDUCT_LINK_UP (R438). -/
  | aqueductLinkUp (t : Nat)
  /-- AQUEDUCT_LINK_DOWN (R438). -/
  | aqueductLinkDown (t : Nat) (lanes : Fin 16)
  /-- SYNC_RECEIVED (R440). -/
  | syncReceived (t : Nat) (y : AquSync)
  /-- HEARTBEAT_RECEIVED (R441). -/
  | heartbeatReceived (t : Nat) (h : Heartbeat)
  /-- HB_CHK (R441). -/
  | hbChk (t : Nat)
  /-- REF_CHECK (R447). -/
  | refCheck (t : Nat)
  /-- LEDGER_FRAME_RECEIVED (R444). -/
  | ledgerFrameReceived (t : Nat) (fr : LedgerFrame)
  /-- ACK_RECEIVED (R444). -/
  | ackReceived (t : Nat) (h : AquHead) (pound : Word)
  /-- NAK_RECEIVED (R444). -/
  | nakReceived (t : Nat) (h : AquHead) (pound : Word)
  /-- FAIL_RECEIVED (R448). -/
  | failReceived (t : Nat) (h : AquHead) (code : Nat)
  /-- HEALTH_RECEIVED (R456). -/
  | healthReceived (t : Nat) (h : AquHead) (w : List Word)
  /-- BULK_RECEIVED (R457). -/
  | bulkReceived (t : Nat) (b : BulkFrame)
  /-- RESYNC_RESTART (R457). -/
  | resyncRestart (t : Nat)
  /-- PCIE_RESET (R462). -/
  | pcieReset (t : Nat) (kind : PcieReset)
  /-- BAR0_WRITE (R463). -/
  | bar0Write (t : Nat) (off : Nat) (vs : List Word)
  /-- SQ_DOORBELL (R469). -/
  | sqDoorbell (t : Nat) (ifc : Iface) (v : Word)
  /-- SQ_FETCH (R469). -/
  | sqFetch (t : Nat) (pkt : Option (List Word))
  /-- COMPLETION_POST (R471). -/
  | completionPost (t : Nat) (dmaOk : Bool)
  /-- CQ_HEAD_WRITE (R471). -/
  | cqHeadWrite (t : Nat) (ifc : Iface) (v : Word)
  /-- RING_ENABLE (R472). -/
  | ringEnable (t : Nat) (ifc : Iface) (v : Word)
  /-- VEC_REARM (R475). -/
  | vecRearm (t : Nat) (ifc : Iface) (v : Word)
  /-- UDP_COMMAND_RECEIVED (R492). -/
  | udpCommandReceived (t : Nat) (m : Fin 2) (src : UdpSrc) (bytes : List Byte)
  /-- ETH_FRAME_RECEIVED (R476). -/
  | ethFrameReceived (t : Nat) (m : Fin 2) (fr : EthFrame)
  /-- ARP_RECEIVED (R477). -/
  | arpReceived (t : Nat) (m : Fin 2) (a : ArpFrame)
  /-- ARP_TIMEOUT (R477). -/
  | arpTimeout (t : Nat) (m : Fin 2)
  /-- ARP_REFRESH (R477). -/
  | arpRefresh (t : Nat) (m : Fin 2) (k : Fin 16)
  /-- MAC_LINK_CHANGE (R481). -/
  | macLinkChange (t : Nat) (m : Fin 2) (k : MacLink)
  /-- MDIO_GO (R481). -/
  | mdioGo (t : Nat) (ifc : Iface) (v : Word)
  /-- MDIO_DONE (R481). -/
  | mdioDone (t : Nat) (data : BitVec 16)
  /-- SPI_WRITE (R493). -/
  | spiWrite (t : Nat) (bytes : List Byte)
  /-- SPI_READ (R493). -/
  | spiRead (t : Nat) (n : Nat)
  /-- SPI_STATUS (R493). -/
  | spiStatus (t : Nat)
  /-- FAST_STATUS_UPDATE (R480). -/
  | fastStatusUpdate
  /-- GET_INFO (R496). -/
  | getInfo (t : Nat) (ifc : Iface) (tag : Word) (target : Word) (pl : List Word)
  /-- SET_STATE (R31). -/
  | setState (t : Nat) (ifc : Iface) (tag : Word) (target : Word) (pl : List Word)
  /-- RESET (R496). -/
  | reset (t : Nat) (ifc : Iface) (tag : Word) (target : Word) (pl : List Word)
  /-- REG_READ (R496). -/
  | regRead (t : Nat) (ifc : Iface) (tag : Word) (target : Word) (pl : List Word)
  /-- REG_WRITE (R496). -/
  | regWrite (t : Nat) (ifc : Iface) (tag : Word) (target : Word) (pl : List Word)
  /-- IMG_BEGIN (R496). -/
  | imgBegin (t : Nat) (ifc : Iface) (tag : Word) (target : Word) (pl : List Word)
  /-- IMG_DATA (R496). -/
  | imgData (t : Nat) (ifc : Iface) (tag : Word) (target : Word) (pl : List Word)
  /-- IMG_COMMIT (R499). -/
  | imgCommit (t : Nat) (ifc : Iface) (tag : Word) (target : Word) (pl : List Word)
  /-- IMG_CHECK_COMPLETE (R499). -/
  | imgCheckComplete (t : Nat)
  /-- IMG_STATUS (R496). -/
  | imgStatus (t : Nat) (ifc : Iface) (tag : Word) (target : Word) (pl : List Word)
  /-- CFG_READ (R496). -/
  | cfgRead (t : Nat) (ifc : Iface) (tag : Word) (target : Word) (pl : List Word)
  /-- CFG_WRITE (R496). -/
  | cfgWrite (t : Nat) (ifc : Iface) (tag : Word) (target : Word) (pl : List Word)
  /-- FLIGHT_START (R63). -/
  | flightStart (t : Nat) (ifc : Iface) (tag : Word) (target : Word) (pl : List Word)
  /-- FLIGHT_HOLD (R63). -/
  | flightHold (t : Nat) (ifc : Iface) (tag : Word) (target : Word) (pl : List Word)
  /-- FLIGHT_RESUME (R63). -/
  | flightResume (t : Nat) (ifc : Iface) (tag : Word) (target : Word) (pl : List Word)
  /-- FLIGHT_STOP (R63). -/
  | flightStop (t : Nat) (ifc : Iface) (tag : Word) (target : Word) (pl : List Word)
  /-- CLEAR_FLAGS (R71). -/
  | clearFlags (t : Nat) (ifc : Iface) (tag : Word) (target : Word) (pl : List Word)
  /-- SELECT_BANK (R75). -/
  | selectBank (t : Nat) (ifc : Iface) (tag : Word) (target : Word) (pl : List Word)
  /-- BANK_LOAD (R85). -/
  | bankLoad (t : Nat) (ifc : Iface) (tag : Word) (target : Word) (pl : List Word)
  /-- FLIGHT_STATUS (R496). -/
  | flightStatus (t : Nat) (ifc : Iface) (tag : Word) (target : Word) (pl : List Word)
  /-- TRAJ_APPEND (R103). -/
  | trajAppend (t : Nat) (ifc : Iface) (tag : Word) (target : Word) (pl : List Word)
  /-- TRAJ_FLUSH (R103). -/
  | trajFlush (t : Nat) (ifc : Iface) (tag : Word) (target : Word) (pl : List Word)
  /-- TASK_SET (R497). -/
  | taskSet (t : Nat) (ifc : Iface) (tag : Word) (target : Word) (pl : List Word)
  /-- TASK_CLEAR (R496). -/
  | taskClear (t : Nat) (ifc : Iface) (tag : Word) (target : Word) (pl : List Word)
  /-- MANIFEST_ADD (R111). -/
  | manifestAdd (t : Nat) (ifc : Iface) (tag : Word) (target : Word) (pl : List Word)
  /-- MANIFEST_CANCEL (R116). -/
  | manifestCancel (t : Nat) (ifc : Iface) (tag : Word) (target : Word) (pl : List Word)
  /-- CHAIN_ALIGN (R101). -/
  | chainAlign (t : Nat) (ifc : Iface) (tag : Word) (target : Word) (pl : List Word)
  /-- MANIFEST_LIST (R496). -/
  | manifestList (t : Nat) (ifc : Iface) (tag : Word) (target : Word) (pl : List Word)
  /-- TOW_MGMT (R496). -/
  | towMgmt (t : Nat) (ifc : Iface) (tag : Word) (target : Word) (pl : List Word)
  /-- TOW_BARGE_INFO (R496). -/
  | towBargeInfo (t : Nat) (ifc : Iface) (tag : Word) (target : Word) (pl : List Word)
  /-- TIME_SNAP (R278). -/
  | timeSnap (t : Nat) (ifc : Iface) (tag : Word) (target : Word) (pl : List Word)
  /-- DOMAIN_STATUS (R496). -/
  | domainStatus (t : Nat) (ifc : Iface) (tag : Word) (target : Word) (pl : List Word)
  /-- FRAME_SEND (R478). -/
  | frameSend (t : Nat) (ifc : Iface) (tag : Word) (target : Word) (pl : List Word)
  /-- BSN_SUBMIT (R131). -/
  | bsnSubmit (t : Nat) (ifc : Iface) (tag : Word) (target : Word) (pl : List Word)
  /-- BSN_READ (R496). -/
  | bsnRead (t : Nat) (ifc : Iface) (tag : Word) (target : Word) (pl : List Word)
  /-- BSN_CANCEL (R143). -/
  | bsnCancel (t : Nat) (ifc : Iface) (tag : Word) (target : Word) (pl : List Word)
  /-- BSN_MEM_WRITE (R128). -/
  | bsnMemWrite (t : Nat) (ifc : Iface) (tag : Word) (target : Word) (pl : List Word)
  /-- BSN_MEM_READ (R496). -/
  | bsnMemRead (t : Nat) (ifc : Iface) (tag : Word) (target : Word) (pl : List Word)
  /-- SLU_CHAIN_LOAD (R307). -/
  | sluChainLoad (t : Nat) (ifc : Iface) (tag : Word) (target : Word) (pl : List Word)
  /-- SLU_PICK_LOAD (R312). -/
  | sluPickLoad (t : Nat) (ifc : Iface) (tag : Word) (target : Word) (pl : List Word)
  /-- SLU_TRIGGER (R308). -/
  | sluTrigger (t : Nat) (ifc : Iface) (tag : Word) (target : Word) (pl : List Word)
  /-- SLU_ABORT (R309). -/
  | sluAbort (t : Nat) (ifc : Iface) (tag : Word) (target : Word) (pl : List Word)
  /-- SLU_MEM_WRITE (R310). -/
  | sluMemWrite (t : Nat) (ifc : Iface) (tag : Word) (target : Word) (pl : List Word)
  /-- SLU_MEM_READ (R496). -/
  | sluMemRead (t : Nat) (ifc : Iface) (tag : Word) (target : Word) (pl : List Word)
  /-- GAU_ARM (R344). -/
  | gauArm (t : Nat) (ifc : Iface) (tag : Word) (target : Word) (pl : List Word)
  /-- GAU_STOP (R337). -/
  | gauStop (t : Nat) (ifc : Iface) (tag : Word) (target : Word) (pl : List Word)
  /-- GAU_FORCE (R336). -/
  | gauForce (t : Nat) (ifc : Iface) (tag : Word) (target : Word) (pl : List Word)
  /-- GAU_RELEASE (R343). -/
  | gauRelease (t : Nat) (ifc : Iface) (tag : Word) (target : Word) (pl : List Word)
  /-- GAU_READ (R496). -/
  | gauRead (e : ReadEnv) (ifc : Iface) (tag : Word) (target : Word) (pl : List Word)
  /-- WEIR_PSET_LOAD (R375). -/
  | weirPsetLoad (t : Nat) (ifc : Iface) (tag : Word) (target : Word) (pl : List Word)
  /-- WEIR_PSET_CONFIRM (R376). -/
  | weirPsetConfirm (t : Nat) (ifc : Iface) (tag : Word) (target : Word) (pl : List Word)
  /-- WEIR_TRIP (R363). -/
  | weirTrip (t : Nat) (ifc : Iface) (tag : Word) (target : Word) (pl : List Word)
  /-- WEIR_STATUS (R496). -/
  | weirStatus (t : Nat) (ifc : Iface) (tag : Word) (target : Word) (pl : List Word)
  /-- TWIN_STATUS (R496). -/
  | twinStatus (t : Nat) (ifc : Iface) (tag : Word) (target : Word) (pl : List Word)
  /-- TWIN_HANDOVER (R451). -/
  | twinHandover (t : Nat) (ifc : Iface) (tag : Word) (target : Word) (pl : List Word)
  /-- HEAD_STATUS (R432). -/
  | headStatus (t : Nat) (ifc : Iface) (tag : Word) (target : Word) (pl : List Word)
  /-- BUDGET_SET (R429). -/
  | budgetSet (t : Nat) (ifc : Iface) (tag : Word) (target : Word) (pl : List Word)
  /-- LKP_STATS (R431). -/
  | lkpStats (t : Nat) (ifc : Iface) (tag : Word) (target : Word) (pl : List Word)
  /-- LOG_STATUS (R524). -/
  | logStatus (t : Nat) (ifc : Iface) (tag : Word) (target : Word) (pl : List Word)
  /-- LOG_READ (R496). -/
  | logRead (t : Nat) (ifc : Iface) (tag : Word) (target : Word) (pl : List Word)
  /-- LOG_FREEZE (R519). -/
  | logFreeze (t : Nat) (ifc : Iface) (tag : Word) (target : Word) (pl : List Word)
  /-- LOG_RELEASE (R520). -/
  | logRelease (t : Nat) (ifc : Iface) (tag : Word) (target : Word) (pl : List Word)
  /-- LOG_SAVE (R521). -/
  | logSave (t : Nat) (ifc : Iface) (tag : Word) (target : Word) (pl : List Word)
  /-- ECHO (R496). -/
  | echo (t : Nat) (ifc : Iface) (tag : Word) (target : Word) (pl : List Word)
  /-- CMD_STATS (R501). -/
  | cmdStats (t : Nat) (ifc : Iface) (tag : Word) (target : Word) (pl : List Word)
  /-- VIN_RISE (R502): `t`, the rise. -/
  | vinRise (t : VinRise)
  /-- RESET_N (R510). -/
  | resetN (t : Nat) (low : Bool)
  /-- BOOT_VERIFY_COMPLETE (R506). -/
  | bootVerifyComplete (t : Nat) (b : BootEnv)
  /-- BROWNOUT (R511). -/
  | brownout (t : Nat)
  /-- VIN_RET_LOSS (R511). -/
  | vinRetLoss (t : Nat)
  /-- WATCHDOG_EXPIRY (R511). -/
  | watchdogExpiry (t : Nat) (pair : Fin 2)
  /-- LOCKSTEP_ERROR (R511). -/
  | lockstepError (t : Nat) (pair : Fin 2)
  /-- THERMAL_HOLD (R538). -/
  | thermalHold (t : Nat)
  /-- THERMAL_HOLD_END (R538). -/
  | thermalHoldEnd (t : Nat)
  /-- LOG_SNAPSHOT_PROBE (R516). -/
  | logSnapshotProbe
  /-- LOG_SLOT_COMPLETE (R516). -/
  | logSlotComplete (t : Nat)
  /-- LOG_SAVE_COMPLETE (R521). -/
  | logSaveComplete (t : Nat) (ok : Bool)
  /-- SPARE_ERASE_DONE (R521). -/
  | spareEraseDone (t : Nat)
  /-- JTAG_INSTRUCTION (R542). -/
  | jtagInstruction (t : Nat) (ir : BitVec 6)
  /-- CHAINAGE_COUNT_RISE (R209). -/
  | chainageCountRise (t : Nat)
  /-- DELAY_REQ_INTERVAL (R280). -/
  | delayReqInterval (t : Nat) (d : Fin 2)
  /-- WEIR_INTERNAL_FAULT (R363). -/
  | weirInternalFault (t : Nat) (src : WeirFaultSrc)
  /-- SRAM_SCRUB (R540). -/
  | sramScrub (t : Nat) (owner : Fin 12) (ue : Bool) (addr : Nat)
  /-- BIST_PASS_COMPLETE (R455). -/
  | bistPassComplete (t : Nat) (failed : Bool)
  /-- CLOCK_RETURN (R534). -/
  | clockReturn (t : Nat)
  /-- TESTMODE_CHANGE (R542). -/
  | testmodeChange (t : Nat) (high : Bool)
  /-- BAR2_ACCESS (R467). -/
  | bar2Access (t : Nat) (off : Nat) (write : Bool) (ndw : Nat) (ue : List Nat)
  /-- PCIE_LINK_UP (R461). -/
  | pcieLinkUp (t : Nat) (width2 : Bool) (speed : Fin 4)
  deriving DecidableEq, Repr

end Sys2Proof
end

