-- ==== Sys2Proof/Decode.lean ====
section
/-! DEFINITION. The commands that a word of the opcode table spells. The table of this block gives its rows no bits: its
rows are operations and events, and a host command's packet is read where it arrives (Machine/Cmd.lean). -/

namespace Sys2Proof

/-- The command spelt by the table's bits: no row has any, so no word spells one. -/
def decodeTableWord (_nbits _w : Nat) : Option Instr := none

end Sys2Proof
end

