-- ==== Sys2Proof/Machine/Float.lean ====
section
/-! DEFINITION. IEEE 754 binary32 arithmetic as the spec's blocks use it: round to nearest, ties to even; a subnormal
operand is read as zero of the same sign and a subnormal result is replaced by zero of the same sign (R105, R125).
A binary32 value is its 32-bit word, as a number. An exponent field of 255 in a result marks an overflow. -/

namespace Sys2Proof.Machine

/-- Integer square root, one bit at a time from bit `k` down. -/
def isqrtGo : Nat → Nat → Nat → Nat
  | 0, _, r => r
  | k + 1, n, r => if (r + 2 ^ k) * (r + 2 ^ k) ≤ n then isqrtGo k n (r + 2 ^ k) else isqrtGo k n r

/-- The largest integer whose square is at most `n`. -/
def isqrt (n : Nat) : Nat := isqrtGo (Nat.log2 n / 2 + 1) n 0

/-- The sign bit. -/
def fSign (w : Nat) : Bool := w.testBit 31
/-- The exponent field. -/
def fExp (w : Nat) : Nat := bits w 30 23
/-- The fraction field. -/
def fFrac (w : Nat) : Nat := bits w 22 0
/-- Neither an infinity nor a NaN. -/
def fFinite (w : Nat) : Bool := fExp w != 255
/-- A zero, or a subnormal read as zero. -/
def fZero (w : Nat) : Bool := fExp w == 0
/-- The word of a sign. -/
def fSignBit (s : Bool) : Nat := if s then 2 ^ 31 else 0
/-- The positive infinity; with the sign bit the negative one. -/
def fInf (s : Bool) : Nat := fSignBit s + 255 * 2 ^ 23

/-- A finite value as mantissa and exponent: value = m · 2^e. -/
def fMant (w : Nat) : Int :=
  if fZero w then 0 else if fSign w then -((2 ^ 23 + fFrac w : Nat) : Int) else ((2 ^ 23 + fFrac w : Nat) : Int)
/-- The exponent of the last mantissa bit. -/
def fScale (w : Nat) : Int := (fExp w : Int) - 150

/-- The exact value of a finite word. -/
def fRat (w : Nat) : Rat :=
  let e := fScale w
  if 0 ≤ e then (fMant w : Rat) * ((2 ^ e.toNat : Nat) : Rat) else (fMant w : Rat) / ((2 ^ (-e).toNat : Nat) : Rat)

/-- Rounds n · 2^e, a little more when `sticky`, to binary32 with sign `s`. -/
def fPack (s : Bool) (n : Nat) (e : Int) (sticky : Bool) : Nat :=
  if n = 0 then fSignBit s
  else
    let k := Nat.log2 n + 1
    let sh := k - 24
    let q := n >>> sh
    let r := n % 2 ^ sh
    let half := 2 ^ sh / 2
    let up : Bool :=
      if sh = 0 then false
      else if half < r then true
      else if r < half then false
      else sticky || q % 2 == 1
    let q := q + b2n up
    let e := e + sh
    let n2 := if k < 24 then q * 2 ^ (24 - k) else q
    let e := if k < 24 then e - (24 - k : Nat) else e
    let m := if n2 = 2 ^ 24 then 2 ^ 23 else n2
    let e := if n2 = 2 ^ 24 then e + 1 else e
    let ef := e + 150
    if ef ≤ 0 then fSignBit s
    else if 255 ≤ ef then fInf s
    else fSignBit s + ef.toNat * 2 ^ 23 + (m - 2 ^ 23)

/-- Rounds the exact m · 2^e; an exact zero has sign `zs`. -/
def fRound (m e : Int) (zs : Bool) : Nat :=
  if m = 0 then fSignBit zs else fPack (decide (m < 0)) m.natAbs e false

/-- The exact sum of two scaled integers. -/
def dyAdd (m1 e1 m2 e2 : Int) : Int × Int :=
  if e1 ≤ e2 then (m1 + m2 * (2 ^ (e2 - e1).toNat : Nat), e1) else (m1 * (2 ^ (e1 - e2).toNat : Nat) + m2, e2)

/-- Negation. -/
def fNeg (a : Nat) : Nat := if fSign a then a - 2 ^ 31 else a + 2 ^ 31
/-- Absolute value. -/
def fAbs (a : Nat) : Nat := a % 2 ^ 31

/-- Sum. -/
def fAdd (a b : Nat) : Nat :=
  if !fFinite a then a else if !fFinite b then b
  else
    let r := dyAdd (fMant a) (fScale a) (fMant b) (fScale b)
    fRound r.1 r.2 (fZero a && fZero b && fSign a && fSign b)

/-- Difference. -/
def fSub (a b : Nat) : Nat := fAdd a (fNeg b)

/-- Product. -/
def fMul (a b : Nat) : Nat :=
  let s := fSign a != fSign b
  if !fFinite a || !fFinite b then fInf s
  else fRound (fMant a * fMant b) (fScale a + fScale b) s

/-- Fused multiply-add a·b + c, rounded once. -/
def fFma (a b x : Nat) : Nat :=
  let s := fSign a != fSign b
  if !fFinite a || !fFinite b then fInf s
  else if !fFinite x then x
  else
    let r := dyAdd (fMant a * fMant b) (fScale a + fScale b) (fMant x) (fScale x)
    fRound r.1 r.2 ((fZero a || fZero b) && fZero x && s && fSign x)

/-- Quotient; a zero divisor gives an infinity. -/
def fDiv (a b : Nat) : Nat :=
  let s := fSign a != fSign b
  if !fFinite a || !fFinite b || fZero b then fInf s
  else if fZero a then fSignBit s
  else
    let n := (fMant a).natAbs * 2 ^ 32
    let d := (fMant b).natAbs
    fPack s (2 * (n / d) + b2n (n % d != 0)) (fScale a - fScale b - 33) false

/-- Square root of a value not below zero; a negative one gives an infinity (an invalid operation). -/
def fSqrt (a : Nat) : Nat :=
  if fZero a then fSignBit (fSign a)
  else if fSign a || !fFinite a then fInf (fSign a)
  else
    let e := fScale a
    let sh : Nat := if e % 2 = 0 then 40 else 41
    let n := (fMant a).natAbs * 2 ^ sh
    let r := isqrt n
    fPack false (2 * r + b2n (r * r != n)) ((e - sh) / 2 - 1) false

/-- a < b on finite values. -/
def fLt (a b : Nat) : Bool := decide (fRat a < fRat b)
/-- a ≤ b on finite values. -/
def fLe (a b : Nat) : Bool := decide (fRat a ≤ fRat b)
/-- The larger value. -/
def fMax (a b : Nat) : Nat := if fLt a b then b else a
/-- The smaller value. -/
def fMin (a b : Nat) : Nat := if fLt b a then b else a

/-- An integer rounded to binary32. -/
def fOfInt (i : Int) : Nat := fRound i 0 false

/-- A rational rounded to binary32. -/
def fOfRat (q : Rat) : Nat :=
  if q.num = 0 then 0
  else
    let sh := 64 + Nat.log2 q.den
    let n := q.num.natAbs * 2 ^ sh
    fPack (decide (q.num < 0)) (2 * (n / q.den) + b2n (n % q.den != 0)) (-((sh + 1 : Nat) : Int)) false

/-- The value `k` steps along the binary32 values from a finite `w`, at most an infinity; a subnormal is replaced by zero. -/
def fMove (w : Nat) (k : Int) : Nat :=
  let o : Int := (if fSign w then -(fAbs w : Int) else (fAbs w : Int)) + k
  if fFinite w = false then w
  else if o.natAbs < 2 ^ 23 then 0
  else fSignBit (decide (o < 0)) + min o.natAbs (255 * 2 ^ 23)

/-- The integer nearest to a finite value, ties to even. -/
def fToInt (a : Nat) : Int :=
  let e := fScale a
  if 0 ≤ e then fMant a * (2 ^ e.toNat : Nat) else rdivEven (fMant a) (2 ^ (-e).toNat)

/-- The integer below or at a finite value. -/
def fFloor (a : Nat) : Int :=
  let e := fScale a
  if 0 ≤ e then fMant a * (2 ^ e.toNat : Nat) else asr (fMant a) (-e).toNat

end Sys2Proof.Machine
end

