-- ==== Sys2Proof/Config.lean ====
section
/-! DEFINITION. What an implementation or an integrator fixes, and the values the spec leaves open. Every open value is
an opaque constant: nothing can be proved of what it is, so a statement holds whatever it is. -/

namespace Sys2Proof.Config

/-- The silicon revision HST_ID.REV reports (R481, "silicon"). -/
opaque siliconRev : BitVec 8

/-- The OTP field FW_KEY_HASH the integrator programmed (R508). -/
opaque otpFwKeyHash : BitVec 256
/-- The OTP field SAFETY_KEY_HASH the integrator programmed (R508). -/
opaque otpSafetyKeyHash : BitVec 256
/-- The OTP field SAFETY_SIG_REQ the integrator programmed (R508). -/
opaque otpSafetySigReq : Bool
/-- The OTP thermometer code MIN_SVN as programmed before the first start (R508). -/
opaque otpMinSvn : BitVec 64
/-- The OTP field SUBSYS_ID the integrator programmed (R508). -/
opaque otpSubsysId : BitVec 32
/-- The OTP fields MAC0 and MAC1 the integrator programmed (R508). -/
opaque otpMac : Nat → BitVec 48

/-- The ledger names the BAR0 register at an offset as configuration: R436 and R495 speak of such registers and the spec
lists none. -/
opaque ledgerNames : Nat → Bool

/-- A fresh 32-bit value the spec does not fix, one for each count of the state's `fresh` counter. -/
opaque freeWord : Nat → BitVec 32
/-- A fresh yes-or-no choice the spec does not fix, one for each count of the state's `fresh` counter. -/
opaque freeBool : Nat → Bool

/-- By how many binary32 steps, signed, the element `i` of a column after a Householder reflection lies beside the correctly
rounded exact value (reflected column, its diagonal, target column): R133 names the reflector and not the order of its
roundings. That they amount to less than 2¹⁵ steps is the model's choice (log entry 70). -/
opaque qrSteps : List (BitVec 32) → BitVec 32 → List (BitVec 32) → Nat → BitVec 16
/-- By how many binary32 steps, signed, a value of the planner firmware lies beside the correctly rounded exact value, at a
place of its computation: R162 to R168 and R185 give the values and not the order of the roundings. That they amount to
less than 2¹⁵ steps is the model's choice (log entry 76). -/
opaque fwSteps (place : Nat) (exact : Rat) : BitVec 16
/-- Which of the nearest point pairs of two parallel capsules the firmware takes as witness points, as a place between 0 and 1
on the first (arm entry words, capsule, joint values of each): R167 does not say. -/
opaque witness (arm1 : List (BitVec 32)) (cap1 : Nat) (q1 : List (BitVec 32)) (arm2 : List (BitVec 32)) (cap2 : Nat)
  (q2 : List (BitVec 32)) : Rat
/-- A component of a direction that the geometry leaves open: that between touching capsules (0 to 2) and the axis of half a
turn (3 to 5) (R167, R185). -/
opaque touch (i : Nat) : Rat
/-- Where the firmware lays P, A, the keys and the dual area of a problem block of N and M, in units of 16 bytes from
A_ADDR (R169 fixes only the alignment). -/
opaque planOffset (field n m : Nat) : BitVec 19
/-- Where in the arena the firmware lays the operands of the inverse kinematics of an arm: A at 0, B at 1, in units of 16
bytes (R185). -/
opaque ikAddress (arm field : Nat) : BitVec 19
/-- The relative deadline the firmware gives an inverse-kinematics job (R185). -/
opaque ikDeadline : BitVec 32
/-- SEG_ID of the segment of an arm's knot, 8 the stop tail, in the plan of a pound (R178). -/
opaque planSegId (pound arm knot : Nat) : BitVec 16

/-- The public key of parameter-set signatures, x then y: R374 names the hash it must have and no place it is stored. -/
opaque safetyKey : BitVec 512

/-- The activity class and the priority of the management entry that a cycle mark with T_LKP makes (R415, R416). -/
opaque markClass : Fin 10
opaque markPrio : Fin 8
/-- The priority of firmware's own management work of a class: R414 gives the class only. -/
opaque fwPrio (cls : Nat) : Fin 8

/-- The body words of a ledger record of kind 5, 6 or 8 from what it carries: R443 gives these kinds no layout. -/
opaque ledgerBody (kind : Nat) (content : List (BitVec 32)) : List (BitVec 32)

/-- The Weir speed of a monitor whose WW is 7, from the positions kept: R356 keeps 65 positions, which do not reach
p(n - 128), and R362 gives WW the range 0 to 6. -/
opaque speedWide (hist : List Nat) : Int
/-- Z_R of a parameter set, as the bits of a binary32 below infinity, from the four words at 0x3A04 to 0x3A10: R408 names
five values for these four words. -/
opaque zR (words : List Nat) : Nat

/-- The bit of AQU_INT_STATUS that a change of role sets for which R435 and R459 name none, by the two roles. -/
opaque roleBit (old new : Nat) : Fin 13
/-- The 8-byte offset prefix of a BULK frame, by its region (0 to 3 the configuration memories, 4 the registers, 5 a snapshot)
and the offset in it: R439 does not say what it is an offset in. -/
opaque bulkOffset (region off : Nat) : BitVec 64
/-- The words of a snapshot from what it carries: R457 gives it no layout. -/
opaque snapshotWords (content : List (BitVec 32)) : List (BitVec 32)
/-- The result slot, counted from 64, and the deadline of the TEST jobs of a standby's self-test: R148 leaves firmware's slots
to firmware, R455 names neither. -/
opaque testSlot : Fin 64
opaque testDeadline : BitVec 32

/-- The part, in nV, of a comparator's hysteresis above its threshold, by HYST: R327 does not say where the band lies. -/
opaque hystAbove (hyst : Nat) : Nat

/-- CONFIG_CRC of the shared configuration memories (Lock window, bank memory, Sluice window, planner window): R441 does
not say over which bytes, in which order, it is formed. -/
opaque configCrc (lck bank slu plan : List (Nat × BitVec 8)) : BitVec 32

end Sys2Proof.Config
end

