-- ==== Sys2Proof/Machine/Tab.lean ====
section
/-! DEFINITION. Sparse tables: the one form in which the model holds registers, memories and tables of records. A table
lists (key, value) pairs with keys strictly rising and no entry equal to what an unlisted key reads as. -/

namespace Sys2Proof.Machine

/-- The value at key `i`; an unlisted key reads as `d i`. -/
def tabGet {α : Type} (d : Nat → α) : List (Nat × α) → Nat → α
  | [], i => d i
  | (k, v) :: t, i => if k = i then v else tabGet d t i

/-- The table without key `i`. -/
def tabDel {α : Type} (i : Nat) (t : List (Nat × α)) : List (Nat × α) := t.filter (fun e => e.1 != i)

/-- The table with key `i` holding `v`; the value an unlisted key reads as is not listed. -/
def tabPut {α : Type} [DecidableEq α] (d : Nat → α) (i : Nat) (v : α) : List (Nat × α) → List (Nat × α)
  | [] => if v = d i then [] else [(i, v)]
  | (k, w) :: t =>
    if k = i then tabPut d i v t
    else if i < k then (if v = d i then (k, w) :: tabDel i t else (i, v) :: (k, w) :: tabDel i t)
    else (k, w) :: tabPut d i v t

/-- Canonical form above a bound: keys at least `lo`, strictly rising, no value equal to the unlisted one. -/
def tabWfFrom {α : Type} [DecidableEq α] (d : Nat → α) : Nat → List (Nat × α) → Bool
  | _, [] => true
  | lo, (k, v) :: t => decide (lo ≤ k) && decide (v ≠ d k) && tabWfFrom d (k + 1) t

/-- Canonical form of a table. -/
def tabWf {α : Type} [DecidableEq α] (d : Nat → α) (t : List (Nat × α)) : Bool := tabWfFrom d 0 t

/-- A run of bytes read from a memory whose unlisted bytes read `d`. -/
def memBytes (d : Byte) (m : List (Nat × Byte)) (a n : Nat) : List Byte :=
  (List.range n).map (fun i => tabGet (fun _ => d) m (a + i))

/-- The memory with a run of bytes written from address `a` up. -/
def memWrite (d : Byte) (a : Nat) : List Byte → List (Nat × Byte) → List (Nat × Byte)
  | [], m => m
  | b :: t, m => memWrite d (a + 1) t (tabPut (fun _ => d) a b m)

/-- The little-endian 32-bit word at byte address `a` (R4). -/
def memWord (d : Byte) (m : List (Nat × Byte)) (a : Nat) : Word := w32 (leNat (memBytes d m a 4))

/-- The little-endian halfword at byte address `a` (R4). -/
def memHalf (d : Byte) (m : List (Nat × Byte)) (a : Nat) : Nat := leNat (memBytes d m a 2)

/-- `n` words from byte address `a`. -/
def memWords (d : Byte) (m : List (Nat × Byte)) (a n : Nat) : List Word :=
  (List.range n).map (fun i => memWord d m (a + 4 * i))

/-- The memory with words written from byte address `a` up. -/
def memWriteWords (d : Byte) (a : Nat) (ws : List Word) (m : List (Nat × Byte)) : List (Nat × Byte) :=
  memWrite d a (wordsBytes ws) m

/-- The entries of a table whose keys lie in [lo, hi) removed: those keys read as unlisted. -/
def tabClear {α : Type} (lo hi : Nat) (t : List (Nat × α)) : List (Nat × α) :=
  t.filter (fun e => decide (e.1 < lo ∨ hi ≤ e.1))

end Sys2Proof.Machine
end

