-- ==== Sys2Proof/Machine/Regs.lean ====
section
/-! DEFINITION. The BAR0 register map of the device: for every register of the spec's register tables its BAR0
offset (R464, R465), its fields (R3) and, for the generic accesses of R5, the masks of its RW, W1C, RC and WO bits
and its reset word. Written from the register tables of the chapters, laid out in the order R465 states. -/

namespace Sys2Proof.Machine

/-- A field of a BAR0 register: the register's offset and the field's bit range [hi:lo] (R3). -/
structure Fld where
  off : Nat
  hi : Nat
  lo : Nat
  deriving DecidableEq, Repr

/-- One line of the register map: `count` words from `base`, `stride` bytes apart, all of one layout.
`rw`, `w1c`, `rc` and `wo` mark the bits of each access code of R5; `reset` is the reset word. -/
structure RegRow where
  base : Nat
  stride : Nat
  count : Nat
  rw : Nat
  w1c : Nat
  rc : Nat
  wo : Nat
  reset : Nat
  deriving DecidableEq, Repr

/-! ## HST_ registers, from BAR0 offset 0x0000 (R464) -/

abbrev HST_ID : Nat := 0x0000
abbrev HST_ID__PART : Fld := ⟨HST_ID, 31, 16⟩
abbrev HST_ID__REV : Fld := ⟨HST_ID, 15, 8⟩
abbrev HST_STATUS : Nat := 0x0004
abbrev HST_STATUS__WIDTH : Fld := ⟨HST_STATUS, 11, 10⟩
abbrev HST_STATUS__SPEED : Fld := ⟨HST_STATUS, 9, 8⟩
abbrev HST_STATUS__ETH1_UP : Fld := ⟨HST_STATUS, 7, 7⟩
abbrev HST_STATUS__ETH0_UP : Fld := ⟨HST_STATUS, 6, 6⟩
abbrev HST_STATUS__CFG_REJ : Fld := ⟨HST_STATUS, 5, 5⟩
abbrev HST_STATUS__BAR2_UE : Fld := ⟨HST_STATUS, 4, 4⟩
abbrev HST_STATUS__DMA_ERR : Fld := ⟨HST_STATUS, 3, 3⟩
abbrev HST_STATUS__DB_ERR : Fld := ⟨HST_STATUS, 2, 2⟩
abbrev HST_STATUS__ACC_ERR : Fld := ⟨HST_STATUS, 1, 1⟩
abbrev HST_STATUS__LINK_UP : Fld := ⟨HST_STATUS, 0, 0⟩
abbrev HST_INT_STATUS : Nat := 0x0008
abbrev HST_INT_STATUS__EVT_DROP : Fld := ⟨HST_INT_STATUS, 5, 5⟩
abbrev HST_INT_STATUS__ETH_LINK : Fld := ⟨HST_INT_STATUS, 4, 4⟩
abbrev HST_INT_STATUS__ACC_ERR : Fld := ⟨HST_INT_STATUS, 3, 3⟩
abbrev HST_INT_STATUS__DMA_ERR : Fld := ⟨HST_INT_STATUS, 2, 2⟩
abbrev HST_INT_STATUS__DB_ERR : Fld := ⟨HST_INT_STATUS, 1, 1⟩
abbrev HST_INT_STATUS__CQ : Fld := ⟨HST_INT_STATUS, 0, 0⟩
abbrev HST_INT_EN : Nat := 0x000C
abbrev HST_INT_EN__EVT_DROP : Fld := ⟨HST_INT_EN, 5, 5⟩
abbrev HST_INT_EN__ETH_LINK : Fld := ⟨HST_INT_EN, 4, 4⟩
abbrev HST_INT_EN__ACC_ERR : Fld := ⟨HST_INT_EN, 3, 3⟩
abbrev HST_INT_EN__DMA_ERR : Fld := ⟨HST_INT_EN, 2, 2⟩
abbrev HST_INT_EN__DB_ERR : Fld := ⟨HST_INT_EN, 1, 1⟩
abbrev HST_INT_EN__CQ : Fld := ⟨HST_INT_EN, 0, 0⟩
abbrev HST_RING_CTL : Nat := 0x0010
abbrev HST_RING_CTL__EN : Fld := ⟨HST_RING_CTL, 0, 0⟩
abbrev HST_SQ_TAIL : Nat := 0x0014
abbrev HST_SQ_TAIL__TAIL : Fld := ⟨HST_SQ_TAIL, 7, 0⟩
abbrev HST_SQ_HEAD : Nat := 0x0018
abbrev HST_SQ_HEAD__HEAD : Fld := ⟨HST_SQ_HEAD, 7, 0⟩
abbrev HST_CQ_HEAD : Nat := 0x001C
abbrev HST_CQ_HEAD__HEAD : Fld := ⟨HST_CQ_HEAD, 7, 0⟩
abbrev HST_CQ_TAIL : Nat := 0x0020
abbrev HST_CQ_TAIL__PHASE : Fld := ⟨HST_CQ_TAIL, 8, 8⟩
abbrev HST_CQ_TAIL__TAIL : Fld := ⟨HST_CQ_TAIL, 7, 0⟩
abbrev HST_VEC (i : Nat) : Nat := 0x0024 + 4 * i
abbrev HST_VEC__EN (i : Nat) : Fld := ⟨HST_VEC i, 31, 31⟩
abbrev HST_VEC__VECTOR (i : Nat) : Fld := ⟨HST_VEC i, 4, 0⟩
abbrev HST_VEC_REARM : Nat := 0x006C
abbrev HST_VEC_REARM__REARM : Fld := ⟨HST_VEC_REARM, 31, 0⟩
abbrev HST_EVT_ROUTE : Nat := 0x0070
abbrev HST_EVT_ROUTE__FIFO : Fld := ⟨HST_EVT_ROUTE, 15, 0⟩
abbrev HST_EVT_EN : Nat := 0x0074
abbrev HST_EVT_EN__EN : Fld := ⟨HST_EVT_EN, 7, 1⟩
abbrev HST_EVT_LAD_CTL (i : Nat) : Nat := 0x0078 + 4 * i
abbrev HST_EVT_LAD_CTL__FLUSH (i : Nat) : Fld := ⟨HST_EVT_LAD_CTL i, 31, 31⟩
abbrev HST_EVT_LAD_CTL__FLUSH_TMO (i : Nat) : Fld := ⟨HST_EVT_LAD_CTL i, 15, 0⟩
abbrev HST_EVT_LAD_STAT (i : Nat) : Nat := 0x0088 + 4 * i
abbrev HST_EVT_LAD_STAT__FLUSH_PEND (i : Nat) : Fld := ⟨HST_EVT_LAD_STAT i, 31, 31⟩
abbrev HST_EVT_LAD_STAT__FLUSH_TRUNC (i : Nat) : Fld := ⟨HST_EVT_LAD_STAT i, 30, 30⟩
abbrev HST_EVT_LAD_STAT__DROP (i : Nat) : Fld := ⟨HST_EVT_LAD_STAT i, 29, 29⟩
abbrev HST_EVT_LAD_STAT__PKT_CNT (i : Nat) : Fld := ⟨HST_EVT_LAD_STAT i, 26, 16⟩
abbrev HST_EVT_LAD_STAT__LEVEL (i : Nat) : Fld := ⟨HST_EVT_LAD_STAT i, 10, 0⟩
abbrev HST_EVT_LAD_DATA_LO (i : Nat) : Nat := 0x0098 + 8 * i
abbrev HST_EVT_LAD_DATA_LO__DATA_LO (i : Nat) : Fld := ⟨HST_EVT_LAD_DATA_LO i, 31, 0⟩
abbrev HST_EVT_LAD_DATA_HI (i : Nat) : Nat := 0x009C + 8 * i
abbrev HST_EVT_LAD_DATA_HI__DATA_HI (i : Nat) : Fld := ⟨HST_EVT_LAD_DATA_HI i, 31, 0⟩
abbrev HST_EVT_LAD_TAG (i : Nat) : Nat := 0x00B8 + 4 * i
abbrev HST_EVT_LAD_TAG__IDLE (i : Nat) : Fld := ⟨HST_EVT_LAD_TAG i, 31, 31⟩
abbrev HST_EVT_LAD_TAG__END (i : Nat) : Fld := ⟨HST_EVT_LAD_TAG i, 30, 30⟩
abbrev HST_EVT_LAD_TAG__TRUNC (i : Nat) : Fld := ⟨HST_EVT_LAD_TAG i, 29, 29⟩
abbrev HST_EVT_LAD_TAG__VBYTES (i : Nat) : Fld := ⟨HST_EVT_LAD_TAG i, 3, 0⟩
abbrev HST_EVT_LAD_DROP (i : Nat) : Nat := 0x00C8 + 4 * i
abbrev HST_EVT_LAD_DROP__DROP_CNT (i : Nat) : Fld := ⟨HST_EVT_LAD_DROP i, 31, 0⟩
abbrev HST_RXF_LAD_CTL (i : Nat) : Nat := 0x00D8 + 4 * i
abbrev HST_RXF_LAD_CTL__FLUSH (i : Nat) : Fld := ⟨HST_RXF_LAD_CTL i, 31, 31⟩
abbrev HST_RXF_LAD_CTL__FLUSH_TMO (i : Nat) : Fld := ⟨HST_RXF_LAD_CTL i, 15, 0⟩
abbrev HST_RXF_LAD_STAT (i : Nat) : Nat := 0x00E0 + 4 * i
abbrev HST_RXF_LAD_STAT__FLUSH_PEND (i : Nat) : Fld := ⟨HST_RXF_LAD_STAT i, 31, 31⟩
abbrev HST_RXF_LAD_STAT__FLUSH_TRUNC (i : Nat) : Fld := ⟨HST_RXF_LAD_STAT i, 30, 30⟩
abbrev HST_RXF_LAD_STAT__DROP (i : Nat) : Fld := ⟨HST_RXF_LAD_STAT i, 29, 29⟩
abbrev HST_RXF_LAD_STAT__PKT_CNT (i : Nat) : Fld := ⟨HST_RXF_LAD_STAT i, 26, 16⟩
abbrev HST_RXF_LAD_STAT__LEVEL (i : Nat) : Fld := ⟨HST_RXF_LAD_STAT i, 10, 0⟩
abbrev HST_RXF_LAD_DATA_LO (i : Nat) : Nat := 0x00E8 + 8 * i
abbrev HST_RXF_LAD_DATA_LO__DATA_LO (i : Nat) : Fld := ⟨HST_RXF_LAD_DATA_LO i, 31, 0⟩
abbrev HST_RXF_LAD_DATA_HI (i : Nat) : Nat := 0x00EC + 8 * i
abbrev HST_RXF_LAD_DATA_HI__DATA_HI (i : Nat) : Fld := ⟨HST_RXF_LAD_DATA_HI i, 31, 0⟩
abbrev HST_RXF_LAD_TAG (i : Nat) : Nat := 0x00F8 + 4 * i
abbrev HST_RXF_LAD_TAG__IDLE (i : Nat) : Fld := ⟨HST_RXF_LAD_TAG i, 31, 31⟩
abbrev HST_RXF_LAD_TAG__END (i : Nat) : Fld := ⟨HST_RXF_LAD_TAG i, 30, 30⟩
abbrev HST_RXF_LAD_TAG__TRUNC (i : Nat) : Fld := ⟨HST_RXF_LAD_TAG i, 29, 29⟩
abbrev HST_RXF_LAD_TAG__VBYTES (i : Nat) : Fld := ⟨HST_RXF_LAD_TAG i, 3, 0⟩
abbrev HST_RXF_LAD_DROP (i : Nat) : Nat := 0x0100 + 4 * i
abbrev HST_RXF_LAD_DROP__DROP_CNT (i : Nat) : Fld := ⟨HST_RXF_LAD_DROP i, 31, 0⟩
abbrev HST_ETH_CFG (i : Nat) : Nat := 0x0108 + 4 * i
abbrev HST_ETH_CFG__EN (i : Nat) : Fld := ⟨HST_ETH_CFG i, 31, 31⟩
abbrev HST_ETH_CFG__MODE (i : Nat) : Fld := ⟨HST_ETH_CFG i, 30, 30⟩
abbrev HST_ETH_CFG__CMD_EN (i : Nat) : Fld := ⟨HST_ETH_CFG i, 29, 29⟩
abbrev HST_ETH_CFG__CMD_PORT (i : Nat) : Fld := ⟨HST_ETH_CFG i, 15, 0⟩
abbrev HST_ETH_IP (i : Nat) : Nat := 0x0110 + 4 * i
abbrev HST_ETH_IP__IP (i : Nat) : Fld := ⟨HST_ETH_IP i, 31, 0⟩
abbrev HST_ETH_MASK (i : Nat) : Nat := 0x0118 + 4 * i
abbrev HST_ETH_MASK__MASK (i : Nat) : Fld := ⟨HST_ETH_MASK i, 31, 0⟩
abbrev HST_ETH_GW (i : Nat) : Nat := 0x0120 + 4 * i
abbrev HST_ETH_GW__GW (i : Nat) : Fld := ⟨HST_ETH_GW i, 31, 0⟩
abbrev HST_ETH_MAC_LO (i : Nat) : Nat := 0x0128 + 8 * i
abbrev HST_ETH_MAC_LO__MAC (i : Nat) : Fld := ⟨HST_ETH_MAC_LO i, 31, 0⟩
abbrev HST_ETH_MAC_HI (i : Nat) : Nat := 0x012C + 8 * i
abbrev HST_ETH_MAC_HI__MAC (i : Nat) : Fld := ⟨HST_ETH_MAC_HI i, 15, 0⟩
abbrev HST_RXF_FILT (i j : Nat) : Nat := 0x0138 + 4 * (4 * i + j)
abbrev HST_RXF_FILT__EN (i j : Nat) : Fld := ⟨HST_RXF_FILT i j, 31, 31⟩
abbrev HST_RXF_FILT__KIND (i j : Nat) : Fld := ⟨HST_RXF_FILT i j, 16, 16⟩
abbrev HST_RXF_FILT__VALUE (i j : Nat) : Fld := ⟨HST_RXF_FILT i j, 15, 0⟩
abbrev HST_ETH_CNT0 (i : Nat) : Nat := 0x0158 + 4 * i
abbrev HST_ETH_CNT0__RX_BAD (i : Nat) : Fld := ⟨HST_ETH_CNT0 i, 31, 16⟩
abbrev HST_ETH_CNT0__NOARP_CNT (i : Nat) : Fld := ⟨HST_ETH_CNT0 i, 15, 0⟩
abbrev HST_ETH_CNT1 (i : Nat) : Nat := 0x0160 + 4 * i
abbrev HST_ETH_CNT1__CMD_RX (i : Nat) : Fld := ⟨HST_ETH_CNT1 i, 31, 16⟩
abbrev HST_ETH_CNT1__RXF_DROP (i : Nat) : Fld := ⟨HST_ETH_CNT1 i, 15, 0⟩
abbrev HST_MDIO_CMD : Nat := 0x0168
abbrev HST_MDIO_CMD__GO : Fld := ⟨HST_MDIO_CMD, 31, 31⟩
abbrev HST_MDIO_CMD__C45 : Fld := ⟨HST_MDIO_CMD, 30, 30⟩
abbrev HST_MDIO_CMD__OP : Fld := ⟨HST_MDIO_CMD, 29, 28⟩
abbrev HST_MDIO_CMD__PHYAD : Fld := ⟨HST_MDIO_CMD, 27, 23⟩
abbrev HST_MDIO_CMD__REGAD : Fld := ⟨HST_MDIO_CMD, 22, 18⟩
abbrev HST_MDIO_CMD__BUSY : Fld := ⟨HST_MDIO_CMD, 17, 17⟩
abbrev HST_MDIO_CMD__DATA : Fld := ⟨HST_MDIO_CMD, 15, 0⟩

/-- The register map's lines of the HST_ region, part 0. -/
def rowsHST0 : List RegRow := [
  ⟨0x0000, 4, 1, 0, 0, 0, 0, 0x62560000⟩,
  ⟨0x0004, 4, 1, 0, 0x3E, 0, 0, 0⟩,
  ⟨0x0008, 4, 1, 0, 0x3F, 0, 0, 0⟩,
  ⟨0x000C, 4, 1, 0x3F, 0, 0, 0, 0⟩,
  ⟨0x0010, 4, 1, 0x1, 0, 0, 0, 0⟩,
  ⟨0x0014, 4, 1, 0xFF, 0, 0, 0, 0⟩,
  ⟨0x0018, 4, 1, 0, 0, 0, 0, 0⟩,
  ⟨0x001C, 4, 1, 0xFF, 0, 0, 0, 0⟩,
  ⟨0x0020, 4, 1, 0, 0, 0, 0, 0x100⟩,
  ⟨0x0024, 4, 1, 0x8000001F, 0, 0, 0, 0⟩,
  ⟨0x0028, 4, 1, 0x8000001F, 0, 0, 0, 1⟩,
  ⟨0x002C, 4, 1, 0x8000001F, 0, 0, 0, 2⟩,
  ⟨0x0030, 4, 1, 0x8000001F, 0, 0, 0, 3⟩,
  ⟨0x0034, 4, 1, 0x8000001F, 0, 0, 0, 4⟩,
  ⟨0x0038, 4, 1, 0x8000001F, 0, 0, 0, 5⟩,
  ⟨0x003C, 4, 1, 0x8000001F, 0, 0, 0, 6⟩,
  ⟨0x0040, 4, 1, 0x8000001F, 0, 0, 0, 7⟩,
  ⟨0x0044, 4, 1, 0x8000001F, 0, 0, 0, 8⟩,
  ⟨0x0048, 4, 1, 0x8000001F, 0, 0, 0, 9⟩,
  ⟨0x004C, 4, 1, 0x8000001F, 0, 0, 0, 10⟩,
  ⟨0x0050, 4, 1, 0x8000001F, 0, 0, 0, 11⟩,
  ⟨0x0054, 4, 1, 0x8000001F, 0, 0, 0, 12⟩,
  ⟨0x0058, 4, 1, 0x8000001F, 0, 0, 0, 13⟩,
  ⟨0x005C, 4, 1, 0x8000001F, 0, 0, 0, 14⟩]

/-- The register map's lines of the HST_ region, part 1. -/
def rowsHST1 : List RegRow := [
  ⟨0x0060, 4, 1, 0x8000001F, 0, 0, 0, 15⟩,
  ⟨0x0064, 4, 1, 0x8000001F, 0, 0, 0, 16⟩,
  ⟨0x0068, 4, 1, 0x8000001F, 0, 0, 0, 17⟩,
  ⟨0x006C, 4, 1, 0, 0, 0, 0xFFFFFFFF, 0⟩,
  ⟨0x0070, 4, 1, 0x3FFF, 0, 0, 0, 0⟩,
  ⟨0x0074, 4, 1, 0xFE, 0, 0, 0, 0⟩,
  ⟨0x0078, 4, 4, 0xFFFF, 0, 0, 0x80000000, 0x64⟩,
  ⟨0x0088, 4, 4, 0, 0x60000000, 0, 0, 0⟩,
  ⟨0x0098, 8, 4, 0, 0, 0, 0, 0⟩,
  ⟨0x009C, 8, 4, 0, 0, 0, 0, 0⟩,
  ⟨0x00B8, 4, 4, 0, 0, 0, 0, 0x80000000⟩,
  ⟨0x00C8, 4, 4, 0, 0, 0xFFFFFFFF, 0, 0⟩,
  ⟨0x00D8, 4, 2, 0xFFFF, 0, 0, 0x80000000, 0x64⟩,
  ⟨0x00E0, 4, 2, 0, 0x60000000, 0, 0, 0⟩,
  ⟨0x00E8, 8, 2, 0, 0, 0, 0, 0⟩,
  ⟨0x00EC, 8, 2, 0, 0, 0, 0, 0⟩,
  ⟨0x00F8, 4, 2, 0, 0, 0, 0, 0x80000000⟩,
  ⟨0x0100, 4, 2, 0, 0, 0xFFFFFFFF, 0, 0⟩,
  ⟨0x0108, 4, 2, 0xE000FFFF, 0, 0, 0, 0x6256⟩,
  ⟨0x0110, 4, 2, 0xFFFFFFFF, 0, 0, 0, 0⟩,
  ⟨0x0118, 4, 2, 0xFFFFFFFF, 0, 0, 0, 0⟩,
  ⟨0x0120, 4, 2, 0xFFFFFFFF, 0, 0, 0, 0⟩,
  ⟨0x0128, 8, 2, 0xFFFFFFFF, 0, 0, 0, 0⟩,
  ⟨0x012C, 8, 2, 0xFFFF, 0, 0, 0, 0⟩]

/-- The register map's lines of the HST_ region, part 2. -/
def rowsHST2 : List RegRow := [
  ⟨0x0138, 4, 8, 0x8001FFFF, 0, 0, 0, 0⟩,
  ⟨0x0158, 4, 2, 0, 0, 0xFFFFFFFF, 0, 0⟩,
  ⟨0x0160, 4, 2, 0, 0, 0xFFFFFFFF, 0, 0⟩,
  ⟨0x0168, 4, 1, 0x7FFCFFFF, 0, 0, 0x80000000, 0⟩]

/-- The register map's lines of the HST_ region. -/
def rowsHST : List RegRow := rowsHST0 ++ rowsHST1 ++ rowsHST2

/-! ## SYS_ registers, from BAR0 offset 0x0600 (R464) -/

abbrev SYS_POUND_CFG : Nat := 0x0600
abbrev SYS_POUND_CFG__REQ_LOCK : Fld := ⟨SYS_POUND_CFG, 9, 9⟩
abbrev SYS_POUND_CFG__LOCK_EN : Fld := ⟨SYS_POUND_CFG, 8, 8⟩
abbrev SYS_POUND_CFG__POUND_SEL : Fld := ⟨SYS_POUND_CFG, 2, 0⟩
abbrev SYS_POUND_OFFSET : Nat := 0x0604
abbrev SYS_POUND_OFFSET__OFFSET : Fld := ⟨SYS_POUND_OFFSET, 17, 0⟩
abbrev SYS_POUND_STATUS : Nat := 0x0608
abbrev SYS_POUND_STATUS__PHASE_ERR : Fld := ⟨SYS_POUND_STATUS, 31, 16⟩
abbrev SYS_POUND_STATUS__PLANT_STEP : Fld := ⟨SYS_POUND_STATUS, 7, 7⟩
abbrev SYS_POUND_STATUS__OVERRUN : Fld := ⟨SYS_POUND_STATUS, 6, 6⟩
abbrev SYS_POUND_STATUS__CFG_REJ : Fld := ⟨SYS_POUND_STATUS, 5, 5⟩
abbrev SYS_POUND_STATUS__LOCK_STATE : Fld := ⟨SYS_POUND_STATUS, 1, 0⟩
abbrev SYS_POUND_NUM : Nat := 0x060C
abbrev SYS_POUND_NUM__NUM : Fld := ⟨SYS_POUND_NUM, 31, 0⟩
abbrev SYS_STATE : Nat := 0x0610
abbrev SYS_STATE__LAST_CAUSE : Fld := ⟨SYS_STATE, 23, 16⟩
abbrev SYS_STATE__STATE : Fld := ⟨SYS_STATE, 2, 0⟩
abbrev SYS_CMARK (i : Nat) : Nat := 0x0614 + 4 * i
abbrev SYS_CMARK__EN (i : Nat) : Fld := ⟨SYS_CMARK i, 31, 31⟩
abbrev SYS_CMARK__DIV (i : Nat) : Fld := ⟨SYS_CMARK i, 30, 29⟩
abbrev SYS_CMARK__SLOT (i : Nat) : Fld := ⟨SYS_CMARK i, 28, 26⟩
abbrev SYS_CMARK__T_HOST (i : Nat) : Fld := ⟨SYS_CMARK i, 23, 23⟩
abbrev SYS_CMARK__T_LKP (i : Nat) : Fld := ⟨SYS_CMARK i, 22, 22⟩
abbrev SYS_CMARK__T_ADC (i : Nat) : Fld := ⟨SYS_CMARK i, 21, 21⟩
abbrev SYS_CMARK__T_GAU (i : Nat) : Fld := ⟨SYS_CMARK i, 20, 20⟩
abbrev SYS_CMARK__PHASE (i : Nat) : Fld := ⟨SYS_CMARK i, 17, 0⟩
abbrev SYS_CMARK_OVF : Nat := 0x0694
abbrev SYS_CMARK_OVF__OVF : Fld := ⟨SYS_CMARK_OVF, 31, 0⟩

/-- The register map's lines of the SYS_ region. -/
def rowsSYS : List RegRow := [
  ⟨0x0600, 4, 1, 0x307, 0, 0, 0, 0x1⟩,
  ⟨0x0604, 4, 1, 0x3FFFF, 0, 0, 0, 0⟩,
  ⟨0x0608, 4, 1, 0, 0xE0, 0, 0, 0⟩,
  ⟨0x060C, 4, 1, 0, 0, 0, 0, 0⟩,
  ⟨0x0610, 4, 1, 0, 0, 0, 0, 0⟩,
  ⟨0x0614, 4, 32, 0xFCF3FFFF, 0, 0, 0, 0⟩,
  ⟨0x0694, 4, 1, 0, 0xFFFFFFFF, 0, 0, 0⟩]

/-! ## TIM_ registers, from BAR0 offset 0x0700 (R464) -/

abbrev TIM_TB0_LO : Nat := 0x0700
abbrev TIM_TB0_LO__TB0 : Fld := ⟨TIM_TB0_LO, 31, 0⟩
abbrev TIM_TB0_HI : Nat := 0x0704
abbrev TIM_TB0_HI__TB0 : Fld := ⟨TIM_TB0_HI, 31, 0⟩
abbrev TIM_TBk_W0 (i : Nat) : Nat := 0x0708 + 12 * i
abbrev TIM_TBk_W0__NS (i : Nat) : Fld := ⟨TIM_TBk_W0 i, 29, 0⟩
abbrev TIM_TBk_W1 (i : Nat) : Nat := 0x070C + 12 * i
abbrev TIM_TBk_W1__SEC_LO (i : Nat) : Fld := ⟨TIM_TBk_W1 i, 31, 0⟩
abbrev TIM_TBk_W2 (i : Nat) : Nat := 0x0710 + 12 * i
abbrev TIM_TBk_W2__VALID (i : Nat) : Fld := ⟨TIM_TBk_W2 i, 31, 31⟩
abbrev TIM_TBk_W2__CUR (i : Nat) : Fld := ⟨TIM_TBk_W2 i, 30, 30⟩
abbrev TIM_TBk_W2__SLEWING (i : Nat) : Fld := ⟨TIM_TBk_W2 i, 29, 29⟩
abbrev TIM_TBk_W2__SEC_HI (i : Nat) : Fld := ⟨TIM_TBk_W2 i, 15, 0⟩
abbrev TIM_TB4_LO : Nat := 0x072C
abbrev TIM_TB4_LO__POUND : Fld := ⟨TIM_TB4_LO, 31, 0⟩
abbrev TIM_TB4_HI : Nat := 0x0730
abbrev TIM_TB4_HI__LOCK_STATE : Fld := ⟨TIM_TB4_HI, 31, 30⟩
abbrev TIM_TB4_HI__PHASE : Fld := ⟨TIM_TB4_HI, 19, 0⟩
abbrev TIM_TB5_LO : Nat := 0x0734
abbrev TIM_TB5_LO__CHN : Fld := ⟨TIM_TB5_LO, 31, 0⟩
abbrev TIM_TB5_HI : Nat := 0x0738
abbrev TIM_TB5_HI__CHN : Fld := ⟨TIM_TB5_HI, 31, 0⟩
abbrev TIM_TBu_LO (i : Nat) : Nat := 0x073C + 8 * i
abbrev TIM_TBu_LO__USER (i : Nat) : Fld := ⟨TIM_TBu_LO i, 31, 0⟩
abbrev TIM_TBu_HI (i : Nat) : Nat := 0x0740 + 8 * i
abbrev TIM_TBu_HI__USER (i : Nat) : Fld := ⟨TIM_TBu_HI i, 31, 0⟩
abbrev TIM_SNAP (i : Nat) : Nat := 0x074C + 4 * i
abbrev TIM_SNAP__SNAPW (i : Nat) : Fld := ⟨TIM_SNAP i, 31, 0⟩
abbrev TIM_SNAP_CTL : Nat := 0x0798
abbrev TIM_SNAP_CTL__SEQ : Fld := ⟨TIM_SNAP_CTL, 31, 16⟩
abbrev TIM_SNAP_CTL__SNAP : Fld := ⟨TIM_SNAP_CTL, 0, 0⟩
abbrev TIM_STATUS : Nat := 0x079C
abbrev TIM_STATUS__CFG_REJ : Fld := ⟨TIM_STATUS, 0, 0⟩
abbrev TIM_INT_STATUS : Nat := 0x07A0
abbrev TIM_INT_STATUS__TALLY_OVF : Fld := ⟨TIM_INT_STATUS, 7, 7⟩
abbrev TIM_INT_STATUS__TALLY_NE : Fld := ⟨TIM_INT_STATUS, 6, 6⟩
abbrev TIM_INT_STATUS__USER_STEP : Fld := ⟨TIM_INT_STATUS, 5, 5⟩
abbrev TIM_INT_STATUS__TB3_STEP : Fld := ⟨TIM_INT_STATUS, 4, 4⟩
abbrev TIM_INT_STATUS__TB3_SWITCH : Fld := ⟨TIM_INT_STATUS, 3, 3⟩
abbrev TIM_INT_STATUS__TB3_INVALID : Fld := ⟨TIM_INT_STATUS, 2, 2⟩
abbrev TIM_INT_STATUS__DOM_B : Fld := ⟨TIM_INT_STATUS, 1, 1⟩
abbrev TIM_INT_STATUS__DOM_A : Fld := ⟨TIM_INT_STATUS, 0, 0⟩
abbrev TIM_INT_EN : Nat := 0x07A4
abbrev TIM_INT_EN__TALLY_OVF : Fld := ⟨TIM_INT_EN, 7, 7⟩
abbrev TIM_INT_EN__TALLY_NE : Fld := ⟨TIM_INT_EN, 6, 6⟩
abbrev TIM_INT_EN__USER_STEP : Fld := ⟨TIM_INT_EN, 5, 5⟩
abbrev TIM_INT_EN__TB3_STEP : Fld := ⟨TIM_INT_EN, 4, 4⟩
abbrev TIM_INT_EN__TB3_SWITCH : Fld := ⟨TIM_INT_EN, 3, 3⟩
abbrev TIM_INT_EN__TB3_INVALID : Fld := ⟨TIM_INT_EN, 2, 2⟩
abbrev TIM_INT_EN__DOM_B : Fld := ⟨TIM_INT_EN, 1, 1⟩
abbrev TIM_INT_EN__DOM_A : Fld := ⟨TIM_INT_EN, 0, 0⟩
abbrev TIM_DOM_CFG (i : Nat) : Nat := 0x07A8 + 4 * i
abbrev TIM_DOM_CFG__EN (i : Nat) : Fld := ⟨TIM_DOM_CFG i, 31, 31⟩
abbrev TIM_DOM_CFG__PROFILE (i : Nat) : Fld := ⟨TIM_DOM_CFG i, 30, 29⟩
abbrev TIM_DOM_CFG__MAC (i : Nat) : Fld := ⟨TIM_DOM_CFG i, 28, 28⟩
abbrev TIM_DOM_CFG__UDP (i : Nat) : Fld := ⟨TIM_DOM_CFG i, 27, 27⟩
abbrev TIM_DOM_CFG__PD_AVG (i : Nat) : Fld := ⟨TIM_DOM_CFG i, 26, 24⟩
abbrev TIM_DOM_CFG__DOMAIN_NUM (i : Nat) : Fld := ⟨TIM_DOM_CFG i, 23, 16⟩
abbrev TIM_DOM_CFG__SYNC_TMO (i : Nat) : Fld := ⟨TIM_DOM_CFG i, 15, 8⟩
abbrev TIM_DOM_CFG__LOG_DREQ (i : Nat) : Fld := ⟨TIM_DOM_CFG i, 7, 4⟩
abbrev TIM_DOM_CFG2 (i : Nat) : Nat := 0x07B0 + 4 * i
abbrev TIM_DOM_CFG2__LOCK_NS (i : Nat) : Fld := ⟨TIM_DOM_CFG2 i, 31, 16⟩
abbrev TIM_DOM_CFG2__HOLD_LIM (i : Nat) : Fld := ⟨TIM_DOM_CFG2 i, 15, 0⟩
abbrev TIM_DOM_STEP (i : Nat) : Nat := 0x07B8 + 4 * i
abbrev TIM_DOM_STEP__STEP_NS (i : Nat) : Fld := ⟨TIM_DOM_STEP i, 31, 0⟩
abbrev TIM_DOM_KP (i : Nat) : Nat := 0x07C0 + 4 * i
abbrev TIM_DOM_KP__KP (i : Nat) : Fld := ⟨TIM_DOM_KP i, 31, 0⟩
abbrev TIM_DOM_KI (i : Nat) : Nat := 0x07C8 + 4 * i
abbrev TIM_DOM_KI__KI (i : Nat) : Fld := ⟨TIM_DOM_KI i, 31, 0⟩
abbrev TIM_DOM_ASYM (i : Nat) : Nat := 0x07D0 + 4 * i
abbrev TIM_DOM_ASYM__ASYM (i : Nat) : Fld := ⟨TIM_DOM_ASYM i, 31, 0⟩
abbrev TIM_DOM_STAT (i : Nat) : Nat := 0x07D8 + 4 * i
abbrev TIM_DOM_STAT__STATE (i : Nat) : Fld := ⟨TIM_DOM_STAT i, 31, 29⟩
abbrev TIM_DOM_STAT__HOLD_EXP (i : Nat) : Fld := ⟨TIM_DOM_STAT i, 28, 28⟩
abbrev TIM_DOM_STAT__RATE_SAT (i : Nat) : Fld := ⟨TIM_DOM_STAT i, 27, 27⟩
abbrev TIM_DOM_OFS (i : Nat) : Nat := 0x07E0 + 4 * i
abbrev TIM_DOM_OFS__OFS (i : Nat) : Fld := ⟨TIM_DOM_OFS i, 31, 0⟩
abbrev TIM_DOM_RATE (i : Nat) : Nat := 0x07E8 + 4 * i
abbrev TIM_DOM_RATE__RATE (i : Nat) : Fld := ⟨TIM_DOM_RATE i, 31, 0⟩
abbrev TIM_DOM_PATH (i : Nat) : Nat := 0x07F0 + 4 * i
abbrev TIM_DOM_PATH__PATH (i : Nat) : Fld := ⟨TIM_DOM_PATH i, 31, 0⟩
abbrev TIM_DOM_UTC (i : Nat) : Nat := 0x07F8 + 4 * i
abbrev TIM_DOM_UTC__UTC_OFS (i : Nat) : Fld := ⟨TIM_DOM_UTC i, 15, 0⟩
abbrev TIM_DOM_GM_LO (i : Nat) : Nat := 0x0800 + 8 * i
abbrev TIM_DOM_GM_LO__GM_ID (i : Nat) : Fld := ⟨TIM_DOM_GM_LO i, 31, 0⟩
abbrev TIM_DOM_GM_HI (i : Nat) : Nat := 0x0804 + 8 * i
abbrev TIM_DOM_GM_HI__GM_ID (i : Nat) : Fld := ⟨TIM_DOM_GM_HI i, 31, 0⟩
abbrev TIM_DOM_CNT (i : Nat) : Nat := 0x0810 + 4 * i
abbrev TIM_DOM_CNT__SYNC_RX (i : Nat) : Fld := ⟨TIM_DOM_CNT i, 31, 16⟩
abbrev TIM_DOM_CNT__STEP_CNT (i : Nat) : Fld := ⟨TIM_DOM_CNT i, 15, 8⟩
abbrev TIM_DOM_CNT__DISC_CNT (i : Nat) : Fld := ⟨TIM_DOM_CNT i, 7, 0⟩
abbrev TIM_LAT (i : Nat) : Nat := 0x0818 + 4 * i
abbrev TIM_LAT__TX_LAT (i : Nat) : Fld := ⟨TIM_LAT i, 31, 16⟩
abbrev TIM_LAT__RX_LAT (i : Nat) : Fld := ⟨TIM_LAT i, 15, 0⟩
abbrev TIM_SEL_CFG : Nat := 0x0820
abbrev TIM_SEL_CFG__SLEW : Fld := ⟨TIM_SEL_CFG, 28, 16⟩
abbrev TIM_SEL_CFG__REVERT_S : Fld := ⟨TIM_SEL_CFG, 15, 8⟩
abbrev TIM_SEL_CFG__PREF : Fld := ⟨TIM_SEL_CFG, 2, 2⟩
abbrev TIM_SEL_CFG__MODE : Fld := ⟨TIM_SEL_CFG, 1, 0⟩
abbrev TIM_SEL_SEAM : Nat := 0x0824
abbrev TIM_SEL_SEAM__SEAM_MAX : Fld := ⟨TIM_SEL_SEAM, 15, 0⟩
abbrev TIM_SEL_STAT : Nat := 0x0828
abbrev TIM_SEL_STAT__TB3_VALID : Fld := ⟨TIM_SEL_STAT, 31, 31⟩
abbrev TIM_SEL_STAT__CUR : Fld := ⟨TIM_SEL_STAT, 30, 30⟩
abbrev TIM_SEL_STAT__SLEWING : Fld := ⟨TIM_SEL_STAT, 29, 29⟩
abbrev TIM_SEL_STAT__AB_VALID : Fld := ⟨TIM_SEL_STAT, 28, 28⟩
abbrev TIM_SEL_CORR : Nat := 0x082C
abbrev TIM_SEL_CORR__CORR : Fld := ⟨TIM_SEL_CORR, 31, 0⟩
abbrev TIM_AB_OFS : Nat := 0x0830
abbrev TIM_AB_OFS__AB_OFS : Fld := ⟨TIM_AB_OFS, 31, 0⟩
abbrev TIM_USER_CFG (i : Nat) : Nat := 0x0834 + 4 * i
abbrev TIM_USER_CFG__SLAVE (i : Nat) : Fld := ⟨TIM_USER_CFG i, 31, 31⟩
abbrev TIM_USER_CFG__SRC (i : Nat) : Fld := ⟨TIM_USER_CFG i, 26, 24⟩
abbrev TIM_USER_CFG__RATE (i : Nat) : Fld := ⟨TIM_USER_CFG i, 23, 0⟩
abbrev TIM_USER_OFS_LO (i : Nat) : Nat := 0x083C + 8 * i
abbrev TIM_USER_OFS_LO__OFS_LO (i : Nat) : Fld := ⟨TIM_USER_OFS_LO i, 31, 0⟩
abbrev TIM_USER_OFS_HI (i : Nat) : Nat := 0x0840 + 8 * i
abbrev TIM_USER_OFS_HI__OFS_HI (i : Nat) : Fld := ⟨TIM_USER_OFS_HI i, 31, 0⟩
abbrev TIM_TALLY_W0 : Nat := 0x084C
abbrev TIM_TALLY_W0__W0 : Fld := ⟨TIM_TALLY_W0, 31, 0⟩
abbrev TIM_TALLY_W1 : Nat := 0x0850
abbrev TIM_TALLY_W1__W : Fld := ⟨TIM_TALLY_W1, 31, 0⟩
abbrev TIM_TALLY_W2 : Nat := 0x0854
abbrev TIM_TALLY_W2__W : Fld := ⟨TIM_TALLY_W2, 31, 0⟩
abbrev TIM_TALLY_W3 : Nat := 0x0858
abbrev TIM_TALLY_W3__W : Fld := ⟨TIM_TALLY_W3, 31, 0⟩
abbrev TIM_TALLY_STAT : Nat := 0x085C
abbrev TIM_TALLY_STAT__OVF : Fld := ⟨TIM_TALLY_STAT, 31, 31⟩
abbrev TIM_TALLY_STAT__LEVEL : Fld := ⟨TIM_TALLY_STAT, 5, 0⟩
abbrev TIM_TALLY_DROP : Nat := 0x0860
abbrev TIM_TALLY_DROP__DROP_CNT : Fld := ⟨TIM_TALLY_DROP, 31, 0⟩

/-- The register map's lines of the TIM_ region, part 0. -/
def rowsTIM0 : List RegRow := [
  ⟨0x0700, 4, 1, 0, 0, 0, 0, 0⟩,
  ⟨0x0704, 4, 1, 0, 0, 0, 0, 0⟩,
  ⟨0x0708, 12, 3, 0, 0, 0, 0, 0⟩,
  ⟨0x070C, 12, 3, 0, 0, 0, 0, 0⟩,
  ⟨0x0710, 12, 3, 0, 0, 0, 0, 0⟩,
  ⟨0x072C, 4, 1, 0, 0, 0, 0, 0⟩,
  ⟨0x0730, 4, 1, 0, 0, 0, 0, 0⟩,
  ⟨0x0734, 4, 1, 0, 0, 0, 0, 0⟩,
  ⟨0x0738, 4, 1, 0, 0, 0, 0, 0⟩,
  ⟨0x073C, 8, 2, 0, 0, 0, 0, 0⟩,
  ⟨0x0740, 8, 2, 0, 0, 0, 0, 0⟩,
  ⟨0x074C, 4, 19, 0, 0, 0, 0, 0⟩,
  ⟨0x0798, 4, 1, 0, 0, 0, 0x1, 0⟩,
  ⟨0x079C, 4, 1, 0, 0x1, 0, 0, 0⟩,
  ⟨0x07A0, 4, 1, 0, 0xFF, 0, 0, 0⟩,
  ⟨0x07A4, 4, 1, 0xFF, 0, 0, 0, 0⟩,
  ⟨0x07A8, 4, 2, 0xFFFFFFF0, 0, 0, 0, 0x3000300⟩,
  ⟨0x07B0, 4, 2, 0xFFFFFFFF, 0, 0, 0, 0x64000A⟩,
  ⟨0x07B8, 4, 2, 0xFFFFFFFF, 0, 0, 0, 0x3E8⟩,
  ⟨0x07C0, 4, 2, 0xFFFFFFFF, 0, 0, 0, 0x3F000000⟩,
  ⟨0x07C8, 4, 2, 0xFFFFFFFF, 0, 0, 0, 0x3D800000⟩,
  ⟨0x07D0, 4, 2, 0xFFFFFFFF, 0, 0, 0, 0⟩,
  ⟨0x07D8, 4, 2, 0, 0x8000000, 0, 0, 0⟩,
  ⟨0x07E0, 4, 2, 0, 0, 0, 0, 0⟩]

/-- The register map's lines of the TIM_ region, part 1. -/
def rowsTIM1 : List RegRow := [
  ⟨0x07E8, 4, 2, 0, 0, 0, 0, 0⟩,
  ⟨0x07F0, 4, 2, 0, 0, 0, 0, 0⟩,
  ⟨0x07F8, 4, 2, 0, 0, 0, 0, 0⟩,
  ⟨0x0800, 8, 2, 0, 0, 0, 0, 0⟩,
  ⟨0x0804, 8, 2, 0, 0, 0, 0, 0⟩,
  ⟨0x0810, 4, 2, 0, 0, 0xFFFFFFFF, 0, 0⟩,
  ⟨0x0818, 4, 2, 0xFFFFFFFF, 0, 0, 0, 0⟩,
  ⟨0x0820, 4, 1, 0x1FFFFF07, 0, 0, 0, 0xCCD0002⟩,
  ⟨0x0824, 4, 1, 0xFFFF, 0, 0, 0, 0xA⟩,
  ⟨0x0828, 4, 1, 0, 0, 0, 0, 0⟩,
  ⟨0x082C, 4, 1, 0, 0, 0, 0, 0⟩,
  ⟨0x0830, 4, 1, 0, 0, 0, 0, 0⟩,
  ⟨0x0834, 4, 2, 0x87FFFFFF, 0, 0, 0, 0⟩,
  ⟨0x083C, 8, 2, 0xFFFFFFFF, 0, 0, 0, 0⟩,
  ⟨0x0840, 8, 2, 0xFFFFFFFF, 0, 0, 0, 0⟩,
  ⟨0x084C, 4, 1, 0, 0, 0, 0, 0⟩,
  ⟨0x0850, 4, 1, 0, 0, 0, 0, 0⟩,
  ⟨0x0854, 4, 1, 0, 0, 0, 0, 0⟩,
  ⟨0x0858, 4, 1, 0, 0, 0, 0, 0⟩,
  ⟨0x085C, 4, 1, 0, 0x80000000, 0, 0, 0⟩,
  ⟨0x0860, 4, 1, 0, 0, 0xFFFFFFFF, 0, 0⟩]

/-- The register map's lines of the TIM_ region. -/
def rowsTIM : List RegRow := rowsTIM0 ++ rowsTIM1

/-! ## LCK_ registers, from BAR0 offset 0x0A00 (R464) -/

abbrev LCK_STATUS : Nat := 0x0A00
abbrev LCK_STATUS__BANK_REJ : Fld := ⟨LCK_STATUS, 3, 3⟩
abbrev LCK_STATUS__SAT_ANY : Fld := ⟨LCK_STATUS, 2, 2⟩
abbrev LCK_STATUS__FAULT_ANY : Fld := ⟨LCK_STATUS, 1, 1⟩
abbrev LCK_STATUS__CFG_REJ : Fld := ⟨LCK_STATUS, 0, 0⟩
abbrev LCK_INT_STATUS : Nat := 0x0A04
abbrev LCK_INT_STATUS__BANK_REJ : Fld := ⟨LCK_INT_STATUS, 8, 8⟩
abbrev LCK_INT_STATUS__ECC_UE : Fld := ⟨LCK_INT_STATUS, 7, 7⟩
abbrev LCK_INT_STATUS__ECC_CE : Fld := ⟨LCK_INT_STATUS, 6, 6⟩
abbrev LCK_INT_STATUS__STANDSTILL : Fld := ⟨LCK_INT_STATUS, 5, 5⟩
abbrev LCK_INT_STATUS__BANK_MISS : Fld := ⟨LCK_INT_STATUS, 4, 4⟩
abbrev LCK_INT_STATUS__RESEED_FAIL : Fld := ⟨LCK_INT_STATUS, 3, 3⟩
abbrev LCK_INT_STATUS__SWAP_DONE : Fld := ⟨LCK_INT_STATUS, 2, 2⟩
abbrev LCK_INT_STATUS__SAT_NEW : Fld := ⟨LCK_INT_STATUS, 1, 1⟩
abbrev LCK_INT_STATUS__FAULT : Fld := ⟨LCK_INT_STATUS, 0, 0⟩
abbrev LCK_INT_EN : Nat := 0x0A08
abbrev LCK_INT_EN__BANK_REJ : Fld := ⟨LCK_INT_EN, 8, 8⟩
abbrev LCK_INT_EN__ECC_UE : Fld := ⟨LCK_INT_EN, 7, 7⟩
abbrev LCK_INT_EN__ECC_CE : Fld := ⟨LCK_INT_EN, 6, 6⟩
abbrev LCK_INT_EN__STANDSTILL : Fld := ⟨LCK_INT_EN, 5, 5⟩
abbrev LCK_INT_EN__BANK_MISS : Fld := ⟨LCK_INT_EN, 4, 4⟩
abbrev LCK_INT_EN__RESEED_FAIL : Fld := ⟨LCK_INT_EN, 3, 3⟩
abbrev LCK_INT_EN__SWAP_DONE : Fld := ⟨LCK_INT_EN, 2, 2⟩
abbrev LCK_INT_EN__SAT_NEW : Fld := ⟨LCK_INT_EN, 1, 1⟩
abbrev LCK_INT_EN__FAULT : Fld := ⟨LCK_INT_EN, 0, 0⟩
abbrev LCK_SAT_PEND : Nat := 0x0A0C
abbrev LCK_SAT_PEND__PEND : Fld := ⟨LCK_SAT_PEND, 31, 0⟩
abbrev LCK_FAULT_PEND : Nat := 0x0A10
abbrev LCK_FAULT_PEND__PEND : Fld := ⟨LCK_FAULT_PEND, 31, 0⟩
abbrev LCK_FSTAT (i : Nat) : Nat := 0x0A14 + 4 * i
abbrev LCK_FSTAT__MODE (i : Nat) : Fld := ⟨LCK_FSTAT i, 30, 28⟩
abbrev LCK_FSTAT__STILL (i : Nat) : Fld := ⟨LCK_FSTAT i, 27, 27⟩
abbrev LCK_FSTAT__SLEWING (i : Nat) : Fld := ⟨LCK_FSTAT i, 26, 26⟩
abbrev LCK_FSTAT__RSD_BUSY (i : Nat) : Fld := ⟨LCK_FSTAT i, 25, 25⟩
abbrev LCK_FSTAT__PEND_V (i : Nat) : Fld := ⟨LCK_FSTAT i, 24, 24⟩
abbrev LCK_FSTAT__PENDING (i : Nat) : Fld := ⟨LCK_FSTAT i, 23, 20⟩
abbrev LCK_FSTAT__ACTIVE (i : Nat) : Fld := ⟨LCK_FSTAT i, 19, 16⟩
abbrev LCK_FSTAT__ACT_REGION (i : Nat) : Fld := ⟨LCK_FSTAT i, 15, 12⟩
abbrev LCK_FSTAT__REGION_V (i : Nat) : Fld := ⟨LCK_FSTAT i, 11, 11⟩
abbrev LCK_FSTAT__PARKED (i : Nat) : Fld := ⟨LCK_FSTAT i, 10, 10⟩
abbrev LCK_FSTAT__BANK_MISS (i : Nat) : Fld := ⟨LCK_FSTAT i, 8, 8⟩
abbrev LCK_FSTAT__SATURATION (i : Nat) : Fld := ⟨LCK_FSTAT i, 7, 7⟩
abbrev LCK_FSTAT__BANK_ECC (i : Nat) : Fld := ⟨LCK_FSTAT i, 6, 6⟩
abbrev LCK_FSTAT__MEAS_AGE (i : Nat) : Fld := ⟨LCK_FSTAT i, 5, 5⟩
abbrev LCK_FSTAT__OVERRUN (i : Nat) : Fld := ⟨LCK_FSTAT i, 4, 4⟩
abbrev LCK_FSTAT__SAT_OUT (i : Nat) : Fld := ⟨LCK_FSTAT i, 3, 3⟩
abbrev LCK_FSTAT__SAT_INT (i : Nat) : Fld := ⟨LCK_FSTAT i, 2, 2⟩
abbrev LCK_FSTAT__SAT_STORE (i : Nat) : Fld := ⟨LCK_FSTAT i, 1, 1⟩
abbrev LCK_FSTAT__SAT_ACC (i : Nat) : Fld := ⟨LCK_FSTAT i, 0, 0⟩
abbrev LCK_FSTAT2 (i : Nat) : Nat := 0x0A94 + 4 * i
abbrev LCK_FSTAT2__BANK_FAIL (i : Nat) : Fld := ⟨LCK_FSTAT2 i, 31, 16⟩
abbrev LCK_FSTAT2__INT_BOUND (i : Nat) : Fld := ⟨LCK_FSTAT2 i, 15, 0⟩
abbrev LCK_FCNT (i : Nat) : Nat := 0x0B14 + 4 * i
abbrev LCK_FCNT__AGE_CNT (i : Nat) : Fld := ⟨LCK_FCNT i, 31, 16⟩
abbrev LCK_FCNT__OVR_CNT (i : Nat) : Fld := ⟨LCK_FCNT i, 15, 0⟩
abbrev LCK_ECC_CNT : Nat := 0x0B94
abbrev LCK_ECC_CNT__UE_CNT : Fld := ⟨LCK_ECC_CNT, 31, 16⟩
abbrev LCK_ECC_CNT__CE_CNT : Fld := ⟨LCK_ECC_CNT, 15, 0⟩
abbrev LCK_BANK_REJ : Nat := 0x0B98
abbrev LCK_BANK_REJ__CODE : Fld := ⟨LCK_BANK_REJ, 19, 16⟩
abbrev LCK_BANK_REJ__SLOT : Fld := ⟨LCK_BANK_REJ, 11, 8⟩
abbrev LCK_BANK_REJ__FLIGHT : Fld := ⟨LCK_BANK_REJ, 4, 0⟩
abbrev LCK_SEGQ_CTL (i : Nat) : Nat := 0x0B9C + 4 * i
abbrev LCK_SEGQ_CTL__REV_HOLD (i : Nat) : Fld := ⟨LCK_SEGQ_CTL i, 1, 1⟩
abbrev LCK_SEGQ_CTL__QSRC (i : Nat) : Fld := ⟨LCK_SEGQ_CTL i, 0, 0⟩
abbrev LCK_SEGQ_STAT (i : Nat) : Nat := 0x0C1C + 4 * i
abbrev LCK_SEGQ_STAT__HEAD_ID (i : Nat) : Fld := ⟨LCK_SEGQ_STAT i, 31, 16⟩
abbrev LCK_SEGQ_STAT__PUB_TRUNC (i : Nat) : Fld := ⟨LCK_SEGQ_STAT i, 13, 13⟩
abbrev LCK_SEGQ_STAT__SEG_INVALID (i : Nat) : Fld := ⟨LCK_SEGQ_STAT i, 12, 12⟩
abbrev LCK_SEGQ_STAT__TGT_CLAMP (i : Nat) : Fld := ⟨LCK_SEGQ_STAT i, 11, 11⟩
abbrev LCK_SEGQ_STAT__BELT_FAST (i : Nat) : Fld := ⟨LCK_SEGQ_STAT i, 10, 10⟩
abbrev LCK_SEGQ_STAT__QUEUE_DRY (i : Nat) : Fld := ⟨LCK_SEGQ_STAT i, 9, 9⟩
abbrev LCK_SEGQ_STAT__WAITING (i : Nat) : Fld := ⟨LCK_SEGQ_STAT i, 8, 8⟩
abbrev LCK_SEGQ_STAT__DEPTH (i : Nat) : Fld := ⟨LCK_SEGQ_STAT i, 5, 0⟩

/-- The register map's lines of the LCK_ region. -/
def rowsLCK : List RegRow := [
  ⟨0x0A00, 4, 1, 0, 0x9, 0, 0, 0⟩,
  ⟨0x0A04, 4, 1, 0, 0x1FF, 0, 0, 0⟩,
  ⟨0x0A08, 4, 1, 0x1FF, 0, 0, 0, 0⟩,
  ⟨0x0A0C, 4, 1, 0, 0xFFFFFFFF, 0, 0, 0⟩,
  ⟨0x0A10, 4, 1, 0, 0xFFFFFFFF, 0, 0, 0⟩,
  ⟨0x0A14, 4, 32, 0, 0, 0, 0, 0⟩,
  ⟨0x0A94, 4, 32, 0, 0, 0, 0, 0⟩,
  ⟨0x0B14, 4, 32, 0, 0, 0xFFFFFFFF, 0, 0⟩,
  ⟨0x0B94, 4, 1, 0, 0, 0xFFFFFFFF, 0, 0⟩,
  ⟨0x0B98, 4, 1, 0, 0, 0, 0, 0⟩,
  ⟨0x0B9C, 4, 32, 0x3, 0, 0, 0, 0⟩,
  ⟨0x0C1C, 4, 32, 0, 0x3C00, 0, 0, 0⟩]

/-! ## BSN_ registers, from BAR0 offset 0x5000 (R464) -/

abbrev BSN_MODE_CFG : Nat := 0x5000
abbrev BSN_MODE_CFG__MODE_SEL : Fld := ⟨BSN_MODE_CFG, 1, 0⟩
abbrev BSN_MODE_PAT : Nat := 0x5004
abbrev BSN_MODE_PAT__PAT : Fld := ⟨BSN_MODE_PAT, 31, 0⟩
abbrev BSN_STATUS : Nat := 0x5008
abbrev BSN_STATUS__LANES_BUSY : Fld := ⟨BSN_STATUS, 22, 16⟩
abbrev BSN_STATUS__RD_ERR : Fld := ⟨BSN_STATUS, 3, 3⟩
abbrev BSN_STATUS__CFG_REJ : Fld := ⟨BSN_STATUS, 2, 2⟩
abbrev BSN_STATUS__MODE : Fld := ⟨BSN_STATUS, 1, 0⟩
abbrev BSN_INT_STATUS : Nat := 0x500C
abbrev BSN_INT_STATUS__TEST_FAIL : Fld := ⟨BSN_INT_STATUS, 7, 7⟩
abbrev BSN_INT_STATUS__ECC_UE : Fld := ⟨BSN_INT_STATUS, 6, 6⟩
abbrev BSN_INT_STATUS__ECC_CE : Fld := ⟨BSN_INT_STATUS, 5, 5⟩
abbrev BSN_INT_STATUS__MODE_CUT : Fld := ⟨BSN_INT_STATUS, 4, 4⟩
abbrev BSN_INT_STATUS__OVERFLOW : Fld := ⟨BSN_INT_STATUS, 3, 3⟩
abbrev BSN_INT_STATUS__STALE : Fld := ⟨BSN_INT_STATUS, 2, 2⟩
abbrev BSN_INT_STATUS__DEADLINE : Fld := ⟨BSN_INT_STATUS, 1, 1⟩
abbrev BSN_INT_STATUS__SLOT_DONE : Fld := ⟨BSN_INT_STATUS, 0, 0⟩
abbrev BSN_INT_EN : Nat := 0x5010
abbrev BSN_INT_EN__TEST_FAIL : Fld := ⟨BSN_INT_EN, 7, 7⟩
abbrev BSN_INT_EN__ECC_UE : Fld := ⟨BSN_INT_EN, 6, 6⟩
abbrev BSN_INT_EN__ECC_CE : Fld := ⟨BSN_INT_EN, 5, 5⟩
abbrev BSN_INT_EN__MODE_CUT : Fld := ⟨BSN_INT_EN, 4, 4⟩
abbrev BSN_INT_EN__OVERFLOW : Fld := ⟨BSN_INT_EN, 3, 3⟩
abbrev BSN_INT_EN__STALE : Fld := ⟨BSN_INT_EN, 2, 2⟩
abbrev BSN_INT_EN__DEADLINE : Fld := ⟨BSN_INT_EN, 1, 1⟩
abbrev BSN_INT_EN__SLOT_DONE : Fld := ⟨BSN_INT_EN, 0, 0⟩
abbrev BSN_DONE_PEND (i : Nat) : Nat := 0x5014 + 4 * i
abbrev BSN_DONE_PEND__PEND (i : Nat) : Fld := ⟨BSN_DONE_PEND i, 31, 0⟩
abbrev BSN_HELD (i : Nat) : Nat := 0x5024 + 4 * i
abbrev BSN_HELD__HELD (i : Nat) : Fld := ⟨BSN_HELD i, 31, 0⟩
abbrev BSN_RD_SEL : Nat := 0x5034
abbrev BSN_RD_SEL__CONSUME : Fld := ⟨BSN_RD_SEL, 31, 31⟩
abbrev BSN_RD_SEL__SLOT : Fld := ⟨BSN_RD_SEL, 7, 0⟩
abbrev BSN_RSD_TAU : Nat := 0x5038
abbrev BSN_RSD_TAU__TAU : Fld := ⟨BSN_RSD_TAU, 31, 0⟩
abbrev BSN_RSD_DELTA : Nat := 0x503C
abbrev BSN_RSD_DELTA__DELTA : Fld := ⟨BSN_RSD_DELTA, 31, 0⟩
abbrev BSN_LANE_FAIL_LO : Nat := 0x5040
abbrev BSN_LANE_FAIL_LO__FAIL : Fld := ⟨BSN_LANE_FAIL_LO, 31, 0⟩
abbrev BSN_LANE_FAIL_HI : Nat := 0x5044
abbrev BSN_LANE_FAIL_HI__FAIL : Fld := ⟨BSN_LANE_FAIL_HI, 31, 0⟩
abbrev BSN_CNT_DONE : Nat := 0x5048
abbrev BSN_CNT_DONE__DONE : Fld := ⟨BSN_CNT_DONE, 31, 0⟩
abbrev BSN_CNT_EXC : Nat := 0x504C
abbrev BSN_CNT_EXC__DEADLINE : Fld := ⟨BSN_CNT_EXC, 31, 24⟩
abbrev BSN_CNT_EXC__STALE : Fld := ⟨BSN_CNT_EXC, 23, 16⟩
abbrev BSN_CNT_EXC__OVERFLOW : Fld := ⟨BSN_CNT_EXC, 15, 8⟩
abbrev BSN_CNT_EXC__REGULARISED : Fld := ⟨BSN_CNT_EXC, 7, 0⟩
abbrev BSN_ECC_CNT : Nat := 0x5050
abbrev BSN_ECC_CNT__UE_CNT : Fld := ⟨BSN_ECC_CNT, 31, 16⟩
abbrev BSN_ECC_CNT__CE_CNT : Fld := ⟨BSN_ECC_CNT, 15, 0⟩
abbrev BSN_PLAN_CTL : Nat := 0x5054
abbrev BSN_PLAN_CTL__EVT_EN : Fld := ⟨BSN_PLAN_CTL, 1, 1⟩
abbrev BSN_PLAN_CTL__SUSPEND : Fld := ⟨BSN_PLAN_CTL, 0, 0⟩
abbrev BSN_PLAN_STAT : Nat := 0x5058
abbrev BSN_PLAN_STAT__PLAN_SEQ : Fld := ⟨BSN_PLAN_STAT, 31, 16⟩
abbrev BSN_PLAN_STAT__CAUSE : Fld := ⟨BSN_PLAN_STAT, 15, 12⟩
abbrev BSN_PLAN_STAT__PAIR_OVF : Fld := ⟨BSN_PLAN_STAT, 5, 5⟩
abbrev BSN_PLAN_STAT__HEAD_LIMITED : Fld := ⟨BSN_PLAN_STAT, 4, 4⟩
abbrev BSN_PLAN_STAT__CONV : Fld := ⟨BSN_PLAN_STAT, 3, 3⟩
abbrev BSN_PLAN_STAT__STATUS : Fld := ⟨BSN_PLAN_STAT, 2, 0⟩
abbrev BSN_PLAN_ITER : Nat := 0x505C
abbrev BSN_PLAN_ITER__ITER_MAX : Fld := ⟨BSN_PLAN_ITER, 27, 16⟩
abbrev BSN_PLAN_ITER__ITER : Fld := ⟨BSN_PLAN_ITER, 11, 0⟩
abbrev BSN_PLAN_INFO : Nat := 0x5060
abbrev BSN_PLAN_INFO__MISS_RUN : Fld := ⟨BSN_PLAN_INFO, 31, 24⟩
abbrev BSN_PLAN_INFO__PAIRS : Fld := ⟨BSN_PLAN_INFO, 23, 16⟩
abbrev BSN_PLAN_INFO__ARMS : Fld := ⟨BSN_PLAN_INFO, 15, 0⟩
abbrev BSN_PLAN_DROP : Nat := 0x5064
abbrev BSN_PLAN_DROP__DROP : Fld := ⟨BSN_PLAN_DROP, 15, 0⟩
abbrev BSN_PLAN_RES_P : Nat := 0x5068
abbrev BSN_PLAN_RES_P__RES_P : Fld := ⟨BSN_PLAN_RES_P, 31, 0⟩
abbrev BSN_PLAN_COL_MIN : Nat := 0x506C
abbrev BSN_PLAN_COL_MIN__COL_MIN : Fld := ⟨BSN_PLAN_COL_MIN, 31, 0⟩
abbrev BSN_PLAN_CNT_PUB : Nat := 0x5070
abbrev BSN_PLAN_CNT_PUB__PUB : Fld := ⟨BSN_PLAN_CNT_PUB, 31, 0⟩
abbrev BSN_PLAN_CNT_EXC : Nat := 0x5074
abbrev BSN_PLAN_CNT_EXC__REJECTED : Fld := ⟨BSN_PLAN_CNT_EXC, 31, 24⟩
abbrev BSN_PLAN_CNT_EXC__LATE : Fld := ⟨BSN_PLAN_CNT_EXC, 23, 16⟩
abbrev BSN_PLAN_CNT_EXC__SKIPPED : Fld := ⟨BSN_PLAN_CNT_EXC, 15, 8⟩
abbrev BSN_PLAN_CNT_EXC__HEAD_LIMITED : Fld := ⟨BSN_PLAN_CNT_EXC, 7, 0⟩

/-- The register map's lines of the BSN_ region. -/
def rowsBSN : List RegRow := [
  ⟨0x5000, 4, 1, 0x3, 0, 0, 0, 0⟩,
  ⟨0x5004, 4, 1, 0xFFFFFFFF, 0, 0, 0, 0⟩,
  ⟨0x5008, 4, 1, 0, 0xC, 0, 0, 0⟩,
  ⟨0x500C, 4, 1, 0, 0xFF, 0, 0, 0⟩,
  ⟨0x5010, 4, 1, 0xFF, 0, 0, 0, 0⟩,
  ⟨0x5014, 4, 4, 0, 0xFFFFFFFF, 0, 0, 0⟩,
  ⟨0x5024, 4, 4, 0, 0, 0, 0, 0⟩,
  ⟨0x5034, 4, 1, 0x800000FF, 0, 0, 0, 0⟩,
  ⟨0x5038, 4, 1, 0xFFFFFFFF, 0, 0, 0, 0x35800000⟩,
  ⟨0x503C, 4, 1, 0xFFFFFFFF, 0, 0, 0, 0x3A800000⟩,
  ⟨0x5040, 4, 1, 0, 0, 0, 0, 0⟩,
  ⟨0x5044, 4, 1, 0, 0, 0, 0, 0⟩,
  ⟨0x5048, 4, 1, 0, 0, 0xFFFFFFFF, 0, 0⟩,
  ⟨0x504C, 4, 1, 0, 0, 0xFFFFFFFF, 0, 0⟩,
  ⟨0x5050, 4, 1, 0, 0, 0xFFFFFFFF, 0, 0⟩,
  ⟨0x5054, 4, 1, 0x3, 0, 0, 0, 0⟩,
  ⟨0x5058, 4, 1, 0, 0, 0, 0, 0x4⟩,
  ⟨0x505C, 4, 1, 0, 0, 0, 0, 0⟩,
  ⟨0x5060, 4, 1, 0, 0, 0, 0, 0⟩,
  ⟨0x5064, 4, 1, 0, 0, 0, 0, 0⟩,
  ⟨0x5068, 4, 1, 0, 0, 0, 0, 0⟩,
  ⟨0x506C, 4, 1, 0, 0, 0, 0, 0⟩,
  ⟨0x5070, 4, 1, 0, 0, 0xFFFFFFFF, 0, 0⟩,
  ⟨0x5074, 4, 1, 0, 0, 0xFFFFFFFF, 0, 0⟩]

/-! ## POS_ registers, from BAR0 offset 0x5400 (R464) -/

abbrev POS_CHN_CFG : Nat := 0x5400
abbrev POS_CHN_CFG__EN : Fld := ⟨POS_CHN_CFG, 31, 31⟩
abbrev POS_CHN_CFG__DIR : Fld := ⟨POS_CHN_CFG, 30, 30⟩
abbrev POS_CHN_CFG__STILL_TMO : Fld := ⟨POS_CHN_CFG, 23, 16⟩
abbrev POS_CHN_CFG__LEAD : Fld := ⟨POS_CHN_CFG, 15, 12⟩
abbrev POS_CHN_CFG__SPAN : Fld := ⟨POS_CHN_CFG, 9, 8⟩
abbrev POS_CHN_CFG__SRC : Fld := ⟨POS_CHN_CFG, 7, 0⟩
abbrev POS_CHN_REV : Nat := 0x5404
abbrev POS_CHN_REV__REV_LIMIT : Fld := ⟨POS_CHN_REV, 15, 0⟩
abbrev POS_CHN_HO : Nat := 0x5408
abbrev POS_CHN_HO__HO_SH : Fld := ⟨POS_CHN_HO, 20, 16⟩
abbrev POS_CHN_HO__ALIGN_TOL : Fld := ⟨POS_CHN_HO, 15, 0⟩
abbrev POS_CHN_STATUS : Nat := 0x540C
abbrev POS_CHN_STATUS__BACKLOG : Fld := ⟨POS_CHN_STATUS, 31, 16⟩
abbrev POS_CHN_STATUS__CFG_REJ : Fld := ⟨POS_CHN_STATUS, 7, 7⟩
abbrev POS_CHN_STATUS__ALIGN_ERR : Fld := ⟨POS_CHN_STATUS, 6, 6⟩
abbrev POS_CHN_STATUS__ALIGNED : Fld := ⟨POS_CHN_STATUS, 5, 5⟩
abbrev POS_CHN_STATUS__ALIGN_ARMED : Fld := ⟨POS_CHN_STATUS, 4, 4⟩
abbrev POS_CHN_STATUS__REV_OVER : Fld := ⟨POS_CHN_STATUS, 3, 3⟩
abbrev POS_CHN_STATUS__REVERSED : Fld := ⟨POS_CHN_STATUS, 2, 2⟩
abbrev POS_CHN_STATUS__STANDSTILL : Fld := ⟨POS_CHN_STATUS, 1, 1⟩
abbrev POS_CHN_STATUS__ACTIVE : Fld := ⟨POS_CHN_STATUS, 0, 0⟩
abbrev POS_CHN_SPEED : Nat := 0x5410
abbrev POS_CHN_SPEED__INC : Fld := ⟨POS_CHN_SPEED, 31, 0⟩
abbrev POS_CHN_ALIGN : Nat := 0x5414
abbrev POS_CHN_ALIGN__LAST_ERR : Fld := ⟨POS_CHN_ALIGN, 15, 0⟩
abbrev POS_CHN_HW_LO : Nat := 0x5418
abbrev POS_CHN_HW_LO__HW : Fld := ⟨POS_CHN_HW_LO, 31, 0⟩
abbrev POS_CHN_HW_HI : Nat := 0x541C
abbrev POS_CHN_HW_HI__HW : Fld := ⟨POS_CHN_HW_HI, 31, 0⟩
abbrev POS_MAN_STATUS : Nat := 0x5420
abbrev POS_MAN_STATUS__COUNT : Fld := ⟨POS_MAN_STATUS, 28, 16⟩
abbrev POS_MAN_STATUS__LATE_SEEN : Fld := ⟨POS_MAN_STATUS, 1, 1⟩
abbrev POS_MAN_STATUS__FULL_SEEN : Fld := ⟨POS_MAN_STATUS, 0, 0⟩
abbrev POS_MAN_NEXT_LO : Nat := 0x5424
abbrev POS_MAN_NEXT_LO__NEXT : Fld := ⟨POS_MAN_NEXT_LO, 31, 0⟩
abbrev POS_MAN_NEXT_HI : Nat := 0x5428
abbrev POS_MAN_NEXT_HI__NEXT : Fld := ⟨POS_MAN_NEXT_HI, 31, 0⟩
abbrev POS_MAN_FIRED : Nat := 0x542C
abbrev POS_MAN_FIRED__FIRED : Fld := ⟨POS_MAN_FIRED, 31, 0⟩
abbrev POS_MAN_EXC : Nat := 0x5430
abbrev POS_MAN_EXC__LATE : Fld := ⟨POS_MAN_EXC, 31, 24⟩
abbrev POS_MAN_EXC__PAST : Fld := ⟨POS_MAN_EXC, 23, 16⟩
abbrev POS_MAN_EXC__SUPPRESSED : Fld := ⟨POS_MAN_EXC, 15, 8⟩
abbrev POS_MAN_EXC__BLOCKED : Fld := ⟨POS_MAN_EXC, 7, 0⟩
abbrev POS_STATUS : Nat := 0x5434
abbrev POS_STATUS__CFG_REJ : Fld := ⟨POS_STATUS, 0, 0⟩
abbrev POS_INT_STATUS : Nat := 0x5438
abbrev POS_INT_STATUS__PD_LOST : Fld := ⟨POS_INT_STATUS, 4, 4⟩
abbrev POS_INT_STATUS__SER_ERR : Fld := ⟨POS_INT_STATUS, 3, 3⟩
abbrev POS_INT_STATUS__INDEX_MISMATCH : Fld := ⟨POS_INT_STATUS, 2, 2⟩
abbrev POS_INT_STATUS__QUAD_ERR : Fld := ⟨POS_INT_STATUS, 1, 1⟩
abbrev POS_INT_STATUS__DIR_CHG : Fld := ⟨POS_INT_STATUS, 0, 0⟩
abbrev POS_INT_EN : Nat := 0x543C
abbrev POS_INT_EN__PD_LOST : Fld := ⟨POS_INT_EN, 4, 4⟩
abbrev POS_INT_EN__SER_ERR : Fld := ⟨POS_INT_EN, 3, 3⟩
abbrev POS_INT_EN__INDEX_MISMATCH : Fld := ⟨POS_INT_EN, 2, 2⟩
abbrev POS_INT_EN__QUAD_ERR : Fld := ⟨POS_INT_EN, 1, 1⟩
abbrev POS_INT_EN__DIR_CHG : Fld := ⟨POS_INT_EN, 0, 0⟩
abbrev POS_DIR_PEND (i : Nat) : Nat := 0x5440 + 4 * i
abbrev POS_DIR_PEND__PEND (i : Nat) : Fld := ⟨POS_DIR_PEND i, 31, 0⟩
abbrev POS_ERR_PEND (i : Nat) : Nat := 0x5460 + 4 * i
abbrev POS_ERR_PEND__PEND (i : Nat) : Fld := ⟨POS_ERR_PEND i, 31, 0⟩
abbrev POS_TICK_LO : Nat := 0x5480
abbrev POS_TICK_LO__TICK : Fld := ⟨POS_TICK_LO, 31, 0⟩
abbrev POS_TICK_HI : Nat := 0x5484
abbrev POS_TICK_HI__TICK : Fld := ⟨POS_TICK_HI, 31, 0⟩
abbrev POS_CH_CFG (i : Nat) : Nat := 0x5488 + 4 * i
abbrev POS_CH_CFG__TYPE (i : Nat) : Fld := ⟨POS_CH_CFG i, 31, 29⟩
abbrev POS_CH_CFG__SRCIDX (i : Nat) : Fld := ⟨POS_CH_CFG i, 28, 24⟩
abbrev POS_CH_CFG__INV_DIR (i : Nat) : Fld := ⟨POS_CH_CFG i, 23, 23⟩
abbrev POS_CH_CFG__SPD_WIN (i : Nat) : Fld := ⟨POS_CH_CFG i, 22, 20⟩
abbrev POS_CH_CFG__REFINE (i : Nat) : Fld := ⟨POS_CH_CFG i, 19, 19⟩
abbrev POS_CH_CFG__RESTART_REV (i : Nat) : Fld := ⟨POS_CH_CFG i, 18, 18⟩
abbrev POS_CH_CFG__SPD_MODE (i : Nat) : Fld := ⟨POS_CH_CFG i, 17, 17⟩
abbrev POS_CH_CFG__IDX_MODE (i : Nat) : Fld := ⟨POS_CH_CFG i, 15, 14⟩
abbrev POS_CH_CFG__IDX_ZERO (i : Nat) : Fld := ⟨POS_CH_CFG i, 13, 13⟩
abbrev POS_CH_CFG__IDX_GATE (i : Nat) : Fld := ⟨POS_CH_CFG i, 12, 12⟩
abbrev POS_CH_MOD (i : Nat) : Nat := 0x5888 + 4 * i
abbrev POS_CH_MOD__MOD (i : Nat) : Fld := ⟨POS_CH_MOD i, 16, 0⟩
abbrev POS_CH_IDX (i : Nat) : Nat := 0x5C88 + 4 * i
abbrev POS_CH_IDX__IDX_TOL (i : Nat) : Fld := ⟨POS_CH_IDX i, 31, 16⟩
abbrev POS_CH_IDX__STILL_P (i : Nat) : Fld := ⟨POS_CH_IDX i, 15, 8⟩
abbrev POS_CH_SMP (i : Nat) : Nat := 0x6088 + 4 * i
abbrev POS_CH_SMP__SMP_PHASE (i : Nat) : Fld := ⟨POS_CH_SMP i, 17, 0⟩
abbrev POS_CH_CTL (i : Nat) : Nat := 0x6488 + 4 * i
abbrev POS_CH_CTL__IDX_ARM (i : Nat) : Fld := ⟨POS_CH_CTL i, 0, 0⟩
abbrev POS_CH_STAT (i : Nat) : Nat := 0x6888 + 4 * i
abbrev POS_CH_STAT__CONF (i : Nat) : Fld := ⟨POS_CH_STAT i, 31, 24⟩
abbrev POS_CH_STAT__AGE (i : Nat) : Fld := ⟨POS_CH_STAT i, 23, 16⟩
abbrev POS_CH_STAT__DIR (i : Nat) : Fld := ⟨POS_CH_STAT i, 15, 15⟩
abbrev POS_CH_STAT__STANDSTILL (i : Nat) : Fld := ⟨POS_CH_STAT i, 14, 14⟩
abbrev POS_CH_STAT__SPD_VALID (i : Nat) : Fld := ⟨POS_CH_STAT i, 13, 13⟩
abbrev POS_CH_STAT__ARMED (i : Nat) : Fld := ⟨POS_CH_STAT i, 12, 12⟩
abbrev POS_CH_STAT__SPD_CLAMP (i : Nat) : Fld := ⟨POS_CH_STAT i, 8, 8⟩
abbrev POS_CH_STAT__SER_WARN (i : Nat) : Fld := ⟨POS_CH_STAT i, 7, 7⟩
abbrev POS_CH_STAT__SER_JUMP (i : Nat) : Fld := ⟨POS_CH_STAT i, 6, 6⟩
abbrev POS_CH_STAT__SER_ERR (i : Nat) : Fld := ⟨POS_CH_STAT i, 5, 5⟩
abbrev POS_CH_STAT__QUAD_ERR (i : Nat) : Fld := ⟨POS_CH_STAT i, 4, 4⟩
abbrev POS_CH_STAT__INDEX_MISMATCH (i : Nat) : Fld := ⟨POS_CH_STAT i, 3, 3⟩
abbrev POS_CH_STAT__IDX_RESET (i : Nat) : Fld := ⟨POS_CH_STAT i, 2, 2⟩
abbrev POS_CH_STAT__REV_SEEN (i : Nat) : Fld := ⟨POS_CH_STAT i, 1, 1⟩
abbrev POS_CH_POS_LO (i : Nat) : Nat := 0x6C88 + 8 * i
abbrev POS_CH_POS_LO__POS (i : Nat) : Fld := ⟨POS_CH_POS_LO i, 31, 0⟩
abbrev POS_CH_POS_HI (i : Nat) : Nat := 0x6C8C + 8 * i
abbrev POS_CH_POS_HI__POS (i : Nat) : Fld := ⟨POS_CH_POS_HI i, 31, 0⟩
abbrev POS_CH_REV (i : Nat) : Nat := 0x7488 + 4 * i
abbrev POS_CH_REV__REV (i : Nat) : Fld := ⟨POS_CH_REV i, 31, 0⟩
abbrev POS_CH_CNT (i : Nat) : Nat := 0x7888 + 4 * i
abbrev POS_CH_CNT__CNT (i : Nat) : Fld := ⟨POS_CH_CNT i, 15, 0⟩
abbrev POS_CH_SPD (i : Nat) : Nat := 0x7C88 + 4 * i
abbrev POS_CH_SPD__SPD (i : Nat) : Fld := ⟨POS_CH_SPD i, 31, 0⟩
abbrev POS_CH_IDXLAT (i : Nat) : Nat := 0x8088 + 4 * i
abbrev POS_CH_IDXLAT__LAST_D (i : Nat) : Fld := ⟨POS_CH_IDXLAT i, 31, 16⟩
abbrev POS_CH_IDXLAT__LAST_C (i : Nat) : Fld := ⟨POS_CH_IDXLAT i, 15, 0⟩
abbrev POS_CH_ERR (i : Nat) : Nat := 0x8488 + 4 * i
abbrev POS_CH_ERR__IDX_MIS_CNT (i : Nat) : Fld := ⟨POS_CH_ERR i, 31, 16⟩
abbrev POS_CH_ERR__ERR_CNT (i : Nat) : Fld := ⟨POS_CH_ERR i, 15, 0⟩
abbrev POS_ABZ_CFG (i : Nat) : Nat := 0x8888 + 4 * i
abbrev POS_ABZ_CFG__DECODE (i : Nat) : Fld := ⟨POS_ABZ_CFG i, 9, 8⟩
abbrev POS_ABZ_CFG__FILT (i : Nat) : Fld := ⟨POS_ABZ_CFG i, 7, 0⟩
abbrev POS_SER_CFG (i : Nat) : Nat := 0x8908 + 4 * i
abbrev POS_SER_CFG__PROTO (i : Nat) : Fld := ⟨POS_SER_CFG i, 31, 30⟩
abbrev POS_SER_CFG__NBITS (i : Nat) : Fld := ⟨POS_SER_CFG i, 29, 24⟩
abbrev POS_SER_CFG__CRCLEN (i : Nat) : Fld := ⟨POS_SER_CFG i, 23, 20⟩
abbrev POS_SER_CFG__GRAY (i : Nat) : Fld := ⟨POS_SER_CFG i, 19, 19⟩
abbrev POS_SER_CFG__PAR (i : Nat) : Fld := ⟨POS_SER_CFG i, 18, 18⟩
abbrev POS_SER_CFG__DBL (i : Nat) : Fld := ⟨POS_SER_CFG i, 17, 17⟩
abbrev POS_SER_CFG__CLKDIV (i : Nat) : Fld := ⟨POS_SER_CFG i, 15, 4⟩
abbrev POS_SER_CFG2 (i : Nat) : Nat := 0x8948 + 4 * i
abbrev POS_SER_CFG2__NEW (i : Nat) : Fld := ⟨POS_SER_CFG2 i, 25, 24⟩
abbrev POS_SER_CFG2__CRC_POLY (i : Nat) : Fld := ⟨POS_SER_CFG2 i, 23, 16⟩
abbrev POS_SER_CFG2__SER_TMO (i : Nat) : Fld := ⟨POS_SER_CFG2 i, 11, 0⟩
abbrev POS_SER_JUMP (i : Nat) : Nat := 0x8988 + 4 * i
abbrev POS_SER_JUMP__JUMP_MAX (i : Nat) : Fld := ⟨POS_SER_JUMP i, 31, 0⟩
abbrev POS_PD_CFG (i : Nat) : Nat := 0x89C8 + 4 * i
abbrev POS_PD_CFG__EN (i : Nat) : Fld := ⟨POS_PD_CFG i, 31, 31⟩
abbrev POS_PD_CFG__SRC_CHN (i : Nat) : Fld := ⟨POS_PD_CFG i, 30, 30⟩
abbrev POS_PD_CFG__CH (i : Nat) : Fld := ⟨POS_PD_CFG i, 23, 16⟩
abbrev POS_PD_CFG__GAP (i : Nat) : Fld := ⟨POS_PD_CFG i, 15, 8⟩
abbrev POS_PD_CFG__ZSH (i : Nat) : Fld := ⟨POS_PD_CFG i, 4, 0⟩
abbrev POS_PD_RATIO (i : Nat) : Nat := 0x89E8 + 4 * i
abbrev POS_PD_RATIO__N (i : Nat) : Fld := ⟨POS_PD_RATIO i, 31, 16⟩
abbrev POS_PD_RATIO__M (i : Nat) : Fld := ⟨POS_PD_RATIO i, 15, 0⟩
abbrev POS_PD_STAT (i : Nat) : Nat := 0x8A08 + 4 * i
abbrev POS_PD_STAT__BACKLOG (i : Nat) : Fld := ⟨POS_PD_STAT i, 31, 16⟩
abbrev POS_PD_STAT__BDIR (i : Nat) : Fld := ⟨POS_PD_STAT i, 2, 2⟩
abbrev POS_PD_STAT__LOST (i : Nat) : Fld := ⟨POS_PD_STAT i, 1, 1⟩
abbrev POS_PD_STAT__DRIVING (i : Nat) : Fld := ⟨POS_PD_STAT i, 0, 0⟩
abbrev POS_PD_LOST (i : Nat) : Nat := 0x8A28 + 4 * i
abbrev POS_PD_LOST__LOST_CNT (i : Nat) : Fld := ⟨POS_PD_LOST i, 31, 0⟩

/-- The register map's lines of the POS_ region, part 0. -/
def rowsPOS0 : List RegRow := [
  ⟨0x5400, 4, 1, 0xC0FFF3FF, 0, 0, 0, 0x81000⟩,
  ⟨0x5404, 4, 1, 0xFFFF, 0, 0, 0, 0⟩,
  ⟨0x5408, 4, 1, 0x1FFFFF, 0, 0, 0, 0⟩,
  ⟨0x540C, 4, 1, 0, 0xC8, 0, 0, 0⟩,
  ⟨0x5410, 4, 1, 0, 0, 0, 0, 0⟩,
  ⟨0x5414, 4, 1, 0, 0, 0, 0, 0⟩,
  ⟨0x5418, 4, 1, 0, 0, 0, 0, 0⟩,
  ⟨0x541C, 4, 1, 0, 0, 0, 0, 0⟩,
  ⟨0x5420, 4, 1, 0, 0x3, 0, 0, 0⟩,
  ⟨0x5424, 4, 1, 0, 0, 0, 0, 0⟩,
  ⟨0x5428, 4, 1, 0, 0, 0, 0, 0⟩,
  ⟨0x542C, 4, 1, 0, 0, 0xFFFFFFFF, 0, 0⟩,
  ⟨0x5430, 4, 1, 0, 0, 0xFFFFFFFF, 0, 0⟩,
  ⟨0x5434, 4, 1, 0, 0x1, 0, 0, 0⟩,
  ⟨0x5438, 4, 1, 0, 0x1F, 0, 0, 0⟩,
  ⟨0x543C, 4, 1, 0x1F, 0, 0, 0, 0⟩,
  ⟨0x5440, 4, 8, 0, 0xFFFFFFFF, 0, 0, 0⟩,
  ⟨0x5460, 4, 8, 0, 0xFFFFFFFF, 0, 0, 0⟩,
  ⟨0x5480, 4, 1, 0, 0, 0, 0, 0⟩,
  ⟨0x5484, 4, 1, 0, 0, 0, 0, 0⟩,
  ⟨0x5488, 4, 256, 0xFFFEF000, 0, 0, 0, 0⟩,
  ⟨0x5888, 4, 256, 0x1FFFF, 0, 0, 0, 0x10000⟩,
  ⟨0x5C88, 4, 256, 0xFFFFFF00, 0, 0, 0, 0x800⟩,
  ⟨0x6088, 4, 256, 0x3FFFF, 0, 0, 0, 0⟩]

/-- The register map's lines of the POS_ region, part 1. -/
def rowsPOS1 : List RegRow := [
  ⟨0x6488, 4, 256, 0, 0, 0, 0x1, 0⟩,
  ⟨0x6888, 4, 256, 0, 0x1FE, 0, 0, 0xFF4000⟩,
  ⟨0x6C88, 8, 256, 0, 0, 0, 0, 0⟩,
  ⟨0x6C8C, 8, 256, 0, 0, 0, 0, 0⟩,
  ⟨0x7488, 4, 256, 0, 0, 0, 0, 0⟩,
  ⟨0x7888, 4, 256, 0, 0, 0, 0, 0⟩,
  ⟨0x7C88, 4, 256, 0, 0, 0, 0, 0⟩,
  ⟨0x8088, 4, 256, 0, 0, 0, 0, 0⟩,
  ⟨0x8488, 4, 256, 0, 0, 0xFFFFFFFF, 0, 0⟩,
  ⟨0x8888, 4, 32, 0x3FF, 0, 0, 0, 0x8⟩,
  ⟨0x8908, 4, 16, 0xFFFEFFF0, 0, 0, 0, 0⟩,
  ⟨0x8948, 4, 16, 0x3FF0FFF, 0, 0, 0, 0⟩,
  ⟨0x8988, 4, 16, 0xFFFFFFFF, 0, 0, 0, 0⟩,
  ⟨0x89C8, 4, 8, 0xC0FFFF1F, 0, 0, 0, 0x5000⟩,
  ⟨0x89E8, 4, 8, 0xFFFFFFFF, 0, 0, 0, 0x10001⟩,
  ⟨0x8A08, 4, 8, 0, 0x2, 0, 0, 0⟩,
  ⟨0x8A28, 4, 8, 0, 0, 0xFFFFFFFF, 0, 0⟩]

/-- The register map's lines of the POS_ region. -/
def rowsPOS : List RegRow := rowsPOS0 ++ rowsPOS1

/-! ## TOW_ registers, from BAR0 offset 0x9000 (R464) -/

abbrev TOW_LAD_CTL (i : Nat) : Nat := 0x9000 + 4 * i
abbrev TOW_LAD_CTL__FLUSH (i : Nat) : Fld := ⟨TOW_LAD_CTL i, 31, 31⟩
abbrev TOW_LAD_CTL__FLUSH_TMO (i : Nat) : Fld := ⟨TOW_LAD_CTL i, 15, 0⟩
abbrev TOW_LAD_STAT (i : Nat) : Nat := 0x9040 + 4 * i
abbrev TOW_LAD_STAT__FLUSH_PEND (i : Nat) : Fld := ⟨TOW_LAD_STAT i, 31, 31⟩
abbrev TOW_LAD_STAT__FLUSH_TRUNC (i : Nat) : Fld := ⟨TOW_LAD_STAT i, 30, 30⟩
abbrev TOW_LAD_STAT__DROP (i : Nat) : Fld := ⟨TOW_LAD_STAT i, 29, 29⟩
abbrev TOW_LAD_STAT__PKT_CNT (i : Nat) : Fld := ⟨TOW_LAD_STAT i, 26, 16⟩
abbrev TOW_LAD_STAT__LEVEL (i : Nat) : Fld := ⟨TOW_LAD_STAT i, 10, 0⟩
abbrev TOW_LAD_DATA_LO (i : Nat) : Nat := 0x9080 + 8 * i
abbrev TOW_LAD_DATA_LO__DATA_LO (i : Nat) : Fld := ⟨TOW_LAD_DATA_LO i, 31, 0⟩
abbrev TOW_LAD_DATA_HI (i : Nat) : Nat := 0x9084 + 8 * i
abbrev TOW_LAD_DATA_HI__DATA_HI (i : Nat) : Fld := ⟨TOW_LAD_DATA_HI i, 31, 0⟩
abbrev TOW_LAD_TAG (i : Nat) : Nat := 0x9100 + 4 * i
abbrev TOW_LAD_TAG__IDLE (i : Nat) : Fld := ⟨TOW_LAD_TAG i, 31, 31⟩
abbrev TOW_LAD_TAG__END (i : Nat) : Fld := ⟨TOW_LAD_TAG i, 30, 30⟩
abbrev TOW_LAD_TAG__TRUNC (i : Nat) : Fld := ⟨TOW_LAD_TAG i, 29, 29⟩
abbrev TOW_LAD_TAG__VBYTES (i : Nat) : Fld := ⟨TOW_LAD_TAG i, 3, 0⟩
abbrev TOW_LAD_DROP (i : Nat) : Nat := 0x9140 + 4 * i
abbrev TOW_LAD_DROP__DROP_CNT (i : Nat) : Fld := ⟨TOW_LAD_DROP i, 31, 0⟩
abbrev TOW_STATUS : Nat := 0x9180
abbrev TOW_STATUS__CONFLICT : Fld := ⟨TOW_STATUS, 3, 3⟩
abbrev TOW_STATUS__YIELDED : Fld := ⟨TOW_STATUS, 2, 2⟩
abbrev TOW_STATUS__FOREIGN_SEEN : Fld := ⟨TOW_STATUS, 1, 1⟩
abbrev TOW_STATUS__CFG_REJ : Fld := ⟨TOW_STATUS, 0, 0⟩
abbrev TOW_INT_STATUS : Nat := 0x9184
abbrev TOW_INT_STATUS__BRINGUP : Fld := ⟨TOW_INT_STATUS, 7, 7⟩
abbrev TOW_INT_STATUS__BARGE_EVT : Fld := ⟨TOW_INT_STATUS, 6, 6⟩
abbrev TOW_INT_STATUS__LINK_DOWN : Fld := ⟨TOW_INT_STATUS, 5, 5⟩
abbrev TOW_INT_STATUS__MARGIN_LOW : Fld := ⟨TOW_INT_STATUS, 4, 4⟩
abbrev TOW_INT_STATUS__FOREIGN : Fld := ⟨TOW_INT_STATUS, 3, 3⟩
abbrev TOW_INT_STATUS__YIELD : Fld := ⟨TOW_INT_STATUS, 2, 2⟩
abbrev TOW_INT_STATUS__READMIT : Fld := ⟨TOW_INT_STATUS, 1, 1⟩
abbrev TOW_INT_STATUS__QUAR : Fld := ⟨TOW_INT_STATUS, 0, 0⟩
abbrev TOW_INT_EN : Nat := 0x9188
abbrev TOW_INT_EN__BRINGUP : Fld := ⟨TOW_INT_EN, 7, 7⟩
abbrev TOW_INT_EN__BARGE_EVT : Fld := ⟨TOW_INT_EN, 6, 6⟩
abbrev TOW_INT_EN__LINK_DOWN : Fld := ⟨TOW_INT_EN, 5, 5⟩
abbrev TOW_INT_EN__MARGIN_LOW : Fld := ⟨TOW_INT_EN, 4, 4⟩
abbrev TOW_INT_EN__FOREIGN : Fld := ⟨TOW_INT_EN, 3, 3⟩
abbrev TOW_INT_EN__YIELD : Fld := ⟨TOW_INT_EN, 2, 2⟩
abbrev TOW_INT_EN__READMIT : Fld := ⟨TOW_INT_EN, 1, 1⟩
abbrev TOW_INT_EN__QUAR : Fld := ⟨TOW_INT_EN, 0, 0⟩
abbrev TOW_EPOCH : Nat := 0x918C
abbrev TOW_EPOCH__EPOCH : Fld := ⟨TOW_EPOCH, 31, 0⟩
abbrev TOW_MASTER_CFG : Nat := 0x9190
abbrev TOW_MASTER_CFG__RANK : Fld := ⟨TOW_MASTER_CFG, 3, 0⟩
abbrev TOW_QUAR_PEND (i : Nat) : Nat := 0x9194 + 4 * i
abbrev TOW_QUAR_PEND__PEND (i : Nat) : Fld := ⟨TOW_QUAR_PEND i, 31, 0⟩
abbrev TOW_PORT_CFG (i : Nat) : Nat := 0x91D4 + 4 * i
abbrev TOW_PORT_CFG__EN (i : Nat) : Fld := ⟨TOW_PORT_CFG i, 31, 31⟩
abbrev TOW_PORT_CFG__RING (i : Nat) : Fld := ⟨TOW_PORT_CFG i, 30, 30⟩
abbrev TOW_PORT_CFG__NBM1 (i : Nat) : Fld := ⟨TOW_PORT_CFG i, 28, 26⟩
abbrev TOW_PORT_CFG__GUARD (i : Nat) : Fld := ⟨TOW_PORT_CFG i, 25, 18⟩
abbrev TOW_PORT_CFG__APPLY (i : Nat) : Fld := ⟨TOW_PORT_CFG i, 17, 0⟩
abbrev TOW_PORT_CFG2 (i : Nat) : Nat := 0x92D4 + 4 * i
abbrev TOW_PORT_CFG2__MARGIN_WARN (i : Nat) : Fld := ⟨TOW_PORT_CFG2 i, 31, 24⟩
abbrev TOW_PORT_CFG2__READMIT_P (i : Nat) : Fld := ⟨TOW_PORT_CFG2 i, 23, 16⟩
abbrev TOW_PORT_CFG2__READMIT_N (i : Nat) : Fld := ⟨TOW_PORT_CFG2 i, 15, 12⟩
abbrev TOW_PORT_CFG2__LATE_N (i : Nat) : Fld := ⟨TOW_PORT_CFG2 i, 11, 8⟩
abbrev TOW_PORT_CTL (i : Nat) : Nat := 0x93D4 + 4 * i
abbrev TOW_PORT_CTL__MRG_RST (i : Nat) : Fld := ⟨TOW_PORT_CTL i, 1, 1⟩
abbrev TOW_PORT_CTL__BRINGUP (i : Nat) : Fld := ⟨TOW_PORT_CTL i, 0, 0⟩
abbrev TOW_PORT_STAT (i : Nat) : Nat := 0x94D4 + 4 * i
abbrev TOW_PORT_STAT__QUAR (i : Nat) : Fld := ⟨TOW_PORT_STAT i, 31, 24⟩
abbrev TOW_PORT_STAT__ADM (i : Nat) : Fld := ⟨TOW_PORT_STAT i, 23, 16⟩
abbrev TOW_PORT_STAT__EXTRA (i : Nat) : Fld := ⟨TOW_PORT_STAT i, 15, 13⟩
abbrev TOW_PORT_STAT__NO_MGMT (i : Nat) : Fld := ⟨TOW_PORT_STAT i, 12, 12⟩
abbrev TOW_PORT_STAT__PSTATE (i : Nat) : Fld := ⟨TOW_PORT_STAT i, 11, 8⟩
abbrev TOW_PORT_STAT__RX_UP (i : Nat) : Fld := ⟨TOW_PORT_STAT i, 0, 0⟩
abbrev TOW_PORT_MARGIN (i : Nat) : Nat := 0x95D4 + 4 * i
abbrev TOW_PORT_MARGIN__MIN_MARGIN (i : Nat) : Fld := ⟨TOW_PORT_MARGIN i, 31, 16⟩
abbrev TOW_PORT_MARGIN__ENTRY (i : Nat) : Fld := ⟨TOW_PORT_MARGIN i, 11, 0⟩
abbrev TOW_PORT_CNT0 (i : Nat) : Nat := 0x96D4 + 4 * i
abbrev TOW_PORT_CNT0__LATE_CNT (i : Nat) : Fld := ⟨TOW_PORT_CNT0 i, 31, 16⟩
abbrev TOW_PORT_CNT0__MISS_CNT (i : Nat) : Fld := ⟨TOW_PORT_CNT0 i, 15, 0⟩
abbrev TOW_PORT_CNT1 (i : Nat) : Nat := 0x97D4 + 4 * i
abbrev TOW_PORT_CNT1__SLIP_CNT (i : Nat) : Fld := ⟨TOW_PORT_CNT1 i, 31, 16⟩
abbrev TOW_PORT_CNT1__SKIP_CNT (i : Nat) : Fld := ⟨TOW_PORT_CNT1 i, 15, 8⟩
abbrev TOW_PORT_CNT1__DRAG_CNT (i : Nat) : Fld := ⟨TOW_PORT_CNT1 i, 7, 0⟩
abbrev TOW_PORT_CNT2 (i : Nat) : Nat := 0x98D4 + 4 * i
abbrev TOW_PORT_CNT2__RX_DISC (i : Nat) : Fld := ⟨TOW_PORT_CNT2 i, 31, 16⟩
abbrev TOW_PORT_CNT2__CODE_ERR (i : Nat) : Fld := ⟨TOW_PORT_CNT2 i, 15, 0⟩
abbrev TOW_PORT_CNT3 (i : Nat) : Nat := 0x99D4 + 4 * i
abbrev TOW_PORT_CNT3__LINK_DOWN (i : Nat) : Fld := ⟨TOW_PORT_CNT3 i, 31, 24⟩
abbrev TOW_PORT_CNT3__FOREIGN_CNT (i : Nat) : Fld := ⟨TOW_PORT_CNT3 i, 23, 16⟩
abbrev TOW_PORT_CNT3__EARLY_CNT (i : Nat) : Fld := ⟨TOW_PORT_CNT3 i, 15, 8⟩
abbrev TOW_PORT_CNT3__MAP_ERR (i : Nat) : Fld := ⟨TOW_PORT_CNT3 i, 7, 0⟩
abbrev TOW_BSTAT (i : Nat) : Nat := 0x9AD4 + 4 * i
abbrev TOW_BSTAT__ADMST (i : Nat) : Fld := ⟨TOW_BSTAT i, 31, 30⟩
abbrev TOW_BSTAT__FAILRUN (i : Nat) : Fld := ⟨TOW_BSTAT i, 23, 16⟩
abbrev TOW_BSTAT__GOODRUN (i : Nat) : Fld := ⟨TOW_BSTAT i, 15, 8⟩
abbrev TOW_BSTATUS (i : Nat) : Nat := 0xA2D4 + 4 * i
abbrev TOW_BSTATUS__STATUS (i : Nat) : Fld := ⟨TOW_BSTATUS i, 31, 0⟩

/-- The register map's lines of the TOW_ region. -/
def rowsTOW : List RegRow := [
  ⟨0x9000, 4, 16, 0xFFFF, 0, 0, 0x80000000, 0x64⟩,
  ⟨0x9040, 4, 16, 0, 0x60000000, 0, 0, 0⟩,
  ⟨0x9080, 8, 16, 0, 0, 0, 0, 0⟩,
  ⟨0x9084, 8, 16, 0, 0, 0, 0, 0⟩,
  ⟨0x9100, 4, 16, 0, 0, 0, 0, 0x80000000⟩,
  ⟨0x9140, 4, 16, 0, 0, 0xFFFFFFFF, 0, 0⟩,
  ⟨0x9180, 4, 1, 0, 0xB, 0, 0, 0⟩,
  ⟨0x9184, 4, 1, 0, 0xFF, 0, 0, 0⟩,
  ⟨0x9188, 4, 1, 0xFF, 0, 0, 0, 0⟩,
  ⟨0x918C, 4, 1, 0, 0, 0, 0, 0⟩,
  ⟨0x9190, 4, 1, 0xF, 0, 0, 0, 0⟩,
  ⟨0x9194, 4, 16, 0, 0xFFFFFFFF, 0, 0, 0⟩,
  ⟨0x91D4, 4, 64, 0xDFFFFFFF, 0, 0, 0, 0x800000⟩,
  ⟨0x92D4, 4, 64, 0xFFFFFF00, 0, 0, 0, 0x40408300⟩,
  ⟨0x93D4, 4, 64, 0, 0, 0, 0x3, 0⟩,
  ⟨0x94D4, 4, 64, 0, 0, 0, 0, 0⟩,
  ⟨0x95D4, 4, 64, 0, 0, 0, 0, 0x7FFF0000⟩,
  ⟨0x96D4, 4, 64, 0, 0, 0xFFFFFFFF, 0, 0⟩,
  ⟨0x97D4, 4, 64, 0, 0, 0xFFFFFFFF, 0, 0⟩,
  ⟨0x98D4, 4, 64, 0, 0, 0xFFFFFFFF, 0, 0⟩,
  ⟨0x99D4, 4, 64, 0, 0, 0xFFFFFFFF, 0, 0⟩,
  ⟨0x9AD4, 4, 512, 0, 0, 0, 0, 0⟩,
  ⟨0xA2D4, 4, 512, 0, 0, 0, 0, 0⟩]

/-! ## WEI_ registers, from BAR0 offset 0xB000 (R464) -/

abbrev WEI_STATUS : Nat := 0xB000
abbrev WEI_STATUS__WSTATE : Fld := ⟨WEI_STATUS, 31, 29⟩
abbrev WEI_STATUS__GRANT : Fld := ⟨WEI_STATUS, 28, 28⟩
abbrev WEI_STATUS__AUTH : Fld := ⟨WEI_STATUS, 27, 27⟩
abbrev WEI_STATUS__SS1_RUN : Fld := ⟨WEI_STATUS, 26, 26⟩
abbrev WEI_STATUS__RESET_ACT : Fld := ⟨WEI_STATUS, 25, 25⟩
abbrev WEI_STATUS__FIRST_CAUSE : Fld := ⟨WEI_STATUS, 12, 8⟩
abbrev WEI_INT_STATUS : Nat := 0xB004
abbrev WEI_INT_STATUS__FAILED : Fld := ⟨WEI_INT_STATUS, 9, 9⟩
abbrev WEI_INT_STATUS__PSET_ACTIVE : Fld := ⟨WEI_INT_STATUS, 8, 8⟩
abbrev WEI_INT_STATUS__PSET_CHECKED : Fld := ⟨WEI_INT_STATUS, 7, 7⟩
abbrev WEI_INT_STATUS__XCMP_SOFT : Fld := ⟨WEI_INT_STATUS, 6, 6⟩
abbrev WEI_INT_STATUS__RESET_EARLY : Fld := ⟨WEI_INT_STATUS, 5, 5⟩
abbrev WEI_INT_STATUS__RESET_STUCK : Fld := ⟨WEI_INT_STATUS, 4, 4⟩
abbrev WEI_INT_STATUS__RESET_DONE : Fld := ⟨WEI_INT_STATUS, 3, 3⟩
abbrev WEI_INT_STATUS__CLEARED : Fld := ⟨WEI_INT_STATUS, 2, 2⟩
abbrev WEI_INT_STATUS__TP_FAULT : Fld := ⟨WEI_INT_STATUS, 1, 1⟩
abbrev WEI_INT_STATUS__TRIP : Fld := ⟨WEI_INT_STATUS, 0, 0⟩
abbrev WEI_INT_EN : Nat := 0xB008
abbrev WEI_INT_EN__FAILED : Fld := ⟨WEI_INT_EN, 9, 9⟩
abbrev WEI_INT_EN__PSET_ACTIVE : Fld := ⟨WEI_INT_EN, 8, 8⟩
abbrev WEI_INT_EN__PSET_CHECKED : Fld := ⟨WEI_INT_EN, 7, 7⟩
abbrev WEI_INT_EN__XCMP_SOFT : Fld := ⟨WEI_INT_EN, 6, 6⟩
abbrev WEI_INT_EN__RESET_EARLY : Fld := ⟨WEI_INT_EN, 5, 5⟩
abbrev WEI_INT_EN__RESET_STUCK : Fld := ⟨WEI_INT_EN, 4, 4⟩
abbrev WEI_INT_EN__RESET_DONE : Fld := ⟨WEI_INT_EN, 3, 3⟩
abbrev WEI_INT_EN__CLEARED : Fld := ⟨WEI_INT_EN, 2, 2⟩
abbrev WEI_INT_EN__TP_FAULT : Fld := ⟨WEI_INT_EN, 1, 1⟩
abbrev WEI_INT_EN__TRIP : Fld := ⟨WEI_INT_EN, 0, 0⟩
abbrev WEI_CAUSE : Nat := 0xB00C
abbrev WEI_CAUSE__ACTIVE : Fld := ⟨WEI_CAUSE, 17, 1⟩
abbrev WEI_CAUSE_LATCH : Nat := 0xB010
abbrev WEI_CAUSE_LATCH__LATCH : Fld := ⟨WEI_CAUSE_LATCH, 17, 1⟩
abbrev WEI_IN_DEM : Nat := 0xB014
abbrev WEI_IN_DEM__DEM : Fld := ⟨WEI_IN_DEM, 23, 0⟩
abbrev WEI_IN_DISC : Nat := 0xB018
abbrev WEI_IN_DISC__DISC : Fld := ⟨WEI_IN_DISC, 23, 0⟩
abbrev WEI_IN_TPF : Nat := 0xB01C
abbrev WEI_IN_TPF__TPF : Fld := ⟨WEI_IN_TPF, 23, 0⟩
abbrev WEI_OUT_ON : Nat := 0xB020
abbrev WEI_OUT_ON__ON : Fld := ⟨WEI_OUT_ON, 23, 0⟩
abbrev WEI_OUT_FLT : Nat := 0xB024
abbrev WEI_OUT_FLT__FLT : Fld := ⟨WEI_OUT_FLT, 23, 0⟩
abbrev WEI_MON_TRIP (i : Nat) : Nat := 0xB028 + 4 * i
abbrev WEI_MON_TRIP__TRIP (i : Nat) : Fld := ⟨WEI_MON_TRIP i, 31, 0⟩
abbrev WEI_FMON_TRIP : Nat := 0xB048
abbrev WEI_FMON_TRIP__TRIP : Fld := ⟨WEI_FMON_TRIP, 31, 0⟩
abbrev WEI_PSET_ID : Nat := 0xB04C
abbrev WEI_PSET_ID__SET_ID : Fld := ⟨WEI_PSET_ID, 31, 0⟩
abbrev WEI_PSET_CRC : Nat := 0xB050
abbrev WEI_PSET_CRC__SET_CRC : Fld := ⟨WEI_PSET_CRC, 31, 0⟩
abbrev WEI_PSET_STAGE : Nat := 0xB054
abbrev WEI_PSET_STAGE__STAGED : Fld := ⟨WEI_PSET_STAGE, 31, 31⟩
abbrev WEI_PSET_STAGE__CHECK_OK : Fld := ⟨WEI_PSET_STAGE, 30, 30⟩
abbrev WEI_PSET_STAGE__CODE : Fld := ⟨WEI_PSET_STAGE, 15, 12⟩
abbrev WEI_PSET_STAGE__INDEX : Fld := ⟨WEI_PSET_STAGE, 11, 0⟩
abbrev WEI_PSET_SCRC : Nat := 0xB058
abbrev WEI_PSET_SCRC__STAGE_CRC : Fld := ⟨WEI_PSET_SCRC, 31, 0⟩
abbrev WEI_CNT : Nat := 0xB05C
abbrev WEI_CNT__XCMP_CNT : Fld := ⟨WEI_CNT, 31, 24⟩
abbrev WEI_CNT__TRIP_CNT : Fld := ⟨WEI_CNT, 23, 16⟩
abbrev WEI_CNT__RESET_EARLY_CNT : Fld := ⟨WEI_CNT, 15, 8⟩
abbrev WEI_CNT__RESET_STUCK_CNT : Fld := ⟨WEI_CNT, 7, 0⟩
abbrev WEI_CONN_STAT (i : Nat) : Nat := 0xB060 + 4 * i
abbrev WEI_CONN_STAT__CSTATE (i : Nat) : Fld := ⟨WEI_CONN_STAT i, 31, 29⟩
abbrev WEI_CONN_STAT__DEMAND (i : Nat) : Fld := ⟨WEI_CONN_STAT i, 28, 28⟩
abbrev WEI_CONN_STAT__RESET_BIT (i : Nat) : Fld := ⟨WEI_CONN_STAT i, 27, 27⟩
abbrev WEI_CONN_STAT__LAST_ERR (i : Nat) : Fld := ⟨WEI_CONN_STAT i, 23, 20⟩
abbrev WEI_CONN_STAT__LAST_SEQ (i : Nat) : Fld := ⟨WEI_CONN_STAT i, 15, 0⟩
abbrev WEI_CONN_CNT (i : Nat) : Nat := 0xB460 + 4 * i
abbrev WEI_CONN_CNT__CODE_ERR (i : Nat) : Fld := ⟨WEI_CONN_CNT i, 31, 24⟩
abbrev WEI_CONN_CNT__SEQ_ERR (i : Nat) : Fld := ⟨WEI_CONN_CNT i, 23, 16⟩
abbrev WEI_CONN_CNT__AGE_ERR (i : Nat) : Fld := ⟨WEI_CONN_CNT i, 15, 8⟩
abbrev WEI_CONN_CNT__LOST (i : Nat) : Fld := ⟨WEI_CONN_CNT i, 7, 0⟩
abbrev WEI_SL_UNKNOWN : Nat := 0xB860
abbrev WEI_SL_UNKNOWN__UNKNOWN : Fld := ⟨WEI_SL_UNKNOWN, 31, 0⟩
abbrev WEI_SSM_STAT : Nat := 0xB864
abbrev WEI_SSM_STAT__EVAL_SEQ : Fld := ⟨WEI_SSM_STAT, 31, 16⟩
abbrev WEI_SSM_STAT__TRACKS : Fld := ⟨WEI_SSM_STAT, 15, 8⟩
abbrev WEI_SSM_STAT__VIOL : Fld := ⟨WEI_SSM_STAT, 7, 7⟩
abbrev WEI_SSM_MIN : Nat := 0xB868
abbrev WEI_SSM_MIN__MARGIN : Fld := ⟨WEI_SSM_MIN, 31, 0⟩
abbrev WEI_SSM_MINLOC : Nat := 0xB86C
abbrev WEI_SSM_MINLOC__ARM : Fld := ⟨WEI_SSM_MINLOC, 31, 28⟩
abbrev WEI_SSM_MINLOC__CAPSULE : Fld := ⟨WEI_SSM_MINLOC, 27, 25⟩
abbrev WEI_SSM_MINLOC__SLOT : Fld := ⟨WEI_SSM_MINLOC, 5, 0⟩
abbrev WEI_SSM_HINT (i : Nat) : Nat := 0xB870 + 4 * i
abbrev WEI_SSM_HINT__HINT_HI (i : Nat) : Fld := ⟨WEI_SSM_HINT i, 31, 16⟩
abbrev WEI_SSM_HINT__HINT_LO (i : Nat) : Fld := ⟨WEI_SSM_HINT i, 15, 0⟩

/-- The register map's lines of the WEI_ region. -/
def rowsWEI : List RegRow := [
  ⟨0xB000, 4, 1, 0, 0, 0, 0, 0⟩,
  ⟨0xB004, 4, 1, 0, 0x3FF, 0, 0, 0⟩,
  ⟨0xB008, 4, 1, 0x3FF, 0, 0, 0, 0⟩,
  ⟨0xB00C, 4, 1, 0, 0, 0, 0, 0⟩,
  ⟨0xB010, 4, 1, 0, 0, 0, 0, 0⟩,
  ⟨0xB014, 4, 1, 0, 0, 0, 0, 0⟩,
  ⟨0xB018, 4, 1, 0, 0, 0, 0, 0⟩,
  ⟨0xB01C, 4, 1, 0, 0, 0, 0, 0⟩,
  ⟨0xB020, 4, 1, 0, 0, 0, 0, 0⟩,
  ⟨0xB024, 4, 1, 0, 0, 0, 0, 0⟩,
  ⟨0xB028, 4, 8, 0, 0, 0, 0, 0⟩,
  ⟨0xB048, 4, 1, 0, 0, 0, 0, 0⟩,
  ⟨0xB04C, 4, 1, 0, 0, 0, 0, 0⟩,
  ⟨0xB050, 4, 1, 0, 0, 0, 0, 0⟩,
  ⟨0xB054, 4, 1, 0, 0, 0, 0, 0⟩,
  ⟨0xB058, 4, 1, 0, 0, 0, 0, 0⟩,
  ⟨0xB05C, 4, 1, 0, 0, 0xFFFFFFFF, 0, 0⟩,
  ⟨0xB060, 4, 256, 0, 0, 0, 0, 0⟩,
  ⟨0xB460, 4, 256, 0, 0, 0xFFFFFFFF, 0, 0⟩,
  ⟨0xB860, 4, 1, 0, 0, 0xFFFFFFFF, 0, 0⟩,
  ⟨0xB864, 4, 1, 0, 0, 0, 0, 0⟩,
  ⟨0xB868, 4, 1, 0, 0, 0, 0, 0x7F7FFFFF⟩,
  ⟨0xB86C, 4, 1, 0, 0, 0, 0, 0⟩,
  ⟨0xB870, 4, 8, 0, 0, 0, 0, 0x80008000⟩]

/-! ## SLU_ registers, from BAR0 offset 0xBC00 (R464) -/

abbrev SLU_STATUS : Nat := 0xBC00
abbrev SLU_STATUS__BUSY : Fld := ⟨SLU_STATUS, 7, 4⟩
abbrev SLU_STATUS__CFG_REJ : Fld := ⟨SLU_STATUS, 0, 0⟩
abbrev SLU_INT_STATUS : Nat := 0xBC04
abbrev SLU_INT_STATUS__ECC_UE : Fld := ⟨SLU_INT_STATUS, 7, 7⟩
abbrev SLU_INT_STATUS__ECC_CE : Fld := ⟨SLU_INT_STATUS, 6, 6⟩
abbrev SLU_INT_STATUS__PICK_REJ : Fld := ⟨SLU_INT_STATUS, 5, 5⟩
abbrev SLU_INT_STATUS__TRIG_LOST : Fld := ⟨SLU_INT_STATUS, 4, 4⟩
abbrev SLU_INT_STATUS__CAP_OVR : Fld := ⟨SLU_INT_STATUS, 3, 3⟩
abbrev SLU_INT_STATUS__OVF : Fld := ⟨SLU_INT_STATUS, 2, 2⟩
abbrev SLU_INT_STATUS__DEADLINE : Fld := ⟨SLU_INT_STATUS, 1, 1⟩
abbrev SLU_INT_STATUS__CHAIN_DONE : Fld := ⟨SLU_INT_STATUS, 0, 0⟩
abbrev SLU_INT_EN : Nat := 0xBC08
abbrev SLU_INT_EN__ECC_UE : Fld := ⟨SLU_INT_EN, 7, 7⟩
abbrev SLU_INT_EN__ECC_CE : Fld := ⟨SLU_INT_EN, 6, 6⟩
abbrev SLU_INT_EN__PICK_REJ : Fld := ⟨SLU_INT_EN, 5, 5⟩
abbrev SLU_INT_EN__TRIG_LOST : Fld := ⟨SLU_INT_EN, 4, 4⟩
abbrev SLU_INT_EN__CAP_OVR : Fld := ⟨SLU_INT_EN, 3, 3⟩
abbrev SLU_INT_EN__OVF : Fld := ⟨SLU_INT_EN, 2, 2⟩
abbrev SLU_INT_EN__DEADLINE : Fld := ⟨SLU_INT_EN, 1, 1⟩
abbrev SLU_INT_EN__CHAIN_DONE : Fld := ⟨SLU_INT_EN, 0, 0⟩
abbrev SLU_CORE_STAT (i : Nat) : Nat := 0xBC0C + 4 * i
abbrev SLU_CORE_STAT__BUSY (i : Nat) : Fld := ⟨SLU_CORE_STAT i, 31, 31⟩
abbrev SLU_CORE_STAT__CHAIN (i : Nat) : Fld := ⟨SLU_CORE_STAT i, 29, 24⟩
abbrev SLU_CORE_STAT__STAGE (i : Nat) : Fld := ⟨SLU_CORE_STAT i, 19, 16⟩
abbrev SLU_CHST (i : Nat) : Nat := 0xBC1C + 4 * i
abbrev SLU_CHST__RSTAT (i : Nat) : Fld := ⟨SLU_CHST i, 31, 28⟩
abbrev SLU_CHST__SAT_ACC (i : Nat) : Fld := ⟨SLU_CHST i, 27, 27⟩
abbrev SLU_CHST__SAT_ST (i : Nat) : Fld := ⟨SLU_CHST i, 26, 26⟩
abbrev SLU_CHST__WRAP_ACC (i : Nat) : Fld := ⟨SLU_CHST i, 25, 25⟩
abbrev SLU_CHST__WRAP_ST (i : Nat) : Fld := ⟨SLU_CHST i, 24, 24⟩
abbrev SLU_CHST__CAP_OVR (i : Nat) : Fld := ⟨SLU_CHST i, 23, 23⟩
abbrev SLU_CHST__CAP_INV (i : Nat) : Fld := ⟨SLU_CHST i, 22, 22⟩
abbrev SLU_CHST__CAP_AGED (i : Nat) : Fld := ⟨SLU_CHST i, 21, 21⟩
abbrev SLU_CHST__PICKED (i : Nat) : Fld := ⟨SLU_CHST i, 20, 20⟩
abbrev SLU_CHST__STAGE (i : Nat) : Fld := ⟨SLU_CHST i, 19, 16⟩
abbrev SLU_CHST__SEQ (i : Nat) : Fld := ⟨SLU_CHST i, 15, 0⟩
abbrev SLU_CAP_CFG (i : Nat) : Nat := 0xBD1C + 4 * i
abbrev SLU_CAP_CFG__EN (i : Nat) : Fld := ⟨SLU_CAP_CFG i, 31, 31⟩
abbrev SLU_CAP_CFG__SRC_KIND (i : Nat) : Fld := ⟨SLU_CAP_CFG i, 30, 28⟩
abbrev SLU_CAP_CFG__SRC (i : Nat) : Fld := ⟨SLU_CAP_CFG i, 25, 16⟩
abbrev SLU_CAP_CFG__SH (i : Nat) : Fld := ⟨SLU_CAP_CFG i, 15, 11⟩
abbrev SLU_CAP_CFG__DIV (i : Nat) : Fld := ⟨SLU_CAP_CFG i, 10, 8⟩
abbrev SLU_CAP_BUF (i : Nat) : Nat := 0xBD2C + 4 * i
abbrev SLU_CAP_BUF__BASE (i : Nat) : Fld := ⟨SLU_CAP_BUF i, 15, 0⟩
abbrev SLU_CAP_BLK (i : Nat) : Nat := 0xBD3C + 4 * i
abbrev SLU_CAP_BLK__LEN (i : Nat) : Fld := ⟨SLU_CAP_BLK i, 31, 16⟩
abbrev SLU_CAP_BLK__BLOCK (i : Nat) : Fld := ⟨SLU_CAP_BLK i, 15, 0⟩
abbrev SLU_CAP_STAT (i : Nat) : Nat := 0xBD4C + 4 * i
abbrev SLU_CAP_STAT__WPTR (i : Nat) : Fld := ⟨SLU_CAP_STAT i, 31, 16⟩
abbrev SLU_CAP_STAT__CAP_SAT (i : Nat) : Fld := ⟨SLU_CAP_STAT i, 0, 0⟩
abbrev SLU_CAP_CNT (i : Nat) : Nat := 0xBD5C + 4 * i
abbrev SLU_CAP_CNT__AGED_CNT (i : Nat) : Fld := ⟨SLU_CAP_CNT i, 31, 16⟩
abbrev SLU_CAP_CNT__INV_CNT (i : Nat) : Fld := ⟨SLU_CAP_CNT i, 15, 0⟩
abbrev SLU_CNT : Nat := 0xBD6C
abbrev SLU_CNT__TRIG_LOST_CNT : Fld := ⟨SLU_CNT, 31, 16⟩
abbrev SLU_CNT__PICK_REJ_CNT : Fld := ⟨SLU_CNT, 15, 0⟩
abbrev SLU_ECC_CNT : Nat := 0xBD70
abbrev SLU_ECC_CNT__UE_CNT : Fld := ⟨SLU_ECC_CNT, 31, 16⟩
abbrev SLU_ECC_CNT__CE_CNT : Fld := ⟨SLU_ECC_CNT, 15, 0⟩
abbrev SLU_PROBE (i j : Nat) : Nat := 0xBD74 + 4 * (8 * i + j)
abbrev SLU_PROBE__PROBE (i j : Nat) : Fld := ⟨SLU_PROBE i j, 15, 0⟩
abbrev SLU_LAD_CTL (i : Nat) : Nat := 0xBDF4 + 4 * i
abbrev SLU_LAD_CTL__FLUSH (i : Nat) : Fld := ⟨SLU_LAD_CTL i, 31, 31⟩
abbrev SLU_LAD_CTL__FLUSH_TMO (i : Nat) : Fld := ⟨SLU_LAD_CTL i, 15, 0⟩
abbrev SLU_LAD_STAT (i : Nat) : Nat := 0xBE04 + 4 * i
abbrev SLU_LAD_STAT__FLUSH_PEND (i : Nat) : Fld := ⟨SLU_LAD_STAT i, 31, 31⟩
abbrev SLU_LAD_STAT__FLUSH_TRUNC (i : Nat) : Fld := ⟨SLU_LAD_STAT i, 30, 30⟩
abbrev SLU_LAD_STAT__DROP (i : Nat) : Fld := ⟨SLU_LAD_STAT i, 29, 29⟩
abbrev SLU_LAD_STAT__PKT_CNT (i : Nat) : Fld := ⟨SLU_LAD_STAT i, 26, 16⟩
abbrev SLU_LAD_STAT__LEVEL (i : Nat) : Fld := ⟨SLU_LAD_STAT i, 12, 0⟩
abbrev SLU_LAD_DATA_LO (i : Nat) : Nat := 0xBE14 + 8 * i
abbrev SLU_LAD_DATA_LO__DATA_LO (i : Nat) : Fld := ⟨SLU_LAD_DATA_LO i, 31, 0⟩
abbrev SLU_LAD_DATA_HI (i : Nat) : Nat := 0xBE18 + 8 * i
abbrev SLU_LAD_DATA_HI__DATA_HI (i : Nat) : Fld := ⟨SLU_LAD_DATA_HI i, 31, 0⟩
abbrev SLU_LAD_TAG (i : Nat) : Nat := 0xBE34 + 4 * i
abbrev SLU_LAD_TAG__IDLE (i : Nat) : Fld := ⟨SLU_LAD_TAG i, 31, 31⟩
abbrev SLU_LAD_TAG__END (i : Nat) : Fld := ⟨SLU_LAD_TAG i, 30, 30⟩
abbrev SLU_LAD_TAG__TRUNC (i : Nat) : Fld := ⟨SLU_LAD_TAG i, 29, 29⟩
abbrev SLU_LAD_TAG__VBYTES (i : Nat) : Fld := ⟨SLU_LAD_TAG i, 3, 0⟩
abbrev SLU_LAD_DROP (i : Nat) : Nat := 0xBE44 + 4 * i
abbrev SLU_LAD_DROP__DROP_CNT (i : Nat) : Fld := ⟨SLU_LAD_DROP i, 31, 0⟩

/-- The register map's lines of the SLU_ region. -/
def rowsSLU : List RegRow := [
  ⟨0xBC00, 4, 1, 0, 0x1, 0, 0, 0⟩,
  ⟨0xBC04, 4, 1, 0, 0xFF, 0, 0, 0⟩,
  ⟨0xBC08, 4, 1, 0xFF, 0, 0, 0, 0⟩,
  ⟨0xBC0C, 4, 4, 0, 0, 0, 0, 0⟩,
  ⟨0xBC1C, 4, 64, 0, 0, 0, 0, 0⟩,
  ⟨0xBD1C, 4, 4, 0xF3FFFF00, 0, 0, 0, 0⟩,
  ⟨0xBD2C, 4, 4, 0xFFFF, 0, 0, 0, 0⟩,
  ⟨0xBD3C, 4, 4, 0xFFFFFFFF, 0, 0, 0, 0⟩,
  ⟨0xBD4C, 4, 4, 0, 0x1, 0, 0, 0⟩,
  ⟨0xBD5C, 4, 4, 0, 0, 0xFFFFFFFF, 0, 0⟩,
  ⟨0xBD6C, 4, 1, 0, 0, 0xFFFFFFFF, 0, 0⟩,
  ⟨0xBD70, 4, 1, 0, 0, 0xFFFFFFFF, 0, 0⟩,
  ⟨0xBD74, 4, 32, 0, 0, 0, 0, 0⟩,
  ⟨0xBDF4, 4, 4, 0xFFFF, 0, 0, 0x80000000, 0x64⟩,
  ⟨0xBE04, 4, 4, 0, 0x60000000, 0, 0, 0⟩,
  ⟨0xBE14, 8, 4, 0, 0, 0, 0, 0⟩,
  ⟨0xBE18, 8, 4, 0, 0, 0, 0, 0⟩,
  ⟨0xBE34, 4, 4, 0, 0, 0, 0, 0x80000000⟩,
  ⟨0xBE44, 4, 4, 0, 0, 0xFFFFFFFF, 0, 0⟩]

/-! ## ADC_ registers, from BAR0 offset 0xC000 (R464) -/

abbrev ADC_STATUS : Nat := 0xC000
abbrev ADC_STATUS__BUSY : Fld := ⟨ADC_STATUS, 4, 1⟩
abbrev ADC_STATUS__CFG_REJ : Fld := ⟨ADC_STATUS, 0, 0⟩
abbrev ADC_INT_STATUS : Nat := 0xC004
abbrev ADC_INT_STATUS__CMP_EVT : Fld := ⟨ADC_INT_STATUS, 5, 5⟩
abbrev ADC_INT_STATUS__TRIG_LOST : Fld := ⟨ADC_INT_STATUS, 4, 4⟩
abbrev ADC_INT_STATUS__INJ_DONE1 : Fld := ⟨ADC_INT_STATUS, 3, 3⟩
abbrev ADC_INT_STATUS__REG_DONE1 : Fld := ⟨ADC_INT_STATUS, 2, 2⟩
abbrev ADC_INT_STATUS__INJ_DONE0 : Fld := ⟨ADC_INT_STATUS, 1, 1⟩
abbrev ADC_INT_STATUS__REG_DONE0 : Fld := ⟨ADC_INT_STATUS, 0, 0⟩
abbrev ADC_INT_EN : Nat := 0xC008
abbrev ADC_INT_EN__CMP_EVT : Fld := ⟨ADC_INT_EN, 5, 5⟩
abbrev ADC_INT_EN__TRIG_LOST : Fld := ⟨ADC_INT_EN, 4, 4⟩
abbrev ADC_INT_EN__INJ_DONE1 : Fld := ⟨ADC_INT_EN, 3, 3⟩
abbrev ADC_INT_EN__REG_DONE1 : Fld := ⟨ADC_INT_EN, 2, 2⟩
abbrev ADC_INT_EN__INJ_DONE0 : Fld := ⟨ADC_INT_EN, 1, 1⟩
abbrev ADC_INT_EN__REG_DONE0 : Fld := ⟨ADC_INT_EN, 0, 0⟩
abbrev ADC_CFG (i : Nat) : Nat := 0xC00C + 4 * i
abbrev ADC_CFG__EN (i : Nat) : Fld := ⟨ADC_CFG i, 31, 31⟩
abbrev ADC_CFG__LP (i : Nat) : Fld := ⟨ADC_CFG i, 30, 30⟩
abbrev ADC_CFG__FIFO_EN (i : Nat) : Fld := ⟨ADC_CFG i, 29, 29⟩
abbrev ADC_CFG__REG_TRIG (i : Nat) : Fld := ⟨ADC_CFG i, 26, 24⟩
abbrev ADC_CFG__INJ_TRIG (i : Nat) : Fld := ⟨ADC_CFG i, 21, 19⟩
abbrev ADC_CFG__REG_CMARK (i : Nat) : Fld := ⟨ADC_CFG i, 18, 14⟩
abbrev ADC_CFG__REG_CMP (i : Nat) : Fld := ⟨ADC_CFG i, 13, 11⟩
abbrev ADC_CFG__INJ_CMP (i : Nat) : Fld := ⟨ADC_CFG i, 10, 8⟩
abbrev ADC_CFG__NINJM1 (i : Nat) : Fld := ⟨ADC_CFG i, 7, 6⟩
abbrev ADC_CFG__NREGM1 (i : Nat) : Fld := ⟨ADC_CFG i, 3, 0⟩
abbrev ADC_CTL (i : Nat) : Nat := 0xC014 + 4 * i
abbrev ADC_CTL__INJ_GO (i : Nat) : Fld := ⟨ADC_CTL i, 1, 1⟩
abbrev ADC_CTL__REG_GO (i : Nat) : Fld := ⟨ADC_CTL i, 0, 0⟩
abbrev ADC_SEQ (i j : Nat) : Nat := 0xC01C + 4 * (16 * i + j)
abbrev ADC_SEQ__NRESM1 (i j : Nat) : Fld := ⟨ADC_SEQ i j, 31, 24⟩
abbrev ADC_SEQ__D (i j : Nat) : Fld := ⟨ADC_SEQ i j, 18, 16⟩
abbrev ADC_SEQ__GAIN (i j : Nat) : Fld := ⟨ADC_SEQ i j, 10, 8⟩
abbrev ADC_SEQ__DIFF (i j : Nat) : Fld := ⟨ADC_SEQ i j, 7, 7⟩
abbrev ADC_SEQ__INPUT (i j : Nat) : Fld := ⟨ADC_SEQ i j, 4, 0⟩
abbrev ADC_INJ (i j : Nat) : Nat := 0xC09C + 4 * (4 * i + j)
abbrev ADC_INJ__NRESM1 (i j : Nat) : Fld := ⟨ADC_INJ i j, 31, 24⟩
abbrev ADC_INJ__D (i j : Nat) : Fld := ⟨ADC_INJ i j, 18, 16⟩
abbrev ADC_INJ__GAIN (i j : Nat) : Fld := ⟨ADC_INJ i j, 10, 8⟩
abbrev ADC_INJ__DIFF (i j : Nat) : Fld := ⟨ADC_INJ i j, 7, 7⟩
abbrev ADC_INJ__INPUT (i j : Nat) : Fld := ⟨ADC_INJ i j, 4, 0⟩
abbrev ADC_RES (i j : Nat) : Nat := 0xC0BC + 4 * (16 * i + j)
abbrev ADC_RES__TAG (i j : Nat) : Fld := ⟨ADC_RES i j, 31, 16⟩
abbrev ADC_RES__CODE (i j : Nat) : Fld := ⟨ADC_RES i j, 15, 0⟩
abbrev ADC_IRES (i j : Nat) : Nat := 0xC13C + 4 * (4 * i + j)
abbrev ADC_IRES__TAG (i j : Nat) : Fld := ⟨ADC_IRES i j, 31, 16⟩
abbrev ADC_IRES__CODE (i j : Nat) : Fld := ⟨ADC_IRES i j, 15, 0⟩
abbrev ADC_STAMP_LO (i : Nat) : Nat := 0xC15C + 8 * i
abbrev ADC_STAMP_LO__STAMP (i : Nat) : Fld := ⟨ADC_STAMP_LO i, 31, 0⟩
abbrev ADC_STAMP_HI (i : Nat) : Nat := 0xC160 + 8 * i
abbrev ADC_STAMP_HI__STAMP (i : Nat) : Fld := ⟨ADC_STAMP_HI i, 31, 0⟩
abbrev ADC_ISTAMP_LO (i : Nat) : Nat := 0xC16C + 8 * i
abbrev ADC_ISTAMP_LO__STAMP (i : Nat) : Fld := ⟨ADC_ISTAMP_LO i, 31, 0⟩
abbrev ADC_ISTAMP_HI (i : Nat) : Nat := 0xC170 + 8 * i
abbrev ADC_ISTAMP_HI__STAMP (i : Nat) : Fld := ⟨ADC_ISTAMP_HI i, 31, 0⟩
abbrev ADC_CMP (i : Nat) : Nat := 0xC17C + 4 * i
abbrev ADC_CMP__EDGE (i : Nat) : Fld := ⟨ADC_CMP i, 31, 30⟩
abbrev ADC_CMP__HYST (i : Nat) : Fld := ⟨ADC_CMP i, 29, 28⟩
abbrev ADC_CMP__THR (i : Nat) : Fld := ⟨ADC_CMP i, 25, 16⟩
abbrev ADC_CMP__FILT (i : Nat) : Fld := ⟨ADC_CMP i, 7, 0⟩
abbrev ADC_CMP_STAT : Nat := 0xC19C
abbrev ADC_CMP_STAT__LEVEL : Fld := ⟨ADC_CMP_STAT, 7, 0⟩
abbrev ADC_CMP_PEND : Nat := 0xC1A0
abbrev ADC_CMP_PEND__PEND : Fld := ⟨ADC_CMP_PEND, 7, 0⟩
abbrev ADC_CNT (i : Nat) : Nat := 0xC1A4 + 4 * i
abbrev ADC_CNT__TRIG_LOST_CNT (i : Nat) : Fld := ⟨ADC_CNT i, 31, 16⟩
abbrev ADC_CNT__INV_CNT (i : Nat) : Fld := ⟨ADC_CNT i, 15, 0⟩
abbrev ADC_LAD_CTL (i : Nat) : Nat := 0xC1AC + 4 * i
abbrev ADC_LAD_CTL__FLUSH (i : Nat) : Fld := ⟨ADC_LAD_CTL i, 31, 31⟩
abbrev ADC_LAD_CTL__FLUSH_TMO (i : Nat) : Fld := ⟨ADC_LAD_CTL i, 15, 0⟩
abbrev ADC_LAD_STAT (i : Nat) : Nat := 0xC1B4 + 4 * i
abbrev ADC_LAD_STAT__FLUSH_PEND (i : Nat) : Fld := ⟨ADC_LAD_STAT i, 31, 31⟩
abbrev ADC_LAD_STAT__FLUSH_TRUNC (i : Nat) : Fld := ⟨ADC_LAD_STAT i, 30, 30⟩
abbrev ADC_LAD_STAT__DROP (i : Nat) : Fld := ⟨ADC_LAD_STAT i, 29, 29⟩
abbrev ADC_LAD_STAT__PKT_CNT (i : Nat) : Fld := ⟨ADC_LAD_STAT i, 26, 16⟩
abbrev ADC_LAD_STAT__LEVEL (i : Nat) : Fld := ⟨ADC_LAD_STAT i, 10, 0⟩
abbrev ADC_LAD_DATA_LO (i : Nat) : Nat := 0xC1BC + 8 * i
abbrev ADC_LAD_DATA_LO__DATA_LO (i : Nat) : Fld := ⟨ADC_LAD_DATA_LO i, 31, 0⟩
abbrev ADC_LAD_DATA_HI (i : Nat) : Nat := 0xC1C0 + 8 * i
abbrev ADC_LAD_DATA_HI__DATA_HI (i : Nat) : Fld := ⟨ADC_LAD_DATA_HI i, 31, 0⟩
abbrev ADC_LAD_TAG (i : Nat) : Nat := 0xC1CC + 4 * i
abbrev ADC_LAD_TAG__IDLE (i : Nat) : Fld := ⟨ADC_LAD_TAG i, 31, 31⟩
abbrev ADC_LAD_TAG__END (i : Nat) : Fld := ⟨ADC_LAD_TAG i, 30, 30⟩
abbrev ADC_LAD_TAG__TRUNC (i : Nat) : Fld := ⟨ADC_LAD_TAG i, 29, 29⟩
abbrev ADC_LAD_TAG__VBYTES (i : Nat) : Fld := ⟨ADC_LAD_TAG i, 3, 0⟩
abbrev ADC_LAD_DROP (i : Nat) : Nat := 0xC1D4 + 4 * i
abbrev ADC_LAD_DROP__DROP_CNT (i : Nat) : Fld := ⟨ADC_LAD_DROP i, 31, 0⟩

/-- The register map's lines of the ADC_ region. -/
def rowsADC : List RegRow := [
  ⟨0xC000, 4, 1, 0, 0x1, 0, 0, 0⟩,
  ⟨0xC004, 4, 1, 0, 0x3F, 0, 0, 0⟩,
  ⟨0xC008, 4, 1, 0x3F, 0, 0, 0, 0⟩,
  ⟨0xC00C, 4, 2, 0xE73FFFCF, 0, 0, 0, 0⟩,
  ⟨0xC014, 4, 2, 0, 0, 0, 0x3, 0⟩,
  ⟨0xC01C, 4, 32, 0xFF07079F, 0, 0, 0, 0⟩,
  ⟨0xC09C, 4, 8, 0xFF07079F, 0, 0, 0, 0⟩,
  ⟨0xC0BC, 4, 32, 0, 0, 0, 0, 0⟩,
  ⟨0xC13C, 4, 8, 0, 0, 0, 0, 0⟩,
  ⟨0xC15C, 8, 2, 0, 0, 0, 0, 0⟩,
  ⟨0xC160, 8, 2, 0, 0, 0, 0, 0⟩,
  ⟨0xC16C, 8, 2, 0, 0, 0, 0, 0⟩,
  ⟨0xC170, 8, 2, 0, 0, 0, 0, 0⟩,
  ⟨0xC17C, 4, 8, 0xF3FF00FF, 0, 0, 0, 0x8⟩,
  ⟨0xC19C, 4, 1, 0, 0, 0, 0, 0⟩,
  ⟨0xC1A0, 4, 1, 0, 0xFF, 0, 0, 0⟩,
  ⟨0xC1A4, 4, 2, 0, 0, 0xFFFFFFFF, 0, 0⟩,
  ⟨0xC1AC, 4, 2, 0xFFFF, 0, 0, 0x80000000, 0x64⟩,
  ⟨0xC1B4, 4, 2, 0, 0x60000000, 0, 0, 0⟩,
  ⟨0xC1BC, 8, 2, 0, 0, 0, 0, 0⟩,
  ⟨0xC1C0, 8, 2, 0, 0, 0, 0, 0⟩,
  ⟨0xC1CC, 4, 2, 0, 0, 0, 0, 0x80000000⟩,
  ⟨0xC1D4, 4, 2, 0, 0, 0xFFFFFFFF, 0, 0⟩]

/-! ## GAU_ registers, from BAR0 offset 0xC200 (R464) -/

abbrev GAU_CTL : Nat := 0xC200
abbrev GAU_CTL__FORCE : Fld := ⟨GAU_CTL, 2, 2⟩
abbrev GAU_CTL__STOP : Fld := ⟨GAU_CTL, 1, 1⟩
abbrev GAU_CTL__ARM : Fld := ⟨GAU_CTL, 0, 0⟩
abbrev GAU_CFG : Nat := 0xC204
abbrev GAU_CFG__STREAM : Fld := ⟨GAU_CFG, 31, 31⟩
abbrev GAU_CFG__SCLK : Fld := ⟨GAU_CFG, 30, 30⟩
abbrev GAU_CFG__SDIV : Fld := ⟨GAU_CFG, 29, 25⟩
abbrev GAU_CFG__DLOG : Fld := ⟨GAU_CFG, 24, 21⟩
abbrev GAU_CFG__TSRC : Fld := ⟨GAU_CFG, 19, 17⟩
abbrev GAU_CFG__EDGE : Fld := ⟨GAU_CFG, 16, 16⟩
abbrev GAU_CFG__DQ_MODE : Fld := ⟨GAU_CFG, 15, 14⟩
abbrev GAU_SPHASE : Nat := 0xC208
abbrev GAU_SPHASE__SPHASE : Fld := ⟨GAU_SPHASE, 17, 0⟩
abbrev GAU_PRE : Nat := 0xC20C
abbrev GAU_PRE__PRE : Fld := ⟨GAU_PRE, 31, 0⟩
abbrev GAU_POST : Nat := 0xC210
abbrev GAU_POST__POST : Fld := ⟨GAU_POST, 31, 0⟩
abbrev GAU_DUR : Nat := 0xC214
abbrev GAU_DUR__DUR : Fld := ⟨GAU_DUR, 15, 0⟩
abbrev GAU_NREC : Nat := 0xC218
abbrev GAU_NREC__NREC : Fld := ⟨GAU_NREC, 15, 0⟩
abbrev GAU_CH_EN_LO : Nat := 0xC21C
abbrev GAU_CH_EN_LO__CH_EN : Fld := ⟨GAU_CH_EN_LO, 31, 0⟩
abbrev GAU_CH_EN_HI : Nat := 0xC220
abbrev GAU_CH_EN_HI__CH_EN : Fld := ⟨GAU_CH_EN_HI, 31, 0⟩
abbrev GAU_MASK_LO : Nat := 0xC224
abbrev GAU_MASK_LO__MASK : Fld := ⟨GAU_MASK_LO, 31, 0⟩
abbrev GAU_MASK_HI : Nat := 0xC228
abbrev GAU_MASK_HI__MASK : Fld := ⟨GAU_MASK_HI, 31, 0⟩
abbrev GAU_VALUE_LO : Nat := 0xC22C
abbrev GAU_VALUE_LO__VALUE : Fld := ⟨GAU_VALUE_LO, 31, 0⟩
abbrev GAU_VALUE_HI : Nat := 0xC230
abbrev GAU_VALUE_HI__VALUE : Fld := ⟨GAU_VALUE_HI, 31, 0⟩
abbrev GAU_PROBE (i : Nat) : Nat := 0xC234 + 4 * i
abbrev GAU_PROBE__SEL (i : Nat) : Fld := ⟨GAU_PROBE i, 15, 0⟩
abbrev GAU_COND (i : Nat) : Nat := 0xC334 + 4 * i
abbrev GAU_COND__CKIND (i : Nat) : Fld := ⟨GAU_COND i, 31, 30⟩
abbrev GAU_COND__CH (i : Nat) : Fld := ⟨GAU_COND i, 29, 24⟩
abbrev GAU_COND__BIT (i : Nat) : Fld := ⟨GAU_COND i, 23, 20⟩
abbrev GAU_COND__THR (i : Nat) : Fld := ⟨GAU_COND i, 15, 0⟩
abbrev GAU_MEAS (i : Nat) : Nat := 0xC434 + 4 * i
abbrev GAU_MEAS__EN (i : Nat) : Fld := ⟨GAU_MEAS i, 31, 31⟩
abbrev GAU_MEAS__CH (i : Nat) : Fld := ⟨GAU_MEAS i, 29, 24⟩
abbrev GAU_MEAS__HYST (i : Nat) : Fld := ⟨GAU_MEAS i, 23, 16⟩
abbrev GAU_MEAS__THR (i : Nat) : Fld := ⟨GAU_MEAS i, 15, 0⟩
abbrev GAU_STATUS : Nat := 0xC454
abbrev GAU_STATUS__STATE : Fld := ⟨GAU_STATUS, 31, 29⟩
abbrev GAU_STATUS__DLOG_NOW : Fld := ⟨GAU_STATUS, 7, 4⟩
abbrev GAU_STATUS__REL_ERR : Fld := ⟨GAU_STATUS, 3, 3⟩
abbrev GAU_STATUS__CMD_REJ : Fld := ⟨GAU_STATUS, 2, 2⟩
abbrev GAU_STATUS__CFG_REJ : Fld := ⟨GAU_STATUS, 1, 1⟩
abbrev GAU_INT_STATUS : Nat := 0xC458
abbrev GAU_INT_STATUS__TRUNC : Fld := ⟨GAU_INT_STATUS, 4, 4⟩
abbrev GAU_INT_STATUS__LOST : Fld := ⟨GAU_INT_STATUS, 3, 3⟩
abbrev GAU_INT_STATUS__DEC_UP : Fld := ⟨GAU_INT_STATUS, 2, 2⟩
abbrev GAU_INT_STATUS__TRIG : Fld := ⟨GAU_INT_STATUS, 1, 1⟩
abbrev GAU_INT_STATUS__REC_DONE : Fld := ⟨GAU_INT_STATUS, 0, 0⟩
abbrev GAU_INT_EN : Nat := 0xC45C
abbrev GAU_INT_EN__TRUNC : Fld := ⟨GAU_INT_EN, 4, 4⟩
abbrev GAU_INT_EN__LOST : Fld := ⟨GAU_INT_EN, 3, 3⟩
abbrev GAU_INT_EN__DEC_UP : Fld := ⟨GAU_INT_EN, 2, 2⟩
abbrev GAU_INT_EN__TRIG : Fld := ⟨GAU_INT_EN, 1, 1⟩
abbrev GAU_INT_EN__REC_DONE : Fld := ⟨GAU_INT_EN, 0, 0⟩
abbrev GAU_REC_HEAD : Nat := 0xC460
abbrev GAU_REC_HEAD__OFS : Fld := ⟨GAU_REC_HEAD, 22, 0⟩
abbrev GAU_REC_CNT : Nat := 0xC464
abbrev GAU_REC_CNT__FREE : Fld := ⟨GAU_REC_CNT, 23, 0⟩
abbrev GAU_REL : Nat := 0xC468
abbrev GAU_REL__SEQ : Fld := ⟨GAU_REL, 15, 0⟩
abbrev GAU_CNT : Nat := 0xC46C
abbrev GAU_CNT__TRIG_IGN_CNT : Fld := ⟨GAU_CNT, 31, 16⟩
abbrev GAU_CNT__UE_CNT : Fld := ⟨GAU_CNT, 15, 0⟩
abbrev GAU_LAD_CTL : Nat := 0xC470
abbrev GAU_LAD_CTL__FLUSH : Fld := ⟨GAU_LAD_CTL, 31, 31⟩
abbrev GAU_LAD_CTL__FLUSH_TMO : Fld := ⟨GAU_LAD_CTL, 15, 0⟩
abbrev GAU_LAD_STAT : Nat := 0xC474
abbrev GAU_LAD_STAT__FLUSH_PEND : Fld := ⟨GAU_LAD_STAT, 31, 31⟩
abbrev GAU_LAD_STAT__FLUSH_TRUNC : Fld := ⟨GAU_LAD_STAT, 30, 30⟩
abbrev GAU_LAD_STAT__DROP : Fld := ⟨GAU_LAD_STAT, 29, 29⟩
abbrev GAU_LAD_STAT__PKT_CNT : Fld := ⟨GAU_LAD_STAT, 26, 16⟩
abbrev GAU_LAD_STAT__LEVEL : Fld := ⟨GAU_LAD_STAT, 10, 0⟩
abbrev GAU_LAD_DATA_LO : Nat := 0xC478
abbrev GAU_LAD_DATA_LO__DATA_LO : Fld := ⟨GAU_LAD_DATA_LO, 31, 0⟩
abbrev GAU_LAD_DATA_HI : Nat := 0xC47C
abbrev GAU_LAD_DATA_HI__DATA_HI : Fld := ⟨GAU_LAD_DATA_HI, 31, 0⟩
abbrev GAU_LAD_TAG : Nat := 0xC480
abbrev GAU_LAD_TAG__IDLE : Fld := ⟨GAU_LAD_TAG, 31, 31⟩
abbrev GAU_LAD_TAG__END : Fld := ⟨GAU_LAD_TAG, 30, 30⟩
abbrev GAU_LAD_TAG__TRUNC : Fld := ⟨GAU_LAD_TAG, 29, 29⟩
abbrev GAU_LAD_TAG__VBYTES : Fld := ⟨GAU_LAD_TAG, 3, 0⟩
abbrev GAU_LAD_DROP : Nat := 0xC484
abbrev GAU_LAD_DROP__DROP_CNT : Fld := ⟨GAU_LAD_DROP, 31, 0⟩

/-- The register map's lines of the GAU_ region, part 0. -/
def rowsGAU0 : List RegRow := [
  ⟨0xC200, 4, 1, 0, 0, 0, 0x7, 0⟩,
  ⟨0xC204, 4, 1, 0xFFEFC000, 0, 0, 0, 0x20000⟩,
  ⟨0xC208, 4, 1, 0x3FFFF, 0, 0, 0, 0⟩,
  ⟨0xC20C, 4, 1, 0xFFFFFFFF, 0, 0, 0, 0⟩,
  ⟨0xC210, 4, 1, 0xFFFFFFFF, 0, 0, 0, 0x1⟩,
  ⟨0xC214, 4, 1, 0xFFFF, 0, 0, 0, 0x1⟩,
  ⟨0xC218, 4, 1, 0xFFFF, 0, 0, 0, 0x1⟩,
  ⟨0xC21C, 4, 1, 0xFFFFFFFF, 0, 0, 0, 0⟩,
  ⟨0xC220, 4, 1, 0xFFFFFFFF, 0, 0, 0, 0⟩,
  ⟨0xC224, 4, 1, 0xFFFFFFFF, 0, 0, 0, 0⟩,
  ⟨0xC228, 4, 1, 0xFFFFFFFF, 0, 0, 0, 0⟩,
  ⟨0xC22C, 4, 1, 0xFFFFFFFF, 0, 0, 0, 0⟩,
  ⟨0xC230, 4, 1, 0xFFFFFFFF, 0, 0, 0, 0⟩,
  ⟨0xC234, 4, 64, 0xFFFF, 0, 0, 0, 0⟩,
  ⟨0xC334, 4, 64, 0xFFF0FFFF, 0, 0, 0, 0⟩,
  ⟨0xC434, 4, 8, 0xBFFFFFFF, 0, 0, 0, 0⟩,
  ⟨0xC454, 4, 1, 0, 0xE, 0, 0, 0⟩,
  ⟨0xC458, 4, 1, 0, 0x1F, 0, 0, 0⟩,
  ⟨0xC45C, 4, 1, 0x1F, 0, 0, 0, 0⟩,
  ⟨0xC460, 4, 1, 0, 0, 0, 0, 0⟩,
  ⟨0xC464, 4, 1, 0, 0, 0, 0, 0x800000⟩,
  ⟨0xC468, 4, 1, 0, 0, 0, 0xFFFF, 0⟩,
  ⟨0xC46C, 4, 1, 0, 0, 0xFFFFFFFF, 0, 0⟩,
  ⟨0xC470, 4, 1, 0xFFFF, 0, 0, 0x80000000, 0x64⟩]

/-- The register map's lines of the GAU_ region, part 1. -/
def rowsGAU1 : List RegRow := [
  ⟨0xC474, 4, 1, 0, 0x60000000, 0, 0, 0⟩,
  ⟨0xC478, 4, 1, 0, 0, 0, 0, 0⟩,
  ⟨0xC47C, 4, 1, 0, 0, 0, 0, 0⟩,
  ⟨0xC480, 4, 1, 0, 0, 0, 0, 0x80000000⟩,
  ⟨0xC484, 4, 1, 0, 0, 0xFFFFFFFF, 0, 0⟩]

/-- The register map's lines of the GAU_ region. -/
def rowsGAU : List RegRow := rowsGAU0 ++ rowsGAU1

/-! ## LKP_ registers, from BAR0 offset 0xC600 (R464) -/

abbrev LKP_STATUS : Nat := 0xC600
abbrev LKP_STATUS__SENSOR_FAIL : Fld := ⟨LKP_STATUS, 3, 3⟩
abbrev LKP_STATUS__CFG_REJ : Fld := ⟨LKP_STATUS, 2, 2⟩
abbrev LKP_STATUS__LEVEL : Fld := ⟨LKP_STATUS, 1, 0⟩
abbrev LKP_INT_STATUS : Nat := 0xC604
abbrev LKP_INT_STATUS__SENSOR_FAIL : Fld := ⟨LKP_INT_STATUS, 4, 4⟩
abbrev LKP_INT_STATUS__DEBT : Fld := ⟨LKP_INT_STATUS, 3, 3⟩
abbrev LKP_INT_STATUS__BUDGET_HIT : Fld := ⟨LKP_INT_STATUS, 2, 2⟩
abbrev LKP_INT_STATUS__LIST_FULL : Fld := ⟨LKP_INT_STATUS, 1, 1⟩
abbrev LKP_INT_STATUS__HEAD_LEVEL : Fld := ⟨LKP_INT_STATUS, 0, 0⟩
abbrev LKP_INT_EN : Nat := 0xC608
abbrev LKP_INT_EN__SENSOR_FAIL : Fld := ⟨LKP_INT_EN, 4, 4⟩
abbrev LKP_INT_EN__DEBT : Fld := ⟨LKP_INT_EN, 3, 3⟩
abbrev LKP_INT_EN__BUDGET_HIT : Fld := ⟨LKP_INT_EN, 2, 2⟩
abbrev LKP_INT_EN__LIST_FULL : Fld := ⟨LKP_INT_EN, 1, 1⟩
abbrev LKP_INT_EN__HEAD_LEVEL : Fld := ⟨LKP_INT_EN, 0, 0⟩
abbrev LKP_HEAD_CFG : Nat := 0xC60C
abbrev LKP_HEAD_CFG__HEAD_EN : Fld := ⟨LKP_HEAD_CFG, 31, 31⟩
abbrev LKP_HEAD_CFG__P_CAP : Fld := ⟨LKP_HEAD_CFG, 27, 16⟩
abbrev LKP_HEAD_CFG__T_KNEE : Fld := ⟨LKP_HEAD_CFG, 15, 8⟩
abbrev LKP_HEAD_CFG__TJ_TRIP : Fld := ⟨LKP_HEAD_CFG, 7, 0⟩
abbrev LKP_HEAD_KT : Nat := 0xC610
abbrev LKP_HEAD_KT__KT : Fld := ⟨LKP_HEAD_KT, 15, 0⟩
abbrev LKP_HEAD : Nat := 0xC614
abbrev LKP_HEAD__H : Fld := ⟨LKP_HEAD, 31, 0⟩
abbrev LKP_TJ : Nat := 0xC618
abbrev LKP_TJ__TMAX : Fld := ⟨LKP_TJ, 31, 16⟩
abbrev LKP_TJ__VALID : Fld := ⟨LKP_TJ, 7, 0⟩
abbrev LKP_E_VIN : Nat := 0xC61C
abbrev LKP_E_VIN__E : Fld := ⟨LKP_E_VIN, 31, 0⟩
abbrev LKP_E_BSN : Nat := 0xC620
abbrev LKP_E_BSN__E : Fld := ⟨LKP_E_BSN, 31, 0⟩
abbrev LKP_E_SLU : Nat := 0xC624
abbrev LKP_E_SLU__E : Fld := ⟨LKP_E_SLU, 31, 0⟩
abbrev LKP_E_MGT : Nat := 0xC628
abbrev LKP_E_MGT__E : Fld := ⟨LKP_E_MGT, 31, 0⟩
abbrev LKP_E_FIXED : Nat := 0xC62C
abbrev LKP_E_FIXED__E_FIXED : Fld := ⟨LKP_E_FIXED, 31, 0⟩
abbrev LKP_ECOEF (i : Nat) : Nat := 0xC630 + 4 * i
abbrev LKP_ECOEF__ECOEF (i : Nat) : Fld := ⟨LKP_ECOEF i, 15, 0⟩
abbrev LKP_CLS_TB (i : Nat) : Nat := 0xC63C + 4 * i
abbrev LKP_CLS_TB__TB (i : Nat) : Fld := ⟨LKP_CLS_TB i, 31, 0⟩
abbrev LKP_CLS_EB (i : Nat) : Nat := 0xC664 + 4 * i
abbrev LKP_CLS_EB__EB (i : Nat) : Fld := ⟨LKP_CLS_EB i, 31, 0⟩
abbrev LKP_CLS_GRANT (i : Nat) : Nat := 0xC68C + 4 * i
abbrev LKP_CLS_GRANT__GRANT (i : Nat) : Fld := ⟨LKP_CLS_GRANT i, 31, 0⟩
abbrev LKP_CLS_DEBT (i : Nat) : Nat := 0xC6B4 + 4 * i
abbrev LKP_CLS_DEBT__DEBT (i : Nat) : Fld := ⟨LKP_CLS_DEBT i, 31, 0⟩
abbrev LKP_CLS_TUSED (i : Nat) : Nat := 0xC6DC + 4 * i
abbrev LKP_CLS_TUSED__TUSED (i : Nat) : Fld := ⟨LKP_CLS_TUSED i, 31, 0⟩
abbrev LKP_CLS_EUSED (i : Nat) : Nat := 0xC704 + 4 * i
abbrev LKP_CLS_EUSED__EUSED (i : Nat) : Fld := ⟨LKP_CLS_EUSED i, 31, 0⟩
abbrev LKP_CLS_TLAST (i : Nat) : Nat := 0xC72C + 4 * i
abbrev LKP_CLS_TLAST__TLAST (i : Nat) : Fld := ⟨LKP_CLS_TLAST i, 31, 0⟩
abbrev LKP_CLS_ELAST (i : Nat) : Nat := 0xC754 + 4 * i
abbrev LKP_CLS_ELAST__ELAST (i : Nat) : Fld := ⟨LKP_CLS_ELAST i, 31, 0⟩
abbrev LKP_CLS_CNT (i : Nat) : Nat := 0xC77C + 4 * i
abbrev LKP_CLS_CNT__GATE_CNT (i : Nat) : Fld := ⟨LKP_CLS_CNT i, 31, 16⟩
abbrev LKP_CLS_CNT__DROP_CNT (i : Nat) : Fld := ⟨LKP_CLS_CNT i, 15, 0⟩
abbrev LKP_HIST (i j : Nat) : Nat := 0xC7A4 + 4 * (16 * i + j)
abbrev LKP_HIST__COUNT (i j : Nat) : Fld := ⟨LKP_HIST i j, 15, 0⟩
abbrev LKP_DEPTH (i j : Nat) : Nat := 0xCA24 + 4 * (8 * i + j)
abbrev LKP_DEPTH__FULL_CNT (i j : Nat) : Fld := ⟨LKP_DEPTH i j, 31, 24⟩
abbrev LKP_DEPTH__MAX (i j : Nat) : Fld := ⟨LKP_DEPTH i j, 20, 12⟩
abbrev LKP_DEPTH__DEPTH (i j : Nat) : Fld := ⟨LKP_DEPTH i j, 8, 0⟩
abbrev LKP_LOAD (i : Nat) : Nat := 0xCA84 + 4 * i
abbrev LKP_LOAD__BUSY (i : Nat) : Fld := ⟨LKP_LOAD i, 19, 0⟩

/-- The register map's lines of the LKP_ region, part 0. -/
def rowsLKP0 : List RegRow := [
  ⟨0xC600, 4, 1, 0, 0x4, 0, 0, 0⟩,
  ⟨0xC604, 4, 1, 0, 0x1F, 0, 0, 0⟩,
  ⟨0xC608, 4, 1, 0x1F, 0, 0, 0, 0⟩,
  ⟨0xC60C, 4, 1, 0x8FFFFFFF, 0, 0, 0, 0x80C35F69⟩,
  ⟨0xC610, 4, 1, 0xFFFF, 0, 0, 0, 0x3E8⟩,
  ⟨0xC614, 4, 1, 0, 0, 0, 0, 0⟩,
  ⟨0xC618, 4, 1, 0, 0, 0, 0, 0⟩,
  ⟨0xC61C, 4, 1, 0, 0, 0, 0, 0⟩,
  ⟨0xC620, 4, 1, 0, 0, 0, 0, 0⟩,
  ⟨0xC624, 4, 1, 0, 0, 0, 0, 0⟩,
  ⟨0xC628, 4, 1, 0, 0, 0, 0, 0⟩,
  ⟨0xC62C, 4, 1, 0, 0, 0, 0, 0⟩,
  ⟨0xC630, 4, 1, 0xFFFF, 0, 0, 0, 144⟩,
  ⟨0xC634, 4, 1, 0xFFFF, 0, 0, 0, 470⟩,
  ⟨0xC638, 4, 1, 0xFFFF, 0, 0, 0, 625⟩,
  ⟨0xC63C, 4, 10, 0xFFFFFFFF, 0, 0, 0, 0xFFFFFFFF⟩,
  ⟨0xC664, 4, 1, 0xFFFFFFFF, 0, 0, 0, 250000⟩,
  ⟨0xC668, 4, 1, 0xFFFFFFFF, 0, 0, 0, 20000⟩,
  ⟨0xC66C, 4, 1, 0xFFFFFFFF, 0, 0, 0, 2400000⟩,
  ⟨0xC670, 4, 1, 0xFFFFFFFF, 0, 0, 0, 100000⟩,
  ⟨0xC674, 4, 1, 0xFFFFFFFF, 0, 0, 0, 1000000⟩,
  ⟨0xC678, 4, 1, 0xFFFFFFFF, 0, 0, 0, 750000⟩,
  ⟨0xC67C, 4, 1, 0xFFFFFFFF, 0, 0, 0, 750000⟩,
  ⟨0xC680, 4, 1, 0xFFFFFFFF, 0, 0, 0, 200000⟩]

/-- The register map's lines of the LKP_ region, part 1. -/
def rowsLKP1 : List RegRow := [
  ⟨0xC684, 4, 1, 0xFFFFFFFF, 0, 0, 0, 100000⟩,
  ⟨0xC688, 4, 1, 0xFFFFFFFF, 0, 0, 0, 250000⟩,
  ⟨0xC68C, 4, 10, 0, 0, 0, 0, 0⟩,
  ⟨0xC6B4, 4, 10, 0, 0, 0, 0, 0⟩,
  ⟨0xC6DC, 4, 10, 0, 0, 0, 0, 0⟩,
  ⟨0xC704, 4, 10, 0, 0, 0, 0, 0⟩,
  ⟨0xC72C, 4, 10, 0, 0, 0, 0, 0⟩,
  ⟨0xC754, 4, 10, 0, 0, 0, 0, 0⟩,
  ⟨0xC77C, 4, 10, 0, 0, 0xFFFFFFFF, 0, 0⟩,
  ⟨0xC7A4, 4, 160, 0, 0, 0xFFFF, 0, 0⟩,
  ⟨0xCA24, 4, 24, 0, 0, 0xFF1FF000, 0, 0⟩,
  ⟨0xCA84, 4, 70, 0, 0, 0, 0, 0⟩]

/-- The register map's lines of the LKP_ region. -/
def rowsLKP : List RegRow := rowsLKP0 ++ rowsLKP1

/-! ## AQU_ registers, from BAR0 offset 0xCE00 (R464) -/

abbrev AQU_CFG : Nat := 0xCE00
abbrev AQU_CFG__TWIN_EN : Fld := ⟨AQU_CFG, 31, 31⟩
abbrev AQU_CFG__JOIN_TMO : Fld := ⟨AQU_CFG, 15, 0⟩
abbrev AQU_ROLE : Nat := 0xCE04
abbrev AQU_ROLE__ROLE : Fld := ⟨AQU_ROLE, 31, 29⟩
abbrev AQU_ROLE__RS_STEP : Fld := ⟨AQU_ROLE, 28, 26⟩
abbrev AQU_ROLE__TWIN_ROLE : Fld := ⟨AQU_ROLE, 25, 23⟩
abbrev AQU_ROLE__TWIN_PRESENT : Fld := ⟨AQU_ROLE, 22, 22⟩
abbrev AQU_ROLE__LINK_UP : Fld := ⟨AQU_ROLE, 21, 21⟩
abbrev AQU_ROLE__TAKEOVER_OK : Fld := ⟨AQU_ROLE, 20, 20⟩
abbrev AQU_ROLE__RANK_CONFLICT : Fld := ⟨AQU_ROLE, 19, 19⟩
abbrev AQU_ROLE__CFG_REJ : Fld := ⟨AQU_ROLE, 18, 18⟩
abbrev AQU_INT_STATUS : Nat := 0xCE08
abbrev AQU_INT_STATUS__RESYNC_FAIL : Fld := ⟨AQU_INT_STATUS, 12, 12⟩
abbrev AQU_INT_STATUS__TAKEOVER_BLOCKED : Fld := ⟨AQU_INT_STATUS, 11, 11⟩
abbrev AQU_INT_STATUS__REF_LOSS : Fld := ⟨AQU_INT_STATUS, 10, 10⟩
abbrev AQU_INT_STATUS__FAIL_RX : Fld := ⟨AQU_INT_STATUS, 9, 9⟩
abbrev AQU_INT_STATUS__LEDGER_LAG : Fld := ⟨AQU_INT_STATUS, 8, 8⟩
abbrev AQU_INT_STATUS__LINK_DOWN : Fld := ⟨AQU_INT_STATUS, 7, 7⟩
abbrev AQU_INT_STATUS__HEALTH_NEW : Fld := ⟨AQU_INT_STATUS, 6, 6⟩
abbrev AQU_INT_STATUS__MISMATCH : Fld := ⟨AQU_INT_STATUS, 5, 5⟩
abbrev AQU_INT_STATUS__RESYNC_DONE : Fld := ⟨AQU_INT_STATUS, 4, 4⟩
abbrev AQU_INT_STATUS__SPLIT : Fld := ⟨AQU_INT_STATUS, 3, 3⟩
abbrev AQU_INT_STATUS__TWIN_LOST : Fld := ⟨AQU_INT_STATUS, 2, 2⟩
abbrev AQU_INT_STATUS__HANDOVER_DONE : Fld := ⟨AQU_INT_STATUS, 1, 1⟩
abbrev AQU_INT_STATUS__TAKEOVER : Fld := ⟨AQU_INT_STATUS, 0, 0⟩
abbrev AQU_INT_EN : Nat := 0xCE0C
abbrev AQU_INT_EN__RESYNC_FAIL : Fld := ⟨AQU_INT_EN, 12, 12⟩
abbrev AQU_INT_EN__TAKEOVER_BLOCKED : Fld := ⟨AQU_INT_EN, 11, 11⟩
abbrev AQU_INT_EN__REF_LOSS : Fld := ⟨AQU_INT_EN, 10, 10⟩
abbrev AQU_INT_EN__FAIL_RX : Fld := ⟨AQU_INT_EN, 9, 9⟩
abbrev AQU_INT_EN__LEDGER_LAG : Fld := ⟨AQU_INT_EN, 8, 8⟩
abbrev AQU_INT_EN__LINK_DOWN : Fld := ⟨AQU_INT_EN, 7, 7⟩
abbrev AQU_INT_EN__HEALTH_NEW : Fld := ⟨AQU_INT_EN, 6, 6⟩
abbrev AQU_INT_EN__MISMATCH : Fld := ⟨AQU_INT_EN, 5, 5⟩
abbrev AQU_INT_EN__RESYNC_DONE : Fld := ⟨AQU_INT_EN, 4, 4⟩
abbrev AQU_INT_EN__SPLIT : Fld := ⟨AQU_INT_EN, 3, 3⟩
abbrev AQU_INT_EN__TWIN_LOST : Fld := ⟨AQU_INT_EN, 2, 2⟩
abbrev AQU_INT_EN__HANDOVER_DONE : Fld := ⟨AQU_INT_EN, 1, 1⟩
abbrev AQU_INT_EN__TAKEOVER : Fld := ⟨AQU_INT_EN, 0, 0⟩
abbrev AQU_COMMIT : Nat := 0xCE10
abbrev AQU_COMMIT__COMMIT : Fld := ⟨AQU_COMMIT, 31, 0⟩
abbrev AQU_ACKED : Nat := 0xCE14
abbrev AQU_ACKED__ACKED : Fld := ⟨AQU_ACKED, 31, 0⟩
abbrev AQU_TK_POUND : Nat := 0xCE18
abbrev AQU_TK_POUND__T : Fld := ⟨AQU_TK_POUND, 31, 0⟩
abbrev AQU_TK_COMMIT : Nat := 0xCE1C
abbrev AQU_TK_COMMIT__NC : Fld := ⟨AQU_TK_COMMIT, 31, 0⟩
abbrev AQU_MISMATCH_POUND : Nat := 0xCE20
abbrev AQU_MISMATCH_POUND__POUND : Fld := ⟨AQU_MISMATCH_POUND, 31, 0⟩
abbrev AQU_MISMATCH : Nat := 0xCE24
abbrev AQU_MISMATCH__FLAGS : Fld := ⟨AQU_MISMATCH, 10, 10⟩
abbrev AQU_MISMATCH__U : Fld := ⟨AQU_MISMATCH, 9, 9⟩
abbrev AQU_MISMATCH__X : Fld := ⟨AQU_MISMATCH, 8, 8⟩
abbrev AQU_MISMATCH__FLIGHT : Fld := ⟨AQU_MISMATCH, 4, 0⟩
abbrev AQU_LEDGER_SIZE : Nat := 0xCE28
abbrev AQU_LEDGER_SIZE__MAX : Fld := ⟨AQU_LEDGER_SIZE, 31, 16⟩
abbrev AQU_LEDGER_SIZE__LAST : Fld := ⟨AQU_LEDGER_SIZE, 15, 0⟩
abbrev AQU_LEDGER_LAG : Nat := 0xCE2C
abbrev AQU_LEDGER_LAG__LAG : Fld := ⟨AQU_LEDGER_LAG, 7, 0⟩
abbrev AQU_LINK : Nat := 0xCE30
abbrev AQU_LINK__LOCK : Fld := ⟨AQU_LINK, 31, 28⟩
abbrev AQU_LINK__ALIGNED : Fld := ⟨AQU_LINK, 27, 27⟩
abbrev AQU_LINK__SYNC_OFS : Fld := ⟨AQU_LINK, 15, 0⟩
abbrev AQU_HEALTH (i : Nat) : Nat := 0xCE34 + 4 * i
abbrev AQU_HEALTH__HEALTH (i : Nat) : Fld := ⟨AQU_HEALTH i, 31, 0⟩
abbrev AQU_CNT0 : Nat := 0xCE4C
abbrev AQU_CNT0__HB_MISS_CNT : Fld := ⟨AQU_CNT0, 31, 16⟩
abbrev AQU_CNT0__RETX_CNT : Fld := ⟨AQU_CNT0, 15, 8⟩
abbrev AQU_CNT0__COMMIT_LATE_CNT : Fld := ⟨AQU_CNT0, 7, 0⟩
abbrev AQU_CNT1 : Nat := 0xCE50
abbrev AQU_CNT1__MISMATCH_CNT : Fld := ⟨AQU_CNT1, 31, 16⟩
abbrev AQU_CNT1__CRC_ERR_CNT : Fld := ⟨AQU_CNT1, 15, 0⟩
abbrev AQU_CNT2 : Nat := 0xCE54
abbrev AQU_CNT2__TAKEOVER_CNT : Fld := ⟨AQU_CNT2, 31, 24⟩
abbrev AQU_CNT2__RESYNC_CNT : Fld := ⟨AQU_CNT2, 23, 16⟩
abbrev AQU_CNT2__RESYNC_FAIL_CNT : Fld := ⟨AQU_CNT2, 15, 8⟩
abbrev AQU_CNT2__LINK_DOWN_CNT : Fld := ⟨AQU_CNT2, 7, 0⟩

/-- The register map's lines of the AQU_ region. -/
def rowsAQU : List RegRow := [
  ⟨0xCE00, 4, 1, 0x8000FFFF, 0, 0, 0, 0xA⟩,
  ⟨0xCE04, 4, 1, 0, 0xC0000, 0, 0, 0⟩,
  ⟨0xCE08, 4, 1, 0, 0x1FFF, 0, 0, 0⟩,
  ⟨0xCE0C, 4, 1, 0x1FFF, 0, 0, 0, 0⟩,
  ⟨0xCE10, 4, 1, 0, 0, 0, 0, 0⟩,
  ⟨0xCE14, 4, 1, 0, 0, 0, 0, 0⟩,
  ⟨0xCE18, 4, 1, 0, 0, 0, 0, 0⟩,
  ⟨0xCE1C, 4, 1, 0, 0, 0, 0, 0⟩,
  ⟨0xCE20, 4, 1, 0, 0, 0, 0, 0⟩,
  ⟨0xCE24, 4, 1, 0, 0, 0, 0, 0⟩,
  ⟨0xCE28, 4, 1, 0, 0, 0xFFFF0000, 0, 0⟩,
  ⟨0xCE2C, 4, 1, 0, 0, 0, 0, 0⟩,
  ⟨0xCE30, 4, 1, 0, 0, 0, 0, 0⟩,
  ⟨0xCE34, 4, 6, 0, 0, 0, 0, 0⟩,
  ⟨0xCE4C, 4, 1, 0, 0, 0xFFFFFFFF, 0, 0⟩,
  ⟨0xCE50, 4, 1, 0, 0, 0xFFFFFFFF, 0, 0⟩,
  ⟨0xCE54, 4, 1, 0, 0, 0xFFFFFFFF, 0, 0⟩]

/-! ## LOG_ registers, from BAR0 offset 0xD000 (R464) -/

abbrev LOG_CFG : Nat := 0xD000
abbrev LOG_CFG__EN : Fld := ⟨LOG_CFG, 31, 31⟩
abbrev LOG_CFG__AUTO_SAVE : Fld := ⟨LOG_CFG, 30, 30⟩
abbrev LOG_CFG__RESTORE_EN : Fld := ⟨LOG_CFG, 29, 29⟩
abbrev LOG_CFG__POST_P : Fld := ⟨LOG_CFG, 25, 17⟩
abbrev LOG_CFG__SAVE_P : Fld := ⟨LOG_CFG, 16, 10⟩
abbrev LOG_TRIG : Nat := 0xD004
abbrev LOG_TRIG__MASK : Fld := ⟨LOG_TRIG, 8, 0⟩
abbrev LOG_SPHASE : Nat := 0xD008
abbrev LOG_SPHASE__SPHASE : Fld := ⟨LOG_SPHASE, 17, 0⟩
abbrev LOG_SNAP_SEL (i : Nat) : Nat := 0xD00C + 4 * i
abbrev LOG_SNAP_SEL__SEL (i : Nat) : Fld := ⟨LOG_SNAP_SEL i, 15, 0⟩
abbrev LOG_SNAP_LMASK : Nat := 0xD10C
abbrev LOG_SNAP_LMASK__KINDS : Fld := ⟨LOG_SNAP_LMASK, 8, 1⟩
abbrev LOG_STATUS : Nat := 0xD110
abbrev LOG_STATUS__LSTATE : Fld := ⟨LOG_STATUS, 31, 29⟩
abbrev LOG_STATUS__SAVING : Fld := ⟨LOG_STATUS, 28, 28⟩
abbrev LOG_STATUS__SPARE_ERASED : Fld := ⟨LOG_STATUS, 27, 27⟩
abbrev LOG_STATUS__SAVED : Fld := ⟨LOG_STATUS, 26, 26⟩
abbrev LOG_STATUS__CFG_REJ : Fld := ⟨LOG_STATUS, 25, 25⟩
abbrev LOG_STATUS__FRZ_CAUSE : Fld := ⟨LOG_STATUS, 15, 8⟩
abbrev LOG_INT_STATUS : Nat := 0xD114
abbrev LOG_INT_STATUS__SAVE_FAIL : Fld := ⟨LOG_INT_STATUS, 3, 3⟩
abbrev LOG_INT_STATUS__SAVE_DONE : Fld := ⟨LOG_INT_STATUS, 2, 2⟩
abbrev LOG_INT_STATUS__FROZEN : Fld := ⟨LOG_INT_STATUS, 1, 1⟩
abbrev LOG_INT_STATUS__LOST : Fld := ⟨LOG_INT_STATUS, 0, 0⟩
abbrev LOG_INT_EN : Nat := 0xD118
abbrev LOG_INT_EN__SAVE_FAIL : Fld := ⟨LOG_INT_EN, 3, 3⟩
abbrev LOG_INT_EN__SAVE_DONE : Fld := ⟨LOG_INT_EN, 2, 2⟩
abbrev LOG_INT_EN__FROZEN : Fld := ⟨LOG_INT_EN, 1, 1⟩
abbrev LOG_INT_EN__LOST : Fld := ⟨LOG_INT_EN, 0, 0⟩
abbrev LOG_WR_SEQ : Nat := 0xD11C
abbrev LOG_WR_SEQ__SEQ : Fld := ⟨LOG_WR_SEQ, 31, 0⟩
abbrev LOG_WR_IDX : Nat := 0xD120
abbrev LOG_WR_IDX__IDX : Fld := ⟨LOG_WR_IDX, 15, 0⟩
abbrev LOG_FRZ_SEQ : Nat := 0xD124
abbrev LOG_FRZ_SEQ__SEQ : Fld := ⟨LOG_FRZ_SEQ, 31, 0⟩
abbrev LOG_FRZ_POUND : Nat := 0xD128
abbrev LOG_FRZ_POUND__POUND : Fld := ⟨LOG_FRZ_POUND, 31, 0⟩
abbrev LOG_CNT : Nat := 0xD12C
abbrev LOG_CNT__LOST_CNT : Fld := ⟨LOG_CNT, 31, 16⟩
abbrev LOG_CNT__FROZEN_DROP : Fld := ⟨LOG_CNT, 15, 0⟩
abbrev LOG_SAVE_STAT : Nat := 0xD130
abbrev LOG_SAVE_STAT__RESULT : Fld := ⟨LOG_SAVE_STAT, 31, 28⟩
abbrev LOG_SAVE_STAT__NEWEST : Fld := ⟨LOG_SAVE_STAT, 0, 0⟩
abbrev LOG_BOOT : Nat := 0xD134
abbrev LOG_BOOT__FAIL : Fld := ⟨LOG_BOOT, 31, 28⟩
abbrev LOG_BOOT__SLOT : Fld := ⟨LOG_BOOT, 27, 27⟩
abbrev LOG_BOOT__CAUSE : Fld := ⟨LOG_BOOT, 26, 24⟩
abbrev LOG_BOOT__SVN : Fld := ⟨LOG_BOOT, 23, 16⟩
abbrev LOG_BOOT__MIN_SVN : Fld := ⟨LOG_BOOT, 15, 8⟩
abbrev LOG_FW_VER : Nat := 0xD138
abbrev LOG_FW_VER__VERSION : Fld := ⟨LOG_FW_VER, 31, 0⟩

/-- The register map's lines of the LOG_ region. -/
def rowsLOG : List RegRow := [
  ⟨0xD000, 4, 1, 0xE3FFFC00, 0, 0, 0, 0xA0210000⟩,
  ⟨0xD004, 4, 1, 0x1FF, 0, 0, 0, 0xD7⟩,
  ⟨0xD008, 4, 1, 0x3FFFF, 0, 0, 0, 0x3138⟩,
  ⟨0xD00C, 4, 64, 0xFFFF, 0, 0, 0, 0⟩,
  ⟨0xD10C, 4, 1, 0x1FE, 0, 0, 0, 0x1FE⟩,
  ⟨0xD110, 4, 1, 0, 0x2000000, 0, 0, 0⟩,
  ⟨0xD114, 4, 1, 0, 0xF, 0, 0, 0⟩,
  ⟨0xD118, 4, 1, 0xF, 0, 0, 0, 0⟩,
  ⟨0xD11C, 4, 1, 0, 0, 0, 0, 0⟩,
  ⟨0xD120, 4, 1, 0, 0, 0, 0, 0⟩,
  ⟨0xD124, 4, 1, 0, 0, 0, 0, 0⟩,
  ⟨0xD128, 4, 1, 0, 0, 0, 0, 0⟩,
  ⟨0xD12C, 4, 1, 0, 0, 0xFFFFFFFF, 0, 0⟩,
  ⟨0xD130, 4, 1, 0, 0, 0, 0, 0⟩,
  ⟨0xD134, 4, 1, 0, 0, 0, 0, 0⟩,
  ⟨0xD138, 4, 1, 0, 0, 0, 0, 0⟩]

/-- The lines of the region a BAR0 offset lies in (R464). -/
def regionRows (off : Nat) : List RegRow :=
  if off < 0x0200 then rowsHST
  else if off < 0x0600 then []
  else if off < 0x0700 then rowsSYS
  else if off < 0x0A00 then rowsTIM
  else if off < 0x1000 then rowsLCK
  else if off < 0x5000 then []
  else if off < 0x5400 then rowsBSN
  else if off < 0x9000 then rowsPOS
  else if off < 0xB000 then rowsTOW
  else if off < 0xBC00 then rowsWEI
  else if off < 0xC000 then rowsSLU
  else if off < 0xC200 then rowsADC
  else if off < 0xC600 then rowsGAU
  else if off < 0xCE00 then rowsLKP
  else if off < 0xD000 then rowsAQU
  else if off < 0xD400 then rowsLOG
  else []

/-- The line a BAR0 offset belongs to, if the offset holds a register. -/
def regRow (off : Nat) : Option RegRow :=
  (regionRows off).find? (fun r =>
    decide (r.base ≤ off ∧ off < r.base + r.stride * r.count ∧ (off - r.base) % r.stride = 0))

/-- The reset words of HST_ETH_MAC_LO_m and HST_ETH_MAC_HI_m, which OTP gives (R481, R508). -/
def macReset (off : Nat) : BitVec 32 :=
  let a := (Config.otpMac ((off - 0x128) / 8)).toNat
  BitVec.ofNat 32 (if off % 8 = 0 then a / 2 ^ 16 else a % 2 ^ 16)

/-- The reset word of the register at a BAR0 offset; 0 where there is none. -/
def regReset (off : Nat) : BitVec 32 :=
  match regRow off with
  | some r => if 0x128 ≤ off ∧ off < 0x138 then macReset off else BitVec.ofNat 32 r.reset
  | none => 0

end Sys2Proof.Machine
end

