-- ==== Sys2Proof/Machine/State.lean ====
section
/-! DEFINITION. The state of the block as plain data: the register file, the memories, the FIFOs and every piece of
engine state the spec names, the queue of waiting commands, and the state right after reset. -/

namespace Sys2Proof.Machine

/-- Why the machine stops with a fault. No command of this block stops the machine: an event whose conditions do not
hold has no effect and a host command that is turned away is answered, as the spec says. -/
inductive Fault where
  /-- Raised by nobody; it names the stop of a machine whose spec gives no further state (safe: never reached). -/
  | halted
  deriving DecidableEq, Repr

/-- Why a command has no meaning. -/
inductive Refusal where
  /-- Raised by the dispatch for a command whose meaning is not written yet (safe: the machine stops). -/
  | notModelled (mnemonic : String)
  deriving DecidableEq, Repr

/-- What the block has sent or driven: the model's own record of frames, datagrams, replies, messages and levels that
left the device, newest last; `unsupported` completes a read request with Unsupported Request; `src` is a datagram's source port. `bytes` of a frame are its words or bytes as the spec lays them out; `towAbort` ends what a
Towpath port was still sending with ABORT. -/
inductive Output where
  | tow (port tick : Nat) (ws : List Word)
  | towAbort (port tick : Nat)
  | eth (mac : Nat) (bytes : List Byte)
  | udp (mac : Nat) (ip : Word) (port src : Nat) (bytes : List Byte)
  | reply (ifc : Iface) (ws : List Word)
  | read (ifc : Iface) (w : Word)
  | unsupported (ifc : Iface)
  | dma (lo hi : Word) (ws : List Word)
  | spi (bytes : List Byte)
  | msix (vector : Nat)
  | ptp (mac kind : Nat) (seq : Word)
  | mdio (w : Word)
  | aqu (kind : Nat) (ws : List Word)
  | pin (name : Nat) (idx : Nat) (level : Bool)
  deriving DecidableEq, Repr

/-! ## Host interfaces, commands and Lading FIFOs -/

/-- One readable word of a Lading FIFO with its tag (R239, R242). -/
structure LadWord where
  data : BitVec 64
  last : Bool
  trunc : Bool
  vbytes : Nat
  deriving DecidableEq, Repr

/-- A Lading FIFO (R238 to R243): the readable words, oldest first, and the packet being written.
`tail` holds the bytes of the word not yet full, `writing` says that a packet is open, `flushAt` is the tick of a
pending FLUSH, and `skip` says that the producer's words up to its next end mark are discarded (R241). -/
structure Lading where
  words : List LadWord
  tail : List Byte
  writing : Bool
  flushAt : Option Nat
  skip : Bool
  deriving DecidableEq, Repr

/-- The snapshots one host interface holds (R9, R10, R147, R243, R290). `hi` and `tag` come from the last LO read,
`wide` are the words after the lowest one of a time base, `tally` those of a Tally entry, `slot` a result slot. -/
structure Snap where
  hi : Word
  tag : Word
  wide : List Word
  tally : List Word
  slot : Option (Nat × List Word)
  deriving DecidableEq, Repr

/-- Where a command came from and where its reply goes: the submission entry on PCIe, the source on UDP. `drop` says
that the reply is discarded (R462, R472), `direct` that no entry of the command queue was found for the command. -/
structure Origin where
  ifc : Iface
  sqIdx : Nat
  rspLo : Word
  rspHi : Word
  rspWords : Nat
  noIrq : Bool
  drop : Bool
  direct : Bool
  src : UdpSrc
  crc : Word
  deriving DecidableEq, Repr

/-- What waits in an interface's queue: a command, a packet that a check refused with a status, or a command that a failed DMA
read has abandoned. All are answered in the order of arrival (R470, R485, R487). -/
inductive Waits where
  | command
  | refused (status : Nat)
  | dmaFail
  deriving DecidableEq, Repr

/-- A packet taken in by an interface and not yet executed or answered (R487). -/
structure Intake where
  op : Nat
  tag : Word
  target : Word
  payload : List Word
  org : Origin
  kind : Waits
  deriving DecidableEq, Repr

/-- A command answered ACCEPTED whose work continues (R488). `arg` names its object (an arm, a chunk ...). -/
structure LongCmd where
  op : Nat
  tag : Word
  target : Word
  arg : Nat
  org : Origin
  deriving DecidableEq, Repr

/-- A completion waiting to be posted, or, with `final`, the final reply of an ACCEPTED command waiting for its DMA write; `w0`
to `w3` are the reply's header (R470, R471, R488). -/
structure Completion where
  w0 : Word
  w1 : Word
  w2 : Word
  w3 : Word
  final : Bool
  trunc : Bool
  dmaFail : Bool
  words : Nat
  sqIdx : Nat
  noIrq : Bool
  reply : List Word
  addrLo : Word
  addrHi : Word
  deriving DecidableEq, Repr

/-- A reply kept for retransmission (R492). -/
structure CachedReply where
  src : UdpSrc
  tag : Word
  crc : Word
  tick : Nat
  reply : List Word
  deriving DecidableEq, Repr

/-- An ARP cache entry (R477). -/
structure ArpEntry where
  mac : Nat
  ip : Word
  hw : BitVec 48
  tick : Nat
  deriving DecidableEq, Repr

/-- A datagram waiting for address resolution (R477). -/
structure ArpWait where
  mac : Nat
  hop : Word
  ip : Word
  tick : Nat
  dstPort : Nat
  srcPort : Nat
  data : List Byte
  deriving DecidableEq, Repr

/-- The configuration image in staging (R496 IMG_BEGIN, IMG_DATA) and the last commit (IMG_STATUS). -/
structure Staging where
  size : Nat
  imageId : Word
  bytes : List (Nat × Byte)
  staged : List (Nat × Nat)
  running : Bool
  applyAt : Bool
  result : Nat
  failSec : Nat
  failDetail : Nat
  activeId : Word
  loaded : Bool
  deriving DecidableEq, Repr

/-- The host interfaces: rings, vectors, events, snapshots, commands and replies; `sqOld` are the submission entries that await
fetch and are being rewritten, each with the words it had and the words written since (R469), `mdioRead` says that the MDIO
operation in progress is a read, `mdioT` is the tick of the last write of HST_MDIO_CMD (R460), `links` the last result of each
MAC's auto-negotiation (R476). -/
structure Hst where
  ring : List (Nat × Word)
  msix : List (Nat × Word)
  pba : Nat
  vecOn : Nat
  d3 : Bool
  cqIrq : List Nat
  snaps : List (Nat × Snap)
  lad : List (Nat × Lading)
  eseq : List (Nat × Nat)
  intake : List Intake
  longs : List LongCmd
  pendCpl : List Completion
  cache : List (Nat × List CachedReply)
  spiReplies : List (List Word)
  spiExec : Bool
  spiOvr : Bool
  stats : List (Nat × Nat)
  arp : List ArpEntry
  arpWait : List ArpWait
  icmpTicks : List (Nat × Nat)
  sendTicks : List (Nat × List Nat)
  fast : List (Nat × Word)
  mdioBusy : Bool
  mdioRead : Bool
  mdioT : Option Nat
  sqOld : List (Nat × List Nat × Nat)
  links : List (Nat × MacLink)
  stage : Staging
  deriving DecidableEq, Repr

/-! ## Boot, power and test access -/

/-- Where the device stands between power-up and running firmware (R502, R506, R509, R510). -/
inductive BootPhase where
  | hold
  | rom
  | wait
  | run
  deriving DecidableEq, Repr

/-- The OTP fields of R508. -/
structure Otp where
  fwKeyHash : BitVec 256
  safetyKeyHash : BitVec 256
  safetySigReq : Bool
  minSvn : BitVec 64
  subsysId : BitVec 32
  mac0 : BitVec 48
  mac1 : BitVec 48
  deriving DecidableEq, Repr

/-- Boot, resets and power: the phase, the causes holding cold reset, flash and OTP, the image that was started. -/
structure Boot where
  phase : BootPhase
  holdVin : Bool
  holdPin : Bool
  holdThermal : Bool
  holdClock : Bool
  holdTest : Bool
  cause : Nat
  otp : Otp
  flash : List (Nat × Byte)
  commitSvn : Option Nat
  moored : Bool
  logKept : Bool
  ramImage : Bool
  warm : Bool
  jtagIr : BitVec 6
  testmode : Bool
  extest : Bool
  deriving DecidableEq, Repr

/-! ## Logbook -/

/-- The Logbook beside its registers (R513 to R524): the two regions by BAR2 offset, the input queue's fill in the
current tick, the events lost and not yet reported, a save in progress, and the event of a boot not yet written. -/
structure Logbook where
  mem : List (Nat × Byte)
  qTick : Nat
  q : List (List Word)
  lostPend : Nat
  bootEvt : Option (Word × Word × Word)
  freezeAt : Option Nat
  pendSlots : List (Nat × List Byte × Bool)
  savePend : Bool
  saveCnt : Nat
  tbAtFreeze : BitVec 64
  deriving DecidableEq, Repr

/-! ## Lockkeeper -/

/-- What a ready-list entry or a running worker refers to. -/
inductive Work where
  | job (slot : Nat)
  | chain (c : Nat)
  | gauge
  | logSave
  | firmware (id : Nat)
  | cmark (m : Nat)
  deriving DecidableEq, Repr

/-- Who submitted a ready-list entry (R415, R416). -/
inductive Submitter where
  | reseed
  | sluice (core : Nat)
  | mark (m : Nat)
  | firmware
  | host (ifc : Iface)
  deriving DecidableEq, Repr

/-- An entry of a ready list (R415). -/
structure Entry where
  cls : Nat
  prio : Nat
  deadline : Option Nat
  work : Work
  submitted : Nat
  by_ : Submitter
  deriving DecidableEq, Repr

/-- A worker running an activity, charged from tick `since` on (R422). `ends` is the tick at which management work that no
event of the table ends is over. -/
structure Running where
  cls : Nat
  work : Work
  began : Nat
  since : Nat
  ends : Option Nat
  deriving DecidableEq, Repr

/-- The Lockkeeper beside its registers: ready lists by 8w + p, running workers, usage, the budgets in force, and
the Head computed for the coming power period. -/
structure Lkp where
  lists : List (Nat × List Entry)
  running : List (Nat × Running)
  tUsed : List (Nat × Nat)
  eUsedPj : List (Nat × Nat)
  gatedNow : List (Nat × Bool)
  busy : List (Nat × Nat)
  tb : List (Nat × Word)
  eb : List (Nat × Word)
  ecoef : List (Nat × Word)
  nextHead : Option Nat
  deriving DecidableEq, Repr

/-! ## Pound generator and operating state -/

/-- A requested change of operating state (R31): the state asked for and the command to answer. -/
structure StateReq where
  dest : Nat
  due : Nat
  cmd : Option Intake
  deriving DecidableEq, Repr

/-- The pound generator and the operating state (R13 to R36). `start` is B(n), `len` the length of the current pound,
`renum` a pound number to be written at its end (R18), `selNew` an accepted POUND_SEL not yet in effect, `lastCorr`
and `lastSign` the last tick correction, `gap` its distance from the one before in the same direction, `corr` the ticks of
the corrections fixed for this pound and not yet made, which remove a tick each when `corrLate` holds and add one
otherwise, `good` the run of boundaries within 20 ns, `cn` C(n), `due` the flights due,
`marks` the marks' words in effect, `fired` the marks that fired in this pound, `released` that its command release has
passed, `halt` the cause of a HALT due, `weirTrip`, `weirReset` the requests of the Weir waiting for the boundary, `boundaries` and `cns` the last boundary ticks and
values of C(n) by pound, newest first, `turns` the boundaries made, the model's own count. -/
structure Pnd where
  start : Nat
  len : Nat
  sel : Nat
  selNew : Option Nat
  renum : Option Nat
  lastCorr : Option Nat
  lastSign : Bool
  gap : Option Nat
  corr : List Nat
  corrLate : Bool
  resid : Int
  good : Nat
  cn : Nat
  due : List Nat
  marks : List (Nat × Word)
  fired : List Nat
  released : Bool
  request : Option StateReq
  halt : Option Nat
  weirTrip : Bool
  weirReset : Bool
  boundaries : List (Nat × Nat)
  cns : List (Nat × Nat)
  turns : Nat
  deriving DecidableEq, Repr

/-! ## Time bases -/

/-- A plant-format base and its domain's servo (R271, R273, R281, R282). The base holds `v0`, in units of 2⁻¹⁶ ns, at
tick `t0` and runs at 1 + f·10⁻⁹ of TB0. `reqSeq`, `reqT` and `reqLog` are the sequence number of the domain's next own
request, the tick of the last one and the interval the master asked for (R280). -/
structure Domain where
  v0 : Int
  t0 : Nat
  f : Rat
  i : Rat
  stepped : Bool
  lockRun : Nat
  lastSync : Nat
  interval : Nat
  holdStart : Nat
  delays : List Int
  gm : BitVec 64
  lockedSince : Nat
  secNo : Nat
  secCnt : Nat
  reqSeq : Nat
  reqT : Option Nat
  reqLog : Option Int
  deriving DecidableEq, Repr

/-- A user base (R276): in FREE mode `v0`, in units of 2⁻¹⁶ ns, at tick `t0`; `cnt0` is the count of generator ticks
that a base slaved to TB4 started from, and `ofs` the offset in effect. -/
structure UserBase where
  v0 : Int
  t0 : Nat
  cnt0 : Nat
  ofs : Nat
  deriving DecidableEq, Repr

/-- A host frame whose transmit stamp is awaited (R288). -/
structure StampReq where
  mac : Nat
  id : Nat
  base : Nat
  deriving DecidableEq, Repr

/-- The time bases beside their registers. `peer` are the peer delays of the MACs; `corr` is CORR in units of 2⁻¹⁶ ns,
`hold` the source TB3 runs on while it is not valid (R283), `seam` the last tick in which TB3's source was judged, with
TB3 just before that tick (R285); `evald` says that the choice of R284 has been made since reset or the last write of
TIM_SEL_CFG, and `tallyT` is the tick of the newest Tally entry. -/
structure Tim where
  dom : List (Nat × Domain)
  peer : List (Nat × Int)
  corr : Int
  hold : Option Domain
  seam : Nat × Int
  evald : Bool
  user : List (Nat × UserBase)
  tally : List (List Word)
  tallyT : Nat
  stamps : List StampReq
  deriving DecidableEq, Repr

/-! ## Position feedback, pulse dividers and chainage -/

/-- A position channel (R189 to R208). `pos`, `cnt`, `rev` are the three counts of R192; `net` counts every step since
re-initialisation; `started` says that the first good value was taken; `last` is A_last, the last raw count or the
last chainage, taken in pound `lastPound`; `carry` is the pound whose value the sample carries; `availP`, `availT` the
pound and tick of the sample that last became available, `sampT` its sample instant; the fields from `wNet` on are those
of the speed window and of the compatibility mode, `edges` its counted edges and `good` its good readings; `idx` is an
index event not yet evaluated (c, POS at it, its tick). -/
structure Chan where
  pos : Nat
  cnt : Nat
  rev : Nat
  net : Int
  started : Bool
  last : Nat
  lastPound : Nat
  carry : Nat
  availP : Option Nat
  availT : Nat
  sampT : Nat
  dir : Option Bool
  wNet : Int
  wCarry : Nat
  wAge : Nat
  spdAge : Nat
  edges : Nat
  good : Nat
  mixed : Bool
  first : Option (Int × Nat)
  latest : Option (Int × Nat)
  revAt : Option (Int × Nat)
  cRun : Nat
  cT1 : Option Nat
  cT2 : Option Nat
  idx : Option (Nat × Nat × Nat)
  deriving DecidableEq, Repr

/-- A pulse divider's residue, backlog and output count, and the tick of its last output edge (R209, R210). -/
structure Divider where
  r : Nat
  b : Int
  o : Nat
  lastT : Option Nat
  deriving DecidableEq, Repr

/-- The filtered levels of an ABZ input, with the ticks in which they were last accepted (R193). -/
structure Abz where
  a : Bool
  b : Bool
  z : Bool
  tA : Option Nat
  tB : Option Nat
  tZ : Option Nat
  deriving DecidableEq, Repr

/-- The chainage interpolator (R94 to R101). `acc` is the 48.32 accumulator at tick `accT`; between, it is derived;
`hist` are the anchors kept, newest first; `quiet` the boundaries since the last anchor; `revOver` says that
CHN_REV_OVER was raised in this reversal; `alignV` is the value of an armed CHAIN_ALIGN; `whole` the whole part the
dividers last saw. -/
structure Chain where
  ofs : Nat
  h : Nat
  acc : Nat
  accT : Nat
  hist : List (Nat × Nat)
  quiet : Nat
  revOver : Bool
  alignV : Option Nat
  whole : Nat
  deriving DecidableEq, Repr

/-- Position feedback beside its registers. `ser` holds the start tick of a serial transfer in progress. -/
structure PosFb where
  chan : List (Nat × Chan)
  abz : List (Nat × Abz)
  ser : List (Nat × Option Nat)
  pd : List (Nat × Divider)
  chain : Chain
  deriving DecidableEq, Repr

/-! ## Memories reached through commands -/

/-- The configuration windows and memories of R466 and R127, by byte offset; an unlisted byte reads 0. -/
structure Mems where
  lck : List (Nat × Byte)
  tow : List (Nat × Byte)
  slu : List (Nat × Byte)
  plan : List (Nat × Byte)
  bank : List (Nat × Byte)
  arena : List (Nat × Byte)
  gau : List (Nat × Byte)
  slum : List (Nat × Byte)
  deriving DecidableEq, Repr

/-! ## Lock engine -/

/-- A reference segment in a queue (R104): its eight header words, its coefficient words, the start P0 in force and
whether it was latched or released. -/
structure Seg where
  w : List Word
  co : List Word
  p0 : Nat
  latched : Bool
  released : Bool
  deriving DecidableEq, Repr

/-- A queue change accepted for the next boundary (R103). -/
inductive SegOp where
  | append (segs : List Seg)
  | flush
  deriving DecidableEq, Repr

/-- An update in progress (R53, R54): its ticks, the mode and slot it runs in, the inputs fixed at its start, and
whether it overran. `conv` says that a conversion clamped, `slew` that RATE clamped, `zero` that every step is 0. -/
structure Upd where
  start : Nat
  done : Nat
  pound : Nat
  mode : Nat
  slot : Nat
  y : List Int
  age : List Nat
  r : List Int
  x : List Int
  u : List Int
  conv : Bool
  slew : Bool
  zero : Bool
  xi : Option (List Int)
  swapped : Bool
  late : Bool
  deriving DecidableEq, Repr

/-- An update whose flight became ready in pound `pound` and whose lock unit was still busy at its end (R24, R53, R544): its
ready tick, the measurements it enters with, each with the truth value that its conversion clamped, their ages, and the
targets of its axes, all as they stood in that pound. -/
structure Owed where
  pound : Nat
  ready : Nat
  conv : List (Int × Bool)
  age : List Nat
  tgt : List Int
  deriving DecidableEq, Repr

/-- A reseed request (R82 to R84, R151): its registration tick and deadline, whether it waits in the reseed register,
and, once known, the tick from which the swap may be made with the values to apply (none: without reseed). -/
structure Reseed where
  reg : Nat
  deadline : Nat
  waiting : Bool
  ready : Option (Nat × Option (List Int))
  job : List Int
  deriving DecidableEq, Repr

/-- A flight beside its registers (R37 to R92): the stored estimate and command, the update in progress, the pound of
its last started and of its last completed update, the mode changes asked for and the pound from which a start or
resume counts, the run of updates without a step, the tick a pending swap was registered in, its reseed, its segment
queue and the queue changes accepted. `idleOut` says that R81 keeps it out of every mode; `clear` is a CLEAR_FLAGS mask
accepted, `cleared` the pound and mask of the last one applied and not yet in a record; `freeT` is the first tick at
which its lock units may take another update; `owed` are the updates of ended pounds that still wait for a unit, oldest
first; `startN` is the count of boundaries at which the flight last left IDLE (R47). -/
structure Flight where
  xh : List Int
  u : List Int
  r : List Int
  upd : Option Upd
  startedP : Option Nat
  doneP : Option Nat
  wantTrack : Bool
  wantRamp : Bool
  wantHold : Bool
  startAt : Option Nat
  resumeAt : Option Nat
  firstRun : Bool
  runSince : Bool
  stillRun : Nat
  swapReg : Nat
  reseed : Option Reseed
  queue : List Seg
  ops : List SegOp
  idleOut : Bool
  clear : Option Nat
  cleared : Option (Nat × Nat)
  freeT : Nat
  owed : List Owed
  startN : Option Nat
  deriving DecidableEq, Repr

/-- An axis's limiter and target, and the command word last released for it with its enable bit (R66, R229). -/
structure Axis where
  r : Int
  s : Int
  tgt : Int
  deriving DecidableEq, Repr

/-- The command buffer's entry of an axis: the word and enable of the update completed in pound `pound`. -/
structure AxisCmd where
  word : Int
  en : Bool
  pound : Nat
  deriving DecidableEq, Repr

/-- The Lock engine. `check` are bank pointers whose checks run (flight, slot, word, tick written). -/
structure Lck where
  flights : List (Nat × Flight)
  axes : List (Nat × Axis)
  cmds : List (Nat × AxisCmd)
  check : List (Nat × Nat × Word × Nat)
  deriving DecidableEq, Repr

/-! ## Basin and planner -/

/-- A Basin job queued or running, on result slot RSLOT (R130 to R144). `owner` is 0 host, 1 firmware, 2 Lock engine;
`lane` is the lane it runs on, 64 the array; the fields from `iter` on are an iterative job's progress, `xh` to `slotB` the
inputs of a reseed job: x̂, r, the two bank slots; `coldStart` keeps a job from its WSLOT; `fail` is the status that the operands of a started job bind it to. -/
structure Job where
  d : List Word
  owner : Nat
  submitted : Nat
  deadline : Nat
  running : Bool
  lane : Nat
  startT : Nat
  iter : Nat
  iterT : Nat
  facDone : Bool
  newFac : Bool
  nreg : Nat
  firstReg : Option Nat
  cold : Bool
  coldStart : Bool
  warm : Bool
  x : List Word
  z : List Word
  y : List Word
  resP : Word
  resD : Word
  xh : List Int
  r : List Int
  slotA : Nat
  slotB : Nat
  fail : Option Nat
  deriving DecidableEq, Repr

/-- A result slot: the sixteen header words and the data words of its last result, with the KIND and N of
the job that wrote the data (R144, R145). -/
structure RSlot where
  hdr : List Word
  data : List Word
  kind : Nat
  n : Nat
  deriving DecidableEq, Repr

/-- The Basin beside its registers. -/
structure Bsn where
  jobs : List (Nat × Job)
  slots : List (Nat × RSlot)
  arrayFail : Bool
  sel : Nat
  deriving DecidableEq, Repr

/-- A waypoint of a task (R163): its key, its joint words and the gripper target. -/
structure Waypoint where
  key : Nat
  q : List Word
  grip : Word
  deriving DecidableEq, Repr

/-- A task of an arm (R163): keyed by chainage or by pound number. -/
structure Task where
  chain : Bool
  wps : List Waypoint
  deriving DecidableEq, Repr

/-- A TASK_SET in conversion (R185, R497): its keying, the waypoints still to enter as their number and command words,
those entered, the joint values now and the steps taken for the first of the rest, whether a job is out for it, the
waypoints failed and the first of them with its cause. -/
structure Ik where
  chain : Bool
  rest : List (Nat × List Word)
  done : List Waypoint
  q : List Word
  steps : Nat
  out : Bool
  failed : Nat
  first : Nat × Nat
  deriving DecidableEq, Repr

/-- The stages of a plan cycle (R157 to R160): none, building, the QP submitted, ended. -/
inductive PlanPhase where
  | none
  | building
  | job
  | ended
  deriving DecidableEq, Repr

/-- A planned joint: arm, joint, start position and velocity (R161, R162). -/
structure PJoint where
  arm : Nat
  joint : Nat
  q0 : Word
  v0 : Word
  deriving DecidableEq, Repr

/-- The planner (R157 to R188). `b` is the first pound of the cycle's power period, `ganged` its mode, `cb`, `inc`, `hints` and `arms` the
chainage, speed, speed scales and planned arms latched there; `joints` to `colm` what the cycle has found; `pub` the
publication waiting for its boundary by arm, `newKnots` its motion; `knots` the motion of the last plan published by
16·arm + knot (8 for the stop tail), whose first pound is `knotsP`; `dualAt` where the dual area
lies whose header has been zeroed; `tasks` the tasks in force, `ready` those of the next build start (none: no task), `ik` the
conversions. -/
structure Plan where
  phase : PlanPhase
  b : Nat
  ganged : Bool
  cb : Nat
  inc : Nat
  hints : List Nat
  arms : Nat
  joints : List PJoint
  status : Nat
  cause : Nat
  headLim : Bool
  pairOvf : Bool
  pairs : Nat
  iterMax : Nat
  iter : Nat
  conv : Bool
  resP : Option Word
  colm : Option Word
  pub : List (Nat × List Seg)
  newKnots : List (Nat × List Word)
  knots : List (Nat × List Word)
  knotsP : Nat
  dualAt : Option Nat
  coldNext : Bool
  lostTaken : Bool
  tasks : List (Nat × Task)
  ready : List (Nat × Option Task)
  ik : List (Nat × Ik)
  deriving DecidableEq, Repr

/-! ## Manifest -/

/-- A Manifest entry (R110, R111): storage index, generation, its eight words, the sequence number it was armed with
and the tick in which it was first seen due. -/
structure ManEntry where
  idx : Nat
  gen : Nat
  w : List Word
  seq : Nat
  due : Option Nat
  deriving DecidableEq, Repr

/-- A MANIFEST_CANCEL accepted and waiting for its cancel tick (R116). -/
structure ManCancel where
  mode : Nat
  a : Word
  b : Word
  cmd : Intake
  deriving DecidableEq, Repr

/-- The Manifest (R110 to R118): armed entries in firing order, accepted entries not yet armed, oldest first, the
generation of each storage index, the next sequence number, the tick of the last firing and the entries fired in it,
the output levels and pending falls, and the auxiliary command words. `used` says that an entry was ever armed. -/
structure Man where
  armed : List ManEntry
  waiting : List ManEntry
  gens : List (Nat × Nat)
  seq : Nat
  fireT : Nat
  fireN : Nat
  level : Nat
  falls : List (Nat × Option Nat)
  aux : List (Nat × Nat)
  cancels : List ManCancel
  used : Bool
  gauT : Option Nat
  deriving DecidableEq, Repr

/-! ## Sluice and analog inputs -/

/-- A capture unit (R297 to R299): the elements written since the last complete block, the index of the first of them,
and by halfword of X memory whether the element captured there was aged (1) or invalid (2). -/
structure Capture where
  wrote : Nat
  first : Nat
  marks : List (Nat × Nat)
  deriving DecidableEq, Repr

/-- A run of a chain, from its trigger on (R308, R309): its core, trigger and deadline ticks, the start index of its
capture block, the elements captured since, whether it waits in the trigger latch, whether it runs, its stage and the
flags of SLU_CHST: bit 0 SAT_ACC, 1 SAT_ST, 2 WRAP_ACC, 3 WRAP_ST, 4 CAP_OVR, 5 CAP_INV, 6 CAP_AGED. -/
structure ChainRun where
  core : Nat
  trig : Nat
  deadline : Option Nat
  first : Option Nat
  since : Nat
  latched : Bool
  running : Bool
  stage : Nat
  flags : Nat
  deriving DecidableEq, Repr

/-- A host write of core memory m from halfword h on, waiting for its core to be idle (R310). -/
structure SluWrite where
  core : Nat
  m : Nat
  h : Nat
  data : List Byte
  arrived : Nat
  cmd : Intake
  deriving DecidableEq, Repr

/-- The Sluice beside its registers and memories. -/
structure Slu where
  cap : List (Nat × Capture)
  runs : List (Nat × ChainRun)
  writes : List SluWrite
  deriving DecidableEq, Repr

/-- The settings of a conversion that R324 compares, and the tick it ended in. -/
structure AdcPrev where
  entry : Word
  lp : Bool
  ended : Nat
  deriving DecidableEq, Repr

/-- A run of a converter sequence (R320 to R326): the tick at which its conversion in progress starts (or its first one
will), whether it has begun, its entry, the settling and the valid results still to deliver, the group being summed,
the first sampling instant and whether its results go to the Lading FIFO. -/
structure AdcRun where
  next : Nat
  begun : Bool
  entry : Nat
  settle : Nat
  left : Nat
  sum : Int
  got : Nat
  range : Bool
  stamp : Option Nat
  fifo : Bool
  deriving DecidableEq, Repr

/-- A converter: its regular and injected runs, the regular trigger held, and its previous conversion since EN was
set. -/
structure AdcConv where
  reg : Option AdcRun
  inj : Option AdcRun
  held : Bool
  prev : Option AdcPrev
  deriving DecidableEq, Repr

/-- The analog inputs beside their registers: the converters, and for each comparator the tick from which its filter
counts, that of its last accepted level or of the last write of its register (R316, R327, R328). -/
structure Adc where
  conv : List (Nat × AdcConv)
  cmpT : List (Nat × Nat)
  deriving DecidableEq, Repr

/-! ## Towpath -/

/-- How a poll of an entry stands (R252). -/
inductive Judged where
  | waiting
  | onTime
  | early
  | missing
  | late
  | skipped
  deriving DecidableEq, Repr

/-- The last poll of a schedule entry: its pound, its send tick (its OFFSET tick when it was not sent), its frame
identifier, how its reply was judged, whether it probes a quarantined barge, and whether its MISSING is withdrawn. -/
structure Poll where
  pound : Nat
  t : Nat
  fid : Nat
  judged : Judged
  probe : Bool
  withdrawn : Bool
  deriving DecidableEq, Repr

/-- An auxiliary measurement word with its age and the pound and tick its value or aging belongs to (R248). -/
structure AuxWord where
  v : Nat
  age : Nat
  availP : Option Nat
  t : Nat
  deriving DecidableEq, Repr

/-- What a management exchange is for (R251, R258, R265, R266). -/
inductive MgmtWhy where
  | host (k : Intake)
  | step
  | readmit (step : Nat)
  | rerange
  deriving DecidableEq, Repr

/-- A management exchange of a port: a request of R231 or an addressing exchange of R259. -/
structure Exchange where
  write : Bool
  bcast : Bool
  barge : Nat
  addressing : Bool
  addr : Nat
  n : Nat
  data : List Word
  why : MgmtWhy
  sends : Nat
  deriving DecidableEq, Repr

/-- An exchange sent and not yet answered: its send tick, its window in ticks from the send, its frame identifier. -/
structure Sent where
  x : Exchange
  t : Nat
  opens : Nat
  closes : Nat
  fid : Nat
  deriving DecidableEq, Repr

/-- A port beside its registers: the identifier of its next frame, the first tick its transmitter is free, the EOF of
its last LATE or DRAGGED reply, waiting requests and those sent, the exchanges still to send of the bring-up step, the
pound the step began in, the pound and count of exchanges sent, the barge next in turn for re-ranging, the tick and
epoch of the last reference of a master heard on it, the responses received to its last ENUM, and at a boundary that its own
frames pass the entries of the ended pound still to be sent and whether the REFERENCE waits behind them. -/
structure Port where
  fid : Nat
  txFree : Nat
  lastLate : Option Nat
  queue : List Exchange
  sent : List Sent
  todo : List Exchange
  stepP : Nat
  sentP : Nat
  sentN : Nat
  turn : Nat
  refAt : Option (Nat × Word)
  enums : Nat
  late : List Nat
  refLate : Bool
  deriving DecidableEq, Repr

/-- A barge beside its registers: the pound of its quarantine and of its last probe, whether re-admission exchanges
stand in place of the next probe, whether it answered PROBE and passed VERIFY, RANGE and CONFIG, its DLY, the round
trips of the ranging under way, the spans failed, the pound of its last ranging, whether it is SYNCED, and whether its
next ranging is written whatever the difference (R452). -/
structure Barge where
  quarP : Nat
  probeP : Option Nat
  lost : Bool
  answered : Bool
  good : Bool
  dly : Nat
  rtts : List Int
  spans : Nat
  rangedP : Option Nat
  synced : Bool
  force : Bool
  deriving DecidableEq, Repr

/-- The Towpath beside its registers and tables. -/
structure Tow where
  polls : List (Nat × Poll)
  aux : List (Nat × AuxWord)
  ports : List (Nat × Port)
  barges : List (Nat × Barge)
  deriving DecidableEq, Repr

/-! ## Weir -/

/-- One channel of a safe input (R351): the accepted level, the raw level last sampled and the tick since which it has
been stable. -/
structure InCh where
  lvl : Bool
  raw : Bool
  since : Nat
  deriving DecidableEq, Repr

/-- A safe input as one Weir channel sees it (R346, R350 to R354): its channels, the fast-path demands that stand on its
two pins, the count of disagreeing samples, its discrepancy fault, and its test-pulse faults by channel. -/
structure SafeIn where
  a : InCh
  b : InCh
  fast : Bool
  fastB : Bool
  disc : Nat
  discF : Bool
  tpfA : Bool
  tpfB : Bool
  deriving DecidableEq, Repr

/-- An axis monitor (R356 to R361): the positions kept of its two channels, newest first, p_ref of an active SDI and
its active causes by code. -/
structure AxMon where
  hist : List Nat
  histQ : List Nat
  sdi : Option Int
  causes : List Nat
  deriving DecidableEq, Repr

/-- A safety connection beside its registers (R386 to R391): the SEQ to send next, the tick its watchdog runs from, the
run of accepted frames, the last CODE failure, whether any SEQ is accepted, the payload last accepted, and a frame that
remains to be sent. -/
structure Conn where
  seq : Nat
  last : Nat
  run : Nat
  codeT : Option Nat
  anySeq : Bool
  data : List Word
  due : Bool
  deriving DecidableEq, Repr

/-- The Weir beside its registers (R346 to R412). `act`, `conf` and `stage` are the bytes of the active, confirmed and
staged sets; `swap` says that the confirmed set replaces the active one at the next boundary; `okT` is the tick a staged
set passed its checks; `ins` to `conns` the inputs, test pulses, monitors and connections, `insB`, `monsB` and `fmonsB`
those of Weir B; `tpLow` are the test-pulse outputs driven low; `tracks` the track slots, `ends` the capsule end points of
the last SSM evaluation; `tripT` to `off` the reaction of the last trip: its tick, whether hard, whether Weir A and Weir B
act on it, the groups off; the rest is the reset recogniser, the pin levels commanded, the readback and comparison of the
last tick with the differences the next one finds (monitor results, by pounds after and before the last tick, and frames
withheld), the control side's request in HALTED, and the positions and ages the ledger gives a standby by channel
(R443). -/
structure Weir where
  act : List (Nat × Byte)
  actV : Bool
  conf : List (Nat × Byte)
  confV : Bool
  swap : Bool
  stage : List (Nat × Byte)
  okT : Option Nat
  actT : Nat
  ins : List (Nat × SafeIn)
  insB : List (Nat × SafeIn)
  pulse : List (Nat × Option Nat)
  tpLow : Nat
  mons : List (Nat × AxMon)
  monsB : List (Nat × AxMon)
  fmons : List Nat
  fmonsB : List Nat
  conns : List (Nat × Conn)
  tracks : List (Nat × (Word × Word))
  ends : List (Nat × List Word)
  tripT : Nat
  hard : Bool
  adoptedA : Bool
  adopted : Bool
  off : Nat
  clearT : Option Nat
  press : Nat
  pressOk : Bool
  levelRun : Nat
  outA : Nat
  outB : Nat
  rbA : Nat
  rbB : Nat
  differed : Bool
  monNow : Bool
  monLast : Bool
  frameDiff : Bool
  haltReq : Bool
  feed : List (Nat × (Nat × Nat))
  deriving DecidableEq, Repr

/-! ## Gauge -/

/-- The measurement of one channel while a record is taken (R341). -/
structure Meas where
  n : Nat
  sum : Int
  sumSq : Nat
  lo : Int
  hi : Int
  low : Bool
  cross : Nat
  firstT : Nat
  lastT : Nat
  deriving DecidableEq, Repr

/-- A record held: SEQ, ring offset, bytes, whether its header is written (R337 to R343). -/
structure Record where
  seq : Nat
  ofs : Nat
  size : Nat
  done : Bool
  deriving DecidableEq, Repr

/-- The Gauge beside its registers and record memory (R331 to R344). `recs` are the records held, oldest first, the one
reserved included; `seq` is the next SEQ, `taken` the records taken since ARM, `ring` the offset after the last record.
Of the record being taken: `samples` taken, `dead` time counted from tick `deadFrom`, the `lastSample`, the `pre` rows
stored and the ticks of those kept (newest first), the `post` rows due, stored in memory, accepted into GAU_LAD and lost,
the tick of post row 0, the memory rows `postMem`, whether they were clamped and whether more are streamed, the trigger
(sources, tick) with the external sources latched, the run of matching samples, whether a sample did not match since
arming and whether the run began after one, and the block being filled: its row bytes and the rows' ticks and values.
`finishT` is the tick FINISH ends in, `stopAfter` says that STOP came in FINISH. -/
structure Gau where
  recs : List Record
  seq : Nat
  taken : Nat
  ring : Nat
  samples : Nat
  deadFrom : Nat
  dead : Nat
  lastSample : Nat
  pre : Nat
  preTicks : List Nat
  post : Nat
  memRows : Nat
  accepted : Nat
  lost : Nat
  postT : Option Nat
  postMem : Nat
  trunc : Bool
  streaming : Bool
  trig : Option (Nat × Nat)
  latched : List (Nat × Nat)
  run : Nat
  sawMiss : Bool
  runOk : Bool
  block : List Byte
  blockV : List (Nat × List Int)
  stopped : Bool
  finishT : Nat
  stopAfter : Bool
  meas : List (Nat × Meas)
  deriving DecidableEq, Repr


/-! ## Aqueduct -/

/-- A BULK frame that waits to be sent (R439): its region (0 to 3 the memories of `BulkData`, 4 the registers, 5 a
snapshot), its offset there, its words and whether it is the last of its transfer. -/
structure BulkPart where
  region : Nat
  off : Nat
  ws : List Word
  last : Bool
  deriving DecidableEq, Repr

/-- A change of role decided for the next boundary (R435): the role, the AQU_INT_STATUS bit it raises, whether it is a
takeover, and whether that takeover completes a handover. -/
structure RoleChange where
  role : Nat
  bit : Option Nat
  takeover : Bool
  handover : Bool
  deriving DecidableEq, Repr

/-- A commit kept for sending and retransmission (R442): its pound, records, payload words, the frames already sent, and
whether it was resent. -/
structure Commit where
  pound : Nat
  words : List Word
  sent : Nat
  resent : Bool
  deriving DecidableEq, Repr

/-- The Aqueduct beside its registers (R434 to R458): the ledger of the current pound and the last one frozen, the frame
counts, the last SYNC, HEARTBEAT and HELLO of the twin and when it was last heard, the missing HEARTBEATs, a FAIL since
the last HEARTBEAT, REF_GONE, the join (its end, and what was heard: 0 nothing, 1 only twins in DRY with a higher RANK,
2 another), the role change decided, the commits kept, the commits being received, the complete commits not yet
applied, the standby's clean run, self-test and D_c, the last CHANNEL entries, the pound of a handover's FAIL, the
resynchronisation and the twin-wide changes waiting for the boundary; then 2e of the last SYNC in 1/8 tick, the pound of
the last link DOWN, the handover command to answer, the twin-wide data received and not yet in effect, the device's own
samples of local channels by pound, a snapshot asked for, the last pound a LEDGER frame was seen of, the bytes of
commits buffered before the snapshot, the BULK frames that wait, the Basin test that runs (lane 0 to 63, 64 the array)
and the sweeps completed, and TAKEOVER_LAG (R450). -/
structure Aqu where
  recs : List LedgerRec
  last : List LedgerRec
  seqTx : Nat
  seqRx : Option Nat
  aRx : Int
  heardT : Option Nat
  beat : Option Heartbeat
  hello : Option Hello
  epoch : Word
  beatP : Option Nat
  missed : Nat
  failed : Bool
  refGone : Bool
  joinT : Option Nat
  joinHeard : Nat
  helloT : Nat
  next : Option RoleChange
  commits : List Commit
  rx : List (Nat × Nat × List LedgerRec)
  inbox : List (Nat × List LedgerRec)
  clean : Nat
  bistPasses : Nat
  bistFail : Bool
  ce : Nat
  ue : Nat
  dc : List (Nat × Int)
  chans : List ChanEntry
  handover : Option Nat
  handed : Bool
  snapAt : Option Nat
  followed : Bool
  restartT : Option Nat
  changes : List Intake
  syncE : Int
  downP : Option Nat
  handCmd : Option Intake
  bulk : List (BulkData × Bool)
  samples : List (Nat × List (Nat × Nat))
  snapWant : Bool
  seen : Option Nat
  buf : Nat
  bulkTx : List BulkPart
  testing : Option Nat
  sweeps : Nat
  tkLag : Bool
  deriving DecidableEq, Repr

/-! ## The device -/

/-- The events of one tick on the W1C and RC bits of a register, by offset: the word before the first of them, and the
bits the events of the tick alone have set or counted (R6). -/
structure Edges where
  tick : Nat
  regs : List (Nat × Option (Word × Word))
  deriving DecidableEq, Repr

/-- Everything of the device but the queue of waiting commands. `now` is POS_TICK, `regs` the BAR0 register file
(by offset, an unlisted register reads its reset word), `edges` the events of the last tick that set one of its W1C or RC
bits, `fresh` counts the free values taken, `out` is the model's own
record of what was sent. -/
structure Chip where
  now : Nat
  fresh : Nat
  regs : List (Nat × Word)
  edges : Edges
  out : List Output
  hst : Hst
  boot : Boot
  log : Logbook
  lkp : Lkp
  pnd : Pnd
  tim : Tim
  pf : PosFb
  mem : Mems
  lck : Lck
  bsn : Bsn
  plan : Plan
  man : Man
  slu : Slu
  adc : Adc
  tow : Tow
  weir : Weir
  gau : Gau
  aqu : Aqu
  deriving DecidableEq, Repr

/-- The state of the block: the device and the commands that wait, first in, first out. -/
structure State where
  chip : Chip
  pending : List Instr
  deriving DecidableEq, Repr

/-! ## Reset -/

/-- Staging with nothing in it. -/
def Staging.init : Staging :=
  { size := 0, imageId := 0, bytes := [], staged := [], running := false, applyAt := false, result := 0,
    failSec := 0, failDetail := 0, activeId := 0, loaded := false }

/-- The host interfaces after a cold reset: rings disabled, nothing queued. -/
def Hst.init : Hst :=
  { ring := [], msix := [], pba := 0, vecOn := 0, d3 := false, cqIrq := [], snaps := [], lad := [], eseq := [], intake := [],
    longs := [], pendCpl := [], cache := [], spiReplies := [], spiExec := false, spiOvr := false, stats := [], arp := [],
    arpWait := [], icmpTicks := [], sendTicks := [], fast := [], mdioBusy := false, mdioRead := false, mdioT := none,
    sqOld := [], links := [], stage := Staging.init }

/-- The OTP as the integrator programmed it (R508). -/
def Otp.init : Otp :=
  { fwKeyHash := Config.otpFwKeyHash, safetyKeyHash := Config.otpSafetyKeyHash, safetySigReq := Config.otpSafetySigReq,
    minSvn := Config.otpMinSvn, subsysId := Config.otpSubsysId, mac0 := Config.otpMac 0, mac1 := Config.otpMac 1 }

/-- A device whose boot ROM runs after a power-on reset, with a flash and an OTP (R502). -/
def Boot.init (otp : Otp) (flash : List (Nat × Byte)) : Boot :=
  { phase := .rom, holdVin := false, holdPin := false, holdThermal := false, holdClock := false, holdTest := false,
    cause := 0, otp := otp, flash := flash, commitSvn := none, moored := false, logKept := false, ramImage := false,
    warm := false, jtagIr := 0b000001, testmode := false, extest := false }

/-- An empty Logbook (R512). -/
def Logbook.init : Logbook :=
  { mem := [], qTick := 0, q := [], lostPend := 0, bootEvt := none, freezeAt := none, pendSlots := [], savePend := false,
    saveCnt := 0, tbAtFreeze := 0 }

/-- The Lockkeeper after reset: nothing listed, nothing running, the reset values of its registers in force. -/
def Lkp.init : Lkp :=
  { lists := [], running := [], tUsed := [], eUsedPj := [], gatedNow := [], busy := [], tb := [], eb := [], ecoef := [],
    nextHead := none }

/-- The pound generator after a cold reset: pound 0 of 31.25 µs, FREE (R36, R512). -/
def Pnd.init : Pnd :=
  { start := 0, len := 25000, sel := 1, selNew := none, renum := none, lastCorr := none, lastSign := false, gap := none,
    corr := [], corrLate := false, resid := 0,
    good := 0, cn := 0, due := [], marks := [], fired := [], released := false, request := none, halt := none, weirTrip := false,
    weirReset := false, boundaries := [(0, 0)], cns := [(0, 0)], turns := 0 }

/-- The time bases at 0, no domain heard, an empty Tally. -/
def Tim.init : Tim :=
  { dom := [], peer := [], corr := 0, hold := none, seam := (0, 0), evald := false, user := [], tally := [], tallyT := 0,
    stamps := [] }

/-- The interpolator with chainage disabled. -/
def Chain.init : Chain :=
  { ofs := 0, h := 0, acc := 0, accT := 0, hist := [], quiet := 0, revOver := false, alignV := none, whole := 0 }

/-- The planner with no cycle and no task. -/
def Plan.init : Plan :=
  { phase := .none, b := 0, ganged := false, cb := 0, inc := 0, hints := [], arms := 0, joints := [], status := 0, cause := 0,
    headLim := false, pairOvf := false, pairs := 0, iterMax := 0, iter := 0, conv := false, resP := none, colm := none,
    pub := [], newKnots := [], knots := [], knotsP := 0, dualAt := none, coldNext := false, lostTaken := false, tasks := [], ready := [], ik := [] }

/-- The Manifest with nothing in it. -/
def Man.init : Man :=
  { armed := [], waiting := [], gens := [], seq := 0, fireT := 0, fireN := 0, level := 0, falls := [], aux := [],
    cancels := [], used := false, gauT := none }

/-- The Weir without a parameter set, its inputs low, its pins low. -/
def Weir.init : Weir :=
  { act := [], actV := false, conf := [], confV := false, swap := false, stage := [], okT := none, actT := 0, ins := [], insB := [],
    pulse := [], tpLow := 0, mons := [], monsB := [], fmons := [], fmonsB := [], conns := [], tracks := [], ends := [], tripT := 0, hard := false,
    adoptedA := false, adopted := false, off := 0, clearT := none, press := 0, pressOk := false, levelRun := 0, outA := 0, outB := 0,
    rbA := 0, rbB := 0, differed := false, monNow := false, monLast := false, frameDiff := false, haltReq := false, feed := [] }

/-- The Gauge in IDLE with no record. -/
def Gau.init : Gau :=
  { recs := [], seq := 0, taken := 0, ring := 0, samples := 0, deadFrom := 0, dead := 0, lastSample := 0, pre := 0,
    preTicks := [], post := 0, memRows := 0, accepted := 0, lost := 0, postT := none, postMem := 0, trunc := false,
    streaming := false, trig := none, latched := [], run := 0, sawMiss := false, runOk := false, block := [],
    blockV := [], stopped := false, finishT := 0, stopAfter := false, meas := [] }

/-- The Aqueduct with its link DOWN and nothing heard. -/
def Aqu.init : Aqu :=
  { recs := [], last := [], seqTx := 0, seqRx := none, aRx := 0, heardT := none, beat := none, hello := none, epoch := 0,
    beatP := none, missed := 0, failed := false, refGone := false, joinT := none, joinHeard := 0, helloT := 0, next := none,
    commits := [], rx := [], inbox := [], clean := 0, bistPasses := 0, bistFail := false, ce := 0, ue := 0, dc := [],
    chans := [], handover := none, handed := false, snapAt := none, followed := false, restartT := none, changes := [],
    syncE := 0, downP := none, handCmd := none, bulk := [], samples := [], snapWant := false, seen := none, buf := 0,
    bulkTx := [], testing := none, sweeps := 0, tkLag := false }

/-- A device initialised by a cold reset: every register at its reset value, every memory empty (R512). -/
def Chip.initial (otp : Otp) (flash : List (Nat × Byte)) : Chip :=
  { now := 0, fresh := 0, regs := [], edges := ⟨0, []⟩, out := [], hst := Hst.init, boot := Boot.init otp flash, log := Logbook.init,
    lkp := Lkp.init, pnd := Pnd.init, tim := Tim.init, pf := ⟨[], [], [], [], Chain.init⟩,
    mem := ⟨[], [], [], [], [], [], [], []⟩, lck := ⟨[], [], [], []⟩, bsn := ⟨[], [], false, 0⟩, plan := Plan.init,
    man := Man.init, slu := ⟨[], [], []⟩, adc := ⟨[], []⟩, tow := ⟨[], [], [], []⟩, weir := Weir.init, gau := Gau.init,
    aqu := Aqu.init }

/-- The machine right after a power-on reset: the cold reset is released and the boot ROM runs; the flash is erased (R502,
R512). -/
def State.reset : State := ⟨Chip.initial Otp.init [], []⟩

end Sys2Proof.Machine
end

