-- ==== Sys2Proof/Machine/Ops.lean ====
section
/-! DEFINITION. The named operations the meanings share: registers and their fields, time, memories, free values,
Lading FIFOs, host events, interrupt messages, the Logbook's events and triggers. -/

namespace Sys2Proof.Machine

/-! ## Registers -/

/-- The word a BAR0 register holds, as a number. -/
def Chip.reg (c : Chip) (off : Nat) : Nat := (tabGet regReset c.regs off).toNat

/-- The chip with a BAR0 register holding `v` modulo 2³². -/
def Chip.setReg (c : Chip) (off v : Nat) : Chip := { c with regs := tabPut regReset off (w32 v) c.regs }

/-- Width of a field. -/
def Fld.width (x : Fld) : Nat := x.hi + 1 - x.lo

/-- A field's value. -/
def Chip.fld (c : Chip) (x : Fld) : Nat := bits (c.reg x.off) x.hi x.lo

/-- A field read as a two's complement number. -/
def Chip.fldI (c : Chip) (x : Fld) : Int := signed x.width (c.fld x)

/-- A one-bit field as a truth value. -/
def Chip.flag (c : Chip) (x : Fld) : Bool := c.fld x != 0

/-- A word with bits [hi:lo] replaced by `v` modulo the field's width. -/
def putBits (w hi lo v : Nat) : Nat :=
  w - bits w hi lo * 2 ^ lo + v % 2 ^ (hi + 1 - lo) * 2 ^ lo

/-- The W1C and RC bits of a register: those on which an event and an access of the same tick meet (R6). -/
def eventBits (off : Nat) : Nat :=
  match regRow off with
  | some r => r.w1c ||| r.rc
  | none => 0

/-- What the events of this tick did to a register: its word before them, and what they alone make of it (R6). -/
def Chip.edge (c : Chip) (off : Nat) : Option (Word × Word) :=
  if c.edges.tick = c.now then tabGet (fun _ => none) c.edges.regs off else none

/-- The record of this tick's events with a register's entry replaced. -/
def Chip.edgesWith (c : Chip) (off : Nat) (e : Word × Word) : Edges :=
  ⟨c.now, tabPut (fun _ => none) off (some e) (if c.edges.tick = c.now then c.edges.regs else [])⟩

/-- The chip with a register's entry in that record replaced. -/
def Chip.setEdge (c : Chip) (off : Nat) (e : Word × Word) : Chip := { c with edges := c.edgesWith off e }

/-- An event on a field, `f` its effect on the field's value: where the register has W1C or RC bits the tick's record
takes it in (R6). -/
def Chip.noteEdge (c : Chip) (x : Fld) (f : Nat → Nat) : Chip :=
  let e := (c.edge x.off).getD (w32 (c.reg x.off), 0)
  { c with edges :=
      if eventBits x.off = 0 then c.edges
      else c.edgesWith x.off (e.1, w32 (putBits e.2.toNat x.hi x.lo (f (bits e.2.toNat x.hi x.lo)))) }

/-- The chip with a field set to `v` modulo its width. -/
def Chip.setFld (c : Chip) (x : Fld) (v : Nat) : Chip :=
  (c.noteEdge x (fun _ => v)).setReg x.off (putBits (c.reg x.off) x.hi x.lo v)

/-- The chip with a field set to an integer in two's complement. -/
def Chip.setFldI (c : Chip) (x : Fld) (v : Int) : Chip := c.setFld x (unsigned x.width v)

/-- The chip with a one-bit field set or cleared. -/
def Chip.setFlag (c : Chip) (x : Fld) (b : Bool) : Chip := c.setFld x (b2n b)

/-- The chip with a flag set. -/
def Chip.raise (c : Chip) (x : Fld) : Chip := c.setFld x 1

/-- A counter's value raised by `n`; counters saturate at their maximum and never wrap. -/
def Fld.sum (x : Fld) (v n : Nat) : Nat := min (v + n) (2 ^ x.width - 1)

/-- A counter field raised by `n`. -/
def Chip.count (c : Chip) (x : Fld) (n : Nat) : Chip :=
  (c.noteEdge x (fun v => x.sum v n)).setReg x.off (putBits (c.reg x.off) x.hi x.lo (x.sum (c.fld x) n))

/-- A field that holds the largest value since its last read takes `v` in: of the events of a tick the largest alone stands
after a read of that tick (R6). -/
def Chip.peak (c : Chip) (x : Fld) (v : Nat) : Chip :=
  (c.noteEdge x (max v)).setReg x.off (putBits (c.reg x.off) x.hi x.lo (max v (c.fld x)))

/-- The chip with one bit of a register set (a pending bit of an indexed set). -/
def Chip.raiseBit (c : Chip) (off i : Nat) : Chip := c.setFld ⟨off, i, i⟩ 1

/-- The chip with bits of a register cleared where the mask has ones. -/
def Chip.clearMask (c : Chip) (off mask : Nat) : Chip := c.setReg off (c.reg off &&& ((2 ^ 32 - 1) ^^^ (mask % 2 ^ 32)))

/-- Applies an operation for each element in turn. -/
def Chip.each {β : Type} (c : Chip) (xs : List β) (f : Chip → β → Chip) : Chip := xs.foldl f c

/-- Applies an operation when a condition holds. -/
def Chip.onlyIf (c : Chip) (b : Bool) (f : Chip → Chip) : Chip := if b then f c else c

/-- A write by a register's access codes alone: RW bits take the value, W1C bits written as 1 clear but for those an event
sets in the same tick, all others stay (R5, R6). -/
def Chip.writeBits (c : Chip) (off v : Nat) : Chip :=
  match regRow off with
  | none => c
  | some r =>
    let w := c.reg off
    let keep := (2 ^ 32 - 1) ^^^ r.rw
    let got := match c.edge off with
      | some e => e.2.toNat
      | none => 0
    let clear := v &&& r.w1c &&& ((2 ^ 32 - 1) ^^^ got)
    c.setReg off (((w &&& keep) ||| (v &&& r.rw)) &&& ((2 ^ 32 - 1) ^^^ clear))

/-- The role of AQU_ROLE: 0 SOLO, 1 PRIMARY, 2 STANDBY, 3 RESYNC (R434). -/
def Chip.role (c : Chip) : Nat := c.fld AQU_ROLE__ROLE

/-- The device drives its outputs: in roles SOLO and PRIMARY (R212, R434). -/
def Chip.drives (c : Chip) : Bool := decide (c.role ≤ 1)

/-- The pound after a handover's FAIL: the old primary sends nothing on Towpath and its updates overrun (R451). -/
def Chip.handSilent (c : Chip) : Bool := match c.aqu.handover with
  | some h => c.reg SYS_POUND_NUM == (h + 1) % 2 ^ 32
  | none => false

/-! ## Pins the device drives: their names in the record of what left the device -/

abbrev pinPDA : Nat := 0
abbrev pinPDB : Nat := 1
abbrev pinPDZ : Nat := 2
abbrev pinMEVO : Nat := 3
/-- The reply-ready output SPI_RDY (R479). -/
abbrev pinSPIRDY : Nat := 10
abbrev pinWPA : Nat := 4
abbrev pinWPB : Nat := 5
abbrev pinSOUTA : Nat := 6
abbrev pinSOUTB : Nat := 7
abbrev pinTP : Nat := 8
abbrev pinMGT_HIZ : Nat := 9

/-! ## Time and free values -/

/-- The chip at tick `t`; time never runs back. Every value that runs with time is derived from `now` when read. -/
def Chip.at (c : Chip) (t : Nat) : Chip := { c with now := max c.now t }

/-- TB0 of a tick: nanoseconds, 1.25 ns a tick (R271). -/
def tb0Of (tick : Nat) : Nat := tick * 5 / 4

/-- A fresh word the spec does not fix. -/
def Chip.freeWord (c : Chip) : Chip × Word := ({ c with fresh := c.fresh + 1 }, Config.freeWord c.fresh)

/-- A fresh choice the spec does not fix. -/
def Chip.freeBool (c : Chip) : Chip × Bool := ({ c with fresh := c.fresh + 1 }, Config.freeBool c.fresh)

/-- Something leaves the device. -/
def Chip.emit (c : Chip) (o : Output) : Chip := { c with out := c.out ++ [o] }

/-- A record joins the ledger of the current pound (R442). -/
def Chip.ledger (c : Chip) (r : LedgerRec) : Chip := { c with aqu := { c.aqu with recs := c.aqu.recs ++ [r] } }

/-! ## Lading FIFOs (R238 to R243) -/

/-- The key of a FIFO in the state's table. -/
def LadId.key : LadId → Nat
  | .tow i => i.val
  | .slu i => 16 + i.val
  | .adc x => 20 + x.val
  | .gau => 22
  | .evt i => 23 + i.val
  | .rxf m => 27 + m.val

/-- Capacity in 64-bit words (R238, R311, R325, R339, R473, R478). -/
def LadId.cap : LadId → Nat
  | .slu _ => 4096
  | .adc _ => 256
  | _ => 1024

/-- Offset of the FIFO's _LAD_CTL register. -/
def LadId.ctl : LadId → Nat
  | .tow i => TOW_LAD_CTL i.val
  | .slu i => SLU_LAD_CTL i.val
  | .adc x => ADC_LAD_CTL x.val
  | .gau => GAU_LAD_CTL
  | .evt i => HST_EVT_LAD_CTL i.val
  | .rxf m => HST_RXF_LAD_CTL m.val

/-- Offset of the FIFO's _LAD_STAT register. -/
def LadId.stat : LadId → Nat
  | .tow i => TOW_LAD_STAT i.val
  | .slu i => SLU_LAD_STAT i.val
  | .adc x => ADC_LAD_STAT x.val
  | .gau => GAU_LAD_STAT
  | .evt i => HST_EVT_LAD_STAT i.val
  | .rxf m => HST_RXF_LAD_STAT m.val

/-- Offset of the FIFO's _LAD_DROP register. -/
def LadId.drop : LadId → Nat
  | .tow i => TOW_LAD_DROP i.val
  | .slu i => SLU_LAD_DROP i.val
  | .adc x => ADC_LAD_DROP x.val
  | .gau => GAU_LAD_DROP
  | .evt i => HST_EVT_LAD_DROP i.val
  | .rxf m => HST_RXF_LAD_DROP m.val

/-- All FIFOs of the device. -/
def LadId.all : List LadId :=
  (List.finRange 16).map LadId.tow ++ (List.finRange 4).map LadId.slu ++ (List.finRange 2).map LadId.adc
    ++ [LadId.gau] ++ (List.finRange 4).map LadId.evt ++ (List.finRange 2).map LadId.rxf

/-- A FIFO with nothing in it. -/
def Lading.empty : Lading := ⟨[], [], false, none, false⟩

/-- The FIFO's contents. -/
def Chip.lad (c : Chip) (l : LadId) : Lading := tabGet (fun _ => Lading.empty) c.hst.lad l.key

/-- The chip with a FIFO's contents replaced. -/
def Chip.setLad (c : Chip) (l : LadId) (x : Lading) : Chip :=
  { c with hst := { c.hst with lad := tabPut (fun _ => Lading.empty) l.key x c.hst.lad } }

/-- Bytes cut into full 64-bit words, least significant byte first, and the bytes left over (R239). -/
def cutWords : Nat → List Byte → List LadWord × List Byte
  | 0, bs => ([], bs)
  | n + 1, bs =>
    if bs.length < 8 then ([], bs)
    else
      let r := cutWords n (bs.drop 8)
      (⟨BitVec.ofNat 64 (leNat (bs.take 8)), false, false, 8⟩ :: r.1, r.2)

/-- The last words of a packet: the bytes still to be written, the last word end-marked with its valid bytes (R239). -/
def endWords (bs : List Byte) (trunc : Bool) : List LadWord :=
  let r := cutWords bs.length bs
  if r.2.length = 0 then
    match r.1.reverse with
    | [] => [⟨0, true, trunc, 0⟩]
    | w :: t => (t.reverse) ++ [{ w with last := true, trunc := trunc }]
  else r.1 ++ [⟨BitVec.ofNat 64 (leNat r.2), true, trunc, r.2.length⟩]

/-- A dropped packet sets DROP and increments DROP_CNT (R240). -/
def Chip.ladDropped (c : Chip) (l : LadId) : Chip :=
  let c := (c.raise ⟨l.stat, 29, 29⟩).count ⟨l.drop, 31, 0⟩ 1
  match l with
  | .evt _ => c.raise HST_INT_STATUS__EVT_DROP
  | .rxf m => c.count (HST_ETH_CNT1__RXF_DROP m.val) 1
  | _ => c

/-- An end mark has been written: a pending flush discards up to it (R241). -/
def Lading.afterEnd (x : Lading) : Lading :=
  match x.flushAt with
  | some _ => { x with words := [], flushAt := none }
  | none => x

/-- A producer writes a whole packet's words, or drops it when the free space does not hold it (R239, R240). -/
def Chip.ladWhole (c : Chip) (l : LadId) (ws : List LadWord) : Chip :=
  let x := c.lad l
  if x.skip then c.setLad l { x with skip := false }
  else if l.cap < x.words.length + ws.length then c.ladDropped l
  else c.setLad l (Lading.afterEnd { x with words := x.words ++ ws })

/-- A producer writes a whole packet by its bytes. -/
def Chip.ladPacket (c : Chip) (l : LadId) (bs : List Byte) : Chip := c.ladWhole l (endWords bs false)

/-- A producer that writes units as they come: bytes join the open packet; a full word becomes readable, and the last units
carry the end mark. A packet that outgrows the free space, which keeps a word for its end, is abandoned: the units that still
fit are written, the last of their words tagged END and TRUNC with its valid bytes, and its further units are discarded; one
that finds no free space at all is dropped (R239, R240, R241). -/
def Chip.ladUnits (c : Chip) (l : LadId) (bs : List Byte) (last : Bool) : Chip :=
  let x := c.lad l
  if x.skip then c.setLad l { x with skip := !last, writing := !last && x.writing }
  else
    let bs := x.tail ++ bs
    let r := cutWords bs.length bs
    let ws := if last then endWords bs false else r.1
    let room := l.cap - x.words.length
    if l.cap < x.words.length + ws.length + b2n (!last) then
      let c := if room = 0 then c.ladDropped l else c
      c.setLad l (Lading.afterEnd { x with
        words := x.words ++ (if room = 0 then [] else endWords (bs.take (8 * room)) true), tail := [], writing := false
        skip := !last })
    else if last then c.setLad l (Lading.afterEnd { x with words := x.words ++ ws, tail := [], writing := false })
    else c.setLad l { x with words := x.words ++ ws, tail := r.2, writing := true }

/-- A write of FLUSH: at once when no packet is being written, else pending; a second one has no effect (R241). -/
def Chip.ladFlush (c : Chip) (l : LadId) : Chip :=
  let x := c.lad l
  if x.writing = false then c.setLad l { x with words := [], flushAt := none }
  else
    match x.flushAt with
    | some _ => c
    | none => c.setLad l { x with flushAt := some c.now }

/-- The flush timeout of a FIFO in ticks; 0 µs means 1 (R241). -/
def Chip.flushTmo (c : Chip) (l : LadId) : Nat := max (bits (c.reg l.ctl) 15 0) 1 * 800

/-- FLUSH_TMO has passed on a pending flush: an END word tagged TRUNC is written, everything through it is discarded,
FLUSH_TRUNC is set, and the producer's words up to its next end mark are discarded (R241). -/
def Chip.ladFlushTimeout (c : Chip) (l : LadId) : Chip :=
  let x := c.lad l
  match x.flushAt with
  | none => c
  | some t0 =>
    if c.now < t0 + c.flushTmo l then c
    else (c.setLad l ⟨[], [], false, none, true⟩).raise ⟨l.stat, 30, 30⟩

/-- Whole packets waiting: end marks written whose word has not been read (R240). -/
def Lading.pkts (x : Lading) : Nat := (x.words.filter (·.last)).length

/-- The tag word of a read word (R239, R242). -/
def LadWord.tagWord (w : LadWord) : Word :=
  w32 (b2n w.last * 2 ^ 30 + b2n w.trunc * 2 ^ 29 + w.vbytes % 16)

/-- The tag of the idle item: IDLE set, VBYTES 0 (R242). -/
def idleTag : Word := w32 (2 ^ 31)

/-! ## Interface snapshots (R9, R243, R460) -/

/-- No snapshot taken: the upper half reads 0, the tag reads the idle tag. -/
def Snap.none : Snap := ⟨0, idleTag, [], [], Option.none⟩

/-- The snapshots of an interface. -/
def Chip.snap (c : Chip) (i : Iface) : Snap := tabGet (fun _ => Snap.none) c.hst.snaps i.idx

/-- The chip with an interface's snapshots replaced. -/
def Chip.setSnap (c : Chip) (i : Iface) (x : Snap) : Chip :=
  { c with hst := { c.hst with snaps := tabPut (fun _ => Snap.none) i.idx x c.hst.snaps } }

/-- A LO read of a 64-bit value: the interface's snapshot takes the whole value and the read returns the lower half
(R9). -/
def Chip.snapLo (c : Chip) (i : Iface) (v : Nat) : Chip × Word :=
  (c.setSnap i { c.snap i with hi := w32 (v / 2 ^ 32) }, w32 v)

/-- A read of DATA_LO: the head word and its tag go to the interface's snapshot; an empty FIFO or a pending flush gives
the idle item and removes nothing (R242, R243). -/
def Chip.ladRead (c : Chip) (i : Iface) (l : LadId) : Chip × Word :=
  let x := c.lad l
  match x.flushAt, x.words with
  | none, w :: t =>
    let c := c.setLad l { x with words := t }
    (c.setSnap i { c.snap i with hi := w32 (w.data.toNat / 2 ^ 32), tag := w.tagWord }, w32 w.data.toNat)
  | _, _ => (c.setSnap i { c.snap i with hi := 0, tag := idleTag }, 0)

/-! ## Pound and state, as every block reads them -/

/-- The pound number (R14). -/
def Chip.poundNum (c : Chip) : Nat := c.reg SYS_POUND_NUM

/-- The operating state of SYS_STATE: 0 DRY, 1 MOORED, 2 UNDERWAY, 3 HALTED, 4 LOCKED_OUT (R30). -/
def Chip.opState (c : Chip) : Nat := c.fld SYS_STATE__STATE

/-- The device is in DRY or MOORED. -/
def Chip.dryOrMoored (c : Chip) : Bool := decide (c.opState ≤ 1)

/-! ## Host events (R473, R474) -/

/-- The FIFO a source is routed to. -/
def Chip.evtFifo (c : Chip) (src : Nat) : Fin 4 :=
  ⟨bits (c.reg HST_EVT_ROUTE) (2 * (src - 1) + 1) (2 * (src - 1)) % 4, Nat.mod_lt _ (by decide)⟩

/-- A host event packet: two prefix words, then the payload, zero-padded to whole words and end-marked (R473). -/
def eventBytes (src eseq pound phase : Nat) (payload : List Word) : List Byte :=
  let w0lo := w32 pound
  let w0hi := w32 (src % 256 * 2 ^ 24 + (4 * payload.length) % 256 * 2 ^ 16 + eseq % 2 ^ 16)
  let pad := if payload.length % 2 = 1 then payload ++ [0] else payload
  wordsBytes ([w0lo, w0hi, w32 (phase % 2 ^ 18), 0] ++ pad)

/-- The packets of readable words: each up to its end mark. -/
def ladPackets : List LadWord → List (List LadWord)
  | [] => []
  | w :: t =>
    if w.last then [w] :: ladPackets t
    else match ladPackets t with
      | [] => [[w]]
      | p :: l => (w :: p) :: l

/-- A packet is an event of the same tick whose source stands behind `src` (R473). -/
def eventLater (src pound phase : Nat) (p : List LadWord) : Bool := match p with
  | a :: b :: _ => decide (src < bits a.data.toNat 63 56 ∧ bits a.data.toNat 31 0 = pound ∧ b.data.toNat = phase)
  | _ => false

/-- A packet with another ESEQ. -/
def withEseq (e : Nat) : List LadWord → List LadWord
  | [] => []
  | a :: t => { a with data := BitVec.ofNat 64 (putBits a.data.toNat 47 32 e) } :: t

/-! ## Logbook events and triggers (R513 to R519) -/

/-- BAR2 offset of the event ring. -/
def logRing : Nat := 0x0800000
/-- BAR2 offset of the pound snapshots. -/
def logSlots : Nat := 0x0A00000

/-- The severity of an event code (R514). -/
def logSev (code : Nat) : Nat :=
  if code ∈ [3, 5, 14, 16, 17, 18, 19] then 2 else if code ∈ [6, 8, 9, 11, 12, 13, 20] then 1 else 0

/-- An entry of the event ring behind its SEQ (R513). -/
def Chip.logEntry (c : Chip) (phase code : Nat) (a0 a1 a2 : Word) : List Word :=
  let tb := tb0Of c.now
  [w32 c.poundNum, w32 (code % 256 * 2 ^ 24 + logSev code * 2 ^ 20 + phase % 2 ^ 18), w32 tb, w32 (tb / 2 ^ 32), a0, a1, a2]

/-- CODE and first argument of an entry, as one key (R515). -/
def entryKey (e : List Word) : Nat := wordAt e 1 / 2 ^ 24 * 2 ^ 32 + wordAt e 4

/-- An entry among those of its tick: ascending in CODE and first argument, after its equals (R515). -/
def insertEntry (e : List Word) : List (List Word) → List (List Word)
  | [] => [e]
  | x :: t => if entryKey e < entryKey x then e :: x :: t else x :: insertEntry e t

/-- Writes entries to the event ring over the last `back` of it (R513). -/
def Chip.logWrite (c : Chip) (back : Nat) (es : List (List Word)) : Chip :=
  let seq := c.reg LOG_WR_SEQ + 2 ^ 32 - back
  let idx := c.fld LOG_WR_IDX__IDX + 2 ^ 16 - back
  let mem := es.zipIdx.foldl (fun m x => memWriteWords 0 (logRing + 32 * ((idx + x.2) % 2 ^ 16)) (w32 (seq + x.2) :: x.1) m) c.log.mem
  let c := { c with log := { c.log with mem := mem } }
  (c.setReg LOG_WR_SEQ ((seq + es.length) % 2 ^ 32)).setFld LOG_WR_IDX__IDX ((idx + es.length) % 2 ^ 16)

/-- The entries that entered the input queue in this tick; the queue is empty at the start of a tick (log entry 12). -/
def Chip.logQueue (c : Chip) : List (List Word) := if c.log.qTick = c.now then c.log.q else []

/-- An event enters the Logbook: written in RUN and POST, counted in FROZEN_DROP in FROZEN and RESTORED, nothing in
OFF. The events of a tick stand in ascending CODE and first argument; the last of more than 64 is lost, and a LOST entry
is written ahead of the next event once fewer than 32 wait (R515, R517, R519). `phase` is the tick within the pound. -/
def Chip.logEventAt (c : Chip) (phase code : Nat) (a0 a1 a2 : Word) : Chip :=
  let st := c.fld LOG_STATUS__LSTATE
  if st = 2 ∨ st = 3 then c.count LOG_CNT__FROZEN_DROP 1
  else if st = 0 ∨ st = 1 then
    let old := c.logQueue
    let q := insertEntry (c.logEntry phase code a0 a1 a2) old
    if 64 ≤ old.length then
      let c := ((c.count LOG_CNT__LOST_CNT 1).raise LOG_INT_STATUS__LOST).logWrite 64 (q.take 64)
      { c with log := { c.log with qTick := c.now, q := q.take 64, lostPend := c.log.lostPend + 1 } }
    else
      let n := c.log.lostPend
      let c := if 0 < n ∧ old = [] then
          let c := c.logWrite 0 [c.logEntry phase 20 (w32 n) (w32 (c.reg LOG_WR_SEQ + 1)) 0]
          { c with log := { c.log with lostPend := 0 } }
        else c
      let c := { c with log := { c.log with qTick := c.now, q := q } }
      c.logWrite old.length q
  else c

/-- The freeze of R519: FRZ_CAUSE, LOG_FRZ_SEQ and FROZEN; an AUTO_SAVE or a manual save starts elsewhere. -/
def Chip.logFreeze (c : Chip) (cause : Option Nat) : Chip :=
  let c := match cause with
    | some k => c.setFld LOG_STATUS__FRZ_CAUSE k
    | none => c
  let c := (c.setReg LOG_FRZ_SEQ (c.reg LOG_WR_SEQ + 2 ^ 32 - 1)).setFld LOG_STATUS__LSTATE 2
  let c := { c with log := { c.log with freezeAt := none, q := [], tbAtFreeze := BitVec.ofNat 64 (tb0Of c.now) } }
  (c.setFld LOG_STATUS__SAVED 0).raise LOG_INT_STATUS__FROZEN

/-- A trigger of R518: enabled and in RUN it moves the Logbook to POST and records its bit, its pound and a FREEZE
event. -/
def Chip.logTriggerAt (c : Chip) (phase bit : Nat) : Chip :=
  if (c.fld LOG_TRIG__MASK).testBit bit ∧ c.fld LOG_STATUS__LSTATE = 0 then
    let c := ((c.setFld LOG_STATUS__LSTATE 1).setFld LOG_STATUS__FRZ_CAUSE bit).setReg LOG_FRZ_POUND c.poundNum
    let c := { c with log := { c.log with freezeAt := some (c.poundNum + c.fld LOG_CFG__POST_P) } }
    c.logEventAt phase 21 (w32 bit) (w32 c.poundNum) (w32 (c.fld LOG_CFG__POST_P))
  else c

/-! ## Interrupt messages (R475) -/

/-- The block interrupts of sources 6 to 17, as status and enable registers. -/
def blockInts : List (Nat × Nat) :=
  [(LCK_INT_STATUS, LCK_INT_EN), (BSN_INT_STATUS, BSN_INT_EN), (POS_INT_STATUS, POS_INT_EN),
   (TOW_INT_STATUS, TOW_INT_EN), (TIM_INT_STATUS, TIM_INT_EN), (SLU_INT_STATUS, SLU_INT_EN),
   (ADC_INT_STATUS, ADC_INT_EN), (GAU_INT_STATUS, GAU_INT_EN), (WEI_INT_STATUS, WEI_INT_EN),
   (LKP_INT_STATUS, LKP_INT_EN), (AQU_INT_STATUS, AQU_INT_EN), (LOG_INT_STATUS, LOG_INT_EN)]

/-- A block interrupt is asserted: a status bit set whose enable bit is set. -/
def Chip.blockInt (c : Chip) (p : Nat × Nat) : Bool := (c.reg p.1 &&& c.reg p.2) != 0

/-- Interrupt source `s` of R475 is asserted. -/
def Chip.source (c : Chip) (s : Nat) : Bool :=
  if s = 0 then c.hst.cqIrq != []
  else if s ≤ 4 then
    0 < (tabGet (fun _ => Lading.empty) c.hst.lad (23 + (s - 1))).pkts
  else if s = 5 then
    (bits (c.reg HST_INT_STATUS) 4 1 &&& bits (c.reg HST_INT_EN) 4 1) != 0
  else c.blockInt (blockInts.getD (s - 6) (0, 0))

/-- Bit v: the condition of vector v, the OR of its enabled sources (R475). -/
def Chip.vecCond (c : Chip) : Nat :=
  (List.range 18).foldl (fun m s =>
    let w := c.reg (HST_VEC s)
    if w.testBit 31 && c.source s then m ||| 2 ^ (w % 32) else m) 0

/-- The word of the MSI-X table at a BAR0 offset; a vector is masked until its control word is written (PRESUMED, from
the MSI-X rules the spec names). -/
def msixReset (off : Nat) : Word := if (off - 0x0200) % 16 = 12 then 1 else 0

/-- Vector v is masked. -/
def Chip.msixMasked (c : Chip) (v : Nat) : Bool :=
  (tabGet msixReset c.hst.msix (0x0200 + 16 * v + 12)).toNat.testBit 0

/-- Vector v's message is sent, or held in the PBA while it is masked (R475). -/
def Chip.sendMsix (c : Chip) (v : Nat) : Chip :=
  if c.msixMasked v then { c with hst := { c.hst with pba := c.hst.pba ||| 2 ^ v } }
  else { c with hst := { c.hst with pba := c.hst.pba &&& ((2 ^ 32 - 1) ^^^ 2 ^ v) }, out := c.out ++ [.msix v] }

/-- The end of every command: a vector whose condition changed from 0 to 1 sends its message, and a held message whose
vector is no longer masked is sent (R475). -/
def Chip.settle (c : Chip) : Chip :=
  let new := c.vecCond
  if new = c.hst.vecOn ∧ c.hst.pba = 0 then c
  else
    let old := c.hst.vecOn
    let c := { c with hst := { c.hst with vecOn := new } }
    c.each (List.range 32) (fun c v =>
      if (new.testBit v && !old.testBit v) || (c.hst.pba.testBit v && !c.msixMasked v) then c.sendMsix v else c)

/-- A meaning: what the command does to the device, then the interrupt messages it leads to; the queue stays. -/
def State.act (s : State) (f : Chip → Chip) : Host.Outcome State Fault Refusal :=
  .next { s with chip := (f s.chip).settle }

/-- An event of the running device at tick `t`. While firmware does not run only time passes (R502, R509). -/
def State.event (s : State) (t : Nat) (f : Chip → Chip) : Host.Outcome State Fault Refusal :=
  s.act (fun c => let c := c.at t; if c.boot.phase = .run then f c else c)

/-- The device answers register accesses of an interface: on PCIe not in D3hot (R462). -/
def Chip.serves (c : Chip) (i : Iface) : Bool := !(i == .pcie && c.hst.d3)

/-- A register access by an interface at tick `t`; one that is not answered has no effect (R460, R462). -/
def State.access (s : State) (t : Nat) (i : Iface) (f : Chip → Chip) : Host.Outcome State Fault Refusal :=
  s.event t (fun c => c.onlyIf (c.serves i) f)

/-- The word a register read returns to an interface. -/
def Chip.answer (r : Chip × Word) (i : Iface) : Chip := r.1.emit (.read i r.2)

end Sys2Proof.Machine
end

