-- ==== Sys2Proof/Machine/Time.lean ====
section
/-! DEFINITION. The pound's phase, the time bases TB0 to TB7 as functions of the tick, events stamped with pound and
phase, the selection of TB3 and the lock state of the pound generator. -/

namespace Sys2Proof.Machine

/-! ## Phase, host events and Logbook events of now -/

/-- The tick within the pound (R13). -/
def Chip.phase (c : Chip) : Nat := c.now - c.pnd.start

/-- P, the ticks of a pound of nominal length (R13). -/
def poundTicks (sel : Nat) : Nat := 12500 * 2 ^ min sel 4

/-- The pounds of a power period (R13, R15). -/
def poundsPerPeriod (sel : Nat) : Nat := 64 / 2 ^ min sel 4

/-- P of the current POUND_SEL in effect. -/
def Chip.P (c : Chip) : Nat := poundTicks c.pnd.sel

/-- An event of source `src` with ESEQ `e` is written behind the `late` packets at the end of its FIFO, which are events of the
same tick and of later sources: they are written again after it, each with the next ESEQ (R473). -/
def Chip.eventBefore (c : Chip) (i : Fin 4) (src : Nat) (payload : List Word) (early late : List (List LadWord)) : Chip :=
  let e := bits ((late.head?.bind List.head?).map (fun w => w.data.toNat) |>.getD 0) 47 32
  let c := c.setLad (.evt i) { c.lad (.evt i) with words := early.flatten }
  let c := c.ladPacket (.evt i) (eventBytes src e c.poundNum c.phase payload)
  c.each late (fun c p =>
    c.ladWhole (.evt i) (withEseq ((bits ((p.head?.map (fun w => w.data.toNat)).getD 0) 47 32 + 1) % 2 ^ 16) p))

/-- Offers an event of source `src` to its host event FIFO if the source is enabled; ESEQ counts it even when it is
dropped, and the events of one tick stand in ascending order of their sources (R473, R474). -/
def Chip.hostEvent (c : Chip) (src : Nat) (payload : List Word) : Chip :=
  if (c.reg HST_EVT_EN).testBit src then
    let i := c.evtFifo src
    let e := tabGet (fun _ => 0) c.hst.eseq i.val
    let ps := ladPackets (c.lad (.evt i)).words
    let n := (ps.reverse.takeWhile (eventLater src c.poundNum c.phase)).length
    let c := { c with hst := { c.hst with eseq := tabPut (fun _ => 0) i.val ((e + 1) % 2 ^ 16) c.hst.eseq } }
    if n = 0 then c.ladPacket (.evt i) (eventBytes src e c.poundNum c.phase payload)
    else c.eventBefore i src payload (ps.take (ps.length - n)) (ps.drop (ps.length - n))
  else c

/-- The host event FIFO of a source has no room for an event of `n` payload words (R29). -/
def Chip.hostEventFull (c : Chip) (src n : Nat) : Bool :=
  (c.reg HST_EVT_EN).testBit src &&
    decide (1024 < (c.lad (.evt (c.evtFifo src))).words.length + 2 + (n + 1) / 2)

/-- A system event (R474): CODE, ARG, ARG_A, ARG_B. -/
def Chip.sysEvent (c : Chip) (code arg : Nat) (a b : Word) : Chip :=
  c.hostEvent 1 [w32 (code % 2 ^ 16 + arg % 2 ^ 16 * 2 ^ 16), a, b]

/-- A Logbook event of now (R513). -/
def Chip.logEvent (c : Chip) (code : Nat) (a0 a1 a2 : Word) : Chip := c.logEventAt c.phase code a0 a1 a2

/-- A Logbook trigger of now (R518). -/
def Chip.logTrigger (c : Chip) (bit : Nat) : Chip := c.logTriggerAt c.phase bit

/-! ## The bases -/

/-- A servo and base as they start at cold reset. -/
def Domain.init : Domain := ⟨0, 0, 0, 0, false, 0, 0, 0, 0, [], 0, 0, 0, 0, 0, none, none⟩

/-- Domain d (0 A, 1 B). -/
def Chip.dom (c : Chip) (d : Nat) : Domain := tabGet (fun _ => Domain.init) c.tim.dom d

/-- The chip with a domain replaced. -/
def Chip.setDom (c : Chip) (d : Nat) (x : Domain) : Chip :=
  { c with tim := { c.tim with dom := tabPut (fun _ => Domain.init) d x c.tim.dom } }

/-- The base's value at a tick, in units of 2⁻¹⁶ ns; 1.25 ns is 81,920 of them (R273, R281). -/
def Domain.at (x : Domain) (tick : Nat) : Int :=
  x.v0 + ((((tick - x.t0) * 81920 : Nat) : Rat) * (1 + x.f / 1000000000)).floor

/-- The domain with its base holding `v` now and running at `f` from here on. -/
def Domain.set (x : Domain) (tick : Nat) (v : Int) (f : Rat) : Domain := { x with v0 := v, t0 := tick, f := f }

/-- The state of a domain (R282): 0 DISABLED, 1 LISTENING, 2 ACQUIRING, 3 LOCKED, 4 HOLDOVER. -/
def Chip.domState (c : Chip) (d : Nat) : Nat := c.fld (TIM_DOM_STAT__STATE d)

/-- A domain is usable: LOCKED, or in HOLDOVER for less than HOLD_LIM seconds (R282). -/
def Chip.usable (c : Chip) (d : Nat) : Bool :=
  c.domState d == 3 ||
    (c.domState d == 4 && !c.flag (TIM_DOM_STAT__HOLD_EXP d)
      && decide (c.now - (c.dom d).holdStart < c.fld (TIM_DOM_CFG2__HOLD_LIM d) * 800000000))

/-- The current domain of TB3 (R283). -/
def Chip.cur (c : Chip) : Nat := c.fld TIM_SEL_STAT__CUR

/-- The base TB3 follows: the current domain's, or while TB3 is not valid the rate and value it had (R283). -/
def Chip.tb3Src (c : Chip) : Domain := c.tim.hold.getD (c.dom c.cur)

/-- TB3 in units of 2⁻¹⁶ ns (R283). -/
def Chip.tb3 (c : Chip) : Int := c.tb3Src.at c.now + c.tim.corr

/-- TB3 at a tick to come, CORR slewed at every µs of TB0 until then (R283, R286). -/
def Chip.tb3At (c : Chip) (tick : Nat) : Int :=
  let v := c.tim.corr
  let k : Int := ((tick / 800 - c.now / 800) * c.fld TIM_SEL_CFG__SLEW : Nat)
  c.tb3Src.at tick + (if 0 < v then max 0 (v - k) else min 0 (v + k))

/-- Whole nanoseconds of a value in units of 2⁻¹⁶ ns. -/
def nsOf (v : Int) : Int := asr v 16

/-- The words W0 to W2 of a plant-format base: ns, seconds, status bits (R273, R277). -/
def plantWords (v : Int) (status : Nat) : List Word :=
  let ns := (nsOf v % 1000000000).toNat
  let sec := (nsOf v / 1000000000).toNat % 2 ^ 48
  [w32 ns, w32 sec, w32 (sec / 2 ^ 32 + status * 2 ^ 29)]

/-- The limit of the accumulator: LEAD counts ahead of H, less one unit of 2⁻¹⁶ count (R96). -/
def Chip.accLimit (c : Chip) : Nat := (c.pf.chain.h + max (c.fld POS_CHN_CFG__LEAD) 1) * 2 ^ 32 - 2 ^ 16

/-- The accumulator acc of the running chainage now: from tick `accT` it advances by INC each tick up to its limit, and
never decreases (R96). -/
def Chip.accNow (c : Chip) : Nat :=
  let x := c.pf.chain
  max x.acc (min (x.acc + c.reg POS_CHN_SPEED * (c.now - x.accT)) c.accLimit)

/-- STILL_TMO boundaries have passed without an anchor and standstill has not been taken; a device that does not act takes
its standstill from the ledger (R97, R445). -/
def Chip.stillDue (c : Chip) : Bool :=
  c.drives && c.flag POS_CHN_CFG__EN && !c.flag POS_CHN_STATUS__STANDSTILL
    && decide (max (c.fld POS_CHN_CFG__STILL_TMO) 1 ≤ c.pf.chain.quiet)

/-- INC as a boundary's work sees it: 0 from the boundary that completes STILL_TMO on (R97). -/
def Chip.beltInc (c : Chip) : Nat := if c.stillDue then 0 else c.reg POS_CHN_SPEED

/-- TB5: the running chainage, the upper 64 bits of the accumulator (R96, R275). -/
def Chip.tb5 (c : Chip) : Nat := c.accNow / 2 ^ 16 % 2 ^ 64

/-- The phase and number TB4 holds, as its 64-bit word (R274). -/
def Chip.tb4Words (c : Chip) : List Word :=
  [w32 c.poundNum, w32 (c.fld SYS_POUND_STATUS__LOCK_STATE * 2 ^ 30 + c.phase % 2 ^ 20)]

/-- A user base as it starts. -/
def UserBase.init : UserBase := ⟨0, 0, 0, 0⟩

/-- User base u, 0 for TB6 and 1 for TB7. -/
def Chip.user (c : Chip) (u : Nat) : UserBase := tabGet (fun _ => UserBase.init) c.tim.user u

/-- The chip with a user base replaced. -/
def Chip.setUser (c : Chip) (u : Nat) (x : UserBase) : Chip :=
  { c with tim := { c.tim with user := tabPut (fun _ => UserBase.init) u x c.tim.user } }

/-- The hidden value of a FREE user base, in units of 2⁻¹⁶ ns (R276). -/
def Chip.userFree (c : Chip) (u : Nat) : Int :=
  let x := c.user u
  x.v0 + ((((c.now - x.t0) * 81920 : Nat) : Rat)
    * (1 + (c.fldI (TIM_USER_CFG__RATE u) : Rat) / 1000000000)).floor

/-- The 64-bit offset a write of a user base's HI word applies. -/
def Chip.userOfs (c : Chip) (u : Nat) : Nat := c.reg (TIM_USER_OFS_LO u) + c.reg (TIM_USER_OFS_HI u) * 2 ^ 32

/-- conv(SRC) of R276 for a source base other than a user base. -/
def Chip.conv (c : Chip) (u src : Nat) : Int :=
  match src with
  | 0 => (tb0Of c.now : Nat)
  | 1 => nsOf ((c.dom 0).at c.now)
  | 2 => nsOf ((c.dom 1).at c.now)
  | 3 => nsOf c.tb3
  | 4 => ((c.user u).cnt0 + (c.now - (c.user u).t0) : Nat)
  | _ => (c.tb5 : Nat)

/-- The value of user base u, 64 bits; `fuel` bounds the chain through the other user base. -/
def Chip.userVal (c : Chip) : Nat → Nat → Nat
  | 0, _ => 0
  | fuel + 1, u =>
    if c.flag (TIM_USER_CFG__SLAVE u) then
      let src := c.fld (TIM_USER_CFG__SRC u)
      let v : Int := if src = 6 ∨ src = 7 then (c.userVal fuel (src - 6) : Nat) else c.conv u src
      ((v + ((c.user u).ofs : Nat)) % (2 ^ 64 : Nat)).toNat
    else (nsOf (c.userFree u) % (2 ^ 64 : Nat)).toNat

/-- The read words of base k, lowest first (R277, the TIM_ base read registers). -/
def Chip.baseWords (c : Chip) (k : Nat) : List Word :=
  match k with
  | 0 => [w32 (tb0Of c.now), w32 (tb0Of c.now / 2 ^ 32)]
  | 1 => plantWords ((c.dom 0).at c.now) (b2n (c.usable 0) * 4)
  | 2 => plantWords ((c.dom 1).at c.now) (b2n (c.usable 1) * 4)
  | 3 => plantWords c.tb3 (c.fld TIM_SEL_STAT__TB3_VALID * 4 + c.cur * 2 + b2n (c.tim.corr != 0))
  | 4 => c.tb4Words
  | 5 => [w32 c.tb5, w32 (c.tb5 / 2 ^ 32)]
  | _ => let v := c.userVal 2 (k - 6); [w32 v, w32 (v / 2 ^ 32)]

/-- All eight bases in one tick, 19 words (R278). -/
def Chip.allBases (c : Chip) : List Word := (List.range 8).flatMap c.baseWords

/-! ## The pound generator's lock (R17 to R21) -/

/-- The pound's length in ns, for the option in effect. -/
def Chip.poundNs (c : Chip) : Nat := c.P * 5 / 4

/-- The length of the current pound with the corrections fixed for it and not yet made (R19, R223). -/
def Chip.poundLen (c : Chip) : Nat :=
  if c.pnd.corrLate then c.pnd.len - c.pnd.corr.length else c.pnd.len + c.pnd.corr.length

/-- The phase error of a boundary at tick t: that instant read in TB3 minus the nearest target boundary, in units of 2⁻¹⁶ ns
(R17, R20). -/
def Chip.phaseErrorAt (c : Chip) (t : Nat) : Int :=
  let len : Int := (c.poundNs * 65536 : Nat)
  let r := (c.tb3At t - (c.fld SYS_POUND_OFFSET__OFFSET * 65536 : Nat)) % len
  if 2 * r < len then r else r - len

/-- The phase error of a boundary at this tick. -/
def Chip.phaseError (c : Chip) : Int := c.phaseErrorAt c.now

/-- The tick near `t` at which TB3 less OFFSET comes to `v`: TB3 runs within 300 ppm of the clock, so that each of `n`
refinements leaves less than a thousandth of the ticks it corrects. -/
def Chip.tb3Tick (c : Chip) (v : Int) : Nat → Nat → Nat
  | 0, t => t
  | n + 1, t =>
    let rel := c.tb3At t - (c.fld SYS_POUND_OFFSET__OFFSET * 65536 : Nat)
    Chip.tb3Tick c v n ((t : Int) + rdivEven (v - rel) 81920).toNat

/-- The step correction of R18: the current pound is lengthened so that its end falls on a target boundary within one
tick, and the pound number of that boundary is set from TB3. -/
def Chip.stepCorrection (c : Chip) : Chip :=
  let len : Int := (c.poundNs * 65536 : Nat)
  let from_ := max c.now (c.pnd.start + c.P)
  let target := (c.tb3At from_ - (c.fld SYS_POUND_OFFSET__OFFSET * 65536 : Nat) + len - 1) / len
  { c with pnd := { c.pnd with len := c.tb3Tick (target * len) 3 from_ - c.pnd.start, corr := []
                               renum := some (target % (2 ^ 32 : Nat)).toNat } }

/-- The lock state's changes that do not wait for a boundary (R20): FREE with LOCK_EN clear, PULLING when TB3 is
valid, HOLDOVER when it is not; a follower takes its lock state from the primary (R440). Entering PULLING from FREE or HOLDOVER in DRY or MOORED makes the step of R18. -/
def Chip.lockUpdate (c : Chip) : Chip :=
  let st := c.fld SYS_POUND_STATUS__LOCK_STATE
  let valid := c.flag TIM_SEL_STAT__TB3_VALID
  if 2 ≤ c.role then c
  else if c.flag SYS_POUND_CFG__LOCK_EN = false then
    { c.setFld SYS_POUND_STATUS__LOCK_STATE 0 with pnd := { c.pnd with good := 0 } }
  else if valid = true ∧ (st = 0 ∨ st = 3) then
    let c := c.setFld SYS_POUND_STATUS__LOCK_STATE 1
    let c := { c with pnd := { c.pnd with good := 0 } }
    if c.dryOrMoored then c.stepCorrection else c
  else if valid = false ∧ (st = 1 ∨ st = 2) then
    { c.setFld SYS_POUND_STATUS__LOCK_STATE 3 with pnd := { c.pnd with good := 0 } }
  else c

/-! ## TB3 selection (R283 to R285) -/

/-- The current domain the device chooses now (R283, R284). -/
def Chip.chooseCur (c : Chip) : Nat :=
  let pref := c.fld TIM_SEL_CFG__PREF
  match c.fld TIM_SEL_CFG__MODE with
  | 0 => 0
  | 1 => 1
  | _ =>
    let cur := c.cur
    if c.tim.evald = false then
      if c.usable pref then pref else if c.usable (1 - pref) then 1 - pref else cur
    else if c.usable cur = false ∧ c.usable (1 - cur) = true then 1 - cur
    else if c.domState cur = 4 ∧ c.domState (1 - cur) = 3 then 1 - cur
    else
      let rev := c.fld TIM_SEL_CFG__REVERT_S
      if rev ≠ 0 ∧ cur ≠ pref ∧ c.domState pref = 3
          ∧ (c.dom pref).lockedSince + rev * 800000000 ≤ c.now then pref
      else cur

/-- Evaluates TB3 after a change: the choice of R284, the discontinuity of R285, and TB2 − TB1 losing its validity (R287).
`before` is TB3 just before the change; a tick's further changes are judged from TB3 before its first one (R285). `step`
says that the current domain's servo stepped in this tick. POUND_STEP tells the phase error of the last boundary as TB3 reads
it after the step (R20, R474). DESIGN CHOICE: a step that a first change of a tick tells stays told when a later change of the
same tick brings the whole within SEAM_MAX (log entry 139). -/
def Chip.tb3Evaluate (c : Chip) (before : Int) (step : Nat → Bool) : Chip :=
  let old := c.cur
  let cur := c.chooseCur
  let before := if c.tim.seam.1 = c.now then c.tim.seam.2 else before
  let was := c.flag TIM_SEL_STAT__TB3_VALID
  let valid := c.usable cur
  let disc := cur != old || step cur || (valid && !was)
  let hold := if valid then none else if disc then some (c.dom cur) else some (c.tim.hold.getD (c.dom cur))
  let c := { c.setFld TIM_SEL_STAT__CUR cur with tim := { c.tim with evald := true, seam := (c.now, before), hold := hold } }
  let c := (c.setFlag TIM_SEL_STAT__TB3_VALID valid).onlyIf (!(c.usable 0 && c.usable 1))
    (fun c => c.setFlag TIM_SEL_STAT__AB_VALID false)
  let D := before - (c.dom cur).at c.now
  let dns := w32i (nsOf D)
  let c := if cur ≠ old then (c.raise TIM_INT_STATUS__TB3_SWITCH).logEvent 12 1 dns 0 else c
  let c := if was && !valid then (c.raise TIM_INT_STATUS__TB3_INVALID).logEvent 12 3 0 0 else c
  let c :=
    if disc then
      if D.natAbs ≤ c.fld TIM_SEL_SEAM__SEAM_MAX * 1000 * 65536 then
        { c with tim := { c.tim with corr := D } }
      else
        let c := { c with tim := { c.tim with corr := 0 } }
        let c := (c.raise TIM_INT_STATUS__TB3_STEP).logEvent 12 2 dns 0
        let c := c.logTrigger 8
        if c.poundNs * 65536 < 2 * D.natAbs then
          (c.raise SYS_POUND_STATUS__PLANT_STEP).sysEvent 1 0 (w32i (nsOf (c.phaseErrorAt c.pnd.start))) 0
        else c
    else c
  c.lockUpdate

/-- A domain moves to another state: its bit in TIM_INT_STATUS is set (R282). -/
def Chip.setDomState (c : Chip) (d st : Nat) : Chip :=
  if c.domState d = st then c
  else
    let c := c.setFld (TIM_DOM_STAT__STATE d) st
    let x := c.dom d
    let x := { x with
      stepped := if st = 2 then false else x.stepped
      lockRun := 0
      lockedSince := if st = 3 then c.now else x.lockedSince
      holdStart := if st = 4 then c.now else x.holdStart }
    let c := if st ≠ 4 then c.setFld (TIM_DOM_STAT__HOLD_EXP d) 0 else c
    (c.setDom d x).raise (if d = 0 then TIM_INT_STATUS__DOM_A else TIM_INT_STATUS__DOM_B)

end Sys2Proof.Machine
end

