-- ==== Sys2Proof/Machine/Lkp.lean ====
section
/-! DEFINITION. The Lockkeeper: ready lists, charging, gating, the Head and the grants (R413 to R433). The dispatch of
an entry to a worker, which needs the Basin's and the Sluice's own conditions, is in Workers.lean. -/

namespace Sys2Proof.Machine

/-- The worker class of worker k: 0 Basin lanes 0–63, 1 Sluice cores, 2 management pairs (R413). -/
def workerClass (k : Nat) : Nat := if k < 64 then 0 else if k < 68 then 1 else 2

/-- Ready list p of worker class w, oldest first (R415). -/
def Chip.list (c : Chip) (w p : Nat) : List Entry := tabGet (fun _ => []) c.lkp.lists (8 * w + p)

/-- The chip with a ready list replaced. -/
def Chip.setList (c : Chip) (w p : Nat) (l : List Entry) : Chip :=
  { c with lkp := { c.lkp with lists := tabPut (fun _ => []) (8 * w + p) l c.lkp.lists } }

/-- The place of a submitter among the entries of one tick (R416). -/
def Submitter.rank : Submitter → Nat
  | .reseed => 0
  | .sluice core => 1 + core
  | .mark m => 5 + m
  | .firmware => 100
  | .host i => 101 + i.idx

/-- An entry joins a list behind all but those of the same tick whose submitter comes later (R416). -/
def enlist (e : Entry) : List Entry → List Entry
  | [] => [e]
  | x :: t => if x.submitted = e.submitted ∧ e.by_.rank < x.by_.rank then e :: x :: t else x :: enlist e t

/-- Appends an entry to its ready list; a full list of 256 rejects it and counts (R415 to R417). The truth value says
whether it was taken. -/
def Chip.submit (c : Chip) (w : Nat) (e : Entry) : Chip × Bool :=
  let l := c.list w e.prio
  if 256 ≤ l.length then
    ((c.count (LKP_DEPTH__FULL_CNT w e.prio) 1).raise LKP_INT_STATUS__LIST_FULL, false)
  else
    let c := c.setList w e.prio (enlist e l)
    (c.peak (LKP_DEPTH__MAX w e.prio) (l.length + 1), true)

/-- Removes every entry of a work item from the lists of a worker class; each is removed without starting and counted
(R431). -/
def Chip.unlist (c : Chip) (w : Nat) (x : Work) : Chip :=
  c.each (List.range 8) (fun c p =>
    (c.setList w p ((c.list w p).filter (fun e => decide (e.work ≠ x)))).each
      ((c.list w p).filter (fun e => decide (e.work = x))) (fun c e => c.count (LKP_CLS_CNT__DROP_CNT e.cls) 1))

/-- An entry of a work item waits in a list of the worker class. -/
def Chip.listed (c : Chip) (w : Nat) (x : Work) : Bool :=
  (List.range 8).any (fun p => (c.list w p).any (fun e => decide (e.work = x)))

/-- What a worker runs. -/
def Chip.runningOn (c : Chip) (k : Nat) : Option Running :=
  (c.lkp.running.find? (fun e => e.1 == k)).map (·.2)

/-- The tick up to which a running activity is charged at a tick: its end, once that has passed. -/
def Running.upTo (r : Running) (now : Nat) : Nat :=
  match r.ends with
  | some e => min e now
  | none => now

/-- An activity is over at a tick. -/
def Running.over (r : Running) (now : Nat) : Bool :=
  match r.ends with
  | some e => decide (e ≤ now)
  | none => false

/-- A worker is busy. -/
def Chip.busyOn (c : Chip) (k : Nat) : Bool :=
  match c.runningOn k with
  | some r => !r.over c.now
  | none => false

/-- The coefficient ECOEF in force for a worker class (R422, R423). -/
def Chip.ecoef (c : Chip) (w : Nat) : Nat := (tabGet (fun i => regReset (LKP_ECOEF i)) c.lkp.ecoef w).toNat

/-- The time budget in force for a class. -/
def Chip.tbOf (c : Chip) (k : Nat) : Nat := (tabGet (fun i => regReset (LKP_CLS_TB i)) c.lkp.tb k).toNat

/-- The energy budget in force for a class. -/
def Chip.ebOf (c : Chip) (k : Nat) : Nat := (tabGet (fun i => regReset (LKP_CLS_EB i)) c.lkp.eb k).toNat

/-- The ticks the running workers of a class have not yet been charged for. -/
def Chip.openTicks (c : Chip) (cls : Nat) : Nat :=
  c.lkp.running.foldl (fun n e => if e.2.cls = cls then n + (e.2.upTo c.now - e.2.since) else n) 0

/-- The energy in pJ of those ticks. -/
def Chip.openPj (c : Chip) (cls : Nat) : Nat :=
  c.lkp.running.foldl (fun n e =>
    if e.2.cls = cls then n + (e.2.upTo c.now - e.2.since) * c.ecoef (workerClass e.1) else n) 0

/-- TUSED[c]: worker-ticks used in this period (R422). -/
def Chip.tUsed (c : Chip) (cls : Nat) : Nat := tabGet (fun _ => 0) c.lkp.tUsed cls + c.openTicks cls

/-- EUSED[c] in nJ (R422). -/
def Chip.eUsed (c : Chip) (cls : Nat) : Nat := (tabGet (fun _ => 0) c.lkp.eUsedPj cls + c.openPj cls) / 1000

/-- GRANT[c] (R425). -/
def Chip.grantOf (c : Chip) (cls : Nat) : Nat := c.reg (LKP_CLS_GRANT cls)

/-- A class is gated: its time or its energy is spent; FW_CTRL never is (R424). -/
def Chip.gated (c : Chip) (cls : Nat) : Bool :=
  cls != 0 && (decide (c.tbOf cls ≤ c.tUsed cls) || decide (c.grantOf cls ≤ c.eUsed cls))

/-- Charges one running worker up to now (R422). -/
def Chip.charge (c : Chip) (k : Nat) (r : Running) : Chip :=
  let n := r.upTo c.now - r.since
  let l := c.lkp
  { c with lkp := { l with
      tUsed := tabPut (fun _ => 0) r.cls (tabGet (fun _ => 0) l.tUsed r.cls + n) l.tUsed
      eUsedPj := tabPut (fun _ => 0) r.cls (tabGet (fun _ => 0) l.eUsedPj r.cls + n * c.ecoef (workerClass k)) l.eUsedPj
      busy := tabPut (fun _ => 0) k (tabGet (fun _ => 0) l.busy k + n) l.busy } }

/-- A worker ends its activity: it is charged and becomes idle. -/
def Chip.workerDone (c : Chip) (k : Nat) : Chip :=
  match c.runningOn k with
  | none => c
  | some r =>
    let c := c.charge k r
    { c with lkp := { c.lkp with running := c.lkp.running.filter (fun e => e.1 != k) } }

/-- The workers whose activity is over become idle. -/
def Chip.pairsEnd (c : Chip) : Chip :=
  c.each ((c.lkp.running.filter (fun e => e.2.over c.now)).map (·.1)) Chip.workerDone

/-- Every worker running a work item ends it. -/
def Chip.workDone (c : Chip) (x : Work) : Chip :=
  c.each ((c.lkp.running.filter (fun e => decide (e.2.work = x))).map (·.1)) Chip.workerDone

/-- A work item is running on some worker. -/
def Chip.works (c : Chip) (x : Work) : Bool := c.lkp.running.any (fun e => decide (e.2.work = x))

/-- Workers begin an entry, to end at a tick of their own where one is given: it leaves its list, and its wait is counted
in its class's histogram (R419, R431). -/
def Chip.begin_ (c : Chip) (w : Nat) (ks : List Nat) (e : Entry) (ends : Option Nat) : Chip :=
  let c := c.setList w e.prio ((c.list w e.prio).erase e)
  let wait := c.now - e.submitted
  let bin := if wait < 128 then 0 else min 15 (Nat.log2 wait - 6)
  let c := c.count (LKP_HIST__COUNT e.cls bin) 1
  { c with lkp := { c.lkp with running := c.lkp.running ++ ks.map (fun k => (k, ⟨e.cls, e.work, c.now, c.now, ends⟩)) } }

/-- An entry is removed without starting: DROP_CNT of its class (R431). -/
def Chip.dropEntry (c : Chip) (w : Nat) (e : Entry) : Chip :=
  (c.setList w e.prio ((c.list w e.prio).erase e)).count (LKP_CLS_CNT__DROP_CNT e.cls) 1

/-- The entries of a worker class in dispatch order: priority 7 down to 0, oldest first (R418). -/
def Chip.dispatchOrder (c : Chip) (w : Nat) : List Entry := [7, 6, 5, 4, 3, 2, 1, 0].flatMap (c.list w)

/-- An entry is past its deadline. -/
def Chip.late (c : Chip) (e : Entry) : Bool :=
  match e.deadline with
  | some d => decide (d ≤ c.now)
  | none => false

/-! ## The Head (R425 to R427) -/

/-- The valid sensors and their highest reading (R425): −50 to +150 °C in units of 0.25 °C. -/
def validTemps (ts : List Int) : List Int := ts.filter (fun x => decide (-200 ≤ x ∧ x ≤ 600))

/-- P_allow in quarter milliwatts (R425). -/
def Chip.pAllow4 (c : Chip) (tmax : Int) : Int :=
  let cap : Int := c.fld LKP_HEAD_CFG__P_CAP * 400
  let knee : Int := c.fld LKP_HEAD_CFG__T_KNEE * 4
  let trip : Int := c.fld LKP_HEAD_CFG__TJ_TRIP * 4
  let kt : Int := c.fld LKP_HEAD_KT__KT
  if trip ≤ tmax then 0 else min (max (cap - kt * max (tmax - knee) 0) 0) cap

/-- The allocation of R425: each class takes its want from what is left, in ascending order. -/
def allocate (headEn : Bool) (want : List Nat) (h : Nat) : List Nat :=
  (want.zipIdx.foldl (fun (acc : List Nat × Int) wc =>
    let g : Nat := if wc.2 = 0 ∨ headEn = false then wc.1 else min wc.1 (max acc.2 0).toNat
    (acc.1 ++ [g], acc.2 - (g : Int))) ([], (h : Int))).1

/-- LEVEL of R427 from wants and grants. -/
def headLevel (want grant : List Nat) : Nat :=
  let held := (List.range 10).filter (fun k => decide (grant.getD k 0 < want.getD k 0))
  if held = [] then 0 else if held.any (fun k => decide (k ≤ 5)) then 2 else 1

/-- HEAD_COMPUTATION: TMAX, H and the meters are written; the grants that follow from H take effect with the boundary
(R425). -/
def Chip.headCompute (c : Chip) (r : HeadReadings) : Chip :=
  let ok := validTemps r.temps
  let tmax := ok.foldl max (-32768)
  let fixed : Int := (r.vin : Int) - r.bsn - r.slu - r.mgt
  let h : Nat := if ok = [] then 0 else (max (c.pAllow4 tmax * 250 - fixed) 0).toNat
  let fail := decide (ok = [])
  let c := if fail && !c.flag LKP_STATUS__SENSOR_FAIL then c.raise LKP_INT_STATUS__SENSOR_FAIL else c
  let c := c.setFlag LKP_STATUS__SENSOR_FAIL fail
  let c := if fail then c else c.setFldI LKP_TJ__TMAX tmax
  let mask := (r.temps.zipIdx.foldl (fun m x => if -200 ≤ x.1 ∧ x.1 ≤ 600 then m ||| 2 ^ x.2 else m) 0)
  let c := ((((c.setFld LKP_TJ__VALID mask).setReg LKP_HEAD (min h (2 ^ 32 - 1))).setReg LKP_E_VIN r.vin).setReg
    LKP_E_BSN r.bsn).setReg LKP_E_SLU r.slu
  let c := (c.setReg LKP_E_MGT r.mgt).setReg LKP_E_FIXED (max fixed 0).toNat
  { c with lkp := { c.lkp with nextHead := some h } }

/-- HEAD_COMPUTATION (R425). -/
def execHeadComputation (t : Nat) (r : HeadReadings) (s : State) : Host.Outcome State Fault Refusal :=
  s.event t (fun c => c.headCompute r)

/-- The grants of the power period that begins: the Head computed is allocated to the wants left by the debts, a debt
that its want cannot absorb is forgiven, and a change of LEVEL is reported (R425 to R427, R429). -/
def Chip.headGrant (c : Chip) (h : Nat) (debt : List Nat) : Chip :=
  let eb := (List.range 10).map (fun k => c.reg (LKP_CLS_EB k))
  let want := (List.range 10).map (fun k => eb.getD k 0 - debt.getD k 0)
  let c := if (List.range 10).any (fun k => decide (eb.getD k 0 < debt.getD k 0)) then c.raise LKP_INT_STATUS__DEBT else c
  let g := allocate (c.flag LKP_HEAD_CFG__HEAD_EN) want h
  let c := c.each (List.range 10) (fun c k => c.setReg (LKP_CLS_GRANT k) (g.getD k 0))
  let old := c.fld LKP_STATUS__LEVEL
  let level := headLevel want g
  let c := c.setFld LKP_STATUS__LEVEL level
  if level = old then c
  else
    let w := w32 (c.reg LKP_HEAD)
    ((c.raise LKP_INT_STATUS__HEAD_LEVEL).sysEvent 8 level w 0).logEvent 15 (w32 level) w (w32i (c.fldI LKP_TJ__TMAX))

/-- The Lockkeeper's part of a power-period boundary: usage of the ended period is reported and returns to 0, what was
used over a grant is the debt, the values written take effect, and the grants of the period are made (R422, R425 to
R427, R429). -/
def Chip.lkpPeriod (c : Chip) : Chip :=
  let c := c.pairsEnd
  let c := c.each c.lkp.running (fun c e => c.charge e.1 e.2)
  let c := { c with lkp := { c.lkp with running := c.lkp.running.map (fun (e : Nat × Running) => (e.1, { e.2 with since := c.now })) } }
  let debt := (List.range 10).map (fun k => if k = 0 then 0 else c.eUsed k - c.grantOf k)
  let c := c.each (List.range 10) (fun c k =>
    (c.setReg (LKP_CLS_TLAST k) (min (c.tUsed k) (2 ^ 32 - 1))).setReg (LKP_CLS_ELAST k) (min (c.eUsed k) (2 ^ 32 - 1)))
  let c := c.each (List.range 70) (fun c k => c.setFld (LKP_LOAD__BUSY k) (min (tabGet (fun _ => 0) c.lkp.busy k) 800000))
  let h := c.lkp.nextHead
  let c := { c with lkp := { c.lkp with
    tUsed := [], eUsedPj := [], busy := [], gatedNow := [], nextHead := none
    tb := (List.range 10).foldl (fun m k => tabPut (fun i => regReset (LKP_CLS_TB i)) k (w32 (c.reg (LKP_CLS_TB k))) m) []
    eb := (List.range 10).foldl (fun m k => tabPut (fun i => regReset (LKP_CLS_EB i)) k (w32 (c.reg (LKP_CLS_EB k))) m) []
    ecoef := (List.range 3).foldl (fun m k => tabPut (fun i => regReset (LKP_ECOEF i)) k (w32 (c.reg (LKP_ECOEF k))) m) [] } }
  let c := c.each (List.range 10) (fun c k => c.setReg (LKP_CLS_DEBT k) (debt.getD k 0))
  match h with
  | none => c
  | some h => c.headGrant h debt

/-- BUDGET_HIT: a class whose budget is reached is gated; its period is counted once (R424). -/
def Chip.budgetHit (c : Chip) (cls : Nat) : Chip :=
  if c.gated cls && !tabGet (fun _ => false) c.lkp.gatedNow cls then
    let c := { c with lkp := { c.lkp with gatedNow := tabPut (fun _ => false) cls true c.lkp.gatedNow } }
    (c.count (LKP_CLS_CNT__GATE_CNT cls) 1).raise LKP_INT_STATUS__BUDGET_HIT
  else c

/-- A class reaches its budget (R424). -/
def execBudgetHit (t : Nat) (cls : Fin 10) (s : State) : Host.Outcome State Fault Refusal :=
  s.event t (fun c => c.budgetHit cls.val)

/-- Firmware's work of a class joins a management list unless it waits in one: R414 gives the class, and its priority is a
free value. -/
def Chip.fwWork (c : Chip) (cls : Nat) : Chip :=
  if c.listed 2 (.firmware cls) then c
  else (c.submit 2 ⟨cls, (Config.fwPrio cls).val, none, .firmware cls, c.now, .firmware⟩).1

/-- The Gauge export words of class LKP (R432); `none` for an index the table does not list. -/
def Chip.lkpExport (c : Chip) (i : Nat) : Option Nat :=
  let sat (n : Nat) : Nat := min (n / 256) 65535
  if i < 24 then some (c.list (i / 8) (i % 8)).length
  else if 32 ≤ i ∧ i < 42 then some (sat (c.eUsed (i - 32)))
  else if 48 ≤ i ∧ i < 58 then some (sat (c.grantOf (i - 48)))
  else if i = 64 then some (sat (c.reg LKP_HEAD))
  else if i = 65 then some (c.fld LKP_TJ__TMAX)
  else if i = 66 then some (c.fld LKP_STATUS__LEVEL)
  else if 80 ≤ i ∧ i < 84 then
    some ((List.range 16).foldl (fun m k => if c.busyOn (16 * (i - 80) + k) then m ||| 2 ^ k else m) 0)
  else if i = 84 then
    some ((List.range 6).foldl (fun m k => if c.busyOn (64 + k) then m ||| 2 ^ k else m) 0)
  else none

/-- Writes to the Lockkeeper's RW registers with a rule of their own (R429, LKP_ECOEF, LKP_HEAD_CFG): `none` when the
write is ignored and sets CFG_REJ. -/
def lkpWrite (off v : Nat) : Option Nat :=
  if off = LKP_CLS_EB 0 ∧ v < 50000 then none
  else if off = LKP_CLS_TB 0 ∧ v < 80000 then none
  else if LKP_ECOEF 0 ≤ off ∧ off ≤ LKP_ECOEF 2 ∧ bits v 15 0 = 0 then none
  else if off = LKP_HEAD_CFG ∧ (195 < bits v 27 16 ∨ bits v 7 0 ≤ bits v 15 8) then none
  else some v

end Sys2Proof.Machine
end

