-- ==== Sys2Proof/Machine/SluCap.lean ====
section
/-! DEFINITION. Auxiliary words, the Sluice's capture units and the triggering of chains (R248, R297 to R299, R306, R308,
R416, R417). -/

namespace Sys2Proof.Machine

/-- An auxiliary word no item has delivered: value 0, age 255 (R46, R248). -/
def AuxWord.init : AuxWord := ⟨0, 255, none, 0⟩

/-- Auxiliary measurement word i (R248). -/
def Chip.auxW (c : Chip) (i : Nat) : AuxWord := tabGet (fun _ => AuxWord.init) c.tow.aux i

/-- The chip with an auxiliary word replaced. -/
def Chip.setAuxW (c : Chip) (i : Nat) (x : AuxWord) : Chip :=
  { c with tow := { c.tow with aux := tabPut (fun _ => AuxWord.init) i x c.tow.aux } }

/-! ## Core memories (R292, R293) -/

/-- Byte address of a halfword of memory `m` (0 X, 1 Y, 2 C) of a core. -/
def coreAddr (core m h : Nat) : Nat := core * 2 ^ 20 + m * 2 ^ 18 + 2 * h

/-- Halfwords of a memory. -/
def coreSize (m : Nat) : Nat := if m = 2 then 32768 else 65536

/-- A halfword of a core's memory. -/
def Chip.coreHalf (c : Chip) (core m h : Nat) : Nat := memHalf 0 c.mem.slum (coreAddr core m h)

/-! ## Chains (R306) -/

/-- A word of the Sluice configuration window (R306, R312). -/
def Chip.sluW (c : Chip) (off : Nat) : Nat := (memWord 0 c.mem.slu off).toNat

/-- EN of a chain. -/
def Chip.chEn (c : Chip) (k : Nat) : Bool := (c.sluW (1024 * k)).testBit 31
/-- CORE of a chain. -/
def Chip.chCore (c : Chip) (k : Nat) : Nat := bits (c.sluW (1024 * k)) 29 28
/-- TRIG of a chain. -/
def Chip.chTrig (c : Chip) (k : Nat) : Nat := bits (c.sluW (1024 * k + 4)) 31 30
/-- CMARK of a chain. -/
def Chip.chMark (c : Chip) (k : Nat) : Nat := bits (c.sluW (1024 * k + 4)) 29 25

/-- The run of a chain that is queued, held in its latch or running. -/
def Chip.run (c : Chip) (k : Nat) : Option ChainRun := (c.slu.runs.find? (fun e => e.1 == k)).map (·.2)

/-- The chip with a chain's run replaced. -/
def Chip.setRun (c : Chip) (k : Nat) (r : ChainRun) : Chip :=
  { c with slu := { c.slu with runs := (c.slu.runs.filter (fun e => e.1 != k)) ++ [(k, r)] } }

/-- The chip without a run of a chain. -/
def Chip.dropRun (c : Chip) (k : Nat) : Chip :=
  { c with slu := { c.slu with runs := c.slu.runs.filter (fun e => e.1 != k) } }

/-- The ready-list entry of a chain's run, of the host's command or of the Sluice's trigger (R306, R308, R414, R416). -/
def Chip.chEntry (c : Chip) (k : Nat) (deadline : Option Nat) (host : Option Iface) : Entry :=
  let w := c.sluW (1024 * k)
  ⟨if w.testBit 23 then 5 else 6, bits w 18 16, deadline, .chain k, c.now, match host with
    | some i => .host i
    | none => .sluice (c.chCore k)⟩

/-- A trigger of a chain by a capture block (whose first index is given), a cycle mark or a command. It is dropped and
counted while the chain is queued or running; a full list holds it in the chain's latch, but turns a command away
(R308, R417). The truth value says that the chain was entered or held. -/
def Chip.chainTrigger (c : Chip) (k : Nat) (first : Option Nat) (host : Option Iface) : Chip × Bool :=
  if (c.run k).isSome then
    ((c.count SLU_CNT__TRIG_LOST_CNT 1).raise SLU_INT_STATUS__TRIG_LOST, false)
  else
    let dl := c.sluW (1024 * k + 8)
    let deadline := if dl = 0 then none else some (c.now + dl)
    let r := c.submit 1 (c.chEntry k deadline host)
    if r.2 = false ∧ host.isSome = true then (r.1, false)
    else
      (r.1.setRun k { core := c.chCore k, trig := c.now, deadline := deadline, first := first, since := 0,
                      latched := !r.2, running := false, stage := 0, flags := 0 }, true)

/-- A held trigger is offered again (R417). -/
def Chip.latchRetry (c : Chip) (k : Nat) : Chip :=
  match c.run k with
  | some x =>
    if x.latched then
      let r := c.submit 1 (c.chEntry k x.deadline none)
      r.1.setRun k { x with latched := !r.2 }
    else c
  | none => c

/-- A Sluice trigger held in its chain's latch is retried (R417). -/
def execTriggerLatchRetry (t : Nat) (chain : Fin 64) (s : State) : Host.Outcome State Fault Refusal :=
  s.event t (fun c => c.latchRetry chain.val)

/-! ## Capture (R297 to R299) -/

/-- A capture unit as it starts. -/
def Capture.init : Capture := ⟨0, 0, []⟩

/-- The capture unit of a core. -/
def Chip.capUnit (c : Chip) (i : Nat) : Capture := tabGet (fun _ => Capture.init) c.slu.cap i

/-- The chip with a capture unit replaced. -/
def Chip.setCapUnit (c : Chip) (i : Nat) (x : Capture) : Chip :=
  { c with slu := { c.slu with cap := tabPut (fun _ => Capture.init) i x c.slu.cap } }

/-- Halfwords h to h + n − 1 of memory `m` (0 is X) are written: what the capture unit noted of the elements there is void (R297). -/
def Chip.capUnmark (c : Chip) (core m h n : Nat) : Chip :=
  let x := c.capUnit core
  c.setCapUnit core { x with marks := x.marks.filter (fun e => decide (m ≠ 0 ∨ e.1 < h ∨ h + n ≤ e.1)) }

/-- The chip with bytes of a core's memory written from halfword h of memory m on. -/
def Chip.setCoreBytes (c : Chip) (core m h : Nat) (bytes : List Byte) : Chip :=
  let c := { c with mem := { c.mem with slum := memWrite 0 (coreAddr core m h) bytes c.mem.slum } }
  c.capUnmark core m h ((bytes.length + 1) / 2)

/-- The chip with a halfword of a core's memory written. -/
def Chip.setCoreHalf (c : Chip) (core m h v : Nat) : Chip :=
  c.setCoreBytes core m h [BitVec.ofNat 8 v, BitVec.ofNat 8 (v / 256)]

/-- A capture unit is running on a source of this kind. -/
def Chip.capOn (c : Chip) (i kind : Nat) : Bool :=
  c.flag (SLU_CAP_CFG__EN i) && c.fld (SLU_CAP_CFG__SRC_KIND i) == kind && c.fld (SLU_CAP_BLK__LEN i) != 0

/-- A run triggered by capture has `n` elements captured beyond its block: at LEN − BLOCK the next one overwrites the block,
and CAP_OVR is set for the run (R299). -/
def Chip.capBeyond (c : Chip) (k n : Nat) : Chip :=
  match c.run k with
  | none => c
  | some x =>
    if c.fld (SLU_CAP_BLK__LEN x.core) - c.fld (SLU_CAP_BLK__BLOCK x.core) = n then
      (c.setRun k { x with since := n, flags := x.flags ||| 16 }).raise SLU_INT_STATUS__CAP_OVR
    else c.setRun k { x with since := n }

/-- Every element captured on a core counts against the blocks its queued and running runs read (R299). -/
def Chip.capAge (c : Chip) (i : Nat) : Chip :=
  c.each c.slu.runs (fun c e => if e.2.core = i ∧ e.2.first ≠ none then c.capBeyond e.1 (e.2.since + 1) else c)

/-- A complete block triggers every enabled chain of the core whose TRIG selects capture (R299). -/
def Chip.capTriggers (c : Chip) (i first : Nat) : Chip :=
  c.each (List.range 64) (fun c k =>
    if c.chEn k && c.chTrig k == 1 && c.chCore k == i then
      let r := c.chainTrigger k (some first) none
      if r.2 then r.1.capBeyond k 0 else r.1
    else c)

/-- A capture unit writes one element; `mark` says that it is aged (1) or invalid (2) (R297, R298). -/
def Chip.capWrite (c : Chip) (i : Nat) (v : Int) (mark : Nat) : Chip :=
  let len := c.fld (SLU_CAP_BLK__LEN i)
  let w := c.fld (SLU_CAP_STAT__WPTR i)
  let a := (c.fld (SLU_CAP_BUF__BASE i) + w) % 65536
  let c := c.setCoreHalf i 0 a (unsigned 16 v)
  let x := c.capUnit i
  let c := if mark = 1 then c.count (SLU_CAP_CNT__AGED_CNT i) 1 else if mark = 2 then c.count (SLU_CAP_CNT__INV_CNT i) 1 else c
  let c := (c.setFld (SLU_CAP_STAT__WPTR i) ((w + 1) % len)).capAge i
  let first := if x.wrote = 0 then w else x.first
  let marks := tabPut (fun _ => 0) a mark x.marks
  if c.fld (SLU_CAP_BLK__BLOCK i) ≤ x.wrote + 1 then (c.setCapUnit i ⟨0, first, marks⟩).capTriggers i first
  else c.setCapUnit i ⟨x.wrote + 1, first, marks⟩

/-- rnd(v, SH) clamped to Q1.15; a clamp sets CAP_SAT (R297). -/
def Chip.capScaled (c : Chip) (i : Nat) (v : Int) (mark : Nat) : Chip :=
  let r := rdivEven v (2 ^ c.fld (SLU_CAP_CFG__SH i))
  let q := clampI (-32768) 32767 r
  (if q = r then c else c.raise (SLU_CAP_STAT__CAP_SAT i)).capWrite i q mark

/-- At tick P/2 of a pound with n mod 2^DIV = 0 each unit of kind 0 to 2 takes an element (R297). -/
def Chip.capRelease (c : Chip) : Chip :=
  let n := c.poundNum
  c.each (List.range 4) (fun c i =>
    let src := c.fld (SLU_CAP_CFG__SRC i)
    let aged (b : Bool) : Nat := b2n b
    if n % 2 ^ c.fld (SLU_CAP_CFG__DIV i) ≠ 0 then c
    else if c.capOn i 0 then
      c.capScaled i (signed 32 (c.reg (POS_CH_SPD src))) (aged (c.fld (POS_CH_STAT__AGE src) != 0))
    else if c.capOn i 1 then
      c.capScaled i (signed 32 (c.reg (POS_CH_POS_LO src))) (aged (c.fld (POS_CH_STAT__AGE src) != 0))
    else if c.capOn i 2 then c.capWrite i (signed 16 (c.auxW src).v) (aged ((c.auxW src).age != 0))
    else c)

/-- An ADC result of converter x reaches the units of kind 3; an invalid one is written as 0 (R297). -/
def Chip.capAdc (c : Chip) (x : Nat) (code : Int) (valid : Bool) : Chip :=
  c.each (List.range 4) (fun c i =>
    if c.capOn i 3 && c.fld (SLU_CAP_CFG__SRC i) == x then
      if valid then c.capWrite i code 0 else c.capWrite i 0 2
    else c)

/-- The stored command of an axis reaches the units of kind 4 after an update of its flight (R297). -/
def Chip.capCommand (c : Chip) (axis : Nat) (u : Int) : Chip :=
  c.each (List.range 4) (fun c i =>
    if c.capOn i 4 && c.fld (SLU_CAP_CFG__SRC i) == axis then c.capWrite i u 0 else c)

/-- The sources a unit may name (R297): a channel, an auxiliary word, a converter or an axis. -/
def capSrcOk (kind src : Nat) : Bool :=
  if kind = 0 ∨ kind = 1 ∨ kind = 4 then decide (src < 256) else if kind = 3 then decide (src < 2) else decide (kind = 2)

/-- A write of SLU_CAP_CFG, _BUF or _BLK: accepted in DRY and MOORED within its ranges, and restarts the capture with
WPTR 0, the elements in X memory staying what they are; otherwise ignored with CFG_REJ. `none` for any other register (R297, R298). -/
def Chip.capCfgWrite (c : Chip) (off v : Nat) : Option Chip :=
  let rej := c.raise SLU_STATUS__CFG_REJ
  let restart (i : Nat) : Chip :=
    ((c.writeBits off v).setFld (SLU_CAP_STAT__WPTR i) 0).setCapUnit i
      { Capture.init with marks := (c.capUnit i).marks }
  let hit (f : Nat → Nat) : Option Nat := (List.range 4).find? (fun i => f i == off)
  match hit SLU_CAP_CFG, hit SLU_CAP_BUF, hit SLU_CAP_BLK with
  | some i, _, _ =>
    some (if c.dryOrMoored && capSrcOk (bits v 30 28) (bits v 25 16) && decide (bits v 10 8 ≤ 3) then restart i else rej)
  | _, some i, _ => some (if c.dryOrMoored then restart i else rej)
  | _, _, some i =>
    let len := bits v 31 16
    let blk := bits v 15 0
    some (if c.dryOrMoored && len != 0 && blk != 0 && len % blk == 0 then restart i else rej)
  | _, _, _ => none

/-- A capture configuration write (R298). -/
def execSluCapCfgWrite (t : Nat) (ifc : Iface) (off : Nat) (v : Word) (s : State) : Host.Outcome State Fault Refusal :=
  s.access t ifc (fun c => (c.capCfgWrite off v.toNat).getD c)

end Sys2Proof.Machine
end

