-- ==== Sys2Proof/Machine/Adc.lean ====
section
/-! DEFINITION. Analog inputs: triggers, sequences, settling results, results and comparators (R316 to R330). -/

namespace Sys2Proof.Machine

/-! ## Converters -/

/-- A converter at rest. -/
def AdcConv.init : AdcConv := ⟨none, none, false, none⟩

/-- Converter x. -/
def Chip.adcC (c : Chip) (x : Nat) : AdcConv := tabGet (fun _ => AdcConv.init) c.adc.conv x

/-- The chip with a converter replaced. -/
def Chip.setAdcC (c : Chip) (x : Nat) (v : AdcConv) : Chip :=
  { c with adc := { c.adc with conv := tabPut (fun _ => AdcConv.init) x v c.adc.conv } }

/-- The tick from which the filter of comparator k counts. -/
def Chip.cmpT (c : Chip) (k : Nat) : Nat := tabGet (fun _ => 0) c.adc.cmpT k

/-- The filter of comparator k counts from the current tick. -/
def Chip.cmpRestart (c : Chip) (k : Nat) : Chip :=
  { c with adc := { c.adc with cmpT := tabPut (fun _ => 0) k c.now c.adc.cmpT } }

/-- Converter x runs in low-power mode (R317). -/
def Chip.adcLp (c : Chip) (x : Nat) : Bool := c.flag (ADC_CFG__LP x)

/-- Ticks of a conversion (R317). -/
def convTicks (lp : Bool) : Nat := if lp then 3200 else 400

/-- Ticks from a conversion's start to its sampling instant (R317). -/
def sampleTicks (lp : Bool) : Nat := if lp then 2400 else 104

/-- The descriptor of an entry of a sequence. -/
def Chip.adcEntry (c : Chip) (x : Nat) (inj : Bool) (e : Nat) : Nat :=
  if inj then c.reg (ADC_INJ x e) else c.reg (ADC_SEQ x e)

/-- The entries of a sequence (R320). -/
def Chip.adcEntries (c : Chip) (x : Nat) (inj : Bool) : Nat :=
  if inj then c.fld (ADC_CFG__NINJM1 x) + 1 else c.fld (ADC_CFG__NREGM1 x) + 1

/-- D of an entry (R319). -/
def entryD (w : Nat) : Nat := bits w 18 16
/-- NRES of an entry (R320). -/
def entryRes (w : Nat) : Nat := bits w 31 24 + 1

/-- K of R324: the conversions the front end needs to settle before an entry that starts at tick `t`. -/
def settleK (prev : Option AdcPrev) (w : Nat) (lp : Bool) (t : Nat) : Nat :=
  match prev with
  | none => 8
  | some p =>
    let o := p.entry.toNat
    let gain := decide (bits o 10 8 ≠ bits w 10 8)
    let input := decide (bits o 4 0 ≠ bits w 4 0 ∨ bits o 7 7 ≠ bits w 7 7)
    if 800000 < t - p.ended then 8
    else
      max (if gain then (if lp then 2 else 3) else if input then 1 else 0)
        (max (if entryD o ≠ entryD w then 1 else 0) (if p.lp ≠ lp then 4 else 0))

/-- The settling results of an entry: ceil(K ÷ R) (R324). -/
def settleResults (prev : Option AdcPrev) (w : Nat) (lp : Bool) (t : Nat) : Nat :=
  (settleK prev w lp t + 2 ^ entryD w - 1) / 2 ^ entryD w

/-- The results a regular run delivers if nothing interrupts it, as the packet of R325 counts them. -/
def Chip.runResults (c : Chip) (x t : Nat) : Nat :=
  let lp := c.adcLp x
  ((List.range (c.adcEntries x false)).foldl (fun (acc : Nat × Option AdcPrev) e =>
    let w := c.adcEntry x false e
    (acc.1 + settleResults acc.2 w lp t + entryRes w, some ⟨w32 w, lp, t⟩)) (0, (c.adcC x).prev)).1

/-- A run about to begin at tick `t`. -/
def AdcRun.at (t : Nat) : AdcRun := ⟨t, false, 0, 0, 0, 0, 0, false, none, false⟩

/-- A run stands before an entry at tick `t`: its settling and valid results are counted, nothing is summed (R324). -/
def Chip.adcEnter (c : Chip) (x : Nat) (inj : Bool) (r : AdcRun) (e left t : Nat) : AdcRun :=
  let w := c.adcEntry x inj e
  { r with next := t, begun := true, entry := e, left := left, sum := 0, got := 0, range := false
           settle := settleResults (c.adcC x).prev w (c.adcLp x) t }

/-- A run begins its first acquisition at tick `t`. A regular run with FIFO_EN has its packet when the FIFO's free space
holds the whole of it, else the packet is dropped (R240, R325). -/
def Chip.adcBegin (c : Chip) (x : Nat) (inj : Bool) (r : AdcRun) (t : Nat) : Chip × AdcRun :=
  let r := c.adcEnter x inj r 0 (entryRes (c.adcEntry x inj 0)) t
  if inj = false ∧ c.flag (ADC_CFG__FIFO_EN x) = true then
    let l : LadId := .adc ⟨x % 2, Nat.mod_lt _ (by decide)⟩
    let words := (c.runResults x t * 4 + 7) / 8
    if l.cap < (c.lad l).words.length + words then (c.ladDropped l, r) else (c, { r with fifo := true })
  else (c, r)

/-- A lost trigger (R322). -/
def Chip.adcLost (c : Chip) (x : Nat) : Chip := (c.count (ADC_CNT__TRIG_LOST_CNT x) 1).raise ADC_INT_STATUS__TRIG_LOST

/-- A run that an injected trigger interrupts keeps the sampling instant of its first conversion where that has passed,
although the conversion is abandoned (R323, R326). -/
def AdcRun.interrupted (r : AdcRun) (lp : Bool) (now : Nat) : AdcRun :=
  if r.begun = true ∧ r.next + sampleTicks lp ≤ now then { r with stamp := some (r.stamp.getD (r.next + sampleTicks lp)) }
  else r

/-- A trigger reaches a sequence of converter x: accepted, held or lost (R321 to R323). The truth value says that it was
not lost. A converter that is not enabled takes no trigger. -/
def Chip.adcTrigger (c : Chip) (x : Nat) (inj : Bool) : Chip × Bool :=
  let a := c.adcC x
  if c.flag (ADC_CFG__EN x) = false then (c, true)
  else if inj then
    match a.inj with
    | some _ => (c.adcLost x, false)
    | none =>
      let reg := a.reg.map (fun r => r.interrupted (c.adcLp x) c.now)
      (c.setAdcC x { a with reg := reg, inj := some (AdcRun.at (c.now + 8)) }, true)
  else
    match a.reg, a.inj, a.held with
    | some _, _, _ => (c.adcLost x, false)
    | none, none, _ => (c.setAdcC x { a with reg := some (AdcRun.at (c.now + 8)) }, true)
    | none, some _, false => (c.setAdcC x { a with held := true }, true)
    | none, some _, true => (c.adcLost x, false)

/-- The Weir analog trigger reaches the sequences that select it (R321, R364). -/
def Chip.adcWeir (c : Chip) : Chip :=
  c.each [0, 1] (fun c x =>
    let c := if c.fld (ADC_CFG__REG_TRIG x) = 3 then (c.adcTrigger x false).1 else c
    if c.fld (ADC_CFG__INJ_TRIG x) = 3 then (c.adcTrigger x true).1 else c)

/-- A cycle mark with T_ADC triggers the regular sequences that select it; the truth value says that none was lost
(R27, R29, R321). -/
def Chip.adcMark (c : Chip) (m : Nat) : Chip × Bool :=
  [0, 1].foldl (fun (r : Chip × Bool) x =>
    if r.1.fld (ADC_CFG__REG_TRIG x) = 1 ∧ r.1.fld (ADC_CFG__REG_CMARK x) = m then
      let q := r.1.adcTrigger x false
      (q.1, r.2 && q.2)
    else r) (c, true)

/-- A run begins its first acquisition, 8 ticks after its trigger (R321). -/
def Chip.adcRunStart (c : Chip) (x : Nat) (inj : Bool) : Chip :=
  let a := c.adcC x
  match (if inj then a.inj else if a.inj = none then a.reg else none) with
  | none => c
  | some r =>
    if r.begun = false ∧ r.next ≤ c.now then
      let q := c.adcBegin x inj r r.next
      let a := q.1.adcC x
      q.1.setAdcC x (if inj then { a with inj := some q.2 } else { a with reg := some q.2 })
    else c

/-- ADC_RUN_START (R321). -/
def execAdcRunStart (t : Nat) (x : Fin 2) (inj : Bool) (s : State) : Host.Outcome State Fault Refusal :=
  s.event t (fun c => c.adcRunStart x.val inj)

/-- VREF in nV (R316). -/
abbrev vrefNV : Nat := 2500000000

/-- The code of an entry's conversion before the clamp, of the voltages in nV of the 24 inputs at its sampling instant: the
multiplexer selects INPUT, or with DIFF its pair, at gain 2^GAIN (R316, R318, R319). -/
def adcCode (w : Nat) (ains : List Int) : Int :=
  let k := bits w 4 0
  let g : Int := 2 ^ bits w 10 8
  if w.testBit 7 then rdivEven (32768 * g * (ains.getD k 0 - ains.getD (k + 1) 0)) vrefNV
  else rdivEven (65536 * g * ains.getD k 0) vrefNV - 32768

/-- A clamped code and whether the clamp acted (R318). -/
def clampCode (v : Int) : Int × Bool := (clampI (-32768) 32767 v, decide (clampI (-32768) 32767 v ≠ v))

/-- The tag of a result (R325). -/
def adcTag (x : Nat) (inj : Bool) (e : Nat) (valid range : Bool) : Nat :=
  b2n valid * 2 ^ 15 + b2n inj * 2 ^ 14 + x * 2 ^ 13 + b2n range * 2 ^ 12 + e * 16

/-- A result is written: register, capture stream and, for a regular run with its packet in the FIFO, the FIFO, where the
run's last result carries the end mark (R325). -/
def Chip.adcDeliver (c : Chip) (x : Nat) (inj : Bool) (r : AdcRun) (v : Int) (valid last : Bool) : Chip :=
  let q := clampCode v
  let range := r.range || q.2
  let tag := adcTag x inj r.entry valid range
  let code := unsigned 16 q.1
  let c := c.setReg (if inj then ADC_IRES x r.entry else ADC_RES x r.entry) (tag * 2 ^ 16 + code)
  let c := if valid then c else c.count (ADC_CNT__INV_CNT x) 1
  let c := c.capAdc x q.1 valid
  if r.fifo then
    c.ladUnits (.adc ⟨x % 2, Nat.mod_lt _ (by decide)⟩)
      [BitVec.ofNat 8 code, BitVec.ofNat 8 (code / 256), BitVec.ofNat 8 tag, BitVec.ofNat 8 (tag / 256)] last
  else c

/-- The end of a run: its stamp and DONE, and what comes next: the interrupted regular run resumes after an injected one, a held trigger starts 8 ticks later, a continuous sequence starts again (R321 to R323,
R326). -/
def Chip.adcRunEnd (c : Chip) (x : Nat) (inj : Bool) (r : AdcRun) (e : Nat) : Chip :=
  let stamp := r.stamp.getD 0
  if inj then
    let c := (c.setReg (ADC_ISTAMP_LO x) stamp).setReg (ADC_ISTAMP_HI x) (stamp / 2 ^ 32)
    let c := c.raise (if x = 0 then ADC_INT_STATUS__INJ_DONE0 else ADC_INT_STATUS__INJ_DONE1)
    let a := c.adcC x
    let c := c.setAdcC x { a with inj := none }
    match a.reg with
    | some g =>
      if g.begun then
        let g := c.adcEnter x false g g.entry g.left e
        c.setAdcC x { c.adcC x with reg := some g }
      else
        let q := c.adcBegin x false g e
        q.1.setAdcC x { q.1.adcC x with reg := some q.2 }
    | none =>
      if a.held then c.setAdcC x { a with inj := none, held := false, reg := some (AdcRun.at (e + 8)) } else c
  else
    let c := (c.setReg (ADC_STAMP_LO x) stamp).setReg (ADC_STAMP_HI x) (stamp / 2 ^ 32)
    let c := c.raise (if x = 0 then ADC_INT_STATUS__REG_DONE0 else ADC_INT_STATUS__REG_DONE1)
    let c := c.setAdcC x { c.adcC x with reg := none }
    if c.fld (ADC_CFG__REG_TRIG x) = 4 then
      let q := c.adcBegin x false (AdcRun.at e) e
      q.1.setAdcC x { q.1.adcC x with reg := some q.2 }
    else c

/-- The conversion in progress of a run ends; `ains` are the inputs at its sampling instant (R317 to R320, R324, R325). -/
def Chip.adcConv (c : Chip) (x : Nat) (inj : Bool) (r : AdcRun) (ains : List Int) : Chip :=
  let lp := c.adcLp x
  let w := c.adcEntry x inj r.entry
  let e := r.next + convTicks lp
  let q := clampCode (adcCode w ains)
  let r := { r with stamp := some (r.stamp.getD (r.next + sampleTicks lp)), sum := r.sum + q.1, got := r.got + 1
                    range := r.range || q.2, next := e }
  let put (c : Chip) (r : AdcRun) : Chip :=
    let a := c.adcC x
    c.setAdcC x (if inj then { a with inj := some r } else { a with reg := some r })
  let c := c.setAdcC x { c.adcC x with prev := some ⟨w32 w, lp, e⟩ }
  if r.got < 2 ^ entryD w then put c r
  else
    let valid := decide (r.settle = 0)
    let left := if valid then r.left - 1 else r.left
    let last := left == 0 && decide (c.adcEntries x inj ≤ r.entry + 1)
    let c := c.adcDeliver x inj r (rdivEven r.sum (2 ^ entryD w)) valid last
    let r := { r with sum := 0, got := 0, range := false, settle := r.settle - 1, left := left }
    if 0 < r.left then put c r
    else if r.entry + 1 < c.adcEntries x inj then
      put c (c.adcEnter x inj r (r.entry + 1) (entryRes (c.adcEntry x inj (r.entry + 1))) e)
    else c.adcRunEnd x inj r e

/-- A conversion of converter x ends: the injected run's while one converts, else the regular run's (R323, R325). -/
def Chip.adcConversionEnd (c : Chip) (x : Nat) (ains : List Int) : Chip :=
  let a := c.adcC x
  match a.inj, a.reg with
  | some r, _ => if r.begun = true ∧ r.next + convTicks (c.adcLp x) ≤ c.now then c.adcConv x true r ains else c
  | none, some r => if r.begun = true ∧ r.next + convTicks (c.adcLp x) ≤ c.now then c.adcConv x false r ains else c
  | none, none => c

/-- ADC_CONVERSION_END (R325). -/
def execAdcConversionEnd (t : Nat) (x : Fin 2) (ains : List Int) (s : State) : Host.Outcome State Fault Refusal :=
  s.event t (fun c => c.adcConversionEnd x.val ains)

/-- HYST in nV: 0, 10, 20 or 40 mV (R329). -/
def hystNV (h : Nat) : Nat := if h = 0 then 0 else 5000000 * 2 ^ h

/-- The part of the hysteresis that lies above the threshold: the spec does not say where the band lies, so it is a free
value of the band's width (R327, log entry 123). -/
def hystUp (h : Nat) : Nat := if hystNV h = 0 then 0 else Config.hystAbove h % (hystNV h + 1)

/-- The level of comparator k with `v` nV at its input: high above the threshold THR · VREF ÷ 1,024 and its share of the
hysteresis, low below the threshold and the rest of it, else as it was (R327). -/
def Chip.cmpLevel (c : Chip) (k : Nat) (v : Int) : Bool :=
  let h := c.fld (ADC_CMP__HYST k)
  let thr : Int := (c.fld (ADC_CMP__THR k) * vrefNV : Nat)
  let up : Int := (1024 * hystUp h : Nat)
  let down : Int := (1024 * (hystNV h - hystUp h) : Nat)
  if thr + up < 1024 * v then true
  else if 1024 * v < thr - down then false
  else (c.reg ADC_CMP_STAT).testBit k

/-- The level that comparator k accepts now with `v` nV at its input over the last FILT + 1 ticks: a new one only where its
filter has counted as many (R193, R327). -/
def Chip.cmpTake (c : Chip) (k : Nat) (v : Int) : Bool :=
  if c.now < c.cmpT k + c.fld (ADC_CMP__FILT k) + 1 then (c.reg ADC_CMP_STAT).testBit k else c.cmpLevel k v

/-- An accepted edge of a comparator; one of the selected kind is a crossing and a trigger (R321, R327). -/
def Chip.comparator (c : Chip) (k : Nat) (v : Int) : Chip :=
  let level := c.cmpTake k v
  if level = (c.reg ADC_CMP_STAT).testBit k then c
  else
    let c := (c.setFlag ⟨ADC_CMP_STAT, k, k⟩ level).cmpRestart k
    let edge := c.fld (ADC_CMP__EDGE k)
    if edge = 3 ∨ (edge = 1 ∧ level = true) ∨ (edge = 2 ∧ level = false) then
      let c := (c.raiseBit ADC_CMP_PEND k).raise ADC_INT_STATUS__CMP_EVT
      c.each [0, 1] (fun c x =>
        let c := if c.fld (ADC_CFG__REG_TRIG x) = 2 ∧ c.fld (ADC_CFG__REG_CMP x) = k then (c.adcTrigger x false).1 else c
        if c.fld (ADC_CFG__INJ_TRIG x) = 2 ∧ c.fld (ADC_CFG__INJ_CMP x) = k then (c.adcTrigger x true).1 else c)
    else c

/-- COMPARATOR_CROSSING (R327). -/
def execComparatorCrossing (t : Nat) (k : Fin 8) (v : Int) (s : State) : Host.Outcome State Fault Refusal :=
  s.event t (fun c => c.comparator k.val v)

/-- A write of REG_GO triggers the regular sequence (R321). -/
def execRegGo (t : Nat) (ifc : Iface) (x : Fin 2) (s : State) : Host.Outcome State Fault Refusal :=
  s.access t ifc (fun c => (c.adcTrigger x.val false).1)

/-- A write of INJ_GO triggers the injected sequence (R321). -/
def execInjGo (t : Nat) (ifc : Iface) (x : Fin 2) (s : State) : Host.Outcome State Fault Refusal :=
  s.access t ifc (fun c => (c.adcTrigger x.val true).1)

/-- A comparator's configuration: accepted in every state, and its filter restarts (R328). -/
def Chip.cmpWrite (c : Chip) (k v : Nat) : Chip := (c.writeBits (ADC_CMP k) v).cmpRestart k

/-- ADC_CMP_WRITE (R328). -/
def execAdcCmpWrite (t : Nat) (ifc : Iface) (k : Fin 8) (v : Word) (s : State) : Host.Outcome State Fault Refusal :=
  s.access t ifc (fun c => c.cmpWrite k.val v.toNat)

/-- Converter x has no run in progress and no trigger held (R328). -/
def Chip.adcIdle (c : Chip) (x : Nat) : Bool :=
  let a := c.adcC x
  a.reg.isNone && a.inj.isNone && !a.held

/-- An entry's fields are in range (R319, R330). -/
def entryOk (v : Nat) : Bool :=
  decide (bits v 18 16 ≤ 6) && decide (bits v 10 8 ≤ 4) && decide (bits v 4 0 < 24) && (!v.testBit 7 || bits v 4 0 % 2 == 0)

/-- A write of an ADC_ register with a rule of its own; `none` for any other register (R321, R328). -/
def Chip.adcWrite (c : Chip) (off v : Nat) : Option Chip :=
  let rej := c.raise ADC_STATUS__CFG_REJ
  let hit (n : Nat) (f : Nat → Nat) : Option Nat := (List.range n).find? (fun i => f i == off)
  match hit 2 ADC_CFG, hit 2 ADC_CTL, hit 8 ADC_CMP, hit 32 (fun i => ADC_SEQ (i / 16) (i % 16)),
      hit 8 (fun i => ADC_INJ (i / 4) (i % 4)) with
  | some x, _, _, _, _ =>
    if c.adcIdle x && decide (bits v 26 24 ≤ 4) && decide (bits v 21 19 ≤ 3) then
      let was := c.flag (ADC_CFG__EN x)
      let c := c.writeBits off v
      some (if v.testBit 31 && !was then c.setAdcC x AdcConv.init else c)
    else some rej
  | _, some x, _, _, _ =>
    let c := if v.testBit 0 then (c.adcTrigger x false).1 else c
    some (if v.testBit 1 then (c.adcTrigger x true).1 else c)
  | _, _, some k, _, _ => some (c.cmpWrite k v)
  | _, _, _, some i, _ => some (if c.adcIdle (i / 16) && entryOk v then c.writeBits off v else rej)
  | _, _, _, _, some i => some (if c.adcIdle (i / 4) && entryOk v then c.writeBits off v else rej)
  | _, _, _, _, _ => none

end Sys2Proof.Machine
end

