-- ==== Sys2Proof/Machine/Crypto.lean ====
section
/-! DEFINITION. Check words and signatures: CRC-32 of IEEE 802.3 (R220, R484, R498), the most-significant-bit-first
CRC-32 of the safety layer, SHA-256 and ECDSA P-256 (R505, R506, R374). -/

namespace Sys2Proof.Machine

/-- One bit of the reflected CRC-32 register. -/
def crcBit (r : Nat) : Nat := if r % 2 = 1 then (r / 2) ^^^ 0xEDB88320 else r / 2

/-- One byte of the reflected CRC-32. -/
def crcByte (r : Nat) (b : Byte) : Nat :=
  crcBit (crcBit (crcBit (crcBit (crcBit (crcBit (crcBit (crcBit (r ^^^ b.toNat))))))))

/-- CRC-32 of IEEE 802.3: reflected, initial value and final complement of all ones. -/
def crc32 (bs : List Byte) : Word := w32 ((bs.foldl crcByte 0xFFFFFFFF) ^^^ 0xFFFFFFFF)

/-- CRC-32 of IEEE 802.3 over words, least significant byte first. -/
def crc32w (ws : List Word) : Word := crc32 (wordsBytes ws)

/-- One bit of a most-significant-bit-first CRC-32 register with polynomial `p`. -/
def crcMsbBit (p r : Nat) : Nat :=
  if 2 ^ 31 ≤ r then (r * 2 % 2 ^ 32) ^^^ p else r * 2

/-- One byte of a most-significant-bit-first CRC-32. -/
def crcMsbByte (p r : Nat) (b : Byte) : Nat :=
  let x := r ^^^ (b.toNat * 2 ^ 24)
  crcMsbBit p (crcMsbBit p (crcMsbBit p (crcMsbBit p (crcMsbBit p (crcMsbBit p (crcMsbBit p (crcMsbBit p x)))))))

/-- A most-significant-bit-first CRC-32 with polynomial, initial value and final exclusive-or. -/
def crcMsb (p init xor : Nat) (bs : List Byte) : Word := w32 ((bs.foldl (crcMsbByte p) init) ^^^ xor)

/-! ## SHA-256 -/

/-- Rotation of a 32-bit number to the right. -/
def rotr (n x : Nat) : Nat := (x >>> n) ||| (x * 2 ^ (32 - n) % 2 ^ 32)

/-- The largest r whose power e is at most `n`, one bit at a time from bit `k` down. -/
def rootGo (e n : Nat) : Nat → Nat → Nat
  | 0, r => r
  | k + 1, r => rootGo e n k (if (r + 2 ^ k) ^ e ≤ n then r + 2 ^ k else r)

/-- The primes up to 311: each is divided by none before it. -/
def shaPrimes : List Nat :=
  (List.range 310).foldl (fun ps i => if ps.all (fun p => (i + 2) % p != 0) then ps ++ [i + 2] else ps) []

/-- The first 32 bits behind the point of the e-th root of a number: SHA-256 takes its initial value and its round constants
from the primes so. -/
def rootBits (e p : Nat) : Nat := rootGo e (p * 2 ^ (32 * e)) 40 0 % 2 ^ 32

/-- The round constants: cube roots of the first 64 primes. -/
def shaRounds : List Nat := shaPrimes.map (rootBits 3)

/-- The initial chaining value: square roots of the first eight primes. -/
def shaStart : List Nat := (shaPrimes.take 8).map (rootBits 2)

/-- The message schedule: `n` more words after the list, newest last. -/
def shaExpand : Nat → List Nat → List Nat
  | 0, w => w
  | n + 1, w =>
    let i := w.length
    let x := w.getD (i - 15) 0
    let y := w.getD (i - 2) 0
    let s0 := rotr 7 x ^^^ rotr 18 x ^^^ (x >>> 3)
    let s1 := rotr 17 y ^^^ rotr 19 y ^^^ (y >>> 10)
    shaExpand n (w ++ [(w.getD (i - 16) 0 + s0 + w.getD (i - 7) 0 + s1) % 2 ^ 32])

/-- One round: the eight working variables, the round constant and the schedule word. -/
def shaRound (v : List Nat) (kw : Nat × Nat) : List Nat :=
  match v with
  | [a, b, c, d, e, f, g, h] =>
    let s1 := rotr 6 e ^^^ rotr 11 e ^^^ rotr 25 e
    let ch := (e &&& f) ^^^ ((e ^^^ 0xFFFFFFFF) &&& g)
    let t1 := h + s1 + ch + kw.1 + kw.2
    let s0 := rotr 2 a ^^^ rotr 13 a ^^^ rotr 22 a
    let mj := (a &&& b) ^^^ (a &&& c) ^^^ (b &&& c)
    [(t1 + s0 + mj) % 2 ^ 32, a, b, c, (d + t1) % 2 ^ 32, e, f, g]
  | v => v

/-- A big-endian number read from bytes. -/
def beNat (bs : List Byte) : Nat := bs.foldl (fun n b => n * 256 + b.toNat) 0

/-- The compression of one block of 64 bytes into the chaining value. -/
def shaBlock (hv : List Nat) (blk : List Byte) : List Nat :=
  let w := (List.range 16).map (fun i => beNat ((blk.drop (4 * i)).take 4))
  let w := shaExpand 48 w
  let v := (shaRounds.zip w).foldl shaRound hv
  (hv.zip v).map (fun p => (p.1 + p.2) % 2 ^ 32)

/-- The blocks of a padded message folded into the chaining value. -/
def shaBlocks : Nat → List Byte → List Nat → List Nat
  | 0, _, hv => hv
  | n + 1, bs, hv => shaBlocks n (bs.drop 64) (shaBlock hv (bs.take 64))

/-- SHA-256 of a byte string, as a big-endian number. -/
def sha256 (bs : List Byte) : Nat :=
  let n := bs.length
  let padLen := (119 - n % 64) % 64
  let lenBytes := (List.range 8).map (fun i => BitVec.ofNat 8 (8 * n / 2 ^ (8 * (7 - i))))
  let msg := bs ++ [0x80#8] ++ List.replicate padLen 0#8 ++ lenBytes
  let hv := shaBlocks (msg.length / 64) msg shaStart
  hv.foldl (fun a x => a * 2 ^ 32 + x) 0

/-! ## ECDSA P-256 -/

/-- The field prime of P-256. -/
def p256P : Nat := 0xffffffff00000001000000000000000000000000ffffffffffffffffffffffff
/-- The group order of P-256. -/
def p256N : Nat := 0xffffffff00000000ffffffffffffffffbce6faada7179e84f3b9cac2fc632551
/-- The coefficient b of P-256; a is −3. -/
def p256B : Nat := 0x5ac635d8aa3a93e7b3ebbd55769886bc651d06b0cc53b0f63bce3c3e27d2604b
/-- The base point of P-256. -/
def p256G : Nat × Nat :=
  (0x6b17d1f2e12c4247f8bce6e563a440f277037d812deb33a0f4a13945d898c296,
   0x4fe342e2fe1a7f9b8ee7eb4a7c0f9e162bce33576b315ececbb6406837bf51f5)

/-- Modular power, one exponent bit at a time. -/
def modPow (m : Nat) : Nat → Nat → Nat → Nat → Nat
  | 0, _, _, acc => acc
  | k + 1, b, e, acc => modPow m k (b * b % m) (e / 2) (if e % 2 = 1 then acc * b % m else acc)

/-- Inverse modulo a prime. -/
def modInv (m a : Nat) : Nat := modPow m 256 (a % m) (m - 2) 1

/-- Sum of two points; `none` is the point at infinity. -/
def ecAdd (p q : Option (Nat × Nat)) : Option (Nat × Nat) :=
  match p, q with
  | none, q => q
  | p, none => p
  | some (x1, y1), some (x2, y2) =>
    let m := p256P
    if x1 = x2 ∧ (y1 + y2) % m = 0 then none
    else
      let l := if x1 = x2 then (3 * x1 * x1 + (m - 3)) % m * modInv m (2 * y1) % m
        else (y2 + m - y1) % m * modInv m (x2 + m - x1) % m
      let x3 := (l * l + 2 * m - x1 - x2) % m
      some (x3, (l * ((x1 + m - x3) % m) + m - y1) % m)

/-- Scalar multiple, one bit at a time. -/
def ecMul : Nat → Nat → Option (Nat × Nat) → Option (Nat × Nat) → Option (Nat × Nat)
  | 0, _, _, acc => acc
  | k + 1, n, p, acc => ecMul k (n / 2) (ecAdd p p) (if n % 2 = 1 then ecAdd acc p else acc)

/-- ECDSA P-256: the signature (r, s) of a digest verifies under a public key. -/
def ecdsaVerify (qx qy digest r s : Nat) : Bool :=
  let m := p256P
  let onCurve := decide (qx < m ∧ qy < m ∧ qy * qy % m = (qx * qx % m * qx + (m - 3) * qx + p256B) % m)
  if onCurve && decide (0 < r ∧ r < p256N ∧ 0 < s ∧ s < p256N) then
    let w := modInv p256N s
    let p := ecAdd (ecMul 256 (digest * w % p256N) (some p256G) none)
      (ecMul 256 (r * w % p256N) (some (qx, qy)) none)
    match p with
    | some (x, _) => decide (x % p256N = r)
    | none => false
  else false

end Sys2Proof.Machine
end

