-- ==== Sys2Proof/Machine/Cmd.lean ====
section
/-! DEFINITION. Command packets and replies, their checks in the order of R485, the command queue, ACCEPTED commands
and final replies (R482 to R495, R501). -/

namespace Sys2Proof.Machine

/-! ## Status codes (R486) -/

abbrev stOK : Nat := 1
abbrev stACCEPTED : Nat := 2
abbrev stBUSY : Nat := 3
abbrev stWRONG_STATE : Nat := 4
abbrev stINVALID_ARG : Nat := 5
abbrev stNO_AUTHORITY : Nat := 6
abbrev stNOT_FOUND : Nat := 7
abbrev stFULL : Nat := 8
abbrev stTIMEOUT : Nat := 9
abbrev stBAD_CRC : Nat := 10
abbrev stBAD_OPCODE : Nat := 11
abbrev stBAD_LENGTH : Nat := 12
abbrev stBAD_VERSION : Nat := 13
abbrev stMEM_ERR : Nat := 22
abbrev stIO_ERR : Nat := 24
abbrev stUNSUPPORTED : Nat := 25

/-! ## The opcode tables (R496) -/

/-- What the opcode tables say of an opcode before its own rules: the lengths LEN may have, the TARGETs it takes
(`targets = 0`: TARGET must be 0), whether STANDBY and RESYNC accept it, whether it is a long command and whether it
changes configuration twin-wide (R494, R495). -/
structure OpInfo where
  op : Nat
  lenMin : Nat
  lenMax : Nat
  targets : Nat
  standby : Bool
  long : Bool
  twin : Bool
  deriving DecidableEq, Repr

/-- The opcodes 0x01xx to 0x05xx. -/
def opTableA : List OpInfo := [
  ⟨0x0101, 0, 0, 0, true, false, false⟩, ⟨0x0102, 0, 0, 4, false, false, false⟩,
  ⟨0x0103, 0, 0, 2, false, false, false⟩, ⟨0x0104, 2, 2, 0, true, false, false⟩,
  ⟨0x0105, 3, 1026, 0, false, false, true⟩,
  ⟨0x0201, 2, 2, 0, false, false, false⟩, ⟨0x0202, 2, 4095, 0, false, false, false⟩,
  ⟨0x0203, 1, 1, 0, false, true, true⟩, ⟨0x0204, 0, 0, 0, true, false, false⟩,
  ⟨0x0205, 2, 2, 0, true, false, false⟩, ⟨0x0206, 3, 1026, 0, false, false, true⟩,
  ⟨0x0301, 0, 0, 32, false, false, false⟩, ⟨0x0302, 0, 0, 32, false, false, false⟩,
  ⟨0x0303, 0, 0, 32, false, false, false⟩, ⟨0x0304, 0, 0, 32, false, false, false⟩,
  ⟨0x0305, 1, 1, 32, false, false, false⟩, ⟨0x0306, 1, 1, 32, false, false, false⟩,
  ⟨0x0307, 5, 4095, 32, false, false, true⟩, ⟨0x0308, 0, 0, 32, true, false, false⟩,
  ⟨0x0401, 2, 4095, 32, false, false, false⟩, ⟨0x0402, 0, 0, 32, false, false, false⟩,
  ⟨0x0403, 13, 193, 16, false, true, false⟩, ⟨0x0404, 0, 0, 16, false, false, false⟩,
  ⟨0x0501, 9, 513, 0, false, false, false⟩, ⟨0x0502, 3, 3, 0, false, false, false⟩,
  ⟨0x0503, 2, 2, 0, false, false, false⟩, ⟨0x0504, 2, 2, 0, true, false, false⟩]

/-- The opcodes 0x06xx to 0x0Fxx. -/
def opTableB : List OpInfo := [
  ⟨0x0601, 2, 66, 64, false, false, false⟩, ⟨0x0602, 0, 0, 64, true, false, false⟩,
  ⟨0x0701, 0, 0, 0, true, false, false⟩, ⟨0x0702, 0, 0, 2, true, false, false⟩,
  ⟨0x0703, 2, 382, 0, false, false, false⟩,
  ⟨0x0801, 16, 16, 0, false, false, false⟩, ⟨0x0802, 1, 1, 256, true, false, false⟩,
  ⟨0x0803, 0, 0, 256, false, false, false⟩, ⟨0x0804, 5, 4095, 0, false, false, false⟩,
  ⟨0x0805, 2, 2, 0, true, false, false⟩,
  ⟨0x0901, 20, 4095, 64, false, false, true⟩, ⟨0x0902, 16, 4095, 32, false, false, true⟩,
  ⟨0x0903, 0, 0, 64, false, false, false⟩, ⟨0x0904, 0, 0, 64, false, false, false⟩,
  ⟨0x0905, 2, 4095, 0, false, false, false⟩, ⟨0x0906, 2, 2, 0, true, false, false⟩,
  ⟨0x0A01, 0, 0, 0, true, false, false⟩, ⟨0x0A02, 0, 0, 0, true, false, false⟩,
  ⟨0x0A03, 0, 0, 0, true, false, false⟩, ⟨0x0A04, 1, 1, 0, true, false, false⟩,
  ⟨0x0A05, 2, 2, 0, true, false, false⟩,
  ⟨0x0B01, 2, 4095, 0, true, false, false⟩, ⟨0x0B02, 2, 2, 0, true, true, false⟩,
  ⟨0x0B03, 0, 0, 0, false, false, false⟩, ⟨0x0B04, 0, 0, 0, true, false, false⟩,
  ⟨0x0C01, 0, 0, 0, true, false, false⟩, ⟨0x0C02, 0, 0, 0, true, false, false⟩,
  ⟨0x0D01, 0, 0, 0, true, false, false⟩, ⟨0x0D02, 2, 2, 10, false, false, false⟩,
  ⟨0x0D03, 0, 0, 10, true, false, false⟩,
  ⟨0x0E01, 0, 0, 0, true, false, false⟩, ⟨0x0E02, 2, 2, 0, true, false, false⟩,
  ⟨0x0E03, 0, 0, 0, true, false, false⟩, ⟨0x0E04, 0, 0, 0, true, false, false⟩,
  ⟨0x0E05, 0, 0, 0, true, true, false⟩,
  ⟨0x0F01, 0, 364, 0, true, false, false⟩, ⟨0x0F02, 0, 0, 0, true, false, false⟩]

/-- The entry of an opcode; `none` for an opcode that is not defined. -/
def opInfo (op : Nat) : Option OpInfo := (opTableA ++ opTableB).find? (fun o => o.op == op)

/-- LEN fits the opcode, its counts included (R485 step 2, R496). -/
def lenOk (op : Nat) (pl : List Word) : Bool :=
  match opInfo op with
  | none => true
  | some o =>
    let n := pl.length
    decide (o.lenMin ≤ n ∧ n ≤ o.lenMax) &&
      (match op with
       | 0x0105 => n == 2 + wordAt pl 1
       | 0x0206 => n == 2 + wordAt pl 1
       | 0x0307 => (n - 1) % 4 == 0
       | 0x0403 => n == 1 + 12 * bits (wordAt pl 0) 11 8 || (n == 193 && bits (wordAt pl 0) 11 8 == 0)
       | 0x0501 => n == 1 + 8 * wordAt pl 0
       | 0x0601 => n == 2 + (if bits (wordAt pl 0) 31 30 = 1 then bits (wordAt pl 0) 6 0 else 0)
       | 0x0703 => n == 2 + (bits (wordAt pl 1) 10 0 + 3) / 4
       | 0x0804 => (n - 1) % 4 == 0
       | 0x0901 => n == 8 + 12 * (bits (wordAt pl 0) 27 24 + 1)
       | 0x0905 => n == 2 + (wordAt pl 1 + 1) / 2
       | 0x0B01 => n == 2 + (bits (wordAt pl 1) 16 0 + 3) / 4
       | _ => true)

/-! ## Packets and replies (R482 to R484) -/

/-- The words of a packet or reply: header with its CRC, then payload (R482, R483, R484). -/
def packet (op tag w2 : Word) (pl : List Word) : List Word :=
  let w0 := w32 (2 ^ 28 + pl.length % 4096 * 2 ^ 16 + op.toNat % 2 ^ 16)
  [w0, tag, w2, crc32w ([w0, tag, w2, 0] ++ pl)] ++ pl

/-- A reply's words (R483). -/
def replyWords (op : Nat) (tag : Word) (status detail : Nat) (pl : List Word) : List Word :=
  packet (w32 op) tag (w32 (detail % 2 ^ 16 * 2 ^ 16 + status % 2 ^ 16)) pl

/-- A count of CMD_STATS (R501); they saturate. -/
def Chip.stat (c : Chip) (i : Nat) : Chip :=
  let v := tabGet (fun _ => 0) c.hst.stats i
  { c with hst := { c.hst with stats := tabPut (fun _ => 0) i (min (v + 1) (2 ^ 32 - 1)) c.hst.stats } }

/-- The MAC of a command interface. -/
def Iface.mac : Iface → Nat
  | .mac1 => 1
  | _ => 0

/-- The reply cache of a MAC keeps the last 32 replies sent (R492). -/
def Chip.cacheReply (c : Chip) (m : Nat) (r : CachedReply) : Chip :=
  let l := tabGet (fun _ => []) c.hst.cache m
  { c with hst := { c.hst with cache := tabPut (fun _ => []) m ((r :: l).take 32) c.hst.cache } }

/-- Delivers a reply to its origin: PCIe queues the reply and its completion, UDP sends it and keeps it, SPI queues it
for READ, with SPI_RDY high (R470, R479, R488, R492, R493). -/
def Chip.deliver (c : Chip) (org : Origin) (ws : List Word) (final : Bool) : Chip :=
  match org.ifc with
  | .pcie =>
    if org.drop then c
    else if org.direct then c.emit (.reply .pcie ws)
    else
      let cp : Completion := ⟨ws.getD 0 0, ws.getD 1 0, ws.getD 2 0, ws.getD 3 0, final, decide (org.rspWords < ws.length), false,
        min ws.length org.rspWords, org.sqIdx, org.noIrq, ws.take org.rspWords, org.rspLo, org.rspHi⟩
      { c with hst := { c.hst with pendCpl := c.hst.pendCpl ++ [cp] } }
  | .spi =>
    let c := c.onlyIf c.hst.spiReplies.isEmpty (fun c => c.emit (.pin pinSPIRDY 0 true))
    let c := { c with hst := { c.hst with spiReplies := c.hst.spiReplies ++ [ws] } }
    if final then c else { c with hst := { c.hst with spiExec := false } }
  | i =>
    let c := c.emit (if org.direct then .reply i ws else .udp i.mac org.src.ip org.src.port (c.fld (HST_ETH_CFG__CMD_PORT i.mac)) (wordsBytes ws))
    if org.direct then c else c.cacheReply i.mac ⟨org.src, ws.getD 1 0, org.crc, c.now, ws⟩

/-- Sends a command's reply and counts its status (R501). -/
def Chip.reply (c : Chip) (k : Intake) (status detail : Nat) (pl : List Word) : Chip :=
  (c.stat (9 + status)).deliver k.org (replyWords k.op k.tag status detail pl) false

/-- A final reply to this origin waits for its DMA write, which precedes the COMPLETION event (R488). -/
def Origin.posted (o : Origin) : Bool := o.ifc == .pcie && !o.drop && !o.direct

/-- The final reply of an ACCEPTED command: a DMA write or datagram or SPI reply, the COMPLETION event with the
reply's header, and the end of the command (R488). -/
def Chip.finish (c : Chip) (l : LongCmd) (status detail : Nat) (pl : List Word) : Chip :=
  let ws := replyWords l.op l.tag status detail pl
  let c := { c with hst := { c.hst with longs := c.hst.longs.erase l } }
  let c := (c.stat (9 + status)).deliver l.org ws true
  if l.org.posted then c else c.hostEvent 3 (ws.take 4)

/-- What a command's own rules answer. `defer` keeps the command for a reply that waits for a boundary or a peer. -/
inductive Answer where
  | now (status detail : Nat) (payload : List Word)
  | accepted (arg : Nat)
  | defer
  deriving DecidableEq, Repr

/-- The answer OK without payload. -/
def ansOK : Answer := .now stOK 0 []
/-- INVALID_ARG at payload word i (R483). -/
def ansArg (i : Nat) : Answer := .now stINVALID_ARG i []
/-- WRONG_STATE. -/
def ansState : Answer := .now stWRONG_STATE 0 []
/-- BUSY. -/
def ansBusy : Answer := .now stBUSY 0 []

/-- A long command may start: fewer than 8 are in progress, and none of the same opcode unless the opcode's rules allow
it for another object (R488, R497). -/
def Chip.longFree (c : Chip) (op arg : Nat) : Bool :=
  decide (c.hst.longs.length < 8) &&
    !(c.hst.longs.any (fun l => l.op == op && (op != 0x0403 || l.arg == arg)))

/-- The waiting packet is the command that a row names. -/
def Intake.is (k : Intake) (op : Nat) (ifc : Iface) (tag target : Word) (pl : List Word) : Bool :=
  decide (k.op = op ∧ k.org.ifc = ifc ∧ k.tag = tag ∧ k.target = target ∧ k.payload = pl ∧ k.kind = .command)

/-- Takes a matching command out of the intake: the first of its interface with these words (R487). A command that no
interface took in stands for one that arrives and is executed in one step; it is counted as received. -/
def Chip.takeIntake (c : Chip) (op : Nat) (ifc : Iface) (tag target : Word) (pl : List Word) : Chip × Intake :=
  match c.hst.intake.find? (fun k => k.is op ifc tag target pl) with
  | some k => ({ c with hst := { c.hst with intake := c.hst.intake.erase k } }, k)
  | none => (c.stat ifc.idx, ⟨op, tag, target, pl, ⟨ifc, 0, 0, 0, 65535, false, false, true, ⟨0, 0, 0⟩, 0⟩, .command⟩)

/-- It is a command's turn: no packet of its interface waits before it (R470, R487). -/
def Chip.intakeTurn (c : Chip) (op : Nat) (ifc : Iface) (tag target : Word) (pl : List Word) : Bool :=
  match c.hst.intake.find? (fun k => k.org.ifc == ifc) with
  | some k => k.is op ifc tag target pl
  | none => true

/-- The completion of a command that a failed DMA read has abandoned: DMA_FAIL with status 0 (R470). -/
def Chip.failedFetch (c : Chip) (o : Origin) : Chip :=
  if o.drop then c
  else { c with hst := { c.hst with pendCpl := c.hst.pendCpl ++
    [(⟨0, 0, 0, 0, false, false, true, 0, o.sqIdx, o.noIrq, [], o.rspLo, o.rspHi⟩ : Completion)] } }

/-- A waiting packet that is no command gets its answer. -/
def Chip.answerWaiting (c : Chip) (k : Intake) : Chip := match k.kind with
  | .command => c
  | .refused st => c.reply k st 0 []
  | .dmaFail => c.failedFetch k.org

/-- The packets that wait in front of an interface's next command are answered (R470, R487). -/
def Chip.intakeFlush (c : Chip) (ifc : Iface) : Nat → Chip
  | 0 => c
  | n + 1 =>
    match c.hst.intake.find? (fun k => k.org.ifc == ifc) with
    | none => c
    | some k =>
      if k.kind = .command then c
      else (({ c with hst := { c.hst with intake := c.hst.intake.erase k } }).answerWaiting k).intakeFlush ifc n

/-- A packet that is no command enters its interface's queue and is answered when its turn comes. -/
def Chip.waitAnswer (c : Chip) (k : Intake) : Chip :=
  if c.hst.intake.any (fun x => x.org.ifc == k.org.ifc) then { c with hst := { c.hst with intake := c.hst.intake ++ [k] } }
  else c.answerWaiting k

/-- A reply of `n` words is too long for the interface it would go to (R491). -/
def replyTooLong (i : Iface) (n : Nat) : Bool := (i == .mac0 || i == .mac1) && decide (368 < 4 + n)

/-- A register is one the ledger names as configuration; the Lockkeeper's never are (R429, R436, R495). -/
def ledgerNamed (off : Nat) : Bool := Config.ledgerNames off && !decide (LKP_STATUS ≤ off ∧ off < AQU_CFG)

/-- The command changes configuration twin-wide: of REG_WRITE, one that writes a register the ledger names as
configuration (R436, R495). -/
def Intake.twinWide (k : Intake) (o : OpInfo) : Bool :=
  o.twin && (k.op != 0x0105 ||
    (List.range (wordAt k.payload 1)).any (fun i =>
      ledgerNamed (wordAt k.payload 0 + 4 * i)))

/-- Carries out the opcode's own rules after the checks 2, 5 and 6 of R485 and forms the reply. A command turned away has
no effect; a twin-wide change in role PRIMARY whose checks pass is answered ACCEPTED, takes effect on both devices at the
next boundary, and ends when the standby has acknowledged it (R436, R495); `arg` of such a command is the pound whose
commit carries the change. -/
def Chip.runCommand (c : Chip) (o : OpInfo) (k : Intake) (body : Chip → Intake → Chip × Answer) : Chip :=
  if lenOk k.op k.payload = false then c.reply k stBAD_LENGTH 0 []
  else if (c.role = 2 ∨ c.role = 3) ∧ o.standby = false then c.reply k stNO_AUTHORITY 0 []
  else if (o.targets = 0 ∧ k.target.toNat ≠ 0) ∨ (0 < o.targets ∧ o.targets ≤ k.target.toNat) then
    c.reply k stINVALID_ARG 0xFFFF []
  else
    let r := body c k
    match r.2 with
    | .defer => r.1
    | .accepted arg =>
      if c.longFree k.op arg then
        let c := { r.1 with hst := { r.1.hst with longs := r.1.hst.longs ++ [(⟨k.op, k.tag, k.target, arg, k.org⟩ : LongCmd)] } }
        c.reply k stACCEPTED 0 []
      else c.reply k stBUSY 0 []
    | .now st d pl =>
      if replyTooLong k.org.ifc pl.length then c.reply k stINVALID_ARG (min 1 (k.payload.length - 1)) []
      else if c.role = 1 ∧ o.long = false ∧ k.twinWide o = true
          ∧ (st = stOK ∨ (st = stWRONG_STATE ∧ r.1.mem ≠ c.mem)) then
        if c.longFree k.op 0 then
          let c := { c with aqu := { c.aqu with changes := c.aqu.changes ++ [k] }, hst := { c.hst with
            longs := c.hst.longs ++ [(⟨k.op, k.tag, k.target, c.poundNum, k.org⟩ : LongCmd)] } }
          c.reply k stACCEPTED 0 []
        else c.reply k stBUSY 0 []
      else r.1.reply k st d pl

/-- A host command at tick `t`: under firmware its opcode's rules, if it is its turn; before firmware runs, the boot ROM serves the SPI
port with `rom`, answering every other opcode UNSUPPORTED, and the other interfaces do nothing (R487, R493, R509). -/
def Chip.command (c : Chip) (t op : Nat) (ifc : Iface) (tag target : Word) (pl : List Word)
    (rom : Option (Chip → Intake → Chip × Answer)) (body : Chip → Intake → Chip × Answer) : Chip :=
  let c := c.at t
  match c.boot.phase, opInfo op with
  | .run, some o =>
    if c.intakeTurn op ifc tag target pl then
      let r := c.takeIntake op ifc tag target pl
      (r.1.runCommand o r.2 body).intakeFlush ifc c.hst.intake.length
    else c
  | .rom, some o | .wait, some o =>
    if ifc = .spi then
      let r := c.takeIntake op ifc tag target pl
      match rom with
      | some b => r.1.runCommand { o with standby := true } r.2 b
      | none => r.1.reply r.2 stUNSUPPORTED 0 []
    else c
  | _, _ => c

/-- The meaning of a host command's row. -/
def State.command (s : State) (t op : Nat) (ifc : Iface) (tag target : Word) (pl : List Word)
    (body : Chip → Intake → Chip × Answer) : Host.Outcome State Fault Refusal :=
  s.act (fun c => c.command t op ifc tag target pl none body)

/-- The checks 1 to 4 of R485 on a packet that has arrived whole: the status of the first failure, or the command's
opcode, tag, target and payload. `crcAlways` says that a zero CRC word is checked too (R484). -/
def checkPacket (ws : List Word) (bytes : Nat) (crcAlways : Bool) : Nat × Nat × Word × Word × List Word :=
  let w0 := wordAt ws 0
  let op := bits w0 15 0
  let tag := ws.getD 1 0
  let target := w32 (bits (wordAt ws 2) 15 0)
  let pl := ws.drop 4
  let crc := ws.getD 3 0
  let st :=
    if bits w0 31 28 ≠ 1 then stBAD_VERSION
    else if bytes ≠ 16 + 4 * bits w0 27 16 ∨ lenOk op pl = false then stBAD_LENGTH
    else if (crcAlways = true ∨ crc ≠ 0) ∧ crc ≠ crc32w ((ws.take 3) ++ [0] ++ pl) then stBAD_CRC
    else if opInfo op = none then stBAD_OPCODE
    else stOK
  (st, op, tag, target, pl)

/-- A packet enters the command queue of its interface; one that a check refuses is answered when the packets before it are
done (R485, R487). -/
def Chip.receive (c : Chip) (ws : List Word) (bytes : Nat) (crcAlways : Bool) (org : Origin) : Chip :=
  let p := checkPacket ws bytes crcAlways
  let k : Intake := ⟨p.2.1, p.2.2.1, p.2.2.2.1, p.2.2.2.2, { org with crc := ws.getD 3 0 },
    if p.1 = stOK then .command else .refused p.1⟩
  let c := c.stat org.ifc.idx
  if p.1 = stOK then { c with hst := { c.hst with intake := c.hst.intake ++ [k] } } else c.waitAnswer k

end Sys2Proof.Machine
end

