-- ==== Sys2Proof/Machine/Tim.lean ====
section
/-! DEFINITION. The meanings of the time-base commands: PTP servos, TB3 selection, snapshots, user bases, the Tally
(R271 to R291). -/

namespace Sys2Proof.Machine

/-- A Sync of domain d is within the 128 per second the device accepts (R280); the second is one of TB0. -/
def Chip.syncAllowed (c : Chip) (d : Nat) : Bool :=
  let x := c.dom d
  decide (x.secNo ≠ c.now / 800000000 ∨ x.secCnt < 128)

/-- A domain listens to messages with this head: its MAC, its domain number, the majorSdoId of its profile (0 of IEEE 1588,
1 of IEEE 802.1AS, whose domain numbers end at 127), its transport, and at most one tag (R280; the two majorSdoId values
are PRESUMED from the standards the spec names, log entry 16). -/
def Chip.ptpHeard (c : Chip) (d : Nat) (h : PtpHead) : Bool :=
  let as := c.fld (TIM_DOM_CFG__PROFILE d) == 2
  c.flag (TIM_DOM_CFG__EN d) && h.mac.val == c.fld (TIM_DOM_CFG__MAC d) && h.domain.val == c.fld (TIM_DOM_CFG__DOMAIN_NUM d)
    && h.sdo.val == b2n as && decide (h.tags ≤ 1)
    && (if as then !h.udp && decide (h.domain.val ≤ 127) else h.udp == c.flag (TIM_DOM_CFG__UDP d))

/-- meanPathDelay of a domain in units of 2⁻¹⁶ ns: the moving average of the last 2^PD_AVG E2E measurements, or the
peer delay of its MAC (R281). -/
def Chip.meanPath (c : Chip) (d : Nat) : Int :=
  if c.fld (TIM_DOM_CFG__PROFILE d) = 0 then
    let l := (c.dom d).delays.take (2 ^ c.fld (TIM_DOM_CFG__PD_AVG d))
    if l = [] then 0 else l.foldl (· + ·) 0 / (l.length : Int)
  else tabGet (fun _ => 0) c.tim.peer (c.fld (TIM_DOM_CFG__MAC d))

/-- The offset o of a Sync (R281), in units of 2⁻¹⁶ ns. -/
def Chip.syncOffset (c : Chip) (d : Nat) (y : PtpSync) : Int :=
  let m := c.fld (TIM_DOM_CFG__MAC d)
  let t2 := (c.dom d).at c.now + c.fldI (TIM_LAT__RX_LAT m) * 65536
  t2 - y.t1 - y.corr - c.meanPath d - c.fldI ⟨TIM_DOM_ASYM d, 31, 0⟩ * 65536

/-- The servo's act on an offset (R281): the domain, and whether it stepped. -/
def Chip.servo (c : Chip) (d : Nat) (o : Int) : Chip × Bool :=
  let x := c.dom d
  let v := x.at c.now
  if (c.domState d = 2 ∧ x.stepped = false) ∨ c.reg (TIM_DOM_STEP d) * 65536 < o.natAbs then
    let c := c.count (TIM_DOM_CNT__STEP_CNT d) 1
    (c.setDom d { (x.set c.now (v - o) x.f) with stepped := true }, true)
  else
    let ons : Rat := (o : Rat) / 65536
    let i := x.i + fRat (c.reg (TIM_DOM_KI d)) * ons
    let f := -(fRat (c.reg (TIM_DOM_KP d)) * ons + i)
    let lim := if f < -200000 then -200000 else if 200000 < f then 200000 else f
    let c := if lim ≠ f then c.raise (TIM_DOM_STAT__RATE_SAT d) else c
    let c := c.setFldI ⟨TIM_DOM_RATE d, 31, 0⟩ lim.floor
    (c.setDom d { (x.set c.now v lim) with i := i }, false)

/-- The domain's state after a Sync of offset `o` (R282). -/
def Chip.syncState (c : Chip) (d : Nat) (o : Int) (step gmNew : Bool) : Chip :=
  let lock := c.fld (TIM_DOM_CFG2__LOCK_NS d) * 65536
  let x := c.dom d
  let run := if o.natAbs ≤ lock then x.lockRun + 1 else 0
  if c.domState d = 2 then
    if 16 ≤ run then c.setDomState d 3 else c.setDom d { x with lockRun := run }
  else if c.domState d = 3 ∧ (4 * lock < o.natAbs ∨ step = true ∨ gmNew = true) then
    c.setDomState d 2
  else c

/-- PTP_SYNC_RECEIVED (R281, R282): the count of the second, the state the Sync finds or leads to, the offset, the
servo, the state after it, and TB3. -/
def Chip.ptpSync (c : Chip) (d : Nat) (y : PtpSync) : Chip :=
  if c.ptpHeard d y.head = false then c
  else if c.syncAllowed d = false then c.count (TIM_DOM_CNT__DISC_CNT d) 1
  else
    let before := c.tb3
    let x := c.dom d
    let sec := c.now / 800000000
    let x := { x with secNo := sec, secCnt := (if x.secNo = sec then x.secCnt else 0) + 1,
                      lastSync := c.now,
                      interval := (if 0 ≤ y.logInt then 800000000 * 2 ^ y.logInt.toNat
                        else 800000000 / 2 ^ (-y.logInt).toNat) }
    let gmNew := decide (x.gm ≠ y.gm)
    let c := c.setDom d { x with gm := y.gm }
    let c := ((c.count (TIM_DOM_CNT__SYNC_RX d) 1).setReg (TIM_DOM_GM_LO d) (y.gm.toNat / 2 ^ 32)).setReg
      (TIM_DOM_GM_HI d) y.gm.toNat
    let c := c.setFld (TIM_DOM_UTC__UTC_OFS d) y.utc
    let c := if c.domState d = 1 ∨ c.domState d = 4 then c.setDomState d 2 else c
    let o := c.syncOffset d y
    let c := c.setFldI ⟨TIM_DOM_OFS d, 31, 0⟩ (clampI (-2147483648) 2147483647 (nsOf o))
    let r := c.servo d o
    let c := r.1.syncState d o r.2 gmNew
    c.tb3Evaluate before (fun k => decide (k = d) && r.2)

/-- A Sync arrives (R281). -/
def execPtpSyncReceived (t : Nat) (d : Fin 2) (y : PtpSync) (s : State) : Host.Outcome State Fault Refusal :=
  s.event t (fun c => c.ptpSync d.val y)

/-- The chip with the peer delay of a MAC replaced. -/
def Chip.setPeer (c : Chip) (m : Nat) (v : Int) : Chip :=
  { c with tim := { c.tim with peer := tabPut (fun _ => 0) m v c.tim.peer } }

/-- PATH of both domains: the meanPathDelay of each in ns (R281, R291). -/
def Chip.pathRefresh (c : Chip) : Chip :=
  c.each [0, 1] (fun c d => c.setFldI ⟨TIM_DOM_PATH d, 31, 0⟩ (nsOf (c.meanPath d)))

/-- DELAY_RESP_RECEIVED: a new path-delay measurement, in units of 2⁻¹⁶ ns, with the request interval the master asks for:
E2E keeps the last 128, as many as PD_AVG can average; a peer delay is its MAC's (R280, R281). -/
def Chip.delayResp (c : Chip) (d : Nat) (y : PtpDelay) : Chip :=
  if c.ptpHeard d y.head = false then c
  else
    let x := { c.dom d with reqLog := if y.logReq.isSome then y.logReq else (c.dom d).reqLog }
    let c := if c.fld (TIM_DOM_CFG__PROFILE d) = 0 then c.setDom d { x with delays := (y.delay :: x.delays).take 128 }
      else (c.setDom d x).setPeer (c.fld (TIM_DOM_CFG__MAC d)) y.delay
    c.pathRefresh

/-- A delay response yields a new path delay (R281). -/
def execDelayRespReceived (t : Nat) (d : Fin 2) (y : PtpDelay) (s : State) : Host.Outcome State Fault Refusal :=
  s.event t (fun c => c.delayResp d.val y)

/-- A Pdelay_Req with this head is one of an enabled domain that runs a peer-delay profile on its MAC (R280). -/
def Chip.macPeer (c : Chip) (h : PtpHead) : Bool :=
  [0, 1].any (fun d => c.ptpHeard d h && (c.fld (TIM_DOM_CFG__PROFILE d) == 1 || c.fld (TIM_DOM_CFG__PROFILE d) == 2))

/-- A Pdelay_Req on a P2P or 802.1AS MAC is answered with Pdelay_Resp (kind 3) and its Follow_Up (kind 10) (R280). -/
def execPdelayReqReceived (t : Nat) (h : PtpHead) (seq : Word) (s : State) : Host.Outcome State Fault Refusal :=
  s.event t (fun c =>
    if c.macPeer h then (c.emit (.ptp h.mac.val 3 seq)).emit (.ptp h.mac.val 10 seq) else c)

/-- The ticks between a domain's own requests: the larger of LOG_DREQ and the interval the master asks for, log₂ s (R291). -/
def Chip.reqTicks (c : Chip) (d : Nat) : Nat :=
  let own := c.fldI (TIM_DOM_CFG__LOG_DREQ d)
  let k := match (c.dom d).reqLog with
    | some l => max own l
    | none => own
  if 0 ≤ k then 800000000 * 2 ^ k.toNat else 800000000 / 2 ^ (-k).toNat

/-- The domain's own Delay_Req (kind 1) or Pdelay_Req (kind 2) leaves when the interval since its last one has passed,
under the next sequence number (R280, R291). -/
def Chip.delayReq (c : Chip) (d : Nat) : Chip :=
  let x := c.dom d
  let due := match x.reqT with
    | some t => decide (t + c.reqTicks d ≤ c.now)
    | none => true
  if c.flag (TIM_DOM_CFG__EN d) && due then
    (c.setDom d { x with reqT := some c.now, reqSeq := (x.reqSeq + 1) % 2 ^ 16 }).emit
      (.ptp (c.fld (TIM_DOM_CFG__MAC d)) (if c.fld (TIM_DOM_CFG__PROFILE d) = 0 then 1 else 2) (w32 x.reqSeq))
  else c

/-- The interval of a domain's own requests expires (R280). -/
def execDelayReqInterval (t : Nat) (d : Fin 2) (s : State) : Host.Outcome State Fault Refusal :=
  s.event t (fun c => c.delayReq d.val)

/-- The ticks without a Sync after which a domain goes to HOLDOVER (R282). -/
def Chip.syncTmo (c : Chip) (d : Nat) : Nat := max 2 (c.fld (TIM_DOM_CFG__SYNC_TMO d)) * (c.dom d).interval

/-- No Sync for SYNC_TMO intervals: HOLDOVER, keeping the last f (R282). -/
def execSyncTimeout (t : Nat) (d : Fin 2) (s : State) : Host.Outcome State Fault Refusal :=
  s.event t (fun c =>
    if (c.domState d.val = 2 ∨ c.domState d.val = 3) ∧ (c.dom d.val).lastSync + c.syncTmo d.val ≤ c.now then
      (c.setDomState d.val 4).tb3Evaluate c.tb3 (fun _ => false)
    else c)

/-- HOLD_LIM seconds in HOLDOVER have passed: HOLD_EXP, and the domain is not usable (R282). -/
def execHoldLimExpiry (t : Nat) (d : Fin 2) (s : State) : Host.Outcome State Fault Refusal :=
  s.event t (fun c =>
    if c.domState d.val = 4
        ∧ (c.dom d.val).holdStart + c.fld (TIM_DOM_CFG2__HOLD_LIM d.val) * 800000000 ≤ c.now then
      (c.raise (TIM_DOM_STAT__HOLD_EXP d.val)).tb3Evaluate c.tb3 (fun _ => false)
    else c)

/-- The revert delay has passed: the choice of TB3 is made again (R284 item 3). -/
def execRevertTimer (t : Nat) (s : State) : Host.Outcome State Fault Refusal :=
  s.event t (fun c => c.tb3Evaluate c.tb3 (fun _ => false))

/-- One µs of slew: CORR moves toward 0 by min(|CORR|, SLEW) units of 2⁻¹⁶ ns (R286). -/
def Chip.corrSlew (c : Chip) : Chip :=
  let v := c.tim.corr
  let n : Int := min v.natAbs (c.fld TIM_SEL_CFG__SLEW)
  { c with tim := { c.tim with corr := if 0 < v then v - n else v + n } }

/-- Each µs the TB3 correction moves toward 0 (R286). -/
def execCorrSlew (t : Nat) (s : State) : Host.Outcome State Fault Refusal := s.event t Chip.corrSlew

/-- A copy of all eight bases in one tick, and its count (R278). -/
def Chip.snapBases (c : Chip) : Chip :=
  let ws := c.allBases
  let c := c.each (List.range 19) (fun c i => c.setReg (TIM_SNAP i) (wordAt ws i))
  c.setFld TIM_SNAP_CTL__SEQ (c.fld TIM_SNAP_CTL__SEQ + 1)

/-- A write of TIM_SNAP_CTL.SNAP (R278). -/
def execSnap (t : Nat) (ifc : Iface) (s : State) : Host.Outcome State Fault Refusal := s.access t ifc Chip.snapBases

/-- The write would slave a user base to itself, or both to each other (R276). -/
def Chip.userLoop (c : Chip) (u : Nat) (v : Nat) : Bool :=
  let src := bits v 26 24
  v.testBit 31 && (src == 6 + u
    || (src == 7 - u && c.flag (TIM_USER_CFG__SLAVE (1 - u)) && c.fld (TIM_USER_CFG__SRC (1 - u)) == 6 + u))

/-- A write of TIM_USER_CFG_u: mode and source take effect in this tick; a FREE base goes on from the value it had, a
base slaved to TB4 starts its count from pound number × P + phase (R276). -/
def Chip.writeUserCfg (c : Chip) (u v : Nat) : Chip :=
  if c.userLoop u v then c.raise TIM_STATUS__CFG_REJ
  else
    let old : Int := if c.flag (TIM_USER_CFG__SLAVE u) then (c.userVal 2 u : Int) * 65536 else c.userFree u
    let x : UserBase := ⟨old, c.now, c.poundNum * c.P + c.phase, (c.user u).ofs⟩
    ((c.setReg (TIM_USER_CFG u) (v &&& 0x87FFFFFF)).setUser u x).raise TIM_INT_STATUS__USER_STEP

/-- A write of TIM_USER_CFG_u (R276). -/
def execTimUserCfgWrite (t : Nat) (ifc : Iface) (u : Fin 2) (v : Word) (s : State) :
    Host.Outcome State Fault Refusal :=
  s.access t ifc (fun c => c.writeUserCfg u.val v.toNat)

/-- A write of TIM_USER_OFS_HI_u applies the whole offset; a FREE base takes it as its value (R276). -/
def Chip.writeUserOfs (c : Chip) (u v : Nat) : Chip :=
  let c := c.setReg (TIM_USER_OFS_HI u) v
  let x := { c.user u with ofs := c.userOfs u }
  let c := c.setUser u (if c.flag (TIM_USER_CFG__SLAVE u) then x
    else { x with v0 := (c.userOfs u : Int) * 65536, t0 := c.now })
  c.raise TIM_INT_STATUS__USER_STEP

/-- A write of TIM_USER_OFS_HI_u (R276). -/
def execTimUserOfsHiWrite (t : Nat) (ifc : Iface) (u : Fin 2) (v : Word) (s : State) :
    Host.Outcome State Fault Refusal :=
  s.access t ifc (fun c => c.writeUserOfs u.val v.toNat)

/-- A read of a base's lowest word: the interface's snapshot takes the whole base (R9, R10, R277). -/
def Chip.readBase (c : Chip) (i : Iface) (k : Nat) : Chip × Word :=
  let ws := c.baseWords k
  let c := if 1 ≤ k ∧ k ≤ 3 then c.setSnap i { c.snap i with wide := ws.drop 1 }
    else c.setSnap i { c.snap i with hi := ws.getD 1 0 }
  (c, ws.getD 0 0)

/-- A read of base k (R277). -/
def execTbRead (t : Nat) (ifc : Iface) (k : Fin 8) (s : State) : Host.Outcome State Fault Refusal :=
  s.access t ifc (fun c => Chip.answer (c.readBase ifc k.val) ifc)

/-- The Tally entry of a stamp (R288): words at 0x00 to 0x0C; an aborted frame has stamp words 0. -/
def Chip.tallyEntry (c : Chip) (q : StampReq) (aborted : Bool) : List Word :=
  let w0 := w32 (q.id % 2 ^ 16 * 2 ^ 16 + 2 ^ 7 + b2n aborted * 2 ^ 6 + q.base % 4 * 2 ^ 4 + q.mac % 2)
  let lat := c.fldI (TIM_LAT__TX_LAT q.mac)
  let ns : Int := (match q.base with
    | 0 => ((tb0Of c.now : Nat) : Int)
    | 1 => nsOf ((c.dom 0).at c.now)
    | _ => nsOf ((c.dom 1).at c.now)) + lat
  let sec := (ns / 1000000000).toNat
  if aborted then [w0, 0, 0, 0]
  else [w0, w32 (ns % 1000000000).toNat, w32 sec, w32 (sec / 2 ^ 32 % 2 ^ 16)]

/-- The Tally with a stamp taken at `now`: behind the others, but of two stamps of one tick MAC 0's stands first (R289). -/
def Tim.tallyWith (x : Tim) (now : Nat) (ws : List Word) : List (List Word) :=
  match x.tally.getLast? with
  | some e =>
    if x.tallyT = now ∧ wordAt ws 0 % 2 = 0 ∧ wordAt e 0 % 2 = 1 then x.tally.dropLast ++ [ws, e] else x.tally ++ [ws]
  | none => [ws]

/-- A stamp is appended to the Tally, or the last one dropped when its 32 entries are full (R288, R289, R290). -/
def Chip.tallyPut (c : Chip) (ws : List Word) : Chip :=
  let l := c.tim.tallyWith c.now ws
  let c := if 32 < l.length then
      ((c.raise TIM_TALLY_STAT__OVF).count TIM_TALLY_DROP__DROP_CNT 1).raise TIM_INT_STATUS__TALLY_OVF
    else if c.tim.tally = [] then c.raise TIM_INT_STATUS__TALLY_NE else c
  { c with tim := { c.tim with tally := l.take 32, tallyT := if 32 < l.length then c.tim.tallyT else c.now } }

/-- The oldest stamped frame of MAC m crosses the stamp point, or is aborted before it (R288). -/
def Chip.frameStamp (c : Chip) (m : Nat) (aborted : Bool) : Chip :=
  match c.tim.stamps.find? (fun q => q.mac == m) with
  | none => c
  | some q =>
    let c := { c with tim := { c.tim with stamps := c.tim.stamps.erase q } }
    c.tallyPut (c.tallyEntry q aborted)

/-- A stamped frame crosses the stamp point (R288, R289). -/
def execFrameStamp (t : Nat) (m : Fin 2) (aborted : Bool) (s : State) : Host.Outcome State Fault Refusal :=
  s.event t (fun c => c.frameStamp m.val aborted)

/-- A read of TIM_TALLY_W0 removes the head entry into the snapshot; an empty Tally gives the idle entry (R290). -/
def Chip.tallyRead (c : Chip) (i : Iface) : Chip × Word :=
  match c.tim.tally with
  | [] => (c.setSnap i { c.snap i with tally := [0, 0, 0] }, 0)
  | e :: rest =>
    let c := { c with tim := { c.tim with tally := rest } }
    (c.setSnap i { c.snap i with tally := e.drop 1 }, e.getD 0 0)

/-- A read of TIM_TALLY_W0 (R290). -/
def execTimTallyW0Read (t : Nat) (ifc : Iface) (s : State) : Host.Outcome State Fault Refusal :=
  s.access t ifc (fun c => Chip.answer (c.tallyRead ifc) ifc)

end Sys2Proof.Machine
end

