-- ==== Sys2Proof/Machine/Hst.lean ====
section
/-! DEFINITION. The meanings of the host interfaces' own commands: rings, completions, interrupt vectors, UDP and SPI
framing, Ethernet frames, ARP, MDIO and PCIe link events (R460 to R481, R490 to R493). -/

namespace Sys2Proof.Machine

/-! ## Rings (R468 to R472) -/

/-- A word of the submission and completion rings. -/
def Chip.ringWord (c : Chip) (off : Nat) : Nat := (tabGet (fun _ => 0) c.hst.ring off).toNat

/-- The chip with words of the rings written. -/
def Chip.setRing (c : Chip) (off : Nat) (ws : List Word) : Chip :=
  { c with hst := { c.hst with ring := ws.zipIdx.foldl (fun m x => tabPut (fun _ => 0) (off + 4 * x.2) x.1 m) c.hst.ring } }

/-- The words of a submission entry in the ring. -/
def Chip.ringEntry (c : Chip) (i : Nat) : List Nat := (List.range 8).map (fun k => c.ringWord (0x1000 + 32 * i + 4 * k))

/-- An entry awaits its fetch (R469). -/
def Chip.sqAwaits (c : Chip) (i : Nat) : Bool :=
  let head := c.fld HST_SQ_HEAD__HEAD
  decide ((i + 256 - head) % 256 < (c.fld HST_SQ_TAIL__TAIL + 256 - head) % 256)

/-- A submission entry as a fetch finds it: while a rewrite is not complete, as it was before (R469). -/
def Chip.sqEntry (c : Chip) (i : Nat) : List Nat := match c.hst.sqOld.find? (fun e => e.1 == i) with
  | some e => e.2.1
  | none => c.ringEntry i

/-- A word of the submission ring is written. The rewrite of an entry that awaits fetch is complete once every word of it that
has a field has been written (R468, R469). -/
def Chip.sqWrite (c : Chip) (off : Nat) (w : Word) : Chip :=
  let i := (off - 0x1000) / 32
  let m := 2 ^ (off % 32 / 4) ||| ((c.hst.sqOld.find? (fun e => e.1 == i)).map (·.2.2)).getD 0
  let rest := c.hst.sqOld.filter (fun e => e.1 != i)
  let old := if c.sqAwaits i && m &&& 0x3F != 0x3F then rest ++ [(i, c.sqEntry i, m)] else rest
  ({ c with hst := { c.hst with sqOld := old } }).setRing off [w]

/-- A status bit of HST_STATUS is set, and its bit of HST_INT_STATUS where it became set (R481). -/
def Chip.hstErr (c : Chip) (x i : Fld) : Chip := if c.flag x then c.raise x else (c.raise x).raise i

/-- A doorbell write: accepted when the ring can hold the entries, else ignored with DB_ERR (R469). -/
def Chip.doorbell (c : Chip) (v : Nat) : Chip :=
  let v := v % 256
  let tail := c.fld HST_SQ_TAIL__TAIL
  let head := c.fld HST_SQ_HEAD__HEAD
  if (v + 256 - tail) % 256 ≤ 255 - (tail + 256 - head) % 256 then c.setFld HST_SQ_TAIL__TAIL v
  else c.hstErr HST_STATUS__DB_ERR HST_INT_STATUS__DB_ERR

/-- A write of HST_SQ_TAIL (R469). -/
def execSqDoorbell (t : Nat) (ifc : Iface) (v : Word) (s : State) : Host.Outcome State Fault Refusal :=
  s.access t ifc (fun c => c.doorbell v.toNat)

/-- The ring serves commands: enabled, not in D3hot, and an entry awaits fetch. -/
def Chip.sqReady (c : Chip) : Bool :=
  c.flag HST_RING_CTL__EN && !c.hst.d3 && c.fld HST_SQ_TAIL__TAIL != c.fld HST_SQ_HEAD__HEAD

/-- The origin of the submission entry at the head of the ring (R468). -/
def Chip.sqOrigin (c : Chip) : Origin :=
  let i := c.fld HST_SQ_HEAD__HEAD
  let e := c.sqEntry i
  ⟨.pcie, i, w32 (e.getD 2 0), w32 (e.getD 3 0), bits (e.getD 4 0) 15 0,
    (e.getD 5 0).testBit 0, false, false, ⟨0, 0, 0⟩, 0⟩

/-- The device fetches an entry and its packet and advances HST_SQ_HEAD; a DMA read that fails abandons the command
with DMA_ERR and a completion marked DMA_FAIL (R469, R470, R490). -/
def Chip.sqFetch (c : Chip) (pkt : Option (List Word)) : Chip :=
  if c.sqReady then
    let org := c.sqOrigin
    let c := c.setFld HST_SQ_HEAD__HEAD (org.sqIdx + 1)
    let c := { c with hst := { c.hst with sqOld := c.hst.sqOld.filter (fun e => e.1 != org.sqIdx) } }
    let whole := match pkt with
      | some ws => if 4 ≤ ws.length ∧ 4 + bits (wordAt ws 0) 27 16 ≤ ws.length
          then some (ws.take (4 + bits (wordAt ws 0) 27 16)) else none
      | none => none
    match whole with
    | some ws => c.receive ws (4 * ws.length) false org
    | none =>
      ((c.hstErr HST_STATUS__DMA_ERR HST_INT_STATUS__DMA_ERR).stat 9).waitAnswer ⟨0, 0, 0, [], org, .dmaFail⟩
  else c

/-- The device fetches a submission entry (R469, R470). -/
def execSqFetch (t : Nat) (pkt : Option (List Word)) (s : State) : Host.Outcome State Fault Refusal :=
  s.event t (fun c => c.sqFetch pkt)

/-- A completion slot is free (R471). -/
def Chip.cqFree (c : Chip) : Bool :=
  (c.fld HST_CQ_TAIL__TAIL + 1) % 256 != c.fld HST_CQ_HEAD__HEAD

/-- The oldest waiting completion is posted: its reply is written to the reply buffer, then the entry with the current
phase; the phase toggles when the tail wraps (R470, R471). A final reply has no entry: its COMPLETION event follows (R488). -/
def Chip.completionPost (c : Chip) (dmaOk : Bool) : Chip :=
  match c.hst.pendCpl with
  | [] => c
  | cp :: rest =>
    if c.flag HST_RING_CTL__EN && (cp.final || c.cqFree) then
      let fail := cp.dmaFail || (!dmaOk && cp.reply != [])
      let c := { c with hst := { c.hst with pendCpl := rest } }
      let c := if fail then
          if cp.dmaFail then c else c.hstErr HST_STATUS__DMA_ERR HST_INT_STATUS__DMA_ERR
        else c.emit (.dma cp.addrLo cp.addrHi cp.reply)
      if cp.final then c.hostEvent 3 [cp.w0, cp.w1, cp.w2, cp.w3]
      else
      let tail := c.fld HST_CQ_TAIL__TAIL
      let phase := c.fld HST_CQ_TAIL__PHASE
      let w3 := phase * 2 ^ 31 + b2n cp.trunc * 2 ^ 30 + b2n fail * 2 ^ 29 + cp.words % 2 ^ 16 * 2 ^ 8 + cp.sqIdx % 256
      let c := c.setRing (0x3000 + 16 * tail) [cp.w0, cp.w1, if fail then 0 else cp.w2, w32 w3]
      let c := (c.setFld HST_CQ_TAIL__TAIL (tail + 1)).setFld HST_CQ_TAIL__PHASE
        (if tail = 255 then 1 - phase else phase)
      if cp.noIrq then c
      else { c.raise HST_INT_STATUS__CQ with hst := { c.hst with cqIrq := c.hst.cqIrq ++ [tail] } }
    else c

/-- A completion entry is written once a slot is free (R471). -/
def execCompletionPost (t : Nat) (dmaOk : Bool) (s : State) : Host.Outcome State Fault Refusal :=
  s.event t (fun c => c.completionPost dmaOk)

/-- A write of HST_CQ_HEAD frees the completion entries before it (R471). -/
def Chip.cqHead (c : Chip) (v : Nat) : Chip :=
  let v := v % 256
  let old := c.fld HST_CQ_HEAD__HEAD
  let n := (v + 256 - old) % 256
  let c := c.setFld HST_CQ_HEAD__HEAD v
  { c with hst := { c.hst with cqIrq := c.hst.cqIrq.filter (fun i => decide (n ≤ (i + 256 - old) % 256)) } }

/-- A write of HST_CQ_HEAD (R471). -/
def execCqHeadWrite (t : Nat) (ifc : Iface) (v : Word) (s : State) : Host.Outcome State Fault Refusal :=
  s.access t ifc (fun c => c.cqHead v.toNat)

/-- The origin of a command whose reply is discarded, if it came by the rings. -/
def Origin.dropped (o : Origin) : Origin := if o.ifc = .pcie then { o with drop := true } else o

/-- A command whose reply is discarded, if it came by the rings. -/
def Intake.dropped (k : Intake) : Intake := { k with org := k.org.dropped }

/-- An exchange that answers a command, with that command's reply discarded. -/
def Exchange.dropped (x : Exchange) : Exchange := match x.why with
  | .host k => { x with why := .host k.dropped }
  | _ => x

/-- A port whose exchanges' replies are discarded. -/
def Port.dropped (p : Port) : Port :=
  { p with queue := p.queue.map Exchange.dropped, todo := p.todo.map Exchange.dropped,
           sent := p.sent.map (fun (y : Sent) => { y with x := y.x.dropped }) }

/-- Every command of the rings that is fetched and not yet answered will be carried out and its reply discarded: those
that wait, the long ones, and those held by the operating state, the Manifest, the Sluice, the Towpath and the twin
(R472). -/
def Chip.dropReplies (c : Chip) : Chip :=
  let longs := c.hst.longs.map (fun (k : LongCmd) => { k with org := k.org.dropped })
  let request := c.pnd.request.map (fun (r : StateReq) => { r with cmd := r.cmd.map Intake.dropped })
  let cancels := c.man.cancels.map (fun (x : ManCancel) => { x with cmd := x.cmd.dropped })
  let writes := c.slu.writes.map (fun (x : SluWrite) => { x with cmd := x.cmd.dropped })
  let ports := c.tow.ports.map (fun (e : Nat × Port) => (e.1, e.2.dropped))
  { c with
    hst := { c.hst with pendCpl := [], cqIrq := [], intake := c.hst.intake.map Intake.dropped, longs := longs }
    pnd := { c.pnd with request := request }
    man := { c.man with cancels := cancels }
    slu := { c.slu with writes := writes }
    tow := { c.tow with ports := ports }
    aqu := { c.aqu with changes := c.aqu.changes.map Intake.dropped, handCmd := c.aqu.handCmd.map Intake.dropped } }

/-- Final replies that still wait for their DMA write are discarded; their COMPLETION events are offered (R472, R488). -/
def Chip.finalEvents (c : Chip) : Chip :=
  c.each (c.hst.pendCpl.filter (·.final)) (fun c cp => c.hostEvent 3 [cp.w0, cp.w1, cp.w2, cp.w3])

/-- Heads and tails 0, phase 1, and the replies of commands already fetched discarded (R462, R472). -/
def Chip.ringsClear (c : Chip) : Chip :=
  let c := c.finalEvents
  let c := { c with hst := { c.hst with sqOld := [] } }
  let c := ((c.setFld HST_RING_CTL__EN 0).setReg HST_SQ_TAIL 0).setReg HST_SQ_HEAD 0
  ((c.setReg HST_CQ_HEAD 0).setReg HST_CQ_TAIL (2 ^ 8)).dropReplies

/-- A write of HST_RING_CTL.EN: set, the rings serve from here on, and rings that were disabled start with the CQ's head and tail
at 0 and phase 1; cleared, they are reset (R471, R472). -/
def Chip.ringEnable (c : Chip) (v : Nat) : Chip :=
  if v.testBit 0 then
    let c := c.onlyIf (!c.flag HST_RING_CTL__EN) (fun c => (c.setReg HST_CQ_HEAD 0).setReg HST_CQ_TAIL (2 ^ 8))
    { c.setFld HST_RING_CTL__EN 1 with hst := { c.hst with d3 := false } }
  else c.ringsClear

/-- A write of HST_RING_CTL (R472). In D3hot one that sets EN is the host's first access at D0: the table has no row for the
configuration request that brings the function there (R462; log entry 143). -/
def execRingEnable (t : Nat) (ifc : Iface) (v : Word) (s : State) : Host.Outcome State Fault Refusal :=
  s.event t (fun c => c.onlyIf (c.serves ifc || v.toNat.testBit 0) (fun c => c.ringEnable v.toNat))

/-- A write of HST_VEC_REARM resends the message of each named vector whose condition holds (R475). -/
def Chip.vecRearm (c : Chip) (v : Nat) : Chip :=
  let cond := c.vecCond
  c.each (List.range 32) (fun c i => if v.testBit i && cond.testBit i then c.sendMsix i else c)

/-- A write of HST_VEC_REARM (R475). -/
def execVecRearm (t : Nat) (ifc : Iface) (v : Word) (s : State) : Host.Outcome State Fault Refusal :=
  s.access t ifc (fun c => c.vecRearm v.toNat)

/-! ## PCIe link and resets (R461, R462) -/

/-- The function's type 0 configuration header as far as the spec gives it (R461, R467, R508): Vendor and Device ID, class code
and Revision ID, the types of BAR0 and BAR2, the subsystem IDs; the other words, and what software writes there, are the PCI
standard's. PRESUMED: the words stand at the places that standard gives them (log entry 143). -/
def Chip.pcieHeader (c : Chip) : List (Nat × Nat) :=
  [(0x00, 0x6256 * 2 ^ 16 + 0x1F3B), (0x08, 0x088000 * 2 ^ 8 + Config.siliconRev.toNat), (0x10, 0), (0x18, 0xC),
   (0x2C, c.boot.otp.subsysId.toNat)]

/-- The HST_ register state a PCIe reset returns to its reset values: the region but the MACs' link bits (R462). -/
def Chip.pcieReset (c : Chip) (k : PcieReset) : Chip :=
  let c := c.ringsClear
  let eth := c.reg HST_STATUS &&& 0xC0
  let keep := if k = .d3hot then c.reg HST_STATUS &&& 0xF01 else 0
  let c := { c with regs := tabClear 0 0x200 c.regs }
  let c := c.setReg HST_STATUS (eth ||| keep)
  let c := (c.setReg (HST_ETH_MAC_LO 0) (c.boot.otp.mac0.toNat / 2 ^ 16)).setReg (HST_ETH_MAC_HI 0) (c.boot.otp.mac0.toNat % 2 ^ 16)
  let c := (c.setReg (HST_ETH_MAC_LO 1) (c.boot.otp.mac1.toNat / 2 ^ 16)).setReg (HST_ETH_MAC_HI 1) (c.boot.otp.mac1.toNat % 2 ^ 16)
  { c with hst := { c.hst with
      ring := [], msix := [], pba := 0, d3 := decide (k = .d3hot), mdioBusy := false, mdioRead := false
      lad := tabClear 23 29 c.hst.lad, eseq := [] } }

/-- PERST#, a hot reset, a link-down or an entry to D3hot (R462). -/
def execPcieReset (t : Nat) (kind : PcieReset) (s : State) : Host.Outcome State Fault Refusal :=
  s.act (fun c => (c.at t).pcieReset kind)

/-- The PCIe link completes training (R461): LINK_UP, WIDTH 1 x1 or 2 x2, SPEED the generation. -/
def execPcieLinkUp (t : Nat) (width2 : Bool) (speed : Fin 4) (s : State) : Host.Outcome State Fault Refusal :=
  s.act (fun c =>
    (((c.at t).raise HST_STATUS__LINK_UP).setFld HST_STATUS__WIDTH (if width2 then 2 else 1)).setFld
      HST_STATUS__SPEED speed.val)

/-! ## UDP command endpoint (R477, R491, R492) -/

/-- A command of this source and TAG is still executing or waiting (R492). -/
def Chip.udpBusy (c : Chip) (m : Nat) (src : UdpSrc) (tag : Word) : Bool :=
  let f (o : Origin) (tg : Word) : Bool := o.ifc.mac == m && (o.ifc == .mac0 || o.ifc == .mac1) && o.src == src && tg == tag
  c.hst.intake.any (fun k => f k.org k.tag) || c.hst.longs.any (fun k => f k.org k.tag)

/-- A command datagram: answered from the reply cache, dropped while its command executes or the intake is full, or
taken in (R485, R487, R491, R492). -/
def Chip.udpCommand (c : Chip) (m : Nat) (src : UdpSrc) (bytes : List Byte) : Chip :=
  if (c.flag (HST_ETH_CFG__EN m) && c.flag (HST_ETH_CFG__CMD_EN m)) = false then c
  else
    let c := c.count (HST_ETH_CNT1__CMD_RX m) 1
    if bytes.length < 16 then c.stat 6
    else
      let ws := bytesWords bytes
      let tag := ws.getD 1 0
      let ifc : Iface := if m = 0 then .mac0 else .mac1
      let cached := (tabGet (fun _ => []) c.hst.cache m).find? (fun r =>
        decide (r.src = src ∧ r.tag = tag ∧ r.crc = ws.getD 3 0 ∧ c.now ≤ r.tick + 1600000000))
      match cached with
      | some r => (c.emit (.udp m src.ip src.port (c.fld (HST_ETH_CFG__CMD_PORT m)) (wordsBytes r.reply))).stat 7
      | none =>
        if c.udpBusy m src tag then c
        else if 16 ≤ (c.hst.intake.filter (fun k => k.org.ifc == ifc)).length then c.stat (4 + m)
        else c.receive ws bytes.length true ⟨ifc, 0, 0, 0, 65535, false, false, false, src, 0⟩

/-- A command datagram arrives (R492). -/
def execUdpCommandReceived (t : Nat) (m : Fin 2) (src : UdpSrc) (bytes : List Byte) (s : State) :
    Host.Outcome State Fault Refusal :=
  s.event t (fun c => c.udpCommand m.val src bytes)

/-! ## Ethernet frames and ARP (R476 to R478) -/

/-- A big-endian number of `n` bytes at offset `i` of a frame. -/
def beAt (bs : List Byte) (i n : Nat) : Nat := beNat ((bs.drop i).take n)

/-- Offset of the EtherType of a frame, behind one IEEE 802.1Q tag if it has one (R476). -/
def ethOff (bs : List Byte) : Nat := if beAt bs 12 2 = 0x8100 then 16 else 12

/-- An IPv4 frame of a protocol, without options and not a fragment (R476). -/
def ipFrame (proto : Nat) (bs : List Byte) : Bool :=
  let o := ethOff bs
  decide (beAt bs o 2 = 0x0800 ∧ beAt bs (o + 2) 1 = 0x45 ∧ beAt bs (o + 8) 2 % 2 ^ 14 = 0 ∧ beAt bs (o + 11) 1 = proto)

/-- The UDP destination port of an IPv4 frame without options and fragments; `none` for any other frame. -/
def udpPort (bs : List Byte) : Option Nat := if ipFrame 17 bs then some (beAt bs (ethOff bs + 24) 2) else none

/-- The IPv4 destination of a frame. -/
def ipDst (bs : List Byte) : Nat := beAt bs (ethOff bs + 18) 4

/-- The UDP destination port at which the device receives safety datagrams (R388); 0 with no active set. -/
def Chip.safetyPort (c : Chip) : Nat := if c.weir.actV then (memHalf 0 c.weir.act 0x3A00) else 0

/-- A frame one of the device's own endpoints consumes: PTP, ARP for its address, commands, safety, ICMP. -/
def Chip.ownFrame (c : Chip) (m : Nat) (bs : List Byte) : Bool :=
  let et := beAt bs (ethOff bs) 2
  let p := udpPort bs
  let mine := decide (ipDst bs = c.reg (HST_ETH_IP m))
  et == 0x88F7 || p == some 319 || p == some 320
    || (c.safetyPort != 0 && p == some c.safetyPort)
    || (mine && c.flag (HST_ETH_CFG__CMD_EN m) && p == some (c.fld (HST_ETH_CFG__CMD_PORT m)))
    || (et == 0x0806 && beAt bs (ethOff bs + 26) 4 == c.reg (HST_ETH_IP m))
    || (mine && ipFrame 1 bs)

/-- A frame matches an enabled receive filter of its MAC (R478). -/
def Chip.filterHit (c : Chip) (m : Nat) (bs : List Byte) : Bool :=
  (List.range 4).any (fun k =>
    c.flag (HST_RXF_FILT__EN m k) &&
      (if c.flag (HST_RXF_FILT__KIND m k) then udpPort bs == some (c.fld (HST_RXF_FILT__VALUE m k))
       else beAt bs (ethOff bs) 2 == c.fld (HST_RXF_FILT__VALUE m k)))

/-- An ICMP echo reply to an echo request: the hardware and IPv4 addresses exchanged, type 0, the ICMP checksum
adjusted for the type (R476; the reply's layout is ICMP's, PRESUMED). -/
def icmpReply (bs : List Byte) : List Byte :=
  let o := ethOff bs
  let part (i n : Nat) : List Byte := (bs.drop i).take n
  let ck := beAt bs (o + 24) 2 + 0x0800
  let ck := if ck < 65536 then ck else ck - 65535
  part 6 6 ++ part 0 6 ++ part 12 (o + 2) ++ part (o + 18) 4 ++ part (o + 14) 4 ++ [0#8] ++ part (o + 23) 1
    ++ [BitVec.ofNat 8 (ck / 256), BitVec.ofNat 8 ck] ++ bs.drop (o + 26)

/-- A received frame: discarded and counted when its FCS fails, when it is a runt or too long; PAUSE is discarded;
ICMP echo is answered at up to 10 per second; a frame matching a filter goes to HST_RXF with its length and TB0 stamp
(R279, R476, R478). Frames of the device's own endpoints are the commands of their own rows. -/
def Chip.ethFrame (c : Chip) (m : Nat) (fr : EthFrame) : Chip :=
  let n := fr.bytes.length
  if c.flag (HST_ETH_CFG__EN m) = false then c
  else if fr.fcsOk = false ∨ n < 60 ∨ (if ethOff fr.bytes = 16 then 1518 else 1514) < n then
    c.count (HST_ETH_CNT0__RX_BAD m) 1
  else if beAt fr.bytes (ethOff fr.bytes) 2 = 0x8808 then c
  else if c.ownFrame m fr.bytes then
    let recent := c.hst.icmpTicks.filter (fun x => decide (c.now < x.2 + 800000000))
    if ipFrame 1 fr.bytes = true ∧ beAt fr.bytes (ethOff fr.bytes + 22) 1 = 8 ∧ (recent.filter (fun x => x.1 == m)).length < 10 then
      { c.emit (.eth m (icmpReply fr.bytes)) with hst := { c.hst with icmpTicks := recent ++ [(m, c.now)] } }
    else c
  else if c.filterHit m fr.bytes then
    let stamp : Int := ((tb0Of c.now : Nat) : Int) + c.fldI (TIM_LAT__RX_LAT m)
    let pre := [w32 (n + 2 ^ 16), 0, w32i stamp, w32i (stamp / (2 ^ 32 : Nat))]
    c.ladPacket (if m = 0 then .rxf 0 else .rxf 1) (wordsBytes pre ++ fr.bytes)
  else c

/-- A MAC receives a frame (R476). -/
def execEthFrameReceived (t : Nat) (m : Fin 2) (fr : EthFrame) (s : State) : Host.Outcome State Fault Refusal :=
  s.event t (fun c => c.ethFrame m.val fr)

/-- The device's own hardware address on a MAC. -/
def Chip.macAddr (c : Chip) (m : Nat) : Nat := c.reg (HST_ETH_MAC_HI m) % 2 ^ 16 + c.reg (HST_ETH_MAC_LO m) * 2 ^ 16

/-- The bytes of a number, most significant first. -/
def beBytes (n v : Nat) : List Byte := (List.range n).map (fun i => BitVec.ofNat 8 (v / 2 ^ (8 * (n - 1 - i))))

/-- An ARP frame the device sends. -/
def Chip.arpFrame (c : Chip) (m : Nat) (op : Nat) (dst hw : Nat) (ip : Nat) : List Byte :=
  beBytes 6 dst ++ beBytes 6 (c.macAddr m) ++ beBytes 2 0x0806 ++ beBytes 6 0x000108000604 ++ beBytes 2 op
    ++ beBytes 6 (c.macAddr m) ++ beBytes 4 (c.reg (HST_ETH_IP m)) ++ beBytes 6 hw ++ beBytes 4 ip

/-- An ARP request for the device's address is answered; a reply enters the cache of 16 entries, the oldest making
room, and releases the datagrams that waited for it (R477). -/
def Chip.arp (c : Chip) (m : Nat) (a : ArpFrame) : Chip :=
  if c.flag (HST_ETH_CFG__EN m) = false then c
  else if a.request then
    if a.targetIp.toNat = c.reg (HST_ETH_IP m) then
      c.emit (.eth m (c.arpFrame m 2 a.senderHw.toNat a.senderHw.toNat a.senderIp.toNat))
    else c
  else
    let others := c.hst.arp.filter (fun e => !(e.mac == m && e.ip == a.senderIp))
    let others := if 16 ≤ (others.filter (fun e => e.mac == m)).length then
        match others.find? (fun e => e.mac == m) with
        | some e => others.erase e
        | none => others
      else others
    let ready := c.hst.arpWait.filter (fun w => w.mac == m && w.hop == a.senderIp)
    let c := { c with hst := { c.hst with
        arp := others ++ [(⟨m, a.senderIp, a.senderHw, c.now⟩ : ArpEntry)]
        arpWait := c.hst.arpWait.filter (fun w => !(w.mac == m && w.hop == a.senderIp)) } }
    c.each ready (fun c w => c.emit (.udp m w.ip w.dstPort w.srcPort w.data))

/-- An ARP message arrives (R477). -/
def execArpReceived (t : Nat) (m : Fin 2) (a : ArpFrame) (s : State) : Host.Outcome State Fault Refusal :=
  s.event t (fun c => c.arp m.val a)

/-- The address the device resolves for a destination: itself in the subnet, else the gateway (R477). -/
def Chip.nextHop (c : Chip) (m ip : Nat) : Nat :=
  if ip &&& c.reg (HST_ETH_MASK m) = c.reg (HST_ETH_IP m) &&& c.reg (HST_ETH_MASK m) then ip else c.reg (HST_ETH_GW m)

/-- A datagram to a destination the device names itself, from a source port: sent when the address of its next hop is
resolved, else it waits and an ARP request leaves (R477). -/
def Chip.sendUdp (c : Chip) (m ip port src : Nat) (bytes : List Byte) : Chip :=
  let hop := c.nextHop m ip
  if c.hst.arp.any (fun e => e.mac == m && e.ip.toNat == hop) then c.emit (.udp m (w32 ip) port src bytes)
  else
    let c := c.emit (.eth m (c.arpFrame m 1 0xFFFFFFFFFFFF 0 hop))
    { c with hst := { c.hst with arpWait := c.hst.arpWait ++ [(⟨m, w32 hop, w32 ip, c.now, port, src, bytes⟩ : ArpWait)] } }

/-- A datagram that has waited 10 ms for resolution is dropped and counted (R477). -/
def Chip.arpTimeout (c : Chip) (m : Nat) : Chip :=
  let old := c.hst.arpWait.filter (fun w => w.mac == m && decide (w.tick + 8000000 ≤ c.now))
  let c := c.count (HST_ETH_CNT0__NOARP_CNT m) old.length
  { c with hst := { c.hst with arpWait := c.hst.arpWait.filter (fun w => !(w.mac == m && decide (w.tick + 8000000 ≤ c.now))) } }

/-- ARP_TIMEOUT (R477). -/
def execArpTimeout (t : Nat) (m : Fin 2) (s : State) : Host.Outcome State Fault Refusal :=
  s.event t (fun c => c.arpTimeout m.val)

/-- A cache entry 60 s old is refreshed: an ARP request for it leaves (R477). -/
def Chip.arpRefresh (c : Chip) (m i : Nat) : Chip :=
  match (c.hst.arp.filter (fun e => e.mac == m))[i]? with
  | none => c
  | some e =>
    if e.tick + 48000000000 ≤ c.now then
      let c := { c with hst := { c.hst with
        arp := c.hst.arp.map (fun x => if x = e then { x with tick := c.now } else x) } }
      c.emit (.eth m (c.arpFrame m 1 e.hw.toNat 0 e.ip.toNat))
    else c

/-- ARP_REFRESH (R477). -/
def execArpRefresh (t : Nat) (m : Fin 2) (i : Fin 16) (s : State) : Host.Outcome State Fault Refusal :=
  s.event t (fun c => c.arpRefresh m.val i.val)

/-- A MAC link goes up or down: its bit of HST_STATUS and ETH_LINK. SGMII keeps the PHY's speed, and a half-duplex link is not
up; 2500BASE-X has no auto-negotiation (R476, R481). -/
def execMacLinkChange (t : Nat) (m : Fin 2) (k : MacLink) (s : State) : Host.Outcome State Fault Refusal :=
  s.event t (fun c =>
    let sgmii := !c.flag (HST_ETH_CFG__MODE m.val)
    let c := c.onlyIf sgmii (fun c =>
      { c with hst := { c.hst with links := tabPut (fun _ => ⟨false, false, false⟩) m.val k c.hst.links } })
    let up := k.up && (k.full || !sgmii)
    let x := if m.val = 0 then HST_STATUS__ETH0_UP else HST_STATUS__ETH1_UP
    if c.flag x = up then c else (c.setFlag x up).raise HST_INT_STATUS__ETH_LINK)

/-! ## MDIO (R481) -/

/-- A write of HST_MDIO_CMD: the RW fields take the write; GO starts an operation unless one is in progress (R481). -/
def Chip.mdioWrite (c : Chip) (v : Nat) : Chip :=
  let busy := c.hst.mdioBusy
  let c := { c.setReg HST_MDIO_CMD (v &&& 0x7FFCFFFF) with hst := { c.hst with mdioT := some c.now } }
  if v.testBit 31 && !busy then
    { c.emit (.mdio (w32 (v &&& 0x7FFCFFFF))) with hst := { c.hst with mdioBusy := true, mdioRead := bits v 29 28 == 2 } }
  else c

/-- A write of HST_MDIO_CMD with GO (R481). -/
def execMdioGo (t : Nat) (ifc : Iface) (v : Word) (s : State) : Host.Outcome State Fault Refusal :=
  s.access t ifc (fun c => c.mdioWrite v.toNat)

/-- An MDIO operation ends: BUSY clears, and a read's result is in DATA, unless a write of the same tick wins (R460, R481). -/
def execMdioDone (t : Nat) (data : BitVec 16) (s : State) : Host.Outcome State Fault Refusal :=
  s.event t (fun c =>
    if c.hst.mdioBusy then
      let read := c.hst.mdioRead && decide (c.hst.mdioT ≠ some c.now)
      let c := { c with hst := { c.hst with mdioBusy := false, mdioRead := false } }
      if read then c.setFld HST_MDIO_CMD__DATA data.toNat else c
    else c)

/-! ## SPI (R479, R493) -/

/-- The opcodes the boot ROM serves (R509). -/
def romOps : List Nat := [0x0101, 0x0104, 0x0201, 0x0202, 0x0203, 0x0F01, 0x0F02]

/-- An SPI WRITE: ignored with OVR while 4 replies wait or the port's command executes, else a packet is delivered or
answered (R493). Before firmware runs every opcode the boot ROM does not serve is answered UNSUPPORTED (R509). -/
def Chip.spiWrite (c : Chip) (bytes : List Byte) : Chip :=
  if 4 ≤ c.hst.spiReplies.length ∨ c.hst.spiExec = true then
    { c.stat 8 with hst := { (c.stat 8).hst with spiOvr := true } }
  else if bytes.length < 16 then c.stat 6
  else
    let c := { c with hst := { c.hst with spiExec := true } }
    let ws := bytesWords bytes
    let org : Origin := ⟨.spi, 0, 0, 0, 65535, false, false, false, ⟨0, 0, 0⟩, 0⟩
    if c.boot.phase ≠ .run ∧ bits (wordAt ws 0) 15 0 ∉ romOps then
      (c.stat 3).reply ⟨bits (wordAt ws 0) 15 0, ws.getD 1 0, 0, [], org, .command⟩ stUNSUPPORTED 0 []
    else c.receive ws bytes.length false org

/-- The device answers on its SPI port: firmware or the boot ROM runs (R479). -/
def Chip.spiServed (c : Chip) : Bool :=
  match c.boot.phase with
  | .rom | .wait | .run => true
  | _ => false

/-- An SPI WRITE transaction (R493). -/
def execSpiWrite (t : Nat) (bytes : List Byte) (s : State) : Host.Outcome State Fault Refusal :=
  s.act (fun c => let c := c.at t; if c.spiServed then c.spiWrite bytes else c)

/-- An SPI READ of `n` bytes after the dummy byte: the waiting reply, removed once its last byte is read; bytes 0x00
while none waits (R493). -/
def Chip.spiRead (c : Chip) (n : Nat) : Chip :=
  match c.hst.spiReplies with
  | [] => c.emit (.spi (List.replicate n 0))
  | r :: rest =>
    let bs := wordsBytes r
    let c := c.emit (.spi (bs.take n ++ List.replicate (n - bs.length) 0))
    if bs.length ≤ n then
      ({ c with hst := { c.hst with spiReplies := rest } }).onlyIf rest.isEmpty (fun c => c.emit (.pin pinSPIRDY 0 false))
    else c

/-- An SPI READ transaction (R493). -/
def execSpiRead (t : Nat) (n : Nat) (s : State) : Host.Outcome State Fault Refusal :=
  s.act (fun c => let c := c.at t; if c.spiServed then c.spiRead n else c)

/-- An SPI STATUS transaction: RDY, EXEC and OVR, which it clears (R493). -/
def Chip.spiStatus (c : Chip) : Chip :=
  let b := b2n (c.hst.spiReplies != []) + b2n c.hst.spiExec * 2 + b2n c.hst.spiOvr * 4
  { c.emit (.spi [BitVec.ofNat 8 b]) with hst := { c.hst with spiOvr := false } }

/-- An SPI STATUS transaction (R493). -/
def execSpiStatus (t : Nat) (s : State) : Host.Outcome State Fault Refusal :=
  s.act (fun c => let c := c.at t; if c.spiServed then c.spiStatus else c)

/-! ## Commands that act on the interface alone -/

/-- FRAME_SEND's rules: MAC, stamp request, base and length in range, and the MAC's 10,000 frames per second not used
up (R288, R478). -/
def Chip.frameSend (c : Chip) (k : Intake) : Chip × Answer :=
  let w0 := wordAt k.payload 0
  let n := bits (wordAt k.payload 1) 10 0
  let m := bits w0 0 0
  if bits w0 5 4 = 3 then (c, ansArg 0)
  else if n < 14 ∨ 1518 < n then (c, ansArg 1)
  else
    let recent := (tabGet (fun _ => []) c.hst.sendTicks m).filter (fun x => decide (c.now < x + 800000000))
    if 10000 ≤ recent.length then (c, ansBusy)
    else
      let c := c.emit (.eth m ((wordsBytes (k.payload.drop 2)).take n))
      let c := { c with hst := { c.hst with sendTicks := tabPut (fun _ => []) m (recent ++ [c.now]) c.hst.sendTicks } }
      let c := if w0.testBit 1 then
          { c with tim := { c.tim with stamps := c.tim.stamps ++ [(⟨m, bits w0 31 16, bits w0 5 4⟩ : StampReq)] } }
        else c
      (c, ansOK)

/-- FRAME_SEND (R478). -/
def execFrameSend (t : Nat) (ifc : Iface) (tag target : Word) (pl : List Word) (s : State) :
    Host.Outcome State Fault Refusal :=
  s.command t 0x0703 ifc tag target pl Chip.frameSend

/-- TIME_SNAP: the copy is taken and returned (R278). -/
def execTimeSnap (t : Nat) (ifc : Iface) (tag target : Word) (pl : List Word) (s : State) :
    Host.Outcome State Fault Refusal :=
  s.command t 0x0701 ifc tag target pl (fun c _ =>
    let c := c.snapBases
    (c, .now stOK 0 (w32 (c.reg TIM_SNAP_CTL) :: (List.range 19).map (fun i => w32 (c.reg (TIM_SNAP i))))))

/-- ECHO's rules: the payload comes back. -/
def Chip.echo (c : Chip) (k : Intake) : Chip × Answer := (c, .now stOK 0 k.payload)

/-- ECHO (R496); the boot ROM serves it too (R509). -/
def execEcho (t : Nat) (ifc : Iface) (tag target : Word) (pl : List Word) (s : State) :
    Host.Outcome State Fault Refusal :=
  s.act (fun c => c.command t 0x0F01 ifc tag target pl (some Chip.echo) Chip.echo)

/-- CMD_STATS's rules: the 35 counts of R501. -/
def Chip.cmdStats (c : Chip) (_ : Intake) : Chip × Answer :=
  (c, .now stOK 0 ((List.range 35).map (fun i => w32 (tabGet (fun _ => 0) c.hst.stats i))))

/-- CMD_STATS (R501); the boot ROM serves it too (R509). -/
def execCmdStats (t : Nat) (ifc : Iface) (tag target : Word) (pl : List Word) (s : State) :
    Host.Outcome State Fault Refusal :=
  s.act (fun c => c.command t 0x0F02 ifc tag target pl (some Chip.cmdStats) Chip.cmdStats)

/-- DOMAIN_STATUS: the status registers of a PTP domain, none cleared. -/
def execDomainStatus (t : Nat) (ifc : Iface) (tag target : Word) (pl : List Word) (s : State) :
    Host.Outcome State Fault Refusal :=
  s.command t 0x0702 ifc tag target pl (fun c k =>
    let d := k.target.toNat
    (c, .now stOK 0 ([TIM_DOM_STAT d, TIM_DOM_OFS d, TIM_DOM_RATE d, TIM_DOM_PATH d, TIM_DOM_UTC d,
      TIM_DOM_GM_LO d, TIM_DOM_GM_HI d, TIM_DOM_CNT d].map (fun o => w32 (c.reg o)))))

end Sys2Proof.Machine
end

