-- ==== Sys2Proof/Machine/Seg.lean ====
section
/-! DEFINITION. Flights, axes and their descriptors, and the reference segments in the flights' queues (R37, R48, R92,
R103 to R109). -/

namespace Sys2Proof.Machine

/-! ## Access -/

/-- A flight as it stands when it is first configured. -/
def Flight.init : Flight :=
  { xh := [], u := [], r := [], upd := none, startedP := none, doneP := none, wantTrack := false, wantRamp := false,
    wantHold := false, startAt := none, resumeAt := none, firstRun := false, runSince := false, stillRun := 0,
    swapReg := 0, reseed := none, queue := [], ops := [], idleOut := false, clear := none, cleared := none,
    freeT := 0, owed := [], startN := none }

/-- Flight f. -/
def Chip.flight (c : Chip) (f : Nat) : Flight := tabGet (fun _ => Flight.init) c.lck.flights f

/-- The chip with a flight replaced. -/
def Chip.setFlight (c : Chip) (f : Nat) (x : Flight) : Chip :=
  { c with lck := { c.lck with flights := tabPut (fun _ => Flight.init) f x c.lck.flights } }

/-- An axis at rest. -/
def Axis.init : Axis := ⟨0, 0, 0⟩

/-- Axis a. -/
def Chip.axis (c : Chip) (a : Nat) : Axis := tabGet (fun _ => Axis.init) c.lck.axes a

/-- The chip with an axis replaced. -/
def Chip.setAxis (c : Chip) (a : Nat) (x : Axis) : Chip :=
  { c with lck := { c.lck with axes := tabPut (fun _ => Axis.init) a x c.lck.axes } }

/-- A word of the Lock engine configuration window (R48). -/
def Chip.lckW (c : Chip) (off : Nat) : Nat := (memWord 0 c.mem.lck off).toNat

/-- The flight is configured: EN of its descriptor. -/
def Chip.fEn (c : Chip) (f : Nat) : Bool := (c.lckW (64 * f)).testBit 31
/-- Pound divisor D of R16. -/
def Chip.fDivP (c : Chip) (f : Nat) : Nat := 2 ^ bits (c.lckW (64 * f)) 30 29
/-- Divisor slot. -/
def Chip.fSlot (c : Chip) (f : Nat) : Nat := bits (c.lckW (64 * f)) 28 26
/-- The flight runs on a unit pair. -/
def Chip.fPair (c : Chip) (f : Nat) : Bool := (c.lckW (64 * f)).testBit 25
/-- Lock unit. -/
def Chip.fUnit (c : Chip) (f : Nat) : Nat := bits (c.lckW (64 * f)) 23 20
/-- Number of measurements NY. -/
def Chip.fNy (c : Chip) (f : Nat) : Nat := bits (c.lckW (64 * f + 4)) 21 16
/-- Number of inputs NU. -/
def Chip.fNu (c : Chip) (f : Nat) : Nat := bits (c.lckW (64 * f + 4)) 12 8
/-- Number of states NX. -/
def Chip.fNx (c : Chip) (f : Nat) : Nat := bits (c.lckW (64 * f + 4)) 6 0
/-- AGE_MAX. -/
def Chip.fAgeMax (c : Chip) (f : Nat) : Nat := bits (c.lckW (64 * f + 8)) 15 8
/-- AGE_FRZ. -/
def Chip.fAgeFrz (c : Chip) (f : Nat) : Nat := bits (c.lckW (64 * f + 8)) 7 0
/-- The axis that input k of a flight drives. -/
def Chip.fAxis (c : Chip) (f k : Nat) : Nat := (tabGet (fun _ => (0 : Byte)) c.mem.lck (64 * f + 0x10 + k)).toNat
/-- A flight's mode (R61). -/
def Chip.fMode (c : Chip) (f : Nat) : Nat := c.fld (LCK_FSTAT__MODE f)
/-- Word 0 of a flight's control entry (R92). -/
def Chip.fCtl (c : Chip) (f : Nat) : Nat := c.lckW (0xA800 + 16 * f)

/-- The configured flights, ascending. -/
def Chip.enFlights (c : Chip) : List Nat := (List.range 32).filter c.fEn

/-- The flight due in pound n (R16). -/
def Chip.fDue (c : Chip) (f n : Nat) : Bool := c.fEn f && n % c.fDivP f == c.fSlot f

/-- The flight and input that drive an axis. -/
def Chip.driver (c : Chip) (a : Nat) : Option (Nat × Nat) :=
  (c.enFlights.flatMap (fun f => (List.range (c.fNu f)).map (fun k => (f, k)))).find? (fun p => c.fAxis p.1 p.2 == a)

/-! ## Segments (R104) -/

/-- The segment runs on chainage. -/
def Seg.src (g : Seg) : Bool := (wordAt g.w 0).testBit 31
/-- REL: P0 is latched when the segment becomes head. -/
def Seg.rel (g : Seg) : Bool := (wordAt g.w 0).testBit 30
/-- WAIT: σ is held at 0 until released. -/
def Seg.wait (g : Seg) : Bool := (wordAt g.w 0).testBit 29
/-- SEG_ID. -/
def Seg.id (g : Seg) : Nat := bits (wordAt g.w 0) 15 0
/-- LEN in units of 2⁻¹⁶ count, or in pounds. -/
def Seg.len (g : Seg) : Nat := if g.src then wordAt g.w 3 + wordAt g.w 4 * 2 ^ 32 else wordAt g.w 3
/-- INV_LEN. -/
def Seg.invLen (g : Seg) : Nat := wordAt g.w 5
/-- VMAX. -/
def Seg.vmax (g : Seg) : Nat := wordAt g.w 6

/-- A segment from its header and coefficient words. -/
def Seg.make (w co : List Word) : Seg := ⟨w, co, wordAt w 1 + wordAt w 2 * 2 ^ 32, false, false⟩

/-- The first header word for which a flight with NU inputs turns a segment away: NAX or SRC, LEN, INV_LEN (R104). -/
def Seg.bad (g : Seg) (nu : Nat) : Option Nat :=
  if bits (wordAt g.w 0) 20 16 ≠ nu then some 0
  else if g.len = 0 then some 3
  else if fFinite g.invLen && !fSign g.invLen && g.invLen % 2 ^ 31 != 0 then none
  else some 5

/-- A segment that a flight with NU inputs accepts (R104). -/
def Seg.ok (g : Seg) (nu : Nat) : Bool := (g.bad nu).isNone

/-- The index of the first payload word of a TRAJ_APPEND for which a segment is turned away, the count being word 0 (R104,
R483). -/
def segsBad (nu : Nat) (l : List Seg) : Option Nat :=
  l.zipIdx.findSome? (fun e => (e.1.bad nu).map (fun j => 1 + (8 + 4 * nu) * e.2 + j))

/-- The `n` segments spelled by the words of a TRAJ_APPEND for a flight with NU inputs: each has eight header words and a
block of four coefficient words for every input; `none` when the words are not as many (R104). -/
def parseSegs (nu n : Nat) (ws : List Word) : Option (List Seg) :=
  let size := 8 + 4 * nu
  if ws.length = size * n then
    some ((List.range n).map (fun i =>
      let g := ws.drop (size * i)
      Seg.make (g.take 8) ((g.drop 8).take (4 * nu))))
  else none

/-- The queue after the changes accepted for the next boundary (R103). -/
def applyOps (q : List Seg) (ops : List SegOp) : List Seg :=
  ops.foldl (fun q o => match o with
    | .append l => q ++ l
    | .flush => []) q

/-- A flight's queue with a new content: QUEUE_DRY clears when a successor arrives or the queue is emptied (R105). -/
def Chip.setQueue (c : Chip) (f : Nat) (q : List Seg) : Chip :=
  let c := c.setFlight f { c.flight f with queue := q }
  if q = [] ∨ 2 ≤ q.length then c.setFld (LCK_SEGQ_STAT__QUEUE_DRY f) 0 else c

/-- The words of a segment. -/
def Seg.words (g : Seg) : List Word := g.w ++ g.co

/-- The appends and flushes accepted since the last boundary take effect, in order of acceptance (R103). -/
def Chip.segOps (c : Chip) (f : Nat) : Chip :=
  let x := c.flight f
  if x.ops = [] then c
  else
    let c := c.setFlight f { x with ops := [] }
    let c := if x.ops.contains .flush then c.setQueue f [] else c
    let c := c.setQueue f (applyOps x.queue x.ops)
    c.each x.ops (fun c o => match o with
      | .append l => c.ledger (.queue f 0 none false false (l.map Seg.words))
      | .flush => c.ledger (.queue f 0 none false true []))

/-- The queue is emptied at entry to TRACK from RUN, HOLD or RAMP and at entry to IDLE (R106). -/
def Chip.clearQueue (c : Chip) (f : Nat) : Chip := c.setQueue f []

/-- d of a head segment at the boundary of pound n with chainage cn; `none` while it waits (R105). -/
def Seg.dist (g : Seg) (cn n : Nat) : Option Int :=
  if g.wait && !g.released then none
  else if g.src then some (modDiff 64 cn g.p0)
  else some (modDiff 32 n g.p0)

/-- The head's P0 latched when it is first evaluated (R105). -/
def Seg.latch (g : Seg) (cn n : Nat) : Seg :=
  if (g.wait && !g.released) || !g.rel || g.latched then g
  else { g with p0 := (if g.src then cn else n), latched := true }

/-- The loop of R105: heads that have ended are removed while a successor stands behind them, at most `fuel` of them. -/
def popSegs (cn n : Nat) : Nat → List Seg → List Seg
  | 0, q =>
    match q with
    | [] => []
    | g :: t => g.latch cn n :: t
  | fuel + 1, q =>
    match q with
    | [] => []
    | [g] => [g.latch cn n]
    | g :: g2 :: t =>
      let g := g.latch cn n
      match g.dist cn n with
      | some d => if (g.len : Int) ≤ d then popSegs cn n fuel (g2 :: t) else g :: g2 :: t
      | none => g :: g2 :: t

/-- σ of a head segment (R105). DEDUCED: also for a head that has ended without a successor it is what the pseudocode gives, which
is 1 where INV_LEN is at least 1 ÷ LEN (log entry 124). -/
def Seg.sigma (g : Seg) (d : Option Int) : Nat :=
  match d with
  | none => 0
  | some d => fMin (fMax (fMul (fOfInt d) g.invLen) 0) 0x3F800000

/-- q of input k of a segment at σ (R105). -/
def Seg.eval (g : Seg) (k s : Nat) : Nat :=
  let co (i : Nat) : Nat := wordAt g.co (4 * k + i)
  fFma (fFma (fFma (co 3) s (co 2)) s (co 1)) s (co 0)

/-- The target of one input: clamped with TGT_CLAMP, or left unchanged with SEG_INVALID when q is not finite (R105). -/
def Chip.putTarget (c : Chip) (f a q : Nat) : Chip :=
  if fFinite q then
    let v : Rat := fRat q * 32768
    let i := rdivEven v.num v.den
    let t := clampI (-32768) 32767 i
    let c := if t = i then c else c.raise (LCK_SEGQ_STAT__TGT_CLAMP f)
    c.setAxis a { c.axis a with tgt := t }
  else c.raise (LCK_SEGQ_STAT__SEG_INVALID f)

/-- The segments of a flight that have ended leave its queue, P0 of the head is latched, and the targets are those of the head
at pound n and chainage cn (R105). -/
def Chip.segMove (c : Chip) (f n cn : Nat) : Chip :=
  match popSegs cn n 4 (c.flight f).queue with
  | [] => c
  | g :: t =>
    let old := (c.flight f).queue
    let pops := old.length - (t.length + 1)
    let fresh := g.latched && !((old.getD pops g).latched)
    let c := c.setQueue f (g :: t)
    let c := if 0 < pops ∨ fresh = true then
        c.ledger (.queue f pops (if fresh then some g.p0 else none) false false [])
      else c
    let d := g.dist cn n
    let ended := match d with
      | some d => decide ((g.len : Int) ≤ d)
      | none => false
    let c := if ended && t.isEmpty then c.raise (LCK_SEGQ_STAT__QUEUE_DRY f) else c
    c.each (List.range (c.fNu f)) (fun c k => c.putTarget f (c.fAxis f k) (g.eval k (g.sigma d)))

/-- The belt runs faster than the head segment of a flight is planned for (R108). -/
def Chip.segFast (c : Chip) (f : Nat) : Chip :=
  match (c.flight f).queue with
  | [] => c
  | g :: _ =>
    if g.src && g.vmax != 0 && decide (g.vmax < c.beltInc) then
      (c.raise (LCK_SEGQ_STAT__BELT_FAST f)).sysEvent 6 f (w32 c.beltInc) (w32 g.vmax)
    else c

/-- The evaluation of a flight's queue at the boundary of pound n with chainage cn (R105, R108). -/
def Chip.segEval (c : Chip) (f n cn : Nat) : Chip := (c.segMove f n cn).segFast f

/-- A head whose P0 was latched at C(n) of this boundary takes the value C(n) has at the end of the boundary tick (R22,
R105). -/
def Chip.segRelatch (c : Chip) (f old new : Nat) : Chip :=
  match (c.flight f).queue with
  | g :: t =>
    if g.src && g.rel && g.latched && g.p0 == old then
      (c.setQueue f ({ g with p0 := new } :: t)).ledger (.queue f 0 (some new) false false [])
    else c
  | [] => c

/-- A SEG_RELEASE action: the waiting head with this SEG_ID is released; the truth value says that one was (R107). -/
def Chip.segRelease (c : Chip) (f id : Nat) : Chip × Bool :=
  match (c.flight f).queue with
  | g :: t =>
    if g.wait && g.id == id then
      ((c.setFlight f { c.flight f with queue := { g with released := true } :: t }).ledger (.queue f 0 none true false []),
        true)
    else (c, false)
  | [] => (c, false)

/-- A plan publication replaces a flight's queue: invalid segments are dropped with SEG_INVALID, and more than 32 are
cut with PUB_TRUNC (R103, R104). A flight whose QSRC is 0 ignores it. DESIGN CHOICE: the invalid ones are dropped before the
rest is cut (log entry 132). -/
def Chip.publishSegs (c : Chip) (f : Nat) (l : List Seg) : Chip :=
  if c.flag (LCK_SEGQ_CTL__QSRC f) then
    let ok := l.filter (fun g => g.ok (c.fNu f))
    let c := if ok.length < l.length then c.raise (LCK_SEGQ_STAT__SEG_INVALID f) else c
    let c := if 32 < ok.length then c.raise (LCK_SEGQ_STAT__PUB_TRUNC f) else c
    (c.setQueue f []).setQueue f (ok.take 32)
  else c

/-- CHN_REVERSE puts each flight with REV_HOLD and a chainage head segment into HOLD at its next due update (R109). -/
def Chip.reverseHold (c : Chip) : Chip :=
  c.each c.enFlights (fun c f =>
    match (c.flight f).queue with
    | g :: _ =>
      if c.flag (LCK_SEGQ_CTL__REV_HOLD f) && g.src && c.fMode f == 2 then
        c.setFlight f { c.flight f with wantHold := true }
      else c
    | [] => c)

/-- A flight's queue, appends accepted for the next boundary included, holds a segment with SRC = 1 (R94). -/
def Chip.chainSegs (c : Chip) : Bool :=
  (List.range 32).any (fun f =>
    let x := c.flight f
    x.queue.any Seg.src || x.ops.any (fun o => match o with
      | .append l => l.any Seg.src
      | .flush => false))

end Sys2Proof.Machine
end

