-- ==== Sys2Proof/Machine/LckOps.lean ====
section
/-! DEFINITION. What the Lock engine's commands share: the layout of a bank, bank pointers, saturation flags, faults and
their reactions (R42, R43, R49 to R51, R70 to R74, R87 to R90). -/

namespace Sys2Proof.Machine

/-! ## Banks (R50, R51) -/

/-- The matrices of a bank, in the order they are stored. -/
inductive MatId where
  | C
  | A
  | B
  | L
  | K
  | N
  deriving DecidableEq, Repr

/-- Rows and columns of a bank's matrices, in order. -/
def matDims (nx nu ny : Nat) : List (MatId × Nat × Nat) :=
  [(.C, ny, nx), (.A, nx, nx), (.B, nx, nu), (.L, nx, ny), (.K, nu, nx), (.N, nu, nu)]

/-- n ÷ k rounded up. -/
def ceilDiv (n k : Nat) : Nat := (n + k - 1) / k

/-- Bytes of a matrix of H rows and W columns (R51). -/
def matBytes (h w : Nat) : Nat := 16 * (ceilDiv h 8 * w)

/-- Bytes of the exponent table (R50). -/
def expBytes (nx nu ny : Nat) : Nat := 16 * ceilDiv (ny + 3 * nx + 2 * nu) 16

/-- The size S of a bank (R51). -/
def bankSize (nx nu ny : Nat) : Nat :=
  64 + expBytes nx nu ny + ((matDims nx nu ny).map (fun d => matBytes d.2.1 d.2.2)).sum

/-- A matrix of a bank: its width, the byte offset of its first word and of its first row's exponent. -/
structure MatAt where
  w : Nat
  off : Nat
  exp : Nat
  deriving DecidableEq, Repr

/-- Where a bank keeps a matrix (R50, R51). -/
def matAt (nx nu ny : Nat) (m : MatId) : MatAt :=
  ((matDims nx nu ny).foldl (fun (acc : MatAt × Nat × Nat) d =>
    (if d.1 = m then ⟨d.2.2, acc.2.1, acc.2.2⟩ else acc.1, acc.2.1 + matBytes d.2.1 d.2.2, acc.2.2 + d.2.1))
    (⟨0, 0, 0⟩, 64 + expBytes nx nu ny, 64)).1

/-- A flight's bank pointer word (R48). -/
def Chip.bankPtr (c : Chip) (f slot : Nat) : Nat := c.lckW (0x1000 + 64 * f + 4 * slot)

/-- A slot's bank pointer reads VALID. -/
def Chip.bankValid (c : Chip) (f slot : Nat) : Bool := (c.bankPtr f slot).testBit 31

/-- First byte of a slot's bank in bank memory. -/
def Chip.bankBase (c : Chip) (f slot : Nat) : Nat := 16 * bits (c.bankPtr f slot) 17 0

/-- A slot is marked failed (R90). -/
def Chip.bankFailed (c : Chip) (f slot : Nat) : Bool := (c.fld (LCK_FSTAT2__BANK_FAIL f)).testBit slot

/-- Coefficient of row i, column col of a matrix at `at_` of the bank at `base`. -/
def Chip.coef (c : Chip) (base : Nat) (a : MatAt) (i col : Nat) : Int :=
  signed 16 (memHalf 0 c.mem.bank (base + a.off + 16 * (i / 8 * a.w + col) + 2 * (i % 8)))

/-- Block exponent of row i of a matrix. -/
def Chip.expo (c : Chip) (base : Nat) (a : MatAt) (i : Nat) : Int :=
  signed 8 (tabGet (fun _ => (0 : Byte)) c.mem.bank (base + a.exp + i)).toNat

/-- Row i of a matrix. -/
def Chip.matRow (c : Chip) (base : Nat) (a : MatAt) (i : Nat) : List Int := (List.range a.w).map (c.coef base a i)

/-! ## Integral map -/

/-- An integral-map entry's word (R48). -/
def Chip.intEntry (c : Chip) (f i : Nat) : Nat := c.lckW (0x0800 + 64 * f + 4 * i)

/-- The enabled integral-map entries of a flight, ascending. -/
def Chip.intEntries (c : Chip) (f : Nat) : List Nat := (List.range 16).filter (fun i => (c.intEntry f i).testBit 31)

/-- ISTATE of an entry. -/
def istate (w : Nat) : Nat := bits w 5 0
/-- IMEAS of an entry. -/
def imeas (w : Nat) : Nat := bits w 12 8
/-- IREF of an entry. -/
def iref (w : Nat) : Nat := bits w 19 16

/-- The states named by enabled entries, in ascending entry number. -/
def Chip.intStates (c : Chip) (f : Nat) : List Nat := (c.intEntries f).map (fun i => istate (c.intEntry f i))

/-! ## Faults and reactions (R87 to R90) -/

/-- The reaction of a two-bit field: 1 HOLD, 2 STOP, 3 HALT in UNDERWAY and STOP elsewhere. It applies to a flight in
RUN or HOLD only, at its next due update (R88). `cause` is LAST_CAUSE of a HALT. -/
def Chip.react (c : Chip) (f r cause : Nat) : Chip :=
  let m := c.fMode f
  if m ≠ 2 ∧ m ≠ 3 then c
  else
    match r with
    | 0 => c
    | 1 =>
      if m = 2 then c.setFlight f { c.flight f with wantHold := true }
      else c.setFlight f { c.flight f with resumeAt := none }
    | 2 => c.setFlight f { c.flight f with wantRamp := true }
    | _ =>
      if c.opState = 2 then { c with pnd := { c.pnd with halt := some (c.pnd.halt.getD cause) } }
      else c.setFlight f { c.flight f with wantRamp := true }

/-- The faults a flight raises together, each with its reaction field: sticky bits, the flight's pending bit and the
interrupt; the most severe reaction is taken, logged, and triggers the Logbook (R87, R88, R514, R518). -/
def Chip.raiseFaults (c : Chip) (f : Nat) (faults : List (Fld × Nat)) : Chip :=
  if faults = [] then c
  else
    let c := c.each faults (fun c x => c.raise x.1)
    let c := (c.raiseBit LCK_FAULT_PEND f).raise LCK_INT_STATUS__FAULT
    let r := faults.foldl (fun m x => max m x.2) 0
    let c := c.react f r 3
    let c := c.logEvent 5 (w32 f) (w32 (c.reg (LCK_FSTAT f))) (w32 r)
    if r = 0 then c else c.logTrigger 3

/-- Reaction field R_OVR (R92). -/
def Chip.rOvr (c : Chip) (f : Nat) : Nat := bits (c.fCtl f) 31 30
/-- Reaction field R_AGE. -/
def Chip.rAge (c : Chip) (f : Nat) : Nat := bits (c.fCtl f) 29 28
/-- Reaction field R_ECC. -/
def Chip.rEcc (c : Chip) (f : Nat) : Nat := bits (c.fCtl f) 27 26
/-- Reaction field R_SAT. -/
def Chip.rSat (c : Chip) (f : Nat) : Nat := bits (c.fCtl f) 25 24

/-! ## Saturation flags (R70 to R74) -/

/-- The saturation flags of an update: bit 0 SAT_ACC, 1 SAT_STORE, 2 SAT_INT, 3 SAT_OUT, as in LCK_FSTAT. A flag that
goes from 0 to 1 sets the flight's pending bit and SAT_NEW; the truth value says that a masked one did, which raises the
fault SATURATION (R72, R74). -/
def Chip.setSat (c : Chip) (f mask : Nat) : Chip × Bool :=
  let old := bits (c.reg (LCK_FSTAT f)) 3 0
  let new := (mask % 16) &&& (15 ^^^ old)
  if new = 0 then (c, false)
  else
    let c := c.setFld ⟨LCK_FSTAT f, 3, 0⟩ (old ||| new)
    let c := (c.raiseBit LCK_SAT_PEND f).raise LCK_INT_STATUS__SAT_NEW
    let c := c.logEvent 6 (w32 f) (w32 (old ||| new)) 0
    (c, (bits (c.fCtl f) 23 20 &&& new) != 0)

end Sys2Proof.Machine
end

