-- ==== Sys2Proof/Machine/Basin.lean ====
section
/-! DEFINITION. The Basin's arithmetic on binary32 words: inner products, factorisations, solves, DLS, the reseed and
the iteration of the quadratic programme (R125, R126, R132 to R134, R151, R152, R171 to R175). Every operation is that
of Float.lean; an infinity stays one through every later operation, so that one test of the results finds it. -/

namespace Sys2Proof.Machine

/-! ## Inner products (R126) -/

/-- The inner product of two vectors in the order of R126. -/
def dotF (xs ys : List Nat) : Nat :=
  let zs := (xs.zip ys).zipIdx
  let p (l : Nat) : Nat := zs.foldl (fun s e => if e.2 % 8 = l then fFma e.1.1 e.1.2 s else s) 0
  fAdd (fAdd (fAdd (p 0) (p 1)) (fAdd (p 2) (p 3))) (fAdd (fAdd (p 4) (p 5)) (fAdd (p 6) (p 7)))

/-- Every word is finite. -/
def allFinite (l : List Nat) : Bool := l.all fFinite

/-! ## Factors (R132 to R134) -/

/-- A factor: kind 0 CHOL, 1 LDLT, 2 QR; its rows (CHOL: row i of L with its diagonal; LDLT: row i of L followed by
d_i), or the columns of a QR factor, each column's reflected part in place, with the diagonals used in back
substitution; and what the pivot tests found: the number of flagged pivots, the first, and while it is formed the
indices flagged so far. -/
structure Fac where
  kind : Nat
  rows : List (List Nat)
  diag : List Nat
  nreg : Nat
  first : Option Nat
  maxd : Nat
  flags : List Nat
  deriving DecidableEq, Repr

/-- The words of a factor as its store holds them: the rows or columns in order, then a QR factor's diagonals. -/
def Fac.words (x : Fac) : List Nat := x.rows.flatten ++ (if x.kind = 2 then x.diag else [])

/-- No operation of the factorisation overflowed or was invalid (R125). -/
def Fac.finite (x : Fac) : Bool := allFinite x.words && fFinite x.maxd

/-- Notes a flagged pivot at index k. -/
def Fac.flag (x : Fac) (k : Nat) (b : Bool) : Fac := if b then { x with flags := x.flags ++ [k] } else x

/-- The first column of a triangular factor, in the column order of R132, at which an operation overflowed or was invalid. -/
def Fac.badColumn (x : Fac) : Nat :=
  ((List.range x.rows.length).find? (fun k => x.rows.any (fun r => !fFinite (r.getD k 0)))).getD x.rows.length

/-- The flagged pivots counted: those reached before the operation that ended the factorisation, if one did (R125, R134). -/
def Fac.count (x : Fac) (upto : Nat) : Fac :=
  let l := x.flags.filter (fun k => decide (k ≤ upto))
  { x with nreg := l.length, first := l.head?, flags := [] }

/-- m of R134: the largest |a_ii|, 1 when it is zero. -/
def maxDiag (n : Nat) (a : Nat → Nat → Nat) : Nat :=
  let m := (List.range n).foldl (fun m i => fMax m (fAbs (a i i))) 0
  if fZero m then 0x3F800000 else m

/-- CHOL of the lower triangle of an n × n matrix (R132, R134), row by row: each entry depends on the rows before it
exactly as in the column order of R132. -/
def cholF (n : Nat) (a : Nat → Nat → Nat) (tau delta : Nat) : Fac :=
  let m := maxDiag n a
  let fac := (List.range n).foldl (fun (x : Fac) i =>
    let row := (List.range i).foldl (fun row k =>
      let rk := x.rows.getD k []
      row ++ [fDiv (fSub (a i k) (dotF row (rk.take k))) (rk.getD k 0)]) []
    let p := fSub (a i i) (dotF row row)
    let bad := fFinite p && (fZero p || fLt p (fMul tau m))
    let p' := if bad then fAdd (fMax p 0) (fMul delta m) else p
    { x.flag i bad with rows := x.rows ++ [row ++ [fSqrt p']] }) ⟨0, [], [], 0, none, m, []⟩
  fac.count fac.badColumn

/-- LDLT of the lower triangle of an n × n matrix (R132, R134). -/
def ldltF (n : Nat) (a : Nat → Nat → Nat) (tau delta : Nat) : Fac :=
  let m := maxDiag n a
  let fac := (List.range n).foldl (fun (x : Fac) i =>
    let d (j : Nat) : Nat := (x.rows.getD j []).getD j 0
    let scaled (row : List Nat) : List Nat := row.zipIdx.map (fun e => fMul e.1 (d e.2))
    let row := (List.range i).foldl (fun row k =>
      row ++ [fDiv (fSub (a i k) (dotF (scaled row) ((x.rows.getD k []).take k))) (d k)]) []
    let p := fSub (a i i) (dotF (scaled row) row)
    let bad := fFinite p && (fZero p || fLt (fAbs p) (fMul tau m))
    let s := if fSign p && !fZero p then fNeg (fMul delta m) else fMul delta m
    { x.flag i bad with rows := x.rows ++ [row ++ [if bad then fAdd p s else p]] }) ⟨1, [], [], 0, none, m, []⟩
  fac.count fac.badColumn

/-- A column after the reflection that takes column v to its diagonal r: col − 2·h·(hᵀ·col) ÷ (hᵀ·h) with h = v − r·e₀. The
value is the exact one, rounded; how many binary32 steps the device's own roundings lie beside it is a free value (R133). -/
def reflectF (v : List Nat) (r : Nat) (col : List Nat) : List Nat :=
  if !(allFinite v && fFinite r && allFinite col) then col.map (fun _ => fInf false)
  else
    let h : List Rat := (v.map fRat).modifyHead (fun x => x - fRat r)
    let x : List Rat := col.map fRat
    let dot (a b : List Rat) : Rat := ((a.zip b).map (fun e => e.1 * e.2)).sum
    let hh := dot h h
    let s : Rat := if hh = 0 then 0 else 2 * dot h x / hh
    (x.zip h).zipIdx.map (fun e => fMove (fOfRat (e.1.1 - s * e.1.2)) (Config.qrSteps (v.map w32) (w32 r) (col.map w32) e.2).toInt)

/-- r_kk of a column: its norm, with the sign opposite to its first entry and positive when that is 0 (R133). -/
def qrDiag (v : List Nat) : Nat :=
  let a := v.getD 0 0
  let n := fSqrt (dotF v v)
  if fZero a || fSign a then n else fNeg n

/-- QR of an m × n matrix given by columns (R133, R134). -/
def qrF (n : Nat) (cols : List (List Nat)) (tau delta : Nat) : Fac :=
  let m := cols.foldl (fun m c => fMax m (fSqrt (dotF c c))) 0
  let m := if fZero m then 0x3F800000 else m
  let fac := (List.range n).foldl (fun (x : Fac) k =>
    let v := (x.rows.getD k []).drop k
    let r := qrDiag v
    let rows := x.rows.zipIdx.map (fun e => if k < e.2 then e.1.take k ++ reflectF v r (e.1.drop k) else e.1)
    let bad := fFinite r && (fZero r || fLt (fAbs r) (fMul tau m))
    let s := if fSign r && !fZero r then fNeg (fMul delta m) else fMul delta m
    { x.flag k (bad && x.finite) with rows := rows, diag := x.diag ++ [if bad then fAdd r s else r] })
      ⟨2, cols, [], 0, none, m, []⟩
  fac.count n

/-! ## Solves (R132, R133) -/

/-- Forward substitution with rows whose entry i is the divisor of row i; `unit` leaves the division out. -/
def forwardF (rows : List (List Nat)) (unit : Bool) (b : List Nat) : List Nat :=
  rows.zipIdx.foldl (fun y r =>
    let s := fSub (b.getD r.2 0) (dotF (r.1.take r.2) y)
    y ++ [if unit then s else fDiv s (r.1.getD r.2 0)]) []

/-- Back substitution in descending rows: `up i` lists row i's entries beyond the diagonal, `dg i` its divisor. -/
def backF (n : Nat) (up : Nat → List Nat) (dg : Nat → Option Nat) (y : List Nat) : List Nat :=
  (List.range n).reverse.foldl (fun x i =>
    let s := fSub (y.getD i 0) (dotF (up i) x)
    (match dg i with
      | some d => fDiv s d
      | none => s) :: x) []

/-- Row i of Lᵀ beyond the diagonal. -/
def Fac.upRow (x : Fac) (i : Nat) : List Nat := (x.rows.drop (i + 1)).map (fun r => r.getD i 0)

/-- One right-hand side solved with a factor of dimension n (R132, R133). -/
def Fac.solve (x : Fac) (n : Nat) (b : List Nat) : List Nat :=
  match x.kind with
  | 0 =>
    let y := forwardF x.rows false b
    backF n x.upRow (fun i => some ((x.rows.getD i []).getD i 0)) y
  | 1 =>
    let y := forwardF x.rows true b
    let w := y.zipIdx.map (fun e => fDiv e.1 ((x.rows.getD e.2 []).getD e.2 0))
    backF n x.upRow (fun _ => none) w
  | _ =>
    let c := (List.range n).foldl (fun b k =>
      let v := (x.rows.getD k []).drop k
      b.take k ++ reflectF v (qrDiag v) (b.drop k)) b
    backF n (fun i => (List.range (n - i - 1)).map (fun j => (x.rows.getD (i + 1 + j) []).getD i 0))
      (fun i => some (x.diag.getD i 0)) c

/-- DLS (R133): x and the factor inside it. -/
def dlsF (m n : Nat) (a : Nat → Nat → Nat) (b : List Nat) (lam tau delta : Nat) : List Nat × Fac :=
  let l2 := fMul lam lam
  let col (j : Nat) : List Nat := (List.range m).map (fun i => a i j)
  let row (i : Nat) : List Nat := (List.range n).map (a i)
  if n ≤ m then
    let g (i j : Nat) : Nat := let s := dotF (col i) (col j); if i = j then fAdd s l2 else s
    let fac := cholF n g tau delta
    (fac.solve n ((List.range n).map (fun j => dotF (col j) b)), fac)
  else
    let g (i j : Nat) : Nat := let s := dotF (row i) (row j); if i = j then fAdd s l2 else s
    let fac := cholF m g tau delta
    let y := fac.solve m b
    ((List.range n).map (fun j => dotF (col j) y), fac)

/-! ## The reseed job (R82, R151, R152) -/

/-- A coefficient or Q1.15 value as binary32: v·2^(e − 15) (R152). -/
def toF (v e : Int) : Nat := fRound v (e - 15) false

/-- A row of a bank's matrix as binary32, its exponent applied. -/
def Chip.rowF (c : Chip) (base : Nat) (a : MatAt) (i : Nat) : List Nat :=
  (c.matRow base a i).map (fun v => toF v (c.expo base a i))

/-- The reseed's values (R152): none when RSD_LAMBDA is not finite or is negative, else the DLS solution with what its
pivots showed. `sa`, `sb` are the active and the requested bank. -/
def Chip.reseedSolve (c : Chip) (f sa sb : Nat) (xh r : List Int) : Option (List Nat × Fac) :=
  let nx := c.fNx f
  let nu := c.fNu f
  let ny := c.fNy f
  let kA := matAt nx nu ny .K
  let nA := matAt nx nu ny .N
  let ba := c.bankBase f sa
  let bb := c.bankBase f sb
  let ints := c.intStates f
  let lam := c.lckW (0xA800 + 16 * f + 4)
  if !fFinite lam || (fSign lam && !fZero lam) then none
  else
    let xf := (List.range nx).map (fun i => toF (xh.getD i 0) 0)
    let rf := (List.range nu).map (fun i => toF (r.getD i 0) 0)
    let rest := (List.range nx).filter (fun i => !ints.contains i)
    let pick (l : List Nat) (is : List Nat) : List Nat := is.map (fun i => l.getD i 0)
    let b := (List.range nu).map (fun k =>
      let s1 := dotF (c.rowF ba kA k) xf
      let s2 := dotF (pick (c.rowF bb kA k) rest) (pick xf rest)
      let s3 := dotF (c.rowF bb nA k) rf
      let s4 := dotF (c.rowF ba nA k) rf
      fSub (fAdd (fSub (fAdd 0 s1) s2) s3) s4)
    let mi := (List.range nu).map (fun k => pick (c.rowF bb kA k) ints)
    some (dlsF nu ints.length (fun i j => (mi.getD i []).getD j 0) b lam (c.reg BSN_RSD_TAU) (c.reg BSN_RSD_DELTA))

/-- A binary32 value as Q1.15, and whether the clamp acted (R82). -/
def toQ15 (w : Nat) : Int × Bool :=
  let v : Rat := fRat w * 32768
  let i := rdivEven v.num v.den
  let t := clampI (-32768) 32767 i
  (t, t != i)

/-! ## Operands in the arena (R127, R129) -/

/-- A word of the arena; the arena's addresses are taken modulo its 8 MiB. -/
def Chip.arenaW (c : Chip) (a : Nat) : Nat := (memWord 0 c.mem.arena (a % 2 ^ 23)).toNat

/-- `n` words of the arena. -/
def Chip.arenaWords (c : Chip) (a n : Nat) : List Nat := (List.range n).map (fun i => c.arenaW (a + 4 * i))

/-- The chip with arena words written. -/
def Chip.arenaPut (c : Chip) (a : Nat) (ws : List Nat) : Chip :=
  { c with mem := { c.mem with arena :=
    (ws.zipIdx.foldl (fun m e => memWriteWords 0 ((a + 4 * e.2) % 2 ^ 23) [w32 e.1] m) c.mem.arena) } }

/-- Bytes of one copy of a factor store (R129). -/
def facBytes (kind m n : Nat) : Nat :=
  if kind = 2 then 16 * ceilDiv (4 * (m * n + n)) 16 else 16 * ceilDiv (4 * (n * (n + 1) / 2)) 16

/-! ## Descriptor fields (R130) -/

/-- KIND. -/
def jKind (d : List Word) : Nat := bits (wordAt d 0) 31 28
/-- WARM. -/
def jWarm (d : List Word) : Bool := (wordAt d 0).testBit 27
/-- DL_REL. -/
def jRel (d : List Word) : Bool := (wordAt d 0).testBit 26
/-- EVT. -/
def jEvt (d : List Word) : Bool := (wordAt d 0).testBit 25
/-- PRIO. -/
def jPrio (d : List Word) : Nat := bits (wordAt d 0) 18 16
/-- WSLOT. -/
def jWslot (d : List Word) : Nat := bits (wordAt d 0) 15 8
/-- RSLOT. -/
def jRslot (d : List Word) : Nat := bits (wordAt d 0) 7 0
/-- M. -/
def jM (d : List Word) : Nat := bits (wordAt d 1) 26 16
/-- N. -/
def jN (d : List Word) : Nat := bits (wordAt d 1) 8 0
/-- KP. -/
def jKp (d : List Word) : Nat := bits (wordAt d 2) 31 16
/-- LDA. -/
def jLda (d : List Word) : Nat := bits (wordAt d 2) 15 0
/-- A_ADDR. -/
def jA (d : List Word) : Nat := bits (wordAt d 3) 22 0
/-- B_ADDR. -/
def jB (d : List Word) : Nat := bits (wordAt d 4) 22 0
/-- F_ADDR. -/
def jF (d : List Word) : Nat := bits (wordAt d 5) 22 0
/-- TAU. -/
def jTau (d : List Word) : Nat := wordAt d 6
/-- DELTA. -/
def jDelta (d : List Word) : Nat := wordAt d 7
/-- LAMBDA. -/
def jLambda (d : List Word) : Nat := wordAt d 8
/-- EPS. -/
def jEps (d : List Word) : Nat := wordAt d 9

/-- The rows of A: N for symmetric kinds, M otherwise. -/
def jRows (d : List Word) : Nat := if jKind d = 0 ∨ jKind d = 1 then jN d else jM d

/-- The result length of a descriptor in words (R131, R175). -/
def jLen (d : List Word) : Nat :=
  match jKind d with
  | 0 | 1 | 2 | 3 => jN d * jKp d
  | 4 | 6 => jN d
  | 5 => jN d + 8
  | 7 => 1
  | _ => 0

/-- The factor store of a job at F_ADDR (R129): its header's fields. -/
def Chip.facValid (c : Chip) (f : Nat) : Bool := (c.arenaW f).testBit 31
/-- FKIND of a factor store. -/
def Chip.facKind (c : Chip) (f : Nat) : Nat := bits (c.arenaW f) 29 28
/-- FN of a factor store. -/
def Chip.facN (c : Chip) (f : Nat) : Nat := bits (c.arenaW (f + 4)) 8 0
/-- FM of a factor store. -/
def Chip.facM (c : Chip) (f : Nat) : Nat := bits (c.arenaW (f + 4)) 26 16
/-- FNREG of a factor store. -/
def Chip.facNreg (c : Chip) (f : Nat) : Nat := bits (c.arenaW (f + 12)) 15 0

/-- Rows of growing length cut from a list: the packed lower triangle of a factor (log entry 31). -/
def triRows : Nat → Nat → List Nat → List (List Nat)
  | 0, _, _ => []
  | n + 1, k, l => l.take (k + 1) :: triRows n (k + 1) (l.drop (k + 1))

/-- Columns of equal length cut from a list. -/
def cutCols : Nat → Nat → List Nat → List (List Nat)
  | 0, _, _ => []
  | n + 1, m, l => l.take m :: cutCols n m (l.drop m)

/-- The current copy of a factor store (R129). -/
def Chip.facRead (c : Chip) (f : Nat) : Fac :=
  let kind := c.facKind f
  let n := c.facN f
  let m := c.facM f
  let a := f + 32 + (if (c.arenaW f).testBit 30 then facBytes kind m n else 0)
  let nreg := c.facNreg f
  if kind = 2 then
    let ws := c.arenaWords a (m * n + n)
    ⟨2, cutCols n m ws, ws.drop (m * n), nreg, none, c.arenaW (f + 8), []⟩
  else ⟨kind, triRows n 0 (c.arenaWords a (n * (n + 1) / 2)), [], nreg, none, c.arenaW (f + 8), []⟩

/-- A completed factorisation: the copy that is not current is written and becomes current (R128, R129). -/
def Chip.facWrite (c : Chip) (f m n : Nat) (x : Fac) : Chip :=
  let w := c.arenaW f
  let cur := if w.testBit 30 then 0 else 1
  let c := c.arenaPut (f + 32 + cur * facBytes x.kind m n) x.words
  c.arenaPut f [2 ^ 31 + cur * 2 ^ 30 + x.kind * 2 ^ 28 + (bits w 15 0 + 1) % 2 ^ 16,
    (if x.kind = 2 then m else n) * 2 ^ 16 + n, x.maxd, x.nreg % 2 ^ 16]

/-- Operand A of a job, column-major with LDA; symmetric kinds read the lower triangle. -/
def Chip.opA (c : Chip) (d : List Word) (i j : Nat) : Nat := c.arenaW (jA d + 4 * (j * jLda d + i))

/-- The words of A that a job reads. -/
def Chip.opAWords (c : Chip) (d : List Word) : List Nat :=
  (List.range (jN d)).flatMap (fun j =>
    (List.range (jRows d)).filterMap (fun i =>
      if (jKind d = 0 ∨ jKind d = 1) ∧ i < j then none else some (c.opA d i j)))

/-- The rows of B a job takes: M where Qᵀ or Aᵀ is applied to it, N otherwise. -/
def Chip.bRows (c : Chip) (d : List Word) : Nat :=
  if jKind d = 3 ∨ jKind d = 4 ∨ (jKind d = 2 ∧ c.facKind (jF d) = 2) then jM d else jN d

/-- Column k of the right-hand sides: leading dimension M for QR and DLS, N otherwise, a SOLVE of a QR factor with its M
rows included (R127). -/
def Chip.opB (c : Chip) (d : List Word) (k : Nat) : List Nat :=
  let ld := if jKind d = 3 ∨ jKind d = 4 then jM d else jN d
  c.arenaWords (jB d + 4 * k * ld) (c.bRows d)

/-- The outcome of a job's computation: a status without a result, with the factor completed before it, or the data with the
factor formed; with each what the pivots showed (R134, R145). -/
inductive JobOut where
  | bad (rst : Nat) (fac : Option Fac) (nreg : Nat) (first : Option Nat)
  | done (data : List Nat) (fac : Option Fac) (nreg : Nat) (first : Option Nat)
  deriving DecidableEq, Repr

/-- Result statuses (R145). -/
abbrev rsOK : Nat := 2
abbrev rsREG : Nat := 3
abbrev rsDEADLINE : Nat := 4
abbrev rsSTALE : Nat := 5
abbrev rsOVERFLOW : Nat := 6
abbrev rsBADIN : Nat := 7
abbrev rsABORTED : Nat := 8
abbrev rsMEMERR : Nat := 9
abbrev rsTESTFAIL : Nat := 10

/-- The computation of a direct job (kinds 0 to 4) on the operands as they stand (R132 to R134). A factor that completes
stays whatever the solves do (R128, R142). DESIGN CHOICE (log entry 133): a job whose right-hand sides hold a word that is
not finite ends before its factorisation, and so does one that an uncorrectable error ends; its store stays as it is. -/
def Chip.directJob (c : Chip) (d : List Word) : JobOut :=
  let n := jN d
  let m := jM d
  let rhs := (List.range (jKp d)).map (c.opB d)
  let out (fac : Option Fac) (f : Fac) (x : List Nat) : JobOut :=
    if f.finite = false then .bad rsOVERFLOW none f.nreg f.first
    else if allFinite x then .done x fac f.nreg f.first
    else .bad rsOVERFLOW fac f.nreg f.first
  match jKind d with
  | 0 | 1 | 3 =>
    if !(allFinite (c.opAWords d) && rhs.all allFinite) then .bad rsBADIN none 0 none
    else
      let f := match jKind d with
        | 0 => cholF n (c.opA d) (jTau d) (jDelta d)
        | 1 => ldltF n (c.opA d) (jTau d) (jDelta d)
        | _ => qrF n ((List.range n).map (fun j => (List.range m).map (fun i => c.opA d i j))) (jTau d) (jDelta d)
      out (some f) f ((rhs.map (f.solve n)).flatten)
  | 2 =>
    let f := jF d
    if c.facValid f = false ∨ c.facN f ≠ n ∨ (c.facKind f = 2 ∧ c.facM f ≠ m) then .bad rsBADIN none 0 none
    else
      let fac := c.facRead f
      if !(rhs.all allFinite && allFinite fac.words) then .bad rsBADIN none 0 none
      else out none fac ((rhs.map (fac.solve n)).flatten)
  | _ =>
    let b := c.opB d 0
    if !(allFinite (c.opAWords d) && allFinite b) then .bad rsBADIN none 0 none
    else
      let r := dlsF m n (c.opA d) b (jLambda d) (jTau d) (jDelta d)
      out none r.2 r.1

end Sys2Proof.Machine
end

