-- ==== Sys2Proof/Machine/BasinJobs.lean ====
section
/-! DEFINITION. Basin jobs from submission to their result slots: deadlines, ends, slots and snapshots, the quadratic
programme's progress (R120 to R124, R128, R131, R136 to R156, R169 to R176). -/

namespace Sys2Proof.Machine

/-! ## Slots (R145 to R149) -/

/-- A slot that never held a result. -/
def RSlot.empty : RSlot := ⟨List.replicate 16 0, [], 15, 0⟩

/-- Result slot s. -/
def Chip.rslot (c : Chip) (s : Nat) : RSlot := tabGet (fun _ => RSlot.empty) c.bsn.slots s

/-- The chip with a result slot replaced. -/
def Chip.setRslot (c : Chip) (s : Nat) (x : RSlot) : Chip :=
  { c with bsn := { c.bsn with slots := tabPut (fun _ => RSlot.empty) s x c.bsn.slots } }

/-- The job queued or running on a slot. -/
def Chip.job (c : Chip) (s : Nat) : Option Job := (c.bsn.jobs.find? (fun e => e.1 == s)).map (·.2)

/-- The chip with the job of a slot replaced. -/
def Chip.setJob (c : Chip) (s : Nat) (j : Job) : Chip :=
  { c with bsn := { c.bsn with jobs := (c.bsn.jobs.filter (fun e => e.1 != s)) ++ [(s, j)] } }

/-- The chip without the job of a slot. -/
def Chip.dropJob (c : Chip) (s : Nat) : Chip :=
  { c with bsn := { c.bsn with jobs := c.bsn.jobs.filter (fun e => e.1 != s) } }

/-- Bits of header word 0. -/
def RSlot.seq (x : RSlot) : Nat := bits (wordAt x.hdr 0) 31 16
/-- RSTAT of a slot. -/
def RSlot.rstat (x : RSlot) : Nat := bits (wordAt x.hdr 0) 15 12
/-- VALID of a slot. -/
def RSlot.valid (x : RSlot) : Bool := (wordAt x.hdr 0).testBit 11
/-- SRC_SEQ of a slot. -/
def RSlot.srcSeq (x : RSlot) : Nat := bits (wordAt x.hdr 8) 15 0

/-- What a read of a slot sees: while a job is queued or running on it, NOT_READY with VALID 0 and data 0 (R146). -/
def Chip.slotView (c : Chip) (s : Nat) : List Word :=
  let x := c.rslot s
  match c.job s with
  | none => x.hdr ++ x.data
  | some _ =>
    let w := putBits (putBits (wordAt x.hdr 0) 15 12 1) 11 11 0
    w32 w :: (x.hdr.drop 1 ++ List.replicate x.data.length 0)

/-- A slot has never been or is no longer submitted to by the host: FREE (R148). -/
def Chip.slotHeld (c : Chip) (s : Nat) : Bool := 128 ≤ s && (c.reg (BSN_HELD ((s - 128) / 32))).testBit ((s - 128) % 32)

/-- Marks a host slot HELD or FREE. -/
def Chip.setHeld (c : Chip) (s : Nat) (b : Bool) : Chip :=
  if 128 ≤ s then c.setFlag ⟨BSN_HELD ((s - 128) / 32), (s - 128) % 32, (s - 128) % 32⟩ b else c

/-- A snapshot of a slot, and with a consuming read of a HELD host slot with a final status the slot freed (R147,
R149). DESIGN CHOICE (log entry 134): of the freed slot's header, which R149 gives only RSTAT, VALID, LEN and SEQ, every other
field reads 0. -/
def Chip.slotRead (c : Chip) (s : Nat) (consume : Bool) : Chip × List Word :=
  let v := c.slotView s
  if consume && c.slotHeld s && (c.job s).isNone && decide ((c.rslot s).rstat ≠ 0) then
    let x := c.rslot s
    let w0 := w32 (x.seq * 2 ^ 16)
    ((c.setRslot s ⟨w0 :: List.replicate 15 0, [], 15, 0⟩).setHeld s false, v)
  else (c, v)

/-! ## Submission (R131, R148, R151) -/

/-- A float field is finite and lies in [0, 1). -/
def tauOk (w : Nat) : Bool := fFinite w && fLe 0 w && fLt w 0x3F800000
/-- A float field is finite and lies in (0, 1]. -/
def deltaOk (w : Nat) : Bool := fFinite w && fLt 0 w && fLe w 0x3F800000

/-- The operand ranges and the factor store of a descriptor: (first byte, length) (R127, R129, R169). -/
def Chip.jobRanges (c : Chip) (d : List Word) : List (Nat × Nat) :=
  let n := jN d
  let m := jM d
  let a := if n = 0 then 0 else 4 * ((n - 1) * jLda d + jRows d)
  let store (k : Nat) : Nat × Nat := (jF d, 32 + 2 * facBytes k m n)
  match jKind d with
  | 0 => [(jA d, a), (jB d, 4 * n * jKp d), store 0]
  | 1 => [(jA d, a), (jB d, 4 * n * jKp d), store 1]
  | 2 =>
    let k := c.facKind (jF d)
    [(jB d, 4 * (n * (jKp d - 1) + c.bRows d)), store k]
  | 3 => [(jA d, a), (jB d, 4 * m * jKp d), store 2]
  | 4 => [(jA d, a), (jB d, 4 * m)]
  | 5 =>
    let o (i : Nat) : Nat := (jA d + bits (c.arenaW (jA d + i)) 22 0) % 2 ^ 23
    let v (k : Nat) : Nat := 16 * ceilDiv (4 * k) 16
    [(jA d, 64), (o 0x10, 4 * n * n), (o 0x14, 4 * ((n - 1) * jLda d + m)), (o 0x18, 4 * m), (o 0x1C, 16 + 3 * v m),
      (jB d, v n + v m + 4 * m), store 0]
  | _ => []

/-- The ranges R131 tests: for a QP those the descriptor itself names. -/
def Chip.submitRanges (c : Chip) (d : List Word) : List (Nat × Nat) :=
  let n := jN d
  let m := jM d
  let v (k : Nat) : Nat := 16 * ceilDiv (4 * k) 16
  if jKind d = 5 then [(jA d, 64), (jB d, v n + v m + 4 * m), (jF d, 32 + 2 * facBytes 0 m n)] else c.jobRanges d

/-- What R131 and the ranges of KP (R11) ask of a descriptor, each condition with the word that holds the field. -/
def Chip.descChecks (c : Chip) (d : List Word) (host : Bool) : List (Nat × Bool) :=
  let k := jKind d
  let n := jN d
  let m := jM d
  let slotOk (s : Nat) : Bool := if host then decide (128 ≤ s) else decide (32 ≤ s ∧ s < 128)
  let useM := k == 3 || k == 4 || k == 5 || k == 7 || (k == 2 && c.facKind (jF d) == 2)
  let kpOk := match k with
    | 0 | 1 | 3 => decide (jKp d ≤ 16)
    | 2 => decide (1 ≤ jKp d ∧ jKp d ≤ 16)
    | 5 => decide (1 ≤ jKp d ∧ jKp d ≤ 4095)
    | 7 => decide (jKp d < 64 ∨ jKp d = 0xFFFF)
    | _ => true
  let ranges : List (Nat × Bool) := if k = 7 then [] else (c.submitRanges d).zipIdx.map (fun r =>
    (r.2 + (if k = 2 then 4 else 3), decide (r.1.1 % 16 = 0 ∧ r.1.1 + r.1.2 ≤ 2 ^ 23)))
  [(0, decide (k ≤ 7 ∧ k ≠ 6) && slotOk (jRslot d) && (!jWarm d || slotOk (jWslot d))),
   (1, decide (1 ≤ n ∧ n ≤ 384) && (!useM || decide (1 ≤ m ∧ m ≤ 1024)) && (k != 3 || decide (n ≤ m))),
   (2, kpOk && (k == 2 || k == 7 || decide (jRows d ≤ jLda d)) && decide (jLen d ≤ 1008))]
    ++ ranges ++
  [(6, tauOk (jTau d)), (7, deltaOk (jDelta d)),
   (8, k != 4 || (fFinite (jLambda d) && (fZero (jLambda d) || !fSign (jLambda d)))),
   (9, k != 5 || (fFinite (jEps d) && fLt 0 (jEps d)))]

/-- The descriptor may be queued (R131). -/
def Chip.descOk (c : Chip) (d : List Word) (host : Bool) : Bool := (c.descChecks d host).all (·.2)

/-- The index of a descriptor's first invalid word (R483). -/
def Chip.descBad (c : Chip) (d : List Word) (host : Bool) : Nat :=
  (((c.descChecks d host).find? (fun e => !e.2)).map (·.1)).getD 0

/-- The activity class of a job (R414). -/
def jobClass (owner kind : Nat) : Nat :=
  if owner = 2 then 1 else if kind = 7 then 7 else if owner = 0 then 4 else 2

/-- A job as it stands when it is submitted. -/
def Job.new (d : List Word) (owner now deadline : Nat) : Job :=
  { d := d, owner := owner, submitted := now, deadline := deadline, running := false, lane := 0, startT := 0, iter := 0,
    iterT := 0, facDone := false, newFac := false, nreg := 0, firstReg := none, cold := false, coldStart := false, warm := false, x := [],
    z := [], y := [], resP := 0, resD := 0, xh := [], r := [], slotA := 0, slotB := 0, fail := none }

/-- The deadline tick of a descriptor submitted now (R136): relative, or the tick of a pound and phase, the pounds still
to come being counted at their nominal length. -/
def Chip.deadlineTick (c : Chip) (d : List Word) (submitted : Nat) : Nat :=
  if jRel d then submitted + wordAt d 10
  else
    let k := modDiff 32 (wordAt d 10) c.poundNum
    let ph := min (bits (wordAt d 11) 17 0) (c.P - 1)
    if k < 0 ∨ k = -2147483648 then 0
    else if k = 0 then c.pnd.start + ph
    else c.pnd.start + c.poundLen + (k.toNat - 1) * c.P + ph

/-- The deadline tick of a job. -/
def Chip.jobDeadline (c : Chip) (j : Job) : Nat := if j.owner = 2 then j.deadline else c.deadlineTick j.d j.submitted

/-- A submission by the host, from an interface, or by firmware: its status (R131, R148, R417). -/
def Chip.bsnSubmit (c : Chip) (d : List Word) (ifc : Option Iface) : Chip × Nat :=
  let host := ifc.isSome
  let by_ : Submitter := match ifc with
    | some i => .host i
    | none => .firmware
  if c.descOk d host = false then (c, stINVALID_ARG)
  else if c.opState = 0 ∧ jKind d ≠ 7 then (c, stWRONG_STATE)
  else if (c.job (jRslot d)).isSome then (c, stBUSY)
  else
    let owner := if host then 0 else 1
    let r := c.submit 0 ⟨jobClass owner (jKind d), jPrio d, none, .job (jRslot d), c.now, by_⟩
    if r.2 then ((r.1.setJob (jRslot d) (Job.new d owner c.now 0)).setHeld (jRslot d) true, stOK) else (r.1, stBUSY)

/-! ## The end of a job (R138 to R146, R150) -/

/-- The reseed's result reaches its flight (R83, R84): a usable one written by the time-out gives its values, any other
makes the swap without reseed; a clamp sets SAT_INT. -/
def Chip.reseedResult (c : Chip) (f rst : Nat) (vals : List Int) (clamped : Bool) : Chip :=
  let x := c.flight f
  match x.reseed with
  | none => c
  | some q =>
    if q.ready.isSome ∨ q.deadline + 256 < c.now then c
    else
      let ok := rst = rsOK ∨ rst = rsREG
      let c := c.setFlight f { x with reseed := some { q with ready := some (c.now, if ok then some vals else none) } }
      let c := c.setFld (LCK_FSTAT__RSD_BUSY f) 0
      if ok then
        if clamped then
          let r := c.setSat f 4
          if r.2 then r.1.raiseFaults f [(LCK_FSTAT__SATURATION f, r.1.rSat f)] else r.1
        else c
      else c.raise LCK_INT_STATUS__RESEED_FAIL

/-- The counters and interrupt bits of a job that ends (R150, R155, R156). -/
def Chip.jobCounts (c : Chip) (s : Nat) (j : Job) (rst nreg : Nat) : Chip :=
  let c := c.count BSN_CNT_DONE__DONE 1
  let c := if rst = rsDEADLINE then (c.count BSN_CNT_EXC__DEADLINE 1).raise BSN_INT_STATUS__DEADLINE else c
  let c := if rst = rsSTALE then (c.count BSN_CNT_EXC__STALE 1).raise BSN_INT_STATUS__STALE else c
  let c := if rst = rsOVERFLOW ∨ rst = rsBADIN then
      (c.count BSN_CNT_EXC__OVERFLOW 1).raise BSN_INT_STATUS__OVERFLOW else c
  let c := if 0 < nreg then c.count BSN_CNT_EXC__REGULARISED 1 else c
  if s < 128 then c
  else
    let c := (c.raiseBit (BSN_DONE_PEND ((s - 128) / 32)) ((s - 128) % 32)).raise BSN_INT_STATUS__SLOT_DONE
    if jEvt j.d then
      c.hostEvent 5 [w32 ((c.rslot s).seq * 2 ^ 16 + rst * 2 ^ 12 + jKind j.d * 2 ^ 8 + s),
        w32 (bits (wordAt j.d 12) 15 0)]
    else c

/-- A job ends with a status: its header is written and its worker and list entry are freed. `data` none keeps the data,
VALID and SRC_SEQ the slot holds (R140); `iter` and the residuals are those of the returned iterate (R145, R146). -/
def Chip.endJob (c : Chip) (s : Nat) (j : Job) (rst : Nat) (data : Option (Bool × List Word)) (cut : Bool) : Chip :=
  let x := c.rslot s
  let seq := (x.seq + 1) % 2 ^ 16
  let valid := match data with
    | some d => d.1
    | none => x.valid
  let ws := match data with
    | some d => d.2
    | none => x.data
  let src := match data with
    | some _ => seq
    | none => x.srcSeq
  let w0 := seq * 2 ^ 16 + rst * 2 ^ 12 + b2n valid * 2 ^ 11 + b2n j.cold * 2 ^ 10 + b2n cut * 2 ^ 9
    + b2n (0 < j.nreg) * 2 ^ 8 + jKind j.d * 2 ^ 4
  let hdr : List Word := [w32 w0, w32 (bits (wordAt j.d 12) 15 0 * 2 ^ 16 + ws.length), w32 (j.nreg % 2 ^ 16 * 2 ^ 16 + j.iter),
    w32 (j.firstReg.getD 0xFFFF), j.resP, j.resD, w32 c.poundNum, w32 (c.phase % 2 ^ 18), w32 src,
    0, 0, 0, 0, 0, 0, 0]
  let keep := data.isNone
  let c := c.setRslot s ⟨hdr, ws, if keep then x.kind else jKind j.d, if keep then x.n else jN j.d⟩
  let c := ((c.dropJob s).workDone (.job s)).unlist 0 (.job s)
  c.jobCounts s j rst j.nreg

/-- A job ends with a status that carries no result (R142); `cut` says that a mode change stopped it (R123). -/
def Chip.failJob (c : Chip) (s : Nat) (j : Job) (rst : Nat) (cut : Bool) : Chip :=
  let c := c.endJob s j rst (some (false, List.replicate (jLen j.d) 0)) cut
  if j.owner = 2 then c.reseedResult s rst [] false else c

/-! ## The quadratic programme (R169 to R175) -/

/-- What the QP job reads: dimensions, parameters, matrices and vectors. -/
structure QpIn where
  n : Nat
  m : Nat
  refac : Bool
  sigma : Nat
  rho : Nat
  alpha : Nat
  p : List (List Nat)
  a : List (List Nat)
  q : List Nat
  l : List Nat
  u : List Nat
  keys : List Nat
  dual : Nat
  deriving DecidableEq, Repr

/-- The QP's operands in the arena: `p` row by row with its upper part taken from the lower, `a` row by row (R169). -/
def Chip.qpRead (c : Chip) (d : List Word) : QpIn :=
  let n := jN d
  let m := jM d
  let pb := jA d
  let o (i : Nat) : Nat := pb + bits (c.arenaW (pb + i)) 22 0
  let v (k : Nat) : Nat := 16 * ceilDiv (4 * k) 16
  let pAt (i j : Nat) : Nat := if j ≤ i then c.arenaW (o 0x10 + 4 * (j * n + i)) else c.arenaW (o 0x10 + 4 * (i * n + j))
  { n := n, m := m, refac := (c.arenaW pb).testBit 31
    sigma := c.arenaW (pb + 4), rho := c.arenaW (pb + 8), alpha := c.arenaW (pb + 12)
    p := (List.range n).map (fun i => (List.range n).map (pAt i))
    a := (List.range m).map (fun r => (List.range n).map (fun i => c.arenaW (o 0x14 + 4 * (i * jLda d + r))))
    q := c.arenaWords (jB d) n, l := c.arenaWords (jB d + v n) m, u := c.arenaWords (jB d + v n + v m) m
    keys := c.arenaWords (o 0x18) m, dual := o 0x1C }

/-- The conditions of R125 and R170 on the operands, the words of a reused factor among them. -/
def Chip.qpOk (c : Chip) (d : List Word) (g : QpIn) : Bool :=
  fFinite g.sigma && fLt 0 g.sigma && fFinite g.rho && fLt 0 g.rho
    && fFinite g.alpha && fLt 0 g.alpha && fLt g.alpha 0x40000000
    && g.p.all allFinite && g.a.all allFinite && allFinite g.q && allFinite g.l && allFinite g.u
    && (g.l.zip g.u).all (fun e => fLe e.1 e.2)
    && decide g.keys.Nodup
    && (g.refac || (c.facValid (jF d) && c.facN (jF d) == g.n && allFinite (c.facRead (jF d)).words))

/-- Column i of A. -/
def QpIn.col (g : QpIn) (i : Nat) : List Nat := g.a.map (fun r => r.getD i 0)

/-- A·x. -/
def QpIn.ax (g : QpIn) (x : List Nat) : List Nat := g.a.map (fun r => dotF r x)

/-- The entries of the primal and of the dual residual of an iterate (R171). -/
def qpResid (g : QpIn) (x z y : List Nat) : List Nat × List Nat :=
  (((g.ax x).zip z).map (fun e => fSub e.1 e.2),
   (List.range g.n).map (fun i => fAdd (fAdd (dotF (g.p.getD i []) x) (g.q.getD i 0)) (dotF (g.col i) y)))

/-- The largest absolute value of a vector. -/
def fNormMax (l : List Nat) : Nat := l.foldl (fun m e => fMax m (fAbs e)) 0

/-- The residuals of an iterate (R171). -/
def qpRes (g : QpIn) (x z y : List Nat) : Nat × Nat :=
  let r := qpResid g x z y
  (fNormMax r.1, fNormMax r.2)

/-- The job as it starts: its starting iterate from the slot and the dual area as they stand now, and the status that the
operands bind it to (R125, R144, R170, R174). -/
def Chip.qpStart (c : Chip) (j : Job) : Job :=
  let g := c.qpRead j.d
  let ws := c.rslot (jWslot j.d)
  let usable := jWarm j.d && !j.coldStart && ws.valid && ws.kind == 5 && ws.n == g.n
  let x := if usable then (List.range g.n).map (wordAt ws.data) else List.replicate g.n 0
  let ax := g.ax x
  let dm := bits (c.arenaW g.dual) 26 16
  let v := 16 * ceilDiv (4 * dm) 16
  let dz := c.arenaWords (g.dual + 16) dm
  let dy := c.arenaWords (g.dual + 16 + v) dm
  let dk := c.arenaWords (g.dual + 16 + 2 * v) dm
  let match_ := jWarm j.d && decide (bits (c.arenaW g.dual) 15 0 = ws.srcSeq)
  let kept := g.keys.map (fun k => if match_ then dk.findIdx? (· == k) else none)
  let zy : List (Nat × Nat) := kept.zipIdx.map (fun e => match e.1 with
    | some i => (dz.getD i 0, dy.getD i 0)
    | none => (fMin (fMax (ax.getD e.2 0) (g.l.getD e.2 0)) (g.u.getD e.2 0), 0))
  let read := allFinite x && (kept.zip zy).all (fun e => e.1.isNone || (fFinite e.2.1 && fFinite e.2.2))
  let formed := (kept.zip ax).all (fun e => e.1.isSome || fFinite e.2)
  let fail := if !(c.qpOk j.d g && read) then some rsBADIN else if formed then none else some rsOVERFLOW
  { j with cold := jWarm j.d && !usable, warm := usable, x := x.map w32, z := zy.map (fun e => w32 e.1)
           y := zy.map (fun e => w32 e.2), fail := fail }

/-- The factor of a QP job: formed from its operands, or the one its store holds (R171). -/
def Chip.qpFac (c : Chip) (j : Job) : Fac :=
  let g := c.qpRead j.d
  let kk (i k : Nat) : Nat :=
    let v := fFma g.rho (dotF (g.col i) (g.col k)) ((g.p.getD i []).getD k 0)
    if i = k then fAdd v g.sigma else v
  if g.refac then cholF g.n kk (jTau j.d) (jDelta j.d) else c.facRead (jF j.d)

/-- The setup of the QP: a factor that completes becomes current; one that overflows leaves the store as it is, and the truth
value is false (R128, R142, R171). -/
def Chip.qpSetup (c : Chip) (s : Nat) (j : Job) : Chip × Job × Bool :=
  let fac := c.qpFac j
  if fac.finite = false then (c, { j with nreg := fac.nreg, firstReg := fac.first }, false)
  else
    let g := c.qpRead j.d
    let j := { j with facDone := true, newFac := g.refac, nreg := fac.nreg, firstReg := fac.first }
    let c := if g.refac then c.facWrite (jF j.d) g.n g.n fac else c
    (c.setJob s j, j, true)

/-- One iteration of R171 on (x, z, y), with the residuals; the truth value says that no operation overflowed or was invalid
(R125), the values that a clamp may hide among them. -/
def qpStep (g : QpIn) (fac : Fac) (x z y : List Nat) : List Nat × List Nat × List Nat × (Nat × Nat) × Bool :=
  let rinv := fDiv 0x3F800000 g.rho
  let w := (z.zip y).map (fun e => fFma g.rho e.1 (fNeg e.2))
  let gv := (x.zip g.q).zipIdx.map (fun e => fAdd (fFma g.sigma e.1.1 (fNeg e.1.2)) (dotF (g.col e.2) w))
  let xt := fac.solve g.n gv
  let zt := g.ax xt
  let zr := (zt.zip z).map (fun e => fFma g.alpha (fSub e.1 e.2) e.2)
  let zv := (y.zip zr).map (fun e => fFma rinv e.1 e.2)
  let z' := zv.zipIdx.map (fun e => fMin (fMax e.1 (g.l.getD e.2 0)) (g.u.getD e.2 0))
  let y' := (zr.zip (z'.zip y)).map (fun e => fFma g.rho (fSub e.1 e.2.1) e.2.2)
  let x' := (xt.zip x).map (fun e => fFma g.alpha (fSub e.1 e.2) e.2)
  let r := qpResid g x' z' y'
  (x', z', y', (fNormMax r.1, fNormMax r.2), [w, gv, xt, zt, zr, zv, x', y', r.1, r.2].all allFinite)

/-- The distances the summary of R175 takes from the rows at x: l − A·x and A·x − u of the rows of key kinds 0 to 2, and
A·x − l of the collision rows. -/
def QpIn.gaps (g : QpIn) (x : List Nat) : List Nat × List Nat :=
  let rows := ((g.ax x).zip (g.l.zip g.u)).zip g.keys
  let of (b : Bool) := rows.filter (fun e => (bits e.2 31 30 == 3) == b)
  ((of false).flatMap (fun e => [fSub e.1.2.1 e.1.1, fSub e.1.1 e.1.2.2]), (of true).map (fun e => fSub e.1.1 e.1.2.1))

/-- The result words of an iterate (R175). -/
def qpData (g : QpIn) (x : List Nat) (conv newFac : Bool) : List Nat :=
  let px := g.p.map (fun r => dotF r x)
  let obj := fAdd (fMul 0x3F000000 (dotF x px)) (dotF g.q x)
  let gaps := g.gaps x
  let one (b : Bool) : Nat := if b then 0x3F800000 else 0
  x ++ [obj, gaps.1.foldl fMax 0, gaps.2.foldl fMin 0x7F7FFFFF, one conv, one newFac, g.rho, 0, 0]

/-- No operation that forms an iterate's result words overflows or is invalid (R125), those whose result a maximum or minimum
may hide among them. -/
def qpDataOk (g : QpIn) (x : List Nat) : Bool :=
  allFinite (qpData g x false false) && allFinite (g.gaps x).1 && allFinite (g.gaps x).2

/-- The dual area rewritten with an iterate (R175). -/
def Chip.dualWrite (c : Chip) (g : QpIn) (seq : Nat) (z y : List Nat) : Chip :=
  let v := 16 * ceilDiv (4 * g.m) 16
  let c := c.arenaPut g.dual [g.m * 2 ^ 16 + seq, 0, 0, 0]
  ((c.arenaPut (g.dual + 16) z).arenaPut (g.dual + 16 + v) y).arenaPut (g.dual + 16 + 2 * v) g.keys

/-- The words of an iterate as numbers. -/
def natWords (l : List Word) : List Nat := l.map BitVec.toNat

/-- The status of a job whose operands or arithmetic bind it to `bad` when it is stopped with `rst`: a cancelled job ends
ABORTED whatever they hold (R125, R143). -/
def stopRst (rst bad : Nat) : Nat := if rst = rsABORTED then rsABORTED else bad

/-- The QP ends with new data of the iterate it holds, VALID or not, and the dual area is rewritten with that iterate and the
current keys (R175). -/
def Chip.qpWrite (c : Chip) (s : Nat) (j : Job) (rst : Nat) (valid conv cut : Bool) : Chip :=
  let g := c.qpRead j.d
  let seq := ((c.rslot s).seq + 1) % 2 ^ 16
  let c := c.endJob s j rst (some (valid, (qpData g (natWords j.x) conv j.newFac).map w32)) cut
  c.dualWrite g seq (natWords j.z) (natWords j.y)

/-- The QP ends with the iterate it holds, written as new data with its dual area (R138, R172, R175); a summary that
overflows ends it OVERFLOW (R125). -/
def Chip.qpEnd (c : Chip) (s : Nat) (j : Job) (rst : Nat) (conv cut : Bool) : Chip :=
  if qpDataOk (c.qpRead j.d) (natWords j.x) = false then c.failJob s j (stopRst rst rsOVERFLOW) cut
  else c.qpWrite s j rst true conv cut

/-- The QP is stopped before an iteration has completed: it returns its starting iterate with its residuals, VALID where it
came from a warm start (R138). A slot that was its own warm start holds that iterate already and keeps its data, the dual area
with it; elsewhere the iterate is new data (R175; log entry 32). Residuals or a summary that overflow end it OVERFLOW (R125). -/
def Chip.qpEndStart (c : Chip) (s : Nat) (j : Job) (rst : Nat) (cut : Bool) : Chip :=
  let g := c.qpRead j.d
  let r := qpResid g (natWords j.x) (natWords j.z) (natWords j.y)
  let keep := j.warm && jWslot j.d == s
  if !(allFinite r.1 && allFinite r.2 && (keep || qpDataOk g (natWords j.x))) then c.failJob s j (stopRst rst rsOVERFLOW) cut
  else
    let j := { j with resP := w32 (fNormMax r.1), resD := w32 (fNormMax r.2) }
    if keep then c.endJob s j rst none cut else c.qpWrite s j rst j.warm false cut

/-- The cycles of an iteration (R173). -/
def qpCycles (n m : Nat) : Nat :=
  2 * ceilDiv (n * n) 512 + 8 * n + 4 * ceilDiv (m * n) 512 + ceilDiv (8 * (m + n)) 512 + 64

/-- OK, or REGULARISED when a pivot was flagged (R134). -/
def okOrReg (nreg : Nat) : Nat := if nreg = 0 then rsOK else rsREG

/-- One iteration of a running QP ends at this tick: the setup first if it has not been made, then convergence, ITER_MAX
and the deadline are tested (R138, R141, R170 to R172). DEDUCED: the first iteration, which starts when the setup ends, lasts
at most the cycles R173 gives an iteration (log entry 108). -/
def Chip.qpIterEnd (c : Chip) (s : Nat) : Chip :=
  match c.job s with
  | none => c
  | some j =>
    if j.running = false ∨ jKind j.d ≠ 5 then c
    else if j.fail.isSome then c.failJob s j (j.fail.getD rsBADIN) false
    else
      let r := if j.facDone then (c, j, true) else c.qpSetup s j
      let c := r.1
      let j := r.2.1
      if r.2.2 = false then c.failJob s j rsOVERFLOW false
      else
        let g := c.qpRead j.d
        let it := qpStep g (c.facRead (jF j.d)) (natWords j.x) (natWords j.z) (natWords j.y)
        let res := it.2.2.2.1
        if it.2.2.2.2 = false then c.failJob s j rsOVERFLOW false
        else
          let dur := if j.iter = 0 then min (c.now - j.iterT) (qpCycles g.n g.m) else c.now - j.iterT
          let j := { j with x := it.1.map w32, z := it.2.1.map w32, y := it.2.2.1.map w32
                            resP := w32 res.1, resD := w32 res.2, iter := j.iter + 1, iterT := c.now }
          let conv := fLe res.1 (jEps j.d) && fLe res.2 (jEps j.d)
          if conv ∨ jKp j.d ≤ j.iter then c.qpEnd s j (okOrReg j.nreg) conv false
          else if c.jobDeadline j < c.now + dur then c.qpEnd s j rsDEADLINE false false
          else c.setJob s j

/-! ## Completion, deadline and cancellation -/

/-- A direct job, a reseed or a test completes at this tick (R135, R152, R154), and a QP that its operands or its
factorisation end before an iteration (R125, R170); an uncorrectable error ends any job MEM_ERR (R128). -/
def Chip.jobComplete (c : Chip) (s : Nat) (fault : JobFault) : Chip :=
  match c.job s with
  | none => c
  | some j =>
    if j.running = false then c
    else
      let c := match fault with
        | .corrected => (c.count BSN_ECC_CNT__CE_CNT 1).raise BSN_INT_STATUS__ECC_CE
        | .uncorrectable => (c.count BSN_ECC_CNT__UE_CNT 1).raise BSN_INT_STATUS__ECC_UE
        | _ => c
      if fault = .uncorrectable then
        ((c.freeWord.1.logEvent 16 1 c.freeWord.2 0).logTrigger 4).failJob s j rsMEMERR false
      else
        match jKind j.d with
        | 5 =>
          match j.fail with
          | some r => c.failJob s j r false
          | none => if j.facDone ∨ (c.qpFac j).finite = true then c
              else c.failJob s { j with nreg := (c.qpFac j).nreg, firstReg := (c.qpFac j).first } rsOVERFLOW false
        | 6 =>
          match c.reseedSolve s j.slotA j.slotB j.xh j.r with
          | none => c.failJob s j rsBADIN false
          | some r =>
            let j := { j with nreg := r.2.nreg, firstReg := r.2.first }
            if !(allFinite r.1 && r.2.finite) then c.failJob s j rsOVERFLOW false
            else
              let q := r.1.map toQ15
              let rst := okOrReg j.nreg
              (c.endJob s j rst (some (true, q.map (fun v => w32i v.1))) false).reseedResult s rst (q.map (·.1))
                (q.any (·.2))
        | 7 =>
          let mask := match fault with
            | .lanes m => if jKp j.d = 0xFFFF then m.toNat else m.toNat &&& 2 ^ jKp j.d
            | _ => 0
          if mask = 0 then c.endJob s j rsOK (some (true, [0])) false
          else
            let lane := ((List.range 64).find? (fun l => mask.testBit l)).getD 0
            let c := c.setReg BSN_LANE_FAIL_LO (c.reg BSN_LANE_FAIL_LO ||| mask % 2 ^ 32)
            let c := (c.setReg BSN_LANE_FAIL_HI (c.reg BSN_LANE_FAIL_HI ||| mask / 2 ^ 32)).raise BSN_INT_STATUS__TEST_FAIL
            let c := if jKp j.d = 0xFFFF then { c with bsn := { c.bsn with arrayFail := true } } else c
            c.endJob s j rsTESTFAIL (some (false, [w32 (2 ^ 31 + lane)])) false
        | _ =>
          match c.directJob j.d with
          | .bad r fac nreg first =>
            let c := match fac with
              | some f => c.facWrite (jF j.d) (jM j.d) (jN j.d) f
              | none => c
            c.failJob s { j with nreg := nreg, firstReg := first } r false
          | .done data fac nreg first =>
            let c := match fac with
              | some f => c.facWrite (jF j.d) (jM j.d) (jN j.d) f
              | none => c
            let j := { j with nreg := nreg, firstReg := first }
            c.endJob s j (okOrReg nreg) (some (true, data.map w32)) false

/-- The factor that a job stopped at this tick had completed, if it had: a free choice for a factorisation of its own, since
R135 and R173 bound its cycles only (R139; log entry 32). The truth value says that no factorisation was under way. -/
def Chip.stopFac (c : Chip) (j : Job) : Chip × Option Fac × Bool :=
  let own : Option Fac :=
    if jKind j.d = 5 then (if (c.qpRead j.d).refac && (c.qpFac j).finite then some (c.qpFac j) else none)
    else if 0 < jKp j.d then
      match c.directJob j.d with
      | .done _ f _ _ => f
      | .bad _ f _ _ => f
    else none
  match own with
  | none => (c, none, jKind j.d = 5 && !(c.qpRead j.d).refac)
  | some f => let r := c.freeBool; (r.1, if r.2 then some f else none, r.2)

/-- A job stopped at this tick, by its deadline, a mode change or a cancel: iterative jobs return the last completed iterate,
before one their starting iterate, direct jobs and any job in its factorisation keep the slot's data; a factorisation the
job had completed stays current (R123, R138 to R140, R143). -/
def Chip.stopJob (c : Chip) (s : Nat) (rstD rstS : Nat) (cut : Bool) : Chip :=
  match c.job s with
  | none => c
  | some j =>
    let c := if cut then c.raise BSN_INT_STATUS__MODE_CUT else c
    let c :=
      if j.running = false then c.endJob s j rstS none cut
      else if j.fail.isSome then c.failJob s j (stopRst rstD (j.fail.getD rsBADIN)) cut
      else if 0 < j.iter then c.qpEnd s j rstD false cut
      else
        let r := c.stopFac j
        let m := if jKind j.d = 5 then jN j.d else jM j.d
        let j := match r.2.1 with
          | some f => { j with newFac := true, nreg := f.nreg, firstReg := f.first }
          | none => j
        let c := match r.2.1 with
          | some f => r.1.facWrite (jF j.d) m (jN j.d) f
          | none => r.1
        if jKind j.d = 5 && r.2.2 then c.qpEndStart s j rstD cut else c.endJob s j rstS none cut
    if j.owner = 2 then c.reseedResult s rstS [] false else c

/-- A running job reaches its deadline tick (R138, R139); an iteration under way is abandoned. -/
def Chip.jobAtDeadline (c : Chip) (s : Nat) : Chip :=
  match c.job s with
  | none => c
  | some j =>
    if j.running then (c.at (c.jobDeadline j)).stopJob s rsDEADLINE rsSTALE false else c

/-- The Basin's mode of the power period that begins at pound n (R121). -/
def Chip.basinMode (c : Chip) (n : Nat) : Nat :=
  match c.fld BSN_MODE_CFG__MODE_SEL with
  | 0 => 0
  | 1 => 1
  | _ => b2n ((c.reg BSN_MODE_PAT).testBit (n / poundsPerPeriod c.pnd.sel % 32))

/-- The Basin at a power-period boundary: a mode change stops every running job (R120, R121, R123). -/
def Chip.basinPeriod (c : Chip) (n : Nat) : Chip :=
  let m := c.basinMode n
  if m = c.fld BSN_STATUS__MODE then c
  else
    let c := c.each ((c.bsn.jobs.filter (fun e => e.2.running)).map (·.1)) (fun c s => c.stopJob s rsDEADLINE rsSTALE true)
    c.setFld BSN_STATUS__MODE m

/-! ## Dispatch conditions (R122, R124, R154) -/

/-- A job fits a lane (R122). -/
def Chip.fitsLane (c : Chip) (d : List Word) : Bool :=
  match jKind d with
  | 0 | 1 => decide (jN d ≤ 24)
  | 2 => decide (jN d ≤ 24) && (c.facKind (jF d) != 2 || decide (jM d ≤ 64))
  | 3 | 4 => decide (jN d ≤ 24 ∧ jM d ≤ 64)
  | 6 => true
  | 7 => decide (jN d ≤ 24 ∧ jKp d < 64)
  | _ => false

/-- The job uses a factor store (R124). -/
def usesStore (d : List Word) : Bool := jKind d ∈ [0, 1, 2, 3, 5]

/-- The factor store of a job is in use by a running job. -/
def Chip.storeBusy (c : Chip) (d : List Word) : Bool :=
  usesStore d && c.bsn.jobs.any (fun e => e.2.running && usesStore e.2.d && jF e.2.d == jF d)

/-- A lane is marked failed. -/
def Chip.laneFailed (c : Chip) (k : Nat) : Bool :=
  if k < 32 then (c.reg BSN_LANE_FAIL_LO).testBit k else (c.reg BSN_LANE_FAIL_HI).testBit (k - 32)

/-- The job of slot s may start now on lane k, or on the array in GANGED (R122, R124, R154, R418). -/
def Chip.jobEligible (c : Chip) (k s : Nat) : Bool :=
  match c.job s with
  | none => false
  | some j =>
    !c.storeBusy j.d && (c.opState != 0 || jKind j.d == 7) &&
      (if c.fld BSN_STATUS__MODE = 0 then
         c.fitsLane j.d && !c.laneFailed k && (jKind j.d != 7 || jKp j.d == k)
       else !c.bsn.arrayFail)

/-- The job of slot s starts on lane k, or on the array (64); a QP takes its starting iterate (R144, R174). -/
def Chip.jobStart (c : Chip) (k s : Nat) : Chip :=
  match c.job s with
  | none => c
  | some j =>
    let j := { j with running := true, lane := k, startT := c.now, iterT := c.now }
    c.setJob s (if jKind j.d = 5 then c.qpStart j else j)

/-! ## Commands -/

/-- BSN_CANCEL's rules (R143). -/
def Chip.bsnCancel (c : Chip) (k : Intake) : Chip × Answer :=
  let s := k.target.toNat
  match c.job s with
  | none => (c, .now stNOT_FOUND 0 [])
  | some _ => (c.stopJob s rsABORTED rsABORTED false, ansOK)

/-- BSN_CANCEL (R143). -/
def execBsnCancel (t : Nat) (ifc : Iface) (tag target : Word) (pl : List Word) (s : State) :
    Host.Outcome State Fault Refusal :=
  s.command t 0x0803 ifc tag target pl Chip.bsnCancel

/-- BSN_SUBMIT (R131, R148). -/
def execBsnSubmit (t : Nat) (ifc : Iface) (tag target : Word) (pl : List Word) (s : State) :
    Host.Outcome State Fault Refusal :=
  s.command t 0x0801 ifc tag target pl (fun c k =>
    let r := c.bsnSubmit k.payload (some k.org.ifc)
    (r.1, if r.2 = stINVALID_ARG then ansArg (c.descBad k.payload true) else .now r.2 0 []))

/-- The status of a slot's RSTAT under the status of the same name (R486, R496). -/
def rstatStatus (rst : Nat) : Nat :=
  match rst with
  | 0 => 15
  | 1 => 14
  | 2 => 1
  | 3 => 16
  | 4 => 17
  | 5 => 18
  | 6 => 19
  | 7 => 20
  | 8 => 21
  | 9 => 22
  | _ => 23

/-- BSN_READ's rules: the header and data of one snapshot, which its interface keeps, and whose status is the slot's (R147,
R149). -/
def Chip.bsnReadCmd (c : Chip) (k : Intake) : Chip × Answer :=
  let r := c.slotRead k.target.toNat ((wordAt k.payload 0).testBit 0)
  (r.1.setSnap k.org.ifc { r.1.snap k.org.ifc with slot := some (k.target.toNat, r.2) }, .now (rstatStatus (bits (wordAt r.2 0) 15 12)) 0 r.2)

/-- BSN_READ (R147, R149). -/
def execBsnRead (t : Nat) (ifc : Iface) (tag target : Word) (pl : List Word) (s : State) :
    Host.Outcome State Fault Refusal :=
  s.command t 0x0802 ifc tag target pl Chip.bsnReadCmd

/-- Two byte ranges have a byte in common; an empty range has none. -/
def overlap (a n b m : Nat) : Bool := decide (0 < n ∧ 0 < m ∧ a < b + m ∧ b < a + n)

/-- A range of the arena, whose addresses are taken modulo its 8 MiB, in its parts within the arena. -/
def arenaParts (r : Nat × Nat) : List (Nat × Nat) :=
  let a := r.1 % 2 ^ 23
  if a + r.2 ≤ 2 ^ 23 then [(a, r.2)] else [(a, 2 ^ 23 - a), (0, a + r.2 - 2 ^ 23)]

/-- The operand ranges and factor stores of the jobs queued or running (R128). -/
def Chip.jobParts (c : Chip) : List (Nat × Nat) := c.bsn.jobs.flatMap (fun e => (c.jobRanges e.2.d).flatMap arenaParts)

/-- The bytes of the arena from `a`, `n` of them, meet one of `l`. -/
def meets (l : List (Nat × Nat)) (a n : Nat) : Bool := l.any (fun r => overlap a n r.1 r.2)

/-- BSN_MEM_WRITE's rules (R128). -/
def Chip.bsnMemWrite (c : Chip) (k : Intake) : Chip × Answer :=
  let a := wordAt k.payload 0
  let ws := k.payload.drop 1
  if a % 16 ≠ 0 ∨ 2 ^ 23 < a + 4 * ws.length then (c, ansArg 0)
  else if meets c.jobParts a (4 * ws.length) then (c, ansBusy)
  else ({ c with mem := { c.mem with arena := memWriteWords 0 a ws c.mem.arena } }, ansOK)

/-- BSN_MEM_WRITE (R128). -/
def execBsnMemWrite (t : Nat) (ifc : Iface) (tag target : Word) (pl : List Word) (s : State) :
    Host.Outcome State Fault Refusal :=
  s.command t 0x0804 ifc tag target pl Chip.bsnMemWrite

/-- BSN_MEM_READ (R496). -/
def execBsnMemRead (t : Nat) (ifc : Iface) (tag target : Word) (pl : List Word) (s : State) :
    Host.Outcome State Fault Refusal :=
  s.command t 0x0805 ifc tag target pl (fun c k =>
    let a := wordAt k.payload 0
    let n := wordAt k.payload 1
    if a % 4 ≠ 0 then (c, ansArg 0)
    else if n = 0 ∨ 1024 < n ∨ 2 ^ 23 < a + 4 * n then (c, ansArg 1)
    else (c, .now stOK 0 (memWords 0 c.mem.arena a n)))

/-- A write of BSN_RD_SEL selects a slot and discards the interface's snapshot (R147). -/
def Chip.rdSelWrite (c : Chip) (i : Iface) (v : Nat) : Chip :=
  let c := c.writeBits BSN_RD_SEL v
  c.setSnap i { c.snap i with slot := none }

/-- BSN_RD_SEL written (R147). -/
def execBsnRdSelWrite (t : Nat) (ifc : Iface) (v : Word) (s : State) : Host.Outcome State Fault Refusal :=
  s.access t ifc (fun c => c.rdSelWrite ifc v.toNat)

/-- A read of word w of the window: word 0 takes the snapshot, others return it; without one of the selected slot they
return 0 with RD_ERR (R147, R149). DESIGN CHOICE (log entry 135): CONSUME holds for every read of word 0 after the write that
selected the slot, until the next write. -/
def Chip.rdWinRead (c : Chip) (i : Iface) (w : Nat) : Chip × Word :=
  let s := c.fld BSN_RD_SEL__SLOT
  if w = 0 then
    let r := c.slotRead s (c.flag BSN_RD_SEL__CONSUME)
    (r.1.setSnap i { r.1.snap i with slot := some (s, r.2) }, r.2.getD 0 0)
  else
    match (c.snap i).slot with
    | some x => if x.1 = s then (c, x.2.getD w 0) else (c.raise BSN_STATUS__RD_ERR, 0)
    | none => (c.raise BSN_STATUS__RD_ERR, 0)

/-- A read of BSN_RD_WIN (R147). -/
def execBsnRdWinRead (t : Nat) (ifc : Iface) (w : Fin 1024) (s : State) : Host.Outcome State Fault Refusal :=
  s.access t ifc (fun c => Chip.answer (c.rdWinRead ifc w.val) ifc)

/-- Writes of the Basin's registers with a rule of their own (R121, R156); `none` for any other register. -/
def Chip.bsnWrite (c : Chip) (off v : Nat) : Option Chip :=
  let rej := c.raise BSN_STATUS__CFG_REJ
  if off = BSN_MODE_CFG then some (if bits v 1 0 = 3 then rej else c.writeBits off v)
  else if off = BSN_RSD_TAU then some (if tauOk v then c.writeBits off v else rej)
  else if off = BSN_RSD_DELTA then some (if deltaOk v then c.writeBits off v else rej)
  else none

end Sys2Proof.Machine
end

