-- ==== Sys2Proof/Machine/Law.lean ====
section
/-! DEFINITION. The coupled loop law of a flight, bit for bit: primitive operations, evaluation order, set-point limiter
and tracked values, as functions of the recorded inputs alone (R40 to R46, R59, R66, R68). -/

namespace Sys2Proof.Machine

/-! ## Primitive operations (R42) -/

/-- sat40(v), with the flag that the clamp acted. -/
def sat40 (v : Int) : Int × Bool :=
  let c := clampI (-(2 ^ 39)) (2 ^ 39 - 1) v
  (c, c != v)

/-- rnd(v, k). -/
def rnd (v : Int) (k : Nat) : Int := rdivEven v (2 ^ k)

/-- SCL(G, e). -/
def scl (g e : Int) : Int × Bool := if 0 ≤ e then sat40 (g * 2 ^ e.toNat) else (rnd g (-e).toNat, false)

/-- A value clamped to Q1.15, with the flag that the clamp acted. -/
def clampQ (v : Int) : Int × Bool :=
  let c := clampI (-32768) 32767 v
  (c, c != v)

/-- ST(T). -/
def stQ (t : Int) : Int × Bool := clampQ (rnd t 15)

/-- dot of a row and a vector: every sum saturates, in ascending column order. -/
def dotQ (row v : List Int) : Int × Bool :=
  (row.zip v).foldl (fun a e =>
    let s := sat40 (a.1 + e.1 * e.2)
    (s.1, a.2 || s.2)) (0, false)

/-- A vector as exactly `n` values, 0 where it has none. -/
def padTo (n : Nat) (l : List Int) : List Int := (List.range n).map (fun i => l.getD i 0)

/-- sat40(T + s·SCL(dot(M, i, v), e)), carrying the flag. -/
def accRow (t : Int × Bool) (s : Int) (row v : List Int) (e : Int) : Int × Bool :=
  let d := dotQ row v
  let g := scl d.1 e
  let r := sat40 (t.1 + s * g.1)
  (r.1, t.2 || d.2 || g.2 || r.2)

/-! ## The evaluation order (R44) -/

/-- The inputs of an update beside the bank (R59). `ints` are the enabled integral-map entries: entry number and word. -/
structure LawIn where
  nx : Nat
  nu : Nat
  ny : Nat
  frz : Nat
  ints : List (Nat × Nat)
  x : List Int
  u : List Int
  y : List Int
  age : List Nat
  r : List Int
  deriving DecidableEq, Repr

/-- The results of an update: x̂, u, the flags raised (bit 0 SAT_ACC, 1 SAT_STORE, 2 SAT_INT, 3 SAT_OUT) and the entries
at their bound (R44, R59, R73). -/
structure LawOut where
  x : List Int
  u : List Int
  sat : Nat
  bound : Nat
  deriving DecidableEq, Repr

/-- frozen(m) (R44, R46). -/
def LawIn.frozen (i : LawIn) (m : Nat) : Bool := i.frz != 0 && decide (i.frz ≤ i.age.getD m 0)

/-- Phase I of row m: the innovation, whether sat40 acted, whether ST clamped. -/
def Chip.lawI (c : Chip) (base : Nat) (i : LawIn) (m : Nat) : Int × Bool × Bool :=
  if i.frozen m then (0, false, false)
  else
    let a := matAt i.nx i.nu i.ny .C
    let t := accRow (i.y.getD m 0 * 2 ^ 15, false) (-1) (c.matRow base a m) i.x (c.expo base a m)
    let v := stQ t.1
    (v.1, t.2, v.2)

/-- Phase S of row k. -/
def Chip.lawS (c : Chip) (base : Nat) (i : LawIn) (inn : List Int) (k : Nat) : Int × Bool × Bool :=
  let at_ := matAt i.nx i.nu i.ny
  let row (m : MatId) : List Int := c.matRow base (at_ m) k
  let e (m : MatId) : Int := c.expo base (at_ m) k
  let g := scl (dotQ (row .A) i.x).1 (e .A)
  let t := (g.1, (dotQ (row .A) i.x).2 || g.2)
  let t := accRow t 1 (row .B) i.u (e .B)
  let t := accRow t 1 (row .L) inn (e .L)
  let t := i.ints.foldl (fun t w =>
    if istate w.2 = k ∧ i.frozen (imeas w.2) = false then
      let s := sat40 (t.1 + (i.y.getD (imeas w.2) 0 - i.r.getD (iref w.2) 0) * 2 ^ 15)
      (s.1, t.2 || s.2)
    else t) t
  let v := stQ t.1
  (v.1, t.2, v.2)

/-- Phase C of row k. -/
def Chip.lawC (c : Chip) (base : Nat) (i : LawIn) (x : List Int) (k : Nat) : Int × Bool × Bool :=
  let at_ := matAt i.nx i.nu i.ny
  let t := accRow (0, false) (-1) (c.matRow base (at_ .K) k) x (c.expo base (at_ .K) k)
  let t := accRow t 1 (c.matRow base (at_ .N) k) i.r (c.expo base (at_ .N) k)
  let v := stQ t.1
  (v.1, t.2, v.2)

/-- One update of the law on the bank at `base`, the vectors taken at their full lengths (R38, R39, R43, R44). -/
def Chip.law (c : Chip) (base : Nat) (i : LawIn) : LawOut :=
  let i := { i with x := padTo i.nx i.x, u := padTo i.nu i.u, y := padTo i.ny i.y, r := padTo i.nu i.r }
  let ph1 := (List.range i.ny).map (c.lawI base i)
  let inn := ph1.map (·.1)
  let phS := (List.range i.nx).map (c.lawS base i inn)
  let x := phS.map (·.1)
  let phC := (List.range i.nu).map (c.lawC base i x)
  let named (k : Nat) : Bool := i.ints.any (fun w => istate w.2 == k)
  let clampAt (k : Nat) : Bool := (phS.getD k (0, false, false)).2.2
  let acc := (ph1 ++ phS ++ phC).any (·.2.1)
  let store := ph1.any (·.2.2) || (List.range i.nx).any (fun k => clampAt k && !named k)
  let int_ := (List.range i.nx).any (fun k => clampAt k && named k)
  let out := phC.any (·.2.2)
  { x := x, u := phC.map (·.1)
    sat := b2n acc + 2 * b2n store + 4 * b2n int_ + 8 * b2n out
    bound := i.ints.foldl (fun m w => if clampAt (istate w.2) then m ||| 2 ^ w.1 else m) 0 }

/-- The law's inputs of a flight as it is configured. -/
def Chip.lawIn (c : Chip) (f : Nat) (x u y : List Int) (age : List Nat) (r : List Int) : LawIn :=
  { nx := c.fNx f, nu := c.fNu f, ny := c.fNy f, frz := c.fAgeFrz f,
    ints := (c.intEntries f).map (fun i => (i, c.intEntry f i)), x := x, u := u, y := y, age := age, r := r }

/-! ## Measurements (R45 to R47) -/

/-- Word i of a measurement-map entry (R48). -/
def Chip.measW (c : Chip) (f m i : Nat) : Nat := c.lckW (0x4000 + 512 * f + 16 * m + 4 * i)

/-- QTY of a measurement. -/
def Chip.measQty (c : Chip) (f m : Nat) : Nat := bits (c.measW f m 0) 11 10
/-- SRC of a measurement. -/
def Chip.measSrc (c : Chip) (f m : Nat) : Nat := bits (c.measW f m 0) 9 0

/-- The 48-bit position of a channel's per-pound sample (R190). -/
def Chip.samplePos (c : Chip) (ch : Nat) : Nat := c.reg (POS_CH_POS_LO ch) + bits (c.reg (POS_CH_POS_HI ch)) 15 0 * 2 ^ 32

/-- The converted measurement and whether the conversion clamped (R45). -/
def Chip.convert (c : Chip) (f m : Nat) : Int × Bool :=
  let w := c.measW f m 0
  let src := bits w 9 0
  let ofs := c.measW f m 1 + bits (c.measW f m 2) 15 0 * 2 ^ 32
  match bits w 11 10 with
  | 0 => clampQ (rnd (signed 48 (c.samplePos src + 2 ^ 48 - ofs)) (bits w 20 16))
  | 1 => clampQ (rnd (signed 32 (c.reg (POS_CH_SPD src)) - signed 32 (c.measW f m 1)) (bits w 20 16))
  | _ => (signed 16 ((tabGet (fun _ => (⟨0, 255, none, 0⟩ : AuxWord)) c.tow.aux src).v), false)

/-! ## Limiter (R66 to R68) -/

/-- An axis's limiter entry, its two words (R92). -/
def Chip.limW (c : Chip) (a i : Nat) : Nat := c.lckW (0xA000 + 8 * a + 4 * i)

/-- The tracked value of axis a (R68). -/
def Chip.tracked (c : Chip) (f a : Nat) (y : List Int) (age : List Nat) : Int :=
  let w := c.limW a 1
  let m := bits w 20 16
  let frz := c.fAgeFrz f
  if w.testBit 31 = false ∨ c.fNy f ≤ m then 0
  else if frz ≠ 0 ∧ frz ≤ age.getD m 0 then (c.axis a).r
  else y.getD m 0

/-- A limiter's step towards the target `tgt`: the axis after it, and whether RATE clamped (R66). -/
def Chip.limit (c : Chip) (a mode : Nat) (first : Bool) (tgt tracked : Int) : Axis × Bool :=
  let x := c.axis a
  if mode = 2 ∧ first = false then
    let rate : Int := bits (c.limW a 0) 15 0
    let e := tgt - x.r
    let s := if rate = 0 then e else clampI (-rate) rate e
    ({ x with r := x.r + s, s := s }, s != e)
  else if mode = 3 ∨ mode = 4 then
    let d : Int := min (x.s.natAbs : Int) (bits (c.limW a 0) 31 16 : Nat)
    let s := x.s - x.s.sign * d
    let v := clampQ (x.r + s)
    ({ x with r := v.1, s := if v.2 then 0 else s }, false)
  else ({ x with r := tracked, s := 0 }, false)

end Sys2Proof.Machine
end

