-- ==== Sys2Proof/Machine/Reset.lean ====
section
/-! DEFINITION. Cold and warm resets: what they clear, what they keep, and the causes that hold the device in cold reset
(R509 to R512, R530, R534, R538, R542). -/

namespace Sys2Proof.Machine

/-- The safe outputs go low (R530). -/
def Chip.outputsLow (c : Chip) : Chip :=
  let low (name mask : Nat) (c : Chip) : Chip :=
    c.each ((List.range 24).filter mask.testBit) (fun c k => c.emit (.pin name k false))
  low pinSOUTB c.weir.outB (low pinSOUTA c.weir.outA c)

/-- A register outside the LOG_ region. -/
def notLog (off : Nat) : Bool := decide (off < 0xD000 ∨ 0xD400 ≤ off)

/-- The registers of the LOG_ region kept as they are. -/
def Chip.logRegs (c : Chip) : List (Nat × Word) := c.regs.filter (fun e => !notLog e.1)

/-- Cold reset: everything is initialised; OTP, flash and the causes that hold the reset stay, and a retained Logbook with
its registers (R511, R512). `cause` is what LOG_BOOT will report. -/
def Chip.coldReset (c : Chip) (cause : Nat) (keepLog : Bool) : Chip :=
  let c := c.outputsLow
  let n := Chip.initial c.boot.otp c.boot.flash
  let boot := { c.boot with phase := .hold, cause := cause, commitSvn := none, moored := false, logKept := keepLog,
                            ramImage := false, warm := false }
  { n with fresh := c.fresh, out := c.out, boot := boot, log := if keepLog then { c.log with pendSlots := [] } else n.log,
           regs := if keepLog then c.logRegs else [] }

/-- A cause holds the device in cold reset. -/
def Chip.held (c : Chip) : Bool :=
  c.boot.holdVin || c.boot.holdPin || c.boot.holdThermal || c.boot.holdClock || c.boot.holdTest

/-- Cold reset begins for a new cause, already marked in `boot`; while another cause holds the device nothing changes. -/
def Chip.hold (c : Chip) (cause : Nat) (keepLog : Bool) : Chip :=
  if c.boot.phase = .hold then c else c.coldReset cause keepLog

/-- When no cause holds it, the device starts: time from 0, the boot ROM running (R502, R512). -/
def Chip.release (c : Chip) : Chip :=
  if c.boot.phase = .hold ∧ c.held = false then
    let c := c.coldReset c.boot.cause c.boot.logKept
    { c with boot := { c.boot with phase := .rom } }
  else c

/-- A change of the causes that hold the device. -/
def Chip.setBoot (c : Chip) (f : Boot → Boot) : Chip := { c with boot := f c.boot }

/-- The clock stops or leaves ±2,000 ppm: cold reset until it returns; the spec names no LOG_BOOT.CAUSE for it, which is a
free value (R534). -/
def Chip.clockHold (c : Chip) : Chip :=
  let r := c.freeWord
  (r.1.setBoot (fun b => { b with holdClock := true })).hold (r.2.toNat % 8) false

/-- The clock is back (R534). -/
def execClockReturn (t : Nat) (s : State) : Host.Outcome State Fault Refusal :=
  s.act (fun c => ((c.at t).setBoot (fun b => { b with holdClock := false })).release)

/-! ## Warm reset (R510, R512) -/

/-- The registers a warm reset keeps: those of the time bases, the pound generator, the Logbook, the Ethernet configuration,
the links of HST_STATUS and BSN_LANE_FAIL. -/
def warmKept (off : Nat) : Bool :=
  decide (0x0700 ≤ off ∧ off < 0x0A00) || !notLog off || decide (0x0108 ≤ off ∧ off < 0x0168)
    || off == HST_STATUS || off == SYS_POUND_CFG || off == SYS_POUND_OFFSET || off == SYS_POUND_STATUS || off == SYS_POUND_NUM
    || off == BSN_LANE_FAIL_LO || off == BSN_LANE_FAIL_HI

/-- A kept register with its W1C bits and RC fields cleared. -/
def warmWord (off : Nat) (w : Word) : Word :=
  match regRow off with
  | some r => w32 (w.toNat &&& ((2 ^ 32 - 1) ^^^ r.w1c) &&& ((2 ^ 32 - 1) ^^^ r.rc))
  | none => w

/-- The register file after a warm reset. -/
def warmRegs (l : List (Nat × Word)) : List (Nat × Word) :=
  (l.filter (fun e => warmKept e.1)).foldl (fun t e => tabPut regReset e.1 (warmWord e.1 e.2) t) []

/-- Warm reset: the Logbook, the time bases and the pound generator go on, the Weir's set stays confirmed, FAILED stays with its hard causes and what is latched (R363),
TB5 keeps its value, the counts since cold reset go on (R501); all else is initialised and the boot ROM verifies the firmware (R510, R512). -/
def Chip.warmReset (c : Chip) (cause : Nat) : Chip :=
  let c := c.outputsLow
  let n := Chip.initial c.boot.otp c.boot.flash
  let wst := c.fld WEI_STATUS__WSTATE
  let pnd := { c.pnd with due := [], marks := [], fired := [], request := none, halt := none, weirTrip := false,
                          weirReset := false }
  let w := c.weir
  let low : SafeIn := ⟨⟨false, false, 0⟩, ⟨false, false, 0⟩, false, false, 0, false, false, false⟩
  let levels (l : List (Nat × SafeIn)) : List (Nat × SafeIn) :=
    l.foldl (fun t e => tabPut (fun _ => low) e.1 { low with a := e.2.a, b := e.2.b } t) []
  let weir := { n.weir with
    conf := w.conf, confV := w.confV, ins := levels w.ins, insB := levels w.insB, hard := w.hard && wst == 4
    tripT := if wst = 4 then w.tripT else 0 }
  let chain := { n.pf.chain with acc := c.accNow, accT := c.now }
  let boot := { c.boot with phase := .rom, cause := cause, commitSvn := none, moored := false, ramImage := false, warm := true }
  let n := { n with
    now := c.now, fresh := c.fresh, out := c.out, regs := warmRegs c.regs, log := c.log, tim := { c.tim with tally := [], stamps := [] },
    pnd := pnd, weir := weir, boot := boot, pf := { n.pf with abz := c.pf.abz, chain := chain },
    hst := { n.hst with d3 := c.hst.d3, stats := c.hst.stats } }
  let n := if wst = 0 then n else n.setFld WEI_STATUS__WSTATE (if wst = 4 then 4 else 1)
  let n := if wst = 4 then
      ((n.setReg WEI_CAUSE (c.reg WEI_CAUSE / 2 ^ 13 * 2 ^ 13)).setReg WEI_CAUSE_LATCH (c.reg WEI_CAUSE_LATCH)).setFld
        WEI_STATUS__FIRST_CAUSE (c.fld WEI_STATUS__FIRST_CAUSE)
    else n
  n.setFld LOG_STATUS__SAVING 0

end Sys2Proof.Machine
end

