-- ==== Sys2Proof/Machine/WeirSet.lean ====
section
/-! DEFINITION. The Weir's active parameter set, safe inputs as demanded, output pins, safety frames and trips (R350,
R355, R362 to R366, R373, R381 to R386, R408 to R410). -/

namespace Sys2Proof.Machine

/-! ## The active set (R355, R362, R365, R373, R408 to R410) -/

/-- A word of a parameter set. -/
def setW (m : List (Nat × Byte)) (off : Nat) : Nat := (memWord 0 m off).toNat

/-- A signed 48-bit value held in two words, LO then HI [15:0] (R362). -/
def setI48 (m : List (Nat × Byte)) (off : Nat) : Int := signed 48 (setW m off + bits (setW m (off + 4)) 15 0 * 2 ^ 32)

/-- The global binary32 values of the safety layer, in the order R408 names them: VH_MIN, T_R, T_S, C, Z_R, HINT_ZERO,
HINT_FULL, SSM_HYST. DESIGN CHOICE: R408 gives the first five the four words 0x3A04 to 0x3A10; four take a word each in
that order and Z_R is a free value (log entry 140). -/
def ssmGlobal (m : List (Nat × Byte)) (i : Nat) : Nat :=
  if i = 4 then Config.zR ((List.range 4).map (fun k => setW m (0x3A04 + 4 * k))) % 0x7F800000
  else setW m (0x3A04 + 4 * (if i < 4 then i else i - 1))

/-- A word of the active set; 0 where none is active. -/
def Chip.ws (c : Chip) (off : Nat) : Nat := setW c.weir.act off

/-- Offset of safe input i. -/
def inOff (i : Nat) : Nat := 0x80 + 8 * i
/-- Offset of output pair k. -/
def pairOff (k : Nat) : Nat := 0x140 + 4 * k
/-- Offset of group g. -/
def groupOff (g : Nat) : Nat := 0x1A0 + 4 * g
/-- Offset of axis monitor m. -/
def monOff (m : Nat) : Nat := 0x200 + 48 * m
/-- Offset of flight monitor f. -/
def fmonOff (f : Nat) : Nat := 0x3200 + 64 * f
/-- Offset of connection k. -/
def connOff (k : Nat) : Nat := 0x3A40 + 32 * k
/-- Offset of arm a. -/
def armOff (a : Nat) : Nat := 0x5A40 + 672 * a

/-- The Weir's state: 0 INIT, 1 IDLE, 2 READY, 3 TRIPPED, 4 FAILED (R380). -/
def Chip.wstate (c : Chip) : Nat := c.fld WEI_STATUS__WSTATE

/-- The chip with a change of the Weir. -/
def Chip.setWeir (c : Chip) (f : Weir → Weir) : Chip := { c with weir := f c.weir }

/-! ## Safe inputs (R350) -/

/-- A channel whose level has never been sampled: low. -/
def InCh.init : InCh := ⟨false, false, 0⟩

/-- A safe input as it starts. -/
def SafeIn.init : SafeIn := ⟨InCh.init, InCh.init, false, false, 0, false, false, false⟩

/-- Safe input i as Weir A sees it, the view of the WEI_ registers (R346, R380). -/
def Chip.safeIn (c : Chip) (i : Nat) : SafeIn := tabGet (fun _ => SafeIn.init) c.weir.ins i

/-- Safe input i as Weir B sees it (R346). -/
def Chip.safeInB (c : Chip) (i : Nat) : SafeIn := tabGet (fun _ => SafeIn.init) c.weir.insB i

/-- The chip with a safe input replaced, as Weir A and as Weir B see it. -/
def Chip.setSafeIn (c : Chip) (i : Nat) (x y : SafeIn) : Chip :=
  c.setWeir (fun w => { w with
    ins := tabPut (fun _ => SafeIn.init) i x w.ins
    insB := tabPut (fun _ => SafeIn.init) i y w.insB })

/-- Channel A at a level indicates demand. -/
def demA (lvl : Bool) : Bool := !lvl

/-- Channel B at a level indicates demand for an input entry; never with SINGLE set. -/
def demB (w : Nat) (lvl : Bool) : Bool := !w.testBit 26 && (if w.testBit 28 then lvl else !lvl)

/-- ROLE of an input entry. -/
def inRole (w : Nat) : Nat := bits w 30 29

/-- An input with its entry is demanded as one Weir channel sees it (R350); a fast-path demand counts while it stands
(R352). -/
def SafeIn.demanded (x : SafeIn) (w : Nat) : Bool :=
  w.testBit 31 && (demA x.a.lvl || demB w x.b.lvl || x.fast || x.fastB || x.discF || x.tpfA || x.tpfB)

/-- Safe input i is demanded as Weir A sees it (R346, R350). -/
def Chip.inDemanded (c : Chip) (i : Nat) : Bool := decide (i < 24) && (c.safeIn i).demanded (c.ws (inOff i))

/-- Safe input i is demanded as Weir B sees it (R346, R350). -/
def Chip.inDemandedB (c : Chip) (i : Nat) : Bool := decide (i < 24) && (c.safeInB i).demanded (c.ws (inOff i))

/-- The mask of inputs that satisfy a predicate. -/
def inMask (p : Nat → Bool) : Nat := (List.range 24).foldl (fun m i => if p i then m + 2 ^ i else m) 0

/-- An input with ROLE FUNCTION is demanded, as Weir A sees it. -/
def Chip.functionDemand (c : Chip) : Bool :=
  (List.range 24).any (fun i => inRole (c.ws (inOff i)) == 0 && c.inDemanded i)

/-- An input with ROLE FUNCTION is demanded, as Weir B sees it. -/
def Chip.functionDemandB (c : Chip) : Bool :=
  (List.range 24).any (fun i => inRole (c.ws (inOff i)) == 0 && c.inDemandedB i)

/-! ## Enable and outputs (R364 to R366, R379) -/

/-- No input marked in GRANT_IN is demanded, as either channel sees it. -/
def Chip.grantIns (c : Chip) : Bool :=
  (List.range 24).all (fun i => !((c.ws 0x50).testBit i && (c.inDemanded i || c.inDemandedB i)))

/-- The Weir grants enable (R366). -/
def Chip.grant (c : Chip) : Bool := c.wstate == 2 && c.fld WEI_CAUSE__ACTIVE == 0 && c.grantIns

/-- The control side requests enable: UNDERWAY, or HALTED until standstill; a pair wired in series takes the request as
present in role STANDBY (R366, R379). -/
def Chip.ctrlReq (c : Chip) (series : Bool) : Bool :=
  if series && c.role == 2 then true else c.opState == 2 || (c.opState == 3 && c.weir.haltReq)

/-- The level a channel commands on its pin of pair k. While TRIPPED a CAT 1 group keeps its pins until its timer ends
them; a channel that has not adopted a trip keeps its pins (R348, R364, R366). -/
def Chip.pairLevel (c : Chip) (k : Nat) (chB : Bool) : Bool :=
  let w := c.ws (pairOff k)
  let g := bits w 27 24
  let was := (if chB then c.weir.outB else c.weir.outA).testBit k
  w.testBit 31 && (w.testBit 29 || c.drives) &&
    (match c.wstate with
     | 2 => c.grant && c.ctrlReq (w.testBit 29)
     | 3 => was && (!(if chB then c.weir.adopted else c.weir.adoptedA) ||
              (!c.weir.hard && (c.ws (groupOff g)).testBit 30 && !c.weir.off.testBit g))
     | _ => false)

/-- The commanded levels of one channel's 24 pins. -/
def Chip.pairLevels (c : Chip) (chB : Bool) : Nat := inMask (fun k => c.pairLevel k chB)

/-- A CAT 1 group of the active set whose timer runs (R364). -/
def Chip.ss1Runs (c : Chip) (g : Nat) : Bool :=
  let w := c.ws (groupOff g)
  c.wstate == 3 && w.testBit 31 && w.testBit 30 && !c.weir.off.testBit g

/-- The state of a safety connection: 0 OFF, 1 OPEN, 2 RUN, 3 FAULT, 4 SUSPENDED, 5 TX (R412). -/
def Chip.cstate (c : Chip) (k : Nat) : Nat := c.fld (WEI_CONN_STAT__CSTATE k)

/-- The reset signal is active: the reset input demanded, or the RESET bit of the reset connection in RUN (R369,
R393). -/
def Chip.resetSignal (c : Chip) : Bool :=
  let w := c.ws 0x48
  let i := bits w 7 0
  c.weir.actV &&
    (if w.testBit 30 then c.cstate i == 2 && c.flag (WEI_CONN_STAT__RESET_BIT i)
     else inRole (c.ws (inOff i)) == 2 && c.inDemanded i)

/-- The levels of one channel's pins that changed leave the device. -/
def Chip.pinChanges (c : Chip) (name old new : Nat) : Chip :=
  c.each (List.range 24) (fun c k => if old.testBit k = new.testBit k then c else c.emit (.pin name k (new.testBit k)))

/-- The diagnostic views and the output pins follow the Weir's state (R366, R380). -/
def Chip.weirRefresh (c : Chip) : Chip :=
  let a := c.pairLevels false
  let b := c.pairLevels true
  let c := (c.pinChanges pinSOUTA c.weir.outA a).pinChanges pinSOUTB c.weir.outB b
  let c := c.setWeir (fun w => { w with outA := a, outB := b })
  let c := (c.setFlag WEI_STATUS__GRANT c.grant).setFlag WEI_STATUS__AUTH c.drives
  let c := c.setFlag WEI_STATUS__SS1_RUN ((List.range 16).any c.ss1Runs)
  let c := c.setFlag WEI_STATUS__RESET_ACT c.resetSignal
  let c := c.setFld WEI_IN_DEM__DEM (inMask c.inDemanded)
  let c := c.setFld WEI_IN_DISC__DISC (inMask (fun i => (c.safeIn i).discF))
  let c := c.setFld WEI_IN_TPF__TPF (inMask (fun i => (c.safeIn i).tpfA || (c.safeIn i).tpfB))
  c.setFld WEI_OUT_ON__ON (a &&& b)

/-! ## Safety frames (R382, R383, R385) -/

/-- KIND of a connection entry. -/
def connKind (w : Nat) : Nat := bits w 30 28

/-- A connection receives. -/
def rxKind (k : Nat) : Bool := decide (2 ≤ k ∧ k ≤ 4)

/-- CODE over the bytes before it, its register starting at the configured identity (R383). -/
def safetyCode (id : Nat) (bs : List Byte) : Word := crcMsb 0xF4ACFB13 id 0xFFFFFFFF bs

/-- A safety frame (R382). -/
def safetyFrame (id seq len tstamp : Nat) (payload : List Word) : List Word :=
  let ws := [w32 id, w32 (seq % 2 ^ 16 * 2 ^ 16 + len % 2 ^ 8), w32 tstamp] ++ payload
  ws ++ [safetyCode id (wordsBytes ws)]

/-- Plant time in µs modulo 2³² (R385). -/
def Chip.plantMicros (c : Chip) : Nat := (nsOf c.tb3 / 1000 % ((2 ^ 32 : Nat) : Int)).toNat

/-- A connection as it starts. -/
def Conn.init : Conn := ⟨0, 0, 0, none, false, [], false⟩

/-- Safety connection k. -/
def Chip.conn (c : Chip) (k : Nat) : Conn := tabGet (fun _ => Conn.init) c.weir.conns k

/-- The chip with a safety connection replaced. -/
def Chip.setConn (c : Chip) (k : Nat) (x : Conn) : Chip :=
  c.setWeir (fun w => { w with conns := tabPut (fun _ => Conn.init) k x w.conns })

/-- The enabled connections of a kind, in ascending order. -/
def Chip.connsOf (c : Chip) (kind : Nat) : List Nat :=
  (List.range 256).filter (fun k => let w := c.ws (connOff k); w.testBit 31 && connKind w == kind)

/-- A frame of a TX connection is formed: its words, and the connection with SEQ advanced (R386). -/
def Chip.txFrame (c : Chip) (k len tstamp : Nat) (payload : List Word) : Chip × List Word :=
  let x := c.conn k
  let ws := safetyFrame (c.ws (connOff k + 4)) x.seq len tstamp payload
  (((c.setConn k { x with seq := (x.seq + 1) % 2 ^ 16, due := false }).setFld (WEI_CONN_STAT__LAST_SEQ k) x.seq), ws)

/-- The Weir is TRIPPED or FAILED. -/
def Chip.tripped (c : Chip) : Bool := c.wstate == 3 || c.wstate == 4

/-- A frame the two channels formed differently is withheld, counted, and a compare difference (R348, R384). -/
def Chip.withhold (c : Chip) (k : Nat) : Chip :=
  (c.count (WEI_CONN_CNT__LOST k) 1).setWeir (fun w => { w with frameDiff := true })

/-- A REMOTE_OUT datagram leaves from SAFE_UDP_PORT (R386, R388). -/
def Chip.remoteOutSend (c : Chip) (k : Nat) : Chip :=
  let r := c.txFrame k 4 c.plantMicros [w32 (b2n c.tripped + 2 * b2n c.grant)]
  let o := connOff k
  r.1.sendUdp (bits (c.ws o) 20 20) (c.ws (o + 0x14)) (bits (c.ws (o + 0x10)) 15 0) c.safetyPort (wordsBytes r.2)

/-- Every enabled REMOTE_OUT connection sends (R386). -/
def Chip.remoteOuts (c : Chip) : Chip := c.each (c.connsOf 5) Chip.remoteOutSend

/-! ## Trips (R363, R364) -/

/-- What a trip does beside the outputs: LOCKED_OUT requested, the Logbook told, REMOTE_OUT sent (R364, R386, R518). -/
def Chip.weirTripActs (c : Chip) (code : Nat) : Chip :=
  let c := { c with pnd := { c.pnd with weirTrip := true } }
  let c := c.logEvent 3 (w32 (c.fld WEI_STATUS__FIRST_CAUSE)) (w32 (c.reg WEI_CAUSE_LATCH)) (w32 c.wstate)
  let c := c.logTrigger 0
  let c := if 13 ≤ code then c.logTrigger 1 else c
  let c := if (c.ws 0x4C).testBit code then c.adcWeir else c
  c.remoteOuts

/-- The Weir enters TRIPPED, or FAILED, for a cause; the channels that raise it act at once, the other when it adopts the
cause (R348, R349, R352, R364). -/
def Chip.weirEnter (c : Chip) (code : Nat) (byA byB : Bool) : Chip :=
  let hard := decide (13 ≤ code)
  let c := if c.wstate = 3 then c else c.count WEI_CNT__TRIP_CNT 1
  let c := (c.raise WEI_INT_STATUS__TRIP).setFld WEI_STATUS__WSTATE (if hard then 4 else 3)
  let c := if hard then c.raise WEI_INT_STATUS__FAILED else c
  let c := c.setWeir (fun w => { w with tripT := c.now, hard := hard, adoptedA := byA, adopted := byB, off := 0 })
  c.weirTripActs code

/-- A channel that raises a cause while the Weir is TRIPPED acts on it (R349, R364). -/
def Chip.weirActs (c : Chip) (byA byB : Bool) : Chip :=
  c.setWeir (fun w => { w with adoptedA := w.adoptedA || byA, adopted := w.adopted || byB })

/-- A cause is raised by Weir A, Weir B or both: latched, and a trip; in TRIPPED it is a trip only where it is hard, and
the channels that raise it act (R349, R363, R364). REQUEST clears at once and is never active. -/
def Chip.weirRaise (c : Chip) (code : Nat) (byA byB : Bool) : Chip :=
  let c := if c.reg WEI_CAUSE_LATCH = 0 then c.setFld WEI_STATUS__FIRST_CAUSE code else c
  let c := c.raiseBit WEI_CAUSE_LATCH code
  let c := if code = 12 then c else c.raiseBit WEI_CAUSE code
  let c := c.setWeir (fun w => { w with clearT := none, pressOk := false, levelRun := 0 })
  let c := if (13 ≤ code ∧ c.wstate ≠ 4) ∨ c.wstate ≤ 2 then c.weirEnter code byA byB else c.weirActs byA byB
  c.weirRefresh

/-- A cause is active. -/
def Chip.causeOn (c : Chip) (code : Nat) : Bool := (c.reg WEI_CAUSE).testBit code

/-- A condition seen by Weir A, Weir B or both: the cause is raised where it is not active, and a channel that sees it acts
(R349). -/
def Chip.weirMeet (c : Chip) (code : Nat) (byA byB : Bool) : Chip :=
  if byA || byB then
    if c.causeOn code then (c.weirActs byA byB).weirRefresh else c.weirRaise code byA byB
  else c

/-- A cause follows its condition as the two channels see it: raised when one sees it, cleared when neither does. -/
def Chip.weirFollow (c : Chip) (code : Nat) (byA byB : Bool) : Chip :=
  if byA || byB then c.weirMeet code byA byB
  else if c.causeOn code then (c.setFld ⟨WEI_CAUSE, code, code⟩ 0).weirRefresh
  else c

end Sys2Proof.Machine
end

