-- ==== Sys2Proof/Machine/Weir.lean ====
section
/-! DEFINITION. The Weir's inputs, test pulses, limit monitors, Weir tick, reset recogniser and timers (R346 to R371). -/

namespace Sys2Proof.Machine

/-! ## Safe inputs (R351 to R353) -/

/-- Ticks of a µs. -/
abbrev usTicks : Nat := 800

/-- A test-pulse output's mask runs: from the pulse's start to TP_SET µs after its end (R353). -/
def Chip.tpMasked (c : Chip) (k : Nat) : Bool :=
  match tabGet (fun _ => (none : Option Nat)) c.weir.pulse k with
  | none => false
  | some st => decide (c.now < st + (bits (c.ws 0x40) 25 16 + bits (c.ws 0x44) 9 0) * usTicks)

/-- The channel of an input is masked by its test pulse. -/
def Chip.inMasked (c : Chip) (w : Nat) (chB : Bool) : Bool :=
  if chB then w.testBit 19 && c.tpMasked (bits w 18 16) else w.testBit 23 && c.tpMasked (bits w 22 20)

/-- One channel takes a raw sample: a new level is accepted after the raw level has been stable for FILT (R351). -/
def InCh.sample (x : InCh) (now : Nat) (raw : Bool) (filt : Nat) : InCh :=
  let since := if raw = x.raw then x.since else now
  { lvl := if filt * usTicks ≤ now - since then raw else x.lvl, raw := raw, since := since }

/-- Weir A watches the raw levels of an input: FAST set, ROLE FUNCTION (R352). -/
def fastWatch (w : Nat) : Bool := w.testBit 31 && w.testBit 27 && inRole w == 0

/-- A safe input as Weir B takes its sample: a masked channel holds what it had (R351, R353). -/
def Chip.sampledB (c : Chip) (i : Nat) (pinA pinB : Bool) : SafeIn :=
  let w := c.ws (inOff i)
  let filt := bits (c.ws (inOff i + 4)) 14 0
  let x := c.safeInB i
  { x with
    a := if c.inMasked w false then x.a else x.a.sample c.now pinA filt
    b := if c.inMasked w true then x.b else x.b.sample c.now pinB filt }

/-- A safe input as Weir A takes its sample: a masked channel holds its filtered level and its fast path, and outside
the mask the fast path is the raw level (R351 to R353). -/
def Chip.sampledA (c : Chip) (i : Nat) (pinA pinB : Bool) : SafeIn :=
  let w := c.ws (inOff i)
  let filt := bits (c.ws (inOff i + 4)) 14 0
  let x := c.safeIn i
  { x with
    a := if c.inMasked w false then x.a else x.a.sample c.now pinA filt
    b := if c.inMasked w true then x.b else x.b.sample c.now pinB filt
    fast := if c.inMasked w false then x.fast else fastWatch w && demA pinA
    fastB := if c.inMasked w true then x.fastB else fastWatch w && demB w pinB }

/-- A safe input takes its sample in both Weir channels (R346, R351). -/
def Chip.sampleInput (c : Chip) (i : Nat) (pinsA pinsB : PinLevels) : Chip :=
  c.setSafeIn i (c.sampledA i (pinsA.byA.testBit i) (pinsB.byA.testBit i))
    (c.sampledB i (pinsA.byB.testBit i) (pinsB.byB.testBit i))

/-- The test-pulse outputs whose pulse has ended return high (R353). -/
def Chip.tpRelease (c : Chip) : Chip :=
  c.each ((List.range 8).filter (fun k => c.weir.tpLow.testBit k
      && (match tabGet (fun _ => (none : Option Nat)) c.weir.pulse k with
          | none => true
          | some st => decide (st + bits (c.ws 0x40) 25 16 * usTicks ≤ c.now)))) (fun c k =>
    (c.setWeir (fun w => { w with tpLow := w.tpLow ^^^ 2 ^ k })).emit (.pin pinTP k true))

/-- INPUT_DEMAND as the two channels see it (R346, R350). -/
def Chip.demandMeet (c : Chip) : Chip :=
  let a := c.functionDemand
  let b := c.functionDemandB
  if a || b then c.weirMeet 1 a b else c.weirRefresh

/-- All safe inputs are sampled, and a demand raises INPUT_DEMAND in the channel that sees it (R346, R350, R351). -/
def Chip.safeSample (c : Chip) (pinsA pinsB : PinLevels) : Chip :=
  (c.tpRelease.each (List.range 24) (fun c i => c.sampleInput i pinsA pinsB)).demandMeet

/-- SAFE_INPUT_SAMPLE (R351). -/
def execSafeInputSample (t : Nat) (pinsA : PinLevels) (pinsB : PinLevels) (s : State) : Host.Outcome State Fault Refusal :=
  s.event t (fun c => c.safeSample pinsA pinsB)

/-- A raw demand level outside the mask on a FAST input with ROLE FUNCTION: Weir A acts at once (R352). -/
def Chip.fastDemand (c : Chip) (i : Nat) (chB : Bool) : Chip :=
  let w := c.ws (inOff i)
  if fastWatch w && !(chB && w.testBit 26) && !c.inMasked w chB then
    let x := c.safeIn i
    (c.setSafeIn i (if chB then { x with fastB := true } else { x with fast := true }) (c.safeInB i)).weirMeet 1 true false
  else c

/-- FAST_DEMAND (R352). -/
def execFastDemand (t : Nat) (i : Fin 24) (chB : Bool) (s : State) : Host.Outcome State Fault Refusal :=
  s.event t (fun c => c.fastDemand i.val chB)

/-- Ticks into the period of test-pulse output k; `none` with no active set (R353). -/
def Chip.tpPhase (c : Chip) (k : Nat) : Option Nat :=
  let per := bits (c.ws 0x40) 15 0
  let first := c.weir.actT + k * per * 100000
  if c.weir.actV && per != 0 && decide (first ≤ c.now) then some ((c.now - first) % (per * 800000)) else none

/-- A test pulse begins (R353). -/
def Chip.tpStart (c : Chip) (k : Nat) : Chip :=
  if c.tpPhase k = some 0 then
    (c.setWeir (fun w => { w with
        pulse := tabPut (fun _ => (none : Option Nat)) k (some c.now) w.pulse
        tpLow := w.tpLow ||| 2 ^ k })).emit (.pin pinTP k false)
  else c

/-- TEST_PULSE_START (R353). -/
def execTestPulseStart (t : Nat) (k : Fin 8) (s : State) : Host.Outcome State Fault Refusal :=
  s.event t (fun c => c.tpStart k.val)

/-- An input as one Weir channel sees it after the sample in the last microsecond of test pulse k: a channel tested by it
whose pin is high, or whose output is not low, takes a fault, and a low sample clears it; the B pin of a SINGLE input
is ignored (R350, R353). -/
def SafeIn.tested (x : SafeIn) (w k : Nat) (pinA pinB tpLevel : Bool) : SafeIn :=
  { x with
    tpfA := if w.testBit 31 && w.testBit 23 && bits w 22 20 == k then tpLevel || pinA else x.tpfA
    tpfB := if w.testBit 31 && w.testBit 19 && bits w 18 16 == k && !w.testBit 26 then tpLevel || pinB else x.tpfB }

/-- An input has a test-pulse fault. -/
def SafeIn.tpFault (x : SafeIn) : Bool := x.tpfA || x.tpfB

/-- The last microsecond of a test pulse: both Weir channels sample the pins it tests. A fault raises TP_FAULT, and each
fault that arises sets the interrupt's bit (R353, R363, R380). -/
def Chip.tpEnd (c : Chip) (k : Nat) (pinsA pinsB : PinLevels) (tpLevel : Bool) : Chip :=
  let W := bits (c.ws 0x40) 25 16
  match tabGet (fun _ => (none : Option Nat)) c.weir.pulse k with
  | none => c
  | some st =>
    if st + (W - 1) * usTicks ≤ c.now ∧ c.now < st + W * usTicks then
      let old := c
      let c := c.each (List.range 24) (fun c i =>
        let w := c.ws (inOff i)
        c.setSafeIn i ((c.safeIn i).tested w k (pinsA.byA.testBit i) (pinsB.byA.testBit i) tpLevel)
          ((c.safeInB i).tested w k (pinsA.byB.testBit i) (pinsB.byB.testBit i) tpLevel))
      let arises (x y : SafeIn) : Bool := (!x.tpfA && y.tpfA) || (!x.tpfB && y.tpfB)
      let new := (List.range 24).any (fun i =>
        arises (old.safeIn i) (c.safeIn i) || arises (old.safeInB i) (c.safeInB i))
      let c := if new then c.raise WEI_INT_STATUS__TP_FAULT else c
      (c.weirFollow 3 ((List.range 24).any (fun i => (c.safeIn i).tpFault))
        ((List.range 24).any (fun i => (c.safeInB i).tpFault))).demandMeet
    else c

/-- TEST_PULSE_END (R353). -/
def execTestPulseEnd (t : Nat) (k : Fin 8) (pinsA : PinLevels) (pinsB : PinLevels) (tpLevel : Bool) (s : State) :
    Host.Outcome State Fault Refusal :=
  s.event t (fun c => c.tpEnd k.val pinsA pinsB tpLevel)

/-! ## Limit monitors (R349, R356 to R361) -/

/-- An axis monitor as it starts. -/
def AxMon.init : AxMon := ⟨[], [], none, []⟩

/-- Axis monitor m as Weir A runs it. -/
def Chip.mon (c : Chip) (m : Nat) : AxMon := tabGet (fun _ => AxMon.init) c.weir.mons m

/-- Axis monitor m as Weir B runs it. -/
def Chip.monB (c : Chip) (m : Nat) : AxMon := tabGet (fun _ => AxMon.init) c.weir.monsB m

/-- The chip with an axis monitor replaced, as Weir A and as Weir B run it. -/
def Chip.setMon (c : Chip) (m : Nat) (x y : AxMon) : Chip :=
  c.setWeir (fun w => { w with
    mons := tabPut (fun _ => AxMon.init) m x w.mons
    monsB := tabPut (fun _ => AxMon.init) m y w.monsB })

/-- The per-pound sample of a channel as the Weir reads it: position and age; in role STANDBY those the ledger gave, but
for a channel of type 4, which has no CHANNEL entry (R190, R356, R443). -/
def Chip.weirSample (c : Chip) (ch : Nat) : Nat × Nat :=
  if c.role = 2 ∧ c.fld (POS_CH_CFG__TYPE ch) ≠ 4 then tabGet (fun _ => (0, 255)) c.weir.feed ch
  else (c.reg (POS_CH_POS_LO ch) + bits (c.reg (POS_CH_POS_HI ch)) 15 0 * 2 ^ 32, c.fld (POS_CH_STAT__AGE ch))

/-- After a boundary the positions the ledger gave a standby age by a pound; the commit of the next pound, if it comes,
gives them anew (R190). -/
def Chip.feedAge (c : Chip) : Chip :=
  c.setWeir (fun w => { w with feed := w.feed.map (fun e => (e.1, (e.2.1, min (e.2.2 + 1) 255))) })

/-- The Weir speed over 2^WW pounds of the positions kept; with fewer kept, over those there are (R356). A WW of 7 names a
window that the 65 positions do not reach: the speed is then a free value. -/
def weirSpeed (hist : List Nat) (ww : Nat) : Int :=
  if ww = 7 then Config.speedWide hist
  else modDiff 48 (hist.getD 0 0) (hist.getD (2 ^ ww) (hist.getLastD 0))

/-- WW of an axis monitor. -/
def monWW (w : Nat) : Nat := bits w 29 27

/-- A function's activation, from whether its input is demanded (R357). -/
def actOn (act : Nat) (demanded : Bool) : Bool :=
  match act with
  | 0 => false
  | 1 => true
  | 2 => demanded
  | _ => !demanded

/-- The sample joins the positions kept; one whose check failed repeats the last position. -/
def pushPos (hist : List Nat) (bad : Bool) (p : Nat) : List Nat := ((if bad then hist.headD p else p) :: hist).take 65

/-- One axis monitor's evaluation by a Weir channel: `dem` says which inputs it sees demanded, `bad` are the channels
whose sample failed its check (R356 to R361). -/
def Chip.axisEval (c : Chip) (dem : Nat → Bool) (bad : List Nat) (m : Nat) (x : AxMon) : AxMon :=
  let o := monOff m
  let w := c.ws o
  let f := c.ws (o + 4)
  if w.testBit 31 then
    let pch := bits w 7 0
    let qch := bits w 15 8
    let qen := w.testBit 30
    let sp := c.weirSample pch
    let sq := c.weirSample qch
    let hist := pushPos x.hist (bad.contains pch) sp.1
    let histQ := if qen then pushPos x.histQ (bad.contains qch) sq.1 else []
    let v := weirSpeed hist (monWW w)
    let p := signed 48 (hist.getD 0 0)
    let lim := bits w 23 16
    let fbRaise := bad.contains pch || decide (lim < sp.2) || (qen && (bad.contains qch || decide (lim < sq.2)))
    let fbOk := !bad.contains pch && sp.2 == 0 && (!qen || (!bad.contains qch && sq.2 == 0))
    let sls := actOn (bits f 31 30) (dem (bits f 28 24)) && decide (c.ws (o + 8) < v.natAbs)
    let ahead := p + v * (bits f 7 0 : Nat)
    let lo := setI48 c.weir.act (o + 0x10)
    let hi := setI48 c.weir.act (o + 0x18)
    let slp := actOn (bits f 23 22) (dem (bits f 20 16)) && (decide (p < lo ∨ hi < p) || decide (ahead < lo ∨ hi < ahead))
    let sdiAct := actOn (bits f 15 14) (dem (bits f 12 8))
    let neg := f.testBit 13
    let ref := if neg then min (x.sdi.getD p) p else max (x.sdi.getD p) p
    let back := if neg then p - ref else ref - p
    let sdi := sdiAct && (decide ((c.ws (o + 0x0C) : Int) < back) || x.causes.contains 6)
    let q := c.ws (o + 0x20)
    let plaus := qen && decide ((c.ws (o + 0x24) * bits q 15 0 : Nat) <
      (v * (bits q 15 0 : Nat) - weirSpeed histQ (monWW w) * (bits q 31 16 : Nat)).natAbs)
    let fb := fbRaise || (x.causes.contains 9 && !fbOk)
    let causes := [(4, sls), (5, slp), (6, sdi), (8, plaus), (9, fb)].filterMap (fun e => if e.2 then some e.1 else none)
    ⟨hist, histQ, if sdiAct then some ref else none, causes⟩
  else x

/-- A flight monitor's evaluation by a Weir channel over its axis monitors (R358). -/
def Chip.fmonOn (c : Chip) (dem : Nat → Bool) (mon : Nat → AxMon) (f : Nat) : Bool :=
  let o := fmonOff f
  let w := c.ws o
  let sum := (List.range (bits w 4 0)).foldl (fun n k =>
    let m := (tabGet (fun _ => (0 : Byte)) c.weir.act (o + 0x10 + k)).toNat
    n + memHalf 0 c.weir.act (o + 0x20 + 2 * k) * (weirSpeed (mon m).hist (monWW (c.ws (monOff m)))).natAbs) 0
  w.testBit 31 && actOn (bits w 30 29) (dem (bits w 28 24)) && decide (c.ws (o + 4) < sum)

/-- The evaluation of every monitor by both Weir channels on the samples of the pound that ends, and the causes it raises
and clears, in ascending order; a difference of the results is compared at the next Weir tick (R346, R348, R349, R356 to
R361, R363). -/
def Chip.monitors (c : Chip) (bad badB : List Nat) : Chip :=
  if c.weir.actV = false then c
  else
    let c := c.each (List.range 256) (fun c m =>
      c.setMon m (c.axisEval c.inDemanded bad m (c.mon m)) (c.axisEval c.inDemandedB badB m (c.monB m)))
    let fm := (List.range 32).filter (c.fmonOn c.inDemanded c.mon)
    let fmB := (List.range 32).filter (c.fmonOn c.inDemandedB c.monB)
    let results (t : List (Nat × AxMon)) : List (Nat × List Nat) := t.map (fun e => (e.1, e.2.causes))
    let differ := fm != fmB || results c.weir.mons != results c.weir.monsB
    let c := c.setWeir (fun w => { w with fmons := fm, fmonsB := fmB, monNow := w.monNow || differ })
    let c := c.each (List.range 8) (fun c j => c.setReg (WEI_MON_TRIP j)
      ((List.range 32).foldl (fun n i => if (c.mon (32 * j + i)).causes = [] then n else n + 2 ^ i) 0))
    let c := c.setReg WEI_FMON_TRIP (fm.foldl (fun n f => n + 2 ^ f) 0)
    let a (code : Nat) : Bool := if code = 7 then fm != [] else c.weir.mons.any (fun e => e.2.causes.contains code)
    let b (code : Nat) : Bool := if code = 7 then fmB != [] else c.weir.monsB.any (fun e => e.2.causes.contains code)
    c.each [4, 5, 6, 7, 8, 9] (fun c code => c.weirFollow code (a code) (b code))

/-! ## Safety connections as a cause (R392) -/

/-- SAFE_FRAME's condition (R392). -/
def Chip.safeFrame (c : Chip) : Bool :=
  c.weir.actV && (List.range 256).any (fun k =>
    let w := c.ws (connOff k)
    let st := c.cstate k
    w.testBit 31 && rxKind (connKind w) && (st == 1 || st == 3 || c.flag (WEI_CONN_STAT__DEMAND k)))

/-! ## The Weir tick (R347, R348, R354, R367 to R371) -/

/-- A boundary at which a Weir tick falls (R347). -/
def Chip.weirTickHere (c : Chip) : Bool := c.poundNum % (16 / 2 ^ min c.pnd.sel 4) == 0

/-- One input's discrepancy sample as one Weir channel takes it (R354). -/
def SafeIn.discSample (x : SafeIn) (w : Nat) : SafeIn :=
  let a := demA x.a.lvl
  let b := demB w x.b.lvl
  if w.testBit 31 && !w.testBit 26 then
    let n := if a = b then 0 else x.disc + 1
    let fault := if a && b then false else x.discF || decide (bits w 11 0 ≤ n)
    { x with disc := min n 4096, discF := fault }
  else x

/-- The discrepancy samples of all inputs in both Weir channels (R354). -/
def Chip.discSamples (c : Chip) : Chip :=
  c.each (List.range 24) (fun c i =>
    c.setSafeIn i ((c.safeIn i).discSample (c.ws (inOff i))) ((c.safeInB i).discSample (c.ws (inOff i))))

/-- The outputs read back at a Weir tick: `flipA` and `flipB` are the pins that differ from their commanded level
(R367). -/
def Chip.readback (c : Chip) (flipA flipB : Nat) : Chip :=
  let twice := (flipA &&& c.weir.rbA) ||| (flipB &&& c.weir.rbB)
  let c := c.setWeir (fun w => { w with rbA := flipA, rbB := flipB })
  let c := c.setFld WEI_OUT_FLT__FLT (c.fld WEI_OUT_FLT__FLT ||| twice)
  if twice % 2 ^ 24 = 0 then c else if c.causeOn 13 then c else c.weirRaise 13 true true

/-- The compare records of the two channels differ in what the state holds of each: filtered levels, discrepancy counters
and test-pulse results of the inputs, monitor results of the pounds ended by the last Weir tick, and commanded output
pins; a safety frame withheld since then is a difference too (R348, R384). -/
def Chip.recordsDiffer (c : Chip) : Bool :=
  let w := c.weir
  (List.range 24).any (fun i =>
    let x := c.safeIn i
    let y := c.safeInB i
    x.a.lvl != y.a.lvl || x.b.lvl != y.b.lvl || x.disc != y.disc || x.tpfA != y.tpfA || x.tpfB != y.tpfB)
    || w.monLast || w.outA != w.outB || w.frameDiff

/-- The comparison of the two channels' records: one difference is counted, two in a row raise XCMP (R348). -/
def Chip.xcmp (c : Chip) (differ : Bool) : Chip :=
  let before := c.weir.differed
  let c := c.setWeir (fun w => { w with differed := differ })
  if differ then
    let c := (c.count WEI_CNT__XCMP_CNT 1).raise WEI_INT_STATUS__XCMP_SOFT
    if before && !c.causeOn 14 then c.weirRaise 14 true true else c
  else c

/-- The reset recogniser's sample (R369 to R371); `before` is the Weir as it was before this boundary's evaluations. -/
def Chip.resetSample (c : Chip) (before : Weir) : Chip :=
  let w := c.ws 0x48
  let level := w.testBit 31
  let active := c.resetSignal
  let lengthOk := decide (400 ≤ before.press ∧ before.press ≤ 12000)
  let ended := !level && !active && lengthOk
  let after := match before.clearT with
    | some tc => decide (tc < c.now)
    | none => false
  let run := if active && after then before.levelRun + 1 else 0
  let ready := if level then run == 200 else ended && before.pressOk
  let raised := c.weir.tripT == c.now || (before.clearT.isSome && c.weir.clearT.isNone)
  let early (c : Chip) : Chip := (c.raise WEI_INT_STATUS__RESET_EARLY).count WEI_CNT__RESET_EARLY_CNT 1
  let c := c.setWeir (fun x => { x with
    press := if level then 0 else if active then min (before.press + 1) 12001 else 0
    pressOk := if active && before.press == 0 then after && !raised else x.pressOk && active
    levelRun := if raised then 0 else run })
  let c := if !level && active && before.press == 12000 then
      (c.raise WEI_INT_STATUS__RESET_STUCK).count WEI_CNT__RESET_STUCK_CNT 1
    else c
  if ready && c.wstate == 3 && !raised && c.fld WEI_CAUSE__ACTIVE == 0 then
    let c := ((c.setFld WEI_STATUS__WSTATE 2).setReg WEI_CAUSE_LATCH 0).setFld WEI_STATUS__FIRST_CAUSE 0
    let c := (c.raise WEI_INT_STATUS__RESET_DONE).logEvent 4 0 0 0
    let c := { c with pnd := { c.pnd with weirReset := true } }
    let c := c.setWeir (fun x => { x with clearT := none, levelRun := 0, off := 0 })
    let c := c.each (c.connsOf 1) (fun c k => c.setConn k { c.conn k with due := true })
    c.weirRefresh.remoteOuts
  else if ready && raised then early c
  else if ended && !before.pressOk && c.wstate == 3 then early c
  else c

/-- A Weir tick (R347, R348, R354, R367, R369, R392): `differ` is a difference of the compare records beyond those the
state shows, `dev` how far the count of engine ticks since the last Weir tick lies from 200,000 against the Weir's
oscillator. -/
def Chip.weirTick (c : Chip) (before : Weir) (differ : Bool) (flipA flipB : Nat) (dev : Int) : Chip :=
  let differ := differ || c.recordsDiffer
  let c := c.setWeir (fun w => { w with
    adoptedA := true, adopted := true, monLast := w.monNow, monNow := false, frameDiff := false })
  let c := c.discSamples
  let c := c.weirFollow 2 ((List.range 24).any (fun i => (c.safeIn i).discF)) ((List.range 24).any (fun i => (c.safeInB i).discF))
  let c := c.weirFollow 1 c.functionDemand c.functionDemandB
  let c := c.weirFollow 10 c.safeFrame c.safeFrame
  let c := c.readback flipA flipB
  let c := c.xcmp differ
  let c := if 4000 < dev.natAbs ∧ c.causeOn 15 = false then c.weirRaise 15 true true else c
  let c := if c.wstate = 3 ∧ c.fld WEI_CAUSE__ACTIVE = 0 ∧ c.weir.clearT = none then
      (c.setWeir (fun w => { w with clearT := some c.now })).raise WEI_INT_STATUS__CLEARED
    else c
  (c.resetSample before).weirRefresh

/-- No Weir tick within 300 µs of Weir-oscillator time raises CLOCK (R347). -/
def execWeirTickMissing (t : Nat) (s : State) : Host.Outcome State Fault Refusal :=
  s.event t (fun c => if c.causeOn 15 then c else c.weirRaise 15 true true)

/-- A 5 µs interval of the Weir oscillator with a count off 4,000 by more than 4 raises CLOCK; a clock that stopped or left
±2,000 ppm, 8 of 4,000, also holds the device in cold reset (R347, R534). -/
def Chip.clockInterval (c : Chip) (ticks : Nat) : Chip :=
  let c := if (ticks < 3996 ∨ 4004 < ticks) ∧ c.causeOn 15 = false then c.weirRaise 15 true true else c
  if ticks < 3992 ∨ 4008 < ticks then c.clockHold else c

/-- The end of a 5 µs interval of the Weir oscillator (R347). -/
def execWeirClockInterval (t : Nat) (ticks : Nat) (s : State) : Host.Outcome State Fault Refusal :=
  s.event t (fun c => c.clockInterval ticks)

/-- A lockstep error, memory error or failed self-test of the Weir raises INTERNAL (R363). -/
def execWeirInternalFault (t : Nat) (src : WeirFaultSrc) (s : State) : Host.Outcome State Fault Refusal :=
  s.event t (fun c => match src with
    | .lockstep | .memory | .selfTest => if c.causeOn 17 then c else c.weirRaise 17 true true)

/-- The timer of a CAT 1 group ends at the first Weir tick at which T_SS1 has elapsed since the trip (R364). -/
def Chip.ss1Expiry (c : Chip) (g : Nat) : Chip :=
  let w := c.ws (groupOff g)
  if c.ss1Runs g && c.phase == 0 && c.weirTickHere && decide (c.weir.tripT + bits w 13 0 * 800000 ≤ c.now) then
    (c.setWeir (fun x => { x with off := x.off ||| 2 ^ g })).weirRefresh
  else c

/-- SS1_EXPIRY (R364). -/
def execSs1Expiry (t : Nat) (g : Fin 16) (s : State) : Host.Outcome State Fault Refusal :=
  s.event t (fun c => c.ss1Expiry g.val)

/-! ## Commands (R363, R496) -/

/-- WEIR_TRIP's rules: both channels raise REQUEST, in every operating state (R363). -/
def Chip.weirTripCmd (c : Chip) (_ : Intake) : Chip × Answer := (c.weirRaise 12 true true, ansOK)

/-- WEIR_TRIP (R363). -/
def execWeirTrip (t : Nat) (ifc : Iface) (tag target : Word) (pl : List Word) (s : State) :
    Host.Outcome State Fault Refusal :=
  s.command t 0x0B03 ifc tag target pl Chip.weirTripCmd

/-- WEIR_STATUS's rules: the Weir's status registers from one tick (R496). -/
def Chip.weirStatus (c : Chip) (_ : Intake) : Chip × Answer :=
  (c, .now stOK 0 ([WEI_STATUS, WEI_CAUSE, WEI_CAUSE_LATCH, WEI_IN_DEM, WEI_IN_DISC, WEI_IN_TPF, WEI_OUT_ON, WEI_OUT_FLT,
    WEI_PSET_ID, WEI_PSET_CRC, WEI_PSET_STAGE, WEI_PSET_SCRC].map (fun o => w32 (c.reg o))))

/-- WEIR_STATUS (R496). -/
def execWeirStatus (t : Nat) (ifc : Iface) (tag target : Word) (pl : List Word) (s : State) :
    Host.Outcome State Fault Refusal :=
  s.command t 0x0B04 ifc tag target pl Chip.weirStatus

end Sys2Proof.Machine
end

