-- ==== Sys2Proof/Machine/Black.lean ====
section
/-! DEFINITION. Safety connections: the checks on frames received, their states and watchdogs, and the SAFETY items sent
on Towpath (R386 to R393). -/

namespace Sys2Proof.Machine

/-- Payload bytes of a kind (R381). -/
def kindLen (w : Nat) : Nat :=
  match connKind w with
  | 1 => 16
  | 3 => 8 * bits w 23 21
  | _ => 4

/-- Bytes of a frame with LEN payload bytes (R382). -/
def frameBytes (len : Nat) : Nat := 16 + 4 * ((len + 3) / 4)

/-- The error code of the first failed check on a frame of a connection, 0 where it passes all (R389, R390). -/
def Chip.frameErr (c : Chip) (k : Nat) (bs : List Byte) (udp : Bool) : Nat :=
  let o := connOff k
  let ws := bytesWords bs
  let id := c.ws (o + 4)
  let len := bits (wordAt ws 1) 7 0
  let n := bs.length
  let seq := bits (wordAt ws 1) 31 16
  let d := (seq + 2 ^ 16 - c.fld (WEI_CONN_STAT__LAST_SEQ k)) % 2 ^ 16
  let seqAny := c.cstate k != 2 || (c.conn k).anySeq
  let win := max (bits (c.ws (o + 0x0C)) 15 8) 1
  let now := if udp then c.plantMicros else c.poundNum
  let age := modDiff 32 now (wordAt ws 2)
  if n < 16 ∨ n < frameBytes len ∨ leNat (bs.drop (n - 4)) ≠ (safetyCode id (bs.take (n - 4))).toNat then 1
  else if wordAt ws 0 ≠ id then 2
  else if len ≠ kindLen (c.ws o) ∨ n ≠ frameBytes len then 3
  else if seqAny = false ∧ d = 0 then 5
  else if seqAny = false ∧ win < d then 4
  else if age < -(bits (c.ws (o + 0x0C)) 31 16 : Nat) ∨ (bits (c.ws (o + 8)) 15 0 : Nat) < age
      ∨ (udp = true ∧ c.flag TIM_SEL_STAT__TB3_VALID = false) then 6
  else 0

/-- SAFE_FRAME is raised when its condition holds and it is not active (R392). -/
def Chip.safeFrameRaise (c : Chip) : Chip :=
  if c.safeFrame && !c.causeOn 10 then c.weirRaise 10 true true else c.weirRefresh

/-- A connection moves to FAULT with an error code (R391). -/
def Chip.connFault (c : Chip) (k err : Nat) : Chip :=
  let c := (c.setFld (WEI_CONN_STAT__CSTATE k) 3).setFld (WEI_CONN_STAT__LAST_ERR k) err
  (c.setConn k { c.conn k with run := 0 }).safeFrameRaise

/-- A discarded frame: its error, its count, and FAULT at a second CODE failure within 1 s in RUN (R389, R391). -/
def Chip.frameDiscard (c : Chip) (k err : Nat) : Chip :=
  let x := c.conn k
  let c := c.setFld (WEI_CONN_STAT__LAST_ERR k) err
  let c := c.count (if err ≤ 2 then WEI_CONN_CNT__CODE_ERR k else if err = 4 ∨ err = 5 then WEI_CONN_CNT__SEQ_ERR k
    else WEI_CONN_CNT__AGE_ERR k) 1
  let again := match x.codeT with
    | some t => decide (c.now ≤ t + 800000000)
    | none => false
  let c := c.setConn k { x with run := 0, codeT := if err = 1 then some c.now else x.codeT }
  if err = 1 ∧ again = true ∧ c.cstate k = 2 then c.connFault k 8 else c

/-- The tracks of an accepted TRACKS frame replace their slots (R398). -/
def Chip.putTracks (c : Chip) (k : Nat) (pl : List Word) : Chip :=
  let base := bits (c.ws (connOff k + 0x10)) 21 16
  c.each (List.range (bits (c.ws (connOff k)) 23 21)) (fun c i =>
    c.setWeir (fun w => { w with
      tracks := tabPut (fun _ => (0, 0)) (base + i) (pl.getD (2 * i) 0, pl.getD (2 * i + 1) 0) w.tracks }))

/-- An accepted frame (R390, R391, R393). -/
def Chip.frameAccept (c : Chip) (k : Nat) (ws : List Word) : Chip :=
  let w := c.ws (connOff k)
  let kind := connKind w
  let x := c.conn k
  let seq := bits (wordAt ws 1) 31 16
  let d := (seq + 2 ^ 16 - c.fld (WEI_CONN_STAT__LAST_SEQ k)) % 2 ^ 16
  let pl := (ws.drop 3).take ((bits (wordAt ws 1) 7 0 + 3) / 4)
  let c := if c.cstate k = 2 ∧ x.anySeq = false then c.count (WEI_CONN_CNT__LOST k) (d - 1) else c
  let run := min (x.run + 1) 255
  let c := c.setFld (WEI_CONN_STAT__LAST_SEQ k) seq
  let c := if (c.cstate k = 1 ∨ c.cstate k = 3) ∧ bits (c.ws (connOff k + 0x0C)) 7 0 ≤ run then
      c.setFld (WEI_CONN_STAT__CSTATE k) 2 else c
  let c := c.setConn k { x with last := c.now, run := run, anySeq := false, data := pl }
  let p0 := wordAt pl 0
  let c := c.setFlag (WEI_CONN_STAT__DEMAND k) ((kind == 2 && p0.testBit 3) || (kind == 4 && p0.testBit 0))
  let c := c.setFlag (WEI_CONN_STAT__RESET_BIT k) (kind == 4 && p0.testBit 1)
  (if kind = 3 then c.putTracks k pl else c).safeFrameRaise

/-- A frame reaches a receive connection (R389 to R391); SUSPENDED takes none. -/
def Chip.frameReceive (c : Chip) (k : Nat) (bs : List Byte) (udp : Bool) : Chip :=
  if c.cstate k = 1 ∨ c.cstate k = 2 ∨ c.cstate k = 3 then
    match c.frameErr k bs udp with
    | 0 => c.frameAccept k (bytesWords bs)
    | e => c.frameDiscard k e
  else c

/-- A SAFETY item of a reply: the frame of the connection the payload map names, if that is an enabled BARGE_STATUS
connection (R247, R389). -/
def Chip.safetyItem (c : Chip) (k : Nat) (bs : List Byte) : Chip :=
  let w := c.ws (connOff k)
  if w.testBit 31 && connKind w == 2 then c.frameReceive k bs false else c

/-- The frames of a datagram, whole and back to back; `none` where the length disagrees with them (R388). -/
def cutFrames : Nat → List Byte → Option (List (List Byte))
  | 0, bs => if bs = [] then some [] else none
  | fuel + 1, bs =>
    if bs = [] then some []
    else
      let n := frameBytes (bits (wordAt (bytesWords (bs.take 8)) 1) 7 0)
      if bs.length < n then none
      else (cutFrames fuel (bs.drop n)).map (fun l => bs.take n :: l)

/-- A safety datagram (R388, R389). -/
def Chip.safetyDatagram (c : Chip) (bs : List Byte) : Chip :=
  if c.weir.actV = false ∨ c.safetyPort = 0 then c
  else
    match (if bs = [] then none else cutFrames 8 bs) with
    | none => c.count WEI_SL_UNKNOWN__UNKNOWN 1
    | some fs =>
      c.each fs (fun c f =>
        let id := wordAt (bytesWords (f.take 4)) 0
        let hit := (List.range 256).find? (fun k =>
          let w := c.ws (connOff k)
          w.testBit 31 && (connKind w == 3 || connKind w == 4) && c.ws (connOff k + 4) == id)
        match hit with
        | none => c.count WEI_SL_UNKNOWN__UNKNOWN 1
        | some k => c.frameReceive k f true)

/-- SAFETY_DATAGRAM_RECEIVED (R388). -/
def execSafetyDatagramReceived (t : Nat) (_m : Fin 2) (bytes : List Byte) (s : State) : Host.Outcome State Fault Refusal :=
  s.event t (fun c => c.safetyDatagram bytes)

/-- A watchdog expires: WDOG·10 µs after the last accepted frame in RUN, or after activation with none accepted in OPEN
(R391). An acceptance in the tick that completes the time comes first, so the watchdog expires behind it (R389). -/
def Chip.connWatchdog (c : Chip) (k : Nat) : Chip :=
  let w := c.ws (connOff k)
  let x := c.conn k
  let due := decide (x.last + bits (c.ws (connOff k + 8)) 31 16 * 8000 < c.now)
  if w.testBit 31 && rxKind (connKind w) && due && (c.cstate k == 2 || (c.cstate k == 1 && x.last == c.weir.actT)) then
    c.connFault k 7
  else c

/-- SAFETY_WATCHDOG_EXPIRY (R391). -/
def execSafetyWatchdogExpiry (t : Nat) (conn : Fin 256) (s : State) : Host.Outcome State Fault Refusal :=
  s.event t (fun c => c.connWatchdog conn.val)

/-- Takeover: SUSPENDED connections enter RUN, their first frame accepted with any SEQ, and every DRIVE connection sends
in the first command release (R386, R391). -/
def Chip.connTakeover (c : Chip) : Chip :=
  let c := c.each (c.connsOf 2) (fun c k =>
    if c.cstate k = 4 then
      (c.setFld (WEI_CONN_STAT__CSTATE k) 2).setConn k { c.conn k with last := c.now, anySeq := true }
    else c)
  c.each (c.connsOf 0) (fun c k => c.setConn k { c.conn k with due := true })

/-- Entry to STANDBY suspends the BARGE_STATUS connections (R391). -/
def Chip.connSuspend (c : Chip) : Chip :=
  c.each (c.connsOf 2) (fun c k => c.setFld (WEI_CONN_STAT__CSTATE k) 4)

/-! ## SAFETY items sent (R386, R387) -/

/-- CAT and T_SS1 of a connection's group as trips carry them: CAT 0 after a hard cause (R364, R386). -/
def Chip.catWord (c : Chip) (k : Nat) : Nat × Nat :=
  let g := c.ws (groupOff (bits (c.ws (connOff k)) 27 24))
  (if c.weir.hard && c.tripped then 0 else bits g 30 30, bits g 13 0)

/-- The payload of a DRIVE frame (R386). -/
def Chip.driveWord (c : Chip) (k : Nat) : Word :=
  let en := c.grant && c.ctrlReq false && c.drives
  let q := c.catWord k
  w32 (b2n en + 2 * b2n c.tripped + 4 * q.1 + 8 * b2n en + q.2 * 2 ^ 16)

/-- The payload of a STRING_TRIP frame of a port: a halfword for each barge, of its lowest-numbered DRIVE connection
(R386). -/
def Chip.stringWords (c : Chip) (port : Nat) : List Word :=
  let half (b : Nat) : Nat :=
    match (c.connsOf 0).find? (fun k => let w := c.ws (connOff k); bits w 19 14 == port && bits w 13 11 == b) with
    | none => 0
    | some k => let q := c.catWord k; b2n c.tripped + 2 * q.1 + 4 * q.2
  (List.range 4).map (fun i => w32 (half (2 * i) + half (2 * i + 1) * 2 ^ 16))

/-- A TX connection of a port is due in this command release (R378, R386). -/
def Chip.txDue (c : Chip) (k : Nat) : Bool :=
  let w := c.ws (connOff k)
  let p := c.ws (connOff k + 0x10)
  if connKind w = 1 then c.tripped || (c.conn k).due
  else c.drives && (c.poundNum % 2 ^ bits p 31 29 == bits p 28 22 || (c.conn k).due)

/-- The SAFETY items of a port's COMMAND: the STRING_TRIP item first, then the DRIVE items; each with its IDX and its
frame. A frame the two channels formed differently is withheld and counted (R384, R386, R387). -/
def Chip.safetyItems (c : Chip) (port : Nat) (withheld : List Nat) : Chip × List (Nat × List Word) :=
  let mine := (c.connsOf 1 ++ c.connsOf 0).filter (fun k => bits (c.ws (connOff k)) 19 14 == port && c.txDue k)
  mine.foldl (fun (r : Chip × List (Nat × List Word)) k =>
    let c := r.1
    let w := c.ws (connOff k)
    let q := if connKind w = 1 then c.txFrame k 16 c.poundNum (c.stringWords port)
      else c.txFrame k 4 c.poundNum [c.driveWord k]
    let idx := if connKind w = 1 then 0x10 else bits w 13 11 * 32 + bits w 10 9
    if withheld.contains k then (q.1.withhold k, r.2) else (q.1, r.2 ++ [(idx, q.2)])) (c, [])

/-- The REMOTE_OUT connections due in this pound send; a frame the two channels formed differently is withheld (R384,
R386). -/
def Chip.remoteOutDue (c : Chip) (withheld : List Nat) : Chip :=
  c.each ((c.connsOf 5).filter (fun k =>
    let p := c.ws (connOff k + 0x10)
    c.poundNum % 2 ^ bits p 31 29 == bits p 28 22)) (fun c k =>
      if withheld.contains k then (c.txFrame k 4 c.plantMicros []).1.withhold k else c.remoteOutSend k)

end Sys2Proof.Machine
end

