-- ==== Sys2Proof/Machine/Pos.lean ====
section
/-! DEFINITION. Position channels, local incremental inputs, serial ports, speed, index events and pulse dividers
(R189 to R213). The belt channel's edges also feed the chainage of Chain.lean, which holds the commands in which the
two meet. -/

namespace Sys2Proof.Machine

/-! ## Access to the channels, inputs and dividers -/

/-- A channel after re-initialisation. -/
def Chan.init : Chan :=
  { pos := 0, cnt := 0, rev := 0, net := 0, started := false, last := 0, lastPound := 0, carry := 0, availP := none,
    availT := 0, sampT := 0, dir := none, wNet := 0, wCarry := 0, wAge := 255, spdAge := 255, edges := 0, good := 0,
    mixed := false,
    first := none, latest := none, revAt := none, cRun := 0, cT1 := none, cT2 := none, idx := none }

/-- Channel ch. -/
def Chip.chan (c : Chip) (ch : Nat) : Chan := tabGet (fun _ => Chan.init) c.pf.chan ch

/-- The chip with a channel replaced. -/
def Chip.setChan (c : Chip) (ch : Nat) (x : Chan) : Chip :=
  { c with pf := { c.pf with chan := tabPut (fun _ => Chan.init) ch x c.pf.chan } }

/-- The source type of a channel (R189). -/
def Chip.chType (c : Chip) (ch : Nat) : Nat := c.fld (POS_CH_CFG__TYPE ch)

/-- MOD of a channel (R192). -/
def Chip.chMod (c : Chip) (ch : Nat) : Nat := max (c.fld (POS_CH_MOD__MOD ch)) 1

/-- A divider as it stands before it is enabled. -/
def Divider.init : Divider := ⟨0, 0, 0, none⟩

/-- Divider d. -/
def Chip.pd (c : Chip) (d : Nat) : Divider := tabGet (fun _ => Divider.init) c.pf.pd d

/-- The chip with a divider replaced. -/
def Chip.setPd (c : Chip) (d : Nat) (x : Divider) : Chip :=
  { c with pf := { c.pf with pd := tabPut (fun _ => Divider.init) d x c.pf.pd } }

/-- The register at `off` is word `i` of an indexed set. -/
def inSet (base stride count off : Nat) : Option Nat :=
  if base ≤ off ∧ off < base + stride * count ∧ (off - base) % stride = 0 then some ((off - base) / stride) else none

/-! ## Pulse dividers (R209 to R212) -/

/-- Steps of a divider: the residue and backlog after the steps that fit |B| ≤ 65,535, and the number dropped (R209,
R210). Once a step does not fit, no later step of the same tick and direction fits. -/
def Divider.steps (x : Divider) (n m : Nat) (k : Nat) (up : Bool) : Divider × Nat :=
  let n := max n 1
  let m := max m 1
  if up then
    let fit := (((65535 - x.b + 1) * (m : Int) - 1 - x.r) / (n : Int)).toNat
    let j := min k fit
    ({ x with r := (x.r + j * n) % m, b := x.b + ((x.r + j * n) / m : Nat) }, k - j)
  else
    let fit := (((x.r : Int) + (65535 + x.b) * (m : Int)) / (n : Int)).toNat
    let j := min k fit
    let v : Int := (x.r : Int) - (j * n : Nat)
    ({ x with r := (v % (m : Int)).toNat, b := x.b + v / (m : Int) }, k - j)

/-- A divider takes `k` steps (R209, R210). -/
def Chip.pdSteps (c : Chip) (d k : Nat) (up : Bool) : Chip :=
  let r := (c.pd d).steps (c.fld (POS_PD_RATIO__N d)) (c.fld (POS_PD_RATIO__M d)) k up
  let c := c.setPd d r.1
  if r.2 = 0 then c
  else ((c.count ⟨POS_PD_LOST d, 31, 0⟩ r.2).raise (POS_PD_STAT__LOST d)).raise POS_INT_STATUS__PD_LOST

/-- The enabled dividers fed by position channel ch take `k` steps. -/
def Chip.pdChan (c : Chip) (ch k : Nat) (up : Bool) : Chip :=
  c.each (List.range 8) (fun c d =>
    if c.flag (POS_PD_CFG__EN d) && !c.flag (POS_PD_CFG__SRC_CHN d) && c.fld (POS_PD_CFG__CH d) == ch
    then c.pdSteps d k up else c)

/-- The levels A, B and Z of a divider (R210, R211). -/
def Chip.pdLines (c : Chip) (d : Nat) : Bool × Bool × Bool :=
  let o := (c.pd d).o
  let z := c.fld (POS_PD_CFG__ZSH d)
  (o % 4 == 1 || o % 4 == 2, o % 4 == 2 || o % 4 == 3, z != 0 && o % 2 ^ z == 0)

/-- The device drives a divider's outputs (R212). -/
def Chip.pdDriving (c : Chip) (d : Nat) : Bool := c.flag (POS_PD_CFG__EN d) && c.drives

/-- The divider's lines take the state of O; a device that does not drive them leaves them in high impedance. -/
def Chip.pdShow (c : Chip) (d : Nat) : Chip :=
  if c.pdDriving d then
    let l := c.pdLines d
    ((c.emit (.pin pinPDA d l.1)).emit (.pin pinPDB d l.2.1)).emit (.pin pinPDZ d l.2.2)
  else c

/-- Sets a divider's output count with residue and backlog 0; the lines follow without an edge being counted (R211). -/
def Chip.pdSet (c : Chip) (d o : Nat) : Chip := (c.setPd d { c.pd d with r := 0, b := 0, o := o % 2 ^ 48 }).pdShow d

/-- Every chainage-fed divider re-initialised (R211). -/
def Chip.pdChainSet (c : Chip) (o : Nat) : Chip :=
  c.each (List.range 8) (fun c d =>
    if c.flag (POS_PD_CFG__EN d) && c.flag (POS_PD_CFG__SRC_CHN d) then c.pdSet d o else c)

/-- An output edge of a divider, once GAP ticks have passed since the last (R210). -/
def Chip.pdEdge (c : Chip) (d : Nat) : Chip :=
  let x := c.pd d
  let gap := max (c.fld (POS_PD_CFG__GAP d)) 80
  let ok := match x.lastT with
    | some t => decide (t + gap ≤ c.now)
    | none => true
  if c.flag (POS_PD_CFG__EN d) && decide (x.b ≠ 0) && ok then
    let o := if 0 < x.b then x.o + 1 else x.o + 2 ^ 48 - 1
    (c.setPd d { x with b := (if 0 < x.b then x.b - 1 else x.b + 1), o := o % 2 ^ 48, lastT := some c.now }).pdShow d
  else c

/-- A divider emits an edge (R210). -/
def execPdOutputEdge (t : Nat) (d : Fin 8) (s : State) : Host.Outcome State Fault Refusal :=
  s.event t (fun c => c.pdEdge d.val)

/-! ## Counted steps (R192, R207) -/

/-- A reversal: REV_SEEN, the channel's bit of POS_DIR_PEND and DIR_CHG (R207). -/
def Chip.reversal (c : Chip) (ch : Nat) : Chip :=
  ((c.raise (POS_CH_STAT__REV_SEEN ch)).raiseBit (POS_DIR_PEND (ch / 32)) (ch % 32)).raise POS_INT_STATUS__DIR_CHG

/-- The counts after `d` steps (R192). -/
def Chan.move (x : Chan) (d : Int) (m : Nat) : Chan :=
  let v : Int := (x.cnt : Int) + d
  { x with
    pos := unsigned 48 ((x.pos : Int) + d)
    cnt := (v % (m : Int)).toNat
    rev := unsigned 32 ((x.rev : Int) + v / (m : Int))
    net := x.net + d }

/-- The speed window's record of a stamped edge: the count after it and its stamp (R205). -/
def Chan.stampEdge (x : Chan) (t : Nat) : Chan :=
  { x with
    first := (match x.first with
      | some e => some e
      | none => some (x.net, t))
    latest := some (x.net, t)
    cT1 := x.cT2
    cT2 := some t }

/-- `d` steps counted in one tick, with `edges` edges of which the last is stamped `t` (R192, R205, R207, R208). A
reversal restarts the window when RESTART_REV is set. The channel-fed dividers take the steps. -/
def Chip.chanSteps (c : Chip) (ch : Nat) (d : Int) (edges : Nat) (t : Nat) (stamped : Bool) : Chip :=
  let x := c.chan ch
  let x := x.move d (c.chMod ch)
  let up := decide (0 < d)
  let rev := decide (d ≠ 0) && (match x.dir with
    | some old => old != up
    | none => false)
  let x := if d = 0 then x else { x with dir := some up }
  let x := if rev then
      let x := { x with revAt := some (x.net, t), cRun := 0, cT1 := none, cT2 := none }
      if c.flag (POS_CH_CFG__RESTART_REV ch) then
        { x with edges := 0, good := 0, mixed := false, first := none, latest := none } else x
    else x
  let after := if rev && c.flag (POS_CH_CFG__RESTART_REV ch) then edges - 1 else edges
  let x := { x with edges := x.edges + after, cRun := x.cRun + edges,
                    mixed := x.mixed || decide (edges ≠ d.natAbs) }
  let x := if stamped && !(rev && c.flag (POS_CH_CFG__RESTART_REV ch)) then x.stampEdge t
    else if stamped then { x with cT2 := some t } else x
  let c := c.setChan ch x
  let c := if rev then c.reversal ch else c
  if d = 0 then c else c.pdChan ch d.natAbs up

/-- A direction applied under INV_DIR. -/
def Chip.invDir (c : Chip) (ch : Nat) (d : Int) : Int := if c.flag (POS_CH_CFG__INV_DIR ch) then -d else d

/-! ## Local incremental inputs (R193 to R195) -/

/-- An ABZ input whose levels are low and none was accepted yet. -/
def Abz.init : Abz := ⟨false, false, false, none, none, none⟩

/-- ABZ input k. -/
def Chip.abz (c : Chip) (k : Nat) : Abz := tabGet (fun _ => Abz.init) c.pf.abz k

/-- One line of an input at tick `now`: a changed level is accepted once it can have been stable for FILT + 1 ticks since the
old one was; one that comes sooner the filter does not pass, and the line keeps its level (R193). -/
def abzLine (filt now : Nat) (old new : Bool) (t : Option Nat) : Bool × Option Nat :=
  if new = old ∨ (match t with | some t0 => decide (now < t0 + filt + 1) | none => false) = true then (old, t)
  else (new, some now)

/-- The levels that input k accepts of those given (R193). -/
def Chip.abzTake (c : Chip) (k : Nat) (a b z : Bool) : Abz :=
  let old := c.abz k
  let filt := c.fld (POS_ABZ_CFG__FILT k)
  let la := abzLine filt c.now old.a a old.tA
  let lb := abzLine filt c.now old.b b old.tB
  let lz := abzLine filt c.now old.z z old.tZ
  ⟨la.1, lb.1, lz.1, la.2, lb.2, lz.2⟩

/-- The quadrature state's place in the cycle: A leads B when counting up (R193, R210). -/
def quadPlace (a b : Bool) : Nat := if a then (if b then 2 else 1) else (if b then 3 else 0)

/-- What an accepted change of A and B counts under DECODE: a step, or a double change (R193, R195). -/
def abzDecode (mode : Nat) (old : Abz) (a b : Bool) : Option Int :=
  let rise := a && !old.a
  match mode with
  | 0 =>
    if a != old.a && b != old.b then none
    else if a == old.a && b == old.b then some 0
    else if (quadPlace old.a old.b + 1) % 4 = quadPlace a b then some 1 else some (-1)
  | 1 => if a == old.a then some 0 else if a != b then some 1 else some (-1)
  | 2 => if rise then (if b then some (-1) else some 1) else some 0
  | _ => if rise then (if b then some (-1) else some 1) else some 0

/-- The channels fed by ABZ input k. -/
def Chip.abzChans (c : Chip) (k : Nat) : List Nat :=
  (List.range 256).filter (fun ch => c.chType ch == 1 && c.fld (POS_CH_CFG__SRCIDX ch) == k)

/-- A counting or reading error of a channel: ERR_CNT and its bit of POS_ERR_PEND. -/
def Chip.chanErr (c : Chip) (ch : Nat) (f : Fld) : Chip :=
  ((c.raise f).raiseBit (POS_ERR_PEND (ch / 32)) (ch % 32)).count (POS_CH_ERR__ERR_CNT ch) 1

/-- A quadrature double change on a channel (R195). -/
def Chip.quadErr (c : Chip) (ch : Nat) : Chip :=
  (c.chanErr ch (POS_CH_STAT__QUAD_ERR ch)).raise POS_INT_STATUS__QUAD_ERR

/-- One channel takes the accepted levels of its input: the edge is counted, then an index edge is latched with the
count after the tick (R193, R195, R201). -/
def Chip.abzChan (c : Chip) (ch : Nat) (mode : Nat) (old : Abz) (a b z : Bool) : Chip :=
  let c := match abzDecode mode old a b with
    | none => c.quadErr ch
    | some d => if d = 0 then c else c.chanSteps ch (c.invDir ch d) 1 c.now true
  if z && !old.z && (!c.flag (POS_CH_CFG__IDX_GATE ch) || (a && b)) then
    let x := c.chan ch
    c.setChan ch { x with idx := some (x.cnt, x.pos, c.now) }
  else c

/-! ## Samples and speed (R190, R204 to R208) -/

/-- S clamped to 32 bits, with SPD_CLAMP when the clamp acts (R204). -/
def Chip.clampSpeed (c : Chip) (ch : Nat) (v : Int) : Chip × Int :=
  let w := clampI (-2147483648) 2147483647 v
  (if w = v then c else c.raise (POS_CH_STAT__SPD_CLAMP ch), w)

/-- A quotient rounded to the nearest integer, ties to even, for a divisor of either sign; the spec states no value for
a divisor of 0, which gives a free value (log entry 20). -/
def Chip.rquot (c : Chip) (a b : Int) : Chip × Int :=
  if b = 0 then let r := c.freeWord; (r.1, signed 32 r.2.toNat)
  else if 0 < b then (c, rdivEven a b.toNat) else (c, rdivEven (-a) (-b).toNat)

/-- Writes a new speed word with its flags (R204, R206). -/
def Chip.putSpeed (c : Chip) (ch : Nat) (s : Int) (still : Bool) (conf : Nat) : Chip :=
  let r := c.clampSpeed ch s
  let c := r.1.setFldI ⟨POS_CH_SPD ch, 31, 0⟩ r.2
  ((c.setFlag (POS_CH_STAT__STANDSTILL ch) still).setFld (POS_CH_STAT__SPD_VALID ch) 1).setFld
    (POS_CH_STAT__CONF ch) (min conf 255)

/-- The refined speed of R205, from the window's first and last stamped edges. -/
def Chip.refined (c : Chip) (x : Chan) : Option (Int × Int) :=
  match x.first, x.latest with
  | some f, some l =>
    if f.2 = l.2 then none else some ((l.1 - f.1) * 65536 * (c.P : Int), (l.2 : Int) - (f.2 : Int))
  | _, _ => none

/-- The end of a native speed window at the sample just taken; t_s is its sample instant. Type 2 counts its good readings in
CONF (R204 to R207). -/
def Chip.windowEnd (c : Chip) (ch : Nat) : Chip :=
  let x := c.chan ch
  let D := (x.carry + 2 ^ 32 - x.wCarry) % 2 ^ 32
  let age := c.fld (POS_CH_STAT__AGE ch)
  if D = 0 then c.setChan ch { x with spdAge := max age x.wAge }
  else
    let restart := c.flag (POS_CH_CFG__RESTART_REV ch)
    let refine := c.flag (POS_CH_CFG__REFINE ch) && decide (c.chType ch = 1 ∨ c.chType ch = 3)
      && decide (2 ≤ x.edges) && !x.mixed
    let r : Chip × Int :=
      match x.revAt with
      | some e =>
        if restart then
          match (if refine then c.refined x else none) with
          | some q => c.rquot q.1 q.2
          | none => c.rquot ((x.net - e.1) * 65536 * (c.P : Int)) ((x.sampT : Int) - (e.2 : Int))
        else c.rquot ((x.net - x.wNet) * 65536) (D : Int)
      | none =>
        match (if refine then c.refined x else none) with
        | some q => c.rquot q.1 q.2
        | none => c.rquot ((x.net - x.wNet) * 65536) (D : Int)
    let none_ := decide (x.edges = 0) && x.revAt.isNone
    let c := r.1.putSpeed ch (if none_ then 0 else r.2) none_ (if c.chType ch = 2 then x.good else x.edges)
    c.setChan ch { x with
      wNet := x.net, wCarry := x.carry, wAge := age, spdAge := max age x.wAge
      edges := 0, good := 0, mixed := false, first := none, latest := none, revAt := none }

/-- The compatibility speed at a sample, t_s being its sample instant (R208). -/
def Chip.compatSpeed (c : Chip) (ch : Nat) : Chip :=
  let x := c.chan ch
  let still := match x.cT2 with
    | some t2 => decide (max (c.fld (POS_CH_IDX__STILL_P ch)) 1 * c.P < x.sampT - t2)
    | none => true
  let x := if still then { x with cRun := 0, cT1 := none } else x
  let q : Int := match x.cT1, x.cT2 with
    | some t1, some t2 =>
      if 2 ≤ x.cRun ∧ still = false ∧ t1 < t2 then
        let m := rdivEven (65536 * (c.P : Int)) (max (t2 - t1) (x.sampT - t2))
        if x.dir = some false then -m else m
      else 0
    | _, _ => 0
  ((c.setChan ch x).putSpeed ch q still x.cRun)

/-- The per-pound sample of a channel becomes available: with a new value its age returns to 0, without one it is aged;
the registers show it, and the speed is updated where a window ends (R190, R204, R208). `availT` is the tick from which it
is available, `sampT` its sample instant. -/
def Chip.chanSample (c : Chip) (ch : Nat) (new : Bool) (availT sampT : Nat) : Chip :=
  let x := c.chan ch
  let n := c.poundNum
  let age := c.fld (POS_CH_STAT__AGE ch)
  let c := c.setFld (POS_CH_STAT__AGE ch) (if new then 0 else min (age + 1) 255)
  let x := { x with carry := (if new then n else x.carry), availP := some n, availT := availT, sampT := sampT,
                    started := x.started || new }
  let c := c.setChan ch x
  let c := (((c.setReg (POS_CH_POS_LO ch) x.pos).setReg (POS_CH_POS_HI ch) (x.pos / 2 ^ 32)).setReg
    (POS_CH_CNT ch) x.cnt).setReg (POS_CH_REV ch) x.rev
  let c := c.setFlag (POS_CH_STAT__DIR ch) (x.dir == some false)
  if c.flag (POS_CH_CFG__SPD_MODE ch) && decide (c.chType ch = 1 ∨ c.chType ch = 3) then c.compatSpeed ch
  else if n % 2 ^ c.fld (POS_CH_CFG__SPD_WIN ch) = 0 then c.windowEnd ch
  else c

/-- The sample of a type 1 channel at tick SMP_PHASE of the pound, once a pound; it is available in the next tick
(R190). -/
def Chip.localSample (c : Chip) (ch : Nat) : Chip :=
  if c.chType ch = 1 ∧ c.phase = c.fld (POS_CH_SMP__SMP_PHASE ch) ∧ (c.chan ch).availP ≠ some c.poundNum then
    c.chanSample ch true (c.now + 1) c.now
  else c

/-- A local channel's per-pound sample (R190). -/
def execChannelSample (t : Nat) (ch : Fin 256) (s : State) : Host.Outcome State Fault Refusal :=
  s.event t (fun c => c.localSample ch.val)

/-- The first good value of a channel: POS, CNT and REV are set and no steps are counted (R198, R199). `v` is the value
read as an integer. -/
def Chip.chanStart (c : Chip) (ch : Nat) (v : Int) : Chip :=
  let x := c.chan ch
  let m : Int := (c.chMod ch : Nat)
  c.setChan ch { x with pos := unsigned 48 v, cnt := (v % m).toNat, rev := unsigned 32 (v / m), started := true }

/-- At a pound boundary, while the ended pound still counts: every channel of type 1 to 3 that had no sample in it has its
sample without a new value (R190). -/
def Chip.ageChans (c : Chip) (ended : Nat) : Chip :=
  c.each (List.range 256) (fun c ch =>
    let ty := c.chType ch
    if 1 ≤ ty ∧ ty ≤ 3 ∧ (c.chan ch).availP ≠ some ended then c.chanSample ch false c.now c.now else c)

/-- The sample of a type 4 channel at a pound boundary from C(n) (R200). -/
def Chip.virtualSample (c : Chip) (ch cn inc : Nat) (active : Bool) : Chip :=
  let w := cn / 2 ^ 16 % 2 ^ 48
  let x := c.chan ch
  let inv := c.flag (POS_CH_CFG__INV_DIR ch)
  let c :=
    if x.started then
      let d := c.invDir ch (modDiff 48 w x.last)
      (c.setChan ch { x with last := w }).chanSteps ch d d.natAbs c.now false
    else
      let p : Nat := if inv then (2 ^ 48 - w) % 2 ^ 48 else w
      (c.chanStart ch (p : Int)).setChan ch { (c.chanStart ch (p : Int)).chan ch with last := w }
  let x := c.chan ch
  let c := c.setChan ch { x with availP := some c.poundNum, availT := c.now, carry := c.poundNum,
                                 sampT := c.now, edges := 0, good := 0, mixed := false, revAt := none }
  let c := (((c.setReg (POS_CH_POS_LO ch) x.pos).setReg (POS_CH_POS_HI ch) (x.pos / 2 ^ 32)).setReg
    (POS_CH_CNT ch) x.cnt).setReg (POS_CH_REV ch) x.rev
  let c := (c.setFlag (POS_CH_STAT__DIR ch) (x.dir == some false)).setFld (POS_CH_STAT__AGE ch) (if active then 0 else 255)
  let sp := rdivEven ((inc * c.P : Nat) : Int) 65536
  let r := c.clampSpeed ch (if inv then -sp else sp)
  let c := r.1.setFldI ⟨POS_CH_SPD ch, 31, 0⟩ r.2
  ((c.setFlag (POS_CH_STAT__STANDSTILL ch) (r.2 == 0)).setFlag (POS_CH_STAT__SPD_VALID ch) active).setFld
    (POS_CH_STAT__CONF ch) 0

/-- All type 4 channels at a boundary. -/
def Chip.virtualSamples (c : Chip) (cn inc : Nat) (active : Bool) : Chip :=
  c.each (List.range 256) (fun c ch => if c.chType ch = 4 then c.virtualSample ch cn inc active else c)

/-! ## Serial ports (R197, R198) -/

/-- The start tick of a transfer in progress on port p. -/
def Chip.ser (c : Chip) (p : Nat) : Option Nat := tabGet (fun _ => none) c.pf.ser p

/-- The chip with a port's transfer replaced. -/
def Chip.setSer (c : Chip) (p : Nat) (x : Option Nat) : Chip :=
  { c with pf := { c.pf with ser := tabPut (fun _ => none) p x c.pf.ser } }

/-- The channels that read serial port p, lowest first. -/
def Chip.serChans (c : Chip) (p : Nat) : List Nat :=
  (List.range 256).filter (fun ch => c.chType ch == 2 && c.fld (POS_CH_CFG__SRCIDX ch) == p)

/-- A transfer starts at SMP_PHASE of the lowest-numbered channel that reads the port; a standby runs none (R197,
R445). -/
def Chip.serStart (c : Chip) (p : Nat) : Chip :=
  match c.serChans p with
  | [] => c
  | ch :: _ =>
    if c.fld (POS_SER_CFG__PROTO p) ≠ 0 ∧ c.phase = c.fld (POS_CH_SMP__SMP_PHASE ch) ∧ c.role ≠ 2 then
      c.setSer p (some c.now)
    else c

/-- A serial port starts its transfer (R197). -/
def execSerialTransferStart (t : Nat) (p : Fin 16) (s : State) : Host.Outcome State Fault Refusal :=
  s.event t (fun c => c.serStart p.val)

/-- Gray decoding of an n-bit word. -/
def grayDecode (n w : Nat) : Nat :=
  ((List.range n).foldl (fun (acc : Nat × Bool) i =>
    let b := xor acc.2 (w.testBit (n - 1 - i))
    (acc.1 * 2 + b2n b, b)) (0, false)).1

/-- A CRC of `len` bits over bits sent first to last, from 0 (R197). -/
def serCrc (len poly : Nat) (bs : List Bool) : Nat :=
  bs.foldl (fun r b =>
    let top := xor (r.testBit (len - 1)) b
    let r := r * 2 % 2 ^ len
    if top then r ^^^ (poly % 2 ^ len) else r) 0

/-- Bits of a word, most significant first. -/
def msbBits (n w : Nat) : List Bool := (List.range n).map (fun i => w.testBit (n - 1 - i))

/-- The check of R198 steps 2 to 4 on a transfer. -/
def Chip.serGood (c : Chip) (p : Nat) (r : SerialReading) : Bool :=
  let n := c.fld (POS_SER_CFG__NBITS p)
  if c.fld (POS_SER_CFG__PROTO p) = 2 then
    let nw := c.fld (POS_SER_CFG2__NEW p)
    let len := c.fld (POS_SER_CFG__CRCLEN p)
    let data := msbBits n r.word ++ (if 1 ≤ nw then [r.errBit] else []) ++ (if 2 ≤ nw then [r.warnBit] else [])
    (len == 0 || decide (r.crc % 2 ^ len = 2 ^ len - 1 - serCrc len (c.fld (POS_SER_CFG2__CRC_POLY p)) data))
      && (nw == 0 || r.errBit)
  else
    let par (w : Nat) (q : Bool) : Bool := !((msbBits n w).foldl xor q)
    (!c.flag (POS_SER_CFG__PAR p) || par r.word r.par)
      && (!c.flag (POS_SER_CFG__DBL p) || (decide (r.word % 2 ^ n = r.word2 % 2 ^ n)
            && (!c.flag (POS_SER_CFG__PAR p) || r.par == r.par2)))

/-- The tick at which a transfer that started at `t0` times out (R198). -/
def Chip.serLimit (c : Chip) (p t0 : Nat) : Nat :=
  let tmo := c.fld (POS_SER_CFG2__SER_TMO p)
  let e := if t0 < c.pnd.start then c.pnd.start else c.pnd.start + c.poundLen
  if tmo = 0 then e else min (t0 + tmo * 80) e

/-- A reading of the transfer started at `t0` discarded on a channel with flag `f`: the sample is aged, and available from
the transfer's limit (R190, R198). -/
def Chip.serFail (c : Chip) (p t0 ch : Nat) (f : Fld) : Chip :=
  ((c.chanErr ch f).raise POS_INT_STATUS__SER_ERR).chanSample ch false (c.serLimit p t0) t0

/-- A checked reading of the transfer started at `t0` is applied to one channel: the jump check, then the first value or the
change (R198). DEDUCED: the steps of a type 2 reading are stamped with its sample instant (log entry 119). -/
def Chip.serApply (c : Chip) (p t0 ch a : Nat) : Chip :=
  let x := c.chan ch
  let n := c.fld (POS_SER_CFG__NBITS p)
  let pn := c.poundNum
  if x.started then
    let d := modDiff n a x.last
    let gap := (pn + 2 ^ 32 - x.lastPound) % 2 ^ 32
    let lim := c.reg (POS_SER_JUMP p)
    if lim ≠ 0 ∧ lim * gap < d.natAbs then
      c.serFail p t0 ch (POS_CH_STAT__SER_JUMP ch)
    else
      let c := c.setChan ch { x with last := a, lastPound := pn, good := x.good + 1 }
      let d := c.invDir ch d
      (c.chanSteps ch d d.natAbs t0 false).chanSample ch true c.now t0
  else
    let c := c.chanStart ch (a : Int)
    let y := c.chan ch
    (c.setChan ch { y with last := a, lastPound := pn, good := y.good + 1 }).chanSample ch true c.now t0

/-- A completed transfer is checked and applied to every channel that reads the port (R198). -/
def Chip.serCheck (c : Chip) (p : Nat) (r : SerialReading) : Chip :=
  match c.ser p with
  | none => c
  | some t0 =>
    let c := c.setSer p none
    let n := c.fld (POS_SER_CFG__NBITS p)
    let late := decide (c.serLimit p t0 < c.now)
    let raw := r.word % 2 ^ n
    let a := if c.fld (POS_SER_CFG__PROTO p) = 1 ∧ c.flag (POS_SER_CFG__GRAY p) then grayDecode n raw else raw
    let warn := c.fld (POS_SER_CFG__PROTO p) == 2 && decide (2 ≤ c.fld (POS_SER_CFG2__NEW p)) && !r.warnBit
    c.each (c.serChans p) (fun c ch =>
      if late || !c.serGood p r then c.serFail p t0 ch (POS_CH_STAT__SER_ERR ch)
      else
        let c := if warn then c.raise (POS_CH_STAT__SER_WARN ch) else c
        c.serApply p t0 ch a)

/-- A transfer that has not completed by its limit fails (R198). -/
def Chip.serTimeout (c : Chip) (p : Nat) : Chip :=
  match c.ser p with
  | none => c
  | some t0 =>
    if c.serLimit p t0 ≤ c.now then 
      (c.setSer p none).each (c.serChans p) (fun c ch => c.serFail p t0 ch (POS_CH_STAT__SER_ERR ch))
    else c

/-- A serial transfer times out (R198). -/
def execSerialTimeout (t : Nat) (p : Fin 16) (s : State) : Host.Outcome State Fault Refusal :=
  s.event t (fun c => c.serTimeout p.val)

/-! ## Index (R201 to R203) -/

/-- d of an index event at count c (R201). -/
def idxD (cnt m : Nat) : Int := if 2 * cnt < m then (cnt : Int) else (cnt : Int) - (m : Int)

/-- A reset by the index: the counts are corrected by −d, or zeroed, and steps counted after the index are kept
(R203). -/
def Chip.idxReset (c : Chip) (ch : Nat) (d : Int) (posAt : Nat) : Chip :=
  let x := c.chan ch
  let m : Int := (c.chMod ch : Nat)
  let since := modDiff 48 x.pos posAt
  let v : Int := if c.flag (POS_CH_CFG__IDX_ZERO ch) then since else (x.rev : Int) * m + (x.cnt : Int) - d
  let pos : Int := if c.flag (POS_CH_CFG__IDX_ZERO ch) then since else (x.pos : Int) - d
  (c.setChan ch { x with pos := unsigned 48 pos, cnt := (v % m).toNat, rev := unsigned 32 (v / m) }).raise
    (POS_CH_STAT__IDX_RESET ch)

/-- The check of IDX_MODE 0 (R202). -/
def Chip.idxCheck (c : Chip) (ch cnt : Nat) (d : Int) : Chip :=
  if c.fld (POS_CH_IDX__IDX_TOL ch) < d.natAbs then
    let c := (c.raise (POS_CH_STAT__INDEX_MISMATCH ch)).raiseBit (POS_ERR_PEND (ch / 32)) (ch % 32)
    let c := (c.raise POS_INT_STATUS__INDEX_MISMATCH).count (POS_CH_ERR__IDX_MIS_CNT ch) 1
    c.logEvent 8 (w32 ch) (w32i d) (w32 cnt)
  else c

/-- An index event is evaluated: c and d are latched and the action of IDX_MODE is taken (R201 to R203). The channel
of chainage, while chainage is enabled, is never reset. -/
def Chip.idxEvent (c : Chip) (ch cnt posAt : Nat) : Chip :=
  let d := idxD cnt (c.chMod ch)
  let c := (c.setFld (POS_CH_IDXLAT__LAST_C ch) (min cnt 32767)).setFldI (POS_CH_IDXLAT__LAST_D ch)
    (clampI (-32767) 32767 d)
  let may := c.dryOrMoored && !(c.flag POS_CHN_CFG__EN && c.fld POS_CHN_CFG__SRC == ch)
  match c.fld (POS_CH_CFG__IDX_MODE ch) with
  | 0 => c.idxCheck ch cnt d
  | 1 => if may then c.idxReset ch d posAt else c.idxCheck ch cnt d
  | 2 =>
    if may && c.flag (POS_CH_STAT__ARMED ch) then (c.idxReset ch d posAt).setFld (POS_CH_STAT__ARMED ch) 0
    else c.idxCheck ch cnt d
  | _ => c

/-! ## Configuration writes (R191, R202, R211) -/

/-- A write of this chapter is ignored. -/
def Chip.posRej (c : Chip) : Chip := c.raise POS_STATUS__CFG_REJ

/-- Re-initialisation of a channel (R191). -/
def Chip.chanReinit (c : Chip) (ch : Nat) : Chip :=
  let c := c.setChan ch { Chan.init with wCarry := c.poundNum, carry := c.poundNum }
  let c := (((c.setReg (POS_CH_POS_LO ch) 0).setReg (POS_CH_POS_HI ch) 0).setReg (POS_CH_CNT ch) 0).setReg (POS_CH_REV ch) 0
  let c := ((c.setReg (POS_CH_SPD ch) 0).setFld (POS_CH_STAT__AGE ch) 255).setFld (POS_CH_STAT__CONF ch) 0
  ((c.setFld (POS_CH_STAT__STANDSTILL ch) 1).setFld (POS_CH_STAT__SPD_VALID ch) 0).setFld (POS_CH_STAT__DIR ch) 0

/-- The clock of a serial port is in its protocol's range (R197). -/
def serClockOk (v : Nat) : Bool :=
  let d := bits v 15 4 + 1
  match bits v 31 30 with
  | 1 => decide (200 ≤ d ∧ d ≤ 4000)
  | 2 => decide (40 ≤ d ∧ d ≤ 4000)
  | _ => true

/-- A write of a channel, input, serial or divider register that this chapter gives rules of its own; `none` for any
other register. -/
def Chip.posWrite (c : Chip) (off v : Nat) : Option Chip :=
  let gate (ok : Bool) (f : Chip → Chip) : Option Chip := some (if c.dryOrMoored && ok then f c else c.posRej)
  let plain (c : Chip) : Chip := c.writeBits off v
  match inSet (POS_CH_CFG 0) 4 256 off with
  | some ch => gate (decide (bits v 31 29 ≤ 4 ∧ bits v 22 20 ≤ 6)) (fun c =>
      let old := c.reg off
      let c := plain c
      if bits old 31 24 = bits v 31 24 then c else c.chanReinit ch)
  | none =>
  match inSet (POS_CH_MOD 0) 4 256 off with
  | some ch => gate (decide (1 ≤ bits v 16 0 ∧ bits v 16 0 ≤ 65536)) (fun c =>
      let old := c.chMod ch
      let c := plain c
      if old = c.chMod ch then c else c.chanReinit ch)
  | none =>
  match inSet (POS_CH_IDX 0) 4 256 off with
  | some _ => gate true plain
  | none =>
  match inSet (POS_CH_SMP 0) 4 256 off with
  | some _ => gate (decide (bits v 17 0 < c.P)) plain
  | none =>
  match inSet (POS_CH_CTL 0) 4 256 off with
  | some ch =>
    if v.testBit 0 then
      gate true (fun c => if c.fld (POS_CH_CFG__IDX_MODE ch) = 2 then c.setFld (POS_CH_STAT__ARMED ch) 1 else c)
    else some c
  | none =>
  match inSet (POS_ABZ_CFG 0) 4 32 off with
  | some _ => gate true plain
  | none =>
  match inSet (POS_SER_CFG 0) 4 16 off with
  | some _ => gate (decide (bits v 31 30 ≠ 3) && serClockOk v) plain
  | none =>
  if (inSet (POS_SER_CFG2 0) 4 16 off).isSome ∨ (inSet (POS_SER_JUMP 0) 4 16 off).isSome then gate true plain
  else
  match inSet (POS_PD_CFG 0) 4 8 off with
  | some d => gate (decide (bits v 4 0 ≠ 1 ∧ bits v 4 0 ≤ 24)) (fun c =>
      let was := c.flag (POS_PD_CFG__EN d)
      let c := plain c
      if was = false ∧ c.flag (POS_PD_CFG__EN d) then
        c.pdSet d (if c.flag (POS_PD_CFG__SRC_CHN d) then c.tb5 / 2 ^ 16 else 0)
      else c.pdShow d)
  | none =>
  match inSet (POS_PD_RATIO 0) 4 8 off with
  | some _ => gate (decide (bits v 31 16 ≠ 0 ∧ bits v 15 0 ≠ 0)) plain
  | none => if (inSet (POS_PD_STAT 0) 4 8 off).isSome || (inSet (POS_PD_LOST 0) 4 8 off).isSome then gate true plain else none

/-- A write of a channel's configuration (R191). -/
def execPosChCfgWrite (t : Nat) (ifc : Iface) (off : Nat) (v : Word) (s : State) : Host.Outcome State Fault Refusal :=
  s.access t ifc (fun c => (c.posWrite off v.toNat).getD c)

/-- A write of IDX_ARM (R202). -/
def execIdxArm (t : Nat) (ifc : Iface) (ch : Fin 256) (s : State) : Host.Outcome State Fault Refusal :=
  s.access t ifc (fun c => (c.posWrite (POS_CH_CTL ch.val) 1).getD c)

/-- A write of POS_PD_CFG_d (R211). -/
def execPosPdCfgWrite (t : Nat) (ifc : Iface) (d : Fin 8) (v : Word) (s : State) : Host.Outcome State Fault Refusal :=
  s.access t ifc (fun c => (c.posWrite (POS_PD_CFG d.val) v.toNat).getD c)

end Sys2Proof.Machine
end

