-- ==== Sys2Proof/Machine/Chain.lean ====
section
/-! DEFINITION. The chainage interpolator: anchors, standstill, reversal, alignment and index checks, and the commands
in which a belt channel's edges reach it (R94 to R102, R193, R201, R209). -/

namespace Sys2Proof.Machine

/-- The chip with the interpolator replaced. -/
def Chip.setChain (c : Chip) (x : Chain) : Chip := { c with pf := { c.pf with chain := x } }

/-- The belt channel (R94). -/
def Chip.belt (c : Chip) : Nat := c.fld POS_CHN_CFG__SRC

/-- E at a channel position: the position, or its negation modulo 2⁴⁸ with DIR (R94). -/
def Chip.edgeCount (c : Chip) (pos : Nat) : Nat :=
  if c.flag POS_CHN_CFG__DIR then (2 ^ 48 - pos % 2 ^ 48) % 2 ^ 48 else pos % 2 ^ 48

/-- Ê at a channel position (R94). -/
def Chip.eHat (c : Chip) (pos : Nat) : Nat := (c.edgeCount pos + c.pf.chain.ofs) % 2 ^ 48

/-- Anchors kept: SPAN + 1 (R95). -/
def Chip.spanKeep (c : Chip) : Nat := 2 ^ c.fld POS_CHN_CFG__SPAN + 1

/-- INC from the anchors kept, newest first (R95). -/
def incOf (old : Nat) (hist : List (Nat × Nat)) : Nat :=
  match hist, hist.getLast? with
  | new :: _ :: _, some first =>
    let dc := (new.1 + 2 ^ 48 - first.1) % 2 ^ 48
    let dt := new.2 - first.2
    if dt = 0 then old else min (dc * 2 ^ 32 / dt) (2 ^ 32 - 1)
  | _, _ => 0

/-- The accumulator brought to now, so that INC or H may change. -/
def Chip.chainNow (c : Chip) : Chip := c.setChain { c.pf.chain with acc := c.accNow, accT := c.now }

/-- An anchor: Ê is a new high-water count, with the edge's stamp t (R94 to R97). -/
def Chip.anchor (c : Chip) (e t : Nat) : Chip :=
  let c := c.chainNow
  let x := c.pf.chain
  let hist := ((e, t) :: x.hist).take c.spanKeep
  let inc := incOf (c.reg POS_CHN_SPEED) hist
  let c := c.setChain { x with h := e, hist := hist, quiet := 0, revOver := false }
  let c := c.setReg POS_CHN_SPEED inc
  let acc := min (max x.acc (e * 2 ^ 32 + inc * (c.now - t))) (max c.accLimit x.acc)
  let c := c.setChain { c.pf.chain with acc := acc }
  (((c.setFld POS_CHN_STATUS__ACTIVE 1).setFld POS_CHN_STATUS__STANDSTILL 0).setFld POS_CHN_STATUS__REVERSED 0).setFld
    POS_CHN_STATUS__BACKLOG 0

/-- The judgement of BACKLOG against REV_LIMIT, at a back edge and when the limit is written: REV_OVER once per reversal
(R98). -/
def Chip.revCheck (c : Chip) : Chip :=
  let b := c.fld POS_CHN_STATUS__BACKLOG
  let lim := c.fld POS_CHN_REV__REV_LIMIT
  if c.flag POS_CHN_STATUS__REVERSED = true ∧ lim ≠ 0 ∧ lim < b ∧ c.pf.chain.revOver = false then
    ((c.setChain { c.pf.chain with revOver := true }).raise POS_CHN_STATUS__REV_OVER).sysEvent 4 0 (w32 b) 0
  else c

/-- An edge below the high-water count: the start or the continuation of a reversal (R98). -/
def Chip.backEdge (c : Chip) (back : Nat) : Chip :=
  let c := if c.flag POS_CHN_STATUS__REVERSED then c
    else
      let c := c.chainNow
      let c := (c.setChain { c.pf.chain with hist := [], revOver := false }).setReg POS_CHN_SPEED 0
      ((c.raise POS_CHN_STATUS__REVERSED).sysEvent 3 0 0 0).reverseHold
  (c.setFld POS_CHN_STATUS__BACKLOG (min back 65535)).revCheck

/-- The planner's chainage follows the C(n) of the boundary its build started at (R157). -/
def Chip.planRelatch (c : Chip) (cn : Nat) : Chip :=
  if c.plan.phase = .building ∧ c.plan.b = c.poundNum then { c with plan := { c.plan with cb := cn, inc := c.beltInc } } else c

/-- The queues of the flights due are evaluated with the new C(n) (R105). -/
def Chip.queuesRelatch (c : Chip) (old cn : Nat) : Chip :=
  if c.drives then
    c.each (c.pnd.due.filter (fun f => c.fMode f == 2)) (fun c f => (c.segRelatch f old cn).segMove f c.poundNum cn)
  else c

/-- C(n) is the chainage at the end of the boundary tick: an anchor delivered in that tick after POUND_BOUNDARY was carried
out moves it, and with it what the boundary made of it (R22, R105, R157, R200). -/
def Chip.relatch (c : Chip) : Chip :=
  let old := c.pnd.cn
  let cn := c.tb5
  if c.now = c.pnd.start ∧ cn ≠ old then
    let p := c.pnd
    let c := { c with pnd := { p with cn := cn, cns := (c.poundNum, cn) :: p.cns.drop 1 } }
    ((c.queuesRelatch old cn).planRelatch cn).virtualSamples cn c.beltInc (c.flag POS_CHN_STATUS__ACTIVE)
  else c

/-- The belt channel's count has changed, the last edge stamped t (R94, R98). Edges of other channels do
nothing, and a device in STANDBY or RESYNC takes its chainage from the ledger (R445). DESIGN CHOICE: Ê is less than H when
their difference modulo 2⁴⁸, taken as signed, is negative (log entry 111). -/
def Chip.beltEdge (c : Chip) (ch t : Nat) : Chip :=
  if c.flag POS_CHN_CFG__EN && c.belt == ch && c.chType ch != 4 && c.drives then
    let e := c.eHat (c.chan ch).pos
    let d := modDiff 48 e c.pf.chain.h
    if 0 < d then (c.anchor e t).relatch
    else if d < 0 then c.backEdge d.natAbs
    else if c.flag POS_CHN_STATUS__REVERSED then c.setFld POS_CHN_STATUS__BACKLOG 0
    else c
  else c

/-- STILL_TMO boundaries without an anchor (R97). -/
def Chip.chainStill (c : Chip) : Chip :=
  if c.stillDue then
    let c := c.chainNow
    let c := (c.setChain { c.pf.chain with hist := [] }).setReg POS_CHN_SPEED 0
    (c.raise POS_CHN_STATUS__STANDSTILL).sysEvent 2 0 0 0
  else c

/-- Chainage comes to standstill (R97). -/
def execChnStandstill (t : Nat) (s : State) : Host.Outcome State Fault Refusal := s.event t Chip.chainStill

/-- Whole counts by which the running chainage has grown since the dividers last saw it: forward steps of every
chainage-fed divider (R209). -/
def Chip.chainRise (c : Chip) : Chip :=
  let w := c.tb5 / 2 ^ 16
  let k := (modDiff 48 w c.pf.chain.whole).toNat
  if c.flag POS_CHN_CFG__EN ∧ k ≠ 0 then
    let c := c.setChain { c.pf.chain with whole := w }
    c.each (List.range 8) (fun c d =>
      if c.flag (POS_PD_CFG__EN d) && c.flag (POS_PD_CFG__SRC_CHN d) then c.pdSteps d k true else c)
  else c

/-- The whole part of the running chainage rises (R209). -/
def execChainageCountRise (t : Nat) (s : State) : Host.Outcome State Fault Refusal := s.event t Chip.chainRise

/-- Moves the chainage: offset, high-water count and accumulator, with the history emptied and the chainage-fed dividers
re-initialised (R94, R101, R211). In a reversal BACKLOG follows the new H − Ê (R98). -/
def Chip.chainSet (c : Chip) (ofs v : Nat) : Chip :=
  let c := (c.setChain { c.pf.chain with ofs := ofs, h := v, acc := v * 2 ^ 32, accT := c.now, hist := []
                                         whole := v }).setReg POS_CHN_SPEED 0
  let c := if c.flag POS_CHN_STATUS__REVERSED then
      c.setFld POS_CHN_STATUS__BACKLOG (min (modDiff 48 v (c.eHat (c.chan c.belt).pos)).toNat 65535)
    else c
  c.pdChainSet v

/-- The check of an index edge of the belt channel at Ê (R102). -/
def Chip.alignCheck (c : Chip) (e : Nat) : Chip :=
  let sh := c.fld POS_CHN_HO__HO_SH
  let err : Int := if sh = 0 then 0 else (((e + 2 ^ (sh - 1)) % 2 ^ sh : Nat) : Int) - (2 ^ (sh - 1) : Nat)
  let last := clampI (-32767) 32767 err
  let c := c.setFldI POS_CHN_ALIGN__LAST_ERR last
  if c.fld POS_CHN_HO__ALIGN_TOL < err.natAbs then
    (c.raise POS_CHN_STATUS__ALIGN_ERR).sysEvent 5 0 (w32i last) 0
  else c

/-- An index edge of the belt channel at channel position `pos`: an armed alignment is made, then the edge is checked
(R101, R102). DESIGN CHOICE: a channel is the belt channel while POS_CHN_CFG.EN is set; without it no edge is checked (log
entry 112). -/
def Chip.beltIndex (c : Chip) (ch pos : Nat) : Chip :=
  if c.flag POS_CHN_CFG__EN && c.belt == ch && c.drives then
    let c := match c.pf.chain.alignV with
      | none => c
      | some v =>
        let c := c.chainSet ((v + 2 ^ 48 - c.edgeCount pos) % 2 ^ 48) v
        let c := c.setChain { c.pf.chain with alignV := none }
        (c.setFld POS_CHN_STATUS__ALIGN_ARMED 0).raise POS_CHN_STATUS__ALIGNED
    c.alignCheck (c.eHat pos)
  else c

/-- An index event latched on a channel is evaluated: the channel's own action, then the belt's (R101, R102, R201). -/
def Chip.indexEvent (c : Chip) (ch : Nat) : Chip :=
  match (c.chan ch).idx with
  | none => c
  | some e =>
    let c := c.setChan ch { c.chan ch with idx := none }
    (c.beltIndex ch e.2.1).idxEvent ch e.1 e.2.1

/-- An index event of a channel (R201). -/
def execIndexEvent (t : Nat) (ch : Fin 256) (s : State) : Host.Outcome State Fault Refusal :=
  s.event t (fun c => c.indexEvent ch.val)

/-- The levels that an ABZ input accepts reach every channel it feeds, and the belt (R193, R195). -/
def Chip.abzEdge (c : Chip) (k : Nat) (a b z : Bool) : Chip :=
  let old := c.abz k
  let new := c.abzTake k a b z
  let c := { c with pf := { c.pf with abz := tabPut (fun _ => Abz.init) k new c.pf.abz } }
  c.each (c.abzChans k) (fun c ch =>
    let p := (c.chan ch).pos
    let c := c.abzChan ch (c.fld (POS_ABZ_CFG__DECODE k)) old new.a new.b new.z
    if (c.chan ch).pos = p then c else c.beltEdge ch c.now)

/-- An edge of an ABZ input is accepted (R193). -/
def execAbzEdge (t : Nat) (k : Fin 32) (a b z : Bool) (s : State) : Host.Outcome State Fault Refusal :=
  s.event t (fun c => c.abzEdge k.val a b z)

/-- A serial reading, then the belt's edge if the belt channel reads this port; the anchor carries the transfer's first
clock edge (R94, R190, R198). -/
def Chip.serCheckBelt (c : Chip) (p : Nat) (r : SerialReading) : Chip :=
  let t0 := (c.ser p).getD c.now
  let before := (c.chan c.belt).pos
  let c := c.serCheck p r
  if (c.chan c.belt).pos = before ∨ c.chType c.belt ≠ 2 then c else c.beltEdge c.belt t0

/-- A serial transfer completes (R198). -/
def execSerialReadingCheck (t : Nat) (p : Fin 16) (r : SerialReading) (s : State) : Host.Outcome State Fault Refusal :=
  s.event t (fun c => c.serCheckBelt p.val r)

/-- The Manifest holds no entry, armed or accepted. -/
def Chip.manEmpty (c : Chip) : Bool := c.man.armed.isEmpty && c.man.waiting.isEmpty

/-- A write of POS_CHN_CFG, POS_CHN_HO or POS_CHN_REV; `none` for any other register (R94, R98, R100). DESIGN CHOICE: when
EN goes from 1 to 0, INC becomes 0 too, so that the chainage stands (log entry 113). -/
def Chip.chnWrite (c : Chip) (off v : Nat) : Option Chip :=
  let rej := c.raise POS_CHN_STATUS__CFG_REJ
  if off = POS_CHN_CFG then
    let en := v.testBit 31
    let chg := en != c.flag POS_CHN_CFG__EN
    if c.dryOrMoored = false ∨ (chg = true ∧ (c.manEmpty = false ∨ c.chainSegs = true)) then some rej
    else
      let c := (c.chainNow).writeBits off v
      if chg then
        let c := (c.setChain { c.pf.chain with alignV := none }).setFld POS_CHN_STATUS__ALIGN_ARMED 0
        if en then
          let c := c.chainSet ((2 ^ 48 - c.edgeCount (c.chan c.belt).pos) % 2 ^ 48) 0
          let c := c.setChain { c.pf.chain with quiet := 0, revOver := false }
          let c := (c.setFld POS_CHN_STATUS__ALIGNED 0).setFld POS_CHN_STATUS__STANDSTILL 0
          some (((c.setFld POS_CHN_STATUS__REVERSED 0).setFld POS_CHN_STATUS__BACKLOG 0).setFld POS_CHN_STATUS__ACTIVE 0)
        else some ((c.setFld POS_CHN_STATUS__ACTIVE 0).setReg POS_CHN_SPEED 0)
      else some c
  else if off = POS_CHN_HO then
    if c.dryOrMoored = false ∨ 24 < bits v 20 16 then some rej else some (c.writeBits off v)
  else if off = POS_CHN_REV then some (c.writeBits off v).revCheck
  else none

/-- A write of POS_CHN_CFG (off 0) or POS_CHN_HO (off 1) (R94, R100). -/
def execPosChnCfgWrite (t : Nat) (ifc : Iface) (off : Fin 2) (v : Word) (s : State) : Host.Outcome State Fault Refusal :=
  s.access t ifc (fun c => (c.chnWrite (if off.val = 0 then POS_CHN_CFG else POS_CHN_HO) v.toNat).getD c)

/-- CHAIN_ALIGN's rules: V a multiple of 2^HO_SH; DRY or MOORED with chainage enabled; the Manifest empty (R101). -/
def Chip.chainAlign (c : Chip) (k : Intake) : Chip × Answer :=
  let v := wordAt k.payload 0 + bits (wordAt k.payload 1) 15 0 * 2 ^ 32
  if v % 2 ^ c.fld POS_CHN_HO__HO_SH ≠ 0 then (c, ansArg 0)
  else if c.dryOrMoored = false ∨ c.flag POS_CHN_CFG__EN = false then (c, ansState)
  else if c.manEmpty = false then (c, ansBusy)
  else ((c.setChain { c.pf.chain with alignV := some v }).raise POS_CHN_STATUS__ALIGN_ARMED, ansOK)

/-- CHAIN_ALIGN (R101). -/
def execChainAlign (t : Nat) (ifc : Iface) (tag target : Word) (pl : List Word) (s : State) :
    Host.Outcome State Fault Refusal :=
  s.command t 0x0503 ifc tag target pl Chip.chainAlign

end Sys2Proof.Machine
end

