-- ==== Sys2Proof/Machine/Tow.lean ====
section
/-! DEFINITION. Towpath: frames, polls with guard and slip, replies judged and routed, auxiliary words, quarantine and
probes, references, foreign masters and command frames (R214 to R256, R263 to R267). -/

namespace Sys2Proof.Machine

/-! ## Configuration window (R244, R247, R249, R268) -/

/-- A word of the Towpath configuration. The barge table and the item sets of R268 stand behind the window's 128 KiB. -/
def Chip.towW (c : Chip) (off : Nat) : Nat := (memWord 0 c.mem.tow off).toNat

/-- Offset of the barge table. -/
abbrev towBarges : Nat := 0x20000
/-- Offset of the item sets. -/
abbrev towSets : Nat := 0x40000

/-- Pound divisor D of a two-bit code. -/
def divOf (x : Nat) : Nat := 2 ^ (x % 4)

/-- EN of a schedule entry. -/
def Chip.eEn (c : Chip) (e : Nat) : Bool := (c.towW (16 * e)).testBit 31
/-- The entry is a MGMT entry. -/
def Chip.eMgmt (c : Chip) (e : Nat) : Bool := (c.towW (16 * e)).testBit 30
/-- Barge of an entry. -/
def Chip.eBarge (c : Chip) (e : Nat) : Nat := bits (c.towW (16 * e)) 18 16
/-- Port of an entry. -/
def Chip.ePort (c : Chip) (e : Nat) : Nat := bits (c.towW (16 * e)) 5 0
/-- Item set of an entry. -/
def Chip.eIset (c : Chip) (e : Nat) : Nat := bits (c.towW (16 * e)) 21 19
/-- OFFSET of an entry. -/
def Chip.eOffset (c : Chip) (e : Nat) : Nat := bits (c.towW (16 * e + 4)) 17 0
/-- WOPEN of an entry. -/
def Chip.eOpen (c : Chip) (e : Nat) : Nat := bits (c.towW (16 * e + 8)) 31 16
/-- WCLOSE of an entry. -/
def Chip.eClose (c : Chip) (e : Nat) : Nat := bits (c.towW (16 * e + 8)) 15 0
/-- SLIP_MAX of an entry. -/
def Chip.eSlip (c : Chip) (e : Nat) : Nat := bits (c.towW (16 * e + 12)) 31 16
/-- MAP_BASE of an entry. -/
def Chip.eMap (c : Chip) (e : Nat) : Nat := bits (c.towW (16 * e + 12)) 11 0

/-- The entry is due in pound n under its divisor and slot (R244). -/
def Chip.eDue (c : Chip) (e n : Nat) : Bool :=
  let w := c.towW (16 * e)
  n % divOf (bits w 29 28) == bits w 27 25

/-- The map entries of a reply's list, in order: it ends at KIND 0, after 16, or at the table's end (R247). -/
def Chip.mapList (c : Chip) (base : Nat) : List Nat :=
  (((List.range 16).map (fun j => if base + j < 4096 then c.towW (0x10000 + 4 * (base + j)) else 0)).takeWhile
    (fun w => bits w 31 28 != 0))

/-- A barge-table word (R268). -/
def Chip.bargeW (c : Chip) (i k : Nat) : Nat := c.towW (towBarges + 16 * i + 4 * k)

/-- A barge is PRESENT below NB. -/
def Chip.bPresent (c : Chip) (p b : Nat) : Bool :=
  decide (b ≤ c.fld (TOW_PORT_CFG__NBM1 p)) && (c.bargeW (8 * p + b) 1).testBit 31

/-- The PRESENT barges of a port. -/
def Chip.present (c : Chip) (p : Nat) : List Nat := (List.range 8).filter (c.bPresent p)

/-! ## Records -/

/-- An entry that has not been polled: its pound is no pound number. -/
def Poll.init : Poll := ⟨2 ^ 32, 0, 0, .skipped, false, false⟩

/-- The last poll of an entry. -/
def Chip.poll (c : Chip) (e : Nat) : Poll := tabGet (fun _ => Poll.init) c.tow.polls e

/-- The chip with an entry's poll replaced. -/
def Chip.setPoll (c : Chip) (e : Nat) (x : Poll) : Chip :=
  { c with tow := { c.tow with polls := tabPut (fun _ => Poll.init) e x c.tow.polls } }

/-- A port as it starts. -/
def Port.init : Port := ⟨0, 0, none, [], [], [], 0, 2 ^ 32, 0, 0, none, 0, [], false⟩

/-- Port p. -/
def Chip.port (c : Chip) (p : Nat) : Port := tabGet (fun _ => Port.init) c.tow.ports p

/-- The chip with a port replaced. -/
def Chip.setPort (c : Chip) (p : Nat) (x : Port) : Chip :=
  { c with tow := { c.tow with ports := tabPut (fun _ => Port.init) p x c.tow.ports } }

/-- A barge as it starts. -/
def Barge.init : Barge := ⟨0, none, false, false, false, 0, [], 0, none, false, false⟩

/-- Barge i = 8p + b. -/
def Chip.barge (c : Chip) (i : Nat) : Barge := tabGet (fun _ => Barge.init) c.tow.barges i

/-- The chip with a barge replaced. -/
def Chip.setBarge (c : Chip) (i : Nat) (x : Barge) : Chip :=
  { c with tow := { c.tow with barges := tabPut (fun _ => Barge.init) i x c.tow.barges } }

/-- Bring-up state of a port (R258). -/
def Chip.pstate (c : Chip) (p : Nat) : Nat := c.fld (TOW_PORT_STAT__PSTATE p)

/-- Admission of a barge: 0 ABSENT, 1 ADMITTED, 2 QUARANTINED, 3 BRINGUP (R270). -/
def Chip.admst (c : Chip) (i : Nat) : Nat := c.fld (TOW_BSTAT__ADMST i)

/-! ## Sending (R215, R220, R245) -/

/-- The device sends as a master: role SOLO or PRIMARY, not yielded, not in DRY, not silent for a handover
(R257, R263, R434, R451). -/
def Chip.towMaster (c : Chip) : Bool := c.drives && !c.flag TOW_STATUS__YIELDED && c.opState != 0 && !c.handSilent

/-- Ticks from a frame's SOF to the end of its EOF: LEN + 14 characters of 16 ticks. -/
def frameTicks (len : Nat) : Nat := 16 * (len + 14)

/-- A frame leaves a port in the first tick at or after `at` in which the transmitter is free, one IDLE ordered set after
the frame before; the tick it leaves in (R215, R220, R245). -/
def Chip.towSend (c : Chip) (p at_ type barge : Nat) (bcast : Bool) (pl : List Word) : Chip × Nat :=
  let x := c.port p
  let t := max at_ x.txFree
  let len := 4 * pl.length
  let w0 := type * 2 ^ 28 + 2 ^ 24 + b2n bcast * 2 ^ 23 + barge % 8 * 2 ^ 20 + c.fld TOW_MASTER_CFG__RANK * 2 ^ 16 + len
  let w1 := x.fid * 2 ^ 16 + c.poundNum % 256 * 2 ^ 8 + c.reg TOW_EPOCH % 256
  let ws := [w32 w0, w32 w1] ++ pl
  let c := c.setPort p { x with fid := (x.fid + 1) % 2 ^ 16, txFree := t + frameTicks len + 32 }
  (c.emit (.tow p t (ws ++ [crc32w ws])), t)

/-- The REFERENCE of a pound on a port: it leaves in tick 16, or as soon as the transmitter is free (R223, R245). -/
def Chip.refSend (c : Chip) (p : Nat) : Chip :=
  let B := c.pnd.start
  let pl : List Word := [w32 c.poundNum, w32 B, w32 (B / 2 ^ 32), w32 (c.reg TOW_EPOCH),
    w32 (b2n (c.role == 2) * 2 ^ 31 + c.pnd.sel * 2 ^ 28 + c.poundLen % 2 ^ 18), 0]
  (c.towSend p (B + 16) 0 0 true pl).1

/-- Every active port sends the REFERENCE of a pound, behind the entries of the pound before that its own frames deferred; a
standby sends BACKUP references on its ring ends (R223, R245, R257). -/
def Chip.towReferences (c : Chip) : Chip :=
  c.each (List.range 64) (fun c p =>
    if c.flag (TOW_PORT_CFG__EN p) && (if c.role == 2 then c.flag (TOW_PORT_CFG__RING p) && c.opState != 0 else c.towMaster) then
      if (c.port p).late = [] then c.refSend p else c.setPort p { c.port p with refLate := true }
    else c)

/-! ## Received frames (R222) -/

/-- TYPE of a frame. -/
def TowFrame.type (f : TowFrame) : Nat := bits f.w0.toNat 31 28
/-- BARGE of a frame. -/
def TowFrame.barge (f : TowFrame) : Nat := bits f.w0.toNat 22 20
/-- RANK of a frame. -/
def TowFrame.rank (f : TowFrame) : Nat := bits f.w0.toNat 19 16
/-- FM of a frame. -/
def TowFrame.fm (f : TowFrame) : Bool := f.w0.toNat.testBit 15
/-- FID of a frame. -/
def TowFrame.fid (f : TowFrame) : Nat := bits f.w1.toNat 31 16
/-- PTAG of a frame. -/
def TowFrame.ptag (f : TowFrame) : Nat := bits f.w1.toNat 15 8

/-- A received frame passes R222 as one of type `ty`, whose BCAST is `bc`. -/
def TowFrame.valid (f : TowFrame) (ty : Nat) (bc : Bool) : Bool :=
  let len := bits f.w0.toNat 9 0
  f.good && f.type == ty && bits f.w0.toNat 27 24 == 1 && f.w0.toNat.testBit 23 == bc && len % 4 == 0
    && decide (len ≤ 1008) && len == 4 * f.payload.length

/-- A frame is discarded and counted (R222, R252). -/
def Chip.rxDisc (c : Chip) (p : Nat) : Chip := c.count (TOW_PORT_CNT2__RX_DISC p) 1

/-- The receiver of a port is UP; one that is DOWN discards every frame (R215). -/
def Chip.rxUp (c : Chip) (p : Nat) : Bool := c.flag (TOW_PORT_STAT__RX_UP p)

/-! ## Foreign masters (R263) -/

/-- Every frame in progress ends with ABORT, and one that waits for its transmitter is not sent. DESIGN CHOICE: ABORT is
sent in the tick of the finding, of the 200 ns the rule allows (log entry 35). -/
def Chip.abortFrames (c : Chip) : Chip :=
  c.each (List.range 64) (fun c p =>
    let x := c.port p
    if c.now + 32 < x.txFree then (c.setPort p { x with txFree := c.now + 48 }).emit (.towAbort p c.now) else c)

/-- The device falls silent as a master. -/
def Chip.towYield (c : Chip) : Chip :=
  if c.flag TOW_STATUS__YIELDED then c
  else ((c.raise TOW_STATUS__YIELDED).raise TOW_INT_STATUS__YIELD).abortFrames

/-- A foreign master is seen: its flag, interrupt and Logbook event, and whether the device yields. -/
def Chip.foreign (c : Chip) (epoch rank : Nat) (yield : Bool) : Chip :=
  let c := (c.raise TOW_STATUS__FOREIGN_SEEN).raise TOW_INT_STATUS__FOREIGN
  let c := if yield then c.towYield else c
  c.logEvent 11 (w32 epoch) (w32 rank) (w32 (c.fld TOW_STATUS__YIELDED))

/-- A valid REFERENCE received: on a standby one with the primary's EPOCH is the primary's; to a master a non-BACKUP one is a foreign master's,
judged by precedence (R235, R263, R447). -/
def Chip.reference (c : Chip) (p : Nat) (f : TowFrame) : Chip :=
  if c.rxUp p = false then c
  else if f.valid 0 true = false ∨ f.payload.length ≠ 6 then c.rxDisc p
  else if (wordAt f.payload 4).testBit 31 then c
  else
    let ep := wordAt f.payload 3
    let c := c.onlyIf (c.drives || w32 ep == c.aqu.epoch) (fun c => c.setPort p { c.port p with refAt := some (c.now, w32 ep) })
    if c.drives then
      let own := c.reg TOW_EPOCH
      let d := modDiff 32 ep own
      let rank := c.fld TOW_MASTER_CFG__RANK
      if ep = own ∧ f.rank = rank then (c.raise TOW_STATUS__CONFLICT).foreign ep f.rank true
      else if (0 < d) ∨ (ep = own ∧ f.rank < rank) then c.foreign ep f.rank true
      else (c.count (TOW_PORT_CNT3__FOREIGN_CNT p) 1).foreign ep f.rank false
    else c

/-- REFERENCE_RECEIVED (R263). -/
def execReferenceReceived (t : Nat) (p : Fin 64) (fr : TowFrame) (s : State) : Host.Outcome State Fault Refusal :=
  s.event t (fun c => c.reference p.val fr)

/-! ## Auxiliary words and aging (R248) -/

/-- An auxiliary word ages once in a pound in which nothing was delivered to it. -/
def Chip.auxAge (c : Chip) (i n : Nat) : Chip :=
  let x := c.auxW i
  if x.availP = some n then c else c.setAuxW i { x with age := min (x.age + 1) 255, availP := some n, t := c.now }

/-- A sample of channel ch can come in pound n: a type 2 channel's port is on and the device runs its transfers, a type 3
channel has a reply window (R190, R197, R445). -/
def Chip.sampleDue (c : Chip) (ch n : Nat) : Bool :=
  match c.chType ch with
  | 2 => c.fld (POS_SER_CFG__PROTO (c.fld (POS_CH_CFG__SRCIDX ch))) != 0 && c.role != 2
  | 3 => (List.range 4096).any (fun e => c.eEn e && !c.eMgmt e && c.eDue e n
      && (c.mapList (c.eMap e)).any (fun w => bits w 31 28 == 1 && bits w 9 0 == ch))
  | _ => true

/-- At the start of pound n: a channel that has no sample instant in it keeps its value and ages (R190). DEDUCED: its sample
is available with the pound (log entry 118). -/
def Chip.idleChans (c : Chip) (n : Nat) : Chip :=
  c.each (List.range 256) (fun c ch =>
    let ty := c.chType ch
    if 2 ≤ ty ∧ ty ≤ 3 ∧ c.sampleDue ch n = false then c.chanSample ch false c.now c.now else c)

/-- The sampling instant of an entry's poll: the tick in which the barge receives its EOF, its frame's duration and the
one-way delay of the ranging after the send tick; the current tick where no poll left (R246, R261). DEDUCED (log entry
119). -/
def Chip.pollInstant (c : Chip) (e : Nat) : Nat :=
  let x := c.poll e
  if x.judged = .skipped then c.now else x.t + frameTicks 4 + ((c.barge (8 * c.ePort e + c.eBarge e)).dly - 16)

/-- The destinations of an entry's list that were not delivered in this pound age (R248). -/
def Chip.entryAge (c : Chip) (e : Nat) : Chip :=
  let ts := c.pollInstant e
  c.each (c.mapList (c.eMap e)) (fun c w =>
    let dest := bits w 9 0
    match bits w 31 28 with
    | 1 =>
      if dest < 256 ∧ c.chType dest = 3 ∧ (c.chan dest).availP ≠ some c.poundNum then c.chanSample dest false c.now ts
      else c
    | 2 => c.each (List.range (bits w 18 10)) (fun c i => c.auxAge (dest + i) c.poundNum)
    | _ => c)

/-- At a boundary the auxiliary words that received nothing in the ended pound age (R190, R248). -/
def Chip.auxBoundary (c : Chip) (ended : Nat) : Chip :=
  c.each (c.tow.aux.map (·.1)) (fun c i => c.auxAge i ended)

/-! ## Polls (R250, R256) -/

/-- READMIT_P of a port. -/
def Chip.readmitP (c : Chip) (p : Nat) : Nat := max (c.fld (TOW_PORT_CFG2__READMIT_P p)) 1

/-- The first POLL entry of a barge in table order (R256). -/
def Chip.firstPoll (c : Chip) (p b : Nat) : Option Nat :=
  (List.range 4096).find? (fun e => c.eEn e && !c.eMgmt e && c.ePort e == p && c.eBarge e == b)

/-- A quarantined barge is probed by this entry in this pound (R256). -/
def Chip.probeDue (c : Chip) (p b e : Nat) : Bool :=
  let x := c.barge (8 * p + b)
  let from_ := (x.probeP.getD x.quarP + c.readmitP p) % 2 ^ 32
  !x.lost && decide (0 ≤ modDiff 32 c.poundNum from_) && c.firstPoll p b == some e

/-- What the guard check of R250 decides at send tick `t`: the ticks of delay, or `none` for a skip. `rx` is the frame
being received: its SOF tick, and its LEN once its header is complete. -/
def Chip.guardCheck (c : Chip) (p e t : Nat) (rx : Option (Nat × Option Nat)) : Option Nat :=
  let busy := match rx with
    | some (sof, len) => sof + frameTicks (len.getD 1008)
    | none => t
  let need : Int := (busy + c.fld (TOW_PORT_CFG__GUARD p) : Nat) - (t + c.eOpen e : Nat)
  if need ≤ 0 then some 0
  else if need ≤ (c.eSlip e : Nat) then some need.toNat
  else none

/-- A POLL entry that is left out in this pound: its port is not in RUN, or its barge is quarantined and no probe of it is
due (R255 to R257). -/
def Chip.pollOut (c : Chip) (e : Nat) : Bool :=
  let p := c.ePort e
  let b := c.eBarge e
  c.pstate p != 8 || (c.admst (8 * p + b) == 2 && !c.probeDue p b e)

/-- The barge whose re-ranging is due on a port: the next in turn not ranged for 1,024 pounds, or due after a takeover
(R265, R452). -/
def Chip.rerangeNext (c : Chip) (p : Nat) : Option Nat :=
  let turn := (c.port p).turn
  ((List.range 8).map (fun k => (turn + k) % 8)).find? (fun b =>
    let g := c.barge (8 * p + b)
    c.bPresent p b && c.admst (8 * p + b) == 1 &&
      (g.force || (match g.rangedP with
        | some q => decide (1024 ≤ modDiff 32 c.poundNum q)
        | none => true)))

/-- An entry has nothing to send: a POLL that is left out, a MGMT entry of a port without a request or not in RUN (R251,
R255 to R257). -/
def Chip.entryIdle (c : Chip) (e : Nat) : Bool :=
  let x := c.port (c.ePort e)
  if c.eMgmt e then
    (x.queue == [] && (x.sent != [] || (c.rerangeNext (c.ePort e)).isNone)) || c.pstate (c.ePort e) != 8
  else c.pollOut e

/-- An entry of this pound has nothing to send, or, for a MGMT entry, its send tick is not now (R251). -/
def Chip.entryOut (c : Chip) (e : Nat) : Bool :=
  c.entryIdle e || (c.eMgmt e && max (c.pnd.start + c.eOffset e) (c.port (c.ePort e)).txFree != c.now)

/-- Every due entry of the port that stands before entry e has had its turn in this pound or sends nothing (R245). -/
def Chip.pollTurn (c : Chip) (p e : Nat) : Bool :=
  (List.range 4096).all (fun d =>
    !(c.eEn d && c.ePort d == p && c.eDue d c.poundNum
        && decide (c.eOffset d < c.eOffset e ∨ (c.eOffset d = c.eOffset e ∧ d < e)))
      || (c.poll d).pound == c.poundNum || c.entryOut d)

/-- The entries of the ended pound that the port's own frames still defer, those that have nothing to send left out (R245). -/
def Chip.lateOf (c : Chip) (p : Nat) : List Nat := (c.port p).late.filter (fun e => !c.entryIdle e)

/-- A REFERENCE that waited behind deferred entries leaves when none is left (R245). -/
def Chip.refRelease (c : Chip) (p : Nat) : Chip :=
  if (c.port p).refLate && c.lateOf p == [] then (c.setPort p { c.port p with late := [], refLate := false }).refSend p else c

/-- Entry e has had its turn on its port. -/
def Chip.lateDone (c : Chip) (p e : Nat) : Chip :=
  if (c.port p).late = [] then c
  else (c.setPort p { c.port p with late := (c.port p).late.erase e }).refRelease p

/-- The pound an entry is due in and its tick, where its turn on its port has come: the first of the deferred entries of the
ended pound when the transmitter is free, and when none is left the entries of this pound in their order (R245). -/
def Chip.entryTurn (c : Chip) (p e : Nat) : Option (Nat × Nat) :=
  let x := c.port p
  match c.lateOf p with
  | d :: _ => if d = e then some ((c.poundNum + (2 ^ 32 - 1)) % 2 ^ 32, x.txFree) else none
  | [] =>
    if c.eDue e c.poundNum && (c.poll e).pound != c.poundNum && c.pollTurn p e then
      some (c.poundNum, max (c.pnd.start + c.eOffset e) x.txFree)
    else none

/-- At the end of pound n, before the next begins: the entries due in it that a port's own frames defer past the boundary, in
their order (R245). DESIGN CHOICE: an entry deferred for a whole pound more is not sent (log entry 138). -/
def Chip.towLate (c : Chip) (n : Nat) : Chip :=
  c.each (List.range 64) (fun c p =>
    let x := c.port p
    let busy := decide (c.now ≤ x.txFree) && c.towMaster && c.flag (TOW_PORT_CFG__EN p)
    let due := if busy then (List.range 4096).filter (fun e =>
        c.eEn e && c.ePort e == p && c.eDue e n && (c.poll e).pound != n && !c.entryIdle e) else []
    let order := due.mergeSort (fun a b => decide (c.eOffset a < c.eOffset b ∨ (c.eOffset a = c.eOffset b ∧ a ≤ b)))
    if x.late = order ∧ x.refLate = false then c else c.setPort p { x with late := order, refLate := false })

/-- A POLL entry at its send tick: sent, slipped or skipped; one that is left out is not sent (R245, R250, R255,
R256). -/
def Chip.pollSend (c : Chip) (e : Nat) (rx : Option (Nat × Option Nat)) : Chip :=
  let p := c.ePort e
  let b := c.eBarge e
  let c := c.refRelease p
  match c.entryTurn p e with
  | none => c
  | some (n, t) =>
    if c.towMaster && c.flag (TOW_PORT_CFG__EN p) && c.eEn e && !c.eMgmt e && t == c.now && !c.pollOut e then
      let probe := c.admst (8 * p + b) == 2
      let c := if probe then c.setBarge (8 * p + b) { c.barge (8 * p + b) with probeP := some c.poundNum } else c
      let c : Chip := match c.guardCheck p e t rx with
        | none => (c.count (TOW_PORT_CNT1__SKIP_CNT p) 1).setPoll e ⟨n, c.pnd.start + c.eOffset e, 0, .skipped, probe, false⟩
        | some d =>
          let c := if d = 0 then c else c.count (TOW_PORT_CNT1__SLIP_CNT p) 1
          let fid := (c.port p).fid
          let r := c.towSend p (t + d) 1 b false [w32 (e * 2 ^ 16 + c.eIset e * 2 ^ 8)]
          r.1.setPoll e ⟨n, r.2, fid, .waiting, probe, false⟩
      c.lateDone p e
    else c

/-- POLL_SEND (R250). -/
def execPollSend (t : Nat) (entry : Fin 4096) (rx : Option (Nat × Option Nat)) (s : State) :
    Host.Outcome State Fault Refusal :=
  s.event t (fun c => c.pollSend entry.val rx)

/-- The items of an entry that got nothing in this pound, its poll skipped or left out, age at OFFSET + WCLOSE (R250,
R252, R255, R257). -/
def Chip.unpolledAge (c : Chip) (e : Nat) : Chip :=
  let x := c.poll e
  let none_ := if x.pound = c.poundNum then x.judged == .skipped else c.pollOut e
  if c.eEn e && !c.eMgmt e && c.eDue e c.poundNum && none_ && decide (c.pnd.start + c.eOffset e + c.eClose e ≤ c.now) then
    c.entryAge e
  else c

/-- A reply window closes: a poll still waiting is MISSING, and the items that were not delivered age (R252, R256). -/
def Chip.windowClose (c : Chip) (e : Nat) : Chip :=
  let x := c.poll e
  let p := c.ePort e
  if x.judged = .waiting ∧ x.t + c.eClose e ≤ c.now then
    let c := (c.setPoll e { x with judged := .missing }).count (TOW_PORT_CNT0__MISS_CNT p) 1
    if x.probe then c.setFld (TOW_BSTAT__GOODRUN (8 * p + c.eBarge e)) 0 else c.entryAge e
  else c.unpolledAge e

/-- REPLY_WINDOW_CLOSE (R252). -/
def execReplyWindowClose (t : Nat) (entry : Fin 4096) (s : State) : Host.Outcome State Fault Refusal :=
  s.event t (fun c => c.windowClose entry.val)

/-! ## Items (R225 to R227, R247) -/

/-- B(n) of the latest pound, not later than the current one, whose number ends in PTAG (R237). -/
def Chip.tagBoundary (c : Chip) (ptag : Nat) : Option Nat :=
  let n := c.poundNum
  let m := (n + 2 ^ 32 - (n + 256 - ptag) % 256) % 2 ^ 32
  (c.pnd.boundaries.find? (fun e => e.1 == m)).map (·.2)

/-- A POSITION item sampled at `ts` reaches its channel (R199, R201, R226, R237). DESIGN CHOICE: the first good reply, which
counts no steps, makes no anchor (log entry 116), and where the item's STAMP is not valid the steps carry the sampling
instant (log entry 117). -/
def Chip.posItem (c : Chip) (ch ptag ts : Nat) (ws : List Word) : Chip :=
  if ch < 256 ∧ c.chType ch = 3 then
    let raw := wordAt ws 0
    let w2 := wordAt ws 2
    let x := c.chan ch
    let stamp := if w2.testBit 30 then (c.tagBoundary ptag).map (fun b => ((b : Int) + signed 32 (wordAt ws 1)).toNat) else none
    let c :=
      if x.started then
        let d := c.invDir ch (modDiff 32 raw x.last)
        let c := c.setChan ch { x with last := raw }
        let before := (c.chan ch).pos
        let c := c.chanSteps ch d (bits w2 15 0) (stamp.getD ts) stamp.isSome
        if (c.chan ch).pos = before then c else c.beltEdge ch (stamp.getD ts)
      else
        let c := c.chanStart ch (signed 32 raw)
        c.setChan ch { c.chan ch with last := raw }
    let c := if w2.testBit 31 then
        let x := c.chan ch
        let after := c.invDir ch (modDiff 32 raw (wordAt ws 3))
        let m : Int := (c.chMod ch : Nat)
        c.setChan ch { x with idx := some ((((x.cnt : Int) - after) % m).toNat, unsigned 48 ((x.pos : Int) - after), c.now) }
      else c
    c.chanSample ch true c.now ts
  else c

/-- A STATUS item is stored, and what changed in it is told (R227, R267). -/
def Chip.statusItem (c : Chip) (i : Nat) (w : Nat) : Chip :=
  let old := c.reg (TOW_BSTATUS i)
  let set (b : Nat) : Bool := w.testBit b && !old.testBit b
  let c := c.setReg (TOW_BSTATUS i) w
  let c := if (bits w 31 30 == 3 && bits old 31 30 != 3) || set 25 || set 28 || set 26 then
      c.raise TOW_INT_STATUS__BARGE_EVT else c
  if w.testBit 29 then (c.raise TOW_STATUS__FOREIGN_SEEN).raise TOW_INT_STATUS__FOREIGN else c

/-- The two prefix words of a packet of TOW_LAD (R239). -/
def ladPrefix (fid ptag kind port barge bytes : Nat) : List Word :=
  [w32 (kind * 2 ^ 28 + port * 2 ^ 22 + barge * 2 ^ 19 + bytes), w32 (fid * 2 ^ 16 + ptag * 2 ^ 8)]

/-- One item, sampled at `ts`, under its map entry: routed, or discarded and counted (R247). -/
def Chip.item (c : Chip) (p ts : Nat) (f : TowFrame) (m h : Nat) (ws : List Word) : Chip :=
  let nw := bits h 7 0
  let dest := bits m 9 0
  let bad := c.count (TOW_PORT_CNT3__MAP_ERR p) 1
  if bits m 31 28 ≠ bits h 31 28 ∨ bits m 27 20 ≠ bits h 23 16 then bad
  else
    match bits h 31 28 with
    | 1 => if nw = 4 then c.posItem dest f.ptag ts ws else bad
    | 2 =>
      let n := bits m 18 10
      if nw = (n + 1) / 2 then
        c.each (List.range n) (fun c i =>
          let w := wordAt ws (i / 2)
          c.setAuxW (dest + i) ⟨if i % 2 = 0 then bits w 15 0 else bits w 31 16, 0, some c.poundNum, c.now⟩)
      else bad
    | 3 => if nw = 1 then c.statusItem (8 * p + f.barge) (wordAt ws 0) else bad
    | 4 => if nw = (bits h 15 8 + 3) / 4 then c.safetyItem dest ((wordsBytes ws).take (bits h 15 8)) else bad
    | 5 =>
      c.ladPacket (.tow ⟨dest % 16, Nat.mod_lt _ (by decide)⟩)
        (wordsBytes (ladPrefix f.fid f.ptag 5 p f.barge (4 * nw) ++ ws))
    | _ => bad

/-- The items of an on-time reply in order, each under its map entry; one that extends beyond LEN ends the parsing
(R225, R247). -/
def Chip.routeItems (c : Chip) (p ts : Nat) (f : TowFrame) : Nat → List Nat → List Word → Chip
  | 0, _, _ => c
  | _, _, [] => c
  | fuel + 1, ms, h :: t =>
    let nw := bits h.toNat 7 0
    if t.length < nw then c
    else
      let c := match ms with
        | m :: _ => c.item p ts f m h.toNat (t.take nw)
        | [] => c.count (TOW_PORT_CNT3__MAP_ERR p) 1
      c.routeItems p ts f fuel (ms.drop 1) (t.drop nw)

/-! ## Judging replies (R252, R253) -/

/-- The entry a reply matches: its identifier, port and barge, with a poll waiting or already MISSING. -/
def Chip.matchPoll (c : Chip) (p : Nat) (f : TowFrame) : Option Nat :=
  (c.tow.polls.find? (fun e =>
    c.ePort e.1 == p && c.eBarge e.1 == f.barge && e.2.fid == f.fid
      && (e.2.judged == .waiting || e.2.judged == .missing))).map (·.1)

/-- The margin of an on-time reply (R253). -/
def Chip.margin_ (c : Chip) (p e : Nat) (m : Int) : Chip :=
  let c := if m < c.fldI (TOW_PORT_MARGIN__MIN_MARGIN p) then
      (c.setFldI (TOW_PORT_MARGIN__MIN_MARGIN p) m).setFld (TOW_PORT_MARGIN__ENTRY p) e
    else c
  if m < (c.fld (TOW_PORT_CFG2__MARGIN_WARN p) : Nat) then c.raise TOW_INT_STATUS__MARGIN_LOW else c

/-- A reply is late: discarded and counted; one dragged behind another late reply withdraws the MISSING of its window
(R252). -/
def Chip.lateReply (c : Chip) (p e : Nat) (f : TowFrame) : Chip :=
  let x := c.poll e
  let c := c.count (TOW_PORT_CNT0__LATE_CNT p) 1
  let drag := match (c.port p).lastLate with
    | some t => decide (f.sof ≤ t + c.fld (TOW_PORT_CFG__GUARD p) + 32)
    | none => false
  let c := if drag then c.count (TOW_PORT_CNT1__DRAG_CNT p) 1 else c
  let c := c.setPort p { c.port p with lastLate := some c.now }
  c.setPoll e { x with judged := .late, withdrawn := drag }

/-- A valid REPLY is judged on the tick of its EOF (R252, R256). -/
def Chip.reply_ (c : Chip) (p : Nat) (f : TowFrame) : Chip :=
  if c.rxUp p = false then c
  else if f.valid 2 false = false then c.rxDisc p
  else if f.fm then (c.foreign (bits f.w1.toNat 7 0) f.rank true).rxDisc p
  else
    match c.matchPoll p f with
    | none => c.rxDisc p
    | some e =>
      let x := c.poll e
      let i := 8 * p + c.eBarge e
      let close := x.t + c.eClose e
      if x.judged = .missing then c.lateReply p e f
      else if close < c.now then (c.windowClose e).lateReply p e f
      else if c.now < x.t + c.eOpen e then
        let c := (c.setPoll e { x with judged := .early }).count (TOW_PORT_CNT3__EARLY_CNT p) 1
        if x.probe then c.setFld (TOW_BSTAT__GOODRUN i) 0 else c.entryAge e
      else
        let c := (c.setPoll e { x with judged := .onTime }).margin_ p e ((close : Int) - (c.now : Int))
        if x.probe then c.count (TOW_BSTAT__GOODRUN i) 1
        else (c.routeItems p (c.pollInstant e) f 256 (c.mapList (c.eMap e)) f.payload).entryAge e

/-- REPLY_RECEIVED (R252). -/
def execReplyReceived (t : Nat) (p : Fin 64) (fr : TowFrame) (s : State) : Host.Outcome State Fault Refusal :=
  s.event t (fun c => c.reply_ p.val fr)

/-- MRG_RST restarts the margin minimum (R253). -/
def Chip.mrgRst (c : Chip) (p : Nat) : Chip := c.setReg (TOW_PORT_MARGIN p) (0x7FFF * 2 ^ 16)

/-- A write of TOW_PORT_CTL_p.MRG_RST (R253). -/
def execMrgRst (t : Nat) (ifc : Iface) (p : Fin 64) (s : State) : Host.Outcome State Fault Refusal :=
  s.access t ifc (fun c => c.mrgRst p.val)

/-! ## Quarantine at a boundary (R254 to R256) -/

/-- A barge becomes QUARANTINED in pound n (R254, R258). -/
def Chip.quarantine (c : Chip) (p b n : Nat) : Chip :=
  let i := 8 * p + b
  let c := ((c.setFld (TOW_BSTAT__ADMST i) 2).setFld (TOW_BSTAT__GOODRUN i) 0).setBarge i
    { c.barge i with quarP := n, probeP := none, lost := false }
  let c := (c.raiseBit (TOW_QUAR_PEND (p / 4)) (8 * (p % 4) + b)).raise TOW_INT_STATUS__QUAR
  c.logEvent 9 (w32 i) (w32 (c.fld (TOW_BSTAT__FAILRUN i))) 0

/-- A port has an enabled MGMT entry (R266). -/
def Chip.hasMgmt (c : Chip) (p : Nat) : Bool :=
  (List.range 4096).any (fun e => c.eEn e && c.eMgmt e && c.ePort e == p)

/-- An exchange that reads words of a barge. -/
def Exchange.read (b addr n : Nat) (why : MgmtWhy) : Exchange := ⟨false, false, b, false, addr, n, [], why, 0⟩

/-- An exchange that writes words of a barge. -/
def Exchange.wr (b addr : Nat) (data : List Word) (why : MgmtWhy) : Exchange :=
  ⟨true, false, b, false, addr, data.length, data, why, 0⟩

/-- A poll was sent in pound n: an entry of that pound, or one of the pound before that its port deferred (R245, R254). -/
def Chip.polledIn (c : Chip) (n : Nat) (x : Poll) : Bool :=
  x.judged != .skipped && (x.pound == n || ((x.pound + 1) % 2 ^ 32 == n &&
    (c.pnd.boundaries.find? (fun e => e.1 == n)).any (fun e => decide (e.2 ≤ x.t))))

/-- The judgement of one barge at the boundary that ends a pound: FAILRUN, quarantine, re-admission, and the exchange
that stands in place of a probe when one got no answer at all (R254, R256, R266). -/
def Chip.bargeBoundary (c : Chip) (ended next p b : Nat) : Chip :=
  let i := 8 * p + b
  let mine := c.tow.polls.filter (fun e => c.polledIn ended e.2 && c.ePort e.1 == p && c.eBarge e.1 == b)
  let polls := mine.filter (fun e => !e.2.probe)
  let failed := polls.any (fun e =>
    e.2.judged == .early || ((e.2.judged == .missing || e.2.judged == .late) && !e.2.withdrawn))
  let lost := mine.any (fun e => e.2.probe && e.2.judged == .missing)
  let c := if polls = [] then c
    else if failed then c.count (TOW_BSTAT__FAILRUN i) 1 else c.setFld (TOW_BSTAT__FAILRUN i) 0
  match c.admst i with
  | 2 =>
    if max (c.fld (TOW_PORT_CFG2__READMIT_N p)) 1 ≤ c.fld (TOW_BSTAT__GOODRUN i) then
      let c := ((c.setFld (TOW_BSTAT__ADMST i) 1).setFld (TOW_BSTAT__FAILRUN i) 0).setFld (TOW_BSTAT__GOODRUN i) 0
      (c.raise TOW_INT_STATUS__READMIT).logEvent 10 (w32 i) 0 0
    else if lost && c.hasMgmt p then
      let c := c.setBarge i { c.barge i with lost := true, rtts := [], spans := 0 }
      c.setPort p { c.port p with queue := (c.port p).queue ++ [Exchange.read b 0 1 (.readmit 2)] }
    else c
  | 3 => c
  | _ =>
    if polls ≠ [] ∧ failed = true ∧ max (c.fld (TOW_PORT_CFG2__LATE_N p)) 1 ≤ c.fld (TOW_BSTAT__FAILRUN i) then
      c.quarantine p b next
    else c

/-- The barges polled in the ended pound are judged (R254). -/
def Chip.towJudge (c : Chip) (ended next : Nat) : Chip :=
  let polled := c.tow.polls.filter (fun e => c.polledIn ended e.2)
  let is := (polled.map (fun e => 8 * c.ePort e.1 + c.eBarge e.1)).eraseDups
  c.each is (fun c i => c.bargeBoundary ended next (i / 8) (i % 8))

/-- No required barge, one whose barge-table entry has REQ set, is in any state but ADMITTED (R31, R255). -/
def Chip.requiredOk (c : Chip) : Bool :=
  (List.range 512).all (fun i =>
    !(c.bargeW i 1).testBit 30 || c.admst i == 1)

/-! ## Availability of measurements (R23, R248, R252) -/

/-- The tick from which the window of an entry due in this pound is closed, once it is: WCLOSE after the send tick, or
OFFSET + WCLOSE where no poll leaves; a poll still deferred behind the port's own frames keeps it open. An answered poll's
items carry their own tick (R245, R252). -/
def Chip.pollClose (c : Chip) (e : Nat) : Option Nat :=
  let x := c.poll e
  let unsent := c.pnd.start + c.eOffset e + c.eClose e
  let close : Option Nat :=
    if x.pound = c.poundNum then
      match x.judged with
      | .waiting => none
      | .skipped => some unsent
      | .onTime => some c.pnd.start
      | .early => some c.pnd.start
      | .missing => some (x.t + c.eClose e)
      | .late => some (x.t + c.eClose e)
    else if c.towMaster && c.flag (TOW_PORT_CFG__EN (c.ePort e)) && !c.pollOut e then none
    else some unsent
  close.filter (fun t => decide (t ≤ c.now))

/-- The later of two ticks, none while one of them is not known. -/
def laterTick (a b : Option Nat) : Option Nat := match a, b with
  | some x, some y => some (max x y)
  | _, _ => none

/-- The tick from which the windows of all due entries whose list satisfies `hit` are closed, once they are. -/
def Chip.listsClose (c : Chip) (hit : Nat → Bool) : Option Nat :=
  (List.range 4096).foldl (fun m e =>
    if c.eEn e && !c.eMgmt e && c.eDue e c.poundNum && (c.mapList (c.eMap e)).any hit then laterTick m (c.pollClose e) else m)
    (some c.pnd.start)

/-- The tick from which the value of a type 3 channel is complete for this pound, once it is: delivered, or its windows
closed. -/
def Chip.towChanReady (c : Chip) (ch : Nat) : Option Nat :=
  let x := c.chan ch
  laterTick (some (if x.availP = some c.poundNum then x.availT else 0))
    (c.listsClose (fun w => bits w 31 28 == 1 && bits w 9 0 == ch))

/-- The same of an auxiliary word. -/
def Chip.auxReady (c : Chip) (i : Nat) : Option Nat :=
  let x := c.auxW i
  laterTick (some (if x.availP = some c.poundNum then x.t else 0))
    (c.listsClose (fun w => bits w 31 28 == 2 && decide (bits w 9 0 ≤ i ∧ i < bits w 9 0 + bits w 18 10)))

/-! ## Commands (R229, R249) -/

/-- The auxiliary command word i. -/
def Chip.auxCmd (c : Chip) (i : Nat) : Nat := tabGet (fun _ => 0) c.man.aux i

/-- Sixteen-bit values packed two to a word, the lower-numbered in bits [15:0], a zero pad for an odd count (R226). -/
def packHalves : List Nat → List Word
  | [] => []
  | [a] => [w32 (a % 2 ^ 16)]
  | a :: b :: t => w32 (a % 2 ^ 16 + b % 2 ^ 16 * 2 ^ 16) :: packHalves t

/-- The slice of a barge in this pound's COMMAND, if it has one (R229, R249). -/
def Chip.slice (c : Chip) (p b : Nat) : Option (List Word) :=
  let o := 0x14000 + 8 * (8 * p + b)
  let w := c.towW o
  let ncmd := bits w 28 24
  let naux := bits w 23 16
  let axis := bits w 7 0
  let cmds := (List.range ncmd).map (fun k => tabGet (fun _ => (⟨0, false, 2 ^ 32⟩ : AxisCmd)) c.lck.cmds (axis + k))
  let due := cmds.all (fun a => a.pound == c.poundNum)
  if w.testBit 31 && due then
    let en := (List.range ncmd).foldl (fun m k => if (cmds.getD k ⟨0, false, 0⟩).en then m + 2 ^ k else m) 0
    let vals := cmds.map (fun a => unsigned 16 a.word) ++
      (List.range naux).map (fun k => c.auxCmd (bits (c.towW (o + 4)) 9 0 + k))
    some (w32 (b * 2 ^ 29 + ncmd * 2 ^ 24 + naux * 2 ^ 16 + en) :: packHalves vals)
  else none

/-- The COMMAND of a port at the command release: the slices due and the SAFETY items; a standby sends only trip frames,
on its ring ends (R229, R249, R372, R378). -/
def Chip.command_ (c : Chip) (p : Nat) (withheld : List Nat) : Chip :=
  let standby := c.role == 2
  if c.flag (TOW_PORT_CFG__EN p) &&
      (if standby then c.flag (TOW_PORT_CFG__RING p) && c.opState != 0 else c.towMaster) then
    let slices := if standby then [] else (List.range 8).filterMap (c.slice p)
    let r := c.safetyItems p withheld
    let items := r.2.flatMap (fun e =>
      w32 (4 * 2 ^ 28 + e.1 * 2 ^ 16 + 4 * e.2.length * 2 ^ 8 + e.2.length) :: e.2)
    if slices = [] ∧ items = [] then r.1
    else
      (r.1.towSend p c.now 3 0 true
        (w32 (slices.length * 2 ^ 24 + c.fld (TOW_PORT_CFG__APPLY p)) :: slices.flatten ++ items)).1
  else c

/-- The COMMAND frames of a pound. -/
def Chip.commands (c : Chip) (withheld : List Nat) : Chip := c.each (List.range 64) (fun c p => c.command_ p withheld)

end Sys2Proof.Machine
end

