-- ==== Sys2Proof/Machine/TowMgmt.lean ====
section
/-! DEFINITION. Towpath management: exchanges in MGMT entries, bring-up, addressing, ranging, re-ranging and
re-admission (R231, R251, R257 to R262, R265, R266). -/

namespace Sys2Proof.Machine

/-- Ticks of the 20 µs window of a bring-up exchange and of an ENUM, after the request's EOF (R259; log entry 36). -/
abbrev mgmtWindow : Nat := 16000

/-- The payload of a management request (R231, R259). -/
def Exchange.payload (x : Exchange) : List Word :=
  [w32 (b2n x.write * 2 ^ 30 + x.n % 128), w32 (x.addr % 2 ^ 16 + (if x.addressing then 0xA5 * 2 ^ 24 else 0))]
    ++ (if x.write then x.data else [])

/-- Ticks from the send of a request to the end of its EOF. -/
def Exchange.ticks (x : Exchange) : Nat := frameTicks (4 * x.payload.length)

/-- A management request leaves a port; its window opens and closes at the given ticks after its send tick. -/
def Chip.mgmtOut (c : Chip) (p at_ : Nat) (x : Exchange) (opens closes : Nat) : Chip :=
  let fid := (c.port p).fid
  let r := c.towSend p at_ 4 (if x.addressing then (if x.bcast then 0 else 7) else x.barge) x.bcast x.payload
  let q := r.1.port p
  r.1.setPort p { q with
    sent := q.sent ++ [⟨{ x with sends := x.sends + 1 }, r.2, opens, closes, fid⟩]
    enums := if x.addressing && !x.bcast then 0 else q.enums }

/-- A port gives up its management exchanges. DESIGN CHOICE: a host request among them ends with TIMEOUT (log entry 121). -/
def Chip.mgmtDrop (c : Chip) (p : Nat) : Chip :=
  let x := c.port p
  let hosts := (x.queue ++ x.sent.map (fun s => s.x)).filterMap (fun e => match e.why with
    | .host k => some k
    | _ => none)
  (c.setPort p { x with queue := [], sent := [], todo := [] }).each hosts (fun c k => c.reply k stTIMEOUT 0 [])

/-! ## Bring-up (R257 to R261) -/

/-- Pounds a bring-up step may last (R258). -/
def stepLimit (st : Nat) : Nat :=
  match st with
  | 2 | 4 => 2
  | 3 | 5 => 8
  | _ => 16

/-- The exchanges of ranging a barge: four reads of STATUS (R261). -/
def rangeReads (b : Nat) (why : MgmtWhy) : List Exchange := List.replicate 4 (Exchange.read b 0x0014 1 why)

/-- The exchanges of configuring a barge: DLY, the word at 0x0010 and the item sets (R258, R268). -/
def Chip.configWrites (c : Chip) (p b : Nat) (why : MgmtWhy) : List Exchange :=
  let i := 8 * p + b
  let set (o : Nat) : List Word := memWords 0 c.mem.tow (towSets + 512 * i + o) 64
  [Exchange.wr b 0x000C [w32 (c.barge i).dly] why, Exchange.wr b 0x0010 [w32 (c.bargeW i 2)] why,
   Exchange.wr b 0x0100 (set 0) why, Exchange.wr b 0x0200 (set 256) why]

/-- The addressing request ENUM (R259). -/
def enumX (b : Nat) (why : MgmtWhy) : Exchange := ⟨false, false, b, true, 0, 1, [], why, 0⟩

/-- The addressing write ASSIGN (R259). -/
def assignX (beyond addr : Nat) (why : MgmtWhy) : Exchange :=
  ⟨true, true, addr, true, 0x0008, 1, [w32 (beyond * 2 ^ 8 + addr)], why, 0⟩

/-- The barges of a port that PROBE found silent (R260). -/
def Chip.silent (c : Chip) (p : Nat) : List Nat :=
  (c.present p).filter (fun b => !(c.barge (8 * p + b)).answered)

/-- The barges of a port that are good so far. -/
def Chip.goodOnes (c : Chip) (p : Nat) : List Nat := (c.present p).filter (fun b => (c.barge (8 * p + b)).good)

/-- The exchanges a bring-up step begins with (R258). -/
def Chip.stepTodo (c : Chip) (p st : Nat) : List Exchange :=
  match st with
  | 2 | 4 => (c.present p).map (fun b => Exchange.read b 0 1 .step)
  | 3 => [enumX 0 .step]
  | 5 => (c.goodOnes p).flatMap (fun b => rangeReads b .step)
  | 6 => (c.goodOnes p).flatMap (fun b => c.configWrites p b .step)
  | 7 => ((c.goodOnes p).filter (fun b => !(c.barge (8 * p + b)).synced)).map (fun b => Exchange.read b 0x0014 1 .step)
  | _ => []

/-- A bring-up step begins. -/
def Chip.stepBegin (c : Chip) (p st : Nat) : Chip :=
  let c := c.setFld (TOW_PORT_STAT__PSTATE p) st
  let c := if st = 2 then
      c.each (c.present p) (fun c b => (c.setFld (TOW_BSTAT__ADMST (8 * p + b)) 3).setBarge (8 * p + b) Barge.init)
    else c
  c.setPort p { c.port p with todo := c.stepTodo p st, sent := [], stepP := c.poundNum }

/-- A port enters RUN: a barge that passed every step is ADMITTED, any other PRESENT one is left QUARANTINED (R258). -/
def Chip.portRun (c : Chip) (p : Nat) : Chip :=
  let c := (c.setFld (TOW_PORT_STAT__PSTATE p) 8).setPort p { c.port p with todo := [], sent := [], stepP := c.poundNum }
  let c := c.each (c.present p) (fun c b =>
    let i := 8 * p + b
    let x := c.barge i
    if x.good && x.synced then (c.setFld (TOW_BSTAT__ADMST i) 1).setFld (TOW_BSTAT__FAILRUN i) 0
    else c.quarantine p b c.poundNum)
  c.raise TOW_INT_STATUS__BRINGUP

/-- The step after a step that ended; a step with nothing to send ends at once. -/
def Chip.stepNext (c : Chip) (p : Nat) : Nat → Chip
  | 0 => c
  | fuel + 1 =>
    let st := c.pstate p
    if st < 2 ∨ 7 < st then c
    else if (c.port p).todo ≠ [] ∨ (c.port p).sent ≠ [] then c
    else if st = 7 then
      if (c.goodOnes p).all (fun b => (c.barge (8 * p + b)).synced) then c.portRun p else c
    else (c.stepBegin p (st + 1)).stepNext p fuel

/-- A port in bring-up sends its next exchange when none is outstanding and fewer than 8 were sent in this pound
(R257). -/
def Chip.bringKick (c : Chip) (p at_ : Nat) : Chip :=
  let c := c.stepNext p 8
  let x := c.port p
  let n := if x.sentP = c.poundNum then x.sentN else 0
  if c.towMaster && decide (2 ≤ c.pstate p ∧ c.pstate p ≤ 7 ∧ n < 8) && decide (x.sent = []) then
    match x.todo with
    | [] => c
    | e :: t =>
      let c := c.setPort p { x with todo := t, sentP := c.poundNum, sentN := n + 1 }
      c.mgmtOut p at_ e 0 (e.ticks + mgmtWindow)
  else c

/-- At a boundary: ports in SYNC ask again for the STATUS of barges not yet SYNCED, and every port in bring-up goes
on (R258). -/
def Chip.bringBoundary (c : Chip) : Chip :=
  c.each ((List.range 64).filter (fun p => c.flag (TOW_PORT_CFG__EN p))) (fun c p =>
    let x := c.port p
    let c := if c.pstate p = 7 ∧ x.todo = [] ∧ x.sent = [] then c.setPort p { x with todo := c.stepTodo p 7 } else c
    c.bringKick p c.now)

/-- Entry to MOORED: every enabled port begins its bring-up, in LINK or, with its receiver UP, in PROBE (R257, R258). -/
def Chip.bringStart (c : Chip) (p : Nat) : Chip :=
  if c.flag (TOW_PORT_CFG__EN p) then
    let c := c.mgmtDrop p
    let c := c.each (List.range 8) (fun c b =>
      if c.bPresent p b then c else c.setFld (TOW_BSTAT__ADMST (8 * p + b)) 0)
    if c.rxUp p then c.stepBegin p 2
    else
      let c := c.each (c.present p) (fun c b => c.setFld (TOW_BSTAT__ADMST (8 * p + b)) 3)
      c.setFld (TOW_PORT_STAT__PSTATE p) 1
  else c.setFld (TOW_PORT_STAT__PSTATE p) 0

/-- Every port begins its bring-up. -/
def Chip.bringAll (c : Chip) : Chip := c.each (List.range 64) Chip.bringStart

/-- Entry to DRY: the Towpath is silent (R30). -/
def Chip.towDry (c : Chip) : Chip :=
  c.each (List.range 64) (fun c p =>
    let c := (c.setFld (TOW_PORT_STAT__PSTATE p) 0).mgmtDrop p
    c.each (List.range 8) (fun c b => c.setReg (TOW_BSTAT (8 * p + b)) 0))

/-- DLY of four round trips and TRIM (R261); a negative one is written as 0. -/
def dlyOf (rtts : List Int) (trim : Nat) : Nat :=
  (16 + rdivEven (rtts.foldl (· + ·) 0 - 320) 8 + signed 16 trim).toNat

/-- Four round trips span more than 8 ticks. -/
def wideSpan (rtts : List Int) : Bool :=
  let hi := rtts.foldl max (rtts.headD 0)
  let lo := rtts.foldl min (rtts.headD 0)
  decide (8 < hi - lo)

/-- One round trip of a ranging: `some none` while it goes on, `some (some dly)` when it ends, `none` when it fails; and
whether the four reads are repeated (R261). -/
def Chip.rangeSample (c : Chip) (i : Nat) (rtt : Int) : Chip × Option (Option Nat) × Bool :=
  let x := c.barge i
  let r := x.rtts ++ [rtt]
  if r.length < 4 then (c.setBarge i { x with rtts := r }, some none, false)
  else if wideSpan r then
    let c := c.setBarge i { x with rtts := [], spans := x.spans + 1 }
    if 3 ≤ x.spans + 1 then (c, none, false) else (c, some none, true)
  else (c.setBarge i { x with rtts := [], spans := 0, rangedP := some c.poundNum }, some (some (dlyOf r (bits (c.bargeW i 1) 15 0))),
    false)

/-- A barge drops out of the bring-up in progress: its exchanges are no longer sent. -/
def Chip.stepFail (c : Chip) (p b : Nat) : Chip :=
  let i := 8 * p + b
  let c := c.setBarge i { c.barge i with good := false }
  c.setPort p { c.port p with todo := (c.port p).todo.filter (fun x => x.barge != b || x.addressing) }

/-- An exchange of a bring-up step ended: `rsp` is the response's RSTAT, its first data word and the round trip, or none
where it got none (R258, R261). -/
def Chip.stepDone (c : Chip) (p : Nat) (x : Exchange) (rsp : Option (Nat × Nat × Int)) : Chip :=
  let b := x.barge
  let i := 8 * p + b
  let g := c.barge i
  match c.pstate p, rsp with
  | 2, some _ => c.setBarge i { g with answered := true }
  | 4, some (0, w, _) => c.setBarge i { g with good := w == c.bargeW i 0 }
  | 5, some (0, _, rtt) =>
    let r := c.rangeSample i rtt
    match r.2.1 with
    | none => r.1.stepFail p b
    | some (some d) => r.1.setBarge i { r.1.barge i with dly := d }
    | some none =>
      if r.2.2 then r.1.setPort p { r.1.port p with todo := rangeReads b .step ++ (r.1.port p).todo } else r.1
  | 5, _ => c.stepFail p b
  | 6, some (0, _, _) => c
  | 6, _ => c.stepFail p b
  | 7, some (0, w, _) => c.setBarge i { g with synced := bits w 31 30 == 2 }
  | _, _ => c

/-! ## Re-admission and re-ranging (R265, R266) -/

/-- Requests join the port's queue. -/
def Chip.queueX (c : Chip) (p : Nat) (xs : List Exchange) : Chip := c.setPort p { c.port p with queue := (c.port p).queue ++ xs }

/-- A re-admission exchange ends; probing goes on (R256, R266). -/
def Chip.readmitEnd (c : Chip) (i : Nat) : Chip := c.setBarge i { c.barge i with lost := false, probeP := some c.poundNum }

/-- A step of a re-admission ended (R266). -/
def Chip.readmitDone (c : Chip) (p : Nat) (x : Exchange) (st : Nat) (rsp : Option (Nat × Nat × Int)) : Chip :=
  let b := x.barge
  let i := 8 * p + b
  match st, rsp with
  | 2, some _ => c.queueX p [Exchange.read b 0 1 (.readmit 4)]
  | 2, none => c.queueX p [enumX b (.readmit 3)]
  | 3, _ => c.queueX p [Exchange.read b 0 1 (.readmit 4)]
  | 4, some (0, w, _) => if w = c.bargeW i 0 then c.queueX p (rangeReads b (.readmit 5)) else c.readmitEnd i
  | 5, some (0, _, rtt) =>
    let r := c.rangeSample i rtt
    match r.2.1 with
    | none => r.1.readmitEnd i
    | some (some d) =>
      let c := r.1.setBarge i { r.1.barge i with dly := d }
      c.queueX p (c.configWrites p b (.readmit 6))
    | some none => if r.2.2 then r.1.queueX p (rangeReads b (.readmit 5)) else r.1
  | 6, some (0, _, _) => if x.addr = 0x0200 then c.readmitEnd i else c
  | _, _ => c.readmitEnd i

/-- A re-ranging fails: its reads still waiting are dropped, and its barge waits for its next turn (R261, R265). -/
def Chip.rerangeFail (c : Chip) (p b : Nat) : Chip :=
  let c := c.setBarge (8 * p + b) { c.barge (8 * p + b) with rtts := [], spans := 0, force := false }
  c.setPort p { c.port p with queue := (c.port p).queue.filter (fun x => x.why != .rerange || x.barge != b || x.write) }

/-- A re-ranging begins: its four reads join the queue, and the barge's 1,024 pounds begin (R261, R265). -/
def Chip.rerangeStart (c : Chip) (p b : Nat) : Chip :=
  let c := c.setBarge (8 * p + b) { c.barge (8 * p + b) with rtts := [], spans := 0, rangedP := some c.poundNum }
  c.setPort p { c.port p with queue := rangeReads b .rerange, turn := (b + 1) % 8 }

/-- A re-ranging read or write ended: a new DLY that differs by 4 ticks or more, or is due after a takeover, is written, and
is the barge's once the barge has acknowledged it (R265, R452). -/
def Chip.rerangeDone (c : Chip) (p : Nat) (x : Exchange) (rsp : Option (Nat × Nat × Int)) : Chip :=
  let b := x.barge
  let i := 8 * p + b
  match x.write, rsp with
  | false, some (0, _, rtt) =>
    let r := c.rangeSample i rtt
    match r.2.1 with
    | some (some d) =>
      let g := r.1.barge i
      if g.force || decide (4 ≤ (d : Int) - (g.dly : Int) ∨ 4 ≤ (g.dly : Int) - (d : Int)) then
        r.1.queueX p [Exchange.wr b 0x000C [w32 d] .rerange]
      else r.1
    | some none => if r.2.2 then r.1.queueX p (rangeReads b .rerange) else r.1
    | none => r.1.rerangeFail p b
  | true, some (0, _, _) => c.setBarge i { c.barge i with dly := wordAt x.data 0, force := false }
  | _, _ => c.rerangeFail p b

/-! ## MGMT entries (R251) -/

/-- An exchange ended, with or without a response: what it was for goes on. -/
def Chip.mgmtDone (c : Chip) (p : Nat) (x : Exchange) (rsp : Option (Nat × List Word × Int)) : Chip :=
  let r := rsp.map (fun q => (q.1, wordAt q.2.1 0, q.2.2))
  match x.why with
  | .host k =>
    match rsp with
    | some q => c.reply k stOK q.1 (if x.write then [] else q.2.1)
    | none => c.reply k stTIMEOUT 0 []
  | .step => c.stepDone p x r
  | .readmit st => c.readmitDone p x st r
  | .rerange => c.rerangeDone p x r

/-- A MGMT entry at its send tick sends the oldest waiting request of its port, or a re-ranging read where none waits, once
a pound; its record of polls says that it had its turn (R245, R251, R265). -/
def Chip.mgmtSend (c : Chip) (e : Nat) (rx : Option (Nat × Option Nat)) : Chip :=
  let p := c.ePort e
  let c := c.refRelease p
  match c.entryTurn p e with
  | none => c
  | some (n, t) =>
    if c.towMaster && c.flag (TOW_PORT_CFG__EN p) && c.pstate p == 8 && c.eEn e && c.eMgmt e && t == c.now then
      let c := if (c.port p).queue = [] ∧ (c.port p).sent = [] then
          match c.rerangeNext p with
          | some b => c.rerangeStart p b
          | none => c
        else c
      match (c.port p).queue with
      | [] => c
      | x :: rest =>
        let c := c.setPoll e { Poll.init with pound := n }
        let c : Chip := match c.guardCheck p e t rx with
          | none => c.count (TOW_PORT_CNT1__SKIP_CNT p) 1
          | some d =>
            let c := if d = 0 then c else c.count (TOW_PORT_CNT1__SLIP_CNT p) 1
            let closes := if x.addressing then x.ticks + mgmtWindow else c.eClose e
            (c.setPort p { c.port p with queue := rest }).mgmtOut p (t + d) x (if x.addressing then 0 else c.eOpen e) closes
        c.lateDone p e
    else c

/-- MGMT_SEND (R251). -/
def execMgmtSend (t : Nat) (entry : Fin 4096) (rx : Option (Nat × Option Nat)) (s : State) :
    Host.Outcome State Fault Refusal :=
  s.event t (fun c => c.mgmtSend entry.val rx)

/-- A management response: of a request waiting, within its window, it goes to TOW_LAD 0 and completes the request; an
answer to an ENUM is only one of those counted (R239, R251, R259). -/
def Chip.mgmtRsp (c : Chip) (p : Nat) (f : TowFrame) : Chip :=
  if c.rxUp p = false then c
  else if f.valid 5 false = false then c.rxDisc p
  else
    match (c.port p).sent.find? (fun s =>
      s.fid == f.fid && !s.x.bcast && (if s.x.addressing then f.barge == 7 else s.x.barge == f.barge)
        && decide (s.t + s.opens ≤ c.now ∧ c.now ≤ s.t + s.closes)) with
    | none => c.rxDisc p
    | some s =>
      let c := c.ladPacket (.tow 0)
        (wordsBytes (ladPrefix f.fid f.ptag 0xF p f.barge (4 * f.payload.length) ++ f.payload))
      if s.x.addressing then c.setPort p { c.port p with enums := (c.port p).enums + 1 }
      else
        let c := c.setPort p { c.port p with sent := (c.port p).sent.erase s }
        let rtt : Int := (f.sof : Int) - ((s.t + s.x.ticks : Nat) : Int)
        (c.mgmtDone p s.x (some (bits (wordAt f.payload 0) 31 24, f.payload.drop 2, rtt))).bringKick p c.now

/-- MGMT_RSP_RECEIVED (R251). -/
def execMgmtRspReceived (t : Nat) (p : Fin 64) (fr : TowFrame) (s : State) : Host.Outcome State Fault Refusal :=
  s.event t (fun c => c.mgmtRsp p.val fr)

/-- The window of the oldest unanswered exchange of a port closes: a request of a MGMT entry is sent again, at most
three times in all; a broadcast write has then been done (R251). -/
def Chip.mgmtClose (c : Chip) (p : Nat) : Chip :=
  match (c.port p).sent.find? (fun s => !(s.x.addressing && !s.x.bcast) && decide (s.t + s.closes ≤ c.now)) with
  | none => c
  | some s =>
    let c := c.setPort p { c.port p with sent := (c.port p).sent.erase s }
    if s.x.why ≠ .step ∧ s.x.bcast = false ∧ s.x.sends < 3 then
      c.setPort p { c.port p with queue := s.x :: (c.port p).queue }
    else (c.mgmtDone p s.x none).bringKick p c.now

/-- MGMT_WINDOW_CLOSE (R251). -/
def execMgmtWindowClose (t : Nat) (p : Fin 64) (s : State) : Host.Outcome State Fault Refusal :=
  s.event t (fun c => c.mgmtClose p.val)

/-- 20 µs after the ENUM of identifier `fid` its responses are counted and the missing addresses assigned, the nearest barge the lowest; a
re-admission's ENUM that none answered is sent again, three times in all (R251, R260, R266). -/
def Chip.enumEnd (c : Chip) (p fid : Nat) : Chip :=
  match (c.port p).sent.find? (fun s => s.fid == fid && s.x.addressing && !s.x.bcast && decide (s.t + s.closes ≤ c.now)) with
  | none => c
  | some s =>
    let u := (c.port p).enums
    let c := c.setPort p { c.port p with sent := (c.port p).sent.erase s }
    match s.x.why with
    | .readmit _ =>
      if u = 0 ∧ s.x.sends < 3 then c.setPort p { c.port p with queue := s.x :: (c.port p).queue }
      else if u = 0 then c.readmitEnd (8 * p + s.x.barge)
      else (c.setFld (TOW_PORT_STAT__EXTRA p) (min (u - 1) 7)).queueX p [assignX (u - 1) s.x.barge (.readmit 3)]
    | _ =>
      let l := c.silent p
      let c := c.setFld (TOW_PORT_STAT__EXTRA p) (min (u - l.length) 7)
      let xs := (List.range (min u l.length)).map (fun i => assignX (u - 1 - i) (l.getD i 0) .step)
      (c.setPort p { c.port p with todo := xs ++ (c.port p).todo }).bringKick p c.now

/-- ENUM_WINDOW_END (R260). -/
def execEnumWindowEnd (t : Nat) (p : Fin 64) (n : Nat) (s : State) : Host.Outcome State Fault Refusal :=
  s.event t (fun c => c.enumEnd p.val n)

/-- A bring-up step reaches its limit: what it had not done counts as failed for its barges, and the next step begins
(R258). -/
def Chip.stepAtLimit (c : Chip) (p : Nat) : Chip :=
  let st := c.pstate p
  let x := c.port p
  if 2 ≤ st ∧ st ≤ 7 ∧ (stepLimit st : Int) ≤ modDiff 32 c.poundNum x.stepP then
    let left := (x.todo ++ x.sent.map (·.x)).filter (fun e => !e.addressing)
    let c := if st = 5 ∨ st = 6 then
        c.each left (fun c e => c.setBarge (8 * p + e.barge) { c.barge (8 * p + e.barge) with good := false })
      else c
    let c := c.setPort p { x with todo := [], sent := [] }
    (if st = 7 then c.portRun p else c.stepBegin p (st + 1)).bringKick p c.now
  else c

/-- BRINGUP_STEP_LIMIT (R258). -/
def execBringupStepLimit (t : Nat) (p : Fin 64) (s : State) : Host.Outcome State Fault Refusal :=
  s.event t (fun c => c.stepAtLimit p.val)

/-- A receiver becomes UP: a port in LINK or FAILED goes to PROBE (R215, R258). -/
def Chip.receiverUp (c : Chip) (p : Nat) : Chip :=
  let c := c.raise (TOW_PORT_STAT__RX_UP p)
  if c.pstate p = 1 ∨ c.pstate p = 9 then (c.stepBegin p 2).bringKick p c.now else c

/-- RECEIVER_UP (R215). -/
def execReceiverUp (t : Nat) (p : Fin 64) (s : State) : Host.Outcome State Fault Refusal :=
  s.event t (fun c => c.receiverUp p.val)

/-- Bring-up in its steps 2 to 7 FAILS without its receiver (R258). -/
def Chip.bringFail (c : Chip) (p : Nat) : Chip :=
  if 2 ≤ c.pstate p ∧ c.pstate p ≤ 7 then
    (c.setFld (TOW_PORT_STAT__PSTATE p) 9).setPort p { c.port p with todo := [], sent := [] }
  else c

/-- `errs` code errors within 256 characters are counted; four of them, or 100 ns without a transition (`lost`), take a
receiver that is UP DOWN (R214, R215, R258). -/
def Chip.receiverDown (c : Chip) (p errs : Nat) (lost : Bool) : Chip :=
  let c := c.count (TOW_PORT_CNT2__CODE_ERR p) errs
  if c.rxUp p = true ∧ (4 ≤ errs ∨ lost = true) then
    let c := (c.setFld (TOW_PORT_STAT__RX_UP p) 0).count (TOW_PORT_CNT3__LINK_DOWN p) 1
    (c.raise TOW_INT_STATUS__LINK_DOWN).bringFail p
  else c

/-- RECEIVER_DOWN (R215). -/
def execReceiverDown (t : Nat) (p : Fin 64) (errs : RxErrors) (s : State) : Host.Outcome State Fault Refusal :=
  s.event t (fun c => c.receiverDown p.val errs.codes errs.lost)

/-- The bring-up of a port restarts at PROBE, where one whose receiver is DOWN fails (R258, R269). -/
def Chip.bringAgain (c : Chip) (p : Nat) : Chip :=
  if c.flag (TOW_PORT_CFG__EN p) then
    let c := c.mgmtDrop p
    let c := c.each (List.range 8) (fun c b =>
      if c.bPresent p b then c else c.setFld (TOW_BSTAT__ADMST (8 * p + b)) 0)
    let c := c.stepBegin p 2
    if c.rxUp p then c else c.bringFail p
  else c.setFld (TOW_PORT_STAT__PSTATE p) 0

/-- A write of TOW_PORT_CTL_p.BRINGUP: in MOORED the bring-up of an enabled port restarts at PROBE, where one whose receiver
is DOWN fails; in any other state it is ignored with CFG_REJ (R258). -/
def Chip.bringWrite (c : Chip) (p : Nat) : Chip :=
  if c.opState ≠ 1 then c.raise TOW_STATUS__CFG_REJ
  else if c.flag (TOW_PORT_CFG__EN p) then (c.bringAgain p).bringKick p c.now
  else c

/-- TOW_PORT_CTL_BRINGUP (R258). -/
def execTowPortCtlBringup (t : Nat) (ifc : Iface) (p : Fin 64) (s : State) : Host.Outcome State Fault Refusal :=
  s.access t ifc (fun c => c.bringWrite p.val)

/-! ## Commands (R496) and register writes (R270) -/

/-- TOW_MGMT's rules: the request joins the port's queue, and the reply follows its response (R231, R251). -/
def Chip.towMgmt (c : Chip) (k : Intake) : Chip × Answer :=
  let p := k.target.toNat
  let w := wordAt k.payload 0
  let n := bits w 6 0
  let a := wordAt k.payload 1
  let op := bits w 31 30
  if 1 < op ∨ n = 0 ∨ 64 < n then (c, ansArg 0)
  else if a % 4 ≠ 0 ∨ 65535 < a then (c, ansArg 1)
  else if c.pstate p ≠ 8 ∨ c.hasMgmt p = false then (c, ansState)
  else
    let b := bits w 22 20
    (c.queueX p [if op = 1 then Exchange.wr b a (k.payload.drop 2) (.host k) else Exchange.read b a n (.host k)], .defer)

/-- TOW_MGMT (R251). -/
def execTowMgmt (t : Nat) (ifc : Iface) (tag target : Word) (pl : List Word) (s : State) :
    Host.Outcome State Fault Refusal :=
  s.command t 0x0601 ifc tag target pl Chip.towMgmt

/-- TOW_PORT_STAT_p as it reads: QUAR and ADM follow the barges, NO_MGMT the schedule (R266, R270). -/
def Chip.portStat (c : Chip) (p : Nat) : Nat :=
  let mask (st : Nat) : Nat := (List.range 8).foldl (fun m b => if c.admst (8 * p + b) = st then m + 2 ^ b else m) 0
  let w := c.reg (TOW_PORT_STAT p)
  mask 2 * 2 ^ 24 + mask 1 * 2 ^ 16 + bits w 15 13 * 2 ^ 13
    + b2n (c.flag (TOW_PORT_CFG__EN p) && !c.hasMgmt p) * 2 ^ 12 + bits w 11 0

/-- TOW_BARGE_INFO's rules (R496). -/
def Chip.towInfo (c : Chip) (k : Intake) : Chip × Answer :=
  let p := k.target.toNat
  (c, .now stOK 0 ((List.range 8).map (fun b => w32 (c.reg (TOW_BSTAT (8 * p + b)))) ++
    (List.range 8).map (fun b => w32 (c.reg (TOW_BSTATUS (8 * p + b)))) ++
    [w32 (c.portStat p)] ++
    [TOW_PORT_MARGIN p, TOW_PORT_CNT0 p, TOW_PORT_CNT1 p, TOW_PORT_CNT2 p, TOW_PORT_CNT3 p].map (fun o => w32 (c.reg o))))

/-- TOW_BARGE_INFO (R496). -/
def execTowBargeInfo (t : Nat) (ifc : Iface) (tag target : Word) (pl : List Word) (s : State) :
    Host.Outcome State Fault Refusal :=
  s.command t 0x0602 ifc tag target pl Chip.towInfo

/-- A write of TOW_PORT_CFG_p in DRY or MOORED: a port that is disabled has no bring-up state, one that is enabled in MOORED
begins its bring-up (R257, R258, R270). -/
def Chip.portCfgWrite (c : Chip) (p v : Nat) : Chip :=
  let was := c.flag (TOW_PORT_CFG__EN p)
  let c := c.writeBits (TOW_PORT_CFG p) v
  let en := c.flag (TOW_PORT_CFG__EN p)
  if was && !en then (c.mgmtDrop p).setFld (TOW_PORT_STAT__PSTATE p) 0
  else if !was && en && c.opState == 1 && c.drives then (c.bringStart p).bringKick p c.now
  else c

/-- A write of a TOW_ register with a rule of its own; `none` for any other register (R253, R258, R264, R270). -/
def Chip.towWrite (c : Chip) (off v : Nat) : Option Chip :=
  let rej := c.raise TOW_STATUS__CFG_REJ
  let hit (f : Nat → Nat) : Option Nat := (List.range 64).find? (fun i => f i == off)
  if off = TOW_MASTER_CFG then some (if c.opState = 0 then c.writeBits off v else rej)
  else
    match hit TOW_PORT_CFG, hit TOW_PORT_CFG2, hit TOW_PORT_CTL with
    | some p, _, _ => some (if c.dryOrMoored then c.portCfgWrite p v else rej)
    | _, some _, _ => some (if c.dryOrMoored then c.writeBits off v else rej)
    | _, _, some p =>
      let c := if v.testBit 1 then c.mrgRst p else c
      some (if v.testBit 0 then c.bringWrite p else c)
    | _, _, _ => none

end Sys2Proof.Machine
end

