-- ==== Sys2Proof/Machine/Lock.lean ====
section
/-! DEFINITION. Flights: modes and updates, bank swaps and reseeds, pose regions, bank pointers, the flight commands and
the segment queues' commands (R37 to R93, R103 to R106, R151). -/

namespace Sys2Proof.Machine

/-! ## Reseeds and requests (R75, R76, R82 to R84, R151) -/

/-- The words of a reseed job's descriptor: KIND 6, RSLOT f, priority 7 (R151). -/
def reseedDesc (f n : Nat) : List Word :=
  [w32 (6 * 2 ^ 28 + 7 * 2 ^ 16 + f), w32 n] ++ List.replicate 14 0

/-- The reseed job of a flight is offered to the ready list; when it is full the request waits (R151). -/
def Chip.reseedOffer (c : Chip) (f : Nat) : Chip :=
  let x := c.flight f
  match x.reseed with
  | none => c
  | some q =>
    let r := c.submit 0 ⟨1, 7, none, .job f, c.now, .reseed⟩
    if r.2 then
      let stat := r.1.reg (LCK_FSTAT f)
      let j : Job := { Job.new (reseedDesc f (c.intEntries f).length) 2 c.now q.deadline with
        xh := q.job.take (c.fNx f), r := q.job.drop (c.fNx f), slotA := bits stat 19 16, slotB := bits stat 23 20 }
      ((r.1.setJob f j).setFlight f { x with reseed := some { q with waiting := false } }).raise (LCK_FSTAT__RSD_BUSY f)
    else r.1.setFlight f { x with reseed := some { q with waiting := true } }

/-- A reseed request is abandoned: its job is cancelled and its result ignored; a waiting one is discarded (R151). -/
def Chip.reseedDrop (c : Chip) (f : Nat) : Chip :=
  let x := c.flight f
  match x.reseed with
  | none => c
  | some q =>
    let c := (c.setFlight f { x with reseed := none }).setFld (LCK_FSTAT__RSD_BUSY f) 0
    if q.waiting = false ∧ q.ready.isNone then c.stopJob f rsABORTED rsABORTED false else c

/-- RSD_TMO of a flight in ticks (R84, R92). -/
def Chip.rsdTicks (c : Chip) (f : Nat) : Nat := max (bits (c.lckW (0xA800 + 16 * f + 8)) 3 0) 1 * 800000

/-- A request for a bank slot (R76): the active slot withdraws, any other replaces what is pending; with RESEED its job is
submitted with the stored x̂ and the set-points of the last update (R82). A standby takes the applied values from the ledger
and submits no job (R83). -/
def Chip.requestBank (c : Chip) (f slot : Nat) (reseed : Bool) : Chip :=
  let c := c.reseedDrop f
  if slot = c.fld (LCK_FSTAT__ACTIVE f) then c.setFld (LCK_FSTAT__PEND_V f) 0
  else
    let c := (c.setFld (LCK_FSTAT__PENDING f) slot).raise (LCK_FSTAT__PEND_V f)
    let x := c.flight f
    let c := c.setFlight f { x with swapReg := c.now }
    if reseed && c.drives then
      let q : Reseed := { reg := c.now, deadline := c.now + c.rsdTicks f, waiting := true, ready := none,
                          job := padTo (c.fNx f) x.xh ++ padTo (c.fNu f) x.r }
      (c.setFlight f { c.flight f with reseed := some q }).reseedOffer f
    else c

/-- BANK_MISS: the swap is not made (R79, R81). -/
def Chip.bankMiss (c : Chip) (f : Nat) : Chip :=
  ((c.setFld (LCK_FSTAT__PEND_V f) 0).raise (LCK_FSTAT__BANK_MISS f)).raise LCK_INT_STATUS__BANK_MISS

/-- RESEED_RETRY: a waiting request is offered again until its time-out (R84, R151). -/
def execReseedRetry (t : Nat) (f : Fin 32) (s : State) : Host.Outcome State Fault Refusal :=
  s.event t (fun c =>
    match (c.flight f.val).reseed with
    | some q => if q.waiting && decide (c.now ≤ q.deadline + 256) then c.reseedOffer f.val else c
    | none => c)

/-- The time-out tick of a reseed without a result: the swap is made without reseed (R84). -/
def Chip.reseedTimeout (c : Chip) (f : Nat) : Chip :=
  match (c.flight f).reseed with
  | none => c
  | some q =>
    let c := c.at (q.deadline + 256)
    if q.ready.isSome then c
    else
      let stop := decide (q.waiting = false)
      let c := c.setFlight f { c.flight f with
        reseed := some { q with waiting := false, ready := some (q.deadline + 256, none) } }
      let c := if stop then c.stopJob f rsABORTED rsABORTED false else c
      (c.setFld (LCK_FSTAT__RSD_BUSY f) 0).raise LCK_INT_STATUS__RESEED_FAIL

/-- RESEED_TIMEOUT (R84). -/
def execReseedTimeout (f : Fin 32) (s : State) : Host.Outcome State Fault Refusal :=
  s.event s.chip.now (fun c => c.reseedTimeout f.val)

/-! ## Ready ticks and units (R23, R52, R53, R544) -/

/-- The tick from which a position channel's value of this pound is complete, if it is. -/
def Chip.chanReady (c : Chip) (ch : Nat) : Option Nat :=
  let x := c.chan ch
  let ty := c.chType ch
  if ty = 0 ∨ 4 < ty then some c.pnd.start
  else if ty = 3 then c.towChanReady ch
  else if x.availP = some c.poundNum then some x.availT
  else none

/-- The tick from which a measurement is complete, if it is. -/
def Chip.measReady (c : Chip) (f m : Nat) : Option Nat :=
  let src := c.measSrc f m
  if c.measQty f m = 2 then c.auxReady src else c.chanReady src

/-- The last tick of the pound. -/
def Chip.lastTick (c : Chip) : Nat := c.pnd.start + c.poundLen - 1

/-- The ready tick of a flight due in this pound, once it is reached (R23 item 3, R544). -/
def Chip.readyTick (c : Chip) (f : Nat) : Option Nat :=
  let r := (List.range (c.fNy f)).foldl (fun m i => laterTick m (c.measReady f i)) (some c.pnd.start)
  match r with
  | some t => some (min t c.lastTick)
  | none => if c.lastTick ≤ c.now then some c.lastTick else none

/-- The lock units of a flight (R52). -/
def Chip.fUnits (c : Chip) (f : Nat) : List Nat := if c.fPair f then [c.fUnit f, c.fUnit f + 1] else [c.fUnit f]

/-- Two flights share a unit. -/
def Chip.shareUnit (c : Chip) (f g : Nat) : Bool := (c.fUnits f).any (fun u => (c.fUnits g).contains u)

/-- The flight's updates run: it has a mode, or it enters TRACK with its first due update (R61, R63, R81). -/
def Chip.fActive (c : Chip) (f : Nat) : Bool :=
  let x := c.flight f
  !x.idleOut && (c.fMode f != 0 || x.wantTrack)

/-- The flight is due in this pound and its update has not started. -/
def Chip.fWaits (c : Chip) (f : Nat) : Bool :=
  c.pnd.due.contains f && c.fActive f && decide ((c.flight f).startedP ≠ some c.poundNum)

/-- The ready tick of the update of f that comes next: one owed from an ended pound, or this pound's (R24, R53). -/
def Chip.waitTick (c : Chip) (f : Nat) : Option Nat := match (c.flight f).owed with
  | o :: _ => if c.fActive f then some o.ready else none
  | [] => if c.fWaits f then c.readyTick f else none

/-- Every flight on the units of f has left them. -/
def Chip.unitsIdle (c : Chip) (f : Nat) : Bool :=
  c.enFlights.all (fun g => !c.shareUnit f g || ((c.flight g).upd.isNone && decide ((c.flight g).freeT ≤ c.now)))

/-- No other waiting flight on the units goes first: an earlier ready tick, or an equal one and a lower number (R53). -/
def Chip.firstInLine (c : Chip) (f t : Nat) : Bool :=
  c.enFlights.all (fun g => g == f || !c.shareUnit f g ||
    (match c.waitTick g with
     | some r => decide (t < r) || (r == t && decide (f < g))
     | none => true))

/-- The update of flight f that became ready in tick `t` may start: the tick has come, its units are idle and it is first
in line (R53). -/
def Chip.mayStart (c : Chip) (f t : Nat) : Bool :=
  c.drives && decide (t ≤ c.now) && c.unitsIdle f && c.firstInLine f t

/-- The cycles of an update (R54). -/
def updateCycles (nx nu ny : Nat) (pair : Bool) : Nat :=
  let b (rows : Nat) : Nat := if pair then ceilDiv (ceilDiv rows 8) 2 else ceilDiv rows 8
  48 + ny + nu + (10 + b ny * (nx + 4)) + (10 + b nx * (nx + nu + ny + 4)) + (10 + b nu * (nx + nu + 4))
    + (if pair then 24 else 0)

/-! ## The start of an update (R53, R62 to R68, R77 to R83) -/

/-- The mode an update of pound `n` runs in: the transition registered for it, the highest first (R63, R88). DESIGN CHOICE: in
TRACK a start that is due comes before the return to TRACK that BANK_ECC without a usable fallback asks for (R90; log
entry 128). -/
def Chip.nextMode (c : Chip) (f n : Nat) : Nat :=
  let x := c.flight f
  let reached (p : Option Nat) : Bool := match p with
    | some k => decide (0 ≤ modDiff 32 n k)
    | none => false
  match c.fMode f with
  | 0 => if x.wantTrack then 1 else 0
  | 1 => if reached x.startAt then 2 else 1
  | 2 => if x.wantTrack then 1 else if x.wantRamp then 4 else if x.wantHold then 3 else 2
  | 3 => if x.wantTrack then 1 else if x.wantRamp then 4 else if reached x.resumeAt then 2 else 3
  | _ => if x.wantTrack || c.flag (LCK_FSTAT__STILL f) then 1 else 4

/-- A slot may be made active: VALID and not marked failed (R81, R90). -/
def Chip.bankUsable (c : Chip) (f slot : Nat) : Bool := c.bankValid f slot && !c.bankFailed f slot

/-- The bank slot at entry to TRACK from IDLE (R81): INIT_SLOT, or the lowest VALID one with BANK_MISS; a slot marked failed
under R90 counts for neither; with none the flight stays in IDLE. The truth value says that the flight enters. -/
def Chip.enterTrack (c : Chip) (f : Nat) : Chip × Bool :=
  let init := bits (c.fCtl f) 3 0
  let c0 := c.setFld (LCK_FSTAT__REGION_V f) 0
  if c.bankUsable f init then (c0.setFld (LCK_FSTAT__ACTIVE f) init, true)
  else
    match (List.range 16).find? (c.bankUsable f) with
    | some b =>
      (((c0.setFld (LCK_FSTAT__ACTIVE f) b).raise (LCK_FSTAT__BANK_MISS f)).raise LCK_INT_STATUS__BANK_MISS, true)
    | none =>
      ((c.setFlight f { c.flight f with idleOut := true, wantTrack := false }).raise LCK_STATUS__CFG_REJ, false)

/-- The flight takes its new mode: the transition's own effects (R63, R65, R106). -/
def Chip.takeMode (c : Chip) (f m : Nat) : Chip :=
  let old := c.fMode f
  if m = old then c.setFlight f { c.flight f with wantTrack := false }
  else
    let c := c.setFld (LCK_FSTAT__MODE f) m
    let c := c.setFlight f { c.flight f with
      wantTrack := false, wantRamp := false, wantHold := false, startAt := none, resumeAt := none, firstRun := decide (old = 1 ∧ m = 2) }
    if m = 1 ∧ 2 ≤ old then c.clearQueue f else c

/-- The swap pending at the start of an update: made, missed or still held by its reseed (R77, R79, R83, R84). The second
value are the reseed's integral values to apply; the third says that a swap was made. -/
def Chip.swapAtStart (c : Chip) (f : Nat) : Chip × Option (List Int) × Bool :=
  let x := c.flight f
  let slot := c.fld (LCK_FSTAT__PENDING f)
  let due : Option (Option (List Int)) :=
    if c.flag (LCK_FSTAT__PEND_V f) = false then none
    else
      match x.reseed with
      | none => if x.swapReg < c.now then some none else none
      | some q =>
        match q.ready with
        | some r => if r.1 < c.now then some r.2 else none
        | none => none
  match due with
  | none => (c, none, false)
  | some vals =>
    let c := c.setFlight f { c.flight f with reseed := none }
    if c.bankUsable f slot = false then (c.bankMiss f, none, false)
    else
      let old := c.fld (LCK_FSTAT__ACTIVE f)
      let c := ((c.setFld (LCK_FSTAT__ACTIVE f) slot).setFld (LCK_FSTAT__PEND_V f) 0).raise LCK_INT_STATUS__SWAP_DONE
      (c.logEvent 7 (w32 f) (w32 old) (w32 slot), vals, true)

/-- The age of a measurement at the start of an update: a value not delivered in this pound has grown one pound older, and
one whose last delivery lies before the flight's start has age 255 (R46, R47, R190, R544). DEDUCED: the flight starts in
the pound in which it is to leave IDLE (log entry 103). -/
def Chip.measAge (c : Chip) (f m : Nat) : Nat :=
  let src := c.measSrc f m
  let age (a : Nat) (p : Option Nat) : Nat := if p = some c.poundNum then a else min (a + 1) 255
  let a := if c.measQty f m = 2 then age (c.auxW src).age (c.auxW src).availP
    else age (c.fld (POS_CH_STAT__AGE src)) (c.chan src).availP
  match (c.flight f).startN with
  | some n => if c.pnd.turns < n + a then 255 else a
  | none => a

/-- The update of flight f in this pound, with its measurements and targets as they stand now (R45, R105). -/
def Chip.dueUpdate (c : Chip) (f ready : Nat) : Owed :=
  { pound := c.poundNum, ready := ready, conv := (List.range (c.fNy f)).map (c.convert f),
    age := (List.range (c.fNy f)).map (c.measAge f), tgt := (List.range (c.fNu f)).map (fun k => (c.axis (c.fAxis f k)).tgt) }

/-- In the last tick of a pound every flight whose update has not started is owed it, with the measurements of that pound
(R24, R53, R544). -/
def Chip.owedKeep (c : Chip) : Chip :=
  if c.drives then
    let c := c.at c.lastTick
    c.each (c.pnd.due.filter c.fWaits) (fun c f =>
      c.setFlight f { c.flight f with
        startedP := some c.poundNum,
        owed := (c.flight f).owed ++ [c.dueUpdate f ((c.readyTick f).getD c.lastTick)] })
  else c

/-- The limiters of a flight step for an update (R66, R67) towards its targets: the set-points, and whether RATE clamped on
an input. -/
def Chip.limiters (c : Chip) (f mode : Nat) (first : Bool) (o : Owed) : Chip × List Int × Bool :=
  (List.range (c.fNu f)).foldl (fun (acc : Chip × List Int × Bool) k =>
    let a := c.fAxis f k
    let r := acc.1.limit a mode first (o.tgt.getD k 0) (acc.1.tracked f a (o.conv.map (·.1)) o.age)
    (acc.1.setAxis a r.1, acc.2.1 ++ [r.1.r], acc.2.2 || r.2)) (c, [], false)

/-- x̂(j−1) and u(j−1) as the update reads them: the initialisation of R65 and the reseed's values of R83. -/
def Chip.updInputs (c : Chip) (f : Nat) (first : Bool) (xi : Option (List Int)) : List Int × List Int :=
  let x := c.flight f
  let ints := c.intStates f
  let xh := padTo (c.fNx f) x.xh
  let xh := if first && !(c.fCtl f).testBit 14 then
      xh.zipIdx.map (fun e => if ints.contains e.2 then 0 else e.1)
    else xh
  let xh := match xi with
    | some vs => (ints.zip vs).foldl (fun l e => l.set e.1 e.2) xh
    | none => xh
  (xh, if first then List.replicate (c.fNu f) 0 else padTo (c.fNu f) x.u)

/-- FLIGHT_UPDATE_START: the flight's mode and bank for this update are fixed and its limiters stepped (R45, R53, R62 to R68,
R77 to R83). An update owed from an ended pound is late (R24). -/
def Chip.updateStart (c : Chip) (f : Nat) (o : Owed) : Chip :=
  let enter := if c.fMode f = 0 then c.enterTrack f else (c, true)
  if enter.2 = false then enter.1
  else
    let c := enter.1
    let c := c.takeMode f (c.nextMode f o.pound)
    let mode := c.fMode f
    let first := (c.flight f).firstRun
    let sw := c.swapAtStart f
    let c := sw.1
    let y := o.conv.map (·.1)
    let inp := c.updInputs f first sw.2.1
    let lim := c.limiters f mode first o
    let c := lim.1
    let zero := (List.range (c.fNu f)).all (fun k => decide ((c.axis (c.fAxis f k)).s = 0))
    let u : Upd :=
      { start := c.now, done := c.now + updateCycles (c.fNx f) (c.fNu f) (c.fNy f) (c.fPair f), pound := o.pound,
        mode := mode, slot := c.fld (LCK_FSTAT__ACTIVE f), y := y, age := o.age, r := lim.2.1, x := inp.1, u := inp.2,
        conv := o.conv.any (·.2), slew := lim.2.2, zero := zero, xi := sw.2.1, swapped := sw.2.2,
        late := decide (o.pound ≠ c.poundNum) || decide (c.pnd.start + c.P / 2 ≤ c.now) || c.handSilent }
    c.setFlight f { c.flight f with upd := some u, startedP := some o.pound, firstRun := false }

/-- The next update of flight f starts where it may: one owed from an ended pound before this pound's (R24, R53). -/
def Chip.updateTurn (c : Chip) (f : Nat) : Chip :=
  match c.waitTick f with
  | none => c
  | some r =>
    if c.mayStart f r then
      match (c.flight f).owed with
      | o :: rest => (c.setFlight f { c.flight f with owed := rest }).updateStart f o
      | [] => c.updateStart f (c.dueUpdate f r)
    else c

/-- FLIGHT_UPDATE_START (R53): in its ready tick, or in the first tick at which its units are idle. -/
def execFlightUpdateStart (t : Nat) (f : Fin 32) (s : State) : Host.Outcome State Fault Refusal :=
  s.event t (fun c => c.updateTurn f.val)

/-! ## Pose regions (R80) -/

/-- Word i of a region entry (R92). -/
def Chip.regW (c : Chip) (f g i : Nat) : Nat := c.lckW (0x8000 + 256 * f + 16 * g + 4 * i)

/-- The measurements a region names. -/
def Chip.regMeas (c : Chip) (f g : Nat) : List Nat :=
  let w := c.regW f g 0
  if w.testBit 29 then [bits w 4 0, bits w 12 8] else [bits w 4 0]

/-- The region is enabled, names measurements of the flight, and they lie in its box widened by `h`. -/
def Chip.regIn (c : Chip) (f g : Nat) (y : List Int) (h : Int) : Bool :=
  let w := c.regW f g 0
  let inside (b : Nat) (m : Nat) : Bool :=
    decide (signed 16 b - h ≤ y.getD m 0 ∧ y.getD m 0 ≤ signed 16 (b / 2 ^ 16) + h)
  w.testBit 31 && (c.regMeas f g).all (fun m => decide (m < c.fNy f)) && inside (c.regW f g 1) (bits w 4 0)
    && (!w.testBit 29 || inside (c.regW f g 2) (bits w 12 8))

/-- The region evaluation after an update (R80). -/
def Chip.regions (c : Chip) (f : Nat) (y : List Int) (age : List Nat) : Chip :=
  if (c.fCtl f).testBit 15 = false then c
  else
    let en := (List.range 16).filter (fun g => (c.regW f g 0).testBit 31)
    let frz := c.fAgeFrz f
    let frozen := en.any (fun g => (c.regMeas f g).any (fun m =>
      decide (m < c.fNy f ∧ frz ≠ 0 ∧ frz ≤ age.getD m 0)))
    let act := c.fld (LCK_FSTAT__ACT_REGION f)
    let holds := c.flag (LCK_FSTAT__REGION_V f) && c.regIn f act y (bits (c.regW f act 3) 15 0 : Nat)
    if frozen || holds then c
    else
      match (List.range 16).find? (fun g => c.regIn f g y 0) with
      | none => c
      | some g =>
        let w := c.regW f g 0
        let slot := bits w 19 16
        let c := (c.setFld (LCK_FSTAT__ACT_REGION f) g).raise (LCK_FSTAT__REGION_V f)
        if c.bankValid f slot then c.requestBank f slot (w.testBit 30) else (c.reseedDrop f).bankMiss f

/-! ## The end of an update (R47, R54, R56, R57, R60, R62, R64, R67, R70 to R74, R87 to R90) -/

/-- The FLIGHT record of an update enters the ledger (R60, R443). `raised` are the flags, `faults` the fault bits. DESIGN
CHOICE: an update that completes after its own pound is recorded in the pound in which it completes, since the ledger of
its own pound is frozen by then (log entry 104). -/
def Chip.flightRecord (c : Chip) (f : Nat) (u : Upd) (raised faults : Nat) (gone : Bool) : Chip :=
  let x := c.flight f
  let clear := match x.cleared with
    | some p => if p.1 = c.poundNum then some p.2 else none
    | none => none
  let w0 := b2n (c.flag (LCK_FSTAT__PARKED f)) * 2 ^ 25 + b2n clear.isSome * 2 ^ 24 + b2n u.xi.isSome * 2 ^ 23
    + b2n u.swapped * 2 ^ 22 + b2n gone * 2 ^ 21 + b2n u.late * 2 ^ 20 + faults % 16 * 2 ^ 16 + raised % 16 * 2 ^ 12
    + u.slot * 2 ^ 8 + u.mode * 2 ^ 5 + f
  let r : FlightRec := { f := f, w0 := w32 w0, ages := u.age, y := u.y, r := u.r, x := x.xh, u := x.u,
                         xi := u.xi.getD [], clear := clear }
  (c.setFlight f { x with cleared := none }).ledger (.flight r)

/-- STILL and SLEWING after an update (R64, R67). -/
def Chip.stillAfter (c : Chip) (f : Nat) (u : Upd) : Chip :=
  let x := c.flight f
  let n := if u.zero then min (x.stillRun + 1) 8 else 0
  let c := c.setFlight f { x with stillRun := n }
  let c := if n = 8 ∧ c.flag (LCK_FSTAT__STILL f) = false then c.raise LCK_INT_STATUS__STANDSTILL else c
  (c.setFlag (LCK_FSTAT__STILL f) (n == 8)).setFlag (LCK_FSTAT__SLEWING f) u.slew

/-- MEAS_AGE of an update's ages, counted (R47, R87). -/
def Chip.measFault (c : Chip) (f : Nat) (age : List Nat) : Chip × List (Fld × Nat) :=
  let mx := c.fAgeMax f
  if mx ≠ 0 ∧ age.any (fun a => decide (mx < a)) = true then
    (c.count (LCK_FCNT__AGE_CNT f) 1, [(LCK_FSTAT__MEAS_AGE f, c.rAge f)])
  else (c, [])

/-- The fault bits as a FLIGHT record carries them: OVERRUN, MEAS_AGE, BANK_ECC, SATURATION in bits 3 … 0 (R443). -/
def recFaults (f : Nat) (late : Bool) (l : List (Fld × Nat)) : Nat :=
  let has (x : Fld) : Nat := b2n (l.any (fun e => decide (e.1 = x)))
  8 * b2n late + 4 * has (LCK_FSTAT__MEAS_AGE f) + 2 * has (LCK_FSTAT__BANK_ECC f) + has (LCK_FSTAT__SATURATION f)

/-- The ECC word read during an update is counted (R56, R540). -/
def Chip.lckEcc (c : Chip) (ue : Bool) (addr : Nat) : Chip :=
  if ue then
    (((c.count LCK_ECC_CNT__UE_CNT 1).raise LCK_INT_STATUS__ECC_UE).logEvent 16 0 (w32 addr) 0).logTrigger 4
  else (c.count LCK_ECC_CNT__CE_CNT 1).raise LCK_INT_STATUS__ECC_CE

/-- What follows every update, an abandoned one too: in TRACK each axis's target takes its tracked value, the stored commands
reach the capture units, and the regions are evaluated (R80, R106, R297). DEDUCED: an abandoned update is an update (log
entry 131). -/
def Chip.updateAfter (c : Chip) (f : Nat) (u : Upd) : Chip :=
  let c := c.each (List.range (c.fNu f)) (fun c k =>
    let a := c.fAxis f k
    let c := if u.mode = 1 then c.setAxis a { c.axis a with tgt := u.r.getD k 0 } else c
    c.capCommand a ((c.flight f).u.getD k 0))
  c.regions f u.y u.age

/-- An update abandoned on an uncorrectable error, at an address the step does not carry, a free value: the stored x̂ and u
stay, no command is sent, and the flight takes the reaction of R90.
DESIGN CHOICE: a measurement that clamped in its conversion sets no SAT_STORE in an abandoned update, and its record carries
no flag (log entry 105). -/
def Chip.updateAbandon (c : Chip) (f : Nat) (u : Upd) (bank : Bool) : Chip :=
  let c := c.freeWord.1.lckEcc true c.freeWord.2.toNat
  let c := if bank then c.raiseBit (LCK_FSTAT2 f) (16 + u.slot) else c
  let m := c.measFault f u.age
  let faults := (LCK_FSTAT__BANK_ECC f, 0) :: m.2
  let c := (m.1.flightRecord f u 0 (recFaults f u.late faults) true).updateAfter f u
  let fb := bits (c.fCtl f) 11 8
  if bank = false then c.raiseFaults f ((LCK_FSTAT__BANK_ECC f, c.rEcc f) :: m.2)
  else if (c.fCtl f).testBit 13 && c.bankValid f fb && !c.bankFailed f fb then
    (c.requestBank f fb false).raiseFaults f ((LCK_FSTAT__BANK_ECC f, c.rEcc f) :: m.2)
  else
    let c := c.raiseFaults f ((LCK_FSTAT__BANK_ECC f, 0) :: m.2)
    c.setFlight f { c.flight f with wantTrack := true }

/-- The command words of an update enter the command buffer; a late update's are discarded (R24, R57, R62). -/
def Chip.putCommands (c : Chip) (f : Nat) (u : Upd) (cmd : List Int) : Chip :=
  if u.late then c
  else
    let d : AxisCmd := ⟨0, false, 2 ^ 32⟩
    c.each (List.range (c.fNu f)) (fun c k =>
      let w : AxisCmd := ⟨if u.mode = 1 then 0 else cmd.getD k 0, u.mode != 1, u.pound⟩
      { c with lck := { c.lck with cmds := tabPut (fun _ => d) (c.fAxis f k) w c.lck.cmds } })

/-- The stored command after an update: what the barges hold (R57, R62). -/
def storedU (u : Upd) (cmd : List Int) : List Int :=
  if u.late then u.u else if u.mode = 1 then cmd.map (fun _ => 0) else cmd

/-- An update's results are stored, its flags and faults raised, and the ledger written. -/
def Chip.updateStore (c : Chip) (f : Nat) (u : Upd) : Chip :=
  let o := c.law (c.bankBase f u.slot) (c.lawIn f u.x u.u u.y u.age u.r)
  let c := c.setFlight f { c.flight f with xh := o.x, u := storedU u o.u, r := u.r }
  let c := c.putCommands f u o.u
  let c := c.setFld (LCK_FSTAT2__INT_BOUND f) o.bound
  let sat := o.sat ||| (2 * b2n u.conv)
  let s := c.setSat f sat
  let m := s.1.measFault f u.age
  let faults := m.2 ++ (if s.2 then [(LCK_FSTAT__SATURATION f, c.rSat f)] else [])
  let c := m.1.flightRecord f u sat (recFaults f u.late faults) false
  (c.raiseFaults f faults).updateAfter f u

/-- Every flight is at standstill (R64). -/
def Chip.allStill (c : Chip) : Bool :=
  c.enFlights.all (fun f => decide (c.fMode f ≤ 1) || c.flag (LCK_FSTAT__STILL f))

/-- In HALTED the control side's request for enable ends once all flights report standstill (R30, R366). -/
def Chip.haltDone (c : Chip) : Chip :=
  if c.weir.haltReq && c.allStill then (c.setWeir (fun w => { w with haltReq := false })).weirRefresh else c

/-- FLIGHT_UPDATE_COMPLETE (R54): the update in progress ends in its done tick. -/
def Chip.updateComplete (c : Chip) (f : Nat) (ecc : BankEcc) : Chip :=
  match (c.flight f).upd with
  | none => c
  | some u =>
    if c.now < u.done then c
    else
      let c := c.setFlight f { c.flight f with upd := none, doneP := some u.pound, freeT := c.now + 1 }
      let c := if ecc = .corrected then c.lckEcc false 0 else c
      let c := (c.stillAfter f u).haltDone
      if ecc = .bank then c.updateAbandon f u true
      else if ecc = .stored then c.updateAbandon f u false
      else c.updateStore f u

/-- FLIGHT_UPDATE_COMPLETE (R54). -/
def execFlightUpdateComplete (t : Nat) (f : Fin 32) (ecc : BankEcc) (s : State) : Host.Outcome State Fault Refusal :=
  s.event t (fun c => c.updateComplete f.val ecc)

/-- At the command release every flight due whose update has not completed overruns (R24, R87). -/
def Chip.overruns (c : Chip) : Chip :=
  c.each c.pnd.due (fun c f =>
    if c.fActive f && (decide ((c.flight f).doneP ≠ some c.poundNum) || c.handSilent) then
      let x := c.flight f
      let c := c.setFlight f { x with upd := x.upd.map (fun u => { u with late := true }) }
      let c := (c.raise SYS_POUND_STATUS__OVERRUN).count (LCK_FCNT__OVR_CNT f) 1
      c.raiseFaults f [(LCK_FSTAT__OVERRUN f, c.rOvr f)]
    else c)

/-! ## Bank pointers (R49, R85, R86, R90) -/

/-- The extent of a bank: first byte and size. -/
def Chip.bankExt (c : Chip) (f ptr : Nat) : Nat × Nat := (16 * bits ptr 17 0, bankSize (c.fNx f) (c.fNu f) (c.fNy f))

/-- Every VALID bank of a configured flight: flight, slot, pointer. -/
def Chip.validBanks (c : Chip) : List (Nat × Nat × Nat) :=
  c.enFlights.flatMap (fun f => ((List.range 16).filter (c.bankValid f)).map (fun b => (f, b, c.bankPtr f b)))

/-- Check 7 of a bank against every other VALID bank. -/
def Chip.bankCheck7 (c : Chip) (f slot ptr : Nat) : Bool :=
  let e := c.bankExt f ptr
  decide (e.1 + e.2 ≤ 2 ^ 22) && c.validBanks.all (fun o =>
    (o.1 == f && o.2.1 == slot) ||
      (let g := c.bankExt o.1 o.2.2
       decide (g = e) || decide (g.1 + g.2 ≤ e.1 ∨ e.1 + e.2 ≤ g.1)))

/-- Checks 8, 9 and 10 of a bank: header, body CRC, exponents. -/
def Chip.bankCheck (c : Chip) (f ptr code : Nat) : Bool :=
  let e := c.bankExt f ptr
  let h := (memWord 0 c.mem.bank e.1).toNat
  match code with
  | 8 => bits h 31 24 == 1 && bits h 23 16 == c.fNy f && bits h 15 8 == c.fNu f && bits h 7 0 == c.fNx f
      && bits (memWord 0 c.mem.bank (e.1 + 4)).toNat 17 0 == (e.2 - 64) / 16
  | 9 => crc32 (memBytes 0 c.mem.bank (e.1 + 64) (e.2 - 64)) == memWord 0 c.mem.bank (e.1 + 8)
  | _ => (List.range (c.fNy f + 3 * c.fNx f + 2 * c.fNu f)).all (fun i =>
      let x := signed 8 (tabGet (fun _ => (0 : Byte)) c.mem.bank (e.1 + 64 + i)).toNat
      decide (-8 ≤ x ∧ x ≤ 15))

/-- The first of checks 7 to 10 that a bank pointer fails (R86). -/
def Chip.bankFails (c : Chip) (f slot ptr : Nat) : Option Nat :=
  if c.bankCheck7 f slot ptr = false then some 7
  else [8, 9, 10].find? (fun k => !c.bankCheck f ptr k)

/-- A word of the Lock engine window written. -/
def Chip.setLckW (c : Chip) (off v : Nat) : Chip :=
  { c with mem := { c.mem with lck := memWriteWords 0 off [w32 v] c.mem.lck } }

/-- BANK_POINTER_CHECK_DONE: the checks of a written pointer end (R86, R90). -/
def Chip.pointerCheckDone (c : Chip) (f slot : Nat) : Chip :=
  match c.lck.check.find? (fun e => e.1 == f && e.2.1 == slot) with
  | none => c
  | some e =>
    let c := { c with lck := { c.lck with check := c.lck.check.filter (fun g => !(g.1 == f && g.2.1 == slot)) } }
    match c.bankFails f slot e.2.2.1.toNat with
    | none =>
      (c.setLckW (0x1000 + 64 * f + 4 * slot) e.2.2.1.toNat).setFld ⟨LCK_FSTAT2 f, 16 + slot, 16 + slot⟩ 0
    | some k =>
      let c := (c.raise LCK_STATUS__BANK_REJ).raise LCK_INT_STATUS__BANK_REJ
      c.setReg LCK_BANK_REJ (k * 2 ^ 16 + slot * 2 ^ 8 + f)

/-- BANK_POINTER_CHECK_DONE (R86). -/
def execBankPointerCheckDone (t : Nat) (f : Fin 32) (slot : Fin 16) (s : State) : Host.Outcome State Fault Refusal :=
  s.event t (fun c => c.pointerCheckDone f.val slot.val)

/-- A slot is active or pending for its flight. DESIGN CHOICE: a flight in IDLE runs on no bank, so that the slot it last had
active is not active (R86; log entry 129). -/
def Chip.slotInUse (c : Chip) (f slot : Nat) : Bool :=
  (c.fEn f && c.fMode f != 0 && c.fld (LCK_FSTAT__ACTIVE f) == slot) ||
    (c.flag (LCK_FSTAT__PEND_V f) && c.fld (LCK_FSTAT__PENDING f) == slot)

/-- The bits of a word of the Lock engine window that are not reserved (R8, R48, R92). -/
def lckMask (off : Nat) : Nat :=
  let all := 2 ^ 32 - 1
  if off < 0x0800 then
    let o := off % 64
    if o = 0 then 0xFEF00000 else if o = 4 then 0x003F1F7F else if o = 8 then 0xFFFF
    else if 0x10 ≤ o ∧ o < 0x20 then all else 0
  else if off < 0x1000 then 0x800F1F3F
  else if off < 0x1800 then 0x8003FFFF
  else if off < 0x4000 then 0
  else if off < 0x8000 then
    let o := off % 16
    if o = 0 then 0x001F0FFF else if o = 4 then all else if o = 8 then 0xFFFF else 0
  else if off < 0xA000 then
    let o := off % 16
    if o = 0 then 0xE00F1F1F else if o = 12 then 0xFFFF else all
  else if off < 0xA800 then (if off % 8 = 0 then all else 0x801F0000)
  else if off < 0xAA00 then
    let o := off % 16
    if o = 0 then 0xFFF0EF0F else if o = 4 then all else if o = 8 then 0xF else 0
  else 0

/-- A write of a word of the Lock engine window by CFG_WRITE: applied, or ignored with CFG_REJ. The truth value says that
it was accepted (R48, R85, R86, R90). DESIGN CHOICE: in DRY, where a pointer is not checked, the write itself ends the mark
of a failed slot (log entry 130). -/
def Chip.lckWindowWrite (c : Chip) (off v : Nat) : Chip × Bool :=
  let rej := (c.raise LCK_STATUS__CFG_REJ, false)
  if 0x1000 ≤ off ∧ off < 0x1800 then
    let f := (off - 0x1000) / 64
    let slot := (off - 0x1000) % 64 / 4
    let keep := v &&& 0x8003FFFF
    let unmark (c : Chip) : Chip := c.setFld ⟨LCK_FSTAT2 f, 16 + slot, 16 + slot⟩ 0
    let uncheck (c : Chip) : Chip :=
      { c with lck := { c.lck with check := c.lck.check.filter (fun g => !(g.1 == f && g.2.1 == slot)) } }
    if c.opState = 0 then (unmark (uncheck (c.setLckW off keep)), true)
    else if c.slotInUse f slot then rej
    else if keep.testBit 31 then
      let c := (uncheck c).setLckW off (keep % 2 ^ 31)
      ({ c with lck := { c.lck with check := c.lck.check ++ [(f, slot, w32 keep, c.now)] } }, true)
    else (unmark (uncheck (c.setLckW off keep)), true)
  else if c.dryOrMoored then (c.setLckW off (v &&& lckMask off), true)
  else rej

/-! ## Commands of R496, 0x03xx -/

/-- A fault bit with reaction HOLD, STOP or HALT is set (R63). -/
def Chip.faultHolds (c : Chip) (f : Nat) : Bool :=
  (c.flag (LCK_FSTAT__OVERRUN f) && c.rOvr f != 0) || (c.flag (LCK_FSTAT__MEAS_AGE f) && c.rAge f != 0)
    || (c.flag (LCK_FSTAT__BANK_ECC f) && c.rEcc f != 0) || (c.flag (LCK_FSTAT__SATURATION f) && c.rSat f != 0)

/-- FLIGHT_START's rules: a start that waits already keeps its pound (R63). -/
def Chip.flightStart (c : Chip) (k : Intake) : Chip × Answer :=
  let f := k.target.toNat
  let m := c.fMode f
  if m = 0 then (c, ansState)
  else if m = 1 ∧ c.opState = 2 then
    if c.faultHolds f then (c, ansState)
    else
      let c := c.setFld (LCK_FSTAT__PARKED f) 0
      let x := c.flight f
      (c.setFlight f { x with startAt := some (x.startAt.getD ((c.poundNum + 1) % 2 ^ 32)) }, ansOK)
  else (c.setFld (LCK_FSTAT__PARKED f) 0, ansOK)

/-- FLIGHT_START (R63). -/
def execFlightStart (t : Nat) (ifc : Iface) (tag target : Word) (pl : List Word) (s : State) :
    Host.Outcome State Fault Refusal :=
  s.command t 0x0301 ifc tag target pl Chip.flightStart

/-- FLIGHT_HOLD's rules (R63). -/
def Chip.flightHold (c : Chip) (k : Intake) : Chip × Answer :=
  let f := k.target.toNat
  match c.fMode f with
  | 0 | 1 => (c, ansState)
  | 2 => (c.setFlight f { c.flight f with wantHold := true }, ansOK)
  | _ => (c, ansOK)

/-- FLIGHT_HOLD (R63). -/
def execFlightHold (t : Nat) (ifc : Iface) (tag target : Word) (pl : List Word) (s : State) :
    Host.Outcome State Fault Refusal :=
  s.command t 0x0302 ifc tag target pl Chip.flightHold

/-- FLIGHT_RESUME's rules: a resume that waits already keeps its pound (R63). -/
def Chip.flightResume (c : Chip) (k : Intake) : Chip × Answer :=
  let f := k.target.toNat
  match c.fMode f with
  | 2 => (c, ansOK)
  | 3 =>
    if c.faultHolds f then (c, ansState)
    else
      let x := c.flight f
      (c.setFlight f { x with resumeAt := some (x.resumeAt.getD ((c.poundNum + 1) % 2 ^ 32)) }, ansOK)
  | _ => (c, ansState)

/-- FLIGHT_RESUME (R63). -/
def execFlightResume (t : Nat) (ifc : Iface) (tag target : Word) (pl : List Word) (s : State) :
    Host.Outcome State Fault Refusal :=
  s.command t 0x0303 ifc tag target pl Chip.flightResume

/-- FLIGHT_STOP's rules (R63). -/
def Chip.flightStop (c : Chip) (k : Intake) : Chip × Answer :=
  let f := k.target.toNat
  let m := c.fMode f
  if m = 0 then (c, ansState)
  else
    let c := c.raise (LCK_FSTAT__PARKED f)
    (if m = 2 ∨ m = 3 then c.setFlight f { c.flight f with wantRamp := true } else c, ansOK)

/-- FLIGHT_STOP (R63). -/
def execFlightStop (t : Nat) (ifc : Iface) (tag target : Word) (pl : List Word) (s : State) :
    Host.Outcome State Fault Refusal :=
  s.command t 0x0304 ifc tag target pl Chip.flightStop

/-- CLEAR_FLAGS's rules: the mask is registered for the next boundary (R71). -/
def Chip.clearFlags (c : Chip) (k : Intake) : Chip × Answer :=
  let f := k.target.toNat
  let x := c.flight f
  (c.setFlight f { x with clear := some (x.clear.getD 0 ||| bits (wordAt k.payload 0) 8 0) }, ansOK)

/-- CLEAR_FLAGS (R71). -/
def execClearFlags (t : Nat) (ifc : Iface) (tag target : Word) (pl : List Word) (s : State) :
    Host.Outcome State Fault Refusal :=
  s.command t 0x0305 ifc tag target pl Chip.clearFlags

/-- The registered clears take effect at a boundary, before any update of the pound starts (R71). -/
def Chip.flagsClear (c : Chip) : Chip :=
  c.each (List.range 32) (fun c f =>
    let x := c.flight f
    match x.clear with
    | none => c
    | some m => (c.clearMask (LCK_FSTAT f) m).setFlight f { x with clear := none, cleared := some (c.poundNum, m) })

/-- SELECT_BANK's rules (R75, R76): a slot that is not VALID is judged before the state (R485). -/
def Chip.selectBank (c : Chip) (k : Intake) : Chip × Answer :=
  let f := k.target.toNat
  let w := wordAt k.payload 0
  if c.bankValid f (bits w 3 0) = false then (c, ansArg 0)
  else if (c.fCtl f).testBit 15 then (c, ansState)
  else (c.requestBank f (bits w 3 0) (w.testBit 8), ansOK)

/-- SELECT_BANK (R75). -/
def execSelectBank (t : Nat) (ifc : Iface) (tag target : Word) (pl : List Word) (s : State) :
    Host.Outcome State Fault Refusal :=
  s.command t 0x0306 ifc tag target pl Chip.selectBank

/-- The banks BANK_LOAD may not touch: active, pending or named by a running reseed job (R85). -/
def Chip.lockedBanks (c : Chip) : List (Nat × Nat) :=
  c.enFlights.flatMap (fun f =>
    ((List.range 16).filter (fun b => c.bankValid f b && (c.slotInUse f b ||
      (match c.job f with
       | some j => j.owner == 2 && (j.slotA == b || j.slotB == b)
       | none => false)))).map (fun b => c.bankExt f (c.bankPtr f b)))

/-- BANK_LOAD's rules (R85). -/
def Chip.bankLoad (c : Chip) (k : Intake) : Chip × Answer :=
  let a := wordAt k.payload 0
  let ws := k.payload.drop 1
  let n := 4 * ws.length
  if a % 16 ≠ 0 ∨ 2 ^ 22 < a + n then (c, ansArg 0)
  else if c.opState ≠ 0 ∧ c.lockedBanks.any (fun e => overlap a n e.1 e.2) = true then (c, ansBusy)
  else ({ c with mem := { c.mem with bank := memWriteWords 0 a ws c.mem.bank } }, ansOK)

/-- BANK_LOAD (R85). -/
def execBankLoad (t : Nat) (ifc : Iface) (tag target : Word) (pl : List Word) (s : State) :
    Host.Outcome State Fault Refusal :=
  s.command t 0x0307 ifc tag target pl Chip.bankLoad

/-- LCK_FSTAT_f as it reads. -/
def Chip.fstat (c : Chip) (f : Nat) : Nat := c.reg (LCK_FSTAT f)

/-- LCK_SEGQ_STAT_f as it reads: the queue's depth, its head's identifier and whether it waits (R119). -/
def Chip.segqStat (c : Chip) (f : Nat) : Nat :=
  let q := (c.flight f).queue
  let w := c.reg (LCK_SEGQ_STAT f)
  let put (w : Nat) (x : Fld) (v : Nat) : Nat := putBits w x.hi x.lo v
  let w := put w (LCK_SEGQ_STAT__DEPTH f) q.length
  match q with
  | g :: _ => put (put w (LCK_SEGQ_STAT__HEAD_ID f) g.id) (LCK_SEGQ_STAT__WAITING f) (b2n (g.wait && !g.released))
  | [] => put (put w (LCK_SEGQ_STAT__HEAD_ID f) 0) (LCK_SEGQ_STAT__WAITING f) 0

/-- FLIGHT_STATUS's rules (R496). -/
def Chip.flightStatus (c : Chip) (k : Intake) : Chip × Answer :=
  let f := k.target.toNat
  let x := c.flight f
  let half (n : Nat) (l : List Int) : List Word := packHalves ((padTo n l).map (unsigned 16))
  (c, .now stOK 0 ([w32 (c.fstat f), w32 (c.reg (LCK_FSTAT2 f)), w32 (c.reg (LCK_FCNT f)), w32 (c.segqStat f),
    w32 (x.doneP.getD 0)] ++ half (c.fNx f) x.xh ++ half (c.fNu f) x.u))

/-- FLIGHT_STATUS (R496). -/
def execFlightStatus (t : Nat) (ifc : Iface) (tag target : Word) (pl : List Word) (s : State) :
    Host.Outcome State Fault Refusal :=
  s.command t 0x0308 ifc tag target pl Chip.flightStatus

/-! ## Segment queue commands (R103, R104) -/

/-- TRAJ_APPEND's rules: all segments or none, fullness judged with the changes already accepted, in the order of R485. -/
def Chip.trajAppend (c : Chip) (k : Intake) : Chip × Answer :=
  let f := k.target.toNat
  let n := wordAt k.payload 0
  let x := c.flight f
  if n = 0 ∨ 8 < n then (c, ansArg 0)
  else
    match parseSegs (c.fNu f) n (k.payload.drop 1) with
    | none => (c, .now stBAD_LENGTH 0 [])
    | some l =>
      match segsBad (c.fNu f) l with
      | some i => (c, ansArg i)
      | none =>
      if c.flag (LCK_SEGQ_CTL__QSRC f) then (c, ansState)
      else if 32 < (applyOps x.queue x.ops).length + l.length then (c, ansBusy)
      else (c.setFlight f { x with ops := x.ops ++ [.append l] }, ansOK)

/-- TRAJ_APPEND (R103). -/
def execTrajAppend (t : Nat) (ifc : Iface) (tag target : Word) (pl : List Word) (s : State) :
    Host.Outcome State Fault Refusal :=
  s.command t 0x0401 ifc tag target pl Chip.trajAppend

/-- TRAJ_FLUSH's rules. -/
def Chip.trajFlush (c : Chip) (k : Intake) : Chip × Answer :=
  let f := k.target.toNat
  let x := c.flight f
  if c.flag (LCK_SEGQ_CTL__QSRC f) then (c, ansState)
  else (c.setFlight f { x with ops := x.ops ++ [.flush] }, ansOK)

/-- TRAJ_FLUSH (R103). -/
def execTrajFlush (t : Nat) (ifc : Iface) (tag target : Word) (pl : List Word) (s : State) :
    Host.Outcome State Fault Refusal :=
  s.command t 0x0402 ifc tag target pl Chip.trajFlush

/-! ## Operating states (R63, R64) -/

/-- Entry to MOORED or LOCKED_OUT: moving flights return to TRACK, and on entry to MOORED (`start`) IDLE ones enter it, which
starts them (R47, R63). DESIGN CHOICE: a start or a resume that still waits is withdrawn (log entry 126). -/
def Chip.flightsTrack (c : Chip) (start : Bool) : Chip :=
  c.each c.enFlights (fun c f =>
    let x := c.flight f
    let leaves := start && !x.idleOut && c.fMode f == 0 && !x.wantTrack
    c.setFlight f { x with
      wantTrack := leaves || (c.fMode f == 0 && x.wantTrack) || decide (2 ≤ c.fMode f), startAt := none, resumeAt := none
      startN := if leaves then some c.pnd.turns else x.startN })

/-- Entry to UNDERWAY: flights in TRACK that are not PARKED start at their next due update (R63). -/
def Chip.flightsRun (c : Chip) : Chip :=
  c.each c.enFlights (fun c f =>
    if c.fMode f = 1 ∧ c.flag (LCK_FSTAT__PARKED f) = false then
      c.setFlight f { c.flight f with startAt := some c.poundNum }
    else c)

/-- Entry to HALTED: flights in RUN or HOLD ramp down (R63). DESIGN CHOICE: a start or a resume that still waits is withdrawn
(log entry 126). -/
def Chip.flightsRamp (c : Chip) : Chip :=
  c.each c.enFlights (fun c f =>
    let x := c.flight f
    c.setFlight f { x with wantRamp := decide (c.fMode f = 2 ∨ c.fMode f = 3), startAt := none, resumeAt := none })

/-- Entry to DRY: every flight enters IDLE; its flags, faults and PARKED clear and its queue empties (R63, R70, R87,
R106). DESIGN CHOICE, as no rule says it: STILL, SLEWING, BANK_MISS and REGION_V clear too, the run of updates without a
step starts anew, and appends and flushes accepted for this boundary are dropped with the queue; a pending swap, its
reseed and PEND_V stand, since only R76 and R79 to R84 end them (log entries 22, 106 and 127). -/
def Chip.flightsIdle (c : Chip) : Chip :=
  c.each (List.range 32) (fun c f =>
    let c := c.clearQueue f
    let x := c.flight f
    let c := c.setFlight f { Flight.init with
      xh := x.xh, r := x.r, idleOut := x.idleOut, doneP := x.doneP, reseed := x.reseed, swapReg := x.swapReg
      cleared := x.cleared }
    let c := c.clearMask (LCK_FSTAT f) 0x9FF
    (((c.setFld (LCK_FSTAT__MODE f) 0).setFld (LCK_FSTAT__PARKED f) 0).setFld (LCK_FSTAT__STILL f) 0).setFld
      (LCK_FSTAT__SLEWING f) 0)

/-- A write of LCK_SEGQ_CTL: accepted in DRY and MOORED only; `none` for any other register (R103). -/
def Chip.lckWrite (c : Chip) (off v : Nat) : Option Chip :=
  if LCK_SEGQ_CTL 0 ≤ off ∧ off ≤ LCK_SEGQ_CTL 31 ∧ (off - LCK_SEGQ_CTL 0) % (LCK_SEGQ_CTL 1 - LCK_SEGQ_CTL 0) = 0 then
    some (if c.dryOrMoored then c.writeBits off v else c.raise LCK_STATUS__CFG_REJ)
  else none

end Sys2Proof.Machine
end

