-- ==== Sys2Proof/Machine/GauSig.lean ====
section
/-! DEFINITION. What the Gauge sees: probe channels, binary signals, conditions, the sample clock, and the triggers as they
reach it; with them the tick in which a cycle mark fires (R27, R28, R331 to R336). -/

namespace Sys2Proof.Machine

/-! ## Cycle marks (R27, R28) -/

/-- The word of cycle mark m in effect. -/
def Chip.markW (c : Chip) (m : Nat) : Nat := (tabGet (fun i => regReset (SYS_CMARK i)) c.pnd.marks m).toNat

/-- The tick of this pound in which mark m fires, if it does: its PHASE, or the last tick of a shortened pound (R27). -/
def Chip.markTick (c : Chip) (m : Nat) : Option Nat :=
  let w := c.markW m
  if w.testBit 31 && decide (c.poundNum % 2 ^ bits w 30 29 = bits w 28 26) then
    some (min (c.pnd.start + bits w 17 0) (c.pnd.start + c.poundLen - 1))
  else none

/-- Mark m fires in this tick. -/
def Chip.markNow (c : Chip) (m : Nat) : Bool := c.markTick m == some c.now

/-! ## Probe words (R331, R333) -/

/-- Sixteen signals as a word, bit 0 first. -/
def wordOf (f : Nat → Bool) : Nat := (List.range 16).foldl (fun m k => if f k then m ||| 2 ^ k else m) 0

/-- A BITS group (R333). -/
def Chip.gauBits (c : Chip) (g : Nat) : Nat :=
  match g with
  | 0 => wordOf (fun k => (c.abz k).a)
  | 1 => wordOf (fun k => (c.abz (16 + k)).a)
  | 2 => wordOf (fun k => (c.abz k).b)
  | 3 => wordOf (fun k => (c.abz (16 + k)).b)
  | 4 => wordOf (fun k => (c.abz k).z)
  | 5 => wordOf (fun k => (c.abz (16 + k)).z)
  | 6 => wordOf (fun k => if k < 8 then (c.fld ADC_CMP_STAT__LEVEL).testBit k else c.man.level.testBit (k - 8))
  | 7 => wordOf (fun k => if k < 8 then (c.pdLines k).1 else (c.pdLines (k - 8)).2.1)
  | 8 => wordOf c.markNow
  | 9 => wordOf (fun k => c.markNow (16 + k))
  | 10 => wordOf (fun k =>
    match k with
    | 0 => c.man.gauT == some c.now
    | 1 => (List.range 32).any (fun m => c.markNow m && (c.markW m).testBit 20)
    | 2 => c.phase == c.P / 2
    | 3 => c.phase == 0
    | 4 => c.phase == 0 && c.poundNum % poundsPerPeriod c.pnd.sel == 0
    | _ => false)
  | 11 => wordOf (fun k => c.fMode k == 2)
  | _ => wordOf (fun k => c.fMode (16 + k) == 2)

/-- The stored command u of an axis (R57); an axis that no flight drives has none and reads 0. -/
def Chip.axisU (c : Chip) (a : Nat) : Int :=
  match c.driver a with
  | some p => (c.flight p.1).u.getD p.2 0
  | none => 0

/-- The word of a probe source in this tick (R331). -/
def Chip.probeSrc (c : Chip) (s : Nat) : Nat :=
  let i := s % 2 ^ 12
  match s / 2 ^ 12 with
  | 1 => (c.chan i).pos % 2 ^ 16
  | 2 => c.reg (POS_CH_SPD i) / 2 ^ 16
  | 3 => (c.auxW i).v % 2 ^ 16
  | 4 => unsigned 16 (c.axisU i)
  | 5 => unsigned 16 (c.axis i).r
  | 6 => unsigned 16 ((c.flight (i / 64)).xh.getD (i % 64) 0)
  | 7 => if i < 32 then c.fld (ADC_RES__CODE (i / 16) (i % 16)) else c.fld (ADC_IRES__CODE ((i - 32) / 4) (i % 4))
  | 8 => c.fld (SLU_PROBE__PROBE (i / 8) (i % 8))
  | 9 => (c.lkpExport i).getD 0 % 2 ^ 16
  | 10 => c.gauBits i
  | 11 =>
    match i with
    | 0 => c.phase % 2 ^ 16
    | 1 => c.poundNum % 2 ^ 16
    | 2 => c.tb5 / 2 ^ 16 % 2 ^ 16
    | _ => c.tb5 % 2 ^ 16
  | _ => 0

/-- The word of probe channel j in this tick. -/
def Chip.probe (c : Chip) (j : Nat) : Nat := c.probeSrc (c.fld (GAU_PROBE__SEL j))

/-- A probe word in two's complement. -/
def Chip.probeI (c : Chip) (j : Nat) : Int := signed 16 (c.probe j)

/-- A probe selection is allowed (R331). -/
def Chip.selOk (c : Chip) (s : Nat) : Bool :=
  let i := s % 2 ^ 12
  match s / 2 ^ 12 with
  | 0 => true
  | 1 | 2 | 4 | 5 => decide (i < 256)
  | 3 => decide (i < 1024)
  | 6 => decide (i < 2048)
  | 7 => decide (i < 40)
  | 8 => decide (i < 32)
  | 9 => (c.lkpExport i).isSome
  | 10 => decide (i < 13)
  | 11 => decide (i < 4)
  | _ => false

/-- Condition k (R334). -/
def Chip.cond (c : Chip) (k : Nat) : Bool :=
  let w := c.probe (c.fld (GAU_COND__CH k))
  match c.fld (GAU_COND__CKIND k) with
  | 0 => w.testBit (c.fld (GAU_COND__BIT k))
  | 1 => decide (signed 16 (c.fld (GAU_COND__THR k)) ≤ signed 16 w)
  | _ => decide (signed 16 w ≤ signed 16 (c.fld (GAU_COND__THR k)))

/-- The sample matches (R335). -/
def Chip.gauMatch (c : Chip) : Bool :=
  (List.range 64).all (fun k =>
    let m := if k < 32 then c.reg GAU_MASK_LO else c.reg GAU_MASK_HI
    let v := if k < 32 then c.reg GAU_VALUE_LO else c.reg GAU_VALUE_HI
    !m.testBit (k % 32) || c.cond k == v.testBit (k % 32))

/-! ## The sample clock and rows (R332) -/

/-- The enabled channels, ascending. -/
def Chip.gauChans (c : Chip) : List Nat :=
  (List.range 64).filter (fun j => if j < 32 then (c.reg GAU_CH_EN_LO).testBit j else (c.reg GAU_CH_EN_HI).testBit (j - 32))

/-- RB. -/
def Chip.gauRb (c : Chip) : Nat := 8 * ((2 * c.gauChans.length + 7) / 8)

/-- A row of this tick. -/
def Chip.gauRow (c : Chip) : List Byte :=
  let bs := c.gauChans.flatMap (fun j => (wordBytes (w32 (c.probe j))).take 2)
  bs ++ List.replicate (c.gauRb - bs.length) 0

/-- This tick is a sample of the clock selected. -/
def Chip.gauTick (c : Chip) : Bool :=
  if c.flag GAU_CFG__SCLK then c.phase == c.fld GAU_SPHASE__SPHASE else c.now % 2 ^ c.fld GAU_CFG__SDIV == 0

/-! ## Triggers (R336, R337) -/

/-- STATE of the Gauge: 0 IDLE, 1 WAIT_MEM, 2 PRE, 3 ARMED, 4 POST, 5 FINISH. -/
def Chip.gauState (c : Chip) : Nat := c.fld GAU_STATUS__STATE

/-- The chip with the Gauge changed. -/
def Chip.setGau (c : Chip) (f : Gau → Gau) : Chip := { c with gau := f c.gau }

/-- An external trigger or a FORCE (source bit 1 cycle mark, 2 Manifest, 3 FORCE): latched in its tick in PRE and ARMED,
ignored and counted in any other state; a source that is not enabled is no trigger (R336, R337). -/
def Chip.gauTrigger (c : Chip) (src : Nat) : Chip :=
  if src < 3 ∧ (c.fld GAU_CFG__TSRC).testBit src = false then c
  else if c.gauState = 2 ∨ c.gauState = 3 then c.setGau (fun g => { g with latched := g.latched ++ [(src, c.now)] })
  else c.count GAU_CNT__TRIG_IGN_CNT 1

end Sys2Proof.Machine
end

