-- ==== Sys2Proof/Machine/Manifest.lean ====
section
/-! DEFINITION. The Manifest: entries, arming, firing, the actions and their outputs, cancellation (R110 to R118). -/

namespace Sys2Proof.Machine

/-- The chip with the Manifest changed. -/
def Chip.setMan (c : Chip) (f : Man → Man) : Chip := { c with man := f c.man }

/-! ## Entries (R110, R111) -/

/-- The key in 48.16. -/
def ManEntry.key (e : ManEntry) : Nat := wordAt e.w 0 + wordAt e.w 1 * 2 ^ 32
/-- PID. -/
def ManEntry.pid (e : ManEntry) : Nat := wordAt e.w 2
/-- EVT. -/
def ManEntry.evt (e : ManEntry) : Bool := (wordAt e.w 3).testBit 31
/-- DROP_PAST. -/
def ManEntry.dropPast (e : ManEntry) : Bool := (wordAt e.w 3).testBit 30
/-- ACTION. -/
def ManEntry.action (e : ManEntry) : Nat := bits (wordAt e.w 3) 27 24
/-- TARGET. -/
def ManEntry.target (e : ManEntry) : Nat := bits (wordAt e.w 3) 23 16
/-- ARG0. -/
def ManEntry.arg0 (e : ManEntry) : Nat := wordAt e.w 4
/-- ARG1. -/
def ManEntry.arg1 (e : ManEntry) : Nat := wordAt e.w 5
/-- The handle. -/
def ManEntry.handle (e : ManEntry) : Nat := e.idx + e.gen * 2 ^ 12

/-- The first word of an entry's eight that is out of range (R110, R114). -/
def manBad (w : List Word) : Option Nat :=
  let a := bits (wordAt w 3) 27 24
  let t := bits (wordAt w 3) 23 16
  if 7 < a ∨ (1 ≤ a ∧ a ≤ 3 ∧ 7 < t) ∨ (a = 7 ∧ 31 < t) then some 3
  else if a = 3 ∧ (wordAt w 4 = 0 ∨ 16777215 < wordAt w 4) then some 4
  else if a = 6 ∧ 1023 < wordAt w 5 then some 5
  else none

/-- An entry stands before another in the firing order: lower key, then lower sequence number (R112). -/
def ManEntry.before (a b : ManEntry) : Bool := decide (a.key < b.key) || (a.key == b.key && decide (a.seq < b.seq))

/-- Puts an entry into the firing order. -/
def manInsert (e : ManEntry) : List ManEntry → List ManEntry
  | [] => [e]
  | x :: t => if e.before x then e :: x :: t else x :: manInsert e t

/-- The storage indices in use. -/
def Man.usedIdx (m : Man) : List Nat := (m.armed ++ m.waiting).map (·.idx)

/-- The eight words of an entry, its reserved bits 0 (R8, R110). -/
def manWords (w : List Word) : List Word :=
  (List.range 8).map (fun i => w32 (wordAt w i &&& (if i = 3 then 0xCFFFFFFF else if i < 6 then 0xFFFFFFFF else 0)))

/-- A new entry takes a free storage index, which one is a free value, and the next generation of it (R111). -/
def Chip.manStore (c : Chip) (w : List Word) : Chip × ManEntry :=
  let used := c.man.usedIdx
  let free := (List.range 4096).filter (fun i => !used.contains i)
  let r := c.freeWord
  let i := free.getD (r.2.toNat % free.length) 0
  let n := tabGet (fun _ => 0) c.man.gens i
  let e : ManEntry := ⟨i, n % 16, manWords w, 0, none⟩
  (r.1.setMan (fun m => { m with gens := tabPut (fun _ => 0) i (n + 1) m.gens, waiting := m.waiting ++ [e] }), e)

/-! ## Outputs (R114) -/

/-- An output takes a level and a pending fall in place of any before it; a device that acts drives its pin (R114, R118). -/
def Chip.mevo (c : Chip) (i : Nat) (level : Bool) (fall : Option Nat) : Chip :=
  let l := if level then c.man.level ||| 2 ^ i else c.man.level &&& (255 ^^^ 2 ^ i)
  let c := c.setMan (fun m => { m with level := l, falls := tabPut (fun _ => none) i fall m.falls })
  if c.drives then c.emit (.pin pinMEVO i level) else c

/-- A pulse ends at its tick (R114). -/
def Chip.pulseEnd (c : Chip) (i : Nat) : Chip :=
  match tabGet (fun _ => none) c.man.falls i with
  | none => c
  | some t => (c.at t).mevo i false none

/-- The fall of an output at the end of its pulse (R114). -/
def execOutPulseEnd (line : Fin 8) (s : State) : Host.Outcome State Fault Refusal := s.event s.chip.now (fun c => c.pulseEnd line.val)

/-! ## Firing (R112, R114, R115, R117) -/

/-- Statuses of R117. -/
abbrev mfFIRED : Nat := 0
abbrev mfLATE : Nat := 1
abbrev mfPAST : Nat := 2
abbrev mfSUPPRESSED : Nat := 3
abbrev mfBLOCKED : Nat := 4
abbrev mfNO_MATCH : Nat := 5

/-- The injected sequences that select the Manifest are triggered; the truth value says that each could take it (R114,
R322). DESIGN CHOICE: where both converters select the Manifest and one is converting, the other starts, and the entry fires
BLOCKED (log entry 114). -/
def Chip.manInject (c : Chip) : Chip × Bool :=
  [0, 1].foldl (fun (r : Chip × Bool) x =>
    if r.1.fld (ADC_CFG__INJ_TRIG x) = 1 then
      let q := r.1.adcTrigger x true
      (q.1, r.2 && q.2)
    else r) (c, true)

/-- The entry's action, and the effect status that replaces its timing status (R114, R115, R117). -/
def Chip.manAction (c : Chip) (e : ManEntry) : Chip × Option Nat :=
  let a := e.action
  if (a = 6 ∨ a = 7) ∧ c.opState ≠ 2 then (c.count POS_MAN_EXC__SUPPRESSED 1, some mfSUPPRESSED)
  else
    match a with
    | 1 => (c.mevo e.target true none, none)
    | 2 => (c.mevo e.target false none, none)
    | 3 => (c.mevo e.target true (some (c.now + e.arg0)), none)
    | 4 =>
      let r := c.manInject
      if r.2 then (r.1, none) else (r.1.count POS_MAN_EXC__BLOCKED 1, some mfBLOCKED)
    | 5 => ((c.setMan (fun m => { m with gauT := some c.now })).gauTrigger 2, none)
    | 6 => (c.setMan (fun m => { m with aux := tabPut (fun _ => 0) (e.arg1 % 1024) (e.arg0 % 2 ^ 16) m.aux }), none)
    | 7 =>
      let r := c.segRelease e.target (e.arg0 % 2 ^ 16)
      if r.2 then (r.1, none) else (r.1.count POS_MAN_EXC__BLOCKED 1, some mfNO_MATCH)
    | _ => (c, none)

/-- The event of an entry that fires or is discarded (R117). -/
def Chip.manEvent (c : Chip) (e : ManEntry) (st : Nat) : Chip :=
  if e.evt then
    c.hostEvent 4 [w32 e.pid, w32 (st * 2 ^ 20 + e.action * 2 ^ 16 + bits (wordAt e.w 3) 15 0), w32 c.poundNum,
      w32 (c.phase % 2 ^ 18)]
  else c

/-- An entry fires with a timing status: its action, its counters, its event and its ledger record (R112, R114, R117). -/
def Chip.manFire (c : Chip) (e : ManEntry) (timing : Nat) : Chip :=
  let r := c.manAction e
  let st := r.2.getD timing
  let c := r.1
  let c := if timing = mfLATE then (c.count POS_MAN_EXC__LATE 1).raise POS_MAN_STATUS__LATE_SEEN
    else if timing = mfPAST then c.count POS_MAN_EXC__PAST 1 else c
  let c := c.count POS_MAN_FIRED__FIRED 1
  (c.manEvent e st).ledger (.manFire e.handle st)

/-- The tick in which an armed entry became due: when its key was reached since the accumulator's last change (R96,
R112). -/
def Chip.manDue (c : Chip) (e : ManEntry) : Nat :=
  match e.due with
  | some t => t
  | none =>
    let x := c.pf.chain
    let need := e.key * 2 ^ 16
    let inc := c.reg POS_CHN_SPEED
    if need ≤ x.acc ∨ inc = 0 then x.accT else x.accT + (need - x.acc + inc - 1) / inc

/-- The first armed entry that is due now fires, at most eight in one tick (R112). -/
def Chip.manFireDue (c : Chip) : Chip :=
  let n := if c.man.fireT = c.now then c.man.fireN else 0
  match c.man.armed with
  | [] => c
  | e :: t =>
    if c.tb5 < e.key ∨ 8 ≤ n then c
    else
      let run := c.tb5
      let mark (x : ManEntry) : ManEntry := if x.key ≤ run ∧ x.due = none then { x with due := some (c.manDue x) } else x
      let timing := if c.manDue e < c.now then mfLATE else mfFIRED
      (c.setMan (fun m => { m with armed := t.map mark, fireT := c.now, fireN := n + 1 })).manFire e timing

/-- An armed entry fires (R112). A twin in STANDBY or RESYNC takes its firings from the ledger (R118). -/
def execManifestFire (t : Nat) (s : State) : Host.Outcome State Fault Refusal :=
  s.event t (fun c => if c.drives then c.manFireDue else c)

/-- The oldest accepted entry is armed: a key already passed fires at once, or is discarded with DROP_PAST (R111). -/
def Chip.manArm (c : Chip) : Chip :=
  match c.man.waiting with
  | [] => c
  | e :: t =>
    let e := { e with seq := c.man.seq }
    let c := c.setMan (fun m => { m with waiting := t, seq := m.seq + 1, used := true })
    let c := c.ledger (.manAdd e.handle e.seq e.w)
    if e.key ≤ c.tb5 then
      if e.dropPast then ((c.count POS_MAN_EXC__PAST 1).manEvent e mfPAST).ledger (.manFire e.handle mfPAST)
      else c.manFire e mfPAST
    else c.setMan (fun m => { m with armed := manInsert e m.armed })

/-- An accepted entry is armed (R111); a device that does not act takes its entries from the ledger (R445). -/
def execManifestArm (t : Nat) (s : State) : Host.Outcome State Fault Refusal :=
  s.event t (fun c => if c.drives then c.manArm else c)

/-- Entry to DRY empties the Manifest and ends its outputs (R115, R530). -/
def Chip.manClear (c : Chip) : Chip :=
  let c := c.setMan (fun m => { m with armed := [], waiting := [] })
  c.each ((List.range 8).filter (fun i => c.man.level.testBit i)) (fun c i => c.mevo i false none)

/-! ## Commands -/

/-- MANIFEST_ADD's rules (R110, R111, R115). -/
def Chip.manAdd (c : Chip) (k : Intake) : Chip × Answer :=
  let n := wordAt k.payload 0
  let ent (i : Nat) : List Word := (k.payload.drop (1 + 8 * i)).take 8
  match (List.range n).findSome? (fun i => (manBad (ent i)).map (fun j => 1 + 8 * i + j)) with
  | some i => (c, ansArg i)
  | none =>
    if n = 0 ∨ 64 < n then (c, ansArg 0)
    else if c.opState = 0 then (c, ansState)
    else if 4096 < c.man.armed.length + c.man.waiting.length + n then
      (c.raise POS_MAN_STATUS__FULL_SEEN, .now stFULL 0 [])
    else
      let r := (List.range n).foldl (fun (r : Chip × List Nat) i =>
        let q := r.1.manStore (ent i)
        (q.1, r.2 ++ [q.2.handle])) (c, [])
      (r.1, .now stOK 0 ((List.range ((n + 1) / 2)).map (fun i => w32 (r.2.getD (2 * i) 0 + r.2.getD (2 * i + 1) 0 * 2 ^ 16))))

/-- MANIFEST_ADD (R111). -/
def execManifestAdd (t : Nat) (ifc : Iface) (tag target : Word) (pl : List Word) (s : State) :
    Host.Outcome State Fault Refusal :=
  s.command t 0x0501 ifc tag target pl Chip.manAdd

/-- An entry matches a cancellation (R116). -/
def ManCancel.matches (x : ManCancel) (e : ManEntry) : Bool :=
  let a := x.a.toNat
  match x.mode with
  | 0 => e.handle == a % 2 ^ 16
  | 1 => decide ((e.pid + 2 ^ 32 - a) % 2 ^ 32 ≤ (x.b.toNat + 2 ^ 32 - a) % 2 ^ 32)
  | _ => decide (0 < modDiff 32 a e.pid)

/-- MANIFEST_CANCEL's rules: the cancellation waits for its cancel tick, which forms the reply (R116). -/
def Chip.manCancel (c : Chip) (k : Intake) : Chip × Answer :=
  let x : ManCancel := ⟨wordAt k.payload 0, k.payload.getD 1 0, k.payload.getD 2 0, k⟩
  if 2 < x.mode then (c, ansArg 0)
  else if x.mode = 0 ∧ (c.man.armed ++ c.man.waiting).any x.matches = false then (c, .now stNOT_FOUND 0 [])
  else (c.setMan (fun m => { m with cancels := m.cancels ++ [x] }), .defer)

/-- MANIFEST_CANCEL (R116). -/
def execManifestCancel (t : Nat) (ifc : Iface) (tag target : Word) (pl : List Word) (s : State) :
    Host.Outcome State Fault Refusal :=
  s.command t 0x0502 ifc tag target pl Chip.manCancel

/-- The cancel tick of the oldest accepted cancellation: the firings of the tick are made first (R116). -/
def Chip.cancelTick (c : Chip) : Chip :=
  match c.man.cancels with
  | [] => c
  | x :: t =>
    let c := if c.drives then c.each (List.range 8) (fun c _ => c.manFireDue) else c
    let hit := c.man.armed.filter x.matches
    let c := c.setMan (fun m => { m with cancels := t, armed := m.armed.filter (fun e => !x.matches e) })
    let c := c.each hit (fun c e => c.ledger (.manCancel e.handle))
    c.reply x.cmd stOK 0 [w32 hit.length]

/-- An accepted MANIFEST_CANCEL takes effect (R116). -/
def execCancelTick (t : Nat) (s : State) : Host.Outcome State Fault Refusal := s.event t Chip.cancelTick

/-- MANIFEST_LIST's rules (R496). -/
def Chip.manList (c : Chip) (k : Intake) : Chip × Answer :=
  let n := wordAt k.payload 1
  if n = 0 ∨ 32 < n then (c, ansArg 1)
  else
    let l := (c.man.armed.drop (wordAt k.payload 0)).take n
    (c, .now stOK 0 (w32 c.man.armed.length :: l.flatMap (fun e => w32 e.handle :: e.w)))

/-- MANIFEST_LIST (R496). -/
def execManifestList (t : Nat) (ifc : Iface) (tag target : Word) (pl : List Word) (s : State) :
    Host.Outcome State Fault Refusal :=
  s.command t 0x0504 ifc tag target pl Chip.manList

end Sys2Proof.Machine
end

