-- ==== Sys2Proof/Machine/TwinLedger.lean ====
section
/-! DEFINITION. The Aqueduct's frames and the ledger: what a pound's commit holds, its words, its freeze, its sending
and retransmission (R438, R439, R442 to R444, R446). -/

namespace Sys2Proof.Machine

/-- The chip with the Aqueduct changed. -/
def Chip.setAqu (c : Chip) (f : Aqu → Aqu) : Chip := { c with aqu := f c.aqu }

/-- Twin operation is enabled and the link is UP (R435, R438). -/
def Chip.aquOn (c : Chip) : Bool := c.flag AQU_CFG__TWIN_EN && c.flag AQU_ROLE__LINK_UP

/-- The device's RANK. -/
def Chip.rank (c : Chip) : Nat := c.fld TOW_MASTER_CFG__RANK

/-- CONFIG_CRC of the shared configuration (R441). -/
def Chip.configCrc (c : Chip) : Word := Config.configCrc c.mem.lck c.mem.bank c.mem.slu c.mem.plan

/-! ## Frames (R439) -/

/-- The header words of a frame of `len` payload bytes. -/
def Chip.aquHeader (c : Chip) (type pound part len : Nat) (last : Bool) : List Word :=
  [w32 (type * 2 ^ 28 + 2 ^ 24 + len), w32 pound, w32 (c.reg TOW_EPOCH),
   w32 (c.aqu.seqTx % 2 ^ 16 * 2 ^ 16 + part % 256 * 2 ^ 8 + b2n last * 2 ^ 7)]

/-- A frame leaves: header, payload and CRC-32, padded to a multiple of 8 bytes; nothing leaves a link that is DOWN. -/
def Chip.aquSend (c : Chip) (type pound part : Nat) (last : Bool) (pl : List Word) : Chip :=
  if c.aquOn then
    let ws := c.aquHeader type pound part (4 * pl.length) last ++ pl
    let ws := ws ++ [crc32w ws]
    let ws := if ws.length % 2 = 1 then ws ++ [0] else ws
    (c.setAqu (fun a => { a with seqTx := (a.seqTx + 1) % 2 ^ 16 })).emit (.aqu type ws)
  else c

/-- A frame arrives: one that fails its checks is counted, a good one notes its SEQ, its sender's EPOCH and the time.
The truth value says that it is good (R439). -/
def Chip.aquHear (c : Chip) (h : AquHead) : Chip × Bool :=
  if c.aquOn then
    if h.ok then (c.setAqu (fun a => { a with heardT := some c.now, seqRx := some h.seq, epoch := h.epoch }), true)
    else (c.count AQU_CNT1__CRC_ERR_CNT 1, false)
  else (c, false)

/-- Frames between this one and the last were lost (R439, R444). -/
def Chip.seqGap (c : Chip) (h : AquHead) : Bool := match c.aqu.seqRx with
  | some q => h.seq != (q + 1) % 2 ^ 16
  | none => false

/-- What a join heard: 1 HELLO of a twin in DRY with a higher RANK, 2 any other twin, so any other frame (R435). -/
def Chip.joinHears (c : Chip) (v : Nat) : Chip :=
  if c.aqu.joinT.isSome then c.setAqu (fun a => { a with joinHeard := max a.joinHeard v }) else c

/-- A NAK asks for a commit again (R444). -/
def Chip.nak (c : Chip) (n : Nat) : Chip := c.aquSend 5 c.poundNum 0 false [w32 n]

/-- The device takes commits: a standby, or one that resynchronises and awaits its snapshot or follows (R445, R457). -/
def Chip.takesCommits (c : Chip) : Bool := c.role == 2 || (c.role == 3 && decide (3 ≤ c.fld AQU_ROLE__RS_STEP))

/-- SEQ was not consecutive: every commit being received may have lost a frame; it is asked for again and received anew
(R444). -/
def Chip.seqLost (c : Chip) : Chip :=
  if c.takesCommits then (c.each c.aqu.rx (fun c x => c.nak x.1)).setAqu (fun a => { a with rx := [] }) else c

/-- The operations of a frame that passed its checks. -/
def Chip.onFrame (c : Chip) (h : AquHead) (f : Chip → Chip) : Chip :=
  let r := c.aquHear h
  if r.2 then f (if c.seqGap h then r.1.seqLost else r.1) else r.1

/-! ## Records (R443) -/

/-- KIND of a record. -/
def LedgerRec.kind : LedgerRec → Nat
  | .state _ _ _ => 1
  | .flight _ => 2
  | .cleared _ _ => 2
  | .channel _ => 3
  | .chainage _ _ _ _ _ => 4
  | .queue _ _ _ _ _ _ => 5
  | .manAdd _ _ _ => 6
  | .manCancel _ => 6
  | .manFire _ _ => 6
  | .publication _ _ => 7
  | .config _ _ => 8

/-- Bytes as words, the last one padded with zeros. -/
def packBytes (l : List Nat) : List Word := bytesWords (l.map (BitVec.ofNat 8))

/-- Halfwords of two's complement values. -/
def packInts (l : List Int) : List Word := packHalves (l.map (unsigned 16))

/-- The words of a CHANNEL entry. -/
def ChanEntry.words (e : ChanEntry) : List Word :=
  [w32 (e.flags % 256 * 2 ^ 24 + e.conf % 256 * 2 ^ 16 + e.age % 256 * 2 ^ 8 + e.ch % 256), w32 e.pos,
   w32 (e.pos / 2 ^ 32 % 2 ^ 16), e.spd, w32 e.raw, w32 (e.raw / 2 ^ 32 % 2 ^ 8)]

/-- The words of a record behind its header. Kinds 5, 6 and 8 have no layout in the spec. DESIGN CHOICE: a CLEAR_FLAGS of a
flight without an update in the pound is a record of kind 2 that holds CLEARED, FLIGHT and the mask (log entry 107). -/
def LedgerRec.body : LedgerRec → List Word
  | .state st cause pend =>
    [w32 (st % 8 + cause % 256 * 2 ^ 8 + (match pend with
      | some p => p % 8 * 2 ^ 16 + 2 ^ 19
      | none => 0))]
  | .flight r =>
    [r.w0] ++ packBytes r.ages ++ packInts r.y ++ packInts r.r ++ packInts r.x ++ packInts r.u ++ packInts r.xi
      ++ (match r.clear with
        | some m => [w32 m]
        | none => [])
  | .cleared f mask => [w32 (2 ^ 24 + f), w32 mask]
  | .channel l => w32 l.length :: l.flatMap ChanEntry.words
  | .chainage cn h inc ofs status =>
    [w32 cn, w32 (cn / 2 ^ 32), w32 h, w32 (h / 2 ^ 32 % 2 ^ 16), inc, w32 ofs, w32 (ofs / 2 ^ 32 % 2 ^ 16), status]
  | .queue f pops p0 rel fl segs =>
    Config.ledgerBody 5 ([w32 f, w32 pops, w32 (p0.getD 0), w32 (p0.getD 0 / 2 ^ 32), w32 (b2n p0.isSome + 2 * b2n rel + 4 * b2n fl)] ++ segs.flatten)
  | .manAdd handle seq w => Config.ledgerBody 6 ([0, w32 handle, w32 seq] ++ w)
  | .manCancel handle => Config.ledgerBody 6 [1, w32 handle]
  | .manFire handle status => Config.ledgerBody 6 [2, w32 handle, w32 status]
  | .publication status segs => w32 status :: segs.flatMap (fun e => e.2.flatten)
  | .config id crc => Config.ledgerBody 8 [id, crc]

/-- A record: its header word with KIND and byte length, then its body. -/
def LedgerRec.words (r : LedgerRec) : List Word :=
  w32 (r.kind * 2 ^ 24 + 4 * (r.body.length + 1) % 2 ^ 16) :: r.body

/-- The CHANNEL entry of a channel. -/
def Chip.chanEntry (c : Chip) (ch : Nat) : ChanEntry :=
  let w := c.reg (POS_CH_STAT ch)
  { ch := ch, age := c.fld (POS_CH_STAT__AGE ch), conf := c.fld (POS_CH_STAT__CONF ch), flags := bits w 15 8,
    pos := c.samplePos ch, spd := w32 (c.reg (POS_CH_SPD ch)),
    raw := if c.chType ch = 1 then 0 else (c.chan ch).last % 2 ^ 40 }

/-- The entries of the enabled channels of types 1 to 3. -/
def Chip.chanEntries (c : Chip) : List ChanEntry :=
  ((List.range 256).filter (fun ch => decide (1 ≤ c.chType ch ∧ c.chType ch ≤ 3))).map c.chanEntry

/-- The records of a commit in the order of their kinds. -/
def sortRecs (l : List LedgerRec) : List LedgerRec :=
  (List.range 9).flatMap (fun k => l.filter (fun r => r.kind == k))

/-- A CLEAR_FLAGS applied in this pound to a flight none of whose updates carried it enters the ledger by itself (R71). -/
def Chip.clearsLedger (c : Chip) : Chip :=
  c.each (List.range 32) (fun c f =>
    match (c.flight f).cleared with
    | none => c
    | some p => (c.setFlight f { c.flight f with cleared := none }).ledger (.cleared f p.2))

/-- The ledger of the ended pound is frozen: every record it produced, with STATE, CHANNEL and CHAINAGE (R442, R443). -/
def Chip.ledgerFreeze (c : Chip) : Chip :=
  let c := c.clearsLedger
  let x := c.pf.chain
  let all := [LedgerRec.state c.opState (c.fld SYS_STATE__LAST_CAUSE) (c.pnd.request.map (·.dest))] ++ c.aqu.recs
    ++ [.channel c.chanEntries,
        .chainage c.pnd.cn x.h (w32 (c.reg POS_CHN_SPEED)) x.ofs (w32 (c.reg POS_CHN_STATUS))]
  c.setAqu (fun a => { a with recs := [], last := sortRecs all })

/-! ## BULK (R436, R439, R457) -/

/-- A number that may be absent, as words. -/
def optWords : Option Nat → List Word
  | none => [0]
  | some n => [1, w32 n]

/-- A list with its length, as words. -/
def listWords (l : List Word) : List Word := w32 l.length :: l

/-- What a snapshot holds of a flight, as words. -/
def FlightSnap.words (y : FlightSnap) : List Word :=
  [w32 y.f, y.stat, y.stat2] ++ [y.x, y.u, y.r, y.s, y.tgt].flatMap (fun l => listWords (l.map w32i))
    ++ listWords (y.queue.flatMap listWords) ++ optWords y.startAt ++ optWords y.resumeAt ++ [w32 (b2n y.ramp), w32 (b2n y.hold)]

/-- The words of a snapshot. -/
def Snapshot.words (y : Snapshot) : List Word :=
  Config.snapshotWords ([y.pound, w32 y.state, w32 y.cause] ++ listWords (y.flights.flatMap FlightSnap.words)
    ++ listWords (y.man.flatMap (fun e => w32 e.1 :: w32 e.2.1 :: e.2.2)) ++ listWords (y.waiting.flatMap (fun e => w32 e.1 :: e.2))
    ++ [w32 y.manSeq, w32 y.levels, w32 y.ofs, w32 (y.ofs / 2 ^ 32), w32 y.h, w32 (y.h / 2 ^ 32), w32 y.acc, w32 (y.acc / 2 ^ 32),
        w32 (y.acc / 2 ^ 64), y.inc, y.chnStatus] ++ y.chans.flatMap ChanEntry.words)

/-- The frames of words of a region from an offset up: at most 1,024 bytes of payload with the prefix (R439). -/
def bulkCut (region off : Nat) (ws : List Word) : List BulkPart :=
  (List.range ((ws.length + 253) / 254)).map (fun i => ⟨region, off + 1016 * i, (ws.drop (254 * i)).take 254, false⟩)

/-- The frames of a content. -/
def BulkData.parts : BulkData → List BulkPart
  | .memory k off ws => bulkCut k off ws
  | .register off w => bulkCut 4 off [w]
  | .snapshot y => bulkCut 5 0 y.words

/-- The frames of a transfer. -/
def bulkParts (l : List BulkData) : List BulkPart :=
  let ps := l.flatMap BulkData.parts
  ps.zipIdx.map (fun p => { p.1 with last := p.2 + 1 == ps.length })

/-- The payload of a BULK frame: its offset prefix and its words (R439). -/
def BulkPart.payload (p : BulkPart) : List Word :=
  let x := (Config.bulkOffset p.region p.off).toNat
  [w32 x, w32 (x / 2 ^ 32)] ++ p.ws

/-- The CRC that the CONFIG record of a twin-wide change holds. DESIGN CHOICE: the spec does not say over what it is formed;
it is that of its BULK frames' payloads in order (log entry 141). -/
def bulkSum (l : List BulkData) : Word := crc32w ((bulkParts l).flatMap BulkPart.payload)

/-- The frames of a transfer wait behind every other frame (R439). -/
def Chip.bulkQueue (c : Chip) (l : List BulkData) : Chip :=
  if c.aquOn then c.setAqu (fun a => { a with bulkTx := a.bulkTx ++ bulkParts l }) else c

/-- BULK frames leave once nothing else waits (R439). -/
def Chip.bulkPump (c : Chip) : Chip :=
  (c.each c.aqu.bulkTx (fun c p => c.aquSend 9 c.poundNum 0 p.last p.payload)).setAqu (fun a => { a with bulkTx := [] })

/-! ## Sending commits (R442, R446) -/

/-- The device streams its ledger: as PRIMARY, or to a twin that a snapshot was sent to (R442, R457). -/
def Chip.streams (c : Chip) : Bool := c.flag AQU_CFG__TWIN_EN && (c.role == 1 || (c.role == 0 && c.aqu.snapAt.isSome))

/-- LEDGER_MAX (R442). -/
def Chip.ledgerMax (c : Chip) : Nat := if c.pnd.sel = 0 then 32768 else 49152

/-- Frames of a commit. -/
def Commit.frames (k : Commit) : Nat := max 1 ((k.words.length + 255) / 256)

/-- A commit was sent whole. -/
def Commit.whole (k : Commit) : Bool := decide (k.frames ≤ k.sent)

/-- Sends frame `i` of a commit. -/
def Chip.sendFrame (c : Chip) (k : Commit) (i : Nat) : Chip :=
  c.aquSend 3 k.pound i (i + 1 == k.frames) ((k.words.drop (256 * i)).take 256)

/-- Sends the frames of a commit that still fit `room` bytes; the commit and the bytes left. -/
def Chip.sendCommit (c : Chip) (k : Commit) : Nat → Nat → Chip × Commit × Nat
  | 0, room => (c, k, room)
  | fuel + 1, room =>
    let n := 4 * ((k.words.drop (256 * k.sent)).take 256).length
    if k.whole || decide (room < n) then (c, k, if k.whole then room else 0)
    else (c.sendFrame k k.sent).sendCommit { k with sent := k.sent + 1 } fuel (room - n)

/-- The commits kept, oldest first, send what LEDGER_MAX lets leave in this pound; LAG follows the last one sent whole
(R442). -/
def Chip.ledgerSend (c : Chip) : Chip :=
  if c.aquOn = false then c
  else
    let r := c.aqu.commits.foldl (fun (acc : Chip × List Commit × Nat) k =>
      let q := acc.1.sendCommit k 512 acc.2.2
      let c := if k.whole = false ∧ q.2.1.whole = true then
          let lag := (c.poundNum + 2 ^ 32 - (k.pound + 1) % 2 ^ 32) % 2 ^ 32
          let was := q.1.fld AQU_LEDGER_LAG__LAG
          let c := (q.1.setReg AQU_COMMIT k.pound).setFld AQU_LEDGER_LAG__LAG (min lag 255)
          if was = 0 ∧ lag ≠ 0 then c.raise AQU_INT_STATUS__LEDGER_LAG else c
        else q.1
      (c, acc.2.1 ++ [q.2.1], q.2.2)) (c, [], c.ledgerMax)
    r.1.setAqu (fun a => { a with commits := r.2.1 })

/-- The frozen ledger of pound `n` becomes commit n; with 16 kept the oldest goes, or, when it has not been sent whole,
the standby is dropped at the next boundary (R442, R446). -/
def Chip.ledgerCommit (c : Chip) (n : Nat) : Chip :=
  if c.streams then
    let k : Commit := ⟨n, c.aqu.last.flatMap LedgerRec.words, 0, false⟩
    let size := 4 * k.words.length
    let c := (c.setFld AQU_LEDGER_SIZE__LAST (min size 65535)).peak AQU_LEDGER_SIZE__MAX (min size 65535)
    match c.aqu.commits with
    | old :: t =>
      if 16 ≤ c.aqu.commits.length then
        if old.whole then c.setAqu (fun a => { a with commits := t ++ [k] })
        else c.setAqu (fun a => { a with next := some ⟨0, some 2, false, false⟩ })
      else c.setAqu (fun a => { a with commits := a.commits ++ [k] })
    | [] => c.setAqu (fun a => { a with commits := [k] })
  else c

/-- NAK_RECEIVED: the commit is resent once, as far as it has been sent; frames still to come follow (R444). -/
def Chip.nakReceived (c : Chip) (pound : Nat) : Chip :=
  match c.aqu.commits.find? (fun k => k.pound == pound && k.sent != 0 && !k.resent) with
  | none => c
  | some k =>
    let c := (c.each (List.range k.sent) (fun c i => c.sendFrame k i)).count AQU_CNT0__RETX_CNT 1
    c.setAqu (fun a => { a with commits := a.commits.map (fun x => if x.pound = pound then { x with resent := true } else x) })

/-- NAK_RECEIVED (R444). -/
def execNakReceived (t : Nat) (h : AquHead) (pound : Word) (s : State) : Host.Outcome State Fault Refusal :=
  s.event t (fun c => c.onFrame h (fun c => (c.joinHears 2).nakReceived pound.toNat))

/-- A twin-wide change answered ACCEPTED ends when its commit is acknowledged; an image commit only once it is applied
(R436, R488). -/
def Chip.twinLongDone (c : Chip) (l : LongCmd) (pound : Option Nat) : Bool :=
  (match opInfo l.op with
   | some o => o.twin
   | none => false)
    && (l.op != 0x0203 || (!c.hst.stage.running && !c.hst.stage.applyAt))
    && (match pound with
      | some p => decide (0 ≤ modDiff 32 p l.arg)
      | none => true)

/-- The twin-wide changes up to commit `pound`, all of them when the standby is dropped, get their final reply. -/
def Chip.twinLongsEnd (c : Chip) (pound : Option Nat) : Chip :=
  c.each (c.hst.longs.filter (fun l => c.twinLongDone l pound)) (fun c l =>
    if c.twinLongDone l pound then c.finish l stOK 0 [] else c)

/-- ACK_RECEIVED (R444). -/
def Chip.ackReceived (c : Chip) (pound : Nat) : Chip :=
  if c.drives then
    let c := c.setReg AQU_ACKED pound
    let c := if 2 < modDiff 32 c.poundNum pound then c.count AQU_CNT0__COMMIT_LATE_CNT 1 else c
    c.twinLongsEnd (some pound)
  else c

/-- ACK_RECEIVED (R444). -/
def execAckReceived (t : Nat) (h : AquHead) (pound : Word) (s : State) : Host.Outcome State Fault Refusal :=
  s.event t (fun c => c.onFrame h (fun c => (c.joinHears 2).ackReceived pound.toNat))

end Sys2Proof.Machine
end

