-- ==== Sys2Proof/Machine/Log.lean ====
section
/-! DEFINITION. The Logbook's snapshots, freezing, releasing, saving and restoring, and its commands (R516 to R524). -/

namespace Sys2Proof.Machine

/-- The chip with the Logbook changed. -/
def Chip.setLog (c : Chip) (f : Logbook → Logbook) : Chip := { c with log := f c.log }

/-- LSTATE: 0 RUN, 1 POST, 2 FROZEN, 3 RESTORED, 4 OFF (R517). -/
def Chip.lstate (c : Chip) : Nat := c.fld LOG_STATUS__LSTATE

/-- BAR2 offset of the slot of pound n (R516). -/
def slotAt (n : Nat) : Nat := logSlots + 12288 * (n % 512)

/-- Words of the Logbook's regions written. -/
def Chip.logPut (c : Chip) (a : Nat) (ws : List Word) : Chip :=
  c.setLog (fun l => { l with mem := memWriteWords 0 a ws l.mem })

/-! ## Saving (R521) -/

/-- Flash offset of a save slot (R504). -/
def saveAt (slot : Nat) : Nat := 0x1000000 + 0x400000 * (slot % 2)

/-- The spare save slot: the one that does not hold the newest image. -/
def Chip.spare (c : Chip) : Nat := 1 - c.fld LOG_SAVE_STAT__NEWEST

/-- A save starts in class LOG_FLUSH; while the management ready list is full it waits (R414, R521). -/
def Chip.saveStart (c : Chip) : Chip :=
  let r := (c.raise LOG_STATUS__SAVING).submit 2 ⟨3, 0, none, .logSave, c.now, .firmware⟩
  r.1.setLog (fun l => { l with savePend := !r.2 })

/-- A save that waits for the erase of the spare slot or for the ready list. -/
def Chip.savePump (c : Chip) : Chip :=
  if c.log.savePend && c.flag LOG_STATUS__SPARE_ERASED && c.lstate == 2 then c.saveStart else c

/-- An automatic save at a freeze (R521). -/
def Chip.autoSave (c : Chip) : Chip :=
  if c.flag LOG_CFG__AUTO_SAVE && c.lstate == 2 && !c.flag LOG_STATUS__SAVED && !c.flag LOG_STATUS__SAVING then
    (c.setLog (fun l => { l with savePend := true })).savePump
  else c

/-- The freeze at once: the slot being written stays without VALID (R519). A freeze of bit 7 saves after the warm reset. -/
def Chip.freezeNow (c : Chip) (cause : Option Nat) (save : Bool) : Chip :=
  let c := (c.logFreeze cause).setLog (fun l => { l with pendSlots := [] })
  if save then c.autoSave else c

/-- The image of a save: its header and the bytes behind it (R521). -/
def Chip.saveImage (c : Chip) : List Byte :=
  let k := c.reg LOG_FRZ_POUND
  let n := c.fld LOG_CFG__SAVE_P
  let last := k + c.fld LOG_CFG__POST_P
  let body := memBytes 0 c.log.mem logRing 0x200000
    ++ (List.range n).flatMap (fun i => memBytes 0 c.log.mem (slotAt (last + 2 ^ 32 + 1 - n + i)) 12288)
  let tb := c.log.tbAtFreeze.toNat
  wordsBytes ([0x514D4C42, w32 (2 ^ 24 + 0xFF * 2 ^ 16 + c.fld LOG_STATUS__FRZ_CAUSE * 2 ^ 8 + n), w32 (c.log.saveCnt + 1), w32 k,
    w32 (c.reg LOG_FRZ_SEQ), w32 (c.fld LOG_WR_IDX__IDX), crc32 body, w32 tb, w32 (tb / 2 ^ 32)] ++ List.replicate 7 0) ++ body

/-- Bytes of a flash area replaced; a byte 0xFF is an erased one. -/
def flashPut (flash : List (Nat × Byte)) (a : Nat) (bs : List Byte) : List (Nat × Byte) :=
  flash.filter (fun e => decide (e.1 < a))
    ++ ((bs.zipIdx.map (fun e => (a + e.2, e.1))).filter (fun e => e.2 != 0xFF))
    ++ flash.filter (fun e => decide (a + bs.length ≤ e.1))

/-- A flash area erased. -/
def flashErase (flash : List (Nat × Byte)) (a n : Nat) : List (Nat × Byte) := tabClear a (a + n) flash

/-- The host's LOG_SAVE gets its final reply. -/
def Chip.saveReply (c : Chip) (st : Nat) : Chip := match c.hst.longs.find? (fun l => l.op == 0x0E05) with
  | some l => c.finish l st 0 []
  | none => c

/-- LOG_SAVE_COMPLETE: the image is in the spare slot, or the flash failed (R521). -/
def Chip.saveComplete (c : Chip) (ok : Bool) : Chip :=
  if c.flag LOG_STATUS__SAVING && c.works .logSave then
    let c := ((c.workDone .logSave).setFld LOG_STATUS__SAVING 0).setFld LOG_STATUS__SPARE_ERASED 0
    if ok then
      let s := c.spare
      let c := c.setBoot (fun b => { b with flash := flashPut b.flash (saveAt s) c.saveImage })
      let c := (c.setLog (fun l => { l with saveCnt := (l.saveCnt + 1) % 2 ^ 32 })).setFld LOG_SAVE_STAT__NEWEST s
      (((c.setFld LOG_SAVE_STAT__RESULT 1).raise LOG_STATUS__SAVED).raise LOG_INT_STATUS__SAVE_DONE).saveReply stOK
    else ((c.setFld LOG_SAVE_STAT__RESULT 2).raise LOG_INT_STATUS__SAVE_FAIL).saveReply stIO_ERR
  else c

/-- LOG_SAVE_COMPLETE (R521). -/
def execLogSaveComplete (t : Nat) (ok : Bool) (s : State) : Host.Outcome State Fault Refusal :=
  s.event t (fun c => c.saveComplete ok)

/-- SPARE_ERASE_DONE: the older slot is erased; a save that waited for it starts (R521). -/
def Chip.spareErased (c : Chip) : Chip :=
  if c.flag LOG_STATUS__SPARE_ERASED || c.flag LOG_STATUS__SAVING then c
  else
    let a := saveAt c.spare
    ((c.setBoot (fun b => { b with flash := flashErase b.flash a 0x400000 })).raise LOG_STATUS__SPARE_ERASED).savePump

/-- SPARE_ERASE_DONE (R521). -/
def execSpareEraseDone (t : Nat) (s : State) : Host.Outcome State Fault Refusal := s.event t Chip.spareErased

/-! ## Snapshots (R516, R519) -/

/-- The probe words of a pound, taken in tick SPHASE, or in the last tick of a pound that ends before it: writing of its
slot begins with VALID 0. -/
def Chip.snapProbe (c : Chip) : Chip :=
  let n := c.poundNum
  if c.lstate ≤ 1 ∧ (c.log.pendSlots.all (fun e => e.1 != n)) = true then
    let c := c.at (c.pnd.start + min (c.fld LOG_SPHASE__SPHASE) (c.poundLen - 1))
    let tb := tb0Of c.pnd.start
    let words := (List.range 64).map (fun j => c.probeSrc (c.fld (LOG_SNAP_SEL__SEL j)))
    let a := slotAt n
    let c := c.setLog (fun l => { l with mem := tabClear a (a + 12288) l.mem, pendSlots := l.pendSlots ++ [(n, [], false)] })
    let c := c.logPut a [w32 n, 0, w32 (c.reg SYS_STATE), w32 c.pnd.cn, w32 (c.pnd.cn / 2 ^ 32), w32 tb, w32 (tb / 2 ^ 32)]
    c.logPut (a + 0x40) (packHalves words)
  else c

/-- LOG_SNAPSHOT_PROBE (R516). -/
def execLogSnapshotProbe (s : State) : Host.Outcome State Fault Refusal := s.event s.chip.now Chip.snapProbe

/-- Whole records up to 12,096 bytes; the truth value says that some were left out. -/
def fitRecords : Nat → List (List Word) → List Word × Bool
  | _, [] => ([], false)
  | room, r :: t =>
    if room < 4 * r.length then ([], true)
    else let q := fitRecords (room - 4 * r.length) t; (r ++ q.1, q.2)

/-- At the boundary that ends pound `n` its slot takes the ledger of commit n, of the kinds marked in LOG_SNAP_LMASK. -/
def Chip.snapLedger (c : Chip) (n : Nat) : Chip :=
  let mask := c.reg LOG_SNAP_LMASK
  let q := fitRecords 12096 ((c.aqu.last.filter (fun r => mask.testBit r.kind)).map LedgerRec.words)
  c.setLog (fun l => { l with pendSlots := l.pendSlots.map (fun e => if e.1 = n then (n, wordsBytes q.1, q.2) else e) })

/-- LOG_SLOT_COMPLETE: the ledger bytes are written and the slot becomes VALID; from POST the Logbook may freeze. -/
def Chip.slotComplete (c : Chip) : Chip :=
  match c.log.pendSlots.find? (fun e => e.1 != c.poundNum) with
  | none => c
  | some e =>
    if c.lstate ≤ 1 then
      let a := slotAt e.1
      let c := c.setLog (fun l => { l with pendSlots := l.pendSlots.filter (fun x => x.1 != e.1),
                                           mem := memWrite 0 (a + 0xC0) e.2.1 l.mem })
      let c := c.logPut (a + 4) [w32 (2 ^ 31 + b2n e.2.2 * 2 ^ 30 + e.2.1.length)]
      if c.lstate = 1 ∧ c.log.freezeAt.map (· % 2 ^ 32) = some e.1 then c.freezeNow none true else c
    else c

/-- LOG_SLOT_COMPLETE (R516). -/
def execLogSlotComplete (t : Nat) (s : State) : Host.Outcome State Fault Refusal := s.event t Chip.slotComplete

/-! ## Triggers that freeze at once (R511, R519) -/

/-- A watchdog or lockstep trigger: with LOG_TRIG bit 7 set it freezes from RUN or POST at once. -/
def Chip.trigger7 (c : Chip) : Chip :=
  if (c.fld LOG_TRIG__MASK).testBit 7 ∧ c.lstate ≤ 1 then (c.logTrigger 7).freezeNow (some 7) false else c

/-- Brown-out freezes from RUN or POST at once. -/
def Chip.brownoutFreeze (c : Chip) : Chip := if c.lstate ≤ 1 then c.freezeNow (some 10) false else c

/-! ## Commands and registers (R519 to R521, R524) -/

/-- UNREAD of the newest save image is programmed to 0 (R522). -/
def Chip.markReleased (c : Chip) : Chip :=
  let a := saveAt (c.fld LOG_SAVE_STAT__NEWEST) + 6
  c.setBoot (fun b => { b with flash := tabPut (fun _ => (0xFF : Byte)) a 0 b.flash })

/-- LOG_RELEASE's rules (R520). -/
def Chip.logRelease (c : Chip) (_ : Intake) : Chip × Answer :=
  if c.lstate ≠ 2 ∧ c.lstate ≠ 3 then (c, ansState)
  else if c.flag LOG_STATUS__SAVING then (c, ansBusy)
  else
    let c := if c.lstate = 3 ∨ c.flag LOG_STATUS__SAVED = true then c.markReleased else c
    let c := (c.setFld LOG_STATUS__LSTATE 0).setFld LOG_STATUS__SAVED 0
    let evt := c.log.bootEvt
    let c := c.setLog (fun l => { l with mem := [], q := [], bootEvt := none, freezeAt := none, pendSlots := [], savePend := false })
    (match evt with
      | some e => c.logEvent 1 e.1 e.2.1 e.2.2
      | none => c, ansOK)

/-- LOG_RELEASE (R520). -/
def execLogRelease (t : Nat) (ifc : Iface) (tag target : Word) (pl : List Word) (s : State) :
    Host.Outcome State Fault Refusal :=
  s.command t 0x0E04 ifc tag target pl Chip.logRelease

/-- LOG_FREEZE's rules (R519, R520). -/
def Chip.logFreezeCmd (c : Chip) (_ : Intake) : Chip × Answer :=
  if c.lstate ≤ 1 then (c.freezeNow (some 9) true, ansOK) else (c, ansState)

/-- LOG_FREEZE (R519). -/
def execLogFreeze (t : Nat) (ifc : Iface) (tag target : Word) (pl : List Word) (s : State) :
    Host.Outcome State Fault Refusal :=
  s.command t 0x0E03 ifc tag target pl Chip.logFreezeCmd

/-- LOG_SAVE's rules (R521). -/
def Chip.logSaveCmd (c : Chip) (k : Intake) : Chip × Answer :=
  if c.lstate ≠ 2 then (c, ansState)
  else if c.flag LOG_STATUS__SAVING ∨ c.flag LOG_STATUS__SPARE_ERASED = false ∨ c.longFree k.op 0 = false then (c, ansBusy)
  else (c.saveStart, .accepted 0)

/-- LOG_SAVE (R521). -/
def execLogSave (t : Nat) (ifc : Iface) (tag target : Word) (pl : List Word) (s : State) :
    Host.Outcome State Fault Refusal :=
  s.command t 0x0E05 ifc tag target pl Chip.logSaveCmd

/-- LOG_STATUS's rules: the status words from one tick (R524). -/
def Chip.logStatusCmd (c : Chip) (_ : Intake) : Chip × Answer :=
  (c, .now stOK 0 ([LOG_STATUS, LOG_WR_SEQ, LOG_WR_IDX, LOG_FRZ_SEQ, LOG_FRZ_POUND, LOG_CNT, LOG_SAVE_STAT, LOG_BOOT,
    LOG_FW_VER].map (fun r => w32 (c.reg r))))

/-- LOG_STATUS (R524). -/
def execLogStatus (t : Nat) (ifc : Iface) (tag target : Word) (pl : List Word) (s : State) :
    Host.Outcome State Fault Refusal :=
  s.command t 0x0E01 ifc tag target pl Chip.logStatusCmd

/-- LOG_READ's rules: words of the Logbook's part of BAR2 (R467, R496). -/
def Chip.logRead (c : Chip) (k : Intake) : Chip × Answer :=
  let a := wordAt k.payload 0
  let n := wordAt k.payload 1
  if a % 4 ≠ 0 ∨ a < 0x0800000 ∨ 0x0FFFFFF < a then (c, ansArg 0)
  else if n = 0 ∨ 1024 < n ∨ 0x1000000 < a + 4 * n then (c, ansArg 1)
  else (c, .now stOK 0 (memWords 0 c.log.mem a n))

/-- LOG_READ (R496). -/
def execLogRead (t : Nat) (ifc : Iface) (tag target : Word) (pl : List Word) (s : State) :
    Host.Outcome State Fault Refusal :=
  s.command t 0x0E02 ifc tag target pl Chip.logRead

/-- A write of a LOG_ configuration register; `none` for any other (R524). -/
def Chip.logWr (c : Chip) (off v : Nat) : Option Chip :=
  let rej := some (c.raise LOG_STATUS__CFG_REJ)
  let quiet := decide (2 ≤ c.lstate)
  if off = LOG_CFG then
    if 64 < bits v 16 10 then rej
    else
      let c := c.writeBits off v
      if v.testBit 31 = false then
        some ((c.setFld LOG_STATUS__LSTATE 4).setLog (fun l => { l with freezeAt := none, pendSlots := [] }))
      else if c.lstate = 4 then some (c.setFld LOG_STATUS__LSTATE 0) else some c
  else if off = LOG_SPHASE then if quiet && decide (bits v 17 0 < c.P) then some (c.writeBits off v) else rej
  else if off = LOG_SNAP_LMASK then if quiet then some (c.writeBits off v) else rej
  else if LOG_SNAP_SEL 0 ≤ off ∧ off < LOG_SNAP_SEL 64 then
    if quiet && c.selOk (bits v 15 0) then some (c.writeBits off v) else rej
  else none

/-! ## Boot (R511, R522) -/

/-- The save image in a slot has a correct MAGIC and CRC; its SAVE_CNT. -/
def imageAt (flash : List (Nat × Byte)) (slot : Nat) : Option Nat :=
  let a := saveAt slot
  let w (i : Nat) : Nat := (memWord 0xFF flash (a + 4 * i)).toNat
  if w 0 = 0x514D4C42 ∧ crc32 (memBytes 0xFF flash (a + 64) (0x200000 + 12288 * bits (w 1) 7 0)) = w32 (w 6) then some (w 2)
  else none

/-- The slot of the newest image. -/
def newestImage (flash : List (Nat × Byte)) : Option (Nat × Nat) :=
  match imageAt flash 0, imageAt flash 1 with
  | some a, some b => if a ≤ b then some (1, b) else some (0, a)
  | some a, none => some (0, a)
  | none, some b => some (1, b)
  | none, none => none

/-- LOG_RESTORE: an unread image is copied back and the Logbook is RESTORED (R522). -/
def Chip.logRestore (c : Chip) : Chip :=
  match newestImage c.boot.flash with
  | none => c
  | some (s, cnt) =>
    let a := saveAt s
    let w (i : Nat) : Nat := (memWord 0xFF c.boot.flash (a + 4 * i)).toNat
    let c := (c.setFld LOG_SAVE_STAT__NEWEST s).setLog (fun l => { l with saveCnt := cnt })
    if bits (w 1) 23 16 = 0xFF ∧ c.flag LOG_CFG__RESTORE_EN then
      let m := memWrite 0 logRing (memBytes 0xFF c.boot.flash (a + 64) 0x200000) []
      let m := (List.range (bits (w 1) 7 0)).foldl (fun m i =>
        let b := memBytes 0xFF c.boot.flash (a + 64 + 0x200000 + 12288 * i) 12288
        memWrite 0 (slotAt (leNat (b.take 4))) b m) m
      let c := c.setLog (fun l => { l with mem := m })
      let c := (c.setReg LOG_FRZ_SEQ (w 4)).setReg LOG_FRZ_POUND (w 3)
      (c.setFld LOG_STATUS__FRZ_CAUSE (bits (w 1) 15 8)).setFld LOG_STATUS__LSTATE 3
    else c

/-- The BOOT event: at once when events are written, else as the first entry after the release (R514, R522). -/
def Chip.bootEvent (c : Chip) : Chip :=
  let e := (w32 (c.reg LOG_FW_VER), w32 (c.fld LOG_BOOT__SLOT), w32 (c.reg LOG_BOOT))
  if c.lstate = 2 ∨ c.lstate = 3 then c.setLog (fun l => { l with bootEvt := some e }) else c.logEvent 1 e.1 e.2.1 e.2.2

end Sys2Proof.Machine
end

