-- ==== Sys2Proof/Machine/PSet.lean ====
section
/-! DEFINITION. The safety parameter set: loading, checks, confirmation, activation (R373 to R376, R411). -/

namespace Sys2Proof.Machine

/-! ## The checks of R375 on a set's bytes -/

/-- LEN of a set. -/
def setLen (m : List (Nat × Byte)) : Nat := bits (setW m 0) 16 0

/-- The bytes of a set before LEN: those at or beyond it, a signature among them, read as 0 (R408). -/
def setBody (m : List (Nat × Byte)) : List (Nat × Byte) := m.filter (fun e => decide (e.1 < setLen m))

/-- The CRC of a set's bytes 0 … LEN − 1 with the SET_CRC word taken as 0 (R374). -/
def setCrc (m : List (Nat × Byte)) : Word :=
  let n := min (setLen m) 65536
  crcMsb 0xF4ACFB13 0xFFFFFFFF 0xFFFFFFFF
    ((List.range n).map (fun i => if 0x10 ≤ i ∧ i < 0x14 then 0 else tabGet (fun _ => (0 : Byte)) m i))

/-- Check 1 (R375). -/
def setCheck1 (m : List (Nat × Byte)) : Bool :=
  bits (setW m 0) 31 24 == 1 && decide (0x3A00 ≤ setLen m ∧ setLen m ≤ 65536) && (setCrc m).toNat == setW m 0x10

/-- The big-endian bytes of a number. -/
def keyBytes (n v : Nat) : List Byte := beBytes n v

/-- Check 2: the signature valid, or none and none required (R374, R375). Numbers of the signature are most significant
byte first (PRESUMED, as ECDSA P-256 signatures are exchanged). -/
def setCheck2 (o : Otp) (m : List (Nat × Byte)) : Bool :=
  let n := setLen m
  match bits (setW m 0x0C) 7 0 with
  | 0 => !o.safetySigReq
  | 1 =>
    let k := Config.safetyKey.toNat
    sha256 (keyBytes 64 k) == o.safetyKeyHash.toNat &&
      ecdsaVerify (k / 2 ^ 256) (k % 2 ^ 256) (sha256 (memBytes 0 m 0 n)) (beNat (memBytes 0 m n 32))
        (beNat (memBytes 0 m (n + 32) 32))
  | _ => false

/-- Input i of a set is enabled with one of these roles. -/
def setInOk (m : List (Nat × Byte)) (i : Nat) (roles : List Nat) : Bool :=
  decide (i < 24) && (setW m (inOff i)).testBit 31 && roles.contains (inRole (setW m (inOff i)))

/-- Check 3: the global fields (R375); a connection named by RIDX must be an enabled REMOTE_IN. -/
def setCheck3 (m : List (Nat × Byte)) : Bool :=
  let a := setW m 0x40
  let w := setW m 0x48
  let i := bits w 7 0
  let k := setW m (connOff i)
  decide (100 ≤ bits a 25 16 ∧ bits a 25 16 ≤ 1000) && decide (10 ≤ bits a 15 0 ∧ bits a 15 0 ≤ 1000) &&
    decide (bits (setW m 0x44) 9 0 ≤ 500) && (!w.testBit 31 || (setW m 0x08).testBit 0) &&
    (if w.testBit 30 then k.testBit 31 && connKind k == 4 else setInOk m i [2])

/-- Check 4 on one input (R355, R375). -/
def setInputOk (m : List (Nat × Byte)) (i : Nat) : Bool :=
  let w := setW m (inOff i)
  !w.testBit 31 ||
    (inRole w != 3 && (w.testBit 26 || decide (2 ≤ bits w 11 0 ∧ bits w 11 0 ≤ 4000))
      && decide (bits (setW m (inOff i + 4)) 14 0 ≤ 25000) && !(w.testBit 19 && w.testBit 28))

/-- Check 5 on one output pair (R375). -/
def setPairOk (m : List (Nat × Byte)) (k : Nat) : Bool :=
  let w := setW m (pairOff k)
  let g := setW m (groupOff (bits w 27 24))
  !w.testBit 31 || (g.testBit 31 && (!g.testBit 30 || decide (1 ≤ bits g 13 0 ∧ bits g 13 0 ≤ 10000)))

/-- An activation field names an input where it must (R375). -/
def setActOk (m : List (Nat × Byte)) (act i : Nat) : Bool := decide (act ≤ 1) || setInOk m i [0, 1]

/-- Check 6 on one axis monitor (R375). -/
def setMonOk (m : List (Nat × Byte)) (k : Nat) : Bool :=
  let o := monOff k
  let w := setW m o
  let f := setW m (o + 4)
  let q := setW m (o + 0x20)
  !w.testBit 31 ||
    (decide (setI48 m (o + 0x10) ≤ setI48 m (o + 0x18)) && bits q 31 16 != 0 && bits q 15 0 != 0
      && setActOk m (bits f 31 30) (bits f 28 24) && setActOk m (bits f 23 22) (bits f 20 16)
      && setActOk m (bits f 15 14) (bits f 12 8))

/-- Check 7 on one flight monitor (R362, R375). -/
def setFmonOk (m : List (Nat × Byte)) (f : Nat) : Bool :=
  let o := fmonOff f
  let w := setW m o
  let n := bits w 4 0
  let axes := (memBytes 0 m (o + 0x10) n).map (fun b => setW m (monOff b.toNat))
  !w.testBit 31 ||
    (decide (1 ≤ n ∧ n ≤ 16) && axes.all (fun a => a.testBit 31 && monWW a == monWW (axes.getD 0 0)))

/-- A finite binary32 not below 0. -/
def fNonNeg (w : Nat) : Bool := fFinite w && decide (0 ≤ fRat w)

/-- Check 8 on one connection (R411): `before` are the connections of lower number. Z_D is a binary32 of every entry, in
use or not. -/
def setConnOk (m : List (Nat × Byte)) (k : Nat) : Bool :=
  let e (j : Nat) : Nat := setW m (connOff j)
  let w := e k
  let kind := connKind w
  let before := (List.range k).filter (fun j => (e j).testBit 31)
  let p := setW m (connOff k + 0x10)
  let ns := bits w 23 21
  let slots (j : Nat) : Nat × Nat := (bits (setW m (connOff j + 0x10)) 21 16, bits (e j) 23 21)
  fNonNeg (setW m (connOff k + 0x18)) && (!w.testBit 31 ||
    (decide (kind ≤ 5) && setW m (connOff k + 4) != 0
      && before.all (fun j => setW m (connOff j + 4) != setW m (connOff k + 4))
      && (!rxKind kind || (bits (setW m (connOff k + 8)) 31 16 != 0 && bits (setW m (connOff k + 0x0C)) 7 0 != 0))
      && (rxKind kind || decide (bits p 28 22 < 2 ^ bits p 31 29))
      && (kind != 0 || ((setW m (groupOff (bits w 27 24))).testBit 31
          && before.all (fun j => connKind (e j) != 0 || bits (e j) 19 9 != bits w 19 9)))
      && (kind != 1 || before.all (fun j => connKind (e j) != 1 || bits (e j) 19 14 != bits w 19 14))
      && (kind != 3 || (decide (1 ≤ ns ∧ ns ≤ 6) && decide ((slots k).1 + ns ≤ 64)
          && before.all (fun j => connKind (e j) != 3
              || decide ((slots j).1 + (slots j).2 ≤ (slots k).1 ∨ (slots k).1 + ns ≤ (slots j).1))))))

/-- Check 8 on one arm (R411): its binary32 values are finite whether its parts are in use or not. -/
def setArmOk (m : List (Nat × Byte)) (a : Nat) : Bool :=
  let o := armOff a
  let nj := bits (setW m o) 27 24
  let fins (b n : Nat) : Bool := (List.range n).all (fun i => fFinite (setW m (b + 4 * i)))
  let joint (j : Nat) : Nat := o + 0x20 + 48 * j
  let capsule (i : Nat) : Nat := o + 0x1A0 + 32 * i
  fins (o + 4) 3 && (List.range 8).all (fun j => fins (joint j + 0x14) 5) && (List.range 8).all (fun i => fins (capsule i + 4) 7)
    && (!(setW m o).testBit 31 ||
    (decide (1 ≤ nj ∧ nj ≤ 8)
      && (List.range 8).all (fun j =>
          let w := setW m (joint j)
          if w.testBit 31 then (setW m (monOff (bits w 7 0))).testBit 31 else decide (nj ≤ j))
      && (List.range 8).all (fun i =>
          let w := setW m (capsule i)
          !w.testBit 31 || decide (bits w 3 0 ≤ nj))))

/-- Check 8 on the global fields of the safety layer (R411). -/
def setSsmOk (m : List (Nat × Byte)) : Bool :=
  let g := ssmGlobal m
  (List.range 8).all (fun i => fFinite (g i)) && (List.range 5).all (fun i => fNonNeg (g i)) && fLt (g 5) (g 6)

/-- The first number of a range that fails a check. -/
def firstBad (n : Nat) (p : Nat → Bool) : Option Nat := (List.range n).find? (fun i => !p i)

/-- The first failure of R375 as (code, index), in ascending code order: `same` says that the CRCs of the two channels
agree. The fields are checked with the bytes at or beyond LEN read as 0 (R408). -/
def setFailure (o : Otp) (staged : List (Nat × Byte)) (same : Bool) : Option (Nat × Nat) :=
  let m := setBody staged
  if setCheck1 staged = false then some (1, 0)
  else if setCheck2 o staged = false then some (2, 0)
  else if setCheck3 m = false then some (3, 0)
  else match firstBad 24 (setInputOk m) with
    | some i => some (4, i)
    | none => match firstBad 24 (setPairOk m) with
      | some i => some (5, i)
      | none => match firstBad 256 (setMonOk m) with
        | some i => some (6, i)
        | none => match firstBad 32 (setFmonOk m) with
          | some i => some (7, i)
          | none => match firstBad 256 (setConnOk m) with
            | some i => some (8, i)
            | none => match firstBad 16 (setArmOk m) with
              | some i => some (8, 0x200 + i)
              | none => if setSsmOk m = false then some (8, 0x400) else if same then none else some (9, 0)

/-! ## Loading and checking (R375) -/

/-- A long command of an opcode that is in progress. -/
def Chip.longOf (c : Chip) (op : Nat) : Option LongCmd := c.hst.longs.find? (fun l => l.op == op)

/-- The bytes of a payload's data words, the first `n` of them. -/
def dataBytes (ws : List Word) (n : Nat) : List Byte := (wordsBytes ws).take n

/-- WEIR_PSET_LOAD's rules (R375). Every accepted chunk ends a pending confirmation. -/
def Chip.psetLoad (c : Chip) (k : Intake) : Chip × Answer :=
  let off := wordAt k.payload 0
  let w := wordAt k.payload 1
  let n := bits w 16 0
  if off % 4 ≠ 0 ∨ 65536 + 64 < off + n then (c, ansArg (if off % 4 ≠ 0 ∨ 65536 + 64 < off then 0 else 1))
  else if c.dryOrMoored = false then (c, ansState)
  else if (c.longOf 0x0B02).isSome then (c, ansBusy)
  else
    let stage := if off = 0 then [] else c.weir.stage
    let c := c.setWeir (fun x => { x with
      stage := memWrite 0 off (dataBytes (k.payload.drop 2) n) stage, okT := none })
    let c := (c.setFlag WEI_PSET_STAGE__STAGED (w.testBit 31)).setFld WEI_PSET_STAGE__CHECK_OK 0
    (c, if w.testBit 31 then .accepted 0 else ansOK)

/-- WEIR_PSET_LOAD (R375). -/
def execWeirPsetLoad (t : Nat) (ifc : Iface) (tag target : Word) (pl : List Word) (s : State) :
    Host.Outcome State Fault Refusal :=
  s.command t 0x0B01 ifc tag target pl Chip.psetLoad

/-- Both channels have checked the staged set: the completion event and the result (R375). -/
def Chip.psetChecked (c : Chip) (crcDiff : Word) : Chip :=
  match c.longOf 0x0B01 with
  | none => c
  | some l =>
    let m := c.weir.stage
    let crc := setCrc m
    let c := (c.setReg WEI_PSET_SCRC crc.toNat).raise WEI_INT_STATUS__PSET_CHECKED
    match setFailure c.boot.otp m (crcDiff == 0) with
    | some (code, i) =>
      let c := (c.setFld WEI_PSET_STAGE__CODE code).setFld WEI_PSET_STAGE__INDEX i
      c.finish l stINVALID_ARG (code * 2 ^ 12 + i) []
    | none =>
      let c := ((c.setFld WEI_PSET_STAGE__CODE 0).setFld WEI_PSET_STAGE__INDEX 0).raise WEI_PSET_STAGE__CHECK_OK
      let c := c.setWeir (fun x => { x with okT := some c.now })
      c.finish l stOK 0 [crc, crc, w32 (setW m 4), w32 (bits (setW m 8) 31 16)]

/-- PSET_CHECK_COMPLETE (R375). -/
def execPsetCheckComplete (e : CheckEnd) (s : State) : Host.Outcome State Fault Refusal :=
  s.event e.t (fun c => c.psetChecked e.crcDiff)

/-! ## Confirmation (R376) -/

/-- Ticks of the 600 s within which a checked set can be confirmed. -/
abbrev confirmTicks : Nat := 480000000000

/-- WEIR_PSET_CONFIRM's rules (R376). -/
def Chip.psetConfirm (c : Chip) (k : Intake) : Chip × Answer :=
  let live := match c.weir.okT with
    | some t => decide (c.now ≤ t + confirmTicks)
    | none => false
  if c.dryOrMoored = false then (c, ansState)
  else if (c.longOf 0x0B02).isSome then (c, ansBusy)
  else if live = false then (c, .now stNOT_FOUND 0 [])
  else
    let bad := if wordAt k.payload 0 ≠ setW c.weir.stage 4 then some 0
      else if wordAt k.payload 1 ≠ setW c.weir.stage 0x10 then some 1 else none
    match bad with
    | some i =>
      (((c.setFld WEI_PSET_STAGE__STAGED 0).setFld WEI_PSET_STAGE__CHECK_OK 0).setWeir (fun x => { x with
        stage := [], okT := none }), ansArg i)
    | none => (c, .accepted 0)

/-- WEIR_PSET_CONFIRM (R376). -/
def execWeirPsetConfirm (t : Nat) (ifc : Iface) (tag target : Word) (pl : List Word) (s : State) :
    Host.Outcome State Fault Refusal :=
  s.command t 0x0B02 ifc tag target pl Chip.psetConfirm

/-- After 600 s a checked set can no longer be confirmed (R376). -/
def Chip.confirmExpiry (c : Chip) : Chip :=
  match c.weir.okT with
  | some t =>
    if t + confirmTicks < c.now ∧ c.longOf 0x0B02 = none then
      (c.setFld WEI_PSET_STAGE__CHECK_OK 0).setWeir (fun x => { x with okT := none })
    else c
  | none => c

/-- CONFIRM_WINDOW_EXPIRY (R376). -/
def execConfirmWindowExpiry (t : Nat) (s : State) : Host.Outcome State Fault Refusal :=
  s.event t Chip.confirmExpiry

/-- Flash offset of the parameter set's first copy (R504). -/
abbrev flashPset : Nat := 0x0800000

/-- The confirmed set in flash: both copies of 64 KiB, the signature behind byte LEN − 1. -/
def Chip.psetFlash (c : Chip) (m : List (Nat × Byte)) : Chip :=
  let bs := (memBytes 0 m 0 (setLen m + 64)).take 65536
  { c with boot := { c.boot with flash := memWrite 0xFF (flashPset + 65536) bs (memWrite 0xFF flashPset bs c.boot.flash) } }

/-- The flash write of a confirmed set ends: it is the confirmed set, or stays unconfirmed on IO_ERR. One confirmed
outside DRY replaces the active set at the next boundary (R376, R496). -/
def Chip.psetWritten (c : Chip) (ok : Bool) : Chip :=
  match c.longOf 0x0B02 with
  | none => c
  | some l =>
    if ok then
      let m := c.weir.stage
      let c := c.psetFlash m
      let c := (c.setFld WEI_PSET_STAGE__CHECK_OK 0).setWeir (fun x => { x with
        conf := m, confV := true, swap := c.opState != 0, okT := none })
      c.finish l stOK 0 []
    else c.finish l stIO_ERR 0 []

/-- PSET_FLASH_WRITE_DONE (R376). -/
def execPsetFlashWriteDone (t : Nat) (ok : Bool) (s : State) : Host.Outcome State Fault Refusal :=
  s.event t (fun c => c.psetWritten ok)

/-! ## Activation (R376, R391, R392) -/

/-- The state a connection takes when a set becomes active (R391, R412). -/
def Chip.connStart (c : Chip) (w : Nat) : Nat :=
  if w.testBit 31 = false then 0
  else if rxKind (connKind w) = false then 5
  else if connKind w = 2 ∧ c.role = 2 then 4
  else 1

/-- What the Weir holds of a set that is no longer active is given up: monitors, connections, tracks, test pulses, and the
faults and fast demands of the inputs, whose levels stay; the views of the monitors follow (R380). -/
def Chip.weirFresh (c : Chip) : Chip :=
  let c := c.setWeir (fun x => { x with
    mons := [], monsB := [], fmons := [], fmonsB := [], monNow := false, monLast := false, conns := [], tracks := [], ends := []
    pulse := [] })
  let c := c.tpRelease
  let clear (x : SafeIn) : SafeIn := ⟨x.a, x.b, false, false, 0, false, false, false⟩
  let c := c.each (List.range 24) (fun c i => c.setSafeIn i (clear (c.safeIn i)) (clear (c.safeInB i)))
  (c.each (List.range 8) (fun c j => c.setReg (WEI_MON_TRIP j) 0)).setReg WEI_FMON_TRIP 0

/-- The confirmed set becomes active: the Weir is READY unless it is TRIPPED or FAILED, its monitors and connections
start, causes are evaluated anew, and receive connections in OPEN trip (R376, R391, R392). -/
def Chip.psetActivate (c : Chip) : Chip :=
  let m := c.weir.conf
  let c := c.setWeir (fun x => { x with act := setBody m, actV := true, actT := c.now, swap := false })
  let c := c.weirFresh
  let c := (c.setReg WEI_PSET_ID (setW m 4)).setReg WEI_PSET_CRC (setW m 0x10)
  let c := c.raise WEI_INT_STATUS__PSET_ACTIVE
  let c := c.clearMask WEI_CAUSE 0xFFF
  let c := c.each (List.range 256) (fun c k =>
    let st := c.connStart (c.ws (connOff k))
    let c := c.setReg (WEI_CONN_STAT k) (st * 2 ^ 29)
    if st = 0 then c else c.setConn k { Conn.init with last := c.now })
  let c := c.each (List.range 8) (fun c j => c.setReg (WEI_SSM_HINT j) 0x80008000)
  let c := if c.wstate = 1 then c.setFld WEI_STATUS__WSTATE 2 else c
  (c.weirFollow 10 c.safeFrame c.safeFrame).weirRefresh

/-- Entry to DRY deactivates the set and keeps it confirmed; FAILED stays (R30, R376). -/
def Chip.psetDeactivate (c : Chip) : Chip :=
  let c := c.setWeir (fun x => { x with act := [], actV := false, swap := false })
  let c := c.weirFresh
  let c := (c.setReg WEI_PSET_ID 0).setReg WEI_PSET_CRC 0
  let c := c.clearMask WEI_CAUSE 0xFFF
  let c := c.each (List.range 256) (fun c k => c.setReg (WEI_CONN_STAT k) 0)
  let c := c.each (List.range 8) (fun c j => c.setReg (WEI_SSM_HINT j) 0x80008000)
  let c := if c.wstate = 4 then c else c.setFld WEI_STATUS__WSTATE 1
  c.weirRefresh

/-- A set confirmed outside DRY replaces the active one at a boundary (R376). -/
def Chip.psetSwap (c : Chip) : Chip := if c.weir.swap && c.opState != 0 then c.psetActivate else c

/-- The channels recompute the active set's CRC; a mismatch raises PSET (R376). -/
def execPsetCrcRecheck (t : Nat) (okA : Bool) (okB : Bool) (s : State) : Host.Outcome State Fault Refusal :=
  s.event t (fun c =>
    if c.weir.actV && !(okA && okB) && !c.causeOn 16 then c.weirRaise 16 (!okA) (!okB) else c)

/-- The set stored in the copy at a flash offset. -/
def storedSet (flash : List (Nat × Byte)) (o : Nat) : List (Nat × Byte) :=
  memWrite 0 0 (memBytes 0xFF flash o 65536) []

/-- The copy at a flash offset passes R374. -/
def storedOk (p : Otp) (flash : List (Nat × Byte)) (o : Nat) : Bool :=
  bits (memWord 0xFF flash o).toNat 31 24 == 1 && setCheck1 (storedSet flash o) && setCheck2 p (storedSet flash o)

/-- Boot: both channels verify the stored set; one that passes is the confirmed set (R376, R510). -/
def Chip.psetBoot (c : Chip) : Chip :=
  let ok (o : Nat) : Bool := storedOk c.boot.otp c.boot.flash o
  let c := if ok flashPset then c.setWeir (fun x => { x with conf := storedSet c.boot.flash flashPset, confV := true })
    else if ok (flashPset + 65536) then
      c.setWeir (fun x => { x with conf := storedSet c.boot.flash (flashPset + 65536), confV := true })
    else c.setWeir (fun x => { x with conf := [], confV := false })
  if c.wstate = 0 then c.setFld WEI_STATUS__WSTATE 1 else c

end Sys2Proof.Machine
end

