-- ==== Sys2Proof/Machine/OpState.lean ====
section
/-! DEFINITION. What entering an operating state does to the blocks (R30, R63, R115, R257, R376, R507). -/

namespace Sys2Proof.Machine

/-- MIN_SVN: the number of bits set of the thermometer code (R508). -/
def Otp.minSvnNum (o : Otp) : Nat := ((List.range 64).filter o.minSvn.getLsbD).length

/-- MIN_SVN is programmed to SVN when MOORED is reached for the first time (R507). -/
def Chip.minSvnProgram (c : Chip) : Chip :=
  if c.boot.moored then c
  else
    let c := { c with boot := { c.boot with moored := true } }
    match c.boot.commitSvn with
    | some v =>
      if c.boot.otp.minSvnNum < v then
        let c := { c with boot := { c.boot with otp := { c.boot.otp with minSvn := BitVec.ofNat 64 (2 ^ v - 1) } } }
        c.setFld LOG_BOOT__MIN_SVN c.boot.otp.minSvnNum
      else c
    | none => c

/-- Basin planning stops: the cycle under way ends without a status and the last plan is discarded (R30). -/
def Chip.planStop (c : Chip) : Chip :=
  { c with plan := { c.plan with phase := .none, pub := [], newKnots := [], knots := [] } }

/-- Entry to DRY: the Manifest is emptied, the Towpath silent, the flights idle, no set active, planning stopped. -/
def Chip.enterDry (c : Chip) : Chip := c.manClear.towDry.flightsIdle.psetDeactivate.planStop

/-- A device that leaves DRY activates the confirmed set (R376). -/
def Chip.leaveDry (c : Chip) : Chip := if c.weir.confV then c.psetActivate else c

/-- Entry to MOORED: flights track; from DRY each port of an acting device starts its bring-up. -/
def Chip.enterMoored (c : Chip) (old : Nat) : Chip :=
  let c := (c.flightsTrack true).minSvnProgram
  if old = 0 ∧ c.drives = true then c.bringAll else c

/-- Entry to HALTED: flights ramp down, planning stops; enable is requested until they stand still (R30, R63, R366). -/
def Chip.enterHalted (c : Chip) : Chip :=
  ((c.planStop.flightsRamp.setWeir (fun w => { w with haltReq := true })).haltDone).logTrigger 2

/-- The device enters an operating state (R30, R32): SYS_STATE, the STATE event, and what the blocks do. -/
def Chip.enterState (c : Chip) (new cause : Nat) : Chip :=
  let old := c.opState
  let c := (c.setFld SYS_STATE__STATE new).setFld SYS_STATE__LAST_CAUSE cause
  if new = old then c
  else
    let c := c.logEvent 2 (w32 new) (w32 cause) (w32 old)
    let c := c.setWeir (fun w => { w with haltReq := false })
    let c := if old = 0 then c.leaveDry else c
    let c := match new with
      | 0 => c.enterDry
      | 1 => c.enterMoored old
      | 2 => c.flightsRun
      | 3 => c.enterHalted
      | _ => c.planStop.flightsTrack false
    c.weirRefresh

end Sys2Proof.Machine
end

