-- ==== Sys2Proof/Machine/Kinem.lean ====
section
/-! DEFINITION. The kinematics of an arm as the planner firmware uses it: link frames by the Denavit–Hartenberg chain,
capsule distances with their gradients, pose errors and Jacobians (R167, R185). Values are exact rationals, the irrational
functions taken far below a binary32 step; a value the firmware holds is the binary32 value beside which its own roundings
put it, by a free number of steps (log entry 76). -/

namespace Sys2Proof.Machine

/-- A value of the planner firmware: the exact one rounded to binary32, then moved by the free number of steps by which the
firmware's roundings at that place lie beside it. -/
def fwVal (place : Nat) (x : Rat) : Word := w32 (fMove (fOfRat x) (Config.fwSteps place x).toInt)

/-! ## Functions -/

/-- π. -/
def piQ : Rat := 3141592653589793238462643383279502884197169399375105820974944592 / 10 ^ 63

/-- The square root of a value not below 0. -/
def sqrtQ (x : Rat) : Rat := (isqrt (x * 2 ^ 200).floor.toNat : Rat) / 2 ^ 100

/-- The sum of `n` terms of a series: a term, the square of the argument, and the divisor from one term to the next. -/
def seriesQ (n : Nat) (first x2 : Rat) (next : Nat → Rat) : Rat :=
  ((List.range n).foldl (fun (a : Rat × Rat) k => (a.1 + a.2, -a.2 * x2 * next k)) (0, first)).1

/-- An angle less its whole turns. -/
def turnQ (x : Rat) : Rat := x - 2 * piQ * ((x / (2 * piQ) + 1 / 2).floor : Rat)

/-- The sine. -/
def sinQ (x : Rat) : Rat :=
  let y := turnQ x
  seriesQ 30 y (y * y) (fun k => 1 / (((2 * k + 2) * (2 * k + 3) : Nat) : Rat))

/-- The cosine. -/
def cosQ (x : Rat) : Rat :=
  let y := turnQ x
  seriesQ 30 1 (y * y) (fun k => 1 / (((2 * k + 1) * (2 * k + 2) : Nat) : Rat))

/-- The arc tangent of a value in 0 … 1, by two halvings of the angle and the series. -/
def atanQ (x : Rat) : Rat :=
  let half (y : Rat) : Rat := y / (1 + sqrtQ (1 + y * y))
  let y := half (half x)
  4 * seriesQ 60 y (y * y) (fun k => ((2 * k + 1 : Nat) : Rat) / ((2 * k + 3 : Nat) : Rat))

/-- The angle in 0 … π whose sine and cosine are as `s` ≥ 0 and `k`. -/
def angleQ (s k : Rat) : Rat :=
  if s = 0 then (if k < 0 then piQ else 0)
  else if k < 0 then (if s ≤ -k then piQ - atanQ (s / -k) else piQ / 2 + atanQ (-k / s))
  else if s ≤ k then atanQ (s / k) else piQ / 2 - atanQ (k / s)

/-! ## Vectors and frames -/

/-- A vector of the cell. -/
structure V3 where
  x : Rat
  y : Rat
  z : Rat
  deriving DecidableEq, Repr

/-- Sum. -/
def V3.add (a b : V3) : V3 := ⟨a.x + b.x, a.y + b.y, a.z + b.z⟩
/-- A multiple. -/
def V3.mul (a : V3) (k : Rat) : V3 := ⟨a.x * k, a.y * k, a.z * k⟩
/-- Difference. -/
def V3.sub (a b : V3) : V3 := a.add (b.mul (-1))
/-- Inner product. -/
def V3.dot (a b : V3) : Rat := a.x * b.x + a.y * b.y + a.z * b.z
/-- Vector product. -/
def V3.cross (a b : V3) : V3 := ⟨a.y * b.z - a.z * b.y, a.z * b.x - a.x * b.z, a.x * b.y - a.y * b.x⟩
/-- Length. -/
def V3.len (a : V3) : Rat := sqrtQ (a.dot a)
/-- Component i. -/
def V3.at (a : V3) (i : Nat) : Rat := if i = 0 then a.x else if i = 1 then a.y else a.z

/-- A link frame: its origin and its axes in the cell frame. -/
structure LinkFrame where
  o : V3
  x : V3
  y : V3
  z : V3
  deriving DecidableEq, Repr

/-- A point given in a frame. -/
def LinkFrame.point (f : LinkFrame) (p : V3) : V3 := (f.o.add (f.x.mul p.x)).add ((f.y.mul p.y).add (f.z.mul p.z))

/-- The frame behind Rot_z(θ)·Trans_z(d)·Trans_x(a)·Rot_x(α) (R167). -/
def LinkFrame.next (f : LinkFrame) (theta d a alpha : Rat) : LinkFrame :=
  let x := (f.x.mul (cosQ theta)).add (f.y.mul (sinQ theta))
  let y := (f.y.mul (cosQ theta)).sub (f.x.mul (sinQ theta))
  { o := (f.o.add (f.z.mul d)).add (x.mul a), x := x
    y := (y.mul (cosQ alpha)).add (f.z.mul (sinQ alpha)), z := (f.z.mul (cosQ alpha)).sub (y.mul (sinQ alpha)) }

/-! ## The arm (R187) -/

/-- A binary32 field of an arm entry, exactly. -/
def armR (arm : List Word) (i : Nat) : Rat := fRat (wordAt arm i)

/-- The base frame of an arm: its position, turned about z by BYAW. -/
def baseFrame (arm : List Word) : LinkFrame :=
  let c := cosQ (armR arm 8)
  let s := sinQ (armR arm 8)
  ⟨⟨armR arm 5, armR arm 6, armR arm 7⟩, ⟨c, s, 0⟩, ⟨-s, c, 0⟩, ⟨0, 0, 1⟩⟩

/-- The frames of an arm at joint values `q`: the base frame, then the frame after each joint (R167). -/
def armFrames (arm q : List Word) : List LinkFrame :=
  (List.range (bits (wordAt arm 0) 27 24)).foldl (fun l j =>
    let f := l.getLast?.getD (baseFrame arm)
    let p (i : Nat) : Rat := armR arm (16 + 16 * j + i)
    l ++ [f.next (p 8 + fRat (wordAt q j)) (p 7) (p 5) (p 6)]) [baseFrame arm]

/-- Frame i of a list, the last one where there is none. -/
def frameAt (l : List LinkFrame) (i : Nat) : LinkFrame :=
  l.getD i (l.getLast?.getD ⟨⟨0, 0, 0⟩, ⟨1, 0, 0⟩, ⟨0, 1, 0⟩, ⟨0, 0, 1⟩⟩)

/-- How a point of link frame `link` moves with joint j, per rad: a joint turns about z of the frame before it. -/
def jointMove (fs : List LinkFrame) (link j : Nat) (p : V3) : V3 :=
  if j < link then (frameAt fs j).z.cross (p.sub (frameAt fs j).o) else ⟨0, 0, 0⟩

/-! ## Capsules (R167) -/

/-- LINK of capsule k. -/
def capLink (arm : List Word) (k : Nat) : Nat := bits (wordAt arm (144 + 8 * k)) 3 0
/-- The ends of capsule k's segment. -/
def capEnds (arm : List Word) (k : Nat) (fs : List LinkFrame) : V3 × V3 :=
  let r (i : Nat) : Rat := armR arm (144 + 8 * k + i)
  let f := frameAt fs (capLink arm k)
  (f.point ⟨r 1, r 2, r 3⟩, f.point ⟨r 4, r 5, r 6⟩)

/-- A rational clamped to 0 … 1. -/
def unitQ (x : Rat) : Rat := max 0 (min 1 x)

/-- The nearest points of two segments. For parallel ones, of which more than one pair may be nearest, `free` says which. -/
def nearest (a b : V3 × V3) (free : Rat) : V3 × V3 :=
  let d1 := a.2.sub a.1
  let d2 := b.2.sub b.1
  let r := a.1.sub b.1
  let aa := d1.dot d1
  let e := d2.dot d2
  let f := d2.dot r
  let c := d1.dot r
  let g := d1.dot d2
  let st : Rat × Rat :=
    if aa = 0 then (0, if e = 0 then 0 else unitQ (f / e))
    else if e = 0 then (unitQ (-c / aa), 0)
    else
      let den := aa * e - g * g
      let s := if den = 0 then unitQ free else unitQ ((g * f - c * e) / den)
      let t := (g * s + f) / e
      if t < 0 then (unitQ (-c / aa), 0) else if 1 < t then (unitQ ((g - c) / aa), 1) else (s, t)
  (a.1.add (d1.mul st.1), b.1.add (d2.mul st.2))

/-- Two capsules of two arms at joint values. -/
structure CapPair where
  arm1 : List Word
  cap1 : Nat
  q1 : List Word
  arm2 : List Word
  cap2 : Nat
  q2 : List Word
  deriving DecidableEq, Repr

/-- The witness points of two capsules. -/
def CapPair.witness (p : CapPair) : V3 × V3 :=
  nearest (capEnds p.arm1 p.cap1 (armFrames p.arm1 p.q1)) (capEnds p.arm2 p.cap2 (armFrames p.arm2 p.q2))
    (Config.witness p.arm1 p.cap1 p.q1 p.arm2 p.cap2 p.q2)

/-- The distance of two capsules: their segments' less both radii, in mm. -/
def CapPair.dist (p : CapPair) : Rat :=
  let w := p.witness
  (w.1.sub w.2).len - armR p.arm1 (144 + 8 * p.cap1 + 7) - armR p.arm2 (144 + 8 * p.cap2 + 7)

/-- The derivative of the distance with respect to joint j of the first arm, or of the second. Segments that touch have no
direction of distance: it is a free value. -/
def CapPair.grad (p : CapPair) (second : Bool) (j : Nat) : Rat :=
  let w := p.witness
  let d := w.1.sub w.2
  let n : V3 := if d.len = 0 then ⟨Config.touch 0, Config.touch 1, Config.touch 2⟩ else d.mul (1 / d.len)
  if second then -(n.dot (jointMove (armFrames p.arm2 p.q2) (capLink p.arm2 p.cap2) j w.2))
  else n.dot (jointMove (armFrames p.arm1 p.q1) (capLink p.arm1 p.cap1) j w.1)

/-! ## Poses (R185, R497) -/

/-- A vector turned by a rotation vector. -/
def V3.turn (u v : V3) : V3 :=
  let t := v.len
  if t = 0 then u
  else
    let a := v.mul (1 / t)
    ((u.mul (cosQ t)).add ((a.cross u).mul (sinQ t))).add (a.mul (a.dot u * (1 - cosQ t)))

/-- The pose of an arm: the frame after its last joint. -/
def poseOf (arm q : List Word) : LinkFrame := frameAt (armFrames arm q) (bits (wordAt arm 0) 27 24)

/-- The rotation vector in rad from the axes of a frame to those a pose's rotation vector gives, and its angle; half a turn
has two axes, of which a free value takes one. -/
def turnError (f : LinkFrame) (v : V3) : V3 × Rat :=
  let t (u : V3) : V3 := V3.turn u v
  let tx := t ⟨1, 0, 0⟩
  let ty := t ⟨0, 1, 0⟩
  let tz := t ⟨0, 0, 1⟩
  let w := (((f.x.cross tx).add (f.y.cross ty)).add (f.z.cross tz)).mul (1 / 2)
  let k := (f.x.dot tx + f.y.dot ty + f.z.dot tz - 1) / 2
  let s := w.len
  let a := angleQ s k
  (if s = 0 then (if k < 0 then ⟨Config.touch 3 * a, Config.touch 4 * a, Config.touch 5 * a⟩ else ⟨0, 0, 0⟩) else w.mul (a / s), a)

/-- Element i of the pose error: 0 to 2 the position in mm, 3 to 5 the rotation vector times IK_ROT_W, 6 the position error in
mm, 7 the rotation error in rad. DEDUCED: the error leads from the arm's pose to the waypoint's, both in the cell frame (log
entry 109). -/
def ikError (arm q pose : List Word) (rotW : Rat) (i : Nat) : Rat :=
  let f := poseOf arm q
  let p (k : Nat) : Rat := fRat (wordAt pose k)
  let d := (⟨p 0, p 1, p 2⟩ : V3).sub f.o
  let r := turnError f ⟨p 3, p 4, p 5⟩
  if i < 3 then d.at i else if i < 6 then r.1.at (i - 3) * rotW else if i = 6 then d.len else r.2

/-- Element (i, j) of the Jacobian: how the pose moves with joint j, its turning times IK_ROT_W. -/
def ikJacobian (arm q : List Word) (rotW : Rat) (i j : Nat) : Rat :=
  let fs := armFrames arm q
  if i < 3 then (jointMove fs (bits (wordAt arm 0) 27 24) j (poseOf arm q).o).at i else (frameAt fs j).z.at (i - 3) * rotW

end Sys2Proof.Machine
end

