-- ==== Sys2Proof/Machine/PlanBuild.lean ====
section
/-! DEFINITION. What the planner builds: the planned arms and joints, reference, cost, constraint rows, collision pairs
and the problem block of the QP job (R157 to R169, R179, R184, R186, R187). -/

namespace Sys2Proof.Machine

/-! ## The planner block and the arm table (R186, R187) -/

/-- A word of the planner window. -/
def Chip.plW (c : Chip) (off : Nat) : Nat := (memWord 0 c.mem.plan off).toNat
/-- A binary32 parameter of the planner window, exactly. -/
def Chip.plR (c : Chip) (off : Nat) : Rat := fRat (c.plW off)
/-- The planner is enabled. -/
def Chip.plEn (c : Chip) : Bool := (c.plW 0).testBit 31
/-- Offset of arm entry a. -/
def armAt (a : Nat) : Nat := 0x100 + 1024 * a
/-- The words of arm entry a. -/
def Chip.armWords (c : Chip) (a : Nat) : List Word := memWords 0 c.mem.plan (armAt a) 256
/-- Arm a is in use. -/
def Chip.armEn (c : Chip) (a : Nat) : Bool := (c.plW (armAt a)).testBit 31
/-- NJ of an arm. -/
def Chip.armNj (c : Chip) (a : Nat) : Nat := bits (c.plW (armAt a)) 27 24
/-- The flight of an arm. -/
def Chip.armFlight (c : Chip) (a : Nat) : Nat := bits (c.plW (armAt a)) 12 8
/-- GRIP_IN of an arm, none for 0xF (R187). -/
def Chip.armGrip (c : Chip) (a : Nat) : Option Nat :=
  let k := bits (c.plW (armAt a)) 3 0
  if k = 15 then none else some k
/-- The input that drives joint j of an arm. -/
def Chip.armIn (c : Chip) (a j : Nat) : Nat := bits (c.plW (armAt a + 0x10)) (4 * j + 3) (4 * j)
/-- Parameter `o` of joint j of arm a, exactly: 0 JSCALE, 4 VMAX, 8 AMAX, 12 QMIN, 16 QMAX. -/
def Chip.jp (c : Chip) (a j o : Nat) : Rat := c.plR (armAt a + 0x40 + 64 * j + o)
/-- Capsule k of arm a is in use. -/
def Chip.capEn (c : Chip) (a k : Nat) : Bool := (c.plW (armAt a + 0x240 + 32 * k)).testBit 31
/-- The arms in use. -/
def Chip.armsOn (c : Chip) : List Nat := (List.range 16).filter c.armEn
/-- Arms a1 < a2 are candidates. -/
def Chip.cand (c : Chip) (a1 a2 : Nat) : Bool := (c.plW (0x80 + 4 * ((16 * a1 + a2) / 32))).testBit ((16 * a1 + a2) % 32)

/-- Q, the pounds of a power period. -/
def Chip.qPounds (c : Chip) : Nat := poundsPerPeriod c.pnd.sel
/-- The pounds of a knot of 2.5 ms (R178). -/
def Chip.knotPounds (c : Chip) : Nat := 2000000 / c.P
/-- The length of a pound in seconds. -/
def Chip.poundSec (c : Chip) : Rat := (c.P : Rat) / 800000000
/-- h in seconds. -/
def hSec : Rat := 1 / 400

/-- The set-point of input k of a flight as a fraction of full scale. -/
def Chip.setPoint (c : Chip) (f k : Nat) : Rat := ((c.axis (c.fAxis f k)).r : Rat) / 32768

/-- Parameter `o` of joint j of arm a as its word. -/
def Chip.jw (c : Chip) (a j o : Nat) : Nat := c.plW (armAt a + 0x40 + 64 * j + o)

/-- The set-point of joint j of arm a in rad: one multiplication by JSCALE. -/
def Chip.heldJoint (c : Chip) (a j : Nat) : Word :=
  w32 (fMul (fOfRat (c.setPoint (c.armFlight a) (c.armIn a j))) (c.jw a j 0))

/-- The joint values of arm a at its current set-points. -/
def Chip.heldJoints (c : Chip) (a : Nat) : List Word := (List.range (c.armNj a)).map (c.heldJoint a)

/-! ## Start state (R162, R179) -/

/-- Ĉ(T), the predicted chainage T ticks after tick 0 of pound b, in 48.16 units (R179). -/
def Chip.cHat (c : Chip) (t : Nat) : Nat := (c.plan.cb + c.plan.inc * t / 2 ^ 16) % 2 ^ 64

/-- The first pound of the plan, b + Q. -/
def Chip.planPound (c : Chip) : Nat := (c.plan.b + c.qPounds) % 2 ^ 32

/-- The segment of a flight's queue live at t0 and σ there (R162). -/
def Chip.liveSeg (c : Chip) (f : Nat) : Option (Seg × Nat) :=
  match popSegs (c.cHat (c.qPounds * c.P)) c.planPound 32 (c.flight f).queue with
  | [] => none
  | g :: _ =>
    match g.dist (c.cHat (c.qPounds * c.P)) c.planPound with
    | some d => if 0 ≤ d ∧ d < (g.len : Int) then some (g, g.sigma (some d)) else none
    | none => none

/-- q0 and v0 of a joint (R162): position and derivative of the live segment at t0 in rad and rad/s, or the set-point at
rest. The roundings of the derivative are the firmware's. -/
def Chip.startState (c : Chip) (a j : Nat) : PJoint :=
  let f := c.armFlight a
  let k := c.armIn a j
  let rest : PJoint := ⟨a, j, c.heldJoint a j, 0⟩
  match (if (c.flight f).runSince then c.liveSeg f else none) with
  | none => rest
  | some (g, s) =>
    let co (i : Nat) : Rat := fRat (wordAt g.co (4 * k + i))
    let x := fRat s
    let rate : Rat := if g.src then (c.plan.inc : Rat) * 800000000 / 65536 else 1 / c.poundSec
    if fFinite (g.eval k s) then
      ⟨a, j, w32 (fMul (g.eval k s) (c.jw a j 0)),
        fwVal (512 + 16 * a + j) ((co 1 + 2 * co 2 * x + 3 * co 3 * x * x) * fRat g.invLen * rate * c.jp a j 0)⟩
    else rest

/-! ## Reference (R163) -/

/-- The arm is planned by chainage in this cycle: a chainage-keyed task and a belt that moves (R179). -/
def Chip.chainKeyed (c : Chip) (a : Nat) : Bool :=
  match c.plan.tasks.find? (fun e => e.1 == a) with
  | some e => e.2.chain && decide (c.plW 0x40 ≤ c.plan.inc)
  | none => false

/-- The key at the end of knot k, the keys' width, and whether the keys stand still (R163, R179). -/
def Chip.knotKey (c : Chip) (t : Task) (k : Nat) : Nat × Nat × Bool :=
  if t.chain then
    if c.plW 0x40 ≤ c.plan.inc then (c.cHat (c.qPounds * c.P + (k + 1) * 2000000), 64, false) else (c.cHat 0, 64, true)
  else ((c.planPound + (k + 1) * c.knotPounds) % 2 ^ 32, 32, false)

/-- The waypoints on both sides of a key: the last at or before it and the first after it. -/
def bracket (w key : Nat) (l : List Waypoint) : Option Waypoint × Option Waypoint :=
  ((l.filter (fun p => decide (modDiff w p.key key ≤ 0))).getLast?, l.find? (fun p => decide (0 < modDiff w p.key key)))

/-- Joint j of a waypoint, exactly. -/
def Waypoint.at (p : Waypoint) (j : Nat) : Rat := fRat (wordAt p.q j)

/-- q_ref,k and v_ref,k of a joint (R163). -/
def Chip.planRef (c : Chip) (g : PJoint) (k : Nat) : Rat × Rat :=
  match c.plan.tasks.find? (fun e => e.1 == g.arm) with
  | none => (fRat g.q0.toNat, 0)
  | some e =>
    let x := c.knotKey e.2 k
    match bracket x.2.1 x.1 e.2.wps with
    | (some p, some q) =>
      let dk : Rat := (modDiff x.2.1 q.key p.key : Rat)
      let slope := (q.at g.joint - p.at g.joint) / dk
      let rate : Rat := if x.2.2 then 0 else if e.2.chain then (c.plan.inc : Rat) * 800000000 / 65536 else 1 / c.poundSec
      (p.at g.joint + slope * (modDiff x.2.1 x.1 p.key : Rat), slope * rate)
    | (some p, none) => (p.at g.joint, 0)
    | (none, some q) => (q.at g.joint, 0)
    | (none, none) => (fRat g.q0.toNat, 0)

/-- The gripper target in force for knot k: that of the last waypoint at or before its key, else of the first. -/
def Chip.gripTarget (c : Chip) (a k : Nat) : Option Word :=
  match c.plan.tasks.find? (fun e => e.1 == a) with
  | none => none
  | some e =>
    let x := c.knotKey e.2 k
    match bracket x.2.1 x.1 e.2.wps with
    | (some p, _) => some p.grip
    | (none, some q) => some q.grip
    | (none, none) => none

/-! ## Prediction (R161, R167) -/

/-- A joint's part of q_k that does not depend on z. -/
def PJoint.free (g : PJoint) (k : Nat) : Rat := fRat g.q0.toNat + fRat g.v0.toNat * hSec * ((k : Rat) + 1)

/-- The factor of z_i in q_k of a joint; 0 for i > k (R161). -/
def Chip.posCoef (c : Chip) (g : PJoint) (k i : Nat) : Rat :=
  if i ≤ k then hSec * hSec * c.jp g.arm g.joint 8 * ((k : Rat) - (i : Rat) + 1 / 2) else 0

/-- The factor of z_i in v_k of a joint; 0 for i > k (R161). -/
def Chip.velCoef (c : Chip) (g : PJoint) (k i : Nat) : Rat := if i ≤ k then hSec * c.jp g.arm g.joint 8 else 0

/-- Joint j of the last published plan `s` seconds after its start: a knot's q, v, a by joint, or the stop tail's q8, v8
and its length; `none` once its tail has ended, and for an arm whose flight has left RUN since: its plan is live no more (R106,
R160, R167, R177, R180). -/
def Chip.pastPlan (c : Chip) (a j : Nat) (s : Rat) : Option Rat :=
  if (c.flight (c.armFlight a)).runSince = false then none else
  let k := (s / hSec).floor.toNat
  let get (kn : Nat) (i : Nat) : Option Rat :=
    match c.plan.knots.find? (fun e => e.1 == 16 * a + kn) with
    | some e => some (fRat (wordAt e.2 (3 * j + i)))
    | none => none
  if k < 8 then
    let x := s - (k : Rat) * hSec
    match get k 0, get k 1, get k 2 with
    | some q, some v, some ac => some (q + v * x + ac * x * x / 2)
    | _, _, _ => none
  else
    match c.plan.knots.find? (fun e => e.1 == 16 * a + 8) with
    | none => none
    | some e =>
      let q := fRat (wordAt e.2 (3 * j))
      let v := fRat (wordAt e.2 (3 * j + 1))
      let len := (wordAt e.2 (3 * j + 2) : Rat) * c.poundSec
      let x := s - 8 * hSec
      if x ≤ len then some (q + v * x - v * x * x / (2 * len)) else none

/-- q̄ of an arm at the end of knot k (R167). -/
def Chip.qBar (c : Chip) (a k : Nat) : List Word :=
  if c.plan.arms.testBit a then
    let s : Rat := (modDiff 32 c.planPound c.plan.knotsP : Rat) * c.poundSec + ((k : Rat) + 1) * hSec
    (c.plan.joints.filter (fun g => g.arm == a)).map (fun g =>
      match c.pastPlan a g.joint s with
      | some q => fwVal (768 + 16 * a + g.joint) q
      | none => g.q0)
  else c.heldJoints a

/-! ## Collision pairs (R165, R167, R168) -/

/-- A candidate pair: its key and its distances at knots 1, 3, 5 and 7. -/
structure Pair where
  a1 : Nat
  c1 : Nat
  a2 : Nat
  c2 : Nat
  d : List Nat
  deriving DecidableEq, Repr

/-- The pair's part of a row key. -/
def Pair.key (p : Pair) : Nat := p.a1 * 2 ^ 23 + p.c1 * 2 ^ 20 + p.a2 * 2 ^ 16 + p.c2 * 2 ^ 13
/-- The smallest distance of a pair. -/
def Pair.least (p : Pair) : Nat := p.d.foldl fMin (p.d.getD 0 0)

/-- The two capsules of a pair at q̄ of knot k. -/
def Chip.capPair (c : Chip) (a1 k1 a2 k2 k : Nat) : CapPair :=
  ⟨c.armWords a1, k1, c.qBar a1 k, c.armWords a2, k2, c.qBar a2 k⟩

/-- The candidates of R168 with their distances. -/
def Chip.candidates (c : Chip) : List Pair :=
  let arms := c.armsOn
  (arms.flatMap (fun a1 => (arms.filter (fun a2 => decide (a1 < a2) && c.cand a1 a2 &&
      (c.plan.arms.testBit a1 || c.plan.arms.testBit a2))).map (fun a2 => (a1, a2)))).flatMap (fun e =>
    ((List.range 8).filter (c.capEn e.1)).flatMap (fun k1 =>
      ((List.range 8).filter (c.capEn e.2)).map (fun k2 =>
        (⟨e.1, k1, e.2, k2, [1, 3, 5, 7].map (fun k =>
          (fwVal (2 ^ 20 + k) (c.capPair e.1 k1 e.2 k2 k).dist).toNat)⟩ : Pair))))

/-- A pair stands before another: smaller distance, then smaller key (R168). -/
def Pair.before (p q : Pair) : Bool := fLt p.least q.least || (!(fLt q.least p.least) && decide (p.key ≤ q.key))

/-- The selected candidates in order (R168). -/
def Chip.selected (c : Chip) : List Pair :=
  (c.candidates.filter (fun p => fLe p.least (c.plW 0x2C))).mergeSort Pair.before

/-- The most pairs of R165 and PAIR_MAX. -/
def Chip.pairLimit (c : Chip) (j : Nat) : Nat := min (bits (c.plW 0x30) 7 0) ((1024 - 20 * j) / 4)

/-- s_a: the hint of the arm, reduced for an arm of a dropped pair (R166, R168). -/
def Chip.speedScale (c : Chip) (dropped : List Pair) (a : Nat) : Rat :=
  let s : Rat := (c.plan.hints.getD a 32768 : Rat) / 32768
  if dropped.any (fun p => p.a1 == a || p.a2 == a) then min s (c.plR 0x34) else s

/-! ## The programme (R164, R165) -/

/-- A constraint row: its coefficients over z, its bounds and its key. -/
structure QpRow where
  co : List Word
  l : Word
  u : Word
  key : Nat
  deriving DecidableEq, Repr

/-- The rows of a matrix over z = (knot, joint) from a coefficient by knot and joint. -/
def zRow (js : List PJoint) (co : Nat → PJoint → Word) : List Word := (List.range 8).flatMap (fun i => js.map (co i))

/-- The largest absolute value of a rational. -/
def absR (q : Rat) : Rat := if q < 0 then -q else q

/-- The acceleration rows. -/
def Chip.accRows (js : List PJoint) : List QpRow :=
  (List.range 8).flatMap (fun (k : Nat) => js.zipIdx.map (fun e =>
    ⟨zRow js (fun i g => if i = k ∧ g = e.1 then 0x3F800000 else 0), 0xBF800000, 0x3F800000, k * 2 ^ 27 + e.2⟩))

/-- The velocity rows (R165, R166). -/
def Chip.velRows (c : Chip) (js : List PJoint) (sc : Nat → Rat) : List QpRow :=
  (List.range 8).flatMap (fun (k : Nat) => js.zipIdx.map (fun e =>
    let vm := c.jp e.1.arm e.1.joint 4
    let v0 := fRat e.1.v0.toNat
    let vb := max (sc e.1.arm * vm) (absR v0 - c.jp e.1.arm e.1.joint 8 * hSec * ((k : Rat) + 1))
    ⟨zRow js (fun i g => if g = e.1 ∧ i ≤ k then fwVal 1024 (c.velCoef e.1 k i / vm) else 0),
      fwVal 1025 ((-vb - v0) / vm), fwVal 1026 ((vb - v0) / vm), 2 ^ 30 + k * 2 ^ 27 + e.2⟩))

/-- The position rows. -/
def Chip.posRows (c : Chip) (js : List PJoint) : List QpRow :=
  [1, 3, 5, 7].flatMap (fun (k : Nat) => js.zipIdx.map (fun e =>
    let lo := c.jp e.1.arm e.1.joint 12
    let hi := c.jp e.1.arm e.1.joint 16
    ⟨zRow js (fun i g => if g = e.1 ∧ i ≤ k then fwVal 1027 (c.posCoef e.1 k i / (hi - lo)) else 0),
      fwVal 1028 ((lo - e.1.free k) / (hi - lo)), fwVal 1029 ((hi - e.1.free k) / (hi - lo)),
      2 ^ 31 + k * 2 ^ 27 + e.2⟩))

/-- The gradient of a pair at a knot with respect to a joint of the plan; 0 for a joint of another arm (R167). -/
def Chip.gradient (c : Chip) (p : Pair) (k : Nat) (g : PJoint) : Rat :=
  let gr (second : Bool) : Rat := (c.capPair p.a1 p.c1 p.a2 p.c2 k).grad second g.joint
  if g.arm = p.a1 then gr false else if g.arm = p.a2 then gr true else 0

/-- The collision rows of the pairs kept. -/
def Chip.colRows (c : Chip) (js : List PJoint) (kept : List Pair) : List QpRow :=
  let dm := c.plR 0x28
  kept.flatMap (fun p => ([1, 3, 5, 7].zip p.d).map (fun e =>
    let k := e.1
    let bar (g : PJoint) : Rat :=
      match (js.filter (fun x => x.arm == g.arm)).findIdx? (fun x => x == g) with
      | some n => fRat (wordAt (c.qBar g.arm k) n)
      | none => 0
    let s : Rat := (js.map (fun g => c.gradient p k g * (PJoint.free g k - bar g))).sum
    ⟨zRow js (fun i g => if (g.arm = p.a1 ∨ g.arm = p.a2) ∧ i ≤ k then
        fwVal 1030 (c.gradient p k g * c.posCoef g k i / dm) else 0),
      fwVal 1031 ((dm - fRat e.2 - s) / dm), 0x7F7FFFFF, 3 * 2 ^ 30 + k * 2 ^ 27 + p.key⟩))

/-- Arm weight WP, WV or WA at word offset 4, 8 or 12 (R164). -/
def Chip.weight (c : Chip) (a o : Nat) : Rat := c.plR (armAt a + o)

/-- An element of P between z of knots i and i' of one joint; between two joints it is 0 (R164). -/
def Chip.pElem (c : Chip) (g : PJoint) (i i' : Nat) : Rat :=
  let ks := List.range 8
  let am := c.jp g.arm g.joint 8
  2 * (c.weight g.arm 4 * (ks.map (fun (k : Nat) => c.posCoef g k i * c.posCoef g k i')).sum
    + c.weight g.arm 8 * (ks.map (fun (k : Nat) => c.velCoef g k i * c.velCoef g k i')).sum
    + (if i = i' then c.weight g.arm 12 * am * am else 0))

/-- An element of q (R164). -/
def Chip.qElem (c : Chip) (g : PJoint) (i : Nat) : Rat :=
  2 * ((List.range 8).map (fun (k : Nat) =>
    let r := c.planRef g k
    c.weight g.arm 4 * (g.free k - r.1) * c.posCoef g k i
      + c.weight g.arm 8 * (fRat g.v0.toNat - r.2) * Chip.velCoef c g k i)).sum

/-- Words laid from an arena address, 16-byte-aligned starts being the caller's. -/
def Chip.layWords (c : Chip) (a : Nat) (ws : List Word) : Chip := c.arenaPut a (ws.map BitVec.toNat)

/-- Bytes of n words rounded up to 16. -/
def vecBytes (n : Nat) : Nat := 16 * ceilDiv (4 * n) 16

/-- The first place from `p` on, a multiple of 16, where `size` bytes meet none of `taken`; each step passes one of them. -/
def firstFit (taken : List (Nat × Nat)) (size : Nat) : Nat → Nat → Nat
  | 0, p => p
  | fuel + 1, p =>
    match taken.find? (fun r => overlap p size r.1 r.2) with
    | some r => firstFit taken size fuel (16 * ceilDiv (r.1 + r.2) 16)
    | none => p

/-- Where the firmware lays `size` bytes: at `want` where that lies in the arena behind `lo` and meets nothing, else at the
first place behind `lo` that does. -/
def placeAt (taken : List (Nat × Nat)) (lo want size : Nat) : Nat :=
  if lo ≤ want ∧ want + size ≤ 2 ^ 23 ∧ meets taken want size = false then want
  else firstFit taken size (taken.length + 1) (16 * ceilDiv lo 16)

/-- PB_ADDR. -/
def Chip.pbAddr (c : Chip) : Nat := bits (c.plW 0x44) 22 0
/-- VEC_ADDR. -/
def Chip.vecAddr (c : Chip) : Nat := bits (c.plW 0x48) 22 0

/-- What stands at places the planner block gives, at its largest: the problem block's header, the vectors at VEC_ADDR and
the factor store at FAC_ADDR (R129, R169). -/
def Chip.planFixed (c : Chip) : List (Nat × Nat) :=
  [(c.pbAddr, 64), (c.vecAddr, vecBytes 384 + 2 * vecBytes 1024), (bits (c.plW 0x4C) 22 0, 32 + 2 * facBytes 0 384 384)]

/-- The dual area: one place for every cycle, where R169 leaves it open (log entry 136). -/
def Chip.dualArea (c : Chip) : Nat × Nat :=
  (placeAt c.planFixed (c.pbAddr + 64) (c.pbAddr + 16 * (Config.planOffset 3 0 0).toNat) 12304, 12304)

/-- The places of P, A, the keys and the dual area: where the firmware lays them, which R169 leaves open but for the
alignment; they meet neither each other nor the header, the vectors, the factor store and the operands of other jobs
(log entry 136). -/
def Chip.planLayout (c : Chip) (n m : Nat) : List Nat :=
  let size := [16 * ceilDiv (4 * n * n) 16, 16 * ceilDiv (4 * n * m) 16, vecBytes m]
  let laid := size.zipIdx.foldl (fun (l : List (Nat × Nat)) e =>
    l ++ [(placeAt (c.planFixed ++ c.dualArea :: c.jobParts ++ l) (c.pbAddr + 64)
      (c.pbAddr + 16 * (Config.planOffset e.2 n m).toNat) e.1, e.1)]) []
  laid.map (·.1) ++ [c.dualArea.1]

/-- The header of the dual area zeroed before the first job that uses it there (R169). -/
def Chip.dualZero (c : Chip) : Chip :=
  let a := c.dualArea.1
  if c.plan.dualAt = some a then c
  else let c := c.layWords a [0, 0, 0, 0]; { c with plan := { c.plan with dualAt := some a } }

/-- The problem block and the vectors written to the arena, of P the lower triangle (R164, R165, R169). -/
def Chip.layProblem (c : Chip) (js : List PJoint) (rows : List QpRow) : Chip :=
  let n := 8 * js.length
  let m := rows.length
  let pb := c.pbAddr
  let vec := c.vecAddr
  let lay := c.planLayout n m
  let ofs (i : Nat) : Nat := lay.getD i 0 - pb
  let z := (List.range 8).flatMap (fun i => js.map (fun g => (i, g)))
  let pCol (k : Nat) (col : Nat × PJoint) : List Word := (z.drop k).map (fun row =>
    if row.2 = col.2 then fwVal 1032 (c.pElem row.2 row.1 col.1) else 0)
  let am := (List.range n).flatMap (fun i => rows.map (fun r => r.co.getD i 0))
  let hdr : List Word := [w32 (2 ^ 31), w32 (c.plW 0x14), w32 (c.plW 0x18), w32 (c.plW 0x1C), w32 (ofs 0), w32 (ofs 1),
    w32 (ofs 2), w32 (ofs 3), 0, 0, 0, 0, 0, 0, 0, 0]
  let c := c.dualZero.layWords pb hdr
  let c := (c.each z.zipIdx (fun c e => c.layWords (pb + ofs 0 + 4 * (e.2 * n + e.2)) (pCol e.2 e.1))).layWords (pb + ofs 1) am
  let c := c.layWords (pb + ofs 2) (rows.map (fun r => w32 r.key))
  let q := z.map (fun e => fwVal 1033 (c.qElem e.2 e.1))
  ((c.layWords vec q).layWords (vec + vecBytes n) (rows.map (·.l))).layWords (vec + vecBytes n + vecBytes m) (rows.map (·.u))

/-! ## The energy limit (R173, R184) -/

/-- Cycles of the QP before its iterations, REFAC set (R135, R173). -/
def qpFixed (n m : Nat) : Nat :=
  96 + ceilDiv (m * n) 512 + 2 * m + ceilDiv (m * n * (n + 1)) 1024 + (96 + ceilDiv (n * n * n) 3072 + 24 * n)

/-- ITER_MAX from the energy still granted to the planning class, in pJ (R184). -/
def Chip.iterMax (c : Chip) (n m : Nat) : Nat :=
  let g : Rat := ((c.grantOf 2 - c.eUsed 2 : Nat) : Rat) * 1000
  let pj := c.plR 0x38
  let eFix : Rat := (qpFixed n m : Rat) * 512 * pj
  let eIt : Rat := (qpCycles n m : Rat) * 512 * pj
  let cap := bits (c.plW 4) 27 16
  if eIt ≤ 0 then cap else min cap ((g - eFix) / eIt).floor.toNat

/-! ## The build (R157 to R159, R169) -/

/-- A cycle that ends without a job: SKIPPED with its cause (R182). -/
def Chip.planSkip (c : Chip) (cause : Nat) : Chip :=
  { c with plan := { c.plan with phase := .ended, status := 3, cause := cause } }

/-- The words of the QP's descriptor (R130, R169). -/
def Chip.qpDescriptor (c : Chip) (n m it : Nat) : List Word :=
  let w0 := c.plW 0
  [w32 (5 * 2 ^ 28 + 2 ^ 27 + bits w0 2 0 * 2 ^ 16 + 32 * 2 ^ 8 + 32), w32 (m * 2 ^ 16 + n), w32 (it * 2 ^ 16 + m),
    w32 (bits (c.plW 0x44) 22 0), w32 (bits (c.plW 0x48) 22 0), w32 (bits (c.plW 0x4C) 22 0), w32 (c.plW 0x20),
    w32 (c.plW 0x24), 0, w32 (c.plW 8), w32 (c.plan.b + bits w0 15 8), 0, 0, 0, 0, 0]

/-- The first plan job after a takeover does not start from its WSLOT and reports COLD (R450 step 7). -/
def Chip.planCold (c : Chip) : Chip :=
  let c := { c with plan := { c.plan with coldNext := false } }
  match c.job 32 with
  | some j => c.setJob 32 { j with coldStart := true }
  | none => c

/-- The QP of the joints, rows and limit found is laid out and submitted; past its deadline, or turned away, the plan is
SKIPPED with cause BUILD (R158, R159, R169, R184). -/
def Chip.planSubmit (c : Chip) (js : List PJoint) (rows : List QpRow) : Chip :=
  let n := 8 * js.length
  let m := rows.length
  let it := c.iterMax n m
  let d := c.qpDescriptor n m it
  let c := { c with plan := { c.plan with iterMax := 0, iter := 0 } }
  if it < bits (c.plW 4) 11 0 then c.planSkip 4
  else if c.fld BSN_STATUS__MODE = 0 then c.planSkip 5
  else if c.deadlineTick d c.now ≤ c.now then c.planSkip 6
  else
    let r := (c.layProblem js rows).bsnSubmit d none
    if r.2 = stOK then
      let c := { r.1 with plan := { r.1.plan with phase := .job, iterMax := it } }
      c.onlyIf c.plan.coldNext Chip.planCold
    else r.1.planSkip 6

/-- The build ends at this tick (R161 to R169). -/
def Chip.planBuilt (c : Chip) : Chip :=
  if c.plan.phase = .building then
    let js := ((List.range 16).filter (fun a => c.plan.arms.testBit a)).flatMap (fun a =>
      (List.range (c.armNj a)).map (c.startState a))
    let c := { c with plan := { c.plan with joints := js } }
    let sel := c.selected
    let lim := c.pairLimit js.length
    let kept := sel.take lim
    let dropped := sel.drop lim
    let c := { c with plan := { c.plan with pairs := kept.length, pairOvf := dropped != [] } }
    let rows := Chip.accRows js ++ c.velRows js (c.speedScale dropped) ++ c.posRows js ++ c.colRows js kept
    c.planSubmit js rows
  else c

/-- The planner firmware has built its problem (R159). -/
def execPlanBuildComplete (t : Nat) (s : State) : Host.Outcome State Fault Refusal := s.event t Chip.planBuilt

end Sys2Proof.Machine
end

