-- ==== Sys2Proof/Machine/Plan.lean ====
section
/-! DEFINITION. The planner from a result to its publication, tasks and inverse kinematics, and the Basin's jobs as they
end (R135, R138, R160, R163, R171, R177 to R185, R188, R497). -/

namespace Sys2Proof.Machine

/-- The chip with the planner changed. -/
def Chip.setPlan (c : Chip) (f : Plan → Plan) : Chip := { c with plan := f c.plan }

/-! ## From a result to segments (R177 to R181) -/

/-- h in binary32. -/
def hF : Nat := fOfRat hSec

/-- ½·AMAX·z·h² from AMAX·z. -/
def halfStep (a : Nat) : Nat := fMul (fMul 0x3F000000 a) (fMul hF hF)

/-- The motion of a joint from its accelerations: at the start of each of the eight knots position, velocity and
acceleration, and at the end the position and velocity (R177). DEDUCED: the rule's binary32 operations are taken one by one
in the order it writes them (log entry 110). -/
def Chip.propagate (c : Chip) (g : PJoint) (z : List Nat) : List (Word × Word × Word) × Word × Word :=
  z.foldl (fun (acc : List (Word × Word × Word) × Word × Word) zi =>
    let q := acc.2.1.toNat
    let v := acc.2.2.toNat
    let a := fMul (c.jw g.arm g.joint 8) (fMax 0xBF800000 (fMin 0x3F800000 zi))
    (acc.1 ++ [(acc.2.1, acc.2.2, w32 a)],
      w32 (fAdd (fAdd q (fMul v hF)) (halfStep a)), w32 (fAdd v (fMul a hF)))) ([], g.q0, g.v0)

/-- The header words of a segment (R104). -/
def segHead (src rel : Bool) (nax id p0 len invLen vmax : Nat) : List Word :=
  [w32 (b2n src * 2 ^ 31 + b2n rel * 2 ^ 30 + nax * 2 ^ 16 + id), w32 p0, w32 (p0 / 2 ^ 32), w32 len, w32 (len / 2 ^ 32),
    w32 invLen, w32 vmax, 0]

/-- The coefficient words of a segment: a joint's own block, the gripper target, or the current set-point (R177). -/
def Chip.segBlocks (c : Chip) (a : Nat) (grip : Option Word) (blk : Nat → List Word) : List Word :=
  let f := c.armFlight a
  let js := List.range (c.armNj a)
  (List.range (c.fNu f)).flatMap (fun k =>
    match js.find? (fun j => c.armIn a j == k) with
    | some j => blk j
    | none =>
      if c.armGrip a = some k then [grip.getD (w32 (fOfRat (c.setPoint f k))), 0, 0, 0]
      else [w32 (fOfRat (c.setPoint f k)), 0, 0, 0])

/-- The nine segments of a planned arm from the motion of its joints (R177 to R180), and what the model keeps of it. -/
def Chip.armSegs (c : Chip) (a : Nat) (mo : List (List (Word × Word × Word) × Word × Word)) :
    List Seg × List (Nat × List Word) :=
  let nu := c.fNu (c.armFlight a)
  let src := c.chainKeyed a
  let scaled (j v : Nat) : Word := w32 (fDiv v (c.jw a j 0))
  let at_ (j k : Nat) : Word × Word × Word := ((mo.getD j ([], 0, 0)).1).getD k (0, 0, 0)
  let id (k : Nat) : Nat := (Config.planSegId c.planPound a k).toNat
  let vmax : Nat := if src then min ((c.plan.inc : Rat) * (1 + c.plR 0x3C)).floor.toNat (2 ^ 32 - 1) else 0
  let knot (k : Nat) : Seg :=
    let p0 := if src then c.cHat (c.qPounds * c.P + k * 2000000) else (c.planPound + k * c.knotPounds) % 2 ^ 32
    let len := if src then (c.cHat (c.qPounds * c.P + (k + 1) * 2000000) + 2 ^ 64 - p0) % 2 ^ 64 else c.knotPounds
    Seg.make (segHead src false nu (id k) p0 len (fOfRat (1 / (len : Rat))) vmax)
      (c.segBlocks a (c.gripTarget a k) (fun j =>
        let m := at_ j k
        [scaled j m.1.toNat, scaled j (fMul m.2.1.toNat hF), scaled j (halfStep m.2.2.toNat), 0]))
  let v8 (j : Nat) : Nat := (mo.getD j ([], 0, 0)).2.2.toNat
  let q8 (j : Nat) : Nat := (mo.getD j ([], 0, 0)).2.1.toNat
  let t : Nat := (List.range (c.armNj a)).foldl (fun m j =>
    max m (absR (fRat (v8 j)) / c.jp a j 8 / c.poundSec).ceil.toNat) 1
  let stop (v : Nat) : Nat := fMul (fMul v (fOfInt t)) (fOfRat c.poundSec)
  let tail := Seg.make (segHead false true nu (id 8) 0 t (fOfRat (1 / (t : Rat))) 0)
    (c.segBlocks a (c.gripTarget a 7) (fun j =>
      [scaled j (q8 j), scaled j (stop (v8 j)), scaled j (stop (fMul 0xBF000000 (v8 j))), 0]))
  let js := List.range (c.armNj a)
  ((List.range 8).map knot ++ [tail],
    (List.range 8).map (fun k => (16 * a + k, js.flatMap (fun j => [(at_ j k).1, (at_ j k).2.1, (at_ j k).2.2])))
      ++ [(16 * a + 8, js.flatMap (fun j => [(mo.getD j ([], 0, 0)).2.1, (mo.getD j ([], 0, 0)).2.2, w32 t]))])

/-- The publication of an accepted result z (R177 to R180). -/
def Chip.planSegs (c : Chip) (z : List Word) : Chip :=
  let js := c.plan.joints
  let n := js.length
  let arms := (List.range 16).filter (fun a => c.plan.arms.testBit a)
  let mo (a : Nat) : List (List (Word × Word × Word) × Word × Word) :=
    ((js.zipIdx).filter (fun e => e.1.arm == a)).map (fun e =>
      c.propagate e.1 ((List.range 8).map (fun k => wordAt z (k * n + e.2))))
  let all := arms.map (fun a => (a, c.armSegs a (mo a)))
  c.setPlan (fun p => { p with pub := all.map (fun e => (e.1, e.2.1)), newKnots := all.flatMap (fun e => e.2.2) })

/-- The tick of the boundary of pound n, nominal lengths counted for the pounds to come. -/
def Chip.boundaryTick (c : Chip) (n : Nat) : Nat :=
  let k := modDiff 32 n c.poundNum
  if k ≤ 0 then c.pnd.start else c.pnd.start + c.poundLen + (k.toNat - 1) * c.P

/-- The check of R181: the cause for which a result is rejected, if any, the lowest that applies; a status that is not listed
is cause JOB whatever the data (R182). -/
def Chip.planCheck (c : Chip) (x : RSlot) (n : Nat) : Option Nat :=
  let rst := x.rstat
  let iter := bits (wordAt x.hdr 2) 15 0
  let accP := c.plW 0x0C
  if !(rst = rsOK ∨ rst = rsREG ∨ rst = rsDEADLINE) then some 3
  else if !fLe (wordAt x.hdr 4) accP || !fLe (wordAt x.data (n + 1)) accP then some 1
  else if !fLe (fNeg (c.plW 0x10)) (wordAt x.data (n + 2)) then some 2
  else if x.valid = false ∨ iter = 0 then some 3
  else none

/-- The QP's job has ended: its result is accepted, published when at least 10 µs remain, else LATE, or REJECTED (R159,
R181, R182, R184). -/
def Chip.planPoll (c : Chip) : Chip :=
  if c.plan.phase = .job ∧ (c.job 32).isNone then
    let x := c.rslot 32
    let n := 8 * c.plan.joints.length
    let iter := bits (wordAt x.hdr 2) 15 0
    let cap := bits (c.plW 4) 27 16
    let c := c.setPlan (fun p => { p with
      phase := .ended, iter := iter
      headLim := decide (p.iterMax < cap ∧ iter = p.iterMax)
      conv := x.valid && !fZero (wordAt x.data (n + 3))
      resP := some (x.hdr.getD 4 0)
      colm := if x.valid then some (x.data.getD (n + 2) 0) else none })
    match c.planCheck x n with
    | some cause => c.setPlan (fun p => { p with status := 1, cause := cause })
    | none =>
      if c.now + 8000 ≤ c.boundaryTick c.planPound then
        (c.planSegs (x.data.take n)).setPlan (fun p => { p with status := 0, cause := 0 })
      else c.setPlan (fun p => { p with status := 2, cause := 0 })
  else c

/-! ## Inverse kinematics and tasks (R163, R185, R497) -/

/-- The conversion of arm a. -/
def Chip.ikOf (c : Chip) (a : Nat) : Option Ik := (c.plan.ik.find? (fun e => e.1 == a)).map (·.2)

/-- The chip with a conversion replaced. -/
def Chip.setIk (c : Chip) (a : Nat) (x : Ik) : Chip :=
  c.setPlan (fun p => { p with ik := p.ik.filter (fun e => e.1 != a) ++ [(a, x)] })

/-- A waypoint's key (R497). -/
def wpKey (chain : Bool) (w : List Word) : Nat := if chain then wordAt w 0 + wordAt w 1 * 2 ^ 32 else wordAt w 0

/-- Enters a waypoint with its joint values. -/
def Ik.enter (x : Ik) (w : List Word) (q : List Word) : Ik :=
  { x with done := x.done ++ [⟨wpKey x.chain w, q, w.getD 3 0⟩], rest := x.rest.drop 1, steps := 0, out := false }

/-- Leaves a waypoint out for a cause (1 IK_ITER, 2 IK_LIMIT). -/
def Ik.fail (x : Ik) (i cause : Nat) : Ik :=
  { x with failed := x.failed + 1, first := if x.failed = 0 then (i, cause) else x.first, rest := x.rest.drop 1,
           steps := 0, out := false }

/-- The seed of a pose waypoint: the joint solution of the waypoint before it, or the current set-points (R185). -/
def Chip.ikSeed (c : Chip) (a : Nat) (x : Ik) : List Word :=
  match x.done.getLast? with
  | some p => p.q
  | none => c.heldJoints a

/-- A joint value lies within QMIN … QMAX. -/
def Chip.jointOk (c : Chip) (a j q : Nat) : Bool :=
  fLe (c.plW (armAt a + 0x40 + 64 * j + 12)) q && fLe q (c.plW (armAt a + 0x40 + 64 * j + 16))

/-- The waypoints at the head of a conversion that need no job are entered: joint values as given and, once a build has
started (`poses`), a pose whose errors are within tolerance at the joint values held; a pose without success after IK_ITER
steps fails (R185, R497). At most `fuel` waypoints. -/
def Chip.ikAdvance (c : Chip) (a : Nat) (poses : Bool) : Nat → Ik → Ik
  | 0, x => x
  | fuel + 1, x =>
    match x.rest with
    | [] => x
    | (i, w) :: _ =>
      if (wordAt w 2).testBit 0 = false then c.ikAdvance a poses fuel (x.enter w ((w.drop 4).take (c.armNj a)))
      else if x.out || !poses then x
      else
        let q := if x.steps = 0 then c.ikSeed a x else x.q
        let e (k : Nat) : Nat := (fwVal (4096 + k) (ikError (c.armWords a) q ((w.drop 4).take 6) (c.plR 0x64) k)).toNat
        if fLe (e 6) (c.plW 0x54) && fLe (e 7) (c.plW 0x58) then
          if (List.range (c.armNj a)).all (fun j => c.jointOk a j (wordAt q j)) then c.ikAdvance a poses fuel (x.enter w q)
          else c.ikAdvance a poses fuel (x.fail i 2)
        else if bits (c.plW 0x5C) 7 0 ≤ x.steps then c.ikAdvance a poses fuel (x.fail i 1)
        else { x with q := q }

/-- The Newton step of the pose at the head of a conversion is submitted as a DLS job on slot 48 + a (R185). -/
def Chip.ikSubmit (c : Chip) (a : Nat) (x : Ik) : Chip :=
  match x.rest with
  | [] => c
  | (_, w) :: _ =>
    if x.out then c
    else
      let nj := c.armNj a
      let taken := c.planFixed ++ c.dualArea :: c.jobParts
      let place (l : List (Nat × Nat)) (i size : Nat) : Nat := placeAt (taken ++ l) 0 (16 * (Config.ikAddress a i).toNat) size
      let adA := place [] 0 (24 * nj)
      let adB := place [(adA, 24 * nj)] 1 24
      let rw := c.plR 0x64
      let jac := (List.range nj).flatMap (fun j => (List.range 6).map (fun i =>
        fwVal (8192 + 16 * i + j) (ikJacobian (c.armWords a) x.q rw i j)))
      let e := (List.range 6).map (fun i => fwVal (4096 + i) (ikError (c.armWords a) x.q ((w.drop 4).take 6) rw i))
      let prio := min 7 (bits (c.plW 0) 2 0 + 1)
      let d : List Word := [w32 (4 * 2 ^ 28 + 2 ^ 26 + prio * 2 ^ 16 + (48 + a)), w32 (6 * 2 ^ 16 + nj), w32 6, w32 adA,
        w32 adB, 0, w32 (c.plW 0x20), w32 (c.plW 0x24), w32 (c.plW 0x50), 0, Config.ikDeadline, 0, 0, 0, 0, 0]
      let r := ((c.layWords adA jac).layWords adB e).bsnSubmit d none
      if r.2 = stOK then r.1.setIk a { x with out := true } else r.1

/-- The final reply of a TASK_SET whose conversion has ended; the task waits for the next build start (R497). -/
def Chip.ikFinish (c : Chip) (a : Nat) (x : Ik) : Chip :=
  let c := c.setPlan (fun p => { p with
    ik := p.ik.filter (fun e => e.1 != a)
    ready := p.ready ++ [(a, if x.done = [] then none else some ⟨x.chain, x.done⟩)] })
  match c.hst.longs.find? (fun l => l.op == 0x0403 && l.arg == a) with
  | none => c
  | some l =>
    if x.failed = 0 then c.finish l stOK 0 []
    else c.finish l stINVALID_ARG (x.first.1 % 16 + x.first.2 * 16 + x.failed * 256) []

/-- A conversion goes as far as it can without a job, and ends when nothing is left; before a build has started it stops at
the first pose. -/
def Chip.ikRun (c : Chip) (a : Nat) (poses : Bool) : Chip :=
  match c.ikOf a with
  | none => c
  | some x =>
    let x := c.ikAdvance a poses 17 x
    if x.rest = [] then c.ikFinish a x else c.setIk a x

/-- A step's job has ended: its clamped components are added to q, the step is counted, and the next one follows
(R185). -/
def Chip.ikStep (c : Chip) (a : Nat) : Chip :=
  match c.ikOf a with
  | none => c
  | some x =>
    if x.out && (c.job (48 + a)).isNone then
      let s := c.rslot (48 + a)
      let lim := c.plW 0x60
      let good := s.valid && (s.rstat == rsOK || s.rstat == rsREG)
      let step (j : Nat) : Nat := fMin (fMax (wordAt s.data j) (fNeg lim)) lim
      let q := if good then x.q.zipIdx.map (fun e => w32 (fAdd e.1.toNat (step e.2))) else x.q
      let c := (c.setIk a { x with out := false, q := q, steps := x.steps + 1 }).ikRun a true
      match c.ikOf a with
      | some x => c.ikSubmit a x
      | none => c
    else c

/-- What the planner does after the Basin's jobs have moved. -/
def Chip.planAfter (c : Chip) : Chip := (c.each (List.range 16) Chip.ikStep).planPoll

/-- TASK_SET's checks: the index of the first payload word found invalid (R497). -/
def Chip.taskBad (c : Chip) (a : Nat) (chain : Bool) (n : Nat) (pl : List Word) : Option Nat :=
  let wp (i : Nat) : List Word := (pl.drop (1 + 12 * i)).take 12
  (List.range n).findSome? (fun i =>
    let w := wp i
    let later := decide (0 < i) && decide (modDiff (if chain then 64 else 32) (wpKey chain w) (wpKey chain (wp (i - 1))) ≤ 0)
    if later then some (1 + 12 * i)
    else
      let pose := (wordAt w 2).testBit 0
      let joint (k : Nat) : Bool := !pose && decide (4 ≤ k ∧ k < 4 + c.armNj a)
      let bad (k : Nat) : Bool := !fFinite (wordAt w k) || (joint k && !c.jointOk a (k - 4) (wordAt w k))
      ((List.range' 3 9).find? bad).map (fun k => 1 + 12 * i + k))

/-- TASK_SET's rules (R497). -/
def Chip.taskSet (c : Chip) (k : Intake) : Chip × Answer :=
  let a := k.target.toNat
  let chain := (wordAt k.payload 0).testBit 0
  let n := (k.payload.length - 1) / 12
  if c.armEn a = false then (c, ansArg 0xFFFF)
  else
    match c.taskBad a chain n k.payload with
    | some i => (c, ansArg i)
    | none =>
      if (c.ikOf a).isSome ∨ c.longFree 0x0403 a = false then (c, ansBusy)
      else
        let rest := (List.range n).map (fun i => (i, (k.payload.drop (1 + 12 * i)).take 12))
        (c.setIk a ⟨chain, rest, [], [], 0, false, 0, (0, 0)⟩, .accepted a)

/-- TASK_SET: waypoints given by joint values are entered at once, after the reply; the poses wait for the next build start,
and a command turned away starts no conversion (R185, R497). -/
def execTaskSet (t : Nat) (ifc : Iface) (tag target : Word) (pl : List Word) (s : State) :
    Host.Outcome State Fault Refusal :=
  s.act (fun c =>
    let x := c.command t 0x0403 ifc tag target pl none Chip.taskSet
    if c.ikOf target.toNat = none then x.ikRun target.toNat false else x)

/-- TASK_CLEAR: the arm has no task from the next build start (R496). -/
def execTaskClear (t : Nat) (ifc : Iface) (tag target : Word) (pl : List Word) (s : State) :
    Host.Outcome State Fault Refusal :=
  s.command t 0x0404 ifc tag target pl (fun c k =>
    (c.setPlan (fun p => { p with ready := p.ready ++ [(k.target.toNat, none)] }), ansOK))

/-! ## The cycle at a boundary (R157, R160, R182, R183, R188) -/

/-- A publication takes effect at the boundary of pound n: the queues of the flights in RUN are replaced, the other arms'
segments discarded, as are all outside UNDERWAY (R30, R160); `knots` is its motion, and each flight in RUN is in RUN since
this plan (R162). The number names the arms dropped. -/
def Chip.takePlan (c : Chip) (n : Nat) (pub : List (Nat × List Seg)) (knots : List (Nat × List Word)) : Chip × Nat :=
  let taken (e : Nat × List Seg) : Bool := c.fMode (c.armFlight e.1) == 2 && c.opState == 2
  let drop := (pub.filter (fun e => !taken e)).foldl (fun m e => m + 2 ^ e.1) 0
  let c' := c.each (pub.filter taken) (fun c e => c.publishSegs (c.armFlight e.1) e.2)
  let c' := c'.each c'.enFlights (fun c f => c.setFlight f { c.flight f with runSince := c.fMode f == 2 })
  (c'.setPlan (fun p => { p with knots := knots.filter (fun e => !drop.testBit (e.1 / 16)), knotsP := n }), drop)

/-- The publication of this device takes effect (R160). -/
def Chip.planPublish (c : Chip) : Chip × Nat :=
  let r := c.takePlan c.poundNum c.plan.pub c.plan.newKnots
  (r.1.setPlan (fun p => { p with pub := [], newKnots := [] }), r.2)

/-- The motion of an arm read back from its nine published segments: the inverse of `armSegs` (R177, R180; log entry
137). -/
def Chip.segKnots (c : Chip) (a : Nat) (segs : List Seg) : List (Nat × List Word) :=
  segs.zipIdx.map (fun e =>
    let dt := if e.2 < 8 then hF else fMul (fOfInt e.1.len) (fOfRat c.poundSec)
    (16 * a + e.2, (List.range (c.armNj a)).flatMap (fun j =>
      let co (i : Nat) : Nat := fMul (wordAt e.1.co (4 * c.armIn a j + i)) (c.jw a j 0)
      [w32 (co 0), w32 (fDiv (co 1) dt),
        if e.2 < 8 then w32 (fDiv (fMul 0x40000000 (co 2)) (fMul hF hF)) else w32 e.1.len])))

/-- PLAN_LOST (R183). -/
def Chip.planLost (c : Chip) (run : Nat) : Chip :=
  let r := bits (c.plW 0) 30 29
  let c := c.setPlan (fun p => { p with lostTaken := true })
  let c := (c.sysEvent 7 run 0 0).logEvent 14 (w32 run) 0 0
  let c := c.logTrigger 5
  c.each ((List.range 16).filter (fun a => c.armEn a && c.flag (LCK_SEGQ_CTL__QSRC (c.armFlight a)))) (fun c a =>
    if c.fMode (c.armFlight a) = 2 then c.react (c.armFlight a) r 6 else c)

/-- The status registers of a cycle that ended (R188). -/
def Chip.planRegs (c : Chip) (drop run : Nat) : Chip :=
  let p := c.plan
  let seq := (c.fld BSN_PLAN_STAT__PLAN_SEQ + 1) % 2 ^ 16
  let c := c.setReg BSN_PLAN_STAT (seq * 2 ^ 16 + p.cause * 2 ^ 12 + b2n p.pairOvf * 2 ^ 5 + b2n p.headLim * 2 ^ 4
    + b2n p.conv * 2 ^ 3 + p.status)
  let c := c.setReg BSN_PLAN_ITER (p.iterMax % 2 ^ 12 * 2 ^ 16 + p.iter % 2 ^ 12)
  let c := c.setReg BSN_PLAN_INFO (run * 2 ^ 24 + p.pairs % 2 ^ 8 * 2 ^ 16 + p.arms)
  let c := c.setReg BSN_PLAN_DROP drop
  let c := match p.resP with
    | some w => c.setReg BSN_PLAN_RES_P w.toNat
    | none => c
  match p.colm with
  | some w => c.setReg BSN_PLAN_COL_MIN (fMul (c.plW 0x28) (fAdd 0x3F800000 w.toNat))
  | none => c

/-- The counters of a cycle that ended (R188). -/
def Chip.planCounts (c : Chip) : Chip :=
  let c := match c.plan.status with
    | 0 => c.count BSN_PLAN_CNT_PUB__PUB 1
    | 1 => c.count BSN_PLAN_CNT_EXC__REJECTED 1
    | 2 => c.count BSN_PLAN_CNT_EXC__LATE 1
    | _ => c.count BSN_PLAN_CNT_EXC__SKIPPED 1
  if c.plan.headLim then c.count BSN_PLAN_CNT_EXC__HEAD_LIMITED 1 else c

/-- The plan cycle ends at t0: publication, status, counters, event and PLAN_LOST (R160, R182, R183, R188). -/
def Chip.planEnd (c : Chip) : Chip :=
  let c : Chip := match c.plan.phase with
    | .building => c.planSkip (if c.plan.ganged then 6 else 5)
    | .job => c.setPlan (fun p => { p with phase := .ended, status := 2, cause := 0 })
    | _ => c
  let segs := c.plan.pub.map (fun e => (e.1, e.2.map Seg.words))
  let r : Chip × Nat := if c.plan.status = 0 then c.planPublish else (c, 0)
  let c := r.1
  let old := c.fld BSN_PLAN_INFO__MISS_RUN
  let free : Bool := decide (c.plan.status = 3 ∧ (c.plan.cause = 7 ∨ c.plan.cause = 8))
  let run := if c.plan.status = 0 then 0 else if free then old else min 255 (old + 1)
  let c := (c.planRegs r.2 run).planCounts
  let c := c.ledger (.publication (c.reg BSN_PLAN_STAT) segs)
  let c := if run = 0 then c.setPlan (fun p => { p with lostTaken := false }) else c
  let c := if c.flag BSN_PLAN_CTL__EVT_EN then
      c.hostEvent 6 [w32 (c.reg BSN_PLAN_STAT), w32 (c.reg BSN_PLAN_ITER), w32 c.poundNum]
    else c
  if max 1 (bits (c.plW 0) 23 16) ≤ run ∧ c.plan.lostTaken = false then c.planLost run else c

/-- The build starts: tasks are taken over, inputs are latched, conversions are submitted (R157, R185, R497). -/
def Chip.planStart (c : Chip) : Chip :=
  let tasks := c.plan.ready.foldl (fun (l : List (Nat × Task)) e =>
    let l := l.filter (fun x => x.1 != e.1)
    match e.2 with
    | some t => l ++ [(e.1, t)]
    | none => l) c.plan.tasks
  let arms := (c.armsOn.filter (fun a => c.flag (LCK_SEGQ_CTL__QSRC (c.armFlight a)) && c.fMode (c.armFlight a) == 2)).foldl
    (fun m a => m + 2 ^ a) 0
  let hints := (List.range 16).map (fun a =>
    c.fld (if a % 2 = 0 then WEI_SSM_HINT__HINT_LO (a / 2) else WEI_SSM_HINT__HINT_HI (a / 2)))
  let c := c.setPlan (fun p => { p with
    phase := .building, b := c.poundNum, ganged := c.fld BSN_STATUS__MODE != 0, cb := c.pnd.cn, inc := c.beltInc, hints := hints, arms := arms,
    joints := [], status := 4, cause := 0, headLim := false, pairOvf := false, pairs := 0, iterMax := 0, iter := 0,
    conv := false, resP := none, colm := none, pub := [], newKnots := [], tasks := tasks, ready := [] })
  let c := c.each (List.range 16) (fun c a =>
    let c := c.ikRun a true
    match c.ikOf a with
    | some x => c.ikSubmit a x
    | none => c)
  if c.flag BSN_PLAN_CTL__SUSPEND then c.planSkip (if arms = 0 then 7 else 8)
  else if arms = 0 then c.planSkip 7
  else c

/-- A flight that has left RUN has not been in RUN since the last published plan (R162). -/
def Chip.planRunSince (c : Chip) : Chip :=
  c.each c.enFlights (fun c f =>
    if (c.flight f).runSince && c.fMode f != 2 then c.setFlight f { c.flight f with runSince := false } else c)

/-- The planner at a boundary: where it begins a power period (`begins`) the cycle whose plan starts here ends, before the
queues are evaluated, and the next one starts, in MOORED and UNDERWAY only, its build being work of class FW_CTRL (R15,
R30, R414). A twin in STANDBY or RESYNC builds no
plan (R157, R160). -/
def Chip.planBoundary (c : Chip) (begins : Bool) : Chip :=
  let c := c.planRunSince
  if c.drives then
    if begins then
      let c := if c.plan.phase = .none then c else (c.planEnd).setPlan (fun p => { p with phase := .none })
      if c.plEn && decide (c.opState = 1 ∨ c.opState = 2) then c.planStart.fwWork 0 else c
    else c
  else c.setPlan (fun p => { p with phase := .none, pub := [] })

/-! ## The Basin's events -/

/-- A Basin job completes its computation (R135, R152, R154, R181, R185). -/
def execJobComplete (t : Nat) (slot : Fin 256) (fault : JobFault) (s : State) : Host.Outcome State Fault Refusal :=
  s.event t (fun c => (c.jobComplete slot.val fault).planAfter)

/-- A running job reaches its deadline tick (R138, R139). -/
def execJobDeadline (slot : Fin 256) (s : State) : Host.Outcome State Fault Refusal :=
  s.event s.chip.now (fun c => (c.jobAtDeadline slot.val).planAfter)

/-- An iteration of a QP job ends (R138, R141, R171, R172). -/
def execQpIterationEnd (t : Nat) (slot : Fin 256) (s : State) : Host.Outcome State Fault Refusal :=
  s.event t (fun c => (c.qpIterEnd slot.val).planAfter)

end Sys2Proof.Machine
end

