-- ==== Sys2Proof/Machine/Ssm.lean ====
section
/-! DEFINITION. Speed-and-separation monitoring: the sine table, the arm model, the separation distances, the margins,
the cause SSM and the speed hints (R397 to R405). -/

namespace Sys2Proof.Machine

/-! ## Checked binary32 arithmetic: `none` once a result is not finite (R400) -/

/-- A result, if it is finite. -/
def cFin (x : Nat) : Option Nat := if fFinite x then some x else none

/-- A checked operation on two values. -/
def c2 (f : Nat → Nat → Nat) (a b : Option Nat) : Option Nat :=
  match a, b with
  | some x, some y => cFin (f x y)
  | _, _ => none

/-- A checked fused multiply-add. -/
def cFma (a b x : Option Nat) : Option Nat :=
  match a, b, x with
  | some u, some v, some w => cFin (fFma u v w)
  | _, _, _ => none

/-- A checked negation. -/
def cNeg (a : Option Nat) : Option Nat := a.map fNeg

/-- A checked square root. -/
def cSqrt (a : Option Nat) : Option Nat := a.bind (fun x => cFin (fSqrt x))

/-! ## The sine table (R399) -/

/-- 2π in units of 2⁻¹²⁸. -/
def twoPi : Nat := 2138057168129933495719360746323741566601

/-- The terms of the sine series in units of 2⁻¹²⁸: sums `n` more of them, alternating, from term `t` of order `k`. -/
def sinTerms : Nat → Nat → Nat → Nat → Bool → Int
  | 0, _, _, _, _ => 0
  | n + 1, x, t, k, neg =>
    (if neg then -(t : Int) else (t : Int)) + sinTerms n x (t * x / 2 ^ 128 * x / 2 ^ 128 / ((k + 1) * (k + 2))) (k + 2) (!neg)

/-- The binary32 value nearest to the sine of i · 2π ÷ 65,536 for i of the first quadrant. -/
def sinQuad (i : Nat) : Nat :=
  let x := twoPi * i / 65536
  fOfRat ((sinTerms 20 x x 1 false : Rat) / ((2 ^ 128 : Nat) : Rat))

/-- SN[i] (R399). -/
def sinTab (i : Nat) : Nat :=
  let i := i % 65536
  let h := i % 32768
  let v := if h ≤ 16384 then sinQuad h else sinQuad (32768 - h)
  if 32768 < i then fNeg v else v

/-- CS[i] (R399). -/
def cosTab (i : Nat) : Nat := sinTab (i + 16384)

/-! ## Frames (R400) -/

/-- A frame: the nine rotation words by rows, then the three of the translation. -/
abbrev Frame := List (Option Nat)

/-- Element i of a frame. -/
def fr (f : Frame) (i : Nat) : Option Nat := f.getD i none

/-- t_i of a point carried by a frame (R400). -/
def frPoint (f : Frame) (p : Nat → Option Nat) (i : Nat) : Option Nat :=
  cFma (fr f (3 * i + 2)) (p 2) (cFma (fr f (3 * i + 1)) (p 1) (cFma (fr f (3 * i)) (p 0) (fr f (9 + i))))

/-- F_{j+1} := F_j · T_j (R400). -/
def frMul (a b : Frame) : Frame :=
  ((List.range 9).map (fun n =>
    let i := n / 3
    let k := n % 3
    cFma (fr a (3 * i + 2)) (fr b (6 + k))
      (cFma (fr a (3 * i + 1)) (fr b (3 + k)) (c2 fMul (fr a (3 * i)) (fr b k))))) ++
  (List.range 3).map (frPoint a (fun i => fr b (9 + i)))

/-- The joint transform (R400). -/
def frJoint (a d ca sa th : Nat) : Frame :=
  let c := cFin (cosTab th)
  let s := cFin (sinTab th)
  let A := cFin a
  let CA := cFin ca
  let SA := cFin sa
  [c, cNeg (c2 fMul s CA), c2 fMul s SA, s, c2 fMul c CA, cNeg (c2 fMul c SA), cFin 0, SA, CA,
    c2 fMul A c, c2 fMul A s, cFin d]

/-- The base frame: rotation about z by BYAW and the base position (R400). -/
def Chip.frBase (c : Chip) (a : Nat) : Frame :=
  let o := armOff a
  let y := bits (c.ws (o + 0x10)) 15 0
  let co := cFin (cosTab y)
  let si := cFin (sinTab y)
  let z := cFin 0
  let one := cFin 0x3F800000
  [co, cNeg si, z, si, co, z, z, z, one, cFin (c.ws (o + 4)), cFin (c.ws (o + 8)), cFin (c.ws (o + 12))]

/-- The transform of joint j of arm a at the position of its axis monitor (R399, R400). -/
def Chip.frOf (c : Chip) (a j : Nat) : Frame :=
  let o := armOff a + 0x20 + 48 * j
  let w := c.ws o
  let h := c.ws (o + 8)
  let p := signed 48 ((c.mon (bits w 7 0)).hist.getD 0 0)
  let off := p - setI48 c.weir.act (o + 0x0C)
  let k := ((asr (off * signed 32 (c.ws (o + 4))) (bits h 5 0) + (bits h 31 16 : Nat)) % 65536).toNat
  let D := c.ws (o + 0x18)
  let T := w.testBit 30
  let d := if T then fAdd D (fMul (fOfInt off) (c.ws (o + 0x24))) else D
  frJoint (c.ws (o + 0x14)) d (c.ws (o + 0x1C)) (c.ws (o + 0x20)) (if T then bits h 31 16 else k)

/-- The frames of an arm's links 0 … NJ. -/
def Chip.armFrames (c : Chip) (a : Nat) : List Frame :=
  ((List.range (bits (c.ws (armOff a)) 27 24)).foldl (fun (r : List Frame × Frame) j =>
    let f := frMul r.2 (c.frOf a j)
    (r.1 ++ [f], f)) ([c.frBase a], c.frBase a)).1

/-- The six cell-frame coordinates of a capsule's end points. -/
def Chip.capEnds (c : Chip) (fs : List Frame) (a i : Nat) : List (Option Nat) :=
  let b := armOff a + 0x1A0 + 32 * i
  let f := fs.getD (bits (c.ws b) 3 0) []
  let pt (e : Nat) : List (Option Nat) := (List.range 3).map (frPoint f (fun k => cFin (c.ws (b + 4 + 12 * e + 4 * k))))
  pt 0 ++ pt 1

/-- √ of fma(x, x, fma(y, y, z·z)) (R401). -/
def norm3 (x y z : Option Nat) : Option Nat := cSqrt (cFma x x (cFma y y (c2 fMul z z)))

/-- The capsule's speed from its end points now and before (R401). -/
def capSpeed (e p : List (Option Nat)) : Option Nat :=
  let d (i : Nat) : Option Nat := c2 fSub (fr e i) (fr p i)
  c2 fMul (c2 fMax (norm3 (d 0) (d 1) (d 2)) (norm3 (d 3) (d 4) (d 5))) (cFin 0x44FA0000)

/-- The separation distance of a capsule and a person (R402). -/
def sepDist (e : List (Option Nat)) (rc rp px py : Option Nat) : Option Nat :=
  let x0 := fr e 0
  let y0 := fr e 1
  let dx := c2 fSub (fr e 3) x0
  let dy := c2 fSub (fr e 4) y0
  let L := cFma dx dx (c2 fMul dy dy)
  let u := match L with
    | none => none
    | some l =>
      if fZero l then some 0
      else
        c2 fMin (c2 fMax (c2 fDiv (cFma (c2 fSub px x0) dx (c2 fMul (c2 fSub py y0) dy)) L) (some 0)) (some 0x3F800000)
  let gx := c2 fSub px (cFma u dx x0)
  let gy := c2 fSub py (cFma u dy y0)
  c2 fSub (c2 fSub (cSqrt (cFma gx gx (c2 fMul gy gy))) rc) rp

/-- A global binary32 of the section (R408). -/
def Chip.ssmG (c : Chip) (i : Nat) : Option Nat := cFin (ssmGlobal c.weir.act i)

/-- The TRACKS connection that owns a slot. -/
def Chip.slotConn (c : Chip) (s : Nat) : Option Nat :=
  (c.connsOf 3).find? (fun k =>
    let b := bits (c.ws (connOff k + 0x10)) 21 16
    decide (b ≤ s ∧ s < b + bits (c.ws (connOff k)) 23 21))

/-- A slot is active: its radius is not 0 and its connection is in RUN (R398). -/
def Chip.slotActive (c : Chip) (s : Nat) : Bool :=
  bits (tabGet (fun _ => ((0, 0) : Word × Word)) c.weir.tracks s).2.toNat 23 16 != 0 &&
    (match c.slotConn s with
     | some k => c.cstate k == 2
     | none => false)

/-- The margin m = d − S_p of a capsule, with its end points and speed, and an active slot (R402, R403). -/
def Chip.margin (c : Chip) (e : List (Option Nat)) (vr rc : Option Nat) (s : Nat) : Option Nat :=
  let t := tabGet (fun _ => ((0, 0) : Word × Word)) c.weir.tracks s
  let w0 := t.1.toNat
  let w1 := t.2.toNat
  let zd := cFin (c.ws (connOff ((c.slotConn s).getD 0) + 0x18))
  let px := some (fOfInt (signed 16 (bits w0 15 0)))
  let py := some (fOfInt (signed 16 (bits w0 31 16)))
  let rp := some (fOfInt (4 * bits w1 23 16 : Nat))
  let vh := c2 fMax (some (fOfInt (bits w1 15 0 : Nat))) (c.ssmG 0)
  let k1 := c2 fAdd (c.ssmG 1) (c.ssmG 2)
  let k2 := cFma (some 0x3F000000) (c.ssmG 2) (c.ssmG 1)
  let k3 := c2 fAdd (c2 fAdd (c.ssmG 3) (c.ssmG 4)) zd
  c2 fSub (sepDist e rc rp px py) (cFma vh k1 (cFma vr k2 k3))

/-- What an evaluation finds: the smallest margin with its place, the smallest margin of each arm, the arms with a margin
that is not finite, and whether any result was not finite (R400). -/
structure SsmFound where
  min : Option (Nat × Nat × Nat × Nat)
  arm : List (Nat × Nat)
  bad : List Nat
  open_ : Bool

/-- A margin joins what was found. -/
def SsmFound.add (r : SsmFound) (m : Option Nat) (a i s : Nat) : SsmFound :=
  match m with
  | none => { r with bad := if r.bad.contains a then r.bad else r.bad ++ [a], open_ := true }
  | some v =>
    let mn := match r.min with
      | some q => if fLt v q.1 then some (v, a, i, s) else r.min
      | none => some (v, a, i, s)
    let old := (r.arm.find? (fun e => e.1 == a)).map (·.2)
    let av := match old with
      | some o => fMin o v
      | none => v
    { r with min := mn, arm := (a, av) :: r.arm.filter (fun e => e.1 != a) }

/-- HINT of an arm from its smallest margin (R405). -/
def Chip.hintOf (c : Chip) (m : Nat) : Option Nat :=
  let z := c.ssmG 5
  let h := c2 fMin (c2 fMax (c2 fDiv (c2 fSub (some m) z) (c2 fSub (c.ssmG 6) z)) (some 0)) (some 0x3F800000)
  h.map (fun v => (fToInt (fMul v 0x47000000)).toNat)

/-- Every value is finite. -/
def allFin (l : List (Option Nat)) : Bool := l.all Option.isSome

/-- The end points and speed of a capsule join an evaluation: a result that is not finite is noted, the margins against
the active slots are formed, and the end points are kept for the next evaluation, one that is not finite as an infinity
(R400 to R403). -/
def Chip.ssmCapsule (c : Chip) (fs : List Frame) (slots : List Nat) (a : Nat) (r : Chip × SsmFound) (i : Nat) :
    Chip × SsmFound :=
  let e := c.capEnds fs a i
  let key := 8 * a + i
  let old := tabGet (fun _ => ([] : List Word)) c.weir.ends key
  let vr := capSpeed e (if old = [] then e else old.map (fun w => cFin w.toNat))
  let rc := cFin (c.ws (armOff a + 0x1A0 + 32 * i + 0x1C))
  let found := { r.2 with open_ := r.2.open_ || !allFin e || vr.isNone }
  (r.1.setWeir (fun w => { w with
      ends := tabPut (fun _ => ([] : List Word)) key (e.map (fun x => w32 (x.getD 0x7F800000))) w.ends }),
    slots.foldl (fun f s => f.add (c.margin e vr rc s) a i s) found)

/-- The enabled arms and their enabled capsules evaluated (R399 to R403). -/
def Chip.ssmFind (c : Chip) (slots : List Nat) : Chip × SsmFound :=
  ((List.range 16).filter (fun a => (c.ws (armOff a)).testBit 31)).foldl (fun r a =>
    let fs := c.armFrames a
    let r := (r.1, { r.2 with open_ := r.2.open_ || !fs.all allFin })
    ((List.range 8).filter (fun i => (c.ws (armOff a + 0x1A0 + 32 * i)).testBit 31)).foldl (c.ssmCapsule fs slots a) r)
    (c, ⟨none, [], [], false⟩)

/-- WEI_SSM_MIN and WEI_SSM_MINLOC: the smallest margin and its place; with a margin that is not finite they are free
values within their fields (R412). -/
def Chip.ssmMin (c : Chip) (f : SsmFound) : Chip :=
  if f.bad != [] then
    let q := c.freeWord
    let p := q.1.freeWord
    (p.1.setReg WEI_SSM_MIN q.2.toNat).setReg WEI_SSM_MINLOC (p.2.toNat &&& 0xFE00003F)
  else
    match f.min with
    | some q => (c.setReg WEI_SSM_MIN q.1).setReg WEI_SSM_MINLOC (q.2.1 * 2 ^ 28 + q.2.2.1 * 2 ^ 25 + q.2.2.2)
    | none => (c.setReg WEI_SSM_MIN 0x7F7FFFFF).setReg WEI_SSM_MINLOC 0

/-- The hint of an arm from its smallest margin; 32,768 with no enabled capsule or no active slot, and a free value up to
that where the margin or the hint is not finite (R405). -/
def Chip.ssmHint (c : Chip) (f : SsmFound) (a : Nat) : Chip :=
  let x := if a % 2 = 0 then WEI_SSM_HINT__HINT_LO (a / 2) else WEI_SSM_HINT__HINT_HI (a / 2)
  let h := match f.arm.find? (fun e => e.1 == a) with
    | some e => c.hintOf e.2
    | none => some 32768
  match f.bad.contains a, h with
  | false, some v => c.setFld x v
  | _, _ => (c.freeWord.1).setFld x (c.freeWord.2.toNat % 32769)

/-- The evaluation of SSM at its instant (R397, R401 to R405). A result that is not finite raises SSM (R400). -/
def Chip.ssmEvaluate (c : Chip) : Chip :=
  let slots := (List.range 64).filter c.slotActive
  let r := c.ssmFind slots
  let c := r.1
  let f := r.2
  let hintless := f.arm.any (fun e => (c.hintOf e.2).isNone)
  let open_ := f.open_ || hintless
  let viol := match f.min with
    | some q => fLt q.1 0
    | none => false
  let clear := match f.min with
    | some q => fLe (ssmGlobal c.weir.act 7) q.1
    | none => true
  let c := c.setReg WEI_SSM_STAT
    (((c.fld WEI_SSM_STAT__EVAL_SEQ + 1) % 2 ^ 16) * 2 ^ 16 + slots.length % 2 ^ 8 * 2 ^ 8 + b2n viol * 2 ^ 7)
  let c := (c.ssmMin f).each (List.range 16) (fun c a => c.ssmHint f a)
  let on := open_ || (if c.causeOn 11 then !clear else viol)
  c.weirFollow 11 on on

/-- A boundary at which SSM is evaluated (R397). -/
def Chip.ssmHere (c : Chip) : Bool := c.poundNum % (32 / 2 ^ min c.pnd.sel 4) == 0

/-- SSM at a boundary, with SSM_EN set in the active set (R397, R408). -/
def Chip.ssm (c : Chip) : Chip :=
  if c.weir.actV && (c.ws 0x3A00).testBit 31 && c.ssmHere then c.ssmEvaluate else c

end Sys2Proof.Machine
end

