-- ==== Sys2Proof/Machine/Sluice.lean ====
section
/-! DEFINITION. The Sluice: arithmetic and addressing of the kernels, stages, chains and their sinks, host access to core
memories (R292 to R315). A stage's effect on memory is made whole at its end. -/

namespace Sys2Proof.Machine

/-! ## Arithmetic (R294, R295) -/

/-- What a stage's operations follow: SAT, CONJ, OSH (R294). -/
structure SluMode where
  sat : Bool
  conj : Bool
  osh : Nat
  deriving DecidableEq, Repr

/-- A complex value; reals have imaginary part 0. -/
structure Cx where
  re : Int
  im : Int
  deriving DecidableEq, Repr

/-- A value brought into `w` bits: clamped with SAT, wrapped without, and whether this changed it. -/
def fitBits (m : SluMode) (w : Nat) (v : Int) : Int × Bool :=
  let r := if m.sat then clampI (-(2 ^ (w - 1))) (2 ^ (w - 1) - 1) v else signed w (unsigned w v)
  (r, r != v)

/-- add40(T, v) with the flags of the run: bit 0 SAT_ACC, bit 2 WRAP_ACC (R294). -/
def add40 (m : SluMode) (t : Int × Nat) (v : Int) : Int × Nat :=
  let r := fitBits m 40 (t.1 + v)
  (r.1, if r.2 then t.2 ||| (if m.sat then 1 else 4) else t.2)

/-- A complex accumulator with the flags. -/
structure Acc40 where
  re : Int
  im : Int
  fl : Nat
  deriving DecidableEq, Repr

/-- An accumulator at 0. -/
def Acc40.zero : Acc40 := ⟨0, 0, 0⟩

/-- Sums added to the two parts, real then imaginary. -/
def Acc40.add (m : SluMode) (t : Acc40) (re im : Int) : Acc40 :=
  let r := add40 m (t.re, t.fl) re
  let i := add40 m (t.im, r.2) im
  ⟨r.1, i.1, i.2⟩

/-- cmac with the second factor as it stands (R294). -/
def Acc40.mac (m : SluMode) (t : Acc40) (a b : Cx) : Acc40 :=
  let r := add40 m (add40 m (t.re, t.fl) (a.re * b.re)) (-(a.im * b.im))
  let i := add40 m (add40 m (t.im, r.2) (a.re * b.im)) (a.im * b.re)
  ⟨r.1, i.1, i.2⟩

/-- conj. -/
def Cx.conj (b : Cx) : Cx := ⟨b.re, -b.im⟩

/-- cmac(T, a, b): the second factor conjugated when CONJ is set (R294). -/
def Acc40.cmac (m : SluMode) (t : Acc40) (a b : Cx) : Acc40 := t.mac m a (if m.conj then b.conj else b)

/-- A part stored: rounded by 15 + OSH, brought into 16 bits; flags bit 1 SAT_ST, bit 3 WRAP_ST (R294). -/
def storePart (m : SluMode) (sh : Nat) (v : Int) : Int × Nat :=
  let r := fitBits m 16 (rnd v sh)
  (r.1, if r.2 then (if m.sat then 2 else 8) else 0)

/-- store(T) with `extra` shift beyond OSH. -/
def Acc40.store (m : SluMode) (extra : Nat) (t : Acc40) : Cx × Nat :=
  let r := storePart m (15 + m.osh + extra) t.re
  let i := storePart m (15 + m.osh + extra) t.im
  (⟨r.1, i.1⟩, t.fl ||| r.2 ||| i.2)

/-- sin(2πm ÷ 4,096)·2¹⁵ rounded, for m of the first quadrant (R295). -/
def twSin (m : Nat) : Int :=
  let x := twoPi * m / 4096
  rdivEven (sinTerms 20 x x 1 false * 2 ^ 15) (2 ^ 128)

/-- The sine part of TW[m], clamped to 16 bits. -/
def twIm (m : Nat) : Int :=
  let m := m % 4096
  let h := m % 2048
  let v := if h ≤ 1024 then twSin h else twSin (2048 - h)
  if m < 2048 then min v 32767 else -v

/-- TW[m] (R295). -/
def tw (m : Nat) : Cx := ⟨twIm (m + 1024), twIm m⟩

/-- TWφ (R304). -/
def twPhase (phi : Nat) : Cx := tw (bits phi 31 20)

/-! ## Addressing (R296, R299) -/

/-- An address generator with its IDX0. -/
structure Gen where
  amode : Nat
  mem : Nat
  cx : Bool
  follow : Bool
  base : Nat
  stride : Int
  modlen : Nat
  idx0 : Int
  deriving DecidableEq, Repr

/-- A generator from its two words. -/
def Gen.make (w0 w1 : Nat) : Gen :=
  ⟨bits w0 31 30, bits w0 29 28, w0.testBit 27, w0.testBit 26, bits w0 15 0, signed 16 (w1 / 2 ^ 16), bits w1 15 0, 0⟩

/-- Where the stage descriptor begins that a word of a chain belongs to (R306). -/
def stageAt (off : Nat) : Nat := off - (off % 1024 - 0x20) % 48

/-- The bits of a word of the Sluice window that are not reserved; `kernel` is the KERNEL of the word's stage, since P2 is
reserved where no kernel names it (R296, R300, R306, R312). -/
def sluMask (kernel off : Nat) : Nat :=
  if 0x10000 ≤ off then (if off < 0x10800 then 0xCFFFFFFF else 0)
  else if off % 1024 < 0x20 then
    match off % 1024 with
    | 0x00 => 0xFF87FFFF
    | 0x04 => 0xFE000000
    | 0x08 => 2 ^ 32 - 1
    | 0x0C => 0xFF00FFFF
    | 0x10 => 0x0000FFFF
    | _ => 0
  else if 0x320 ≤ off % 1024 then 0
  else
    match (off % 1024 - 0x20) % 48 with
    | 0x00 => 0xFFE00000
    | 0x04 => 0x0000FFFF
    | 0x08 | 0x10 | 0x18 => 0xFC00FFFF
    | 0x20 => 0x00007FFF
    | 0x2C => if kernel = 3 then 2 ^ 32 - 1 else 0
    | _ => 2 ^ 32 - 1

/-- Words loaded into the Sluice window from offset `off` on, reserved bits dropped (R8). -/
def sluWords (off : Nat) (ws : List Word) : List Word :=
  ws.zipIdx.map (fun e =>
    let o := off + 4 * e.2
    w32 (e.1.toNat &&& sluMask (bits (wordAt ws ((stageAt o - off) / 4)) 31 28) o))

/-- The lowest `n` bits of `i` reversed. -/
def revBits : Nat → Nat → Nat
  | 0, _ => 0
  | n + 1, i => (i % 2) * 2 ^ n + revBits n (i / 2)

/-- The digits of i reversed in the stage radices, the first stage's digit least significant (R296). -/
def revDigits : List Nat → Nat → Nat → Nat
  | [], _, _ => 0
  | r :: rs, n, i => (i % r) * (n / r) + revDigits rs (n / r) (i / r)

/-- Element address before the memory's size is applied; `fft` are the radices and length of an FFT stage. -/
def Gen.elem (g : Gen) (fft : Option (List Nat × Nat)) (i : Nat) : Int :=
  let e : Int := if g.cx then 2 else 1
  match g.amode with
  | 0 => g.base + e * (g.idx0 + g.stride * i)
  | 1 => g.base + e * (if g.modlen = 0 then 0 else (g.idx0 + g.stride * i) % (g.modlen : Int))
  | _ =>
    match fft with
    | some f => g.base + e * (revDigits f.1 f.2 i : Nat)
    | none => g.base + e * (revBits (Nat.log2 g.modlen) i : Nat)

/-- A halfword read by a kernel, with the run's flags for captured elements that were aged or invalid (R297). -/
def Chip.kernHalf (c : Chip) (core m : Nat) (a : Int) : Int × Nat :=
  let h := (a % (coreSize m : Int)).toNat
  let v := signed 16 (c.coreHalf core m h)
  if m = 0 then
    let mk := tabGet (fun _ => 0) (c.capUnit core).marks h
    (v, if mk = 1 then 64 else if mk = 2 then 32 else 0)
  else (v, 0)

/-- Element i of an operand (R293). -/
def Chip.getEl (c : Chip) (core : Nat) (g : Gen) (fft : Option (List Nat × Nat)) (i : Nat) : Cx × Nat :=
  let a := g.elem fft i
  let r := c.kernHalf core g.mem a
  if g.cx then
    let q := c.kernHalf core g.mem (a + 1)
    (⟨r.1, q.1⟩, r.2 ||| q.2)
  else (⟨r.1, 0⟩, r.2)

/-- Element i of a destination written (R293). -/
def Chip.putEl (c : Chip) (core : Nat) (g : Gen) (i : Nat) (v : Cx) : Chip :=
  let a := g.elem none i
  let at_ (a : Int) : Nat := (a % (coreSize g.mem : Int)).toNat
  let c := c.setCoreHalf core g.mem (at_ a) (unsigned 16 v.re)
  if g.cx then c.setCoreHalf core g.mem (at_ (a + 1)) (unsigned 16 v.im) else c

/-! ## Stage descriptors (R300, R306) -/

/-- A stage's fields. -/
structure Stage where
  kernel : Nat
  mode : SluMode
  inv : Bool
  n : Nat
  a : Gen
  b : Gen
  d : Gen
  cbase : Nat
  p0 : Nat
  p1 : Nat
  p2 : Nat
  deriving DecidableEq, Repr

/-- A stage from its twelve words. -/
def Stage.make (w : Nat → Nat) : Stage :=
  { kernel := bits (w 0) 31 28, mode := ⟨(w 0).testBit 27, (w 0).testBit 26, bits (w 0) 24 21⟩, inv := (w 0).testBit 25
    n := bits (w 1) 15 0, a := Gen.make (w 2) (w 3), b := Gen.make (w 4) (w 5), d := Gen.make (w 6) (w 7)
    cbase := bits (w 8) 14 0, p0 := w 9, p1 := w 10, p2 := w 11 }

/-- Offset of stage s of a chain in the window. -/
def stageOff (k s : Nat) : Nat := 1024 * k + 0x20 + 48 * s

/-- Stage s of a chain. -/
def Chip.stage (c : Chip) (k s : Nat) : Stage := Stage.make (fun i => c.sluW (stageOff k s + 4 * i))

/-- Stages of a chain. -/
def Chip.chStages (c : Chip) (k : Nat) : Nat := bits (c.sluW (1024 * k)) 27 24 + 1

/-- A stage with the IDX0 of its FOLLOW generators in a run whose capture block begins at `first` (R299). -/
def Stage.follow (g : Stage) (first : Option Nat) : Stage :=
  let h : Int := if g.kernel = 0 ∨ g.kernel = 6 then (g.p0 : Int) - 1 else 0
  let fix (x : Gen) : Gen := match first with
    | some s => if x.follow && x.modlen != 0 then { x with idx0 := ((s : Int) - h) % (x.modlen : Int) } else x
    | none => x
  { g with a := fix g.a, b := fix g.b, d := fix g.d }

/-- A coefficient element of format `cx` at halfword CBASE + e·k of C memory. -/
def Chip.coefEl (c : Chip) (core : Nat) (cx : Bool) (base k : Nat) : Cx :=
  let g : Gen := ⟨0, 2, cx, false, base, 1, 0, 0⟩
  (c.getEl core g none k).1

/-- The chip and the run's flags while a stage works. -/
abbrev Work2 := Chip × Nat

/-- Outputs made one after the other: each reads memory as the earlier ones left it. -/
def outputs (n : Nat) (c : Work2) (f : Chip → Nat → Chip × Nat) : Work2 :=
  (List.range n).foldl (fun (w : Work2) i =>
    let r := f w.1 i
    (r.1, w.2 ||| r.2)) c

/-! ## Kernels (R302 to R305) -/

/-- FIR and DECIM (R302). -/
def Chip.kFir (c : Chip) (core : Nat) (g : Stage) (r : Nat) : Work2 :=
  let t := g.p0
  outputs g.n (c, 0) (fun c n =>
    let s := (List.range t).foldl (fun (acc : Acc40 × Nat) k =>
      let x := c.getEl core g.a none (n * r + t - 1 - k)
      (acc.1.cmac g.mode (c.coefEl core g.a.cx g.cbase k) x.1, acc.2 ||| x.2)) (Acc40.zero, 0)
    let y := s.1.store g.mode 0
    (c.putEl core g.d n y.1, s.2 ||| y.2))

/-- SCL(T, e) with the stage's SAT (R304). -/
def sclMode (m : SluMode) (t : Int × Nat) (e : Nat) : Int × Nat := add40 m (0, t.2) (t.1 * 2 ^ e)

/-- BIQUAD (R304). -/
def Chip.kBiquad (c : Chip) (core : Nat) (g : Stage) : Work2 :=
  let m := g.mode
  let st (s i : Nat) : Nat := ((g.b.base + 4 * s + i) % coreSize g.b.mem)
  let get (c : Chip) (s i : Nat) : Int := signed 16 (c.coreHalf core g.b.mem (st s i))
  let co (c : Chip) (s i : Nat) : Int := signed 16 (c.coreHalf core 2 ((g.cbase + 6 * s + i) % coreSize 2))
  outputs g.n (c, 0) (fun c n =>
    let x0 := c.getEl core g.a none n
    let r := (List.range g.p0).foldl (fun (w : Chip × Int × Nat) s =>
      let c := w.1
      let x := w.2.1
      let t := add40 m (0, w.2.2) (co c s 0 * x)
      let t := add40 m t (co c s 1 * get c s 0)
      let t := add40 m t (co c s 2 * get c s 1)
      let t := add40 m t (-(co c s 3 * get c s 2))
      let t := add40 m t (-(co c s 4 * get c s 3))
      let t := sclMode m t (bits (unsigned 16 (co c s 5)) 1 0)
      let y := storePart m (15 + m.osh) t.1
      let x1 := get c s 0
      let y1 := get c s 2
      let put (c : Chip) (i : Nat) (v : Int) : Chip := c.setCoreHalf core g.b.mem (st s i) (unsigned 16 v)
      (put (put (put (put c 1 x1) 0 x) 3 y1) 2 y.1, y.1, t.2 ||| y.2)) (c, x0.1.re, 0)
    (r.1.putEl core g.d n ⟨r.2.1, 0⟩, x0.2 ||| r.2.2))

/-- The stage radices of an FFT of 2^m points (R303). -/
def fftRadices (m : Nat) : List Nat := (if m % 2 = 1 then [2] else []) ++ List.replicate (m / 2) 4

/-- p multiplied by ω^k: ω = −j or, inverse, +j for radix 4; −1 for radix 2 (R303). -/
def rot (r : Nat) (inv : Bool) (p : Cx) (k : Nat) : Cx :=
  let q := if r = 2 then 2 * (k % 2) else if inv then (4 - k % 4) % 4 else k % 4
  match q with
  | 0 => p
  | 1 => ⟨p.im, -p.re⟩
  | 2 => ⟨-p.re, -p.im⟩
  | _ => ⟨-p.im, p.re⟩

/-- One butterfly of group size L and radix r at position j of the group that starts at `s` (R303). -/
def Chip.butterfly (core : Nat) (g : Stage) (fft : List Nat × Nat) (first : Bool) (l r sh s j : Nat) (c : Chip) :
    Chip × Nat :=
  let xs := (List.range r).map (fun t =>
    let i := s + j + t * (l / r)
    if first then c.getEl core g.a (some fft) i else c.getEl core g.d none i)
  let ps := xs.zipIdx.map (fun e =>
    let x := e.1.1
    if e.2 = 0 then (⟨x.re * 2 ^ 15, x.im * 2 ^ 15⟩ : Cx)
    else
      let w0 := tw (e.2 * j * (4096 / l))
      let w := if g.inv then w0 else w0.conj
      ⟨x.re * w.re - x.im * w.im, x.re * w.im + x.im * w.re⟩)
  let outs := (List.range r).map (fun q =>
    let t := ps.zipIdx.foldl (fun (t : Acc40) e =>
      let v := rot r g.inv e.1 (q * e.2)
      t.add g.mode v.re v.im) Acc40.zero
    t.store g.mode sh)
  outs.zipIdx.foldl (fun (w : Chip × Nat) e =>
    (w.1.putEl core g.d (s + j + e.2 * (l / r)) e.1.1, w.2 ||| e.1.2)) (c, xs.foldl (fun m x => m ||| x.2) 0)

/-- FFT (R303). -/
def Chip.kFft (c : Chip) (core : Nat) (g : Stage) : Work2 :=
  let rs := fftRadices (Nat.log2 g.n)
  let fft := (rs, g.n)
  (rs.zipIdx.foldl (fun (acc : Work2 × Nat) e =>
    let r := e.1
    let l := acc.2 * r
    let w := (List.range (g.n / l)).foldl (fun (w : Work2) grp =>
      (List.range (l / r)).foldl (fun (w : Work2) j =>
        let o := Chip.butterfly core g fft (e.2 = 0) l r (bits g.p1 (2 * e.2 + 1) (2 * e.2)) (grp * l) j w.1
        (o.1, w.2 ||| o.2)) w) acc.1
    (w, l)) ((c, 0), 1)).1

/-- NCO (R304); the last phase goes to P1 of the descriptor at window offset `off`. -/
def Chip.kNco (c : Chip) (core : Nat) (g : Stage) (off : Nat) : Work2 :=
  let mix := g.p2 % 2 = 1
  let w := outputs g.n (c, 0) (fun c n =>
    let t := twPhase ((g.p1 + n * g.p0) % 2 ^ 32)
    if mix then
      let x := c.getEl core g.a none n
      let y := (Acc40.zero.cmac g.mode x.1 t).store g.mode 0
      (c.putEl core g.d n y.1, x.2 ||| y.2)
    else (c.putEl core g.d n t, 0))
  let v := w32 (g.p1 + g.n * g.p0)
  ({ w.1 with mem := { w.1.mem with slu := memWriteWords 0 (off + 0x28) [v] w.1.mem.slu } }, w.2)

/-- GOERTZEL (R304). -/
def Chip.kGoertzel (c : Chip) (core : Nat) (g : Stage) : Work2 :=
  outputs g.p0 (c, 0) (fun c k =>
    let h (i : Nat) : Nat := c.coreHalf core 2 ((g.cbase + 2 * k + i) % coreSize 2)
    let inc := h 0 + h 1 * 2 ^ 16
    let s := (List.range g.n).foldl (fun (acc : Acc40 × Nat) n =>
      let x := c.getEl core g.a none n
      (acc.1.mac g.mode x.1 (twPhase (n * inc % 2 ^ 32)).conj, acc.2 ||| x.2)) (Acc40.zero, 0)
    let y := s.1.store g.mode 0
    (c.putEl core g.d k y.1, s.2 ||| y.2))

/-- XCORR (R304). -/
def Chip.kXcorr (c : Chip) (core : Nat) (g : Stage) : Work2 :=
  outputs g.p0 (c, 0) (fun c l =>
    let s := (List.range g.n).foldl (fun (acc : Acc40 × Nat) n =>
      let x := c.getEl core g.a none (n + l)
      let y := c.getEl core g.b none n
      (acc.1.cmac g.mode x.1 y.1, acc.2 ||| x.2 ||| y.2)) (Acc40.zero, 0)
    let y := s.1.store g.mode 0
    (c.putEl core g.d l y.1, s.2 ||| y.2))

/-- The integer nearest to √n ÷ 2^s, ties to even (R304). -/
def sqrtNear (n s : Nat) : Nat :=
  let k := isqrt (n / 4 ^ s)
  let h := (2 * k + 1) ^ 2 * 4 ^ s
  if 4 * n < h then k else if h < 4 * n then k + 1 else if k % 2 = 0 then k else k + 1

/-- The terms of the arctangent series in units of 2⁻¹²⁸: `n` more from power `p` of order `k`, with x² = `q`. -/
def atanTerms : Nat → Nat → Nat → Nat → Bool → Int
  | 0, _, _, _, _ => 0
  | n + 1, p, q, k, neg =>
    (if neg then -((p / k : Nat) : Int) else ((p / k : Nat) : Int)) + atanTerms n (p * q / 2 ^ 128) q (k + 2) (!neg)

/-- The arctangent of num ÷ den in [0, 1], in units of 2⁻¹²⁸: beyond 5 ÷ 12 by the half-angle of π ÷ 4. -/
def atanUnit (num den : Nat) : Int :=
  let series (a b : Nat) : Int :=
    let x := a * 2 ^ 128 / b
    atanTerms 60 x (x * x / 2 ^ 128) 1 false
  if 12 * num ≤ 5 * den then series num den else (twoPi / 8 : Nat) - series (den - num) (den + num)

/-- θ of (a, b): the integer nearest to atan2(b, a)·32,768 ÷ π, 32,768 taken as −32,768 (R304). -/
def phaseOf (a b : Int) : Int :=
  let x := a.natAbs
  let y := b.natAbs
  if x = 0 ∧ y = 0 then 0
  else
    let q : Int := if y ≤ x then atanUnit y x else (twoPi / 4 : Nat) - atanUnit x y
    let half : Int := (twoPi / 2 : Nat)
    let ang := if a < 0 then half - q else q
    let t := rdivEven (ang * 32768) (twoPi / 2)
    let t := if b < 0 then -t else t
    if t = 32768 then -32768 else t

/-- MAGPH (R304). -/
def Chip.kMagph (c : Chip) (core : Nat) (g : Stage) : Work2 :=
  let m := g.mode
  outputs g.n (c, 0) (fun c n =>
    let x := c.getEl core g.a none n
    let a := x.1.re
    let b := x.1.im
    if g.p0 = 2 then
      let t := add40 m (add40 m (0, 0) (a * a)) (b * b)
      let y := storePart m (15 + m.osh) t.1
      (c.putEl core g.d n ⟨y.1, 0⟩, x.2 ||| t.2 ||| y.2)
    else
      let mu := fitBits m 16 (sqrtNear (a * a + b * b).toNat m.osh : Nat)
      let fl := if mu.2 then (if m.sat then 2 else 8) else 0
      (c.putEl core g.d n ⟨mu.1, if g.p0 = 0 then phaseOf a b else 0⟩, x.2 ||| fl))

/-- ARGMAX: the lowest index of the largest real part, its value and the flags of what was read. -/
def Chip.argmax (c : Chip) (core : Nat) (g : Stage) : Nat × Int × Nat :=
  (List.range g.n).foldl (fun (acc : Nat × Int × Nat) i =>
    let x := c.getEl core g.a none i
    if i = 0 ∨ acc.2.1 < x.1.re then (i, x.1.re, acc.2.2 ||| x.2) else (acc.1, acc.2.1, acc.2.2 ||| x.2)) (0, 0, 0)

/-- VEC (R305). -/
def Chip.kVec (c : Chip) (core : Nat) (g : Stage) : Work2 :=
  let m := g.mode
  let elementwise (f : Cx → Cx → Acc40) (two : Bool) : Work2 :=
    outputs g.n (c, 0) (fun c i =>
      let x := c.getEl core g.a none i
      let y := if two then c.getEl core g.b none i else (⟨0, 0⟩, 0)
      let z := (f x.1 y.1).store m 0
      (c.putEl core g.d i z.1, x.2 ||| y.2 ||| z.2))
  match g.p0 with
  | 0 => elementwise (fun a b => (⟨a.re * 2 ^ 15, a.im * 2 ^ 15, 0⟩ : Acc40).add m (b.re * 2 ^ 15) (b.im * 2 ^ 15)) true
  | 1 => elementwise (fun a b => (⟨a.re * 2 ^ 15, a.im * 2 ^ 15, 0⟩ : Acc40).add m (-(b.re * 2 ^ 15)) (-(b.im * 2 ^ 15))) true
  | 2 => elementwise (fun a b => Acc40.zero.cmac m a b) true
  | 3 => elementwise (fun a _ => Acc40.zero.cmac m a ⟨signed 16 g.p1, signed 16 (g.p1 / 2 ^ 16)⟩) false
  | 4 =>
    let s := (List.range g.n).foldl (fun (acc : Acc40 × Nat) i =>
      let x := c.getEl core g.a none i
      let y := c.getEl core g.b none i
      (acc.1.cmac m x.1 y.1, acc.2 ||| x.2 ||| y.2)) (Acc40.zero, 0)
    let z := s.1.store m 0
    (c.putEl core g.d 0 z.1, s.2 ||| z.2)
  | 5 =>
    let r := c.argmax core g
    ((c.putEl core g.d 0 ⟨((r.1 + g.p1) % 65536 : Nat), 0⟩).putEl core g.d 1 ⟨r.2.1, 0⟩, r.2.2)
  | _ => elementwise (fun a _ => ⟨a.re * 2 ^ 15, a.im * 2 ^ 15, 0⟩) false

/-- A stage's effect: memory, and the flags of its operations and of what it read (R301). -/
def Chip.runStage (c : Chip) (core k s : Nat) (first : Option Nat) : Work2 :=
  let g := (c.stage k s).follow first
  match g.kernel with
  | 0 => c.kFir core g 1
  | 1 => c.kBiquad core g
  | 2 => c.kFft core g
  | 3 => c.kNco core g (stageOff k s)
  | 4 => c.kGoertzel core g
  | 5 => c.kXcorr core g
  | 6 => c.kFir core g g.p1
  | 7 => c.kVec core g
  | 8 => c.kMagph core g
  | _ => (c, 0)

/-! ## Checks of a load (R307) -/

/-- How many elements a stage takes of A, B and D; 0: the operand is not used. -/
def Stage.counts (g : Stage) : Nat × Nat × Nat :=
  match g.kernel with
  | 0 => (g.n + g.p0 - 1, 0, g.n)
  | 1 => (g.n, 4 * g.p0, g.n)
  | 2 => (g.n, 0, g.n)
  | 3 => (if g.p2 % 2 = 1 then g.n else 0, 0, g.n)
  | 4 => (g.n, 0, g.p0)
  | 5 => (g.n + g.p0 - 1, g.n, g.p0)
  | 6 => (g.n * g.p1 + g.p0 - 1, 0, g.n)
  | 7 => (g.n, if g.p0 ∈ [0, 1, 2, 4] then g.n else 0, if g.p0 = 4 then 1 else if g.p0 = 5 then 2 else g.n)
  | _ => (g.n, 0, g.n)

/-- Check 1. -/
def Stage.check1 (g : Stage) : Bool :=
  let taps := decide (1 ≤ g.p0 ∧ g.p0 ≤ 4096)
  decide (1 ≤ g.n) && (match g.kernel with
    | 0 => taps
    | 1 => decide (1 ≤ g.p0 ∧ g.p0 ≤ 32)
    | 2 => decide (g.n = 2 ^ Nat.log2 g.n ∧ 4 ≤ Nat.log2 g.n ∧ Nat.log2 g.n ≤ 12)
    | 3 => true
    | 4 => decide (1 ≤ g.p0 ∧ g.p0 ≤ 64)
    | 5 => taps
    | 6 => taps && decide (2 ≤ g.p1 ∧ g.p1 ≤ 256)
    | 7 => decide (g.p0 ≤ 6)
    | 8 => decide (g.p0 ≤ 2)
    | _ => false)

/-- The generator's addresses for `n` elements lie inside its memory; `fft` is an FFT's length for bit-reversed order. -/
def Gen.inside (g : Gen) (n : Nat) (fft : Option Nat) (dest : Bool) : Bool :=
  let e : Int := if g.cx then 2 else 1
  let size : Int := coreSize g.mem
  let fits (lo hi : Int) : Bool := decide (0 ≤ g.base + e * lo ∧ g.base + e * hi + (e - 1) < size)
  if n = 0 then true
  else
    decide (g.mem ≤ 2) && !(dest && g.mem == 2) && !(g.cx && g.base % 2 == 1) &&
      (match g.amode with
       | 0 =>
         let last := g.stride * ((n : Int) - 1)
         let f : Int := if g.follow then (g.modlen : Int) - 1 else 0
         fits (min 0 last) (max 0 last + f)
       | 1 =>
         let top := if g.follow then g.modlen - 1
           else (List.range (min n g.modlen)).foldl (fun (m : Nat) (i : Nat) => max m ((g.stride * (i : Int)) % (g.modlen : Int)).toNat) 0
         fits 0 top
       | _ =>
         let top := match fft with
           | some k => k - 1
           | none => (List.range (min n g.modlen)).foldl (fun m i => max m (revBits (Nat.log2 g.modlen) i)) 0
         fits 0 top)

/-- Check 3 of one generator. -/
def Gen.shape (g : Gen) (n : Nat) (fft : Bool) : Bool :=
  n == 0 || (decide (g.amode ≤ 2) && (!(g.amode == 1 || (g.amode == 0 && g.follow)) || decide (1 ≤ g.modlen))
    && (fft || g.amode != 2 || decide (g.modlen = 2 ^ Nat.log2 g.modlen ∧ 1 ≤ g.modlen)))

/-- The first check of R307 that a stage fails. -/
def Stage.check (g : Stage) (last pick : Bool) : Option Nat :=
  let n := g.counts
  let fft := g.kernel == 2
  if g.check1 = false then some 1
  else if (g.a.inside n.1 (if fft then some g.n else none) false && g.b.inside n.2.1 none false && g.d.inside n.2.2 none true) = false
  then some 2
  else if (g.a.shape n.1 fft && g.b.shape n.2.1 false && g.d.shape n.2.2 false
      && (!fft || (g.a.amode == 2 && g.a.cx && g.d.amode == 0 && g.d.cx))
      && (g.kernel != 7 || (g.p0 != 4 && g.p0 != 5) || !g.d.cx)) = false then some 3
  else if last && pick && !(g.kernel == 7 && g.p0 == 5) then some 4
  else none

/-- The first failure of a chain given as its words: stage and code (R307). A chain whose EN is clear is not checked. -/
def chainFails (ws : List Word) : Option (Nat × Nat) :=
  let w (i : Nat) : Nat := wordAt ws i
  let n := bits (w 0) 27 24 + 1
  let pick := (w 3).testBit 29
  if (w 0).testBit 31 = false then none
  else
    let f := (List.range n).findSome? (fun s =>
      ((Stage.make (fun i => w (8 + 12 * s + i))).check (s + 1 == n) pick).map (fun code => (s, code)))
    match f with
    | some x => some x
    | none => if bits (w 1) 31 30 = 3 ∨ bits (w 3) 15 0 = 0 ∨ 4096 < bits (w 3) 15 0 then some (n - 1, 4) else none

/-- DETAIL of a failed chain load (R307). -/
def chainDetail (k : Nat) (f : Nat × Nat) : Nat := f.2 * 2 ^ 12 + f.1 * 2 ^ 6 + k

/-! ## The end of a run (R309, R311 to R314) -/

/-- The first `n` elements of the last stage's D region as halfwords, complex ones as two (R311). -/
def Chip.sinkHalves (c : Chip) (core k n : Nat) (first : Option Nat) : List Nat :=
  let g := (c.stage k (c.chStages k - 1)).follow first
  (List.range n).flatMap (fun i =>
    let x := (c.getEl core g.d none i).1
    if g.d.cx then [unsigned 16 x.re, unsigned 16 x.im] else [unsigned 16 x.re])

/-- S_FIFO: one packet with its prefix word (R311). -/
def Chip.sinkFifo (c : Chip) (core k seq : Nat) (first : Option Nat) : Chip :=
  let w := c.sluW (1024 * k + 0xC)
  let hs := c.sinkHalves core k (bits w 15 0) first
  let pre : List Byte := wordsBytes [w32 (seq % 2 ^ 16 * 2 ^ 16 + k), w32 (2 * hs.length % 2 ^ 16 * 2 ^ 16)]
  let body : List Byte := hs.flatMap (fun h => [BitVec.ofNat 8 h, BitVec.ofNat 8 (h / 256)])
  c.ladPacket (.slu ⟨core % 4, Nat.mod_lt _ (by decide)⟩) (pre ++ body)

/-- S_GAUGE: the first eight elements, as halfwords, to the core's probe words (R311). -/
def Chip.sinkGauge (c : Chip) (core k : Nat) (first : Option Nat) : Chip :=
  let hs := c.sinkHalves core k 8 first
  c.each (List.range 8) (fun c i => c.setFld ⟨SLU_PROBE core i, 15, 0⟩ (hs.getD i 0))

/-- S_PICK: the bank pick (R312, R313). The truth value says that a request was registered. -/
def Chip.sinkPick (c : Chip) (core k : Nat) (first : Option Nat) : Chip × Bool :=
  let w := c.sluW (1024 * k + 0xC)
  let f := bits w 28 24
  let g := (c.stage k (c.chStages k - 1)).follow first
  let x := unsigned 16 (c.getEl core g.d none 0).1.re
  let v := (c.getEl core g.d none 1).1.re
  let e (i : Nat) : Nat := c.sluW (0x10000 + 64 * f + 4 * i)
  if c.drives = false ∨ v < signed 16 (c.sluW (1024 * k + 0x10)) then (c, false)
  else
    match (List.range 16).find? (fun i => (e i).testBit 31 && decide (bits (e i) 11 0 ≤ x ∧ x ≤ bits (e i) 23 12)) with
    | none => (c, false)
    | some i =>
      let slot := bits (e i) 27 24
      if (c.fCtl f).testBit 15 ∨ c.bankValid f slot = false then
        ((c.count SLU_CNT__PICK_REJ_CNT 1).raise SLU_INT_STATUS__PICK_REJ, false)
      else (c.requestBank f slot ((e i).testBit 30), true)

/-- Run statuses of SLU_CHST. -/
abbrev chOK : Nat := 1
abbrev chDEADLINE : Nat := 2
abbrev chABORTED : Nat := 3
abbrev chMEMERR : Nat := 4

/-- The flags of a run as SLU_CHST_c shows them (R314). -/
def ChainRun.flagBits (x : ChainRun) : Nat :=
  let fl (b at_ : Nat) : Nat := b2n (x.flags.testBit b) * 2 ^ at_
  fl 0 27 + fl 1 26 + fl 2 25 + fl 3 24 + fl 4 23 + fl 5 22 + fl 6 21

/-- A run ends: an OK run's sinks are delivered, its status, flags and SEQ are recorded, its worker and list entry are
freed (R309, R311, R314). -/
def Chip.chainEnd (c : Chip) (k : Nat) (x : ChainRun) (rst : Nat) : Chip :=
  let seq := (c.fld (SLU_CHST__SEQ k) + 1) % 2 ^ 16
  let w := c.sluW (1024 * k + 0xC)
  let c := ((c.dropRun k).workDone (.chain k)).unlist 1 (.chain k)
  let c := if rst = chOK ∧ w.testBit 31 then c.sinkFifo x.core k seq x.first else c
  let c := if rst = chOK ∧ w.testBit 30 then c.sinkGauge x.core k x.first else c
  let p := if rst = chOK ∧ w.testBit 29 then c.sinkPick x.core k x.first else (c, false)
  let word := rst * 2 ^ 28 + x.flagBits + b2n p.2 * 2 ^ 20 + x.stage % 16 * 2 ^ 16 + seq
  let c := (p.1.setReg (SLU_CHST k) word).raise SLU_INT_STATUS__CHAIN_DONE
  let c := if rst = chDEADLINE then c.raise SLU_INT_STATUS__DEADLINE else c
  let c := if x.flags % 16 ≠ 0 then c.raise SLU_INT_STATUS__OVF else c
  let h := c.sluW (1024 * k)
  if h.testBit 30 then c.hostEvent 7 [w32 (seq * 2 ^ 16 + rst * 2 ^ 12 + k), w32 (bits h 15 0)] else c

/-- The destination of an abandoned stage is partly written: each halfword the stage would write, and a BIQUAD's state,
holds a value the spec does not give (R309). -/
def Chip.abandonStage (c : Chip) (core k s : Nat) (first : Option Nat) : Chip :=
  let g := (c.stage k s).follow first
  let n := g.counts
  let free (c : Chip) (m : Nat) (a : Int) : Chip :=
    let r := c.freeWord
    r.1.setCoreHalf core m ((a % (coreSize m : Int)).toNat) (r.2.toNat % 65536)
  let c := c.each (List.range n.2.2) (fun c i =>
    let a := g.d.elem none i
    let c := free c g.d.mem a
    if g.d.cx then free c g.d.mem (a + 1) else c)
  if g.kernel = 1 then c.each (List.range (4 * g.p0)) (fun c i => free c g.b.mem ((g.b.base + i : Nat) : Int)) else c

/-- A queued or running chain stops with a status (R309). -/
def Chip.chainStop (c : Chip) (k : Nat) (rst : Nat) : Chip :=
  match c.run k with
  | none => c
  | some x =>
    let c := if x.running then c.abandonStage x.core k x.stage x.first else c
    c.chainEnd k x rst

/-- The chain that runs on a core. -/
def Chip.coreChain (c : Chip) (core : Nat) : Option (Nat × ChainRun) :=
  c.slu.runs.find? (fun e => e.2.running && e.2.core == core)

/-- SLUICE_STAGE_END: the stage has written its last element; the next one starts or the run ends. `ce` are the corrected
errors its kernel read, `ue` an uncorrectable one (R292, R308). -/
def Chip.stageEnd (c : Chip) (core ce : Nat) (ue : Bool) : Chip :=
  match c.coreChain core with
  | none => c
  | some e =>
    let k := e.1
    let x := e.2
    let c := c.onlyIf (ce != 0) (fun c => (c.count SLU_ECC_CNT__CE_CNT ce).raise SLU_INT_STATUS__ECC_CE)
    if ue then
      let c := ((c.count SLU_ECC_CNT__UE_CNT 1).raise SLU_INT_STATUS__ECC_UE)
      let c := (c.freeWord.1.logEvent 16 5 c.freeWord.2 0).logTrigger 4
      c.chainStop k chMEMERR
    else
      let r := c.runStage core k x.stage x.first
      let cur := (r.1.run k).getD x
      let y := { cur with flags := cur.flags ||| r.2 }
      if x.stage + 1 < c.chStages k then
        (r.1.setRun k { y with stage := x.stage + 1 }).setFld (SLU_CORE_STAT__STAGE core) (x.stage + 1)
      else r.1.chainEnd k y chOK

/-- SLUICE_STAGE_END (R308). -/
def execSluiceStageEnd (t : Nat) (core : Fin 4) (ecc : StageEcc) (s : State) : Host.Outcome State Fault Refusal :=
  s.event t (fun c => c.stageEnd core.val ecc.corrected ecc.uncorrectable)

/-- CHAIN_DEADLINE: the running chain of a core reaches its deadline tick (R309). -/
def Chip.chainDeadline (c : Chip) (core : Nat) : Chip :=
  match c.coreChain core with
  | none => c
  | some e =>
    match e.2.deadline with
    | none => c
    | some d => (c.at d).chainStop e.1 chDEADLINE

/-- CHAIN_DEADLINE (R309). -/
def execChainDeadline (core : Fin 4) (s : State) : Host.Outcome State Fault Refusal :=
  s.event s.chip.now (fun c => c.chainDeadline core.val)

/-- A chain starts on its core: the flags of its last run clear (R294, R308). -/
def Chip.chainStart (c : Chip) (k : Nat) : Chip :=
  match c.run k with
  | none => c
  | some x =>
    let c := c.setRun k { x with running := true, latched := false, stage := 0 }
    let c := c.setReg (SLU_CHST k) (c.reg (SLU_CHST k) &&& 0xF01FFFFF)
    (c.setFld (SLU_CORE_STAT__CHAIN x.core) k).setFld (SLU_CORE_STAT__STAGE x.core) 0

/-! ## Host access to core memories (R310) -/

/-- The core runs no chain. -/
def Chip.coreIdle (c : Chip) (core : Nat) : Bool := (c.coreChain core).isNone

/-- A waiting write is applied and its command answered, or answered BUSY after 4 ms (R310, R496). -/
def Chip.memApply1 (c : Chip) (w : SluWrite) : Chip :=
  let drop (c : Chip) : Chip := { c with slu := { c.slu with writes := c.slu.writes.erase w } }
  if c.coreIdle w.core then (drop (c.setCoreBytes w.core w.m w.h w.data)).reply w.cmd stOK 0 []
  else if w.arrived + 3200000 ≤ c.now then (drop c).reply w.cmd stBUSY 0 []
  else c

/-- SLU_MEM_APPLY (R310). -/
def execSluMemApply (t : Nat) (core : Fin 4) (s : State) : Host.Outcome State Fault Refusal :=
  s.event t (fun c => c.each (c.slu.writes.filter (fun w => w.core == core.val)) Chip.memApply1)

/-- SLU_MEM_WRITE's rules: at once on an idle core, else when it becomes idle. -/
def Chip.sluMemWrite (c : Chip) (k : Intake) : Chip × Answer :=
  let w := wordAt k.payload 0
  let n := wordAt k.payload 1
  let core := bits w 1 0
  let m := bits w 5 4
  let h := bits w 31 16
  if m = 3 ∨ coreSize m ≤ h then (c, ansArg 0)
  else if coreSize m < h + n then (c, ansArg 1)
  else
    let data := (wordsBytes (k.payload.drop 2)).take (2 * n)
    if c.coreIdle core then
      (c.setCoreBytes core m h data, ansOK)
    else
      let x : SluWrite := ⟨core, m, h, data, c.now, k⟩
      ({ c with slu := { c.slu with writes := c.slu.writes ++ [x] } }, .defer)

/-- SLU_MEM_WRITE (R310). -/
def execSluMemWrite (t : Nat) (ifc : Iface) (tag target : Word) (pl : List Word) (s : State) :
    Host.Outcome State Fault Refusal :=
  s.command t 0x0905 ifc tag target pl Chip.sluMemWrite

/-- SLU_MEM_READ's rules (R496). -/
def Chip.sluMemRead (c : Chip) (k : Intake) : Chip × Answer :=
  let w := wordAt k.payload 0
  let n := wordAt k.payload 1
  let core := bits w 1 0
  let m := bits w 5 4
  let h := bits w 31 16
  if m = 3 ∨ coreSize m ≤ h then (c, ansArg 0)
  else if n = 0 ∨ 2048 < n ∨ coreSize m < h + n then (c, ansArg 1)
  else (c, .now stOK 0 (bytesWords (memBytes 0 c.mem.slum (coreAddr core m h) (2 * n))))

/-- SLU_MEM_READ (R496). -/
def execSluMemRead (t : Nat) (ifc : Iface) (tag target : Word) (pl : List Word) (s : State) :
    Host.Outcome State Fault Refusal :=
  s.command t 0x0906 ifc tag target pl Chip.sluMemRead

/-! ## Chain commands -/

/-- Words of the Sluice window written. -/
def Chip.setSluW (c : Chip) (off : Nat) (ws : List Word) : Chip :=
  { c with mem := { c.mem with slu := memWriteWords 0 off (sluWords off ws) c.mem.slu } }

/-- SLU_CHAIN_LOAD's rules (R307). -/
def Chip.chainLoad (c : Chip) (k : Intake) : Chip × Answer :=
  let n := k.target.toNat
  match chainFails k.payload with
  | some f => (c, .now stINVALID_ARG (chainDetail n f) [])
  | none => if (c.run n).isSome then (c, ansBusy) else (c.setSluW (1024 * n) k.payload, ansOK)

/-- SLU_CHAIN_LOAD (R307). -/
def execSluChainLoad (t : Nat) (ifc : Iface) (tag target : Word) (pl : List Word) (s : State) :
    Host.Outcome State Fault Refusal :=
  s.command t 0x0901 ifc tag target pl Chip.chainLoad

/-- SLU_PICK_LOAD's rules: the flight's sixteen entries (R312). -/
def Chip.pickLoad (c : Chip) (k : Intake) : Chip × Answer :=
  (c.setSluW (0x10000 + 64 * k.target.toNat) (k.payload.take 16), ansOK)

/-- SLU_PICK_LOAD (R312). -/
def execSluPickLoad (t : Nat) (ifc : Iface) (tag target : Word) (pl : List Word) (s : State) :
    Host.Outcome State Fault Refusal :=
  s.command t 0x0902 ifc tag target pl Chip.pickLoad

/-- SLU_TRIGGER's rules (R308, R417, R496). -/
def Chip.sluTrigger (c : Chip) (k : Intake) : Chip × Answer :=
  let n := k.target.toNat
  if c.chEn n = false ∨ c.chTrig n ≠ 0 then (c, .now stINVALID_ARG 0xFFFF [])
  else
    let r := c.chainTrigger n none (some k.org.ifc)
    (r.1, if r.2 then ansOK else ansBusy)

/-- SLU_TRIGGER (R308). -/
def execSluTrigger (t : Nat) (ifc : Iface) (tag target : Word) (pl : List Word) (s : State) :
    Host.Outcome State Fault Refusal :=
  s.command t 0x0903 ifc tag target pl Chip.sluTrigger

/-- SLU_ABORT's rules (R309, R496). -/
def Chip.sluAbort (c : Chip) (k : Intake) : Chip × Answer :=
  let n := k.target.toNat
  if (c.run n).isSome then (c.chainStop n chABORTED, ansOK) else (c, .now stNOT_FOUND 0 [])

/-- SLU_ABORT (R309). -/
def execSluAbort (t : Nat) (ifc : Iface) (tag target : Word) (pl : List Word) (s : State) :
    Host.Outcome State Fault Refusal :=
  s.command t 0x0904 ifc tag target pl Chip.sluAbort

end Sys2Proof.Machine
end

