-- ==== Sys2Proof/Machine/Win.lean ====
section
/-! DEFINITION. The configuration windows: where they lie, and the bits of their words that are not reserved (R8, R92, R186,
R187, R244 to R249, R300, R466). -/

namespace Sys2Proof.Machine

/-! ## The configuration windows (R466) -/

/-- The windows: 0 Lock engine, 1 bank memory, 2 Sluice, 3 planner, 4 Towpath; base and bytes. -/
def winTable : List (Nat × Nat × Nat) :=
  [(0, 0x100000, 0x10000), (4, 0x200000, 0x20000), (2, 0x300000, 0x20000), (3, 0x400000, 0x8000), (1, 0x1000000, 0x400000)]

/-- The window a configuration address lies in, with its offset and the window's bytes. -/
def winAt (a : Nat) : Option (Nat × Nat × Nat) :=
  (winTable.find? (fun w => decide (w.2.1 ≤ a ∧ a < w.2.1 + w.2.2))).map (fun w => (w.1, a - w.2.1, w.2.2))

/-- A window's memory. -/
def Chip.winMem (c : Chip) : Nat → List (Nat × Byte)
  | 0 => c.mem.lck
  | 1 => c.mem.bank
  | 2 => c.mem.slu
  | 3 => c.mem.plan
  | _ => c.mem.tow

/-- The chip with a window's memory replaced. -/
def Chip.setWin (c : Chip) (which : Nat) (m : List (Nat × Byte)) : Chip :=
  match which with
  | 0 => { c with mem := { c.mem with lck := m } }
  | 1 => { c with mem := { c.mem with bank := m } }
  | 2 => { c with mem := { c.mem with slu := m } }
  | 3 => { c with mem := { c.mem with plan := m } }
  | _ => { c with mem := { c.mem with tow := m } }

/-- The bits of a word of an arm entry that are not reserved (R187). -/
def armMask (o : Nat) : Nat :=
  if o = 0 then 0x8F001F0F
  else if o ≤ 0x20 then 2 ^ 32 - 1
  else if o < 0x40 then 0
  else if o < 0x240 then (if (o - 0x40) % 64 ≤ 0x20 then 2 ^ 32 - 1 else 0)
  else if o < 0x340 then (if (o - 0x240) % 32 = 0 then 0x8000000F else 2 ^ 32 - 1)
  else 0

/-- The bits of a word of the planner block and arm table that are not reserved (R186, R187). -/
def planMask (off : Nat) : Nat :=
  if off = 0 then 0xE0FFFF07
  else if off = 4 then 0x0FFF0FFF
  else if off = 0x30 ∨ off = 0x5C then 0xFF
  else if 0x44 ≤ off ∧ off ≤ 0x4C then 0x7FFFFF
  else if off < 0x68 then 2 ^ 32 - 1
  else if 0x80 ≤ off ∧ off < 0xA0 then 2 ^ 32 - 1
  else if 0x100 ≤ off ∧ off < 0x4100 then armMask ((off - 0x100) % 1024)
  else 0

/-- The bits of a word of the Towpath window that are not reserved (R244, R247, R249). -/
def towMask (off : Nat) : Nat :=
  if off < 0x10000 then
    match off % 16 with
    | 0 => 0xFE3F003F
    | 4 => 0x0003FFFF
    | 8 => 2 ^ 32 - 1
    | _ => 0xFFFF0FFF
  else if off < 0x14000 then 0xFFF7FFFF
  else if off < 0x15000 then (if off % 8 = 0 then 0x9FFF00FF else 0x3FF)
  else 2 ^ 32 - 1

/-- The bits of a window's word that are not reserved; reserved bits read 0 (R8). `m` is the window's memory: a stage's
KERNEL decides about its P2 (R300). -/
def winMask (which : Nat) (m : List (Nat × Byte)) (off : Nat) : Nat :=
  match which with
  | 0 => lckMask off
  | 2 => sluMask (bits (memWord 0 m (stageAt off)).toNat 31 28) off
  | 3 => planMask off
  | 4 => towMask off
  | _ => 2 ^ 32 - 1

/-- A window's memory with bytes written from offset `a` up, reserved bits dropped. -/
def winWrite (which a : Nat) (bs : List Byte) (m : List (Nat × Byte)) : List (Nat × Byte) :=
  let m := memWrite 0 a bs m
  (List.range ((bs.length + 3) / 4)).foldl (fun m i =>
    let w := (memWord 0 m (a + 4 * i)).toNat
    let v := w &&& winMask which m (a + 4 * i)
    if v = w then m else memWriteWords 0 (a + 4 * i) [w32 v] m) m

end Sys2Proof.Machine
end

