-- ==== Sys2Proof/Machine/Shadow.lean ====
section
/-! DEFINITION. The standby's shadow: the flight updates of a commit repeated and compared, its records applied, commits
received, acknowledged and applied in order, snapshots taken and applied (R444, R445, R457). -/

namespace Sys2Proof.Machine

/-! ## Flight updates repeated (R445 steps 1 and 2) -/

/-- What a FLIGHT record makes the standby compute: x̂, u and the flags (R57, R62, R65, R83, R445). -/
def Chip.shadowUpdate (c : Chip) (r : FlightRec) : List Int × List Int × Nat :=
  let f := r.f
  let w := r.w0.toNat
  let mode := bits w 7 5
  let inp := c.updInputs f (decide (c.fMode f = 1 ∧ mode = 2)) (if w.testBit 23 then some r.xi else none)
  if w.testBit 21 then (padTo (c.fNx f) (c.flight f).xh, padTo (c.fNu f) (c.flight f).u, 0)
  else
    let o := c.law (c.bankBase f (bits w 11 8)) (c.lawIn f inp.1 inp.2 r.y r.ages r.r)
    (o.x, if w.testBit 20 then inp.2 else if mode = 1 then o.u.map (fun _ => 0) else o.u, o.sat)

/-- The flags agree; a conversion that clamped on the primary raised SAT_STORE there and left a measurement at its
bound. -/
def satAgrees (own theirs : Nat) (y : List Int) : Bool :=
  own == theirs || (y.any (fun v => v == -32768 || v == 32767) && (own ||| 2) == theirs)

/-- The fault bits that the standby raises itself, as `recFaults` orders them: OVERRUN with OVR, MEAS_AGE by the record's ages,
SATURATION by masked flags that were clear (R24, R47, R74, R445). BANK_ECC is no result of the update (R59). -/
def Chip.shadowFaults (c : Chip) (r : FlightRec) (sat : Nat) : Nat :=
  let f := r.f
  let mx := c.fAgeMax f
  let new := sat &&& (15 ^^^ bits (c.reg (LCK_FSTAT f)) 3 0)
  8 * b2n (r.w0.toNat.testBit 20) + 4 * b2n (mx != 0 && r.ages.any (fun a => decide (mx < a)))
    + b2n ((bits (c.fCtl f) 23 20 &&& new) != 0)

/-- The step of an axis that a record's set-point shows (R66, R69): in RUN the difference of consecutive set-points, in HOLD
and RAMP the decelerated step unless the clamp acted, 0 in TRACK and in the first RUN update. The truth value says that
RATE clamped. -/
def Chip.stepOf (c : Chip) (a mode : Nat) (first : Bool) (new : Int) : Int × Bool :=
  let q := c.limit a mode first (c.axis a).tgt new
  (if mode = 2 ∧ first = false then new - (c.axis a).r else q.1.s, q.2)

/-- The stored values of a flight replaced by a record's; the stored commands reach the capture units (R297, R445 step 2).
DESIGN CHOICE: a saturation flag that a record takes from 0 to 1 sets neither LCK_SAT_PEND nor SAT_NEW on the standby (log entry 66). -/
def Chip.takeFlight (c : Chip) (n : Nat) (r : FlightRec) : Chip :=
  let f := r.f
  let w := r.w0.toNat
  let mode := bits w 7 5
  let old := c.fMode f
  let c := if mode = 1 ∧ 2 ≤ c.fMode f then c.clearQueue f else c
  let flags := bits w 15 12 ||| (bits w 16 16 * 128 + bits w 17 17 * 64 + bits w 18 18 * 32 + bits w 19 19 * 16)
  let c := c.each ((List.range 8).filter flags.testBit) (fun c b => c.raiseBit (LCK_FSTAT f) b)
  let c := (c.setFld (LCK_FSTAT__MODE f) mode).setFld (LCK_FSTAT__ACTIVE f) (bits w 11 8)
  let c := c.setFld (LCK_FSTAT__PARKED f) (bits w 25 25)
  let c := if w.testBit 22 then (c.reseedDrop f).setFld (LCK_FSTAT__PEND_V f) 0 else c
  let first := decide (old = 1 ∧ mode = 2)
  let slew := (List.range (c.fNu f)).any (fun k => (c.stepOf (c.fAxis f k) mode first (r.r.getD k 0)).2)
  let c := c.each (List.range (c.fNu f)) (fun c k =>
    let a := c.fAxis f k
    let new := r.r.getD k 0
    (c.setAxis a { r := new, s := (c.stepOf a mode first new).1, tgt := if mode = 1 then new else (c.axis a).tgt }).capCommand
      a (r.u.getD k 0))
  let still := (List.range (c.fNu f)).all (fun k => decide ((c.axis (c.fAxis f k)).s = 0))
  let x := c.flight f
  let x := if mode = old then x else
    { x with wantRamp := false, wantHold := false, startAt := none, resumeAt := none }
  let run := if still then min (x.stillRun + 1) 8 else 0
  let c := c.setFlight f { x with
    xh := r.x, u := r.u, r := if w.testBit 21 then x.r else r.r, startedP := some n, doneP := some n, stillRun := run, wantTrack := false, firstRun := false
    runSince := x.runSince && mode == 2 }
  let c := (c.setFlag (LCK_FSTAT__STILL f) (run == 8)).setFlag (LCK_FSTAT__SLEWING f) slew
  c.each (List.range (c.fNy f)) (fun c m =>
    if c.measQty f m = 2 then
      c.setAuxW (c.measSrc f m) ⟨unsigned 16 (r.y.getD m 0), r.ages.getD m 255, none, c.now⟩
    else c)

/-- One FLIGHT record: repeated, compared bit for bit, and taken over; the truth value says that it agreed. -/
def Chip.shadowFlight (c : Chip) (n : Nat) (r : FlightRec) : Chip × Bool :=
  let f := r.f
  let c := match r.clear with
    | some m => c.clearMask (LCK_FSTAT f) m
    | none => c
  let o := c.shadowUpdate r
  let okX := o.1 == r.x
  let okU := o.2.1 == r.u
  let theirs := bits r.w0.toNat 15 12
  let okF := satAgrees o.2.2 theirs r.y && c.shadowFaults r theirs == (bits r.w0.toNat 19 16 &&& 13)
  let c := c.takeFlight n r
  let c := c.regions f r.y r.ages
  if okX && okU && okF then (c, true)
  else
    let c := (c.count AQU_CNT1__MISMATCH_CNT 1).raise AQU_INT_STATUS__MISMATCH
    let c := (c.setReg AQU_MISMATCH_POUND n).setReg AQU_MISMATCH
      (b2n (!okF) * 2 ^ 10 + b2n (!okU) * 2 ^ 9 + b2n (!okX) * 2 ^ 8 + f % 32)
    (c, false)

/-! ## The other records (R445 steps 3 and 4) -/

/-- A SEGQ record before the evaluation of its pound: a flush, appends, pops and a latched P0. -/
def Chip.takeQueue (c : Chip) (f pops : Nat) (p0 : Option Nat) (fl : Bool) (segs : List (List Word)) : Chip :=
  let q := if fl then [] else (c.flight f).queue
  let q := (q ++ segs.map (fun w => Seg.make (w.take 8) (w.drop 8))).drop pops
  let q := match p0, q with
    | some p, g :: t => { g with p0 := p, latched := true } :: t
    | _, q => q
  c.setQueue f q

/-- The targets of the head segment of a flight at the boundary of pound n (R105). -/
def Chip.headTargets (c : Chip) (f n cn : Nat) : Chip :=
  match (c.flight f).queue with
  | [] => c
  | g :: _ =>
    let d := g.dist cn n
    c.each (List.range (c.fNu f)) (fun c k => c.putTarget f (c.fAxis f k) (g.eval k (g.sigma d)))

/-- Chainage moved by a restart or an alignment: it counts on from whole count `w`, and so do the chainage-fed dividers
(R211, R212). -/
def Chip.chainMoved (c : Chip) (w : Nat) : Chip := (c.setChain { c.pf.chain with whole := w % 2 ^ 48 }).pdChainSet (w % 2 ^ 48)

/-- A register whose word comes from the primary; its W1C bits that are set in the word are events of this tick (R6, R445). -/
def Chip.takeWord (c : Chip) (off v : Nat) : Chip :=
  (c.each ((List.range 32).filter (v &&& eventBits off).testBit) (fun c b => c.raiseBit off b)).setReg off v

/-- The chainage of a pound's record: the interpolator runs on from C(n) at that pound's boundary. DEDUCED: an offset that
changed, or a high-water count that fell, is a restart or an alignment made by the primary: chainage stands at its
high-water count and the chainage-fed dividers at V, for a restart 0 and for an alignment the last multiple of 2^HO_SH up
to that count (R94, R101, R211, R212; log entry 122). The boundaries without an anchor are those with one high-water count
(R97). -/
def Chip.takeChain (c : Chip) (n cn h : Nat) (inc : Word) (ofs : Nat) (status : Word) : Chip :=
  let b := match c.pnd.boundaries.find? (fun e => e.1 == n) with
    | some e => e.2
    | none => c.pnd.start
  let old := c.pf.chain
  let moved := ofs != old.ofs || decide (modDiff 48 h old.h < 0)
  let c := c.setChain { old with
    ofs := ofs, h := h, acc := if moved then h * 2 ^ 32 else cn * 2 ^ 16, accT := b, hist := []
    quiet := if h = old.h then old.quiet + 1 else 0 }
  let c := (c.setReg POS_CHN_SPEED inc.toNat).takeWord POS_CHN_STATUS status.toNat
  c.onlyIf moved (fun c =>
    c.chainMoved (if c.flag POS_CHN_STATUS__ALIGNED then h - h % 2 ^ c.fld POS_CHN_HO__HO_SH else 0))

/-- A MANIFEST record: an addition armed under its handle, which its index then counts as used, a cancellation or a firing
removed; a firing moves the tracked level without driving it, a discarded entry does not (R111, R118, R445). DEDUCED: the
record names no tick, so a pulse is timed from the tick in which the chainage of its pound reaches its key (log entry
115). -/
def Chip.takeManifest (c : Chip) : LedgerRec → Chip
  | .manAdd handle seq w =>
    let e : ManEntry := ⟨handle % 2 ^ 12, handle / 2 ^ 12, manWords w, seq, none⟩
    c.setMan (fun m => { m with
      armed := manInsert e m.armed, waiting := m.waiting.filter (fun x => x.idx != e.idx), seq := seq + 1, used := true
      gens := tabPut (fun _ => 0) e.idx (e.gen + 1) m.gens })
  | .manCancel handle => c.setMan (fun m => { m with armed := m.armed.filter (fun e => e.handle != handle) })
  | .manFire handle st =>
    match c.man.armed.find? (fun e => e.handle == handle) with
    | none => c
    | some e =>
      let i := e.target % 8
      let act := if st = mfPAST ∧ e.dropPast = true then 0 else e.action
      let l := if act = 1 ∨ act = 3 then c.man.level ||| 2 ^ i
        else if act = 2 then c.man.level &&& (255 ^^^ 2 ^ i) else c.man.level
      let fall := if act = 3 then some (c.manDue e + e.arg0) else none
      let falls := if 1 ≤ act ∧ act ≤ 3 then tabPut (fun _ => none) i fall c.man.falls else c.man.falls
      c.setMan (fun m => { m with armed := m.armed.filter (fun x => x.handle != handle), level := l, falls := falls })
  | _ => c

/-- The steps a type 2 or 3 channel took between two CHANNEL entries, from its raw counts: an index that resets the counts
is no step (R198, R199, R203). -/
def Chip.entrySteps (c : Chip) (o e : ChanEntry) : Int :=
  c.invDir e.ch (if c.chType e.ch = 3 then modDiff 32 e.raw o.raw
    else modDiff (c.fld (POS_SER_CFG__NBITS (c.fld (POS_CH_CFG__SRCIDX e.ch)))) e.raw o.raw)

/-- The steps of a type 2 or 3 channel, which the standby does not count itself, reach its dividers; the first good value
counts none (R198, R199, R209, R212). -/
def Chip.shadowSteps (c : Chip) (old : List ChanEntry) (e : ChanEntry) : Chip :=
  if c.chType e.ch = 2 ∨ c.chType e.ch = 3 then
    let c := match (c.chan e.ch).started, old.find? (fun o => o.ch == e.ch) with
      | true, some o => let d := c.entrySteps o e; c.pdChan e.ch d.natAbs (decide (0 < d))
      | _, _ => c
    if e.age < 255 then c.setChan e.ch { c.chan e.ch with started := true } else c
  else c

/-- The CHANNEL entries: each the sample of its channel for the Weir; D_c of the type 1 channels from the device's own
sample of that pound; the steps of the others for the dividers. -/
def Chip.takeChannels (c : Chip) (n : Nat) (l : List ChanEntry) : Chip :=
  let own := ((c.aqu.samples.find? (fun e => e.1 == n)).map (·.2)).getD []
  let c := c.setWeir (fun w => { w with feed := l.foldl (fun t e => tabPut (fun _ => (0, 255)) e.ch (e.pos, e.age) t) w.feed })
  let dc := l.foldl (fun (t : List (Nat × Int)) e =>
    match own.find? (fun o => o.1 == e.ch) with
    | some o => if c.chType e.ch = 1 then tabPut (fun _ => (0 : Int)) e.ch (modDiff 48 e.pos o.2) t else t
    | none => t) c.aqu.dc
  let c := c.each l (fun c e => c.shadowSteps c.aqu.chans e)
  c.setAqu (fun a => { a with chans := l, dc := dc })

/-- Data of the shared configuration takes effect (R436, R457). -/
def Chip.takeBulk (c : Chip) (d : BulkData) : Chip :=
  match d with
  | .memory k off ws => c.setWin (min k 3) (winWrite (min k 3) off (wordsBytes ws) (c.winMem (min k 3)))
  | .register off w => c.writeBits off w.toNat
  | .snapshot _ => c

/-- The oldest transfer that a standby has received whole, and what it has received since. -/
def firstBulk : List (BulkData × Bool) → Option (List BulkData × List (BulkData × Bool))
  | [] => none
  | (d, true) :: t => some ([d], t)
  | (d, false) :: t => (firstBulk t).map (fun r => (d :: r.1, r.2))

/-- The data of a commit's twin-wide changes have all arrived (R436). -/
def Chip.bulkHere (c : Chip) (recs : List LedgerRec) : Bool :=
  decide ((recs.filter (fun r => r.kind == 8)).length ≤ (c.aqu.bulk.filter (·.2)).length)

/-- A CONFIG record: the oldest whole transfer is its change, which takes effect if it has the record's CRC (R436). -/
def Chip.takeConfig (c : Chip) (crc : Word) : Chip :=
  match firstBulk c.aqu.bulk with
  | none => c
  | some r =>
    let c := c.setAqu (fun a => { a with bulk := r.2 })
    if bulkSum r.1 = crc then c.each r.1 Chip.takeBulk else c

/-- The STATE record: SYS_STATE follows the ledger, a pending change with it (R35). -/
def Chip.takeState (c : Chip) (n st cause : Nat) (pend : Option Nat) : Chip :=
  let c := c.enterState st cause
  let due (dest : Nat) : Nat := match c.pnd.request with
    | some q => if q.dest = dest then q.due else (n + if dest = 2 then 2 else 1) % 2 ^ 32
    | none => (n + if dest = 2 then 2 else 1) % 2 ^ 32
  { c with pnd := { c.pnd with request := pend.map (fun dest => ⟨dest, due dest, none⟩) } }

/-- A record of the kinds that stand before the flight updates: state, publication, queue changes and chainage. -/
def Chip.takeBefore (c : Chip) (n : Nat) : LedgerRec → Chip
  | .state st cause pend => c.takeState n st cause pend
  | .cleared f mask => c.clearMask (LCK_FSTAT f) mask
  | .publication stat segs =>
    let c := c.setReg BSN_PLAN_STAT stat
    let pub := segs.map (fun e => (e.1, e.2.map (fun w => Seg.make (w.take 8) (w.drop 8))))
    let r := c.takePlan n pub (pub.flatMap (fun e => c.segKnots e.1 e.2))
    (if segs = [] then c else r.1).setReg BSN_PLAN_DROP r.2
  | .queue f pops p0 false fl segs => c.takeQueue f pops p0 fl segs
  | .chainage cn h inc ofs status => c.takeChain n cn h inc ofs status
  | _ => c

/-- A record of the kinds that stand after them: releases, the Manifest, the channels and configuration changes. -/
def Chip.takeAfter (c : Chip) (n : Nat) : LedgerRec → Chip
  | .queue f _ _ true _ _ =>
    match (c.flight f).queue with
    | g :: t => c.setFlight f { c.flight f with queue := { g with released := true } :: t }
    | [] => c
  | .channel l => c.takeChannels n l
  | .config _ crc => c.takeConfig crc
  | r => c.takeManifest r

/-- COMMIT_APPLY: commit n is applied, its flight updates repeated and compared (R445). -/
def Chip.applyCommit (c : Chip) (n : Nat) (recs : List LedgerRec) : Chip :=
  let cn := (recs.findSome? (fun r => match r with
    | .chainage cn _ _ _ _ => some cn
    | _ => none)).getD c.pnd.cn
  let state := recs.filter (fun r => r.kind == 1)
  let pub := recs.filter (fun r => r.kind == 7)
  let rest := recs.filter (fun r => r.kind != 1 && r.kind != 7)
  let c := c.each (state ++ pub ++ rest) (fun c r => c.takeBefore n r)
  let c := c.each (c.enFlights.filter (fun f => c.fDue f n && c.fMode f == 2)) (fun c f => c.headTargets f n cn)
  let r : Chip × Bool := recs.foldl (fun (acc : Chip × Bool) x =>
    match x with
    | .flight y => let q := acc.1.shadowFlight n y; (q.1, acc.2 && q.2)
    | _ => acc) (c, true)
  let c := r.1.each recs (fun c r => c.takeAfter n r)
  let c := c.setAqu (fun a => { a with clean := if r.2 then a.clean + 1 else 0, recs := [] })
  (c.setReg AQU_COMMIT n).weirRefresh

/-! ## Receiving commits (R444) -/

/-- Complete commits are applied in pound order as far as they go; while the snapshot is awaited they are kept, and one that
makes a twin-wide change waits for its data. -/
def Chip.applyInbox (c : Chip) : Nat → Chip
  | 0 => c
  | fuel + 1 =>
    if c.role = 3 ∧ c.aqu.followed = false then c
    else
      let n := (c.reg AQU_COMMIT + 1) % 2 ^ 32
      match c.aqu.inbox.find? (fun e => e.1 == n) with
      | none => c
      | some e =>
        if c.bulkHere e.2 = false then c
        else
        let c := c.setAqu (fun a => { a with inbox := a.inbox.filter (fun x => x.1 != n) })
        (c.applyCommit n e.2).applyInbox fuel

/-- A resynchronisation fails: it is counted and starts again after 1 s (R457). -/
def Chip.resyncFail (c : Chip) : Chip :=
  if c.role = 3 ∧ c.aqu.restartT.isNone then
    let c := (c.raise AQU_INT_STATUS__RESYNC_FAIL).count AQU_CNT2__RESYNC_FAIL_CNT 1
    c.setAqu (fun a => { a with
      restartT := some (c.now + 800000000), followed := false, inbox := [], rx := [], seen := none, buf := 0, bulk := [] })
  else c

/-- The first frame of commit m: every commit between it and the newest one seen was lost whole. -/
def Chip.missedCommits (c : Chip) (m : Nat) : Chip :=
  match c.aqu.seen with
  | none => c
  | some p => c.each (List.range (min (modDiff 32 m p - 1).toNat 16)) (fun c i => c.nak ((p + 1 + i) % 2 ^ 32))

/-- Commit m is complete: it is acknowledged and kept for its turn. -/
def Chip.commitEnd (c : Chip) (m : Nat) (recs : List LedgerRec) : Chip :=
  let c := c.setAqu (fun a => { a with rx := a.rx.filter (fun x => x.1 != m) })
  let c := c.aquSend 4 c.poundNum 0 false [w32 m]
  let old := decide (modDiff 32 m (c.reg AQU_COMMIT) ≤ 0) && (c.role == 2 || c.aqu.followed)
  let c := if old || c.aqu.inbox.any (fun e => e.1 == m) then c
    else c.setAqu (fun a => { a with inbox := a.inbox ++ [(m, recs)] })
  c.applyInbox 32

/-- The frames of commit m are newer than any seen. -/
def Chip.newCommit (c : Chip) (m : Nat) : Bool := match c.aqu.seen with
  | some p => decide (0 < modDiff 32 m p)
  | none => true

/-- The records of commit m received so far when this frame's are added, if PART is consecutive; PART 0 begins it, or begins
it anew (R444). -/
def Chip.partsNow (c : Chip) (m : Nat) (fr : LedgerFrame) : Option (List LedgerRec) :=
  if fr.part = 0 then some fr.recs
  else match c.aqu.rx.find? (fun x => x.1 == m) with
    | some x => if x.2.1 = fr.part then some (x.2.2 ++ fr.recs) else none
    | none => none

/-- LEDGER_FRAME_RECEIVED: the commit is assembled; one that shows the first sign of a lost frame is asked for again, and one
still incomplete when the primary holds 16 newer ones puts the standby into RESYNC (R444). -/
def Chip.ledgerFrame (c : Chip) (fr : LedgerFrame) : Chip :=
  if c.takesCommits = false then c
  else
    let m := fr.pound.toNat
    let parts := c.partsNow m fr
    let ask := parts.isNone && (c.newCommit m || c.aqu.rx.any (fun x => x.1 == m))
    let c := if c.newCommit m then (c.missedCommits m).setAqu (fun a => { a with seen := some m }) else c
    let buf := if c.role = 3 ∧ c.aqu.followed = false then c.aqu.buf + fr.bytes else 0
    let c := c.setAqu (fun a => { a with buf := buf, rx := a.rx.filter (fun x => x.1 != m) ++ (match parts with
      | some l => [(m, fr.part + 1, l)]
      | none => []) })
    let c := match parts with
      | some l => if fr.last then c.commitEnd m l else c
      | none => if ask then c.nak m else c
    if c.role = 3 ∧ 2 ^ 20 < c.aqu.buf then c.resyncFail
    else if (c.role = 2 ∨ c.aqu.followed) ∧ 17 ≤ modDiff 32 m (c.reg AQU_COMMIT) then
      if c.role = 2 then c.setAqu (fun a => { a with next := some ⟨3, none, false, false⟩ }) else c.resyncFail
    else c

/-- LEDGER_FRAME_RECEIVED (R444). -/
def execLedgerFrameReceived (t : Nat) (fr : LedgerFrame) (s : State) : Host.Outcome State Fault Refusal :=
  s.event t (fun c => c.onFrame fr.h (fun c => (c.joinHears 2).ledgerFrame fr))

/-! ## Snapshots (R457) -/

/-- A segment's words with its latched P0 in place and REL and WAIT as they still act. -/
def Seg.frozen (g : Seg) : List Word :=
  let w0 := wordAt g.w 0
  let w0 := if g.latched then putBits w0 30 30 0 else w0
  let w0 := if g.released then putBits w0 29 29 0 else w0
  [w32 w0, w32 g.p0, w32 (g.p0 / 2 ^ 32)] ++ g.w.drop 3 ++ g.co

/-- The dynamic state at the boundary that ends pound `n`. -/
def Chip.takeSnapshot (c : Chip) (n : Nat) : Snapshot :=
  let x := c.pf.chain
  { pound := w32 n, state := c.opState, cause := c.fld SYS_STATE__LAST_CAUSE,
    flights := c.enFlights.map (fun f =>
      let ax := (List.range (c.fNu f)).map (fun k => c.axis (c.fAxis f k))
      { f := f, stat := w32 (c.reg (LCK_FSTAT f)), stat2 := w32 (c.reg (LCK_FSTAT2 f)), x := (c.flight f).xh,
        u := (c.flight f).u, r := ax.map (·.r), s := ax.map (·.s), tgt := ax.map (·.tgt),
        queue := (c.flight f).queue.map Seg.frozen, startAt := (c.flight f).startAt, resumeAt := (c.flight f).resumeAt,
        ramp := (c.flight f).wantRamp, hold := (c.flight f).wantHold }),
    man := c.man.armed.map (fun e => (e.handle, e.seq, e.w)), waiting := c.man.waiting.map (fun e => (e.handle, e.w)), manSeq := c.man.seq, levels := c.man.level,
    ofs := x.ofs, h := x.h, acc := c.accNow, inc := w32 (c.reg POS_CHN_SPEED), chnStatus := w32 (c.reg POS_CHN_STATUS),
    chans := c.chanEntries }

/-- A flight of a snapshot. -/
def Chip.putFlightSnap (c : Chip) (y : FlightSnap) : Chip :=
  let c := (c.setReg (LCK_FSTAT y.f) y.stat.toNat).setReg (LCK_FSTAT2 y.f) y.stat2.toNat
  let c := c.each (List.range (c.fNu y.f)) (fun c k =>
    c.setAxis (c.fAxis y.f k) ⟨y.r.getD k 0, y.s.getD k 0, y.tgt.getD k 0⟩)
  let q := y.queue.map (fun w => Seg.make (w.take 8) (w.drop 8))
  c.setFlight y.f { Flight.init with
    xh := y.x, u := y.u, r := y.r, queue := q, startAt := y.startAt, resumeAt := y.resumeAt, wantRamp := y.ramp, wantHold := y.hold }

/-- A whole snapshot has arrived: the device holds its state and follows the commits from the next pound on. -/
def Chip.putSnapshot (c : Chip) (y : Snapshot) : Chip :=
  let n := y.pound.toNat
  let c := c.enterState y.state y.cause
  let c := c.each y.flights Chip.putFlightSnap
  let armed := y.man.foldl (fun l e => manInsert ⟨e.1 % 2 ^ 12, e.1 / 2 ^ 12, manWords e.2.2, e.2.1, none⟩ l) []
  let waiting : List ManEntry := y.waiting.map (fun e => ⟨e.1 % 2 ^ 12, e.1 / 2 ^ 12, manWords e.2, 0, none⟩)
  let gens := (armed ++ waiting).foldl (fun t e => tabPut (fun _ => 0) e.idx (e.gen + 1) t) c.man.gens
  let c := c.setMan (fun m => { m with armed := armed, waiting := waiting, seq := y.manSeq, level := y.levels % 256, gens := gens })
  let c := (c.setChain { c.pf.chain with ofs := y.ofs, h := y.h, acc := y.acc, accT := c.now, hist := [] }).chainMoved
    (y.acc / 2 ^ 32)
  let c := (c.setReg POS_CHN_SPEED y.inc.toNat).setReg POS_CHN_STATUS y.chnStatus.toNat
  let c := (c.setAqu (fun a => { a with chans := [] })).takeChannels n y.chans
  let c := (c.setReg AQU_COMMIT n).setFld AQU_ROLE__RS_STEP 4
  let inbox := c.aqu.inbox.filter (fun e => decide (0 < modDiff 32 e.1 n))
  let c := c.setAqu (fun a => { a with followed := true, clean := 0, ce := 0, ue := 0, buf := 0, inbox := inbox })
  c.weirRefresh.applyInbox 1024

end Sys2Proof.Machine
end

