-- ==== Sys2Proof/Machine/Twin.lean ====
section
/-! DEFINITION. Twin roles: HELLO, join, SYNC, HEARTBEAT, the checks of each pound, takeover, split, handover, the return of
a repaired unit and the health report (R434 to R441, R446 to R458). -/

namespace Sys2Proof.Machine

/-! ## Conditions (R455, R458) -/

/-- The conditions of TAKEOVER_OK beside the role (R455). -/
def Chip.followOk (c : Chip) : Bool :=
  decide (1024 ≤ c.aqu.clean) && !c.aqu.bistFail && !c.bsn.arrayFail
    && (match c.aqu.beat with
      | some b => b.configCrc == c.configCrc
      | none => false)

/-- TAKEOVER_OK of a standby (R455). -/
def Chip.takeoverOk (c : Chip) : Bool := c.role == 2 && c.followOk

/-- A resynchronising device may enter STANDBY (R458). -/
def Chip.resyncReady (c : Chip) : Bool :=
  c.role == 3 && c.aqu.followed && c.followOk && c.wstate == 2
    && (match c.aqu.beat with
      | some b => b.setCrc == w32 (c.reg WEI_PSET_CRC)
      | none => false)

/-- A change of role is decided for the next boundary; the first decided stands. -/
def Chip.decide_ (c : Chip) (x : RoleChange) : Chip :=
  if c.aqu.next.isNone then c.setAqu (fun a => { a with next := some x }) else c

/-- The device takes part in twin operation beyond HELLO: not in DRY, or in a role beside SOLO (R435). -/
def Chip.aquTalks (c : Chip) : Bool := c.opState != 0 || c.role != 0

/-! ## HELLO and the join (R435, R439, R457) -/

/-- HELLO_SEND: every 1 ms while not following (R439, R457). -/
def Chip.helloSend (c : Chip) : Chip :=
  if c.role = 2 ∨ c.aqu.followed = true ∨ c.now < c.aqu.helloT + 800000 then c
  else
    (c.aquSend 8 c.poundNum 0 false [w32 (c.role + c.opState * 2 ^ 4 + c.rank * 2 ^ 8), c.configCrc]).setAqu
      (fun a => { a with helloT := c.now })

/-- HELLO_SEND (R457). -/
def execHelloSend (t : Nat) (s : State) : Host.Outcome State Fault Refusal := s.event t Chip.helloSend

/-- The SET_STATE MOORED that waits for a join. -/
def Chip.joinCmd (c : Chip) : Option LongCmd := c.hst.longs.find? (fun l => l.op == 0x0102)

/-- The command that waits for a join gets its final reply. -/
def Chip.joinReply (c : Chip) (status : Nat) : Chip := match c.joinCmd with
  | some l => c.finish l status 0 []
  | none => c

/-- Equal RANK values: both devices stay in DRY (R435). -/
def Chip.rankConflict (c : Chip) : Chip :=
  let c := c.raise AQU_ROLE__RANK_CONFLICT
  if c.aqu.joinT.isSome then (c.setAqu (fun a => { a with joinT := none })).joinReply stINVALID_ARG else c

/-- Steps 1 and 2 of a resynchronisation on what was heard of the twin (R457). -/
def Chip.resyncHear (c : Chip) (acting : Bool) (crc : Word) : Chip :=
  if c.role ≠ 3 ∨ c.aqu.restartT.isSome then c
  else if (match c.aqu.hello with
      | some h => h.rank == c.rank
      | none => false) then (c.raise AQU_ROLE__RANK_CONFLICT).resyncFail
  else
    let c := if c.fld AQU_ROLE__RS_STEP = 1 ∧ acting = true then c.setFld AQU_ROLE__RS_STEP 2 else c
    if c.fld AQU_ROLE__RS_STEP = 2 ∧ crc = c.configCrc then c.setFld AQU_ROLE__RS_STEP 3 else c

/-- A configuration memory as BULK data, from its first word. -/
def Chip.wholeMem (c : Chip) (k : Nat) : BulkData :=
  let size := ((winTable.find? (fun w => w.1 == k)).map (·.2.2)).getD 0
  .memory k 0 (memWords 0 (c.winMem k) 0 (size / 4))

/-- An acting device serves a twin in RESYNC: the shared configuration while their CONFIG_CRC differ, then a snapshot at
the next boundary (R457). -/
def Chip.serveResync (c : Chip) (crc : Word) : Chip :=
  if crc = c.configCrc then c.setAqu (fun a => { a with snapWant := true })
  else (c.bulkQueue ([0, 2, 3, 1].map c.wholeMem)).bulkPump

/-- HELLO_RECEIVED (R435, R457). -/
def Chip.helloReceived (c : Chip) (h : Hello) : Chip :=
  let c := (c.setAqu (fun a => { a with hello := some h })).setFld AQU_ROLE__TWIN_ROLE h.role
  let c :=
    if c.opState = 0 ∧ h.rank = c.rank then c.rankConflict
    else c.joinHears (if h.state = 0 ∧ h.role = 0 ∧ c.rank < h.rank then 1 else 2)
  let c := c.resyncHear (decide (h.role ≤ 1 ∧ h.state ≠ 0)) h.crc
  if c.drives && c.opState != 0 && h.role == 3 then
    if h.rank = c.rank then c.raise AQU_ROLE__RANK_CONFLICT else c.serveResync h.crc
  else c

/-- HELLO_RECEIVED (R435). -/
def execHelloReceived (t : Nat) (h : Hello) (s : State) : Host.Outcome State Fault Refusal :=
  s.event t (fun c => c.onFrame h.h (fun c => c.helloReceived h))

/-- JOIN_END: JOIN_TMO has passed; SOLO and MOORED at the next boundary, or RESYNC there, with the command's final reply
after it (R31, R34, R435). -/
def Chip.joinEnd (c : Chip) : Chip :=
  match c.aqu.joinT with
  | none => c
  | some t =>
    if c.now < t then c
    else
      let heard := c.aqu.joinHeard
      let c := c.setAqu (fun a => { a with joinT := none })
      if heard ≤ 1 then
        ({ c with pnd := { c.pnd with request := some ⟨1, (c.poundNum + 1) % 2 ^ 32, none⟩ } }).decide_ ⟨0, none, false, false⟩
      else c.decide_ ⟨3, none, false, false⟩

/-- JOIN_END (R435). -/
def execJoinEnd (t : Nat) (s : State) : Host.Outcome State Fault Refusal := s.event t Chip.joinEnd

/-! ## The link (R438) -/

/-- AQUEDUCT_LINK_UP: until now the link was DOWN in this pound (R438, R441). -/
def execAqueductLinkUp (t : Nat) (s : State) : Host.Outcome State Fault Refusal :=
  s.event t (fun c =>
    let c := if c.flag AQU_ROLE__LINK_UP then c else c.setAqu (fun a => { a with downP := some c.poundNum })
    ((c.setFld AQU_ROLE__LINK_UP 1).setFld AQU_LINK__LOCK 15).setFld AQU_LINK__ALIGNED 1)

/-- AQUEDUCT_LINK_DOWN: `lanes` still hold block lock; a lost link fails a resynchronisation (R438, R457). -/
def execAqueductLinkDown (t : Nat) (lanes : Fin 16) (s : State) : Host.Outcome State Fault Refusal :=
  s.event t (fun c =>
    if c.flag AQU_ROLE__LINK_UP then
      let c := ((c.setFld AQU_ROLE__LINK_UP 0).setFld AQU_LINK__LOCK lanes.val).setFld AQU_LINK__ALIGNED 0
      let c := (c.raise AQU_INT_STATUS__LINK_DOWN).count AQU_CNT2__LINK_DOWN_CNT 1
      (c.setAqu (fun a => { a with downP := some c.poundNum, seqRx := none, bulkTx := [] })).resyncFail
    else c)

/-! ## SYNC and HEARTBEAT (R440, R441) -/

/-- SYNC at the device's own boundary (R440). -/
def Chip.syncSend (c : Chip) : Chip :=
  if c.aquTalks then c.aquSend 1 c.poundNum 0 false [w32i c.aqu.aRx] else c

/-- SYNC_RECEIVED: A_RX, and on a follower its boundary lag behind the primary (R440). -/
def Chip.syncReceived (c : Chip) (y : AquSync) : Chip :=
  let c := (c.setAqu (fun a => { a with aRx := y.aOwn })).joinHears 2
  if c.drives then c
  else
    let e := y.aOwn - y.aPeer
    (c.setAqu (fun a => { a with syncE := e })).setFldI AQU_LINK__SYNC_OFS (clampI (-32768) 32767 (rdivEven (e * 625) 8))

/-- SYNC_RECEIVED (R440). -/
def execSyncReceived (t : Nat) (y : AquSync) (s : State) : Host.Outcome State Fault Refusal :=
  s.event t (fun c => c.onFrame y.h (fun c => c.syncReceived y))

/-- HEARTBEAT after the command frames of a pound; a device that may enter STANDBY says so (R441, R458). -/
def Chip.heartbeatSend (c : Chip) : Chip :=
  if c.aquTalks && !c.handSilent then
    let w0 := c.fld SYS_POUND_STATUS__LOCK_STATE * 2 ^ 14 + b2n (c.resyncReady || c.takeoverOk) * 2 ^ 13 + c.opState * 2 ^ 4 + c.role
    c.aquSend 2 c.poundNum 0 false [w32 w0, w32 (c.reg AQU_COMMIT), c.configCrc, w32 (c.reg WEI_PSET_CRC)]
  else c

/-- HEARTBEAT_RECEIVED (R440, R441, R446, R458). -/
def Chip.heartbeatReceived (c : Chip) (h : Heartbeat) : Chip :=
  let w := h.w0.toNat
  let role := bits w 2 0
  let c := c.setAqu (fun a => { a with beat := some h, beatP := some h.pound.toNat, missed := 0, failed := false, handed := false })
  let c := (c.setFld AQU_ROLE__TWIN_ROLE role).joinHears 2
  match c.role with
  | 1 => if role = 2 then c else c.decide_ ⟨0, some 2, false, false⟩
  | 0 =>
    let ready := decide (role = 2) || (decide (role = 3) && w.testBit 13)
    if ready && c.aqu.snapAt.isSome then c.decide_ ⟨1, some 4, false, false⟩ else c
  | _ =>
    let c := if role ≤ 1 then (c.setReg SYS_POUND_NUM h.pound.toNat).setFld SYS_POUND_STATUS__LOCK_STATE (bits w 15 14) else c
    c.resyncHear (decide (role ≤ 1 ∧ bits w 6 4 ≠ 0)) h.configCrc

/-- HEARTBEAT_RECEIVED (R441). -/
def execHeartbeatReceived (t : Nat) (h : Heartbeat) (s : State) : Host.Outcome State Fault Refusal :=
  s.event t (fun c => c.onFrame h.h (fun c => c.heartbeatReceived h))

/-! ## The checks of a pound (R441, R446 to R449) -/

/-- REF_CHECK in tick 3,200: REF_GONE (R447). -/
def Chip.refCheck (c : Chip) : Chip :=
  if c.phase = 3200 ∧ c.role = 2 then
    let ports := (List.range 64).filter (fun p => c.flag (TOW_PORT_CFG__RING p) && c.rxUp p)
    let missed (p : Nat) : Bool := match (c.port p).refAt with
      | some r => decide (r.1 < c.pnd.start) || r.2 != c.aqu.epoch
      | none => true
    c.setAqu (fun a => { a with refGone := !ports.isEmpty && ports.all missed })
  else c

/-- REF_CHECK (R447). -/
def execRefCheck (t : Nat) (s : State) : Host.Outcome State Fault Refusal := s.event t Chip.refCheck

/-- What a standby decides at HB_CHK (R448, R449). -/
def Chip.standbyDecides (c : Chip) : Chip :=
  let lost := decide (2 ≤ c.aqu.missed)
  if c.aqu.refGone then
    if lost || c.aqu.failed then
      if c.takeoverOk then c.decide_ ⟨if c.aqu.handed then 1 else 0, some 0, true, c.aqu.handed⟩
      else c.decide_ ⟨3, some 11, false, false⟩
    else if c.aqu.missed = 0 then c.raise AQU_INT_STATUS__REF_LOSS
    else c
  else if lost then c.decide_ ⟨3, some 3, false, false⟩
  else c

/-- HB_CHK in tick P/2 + 1,600: a HEARTBEAT of the pound that has not arrived is missing; the primary drops a standby that
missed two, a standby decides on takeover or split (R441, R446, R448, R449). -/
def Chip.hbChk (c : Chip) : Chip :=
  if c.phase = c.P / 2 + 1600 ∧ (c.role = 1 ∨ c.role = 2) then
    let here := c.aqu.beatP == some c.poundNum && c.aqu.downP != some c.poundNum && c.aquOn
    let c := if here then c
      else (c.count AQU_CNT0__HB_MISS_CNT 1).setAqu (fun a => { a with missed := a.missed + 1 })
    if c.role = 2 then c.standbyDecides
    else if 2 ≤ c.aqu.missed then c.decide_ ⟨0, some 2, false, false⟩
    else c
  else c

/-- HB_CHK (R441). -/
def execHbChk (t : Nat) (s : State) : Host.Outcome State Fault Refusal := s.event t Chip.hbChk

/-- FAIL_RECEIVED (R448). -/
def execFailReceived (t : Nat) (h : AquHead) (code : Nat) (s : State) : Host.Outcome State Fault Refusal :=
  s.event t (fun c => c.onFrame h (fun c =>
    ((c.raise AQU_INT_STATUS__FAIL_RX).joinHears 2).setAqu (fun a => { a with failed := true, handed := decide (code = 1) })))

/-- An acting device sends FAIL with a code and its last commit (R439). -/
def Chip.failSend (c : Chip) (code : Nat) : Chip :=
  if c.drives && c.aquTalks then c.aquSend 6 c.poundNum 0 false [w32 code, w32 (c.reg AQU_COMMIT)] else c

/-! ## Takeover (R450) -/

/-- The position channels of the new acting device: its own positions moved onto the primary's, barge-fed and serial ones
continued from the ledger (R450 step 2). -/
def Chip.takeoverChans (c : Chip) : Chip :=
  let c := c.each c.aqu.dc (fun c e =>
    if c.chType e.1 = 1 then c.setChan e.1 ((c.chan e.1).move e.2 (c.chMod e.1)) else c)
  c.each c.aqu.chans (fun c e =>
    if c.chType e.ch = 2 ∨ c.chType e.ch = 3 then
      let c := c.chanStart e.ch (signed 48 e.pos)
      let c := c.setChan e.ch { c.chan e.ch with last := e.raw, availP := none }
      let c := ((c.setReg (POS_CH_POS_LO e.ch) e.pos).setReg (POS_CH_POS_HI e.ch) (e.pos / 2 ^ 32)).setReg (POS_CH_SPD e.ch) e.spd.toNat
      c.setFld (POS_CH_STAT__AGE e.ch) e.age
    else c)

/-- The measurements of pound `p` after the last commit: the device's own local samples, everything else as it was (R450
step 3). -/
def Chip.catchSources (c : Chip) (p cn : Nat) : Chip :=
  let own := ((c.aqu.samples.find? (fun e => e.1 == p)).map (·.2)).getD []
  let c := c.each own (fun c o =>
    if c.chType o.1 = 1 then
      let pos := unsigned 48 ((o.2 : Int) + tabGet (fun _ => (0 : Int)) c.aqu.dc o.1)
      let c := ((c.setReg (POS_CH_POS_LO o.1) pos).setReg (POS_CH_POS_HI o.1) (pos / 2 ^ 32)).setFld (POS_CH_STAT__AGE o.1) 0
      c.setChan o.1 { c.chan o.1 with availP := some p }
    else c)
  c.virtualSamples cn (c.reg POS_CHN_SPEED) (c.flag POS_CHN_STATUS__ACTIVE)

/-- One catch-up update: run as always and overrun (R57, R450). -/
def Chip.catchUpdate (c : Chip) (f cn : Nat) : Chip :=
  let cyc := updateCycles (c.fNx f) (c.fNu f) (c.fNy f) (c.fPair f)
  let free := (c.enFlights.filter (c.shareUnit f)).foldl (fun m g => max m (c.flight g).freeT) c.pnd.start
  let c := if c.fMode f = 2 then c.segEval f c.poundNum cn else c
  let c := c.updateStart f (c.dueUpdate f c.now)
  let c := c.setFlight f { c.flight f with upd := (c.flight f).upd.map (fun u => { u with late := true, done := c.now }) }
  let c := (c.raise SYS_POUND_STATUS__OVERRUN).count (LCK_FCNT__OVR_CNT f) 1
  let c := (c.raiseFaults f [(LCK_FSTAT__OVERRUN f, c.rOvr f)]).updateComplete f .none
  c.setFlight f { c.flight f with freeT := free + cyc }

/-- Such a pound has ended: everything barge-fed and serial is one pound older (R190, R248, R450 step 3, R454). -/
def Chip.catchAges (c : Chip) : Chip :=
  let c := c.each ((List.range 256).filter (fun ch => c.chType ch == 2 || c.chType ch == 3)) (fun c ch =>
    c.setFld (POS_CH_STAT__AGE ch) (min (c.fld (POS_CH_STAT__AGE ch) + 1) 255))
  c.each (c.tow.aux.map (·.1)) (fun c i =>
    c.setAuxW i { c.auxW i with age := min ((c.auxW i).age + 1) 255, availP := none })

/-- CATCH_UP: the pounds after the last complete commit (R450 step 3). -/
def Chip.catchUp (c : Chip) (nc n : Nat) : Chip :=
  let real := c.poundNum
  let c := c.each (List.range n) (fun c i =>
    let p := (nc + 1 + i) % 2 ^ 32
    let cn := ((c.pnd.cns.find? (fun e => e.1 == p)).map (·.2)).getD c.pnd.cn
    let c := (c.setReg SYS_POUND_NUM p).catchSources p cn
    (c.each (c.enFlights.filter (fun f => c.fDue f p && c.fActive f)) (fun c f => c.catchUpdate f cn)).catchAges)
  (c.setReg SYS_POUND_NUM real).setAqu (fun a => { a with recs := [] })

/-- The ports of the new acting device: its ring strings run on with their barges; a string not closed into a ring is not
taken over (R450, R453). -/
def Chip.takeoverPorts (c : Chip) : Chip :=
  c.each ((List.range 64).filter (fun p => c.flag (TOW_PORT_CFG__EN p) && c.flag (TOW_PORT_CFG__RING p))) (fun c p =>
    (c.each (c.present p) (fun c b =>
      let i := 8 * p + b
      (c.setFld (TOW_BSTAT__ADMST i) 1).setBarge i { c.barge i with force := true, synced := true })).setFld
        (TOW_PORT_STAT__PSTATE p) 8)

/-- Pulse dividers and MEVO outputs are driven, the latter at their tracked levels; entries whose keys the chainage has
passed fire as LATE (R450 step 5). -/
def Chip.takeoverOutputs (c : Chip) : Chip :=
  let c := c.each (List.range 8) Chip.pdShow
  let c := c.each (List.range 8) (fun c i => c.emit (.pin pinMEVO i (c.man.level.testBit i)))
  let run := c.tb5
  c.setMan (fun m => { m with armed := m.armed.map (fun e => if e.key ≤ run then { e with due := some 0 } else e) })

/-- TAKEOVER at the boundary of pound t (R440, R450, R454). -/
def Chip.takeover (c : Chip) : Chip :=
  let t := c.poundNum
  let nc := c.reg AQU_COMMIT
  let n := modDiff 32 t nc
  let c := (c.setReg TOW_EPOCH ((c.aqu.epoch.toNat + 1) % 2 ^ 32)).setFld SYS_STATE__LAST_CAUSE 5
  let c := ((c.setReg AQU_TK_POUND t).setReg AQU_TK_COMMIT nc).count AQU_CNT2__TAKEOVER_CNT 1
  let lock := c.fld SYS_POUND_STATUS__LOCK_STATE
  let c := c.setFld SYS_POUND_STATUS__LOCK_STATE (if lock = 2 ∧ c.flag TIM_SEL_STAT__TB3_VALID then 2 else 1)
  let c := c.lockUpdate.takeoverChans
  let c := if n ≤ 8 then c.catchUp nc (n - 1).toNat
    else
      let c := c.enterState 1 5
      ({ c with pnd := { c.pnd with request := none } }).setAqu (fun a => { a with tkLag := true })
  let c := c.setAqu (fun a => { a with inbox := [], rx := [], seen := none, bulk := [], failed := false, missed := 0 })
  let c := { c.takeoverPorts.takeoverOutputs with plan := { c.plan with coldNext := true } }
  c.connTakeover.sysEvent 9 0 (w32 t) (w32 nc)

/-! ## Roles at a boundary (R435) -/

/-- The device stops acting: its outputs go to high impedance, its commits and the
changes that waited for a standby are given up. -/
def Chip.stopActing (c : Chip) : Chip :=
  let c := c.setAqu (fun a => { a with commits := [], snapAt := none, snapWant := false, changes := [] })
  let c := c.each c.enFlights (fun c f => c.setFlight f { c.flight f with owed := [] })
  c.twinLongsEnd none

/-- The device enters RESYNC at step 1 (R457). -/
def Chip.enterResync (c : Chip) : Chip :=
  let c := c.setAqu (fun a => { a with
    followed := false, inbox := [], rx := [], seen := none, buf := 0, bulk := [], clean := 0, restartT := none })
  c.setFld AQU_ROLE__RS_STEP 1

/-- A handover that has not completed ends with the role: its command is answered WRONG_STATE (R451). -/
def Chip.handoverLost (c : Chip) : Chip :=
  let k := c.aqu.handCmd
  let c := c.setAqu (fun a => { a with handover := none, handCmd := none })
  match k with
  | some k => c.reply k stWRONG_STATE 0 []
  | none => c

/-- The change of role decided, or a yield to a foreign master, takes effect at a boundary (R435, R446, R451, R458). -/
def Chip.roleChange (c : Chip) : Chip :=
  let c := if c.drives && c.flag AQU_CFG__TWIN_EN && c.flag TOW_STATUS__YIELDED then
      c.setAqu (fun a => { a with next := some ⟨3, none, false, false⟩ })
    else match c.aqu.handover with
      | some h => if c.role = 1 ∧ c.poundNum = (h + 2) % 2 ^ 32 then c.setAqu (fun a => { a with next := some ⟨2, some 1, false, true⟩ }) else c
      | none => c
  let c := if c.resyncReady then c.decide_ ⟨2, some 4, false, false⟩ else c
  match c.aqu.next with
  | none => c
  | some x =>
    let old := c.role
    let c := c.setAqu (fun a => { a with next := none, missed := 0, failed := false })
    let mask := 2 ^ (x.bit.getD (Config.roleBit old x.role).val) ||| (if x.handover then 2 else 0)
    let c := c.each ((List.range 32).filter mask.testBit) (fun c b => c.raiseBit AQU_INT_STATUS b)
    let c := (c.setFld AQU_ROLE__ROLE x.role).onlyIf (x.role != old) (fun c => c.setFld TOW_STATUS__YIELDED 0)
    let c := c.onlyIf (old == 1 && x.role != 2) Chip.handoverLost
    let c := if x.takeover then c.takeover
      else if x.role = 2 then
        let c := (c.connSuspend.setFld AQU_ROLE__RS_STEP 0).setAqu (fun a => { a with restartT := none })
        if old = 1 then
          let c := c.stopActing.setReg AQU_COMMIT ((c.poundNum + 2 ^ 32 - 1) % 2 ^ 32)
          let k := c.aqu.handCmd
          let c := c.setAqu (fun a => { a with handover := none, handCmd := none, clean := 0, inbox := [], seen := none })
          match k with
          | some k => c.reply k stOK 0 []
          | none => c
        else c.count AQU_CNT2__RESYNC_CNT 1
      else if x.role = 3 then ((if old ≤ 1 then c.stopActing else c).enterResync).joinReply stNO_AUTHORITY
      else if x.role = 0 then
        (c.setAqu (fun a => { a with commits := [], snapAt := none, snapWant := false })).twinLongsEnd none
      else c
    let c := c.logEvent 13 (w32 x.role) (w32 old) (w32 mask)
    let c := if x.takeover || x.bit == some 2 || x.bit == some 3 then c.logTrigger 6 else c
    c.weirRefresh

/-! ## Resynchronisation and health (R455 to R457) -/

/-- A frame of the shared configuration in step 2: it takes effect at once; after the last one the CONFIG_CRC must agree with
the twin's (R457). -/
def Chip.resyncConfig (c : Chip) (d : BulkData) (last : Bool) : Chip :=
  let c := c.takeBulk d
  match c.aqu.hello with
  | none => c
  | some h =>
    let c := c.resyncHear false h.crc
    if last && decide (c.fld AQU_ROLE__RS_STEP = 2) then c.resyncFail else c

/-- BULK_RECEIVED: configuration in step 2 takes effect at once, a snapshot in step 3 when it is whole; a follower keeps
twin-wide changes for their CONFIG record (R436, R457). DESIGN CHOICE: frames lost before a BULK frame of steps 2 and 3 are
taken to be of its transfer, a failed check of R457 (log entry 142). -/
def Chip.bulkReceived (c : Chip) (gap : Bool) (b : BulkFrame) : Chip :=
  let c := c.joinHears 2
  if c.role = 2 ∨ (c.role = 3 ∧ c.aqu.followed = true) then
    (c.setAqu (fun a => { a with bulk := a.bulk ++ [(b.data, b.last)] })).applyInbox 32
  else if c.role = 3 ∧ c.aqu.restartT.isNone ∧ 2 ≤ c.fld AQU_ROLE__RS_STEP then
    if gap then c.resyncFail
    else match b.data with
      | .snapshot y => if c.fld AQU_ROLE__RS_STEP = 3 ∧ b.last = true then c.putSnapshot y else c
      | d => if c.fld AQU_ROLE__RS_STEP = 2 then c.resyncConfig d b.last else c
  else c

/-- BULK_RECEIVED (R457). -/
def execBulkReceived (t : Nat) (b : BulkFrame) (s : State) : Host.Outcome State Fault Refusal :=
  s.event t (fun c =>
    let gap := c.seqGap b.h
    c.onFrame b.h (fun c => c.bulkReceived gap b))

/-! ## Self-test (R455) -/

/-- The tests of a sweep: lanes 0 to 63, and 64 the array. A lane or an array that has failed takes no job (R154). -/
def Chip.testable (c : Chip) (k : Nat) : Bool :=
  if k < 32 then !(c.reg BSN_LANE_FAIL_LO).testBit k
  else if k < 64 then !(c.reg BSN_LANE_FAIL_HI).testBit (k - 32)
  else !c.bsn.arrayFail

/-- The result slot of the self-test. -/
def selfTestSlot : Nat := 64 + Config.testSlot.val

/-- The descriptor of a test (R131, R154). Slot, priority and deadline are free values. -/
def selfTestWords (k : Nat) : List Word :=
  let prio := (Config.fwPrio 7).val
  [w32 (7 * 2 ^ 28 + 2 ^ 26 + prio * 2 ^ 16 + selfTestSlot), w32 (2 ^ 16 + 1), w32 ((if k < 64 then k else 0xFFFF) * 2 ^ 16),
    0, 0, 0, 0, 0x3F800000, 0, 0, Config.testDeadline, 0, 0, 0, 0, 0]

/-- The test that runs has ended with a result; after the last of a sweep the sweep counts. -/
def Chip.testEnded (c : Chip) : Chip :=
  match c.aqu.testing with
  | none => c
  | some k =>
    let st := (c.rslot selfTestSlot).rstat
    if (List.range 65).any (fun i => decide (k < i) && c.testable i) = false ∧ (st = rsOK ∨ st = rsTESTFAIL) then
      c.setAqu (fun a => { a with testing := none, sweeps := (a.sweeps + 1) % 2 ^ 16 })
    else c

/-- The next test: the one after the last that ended with a result, the first of a sweep, or again one that ended without. -/
def Chip.testNext (c : Chip) : Option Nat :=
  let st := (c.rslot selfTestSlot).rstat
  let lo := match c.aqu.testing with
    | some k => if st = rsOK ∨ st = rsTESTFAIL then k + 1 else k
    | none => 0
  (List.range 65).find? (fun i => decide (lo ≤ i) && c.testable i)

/-- A standby's self-test at a boundary: the memory BIST's work, and the next Basin test once the last has ended (R414, R455). -/
def Chip.selfTest (c : Chip) : Chip :=
  if c.role = 2 then
    let c := c.fwWork 7
    if (c.job selfTestSlot).isSome then c
    else
      let c := c.testEnded
      match c.testNext with
      | none => c
      | some k =>
        let r := c.bsnSubmit (selfTestWords k) none
        if r.2 = stOK then r.1.setAqu (fun a => { a with testing := some k }) else c
  else c

/-- RESYNC_RESTART: 1 s after a failure the sequence starts at step 1 (R457). -/
def Chip.resyncRestart (c : Chip) : Chip :=
  match c.aqu.restartT with
  | some t => if c.role = 3 ∧ t ≤ c.now then c.enterResync else c
  | none => c

/-- RESYNC_RESTART (R457). -/
def execResyncRestart (t : Nat) (s : State) : Host.Outcome State Fault Refusal := s.event t Chip.resyncRestart

/-- BIST_PASS_COMPLETE: a full memory BIST pass of a standby ends (R455). -/
def execBistPassComplete (t : Nat) (failed : Bool) (s : State) : Host.Outcome State Fault Refusal :=
  s.event t (fun c =>
    if c.role = 2 ∨ c.aqu.followed = true then
      c.setAqu (fun a => { a with bistPasses := (a.bistPasses + 1) % 2 ^ 16, bistFail := a.bistFail || failed })
    else c)

/-- HEALTH at a power-period boundary, work of class FW_TASK (R414, R456). -/
def Chip.healthSend (c : Chip) : Chip :=
  if c.role = 2 then
    let c := c.fwWork 9
    let w0 := b2n c.takeoverOk * 2 ^ 31 + b2n (c.wstate == 2) * 2 ^ 30 + b2n c.aqu.bistFail * 2 ^ 29
      + b2n c.bsn.arrayFail * 2 ^ 28 + min c.aqu.clean 65535
    c.aquSend 7 c.poundNum 0 false [w32 w0, w32 (c.reg AQU_COMMIT), w32 (c.reg AQU_MISMATCH_POUND),
      w32 (c.aqu.bistPasses * 2 ^ 16 + c.aqu.sweeps), w32 (min c.aqu.ce 65535 * 2 ^ 16 + min c.aqu.ue 65535),
      w32 (c.fld LKP_TJ__TMAX * 2 ^ 16 + c.fld AQU_CNT1__MISMATCH_CNT)]
  else c

/-- HEALTH_RECEIVED: the primary mirrors the words (R456). -/
def execHealthReceived (t : Nat) (h : AquHead) (w : List Word) (s : State) : Host.Outcome State Fault Refusal :=
  s.event t (fun c => c.onFrame h (fun c =>
    let c := c.joinHears 2
    if c.drives then
      (c.each (List.range 6) (fun c k => c.setReg (AQU_HEALTH k) (wordAt w k))).raise AQU_INT_STATUS__HEALTH_NEW
    else c))

/-! ## Commands (R451, R496) -/

/-- The TAKEOVER_OK that AQU_ROLE shows: the device's own in STANDBY, the twin's last HEALTH in PRIMARY (R459). -/
def Chip.showTakeoverOk (c : Chip) : Bool :=
  if c.role = 1 then (c.reg (AQU_HEALTH 0)).testBit 31 else c.takeoverOk

/-- AQU_ROLE as it reads. -/
def Chip.aquRole (c : Chip) : Nat :=
  let present := match c.aqu.heardT with
    | some t => decide (c.now ≤ t + 1600000)
    | none => false
  putBits (putBits (c.reg AQU_ROLE) 22 22 (b2n present)) 20 20 (b2n c.showTakeoverOk)

/-- TWIN_STATUS's rules (R496). -/
def Chip.twinStatus (c : Chip) (_ : Intake) : Chip × Answer :=
  (c, .now stOK 0 ([w32 c.aquRole] ++ ([AQU_COMMIT, AQU_ACKED, AQU_LEDGER_LAG, AQU_TK_POUND, AQU_TK_COMMIT]
    ++ (List.range 6).map AQU_HEALTH).map (fun r => w32 (c.reg r))))

/-- TWIN_STATUS (R496). -/
def execTwinStatus (t : Nat) (ifc : Iface) (tag target : Word) (pl : List Word) (s : State) :
    Host.Outcome State Fault Refusal :=
  s.command t 0x0C01 ifc tag target pl Chip.twinStatus

/-- TWIN_HANDOVER's rules (R451). -/
def Chip.twinHandover (c : Chip) (k : Intake) : Chip × Answer :=
  if c.role ≠ 1 ∨ (c.reg (AQU_HEALTH 0)).testBit 31 = false ∨ c.fld AQU_LEDGER_LAG__LAG ≠ 0 then (c, ansState)
  else if c.aqu.handCmd.isSome then (c, ansBusy)
  else (c.setAqu (fun a => { a with handCmd := some k }), .defer)

/-- TWIN_HANDOVER (R451). -/
def execTwinHandover (t : Nat) (ifc : Iface) (tag target : Word) (pl : List Word) (s : State) :
    Host.Outcome State Fault Refusal :=
  s.command t 0x0C02 ifc tag target pl Chip.twinHandover

/-- At the command release an accepted handover sends FAIL HANDOVER (R451). -/
def Chip.handoverFail (c : Chip) : Chip :=
  if c.role = 1 ∧ c.aqu.handCmd.isSome ∧ c.aqu.handover.isNone then
    (c.failSend 1).setAqu (fun a => { a with handover := some c.poundNum })
  else c

/-- A write of AQU_CFG: accepted in DRY only; `none` for any other register (R459). -/
def Chip.aquWrite (c : Chip) (off v : Nat) : Option Chip :=
  if off = AQU_CFG then some (if c.opState = 0 then c.writeBits off v else c.raise AQU_ROLE__CFG_REJ) else none

end Sys2Proof.Machine
end

