-- ==== Sys2Proof/Machine/Boot.lean ====
section
/-! DEFINITION. Secure boot, the causes of cold and warm resets, brown-out and thermal hold, SRAM scrubbing and boundary
scan (R502 to R512, R530, R538, R540 to R542). -/

namespace Sys2Proof.Machine

/-! ## Firmware images (R505, R506) -/

/-- A firmware image in a memory whose unlisted bytes read `d`, beginning at `base`. -/
structure FwImage where
  d : Byte
  m : List (Nat × Byte)
  base : Nat

/-- Header word at a byte offset. -/
def FwImage.w (x : FwImage) (o : Nat) : Nat := (memWord x.d x.m (x.base + o)).toNat

/-- SVN of the header. -/
def FwImage.svn (x : FwImage) : Nat := bits (x.w 4) 23 16

/-- VERSION of the header. -/
def FwImage.version (x : FwImage) : Nat := x.w 8

/-- A big-endian number of the header: digests, keys and signatures (PRESUMED, as the named standards write them). -/
def FwImage.num (x : FwImage) (o n : Nat) : Nat := beNat (memBytes x.d x.m (x.base + o) n)

/-- MAGIC and FMT are correct. -/
def FwImage.marked (x : FwImage) : Bool := decide (x.w 0 = 0x514D4657 ∧ bits (x.w 4) 31 24 = 1)

/-- The key has the hash of OTP and the signature verifies under it. -/
def FwImage.signed (x : FwImage) (o : Otp) : Bool :=
  decide (sha256 (memBytes x.d x.m (x.base + 0x30) 64) = o.fwKeyHash.toNat)
    && ecdsaVerify (x.num 0x30 32) (x.num 0x50 32) (sha256 (memBytes x.d x.m x.base 0x30)) (x.num 0x70 32) (x.num 0x90 32)

/-- LEN lies in its range and the digest is that of the code. -/
def FwImage.whole (x : FwImage) : Bool :=
  let n := x.w 0x0C
  decide (1 ≤ n ∧ n ≤ 0x400000 - 256) && decide (sha256 (memBytes x.d x.m (x.base + 0x100) n) = x.num 0x10 32)

/-- The FAIL code of an image, 0 for a valid one, judged in the order of R506 (R509). -/
def FwImage.fail (x : FwImage) (o : Otp) : Nat :=
  if x.marked = false then 2
  else if o.fwKeyHash = 0 then 5
  else if x.signed o = false then 3
  else if x.svn < o.minSvnNum then 4
  else if x.whole = false then 3
  else 0

/-! ## Starting firmware (R502, R506, R509) -/

/-- The hardware addresses of both MACs take their reset values from OTP. -/
def Chip.macFromOtp (c : Chip) : Chip :=
  let put (m : Nat) (a : Nat) (c : Chip) : Chip := (c.setReg (HST_ETH_MAC_LO m) (a / 2 ^ 16)).setReg (HST_ETH_MAC_HI m) (a % 2 ^ 16)
  put 1 c.boot.otp.mac1.toNat (put 0 c.boot.otp.mac0.toNat c)

/-- LOG_BOOT and LOG_FW_VER of a started image. -/
def Chip.bootRegs (c : Chip) (x : FwImage) (fail slot : Nat) : Chip :=
  let c := c.setReg LOG_BOOT (fail * 2 ^ 28 + slot * 2 ^ 27 + c.boot.cause % 8 * 2 ^ 24 + x.svn * 2 ^ 16
    + c.boot.otp.minSvnNum * 2 ^ 8)
  c.setReg LOG_FW_VER x.version

/-- The Logbook as firmware starts: restored or retained after a cold reset, going on after a warm one, where a freeze of
bit 7 is saved (R511, R520 to R522). -/
def Chip.bootLog (c : Chip) : Chip :=
  let c := if c.boot.warm then
      if c.lstate = 2 ∧ c.fld LOG_STATUS__FRZ_CAUSE = 7 then c.autoSave else c.savePump
    else if c.boot.logKept then c
    else c.logRestore
  c.bootEvent

/-- Firmware starts: the registers of the image, the state DRY, the stored parameter set, the Logbook (R31, R506). -/
def Chip.fwStart (c : Chip) (x : FwImage) (fail slot : Nat) : Chip :=
  let commit := if (x.w 4).testBit 0 then some x.svn else none
  let ram := decide (fail ≠ 0)
  let c := c.setBoot (fun b => { b with phase := .run, commitSvn := commit, moored := false, ramImage := ram })
  let c := if c.boot.warm then c else c.macFromOtp
  ((c.bootRegs x fail slot).psetBoot.weirRefresh).bootLog

/-- A firmware slot in flash. -/
def Chip.fwSlot (c : Chip) (slot : Nat) : FwImage := ⟨0xFF, c.boot.flash, 0x400000 * slot⟩

/-- The slot tried first: higher SVN, then higher VERSION, then A (R506). -/
def Chip.firstSlot (c : Chip) : Nat :=
  let a := c.fwSlot 0
  let b := c.fwSlot 1
  if a.svn < b.svn ∨ (a.svn = b.svn ∧ a.version < b.version) then 1 else 0

/-- BOOT_WAIT with a failure recorded (R509). -/
def Chip.bootWait (c : Chip) (fail : Nat) : Chip :=
  (c.setReg LOG_BOOT (fail * 2 ^ 28 + c.boot.cause % 8 * 2 ^ 24 + c.boot.otp.minSvnNum * 2 ^ 8)).setBoot
    (fun b => { b with phase := .wait })

/-- The boot ROM's verification ends: the first valid slot starts, or BOOT_WAIT (R506, R509). -/
def Chip.bootVerify (c : Chip) (e : BootEnv) : Chip :=
  if c.boot.phase = .rom then
    let c := c.setBoot (fun b => { b with flash := e.flash.foldl (fun f p => flashPut f p.1 p.2) b.flash })
    if e.sramOk = false ∧ c.boot.warm = false then c.bootWait 6
    else if c.boot.otp.fwKeyHash = 0 then c.bootWait 5
    else if e.flashOk = false then c.bootWait 1
    else
      let s := c.firstSlot
      let f1 := (c.fwSlot s).fail c.boot.otp
      let f2 := (c.fwSlot (1 - s)).fail c.boot.otp
      if f1 = 0 then c.fwStart (c.fwSlot s) 0 s
      else if f2 = 0 then c.fwStart (c.fwSlot (1 - s)) 0 (1 - s)
      else c.bootWait (if f2 = 2 then f1 else f2)
  else c

/-- BOOT_VERIFY_COMPLETE (R506). -/
def execBootVerifyComplete (t : Nat) (b : BootEnv) (s : State) : Host.Outcome State Fault Refusal :=
  s.act (fun c => (c.at t).bootVerify b)

/-! ## Cold resets (R502, R510, R511, R538) -/

/-- VIN rises through VIN_UV. With its core-buck inductors fitted and intact the rails come into regulation and the
device starts; a missing or shorted one holds it in cold reset (R502, R527). -/
def Chip.vinRise (c : Chip) (coil : Bool) : Chip :=
  let c := c.setBoot (fun b => { b with holdVin := !coil })
  if coil then c.release else c.hold 0 false

/-- VIN_RISE (R502). -/
def execVinRise (t : VinRise) (s : State) : Host.Outcome State Fault Refusal := s.act (fun c => (c.at t.t).vinRise t.coil)

/-- The level of RESET_N: low holds cold reset, high releases it (R510, R512). -/
def Chip.resetPin (c : Chip) (low : Bool) : Chip :=
  let c := c.setBoot (fun b => { b with holdPin := low })
  if low then c.hold 1 false else c.release

/-- RESET_N (R510). -/
def execResetN (t : Nat) (low : Bool) (s : State) : Host.Outcome State Fault Refusal :=
  s.act (fun c => (c.at t).resetPin low)

/-- What brown-out and the thermal hold do before cold reset: BROWNOUT, FAIL POWER, the Logbook frozen (R511, R538). -/
def Chip.powerFail (c : Chip) : Chip :=
  if c.boot.phase = .hold then c
  else ((c.logEvent 19 0 0 0).failSend 3).brownoutFreeze

/-- BROWNOUT (R511). -/
def execBrownout (t : Nat) (s : State) : Host.Outcome State Fault Refusal :=
  s.act (fun c => ((c.at t).powerFail.setBoot (fun b => { b with holdVin := true })).hold 5 true)

/-- VIN below VIN_RET during a hold: the Logbook is lost (R511). -/
def Chip.vinRetLoss (c : Chip) : Chip :=
  if c.boot.phase = .hold ∧ c.boot.logKept then
    { c.setBoot (fun b => { b with logKept := false }) with log := Logbook.init, regs := [] }
  else c

/-- VIN_RET_LOSS (R511). -/
def execVinRetLoss (t : Nat) (s : State) : Host.Outcome State Fault Refusal := s.act (fun c => (c.at t).vinRetLoss)

/-- THERMAL_HOLD (R538). -/
def execThermalHold (t : Nat) (s : State) : Host.Outcome State Fault Refusal :=
  s.act (fun c => ((c.at t).powerFail.setBoot (fun b => { b with holdThermal := true })).hold 5 true)

/-- THERMAL_HOLD_END (R538). -/
def execThermalHoldEnd (t : Nat) (s : State) : Host.Outcome State Fault Refusal :=
  s.act (fun c => ((c.at t).setBoot (fun b => { b with holdThermal := false })).release)

/-! ## Warm resets (R496, R510, R511) -/

/-- A watchdog or lockstep failure of a management pair: the event, the freeze of bit 7, FAIL, the warm reset (R511). -/
def Chip.pairFail (c : Chip) (event fail cause pair : Nat) : Chip :=
  (((c.logEvent event (w32 pair) 0 0).trigger7).failSend fail).warmReset cause

/-- WATCHDOG_EXPIRY (R511). -/
def execWatchdogExpiry (t : Nat) (pair : Fin 2) (s : State) : Host.Outcome State Fault Refusal :=
  s.event t (fun c => c.pairFail 17 2 3 pair.val)

/-- LOCKSTEP_ERROR (R511). -/
def execLockstepError (t : Nat) (pair : Fin 2) (s : State) : Host.Outcome State Fault Refusal :=
  s.event t (fun c => c.pairFail 18 4 4 pair.val)

/-- RESET's rules: TARGET 1, in DRY, MOORED and LOCKED_OUT (R496). -/
def Chip.resetCmd (c : Chip) (k : Intake) : Chip × Answer :=
  if k.target.toNat ≠ 1 then (c, ansArg 0xFFFF)
  else if c.opState = 2 ∨ c.opState = 3 then (c, ansState)
  else (c, ansOK)

/-- The RESET command: the reply OK is on its way, with its completion entry, before the warm reset (R496, R510). -/
def Chip.resetRun (c : Chip) (k : Intake) (o : OpInfo) : Chip :=
  let go := decide (k.target.toNat = 1 ∧ (c.opState ≤ 1 ∨ c.opState = 4) ∧ c.role ≤ 1)
  let c := c.runCommand o k Chip.resetCmd
  if go then
    let c := c.each c.hst.pendCpl (fun c _ => c.completionPost true)
    let n := c.warmReset 2
    { n with hst := { n.hst with spiReplies := c.hst.spiReplies } }
  else c

/-- RESET (R496). -/
def execReset (t : Nat) (ifc : Iface) (tag target : Word) (pl : List Word) (s : State) :
    Host.Outcome State Fault Refusal :=
  s.act (fun c =>
    let c := c.at t
    if c.boot.phase = .run then
      match opInfo 0x0103 with
      | some o =>
        if c.intakeTurn 0x0103 ifc tag target pl then
          let r := c.takeIntake 0x0103 ifc tag target pl
          (r.1.resetRun r.2 o).intakeFlush ifc c.hst.intake.length
        else c
      | none => c
    else c.command t 0x0103 ifc tag target pl none Chip.resetCmd)

/-! ## SRAM scrubbing (R540) -/

/-- The counter and the interrupt bit of corrected (or uncorrectable) errors of an owner that has them. -/
def scrubCount (owner : Nat) (ue : Bool) : List Fld × List Fld :=
  match owner, ue with
  | 0, true => ([LCK_ECC_CNT__UE_CNT], [LCK_INT_STATUS__ECC_UE])
  | 0, false => ([LCK_ECC_CNT__CE_CNT], [LCK_INT_STATUS__ECC_CE])
  | 1, true => ([BSN_ECC_CNT__UE_CNT], [BSN_INT_STATUS__ECC_UE])
  | 1, false => ([BSN_ECC_CNT__CE_CNT], [BSN_INT_STATUS__ECC_CE])
  | 5, true => ([SLU_ECC_CNT__UE_CNT], [SLU_INT_STATUS__ECC_UE])
  | 5, false => ([SLU_ECC_CNT__CE_CNT], [SLU_INT_STATUS__ECC_CE])
  | 7, true => ([GAU_CNT__UE_CNT], [])
  | _, _ => ([], [])

/-- A scrub finding: counted by the word's owner; an uncorrectable one is an ECC_UE event and trigger; both count for the
health of a standby (R456, R514, R518, R540). -/
def Chip.scrub (c : Chip) (owner : Nat) (ue : Bool) (addr : Nat) : Chip :=
  let r := scrubCount owner ue
  let c := (c.each r.1 (fun c x => c.count x 1)).each r.2 Chip.raise
  let c := if ue then (c.logEvent 16 (w32 owner) (w32 addr) 0).logTrigger 4 else c
  if c.drives then c
  else if ue then c.setAqu (fun a => { a with ue := min (a.ue + 1) 65535 })
  else c.setAqu (fun a => { a with ce := min (a.ce + 1) 65535 })

/-- SRAM_SCRUB (R540). -/
def execSramScrub (t : Nat) (owner : Fin 12) (ue : Bool) (addr : Nat) (s : State) : Host.Outcome State Fault Refusal :=
  s.event t (fun c => c.scrub owner.val ue addr)

/-! ## Boundary scan (R541, R542) -/

/-- IDCODE's register: bits [31:28] are bits [3:0] of HST_ID.REV (R541). -/
def idcode : Nat := Config.siliconRev.toNat % 16 * 2 ^ 28 + 0x062569CB % 2 ^ 28

/-- The instructions that take control of the pins: EXTEST, CLAMP, HIGHZ, EXTEST_PULSE, EXTEST_TRAIN. -/
def pinInstr : List (BitVec 6) := [0b000000, 0b000100, 0b000101, 0b001000, 0b001001]

/-- The register an instruction selects: 0 boundary scan, 1 device identification, 2 bypass. With TESTMODE low the
instructions that control pins act as BYPASS. -/
def Chip.testRegister (c : Chip) : Nat :=
  let ir := c.boot.jtagIr
  if ir = 0b000001 then 1
  else if ir = 0b000010 then 0
  else if ir ∈ [0b000000, 0b001000, 0b001001] ∧ c.boot.testmode = true then 0
  else 2

/-- The test port has control of the pins: a pin instruction while TESTMODE is high. -/
def Chip.pinControl (c : Chip) : Chip :=
  c.setBoot (fun b => { b with extest := b.testmode && decide (b.jtagIr ∈ pinInstr) })

/-- JTAG_INSTRUCTION (R542). -/
def execJtagInstruction (t : Nat) (ir : BitVec 6) (s : State) : Host.Outcome State Fault Refusal :=
  s.act (fun c => ((c.at t).setBoot (fun b => { b with jtagIr := ir })).pinControl)

/-- The level of TESTMODE: high holds cold reset, low releases it; the spec names no LOG_BOOT.CAUSE for it, which is a free
value (R542). -/
def Chip.testPin (c : Chip) (high : Bool) : Chip :=
  let c := (c.setBoot (fun b => { b with testmode := high, holdTest := high })).pinControl
  if high then
    let r := c.freeWord
    r.1.hold (r.2.toNat % 8) false
  else c.release

/-- TESTMODE_CHANGE (R542). -/
def execTestmodeChange (t : Nat) (high : Bool) (s : State) : Host.Outcome State Fault Refusal :=
  s.act (fun c => (c.at t).testPin high)

end Sys2Proof.Machine
end

