-- ==== Sys2Proof/Machine/PoundCfg.lean ====
section
/-! DEFINITION. The pound generator's corrections and registers, cycle marks and requests for a change of operating state
(R13 to R21, R27 to R36). -/

namespace Sys2Proof.Machine

/-! ## Phase corrections (R19, R440) -/

/-- What remains to be corrected, in ticks: positive while this device's boundary is late. In FREE and HOLDOVER nothing is
corrected; a follower corrects its lag behind the primary. -/
def Chip.lagTicks (c : Chip) : Int :=
  if 2 ≤ c.role then rdivEven c.aqu.syncE 16
  else
    let st := c.fld SYS_POUND_STATUS__LOCK_STATE
    if st = 1 ∨ st = 2 then rdivEven c.pnd.resid 81920 else 0

/-- The ticks from `from_` at steps of `gap`, at most `k` of them, all before the last tick but one of a pound that would end
at `lim`: where they remove ticks (`late`), every one of them brings that end a tick closer. -/
def corrTicks (late : Bool) (from_ gap lim : Nat) (k : Nat) : List Nat :=
  (((List.range k).map (fun i => (i, from_ + gap * i))).takeWhile
    (fun e => decide (e.2 + 2 + (if late then e.1 + 1 else 0) < lim))).map (·.2)

/-- The corrections of the pound that begins are fixed, because its references announce its length: single ticks, at most
one in 15,625 consecutive ticks, removed from a late boundary and added to an early one. In HOLDOVER the frequency
correction last applied goes on, a tick in the same direction at the distance of the last two, and no other; a pound
under the step of R18 takes none (R19, R20, R223; log entries 10 and 120). -/
def Chip.corrPlan (c : Chip) : Chip :=
  let e := c.lagTicks
  let lim := c.pnd.start + c.pnd.len
  let late := if e = 0 then c.pnd.lastSign else decide (0 < e)
  let first := match c.pnd.lastCorr with
    | some t => max c.pnd.start (t + 15625)
    | none => c.pnd.start
  let k := c.pnd.len / 15625 + 1
  let ts :=
    if c.pnd.renum.isSome then []
    else if e ≠ 0 then corrTicks late first 15625 lim (min k e.natAbs)
    else match c.pnd.lastCorr, c.pnd.gap with
      | some t, some g =>
        if c.role < 2 ∧ c.fld SYS_POUND_STATUS__LOCK_STATE = 3 then corrTicks late (max c.pnd.start (t + g)) (max g 15625) lim k else []
      | _, _ => []
  { c with pnd := { c.pnd with corr := ts, corrLate := late } }

/-- A correction fixed for tick `t` is made: the pound is a tick shorter or longer, and what remains to be corrected follows
(R19, R440). -/
def Chip.corrMake (c : Chip) (t : Nat) : Chip :=
  let p := c.pnd
  let late := p.corrLate
  let d : Int := if late then 1 else -1
  let gap := match p.lastCorr with
    | some u => if p.lastSign = late then some (t - u) else none
    | none => none
  let gap := if c.fld SYS_POUND_STATUS__LOCK_STATE = 3 then p.gap else gap
  let p := { p with len := (if late then p.len - 1 else p.len + 1), lastCorr := some t, lastSign := late, gap := gap
                    corr := p.corr.drop 1 }
  if 2 ≤ c.role then ({ c with pnd := p }).setAqu (fun a => { a with syncE := a.syncE - 16 * d })
  else { c with pnd := { p with resid := p.resid - 81920 * d } }

/-- The next correction of this pound is made in its tick. -/
def Chip.phaseCorrection (c : Chip) : Chip :=
  match c.pnd.corr with
  | [] => c
  | t :: _ => if t ≤ c.now then c.corrMake t else c

/-- At the end of a pound the corrections fixed for it have been made. -/
def Chip.corrAll (c : Chip) : Chip := c.each c.pnd.corr Chip.corrMake

/-- PHASE_CORRECTION (R19). The generator keeps running through a warm reset. -/
def execPhaseCorrection (t : Nat) (s : State) : Host.Outcome State Fault Refusal :=
  s.act (fun c => let c := c.at t; if c.boot.phase = .hold then c else c.phaseCorrection)

/-! ## SYS_POUND_CFG and SYS_POUND_OFFSET (R36) -/

/-- Checks 3 of R269 for an entry under a pound of `p` ticks. -/
def Chip.entryFits (c : Chip) (p e : Nat) : Bool :=
  let at_ := c.eOffset e + c.eSlip e
  decide (c.eOpen e < c.eClose e) && decide (at_ + c.eClose e ≤ p - 1)
    && (c.eMgmt e || !decide (p / 2 - 320 ≤ at_ ∧ at_ ≤ p / 2 - 1))

/-- Check 6 of R269 for a port under a pound of `p` ticks: APPLY lies behind the command release. -/
def Chip.portFits (c : Chip) (p q : Nat) : Bool :=
  let a := c.fld (TOW_PORT_CFG__APPLY q)
  decide (p / 2 + 1 ≤ a ∧ a ≤ p - 1)

/-- Every phase value configured in the device lies within a pound of `p` ticks (R36). -/
def Chip.phasesFit (c : Chip) (p : Nat) : Bool :=
  (List.range 32).all (fun m => !c.flag (SYS_CMARK__EN m) || decide (c.fld (SYS_CMARK__PHASE m) < p))
    && (List.range 256).all (fun ch => c.fld (POS_CH_CFG__TYPE ch) == 0 || decide (c.fld (POS_CH_SMP__SMP_PHASE ch) < p))
    && (!c.flag GAU_CFG__SCLK || decide (c.fld GAU_SPHASE__SPHASE < p))
    && decide (c.fld LOG_SPHASE__SPHASE < p)
    && decide (c.fld SYS_POUND_OFFSET__OFFSET < p * 5 / 4)
    && (List.range 4096).all (fun e => !c.eEn e || c.entryFits p e)
    && (List.range 64).all (fun q => !c.flag (TOW_PORT_CFG__EN q) || c.portFits p q)

/-- A write of SYS_POUND_CFG or SYS_POUND_OFFSET is ignored. -/
def Chip.poundRej (c : Chip) : Chip := c.raise SYS_POUND_STATUS__CFG_REJ

/-- A write of SYS_POUND_CFG. A new POUND_SEL waits for the boundary that begins a power period; a change of LOCK_EN acts
at once (R20, R36). -/
def Chip.poundCfgWrite (c : Chip) (v : Nat) : Chip :=
  let sel := bits v 2 0
  let change := decide (sel ≠ c.fld SYS_POUND_CFG__POUND_SEL)
  if c.dryOrMoored = false then c.poundRej
  else if 5 ≤ sel then c.poundRej
  else if change && !c.phasesFit (poundTicks sel) then c.poundRej
  else
    let c := c.writeBits SYS_POUND_CFG v
    let c := if change then { c with pnd := { c.pnd with selNew := if sel = c.pnd.sel then none else some sel } } else c
    c.lockUpdate

/-- A write of SYS_POUND_OFFSET (R36). -/
def Chip.poundOffsetWrite (c : Chip) (v : Nat) : Chip :=
  if c.dryOrMoored && decide (bits v 17 0 < c.poundNs) then c.writeBits SYS_POUND_OFFSET v else c.poundRej

/-- SYS_POUND_CFG_WRITE (R36). -/
def execSysPoundCfgWrite (t : Nat) (ifc : Iface) (off : Fin 2) (v : Word) (s : State) :
    Host.Outcome State Fault Refusal :=
  s.access t ifc (fun c => if off = 0 then c.poundCfgWrite v.toNat else c.poundOffsetWrite v.toNat)

/-! ## Cycle marks (R27 to R29) -/

/-- A write of a cycle mark; it is in effect from the next boundary (R28). -/
def Chip.cmarkWrite (c : Chip) (m v : Nat) : Chip :=
  if c.P ≤ bits v 17 0 ∨ 2 ^ bits v 30 29 ≤ bits v 28 26 then c.poundRej else c.writeBits (SYS_CMARK m) v

/-- SYS_CMARK_WRITE (R28). -/
def execSysCmarkWrite (t : Nat) (ifc : Iface) (m : Fin 32) (v : Word) (s : State) : Host.Outcome State Fault Refusal :=
  s.access t ifc (fun c => c.cmarkWrite m.val v.toNat)

/-- An event of mark m was lost (R29). -/
def Chip.markLost (c : Chip) (m : Nat) : Chip := c.raiseBit SYS_CMARK_OVF m

/-- T_HOST: the event goes to the host event FIFO. -/
def Chip.markHost (c : Chip) (m : Nat) : Chip :=
  let full := c.hostEventFull 2 1
  (c.hostEvent 2 [w32 m]).onlyIf full (fun c => c.markLost m)

/-- T_LKP: the chains that select the mark are triggered, and firmware's entry joins a management list (R308, R415). -/
def Chip.markLkp (c : Chip) (m : Nat) : Chip :=
  let c := c.each (List.range 64) (fun c k =>
    if c.chEn k && c.chTrig k == 2 && c.chMark k == m then (c.chainTrigger k none none).1 else c)
  let r := c.submit 2 ⟨Config.markClass.val, Config.markPrio.val, none, .cmark m, c.now, .mark m⟩
  r.1.onlyIf (!r.2) (fun c => c.markLost m)

/-- T_ADC: the regular sequences that select the mark start. -/
def Chip.markAdc (c : Chip) (m : Nat) : Chip :=
  let r := c.adcMark m
  r.1.onlyIf (!r.2) (fun c => c.markLost m)

/-- The events of mark m, at most once in a pound (R27 to R29). -/
def Chip.markEvents (c : Chip) (m : Nat) : Chip :=
  if m ∈ c.pnd.fired then c
  else
    let w := c.markW m
    let c := { c with pnd := { c.pnd with fired := c.pnd.fired ++ [m] } }
    let c := c.onlyIf (w.testBit 23) (fun c => c.markHost m)
    let c := c.onlyIf (w.testBit 22) (fun c => c.markLkp m)
    let c := c.onlyIf (w.testBit 21) (fun c => c.markAdc m)
    c.onlyIf (w.testBit 20) (fun c => c.gauTrigger 1)

/-- A mark fires: its targets receive their events, after those of every lower mark that fires in the same tick (R27). -/
def Chip.markFire (c : Chip) (m : Nat) : Chip :=
  match c.markTick m with
  | none => c
  | some t =>
    if m ∈ c.pnd.fired then c
    else (c.at t).each ((List.range (m + 1)).filter (fun k => c.markTick k == some t)) Chip.markEvents

/-- CYCLE_MARK_FIRE (R27). -/
def execCycleMarkFire (m : Fin 32) (s : State) : Host.Outcome State Fault Refusal :=
  s.event s.chip.now (fun c => c.markFire m.val)

/-! ## SET_STATE (R31 to R34) -/

/-- A requested transition and its condition hold (R31). -/
def Chip.stateAllowed (c : Chip) (dest : Nat) : Bool :=
  match c.opState, dest with
  | 0, 1 => c.hst.stage.loaded && c.weir.confV
  | 1, 0 => true
  | 1, 2 => c.grant && c.requiredOk
      && (!c.flag SYS_POUND_CFG__REQ_LOCK || c.fld SYS_POUND_STATUS__LOCK_STATE == 2)
  | 2, 1 => c.allStill
  | 2, 3 => true
  | 3, 1 => c.allStill && c.weir.outA == 0 && c.weir.outB == 0
  | _, _ => false

/-- SET_STATE's rules: the current state is answered at once, a transition after its boundary, MOORED with a twin after the
join (R31, R34, R435). While a change is under way another is turned away. -/
def Chip.setStateCmd (c : Chip) (k : Intake) : Chip × Answer :=
  let dest := k.target.toNat
  if dest = c.opState then (c, ansOK)
  else if c.stateAllowed dest = false then (c, ansState)
  else if c.pnd.request.isSome then (c, ansBusy)
  else if c.opState = 0 ∧ c.flag AQU_CFG__TWIN_EN = true then
    (c.setAqu (fun a => { a with joinT := some (c.now + max (c.fld AQU_CFG__JOIN_TMO) 1 * 800000), joinHeard := 0 }), .accepted 0)
  else
    let due := (c.poundNum + (if dest = 2 then 2 else 1)) % 2 ^ 32
    ({ c with pnd := { c.pnd with request := some ⟨dest, due, some k⟩ } }, .defer)

/-- SET_STATE (R31). -/
def execSetState (t : Nat) (ifc : Iface) (tag target : Word) (pl : List Word) (s : State) :
    Host.Outcome State Fault Refusal :=
  s.command t 0x0102 ifc tag target pl Chip.setStateCmd

end Sys2Proof.Machine
end

