-- ==== Sys2Proof/Machine/Gauge.lean ====
section
/-! DEFINITION. The Gauge's records: states, memory, rows, streaming, measurements, headers, release and its registers
(R332, R335 to R345). -/

namespace Sys2Proof.Machine

/-- Bytes of record memory. -/
abbrev gauBytes : Nat := 2 ^ 23

/-- A measurement before its first row. -/
def Meas.init : Meas := ⟨0, 0, 0, 0, 0, false, 0, 0, 0⟩

/-- The chip in another Gauge state. -/
def Chip.gauTo (c : Chip) (st : Nat) : Chip := c.setFld GAU_STATUS__STATE st

/-- The free bytes of record memory (R338, R345). -/
def Chip.gauFree (c : Chip) : Nat := gauBytes - (c.gau.recs.map (·.size)).sum

/-- GAU_REC_HEAD and GAU_REC_CNT follow the records held (R343, R345). -/
def Chip.gauRegs (c : Chip) : Chip :=
  let c := c.setFld GAU_REC_CNT__FREE c.gauFree
  match c.gau.recs with
  | r :: _ => if r.done then c.setFld GAU_REC_HEAD__OFS r.ofs else c
  | [] => c

/-- Writes bytes of record memory, modulo its size. -/
def Chip.gauPut (c : Chip) (a : Nat) (bs : List Byte) : Chip :=
  let m := bs.zipIdx.foldl (fun m e => tabPut (fun _ => (0 : Byte)) ((a + e.2) % gauBytes) e.1 m) c.mem.gau
  { c with mem := { c.mem with gau := m } }

/-! ## Arming (R332, R338, R344) -/

/-- The configuration stands the checks of ARM (R332, R338, R344). -/
def Chip.gauOk (c : Chip) : Bool :=
  let rb := c.gauRb
  c.gauChans != [] && decide (c.fld GAU_SPHASE__SPHASE < c.P)
    && (c.flag GAU_CFG__SCLK || decide (rb ≤ 32 * 2 ^ c.fld GAU_CFG__SDIV))
    && decide (256 + (c.reg GAU_PRE + 1) * rb ≤ gauBytes)

/-- The Gauge waits for memory; DLOG returns to its starting value (R337, R339). -/
def Chip.gauWait (c : Chip) : Chip := (c.gauTo 1).setFld GAU_STATUS__DLOG_NOW (c.fld GAU_CFG__DLOG)

/-- ARM: the truth value says that it was taken (R337, R344). -/
def Chip.gauArm (c : Chip) : Chip × Bool :=
  if c.gauState = 0 ∧ c.gauOk = true then
    ((c.setGau (fun g => { g with taken := 0, deadFrom := c.now, latched := [], run := 0, sawMiss := false, runOk := false,
                                  stopAfter := false })).gauWait, true)
  else (c.raise GAU_STATUS__CMD_REJ, false)

/-- The reservation of the next record: its bytes, memory post rows, whether they are clamped and whether rows are
streamed; `none` while the memory does not hold it (R338). -/
def Chip.gauReserve (c : Chip) : Option (Nat × Nat × Bool × Bool) :=
  let rb := c.gauRb
  let pre := c.reg GAU_PRE
  let post := c.reg GAU_POST
  let s := 256 + (pre + post) * rb
  if s ≤ c.gauFree then some (s, post, false, false)
  else if c.gau.recs = [] ∧ gauBytes < s then
    let pm := (gauBytes - 256) / rb - pre
    let stream := c.flag GAU_CFG__STREAM
    some (256 + (pre + pm) * rb, pm, !stream, stream)
  else none

/-- Memory is reserved and the record begins (R337, R338). -/
def Chip.gauBegin (c : Chip) : Chip :=
  if c.gauState ≠ 1 then c
  else
    match c.gauReserve with
    | none => c
    | some r =>
      let c := c.setGau (fun g => { g with
        recs := g.recs ++ [⟨g.seq, g.ring, r.1, false⟩], samples := 0, pre := 0, preTicks := [], post := 0, memRows := 0,
        accepted := 0, lost := 0, postT := none, postMem := r.2.1, trunc := r.2.2.1, streaming := r.2.2.2, trig := none,
        latched := [], block := [], blockV := [], stopped := false, meas := [] })
      let c := if r.2.2.1 then c.raise GAU_INT_STATUS__TRUNC else c
      (c.gauTo (if c.reg GAU_PRE = 0 then 3 else 2)).gauRegs

/-- The reservation is made (R338). -/
def execMemoryReserved (t : Nat) (s : State) : Host.Outcome State Fault Refusal := s.event t Chip.gauBegin

/-! ## Measurements (R341) -/

/-- A row's value accumulates into a measurement. A crossing follows an earlier row at or below THR − HYST, one since the
crossing before it (R341). -/
def Meas.add (m : Meas) (v thr hyst : Int) (t : Nat) : Meas :=
  let cross := m.low && decide (thr + hyst ≤ v)
  { n := m.n + 1, sum := m.sum + v, sumSq := m.sumSq + (v * v).toNat
    lo := if m.n = 0 then v else min m.lo v, hi := if m.n = 0 then v else max m.hi v
    low := !cross && (m.low || decide (v ≤ thr - hyst)), cross := m.cross + b2n cross
    firstT := if cross && m.cross == 0 then t else m.firstT, lastT := if cross then t else m.lastT }

/-- The values of the eight measurement channels in this tick. -/
def Chip.measNow (c : Chip) : List Int := (List.range 8).map (fun m => c.probeI (c.fld (GAU_MEAS__CH m)))

/-- Rows accepted: their values accumulate. -/
def Chip.measAdd (c : Chip) (rows : List (Nat × List Int)) : Chip :=
  c.each rows (fun c r => c.each ((List.range 8).filter (fun m => c.flag (GAU_MEAS__EN m))) (fun c m =>
    let x := tabGet (fun _ => Meas.init) c.gau.meas m
    let x := x.add (r.2.getD m 0) (c.fldI (GAU_MEAS__THR m)) (c.fld (GAU_MEAS__HYST m) : Nat) r.1
    c.setGau (fun g => { g with meas := tabPut (fun _ => Meas.init) m x g.meas })))

/-- The integer nearest to √(s ÷ n)·2¹⁶, ties to even. -/
def rms16 (s n : Nat) : Nat :=
  let a := s * 2 ^ 32
  let r := isqrt (a / n)
  let h := n * (2 * r + 1) * (2 * r + 1)
  if h < 4 * a ∨ (h = 4 * a ∧ r % 2 = 1) then r + 1 else r

/-- The header words of measurement m (R341, R342). -/
def Chip.measWords (c : Chip) (m : Nat) : List Word :=
  let x := tabGet (fun _ => Meas.init) c.gau.meas m
  if c.flag (GAU_MEAS__EN m) ∧ 0 < x.n then
    let period : Nat :=
      if x.cross < 2 then 0 else min (rdivEven ((x.lastT - x.firstT : Nat) : Int) (x.cross - 1)).toNat (2 ^ 32 - 1)
    [w32 (unsigned 16 x.hi * 2 ^ 16 + unsigned 16 x.lo), w32i (x.hi - x.lo), w32i (rdivEven (x.sum * 2 ^ 16) x.n),
      w32 (rms16 x.sumSq x.n), w32 period,
      w32 (2 ^ 31 + c.fld (GAU_MEAS__CH m) * 2 ^ 24 + min x.cross 65535)]
  else [0, 0, 0, 0, 0, w32 (c.fld (GAU_MEAS__CH m) * 2 ^ 24)]

/-! ## Rows and blocks (R337 to R339) -/

/-- The block being filled is written to GAU_LAD as one packet, or dropped; a high level after a packet raises DLOG (R339,
R240). -/
def Chip.gauBlock (c : Chip) : Chip :=
  let g := c.gau
  if g.blockV = [] then c
  else
    let rows := g.blockV.length
    let dlog := c.fld GAU_STATUS__DLOG_NOW
    let rec_ := g.recs.getLast?
    let seq := match rec_ with
      | some r => r.seq
      | none => 0
    let t := (g.blockV.getD 0 (0, [])).1
    let bs := wordsBytes [w32 g.block.length, w32 (seq % 2 ^ 16 * 2 ^ 16 + dlog * 2 ^ 12), w32 t, w32 (t / 2 ^ 32)] ++ g.block
    let x := c.lad .gau
    let fits := !x.skip && decide (x.words.length + (bs.length + 7) / 8 ≤ 1024)
    let c := c.ladPacket .gau bs
    let c := if fits then (c.measAdd g.blockV).setGau (fun g => { g with accepted := g.accepted + rows })
      else (c.setGau (fun g => { g with lost := g.lost + rows })).raise GAU_INT_STATUS__LOST
    let c := c.setGau (fun g => { g with block := [], blockV := [] })
    let c := if fits = true ∧ 768 < (c.lad .gau).words.length ∧ dlog < 15 then
        (c.setFld GAU_STATUS__DLOG_NOW (dlog + 1)).raise GAU_INT_STATUS__DEC_UP
      else c
    if c.listed 2 .gauge then c else (c.submit 2 ⟨8, 0, none, .gauge, c.now, .firmware⟩).1

/-- The record ends: FINISH for 64 ticks; its last block may be short (R337, R339). -/
def Chip.gauFinish (c : Chip) (stopped : Bool) : Chip :=
  ((c.gauBlock).setGau (fun g => { g with stopped := stopped, finishT := c.now + 64 })).gauTo 5

/-- The place of the record being taken. -/
def Chip.gauBase (c : Chip) : Nat :=
  match c.gau.recs.getLast? with
  | some r => r.ofs
  | none => 0

/-- A pre row goes to its circular slot (R337). -/
def Chip.gauPreRow (c : Chip) : Chip :=
  let n := c.reg GAU_PRE
  let c :=
    if n = 0 then c
    else
      let g := c.gau
      let c := c.gauPut (c.gauBase + 256 + g.pre % n * c.gauRb) c.gauRow
      let c := c.measAdd [(c.now, c.measNow)]
      c.setGau (fun g => { g with pre := g.pre + 1, preTicks := (c.now :: g.preTicks).take n })
  if c.gauState = 2 ∧ n ≤ c.gau.pre then c.gauTo 3 else c

/-- The post rows of the record. -/
def Chip.gauPostRows (c : Chip) : Nat := if c.gau.trunc then c.gau.postMem else c.reg GAU_POST

/-- A post row goes to memory or to the block being streamed; the last one ends the record (R337 to R339). -/
def Chip.gauPostRow (c : Chip) : Chip :=
  let g := c.gau
  let c := c.setGau (fun g => { g with post := g.post + 1, postT := some (g.postT.getD c.now) })
  let c :=
    if g.memRows < g.postMem then
      let c := c.gauPut (c.gauBase + 256 + (c.reg GAU_PRE + g.memRows) * c.gauRb) c.gauRow
      (c.measAdd [(c.now, c.measNow)]).setGau (fun g => { g with memRows := g.memRows + 1 })
    else
      let row := c.gauRow
      let v := c.measNow
      let c := c.setGau (fun g => { g with block := g.block ++ row, blockV := g.blockV ++ [(c.now, v)] })
      if c.gau.blockV.length = 32 then c.gauBlock else c
  if c.gauPostRows ≤ c.gau.post then c.gauFinish false else c

/-! ## Samples (R332, R335, R336) -/

/-- The pattern of R335 on a sample: the run of matching samples is kept, and the truth value says that the pattern
trigger falls on this sample. -/
def Chip.gauPattern (c : Chip) : Chip × Bool :=
  let g := c.gau
  let m := c.gauMatch
  let dur := c.fld GAU_DUR__DUR
  let edge := c.flag GAU_CFG__EDGE
  let runOk := if g.run = 0 then g.sawMiss else g.runOk
  let run := if m then g.run + 1 else 0
  let hit := match c.fld GAU_CFG__DQ_MODE with
    | 0 => m && (!edge || (g.run == 0 && g.sawMiss))
    | 1 => m && run == dur && (!edge || runOk)
    | _ => !m && decide (1 ≤ g.run ∧ g.run < dur) && g.runOk
  (c.setGau (fun g => { g with run := run, runOk := runOk, sawMiss := g.sawMiss || !m }), hit)

/-- The trigger of this sample, if one falls on it (R336). -/
def Chip.gauTake (c : Chip) : Chip :=
  let r := c.gauPattern
  let c := r.1
  let pat := r.2 && (c.fld GAU_CFG__TSRC).testBit 0
  let l := c.gau.latched
  if pat = false ∧ l = [] then c
  else
    let src := l.foldl (fun m e => m ||| 2 ^ e.1) (b2n pat)
    let t := l.foldl (fun t e => min t e.2) c.now
    ((c.setGau (fun g => { g with trig := some (src, t), latched := [] })).gauTo 4).raise GAU_INT_STATUS__TRIG

/-- A Gauge sample (R332, R335 to R337). -/
def Chip.gauSample (c : Chip) : Chip :=
  let st := c.gauState
  if (st = 2 ∨ st = 3 ∨ st = 4) ∧ c.gauTick = true then
    let g := c.gau
    let c := if g.samples = 0 then c.setGau (fun g => { g with dead := min (c.now - g.deadFrom) (2 ^ 32 - 1) }) else c
    let c := c.setGau (fun g => { g with samples := g.samples + 1, lastSample := c.now })
    let c := if st = 4 then c else c.gauTake
    if g.samples % 2 ^ c.fld GAU_STATUS__DLOG_NOW = 0 then (if c.gauState = 4 then c.gauPostRow else c.gauPreRow) else c
  else c

/-- A tick in which the Gauge may sample (R332). -/
def execGaugeSample (t : Nat) (s : State) : Host.Outcome State Fault Refusal := s.event t Chip.gauSample

/-! ## The end of a record (R337, R342) -/

/-- FIRST_TICK of a record; a record stopped before its first row has none, and its value is free (R342). -/
def Chip.gauFirst (c : Chip) : Chip × Nat :=
  match c.gau.preTicks.getLast?, c.gau.postT with
  | some t, _ => (c, t)
  | none, some t => (c, t)
  | none, none =>
    let a := c.freeWord
    let b := a.1.freeWord
    (b.1, a.2.toNat + b.2.toNat * 2 ^ 32)

/-- The header of the record being taken (R342). -/
def Chip.gauHeader (c : Chip) (seq first : Nat) : List Word :=
  let g := c.gau
  let n := c.reg GAU_PRE
  let got := min g.pre n
  let rot := if got < n ∨ n = 0 then 0 else g.pre % n
  let tr := g.trig.getD (0, 0)
  [w32 (seq % 2 ^ 16 * 2 ^ 16 + b2n g.trunc * 2 ^ 11 + b2n (0 < g.accepted + g.lost) * 2 ^ 10 + b2n g.stopped * 2 ^ 9
      + b2n (0 < g.lost) * 2 ^ 8 + c.fld GAU_CFG__DLOG * 2 ^ 4 + c.fld GAU_STATUS__DLOG_NOW),
    w32 (c.fld GAU_CFG__SCLK * 2 ^ 31 + c.fld GAU_CFG__SDIV * 2 ^ 26 + c.fld GAU_SPHASE__SPHASE),
    w32 (tr.1 % 16 * 2 ^ 28 + c.gauRb * 2 ^ 16 + c.gauChans.length), w32 g.dead, w32 (c.reg GAU_CH_EN_LO),
    w32 (c.reg GAU_CH_EN_HI), w32 got, w32 rot, w32 g.memRows, w32 g.accepted, w32 g.lost, 0, w32 tr.2,
    w32 (tr.2 / 2 ^ 32), w32 first, w32 (first / 2 ^ 32)] ++ (List.range 8).flatMap c.measWords

/-- FINISH ends: the header is written, unused space is freed, and the Gauge goes on or returns to IDLE (R337, R338,
R342). -/
def Chip.gauEnd (c : Chip) : Chip :=
  if c.gauState = 5 ∧ c.gau.finishT ≤ c.now then
    match c.gau.recs.getLast? with
    | none => c.gauTo 0
    | some r =>
      let q := c.gauFirst
      let c := q.1.gauPut r.ofs (wordsBytes (q.1.gauHeader r.seq q.2))
      let size := 256 + (c.reg GAU_PRE + c.gau.memRows) * c.gauRb
      let c := c.setGau (fun g => { g with
        recs := g.recs.dropLast ++ [{ r with size := size, done := true }], ring := (r.ofs + size) % gauBytes,
        seq := (g.seq + 1) % 2 ^ 16, taken := g.taken + 1, deadFrom := g.lastSample })
      let c := c.raise GAU_INT_STATUS__REC_DONE
      let n := c.fld GAU_NREC__NREC
      let c := if c.gau.stopAfter ∨ (n ≠ 0 ∧ n ≤ c.gau.taken) then c.gauTo 0 else c.gauWait
      c.gauRegs
  else c

/-- FINISH ends (R337). -/
def execFinishEnd (t : Nat) (s : State) : Host.Outcome State Fault Refusal := s.event t Chip.gauEnd

/-- STOP: a record not yet triggered is discarded with its reservation (R337). -/
def Chip.gauStop (c : Chip) : Chip :=
  match c.gauState with
  | 1 => c.gauTo 0
  | 2 | 3 => ((c.setGau (fun g => { g with recs := g.recs.dropLast, latched := [] })).gauTo 0).gauRegs
  | 4 => c.gauFinish true
  | 5 => c.setGau (fun g => { g with stopAfter := true })
  | _ => c

/-- GAU_REL: the truth value says that a record was released (R343). -/
def Chip.gauRelease (c : Chip) (seq : Nat) : Chip × Bool :=
  match c.gau.recs with
  | r :: t =>
    if r.done && r.seq == seq % 2 ^ 16 then ((c.setGau (fun g => { g with recs := t })).gauRegs, true)
    else (c.raise GAU_STATUS__REL_ERR, false)
  | [] => (c.raise GAU_STATUS__REL_ERR, false)

/-- Warm and cold reset: IDLE with every record released (R343). -/
def Chip.gauReset (c : Chip) : Chip := ((c.setGau (fun _ => Gau.init)).gauTo 0).gauRegs

/-! ## Registers and commands (R344) -/

/-- A write of GAU_CTL: STOP prevails over FORCE. -/
def Chip.gauCtl (c : Chip) (v : Nat) : Chip :=
  let c := if v.testBit 0 then (c.gauArm).1 else c
  if v.testBit 1 then c.gauStop else if v.testBit 2 then c.gauTrigger 3 else c

/-- A configuration value within the stated range of its register (R331, R334, R335, R344). -/
def Chip.gauValueOk (c : Chip) (off v : Nat) : Bool :=
  if off = GAU_CFG then decide (bits v 29 25 ≤ 20) && bits v 15 14 != 3
  else if off = GAU_POST then v != 0
  else if off = GAU_DUR then bits v 15 0 != 0
  else if GAU_PROBE 0 ≤ off ∧ off < GAU_PROBE 64 then c.selOk (v % 2 ^ 16)
  else if GAU_COND 0 ≤ off ∧ off < GAU_COND 64 then bits v 31 30 != 3
  else true

/-- Writes of the Gauge's registers with a rule of their own; `none` for any other register (R344). -/
def Chip.gauWrite (c : Chip) (off v : Nat) : Option Chip :=
  if off = GAU_CTL then some (c.gauCtl v)
  else if off = GAU_REL then some (c.gauRelease v).1
  else if GAU_CFG ≤ off ∧ off ≤ GAU_MEAS 7 then
    some (if c.gauState = 0 ∧ c.gauValueOk off v = true then c.writeBits off v else c.raise GAU_STATUS__CFG_REJ)
  else none

/-- GAU_CTL.ARM written (R337). -/
def execGauCtlArm (t : Nat) (ifc : Iface) (s : State) : Host.Outcome State Fault Refusal := s.access t ifc (fun c => c.gauCtl 1)
/-- GAU_CTL.STOP written (R337). -/
def execGauCtlStop (t : Nat) (ifc : Iface) (s : State) : Host.Outcome State Fault Refusal := s.access t ifc (fun c => c.gauCtl 2)
/-- GAU_CTL.FORCE written (R336). -/
def execGauCtlForce (t : Nat) (ifc : Iface) (s : State) : Host.Outcome State Fault Refusal := s.access t ifc (fun c => c.gauCtl 4)
/-- GAU_REL written (R343). -/
def execGauRelWrite (t : Nat) (ifc : Iface) (v : Word) (s : State) : Host.Outcome State Fault Refusal :=
  s.access t ifc (fun c => (c.gauRelease v.toNat).1)

/-- GAU_ARM (R344, R496). -/
def execGauArm (t : Nat) (ifc : Iface) (tag target : Word) (pl : List Word) (s : State) : Host.Outcome State Fault Refusal :=
  s.command t 0x0A01 ifc tag target pl (fun c _ => let r := c.gauArm; if r.2 then (r.1, ansOK) else (c, ansState))
/-- GAU_STOP (R337). -/
def execGauStop (t : Nat) (ifc : Iface) (tag target : Word) (pl : List Word) (s : State) : Host.Outcome State Fault Refusal :=
  s.command t 0x0A02 ifc tag target pl (fun c _ => (c.gauStop, ansOK))
/-- GAU_FORCE (R336). -/
def execGauForce (t : Nat) (ifc : Iface) (tag target : Word) (pl : List Word) (s : State) : Host.Outcome State Fault Refusal :=
  s.command t 0x0A03 ifc tag target pl (fun c _ => (c.gauTrigger 3, ansOK))
/-- GAU_RELEASE (R343, R496). -/
def execGauRelease (t : Nat) (ifc : Iface) (tag target : Word) (pl : List Word) (s : State) :
    Host.Outcome State Fault Refusal :=
  s.command t 0x0A04 ifc tag target pl (fun c k =>
    let r := c.gauRelease (wordAt k.payload 0)
    if r.2 then (r.1, ansOK) else (c, .now stNOT_FOUND 0 []))

/-- Words of record memory as a BAR2 read gives them (R467). -/
def Chip.gauWords (c : Chip) (a n : Nat) : List Word :=
  (List.range n).map (fun i => memWord 0 c.mem.gau ((a + 4 * i) % gauBytes))

end Sys2Proof.Machine
end

