-- ==== Sys2Proof/Machine/View.lean ====
section
/-! DEFINITION. What a BAR0 word reads: the values that follow the state without being stored, the reads with a side
effect, and the reads of R6, R9 and R243. -/

namespace Sys2Proof.Machine

/-! ## Values that follow the state -/

/-- A Lading FIFO's _STAT register (R240 to R243): FLUSH_PEND, PKT_CNT and LEVEL follow the FIFO. -/
def Chip.ladStat (c : Chip) (l : LadId) : Nat :=
  let x := c.lad l
  putBits (putBits (putBits (c.reg l.stat) 31 31 (b2n x.flushAt.isSome)) 26 16 x.pkts)
    (match l with
     | .slu _ => 12
     | _ => 10) 0 x.words.length

/-- LCK_STATUS as it reads: SAT_ANY and FAULT_ANY are the OR of every flight's flags (R93). -/
def Chip.lckStatus (c : Chip) : Nat :=
  let any (m : Nat) : Bool := (List.range 32).any (fun f => (c.reg (LCK_FSTAT f) &&& m) != 0)
  putBits (putBits (c.reg LCK_STATUS) 2 2 (b2n (any 0x00F))) 1 1 (b2n (any 0x0F0))

/-- Lanes running a job: all 64 while a GANGED job runs (R155). -/
def Chip.lanesBusy (c : Chip) : Nat := ((List.range 64).filter (fun k => (c.runningOn k).isSome)).length

/-- SLU_CORE_STAT_i as it reads: the running chain and stage, or the last ones (R314, R315). -/
def Chip.coreStat (c : Chip) (i : Nat) : Nat :=
  match c.slu.runs.find? (fun e => e.2.running && e.2.core == i) with
  | some e => 2 ^ 31 + e.1 % 64 * 2 ^ 24 + e.2.stage % 16 * 2 ^ 16
  | none => c.reg (SLU_CORE_STAT i) % 2 ^ 31

/-- SLU_CHST_c as it reads: the flags collected so far while a run of the chain is running (R294, R314). -/
def Chip.chainStat (c : Chip) (k : Nat) : Nat :=
  match c.run k with
  | some x => if x.running then c.reg (SLU_CHST k) ||| x.flagBits else c.reg (SLU_CHST k)
  | none => c.reg (SLU_CHST k)

/-- ADC_STATUS.BUSY: bit 2x a regular run of converter x, bit 2x + 1 an injected one (R329). -/
def Chip.adcBusy (c : Chip) : Nat :=
  (List.range 2).foldl (fun m x =>
    m + b2n (c.adcC x).reg.isSome * 2 ^ (2 * x) + b2n (c.adcC x).inj.isSome * 2 ^ (2 * x + 1)) 0

/-- POS_PD_STAT_d as it reads: |B|, its sign and whether the outputs are driven (R210, R212). -/
def Chip.pdStat (c : Chip) (d : Nat) : Nat :=
  let b := (c.pd d).b
  putBits (putBits (putBits (c.reg (POS_PD_STAT d)) 31 16 (min b.natAbs 65535)) 2 2 (b2n (decide (b < 0)))) 0 0
    (b2n (c.pdDriving d))

/-- The lowest armed key in 48.16 form, all ones when the Manifest is empty; 0 until an entry was armed (R119). -/
def Chip.manNext (c : Chip) : Nat :=
  if c.man.used then
    match c.man.armed with
    | e :: _ => e.key
    | [] => 2 ^ 64 - 1
  else 0

/-- The member of an indexed set of registers at an offset. -/
def hitOf (f : Nat → Nat) (n off : Nat) : Option Nat := (List.range n).find? (fun i => f i == off)

/-- The values of one block that follow the state, Lock engine to Towpath. -/
def Chip.viewA (c : Chip) (off : Nat) : Option Nat :=
  if off = HST_ID then some (0x62560000 + Config.siliconRev.toNat * 256)
  else if off = HST_MDIO_CMD then some (putBits (c.reg off) 17 17 (b2n c.hst.mdioBusy))
  else if off = TIM_SEL_STAT then some (putBits (c.reg off) 29 29 (b2n (c.tim.corr != 0)))
  else if off = TIM_SEL_CORR then some (unsigned 32 (clampI (-2147483648) 2147483647 (nsOf c.tim.corr)))
  else if off = TIM_TALLY_STAT then some (putBits (c.reg off) 5 0 c.tim.tally.length)
  else if off = LCK_STATUS then some c.lckStatus
  else if off = BSN_STATUS then some (putBits (c.reg off) 22 16 c.lanesBusy)
  else if off = POS_CHN_HW_LO then some (c.pf.chain.h % 2 ^ 32)
  else if off = POS_CHN_HW_HI then some (c.pf.chain.h / 2 ^ 32 % 2 ^ 16)
  else if off = POS_MAN_STATUS then some (putBits (c.reg off) 28 16 c.man.armed.length)
  else if off = POS_MAN_NEXT_LO then some (c.manNext % 2 ^ 32)
  else if off = POS_MAN_NEXT_HI then some (c.manNext / 2 ^ 32 % 2 ^ 32)
  else if off = POS_TICK_LO then some (c.now % 2 ^ 32)
  else if off = POS_TICK_HI then some (c.now / 2 ^ 32 % 2 ^ 32)
  else if off = SLU_STATUS then
    some (putBits (c.reg off) 7 4 ((List.range 4).foldl (fun m i => m + b2n ((c.coreStat i).testBit 31) * 2 ^ i) 0))
  else if off = ADC_STATUS then some (putBits (c.reg off) 4 1 c.adcBusy)
  else if off = AQU_ROLE then some c.aquRole
  else none

/-- The indexed values that follow the state. -/
def Chip.viewB (c : Chip) (off : Nat) : Option Nat :=
  match LadId.all.find? (fun l => l.stat == off) with
  | some l => some (c.ladStat l)
  | none =>
    match hitOf LCK_SEGQ_STAT 32 off, hitOf POS_PD_STAT 8 off, hitOf TOW_PORT_STAT 64 off, hitOf SLU_CORE_STAT 4 off with
    | some f, _, _, _ => some (c.segqStat f)
    | _, some d, _, _ => some (c.pdStat d)
    | _, _, some p, _ => some (c.portStat p)
    | _, _, _, some i => some (c.coreStat i)
    | _, _, _, _ =>
      match hitOf LKP_CLS_TUSED 10 off, hitOf LKP_CLS_EUSED 10 off, hitOf (fun i => LKP_DEPTH (i / 8) (i % 8)) 24 off,
        hitOf SLU_CHST 64 off with
      | some k, _, _, _ => some (c.tUsed k)
      | _, some k, _, _ => some (c.eUsed k)
      | _, _, some i, _ => some (putBits (c.reg off) 8 0 ((c.lkpExport i).getD 0))
      | _, _, _, some k => some (c.chainStat k)
      | _, _, _, _ => none

/-- The word a register shows at this tick, without any side effect of a read. -/
def Chip.view (c : Chip) (off : Nat) : Nat :=
  match c.viewA off with
  | some v => v
  | none =>
    match c.viewB off with
    | some v => v
    | none => c.reg off

/-! ## Reads -/

/-- The 64-bit values read as LO and HI under R9, by the offset of LO; the HI register is the next word. The fixed
pairs of the time bases and the Lading data have reads of their own. The pair HST_ETH_MAC_LO_m and HST_ETH_MAC_HI_m holds
a 48-bit address and no 64-bit value: both words are read live (DESIGN CHOICE, log entry 102). -/
def wideLo : List Nat :=
  [TIM_DOM_GM_LO 0, TIM_DOM_GM_LO 1, TIM_USER_OFS_LO 0, TIM_USER_OFS_LO 1, BSN_LANE_FAIL_LO, POS_CHN_HW_LO,
   POS_MAN_NEXT_LO, POS_TICK_LO, ADC_STAMP_LO 0, ADC_STAMP_LO 1, ADC_ISTAMP_LO 0, ADC_ISTAMP_LO 1, GAU_CH_EN_LO,
   GAU_MASK_LO, GAU_VALUE_LO]

/-- The offset is the LO word of a 64-bit value. -/
def isWideLo (off : Nat) : Bool := wideLo.contains off || (hitOf POS_CH_POS_LO 256 off).isSome

/-- The offset is the HI word of a 64-bit value. -/
def isWideHi (off : Nat) : Bool := decide (4 ≤ off) && isWideLo (off - 4)

/-- The base whose lowest word lies at an offset (R277). -/
def baseLo (off : Nat) : Option Nat :=
  if off = TIM_TB0_LO then some 0
  else if off = TIM_TBk_W0 0 then some 1
  else if off = TIM_TBk_W0 1 then some 2
  else if off = TIM_TBk_W0 2 then some 3
  else if off = TIM_TB4_LO then some 4
  else if off = TIM_TB5_LO then some 5
  else if off = TIM_TBu_LO 0 then some 6
  else if off = TIM_TBu_LO 1 then some 7
  else none

/-- The RC bits of a register (R5). -/
def rcMask (off : Nat) : Nat :=
  match regRow off with
  | some r => r.rc
  | none => 0

/-- A read of a register without a rule of its own: the current value, its RC fields cleared in the same access. Of the
events of the same tick the read returns nothing and the field keeps them (R5, R6). -/
def Chip.readPlain (c : Chip) (off : Nat) : Chip × Word :=
  let v := c.view off
  let m := rcMask off
  if m = 0 then (c, w32 v)
  else
    match c.edge off with
    | none => (c.clearMask off m, w32 v)
    | some e =>
      let rest := (2 ^ 32 - 1) ^^^ m
      ((c.setReg off ((c.reg off &&& rest) ||| (e.2.toNat &&& m))).setEdge off (w32 (e.1.toNat &&& rest), e.2),
        w32 ((v &&& rest) ||| (e.1.toNat &&& m)))

/-- A read in the time-base region: the bases, their snapshots and the Tally (R277, R290). -/
def Chip.readTim (c : Chip) (i : Iface) (off : Nat) : Option (Chip × Word) :=
  match baseLo off with
  | some k => some (c.readBase i k)
  | none =>
    if off = TIM_TB0_HI ∨ off = TIM_TB4_HI ∨ off = TIM_TB5_HI ∨ off = TIM_TBu_HI 0 ∨ off = TIM_TBu_HI 1 then
      some (c, (c.snap i).hi)
    else if off = TIM_TBk_W1 0 ∨ off = TIM_TBk_W1 1 ∨ off = TIM_TBk_W1 2 then some (c, (c.snap i).wide.getD 0 0)
    else if off = TIM_TBk_W2 0 ∨ off = TIM_TBk_W2 1 ∨ off = TIM_TBk_W2 2 then some (c, (c.snap i).wide.getD 1 0)
    else if off = TIM_TALLY_W0 then some (c.tallyRead i)
    else if off = TIM_TALLY_W1 then some (c, (c.snap i).tally.getD 0 0)
    else if off = TIM_TALLY_W2 then some (c, (c.snap i).tally.getD 1 0)
    else if off = TIM_TALLY_W3 then some (c, (c.snap i).tally.getD 2 0)
    else none

/-- Offset of a FIFO's DATA_LO register; DATA_HI is the next word. -/
def LadId.data : LadId → Nat
  | .tow i => TOW_LAD_DATA_LO i.val
  | .slu i => SLU_LAD_DATA_LO i.val
  | .adc x => ADC_LAD_DATA_LO x.val
  | .gau => GAU_LAD_DATA_LO
  | .evt i => HST_EVT_LAD_DATA_LO i.val
  | .rxf m => HST_RXF_LAD_DATA_LO m.val

/-- Offset of a FIFO's TAG register. -/
def LadId.tagReg : LadId → Nat
  | .tow i => TOW_LAD_TAG i.val
  | .slu i => SLU_LAD_TAG i.val
  | .adc x => ADC_LAD_TAG x.val
  | .gau => GAU_LAD_TAG
  | .evt i => HST_EVT_LAD_TAG i.val
  | .rxf m => HST_RXF_LAD_TAG m.val

/-- A read of a Lading FIFO's data or tag registers (R243). -/
def Chip.readLad (c : Chip) (i : Iface) (off : Nat) : Option (Chip × Word) :=
  match LadId.all.find? (fun l => l.data == off || l.data + 4 == off || l.tagReg == off) with
  | some l =>
    if l.data = off then some (c.ladRead i l)
    else if l.data + 4 = off then some (c, (c.snap i).hi)
    else some (c, (c.snap i).tag)
  | none => none

/-- A read of LKP_DEPTH: the largest depth since this read starts at the current depth (R433). -/
def Chip.readDepth (c : Chip) (off : Nat) : Chip × Word :=
  let r := c.readPlain off
  match hitOf (fun i => LKP_DEPTH (i / 8) (i % 8)) 24 off with
  | none => r
  | some i =>
    let x := LKP_DEPTH__MAX (i / 8) (i % 8)
    (r.1.setReg off (putBits (r.1.reg off) x.hi x.lo (max (r.1.fld x) (r.1.list (i / 8) (i % 8)).length)), r.2)

/-- A read of a BAR0 word by an interface, with its side effects (R9, R10, R147, R243, R290, R460, R463, R464). -/
def Chip.readReg (c : Chip) (i : Iface) (off : Nat) : Chip × Word :=
  if 0x4000 ≤ off ∧ off < 0x5000 then c.rdWinRead i ((off - 0x4000) / 4)
  else if 0x1000 ≤ off ∧ off < 0x4000 then (c, w32 (c.ringWord off))
  else if 0x200 ≤ off ∧ off < 0x400 then (c, tabGet msixReset c.hst.msix off)
  else if off = 0x400 then (c, w32 c.hst.pba)
  else if 0x404 ≤ off ∧ off < 0x480 then (c, 0)
  else if 0x480 ≤ off ∧ off < 0x500 then (c, tabGet (fun _ => 0) c.hst.fast off)
  else
    match c.readTim i off with
    | some r => r
    | none =>
      match c.readLad i off with
      | some r => r
      | none =>
        if isWideLo off then c.snapLo i (c.view off + c.view (off + 4) * 2 ^ 32)
        else if isWideHi off then (c, (c.snap i).hi)
        else if (regRow off).isSome then c.readDepth off
        else (c, 0)

/-- Reads of consecutive words in ascending order. -/
def Chip.readRegs (c : Chip) (i : Iface) (off : Nat) : Nat → Chip × List Word
  | 0 => (c, [])
  | n + 1 =>
    let r := c.readReg i off
    let t := Chip.readRegs r.1 i (off + 4) n
    (t.1, r.2 :: t.2)

/-- A read request for BAR0 registers. On PCIe one of 1 DW, or of 2 DW aligned to 8 bytes, is answered with its words, read in
ascending order; any other size is completed with Unsupported Request (R463). -/
def Chip.readRequest (c : Chip) (i : Iface) (r : RegRead) : Chip :=
  if i = .pcie ∧ r.ndw ≠ 1 ∧ (r.ndw ≠ 2 ∨ r.off % 8 ≠ 0) then c.emit (.unsupported .pcie)
  else
    let q := c.readRegs i r.off r.ndw
    q.1.each q.2 (fun c w => c.emit (.read i w))

/-- A read of the LO word of a 64-bit value (R9). -/
def execWideValueLoRead (t : Nat) (ifc : Iface) (r : RegRead) (s : State) : Host.Outcome State Fault Refusal :=
  s.access t ifc (fun c => c.readRequest ifc r)

/-- A read of a register with RC fields (R6). -/
def execRcFieldRead (t : Nat) (ifc : Iface) (r : RegRead) (s : State) : Host.Outcome State Fault Refusal :=
  s.access t ifc (fun c => c.readRequest ifc r)

/-- A read of a Lading FIFO's DATA_LO (R242, R243). -/
def execLadingDataLoRead (t : Nat) (ifc : Iface) (l : LadId) (s : State) : Host.Outcome State Fault Refusal :=
  s.access t ifc (fun c => Chip.answer (c.ladRead ifc l) ifc)

/-- A write of 1 to a Lading FIFO's FLUSH (R241). -/
def execLadingFlush (t : Nat) (ifc : Iface) (l : LadId) (s : State) : Host.Outcome State Fault Refusal :=
  s.access t ifc (fun c => c.ladFlush l)

/-- FLUSH_TMO of a pending flush passes (R241). -/
def execFlushTimeout (t : Nat) (l : LadId) (s : State) : Host.Outcome State Fault Refusal :=
  s.event t (fun c => c.ladFlushTimeout l)

/-! ## The fast status page (R480) -/

/-- The words of the fast status page from 0x0484 on. -/
def Chip.fastWords (c : Chip) : List Word :=
  ([SYS_POUND_NUM, SYS_STATE, SYS_POUND_STATUS, AQU_ROLE, WEI_STATUS, LCK_STATUS, LKP_STATUS, BSN_PLAN_STAT, TOW_STATUS,
    POS_MAN_STATUS, POS_CHN_STATUS].map (fun r => w32 (c.view r))) ++ [w32 c.pnd.cn, w32 (c.pnd.cn / 2 ^ 32)]

/-- Every word of the page is written in one tick and FAST_SEQ counts the update (R480). -/
def Chip.fastUpdate (c : Chip) : Chip :=
  let seq := (tabGet (fun _ => 0) c.hst.fast 0x480).toNat + 1
  let m := (w32 seq :: c.fastWords).zipIdx.foldl (fun m e => tabPut (fun _ => (0 : Word)) (0x480 + 4 * e.2) e.1 m) c.hst.fast
  { c with hst := { c.hst with fast := m } }

/-- Tick 8 of a pound (R480). -/
def execFastStatusUpdate (s : State) : Host.Outcome State Fault Refusal :=
  s.event (s.chip.pnd.start + 8) Chip.fastUpdate

end Sys2Proof.Machine
end

