-- ==== Sys2Proof/Machine/Bar0.lean ====
section
/-! DEFINITION. Writes of BAR0 words with the owners' rules, the register access commands, the BAR2 window, and the
commands that report the device and its budgets (R460 to R467, R496). -/

namespace Sys2Proof.Machine

/-! ## Writes -/

/-- A write of a TIM_ register with a rule of its own; `none` for any other (R278, R282, R283, R286, R291). -/
def Chip.timWrite (c : Chip) (off v : Nat) : Option Chip :=
  let rej := c.raise TIM_STATUS__CFG_REJ
  if off = TIM_SNAP_CTL then some (if v.testBit 0 then c.snapBases else c)
  else if off = TIM_SEL_CFG then
    some (if bits v 1 0 = 3 ∨ bits v 28 16 = 0 ∨ 6553 < bits v 28 16 then rej
      else
        let before := c.tb3
        let c := c.writeBits off v
        ({ c with tim := { c.tim with evald := false } }).tb3Evaluate before (fun _ => false))
  else
    match hitOf TIM_DOM_CFG 2 off, hitOf TIM_DOM_CFG2 2 off, hitOf TIM_LAT 2 off, hitOf TIM_USER_CFG 2 off,
      hitOf TIM_USER_OFS_HI 2 off with
    | some d, _, _, _, _ =>
      some (if c.dryOrMoored = false ∨ bits v 30 29 = 3 then rej
        else
          let before := c.tb3
          let c := c.writeBits off v
          let c := if v.testBit 31 = false then c.setDomState d 0
            else if c.domState d = 0 then c.setDomState d 1 else c
          c.pathRefresh.tb3Evaluate before (fun _ => false))
    | _, some _, _, _, _ =>
      some (if c.dryOrMoored then
          let before := c.tb3
          (c.writeBits off v).pathRefresh.tb3Evaluate before (fun _ => false)
        else rej)
    | _, _, some _, _, _ => some (if c.dryOrMoored then c.writeBits off v else rej)
    | _, _, _, some u, _ => some (c.writeUserCfg u v)
    | _, _, _, _, some u => some (c.writeUserOfs u v)
    | _, _, _, _, _ => none

/-- A write of an HST_ register with a rule of its own; `none` for any other (R469, R471, R472, R475, R481). -/
def Chip.hstWrite (c : Chip) (off v : Nat) : Option Chip :=
  if off = HST_RING_CTL then some (c.ringEnable v)
  else if off = HST_SQ_TAIL then some (c.doorbell v)
  else if off = HST_CQ_HEAD then some (c.cqHead v)
  else if off = HST_VEC_REARM then some (c.vecRearm v)
  else if off = HST_MDIO_CMD then some (c.mdioWrite v)
  else if (HST_ETH_CFG 0 ≤ off ∧ off ≤ HST_ETH_MAC_HI 1) ∨ (HST_ETH_CNT0 0 ≤ off ∧ off ≤ HST_ETH_CNT1 1) then
    some (if c.dryOrMoored then c.writeBits off v else c.raise HST_STATUS__CFG_REJ)
  else none

/-- A write of an LKP_ register: a value R429 excludes is ignored and sets CFG_REJ; `none` for any other region. -/
def Chip.lkpRegWrite (c : Chip) (off v : Nat) : Chip :=
  match lkpWrite off v with
  | some v => c.writeBits off v
  | none => c.raise LKP_STATUS__CFG_REJ

/-- A write of a Lading FIFO's _LAD_CTL: FLUSH_TMO takes the value and FLUSH acts (R241); `none` for any other. -/
def Chip.ladWrite (c : Chip) (off v : Nat) : Option Chip :=
  match LadId.all.find? (fun l => l.ctl == off) with
  | some l =>
    let c := c.writeBits off v
    some (if v.testBit 31 then c.ladFlush l else c)
  | none => none

/-- A write of a SYS_ register with a rule of its own; `none` for any other (R28, R36). -/
def Chip.sysWrite (c : Chip) (off v : Nat) : Option Chip :=
  if off = SYS_POUND_CFG then some (c.poundCfgWrite v)
  else if off = SYS_POUND_OFFSET then some (c.poundOffsetWrite v)
  else (hitOf SYS_CMARK 32 off).map (fun m => c.cmarkWrite m v)

/-- The rule of the block that owns a register; `none` where the access codes alone govern the write. -/
def Chip.ownerWrite (c : Chip) (i : Iface) (off v : Nat) : Option Chip :=
  if off < 0x200 then c.hstWrite off v
  else if off < 0x700 then c.sysWrite off v
  else if off < 0xA00 then c.timWrite off v
  else if off < 0x1000 then c.lckWrite off v
  else if off < 0x5400 then (if off = BSN_RD_SEL then some (c.rdSelWrite i v) else c.bsnWrite off v)
  else if off < 0x9000 then
    (match c.chnWrite off v with
     | some c => some c
     | none => c.posWrite off v)
  else if off < 0xB000 then c.towWrite off v
  else if off < 0xBC00 then none
  else if off < 0xC000 then c.capCfgWrite off v
  else if off < 0xC200 then c.adcWrite off v
  else if off < 0xC600 then c.gauWrite off v
  else if off < 0xCE00 then some (c.lkpRegWrite off v)
  else if off < 0xD000 then c.aquWrite off v
  else c.logWr off v

/-- A word of the MSI-X table is written; of a vector's control word only the mask bit is kept (R475). -/
def Chip.msixWrite (c : Chip) (off v : Nat) : Chip :=
  let v := if off % 16 = 12 then v % 2 else v
  { c with hst := { c.hst with msix := tabPut msixReset off (w32 v) c.hst.msix } }

/-- The bits of a word of a submission entry that are not reserved (R8, R468). -/
def sqMask (off : Nat) : Nat :=
  match off % 32 with
  | 0x10 => 0xFFFF
  | 0x14 => 1
  | 0x18 | 0x1C => 0
  | _ => 2 ^ 32 - 1

/-- A write of a BAR0 word by an interface: the owner's rule, else the access codes; an address that holds no register
discards it (R5, R460, R463, R464). -/
def Chip.writeReg (c : Chip) (i : Iface) (off v : Nat) : Chip :=
  if 0x1000 ≤ off ∧ off < 0x3000 then c.sqWrite off (w32 (v &&& sqMask off))
  else if 0x3000 ≤ off ∧ off < 0x5000 then c
  else if 0x200 ≤ off ∧ off < 0x400 then c.msixWrite off v
  else if (regRow off).isNone then c
  else
    match c.ladWrite off v with
    | some c => c
    | none =>
      match c.ownerWrite i off v with
      | some c => c
      | none => c.writeBits off v

/-- Writes of consecutive words in ascending order. -/
def Chip.writeRegs (c : Chip) (i : Iface) (off : Nat) : List Word → Chip
  | [] => c
  | v :: t => Chip.writeRegs (c.writeReg i off v.toNat) i (off + 4) t

/-- A write BAR0 or BAR2 does not serve: discarded with ACC_ERR (R463, R467). -/
def Chip.accErr (c : Chip) : Chip := c.hstErr HST_STATUS__ACC_ERR HST_INT_STATUS__ACC_ERR

/-- The sizes of R463: one DW, two DW aligned to 8 bytes, up to eight DW within one submission entry. -/
def bar0SizeOk (off n : Nat) : Bool :=
  decide (off % 4 = 0) && (n == 1 || (n == 2 && off % 8 == 0)
    || (decide (0x1000 ≤ off ∧ off < 0x3000 ∧ 1 ≤ n ∧ off % 32 + 4 * n ≤ 32)))

/-- A memory write request to BAR0; none is answered in D3hot (R462, R463). -/
def execBar0Write (t : Nat) (off : Nat) (vs : List Word) (s : State) : Host.Outcome State Fault Refusal :=
  s.access t .pcie (fun c => if bar0SizeOk off vs.length then c.writeRegs .pcie off vs else c.accErr)

/-! ## Register access commands (R496) -/

/-- REG_READ's rules. -/
def Chip.regRead (c : Chip) (k : Intake) : Chip × Answer :=
  let off := wordAt k.payload 0
  let n := wordAt k.payload 1
  if off % 4 ≠ 0 ∨ 0x10000 ≤ off then (c, ansArg 0)
  else if n = 0 ∨ 1024 < n ∨ 0x10000 < off + 4 * n then (c, ansArg 1)
  else
    let r := c.readRegs k.org.ifc off n
    (r.1, .now stOK 0 r.2)

/-- The registers the boot ROM reads: HST_ID and the LOG_ region (R509). -/
def romReads (off n : Nat) : Bool :=
  decide (off = 0 ∧ n = 1) || decide (0xD000 ≤ off ∧ off + 4 * n ≤ 0xD400)

/-- REG_READ's rules under the boot ROM (R509). -/
def Chip.regReadRom (c : Chip) (k : Intake) : Chip × Answer :=
  if romReads (wordAt k.payload 0) (wordAt k.payload 1) then c.regRead k else (c, ansArg 0)

/-- REG_READ (R496); the boot ROM serves it too (R509). -/
def execRegRead (t : Nat) (ifc : Iface) (tag target : Word) (pl : List Word) (s : State) :
    Host.Outcome State Fault Refusal :=
  s.act (fun c => c.command t 0x0104 ifc tag target pl (some Chip.regReadRom) Chip.regRead)

/-- REG_WRITE's rules: ignored writes are reported only by the owner's CFG_REJ (R496). -/
def Chip.regWrite (c : Chip) (k : Intake) : Chip × Answer :=
  let off := wordAt k.payload 0
  let n := wordAt k.payload 1
  if off % 4 ≠ 0 ∨ 0x10000 ≤ off then (c, ansArg 0)
  else if n = 0 ∨ 1024 < n ∨ 0x10000 < off + 4 * n then (c, ansArg 1)
  else (c.writeRegs k.org.ifc off ((k.payload.drop 2).take n), ansOK)

/-- REG_WRITE (R496). -/
def execRegWrite (t : Nat) (ifc : Iface) (tag target : Word) (pl : List Word) (s : State) :
    Host.Outcome State Fault Refusal :=
  s.command t 0x0105 ifc tag target pl Chip.regWrite

/-- GET_INFO's words; `rom` says that the boot ROM answers (R496, R509). -/
def Chip.infoWords (c : Chip) (rom : Bool) : List Word :=
  [w32 (c.view HST_ID), if rom then 0 else w32 (c.reg LOG_FW_VER), if rom then 0 else c.hst.stage.activeId,
   w32 (c.reg WEI_PSET_ID), w32 (c.opState + c.role * 2 ^ 4 + b2n rom * 2 ^ 8)]

/-- GET_INFO (R496); the boot ROM serves it too (R509). -/
def execGetInfo (t : Nat) (ifc : Iface) (tag target : Word) (pl : List Word) (s : State) :
    Host.Outcome State Fault Refusal :=
  s.act (fun c => c.command t 0x0101 ifc tag target pl (some (fun c _ => (c, .now stOK 0 (c.infoWords true))))
    (fun c _ => (c, .now stOK 0 (c.infoWords false))))

/-! ## Budgets and Head (R496) -/

/-- HEAD_STATUS's words, all of one tick (R432). -/
def Chip.headWords (c : Chip) : List Word :=
  ([LKP_STATUS, LKP_HEAD, LKP_TJ, LKP_E_VIN, LKP_E_BSN, LKP_E_SLU, LKP_E_MGT, LKP_E_FIXED].map (fun r => w32 (c.view r)))
    ++ (List.range 10).flatMap (fun i =>
      [LKP_CLS_GRANT i, LKP_CLS_DEBT i, LKP_CLS_TUSED i, LKP_CLS_EUSED i, LKP_CLS_TLAST i, LKP_CLS_ELAST i].map
        (fun r => w32 (c.view r)))

/-- HEAD_STATUS (R432). -/
def execHeadStatus (t : Nat) (ifc : Iface) (tag target : Word) (pl : List Word) (s : State) :
    Host.Outcome State Fault Refusal :=
  s.command t 0x0D01 ifc tag target pl (fun c _ => (c, .now stOK 0 c.headWords))

/-- BUDGET_SET's rules: neither value is written when the registers would ignore one (R429, R496). -/
def Chip.budgetSet (c : Chip) (k : Intake) : Chip × Answer :=
  let i := k.target.toNat
  let tb := wordAt k.payload 0
  let eb := wordAt k.payload 1
  if lkpWrite (LKP_CLS_TB i) tb = none then (c, ansArg 0)
  else if lkpWrite (LKP_CLS_EB i) eb = none then (c, ansArg 1)
  else ((c.writeBits (LKP_CLS_TB i) tb).writeBits (LKP_CLS_EB i) eb, ansOK)

/-- BUDGET_SET (R429). -/
def execBudgetSet (t : Nat) (ifc : Iface) (tag target : Word) (pl : List Word) (s : State) :
    Host.Outcome State Fault Refusal :=
  s.command t 0x0D02 ifc tag target pl Chip.budgetSet

/-- LKP_STATS's words: the class's histogram, its counts and every list's depth, none cleared (R431, R496). -/
def Chip.lkpStats (c : Chip) (k : Intake) : Chip × Answer :=
  let i := k.target.toNat
  (c, .now stOK 0 ((List.range 16).map (fun b => w32 (c.reg (LKP_HIST i b)))
    ++ [w32 (c.fld (LKP_CLS_CNT__GATE_CNT i)), w32 (c.fld (LKP_CLS_CNT__DROP_CNT i))]
    ++ (List.range 24).map (fun j => w32 (c.view (LKP_DEPTH (j / 8) (j % 8))))))

/-- LKP_STATS (R431). -/
def execLkpStats (t : Nat) (ifc : Iface) (tag target : Word) (pl : List Word) (s : State) :
    Host.Outcome State Fault Refusal :=
  s.command t 0x0D03 ifc tag target pl Chip.lkpStats

/-! ## BAR2 (R467) -/

/-- The DW at a BAR2 offset: Gauge record memory, the Logbook's two regions, 0 elsewhere. -/
def Chip.bar2Word (c : Chip) (a : Nat) : Word :=
  if a < 0x800000 then (c.gauWords a 1).getD 0 0
  else if a < 0x1000000 then memWord 0 c.log.mem a
  else 0

/-- The finding of an uncorrectable error in a DW read through BAR2: the owner's UE counter, the ECC_UE event and
BAR2_UE (R467, R514). -/
def Chip.bar2Ue (c : Chip) (a : Nat) : Chip :=
  let owner := if a < 0x800000 then 7 else 11
  let c := (c.each (scrubCount owner true).1 (fun c x => c.count x 1)).raise HST_STATUS__BAR2_UE
  (c.logEvent 16 (w32 owner) (w32 a) 0).logTrigger 4

/-- `n` words of record memory as a BAR2 read gives them, 0 for a DW with an uncorrectable error; `ue` are the offsets of such
DWs (R467). -/
def Chip.gauReadUe (c : Chip) (a n : Nat) (ue : List Nat) : Chip × List Word :=
  let at_ := (List.range n).map (fun i => (a + 4 * i) % gauBytes)
  (c.each (at_.filter ue.contains) Chip.bar2Ue,
    at_.map (fun x => if ue.contains x then 0 else memWord 0 c.mem.gau x))

/-- GAU_READ (R496). -/
def execGauRead (e : ReadEnv) (ifc : Iface) (tag target : Word) (pl : List Word) (s : State) :
    Host.Outcome State Fault Refusal :=
  s.command e.t 0x0A05 ifc tag target pl (fun c k =>
    let a := wordAt k.payload 0
    let n := wordAt k.payload 1
    if a % 4 ≠ 0 ∨ gauBytes ≤ a then (c, ansArg 0)
    else if n = 0 ∨ 1024 < n then (c, ansArg 1)
    else let r := c.gauReadUe a n e.ue; (r.1, .now stOK 0 r.2))

/-- An access to BAR2: a write is discarded with ACC_ERR; a read returns its words, 0 for a DW with an uncorrectable
error. `ue` are the offsets of such DWs. -/
def Chip.bar2 (c : Chip) (off : Nat) (write : Bool) (ndw : Nat) (ue : List Nat) : Chip :=
  if write then c.accErr
  else
    c.each (List.range ndw) (fun c i =>
      let a := off + 4 * i
      if ue.contains a && decide (a < 0x1000000) then (c.bar2Ue a).emit (.read .pcie 0)
      else c.emit (.read .pcie (c.bar2Word a)))

/-- An access to BAR2 (R467). -/
def execBar2Access (t : Nat) (off : Nat) (write : Bool) (ndw : Nat) (ue : List Nat) (s : State) :
    Host.Outcome State Fault Refusal :=
  s.access t .pcie (fun c => c.bar2 off write ndw ue)

end Sys2Proof.Machine
end

