-- ==== Sys2Proof/Machine/ImgCheck.lean ====
section
/-! DEFINITION. The checks of a configuration image: header and section table, and the owners' checks of each section (R49, R161, R186, R244 to R249, R269, R307, R466, R498, R499). -/

namespace Sys2Proof.Machine

/-! ## The image in staging (R498) -/

/-- A word of the staged image. -/
def Staging.w (g : Staging) (o : Nat) : Nat := (memWord 0 g.bytes o).toNat

/-- A section: identifier, byte offset and length. -/
structure Section where
  id : Nat
  off : Nat
  len : Nat
  deriving DecidableEq, Repr

/-- The section table, in the order it is written. -/
def Staging.table (g : Staging) (base n : Nat) : List Section :=
  (List.range n).map (fun i =>
    ⟨bits (g.w (base + 32 + 8 * i)) 31 24, g.w (base + 32 + 8 * i + 4), bits (g.w (base + 32 + 8 * i)) 23 0⟩)

/-- Header, CRC and section table pass (R499). -/
def Staging.headOk (g : Staging) : Bool :=
  let n := bits (g.w 0) 7 0
  let t := g.table 0 n
  bits (g.w 0) 31 24 == 1 && decide (1 ≤ n ∧ n ≤ 16) && g.w 8 == g.size
    && crc32 (memBytes 0 g.bytes 16 (g.size - 16)) == w32 (g.w 0xC)
    && decide (32 + 8 * n ≤ g.size)
    && t.all (fun x => decide (1 ≤ x.id ∧ x.id ≤ 6) && decide (x.off + x.len ≤ g.size))
    && decide ((t.map (·.id)).Nodup)

/-- The section of an identifier. -/
def Staging.sec (g : Staging) (id : Nat) : Option Section := (g.table 0 (bits (g.w 0) 7 0)).find? (fun x => x.id == id)

/-- A section's bytes, at most `n` of them. -/
def Staging.secBytes (g : Staging) (x : Section) (n : Nat) : List Byte := memBytes 0 g.bytes x.off (min x.len n)

/-- The word at a byte offset of a section. -/
def Staging.secW (g : Staging) (x : Section) (o : Nat) : Nat := g.w (x.off + o)

/-- Every byte of the image has been staged. -/
def Staging.whole (g : Staging) : Bool := decide (32 ≤ g.size) && g.staged == [(0, g.size)]

/-- The staged ranges with a range added, kept merged and ascending. -/
def addRange (a b : Nat) : List (Nat × Nat) → List (Nat × Nat)
  | [] => [(a, b)]
  | (x, y) :: t =>
    if b < x then (a, b) :: (x, y) :: t
    else if y < a then (x, y) :: addRange a b t
    else addRange (min a x) (max b y) t

/-! ## The sections in place (R498, R500) -/

/-- The window a section holds an image of, and its bytes. -/
def secWin : Nat → Option (Nat × Nat)
  | 1 => some (0, 0x10000)
  | 2 => some (1, 0x400000)
  | 4 => some (2, 0x20000)
  | 5 => some (3, 0x8000)
  | _ => none

/-- The Towpath image of a section as an image of its own. -/
def Staging.towSec (g : Staging) (x : Section) (id : Nat) : Option Section :=
  ((g.table x.off (bits (g.secW x 0) 7 0)).find? (fun y => y.id == id)).map (fun y => { y with off := x.off + y.off })

/-- Where the Towpath sections 2 to 6 go in the Towpath's tables. -/
def towPlace : Nat → Nat
  | 2 => 0
  | 3 => 0x10000
  | 4 => 0x14000
  | 5 => towBarges
  | _ => towSets

/-- Towpath section 1: both configuration registers of every port. -/
def Chip.towPorts (c : Chip) (g : Staging) (y : Section) : Chip :=
  c.each (List.range 64) (fun c p =>
    let put (c : Chip) (off v : Nat) : Chip := c.setReg off (v &&& (match regRow off with
      | some r => r.rw
      | none => 0))
    put (put c (TOW_PORT_CFG p) (g.secW y (8 * p))) (TOW_PORT_CFG2 p) (g.secW y (8 * p + 4)))

/-- The Towpath tables and port registers with a Towpath image in place. -/
def Chip.towPut (c : Chip) (g : Staging) (x : Section) : Chip :=
  let c := match g.towSec x 1 with
    | some y => c.towPorts g y
    | none => c
  c.each [2, 3, 4, 5, 6] (fun c id =>
    match g.towSec x id with
    | none => c
    | some y =>
      let at_ := towPlace id
      let ws := (List.range (y.len / 4)).map (fun i => w32 (g.secW y (4 * i) &&& towMask (at_ + 4 * i)))
      { c with mem := { c.mem with tow := memWriteWords 0 at_ ws c.mem.tow } })

/-- The contents that stand with the image's sections 1 to 5 laid over them; no byte goes beyond its window. -/
def Chip.imgOver (c : Chip) (g : Staging) : Chip :=
  let c := c.each [1, 2, 4, 5] (fun c id =>
    match g.sec id, secWin id with
    | some x, some w => c.setWin w.1 (winWrite w.1 0 (g.secBytes x w.2) (c.winMem w.1))
    | _, _ => c)
  match g.sec 3 with
  | some x => c.towPut g x
  | none => c

/-! ## Lock engine: R49 -/

/-- DETAIL of R49: flight, code, and the bank slot or region. -/
def lckDetail (f code slot : Nat) : Nat := f + code * 2 ^ 8 + slot % 8 * 2 ^ 5 + slot / 8 % 2 * 2 ^ 12

/-- Word 0 of a region entry (R92). -/
def Chip.regionW (c : Chip) (f r : Nat) : Nat := c.lckW (0x8000 + 256 * f + 16 * r)

/-- The axes a flight's inputs name. -/
def Chip.fAxes (c : Chip) (f : Nat) : List Nat := (List.range (c.fNu f)).map (c.fAxis f)

/-- Sum of NX over configured flights. -/
def Chip.sumNx (c : Chip) : Nat := (c.enFlights.map c.fNx).foldl (· + ·) 0

/-- The lowest VALID slot of a flight whose bank fails a condition. -/
def Chip.badBank (c : Chip) (f : Nat) (ok : Nat → Bool) : Option Nat :=
  (List.range 16).find? (fun b => c.bankValid f b && !ok b)

/-- A check of R49 for flight f: the slot or region of its failure, 0 for the checks that name none. -/
def Chip.lckCheck (c : Chip) (f code : Nat) : Option Nat :=
  let no (ok : Bool) : Option Nat := if ok then none else some 0
  let ny := c.fNy f
  match code with
  | 1 => no (decide (c.fSlot f < c.fDivP f))
  | 2 => no ((!c.fPair f || c.fUnit f % 2 == 0) && (c.fPair f || decide (c.fNx f ≤ 32)))
  | 3 => no (decide (1 ≤ c.fNx f ∧ c.fNx f ≤ 64 ∧ 1 ≤ c.fNu f ∧ c.fNu f ≤ 16 ∧ 1 ≤ ny ∧ ny ≤ 32) && decide (c.sumNx ≤ 2048))
  | 4 => no (decide (c.fAxes f).Nodup && c.enFlights.all (fun g => g == f || (c.fAxes g).all (fun a => !(c.fAxes f).contains a)))
  | 5 => no ((List.range ny).all (fun m =>
      let w := c.measW f m 0
      match bits w 11 10 with
      | 3 => false
      | 2 => true
      | _ => decide (bits w 9 0 < 256)))
  | 6 => no ((c.intEntries f).all (fun i =>
        let w := c.intEntry f i
        decide (istate w < c.fNx f ∧ imeas w < ny ∧ iref w < c.fNu f)) && decide (c.intStates f).Nodup)
  | 7 => c.badBank f (fun b => c.bankCheck7 f b (c.bankPtr f b))
  | 8 | 9 | 10 => c.badBank f (fun b => c.bankCheck f (c.bankPtr f b) code)
  | 11 => no ((List.range 16).any (c.bankValid f))
  | 12 => no (c.bankValid f (bits (c.fCtl f) 3 0) && (!(c.fCtl f).testBit 13 || c.bankValid f (bits (c.fCtl f) 11 8)))
  | _ => (List.range 16).find? (fun r =>
      let w := c.regionW f r
      w.testBit 31 && !(decide (bits w 4 0 < ny) && (!w.testBit 29 || decide (bits w 12 8 < ny))))

/-- The first failure of R49: flights ascending, codes ascending; its DETAIL. -/
def Chip.lckFails (c : Chip) : Option Nat :=
  c.enFlights.findSome? (fun f =>
    ((List.range 13).map (· + 1)).findSome? (fun code => (c.lckCheck f code).map (lckDetail f code)))

/-! ## Towpath: R269 -/

/-- The length of each Towpath section (R269). -/
def towLen : Nat → Nat
  | 1 => 512
  | 2 => 65536
  | 3 => 16384
  | 4 => 4096
  | 5 => 8192
  | _ => 262144

/-- Check 7: header and section table of the Towpath image; the index of the failure. -/
def Staging.towHead (g : Staging) (x : Section) : Option Nat :=
  let n := bits (g.secW x 0) 7 0
  let t := g.table x.off n
  if x.len < 32 ∨ bits (g.secW x 0) 31 24 ≠ 1 ∨ g.secW x 8 ≠ x.len ∨ x.len < 32 + 8 * n
      ∨ crc32 (memBytes 0 g.bytes (x.off + 16) (x.len - 16)) ≠ w32 (g.secW x 0xC) then some 0
  else
    (t.zipIdx.find? (fun y => !(decide (1 ≤ y.1.id ∧ y.1.id ≤ 6) && decide (y.1.off + y.1.len ≤ x.len)
      && y.1.len == towLen y.1.id && (t.take y.2).all (fun z => z.id != y.1.id)))).map (fun y => y.1.id)

/-- A receive-map word fits check 4. -/
def mapFits (w : Nat) : Bool :=
  let n := bits w 18 10
  let d := bits w 9 0
  match bits w 31 28 with
  | 1 => n == 0 && decide (d ≤ 255)
  | 2 => decide (1 ≤ n ∧ n ≤ 504 ∧ d + n ≤ 1024)
  | 3 => n == 0
  | 4 => n == 0 && decide (d ≤ 255)
  | 5 => n == 0 && decide (1 ≤ d ∧ d ≤ 15)
  | _ => false

/-- The map list lies inside the table: it ends by a word of KIND 0 or after 16 entries, before the table does. -/
def Chip.mapInside (c : Chip) (base : Nat) : Bool := decide (base + min ((c.mapList base).length + 1) 16 ≤ 4096)

/-- A check of R269 on an enabled schedule entry. -/
def Chip.entryCheck (c : Chip) (e code : Nat) : Bool :=
  let w := c.towW (16 * e)
  match code with
  | 1 => c.flag (TOW_PORT_CFG__EN (c.ePort e)) && (c.eMgmt e || decide (c.eBarge e ≤ c.fld (TOW_PORT_CFG__NBM1 (c.ePort e))))
  | 2 => decide (bits w 27 25 < 2 ^ bits w 29 28)
  | 3 => c.entryFits c.P e
  | _ => c.eMgmt e || (c.mapInside (c.eMap e) && (c.mapList (c.eMap e)).all mapFits)

/-- Check 5 on the command-map entry of barge i. -/
def Chip.sliceCheck (c : Chip) (i : Nat) : Bool :=
  let w := c.towW (0x14000 + 8 * i)
  let n := bits w 28 24
  let naux := bits w 23 16
  let b := c.bargeW i 2
  !w.testBit 31 || (decide (n ≤ 16 ∧ naux ≤ 64 ∧ bits (c.towW (0x14000 + 8 * i + 4)) 9 0 + naux ≤ 1024)
    && (n == 0 || (match c.driver (bits w 7 0) with
      | none => false
      | some d => (List.range n).all (fun k => (c.driver (bits w 7 0 + k)).map (·.1) == some d.1)
          && c.fDivP d.1 == 2 ^ bits b 5 4 && c.fSlot d.1 == bits b 10 8)))

/-- Check 6 on port p: APPLY lies in its range; NB is at least 1 and at most 8 barges are PRESENT by their fields' widths. -/
def Chip.portCheck (c : Chip) (p : Nat) : Bool := !c.flag (TOW_PORT_CFG__EN p) || c.portFits c.P p

/-- The first failure of R269: its DETAIL. -/
def Chip.towFails (c : Chip) (g : Staging) (x : Section) : Option Nat :=
  match g.towHead x with
  | some i => some (7 * 2 ^ 12 + i)
  | none =>
    let a := (List.range 4096).findSome? (fun e =>
      if c.eEn e then ([1, 2, 3, 4].find? (fun k => !c.entryCheck e k)).map (fun k => k * 2 ^ 12 + e) else none)
    match a, (List.range 512).find? (fun i => !c.sliceCheck i), (List.range 64).find? (fun p => !c.portCheck p) with
    | some d, _, _ => some d
    | none, some i, _ => some (5 * 2 ^ 12 + i)
    | none, none, some p => some (6 * 2 ^ 12 + p)
    | none, none, none => none

/-! ## Sluice, planner, registers -/

/-- The chains whose words a Sluice section of `len` bytes holds. -/
def secChains (len : Nat) : List Nat := (List.range 64).filter (fun k => decide (1024 * k < len))

/-- The first chain that fails R307: its DETAIL. -/
def Chip.sluFails (c : Chip) (len : Nat) : Option Nat :=
  (secChains len).findSome? (fun k => (chainFails (memWords 0 c.mem.slu (1024 * k) 200)).map (chainDetail k))

/-- Planned joints the arm table allows (R161). -/
def Chip.armJoints (c : Chip) : Nat :=
  (((List.range 16).filter c.armEn).map c.armNj).foldl (· + ·) 0

/-- R161, NJ of R187, and the field ranges of R186, which bind an enabled planner. -/
def Chip.planOk (c : Chip) : Bool :=
  decide (c.armJoints ≤ 48) && ((List.range 16).filter c.armEn).all (fun a => decide (1 ≤ c.armNj a ∧ c.armNj a ≤ 8)) &&
    (!c.plEn ||
      (let dl := bits (c.plW 0) 15 8
       decide (1 ≤ dl ∧ dl < c.qPounds ∧ 1 ≤ bits (c.plW 4) 27 16 ∧ 1 ≤ bits (c.plW 4) 11 0)
         && fFinite (c.plW 0x34) && decide (0 ≤ c.plR 0x34 ∧ c.plR 0x34 ≤ 1)))

/-- A pair's offset names a register with an RW field that the operating state lets it write (R264, R459, R498). -/
def Chip.pairOk (c : Chip) (off : Nat) : Bool :=
  (match regRow off with
   | some r => r.rw != 0
   | none => false)
    && decide (c.opState = 0 ∨ (off ≠ AQU_CFG ∧ off ≠ TOW_MASTER_CFG))

/-- The pairs of a REGS section. -/
def Staging.pairs (g : Staging) (x : Section) : List (Nat × Nat) :=
  (List.range (x.len / 8)).map (fun i => (g.secW x (8 * i), g.secW x (8 * i + 4)))

/-! ## The checks of a commit (R499) -/

/-- The longest section of each identifier with a window. -/
def secTooLong (x : Section) : Bool :=
  match secWin x.id with
  | some w => decide (w.2 < x.len)
  | none => x.id == 6 && x.len % 8 != 0

/-- DETAIL of the first failure of a section whose length passed; `n` is the candidate with the image in place. -/
def Chip.secFails (c n : Chip) (g : Staging) (x : Section) : Option Nat :=
  match x.id with
  | 1 => n.lckFails
  | 2 => if (g.sec 1).isSome then none else n.lckFails
  | 3 => n.towFails g x
  | 4 => n.sluFails x.len
  | 5 => if n.planOk then none else some 0
  | _ => ((g.pairs x).zipIdx.find? (fun p => !c.pairOk p.1.1)).map (·.2)

/-- The first failure of a commit: section and DETAIL, section 0 for the header. -/
def Chip.imgFails (c : Chip) (g : Staging) : Option (Nat × Nat) :=
  if g.headOk = false then some (0, 0)
  else
    let n := c.imgOver g
    [1, 2, 3, 4, 5, 6].findSome? (fun id =>
      match g.sec id with
      | none => none
      | some x => if secTooLong x then some (id, 0xFFFF) else (c.secFails n g x).map (fun d => (id, d)))

/-- What MOORED excludes: a BANKS section, and a change of the pointer of a slot active or pending; DETAIL of the failure
(R85, R86, R499). -/
def Chip.imgWrongState (c : Chip) (g : Staging) : Option Nat :=
  if c.dryOrMoored = false then some 0
  else if c.opState = 0 ∨ g.headOk = false then none
  else if (g.sec 2).isSome then some 0
  else
    match g.sec 1 with
    | none => none
    | some x =>
      ((List.range 32).flatMap (fun f => (List.range 16).map (fun b => (f, b)))).findSome? (fun p =>
        let o := 0x1000 + 64 * p.1 + 4 * p.2
        if c.slotInUse p.1 p.2 && decide (o + 4 ≤ x.len) && (g.secW x o &&& 0x8003FFFF) != c.bankPtr p.1 p.2 then
          some (lckDetail p.1 0 p.2)
        else none)

end Sys2Proof.Machine
end

