-- ==== Sys2Proof/Machine/Img.lean ====
section
/-! DEFINITION. Staging, checking and applying configuration images, the configuration windows' commands, and the
twin-wide changes waiting for a boundary (R436, R466, R495, R496, R498 to R500, R509). -/

namespace Sys2Proof.Machine

/-- The chip with the staging state changed. -/
def Chip.setStage (c : Chip) (f : Staging → Staging) : Chip := { c with hst := { c.hst with stage := f c.hst.stage } }

/-! ## Staging (R496) -/

/-- IMG_BEGIN's rules; `most` is the largest image. -/
def Chip.imgBegin (most : Nat) (c : Chip) (k : Intake) : Chip × Answer :=
  let n := wordAt k.payload 0
  if n < 32 ∨ most < n then (c, ansArg 0)
  else if c.hst.stage.running then (c, ansBusy)
  else (c.setStage (fun g => { g with size := n, imageId := k.payload.getD 1 0, bytes := [], staged := [] }), ansOK)

/-- IMG_BEGIN (R496); the boot ROM takes a firmware image of at most 4 MiB (R509). -/
def execImgBegin (t : Nat) (ifc : Iface) (tag target : Word) (pl : List Word) (s : State) :
    Host.Outcome State Fault Refusal :=
  s.act (fun c => c.command t 0x0201 ifc tag target pl (some (Chip.imgBegin 0x400000)) (Chip.imgBegin 0x600000))

/-- IMG_DATA's rules. -/
def Chip.imgData (c : Chip) (k : Intake) : Chip × Answer :=
  let a := wordAt k.payload 0
  let bs := wordsBytes (k.payload.drop 1)
  if a % 4 ≠ 0 then (c, ansArg 0)
  else if c.hst.stage.size < a + bs.length then (c, ansArg 0)
  else if c.hst.stage.running then (c, ansBusy)
  else (c.setStage (fun g => { g with bytes := memWrite 0 a bs g.bytes, staged := addRange a (a + bs.length) g.staged }), ansOK)

/-- IMG_DATA (R496); the boot ROM serves it too (R509). -/
def execImgData (t : Nat) (ifc : Iface) (tag target : Word) (pl : List Word) (s : State) :
    Host.Outcome State Fault Refusal :=
  s.act (fun c => c.command t 0x0202 ifc tag target pl (some Chip.imgData) Chip.imgData)

/-! ## Commit (R499, R500) -/

/-- The commit's checks begin. -/
def Chip.imgStart (c : Chip) : Chip :=
  c.setStage (fun g => { g with running := true, applyAt := false, result := 1, failSec := 0, failDetail := 0 })

/-- A chain that a SLUICE section would load is queued or running (R307). -/
def Chip.imgChainBusy (c : Chip) (g : Staging) : Bool :=
  g.headOk && (match g.sec 4 with
    | some x => (secChains x.len).any (fun k => (c.run k).isSome)
    | none => false)

/-- IMG_COMMIT's rules. -/
def Chip.imgCommit (c : Chip) (k : Intake) : Chip × Answer :=
  let g := c.hst.stage
  if g.whole = false ∨ k.payload.getD 0 0 ≠ g.imageId then (c, ansArg 0)
  else
    match c.imgWrongState g with
    | some d => (c, .now stWRONG_STATE d [])
    | none =>
      if g.running ∨ c.imgChainBusy g = true then (c, ansBusy)
      else if c.longFree k.op 0 then (c.imgStart, .accepted 0)
      else (c, ansBusy)

/-- IMG_COMMIT's rules under the boot ROM (R509). -/
def Chip.imgCommitRom (c : Chip) (k : Intake) : Chip × Answer :=
  let g := c.hst.stage
  if g.whole = false ∨ k.payload.getD 0 0 ≠ g.imageId then (c, ansArg 0)
  else if g.running then (c, ansBusy)
  else (c.imgStart, .accepted 0)

/-- IMG_COMMIT (R499); the boot ROM serves it for a firmware image (R509). -/
def execImgCommit (t : Nat) (ifc : Iface) (tag target : Word) (pl : List Word) (s : State) :
    Host.Outcome State Fault Refusal :=
  s.act (fun c => c.command t 0x0203 ifc tag target pl (some Chip.imgCommitRom) Chip.imgCommit)

/-- The bank pointers a LOCK section of `len` bytes writes: marks and waiting checks end (R86, R90). -/
def Chip.pointersWritten (c : Chip) (len : Nat) : Chip :=
  c.each ((List.range 32).flatMap (fun f => (List.range 16).map (fun b => (f, b)))) (fun c p =>
    if 0x1000 + 64 * p.1 + 4 * p.2 + 4 ≤ len then
      let c := { c with lck := { c.lck with check := c.lck.check.filter (fun g => !(g.1 == p.1 && g.2.1 == p.2)) } }
      if c.opState ≠ 0 ∧ c.slotInUse p.1 p.2 = true then c
      else c.setFld ⟨LCK_FSTAT2 p.1, 16 + p.2, 16 + p.2⟩ 0
    else c)

/-- Section 1 or 5 entries of a port differ between two states. -/
def towPortChanged (a b : Chip) (p : Nat) : Bool :=
  a.reg (TOW_PORT_CFG p) != b.reg (TOW_PORT_CFG p) || a.reg (TOW_PORT_CFG2 p) != b.reg (TOW_PORT_CFG2 p)
    || memBytes 0 a.mem.tow (towBarges + 128 * p) 128 != memBytes 0 b.mem.tow (towBarges + 128 * p) 128

/-- A twin-wide change that has just taken effect here: its data go to the standby as BULK frames, and a CONFIG record enters
the ledger of the pound that ends (R436). -/
def Chip.shareChange (c : Chip) (id : Word) (l : List BulkData) : Chip :=
  if l = [] then c else (c.bulkQueue l).ledger (.config id (bulkSum l))

/-- Words of a configuration memory as they stand. -/
def Chip.memNow (c : Chip) (k off n : Nat) : BulkData := .memory k off (memWords 0 (c.winMem k) off n)

/-- What an image changes on both devices: the memories its sections were laid over, and its registers but for the
Lockkeeper's (R429, R436). The Towpath image is not shared. -/
def Chip.imgShared (c : Chip) (g : Staging) : List BulkData :=
  let secs := [1, 2, 4, 5].filterMap (fun id =>
    match g.sec id, secWin id with
    | some x, some w => some (c.memNow w.1 0 ((min x.len w.2 + 3) / 4))
    | _, _ => none)
  let regs : List (Nat × Nat) := match g.sec 6 with
    | some x => (g.pairs x).filter (fun p => !decide (LKP_STATUS ≤ p.1 ∧ p.1 < AQU_CFG))
    | none => []
  secs ++ regs.map (fun p => .register p.1 (w32 (c.reg p.1)))

/-- The image's sections take effect as one step (R264, R269, R500). A planner that they enable has had no cycle yet
(R182). -/
def Chip.imgSections (c : Chip) (g : Staging) (i : Iface) : Chip :=
  let before := c
  let c := c.imgOver g
  let c := match g.sec 1 with
    | some x => c.pointersWritten x.len
    | none => c
  let c := match g.sec 3 with
    | some x =>
      let c := c.setReg TOW_EPOCH (g.secW x 4)
      if c.opState = 1 then
        c.each ((List.range 64).filter (towPortChanged before c)) Chip.bringAgain
      else c
    | none => c
  let c := match g.sec 6 with
    | some x => c.each (g.pairs x) (fun c p => c.writeReg i p.1 p.2)
    | none => c
  let c := if c.plEn && !before.plEn then (c.setFld BSN_PLAN_STAT__STATUS 4).setFld BSN_PLAN_STAT__CAUSE 0 else c
  c.each (List.range 32) (fun c f =>
    if (c.flight f).idleOut then c.setFlight f { c.flight f with idleOut := false } else c)

/-- A passed image is applied; its final reply follows, in PRIMARY once the standby has acknowledged
commit `n` (R495, R500). -/
def Chip.imgApply (c : Chip) (l : LongCmd) (n : Nat) : Chip :=
  let g := c.hst.stage
  let c := c.imgSections g l.org.ifc
  let c := c.setStage (fun g => { g with activeId := g.imageId, loaded := true, running := false, applyAt := false })
  if c.role = 1 then
    let c := c.shareChange g.imageId (c.imgShared g)
    { c with hst := { c.hst with longs := c.hst.longs.map (fun x => if x = l then { x with arg := n } else x) } }
  else c.finish l stOK 0 []

/-- A commit fails: IMG_STATUS reports the section, nothing is applied (R499). -/
def Chip.imgFail (c : Chip) (l : LongCmd) (st sec detail : Nat) : Chip :=
  (c.setStage (fun g => { g with running := false, applyAt := false, result := 3, failSec := sec, failDetail := detail })).finish
    l st detail []

/-- The checks of a running commit end (R499, R500). -/
def Chip.imgChecked (c : Chip) (l : LongCmd) : Chip :=
  let g := c.hst.stage
  match c.imgFails g with
  | some f => c.imgFail l stINVALID_ARG f.1 f.2
  | none =>
    match c.imgWrongState g with
    | some d => c.imgFail l stWRONG_STATE 0 d
    | none =>
      if c.imgChainBusy g then c.imgFail l stBUSY 4 0
      else
        let c := c.setStage (fun g => { g with result := 2 })
        if c.opState = 0 ∧ c.role ≠ 1 then c.imgApply l c.poundNum else c.setStage (fun g => { g with applyAt := true })

/-- The boot ROM's checks of a staged firmware image end: it starts from SRAM at the final reply (R506, R509). -/
def Chip.imgCheckedRom (c : Chip) (l : LongCmd) : Chip :=
  let x : FwImage := ⟨0, c.hst.stage.bytes, 0⟩
  let f := x.fail c.boot.otp
  if f ≠ 0 then c.imgFail l stINVALID_ARG 0 f
  else
    let c := (c.finish l stOK 0 []).setStage (fun _ => Staging.init)
    (c.fwStart x (c.fld LOG_BOOT__FAIL) (c.fld LOG_BOOT__SLOT)).setBoot (fun b => { b with ramImage := true })

/-- The running commit. -/
def Chip.commitCmd (c : Chip) : Option LongCmd := c.hst.longs.find? (fun l => l.op == 0x0203)

/-- IMG_CHECK_COMPLETE (R499). -/
def execImgCheckComplete (t : Nat) (s : State) : Host.Outcome State Fault Refusal :=
  s.act (fun c =>
    let c := c.at t
    if c.hst.stage.running && !c.hst.stage.applyAt then
      match c.commitCmd, c.boot.phase with
      | some l, .run => c.imgChecked l
      | some l, .rom | some l, .wait => c.imgCheckedRom l
      | _, _ => c
    else c)

/-- An image that waits for the boundary that ends pound `n` is applied (R500). -/
def Chip.imgBoundary (c : Chip) (n : Nat) : Chip :=
  if c.hst.stage.applyAt then
    match c.commitCmd with
    | some l => c.imgApply l n
    | none => c.setStage (fun g => { g with running := false, applyAt := false })
  else c

/-- IMG_STATUS (R496). -/
def execImgStatus (t : Nat) (ifc : Iface) (tag target : Word) (pl : List Word) (s : State) :
    Host.Outcome State Fault Refusal :=
  s.command t 0x0204 ifc tag target pl (fun c _ =>
    let g := c.hst.stage
    (c, .now stOK 0 [w32 (g.result * 2 ^ 30 + g.failSec), w32 g.failDetail, g.activeId]))

/-! ## CFG_READ and CFG_WRITE (R466, R496) -/

/-- CFG_READ's rules. -/
def Chip.cfgRead (c : Chip) (k : Intake) : Chip × Answer :=
  let n := wordAt k.payload 1
  match winAt (wordAt k.payload 0) with
  | none => (c, ansArg 0)
  | some w =>
    if w.2.1 % 4 ≠ 0 then (c, ansArg 0)
    else if n = 0 ∨ 1024 < n ∨ w.2.2 < w.2.1 + 4 * n then (c, ansArg 1)
    else (c, .now stOK 0 (memWords 0 (c.winMem w.1) w.2.1 n))

/-- CFG_READ (R496). -/
def execCfgRead (t : Nat) (ifc : Iface) (tag target : Word) (pl : List Word) (s : State) :
    Host.Outcome State Fault Refusal :=
  s.command t 0x0205 ifc tag target pl Chip.cfgRead

/-- A write of one configuration word under its owner's rules: bank memory in DRY, the Lock engine window under R48 and
R86; the other windows are written by their own commands only. The truth value says that it was accepted. -/
def Chip.winWordWrite (c : Chip) (which off v : Nat) : Chip × Bool :=
  match which with
  | 0 => c.lckWindowWrite off v
  | 1 =>
    if c.opState = 0 then ({ c with mem := { c.mem with bank := memWriteWords 0 off [w32 v] c.mem.bank } }, true)
    else (c.raise LCK_STATUS__CFG_REJ, false)
  | 2 => (c.raise SLU_STATUS__CFG_REJ, false)
  | 3 => (c.raise BSN_STATUS__CFG_REJ, false)
  | _ => (c.raise TOW_STATUS__CFG_REJ, false)

/-- Writes of consecutive words; the index of the first one ignored. -/
def Chip.winWrites (c : Chip) (which off i : Nat) : List Word → Chip × Option Nat
  | [] => (c, none)
  | v :: t =>
    let r := c.winWordWrite which (off + 4 * i) v.toNat
    let q := Chip.winWrites r.1 which off (i + 1) t
    (q.1, if r.2 then q.2 else some i)

/-- CFG_WRITE's rules. -/
def Chip.cfgWrite (c : Chip) (k : Intake) : Chip × Answer :=
  let n := wordAt k.payload 1
  match winAt (wordAt k.payload 0) with
  | none => (c, ansArg 0)
  | some w =>
    if w.2.1 % 4 ≠ 0 then (c, ansArg 0)
    else if n = 0 ∨ 1024 < n ∨ w.2.2 < w.2.1 + 4 * n then (c, ansArg 1)
    else if c.hst.stage.running then (c, ansBusy)
    else
      let r := c.winWrites w.1 w.2.1 0 ((k.payload.drop 2).take n)
      match r.2 with
      | none => (r.1, ansOK)
      | some i => (r.1, .now stWRONG_STATE i [])

/-- CFG_WRITE (R496). -/
def execCfgWrite (t : Nat) (ifc : Iface) (tag target : Word) (pl : List Word) (s : State) :
    Host.Outcome State Fault Refusal :=
  s.command t 0x0206 ifc tag target pl Chip.cfgWrite

/-! ## Twin-wide changes (R436, R495) -/

/-- The rules of a twin-wide command. -/
def changeBody (op : Nat) : Chip → Intake → Chip × Answer :=
  match op with
  | 0x0105 => Chip.regWrite
  | 0x0206 => Chip.cfgWrite
  | 0x0307 => Chip.bankLoad
  | 0x0901 => Chip.chainLoad
  | _ => Chip.pickLoad

/-- What a twin-wide command has changed on both devices, as it stands once the command has run: words that were ignored keep
their old value (R436). -/
def Chip.changed (c : Chip) (k : Intake) : List BulkData :=
  let p := k.payload
  match k.op with
  | 0x0105 => (((List.range (p.length - 2)).map (fun i => wordAt p 0 + 4 * i)).filter ledgerNamed).map
      (fun off => .register off (w32 (c.reg off)))
  | 0x0206 => match winAt (wordAt p 0) with
    | some w => if w.1 = 4 then [] else [c.memNow w.1 w.2.1 (p.length - 2)]
    | none => []
  | 0x0307 => [c.memNow 1 (wordAt p 0) (p.length - 1)]
  | 0x0901 => [c.memNow 2 (1024 * k.target.toNat) p.length]
  | _ => [c.memNow 2 (0x10000 + 64 * k.target.toNat) p.length]

/-- The ACCEPTED command of a waiting change. -/
def Chip.changeLong (c : Chip) (k : Intake) : Option LongCmd :=
  c.hst.longs.find? (fun l => l.op == k.op && l.tag == k.tag && l.target == k.target && decide (l.org = k.org))

/-- One twin-wide change takes effect: BULK frames and a CONFIG record in the ledger of the pound that ends; one whose
checks now fail is answered with that. -/
def Chip.changeApply (c : Chip) (k : Intake) : Chip :=
  let r := changeBody k.op c k
  let refuse (c : Chip) (st d : Nat) : Chip := match c.changeLong k with
    | some l => c.finish l st d []
    | none => c
  match r.2 with
  | .now st d _ =>
    if st = stOK ∨ st = stWRONG_STATE then
      let c := r.1.shareChange k.tag (r.1.changed k)
      if st = stOK then c else refuse c st d
    else refuse r.1 st d
  | _ => r.1

/-- The changes accepted in the pound that ends take effect at its boundary (R436). -/
def Chip.changesApply (c : Chip) : Chip :=
  let ks := c.aqu.changes
  (c.setAqu (fun a => { a with changes := [] })).each ks Chip.changeApply

end Sys2Proof.Machine
end

