-- ==== Sys2Proof/Machine/Pound.lean ====
section
/-! DEFINITION. The pound boundary and the command release (R13 to R36, R287, and what other rules tie to a boundary). -/

namespace Sys2Proof.Machine

/-! ## The generator at a boundary (R13 to R20, R22) -/

/-- The pound that ends is followed by the next: its number, or the number of the step of R18, its start and its nominal
length. -/
def Chip.poundNext (c : Chip) : Chip :=
  let p := c.pnd
  let c := c.at (p.start + p.len)
  let n := p.renum.getD ((c.poundNum + 1) % 2 ^ 32)
  let shift := n + 2 ^ 32 - (c.poundNum + 1) % 2 ^ 32
  let req := p.request.map (fun (r : StateReq) => { r with due := (r.due + shift) % 2 ^ 32 })
  let c := { c with pnd := { p with start := p.start + p.len, len := poundTicks p.sel, renum := none, fired := []
                                    released := false, request := req, turns := p.turns + 1 } }
  c.setReg SYS_POUND_NUM n

/-- A requested transition is due at this boundary. -/
def Chip.requestDue (c : Chip) : Option Nat := match c.pnd.request with
  | some r => if modDiff 32 r.due c.poundNum ≤ 0 then some r.dest else none
  | none => none

/-- The transition this boundary makes, with LAST_CAUSE: the Weir first, then HALTED, then any other (R31, R33). -/
def Chip.stateNext (c : Chip) : Option (Nat × Nat) :=
  let st := c.opState
  if (c.pnd.weirTrip || c.tripped) && st != 0 && st != 4 then some (4, 2)
  else match decide (st = 2), c.pnd.halt with
    | true, some k => some (3, k)
    | _, _ =>
      if st = 4 ∧ c.pnd.weirReset = true ∧ c.tripped = false then some (1, 4)
      else c.requestDue.map (fun dest => (dest, 1))

/-- The operating state of the pound that begins, as far as this boundary's causes decide it (R32, R33). -/
def Chip.stateAfter (c : Chip) : Nat := (c.stateNext.map (·.1)).getD c.opState

/-- A change of POUND_SEL takes effect at the first boundary that begins a power period under the old one; the number is
then computed anew under R18 where the generator may step: the pound that begins is one of DRY or MOORED (R18, R36). -/
def Chip.selApply (c : Chip) : Chip :=
  match c.pnd.selNew with
  | none => c
  | some s =>
    if c.poundNum % poundsPerPeriod c.pnd.sel = 0 then
      let c := { c with pnd := { c.pnd with sel := s, selNew := none, len := poundTicks s } }
      if c.flag SYS_POUND_CFG__LOCK_EN && c.flag TIM_SEL_STAT__TB3_VALID && c.drives
          && decide (c.stateAfter ≤ 1) then c.stepCorrection
      else c
    else c

/-- PHASE_ERR and the lock states judged at a boundary (R20): 20 ns and 200 ns in units of 2⁻¹⁶ ns. DESIGN CHOICE: while
LOCK_EN is clear there are no target boundaries, and a device that does not act is slaved to its primary; PHASE_ERR then
keeps its last value (log entry 125). -/
def Chip.lockBoundary (c : Chip) : Chip :=
  if 2 ≤ c.role ∨ c.flag SYS_POUND_CFG__LOCK_EN = false then c
  else
    let e := c.phaseError
    let c := c.setFldI SYS_POUND_STATUS__PHASE_ERR (clampI (-32767) 32767 (rdivEven e 65536))
    let st := c.fld SYS_POUND_STATUS__LOCK_STATE
    if st = 1 then
      let good := if e.natAbs ≤ 20 * 65536 then c.pnd.good + 1 else 0
      let c := { c with pnd := { c.pnd with resid := e, good := good } }
      if 64 ≤ good then c.setFld SYS_POUND_STATUS__LOCK_STATE 2 else c
    else if st = 2 then
      let c := { c with pnd := { c.pnd with resid := e, good := 0 } }
      if 200 * 65536 < e.natAbs then c.setFld SYS_POUND_STATUS__LOCK_STATE 1 else c
    else c

/-- The generator's part of a boundary; it runs on while the boot ROM or nothing runs (R510). -/
def Chip.poundTurn (c : Chip) : Chip := c.poundNext.selApply.lockBoundary.corrPlan

/-- C(n) is latched, the flights due are fixed and the marks written take effect (R16, R22, R28). -/
def Chip.poundLatch (c : Chip) : Chip :=
  let n := c.poundNum
  let cn := c.tb5
  let marks := (List.range 32).foldl (fun m i => tabPut (fun i => regReset (SYS_CMARK i)) i (w32 (c.reg (SYS_CMARK i))) m) []
  { c with pnd := { c.pnd with
    cn := cn, due := c.enFlights.filter (fun f => c.fDue f n), marks := marks
    boundaries := ((n, c.pnd.start) :: c.pnd.boundaries).take 256, cns := ((n, cn) :: c.pnd.cns).take 16 } }

/-! ## The pound that ends -/

/-- A twin keeps its own samples of the local channels of the last pounds, for D_c and the catch-up (R445, R450). -/
def Chip.ownSamples (c : Chip) (n : Nat) : Chip :=
  if c.flag AQU_CFG__TWIN_EN then
    let own := ((List.range 256).filter (fun ch => c.chType ch == 1 && (c.chan ch).availP == some n)).map
      (fun ch => (ch, c.samplePos ch))
    c.setAqu (fun a => { a with samples := ((n, own) :: a.samples).take 10 })
  else c

/-- A snapshot asked for by a resynchronising twin leaves at the boundary that ends pound n (R457). -/
def Chip.snapSend (c : Chip) (n : Nat) : Chip :=
  if c.aqu.snapWant && c.drives then
    (c.bulkQueue [.snapshot (c.takeSnapshot n)]).setAqu (fun a => { a with snapAt := some n, snapWant := false })
  else c

/-- The last tick of pound n is over: samples that did not come in it are aged under its number, and the entries that
the ports' own frames defer past the boundary are noted (R190, R204, R245, R248, R255). -/
def Chip.samplesEnd (c : Chip) (n : Nat) : Chip :=
  ((((c.at (c.pnd.start + c.pnd.len)).ageChans n).auxBoundary n).ownSamples n).towLate n

/-- What the boundary makes of the pound that ends: changes that waited take effect, the ledger is frozen and becomes commit
n (R436, R442, R500). -/
def Chip.poundEnd (c : Chip) (n : Nat) : Chip :=
  let c := (c.imgBoundary n).changesApply
  ((c.ledgerFreeze.snapLedger n).ledgerCommit n).snapSend n

/-! ## Operating state (R31 to R34) -/

/-- The command behind a request is answered: OK when its transition took effect, WRONG_STATE when another overtook it
(R33, R34). -/
def Chip.requestAnswer (c : Chip) (dest : Nat) (due : Bool) : Chip :=
  match c.pnd.request with
  | none => c
  | some r =>
    let st := if due && r.dest == dest then stOK else stWRONG_STATE
    let c := { c with pnd := { c.pnd with request := none } }
    match r.cmd with
    | some k => c.reply k st 0 []
    | none => c.joinReply st

/-- A device that stopped acting follows its twin's state; a SET_STATE it still held has lost its authority (R35, R436). -/
def Chip.requestLost (c : Chip) : Chip :=
  match c.pnd.request with
  | some ⟨dest, due, some k⟩ =>
    ({ c with pnd := { c.pnd with request := some ⟨dest, due, none⟩ } }).reply k stNO_AUTHORITY 0 []
  | _ => c

/-- The operating state at a boundary (R32). -/
def Chip.stateBoundary (c : Chip) : Chip :=
  let next := c.stateNext
  let due := c.requestDue.isSome
  let c := { c with pnd := { c.pnd with halt := none, weirTrip := false, weirReset := false } }
  if c.drives = false then c.requestLost
  else match next with
    | none => c
    | some x => (c.enterState x.1 x.2).requestAnswer x.1 due

/-! ## The pound that begins -/

/-- TB2 − TB1 while both domains are usable (R287). -/
def Chip.abMeasure (c : Chip) : Chip :=
  if c.usable 0 && c.usable 1 then
    (c.setFldI TIM_AB_OFS__AB_OFS (clampI (-2 ^ 31) (2 ^ 31 - 1) (nsOf ((c.dom 1).at c.now - (c.dom 0).at c.now)))).setFlag
      TIM_SEL_STAT__AB_VALID true
  else c.setFlag TIM_SEL_STAT__AB_VALID false

/-- The boundary about to be made begins a power period, counted with the POUND_SEL and the number in effect before it (R15,
R36). -/
def Chip.periodBegins (c : Chip) : Bool := decide (c.poundNext.poundNum % poundsPerPeriod c.pnd.sel = 0)

/-- A boundary that begins a power period (R15): the Basin's mode, the Lockkeeper's grants, TB2 − TB1. -/
def Chip.powerPeriod (c : Chip) (begins : Bool) : Chip :=
  if begins then
    (((c.basinPeriod c.poundNum).planAfter).lkpPeriod).abMeasure
  else c

/-- The segment queues of an acting device: changes accepted take effect, a publication replaces queues, targets of the
flights due and in RUN are evaluated (R25, R103, R105, R160). -/
def Chip.queuesBoundary (c : Chip) (begins : Bool) : Chip :=
  let c := (c.each (List.range 32) Chip.segOps).planBoundary begins
  if c.drives then
    c.each (c.pnd.due.filter (fun f => c.fMode f == 2)) (fun c f => c.segEval f c.poundNum c.pnd.cn)
  else c

/-- The Weir at a boundary: a set confirmed in MOORED, the monitors on the pound that ended, SSM, and the Weir tick (R347,
R349, R376, R397). -/
def Chip.weirBoundary (c : Chip) (e : BoundaryEnv) : Chip :=
  let before := c.weir
  let c := (c.psetSwap.monitors e.crcFail e.crcFailB).ssm
  let c := if c.weirTickHere then c.weirTick before e.differ e.flipA e.flipB e.dev else c
  (c.remoteOutDue e.withheld).onlyIf (c.role == 2) Chip.feedAge

/-- The Towpath at a boundary: references start, barges are judged, bring-up goes on (R23, R223, R254, R258). -/
def Chip.towBoundary (c : Chip) (ended : Nat) : Chip :=
  c.towReferences |>.towJudge ended c.poundNum |>.bringBoundary

/-- A boundary since the last anchor of the chainage interpolator (R97). A device that does not act counts in its ledger
instead (`Chip.takeChain`). -/
def Chip.quietBoundary (c : Chip) : Chip :=
  if c.drives then c.setChain { c.pf.chain with quiet := c.pf.chain.quiet + 1 } else c

/-- The Aqueduct's frames of a boundary in the order of their priorities: SYNC, the ledger, HEALTH, BULK (R439). -/
def Chip.aquBoundary (c : Chip) (begins : Bool) : Chip :=
  (c.selfTest.syncSend.ledgerSend.onlyIf begins Chip.healthSend).bulkPump

/-- The work of a boundary on a running device (R23, R95). -/
def Chip.poundWork (c : Chip) (ended : Nat) (begins : Bool) (e : BoundaryEnv) : Chip :=
  let c := c.poundEnd ended
  let c := c.poundLatch.quietBoundary
  let c := c.idleChans c.poundNum
  let c := c.roleChange.stateBoundary.flagsClear
  let c := c.powerPeriod begins
  let c := c.towBoundary ended
  let c := c.weirBoundary e
  let c := c.queuesBoundary begins
  let c := c.virtualSamples c.pnd.cn c.beltInc (c.flag POS_CHN_STATUS__ACTIVE)
  (c.aquBoundary begins).savePump

/-- POUND_BOUNDARY (R23): the generator turns, and on a running device the pound that ends is closed and the next one
begins. -/
def Chip.poundBoundary (c : Chip) (e : BoundaryEnv) : Chip :=
  if c.boot.phase = .hold then c
  else
    let ended := c.poundNum
    let begins := c.periodBegins
    let c := c.corrAll
    let c := if c.boot.phase = .run then c.owedKeep.samplesEnd ended else c
    let c := c.poundTurn
    if c.boot.phase = .run then c.poundWork ended begins e else c

/-- POUND_BOUNDARY (R23). -/
def execPoundBoundary (e : BoundaryEnv) (s : State) : Host.Outcome State Fault Refusal :=
  s.act (fun c => c.poundBoundary e)

/-! ## The command release (R23, R24, R229, R297, R441, R451) -/

/-- COMMAND_RELEASE, once in a pound: flights that have not completed overrun, commands leave, captures take an element, and
an Aqueduct device sends its HEARTBEAT. -/
def Chip.commandRelease (c : Chip) (e : ReleaseEnv) : Chip :=
  if c.pnd.released then c
  else
    let c := { c with pnd := { c.pnd with released := true } }
    let c := if c.drives then c.overruns else c
    (c.commands e.withheld).capRelease.heartbeatSend.handoverFail

/-- COMMAND_RELEASE (R23). -/
def execCommandRelease (e : ReleaseEnv) (s : State) : Host.Outcome State Fault Refusal :=
  s.event (s.chip.pnd.start + s.chip.P / 2) (fun c => c.commandRelease e)

end Sys2Proof.Machine
end

