-- ==== Sys2Proof/Machine/Workers.lean ====
section
/-! DEFINITION. The dispatch of ready-list entries to workers (R137, R154, R309, R413, R418, R419, R421). -/

namespace Sys2Proof.Machine

/-- The workers an entry of class w occupies when worker k starts it: in GANGED a Basin job takes all 64 lanes (R413). -/
def Chip.workersOf (c : Chip) (w k : Nat) : List Nat :=
  if w = 0 ∧ c.fld BSN_STATUS__MODE ≠ 0 then List.range 64 else [k]

/-- The entry's own conditions on worker k (R418): the Basin's of R122, R124 and R154; for a Sluice core its CORE, and no
host write waiting for the core (R310). -/
def Chip.kindOk (c : Chip) (k : Nat) (e : Entry) : Bool :=
  match e.work with
  | .job s => c.jobEligible k s
  | .chain n => c.chCore n == k - 64 && !(c.slu.writes.any (fun x => x.core == k - 64))
  | _ => true

/-- An entry is past its deadline: its own, or its job's (R137, R309). -/
def Chip.entryLate (c : Chip) (e : Entry) : Bool :=
  match e.work with
  | .job s =>
    match c.job s with
    | some j => decide (c.jobDeadline j ≤ c.now)
    | none => true
  | _ => c.late e

/-- An entry past its deadline is ended under its kind's rule without starting (R137, R309, R431). -/
def Chip.endLate (c : Chip) (w : Nat) (e : Entry) : Chip :=
  let c := c.dropEntry w e
  match e.work with
  | .job s => c.stopJob s rsSTALE rsSTALE false
  | .chain k => c.chainStop k chDEADLINE
  | _ => c

/-- An entry starts on worker k. Management work that no event of the table ends is over after a number of ticks that is
a free value, since the spec gives none. -/
def Chip.startEntry (c : Chip) (w k : Nat) (e : Entry) : Chip :=
  let ks := c.workersOf w k
  match e.work with
  | .job s => (c.begin_ w ks e none).jobStart (if c.fld BSN_STATUS__MODE = 0 then k else 64) s
  | .chain n => (c.begin_ w ks e none).chainStart n
  | .logSave => c.begin_ w ks e none
  | _ =>
    let r := c.freeWord
    r.1.begin_ w ks e (some (c.now + r.2.toNat))

/-- The entry a worker would start now: the first eligible one in dispatch order (R418). -/
def Chip.firstEligible (c : Chip) (k : Nat) : Option Entry :=
  (c.dispatchOrder (workerClass k)).find? (fun e => !c.entryLate e && !c.gated e.cls && c.kindOk k e)

/-- The prefetch slot of a worker: while it runs, the entry that is first eligible for it. The slot follows the lists in
every tick, so it holds nothing of its own (R420). -/
def Chip.prefetched (c : Chip) (k : Nat) : Option Entry := if c.busyOn k then c.firstEligible k else none

/-- The first eligible entry in dispatch order starts; those past their deadline on the way are ended (R418, R419). -/
def Chip.dispatchFrom (c : Chip) (w k : Nat) : List Entry → Chip
  | [] => c
  | e :: t =>
    if c.entryLate e then (c.endLate w e).dispatchFrom w k t
    else if c.gated e.cls = false ∧ c.kindOk k e = true then c.startEntry w k e
    else c.dispatchFrom w k t

/-- A worker takes its entry, when it and every worker the entry would occupy are idle (R419, R421). -/
def Chip.dispatch (c : Chip) (k : Nat) : Chip :=
  let w := workerClass k
  if (c.workersOf w k).all (fun i => !c.busyOn i) then c.dispatchFrom w k (c.dispatchOrder w) else c

/-- The idle workers of a class up to worker k take their entries in ascending number (R419). -/
def Chip.dispatchTo (c : Chip) (k : Nat) : Chip :=
  c.pairsEnd.each ((List.range (k + 1)).filter (fun i => workerClass i == workerClass k)) Chip.dispatch

/-- An idle worker takes its next entry (R419). -/
def execDispatch (t : Nat) (worker : Fin 70) (s : State) : Host.Outcome State Fault Refusal :=
  s.event t (fun c => (c.dispatchTo worker.val).planAfter)

end Sys2Proof.Machine
end

