-- ==== Sys2Proof/Machine/Dispatch.lean ====
section
/-! DEFINITION. The dispatch of a command to its meaning: one arm per constructor of Instr. -/

namespace Sys2Proof.Machine

def exec (i : Instr) (s : State) : Host.Outcome State Fault Refusal :=
  match i with
  | .poundBoundary e => Sys2Proof.Machine.execPoundBoundary e s
  | .phaseCorrection t => Sys2Proof.Machine.execPhaseCorrection t s
  | .sysPoundCfgWrite t ifc off v => Sys2Proof.Machine.execSysPoundCfgWrite t ifc off v s
  | .commandRelease e => Sys2Proof.Machine.execCommandRelease e s
  | .flightUpdateStart t f => Sys2Proof.Machine.execFlightUpdateStart t f s
  | .flightUpdateComplete t f ecc => Sys2Proof.Machine.execFlightUpdateComplete t f ecc s
  | .cycleMarkFire m => Sys2Proof.Machine.execCycleMarkFire m s
  | .sysCmarkWrite t ifc m v => Sys2Proof.Machine.execSysCmarkWrite t ifc m v s
  | .reseedRetry t f => Sys2Proof.Machine.execReseedRetry t f s
  | .reseedTimeout f => Sys2Proof.Machine.execReseedTimeout f s
  | .bankPointerCheckDone t f slot => Sys2Proof.Machine.execBankPointerCheckDone t f slot s
  | .posChnCfgWrite t ifc off v => Sys2Proof.Machine.execPosChnCfgWrite t ifc off v s
  | .chnStandstill t => Sys2Proof.Machine.execChnStandstill t s
  | .manifestArm t => Sys2Proof.Machine.execManifestArm t s
  | .manifestFire t => Sys2Proof.Machine.execManifestFire t s
  | .outPulseEnd line => Sys2Proof.Machine.execOutPulseEnd line s
  | .cancelTick t => Sys2Proof.Machine.execCancelTick t s
  | .dispatch t worker => Sys2Proof.Machine.execDispatch t worker s
  | .triggerLatchRetry t chain => Sys2Proof.Machine.execTriggerLatchRetry t chain s
  | .jobComplete t slot fault => Sys2Proof.Machine.execJobComplete t slot fault s
  | .jobDeadline slot => Sys2Proof.Machine.execJobDeadline slot s
  | .qpIterationEnd t slot => Sys2Proof.Machine.execQpIterationEnd t slot s
  | .bsnRdSelWrite t ifc v => Sys2Proof.Machine.execBsnRdSelWrite t ifc v s
  | .bsnRdWinRead t ifc w => Sys2Proof.Machine.execBsnRdWinRead t ifc w s
  | .planBuildComplete t => Sys2Proof.Machine.execPlanBuildComplete t s
  | .abzEdge t k a b z => Sys2Proof.Machine.execAbzEdge t k a b z s
  | .channelSample t ch => Sys2Proof.Machine.execChannelSample t ch s
  | .serialTransferStart t p => Sys2Proof.Machine.execSerialTransferStart t p s
  | .serialReadingCheck t p r => Sys2Proof.Machine.execSerialReadingCheck t p r s
  | .serialTimeout t p => Sys2Proof.Machine.execSerialTimeout t p s
  | .indexEvent t ch => Sys2Proof.Machine.execIndexEvent t ch s
  | .idxArm t ifc ch => Sys2Proof.Machine.execIdxArm t ifc ch s
  | .posChCfgWrite t ifc off v => Sys2Proof.Machine.execPosChCfgWrite t ifc off v s
  | .pdOutputEdge t d => Sys2Proof.Machine.execPdOutputEdge t d s
  | .posPdCfgWrite t ifc d v => Sys2Proof.Machine.execPosPdCfgWrite t ifc d v s
  | .receiverUp t p => Sys2Proof.Machine.execReceiverUp t p s
  | .receiverDown t p errs => Sys2Proof.Machine.execReceiverDown t p errs s
  | .pollSend t entry rx => Sys2Proof.Machine.execPollSend t entry rx s
  | .replyReceived t p fr => Sys2Proof.Machine.execReplyReceived t p fr s
  | .replyWindowClose t entry => Sys2Proof.Machine.execReplyWindowClose t entry s
  | .referenceReceived t p fr => Sys2Proof.Machine.execReferenceReceived t p fr s
  | .mgmtSend t entry rx => Sys2Proof.Machine.execMgmtSend t entry rx s
  | .mgmtRspReceived t p fr => Sys2Proof.Machine.execMgmtRspReceived t p fr s
  | .mgmtWindowClose t p => Sys2Proof.Machine.execMgmtWindowClose t p s
  | .bringupStepLimit t p => Sys2Proof.Machine.execBringupStepLimit t p s
  | .enumWindowEnd t p n => Sys2Proof.Machine.execEnumWindowEnd t p n s
  | .towPortCtlBringup t ifc p => Sys2Proof.Machine.execTowPortCtlBringup t ifc p s
  | .mrgRst t ifc p => Sys2Proof.Machine.execMrgRst t ifc p s
  | .ladingDataLoRead t ifc l => Sys2Proof.Machine.execLadingDataLoRead t ifc l s
  | .ladingFlush t ifc l => Sys2Proof.Machine.execLadingFlush t ifc l s
  | .flushTimeout t l => Sys2Proof.Machine.execFlushTimeout t l s
  | .ptpSyncReceived t d y => Sys2Proof.Machine.execPtpSyncReceived t d y s
  | .delayRespReceived t d y => Sys2Proof.Machine.execDelayRespReceived t d y s
  | .pdelayReqReceived t h seq => Sys2Proof.Machine.execPdelayReqReceived t h seq s
  | .syncTimeout t d => Sys2Proof.Machine.execSyncTimeout t d s
  | .holdLimExpiry t d => Sys2Proof.Machine.execHoldLimExpiry t d s
  | .revertTimer t => Sys2Proof.Machine.execRevertTimer t s
  | .corrSlew t => Sys2Proof.Machine.execCorrSlew t s
  | .snap t ifc => Sys2Proof.Machine.execSnap t ifc s
  | .timUserCfgWrite t ifc u v => Sys2Proof.Machine.execTimUserCfgWrite t ifc u v s
  | .timUserOfsHiWrite t ifc u v => Sys2Proof.Machine.execTimUserOfsHiWrite t ifc u v s
  | .tbRead t ifc k => Sys2Proof.Machine.execTbRead t ifc k s
  | .wideValueLoRead t ifc off => Sys2Proof.Machine.execWideValueLoRead t ifc off s
  | .rcFieldRead t ifc off => Sys2Proof.Machine.execRcFieldRead t ifc off s
  | .frameStamp t m aborted => Sys2Proof.Machine.execFrameStamp t m aborted s
  | .timTallyW0Read t ifc => Sys2Proof.Machine.execTimTallyW0Read t ifc s
  | .sluiceStageEnd t core ecc => Sys2Proof.Machine.execSluiceStageEnd t core ecc s
  | .chainDeadline core => Sys2Proof.Machine.execChainDeadline core s
  | .sluMemApply t core => Sys2Proof.Machine.execSluMemApply t core s
  | .sluCapCfgWrite t ifc off v => Sys2Proof.Machine.execSluCapCfgWrite t ifc off v s
  | .adcRunStart t x inj => Sys2Proof.Machine.execAdcRunStart t x inj s
  | .adcConversionEnd t x ains => Sys2Proof.Machine.execAdcConversionEnd t x ains s
  | .comparatorCrossing t k v => Sys2Proof.Machine.execComparatorCrossing t k v s
  | .regGo t ifc x => Sys2Proof.Machine.execRegGo t ifc x s
  | .injGo t ifc x => Sys2Proof.Machine.execInjGo t ifc x s
  | .adcCmpWrite t ifc k v => Sys2Proof.Machine.execAdcCmpWrite t ifc k v s
  | .gauCtlArm t ifc => Sys2Proof.Machine.execGauCtlArm t ifc s
  | .gauCtlStop t ifc => Sys2Proof.Machine.execGauCtlStop t ifc s
  | .gauCtlForce t ifc => Sys2Proof.Machine.execGauCtlForce t ifc s
  | .memoryReserved t => Sys2Proof.Machine.execMemoryReserved t s
  | .gaugeSample t => Sys2Proof.Machine.execGaugeSample t s
  | .finishEnd t => Sys2Proof.Machine.execFinishEnd t s
  | .gauRelWrite t ifc v => Sys2Proof.Machine.execGauRelWrite t ifc v s
  | .weirTickMissing t => Sys2Proof.Machine.execWeirTickMissing t s
  | .weirClockInterval t ticks => Sys2Proof.Machine.execWeirClockInterval t ticks s
  | .safeInputSample t pinsA pinsB => Sys2Proof.Machine.execSafeInputSample t pinsA pinsB s
  | .fastDemand t k chB => Sys2Proof.Machine.execFastDemand t k chB s
  | .testPulseStart t k => Sys2Proof.Machine.execTestPulseStart t k s
  | .testPulseEnd t k pinsA pinsB tpLevel => Sys2Proof.Machine.execTestPulseEnd t k pinsA pinsB tpLevel s
  | .ss1Expiry t g => Sys2Proof.Machine.execSs1Expiry t g s
  | .psetCheckComplete t => Sys2Proof.Machine.execPsetCheckComplete t s
  | .confirmWindowExpiry t => Sys2Proof.Machine.execConfirmWindowExpiry t s
  | .psetFlashWriteDone t ok => Sys2Proof.Machine.execPsetFlashWriteDone t ok s
  | .psetCrcRecheck t okA okB => Sys2Proof.Machine.execPsetCrcRecheck t okA okB s
  | .safetyDatagramReceived t m bytes => Sys2Proof.Machine.execSafetyDatagramReceived t m bytes s
  | .safetyWatchdogExpiry t conn => Sys2Proof.Machine.execSafetyWatchdogExpiry t conn s
  | .headComputation t r => Sys2Proof.Machine.execHeadComputation t r s
  | .budgetHit t cls => Sys2Proof.Machine.execBudgetHit t cls s
  | .joinEnd t => Sys2Proof.Machine.execJoinEnd t s
  | .helloSend t => Sys2Proof.Machine.execHelloSend t s
  | .helloReceived t h => Sys2Proof.Machine.execHelloReceived t h s
  | .aqueductLinkUp t => Sys2Proof.Machine.execAqueductLinkUp t s
  | .aqueductLinkDown t lanes => Sys2Proof.Machine.execAqueductLinkDown t lanes s
  | .syncReceived t y => Sys2Proof.Machine.execSyncReceived t y s
  | .heartbeatReceived t h => Sys2Proof.Machine.execHeartbeatReceived t h s
  | .hbChk t => Sys2Proof.Machine.execHbChk t s
  | .refCheck t => Sys2Proof.Machine.execRefCheck t s
  | .ledgerFrameReceived t fr => Sys2Proof.Machine.execLedgerFrameReceived t fr s
  | .ackReceived t h pound => Sys2Proof.Machine.execAckReceived t h pound s
  | .nakReceived t h pound => Sys2Proof.Machine.execNakReceived t h pound s
  | .failReceived t h code => Sys2Proof.Machine.execFailReceived t h code s
  | .healthReceived t h w => Sys2Proof.Machine.execHealthReceived t h w s
  | .bulkReceived t b => Sys2Proof.Machine.execBulkReceived t b s
  | .resyncRestart t => Sys2Proof.Machine.execResyncRestart t s
  | .pcieReset t kind => Sys2Proof.Machine.execPcieReset t kind s
  | .bar0Write t off vs => Sys2Proof.Machine.execBar0Write t off vs s
  | .sqDoorbell t ifc v => Sys2Proof.Machine.execSqDoorbell t ifc v s
  | .sqFetch t pkt => Sys2Proof.Machine.execSqFetch t pkt s
  | .completionPost t dmaOk => Sys2Proof.Machine.execCompletionPost t dmaOk s
  | .cqHeadWrite t ifc v => Sys2Proof.Machine.execCqHeadWrite t ifc v s
  | .ringEnable t ifc v => Sys2Proof.Machine.execRingEnable t ifc v s
  | .vecRearm t ifc v => Sys2Proof.Machine.execVecRearm t ifc v s
  | .udpCommandReceived t m src bytes => Sys2Proof.Machine.execUdpCommandReceived t m src bytes s
  | .ethFrameReceived t m fr => Sys2Proof.Machine.execEthFrameReceived t m fr s
  | .arpReceived t m a => Sys2Proof.Machine.execArpReceived t m a s
  | .arpTimeout t m => Sys2Proof.Machine.execArpTimeout t m s
  | .arpRefresh t m k => Sys2Proof.Machine.execArpRefresh t m k s
  | .macLinkChange t m up => Sys2Proof.Machine.execMacLinkChange t m up s
  | .mdioGo t ifc v => Sys2Proof.Machine.execMdioGo t ifc v s
  | .mdioDone t data => Sys2Proof.Machine.execMdioDone t data s
  | .spiWrite t bytes => Sys2Proof.Machine.execSpiWrite t bytes s
  | .spiRead t n => Sys2Proof.Machine.execSpiRead t n s
  | .spiStatus t => Sys2Proof.Machine.execSpiStatus t s
  | .fastStatusUpdate => Sys2Proof.Machine.execFastStatusUpdate s
  | .getInfo t ifc tag target pl => Sys2Proof.Machine.execGetInfo t ifc tag target pl s
  | .setState t ifc tag target pl => Sys2Proof.Machine.execSetState t ifc tag target pl s
  | .reset t ifc tag target pl => Sys2Proof.Machine.execReset t ifc tag target pl s
  | .regRead t ifc tag target pl => Sys2Proof.Machine.execRegRead t ifc tag target pl s
  | .regWrite t ifc tag target pl => Sys2Proof.Machine.execRegWrite t ifc tag target pl s
  | .imgBegin t ifc tag target pl => Sys2Proof.Machine.execImgBegin t ifc tag target pl s
  | .imgData t ifc tag target pl => Sys2Proof.Machine.execImgData t ifc tag target pl s
  | .imgCommit t ifc tag target pl => Sys2Proof.Machine.execImgCommit t ifc tag target pl s
  | .imgCheckComplete t => Sys2Proof.Machine.execImgCheckComplete t s
  | .imgStatus t ifc tag target pl => Sys2Proof.Machine.execImgStatus t ifc tag target pl s
  | .cfgRead t ifc tag target pl => Sys2Proof.Machine.execCfgRead t ifc tag target pl s
  | .cfgWrite t ifc tag target pl => Sys2Proof.Machine.execCfgWrite t ifc tag target pl s
  | .flightStart t ifc tag target pl => Sys2Proof.Machine.execFlightStart t ifc tag target pl s
  | .flightHold t ifc tag target pl => Sys2Proof.Machine.execFlightHold t ifc tag target pl s
  | .flightResume t ifc tag target pl => Sys2Proof.Machine.execFlightResume t ifc tag target pl s
  | .flightStop t ifc tag target pl => Sys2Proof.Machine.execFlightStop t ifc tag target pl s
  | .clearFlags t ifc tag target pl => Sys2Proof.Machine.execClearFlags t ifc tag target pl s
  | .selectBank t ifc tag target pl => Sys2Proof.Machine.execSelectBank t ifc tag target pl s
  | .bankLoad t ifc tag target pl => Sys2Proof.Machine.execBankLoad t ifc tag target pl s
  | .flightStatus t ifc tag target pl => Sys2Proof.Machine.execFlightStatus t ifc tag target pl s
  | .trajAppend t ifc tag target pl => Sys2Proof.Machine.execTrajAppend t ifc tag target pl s
  | .trajFlush t ifc tag target pl => Sys2Proof.Machine.execTrajFlush t ifc tag target pl s
  | .taskSet t ifc tag target pl => Sys2Proof.Machine.execTaskSet t ifc tag target pl s
  | .taskClear t ifc tag target pl => Sys2Proof.Machine.execTaskClear t ifc tag target pl s
  | .manifestAdd t ifc tag target pl => Sys2Proof.Machine.execManifestAdd t ifc tag target pl s
  | .manifestCancel t ifc tag target pl => Sys2Proof.Machine.execManifestCancel t ifc tag target pl s
  | .chainAlign t ifc tag target pl => Sys2Proof.Machine.execChainAlign t ifc tag target pl s
  | .manifestList t ifc tag target pl => Sys2Proof.Machine.execManifestList t ifc tag target pl s
  | .towMgmt t ifc tag target pl => Sys2Proof.Machine.execTowMgmt t ifc tag target pl s
  | .towBargeInfo t ifc tag target pl => Sys2Proof.Machine.execTowBargeInfo t ifc tag target pl s
  | .timeSnap t ifc tag target pl => Sys2Proof.Machine.execTimeSnap t ifc tag target pl s
  | .domainStatus t ifc tag target pl => Sys2Proof.Machine.execDomainStatus t ifc tag target pl s
  | .frameSend t ifc tag target pl => Sys2Proof.Machine.execFrameSend t ifc tag target pl s
  | .bsnSubmit t ifc tag target pl => Sys2Proof.Machine.execBsnSubmit t ifc tag target pl s
  | .bsnRead t ifc tag target pl => Sys2Proof.Machine.execBsnRead t ifc tag target pl s
  | .bsnCancel t ifc tag target pl => Sys2Proof.Machine.execBsnCancel t ifc tag target pl s
  | .bsnMemWrite t ifc tag target pl => Sys2Proof.Machine.execBsnMemWrite t ifc tag target pl s
  | .bsnMemRead t ifc tag target pl => Sys2Proof.Machine.execBsnMemRead t ifc tag target pl s
  | .sluChainLoad t ifc tag target pl => Sys2Proof.Machine.execSluChainLoad t ifc tag target pl s
  | .sluPickLoad t ifc tag target pl => Sys2Proof.Machine.execSluPickLoad t ifc tag target pl s
  | .sluTrigger t ifc tag target pl => Sys2Proof.Machine.execSluTrigger t ifc tag target pl s
  | .sluAbort t ifc tag target pl => Sys2Proof.Machine.execSluAbort t ifc tag target pl s
  | .sluMemWrite t ifc tag target pl => Sys2Proof.Machine.execSluMemWrite t ifc tag target pl s
  | .sluMemRead t ifc tag target pl => Sys2Proof.Machine.execSluMemRead t ifc tag target pl s
  | .gauArm t ifc tag target pl => Sys2Proof.Machine.execGauArm t ifc tag target pl s
  | .gauStop t ifc tag target pl => Sys2Proof.Machine.execGauStop t ifc tag target pl s
  | .gauForce t ifc tag target pl => Sys2Proof.Machine.execGauForce t ifc tag target pl s
  | .gauRelease t ifc tag target pl => Sys2Proof.Machine.execGauRelease t ifc tag target pl s
  | .gauRead e ifc tag target pl => Sys2Proof.Machine.execGauRead e ifc tag target pl s
  | .weirPsetLoad t ifc tag target pl => Sys2Proof.Machine.execWeirPsetLoad t ifc tag target pl s
  | .weirPsetConfirm t ifc tag target pl => Sys2Proof.Machine.execWeirPsetConfirm t ifc tag target pl s
  | .weirTrip t ifc tag target pl => Sys2Proof.Machine.execWeirTrip t ifc tag target pl s
  | .weirStatus t ifc tag target pl => Sys2Proof.Machine.execWeirStatus t ifc tag target pl s
  | .twinStatus t ifc tag target pl => Sys2Proof.Machine.execTwinStatus t ifc tag target pl s
  | .twinHandover t ifc tag target pl => Sys2Proof.Machine.execTwinHandover t ifc tag target pl s
  | .headStatus t ifc tag target pl => Sys2Proof.Machine.execHeadStatus t ifc tag target pl s
  | .budgetSet t ifc tag target pl => Sys2Proof.Machine.execBudgetSet t ifc tag target pl s
  | .lkpStats t ifc tag target pl => Sys2Proof.Machine.execLkpStats t ifc tag target pl s
  | .logStatus t ifc tag target pl => Sys2Proof.Machine.execLogStatus t ifc tag target pl s
  | .logRead t ifc tag target pl => Sys2Proof.Machine.execLogRead t ifc tag target pl s
  | .logFreeze t ifc tag target pl => Sys2Proof.Machine.execLogFreeze t ifc tag target pl s
  | .logRelease t ifc tag target pl => Sys2Proof.Machine.execLogRelease t ifc tag target pl s
  | .logSave t ifc tag target pl => Sys2Proof.Machine.execLogSave t ifc tag target pl s
  | .echo t ifc tag target pl => Sys2Proof.Machine.execEcho t ifc tag target pl s
  | .cmdStats t ifc tag target pl => Sys2Proof.Machine.execCmdStats t ifc tag target pl s
  | .vinRise t => Sys2Proof.Machine.execVinRise t s
  | .resetN t low => Sys2Proof.Machine.execResetN t low s
  | .bootVerifyComplete t b => Sys2Proof.Machine.execBootVerifyComplete t b s
  | .brownout t => Sys2Proof.Machine.execBrownout t s
  | .vinRetLoss t => Sys2Proof.Machine.execVinRetLoss t s
  | .watchdogExpiry t pair => Sys2Proof.Machine.execWatchdogExpiry t pair s
  | .lockstepError t pair => Sys2Proof.Machine.execLockstepError t pair s
  | .thermalHold t => Sys2Proof.Machine.execThermalHold t s
  | .thermalHoldEnd t => Sys2Proof.Machine.execThermalHoldEnd t s
  | .logSnapshotProbe => Sys2Proof.Machine.execLogSnapshotProbe s
  | .logSlotComplete t => Sys2Proof.Machine.execLogSlotComplete t s
  | .logSaveComplete t ok => Sys2Proof.Machine.execLogSaveComplete t ok s
  | .spareEraseDone t => Sys2Proof.Machine.execSpareEraseDone t s
  | .jtagInstruction t ir => Sys2Proof.Machine.execJtagInstruction t ir s
  | .chainageCountRise t => Sys2Proof.Machine.execChainageCountRise t s
  | .delayReqInterval t d => Sys2Proof.Machine.execDelayReqInterval t d s
  | .weirInternalFault t src => Sys2Proof.Machine.execWeirInternalFault t src s
  | .sramScrub t owner ue addr => Sys2Proof.Machine.execSramScrub t owner ue addr s
  | .bistPassComplete t failed => Sys2Proof.Machine.execBistPassComplete t failed s
  | .clockReturn t => Sys2Proof.Machine.execClockReturn t s
  | .testmodeChange t high => Sys2Proof.Machine.execTestmodeChange t high s
  | .bar2Access t off write ndw ue => Sys2Proof.Machine.execBar2Access t off write ndw ue s
  | .pcieLinkUp t width2 speed => Sys2Proof.Machine.execPcieLinkUp t width2 speed s

end Sys2Proof.Machine
end

