-- ==== Sys2Proof/Safety.lean ====
section
/-! DEFINITION. What the claims call a sound state: the canonical form of the register file and of every byte memory, and
what a run may never undo. -/

namespace Sys2Proof.Machine

/-- A byte memory is in canonical form: addresses strictly rising, no byte equal to what an unlisted address reads as
(`d`, 0 of every RAM and 0xFF of the flash). -/
def Memory.wf (d : Byte) (m : List (Nat × Byte)) : Bool := tabWf (fun _ => d) m

/-- The configuration windows and memories are in canonical form. -/
def Mems.wf (m : Mems) : Bool :=
  Memory.wf 0 m.lck && Memory.wf 0 m.tow && Memory.wf 0 m.slu && Memory.wf 0 m.plan && Memory.wf 0 m.bank
    && Memory.wf 0 m.arena && Memory.wf 0 m.gau && Memory.wf 0 m.slum

/-- The register file, the memories, the Logbook regions and the flash are in canonical form. -/
def Chip.canon (c : Chip) : Bool :=
  tabWf regReset c.regs && c.mem.wf && Memory.wf 0 c.log.mem && Memory.wf 0xFF c.boot.flash

/-- What one-time programming permits (R508): the keys and identities stay, MIN_SVN only rises. -/
def Otp.grows (a b : Otp) : Prop :=
  b = { a with minSvn := b.minSvn } ∧ a.minSvnNum ≤ b.minSvnNum

/-! ## The terms the claims use -/

/-- Firmware runs, and tick `t` has not passed. -/
def Chip.ready (c : Chip) (t : Nat) : Prop := c.boot.phase = .run ∧ c.now ≤ t

/-- Every register but those listed holds what it held. -/
def Chip.regsBut (a b : Chip) (l : List Nat) : Prop := ∀ off, off ∉ l → b.reg off = a.reg off

/-- No register changed. -/
def Chip.regsSame (a b : Chip) : Prop := b.regs = a.regs

/-- These have left the device, in this order and before anything else (interrupt messages may follow). -/
def Chip.sent (a b : Chip) (l : List Output) : Prop := a.out ++ l <+: b.out

/-- A counter that saturates at its maximum and never wraps. -/
def satAdd (x : Fld) (v n : Nat) : Nat := min (v + n) (2 ^ x.width - 1)

/-- A channel of a safe input after its sample at tick `t`: a masked one holds what it had; else the pin is the raw level,
and it is accepted once it has been stable for FILT µs (R351, R353). -/
def InCh.follows (x x' : InCh) (t filt : Nat) (masked pin : Bool) : Prop :=
  if masked then x' = x
  else x'.raw = pin ∧ x'.since = (if pin = x.raw then x.since else t)
    ∧ x'.lvl = (if filt * 800 ≤ t - x'.since then pin else x.lvl)

/-- INPUT_DEMAND after an event that shows the Weir its inputs anew: raised where a channel sees a demand and it was not
active, and a trip of a Weir that was not tripped (R346, R363, R364). -/
def Chip.demandSeen (c c' : Chip) : Prop :=
  (((c'.functionDemand || c'.functionDemandB) = false ∨ (c.reg WEI_CAUSE).testBit 1 = true) →
    c'.reg WEI_CAUSE_LATCH = c.reg WEI_CAUSE_LATCH ∧ c'.wstate = c.wstate)
  ∧ ((c'.functionDemand || c'.functionDemandB) = true → (c.reg WEI_CAUSE).testBit 1 = false →
    c'.reg WEI_CAUSE_LATCH = c.reg WEI_CAUSE_LATCH ||| 2 ^ 1 ∧ (c'.reg WEI_CAUSE).testBit 1 = true
    ∧ c'.wstate = (if c.wstate ≤ 2 then 3 else c.wstate))
  ∧ c'.fld WEI_IN_DEM__DEM = inMask c'.inDemanded

/-! ## Host commands -/

/-- The checks on a host command that precede its opcode's own rules pass: firmware runs, LEN fits, the role accepts the
opcode, TARGET is in range (R485, R495, R496). -/
def Chip.accepts (c : Chip) (op : Nat) (target : Word) (pl : List Word) : Prop :=
  c.boot.phase = .run ∧ lenOk op pl = true ∧
  match opInfo op with
  | none => False
  | some o => (c.role ≤ 1 ∨ o.standby = true) ∧ (if o.targets = 0 then target.toNat = 0 else target.toNat < o.targets)

/-- A reply has left for the origin of its command: on PCIe as a completion that waits for its post, on a MAC as a
datagram, on SPI in the queue that READ reads; a command no entry of the command queue stands for is answered on its
interface at once (R470, R488, R492, R493). A reply the reset of its ring discards goes nowhere (R462, R472). -/
def Chip.replyGone (c : Chip) (org : Origin) (ws : List Word) : Prop :=
  match org.ifc with
  | .pcie =>
    if org.drop then True
    else if org.direct then Output.reply .pcie ws ∈ c.out
    else ∃ cp ∈ c.hst.pendCpl, cp.w0 = ws.getD 0 0 ∧ cp.w1 = ws.getD 1 0 ∧ cp.w2 = ws.getD 2 0
      ∧ cp.final = false ∧ cp.sqIdx = org.sqIdx ∧ cp.reply = ws.take org.rspWords ∧ cp.addrLo = org.rspLo ∧ cp.addrHi = org.rspHi
  | .spi => ws ∈ c.hst.spiReplies
  | i => (if org.direct then Output.reply i ws
      else .udp i.mac org.src.ip org.src.port (c.fld (HST_ETH_CFG__CMD_PORT i.mac)) (wordsBytes ws)) ∈ c.out

/-- After the step the reply of a host command has left for the command's origin: STATUS, DETAIL and payload (R483). -/
def Replied (a : Chip) (op : Nat) (ifc : Iface) (tag target : Word) (pl : List Word) (status detail : Nat)
    (rpl : List Word) (b : Chip) : Prop :=
  b.replyGone (a.takeIntake op ifc tag target pl).2.org (replyWords op tag status detail rpl)

/-- The final reply of an ACCEPTED command has left for the origin of the command: on PCIe it waits for its write into the
command's response buffer, otherwise it has gone as every reply (R488). -/
def Chip.finalGone (c : Chip) (org : Origin) (ws : List Word) : Prop :=
  if org.ifc = .pcie ∧ org.direct = false then
    org.drop = true ∨ ∃ cp ∈ c.hst.pendCpl, cp.final = true ∧ [cp.w0, cp.w1, cp.w2, cp.w3] = (List.range 4).map (ws.getD · 0)
      ∧ cp.reply = ws.take org.rspWords ∧ cp.addrLo = org.rspLo ∧ cp.addrHi = org.rspHi
  else c.replyGone org ws

/-- A host command: its tick, opcode, interface, TAG, TARGET and payload. -/
structure HostCall where
  t : Nat
  op : Nat
  ifc : Iface
  tag : Word
  target : Word
  pl : List Word
  deriving DecidableEq, Repr

/-- The host command a row of the table is, if it is one (R496). -/
def hostCall : Instr → Option HostCall
  | .getInfo t ifc tag target pl => some ⟨t, 0x0101, ifc, tag, target, pl⟩
  | .setState t ifc tag target pl => some ⟨t, 0x0102, ifc, tag, target, pl⟩
  | .reset t ifc tag target pl => some ⟨t, 0x0103, ifc, tag, target, pl⟩
  | .regRead t ifc tag target pl => some ⟨t, 0x0104, ifc, tag, target, pl⟩
  | .regWrite t ifc tag target pl => some ⟨t, 0x0105, ifc, tag, target, pl⟩
  | .imgBegin t ifc tag target pl => some ⟨t, 0x0201, ifc, tag, target, pl⟩
  | .imgData t ifc tag target pl => some ⟨t, 0x0202, ifc, tag, target, pl⟩
  | .imgCommit t ifc tag target pl => some ⟨t, 0x0203, ifc, tag, target, pl⟩
  | .imgStatus t ifc tag target pl => some ⟨t, 0x0204, ifc, tag, target, pl⟩
  | .cfgRead t ifc tag target pl => some ⟨t, 0x0205, ifc, tag, target, pl⟩
  | .cfgWrite t ifc tag target pl => some ⟨t, 0x0206, ifc, tag, target, pl⟩
  | .flightStart t ifc tag target pl => some ⟨t, 0x0301, ifc, tag, target, pl⟩
  | .flightHold t ifc tag target pl => some ⟨t, 0x0302, ifc, tag, target, pl⟩
  | .flightResume t ifc tag target pl => some ⟨t, 0x0303, ifc, tag, target, pl⟩
  | .flightStop t ifc tag target pl => some ⟨t, 0x0304, ifc, tag, target, pl⟩
  | .clearFlags t ifc tag target pl => some ⟨t, 0x0305, ifc, tag, target, pl⟩
  | .selectBank t ifc tag target pl => some ⟨t, 0x0306, ifc, tag, target, pl⟩
  | .bankLoad t ifc tag target pl => some ⟨t, 0x0307, ifc, tag, target, pl⟩
  | .flightStatus t ifc tag target pl => some ⟨t, 0x0308, ifc, tag, target, pl⟩
  | .trajAppend t ifc tag target pl => some ⟨t, 0x0401, ifc, tag, target, pl⟩
  | .trajFlush t ifc tag target pl => some ⟨t, 0x0402, ifc, tag, target, pl⟩
  | .taskSet t ifc tag target pl => some ⟨t, 0x0403, ifc, tag, target, pl⟩
  | .taskClear t ifc tag target pl => some ⟨t, 0x0404, ifc, tag, target, pl⟩
  | .manifestAdd t ifc tag target pl => some ⟨t, 0x0501, ifc, tag, target, pl⟩
  | .manifestCancel t ifc tag target pl => some ⟨t, 0x0502, ifc, tag, target, pl⟩
  | .chainAlign t ifc tag target pl => some ⟨t, 0x0503, ifc, tag, target, pl⟩
  | .manifestList t ifc tag target pl => some ⟨t, 0x0504, ifc, tag, target, pl⟩
  | .towMgmt t ifc tag target pl => some ⟨t, 0x0601, ifc, tag, target, pl⟩
  | .towBargeInfo t ifc tag target pl => some ⟨t, 0x0602, ifc, tag, target, pl⟩
  | .timeSnap t ifc tag target pl => some ⟨t, 0x0701, ifc, tag, target, pl⟩
  | .domainStatus t ifc tag target pl => some ⟨t, 0x0702, ifc, tag, target, pl⟩
  | .frameSend t ifc tag target pl => some ⟨t, 0x0703, ifc, tag, target, pl⟩
  | .bsnSubmit t ifc tag target pl => some ⟨t, 0x0801, ifc, tag, target, pl⟩
  | .bsnRead t ifc tag target pl => some ⟨t, 0x0802, ifc, tag, target, pl⟩
  | .bsnCancel t ifc tag target pl => some ⟨t, 0x0803, ifc, tag, target, pl⟩
  | .bsnMemWrite t ifc tag target pl => some ⟨t, 0x0804, ifc, tag, target, pl⟩
  | .bsnMemRead t ifc tag target pl => some ⟨t, 0x0805, ifc, tag, target, pl⟩
  | .sluChainLoad t ifc tag target pl => some ⟨t, 0x0901, ifc, tag, target, pl⟩
  | .sluPickLoad t ifc tag target pl => some ⟨t, 0x0902, ifc, tag, target, pl⟩
  | .sluTrigger t ifc tag target pl => some ⟨t, 0x0903, ifc, tag, target, pl⟩
  | .sluAbort t ifc tag target pl => some ⟨t, 0x0904, ifc, tag, target, pl⟩
  | .sluMemWrite t ifc tag target pl => some ⟨t, 0x0905, ifc, tag, target, pl⟩
  | .sluMemRead t ifc tag target pl => some ⟨t, 0x0906, ifc, tag, target, pl⟩
  | .gauArm t ifc tag target pl => some ⟨t, 0x0A01, ifc, tag, target, pl⟩
  | .gauStop t ifc tag target pl => some ⟨t, 0x0A02, ifc, tag, target, pl⟩
  | .gauForce t ifc tag target pl => some ⟨t, 0x0A03, ifc, tag, target, pl⟩
  | .gauRelease t ifc tag target pl => some ⟨t, 0x0A04, ifc, tag, target, pl⟩
  | .gauRead e ifc tag target pl => some ⟨e.t, 0x0A05, ifc, tag, target, pl⟩
  | .weirPsetLoad t ifc tag target pl => some ⟨t, 0x0B01, ifc, tag, target, pl⟩
  | .weirPsetConfirm t ifc tag target pl => some ⟨t, 0x0B02, ifc, tag, target, pl⟩
  | .weirTrip t ifc tag target pl => some ⟨t, 0x0B03, ifc, tag, target, pl⟩
  | .weirStatus t ifc tag target pl => some ⟨t, 0x0B04, ifc, tag, target, pl⟩
  | .twinStatus t ifc tag target pl => some ⟨t, 0x0C01, ifc, tag, target, pl⟩
  | .twinHandover t ifc tag target pl => some ⟨t, 0x0C02, ifc, tag, target, pl⟩
  | .headStatus t ifc tag target pl => some ⟨t, 0x0D01, ifc, tag, target, pl⟩
  | .budgetSet t ifc tag target pl => some ⟨t, 0x0D02, ifc, tag, target, pl⟩
  | .lkpStats t ifc tag target pl => some ⟨t, 0x0D03, ifc, tag, target, pl⟩
  | .logStatus t ifc tag target pl => some ⟨t, 0x0E01, ifc, tag, target, pl⟩
  | .logRead t ifc tag target pl => some ⟨t, 0x0E02, ifc, tag, target, pl⟩
  | .logFreeze t ifc tag target pl => some ⟨t, 0x0E03, ifc, tag, target, pl⟩
  | .logRelease t ifc tag target pl => some ⟨t, 0x0E04, ifc, tag, target, pl⟩
  | .logSave t ifc tag target pl => some ⟨t, 0x0E05, ifc, tag, target, pl⟩
  | .echo t ifc tag target pl => some ⟨t, 0x0F01, ifc, tag, target, pl⟩
  | .cmdStats t ifc tag target pl => some ⟨t, 0x0F02, ifc, tag, target, pl⟩
  | _ => none

/-- The device a host command's own rules see: at its tick, the command taken out of the queue of its interface. -/
def Chip.taken (c : Chip) (t op : Nat) (ifc : Iface) (tag target : Word) (pl : List Word) : Chip :=
  ((c.at t).takeIntake op ifc tag target pl).1

/-- A host command at tick `t` whose turn it is on its interface, that passes the checks before its own rules, and whose
interface holds a reply of `n` words. -/
def Chip.takes (c : Chip) (t op : Nat) (ifc : Iface) (tag target : Word) (pl : List Word) (n : Nat) : Prop :=
  c.accepts op target pl ∧ c.now ≤ t ∧ replyTooLong ifc n = false ∧ c.intakeTurn op ifc tag target pl = true

/-- The host command has ended at its tick with this reply. -/
def Done (s : State) (t op : Nat) (ifc : Iface) (tag target : Word) (pl : List Word) (status detail : Nat)
    (rpl : List Word) (s' : State) : Prop :=
  s'.chip.now = t ∧ Replied s.chip op ifc tag target pl status detail rpl s'.chip

/-! ## Basin jobs -/

/-- The job on result slot `n` has ended with this RSTAT, VALID and data: SEQ is one up and, with the planner idle, the slot
has no job (R144, R145). -/
def Chip.ended (a b : Chip) (n rst : Nat) (valid : Bool) (data : List Word) : Prop :=
  (b.rslot n).rstat = rst ∧ (b.rslot n).valid = valid ∧ (b.rslot n).data = data
  ∧ (b.rslot n).seq = ((a.rslot n).seq + 1) % 2 ^ 16
  ∧ (a.plan.ik = [] → a.plan.phase = .none → b.job n = none)

/-- The factor a direct job completed, if it factorised (R128, R129). -/
def JobOut.factor : JobOut → Option Fac
  | .bad _ f _ _ => f
  | .done _ f _ _ => f

/-- The lanes a self test found bad among those it tested: KP 0xFFFF tests all, any other KP its own lane (R154). -/
def testMask (d : List Word) (f : JobFault) : Nat :=
  match f with
  | .lanes m => if jKp d = 0xFFFF then m.toNat else m.toNat &&& 2 ^ jKp d
  | _ => 0

/-- The steps the decode mode of input group k makes of the levels its filters accept at t (R193). -/
def Chip.abzSteps (c : Chip) (t k : Nat) (a b z : Bool) : Option Int :=
  abzDecode (c.fld (POS_ABZ_CFG__DECODE k)) (c.abz k) ((c.at t).abzTake k a b z).a ((c.at t).abzTake k a b z).b

/-- The value of a serial reading on port p: its low NBITS bits, decoded from Gray code on SSI with GRAY (R196). -/
def Chip.serValue (c : Chip) (p : Nat) (r : SerialReading) : Nat :=
  let n := c.fld (POS_SER_CFG__NBITS p)
  if c.fld (POS_SER_CFG__PROTO p) = 1 ∧ c.flag (POS_SER_CFG__GRAY p) = true then grayDecode n (r.word % 2 ^ n) else r.word % 2 ^ n

/-- Its signed difference from the channel's last good reading. -/
def Chip.serDelta (c : Chip) (p ch : Nat) (r : SerialReading) : Int :=
  modDiff (c.fld (POS_SER_CFG__NBITS p)) (c.serValue p r) (c.chan ch).last

/-- The difference is over JUMP for each pound since that reading. -/
def Chip.serJumps (c : Chip) (p ch : Nat) (r : SerialReading) : Bool :=
  decide (c.reg (POS_SER_JUMP p) ≠ 0
    ∧ c.reg (POS_SER_JUMP p) * ((c.poundNum + 2 ^ 32 - (c.chan ch).lastPound) % 2 ^ 32) < (c.serDelta p ch r).natAbs)

/-- Tick t is the send tick of POLL entry e in this pound, its turn on its port, and nothing leaves it out (R245, R250). -/
def Chip.pollDue (c : Chip) (t e : Nat) : Bool :=
  c.towMaster && c.flag (TOW_PORT_CFG__EN (c.ePort e)) && c.eEn e && !c.eMgmt e && c.eDue e c.poundNum
    && (c.poll e).pound != c.poundNum && max (c.pnd.start + c.eOffset e) (c.port (c.ePort e)).txFree == t
    && !c.pollOut e && (c.port (c.ePort e)).late == [] && !(c.port (c.ePort e)).refLate && (c.at t).pollTurn (c.ePort e) e

/-- The same of MGMT entry e, on a port in RUN (R245, R251). -/
def Chip.mgmtDue (c : Chip) (t e : Nat) : Bool :=
  c.towMaster && c.flag (TOW_PORT_CFG__EN (c.ePort e)) && c.pstate (c.ePort e) == 8 && c.eEn e && c.eMgmt e
    && c.eDue e c.poundNum && max (c.pnd.start + c.eOffset e) (c.port (c.ePort e)).txFree == t
    && (c.poll e).pound != c.poundNum && (c.port (c.ePort e)).late == [] && !(c.port (c.ePort e)).refLate
    && (c.at t).pollTurn (c.ePort e) e

/-- The words of entry e's POLL before its CRC (R221, R224). -/
def Chip.pollFrame (c : Chip) (e : Nat) : List Word :=
  [w32 (2 ^ 28 + 2 ^ 24 + c.eBarge e % 8 * 2 ^ 20 + c.fld TOW_MASTER_CFG__RANK * 2 ^ 16 + 4),
   w32 ((c.port (c.ePort e)).fid * 2 ^ 16 + c.poundNum % 256 * 2 ^ 8 + c.reg TOW_EPOCH % 256),
   w32 (e * 2 ^ 16 + c.eIset e * 2 ^ 8)]

/-- The outstanding management request a response at t answers (R251, R259). -/
def Chip.mgmtAsked (c : Chip) (t p : Nat) (f : TowFrame) : Option Sent :=
  (c.port p).sent.find? (fun r => r.fid == f.fid && !r.x.bcast
    && (if r.x.addressing then f.barge == 7 else r.x.barge == f.barge) && decide (r.t + r.opens ≤ t ∧ t ≤ r.t + r.closes))

/-- The ENUM of a port with frame identifier `fid`, once its 20 µs have passed at t (R259). -/
def Chip.enumAsked (c : Chip) (t p fid : Nat) : Option Sent :=
  (c.port p).sent.find? (fun r => r.fid == fid && r.x.addressing && !r.x.bcast && decide (r.t + r.closes ≤ t))

/-- A write of `len` bytes to memory m of a core from halfword h leaves the mark of the sample captured at halfword `e` of X
(R297, R307). -/
def capKept (m h len e : Nat) : Bool := decide (m ≠ 0 ∨ e < h ∨ h + (len + 1) / 2 ≤ e)

/-- A quadratic programme's next iterate on the factor of its store (R171). -/
def Chip.qpNext (c : Chip) (j : Job) := qpStep (c.qpRead j.d) (c.facRead (jF j.d)) (natWords j.x) (natWords j.z) (natWords j.y)

/-- The residuals of its next iterate are both within EPS (R172). -/
def Chip.qpConverged (c : Chip) (j : Job) : Bool :=
  fLe (c.qpNext j).2.2.2.1.1 (jEps j.d) && fLe (c.qpNext j).2.2.2.1.2 (jEps j.d)

/-- What ends a quadratic programme on an iterate: its data with VALID set, or OVERFLOW when the summary overflows (R125,
R175). -/
def Chip.qpEnded (a b : Chip) (n rst : Nat) (j : Job) (x : List Nat) (conv : Bool) : Prop :=
  if qpDataOk (a.qpRead j.d) x = true then
    a.ended b n rst true ((qpData (a.qpRead j.d) x conv j.newFac).map w32)
  else a.ended b n (stopRst rst rsOVERFLOW) false (List.replicate (jLen j.d) 0)

/-- What ends a quadratic programme with operands `g` at its deadline before its first iterate: its starting iterate, VALID where
it was warm; a slot that was its own warm start keeps its data; OVERFLOW where the residuals, or the words of new data, are not
finite (R125, R138, R175). -/
def Chip.qpStartEnded (a b : Chip) (n : Nat) (j : Job) (g : QpIn) (newFac : Bool) : Prop :=
  if (allFinite (qpResid g (natWords j.x) (natWords j.z) (natWords j.y)).1
      && allFinite (qpResid g (natWords j.x) (natWords j.z) (natWords j.y)).2
      && ((j.warm && jWslot j.d == n) || qpDataOk g (natWords j.x))) = false then
    a.ended b n rsOVERFLOW false (List.replicate (jLen j.d) 0)
  else if j.warm = true ∧ jWslot j.d = n then a.ended b n rsDEADLINE (a.rslot n).valid (a.rslot n).data
  else a.ended b n rsDEADLINE j.warm ((qpData g (natWords j.x) false newFac).map w32)

/-! ## Resets -/

/-- What a cold and a warm reset both initialise (R512): the windows and memories, Lock, Basin, Sluice, Manifest, planner,
converters, Towpath, Gauge, Aqueduct, Lockkeeper, the commands in progress, the Lading FIFOs and the staged image. -/
def Chip.cleared (c : Chip) : Prop :=
  let n := Chip.initial c.boot.otp c.boot.flash
  (c.mem = n.mem ∧ c.lck = n.lck ∧ c.bsn = n.bsn ∧ c.plan = n.plan ∧ c.man = n.man ∧ c.slu = n.slu ∧ c.adc = n.adc
    ∧ c.tow = n.tow ∧ c.gau = n.gau ∧ c.aqu = n.aqu ∧ c.lkp = n.lkp)
  ∧ c.hst.intake = [] ∧ c.hst.longs = [] ∧ c.hst.pendCpl = [] ∧ c.hst.lad = n.hst.lad ∧ c.hst.stage = n.hst.stage

/-- What a cold reset initialises beside that: time, the pound generator, the time bases, the position channels and the
Weir. -/
def Chip.coldCleared (c : Chip) : Prop :=
  let n := Chip.initial c.boot.otp c.boot.flash
  c.cleared ∧ c.now = 0 ∧ c.pnd = n.pnd ∧ c.tim = n.tim ∧ c.pf = n.pf ∧ c.weir = n.weir

/-- Every safe output that was high has been set low (R530). -/
def Chip.outputsFallen (a b : Chip) : Prop :=
  ∀ k < 24, (a.weir.outA.testBit k = true → Output.pin pinSOUTA k false ∈ b.out)
    ∧ (a.weir.outB.testBit k = true → Output.pin pinSOUTB k false ∈ b.out)

/-- The device with the bytes an external programmer has put into its flash. -/
def Chip.programmed (c : Chip) (e : BootEnv) : Chip :=
  { c with boot := { c.boot with flash := e.flash.foldl (fun f p => flashPut f p.1 p.2) c.boot.flash } }

/-! ## The parts of the device, and which of them a command may change -/

/-- The parts the device's state falls into. `memories` are the configuration windows, bank memory, the arena, Gauge
memory and the cores' memories; `host` is what the host interfaces hold but the Lading FIFOs (`fifos`) and the interrupt
vectors (`vectors`); `poundClock` says where the pound stands and `pound` what is pending of it; `boot` holds the reset
inputs, the OTP and the flash; `free` counts the free values drawn. -/
inductive Part where
  | time
  | free
  | regs
  | sent
  | host
  | boot
  | logbook
  | lockkeeper
  | pound
  | timeBases
  | position
  | memories
  | lock
  | basin
  | planner
  | manifest
  | sluice
  | converters
  | towpath
  | weir
  | gauge
  | aqueduct
  | poundClock
  | phase
  | fifos
  | vectors
  deriving DecidableEq, Repr

/-- What the host interfaces hold beside the Lading FIFOs and the interrupt vectors. -/
def Hst.but (h : Hst) : Hst := { h with lad := [], eseq := [], vecOn := 0, pba := 0 }

/-- A part is the same in both devices. -/
def Part.same (p : Part) (a b : Chip) : Prop :=
  match p with
  | .time => b.now = a.now
  | .free => b.fresh = a.fresh
  | .regs => b.regs = a.regs ∧ b.edges = a.edges
  | .sent => b.out = a.out
  | .host => b.hst.but = a.hst.but
  | .boot => { b.boot with phase := a.boot.phase } = a.boot
  | .logbook => b.log = a.log
  | .lockkeeper => b.lkp = a.lkp
  | .pound => { b.pnd with start := 0, len := 0, sel := 0, boundaries := [], cn := 0, cns := [], turns := 0 }
      = { a.pnd with start := 0, len := 0, sel := 0, boundaries := [], cn := 0, cns := [], turns := 0 }
  | .timeBases => b.tim = a.tim
  | .position => b.pf = a.pf
  | .memories => b.mem = a.mem
  | .lock => b.lck = a.lck
  | .basin => b.bsn = a.bsn
  | .planner => b.plan = a.plan
  | .manifest => b.man = a.man
  | .sluice => b.slu = a.slu
  | .converters => b.adc = a.adc
  | .towpath => b.tow = a.tow
  | .weir => b.weir = a.weir
  | .gauge => b.gau = a.gau
  | .aqueduct => b.aqu = a.aqu
  | .poundClock => b.pnd.start = a.pnd.start ∧ b.pnd.len = a.pnd.len ∧ b.pnd.sel = a.pnd.sel
      ∧ b.pnd.boundaries = a.pnd.boundaries ∧ b.pnd.cn = a.pnd.cn ∧ b.pnd.cns = a.pnd.cns ∧ b.pnd.turns = a.pnd.turns
  | .phase => b.boot.phase = a.boot.phase
  | .fifos => b.hst.lad = a.hst.lad ∧ b.hst.eseq = a.hst.eseq
  | .vectors => b.hst.vecOn = a.hst.vecOn ∧ b.hst.pba = a.hst.pba

/-- Every part. -/
def Part.all : List Part := [.time, .free, .regs, .sent, .host, .boot, .logbook, .lockkeeper, .pound, .timeBases, .position, .memories, .lock, .basin, .planner, .manifest, .sluice, .converters, .towpath, .weir, .gauge, .aqueduct, .poundClock, .phase, .fifos, .vectors]

/-- The parts every command may change: time, what is sent, the interrupt vectors. -/
def Part.common : List Part := [.time, .sent, .vectors]

/-- The parts that the command itself may change, beside the common ones. -/
def partsOf : Instr → List Part
  | .poundBoundary _ => Part.all.filter (fun p => p != .phase)
  | .phaseCorrection _ => [.pound, .aqueduct, .poundClock]
  | .sysPoundCfgWrite _ _ _ _ => [.regs, .pound, .poundClock]
  | .commandRelease _ => [.regs, .logbook, .lockkeeper, .pound, .memories, .lock, .sluice, .towpath, .weir, .aqueduct]
  | .flightUpdateStart _ _ => [.regs, .logbook, .lock]
  | .flightUpdateComplete _ _ _ => [.free, .regs, .logbook, .lockkeeper, .pound, .memories, .lock, .basin, .sluice, .weir, .aqueduct, .fifos]
  | .cycleMarkFire _ => [.regs, .lockkeeper, .pound, .sluice, .converters, .gauge, .fifos]
  | .sysCmarkWrite _ _ _ _ => [.regs]
  | .reseedRetry _ _ => [.regs, .lockkeeper, .lock, .basin]
  | .reseedTimeout _ => [.free, .regs, .logbook, .lockkeeper, .pound, .memories, .lock, .basin, .fifos]
  | .bankPointerCheckDone _ _ _ => [.regs, .memories, .lock]
  | .posChnCfgWrite _ _ _ _ => [.regs, .position, .fifos]
  | .chnStandstill _ => [.regs, .position, .fifos]
  | .manifestArm _ => [.regs, .lock, .manifest, .converters, .gauge, .aqueduct, .fifos]
  | .manifestFire _ => [.regs, .lock, .manifest, .converters, .gauge, .aqueduct, .fifos]
  | .outPulseEnd _ => [.manifest]
  | .cancelTick _ => [.regs, .host, .lock, .manifest, .converters, .gauge, .aqueduct, .fifos]
  | .dispatch _ _ => [.free, .regs, .host, .logbook, .lockkeeper, .pound, .memories, .lock, .basin, .planner, .sluice, .fifos]
  | .triggerLatchRetry _ _ => [.regs, .lockkeeper, .sluice]
  | .jobComplete _ _ _ => [.free, .regs, .host, .logbook, .lockkeeper, .pound, .memories, .lock, .basin, .planner, .fifos]
  | .jobDeadline _ => [.free, .regs, .host, .logbook, .lockkeeper, .pound, .memories, .lock, .basin, .planner, .fifos]
  | .qpIterationEnd _ _ => [.regs, .host, .logbook, .lockkeeper, .pound, .memories, .lock, .basin, .planner, .fifos]
  | .bsnRdSelWrite _ _ _ => [.regs, .host]
  | .bsnRdWinRead _ _ _ => [.regs, .host, .basin]
  | .planBuildComplete _ => [.regs, .lockkeeper, .memories, .basin, .planner]
  | .abzEdge _ _ _ _ _ => [.regs, .pound, .position, .lock, .planner, .aqueduct, .poundClock, .fifos]
  | .channelSample _ _ => [.free, .regs, .position]
  | .serialTransferStart _ _ => [.position]
  | .serialReadingCheck _ _ _ => [.free, .regs, .pound, .position, .lock, .planner, .aqueduct, .poundClock, .fifos]
  | .serialTimeout _ _ => [.free, .regs, .position]
  | .indexEvent _ _ => [.regs, .logbook, .position, .fifos]
  | .idxArm _ _ _ => [.regs, .position]
  | .posChCfgWrite _ _ _ _ => [.regs, .position]
  | .pdOutputEdge _ _ => [.position]
  | .posPdCfgWrite _ _ _ _ => [.regs, .position]
  | .receiverUp _ _ => [.regs, .logbook, .towpath]
  | .receiverDown _ _ _ => [.regs, .towpath]
  | .pollSend _ _ _ => [.regs, .towpath]
  | .replyReceived _ _ _ => [.free, .regs, .host, .logbook, .pound, .position, .lock, .planner, .converters, .towpath, .weir, .aqueduct, .poundClock, .fifos]
  | .replyWindowClose _ _ => [.free, .regs, .position, .towpath]
  | .referenceReceived _ _ _ => [.regs, .logbook, .towpath]
  | .mgmtSend _ _ _ => [.regs, .towpath]
  | .mgmtRspReceived _ _ _ => [.regs, .host, .logbook, .towpath, .fifos]
  | .mgmtWindowClose _ _ => [.regs, .host, .logbook, .towpath]
  | .bringupStepLimit _ _ => [.regs, .logbook, .towpath]
  | .enumWindowEnd _ _ _ => [.regs, .logbook, .towpath]
  | .towPortCtlBringup _ _ _ => [.regs, .host, .logbook, .towpath]
  | .mrgRst _ _ _ => [.regs]
  | .ladingDataLoRead _ _ _ => [.host, .fifos]
  | .ladingFlush _ _ _ => [.fifos]
  | .flushTimeout _ _ => [.regs, .fifos]
  | .ptpSyncReceived _ _ _ => [.regs, .logbook, .pound, .timeBases, .poundClock, .fifos]
  | .delayRespReceived _ _ _ => [.regs, .timeBases]
  | .pdelayReqReceived _ _ _ => []
  | .syncTimeout _ _ => [.regs, .logbook, .pound, .timeBases, .poundClock, .fifos]
  | .holdLimExpiry _ _ => [.regs, .logbook, .pound, .timeBases, .poundClock, .fifos]
  | .revertTimer _ => [.regs, .logbook, .pound, .timeBases, .poundClock, .fifos]
  | .corrSlew _ => [.timeBases]
  | .snap _ _ => [.regs]
  | .timUserCfgWrite _ _ _ _ => [.regs, .timeBases]
  | .timUserOfsHiWrite _ _ _ _ => [.regs, .timeBases]
  | .tbRead _ _ _ => [.host]
  | .wideValueLoRead _ _ _ => [.regs, .host, .timeBases, .basin, .fifos]
  | .rcFieldRead _ _ _ => [.regs, .host, .timeBases, .basin, .fifos]
  | .frameStamp _ _ _ => [.regs, .timeBases]
  | .timTallyW0Read _ _ => [.host, .timeBases]
  | .sluiceStageEnd _ _ _ => [.free, .regs, .logbook, .lockkeeper, .pound, .memories, .lock, .basin, .sluice, .fifos]
  | .chainDeadline _ => [.free, .regs, .logbook, .lockkeeper, .pound, .memories, .lock, .basin, .sluice, .fifos]
  | .sluMemApply _ _ => [.host, .memories, .sluice]
  | .sluCapCfgWrite _ _ _ _ => [.regs, .sluice]
  | .adcRunStart _ _ _ => [.regs, .converters]
  | .adcConversionEnd _ _ _ => [.regs, .lockkeeper, .memories, .sluice, .converters, .fifos]
  | .comparatorCrossing _ _ _ => [.regs, .converters]
  | .regGo _ _ _ => [.regs, .converters]
  | .injGo _ _ _ => [.regs, .converters]
  | .adcCmpWrite _ _ _ _ => [.regs, .converters]
  | .gauCtlArm _ _ => [.regs, .lockkeeper, .gauge, .fifos]
  | .gauCtlStop _ _ => [.regs, .lockkeeper, .gauge, .fifos]
  | .gauCtlForce _ _ => [.regs, .lockkeeper, .gauge, .fifos]
  | .memoryReserved _ => [.regs, .gauge]
  | .gaugeSample _ => [.regs, .lockkeeper, .memories, .gauge, .fifos]
  | .finishEnd _ => [.free, .regs, .memories, .gauge]
  | .gauRelWrite _ _ _ => [.regs, .gauge]
  | .weirTickMissing _ => [.regs, .host, .logbook, .pound, .converters, .weir]
  | .weirClockInterval _ _ => Part.all
  | .safeInputSample _ _ _ => [.regs, .host, .logbook, .pound, .converters, .weir]
  | .fastDemand _ _ _ => [.regs, .host, .logbook, .pound, .converters, .weir]
  | .testPulseStart _ _ => [.weir]
  | .testPulseEnd _ _ _ _ _ => [.regs, .host, .logbook, .pound, .converters, .weir]
  | .ss1Expiry _ _ => [.regs, .weir]
  | .psetCheckComplete _ => [.regs, .host, .weir, .fifos]
  | .confirmWindowExpiry _ => [.regs, .weir]
  | .psetFlashWriteDone _ _ => [.regs, .host, .boot, .weir, .fifos]
  | .psetCrcRecheck _ _ _ => [.regs, .host, .logbook, .pound, .converters, .weir]
  | .safetyDatagramReceived _ _ _ => [.regs, .host, .logbook, .pound, .converters, .weir]
  | .safetyWatchdogExpiry _ _ => [.regs, .host, .logbook, .pound, .converters, .weir]
  | .headComputation _ _ => [.regs, .lockkeeper]
  | .budgetHit _ _ => [.regs, .lockkeeper]
  | .joinEnd _ => [.pound, .aqueduct]
  | .helloSend _ => [.aqueduct]
  | .helloReceived _ _ => [.regs, .host, .aqueduct, .fifos]
  | .aqueductLinkUp _ => [.regs, .aqueduct]
  | .aqueductLinkDown _ _ => [.regs, .aqueduct]
  | .syncReceived _ _ => [.regs, .aqueduct]
  | .heartbeatReceived _ _ => [.regs, .aqueduct]
  | .hbChk _ => [.regs, .aqueduct]
  | .refCheck _ => [.aqueduct]
  | .ledgerFrameReceived _ _ => Part.all.filter (fun p => p != .timeBases && p != .gauge && p != .poundClock && p != .phase)
  | .ackReceived _ _ _ => [.regs, .host, .aqueduct, .fifos]
  | .nakReceived _ _ _ => [.regs, .aqueduct]
  | .failReceived _ _ _ => [.regs, .aqueduct]
  | .healthReceived _ _ _ => [.regs, .aqueduct]
  | .bulkReceived _ _ => Part.all.filter (fun p => p != .timeBases && p != .gauge && p != .poundClock && p != .phase)
  | .resyncRestart _ => [.regs, .aqueduct]
  | .pcieReset _ _ => [.regs, .host, .pound, .manifest, .sluice, .towpath, .aqueduct, .fifos]
  | .bar0Write _ _ _ => [.regs, .host, .logbook, .lockkeeper, .pound, .timeBases, .position, .manifest, .sluice, .converters, .towpath, .gauge, .aqueduct, .poundClock, .fifos]
  | .sqDoorbell _ _ _ => [.regs]
  | .sqFetch _ _ => [.regs, .host]
  | .completionPost _ _ => [.regs, .host, .fifos]
  | .cqHeadWrite _ _ _ => [.regs, .host]
  | .ringEnable _ _ _ => [.regs, .host, .pound, .manifest, .sluice, .towpath, .aqueduct, .fifos]
  | .vecRearm _ _ _ => []
  | .udpCommandReceived _ _ _ _ => [.regs, .host]
  | .ethFrameReceived _ _ _ => [.regs, .host, .fifos]
  | .arpReceived _ _ _ => [.host]
  | .arpTimeout _ _ => [.regs, .host]
  | .arpRefresh _ _ _ => [.host]
  | .macLinkChange _ _ _ => [.regs, .host]
  | .mdioGo _ _ _ => [.regs, .host]
  | .mdioDone _ _ => [.regs, .host]
  | .spiWrite _ _ => [.host]
  | .spiRead _ _ => [.host]
  | .spiStatus _ => [.host]
  | .fastStatusUpdate => [.host]
  | .getInfo _ _ _ _ _ => [.host, .aqueduct]
  | .setState _ _ _ _ _ => [.host, .pound, .aqueduct]
  | .reset _ _ _ _ _ => Part.all.filter (fun p => p != .free && p != .poundClock)
  | .regRead _ _ _ _ _ => [.regs, .host, .timeBases, .basin, .aqueduct, .fifos]
  | .regWrite _ _ _ _ _ => [.regs, .host, .logbook, .lockkeeper, .pound, .timeBases, .position, .manifest, .sluice, .converters, .towpath, .gauge, .aqueduct, .poundClock, .fifos]
  | .imgBegin _ _ _ _ _ => [.host, .aqueduct]
  | .imgData _ _ _ _ _ => [.host, .aqueduct]
  | .imgCommit _ _ _ _ _ => [.host, .aqueduct]
  | .imgCheckComplete _ => Part.all.filter (fun p => p != .free && p != .basin && p != .planner)
  | .imgStatus _ _ _ _ _ => [.host, .aqueduct]
  | .cfgRead _ _ _ _ _ => [.host, .aqueduct]
  | .cfgWrite _ _ _ _ _ => [.regs, .host, .memories, .lock, .aqueduct]
  | .flightStart _ _ _ _ _ => [.regs, .host, .lock, .aqueduct]
  | .flightHold _ _ _ _ _ => [.host, .lock, .aqueduct]
  | .flightResume _ _ _ _ _ => [.host, .lock, .aqueduct]
  | .flightStop _ _ _ _ _ => [.regs, .host, .lock, .aqueduct]
  | .clearFlags _ _ _ _ _ => [.host, .lock, .aqueduct]
  | .selectBank _ _ _ _ _ => [.free, .regs, .host, .logbook, .lockkeeper, .pound, .memories, .lock, .basin, .aqueduct, .fifos]
  | .bankLoad _ _ _ _ _ => [.host, .memories, .aqueduct]
  | .flightStatus _ _ _ _ _ => [.host, .aqueduct]
  | .trajAppend _ _ _ _ _ => [.host, .lock, .aqueduct]
  | .trajFlush _ _ _ _ _ => [.host, .lock, .aqueduct]
  | .taskSet _ _ _ _ _ => [.regs, .host, .planner, .aqueduct, .fifos]
  | .taskClear _ _ _ _ _ => [.host, .planner, .aqueduct]
  | .manifestAdd _ _ _ _ _ => [.free, .regs, .host, .manifest, .aqueduct]
  | .manifestCancel _ _ _ _ _ => [.host, .manifest, .aqueduct]
  | .chainAlign _ _ _ _ _ => [.regs, .host, .position, .aqueduct]
  | .manifestList _ _ _ _ _ => [.host, .aqueduct]
  | .towMgmt _ _ _ _ _ => [.host, .towpath, .aqueduct]
  | .towBargeInfo _ _ _ _ _ => [.host, .aqueduct]
  | .timeSnap _ _ _ _ _ => [.regs, .host, .aqueduct]
  | .domainStatus _ _ _ _ _ => [.host, .aqueduct]
  | .frameSend _ _ _ _ _ => [.host, .timeBases, .aqueduct]
  | .bsnSubmit _ _ _ _ _ => [.regs, .host, .lockkeeper, .basin, .aqueduct]
  | .bsnRead _ _ _ _ _ => [.regs, .host, .basin, .aqueduct]
  | .bsnCancel _ _ _ _ _ => [.free, .regs, .host, .logbook, .lockkeeper, .pound, .memories, .lock, .basin, .aqueduct, .fifos]
  | .bsnMemWrite _ _ _ _ _ => [.host, .memories, .aqueduct]
  | .bsnMemRead _ _ _ _ _ => [.host, .aqueduct]
  | .sluChainLoad _ _ _ _ _ => [.host, .memories, .aqueduct]
  | .sluPickLoad _ _ _ _ _ => [.host, .memories, .aqueduct]
  | .sluTrigger _ _ _ _ _ => [.regs, .host, .lockkeeper, .sluice, .aqueduct]
  | .sluAbort _ _ _ _ _ => [.free, .regs, .host, .logbook, .lockkeeper, .pound, .memories, .lock, .basin, .sluice, .aqueduct, .fifos]
  | .sluMemWrite _ _ _ _ _ => [.host, .memories, .sluice, .aqueduct]
  | .sluMemRead _ _ _ _ _ => [.host, .aqueduct]
  | .gauArm _ _ _ _ _ => [.regs, .host, .gauge, .aqueduct]
  | .gauStop _ _ _ _ _ => [.regs, .host, .lockkeeper, .gauge, .aqueduct, .fifos]
  | .gauForce _ _ _ _ _ => [.regs, .host, .gauge, .aqueduct]
  | .gauRelease _ _ _ _ _ => [.regs, .host, .gauge, .aqueduct]
  | .gauRead _ _ _ _ _ => [.regs, .host, .logbook, .aqueduct]
  | .weirPsetLoad _ _ _ _ _ => [.regs, .host, .weir, .aqueduct]
  | .weirPsetConfirm _ _ _ _ _ => [.regs, .host, .weir, .aqueduct]
  | .weirTrip _ _ _ _ _ => [.regs, .host, .logbook, .pound, .converters, .weir, .aqueduct]
  | .weirStatus _ _ _ _ _ => [.host, .aqueduct]
  | .twinStatus _ _ _ _ _ => [.host, .aqueduct]
  | .twinHandover _ _ _ _ _ => [.host, .aqueduct]
  | .headStatus _ _ _ _ _ => [.host, .aqueduct]
  | .budgetSet _ _ _ _ _ => [.regs, .host, .aqueduct]
  | .lkpStats _ _ _ _ _ => [.host, .aqueduct]
  | .logStatus _ _ _ _ _ => [.host, .aqueduct]
  | .logRead _ _ _ _ _ => [.host, .aqueduct]
  | .logFreeze _ _ _ _ _ => [.regs, .host, .logbook, .lockkeeper, .aqueduct]
  | .logRelease _ _ _ _ _ => [.regs, .host, .boot, .logbook, .aqueduct]
  | .logSave _ _ _ _ _ => [.regs, .host, .logbook, .lockkeeper, .aqueduct]
  | .echo _ _ _ _ _ => [.host, .aqueduct]
  | .cmdStats _ _ _ _ _ => [.host, .aqueduct]
  | .vinRise _ => Part.all.filter (fun p => p != .free)
  | .resetN _ _ => Part.all.filter (fun p => p != .free)
  | .bootVerifyComplete _ _ => [.regs, .boot, .logbook, .lockkeeper, .weir, .phase]
  | .brownout _ => Part.all.filter (fun p => p != .free)
  | .vinRetLoss _ => [.regs, .boot, .logbook]
  | .watchdogExpiry _ _ => Part.all.filter (fun p => p != .free && p != .poundClock)
  | .lockstepError _ _ => Part.all.filter (fun p => p != .free && p != .poundClock)
  | .thermalHold _ => Part.all.filter (fun p => p != .free)
  | .thermalHoldEnd _ => Part.all.filter (fun p => p != .free)
  | .logSnapshotProbe => [.logbook]
  | .logSlotComplete _ => [.regs, .logbook, .lockkeeper]
  | .logSaveComplete _ _ => [.regs, .host, .boot, .logbook, .lockkeeper, .fifos]
  | .spareEraseDone _ => [.regs, .boot, .logbook, .lockkeeper]
  | .jtagInstruction _ _ => [.boot]
  | .chainageCountRise _ => [.regs, .position]
  | .delayReqInterval _ _ => [.timeBases]
  | .weirInternalFault _ _ => [.regs, .host, .logbook, .pound, .converters, .weir]
  | .sramScrub _ _ _ _ => [.regs, .logbook, .aqueduct]
  | .bistPassComplete _ _ => [.aqueduct]
  | .clockReturn _ => Part.all.filter (fun p => p != .free)
  | .testmodeChange _ _ => Part.all
  | .bar2Access _ _ _ _ _ => [.regs, .logbook]
  | .pcieLinkUp _ _ _ => [.regs]

end Sys2Proof.Machine
end

