-- ==== Sys2Proof/WellFormed.lean ====
section
/-! DEFINITION. Which command terms are well formed: operands within the widths and counts the spec gives the things they
stand for. A command's meaning is total; an ill-formed term stands for nothing that can reach the device. -/

namespace Sys2Proof
open Machine

/-- A level for each of 24 pins (R350, R366). -/
def maskOk (m : Nat) : Bool := decide (m < 2 ^ 24)

/-- The levels both Weir channels take from the pins of one side (R346). -/
def Machine.PinLevels.ok (p : PinLevels) : Bool := maskOk p.byA && maskOk p.byB

/-- The offset of a BAR0 register: a multiple of 4 inside 64 KiB (R4, R461). -/
def offOk (off : Nat) : Bool := decide (off % 4 = 0 ∧ off < 0x10000)

/-- A BULK frame's content fits its payload of at most 1,024 bytes behind the offset prefix (R439); a snapshot stands whole in
the last frame of its transfer. -/
def Machine.BulkData.ok : BulkData → Bool
  | .memory k off ws => decide (k ≤ 3 ∧ off % 4 = 0 ∧ ws.length ≤ 254)
  | .register off _ => offOk off
  | .snapshot _ => true

/-- A Towpath frame as characters carry it: LEN has ten bits (R220). -/
def towOk (f : TowFrame) : Bool := decide (f.payload.length < 256)

/-- A UDP datagram's payload fits an Ethernet frame (R476, R491). -/
def datagramOk (bs : List Byte) : Bool := decide (bs.length ≤ 1472)

/-- A command packet: TARGET has 16 bits and LEN is at most 4,095 (R482). -/
def cmdOk (target : Word) (pl : List Word) : Bool := decide (target.toNat < 2 ^ 16 ∧ pl.length ≤ 4095)

/-- SEQ of an Aqueduct frame has 16 bits (R439). -/
def Machine.AquHead.ok16 (h : AquHead) : Bool := decide (h.seq < 2 ^ 16)

/-- A well-formed command. -/
def Instr.wf (i : Instr) : Bool :=
  match i with
  | .poundBoundary e => maskOk e.flipA && maskOk e.flipB && e.crcFail.all (fun c => decide (c < 256))
      && e.crcFailB.all (fun c => decide (c < 256)) && e.withheld.all (fun c => decide (c < 256))
  | .phaseCorrection _ => true
  | .sysPoundCfgWrite _ _ _ _ => true
  | .commandRelease e => e.withheld.all (fun k => decide (k < 256))
  | .flightUpdateStart _ _ => true
  | .flightUpdateComplete _ _ _ => true
  | .cycleMarkFire _ => true
  | .sysCmarkWrite _ _ _ _ => true
  | .reseedRetry _ _ => true
  | .reseedTimeout _ => true
  | .bankPointerCheckDone _ _ _ => true
  | .posChnCfgWrite _ _ _ _ => true
  | .chnStandstill _ => true
  | .manifestArm _ => true
  | .manifestFire _ => true
  | .outPulseEnd _ => true
  | .cancelTick _ => true
  | .dispatch _ _ => true
  | .triggerLatchRetry _ _ => true
  | .jobComplete _ _ _ => true
  | .jobDeadline _ => true
  | .qpIterationEnd _ _ => true
  | .bsnRdSelWrite _ _ _ => true
  | .bsnRdWinRead _ _ _ => true
  | .planBuildComplete _ => true
  | .abzEdge _ _ _ _ _ => true
  | .channelSample _ _ => true
  | .serialTransferStart _ _ => true
  | .serialReadingCheck _ _ r => decide (r.word < 2 ^ 40 ∧ r.word2 < 2 ^ 40 ∧ r.crc < 2 ^ 16)
  | .serialTimeout _ _ => true
  | .indexEvent _ _ => true
  | .idxArm _ _ _ => true
  | .posChCfgWrite _ _ off _ => offOk off
  | .pdOutputEdge _ _ => true
  | .posPdCfgWrite _ _ _ _ => true
  | .receiverUp _ _ => true
  | .receiverDown _ _ _ => true
  | .pollSend _ _ _ => true
  | .replyReceived _ _ fr => towOk fr
  | .replyWindowClose _ _ => true
  | .referenceReceived _ _ fr => towOk fr
  | .mgmtSend _ _ _ => true
  | .mgmtRspReceived _ _ fr => towOk fr
  | .mgmtWindowClose _ _ => true
  | .bringupStepLimit _ _ => true
  | .enumWindowEnd _ _ _ => true
  | .towPortCtlBringup _ _ _ => true
  | .mrgRst _ _ _ => true
  | .ladingDataLoRead _ _ _ => true
  | .ladingFlush _ _ _ => true
  | .flushTimeout _ _ => true
  | .ptpSyncReceived _ _ y => decide (-128 ≤ y.logInt ∧ y.logInt ≤ 127 ∧ y.utc < 65536)
  | .delayRespReceived _ _ y => decide (∀ l ∈ y.logReq, -128 ≤ l ∧ l ≤ 127)
  | .pdelayReqReceived _ _ _ => true
  | .syncTimeout _ _ => true
  | .holdLimExpiry _ _ => true
  | .revertTimer _ => true
  | .corrSlew _ => true
  | .snap _ _ => true
  | .timUserCfgWrite _ _ _ _ => true
  | .timUserOfsHiWrite _ _ _ _ => true
  | .tbRead _ _ _ => true
  | .wideValueLoRead _ _ r => offOk r.off && decide (1 ≤ r.ndw ∧ r.ndw ≤ 1024)
  | .rcFieldRead _ _ r => offOk r.off && decide (1 ≤ r.ndw ∧ r.ndw ≤ 1024)
  | .frameStamp _ _ _ => true
  | .timTallyW0Read _ _ => true
  | .sluiceStageEnd _ _ _ => true
  | .chainDeadline _ => true
  | .sluMemApply _ _ => true
  | .sluCapCfgWrite _ _ off _ => offOk off
  | .adcRunStart _ _ _ => true
  | .adcConversionEnd _ _ ains => ains.length == 24
  | .comparatorCrossing _ _ _ => true
  | .regGo _ _ _ => true
  | .injGo _ _ _ => true
  | .adcCmpWrite _ _ _ _ => true
  | .gauCtlArm _ _ => true
  | .gauCtlStop _ _ => true
  | .gauCtlForce _ _ => true
  | .memoryReserved _ => true
  | .gaugeSample _ => true
  | .finishEnd _ => true
  | .gauRelWrite _ _ _ => true
  | .weirTickMissing _ => true
  | .weirClockInterval _ _ => true
  | .safeInputSample _ pinsA pinsB => pinsA.ok && pinsB.ok
  | .fastDemand _ _ _ => true
  | .testPulseStart _ _ => true
  | .testPulseEnd _ _ pinsA pinsB _ => pinsA.ok && pinsB.ok
  | .ss1Expiry _ _ => true
  | .psetCheckComplete _ => true
  | .confirmWindowExpiry _ => true
  | .psetFlashWriteDone _ _ => true
  | .psetCrcRecheck _ _ _ => true
  | .safetyDatagramReceived _ _ bytes => datagramOk bytes
  | .safetyWatchdogExpiry _ _ => true
  | .headComputation _ r => decide (r.temps.length = 8)
  | .budgetHit _ _ => true
  | .joinEnd _ => true
  | .helloSend _ => true
  | .helloReceived _ h => h.h.ok16 && decide (h.role < 8 ∧ h.state < 8 ∧ h.rank < 16)
  | .aqueductLinkUp _ => true
  | .aqueductLinkDown _ _ => true
  | .syncReceived _ y => y.h.ok16
  | .heartbeatReceived _ h => h.h.ok16
  | .hbChk _ => true
  | .refCheck _ => true
  | .ledgerFrameReceived _ fr => fr.h.ok16 && decide (fr.part < 256 ∧ fr.bytes ≤ 1024)
  | .ackReceived _ h _ => h.ok16
  | .nakReceived _ h _ => h.ok16
  | .failReceived _ h code => h.ok16 && decide (code < 256)
  | .healthReceived _ h w => h.ok16 && decide (w.length = 6)
  | .bulkReceived _ b => b.h.ok16 && b.data.ok
  | .resyncRestart _ => true
  | .pcieReset _ _ => true
  | .bar0Write _ off vs => decide (vs ≠ [] ∧ off + 4 * vs.length ≤ 0x10000)
  | .sqDoorbell _ _ _ => true
  | .sqFetch _ _ => true
  | .completionPost _ _ => true
  | .cqHeadWrite _ _ _ => true
  | .ringEnable _ _ _ => true
  | .vecRearm _ _ _ => true
  | .udpCommandReceived _ _ _ bytes => datagramOk bytes
  | .ethFrameReceived _ _ _ => true
  | .arpReceived _ _ _ => true
  | .arpTimeout _ _ => true
  | .arpRefresh _ _ _ => true
  | .macLinkChange _ _ _ => true
  | .mdioGo _ _ _ => true
  | .mdioDone _ _ => true
  | .spiWrite _ _ => true
  | .spiRead _ _ => true
  | .spiStatus _ => true
  | .fastStatusUpdate => true
  | .getInfo _ _ _ target pl => cmdOk target pl
  | .setState _ _ _ target pl => cmdOk target pl
  | .reset _ _ _ target pl => cmdOk target pl
  | .regRead _ _ _ target pl => cmdOk target pl
  | .regWrite _ _ _ target pl => cmdOk target pl
  | .imgBegin _ _ _ target pl => cmdOk target pl
  | .imgData _ _ _ target pl => cmdOk target pl
  | .imgCommit _ _ _ target pl => cmdOk target pl
  | .imgCheckComplete _ => true
  | .imgStatus _ _ _ target pl => cmdOk target pl
  | .cfgRead _ _ _ target pl => cmdOk target pl
  | .cfgWrite _ _ _ target pl => cmdOk target pl
  | .flightStart _ _ _ target pl => cmdOk target pl
  | .flightHold _ _ _ target pl => cmdOk target pl
  | .flightResume _ _ _ target pl => cmdOk target pl
  | .flightStop _ _ _ target pl => cmdOk target pl
  | .clearFlags _ _ _ target pl => cmdOk target pl
  | .selectBank _ _ _ target pl => cmdOk target pl
  | .bankLoad _ _ _ target pl => cmdOk target pl
  | .flightStatus _ _ _ target pl => cmdOk target pl
  | .trajAppend _ _ _ target pl => cmdOk target pl
  | .trajFlush _ _ _ target pl => cmdOk target pl
  | .taskSet _ _ _ target pl => cmdOk target pl
  | .taskClear _ _ _ target pl => cmdOk target pl
  | .manifestAdd _ _ _ target pl => cmdOk target pl
  | .manifestCancel _ _ _ target pl => cmdOk target pl
  | .chainAlign _ _ _ target pl => cmdOk target pl
  | .manifestList _ _ _ target pl => cmdOk target pl
  | .towMgmt _ _ _ target pl => cmdOk target pl
  | .towBargeInfo _ _ _ target pl => cmdOk target pl
  | .timeSnap _ _ _ target pl => cmdOk target pl
  | .domainStatus _ _ _ target pl => cmdOk target pl
  | .frameSend _ _ _ target pl => cmdOk target pl
  | .bsnSubmit _ _ _ target pl => cmdOk target pl
  | .bsnRead _ _ _ target pl => cmdOk target pl
  | .bsnCancel _ _ _ target pl => cmdOk target pl
  | .bsnMemWrite _ _ _ target pl => cmdOk target pl
  | .bsnMemRead _ _ _ target pl => cmdOk target pl
  | .sluChainLoad _ _ _ target pl => cmdOk target pl
  | .sluPickLoad _ _ _ target pl => cmdOk target pl
  | .sluTrigger _ _ _ target pl => cmdOk target pl
  | .sluAbort _ _ _ target pl => cmdOk target pl
  | .sluMemWrite _ _ _ target pl => cmdOk target pl
  | .sluMemRead _ _ _ target pl => cmdOk target pl
  | .gauArm _ _ _ target pl => cmdOk target pl
  | .gauStop _ _ _ target pl => cmdOk target pl
  | .gauForce _ _ _ target pl => cmdOk target pl
  | .gauRelease _ _ _ target pl => cmdOk target pl
  | .gauRead _ _ _ target pl => cmdOk target pl
  | .weirPsetLoad _ _ _ target pl => cmdOk target pl
  | .weirPsetConfirm _ _ _ target pl => cmdOk target pl
  | .weirTrip _ _ _ target pl => cmdOk target pl
  | .weirStatus _ _ _ target pl => cmdOk target pl
  | .twinStatus _ _ _ target pl => cmdOk target pl
  | .twinHandover _ _ _ target pl => cmdOk target pl
  | .headStatus _ _ _ target pl => cmdOk target pl
  | .budgetSet _ _ _ target pl => cmdOk target pl
  | .lkpStats _ _ _ target pl => cmdOk target pl
  | .logStatus _ _ _ target pl => cmdOk target pl
  | .logRead _ _ _ target pl => cmdOk target pl
  | .logFreeze _ _ _ target pl => cmdOk target pl
  | .logRelease _ _ _ target pl => cmdOk target pl
  | .logSave _ _ _ target pl => cmdOk target pl
  | .echo _ _ _ target pl => cmdOk target pl
  | .cmdStats _ _ _ target pl => cmdOk target pl
  | .vinRise _ => true
  | .resetN _ _ => true
  | .bootVerifyComplete _ _ => true
  | .brownout _ => true
  | .vinRetLoss _ => true
  | .watchdogExpiry _ _ => true
  | .lockstepError _ _ => true
  | .thermalHold _ => true
  | .thermalHoldEnd _ => true
  | .logSnapshotProbe => true
  | .logSlotComplete _ => true
  | .logSaveComplete _ _ => true
  | .spareEraseDone _ => true
  | .jtagInstruction _ _ => true
  | .chainageCountRise _ => true
  | .delayReqInterval _ _ => true
  | .weirInternalFault _ _ => true
  | .sramScrub _ _ _ addr => decide (addr < 2 ^ 32)
  | .bistPassComplete _ _ => true
  | .clockReturn _ => true
  | .testmodeChange _ _ => true
  | .bar2Access _ off _ ndw _ => decide (off + 4 * ndw ≤ 0x2000000)
  | .pcieLinkUp _ _ _ => true

end Sys2Proof
end

