-- ==== Sys2Proof/Certificates/Slice0/Obligations.lean ====
section
/-! DEFINITION. The statements for the provers. Each is a proposition about the block's commands: what a command answers
and what the next state then holds, for every state and operands that meet the hypotheses. -/

section Statements
open Sys2Proof Sys2Proof.Machine

/-- The queue is first in, first out: a step carries out its front command. -/
def Obligations.StepTakesTheFrontCommand : Prop :=
  ∀ (i : Instr) (rest : List Instr) (c : Chip), step ⟨c, i :: rest⟩ = exec i ⟨c, rest⟩

/-- Every row of the table has an effect or none, and no row stops the block. -/
def Obligations.EveryCommandRunsAndLeavesTheQueue : Prop :=
  (∀ s : State, ∃ s', step s = .next s' ∧ s'.pending = s.pending.tail) ∧
  (∀ (i : Instr) (s : State), ∃ s', exec i s = .next s' ∧ s'.pending = s.pending) ∧
  (∀ c : Chip, step ⟨c, []⟩ = .next ⟨c, []⟩)

/-- The commands are carried out one a step, in the order in which they wait. -/
def Obligations.QueueIsServedInOrder : Prop :=
  ∀ (n : Nat) (s : State), ∃ s', Host.Core.run core n s = .next s' ∧ s'.pending = s.pending.drop n

/-- The invariant of StepKeepsCanonicalForm holds at reset, and the reset values of the register tables. -/
def Obligations.PowerOnStateIsCanonicalAndHoldsResetValues : Prop :=
  State.reset.chip.canon = true ∧ State.reset.pending = [] ∧ State.reset.chip.now = 0 ∧ State.reset.chip.boot.phase = .rom
  ∧ State.reset.chip.mem = ⟨[], [], [], [], [], [], [], []⟩ ∧ State.reset.chip.boot.flash = [] ∧ State.reset.chip.log.mem = []
  ∧ State.reset.chip.weir.actV = false ∧ State.reset.chip.weir.confV = false
  ∧ State.reset.chip.pnd.sel = 1 ∧ State.reset.chip.pnd.len = 25000
  ∧ (∀ off, State.reset.chip.reg off = (regReset off).toNat)
  ∧ State.reset.chip.opState = 0 ∧ State.reset.chip.role = 0 ∧ State.reset.chip.fld SYS_POUND_CFG__POUND_SEL = 1
  ∧ State.reset.chip.fld POS_CHN_CFG__STILL_TMO = 8 ∧ State.reset.chip.fld POS_CHN_CFG__LEAD = 1
  ∧ (∀ ch < 256, State.reset.chip.fld (POS_CH_STAT__AGE ch) = 255 ∧ State.reset.chip.fld (POS_CH_STAT__STANDSTILL ch) = 1)
  ∧ (∀ k < 8, State.reset.chip.fld (POS_ABZ_CFG__FILT k) = 8 ∧ State.reset.chip.fld (POS_PD_CFG__GAP k) = 80)
  ∧ State.reset.chip.fld BSN_PLAN_STAT__STATUS = 4
  ∧ (∀ p < 64, State.reset.chip.fld (TOW_PORT_MARGIN__MIN_MARGIN p) = 0x7FFF)
  ∧ (∀ i < 16, State.reset.chip.fld (TOW_LAD_CTL__FLUSH_TMO i) = 100)
  ∧ State.reset.chip.fld GAU_CFG__TSRC = 1
  ∧ (∀ j < 8, State.reset.chip.reg (WEI_SSM_HINT j) = 0x80008000)
  ∧ State.reset.chip.fld (LKP_ECOEF__ECOEF 0) = 144 ∧ State.reset.chip.fld (LKP_ECOEF__ECOEF 1) = 470
  ∧ State.reset.chip.fld (LKP_ECOEF__ECOEF 2) = 625 ∧ State.reset.chip.fld AQU_CFG__JOIN_TMO = 10
  ∧ State.reset.chip.fld HST_ID__PART = 0x6256
  ∧ State.reset.chip.flag LOG_CFG__EN = true ∧ State.reset.chip.flag LOG_CFG__RESTORE_EN = true
  ∧ State.reset.chip.fld LOG_CFG__POST_P = 16 ∧ State.reset.chip.fld LOG_CFG__SAVE_P = 64

/-- No command breaks the canonical form of the registers, the memories, the Logbook or the flash. -/
def Obligations.StepKeepsCanonicalForm : Prop :=
  ∀ s s' : State, s.chip.canon = true → step s = .next s' → s'.chip.canon = true

/-- Only the commands that put the device into a cold reset or release it set time back, and then to 0. -/
def Obligations.TimeRunsBackOnlyThroughAColdReset : Prop :=
  ∀ (i : Instr) (s s' : State), exec i s = .next s' →
    s.chip.now ≤ s'.chip.now ∨
    (s'.chip.now = 0 ∧ s'.chip.boot.phase ≠ .run ∧
      (match i with
       | .vinRise _ | .resetN _ _ | .brownout _ | .thermalHold _ | .thermalHoldEnd _ | .testmodeChange _ _
       | .clockReturn _ | .weirClockInterval _ _ => True
       | _ => False))

/-- The OTP is not writable by any command, and MIN_SVN only rises. -/
def Obligations.OneTimeProgrammingIsNeverUndone : Prop :=
  ∀ s s' : State, step s = .next s' → Otp.grows s.chip.boot.otp s'.chip.boot.otp

/-- Frames, datagrams, messages and pin edges are only ever added. -/
def Obligations.WhatIsSentStaysSent : Prop :=
  ∀ s s' : State, step s = .next s' → s.chip.out <+: s'.chip.out ∧ s.chip.fresh ≤ s'.chip.fresh

/-- The frame of all 222 commands, part by part. -/
def Obligations.CommandsChangeOnlyTheirParts : Prop :=
  ∀ (i : Instr) (s s' : State), exec i s = .next s' →
    ∀ p : Part, p ∉ Part.common → p ∉ partsOf i → p.same s.chip s'.chip

/-- Building a packet and checking it gives back opcode, tag, target and payload. -/
def Obligations.PacketsReadBackWhole : Prop :=
  ∀ (op : Nat) (tag target : Word) (pl : List Word),
    opInfo op ≠ none → lenOk op pl = true → target.toNat < 2 ^ 16 → pl.length ≤ 4095 →
    checkPacket (packet (w32 op) tag target pl) (16 + 4 * pl.length) true = (stOK, op, tag, target, pl)

/-- The order of the first four checks. -/
def Obligations.PacketChecksComeInOrder : Prop :=
  ∀ (ws : List Word) (bytes : Nat) (always : Bool),
    let ver := bits (wordAt ws 0) 31 28 = 1
    let len := bytes = 16 + 4 * bits (wordAt ws 0) 27 16 ∧ lenOk (bits (wordAt ws 0) 15 0) (ws.drop 4) = true
    let crc := (always = true ∨ ws.getD 3 0 ≠ 0) → ws.getD 3 0 = crc32w (ws.take 3 ++ [0] ++ ws.drop 4)
    let known := opInfo (bits (wordAt ws 0) 15 0) ≠ none
    let st := (checkPacket ws bytes always).1
    (st = stBAD_VERSION ↔ ¬ ver) ∧ (st = stBAD_LENGTH ↔ ver ∧ ¬ len) ∧ (st = stBAD_CRC ↔ ver ∧ len ∧ ¬ crc)
      ∧ (st = stBAD_OPCODE ↔ ver ∧ len ∧ crc ∧ ¬ known) ∧ (st = stOK ↔ ver ∧ len ∧ crc ∧ known)

/-- SNAP, TB_READ, TIM_TALLY_W0_READ, FRAME_STAMP and FRAME_SEND. -/
def Obligations.TimeBasesAreReadAndSnappedWhole : Prop :=
  ∀ (s : State) (t : Nat) (ifc : Iface), s.chip.ready t →
    (s.chip.serves ifc = true → ∃ s', exec (.snap t ifc) s = .next s' ∧ s'.chip.now = t
      ∧ (∀ i < 19, s'.chip.reg (TIM_SNAP i) = wordAt (s.chip.at t).allBases i)
      ∧ s'.chip.reg (TIM_SNAP 0) = t * 5 / 4 % 2 ^ 32 ∧ s'.chip.reg (TIM_SNAP 1) = t * 5 / 4 / 2 ^ 32 % 2 ^ 32
      ∧ s'.chip.fld TIM_SNAP_CTL__SEQ = (s.chip.fld TIM_SNAP_CTL__SEQ + 1) % 2 ^ 16
      ∧ s.chip.regsBut s'.chip (TIM_SNAP_CTL :: (List.range 19).map TIM_SNAP)) ∧
    (∀ k : Fin 8, s.chip.serves ifc = true → ∃ s', exec (.tbRead t ifc k) s = .next s' ∧ s'.chip.now = t
      ∧ s.chip.sent s'.chip [.read ifc (((s.chip.at t).baseWords k.val).getD 0 0)]
      ∧ (if 1 ≤ k.val ∧ k.val ≤ 3 then (s'.chip.snap ifc).wide = ((s.chip.at t).baseWords k.val).drop 1
         else (s'.chip.snap ifc).hi = ((s.chip.at t).baseWords k.val).getD 1 0)
      ∧ s.chip.regsSame s'.chip) ∧
    (s.chip.serves ifc = true → ∃ s', exec (.timTallyW0Read t ifc) s = .next s' ∧ s'.chip.now = t ∧ s.chip.regsSame s'.chip
      ∧ (match s.chip.tim.tally with
         | [] => s.chip.sent s'.chip [.read ifc 0] ∧ (s'.chip.snap ifc).tally = [0, 0, 0] ∧ s'.chip.tim = s.chip.tim
         | e :: rest => s.chip.sent s'.chip [.read ifc (e.getD 0 0)] ∧ (s'.chip.snap ifc).tally = e.drop 1
             ∧ s'.chip.tim = { s.chip.tim with tally := rest })) ∧
    (∀ (m : Fin 2) (ab : Bool) (q : StampReq), s.chip.tim.stamps.find? (fun q => q.mac == m.val) = some q →
      s.chip.tim.tally.length < 32 →
      ∃ s', exec (.frameStamp t m ab) s = .next s' ∧ s'.chip.now = t
        ∧ s'.chip.tim = { s.chip.tim with stamps := s.chip.tim.stamps.erase q
                                          tally := s.chip.tim.tallyWith t ((s.chip.at t).tallyEntry q ab)
                                          tallyT := t }
        ∧ (s.chip.tim.tallyT ≠ t → s'.chip.tim.tally = s.chip.tim.tally ++ [(s.chip.at t).tallyEntry q ab])
        ∧ s.chip.regsBut s'.chip [TIM_INT_STATUS]) ∧
    (∀ (tag target : Word) (pl : List Word), s.chip.takes t 0x0703 ifc tag target pl 0 →
      bits (wordAt pl 0) 5 4 = 3 →
      ∃ s', exec (.frameSend t ifc tag target pl) s = .next s' ∧ Done s t 0x0703 ifc tag target pl stINVALID_ARG 0 [] s'
        ∧ s'.chip.tim = s.chip.tim
        ∧ s'.chip.hst.sendTicks = s.chip.hst.sendTicks
        ∧ s.chip.regsSame s'.chip) ∧
    (∀ (tag target : Word) (pl : List Word), s.chip.takes t 0x0703 ifc tag target pl 0 →
      bits (wordAt pl 0) 5 4 ≠ 3 →
      (bits (wordAt pl 1) 10 0 < 14 ∨ 1518 < bits (wordAt pl 1) 10 0) →
      ∃ s', exec (.frameSend t ifc tag target pl) s = .next s' ∧ Done s t 0x0703 ifc tag target pl stINVALID_ARG 1 [] s'
        ∧ s'.chip.tim = s.chip.tim
        ∧ s'.chip.hst.sendTicks = s.chip.hst.sendTicks
        ∧ s.chip.regsSame s'.chip) ∧
    (∀ (tag target : Word) (pl : List Word), s.chip.takes t 0x0703 ifc tag target pl 0 →
      bits (wordAt pl 0) 5 4 ≠ 3 →
      14 ≤ bits (wordAt pl 1) 10 0 →
      bits (wordAt pl 1) 10 0 ≤ 1518 →
      10000 ≤ ((tabGet (fun _ => ([] : List Nat)) s.chip.hst.sendTicks (bits (wordAt pl 0) 0 0)).filter (fun x => decide (t < x + 800000000))).length →
      ∃ s', exec (.frameSend t ifc tag target pl) s = .next s' ∧ Done s t 0x0703 ifc tag target pl stBUSY 0 [] s'
        ∧ s'.chip.tim = s.chip.tim
        ∧ s'.chip.hst.sendTicks = s.chip.hst.sendTicks
        ∧ s.chip.regsSame s'.chip) ∧
    (∀ (tag target : Word) (pl : List Word), s.chip.takes t 0x0703 ifc tag target pl 0 →
      bits (wordAt pl 0) 5 4 ≠ 3 →
      14 ≤ bits (wordAt pl 1) 10 0 →
      bits (wordAt pl 1) 10 0 ≤ 1518 →
      ((tabGet (fun _ => ([] : List Nat)) s.chip.hst.sendTicks (bits (wordAt pl 0) 0 0)).filter (fun x => decide (t < x + 800000000))).length < 10000 →
      ∃ s', exec (.frameSend t ifc tag target pl) s = .next s' ∧ Done s t 0x0703 ifc tag target pl stOK 0 [] s'
        ∧ s.chip.sent s'.chip [.eth (bits (wordAt pl 0) 0 0) ((wordsBytes (pl.drop 2)).take (bits (wordAt pl 1) 10 0))]
        ∧ tabGet (fun _ => ([] : List Nat)) s'.chip.hst.sendTicks (bits (wordAt pl 0) 0 0) = (tabGet (fun _ => ([] : List Nat)) s.chip.hst.sendTicks (bits (wordAt pl 0) 0 0)).filter (fun x => decide (t < x + 800000000)) ++ [t]
        ∧ s'.chip.tim = { s.chip.tim with stamps := s.chip.tim.stamps ++ (if (wordAt pl 0).testBit 1 then [(⟨bits (wordAt pl 0) 0 0, bits (wordAt pl 0) 31 16, bits (wordAt pl 0) 5 4⟩ : StampReq)] else []) }
        ∧ s.chip.regsSame s'.chip)

/-- PTP_SYNC_RECEIVED, DELAY_RESP_RECEIVED, PDELAY_REQ_RECEIVED and DELAY_REQ_INTERVAL. -/
def Obligations.PtpServoFollowsTheMaster : Prop :=
  ∀ (s : State) (t : Nat) (d : Fin 2), s.chip.ready t →
    (∀ y : PtpSync, s.chip.ptpHeard d.val y.head = true → (s.chip.at t).syncAllowed d.val = true →
      ∃ s', exec (.ptpSyncReceived t d y) s = .next s' ∧ s'.chip.now = t
        ∧ (s'.chip.dom d.val).lastSync = t ∧ (s'.chip.dom d.val).gm = y.gm ∧ (s'.chip.dom d.val).t0 = t
        ∧ (if s.chip.domState d.val = 1 ∨ s.chip.domState d.val = 4
              ∨ (s.chip.domState d.val = 2 ∧ (s.chip.dom d.val).stepped = false)
              ∨ s.chip.reg (TIM_DOM_STEP d.val) * 65536 < ((s.chip.at t).syncOffset d.val y).natAbs then
            (s'.chip.dom d.val).v0 = (s.chip.dom d.val).at t - (s.chip.at t).syncOffset d.val y
          else (s'.chip.dom d.val).v0 = (s.chip.dom d.val).at t
            ∧ -200000 ≤ (s'.chip.dom d.val).f ∧ (s'.chip.dom d.val).f ≤ 200000)
        ∧ s'.chip.dom (1 - d.val) = s.chip.dom (1 - d.val)) ∧
    (∀ y : PtpSync, s.chip.ptpHeard d.val y.head = false →
      ∃ s', exec (.ptpSyncReceived t d y) s = .next s' ∧ s'.chip.tim = s.chip.tim ∧ s.chip.regsSame s'.chip) ∧
    (∀ y : PtpSync, s.chip.ptpHeard d.val y.head = true → (s.chip.at t).syncAllowed d.val = false →
      ∃ s', exec (.ptpSyncReceived t d y) s = .next s' ∧ s'.chip.tim = s.chip.tim
        ∧ s'.chip.fld (TIM_DOM_CNT__DISC_CNT d.val)
          = satAdd (TIM_DOM_CNT__DISC_CNT d.val) (s.chip.fld (TIM_DOM_CNT__DISC_CNT d.val)) 1
        ∧ s.chip.regsBut s'.chip [TIM_DOM_CNT d.val]) ∧
    (∀ y : PtpDelay, s.chip.ptpHeard d.val y.head = true →
      ∃ s', exec (.delayRespReceived t d y) s = .next s' ∧ s'.chip.now = t
        ∧ s.chip.regsBut s'.chip [TIM_DOM_PATH 0, TIM_DOM_PATH 1]
        ∧ (s'.chip.dom d.val).reqLog = (if y.logReq.isSome then y.logReq else (s.chip.dom d.val).reqLog)
        ∧ (if s.chip.fld (TIM_DOM_CFG__PROFILE d.val) = 0 then
             (s'.chip.dom d.val).delays = (y.delay :: (s.chip.dom d.val).delays).take 128 ∧ s'.chip.tim.peer = s.chip.tim.peer
           else tabGet (fun _ => 0) s'.chip.tim.peer (s.chip.fld (TIM_DOM_CFG__MAC d.val)) = y.delay
             ∧ (s'.chip.dom d.val).delays = (s.chip.dom d.val).delays)
        ∧ (∀ e < 2, s'.chip.fldI (TIM_DOM_PATH__PATH e) = signed 32 (unsigned 32 (nsOf (s'.chip.meanPath e))))) ∧
    (∀ y : PtpDelay, s.chip.ptpHeard d.val y.head = false →
      ∃ s', exec (.delayRespReceived t d y) s = .next s' ∧ s'.chip.now = t ∧ s'.chip.tim = s.chip.tim
        ∧ s.chip.regsSame s'.chip) ∧
    (∀ (h : PtpHead) (seq : Word), s.chip.macPeer h = true →
      ∃ s', exec (.pdelayReqReceived t h seq) s = .next s' ∧ s'.chip.now = t
        ∧ s.chip.sent s'.chip [.ptp h.mac.val 3 seq, .ptp h.mac.val 10 seq] ∧ s.chip.regsSame s'.chip) ∧
    (∀ (h : PtpHead) (seq : Word), s.chip.macPeer h = false →
      ∃ s', exec (.pdelayReqReceived t h seq) s = .next s' ∧ s'.chip.now = t ∧ s'.chip.tim = s.chip.tim
        ∧ s.chip.regsSame s'.chip) ∧
    (s.chip.flag (TIM_DOM_CFG__EN d.val) = true →
      (∀ t0 : Nat, (s.chip.dom d.val).reqT = some t0 → t0 + s.chip.reqTicks d.val ≤ t) →
      ∃ s', exec (.delayReqInterval t d) s = .next s' ∧ s'.chip.now = t ∧ s.chip.regsSame s'.chip
        ∧ s.chip.sent s'.chip [.ptp (s.chip.fld (TIM_DOM_CFG__MAC d.val))
            (if s.chip.fld (TIM_DOM_CFG__PROFILE d.val) = 0 then 1 else 2) (w32 (s.chip.dom d.val).reqSeq)]
        ∧ s'.chip.dom d.val = { s.chip.dom d.val with reqT := some t, reqSeq := ((s.chip.dom d.val).reqSeq + 1) % 2 ^ 16 }) ∧
    ((s.chip.flag (TIM_DOM_CFG__EN d.val) = false
        ∨ ∃ t0, (s.chip.dom d.val).reqT = some t0 ∧ t < t0 + s.chip.reqTicks d.val) →
      ∃ s', exec (.delayReqInterval t d) s = .next s' ∧ s'.chip.now = t ∧ s'.chip.tim = s.chip.tim
        ∧ s.chip.regsSame s'.chip)

/-- SYNC_TIMEOUT, HOLD_LIM_EXPIRY, REVERT_TIMER and CORR_SLEW. -/
def Obligations.TimeDomainsFallBackAndTb3Slews : Prop :=
  ∀ (s : State) (t : Nat), s.chip.ready t →
    (∀ d : Fin 2, (s.chip.domState d.val = 2 ∨ s.chip.domState d.val = 3) →
      (s.chip.dom d.val).lastSync + s.chip.syncTmo d.val ≤ t →
      ∃ s', exec (.syncTimeout t d) s = .next s' ∧ s'.chip.now = t ∧ s'.chip.domState d.val = 4
        ∧ (s'.chip.dom d.val).holdStart = t ∧ (s'.chip.dom d.val).f = (s.chip.dom d.val).f) ∧
    (∀ d : Fin 2, s.chip.domState d.val = 4 →
      (s.chip.dom d.val).holdStart + s.chip.fld (TIM_DOM_CFG2__HOLD_LIM d.val) * 800000000 ≤ t →
      ∃ s', exec (.holdLimExpiry t d) s = .next s' ∧ s'.chip.now = t ∧ s'.chip.domState d.val = 4
        ∧ s'.chip.flag (TIM_DOM_STAT__HOLD_EXP d.val) = true ∧ s'.chip.usable d.val = false) ∧
    (∃ s', exec (.revertTimer t) s = .next s' ∧ s'.chip.now = t
      ∧ s'.chip.cur = (s.chip.at t).chooseCur % 2 ∧ s'.chip.tim.evald = true
      ∧ s'.chip.flag TIM_SEL_STAT__TB3_VALID = (s.chip.at t).usable (s.chip.at t).chooseCur) ∧
    (∃ s', exec (.corrSlew t) s = .next s' ∧ s'.chip.now = t ∧ s.chip.regsSame s'.chip
      ∧ s'.chip.tim = { s.chip.tim with corr := s'.chip.tim.corr }
      ∧ (if s.chip.tim.corr.natAbs ≤ s.chip.fld TIM_SEL_CFG__SLEW then s'.chip.tim.corr = 0
         else s'.chip.tim.corr = s.chip.tim.corr - s.chip.tim.corr.sign * (s.chip.fld TIM_SEL_CFG__SLEW : Int)))

/-- TIM_USER_CFG_WRITE and TIM_USER_OFS_HI_WRITE. -/
def Obligations.UserBasesTakeModeAndOffset : Prop :=
  ∀ (s : State) (t : Nat) (ifc : Iface) (u : Fin 2) (v : Word), s.chip.ready t → s.chip.serves ifc = true →
    (s.chip.userLoop u.val v.toNat = true →
      ∃ s', exec (.timUserCfgWrite t ifc u v) s = .next s' ∧ s'.chip.now = t ∧ s'.chip.tim = s.chip.tim
        ∧ s'.chip.flag TIM_STATUS__CFG_REJ = true ∧ s.chip.regsBut s'.chip [TIM_STATUS]) ∧
    (s.chip.userLoop u.val v.toNat = false →
      ∃ s', exec (.timUserCfgWrite t ifc u v) s = .next s' ∧ s'.chip.now = t
        ∧ s'.chip.reg (TIM_USER_CFG u.val) = v.toNat &&& 0x87FFFFFF
        ∧ s'.chip.flag TIM_INT_STATUS__USER_STEP = true
        ∧ (s'.chip.user u.val).t0 = t
        ∧ (s.chip.flag (TIM_USER_CFG__SLAVE u.val) = true →
            (s'.chip.user u.val).v0 = ((s.chip.at t).userVal 2 u.val : Int) * 65536)
        ∧ s'.chip.user (1 - u.val) = s.chip.user (1 - u.val)
        ∧ s.chip.regsBut s'.chip [TIM_USER_CFG u.val, TIM_INT_STATUS]) ∧
    (∃ s', exec (.timUserOfsHiWrite t ifc u v) s = .next s' ∧ s'.chip.now = t
      ∧ s'.chip.reg (TIM_USER_OFS_HI u.val) = v.toNat
      ∧ s'.chip.flag TIM_INT_STATUS__USER_STEP = true
      ∧ (s'.chip.user u.val).ofs = s.chip.reg (TIM_USER_OFS_LO u.val) + v.toNat * 2 ^ 32
      ∧ (s.chip.flag (TIM_USER_CFG__SLAVE u.val) = false →
          (s'.chip.user u.val).v0 = ((s.chip.reg (TIM_USER_OFS_LO u.val) + v.toNat * 2 ^ 32 : Nat) : Int) * 65536
            ∧ (s'.chip.user u.val).t0 = t)
      ∧ s.chip.regsBut s'.chip [TIM_USER_OFS_HI u.val, TIM_INT_STATUS])

/-- WIDE_VALUE_LO_READ, RC_FIELD_READ and LADING_DATA_LO_READ. -/
def Obligations.ReadsTakeSnapshotsAndClear : Prop :=
  ∀ (s : State) (t : Nat) (ifc : Iface), s.chip.ready t → s.chip.serves ifc = true →
    (∀ off : Nat, isWideLo off = true →
      ∃ s', exec (.wideValueLoRead t ifc ⟨off, 1⟩) s = .next s' ∧ s'.chip.now = t
        ∧ s.chip.sent s'.chip [.read ifc (w32 ((s.chip.at t).view off))]
        ∧ (s'.chip.snap ifc).hi = w32 ((s.chip.at t).view (off + 4))
        ∧ s.chip.regsSame s'.chip) ∧
    (∀ off : Nat, isWideLo off = true → off % 8 = 0 →
      ∃ s', exec (.wideValueLoRead t ifc ⟨off, 2⟩) s = .next s' ∧ s'.chip.now = t
        ∧ s.chip.sent s'.chip [.read ifc (w32 ((s.chip.at t).view off)), .read ifc (w32 ((s.chip.at t).view (off + 4)))]
        ∧ s.chip.regsSame s'.chip) ∧
    (∀ r : RegRead, r.ndw ≠ 1 → (r.ndw ≠ 2 ∨ r.off % 8 ≠ 0) → ∀ i ∈ [Instr.wideValueLoRead t .pcie r, .rcFieldRead t .pcie r],
      s.chip.serves .pcie = true →
      ∃ s', exec i s = .next s' ∧ s'.chip.now = t ∧ s.chip.sent s'.chip [.unsupported .pcie] ∧ s.chip.regsSame s'.chip
        ∧ s'.chip.hst.snaps = s.chip.hst.snaps) ∧
    (∀ (off : Nat) (k : Fin 8), baseLo off = some k.val →
      exec (.wideValueLoRead t ifc ⟨off, 1⟩) s = exec (.tbRead t ifc k) s) ∧
    (∀ (w : Fin 3) (p : Fin 8),
      ∃ s', exec (.rcFieldRead t ifc ⟨LKP_DEPTH w.val p.val, 1⟩) s = .next s' ∧ s'.chip.now = t
        ∧ s.chip.regsBut s'.chip [LKP_DEPTH w.val p.val]
        ∧ ((s.chip.at t).edge (LKP_DEPTH w.val p.val) = none →
            s.chip.sent s'.chip [.read ifc (w32 ((s.chip.at t).view (LKP_DEPTH w.val p.val)))]
            ∧ s'.chip.fld (LKP_DEPTH__MAX w.val p.val) = (s.chip.list w.val p.val).length % 2 ^ 9)) ∧
    (∀ off : Nat, rcMask off ≠ 0 → (∀ (w : Fin 3) (p : Fin 8), off ≠ LKP_DEPTH w.val p.val) → (s.chip.at t).edge off = none →
      ∃ s', exec (.rcFieldRead t ifc ⟨off, 1⟩) s = .next s' ∧ s'.chip.now = t
        ∧ s.chip.sent s'.chip [.read ifc (w32 ((s.chip.at t).view off))]
        ∧ s'.chip.reg off &&& rcMask off = 0
        ∧ s'.chip.reg off ||| rcMask off = s.chip.reg off ||| rcMask off
        ∧ s.chip.regsBut s'.chip [off]) ∧
    (∀ (off : Nat) (e : Word × Word), rcMask off ≠ 0 → (∀ (w : Fin 3) (p : Fin 8), off ≠ LKP_DEPTH w.val p.val) →
      (s.chip.at t).edge off = some e →
      ∃ s', exec (.rcFieldRead t ifc ⟨off, 1⟩) s = .next s' ∧ s'.chip.now = t
        ∧ s.chip.sent s'.chip [.read ifc (w32 (((s.chip.at t).view off &&& ((2 ^ 32 - 1) ^^^ rcMask off)) ||| (e.1.toNat &&& rcMask off)))]
        ∧ s'.chip.reg off &&& rcMask off = e.2.toNat &&& rcMask off
        ∧ s'.chip.reg off ||| rcMask off = s.chip.reg off ||| rcMask off
        ∧ s.chip.regsBut s'.chip [off]) ∧
    (∀ l : LadId, (s.chip.lad l).flushAt = none → ∀ (w : LadWord) (rest : List LadWord), (s.chip.lad l).words = w :: rest →
      ∃ s', exec (.ladingDataLoRead t ifc l) s = .next s' ∧ s'.chip.now = t
        ∧ s.chip.sent s'.chip [.read ifc (w32 w.data.toNat)]
        ∧ (s'.chip.snap ifc).hi = w32 (w.data.toNat / 2 ^ 32) ∧ (s'.chip.snap ifc).tag = w.tagWord
        ∧ s'.chip.lad l = { s.chip.lad l with words := rest }
        ∧ s.chip.regsSame s'.chip) ∧
    (∀ l : LadId, ((s.chip.lad l).flushAt.isSome = true ∨ (s.chip.lad l).words = []) →
      ∃ s', exec (.ladingDataLoRead t ifc l) s = .next s' ∧ s'.chip.now = t
        ∧ s.chip.sent s'.chip [.read ifc 0]
        ∧ (s'.chip.snap ifc).hi = 0 ∧ (s'.chip.snap ifc).tag = 0x80000000#32
        ∧ s'.chip.hst.lad = s.chip.hst.lad
        ∧ s.chip.regsSame s'.chip)

/-- LADING_FLUSH and FLUSH_TIMEOUT. -/
def Obligations.FlushDiscardsNowOrAtItsTimeout : Prop :=
  ∀ (s : State) (t : Nat) (ifc : Iface) (l : LadId), s.chip.ready t →
    (s.chip.serves ifc = true → ∃ s', exec (.ladingFlush t ifc l) s = .next s' ∧ s'.chip.now = t ∧ s.chip.regsSame s'.chip
      ∧ ((s.chip.lad l).writing = false → s'.chip.lad l = { s.chip.lad l with words := [], flushAt := none })
      ∧ ((s.chip.lad l).writing = true → (s.chip.lad l).flushAt = none →
          s'.chip.lad l = { s.chip.lad l with flushAt := some t })
      ∧ ((s.chip.lad l).writing = true → (s.chip.lad l).flushAt.isSome = true → s'.chip.lad l = s.chip.lad l)
      ∧ (∀ m : LadId, m.key ≠ l.key → s'.chip.lad m = s.chip.lad m)) ∧
    (∀ t0 : Nat, (s.chip.lad l).flushAt = some t0 → t0 + max (bits (s.chip.reg l.ctl) 15 0) 1 * 800 ≤ t →
      ∃ s', exec (.flushTimeout t l) s = .next s' ∧ s'.chip.now = t
        ∧ s'.chip.lad l = ⟨[], [], false, none, true⟩
        ∧ bits (s'.chip.reg l.stat) 30 30 = 1
        ∧ s.chip.regsBut s'.chip [l.stat]
        ∧ (∀ m : LadId, m.key ≠ l.key → s'.chip.lad m = s.chip.lad m)) ∧
    (((s.chip.lad l).flushAt = none ∨ ∃ t0, (s.chip.lad l).flushAt = some t0 ∧ t < t0 + max (bits (s.chip.reg l.ctl) 15 0) 1 * 800) →
      ∃ s', exec (.flushTimeout t l) s = .next s' ∧ s'.chip.now = t ∧ s'.chip.lad l = s.chip.lad l
        ∧ s.chip.regsSame s'.chip)

/-- BAR0_WRITE, BAR2_ACCESS and FAST_STATUS_UPDATE. -/
def Obligations.Bar0TakesWholeWordsAndBar2OnlyReads : Prop :=
  ∀ (s : State) (t : Nat), s.chip.ready t →
    (∀ (off : Nat) (v : Word), off % 4 = 0 → off < 0x10000 → ¬ (0x200 ≤ off ∧ off < 0x400) →
      ¬ (0x1000 ≤ off ∧ off < 0x5000) → ∀ r : RegRow, regRow off = some r →
      LadId.all.find? (fun l => l.ctl == off) = none → (s.chip.at t).ownerWrite .pcie off v.toNat = none →
      s.chip.serves .pcie = true →
      ∃ s', exec (.bar0Write t off [v]) s = .next s' ∧ s'.chip.now = t
        ∧ (∀ i < 32, (s'.chip.reg off).testBit i
            = if v.toNat.testBit i && r.w1c.testBit i && !(((s.chip.at t).edge off).getD (0, 0)).2.toNat.testBit i then false
              else if r.rw.testBit i then v.toNat.testBit i else (s.chip.reg off).testBit i)
        ∧ s.chip.regsBut s'.chip [off]) ∧
    (∀ (off : Nat) (vs : List Word), bar0SizeOk off vs.length = false → s.chip.serves .pcie = true →
      ∃ s', exec (.bar0Write t off vs) s = .next s' ∧ s'.chip.now = t
        ∧ s'.chip.flag HST_STATUS__ACC_ERR = true
        ∧ s'.chip.flag HST_INT_STATUS__ACC_ERR = (!s.chip.flag HST_STATUS__ACC_ERR || s.chip.flag HST_INT_STATUS__ACC_ERR)
        ∧ s.chip.regsBut s'.chip [HST_STATUS, HST_INT_STATUS]) ∧
    (∀ (off ndw : Nat) (ue : List Nat), s.chip.serves .pcie = true →
      ∃ s', exec (.bar2Access t off true ndw ue) s = .next s' ∧ s'.chip.now = t
        ∧ s'.chip.flag HST_STATUS__ACC_ERR = true
        ∧ s'.chip.flag HST_INT_STATUS__ACC_ERR = (!s.chip.flag HST_STATUS__ACC_ERR || s.chip.flag HST_INT_STATUS__ACC_ERR)
        ∧ s.chip.regsBut s'.chip [HST_STATUS, HST_INT_STATUS]
        ∧ s'.chip.log = s.chip.log ∧ s'.chip.mem = s.chip.mem) ∧
    (∀ off ndw : Nat, s.chip.serves .pcie = true →
      ∃ s', exec (.bar2Access t off false ndw []) s = .next s' ∧ s'.chip.now = t
        ∧ s.chip.sent s'.chip ((List.range ndw).map (fun i => .read .pcie (s.chip.bar2Word (off + 4 * i))))
        ∧ s.chip.regsSame s'.chip ∧ s'.chip.log = s.chip.log) ∧
    (s.chip.now ≤ s.chip.pnd.start + 8 →
      ∃ s', exec .fastStatusUpdate s = .next s' ∧ s'.chip.now = s.chip.pnd.start + 8
        ∧ tabGet (fun _ => 0) s'.chip.hst.fast 0x480 = w32 ((tabGet (fun _ => 0) s.chip.hst.fast 0x480).toNat + 1)
        ∧ (∀ i < 13, tabGet (fun _ => 0) s'.chip.hst.fast (0x484 + 4 * i)
            = ((s.chip.at (s.chip.pnd.start + 8)).fastWords).getD i 0)
        ∧ s.chip.regsSame s'.chip)

/-- SQ_DOORBELL, SQ_FETCH, COMPLETION_POST, CQ_HEAD_WRITE, RING_ENABLE and VEC_REARM. -/
def Obligations.RingsTakeAndAnswerCommands : Prop :=
  ∀ (s : State) (t : Nat) (ifc : Iface), s.chip.ready t →
    (∀ v : Word, s.chip.serves ifc = true → ∃ s', exec (.sqDoorbell t ifc v) s = .next s' ∧ s'.chip.now = t
      ∧ (if (v.toNat % 256 + 256 - s.chip.fld HST_SQ_TAIL__TAIL) % 256
            ≤ 255 - (s.chip.fld HST_SQ_TAIL__TAIL + 256 - s.chip.fld HST_SQ_HEAD__HEAD) % 256 then
          s'.chip.fld HST_SQ_TAIL__TAIL = v.toNat % 256 ∧ s.chip.regsBut s'.chip [HST_SQ_TAIL]
        else s'.chip.flag HST_STATUS__DB_ERR = true ∧ s'.chip.flag HST_INT_STATUS__DB_ERR = (!s.chip.flag HST_STATUS__DB_ERR || s.chip.flag HST_INT_STATUS__DB_ERR)
          ∧ s.chip.regsBut s'.chip [HST_STATUS, HST_INT_STATUS])) ∧
    (∀ (op : Nat) (tag target : Word) (pl : List Word), s.chip.sqReady = true →
      opInfo op ≠ none → lenOk op pl = true → target.toNat < 2 ^ 16 → pl.length ≤ 4095 →
      ∃ s', exec (.sqFetch t (some (packet (w32 op) tag target pl))) s = .next s' ∧ s'.chip.now = t
        ∧ s'.chip.fld HST_SQ_HEAD__HEAD = (s.chip.fld HST_SQ_HEAD__HEAD + 1) % 256
        ∧ s'.chip.hst.intake = s.chip.hst.intake ++
            [⟨op, tag, target, pl, { s.chip.sqOrigin with crc := (packet (w32 op) tag target pl).getD 3 0 }, .command⟩]
        ∧ s.chip.regsBut s'.chip [HST_SQ_HEAD]) ∧
    (s.chip.sqReady = true →
      ∃ s', exec (.sqFetch t none) s = .next s' ∧ s'.chip.now = t
        ∧ s'.chip.fld HST_SQ_HEAD__HEAD = (s.chip.fld HST_SQ_HEAD__HEAD + 1) % 256
        ∧ s'.chip.flag HST_STATUS__DMA_ERR = true ∧ s'.chip.flag HST_INT_STATUS__DMA_ERR = (!s.chip.flag HST_STATUS__DMA_ERR || s.chip.flag HST_INT_STATUS__DMA_ERR)
        ∧ ((∀ x ∈ s.chip.hst.intake, x.org.ifc ≠ .pcie) → s'.chip.hst.intake = s.chip.hst.intake
            ∧ ∃ cp ∈ s'.chip.hst.pendCpl, cp.dmaFail = true ∧ cp.sqIdx = s.chip.fld HST_SQ_HEAD__HEAD)
        ∧ ((∃ x ∈ s.chip.hst.intake, x.org.ifc = .pcie) →
            s'.chip.hst.intake = s.chip.hst.intake ++ [⟨0, 0, 0, [], s.chip.sqOrigin, .dmaFail⟩]
            ∧ s'.chip.hst.pendCpl = s.chip.hst.pendCpl)
        ∧ s.chip.regsBut s'.chip [HST_SQ_HEAD, HST_STATUS, HST_INT_STATUS]) ∧
    (∀ ok : Bool, s.chip.flag HST_RING_CTL__EN = true → s.chip.cqFree = true →
      ∀ (cp : Completion) (rest : List Completion), s.chip.hst.pendCpl = cp :: rest → cp.final = false →
      ∃ s', exec (.completionPost t ok) s = .next s' ∧ s'.chip.now = t ∧ s'.chip.hst.pendCpl = rest
        ∧ (cp.dmaFail = false → ok = true → s.chip.sent s'.chip [.dma cp.addrLo cp.addrHi cp.reply])
        ∧ s'.chip.ringWord (0x3000 + 16 * s.chip.fld HST_CQ_TAIL__TAIL) = cp.w0.toNat
        ∧ s'.chip.ringWord (0x3004 + 16 * s.chip.fld HST_CQ_TAIL__TAIL) = cp.w1.toNat
        ∧ s'.chip.ringWord (0x3008 + 16 * s.chip.fld HST_CQ_TAIL__TAIL)
            = (if cp.dmaFail || (!ok && cp.reply != []) then 0 else cp.w2.toNat)
        ∧ s'.chip.ringWord (0x300C + 16 * s.chip.fld HST_CQ_TAIL__TAIL) = s.chip.fld HST_CQ_TAIL__PHASE * 2 ^ 31
            + b2n cp.trunc * 2 ^ 30 + b2n (cp.dmaFail || (!ok && cp.reply != [])) * 2 ^ 29
            + cp.words % 2 ^ 16 * 2 ^ 8 + cp.sqIdx % 256
        ∧ s'.chip.fld HST_CQ_TAIL__TAIL = (s.chip.fld HST_CQ_TAIL__TAIL + 1) % 256
        ∧ s'.chip.fld HST_CQ_TAIL__PHASE = (if s.chip.fld HST_CQ_TAIL__TAIL = 255 then 1 - s.chip.fld HST_CQ_TAIL__PHASE
            else s.chip.fld HST_CQ_TAIL__PHASE)
        ∧ (cp.noIrq = false → s'.chip.flag HST_INT_STATUS__CQ = true)
        ∧ s.chip.regsBut s'.chip [HST_CQ_TAIL, HST_STATUS, HST_INT_STATUS]) ∧
    (∀ ok : Bool, s.chip.flag HST_RING_CTL__EN = true →
      ∀ (cp : Completion) (rest : List Completion), s.chip.hst.pendCpl = cp :: rest → cp.final = true →
      ∃ s', exec (.completionPost t ok) s = .next s' ∧ s'.chip.now = t ∧ s'.chip.hst.pendCpl = rest
        ∧ (cp.dmaFail = false → ok = true → s.chip.sent s'.chip [.dma cp.addrLo cp.addrHi cp.reply])
        ∧ (cp.dmaFail = false → ok = false → cp.reply ≠ [] → s'.chip.flag HST_STATUS__DMA_ERR = true)
        ∧ s'.chip.reg HST_CQ_TAIL = s.chip.reg HST_CQ_TAIL ∧ s'.chip.hst.ring = s.chip.hst.ring
        ∧ s'.chip.hst.cqIrq = s.chip.hst.cqIrq) ∧
    (∀ v : Word, s.chip.serves ifc = true → ∃ s', exec (.cqHeadWrite t ifc v) s = .next s' ∧ s'.chip.now = t
      ∧ s'.chip.fld HST_CQ_HEAD__HEAD = v.toNat % 256
      ∧ s'.chip.hst.cqIrq = s.chip.hst.cqIrq.filter (fun i =>
          decide ((v.toNat % 256 + 256 - s.chip.fld HST_CQ_HEAD__HEAD) % 256 ≤ (i + 256 - s.chip.fld HST_CQ_HEAD__HEAD) % 256))
      ∧ s.chip.regsBut s'.chip [HST_CQ_HEAD]) ∧
    (∀ v : Word, (s.chip.serves ifc = true ∨ v.toNat.testBit 0 = true) →
      ∃ s', exec (.ringEnable t ifc v) s = .next s' ∧ s'.chip.now = t
      ∧ s'.chip.flag HST_RING_CTL__EN = v.toNat.testBit 0
      ∧ (v.toNat.testBit 0 = true → s'.chip.hst.d3 = false ∧ s.chip.regsBut s'.chip [HST_RING_CTL, HST_CQ_HEAD, HST_CQ_TAIL]
          ∧ (s.chip.flag HST_RING_CTL__EN = false → s'.chip.reg HST_CQ_HEAD = 0 ∧ s'.chip.reg HST_CQ_TAIL = 2 ^ 8)
          ∧ (s.chip.flag HST_RING_CTL__EN = true → s'.chip.reg HST_CQ_HEAD = s.chip.reg HST_CQ_HEAD
              ∧ s'.chip.reg HST_CQ_TAIL = s.chip.reg HST_CQ_TAIL))
      ∧ (v.toNat.testBit 0 = false → s'.chip.reg HST_SQ_TAIL = 0 ∧ s'.chip.reg HST_SQ_HEAD = 0
          ∧ s'.chip.reg HST_CQ_HEAD = 0 ∧ s'.chip.fld HST_CQ_TAIL__TAIL = 0 ∧ s'.chip.fld HST_CQ_TAIL__PHASE = 1
          ∧ s'.chip.hst.pendCpl = [] ∧ (∀ k ∈ s'.chip.hst.intake, k.org.ifc = .pcie → k.org.drop = true)
          ∧ ((∀ cp ∈ s.chip.hst.pendCpl, cp.final = false) →
              s.chip.regsBut s'.chip [HST_RING_CTL, HST_SQ_TAIL, HST_SQ_HEAD, HST_CQ_HEAD, HST_CQ_TAIL]))) ∧
    (∀ v : Word, s.chip.serves ifc = true → ∃ s', exec (.vecRearm t ifc v) s = .next s' ∧ s'.chip.now = t ∧ s.chip.regsSame s'.chip
      ∧ (∀ i < 32, v.toNat.testBit i = true → s.chip.vecCond.testBit i = true →
          (s.chip.msixMasked i = false → Output.msix i ∈ s'.chip.out.drop s.chip.out.length)
          ∧ (s.chip.msixMasked i = true → s'.chip.hst.pba.testBit i = true)))

/-- PCIE_RESET, PCIE_LINK_UP, MAC_LINK_CHANGE, MDIO_GO and MDIO_DONE; an access of the PCIe interface in D3hot has no effect. -/
def Obligations.PcieResetsReachOnlyTheEndpoint : Prop :=
  ∀ (s : State) (t : Nat),
    (∀ k : PcieReset, ∃ s', exec (.pcieReset t k) s = .next s' ∧ s'.chip.now = max s.chip.now t
      ∧ (∀ off < 0x200, off ∉ [HST_STATUS, HST_ETH_MAC_LO 0, HST_ETH_MAC_HI 0, HST_ETH_MAC_LO 1, HST_ETH_MAC_HI 1] →
          s'.chip.reg off = (regReset off).toNat)
      ∧ s'.chip.reg HST_STATUS = s.chip.reg HST_STATUS &&& (if k = .d3hot then 0xFC1 else 0xC0)
      ∧ s'.chip.reg (HST_ETH_MAC_LO 1) = s.chip.boot.otp.mac1.toNat / 2 ^ 16
      ∧ s'.chip.reg (HST_ETH_MAC_HI 1) = s.chip.boot.otp.mac1.toNat % 2 ^ 16
      ∧ ((∀ cp ∈ s.chip.hst.pendCpl, cp.final = false) → ∀ off, 0x200 ≤ off → s'.chip.reg off = s.chip.reg off)
      ∧ s'.chip.hst.mdioBusy = false
      ∧ s'.chip.hst.ring = [] ∧ s'.chip.hst.pendCpl = [] ∧ s'.chip.hst.d3 = decide (k = .d3hot)
      ∧ (∀ c ∈ s'.chip.hst.intake, c.org.ifc = .pcie → c.org.drop = true)
      ∧ s'.chip.hst.intake.length = s.chip.hst.intake.length
      ∧ (∀ l : LadId, s'.chip.lad l = (if 23 ≤ l.key then Lading.empty else s.chip.lad l))
      ∧ s'.chip.lck = s.chip.lck ∧ s'.chip.weir = s.chip.weir ∧ s'.chip.boot = s.chip.boot) ∧
    (∀ (w2 : Bool) (sp : Fin 4), ∃ s', exec (.pcieLinkUp t w2 sp) s = .next s' ∧ s'.chip.now = max s.chip.now t
      ∧ s'.chip.flag HST_STATUS__LINK_UP = true ∧ s'.chip.fld HST_STATUS__WIDTH = (if w2 then 2 else 1)
      ∧ s'.chip.fld HST_STATUS__SPEED = sp.val ∧ s.chip.regsBut s'.chip [HST_STATUS]) ∧
    (∀ (m : Fin 2) (k : MacLink), s.chip.ready t →
      ∃ s', exec (.macLinkChange t m k) s = .next s' ∧ s'.chip.now = t
        ∧ s'.chip.flag (if m.val = 0 then HST_STATUS__ETH0_UP else HST_STATUS__ETH1_UP)
            = (k.up && (k.full || s.chip.flag (HST_ETH_CFG__MODE m.val)))
        ∧ (s.chip.flag (if m.val = 0 then HST_STATUS__ETH0_UP else HST_STATUS__ETH1_UP)
              ≠ (k.up && (k.full || s.chip.flag (HST_ETH_CFG__MODE m.val))) →
            s'.chip.flag HST_INT_STATUS__ETH_LINK = true)
        ∧ (s.chip.flag (HST_ETH_CFG__MODE m.val) = false → tabGet (fun _ => ⟨false, false, false⟩) s'.chip.hst.links m.val = k)
        ∧ s.chip.regsBut s'.chip [HST_STATUS, HST_INT_STATUS]) ∧
    (∀ (ifc : Iface) (v : Word), s.chip.ready t → s.chip.serves ifc = true →
      ∃ s', exec (.mdioGo t ifc v) s = .next s' ∧ s'.chip.now = t ∧ s.chip.regsBut s'.chip [HST_MDIO_CMD]
        ∧ s'.chip.reg HST_MDIO_CMD = v.toNat &&& 0x7FFCFFFF
        ∧ s'.chip.hst.mdioBusy = (s.chip.hst.mdioBusy || v.toNat.testBit 31)
        ∧ (s.chip.hst.mdioBusy = false → v.toNat.testBit 31 = true → s.chip.sent s'.chip [.mdio (w32 (v.toNat &&& 0x7FFCFFFF))])) ∧
    (∀ d : BitVec 16, s.chip.ready t →
      ∃ s', exec (.mdioDone t d) s = .next s' ∧ s'.chip.now = t ∧ s'.chip.hst.mdioBusy = false
        ∧ (s.chip.hst.mdioBusy = true → s.chip.hst.mdioRead = true → s.chip.hst.mdioT ≠ some t →
            s'.chip.fld HST_MDIO_CMD__DATA = d.toNat)
        ∧ ((s.chip.hst.mdioBusy = false ∨ s.chip.hst.mdioRead = false ∨ s.chip.hst.mdioT = some t) → s.chip.regsSame s'.chip)
        ∧ s.chip.regsBut s'.chip [HST_MDIO_CMD]) ∧
    (s.chip.ready t → s.chip.hst.d3 = true → ∀ (v : Word) (l : LadId) (r : RegRead) (k : Fin 8) (ws : List Word),
      ∀ i ∈ [Instr.snap t .pcie, .tbRead t .pcie k, .timTallyW0Read t .pcie, .wideValueLoRead t .pcie r, .rcFieldRead t .pcie r,
          .ladingDataLoRead t .pcie l, .ladingFlush t .pcie l, .bar0Write t r.off ws, .bar2Access t r.off true r.ndw [],
          .sqDoorbell t .pcie v, .cqHeadWrite t .pcie v, .vecRearm t .pcie v, .mdioGo t .pcie v],
        ∃ s', exec i s = .next s' ∧ s'.pending = s.pending ∧ s'.chip = (s.chip.at t).settle)

/-- UDP_COMMAND_RECEIVED, ETH_FRAME_RECEIVED, ARP_RECEIVED, ARP_TIMEOUT and ARP_REFRESH. -/
def Obligations.DatagramsEnterTheQueueOnce : Prop :=
  ∀ (s : State) (t : Nat) (m : Fin 2), s.chip.ready t →
    (∀ (src : UdpSrc) (op : Nat) (tag target : Word) (pl : List Word),
      s.chip.flag (HST_ETH_CFG__EN m.val) = true → s.chip.flag (HST_ETH_CFG__CMD_EN m.val) = true →
      opInfo op ≠ none → lenOk op pl = true → target.toNat < 2 ^ 16 → pl.length ≤ 4095 →
      tabGet (fun _ => []) s.chip.hst.cache m.val = [] → s.chip.udpBusy m.val src tag = false →
      (s.chip.hst.intake.filter (fun k => k.org.ifc == (if m.val = 0 then .mac0 else .mac1))).length < 16 →
      ∃ s', exec (.udpCommandReceived t m src (wordsBytes (packet (w32 op) tag target pl))) s = .next s'
        ∧ s'.chip.now = t
        ∧ s'.chip.hst.intake = s.chip.hst.intake ++ [⟨op, tag, target, pl, ⟨if m.val = 0 then .mac0 else .mac1, 0, 0, 0, 65535,
            false, false, false, src, (packet (w32 op) tag target pl).getD 3 0⟩, .command⟩]
        ∧ s'.chip.fld (HST_ETH_CNT1__CMD_RX m.val)
            = satAdd (HST_ETH_CNT1__CMD_RX m.val) (s.chip.fld (HST_ETH_CNT1__CMD_RX m.val)) 1
        ∧ s.chip.regsBut s'.chip [HST_ETH_CNT1 m.val]) ∧
    (∀ (src : UdpSrc) (bytes : List Byte),
      (s.chip.flag (HST_ETH_CFG__EN m.val) = false ∨ s.chip.flag (HST_ETH_CFG__CMD_EN m.val) = false) →
      ∃ s', exec (.udpCommandReceived t m src bytes) s = .next s' ∧ s'.chip.hst.intake = s.chip.hst.intake
        ∧ s.chip.regsSame s'.chip) ∧
    (∀ (src : UdpSrc) (bytes : List Byte), s.chip.udpBusy m.val src ((bytesWords bytes).getD 1 0) = true →
      ∃ s', exec (.udpCommandReceived t m src bytes) s = .next s' ∧ s'.chip.hst.intake = s.chip.hst.intake
        ∧ s.chip.regsBut s'.chip [HST_ETH_CNT1 m.val]) ∧
    (∀ (src : UdpSrc) (bytes : List Byte) (r : CachedReply),
      s.chip.flag (HST_ETH_CFG__EN m.val) = true → s.chip.flag (HST_ETH_CFG__CMD_EN m.val) = true → 16 ≤ bytes.length →
      tabGet (fun _ => []) s.chip.hst.cache m.val = [r] → r.src = src → r.tag = (bytesWords bytes).getD 1 0 →
      r.crc = (bytesWords bytes).getD 3 0 → t ≤ r.tick + 1600000000 →
      ∃ s', exec (.udpCommandReceived t m src bytes) s = .next s' ∧ s'.chip.hst.intake = s.chip.hst.intake
        ∧ s.chip.sent s'.chip [.udp m.val src.ip src.port (s.chip.fld (HST_ETH_CFG__CMD_PORT m.val)) (wordsBytes r.reply)]
        ∧ s.chip.regsBut s'.chip [HST_ETH_CNT1 m.val]) ∧
    (∀ fr : EthFrame, s.chip.flag (HST_ETH_CFG__EN m.val) = true →
      ∃ s', exec (.ethFrameReceived t m fr) s = .next s' ∧ s'.chip.now = t
        ∧ (fr.fcsOk = false ∨ fr.bytes.length < 60 ∨ 1518 < fr.bytes.length →
            s'.chip.fld (HST_ETH_CNT0__RX_BAD m.val)
              = satAdd (HST_ETH_CNT0__RX_BAD m.val) (s.chip.fld (HST_ETH_CNT0__RX_BAD m.val)) 1
            ∧ s'.chip.hst.lad = s.chip.hst.lad ∧ s.chip.regsBut s'.chip [HST_ETH_CNT0 m.val])
        ∧ (fr.fcsOk = true → 60 ≤ fr.bytes.length → fr.bytes.length ≤ 1514 →
            beAt fr.bytes (ethOff fr.bytes) 2 ≠ 0x8808 → s.chip.ownFrame m.val fr.bytes = false →
            s.chip.filterHit m.val fr.bytes = true →
            (s.chip.lad (.rxf m)).skip = false → (s.chip.lad (.rxf m)).flushAt = none →
            (s.chip.lad (.rxf m)).words.length + (fr.bytes.length + 7) / 8 + 2 ≤ 1024 →
            (s'.chip.lad (.rxf m)).words = (s.chip.lad (.rxf m)).words ++ endWords (wordsBytes
              [w32 (fr.bytes.length + 2 ^ 16), 0, w32i ((tb0Of t : Nat) + s.chip.fldI (TIM_LAT__RX_LAT m.val)),
               w32i (((tb0Of t : Nat) + s.chip.fldI (TIM_LAT__RX_LAT m.val)) / (2 ^ 32 : Nat))] ++ fr.bytes) false
            ∧ s.chip.regsSame s'.chip)
        ∧ (fr.fcsOk = true → 60 ≤ fr.bytes.length → fr.bytes.length ≤ 1514 → s.chip.ownFrame m.val fr.bytes = false →
            s.chip.filterHit m.val fr.bytes = false → s'.chip.hst.lad = s.chip.hst.lad ∧ s.chip.regsSame s'.chip)) ∧
    (∀ a : ArpFrame, s.chip.flag (HST_ETH_CFG__EN m.val) = true →
      ∃ s', exec (.arpReceived t m a) s = .next s' ∧ s'.chip.now = t ∧ s.chip.regsSame s'.chip
        ∧ (a.request = true → a.targetIp.toNat = s.chip.reg (HST_ETH_IP m.val) →
            s.chip.sent s'.chip [.eth m.val (s.chip.arpFrame m.val 2 a.senderHw.toNat a.senderHw.toNat a.senderIp.toNat)]
            ∧ s'.chip.hst.arp = s.chip.hst.arp)
        ∧ (a.request = true → a.targetIp.toNat ≠ s.chip.reg (HST_ETH_IP m.val) → s'.chip.hst.arp = s.chip.hst.arp)
        ∧ (a.request = false →
            (⟨m.val, a.senderIp, a.senderHw, t⟩ : ArpEntry) ∈ s'.chip.hst.arp
            ∧ (∀ e ∈ s'.chip.hst.arp, e.mac = m.val → e.ip = a.senderIp → e.hw = a.senderHw)
            ∧ (∀ w ∈ s.chip.hst.arpWait, w.mac = m.val → w.hop = a.senderIp →
                Output.udp m.val w.ip w.dstPort w.srcPort w.data ∈ s'.chip.out ∧ w ∉ s'.chip.hst.arpWait))) ∧
    (∃ s', exec (.arpTimeout t m) s = .next s' ∧ s'.chip.now = t
      ∧ (∀ w : ArpWait, w ∈ s'.chip.hst.arpWait ↔ w ∈ s.chip.hst.arpWait ∧ (w.mac = m.val → t < w.tick + 8000000))
      ∧ s'.chip.fld (HST_ETH_CNT0__NOARP_CNT m.val)
          = satAdd (HST_ETH_CNT0__NOARP_CNT m.val) (s.chip.fld (HST_ETH_CNT0__NOARP_CNT m.val))
              (s.chip.hst.arpWait.filter (fun w => w.mac == m.val && decide (w.tick + 8000000 ≤ t))).length
      ∧ s.chip.regsBut s'.chip [HST_ETH_CNT0 m.val]) ∧
    (∀ i : Fin 16, ∃ s', exec (.arpRefresh t m i) s = .next s' ∧ s'.chip.now = t ∧ s.chip.regsSame s'.chip
      ∧ (∀ e : ArpEntry, (s.chip.hst.arp.filter (fun e => e.mac == m.val))[i.val]? = some e →
          (e.tick + 48000000000 ≤ t →
            s.chip.sent s'.chip [.eth m.val (s.chip.arpFrame m.val 1 e.hw.toNat 0 e.ip.toNat)]
            ∧ { e with tick := t } ∈ s'.chip.hst.arp)
          ∧ (t < e.tick + 48000000000 → s'.chip.hst.arp = s.chip.hst.arp)))

/-- SPI_WRITE, SPI_READ and SPI_STATUS. -/
def Obligations.SpiServesOneCommandAtATime : Prop :=
  ∀ (s : State) (t : Nat), s.chip.ready t →
    (∀ (op : Nat) (tag target : Word) (pl : List Word), opInfo op ≠ none → lenOk op pl = true →
      target.toNat < 2 ^ 16 → pl.length ≤ 4095 → s.chip.hst.spiReplies.length < 4 → s.chip.hst.spiExec = false →
      ∃ s', exec (.spiWrite t (wordsBytes (packet (w32 op) tag target pl))) s = .next s' ∧ s'.chip.now = t
        ∧ s'.chip.hst.intake = s.chip.hst.intake ++ [⟨op, tag, target, pl, ⟨.spi, 0, 0, 0, 65535, false, false, false,
            ⟨0, 0, 0⟩, (packet (w32 op) tag target pl).getD 3 0⟩, .command⟩]
        ∧ s'.chip.hst.spiExec = true ∧ s'.chip.hst.spiReplies = s.chip.hst.spiReplies ∧ s.chip.regsSame s'.chip) ∧
    (∀ bytes : List Byte, (4 ≤ s.chip.hst.spiReplies.length ∨ s.chip.hst.spiExec = true) →
      ∃ s', exec (.spiWrite t bytes) s = .next s' ∧ s'.chip.now = t ∧ s'.chip.hst.spiOvr = true
        ∧ s'.chip.hst.intake = s.chip.hst.intake ∧ s'.chip.hst.spiReplies = s.chip.hst.spiReplies
        ∧ s.chip.regsSame s'.chip) ∧
    (∀ bytes : List Byte, bytes.length < 16 →
      ∃ s', exec (.spiWrite t bytes) s = .next s' ∧ s'.chip.hst.intake = s.chip.hst.intake ∧ s.chip.regsSame s'.chip) ∧
    (∀ n : Nat, ∃ s', exec (.spiRead t n) s = .next s' ∧ s'.chip.now = t ∧ s.chip.regsSame s'.chip
      ∧ (s.chip.hst.spiReplies = [] → s.chip.sent s'.chip [.spi (List.replicate n 0)] ∧ s'.chip.hst.spiReplies = [])
      ∧ (∀ (r : List Word) (rest : List (List Word)), s.chip.hst.spiReplies = r :: rest →
          s.chip.sent s'.chip [.spi ((wordsBytes r ++ List.replicate n 0).take n)]
          ∧ s'.chip.hst.spiReplies = (if 4 * r.length ≤ n then rest else r :: rest)
          ∧ (4 * r.length ≤ n → rest = [] → Output.pin pinSPIRDY 0 false ∈ s'.chip.out.drop s.chip.out.length))) ∧
    (∃ s', exec (.spiStatus t) s = .next s' ∧ s'.chip.now = t ∧ s.chip.regsSame s'.chip
      ∧ s.chip.sent s'.chip [.spi [BitVec.ofNat 8 (b2n (s.chip.hst.spiReplies != []) + b2n s.chip.hst.spiExec * 2
          + b2n s.chip.hst.spiOvr * 4)]]
      ∧ s'.chip.hst.spiOvr = false ∧ s'.chip.hst.spiReplies = s.chip.hst.spiReplies)

/-- HST_RING_CTL.EN and the resets of R462. -/
def Obligations.ClearedRingsDiscardReplies : Prop :=
  ∀ (s : State) (t : Nat) (ifc : Iface), s.chip.ready t →
    (∀ v : Word, v.toNat.testBit 0 = true →
      ∃ s', exec (.ringEnable t ifc v) s = .next s' ∧ s'.chip.now = t
      ∧ s'.chip.flag HST_RING_CTL__EN = true
      ∧ s.chip.regsBut s'.chip [HST_RING_CTL, HST_CQ_HEAD, HST_CQ_TAIL]
      ∧ (s.chip.flag HST_RING_CTL__EN = false → s'.chip.fld HST_CQ_HEAD__HEAD = 0 ∧ s'.chip.fld HST_CQ_TAIL__TAIL = 0
          ∧ s'.chip.fld HST_CQ_TAIL__PHASE = 1)
      ∧ s'.chip.hst.intake = s.chip.hst.intake
      ∧ s'.chip.hst.pendCpl = s.chip.hst.pendCpl) ∧
    (∀ v : Word, v.toNat.testBit 0 = false → s.chip.serves ifc = true →
      ∃ s', exec (.ringEnable t ifc v) s = .next s' ∧ s'.chip.now = t
      ∧ s'.chip.reg HST_SQ_TAIL = 0
      ∧ s'.chip.reg HST_SQ_HEAD = 0
      ∧ s'.chip.reg HST_CQ_HEAD = 0
      ∧ s'.chip.fld HST_CQ_TAIL__TAIL = 0
      ∧ s'.chip.fld HST_CQ_TAIL__PHASE = 1
      ∧ s'.chip.flag HST_RING_CTL__EN = false
      ∧ s'.chip.hst.pendCpl = []
      ∧ (∀ x ∈ s'.chip.hst.intake, x.org.ifc = .pcie → x.org.drop = true)
      ∧ (∀ x ∈ s'.chip.hst.longs, x.org.ifc = .pcie → x.org.drop = true)
      ∧ (∀ x ∈ s'.chip.man.cancels, x.cmd.org.ifc = .pcie → x.cmd.org.drop = true)
      ∧ (∀ x ∈ s'.chip.slu.writes, x.cmd.org.ifc = .pcie → x.cmd.org.drop = true)
      ∧ (∀ x ∈ s'.chip.aqu.changes, x.org.ifc = .pcie → x.org.drop = true)
      ∧ (∀ x ∈ s'.chip.aqu.handCmd.toList, x.org.ifc = .pcie → x.org.drop = true)
      ∧ (∀ x ∈ (s'.chip.pnd.request.bind (fun r => r.cmd)).toList, x.org.ifc = .pcie → x.org.drop = true)
      ∧ s'.chip.hst.intake.map (fun k => (k.op, k.tag, k.target, k.payload)) = s.chip.hst.intake.map (fun k => (k.op, k.tag, k.target, k.payload))
      ∧ s'.chip.hst.longs.map (fun k => (k.op, k.tag, k.target, k.arg)) = s.chip.hst.longs.map (fun k => (k.op, k.tag, k.target, k.arg))) ∧
    (∀ k : PcieReset,
      ∃ s', exec (.pcieReset t k) s = .next s' ∧ s'.chip.now = t
      ∧ s'.chip.reg HST_SQ_TAIL = 0
      ∧ s'.chip.reg HST_SQ_HEAD = 0
      ∧ s'.chip.reg HST_CQ_HEAD = 0
      ∧ s'.chip.fld HST_CQ_TAIL__TAIL = 0
      ∧ s'.chip.fld HST_CQ_TAIL__PHASE = 1
      ∧ s'.chip.flag HST_RING_CTL__EN = false
      ∧ s'.chip.hst.pendCpl = []
      ∧ (∀ x ∈ s'.chip.hst.intake, x.org.ifc = .pcie → x.org.drop = true)
      ∧ (∀ x ∈ s'.chip.hst.longs, x.org.ifc = .pcie → x.org.drop = true)
      ∧ (∀ x ∈ s'.chip.man.cancels, x.cmd.org.ifc = .pcie → x.cmd.org.drop = true)
      ∧ (∀ x ∈ s'.chip.slu.writes, x.cmd.org.ifc = .pcie → x.cmd.org.drop = true)
      ∧ (∀ x ∈ s'.chip.aqu.changes, x.org.ifc = .pcie → x.org.drop = true)
      ∧ (∀ x ∈ s'.chip.aqu.handCmd.toList, x.org.ifc = .pcie → x.org.drop = true)
      ∧ (∀ x ∈ (s'.chip.pnd.request.bind (fun r => r.cmd)).toList, x.org.ifc = .pcie → x.org.drop = true)
      ∧ s'.chip.hst.intake.map (fun k => (k.op, k.tag, k.target, k.payload)) = s.chip.hst.intake.map (fun k => (k.op, k.tag, k.target, k.payload))
      ∧ s'.chip.hst.longs.map (fun k => (k.op, k.tag, k.target, k.arg)) = s.chip.hst.longs.map (fun k => (k.op, k.tag, k.target, k.arg))) ∧
    (∀ p : Option (List Word), s.chip.flag HST_RING_CTL__EN = false →
      ∃ s', exec (.sqFetch t p) s = .next s' ∧ s'.chip.now = t
      ∧ s.chip.regsSame s'.chip
      ∧ s'.chip.hst.intake = s.chip.hst.intake
      ∧ s'.chip.hst.pendCpl = s.chip.hst.pendCpl) ∧
    (∀ ok : Bool, s.chip.flag HST_RING_CTL__EN = false →
      ∃ s', exec (.completionPost t ok) s = .next s' ∧ s'.chip.now = t
      ∧ s.chip.regsSame s'.chip
      ∧ s'.chip.hst.pendCpl = s.chip.hst.pendCpl
      ∧ s'.chip.hst.ring = s.chip.hst.ring) ∧
    (s.chip.flag HST_RING_CTL__EN = true → s.chip.hst.d3 = false → s.chip.fld HST_SQ_TAIL__TAIL ≠ s.chip.fld HST_SQ_HEAD__HEAD →
      ∃ s', exec (.sqFetch t none) s = .next s' ∧ s'.chip.now = t
      ∧ s'.chip.fld HST_SQ_HEAD__HEAD = (s.chip.fld HST_SQ_HEAD__HEAD + 1) % 256) ∧
    (s.chip.flag HST_RING_CTL__EN = true → s.chip.hst.pendCpl ≠ [] → s.chip.cqFree = true →
      (∀ cp ∈ s.chip.hst.pendCpl, cp.final = false) →
      ∃ s', exec (.completionPost t true) s = .next s' ∧ s'.chip.now = t
      ∧ s'.chip.fld HST_CQ_TAIL__TAIL = (s.chip.fld HST_CQ_TAIL__TAIL + 1) % 256
      ∧ s'.chip.hst.pendCpl = s.chip.hst.pendCpl.tail) ∧
    (∀ (org : Origin) (ws : List Word) (final : Bool), org.ifc = .pcie → org.drop = true → s.chip.deliver org ws final = s.chip)

/-- The checks 2, 5 and 6 of R485 before an opcode's own rules, for every host command. -/
def Obligations.HostCommandsAreCheckedFirst : Prop :=
  ∀ (i : Instr) (s : State) (h : HostCall), hostCall i = some h → ∀ o : OpInfo, opInfo h.op = some o → s.chip.now ≤ h.t →
    (s.chip.boot.phase = .run →
      (s.chip.at h.t).intakeTurn h.op h.ifc h.tag h.target h.pl = true →
      (lenOk h.op h.pl = false ∨ ((s.chip.role = 2 ∨ s.chip.role = 3) ∧ o.standby = false)
        ∨ ¬ (if o.targets = 0 then h.target.toNat = 0 else h.target.toNat < o.targets)) →
      ∃ s', exec i s = .next s'
        ∧ (if lenOk h.op h.pl = false then Done s h.t h.op h.ifc h.tag h.target h.pl stBAD_LENGTH 0 [] s'
           else if (s.chip.role = 2 ∨ s.chip.role = 3) ∧ o.standby = false then
             Done s h.t h.op h.ifc h.tag h.target h.pl stNO_AUTHORITY 0 [] s'
           else Done s h.t h.op h.ifc h.tag h.target h.pl stINVALID_ARG 0xFFFF [] s')
        ∧ (∀ p : Part, p ∉ [Part.time, .sent, .host, .vectors] → p.same s.chip s'.chip)) ∧
    (s.chip.boot.phase = .run → (s.chip.at h.t).intakeTurn h.op h.ifc h.tag h.target h.pl = false →
      exec i s = .next { s with chip := (s.chip.at h.t).settle }) ∧
    ((s.chip.boot.phase = .rom ∨ s.chip.boot.phase = .wait) → h.ifc ≠ .spi →
      ∃ s', exec i s = .next s' ∧ s'.chip.now = h.t
        ∧ (∀ p : Part, p ∉ [Part.time, .sent, .vectors] → p.same s.chip s'.chip)) ∧
    ((s.chip.boot.phase = .rom ∨ s.chip.boot.phase = .wait) → h.ifc = .spi → h.op ∉ romOps →
      ∃ s', exec i s = .next s' ∧ Done s h.t h.op h.ifc h.tag h.target h.pl stUNSUPPORTED 0 [] s'
        ∧ (∀ p : Part, p ∉ [Part.time, .sent, .host, .vectors] → p.same s.chip s'.chip)) ∧
    (s.chip.boot.phase = .hold →
      ∃ s', exec i s = .next s' ∧ (∀ p : Part, p ∉ [Part.time, .sent, .vectors] → p.same s.chip s'.chip))

/-- GET_INFO, IMG_STATUS, FLIGHT_STATUS, TOW_BARGE_INFO, DOMAIN_STATUS, TIME_SNAP, WEIR_STATUS, TWIN_STATUS, HEAD_STATUS,
LKP_STATS, LOG_STATUS, ECHO and CMD_STATS. -/
def Obligations.StatusCommandsReportOneTick : Prop :=
  ∀ (s : State) (t : Nat) (ifc : Iface) (tag target : Word) (pl : List Word),
    (s.chip.takes t 0x0101 ifc tag target pl 5 → ∃ s', exec (.getInfo t ifc tag target pl) s = .next s'
      ∧ Done s t 0x0101 ifc tag target pl stOK 0 [w32 ((s.chip.at t).view HST_ID), w32 (s.chip.reg LOG_FW_VER),
          s.chip.hst.stage.activeId, w32 (s.chip.reg WEI_PSET_ID), w32 (s.chip.opState + s.chip.role * 2 ^ 4)] s' ∧ s.chip.regsSame s'.chip) ∧
    (s.chip.takes t 0x0204 ifc tag target pl 3 → ∃ s', exec (.imgStatus t ifc tag target pl) s = .next s'
      ∧ Done s t 0x0204 ifc tag target pl stOK 0 [w32 (s.chip.hst.stage.result * 2 ^ 30 + s.chip.hst.stage.failSec),
          w32 s.chip.hst.stage.failDetail, s.chip.hst.stage.activeId] s' ∧ s.chip.regsSame s'.chip) ∧
    (s.chip.takes t 0x0308 ifc tag target pl (5 + (s.chip.fNx target.toNat + 1) / 2 + (s.chip.fNu target.toNat + 1) / 2) → ∃ s', exec (.flightStatus t ifc tag target pl) s = .next s'
      ∧ Done s t 0x0308 ifc tag target pl stOK 0 ([LCK_FSTAT target.toNat, LCK_FSTAT2 target.toNat,
          LCK_FCNT target.toNat, LCK_SEGQ_STAT target.toNat].map (fun o => w32 ((s.chip.at t).view o))
          ++ [w32 ((s.chip.flight target.toNat).doneP.getD 0)]
          ++ packHalves ((padTo (s.chip.fNx target.toNat) (s.chip.flight target.toNat).xh).map (unsigned 16))
          ++ packHalves ((padTo (s.chip.fNu target.toNat) (s.chip.flight target.toNat).u).map (unsigned 16))) s' ∧ s.chip.regsSame s'.chip) ∧
    (s.chip.takes t 0x0602 ifc tag target pl 22 → ∃ s', exec (.towBargeInfo t ifc tag target pl) s = .next s'
      ∧ Done s t 0x0602 ifc tag target pl stOK 0 ((List.range 8).map (fun b => w32 (s.chip.reg (TOW_BSTAT (8 * target.toNat + b))))
          ++ (List.range 8).map (fun b => w32 (s.chip.reg (TOW_BSTATUS (8 * target.toNat + b))))
          ++ [TOW_PORT_STAT target.toNat, TOW_PORT_MARGIN target.toNat, TOW_PORT_CNT0 target.toNat,
            TOW_PORT_CNT1 target.toNat, TOW_PORT_CNT2 target.toNat, TOW_PORT_CNT3 target.toNat].map
            (fun o => w32 ((s.chip.at t).view o))) s' ∧ s.chip.regsSame s'.chip) ∧
    (s.chip.takes t 0x0702 ifc tag target pl 8 → ∃ s', exec (.domainStatus t ifc tag target pl) s = .next s'
      ∧ Done s t 0x0702 ifc tag target pl stOK 0 ([TIM_DOM_STAT, TIM_DOM_OFS, TIM_DOM_RATE, TIM_DOM_PATH,
          TIM_DOM_UTC, TIM_DOM_GM_LO, TIM_DOM_GM_HI, TIM_DOM_CNT].map (fun r => w32 (s.chip.reg (r target.toNat)))) s' ∧ s.chip.regsSame s'.chip) ∧
    (s.chip.takes t 0x0701 ifc tag target pl 20 → ∃ s', exec (.timeSnap t ifc tag target pl) s = .next s'
      ∧ Done s t 0x0701 ifc tag target pl stOK 0 (w32 (s'.chip.reg TIM_SNAP_CTL) :: (s.chip.at t).allBases) s'
      ∧ (∀ i < 19, s'.chip.reg (TIM_SNAP i) = wordAt (s.chip.at t).allBases i)
      ∧ s'.chip.fld TIM_SNAP_CTL__SEQ = (s.chip.fld TIM_SNAP_CTL__SEQ + 1) % 2 ^ 16
      ∧ s.chip.regsBut s'.chip (TIM_SNAP_CTL :: (List.range 19).map TIM_SNAP)) ∧
    (s.chip.takes t 0x0B04 ifc tag target pl 12 → ∃ s', exec (.weirStatus t ifc tag target pl) s = .next s'
      ∧ Done s t 0x0B04 ifc tag target pl stOK 0 ([WEI_STATUS, WEI_CAUSE, WEI_CAUSE_LATCH, WEI_IN_DEM, WEI_IN_DISC,
          WEI_IN_TPF, WEI_OUT_ON, WEI_OUT_FLT, WEI_PSET_ID, WEI_PSET_CRC, WEI_PSET_STAGE, WEI_PSET_SCRC].map
          (fun o => w32 (s.chip.reg o))) s' ∧ s.chip.regsSame s'.chip) ∧
    (s.chip.takes t 0x0C01 ifc tag target pl 12 → ∃ s', exec (.twinStatus t ifc tag target pl) s = .next s'
      ∧ Done s t 0x0C01 ifc tag target pl stOK 0 ([AQU_ROLE, AQU_COMMIT, AQU_ACKED, AQU_LEDGER_LAG, AQU_TK_POUND, AQU_TK_COMMIT,
          AQU_HEALTH 0, AQU_HEALTH 1, AQU_HEALTH 2, AQU_HEALTH 3, AQU_HEALTH 4, AQU_HEALTH 5].map
          (fun o => w32 ((s.chip.at t).view o))) s' ∧ s.chip.regsSame s'.chip) ∧
    (s.chip.takes t 0x0D01 ifc tag target pl 68 → ∃ s', exec (.headStatus t ifc tag target pl) s = .next s'
      ∧ Done s t 0x0D01 ifc tag target pl stOK 0 ([LKP_STATUS, LKP_HEAD, LKP_TJ, LKP_E_VIN, LKP_E_BSN, LKP_E_SLU, LKP_E_MGT,
          LKP_E_FIXED].map (fun o => w32 ((s.chip.at t).view o)) ++ (List.range 10).flatMap (fun i => [LKP_CLS_GRANT i,
          LKP_CLS_DEBT i, LKP_CLS_TUSED i, LKP_CLS_EUSED i, LKP_CLS_TLAST i, LKP_CLS_ELAST i].map
          (fun o => w32 ((s.chip.at t).view o)))) s' ∧ s.chip.regsSame s'.chip) ∧
    (s.chip.takes t 0x0D03 ifc tag target pl 42 → ∃ s', exec (.lkpStats t ifc tag target pl) s = .next s'
      ∧ Done s t 0x0D03 ifc tag target pl stOK 0 ((List.range 16).map (fun b => w32 (s.chip.reg (LKP_HIST target.toNat b)))
          ++ [w32 (s.chip.fld (LKP_CLS_CNT__GATE_CNT target.toNat)), w32 (s.chip.fld (LKP_CLS_CNT__DROP_CNT target.toNat))]
          ++ (List.range 24).map (fun j => w32 ((s.chip.at t).view (LKP_DEPTH (j / 8) (j % 8))))) s' ∧ s.chip.regsSame s'.chip) ∧
    (s.chip.takes t 0x0E01 ifc tag target pl 9 → ∃ s', exec (.logStatus t ifc tag target pl) s = .next s'
      ∧ Done s t 0x0E01 ifc tag target pl stOK 0 ([LOG_STATUS, LOG_WR_SEQ, LOG_WR_IDX, LOG_FRZ_SEQ, LOG_FRZ_POUND, LOG_CNT, LOG_SAVE_STAT,
          LOG_BOOT, LOG_FW_VER].map (fun o => w32 (s.chip.reg o))) s' ∧ s.chip.regsSame s'.chip) ∧
    (s.chip.takes t 0x0F01 ifc tag target pl pl.length → ∃ s', exec (.echo t ifc tag target pl) s = .next s'
      ∧ Done s t 0x0F01 ifc tag target pl stOK 0 pl s' ∧ s.chip.regsSame s'.chip) ∧
    (s.chip.takes t 0x0F02 ifc tag target pl 35 → ∃ s', exec (.cmdStats t ifc tag target pl) s = .next s'
      ∧ Done s t 0x0F02 ifc tag target pl stOK 0 ((List.range 35).map (fun i => w32 (tabGet (fun _ => 0)
          (s.chip.taken t 0x0F02 ifc tag target pl).hst.stats i))) s' ∧ s.chip.regsSame s'.chip)

/-- BSN_MEM_READ, GAU_READ, LOG_READ, SLU_MEM_READ, MANIFEST_LIST, CFG_READ, REG_READ and BSN_READ. -/
def Obligations.MemoryReadCommandsReadWhatIsThere : Prop :=
  ∀ (s : State) (t : Nat) (ifc : Iface) (tag target : Word) (pl : List Word),
    (s.chip.takes t 0x0805 ifc tag target pl (wordAt pl 1) → ¬ (wordAt pl 0 % 4 ≠ 0) → ¬ (wordAt pl 1 = 0 ∨ 1024 < wordAt pl 1 ∨ 2 ^ 23 < wordAt pl 0 + 4 * wordAt pl 1) →
      ∃ s', exec (.bsnMemRead t ifc tag target pl) s = .next s'
      ∧ Done s t 0x0805 ifc tag target pl stOK 0 (memWords 0 s.chip.mem.arena (wordAt pl 0) (wordAt pl 1)) s' ∧ s.chip.regsSame s'.chip) ∧
    (s.chip.takes t 0x0805 ifc tag target pl 0 → (wordAt pl 0 % 4 ≠ 0) →
      ∃ s', exec (.bsnMemRead t ifc tag target pl) s = .next s'
      ∧ Done s t 0x0805 ifc tag target pl stINVALID_ARG 0 [] s' ∧ s.chip.regsSame s'.chip) ∧
    (s.chip.takes t 0x0805 ifc tag target pl 0 → ¬ (wordAt pl 0 % 4 ≠ 0) → (wordAt pl 1 = 0 ∨ 1024 < wordAt pl 1 ∨ 2 ^ 23 < wordAt pl 0 + 4 * wordAt pl 1) →
      ∃ s', exec (.bsnMemRead t ifc tag target pl) s = .next s'
      ∧ Done s t 0x0805 ifc tag target pl stINVALID_ARG 1 [] s' ∧ s.chip.regsSame s'.chip) ∧
    (∀ ue : List Nat, s.chip.takes t 0x0A05 ifc tag target pl (wordAt pl 1) → ¬ (wordAt pl 0 % 4 ≠ 0 ∨ gauBytes ≤ wordAt pl 0) → ¬ (wordAt pl 1 = 0 ∨ 1024 < wordAt pl 1) →
      ∃ s', exec (.gauRead ⟨t, ue⟩ ifc tag target pl) s = .next s'
      ∧ Done s t 0x0A05 ifc tag target pl stOK 0 ((List.range (wordAt pl 1)).map (fun i =>
          if ue.contains ((wordAt pl 0 + 4 * i) % gauBytes) then 0 else memWord 0 s.chip.mem.gau ((wordAt pl 0 + 4 * i) % gauBytes))) s'
      ∧ ((∀ i < wordAt pl 1, ue.contains ((wordAt pl 0 + 4 * i) % gauBytes) = false) → s.chip.regsSame s'.chip)
      ∧ (∀ i < wordAt pl 1, ue.contains ((wordAt pl 0 + 4 * i) % gauBytes) = true → s'.chip.flag HST_STATUS__BAR2_UE = true)) ∧
    (∀ ue : List Nat, s.chip.takes t 0x0A05 ifc tag target pl 0 → (wordAt pl 0 % 4 ≠ 0 ∨ gauBytes ≤ wordAt pl 0) →
      ∃ s', exec (.gauRead ⟨t, ue⟩ ifc tag target pl) s = .next s'
      ∧ Done s t 0x0A05 ifc tag target pl stINVALID_ARG 0 [] s' ∧ s.chip.regsSame s'.chip) ∧
    (∀ ue : List Nat, s.chip.takes t 0x0A05 ifc tag target pl 0 → ¬ (wordAt pl 0 % 4 ≠ 0 ∨ gauBytes ≤ wordAt pl 0) → (wordAt pl 1 = 0 ∨ 1024 < wordAt pl 1) →
      ∃ s', exec (.gauRead ⟨t, ue⟩ ifc tag target pl) s = .next s'
      ∧ Done s t 0x0A05 ifc tag target pl stINVALID_ARG 1 [] s' ∧ s.chip.regsSame s'.chip) ∧
    (s.chip.takes t 0x0E02 ifc tag target pl (wordAt pl 1) → ¬ (wordAt pl 0 % 4 ≠ 0 ∨ wordAt pl 0 < 0x0800000 ∨ 0x0FFFFFF < wordAt pl 0) → ¬ (wordAt pl 1 = 0 ∨ 1024 < wordAt pl 1 ∨ 0x1000000 < wordAt pl 0 + 4 * wordAt pl 1) →
      ∃ s', exec (.logRead t ifc tag target pl) s = .next s'
      ∧ Done s t 0x0E02 ifc tag target pl stOK 0 (memWords 0 s.chip.log.mem (wordAt pl 0) (wordAt pl 1)) s' ∧ s.chip.regsSame s'.chip) ∧
    (s.chip.takes t 0x0E02 ifc tag target pl 0 → (wordAt pl 0 % 4 ≠ 0 ∨ wordAt pl 0 < 0x0800000 ∨ 0x0FFFFFF < wordAt pl 0) →
      ∃ s', exec (.logRead t ifc tag target pl) s = .next s'
      ∧ Done s t 0x0E02 ifc tag target pl stINVALID_ARG 0 [] s' ∧ s.chip.regsSame s'.chip) ∧
    (s.chip.takes t 0x0E02 ifc tag target pl 0 → ¬ (wordAt pl 0 % 4 ≠ 0 ∨ wordAt pl 0 < 0x0800000 ∨ 0x0FFFFFF < wordAt pl 0) → (wordAt pl 1 = 0 ∨ 1024 < wordAt pl 1 ∨ 0x1000000 < wordAt pl 0 + 4 * wordAt pl 1) →
      ∃ s', exec (.logRead t ifc tag target pl) s = .next s'
      ∧ Done s t 0x0E02 ifc tag target pl stINVALID_ARG 1 [] s' ∧ s.chip.regsSame s'.chip) ∧
    (s.chip.takes t 0x0906 ifc tag target pl ((wordAt pl 1 + 1) / 2) → ¬ (bits (wordAt pl 0) 5 4 = 3 ∨ coreSize (bits (wordAt pl 0) 5 4) ≤ bits (wordAt pl 0) 31 16) → ¬ (wordAt pl 1 = 0 ∨ 2048 < wordAt pl 1 ∨ coreSize (bits (wordAt pl 0) 5 4) < bits (wordAt pl 0) 31 16 + wordAt pl 1) →
      ∃ s', exec (.sluMemRead t ifc tag target pl) s = .next s'
      ∧ Done s t 0x0906 ifc tag target pl stOK 0 (bytesWords (memBytes 0 s.chip.mem.slum
          (coreAddr (bits (wordAt pl 0) 1 0) (bits (wordAt pl 0) 5 4) (bits (wordAt pl 0) 31 16)) (2 * wordAt pl 1))) s' ∧ s.chip.regsSame s'.chip) ∧
    (s.chip.takes t 0x0906 ifc tag target pl 0 → (bits (wordAt pl 0) 5 4 = 3 ∨ coreSize (bits (wordAt pl 0) 5 4) ≤ bits (wordAt pl 0) 31 16) →
      ∃ s', exec (.sluMemRead t ifc tag target pl) s = .next s'
      ∧ Done s t 0x0906 ifc tag target pl stINVALID_ARG 0 [] s' ∧ s.chip.regsSame s'.chip) ∧
    (s.chip.takes t 0x0906 ifc tag target pl 0 → ¬ (bits (wordAt pl 0) 5 4 = 3 ∨ coreSize (bits (wordAt pl 0) 5 4) ≤ bits (wordAt pl 0) 31 16) → (wordAt pl 1 = 0 ∨ 2048 < wordAt pl 1 ∨ coreSize (bits (wordAt pl 0) 5 4) < bits (wordAt pl 0) 31 16 + wordAt pl 1) →
      ∃ s', exec (.sluMemRead t ifc tag target pl) s = .next s'
      ∧ Done s t 0x0906 ifc tag target pl stINVALID_ARG 1 [] s' ∧ s.chip.regsSame s'.chip) ∧
    (s.chip.takes t 0x0504 ifc tag target pl (1 + (((s.chip.man.armed.drop (wordAt pl 0)).take (wordAt pl 1)).flatMap (fun e => w32 e.handle :: e.w)).length) → ¬ (wordAt pl 1 = 0 ∨ 32 < wordAt pl 1) →
      ∃ s', exec (.manifestList t ifc tag target pl) s = .next s'
      ∧ Done s t 0x0504 ifc tag target pl stOK 0 (w32 s.chip.man.armed.length ::
          ((s.chip.man.armed.drop (wordAt pl 0)).take (wordAt pl 1)).flatMap (fun e => w32 e.handle :: e.w)) s' ∧ s.chip.regsSame s'.chip) ∧
    (s.chip.takes t 0x0504 ifc tag target pl 0 → (wordAt pl 1 = 0 ∨ 32 < wordAt pl 1) →
      ∃ s', exec (.manifestList t ifc tag target pl) s = .next s'
      ∧ Done s t 0x0504 ifc tag target pl stINVALID_ARG 1 [] s' ∧ s.chip.regsSame s'.chip) ∧
    (s.chip.takes t 0x0205 ifc tag target pl (wordAt pl 1) → ∀ w : Nat × Nat × Nat, winAt (wordAt pl 0) = some w →
      wordAt pl 0 % 4 = 0 → ¬ (wordAt pl 1 = 0 ∨ 1024 < wordAt pl 1 ∨ w.2.2 < w.2.1 + 4 * wordAt pl 1) →
      ∃ s', exec (.cfgRead t ifc tag target pl) s = .next s'
      ∧ Done s t 0x0205 ifc tag target pl stOK 0 (memWords 0 (s.chip.winMem w.1) w.2.1 (wordAt pl 1)) s'
      ∧ s.chip.regsSame s'.chip) ∧
    (s.chip.takes t 0x0205 ifc tag target pl 0 → (winAt (wordAt pl 0) = none ∨ wordAt pl 0 % 4 ≠ 0) →
      ∃ s', exec (.cfgRead t ifc tag target pl) s = .next s'
      ∧ Done s t 0x0205 ifc tag target pl stINVALID_ARG 0 [] s' ∧ s.chip.regsSame s'.chip) ∧
    (s.chip.takes t 0x0104 ifc tag target pl (wordAt pl 1) → ¬ (wordAt pl 0 % 4 ≠ 0 ∨ 0x10000 ≤ wordAt pl 0) → ¬ (wordAt pl 1 = 0 ∨ 1024 < wordAt pl 1 ∨ 0x10000 < wordAt pl 0 + 4 * wordAt pl 1) →
      ∃ s', exec (.regRead t ifc tag target pl) s = .next s'
      ∧ Done s t 0x0104 ifc tag target pl stOK 0 ((s.chip.taken t 0x0104 ifc tag target pl).readRegs ifc (wordAt pl 0) (wordAt pl 1)).2 s'
      ∧ s'.chip.regs = ((s.chip.taken t 0x0104 ifc tag target pl).readRegs ifc (wordAt pl 0) (wordAt pl 1)).1.regs) ∧
    (s.chip.takes t 0x0104 ifc tag target pl 0 → (wordAt pl 0 % 4 ≠ 0 ∨ 0x10000 ≤ wordAt pl 0) →
      ∃ s', exec (.regRead t ifc tag target pl) s = .next s'
      ∧ Done s t 0x0104 ifc tag target pl stINVALID_ARG 0 [] s' ∧ s.chip.regsSame s'.chip) ∧
    (s.chip.takes t 0x0104 ifc tag target pl 0 → ¬ (wordAt pl 0 % 4 ≠ 0 ∨ 0x10000 ≤ wordAt pl 0) → (wordAt pl 1 = 0 ∨ 1024 < wordAt pl 1 ∨ 0x10000 < wordAt pl 0 + 4 * wordAt pl 1) →
      ∃ s', exec (.regRead t ifc tag target pl) s = .next s'
      ∧ Done s t 0x0104 ifc tag target pl stINVALID_ARG 1 [] s' ∧ s.chip.regsSame s'.chip) ∧
    (s.chip.takes t 0x0802 ifc tag target pl ((s.chip.at t).slotView target.toNat).length →
      ∃ s', exec (.bsnRead t ifc tag target pl) s = .next s'
      ∧ Done s t 0x0802 ifc tag target pl (rstatStatus (bits (wordAt ((s.chip.at t).slotView target.toNat) 0) 15 12)) 0
          ((s.chip.at t).slotView target.toNat) s'
      ∧ (s'.chip.snap ifc).slot = some (target.toNat, (s.chip.at t).slotView target.toNat)
      ∧ (∀ j : Nat, j ≠ target.toNat → s'.chip.rslot j = s.chip.rslot j)
      ∧ ((wordAt pl 0).testBit 0 = false → s'.chip.bsn = s.chip.bsn ∧ s.chip.regsSame s'.chip)
      ∧ ((wordAt pl 0).testBit 0 = true → s.chip.slotHeld target.toNat = true → (s.chip.job target.toNat).isNone = true →
          (s.chip.rslot target.toNat).rstat ≠ 0 →
          (s'.chip.rslot target.toNat).rstat = 0 ∧ s'.chip.slotHeld target.toNat = false))

/-- POUND_BOUNDARY. -/
def Obligations.PoundsFollowOneAnother : Prop :=
  ∀ (s : State) (e : BoundaryEnv),
    (s.chip.boot.phase = .run → s.chip.now ≤ s.chip.pnd.start + s.chip.poundLen → s.chip.hst.stage.applyAt = false →
      s.chip.aqu.changes = [] →
      ∃ s', exec (.poundBoundary e) s = .next s' ∧ s'.chip.now = s.chip.pnd.start + s.chip.poundLen
        ∧ s'.chip.pnd.start = s.chip.pnd.start + s.chip.poundLen
        ∧ s'.chip.pnd.boundaries.head?
            = some (s.chip.pnd.renum.getD ((s.chip.poundNum + 1) % 2 ^ 32) % 2 ^ 32, s.chip.pnd.start + s.chip.poundLen)
        ∧ s'.chip.reg SYS_POUND_NUM = s.chip.pnd.renum.getD ((s.chip.poundNum + 1) % 2 ^ 32) % 2 ^ 32
        ∧ s'.chip.pnd.cns.head? = some (s.chip.pnd.renum.getD ((s.chip.poundNum + 1) % 2 ^ 32) % 2 ^ 32, s'.chip.pnd.cn)
        ∧ s'.chip.pnd.released = false ∧ s'.chip.pnd.fired = []
        ∧ (s.chip.flag SYS_POUND_CFG__LOCK_EN = false → s'.chip.pnd.len = poundTicks s'.chip.pnd.sel)) ∧
    ((s.chip.boot.phase = .rom ∨ s.chip.boot.phase = .wait) → s.chip.pnd.selNew = none →
      ∃ s', exec (.poundBoundary e) s = .next s'
        ∧ s'.chip.now = max s.chip.now (s.chip.pnd.start + s.chip.poundLen)
        ∧ s'.chip.pnd.start = s.chip.pnd.start + s.chip.poundLen ∧ s'.chip.pnd.len = poundTicks s.chip.pnd.sel
        ∧ s'.chip.reg SYS_POUND_NUM = s.chip.pnd.renum.getD ((s.chip.poundNum + 1) % 2 ^ 32) % 2 ^ 32
        ∧ s'.chip.pnd.renum = none ∧ s'.chip.pnd.released = false ∧ s'.chip.pnd.fired = []
        ∧ s.chip.regsBut s'.chip [SYS_POUND_NUM, SYS_POUND_STATUS]
        ∧ (s.chip.role < 2 ∨ s.chip.pnd.corr = [] → s'.chip.aqu = s.chip.aqu)
        ∧ (∀ p : Part, p ∉ [Part.time, .regs, .pound, .poundClock, .sent, .vectors, .aqueduct] → p.same s.chip s'.chip)) ∧
    (s.chip.boot.phase = .hold →
      ∃ s', exec (.poundBoundary e) s = .next s' ∧ s'.chip.now = s.chip.now ∧ s'.chip.pnd = s.chip.pnd
        ∧ s.chip.regsSame s'.chip)

/-- PHASE_CORRECTION and SYS_POUND_CFG_WRITE. -/
def Obligations.CorrectionsTakeOneTickAtATime : Prop :=
  ∀ (s : State) (t : Nat), s.chip.now ≤ t →
    (∀ (t0 : Nat) (rest : List Nat), s.chip.boot.phase ≠ .hold → s.chip.pnd.corr = t0 :: rest → t0 ≤ t →
      ∃ s', exec (.phaseCorrection t) s = .next s' ∧ s'.chip.now = t ∧ s.chip.regsSame s'.chip
        ∧ s'.chip.pnd.start = s.chip.pnd.start ∧ s'.chip.pnd.corr = rest
        ∧ s'.chip.pnd.lastCorr = some t0 ∧ s'.chip.pnd.lastSign = s.chip.pnd.corrLate
        ∧ s'.chip.pnd.len = (if s.chip.pnd.corrLate then s.chip.pnd.len - 1 else s.chip.pnd.len + 1)
        ∧ s'.chip.poundLen = s.chip.poundLen
        ∧ (if 2 ≤ s.chip.role then s'.chip.pnd.resid = s.chip.pnd.resid
              ∧ s'.chip.aqu = { s.chip.aqu with syncE := s.chip.aqu.syncE - (if s.chip.pnd.corrLate then 16 else -16) }
           else s'.chip.pnd.resid = s.chip.pnd.resid - (if s.chip.pnd.corrLate then 81920 else -81920)
              ∧ s'.chip.aqu = s.chip.aqu)) ∧
    (s.chip.boot.phase ≠ .hold → (∀ t0 ∈ s.chip.pnd.corr.head?, t < t0) →
      ∃ s', exec (.phaseCorrection t) s = .next s' ∧ s'.chip.now = t ∧ s.chip.regsSame s'.chip
        ∧ s'.chip.pnd = s.chip.pnd ∧ s'.chip.aqu = s.chip.aqu) ∧
    (∃ l : List Nat, s.chip.corrPlan.pnd.corr = l ∧ (∀ x ∈ l, s.chip.pnd.start ≤ x ∧ x + 2 < s.chip.pnd.start + s.chip.pnd.len)
        ∧ l.Pairwise (fun a b => a + 15625 ≤ b)
        ∧ (s.chip.pnd.renum.isSome = true → l = [])
        ∧ (s.chip.lagTicks ≠ 0 → l.length ≤ s.chip.lagTicks.natAbs
            ∧ s.chip.corrPlan.pnd.corrLate = decide (0 < s.chip.lagTicks)
            ∧ (∀ u : Nat, s.chip.pnd.lastCorr = some u → ∀ x ∈ l, u + 15625 ≤ x))
        ∧ (s.chip.lagTicks = 0 → s.chip.fld SYS_POUND_STATUS__LOCK_STATE ≠ 3 → l = [])) ∧
    (∀ (ifc : Iface) (v : Word), s.chip.boot.phase = .run → s.chip.serves ifc = true →
      (s.chip.dryOrMoored = false ∨ 5 ≤ bits v.toNat 2 0
        ∨ (bits v.toNat 2 0 ≠ s.chip.fld SYS_POUND_CFG__POUND_SEL ∧ s.chip.phasesFit (poundTicks (bits v.toNat 2 0)) = false)) →
      ∃ s', exec (.sysPoundCfgWrite t ifc 0 v) s = .next s' ∧ s'.chip.now = t
        ∧ s'.chip.flag SYS_POUND_STATUS__CFG_REJ = true ∧ s'.chip.pnd = s.chip.pnd
        ∧ s.chip.regsBut s'.chip [SYS_POUND_STATUS]) ∧
    (∀ (ifc : Iface) (v : Word), s.chip.boot.phase = .run → s.chip.serves ifc = true → s.chip.dryOrMoored = true → bits v.toNat 2 0 < 5 →
      (bits v.toNat 2 0 ≠ s.chip.fld SYS_POUND_CFG__POUND_SEL → s.chip.phasesFit (poundTicks (bits v.toNat 2 0)) = true) →
      ∃ s', exec (.sysPoundCfgWrite t ifc 0 v) s = .next s' ∧ s'.chip.now = t
        ∧ s'.chip.fld SYS_POUND_CFG__POUND_SEL = bits v.toNat 2 0
        ∧ s'.chip.flag SYS_POUND_CFG__LOCK_EN = v.toNat.testBit 8
        ∧ s'.chip.flag SYS_POUND_CFG__REQ_LOCK = v.toNat.testBit 9
        ∧ s'.chip.pnd.sel = s.chip.pnd.sel
        ∧ (bits v.toNat 2 0 ≠ s.chip.fld SYS_POUND_CFG__POUND_SEL →
            s'.chip.pnd.selNew = (if bits v.toNat 2 0 = s.chip.pnd.sel then none else some (bits v.toNat 2 0)))
        ∧ s.chip.regsBut s'.chip [SYS_POUND_CFG, SYS_POUND_STATUS]) ∧
    (∀ (ifc : Iface) (v : Word), s.chip.boot.phase = .run → s.chip.serves ifc = true →
      ∃ s', exec (.sysPoundCfgWrite t ifc 1 v) s = .next s' ∧ s'.chip.now = t ∧ s'.chip.pnd = s.chip.pnd
        ∧ (if s.chip.dryOrMoored = true ∧ bits v.toNat 17 0 < s.chip.poundNs then
            s'.chip.fld SYS_POUND_OFFSET__OFFSET = bits v.toNat 17 0 ∧ s.chip.regsBut s'.chip [SYS_POUND_OFFSET]
           else s'.chip.flag SYS_POUND_STATUS__CFG_REJ = true ∧ s.chip.regsBut s'.chip [SYS_POUND_STATUS]))

/-- CYCLE_MARK_FIRE, SYS_CMARK_WRITE and COMMAND_RELEASE. -/
def Obligations.MarksAndReleaseActOncePerPound : Prop :=
  ∀ (s : State) (m : Fin 32), s.chip.boot.phase = .run →
    (∀ t : Nat, s.chip.markTick m.val = some t → m.val ∉ s.chip.pnd.fired → s.chip.now ≤ t →
      ∃ s', exec (.cycleMarkFire m) s = .next s' ∧ s'.chip.now = t
        ∧ s'.chip.pnd.fired = s.chip.pnd.fired
            ++ (List.range (m.val + 1)).filter (fun k => s.chip.markTick k == some t && !s.chip.pnd.fired.contains k)
        ∧ ((∀ k ≤ m.val, s.chip.markTick k = some t → bits (s.chip.markW k) 23 20 = 0) →
            s.chip.regsSame s'.chip ∧ s'.chip.hst.lad = s.chip.hst.lad)) ∧
    ((s.chip.markTick m.val = none ∨ m.val ∈ s.chip.pnd.fired) →
      ∃ s', exec (.cycleMarkFire m) s = .next s' ∧ s'.chip.pnd = s.chip.pnd ∧ s.chip.regsSame s'.chip
        ∧ s'.chip.hst.lad = s.chip.hst.lad) ∧
    (∀ (t : Nat) (ifc : Iface) (v : Word), s.chip.now ≤ t → s.chip.serves ifc = true →
      ∃ s', exec (.sysCmarkWrite t ifc m v) s = .next s' ∧ s'.chip.now = t ∧ s'.chip.pnd = s.chip.pnd
        ∧ (if s.chip.P ≤ bits v.toNat 17 0 ∨ 2 ^ bits v.toNat 30 29 ≤ bits v.toNat 28 26 then
            s'.chip.flag SYS_POUND_STATUS__CFG_REJ = true ∧ s.chip.regsBut s'.chip [SYS_POUND_STATUS]
           else (∀ x ∈ [SYS_CMARK__EN m.val, SYS_CMARK__DIV m.val, SYS_CMARK__SLOT m.val, SYS_CMARK__T_HOST m.val,
              SYS_CMARK__T_LKP m.val, SYS_CMARK__T_ADC m.val, SYS_CMARK__T_GAU m.val, SYS_CMARK__PHASE m.val],
                s'.chip.fld x = bits v.toNat x.hi x.lo)
            ∧ s.chip.regsBut s'.chip [SYS_CMARK m.val])) ∧
    (∀ e : ReleaseEnv, s.chip.pnd.released = false → s.chip.pnd.due = [] → s.chip.now ≤ s.chip.pnd.start + s.chip.P / 2 →
      ∃ s', exec (.commandRelease e) s = .next s' ∧ s'.chip.now = s.chip.pnd.start + s.chip.P / 2
        ∧ s'.chip.pnd = { s.chip.pnd with released := true } ∧ s'.chip.lck = s.chip.lck) ∧
    (∀ e : ReleaseEnv, s.chip.pnd.released = true →
      ∃ s', exec (.commandRelease e) s = .next s' ∧ s'.chip.pnd = s.chip.pnd ∧ s.chip.regsSame s'.chip
        ∧ s'.chip.slu = s.chip.slu ∧ s'.chip.aqu = s.chip.aqu)

/-- FLIGHT_UPDATE_START and FLIGHT_UPDATE_COMPLETE. -/
def Obligations.FlightUpdatesStartAndComplete : Prop :=
  ∀ (s : State) (t : Nat) (f : Fin 32), s.chip.ready t →
    (∀ (r : Nat) (o : Owed), (s.chip.at t).waitTick f.val = some r → (s.chip.at t).mayStart f.val r = true →
      s.chip.fMode f.val ≠ 0 → ((s.chip.flight f.val).owed.head?).getD ((s.chip.at t).dueUpdate f.val r) = o →
      ∃ s', exec (.flightUpdateStart t f) s = .next s' ∧ s'.chip.now = t
        ∧ (s'.chip.flight f.val).startedP = some o.pound
        ∧ (s'.chip.flight f.val).owed = (s.chip.flight f.val).owed.drop 1
        ∧ (s'.chip.flight f.val).upd.map (fun u => (u.start, u.done, u.pound)) = some (t, t + updateCycles
            (s.chip.fNx f.val) (s.chip.fNu f.val) (s.chip.fNy f.val) (s.chip.fPair f.val), o.pound)
        ∧ (s.chip.flag (LCK_FSTAT__PEND_V f.val) = false →
            (s'.chip.flight f.val).upd.map (fun u => (u.mode, u.y, u.slot))
              = some (s.chip.nextMode f.val o.pound, o.conv.map (·.1), s.chip.fld (LCK_FSTAT__ACTIVE f.val)))
        ∧ (∀ g : Nat, g ≠ f.val → s'.chip.flight g = s.chip.flight g)) ∧
    (∀ r : Nat, (s.chip.at t).waitTick f.val = some r → (s.chip.at t).mayStart f.val r = true →
      s.chip.fMode f.val = 0 → s.chip.bankUsable f.val (bits (s.chip.fCtl f.val) 3 0) = true →
      s.chip.flag (LCK_FSTAT__PEND_V f.val) = false →
      ∃ s', exec (.flightUpdateStart t f) s = .next s' ∧ s'.chip.now = t ∧ s'.chip.fMode f.val = 1
        ∧ (s'.chip.flight f.val).upd.map (fun u => (u.start, u.mode, u.slot))
            = some (t, 1, bits (s.chip.fCtl f.val) 3 0)) ∧
    ((∀ r : Nat, (s.chip.at t).waitTick f.val = some r → (s.chip.at t).mayStart f.val r = false) →
      ∃ s', exec (.flightUpdateStart t f) s = .next s' ∧ s'.chip.now = t ∧ s'.chip.lck = s.chip.lck
        ∧ s.chip.regsSame s'.chip) ∧
    (∀ r : Nat, (s.chip.at t).waitTick f.val = some r → (s.chip.at t).mayStart f.val r = true →
      s.chip.fMode f.val = 0 → (∀ b < 16, s.chip.bankUsable f.val b = false) →
      ∃ s', exec (.flightUpdateStart t f) s = .next s' ∧ (s'.chip.flight f.val).idleOut = true
        ∧ (s'.chip.flight f.val).upd = (s.chip.flight f.val).upd ∧ s'.chip.flag LCK_STATUS__CFG_REJ = true
        ∧ s.chip.regsBut s'.chip [LCK_STATUS]) ∧
    (∀ u : Upd, (s.chip.flight f.val).upd = some u → u.done ≤ t →
      ∃ s', exec (.flightUpdateComplete t f .none) s = .next s' ∧ s'.chip.now = t
        ∧ (s'.chip.flight f.val).upd = none ∧ (s'.chip.flight f.val).doneP = some u.pound
        ∧ (s'.chip.flight f.val).xh = (s.chip.law (s.chip.bankBase f.val u.slot)
            (s.chip.lawIn f.val u.x u.u u.y u.age u.r)).x
        ∧ (s'.chip.flight f.val).r = u.r
        ∧ (s'.chip.flight f.val).u = storedU u (s.chip.law (s.chip.bankBase f.val u.slot)
            (s.chip.lawIn f.val u.x u.u u.y u.age u.r)).u) ∧
    (∀ u : Upd, (s.chip.flight f.val).upd = some u → u.done ≤ t →
      ∃ s', exec (.flightUpdateComplete t f .bank) s = .next s' ∧ s'.chip.now = t
        ∧ (s'.chip.flight f.val).upd = none ∧ (s'.chip.flight f.val).doneP = some u.pound
        ∧ (s'.chip.flight f.val).xh = (s.chip.flight f.val).xh ∧ (s'.chip.flight f.val).u = (s.chip.flight f.val).u) ∧
    (∀ e : BankEcc, ((s.chip.flight f.val).upd = none ∨ ∃ u, (s.chip.flight f.val).upd = some u ∧ t < u.done) →
      ∃ s', exec (.flightUpdateComplete t f e) s = .next s' ∧ s'.chip.now = t ∧ s'.chip.lck = s.chip.lck
        ∧ s.chip.regsSame s'.chip)

/-- RESEED_RETRY, RESEED_TIMEOUT and BANK_POINTER_CHECK_DONE. -/
def Obligations.ReseedsAndBankPointersAreSettled : Prop :=
  ∀ (s : State) (t : Nat) (f : Fin 32), s.chip.ready t →
    (∀ q : Reseed, (s.chip.flight f.val).reseed = some q → q.waiting = true → t ≤ q.deadline + 256 →
      ∃ s', exec (.reseedRetry t f) s = .next s' ∧ s'.chip.now = t
        ∧ (if (s.chip.list 0 7).length < 256 then
            (s'.chip.flight f.val).reseed = some { q with waiting := false }
            ∧ s'.chip.flag (LCK_FSTAT__RSD_BUSY f.val) = true
            ∧ (s'.chip.job f.val).map (fun j => (j.owner, j.deadline)) = some (2, q.deadline)
            ∧ (s'.chip.list 0 7).length = (s.chip.list 0 7).length + 1
           else (s'.chip.flight f.val).reseed = some q ∧ s'.chip.bsn = s.chip.bsn)) ∧
    ((s.chip.flight f.val).reseed = none →
      ∃ s', exec (.reseedRetry t f) s = .next s' ∧ s'.chip.now = t ∧ s'.chip.lck = s.chip.lck ∧ s.chip.regsSame s'.chip) ∧
    (∀ q : Reseed, (s.chip.flight f.val).reseed = some q → q.ready = none → q.waiting = true →
      ∃ s', exec (.reseedTimeout f) s = .next s' ∧ s'.chip.now = max s.chip.now (q.deadline + 256)
        ∧ (s'.chip.flight f.val).reseed = some { q with waiting := false, ready := some (q.deadline + 256, none) }
        ∧ s'.chip.flag (LCK_FSTAT__RSD_BUSY f.val) = false ∧ s'.chip.flag LCK_INT_STATUS__RESEED_FAIL = true
        ∧ s.chip.regsBut s'.chip [LCK_FSTAT f.val, LCK_INT_STATUS]) ∧
    (∀ q : Reseed, (s.chip.flight f.val).reseed = some q → q.ready.isSome = true →
      ∃ s', exec (.reseedTimeout f) s = .next s' ∧ s'.chip.lck = s.chip.lck ∧ s.chip.regsSame s'.chip) ∧
    (∀ (slot : Fin 16) (e : Nat × Nat × Word × Nat),
      s.chip.lck.check.find? (fun e => e.1 == f.val && e.2.1 == slot.val) = some e →
      ∃ s', exec (.bankPointerCheckDone t f slot) s = .next s' ∧ s'.chip.now = t
        ∧ s'.chip.lck.check = s.chip.lck.check.filter (fun g => !(g.1 == f.val && g.2.1 == slot.val))
        ∧ (s.chip.bankFails f.val slot.val e.2.2.1.toNat = none →
            s'.chip.bankPtr f.val slot.val = e.2.2.1.toNat ∧ s'.chip.bankFailed f.val slot.val = false
            ∧ s.chip.regsBut s'.chip [LCK_FSTAT2 f.val])
        ∧ (∀ k : Nat, s.chip.bankFails f.val slot.val e.2.2.1.toNat = some k →
            s'.chip.mem = s.chip.mem ∧ s'.chip.reg LCK_BANK_REJ = k * 2 ^ 16 + slot.val * 2 ^ 8 + f.val
            ∧ s'.chip.flag LCK_STATUS__BANK_REJ = true ∧ s'.chip.flag LCK_INT_STATUS__BANK_REJ = true
            ∧ s.chip.regsBut s'.chip [LCK_STATUS, LCK_INT_STATUS, LCK_BANK_REJ])) ∧
    (∀ slot : Fin 16, s.chip.lck.check.find? (fun e => e.1 == f.val && e.2.1 == slot.val) = none →
      ∃ s', exec (.bankPointerCheckDone t f slot) s = .next s' ∧ s'.chip.now = t ∧ s'.chip.mem = s.chip.mem
        ∧ s'.chip.lck = s.chip.lck ∧ s.chip.regsSame s'.chip)

/-- FLIGHT_START, FLIGHT_HOLD, FLIGHT_RESUME, FLIGHT_STOP and CLEAR_FLAGS; and SELECT_BANK, TRAJ_APPEND and TRAJ_FLUSH where
nothing turns them away. -/
def Obligations.FlightCommandsFollowTheMode : Prop :=
  ∀ (s : State) (t : Nat) (ifc : Iface) (tag target : Word) (pl : List Word),
    (s.chip.takes t 0x0306 ifc tag target pl 0 → s.chip.bankValid target.toNat (bits (wordAt pl 0) 3 0) = true →
      (s.chip.fCtl target.toNat).testBit 15 = false →
      ∃ s', exec (.selectBank t ifc tag target pl) s = .next s' ∧ Done s t 0x0306 ifc tag target pl stOK 0 [] s'
      ∧ s'.chip.flag (LCK_FSTAT__PEND_V target.toNat)
          = decide (bits (wordAt pl 0) 3 0 ≠ s.chip.fld (LCK_FSTAT__ACTIVE target.toNat))
      ∧ (bits (wordAt pl 0) 3 0 ≠ s.chip.fld (LCK_FSTAT__ACTIVE target.toNat) →
          s'.chip.fld (LCK_FSTAT__PENDING target.toNat) = bits (wordAt pl 0) 3 0)
      ∧ s'.chip.fld (LCK_FSTAT__ACTIVE target.toNat) = s.chip.fld (LCK_FSTAT__ACTIVE target.toNat)) ∧
    (s.chip.takes t 0x0401 ifc tag target pl 0 → 1 ≤ wordAt pl 0 → wordAt pl 0 ≤ 8 →
      ∀ l : List Seg, parseSegs (s.chip.fNu target.toNat) (wordAt pl 0) (pl.drop 1) = some l →
      segsBad (s.chip.fNu target.toNat) l = none → s.chip.flag (LCK_SEGQ_CTL__QSRC target.toNat) = false →
      (applyOps (s.chip.flight target.toNat).queue (s.chip.flight target.toNat).ops).length + l.length ≤ 32 →
      ∃ s', exec (.trajAppend t ifc tag target pl) s = .next s' ∧ Done s t 0x0401 ifc tag target pl stOK 0 [] s'
      ∧ applyOps (s'.chip.flight target.toNat).queue (s'.chip.flight target.toNat).ops
          = applyOps (s.chip.flight target.toNat).queue (s.chip.flight target.toNat).ops ++ l
      ∧ s.chip.regsSame s'.chip) ∧
    (s.chip.takes t 0x0402 ifc tag target pl 0 → s.chip.flag (LCK_SEGQ_CTL__QSRC target.toNat) = false →
      ∃ s', exec (.trajFlush t ifc tag target pl) s = .next s' ∧ Done s t 0x0402 ifc tag target pl stOK 0 [] s'
      ∧ applyOps (s'.chip.flight target.toNat).queue (s'.chip.flight target.toNat).ops = []
      ∧ s.chip.regsSame s'.chip) ∧
    (s.chip.takes t 0x0301 ifc tag target pl 0 →
      (s.chip.fMode target.toNat = 0 ∨ (s.chip.fMode target.toNat = 1 ∧ s.chip.opState = 2 ∧ s.chip.faultHolds target.toNat = true)) →
      ∃ s', exec (.flightStart t ifc tag target pl) s = .next s'
      ∧ Done s t 0x0301 ifc tag target pl stWRONG_STATE 0 [] s'
      ∧ s.chip.regsSame s'.chip
      ∧ s'.chip.lck = s.chip.lck) ∧
    (s.chip.takes t 0x0301 ifc tag target pl 0 →
      ¬ (s.chip.fMode target.toNat = 0 ∨ (s.chip.fMode target.toNat = 1 ∧ s.chip.opState = 2 ∧ s.chip.faultHolds target.toNat = true)) →
      ∃ s', exec (.flightStart t ifc tag target pl) s = .next s'
      ∧ Done s t 0x0301 ifc tag target pl stOK 0 [] s'
      ∧ s'.chip.flag (LCK_FSTAT__PARKED target.toNat) = false
      ∧ s.chip.regsBut s'.chip [LCK_FSTAT target.toNat]
      ∧ (∀ g : Nat, g ≠ target.toNat → s'.chip.flight g = s.chip.flight g)
      ∧ s'.chip.flight target.toNat = (if s.chip.fMode target.toNat = 1 ∧ s.chip.opState = 2 then
          { s.chip.flight target.toNat with
              startAt := some ((s.chip.flight target.toNat).startAt.getD ((s.chip.poundNum + 1) % 2 ^ 32)) } else s.chip.flight target.toNat)) ∧
    (s.chip.takes t 0x0302 ifc tag target pl 0 →
      s.chip.fMode target.toNat ≤ 1 →
      ∃ s', exec (.flightHold t ifc tag target pl) s = .next s'
      ∧ Done s t 0x0302 ifc tag target pl stWRONG_STATE 0 [] s'
      ∧ s.chip.regsSame s'.chip
      ∧ s'.chip.lck = s.chip.lck) ∧
    (s.chip.takes t 0x0302 ifc tag target pl 0 →
      2 ≤ s.chip.fMode target.toNat →
      ∃ s', exec (.flightHold t ifc tag target pl) s = .next s'
      ∧ Done s t 0x0302 ifc tag target pl stOK 0 [] s'
      ∧ s.chip.regsSame s'.chip
      ∧ (∀ g : Nat, g ≠ target.toNat → s'.chip.flight g = s.chip.flight g)
      ∧ s'.chip.flight target.toNat = (if s.chip.fMode target.toNat = 2 then { s.chip.flight target.toNat with wantHold := true }
          else s.chip.flight target.toNat)) ∧
    (s.chip.takes t 0x0303 ifc tag target pl 0 →
      (s.chip.fMode target.toNat ≤ 1 ∨ 4 ≤ s.chip.fMode target.toNat ∨ (s.chip.fMode target.toNat = 3 ∧ s.chip.faultHolds target.toNat = true)) →
      ∃ s', exec (.flightResume t ifc tag target pl) s = .next s'
      ∧ Done s t 0x0303 ifc tag target pl stWRONG_STATE 0 [] s'
      ∧ s.chip.regsSame s'.chip
      ∧ s'.chip.lck = s.chip.lck) ∧
    (s.chip.takes t 0x0303 ifc tag target pl 0 →
      (s.chip.fMode target.toNat = 2 ∨ (s.chip.fMode target.toNat = 3 ∧ s.chip.faultHolds target.toNat = false)) →
      ∃ s', exec (.flightResume t ifc tag target pl) s = .next s'
      ∧ Done s t 0x0303 ifc tag target pl stOK 0 [] s'
      ∧ s.chip.regsSame s'.chip
      ∧ (∀ g : Nat, g ≠ target.toNat → s'.chip.flight g = s.chip.flight g)
      ∧ s'.chip.flight target.toNat = (if s.chip.fMode target.toNat = 3 then
          { s.chip.flight target.toNat with
              resumeAt := some ((s.chip.flight target.toNat).resumeAt.getD ((s.chip.poundNum + 1) % 2 ^ 32)) } else s.chip.flight target.toNat)) ∧
    (s.chip.takes t 0x0304 ifc tag target pl 0 →
      s.chip.fMode target.toNat = 0 →
      ∃ s', exec (.flightStop t ifc tag target pl) s = .next s'
      ∧ Done s t 0x0304 ifc tag target pl stWRONG_STATE 0 [] s'
      ∧ s.chip.regsSame s'.chip
      ∧ s'.chip.lck = s.chip.lck) ∧
    (s.chip.takes t 0x0304 ifc tag target pl 0 →
      s.chip.fMode target.toNat ≠ 0 →
      ∃ s', exec (.flightStop t ifc tag target pl) s = .next s'
      ∧ Done s t 0x0304 ifc tag target pl stOK 0 [] s'
      ∧ s'.chip.flag (LCK_FSTAT__PARKED target.toNat) = true
      ∧ s.chip.regsBut s'.chip [LCK_FSTAT target.toNat]
      ∧ (∀ g : Nat, g ≠ target.toNat → s'.chip.flight g = s.chip.flight g)
      ∧ s'.chip.flight target.toNat = (if s.chip.fMode target.toNat = 2 ∨ s.chip.fMode target.toNat = 3 then
          { s.chip.flight target.toNat with wantRamp := true } else s.chip.flight target.toNat)) ∧
    (s.chip.takes t 0x0305 ifc tag target pl 0 →
      ∃ s', exec (.clearFlags t ifc tag target pl) s = .next s'
      ∧ Done s t 0x0305 ifc tag target pl stOK 0 [] s'
      ∧ s.chip.regsSame s'.chip
      ∧ (∀ g : Nat, g ≠ target.toNat → s'.chip.flight g = s.chip.flight g)
      ∧ s'.chip.flight target.toNat = { s.chip.flight target.toNat with
          clear := some ((s.chip.flight target.toNat).clear.getD 0 ||| bits (wordAt pl 0) 8 0) })

/-- SELECT_BANK, BANK_LOAD, TRAJ_APPEND and TRAJ_FLUSH. -/
def Obligations.BanksAndQueuesTakeTheirCommands : Prop :=
  ∀ (s : State) (t : Nat) (ifc : Iface) (tag target : Word) (pl : List Word),
    (s.chip.takes t 0x0306 ifc tag target pl 0 →
      s.chip.bankValid target.toNat (bits (wordAt pl 0) 3 0) = true →
      (s.chip.fCtl target.toNat).testBit 15 = true →
      ∃ s', exec (.selectBank t ifc tag target pl) s = .next s'
      ∧ Done s t 0x0306 ifc tag target pl stWRONG_STATE 0 [] s'
      ∧ s.chip.regsSame s'.chip
      ∧ s'.chip.lck = s.chip.lck) ∧
    (s.chip.takes t 0x0306 ifc tag target pl 0 →
      s.chip.bankValid target.toNat (bits (wordAt pl 0) 3 0) = false →
      ∃ s', exec (.selectBank t ifc tag target pl) s = .next s'
      ∧ Done s t 0x0306 ifc tag target pl stINVALID_ARG 0 [] s'
      ∧ s.chip.regsSame s'.chip
      ∧ s'.chip.lck = s.chip.lck) ∧
    (s.chip.takes t 0x0306 ifc tag target pl 0 →
      (s.chip.fCtl target.toNat).testBit 15 = false →
      s.chip.bankValid target.toNat (bits (wordAt pl 0) 3 0) = true →
      (s.chip.flight target.toNat).reseed = none →
      ∃ s', exec (.selectBank t ifc tag target pl) s = .next s'
      ∧ Done s t 0x0306 ifc tag target pl stOK 0 [] s'
      ∧ (if bits (wordAt pl 0) 3 0 = s.chip.fld (LCK_FSTAT__ACTIVE target.toNat) then s'.chip.flag (LCK_FSTAT__PEND_V target.toNat) = false
            ∧ s'.chip.flight target.toNat = s.chip.flight target.toNat
          else s'.chip.flag (LCK_FSTAT__PEND_V target.toNat) = true ∧ s'.chip.fld (LCK_FSTAT__PENDING target.toNat) = bits (wordAt pl 0) 3 0
            ∧ (s'.chip.flight target.toNat).swapReg = t
            ∧ (s'.chip.flight target.toNat).reseed.map (fun q => (q.reg, q.deadline, q.ready))
              = (if (wordAt pl 0).testBit 8 then some (t, t + s.chip.rsdTicks target.toNat, none) else none))
      ∧ s'.chip.fld (LCK_FSTAT__ACTIVE target.toNat) = s.chip.fld (LCK_FSTAT__ACTIVE target.toNat)
      ∧ (∀ g : Nat, g ≠ target.toNat → s'.chip.flight g = s.chip.flight g)) ∧
    (s.chip.takes t 0x0307 ifc tag target pl 0 →
      s.chip.role = 0 →
      (wordAt pl 0 % 16 ≠ 0 ∨ 2 ^ 22 < wordAt pl 0 + 4 * (pl.length - 1)) →
      ∃ s', exec (.bankLoad t ifc tag target pl) s = .next s'
      ∧ Done s t 0x0307 ifc tag target pl stINVALID_ARG 0 [] s'
      ∧ s.chip.regsSame s'.chip
      ∧ s'.chip.lck = s.chip.lck
      ∧ s'.chip.mem = s.chip.mem) ∧
    (s.chip.takes t 0x0307 ifc tag target pl 0 →
      s.chip.role = 0 →
      ¬ (wordAt pl 0 % 16 ≠ 0 ∨ 2 ^ 22 < wordAt pl 0 + 4 * (pl.length - 1)) →
      (s.chip.opState ≠ 0 ∧ s.chip.lockedBanks.any (fun e => overlap (wordAt pl 0) (4 * (pl.length - 1)) e.1 e.2) = true) →
      ∃ s', exec (.bankLoad t ifc tag target pl) s = .next s'
      ∧ Done s t 0x0307 ifc tag target pl stBUSY 0 [] s'
      ∧ s.chip.regsSame s'.chip
      ∧ s'.chip.lck = s.chip.lck
      ∧ s'.chip.mem = s.chip.mem) ∧
    (s.chip.takes t 0x0307 ifc tag target pl 0 →
      s.chip.role = 0 →
      ¬ (wordAt pl 0 % 16 ≠ 0 ∨ 2 ^ 22 < wordAt pl 0 + 4 * (pl.length - 1)) →
      ¬ (s.chip.opState ≠ 0 ∧ s.chip.lockedBanks.any (fun e => overlap (wordAt pl 0) (4 * (pl.length - 1)) e.1 e.2) = true) →
      ∃ s', exec (.bankLoad t ifc tag target pl) s = .next s'
      ∧ Done s t 0x0307 ifc tag target pl stOK 0 [] s'
      ∧ s.chip.regsSame s'.chip
      ∧ s'.chip.lck = s.chip.lck
      ∧ memWords 0 s'.chip.mem.bank (wordAt pl 0) (pl.length - 1) = pl.drop 1
      ∧ (∀ b : Nat, (b < wordAt pl 0 ∨ wordAt pl 0 + 4 * (pl.length - 1) ≤ b) →
          tabGet (fun _ => 0) s'.chip.mem.bank b = tabGet (fun _ => 0) s.chip.mem.bank b)
      ∧ s'.chip.mem = { s.chip.mem with bank := s'.chip.mem.bank }) ∧
    (s.chip.takes t 0x0401 ifc tag target pl 0 →
      (wordAt pl 0 = 0 ∨ 8 < wordAt pl 0) →
      ∃ s', exec (.trajAppend t ifc tag target pl) s = .next s'
      ∧ Done s t 0x0401 ifc tag target pl stINVALID_ARG 0 [] s'
      ∧ s.chip.regsSame s'.chip
      ∧ s'.chip.lck = s.chip.lck) ∧
    (s.chip.takes t 0x0401 ifc tag target pl 0 →
      1 ≤ wordAt pl 0 →
      wordAt pl 0 ≤ 8 →
      parseSegs (s.chip.fNu target.toNat) (wordAt pl 0) (pl.drop 1) = none →
      ∃ s', exec (.trajAppend t ifc tag target pl) s = .next s'
      ∧ Done s t 0x0401 ifc tag target pl stBAD_LENGTH 0 [] s'
      ∧ s.chip.regsSame s'.chip
      ∧ s'.chip.lck = s.chip.lck) ∧
    (∀ l : List Seg, parseSegs (s.chip.fNu target.toNat) (wordAt pl 0) (pl.drop 1) = some l → s.chip.takes t 0x0401 ifc tag target pl 0 →
      1 ≤ wordAt pl 0 → wordAt pl 0 ≤ 8 →
      ∃ s', exec (.trajAppend t ifc tag target pl) s = .next s' ∧ s.chip.regsSame s'.chip ∧ (∀ g : Nat, g ≠ target.toNat → s'.chip.flight g = s.chip.flight g)
      ∧ (if (segsBad (s.chip.fNu target.toNat) l).isSome then
          Done s t 0x0401 ifc tag target pl stINVALID_ARG ((segsBad (s.chip.fNu target.toNat) l).getD 0) [] s'
            ∧ s'.chip.lck = s.chip.lck
        else if s.chip.flag (LCK_SEGQ_CTL__QSRC target.toNat) = true then
          Done s t 0x0401 ifc tag target pl stWRONG_STATE 0 [] s' ∧ s'.chip.lck = s.chip.lck
        else if 32 < (applyOps (s.chip.flight target.toNat).queue (s.chip.flight target.toNat).ops).length + l.length then
          Done s t 0x0401 ifc tag target pl stBUSY 0 [] s' ∧ s'.chip.lck = s.chip.lck
        else Done s t 0x0401 ifc tag target pl stOK 0 [] s'
          ∧ s'.chip.flight target.toNat = { s.chip.flight target.toNat with
              ops := (s.chip.flight target.toNat).ops ++ [.append l] })) ∧
    (s.chip.takes t 0x0402 ifc tag target pl 0 →
      s.chip.flag (LCK_SEGQ_CTL__QSRC target.toNat) = true →
      ∃ s', exec (.trajFlush t ifc tag target pl) s = .next s'
      ∧ Done s t 0x0402 ifc tag target pl stWRONG_STATE 0 [] s'
      ∧ s.chip.regsSame s'.chip
      ∧ s'.chip.lck = s.chip.lck) ∧
    (s.chip.takes t 0x0402 ifc tag target pl 0 →
      s.chip.flag (LCK_SEGQ_CTL__QSRC target.toNat) = false →
      ∃ s', exec (.trajFlush t ifc tag target pl) s = .next s'
      ∧ Done s t 0x0402 ifc tag target pl stOK 0 [] s'
      ∧ s.chip.regsSame s'.chip
      ∧ (∀ g : Nat, g ≠ target.toNat → s'.chip.flight g = s.chip.flight g)
      ∧ s'.chip.flight target.toNat = { s.chip.flight target.toNat with ops := (s.chip.flight target.toNat).ops ++ [.flush] })

/-- REG_WRITE, CFG_WRITE and BUDGET_SET. -/
def Obligations.ConfigurationWritesFollowTheirOwners : Prop :=
  ∀ (s : State) (t : Nat) (ifc : Iface) (tag target : Word) (pl : List Word),
    (s.chip.takes t 0x0105 ifc tag target pl 0 →
      s.chip.role = 0 →
      (wordAt pl 0 % 4 ≠ 0 ∨ 0x10000 ≤ wordAt pl 0) →
      ∃ s', exec (.regWrite t ifc tag target pl) s = .next s'
      ∧ Done s t 0x0105 ifc tag target pl stINVALID_ARG 0 [] s'
      ∧ s.chip.regsSame s'.chip
      ∧ s'.chip.mem = s.chip.mem) ∧
    (s.chip.takes t 0x0105 ifc tag target pl 0 →
      s.chip.role = 0 →
      ¬ (wordAt pl 0 % 4 ≠ 0 ∨ 0x10000 ≤ wordAt pl 0) →
      (wordAt pl 1 = 0 ∨ 1024 < wordAt pl 1 ∨ 0x10000 < wordAt pl 0 + 4 * wordAt pl 1) →
      ∃ s', exec (.regWrite t ifc tag target pl) s = .next s'
      ∧ Done s t 0x0105 ifc tag target pl stINVALID_ARG 1 [] s'
      ∧ s.chip.regsSame s'.chip
      ∧ s'.chip.mem = s.chip.mem) ∧
    (s.chip.takes t 0x0105 ifc tag target pl 0 →
      s.chip.role = 0 →
      ¬ (wordAt pl 0 % 4 ≠ 0 ∨ 0x10000 ≤ wordAt pl 0) →
      ¬ (wordAt pl 1 = 0 ∨ 1024 < wordAt pl 1 ∨ 0x10000 < wordAt pl 0 + 4 * wordAt pl 1) →
      ∃ s', exec (.regWrite t ifc tag target pl) s = .next s'
      ∧ Done s t 0x0105 ifc tag target pl stOK 0 [] s'
      ∧ s'.chip.regs = ((s.chip.taken t 0x0105 ifc tag target pl).writeRegs ifc (wordAt pl 0) ((pl.drop 2).take (wordAt pl 1))).regs) ∧
    (s.chip.takes t 0x0206 ifc tag target pl 0 →
      s.chip.role = 0 →
      (winAt (wordAt pl 0) = none ∨ wordAt pl 0 % 4 ≠ 0) →
      ∃ s', exec (.cfgWrite t ifc tag target pl) s = .next s'
      ∧ Done s t 0x0206 ifc tag target pl stINVALID_ARG 0 [] s'
      ∧ s.chip.regsSame s'.chip
      ∧ s'.chip.mem = s.chip.mem) ∧
    (s.chip.takes t 0x0206 ifc tag target pl 0 →
      s.chip.role = 0 →
      ∀ w : Nat × Nat × Nat, winAt (wordAt pl 0) = some w →
      w.2.1 % 4 = 0 →
      (wordAt pl 1 = 0 ∨ 1024 < wordAt pl 1 ∨ w.2.2 < w.2.1 + 4 * wordAt pl 1) →
      ∃ s', exec (.cfgWrite t ifc tag target pl) s = .next s'
      ∧ Done s t 0x0206 ifc tag target pl stINVALID_ARG 1 [] s'
      ∧ s.chip.regsSame s'.chip
      ∧ s'.chip.mem = s.chip.mem) ∧
    (s.chip.takes t 0x0206 ifc tag target pl 0 →
      s.chip.role = 0 →
      ∀ w : Nat × Nat × Nat, winAt (wordAt pl 0) = some w →
      w.2.1 % 4 = 0 →
      1 ≤ wordAt pl 1 →
      wordAt pl 1 ≤ 1024 →
      w.2.1 + 4 * wordAt pl 1 ≤ w.2.2 →
      s.chip.hst.stage.running = true →
      ∃ s', exec (.cfgWrite t ifc tag target pl) s = .next s'
      ∧ Done s t 0x0206 ifc tag target pl stBUSY 0 [] s'
      ∧ s.chip.regsSame s'.chip
      ∧ s'.chip.mem = s.chip.mem) ∧
    (s.chip.takes t 0x0206 ifc tag target pl 0 →
      s.chip.role = 0 →
      ∀ w : Nat × Nat × Nat, winAt (wordAt pl 0) = some w →
      w.2.1 % 4 = 0 →
      1 ≤ wordAt pl 1 →
      wordAt pl 1 ≤ 1024 →
      w.2.1 + 4 * wordAt pl 1 ≤ w.2.2 →
      s.chip.hst.stage.running = false →
      w.1 = 1 →
      s.chip.opState = 0 →
      ∃ s', exec (.cfgWrite t ifc tag target pl) s = .next s'
      ∧ Done s t 0x0206 ifc tag target pl stOK 0 [] s'
      ∧ s.chip.regsSame s'.chip
      ∧ memWords 0 s'.chip.mem.bank w.2.1 (wordAt pl 1) = (pl.drop 2).take (wordAt pl 1)
      ∧ (∀ b : Nat, (b < w.2.1 ∨ w.2.1 + 4 * wordAt pl 1 ≤ b) →
          tabGet (fun _ => 0) s'.chip.mem.bank b = tabGet (fun _ => 0) s.chip.mem.bank b)
      ∧ s'.chip.mem = { s.chip.mem with bank := s'.chip.mem.bank }) ∧
    (s.chip.takes t 0x0206 ifc tag target pl 0 →
      s.chip.role = 0 →
      ∀ w : Nat × Nat × Nat, winAt (wordAt pl 0) = some w →
      w.2.1 % 4 = 0 →
      1 ≤ wordAt pl 1 →
      wordAt pl 1 ≤ 1024 →
      w.2.1 + 4 * wordAt pl 1 ≤ w.2.2 →
      s.chip.hst.stage.running = false →
      (2 ≤ w.1 ∨ (w.1 = 1 ∧ s.chip.opState ≠ 0)) →
      ∃ s', exec (.cfgWrite t ifc tag target pl) s = .next s'
      ∧ Done s t 0x0206 ifc tag target pl stWRONG_STATE 0 [] s'
      ∧ s'.chip.mem = s.chip.mem
      ∧ s'.chip.flag (if w.1 = 1 then LCK_STATUS__CFG_REJ else if w.1 = 2 then SLU_STATUS__CFG_REJ
          else if w.1 = 3 then BSN_STATUS__CFG_REJ else TOW_STATUS__CFG_REJ) = true
      ∧ s.chip.regsBut s'.chip [LCK_STATUS, SLU_STATUS, BSN_STATUS, TOW_STATUS]) ∧
    (s.chip.takes t 0x0206 ifc tag target pl 0 →
      s.chip.role = 0 →
      ∀ w : Nat × Nat × Nat, winAt (wordAt pl 0) = some w →
      w.2.1 % 4 = 0 →
      1 ≤ wordAt pl 1 →
      wordAt pl 1 ≤ 1024 →
      w.2.1 + 4 * wordAt pl 1 ≤ w.2.2 →
      s.chip.hst.stage.running = false →
      w.1 = 0 →
      wordAt pl 1 = 1 →
      ¬ (0x1000 ≤ w.2.1 ∧ w.2.1 < 0x1800) →
      s.chip.dryOrMoored = true →
      ∃ s', exec (.cfgWrite t ifc tag target pl) s = .next s'
      ∧ Done s t 0x0206 ifc tag target pl stOK 0 [] s'
      ∧ s.chip.regsSame s'.chip
      ∧ s'.chip.lckW w.2.1 = wordAt pl 2 &&& lckMask w.2.1
      ∧ (∀ b : Nat, (b < w.2.1 ∨ w.2.1 + 4 ≤ b) →
          tabGet (fun _ => 0) s'.chip.mem.lck b = tabGet (fun _ => 0) s.chip.mem.lck b)
      ∧ s'.chip.mem = { s.chip.mem with lck := s'.chip.mem.lck }) ∧
    (s.chip.takes t 0x0206 ifc tag target pl 0 →
      s.chip.role = 0 →
      ∀ w : Nat × Nat × Nat, winAt (wordAt pl 0) = some w →
      w.2.1 % 4 = 0 →
      1 ≤ wordAt pl 1 →
      wordAt pl 1 ≤ 1024 →
      w.2.1 + 4 * wordAt pl 1 ≤ w.2.2 →
      s.chip.hst.stage.running = false →
      w.1 = 0 →
      wordAt pl 1 = 1 →
      ¬ (0x1000 ≤ w.2.1 ∧ w.2.1 < 0x1800) →
      s.chip.dryOrMoored = false →
      ∃ s', exec (.cfgWrite t ifc tag target pl) s = .next s'
      ∧ Done s t 0x0206 ifc tag target pl stWRONG_STATE 0 [] s'
      ∧ s'.chip.mem = s.chip.mem
      ∧ s'.chip.flag LCK_STATUS__CFG_REJ = true
      ∧ s.chip.regsBut s'.chip [LCK_STATUS]) ∧
    (s.chip.takes t 0x0D02 ifc tag target pl 0 →
      lkpWrite (LKP_CLS_TB target.toNat) (wordAt pl 0) = none →
      ∃ s', exec (.budgetSet t ifc tag target pl) s = .next s'
      ∧ Done s t 0x0D02 ifc tag target pl stINVALID_ARG 0 [] s'
      ∧ s.chip.regsSame s'.chip
      ∧ s'.chip.mem = s.chip.mem) ∧
    (s.chip.takes t 0x0D02 ifc tag target pl 0 →
      lkpWrite (LKP_CLS_TB target.toNat) (wordAt pl 0) ≠ none →
      lkpWrite (LKP_CLS_EB target.toNat) (wordAt pl 1) = none →
      ∃ s', exec (.budgetSet t ifc tag target pl) s = .next s'
      ∧ Done s t 0x0D02 ifc tag target pl stINVALID_ARG 1 [] s'
      ∧ s.chip.regsSame s'.chip
      ∧ s'.chip.mem = s.chip.mem) ∧
    (s.chip.takes t 0x0D02 ifc tag target pl 0 →
      lkpWrite (LKP_CLS_TB target.toNat) (wordAt pl 0) ≠ none →
      lkpWrite (LKP_CLS_EB target.toNat) (wordAt pl 1) ≠ none →
      ∃ s', exec (.budgetSet t ifc tag target pl) s = .next s'
      ∧ Done s t 0x0D02 ifc tag target pl stOK 0 [] s'
      ∧ s'.chip.reg (LKP_CLS_TB target.toNat) = wordAt pl 0
      ∧ s'.chip.reg (LKP_CLS_EB target.toNat) = wordAt pl 1
      ∧ s.chip.regsBut s'.chip [LKP_CLS_TB target.toNat, LKP_CLS_EB target.toNat])

/-- SET_STATE, and the twin-wide commands of a PRIMARY. -/
def Obligations.StateAndTwinChangesWaitForABoundary : Prop :=
  ∀ (s : State) (t : Nat) (ifc : Iface) (tag target : Word) (pl : List Word),
    (s.chip.takes t 0x0102 ifc tag target pl 0 →
      target.toNat = s.chip.opState →
      ∃ s', exec (.setState t ifc tag target pl) s = .next s'
      ∧ Done s t 0x0102 ifc tag target pl stOK 0 [] s'
      ∧ s.chip.regsSame s'.chip
      ∧ s'.chip.pnd = s.chip.pnd) ∧
    (s.chip.takes t 0x0102 ifc tag target pl 0 →
      target.toNat ≠ s.chip.opState →
      s.chip.stateAllowed target.toNat = true →
      s.chip.pnd.request.isSome = true →
      ∃ s', exec (.setState t ifc tag target pl) s = .next s'
      ∧ Done s t 0x0102 ifc tag target pl stBUSY 0 [] s'
      ∧ s.chip.regsSame s'.chip
      ∧ s'.chip.pnd = s.chip.pnd) ∧
    (s.chip.takes t 0x0102 ifc tag target pl 0 →
      target.toNat ≠ s.chip.opState →
      s.chip.stateAllowed target.toNat = false →
      ∃ s', exec (.setState t ifc tag target pl) s = .next s'
      ∧ Done s t 0x0102 ifc tag target pl stWRONG_STATE 0 [] s'
      ∧ s.chip.regsSame s'.chip
      ∧ s'.chip.pnd = s.chip.pnd) ∧
    (s.chip.takes t 0x0102 ifc tag target pl 0 →
      target.toNat ≠ s.chip.opState →
      s.chip.pnd.request = none →
      s.chip.stateAllowed target.toNat = true →
      s.chip.opState = 0 →
      s.chip.flag AQU_CFG__TWIN_EN = true →
      s.chip.longFree 0x0102 0 = true →
      ∃ s', exec (.setState t ifc tag target pl) s = .next s'
      ∧ Done s t 0x0102 ifc tag target pl stACCEPTED 0 [] s'
      ∧ s.chip.regsSame s'.chip
      ∧ s'.chip.pnd = s.chip.pnd
      ∧ s'.chip.aqu.joinT = some (t + max (s.chip.fld AQU_CFG__JOIN_TMO) 1 * 800000)) ∧
    (s.chip.takes t 0x0102 ifc tag target pl 0 → target.toNat ≠ s.chip.opState → s.chip.pnd.request = none →
      s.chip.stateAllowed target.toNat = true → ¬ (s.chip.opState = 0 ∧ s.chip.flag AQU_CFG__TWIN_EN = true) →
      ∃ s', exec (.setState t ifc tag target pl) s = .next s' ∧ s'.chip.now = t ∧ s.chip.regsSame s'.chip
      ∧ s'.chip.pnd = { s.chip.pnd with request := some ⟨target.toNat, (s.chip.poundNum + (if target.toNat = 2 then 2 else 1)) % 2 ^ 32, some (s.chip.takeIntake 0x0102 ifc tag target pl).2⟩ }
      ∧ ((∀ x ∈ s.chip.hst.intake, x.kind = .command) →
          s'.chip.hst.pendCpl = s.chip.hst.pendCpl ∧ s'.chip.hst.spiReplies = s.chip.hst.spiReplies)) ∧
    (∀ (i : Instr) (h : HostCall), hostCall i = some h →
      h.op ∈ [0x0206, 0x0307, 0x0901, 0x0902] → s.chip.takes h.t h.op h.ifc h.tag h.target h.pl 0 → s.chip.role = 1 →
      s.chip.longFree h.op 0 = true →
      (changeBody h.op (s.chip.taken h.t h.op h.ifc h.tag h.target h.pl)
        (s.chip.takeIntake h.op h.ifc h.tag h.target h.pl).2).2 = .now stOK 0 [] →
      ∃ s', exec i s = .next s' ∧ Done s h.t h.op h.ifc h.tag h.target h.pl stACCEPTED 0 [] s'
        ∧ s'.chip.aqu.changes = s.chip.aqu.changes ++ [(s.chip.takeIntake h.op h.ifc h.tag h.target h.pl).2]
        ∧ s'.chip.hst.longs.length = s.chip.hst.longs.length + 1
        ∧ s'.chip.mem = s.chip.mem ∧ s.chip.regsSame s'.chip)

/-- CHAIN_ALIGN, POS_CHN_CFG_WRITE, CHN_STANDSTILL and CHAINAGE_COUNT_RISE. -/
def Obligations.ChainageIsSetOnlyAtRest : Prop :=
  ∀ (s : State) (t : Nat) (ifc : Iface) (tag target : Word) (pl : List Word),
    (s.chip.takes t 0x0503 ifc tag target pl 0 →
      (wordAt pl 0 + bits (wordAt pl 1) 15 0 * 2 ^ 32) % 2 ^ s.chip.fld POS_CHN_HO__HO_SH ≠ 0 →
      ∃ s', exec (.chainAlign t ifc tag target pl) s = .next s'
      ∧ Done s t 0x0503 ifc tag target pl stINVALID_ARG 0 [] s'
      ∧ s.chip.regsSame s'.chip
      ∧ s'.chip.pf = s.chip.pf) ∧
    (s.chip.takes t 0x0503 ifc tag target pl 0 →
      (wordAt pl 0 + bits (wordAt pl 1) 15 0 * 2 ^ 32) % 2 ^ s.chip.fld POS_CHN_HO__HO_SH = 0 →
      (s.chip.dryOrMoored = false ∨ s.chip.flag POS_CHN_CFG__EN = false) →
      ∃ s', exec (.chainAlign t ifc tag target pl) s = .next s'
      ∧ Done s t 0x0503 ifc tag target pl stWRONG_STATE 0 [] s'
      ∧ s.chip.regsSame s'.chip
      ∧ s'.chip.pf = s.chip.pf) ∧
    (s.chip.takes t 0x0503 ifc tag target pl 0 →
      (wordAt pl 0 + bits (wordAt pl 1) 15 0 * 2 ^ 32) % 2 ^ s.chip.fld POS_CHN_HO__HO_SH = 0 →
      s.chip.dryOrMoored = true →
      s.chip.flag POS_CHN_CFG__EN = true →
      s.chip.manEmpty = false →
      ∃ s', exec (.chainAlign t ifc tag target pl) s = .next s'
      ∧ Done s t 0x0503 ifc tag target pl stBUSY 0 [] s'
      ∧ s.chip.regsSame s'.chip
      ∧ s'.chip.pf = s.chip.pf) ∧
    (s.chip.takes t 0x0503 ifc tag target pl 0 →
      (wordAt pl 0 + bits (wordAt pl 1) 15 0 * 2 ^ 32) % 2 ^ s.chip.fld POS_CHN_HO__HO_SH = 0 →
      s.chip.dryOrMoored = true →
      s.chip.flag POS_CHN_CFG__EN = true →
      s.chip.manEmpty = true →
      ∃ s', exec (.chainAlign t ifc tag target pl) s = .next s'
      ∧ Done s t 0x0503 ifc tag target pl stOK 0 [] s'
      ∧ s'.chip.pf = { s.chip.pf with chain := { s.chip.pf.chain with alignV := some (wordAt pl 0 + bits (wordAt pl 1) 15 0 * 2 ^ 32) } }
      ∧ s'.chip.flag POS_CHN_STATUS__ALIGN_ARMED = true
      ∧ s.chip.regsBut s'.chip [POS_CHN_STATUS]) ∧
    (s.chip.ready t → s.chip.serves ifc = true → ∀ v : Word, (s.chip.dryOrMoored = false ∨ (v.toNat.testBit 31 ≠ s.chip.flag POS_CHN_CFG__EN
        ∧ (s.chip.manEmpty = false ∨ s.chip.chainSegs = true))) →
      ∃ s', exec (.posChnCfgWrite t ifc 0 v) s = .next s' ∧ s'.chip.now = t
      ∧ s'.chip.flag POS_CHN_STATUS__CFG_REJ = true
      ∧ s'.chip.pf = s.chip.pf
      ∧ s.chip.regsBut s'.chip [POS_CHN_STATUS]) ∧
    (s.chip.ready t → s.chip.serves ifc = true → ∀ v : Word, s.chip.dryOrMoored = true →
      v.toNat.testBit 31 = true →
      s.chip.flag POS_CHN_CFG__EN = false →
      s.chip.manEmpty = true →
      s.chip.chainSegs = false →
      ∃ s', exec (.posChnCfgWrite t ifc 0 v) s = .next s' ∧ s'.chip.now = t
      ∧ s'.chip.flag POS_CHN_CFG__EN = true
      ∧ s'.chip.pf.chain.h = 0
      ∧ s'.chip.tb5 = 0
      ∧ s'.chip.reg POS_CHN_SPEED = 0
      ∧ s'.chip.eHat (s'.chip.chan s'.chip.belt).pos = 0
      ∧ s'.chip.flag POS_CHN_STATUS__ALIGNED = false
      ∧ s'.chip.flag POS_CHN_STATUS__ACTIVE = false) ∧
    (s.chip.ready t → s.chip.serves ifc = true → ∀ v : Word, s.chip.dryOrMoored = true →
      v.toNat.testBit 31 = false →
      s.chip.flag POS_CHN_CFG__EN = true →
      s.chip.manEmpty = true →
      s.chip.chainSegs = false →
      ∃ s', exec (.posChnCfgWrite t ifc 0 v) s = .next s' ∧ s'.chip.now = t
      ∧ s'.chip.flag POS_CHN_CFG__EN = false
      ∧ s'.chip.reg POS_CHN_SPEED = 0
      ∧ s'.chip.flag POS_CHN_STATUS__ACTIVE = false
      ∧ s'.chip.tb5 = (s.chip.at t).tb5
      ∧ s.chip.regsBut s'.chip [POS_CHN_CFG, POS_CHN_STATUS, POS_CHN_SPEED]) ∧
    (s.chip.ready t → s.chip.serves ifc = true → ∀ v : Word, (s.chip.dryOrMoored = false ∨ 24 < bits v.toNat 20 16) →
      ∃ s', exec (.posChnCfgWrite t ifc 1 v) s = .next s' ∧ s'.chip.now = t
      ∧ s'.chip.flag POS_CHN_STATUS__CFG_REJ = true
      ∧ s'.chip.pf = s.chip.pf
      ∧ s.chip.regsBut s'.chip [POS_CHN_STATUS]) ∧
    (s.chip.ready t → s.chip.serves ifc = true → ∀ v : Word, s.chip.dryOrMoored = true →
      bits v.toNat 20 16 ≤ 24 →
      ∃ s', exec (.posChnCfgWrite t ifc 1 v) s = .next s' ∧ s'.chip.now = t
      ∧ s'.chip.fld POS_CHN_HO__HO_SH = bits v.toNat 20 16
      ∧ s'.chip.fld POS_CHN_HO__ALIGN_TOL = bits v.toNat 15 0
      ∧ s'.chip.pf = s.chip.pf
      ∧ s.chip.regsBut s'.chip [POS_CHN_HO]) ∧
    (s.chip.ready t →
      s.chip.stillDue = true →
      ∃ s', exec (.chnStandstill t) s = .next s' ∧ s'.chip.now = t
      ∧ s'.chip.flag POS_CHN_STATUS__STANDSTILL = true
      ∧ s'.chip.reg POS_CHN_SPEED = 0
      ∧ s'.chip.pf.chain.hist = []
      ∧ s'.chip.tb5 = (s.chip.at t).tb5
      ∧ s.chip.regsBut s'.chip [POS_CHN_STATUS, POS_CHN_SPEED, HST_EVT_LAD_STAT 0, HST_EVT_LAD_STAT 1, HST_EVT_LAD_STAT 2,
          HST_EVT_LAD_STAT 3, HST_EVT_LAD_DROP 0, HST_EVT_LAD_DROP 1, HST_EVT_LAD_DROP 2, HST_EVT_LAD_DROP 3, HST_INT_STATUS]) ∧
    (s.chip.ready t →
      s.chip.stillDue = false →
      ∃ s', exec (.chnStandstill t) s = .next s' ∧ s'.chip.now = t
      ∧ s'.chip.pf = s.chip.pf
      ∧ s.chip.regsSame s'.chip) ∧
    (s.chip.ready t →
      s.chip.flag POS_CHN_CFG__EN = true →
      ∃ s', exec (.chainageCountRise t) s = .next s' ∧ s'.chip.now = t
      ∧ s'.chip.pf.chain = { s.chip.pf.chain with whole := (if ((s.chip.at t).tb5 / 2 ^ 16 + 2 ^ 48 - s.chip.pf.chain.whole) % 2 ^ 48 = 0 then
          s.chip.pf.chain.whole else (s.chip.at t).tb5 / 2 ^ 16) }
      ∧ (∀ d < 8, (s.chip.flag (POS_PD_CFG__EN d) = false ∨ s.chip.flag (POS_PD_CFG__SRC_CHN d) = false) →
          s'.chip.pd d = s.chip.pd d)
      ∧ (∀ d < 8, ((s.chip.at t).tb5 / 2 ^ 16 + 2 ^ 48 - s.chip.pf.chain.whole) % 2 ^ 48 ≠ 0 → s.chip.flag (POS_PD_CFG__EN d) = true →
          s.chip.flag (POS_PD_CFG__SRC_CHN d) = true → s'.chip.pd d = ((s.chip.pd d).steps (s.chip.fld (POS_PD_RATIO__N d))
            (s.chip.fld (POS_PD_RATIO__M d)) (((s.chip.at t).tb5 / 2 ^ 16 + 2 ^ 48 - s.chip.pf.chain.whole) % 2 ^ 48) true).1)) ∧
    (s.chip.ready t →
      s.chip.flag POS_CHN_CFG__EN = false →
      ∃ s', exec (.chainageCountRise t) s = .next s' ∧ s'.chip.now = t
      ∧ s'.chip.pf = s.chip.pf
      ∧ s.chip.regsSame s'.chip)

/-- MANIFEST_ADD, MANIFEST_ARM, MANIFEST_FIRE, OUT_PULSE_END, MANIFEST_CANCEL and CANCEL_TICK. -/
def Obligations.ManifestEntriesFireInOrder : Prop :=
  ∀ (s : State) (t : Nat) (ifc : Iface) (tag target : Word) (pl : List Word),
    (s.chip.takes t 0x0501 ifc tag target pl 32 →
      s.chip.opState ≠ 0 →
      1 ≤ wordAt pl 0 →
      wordAt pl 0 ≤ 64 →
      (∀ i < wordAt pl 0, manBad ((pl.drop (1 + 8 * i)).take 8) = none) →
      s.chip.man.armed.length + s.chip.man.waiting.length + wordAt pl 0 ≤ 4096 →
      ∃ s', exec (.manifestAdd t ifc tag target pl) s = .next s'
      ∧ Done s t 0x0501 ifc tag target pl stOK 0 ((List.range ((wordAt pl 0 + 1) / 2)).map (fun i =>
          w32 ((((s'.chip.man.waiting.drop s.chip.man.waiting.length).map ManEntry.handle).getD (2 * i) 0)
            + (((s'.chip.man.waiting.drop s.chip.man.waiting.length).map ManEntry.handle).getD (2 * i + 1) 0) * 2 ^ 16))) s'
      ∧ s'.chip.man.armed = s.chip.man.armed
      ∧ s'.chip.man.waiting.length = s.chip.man.waiting.length + wordAt pl 0
      ∧ (s'.chip.man.waiting.drop s.chip.man.waiting.length).map (·.w)
          = (List.range (wordAt pl 0)).map (fun i => manWords ((pl.drop (1 + 8 * i)).take 8))
      ∧ (∀ e ∈ s'.chip.man.waiting.drop s.chip.man.waiting.length, e.idx < 4096 ∧ e.idx ∉ s.chip.man.usedIdx)
      ∧ s.chip.regsSame s'.chip) ∧
    (s.chip.takes t 0x0501 ifc tag target pl 0 →
      s.chip.opState = 0 →
      1 ≤ wordAt pl 0 →
      wordAt pl 0 ≤ 64 →
      (∀ i < wordAt pl 0, manBad ((pl.drop (1 + 8 * i)).take 8) = none) →
      ∃ s', exec (.manifestAdd t ifc tag target pl) s = .next s'
      ∧ Done s t 0x0501 ifc tag target pl stWRONG_STATE 0 [] s'
      ∧ s.chip.regsSame s'.chip
      ∧ s'.chip.man = s.chip.man) ∧
    (s.chip.takes t 0x0501 ifc tag target pl 0 →
      s.chip.opState ≠ 0 →
      1 ≤ wordAt pl 0 →
      wordAt pl 0 ≤ 64 →
      (∀ i < wordAt pl 0, manBad ((pl.drop (1 + 8 * i)).take 8) = none) →
      4096 < s.chip.man.armed.length + s.chip.man.waiting.length + wordAt pl 0 →
      ∃ s', exec (.manifestAdd t ifc tag target pl) s = .next s'
      ∧ Done s t 0x0501 ifc tag target pl stFULL 0 [] s'
      ∧ s'.chip.man = s.chip.man
      ∧ s'.chip.flag POS_MAN_STATUS__FULL_SEEN = true
      ∧ s.chip.regsBut s'.chip [POS_MAN_STATUS]) ∧
    (∀ j : Nat, s.chip.takes t 0x0501 ifc tag target pl 0 →
      1 ≤ wordAt pl 0 →
      manBad ((pl.drop 1).take 8) = some j →
      ∃ s', exec (.manifestAdd t ifc tag target pl) s = .next s'
      ∧ Done s t 0x0501 ifc tag target pl stINVALID_ARG (1 + j) [] s'
      ∧ s.chip.regsSame s'.chip
      ∧ s'.chip.man = s.chip.man) ∧
    (s.chip.ready t →
      (s.chip.man.waiting = [] ∨ s.chip.drives = false) →
      ∃ s', exec (.manifestArm t) s = .next s' ∧ s'.chip.now = t
      ∧ s'.chip.man = s.chip.man
      ∧ s.chip.regsSame s'.chip) ∧
    (s.chip.ready t → ∀ (e : ManEntry) (rest : List ManEntry), s.chip.man.waiting = e :: rest →
      s.chip.drives = true → (s.chip.at t).tb5 < e.key →
      ∃ s', exec (.manifestArm t) s = .next s' ∧ s'.chip.now = t
      ∧ s'.chip.man = { s.chip.man with waiting := rest, seq := s.chip.man.seq + 1, used := true, armed := manInsert { e with seq := s.chip.man.seq } s.chip.man.armed }
      ∧ s.chip.regsSame s'.chip) ∧
    (s.chip.ready t → ∀ (e : ManEntry) (rest : List ManEntry), s.chip.man.waiting = e :: rest →
      s.chip.drives = true → e.key ≤ (s.chip.at t).tb5 →
      ∃ s', exec (.manifestArm t) s = .next s' ∧ s'.chip.now = t
      ∧ s'.chip.man.waiting = rest
      ∧ s'.chip.man.armed = s.chip.man.armed
      ∧ (e.dropPast = true → s'.chip.man.level = s.chip.man.level ∧ s'.chip.man.aux = s.chip.man.aux ∧ s'.chip.lck = s.chip.lck
          ∧ s'.chip.adc = s.chip.adc ∧ s'.chip.gau = s.chip.gau)) ∧
    (s.chip.ready t →
      (s.chip.drives = false ∨ s.chip.man.armed = [] ∨ (∃ e, s.chip.man.armed.head? = some e ∧ (s.chip.at t).tb5 < e.key)
        ∨ (s.chip.man.fireT = t ∧ 8 ≤ s.chip.man.fireN)) →
      ∃ s', exec (.manifestFire t) s = .next s' ∧ s'.chip.now = t
      ∧ s'.chip.man = s.chip.man
      ∧ s.chip.regsSame s'.chip) ∧
    (s.chip.ready t → ∀ (e : ManEntry) (rest : List ManEntry), s.chip.man.armed = e :: rest →
      s.chip.drives = true →
      e.key ≤ (s.chip.at t).tb5 →
      ¬ (s.chip.man.fireT = t ∧ 8 ≤ s.chip.man.fireN) →
      ∃ s', exec (.manifestFire t) s = .next s' ∧ s'.chip.now = t
      ∧ s'.chip.man.armed.map (fun x => (x.idx, x.w)) = rest.map (fun x => (x.idx, x.w))
      ∧ s'.chip.man.fireT = t
      ∧ s'.chip.man.fireN = (if s.chip.man.fireT = t then s.chip.man.fireN else 0) + 1
      ∧ s'.chip.fld POS_MAN_FIRED__FIRED = satAdd POS_MAN_FIRED__FIRED (s.chip.fld POS_MAN_FIRED__FIRED) 1
      ∧ (e.action = 1 → e.target < 8 → s'.chip.man.level = s.chip.man.level ||| 2 ^ e.target
          ∧ s.chip.sent s'.chip [.pin pinMEVO e.target true])
      ∧ (e.action = 2 → e.target < 8 → s'.chip.man.level = s.chip.man.level &&& (255 ^^^ 2 ^ e.target)
          ∧ s.chip.sent s'.chip [.pin pinMEVO e.target false])
      ∧ (e.action = 3 → e.target < 8 → s'.chip.man.level = s.chip.man.level ||| 2 ^ e.target
          ∧ tabGet (fun _ => none) s'.chip.man.falls e.target = some (t + e.arg0))
      ∧ (e.action = 6 → s.chip.opState = 2 → tabGet (fun _ => 0) s'.chip.man.aux (e.arg1 % 1024) = e.arg0 % 2 ^ 16)
      ∧ ((e.action = 6 ∨ e.action = 7) → s.chip.opState ≠ 2 → s'.chip.man.aux = s.chip.man.aux ∧ s'.chip.lck = s.chip.lck
          ∧ s'.chip.fld POS_MAN_EXC__SUPPRESSED = satAdd POS_MAN_EXC__SUPPRESSED (s.chip.fld POS_MAN_EXC__SUPPRESSED) 1)) ∧
    (∀ (i : Fin 8) (w : Nat), s.chip.boot.phase = .run → tabGet (fun _ => none) s.chip.man.falls i.val = some w →
      ∃ s', exec (.outPulseEnd i) s = .next s' ∧ s'.chip.now = max s.chip.now w
      ∧ s'.chip.man.level = s.chip.man.level &&& (255 ^^^ 2 ^ i.val)
      ∧ tabGet (fun _ => none) s'.chip.man.falls i.val = none
      ∧ (s.chip.drives = true → s.chip.sent s'.chip [.pin pinMEVO i.val false])
      ∧ (s.chip.drives = false → s'.chip.out = s.chip.out)
      ∧ s.chip.regsSame s'.chip) ∧
    (s.chip.takes t 0x0502 ifc tag target pl 0 → ¬ (2 < wordAt pl 0) →
      ¬ (wordAt pl 0 = 0 ∧ ∀ e ∈ s.chip.man.armed ++ s.chip.man.waiting, e.handle ≠ wordAt pl 1 % 2 ^ 16) →
      ∃ s', exec (.manifestCancel t ifc tag target pl) s = .next s' ∧ s'.chip.now = t ∧ s.chip.regsSame s'.chip
      ∧ s'.chip.man = { s.chip.man with cancels := s.chip.man.cancels ++
          [⟨wordAt pl 0, pl.getD 1 0, pl.getD 2 0, (s.chip.takeIntake 0x0502 ifc tag target pl).2⟩] }) ∧
    (s.chip.takes t 0x0502 ifc tag target pl 0 →
      2 < wordAt pl 0 →
      ∃ s', exec (.manifestCancel t ifc tag target pl) s = .next s'
      ∧ Done s t 0x0502 ifc tag target pl stINVALID_ARG 0 [] s'
      ∧ s.chip.regsSame s'.chip
      ∧ s'.chip.man = s.chip.man) ∧
    (s.chip.takes t 0x0502 ifc tag target pl 0 →
      wordAt pl 0 = 0 →
      (∀ e ∈ s.chip.man.armed ++ s.chip.man.waiting, e.handle ≠ wordAt pl 1 % 2 ^ 16) →
      ∃ s', exec (.manifestCancel t ifc tag target pl) s = .next s'
      ∧ Done s t 0x0502 ifc tag target pl stNOT_FOUND 0 [] s'
      ∧ s.chip.regsSame s'.chip
      ∧ s'.chip.man = s.chip.man) ∧
    (s.chip.ready t → ∀ (x : ManCancel) (rest : List ManCancel), s.chip.man.cancels = x :: rest →
      s.chip.drives = false →
      ∃ s', exec (.cancelTick t) s = .next s' ∧ s'.chip.now = t
      ∧ s'.chip.man.cancels = rest
      ∧ s'.chip.man.armed = s.chip.man.armed.filter (fun e => !x.matches e)
      ∧ s'.chip.replyGone x.cmd.org (replyWords x.cmd.op x.cmd.tag stOK 0 [w32 (s.chip.man.armed.filter x.matches).length])) ∧
    (s.chip.ready t → ∀ (x : ManCancel) (rest : List ManCancel), s.chip.man.cancels = x :: rest →
      ∃ s', exec (.cancelTick t) s = .next s' ∧ s'.chip.now = t
      ∧ s'.chip.man.cancels = rest
      ∧ (∀ e ∈ s'.chip.man.armed, x.matches e = false)
      ∧ s'.chip.man.armed.length ≤ s.chip.man.armed.length) ∧
    (s.chip.ready t →
      s.chip.man.cancels = [] →
      ∃ s', exec (.cancelTick t) s = .next s' ∧ s'.chip.now = t
      ∧ s'.chip.man = s.chip.man
      ∧ s.chip.regsSame s'.chip)

/-- HEAD_COMPUTATION, BUDGET_HIT, TRIGGER_LATCH_RETRY and DISPATCH. -/
def Obligations.WorkersTakeEntriesUnderTheHead : Prop :=
  ∀ (s : State) (t : Nat),
    (s.chip.ready t → ∀ r : HeadReadings, ∃ s', exec (.headComputation t r) s = .next s' ∧ s'.chip.now = t
      ∧ s'.chip.flag LKP_STATUS__SENSOR_FAIL = decide (validTemps r.temps = [])
      ∧ (validTemps r.temps ≠ [] → s'.chip.fldI LKP_TJ__TMAX = (validTemps r.temps).foldl max (-32768))
      ∧ s'.chip.reg LKP_HEAD = min (if validTemps r.temps = [] then 0 else
          (max (s.chip.pAllow4 ((validTemps r.temps).foldl max (-32768)) * 250 - ((r.vin : Int) - r.bsn - r.slu - r.mgt)) 0).toNat) (2 ^ 32 - 1)
      ∧ s'.chip.reg LKP_E_VIN = r.vin % 2 ^ 32
      ∧ s'.chip.reg LKP_E_MGT = r.mgt % 2 ^ 32
      ∧ (∀ k < 10, s'.chip.grantOf k = s.chip.grantOf k)
      ∧ s'.chip.lkp.nextHead = some (if validTemps r.temps = [] then 0 else
          (max (s.chip.pAllow4 ((validTemps r.temps).foldl max (-32768)) * 250 - ((r.vin : Int) - r.bsn - r.slu - r.mgt)) 0).toNat)
      ∧ { s'.chip.lkp with nextHead := none } = { s.chip.lkp with nextHead := none }
      ∧ s.chip.regsBut s'.chip [LKP_INT_STATUS, LKP_STATUS, LKP_TJ, LKP_HEAD, LKP_E_VIN, LKP_E_BSN, LKP_E_SLU, LKP_E_MGT, LKP_E_FIXED]) ∧
    (∀ (h : Nat) (debt : List Nat), ∀ k < 10, (s.chip.headGrant h debt).grantOf k
      = (allocate (s.chip.flag LKP_HEAD_CFG__HEAD_EN) ((List.range 10).map (fun j => s.chip.reg (LKP_CLS_EB j) - debt.getD j 0)) h).getD k 0
          % 2 ^ 32) ∧
    (s.chip.ready t → ∀ k : Fin 10, (s.chip.at t).gated k.val = true →
      tabGet (fun _ => false) s.chip.lkp.gatedNow k.val = false →
      ∃ s', exec (.budgetHit t k) s = .next s' ∧ s'.chip.now = t
      ∧ s'.chip.fld (LKP_CLS_CNT__GATE_CNT k.val) = satAdd (LKP_CLS_CNT__GATE_CNT k.val) (s.chip.fld (LKP_CLS_CNT__GATE_CNT k.val)) 1
      ∧ s'.chip.flag LKP_INT_STATUS__BUDGET_HIT = true
      ∧ tabGet (fun _ => false) s'.chip.lkp.gatedNow k.val = true
      ∧ k.val ≠ 0
      ∧ s.chip.regsBut s'.chip [LKP_CLS_CNT k.val, LKP_INT_STATUS]) ∧
    (s.chip.ready t → ∀ k : Fin 10, ((s.chip.at t).gated k.val = false ∨ tabGet (fun _ => false) s.chip.lkp.gatedNow k.val = true) →
      ∃ s', exec (.budgetHit t k) s = .next s' ∧ s'.chip.now = t
      ∧ s'.chip.lkp = s.chip.lkp
      ∧ s.chip.regsSame s'.chip) ∧
    (s.chip.ready t → ∀ (k : Fin 64) (x : ChainRun), s.chip.run k.val = some x →
      x.latched = true →
      ((s.chip.at t).list 1 ((s.chip.at t).chEntry k.val x.deadline none).prio).length < 256 →
      ∃ s', exec (.triggerLatchRetry t k) s = .next s' ∧ s'.chip.now = t
      ∧ s'.chip.list 1 ((s.chip.at t).chEntry k.val x.deadline none).prio
          = enlist ((s.chip.at t).chEntry k.val x.deadline none) (s.chip.list 1 ((s.chip.at t).chEntry k.val x.deadline none).prio)
      ∧ s'.chip.run k.val = some { x with latched := false }
      ∧ s.chip.regsBut s'.chip [LKP_DEPTH 1 ((s.chip.at t).chEntry k.val x.deadline none).prio]) ∧
    (s.chip.ready t → ∀ (k : Fin 64) (x : ChainRun), s.chip.run k.val = some x →
      (x.latched = false ∨ 256 ≤ (s.chip.list 1 (s.chip.chEntry k.val x.deadline none).prio).length) →
      ∃ s', exec (.triggerLatchRetry t k) s = .next s' ∧ s'.chip.now = t
      ∧ s'.chip.lkp = s.chip.lkp
      ∧ s'.chip.run k.val = some x) ∧
    (s.chip.ready t → ∀ k : Fin 70, (∀ i ≤ k.val, workerClass i = workerClass k.val →
        ((s.chip.at t).workersOf (workerClass k.val) i).any (s.chip.at t).pairsEnd.busyOn = true) →
      ∃ s', exec (.dispatch t k) s = .next s' ∧ s'.chip.now = t
      ∧ s'.chip.lkp.running = (s.chip.at t).pairsEnd.lkp.running) ∧
    (s.chip.ready t → ∀ (k : Fin 70) (e : Entry) (rest : List Entry), workerClass k.val = 0 →
      (∀ i < k.val, workerClass i = 0 → ((s.chip.at t).workersOf 0 i).any (s.chip.at t).pairsEnd.busyOn = true) →
      ((s.chip.at t).workersOf 0 k.val).any (s.chip.at t).pairsEnd.busyOn = false →
      ((s.chip.at t).pairsEnd.dispatchOrder 0).dropWhile (fun x => !(s.chip.at t).pairsEnd.entryLate x
        && ((s.chip.at t).pairsEnd.gated x.cls || !(s.chip.at t).pairsEnd.kindOk k.val x)) = e :: rest →
      (s.chip.at t).pairsEnd.entryLate e = false →
      ∀ n : Nat, e.work = .job n →
      ∃ s', exec (.dispatch t k) s = .next s' ∧ s'.chip.now = t
      ∧ s'.chip.lkp.running = (s.chip.at t).pairsEnd.lkp.running ++ (s.chip.workersOf 0 k.val).map (fun i => (i, ⟨e.cls, e.work, t, t, none⟩))
      ∧ (s'.chip.job n).map Job.running = some true
      ∧ (s'.chip.job n).map Job.lane = some (if s.chip.fld BSN_STATUS__MODE = 0 then k.val else 64)
      ∧ s'.chip.fld (LKP_HIST__COUNT e.cls (if t - e.submitted < 128 then 0 else min 15 (Nat.log2 (t - e.submitted) - 6)))
          = satAdd (LKP_HIST__COUNT e.cls (if t - e.submitted < 128 then 0 else min 15 (Nat.log2 (t - e.submitted) - 6)))
            (s.chip.fld (LKP_HIST__COUNT e.cls (if t - e.submitted < 128 then 0 else min 15 (Nat.log2 (t - e.submitted) - 6)))) 1) ∧
    (s.chip.ready t → ∀ (k : Fin 70) (e : Entry) (rest : List Entry), workerClass k.val = 1 →
      (∀ i < k.val, workerClass i = 1 → ((s.chip.at t).workersOf 1 i).any (s.chip.at t).pairsEnd.busyOn = true) →
      ((s.chip.at t).workersOf 1 k.val).any (s.chip.at t).pairsEnd.busyOn = false →
      ((s.chip.at t).pairsEnd.dispatchOrder 1).dropWhile (fun x => !(s.chip.at t).pairsEnd.entryLate x
        && ((s.chip.at t).pairsEnd.gated x.cls || !(s.chip.at t).pairsEnd.kindOk k.val x)) = e :: rest →
      (s.chip.at t).pairsEnd.entryLate e = false →
      ∀ n : Nat, e.work = .chain n →
      ∃ s', exec (.dispatch t k) s = .next s' ∧ s'.chip.now = t
      ∧ s'.chip.lkp.running = (s.chip.at t).pairsEnd.lkp.running ++ [(k.val, ⟨e.cls, e.work, t, t, none⟩)]
      ∧ s'.chip.list 1 e.prio = (s.chip.list 1 e.prio).erase e
      ∧ ((s.chip.run n).isSome = true → (s'.chip.run n).map ChainRun.running = some true)
      ∧ s'.chip.fld (LKP_HIST__COUNT e.cls (if t - e.submitted < 128 then 0 else min 15 (Nat.log2 (t - e.submitted) - 6)))
          = satAdd (LKP_HIST__COUNT e.cls (if t - e.submitted < 128 then 0 else min 15 (Nat.log2 (t - e.submitted) - 6)))
            (s.chip.fld (LKP_HIST__COUNT e.cls (if t - e.submitted < 128 then 0 else min 15 (Nat.log2 (t - e.submitted) - 6)))) 1) ∧
    (s.chip.ready t → ∀ (k : Fin 70) (e : Entry) (rest : List Entry), workerClass k.val = 2 →
      (∀ i < k.val, workerClass i = 2 → ((s.chip.at t).workersOf 2 i).any (s.chip.at t).pairsEnd.busyOn = true) →
      ((s.chip.at t).workersOf 2 k.val).any (s.chip.at t).pairsEnd.busyOn = false →
      ((s.chip.at t).pairsEnd.dispatchOrder 2).dropWhile (fun x => !(s.chip.at t).pairsEnd.entryLate x
        && ((s.chip.at t).pairsEnd.gated x.cls || !(s.chip.at t).pairsEnd.kindOk k.val x)) = e :: rest →
      (s.chip.at t).pairsEnd.entryLate e = false →
      ∃ s', exec (.dispatch t k) s = .next s' ∧ s'.chip.now = t
      ∧ s'.chip.list 2 e.prio = (s.chip.list 2 e.prio).erase e
      ∧ (e.work = .logSave → s'.chip.lkp.running = (s.chip.at t).pairsEnd.lkp.running ++ [(k.val, ⟨e.cls, e.work, t, t, none⟩)])
      ∧ ((∀ n, e.work ≠ .job n) → (∀ n, e.work ≠ .chain n) → e.work ≠ .logSave →
          ∃ d, t ≤ d ∧ s'.chip.lkp.running = (s.chip.at t).pairsEnd.lkp.running ++ [(k.val, ⟨e.cls, e.work, t, t, some d⟩)])
      ∧ s'.chip.fld (LKP_HIST__COUNT e.cls (if t - e.submitted < 128 then 0 else min 15 (Nat.log2 (t - e.submitted) - 6)))
          = satAdd (LKP_HIST__COUNT e.cls (if t - e.submitted < 128 then 0 else min 15 (Nat.log2 (t - e.submitted) - 6)))
            (s.chip.fld (LKP_HIST__COUNT e.cls (if t - e.submitted < 128 then 0 else min 15 (Nat.log2 (t - e.submitted) - 6)))) 1) ∧
    (s.chip.ready t → ∀ k : Fin 70, (∀ i ≤ k.val, workerClass i = workerClass k.val →
        ((s.chip.at t).pairsEnd.dispatchOrder (workerClass k.val)).any (fun x => (s.chip.at t).pairsEnd.entryLate x
          || (!(s.chip.at t).pairsEnd.gated x.cls && (s.chip.at t).pairsEnd.kindOk i x)) = false) →
      ∃ s', exec (.dispatch t k) s = .next s' ∧ s'.chip.now = t
      ∧ s'.chip.lkp.running = (s.chip.at t).pairsEnd.lkp.running) ∧
    (s.chip.ready t → ∀ (k : Fin 70) (e : Entry), s.chip.dispatchOrder (workerClass k.val) = [e] →
      ((s.chip.at t).workersOf (workerClass k.val) k.val).any (s.chip.at t).pairsEnd.busyOn = false →
      (match e.work with
       | .job _ => workerClass k.val = 0
       | .chain _ => workerClass k.val = 1
       | _ => workerClass k.val = 2) →
      (s.chip.at t).pairsEnd.entryLate e = true →
      ∃ s', exec (.dispatch t k) s = .next s' ∧ s'.chip.now = t
      ∧ s'.chip.lkp.running = (s.chip.at t).pairsEnd.lkp.running
      ∧ (workerClass k.val ≠ 0 → s'.chip.dispatchOrder (workerClass k.val) = [])
      ∧ s'.chip.fld (LKP_CLS_CNT__DROP_CNT e.cls) = satAdd (LKP_CLS_CNT__DROP_CNT e.cls) (s.chip.fld (LKP_CLS_CNT__DROP_CNT e.cls)) 1)

/-- JOB_COMPLETE, JOB_DEADLINE and QP_ITERATION_END. -/
def Obligations.BasinJobsEndWithTheirStatus : Prop :=
  ∀ (s : State) (t : Nat) (n : Fin 256),
    (∀ (f : JobFault), s.chip.ready t → s.chip.job n.val = none →
      ∃ s', exec (.jobComplete t n f) s = .next s' ∧ s'.chip.now = t ∧ s'.chip.bsn.slots = s.chip.bsn.slots) ∧
    (∀ (f : JobFault) (j : Job), s.chip.ready t → s.chip.job n.val = some j →
      (j.running = false ∨ (jKind j.d = 5 ∧ f ≠ .uncorrectable ∧ j.fail = none
        ∧ (j.facDone = true ∨ (s.chip.qpFac j).finite = true))) →
      ∃ s', exec (.jobComplete t n f) s = .next s' ∧ s'.chip.now = t ∧ s'.chip.bsn.slots = s.chip.bsn.slots) ∧
    (∀ j : Job, s.chip.ready t → s.chip.job n.val = some j → j.running = true →
      ∃ s', exec (.jobComplete t n .uncorrectable) s = .next s' ∧ s'.chip.now = t
        ∧ s.chip.ended s'.chip n.val rsMEMERR false (List.replicate (jLen j.d) 0)) ∧
    (∀ (f : JobFault) (j : Job), s.chip.ready t → s.chip.job n.val = some j → j.running = true → f ≠ .uncorrectable →
      jKind j.d ≤ 4 →
      ∃ s', exec (.jobComplete t n f) s = .next s' ∧ s'.chip.now = t
        ∧ (match s.chip.directJob j.d with
           | .bad r _ _ _ => s.chip.ended s'.chip n.val r false (List.replicate (jLen j.d) 0)
           | .done data _ nreg _ => s.chip.ended s'.chip n.val (okOrReg nreg) true (data.map w32))
        ∧ (s.chip.plan.ik = [] → s.chip.plan.phase = .none →
            s'.chip.mem = (match (s.chip.directJob j.d).factor with
              | some x => (s.chip.facWrite (jF j.d) (jM j.d) (jN j.d) x).mem
              | none => s.chip.mem))) ∧
    (∀ (f : JobFault) (j : Job), s.chip.ready t → s.chip.job n.val = some j → j.running = true → f ≠ .uncorrectable →
      jKind j.d = 6 →
      ∃ s', exec (.jobComplete t n f) s = .next s' ∧ s'.chip.now = t
        ∧ (match s.chip.reseedSolve n.val j.slotA j.slotB j.xh j.r with
           | none => s.chip.ended s'.chip n.val rsBADIN false (List.replicate (jLen j.d) 0)
           | some r => if allFinite r.1 && r.2.finite then
                s.chip.ended s'.chip n.val (okOrReg r.2.nreg) true (r.1.map (fun v => w32i (toQ15 v).1))
              else s.chip.ended s'.chip n.val rsOVERFLOW false (List.replicate (jLen j.d) 0))) ∧
    (∀ (f : JobFault) (j : Job), s.chip.ready t → s.chip.job n.val = some j → j.running = true → f ≠ .uncorrectable →
      jKind j.d = 7 →
      ∃ s', exec (.jobComplete t n f) s = .next s' ∧ s'.chip.now = t
        ∧ (testMask j.d f = 0 → s.chip.ended s'.chip n.val rsOK true [0]
            ∧ s'.chip.reg BSN_LANE_FAIL_LO = s.chip.reg BSN_LANE_FAIL_LO
            ∧ s'.chip.reg BSN_LANE_FAIL_HI = s.chip.reg BSN_LANE_FAIL_HI)
        ∧ (testMask j.d f ≠ 0 →
            (∃ lane : Nat, (testMask j.d f).testBit lane = true ∧ (∀ k < lane, (testMask j.d f).testBit k = false)
              ∧ s.chip.ended s'.chip n.val rsTESTFAIL false [w32 (2 ^ 31 + lane)])
            ∧ s'.chip.reg BSN_LANE_FAIL_LO = s.chip.reg BSN_LANE_FAIL_LO ||| testMask j.d f % 2 ^ 32
            ∧ s'.chip.reg BSN_LANE_FAIL_HI = s.chip.reg BSN_LANE_FAIL_HI ||| testMask j.d f / 2 ^ 32 % 2 ^ 32)
        ∧ s'.chip.bsn.arrayFail = (s.chip.bsn.arrayFail || decide (testMask j.d f ≠ 0 ∧ jKp j.d = 0xFFFF))) ∧
    (∀ (f : JobFault) (j : Job) (r : Nat), s.chip.ready t → s.chip.job n.val = some j → j.running = true →
      f ≠ .uncorrectable → jKind j.d = 5 → j.fail = some r → r < 16 →
      ∃ s', exec (.jobComplete t n f) s = .next s' ∧ s'.chip.now = t
        ∧ s.chip.ended s'.chip n.val r false (List.replicate (jLen j.d) 0)) ∧
    (∀ (f : JobFault) (j : Job), s.chip.ready t → s.chip.job n.val = some j → j.running = true → f ≠ .uncorrectable →
      jKind j.d = 5 → j.fail = none → j.facDone = false → (s.chip.qpFac j).finite = false →
      ∃ s', exec (.jobComplete t n f) s = .next s' ∧ s'.chip.now = t
        ∧ s.chip.ended s'.chip n.val rsOVERFLOW false (List.replicate (jLen j.d) 0)
        ∧ (s.chip.plan.ik = [] → s.chip.plan.phase = .none → s'.chip.mem = s.chip.mem)) ∧
    (s.chip.boot.phase = .run → ((s.chip.job n.val).map Job.running).getD false = false →
      ∃ s', exec (.jobDeadline n) s = .next s' ∧ s'.chip.now = s.chip.now ∧ s'.chip.bsn.slots = s.chip.bsn.slots) ∧
    (∀ (j : Job) (r : Nat), s.chip.boot.phase = .run → s.chip.job n.val = some j → j.running = true → j.fail = some r → r < 16 →
      ∃ s', exec (.jobDeadline n) s = .next s' ∧ s'.chip.now = max s.chip.now (s.chip.jobDeadline j)
        ∧ s.chip.ended s'.chip n.val r false (List.replicate (jLen j.d) 0)) ∧
    (∀ j : Job, s.chip.boot.phase = .run → s.chip.job n.val = some j → j.running = true → j.fail = none → 0 < j.iter →
      ∃ s', exec (.jobDeadline n) s = .next s' ∧ s'.chip.now = max s.chip.now (s.chip.jobDeadline j)
        ∧ s.chip.qpEnded s'.chip n.val rsDEADLINE j (natWords j.x) false) ∧
    (∀ j : Job, s.chip.boot.phase = .run → s.chip.job n.val = some j → j.running = true → j.fail = none → j.iter = 0 →
      jKind j.d ≠ 5 →
      ∃ s', exec (.jobDeadline n) s = .next s' ∧ s'.chip.now = max s.chip.now (s.chip.jobDeadline j)
        ∧ s.chip.ended s'.chip n.val rsSTALE (s.chip.rslot n.val).valid (s.chip.rslot n.val).data) ∧
    (∀ j : Job, s.chip.boot.phase = .run → s.chip.job n.val = some j → j.running = true → j.fail = none → j.iter = 0 →
      jKind j.d = 5 →
      ∃ s', exec (.jobDeadline n) s = .next s' ∧ s'.chip.now = max s.chip.now (s.chip.jobDeadline j)
        ∧ (if (s.chip.qpRead j.d).refac = false then s.chip.qpStartEnded s'.chip n.val j (s.chip.qpRead j.d) j.newFac
           else if (s.chip.qpFac j).finite = true ∧ s.chip.freeBool.2 = true then
             s.chip.qpStartEnded s'.chip n.val j ((s.chip.facWrite (jF j.d) (jN j.d) (jN j.d) (s.chip.qpFac j)).qpRead j.d) true
           else s.chip.ended s'.chip n.val rsSTALE (s.chip.rslot n.val).valid (s.chip.rslot n.val).data)) ∧
    (s.chip.ready t → (∀ j : Job, s.chip.job n.val = some j → j.running = false ∨ jKind j.d ≠ 5) →
      ∃ s', exec (.qpIterationEnd t n) s = .next s' ∧ s'.chip.now = t ∧ s'.chip.bsn.slots = s.chip.bsn.slots) ∧
    (∀ (j : Job) (r : Nat), s.chip.ready t → s.chip.job n.val = some j → j.running = true → jKind j.d = 5 →
      j.fail = some r → r < 16 →
      ∃ s', exec (.qpIterationEnd t n) s = .next s' ∧ s'.chip.now = t
        ∧ s.chip.ended s'.chip n.val r false (List.replicate (jLen j.d) 0)) ∧
    (∀ j : Job, s.chip.ready t → s.chip.job n.val = some j → j.running = true → jKind j.d = 5 → j.fail = none →
      j.facDone = false → (s.chip.qpFac j).finite = false →
      ∃ s', exec (.qpIterationEnd t n) s = .next s' ∧ s'.chip.now = t
        ∧ s.chip.ended s'.chip n.val rsOVERFLOW false (List.replicate (jLen j.d) 0)) ∧
    (∀ j : Job, s.chip.ready t → s.chip.job n.val = some j → j.running = true → jKind j.d = 5 → j.fail = none →
      j.facDone = false → (s.chip.qpFac j).finite = true →
      exec (.qpIterationEnd t n) s = exec (.qpIterationEnd t n) { s with chip := (s.chip.qpSetup n.val j).1 }
        ∧ ((s.chip.qpSetup n.val j).1.job n.val).map Job.facDone = some true) ∧
    (∀ j : Job, s.chip.ready t → s.chip.job n.val = some j → j.running = true → jKind j.d = 5 → j.fail = none →
      j.facDone = true → (s.chip.qpNext j).2.2.2.2 = false →
      ∃ s', exec (.qpIterationEnd t n) s = .next s' ∧ s'.chip.now = t
        ∧ s.chip.ended s'.chip n.val rsOVERFLOW false (List.replicate (jLen j.d) 0)) ∧
    (∀ j : Job, s.chip.ready t → s.chip.job n.val = some j → j.running = true → jKind j.d = 5 → j.fail = none →
      j.facDone = true → (s.chip.qpNext j).2.2.2.2 = true →
      (s.chip.qpConverged j = true ∨ jKp j.d ≤ j.iter + 1) →
      ∃ s', exec (.qpIterationEnd t n) s = .next s' ∧ s'.chip.now = t
        ∧ s.chip.qpEnded s'.chip n.val (okOrReg j.nreg) j (natWords ((s.chip.qpNext j).1.map w32)) (s.chip.qpConverged j)) ∧
    (∀ j : Job, s.chip.ready t → s.chip.job n.val = some j → j.running = true → jKind j.d = 5 → j.fail = none →
      j.facDone = true → (s.chip.qpNext j).2.2.2.2 = true → s.chip.qpConverged j = false → j.iter + 1 < jKp j.d →
      s.chip.jobDeadline j
        < t + (if j.iter = 0 then min (t - j.iterT) (qpCycles (jN j.d) (jM j.d)) else t - j.iterT) →
      ∃ s', exec (.qpIterationEnd t n) s = .next s' ∧ s'.chip.now = t
        ∧ s.chip.qpEnded s'.chip n.val rsDEADLINE j (natWords ((s.chip.qpNext j).1.map w32)) false) ∧
    (∀ j : Job, s.chip.ready t → s.chip.job n.val = some j → j.running = true → jKind j.d = 5 → j.fail = none →
      j.facDone = true → (s.chip.qpNext j).2.2.2.2 = true → s.chip.qpConverged j = false → j.iter + 1 < jKp j.d →
      t + (if j.iter = 0 then min (t - j.iterT) (qpCycles (jN j.d) (jM j.d)) else t - j.iterT) ≤ s.chip.jobDeadline j →
      ∃ s', exec (.qpIterationEnd t n) s = .next s' ∧ s'.chip.now = t
        ∧ s'.chip.bsn.slots = s.chip.bsn.slots
        ∧ s'.chip.job n.val = some { j with
            x := (s.chip.qpNext j).1.map w32, z := (s.chip.qpNext j).2.1.map w32, y := (s.chip.qpNext j).2.2.1.map w32
            resP := w32 (s.chip.qpNext j).2.2.2.1.1, resD := w32 (s.chip.qpNext j).2.2.2.1.2
            iter := j.iter + 1, iterT := t })

/-- BSN_SUBMIT, BSN_CANCEL, BSN_MEM_WRITE, BSN_RD_SEL_WRITE and BSN_RD_WIN_READ. -/
def Obligations.BasinCommandsAndWindowKeepSlots : Prop :=
  ∀ (s : State) (t : Nat) (ifc : Iface) (tag target : Word) (pl : List Word),
    (s.chip.takes t 0x0801 ifc tag target pl 0 →
      s.chip.descOk pl true = false →
      ∃ s', exec (.bsnSubmit t ifc tag target pl) s = .next s'
      ∧ Done s t 0x0801 ifc tag target pl stINVALID_ARG (s.chip.descBad pl true) [] s'
      ∧ s'.chip.bsn = s.chip.bsn
      ∧ s'.chip.mem = s.chip.mem
      ∧ s.chip.regsSame s'.chip) ∧
    (s.chip.takes t 0x0801 ifc tag target pl 0 →
      s.chip.descOk pl true = true →
      s.chip.opState = 0 →
      jKind pl ≠ 7 →
      ∃ s', exec (.bsnSubmit t ifc tag target pl) s = .next s'
      ∧ Done s t 0x0801 ifc tag target pl stWRONG_STATE 0 [] s'
      ∧ s'.chip.bsn = s.chip.bsn
      ∧ s'.chip.mem = s.chip.mem
      ∧ s.chip.regsSame s'.chip) ∧
    (s.chip.takes t 0x0801 ifc tag target pl 0 →
      s.chip.descOk pl true = true →
      (s.chip.opState ≠ 0 ∨ jKind pl = 7) →
      (s.chip.job (jRslot pl)).isSome = true →
      ∃ s', exec (.bsnSubmit t ifc tag target pl) s = .next s'
      ∧ Done s t 0x0801 ifc tag target pl stBUSY 0 [] s'
      ∧ s'.chip.bsn = s.chip.bsn
      ∧ s'.chip.mem = s.chip.mem
      ∧ s.chip.regsSame s'.chip) ∧
    (s.chip.takes t 0x0801 ifc tag target pl 0 →
      s.chip.descOk pl true = true →
      (s.chip.opState ≠ 0 ∨ jKind pl = 7) →
      s.chip.job (jRslot pl) = none →
      256 ≤ (s.chip.list 0 (jPrio pl)).length →
      ∃ s', exec (.bsnSubmit t ifc tag target pl) s = .next s'
      ∧ Done s t 0x0801 ifc tag target pl stBUSY 0 [] s'
      ∧ s'.chip.bsn = s.chip.bsn
      ∧ s'.chip.mem = s.chip.mem
      ∧ s'.chip.lkp = s.chip.lkp
      ∧ s.chip.regsBut s'.chip [LKP_DEPTH 0 (jPrio pl), LKP_INT_STATUS]) ∧
    (s.chip.takes t 0x0801 ifc tag target pl 0 →
      s.chip.descOk pl true = true →
      (s.chip.opState ≠ 0 ∨ jKind pl = 7) →
      s.chip.job (jRslot pl) = none →
      (s.chip.list 0 (jPrio pl)).length < 256 →
      ∃ s', exec (.bsnSubmit t ifc tag target pl) s = .next s'
      ∧ Done s t 0x0801 ifc tag target pl stOK 0 [] s'
      ∧ s'.chip.job (jRslot pl) = some (Job.new pl 0 t 0)
      ∧ s'.chip.list 0 (jPrio pl) = enlist ⟨jobClass 0 (jKind pl), jPrio pl, none, .job (jRslot pl), t,
          .host (s.chip.takeIntake 0x0801 ifc tag target pl).2.org.ifc⟩ (s.chip.list 0 (jPrio pl))
      ∧ s'.chip.slotHeld (jRslot pl) = true
      ∧ s'.chip.bsn.slots = s.chip.bsn.slots
      ∧ s'.chip.mem = s.chip.mem
      ∧ (∀ n : Nat, n ≠ jRslot pl → s'.chip.job n = s.chip.job n)
      ∧ s.chip.regsBut s'.chip [LKP_DEPTH 0 (jPrio pl), BSN_HELD ((jRslot pl - 128) / 32)]) ∧
    (s.chip.takes t 0x0803 ifc tag target pl 0 →
      s.chip.job target.toNat = none →
      ∃ s', exec (.bsnCancel t ifc tag target pl) s = .next s'
      ∧ Done s t 0x0803 ifc tag target pl stNOT_FOUND 0 [] s'
      ∧ s'.chip.bsn = s.chip.bsn
      ∧ s'.chip.mem = s.chip.mem
      ∧ s.chip.regsSame s'.chip) ∧
    (s.chip.takes t 0x0803 ifc tag target pl 0 →
      ∀ j, s.chip.job target.toNat = some j →
      j.running = false →
      j.owner ≠ 2 →
      ∃ s', exec (.bsnCancel t ifc tag target pl) s = .next s'
      ∧ Done s t 0x0803 ifc tag target pl stOK 0 [] s'
      ∧ s'.chip.job target.toNat = none
      ∧ (s'.chip.rslot target.toNat).rstat = rsABORTED
      ∧ (s'.chip.rslot target.toNat).data = (s.chip.rslot target.toNat).data
      ∧ (s'.chip.rslot target.toNat).valid = (s.chip.rslot target.toNat).valid
      ∧ (∀ p < 8, ∀ e ∈ s'.chip.list 0 p, e.work ≠ .job target.toNat)
      ∧ s'.chip.mem = s.chip.mem) ∧
    (s.chip.takes t 0x0803 ifc tag target pl 0 →
      ∀ j, s.chip.job target.toNat = some j →
      j.running = true →
      j.owner ≠ 2 →
      ∃ s', exec (.bsnCancel t ifc tag target pl) s = .next s'
      ∧ Done s t 0x0803 ifc tag target pl stOK 0 [] s'
      ∧ s'.chip.job target.toNat = none
      ∧ (j.fail.isSome = true → s.chip.ended s'.chip target.toNat rsABORTED false (List.replicate (jLen j.d) 0))
      ∧ (j.fail = none → j.iter = 0 → (s'.chip.rslot target.toNat).rstat = rsABORTED)
      ∧ (j.fail = none → 0 < j.iter → s.chip.qpEnded s'.chip target.toNat rsABORTED j (natWords j.x) false)
      ∧ (∀ e ∈ s'.chip.lkp.running, e.2.work ≠ .job target.toNat)) ∧
    (s.chip.takes t 0x0804 ifc tag target pl 0 →
      (wordAt pl 0 % 16 ≠ 0 ∨ 2 ^ 23 < wordAt pl 0 + 4 * (pl.drop 1).length) →
      ∃ s', exec (.bsnMemWrite t ifc tag target pl) s = .next s'
      ∧ Done s t 0x0804 ifc tag target pl stINVALID_ARG 0 [] s'
      ∧ s'.chip.bsn = s.chip.bsn
      ∧ s'.chip.mem = s.chip.mem
      ∧ s.chip.regsSame s'.chip) ∧
    (s.chip.takes t 0x0804 ifc tag target pl 0 →
      wordAt pl 0 % 16 = 0 →
      wordAt pl 0 + 4 * (pl.drop 1).length ≤ 2 ^ 23 →
      meets s.chip.jobParts (wordAt pl 0) (4 * (pl.drop 1).length) = true →
      ∃ s', exec (.bsnMemWrite t ifc tag target pl) s = .next s'
      ∧ Done s t 0x0804 ifc tag target pl stBUSY 0 [] s'
      ∧ s'.chip.bsn = s.chip.bsn
      ∧ s'.chip.mem = s.chip.mem
      ∧ s.chip.regsSame s'.chip) ∧
    (s.chip.takes t 0x0804 ifc tag target pl 0 →
      wordAt pl 0 % 16 = 0 →
      wordAt pl 0 + 4 * (pl.drop 1).length ≤ 2 ^ 23 →
      meets s.chip.jobParts (wordAt pl 0) (4 * (pl.drop 1).length) = false →
      ∃ s', exec (.bsnMemWrite t ifc tag target pl) s = .next s'
      ∧ Done s t 0x0804 ifc tag target pl stOK 0 [] s'
      ∧ (∀ i < (pl.drop 1).length, memWord 0 s'.chip.mem.arena (wordAt pl 0 + 4 * i) = pl.getD (1 + i) 0)
      ∧ (∀ x : Nat, (x < wordAt pl 0 ∨ wordAt pl 0 + 4 * (pl.drop 1).length ≤ x) → tabGet (fun _ => 0) s'.chip.mem.arena x = tabGet (fun _ => 0) s.chip.mem.arena x)
      ∧ { s'.chip.mem with arena := [] } = { s.chip.mem with arena := [] }
      ∧ s'.chip.bsn = s.chip.bsn
      ∧ s.chip.regsSame s'.chip) ∧
    (s.chip.ready t → s.chip.serves ifc = true → ∀ v : Word, ∃ s', exec (.bsnRdSelWrite t ifc v) s = .next s' ∧ s'.chip.now = t
      ∧ (s'.chip.snap ifc).slot = none
      ∧ s'.chip.fld BSN_RD_SEL__SLOT = bits v.toNat 7 0
      ∧ s.chip.regsBut s'.chip [BSN_RD_SEL]
      ∧ s'.chip.bsn = s.chip.bsn) ∧
    (s.chip.ready t → s.chip.serves ifc = true → ∀ w : Fin 1024, w.val = 0 →
      ∃ s', exec (.bsnRdWinRead t ifc w) s = .next s' ∧ s'.chip.now = t
      ∧ (s'.chip.snap ifc).slot = some (s.chip.fld BSN_RD_SEL__SLOT, s.chip.slotView (s.chip.fld BSN_RD_SEL__SLOT))
      ∧ s.chip.sent s'.chip [.read ifc ((s.chip.slotView (s.chip.fld BSN_RD_SEL__SLOT)).getD 0 0)]
      ∧ ((s.chip.flag BSN_RD_SEL__CONSUME = false ∨ s.chip.slotHeld (s.chip.fld BSN_RD_SEL__SLOT) = false
          ∨ (s.chip.job (s.chip.fld BSN_RD_SEL__SLOT)).isSome = true ∨ (s.chip.rslot (s.chip.fld BSN_RD_SEL__SLOT)).rstat = 0) →
          s'.chip.bsn = s.chip.bsn ∧ s.chip.regsSame s'.chip)
      ∧ (s.chip.flag BSN_RD_SEL__CONSUME = true → s.chip.slotHeld (s.chip.fld BSN_RD_SEL__SLOT) = true →
          s.chip.job (s.chip.fld BSN_RD_SEL__SLOT) = none → (s.chip.rslot (s.chip.fld BSN_RD_SEL__SLOT)).rstat ≠ 0 →
          s'.chip.slotHeld (s.chip.fld BSN_RD_SEL__SLOT) = false ∧ (s'.chip.rslot (s.chip.fld BSN_RD_SEL__SLOT)).data = [])) ∧
    (s.chip.ready t → s.chip.serves ifc = true → ∀ w : Fin 1024, ∀ x : Nat × List Word, (s.chip.snap ifc).slot = some x →
      w.val ≠ 0 →
      x.1 = s.chip.fld BSN_RD_SEL__SLOT →
      ∃ s', exec (.bsnRdWinRead t ifc w) s = .next s' ∧ s'.chip.now = t
      ∧ s.chip.sent s'.chip [.read ifc (x.2.getD w.val 0)]
      ∧ s'.chip.bsn = s.chip.bsn
      ∧ s.chip.regsSame s'.chip) ∧
    (s.chip.ready t → s.chip.serves ifc = true → ∀ w : Fin 1024, w.val ≠ 0 →
      ((s.chip.snap ifc).slot.map (·.1)) ≠ some (s.chip.fld BSN_RD_SEL__SLOT) →
      ∃ s', exec (.bsnRdWinRead t ifc w) s = .next s' ∧ s'.chip.now = t
      ∧ s.chip.sent s'.chip [.read ifc 0]
      ∧ s'.chip.flag BSN_STATUS__RD_ERR = true
      ∧ s'.chip.bsn = s.chip.bsn
      ∧ s.chip.regsBut s'.chip [BSN_STATUS])

/-- PLAN_BUILD_COMPLETE, TASK_SET and TASK_CLEAR. -/
def Obligations.TasksWaitForTheNextBuild : Prop :=
  ∀ (s : State) (t : Nat) (ifc : Iface) (tag target : Word) (pl : List Word),
    (s.chip.ready t →
      s.chip.plan.phase ≠ .building →
      ∃ s', exec (.planBuildComplete t) s = .next s' ∧ s'.chip.now = t
      ∧ s'.chip.plan = s.chip.plan
      ∧ s'.chip.bsn = s.chip.bsn
      ∧ s'.chip.mem = s.chip.mem
      ∧ s.chip.regsSame s'.chip) ∧
    (s.chip.ready t →
      s.chip.plan.phase = .building →
      ∃ s', exec (.planBuildComplete t) s = .next s' ∧ s'.chip.now = t
      ∧ s'.chip.plan.joints = ((List.range 16).filter (fun a => s.chip.plan.arms.testBit a)).flatMap (fun a =>
          (List.range (s.chip.armNj a)).map (s.chip.startState a))
      ∧ (s'.chip.plan.phase = .job ∨ (s'.chip.plan.phase = .ended ∧ s'.chip.plan.status = 3 ∧ s'.chip.plan.cause ∈ [4, 5, 6]))
      ∧ (s.chip.fld BSN_STATUS__MODE = 0 → s'.chip.plan.phase = .ended ∧ s'.chip.mem = s.chip.mem)
      ∧ (s'.chip.plan.phase = .job → (s'.chip.job 32).map (fun j => (j.owner, jKind j.d, j.submitted)) = some (1, 5, t))
      ∧ s'.chip.plan.tasks = s.chip.plan.tasks
      ∧ s'.chip.plan.pub = s.chip.plan.pub) ∧
    (s.chip.takes t 0x0403 ifc tag target pl 0 →
      s.chip.armEn target.toNat = false →
      ∃ s', exec (.taskSet t ifc tag target pl) s = .next s'
      ∧ Done s t 0x0403 ifc tag target pl stINVALID_ARG 0xFFFF [] s'
      ∧ s'.chip.plan = s.chip.plan
      ∧ s.chip.regsSame s'.chip) ∧
    (s.chip.takes t 0x0403 ifc tag target pl 0 →
      s.chip.armEn target.toNat = true →
      ∀ i, s.chip.taskBad target.toNat ((wordAt pl 0).testBit 0) ((pl.length - 1) / 12) pl = some i →
      ∃ s', exec (.taskSet t ifc tag target pl) s = .next s'
      ∧ Done s t 0x0403 ifc tag target pl stINVALID_ARG i [] s'
      ∧ s'.chip.plan = s.chip.plan
      ∧ s.chip.regsSame s'.chip) ∧
    (s.chip.takes t 0x0403 ifc tag target pl 0 →
      s.chip.armEn target.toNat = true →
      s.chip.taskBad target.toNat ((wordAt pl 0).testBit 0) ((pl.length - 1) / 12) pl = none →
      ((s.chip.ikOf target.toNat).isSome = true ∨ s.chip.longFree 0x0403 target.toNat = false) →
      ∃ s', exec (.taskSet t ifc tag target pl) s = .next s'
      ∧ Done s t 0x0403 ifc tag target pl stBUSY 0 [] s'
      ∧ s'.chip.plan = s.chip.plan
      ∧ s.chip.regsSame s'.chip) ∧
    (s.chip.takes t 0x0403 ifc tag target pl 0 →
      s.chip.armEn target.toNat = true →
      s.chip.taskBad target.toNat ((wordAt pl 0).testBit 0) ((pl.length - 1) / 12) pl = none →
      s.chip.ikOf target.toNat = none →
      s.chip.longFree 0x0403 target.toNat = true →
      ∃ s', exec (.taskSet t ifc tag target pl) s = .next s'
      ∧ Done s t 0x0403 ifc tag target pl stACCEPTED 0 [] s'
      ∧ s'.chip.plan.tasks = s.chip.plan.tasks
      ∧ ((∀ i < ((pl.length - 1) / 12), (wordAt ((pl.drop (1 + 12 * i)).take 12) 2).testBit 0 = false) →
          s'.chip.plan.ready = s.chip.plan.ready ++ [(target.toNat, some ⟨(wordAt pl 0).testBit 0, (List.range ((pl.length - 1) / 12)).map (fun i =>
            ⟨wpKey ((wordAt pl 0).testBit 0) ((pl.drop (1 + 12 * i)).take 12), (((pl.drop (1 + 12 * i)).take 12).drop 4).take (s.chip.armNj target.toNat),
              ((pl.drop (1 + 12 * i)).take 12).getD 3 0⟩)⟩)]
          ∧ s'.chip.hst.longs = s.chip.hst.longs ∧ s'.chip.plan.ik = s.chip.plan.ik)) ∧
    (s.chip.takes t 0x0404 ifc tag target pl 0 →
      ∃ s', exec (.taskClear t ifc tag target pl) s = .next s'
      ∧ Done s t 0x0404 ifc tag target pl stOK 0 [] s'
      ∧ s'.chip.plan = { s.chip.plan with ready := s.chip.plan.ready ++ [(target.toNat, none)] }
      ∧ s.chip.regsSame s'.chip)

/-- ABZ_EDGE, CHANNEL_SAMPLE, SERIAL_TRANSFER_START, SERIAL_READING_CHECK and SERIAL_TIMEOUT. -/
def Obligations.PositionInputsCountEdgesAndReadings : Prop :=
  ∀ (s : State) (t : Nat),
    (s.chip.ready t → ∀ (k : Fin 32) (a b z : Bool), ∃ s', exec (.abzEdge t k a b z) s = .next s' ∧ s'.chip.now = t
      ∧ s'.chip.abz k.val = (s.chip.at t).abzTake k.val a b z
      ∧ ((∀ u, (s.chip.abz k.val).tA = some u → u + s.chip.fld (POS_ABZ_CFG__FILT k.val) + 1 ≤ t) → (s'.chip.abz k.val).a = a)
      ∧ (∀ u, (s.chip.abz k.val).tA = some u → t < u + s.chip.fld (POS_ABZ_CFG__FILT k.val) + 1 → (s'.chip.abz k.val).a = (s.chip.abz k.val).a)
      ∧ (∀ ch < 256, ch ∉ s.chip.abzChans k.val → s.chip.chType ch ≠ 4 → s'.chip.chan ch = s.chip.chan ch)
      ∧ (∀ ch ∈ s.chip.abzChans k.val, (s'.chip.chan ch).pos = unsigned 48 ((s.chip.chan ch).pos + s.chip.invDir ch ((s.chip.abzSteps t k.val a b z).getD 0)))
      ∧ (∀ ch ∈ s.chip.abzChans k.val, (s'.chip.chan ch).cnt = (((s.chip.chan ch).cnt + s.chip.invDir ch ((s.chip.abzSteps t k.val a b z).getD 0)) % (s.chip.chMod ch : Int)).toNat)
      ∧ (∀ ch ∈ s.chip.abzChans k.val, (s'.chip.chan ch).rev = unsigned 32 ((s.chip.chan ch).rev + ((s.chip.chan ch).cnt + s.chip.invDir ch ((s.chip.abzSteps t k.val a b z).getD 0)) / (s.chip.chMod ch : Int)))
      ∧ (∀ ch ∈ s.chip.abzChans k.val, s.chip.abzSteps t k.val a b z = none → s'.chip.flag (POS_CH_STAT__QUAD_ERR ch) = true
          ∧ s'.chip.fld (POS_CH_ERR__ERR_CNT ch) = satAdd (POS_CH_ERR__ERR_CNT ch) (s.chip.fld (POS_CH_ERR__ERR_CNT ch)) 1)
      ∧ (∀ ch ∈ s.chip.abzChans k.val, (s'.chip.chan ch).idx = (if (s'.chip.abz k.val).z = true ∧ (s.chip.abz k.val).z = false
            ∧ (s.chip.flag (POS_CH_CFG__IDX_GATE ch) = false ∨ ((s'.chip.abz k.val).a = true ∧ (s'.chip.abz k.val).b = true))
          then some ((s'.chip.chan ch).cnt, (s'.chip.chan ch).pos, t) else (s.chip.chan ch).idx))) ∧
    (s.chip.ready t → ∀ ch : Fin 256, s.chip.chType ch.val = 1 →
      (s.chip.at t).phase = s.chip.fld (POS_CH_SMP__SMP_PHASE ch.val) →
      (s.chip.chan ch.val).availP ≠ some s.chip.poundNum →
      ∃ s', exec (.channelSample t ch) s = .next s' ∧ s'.chip.now = t
      ∧ (s'.chip.chan ch.val).availP = some s.chip.poundNum
      ∧ (s'.chip.chan ch.val).availT = t + 1 ∧ (s'.chip.chan ch.val).sampT = t
      ∧ (s'.chip.chan ch.val).pos = (s.chip.chan ch.val).pos
      ∧ s'.chip.reg (POS_CH_POS_LO ch.val) = (s.chip.chan ch.val).pos % 2 ^ 32
      ∧ s'.chip.reg (POS_CH_POS_HI ch.val) = (s.chip.chan ch.val).pos / 2 ^ 32 % 2 ^ 32
      ∧ s'.chip.reg (POS_CH_CNT ch.val) = (s.chip.chan ch.val).cnt % 2 ^ 32
      ∧ s'.chip.reg (POS_CH_REV ch.val) = (s.chip.chan ch.val).rev % 2 ^ 32
      ∧ s'.chip.fld (POS_CH_STAT__AGE ch.val) = 0
      ∧ (∀ g < 256, g ≠ ch.val → s'.chip.chan g = s.chip.chan g)
      ∧ s.chip.regsBut s'.chip [POS_CH_POS_LO ch.val, POS_CH_POS_HI ch.val, POS_CH_CNT ch.val, POS_CH_REV ch.val, POS_CH_STAT ch.val, POS_CH_SPD ch.val]) ∧
    (s.chip.ready t → ∀ ch : Fin 256, ¬ (s.chip.chType ch.val = 1 ∧ (s.chip.at t).phase = s.chip.fld (POS_CH_SMP__SMP_PHASE ch.val) ∧ (s.chip.chan ch.val).availP ≠ some s.chip.poundNum) →
      ∃ s', exec (.channelSample t ch) s = .next s' ∧ s'.chip.now = t
      ∧ s'.chip.pf = s.chip.pf
      ∧ s.chip.regsSame s'.chip) ∧
    (s.chip.ready t → ∀ p : Fin 16, ∀ (ch : Nat) (rest : List Nat), s.chip.serChans p.val = ch :: rest →
      s.chip.fld (POS_SER_CFG__PROTO p.val) ≠ 0 →
      (s.chip.at t).phase = s.chip.fld (POS_CH_SMP__SMP_PHASE ch) →
      s.chip.role ≠ 2 →
      ∃ s', exec (.serialTransferStart t p) s = .next s' ∧ s'.chip.now = t
      ∧ s'.chip.ser p.val = some t
      ∧ { s'.chip.pf with ser := [] } = { s.chip.pf with ser := [] }
      ∧ s.chip.regsSame s'.chip) ∧
    (s.chip.ready t → ∀ p : Fin 16, (s.chip.serChans p.val = [] ∨ s.chip.fld (POS_SER_CFG__PROTO p.val) = 0 ∨ s.chip.role = 2
        ∨ (∃ ch, (s.chip.serChans p.val).head? = some ch ∧ (s.chip.at t).phase ≠ s.chip.fld (POS_CH_SMP__SMP_PHASE ch))) →
      ∃ s', exec (.serialTransferStart t p) s = .next s' ∧ s'.chip.now = t
      ∧ s'.chip.pf = s.chip.pf
      ∧ s.chip.regsSame s'.chip) ∧
    (s.chip.ready t → ∀ (p : Fin 16) (r : SerialReading), s.chip.ser p.val = none →
      ∃ s', exec (.serialReadingCheck t p r) s = .next s' ∧ s'.chip.now = t
      ∧ s'.chip.pf = s.chip.pf
      ∧ s.chip.regsSame s'.chip) ∧
    (s.chip.ready t → ∀ (p : Fin 16) (r : SerialReading), ∀ t0 : Nat, s.chip.ser p.val = some t0 →
      ∃ s', exec (.serialReadingCheck t p r) s = .next s' ∧ s'.chip.now = t
      ∧ s'.chip.ser p.val = none
      ∧ (∀ ch < 256, ch ∉ s.chip.serChans p.val → s.chip.chType ch ≠ 4 → s'.chip.chan ch = s.chip.chan ch)
      ∧ (∀ ch ∈ s.chip.serChans p.val, ¬ (s.chip.serGood p.val r = true ∧ t ≤ s.chip.serLimit p.val t0) → s'.chip.flag (POS_CH_STAT__SER_ERR ch) = true ∧ (s'.chip.chan ch).pos = (s.chip.chan ch).pos
          ∧ s'.chip.fld (POS_CH_ERR__ERR_CNT ch) = satAdd (POS_CH_ERR__ERR_CNT ch) (s.chip.fld (POS_CH_ERR__ERR_CNT ch)) 1
          ∧ (s'.chip.chan ch).availT = s.chip.serLimit p.val t0 ∧ (s'.chip.chan ch).sampT = t0
          ∧ s'.chip.fld (POS_CH_STAT__AGE ch) = min (s.chip.fld (POS_CH_STAT__AGE ch) + 1) 255)
      ∧ (∀ ch ∈ s.chip.serChans p.val, (s.chip.serGood p.val r = true ∧ t ≤ s.chip.serLimit p.val t0) → (s.chip.chan ch).started = true → s.chip.serJumps p.val ch r = true → s'.chip.flag (POS_CH_STAT__SER_JUMP ch) = true ∧ (s'.chip.chan ch).pos = (s.chip.chan ch).pos
          ∧ s'.chip.fld (POS_CH_ERR__ERR_CNT ch) = satAdd (POS_CH_ERR__ERR_CNT ch) (s.chip.fld (POS_CH_ERR__ERR_CNT ch)) 1
          ∧ (s'.chip.chan ch).availT = s.chip.serLimit p.val t0 ∧ (s'.chip.chan ch).sampT = t0
          ∧ s'.chip.fld (POS_CH_STAT__AGE ch) = min (s.chip.fld (POS_CH_STAT__AGE ch) + 1) 255)
      ∧ (∀ ch ∈ s.chip.serChans p.val, (s.chip.serGood p.val r = true ∧ t ≤ s.chip.serLimit p.val t0) → (s.chip.chan ch).started = true → s.chip.serJumps p.val ch r = false →
          (s'.chip.chan ch).pos = unsigned 48 ((s.chip.chan ch).pos + s.chip.invDir ch (s.chip.serDelta p.val ch r)) ∧ (s'.chip.chan ch).last = (s.chip.serValue p.val r)
          ∧ (s'.chip.chan ch).availP = some s.chip.poundNum ∧ (s'.chip.chan ch).availT = t
          ∧ (s'.chip.chan ch).sampT = t0 ∧ s'.chip.fld (POS_CH_STAT__AGE ch) = 0)
      ∧ (∀ ch ∈ s.chip.serChans p.val, (s.chip.serGood p.val r = true ∧ t ≤ s.chip.serLimit p.val t0) → (s.chip.chan ch).started = false →
          (s'.chip.chan ch).pos = unsigned 48 (s.chip.serValue p.val r : Nat) ∧ (s'.chip.chan ch).started = true ∧ (s'.chip.chan ch).last = (s.chip.serValue p.val r)
          ∧ (s'.chip.chan ch).net = (s.chip.chan ch).net ∧ s'.chip.fld (POS_CH_STAT__AGE ch) = 0)) ∧
    (s.chip.ready t → ∀ p : Fin 16, ∀ t0 : Nat, s.chip.ser p.val = some t0 →
      s.chip.serLimit p.val t0 ≤ t →
      ∃ s', exec (.serialTimeout t p) s = .next s' ∧ s'.chip.now = t
      ∧ s'.chip.ser p.val = none
      ∧ (∀ ch ∈ s.chip.serChans p.val, s'.chip.flag (POS_CH_STAT__SER_ERR ch) = true ∧ (s'.chip.chan ch).pos = (s.chip.chan ch).pos
          ∧ s'.chip.fld (POS_CH_ERR__ERR_CNT ch) = satAdd (POS_CH_ERR__ERR_CNT ch) (s.chip.fld (POS_CH_ERR__ERR_CNT ch)) 1
          ∧ (s'.chip.chan ch).availT = s.chip.serLimit p.val t0 ∧ (s'.chip.chan ch).sampT = t0
          ∧ s'.chip.fld (POS_CH_STAT__AGE ch) = min (s.chip.fld (POS_CH_STAT__AGE ch) + 1) 255)
      ∧ (∀ ch < 256, ch ∉ s.chip.serChans p.val → s'.chip.chan ch = s.chip.chan ch)) ∧
    (s.chip.ready t → ∀ p : Fin 16, ∀ t0 : Nat, s.chip.ser p.val = some t0 →
      t < s.chip.serLimit p.val t0 →
      ∃ s', exec (.serialTimeout t p) s = .next s' ∧ s'.chip.now = t
      ∧ s'.chip.pf = s.chip.pf
      ∧ s.chip.regsSame s'.chip) ∧
    (s.chip.ready t → ∀ p : Fin 16, s.chip.ser p.val = none →
      ∃ s', exec (.serialTimeout t p) s = .next s' ∧ s'.chip.now = t
      ∧ s'.chip.pf = s.chip.pf
      ∧ s.chip.regsSame s'.chip)

/-- INDEX_EVENT, IDX_ARM, POS_CH_CFG_WRITE, PD_OUTPUT_EDGE and POS_PD_CFG_WRITE. -/
def Obligations.IndexDividersAndChannelSetup : Prop :=
  ∀ (s : State) (t : Nat) (ifc : Iface),
    (s.chip.ready t → ∀ ch : Fin 256, (s.chip.chan ch.val).idx = none →
      ∃ s', exec (.indexEvent t ch) s = .next s' ∧ s'.chip.now = t
      ∧ s'.chip.pf = s.chip.pf
      ∧ s.chip.regsSame s'.chip) ∧
    (s.chip.ready t → ∀ ch : Fin 256, ∀ e : Nat × Nat × Nat, (s.chip.chan ch.val).idx = some e →
      ∃ s', exec (.indexEvent t ch) s = .next s' ∧ s'.chip.now = t
      ∧ (s'.chip.chan ch.val).idx = none
      ∧ s'.chip.fld (POS_CH_IDXLAT__LAST_C ch.val) = min e.1 32767
      ∧ s'.chip.fldI (POS_CH_IDXLAT__LAST_D ch.val) = clampI (-32767) 32767 (idxD e.1 (s.chip.chMod ch.val))
      ∧ ((s.chip.dryOrMoored = true ∧ ¬ (s.chip.flag POS_CHN_CFG__EN = true ∧ s.chip.fld POS_CHN_CFG__SRC = ch.val)) → (s.chip.fld (POS_CH_CFG__IDX_MODE ch.val) = 1 ∨ (s.chip.fld (POS_CH_CFG__IDX_MODE ch.val) = 2 ∧ s.chip.flag (POS_CH_STAT__ARMED ch.val) = true)) → (s'.chip.chan ch.val).pos = unsigned 48 (if s.chip.flag (POS_CH_CFG__IDX_ZERO ch.val) = true then modDiff 48 (s.chip.chan ch.val).pos e.2.1 else ((s.chip.chan ch.val).pos : Int) - (idxD e.1 (s.chip.chMod ch.val)))
          ∧ s'.chip.flag (POS_CH_STAT__IDX_RESET ch.val) = true ∧ (s.chip.fld (POS_CH_CFG__IDX_MODE ch.val) = 2 → s'.chip.flag (POS_CH_STAT__ARMED ch.val) = false))
      ∧ (¬ ((s.chip.dryOrMoored = true ∧ ¬ (s.chip.flag POS_CHN_CFG__EN = true ∧ s.chip.fld POS_CHN_CFG__SRC = ch.val)) ∧ (s.chip.fld (POS_CH_CFG__IDX_MODE ch.val) = 1 ∨ (s.chip.fld (POS_CH_CFG__IDX_MODE ch.val) = 2 ∧ s.chip.flag (POS_CH_STAT__ARMED ch.val) = true))) → (s'.chip.chan ch.val).pos = (s.chip.chan ch.val).pos)
      ∧ ((s.chip.fld (POS_CH_CFG__IDX_MODE ch.val) = 0 ∨ (s.chip.fld (POS_CH_CFG__IDX_MODE ch.val) ≠ 3 ∧ ¬ ((s.chip.dryOrMoored = true ∧ ¬ (s.chip.flag POS_CHN_CFG__EN = true ∧ s.chip.fld POS_CHN_CFG__SRC = ch.val)) ∧ (s.chip.fld (POS_CH_CFG__IDX_MODE ch.val) = 1 ∨ (s.chip.fld (POS_CH_CFG__IDX_MODE ch.val) = 2 ∧ s.chip.flag (POS_CH_STAT__ARMED ch.val) = true))))) → s.chip.fld (POS_CH_IDX__IDX_TOL ch.val) < ((idxD e.1 (s.chip.chMod ch.val))).natAbs →
          s'.chip.flag (POS_CH_STAT__INDEX_MISMATCH ch.val) = true
          ∧ s'.chip.fld (POS_CH_ERR__IDX_MIS_CNT ch.val) = satAdd (POS_CH_ERR__IDX_MIS_CNT ch.val) (s.chip.fld (POS_CH_ERR__IDX_MIS_CNT ch.val)) 1)
      ∧ (((idxD e.1 (s.chip.chMod ch.val))).natAbs ≤ s.chip.fld (POS_CH_IDX__IDX_TOL ch.val) → s'.chip.reg (POS_CH_ERR ch.val) = s.chip.reg (POS_CH_ERR ch.val))
      ∧ (∀ g < 256, g ≠ ch.val → s'.chip.chan g = s.chip.chan g)) ∧
    (s.chip.ready t → s.chip.serves ifc = true → ∀ ch : Fin 256, s.chip.dryOrMoored = false →
      ∃ s', exec (.idxArm t ifc ch) s = .next s' ∧ s'.chip.now = t
      ∧ s'.chip.flag POS_STATUS__CFG_REJ = true
      ∧ s'.chip.pf = s.chip.pf
      ∧ s.chip.regsBut s'.chip [POS_STATUS]) ∧
    (s.chip.ready t → s.chip.serves ifc = true → ∀ ch : Fin 256, s.chip.dryOrMoored = true →
      s.chip.fld (POS_CH_CFG__IDX_MODE ch.val) = 2 →
      ∃ s', exec (.idxArm t ifc ch) s = .next s' ∧ s'.chip.now = t
      ∧ s'.chip.flag (POS_CH_STAT__ARMED ch.val) = true
      ∧ s.chip.regsBut s'.chip [POS_CH_STAT ch.val]
      ∧ s'.chip.pf = s.chip.pf) ∧
    (s.chip.ready t → s.chip.serves ifc = true → ∀ ch : Fin 256, s.chip.dryOrMoored = true →
      s.chip.fld (POS_CH_CFG__IDX_MODE ch.val) ≠ 2 →
      ∃ s', exec (.idxArm t ifc ch) s = .next s' ∧ s'.chip.now = t
      ∧ s'.chip.pf = s.chip.pf
      ∧ s.chip.regsSame s'.chip) ∧
    (s.chip.ready t → s.chip.serves ifc = true → ∀ (off : Nat) (v : Word), ∀ i : Nat, inSet (POS_CH_CFG 0) 4 256 off = some i →
      (s.chip.dryOrMoored = false ∨ 4 < bits v.toNat 31 29 ∨ 6 < bits v.toNat 22 20) →
      ∃ s', exec (.posChCfgWrite t ifc off v) s = .next s' ∧ s'.chip.now = t
      ∧ s'.chip.flag POS_STATUS__CFG_REJ = true
      ∧ s'.chip.pf = s.chip.pf
      ∧ s.chip.regsBut s'.chip [POS_STATUS]) ∧
    (s.chip.ready t → s.chip.serves ifc = true → ∀ (off : Nat) (v : Word), ∀ i : Nat, inSet (POS_CH_CFG 0) 4 256 off = some i →
      s.chip.dryOrMoored = true → bits v.toNat 31 29 ≤ 4 → bits v.toNat 22 20 ≤ 6 →
      ∃ s', exec (.posChCfgWrite t ifc off v) s = .next s' ∧ s'.chip.now = t
      ∧ s'.chip.chType i = bits v.toNat 31 29
      ∧ (bits (s.chip.reg off) 31 24 ≠ bits v.toNat 31 24 → (s'.chip.chan i).pos = 0 ∧ (s'.chip.chan i).started = false ∧ s'.chip.fld (POS_CH_STAT__AGE i) = 255 ∧ s'.chip.reg (POS_CH_POS_LO i) = 0)
      ∧ (bits (s.chip.reg off) 31 24 = bits v.toNat 31 24 → s'.chip.pf = s.chip.pf ∧ s.chip.regsBut s'.chip [off])
      ∧ (∀ g < 256, g ≠ i → s'.chip.chan g = s.chip.chan g)
      ∧ s.chip.regsBut s'.chip (off :: [POS_CH_POS_LO i, POS_CH_POS_HI i, POS_CH_CNT i, POS_CH_REV i, POS_CH_SPD i, POS_CH_STAT i])) ∧
    (s.chip.ready t → s.chip.serves ifc = true → ∀ (off : Nat) (v : Word), ∀ i : Nat, inSet (POS_CH_MOD 0) 4 256 off = some i →
      (s.chip.dryOrMoored = false ∨ bits v.toNat 16 0 = 0 ∨ 65536 < bits v.toNat 16 0) →
      ∃ s', exec (.posChCfgWrite t ifc off v) s = .next s' ∧ s'.chip.now = t
      ∧ s'.chip.flag POS_STATUS__CFG_REJ = true
      ∧ s'.chip.pf = s.chip.pf
      ∧ s.chip.regsBut s'.chip [POS_STATUS]) ∧
    (s.chip.ready t → s.chip.serves ifc = true → ∀ (off : Nat) (v : Word), ∀ i : Nat, inSet (POS_CH_MOD 0) 4 256 off = some i →
      s.chip.dryOrMoored = true → 1 ≤ bits v.toNat 16 0 → bits v.toNat 16 0 ≤ 65536 →
      ∃ s', exec (.posChCfgWrite t ifc off v) s = .next s' ∧ s'.chip.now = t
      ∧ s'.chip.chMod i = bits v.toNat 16 0
      ∧ (s.chip.chMod i ≠ bits v.toNat 16 0 → (s'.chip.chan i).pos = 0 ∧ (s'.chip.chan i).started = false ∧ s'.chip.fld (POS_CH_STAT__AGE i) = 255 ∧ s'.chip.reg (POS_CH_POS_LO i) = 0)
      ∧ (s.chip.chMod i = bits v.toNat 16 0 → s'.chip.pf = s.chip.pf)
      ∧ s.chip.regsBut s'.chip (off :: [POS_CH_POS_LO i, POS_CH_POS_HI i, POS_CH_CNT i, POS_CH_REV i, POS_CH_SPD i, POS_CH_STAT i])) ∧
    (s.chip.ready t → s.chip.serves ifc = true → ∀ (off : Nat) (v : Word), ∀ i : Nat, inSet (POS_CH_SMP 0) 4 256 off = some i →
      (s.chip.dryOrMoored = false ∨ s.chip.P ≤ bits v.toNat 17 0) →
      ∃ s', exec (.posChCfgWrite t ifc off v) s = .next s' ∧ s'.chip.now = t
      ∧ s'.chip.flag POS_STATUS__CFG_REJ = true
      ∧ s'.chip.pf = s.chip.pf
      ∧ s.chip.regsBut s'.chip [POS_STATUS]) ∧
    (s.chip.ready t → s.chip.serves ifc = true → ∀ (off : Nat) (v : Word), ∀ i : Nat, inSet (POS_CH_SMP 0) 4 256 off = some i →
      s.chip.dryOrMoored = true → bits v.toNat 17 0 < s.chip.P →
      ∃ s', exec (.posChCfgWrite t ifc off v) s = .next s' ∧ s'.chip.now = t
      ∧ s'.chip.fld (POS_CH_SMP__SMP_PHASE i) = bits v.toNat 17 0
      ∧ s'.chip.pf = s.chip.pf
      ∧ s.chip.regsBut s'.chip [off]) ∧
    (s.chip.ready t → ∀ d : Fin 8, s.chip.flag (POS_PD_CFG__EN d.val) = true →
      (s.chip.pd d.val).b ≠ 0 →
      (∀ u ∈ (s.chip.pd d.val).lastT, u + max (s.chip.fld (POS_PD_CFG__GAP d.val)) 80 ≤ t) →
      ∃ s', exec (.pdOutputEdge t d) s = .next s' ∧ s'.chip.now = t
      ∧ s'.chip.pd d.val = ⟨(s.chip.pd d.val).r, (if 0 < (s.chip.pd d.val).b then (s.chip.pd d.val).b - 1 else (s.chip.pd d.val).b + 1),
          (if 0 < (s.chip.pd d.val).b then (s.chip.pd d.val).o + 1 else (s.chip.pd d.val).o + 2 ^ 48 - 1) % 2 ^ 48, some t⟩
      ∧ (s.chip.drives = true → s.chip.sent s'.chip [.pin pinPDA d.val (s'.chip.pdLines d.val).1, .pin pinPDB d.val (s'.chip.pdLines d.val).2.1,
          .pin pinPDZ d.val (s'.chip.pdLines d.val).2.2])
      ∧ (∀ g < 8, g ≠ d.val → s'.chip.pd g = s.chip.pd g)
      ∧ s.chip.regsSame s'.chip) ∧
    (s.chip.ready t → ∀ d : Fin 8, (s.chip.flag (POS_PD_CFG__EN d.val) = false ∨ (s.chip.pd d.val).b = 0
        ∨ ∃ u, (s.chip.pd d.val).lastT = some u ∧ t < u + max (s.chip.fld (POS_PD_CFG__GAP d.val)) 80) →
      ∃ s', exec (.pdOutputEdge t d) s = .next s' ∧ s'.chip.now = t
      ∧ s'.chip.pf = s.chip.pf
      ∧ s.chip.regsSame s'.chip) ∧
    (s.chip.ready t → s.chip.serves ifc = true → ∀ (d : Fin 8) (v : Word), (s.chip.dryOrMoored = false ∨ bits v.toNat 4 0 = 1 ∨ 24 < bits v.toNat 4 0) →
      ∃ s', exec (.posPdCfgWrite t ifc d v) s = .next s' ∧ s'.chip.now = t
      ∧ s'.chip.flag POS_STATUS__CFG_REJ = true
      ∧ s'.chip.pf = s.chip.pf
      ∧ s.chip.regsBut s'.chip [POS_STATUS]) ∧
    (s.chip.ready t → s.chip.serves ifc = true → ∀ (d : Fin 8) (v : Word), s.chip.dryOrMoored = true →
      bits v.toNat 4 0 ≠ 1 →
      bits v.toNat 4 0 ≤ 24 →
      ∃ s', exec (.posPdCfgWrite t ifc d v) s = .next s' ∧ s'.chip.now = t
      ∧ s'.chip.flag (POS_PD_CFG__EN d.val) = v.toNat.testBit 31
      ∧ s'.chip.fld (POS_PD_CFG__ZSH d.val) = bits v.toNat 4 0
      ∧ s.chip.regsBut s'.chip [POS_PD_CFG d.val]
      ∧ (s.chip.flag (POS_PD_CFG__EN d.val) = false → v.toNat.testBit 31 = true →
          (s'.chip.pd d.val).r = 0 ∧ (s'.chip.pd d.val).b = 0
          ∧ (s'.chip.pd d.val).o = (if s'.chip.flag (POS_PD_CFG__SRC_CHN d.val) = true then (s.chip.at t).tb5 / 2 ^ 16 else 0) % 2 ^ 48)
      ∧ ((s.chip.flag (POS_PD_CFG__EN d.val) = true ∨ v.toNat.testBit 31 = false) → s'.chip.pf = s.chip.pf))

/-- POLL_SEND, REPLY_WINDOW_CLOSE, REPLY_RECEIVED, MRG_RST and REFERENCE_RECEIVED. -/
def Obligations.PollsAreSentAndRepliesJudged : Prop :=
  ∀ (s : State) (t : Nat),
    (s.chip.ready t → ∀ (e : Fin 4096) (rx : Option (Nat × Option Nat)), s.chip.pollDue t e.val = false →
      (s.chip.port (s.chip.ePort e.val)).late = [] → (s.chip.port (s.chip.ePort e.val)).refLate = false →
      ∃ s', exec (.pollSend t e rx) s = .next s' ∧ s'.chip.now = t
      ∧ s'.chip.tow = s.chip.tow
      ∧ s.chip.regsSame s'.chip) ∧
    (s.chip.ready t → ∀ (e : Fin 4096) (rx : Option (Nat × Option Nat)), s.chip.pollDue t e.val = true →
      s.chip.guardCheck (s.chip.ePort e.val) e.val t rx = none →
      ∃ s', exec (.pollSend t e rx) s = .next s' ∧ s'.chip.now = t
      ∧ s'.chip.poll e.val = ⟨s.chip.poundNum, s.chip.pnd.start + s.chip.eOffset e.val, 0, .skipped, (s.chip.admst (8 * (s.chip.ePort e.val) + (s.chip.eBarge e.val)) == 2), false⟩
      ∧ s'.chip.port (s.chip.ePort e.val) = s.chip.port (s.chip.ePort e.val)
      ∧ s'.chip.fld (TOW_PORT_CNT1__SKIP_CNT (s.chip.ePort e.val)) = satAdd (TOW_PORT_CNT1__SKIP_CNT (s.chip.ePort e.val)) (s.chip.fld (TOW_PORT_CNT1__SKIP_CNT (s.chip.ePort e.val))) 1
      ∧ s.chip.regsBut s'.chip [TOW_PORT_CNT1 (s.chip.ePort e.val)]) ∧
    (s.chip.ready t → ∀ (e : Fin 4096) (rx : Option (Nat × Option Nat)), ∀ d : Nat, s.chip.guardCheck (s.chip.ePort e.val) e.val t rx = some d →
      s.chip.pollDue t e.val = true →
      ∃ s', exec (.pollSend t e rx) s = .next s' ∧ s'.chip.now = t
      ∧ s'.chip.poll e.val = ⟨s.chip.poundNum, t + d, (s.chip.port (s.chip.ePort e.val)).fid, .waiting, (s.chip.admst (8 * (s.chip.ePort e.val) + (s.chip.eBarge e.val)) == 2), false⟩
      ∧ (s'.chip.port (s.chip.ePort e.val)).fid = ((s.chip.port (s.chip.ePort e.val)).fid + 1) % 2 ^ 16
      ∧ (s'.chip.port (s.chip.ePort e.val)).txFree = t + d + 320
      ∧ s.chip.sent s'.chip [.tow (s.chip.ePort e.val) (t + d) (s.chip.pollFrame e.val ++ [crc32w (s.chip.pollFrame e.val)])]
      ∧ s'.chip.fld (TOW_PORT_CNT1__SLIP_CNT (s.chip.ePort e.val)) = (if d = 0 then s.chip.fld (TOW_PORT_CNT1__SLIP_CNT (s.chip.ePort e.val))
          else satAdd (TOW_PORT_CNT1__SLIP_CNT (s.chip.ePort e.val)) (s.chip.fld (TOW_PORT_CNT1__SLIP_CNT (s.chip.ePort e.val))) 1)
      ∧ s.chip.regsBut s'.chip [TOW_PORT_CNT1 (s.chip.ePort e.val)]) ∧
    (s.chip.ready t → ∀ (e : Fin 4096) (rx : Option (Nat × Option Nat)) (d : Nat), s.chip.guardCheck (s.chip.ePort e.val) e.val t rx = some d →
      (s.chip.at t).lateOf (s.chip.ePort e.val) ≠ [] → ((s.chip.at t).lateOf (s.chip.ePort e.val)).head? = some e.val →
      (s.chip.port (s.chip.ePort e.val)).txFree = t → s.chip.towMaster = true → s.chip.flag (TOW_PORT_CFG__EN (s.chip.ePort e.val)) = true →
      s.chip.eEn e.val = true → s.chip.eMgmt e.val = false →
      ∃ s', exec (.pollSend t e rx) s = .next s' ∧ s'.chip.now = t
      ∧ s'.chip.poll e.val = ⟨(s.chip.poundNum + (2 ^ 32 - 1)) % 2 ^ 32, t + d, (s.chip.port (s.chip.ePort e.val)).fid, .waiting,
          (s.chip.admst (8 * (s.chip.ePort e.val) + (s.chip.eBarge e.val)) == 2), false⟩
      ∧ s.chip.sent s'.chip [.tow (s.chip.ePort e.val) (t + d) (s.chip.pollFrame e.val ++ [crc32w (s.chip.pollFrame e.val)])]) ∧
    (s.chip.ready t → ∀ e : Fin 4096, (s.chip.poll e.val).judged = .waiting →
      (s.chip.poll e.val).t + s.chip.eClose e.val ≤ t →
      ∃ s', exec (.replyWindowClose t e) s = .next s' ∧ s'.chip.now = t
      ∧ s'.chip.poll e.val = { s.chip.poll e.val with judged := .missing }
      ∧ s'.chip.fld (TOW_PORT_CNT0__MISS_CNT (s.chip.ePort e.val)) = satAdd (TOW_PORT_CNT0__MISS_CNT (s.chip.ePort e.val)) (s.chip.fld (TOW_PORT_CNT0__MISS_CNT (s.chip.ePort e.val))) 1
      ∧ ((s.chip.poll e.val).probe = true → s'.chip.fld (TOW_BSTAT__GOODRUN (8 * (s.chip.ePort e.val) + (s.chip.eBarge e.val))) = 0)) ∧
    (s.chip.ready t → ∀ e : Fin 4096, ¬ ((s.chip.poll e.val).judged = .waiting ∧ (s.chip.poll e.val).t + s.chip.eClose e.val ≤ t) →
      ∃ s', exec (.replyWindowClose t e) s = .next s' ∧ s'.chip.now = t
      ∧ s'.chip.tow.polls = s.chip.tow.polls
      ∧ s'.chip.reg (TOW_PORT_CNT0 (s.chip.ePort e.val)) = s.chip.reg (TOW_PORT_CNT0 (s.chip.ePort e.val))) ∧
    (s.chip.ready t → ∀ (p : Fin 64) (f : TowFrame), s.chip.rxUp p.val = false →
      ∃ s', exec (.replyReceived t p f) s = .next s' ∧ s'.chip.now = t
      ∧ s'.chip.tow = s.chip.tow
      ∧ s.chip.regsSame s'.chip) ∧
    (s.chip.ready t → ∀ (p : Fin 64) (f : TowFrame), s.chip.rxUp p.val = true →
      (f.valid 2 false = false ∨ (f.fm = false ∧ s.chip.matchPoll p.val f = none)) →
      ∃ s', exec (.replyReceived t p f) s = .next s' ∧ s'.chip.now = t
      ∧ s'.chip.tow = s.chip.tow
      ∧ s'.chip.fld (TOW_PORT_CNT2__RX_DISC p.val) = satAdd (TOW_PORT_CNT2__RX_DISC p.val) (s.chip.fld (TOW_PORT_CNT2__RX_DISC p.val)) 1
      ∧ s.chip.regsBut s'.chip [TOW_PORT_CNT2 p.val]) ∧
    (s.chip.ready t → ∀ (p : Fin 64) (f : TowFrame), s.chip.rxUp p.val = true →
      f.valid 2 false = true →
      f.fm = true →
      ∃ s', exec (.replyReceived t p f) s = .next s' ∧ s'.chip.now = t
      ∧ (s.chip.flag TOW_STATUS__YIELDED = true → s'.chip.tow = s.chip.tow)
      ∧ (s.chip.flag TOW_STATUS__YIELDED = false → s'.chip.flag TOW_INT_STATUS__YIELD = true
          ∧ (∀ q < 64, t + 32 < (s.chip.port q).txFree → .towAbort q t ∈ s'.chip.out ∧ (s'.chip.port q).txFree = t + 48))
      ∧ { s'.chip.tow with ports := [] } = { s.chip.tow with ports := [] }
      ∧ s'.chip.fld (TOW_PORT_CNT2__RX_DISC p.val) = satAdd (TOW_PORT_CNT2__RX_DISC p.val) (s.chip.fld (TOW_PORT_CNT2__RX_DISC p.val)) 1
      ∧ s'.chip.flag TOW_STATUS__FOREIGN_SEEN = true
      ∧ s'.chip.flag TOW_STATUS__YIELDED = true) ∧
    (s.chip.ready t → ∀ (p : Fin 64) (f : TowFrame), ∀ e : Nat, s.chip.matchPoll p.val f = some e →
      s.chip.rxUp p.val = true →
      f.valid 2 false = true →
      f.fm = false →
      ((s.chip.poll e).judged = .missing ∨ (s.chip.poll e).t + s.chip.eClose e < t) →
      ∃ s', exec (.replyReceived t p f) s = .next s' ∧ s'.chip.now = t
      ∧ (s'.chip.poll e).judged = .late
      ∧ s'.chip.fld (TOW_PORT_CNT0__LATE_CNT p.val) = satAdd (TOW_PORT_CNT0__LATE_CNT p.val) (s.chip.fld (TOW_PORT_CNT0__LATE_CNT p.val)) 1
      ∧ (s'.chip.port p.val).lastLate = some t
      ∧ (s'.chip.poll e).withdrawn = ((s.chip.port p.val).lastLate.any (fun l => decide (f.sof ≤ l + s.chip.fld (TOW_PORT_CFG__GUARD p.val) + 32)))) ∧
    (s.chip.ready t → ∀ (p : Fin 64) (f : TowFrame), ∀ e : Nat, s.chip.matchPoll p.val f = some e →
      s.chip.rxUp p.val = true →
      f.valid 2 false = true →
      f.fm = false →
      (s.chip.poll e).judged ≠ .missing →
      t ≤ (s.chip.poll e).t + s.chip.eClose e →
      t < (s.chip.poll e).t + s.chip.eOpen e →
      ∃ s', exec (.replyReceived t p f) s = .next s' ∧ s'.chip.now = t
      ∧ (s'.chip.poll e).judged = .early
      ∧ s'.chip.fld (TOW_PORT_CNT3__EARLY_CNT p.val) = satAdd (TOW_PORT_CNT3__EARLY_CNT p.val) (s.chip.fld (TOW_PORT_CNT3__EARLY_CNT p.val)) 1
      ∧ ((s.chip.poll e).probe = true → s'.chip.fld (TOW_BSTAT__GOODRUN (8 * p.val + s.chip.eBarge e)) = 0)) ∧
    (s.chip.ready t → ∀ (p : Fin 64) (f : TowFrame), ∀ e : Nat, s.chip.matchPoll p.val f = some e →
      s.chip.rxUp p.val = true →
      f.valid 2 false = true →
      f.fm = false →
      (s.chip.poll e).judged ≠ .missing →
      t ≤ (s.chip.poll e).t + s.chip.eClose e →
      (s.chip.poll e).t + s.chip.eOpen e ≤ t →
      ∃ s', exec (.replyReceived t p f) s = .next s' ∧ s'.chip.now = t
      ∧ (s'.chip.poll e).judged = .onTime
      ∧ s'.chip.fldI (TOW_PORT_MARGIN__MIN_MARGIN p.val) = min (s.chip.fldI (TOW_PORT_MARGIN__MIN_MARGIN p.val)) ((((s.chip.poll e).t + s.chip.eClose e : Nat) : Int) - (t : Int))
      ∧ ((s.chip.poll e).probe = true → s'.chip.fld (TOW_BSTAT__GOODRUN (8 * p.val + s.chip.eBarge e)) = satAdd (TOW_BSTAT__GOODRUN (8 * p.val + s.chip.eBarge e)) (s.chip.fld (TOW_BSTAT__GOODRUN (8 * p.val + s.chip.eBarge e))) 1)) ∧
    (s.chip.ready t → ∀ (ifc : Iface) (p : Fin 64), s.chip.serves ifc = true → ∃ s', exec (.mrgRst t ifc p) s = .next s' ∧ s'.chip.now = t
      ∧ s'.chip.reg (TOW_PORT_MARGIN p.val) = 0x7FFF0000
      ∧ s.chip.regsBut s'.chip [TOW_PORT_MARGIN p.val]
      ∧ s'.chip.tow = s.chip.tow) ∧
    (s.chip.ready t → ∀ (p : Fin 64) (f : TowFrame), (s.chip.rxUp p.val = false ∨ (f.valid 0 true = true ∧ f.payload.length = 6 ∧ (wordAt f.payload 4).testBit 31 = true)) →
      ∃ s', exec (.referenceReceived t p f) s = .next s' ∧ s'.chip.now = t
      ∧ s'.chip.tow = s.chip.tow
      ∧ s.chip.regsSame s'.chip) ∧
    (s.chip.ready t → ∀ (p : Fin 64) (f : TowFrame), s.chip.rxUp p.val = true →
      (f.valid 0 true = false ∨ f.payload.length ≠ 6) →
      ∃ s', exec (.referenceReceived t p f) s = .next s' ∧ s'.chip.now = t
      ∧ s'.chip.tow = s.chip.tow
      ∧ s'.chip.fld (TOW_PORT_CNT2__RX_DISC p.val) = satAdd (TOW_PORT_CNT2__RX_DISC p.val) (s.chip.fld (TOW_PORT_CNT2__RX_DISC p.val)) 1
      ∧ s.chip.regsBut s'.chip [TOW_PORT_CNT2 p.val]) ∧
    (s.chip.ready t → ∀ (p : Fin 64) (f : TowFrame), s.chip.rxUp p.val = true →
      f.valid 0 true = true →
      f.payload.length = 6 →
      (wordAt f.payload 4).testBit 31 = false →
      s.chip.drives = false →
      ∃ s', exec (.referenceReceived t p f) s = .next s' ∧ s'.chip.now = t
      ∧ (s'.chip.port p.val).refAt = (if w32 (wordAt f.payload 3) = s.chip.aqu.epoch then some (t, w32 (wordAt f.payload 3))
          else (s.chip.port p.val).refAt)
      ∧ s.chip.regsSame s'.chip) ∧
    (s.chip.ready t → ∀ (p : Fin 64) (f : TowFrame), s.chip.rxUp p.val = true →
      f.valid 0 true = true →
      f.payload.length = 6 →
      (wordAt f.payload 4).testBit 31 = false →
      s.chip.drives = true →
      ∃ s', exec (.referenceReceived t p f) s = .next s' ∧ s'.chip.now = t
      ∧ (s'.chip.port p.val).refAt = some (t, w32 (wordAt f.payload 3))
      ∧ s'.chip.flag TOW_STATUS__FOREIGN_SEEN = true
      ∧ s'.chip.flag TOW_INT_STATUS__FOREIGN = true
      ∧ ((0 < modDiff 32 (wordAt f.payload 3) (s.chip.reg TOW_EPOCH) ∨ (wordAt f.payload 3 = s.chip.reg TOW_EPOCH ∧ f.rank ≤ s.chip.fld TOW_MASTER_CFG__RANK)) → s'.chip.flag TOW_STATUS__YIELDED = true ∧ s'.chip.reg (TOW_PORT_CNT3 p.val) = s.chip.reg (TOW_PORT_CNT3 p.val))
      ∧ (¬ (0 < modDiff 32 (wordAt f.payload 3) (s.chip.reg TOW_EPOCH) ∨ (wordAt f.payload 3 = s.chip.reg TOW_EPOCH ∧ f.rank ≤ s.chip.fld TOW_MASTER_CFG__RANK)) → s'.chip.flag TOW_STATUS__YIELDED = s.chip.flag TOW_STATUS__YIELDED ∧ s'.chip.fld (TOW_PORT_CNT3__FOREIGN_CNT p.val) = satAdd (TOW_PORT_CNT3__FOREIGN_CNT p.val) (s.chip.fld (TOW_PORT_CNT3__FOREIGN_CNT p.val)) 1)
      ∧ (wordAt f.payload 3 = s.chip.reg TOW_EPOCH → f.rank = s.chip.fld TOW_MASTER_CFG__RANK → s'.chip.flag TOW_STATUS__CONFLICT = true))

/-- RECEIVER_UP, RECEIVER_DOWN, TOW_PORT_CTL_BRINGUP, BRINGUP_STEP_LIMIT, MGMT_SEND, MGMT_RSP_RECEIVED, MGMT_WINDOW_CLOSE,
ENUM_WINDOW_END and TOW_MGMT. -/
def Obligations.BringUpAndManagementExchange : Prop :=
  ∀ (s : State) (t : Nat),
    (s.chip.ready t → ∀ p : Fin 64, ∃ s', exec (.receiverUp t p) s = .next s' ∧ s'.chip.now = t
      ∧ s'.chip.flag (TOW_PORT_STAT__RX_UP p.val) = true
      ∧ ((s.chip.pstate p.val = 1 ∨ s.chip.pstate p.val = 9) → s.chip.present p.val ≠ [] → s'.chip.pstate p.val = 2 ∧ (∀ b ∈ s.chip.present p.val, s'.chip.admst (8 * p.val + b) = 3))
      ∧ ((s.chip.pstate p.val = 1 ∨ s.chip.pstate p.val = 9) → s.chip.present p.val = [] → s'.chip.pstate p.val = 3)
      ∧ (s.chip.pstate p.val ≠ 1 → s.chip.pstate p.val ≠ 9 → s'.chip.tow = s.chip.tow ∧ s'.chip.pstate p.val = s.chip.pstate p.val
          ∧ s.chip.regsBut s'.chip [TOW_PORT_STAT p.val])) ∧
    (s.chip.ready t → ∀ (p : Fin 64) (n : Nat) (lost : Bool), s.chip.rxUp p.val = true → (4 ≤ n ∨ lost = true) →
      ∃ s', exec (.receiverDown t p ⟨n, lost⟩) s = .next s' ∧ s'.chip.now = t
      ∧ s'.chip.rxUp p.val = false
      ∧ s'.chip.fld (TOW_PORT_CNT2__CODE_ERR p.val) = satAdd (TOW_PORT_CNT2__CODE_ERR p.val) (s.chip.fld (TOW_PORT_CNT2__CODE_ERR p.val)) n
      ∧ s'.chip.fld (TOW_PORT_CNT3__LINK_DOWN p.val) = satAdd (TOW_PORT_CNT3__LINK_DOWN p.val) (s.chip.fld (TOW_PORT_CNT3__LINK_DOWN p.val)) 1
      ∧ s'.chip.pstate p.val = (if 2 ≤ s.chip.pstate p.val ∧ s.chip.pstate p.val ≤ 7 then 9 else s.chip.pstate p.val)
      ∧ (2 ≤ s.chip.pstate p.val → s.chip.pstate p.val ≤ 7 → (s'.chip.port p.val).todo = [] ∧ (s'.chip.port p.val).sent = [])
      ∧ s.chip.regsBut s'.chip [TOW_PORT_STAT p.val, TOW_PORT_CNT2 p.val, TOW_PORT_CNT3 p.val, TOW_INT_STATUS]) ∧
    (s.chip.ready t → ∀ (p : Fin 64) (n : Nat) (lost : Bool), (s.chip.rxUp p.val = false ∨ (n < 4 ∧ lost = false)) →
      ∃ s', exec (.receiverDown t p ⟨n, lost⟩) s = .next s' ∧ s'.chip.now = t
      ∧ s'.chip.fld (TOW_PORT_CNT2__CODE_ERR p.val) = satAdd (TOW_PORT_CNT2__CODE_ERR p.val) (s.chip.fld (TOW_PORT_CNT2__CODE_ERR p.val)) n
      ∧ s'.chip.tow = s.chip.tow
      ∧ s.chip.regsBut s'.chip [TOW_PORT_CNT2 p.val]) ∧
    (s.chip.ready t → ∀ (ifc : Iface) (p : Fin 64), s.chip.serves ifc = true → s.chip.opState ≠ 1 →
      ∃ s', exec (.towPortCtlBringup t ifc p) s = .next s' ∧ s'.chip.now = t
      ∧ s'.chip.flag TOW_STATUS__CFG_REJ = true
      ∧ s'.chip.tow = s.chip.tow
      ∧ s.chip.regsBut s'.chip [TOW_STATUS]) ∧
    (s.chip.ready t → ∀ (ifc : Iface) (p : Fin 64), s.chip.serves ifc = true → s.chip.opState = 1 →
      s.chip.flag (TOW_PORT_CFG__EN p.val) = false →
      ∃ s', exec (.towPortCtlBringup t ifc p) s = .next s' ∧ s'.chip.now = t
      ∧ s'.chip.tow = s.chip.tow
      ∧ s.chip.regsSame s'.chip) ∧
    (s.chip.ready t → ∀ (ifc : Iface) (p : Fin 64), s.chip.serves ifc = true → s.chip.opState = 1 →
      s.chip.flag (TOW_PORT_CFG__EN p.val) = true →
      ∃ s', exec (.towPortCtlBringup t ifc p) s = .next s' ∧ s'.chip.now = t
      ∧ (s.chip.rxUp p.val = true → s'.chip.pstate p.val = (if s.chip.present p.val = [] then 3 else 2))
      ∧ (s.chip.rxUp p.val = false → s'.chip.pstate p.val = 9 ∧ (s'.chip.port p.val).todo = [] ∧ (s'.chip.port p.val).sent = [])
      ∧ (∀ b ∈ s.chip.present p.val, s'.chip.admst (8 * p.val + b) = 3)
      ∧ (s'.chip.port p.val).queue = []) ∧
    (s.chip.ready t → ∀ p : Fin 64, ¬ (2 ≤ s.chip.pstate p.val ∧ s.chip.pstate p.val ≤ 7 ∧ (stepLimit (s.chip.pstate p.val) : Int) ≤ modDiff 32 s.chip.poundNum (s.chip.port p.val).stepP) →
      ∃ s', exec (.bringupStepLimit t p) s = .next s' ∧ s'.chip.now = t
      ∧ s'.chip.tow = s.chip.tow
      ∧ s.chip.regsSame s'.chip) ∧
    (s.chip.ready t → ∀ p : Fin 64, (2 ≤ s.chip.pstate p.val ∧ s.chip.pstate p.val ≤ 7 ∧ (stepLimit (s.chip.pstate p.val) : Int) ≤ modDiff 32 s.chip.poundNum (s.chip.port p.val).stepP) →
      ∃ s', exec (.bringupStepLimit t p) s = .next s' ∧ s'.chip.now = t
      ∧ s.chip.pstate p.val < s'.chip.pstate p.val
      ∧ s'.chip.pstate p.val ≤ 8
      ∧ (s.chip.pstate p.val = 7 → (s'.chip.port p.val).todo = [] ∧ (s'.chip.port p.val).sent = []
          ∧ (∀ b ∈ s.chip.present p.val, s'.chip.admst (8 * p.val + b) =
            if (s.chip.barge (8 * p.val + b)).good = true ∧ (s.chip.barge (8 * p.val + b)).synced = true then 1 else 2))) ∧
    (s.chip.ready t → ∀ (e : Fin 4096) (rx : Option (Nat × Option Nat)), s.chip.mgmtDue t e.val = false →
      (s.chip.port (s.chip.ePort e.val)).late = [] → (s.chip.port (s.chip.ePort e.val)).refLate = false →
      ∃ s', exec (.mgmtSend t e rx) s = .next s' ∧ s'.chip.now = t
      ∧ s'.chip.tow = s.chip.tow
      ∧ s.chip.regsSame s'.chip) ∧
    (s.chip.ready t → ∀ (e : Fin 4096) (rx : Option (Nat × Option Nat)), s.chip.mgmtDue t e.val = true →
      (s.chip.port (s.chip.ePort e.val)).queue = [] →
      ((s.chip.port (s.chip.ePort e.val)).sent ≠ [] ∨ s.chip.rerangeNext (s.chip.ePort e.val) = none) →
      ∃ s', exec (.mgmtSend t e rx) s = .next s' ∧ s'.chip.now = t
      ∧ s'.chip.tow = s.chip.tow
      ∧ s.chip.regsSame s'.chip) ∧
    (s.chip.ready t → ∀ (e : Fin 4096) (rx : Option (Nat × Option Nat)), ∀ (x : Exchange) (rest : List Exchange), (s.chip.port (s.chip.ePort e.val)).queue = x :: rest →
      s.chip.mgmtDue t e.val = true →
      s.chip.guardCheck (s.chip.ePort e.val) e.val t rx = none →
      ∃ s', exec (.mgmtSend t e rx) s = .next s' ∧ s'.chip.now = t
      ∧ (s'.chip.poll e.val).pound = s.chip.poundNum
      ∧ { s'.chip.tow with polls := [] } = { s.chip.tow with polls := [] }
      ∧ s'.chip.fld (TOW_PORT_CNT1__SKIP_CNT (s.chip.ePort e.val)) = satAdd (TOW_PORT_CNT1__SKIP_CNT (s.chip.ePort e.val)) (s.chip.fld (TOW_PORT_CNT1__SKIP_CNT (s.chip.ePort e.val))) 1
      ∧ s.chip.regsBut s'.chip [TOW_PORT_CNT1 (s.chip.ePort e.val)]) ∧
    (s.chip.ready t → ∀ (e : Fin 4096) (rx : Option (Nat × Option Nat)), ∀ (x : Exchange) (rest : List Exchange), (s.chip.port (s.chip.ePort e.val)).queue = x :: rest →
      s.chip.mgmtDue t e.val = true →
      (s.chip.guardCheck (s.chip.ePort e.val) e.val t rx).isSome = true →
      ∃ s', exec (.mgmtSend t e rx) s = .next s' ∧ s'.chip.now = t
      ∧ (s'.chip.poll e.val).pound = s.chip.poundNum
      ∧ (s'.chip.port (s.chip.ePort e.val)).queue = rest
      ∧ (s'.chip.port (s.chip.ePort e.val)).sent = (s.chip.port (s.chip.ePort e.val)).sent ++ [⟨{ x with sends := x.sends + 1 }, t + (s.chip.guardCheck (s.chip.ePort e.val) e.val t rx).getD 0,
          (if x.addressing = true then 0 else s.chip.eOpen e.val), (if x.addressing = true then x.ticks + mgmtWindow else s.chip.eClose e.val), (s.chip.port (s.chip.ePort e.val)).fid⟩]
      ∧ (s'.chip.port (s.chip.ePort e.val)).fid = ((s.chip.port (s.chip.ePort e.val)).fid + 1) % 2 ^ 16
      ∧ s.chip.regsBut s'.chip [TOW_PORT_CNT1 (s.chip.ePort e.val)]) ∧
    (s.chip.ready t → ∀ (e : Fin 4096) (rx : Option (Nat × Option Nat)), ∀ b : Nat, s.chip.rerangeNext (s.chip.ePort e.val) = some b →
      (s.chip.port (s.chip.ePort e.val)).queue = [] →
      (s.chip.port (s.chip.ePort e.val)).sent = [] →
      s.chip.mgmtDue t e.val = true →
      (s.chip.guardCheck (s.chip.ePort e.val) e.val t rx).isSome = true →
      ∃ s', exec (.mgmtSend t e rx) s = .next s' ∧ s'.chip.now = t
      ∧ (s'.chip.port (s.chip.ePort e.val)).queue = List.replicate 3 (Exchange.read b 0x0014 1 .rerange)
      ∧ (s'.chip.port (s.chip.ePort e.val)).turn = (b + 1) % 8
      ∧ (s'.chip.barge (8 * s.chip.ePort e.val + b)).rangedP = some s.chip.poundNum
      ∧ (s'.chip.barge (8 * s.chip.ePort e.val + b)).rtts = []
      ∧ (s'.chip.port (s.chip.ePort e.val)).sent.map (fun r => (r.x.barge, r.x.addr, r.x.write)) = [(b, 0x0014, false)]) ∧
    (s.chip.ready t → ∀ (p : Fin 64) (f : TowFrame), s.chip.rxUp p.val = false →
      ∃ s', exec (.mgmtRspReceived t p f) s = .next s' ∧ s'.chip.now = t
      ∧ s'.chip.tow = s.chip.tow
      ∧ s.chip.regsSame s'.chip) ∧
    (s.chip.ready t → ∀ (p : Fin 64) (f : TowFrame), s.chip.rxUp p.val = true →
      (f.valid 5 false = false ∨ s.chip.mgmtAsked t p.val f = none) →
      ∃ s', exec (.mgmtRspReceived t p f) s = .next s' ∧ s'.chip.now = t
      ∧ s'.chip.tow = s.chip.tow
      ∧ s'.chip.fld (TOW_PORT_CNT2__RX_DISC p.val) = satAdd (TOW_PORT_CNT2__RX_DISC p.val) (s.chip.fld (TOW_PORT_CNT2__RX_DISC p.val)) 1
      ∧ s.chip.regsBut s'.chip [TOW_PORT_CNT2 p.val]) ∧
    (s.chip.ready t → ∀ (p : Fin 64) (f : TowFrame), ∀ r : Sent, s.chip.mgmtAsked t p.val f = some r →
      s.chip.rxUp p.val = true →
      f.valid 5 false = true →
      r.x.addressing = true →
      ∃ s', exec (.mgmtRspReceived t p f) s = .next s' ∧ s'.chip.now = t
      ∧ s'.chip.port p.val = { s.chip.port p.val with enums := (s.chip.port p.val).enums + 1 }
      ∧ { s'.chip.tow with ports := [] } = { s.chip.tow with ports := [] }) ∧
    (s.chip.ready t → ∀ (p : Fin 64) (f : TowFrame), ∀ r : Sent, s.chip.mgmtAsked t p.val f = some r →
      s.chip.rxUp p.val = true →
      f.valid 5 false = true →
      r.x.addressing = false →
      s.chip.pstate p.val = 8 →
      ∃ s', exec (.mgmtRspReceived t p f) s = .next s' ∧ s'.chip.now = t
      ∧ (s'.chip.port p.val).sent = (s.chip.port p.val).sent.erase r
      ∧ (∀ k : Intake, r.x.why = .host k → s'.chip.tow.barges = s.chip.tow.barges ∧ (s'.chip.port p.val).queue = (s.chip.port p.val).queue)
      ∧ (∀ k : Intake, r.x.why = .host k → s'.chip.replyGone k.org (replyWords k.op k.tag stOK (bits (wordAt f.payload 0) 31 24) (if r.x.write = true then [] else f.payload.drop 2)))) ∧
    (s.chip.ready t → ∀ (p : Fin 64) (f : TowFrame), ∀ r : Sent, s.chip.mgmtAsked t p.val f = some r →
      s.chip.rxUp p.val = true →
      f.valid 5 false = true →
      r.x.addressing = false →
      s.chip.pstate p.val = 2 →
      r.x.why = .step →
      ∃ s', exec (.mgmtRspReceived t p f) s = .next s' ∧ s'.chip.now = t
      ∧ (s'.chip.barge (8 * p.val + r.x.barge)).answered = true) ∧
    (s.chip.ready t → ∀ p : Fin 64, (s.chip.port p.val).sent.find? (fun r => !(r.x.addressing && !r.x.bcast) && decide (r.t + r.closes ≤ t)) = none →
      ∃ s', exec (.mgmtWindowClose t p) s = .next s' ∧ s'.chip.now = t
      ∧ s'.chip.tow = s.chip.tow
      ∧ s.chip.regsSame s'.chip) ∧
    (s.chip.ready t → ∀ p : Fin 64, ∀ r : Sent, (s.chip.port p.val).sent.find? (fun r => !(r.x.addressing && !r.x.bcast) && decide (r.t + r.closes ≤ t)) = some r →
      r.x.why ≠ .step →
      r.x.bcast = false →
      r.x.sends < 3 →
      ∃ s', exec (.mgmtWindowClose t p) s = .next s' ∧ s'.chip.now = t
      ∧ (s'.chip.port p.val).sent = (s.chip.port p.val).sent.erase r
      ∧ (s'.chip.port p.val).queue = r.x :: (s.chip.port p.val).queue
      ∧ s.chip.regsSame s'.chip) ∧
    (s.chip.ready t → ∀ p : Fin 64, ∀ r : Sent, (s.chip.port p.val).sent.find? (fun r => !(r.x.addressing && !r.x.bcast) && decide (r.t + r.closes ≤ t)) = some r →
      3 ≤ r.x.sends →
      s.chip.pstate p.val = 8 →
      ∃ s', exec (.mgmtWindowClose t p) s = .next s' ∧ s'.chip.now = t
      ∧ (s'.chip.port p.val).sent = (s.chip.port p.val).sent.erase r
      ∧ (∀ k : Intake, r.x.why = .host k → s'.chip.replyGone k.org (replyWords k.op k.tag stTIMEOUT 0 []))) ∧
    (s.chip.ready t → ∀ (p : Fin 64) (n : Nat), s.chip.enumAsked t p.val n = none →
      ∃ s', exec (.enumWindowEnd t p n) s = .next s' ∧ s'.chip.now = t
      ∧ s'.chip.tow = s.chip.tow
      ∧ s.chip.regsSame s'.chip) ∧
    (s.chip.ready t → ∀ (p : Fin 64) (n : Nat) (r : Sent), s.chip.enumAsked t p.val n = some r →
      r.x.why = .step →
      s.chip.pstate p.val = 3 →
      ∃ s', exec (.enumWindowEnd t p n) s = .next s' ∧ s'.chip.now = t
      ∧ s'.chip.fld (TOW_PORT_STAT__EXTRA p.val) = min ((s.chip.port p.val).enums - (s.chip.silent p.val).length) 7
      ∧ (s.chip.towMaster = false →
          (s'.chip.port p.val).todo.take (min (s.chip.port p.val).enums (s.chip.silent p.val).length)
          = (List.range (min (s.chip.port p.val).enums (s.chip.silent p.val).length)).map (fun i =>
              assignX ((s.chip.port p.val).enums - 1 - i) ((s.chip.silent p.val).getD i 0) .step))) ∧
    (s.chip.ready t → ∀ (p : Fin 64) (n : Nat) (r : Sent), s.chip.enumAsked t p.val n = some r →
      (r.x.why = .readmit 3 ∨ r.x.why = .readmit 2) →
      ∃ s', exec (.enumWindowEnd t p n) s = .next s' ∧ s'.chip.now = t
      ∧ (s'.chip.port p.val).sent = (s.chip.port p.val).sent.erase r
      ∧ ((s.chip.port p.val).enums = 0 → r.x.sends < 3 → (s'.chip.port p.val).queue = r.x :: (s.chip.port p.val).queue)
      ∧ ((s.chip.port p.val).enums = 0 → 3 ≤ r.x.sends → (s'.chip.barge (8 * p.val + r.x.barge)).lost = false)
      ∧ ((s.chip.port p.val).enums ≠ 0 → s'.chip.fld (TOW_PORT_STAT__EXTRA p.val) = min ((s.chip.port p.val).enums - 1) 7
          ∧ (s'.chip.port p.val).queue
              = (s.chip.port p.val).queue ++ [assignX ((s.chip.port p.val).enums - 1) r.x.barge (.readmit 3)])) ∧
    (∀ (ifc : Iface) (tag target : Word) (pl : List Word), s.chip.takes t 0x0601 ifc tag target pl 0 →
      (1 < bits (wordAt pl 0) 31 30 ∨ bits (wordAt pl 0) 6 0 = 0 ∨ 64 < bits (wordAt pl 0) 6 0) →
      ∃ s', exec (.towMgmt t ifc tag target pl) s = .next s'
      ∧ Done s t 0x0601 ifc tag target pl stINVALID_ARG 0 [] s'
      ∧ s'.chip.tow = s.chip.tow
      ∧ s.chip.regsSame s'.chip) ∧
    (∀ (ifc : Iface) (tag target : Word) (pl : List Word), s.chip.takes t 0x0601 ifc tag target pl 0 →
      bits (wordAt pl 0) 31 30 ≤ 1 →
      1 ≤ bits (wordAt pl 0) 6 0 →
      bits (wordAt pl 0) 6 0 ≤ 64 →
      ((wordAt pl 1) % 4 ≠ 0 ∨ 65535 < wordAt pl 1) →
      ∃ s', exec (.towMgmt t ifc tag target pl) s = .next s'
      ∧ Done s t 0x0601 ifc tag target pl stINVALID_ARG 1 [] s'
      ∧ s'.chip.tow = s.chip.tow
      ∧ s.chip.regsSame s'.chip) ∧
    (∀ (ifc : Iface) (tag target : Word) (pl : List Word), s.chip.takes t 0x0601 ifc tag target pl 0 →
      bits (wordAt pl 0) 31 30 ≤ 1 →
      1 ≤ bits (wordAt pl 0) 6 0 →
      bits (wordAt pl 0) 6 0 ≤ 64 →
      (wordAt pl 1) % 4 = 0 →
      wordAt pl 1 ≤ 65535 →
      (s.chip.pstate target.toNat ≠ 8 ∨ s.chip.hasMgmt target.toNat = false) →
      ∃ s', exec (.towMgmt t ifc tag target pl) s = .next s'
      ∧ Done s t 0x0601 ifc tag target pl stWRONG_STATE 0 [] s'
      ∧ s'.chip.tow = s.chip.tow
      ∧ s.chip.regsSame s'.chip) ∧
    (∀ (ifc : Iface) (tag target : Word) (pl : List Word), s.chip.takes t 0x0601 ifc tag target pl 0 →
      bits (wordAt pl 0) 31 30 ≤ 1 →
      1 ≤ bits (wordAt pl 0) 6 0 →
      bits (wordAt pl 0) 6 0 ≤ 64 →
      (wordAt pl 1) % 4 = 0 →
      wordAt pl 1 ≤ 65535 →
      s.chip.pstate target.toNat = 8 → s.chip.hasMgmt target.toNat = true →
      ∃ s', exec (.towMgmt t ifc tag target pl) s = .next s' ∧ s'.chip.now = t ∧ s.chip.regsSame s'.chip
      ∧ (s'.chip.port target.toNat).queue = (s.chip.port target.toNat).queue ++ [if bits (wordAt pl 0) 31 30 = 1 then
          Exchange.wr (bits (wordAt pl 0) 22 20) (wordAt pl 1) (pl.drop 2) (.host (s.chip.takeIntake 0x0601 ifc tag target pl).2)
          else Exchange.read (bits (wordAt pl 0) 22 20) (wordAt pl 1) (bits (wordAt pl 0) 6 0) (.host (s.chip.takeIntake 0x0601 ifc tag target pl).2)])

/-- SLUICE_STAGE_END, CHAIN_DEADLINE, SLU_MEM_APPLY and SLU_CAP_CFG_WRITE. -/
def Obligations.StagesEndChainsAndCaptureRestarts : Prop :=
  ∀ (s : State) (t : Nat),
    (s.chip.ready t → ∀ (core : Fin 4) (ce : Nat) (ue : Bool), s.chip.coreChain core.val = none →
      ∃ s', exec (.sluiceStageEnd t core ⟨ce, ue⟩) s = .next s' ∧ s'.chip.now = t
      ∧ s'.chip.slu = s.chip.slu
      ∧ s'.chip.mem = s.chip.mem
      ∧ s.chip.regsSame s'.chip) ∧
    (s.chip.ready t → ∀ (core : Fin 4) (ce : Nat), ∀ e : Nat × ChainRun, s.chip.coreChain core.val = some e →
      ∃ s', exec (.sluiceStageEnd t core ⟨ce, true⟩) s = .next s' ∧ s'.chip.now = t
      ∧ s'.chip.run e.1 = none
      ∧ s'.chip.fld (SLU_ECC_CNT__CE_CNT) = (if ce = 0 then s.chip.fld (SLU_ECC_CNT__CE_CNT) else satAdd (SLU_ECC_CNT__CE_CNT) (s.chip.fld (SLU_ECC_CNT__CE_CNT)) ce)
      ∧ (ce ≠ 0 → s'.chip.flag SLU_INT_STATUS__ECC_CE = true)
      ∧ s'.chip.fld (SLU_CHST__RSTAT e.1) = chMEMERR
      ∧ s'.chip.fld (SLU_CHST__SEQ e.1) = (s.chip.fld (SLU_CHST__SEQ e.1) + 1) % 2 ^ 16
      ∧ s'.chip.fld (SLU_ECC_CNT__UE_CNT) = satAdd (SLU_ECC_CNT__UE_CNT) (s.chip.fld (SLU_ECC_CNT__UE_CNT)) 1
      ∧ s'.chip.flag SLU_INT_STATUS__CHAIN_DONE = true) ∧
    (s.chip.ready t → ∀ (core : Fin 4) (ce : Nat), ∀ e : Nat × ChainRun, s.chip.coreChain core.val = some e →
      e.2.stage + 1 < s.chip.chStages e.1 →
      ∃ s', exec (.sluiceStageEnd t core ⟨ce, false⟩) s = .next s' ∧ s'.chip.now = t
      ∧ s'.chip.fld (SLU_ECC_CNT__CE_CNT) = (if ce = 0 then s.chip.fld (SLU_ECC_CNT__CE_CNT) else satAdd (SLU_ECC_CNT__CE_CNT) (s.chip.fld (SLU_ECC_CNT__CE_CNT)) ce)
      ∧ (ce ≠ 0 → s'.chip.flag SLU_INT_STATUS__ECC_CE = true)
      ∧ (s'.chip.run e.1).map (fun x => (x.core, x.stage, x.running, x.deadline, x.trig)) = some (e.2.core, e.2.stage + 1, e.2.running, e.2.deadline, e.2.trig)
      ∧ s'.chip.fld (SLU_CORE_STAT__STAGE core.val) = (e.2.stage + 1) % 16
      ∧ s'.chip.reg (SLU_CHST e.1) = s.chip.reg (SLU_CHST e.1)
      ∧ s'.chip.lkp = s.chip.lkp) ∧
    (s.chip.ready t → ∀ (core : Fin 4) (ce : Nat), ∀ e : Nat × ChainRun, s.chip.coreChain core.val = some e →
      s.chip.chStages e.1 ≤ e.2.stage + 1 →
      ∃ s', exec (.sluiceStageEnd t core ⟨ce, false⟩) s = .next s' ∧ s'.chip.now = t
      ∧ s'.chip.run e.1 = none
      ∧ s'.chip.fld (SLU_ECC_CNT__CE_CNT) = (if ce = 0 then s.chip.fld (SLU_ECC_CNT__CE_CNT) else satAdd (SLU_ECC_CNT__CE_CNT) (s.chip.fld (SLU_ECC_CNT__CE_CNT)) ce)
      ∧ (ce ≠ 0 → s'.chip.flag SLU_INT_STATUS__ECC_CE = true)
      ∧ s'.chip.fld (SLU_CHST__RSTAT e.1) = chOK
      ∧ s'.chip.fld (SLU_CHST__SEQ e.1) = (s.chip.fld (SLU_CHST__SEQ e.1) + 1) % 2 ^ 16
      ∧ s'.chip.flag SLU_INT_STATUS__CHAIN_DONE = true
      ∧ (∀ w ∈ s'.chip.lkp.running, w.2.work ≠ .chain e.1)) ∧
    (s.chip.boot.phase = .run → ∀ core : Fin 4, ((s.chip.coreChain core.val).bind (fun e => e.2.deadline)) = none →
      ∃ s', exec (.chainDeadline core) s = .next s' ∧ s'.chip.now = s.chip.now
      ∧ s'.chip.slu = s.chip.slu
      ∧ s'.chip.mem = s.chip.mem
      ∧ s.chip.regsSame s'.chip) ∧
    (s.chip.boot.phase = .run → ∀ core : Fin 4, ∀ e : Nat × ChainRun, s.chip.coreChain core.val = some e → ∀ d : Nat, e.2.deadline = some d →
      ∃ s', exec (.chainDeadline core) s = .next s' ∧ s'.chip.now = max s.chip.now d
      ∧ s'.chip.run e.1 = none ∧ s'.chip.fld (SLU_CHST__RSTAT e.1) = chDEADLINE
      ∧ s'.chip.fld (SLU_CHST__SEQ e.1) = (s.chip.fld (SLU_CHST__SEQ e.1) + 1) % 2 ^ 16
      ∧ s'.chip.flag SLU_INT_STATUS__DEADLINE = true) ∧
    (s.chip.ready t → ∀ core : Fin 4, s.chip.coreChain core.val = none →
      ∃ s', exec (.sluMemApply t core) s = .next s' ∧ s'.chip.now = t
      ∧ { s'.chip.slu with cap := [] } = { s.chip.slu with cap := [], writes := (s.chip.slu.writes.filter (fun w => w.core != core.val)) }
      ∧ (∀ i < 4, i ≠ core.val → s'.chip.capUnit i = s.chip.capUnit i)
      ∧ (s'.chip.capUnit core.val).marks = (s.chip.capUnit core.val).marks.filter (fun e =>
          (s.chip.slu.writes.filter (fun w => w.core == core.val)).all (fun w =>
            capKept w.m w.h w.data.length e.1))
      ∧ s'.chip.mem.slum = (s.chip.slu.writes.filter (fun w => w.core == core.val)).foldl
          (fun m w => memWrite 0 (coreAddr w.core w.m w.h) w.data m) s.chip.mem.slum
      ∧ { s'.chip.mem with slum := [] } = { s.chip.mem with slum := [] }
      ∧ (∀ w ∈ s.chip.slu.writes, w.core = core.val → s'.chip.replyGone w.cmd.org (replyWords w.cmd.op w.cmd.tag stOK 0 []))
      ∧ s.chip.regsSame s'.chip) ∧
    (s.chip.ready t → ∀ core : Fin 4, (s.chip.coreChain core.val).isSome = true →
      ∃ s', exec (.sluMemApply t core) s = .next s' ∧ s'.chip.now = t
      ∧ s'.chip.slu = { s.chip.slu with writes := s.chip.slu.writes.filter (fun w => !(w.core == core.val && decide (w.arrived + 3200000 ≤ t))) }
      ∧ s'.chip.mem = s.chip.mem
      ∧ (∀ w ∈ s.chip.slu.writes, w.core = core.val → w.arrived + 3200000 ≤ t → s'.chip.replyGone w.cmd.org (replyWords w.cmd.op w.cmd.tag stBUSY 0 []))
      ∧ s.chip.regsSame s'.chip) ∧
    (s.chip.ready t → ∀ (ifc : Iface) (i : Fin 4) (v : Word), s.chip.serves ifc = true → (s.chip.dryOrMoored = false ∨ capSrcOk (bits v.toNat 30 28) (bits v.toNat 25 16) = false ∨ 3 < bits v.toNat 10 8) →
      ∃ s', exec (.sluCapCfgWrite t ifc (SLU_CAP_CFG i.val) v) s = .next s' ∧ s'.chip.now = t
      ∧ s'.chip.flag SLU_STATUS__CFG_REJ = true
      ∧ s'.chip.slu = s.chip.slu
      ∧ s.chip.regsBut s'.chip [SLU_STATUS]) ∧
    (s.chip.ready t → ∀ (ifc : Iface) (i : Fin 4) (v : Word), s.chip.serves ifc = true → s.chip.dryOrMoored = true →
      capSrcOk (bits v.toNat 30 28) (bits v.toNat 25 16) = true →
      bits v.toNat 10 8 ≤ 3 →
      ∃ s', exec (.sluCapCfgWrite t ifc (SLU_CAP_CFG i.val) v) s = .next s' ∧ s'.chip.now = t
      ∧ s'.chip.flag (SLU_CAP_CFG__EN i.val) = v.toNat.testBit 31
      ∧ s'.chip.fld (SLU_CAP_CFG__SRC i.val) = bits v.toNat 25 16
      ∧ s'.chip.fld (SLU_CAP_CFG__SRC_KIND i.val) = bits v.toNat 30 28
      ∧ s'.chip.fld (SLU_CAP_STAT__WPTR i.val) = 0
      ∧ s'.chip.capUnit i.val = { Capture.init with marks := (s.chip.capUnit i.val).marks }
      ∧ s'.chip.slu.runs = s.chip.slu.runs
      ∧ s.chip.regsBut s'.chip [SLU_CAP_CFG i.val, SLU_CAP_STAT i.val]) ∧
    (s.chip.ready t → ∀ (ifc : Iface) (i : Fin 4) (v : Word), s.chip.serves ifc = true → (s.chip.dryOrMoored = false ∨ False) →
      ∃ s', exec (.sluCapCfgWrite t ifc (SLU_CAP_BUF i.val) v) s = .next s' ∧ s'.chip.now = t
      ∧ s'.chip.flag SLU_STATUS__CFG_REJ = true
      ∧ s'.chip.slu = s.chip.slu
      ∧ s.chip.regsBut s'.chip [SLU_STATUS]) ∧
    (s.chip.ready t → ∀ (ifc : Iface) (i : Fin 4) (v : Word), s.chip.serves ifc = true → s.chip.dryOrMoored = true →
      ∃ s', exec (.sluCapCfgWrite t ifc (SLU_CAP_BUF i.val) v) s = .next s' ∧ s'.chip.now = t
      ∧ s'.chip.fld (SLU_CAP_BUF__BASE i.val) = bits v.toNat 15 0
      ∧ s'.chip.fld (SLU_CAP_STAT__WPTR i.val) = 0
      ∧ s'.chip.capUnit i.val = { Capture.init with marks := (s.chip.capUnit i.val).marks }
      ∧ s'.chip.slu.runs = s.chip.slu.runs
      ∧ s.chip.regsBut s'.chip [SLU_CAP_BUF i.val, SLU_CAP_STAT i.val]) ∧
    (s.chip.ready t → ∀ (ifc : Iface) (i : Fin 4) (v : Word), s.chip.serves ifc = true → (s.chip.dryOrMoored = false ∨ bits v.toNat 31 16 = 0 ∨ bits v.toNat 15 0 = 0 ∨ bits v.toNat 31 16 % bits v.toNat 15 0 ≠ 0) →
      ∃ s', exec (.sluCapCfgWrite t ifc (SLU_CAP_BLK i.val) v) s = .next s' ∧ s'.chip.now = t
      ∧ s'.chip.flag SLU_STATUS__CFG_REJ = true
      ∧ s'.chip.slu = s.chip.slu
      ∧ s.chip.regsBut s'.chip [SLU_STATUS]) ∧
    (s.chip.ready t → ∀ (ifc : Iface) (i : Fin 4) (v : Word), s.chip.serves ifc = true → s.chip.dryOrMoored = true →
      bits v.toNat 31 16 ≠ 0 →
      bits v.toNat 15 0 ≠ 0 →
      bits v.toNat 31 16 % bits v.toNat 15 0 = 0 →
      ∃ s', exec (.sluCapCfgWrite t ifc (SLU_CAP_BLK i.val) v) s = .next s' ∧ s'.chip.now = t
      ∧ s'.chip.fld (SLU_CAP_BLK__LEN i.val) = bits v.toNat 31 16
      ∧ s'.chip.fld (SLU_CAP_BLK__BLOCK i.val) = bits v.toNat 15 0
      ∧ s'.chip.fld (SLU_CAP_STAT__WPTR i.val) = 0
      ∧ s'.chip.capUnit i.val = { Capture.init with marks := (s.chip.capUnit i.val).marks }
      ∧ s'.chip.slu.runs = s.chip.slu.runs
      ∧ s.chip.regsBut s'.chip [SLU_CAP_BLK i.val, SLU_CAP_STAT i.val])

/-- SLU_CHAIN_LOAD, SLU_PICK_LOAD, SLU_TRIGGER, SLU_ABORT and SLU_MEM_WRITE. -/
def Obligations.SluiceCommandsActWhereAllowed : Prop :=
  ∀ (s : State) (t : Nat) (ifc : Iface) (tag target : Word) (pl : List Word),
    (s.chip.takes t 0x0901 ifc tag target pl 0 →
      chainFails pl = none →
      (s.chip.run target.toNat).isSome = true →
      ∃ s', exec (.sluChainLoad t ifc tag target pl) s = .next s'
      ∧ Done s t 0x0901 ifc tag target pl stBUSY 0 [] s'
      ∧ s'.chip.slu = s.chip.slu
      ∧ s'.chip.mem = s.chip.mem
      ∧ s.chip.regsSame s'.chip) ∧
    (s.chip.takes t 0x0901 ifc tag target pl 0 →
      ∀ f, chainFails pl = some f →
      ∃ s', exec (.sluChainLoad t ifc tag target pl) s = .next s'
      ∧ Done s t 0x0901 ifc tag target pl stINVALID_ARG (chainDetail target.toNat f) [] s'
      ∧ s'.chip.slu = s.chip.slu
      ∧ s'.chip.mem = s.chip.mem
      ∧ s.chip.regsSame s'.chip) ∧
    (s.chip.takes t 0x0901 ifc tag target pl 0 →
      s.chip.role ≠ 1 →
      s.chip.run target.toNat = none →
      chainFails pl = none →
      ∃ s', exec (.sluChainLoad t ifc tag target pl) s = .next s'
      ∧ Done s t 0x0901 ifc tag target pl stOK 0 [] s'
      ∧ (∀ i < pl.length, memWord 0 s'.chip.mem.slu (1024 * target.toNat + 4 * i) = (sluWords (1024 * target.toNat) pl).getD i 0)
      ∧ (∀ x : Nat, (x < 1024 * target.toNat ∨ 1024 * target.toNat + 4 * pl.length ≤ x) → tabGet (fun _ => 0) s'.chip.mem.slu x = tabGet (fun _ => 0) s.chip.mem.slu x)
      ∧ { s'.chip.mem with slu := [] } = { s.chip.mem with slu := [] }
      ∧ s'.chip.slu = s.chip.slu
      ∧ s.chip.regsSame s'.chip) ∧
    (s.chip.takes t 0x0902 ifc tag target pl 0 →
      s.chip.role ≠ 1 →
      ∃ s', exec (.sluPickLoad t ifc tag target pl) s = .next s'
      ∧ Done s t 0x0902 ifc tag target pl stOK 0 [] s'
      ∧ (∀ i < 16, memWord 0 s'.chip.mem.slu (0x10000 + 64 * target.toNat + 4 * i) = pl.getD i 0 &&& 0xCFFFFFFF#32)
      ∧ (∀ x : Nat, (x < 0x10000 + 64 * target.toNat ∨ 0x10000 + 64 * target.toNat + 64 ≤ x) → tabGet (fun _ => 0) s'.chip.mem.slu x = tabGet (fun _ => 0) s.chip.mem.slu x)
      ∧ { s'.chip.mem with slu := [] } = { s.chip.mem with slu := [] }
      ∧ s'.chip.slu = s.chip.slu
      ∧ s.chip.regsSame s'.chip) ∧
    (s.chip.takes t 0x0903 ifc tag target pl 0 →
      (s.chip.chEn target.toNat = false ∨ s.chip.chTrig target.toNat ≠ 0) →
      ∃ s', exec (.sluTrigger t ifc tag target pl) s = .next s'
      ∧ Done s t 0x0903 ifc tag target pl stINVALID_ARG 0xFFFF [] s'
      ∧ s'.chip.slu = s.chip.slu
      ∧ s'.chip.mem = s.chip.mem
      ∧ s.chip.regsSame s'.chip) ∧
    (s.chip.takes t 0x0903 ifc tag target pl 0 →
      s.chip.chEn target.toNat = true →
      s.chip.chTrig target.toNat = 0 →
      (s.chip.run target.toNat).isSome = true →
      ∃ s', exec (.sluTrigger t ifc tag target pl) s = .next s'
      ∧ Done s t 0x0903 ifc tag target pl stBUSY 0 [] s'
      ∧ s'.chip.slu = s.chip.slu
      ∧ s'.chip.mem = s.chip.mem
      ∧ s'.chip.lkp = s.chip.lkp
      ∧ s'.chip.fld (SLU_CNT__TRIG_LOST_CNT) = satAdd (SLU_CNT__TRIG_LOST_CNT) (s.chip.fld (SLU_CNT__TRIG_LOST_CNT)) 1
      ∧ s'.chip.flag SLU_INT_STATUS__TRIG_LOST = true
      ∧ s.chip.regsBut s'.chip [SLU_CNT, SLU_INT_STATUS]) ∧
    (s.chip.takes t 0x0903 ifc tag target pl 0 →
      s.chip.chEn target.toNat = true →
      s.chip.chTrig target.toNat = 0 →
      s.chip.run target.toNat = none →
      256 ≤ (s.chip.list 1 (s.chip.chEntry target.toNat none none).prio).length →
      ∃ s', exec (.sluTrigger t ifc tag target pl) s = .next s'
      ∧ Done s t 0x0903 ifc tag target pl stBUSY 0 [] s'
      ∧ s'.chip.slu = s.chip.slu
      ∧ s'.chip.mem = s.chip.mem
      ∧ s'.chip.lkp = s.chip.lkp) ∧
    (s.chip.takes t 0x0903 ifc tag target pl 0 →
      s.chip.chEn target.toNat = true →
      s.chip.chTrig target.toNat = 0 →
      s.chip.run target.toNat = none →
      (s.chip.list 1 (s.chip.chEntry target.toNat none none).prio).length < 256 →
      ∃ s', exec (.sluTrigger t ifc tag target pl) s = .next s'
      ∧ Done s t 0x0903 ifc tag target pl stOK 0 [] s'
      ∧ s'.chip.run target.toNat = some ⟨s.chip.chCore target.toNat, t, (if s.chip.sluW (1024 * target.toNat + 8) = 0 then none else some (t + s.chip.sluW (1024 * target.toNat + 8))), none, 0, false, false, 0, 0⟩
      ∧ s'.chip.list 1 (s.chip.chEntry target.toNat none none).prio = enlist ((s.chip.at t).chEntry target.toNat
            (if s.chip.sluW (1024 * target.toNat + 8) = 0 then none else some (t + s.chip.sluW (1024 * target.toNat + 8)))
            (some (s.chip.takeIntake 0x0903 ifc tag target pl).2.org.ifc))
          (s.chip.list 1 (s.chip.chEntry target.toNat none none).prio)
      ∧ s'.chip.mem = s.chip.mem) ∧
    (s.chip.takes t 0x0904 ifc tag target pl 0 →
      s.chip.run target.toNat = none →
      ∃ s', exec (.sluAbort t ifc tag target pl) s = .next s'
      ∧ Done s t 0x0904 ifc tag target pl stNOT_FOUND 0 [] s'
      ∧ s'.chip.slu = s.chip.slu
      ∧ s'.chip.mem = s.chip.mem
      ∧ s.chip.regsSame s'.chip) ∧
    (s.chip.takes t 0x0904 ifc tag target pl 0 →
      (s.chip.run target.toNat).isSome = true →
      ∃ s', exec (.sluAbort t ifc tag target pl) s = .next s'
      ∧ Done s t 0x0904 ifc tag target pl stOK 0 [] s'
      ∧ s'.chip.run target.toNat = none
      ∧ s'.chip.fld (SLU_CHST__RSTAT target.toNat) = chABORTED
      ∧ s'.chip.fld (SLU_CHST__SEQ target.toNat) = (s.chip.fld (SLU_CHST__SEQ target.toNat) + 1) % 2 ^ 16
      ∧ (∀ w ∈ s'.chip.lkp.running, w.2.work ≠ .chain target.toNat)
      ∧ (∀ p < 8, ∀ e ∈ s'.chip.list 1 p, e.work ≠ .chain target.toNat)) ∧
    (s.chip.takes t 0x0905 ifc tag target pl 0 →
      (bits (wordAt pl 0) 5 4 = 3 ∨ coreSize (bits (wordAt pl 0) 5 4) ≤ bits (wordAt pl 0) 31 16) →
      ∃ s', exec (.sluMemWrite t ifc tag target pl) s = .next s'
      ∧ Done s t 0x0905 ifc tag target pl stINVALID_ARG 0 [] s'
      ∧ s'.chip.slu = s.chip.slu
      ∧ s'.chip.mem = s.chip.mem
      ∧ s.chip.regsSame s'.chip) ∧
    (s.chip.takes t 0x0905 ifc tag target pl 0 →
      bits (wordAt pl 0) 5 4 ≠ 3 →
      bits (wordAt pl 0) 31 16 < coreSize (bits (wordAt pl 0) 5 4) →
      coreSize (bits (wordAt pl 0) 5 4) < bits (wordAt pl 0) 31 16 + wordAt pl 1 →
      ∃ s', exec (.sluMemWrite t ifc tag target pl) s = .next s'
      ∧ Done s t 0x0905 ifc tag target pl stINVALID_ARG 1 [] s'
      ∧ s'.chip.slu = s.chip.slu
      ∧ s'.chip.mem = s.chip.mem
      ∧ s.chip.regsSame s'.chip) ∧
    (s.chip.takes t 0x0905 ifc tag target pl 0 →
      bits (wordAt pl 0) 5 4 ≠ 3 →
      bits (wordAt pl 0) 31 16 + wordAt pl 1 ≤ coreSize (bits (wordAt pl 0) 5 4) →
      bits (wordAt pl 0) 31 16 < coreSize (bits (wordAt pl 0) 5 4) →
      s.chip.coreIdle (bits (wordAt pl 0) 1 0) = true →
      ∃ s', exec (.sluMemWrite t ifc tag target pl) s = .next s'
      ∧ Done s t 0x0905 ifc tag target pl stOK 0 [] s'
      ∧ (∀ i < wordAt pl 1, memHalf 0 s'.chip.mem.slum (coreAddr (bits (wordAt pl 0) 1 0) (bits (wordAt pl 0) 5 4) (bits (wordAt pl 0) 31 16 + i)) =
          (if i % 2 = 0 then bits (wordAt pl (2 + i / 2)) 15 0 else bits (wordAt pl (2 + i / 2)) 31 16))
      ∧ (∀ x : Nat, (x < coreAddr (bits (wordAt pl 0) 1 0) (bits (wordAt pl 0) 5 4) (bits (wordAt pl 0) 31 16) ∨ coreAddr (bits (wordAt pl 0) 1 0) (bits (wordAt pl 0) 5 4) (bits (wordAt pl 0) 31 16) + 2 * wordAt pl 1 ≤ x) →
          tabGet (fun _ => 0) s'.chip.mem.slum x = tabGet (fun _ => 0) s.chip.mem.slum x)
      ∧ { s'.chip.slu with cap := [] } = { s.chip.slu with cap := [] }
      ∧ (s'.chip.capUnit (bits (wordAt pl 0) 1 0)).marks = (s.chip.capUnit (bits (wordAt pl 0) 1 0)).marks.filter (fun e =>
          capKept (bits (wordAt pl 0) 5 4) (bits (wordAt pl 0) 31 16)
            ((wordsBytes (pl.drop 2)).take (2 * wordAt pl 1)).length e.1)
      ∧ s.chip.regsSame s'.chip) ∧
    (s.chip.takes t 0x0905 ifc tag target pl 0 → bits (wordAt pl 0) 5 4 ≠ 3 → bits (wordAt pl 0) 31 16 + wordAt pl 1 ≤ coreSize (bits (wordAt pl 0) 5 4) → bits (wordAt pl 0) 31 16 < coreSize (bits (wordAt pl 0) 5 4) → s.chip.coreIdle (bits (wordAt pl 0) 1 0) = false →
      ∃ s', exec (.sluMemWrite t ifc tag target pl) s = .next s' ∧ s'.chip.now = t ∧ s.chip.regsSame s'.chip ∧ s'.chip.mem = s.chip.mem
      ∧ s'.chip.slu = { s.chip.slu with writes := s.chip.slu.writes ++
          [⟨bits (wordAt pl 0) 1 0, bits (wordAt pl 0) 5 4, bits (wordAt pl 0) 31 16, (wordsBytes (pl.drop 2)).take (2 * wordAt pl 1), t, (s.chip.takeIntake 0x0905 ifc tag target pl).2⟩] })

/-- REG_GO, INJ_GO, ADC_RUN_START, ADC_CONVERSION_END, COMPARATOR_CROSSING and ADC_CMP_WRITE. -/
def Obligations.ConvertersRunTheirSequences : Prop :=
  ∀ (s : State) (t : Nat),
    (s.chip.ready t → ∀ (ifc : Iface) (x : Fin 2), s.chip.serves ifc = true → s.chip.flag (ADC_CFG__EN x.val) = false →
      ∃ s', exec (.regGo t ifc x) s = .next s' ∧ s'.chip.now = t
      ∧ s'.chip.adc = s.chip.adc
      ∧ s.chip.regsSame s'.chip) ∧
    (s.chip.ready t → ∀ (ifc : Iface) (x : Fin 2), s.chip.serves ifc = true → s.chip.flag (ADC_CFG__EN x.val) = false →
      ∃ s', exec (.injGo t ifc x) s = .next s' ∧ s'.chip.now = t
      ∧ s'.chip.adc = s.chip.adc
      ∧ s.chip.regsSame s'.chip) ∧
    (s.chip.ready t → ∀ (ifc : Iface) (x : Fin 2), s.chip.serves ifc = true → s.chip.flag (ADC_CFG__EN x.val) = true →
      (s.chip.adcC x.val).reg = none →
      (s.chip.adcC x.val).inj = none →
      ∃ s', exec (.regGo t ifc x) s = .next s' ∧ s'.chip.now = t
      ∧ (s'.chip.adcC x.val) = { (s.chip.adcC x.val) with reg := some (AdcRun.at (t + 8)) }
      ∧ (∀ y < 2, y ≠ x.val → s'.chip.adcC y = s.chip.adcC y)
      ∧ s.chip.regsSame s'.chip) ∧
    (s.chip.ready t → ∀ (ifc : Iface) (x : Fin 2), s.chip.serves ifc = true → s.chip.flag (ADC_CFG__EN x.val) = true →
      (s.chip.adcC x.val).reg = none →
      (s.chip.adcC x.val).inj.isSome = true →
      (s.chip.adcC x.val).held = false →
      ∃ s', exec (.regGo t ifc x) s = .next s' ∧ s'.chip.now = t
      ∧ (s'.chip.adcC x.val) = { (s.chip.adcC x.val) with held := true }
      ∧ (∀ y < 2, y ≠ x.val → s'.chip.adcC y = s.chip.adcC y)
      ∧ s.chip.regsSame s'.chip) ∧
    (s.chip.ready t → ∀ (ifc : Iface) (x : Fin 2), s.chip.serves ifc = true → s.chip.flag (ADC_CFG__EN x.val) = true →
      ((s.chip.adcC x.val).reg.isSome = true ∨ ((s.chip.adcC x.val).inj.isSome = true ∧ (s.chip.adcC x.val).held = true)) →
      ∃ s', exec (.regGo t ifc x) s = .next s' ∧ s'.chip.now = t
      ∧ s'.chip.adc = s.chip.adc
      ∧ s'.chip.fld (ADC_CNT__TRIG_LOST_CNT x.val) = satAdd (ADC_CNT__TRIG_LOST_CNT x.val) (s.chip.fld (ADC_CNT__TRIG_LOST_CNT x.val)) 1
      ∧ s'.chip.flag ADC_INT_STATUS__TRIG_LOST = true
      ∧ s.chip.regsBut s'.chip [ADC_CNT x.val, ADC_INT_STATUS]) ∧
    (s.chip.ready t → ∀ (ifc : Iface) (x : Fin 2), s.chip.serves ifc = true → s.chip.flag (ADC_CFG__EN x.val) = true →
      (s.chip.adcC x.val).inj = none →
      ∃ s', exec (.injGo t ifc x) s = .next s' ∧ s'.chip.now = t
      ∧ (s'.chip.adcC x.val) = { (s.chip.adcC x.val) with
          inj := some (AdcRun.at (t + 8)), reg := (s.chip.adcC x.val).reg.map (fun r => r.interrupted (s.chip.adcLp x.val) t) }
      ∧ (∀ y < 2, y ≠ x.val → s'.chip.adcC y = s.chip.adcC y)
      ∧ s.chip.regsSame s'.chip) ∧
    (s.chip.ready t → ∀ (ifc : Iface) (x : Fin 2), s.chip.serves ifc = true → s.chip.flag (ADC_CFG__EN x.val) = true →
      (s.chip.adcC x.val).inj.isSome = true →
      ∃ s', exec (.injGo t ifc x) s = .next s' ∧ s'.chip.now = t
      ∧ s'.chip.adc = s.chip.adc
      ∧ s'.chip.fld (ADC_CNT__TRIG_LOST_CNT x.val) = satAdd (ADC_CNT__TRIG_LOST_CNT x.val) (s.chip.fld (ADC_CNT__TRIG_LOST_CNT x.val)) 1
      ∧ s'.chip.flag ADC_INT_STATUS__TRIG_LOST = true
      ∧ s.chip.regsBut s'.chip [ADC_CNT x.val, ADC_INT_STATUS]) ∧
    (s.chip.ready t → ∀ (x : Fin 2) (inj : Bool), (if inj = true then (s.chip.adcC x.val).inj else if (s.chip.adcC x.val).inj = none then (s.chip.adcC x.val).reg else none) = none →
      ∃ s', exec (.adcRunStart t x inj) s = .next s' ∧ s'.chip.now = t
      ∧ s'.chip.adc = s.chip.adc
      ∧ s.chip.regsSame s'.chip) ∧
    (s.chip.ready t → ∀ (x : Fin 2) (inj : Bool), ∀ r : AdcRun, (if inj = true then (s.chip.adcC x.val).inj else if (s.chip.adcC x.val).inj = none then (s.chip.adcC x.val).reg else none) = some r →
      (r.begun = true ∨ t < r.next) →
      ∃ s', exec (.adcRunStart t x inj) s = .next s' ∧ s'.chip.now = t
      ∧ s'.chip.adc = s.chip.adc
      ∧ s.chip.regsSame s'.chip) ∧
    (s.chip.ready t → ∀ (x : Fin 2) (inj : Bool), ∀ r : AdcRun, (if inj = true then (s.chip.adcC x.val).inj else if (s.chip.adcC x.val).inj = none then (s.chip.adcC x.val).reg else none) = some r →
      r.begun = false →
      r.next ≤ t →
      ∃ s', exec (.adcRunStart t x inj) s = .next s' ∧ s'.chip.now = t
      ∧ ((if inj = true then (s'.chip.adcC x.val).inj else (s'.chip.adcC x.val).reg).map (fun q => (q.begun, q.entry, q.next, q.left, q.sum, q.got))) = some (true, 0, r.next, entryRes (s.chip.adcEntry x.val inj 0), 0, 0)
      ∧ ((if inj = true then (s'.chip.adcC x.val).inj else (s'.chip.adcC x.val).reg).map (fun q => q.settle)) = some (settleResults (s.chip.adcC x.val).prev (s.chip.adcEntry x.val inj 0) (s.chip.adcLp x.val) r.next)
      ∧ (if inj = true then (s'.chip.adcC x.val).reg = (s.chip.adcC x.val).reg else (s'.chip.adcC x.val).inj = (s.chip.adcC x.val).inj)
      ∧ (s'.chip.adcC x.val).prev = (s.chip.adcC x.val).prev) ∧
    (s.chip.ready t → ∀ (x : Fin 2) (ains : List Int), ((match (s.chip.adcC x.val).inj, (s.chip.adcC x.val).reg with
        | some r, _ => r.begun && decide (r.next + convTicks (s.chip.adcLp x.val) ≤ t)
        | none, some r => r.begun && decide (r.next + convTicks (s.chip.adcLp x.val) ≤ t)
        | none, none => false) = false) →
      ∃ s', exec (.adcConversionEnd t x ains) s = .next s' ∧ s'.chip.now = t
      ∧ s'.chip.adc = s.chip.adc
      ∧ s.chip.regsSame s'.chip) ∧
    (s.chip.ready t → ∀ (x : Fin 2) (ains : List Int), ∀ r : AdcRun, (s.chip.adcC x.val).inj = some r →
      r.begun = true →
      r.next + convTicks (s.chip.adcLp x.val) ≤ t →
      r.got + 1 < 2 ^ entryD (s.chip.adcEntry x.val true r.entry) →
      ∃ s', exec (.adcConversionEnd t x ains) s = .next s' ∧ s'.chip.now = t
      ∧ (s'.chip.adcC x.val).inj = some { r with stamp := some (r.stamp.getD (r.next + sampleTicks (s.chip.adcLp x.val))), sum := r.sum + (clampCode (adcCode (s.chip.adcEntry x.val true r.entry) ains)).1, got := r.got + 1, range := r.range || (clampCode (adcCode (s.chip.adcEntry x.val true r.entry) ains)).2, next := r.next + convTicks (s.chip.adcLp x.val) }
      ∧ (s'.chip.adcC x.val).prev = some ⟨w32 (s.chip.adcEntry x.val true r.entry), (s.chip.adcLp x.val), r.next + convTicks (s.chip.adcLp x.val)⟩
      ∧ s.chip.regsSame s'.chip) ∧
    (s.chip.ready t → ∀ (x : Fin 2) (ains : List Int), ∀ r : AdcRun, (s.chip.adcC x.val).inj = some r →
      r.begun = true →
      r.next + convTicks (s.chip.adcLp x.val) ≤ t →
      2 ^ entryD (s.chip.adcEntry x.val true r.entry) ≤ r.got + 1 →
      r.entry < 4 →
      ∃ s', exec (.adcConversionEnd t x ains) s = .next s' ∧ s'.chip.now = t
      ∧ s'.chip.reg (ADC_IRES x.val r.entry) = adcTag x.val true r.entry (decide (r.settle = 0)) (r.range || (clampCode (adcCode (s.chip.adcEntry x.val true r.entry) ains)).2 || (clampCode (rdivEven (r.sum + (clampCode (adcCode (s.chip.adcEntry x.val true r.entry) ains)).1) (2 ^ entryD (s.chip.adcEntry x.val true r.entry)))).2) * 2 ^ 16
          + unsigned 16 (clampCode (rdivEven (r.sum + (clampCode (adcCode (s.chip.adcEntry x.val true r.entry) ains)).1) (2 ^ entryD (s.chip.adcEntry x.val true r.entry)))).1
      ∧ (s'.chip.adcC x.val).prev = some ⟨w32 (s.chip.adcEntry x.val true r.entry), (s.chip.adcLp x.val), r.next + convTicks (s.chip.adcLp x.val)⟩) ∧
    (s.chip.ready t → ∀ (x : Fin 2) (ains : List Int), ∀ r : AdcRun, (s.chip.adcC x.val).reg = some r →
      (s.chip.adcC x.val).inj = none →
      r.begun = true →
      r.next + convTicks (s.chip.adcLp x.val) ≤ t →
      r.got + 1 < 2 ^ entryD (s.chip.adcEntry x.val false r.entry) →
      ∃ s', exec (.adcConversionEnd t x ains) s = .next s' ∧ s'.chip.now = t
      ∧ (s'.chip.adcC x.val).reg = some { r with stamp := some (r.stamp.getD (r.next + sampleTicks (s.chip.adcLp x.val))), sum := r.sum + (clampCode (adcCode (s.chip.adcEntry x.val false r.entry) ains)).1, got := r.got + 1, range := r.range || (clampCode (adcCode (s.chip.adcEntry x.val false r.entry) ains)).2, next := r.next + convTicks (s.chip.adcLp x.val) }
      ∧ (s'.chip.adcC x.val).prev = some ⟨w32 (s.chip.adcEntry x.val false r.entry), (s.chip.adcLp x.val), r.next + convTicks (s.chip.adcLp x.val)⟩
      ∧ s.chip.regsSame s'.chip) ∧
    (s.chip.ready t → ∀ (x : Fin 2) (ains : List Int), ∀ r : AdcRun, (s.chip.adcC x.val).reg = some r →
      (s.chip.adcC x.val).inj = none →
      r.begun = true →
      r.next + convTicks (s.chip.adcLp x.val) ≤ t →
      2 ^ entryD (s.chip.adcEntry x.val false r.entry) ≤ r.got + 1 →
      r.entry < 16 →
      ∃ s', exec (.adcConversionEnd t x ains) s = .next s' ∧ s'.chip.now = t
      ∧ s'.chip.reg (ADC_RES x.val r.entry) = adcTag x.val false r.entry (decide (r.settle = 0)) (r.range || (clampCode (adcCode (s.chip.adcEntry x.val false r.entry) ains)).2 || (clampCode (rdivEven (r.sum + (clampCode (adcCode (s.chip.adcEntry x.val false r.entry) ains)).1) (2 ^ entryD (s.chip.adcEntry x.val false r.entry)))).2) * 2 ^ 16
          + unsigned 16 (clampCode (rdivEven (r.sum + (clampCode (adcCode (s.chip.adcEntry x.val false r.entry) ains)).1) (2 ^ entryD (s.chip.adcEntry x.val false r.entry)))).1
      ∧ (s'.chip.adcC x.val).prev = some ⟨w32 (s.chip.adcEntry x.val false r.entry), (s.chip.adcLp x.val), r.next + convTicks (s.chip.adcLp x.val)⟩) ∧
    (s.chip.ready t → ∀ (k : Fin 8) (v : Int), (s.chip.at t).cmpTake k.val v = (s.chip.reg ADC_CMP_STAT).testBit k.val →
      ∃ s', exec (.comparatorCrossing t k v) s = .next s' ∧ s'.chip.now = t
      ∧ s'.chip.adc = s.chip.adc
      ∧ s.chip.regsSame s'.chip) ∧
    (s.chip.ready t → ∀ (k : Fin 8) (v : Int), ∀ level : Bool, (s.chip.at t).cmpTake k.val v = level →
      level ≠ (s.chip.reg ADC_CMP_STAT).testBit k.val →
      ¬ (s.chip.fld (ADC_CMP__EDGE k.val) = 3 ∨ (s.chip.fld (ADC_CMP__EDGE k.val) = 1 ∧ level = true) ∨ (s.chip.fld (ADC_CMP__EDGE k.val) = 2 ∧ level = false)) →
      ∃ s', exec (.comparatorCrossing t k v) s = .next s' ∧ s'.chip.now = t
      ∧ (s'.chip.reg ADC_CMP_STAT).testBit k.val = level
      ∧ s'.chip.adc.conv = s.chip.adc.conv
      ∧ s'.chip.cmpT k.val = t
      ∧ s.chip.regsBut s'.chip [ADC_CMP_STAT]) ∧
    (s.chip.ready t → ∀ (k : Fin 8) (v : Int), ∀ level : Bool, (s.chip.at t).cmpTake k.val v = level →
      level ≠ (s.chip.reg ADC_CMP_STAT).testBit k.val →
      (s.chip.fld (ADC_CMP__EDGE k.val) = 3 ∨ (s.chip.fld (ADC_CMP__EDGE k.val) = 1 ∧ level = true) ∨ (s.chip.fld (ADC_CMP__EDGE k.val) = 2 ∧ level = false)) →
      ∃ s', exec (.comparatorCrossing t k v) s = .next s' ∧ s'.chip.now = t
      ∧ (s'.chip.reg ADC_CMP_STAT).testBit k.val = level
      ∧ s'.chip.cmpT k.val = t
      ∧ (s'.chip.reg ADC_CMP_PEND).testBit k.val = true
      ∧ s'.chip.flag ADC_INT_STATUS__CMP_EVT = true
      ∧ (∀ x < 2, s.chip.flag (ADC_CFG__EN x) = true → s.chip.fld (ADC_CFG__INJ_TRIG x) = 2 → s.chip.fld (ADC_CFG__INJ_CMP x) = k.val → (s.chip.adcC x).inj = none →
          (s'.chip.adcC x).inj = some (AdcRun.at (t + 8)))
      ∧ (∀ x < 2, s.chip.fld (ADC_CFG__REG_TRIG x) ≠ 2 → s.chip.fld (ADC_CFG__INJ_TRIG x) ≠ 2 → (s'.chip.adcC x).reg = (s.chip.adcC x).reg ∧ (s'.chip.adcC x).held = (s.chip.adcC x).held)) ∧
    (s.chip.ready t → ∀ (ifc : Iface) (k : Fin 8) (v : Word), s.chip.serves ifc = true → ∃ s', exec (.adcCmpWrite t ifc k v) s = .next s' ∧ s'.chip.now = t
      ∧ s'.chip.fld (ADC_CMP__EDGE k.val) = bits v.toNat 31 30
      ∧ s'.chip.fld (ADC_CMP__HYST k.val) = bits v.toNat 29 28
      ∧ s'.chip.fld (ADC_CMP__THR k.val) = bits v.toNat 25 16
      ∧ s'.chip.fld (ADC_CMP__FILT k.val) = bits v.toNat 7 0
      ∧ s.chip.regsBut s'.chip [ADC_CMP k.val]
      ∧ s'.chip.cmpT k.val = t
      ∧ s'.chip.adc.conv = s.chip.adc.conv)

/-- GAU_CTL_ARM, GAU_CTL_STOP, GAU_CTL_FORCE, GAU_REL_WRITE and GAU_ARM, GAU_STOP, GAU_FORCE, GAU_RELEASE. -/
def Obligations.GaugeIsArmedStoppedAndReleased : Prop :=
  ∀ (s : State) (t : Nat),
    (s.chip.ready t → ∀ (ifc : Iface), s.chip.serves ifc = true → s.chip.gauState = 0 →
      s.chip.gauOk = true →
      ∃ s', exec (.gauCtlArm t ifc) s = .next s' ∧ s'.chip.now = t
      ∧ s'.chip.gauState = 1
      ∧ s'.chip.fld GAU_STATUS__DLOG_NOW = s.chip.fld GAU_CFG__DLOG
      ∧ s'.chip.gau.recs = s.chip.gau.recs
      ∧ s'.chip.gau.taken = 0
      ∧ s'.chip.gau.deadFrom = t
      ∧ s'.chip.gau.latched = []
      ∧ s'.chip.gau.stopAfter = false
      ∧ s.chip.regsBut s'.chip [GAU_STATUS]) ∧
    (∀ (ifc : Iface) (tag target : Word) (pl : List Word), s.chip.takes t 0x0A01 ifc tag target pl 0 →
      s.chip.gauState = 0 →
      s.chip.gauOk = true →
      ∃ s', exec (.gauArm t ifc tag target pl) s = .next s'
      ∧ Done s t 0x0A01 ifc tag target pl stOK 0 [] s'
      ∧ s'.chip.gauState = 1
      ∧ s'.chip.fld GAU_STATUS__DLOG_NOW = s.chip.fld GAU_CFG__DLOG
      ∧ s'.chip.gau.recs = s.chip.gau.recs
      ∧ s'.chip.gau.taken = 0
      ∧ s'.chip.gau.deadFrom = t
      ∧ s'.chip.gau.latched = []
      ∧ s'.chip.gau.stopAfter = false
      ∧ s.chip.regsBut s'.chip [GAU_STATUS]) ∧
    (s.chip.ready t → ∀ (ifc : Iface), s.chip.serves ifc = true → (s.chip.gauState ≠ 0 ∨ s.chip.gauOk = false) →
      ∃ s', exec (.gauCtlArm t ifc) s = .next s' ∧ s'.chip.now = t
      ∧ s'.chip.flag GAU_STATUS__CMD_REJ = true
      ∧ s'.chip.gau = s.chip.gau
      ∧ s.chip.regsBut s'.chip [GAU_STATUS]
      ∧ s'.chip.gauState = s.chip.gauState) ∧
    (∀ (ifc : Iface) (tag target : Word) (pl : List Word), s.chip.takes t 0x0A01 ifc tag target pl 0 →
      (s.chip.gauState ≠ 0 ∨ s.chip.gauOk = false) →
      ∃ s', exec (.gauArm t ifc tag target pl) s = .next s'
      ∧ Done s t 0x0A01 ifc tag target pl stWRONG_STATE 0 [] s'
      ∧ s'.chip.gau = s.chip.gau
      ∧ s.chip.regsSame s'.chip) ∧
    (s.chip.ready t → ∀ (ifc : Iface), s.chip.serves ifc = true → (s.chip.gauState = 0 ∨ 5 < s.chip.gauState) →
      ∃ s', exec (.gauCtlStop t ifc) s = .next s' ∧ s'.chip.now = t
      ∧ s'.chip.gau = s.chip.gau
      ∧ s.chip.regsSame s'.chip) ∧
    (∀ (ifc : Iface) (tag target : Word) (pl : List Word), s.chip.takes t 0x0A02 ifc tag target pl 0 →
      (s.chip.gauState = 0 ∨ 5 < s.chip.gauState) →
      ∃ s', exec (.gauStop t ifc tag target pl) s = .next s'
      ∧ Done s t 0x0A02 ifc tag target pl stOK 0 [] s'
      ∧ s'.chip.gau = s.chip.gau
      ∧ s.chip.regsSame s'.chip) ∧
    (s.chip.ready t → ∀ (ifc : Iface), s.chip.serves ifc = true → s.chip.gauState = 1 →
      ∃ s', exec (.gauCtlStop t ifc) s = .next s' ∧ s'.chip.now = t
      ∧ s'.chip.gauState = 0
      ∧ s'.chip.gau = s.chip.gau
      ∧ s.chip.regsBut s'.chip [GAU_STATUS]) ∧
    (∀ (ifc : Iface) (tag target : Word) (pl : List Word), s.chip.takes t 0x0A02 ifc tag target pl 0 →
      s.chip.gauState = 1 →
      ∃ s', exec (.gauStop t ifc tag target pl) s = .next s'
      ∧ Done s t 0x0A02 ifc tag target pl stOK 0 [] s'
      ∧ s'.chip.gauState = 0
      ∧ s'.chip.gau = s.chip.gau
      ∧ s.chip.regsBut s'.chip [GAU_STATUS]) ∧
    (s.chip.ready t → ∀ (ifc : Iface), s.chip.serves ifc = true → (s.chip.gauState = 2 ∨ s.chip.gauState = 3) →
      ∃ s', exec (.gauCtlStop t ifc) s = .next s' ∧ s'.chip.now = t
      ∧ s'.chip.gauState = 0
      ∧ s'.chip.gau = { s.chip.gau with recs := s.chip.gau.recs.dropLast, latched := [] }
      ∧ s'.chip.fld GAU_REC_CNT__FREE = s'.chip.gauFree % 2 ^ 24
      ∧ s.chip.regsBut s'.chip [GAU_STATUS, GAU_REC_CNT, GAU_REC_HEAD]) ∧
    (∀ (ifc : Iface) (tag target : Word) (pl : List Word), s.chip.takes t 0x0A02 ifc tag target pl 0 →
      (s.chip.gauState = 2 ∨ s.chip.gauState = 3) →
      ∃ s', exec (.gauStop t ifc tag target pl) s = .next s'
      ∧ Done s t 0x0A02 ifc tag target pl stOK 0 [] s'
      ∧ s'.chip.gauState = 0
      ∧ s'.chip.gau = { s.chip.gau with recs := s.chip.gau.recs.dropLast, latched := [] }
      ∧ s'.chip.fld GAU_REC_CNT__FREE = s'.chip.gauFree % 2 ^ 24
      ∧ s.chip.regsBut s'.chip [GAU_STATUS, GAU_REC_CNT, GAU_REC_HEAD]) ∧
    (s.chip.ready t → ∀ (ifc : Iface), s.chip.serves ifc = true → s.chip.gauState = 4 →
      ∃ s', exec (.gauCtlStop t ifc) s = .next s' ∧ s'.chip.now = t
      ∧ s'.chip.gauState = 5
      ∧ s'.chip.gau.stopped = true
      ∧ s'.chip.gau.finishT = t + 64
      ∧ s'.chip.gau.recs = s.chip.gau.recs
      ∧ s'.chip.gau.post = s.chip.gau.post
      ∧ s'.chip.gau.block = []) ∧
    (∀ (ifc : Iface) (tag target : Word) (pl : List Word), s.chip.takes t 0x0A02 ifc tag target pl 0 →
      s.chip.gauState = 4 →
      ∃ s', exec (.gauStop t ifc tag target pl) s = .next s'
      ∧ Done s t 0x0A02 ifc tag target pl stOK 0 [] s'
      ∧ s'.chip.gauState = 5
      ∧ s'.chip.gau.stopped = true
      ∧ s'.chip.gau.finishT = t + 64
      ∧ s'.chip.gau.recs = s.chip.gau.recs
      ∧ s'.chip.gau.post = s.chip.gau.post
      ∧ s'.chip.gau.block = []) ∧
    (s.chip.ready t → ∀ (ifc : Iface), s.chip.serves ifc = true → s.chip.gauState = 5 →
      ∃ s', exec (.gauCtlStop t ifc) s = .next s' ∧ s'.chip.now = t
      ∧ s'.chip.gau = { s.chip.gau with stopAfter := true }
      ∧ s.chip.regsSame s'.chip) ∧
    (∀ (ifc : Iface) (tag target : Word) (pl : List Word), s.chip.takes t 0x0A02 ifc tag target pl 0 →
      s.chip.gauState = 5 →
      ∃ s', exec (.gauStop t ifc tag target pl) s = .next s'
      ∧ Done s t 0x0A02 ifc tag target pl stOK 0 [] s'
      ∧ s'.chip.gau = { s.chip.gau with stopAfter := true }
      ∧ s.chip.regsSame s'.chip) ∧
    (s.chip.ready t → ∀ (ifc : Iface), s.chip.serves ifc = true → (s.chip.gauState = 2 ∨ s.chip.gauState = 3) →
      ∃ s', exec (.gauCtlForce t ifc) s = .next s' ∧ s'.chip.now = t
      ∧ s'.chip.gau = { s.chip.gau with latched := s.chip.gau.latched ++ [(3, t)] }
      ∧ s.chip.regsSame s'.chip) ∧
    (∀ (ifc : Iface) (tag target : Word) (pl : List Word), s.chip.takes t 0x0A03 ifc tag target pl 0 →
      (s.chip.gauState = 2 ∨ s.chip.gauState = 3) →
      ∃ s', exec (.gauForce t ifc tag target pl) s = .next s'
      ∧ Done s t 0x0A03 ifc tag target pl stOK 0 [] s'
      ∧ s'.chip.gau = { s.chip.gau with latched := s.chip.gau.latched ++ [(3, t)] }
      ∧ s.chip.regsSame s'.chip) ∧
    (s.chip.ready t → ∀ (ifc : Iface), s.chip.serves ifc = true → s.chip.gauState ≠ 2 →
      s.chip.gauState ≠ 3 →
      ∃ s', exec (.gauCtlForce t ifc) s = .next s' ∧ s'.chip.now = t
      ∧ s'.chip.gau = s.chip.gau
      ∧ s'.chip.fld (GAU_CNT__TRIG_IGN_CNT) = satAdd (GAU_CNT__TRIG_IGN_CNT) (s.chip.fld (GAU_CNT__TRIG_IGN_CNT)) 1
      ∧ s.chip.regsBut s'.chip [GAU_CNT]) ∧
    (∀ (ifc : Iface) (tag target : Word) (pl : List Word), s.chip.takes t 0x0A03 ifc tag target pl 0 →
      s.chip.gauState ≠ 2 →
      s.chip.gauState ≠ 3 →
      ∃ s', exec (.gauForce t ifc tag target pl) s = .next s'
      ∧ Done s t 0x0A03 ifc tag target pl stOK 0 [] s'
      ∧ s'.chip.gau = s.chip.gau
      ∧ s'.chip.fld (GAU_CNT__TRIG_IGN_CNT) = satAdd (GAU_CNT__TRIG_IGN_CNT) (s.chip.fld (GAU_CNT__TRIG_IGN_CNT)) 1
      ∧ s.chip.regsBut s'.chip [GAU_CNT]) ∧
    (s.chip.ready t → ∀ (ifc : Iface) (v : Word), s.chip.serves ifc = true → ∀ (r : Record) (rest : List Record), s.chip.gau.recs = r :: rest →
      r.done = true →
      r.seq = v.toNat % 2 ^ 16 →
      ∃ s', exec (.gauRelWrite t ifc v) s = .next s' ∧ s'.chip.now = t
      ∧ s'.chip.gau = { s.chip.gau with recs := rest }
      ∧ s'.chip.fld GAU_REC_CNT__FREE = s'.chip.gauFree % 2 ^ 24
      ∧ s.chip.regsBut s'.chip [GAU_REC_CNT, GAU_REC_HEAD]) ∧
    (s.chip.ready t → ∀ (ifc : Iface) (v : Word), s.chip.serves ifc = true → s.chip.gau.recs.head?.all (fun r => !r.done || r.seq != v.toNat % 2 ^ 16) = true →
      ∃ s', exec (.gauRelWrite t ifc v) s = .next s' ∧ s'.chip.now = t
      ∧ s'.chip.gau = s.chip.gau
      ∧ s'.chip.flag GAU_STATUS__REL_ERR = true
      ∧ s.chip.regsBut s'.chip [GAU_STATUS]) ∧
    (∀ (ifc : Iface) (tag target : Word) (pl : List Word), s.chip.takes t 0x0A04 ifc tag target pl 0 →
      ∀ (r : Record) (rest : List Record), s.chip.gau.recs = r :: rest →
      r.done = true →
      r.seq = wordAt pl 0 % 2 ^ 16 →
      ∃ s', exec (.gauRelease t ifc tag target pl) s = .next s'
      ∧ Done s t 0x0A04 ifc tag target pl stOK 0 [] s'
      ∧ s'.chip.gau = { s.chip.gau with recs := rest }
      ∧ s'.chip.fld GAU_REC_CNT__FREE = s'.chip.gauFree % 2 ^ 24
      ∧ s.chip.regsBut s'.chip [GAU_REC_CNT, GAU_REC_HEAD]) ∧
    (∀ (ifc : Iface) (tag target : Word) (pl : List Word), s.chip.takes t 0x0A04 ifc tag target pl 0 →
      s.chip.gau.recs.head?.all (fun r => !r.done || r.seq != wordAt pl 0 % 2 ^ 16) = true →
      ∃ s', exec (.gauRelease t ifc tag target pl) s = .next s'
      ∧ Done s t 0x0A04 ifc tag target pl stNOT_FOUND 0 [] s'
      ∧ s'.chip.gau = s.chip.gau
      ∧ s.chip.regsSame s'.chip)

/-- MEMORY_RESERVED, GAUGE_SAMPLE and FINISH_END. -/
def Obligations.GaugeRecordsRowsInOrder : Prop :=
  ∀ (s : State) (t : Nat),
    (s.chip.ready t →
      (s.chip.gauState ≠ 1 ∨ s.chip.gauReserve = none) →
      ∃ s', exec (.memoryReserved t) s = .next s' ∧ s'.chip.now = t
      ∧ s'.chip.gau = s.chip.gau
      ∧ s.chip.regsSame s'.chip) ∧
    (s.chip.ready t → ∀ r : Nat × Nat × Bool × Bool, s.chip.gauReserve = some r →
      s.chip.gauState = 1 →
      ∃ s', exec (.memoryReserved t) s = .next s' ∧ s'.chip.now = t
      ∧ s'.chip.gau.recs = s.chip.gau.recs ++ [⟨s.chip.gau.seq, s.chip.gau.ring, r.1, false⟩]
      ∧ s'.chip.gau.postMem = r.2.1
      ∧ s'.chip.gau.trunc = r.2.2.1
      ∧ s'.chip.gau.streaming = r.2.2.2
      ∧ s'.chip.gau.pre = 0
      ∧ s'.chip.gau.post = 0
      ∧ s'.chip.gau.trig = none
      ∧ s'.chip.gauState = (if s.chip.reg GAU_PRE = 0 then 3 else 2)
      ∧ s'.chip.fld GAU_REC_CNT__FREE = s'.chip.gauFree % 2 ^ 24
      ∧ (r.2.2.1 = true → s'.chip.flag GAU_INT_STATUS__TRUNC = true)) ∧
    (s.chip.ready t →
      (¬ (s.chip.gauState = 2 ∨ s.chip.gauState = 3 ∨ s.chip.gauState = 4) ∨ (s.chip.at t).gauTick = false) →
      ∃ s', exec (.gaugeSample t) s = .next s' ∧ s'.chip.now = t
      ∧ s'.chip.gau = s.chip.gau
      ∧ s.chip.regsSame s'.chip
      ∧ s'.chip.mem = s.chip.mem) ∧
    (s.chip.ready t →
      (s.chip.gauState = 2 ∨ s.chip.gauState = 3 ∨ s.chip.gauState = 4) →
      (s.chip.at t).gauTick = true →
      ∃ s', exec (.gaugeSample t) s = .next s' ∧ s'.chip.now = t
      ∧ s'.chip.gau.samples = s.chip.gau.samples + 1
      ∧ s'.chip.gau.lastSample = t
      ∧ (s.chip.gauState ≠ 4 → (((s.chip.at t).gauPattern.2 && (s.chip.fld GAU_CFG__TSRC).testBit 0) = true ∨ s.chip.gau.latched ≠ []) →
          s'.chip.gau.trig = some (s.chip.gau.latched.foldl (fun m e => m ||| 2 ^ e.1) (b2n ((s.chip.at t).gauPattern.2 && (s.chip.fld GAU_CFG__TSRC).testBit 0)), s.chip.gau.latched.foldl (fun u e => min u e.2) t)
          ∧ s'.chip.gau.latched = [] ∧ s'.chip.flag GAU_INT_STATUS__TRIG = true ∧ 4 ≤ s'.chip.gauState)
      ∧ (s.chip.gauState ≠ 4 → ((s.chip.at t).gauPattern.2 && (s.chip.fld GAU_CFG__TSRC).testBit 0) = false → s.chip.gau.latched = [] → s'.chip.gau.trig = s.chip.gau.trig ∧ (s'.chip.gauState = s.chip.gauState ∨ s'.chip.gauState = 3))
      ∧ (s.chip.gauState = 4 → s'.chip.gau.trig = s.chip.gau.trig)
      ∧ (¬ s.chip.gau.samples % 2 ^ s.chip.fld GAU_STATUS__DLOG_NOW = 0 → s'.chip.mem = s.chip.mem ∧ s'.chip.gau.pre = s.chip.gau.pre ∧ s'.chip.gau.post = s.chip.gau.post)) ∧
    (s.chip.ready t →
      s.chip.gauState = 4 →
      (s.chip.at t).gauTick = true →
      s.chip.gau.samples % 2 ^ s.chip.fld GAU_STATUS__DLOG_NOW = 0 →
      s.chip.gau.memRows < s.chip.gau.postMem →
      ∃ s', exec (.gaugeSample t) s = .next s' ∧ s'.chip.now = t
      ∧ s'.chip.gau.post = s.chip.gau.post + 1
      ∧ s'.chip.gau.memRows = s.chip.gau.memRows + 1
      ∧ s'.chip.gau.postT = some (s.chip.gau.postT.getD t)
      ∧ (∀ i < (s.chip.at t).gauRow.length, tabGet (fun _ => 0) s'.chip.mem.gau ((s.chip.gauBase + 256 + (s.chip.reg GAU_PRE + s.chip.gau.memRows) * s.chip.gauRb + i) % gauBytes)
          = (s.chip.at t).gauRow.getD i 0)
      ∧ (s'.chip.gauState = 5 ↔ s.chip.gauPostRows ≤ s.chip.gau.post + 1)
      ∧ { s'.chip.mem with gau := [] } = { s.chip.mem with gau := [] }) ∧
    (s.chip.ready t →
      (s.chip.gauState = 2 ∨ s.chip.gauState = 3) →
      (s.chip.at t).gauTick = true →
      s.chip.gau.samples % 2 ^ s.chip.fld GAU_STATUS__DLOG_NOW = 0 →
      ((s.chip.at t).gauPattern.2 && (s.chip.fld GAU_CFG__TSRC).testBit 0) = false →
      s.chip.gau.latched = [] →
      ∃ s', exec (.gaugeSample t) s = .next s' ∧ s'.chip.now = t
      ∧ s'.chip.gau.post = s.chip.gau.post
      ∧ (s.chip.reg GAU_PRE ≠ 0 → s'.chip.gau.pre = s.chip.gau.pre + 1 ∧ s'.chip.gau.preTicks = (t :: s.chip.gau.preTicks).take (s.chip.reg GAU_PRE)
          ∧ (∀ i < (s.chip.at t).gauRow.length, tabGet (fun _ => 0) s'.chip.mem.gau ((s.chip.gauBase + 256 + s.chip.gau.pre % s.chip.reg GAU_PRE * s.chip.gauRb + i) % gauBytes)
            = (s.chip.at t).gauRow.getD i 0))
      ∧ (s.chip.gauState = 2 → (s'.chip.gauState = 3 ↔ s.chip.reg GAU_PRE ≤ s'.chip.gau.pre))) ∧
    (s.chip.ready t →
      ¬ (s.chip.gauState = 5 ∧ s.chip.gau.finishT ≤ t) →
      ∃ s', exec (.finishEnd t) s = .next s' ∧ s'.chip.now = t
      ∧ s'.chip.gau = s.chip.gau
      ∧ s.chip.regsSame s'.chip
      ∧ s'.chip.mem = s.chip.mem) ∧
    (s.chip.ready t → ∀ r : Record, s.chip.gau.recs.getLast? = some r →
      s.chip.gauState = 5 →
      s.chip.gau.finishT ≤ t →
      ∃ s', exec (.finishEnd t) s = .next s' ∧ s'.chip.now = t
      ∧ s'.chip.gau.recs = s.chip.gau.recs.dropLast ++ [{ r with size := 256 + (s.chip.reg GAU_PRE + s.chip.gau.memRows) * s.chip.gauRb, done := true }]
      ∧ s'.chip.gau.ring = (r.ofs + 256 + (s.chip.reg GAU_PRE + s.chip.gau.memRows) * s.chip.gauRb) % gauBytes
      ∧ s'.chip.gau.seq = (s.chip.gau.seq + 1) % 2 ^ 16
      ∧ s'.chip.gau.taken = s.chip.gau.taken + 1
      ∧ s'.chip.flag GAU_INT_STATUS__REC_DONE = true
      ∧ s'.chip.gauState = (if s.chip.gau.stopAfter = true ∨ (s.chip.fld GAU_NREC__NREC ≠ 0 ∧ s.chip.fld GAU_NREC__NREC ≤ s.chip.gau.taken + 1) then 0 else 1)
      ∧ (∀ i < 256, tabGet (fun _ => 0) s'.chip.mem.gau ((r.ofs + i) % gauBytes) = (wordsBytes (s.chip.gauHeader r.seq s.chip.gauFirst.2)).getD i 0)
      ∧ { s'.chip.mem with gau := [] } = { s.chip.mem with gau := [] })

/-- WEIR_TRIP, WEIR_TICK_MISSING, WEIR_CLOCK_INTERVAL, WEIR_INTERNAL_FAULT, PSET_CRC_RECHECK. -/
def Obligations.CausesLatchAndCutTheOutputs : Prop :=
  ∀ (s : State) (t : Nat),
    (∀ (ifc : Iface) (tag target : Word) (pl : List Word), s.chip.takes t 0x0B03 ifc tag target pl 0 →
      s.chip.wstate ≤ 2 →
      ∃ s', exec (.weirTrip t ifc tag target pl) s = .next s'
      ∧ Done s t 0x0B03 ifc tag target pl stOK 0 [] s'
      ∧ s'.chip.reg WEI_CAUSE_LATCH = s.chip.reg WEI_CAUSE_LATCH ||| 2 ^ 12
      ∧ s'.chip.fld WEI_STATUS__FIRST_CAUSE = (if s.chip.reg WEI_CAUSE_LATCH = 0 then 12 else s.chip.fld WEI_STATUS__FIRST_CAUSE)
      ∧ s'.chip.reg WEI_CAUSE = s.chip.reg WEI_CAUSE
      ∧ s'.chip.wstate = 3
      ∧ s'.chip.pnd.weirTrip = true
      ∧ s'.chip.weir.tripT = t
      ∧ s'.chip.weir.hard = false
      ∧ s'.chip.flag WEI_INT_STATUS__TRIP = true
      ∧ s'.chip.fld WEI_CNT__TRIP_CNT = satAdd WEI_CNT__TRIP_CNT (s.chip.fld WEI_CNT__TRIP_CNT) 1
      ∧ (∀ k < 24, (s'.chip.weir.outA.testBit k = true ↔ s.chip.weir.outA.testBit k = true ∧ (s.chip.ws (pairOff k)).testBit 31 = true ∧ ((s.chip.ws (pairOff k)).testBit 29 = true ∨ s.chip.drives = true) ∧ (s.chip.ws (groupOff (bits (s.chip.ws (pairOff k)) 27 24))).testBit 30 = true)
          ∧ (s'.chip.weir.outB.testBit k = true ↔ s.chip.weir.outB.testBit k = true ∧ (s.chip.ws (pairOff k)).testBit 31 = true ∧ ((s.chip.ws (pairOff k)).testBit 29 = true ∨ s.chip.drives = true) ∧ (s.chip.ws (groupOff (bits (s.chip.ws (pairOff k)) 27 24))).testBit 30 = true))) ∧
    (∀ (ifc : Iface) (tag target : Word) (pl : List Word), s.chip.takes t 0x0B03 ifc tag target pl 0 →
      3 ≤ s.chip.wstate →
      ∃ s', exec (.weirTrip t ifc tag target pl) s = .next s'
      ∧ Done s t 0x0B03 ifc tag target pl stOK 0 [] s'
      ∧ s'.chip.reg WEI_CAUSE_LATCH = s.chip.reg WEI_CAUSE_LATCH ||| 2 ^ 12
      ∧ s'.chip.fld WEI_STATUS__FIRST_CAUSE = (if s.chip.reg WEI_CAUSE_LATCH = 0 then 12 else s.chip.fld WEI_STATUS__FIRST_CAUSE)
      ∧ s'.chip.reg WEI_CAUSE = s.chip.reg WEI_CAUSE
      ∧ s'.chip.wstate = s.chip.wstate
      ∧ s'.chip.weir.adoptedA = true ∧ s'.chip.weir.adopted = true
      ∧ s'.chip.pnd = s.chip.pnd
      ∧ s'.chip.weir.act = s.chip.weir.act) ∧
    (s.chip.ready t →
      (s.chip.reg WEI_CAUSE).testBit 15 = true →
      ∃ s', exec (.weirTickMissing t) s = .next s' ∧ s'.chip.now = t
      ∧ s'.chip.weir = s.chip.weir
      ∧ s.chip.regsSame s'.chip) ∧
    (s.chip.ready t →
      (s.chip.reg WEI_CAUSE).testBit 15 = false →
      ∃ s', exec (.weirTickMissing t) s = .next s' ∧ s'.chip.now = t
      ∧ s'.chip.reg WEI_CAUSE_LATCH = s.chip.reg WEI_CAUSE_LATCH ||| 2 ^ 15
      ∧ s'.chip.fld WEI_STATUS__FIRST_CAUSE = (if s.chip.reg WEI_CAUSE_LATCH = 0 then 15 else s.chip.fld WEI_STATUS__FIRST_CAUSE)
      ∧ s'.chip.reg WEI_CAUSE = s.chip.reg WEI_CAUSE ||| 2 ^ 15
      ∧ s'.chip.wstate = 4
      ∧ s'.chip.weir.outA = 0
      ∧ s'.chip.weir.outB = 0
      ∧ s'.chip.fld WEI_OUT_ON__ON = 0
      ∧ (∀ k < 24, (s.chip.weir.outA.testBit k = true → Output.pin pinSOUTA k false ∈ s'.chip.out)
          ∧ (s.chip.weir.outB.testBit k = true → Output.pin pinSOUTB k false ∈ s'.chip.out))
      ∧ (s.chip.wstate ≠ 4 → s'.chip.pnd.weirTrip = true ∧ s'.chip.weir.hard = true ∧ s'.chip.weir.tripT = t
          ∧ s'.chip.flag WEI_INT_STATUS__TRIP = true ∧ s'.chip.flag WEI_INT_STATUS__FAILED = true)
      ∧ (s.chip.wstate = 4 → s'.chip.pnd = s.chip.pnd)
      ∧ s'.chip.weir.act = s.chip.weir.act
      ∧ s'.chip.weir.conf = s.chip.weir.conf) ∧
    (s.chip.ready t → ∀ n : Nat, 3992 ≤ n →
      n ≤ 4008 →
      (3996 ≤ n ∧ n ≤ 4004 ∨ (s.chip.reg WEI_CAUSE).testBit 15 = true) →
      ∃ s', exec (.weirClockInterval t n) s = .next s' ∧ s'.chip.now = t
      ∧ s'.chip.weir = s.chip.weir
      ∧ s.chip.regsSame s'.chip) ∧
    (s.chip.ready t → ∀ n : Nat, 3992 ≤ n →
      n ≤ 4008 →
      (n < 3996 ∨ 4004 < n) →
      (s.chip.reg WEI_CAUSE).testBit 15 = false →
      ∃ s', exec (.weirClockInterval t n) s = .next s' ∧ s'.chip.now = t
      ∧ s'.chip.reg WEI_CAUSE_LATCH = s.chip.reg WEI_CAUSE_LATCH ||| 2 ^ 15
      ∧ s'.chip.fld WEI_STATUS__FIRST_CAUSE = (if s.chip.reg WEI_CAUSE_LATCH = 0 then 15 else s.chip.fld WEI_STATUS__FIRST_CAUSE)
      ∧ s'.chip.reg WEI_CAUSE = s.chip.reg WEI_CAUSE ||| 2 ^ 15
      ∧ s'.chip.wstate = 4
      ∧ s'.chip.weir.outA = 0
      ∧ s'.chip.weir.outB = 0
      ∧ s'.chip.fld WEI_OUT_ON__ON = 0
      ∧ (∀ k < 24, (s.chip.weir.outA.testBit k = true → Output.pin pinSOUTA k false ∈ s'.chip.out)
          ∧ (s.chip.weir.outB.testBit k = true → Output.pin pinSOUTB k false ∈ s'.chip.out))
      ∧ (s.chip.wstate ≠ 4 → s'.chip.pnd.weirTrip = true ∧ s'.chip.weir.hard = true ∧ s'.chip.weir.tripT = t
          ∧ s'.chip.flag WEI_INT_STATUS__TRIP = true ∧ s'.chip.flag WEI_INT_STATUS__FAILED = true)
      ∧ (s.chip.wstate = 4 → s'.chip.pnd = s.chip.pnd)
      ∧ s'.chip.weir.act = s.chip.weir.act
      ∧ s'.chip.weir.conf = s.chip.weir.conf) ∧
    (s.chip.ready t → ∀ n : Nat, (n < 3992 ∨ 4008 < n) →
      ∃ s', exec (.weirClockInterval t n) s = .next s'
      ∧ s'.chip.boot.phase = .hold ∧ s'.chip.boot.holdClock = true ∧ s'.chip.regs = [] ∧ s'.chip.mem = State.reset.chip.mem
      ∧ s'.chip.weir.conf = [] ∧ s'.chip.weir.outA = 0 ∧ s'.chip.weir.outB = 0 ∧ s'.chip.boot.otp = s.chip.boot.otp ∧ s'.chip.boot.flash = s.chip.boot.flash) ∧
    (s.chip.ready t → ∀ src : WeirFaultSrc, (s.chip.reg WEI_CAUSE).testBit 17 = true →
      ∃ s', exec (.weirInternalFault t src) s = .next s' ∧ s'.chip.now = t
      ∧ s'.chip.weir = s.chip.weir
      ∧ s.chip.regsSame s'.chip) ∧
    (s.chip.ready t → ∀ src : WeirFaultSrc, (s.chip.reg WEI_CAUSE).testBit 17 = false →
      ∃ s', exec (.weirInternalFault t src) s = .next s' ∧ s'.chip.now = t
      ∧ s'.chip.reg WEI_CAUSE_LATCH = s.chip.reg WEI_CAUSE_LATCH ||| 2 ^ 17
      ∧ s'.chip.fld WEI_STATUS__FIRST_CAUSE = (if s.chip.reg WEI_CAUSE_LATCH = 0 then 17 else s.chip.fld WEI_STATUS__FIRST_CAUSE)
      ∧ s'.chip.reg WEI_CAUSE = s.chip.reg WEI_CAUSE ||| 2 ^ 17
      ∧ s'.chip.wstate = 4
      ∧ s'.chip.weir.outA = 0
      ∧ s'.chip.weir.outB = 0
      ∧ s'.chip.fld WEI_OUT_ON__ON = 0
      ∧ (∀ k < 24, (s.chip.weir.outA.testBit k = true → Output.pin pinSOUTA k false ∈ s'.chip.out)
          ∧ (s.chip.weir.outB.testBit k = true → Output.pin pinSOUTB k false ∈ s'.chip.out))
      ∧ (s.chip.wstate ≠ 4 → s'.chip.pnd.weirTrip = true ∧ s'.chip.weir.hard = true ∧ s'.chip.weir.tripT = t
          ∧ s'.chip.flag WEI_INT_STATUS__TRIP = true ∧ s'.chip.flag WEI_INT_STATUS__FAILED = true)
      ∧ (s.chip.wstate = 4 → s'.chip.pnd = s.chip.pnd)
      ∧ s'.chip.weir.act = s.chip.weir.act
      ∧ s'.chip.weir.conf = s.chip.weir.conf) ∧
    (s.chip.ready t → ∀ okA okB : Bool, (s.chip.weir.actV = false ∨ (okA = true ∧ okB = true) ∨ (s.chip.reg WEI_CAUSE).testBit 16 = true) →
      ∃ s', exec (.psetCrcRecheck t okA okB) s = .next s' ∧ s'.chip.now = t
      ∧ s'.chip.weir = s.chip.weir
      ∧ s.chip.regsSame s'.chip) ∧
    (s.chip.ready t → ∀ okA okB : Bool, s.chip.weir.actV = true →
      (okA = false ∨ okB = false) →
      (s.chip.reg WEI_CAUSE).testBit 16 = false →
      ∃ s', exec (.psetCrcRecheck t okA okB) s = .next s' ∧ s'.chip.now = t
      ∧ s'.chip.reg WEI_CAUSE_LATCH = s.chip.reg WEI_CAUSE_LATCH ||| 2 ^ 16
      ∧ s'.chip.fld WEI_STATUS__FIRST_CAUSE = (if s.chip.reg WEI_CAUSE_LATCH = 0 then 16 else s.chip.fld WEI_STATUS__FIRST_CAUSE)
      ∧ s'.chip.reg WEI_CAUSE = s.chip.reg WEI_CAUSE ||| 2 ^ 16
      ∧ s'.chip.wstate = 4
      ∧ s'.chip.weir.outA = 0
      ∧ s'.chip.weir.outB = 0
      ∧ s'.chip.fld WEI_OUT_ON__ON = 0
      ∧ (∀ k < 24, (s.chip.weir.outA.testBit k = true → Output.pin pinSOUTA k false ∈ s'.chip.out)
          ∧ (s.chip.weir.outB.testBit k = true → Output.pin pinSOUTB k false ∈ s'.chip.out))
      ∧ (s.chip.wstate ≠ 4 → s'.chip.pnd.weirTrip = true ∧ s'.chip.weir.hard = true ∧ s'.chip.weir.tripT = t
          ∧ s'.chip.flag WEI_INT_STATUS__TRIP = true ∧ s'.chip.flag WEI_INT_STATUS__FAILED = true)
      ∧ (s.chip.wstate = 4 → s'.chip.pnd = s.chip.pnd)
      ∧ s'.chip.weir.act = s.chip.weir.act
      ∧ s'.chip.weir.conf = s.chip.weir.conf)

/-- SAFE_INPUT_SAMPLE, FAST_DEMAND, TEST_PULSE_START, TEST_PULSE_END, SS1_EXPIRY. -/
def Obligations.SafeInputsAreFilteredAndTested : Prop :=
  ∀ (s : State) (t : Nat),
    (s.chip.ready t → ∀ (i : Fin 24) (pinsA pinsB : PinLevels), ∃ s', exec (.safeInputSample t pinsA pinsB) s = .next s' ∧ s'.chip.now = t
      ∧ (s.chip.safeIn i.val).a.follows (s'.chip.safeIn i.val).a t (bits (s.chip.ws (inOff i.val + 4)) 14 0) ((s.chip.at t).inMasked (s.chip.ws (inOff i.val)) false) (pinsA.byA.testBit i.val)
      ∧ (s.chip.safeIn i.val).b.follows (s'.chip.safeIn i.val).b t (bits (s.chip.ws (inOff i.val + 4)) 14 0) ((s.chip.at t).inMasked (s.chip.ws (inOff i.val)) true) (pinsB.byA.testBit i.val)
      ∧ (s.chip.safeInB i.val).a.follows (s'.chip.safeInB i.val).a t (bits (s.chip.ws (inOff i.val + 4)) 14 0) ((s.chip.at t).inMasked (s.chip.ws (inOff i.val)) false) (pinsA.byB.testBit i.val)
      ∧ (s.chip.safeInB i.val).b.follows (s'.chip.safeInB i.val).b t (bits (s.chip.ws (inOff i.val + 4)) 14 0) ((s.chip.at t).inMasked (s.chip.ws (inOff i.val)) true) (pinsB.byB.testBit i.val)
      ∧ (s'.chip.safeIn i.val).fast = (if (s.chip.at t).inMasked (s.chip.ws (inOff i.val)) false = true then (s.chip.safeIn i.val).fast
          else fastWatch (s.chip.ws (inOff i.val)) && !pinsA.byA.testBit i.val)
      ∧ (s'.chip.safeIn i.val).fastB = (if (s.chip.at t).inMasked (s.chip.ws (inOff i.val)) true = true then (s.chip.safeIn i.val).fastB
          else fastWatch (s.chip.ws (inOff i.val)) && demB (s.chip.ws (inOff i.val)) (pinsB.byA.testBit i.val))
      ∧ { s'.chip.safeIn i.val with a := (s.chip.safeIn i.val).a, b := (s.chip.safeIn i.val).b, fast := (s.chip.safeIn i.val).fast, fastB := (s.chip.safeIn i.val).fastB } = s.chip.safeIn i.val
      ∧ { s'.chip.safeInB i.val with a := (s.chip.safeInB i.val).a, b := (s.chip.safeInB i.val).b } = s.chip.safeInB i.val
      ∧ (∀ k < 8, ∀ st : Nat, tabGet (fun _ => (none : Option Nat)) s.chip.weir.pulse k = some st → s.chip.weir.tpLow.testBit k = true →
          (st + bits (s.chip.ws 0x40) 25 16 * 800 ≤ t → s'.chip.weir.tpLow.testBit k = false ∧ Output.pin pinTP k true ∈ s'.chip.out)
          ∧ (t < st + bits (s.chip.ws 0x40) 25 16 * 800 → s'.chip.weir.tpLow.testBit k = true))
      ∧ s.chip.demandSeen s'.chip) ∧
    (s.chip.ready t → ∀ (i : Fin 24) (b : Bool), (fastWatch (s.chip.ws (inOff i.val)) && !(b && (s.chip.ws (inOff i.val)).testBit 26) && !(s.chip.at t).inMasked (s.chip.ws (inOff i.val)) b) = false →
      ∃ s', exec (.fastDemand t i b) s = .next s' ∧ s'.chip.now = t
      ∧ s'.chip.weir = s.chip.weir
      ∧ s.chip.regsSame s'.chip) ∧
    (s.chip.ready t → ∀ (i : Fin 24) (b : Bool), (fastWatch (s.chip.ws (inOff i.val)) && !(b && (s.chip.ws (inOff i.val)).testBit 26) && !(s.chip.at t).inMasked (s.chip.ws (inOff i.val)) b) = true →
      ∃ s', exec (.fastDemand t i b) s = .next s' ∧ s'.chip.now = t
      ∧ (s'.chip.safeIn i.val).fast = (!b || (s.chip.safeIn i.val).fast)
      ∧ (s'.chip.safeIn i.val).fastB = (b || (s.chip.safeIn i.val).fastB)
      ∧ (s'.chip.safeIn i.val).a = (s.chip.safeIn i.val).a
      ∧ (s'.chip.safeIn i.val).b = (s.chip.safeIn i.val).b
      ∧ s'.chip.weir.insB = s.chip.weir.insB
      ∧ s'.chip.functionDemand = true
      ∧ s.chip.demandSeen s'.chip
      ∧ (s.chip.wstate = 2 → (s.chip.reg WEI_CAUSE).testBit 1 = false → s'.chip.weir.adoptedA = true ∧ s'.chip.weir.adopted = false
          ∧ (∀ k < 24, (s'.chip.weir.outA.testBit k = true ↔ s.chip.weir.outA.testBit k = true ∧ (s.chip.ws (pairOff k)).testBit 31 = true ∧ ((s.chip.ws (pairOff k)).testBit 29 = true ∨ s.chip.drives = true) ∧ (s.chip.ws (groupOff (bits (s.chip.ws (pairOff k)) 27 24))).testBit 30 = true)
            ∧ (s'.chip.weir.outB.testBit k = true ↔ s.chip.weir.outB.testBit k = true ∧ (s.chip.ws (pairOff k)).testBit 31 = true ∧ ((s.chip.ws (pairOff k)).testBit 29 = true ∨ s.chip.drives = true))))) ∧
    (s.chip.ready t → ∀ k : Fin 8, (s.chip.at t).tpPhase k.val ≠ some 0 →
      ∃ s', exec (.testPulseStart t k) s = .next s' ∧ s'.chip.now = t
      ∧ s'.chip.weir = s.chip.weir
      ∧ s.chip.regsSame s'.chip) ∧
    (s.chip.ready t → ∀ k : Fin 8, (s.chip.at t).tpPhase k.val = some 0 →
      ∃ s', exec (.testPulseStart t k) s = .next s' ∧ s'.chip.now = t
      ∧ tabGet (fun _ => (none : Option Nat)) s'.chip.weir.pulse k.val = some t
      ∧ s'.chip.weir.tpLow.testBit k.val = true
      ∧ s.chip.sent s'.chip [.pin pinTP k.val false]
      ∧ s'.chip.weir.ins = s.chip.weir.ins
      ∧ s.chip.regsSame s'.chip) ∧
    (s.chip.ready t → ∀ (k : Fin 8) (pinsA pinsB : PinLevels) (lvl : Bool), tabGet (fun _ => (none : Option Nat)) s.chip.weir.pulse k.val = none →
      ∃ s', exec (.testPulseEnd t k pinsA pinsB lvl) s = .next s' ∧ s'.chip.now = t
      ∧ s'.chip.weir = s.chip.weir
      ∧ s.chip.regsSame s'.chip) ∧
    (s.chip.ready t → ∀ (k : Fin 8) (pinsA pinsB : PinLevels) (lvl : Bool), ∀ st : Nat, tabGet (fun _ => (none : Option Nat)) s.chip.weir.pulse k.val = some st →
      ¬ (st + (bits (s.chip.ws 0x40) 25 16 - 1) * 800 ≤ t ∧ t < st + bits (s.chip.ws 0x40) 25 16 * 800) →
      ∃ s', exec (.testPulseEnd t k pinsA pinsB lvl) s = .next s' ∧ s'.chip.now = t
      ∧ s'.chip.weir = s.chip.weir
      ∧ s.chip.regsSame s'.chip) ∧
    (s.chip.ready t → ∀ (k : Fin 8) (pinsA pinsB : PinLevels) (lvl : Bool) (i : Fin 24), ∀ st : Nat, tabGet (fun _ => (none : Option Nat)) s.chip.weir.pulse k.val = some st →
      st + (bits (s.chip.ws 0x40) 25 16 - 1) * 800 ≤ t →
      t < st + bits (s.chip.ws 0x40) 25 16 * 800 →
      ∃ s', exec (.testPulseEnd t k pinsA pinsB lvl) s = .next s' ∧ s'.chip.now = t
      ∧ s'.chip.safeIn i.val = (s.chip.safeIn i.val).tested (s.chip.ws (inOff i.val)) k.val (pinsA.byA.testBit i.val) (pinsB.byA.testBit i.val) lvl
      ∧ s'.chip.safeInB i.val = (s.chip.safeInB i.val).tested (s.chip.ws (inOff i.val)) k.val (pinsA.byB.testBit i.val) (pinsB.byB.testBit i.val) lvl
      ∧ ((s.chip.safeIn i.val).tpfA = false ∧ (s'.chip.safeIn i.val).tpfA = true ∨ (s.chip.safeIn i.val).tpfB = false ∧ (s'.chip.safeIn i.val).tpfB = true →
          s'.chip.flag WEI_INT_STATUS__TP_FAULT = true)
      ∧ (s'.chip.reg WEI_CAUSE).testBit 3 = (List.range 24).any (fun j => (s'.chip.safeIn j).tpFault || (s'.chip.safeInB j).tpFault)
      ∧ s'.chip.fld WEI_IN_TPF__TPF = inMask (fun j => (s'.chip.safeIn j).tpFault)
      ∧ (s.chip.wstate ≤ 2 → (s.chip.reg WEI_CAUSE).testBit 3 = false → (s'.chip.reg WEI_CAUSE).testBit 3 = true → s'.chip.wstate = 3)) ∧
    (s.chip.ready t → ∀ g : Fin 16, ¬ (s.chip.ss1Runs g.val = true ∧ (s.chip.at t).phase = 0 ∧ s.chip.weirTickHere = true ∧ s.chip.weir.tripT + bits (s.chip.ws (groupOff g.val)) 13 0 * 800000 ≤ t) →
      ∃ s', exec (.ss1Expiry t g) s = .next s' ∧ s'.chip.now = t
      ∧ s'.chip.weir = s.chip.weir
      ∧ s.chip.regsSame s'.chip) ∧
    (s.chip.ready t → ∀ g : Fin 16, (s.chip.ss1Runs g.val = true ∧ (s.chip.at t).phase = 0 ∧ s.chip.weirTickHere = true ∧ s.chip.weir.tripT + bits (s.chip.ws (groupOff g.val)) 13 0 * 800000 ≤ t) →
      ∃ s', exec (.ss1Expiry t g) s = .next s' ∧ s'.chip.now = t
      ∧ s'.chip.weir.off = s.chip.weir.off ||| 2 ^ g.val
      ∧ s'.chip.ss1Runs g.val = false
      ∧ (∀ k < 24, bits (s.chip.ws (pairOff k)) 27 24 = g.val → (s.chip.weir.adoptedA = true → s'.chip.weir.outA.testBit k = false) ∧ (s.chip.weir.adopted = true → s'.chip.weir.outB.testBit k = false))
      ∧ s'.chip.wstate = 3
      ∧ s.chip.regsBut s'.chip [WEI_STATUS, WEI_IN_DEM, WEI_IN_DISC, WEI_IN_TPF, WEI_OUT_ON])

/-- WEIR_PSET_LOAD, PSET_CHECK_COMPLETE, CONFIRM_WINDOW_EXPIRY, WEIR_PSET_CONFIRM, PSET_FLASH_WRITE_DONE. -/
def Obligations.ParameterSetsAreCheckedThenConfirmed : Prop :=
  ∀ (s : State) (t : Nat),
    (∀ (ifc : Iface) (tag target : Word) (pl : List Word), s.chip.takes t 0x0B01 ifc tag target pl 0 →
      s.chip.dryOrMoored = false →
      ∃ s', exec (.weirPsetLoad t ifc tag target pl) s = .next s'
      ∧ Done s t 0x0B01 ifc tag target pl stWRONG_STATE 0 [] s'
      ∧ s'.chip.weir = s.chip.weir
      ∧ s.chip.regsSame s'.chip) ∧
    (∀ (ifc : Iface) (tag target : Word) (pl : List Word), s.chip.takes t 0x0B01 ifc tag target pl 0 →
      s.chip.dryOrMoored = true →
      (wordAt pl 0 % 4 ≠ 0 ∨ 65600 < wordAt pl 0) →
      ∃ s', exec (.weirPsetLoad t ifc tag target pl) s = .next s'
      ∧ Done s t 0x0B01 ifc tag target pl stINVALID_ARG 0 [] s'
      ∧ s'.chip.weir = s.chip.weir
      ∧ s.chip.regsSame s'.chip) ∧
    (∀ (ifc : Iface) (tag target : Word) (pl : List Word), s.chip.takes t 0x0B01 ifc tag target pl 0 →
      s.chip.dryOrMoored = true →
      wordAt pl 0 % 4 = 0 →
      wordAt pl 0 ≤ 65600 →
      65600 < wordAt pl 0 + bits (wordAt pl 1) 16 0 →
      ∃ s', exec (.weirPsetLoad t ifc tag target pl) s = .next s'
      ∧ Done s t 0x0B01 ifc tag target pl stINVALID_ARG 1 [] s'
      ∧ s'.chip.weir = s.chip.weir
      ∧ s.chip.regsSame s'.chip) ∧
    (∀ (ifc : Iface) (tag target : Word) (pl : List Word), s.chip.takes t 0x0B01 ifc tag target pl 0 →
      s.chip.dryOrMoored = true →
      wordAt pl 0 % 4 = 0 →
      wordAt pl 0 + bits (wordAt pl 1) 16 0 ≤ 65600 →
      s.chip.longOf 0x0B02 ≠ none →
      ∃ s', exec (.weirPsetLoad t ifc tag target pl) s = .next s'
      ∧ Done s t 0x0B01 ifc tag target pl stBUSY 0 [] s'
      ∧ s'.chip.weir = s.chip.weir
      ∧ s.chip.regsSame s'.chip) ∧
    (∀ (ifc : Iface) (tag target : Word) (pl : List Word), s.chip.takes t 0x0B01 ifc tag target pl 0 →
      s.chip.dryOrMoored = true →
      wordAt pl 0 % 4 = 0 →
      wordAt pl 0 + bits (wordAt pl 1) 16 0 ≤ 65600 →
      s.chip.longOf 0x0B02 = none →
      (wordAt pl 1).testBit 31 = false →
      ∃ s', exec (.weirPsetLoad t ifc tag target pl) s = .next s'
      ∧ Done s t 0x0B01 ifc tag target pl stOK 0 [] s'
      ∧ s'.chip.weir = { s.chip.weir with stage := memWrite 0 (wordAt pl 0) (dataBytes (pl.drop 2) (bits (wordAt pl 1) 16 0)) (if wordAt pl 0 = 0 then [] else s.chip.weir.stage), okT := none }
      ∧ s'.chip.flag WEI_PSET_STAGE__STAGED = false
      ∧ s'.chip.fld WEI_PSET_STAGE__CHECK_OK = 0
      ∧ s.chip.regsBut s'.chip [WEI_PSET_STAGE]) ∧
    (∀ (ifc : Iface) (tag target : Word) (pl : List Word), s.chip.takes t 0x0B01 ifc tag target pl 0 →
      s.chip.dryOrMoored = true →
      wordAt pl 0 % 4 = 0 →
      wordAt pl 0 + bits (wordAt pl 1) 16 0 ≤ 65600 →
      s.chip.longOf 0x0B02 = none →
      (wordAt pl 1).testBit 31 = true →
      s.chip.longFree 0x0B01 0 = true →
      ∃ s', exec (.weirPsetLoad t ifc tag target pl) s = .next s'
      ∧ Done s t 0x0B01 ifc tag target pl stACCEPTED 0 [] s'
      ∧ s'.chip.weir = { s.chip.weir with stage := memWrite 0 (wordAt pl 0) (dataBytes (pl.drop 2) (bits (wordAt pl 1) 16 0)) (if wordAt pl 0 = 0 then [] else s.chip.weir.stage), okT := none }
      ∧ s'.chip.flag WEI_PSET_STAGE__STAGED = true
      ∧ s'.chip.fld WEI_PSET_STAGE__CHECK_OK = 0
      ∧ (s'.chip.longOf 0x0B01).isSome = true
      ∧ s'.chip.hst.longs.length = s.chip.hst.longs.length + 1
      ∧ s.chip.regsBut s'.chip [WEI_PSET_STAGE]) ∧
    (∀ (ifc : Iface) (tag target : Word) (pl : List Word), s.chip.takes t 0x0B01 ifc tag target pl 0 →
      s.chip.dryOrMoored = true →
      wordAt pl 0 % 4 = 0 →
      wordAt pl 0 + bits (wordAt pl 1) 16 0 ≤ 65600 →
      s.chip.longOf 0x0B02 = none →
      (wordAt pl 1).testBit 31 = true →
      s.chip.longFree 0x0B01 0 = false →
      ∃ s', exec (.weirPsetLoad t ifc tag target pl) s = .next s'
      ∧ Done s t 0x0B01 ifc tag target pl stBUSY 0 [] s'
      ∧ s'.chip.weir = s.chip.weir
      ∧ s.chip.regsSame s'.chip) ∧
    (s.chip.ready t → ∀ d : Word, s.chip.longOf 0x0B01 = none →
      ∃ s', exec (.psetCheckComplete ⟨t, d⟩) s = .next s' ∧ s'.chip.now = t
      ∧ s'.chip.weir = s.chip.weir
      ∧ s.chip.regsSame s'.chip) ∧
    (s.chip.ready t → ∀ (d : Word) (l : LongCmd), s.chip.longOf 0x0B01 = some l →
      ∀ p : Nat × Nat, setFailure s.chip.boot.otp s.chip.weir.stage (d == 0) = some p →
      ∃ s', exec (.psetCheckComplete ⟨t, d⟩) s = .next s' ∧ s'.chip.now = t
      ∧ s'.chip.finalGone l.org (replyWords l.op l.tag stINVALID_ARG (p.1 * 2 ^ 12 + p.2) [])
      ∧ s'.chip.hst.longs = s.chip.hst.longs.erase l
      ∧ s'.chip.fld WEI_PSET_STAGE__CODE = p.1
      ∧ s'.chip.fld WEI_PSET_STAGE__INDEX = p.2
      ∧ s'.chip.flag WEI_INT_STATUS__PSET_CHECKED = true
      ∧ s'.chip.weir = s.chip.weir
      ∧ s'.chip.reg WEI_PSET_SCRC = (setCrc s.chip.weir.stage).toNat) ∧
    (s.chip.ready t → ∀ (d : Word) (l : LongCmd), s.chip.longOf 0x0B01 = some l →
      setFailure s.chip.boot.otp s.chip.weir.stage (d == 0) = none →
      ∃ s', exec (.psetCheckComplete ⟨t, d⟩) s = .next s' ∧ s'.chip.now = t
      ∧ s'.chip.finalGone l.org (replyWords l.op l.tag stOK 0 [setCrc s.chip.weir.stage, setCrc s.chip.weir.stage,
          w32 (setW s.chip.weir.stage 4), w32 (bits (setW s.chip.weir.stage 8) 31 16)])
      ∧ s'.chip.hst.longs = s.chip.hst.longs.erase l
      ∧ s'.chip.fld WEI_PSET_STAGE__CODE = 0
      ∧ s'.chip.fld WEI_PSET_STAGE__INDEX = 0
      ∧ s'.chip.fld WEI_PSET_STAGE__CHECK_OK = 1
      ∧ s'.chip.flag WEI_INT_STATUS__PSET_CHECKED = true
      ∧ s'.chip.weir = { s.chip.weir with okT := some t }
      ∧ s'.chip.reg WEI_PSET_SCRC = (setCrc s.chip.weir.stage).toNat) ∧
    (s.chip.ready t →
      (s.chip.weir.okT = none ∨ s.chip.longOf 0x0B02 ≠ none ∨ s.chip.weir.okT.any (fun t0 => decide (t ≤ t0 + 480000000000)) = true) →
      ∃ s', exec (.confirmWindowExpiry t) s = .next s' ∧ s'.chip.now = t
      ∧ s'.chip.weir = s.chip.weir
      ∧ s.chip.regsSame s'.chip) ∧
    (s.chip.ready t → ∀ t0 : Nat, s.chip.weir.okT = some t0 →
      t0 + 480000000000 < t →
      s.chip.longOf 0x0B02 = none →
      ∃ s', exec (.confirmWindowExpiry t) s = .next s' ∧ s'.chip.now = t
      ∧ s'.chip.fld WEI_PSET_STAGE__CHECK_OK = 0
      ∧ s'.chip.weir = { s.chip.weir with okT := none }
      ∧ s.chip.regsBut s'.chip [WEI_PSET_STAGE]) ∧
    (∀ (ifc : Iface) (tag target : Word) (pl : List Word), s.chip.takes t 0x0B02 ifc tag target pl 0 →
      s.chip.dryOrMoored = false →
      ∃ s', exec (.weirPsetConfirm t ifc tag target pl) s = .next s'
      ∧ Done s t 0x0B02 ifc tag target pl stWRONG_STATE 0 [] s'
      ∧ s'.chip.weir = s.chip.weir
      ∧ s.chip.regsSame s'.chip) ∧
    (∀ (ifc : Iface) (tag target : Word) (pl : List Word), s.chip.takes t 0x0B02 ifc tag target pl 0 →
      s.chip.dryOrMoored = true →
      s.chip.longOf 0x0B02 ≠ none →
      ∃ s', exec (.weirPsetConfirm t ifc tag target pl) s = .next s'
      ∧ Done s t 0x0B02 ifc tag target pl stBUSY 0 [] s'
      ∧ s'.chip.weir = s.chip.weir
      ∧ s.chip.regsSame s'.chip) ∧
    (∀ (ifc : Iface) (tag target : Word) (pl : List Word), s.chip.takes t 0x0B02 ifc tag target pl 0 →
      s.chip.dryOrMoored = true →
      s.chip.longOf 0x0B02 = none →
      ¬ s.chip.weir.okT.any (fun t0 => decide (t ≤ t0 + 480000000000)) = true →
      ∃ s', exec (.weirPsetConfirm t ifc tag target pl) s = .next s'
      ∧ Done s t 0x0B02 ifc tag target pl stNOT_FOUND 0 [] s'
      ∧ s'.chip.weir = s.chip.weir
      ∧ s.chip.regsSame s'.chip) ∧
    (∀ (ifc : Iface) (tag target : Word) (pl : List Word), s.chip.takes t 0x0B02 ifc tag target pl 0 →
      s.chip.dryOrMoored = true →
      s.chip.longOf 0x0B02 = none →
      s.chip.weir.okT.any (fun t0 => decide (t ≤ t0 + 480000000000)) = true →
      (wordAt pl 0 ≠ setW s.chip.weir.stage 4 ∨ wordAt pl 1 ≠ setW s.chip.weir.stage 0x10) →
      ∃ s', exec (.weirPsetConfirm t ifc tag target pl) s = .next s'
      ∧ Done s t 0x0B02 ifc tag target pl stINVALID_ARG (if wordAt pl 0 ≠ setW s.chip.weir.stage 4 then 0 else 1) [] s'
      ∧ s'.chip.weir = { s.chip.weir with stage := [], okT := none }
      ∧ s'.chip.flag WEI_PSET_STAGE__STAGED = false
      ∧ s'.chip.fld WEI_PSET_STAGE__CHECK_OK = 0
      ∧ s.chip.regsBut s'.chip [WEI_PSET_STAGE]) ∧
    (∀ (ifc : Iface) (tag target : Word) (pl : List Word), s.chip.takes t 0x0B02 ifc tag target pl 0 →
      s.chip.dryOrMoored = true →
      s.chip.longOf 0x0B02 = none →
      s.chip.weir.okT.any (fun t0 => decide (t ≤ t0 + 480000000000)) = true →
      wordAt pl 0 = setW s.chip.weir.stage 4 →
      wordAt pl 1 = setW s.chip.weir.stage 0x10 →
      ∃ s', exec (.weirPsetConfirm t ifc tag target pl) s = .next s'
      ∧ Done s t 0x0B02 ifc tag target pl (if s.chip.longFree 0x0B02 0 = true then stACCEPTED else stBUSY) 0 [] s'
      ∧ s'.chip.weir = s.chip.weir
      ∧ s.chip.regsSame s'.chip
      ∧ (s.chip.longFree 0x0B02 0 = true → (s'.chip.longOf 0x0B02).isSome = true)) ∧
    (s.chip.ready t → ∀ ok : Bool, s.chip.longOf 0x0B02 = none →
      ∃ s', exec (.psetFlashWriteDone t ok) s = .next s' ∧ s'.chip.now = t
      ∧ s'.chip.weir = s.chip.weir
      ∧ s.chip.regsSame s'.chip
      ∧ s'.chip.boot = s.chip.boot) ∧
    (s.chip.ready t → ∀ l : LongCmd, s.chip.longOf 0x0B02 = some l →
      ∃ s', exec (.psetFlashWriteDone t false) s = .next s' ∧ s'.chip.now = t
      ∧ s'.chip.finalGone l.org (replyWords l.op l.tag stIO_ERR 0 [])
      ∧ s'.chip.hst.longs = s.chip.hst.longs.erase l
      ∧ s'.chip.weir = s.chip.weir
      ∧ s'.chip.boot = s.chip.boot) ∧
    (s.chip.ready t → ∀ l : LongCmd, s.chip.longOf 0x0B02 = some l →
      ∃ s', exec (.psetFlashWriteDone t true) s = .next s' ∧ s'.chip.now = t
      ∧ s'.chip.finalGone l.org (replyWords l.op l.tag stOK 0 [])
      ∧ s'.chip.hst.longs = s.chip.hst.longs.erase l
      ∧ s'.chip.weir = { s.chip.weir with conf := s.chip.weir.stage, confV := true, swap := s.chip.opState != 0, okT := none }
      ∧ s'.chip.fld WEI_PSET_STAGE__CHECK_OK = 0
      ∧ (∀ i < min (setLen s.chip.weir.stage + 64) 65536, tabGet (fun _ => (0xFF : Byte)) s'.chip.boot.flash (0x0800000 + i) = tabGet (fun _ => (0 : Byte)) s.chip.weir.stage i
          ∧ tabGet (fun _ => (0xFF : Byte)) s'.chip.boot.flash (0x0810000 + i) = tabGet (fun _ => (0 : Byte)) s.chip.weir.stage i)
      ∧ { s'.chip.boot with flash := [] } = { s.chip.boot with flash := [] })

/-- SAFETY_DATAGRAM_RECEIVED and SAFETY_WATCHDOG_EXPIRY. -/
def Obligations.SafetyFramesAreCheckedAndTimed : Prop :=
  ∀ (s : State) (t : Nat),
    (s.chip.ready t → ∀ k : Fin 256, ¬ ((s.chip.ws (connOff k.val)).testBit 31 = true ∧ rxKind (connKind (s.chip.ws (connOff k.val))) = true
        ∧ (s.chip.conn k.val).last + bits (s.chip.ws (connOff k.val + 8)) 31 16 * 8000 < t
        ∧ (s.chip.cstate k.val = 2 ∨ (s.chip.cstate k.val = 1 ∧ (s.chip.conn k.val).last = s.chip.weir.actT))) →
      ∃ s', exec (.safetyWatchdogExpiry t k) s = .next s' ∧ s'.chip.now = t
      ∧ s'.chip.weir = s.chip.weir
      ∧ s.chip.regsSame s'.chip) ∧
    (s.chip.ready t → ∀ k : Fin 256, ((s.chip.ws (connOff k.val)).testBit 31 = true ∧ rxKind (connKind (s.chip.ws (connOff k.val))) = true
        ∧ (s.chip.conn k.val).last + bits (s.chip.ws (connOff k.val + 8)) 31 16 * 8000 < t
        ∧ (s.chip.cstate k.val = 2 ∨ (s.chip.cstate k.val = 1 ∧ (s.chip.conn k.val).last = s.chip.weir.actT))) →
      ∃ s', exec (.safetyWatchdogExpiry t k) s = .next s' ∧ s'.chip.now = t
      ∧ s'.chip.cstate k.val = 3
      ∧ s'.chip.fld (WEI_CONN_STAT__LAST_ERR k.val) = 7
      ∧ (s'.chip.conn k.val).run = 0
      ∧ (s.chip.weir.actV = true → (s'.chip.reg WEI_CAUSE).testBit 10 = true)
      ∧ (s.chip.weir.actV = true → (s.chip.reg WEI_CAUSE).testBit 10 = false → s.chip.wstate = 2 → s'.chip.wstate = 3 ∧ s'.chip.pnd.weirTrip = true)
      ∧ (∀ j < 256, j ≠ k.val → s'.chip.cstate j = s.chip.cstate j)) ∧
    (s.chip.ready t → ∀ (m : Fin 2) (bs : List Byte), (s.chip.weir.actV = false ∨ s.chip.safetyPort = 0) →
      ∃ s', exec (.safetyDatagramReceived t m bs) s = .next s' ∧ s'.chip.now = t
      ∧ s'.chip.weir = s.chip.weir
      ∧ s.chip.regsSame s'.chip) ∧
    (s.chip.ready t → ∀ (m : Fin 2) (bs : List Byte), s.chip.weir.actV = true →
      s.chip.safetyPort ≠ 0 →
      (if bs = [] then none else cutFrames 8 bs) = none →
      ∃ s', exec (.safetyDatagramReceived t m bs) s = .next s' ∧ s'.chip.now = t
      ∧ s'.chip.fld WEI_SL_UNKNOWN__UNKNOWN = satAdd WEI_SL_UNKNOWN__UNKNOWN (s.chip.fld WEI_SL_UNKNOWN__UNKNOWN) 1
      ∧ s'.chip.weir = s.chip.weir
      ∧ s.chip.regsBut s'.chip [WEI_SL_UNKNOWN]) ∧
    (s.chip.ready t → ∀ (m : Fin 2) (bs : List Byte), s.chip.weir.actV = true →
      s.chip.safetyPort ≠ 0 →
      bs ≠ [] →
      cutFrames 8 bs = some [bs] →
      (List.range 256).find? (fun k => (s.chip.ws (connOff k)).testBit 31 && (connKind (s.chip.ws (connOff k)) == 3 || connKind (s.chip.ws (connOff k)) == 4)
        && s.chip.ws (connOff k + 4) == wordAt (bytesWords (bs.take 4)) 0) = none →
      ∃ s', exec (.safetyDatagramReceived t m bs) s = .next s' ∧ s'.chip.now = t
      ∧ s'.chip.fld WEI_SL_UNKNOWN__UNKNOWN = satAdd WEI_SL_UNKNOWN__UNKNOWN (s.chip.fld WEI_SL_UNKNOWN__UNKNOWN) 1
      ∧ s'.chip.weir = s.chip.weir
      ∧ s.chip.regsBut s'.chip [WEI_SL_UNKNOWN]) ∧
    (s.chip.ready t → ∀ (m : Fin 2) (bs : List Byte), ∀ k : Nat, (List.range 256).find? (fun k => (s.chip.ws (connOff k)).testBit 31 && (connKind (s.chip.ws (connOff k)) == 3 || connKind (s.chip.ws (connOff k)) == 4)
        && s.chip.ws (connOff k + 4) == wordAt (bytesWords (bs.take 4)) 0) = some k →
      s.chip.weir.actV = true →
      s.chip.safetyPort ≠ 0 →
      bs ≠ [] →
      cutFrames 8 bs = some [bs] →
      s.chip.cstate k ≠ 1 →
      s.chip.cstate k ≠ 2 →
      s.chip.cstate k ≠ 3 →
      ∃ s', exec (.safetyDatagramReceived t m bs) s = .next s' ∧ s'.chip.now = t
      ∧ s'.chip.weir = s.chip.weir
      ∧ s.chip.regsSame s'.chip) ∧
    (s.chip.ready t → ∀ (m : Fin 2) (bs : List Byte), ∀ k : Nat, (List.range 256).find? (fun k => (s.chip.ws (connOff k)).testBit 31 && (connKind (s.chip.ws (connOff k)) == 3 || connKind (s.chip.ws (connOff k)) == 4)
        && s.chip.ws (connOff k + 4) == wordAt (bytesWords (bs.take 4)) 0) = some k →
      s.chip.weir.actV = true →
      s.chip.safetyPort ≠ 0 →
      bs ≠ [] →
      cutFrames 8 bs = some [bs] →
      (s.chip.cstate k = 1 ∨ s.chip.cstate k = 2 ∨ s.chip.cstate k = 3) →
      (s.chip.at t).frameErr k bs true = 0 →
      ∃ s', exec (.safetyDatagramReceived t m bs) s = .next s' ∧ s'.chip.now = t
      ∧ s'.chip.fld (WEI_CONN_STAT__LAST_SEQ k) = bits (wordAt (bytesWords bs) 1) 31 16
      ∧ (s'.chip.conn k).last = t
      ∧ (s'.chip.conn k).run = min ((s.chip.conn k).run + 1) 255
      ∧ (s'.chip.conn k).anySeq = false
      ∧ s'.chip.cstate k = (if s.chip.cstate k ≠ 2 ∧ min ((s.chip.conn k).run + 1) 255 < bits (s.chip.ws (connOff k + 0x0C)) 7 0 then s.chip.cstate k else 2)
      ∧ (s'.chip.conn k).data = ((bytesWords bs).drop 3).take ((kindLen (s.chip.ws (connOff k)) + 3) / 4)
      ∧ (s.chip.cstate k = 2 → (s.chip.conn k).anySeq = false → s'.chip.fld (WEI_CONN_CNT__LOST k) = satAdd (WEI_CONN_CNT__LOST k) (s.chip.fld (WEI_CONN_CNT__LOST k)) ((bits (wordAt (bytesWords bs) 1) 31 16 + 2 ^ 16 - s.chip.fld (WEI_CONN_STAT__LAST_SEQ k)) % 2 ^ 16 - 1))
      ∧ s'.chip.flag (WEI_CONN_STAT__DEMAND k) = (connKind (s.chip.ws (connOff k)) == 4 && (wordAt (bytesWords bs) 3).testBit 0)
      ∧ s'.chip.flag (WEI_CONN_STAT__RESET_BIT k) = (connKind (s.chip.ws (connOff k)) == 4 && (wordAt (bytesWords bs) 3).testBit 1)
      ∧ ((s'.chip.cstate k ≠ 2 ∨ s'.chip.flag (WEI_CONN_STAT__DEMAND k) = true) → (s'.chip.reg WEI_CAUSE).testBit 10 = true)) ∧
    (s.chip.ready t → ∀ (m : Fin 2) (bs : List Byte), ∀ k : Nat, (List.range 256).find? (fun k => (s.chip.ws (connOff k)).testBit 31 && (connKind (s.chip.ws (connOff k)) == 3 || connKind (s.chip.ws (connOff k)) == 4)
        && s.chip.ws (connOff k + 4) == wordAt (bytesWords (bs.take 4)) 0) = some k →
      s.chip.weir.actV = true →
      s.chip.safetyPort ≠ 0 →
      bs ≠ [] →
      cutFrames 8 bs = some [bs] →
      (s.chip.cstate k = 1 ∨ s.chip.cstate k = 2 ∨ s.chip.cstate k = 3) →
      (s.chip.at t).frameErr k bs true ≠ 0 →
      ∃ s', exec (.safetyDatagramReceived t m bs) s = .next s' ∧ s'.chip.now = t
      ∧ (s'.chip.conn k).run = 0
      ∧ (s'.chip.conn k).last = (s.chip.conn k).last
      ∧ s'.chip.fld (if (s.chip.at t).frameErr k bs true ≤ 2 then WEI_CONN_CNT__CODE_ERR k else if (s.chip.at t).frameErr k bs true = 4 ∨ (s.chip.at t).frameErr k bs true = 5 then WEI_CONN_CNT__SEQ_ERR k else WEI_CONN_CNT__AGE_ERR k)
          = satAdd (WEI_CONN_CNT__CODE_ERR k) (s.chip.fld (if (s.chip.at t).frameErr k bs true ≤ 2 then WEI_CONN_CNT__CODE_ERR k else if (s.chip.at t).frameErr k bs true = 4 ∨ (s.chip.at t).frameErr k bs true = 5 then WEI_CONN_CNT__SEQ_ERR k else WEI_CONN_CNT__AGE_ERR k)) 1
      ∧ s'.chip.fld (WEI_CONN_STAT__LAST_SEQ k) = s.chip.fld (WEI_CONN_STAT__LAST_SEQ k)
      ∧ (if (s.chip.at t).frameErr k bs true = 1 ∧ s.chip.cstate k = 2 ∧ (s.chip.conn k).codeT.any (fun u => decide (t ≤ u + 800000000)) = true
          then s'.chip.cstate k = 3 ∧ s'.chip.fld (WEI_CONN_STAT__LAST_ERR k) = 8 ∧ (s'.chip.reg WEI_CAUSE).testBit 10 = true
          else s'.chip.cstate k = s.chip.cstate k ∧ s'.chip.fld (WEI_CONN_STAT__LAST_ERR k) = (s.chip.at t).frameErr k bs true))

/-- HELLO_SEND, HELLO_RECEIVED, AQUEDUCT_LINK_UP and _DOWN, SYNC_RECEIVED, HEARTBEAT_RECEIVED, FAIL_RECEIVED, REF_CHECK, HB_CHK, JOIN_END, TWIN_HANDOVER. -/
def Obligations.TwinsHearEachOtherAndDecideRoles : Prop :=
  ∀ (s : State) (t : Nat),
    (s.chip.ready t →
      (s.chip.role = 2 ∨ s.chip.aqu.followed = true ∨ t < s.chip.aqu.helloT + 800000) →
      ∃ s', exec (.helloSend t) s = .next s' ∧ s'.chip.now = t
      ∧ s'.chip.aqu = s.chip.aqu
      ∧ s.chip.regsSame s'.chip) ∧
    (s.chip.ready t →
      ¬ (s.chip.role = 2 ∨ s.chip.aqu.followed = true ∨ t < s.chip.aqu.helloT + 800000) →
      ∃ s', exec (.helloSend t) s = .next s' ∧ s'.chip.now = t
      ∧ s'.chip.aqu.helloT = t
      ∧ (s.chip.aquOn = true → s.chip.sent s'.chip [.aqu 8 ((s.chip.aquHeader 8 s.chip.poundNum 0 8 false ++ [w32 (s.chip.role + s.chip.opState * 2 ^ 4 + s.chip.rank * 2 ^ 8), s.chip.configCrc]) ++ [crc32w (s.chip.aquHeader 8 s.chip.poundNum 0 8 false ++ [w32 (s.chip.role + s.chip.opState * 2 ^ 4 + s.chip.rank * 2 ^ 8), s.chip.configCrc]), 0])])
      ∧ s'.chip.aqu = { s.chip.aqu with helloT := t, seqTx := s'.chip.aqu.seqTx }
      ∧ s.chip.regsSame s'.chip) ∧
    (s.chip.ready t → ∀ (h : Hello), (s.chip.aquOn = false ∨ h.h.ok = false) →
      ∃ s', exec (.helloReceived t h) s = .next s' ∧ s'.chip.now = t
      ∧ s'.chip.aqu = s.chip.aqu
      ∧ s'.chip.fld AQU_CNT1__CRC_ERR_CNT = satAdd AQU_CNT1__CRC_ERR_CNT (s.chip.fld AQU_CNT1__CRC_ERR_CNT) (b2n s.chip.aquOn)
      ∧ s.chip.regsBut s'.chip [AQU_CNT1]) ∧
    (s.chip.ready t → ∀ (h : Hello), s.chip.aquOn = true →
      h.h.ok = true →
      h.role < 8 →
      ∃ s', exec (.helloReceived t h) s = .next s' ∧ s'.chip.now = t
      ∧ s'.chip.aqu.heardT = some t
      ∧ s'.chip.aqu.seqRx = some h.h.seq
      ∧ s'.chip.aqu.epoch = h.h.epoch
      ∧ s'.chip.aqu.hello = some h
      ∧ s'.chip.fld AQU_ROLE__TWIN_ROLE = h.role
      ∧ (s.chip.aqu.joinT ≠ none → (s.chip.opState ≠ 0 ∨ h.rank ≠ s.chip.rank) →
          s'.chip.aqu.joinHeard = max s.chip.aqu.joinHeard (if h.state = 0 ∧ h.role = 0 ∧ s.chip.rank < h.rank then 1 else 2))
      ∧ (s.chip.opState = 0 → h.rank = s.chip.rank → s'.chip.flag AQU_ROLE__RANK_CONFLICT = true ∧ s'.chip.aqu.joinT = none
          ∧ (∀ l : LongCmd, s.chip.aqu.joinT ≠ none → s.chip.joinCmd = some l → s'.chip.finalGone l.org (replyWords l.op l.tag stINVALID_ARG 0 [])))
      ∧ (s.chip.drives = true → s.chip.opState ≠ 0 → h.role = 3 → h.rank = s.chip.rank → s'.chip.flag AQU_ROLE__RANK_CONFLICT = true ∧ s'.chip.aqu.snapWant = s.chip.aqu.snapWant)
      ∧ (s.chip.drives = true → s.chip.opState ≠ 0 → h.role = 3 → h.rank ≠ s.chip.rank → h.crc = s.chip.configCrc → s'.chip.aqu.snapWant = true)
      ∧ (s.chip.drives = true → s.chip.opState ≠ 0 → h.role = 3 → h.rank ≠ s.chip.rank → h.crc ≠ s.chip.configCrc → s.chip.aqu.joinT = none →
          s'.chip.aqu.bulkTx = [] ∧ ∀ p ∈ s.chip.aqu.bulkTx ++ bulkParts ([0, 2, 3, 1].map s.chip.wholeMem), (s'.chip.out.drop s.chip.out.length).any (fun o => match o with
            | .aqu 9 ws => p.payload.isPrefixOf (ws.drop 4)
            | _ => false) = true)
      ∧ (s.chip.role = 3 → s.chip.aqu.restartT = none → h.rank ≠ s.chip.rank → s.chip.fld AQU_ROLE__RS_STEP = 1 → h.role ≤ 1 → h.state ≠ 0 →
          s'.chip.fld AQU_ROLE__RS_STEP = (if h.crc = s.chip.configCrc then 3 else 2))) ∧
    (s.chip.ready t →
      ∃ s', exec (.aqueductLinkUp t) s = .next s' ∧ s'.chip.now = t
      ∧ s'.chip.flag AQU_ROLE__LINK_UP = true
      ∧ s'.chip.fld AQU_LINK__LOCK = 15
      ∧ s'.chip.flag AQU_LINK__ALIGNED = true
      ∧ s'.chip.aqu = { s.chip.aqu with downP := if s.chip.flag AQU_ROLE__LINK_UP = true then s.chip.aqu.downP else some s.chip.poundNum }
      ∧ s.chip.regsBut s'.chip [AQU_ROLE, AQU_LINK]) ∧
    (s.chip.ready t → ∀ lanes : Fin 16, s.chip.flag AQU_ROLE__LINK_UP = false →
      ∃ s', exec (.aqueductLinkDown t lanes) s = .next s' ∧ s'.chip.now = t
      ∧ s'.chip.aqu = s.chip.aqu
      ∧ s.chip.regsSame s'.chip) ∧
    (s.chip.ready t → ∀ lanes : Fin 16, s.chip.flag AQU_ROLE__LINK_UP = true →
      ∃ s', exec (.aqueductLinkDown t lanes) s = .next s' ∧ s'.chip.now = t
      ∧ s'.chip.flag AQU_ROLE__LINK_UP = false
      ∧ s'.chip.fld AQU_LINK__LOCK = lanes.val
      ∧ s'.chip.flag AQU_LINK__ALIGNED = false
      ∧ s'.chip.flag AQU_INT_STATUS__LINK_DOWN = true
      ∧ s'.chip.fld AQU_CNT2__LINK_DOWN_CNT = satAdd AQU_CNT2__LINK_DOWN_CNT (s.chip.fld AQU_CNT2__LINK_DOWN_CNT) 1
      ∧ s'.chip.aqu.downP = some s.chip.poundNum
      ∧ s'.chip.aqu.seqRx = none
      ∧ s'.chip.aqu.bulkTx = []
      ∧ (s.chip.role = 3 → s.chip.aqu.restartT = none →
          s'.chip.flag AQU_INT_STATUS__RESYNC_FAIL = true ∧ s'.chip.aqu.restartT = some (t + 800000000) ∧ s'.chip.aqu.followed = false ∧ s'.chip.aqu.inbox = [])
      ∧ (s.chip.role ≠ 3 → s'.chip.aqu.followed = s.chip.aqu.followed ∧ s'.chip.aqu.inbox = s.chip.aqu.inbox)
      ∧ s.chip.regsBut s'.chip [AQU_ROLE, AQU_LINK, AQU_INT_STATUS, AQU_CNT2]) ∧
    (s.chip.ready t → ∀ y : AquSync, (s.chip.aquOn = false ∨ y.h.ok = false) →
      ∃ s', exec (.syncReceived t y) s = .next s' ∧ s'.chip.now = t
      ∧ s'.chip.aqu = s.chip.aqu
      ∧ s'.chip.fld AQU_CNT1__CRC_ERR_CNT = satAdd AQU_CNT1__CRC_ERR_CNT (s.chip.fld AQU_CNT1__CRC_ERR_CNT) (b2n s.chip.aquOn)
      ∧ s.chip.regsBut s'.chip [AQU_CNT1]) ∧
    (s.chip.ready t → ∀ y : AquSync, s.chip.aquOn = true →
      y.h.ok = true →
      ∃ s', exec (.syncReceived t y) s = .next s' ∧ s'.chip.now = t
      ∧ s'.chip.aqu.heardT = some t
      ∧ s'.chip.aqu.seqRx = some y.h.seq
      ∧ s'.chip.aqu.epoch = y.h.epoch
      ∧ s'.chip.aqu.aRx = y.aOwn
      ∧ (s.chip.aqu.joinT ≠ none → s'.chip.aqu.joinHeard = max s.chip.aqu.joinHeard 2)
      ∧ (s.chip.drives = true → s.chip.regsSame s'.chip ∧ s'.chip.aqu.syncE = s.chip.aqu.syncE)
      ∧ (s.chip.drives = false → s'.chip.aqu.syncE = y.aOwn - y.aPeer ∧ s.chip.regsBut s'.chip [AQU_LINK]
          ∧ s'.chip.fldI AQU_LINK__SYNC_OFS = clampI (-32768) 32767 (rdivEven ((y.aOwn - y.aPeer) * 625) 8))) ∧
    (s.chip.ready t → ∀ (h : Heartbeat), (s.chip.aquOn = false ∨ h.h.ok = false) →
      ∃ s', exec (.heartbeatReceived t h) s = .next s' ∧ s'.chip.now = t
      ∧ s'.chip.aqu = s.chip.aqu
      ∧ s'.chip.fld AQU_CNT1__CRC_ERR_CNT = satAdd AQU_CNT1__CRC_ERR_CNT (s.chip.fld AQU_CNT1__CRC_ERR_CNT) (b2n s.chip.aquOn)
      ∧ s.chip.regsBut s'.chip [AQU_CNT1]) ∧
    (s.chip.ready t → ∀ (h : Heartbeat), s.chip.aquOn = true →
      h.h.ok = true →
      ∃ s', exec (.heartbeatReceived t h) s = .next s' ∧ s'.chip.now = t
      ∧ s'.chip.aqu.heardT = some t
      ∧ s'.chip.aqu.seqRx = some h.h.seq
      ∧ s'.chip.aqu.epoch = h.h.epoch
      ∧ s'.chip.aqu.beat = some h
      ∧ s'.chip.aqu.beatP = some h.pound.toNat
      ∧ s'.chip.aqu.missed = 0
      ∧ s'.chip.aqu.failed = false
      ∧ s'.chip.aqu.handed = false
      ∧ (s.chip.aqu.joinT ≠ none → s'.chip.aqu.joinHeard = max s.chip.aqu.joinHeard 2)
      ∧ s'.chip.fld AQU_ROLE__TWIN_ROLE = bits h.w0.toNat 2 0
      ∧ (s.chip.role = 1 → bits h.w0.toNat 2 0 ≠ 2 → s'.chip.aqu.next = some (s.chip.aqu.next.getD ⟨0, some 2, false, false⟩))
      ∧ (s.chip.role = 0 → (bits h.w0.toNat 2 0 = 2 ∨ bits h.w0.toNat 2 0 = 3 ∧ h.w0.toNat.testBit 13 = true) → s.chip.aqu.snapAt ≠ none → s'.chip.aqu.next = some (s.chip.aqu.next.getD ⟨1, some 4, false, false⟩))
      ∧ (s.chip.role = 1 → bits h.w0.toNat 2 0 = 2 → s'.chip.aqu.next = s.chip.aqu.next)
      ∧ (2 ≤ s.chip.role → bits h.w0.toNat 2 0 ≤ 1 → s'.chip.poundNum = h.pound.toNat ∧ s'.chip.fld SYS_POUND_STATUS__LOCK_STATE = bits h.w0.toNat 15 14)
      ∧ (s.chip.role ≤ 1 → s.chip.regsBut s'.chip [AQU_ROLE])) ∧
    (s.chip.ready t → ∀ (h : AquHead) (code : Nat), (s.chip.aquOn = false ∨ h.ok = false) →
      ∃ s', exec (.failReceived t h code) s = .next s' ∧ s'.chip.now = t
      ∧ s'.chip.aqu = s.chip.aqu
      ∧ s'.chip.fld AQU_CNT1__CRC_ERR_CNT = satAdd AQU_CNT1__CRC_ERR_CNT (s.chip.fld AQU_CNT1__CRC_ERR_CNT) (b2n s.chip.aquOn)
      ∧ s.chip.regsBut s'.chip [AQU_CNT1]) ∧
    (s.chip.ready t → ∀ (h : AquHead) (code : Nat), s.chip.aquOn = true →
      h.ok = true →
      ∃ s', exec (.failReceived t h code) s = .next s' ∧ s'.chip.now = t
      ∧ s'.chip.aqu.heardT = some t
      ∧ s'.chip.aqu.seqRx = some h.seq
      ∧ s'.chip.aqu.epoch = h.epoch
      ∧ s'.chip.aqu.failed = true
      ∧ s'.chip.aqu.handed = decide (code = 1)
      ∧ s'.chip.flag AQU_INT_STATUS__FAIL_RX = true
      ∧ (s.chip.aqu.joinT ≠ none → s'.chip.aqu.joinHeard = max s.chip.aqu.joinHeard 2)
      ∧ s.chip.regsBut s'.chip [AQU_INT_STATUS]) ∧
    (s.chip.ready t →
      ¬ ((s.chip.at t).phase = 3200 ∧ s.chip.role = 2) →
      ∃ s', exec (.refCheck t) s = .next s' ∧ s'.chip.now = t
      ∧ s'.chip.aqu = s.chip.aqu
      ∧ s.chip.regsSame s'.chip) ∧
    (s.chip.ready t →
      ((s.chip.at t).phase = 3200 ∧ s.chip.role = 2) →
      ∃ s', exec (.refCheck t) s = .next s' ∧ s'.chip.now = t
      ∧ (s'.chip.aqu.refGone = true ↔ (∃ p < 64, (s.chip.flag (TOW_PORT_CFG__RING p) && s.chip.rxUp p) = true) ∧ ∀ p < 64, (s.chip.flag (TOW_PORT_CFG__RING p) && s.chip.rxUp p) = true →
          (s.chip.port p).refAt.all (fun r => decide (r.1 < s.chip.pnd.start) || r.2 != s.chip.aqu.epoch) = true)
      ∧ s'.chip.aqu = { s.chip.aqu with refGone := s'.chip.aqu.refGone }
      ∧ s.chip.regsSame s'.chip) ∧
    (s.chip.ready t →
      ¬ ((s.chip.at t).phase = (s.chip.at t).P / 2 + 1600 ∧ (s.chip.role = 1 ∨ s.chip.role = 2)) →
      ∃ s', exec (.hbChk t) s = .next s' ∧ s'.chip.now = t
      ∧ s'.chip.aqu = s.chip.aqu
      ∧ s.chip.regsSame s'.chip) ∧
    (s.chip.ready t →
      ((s.chip.at t).phase = (s.chip.at t).P / 2 + 1600 ∧ (s.chip.role = 1 ∨ s.chip.role = 2)) →
      ∃ s', exec (.hbChk t) s = .next s' ∧ s'.chip.now = t
      ∧ s'.chip.aqu.missed = (s.chip.aqu.missed + b2n (!(s.chip.aqu.beatP == some s.chip.poundNum && s.chip.aqu.downP != some s.chip.poundNum && s.chip.aquOn)))
      ∧ s'.chip.fld AQU_CNT0__HB_MISS_CNT = satAdd AQU_CNT0__HB_MISS_CNT (s.chip.fld AQU_CNT0__HB_MISS_CNT) (b2n (!(s.chip.aqu.beatP == some s.chip.poundNum && s.chip.aqu.downP != some s.chip.poundNum && s.chip.aquOn)))
      ∧ (s.chip.role = 1 → s'.chip.aqu.next = (if 2 ≤ (s.chip.aqu.missed + b2n (!(s.chip.aqu.beatP == some s.chip.poundNum && s.chip.aqu.downP != some s.chip.poundNum && s.chip.aquOn))) then some (s.chip.aqu.next.getD ⟨0, some 2, false, false⟩) else s.chip.aqu.next))
      ∧ (s.chip.role = 2 → s.chip.aqu.refGone = true → (2 ≤ (s.chip.aqu.missed + b2n (!(s.chip.aqu.beatP == some s.chip.poundNum && s.chip.aqu.downP != some s.chip.poundNum && s.chip.aquOn))) ∨ s.chip.aqu.failed = true) → s.chip.takeoverOk = true →
          s'.chip.aqu.next = some (s.chip.aqu.next.getD ⟨if s.chip.aqu.handed = true then 1 else 0, some 0, true, s.chip.aqu.handed⟩))
      ∧ (s.chip.role = 2 → s.chip.aqu.refGone = true → (2 ≤ (s.chip.aqu.missed + b2n (!(s.chip.aqu.beatP == some s.chip.poundNum && s.chip.aqu.downP != some s.chip.poundNum && s.chip.aquOn))) ∨ s.chip.aqu.failed = true) → s.chip.takeoverOk = false →
          s'.chip.aqu.next = some (s.chip.aqu.next.getD ⟨3, some 11, false, false⟩))
      ∧ (s.chip.role = 2 → s.chip.aqu.refGone = true → (s.chip.aqu.missed + b2n (!(s.chip.aqu.beatP == some s.chip.poundNum && s.chip.aqu.downP != some s.chip.poundNum && s.chip.aquOn))) = 0 → s.chip.aqu.failed = false → s'.chip.aqu.next = s.chip.aqu.next ∧ s'.chip.flag AQU_INT_STATUS__REF_LOSS = true)
      ∧ (s.chip.role = 2 → s.chip.aqu.refGone = true → (s.chip.aqu.missed + b2n (!(s.chip.aqu.beatP == some s.chip.poundNum && s.chip.aqu.downP != some s.chip.poundNum && s.chip.aquOn))) = 1 → s.chip.aqu.failed = false → s'.chip.aqu.next = s.chip.aqu.next)
      ∧ (s.chip.role = 2 → s.chip.aqu.refGone = false → s'.chip.aqu.next = (if 2 ≤ (s.chip.aqu.missed + b2n (!(s.chip.aqu.beatP == some s.chip.poundNum && s.chip.aqu.downP != some s.chip.poundNum && s.chip.aquOn))) then some (s.chip.aqu.next.getD ⟨3, some 3, false, false⟩) else s.chip.aqu.next))
      ∧ s.chip.regsBut s'.chip [AQU_CNT0, AQU_INT_STATUS]) ∧
    (s.chip.ready t →
      s.chip.aqu.joinT.all (fun u => decide (t < u)) = true →
      ∃ s', exec (.joinEnd t) s = .next s' ∧ s'.chip.now = t
      ∧ s'.chip.aqu = s.chip.aqu
      ∧ s.chip.regsSame s'.chip) ∧
    (s.chip.ready t → ∀ u : Nat, s.chip.aqu.joinT = some u →
      u ≤ t →
      s.chip.aqu.joinHeard ≤ 1 →
      ∃ s', exec (.joinEnd t) s = .next s' ∧ s'.chip.now = t
      ∧ s'.chip.aqu = { s.chip.aqu with joinT := none, next := some (s.chip.aqu.next.getD ⟨0, none, false, false⟩) }
      ∧ s'.chip.pnd.request = some ⟨1, (s.chip.poundNum + 1) % 2 ^ 32, none⟩
      ∧ s.chip.regsSame s'.chip) ∧
    (s.chip.ready t → ∀ u : Nat, s.chip.aqu.joinT = some u →
      u ≤ t →
      2 ≤ s.chip.aqu.joinHeard →
      ∃ s', exec (.joinEnd t) s = .next s' ∧ s'.chip.now = t
      ∧ s'.chip.aqu = { s.chip.aqu with joinT := none, next := some (s.chip.aqu.next.getD ⟨3, none, false, false⟩) }
      ∧ s'.chip.pnd = s.chip.pnd
      ∧ s'.chip.hst.longs = s.chip.hst.longs
      ∧ s.chip.regsSame s'.chip) ∧
    (∀ (ifc : Iface) (tag target : Word) (pl : List Word), s.chip.takes t 0x0C02 ifc tag target pl 0 →
      ¬ (s.chip.role = 1 ∧ (s.chip.reg (AQU_HEALTH 0)).testBit 31 = true ∧ s.chip.fld AQU_LEDGER_LAG__LAG = 0) →
      ∃ s', exec (.twinHandover t ifc tag target pl) s = .next s'
      ∧ Done s t 0x0C02 ifc tag target pl stWRONG_STATE 0 [] s'
      ∧ s'.chip.aqu = s.chip.aqu
      ∧ s.chip.regsSame s'.chip) ∧
    (∀ (ifc : Iface) (tag target : Word) (pl : List Word), s.chip.takes t 0x0C02 ifc tag target pl 0 →
      (s.chip.role = 1 ∧ (s.chip.reg (AQU_HEALTH 0)).testBit 31 = true ∧ s.chip.fld AQU_LEDGER_LAG__LAG = 0) →
      s.chip.aqu.handCmd ≠ none →
      ∃ s', exec (.twinHandover t ifc tag target pl) s = .next s'
      ∧ Done s t 0x0C02 ifc tag target pl stBUSY 0 [] s'
      ∧ s'.chip.aqu = s.chip.aqu
      ∧ s.chip.regsSame s'.chip) ∧
    (∀ (ifc : Iface) (tag target : Word) (pl : List Word), s.chip.takes t 0x0C02 ifc tag target pl 0 →
      (s.chip.role = 1 ∧ (s.chip.reg (AQU_HEALTH 0)).testBit 31 = true ∧ s.chip.fld AQU_LEDGER_LAG__LAG = 0) → s.chip.aqu.handCmd = none →
      ∃ s', exec (.twinHandover t ifc tag target pl) s = .next s' ∧ s'.chip.now = t
      ∧ s'.chip.aqu = { s.chip.aqu with handCmd := some (s.chip.takeIntake 0x0C02 ifc tag target pl).2 } ∧ s.chip.regsSame s'.chip)

/-- LEDGER_FRAME_RECEIVED, ACK_, NAK_, HEALTH_, BULK_RECEIVED, RESYNC_RESTART, BIST_PASS_COMPLETE, SRAM_SCRUB. -/
def Obligations.LedgerFramesCommitAndResynchronise : Prop :=
  ∀ (s : State) (t : Nat),
    (s.chip.ready t → ∀ fr : LedgerFrame, (s.chip.aquOn = false ∨ fr.h.ok = false) →
      ∃ s', exec (.ledgerFrameReceived t fr) s = .next s' ∧ s'.chip.now = t
      ∧ s'.chip.aqu = s.chip.aqu
      ∧ s'.chip.fld AQU_CNT1__CRC_ERR_CNT = satAdd AQU_CNT1__CRC_ERR_CNT (s.chip.fld AQU_CNT1__CRC_ERR_CNT) (b2n s.chip.aquOn)
      ∧ s.chip.regsBut s'.chip [AQU_CNT1]) ∧
    (s.chip.ready t → ∀ fr : LedgerFrame, s.chip.aquOn = true →
      fr.h.ok = true →
      s.chip.takesCommits = false →
      ∃ s', exec (.ledgerFrameReceived t fr) s = .next s' ∧ s'.chip.now = t
      ∧ s'.chip.aqu = { s.chip.aqu with heardT := some t, seqRx := some fr.h.seq, epoch := fr.h.epoch, joinHeard := s'.chip.aqu.joinHeard }
      ∧ s'.chip.aqu.joinHeard = (if s.chip.aqu.joinT.isSome = true then max s.chip.aqu.joinHeard 2 else s.chip.aqu.joinHeard)
      ∧ s.chip.regsSame s'.chip) ∧
    (s.chip.ready t → ∀ (fr : LedgerFrame) (l : List LedgerRec), s.chip.aquOn = true →
      fr.h.ok = true →
      s.chip.role = 2 →
      fr.last = false →
      s.chip.seqGap fr.h = false →
      s.chip.partsNow fr.pound.toNat fr = some l →
      ∃ s', exec (.ledgerFrameReceived t fr) s = .next s' ∧ s'.chip.now = t
      ∧ s'.chip.aqu.heardT = some t
      ∧ s'.chip.aqu.seqRx = some fr.h.seq
      ∧ s'.chip.aqu.epoch = fr.h.epoch
      ∧ s'.chip.aqu.seen = (if s.chip.newCommit fr.pound.toNat = true then some fr.pound.toNat else s.chip.aqu.seen)
      ∧ s'.chip.aqu.rx = s.chip.aqu.rx.filter (fun x => x.1 != fr.pound.toNat) ++ [(fr.pound.toNat, fr.part + 1, l)]
      ∧ s'.chip.aqu.inbox = s.chip.aqu.inbox
      ∧ s.chip.regsSame s'.chip
      ∧ (17 ≤ modDiff 32 fr.pound.toNat (s.chip.reg AQU_COMMIT) → s'.chip.aqu.next = some ⟨3, none, false, false⟩)) ∧
    (s.chip.ready t → ∀ fr : LedgerFrame, s.chip.aquOn = true →
      fr.h.ok = true →
      s.chip.role = 2 →
      s.chip.seqGap fr.h = false →
      s.chip.partsNow fr.pound.toNat fr = none →
      ∃ s', exec (.ledgerFrameReceived t fr) s = .next s' ∧ s'.chip.now = t
      ∧ s'.chip.aqu.heardT = some t
      ∧ s'.chip.aqu.seqRx = some fr.h.seq
      ∧ s'.chip.aqu.epoch = fr.h.epoch
      ∧ s'.chip.aqu.rx = s.chip.aqu.rx.filter (fun x => x.1 != fr.pound.toNat)
      ∧ (s.chip.newCommit fr.pound.toNat = true ∨ s.chip.aqu.rx.any (fun x => x.1 == fr.pound.toNat) = true →
          (s'.chip.out.drop s.chip.out.length).any (fun o => match o with
            | .aqu 5 ws => ws.getD 4 0 == fr.pound
            | _ => false) = true)
      ∧ s'.chip.aqu.inbox = s.chip.aqu.inbox
      ∧ s.chip.regsSame s'.chip) ∧
    (s.chip.ready t → ∀ fr : LedgerFrame, s.chip.aquOn = true →
      fr.h.ok = true →
      s.chip.role = 2 →
      fr.last = false →
      s.chip.seqGap fr.h = true →
      ∃ s', exec (.ledgerFrameReceived t fr) s = .next s' ∧ s'.chip.now = t
      ∧ s'.chip.aqu.heardT = some t
      ∧ s'.chip.aqu.seqRx = some fr.h.seq
      ∧ s'.chip.aqu.epoch = fr.h.epoch
      ∧ s'.chip.aqu.rx = (if fr.part = 0 then [(fr.pound.toNat, 1, fr.recs)] else [])
      ∧ (∀ x ∈ s.chip.aqu.rx, (s'.chip.out.drop s.chip.out.length).any (fun o => match o with
            | .aqu 5 ws => ws.getD 4 0 == w32 x.1
            | _ => false) = true)
      ∧ s'.chip.aqu.inbox = s.chip.aqu.inbox
      ∧ s.chip.regsSame s'.chip) ∧
    (s.chip.ready t → ∀ fr : LedgerFrame, s.chip.aquOn = true →
      fr.h.ok = true →
      s.chip.role = 2 →
      fr.last = true →
      fr.part = 0 →
      s.chip.seqGap fr.h = false →
      s.chip.aqu.inbox = [] →
      fr.pound.toNat = (s.chip.reg AQU_COMMIT + 1) % 2 ^ 32 →
      s.chip.bulkHere fr.recs = true →
      ∃ s', exec (.ledgerFrameReceived t fr) s = .next s' ∧ s'.chip.now = t
      ∧ s'.chip.aqu.heardT = some t
      ∧ s'.chip.aqu.seqRx = some fr.h.seq
      ∧ s'.chip.aqu.epoch = fr.h.epoch
      ∧ s'.chip.aqu.rx = s.chip.aqu.rx.filter (fun x => x.1 != fr.pound.toNat)
      ∧ (s'.chip.out.drop s.chip.out.length).any (fun o => match o with
            | .aqu 4 ws => ws.getD 4 0 == fr.pound
            | _ => false) = true
      ∧ s'.chip.reg AQU_COMMIT = fr.pound.toNat
      ∧ s'.chip.aqu.inbox = []
      ∧ (s'.chip.aqu.clean = s.chip.aqu.clean + 1 ∨ s'.chip.aqu.clean = 0)) ∧
    (s.chip.ready t → ∀ fr : LedgerFrame, s.chip.aquOn = true →
      fr.h.ok = true →
      s.chip.role = 2 →
      fr.last = true →
      fr.part = 0 →
      s.chip.seqGap fr.h = false →
      s.chip.aqu.inbox = [] →
      (fr.pound.toNat ≠ (s.chip.reg AQU_COMMIT + 1) % 2 ^ 32 ∨ s.chip.bulkHere fr.recs = false) →
      0 < modDiff 32 fr.pound.toNat (s.chip.reg AQU_COMMIT) →
      ∃ s', exec (.ledgerFrameReceived t fr) s = .next s' ∧ s'.chip.now = t
      ∧ s'.chip.aqu.heardT = some t
      ∧ s'.chip.aqu.seqRx = some fr.h.seq
      ∧ s'.chip.aqu.epoch = fr.h.epoch
      ∧ s'.chip.aqu.rx = s.chip.aqu.rx.filter (fun x => x.1 != fr.pound.toNat)
      ∧ (s'.chip.out.drop s.chip.out.length).any (fun o => match o with
            | .aqu 4 ws => ws.getD 4 0 == fr.pound
            | _ => false) = true
      ∧ s.chip.regsSame s'.chip
      ∧ s'.chip.aqu.inbox = [(fr.pound.toNat, fr.recs)]
      ∧ (17 ≤ modDiff 32 fr.pound.toNat (s.chip.reg AQU_COMMIT) → s'.chip.aqu.next = some ⟨3, none, false, false⟩)) ∧
    (s.chip.ready t → ∀ (h : AquHead) (p : Word), (s.chip.aquOn = false ∨ h.ok = false) →
      ∃ s', exec (.ackReceived t h p) s = .next s' ∧ s'.chip.now = t
      ∧ s'.chip.aqu = s.chip.aqu
      ∧ s'.chip.fld AQU_CNT1__CRC_ERR_CNT = satAdd AQU_CNT1__CRC_ERR_CNT (s.chip.fld AQU_CNT1__CRC_ERR_CNT) (b2n s.chip.aquOn)
      ∧ s.chip.regsBut s'.chip [AQU_CNT1]) ∧
    (s.chip.ready t → ∀ (h : AquHead) (p : Word), s.chip.aquOn = true →
      h.ok = true →
      ∃ s', exec (.ackReceived t h p) s = .next s' ∧ s'.chip.now = t
      ∧ s'.chip.aqu.heardT = some t
      ∧ s'.chip.aqu.seqRx = some h.seq
      ∧ s'.chip.aqu.epoch = h.epoch
      ∧ (s.chip.aqu.joinT ≠ none → s'.chip.aqu.joinHeard = max s.chip.aqu.joinHeard 2)
      ∧ (s.chip.drives = false → s.chip.regsSame s'.chip ∧ s'.chip.hst.longs = s.chip.hst.longs)
      ∧ (s.chip.drives = true → s'.chip.reg AQU_ACKED = p.toNat
          ∧ s'.chip.fld AQU_CNT0__COMMIT_LATE_CNT = satAdd AQU_CNT0__COMMIT_LATE_CNT (s.chip.fld AQU_CNT0__COMMIT_LATE_CNT) (b2n (decide (2 < modDiff 32 s.chip.poundNum p.toNat)))
          ∧ ∀ l ∈ s.chip.hst.longs, s.chip.twinLongDone l (some p.toNat) = true → s'.chip.finalGone l.org (replyWords l.op l.tag stOK 0 []))) ∧
    (s.chip.ready t → ∀ (h : AquHead) (p : Word), (s.chip.aquOn = false ∨ h.ok = false) →
      ∃ s', exec (.nakReceived t h p) s = .next s' ∧ s'.chip.now = t
      ∧ s'.chip.aqu = s.chip.aqu
      ∧ s'.chip.fld AQU_CNT1__CRC_ERR_CNT = satAdd AQU_CNT1__CRC_ERR_CNT (s.chip.fld AQU_CNT1__CRC_ERR_CNT) (b2n s.chip.aquOn)
      ∧ s.chip.regsBut s'.chip [AQU_CNT1]) ∧
    (s.chip.ready t → ∀ (h : AquHead) (p : Word), s.chip.aquOn = true →
      h.ok = true →
      s.chip.aqu.commits.find? (fun k => k.pound == p.toNat && k.sent != 0 && !k.resent) = none →
      ∃ s', exec (.nakReceived t h p) s = .next s' ∧ s'.chip.now = t
      ∧ s'.chip.aqu.heardT = some t
      ∧ s'.chip.aqu.seqRx = some h.seq
      ∧ s'.chip.aqu.epoch = h.epoch
      ∧ (s.chip.aqu.joinT ≠ none → s'.chip.aqu.joinHeard = max s.chip.aqu.joinHeard 2)
      ∧ s'.chip.aqu.commits = s.chip.aqu.commits
      ∧ s.chip.regsSame s'.chip) ∧
    (s.chip.ready t → ∀ (h : AquHead) (p : Word), ∀ k : Commit, s.chip.aqu.commits.find? (fun k => k.pound == p.toNat && k.sent != 0 && !k.resent) = some k →
      s.chip.aquOn = true →
      h.ok = true →
      ∃ s', exec (.nakReceived t h p) s = .next s' ∧ s'.chip.now = t
      ∧ s'.chip.aqu.commits = s.chip.aqu.commits.map (fun x => if x.pound = p.toNat then { x with resent := true } else x)
      ∧ s'.chip.fld AQU_CNT0__RETX_CNT = satAdd AQU_CNT0__RETX_CNT (s.chip.fld AQU_CNT0__RETX_CNT) 1
      ∧ s.chip.regsBut s'.chip [AQU_CNT0]
      ∧ (∀ i < k.sent, (s'.chip.out.drop s.chip.out.length).any (fun o => match o with
            | .aqu 3 ws => ((k.words.drop (256 * i)).take 256).isPrefixOf (ws.drop 4) && ws.getD 1 0 == w32 k.pound
            | _ => false) = true)) ∧
    (s.chip.ready t → ∀ (h : AquHead) (w : List Word), (s.chip.aquOn = false ∨ h.ok = false) →
      ∃ s', exec (.healthReceived t h w) s = .next s' ∧ s'.chip.now = t
      ∧ s'.chip.aqu = s.chip.aqu
      ∧ s'.chip.fld AQU_CNT1__CRC_ERR_CNT = satAdd AQU_CNT1__CRC_ERR_CNT (s.chip.fld AQU_CNT1__CRC_ERR_CNT) (b2n s.chip.aquOn)
      ∧ s.chip.regsBut s'.chip [AQU_CNT1]) ∧
    (s.chip.ready t → ∀ (h : AquHead) (w : List Word), s.chip.aquOn = true →
      h.ok = true →
      ∃ s', exec (.healthReceived t h w) s = .next s' ∧ s'.chip.now = t
      ∧ s'.chip.aqu.heardT = some t
      ∧ s'.chip.aqu.seqRx = some h.seq
      ∧ s'.chip.aqu.epoch = h.epoch
      ∧ (s.chip.aqu.joinT ≠ none → s'.chip.aqu.joinHeard = max s.chip.aqu.joinHeard 2)
      ∧ (s.chip.drives = false → s.chip.regsSame s'.chip)
      ∧ (s.chip.drives = true → (∀ k < 6, s'.chip.reg (AQU_HEALTH k) = wordAt w k) ∧ s'.chip.flag AQU_INT_STATUS__HEALTH_NEW = true)
      ∧ s.chip.regsBut s'.chip [AQU_HEALTH 0, AQU_HEALTH 1, AQU_HEALTH 2, AQU_HEALTH 3, AQU_HEALTH 4, AQU_HEALTH 5, AQU_INT_STATUS]) ∧
    (s.chip.ready t → ∀ b : BulkFrame, (s.chip.aquOn = false ∨ b.h.ok = false) →
      ∃ s', exec (.bulkReceived t b) s = .next s' ∧ s'.chip.now = t
      ∧ s'.chip.aqu = s.chip.aqu
      ∧ s'.chip.fld AQU_CNT1__CRC_ERR_CNT = satAdd AQU_CNT1__CRC_ERR_CNT (s.chip.fld AQU_CNT1__CRC_ERR_CNT) (b2n s.chip.aquOn)
      ∧ s.chip.regsBut s'.chip [AQU_CNT1]) ∧
    (s.chip.ready t → ∀ b : BulkFrame, s.chip.aquOn = true →
      b.h.ok = true →
      (s.chip.role = 2 ∨ (s.chip.role = 3 ∧ s.chip.aqu.followed = true)) →
      (∀ e ∈ s.chip.aqu.inbox, e.1 = (s.chip.reg AQU_COMMIT + 1) % 2 ^ 32 →
        ((s.chip.aqu.bulk ++ [(b.data, b.last)]).filter (·.2)).length < (e.2.filter (fun r => r.kind == 8)).length) →
      ∃ s', exec (.bulkReceived t b) s = .next s' ∧ s'.chip.now = t
      ∧ s'.chip.aqu.heardT = some t
      ∧ s'.chip.aqu.seqRx = some b.h.seq
      ∧ s'.chip.aqu.epoch = b.h.epoch
      ∧ s'.chip.aqu.bulk = s.chip.aqu.bulk ++ [(b.data, b.last)]
      ∧ s'.chip.mem = s.chip.mem
      ∧ s.chip.regsSame s'.chip) ∧
    (s.chip.ready t → ∀ b : BulkFrame, s.chip.aquOn = true →
      b.h.ok = true →
      (s.chip.role < 2 ∨ 3 < s.chip.role ∨ (s.chip.role = 3 ∧ s.chip.aqu.followed = false ∧ (s.chip.aqu.restartT ≠ none ∨ s.chip.fld AQU_ROLE__RS_STEP < 2))) →
      ∃ s', exec (.bulkReceived t b) s = .next s' ∧ s'.chip.now = t
      ∧ s'.chip.aqu.heardT = some t
      ∧ s'.chip.aqu.seqRx = some b.h.seq
      ∧ s'.chip.aqu.epoch = b.h.epoch
      ∧ s'.chip.aqu.bulk = s.chip.aqu.bulk
      ∧ s'.chip.mem = s.chip.mem
      ∧ s.chip.regsSame s'.chip) ∧
    (s.chip.ready t → ∀ (h : AquHead) (last : Bool) (which off : Nat) (ws : List Word), s.chip.aquOn = true →
      h.ok = true →
      s.chip.role = 3 →
      s.chip.aqu.followed = false →
      s.chip.aqu.restartT = none →
      ∃ s', exec (.bulkReceived t ⟨h, last, .memory which off ws⟩) s = .next s' ∧ s'.chip.now = t
      ∧ (s.chip.fld AQU_ROLE__RS_STEP ≠ 2 → s.chip.seqGap h = false → s'.chip.mem = s.chip.mem ∧ s.chip.regsSame s'.chip)
      ∧ (2 ≤ s.chip.fld AQU_ROLE__RS_STEP → s.chip.seqGap h = true → s'.chip.mem = s.chip.mem
          ∧ s'.chip.flag AQU_INT_STATUS__RESYNC_FAIL = true ∧ s'.chip.aqu.restartT = some (t + 800000000))
      ∧ (s.chip.fld AQU_ROLE__RS_STEP = 2 → s.chip.seqGap h = false →
          s'.chip.mem = (s.chip.setWin (min which 3) (winWrite (min which 3) off (wordsBytes ws) (s.chip.winMem (min which 3)))).mem
          ∧ ∀ y : Hello, s.chip.aqu.hello = some y → y.rank ≠ s.chip.rank →
            (y.crc = s'.chip.configCrc → s'.chip.fld AQU_ROLE__RS_STEP = 3)
            ∧ (y.crc ≠ s'.chip.configCrc → last = true → s'.chip.aqu.restartT = some (t + 800000000)))) ∧
    (s.chip.ready t → ∀ (h : AquHead) (y : Snapshot), s.chip.aquOn = true →
      h.ok = true →
      s.chip.role = 3 →
      s.chip.aqu.followed = false →
      s.chip.aqu.restartT = none →
      s.chip.fld AQU_ROLE__RS_STEP = 3 →
      s.chip.seqGap h = false →
      s.chip.aqu.inbox = [] →
      ∃ s', exec (.bulkReceived t ⟨h, true, .snapshot y⟩) s = .next s' ∧ s'.chip.now = t
      ∧ s'.chip.reg AQU_COMMIT = y.pound.toNat
      ∧ s'.chip.fld AQU_ROLE__RS_STEP = 4
      ∧ s'.chip.aqu.followed = true
      ∧ s'.chip.aqu.clean = 0
      ∧ s'.chip.man.seq = y.manSeq
      ∧ s'.chip.pf.chain.h = y.h) ∧
    (s.chip.ready t →
      (s.chip.role ≠ 3 ∨ s.chip.aqu.restartT.all (fun u => decide (t < u)) = true) →
      ∃ s', exec (.resyncRestart t) s = .next s' ∧ s'.chip.now = t
      ∧ s'.chip.aqu = s.chip.aqu
      ∧ s.chip.regsSame s'.chip) ∧
    (s.chip.ready t → ∀ u : Nat, s.chip.aqu.restartT = some u →
      u ≤ t →
      s.chip.role = 3 →
      ∃ s', exec (.resyncRestart t) s = .next s' ∧ s'.chip.now = t
      ∧ s'.chip.fld AQU_ROLE__RS_STEP = 1
      ∧ s'.chip.aqu.restartT = none
      ∧ s'.chip.aqu.followed = false
      ∧ s'.chip.aqu.inbox = []
      ∧ s'.chip.aqu.clean = 0
      ∧ s.chip.regsBut s'.chip [AQU_ROLE]) ∧
    (s.chip.ready t → ∀ b : Bool, s.chip.role ≠ 2 →
      s.chip.aqu.followed = false →
      ∃ s', exec (.bistPassComplete t b) s = .next s' ∧ s'.chip.now = t
      ∧ s'.chip.aqu = s.chip.aqu
      ∧ s.chip.regsSame s'.chip) ∧
    (s.chip.ready t → ∀ b : Bool, (s.chip.role = 2 ∨ s.chip.aqu.followed = true) →
      ∃ s', exec (.bistPassComplete t b) s = .next s' ∧ s'.chip.now = t
      ∧ s'.chip.aqu = { s.chip.aqu with bistPasses := (s.chip.aqu.bistPasses + 1) % 2 ^ 16, bistFail := s.chip.aqu.bistFail || b }
      ∧ s.chip.regsSame s'.chip) ∧
    (s.chip.ready t → ∀ (o : Fin 12) (ue : Bool) (a : Nat), ∃ s', exec (.sramScrub t o ue a) s = .next s' ∧ s'.chip.now = t
      ∧ (s.chip.drives = true → s'.chip.aqu = s.chip.aqu)
      ∧ (s.chip.drives = false → s'.chip.aqu = (if ue = true then { s.chip.aqu with ue := min (s.chip.aqu.ue + 1) 65535 } else { s.chip.aqu with ce := min (s.chip.aqu.ce + 1) 65535 }))
      ∧ (o = 0 → ue = true → s'.chip.fld LCK_ECC_CNT__UE_CNT = satAdd LCK_ECC_CNT__UE_CNT (s.chip.fld LCK_ECC_CNT__UE_CNT) 1 ∧ s'.chip.flag LCK_INT_STATUS__ECC_UE = true)
      ∧ (o = 0 → ue = false → s'.chip.fld LCK_ECC_CNT__CE_CNT = satAdd LCK_ECC_CNT__CE_CNT (s.chip.fld LCK_ECC_CNT__CE_CNT) 1 ∧ s'.chip.flag LCK_INT_STATUS__ECC_CE = true)
      ∧ (o = 1 → ue = true → s'.chip.fld BSN_ECC_CNT__UE_CNT = satAdd BSN_ECC_CNT__UE_CNT (s.chip.fld BSN_ECC_CNT__UE_CNT) 1 ∧ s'.chip.flag BSN_INT_STATUS__ECC_UE = true)
      ∧ (o = 1 → ue = false → s'.chip.fld BSN_ECC_CNT__CE_CNT = satAdd BSN_ECC_CNT__CE_CNT (s.chip.fld BSN_ECC_CNT__CE_CNT) 1 ∧ s'.chip.flag BSN_INT_STATUS__ECC_CE = true)
      ∧ (o = 5 → ue = true → s'.chip.fld SLU_ECC_CNT__UE_CNT = satAdd SLU_ECC_CNT__UE_CNT (s.chip.fld SLU_ECC_CNT__UE_CNT) 1 ∧ s'.chip.flag SLU_INT_STATUS__ECC_UE = true)
      ∧ (o = 5 → ue = false → s'.chip.fld SLU_ECC_CNT__CE_CNT = satAdd SLU_ECC_CNT__CE_CNT (s.chip.fld SLU_ECC_CNT__CE_CNT) 1 ∧ s'.chip.flag SLU_INT_STATUS__ECC_CE = true)
      ∧ (o = 7 → ue = true → s'.chip.fld GAU_CNT__UE_CNT = satAdd GAU_CNT__UE_CNT (s.chip.fld GAU_CNT__UE_CNT) 1)
      ∧ (ue = false → s.chip.regsBut s'.chip [LCK_ECC_CNT, LCK_INT_STATUS, BSN_ECC_CNT, BSN_INT_STATUS, SLU_ECC_CNT, SLU_INT_STATUS]))

/-- IMG_BEGIN, IMG_DATA, IMG_COMMIT and IMG_CHECK_COMPLETE. -/
def Obligations.ImagesAreStagedCheckedAndAppliedWhole : Prop :=
  ∀ (s : State) (t : Nat),
    (∀ (ifc : Iface) (tag target : Word) (pl : List Word), s.chip.takes t 0x0201 ifc tag target pl 0 →
      (wordAt pl 0 < 32 ∨ 0x600000 < wordAt pl 0) →
      ∃ s', exec (.imgBegin t ifc tag target pl) s = .next s'
      ∧ Done s t 0x0201 ifc tag target pl stINVALID_ARG 0 [] s'
      ∧ s'.chip.hst.stage = s.chip.hst.stage
      ∧ s'.chip.mem = s.chip.mem
      ∧ s.chip.regsSame s'.chip) ∧
    (∀ (ifc : Iface) (tag target : Word) (pl : List Word), s.chip.takes t 0x0201 ifc tag target pl 0 →
      32 ≤ wordAt pl 0 →
      wordAt pl 0 ≤ 0x600000 →
      s.chip.hst.stage.running = true →
      ∃ s', exec (.imgBegin t ifc tag target pl) s = .next s'
      ∧ Done s t 0x0201 ifc tag target pl stBUSY 0 [] s'
      ∧ s'.chip.hst.stage = s.chip.hst.stage
      ∧ s'.chip.mem = s.chip.mem
      ∧ s.chip.regsSame s'.chip) ∧
    (∀ (ifc : Iface) (tag target : Word) (pl : List Word), s.chip.takes t 0x0201 ifc tag target pl 0 →
      32 ≤ wordAt pl 0 →
      wordAt pl 0 ≤ 0x600000 →
      s.chip.hst.stage.running = false →
      ∃ s', exec (.imgBegin t ifc tag target pl) s = .next s'
      ∧ Done s t 0x0201 ifc tag target pl stOK 0 [] s'
      ∧ s'.chip.hst.stage = { s.chip.hst.stage with size := wordAt pl 0, imageId := pl.getD 1 0, bytes := [], staged := [] }
      ∧ s'.chip.mem = s.chip.mem
      ∧ s.chip.regsSame s'.chip) ∧
    (∀ (ifc : Iface) (tag target : Word) (pl : List Word), s.chip.takes t 0x0202 ifc tag target pl 0 →
      (wordAt pl 0 % 4 ≠ 0 ∨ s.chip.hst.stage.size < wordAt pl 0 + 4 * (pl.length - 1)) →
      ∃ s', exec (.imgData t ifc tag target pl) s = .next s'
      ∧ Done s t 0x0202 ifc tag target pl stINVALID_ARG 0 [] s'
      ∧ s'.chip.hst.stage = s.chip.hst.stage
      ∧ s'.chip.mem = s.chip.mem
      ∧ s.chip.regsSame s'.chip) ∧
    (∀ (ifc : Iface) (tag target : Word) (pl : List Word), s.chip.takes t 0x0202 ifc tag target pl 0 →
      wordAt pl 0 % 4 = 0 →
      wordAt pl 0 + 4 * (pl.length - 1) ≤ s.chip.hst.stage.size →
      s.chip.hst.stage.running = true →
      ∃ s', exec (.imgData t ifc tag target pl) s = .next s'
      ∧ Done s t 0x0202 ifc tag target pl stBUSY 0 [] s'
      ∧ s'.chip.hst.stage = s.chip.hst.stage
      ∧ s'.chip.mem = s.chip.mem
      ∧ s.chip.regsSame s'.chip) ∧
    (∀ (ifc : Iface) (tag target : Word) (pl : List Word), s.chip.takes t 0x0202 ifc tag target pl 0 →
      wordAt pl 0 % 4 = 0 →
      wordAt pl 0 + 4 * (pl.length - 1) ≤ s.chip.hst.stage.size →
      s.chip.hst.stage.running = false →
      ∃ s', exec (.imgData t ifc tag target pl) s = .next s'
      ∧ Done s t 0x0202 ifc tag target pl stOK 0 [] s'
      ∧ (∀ i < 4 * (pl.length - 1), tabGet (fun _ => (0 : Byte)) s'.chip.hst.stage.bytes (wordAt pl 0 + i) = (wordsBytes (pl.drop 1)).getD i 0)
      ∧ (∀ b : Nat, (b < wordAt pl 0 ∨ wordAt pl 0 + 4 * (pl.length - 1) ≤ b) → tabGet (fun _ => (0 : Byte)) s'.chip.hst.stage.bytes b = tabGet (fun _ => (0 : Byte)) s.chip.hst.stage.bytes b)
      ∧ s'.chip.hst.stage = { s.chip.hst.stage with bytes := s'.chip.hst.stage.bytes, staged := addRange (wordAt pl 0) (wordAt pl 0 + 4 * (pl.length - 1)) s.chip.hst.stage.staged }
      ∧ s'.chip.mem = s.chip.mem
      ∧ s.chip.regsSame s'.chip) ∧
    (∀ (ifc : Iface) (tag target : Word) (pl : List Word), s.chip.takes t 0x0203 ifc tag target pl 0 →
      (s.chip.hst.stage.whole = false ∨ pl.getD 0 0 ≠ s.chip.hst.stage.imageId) →
      ∃ s', exec (.imgCommit t ifc tag target pl) s = .next s'
      ∧ Done s t 0x0203 ifc tag target pl stINVALID_ARG 0 [] s'
      ∧ s'.chip.hst.stage = s.chip.hst.stage
      ∧ s'.chip.mem = s.chip.mem
      ∧ s.chip.regsSame s'.chip) ∧
    (∀ (ifc : Iface) (tag target : Word) (pl : List Word), s.chip.takes t 0x0203 ifc tag target pl 0 →
      ∀ d : Nat, s.chip.imgWrongState s.chip.hst.stage = some d →
      s.chip.hst.stage.whole = true →
      pl.getD 0 0 = s.chip.hst.stage.imageId →
      ∃ s', exec (.imgCommit t ifc tag target pl) s = .next s'
      ∧ Done s t 0x0203 ifc tag target pl stWRONG_STATE d [] s'
      ∧ s'.chip.hst.stage = s.chip.hst.stage
      ∧ s'.chip.mem = s.chip.mem
      ∧ s.chip.regsSame s'.chip) ∧
    (∀ (ifc : Iface) (tag target : Word) (pl : List Word), s.chip.takes t 0x0203 ifc tag target pl 0 →
      s.chip.hst.stage.whole = true →
      pl.getD 0 0 = s.chip.hst.stage.imageId →
      s.chip.imgWrongState s.chip.hst.stage = none →
      (s.chip.hst.stage.running = true ∨ s.chip.imgChainBusy s.chip.hst.stage = true ∨ s.chip.longFree 0x0203 0 = false) →
      ∃ s', exec (.imgCommit t ifc tag target pl) s = .next s'
      ∧ Done s t 0x0203 ifc tag target pl stBUSY 0 [] s'
      ∧ s'.chip.hst.stage = s.chip.hst.stage
      ∧ s'.chip.mem = s.chip.mem
      ∧ s.chip.regsSame s'.chip) ∧
    (∀ (ifc : Iface) (tag target : Word) (pl : List Word), s.chip.takes t 0x0203 ifc tag target pl 0 →
      s.chip.hst.stage.whole = true →
      pl.getD 0 0 = s.chip.hst.stage.imageId →
      s.chip.imgWrongState s.chip.hst.stage = none →
      s.chip.hst.stage.running = false →
      s.chip.imgChainBusy s.chip.hst.stage = false →
      s.chip.longFree 0x0203 0 = true →
      ∃ s', exec (.imgCommit t ifc tag target pl) s = .next s'
      ∧ Done s t 0x0203 ifc tag target pl stACCEPTED 0 [] s'
      ∧ s'.chip.hst.stage = { s.chip.hst.stage with running := true, applyAt := false, result := 1, failSec := 0, failDetail := 0 }
      ∧ s'.chip.commitCmd.isSome = true
      ∧ s'.chip.hst.longs.length = s.chip.hst.longs.length + 1
      ∧ s'.chip.mem = s.chip.mem
      ∧ s.chip.regsSame s'.chip) ∧
    (s.chip.ready t →
      (s.chip.hst.stage.running = false ∨ s.chip.hst.stage.applyAt = true) →
      ∃ s', exec (.imgCheckComplete t) s = .next s' ∧ s'.chip.now = t
      ∧ s'.chip.hst.stage = s.chip.hst.stage
      ∧ s'.chip.mem = s.chip.mem
      ∧ s.chip.regsSame s'.chip) ∧
    (s.chip.ready t → ∀ l : LongCmd, s.chip.commitCmd = some l →
      ∀ f : Nat × Nat, s.chip.imgFails s.chip.hst.stage = some f →
      s.chip.hst.stage.running = true →
      s.chip.hst.stage.applyAt = false →
      ∃ s', exec (.imgCheckComplete t) s = .next s' ∧ s'.chip.now = t
      ∧ s'.chip.finalGone l.org (replyWords l.op l.tag stINVALID_ARG f.2 [])
      ∧ s'.chip.hst.longs = s.chip.hst.longs.erase l
      ∧ s'.chip.hst.stage = { s.chip.hst.stage with running := false, applyAt := false, result := 3, failSec := f.1, failDetail := f.2 }
      ∧ s'.chip.mem = s.chip.mem
      ∧ s.chip.regsBut s'.chip [HST_INT_STATUS, HST_STATUS]) ∧
    (s.chip.ready t → ∀ l : LongCmd, s.chip.commitCmd = some l →
      ∀ d : Nat, s.chip.imgWrongState s.chip.hst.stage = some d →
      s.chip.hst.stage.running = true →
      s.chip.hst.stage.applyAt = false →
      s.chip.imgFails s.chip.hst.stage = none →
      ∃ s', exec (.imgCheckComplete t) s = .next s' ∧ s'.chip.now = t
      ∧ s'.chip.finalGone l.org (replyWords l.op l.tag stWRONG_STATE d [])
      ∧ s'.chip.hst.longs = s.chip.hst.longs.erase l
      ∧ s'.chip.hst.stage = { s.chip.hst.stage with running := false, applyAt := false, result := 3, failSec := 0, failDetail := d }
      ∧ s'.chip.mem = s.chip.mem
      ∧ s.chip.regsBut s'.chip [HST_INT_STATUS, HST_STATUS]) ∧
    (s.chip.ready t → ∀ l : LongCmd, s.chip.commitCmd = some l →
      s.chip.hst.stage.running = true →
      s.chip.hst.stage.applyAt = false →
      s.chip.imgFails s.chip.hst.stage = none →
      s.chip.imgWrongState s.chip.hst.stage = none →
      s.chip.imgChainBusy s.chip.hst.stage = true →
      ∃ s', exec (.imgCheckComplete t) s = .next s' ∧ s'.chip.now = t
      ∧ s'.chip.finalGone l.org (replyWords l.op l.tag stBUSY 0 [])
      ∧ s'.chip.hst.longs = s.chip.hst.longs.erase l
      ∧ s'.chip.hst.stage = { s.chip.hst.stage with running := false, applyAt := false, result := 3, failSec := 4, failDetail := 0 }
      ∧ s'.chip.mem = s.chip.mem
      ∧ s.chip.regsBut s'.chip [HST_INT_STATUS, HST_STATUS]) ∧
    (s.chip.ready t → ∀ l : LongCmd, s.chip.commitCmd = some l →
      s.chip.hst.stage.running = true →
      s.chip.hst.stage.applyAt = false →
      s.chip.imgFails s.chip.hst.stage = none →
      s.chip.imgWrongState s.chip.hst.stage = none →
      s.chip.imgChainBusy s.chip.hst.stage = false →
      (s.chip.opState ≠ 0 ∨ s.chip.role = 1) →
      ∃ s', exec (.imgCheckComplete t) s = .next s' ∧ s'.chip.now = t
      ∧ s'.chip.hst.stage = { s.chip.hst.stage with result := 2, applyAt := true }
      ∧ s'.chip.mem = s.chip.mem
      ∧ s.chip.regsSame s'.chip
      ∧ s'.chip.hst.longs = s.chip.hst.longs) ∧
    (s.chip.ready t → ∀ l : LongCmd, s.chip.commitCmd = some l →
      s.chip.hst.stage.running = true →
      s.chip.hst.stage.applyAt = false →
      s.chip.imgFails s.chip.hst.stage = none →
      s.chip.imgWrongState s.chip.hst.stage = none →
      s.chip.imgChainBusy s.chip.hst.stage = false →
      s.chip.opState = 0 →
      s.chip.role ≠ 1 →
      ∃ s', exec (.imgCheckComplete t) s = .next s' ∧ s'.chip.now = t
      ∧ s'.chip.finalGone l.org (replyWords l.op l.tag stOK 0 [])
      ∧ s'.chip.hst.stage = { s.chip.hst.stage with running := false, applyAt := false, result := 2, activeId := s.chip.hst.stage.imageId, loaded := true }
      ∧ s'.chip.mem = (s.chip.imgOver s.chip.hst.stage).mem
      ∧ s'.chip.hst.longs = s.chip.hst.longs.erase l)

/-- LOG_RELEASE, LOG_FREEZE and the Logbook over a warm reset. -/
def Obligations.FrozenLogsAreReleasedAndWarmResetsKeepThem : Prop :=
  ∀ (s : State) (t : Nat),
    (∀ (ifc : Iface) (tag target : Word) (pl : List Word), s.chip.takes t 0x0E04 ifc tag target pl 0 →
      s.chip.lstate ≠ 2 →
      s.chip.lstate ≠ 3 →
      ∃ s', exec (.logRelease t ifc tag target pl) s = .next s'
      ∧ Done s t 0x0E04 ifc tag target pl stWRONG_STATE 0 [] s'
      ∧ s'.chip.log = s.chip.log
      ∧ s'.chip.boot.flash = s.chip.boot.flash
      ∧ s.chip.regsSame s'.chip) ∧
    (∀ (ifc : Iface) (tag target : Word) (pl : List Word), s.chip.takes t 0x0E04 ifc tag target pl 0 →
      (s.chip.lstate = 2 ∨ s.chip.lstate = 3) →
      s.chip.flag LOG_STATUS__SAVING = true →
      ∃ s', exec (.logRelease t ifc tag target pl) s = .next s'
      ∧ Done s t 0x0E04 ifc tag target pl stBUSY 0 [] s'
      ∧ s'.chip.log = s.chip.log
      ∧ s'.chip.boot.flash = s.chip.boot.flash
      ∧ s.chip.regsSame s'.chip) ∧
    (∀ (ifc : Iface) (tag target : Word) (pl : List Word), s.chip.takes t 0x0E04 ifc tag target pl 0 →
      (s.chip.lstate = 2 ∨ s.chip.lstate = 3) →
      s.chip.flag LOG_STATUS__SAVING = false →
      s.chip.log.bootEvt = none →
      ∃ s', exec (.logRelease t ifc tag target pl) s = .next s'
      ∧ Done s t 0x0E04 ifc tag target pl stOK 0 [] s'
      ∧ s'.chip.lstate = 0
      ∧ s'.chip.log.mem = []
      ∧ (tabGet (fun _ => (0xFF : Byte)) s'.chip.boot.flash (saveAt (s.chip.fld LOG_SAVE_STAT__NEWEST) + 6) = if s.chip.lstate = 3 ∨ s.chip.flag LOG_STATUS__SAVED = true then 0 else tabGet (fun _ => (0xFF : Byte)) s.chip.boot.flash (saveAt (s.chip.fld LOG_SAVE_STAT__NEWEST) + 6))
      ∧ (∀ a : Nat, a ≠ saveAt (s.chip.fld LOG_SAVE_STAT__NEWEST) + 6 → tabGet (fun _ => (0xFF : Byte)) s'.chip.boot.flash a = tabGet (fun _ => (0xFF : Byte)) s.chip.boot.flash a)
      ∧ s'.chip.reg LOG_WR_SEQ = s.chip.reg LOG_WR_SEQ
      ∧ s'.chip.fld LOG_STATUS__FRZ_CAUSE = s.chip.fld LOG_STATUS__FRZ_CAUSE
      ∧ s.chip.regsBut s'.chip [LOG_STATUS]) ∧
    (∀ (ifc : Iface) (tag target : Word) (pl : List Word), s.chip.takes t 0x0E04 ifc tag target pl 0 →
      ∀ e : Word × Word × Word, s.chip.log.bootEvt = some e →
      (s.chip.lstate = 2 ∨ s.chip.lstate = 3) →
      s.chip.flag LOG_STATUS__SAVING = false →
      s.chip.log.lostPend = 0 →
      ∃ s', exec (.logRelease t ifc tag target pl) s = .next s'
      ∧ Done s t 0x0E04 ifc tag target pl stOK 0 [] s'
      ∧ s'.chip.lstate = 0
      ∧ (∀ a : Nat, (a < logRing + 32 * s.chip.fld LOG_WR_IDX__IDX ∨ logRing + 32 * s.chip.fld LOG_WR_IDX__IDX + 32 ≤ a) → tabGet (fun _ => (0 : Byte)) s'.chip.log.mem a = 0)
      ∧ memWords 0 s'.chip.log.mem (logRing + 32 * s.chip.fld LOG_WR_IDX__IDX) 8 = w32 (s.chip.reg LOG_WR_SEQ) :: (s.chip.at t).logEntry (s.chip.at t).phase 1 e.1 e.2.1 e.2.2
      ∧ s'.chip.log.bootEvt = none
      ∧ (tabGet (fun _ => (0xFF : Byte)) s'.chip.boot.flash (saveAt (s.chip.fld LOG_SAVE_STAT__NEWEST) + 6) = if s.chip.lstate = 3 ∨ s.chip.flag LOG_STATUS__SAVED = true then 0 else tabGet (fun _ => (0xFF : Byte)) s.chip.boot.flash (saveAt (s.chip.fld LOG_SAVE_STAT__NEWEST) + 6))
      ∧ (∀ a : Nat, a ≠ saveAt (s.chip.fld LOG_SAVE_STAT__NEWEST) + 6 → tabGet (fun _ => (0xFF : Byte)) s'.chip.boot.flash a = tabGet (fun _ => (0xFF : Byte)) s.chip.boot.flash a)
      ∧ s'.chip.reg LOG_WR_SEQ = (s.chip.reg LOG_WR_SEQ + 1) % 2 ^ 32
      ∧ s'.chip.fld LOG_WR_IDX__IDX = (s.chip.fld LOG_WR_IDX__IDX + 1) % 2 ^ 16
      ∧ s.chip.regsBut s'.chip [LOG_STATUS, LOG_WR_SEQ, LOG_WR_IDX]) ∧
    (∀ (ifc : Iface) (tag target : Word) (pl : List Word), s.chip.takes t 0x0E03 ifc tag target pl 0 →
      1 < s.chip.lstate →
      ∃ s', exec (.logFreeze t ifc tag target pl) s = .next s'
      ∧ Done s t 0x0E03 ifc tag target pl stWRONG_STATE 0 [] s'
      ∧ s'.chip.log = s.chip.log
      ∧ s'.chip.boot.flash = s.chip.boot.flash
      ∧ s.chip.regsSame s'.chip) ∧
    (∀ (ifc : Iface) (tag target : Word) (pl : List Word), s.chip.takes t 0x0E03 ifc tag target pl 0 →
      s.chip.lstate ≤ 1 →
      ∃ s', exec (.logFreeze t ifc tag target pl) s = .next s'
      ∧ Done s t 0x0E03 ifc tag target pl stOK 0 [] s'
      ∧ s'.chip.lstate = 2
      ∧ s'.chip.fld LOG_STATUS__FRZ_CAUSE = 9
      ∧ s'.chip.reg LOG_FRZ_SEQ = (s.chip.reg LOG_WR_SEQ + 2 ^ 32 - 1) % 2 ^ 32
      ∧ s'.chip.reg LOG_WR_SEQ = s.chip.reg LOG_WR_SEQ
      ∧ s'.chip.flag LOG_INT_STATUS__FROZEN = true
      ∧ s'.chip.flag LOG_STATUS__SAVED = false
      ∧ s'.chip.log.mem = s.chip.log.mem
      ∧ s'.chip.log.pendSlots = []
      ∧ s'.chip.boot.flash = s.chip.boot.flash
      ∧ s.chip.regsBut s'.chip [LOG_STATUS, LOG_FRZ_SEQ, LOG_INT_STATUS, LKP_DEPTH 2 0, LKP_INT_STATUS]) ∧
    (tabWf regReset s.chip.regs = true → ∀ (ifc : Iface) (tag target : Word) (pl : List Word), s.chip.takes t 0x0103 ifc tag target pl 0 →
      target = 1 →
      (s.chip.opState ≤ 1 ∨ s.chip.opState = 4) →
      ∃ s', exec (.reset t ifc tag target pl) s = .next s'
      ∧ s'.chip.boot.phase = .rom
      ∧ s'.chip.log = s.chip.log
      ∧ s'.chip.lstate = s.chip.lstate
      ∧ s'.chip.fld LOG_STATUS__FRZ_CAUSE = s.chip.fld LOG_STATUS__FRZ_CAUSE
      ∧ (∀ off ∈ [LOG_CFG, LOG_TRIG, LOG_SPHASE, LOG_SNAP_LMASK, LOG_INT_EN, LOG_WR_SEQ, LOG_WR_IDX, LOG_FRZ_SEQ, LOG_FRZ_POUND, LOG_SAVE_STAT], s'.chip.reg off = s.chip.reg off)
      ∧ (∀ j < 64, s'.chip.reg (LOG_SNAP_SEL j) = s.chip.reg (LOG_SNAP_SEL j)))

/-- LOG_SAVE, LOG_SNAPSHOT_PROBE, LOG_SLOT_COMPLETE, LOG_SAVE_COMPLETE and SPARE_ERASE_DONE. -/
def Obligations.PoundsAreSnappedAndFrozenLogsSaved : Prop :=
  ∀ (s : State) (t : Nat),
    (∀ (ifc : Iface) (tag target : Word) (pl : List Word), s.chip.takes t 0x0E05 ifc tag target pl 0 →
      s.chip.lstate ≠ 2 →
      ∃ s', exec (.logSave t ifc tag target pl) s = .next s'
      ∧ Done s t 0x0E05 ifc tag target pl stWRONG_STATE 0 [] s'
      ∧ s'.chip.log = s.chip.log
      ∧ s'.chip.boot.flash = s.chip.boot.flash
      ∧ s.chip.regsSame s'.chip) ∧
    (∀ (ifc : Iface) (tag target : Word) (pl : List Word), s.chip.takes t 0x0E05 ifc tag target pl 0 →
      s.chip.lstate = 2 →
      (s.chip.flag LOG_STATUS__SAVING = true ∨ s.chip.flag LOG_STATUS__SPARE_ERASED = false ∨ s.chip.longFree 0x0E05 0 = false) →
      ∃ s', exec (.logSave t ifc tag target pl) s = .next s'
      ∧ Done s t 0x0E05 ifc tag target pl stBUSY 0 [] s'
      ∧ s'.chip.log = s.chip.log
      ∧ s'.chip.boot.flash = s.chip.boot.flash
      ∧ s.chip.regsSame s'.chip) ∧
    (∀ (ifc : Iface) (tag target : Word) (pl : List Word), s.chip.takes t 0x0E05 ifc tag target pl 0 →
      s.chip.lstate = 2 →
      s.chip.flag LOG_STATUS__SAVING = false →
      s.chip.flag LOG_STATUS__SPARE_ERASED = true →
      s.chip.longFree 0x0E05 0 = true →
      ∃ s', exec (.logSave t ifc tag target pl) s = .next s'
      ∧ Done s t 0x0E05 ifc tag target pl stACCEPTED 0 [] s'
      ∧ s'.chip.flag LOG_STATUS__SAVING = true
      ∧ s'.chip.hst.longs.length = s.chip.hst.longs.length + 1
      ∧ ((s.chip.list 2 0).length < 256 → (s'.chip.list 2 0) = enlist ⟨3, 0, none, .logSave, t, .firmware⟩ (s.chip.list 2 0) ∧ s'.chip.log.savePend = false)
      ∧ (256 ≤ (s.chip.list 2 0).length → (s'.chip.list 2 0) = (s.chip.list 2 0) ∧ s'.chip.log.savePend = true)
      ∧ s'.chip.log.mem = s.chip.log.mem
      ∧ s'.chip.boot.flash = s.chip.boot.flash
      ∧ s.chip.regsBut s'.chip [LOG_STATUS, LKP_DEPTH 2 0, LKP_INT_STATUS]) ∧
    (s.chip.boot.phase = .run → (1 < s.chip.lstate ∨ (s.chip.log.pendSlots.any (fun e => e.1 == s.chip.poundNum)) = true) →
      ∃ s', exec .logSnapshotProbe s = .next s' ∧ s'.chip.log = s.chip.log
      ∧ s.chip.regsSame s'.chip) ∧
    (s.chip.boot.phase = .run → s.chip.lstate ≤ 1 → (s.chip.log.pendSlots.all (fun e => e.1 != s.chip.poundNum)) = true →
      ∃ s', exec .logSnapshotProbe s = .next s' ∧ s'.chip.now = max s.chip.now (s.chip.pnd.start + min (s.chip.fld LOG_SPHASE__SPHASE) (s.chip.pnd.len - 1))
      ∧ memWords 0 s'.chip.log.mem (slotAt s.chip.poundNum) 7 = [w32 s.chip.poundNum, 0, w32 (s.chip.reg SYS_STATE), w32 s.chip.pnd.cn, w32 (s.chip.pnd.cn / 2 ^ 32), w32 (tb0Of s.chip.pnd.start), w32 (tb0Of s.chip.pnd.start / 2 ^ 32)]
      ∧ memWords 0 s'.chip.log.mem (slotAt s.chip.poundNum + 0x1C) 9 = List.replicate 9 0
      ∧ (∀ j < 64, leNat (memBytes 0 s'.chip.log.mem (slotAt s.chip.poundNum + 0x40 + 2 * j) 2) = (s.chip.at (s.chip.pnd.start + min (s.chip.fld LOG_SPHASE__SPHASE) (s.chip.pnd.len - 1))).probeSrc (s.chip.fld (LOG_SNAP_SEL__SEL j)) % 2 ^ 16)
      ∧ (∀ i < 12096, tabGet (fun _ => (0 : Byte)) s'.chip.log.mem (slotAt s.chip.poundNum + 0xC0 + i) = 0)
      ∧ (∀ a : Nat, (a < slotAt s.chip.poundNum ∨ slotAt s.chip.poundNum + 12288 ≤ a) → tabGet (fun _ => (0 : Byte)) s'.chip.log.mem a = tabGet (fun _ => (0 : Byte)) s.chip.log.mem a)
      ∧ s'.chip.log.pendSlots = s.chip.log.pendSlots ++ [(s.chip.poundNum, [], false)]
      ∧ s.chip.regsSame s'.chip) ∧
    (s.chip.ready t →
      (s.chip.log.pendSlots.find? (fun e => e.1 != s.chip.poundNum) = none ∨ 1 < s.chip.lstate) →
      ∃ s', exec (.logSlotComplete t) s = .next s' ∧ s'.chip.now = t
      ∧ s'.chip.log = s.chip.log
      ∧ s.chip.regsSame s'.chip) ∧
    (s.chip.ready t → ∀ e : Nat × List Byte × Bool, s.chip.log.pendSlots.find? (fun e => e.1 != s.chip.poundNum) = some e →
      s.chip.lstate ≤ 1 →
      ∃ s', exec (.logSlotComplete t) s = .next s' ∧ s'.chip.now = t
      ∧ memWords 0 s'.chip.log.mem (slotAt e.1 + 4) 1 = [w32 (2 ^ 31 + b2n e.2.2 * 2 ^ 30 + e.2.1.length)]
      ∧ memBytes 0 s'.chip.log.mem (slotAt e.1 + 0xC0) e.2.1.length = e.2.1
      ∧ (∀ a : Nat, (a < slotAt e.1 + 4 ∨ (slotAt e.1 + 8 ≤ a ∧ a < slotAt e.1 + 0xC0) ∨ slotAt e.1 + 0xC0 + e.2.1.length ≤ a) → tabGet (fun _ => (0 : Byte)) s'.chip.log.mem a = tabGet (fun _ => (0 : Byte)) s.chip.log.mem a)
      ∧ ((s.chip.lstate = 1 ∧ s.chip.log.freezeAt.map (· % 2 ^ 32) = some e.1) → s'.chip.lstate = 2 ∧ s'.chip.reg LOG_FRZ_SEQ = (s.chip.reg LOG_WR_SEQ + 2 ^ 32 - 1) % 2 ^ 32 ∧ s'.chip.flag LOG_INT_STATUS__FROZEN = true ∧ s'.chip.log.pendSlots = [] ∧ s'.chip.fld LOG_STATUS__FRZ_CAUSE = s.chip.fld LOG_STATUS__FRZ_CAUSE)
      ∧ ((s.chip.lstate = 1 ∧ s.chip.log.freezeAt.map (· % 2 ^ 32) = some e.1) → s.chip.flag LOG_CFG__AUTO_SAVE = true → s.chip.flag LOG_STATUS__SAVING = false → if s.chip.flag LOG_STATUS__SPARE_ERASED then s'.chip.flag LOG_STATUS__SAVING = true else s'.chip.log.savePend = true)
      ∧ (¬ (s.chip.lstate = 1 ∧ s.chip.log.freezeAt.map (· % 2 ^ 32) = some e.1) → s.chip.regsSame s'.chip ∧ s'.chip.log.pendSlots = s.chip.log.pendSlots.filter (fun x => x.1 != e.1))) ∧
    (s.chip.ready t → ∀ ok : Bool, (s.chip.flag LOG_STATUS__SAVING = false ∨ s.chip.works .logSave = false) →
      ∃ s', exec (.logSaveComplete t ok) s = .next s' ∧ s'.chip.now = t
      ∧ s'.chip.log = s.chip.log
      ∧ s'.chip.boot.flash = s.chip.boot.flash
      ∧ s.chip.regsSame s'.chip) ∧
    (s.chip.ready t →
      s.chip.flag LOG_STATUS__SAVING = true →
      s.chip.works .logSave = true →
      ∃ s', exec (.logSaveComplete t true) s = .next s' ∧ s'.chip.now = t
      ∧ s'.chip.flag LOG_STATUS__SAVING = false
      ∧ s'.chip.flag LOG_STATUS__SPARE_ERASED = false
      ∧ s'.chip.flag LOG_STATUS__SAVED = true
      ∧ s'.chip.flag LOG_INT_STATUS__SAVE_DONE = true
      ∧ s'.chip.fld LOG_SAVE_STAT__NEWEST = (1 - s.chip.fld LOG_SAVE_STAT__NEWEST)
      ∧ s'.chip.fld LOG_SAVE_STAT__RESULT = 1
      ∧ s'.chip.works .logSave = false
      ∧ (s'.chip.boot.flash = flashPut s.chip.boot.flash (saveAt (1 - s.chip.fld LOG_SAVE_STAT__NEWEST)) s.chip.saveImage)
      ∧ s'.chip.log = { s.chip.log with saveCnt := (s.chip.log.saveCnt + 1) % 2 ^ 32 }
      ∧ s'.chip.lstate = s.chip.lstate
      ∧ (∀ l : LongCmd, s.chip.hst.longs.find? (fun l => l.op == 0x0E05) = some l → s'.chip.finalGone l.org (replyWords l.op l.tag stOK 0 []) ∧ s'.chip.hst.longs = s.chip.hst.longs.erase l)) ∧
    (s.chip.ready t →
      s.chip.flag LOG_STATUS__SAVING = true →
      s.chip.works .logSave = true →
      ∃ s', exec (.logSaveComplete t false) s = .next s' ∧ s'.chip.now = t
      ∧ s'.chip.flag LOG_STATUS__SAVING = false
      ∧ s'.chip.fld LOG_SAVE_STAT__RESULT = 2
      ∧ s'.chip.flag LOG_INT_STATUS__SAVE_FAIL = true
      ∧ s'.chip.works .logSave = false
      ∧ s'.chip.boot.flash = s.chip.boot.flash
      ∧ s'.chip.log = s.chip.log
      ∧ s'.chip.lstate = s.chip.lstate
      ∧ (∀ l : LongCmd, s.chip.hst.longs.find? (fun l => l.op == 0x0E05) = some l → s'.chip.finalGone l.org (replyWords l.op l.tag stIO_ERR 0 []) ∧ s'.chip.hst.longs = s.chip.hst.longs.erase l)) ∧
    (s.chip.ready t →
      (s.chip.flag LOG_STATUS__SPARE_ERASED = true ∨ s.chip.flag LOG_STATUS__SAVING = true) →
      ∃ s', exec (.spareEraseDone t) s = .next s' ∧ s'.chip.now = t
      ∧ s'.chip.log = s.chip.log
      ∧ s'.chip.boot.flash = s.chip.boot.flash
      ∧ s.chip.regsSame s'.chip) ∧
    (s.chip.ready t →
      s.chip.flag LOG_STATUS__SPARE_ERASED = false →
      s.chip.flag LOG_STATUS__SAVING = false →
      ∃ s', exec (.spareEraseDone t) s = .next s' ∧ s'.chip.now = t
      ∧ s'.chip.flag LOG_STATUS__SPARE_ERASED = true
      ∧ (∀ i < 0x400000, tabGet (fun _ => (0xFF : Byte)) s'.chip.boot.flash (saveAt (1 - s.chip.fld LOG_SAVE_STAT__NEWEST) + i) = 0xFF)
      ∧ (∀ a : Nat, (a < saveAt (1 - s.chip.fld LOG_SAVE_STAT__NEWEST) ∨ saveAt (1 - s.chip.fld LOG_SAVE_STAT__NEWEST) + 0x400000 ≤ a) → tabGet (fun _ => (0xFF : Byte)) s'.chip.boot.flash a = tabGet (fun _ => (0xFF : Byte)) s.chip.boot.flash a)
      ∧ s'.chip.log.mem = s.chip.log.mem
      ∧ (s'.chip.flag LOG_STATUS__SAVING = (s.chip.log.savePend && s.chip.lstate == 2))
      ∧ s.chip.regsBut s'.chip [LOG_STATUS, LKP_DEPTH 2 0, LKP_INT_STATUS]) ∧
    (s.chip.saveImage.take 64 = wordsBytes ( [0x514D4C42, w32 (2 ^ 24 + 0xFF * 2 ^ 16 + s.chip.fld LOG_STATUS__FRZ_CAUSE * 2 ^ 8 + s.chip.fld LOG_CFG__SAVE_P), w32 (s.chip.log.saveCnt + 1), w32 (s.chip.reg LOG_FRZ_POUND), w32 (s.chip.reg LOG_FRZ_SEQ), w32 (s.chip.fld LOG_WR_IDX__IDX), crc32 (s.chip.saveImage.drop 64), w32 s.chip.log.tbAtFreeze.toNat, w32 (s.chip.log.tbAtFreeze.toNat / 2 ^ 32)] ++ List.replicate 7 0)
      ∧ (s.chip.saveImage.drop 64).take 0x200000 = memBytes 0 s.chip.log.mem logRing 0x200000
      ∧ (∀ i < s.chip.fld LOG_CFG__SAVE_P, (s.chip.saveImage.drop (64 + 0x200000 + 12288 * i)).take 12288 = memBytes 0 s.chip.log.mem (slotAt (s.chip.reg LOG_FRZ_POUND + s.chip.fld LOG_CFG__POST_P + 2 ^ 32 + 1 - s.chip.fld LOG_CFG__SAVE_P + i)) 12288))

/-- VIN_RISE, RESET_N, BROWNOUT, VIN_RET_LOSS, THERMAL_HOLD, THERMAL_HOLD_END, CLOCK_RETURN, TESTMODE_CHANGE, JTAG_INSTRUCTION, WATCHDOG_EXPIRY, LOCKSTEP_ERROR, RESET and BOOT_VERIFY_COMPLETE. -/
def Obligations.ResetsAndSecureBoot : Prop :=
  ∀ (s : State) (t : Nat),
    ((s.chip.boot.phase ≠ .hold ∨ s.chip.boot.holdPin = true ∨ s.chip.boot.holdThermal = true ∨ s.chip.boot.holdClock = true ∨ s.chip.boot.holdTest = true) →
      ∃ s', exec (.vinRise ⟨t, true⟩) s = .next s'
      ∧ s'.chip.boot = { s.chip.boot with holdVin := false }
      ∧ s'.chip.now = max s.chip.now t
      ∧ s'.chip.log = s.chip.log
      ∧ s.chip.regsSame s'.chip) ∧
    (s.chip.boot.phase = .hold →
      s.chip.boot.holdPin = false →
      s.chip.boot.holdThermal = false →
      s.chip.boot.holdClock = false →
      s.chip.boot.holdTest = false →
      ∃ s', exec (.vinRise ⟨t, true⟩) s = .next s'
      ∧ s'.chip.boot = { s.chip.boot with phase := .rom, cause := s.chip.boot.cause, commitSvn := none, moored := false, logKept := s.chip.boot.logKept, ramImage := false, warm := false, holdVin := false }
      ∧ s'.chip.coldCleared
      ∧ s.chip.outputsFallen s'.chip
      ∧ (s.chip.boot.logKept = false → s'.chip.regs = [] ∧ s'.chip.log = Logbook.init)
      ∧ (s.chip.boot.logKept = true → s'.chip.regs = s.chip.logRegs ∧ s'.chip.log = { s.chip.log with pendSlots := [] })) ∧
    (s.chip.boot.phase = .hold →
      ∃ s', exec (.vinRise ⟨t, false⟩) s = .next s'
      ∧ s'.chip.boot = { s.chip.boot with holdVin := true }
      ∧ s'.chip.log = s.chip.log
      ∧ s.chip.regsSame s'.chip) ∧
    (s.chip.boot.phase ≠ .hold →
      ∃ s', exec (.vinRise ⟨t, false⟩) s = .next s'
      ∧ s'.chip.boot.phase = .hold ∧ s'.chip.boot.holdVin = true
      ∧ s'.chip.coldCleared
      ∧ s.chip.outputsFallen s'.chip) ∧
    ((s.chip.boot.phase ≠ .hold ∨ s.chip.boot.holdVin = true ∨ s.chip.boot.holdThermal = true ∨ s.chip.boot.holdClock = true ∨ s.chip.boot.holdTest = true) →
      ∃ s', exec (.resetN t false) s = .next s'
      ∧ s'.chip.boot = { s.chip.boot with holdPin := false }
      ∧ s'.chip.now = max s.chip.now t
      ∧ s'.chip.log = s.chip.log
      ∧ s.chip.regsSame s'.chip) ∧
    (s.chip.boot.phase = .hold →
      s.chip.boot.holdVin = false →
      s.chip.boot.holdThermal = false →
      s.chip.boot.holdClock = false →
      s.chip.boot.holdTest = false →
      ∃ s', exec (.resetN t false) s = .next s'
      ∧ s'.chip.boot = { s.chip.boot with phase := .rom, cause := s.chip.boot.cause, commitSvn := none, moored := false, logKept := s.chip.boot.logKept, ramImage := false, warm := false, holdPin := false }
      ∧ s'.chip.coldCleared
      ∧ s.chip.outputsFallen s'.chip
      ∧ (s.chip.boot.logKept = false → s'.chip.regs = [] ∧ s'.chip.log = Logbook.init)
      ∧ (s.chip.boot.logKept = true → s'.chip.regs = s.chip.logRegs ∧ s'.chip.log = { s.chip.log with pendSlots := [] })) ∧
    ((s.chip.boot.phase ≠ .hold ∨ s.chip.boot.holdVin = true ∨ s.chip.boot.holdPin = true ∨ s.chip.boot.holdClock = true ∨ s.chip.boot.holdTest = true) →
      ∃ s', exec (.thermalHoldEnd t) s = .next s'
      ∧ s'.chip.boot = { s.chip.boot with holdThermal := false }
      ∧ s'.chip.now = max s.chip.now t
      ∧ s'.chip.log = s.chip.log
      ∧ s.chip.regsSame s'.chip) ∧
    (s.chip.boot.phase = .hold →
      s.chip.boot.holdVin = false →
      s.chip.boot.holdPin = false →
      s.chip.boot.holdClock = false →
      s.chip.boot.holdTest = false →
      ∃ s', exec (.thermalHoldEnd t) s = .next s'
      ∧ s'.chip.boot = { s.chip.boot with phase := .rom, cause := s.chip.boot.cause, commitSvn := none, moored := false, logKept := s.chip.boot.logKept, ramImage := false, warm := false, holdThermal := false }
      ∧ s'.chip.coldCleared
      ∧ s.chip.outputsFallen s'.chip
      ∧ (s.chip.boot.logKept = false → s'.chip.regs = [] ∧ s'.chip.log = Logbook.init)
      ∧ (s.chip.boot.logKept = true → s'.chip.regs = s.chip.logRegs ∧ s'.chip.log = { s.chip.log with pendSlots := [] })) ∧
    ((s.chip.boot.phase ≠ .hold ∨ s.chip.boot.holdVin = true ∨ s.chip.boot.holdPin = true ∨ s.chip.boot.holdThermal = true ∨ s.chip.boot.holdTest = true) →
      ∃ s', exec (.clockReturn t) s = .next s'
      ∧ s'.chip.boot = { s.chip.boot with holdClock := false }
      ∧ s'.chip.now = max s.chip.now t
      ∧ s'.chip.log = s.chip.log
      ∧ s.chip.regsSame s'.chip) ∧
    (s.chip.boot.phase = .hold →
      s.chip.boot.holdVin = false →
      s.chip.boot.holdPin = false →
      s.chip.boot.holdThermal = false →
      s.chip.boot.holdTest = false →
      ∃ s', exec (.clockReturn t) s = .next s'
      ∧ s'.chip.boot = { s.chip.boot with phase := .rom, cause := s.chip.boot.cause, commitSvn := none, moored := false, logKept := s.chip.boot.logKept, ramImage := false, warm := false, holdClock := false }
      ∧ s'.chip.coldCleared
      ∧ s.chip.outputsFallen s'.chip
      ∧ (s.chip.boot.logKept = false → s'.chip.regs = [] ∧ s'.chip.log = Logbook.init)
      ∧ (s.chip.boot.logKept = true → s'.chip.regs = s.chip.logRegs ∧ s'.chip.log = { s.chip.log with pendSlots := [] })) ∧
    ((s.chip.boot.phase ≠ .hold ∨ s.chip.boot.holdVin = true ∨ s.chip.boot.holdPin = true ∨ s.chip.boot.holdThermal = true ∨ s.chip.boot.holdClock = true) →
      ∃ s', exec (.testmodeChange t false) s = .next s'
      ∧ s'.chip.boot = { s.chip.boot with holdTest := false, testmode := false, extest := false }
      ∧ s'.chip.now = max s.chip.now t
      ∧ s'.chip.log = s.chip.log
      ∧ s.chip.regsSame s'.chip) ∧
    (s.chip.boot.phase = .hold →
      s.chip.boot.holdVin = false →
      s.chip.boot.holdPin = false →
      s.chip.boot.holdThermal = false →
      s.chip.boot.holdClock = false →
      ∃ s', exec (.testmodeChange t false) s = .next s'
      ∧ s'.chip.boot = { s.chip.boot with phase := .rom, cause := s.chip.boot.cause, commitSvn := none, moored := false, logKept := s.chip.boot.logKept, ramImage := false, warm := false, holdTest := false, testmode := false, extest := false }
      ∧ s'.chip.coldCleared
      ∧ s.chip.outputsFallen s'.chip
      ∧ (s.chip.boot.logKept = false → s'.chip.regs = [] ∧ s'.chip.log = Logbook.init)
      ∧ (s.chip.boot.logKept = true → s'.chip.regs = s.chip.logRegs ∧ s'.chip.log = { s.chip.log with pendSlots := [] })) ∧
    (s.chip.boot.phase = .hold →
      ∃ s', exec (.resetN t true) s = .next s'
      ∧ s'.chip.boot = { s.chip.boot with holdPin := true }
      ∧ s'.chip.log = s.chip.log
      ∧ s.chip.regsSame s'.chip) ∧
    (s.chip.boot.phase ≠ .hold →
      ∃ s', exec (.resetN t true) s = .next s'
      ∧ s'.chip.boot = { s.chip.boot with phase := .hold, cause := 1, commitSvn := none, moored := false, logKept := false, ramImage := false, warm := false, holdPin := true }
      ∧ s'.chip.coldCleared
      ∧ s.chip.outputsFallen s'.chip
      ∧ s'.chip.regs = []
      ∧ s'.chip.log = Logbook.init) ∧
    (s.chip.boot.phase = .hold →
      ∃ s', exec (.testmodeChange t true) s = .next s'
      ∧ s'.chip.boot = { s.chip.boot with testmode := true, holdTest := true, extest := decide (s.chip.boot.jtagIr ∈ pinInstr) }
      ∧ s'.chip.log = s.chip.log
      ∧ s.chip.regsSame s'.chip) ∧
    (s.chip.boot.phase ≠ .hold →
      ∃ s', exec (.testmodeChange t true) s = .next s'
      ∧ s'.chip.boot = { s.chip.boot with phase := .hold, cause := s'.chip.boot.cause, commitSvn := none, moored := false, logKept := false, ramImage := false, warm := false, testmode := true, holdTest := true, extest := decide (s.chip.boot.jtagIr ∈ pinInstr) }
      ∧ s'.chip.boot.cause < 8
      ∧ s'.chip.coldCleared
      ∧ s.chip.outputsFallen s'.chip
      ∧ s'.chip.regs = []
      ∧ s'.chip.log = Logbook.init) ∧
    (∀ ir : BitVec 6, ∃ s', exec (.jtagInstruction t ir) s = .next s'
      ∧ s'.chip.boot = { s.chip.boot with jtagIr := ir, extest := s.chip.boot.testmode && decide (ir ∈ pinInstr) }
      ∧ s'.chip.now = max s.chip.now t
      ∧ s'.chip.log = s.chip.log
      ∧ s.chip.regsSame s'.chip) ∧
    (s.chip.boot.phase = .hold →
      ∃ s', exec (.brownout t) s = .next s'
      ∧ s'.chip.boot = { s.chip.boot with holdVin := true }
      ∧ s'.chip.log = s.chip.log
      ∧ s.chip.regsSame s'.chip) ∧
    (s.chip.boot.phase ≠ .hold →
      ∃ s', exec (.brownout t) s = .next s'
      ∧ s'.chip.boot = { s.chip.boot with phase := .hold, cause := 5, commitSvn := none, moored := false, logKept := true, ramImage := false, warm := false, holdVin := true }
      ∧ s'.chip.coldCleared
      ∧ s.chip.outputsFallen s'.chip
      ∧ (∀ off, notLog off = true → s'.chip.reg off = (regReset off).toNat)
      ∧ (∀ off ∈ [LOG_CFG, LOG_TRIG, LOG_SPHASE, LOG_SNAP_LMASK, LOG_INT_EN, LOG_FRZ_POUND, LOG_SAVE_STAT, LOG_BOOT, LOG_FW_VER], s'.chip.reg off = s.chip.reg off)
      ∧ (s.chip.lstate ≤ 1 → s'.chip.lstate = 2 ∧ s'.chip.fld LOG_STATUS__FRZ_CAUSE = 10 ∧ s'.chip.reg LOG_FRZ_SEQ = (s'.chip.reg LOG_WR_SEQ + 2 ^ 32 - 1) % 2 ^ 32)
      ∧ (s.chip.lstate ≤ 1 → ((s.chip.at t).logQueue = [] ∧ s.chip.log.lostPend = 0) → memWords 0 s'.chip.log.mem (logRing + 32 * s.chip.fld LOG_WR_IDX__IDX) 8 = w32 (s.chip.reg LOG_WR_SEQ) :: (s.chip.at t).logEntry (s.chip.at t).phase 19 0 0 0 ∧ s'.chip.reg LOG_WR_SEQ = (s.chip.reg LOG_WR_SEQ + 1) % 2 ^ 32)
      ∧ (1 < s.chip.lstate → s'.chip.lstate = s.chip.lstate ∧ s'.chip.log.mem = s.chip.log.mem ∧ s'.chip.reg LOG_WR_SEQ = s.chip.reg LOG_WR_SEQ)
      ∧ ((s.chip.role ≤ 1 ∧ s.chip.aquTalks = true ∧ s.chip.aquOn = true) → Output.aqu 6 (((s.chip.at t).aquHeader 6 s.chip.poundNum 0 8 false ++ [w32 3, w32 (s.chip.reg AQU_COMMIT)]) ++ [crc32w ((s.chip.at t).aquHeader 6 s.chip.poundNum 0 8 false ++ [w32 3, w32 (s.chip.reg AQU_COMMIT)]), 0]) ∈ s'.chip.out)) ∧
    (s.chip.boot.phase = .hold →
      ∃ s', exec (.thermalHold t) s = .next s'
      ∧ s'.chip.boot = { s.chip.boot with holdThermal := true }
      ∧ s'.chip.log = s.chip.log
      ∧ s.chip.regsSame s'.chip) ∧
    (s.chip.boot.phase ≠ .hold →
      ∃ s', exec (.thermalHold t) s = .next s'
      ∧ s'.chip.boot = { s.chip.boot with phase := .hold, cause := 5, commitSvn := none, moored := false, logKept := true, ramImage := false, warm := false, holdThermal := true }
      ∧ s'.chip.coldCleared
      ∧ s.chip.outputsFallen s'.chip
      ∧ (∀ off, notLog off = true → s'.chip.reg off = (regReset off).toNat)
      ∧ (∀ off ∈ [LOG_CFG, LOG_TRIG, LOG_SPHASE, LOG_SNAP_LMASK, LOG_INT_EN, LOG_FRZ_POUND, LOG_SAVE_STAT, LOG_BOOT, LOG_FW_VER], s'.chip.reg off = s.chip.reg off)
      ∧ (s.chip.lstate ≤ 1 → s'.chip.lstate = 2 ∧ s'.chip.fld LOG_STATUS__FRZ_CAUSE = 10 ∧ s'.chip.reg LOG_FRZ_SEQ = (s'.chip.reg LOG_WR_SEQ + 2 ^ 32 - 1) % 2 ^ 32)
      ∧ (s.chip.lstate ≤ 1 → ((s.chip.at t).logQueue = [] ∧ s.chip.log.lostPend = 0) → memWords 0 s'.chip.log.mem (logRing + 32 * s.chip.fld LOG_WR_IDX__IDX) 8 = w32 (s.chip.reg LOG_WR_SEQ) :: (s.chip.at t).logEntry (s.chip.at t).phase 19 0 0 0 ∧ s'.chip.reg LOG_WR_SEQ = (s.chip.reg LOG_WR_SEQ + 1) % 2 ^ 32)
      ∧ (1 < s.chip.lstate → s'.chip.lstate = s.chip.lstate ∧ s'.chip.log.mem = s.chip.log.mem ∧ s'.chip.reg LOG_WR_SEQ = s.chip.reg LOG_WR_SEQ)
      ∧ ((s.chip.role ≤ 1 ∧ s.chip.aquTalks = true ∧ s.chip.aquOn = true) → Output.aqu 6 (((s.chip.at t).aquHeader 6 s.chip.poundNum 0 8 false ++ [w32 3, w32 (s.chip.reg AQU_COMMIT)]) ++ [crc32w ((s.chip.at t).aquHeader 6 s.chip.poundNum 0 8 false ++ [w32 3, w32 (s.chip.reg AQU_COMMIT)]), 0]) ∈ s'.chip.out)) ∧
    ((s.chip.boot.phase ≠ .hold ∨ s.chip.boot.logKept = false) →
      ∃ s', exec (.vinRetLoss t) s = .next s'
      ∧ s'.chip.boot = s.chip.boot
      ∧ s'.chip.log = s.chip.log
      ∧ s.chip.regsSame s'.chip) ∧
    (s.chip.boot.phase = .hold →
      s.chip.boot.logKept = true →
      ∃ s', exec (.vinRetLoss t) s = .next s'
      ∧ s'.chip.boot = { s.chip.boot with logKept := false }
      ∧ s'.chip.log = Logbook.init
      ∧ s'.chip.regs = []) ∧
    (s.chip.ready t → ∀ pair : Fin 2, ∃ s', exec (.watchdogExpiry t pair) s = .next s'
      ∧ s'.chip.boot = { s.chip.boot with phase := .rom, cause := 3, commitSvn := none, moored := false, ramImage := false, warm := true }
      ∧ s'.chip.cleared
      ∧ s.chip.outputsFallen s'.chip
      ∧ s'.chip.tim = { s.chip.tim with tally := [], stamps := [] }
      ∧ s'.chip.pnd.start = s.chip.pnd.start
      ∧ s'.chip.pnd.len = s.chip.pnd.len
      ∧ s'.chip.pnd.sel = s.chip.pnd.sel
      ∧ s'.chip.pnd.selNew = s.chip.pnd.selNew
      ∧ s'.chip.weir.conf = s.chip.weir.conf
      ∧ s'.chip.weir.confV = s.chip.weir.confV
      ∧ s'.chip.weir.actV = false
      ∧ s'.chip.wstate = (if s.chip.wstate = 0 then 0 else if s.chip.wstate = 4 then 4 else 1)
      ∧ (s.chip.wstate = 4 → s'.chip.reg WEI_CAUSE = s.chip.reg WEI_CAUSE / 2 ^ 13 * 2 ^ 13 ∧ s'.chip.reg WEI_CAUSE_LATCH = s.chip.reg WEI_CAUSE_LATCH
          ∧ s'.chip.fld WEI_STATUS__FIRST_CAUSE = s.chip.fld WEI_STATUS__FIRST_CAUSE)
      ∧ (tabWf regReset s.chip.regs = true → ∀ off, warmKept off = false → off ≠ WEI_STATUS → (s.chip.wstate = 4 → off ≠ WEI_CAUSE ∧ off ≠ WEI_CAUSE_LATCH) → s'.chip.reg off = (regReset off).toNat)
      ∧ (tabWf regReset s.chip.regs = true → ∀ off, warmKept off = true → notLog off = true → s'.chip.reg off = (warmWord off (w32 (s.chip.reg off))).toNat)
      ∧ ((s.chip.fld LOG_TRIG__MASK).testBit 7 = true → s.chip.lstate ≤ 1 → s'.chip.lstate = 2 ∧ s'.chip.fld LOG_STATUS__FRZ_CAUSE = 7)
      ∧ (((s.chip.fld LOG_TRIG__MASK).testBit 7 = false ∨ 1 < s.chip.lstate) → s'.chip.lstate = s.chip.lstate)
      ∧ (1 < s.chip.lstate → s'.chip.log.mem = s.chip.log.mem)
      ∧ (s.chip.lstate ≤ 1 → ((s.chip.at t).logQueue = [] ∧ s.chip.log.lostPend = 0) → memWords 0 s'.chip.log.mem (logRing + 32 * s.chip.fld LOG_WR_IDX__IDX) 8 = w32 (s.chip.reg LOG_WR_SEQ) :: (s.chip.at t).logEntry (s.chip.at t).phase 17 (w32 pair.val) 0 0)
      ∧ ((s.chip.role ≤ 1 ∧ s.chip.aquTalks = true ∧ s.chip.aquOn = true) → Output.aqu 6 (((s.chip.at t).aquHeader 6 s.chip.poundNum 0 8 false ++ [w32 2, w32 (s.chip.reg AQU_COMMIT)]) ++ [crc32w ((s.chip.at t).aquHeader 6 s.chip.poundNum 0 8 false ++ [w32 2, w32 (s.chip.reg AQU_COMMIT)]), 0]) ∈ s'.chip.out)) ∧
    (s.chip.ready t → ∀ pair : Fin 2, ∃ s', exec (.lockstepError t pair) s = .next s'
      ∧ s'.chip.boot = { s.chip.boot with phase := .rom, cause := 4, commitSvn := none, moored := false, ramImage := false, warm := true }
      ∧ s'.chip.cleared
      ∧ s.chip.outputsFallen s'.chip
      ∧ s'.chip.tim = { s.chip.tim with tally := [], stamps := [] }
      ∧ s'.chip.pnd.start = s.chip.pnd.start
      ∧ s'.chip.pnd.len = s.chip.pnd.len
      ∧ s'.chip.pnd.sel = s.chip.pnd.sel
      ∧ s'.chip.pnd.selNew = s.chip.pnd.selNew
      ∧ s'.chip.weir.conf = s.chip.weir.conf
      ∧ s'.chip.weir.confV = s.chip.weir.confV
      ∧ s'.chip.weir.actV = false
      ∧ s'.chip.wstate = (if s.chip.wstate = 0 then 0 else if s.chip.wstate = 4 then 4 else 1)
      ∧ (s.chip.wstate = 4 → s'.chip.reg WEI_CAUSE = s.chip.reg WEI_CAUSE / 2 ^ 13 * 2 ^ 13 ∧ s'.chip.reg WEI_CAUSE_LATCH = s.chip.reg WEI_CAUSE_LATCH
          ∧ s'.chip.fld WEI_STATUS__FIRST_CAUSE = s.chip.fld WEI_STATUS__FIRST_CAUSE)
      ∧ (tabWf regReset s.chip.regs = true → ∀ off, warmKept off = false → off ≠ WEI_STATUS → (s.chip.wstate = 4 → off ≠ WEI_CAUSE ∧ off ≠ WEI_CAUSE_LATCH) → s'.chip.reg off = (regReset off).toNat)
      ∧ (tabWf regReset s.chip.regs = true → ∀ off, warmKept off = true → notLog off = true → s'.chip.reg off = (warmWord off (w32 (s.chip.reg off))).toNat)
      ∧ ((s.chip.fld LOG_TRIG__MASK).testBit 7 = true → s.chip.lstate ≤ 1 → s'.chip.lstate = 2 ∧ s'.chip.fld LOG_STATUS__FRZ_CAUSE = 7)
      ∧ (((s.chip.fld LOG_TRIG__MASK).testBit 7 = false ∨ 1 < s.chip.lstate) → s'.chip.lstate = s.chip.lstate)
      ∧ (1 < s.chip.lstate → s'.chip.log.mem = s.chip.log.mem)
      ∧ (s.chip.lstate ≤ 1 → ((s.chip.at t).logQueue = [] ∧ s.chip.log.lostPend = 0) → memWords 0 s'.chip.log.mem (logRing + 32 * s.chip.fld LOG_WR_IDX__IDX) 8 = w32 (s.chip.reg LOG_WR_SEQ) :: (s.chip.at t).logEntry (s.chip.at t).phase 18 (w32 pair.val) 0 0)
      ∧ ((s.chip.role ≤ 1 ∧ s.chip.aquTalks = true ∧ s.chip.aquOn = true) → Output.aqu 6 (((s.chip.at t).aquHeader 6 s.chip.poundNum 0 8 false ++ [w32 4, w32 (s.chip.reg AQU_COMMIT)]) ++ [crc32w ((s.chip.at t).aquHeader 6 s.chip.poundNum 0 8 false ++ [w32 4, w32 (s.chip.reg AQU_COMMIT)]), 0]) ∈ s'.chip.out)) ∧
    (∀ (ifc : Iface) (tag target : Word) (pl : List Word), s.chip.takes t 0x0103 ifc tag target pl 0 →
      target ≠ 1 →
      ∃ s', exec (.reset t ifc tag target pl) s = .next s'
      ∧ Done s t 0x0103 ifc tag target pl stINVALID_ARG 0xFFFF [] s'
      ∧ s'.chip.boot = s.chip.boot
      ∧ s'.chip.log = s.chip.log
      ∧ s.chip.regsSame s'.chip) ∧
    (∀ (ifc : Iface) (tag target : Word) (pl : List Word), s.chip.takes t 0x0103 ifc tag target pl 0 →
      target = 1 →
      (s.chip.opState = 2 ∨ s.chip.opState = 3) →
      ∃ s', exec (.reset t ifc tag target pl) s = .next s'
      ∧ Done s t 0x0103 ifc tag target pl stWRONG_STATE 0 [] s'
      ∧ s'.chip.boot = s.chip.boot
      ∧ s'.chip.log = s.chip.log
      ∧ s.chip.regsSame s'.chip) ∧
    (∀ (ifc : Iface) (tag target : Word) (pl : List Word), s.chip.takes t 0x0103 ifc tag target pl 0 →
      target = 1 →
      (s.chip.opState ≤ 1 ∨ s.chip.opState = 4) →
      ∃ s', exec (.reset t ifc tag target pl) s = .next s'
      ∧ (ifc ≠ .pcie → Replied s.chip 0x0103 ifc tag target pl stOK 0 [] s'.chip)
      ∧ (ifc = .pcie → ((s.chip.at t).takeIntake 0x0103 .pcie tag target pl).2.org.direct = false → ((s.chip.at t).takeIntake 0x0103 .pcie tag target pl).2.org.drop = false → s.chip.hst.pendCpl = [] → s.chip.flag HST_RING_CTL__EN = true → s.chip.cqFree = true → Output.dma ((s.chip.at t).takeIntake 0x0103 .pcie tag target pl).2.org.rspLo ((s.chip.at t).takeIntake 0x0103 .pcie tag target pl).2.org.rspHi ((replyWords 0x0103 tag stOK 0 []).take ((s.chip.at t).takeIntake 0x0103 .pcie tag target pl).2.org.rspWords) ∈ s'.chip.out)
      ∧ s'.chip.boot = { s.chip.boot with phase := .rom, cause := 2, commitSvn := none, moored := false, ramImage := false, warm := true }
      ∧ s'.chip.cleared
      ∧ s.chip.outputsFallen s'.chip
      ∧ s'.chip.now = t
      ∧ s'.chip.tim = { s.chip.tim with tally := [], stamps := [] }
      ∧ s'.chip.pnd.start = s.chip.pnd.start
      ∧ s'.chip.pnd.len = s.chip.pnd.len
      ∧ s'.chip.pnd.sel = s.chip.pnd.sel
      ∧ s'.chip.pnd.selNew = s.chip.pnd.selNew
      ∧ s'.chip.weir.conf = s.chip.weir.conf
      ∧ s'.chip.weir.confV = s.chip.weir.confV
      ∧ s'.chip.weir.actV = false
      ∧ s'.chip.wstate = (if s.chip.wstate = 0 then 0 else if s.chip.wstate = 4 then 4 else 1)
      ∧ (s.chip.wstate = 4 → s'.chip.reg WEI_CAUSE = s.chip.reg WEI_CAUSE / 2 ^ 13 * 2 ^ 13 ∧ s'.chip.reg WEI_CAUSE_LATCH = s.chip.reg WEI_CAUSE_LATCH
          ∧ s'.chip.fld WEI_STATUS__FIRST_CAUSE = s.chip.fld WEI_STATUS__FIRST_CAUSE)
      ∧ (tabWf regReset s.chip.regs = true → ∀ off, warmKept off = false → off ≠ WEI_STATUS → (s.chip.wstate = 4 → off ≠ WEI_CAUSE ∧ off ≠ WEI_CAUSE_LATCH) → s'.chip.reg off = (regReset off).toNat)
      ∧ (tabWf regReset s.chip.regs = true → ∀ off, warmKept off = true → notLog off = true → s'.chip.reg off = (warmWord off (w32 (s.chip.reg off))).toNat)) ∧
    (∀ b : BootEnv, s.chip.boot.phase ≠ .rom →
      ∃ s', exec (.bootVerifyComplete t b) s = .next s'
      ∧ s'.chip.boot = s.chip.boot
      ∧ s'.chip.log = s.chip.log
      ∧ s.chip.regsSame s'.chip) ∧
    (∀ b : BootEnv, s.chip.boot.phase = .rom →
      b.sramOk = false →
      s.chip.boot.warm = false →
      ∃ s', exec (.bootVerifyComplete t b) s = .next s'
      ∧ s'.chip.boot = { s.chip.boot with phase := .wait, flash := (s.chip.programmed b).boot.flash }
      ∧ s'.chip.fld LOG_BOOT__FAIL = 6
      ∧ s'.chip.fld LOG_BOOT__CAUSE = s.chip.boot.cause % 8
      ∧ s'.chip.log = s.chip.log
      ∧ s.chip.regsBut s'.chip [LOG_BOOT]) ∧
    (∀ b : BootEnv, s.chip.boot.phase = .rom →
      (b.sramOk = true ∨ s.chip.boot.warm = true) →
      s.chip.boot.otp.fwKeyHash = 0 →
      ∃ s', exec (.bootVerifyComplete t b) s = .next s'
      ∧ s'.chip.boot = { s.chip.boot with phase := .wait, flash := (s.chip.programmed b).boot.flash }
      ∧ s'.chip.fld LOG_BOOT__FAIL = 5
      ∧ s'.chip.fld LOG_BOOT__CAUSE = s.chip.boot.cause % 8
      ∧ s'.chip.log = s.chip.log
      ∧ s.chip.regsBut s'.chip [LOG_BOOT]) ∧
    (∀ b : BootEnv, s.chip.boot.phase = .rom →
      (b.sramOk = true ∨ s.chip.boot.warm = true) →
      s.chip.boot.otp.fwKeyHash ≠ 0 →
      b.flashOk = false →
      ∃ s', exec (.bootVerifyComplete t b) s = .next s'
      ∧ s'.chip.boot = { s.chip.boot with phase := .wait, flash := (s.chip.programmed b).boot.flash }
      ∧ s'.chip.fld LOG_BOOT__FAIL = 1
      ∧ s'.chip.fld LOG_BOOT__CAUSE = s.chip.boot.cause % 8
      ∧ s'.chip.log = s.chip.log
      ∧ s.chip.regsBut s'.chip [LOG_BOOT]) ∧
    (∀ b : BootEnv, s.chip.boot.phase = .rom →
      (b.sramOk = true ∨ s.chip.boot.warm = true) →
      s.chip.boot.otp.fwKeyHash ≠ 0 →
      b.flashOk = true →
      ((s.chip.programmed b).fwSlot (s.chip.programmed b).firstSlot).fail s.chip.boot.otp ≠ 0 →
      ((s.chip.programmed b).fwSlot (1 - (s.chip.programmed b).firstSlot)).fail s.chip.boot.otp ≠ 0 →
      ∃ s', exec (.bootVerifyComplete t b) s = .next s'
      ∧ s'.chip.boot = { s.chip.boot with phase := .wait, flash := (s.chip.programmed b).boot.flash }
      ∧ s'.chip.fld LOG_BOOT__FAIL = (if ((s.chip.programmed b).fwSlot (1 - (s.chip.programmed b).firstSlot)).fail s.chip.boot.otp = 2 then ((s.chip.programmed b).fwSlot (s.chip.programmed b).firstSlot).fail s.chip.boot.otp else ((s.chip.programmed b).fwSlot (1 - (s.chip.programmed b).firstSlot)).fail s.chip.boot.otp)
      ∧ s'.chip.fld LOG_BOOT__CAUSE = s.chip.boot.cause % 8
      ∧ s'.chip.log = s.chip.log
      ∧ s.chip.regsBut s'.chip [LOG_BOOT]) ∧
    (∀ b : BootEnv, s.chip.boot.phase = .rom →
      (b.sramOk = true ∨ s.chip.boot.warm = true) →
      s.chip.boot.otp.fwKeyHash ≠ 0 →
      b.flashOk = true →
      ((s.chip.programmed b).fwSlot (s.chip.programmed b).firstSlot).fail s.chip.boot.otp = 0 →
      ∃ s', exec (.bootVerifyComplete t b) s = .next s'
      ∧ s'.chip.boot.phase = .run
      ∧ s'.chip.boot.commitSvn = (if (((s.chip.programmed b).fwSlot (s.chip.programmed b).firstSlot).w 4).testBit 0 then some ((s.chip.programmed b).fwSlot (s.chip.programmed b).firstSlot).svn else none)
      ∧ s'.chip.boot.flash = (s.chip.programmed b).boot.flash
      ∧ s'.chip.fld LOG_BOOT__FAIL = 0
      ∧ s'.chip.fld LOG_BOOT__SLOT = (s.chip.programmed b).firstSlot % 2
      ∧ s'.chip.fld LOG_BOOT__CAUSE = s.chip.boot.cause % 8
      ∧ s'.chip.fld LOG_BOOT__SVN = ((s.chip.programmed b).fwSlot (s.chip.programmed b).firstSlot).svn % 2 ^ 8
      ∧ s'.chip.reg LOG_FW_VER = ((s.chip.programmed b).fwSlot (s.chip.programmed b).firstSlot).version
      ∧ (s.chip.boot.warm = false → s'.chip.reg (HST_ETH_MAC_LO 0) = s.chip.boot.otp.mac0.toNat / 2 ^ 16 ∧ s'.chip.reg (HST_ETH_MAC_HI 0) = s.chip.boot.otp.mac0.toNat % 2 ^ 16 ∧ s'.chip.reg (HST_ETH_MAC_LO 1) = s.chip.boot.otp.mac1.toNat / 2 ^ 16 ∧ s'.chip.reg (HST_ETH_MAC_HI 1) = s.chip.boot.otp.mac1.toNat % 2 ^ 16)
      ∧ s'.chip.reg SYS_STATE = s.chip.reg SYS_STATE
      ∧ (newestImage (s.chip.programmed b).boot.flash = none → s.chip.boot.warm = false → s'.chip.lstate = s.chip.lstate)
      ∧ (∀ p : Nat × Nat, newestImage (s.chip.programmed b).boot.flash = some p → s.chip.boot.warm = false → s.chip.boot.logKept = false → s.chip.flag LOG_CFG__RESTORE_EN = true → bits (memWord 0xFF (s.chip.programmed b).boot.flash (saveAt p.1 + 4)).toNat 23 16 = 0xFF → s'.chip.lstate = 3 ∧ s'.chip.reg LOG_FRZ_POUND = (memWord 0xFF (s.chip.programmed b).boot.flash (saveAt p.1 + 12)).toNat ∧ s'.chip.reg LOG_FRZ_SEQ = (memWord 0xFF (s.chip.programmed b).boot.flash (saveAt p.1 + 16)).toNat ∧ s'.chip.log.saveCnt = p.2)
      ∧ (s.chip.boot.logKept = true → s.chip.boot.warm = false → s'.chip.lstate = s.chip.lstate ∧ (1 < s.chip.lstate → s'.chip.log.mem = s.chip.log.mem))
      ∧ (s.chip.boot.warm = true → s'.chip.lstate = s.chip.lstate ∧ (1 < s.chip.lstate → s'.chip.log.mem = s.chip.log.mem))
      ∧ ((s'.chip.lstate = 2 ∨ s'.chip.lstate = 3) → s'.chip.log.bootEvt = some (w32 (s'.chip.reg LOG_FW_VER), w32 (s'.chip.fld LOG_BOOT__SLOT), w32 (s'.chip.reg LOG_BOOT)))
      ∧ (s'.chip.lstate ≤ 1 → ((s.chip.at t).logQueue = [] ∧ s.chip.log.lostPend = 0) → memWords 0 s'.chip.log.mem (logRing + 32 * s.chip.fld LOG_WR_IDX__IDX) 8 = w32 (s.chip.reg LOG_WR_SEQ) :: (s.chip.at t).logEntry (s.chip.at t).phase 1 (w32 (s'.chip.reg LOG_FW_VER)) (w32 (s'.chip.fld LOG_BOOT__SLOT)) (w32 (s'.chip.reg LOG_BOOT)))) ∧
    (∀ b : BootEnv, s.chip.boot.phase = .rom →
      (b.sramOk = true ∨ s.chip.boot.warm = true) →
      s.chip.boot.otp.fwKeyHash ≠ 0 →
      b.flashOk = true →
      ((s.chip.programmed b).fwSlot (s.chip.programmed b).firstSlot).fail s.chip.boot.otp ≠ 0 →
      ((s.chip.programmed b).fwSlot (1 - (s.chip.programmed b).firstSlot)).fail s.chip.boot.otp = 0 →
      ∃ s', exec (.bootVerifyComplete t b) s = .next s'
      ∧ s'.chip.boot.phase = .run
      ∧ s'.chip.boot.commitSvn = (if (((s.chip.programmed b).fwSlot (1 - (s.chip.programmed b).firstSlot)).w 4).testBit 0 then some ((s.chip.programmed b).fwSlot (1 - (s.chip.programmed b).firstSlot)).svn else none)
      ∧ s'.chip.boot.flash = (s.chip.programmed b).boot.flash
      ∧ s'.chip.fld LOG_BOOT__FAIL = 0
      ∧ s'.chip.fld LOG_BOOT__SLOT = (1 - (s.chip.programmed b).firstSlot) % 2
      ∧ s'.chip.fld LOG_BOOT__CAUSE = s.chip.boot.cause % 8
      ∧ s'.chip.fld LOG_BOOT__SVN = ((s.chip.programmed b).fwSlot (1 - (s.chip.programmed b).firstSlot)).svn % 2 ^ 8
      ∧ s'.chip.reg LOG_FW_VER = ((s.chip.programmed b).fwSlot (1 - (s.chip.programmed b).firstSlot)).version
      ∧ (s.chip.boot.warm = false → s'.chip.reg (HST_ETH_MAC_LO 0) = s.chip.boot.otp.mac0.toNat / 2 ^ 16 ∧ s'.chip.reg (HST_ETH_MAC_HI 0) = s.chip.boot.otp.mac0.toNat % 2 ^ 16 ∧ s'.chip.reg (HST_ETH_MAC_LO 1) = s.chip.boot.otp.mac1.toNat / 2 ^ 16 ∧ s'.chip.reg (HST_ETH_MAC_HI 1) = s.chip.boot.otp.mac1.toNat % 2 ^ 16)
      ∧ s'.chip.reg SYS_STATE = s.chip.reg SYS_STATE
      ∧ (newestImage (s.chip.programmed b).boot.flash = none → s.chip.boot.warm = false → s'.chip.lstate = s.chip.lstate)
      ∧ (∀ p : Nat × Nat, newestImage (s.chip.programmed b).boot.flash = some p → s.chip.boot.warm = false → s.chip.boot.logKept = false → s.chip.flag LOG_CFG__RESTORE_EN = true → bits (memWord 0xFF (s.chip.programmed b).boot.flash (saveAt p.1 + 4)).toNat 23 16 = 0xFF → s'.chip.lstate = 3 ∧ s'.chip.reg LOG_FRZ_POUND = (memWord 0xFF (s.chip.programmed b).boot.flash (saveAt p.1 + 12)).toNat ∧ s'.chip.reg LOG_FRZ_SEQ = (memWord 0xFF (s.chip.programmed b).boot.flash (saveAt p.1 + 16)).toNat ∧ s'.chip.log.saveCnt = p.2)
      ∧ (s.chip.boot.logKept = true → s.chip.boot.warm = false → s'.chip.lstate = s.chip.lstate ∧ (1 < s.chip.lstate → s'.chip.log.mem = s.chip.log.mem))
      ∧ (s.chip.boot.warm = true → s'.chip.lstate = s.chip.lstate ∧ (1 < s.chip.lstate → s'.chip.log.mem = s.chip.log.mem))
      ∧ ((s'.chip.lstate = 2 ∨ s'.chip.lstate = 3) → s'.chip.log.bootEvt = some (w32 (s'.chip.reg LOG_FW_VER), w32 (s'.chip.fld LOG_BOOT__SLOT), w32 (s'.chip.reg LOG_BOOT)))
      ∧ (s'.chip.lstate ≤ 1 → ((s.chip.at t).logQueue = [] ∧ s.chip.log.lostPend = 0) → memWords 0 s'.chip.log.mem (logRing + 32 * s.chip.fld LOG_WR_IDX__IDX) 8 = w32 (s.chip.reg LOG_WR_SEQ) :: (s.chip.at t).logEntry (s.chip.at t).phase 1 (w32 (s'.chip.reg LOG_FW_VER)) (w32 (s'.chip.fld LOG_BOOT__SLOT)) (w32 (s'.chip.reg LOG_BOOT))))

end Statements
end

