-- ==== Sys2Proof/Laws/Keeps.lean ====
section
/-! SUPPORT. What an operation leaves alone. `Keeps m a b` says of an operation that takes the device from `a` to `b`:
every part of the device whose bit of the mask `m` is clear is as before; time does not run back (but at a reset, bit 24);
what has been sent stays sent; one-time programming is not undone; and the canonical form of the register file and of the
memories is kept. The file holds its combinators; the lemmas for the operations follow in Laws/Keeps*.lean. -/

namespace Sys2Proof.Machine

/-- The Hst fields of bit 4. -/
def Hst.main (h : Hst) := (h.ring, h.msix, h.d3, h.cqIrq, h.snaps, h.intake, h.longs, h.pendCpl, h.cache, h.spiReplies, h.spiExec, h.spiOvr, h.stats, h.arp, h.arpWait, h.icmpTicks, h.sendTicks, h.fast, h.mdioBusy, h.mdioRead, h.mdioT, h.sqOld, h.links, h.stage)

/-- The Pnd fields of bit 8. -/
def Pnd.main (p : Pnd) := (p.selNew, p.renum, p.lastCorr, p.lastSign, p.resid, p.good, p.due, p.marks, p.fired, p.released, p.request, p.halt, p.weirTrip, p.weirReset, p.gap, p.corr, p.corrLate)

/-- The Pnd fields of bit 22: where the pound stands. -/
def Pnd.clock (p : Pnd) := (p.start, p.len, p.sel, p.boundaries, p.cn, p.cns, p.turns)

/-- The Boot fields of bit 5. -/
def Boot.main (b : Boot) := (b.holdVin, b.holdPin, b.holdThermal, b.holdClock, b.holdTest, b.cause, b.commitSvn, b.moored, b.logKept, b.ramImage, b.warm, b.jtagIr, b.testmode, b.extest, b.otp, b.flash)

/-- See the head of the file. -/
structure Keeps (m : Nat) (a b : Chip) : Prop where
  now : m.testBit 0 = false → b.now = a.now
  freshEq : m.testBit 1 = false → b.fresh = a.fresh
  regs : m.testBit 2 = false → b.regs = a.regs
  edges : m.testBit 2 = false → b.edges = a.edges
  outEq : m.testBit 3 = false → b.out = a.out
  hst : m.testBit 4 = false → b.hst.main = a.hst.main
  hstLad : m.testBit 25 = false → b.hst.lad = a.hst.lad ∧ b.hst.eseq = a.hst.eseq
  hstVec : m.testBit 26 = false → b.hst.vecOn = a.hst.vecOn ∧ b.hst.pba = a.hst.pba
  boot : m.testBit 5 = false → b.boot.main = a.boot.main
  bootPhase : m.testBit 23 = false → b.boot.phase = a.boot.phase
  log : m.testBit 6 = false → b.log = a.log
  pnd : m.testBit 8 = false → b.pnd.main = a.pnd.main
  pndClock : m.testBit 22 = false → b.pnd.clock = a.pnd.clock
  lkp : m.testBit 7 = false → b.lkp = a.lkp
  tim : m.testBit 9 = false → b.tim = a.tim
  pf : m.testBit 10 = false → b.pf = a.pf
  mem : m.testBit 11 = false → b.mem = a.mem
  lck : m.testBit 12 = false → b.lck = a.lck
  bsn : m.testBit 13 = false → b.bsn = a.bsn
  plan : m.testBit 14 = false → b.plan = a.plan
  man : m.testBit 15 = false → b.man = a.man
  slu : m.testBit 16 = false → b.slu = a.slu
  adc : m.testBit 17 = false → b.adc = a.adc
  tow : m.testBit 18 = false → b.tow = a.tow
  weir : m.testBit 19 = false → b.weir = a.weir
  gau : m.testBit 20 = false → b.gau = a.gau
  aqu : m.testBit 21 = false → b.aqu = a.aqu
  mono : m.testBit 24 = false → a.now ≤ b.now
  fresh : a.fresh ≤ b.fresh
  out : a.out <+: b.out
  otp : Otp.grows a.boot.otp b.boot.otp
  canon : a.canon = true → b.canon = true

theorem Otp.grows_refl (a : Otp) : Otp.grows a a := ⟨rfl, Nat.le_refl _⟩

theorem Otp.grows_trans {a b c : Otp} (h : Otp.grows a b) (k : Otp.grows b c) : Otp.grows a c := by
  refine ⟨?_, Nat.le_trans h.2 k.2⟩
  have h1 := h.1
  have k1 := k.1
  rw [h1] at k1
  exact k1

theorem testBit_of_sub {m n i : Nat} (h : m ||| n = n) (hb : n.testBit i = false) : m.testBit i = false := by
  rw [← h, Nat.testBit_or] at hb
  cases hm : m.testBit i
  · rfl
  · simp [hm] at hb

namespace Keeps

variable {m n : Nat} {a b d : Chip}

/-- Nothing happened. -/
theorem refl : Keeps m a a where
  now _ := rfl
  freshEq _ := rfl
  regs _ := rfl
  edges _ := rfl
  outEq _ := rfl
  hst _ := rfl
  hstLad _ := ⟨rfl, rfl⟩
  hstVec _ := ⟨rfl, rfl⟩
  boot _ := rfl
  bootPhase _ := rfl
  log _ := rfl
  pnd _ := rfl
  pndClock _ := rfl
  lkp _ := rfl
  tim _ := rfl
  pf _ := rfl
  mem _ := rfl
  lck _ := rfl
  bsn _ := rfl
  plan _ := rfl
  man _ := rfl
  slu _ := rfl
  adc _ := rfl
  tow _ := rfl
  weir _ := rfl
  gau _ := rfl
  aqu _ := rfl
  mono _ := Nat.le_refl _
  fresh := Nat.le_refl _
  out := List.prefix_refl _
  otp := Otp.grows_refl _
  canon h := h

/-- One operation after another; the second may touch less. -/
theorem trans (h : Keeps m a b) (k : Keeps n b d) (hs : n ||| m = m) : Keeps m a d where
  now hb := (k.now (testBit_of_sub hs hb)).trans (h.now hb)
  freshEq hb := (k.freshEq (testBit_of_sub hs hb)).trans (h.freshEq hb)
  regs hb := (k.regs (testBit_of_sub hs hb)).trans (h.regs hb)
  edges hb := (k.edges (testBit_of_sub hs hb)).trans (h.edges hb)
  outEq hb := (k.outEq (testBit_of_sub hs hb)).trans (h.outEq hb)
  hst hb := (k.hst (testBit_of_sub hs hb)).trans (h.hst hb)
  hstLad hb := ⟨(k.hstLad (testBit_of_sub hs hb)).1.trans (h.hstLad hb).1, (k.hstLad (testBit_of_sub hs hb)).2.trans (h.hstLad hb).2⟩
  hstVec hb := ⟨(k.hstVec (testBit_of_sub hs hb)).1.trans (h.hstVec hb).1, (k.hstVec (testBit_of_sub hs hb)).2.trans (h.hstVec hb).2⟩
  boot hb := (k.boot (testBit_of_sub hs hb)).trans (h.boot hb)
  bootPhase hb := (k.bootPhase (testBit_of_sub hs hb)).trans (h.bootPhase hb)
  log hb := (k.log (testBit_of_sub hs hb)).trans (h.log hb)
  pnd hb := (k.pnd (testBit_of_sub hs hb)).trans (h.pnd hb)
  pndClock hb := (k.pndClock (testBit_of_sub hs hb)).trans (h.pndClock hb)
  lkp hb := (k.lkp (testBit_of_sub hs hb)).trans (h.lkp hb)
  tim hb := (k.tim (testBit_of_sub hs hb)).trans (h.tim hb)
  pf hb := (k.pf (testBit_of_sub hs hb)).trans (h.pf hb)
  mem hb := (k.mem (testBit_of_sub hs hb)).trans (h.mem hb)
  lck hb := (k.lck (testBit_of_sub hs hb)).trans (h.lck hb)
  bsn hb := (k.bsn (testBit_of_sub hs hb)).trans (h.bsn hb)
  plan hb := (k.plan (testBit_of_sub hs hb)).trans (h.plan hb)
  man hb := (k.man (testBit_of_sub hs hb)).trans (h.man hb)
  slu hb := (k.slu (testBit_of_sub hs hb)).trans (h.slu hb)
  adc hb := (k.adc (testBit_of_sub hs hb)).trans (h.adc hb)
  tow hb := (k.tow (testBit_of_sub hs hb)).trans (h.tow hb)
  weir hb := (k.weir (testBit_of_sub hs hb)).trans (h.weir hb)
  gau hb := (k.gau (testBit_of_sub hs hb)).trans (h.gau hb)
  aqu hb := (k.aqu (testBit_of_sub hs hb)).trans (h.aqu hb)
  mono hb := Nat.le_trans (h.mono hb) (k.mono (testBit_of_sub hs hb))
  fresh := Nat.le_trans h.fresh k.fresh
  out := List.IsPrefix.trans h.out k.out
  otp := Otp.grows_trans h.otp k.otp
  canon hc := k.canon (h.canon hc)

/-- A larger mask says less. -/
theorem weaken (h : Keeps n a b) (hs : n ||| m = m) : Keeps m a b := trans refl h hs

theorem ite {p : Prop} [Decidable p] {x y : Chip} (h : Keeps m a x) (k : Keeps m a y) :
    Keeps m a (if p then x else y) := by
  split
  · exact h
  · exact k

theorem dite {p : Prop} [Decidable p] {x : p → Chip} {y : ¬p → Chip} (h : ∀ q, Keeps m a (x q)) (k : ∀ q, Keeps m a (y q)) :
    Keeps m a (if q : p then x q else y q) := by
  split
  · exact h _
  · exact k _

theorem ite1 {α : Type} {p : Prop} [Decidable p] {x y : Chip × α} (h : Keeps m a x.1) (k : Keeps m a y.1) :
    Keeps m a (if p then x else y).1 := by
  split
  · exact h
  · exact k

theorem foldl {β : Type} (f : Chip → β → Chip) (h : ∀ c x, Keeps m c (f c x)) (xs : List β) (c : Chip) :
    Keeps m c (xs.foldl f c) := by
  induction xs generalizing c with
  | nil => exact refl
  | cons x t ih => exact (h c x).trans (ih _) (Nat.or_self m)

theorem foldl1 {α β : Type} (f : Chip × α → β → Chip × α) (h : ∀ r x, Keeps m r.1 (f r x).1) (xs : List β) (r : Chip × α) :
    Keeps m r.1 (xs.foldl f r).1 := by
  induction xs generalizing r with
  | nil => exact refl
  | cons x t ih => exact (h r x).trans (ih _) (Nat.or_self m)

theorem each {β : Type} (f : Chip → β → Chip) (h : ∀ c x, Keeps m c (f c x)) (xs : List β) (c : Chip) :
    Keeps m c (c.each xs f) := foldl f h xs c

theorem onlyIf (f : Chip → Chip) (h : ∀ c, Keeps m c (f c)) (p : Bool) (c : Chip) : Keeps m c (c.onlyIf p f) := by
  unfold Chip.onlyIf
  split
  · exact h c
  · exact refl

theorem upd_lkp (h : Keeps m a b) (hb : m.testBit 7 = true) (v) : Keeps m a { b with lkp := v } :=
  { h with lkp := fun x => by simp [hb] at x }

theorem upd_tim (h : Keeps m a b) (hb : m.testBit 9 = true) (v) : Keeps m a { b with tim := v } :=
  { h with tim := fun x => by simp [hb] at x }

theorem upd_pf (h : Keeps m a b) (hb : m.testBit 10 = true) (v) : Keeps m a { b with pf := v } :=
  { h with pf := fun x => by simp [hb] at x }

theorem upd_mem (h : Keeps m a b) (hb : m.testBit 11 = true) (v : Mems) (hv : b.mem.wf = true → v.wf = true) :
    Keeps m a { now := b.now, fresh := b.fresh, regs := b.regs, edges := b.edges, out := b.out, hst := b.hst, boot := b.boot, log := b.log, lkp := b.lkp, pnd := b.pnd, tim := b.tim, pf := b.pf, mem := v, lck := b.lck, bsn := b.bsn, plan := b.plan, man := b.man, slu := b.slu, adc := b.adc, tow := b.tow, weir := b.weir, gau := b.gau, aqu := b.aqu } :=
  { h with
    mem := fun x => by simp [hb] at x
    canon := fun hc => by
      have := h.canon hc
      simp only [Chip.canon, Bool.and_eq_true] at this ⊢
      exact ⟨⟨⟨this.1.1.1, hv this.1.1.2⟩, this.1.2⟩, this.2⟩ }

theorem upd_lck (h : Keeps m a b) (hb : m.testBit 12 = true) (v) : Keeps m a { b with lck := v } :=
  { h with lck := fun x => by simp [hb] at x }

theorem upd_bsn (h : Keeps m a b) (hb : m.testBit 13 = true) (v) : Keeps m a { b with bsn := v } :=
  { h with bsn := fun x => by simp [hb] at x }

theorem upd_plan (h : Keeps m a b) (hb : m.testBit 14 = true) (v) : Keeps m a { b with plan := v } :=
  { h with plan := fun x => by simp [hb] at x }

theorem upd_man (h : Keeps m a b) (hb : m.testBit 15 = true) (v) : Keeps m a { b with man := v } :=
  { h with man := fun x => by simp [hb] at x }

theorem upd_slu (h : Keeps m a b) (hb : m.testBit 16 = true) (v) : Keeps m a { b with slu := v } :=
  { h with slu := fun x => by simp [hb] at x }

theorem upd_adc (h : Keeps m a b) (hb : m.testBit 17 = true) (v) : Keeps m a { b with adc := v } :=
  { h with adc := fun x => by simp [hb] at x }

theorem upd_tow (h : Keeps m a b) (hb : m.testBit 18 = true) (v) : Keeps m a { b with tow := v } :=
  { h with tow := fun x => by simp [hb] at x }

theorem upd_weir (h : Keeps m a b) (hb : m.testBit 19 = true) (v) : Keeps m a { b with weir := v } :=
  { h with weir := fun x => by simp [hb] at x }

theorem upd_gau (h : Keeps m a b) (hb : m.testBit 20 = true) (v) : Keeps m a { b with gau := v } :=
  { h with gau := fun x => by simp [hb] at x }

theorem upd_aqu (h : Keeps m a b) (hb : m.testBit 21 = true) (v) : Keeps m a { b with aqu := v } :=
  { h with aqu := fun x => by simp [hb] at x }

end Keeps

/-- An optional result: `none` is no result, `some b` one that keeps what `Keeps` says. -/
structure KeepsO (m : Nat) (a : Chip) (o : Option Chip) : Prop where
  of : ∀ b, o = some b → Keeps m a b

/-- The same for a result with a value beside it. -/
structure KeepsP {α : Type} (m : Nat) (a : Chip) (o : Option (Chip × α)) : Prop where
  of : ∀ b, o = some b → Keeps m a b.1

namespace KeepsO

variable {m n : Nat} {a b : Chip}

theorem none : KeepsO m a Option.none := ⟨fun _ h => by cases h⟩
theorem some (h : Keeps m a b) : KeepsO m a (Option.some b) := ⟨fun _ e => by cases e; exact h⟩
theorem ite {p : Prop} [Decidable p] {x y : Option Chip} (h : KeepsO m a x) (k : KeepsO m a y) : KeepsO m a (if p then x else y) := by
  split
  · exact h
  · exact k
theorem trans {o : Option Chip} (h : Keeps m a b) (k : KeepsO n b o) (hs : n ||| m = m) : KeepsO m a o :=
  ⟨fun _ e => h.trans (k.of _ e) hs⟩
theorem get {o : Option Chip} (e : o = Option.some b) (k : KeepsO n a o) : Keeps n a b := k.of _ e
theorem map {β : Type} {o : Option β} {f : β → Chip} (h : ∀ x, Keeps m a (f x)) : KeepsO m a (o.map f) := by
  cases o with
  | none => exact none
  | some x => exact some (h x)

end KeepsO

namespace KeepsP

variable {α : Type} {m n : Nat} {a b : Chip}

theorem none : KeepsP m a (Option.none : Option (Chip × α)) := ⟨fun _ h => by cases h⟩
theorem some {x : Chip × α} (h : Keeps m a x.1) : KeepsP m a (Option.some x) := ⟨fun _ e => by cases e; exact h⟩
theorem ite {p : Prop} [Decidable p] {x y : Option (Chip × α)} (h : KeepsP m a x) (k : KeepsP m a y) :
    KeepsP m a (if p then x else y) := by
  split
  · exact h
  · exact k
theorem trans {o : Option (Chip × α)} (h : Keeps m a b) (k : KeepsP n b o) (hs : n ||| m = m) : KeepsP m a o :=
  ⟨fun _ e => h.trans (k.of _ e) hs⟩
theorem get {o : Option (Chip × α)} {x : Chip × α} (e : o = Option.some x) (k : KeepsP n a o) : Keeps n a x.1 := k.of _ e

end KeepsP

namespace Keeps

variable {m n : Nat} {a b d : Chip}

theorem upd_hst (h : Keeps m a b) (hb : m.testBit 4 = true) (v : Hst) (h1 : v.lad = b.hst.lad) (h2 : v.eseq = b.hst.eseq)
    (h3 : v.vecOn = b.hst.vecOn) (h4 : v.pba = b.hst.pba) : Keeps m a { b with hst := v } :=
  { h with
    hst := fun x => by simp [hb] at x
    hstLad := fun x => ⟨h1.trans (h.hstLad x).1, h2.trans (h.hstLad x).2⟩
    hstVec := fun x => ⟨h3.trans (h.hstVec x).1, h4.trans (h.hstVec x).2⟩ }

theorem upd_hstLad (h : Keeps m a b) (hb : m.testBit 25 = true) (v : Hst) (h1 : v.main = b.hst.main)
    (h3 : v.vecOn = b.hst.vecOn) (h4 : v.pba = b.hst.pba) : Keeps m a { b with hst := v } :=
  { h with
    hst := fun x => h1.trans (h.hst x)
    hstLad := fun x => by simp [hb] at x
    hstVec := fun x => ⟨h3.trans (h.hstVec x).1, h4.trans (h.hstVec x).2⟩ }

theorem upd_hstVec (h : Keeps m a b) (hb : m.testBit 26 = true) (v : Hst) (h1 : v.main = b.hst.main)
    (h3 : v.lad = b.hst.lad) (h4 : v.eseq = b.hst.eseq) : Keeps m a { b with hst := v } :=
  { h with
    hst := fun x => h1.trans (h.hst x)
    hstVec := fun x => by simp [hb] at x
    hstLad := fun x => ⟨h3.trans (h.hstLad x).1, h4.trans (h.hstLad x).2⟩ }

theorem upd_hstAll (h : Keeps m a b) (h4 : m.testBit 4 = true) (h25 : m.testBit 25 = true) (h26 : m.testBit 26 = true) (v : Hst) :
    Keeps m a { b with hst := v } :=
  { h with
    hst := fun x => by simp [h4] at x
    hstLad := fun x => by simp [h25] at x
    hstVec := fun x => by simp [h26] at x }

theorem foldlOn {γ β : Type} (p : γ → Chip) (f : γ → β → γ) (h : ∀ r x, Keeps m (p r) (p (f r x))) (xs : List β) (r : γ) :
    Keeps m (p r) (p (xs.foldl f r)) := by
  induction xs generalizing r with
  | nil => exact refl
  | cons x t ih => exact (h r x).trans (ih _) (Nat.or_self m)

theorem upd_pnd (h : Keeps m a b) (hb : m.testBit 8 = true) (v : Pnd) (h1 : v.clock = b.pnd.clock) :
    Keeps m a { b with pnd := v } :=
  { h with
    pnd := fun x => by simp [hb] at x
    pndClock := fun x => h1.trans (h.pndClock x) }

theorem upd_pndAll (h : Keeps m a b) (hb : m.testBit 8 = true) (hc : m.testBit 22 = true) (v : Pnd) :
    Keeps m a { b with pnd := v } :=
  { h with
    pnd := fun x => by simp [hb] at x
    pndClock := fun x => by simp [hc] at x }

theorem upd_boot (h : Keeps m a b) (hb : m.testBit 5 = true) (v : Boot) (h1 : v.phase = b.boot.phase) (h2 : v.otp = b.boot.otp)
    (h3 : v.flash = b.boot.flash) : Keeps m a { b with boot := v } :=
  { h with
    boot := fun x => by simp [hb] at x
    bootPhase := fun x => h1.trans (h.bootPhase x)
    otp := by rw [h2]; exact h.otp
    canon := fun hc => by
      have := h.canon hc
      simp only [Chip.canon, Bool.and_eq_true, h3] at this ⊢
      exact this }

theorem upd_bootAll (h : Keeps m a b) (hb : m.testBit 5 = true) (hc : m.testBit 23 = true) (v : Boot) (h2 : v.otp = b.boot.otp)
    (h3 : v.flash = b.boot.flash) : Keeps m a { b with boot := v } :=
  { h with
    boot := fun x => by simp [hb] at x
    bootPhase := fun x => by simp [hc] at x
    otp := by rw [h2]; exact h.otp
    canon := fun hc => by
      have := h.canon hc
      simp only [Chip.canon, Bool.and_eq_true, h3] at this ⊢
      exact this }

theorem upd_flash (h : Keeps m a b) (hb : m.testBit 5 = true) (v : Boot) (h1 : v.phase = b.boot.phase) (h2 : v.otp = b.boot.otp)
    (h3 : Memory.wf 0xFF b.boot.flash = true → Memory.wf 0xFF v.flash = true) : Keeps m a { b with boot := v } :=
  { h with
    boot := fun x => by simp [hb] at x
    bootPhase := fun x => h1.trans (h.bootPhase x)
    otp := by rw [h2]; exact h.otp
    canon := fun hc => by
      have := h.canon hc
      simp only [Chip.canon, Bool.and_eq_true] at this ⊢
      exact ⟨this.1, h3 this.2⟩ }

theorem upd_log (h : Keeps m a b) (hb : m.testBit 6 = true) (v : Logbook)
    (h1 : Memory.wf 0 b.log.mem = true → Memory.wf 0 v.mem = true) : Keeps m a { b with log := v } :=
  { h with
    log := fun x => by simp [hb] at x
    canon := fun hc => by
      have := h.canon hc
      simp only [Chip.canon, Bool.and_eq_true] at this ⊢
      exact ⟨⟨this.1.1, h1 this.1.2⟩, this.2⟩ }

theorem upd_regs (h : Keeps m a b) (hb : m.testBit 2 = true) (v : List (Nat × Word))
    (h1 : tabWf regReset b.regs = true → tabWf regReset v = true) : Keeps m a { b with regs := v } :=
  { h with
    regs := fun x => by simp [hb] at x
    canon := fun hc => by
      have := h.canon hc
      simp only [Chip.canon, Bool.and_eq_true] at this ⊢
      exact ⟨⟨⟨h1 this.1.1.1, this.1.1.2⟩, this.1.2⟩, this.2⟩ }

theorem upd_edges (h : Keeps m a b) (hb : m.testBit 2 = true) (v : Edges) : Keeps m a { b with edges := v } :=
  { h with edges := fun x => by simp [hb] at x }

theorem upd_fresh (h : Keeps m a b) (hb : m.testBit 1 = true) (n : Nat) (hn : b.fresh ≤ n) : Keeps m a { b with fresh := n } :=
  { h with
    freshEq := fun x => by simp [hb] at x
    fresh := Nat.le_trans h.fresh hn }

theorem upd_out (h : Keeps m a b) (hb : m.testBit 3 = true) (o : List Output) : Keeps m a { b with out := b.out ++ o } :=
  { h with
    outEq := fun x => by simp [hb] at x
    out := List.IsPrefix.trans h.out (List.prefix_append _ _) }

end Keeps

end Sys2Proof.Machine
end

