-- ==== Sys2Proof/Laws/Tab.lean ====
section
/-! SUPPORT. The laws of sparse tables: a read after a write, the canonical form kept by every operation, equal contents
are equal lists; the same for byte memories. -/

namespace Sys2Proof.Machine

variable {α : Type} [DecidableEq α] {d : Nat → α}

theorem tabWfFrom_mono {lo hi : Nat} (h : lo ≤ hi) (t : List (Nat × α)) (w : tabWfFrom d hi t = true) :
    tabWfFrom d lo t = true := by
  cases t with
  | nil => rfl
  | cons e t =>
    simp only [tabWfFrom, Bool.and_eq_true, decide_eq_true_eq] at w ⊢
    exact ⟨⟨Nat.le_trans h w.1.1, w.1.2⟩, w.2⟩

/-- Below the least key a table reads as unlisted. -/
theorem tabGet_below {lo i : Nat} (h : i < lo) (t : List (Nat × α)) (w : tabWfFrom d lo t = true) : tabGet d t i = d i := by
  induction t generalizing lo with
  | nil => rfl
  | cons e t ih =>
    simp only [tabWfFrom, Bool.and_eq_true, decide_eq_true_eq] at w
    simp only [tabGet]
    rw [if_neg (by omega)]
    exact ih (by omega) w.2

theorem tabWfFrom_filter {lo : Nat} (p : Nat × α → Bool) (t : List (Nat × α)) (w : tabWfFrom d lo t = true) :
    tabWfFrom d lo (t.filter p) = true := by
  induction t generalizing lo with
  | nil => rfl
  | cons e t ih =>
    simp only [tabWfFrom, Bool.and_eq_true, decide_eq_true_eq] at w
    simp only [List.filter]
    split
    · simp only [tabWfFrom, Bool.and_eq_true, decide_eq_true_eq]
      exact ⟨w.1, ih w.2⟩
    · exact tabWfFrom_mono (by omega) _ (ih w.2)

/-- Entries taken out leave a canonical table. -/
theorem tabGet_del (i j : Nat) (t : List (Nat × α)) : tabGet d (tabDel i t) j = if i = j then d j else tabGet d t j := by
  induction t with
  | nil => simp [tabDel, tabGet]
  | cons e t ih =>
    obtain ⟨k, x⟩ := e
    unfold tabDel at ih ⊢
    by_cases hk : k = i
    · subst hk
      rw [List.filter_cons_of_neg (by simp), ih]
      by_cases hj : k = j
      · simp [hj]
      · simp [tabGet, hj]
    · rw [List.filter_cons_of_pos (by simp [hk])]
      simp only [tabGet]
      rw [ih]
      by_cases hj : k = j
      · subst hj
        rw [if_pos rfl, if_neg (fun h => hk h.symm), if_pos rfl]
      · rw [if_neg hj, if_neg hj]

theorem tabPut_wfFrom {lo i : Nat} (v : α) (h : lo ≤ i) (t : List (Nat × α)) (w : tabWfFrom d lo t = true) :
    tabWfFrom d lo (tabPut d i v t) = true := by
  induction t generalizing lo with
  | nil =>
    simp only [tabPut]
    split
    · rfl
    · next hv => simp [tabWfFrom, h, hv]
  | cons e t ih =>
    obtain ⟨k, x⟩ := e
    simp only [tabWfFrom, Bool.and_eq_true, decide_eq_true_eq] at w
    simp only [tabPut]
    split
    · next hk =>
      subst hk
      exact tabWfFrom_mono w.1.1 _ (ih (Nat.le_refl k) (tabWfFrom_mono (Nat.le_succ k) t w.2))
    · split
      · next hik =>
        have wd : tabWfFrom d (k + 1) (tabDel i t) = true := tabWfFrom_filter _ t w.2
        split
        · simp [tabWfFrom, w, wd]
        · next hv =>
          simp only [tabWfFrom, Bool.and_eq_true, decide_eq_true_eq]
          exact ⟨⟨h, hv⟩, ⟨by omega, w.1.2⟩, wd⟩
      · simp only [tabWfFrom, Bool.and_eq_true, decide_eq_true_eq]
        exact ⟨w.1, ih (by omega) w.2⟩

/-- A write keeps the canonical form. -/
theorem tabPut_wf (i : Nat) (v : α) (t : List (Nat × α)) (w : tabWf d t = true) : tabWf d (tabPut d i v t) = true :=
  tabPut_wfFrom v (Nat.zero_le i) t w

/-- What a read gives after a write, whatever form the table has. -/
theorem tabGet_put (i j : Nat) (v : α) (t : List (Nat × α)) :
    tabGet d (tabPut d i v t) j = if i = j then v else tabGet d t j := by
  induction t with
  | nil =>
    simp only [tabPut]
    split
    · next hv =>
      split
      · next h => subst h; simp [tabGet, hv]
      · rfl
    · simp [tabGet]
  | cons e t ih =>
    obtain ⟨k, x⟩ := e
    simp only [tabPut]
    split
    · next hk =>
      subst hk
      rw [ih]
      by_cases hj : k = j
      · rw [if_pos hj, if_pos hj]
      · rw [if_neg hj, if_neg hj, tabGet, if_neg hj]
    · next hk =>
      split
      · split
        · next hv =>
          simp only [tabGet]
          rw [tabGet_del]
          by_cases hj : i = j
          · subst hj
            simp [hk, hv]
          · simp [hj]
        · next hv =>
          simp only [tabGet]
          rw [tabGet_del]
          by_cases hj : i = j
          · simp [hj]
          · simp [hj]
      · simp only [tabGet]
        rw [ih]
        by_cases hj : k = j
        · subst hj
          rw [if_pos rfl, if_neg (fun h : i = k => hk h.symm), if_pos rfl]
        · simp [hj]

/-- Two canonical tables that read the same are the same list. -/
theorem tabWfFrom_ext {lo : Nat} (s t : List (Nat × α)) (ws : tabWfFrom d lo s = true) (wt : tabWfFrom d lo t = true)
    (h : ∀ i, tabGet d s i = tabGet d t i) : s = t := by
  induction s generalizing lo t with
  | nil =>
    cases t with
    | nil => rfl
    | cons e t =>
      simp only [tabWfFrom, Bool.and_eq_true, decide_eq_true_eq] at wt
      have := h e.1
      simp only [tabGet, if_pos] at this
      exact absurd this.symm wt.1.2
  | cons e s ih =>
    obtain ⟨k, x⟩ := e
    simp only [tabWfFrom, Bool.and_eq_true, decide_eq_true_eq] at ws
    cases t with
    | nil =>
      have := h k
      simp only [tabGet, if_pos] at this
      exact absurd this ws.1.2
    | cons e t =>
      obtain ⟨l, y⟩ := e
      simp only [tabWfFrom, Bool.and_eq_true, decide_eq_true_eq] at wt
      have hkl : k = l := by
        rcases Nat.lt_trichotomy k l with q | q | q
        · have := h k
          simp only [tabGet, if_pos] at this
          rw [if_neg (by omega), tabGet_below (lo := l + 1) (by omega) t wt.2] at this
          exact absurd this ws.1.2
        · exact q
        · have := h l
          simp only [tabGet, if_pos] at this
          rw [if_neg (by omega), tabGet_below (lo := k + 1) (by omega) s ws.2] at this
          exact absurd this.symm wt.1.2
      subst hkl
      have hx := h k
      simp only [tabGet, if_pos] at hx
      subst hx
      congr 1
      refine ih (lo := k + 1) t ws.2 wt.2 (fun i => ?_)
      by_cases q : k = i
      · subst q
        rw [tabGet_below (by omega) s ws.2, tabGet_below (by omega) t wt.2]
      · have := h i
        simpa [tabGet, q] using this

theorem tabWf_filter (p : Nat × α → Bool) (t : List (Nat × α)) (w : tabWf d t = true) : tabWf d (t.filter p) = true :=
  tabWfFrom_filter p t w

theorem tabClear_wf (lo hi : Nat) (t : List (Nat × α)) (w : tabWf d t = true) : tabWf d (tabClear lo hi t) = true :=
  tabWf_filter _ t w

theorem tabWf_nil : tabWf d ([] : List (Nat × α)) = true := rfl

/-- A table built by writes from a canonical one is canonical. -/
theorem tabFold_wf {β : Type} (k : β → Nat) (v : β → α) (xs : List β) (t : List (Nat × α)) (w : tabWf d t = true) :
    tabWf d (xs.foldl (fun t e => tabPut d (k e) (v e) t) t) = true := by
  induction xs generalizing t with
  | nil => exact w
  | cons x xs ih => exact ih _ (tabPut_wf _ _ t w)

/-! ## Byte memories -/

theorem foldl_wf {β γ : Type} (P : γ → Prop) (f : γ → β → γ) (h : ∀ m x, P m → P (f m x)) (xs : List β) (m : γ) (w : P m) :
    P (xs.foldl f m) := by
  induction xs generalizing m with
  | nil => exact w
  | cons x t ih => exact ih _ (h m x w)

/-- A run of bytes written keeps the canonical form. -/
theorem memWrite_wf (e : Byte) (a : Nat) (bs : List Byte) (m : List (Nat × Byte)) (w : Memory.wf e m = true) :
    Memory.wf e (memWrite e a bs m) = true := by
  induction bs generalizing a m with
  | nil => exact w
  | cons b t ih => exact ih _ _ (tabPut_wf _ _ m w)

theorem memWriteWords_wf (e : Byte) (a : Nat) (ws : List Word) (m : List (Nat × Byte)) (w : Memory.wf e m = true) :
    Memory.wf e (memWriteWords e a ws m) = true := memWrite_wf e a _ m w

theorem memory_wf_nil (e : Byte) : Memory.wf e [] = true := rfl

/-- What a byte reads as after a run of bytes was written. -/
theorem memWrite_get (e : Byte) (a j : Nat) (bs : List Byte) (m : List (Nat × Byte)) :
    tabGet (fun _ => e) (memWrite e a bs m) j
      = if a ≤ j ∧ j < a + bs.length then bs.getD (j - a) e else tabGet (fun _ => e) m j := by
  induction bs generalizing a m with
  | nil =>
    have h : ¬ (a ≤ j ∧ j < a + ([] : List Byte).length) := fun h => by
      have := h.2
      simp only [List.length_nil] at this
      omega
    rw [if_neg h]
    rfl
  | cons b t ih =>
    rw [memWrite, ih, tabGet_put]
    by_cases h : a = j
    · subst h
      have h1 : ¬ (a + 1 ≤ a ∧ a < a + 1 + t.length) := fun h => by omega
      have h2 : a ≤ a ∧ a < a + (b :: t).length := ⟨Nat.le_refl _, by simp only [List.length_cons]; omega⟩
      rw [if_neg h1, if_pos rfl, if_pos h2, Nat.sub_self, List.getD_cons_zero]
    · simp only [h, if_false, List.length_cons]
      by_cases q : a + 1 ≤ j ∧ j < a + 1 + t.length
      · rw [if_pos q, if_pos (by omega)]
        obtain ⟨r, hr⟩ : ∃ r, j - a = r + 1 := ⟨j - a - 1, by omega⟩
        rw [hr, List.getD_cons_succ]
        congr 1
        omega
      · rw [if_neg q, if_neg (by omega)]

end Sys2Proof.Machine
end

