-- ==== Sys2Proof/Laws/KeepsOps.lean ====
section
/-! SUPPORT. What the shared operations of Ops.lean leave alone: the cases the generic combinators do not reach. -/

namespace Sys2Proof.Machine

theorem Mems.wf_lck (m : Mems) (v : List (Nat × Byte)) (h : Memory.wf 0 m.lck = true → Memory.wf 0 v = true) :
    m.wf = true → ({ m with lck := v } : Mems).wf = true := by
  simp only [Mems.wf, Bool.and_eq_true]; intro w; simp_all
theorem Mems.wf_tow (m : Mems) (v : List (Nat × Byte)) (h : Memory.wf 0 m.tow = true → Memory.wf 0 v = true) :
    m.wf = true → ({ m with tow := v } : Mems).wf = true := by
  simp only [Mems.wf, Bool.and_eq_true]; intro w; simp_all
theorem Mems.wf_slu (m : Mems) (v : List (Nat × Byte)) (h : Memory.wf 0 m.slu = true → Memory.wf 0 v = true) :
    m.wf = true → ({ m with slu := v } : Mems).wf = true := by
  simp only [Mems.wf, Bool.and_eq_true]; intro w; simp_all
theorem Mems.wf_plan (m : Mems) (v : List (Nat × Byte)) (h : Memory.wf 0 m.plan = true → Memory.wf 0 v = true) :
    m.wf = true → ({ m with plan := v } : Mems).wf = true := by
  simp only [Mems.wf, Bool.and_eq_true]; intro w; simp_all
theorem Mems.wf_bank (m : Mems) (v : List (Nat × Byte)) (h : Memory.wf 0 m.bank = true → Memory.wf 0 v = true) :
    m.wf = true → ({ m with bank := v } : Mems).wf = true := by
  simp only [Mems.wf, Bool.and_eq_true]; intro w; simp_all
theorem Mems.wf_arena (m : Mems) (v : List (Nat × Byte)) (h : Memory.wf 0 m.arena = true → Memory.wf 0 v = true) :
    m.wf = true → ({ m with arena := v } : Mems).wf = true := by
  simp only [Mems.wf, Bool.and_eq_true]; intro w; simp_all
theorem Mems.wf_gau (m : Mems) (v : List (Nat × Byte)) (h : Memory.wf 0 m.gau = true → Memory.wf 0 v = true) :
    m.wf = true → ({ m with gau := v } : Mems).wf = true := by
  simp only [Mems.wf, Bool.and_eq_true]; intro w; simp_all
theorem Mems.wf_slum (m : Mems) (v : List (Nat × Byte)) (h : Memory.wf 0 m.slum = true → Memory.wf 0 v = true) :
    m.wf = true → ({ m with slum := v } : Mems).wf = true := by
  simp only [Mems.wf, Bool.and_eq_true]; intro w; simp_all

theorem Chip.setReg_keeps (c : Chip) (off v : Nat) : Keeps 4 c (c.setReg off v) :=
  Keeps.upd_regs Keeps.refl rfl _ (fun h => tabPut_wf _ _ _ h)

theorem Chip.at_keeps (c : Chip) (t : Nat) : Keeps 1 c (c.at t) :=
  { (Keeps.refl : Keeps 1 c c) with
    now := fun h => absurd h (by decide)
    mono := fun _ => Nat.le_max_left _ _ }

theorem Chip.sendMsix_keeps (c : Chip) (v : Nat) : Keeps 0x4000008 c (c.sendMsix v) := by
  unfold Chip.sendMsix
  refine Keeps.ite ?_ ?_
  · exact Keeps.upd_hstVec Keeps.refl rfl _ rfl rfl rfl
  · exact Keeps.upd_out (b := { c with hst := { c.hst with pba := c.hst.pba &&& ((2 ^ 32 - 1) ^^^ 2 ^ v) } })
      (Keeps.upd_hstVec Keeps.refl rfl _ rfl rfl rfl) rfl _

theorem tabWfFrom_append {d : Nat → Byte} {lo hi : Nat} (s t : List (Nat × Byte)) (ws : tabWfFrom d lo s = true)
    (hs : ∀ e ∈ s, e.1 < hi) (wt : tabWfFrom d hi t = true) (h : lo ≤ hi) : tabWfFrom d lo (s ++ t) = true := by
  induction s generalizing lo with
  | nil => exact tabWfFrom_mono h t wt
  | cons e s ih =>
    simp only [tabWfFrom, Bool.and_eq_true, decide_eq_true_eq, List.cons_append] at ws ⊢
    exact ⟨ws.1, ih ws.2 (fun x hx => hs x (List.mem_cons_of_mem _ hx)) (hs e List.mem_cons_self)⟩

theorem flashBytes_wf (a k : Nat) (bs : List Byte) :
    tabWfFrom (fun _ => (0xFF : Byte)) (a + k) (((bs.zipIdx k).map (fun e => (a + e.2, e.1))).filter (fun e => e.2 != 0xFF)) = true := by
  induction bs generalizing k with
  | nil => rfl
  | cons b t ih =>
    simp only [List.zipIdx_cons, List.map_cons, List.filter_cons]
    split
    · next hb =>
      simp only [tabWfFrom, Bool.and_eq_true, decide_eq_true_eq]
      exact ⟨⟨Nat.le_refl _, by simpa using hb⟩, ih (k + 1)⟩
    · exact tabWfFrom_mono (by omega) _ (ih (k + 1))

theorem tabWfFrom_above {d : Nat → Byte} (a : Nat) (t : List (Nat × Byte)) {lo : Nat} (w : tabWfFrom d lo t = true) :
    tabWfFrom d a (t.filter (fun e => decide (a ≤ e.1))) = true := by
  induction t generalizing lo with
  | nil => rfl
  | cons e t ih =>
    simp only [tabWfFrom, Bool.and_eq_true, decide_eq_true_eq] at w
    simp only [List.filter_cons]
    split
    · next h =>
      simp only [decide_eq_true_eq] at h
      simp only [tabWfFrom, Bool.and_eq_true, decide_eq_true_eq]
      exact ⟨⟨h, w.1.2⟩, tabWfFrom_filter _ t w.2⟩
    · exact ih w.2

/-- A programmed run of flash keeps the canonical form. -/
theorem flashPut_wf (flash : List (Nat × Byte)) (a : Nat) (bs : List Byte) (w : Memory.wf 0xFF flash = true) :
    Memory.wf 0xFF (flashPut flash a bs) = true := by
  unfold flashPut Memory.wf tabWf
  refine tabWfFrom_append (hi := a + bs.length) _ _ (tabWfFrom_append (hi := a) _ _ (tabWfFrom_filter _ _ w) ?_ (flashBytes_wf a 0 bs)
    (Nat.zero_le _)) ?_ (tabWfFrom_above _ _ w) (Nat.zero_le _)
  · intro e he
    simpa using (List.mem_filter.1 he).2
  · intro e he
    rcases List.mem_append.1 he with h | h
    · have := (List.mem_filter.1 h).2
      simp at this
      omega
    · obtain ⟨x, hx, rfl⟩ := List.mem_map.1 (List.mem_filter.1 h).1
      have := List.snd_lt_of_mem_zipIdx hx
      simp at this ⊢
      omega

theorem flashErase_wf (flash : List (Nat × Byte)) (a n : Nat) (w : Memory.wf 0xFF flash = true) :
    Memory.wf 0xFF (flashErase flash a n) = true := tabClear_wf _ _ _ w

theorem outputs_keeps {m : Nat} (n : Nat) (w : Work2) (f : Chip → Nat → Chip × Nat) (h : ∀ c i, Keeps m c (f c i).1) :
    Keeps m w.1 (outputs n w f).1 := by
  unfold outputs
  exact Keeps.foldl1 _ (fun r x => by exact h _ _) _ w

theorem Chip.setBoot_keeps (c : Chip) (f : Boot → Boot) (h1 : ∀ b, (f b).phase = b.phase) (h2 : ∀ b, (f b).otp = b.otp)
    (h3 : ∀ b, (f b).flash = b.flash) : Keeps 0x20 c (c.setBoot f) :=
  Keeps.upd_boot Keeps.refl rfl _ (h1 _) (h2 _) (h3 _)

theorem Chip.setBoot_keepsAll (c : Chip) (f : Boot → Boot) (h2 : ∀ b, (f b).otp = b.otp)
    (h3 : ∀ b, (f b).flash = b.flash) : Keeps 0x800020 c (c.setBoot f) :=
  Keeps.upd_bootAll Keeps.refl rfl rfl _ (h2 _) (h3 _)

theorem Chip.setBoot_keepsFlash (c : Chip) (f : Boot → Boot) (h1 : ∀ b, (f b).phase = b.phase) (h2 : ∀ b, (f b).otp = b.otp)
    (h3 : ∀ b, Memory.wf 0xFF b.flash = true → Memory.wf 0xFF (f b).flash = true) : Keeps 0x20 c (c.setBoot f) :=
  Keeps.upd_flash Keeps.refl rfl _ (h1 _) (h2 _) (h3 _)

theorem Chip.setLog_keeps (c : Chip) (f : Logbook → Logbook)
    (h : ∀ l, Memory.wf 0 l.mem = true → Memory.wf 0 (f l).mem = true) : Keeps 0x40 c (c.setLog f) :=
  Keeps.upd_log Keeps.refl rfl _ (h _)

theorem warmRegs_wf (l : List (Nat × Word)) : tabWf regReset (warmRegs l) = true := tabFold_wf _ _ _ _ tabWf_nil

theorem minSvn_grows (v : Nat) (o : Otp) (h : o.minSvnNum < v) :
    Otp.grows o { o with minSvn := BitVec.ofNat 64 (2 ^ v - 1) } := by
  refine ⟨rfl, ?_⟩
  have key : ({ o with minSvn := BitVec.ofNat 64 (2 ^ v - 1) } : Otp).minSvnNum
      = ((List.range 64).filter (fun i => decide (i < v))).length := by
    unfold Otp.minSvnNum
    congr 1
    refine List.filter_congr (fun i hi => ?_)
    simp only [List.mem_range] at hi
    rw [BitVec.getLsbD_ofNat, Nat.testBit_two_pow_sub_one]
    simp [hi]
  rw [key]
  by_cases hv : v < 64
  · have all : ∀ w : Fin 64, ((List.range 64).filter (fun i => decide (i < w.val))).length = w.val := by decide
    rw [all ⟨v, hv⟩]
    exact Nat.le_of_lt h
  · have : (List.range 64).filter (fun i => decide (i < v)) = List.range 64 := by
      rw [List.filter_eq_self]
      intro i hi
      simp only [List.mem_range] at hi
      simp; omega
    rw [this]
    exact List.length_filter_le _ _

/-- A memory built by steps that each keep the canonical form keeps it. -/
theorem memFold_wf {β : Type} (e : Byte) (f : List (Nat × Byte) → β → List (Nat × Byte))
    (h : ∀ m x, Memory.wf e m = true → Memory.wf e (f m x) = true) (xs : List β) (m : List (Nat × Byte))
    (w : Memory.wf e m = true) : Memory.wf e (xs.foldl f m) = true := by
  induction xs generalizing m with
  | nil => exact w
  | cons x t ih => exact ih _ (h m x w)

end Sys2Proof.Machine
end

