-- ==== Sys2Proof/Laws/KeepsAll.lean ====
section
/-! SUPPORT. What each operation of the model leaves alone: one `Keeps` lemma for every definition that answers a device,
in the order in which the operations build on one another. Each proof follows the branches of its definition. -/

namespace Sys2Proof.Machine

theorem Chip.setEdge_keeps (c) (a1) (a2) : Keeps 4 c (Chip.setEdge c a1 a2) := by
  unfold Chip.setEdge
  refine Keeps.upd_edges ?_ rfl _
  exact Keeps.refl

theorem Chip.noteEdge_keeps (c) (a1) (a2) : Keeps 4 c (Chip.noteEdge c a1 a2) := by
  unfold Chip.noteEdge
  extract_lets z1
  refine Keeps.upd_edges ?_ rfl _
  exact Keeps.refl

theorem Chip.setFld_keeps (c) (a1) (a2) : Keeps 4 c (Chip.setFld c a1 a2) := by
  unfold Chip.setFld
  refine Keeps.trans ?_ (Chip.setReg_keeps ..) rfl
  refine Keeps.trans ?_ (Chip.noteEdge_keeps ..) rfl
  exact Keeps.refl

theorem Chip.setFldI_keeps (c) (a1) (a2) : Keeps 4 c (Chip.setFldI c a1 a2) := by
  unfold Chip.setFldI
  refine Keeps.trans ?_ (Chip.setFld_keeps ..) rfl
  exact Keeps.refl

theorem Chip.setFlag_keeps (c) (a1) (a2) : Keeps 4 c (Chip.setFlag c a1 a2) := by
  unfold Chip.setFlag
  refine Keeps.trans ?_ (Chip.setFld_keeps ..) rfl
  exact Keeps.refl

theorem Chip.raise_keeps (c) (a1) : Keeps 4 c (Chip.raise c a1) := by
  unfold Chip.raise
  refine Keeps.trans ?_ (Chip.setFld_keeps ..) rfl
  exact Keeps.refl

theorem Chip.count_keeps (c) (a1) (a2) : Keeps 4 c (Chip.count c a1 a2) := by
  unfold Chip.count
  refine Keeps.trans ?_ (Chip.setReg_keeps ..) rfl
  refine Keeps.trans ?_ (Chip.noteEdge_keeps ..) rfl
  exact Keeps.refl

theorem Chip.raiseBit_keeps (c) (a1) (a2) : Keeps 4 c (Chip.raiseBit c a1 a2) := by
  unfold Chip.raiseBit
  refine Keeps.trans ?_ (Chip.setFld_keeps ..) rfl
  exact Keeps.refl

theorem Chip.clearMask_keeps (c) (a1) (a2) : Keeps 4 c (Chip.clearMask c a1 a2) := by
  unfold Chip.clearMask
  refine Keeps.trans ?_ (Chip.setReg_keeps ..) rfl
  exact Keeps.refl

theorem Chip.writeBits_keeps (c) (a1) (a2) : Keeps 4 c (Chip.writeBits c a1 a2) := by
  unfold Chip.writeBits
  split
  · rename_i z1 z2
    exact Keeps.refl
  · rename_i z3 z4 z5
    extract_lets z6 z7 z8 z9
    refine Keeps.trans ?_ (Chip.setReg_keeps ..) rfl
    exact Keeps.refl

theorem Chip.freeWord_keeps (c) : Keeps 2 c (Chip.freeWord c).1 := by
  unfold Chip.freeWord
  refine Keeps.upd_fresh ?_ rfl _ (Nat.le_succ _)
  exact Keeps.refl

theorem Chip.freeBool_keeps (c) : Keeps 2 c (Chip.freeBool c).1 := by
  unfold Chip.freeBool
  refine Keeps.upd_fresh ?_ rfl _ (Nat.le_succ _)
  exact Keeps.refl

theorem Chip.emit_keeps (c) (a1) : Keeps 8 c (Chip.emit c a1) := by
  unfold Chip.emit
  refine Keeps.upd_out ?_ rfl _
  exact Keeps.refl

theorem Chip.ledger_keeps (c) (a1) : Keeps 2097152 c (Chip.ledger c a1) := by
  unfold Chip.ledger
  extract_lets z1
  refine Keeps.upd_aqu ?_ rfl _
  exact Keeps.refl

theorem Chip.setLad_keeps (c) (a1) (a2) : Keeps 33554432 c (Chip.setLad c a1 a2) := by
  unfold Chip.setLad
  extract_lets z1
  refine Keeps.upd_hstLad ?_ rfl _ rfl rfl rfl
  exact Keeps.refl

theorem Chip.ladDropped_keeps (c) (a1) : Keeps 4 c (Chip.ladDropped c a1) := by
  unfold Chip.ladDropped
  extract_lets z1
  have h2 : Keeps 4 c z1 := by
    refine Keeps.trans ?_ (Chip.count_keeps ..) rfl
    refine Keeps.trans ?_ (Chip.raise_keeps ..) rfl
    exact Keeps.refl
  clear_value z1
  split
  · rename_i z3 z4
    refine Keeps.trans ?_ (Chip.raise_keeps ..) rfl
    exact h2
  · rename_i z5 z6
    refine Keeps.trans ?_ (Chip.count_keeps ..) rfl
    exact h2
  · rename_i z7 z8 z9
    exact h2

theorem Chip.ladWhole_keeps (c) (a1) (a2) : Keeps 33554436 c (Chip.ladWhole c a1 a2) := by
  unfold Chip.ladWhole
  extract_lets z1
  refine Keeps.ite ?_ ?_
  · refine Keeps.trans ?_ (Chip.setLad_keeps ..) rfl
    exact Keeps.refl
  · refine Keeps.ite ?_ ?_
    · refine Keeps.trans ?_ (Chip.ladDropped_keeps ..) rfl
      exact Keeps.refl
    · refine Keeps.trans ?_ (Chip.setLad_keeps ..) rfl
      exact Keeps.refl

theorem Chip.ladPacket_keeps (c) (a1) (a2) : Keeps 33554436 c (Chip.ladPacket c a1 a2) := by
  unfold Chip.ladPacket
  refine Keeps.trans ?_ (Chip.ladWhole_keeps ..) rfl
  exact Keeps.refl

theorem Chip.ladUnits_keeps (c) (a1) (a2) (a3) : Keeps 33554436 c (Chip.ladUnits c a1 a2 a3) := by
  unfold Chip.ladUnits
  extract_lets z1 z2 z3 z4 z5 z6
  have h7 : Keeps 33554436 c z6 := by
    refine Keeps.ite ?_ ?_
    · refine Keeps.trans ?_ (Chip.ladDropped_keeps ..) rfl
      exact Keeps.refl
    · exact Keeps.refl
  clear_value z6
  refine Keeps.ite ?_ ?_
  · refine Keeps.trans ?_ (Chip.setLad_keeps ..) rfl
    exact Keeps.refl
  · refine Keeps.ite ?_ ?_
    · refine Keeps.trans ?_ (Chip.setLad_keeps ..) rfl
      exact h7
    · refine Keeps.ite ?_ ?_
      · refine Keeps.trans ?_ (Chip.setLad_keeps ..) rfl
        exact Keeps.refl
      · refine Keeps.trans ?_ (Chip.setLad_keeps ..) rfl
        exact Keeps.refl

theorem Chip.ladFlush_keeps (c) (a1) : Keeps 33554432 c (Chip.ladFlush c a1) := by
  unfold Chip.ladFlush
  extract_lets z1
  refine Keeps.ite ?_ ?_
  · refine Keeps.trans ?_ (Chip.setLad_keeps ..) rfl
    exact Keeps.refl
  · split
    · rename_i z2 z3 z4
      exact Keeps.refl
    · rename_i z5 z6
      refine Keeps.trans ?_ (Chip.setLad_keeps ..) rfl
      exact Keeps.refl

theorem Chip.ladFlushTimeout_keeps (c) (a1) : Keeps 33554436 c (Chip.ladFlushTimeout c a1) := by
  unfold Chip.ladFlushTimeout
  extract_lets z1
  split
  · rename_i z2 z3
    exact Keeps.refl
  · rename_i z4 z5 z6
    refine Keeps.ite ?_ ?_
    · exact Keeps.refl
    · refine Keeps.trans ?_ (Chip.raise_keeps ..) rfl
      refine Keeps.trans ?_ (Chip.setLad_keeps ..) rfl
      exact Keeps.refl

theorem Chip.setSnap_keeps (c) (a1) (a2) : Keeps 16 c (Chip.setSnap c a1 a2) := by
  unfold Chip.setSnap
  extract_lets z1
  refine Keeps.upd_hst ?_ rfl _ rfl rfl rfl rfl
  exact Keeps.refl

theorem Chip.snapLo_keeps (c) (a1) (a2) : Keeps 16 c (Chip.snapLo c a1 a2).1 := by
  unfold Chip.snapLo
  extract_lets z1
  refine Keeps.trans ?_ (Chip.setSnap_keeps ..) rfl
  exact Keeps.refl

theorem Chip.ladRead_keeps (c) (a1) (a2) : Keeps 33554448 c (Chip.ladRead c a1 a2).1 := by
  unfold Chip.ladRead
  extract_lets z1 z2
  split
  · rename_i z3 z4 z5 z6 z7 z8
    extract_lets z9 z10
    have h11 : Keeps 33554448 c z9 := by
      refine Keeps.trans ?_ (Chip.setLad_keeps ..) rfl
      exact Keeps.refl
    clear_value z9
    refine Keeps.trans ?_ (Chip.setSnap_keeps ..) rfl
    exact h11
  · rename_i z12 z13 z14
    refine Keeps.trans ?_ (Chip.setSnap_keeps ..) rfl
    exact Keeps.refl

theorem Chip.logWrite_keeps (c : Chip) (back : Nat) (es : List (List Word)) : Keeps 68 c (c.logWrite back es) := by
  unfold Chip.logWrite
  refine Keeps.trans ?_ (Chip.setFld_keeps ..) rfl
  refine Keeps.trans ?_ (Chip.setReg_keeps ..) rfl
  exact Keeps.upd_log Keeps.refl rfl _ (fun h => memFold_wf 0 _ (fun _ _ w => memWriteWords_wf _ _ _ _ w) _ _ h)

theorem Chip.logEventAt_keeps (c) (a1) (a2) (a3) (a4) (a5) : Keeps 68 c (Chip.logEventAt c a1 a2 a3 a4 a5) := by
  unfold Chip.logEventAt
  extract_lets z1 z2 z3 z4 z5 z6 z7 z8 z9 z10 z11
  have h12 : Keeps 68 c z4 := by
    refine Keeps.trans ?_ (Chip.logWrite_keeps ..) rfl
    refine Keeps.trans ?_ (Chip.raise_keeps ..) rfl
    refine Keeps.trans ?_ (Chip.count_keeps ..) rfl
    exact Keeps.refl
  clear_value z4
  have h13 : Keeps 68 c z7 := by
    refine Keeps.trans ?_ (Chip.logWrite_keeps ..) rfl
    exact Keeps.refl
  clear_value z7
  have h14 : Keeps 68 c z9 := by
    refine Keeps.ite ?_ ?_
    · refine Keeps.upd_log ?_ rfl _ (fun h => h)
      exact h13
    · exact Keeps.refl
  clear_value z9
  have h15 : Keeps 68 c z11 := by
    refine Keeps.upd_log ?_ rfl _ (fun h => h)
    exact h14
  clear_value z11
  refine Keeps.ite ?_ ?_
  · refine Keeps.trans ?_ (Chip.count_keeps ..) rfl
    exact Keeps.refl
  · refine Keeps.ite ?_ ?_
    · refine Keeps.ite ?_ ?_
      · refine Keeps.upd_log ?_ rfl _ (fun h => h)
        exact h12
      · refine Keeps.trans ?_ (Chip.logWrite_keeps ..) rfl
        exact h15
    · exact Keeps.refl

theorem Chip.logFreeze_keeps (c) (a1) : Keeps 68 c (Chip.logFreeze c a1) := by
  unfold Chip.logFreeze
  extract_lets z1 z2 z3 z4
  have h5 : Keeps 68 c z1 := by
    dsimp only [z1]
    split
    · rename_i z6 z7
      refine Keeps.trans ?_ (Chip.setFld_keeps ..) rfl
      exact Keeps.refl
    · rename_i z8
      exact Keeps.refl
  clear_value z1
  have h9 : Keeps 68 c z2 := by
    refine Keeps.trans ?_ (Chip.setFld_keeps ..) rfl
    refine Keeps.trans ?_ (Chip.setReg_keeps ..) rfl
    exact h5
  clear_value z2
  have h10 : Keeps 68 c z4 := by
    refine Keeps.upd_log ?_ rfl _ (fun h => h)
    exact h9
  clear_value z4
  refine Keeps.trans ?_ (Chip.raise_keeps ..) rfl
  refine Keeps.trans ?_ (Chip.setFld_keeps ..) rfl
  exact h10

theorem Chip.logTriggerAt_keeps (c) (a1) (a2) : Keeps 68 c (Chip.logTriggerAt c a1 a2) := by
  unfold Chip.logTriggerAt
  extract_lets z1 z2 z3
  have h4 : Keeps 68 c z1 := by
    refine Keeps.trans ?_ (Chip.setReg_keeps ..) rfl
    refine Keeps.trans ?_ (Chip.setFld_keeps ..) rfl
    refine Keeps.trans ?_ (Chip.setFld_keeps ..) rfl
    exact Keeps.refl
  clear_value z1
  have h5 : Keeps 68 c z3 := by
    refine Keeps.upd_log ?_ rfl _ (fun h => h)
    exact h4
  clear_value z3
  refine Keeps.ite ?_ ?_
  · refine Keeps.trans ?_ (Chip.logEventAt_keeps ..) rfl
    exact h5
  · exact Keeps.refl

theorem Chip.settle_keeps (c) : Keeps 67108872 c (Chip.settle c) := by
  unfold Chip.settle
  extract_lets z1 z2 z3 z4
  have h5 : Keeps 67108872 c z4 := by
    refine Keeps.upd_hstVec ?_ rfl _ rfl rfl rfl
    exact Keeps.refl
  clear_value z4
  refine Keeps.ite ?_ ?_
  · exact Keeps.refl
  · refine Keeps.trans ?_ (Keeps.each (m := 67108872) _ ?_ _ _) rfl
    · exact h5
    · intro z6 z7
      refine Keeps.ite ?_ ?_
      · refine Keeps.trans ?_ (Chip.sendMsix_keeps ..) rfl
        exact Keeps.refl
      · exact Keeps.refl

theorem Chip.eventBefore_keeps (c) (a1) (a2) (a3) (a4) (a5) : Keeps 33554436 c (Chip.eventBefore c a1 a2 a3 a4 a5) := by
  unfold Chip.eventBefore
  extract_lets z1 z2 z3 z4
  have h5 : Keeps 33554436 c z3 := by
    refine Keeps.trans ?_ (Chip.setLad_keeps ..) rfl
    exact Keeps.refl
  clear_value z3
  have h6 : Keeps 33554436 c z4 := by
    refine Keeps.trans ?_ (Chip.ladPacket_keeps ..) rfl
    exact h5
  clear_value z4
  refine Keeps.trans ?_ (Keeps.each (m := 33554436) _ ?_ _ _) rfl
  · exact h6
  · intro z7 z8
    refine Keeps.trans ?_ (Chip.ladWhole_keeps ..) rfl
    exact Keeps.refl

theorem Chip.hostEvent_keeps (c) (a1) (a2) : Keeps 33554436 c (Chip.hostEvent c a1 a2) := by
  unfold Chip.hostEvent
  refine Keeps.ite ?_ ?_
  · extract_lets z1 z2 z3 z4 z5 z6
    have h7 : Keeps 33554436 c z6 := by
      refine Keeps.upd_hstLad ?_ rfl _ rfl rfl rfl
      exact Keeps.refl
    clear_value z6
    refine Keeps.ite ?_ ?_
    · refine Keeps.trans ?_ (Chip.ladPacket_keeps ..) rfl
      exact h7
    · refine Keeps.trans ?_ (Chip.eventBefore_keeps ..) rfl
      exact h7
  · exact Keeps.refl

theorem Chip.sysEvent_keeps (c) (a1) (a2) (a3) (a4) : Keeps 33554436 c (Chip.sysEvent c a1 a2 a3 a4) := by
  unfold Chip.sysEvent
  refine Keeps.trans ?_ (Chip.hostEvent_keeps ..) rfl
  exact Keeps.refl

theorem Chip.logEvent_keeps (c) (a1) (a2) (a3) (a4) : Keeps 68 c (Chip.logEvent c a1 a2 a3 a4) := by
  unfold Chip.logEvent
  refine Keeps.trans ?_ (Chip.logEventAt_keeps ..) rfl
  exact Keeps.refl

theorem Chip.logTrigger_keeps (c) (a1) : Keeps 68 c (Chip.logTrigger c a1) := by
  unfold Chip.logTrigger
  refine Keeps.trans ?_ (Chip.logTriggerAt_keeps ..) rfl
  exact Keeps.refl

theorem Chip.setDom_keeps (c) (a1) (a2) : Keeps 512 c (Chip.setDom c a1 a2) := by
  unfold Chip.setDom
  extract_lets z1
  refine Keeps.upd_tim ?_ rfl _
  exact Keeps.refl

theorem Chip.setUser_keeps (c) (a1) (a2) : Keeps 512 c (Chip.setUser c a1 a2) := by
  unfold Chip.setUser
  extract_lets z1
  refine Keeps.upd_tim ?_ rfl _
  exact Keeps.refl

theorem Chip.stepCorrection_keeps (c) : Keeps 4194560 c (Chip.stepCorrection c) := by
  unfold Chip.stepCorrection
  extract_lets z1 z2 z3 z4
  refine Keeps.upd_pndAll ?_ rfl rfl _
  exact Keeps.refl

theorem Chip.lockUpdate_keeps (c) : Keeps 4194564 c (Chip.lockUpdate c) := by
  unfold Chip.lockUpdate
  extract_lets z1 z2 z3 z4 z5 z6 z7 z8
  have h9 : Keeps 4194564 c z3 := by
    refine Keeps.trans ?_ (Chip.setFld_keeps ..) rfl
    exact Keeps.refl
  have h10 : Keeps 4194564 c z5 := by
    refine Keeps.trans ?_ (Chip.setFld_keeps ..) rfl
    exact Keeps.refl
  have h11 : Keeps 4194564 c z7 := by
    refine Keeps.upd_pnd ?_ rfl _ rfl
    exact h10
  have h12 : Keeps 4194564 c z8 := by
    refine Keeps.trans ?_ (Chip.setFld_keeps ..) rfl
    exact Keeps.refl
  refine Keeps.ite ?_ ?_
  · exact Keeps.refl
  · refine Keeps.ite ?_ ?_
    · refine Keeps.upd_pnd ?_ rfl _ rfl
      exact h9
    · refine Keeps.ite ?_ ?_
      · refine Keeps.ite ?_ ?_
        · refine Keeps.trans ?_ (Chip.stepCorrection_keeps ..) rfl
          exact h11
        · exact h11
      · refine Keeps.ite ?_ ?_
        · refine Keeps.upd_pnd ?_ rfl _ rfl
          exact h12
        · exact Keeps.refl

theorem Chip.tb3Evaluate_keeps (c) (a1) (a2) : Keeps 37749572 c (Chip.tb3Evaluate c a1 a2) := by
  unfold Chip.tb3Evaluate
  extract_lets z1 z2 z3 z4 z5 z6 z7 z8 z9 z10 z11 z12 z13 z14 z15 z16 z17 z18 z19 z20
  have h21 : Keeps 37749572 c z8 := by
    refine Keeps.trans ?_ (Chip.setFld_keeps ..) rfl
    exact Keeps.refl
  clear_value z8
  have h22 : Keeps 37749572 c z10 := by
    refine Keeps.upd_tim ?_ rfl _
    exact h21
  clear_value z10
  have h23 : Keeps 37749572 c z11 := by
    refine Keeps.trans ?_ (Keeps.onlyIf (m := 37749572) _ ?_ _ _) rfl
    · refine Keeps.trans ?_ (Chip.setFlag_keeps ..) rfl
      exact h22
    · intro z30
      refine Keeps.trans ?_ (Chip.setFlag_keeps ..) rfl
      exact Keeps.refl
  clear_value z11
  have h24 : Keeps 37749572 c z14 := by
    refine Keeps.ite ?_ ?_
    · refine Keeps.trans ?_ (Chip.logEvent_keeps ..) rfl
      refine Keeps.trans ?_ (Chip.raise_keeps ..) rfl
      exact h23
    · exact h23
  clear_value z14
  have h25 : Keeps 37749572 c z15 := by
    refine Keeps.ite ?_ ?_
    · refine Keeps.trans ?_ (Chip.logEvent_keeps ..) rfl
      refine Keeps.trans ?_ (Chip.raise_keeps ..) rfl
      exact h24
    · exact h24
  clear_value z15
  have h26 : Keeps 37749572 c z17 := by
    refine Keeps.upd_tim ?_ rfl _
    exact h25
  clear_value z17
  have h27 : Keeps 37749572 c z18 := by
    refine Keeps.trans ?_ (Chip.logEvent_keeps ..) rfl
    refine Keeps.trans ?_ (Chip.raise_keeps ..) rfl
    exact h26
  clear_value z18
  have h28 : Keeps 37749572 c z19 := by
    refine Keeps.trans ?_ (Chip.logTrigger_keeps ..) rfl
    exact h27
  clear_value z19
  have h29 : Keeps 37749572 c z20 := by
    refine Keeps.ite ?_ ?_
    · refine Keeps.ite ?_ ?_
      · refine Keeps.upd_tim ?_ rfl _
        exact h25
      · refine Keeps.ite ?_ ?_
        · refine Keeps.trans ?_ (Chip.sysEvent_keeps ..) rfl
          refine Keeps.trans ?_ (Chip.raise_keeps ..) rfl
          exact h28
        · exact h28
    · exact h25
  clear_value z20
  refine Keeps.trans ?_ (Chip.lockUpdate_keeps ..) rfl
  exact h29

theorem Chip.setDomState_keeps (c) (a1) (a2) : Keeps 516 c (Chip.setDomState c a1 a2) := by
  unfold Chip.setDomState
  extract_lets z1 z2 z3 z4
  have h5 : Keeps 516 c z1 := by
    refine Keeps.trans ?_ (Chip.setFld_keeps ..) rfl
    exact Keeps.refl
  clear_value z1
  have h6 : Keeps 516 c z4 := by
    refine Keeps.ite ?_ ?_
    · refine Keeps.trans ?_ (Chip.setFld_keeps ..) rfl
      exact h5
    · exact h5
  clear_value z4
  refine Keeps.ite ?_ ?_
  · exact Keeps.refl
  · refine Keeps.trans ?_ (Chip.raise_keeps ..) rfl
    refine Keeps.trans ?_ (Chip.setDom_keeps ..) rfl
    exact h6

theorem Chip.setList_keeps (c) (a1) (a2) (a3) : Keeps 128 c (Chip.setList c a1 a2 a3) := by
  unfold Chip.setList
  extract_lets z1
  refine Keeps.upd_lkp ?_ rfl _
  exact Keeps.refl

theorem Chip.peak_keeps (c) (a1) (a2) : Keeps 4 c (Chip.peak c a1 a2) := by
  unfold Chip.peak
  refine Keeps.trans ?_ (Chip.setReg_keeps ..) rfl
  refine Keeps.trans ?_ (Chip.noteEdge_keeps ..) rfl
  exact Keeps.refl

theorem Chip.submit_keeps (c) (a1) (a2) : Keeps 132 c (Chip.submit c a1 a2).1 := by
  unfold Chip.submit
  extract_lets z1 z2
  have h3 : Keeps 132 c z2 := by
    refine Keeps.trans ?_ (Chip.setList_keeps ..) rfl
    exact Keeps.refl
  clear_value z2
  refine Keeps.ite1 ?_ ?_
  · dsimp only
    refine Keeps.trans ?_ (Chip.raise_keeps ..) rfl
    refine Keeps.trans ?_ (Chip.count_keeps ..) rfl
    exact Keeps.refl
  · dsimp only
    refine Keeps.trans ?_ (Chip.peak_keeps ..) rfl
    exact h3

theorem Chip.unlist_keeps (c) (a1) (a2) : Keeps 132 c (Chip.unlist c a1 a2) := by
  unfold Chip.unlist
  refine Keeps.trans ?_ (Keeps.each (m := 132) _ ?_ _ _) rfl
  · exact Keeps.refl
  · intro z1 z2
    refine Keeps.trans ?_ (Keeps.each (m := 132) _ ?_ _ _) rfl
    · refine Keeps.trans ?_ (Chip.setList_keeps ..) rfl
      exact Keeps.refl
    · intro z3 z4
      refine Keeps.trans ?_ (Chip.count_keeps ..) rfl
      exact Keeps.refl

theorem Chip.charge_keeps (c) (a1) (a2) : Keeps 128 c (Chip.charge c a1 a2) := by
  unfold Chip.charge
  extract_lets z1 z2
  refine Keeps.upd_lkp ?_ rfl _
  exact Keeps.refl

theorem Chip.workerDone_keeps (c) (a1) : Keeps 128 c (Chip.workerDone c a1) := by
  unfold Chip.workerDone
  split
  · rename_i z1 z2
    exact Keeps.refl
  · rename_i z3 z4 z5
    extract_lets z6 z7
    have h8 : Keeps 128 c z6 := by
      refine Keeps.trans ?_ (Chip.charge_keeps ..) rfl
      exact Keeps.refl
    clear_value z6
    refine Keeps.upd_lkp ?_ rfl _
    exact h8

theorem Chip.workDone_keeps (c) (a1) : Keeps 128 c (Chip.workDone c a1) := by
  unfold Chip.workDone
  refine Keeps.trans ?_ (Keeps.each (m := 128) _ ?_ _ _) rfl
  · exact Keeps.refl
  · intro z1 z2
    refine Keeps.trans ?_ (Chip.workerDone_keeps ..) rfl
    exact Keeps.refl

theorem Chip.begin__keeps (c) (a1) (a2) (a3) (a4) : Keeps 132 c (Chip.begin_ c a1 a2 a3 a4) := by
  unfold Chip.begin_
  extract_lets z1 z2 z3 z4 z5
  have h6 : Keeps 132 c z1 := by
    refine Keeps.trans ?_ (Chip.setList_keeps ..) rfl
    exact Keeps.refl
  clear_value z1
  have h7 : Keeps 132 c z4 := by
    refine Keeps.trans ?_ (Chip.count_keeps ..) rfl
    exact h6
  clear_value z4
  refine Keeps.upd_lkp ?_ rfl _
  exact h7

theorem Chip.dropEntry_keeps (c) (a1) (a2) : Keeps 132 c (Chip.dropEntry c a1 a2) := by
  unfold Chip.dropEntry
  refine Keeps.trans ?_ (Chip.count_keeps ..) rfl
  refine Keeps.trans ?_ (Chip.setList_keeps ..) rfl
  exact Keeps.refl

theorem Chip.headCompute_keeps (c) (a1) : Keeps 132 c (Chip.headCompute c a1) := by
  unfold Chip.headCompute
  extract_lets z1 z2 z3 z4 z5 z6 z7 z8 z9 z10 z11 z12
  have h13 : Keeps 132 c z6 := by
    refine Keeps.ite ?_ ?_
    · refine Keeps.trans ?_ (Chip.raise_keeps ..) rfl
      exact Keeps.refl
    · exact Keeps.refl
  clear_value z6
  have h14 : Keeps 132 c z7 := by
    refine Keeps.trans ?_ (Chip.setFlag_keeps ..) rfl
    exact h13
  clear_value z7
  have h15 : Keeps 132 c z8 := by
    refine Keeps.ite ?_ ?_
    · exact h14
    · refine Keeps.trans ?_ (Chip.setFldI_keeps ..) rfl
      exact h14
  clear_value z8
  have h16 : Keeps 132 c z10 := by
    refine Keeps.trans ?_ (Chip.setReg_keeps ..) rfl
    refine Keeps.trans ?_ (Chip.setReg_keeps ..) rfl
    refine Keeps.trans ?_ (Chip.setReg_keeps ..) rfl
    refine Keeps.trans ?_ (Chip.setReg_keeps ..) rfl
    refine Keeps.trans ?_ (Chip.setFld_keeps ..) rfl
    exact h15
  clear_value z10
  have h17 : Keeps 132 c z11 := by
    refine Keeps.trans ?_ (Chip.setReg_keeps ..) rfl
    refine Keeps.trans ?_ (Chip.setReg_keeps ..) rfl
    exact h16
  clear_value z11
  refine Keeps.upd_lkp ?_ rfl _
  exact h17

theorem Chip.headGrant_keeps (c) (a1) (a2) : Keeps 33554500 c (Chip.headGrant c a1 a2) := by
  unfold Chip.headGrant
  extract_lets z1 z2 z3 z4 z5 z6 z7 z8 z9
  have h10 : Keeps 33554500 c z3 := by
    refine Keeps.ite ?_ ?_
    · refine Keeps.trans ?_ (Chip.raise_keeps ..) rfl
      exact Keeps.refl
    · exact Keeps.refl
  clear_value z3
  have h11 : Keeps 33554500 c z5 := by
    refine Keeps.trans ?_ (Keeps.each (m := 33554500) _ ?_ _ _) rfl
    · exact h10
    · intro z13 z14
      refine Keeps.trans ?_ (Chip.setReg_keeps ..) rfl
      exact Keeps.refl
  clear_value z5
  have h12 : Keeps 33554500 c z8 := by
    refine Keeps.trans ?_ (Chip.setFld_keeps ..) rfl
    exact h11
  clear_value z8
  refine Keeps.ite ?_ ?_
  · exact h12
  · refine Keeps.trans ?_ (Chip.logEvent_keeps ..) rfl
    refine Keeps.trans ?_ (Chip.sysEvent_keeps ..) rfl
    refine Keeps.trans ?_ (Chip.raise_keeps ..) rfl
    exact h12

theorem Chip.pairsEnd_keeps (c) : Keeps 128 c (Chip.pairsEnd c) := by
  unfold Chip.pairsEnd
  refine Keeps.trans ?_ (Keeps.each (m := 128) _ ?_ _ _) rfl
  · exact Keeps.refl
  · intro z1 z2
    refine Keeps.trans ?_ (Chip.workerDone_keeps ..) rfl
    exact Keeps.refl

theorem Chip.lkpPeriod_keeps (c) : Keeps 33554628 c (Chip.lkpPeriod c) := by
  unfold Chip.lkpPeriod
  extract_lets z1 z2 z3 z4 z5 z6 z7 z8 z9 z10 z11
  have h12 : Keeps 33554628 c z1 := by
    refine Keeps.trans ?_ (Chip.pairsEnd_keeps ..) rfl
    exact Keeps.refl
  clear_value z1
  have h13 : Keeps 33554628 c z2 := by
    refine Keeps.trans ?_ (Keeps.each (m := 33554628) _ ?_ _ _) rfl
    · exact h12
    · intro z28 z29
      refine Keeps.trans ?_ (Chip.charge_keeps ..) rfl
      exact Keeps.refl
  clear_value z2
  have h14 : Keeps 33554628 c z4 := by
    refine Keeps.upd_lkp ?_ rfl _
    exact h13
  clear_value z4
  have h15 : Keeps 33554628 c z6 := by
    refine Keeps.trans ?_ (Keeps.each (m := 33554628) _ ?_ _ _) rfl
    · exact h14
    · intro z26 z27
      refine Keeps.trans ?_ (Chip.setReg_keeps ..) rfl
      refine Keeps.trans ?_ (Chip.setReg_keeps ..) rfl
      exact Keeps.refl
  clear_value z6
  have h16 : Keeps 33554628 c z7 := by
    refine Keeps.trans ?_ (Keeps.each (m := 33554628) _ ?_ _ _) rfl
    · exact h15
    · intro z24 z25
      refine Keeps.trans ?_ (Chip.setFld_keeps ..) rfl
      exact Keeps.refl
  clear_value z7
  have h17 : Keeps 33554628 c z10 := by
    refine Keeps.upd_lkp ?_ rfl _
    exact h16
  clear_value z10
  have h18 : Keeps 33554628 c z11 := by
    refine Keeps.trans ?_ (Keeps.each (m := 33554628) _ ?_ _ _) rfl
    · exact h17
    · intro z22 z23
      refine Keeps.trans ?_ (Chip.setReg_keeps ..) rfl
      exact Keeps.refl
  clear_value z11
  clear_value z8
  split
  · rename_i z19
    exact h18
  · rename_i z20 z21
    refine Keeps.trans ?_ (Chip.headGrant_keeps ..) rfl
    exact h18

theorem Chip.budgetHit_keeps (c) (a1) : Keeps 132 c (Chip.budgetHit c a1) := by
  unfold Chip.budgetHit
  extract_lets z1 z2
  have h3 : Keeps 132 c z2 := by
    refine Keeps.upd_lkp ?_ rfl _
    exact Keeps.refl
  clear_value z2
  refine Keeps.ite ?_ ?_
  · refine Keeps.trans ?_ (Chip.raise_keeps ..) rfl
    refine Keeps.trans ?_ (Chip.count_keeps ..) rfl
    exact h3
  · exact Keeps.refl

theorem Chip.setAuxW_keeps (c) (a1) (a2) : Keeps 262144 c (Chip.setAuxW c a1 a2) := by
  unfold Chip.setAuxW
  extract_lets z1
  refine Keeps.upd_tow ?_ rfl _
  exact Keeps.refl

theorem Chip.setRun_keeps (c) (a1) (a2) : Keeps 65536 c (Chip.setRun c a1 a2) := by
  unfold Chip.setRun
  extract_lets z1
  refine Keeps.upd_slu ?_ rfl _
  exact Keeps.refl

theorem Chip.dropRun_keeps (c) (a1) : Keeps 65536 c (Chip.dropRun c a1) := by
  unfold Chip.dropRun
  extract_lets z1
  refine Keeps.upd_slu ?_ rfl _
  exact Keeps.refl

theorem Chip.chainTrigger_keeps (c) (a1) (a2) (a3) : Keeps 65668 c (Chip.chainTrigger c a1 a2 a3).1 := by
  unfold Chip.chainTrigger
  refine Keeps.ite1 ?_ ?_
  · dsimp only
    refine Keeps.trans ?_ (Chip.raise_keeps ..) rfl
    refine Keeps.trans ?_ (Chip.count_keeps ..) rfl
    exact Keeps.refl
  · extract_lets z1 z2 z3
    have h4 : Keeps 65668 c z3.1 := by
      refine Keeps.trans ?_ (Chip.submit_keeps ..) rfl
      exact Keeps.refl
    clear_value z3
    refine Keeps.ite1 ?_ ?_
    · exact h4
    · dsimp only
      refine Keeps.trans ?_ (Chip.setRun_keeps ..) rfl
      exact h4

theorem Chip.latchRetry_keeps (c) (a1) : Keeps 65668 c (Chip.latchRetry c a1) := by
  unfold Chip.latchRetry
  split
  · rename_i z1 z2 z3
    refine Keeps.ite ?_ ?_
    · extract_lets z4
      have h5 : Keeps 65668 c z4.1 := by
        refine Keeps.trans ?_ (Chip.submit_keeps ..) rfl
        exact Keeps.refl
      clear_value z4
      refine Keeps.trans ?_ (Chip.setRun_keeps ..) rfl
      exact h5
    · exact Keeps.refl
  · rename_i z6 z7
    exact Keeps.refl

theorem Chip.setCapUnit_keeps (c) (a1) (a2) : Keeps 65536 c (Chip.setCapUnit c a1 a2) := by
  unfold Chip.setCapUnit
  extract_lets z1
  refine Keeps.upd_slu ?_ rfl _
  exact Keeps.refl

theorem Chip.capUnmark_keeps (c) (a1) (a2) (a3) (a4) : Keeps 65536 c (Chip.capUnmark c a1 a2 a3 a4) := by
  unfold Chip.capUnmark
  extract_lets z1
  refine Keeps.trans ?_ (Chip.setCapUnit_keeps ..) rfl
  exact Keeps.refl

theorem Chip.setCoreBytes_keeps (c) (a1) (a2) (a3) (a4) : Keeps 67584 c (Chip.setCoreBytes c a1 a2 a3 a4) := by
  unfold Chip.setCoreBytes
  extract_lets z1 z2
  have h3 : Keeps 67584 c z2 := by
    refine Keeps.upd_mem ?_ rfl _ (Mems.wf_slum _ _ (memWrite_wf _ _ _ _))
    exact Keeps.refl
  clear_value z2
  refine Keeps.trans ?_ (Chip.capUnmark_keeps ..) rfl
  exact h3

theorem Chip.setCoreHalf_keeps (c) (a1) (a2) (a3) (a4) : Keeps 67584 c (Chip.setCoreHalf c a1 a2 a3 a4) := by
  unfold Chip.setCoreHalf
  refine Keeps.trans ?_ (Chip.setCoreBytes_keeps ..) rfl
  exact Keeps.refl

theorem Chip.capBeyond_keeps (c) (a1) (a2) : Keeps 65540 c (Chip.capBeyond c a1 a2) := by
  unfold Chip.capBeyond
  split
  · rename_i z1 z2
    exact Keeps.refl
  · rename_i z3 z4 z5
    refine Keeps.ite ?_ ?_
    · refine Keeps.trans ?_ (Chip.raise_keeps ..) rfl
      refine Keeps.trans ?_ (Chip.setRun_keeps ..) rfl
      exact Keeps.refl
    · refine Keeps.trans ?_ (Chip.setRun_keeps ..) rfl
      exact Keeps.refl

theorem Chip.capAge_keeps (c) (a1) : Keeps 65540 c (Chip.capAge c a1) := by
  unfold Chip.capAge
  refine Keeps.trans ?_ (Keeps.each (m := 65540) _ ?_ _ _) rfl
  · exact Keeps.refl
  · intro z1 z2
    refine Keeps.ite ?_ ?_
    · refine Keeps.trans ?_ (Chip.capBeyond_keeps ..) rfl
      exact Keeps.refl
    · exact Keeps.refl

theorem Chip.capTriggers_keeps (c) (a1) (a2) : Keeps 65668 c (Chip.capTriggers c a1 a2) := by
  unfold Chip.capTriggers
  refine Keeps.trans ?_ (Keeps.each (m := 65668) _ ?_ _ _) rfl
  · exact Keeps.refl
  · intro z1 z2
    refine Keeps.ite ?_ ?_
    · extract_lets z3
      have h4 : Keeps 65668 z1 z3.1 := by
        refine Keeps.trans ?_ (Chip.chainTrigger_keeps ..) rfl
        exact Keeps.refl
      clear_value z3
      refine Keeps.ite ?_ ?_
      · refine Keeps.trans ?_ (Chip.capBeyond_keeps ..) rfl
        exact h4
      · exact h4
    · exact Keeps.refl

theorem Chip.capWrite_keeps (c) (a1) (a2) (a3) : Keeps 67716 c (Chip.capWrite c a1 a2 a3) := by
  unfold Chip.capWrite
  extract_lets z1 z2 z3 z4 z5 z6 z7 z8 z9
  have h10 : Keeps 67716 c z4 := by
    refine Keeps.trans ?_ (Chip.setCoreHalf_keeps ..) rfl
    exact Keeps.refl
  clear_value z4
  have h11 : Keeps 67716 c z6 := by
    refine Keeps.ite ?_ ?_
    · refine Keeps.trans ?_ (Chip.count_keeps ..) rfl
      exact h10
    · refine Keeps.ite ?_ ?_
      · refine Keeps.trans ?_ (Chip.count_keeps ..) rfl
        exact h10
      · exact h10
  clear_value z6
  have h12 : Keeps 67716 c z7 := by
    refine Keeps.trans ?_ (Chip.capAge_keeps ..) rfl
    refine Keeps.trans ?_ (Chip.setFld_keeps ..) rfl
    exact h11
  clear_value z7
  refine Keeps.ite ?_ ?_
  · refine Keeps.trans ?_ (Chip.capTriggers_keeps ..) rfl
    refine Keeps.trans ?_ (Chip.setCapUnit_keeps ..) rfl
    exact h12
  · refine Keeps.trans ?_ (Chip.setCapUnit_keeps ..) rfl
    exact h12

theorem Chip.capScaled_keeps (c) (a1) (a2) (a3) : Keeps 67716 c (Chip.capScaled c a1 a2 a3) := by
  unfold Chip.capScaled
  extract_lets z1 z2
  refine Keeps.trans ?_ (Chip.capWrite_keeps ..) rfl
  refine Keeps.ite ?_ ?_
  · exact Keeps.refl
  · refine Keeps.trans ?_ (Chip.raise_keeps ..) rfl
    exact Keeps.refl

theorem Chip.capRelease_keeps (c) : Keeps 67716 c (Chip.capRelease c) := by
  unfold Chip.capRelease
  extract_lets z1 z2
  refine Keeps.trans ?_ (Keeps.each (m := 67716) _ ?_ _ _) rfl
  · exact Keeps.refl
  · intro z3 z4
    extract_lets z5
    refine Keeps.ite ?_ ?_
    · exact Keeps.refl
    · refine Keeps.ite ?_ ?_
      · refine Keeps.trans ?_ (Chip.capScaled_keeps ..) rfl
        exact Keeps.refl
      · refine Keeps.ite ?_ ?_
        · refine Keeps.trans ?_ (Chip.capScaled_keeps ..) rfl
          exact Keeps.refl
        · refine Keeps.ite ?_ ?_
          · refine Keeps.trans ?_ (Chip.capWrite_keeps ..) rfl
            exact Keeps.refl
          · exact Keeps.refl

theorem Chip.capAdc_keeps (c) (a1) (a2) (a3) : Keeps 67716 c (Chip.capAdc c a1 a2 a3) := by
  unfold Chip.capAdc
  refine Keeps.trans ?_ (Keeps.each (m := 67716) _ ?_ _ _) rfl
  · exact Keeps.refl
  · intro z1 z2
    refine Keeps.ite ?_ ?_
    · refine Keeps.ite ?_ ?_
      · refine Keeps.trans ?_ (Chip.capWrite_keeps ..) rfl
        exact Keeps.refl
      · refine Keeps.trans ?_ (Chip.capWrite_keeps ..) rfl
        exact Keeps.refl
    · exact Keeps.refl

theorem Chip.capCommand_keeps (c) (a1) (a2) : Keeps 67716 c (Chip.capCommand c a1 a2) := by
  unfold Chip.capCommand
  refine Keeps.trans ?_ (Keeps.each (m := 67716) _ ?_ _ _) rfl
  · exact Keeps.refl
  · intro z1 z2
    refine Keeps.ite ?_ ?_
    · refine Keeps.trans ?_ (Chip.capWrite_keeps ..) rfl
      exact Keeps.refl
    · exact Keeps.refl

theorem Chip.capCfgWrite_keeps (c) (a1) (a2) : KeepsO 65540 c (Chip.capCfgWrite c a1 a2) := by
  unfold Chip.capCfgWrite
  extract_lets z1 z2 z3 z4 z5 z6
  have h7 : Keeps 65540 c z1 := by
    refine Keeps.trans ?_ (Chip.raise_keeps ..) rfl
    exact Keeps.refl
  clear_value z1
  split
  · rename_i z8 z9 z10 z11 z12
    refine KeepsO.some ?_
    refine Keeps.ite ?_ ?_
    · refine Keeps.trans ?_ (Chip.setCapUnit_keeps ..) rfl
      refine Keeps.trans ?_ (Chip.setFld_keeps ..) rfl
      refine Keeps.trans ?_ (Chip.writeBits_keeps ..) rfl
      exact Keeps.refl
    · exact h7
  · rename_i z13 z14 z15 z16 z17 z18
    refine KeepsO.some ?_
    refine Keeps.ite ?_ ?_
    · refine Keeps.trans ?_ (Chip.setCapUnit_keeps ..) rfl
      refine Keeps.trans ?_ (Chip.setFld_keeps ..) rfl
      refine Keeps.trans ?_ (Chip.writeBits_keeps ..) rfl
      exact Keeps.refl
    · exact h7
  · rename_i z19 z20 z21 z22 z23 z24 z25
    refine KeepsO.some ?_
    refine Keeps.ite ?_ ?_
    · refine Keeps.trans ?_ (Chip.setCapUnit_keeps ..) rfl
      refine Keeps.trans ?_ (Chip.setFld_keeps ..) rfl
      refine Keeps.trans ?_ (Chip.writeBits_keeps ..) rfl
      exact Keeps.refl
    · exact h7
  · rename_i z26 z27 z28 z29 z30 z31
    exact KeepsO.none

theorem Chip.setAdcC_keeps (c) (a1) (a2) : Keeps 131072 c (Chip.setAdcC c a1 a2) := by
  unfold Chip.setAdcC
  refine Keeps.upd_adc ?_ rfl _
  exact Keeps.refl

theorem Chip.cmpRestart_keeps (c) (a1) : Keeps 131072 c (Chip.cmpRestart c a1) := by
  unfold Chip.cmpRestart
  refine Keeps.upd_adc ?_ rfl _
  exact Keeps.refl

theorem Chip.adcBegin_keeps (c) (a1) (a2) (a3) (a4) : Keeps 4 c (Chip.adcBegin c a1 a2 a3 a4).1 := by
  unfold Chip.adcBegin
  extract_lets z1 z2 z3
  refine Keeps.ite1 ?_ ?_
  · refine Keeps.ite1 ?_ ?_
    · dsimp only
      refine Keeps.trans ?_ (Chip.ladDropped_keeps ..) rfl
      exact Keeps.refl
    · exact Keeps.refl
  · exact Keeps.refl

theorem Chip.adcLost_keeps (c) (a1) : Keeps 4 c (Chip.adcLost c a1) := by
  unfold Chip.adcLost
  refine Keeps.trans ?_ (Chip.raise_keeps ..) rfl
  refine Keeps.trans ?_ (Chip.count_keeps ..) rfl
  exact Keeps.refl

theorem Chip.adcTrigger_keeps (c) (a1) (a2) : Keeps 131076 c (Chip.adcTrigger c a1 a2).1 := by
  unfold Chip.adcTrigger
  extract_lets z1 z2
  refine Keeps.ite1 ?_ ?_
  · exact Keeps.refl
  · refine Keeps.ite1 ?_ ?_
    · split
      · rename_i z3 z4 z5
        dsimp only
        refine Keeps.trans ?_ (Chip.adcLost_keeps ..) rfl
        exact Keeps.refl
      · rename_i z6 z7
        dsimp only
        refine Keeps.trans ?_ (Chip.setAdcC_keeps ..) rfl
        exact Keeps.refl
    · split
      · rename_i z8 z9 z10 z11 z12
        dsimp only
        refine Keeps.trans ?_ (Chip.adcLost_keeps ..) rfl
        exact Keeps.refl
      · rename_i z13 z14 z15 z16 z17
        dsimp only
        refine Keeps.trans ?_ (Chip.setAdcC_keeps ..) rfl
        exact Keeps.refl
      · rename_i z18 z19 z20 z21 z22 z23 z24
        dsimp only
        refine Keeps.trans ?_ (Chip.setAdcC_keeps ..) rfl
        exact Keeps.refl
      · rename_i z25 z26 z27 z28 z29 z30 z31
        dsimp only
        refine Keeps.trans ?_ (Chip.adcLost_keeps ..) rfl
        exact Keeps.refl

theorem Chip.adcWeir_keeps (c) : Keeps 131076 c (Chip.adcWeir c) := by
  unfold Chip.adcWeir
  refine Keeps.trans ?_ (Keeps.each (m := 131076) _ ?_ _ _) rfl
  · exact Keeps.refl
  · intro z1 z2
    extract_lets z3
    have h4 : Keeps 131076 z1 z3 := by
      refine Keeps.ite ?_ ?_
      · refine Keeps.trans ?_ (Chip.adcTrigger_keeps ..) rfl
        exact Keeps.refl
      · exact Keeps.refl
    clear_value z3
    refine Keeps.ite ?_ ?_
    · refine Keeps.trans ?_ (Chip.adcTrigger_keeps ..) rfl
      exact h4
    · exact h4

theorem Chip.adcMark_keeps (c) (a1) : Keeps 131076 c (Chip.adcMark c a1).1 := by
  unfold Chip.adcMark
  refine Keeps.trans ?_ (Keeps.foldl1 (m := 131076) _ ?_ _ _) rfl
  · exact Keeps.refl
  · intro z1 z2
    extract_lets z3
    have h4 : Keeps 131076 z1.fst z3.1 := by
      refine Keeps.trans ?_ (Chip.adcTrigger_keeps ..) rfl
      exact Keeps.refl
    clear_value z3
    refine Keeps.ite1 ?_ ?_
    · exact h4
    · exact Keeps.refl

theorem Chip.adcRunStart_keeps (c) (a1) (a2) : Keeps 131076 c (Chip.adcRunStart c a1 a2) := by
  unfold Chip.adcRunStart
  extract_lets z1
  split
  · rename_i z2 z3
    exact Keeps.refl
  · rename_i z4 z5 z6
    extract_lets z7 z8
    have h9 : Keeps 131076 c z7.1 := by
      refine Keeps.trans ?_ (Chip.adcBegin_keeps ..) rfl
      exact Keeps.refl
    clear_value z7
    refine Keeps.ite ?_ ?_
    · refine Keeps.trans ?_ (Chip.setAdcC_keeps ..) rfl
      exact h9
    · exact Keeps.refl

theorem Chip.adcDeliver_keeps (c) (a1) (a2) (a3) (a4) (a5) (a6) : Keeps 33622148 c (Chip.adcDeliver c a1 a2 a3 a4 a5 a6) := by
  unfold Chip.adcDeliver
  extract_lets z1 z2 z3 z4 z5 z6 z7
  have h8 : Keeps 33622148 c z5 := by
    refine Keeps.trans ?_ (Chip.setReg_keeps ..) rfl
    exact Keeps.refl
  clear_value z5
  have h9 : Keeps 33622148 c z6 := by
    refine Keeps.ite ?_ ?_
    · exact h8
    · refine Keeps.trans ?_ (Chip.count_keeps ..) rfl
      exact h8
  clear_value z6
  have h10 : Keeps 33622148 c z7 := by
    refine Keeps.trans ?_ (Chip.capAdc_keeps ..) rfl
    exact h9
  clear_value z7
  refine Keeps.ite ?_ ?_
  · refine Keeps.trans ?_ (Chip.ladUnits_keeps ..) rfl
    exact h10
  · exact h10

theorem Chip.adcRunEnd_keeps (c) (a1) (a2) (a3) (a4) : Keeps 131076 c (Chip.adcRunEnd c a1 a2 a3 a4) := by
  unfold Chip.adcRunEnd
  extract_lets z1 z2 z3 z4 z5 z6 z7 z8 z9 z10 z11 z12
  have h13 : Keeps 131076 c z2 := by
    refine Keeps.trans ?_ (Chip.setReg_keeps ..) rfl
    refine Keeps.trans ?_ (Chip.setReg_keeps ..) rfl
    exact Keeps.refl
  clear_value z2
  have h14 : Keeps 131076 c z3 := by
    refine Keeps.trans ?_ (Chip.raise_keeps ..) rfl
    exact h13
  clear_value z3
  have h15 : Keeps 131076 c z5 := by
    refine Keeps.trans ?_ (Chip.setAdcC_keeps ..) rfl
    exact h14
  clear_value z5
  have h16 : Keeps 131076 c z7 := by
    refine Keeps.trans ?_ (Chip.setReg_keeps ..) rfl
    refine Keeps.trans ?_ (Chip.setReg_keeps ..) rfl
    exact Keeps.refl
  clear_value z7
  have h17 : Keeps 131076 c z8 := by
    refine Keeps.trans ?_ (Chip.raise_keeps ..) rfl
    exact h16
  clear_value z8
  have h18 : Keeps 131076 c z10 := by
    refine Keeps.trans ?_ (Chip.setAdcC_keeps ..) rfl
    exact h17
  clear_value z10
  have h19 : Keeps 131076 c z11.1 := by
    refine Keeps.trans ?_ (Chip.adcBegin_keeps ..) rfl
    exact h18
  clear_value z11
  refine Keeps.ite ?_ ?_
  · split
    · rename_i z20 z21 z22
      refine Keeps.ite ?_ ?_
      · extract_lets z23
        refine Keeps.trans ?_ (Chip.setAdcC_keeps ..) rfl
        exact h15
      · extract_lets z24 z25
        have h26 : Keeps 131076 c z24.1 := by
          refine Keeps.trans ?_ (Chip.adcBegin_keeps ..) rfl
          exact h15
        clear_value z24
        refine Keeps.trans ?_ (Chip.setAdcC_keeps ..) rfl
        exact h26
    · rename_i z27 z28
      refine Keeps.ite ?_ ?_
      · refine Keeps.trans ?_ (Chip.setAdcC_keeps ..) rfl
        exact h15
      · exact h15
  · refine Keeps.ite ?_ ?_
    · refine Keeps.trans ?_ (Chip.setAdcC_keeps ..) rfl
      exact h19
    · exact h18

theorem Chip.adcConv_keeps (c) (a1) (a2) (a3) (a4) : Keeps 33753220 c (Chip.adcConv c a1 a2 a3 a4) := by
  unfold Chip.adcConv
  extract_lets z1 z2 z3 z4 z5 z6 z7 z8 z9 z10 z11 z12 z13
  have h14 : ∀ v0 v1, Keeps 33753220 v0 (z6 v0 v1) := by
    intro z15 z16
    dsimp only [z6]
    refine Keeps.trans ?_ (Chip.setAdcC_keeps ..) rfl
    exact Keeps.refl
  clear_value z6
  have h17 : Keeps 33753220 c z8 := by
    refine Keeps.trans ?_ (Chip.setAdcC_keeps ..) rfl
    exact Keeps.refl
  clear_value z8
  have h18 : Keeps 33753220 c z12 := by
    refine Keeps.trans ?_ (Chip.adcDeliver_keeps ..) rfl
    exact h17
  clear_value z12
  refine Keeps.ite ?_ ?_
  · refine Keeps.trans ?_ (h14 ..) rfl
    exact h17
  · refine Keeps.ite ?_ ?_
    · refine Keeps.trans ?_ (h14 ..) rfl
      exact h18
    · refine Keeps.ite ?_ ?_
      · refine Keeps.trans ?_ (h14 ..) rfl
        exact h18
      · refine Keeps.trans ?_ (Chip.adcRunEnd_keeps ..) rfl
        exact h18

theorem Chip.adcConversionEnd_keeps (c) (a1) (a2) : Keeps 33753220 c (Chip.adcConversionEnd c a1 a2) := by
  unfold Chip.adcConversionEnd
  extract_lets z1
  split
  · rename_i z2 z3 z4 z5
    refine Keeps.ite ?_ ?_
    · refine Keeps.trans ?_ (Chip.adcConv_keeps ..) rfl
      exact Keeps.refl
    · exact Keeps.refl
  · rename_i z6 z7 z8 z9 z10
    refine Keeps.ite ?_ ?_
    · refine Keeps.trans ?_ (Chip.adcConv_keeps ..) rfl
      exact Keeps.refl
    · exact Keeps.refl
  · rename_i z11 z12 z13 z14
    exact Keeps.refl

theorem Chip.comparator_keeps (c) (a1) (a2) : Keeps 131076 c (Chip.comparator c a1 a2) := by
  unfold Chip.comparator
  extract_lets z1 z2 z3 z4
  have h5 : Keeps 131076 c z2 := by
    refine Keeps.trans ?_ (Chip.cmpRestart_keeps ..) rfl
    refine Keeps.trans ?_ (Chip.setFlag_keeps ..) rfl
    exact Keeps.refl
  clear_value z2
  have h6 : Keeps 131076 c z4 := by
    refine Keeps.trans ?_ (Chip.raise_keeps ..) rfl
    refine Keeps.trans ?_ (Chip.raiseBit_keeps ..) rfl
    exact h5
  clear_value z4
  refine Keeps.ite ?_ ?_
  · exact Keeps.refl
  · refine Keeps.ite ?_ ?_
    · refine Keeps.trans ?_ (Keeps.each (m := 131076) _ ?_ _ _) rfl
      · exact h6
      · intro z7 z8
        extract_lets z9
        have h10 : Keeps 131076 z7 z9 := by
          refine Keeps.ite ?_ ?_
          · refine Keeps.trans ?_ (Chip.adcTrigger_keeps ..) rfl
            exact Keeps.refl
          · exact Keeps.refl
        clear_value z9
        refine Keeps.ite ?_ ?_
        · refine Keeps.trans ?_ (Chip.adcTrigger_keeps ..) rfl
          exact h10
        · exact h10
    · exact h5

theorem Chip.cmpWrite_keeps (c) (a1) (a2) : Keeps 131076 c (Chip.cmpWrite c a1 a2) := by
  unfold Chip.cmpWrite
  refine Keeps.trans ?_ (Chip.cmpRestart_keeps ..) rfl
  refine Keeps.trans ?_ (Chip.writeBits_keeps ..) rfl
  exact Keeps.refl

theorem Chip.adcWrite_keeps (c) (a1) (a2) : KeepsO 131076 c (Chip.adcWrite c a1 a2) := by
  unfold Chip.adcWrite
  extract_lets z1 z2 z3
  have h4 : Keeps 131076 c z1 := by
    refine Keeps.trans ?_ (Chip.raise_keeps ..) rfl
    exact Keeps.refl
  clear_value z1
  have h5 : Keeps 131076 c z3 := by
    refine Keeps.trans ?_ (Chip.writeBits_keeps ..) rfl
    exact Keeps.refl
  clear_value z3
  split
  · rename_i z6 z7 z8 z9 z10 z11 z12
    extract_lets z13
    refine KeepsO.ite ?_ ?_
    · refine KeepsO.some ?_
      refine Keeps.ite ?_ ?_
      · refine Keeps.trans ?_ (Chip.setAdcC_keeps ..) rfl
        exact h5
      · exact h5
    · refine KeepsO.some ?_
      exact h4
  · rename_i z14 z15 z16 z17 z18 z19 z20 z21
    extract_lets z22
    have h23 : Keeps 131076 c z22 := by
      refine Keeps.ite ?_ ?_
      · refine Keeps.trans ?_ (Chip.adcTrigger_keeps ..) rfl
        exact Keeps.refl
      · exact Keeps.refl
    clear_value z22
    refine KeepsO.some ?_
    refine Keeps.ite ?_ ?_
    · refine Keeps.trans ?_ (Chip.adcTrigger_keeps ..) rfl
      exact h23
    · exact h23
  · rename_i z24 z25 z26 z27 z28 z29 z30 z31 z32
    refine KeepsO.some ?_
    refine Keeps.trans ?_ (Chip.cmpWrite_keeps ..) rfl
    exact Keeps.refl
  · rename_i z33 z34 z35 z36 z37 z38 z39 z40 z41 z42
    refine KeepsO.some ?_
    refine Keeps.ite ?_ ?_
    · refine Keeps.trans ?_ (Chip.writeBits_keeps ..) rfl
      exact Keeps.refl
    · exact h4
  · rename_i z43 z44 z45 z46 z47 z48 z49 z50 z51 z52 z53
    refine KeepsO.some ?_
    refine Keeps.ite ?_ ?_
    · refine Keeps.trans ?_ (Chip.writeBits_keeps ..) rfl
      exact Keeps.refl
    · exact h4
  · rename_i z54 z55 z56 z57 z58 z59 z60 z61 z62 z63
    exact KeepsO.none

theorem Chip.stat_keeps (c) (a1) : Keeps 16 c (Chip.stat c a1) := by
  unfold Chip.stat
  extract_lets z1 z2
  refine Keeps.upd_hst ?_ rfl _ rfl rfl rfl rfl
  exact Keeps.refl

theorem Chip.cacheReply_keeps (c) (a1) (a2) : Keeps 16 c (Chip.cacheReply c a1 a2) := by
  unfold Chip.cacheReply
  extract_lets z1 z2
  refine Keeps.upd_hst ?_ rfl _ rfl rfl rfl rfl
  exact Keeps.refl

theorem Chip.deliver_keeps (c) (a1) (a2) (a3) : Keeps 24 c (Chip.deliver c a1 a2 a3) := by
  unfold Chip.deliver
  split
  · rename_i z1 z2
    refine Keeps.ite ?_ ?_
    · exact Keeps.refl
    · refine Keeps.ite ?_ ?_
      · refine Keeps.trans ?_ (Chip.emit_keeps ..) rfl
        exact Keeps.refl
      · extract_lets z3 z4
        refine Keeps.upd_hst ?_ rfl _ rfl rfl rfl rfl
        exact Keeps.refl
  · rename_i z5 z6
    extract_lets z7 z8 z9 z10
    have h11 : Keeps 24 c z7 := by
      refine Keeps.trans ?_ (Keeps.onlyIf (m := 24) _ ?_ _ _) rfl
      · exact Keeps.refl
      · intro z13
        refine Keeps.trans ?_ (Chip.emit_keeps ..) rfl
        exact Keeps.refl
    clear_value z7
    have h12 : Keeps 24 c z9 := by
      refine Keeps.upd_hst ?_ rfl _ rfl rfl rfl rfl
      exact h11
    clear_value z9
    refine Keeps.ite ?_ ?_
    · exact h12
    · refine Keeps.upd_hst ?_ rfl _ rfl rfl rfl rfl
      exact h12
  · rename_i z14 z15 z16
    extract_lets z17
    have h18 : Keeps 24 c z17 := by
      refine Keeps.trans ?_ (Chip.emit_keeps ..) rfl
      exact Keeps.refl
    clear_value z17
    refine Keeps.ite ?_ ?_
    · exact h18
    · refine Keeps.trans ?_ (Chip.cacheReply_keeps ..) rfl
      exact h18

theorem Chip.reply_keeps (c) (a1) (a2) (a3) (a4) : Keeps 24 c (Chip.reply c a1 a2 a3 a4) := by
  unfold Chip.reply
  refine Keeps.trans ?_ (Chip.deliver_keeps ..) rfl
  refine Keeps.trans ?_ (Chip.stat_keeps ..) rfl
  exact Keeps.refl

theorem Chip.runCommand_keeps {m : Nat} (c : Chip) (o : OpInfo) (k : Intake) (body : Chip → Intake → Chip × Answer)
    (h : ∀ c k, Keeps m c (body c k).1) (hm : 2097176 ||| m = m) : Keeps m c (c.runCommand o k body) := by
  have reply : ∀ (b : Chip) k st d pl, Keeps m c b → Keeps m c (b.reply k st d pl) := fun b k st d pl hb =>
    hb.trans (Chip.reply_keeps b k st d pl) (by rw [← hm, ← Nat.or_assoc]; rfl)
  have long : ∀ (b : Chip) l, Keeps m c b → Keeps m c { b with hst := { b.hst with longs := b.hst.longs ++ [l] } } := fun b l hb =>
    Keeps.upd_hst hb (by rw [← hm, Nat.testBit_or]; rfl) _ rfl rfl rfl rfl
  unfold Chip.runCommand
  refine Keeps.ite (reply _ _ _ _ _ Keeps.refl) ?_
  refine Keeps.ite (reply _ _ _ _ _ Keeps.refl) ?_
  refine Keeps.ite (reply _ _ _ _ _ Keeps.refl) ?_
  have hr := h c k
  simp only
  generalize body c k = r at hr
  split
  · exact hr
  · refine Keeps.ite (reply _ _ _ _ _ (long _ _ hr)) (reply _ _ _ _ _ Keeps.refl)
  · refine Keeps.ite (reply _ _ _ _ _ Keeps.refl) ?_
    refine Keeps.ite ?_ (reply _ _ _ _ _ hr)
    refine Keeps.ite ?_ (reply _ _ _ _ _ Keeps.refl)
    exact reply _ _ _ _ _ (long { c with aqu := { c.aqu with changes := c.aqu.changes ++ [k] } } _
      (Keeps.upd_aqu Keeps.refl (by rw [← hm, Nat.testBit_or]; rfl) _))

theorem Chip.finish_keeps (c) (a1) (a2) (a3) (a4) : Keeps 33554460 c (Chip.finish c a1 a2 a3 a4) := by
  unfold Chip.finish
  extract_lets z1 z2 z3 z4
  have h5 : Keeps 33554460 c z3 := by
    refine Keeps.upd_hst ?_ rfl _ rfl rfl rfl rfl
    exact Keeps.refl
  clear_value z3
  have h6 : Keeps 33554460 c z4 := by
    refine Keeps.trans ?_ (Chip.deliver_keeps ..) rfl
    refine Keeps.trans ?_ (Chip.stat_keeps ..) rfl
    exact h5
  clear_value z4
  refine Keeps.ite ?_ ?_
  · exact h6
  · refine Keeps.trans ?_ (Chip.hostEvent_keeps ..) rfl
    exact h6

theorem Chip.takeIntake_keeps (c) (a1) (a2) (a3) (a4) (a5) : Keeps 16 c (Chip.takeIntake c a1 a2 a3 a4 a5).1 := by
  unfold Chip.takeIntake
  split
  · rename_i z1 z2 z3
    refine Keeps.upd_hst ?_ rfl _ rfl rfl rfl rfl
    exact Keeps.refl
  · rename_i z4 z5
    dsimp only
    refine Keeps.trans ?_ (Chip.stat_keeps ..) rfl
    exact Keeps.refl

theorem Chip.failedFetch_keeps (c) (a1) : Keeps 16 c (Chip.failedFetch c a1) := by
  unfold Chip.failedFetch
  refine Keeps.ite ?_ ?_
  · exact Keeps.refl
  · refine Keeps.upd_hst ?_ rfl _ rfl rfl rfl rfl
    exact Keeps.refl

theorem Chip.answerWaiting_keeps (c) (a1) : Keeps 24 c (Chip.answerWaiting c a1) := by
  unfold Chip.answerWaiting
  split
  · rename_i z1 z2
    exact Keeps.refl
  · rename_i z3 z4 z5
    refine Keeps.trans ?_ (Chip.reply_keeps ..) rfl
    exact Keeps.refl
  · rename_i z6 z7
    refine Keeps.trans ?_ (Chip.failedFetch_keeps ..) rfl
    exact Keeps.refl

theorem Chip.intakeFlush_keeps (c : Chip) (i : Iface) (n : Nat) : Keeps 24 c (c.intakeFlush i n) := by
  induction n generalizing c with
  | zero => unfold Chip.intakeFlush; exact Keeps.refl
  | succ n ih =>
    unfold Chip.intakeFlush
    split
    · exact Keeps.refl
    · refine Keeps.ite Keeps.refl ?_
      refine Keeps.trans ?_ (ih ..) rfl
      refine Keeps.trans ?_ (Chip.answerWaiting_keeps ..) rfl
      exact Keeps.upd_hst Keeps.refl rfl _ rfl rfl rfl rfl

theorem Chip.command_keeps {m : Nat} (c : Chip) (t op : Nat) (ifc : Iface) (tag target : Word) (pl : List Word)
    (rom : Option (Chip → Intake → Chip × Answer)) (body : Chip → Intake → Chip × Answer)
    (h : ∀ c k, Keeps m c (body c k).1) (hr : ∀ b, rom = some b → ∀ c k, Keeps m c (b c k).1) (hm : 2097177 ||| m = m) :
    Keeps m c (c.command t op ifc tag target pl rom body) := by
  have h1 : Keeps m c (c.at t) := Keeps.trans Keeps.refl (Chip.at_keeps ..) (by rw [← hm, ← Nat.or_assoc]; rfl)
  have h2 : Keeps m c ((c.at t).takeIntake op ifc tag target pl).1 :=
    h1.trans (Chip.takeIntake_keeps ..) (by rw [← hm, ← Nat.or_assoc]; rfl)
  have hk : 2097176 ||| m = m := by rw [← hm, ← Nat.or_assoc]; rfl
  have reply : ∀ (b : Chip) k st d pl, Keeps m c b → Keeps m c (b.reply k st d pl) := fun b k st d pl hb =>
    hb.trans (Chip.reply_keeps b k st d pl) (by rw [← hm, ← Nat.or_assoc]; rfl)
  unfold Chip.command
  simp only
  split
  · refine Keeps.ite ?_ h1
    have h3 := h2.trans (Chip.runCommand_keeps _ ‹OpInfo› ((c.at t).takeIntake op ifc tag target pl).2 body h hk) (Nat.or_self m)
    exact h3.trans (Chip.intakeFlush_keeps ..) (by rw [← hm, ← Nat.or_assoc]; rfl)
  · refine Keeps.ite ?_ h1
    split
    · next b => exact h2.trans (Chip.runCommand_keeps _ _ _ _ (hr b rfl) hk) (Nat.or_self m)
    · exact reply _ _ _ _ _ h2
  · refine Keeps.ite ?_ h1
    split
    · next b => exact h2.trans (Chip.runCommand_keeps _ _ _ _ (hr b rfl) hk) (Nat.or_self m)
    · exact reply _ _ _ _ _ h2
  · exact h1

theorem Chip.waitAnswer_keeps (c) (a1) : Keeps 24 c (Chip.waitAnswer c a1) := by
  unfold Chip.waitAnswer
  refine Keeps.ite ?_ ?_
  · refine Keeps.upd_hst ?_ rfl _ rfl rfl rfl rfl
    exact Keeps.refl
  · refine Keeps.trans ?_ (Chip.answerWaiting_keeps ..) rfl
    exact Keeps.refl

theorem Chip.receive_keeps (c) (a1) (a2) (a3) (a4) : Keeps 24 c (Chip.receive c a1 a2 a3 a4) := by
  unfold Chip.receive
  extract_lets z1 z2 z3 z4
  have h5 : Keeps 24 c z3 := by
    refine Keeps.trans ?_ (Chip.stat_keeps ..) rfl
    exact Keeps.refl
  clear_value z3
  refine Keeps.ite ?_ ?_
  · refine Keeps.upd_hst ?_ rfl _ rfl rfl rfl rfl
    exact h5
  · refine Keeps.trans ?_ (Chip.waitAnswer_keeps ..) rfl
    exact h5

theorem Chip.servo_keeps (c) (a1) (a2) : Keeps 516 c (Chip.servo c a1 a2).1 := by
  unfold Chip.servo
  extract_lets z1 z2 z3 z4 z5 z6 z7 z8 z9 z10 z11
  have h12 : Keeps 516 c z3 := by
    refine Keeps.trans ?_ (Chip.count_keeps ..) rfl
    exact Keeps.refl
  clear_value z3
  have h13 : Keeps 516 c z9 := by
    refine Keeps.ite ?_ ?_
    · refine Keeps.trans ?_ (Chip.raise_keeps ..) rfl
      exact Keeps.refl
    · exact Keeps.refl
  clear_value z9
  have h14 : Keeps 516 c z10 := by
    refine Keeps.trans ?_ (Chip.setFldI_keeps ..) rfl
    exact h13
  clear_value z10
  refine Keeps.ite1 ?_ ?_
  · refine Keeps.trans ?_ (Chip.setDom_keeps ..) rfl
    exact h12
  · refine Keeps.trans ?_ (Chip.setDom_keeps ..) rfl
    exact h14

theorem Chip.syncState_keeps (c) (a1) (a2) (a3) (a4) : Keeps 516 c (Chip.syncState c a1 a2 a3 a4) := by
  unfold Chip.syncState
  extract_lets z1 z2 z3
  refine Keeps.ite ?_ ?_
  · refine Keeps.ite ?_ ?_
    · refine Keeps.trans ?_ (Chip.setDomState_keeps ..) rfl
      exact Keeps.refl
    · refine Keeps.trans ?_ (Chip.setDom_keeps ..) rfl
      exact Keeps.refl
  · refine Keeps.ite ?_ ?_
    · refine Keeps.trans ?_ (Chip.setDomState_keeps ..) rfl
      exact Keeps.refl
    · exact Keeps.refl

theorem Chip.ptpSync_keeps (c) (a1) (a2) : Keeps 37749572 c (Chip.ptpSync c a1 a2) := by
  unfold Chip.ptpSync
  refine Keeps.ite ?_ ?_
  · exact Keeps.refl
  · refine Keeps.ite ?_ ?_
    · refine Keeps.trans ?_ (Chip.count_keeps ..) rfl
      exact Keeps.refl
    · extract_lets z1 z2 z3 z4 z5 z6 z7 z8 z9 z10 z11 z12 z13
      have h14 : Keeps 37749572 c z6 := by
        refine Keeps.trans ?_ (Chip.setDom_keeps ..) rfl
        exact Keeps.refl
      clear_value z6
      have h15 : Keeps 37749572 c z7 := by
        refine Keeps.trans ?_ (Chip.setReg_keeps ..) rfl
        refine Keeps.trans ?_ (Chip.setReg_keeps ..) rfl
        refine Keeps.trans ?_ (Chip.count_keeps ..) rfl
        exact h14
      clear_value z7
      have h16 : Keeps 37749572 c z8 := by
        refine Keeps.trans ?_ (Chip.setFld_keeps ..) rfl
        exact h15
      clear_value z8
      have h17 : Keeps 37749572 c z9 := by
        refine Keeps.ite ?_ ?_
        · refine Keeps.trans ?_ (Chip.setDomState_keeps ..) rfl
          exact h16
        · exact h16
      clear_value z9
      have h18 : Keeps 37749572 c z11 := by
        refine Keeps.trans ?_ (Chip.setFldI_keeps ..) rfl
        exact h17
      clear_value z11
      have h19 : Keeps 37749572 c z12.1 := by
        refine Keeps.trans ?_ (Chip.servo_keeps ..) rfl
        exact h18
      clear_value z12
      have h20 : Keeps 37749572 c z13 := by
        refine Keeps.trans ?_ (Chip.syncState_keeps ..) rfl
        exact h19
      clear_value z13
      refine Keeps.trans ?_ (Chip.tb3Evaluate_keeps ..) rfl
      exact h20

theorem Chip.setPeer_keeps (c) (a1) (a2) : Keeps 512 c (Chip.setPeer c a1 a2) := by
  unfold Chip.setPeer
  refine Keeps.upd_tim ?_ rfl _
  exact Keeps.refl

theorem Chip.pathRefresh_keeps (c) : Keeps 4 c (Chip.pathRefresh c) := by
  unfold Chip.pathRefresh
  refine Keeps.trans ?_ (Keeps.each (m := 4) _ ?_ _ _) rfl
  · exact Keeps.refl
  · intro z1 z2
    refine Keeps.trans ?_ (Chip.setFldI_keeps ..) rfl
    exact Keeps.refl

theorem Chip.delayResp_keeps (c) (a1) (a2) : Keeps 516 c (Chip.delayResp c a1 a2) := by
  unfold Chip.delayResp
  refine Keeps.ite ?_ ?_
  · exact Keeps.refl
  · extract_lets z1 z2 z3
    have h4 : Keeps 516 c z3 := by
      refine Keeps.ite ?_ ?_
      · refine Keeps.trans ?_ (Chip.setDom_keeps ..) rfl
        exact Keeps.refl
      · refine Keeps.trans ?_ (Chip.setPeer_keeps ..) rfl
        refine Keeps.trans ?_ (Chip.setDom_keeps ..) rfl
        exact Keeps.refl
    clear_value z3
    refine Keeps.trans ?_ (Chip.pathRefresh_keeps ..) rfl
    exact h4

theorem Chip.delayReq_keeps (c) (a1) : Keeps 520 c (Chip.delayReq c a1) := by
  unfold Chip.delayReq
  extract_lets z1 z2
  refine Keeps.ite ?_ ?_
  · refine Keeps.trans ?_ (Chip.emit_keeps ..) rfl
    refine Keeps.trans ?_ (Chip.setDom_keeps ..) rfl
    exact Keeps.refl
  · exact Keeps.refl

theorem Chip.corrSlew_keeps (c) : Keeps 512 c (Chip.corrSlew c) := by
  unfold Chip.corrSlew
  extract_lets z1 z2 z3
  refine Keeps.upd_tim ?_ rfl _
  exact Keeps.refl

theorem Chip.snapBases_keeps (c) : Keeps 4 c (Chip.snapBases c) := by
  unfold Chip.snapBases
  extract_lets z1 z2
  have h3 : Keeps 4 c z2 := by
    refine Keeps.trans ?_ (Keeps.each (m := 4) _ ?_ _ _) rfl
    · exact Keeps.refl
    · intro z4 z5
      refine Keeps.trans ?_ (Chip.setReg_keeps ..) rfl
      exact Keeps.refl
  clear_value z2
  refine Keeps.trans ?_ (Chip.setFld_keeps ..) rfl
  exact h3

theorem Chip.writeUserCfg_keeps (c) (a1) (a2) : Keeps 516 c (Chip.writeUserCfg c a1 a2) := by
  unfold Chip.writeUserCfg
  refine Keeps.ite ?_ ?_
  · refine Keeps.trans ?_ (Chip.raise_keeps ..) rfl
    exact Keeps.refl
  · extract_lets z1 z2
    refine Keeps.trans ?_ (Chip.raise_keeps ..) rfl
    refine Keeps.trans ?_ (Chip.setUser_keeps ..) rfl
    refine Keeps.trans ?_ (Chip.setReg_keeps ..) rfl
    exact Keeps.refl

theorem Chip.writeUserOfs_keeps (c) (a1) (a2) : Keeps 516 c (Chip.writeUserOfs c a1 a2) := by
  unfold Chip.writeUserOfs
  extract_lets z1 z2 z3 z4
  have h5 : Keeps 516 c z1 := by
    refine Keeps.trans ?_ (Chip.setReg_keeps ..) rfl
    exact Keeps.refl
  clear_value z1
  have h6 : Keeps 516 c z4 := by
    refine Keeps.trans ?_ (Chip.setUser_keeps ..) rfl
    exact h5
  clear_value z4
  refine Keeps.trans ?_ (Chip.raise_keeps ..) rfl
  exact h6

theorem Chip.readBase_keeps (c) (a1) (a2) : Keeps 16 c (Chip.readBase c a1 a2).1 := by
  unfold Chip.readBase
  extract_lets z1 z2 z3
  have h4 : Keeps 16 c z3 := by
    refine Keeps.ite ?_ ?_
    · refine Keeps.trans ?_ (Chip.setSnap_keeps ..) rfl
      exact Keeps.refl
    · refine Keeps.trans ?_ (Chip.setSnap_keeps ..) rfl
      exact Keeps.refl
  clear_value z3
  exact h4

theorem Chip.tallyPut_keeps (c) (a1) : Keeps 516 c (Chip.tallyPut c a1) := by
  unfold Chip.tallyPut
  extract_lets z1 z2 z3
  have h4 : Keeps 516 c z2 := by
    refine Keeps.ite ?_ ?_
    · refine Keeps.trans ?_ (Chip.raise_keeps ..) rfl
      refine Keeps.trans ?_ (Chip.count_keeps ..) rfl
      refine Keeps.trans ?_ (Chip.raise_keeps ..) rfl
      exact Keeps.refl
    · refine Keeps.ite ?_ ?_
      · refine Keeps.trans ?_ (Chip.raise_keeps ..) rfl
        exact Keeps.refl
      · exact Keeps.refl
  clear_value z2
  refine Keeps.upd_tim ?_ rfl _
  exact h4

theorem Chip.frameStamp_keeps (c) (a1) (a2) : Keeps 516 c (Chip.frameStamp c a1 a2) := by
  unfold Chip.frameStamp
  extract_lets z1
  split
  · rename_i z2 z3
    exact Keeps.refl
  · rename_i z4 z5 z6
    extract_lets z7
    have h8 : Keeps 516 c z7 := by
      refine Keeps.upd_tim ?_ rfl _
      exact Keeps.refl
    clear_value z7
    refine Keeps.trans ?_ (Chip.tallyPut_keeps ..) rfl
    exact h8

theorem Chip.tallyRead_keeps (c) (a1) : Keeps 528 c (Chip.tallyRead c a1).1 := by
  unfold Chip.tallyRead
  extract_lets z1 z2
  split
  · rename_i z3 z4
    refine Keeps.trans ?_ (Chip.setSnap_keeps ..) rfl
    exact Keeps.refl
  · rename_i z5 z6 z7 z8
    extract_lets z9 z10
    have h11 : Keeps 528 c z9 := by
      refine Keeps.upd_tim ?_ rfl _
      exact Keeps.refl
    clear_value z9
    refine Keeps.trans ?_ (Chip.setSnap_keeps ..) rfl
    exact h11

theorem Chip.setRing_keeps (c) (a1) (a2) : Keeps 16 c (Chip.setRing c a1 a2) := by
  unfold Chip.setRing
  extract_lets z1
  refine Keeps.upd_hst ?_ rfl _ rfl rfl rfl rfl
  exact Keeps.refl

theorem Chip.hstErr_keeps (c) (a1) (a2) : Keeps 4 c (Chip.hstErr c a1 a2) := by
  unfold Chip.hstErr
  refine Keeps.ite ?_ ?_
  · refine Keeps.trans ?_ (Chip.raise_keeps ..) rfl
    exact Keeps.refl
  · refine Keeps.trans ?_ (Chip.raise_keeps ..) rfl
    refine Keeps.trans ?_ (Chip.raise_keeps ..) rfl
    exact Keeps.refl

theorem Chip.doorbell_keeps (c) (a1) : Keeps 4 c (Chip.doorbell c a1) := by
  unfold Chip.doorbell
  extract_lets z1 z2 z3
  refine Keeps.ite ?_ ?_
  · refine Keeps.trans ?_ (Chip.setFld_keeps ..) rfl
    exact Keeps.refl
  · refine Keeps.trans ?_ (Chip.hstErr_keeps ..) rfl
    exact Keeps.refl

theorem Chip.sqFetch_keeps (c) (a1) : Keeps 28 c (Chip.sqFetch c a1) := by
  unfold Chip.sqFetch
  refine Keeps.ite ?_ ?_
  · extract_lets z1 z2 z3 z4 z5
    have h6 : Keeps 28 c z2 := by
      refine Keeps.trans ?_ (Chip.setFld_keeps ..) rfl
      exact Keeps.refl
    clear_value z2
    have h7 : Keeps 28 c z4 := by
      refine Keeps.upd_hst ?_ rfl _ rfl rfl rfl rfl
      exact h6
    clear_value z4
    clear_value z5
    split
    · rename_i z8 z9
      refine Keeps.trans ?_ (Chip.receive_keeps ..) rfl
      exact h7
    · rename_i z10
      refine Keeps.trans ?_ (Chip.waitAnswer_keeps ..) rfl
      refine Keeps.trans ?_ (Chip.stat_keeps ..) rfl
      refine Keeps.trans ?_ (Chip.hstErr_keeps ..) rfl
      exact h7
  · exact Keeps.refl

theorem Chip.completionPost_keeps (c) (a1) : Keeps 33554460 c (Chip.completionPost c a1) := by
  unfold Chip.completionPost
  split
  · rename_i z1 z2
    exact Keeps.refl
  · rename_i z3 z4 z5 z6
    refine Keeps.ite ?_ ?_
    · extract_lets z7 z8 z9 z10 z11 z12 z13 z14 z15 z16 z17
      have h18 : Keeps 33554460 c z9 := by
        refine Keeps.upd_hst ?_ rfl _ rfl rfl rfl rfl
        exact Keeps.refl
      clear_value z9
      have h19 : Keeps 33554460 c z10 := by
        refine Keeps.ite ?_ ?_
        · refine Keeps.ite ?_ ?_
          · exact h18
          · refine Keeps.trans ?_ (Chip.hstErr_keeps ..) rfl
            exact h18
        · refine Keeps.trans ?_ (Chip.emit_keeps ..) rfl
          exact h18
      clear_value z10
      have h20 : Keeps 33554460 c z14 := by
        refine Keeps.trans ?_ (Chip.setRing_keeps ..) rfl
        exact h19
      clear_value z14
      have h21 : Keeps 33554460 c z15 := by
        refine Keeps.trans ?_ (Chip.setFld_keeps ..) rfl
        refine Keeps.trans ?_ (Chip.setFld_keeps ..) rfl
        exact h20
      clear_value z15
      refine Keeps.ite ?_ ?_
      · refine Keeps.trans ?_ (Chip.hostEvent_keeps ..) rfl
        exact h19
      · refine Keeps.ite ?_ ?_
        · exact h21
        · refine Keeps.upd_hst ?_ rfl _ rfl rfl rfl rfl
          refine Keeps.trans ?_ (Chip.raise_keeps ..) rfl
          exact h21
    · exact Keeps.refl

theorem Chip.cqHead_keeps (c) (a1) : Keeps 20 c (Chip.cqHead c a1) := by
  unfold Chip.cqHead
  extract_lets z1 z2 z3 z4 z5
  have h6 : Keeps 20 c z4 := by
    refine Keeps.trans ?_ (Chip.setFld_keeps ..) rfl
    exact Keeps.refl
  clear_value z4
  refine Keeps.upd_hst ?_ rfl _ rfl rfl rfl rfl
  exact h6

theorem Chip.dropReplies_keeps (c) : Keeps 2457872 c (Chip.dropReplies c) := by
  unfold Chip.dropReplies
  extract_lets longs request cancels writes ports
  let h : Hst := { c.hst with pendCpl := [], cqIrq := [], intake := c.hst.intake.map Intake.dropped, longs := longs }
  have h1 : Keeps 2457872 c { c with hst := h } := Keeps.upd_hst Keeps.refl rfl h rfl rfl rfl rfl
  have h2 := Keeps.upd_pnd h1 rfl { c.pnd with request := request } rfl
  have h3 := Keeps.upd_man h2 rfl { c.man with cancels := cancels }
  have h4 := Keeps.upd_slu h3 rfl { c.slu with writes := writes }
  have h5 := Keeps.upd_tow h4 rfl { c.tow with ports := ports }
  exact Keeps.upd_aqu h5 rfl
    { c.aqu with changes := c.aqu.changes.map Intake.dropped, handCmd := c.aqu.handCmd.map Intake.dropped }

theorem Chip.finalEvents_keeps (c) : Keeps 33554436 c (Chip.finalEvents c) := by
  unfold Chip.finalEvents
  refine Keeps.trans ?_ (Keeps.each (m := 33554436) _ ?_ _ _) rfl
  · exact Keeps.refl
  · intro z1 z2
    refine Keeps.trans ?_ (Chip.hostEvent_keeps ..) rfl
    exact Keeps.refl

theorem Chip.ringsClear_keeps (c) : Keeps 36012308 c (Chip.ringsClear c) := by
  unfold Chip.ringsClear
  extract_lets z1 z2 z3 z4
  have h5 : Keeps 36012308 c z1 := by
    refine Keeps.trans ?_ (Chip.finalEvents_keeps ..) rfl
    exact Keeps.refl
  clear_value z1
  have h6 : Keeps 36012308 c z3 := by
    refine Keeps.upd_hst ?_ rfl _ rfl rfl rfl rfl
    exact h5
  clear_value z3
  have h7 : Keeps 36012308 c z4 := by
    refine Keeps.trans ?_ (Chip.setReg_keeps ..) rfl
    refine Keeps.trans ?_ (Chip.setReg_keeps ..) rfl
    refine Keeps.trans ?_ (Chip.setFld_keeps ..) rfl
    exact h6
  clear_value z4
  refine Keeps.trans ?_ (Chip.dropReplies_keeps ..) rfl
  refine Keeps.trans ?_ (Chip.setReg_keeps ..) rfl
  refine Keeps.trans ?_ (Chip.setReg_keeps ..) rfl
  exact h7

theorem Chip.ringEnable_keeps (c) (a1) : Keeps 36012308 c (Chip.ringEnable c a1) := by
  unfold Chip.ringEnable
  refine Keeps.ite ?_ ?_
  · extract_lets z1 z2 z3
    have h4 : Keeps 36012308 c z1 := by
      refine Keeps.trans ?_ (Keeps.onlyIf (m := 36012308) _ ?_ _ _) rfl
      · exact Keeps.refl
      · intro z5
        refine Keeps.trans ?_ (Chip.setReg_keeps ..) rfl
        refine Keeps.trans ?_ (Chip.setReg_keeps ..) rfl
        exact Keeps.refl
    clear_value z1
    refine Keeps.upd_hst ?_ rfl _ rfl rfl rfl rfl
    refine Keeps.trans ?_ (Chip.setFld_keeps ..) rfl
    exact h4
  · refine Keeps.trans ?_ (Chip.ringsClear_keeps ..) rfl
    exact Keeps.refl

theorem Chip.vecRearm_keeps (c) (a1) : Keeps 67108872 c (Chip.vecRearm c a1) := by
  unfold Chip.vecRearm
  extract_lets z1
  refine Keeps.trans ?_ (Keeps.each (m := 67108872) _ ?_ _ _) rfl
  · exact Keeps.refl
  · intro z2 z3
    refine Keeps.ite ?_ ?_
    · refine Keeps.trans ?_ (Chip.sendMsix_keeps ..) rfl
      exact Keeps.refl
    · exact Keeps.refl

theorem Chip.pcieReset_keeps (c) (a1) : Keeps 103121172 c (Chip.pcieReset c a1) := by
  unfold Chip.pcieReset
  extract_lets z1 z2 z3 z4 z5 z6 z7 z8
  have h9 : Keeps 103121172 c z1 := by
    refine Keeps.trans ?_ (Chip.ringsClear_keeps ..) rfl
    exact Keeps.refl
  clear_value z1
  have h10 : Keeps 103121172 c z4 := by
    refine Keeps.upd_regs ?_ rfl _ (fun h => tabClear_wf _ _ _ h)
    exact h9
  clear_value z4
  have h11 : Keeps 103121172 c z5 := by
    refine Keeps.trans ?_ (Chip.setReg_keeps ..) rfl
    exact h10
  clear_value z5
  have h12 : Keeps 103121172 c z6 := by
    refine Keeps.trans ?_ (Chip.setReg_keeps ..) rfl
    refine Keeps.trans ?_ (Chip.setReg_keeps ..) rfl
    exact h11
  clear_value z6
  have h13 : Keeps 103121172 c z7 := by
    refine Keeps.trans ?_ (Chip.setReg_keeps ..) rfl
    refine Keeps.trans ?_ (Chip.setReg_keeps ..) rfl
    exact h12
  clear_value z7
  refine Keeps.upd_hstAll ?_ rfl rfl rfl _
  exact h13

theorem Chip.udpCommand_keeps (c) (a1) (a2) (a3) : Keeps 28 c (Chip.udpCommand c a1 a2 a3) := by
  unfold Chip.udpCommand
  refine Keeps.ite ?_ ?_
  · exact Keeps.refl
  · extract_lets z1 z2 z3 z4 z5
    have h6 : Keeps 28 c z1 := by
      refine Keeps.trans ?_ (Chip.count_keeps ..) rfl
      exact Keeps.refl
    clear_value z1
    refine Keeps.ite ?_ ?_
    · refine Keeps.trans ?_ (Chip.stat_keeps ..) rfl
      exact h6
    · clear_value z5
      split
      · rename_i z7 z8
        refine Keeps.trans ?_ (Chip.stat_keeps ..) rfl
        refine Keeps.trans ?_ (Chip.emit_keeps ..) rfl
        exact h6
      · rename_i z9
        refine Keeps.ite ?_ ?_
        · exact h6
        · refine Keeps.ite ?_ ?_
          · refine Keeps.trans ?_ (Chip.stat_keeps ..) rfl
            exact h6
          · refine Keeps.trans ?_ (Chip.receive_keeps ..) rfl
            exact h6

theorem Chip.ethFrame_keeps (c) (a1) (a2) : Keeps 33554460 c (Chip.ethFrame c a1 a2) := by
  unfold Chip.ethFrame
  extract_lets z1 z2 z3 z4 z5 z6
  refine Keeps.ite ?_ ?_
  · exact Keeps.refl
  · refine Keeps.ite ?_ ?_
    · refine Keeps.trans ?_ (Chip.count_keeps ..) rfl
      exact Keeps.refl
    · refine Keeps.ite ?_ ?_
      · exact Keeps.refl
      · refine Keeps.ite ?_ ?_
        · refine Keeps.ite ?_ ?_
          · refine Keeps.upd_hst ?_ rfl _ rfl rfl rfl rfl
            refine Keeps.trans ?_ (Chip.emit_keeps ..) rfl
            exact Keeps.refl
          · exact Keeps.refl
        · refine Keeps.ite ?_ ?_
          · refine Keeps.trans ?_ (Chip.ladPacket_keeps ..) rfl
            exact Keeps.refl
          · exact Keeps.refl

theorem Chip.arp_keeps (c) (a1) (a2) : Keeps 24 c (Chip.arp c a1 a2) := by
  unfold Chip.arp
  refine Keeps.ite ?_ ?_
  · exact Keeps.refl
  · refine Keeps.ite ?_ ?_
    · refine Keeps.ite ?_ ?_
      · refine Keeps.trans ?_ (Chip.emit_keeps ..) rfl
        exact Keeps.refl
      · exact Keeps.refl
    · extract_lets z1 z2 z3 z4 z5
      have h6 : Keeps 24 c z5 := by
        refine Keeps.upd_hst ?_ rfl _ rfl rfl rfl rfl
        exact Keeps.refl
      clear_value z5
      refine Keeps.trans ?_ (Keeps.each (m := 24) _ ?_ _ _) rfl
      · exact h6
      · intro z7 z8
        refine Keeps.trans ?_ (Chip.emit_keeps ..) rfl
        exact Keeps.refl

theorem Chip.sendUdp_keeps (c) (a1) (a2) (a3) (a4) (a5) : Keeps 24 c (Chip.sendUdp c a1 a2 a3 a4 a5) := by
  unfold Chip.sendUdp
  extract_lets z1 z2 z3
  have h4 : Keeps 24 c z2 := by
    refine Keeps.trans ?_ (Chip.emit_keeps ..) rfl
    exact Keeps.refl
  clear_value z2
  refine Keeps.ite ?_ ?_
  · refine Keeps.trans ?_ (Chip.emit_keeps ..) rfl
    exact Keeps.refl
  · refine Keeps.upd_hst ?_ rfl _ rfl rfl rfl rfl
    exact h4

theorem Chip.arpTimeout_keeps (c) (a1) : Keeps 20 c (Chip.arpTimeout c a1) := by
  unfold Chip.arpTimeout
  extract_lets z1 z2 z3
  have h4 : Keeps 20 c z2 := by
    refine Keeps.trans ?_ (Chip.count_keeps ..) rfl
    exact Keeps.refl
  clear_value z2
  refine Keeps.upd_hst ?_ rfl _ rfl rfl rfl rfl
  exact h4

theorem Chip.arpRefresh_keeps (c) (a1) (a2) : Keeps 24 c (Chip.arpRefresh c a1 a2) := by
  unfold Chip.arpRefresh
  extract_lets z1
  split
  · rename_i z2 z3
    exact Keeps.refl
  · rename_i z4 z5 z6
    extract_lets z7
    have h8 : Keeps 24 c z7 := by
      refine Keeps.upd_hst ?_ rfl _ rfl rfl rfl rfl
      exact Keeps.refl
    clear_value z7
    refine Keeps.ite ?_ ?_
    · refine Keeps.trans ?_ (Chip.emit_keeps ..) rfl
      exact h8
    · exact Keeps.refl

theorem Chip.mdioWrite_keeps (c) (a1) : Keeps 28 c (Chip.mdioWrite c a1) := by
  unfold Chip.mdioWrite
  extract_lets z1 z2 z3 z4 z5 z6
  have h7 : Keeps 28 c z4 := by
    refine Keeps.upd_hst ?_ rfl _ rfl rfl rfl rfl
    refine Keeps.trans ?_ (Chip.setReg_keeps ..) rfl
    exact Keeps.refl
  clear_value z4
  refine Keeps.ite ?_ ?_
  · refine Keeps.upd_hst ?_ rfl _ rfl rfl rfl rfl
    refine Keeps.trans ?_ (Chip.emit_keeps ..) rfl
    exact h7
  · exact h7

theorem Chip.spiWrite_keeps (c) (a1) : Keeps 24 c (Chip.spiWrite c a1) := by
  unfold Chip.spiWrite
  refine Keeps.ite ?_ ?_
  · extract_lets z1 z2
    refine Keeps.upd_hst ?_ rfl _ rfl rfl rfl rfl
    refine Keeps.trans ?_ (Chip.stat_keeps ..) rfl
    exact Keeps.refl
  · refine Keeps.ite ?_ ?_
    · refine Keeps.trans ?_ (Chip.stat_keeps ..) rfl
      exact Keeps.refl
    · extract_lets z3 z4 z5 z6
      have h7 : Keeps 24 c z4 := by
        refine Keeps.upd_hst ?_ rfl _ rfl rfl rfl rfl
        exact Keeps.refl
      refine Keeps.ite ?_ ?_
      · refine Keeps.trans ?_ (Chip.reply_keeps ..) rfl
        refine Keeps.trans ?_ (Chip.stat_keeps ..) rfl
        exact h7
      · refine Keeps.trans ?_ (Chip.receive_keeps ..) rfl
        exact h7

theorem Chip.spiRead_keeps (c) (a1) : Keeps 24 c (Chip.spiRead c a1) := by
  unfold Chip.spiRead
  split
  · rename_i z1 z2
    refine Keeps.trans ?_ (Chip.emit_keeps ..) rfl
    exact Keeps.refl
  · rename_i z3 z4 z5 z6
    extract_lets z7 z8 z9
    have h10 : Keeps 24 c z8 := by
      refine Keeps.trans ?_ (Chip.emit_keeps ..) rfl
      exact Keeps.refl
    clear_value z8
    refine Keeps.ite ?_ ?_
    · refine Keeps.trans ?_ (Keeps.onlyIf (m := 24) _ ?_ _ _) rfl
      · refine Keeps.upd_hst ?_ rfl _ rfl rfl rfl rfl
        exact h10
      · intro z11
        refine Keeps.trans ?_ (Chip.emit_keeps ..) rfl
        exact Keeps.refl
    · exact h10

theorem Chip.spiStatus_keeps (c) : Keeps 24 c (Chip.spiStatus c) := by
  unfold Chip.spiStatus
  extract_lets z1 z2 z3
  have h4 : Keeps 24 c z2 := by
    refine Keeps.trans ?_ (Chip.emit_keeps ..) rfl
    exact Keeps.refl
  refine Keeps.upd_hst ?_ rfl _ rfl rfl rfl rfl
  exact h4

theorem Chip.frameSend_keeps (c) (a1) : Keeps 536 c (Chip.frameSend c a1).1 := by
  unfold Chip.frameSend
  extract_lets z1 z2 z3 z4 z5 z6 z7 z8 z9
  have h10 : Keeps 536 c z5 := by
    refine Keeps.trans ?_ (Chip.emit_keeps ..) rfl
    exact Keeps.refl
  clear_value z5
  have h11 : Keeps 536 c z7 := by
    refine Keeps.upd_hst ?_ rfl _ rfl rfl rfl rfl
    exact h10
  clear_value z7
  have h12 : Keeps 536 c z9 := by
    refine Keeps.ite ?_ ?_
    · refine Keeps.upd_tim ?_ rfl _
      exact h11
    · exact h11
  clear_value z9
  refine Keeps.ite1 ?_ ?_
  · exact Keeps.refl
  · refine Keeps.ite1 ?_ ?_
    · exact Keeps.refl
    · refine Keeps.ite1 ?_ ?_
      · exact Keeps.refl
      · exact h12

theorem Chip.echo_keeps (c) (a1) : Keeps 0 c (Chip.echo c a1).1 := by
  unfold Chip.echo
  exact Keeps.refl

theorem Chip.cmdStats_keeps (c) (a1) : Keeps 0 c (Chip.cmdStats c a1).1 := by
  unfold Chip.cmdStats
  exact Keeps.refl

theorem Chip.setFlight_keeps (c) (a1) (a2) : Keeps 4096 c (Chip.setFlight c a1 a2) := by
  unfold Chip.setFlight
  extract_lets z1
  refine Keeps.upd_lck ?_ rfl _
  exact Keeps.refl

theorem Chip.setAxis_keeps (c) (a1) (a2) : Keeps 4096 c (Chip.setAxis c a1 a2) := by
  unfold Chip.setAxis
  extract_lets z1
  refine Keeps.upd_lck ?_ rfl _
  exact Keeps.refl

theorem Chip.setQueue_keeps (c) (a1) (a2) : Keeps 4100 c (Chip.setQueue c a1 a2) := by
  unfold Chip.setQueue
  extract_lets z1 z2
  have h3 : Keeps 4100 c z2 := by
    refine Keeps.trans ?_ (Chip.setFlight_keeps ..) rfl
    exact Keeps.refl
  clear_value z2
  refine Keeps.ite ?_ ?_
  · refine Keeps.trans ?_ (Chip.setFld_keeps ..) rfl
    exact h3
  · exact h3

theorem Chip.segOps_keeps (c) (a1) : Keeps 2101252 c (Chip.segOps c a1) := by
  unfold Chip.segOps
  extract_lets z1 z2 z3 z4
  have h5 : Keeps 2101252 c z2 := by
    refine Keeps.trans ?_ (Chip.setFlight_keeps ..) rfl
    exact Keeps.refl
  clear_value z2
  have h6 : Keeps 2101252 c z3 := by
    refine Keeps.ite ?_ ?_
    · refine Keeps.trans ?_ (Chip.setQueue_keeps ..) rfl
      exact h5
    · exact h5
  clear_value z3
  have h7 : Keeps 2101252 c z4 := by
    refine Keeps.trans ?_ (Chip.setQueue_keeps ..) rfl
    exact h6
  clear_value z4
  refine Keeps.ite ?_ ?_
  · exact Keeps.refl
  · refine Keeps.trans ?_ (Keeps.each (m := 2101252) _ ?_ _ _) rfl
    · exact h7
    · intro z8 z9
      split
      · rename_i z10 z11
        refine Keeps.trans ?_ (Chip.ledger_keeps ..) rfl
        exact Keeps.refl
      · rename_i z12
        refine Keeps.trans ?_ (Chip.ledger_keeps ..) rfl
        exact Keeps.refl

theorem Chip.clearQueue_keeps (c) (a1) : Keeps 4100 c (Chip.clearQueue c a1) := by
  unfold Chip.clearQueue
  refine Keeps.trans ?_ (Chip.setQueue_keeps ..) rfl
  exact Keeps.refl

theorem Chip.putTarget_keeps (c) (a1) (a2) (a3) : Keeps 4100 c (Chip.putTarget c a1 a2 a3) := by
  unfold Chip.putTarget
  extract_lets z1 z2 z3 z4 z5
  have h6 : Keeps 4100 c z4 := by
    refine Keeps.ite ?_ ?_
    · exact Keeps.refl
    · refine Keeps.trans ?_ (Chip.raise_keeps ..) rfl
      exact Keeps.refl
  clear_value z4
  refine Keeps.ite ?_ ?_
  · refine Keeps.trans ?_ (Chip.setAxis_keeps ..) rfl
    exact h6
  · refine Keeps.trans ?_ (Chip.raise_keeps ..) rfl
    exact Keeps.refl

theorem Chip.segFast_keeps (c) (a1) : Keeps 33554436 c (Chip.segFast c a1) := by
  unfold Chip.segFast
  split
  · rename_i z1 z2
    exact Keeps.refl
  · rename_i z3 z4 z5 z6
    refine Keeps.ite ?_ ?_
    · refine Keeps.trans ?_ (Chip.sysEvent_keeps ..) rfl
      refine Keeps.trans ?_ (Chip.raise_keeps ..) rfl
      exact Keeps.refl
    · exact Keeps.refl

theorem Chip.segMove_keeps (c) (a1) (a2) (a3) : Keeps 2101252 c (Chip.segMove c a1 a2 a3) := by
  unfold Chip.segMove
  split
  · rename_i z1 z2
    exact Keeps.refl
  · rename_i z3 z4 z5 z6
    extract_lets z7 z8 z9 z10 z11 z12 z13 z14
    have h15 : Keeps 2101252 c z10 := by
      refine Keeps.trans ?_ (Chip.setQueue_keeps ..) rfl
      exact Keeps.refl
    clear_value z10
    have h16 : Keeps 2101252 c z11 := by
      refine Keeps.ite ?_ ?_
      · refine Keeps.trans ?_ (Chip.ledger_keeps ..) rfl
        exact h15
      · exact h15
    clear_value z11
    have h17 : Keeps 2101252 c z14 := by
      refine Keeps.ite ?_ ?_
      · refine Keeps.trans ?_ (Chip.raise_keeps ..) rfl
        exact h16
      · exact h16
    clear_value z14
    refine Keeps.trans ?_ (Keeps.each (m := 2101252) _ ?_ _ _) rfl
    · exact h17
    · intro z18 z19
      refine Keeps.trans ?_ (Chip.putTarget_keeps ..) rfl
      exact Keeps.refl

theorem Chip.segEval_keeps (c) (a1) (a2) (a3) : Keeps 35655684 c (Chip.segEval c a1 a2 a3) := by
  unfold Chip.segEval
  refine Keeps.trans ?_ (Chip.segFast_keeps ..) rfl
  refine Keeps.trans ?_ (Chip.segMove_keeps ..) rfl
  exact Keeps.refl

theorem Chip.segRelease_keeps (c) (a1) (a2) : Keeps 2101248 c (Chip.segRelease c a1 a2).1 := by
  unfold Chip.segRelease
  extract_lets z1
  split
  · rename_i z2 z3 z4 z5
    refine Keeps.ite1 ?_ ?_
    · refine Keeps.trans ?_ (Chip.ledger_keeps ..) rfl
      refine Keeps.trans ?_ (Chip.setFlight_keeps ..) rfl
      exact Keeps.refl
    · exact Keeps.refl
  · rename_i z6 z7
    exact Keeps.refl

theorem Chip.publishSegs_keeps (c) (a1) (a2) : Keeps 4100 c (Chip.publishSegs c a1 a2) := by
  unfold Chip.publishSegs
  extract_lets z1 z2 z3
  have h4 : Keeps 4100 c z2 := by
    refine Keeps.ite ?_ ?_
    · refine Keeps.trans ?_ (Chip.raise_keeps ..) rfl
      exact Keeps.refl
    · exact Keeps.refl
  clear_value z2
  have h5 : Keeps 4100 c z3 := by
    refine Keeps.ite ?_ ?_
    · refine Keeps.trans ?_ (Chip.raise_keeps ..) rfl
      exact h4
    · exact h4
  clear_value z3
  refine Keeps.ite ?_ ?_
  · refine Keeps.trans ?_ (Chip.setQueue_keeps ..) rfl
    refine Keeps.trans ?_ (Chip.setQueue_keeps ..) rfl
    exact h5
  · exact Keeps.refl

theorem Chip.reverseHold_keeps (c) : Keeps 4096 c (Chip.reverseHold c) := by
  unfold Chip.reverseHold
  refine Keeps.trans ?_ (Keeps.each (m := 4096) _ ?_ _ _) rfl
  · exact Keeps.refl
  · intro z1 z2
    extract_lets z3
    split
    · rename_i z4 z5 z6 z7
      refine Keeps.ite ?_ ?_
      · refine Keeps.trans ?_ (Chip.setFlight_keeps ..) rfl
        exact Keeps.refl
      · exact Keeps.refl
    · rename_i z8 z9
      exact Keeps.refl

theorem Chip.react_keeps (c) (a1) (a2) (a3) : Keeps 4352 c (Chip.react c a1 a2 a3) := by
  unfold Chip.react
  extract_lets z1 z2 z3
  refine Keeps.ite ?_ ?_
  · exact Keeps.refl
  · split
    · rename_i z4
      exact Keeps.refl
    · rename_i z5
      refine Keeps.ite ?_ ?_
      · refine Keeps.trans ?_ (Chip.setFlight_keeps ..) rfl
        exact Keeps.refl
      · refine Keeps.trans ?_ (Chip.setFlight_keeps ..) rfl
        exact Keeps.refl
    · rename_i z6
      refine Keeps.trans ?_ (Chip.setFlight_keeps ..) rfl
      exact Keeps.refl
    · rename_i z7 z8 z9 z10
      refine Keeps.ite ?_ ?_
      · refine Keeps.upd_pnd ?_ rfl _ rfl
        exact Keeps.refl
      · refine Keeps.trans ?_ (Chip.setFlight_keeps ..) rfl
        exact Keeps.refl

theorem Chip.raiseFaults_keeps (c) (a1) (a2) : Keeps 4420 c (Chip.raiseFaults c a1 a2) := by
  unfold Chip.raiseFaults
  extract_lets z1 z2 z3 z4 z5
  have h6 : Keeps 4420 c z1 := by
    refine Keeps.trans ?_ (Keeps.each (m := 4420) _ ?_ _ _) rfl
    · exact Keeps.refl
    · intro z7 z8
      refine Keeps.trans ?_ (Chip.raise_keeps ..) rfl
      exact Keeps.refl
  clear_value z1
  have h9 : Keeps 4420 c z2 := by
    refine Keeps.trans ?_ (Chip.raise_keeps ..) rfl
    refine Keeps.trans ?_ (Chip.raiseBit_keeps ..) rfl
    exact h6
  clear_value z2
  have h10 : Keeps 4420 c z4 := by
    refine Keeps.trans ?_ (Chip.react_keeps ..) rfl
    exact h9
  clear_value z4
  have h11 : Keeps 4420 c z5 := by
    refine Keeps.trans ?_ (Chip.logEvent_keeps ..) rfl
    exact h10
  clear_value z5
  refine Keeps.ite ?_ ?_
  · exact Keeps.refl
  · refine Keeps.ite ?_ ?_
    · exact h11
    · refine Keeps.trans ?_ (Chip.logTrigger_keeps ..) rfl
      exact h11

theorem Chip.setSat_keeps (c) (a1) (a2) : Keeps 68 c (Chip.setSat c a1 a2).1 := by
  unfold Chip.setSat
  extract_lets z1 z2 z3 z4 z5
  have h6 : Keeps 68 c z3 := by
    refine Keeps.trans ?_ (Chip.setFld_keeps ..) rfl
    exact Keeps.refl
  clear_value z3
  have h7 : Keeps 68 c z4 := by
    refine Keeps.trans ?_ (Chip.raise_keeps ..) rfl
    refine Keeps.trans ?_ (Chip.raiseBit_keeps ..) rfl
    exact h6
  clear_value z4
  have h8 : Keeps 68 c z5 := by
    refine Keeps.trans ?_ (Chip.logEvent_keeps ..) rfl
    exact h7
  clear_value z5
  refine Keeps.ite1 ?_ ?_
  · exact Keeps.refl
  · exact h8

theorem Chip.arenaPut_keeps (c : Chip) (a : Nat) (ws : List Nat) : Keeps 2048 c (c.arenaPut a ws) := by
  unfold Chip.arenaPut
  exact Keeps.upd_mem Keeps.refl rfl _ (Mems.wf_arena _ _ (fun h => memFold_wf 0 _ (fun _ _ w => memWriteWords_wf _ _ _ _ w) _ _ h))

theorem Chip.facWrite_keeps (c) (a1) (a2) (a3) (a4) : Keeps 2048 c (Chip.facWrite c a1 a2 a3 a4) := by
  unfold Chip.facWrite
  extract_lets z1 z2 z3
  have h4 : Keeps 2048 c z3 := by
    refine Keeps.trans ?_ (Chip.arenaPut_keeps ..) rfl
    exact Keeps.refl
  clear_value z3
  refine Keeps.trans ?_ (Chip.arenaPut_keeps ..) rfl
  exact h4

theorem Chip.setRslot_keeps (c) (a1) (a2) : Keeps 8192 c (Chip.setRslot c a1 a2) := by
  unfold Chip.setRslot
  extract_lets z1
  refine Keeps.upd_bsn ?_ rfl _
  exact Keeps.refl

theorem Chip.setJob_keeps (c) (a1) (a2) : Keeps 8192 c (Chip.setJob c a1 a2) := by
  unfold Chip.setJob
  extract_lets z1
  refine Keeps.upd_bsn ?_ rfl _
  exact Keeps.refl

theorem Chip.dropJob_keeps (c) (a1) : Keeps 8192 c (Chip.dropJob c a1) := by
  unfold Chip.dropJob
  extract_lets z1
  refine Keeps.upd_bsn ?_ rfl _
  exact Keeps.refl

theorem Chip.setHeld_keeps (c) (a1) (a2) : Keeps 4 c (Chip.setHeld c a1 a2) := by
  unfold Chip.setHeld
  refine Keeps.ite ?_ ?_
  · refine Keeps.trans ?_ (Chip.setFlag_keeps ..) rfl
    exact Keeps.refl
  · exact Keeps.refl

theorem Chip.slotRead_keeps (c) (a1) (a2) : Keeps 8196 c (Chip.slotRead c a1 a2).1 := by
  unfold Chip.slotRead
  extract_lets z1 z2 z3
  refine Keeps.ite1 ?_ ?_
  · refine Keeps.trans ?_ (Chip.setHeld_keeps ..) rfl
    refine Keeps.trans ?_ (Chip.setRslot_keeps ..) rfl
    exact Keeps.refl
  · exact Keeps.refl

theorem Chip.bsnSubmit_keeps (c) (a1) (a2) : Keeps 8324 c (Chip.bsnSubmit c a1 a2).1 := by
  unfold Chip.bsnSubmit
  extract_lets z1 z2 z3 z4
  have h5 : Keeps 8324 c z4.1 := by
    refine Keeps.trans ?_ (Chip.submit_keeps ..) rfl
    exact Keeps.refl
  clear_value z4
  refine Keeps.ite1 ?_ ?_
  · exact Keeps.refl
  · refine Keeps.ite1 ?_ ?_
    · exact Keeps.refl
    · refine Keeps.ite1 ?_ ?_
      · exact Keeps.refl
      · refine Keeps.ite1 ?_ ?_
        · dsimp only
          refine Keeps.trans ?_ (Chip.setHeld_keeps ..) rfl
          refine Keeps.trans ?_ (Chip.setJob_keeps ..) rfl
          exact h5
        · exact h5

theorem Chip.reseedResult_keeps (c) (a1) (a2) (a3) (a4) : Keeps 4420 c (Chip.reseedResult c a1 a2 a3 a4) := by
  unfold Chip.reseedResult
  extract_lets z1 z2
  split
  · rename_i z3 z4
    exact Keeps.refl
  · rename_i z5 z6 z7
    extract_lets z8 z9 z10
    have h11 : Keeps 4420 c z8 := by
      refine Keeps.trans ?_ (Chip.setFlight_keeps ..) rfl
      exact Keeps.refl
    clear_value z8
    have h12 : Keeps 4420 c z9 := by
      refine Keeps.trans ?_ (Chip.setFld_keeps ..) rfl
      exact h11
    clear_value z9
    have h13 : Keeps 4420 c z10.1 := by
      refine Keeps.trans ?_ (Chip.setSat_keeps ..) rfl
      exact h12
    clear_value z10
    refine Keeps.ite ?_ ?_
    · exact Keeps.refl
    · refine Keeps.ite ?_ ?_
      · refine Keeps.ite ?_ ?_
        · refine Keeps.ite ?_ ?_
          · refine Keeps.trans ?_ (Chip.raiseFaults_keeps ..) rfl
            exact h13
          · exact h13
        · exact h12
      · refine Keeps.trans ?_ (Chip.raise_keeps ..) rfl
        exact h12

theorem Chip.jobCounts_keeps (c) (a1) (a2) (a3) (a4) : Keeps 33554436 c (Chip.jobCounts c a1 a2 a3 a4) := by
  unfold Chip.jobCounts
  extract_lets z1 z2 z3 z4 z5 z6
  have h7 : Keeps 33554436 c z1 := by
    refine Keeps.trans ?_ (Chip.count_keeps ..) rfl
    exact Keeps.refl
  clear_value z1
  have h8 : Keeps 33554436 c z2 := by
    refine Keeps.ite ?_ ?_
    · refine Keeps.trans ?_ (Chip.raise_keeps ..) rfl
      refine Keeps.trans ?_ (Chip.count_keeps ..) rfl
      exact h7
    · exact h7
  clear_value z2
  have h9 : Keeps 33554436 c z3 := by
    refine Keeps.ite ?_ ?_
    · refine Keeps.trans ?_ (Chip.raise_keeps ..) rfl
      refine Keeps.trans ?_ (Chip.count_keeps ..) rfl
      exact h8
    · exact h8
  clear_value z3
  have h10 : Keeps 33554436 c z4 := by
    refine Keeps.ite ?_ ?_
    · refine Keeps.trans ?_ (Chip.raise_keeps ..) rfl
      refine Keeps.trans ?_ (Chip.count_keeps ..) rfl
      exact h9
    · exact h9
  clear_value z4
  have h11 : Keeps 33554436 c z5 := by
    refine Keeps.ite ?_ ?_
    · refine Keeps.trans ?_ (Chip.count_keeps ..) rfl
      exact h10
    · exact h10
  clear_value z5
  have h12 : Keeps 33554436 c z6 := by
    refine Keeps.trans ?_ (Chip.raise_keeps ..) rfl
    refine Keeps.trans ?_ (Chip.raiseBit_keeps ..) rfl
    exact h11
  clear_value z6
  refine Keeps.ite ?_ ?_
  · exact h11
  · refine Keeps.ite ?_ ?_
    · refine Keeps.trans ?_ (Chip.hostEvent_keeps ..) rfl
      exact h12
    · exact h12

theorem Chip.endJob_keeps (c) (a1) (a2) (a3) (a4) (a5) : Keeps 33562756 c (Chip.endJob c a1 a2 a3 a4 a5) := by
  unfold Chip.endJob
  extract_lets z1 z2 z3 z4 z5 z6 z7 z8 z9 z10
  have h11 : Keeps 33562756 c z9 := by
    refine Keeps.trans ?_ (Chip.setRslot_keeps ..) rfl
    exact Keeps.refl
  clear_value z9
  have h12 : Keeps 33562756 c z10 := by
    refine Keeps.trans ?_ (Chip.unlist_keeps ..) rfl
    refine Keeps.trans ?_ (Chip.workDone_keeps ..) rfl
    refine Keeps.trans ?_ (Chip.dropJob_keeps ..) rfl
    exact h11
  clear_value z10
  refine Keeps.trans ?_ (Chip.jobCounts_keeps ..) rfl
  exact h12

theorem Chip.failJob_keeps (c) (a1) (a2) (a3) (a4) : Keeps 33567172 c (Chip.failJob c a1 a2 a3 a4) := by
  unfold Chip.failJob
  extract_lets z1
  have h2 : Keeps 33567172 c z1 := by
    refine Keeps.trans ?_ (Chip.endJob_keeps ..) rfl
    exact Keeps.refl
  clear_value z1
  refine Keeps.ite ?_ ?_
  · refine Keeps.trans ?_ (Chip.reseedResult_keeps ..) rfl
    exact h2
  · exact h2

theorem Chip.qpSetup_keeps (c) (a1) (a2) : Keeps 10240 c (Chip.qpSetup c a1 a2).1 := by
  unfold Chip.qpSetup
  extract_lets z1 z2 z3 z4
  have h5 : Keeps 10240 c z4 := by
    refine Keeps.ite ?_ ?_
    · refine Keeps.trans ?_ (Chip.facWrite_keeps ..) rfl
      exact Keeps.refl
    · exact Keeps.refl
  clear_value z4
  refine Keeps.ite1 ?_ ?_
  · exact Keeps.refl
  · dsimp only
    refine Keeps.trans ?_ (Chip.setJob_keeps ..) rfl
    exact h5

theorem Chip.dualWrite_keeps (c) (a1) (a2) (a3) (a4) : Keeps 2048 c (Chip.dualWrite c a1 a2 a3 a4) := by
  unfold Chip.dualWrite
  extract_lets z1 z2
  have h3 : Keeps 2048 c z2 := by
    refine Keeps.trans ?_ (Chip.arenaPut_keeps ..) rfl
    exact Keeps.refl
  clear_value z2
  refine Keeps.trans ?_ (Chip.arenaPut_keeps ..) rfl
  refine Keeps.trans ?_ (Chip.arenaPut_keeps ..) rfl
  refine Keeps.trans ?_ (Chip.arenaPut_keeps ..) rfl
  exact h3

theorem Chip.qpWrite_keeps (c) (a1) (a2) (a3) (a4) (a5) (a6) : Keeps 33564804 c (Chip.qpWrite c a1 a2 a3 a4 a5 a6) := by
  unfold Chip.qpWrite
  extract_lets z1 z2 z3
  have h4 : Keeps 33564804 c z3 := by
    refine Keeps.trans ?_ (Chip.endJob_keeps ..) rfl
    exact Keeps.refl
  clear_value z3
  refine Keeps.trans ?_ (Chip.dualWrite_keeps ..) rfl
  exact h4

theorem Chip.qpEnd_keeps (c) (a1) (a2) (a3) (a4) (a5) : Keeps 33569220 c (Chip.qpEnd c a1 a2 a3 a4 a5) := by
  unfold Chip.qpEnd
  refine Keeps.ite ?_ ?_
  · refine Keeps.trans ?_ (Chip.failJob_keeps ..) rfl
    exact Keeps.refl
  · refine Keeps.trans ?_ (Chip.qpWrite_keeps ..) rfl
    exact Keeps.refl

theorem Chip.qpEndStart_keeps (c) (a1) (a2) (a3) (a4) : Keeps 33569220 c (Chip.qpEndStart c a1 a2 a3 a4) := by
  unfold Chip.qpEndStart
  extract_lets z1 z2 z3 z4
  refine Keeps.ite ?_ ?_
  · refine Keeps.trans ?_ (Chip.failJob_keeps ..) rfl
    exact Keeps.refl
  · refine Keeps.ite ?_ ?_
    · refine Keeps.trans ?_ (Chip.endJob_keeps ..) rfl
      exact Keeps.refl
    · refine Keeps.trans ?_ (Chip.qpWrite_keeps ..) rfl
      exact Keeps.refl

theorem Chip.qpIterEnd_keeps (c) (a1) : Keeps 33569220 c (Chip.qpIterEnd c a1) := by
  unfold Chip.qpIterEnd
  split
  · rename_i z1 z2
    exact Keeps.refl
  · rename_i z3 z4 z5
    refine Keeps.ite ?_ ?_
    · exact Keeps.refl
    · refine Keeps.ite ?_ ?_
      · refine Keeps.trans ?_ (Chip.failJob_keeps ..) rfl
        exact Keeps.refl
      · extract_lets z6 z7 z8 z9 z10 z11 z12 z13 z14
        have h15 : Keeps 33569220 c z6.1 := by
          refine Keeps.ite1 ?_ ?_
          · exact Keeps.refl
          · refine Keeps.trans ?_ (Chip.qpSetup_keeps ..) rfl
            exact Keeps.refl
        clear_value z6
        have h16 : Keeps 33569220 c z7 := by
          exact h15
        clear_value z7
        refine Keeps.ite ?_ ?_
        · refine Keeps.trans ?_ (Chip.failJob_keeps ..) rfl
          exact h16
        · refine Keeps.ite ?_ ?_
          · refine Keeps.trans ?_ (Chip.failJob_keeps ..) rfl
            exact h16
          · refine Keeps.ite ?_ ?_
            · refine Keeps.trans ?_ (Chip.qpEnd_keeps ..) rfl
              exact h16
            · refine Keeps.ite ?_ ?_
              · refine Keeps.trans ?_ (Chip.qpEnd_keeps ..) rfl
                exact h16
              · refine Keeps.trans ?_ (Chip.setJob_keeps ..) rfl
                exact h16

theorem Chip.jobComplete_keeps (c) (a1) (a2) : Keeps 33569222 c (Chip.jobComplete c a1 a2) := by
  unfold Chip.jobComplete
  split
  · rename_i z1 z2
    exact Keeps.refl
  · rename_i z3 z4 z5
    refine Keeps.ite ?_ ?_
    · exact Keeps.refl
    · extract_lets z6 z7 z8 z9 z10 z11 z12
      have h13 : Keeps 33569222 c z6 := by
        dsimp only [z6]
        split
        · rename_i z63
          refine Keeps.trans ?_ (Chip.raise_keeps ..) rfl
          refine Keeps.trans ?_ (Chip.count_keeps ..) rfl
          exact Keeps.refl
        · rename_i z64
          refine Keeps.trans ?_ (Chip.raise_keeps ..) rfl
          refine Keeps.trans ?_ (Chip.count_keeps ..) rfl
          exact Keeps.refl
        · rename_i z65 z66 z67
          exact Keeps.refl
      clear_value z6
      have h14 : Keeps 33569222 c z9 := by
        refine Keeps.trans ?_ (Chip.setReg_keeps ..) rfl
        exact h13
      clear_value z9
      have h15 : Keeps 33569222 c z10 := by
        refine Keeps.trans ?_ (Chip.raise_keeps ..) rfl
        refine Keeps.trans ?_ (Chip.setReg_keeps ..) rfl
        exact h14
      clear_value z10
      have h16 : Keeps 33569222 c z12 := by
        refine Keeps.ite ?_ ?_
        · refine Keeps.upd_bsn ?_ rfl _
          exact h15
        · exact h15
      clear_value z12
      refine Keeps.ite ?_ ?_
      · refine Keeps.trans ?_ (Chip.failJob_keeps ..) rfl
        refine Keeps.trans ?_ (Chip.logTrigger_keeps ..) rfl
        refine Keeps.trans ?_ (Chip.logEvent_keeps ..) rfl
        refine Keeps.trans ?_ (Chip.freeWord_keeps ..) rfl
        exact h13
      · split
        · rename_i z17 z18
          split
          · rename_i z19 z20 z21
            refine Keeps.trans ?_ (Chip.failJob_keeps ..) rfl
            exact h13
          · rename_i z22 z23
            refine Keeps.ite ?_ ?_
            · exact h13
            · refine Keeps.trans ?_ (Chip.failJob_keeps ..) rfl
              exact h13
        · rename_i z24 z25
          split
          · rename_i z26 z27
            refine Keeps.trans ?_ (Chip.failJob_keeps ..) rfl
            exact h13
          · rename_i z28 z29 z30
            extract_lets z31 z32 z33
            refine Keeps.ite ?_ ?_
            · refine Keeps.trans ?_ (Chip.failJob_keeps ..) rfl
              exact h13
            · refine Keeps.trans ?_ (Chip.reseedResult_keeps ..) rfl
              refine Keeps.trans ?_ (Chip.endJob_keeps ..) rfl
              exact h13
        · rename_i z34 z35
          refine Keeps.ite ?_ ?_
          · refine Keeps.trans ?_ (Chip.endJob_keeps ..) rfl
            exact h13
          · refine Keeps.trans ?_ (Chip.endJob_keeps ..) rfl
            exact h16
        · rename_i z36 z37 z38 z39
          split
          · rename_i z40 z41 z42 z43 z44 z45
            extract_lets z46
            have h47 : Keeps 33569222 c z46 := by
              dsimp only [z46]
              split
              · rename_i z48 z49
                refine Keeps.trans ?_ (Chip.facWrite_keeps ..) rfl
                exact h13
              · rename_i z50
                exact h13
            clear_value z46
            refine Keeps.trans ?_ (Chip.failJob_keeps ..) rfl
            exact h47
          · rename_i z51 z52 z53 z54 z55 z56
            extract_lets z57 z58
            have h59 : Keeps 33569222 c z57 := by
              dsimp only [z57]
              split
              · rename_i z60 z61
                refine Keeps.trans ?_ (Chip.facWrite_keeps ..) rfl
                exact h13
              · rename_i z62
                exact h13
            clear_value z57
            refine Keeps.trans ?_ (Chip.endJob_keeps ..) rfl
            exact h59

theorem Chip.stopFac_keeps (c) (a1) : Keeps 2 c (Chip.stopFac c a1).1 := by
  unfold Chip.stopFac
  extract_lets z1 z2
  have h3 : Keeps 2 c z2.1 := by
    refine Keeps.trans ?_ (Chip.freeBool_keeps ..) rfl
    exact Keeps.refl
  clear_value z2
  clear_value z1
  split
  · rename_i z4
    exact Keeps.refl
  · rename_i z5 z6
    exact h3

theorem Chip.stopJob_keeps (c) (a1) (a2) (a3) (a4) : Keeps 33569222 c (Chip.stopJob c a1 a2 a3 a4) := by
  unfold Chip.stopJob
  split
  · rename_i z1 z2
    exact Keeps.refl
  · rename_i z3 z4 z5
    extract_lets z6 z7 z8 z9 z10 z11
    have h12 : Keeps 33569222 c z6 := by
      refine Keeps.ite ?_ ?_
      · refine Keeps.trans ?_ (Chip.raise_keeps ..) rfl
        exact Keeps.refl
      · exact Keeps.refl
    clear_value z6
    have h13 : Keeps 33569222 c z7.1 := by
      refine Keeps.trans ?_ (Chip.stopFac_keeps ..) rfl
      exact h12
    clear_value z7
    have h14 : Keeps 33569222 c z10 := by
      dsimp only [z10]
      split
      · rename_i z16 z17 z18
        refine Keeps.trans ?_ (Chip.facWrite_keeps ..) rfl
        exact h13
      · rename_i z19 z20
        exact h13
    clear_value z10
    have h15 : Keeps 33569222 c z11 := by
      refine Keeps.ite ?_ ?_
      · refine Keeps.trans ?_ (Chip.endJob_keeps ..) rfl
        exact h12
      · refine Keeps.ite ?_ ?_
        · refine Keeps.trans ?_ (Chip.failJob_keeps ..) rfl
          exact h12
        · refine Keeps.ite ?_ ?_
          · refine Keeps.trans ?_ (Chip.qpEnd_keeps ..) rfl
            exact h12
          · refine Keeps.ite ?_ ?_
            · refine Keeps.trans ?_ (Chip.qpEndStart_keeps ..) rfl
              exact h14
            · refine Keeps.trans ?_ (Chip.endJob_keeps ..) rfl
              exact h14
    clear_value z11
    refine Keeps.ite ?_ ?_
    · refine Keeps.trans ?_ (Chip.reseedResult_keeps ..) rfl
      exact h15
    · exact h15

theorem Chip.jobAtDeadline_keeps (c) (a1) : Keeps 33569223 c (Chip.jobAtDeadline c a1) := by
  unfold Chip.jobAtDeadline
  split
  · rename_i z1 z2
    exact Keeps.refl
  · rename_i z3 z4 z5
    refine Keeps.ite ?_ Keeps.refl
    refine Keeps.trans ?_ (Chip.stopJob_keeps ..) rfl
    refine Keeps.trans ?_ (Chip.at_keeps ..) rfl
    exact Keeps.refl

theorem Chip.basinPeriod_keeps (c) (a1) : Keeps 33569222 c (Chip.basinPeriod c a1) := by
  unfold Chip.basinPeriod
  extract_lets z1 z2
  have h3 : Keeps 33569222 c z2 := by
    refine Keeps.trans ?_ (Keeps.each (m := 33569222) _ ?_ _ _) rfl
    · exact Keeps.refl
    · intro z4 z5
      refine Keeps.trans ?_ (Chip.stopJob_keeps ..) rfl
      exact Keeps.refl
  clear_value z2
  refine Keeps.ite ?_ ?_
  · exact Keeps.refl
  · refine Keeps.trans ?_ (Chip.setFld_keeps ..) rfl
    exact h3

theorem Chip.jobStart_keeps (c) (a1) (a2) : Keeps 8192 c (Chip.jobStart c a1 a2) := by
  unfold Chip.jobStart
  split
  · rename_i z1 z2
    exact Keeps.refl
  · rename_i z3 z4 z5
    extract_lets z6
    refine Keeps.trans ?_ (Chip.setJob_keeps ..) rfl
    exact Keeps.refl

theorem Chip.bsnCancel_keeps (c) (a1) : Keeps 33569222 c (Chip.bsnCancel c a1).1 := by
  unfold Chip.bsnCancel
  extract_lets z1
  split
  · rename_i z2 z3
    exact Keeps.refl
  · rename_i z4 z5 z6
    refine Keeps.trans ?_ (Chip.stopJob_keeps ..) rfl
    exact Keeps.refl

theorem Chip.bsnReadCmd_keeps (c) (a1) : Keeps 8212 c (Chip.bsnReadCmd c a1).1 := by
  unfold Chip.bsnReadCmd
  extract_lets z1 z2
  have h3 : Keeps 8212 c z1.1 := by
    refine Keeps.trans ?_ (Chip.slotRead_keeps ..) rfl
    exact Keeps.refl
  clear_value z1
  dsimp only
  refine Keeps.trans ?_ (Chip.setSnap_keeps ..) rfl
  exact h3

theorem Chip.bsnMemWrite_keeps (c) (a1) : Keeps 2048 c (Chip.bsnMemWrite c a1).1 := by
  unfold Chip.bsnMemWrite
  extract_lets z1 z2 z3
  refine Keeps.ite1 ?_ ?_
  · exact Keeps.refl
  · refine Keeps.ite1 ?_ ?_
    · exact Keeps.refl
    · refine Keeps.upd_mem ?_ rfl _ (Mems.wf_arena _ _ (memWriteWords_wf _ _ _ _))
      exact Keeps.refl

theorem Chip.rdSelWrite_keeps (c) (a1) (a2) : Keeps 20 c (Chip.rdSelWrite c a1 a2) := by
  unfold Chip.rdSelWrite
  extract_lets z1 z2
  have h3 : Keeps 20 c z1 := by
    refine Keeps.trans ?_ (Chip.writeBits_keeps ..) rfl
    exact Keeps.refl
  clear_value z1
  refine Keeps.trans ?_ (Chip.setSnap_keeps ..) rfl
  exact h3

theorem Chip.rdWinRead_keeps (c) (a1) (a2) : Keeps 8212 c (Chip.rdWinRead c a1 a2).1 := by
  unfold Chip.rdWinRead
  extract_lets z1 z2 z3
  have h4 : Keeps 8212 c z2.1 := by
    refine Keeps.trans ?_ (Chip.slotRead_keeps ..) rfl
    exact Keeps.refl
  clear_value z2
  refine Keeps.ite1 ?_ ?_
  · refine Keeps.trans ?_ (Chip.setSnap_keeps ..) rfl
    exact h4
  · split
    · rename_i z5 z6 z7
      refine Keeps.ite1 ?_ ?_
      · exact Keeps.refl
      · refine Keeps.trans ?_ (Chip.raise_keeps ..) rfl
        exact Keeps.refl
    · rename_i z8 z9
      refine Keeps.trans ?_ (Chip.raise_keeps ..) rfl
      exact Keeps.refl

theorem Chip.bsnWrite_keeps (c) (a1) (a2) : KeepsO 4 c (Chip.bsnWrite c a1 a2) := by
  unfold Chip.bsnWrite
  extract_lets z1
  have h2 : Keeps 4 c z1 := by
    refine Keeps.trans ?_ (Chip.raise_keeps ..) rfl
    exact Keeps.refl
  clear_value z1
  refine KeepsO.ite ?_ ?_
  · refine KeepsO.some ?_
    refine Keeps.ite ?_ ?_
    · exact h2
    · refine Keeps.trans ?_ (Chip.writeBits_keeps ..) rfl
      exact Keeps.refl
  · refine KeepsO.ite ?_ ?_
    · refine KeepsO.some ?_
      refine Keeps.ite ?_ ?_
      · refine Keeps.trans ?_ (Chip.writeBits_keeps ..) rfl
        exact Keeps.refl
      · exact h2
    · refine KeepsO.ite ?_ ?_
      · refine KeepsO.some ?_
        refine Keeps.ite ?_ ?_
        · refine Keeps.trans ?_ (Chip.writeBits_keeps ..) rfl
          exact Keeps.refl
        · exact h2
      · exact KeepsO.none

theorem Chip.outputsLow_keeps (c) : Keeps 8 c (Chip.outputsLow c) := by
  unfold Chip.outputsLow
  extract_lets z1
  refine Keeps.trans ?_ (Keeps.each (m := 8) _ ?_ _ _) rfl
  · refine Keeps.trans ?_ (Keeps.each (m := 8) _ ?_ _ _) rfl
    · exact Keeps.refl
    · intro z2 z3
      refine Keeps.trans ?_ (Chip.emit_keeps ..) rfl
      exact Keeps.refl
  · intro z4 z5
    refine Keeps.trans ?_ (Chip.emit_keeps ..) rfl
    exact Keeps.refl

theorem Chip.coldReset_keeps (c : Chip) (cause : Nat) (keepLog : Bool) : Keeps 0x7fffffd c (c.coldReset cause keepLog) := by
  unfold Chip.coldReset
  refine Keeps.trans (Keeps.weaken (Chip.outputsLow_keeps c) rfl) (n := 0x7fffffd) ?_ rfl
  generalize c.outputsLow = c
  refine { now := ?_, freshEq := ?_, regs := ?_, edges := ?_, outEq := ?_, hst := ?_, hstLad := ?_, hstVec := ?_, boot := ?_, bootPhase := ?_,
           log := ?_, pnd := ?_, pndClock := ?_, lkp := ?_, tim := ?_, pf := ?_, mem := ?_, lck := ?_, bsn := ?_, plan := ?_, man := ?_,
           slu := ?_, adc := ?_, tow := ?_, weir := ?_, gau := ?_, aqu := ?_, mono := ?_, fresh := ?_, out := ?_, otp := ?_, canon := ?_ }
  all_goals first | (intro h; exact absurd h (by decide)) | skip
  · intro _; rfl
  · exact Nat.le_refl _
  · exact List.prefix_refl _
  · exact Otp.grows_refl _
  · intro h
    simp only [Chip.canon, Bool.and_eq_true] at h
    have hl : Memory.wf 0 (if keepLog = true then { c.log with pendSlots := [] } else Logbook.init).mem = true := by
      split
      · exact h.1.2
      · rfl
    have hr : tabWf regReset (if keepLog = true then c.logRegs else []) = true := by
      split
      · exact tabWf_filter _ _ h.1.1.1
      · rfl
    simp only [Chip.canon, Bool.and_eq_true]
    exact ⟨⟨⟨hr, rfl⟩, hl⟩, h.2⟩

theorem Chip.hold_keeps (c) (a1) (a2) : Keeps 134217725 c (Chip.hold c a1 a2) := by
  unfold Chip.hold
  refine Keeps.ite ?_ ?_
  · exact Keeps.refl
  · refine Keeps.trans ?_ (Chip.coldReset_keeps ..) rfl
    exact Keeps.refl

theorem Chip.release_keeps (c) : Keeps 134217725 c (Chip.release c) := by
  unfold Chip.release
  extract_lets z1 z2
  have h3 : Keeps 134217725 c z1 := by
    refine Keeps.trans ?_ (Chip.coldReset_keeps ..) rfl
    exact Keeps.refl
  clear_value z1
  refine Keeps.ite ?_ ?_
  · refine Keeps.upd_bootAll ?_ rfl rfl _ rfl rfl
    exact h3
  · exact Keeps.refl

theorem Chip.clockHold_keeps (c) : Keeps 134217727 c (Chip.clockHold c) := by
  unfold Chip.clockHold
  extract_lets z1
  have h2 : Keeps 134217727 c z1.1 := by
    refine Keeps.trans ?_ (Chip.freeWord_keeps ..) rfl
    exact Keeps.refl
  clear_value z1
  refine Keeps.trans ?_ (Chip.hold_keeps ..) rfl
  refine Keeps.trans ?_ (Chip.setBoot_keeps _ _ (fun _ => rfl) (fun _ => rfl) (fun _ => rfl)) rfl
  exact h2

theorem Chip.warmReset_keeps (c : Chip) (cause : Nat) : Keeps 0x6bffffc c (c.warmReset cause) := by
  unfold Chip.warmReset
  extract_lets d n wst s1 pnd w low levels s2 weir s3 chain s4 boot s5 s6 s7 n1 n2 n3
  have h1 : Keeps 0x6bffffc c n1 := by
    refine Keeps.trans (Keeps.weaken (Chip.outputsLow_keeps c) rfl) (n := 0x6bffffc) ?_ rfl
    change Keeps _ d n1
    clear_value d
    refine { now := ?_, freshEq := ?_, regs := ?_, edges := ?_, outEq := ?_, hst := ?_, hstLad := ?_, hstVec := ?_, boot := ?_, bootPhase := ?_,
             log := ?_, pnd := ?_, pndClock := ?_, lkp := ?_, tim := ?_, pf := ?_, mem := ?_, lck := ?_, bsn := ?_, plan := ?_, man := ?_,
             slu := ?_, adc := ?_, tow := ?_, weir := ?_, gau := ?_, aqu := ?_, mono := ?_, fresh := ?_, out := ?_, otp := ?_, canon := ?_ }
    all_goals first | (intro h; exact absurd h (by decide)) | skip
    · intro _; rfl
    · intro _; rfl
    · intro _; rfl
    · intro _; exact Nat.le_refl _
    · exact Nat.le_refl _
    · exact List.prefix_refl _
    · exact Otp.grows_refl _
    · intro h
      simp only [Chip.canon, Bool.and_eq_true] at h ⊢
      exact ⟨⟨⟨warmRegs_wf _, rfl⟩, h.1.2⟩, h.2⟩
  clear_value n1
  have h2 : Keeps 0x6bffffc c n2 := Keeps.ite h1 (h1.trans (Chip.setFld_keeps ..) rfl)
  clear_value n2
  have h3 : Keeps 0x6bffffc c n3 := by
    refine Keeps.ite ?_ h2
    refine Keeps.trans ?_ (Chip.setFld_keeps ..) rfl
    refine Keeps.trans ?_ (Chip.setReg_keeps ..) rfl
    exact h2.trans (Chip.setReg_keeps ..) rfl
  exact h3.trans (Chip.setFld_keeps ..) rfl

theorem Chip.setWeir_keeps (c) (a1) : Keeps 524288 c (Chip.setWeir c a1) := by
  unfold Chip.setWeir
  refine Keeps.upd_weir ?_ rfl _
  exact Keeps.refl

theorem Chip.setSafeIn_keeps (c) (a1) (a2) (a3) : Keeps 524288 c (Chip.setSafeIn c a1 a2 a3) := by
  unfold Chip.setSafeIn
  refine Keeps.trans ?_ (Chip.setWeir_keeps ..) rfl
  exact Keeps.refl

theorem Chip.pinChanges_keeps (c) (a1) (a2) (a3) : Keeps 8 c (Chip.pinChanges c a1 a2 a3) := by
  unfold Chip.pinChanges
  refine Keeps.trans ?_ (Keeps.each (m := 8) _ ?_ _ _) rfl
  · exact Keeps.refl
  · intro z1 z2
    refine Keeps.ite ?_ ?_
    · exact Keeps.refl
    · refine Keeps.trans ?_ (Chip.emit_keeps ..) rfl
      exact Keeps.refl

theorem Chip.weirRefresh_keeps (c) : Keeps 524300 c (Chip.weirRefresh c) := by
  unfold Chip.weirRefresh
  extract_lets z1 z2 z3 z4 z5 z6 z7 z8 z9 z10
  have h11 : Keeps 524300 c z3 := by
    refine Keeps.trans ?_ (Chip.pinChanges_keeps ..) rfl
    refine Keeps.trans ?_ (Chip.pinChanges_keeps ..) rfl
    exact Keeps.refl
  clear_value z3
  have h12 : Keeps 524300 c z4 := by
    refine Keeps.trans ?_ (Chip.setWeir_keeps ..) rfl
    exact h11
  clear_value z4
  have h13 : Keeps 524300 c z5 := by
    refine Keeps.trans ?_ (Chip.setFlag_keeps ..) rfl
    refine Keeps.trans ?_ (Chip.setFlag_keeps ..) rfl
    exact h12
  clear_value z5
  have h14 : Keeps 524300 c z6 := by
    refine Keeps.trans ?_ (Chip.setFlag_keeps ..) rfl
    exact h13
  clear_value z6
  have h15 : Keeps 524300 c z7 := by
    refine Keeps.trans ?_ (Chip.setFlag_keeps ..) rfl
    exact h14
  clear_value z7
  have h16 : Keeps 524300 c z8 := by
    refine Keeps.trans ?_ (Chip.setFld_keeps ..) rfl
    exact h15
  clear_value z8
  have h17 : Keeps 524300 c z9 := by
    refine Keeps.trans ?_ (Chip.setFld_keeps ..) rfl
    exact h16
  clear_value z9
  have h18 : Keeps 524300 c z10 := by
    refine Keeps.trans ?_ (Chip.setFld_keeps ..) rfl
    exact h17
  clear_value z10
  refine Keeps.trans ?_ (Chip.setFld_keeps ..) rfl
  exact h18

theorem Chip.setConn_keeps (c) (a1) (a2) : Keeps 524288 c (Chip.setConn c a1 a2) := by
  unfold Chip.setConn
  refine Keeps.trans ?_ (Chip.setWeir_keeps ..) rfl
  exact Keeps.refl

theorem Chip.txFrame_keeps (c) (a1) (a2) (a3) (a4) : Keeps 524292 c (Chip.txFrame c a1 a2 a3 a4).1 := by
  unfold Chip.txFrame
  extract_lets z1 z2
  refine Keeps.trans ?_ (Chip.setFld_keeps ..) rfl
  refine Keeps.trans ?_ (Chip.setConn_keeps ..) rfl
  exact Keeps.refl

theorem Chip.remoteOutSend_keeps (c) (a1) : Keeps 524316 c (Chip.remoteOutSend c a1) := by
  unfold Chip.remoteOutSend
  extract_lets z1 z2
  have h3 : Keeps 524316 c z1.1 := by
    refine Keeps.trans ?_ (Chip.txFrame_keeps ..) rfl
    exact Keeps.refl
  clear_value z1
  refine Keeps.trans ?_ (Chip.sendUdp_keeps ..) rfl
  exact h3

theorem Chip.remoteOuts_keeps (c) : Keeps 524316 c (Chip.remoteOuts c) := by
  unfold Chip.remoteOuts
  refine Keeps.trans ?_ (Keeps.each (m := 524316) _ ?_ _ _) rfl
  · exact Keeps.refl
  · intro z1 z2
    refine Keeps.trans ?_ (Chip.remoteOutSend_keeps ..) rfl
    exact Keeps.refl

theorem Chip.weirTripActs_keeps (c) (a1) : Keeps 655708 c (Chip.weirTripActs c a1) := by
  unfold Chip.weirTripActs
  extract_lets z1 z2 z3 z4 z5 z6
  have h7 : Keeps 655708 c z2 := by
    refine Keeps.upd_pnd ?_ rfl _ rfl
    exact Keeps.refl
  clear_value z2
  have h8 : Keeps 655708 c z3 := by
    refine Keeps.trans ?_ (Chip.logEvent_keeps ..) rfl
    exact h7
  clear_value z3
  have h9 : Keeps 655708 c z4 := by
    refine Keeps.trans ?_ (Chip.logTrigger_keeps ..) rfl
    exact h8
  clear_value z4
  have h10 : Keeps 655708 c z5 := by
    refine Keeps.ite ?_ ?_
    · refine Keeps.trans ?_ (Chip.logTrigger_keeps ..) rfl
      exact h9
    · exact h9
  clear_value z5
  have h11 : Keeps 655708 c z6 := by
    refine Keeps.ite ?_ ?_
    · refine Keeps.trans ?_ (Chip.adcWeir_keeps ..) rfl
      exact h10
    · exact h10
  clear_value z6
  refine Keeps.trans ?_ (Chip.remoteOuts_keeps ..) rfl
  exact h11

theorem Chip.weirEnter_keeps (c) (a1) (a2) (a3) : Keeps 655708 c (Chip.weirEnter c a1 a2 a3) := by
  unfold Chip.weirEnter
  extract_lets z1 z2 z3 z4 z5
  have h6 : Keeps 655708 c z2 := by
    refine Keeps.ite ?_ ?_
    · exact Keeps.refl
    · refine Keeps.trans ?_ (Chip.count_keeps ..) rfl
      exact Keeps.refl
  clear_value z2
  have h7 : Keeps 655708 c z3 := by
    refine Keeps.trans ?_ (Chip.setFld_keeps ..) rfl
    refine Keeps.trans ?_ (Chip.raise_keeps ..) rfl
    exact h6
  clear_value z3
  have h8 : Keeps 655708 c z4 := by
    refine Keeps.ite ?_ ?_
    · refine Keeps.trans ?_ (Chip.raise_keeps ..) rfl
      exact h7
    · exact h7
  clear_value z4
  have h9 : Keeps 655708 c z5 := by
    refine Keeps.trans ?_ (Chip.setWeir_keeps ..) rfl
    exact h8
  clear_value z5
  refine Keeps.trans ?_ (Chip.weirTripActs_keeps ..) rfl
  exact h9

theorem Chip.weirActs_keeps (c) (a1) (a2) : Keeps 524288 c (Chip.weirActs c a1 a2) := by
  unfold Chip.weirActs
  refine Keeps.trans ?_ (Chip.setWeir_keeps ..) rfl
  exact Keeps.refl

theorem Chip.weirRaise_keeps (c) (a1) (a2) (a3) : Keeps 655708 c (Chip.weirRaise c a1 a2 a3) := by
  unfold Chip.weirRaise
  extract_lets z1 z2 z3 z4 z5
  have h6 : Keeps 655708 c z1 := by
    refine Keeps.ite ?_ ?_
    · refine Keeps.trans ?_ (Chip.setFld_keeps ..) rfl
      exact Keeps.refl
    · exact Keeps.refl
  clear_value z1
  have h7 : Keeps 655708 c z2 := by
    refine Keeps.trans ?_ (Chip.raiseBit_keeps ..) rfl
    exact h6
  clear_value z2
  have h8 : Keeps 655708 c z3 := by
    refine Keeps.ite ?_ ?_
    · exact h7
    · refine Keeps.trans ?_ (Chip.raiseBit_keeps ..) rfl
      exact h7
  clear_value z3
  have h9 : Keeps 655708 c z4 := by
    refine Keeps.trans ?_ (Chip.setWeir_keeps ..) rfl
    exact h8
  clear_value z4
  have h10 : Keeps 655708 c z5 := by
    refine Keeps.ite ?_ ?_
    · refine Keeps.trans ?_ (Chip.weirEnter_keeps ..) rfl
      exact h9
    · refine Keeps.trans ?_ (Chip.weirActs_keeps ..) rfl
      exact h9
  clear_value z5
  refine Keeps.trans ?_ (Chip.weirRefresh_keeps ..) rfl
  exact h10

theorem Chip.weirMeet_keeps (c) (a1) (a2) (a3) : Keeps 655708 c (Chip.weirMeet c a1 a2 a3) := by
  unfold Chip.weirMeet
  refine Keeps.ite ?_ ?_
  · refine Keeps.ite ?_ ?_
    · refine Keeps.trans ?_ (Chip.weirRefresh_keeps ..) rfl
      refine Keeps.trans ?_ (Chip.weirActs_keeps ..) rfl
      exact Keeps.refl
    · refine Keeps.trans ?_ (Chip.weirRaise_keeps ..) rfl
      exact Keeps.refl
  · exact Keeps.refl

theorem Chip.weirFollow_keeps (c) (a1) (a2) (a3) : Keeps 655708 c (Chip.weirFollow c a1 a2 a3) := by
  unfold Chip.weirFollow
  refine Keeps.ite ?_ ?_
  · refine Keeps.trans ?_ (Chip.weirMeet_keeps ..) rfl
    exact Keeps.refl
  · refine Keeps.ite ?_ ?_
    · refine Keeps.trans ?_ (Chip.weirRefresh_keeps ..) rfl
      refine Keeps.trans ?_ (Chip.setFld_keeps ..) rfl
      exact Keeps.refl
    · exact Keeps.refl

theorem Chip.sampleInput_keeps (c) (a1) (a2) (a3) : Keeps 524288 c (Chip.sampleInput c a1 a2 a3) := by
  unfold Chip.sampleInput
  refine Keeps.trans ?_ (Chip.setSafeIn_keeps ..) rfl
  exact Keeps.refl

theorem Chip.demandMeet_keeps (c) : Keeps 655708 c (Chip.demandMeet c) := by
  unfold Chip.demandMeet
  extract_lets z1 z2
  refine Keeps.ite ?_ ?_
  · refine Keeps.trans ?_ (Chip.weirMeet_keeps ..) rfl
    exact Keeps.refl
  · refine Keeps.trans ?_ (Chip.weirRefresh_keeps ..) rfl
    exact Keeps.refl

theorem Chip.tpRelease_keeps (c) : Keeps 524296 c (Chip.tpRelease c) := by
  unfold Chip.tpRelease
  refine Keeps.trans ?_ (Keeps.each (m := 524296) _ ?_ _ _) rfl
  · exact Keeps.refl
  · intro z1 z2
    refine Keeps.trans ?_ (Chip.emit_keeps ..) rfl
    refine Keeps.trans ?_ (Chip.setWeir_keeps ..) rfl
    exact Keeps.refl

theorem Chip.safeSample_keeps (c) (a1) (a2) : Keeps 655708 c (Chip.safeSample c a1 a2) := by
  unfold Chip.safeSample
  refine Keeps.trans ?_ (Chip.demandMeet_keeps ..) rfl
  refine Keeps.trans ?_ (Keeps.each (m := 655708) _ ?_ _ _) rfl
  · refine Keeps.trans ?_ (Chip.tpRelease_keeps ..) rfl
    exact Keeps.refl
  · intro z1 z2
    refine Keeps.trans ?_ (Chip.sampleInput_keeps ..) rfl
    exact Keeps.refl

theorem Chip.fastDemand_keeps (c) (a1) (a2) : Keeps 655708 c (Chip.fastDemand c a1 a2) := by
  unfold Chip.fastDemand
  extract_lets z1 z2
  refine Keeps.ite ?_ ?_
  · refine Keeps.trans ?_ (Chip.weirMeet_keeps ..) rfl
    refine Keeps.trans ?_ (Chip.setSafeIn_keeps ..) rfl
    exact Keeps.refl
  · exact Keeps.refl

theorem Chip.tpStart_keeps (c) (a1) : Keeps 524296 c (Chip.tpStart c a1) := by
  unfold Chip.tpStart
  refine Keeps.ite ?_ ?_
  · refine Keeps.trans ?_ (Chip.emit_keeps ..) rfl
    refine Keeps.trans ?_ (Chip.setWeir_keeps ..) rfl
    exact Keeps.refl
  · exact Keeps.refl

theorem Chip.tpEnd_keeps (c) (a1) (a2) (a3) (a4) : Keeps 655708 c (Chip.tpEnd c a1 a2 a3 a4) := by
  unfold Chip.tpEnd
  extract_lets z1 z2 z3 z4 z5 z6
  have h8 : Keeps 655708 c z3 := by
    refine Keeps.trans ?_ (Keeps.each (m := 655708) _ ?_ _ _) rfl
    · exact Keeps.refl
    · intro z15 z16
      extract_lets z17
      refine Keeps.trans ?_ (Chip.setSafeIn_keeps ..) rfl
      exact Keeps.refl
  clear_value z3
  have h9 : Keeps 655708 c z6 := by
    refine Keeps.ite ?_ ?_
    · refine Keeps.trans ?_ (Chip.raise_keeps ..) rfl
      exact h8
    · exact h8
  clear_value z6
  split
  · rename_i z10 z11
    exact Keeps.refl
  · rename_i z12 z13 z14
    refine Keeps.ite ?_ ?_
    · refine Keeps.trans ?_ (Chip.demandMeet_keeps ..) rfl
      refine Keeps.trans ?_ (Chip.weirFollow_keeps ..) rfl
      exact h9
    · exact Keeps.refl

theorem Chip.setMon_keeps (c) (a1) (a2) (a3) : Keeps 524288 c (Chip.setMon c a1 a2 a3) := by
  unfold Chip.setMon
  refine Keeps.trans ?_ (Chip.setWeir_keeps ..) rfl
  exact Keeps.refl

theorem Chip.monitors_keeps (c) (a1) (a2) : Keeps 655708 c (Chip.monitors c a1 a2) := by
  unfold Chip.monitors
  refine Keeps.ite ?_ ?_
  · exact Keeps.refl
  · extract_lets z1 z2 z3 z4 z5 z6 z7 z8 z9 z10
    have h11 : Keeps 655708 c z1 := by
      refine Keeps.trans ?_ (Keeps.each (m := 655708) _ ?_ _ _) rfl
      · exact Keeps.refl
      · intro z19 z20
        refine Keeps.trans ?_ (Chip.setMon_keeps ..) rfl
        exact Keeps.refl
    clear_value z1
    have h12 : Keeps 655708 c z6 := by
      refine Keeps.trans ?_ (Chip.setWeir_keeps ..) rfl
      exact h11
    clear_value z6
    have h13 : Keeps 655708 c z7 := by
      refine Keeps.trans ?_ (Keeps.each (m := 655708) _ ?_ _ _) rfl
      · exact h12
      · intro z17 z18
        refine Keeps.trans ?_ (Chip.setReg_keeps ..) rfl
        exact Keeps.refl
    clear_value z7
    have h14 : Keeps 655708 c z8 := by
      refine Keeps.trans ?_ (Chip.setReg_keeps ..) rfl
      exact h13
    clear_value z8
    refine Keeps.trans ?_ (Keeps.each (m := 655708) _ ?_ _ _) rfl
    · exact h14
    · intro z15 z16
      refine Keeps.trans ?_ (Chip.weirFollow_keeps ..) rfl
      exact Keeps.refl

theorem Chip.readback_keeps (c) (a1) (a2) : Keeps 655708 c (Chip.readback c a1 a2) := by
  unfold Chip.readback
  extract_lets z1 z2 z3
  have h4 : Keeps 655708 c z2 := by
    refine Keeps.trans ?_ (Chip.setWeir_keeps ..) rfl
    exact Keeps.refl
  clear_value z2
  have h5 : Keeps 655708 c z3 := by
    refine Keeps.trans ?_ (Chip.setFld_keeps ..) rfl
    exact h4
  clear_value z3
  refine Keeps.ite ?_ ?_
  · exact h5
  · refine Keeps.ite ?_ ?_
    · exact h5
    · refine Keeps.trans ?_ (Chip.weirRaise_keeps ..) rfl
      exact h5

theorem Chip.xcmp_keeps (c) (a1) : Keeps 655708 c (Chip.xcmp c a1) := by
  unfold Chip.xcmp
  extract_lets z1 z2 z3
  have h4 : Keeps 655708 c z2 := by
    refine Keeps.trans ?_ (Chip.setWeir_keeps ..) rfl
    exact Keeps.refl
  clear_value z2
  have h5 : Keeps 655708 c z3 := by
    refine Keeps.trans ?_ (Chip.raise_keeps ..) rfl
    refine Keeps.trans ?_ (Chip.count_keeps ..) rfl
    exact h4
  clear_value z3
  refine Keeps.ite ?_ ?_
  · refine Keeps.ite ?_ ?_
    · refine Keeps.trans ?_ (Chip.weirRaise_keeps ..) rfl
      exact h5
    · exact h5
  · exact h4

theorem Chip.resetSample_keeps (c) (a1) : Keeps 524636 c (Chip.resetSample c a1) := by
  unfold Chip.resetSample
  extract_lets z1 z2 z3 z4 z5 z6 z7 z8 z9 z10 z11 z12 z13 z14 z15 z16 z17 z18
  have h19 : Keeps 524636 c z11 := by
    refine Keeps.trans ?_ (Chip.setWeir_keeps ..) rfl
    exact Keeps.refl
  clear_value z11
  have h20 : Keeps 524636 c z12 := by
    refine Keeps.ite ?_ ?_
    · refine Keeps.trans ?_ (Chip.count_keeps ..) rfl
      refine Keeps.trans ?_ (Chip.raise_keeps ..) rfl
      exact h19
    · exact h19
  clear_value z12
  have h21 : Keeps 524636 c z13 := by
    refine Keeps.trans ?_ (Chip.setFld_keeps ..) rfl
    refine Keeps.trans ?_ (Chip.setReg_keeps ..) rfl
    refine Keeps.trans ?_ (Chip.setFld_keeps ..) rfl
    exact h20
  clear_value z13
  have h22 : Keeps 524636 c z14 := by
    refine Keeps.trans ?_ (Chip.logEvent_keeps ..) rfl
    refine Keeps.trans ?_ (Chip.raise_keeps ..) rfl
    exact h21
  clear_value z14
  have h23 : Keeps 524636 c z16 := by
    refine Keeps.upd_pnd ?_ rfl _ rfl
    exact h22
  clear_value z16
  have h24 : Keeps 524636 c z17 := by
    refine Keeps.trans ?_ (Chip.setWeir_keeps ..) rfl
    exact h23
  clear_value z17
  have h25 : Keeps 524636 c z18 := by
    refine Keeps.trans ?_ (Keeps.each (m := 524636) _ ?_ _ _) rfl
    · exact h24
    · intro z26 z27
      extract_lets z28
      refine Keeps.trans ?_ (Chip.setConn_keeps ..) rfl
      exact Keeps.refl
  clear_value z18
  refine Keeps.ite ?_ ?_
  · refine Keeps.trans ?_ (Chip.remoteOuts_keeps ..) rfl
    refine Keeps.trans ?_ (Chip.weirRefresh_keeps ..) rfl
    exact h25
  · refine Keeps.ite ?_ ?_
    · refine Keeps.trans ?_ (Chip.count_keeps ..) rfl
      refine Keeps.trans ?_ (Chip.raise_keeps ..) rfl
      exact h20
    · refine Keeps.ite ?_ ?_
      · refine Keeps.trans ?_ (Chip.count_keeps ..) rfl
        refine Keeps.trans ?_ (Chip.raise_keeps ..) rfl
        exact h20
      · exact h20

theorem Chip.discSamples_keeps (c) : Keeps 524288 c (Chip.discSamples c) := by
  unfold Chip.discSamples
  refine Keeps.trans ?_ (Keeps.each (m := 524288) _ ?_ _ _) rfl
  · exact Keeps.refl
  · intro z1 z2
    refine Keeps.trans ?_ (Chip.setSafeIn_keeps ..) rfl
    exact Keeps.refl

theorem Chip.weirTick_keeps (c) (a1) (a2) (a3) (a4) (a5) : Keeps 655708 c (Chip.weirTick c a1 a2 a3 a4 a5) := by
  unfold Chip.weirTick
  extract_lets z1 z2 z3 z4 z5 z6 z7 z8 z9 z10
  have h11 : Keeps 655708 c z2 := by
    refine Keeps.trans ?_ (Chip.setWeir_keeps ..) rfl
    exact Keeps.refl
  clear_value z2
  have h12 : Keeps 655708 c z3 := by
    refine Keeps.trans ?_ (Chip.discSamples_keeps ..) rfl
    exact h11
  clear_value z3
  have h13 : Keeps 655708 c z4 := by
    refine Keeps.trans ?_ (Chip.weirFollow_keeps ..) rfl
    exact h12
  clear_value z4
  have h14 : Keeps 655708 c z5 := by
    refine Keeps.trans ?_ (Chip.weirFollow_keeps ..) rfl
    exact h13
  clear_value z5
  have h15 : Keeps 655708 c z6 := by
    refine Keeps.trans ?_ (Chip.weirFollow_keeps ..) rfl
    exact h14
  clear_value z6
  have h16 : Keeps 655708 c z7 := by
    refine Keeps.trans ?_ (Chip.readback_keeps ..) rfl
    exact h15
  clear_value z7
  have h17 : Keeps 655708 c z8 := by
    refine Keeps.trans ?_ (Chip.xcmp_keeps ..) rfl
    exact h16
  clear_value z8
  have h18 : Keeps 655708 c z9 := by
    refine Keeps.ite ?_ ?_
    · refine Keeps.trans ?_ (Chip.weirRaise_keeps ..) rfl
      exact h17
    · exact h17
  clear_value z9
  have h19 : Keeps 655708 c z10 := by
    refine Keeps.ite ?_ ?_
    · refine Keeps.trans ?_ (Chip.raise_keeps ..) rfl
      refine Keeps.trans ?_ (Chip.setWeir_keeps ..) rfl
      exact h18
    · exact h18
  clear_value z10
  refine Keeps.trans ?_ (Chip.weirRefresh_keeps ..) rfl
  refine Keeps.trans ?_ (Chip.resetSample_keeps ..) rfl
  exact h19

theorem Chip.clockInterval_keeps (c) (a1) : Keeps 134217727 c (Chip.clockInterval c a1) := by
  unfold Chip.clockInterval
  extract_lets z1
  have h2 : Keeps 134217727 c z1 := by
    refine Keeps.ite ?_ ?_
    · refine Keeps.trans ?_ (Chip.weirRaise_keeps ..) rfl
      exact Keeps.refl
    · exact Keeps.refl
  clear_value z1
  refine Keeps.ite ?_ ?_
  · refine Keeps.trans ?_ (Chip.clockHold_keeps ..) rfl
    exact h2
  · exact h2

theorem Chip.ss1Expiry_keeps (c) (a1) : Keeps 524300 c (Chip.ss1Expiry c a1) := by
  unfold Chip.ss1Expiry
  extract_lets z1
  refine Keeps.ite ?_ ?_
  · refine Keeps.trans ?_ (Chip.weirRefresh_keeps ..) rfl
    refine Keeps.trans ?_ (Chip.setWeir_keeps ..) rfl
    exact Keeps.refl
  · exact Keeps.refl

theorem Chip.weirTripCmd_keeps (c) (a1) : Keeps 655708 c (Chip.weirTripCmd c a1).1 := by
  unfold Chip.weirTripCmd
  dsimp only
  refine Keeps.trans ?_ (Chip.weirRaise_keeps ..) rfl
  exact Keeps.refl

theorem Chip.weirStatus_keeps (c) (a1) : Keeps 0 c (Chip.weirStatus c a1).1 := by
  unfold Chip.weirStatus
  exact Keeps.refl

theorem Chip.safeFrameRaise_keeps (c) : Keeps 655708 c (Chip.safeFrameRaise c) := by
  unfold Chip.safeFrameRaise
  refine Keeps.ite ?_ ?_
  · refine Keeps.trans ?_ (Chip.weirRaise_keeps ..) rfl
    exact Keeps.refl
  · refine Keeps.trans ?_ (Chip.weirRefresh_keeps ..) rfl
    exact Keeps.refl

theorem Chip.connFault_keeps (c) (a1) (a2) : Keeps 655708 c (Chip.connFault c a1 a2) := by
  unfold Chip.connFault
  extract_lets z1 z2
  have h3 : Keeps 655708 c z1 := by
    refine Keeps.trans ?_ (Chip.setFld_keeps ..) rfl
    refine Keeps.trans ?_ (Chip.setFld_keeps ..) rfl
    exact Keeps.refl
  clear_value z1
  refine Keeps.trans ?_ (Chip.safeFrameRaise_keeps ..) rfl
  refine Keeps.trans ?_ (Chip.setConn_keeps ..) rfl
  exact h3

theorem Chip.frameDiscard_keeps (c : Chip) (a1 a2 : Nat) : Keeps 655708 c (c.frameDiscard a1 a2) := by
  unfold Chip.frameDiscard
  have h1 := (Keeps.trans Keeps.refl (Chip.setFld_keeps c (WEI_CONN_STAT__LAST_ERR a1) a2) rfl (m := 655708))
  have h2 := fun f n => h1.trans (Chip.count_keeps (c.setFld (WEI_CONN_STAT__LAST_ERR a1) a2) f n) rfl
  have h3 := fun f n x => (h2 f n).trans (Chip.setConn_keeps _ a1 x) rfl
  exact Keeps.ite ((h3 ..).trans (Chip.connFault_keeps ..) rfl) (h3 ..)

theorem Chip.putTracks_keeps (c) (a1) (a2) : Keeps 524288 c (Chip.putTracks c a1 a2) := by
  unfold Chip.putTracks
  extract_lets z1
  refine Keeps.trans ?_ (Keeps.each (m := 524288) _ ?_ _ _) rfl
  · exact Keeps.refl
  · intro z2 z3
    refine Keeps.trans ?_ (Chip.setWeir_keeps ..) rfl
    exact Keeps.refl

theorem Chip.frameAccept_keeps (c) (a1) (a2) : Keeps 655708 c (Chip.frameAccept c a1 a2) := by
  unfold Chip.frameAccept
  extract_lets z1 z2 z3 z4 z5 z6 z7 z8 z9 z10 z11 z12 z13 z14
  have h15 : Keeps 655708 c z7 := by
    refine Keeps.ite ?_ ?_
    · refine Keeps.trans ?_ (Chip.count_keeps ..) rfl
      exact Keeps.refl
    · exact Keeps.refl
  clear_value z7
  have h16 : Keeps 655708 c z9 := by
    refine Keeps.trans ?_ (Chip.setFld_keeps ..) rfl
    exact h15
  clear_value z9
  have h17 : Keeps 655708 c z10 := by
    refine Keeps.ite ?_ ?_
    · refine Keeps.trans ?_ (Chip.setFld_keeps ..) rfl
      exact h16
    · exact h16
  clear_value z10
  have h18 : Keeps 655708 c z11 := by
    refine Keeps.trans ?_ (Chip.setConn_keeps ..) rfl
    exact h17
  clear_value z11
  have h19 : Keeps 655708 c z13 := by
    refine Keeps.trans ?_ (Chip.setFlag_keeps ..) rfl
    exact h18
  clear_value z13
  have h20 : Keeps 655708 c z14 := by
    refine Keeps.trans ?_ (Chip.setFlag_keeps ..) rfl
    exact h19
  clear_value z14
  refine Keeps.trans ?_ (Chip.safeFrameRaise_keeps ..) rfl
  refine Keeps.ite ?_ ?_
  · refine Keeps.trans ?_ (Chip.putTracks_keeps ..) rfl
    exact h20
  · exact h20

theorem Chip.frameReceive_keeps (c) (a1) (a2) (a3) : Keeps 655708 c (Chip.frameReceive c a1 a2 a3) := by
  unfold Chip.frameReceive
  refine Keeps.ite ?_ ?_
  · split
    · rename_i z1 z2
      refine Keeps.trans ?_ (Chip.frameAccept_keeps ..) rfl
      exact Keeps.refl
    · rename_i z3 z4
      refine Keeps.trans ?_ (Chip.frameDiscard_keeps ..) rfl
      exact Keeps.refl
  · exact Keeps.refl

theorem Chip.safetyItem_keeps (c) (a1) (a2) : Keeps 655708 c (Chip.safetyItem c a1 a2) := by
  unfold Chip.safetyItem
  extract_lets z1
  refine Keeps.ite ?_ ?_
  · refine Keeps.trans ?_ (Chip.frameReceive_keeps ..) rfl
    exact Keeps.refl
  · exact Keeps.refl

theorem Chip.safetyDatagram_keeps (c) (a1) : Keeps 655708 c (Chip.safetyDatagram c a1) := by
  unfold Chip.safetyDatagram
  refine Keeps.ite ?_ ?_
  · exact Keeps.refl
  · split
    · rename_i z1 z2
      refine Keeps.trans ?_ (Chip.count_keeps ..) rfl
      exact Keeps.refl
    · rename_i z3 z4 z5
      refine Keeps.trans ?_ (Keeps.each (m := 655708) _ ?_ _ _) rfl
      · exact Keeps.refl
      · intro z6 z7
        extract_lets z8 z9
        clear_value z9
        split
        · rename_i z10
          refine Keeps.trans ?_ (Chip.count_keeps ..) rfl
          exact Keeps.refl
        · rename_i z11 z12
          refine Keeps.trans ?_ (Chip.frameReceive_keeps ..) rfl
          exact Keeps.refl

theorem Chip.connWatchdog_keeps (c) (a1) : Keeps 655708 c (Chip.connWatchdog c a1) := by
  unfold Chip.connWatchdog
  extract_lets z1 z2 z3
  refine Keeps.ite ?_ ?_
  · refine Keeps.trans ?_ (Chip.connFault_keeps ..) rfl
    exact Keeps.refl
  · exact Keeps.refl

theorem Chip.connTakeover_keeps (c) : Keeps 524292 c (Chip.connTakeover c) := by
  unfold Chip.connTakeover
  extract_lets z1
  have h2 : Keeps 524292 c z1 := by
    refine Keeps.trans ?_ (Keeps.each (m := 524292) _ ?_ _ _) rfl
    · exact Keeps.refl
    · intro z3 z4
      extract_lets z5
      refine Keeps.ite ?_ ?_
      · refine Keeps.trans ?_ (Chip.setConn_keeps ..) rfl
        refine Keeps.trans ?_ (Chip.setFld_keeps ..) rfl
        exact Keeps.refl
      · exact Keeps.refl
  clear_value z1
  refine Keeps.trans ?_ (Keeps.each (m := 524292) _ ?_ _ _) rfl
  · exact h2
  · intro z6 z7
    extract_lets z8
    refine Keeps.trans ?_ (Chip.setConn_keeps ..) rfl
    exact Keeps.refl

theorem Chip.connSuspend_keeps (c) : Keeps 4 c (Chip.connSuspend c) := by
  unfold Chip.connSuspend
  refine Keeps.trans ?_ (Keeps.each (m := 4) _ ?_ _ _) rfl
  · exact Keeps.refl
  · intro z1 z2
    refine Keeps.trans ?_ (Chip.setFld_keeps ..) rfl
    exact Keeps.refl

theorem Chip.withhold_keeps (c) (a1) : Keeps 524292 c (Chip.withhold c a1) := by
  unfold Chip.withhold
  refine Keeps.trans ?_ (Chip.setWeir_keeps ..) rfl
  refine Keeps.trans ?_ (Chip.count_keeps ..) rfl
  exact Keeps.refl

theorem Chip.safetyItems_keeps (c) (a1) (a2) : Keeps 524292 c (Chip.safetyItems c a1 a2).1 := by
  unfold Chip.safetyItems
  extract_lets z1
  refine Keeps.trans ?_ (Keeps.foldl1 (m := 524292) _ ?_ _ _) rfl
  · exact Keeps.refl
  · intro z2 z3
    extract_lets z4 z5 z6 z7
    have h8 : Keeps 524292 z2.1 z4 := by
      exact Keeps.refl
    clear_value z4
    have h9 : Keeps 524292 z2.1 z6.1 := by
      refine Keeps.ite1 ?_ ?_
      · refine Keeps.trans ?_ (Chip.txFrame_keeps ..) rfl
        exact h8
      · refine Keeps.trans ?_ (Chip.txFrame_keeps ..) rfl
        exact h8
    clear_value z6
    refine Keeps.ite1 ?_ ?_
    · dsimp only
      refine Keeps.trans ?_ (Chip.withhold_keeps ..) rfl
      exact h9
    · exact h9

theorem Chip.remoteOutDue_keeps (c) (a1) : Keeps 524316 c (Chip.remoteOutDue c a1) := by
  unfold Chip.remoteOutDue
  refine Keeps.trans ?_ (Keeps.each (m := 524316) _ ?_ _ _) rfl
  · exact Keeps.refl
  · intro z1 z2
    refine Keeps.ite ?_ ?_
    · refine Keeps.trans ?_ (Chip.withhold_keeps ..) rfl
      refine Keeps.trans ?_ (Chip.txFrame_keeps ..) rfl
      exact Keeps.refl
    · refine Keeps.trans ?_ (Chip.remoteOutSend_keeps ..) rfl
      exact Keeps.refl

theorem Chip.setChan_keeps (c) (a1) (a2) : Keeps 1024 c (Chip.setChan c a1 a2) := by
  unfold Chip.setChan
  extract_lets z1
  refine Keeps.upd_pf ?_ rfl _
  exact Keeps.refl

theorem Chip.setPd_keeps (c) (a1) (a2) : Keeps 1024 c (Chip.setPd c a1 a2) := by
  unfold Chip.setPd
  extract_lets z1
  refine Keeps.upd_pf ?_ rfl _
  exact Keeps.refl

theorem Chip.pdSteps_keeps (c) (a1) (a2) (a3) : Keeps 1028 c (Chip.pdSteps c a1 a2 a3) := by
  unfold Chip.pdSteps
  extract_lets z1 z2
  have h3 : Keeps 1028 c z2 := by
    refine Keeps.trans ?_ (Chip.setPd_keeps ..) rfl
    exact Keeps.refl
  clear_value z2
  refine Keeps.ite ?_ ?_
  · exact h3
  · refine Keeps.trans ?_ (Chip.raise_keeps ..) rfl
    refine Keeps.trans ?_ (Chip.raise_keeps ..) rfl
    refine Keeps.trans ?_ (Chip.count_keeps ..) rfl
    exact h3

theorem Chip.pdChan_keeps (c) (a1) (a2) (a3) : Keeps 1028 c (Chip.pdChan c a1 a2 a3) := by
  unfold Chip.pdChan
  refine Keeps.trans ?_ (Keeps.each (m := 1028) _ ?_ _ _) rfl
  · exact Keeps.refl
  · intro z1 z2
    refine Keeps.ite ?_ ?_
    · refine Keeps.trans ?_ (Chip.pdSteps_keeps ..) rfl
      exact Keeps.refl
    · exact Keeps.refl

theorem Chip.pdShow_keeps (c) (a1) : Keeps 8 c (Chip.pdShow c a1) := by
  unfold Chip.pdShow
  extract_lets z1
  refine Keeps.ite ?_ ?_
  · refine Keeps.trans ?_ (Chip.emit_keeps ..) rfl
    refine Keeps.trans ?_ (Chip.emit_keeps ..) rfl
    refine Keeps.trans ?_ (Chip.emit_keeps ..) rfl
    exact Keeps.refl
  · exact Keeps.refl

theorem Chip.pdSet_keeps (c) (a1) (a2) : Keeps 1032 c (Chip.pdSet c a1 a2) := by
  unfold Chip.pdSet
  extract_lets z1
  refine Keeps.trans ?_ (Chip.pdShow_keeps ..) rfl
  refine Keeps.trans ?_ (Chip.setPd_keeps ..) rfl
  exact Keeps.refl

theorem Chip.pdChainSet_keeps (c) (a1) : Keeps 1032 c (Chip.pdChainSet c a1) := by
  unfold Chip.pdChainSet
  refine Keeps.trans ?_ (Keeps.each (m := 1032) _ ?_ _ _) rfl
  · exact Keeps.refl
  · intro z1 z2
    refine Keeps.ite ?_ ?_
    · refine Keeps.trans ?_ (Chip.pdSet_keeps ..) rfl
      exact Keeps.refl
    · exact Keeps.refl

theorem Chip.pdEdge_keeps (c) (a1) : Keeps 1032 c (Chip.pdEdge c a1) := by
  unfold Chip.pdEdge
  extract_lets z1 z2 z3 z4
  refine Keeps.ite ?_ ?_
  · refine Keeps.trans ?_ (Chip.pdShow_keeps ..) rfl
    refine Keeps.trans ?_ (Chip.setPd_keeps ..) rfl
    exact Keeps.refl
  · exact Keeps.refl

theorem Chip.reversal_keeps (c) (a1) : Keeps 4 c (Chip.reversal c a1) := by
  unfold Chip.reversal
  refine Keeps.trans ?_ (Chip.raise_keeps ..) rfl
  refine Keeps.trans ?_ (Chip.raiseBit_keeps ..) rfl
  refine Keeps.trans ?_ (Chip.raise_keeps ..) rfl
  exact Keeps.refl

theorem Chip.chanSteps_keeps (c) (a1) (a2) (a3) (a4) (a5) : Keeps 1028 c (Chip.chanSteps c a1 a2 a3 a4 a5) := by
  unfold Chip.chanSteps
  extract_lets z1 z2 z3 z4 z5 z6 z7 z8 z9 z10 z11 z12
  have h13 : Keeps 1028 c z11 := by
    refine Keeps.trans ?_ (Chip.setChan_keeps ..) rfl
    exact Keeps.refl
  clear_value z11
  have h14 : Keeps 1028 c z12 := by
    refine Keeps.ite ?_ ?_
    · refine Keeps.trans ?_ (Chip.reversal_keeps ..) rfl
      exact h13
    · exact h13
  clear_value z12
  refine Keeps.ite ?_ ?_
  · exact h14
  · refine Keeps.trans ?_ (Chip.pdChan_keeps ..) rfl
    exact h14

theorem Chip.chanErr_keeps (c) (a1) (a2) : Keeps 4 c (Chip.chanErr c a1 a2) := by
  unfold Chip.chanErr
  refine Keeps.trans ?_ (Chip.count_keeps ..) rfl
  refine Keeps.trans ?_ (Chip.raiseBit_keeps ..) rfl
  refine Keeps.trans ?_ (Chip.raise_keeps ..) rfl
  exact Keeps.refl

theorem Chip.quadErr_keeps (c) (a1) : Keeps 4 c (Chip.quadErr c a1) := by
  unfold Chip.quadErr
  refine Keeps.trans ?_ (Chip.raise_keeps ..) rfl
  refine Keeps.trans ?_ (Chip.chanErr_keeps ..) rfl
  exact Keeps.refl

theorem Chip.abzChan_keeps (c) (a1) (a2) (a3) (a4) (a5) (a6) : Keeps 1028 c (Chip.abzChan c a1 a2 a3 a4 a5 a6) := by
  unfold Chip.abzChan
  extract_lets z1 z2
  have h3 : Keeps 1028 c z1 := by
    dsimp only [z1]
    split
    · rename_i z4 z5
      refine Keeps.trans ?_ (Chip.quadErr_keeps ..) rfl
      exact Keeps.refl
    · rename_i z6 z7 z8
      refine Keeps.ite ?_ ?_
      · exact Keeps.refl
      · refine Keeps.trans ?_ (Chip.chanSteps_keeps ..) rfl
        exact Keeps.refl
  clear_value z1
  refine Keeps.ite ?_ ?_
  · refine Keeps.trans ?_ (Chip.setChan_keeps ..) rfl
    exact h3
  · exact h3

theorem Chip.clampSpeed_keeps (c) (a1) (a2) : Keeps 4 c (Chip.clampSpeed c a1 a2).1 := by
  unfold Chip.clampSpeed
  extract_lets z1
  refine Keeps.ite ?_ ?_
  · exact Keeps.refl
  · refine Keeps.trans ?_ (Chip.raise_keeps ..) rfl
    exact Keeps.refl

theorem Chip.rquot_keeps (c) (a1) (a2) : Keeps 2 c (Chip.rquot c a1 a2).1 := by
  unfold Chip.rquot
  extract_lets z1
  have h2 : Keeps 2 c z1.1 := by
    refine Keeps.trans ?_ (Chip.freeWord_keeps ..) rfl
    exact Keeps.refl
  clear_value z1
  refine Keeps.ite1 ?_ ?_
  · exact h2
  · refine Keeps.ite1 ?_ ?_
    · exact Keeps.refl
    · exact Keeps.refl

theorem Chip.putSpeed_keeps (c) (a1) (a2) (a3) (a4) : Keeps 4 c (Chip.putSpeed c a1 a2 a3 a4) := by
  unfold Chip.putSpeed
  extract_lets z1 z2
  have h3 : Keeps 4 c z1.1 := by
    refine Keeps.trans ?_ (Chip.clampSpeed_keeps ..) rfl
    exact Keeps.refl
  clear_value z1
  have h4 : Keeps 4 c z2 := by
    refine Keeps.trans ?_ (Chip.setFldI_keeps ..) rfl
    exact h3
  clear_value z2
  refine Keeps.trans ?_ (Chip.setFld_keeps ..) rfl
  refine Keeps.trans ?_ (Chip.setFld_keeps ..) rfl
  refine Keeps.trans ?_ (Chip.setFlag_keeps ..) rfl
  exact h4

theorem Chip.windowEnd_keeps (c : Chip) (ch : Nat) : Keeps 1030 c (c.windowEnd ch) := by
  unfold Chip.windowEnd
  dsimp only
  refine Keeps.ite ?_ ?_
  · exact Keeps.trans Keeps.refl (Chip.setChan_keeps ..) rfl
  · refine Keeps.trans ?_ (Chip.setChan_keeps ..) rfl
    refine Keeps.trans ?_ (Chip.putSpeed_keeps ..) rfl
    repeat' split
    all_goals exact Keeps.trans Keeps.refl (Chip.rquot_keeps ..) rfl

theorem Chip.compatSpeed_keeps (c) (a1) : Keeps 1028 c (Chip.compatSpeed c a1) := by
  unfold Chip.compatSpeed
  extract_lets z1 z2 z3 z4
  refine Keeps.trans ?_ (Chip.putSpeed_keeps ..) rfl
  refine Keeps.trans ?_ (Chip.setChan_keeps ..) rfl
  exact Keeps.refl

theorem Chip.chanSample_keeps (c) (a1) (a2) (a3) (a4) : Keeps 1030 c (Chip.chanSample c a1 a2 a3 a4) := by
  unfold Chip.chanSample
  extract_lets z1 z2 z3 z4 z5 z6 z7 z8
  have h9 : Keeps 1030 c z4 := by
    refine Keeps.trans ?_ (Chip.setFld_keeps ..) rfl
    exact Keeps.refl
  clear_value z4
  have h10 : Keeps 1030 c z6 := by
    refine Keeps.trans ?_ (Chip.setChan_keeps ..) rfl
    exact h9
  clear_value z6
  have h11 : Keeps 1030 c z7 := by
    refine Keeps.trans ?_ (Chip.setReg_keeps ..) rfl
    refine Keeps.trans ?_ (Chip.setReg_keeps ..) rfl
    refine Keeps.trans ?_ (Chip.setReg_keeps ..) rfl
    refine Keeps.trans ?_ (Chip.setReg_keeps ..) rfl
    exact h10
  clear_value z7
  have h12 : Keeps 1030 c z8 := by
    refine Keeps.trans ?_ (Chip.setFlag_keeps ..) rfl
    exact h11
  clear_value z8
  refine Keeps.ite ?_ ?_
  · refine Keeps.trans ?_ (Chip.compatSpeed_keeps ..) rfl
    exact h12
  · refine Keeps.ite ?_ ?_
    · refine Keeps.trans ?_ (Chip.windowEnd_keeps ..) rfl
      exact h12
    · exact h12

theorem Chip.localSample_keeps (c) (a1) : Keeps 1030 c (Chip.localSample c a1) := by
  unfold Chip.localSample
  refine Keeps.ite ?_ ?_
  · refine Keeps.trans ?_ (Chip.chanSample_keeps ..) rfl
    exact Keeps.refl
  · exact Keeps.refl

theorem Chip.chanStart_keeps (c) (a1) (a2) : Keeps 1024 c (Chip.chanStart c a1 a2) := by
  unfold Chip.chanStart
  extract_lets z1 z2
  refine Keeps.trans ?_ (Chip.setChan_keeps ..) rfl
  exact Keeps.refl

theorem Chip.ageChans_keeps (c) (a1) : Keeps 1030 c (Chip.ageChans c a1) := by
  unfold Chip.ageChans
  refine Keeps.trans ?_ (Keeps.each (m := 1030) _ ?_ _ _) rfl
  · exact Keeps.refl
  · intro z1 z2
    extract_lets z3
    refine Keeps.ite ?_ ?_
    · refine Keeps.trans ?_ (Chip.chanSample_keeps ..) rfl
      exact Keeps.refl
    · exact Keeps.refl

theorem Chip.virtualSample_keeps (c) (a1) (a2) (a3) (a4) : Keeps 1028 c (Chip.virtualSample c a1 a2 a3 a4) := by
  unfold Chip.virtualSample
  extract_lets z1 z2 z3 z4 z5 z6 z7 z8 z9 z10 z11 z12 z13 z14
  have h15 : Keeps 1028 c z7 := by
    refine Keeps.ite ?_ ?_
    · refine Keeps.trans ?_ (Chip.chanSteps_keeps ..) rfl
      refine Keeps.trans ?_ (Chip.setChan_keeps ..) rfl
      exact Keeps.refl
    · refine Keeps.trans ?_ (Chip.setChan_keeps ..) rfl
      refine Keeps.trans ?_ (Chip.chanStart_keeps ..) rfl
      exact Keeps.refl
  clear_value z7
  have h16 : Keeps 1028 c z9 := by
    refine Keeps.trans ?_ (Chip.setChan_keeps ..) rfl
    exact h15
  clear_value z9
  have h17 : Keeps 1028 c z10 := by
    refine Keeps.trans ?_ (Chip.setReg_keeps ..) rfl
    refine Keeps.trans ?_ (Chip.setReg_keeps ..) rfl
    refine Keeps.trans ?_ (Chip.setReg_keeps ..) rfl
    refine Keeps.trans ?_ (Chip.setReg_keeps ..) rfl
    exact h16
  clear_value z10
  have h18 : Keeps 1028 c z11 := by
    refine Keeps.trans ?_ (Chip.setFld_keeps ..) rfl
    refine Keeps.trans ?_ (Chip.setFlag_keeps ..) rfl
    exact h17
  clear_value z11
  have h19 : Keeps 1028 c z13.1 := by
    refine Keeps.trans ?_ (Chip.clampSpeed_keeps ..) rfl
    exact h18
  clear_value z13
  have h20 : Keeps 1028 c z14 := by
    refine Keeps.trans ?_ (Chip.setFldI_keeps ..) rfl
    exact h19
  clear_value z14
  refine Keeps.trans ?_ (Chip.setFld_keeps ..) rfl
  refine Keeps.trans ?_ (Chip.setFlag_keeps ..) rfl
  refine Keeps.trans ?_ (Chip.setFlag_keeps ..) rfl
  exact h20

theorem Chip.virtualSamples_keeps (c) (a1) (a2) (a3) : Keeps 1028 c (Chip.virtualSamples c a1 a2 a3) := by
  unfold Chip.virtualSamples
  refine Keeps.trans ?_ (Keeps.each (m := 1028) _ ?_ _ _) rfl
  · exact Keeps.refl
  · intro z1 z2
    refine Keeps.ite ?_ ?_
    · refine Keeps.trans ?_ (Chip.virtualSample_keeps ..) rfl
      exact Keeps.refl
    · exact Keeps.refl

theorem Chip.setSer_keeps (c) (a1) (a2) : Keeps 1024 c (Chip.setSer c a1 a2) := by
  unfold Chip.setSer
  extract_lets z1
  refine Keeps.upd_pf ?_ rfl _
  exact Keeps.refl

theorem Chip.serStart_keeps (c) (a1) : Keeps 1024 c (Chip.serStart c a1) := by
  unfold Chip.serStart
  split
  · rename_i z1 z2
    exact Keeps.refl
  · rename_i z3 z4 z5 z6
    refine Keeps.ite ?_ ?_
    · refine Keeps.trans ?_ (Chip.setSer_keeps ..) rfl
      exact Keeps.refl
    · exact Keeps.refl

theorem Chip.serFail_keeps (c) (a1) (a2) (a3) (a4) : Keeps 1030 c (Chip.serFail c a1 a2 a3 a4) := by
  unfold Chip.serFail
  refine Keeps.trans ?_ (Chip.chanSample_keeps ..) rfl
  refine Keeps.trans ?_ (Chip.raise_keeps ..) rfl
  refine Keeps.trans ?_ (Chip.chanErr_keeps ..) rfl
  exact Keeps.refl

theorem Chip.serApply_keeps (c) (a1) (a2) (a3) (a4) : Keeps 1030 c (Chip.serApply c a1 a2 a3 a4) := by
  unfold Chip.serApply
  extract_lets z1 z2 z3 z4 z5 z6 z7 z8 z9 z10
  have h11 : Keeps 1030 c z7 := by
    refine Keeps.trans ?_ (Chip.setChan_keeps ..) rfl
    exact Keeps.refl
  clear_value z7
  have h12 : Keeps 1030 c z9 := by
    refine Keeps.trans ?_ (Chip.chanStart_keeps ..) rfl
    exact Keeps.refl
  clear_value z9
  refine Keeps.ite ?_ ?_
  · refine Keeps.ite ?_ ?_
    · refine Keeps.trans ?_ (Chip.serFail_keeps ..) rfl
      exact Keeps.refl
    · refine Keeps.trans ?_ (Chip.chanSample_keeps ..) rfl
      refine Keeps.trans ?_ (Chip.chanSteps_keeps ..) rfl
      exact h11
  · refine Keeps.trans ?_ (Chip.chanSample_keeps ..) rfl
    refine Keeps.trans ?_ (Chip.setChan_keeps ..) rfl
    exact h12

theorem Chip.serCheck_keeps (c) (a1) (a2) : Keeps 1030 c (Chip.serCheck c a1 a2) := by
  unfold Chip.serCheck
  split
  · rename_i z1 z2
    exact Keeps.refl
  · rename_i z3 z4 z5
    extract_lets z6 z7 z8 z9 z10 z11
    have h12 : Keeps 1030 c z6 := by
      refine Keeps.trans ?_ (Chip.setSer_keeps ..) rfl
      exact Keeps.refl
    clear_value z6
    refine Keeps.trans ?_ (Keeps.each (m := 1030) _ ?_ _ _) rfl
    · exact h12
    · intro z13 z14
      refine Keeps.ite ?_ ?_
      · refine Keeps.trans ?_ (Chip.serFail_keeps ..) rfl
        exact Keeps.refl
      · extract_lets z15
        have h16 : Keeps 1030 z13 z15 := by
          refine Keeps.ite ?_ ?_
          · refine Keeps.trans ?_ (Chip.raise_keeps ..) rfl
            exact Keeps.refl
          · exact Keeps.refl
        clear_value z15
        refine Keeps.trans ?_ (Chip.serApply_keeps ..) rfl
        exact h16

theorem Chip.serTimeout_keeps (c) (a1) : Keeps 1030 c (Chip.serTimeout c a1) := by
  unfold Chip.serTimeout
  split
  · rename_i z1 z2
    exact Keeps.refl
  · rename_i z3 z4 z5
    refine Keeps.ite ?_ ?_
    · refine Keeps.trans ?_ (Keeps.each (m := 1030) _ ?_ _ _) rfl
      · refine Keeps.trans ?_ (Chip.setSer_keeps ..) rfl
        exact Keeps.refl
      · intro z6 z7
        refine Keeps.trans ?_ (Chip.serFail_keeps ..) rfl
        exact Keeps.refl
    · exact Keeps.refl

theorem Chip.idxReset_keeps (c) (a1) (a2) (a3) : Keeps 1028 c (Chip.idxReset c a1 a2 a3) := by
  unfold Chip.idxReset
  extract_lets z1 z2 z3 z4 z5
  refine Keeps.trans ?_ (Chip.raise_keeps ..) rfl
  refine Keeps.trans ?_ (Chip.setChan_keeps ..) rfl
  exact Keeps.refl

theorem Chip.idxCheck_keeps (c) (a1) (a2) (a3) : Keeps 68 c (Chip.idxCheck c a1 a2 a3) := by
  unfold Chip.idxCheck
  extract_lets z1 z2
  have h3 : Keeps 68 c z1 := by
    refine Keeps.trans ?_ (Chip.raiseBit_keeps ..) rfl
    refine Keeps.trans ?_ (Chip.raise_keeps ..) rfl
    exact Keeps.refl
  clear_value z1
  have h4 : Keeps 68 c z2 := by
    refine Keeps.trans ?_ (Chip.count_keeps ..) rfl
    refine Keeps.trans ?_ (Chip.raise_keeps ..) rfl
    exact h3
  clear_value z2
  refine Keeps.ite ?_ ?_
  · refine Keeps.trans ?_ (Chip.logEvent_keeps ..) rfl
    exact h4
  · exact Keeps.refl

theorem Chip.idxEvent_keeps (c) (a1) (a2) (a3) : Keeps 1092 c (Chip.idxEvent c a1 a2 a3) := by
  unfold Chip.idxEvent
  extract_lets z1 z2 z3
  have h4 : Keeps 1092 c z2 := by
    refine Keeps.trans ?_ (Chip.setFldI_keeps ..) rfl
    refine Keeps.trans ?_ (Chip.setFld_keeps ..) rfl
    exact Keeps.refl
  clear_value z2
  split
  · rename_i z5 z6
    refine Keeps.trans ?_ (Chip.idxCheck_keeps ..) rfl
    exact h4
  · rename_i z7 z8
    refine Keeps.ite ?_ ?_
    · refine Keeps.trans ?_ (Chip.idxReset_keeps ..) rfl
      exact h4
    · refine Keeps.trans ?_ (Chip.idxCheck_keeps ..) rfl
      exact h4
  · rename_i z9 z10
    refine Keeps.ite ?_ ?_
    · refine Keeps.trans ?_ (Chip.setFld_keeps ..) rfl
      refine Keeps.trans ?_ (Chip.idxReset_keeps ..) rfl
      exact h4
    · refine Keeps.trans ?_ (Chip.idxCheck_keeps ..) rfl
      exact h4
  · rename_i z11 z12 z13 z14
    exact h4

theorem Chip.posRej_keeps (c) : Keeps 4 c (Chip.posRej c) := by
  unfold Chip.posRej
  refine Keeps.trans ?_ (Chip.raise_keeps ..) rfl
  exact Keeps.refl

theorem Chip.chanReinit_keeps (c) (a1) : Keeps 1028 c (Chip.chanReinit c a1) := by
  unfold Chip.chanReinit
  extract_lets z1 z2 z3 z4
  have h5 : Keeps 1028 c z2 := by
    refine Keeps.trans ?_ (Chip.setChan_keeps ..) rfl
    exact Keeps.refl
  clear_value z2
  have h6 : Keeps 1028 c z3 := by
    refine Keeps.trans ?_ (Chip.setReg_keeps ..) rfl
    refine Keeps.trans ?_ (Chip.setReg_keeps ..) rfl
    refine Keeps.trans ?_ (Chip.setReg_keeps ..) rfl
    refine Keeps.trans ?_ (Chip.setReg_keeps ..) rfl
    exact h5
  clear_value z3
  have h7 : Keeps 1028 c z4 := by
    refine Keeps.trans ?_ (Chip.setFld_keeps ..) rfl
    refine Keeps.trans ?_ (Chip.setFld_keeps ..) rfl
    refine Keeps.trans ?_ (Chip.setReg_keeps ..) rfl
    exact h6
  clear_value z4
  refine Keeps.trans ?_ (Chip.setFld_keeps ..) rfl
  refine Keeps.trans ?_ (Chip.setFld_keeps ..) rfl
  refine Keeps.trans ?_ (Chip.setFld_keeps ..) rfl
  exact h7

theorem Chip.posWrite_keeps (c) (a1) (a2) : KeepsO 1036 c (Chip.posWrite c a1 a2) := by
  unfold Chip.posWrite
  extract_lets z1 z2
  have h3 : ∀ v0, Keeps 1036 v0 (z2 v0) := by
    intro z49
    dsimp only [z2]
    refine Keeps.trans ?_ (Chip.writeBits_keeps ..) rfl
    exact Keeps.refl
  clear_value z2
  split
  · rename_i z4 z5 z6
    dsimp only [z1]
    refine KeepsO.some ?_
    refine Keeps.ite ?_ ?_
    · refine Keeps.ite ?_ ?_
      · refine Keeps.trans ?_ (h3 ..) rfl
        exact Keeps.refl
      · refine Keeps.trans ?_ (Chip.chanReinit_keeps ..) rfl
        refine Keeps.trans ?_ (h3 ..) rfl
        exact Keeps.refl
    · refine Keeps.trans ?_ (Chip.posRej_keeps ..) rfl
      exact Keeps.refl
  · rename_i z7 z8
    split
    · rename_i z9 z10 z11
      dsimp only [z1]
      refine KeepsO.some ?_
      refine Keeps.ite ?_ ?_
      · refine Keeps.ite ?_ ?_
        · refine Keeps.trans ?_ (h3 ..) rfl
          exact Keeps.refl
        · refine Keeps.trans ?_ (Chip.chanReinit_keeps ..) rfl
          refine Keeps.trans ?_ (h3 ..) rfl
          exact Keeps.refl
      · refine Keeps.trans ?_ (Chip.posRej_keeps ..) rfl
        exact Keeps.refl
    · rename_i z12 z13
      split
      · rename_i z14 z15 z16
        dsimp only [z1]
        refine KeepsO.some ?_
        refine Keeps.ite ?_ ?_
        · refine Keeps.trans ?_ (h3 ..) rfl
          exact Keeps.refl
        · refine Keeps.trans ?_ (Chip.posRej_keeps ..) rfl
          exact Keeps.refl
      · rename_i z17 z18
        split
        · rename_i z19 z20 z21
          dsimp only [z1]
          refine KeepsO.some ?_
          refine Keeps.ite ?_ ?_
          · refine Keeps.trans ?_ (h3 ..) rfl
            exact Keeps.refl
          · refine Keeps.trans ?_ (Chip.posRej_keeps ..) rfl
            exact Keeps.refl
        · rename_i z22 z23
          split
          · rename_i z24 z25 z26
            refine KeepsO.ite ?_ ?_
            · dsimp only [z1]
              refine KeepsO.some ?_
              refine Keeps.ite ?_ ?_
              · refine Keeps.ite ?_ ?_
                · refine Keeps.trans ?_ (Chip.setFld_keeps ..) rfl
                  exact Keeps.refl
                · exact Keeps.refl
              · refine Keeps.trans ?_ (Chip.posRej_keeps ..) rfl
                exact Keeps.refl
            · refine KeepsO.some ?_
              exact Keeps.refl
          · rename_i z27 z28
            split
            · rename_i z29 z30 z31
              dsimp only [z1]
              refine KeepsO.some ?_
              refine Keeps.ite ?_ ?_
              · refine Keeps.trans ?_ (h3 ..) rfl
                exact Keeps.refl
              · refine Keeps.trans ?_ (Chip.posRej_keeps ..) rfl
                exact Keeps.refl
            · rename_i z32 z33
              split
              · rename_i z34 z35 z36
                dsimp only [z1]
                refine KeepsO.some ?_
                refine Keeps.ite ?_ ?_
                · refine Keeps.trans ?_ (h3 ..) rfl
                  exact Keeps.refl
                · refine Keeps.trans ?_ (Chip.posRej_keeps ..) rfl
                  exact Keeps.refl
              · rename_i z37 z38
                refine KeepsO.ite ?_ ?_
                · dsimp only [z1]
                  refine KeepsO.some ?_
                  refine Keeps.ite ?_ ?_
                  · refine Keeps.trans ?_ (h3 ..) rfl
                    exact Keeps.refl
                  · refine Keeps.trans ?_ (Chip.posRej_keeps ..) rfl
                    exact Keeps.refl
                · split
                  · rename_i z39 z40 z41
                    dsimp only [z1]
                    refine KeepsO.some ?_
                    refine Keeps.ite ?_ ?_
                    · refine Keeps.ite ?_ ?_
                      · refine Keeps.trans ?_ (Chip.pdSet_keeps ..) rfl
                        refine Keeps.trans ?_ (h3 ..) rfl
                        exact Keeps.refl
                      · refine Keeps.trans ?_ (Chip.pdShow_keeps ..) rfl
                        refine Keeps.trans ?_ (h3 ..) rfl
                        exact Keeps.refl
                    · refine Keeps.trans ?_ (Chip.posRej_keeps ..) rfl
                      exact Keeps.refl
                  · rename_i z42 z43
                    split
                    · rename_i z44 z45 z46
                      dsimp only [z1]
                      refine KeepsO.some ?_
                      refine Keeps.ite ?_ ?_
                      · refine Keeps.trans ?_ (h3 ..) rfl
                        exact Keeps.refl
                      · refine Keeps.trans ?_ (Chip.posRej_keeps ..) rfl
                        exact Keeps.refl
                    · rename_i z47 z48
                      refine KeepsO.ite ?_ ?_
                      · dsimp only [z1]
                        refine KeepsO.some ?_
                        refine Keeps.ite ?_ ?_
                        · refine Keeps.trans ?_ (h3 ..) rfl
                          exact Keeps.refl
                        · refine Keeps.trans ?_ (Chip.posRej_keeps ..) rfl
                          exact Keeps.refl
                      · exact KeepsO.none

theorem Chip.setChain_keeps (c) (a1) : Keeps 1024 c (Chip.setChain c a1) := by
  unfold Chip.setChain
  extract_lets z1
  refine Keeps.upd_pf ?_ rfl _
  exact Keeps.refl

theorem Chip.chainNow_keeps (c) : Keeps 1024 c (Chip.chainNow c) := by
  unfold Chip.chainNow
  extract_lets z1
  refine Keeps.trans ?_ (Chip.setChain_keeps ..) rfl
  exact Keeps.refl

theorem Chip.anchor_keeps (c) (a1) (a2) : Keeps 1028 c (Chip.anchor c a1 a2) := by
  unfold Chip.anchor
  extract_lets z1 z2 z3 z4 z5 z6 z7 z8 z9
  have h10 : Keeps 1028 c z1 := by
    refine Keeps.trans ?_ (Chip.chainNow_keeps ..) rfl
    exact Keeps.refl
  clear_value z1
  have h11 : Keeps 1028 c z5 := by
    refine Keeps.trans ?_ (Chip.setChain_keeps ..) rfl
    exact h10
  clear_value z5
  have h12 : Keeps 1028 c z6 := by
    refine Keeps.trans ?_ (Chip.setReg_keeps ..) rfl
    exact h11
  clear_value z6
  have h13 : Keeps 1028 c z9 := by
    refine Keeps.trans ?_ (Chip.setChain_keeps ..) rfl
    exact h12
  clear_value z9
  refine Keeps.trans ?_ (Chip.setFld_keeps ..) rfl
  refine Keeps.trans ?_ (Chip.setFld_keeps ..) rfl
  refine Keeps.trans ?_ (Chip.setFld_keeps ..) rfl
  refine Keeps.trans ?_ (Chip.setFld_keeps ..) rfl
  exact h13

theorem Chip.revCheck_keeps (c) : Keeps 33555460 c (Chip.revCheck c) := by
  unfold Chip.revCheck
  extract_lets z1 z2 z3
  refine Keeps.ite ?_ ?_
  · refine Keeps.trans ?_ (Chip.sysEvent_keeps ..) rfl
    refine Keeps.trans ?_ (Chip.raise_keeps ..) rfl
    refine Keeps.trans ?_ (Chip.setChain_keeps ..) rfl
    exact Keeps.refl
  · exact Keeps.refl

theorem Chip.backEdge_keeps (c) (a1) : Keeps 33559556 c (Chip.backEdge c a1) := by
  unfold Chip.backEdge
  extract_lets z1 z2 z3 z4
  have h5 : Keeps 33559556 c z1 := by
    refine Keeps.trans ?_ (Chip.chainNow_keeps ..) rfl
    exact Keeps.refl
  clear_value z1
  have h6 : Keeps 33559556 c z3 := by
    refine Keeps.trans ?_ (Chip.setReg_keeps ..) rfl
    refine Keeps.trans ?_ (Chip.setChain_keeps ..) rfl
    exact h5
  clear_value z3
  have h7 : Keeps 33559556 c z4 := by
    refine Keeps.ite ?_ ?_
    · exact Keeps.refl
    · refine Keeps.trans ?_ (Chip.reverseHold_keeps ..) rfl
      refine Keeps.trans ?_ (Chip.sysEvent_keeps ..) rfl
      refine Keeps.trans ?_ (Chip.raise_keeps ..) rfl
      exact h6
  clear_value z4
  refine Keeps.trans ?_ (Chip.revCheck_keeps ..) rfl
  refine Keeps.trans ?_ (Chip.setFld_keeps ..) rfl
  exact h7

theorem Chip.planRelatch_keeps (c) (a1) : Keeps 16384 c (Chip.planRelatch c a1) := by
  unfold Chip.planRelatch
  refine Keeps.ite ?_ ?_
  · refine Keeps.upd_plan ?_ rfl _
    exact Keeps.refl
  · exact Keeps.refl

theorem Chip.segRelatch_keeps (c) (a1) (a2) (a3) : Keeps 2101252 c (Chip.segRelatch c a1 a2 a3) := by
  unfold Chip.segRelatch
  split
  · rename_i z1 z2 z3 z4
    refine Keeps.ite ?_ ?_
    · refine Keeps.trans ?_ (Chip.ledger_keeps ..) rfl
      refine Keeps.trans ?_ (Chip.setQueue_keeps ..) rfl
      exact Keeps.refl
    · exact Keeps.refl
  · rename_i z5 z6
    exact Keeps.refl

theorem Chip.queuesRelatch_keeps (c) (a1) (a2) : Keeps 2101252 c (Chip.queuesRelatch c a1 a2) := by
  unfold Chip.queuesRelatch
  refine Keeps.ite ?_ ?_
  · refine Keeps.trans ?_ (Keeps.each (m := 2101252) _ ?_ _ _) rfl
    · exact Keeps.refl
    · intro z1 z2
      refine Keeps.trans ?_ (Chip.segMove_keeps ..) rfl
      refine Keeps.trans ?_ (Chip.segRelatch_keeps ..) rfl
      exact Keeps.refl
  · exact Keeps.refl

theorem Chip.relatch_keeps (c) : Keeps 6313220 c (Chip.relatch c) := by
  unfold Chip.relatch
  extract_lets z1 z2 z3 z4
  have h5 : Keeps 6313220 c z4 := by
    refine Keeps.upd_pndAll ?_ rfl rfl _
    exact Keeps.refl
  clear_value z4
  refine Keeps.ite ?_ ?_
  · refine Keeps.trans ?_ (Chip.virtualSamples_keeps ..) rfl
    refine Keeps.trans ?_ (Chip.planRelatch_keeps ..) rfl
    refine Keeps.trans ?_ (Chip.queuesRelatch_keeps ..) rfl
    exact h5
  · exact Keeps.refl

theorem Chip.beltEdge_keeps (c) (a1) (a2) : Keeps 39867652 c (Chip.beltEdge c a1 a2) := by
  unfold Chip.beltEdge
  refine Keeps.ite ?_ ?_
  · extract_lets z1 z2
    refine Keeps.ite ?_ ?_
    · refine Keeps.trans ?_ (Chip.relatch_keeps ..) rfl
      refine Keeps.trans ?_ (Chip.anchor_keeps ..) rfl
      exact Keeps.refl
    · refine Keeps.ite ?_ ?_
      · refine Keeps.trans ?_ (Chip.backEdge_keeps ..) rfl
        exact Keeps.refl
      · refine Keeps.ite ?_ ?_
        · refine Keeps.trans ?_ (Chip.setFld_keeps ..) rfl
          exact Keeps.refl
        · exact Keeps.refl
  · exact Keeps.refl

theorem Chip.chainStill_keeps (c) : Keeps 33555460 c (Chip.chainStill c) := by
  unfold Chip.chainStill
  extract_lets z1 z2 z3
  have h4 : Keeps 33555460 c z1 := by
    refine Keeps.trans ?_ (Chip.chainNow_keeps ..) rfl
    exact Keeps.refl
  clear_value z1
  have h5 : Keeps 33555460 c z3 := by
    refine Keeps.trans ?_ (Chip.setReg_keeps ..) rfl
    refine Keeps.trans ?_ (Chip.setChain_keeps ..) rfl
    exact h4
  clear_value z3
  refine Keeps.ite ?_ ?_
  · refine Keeps.trans ?_ (Chip.sysEvent_keeps ..) rfl
    refine Keeps.trans ?_ (Chip.raise_keeps ..) rfl
    exact h5
  · exact Keeps.refl

theorem Chip.chainRise_keeps (c) : Keeps 1028 c (Chip.chainRise c) := by
  unfold Chip.chainRise
  extract_lets z1 z2 z3 z4
  have h5 : Keeps 1028 c z4 := by
    refine Keeps.trans ?_ (Chip.setChain_keeps ..) rfl
    exact Keeps.refl
  clear_value z4
  refine Keeps.ite ?_ ?_
  · refine Keeps.trans ?_ (Keeps.each (m := 1028) _ ?_ _ _) rfl
    · exact h5
    · intro z6 z7
      refine Keeps.ite ?_ ?_
      · refine Keeps.trans ?_ (Chip.pdSteps_keeps ..) rfl
        exact Keeps.refl
      · exact Keeps.refl
  · exact Keeps.refl

theorem Chip.chainSet_keeps (c) (a1) (a2) : Keeps 1036 c (Chip.chainSet c a1 a2) := by
  unfold Chip.chainSet
  extract_lets z1 z2 z3
  have h4 : Keeps 1036 c z2 := by
    refine Keeps.trans ?_ (Chip.setReg_keeps ..) rfl
    refine Keeps.trans ?_ (Chip.setChain_keeps ..) rfl
    exact Keeps.refl
  clear_value z2
  have h5 : Keeps 1036 c z3 := by
    refine Keeps.ite ?_ ?_
    · refine Keeps.trans ?_ (Chip.setFld_keeps ..) rfl
      exact h4
    · exact h4
  clear_value z3
  refine Keeps.trans ?_ (Chip.pdChainSet_keeps ..) rfl
  exact h5

theorem Chip.alignCheck_keeps (c) (a1) : Keeps 33554436 c (Chip.alignCheck c a1) := by
  unfold Chip.alignCheck
  extract_lets z1 z2 z3 z4
  have h5 : Keeps 33554436 c z4 := by
    refine Keeps.trans ?_ (Chip.setFldI_keeps ..) rfl
    exact Keeps.refl
  clear_value z4
  refine Keeps.ite ?_ ?_
  · refine Keeps.trans ?_ (Chip.sysEvent_keeps ..) rfl
    refine Keeps.trans ?_ (Chip.raise_keeps ..) rfl
    exact h5
  · exact h5

theorem Chip.beltIndex_keeps (c) (a1) (a2) : Keeps 33555468 c (Chip.beltIndex c a1 a2) := by
  unfold Chip.beltIndex
  extract_lets z1
  have h2 : Keeps 33555468 c z1 := by
    dsimp only [z1]
    split
    · rename_i z3 z4
      exact Keeps.refl
    · rename_i z5 z6 z7
      refine Keeps.trans ?_ (Chip.raise_keeps ..) rfl
      refine Keeps.trans ?_ (Chip.setFld_keeps ..) rfl
      refine Keeps.trans ?_ (Chip.setChain_keeps ..) rfl
      refine Keeps.trans ?_ (Chip.chainSet_keeps ..) rfl
      exact Keeps.refl
  clear_value z1
  refine Keeps.ite ?_ ?_
  · refine Keeps.trans ?_ (Chip.alignCheck_keeps ..) rfl
    exact h2
  · exact Keeps.refl

theorem Chip.indexEvent_keeps (c) (a1) : Keeps 33555532 c (Chip.indexEvent c a1) := by
  unfold Chip.indexEvent
  extract_lets z1 z2
  have h3 : Keeps 33555532 c z2 := by
    refine Keeps.trans ?_ (Chip.setChan_keeps ..) rfl
    exact Keeps.refl
  clear_value z2
  split
  · rename_i z4 z5
    exact Keeps.refl
  · rename_i z6 z7 z8
    refine Keeps.trans ?_ (Chip.idxEvent_keeps ..) rfl
    refine Keeps.trans ?_ (Chip.beltIndex_keeps ..) rfl
    exact h3

theorem Chip.abzEdge_keeps (c) (a1) (a2) (a3) (a4) : Keeps 39867652 c (Chip.abzEdge c a1 a2 a3 a4) := by
  unfold Chip.abzEdge
  extract_lets z1 z2 z3 z4
  have h5 : Keeps 39867652 c z4 := by
    refine Keeps.upd_pf ?_ rfl _
    exact Keeps.refl
  clear_value z4
  refine Keeps.trans ?_ (Keeps.each (m := 39867652) _ ?_ _ _) rfl
  · exact h5
  · intro z6 z7
    extract_lets z8 z9
    have h10 : Keeps 39867652 z6 z9 := by
      refine Keeps.trans ?_ (Chip.abzChan_keeps ..) rfl
      exact Keeps.refl
    clear_value z9
    refine Keeps.ite ?_ ?_
    · exact h10
    · refine Keeps.trans ?_ (Chip.beltEdge_keeps ..) rfl
      exact h10

theorem Chip.serCheckBelt_keeps (c) (a1) (a2) : Keeps 39867654 c (Chip.serCheckBelt c a1 a2) := by
  unfold Chip.serCheckBelt
  extract_lets z1 z2 z3
  have h4 : Keeps 39867654 c z3 := by
    refine Keeps.trans ?_ (Chip.serCheck_keeps ..) rfl
    exact Keeps.refl
  clear_value z3
  refine Keeps.ite ?_ ?_
  · exact h4
  · refine Keeps.trans ?_ (Chip.beltEdge_keeps ..) rfl
    exact h4

theorem Chip.chnWrite_keeps (c) (a1) (a2) : KeepsO 33555468 c (Chip.chnWrite c a1 a2) := by
  unfold Chip.chnWrite
  extract_lets z1 z2 z3 z4 z5 z6 z7 z8 z9 z10
  have h11 : Keeps 33555468 c z1 := by
    refine Keeps.trans ?_ (Chip.raise_keeps ..) rfl
    exact Keeps.refl
  clear_value z1
  have h12 : Keeps 33555468 c z4 := by
    refine Keeps.trans ?_ (Chip.writeBits_keeps ..) rfl
    refine Keeps.trans ?_ (Chip.chainNow_keeps ..) rfl
    exact Keeps.refl
  clear_value z4
  have h13 : Keeps 33555468 c z6 := by
    refine Keeps.trans ?_ (Chip.setFld_keeps ..) rfl
    refine Keeps.trans ?_ (Chip.setChain_keeps ..) rfl
    exact h12
  clear_value z6
  have h14 : Keeps 33555468 c z7 := by
    refine Keeps.trans ?_ (Chip.chainSet_keeps ..) rfl
    exact h13
  clear_value z7
  have h15 : Keeps 33555468 c z9 := by
    refine Keeps.trans ?_ (Chip.setChain_keeps ..) rfl
    exact h14
  clear_value z9
  have h16 : Keeps 33555468 c z10 := by
    refine Keeps.trans ?_ (Chip.setFld_keeps ..) rfl
    refine Keeps.trans ?_ (Chip.setFld_keeps ..) rfl
    exact h15
  clear_value z10
  refine KeepsO.ite ?_ ?_
  · refine KeepsO.ite ?_ ?_
    · refine KeepsO.some ?_
      exact h11
    · refine KeepsO.ite ?_ ?_
      · refine KeepsO.ite ?_ ?_
        · refine KeepsO.some ?_
          refine Keeps.trans ?_ (Chip.setFld_keeps ..) rfl
          refine Keeps.trans ?_ (Chip.setFld_keeps ..) rfl
          refine Keeps.trans ?_ (Chip.setFld_keeps ..) rfl
          exact h16
        · refine KeepsO.some ?_
          refine Keeps.trans ?_ (Chip.setReg_keeps ..) rfl
          refine Keeps.trans ?_ (Chip.setFld_keeps ..) rfl
          exact h13
      · refine KeepsO.some ?_
        exact h12
  · refine KeepsO.ite ?_ ?_
    · refine KeepsO.ite ?_ ?_
      · refine KeepsO.some ?_
        exact h11
      · refine KeepsO.some ?_
        refine Keeps.trans ?_ (Chip.writeBits_keeps ..) rfl
        exact Keeps.refl
    · refine KeepsO.ite ?_ ?_
      · refine KeepsO.some ?_
        refine Keeps.trans ?_ (Chip.revCheck_keeps ..) rfl
        refine Keeps.trans ?_ (Chip.writeBits_keeps ..) rfl
        exact Keeps.refl
      · exact KeepsO.none

theorem Chip.chainAlign_keeps (c) (a1) : Keeps 1028 c (Chip.chainAlign c a1).1 := by
  unfold Chip.chainAlign
  extract_lets z1 z2
  refine Keeps.ite1 ?_ ?_
  · exact Keeps.refl
  · refine Keeps.ite1 ?_ ?_
    · exact Keeps.refl
    · refine Keeps.ite1 ?_ ?_
      · exact Keeps.refl
      · refine Keeps.trans ?_ (Chip.raise_keeps ..) rfl
        refine Keeps.trans ?_ (Chip.setChain_keeps ..) rfl
        exact Keeps.refl

theorem Chip.setPoll_keeps (c) (a1) (a2) : Keeps 262144 c (Chip.setPoll c a1 a2) := by
  unfold Chip.setPoll
  extract_lets z1
  refine Keeps.upd_tow ?_ rfl _
  exact Keeps.refl

theorem Chip.setPort_keeps (c) (a1) (a2) : Keeps 262144 c (Chip.setPort c a1 a2) := by
  unfold Chip.setPort
  extract_lets z1
  refine Keeps.upd_tow ?_ rfl _
  exact Keeps.refl

theorem Chip.setBarge_keeps (c) (a1) (a2) : Keeps 262144 c (Chip.setBarge c a1 a2) := by
  unfold Chip.setBarge
  extract_lets z1
  refine Keeps.upd_tow ?_ rfl _
  exact Keeps.refl

theorem Chip.towSend_keeps (c) (a1) (a2) (a3) (a4) (a5) (a6) : Keeps 262152 c (Chip.towSend c a1 a2 a3 a4 a5 a6).1 := by
  unfold Chip.towSend
  extract_lets z1 z2 z3 z4 z5 z6 z7
  have h8 : Keeps 262152 c z7 := by
    refine Keeps.trans ?_ (Chip.setPort_keeps ..) rfl
    exact Keeps.refl
  clear_value z7
  refine Keeps.trans ?_ (Chip.emit_keeps ..) rfl
  exact h8

theorem Chip.refSend_keeps (c) (a1) : Keeps 262152 c (Chip.refSend c a1) := by
  unfold Chip.refSend
  extract_lets z1 z2
  refine Keeps.trans ?_ (Chip.towSend_keeps ..) rfl
  exact Keeps.refl

theorem Chip.towReferences_keeps (c) : Keeps 262152 c (Chip.towReferences c) := by
  unfold Chip.towReferences
  refine Keeps.trans ?_ (Keeps.each (m := 262152) _ ?_ _ _) rfl
  · exact Keeps.refl
  · intro z1 z2
    refine Keeps.ite ?_ ?_
    · refine Keeps.ite ?_ ?_
      · refine Keeps.trans ?_ (Chip.refSend_keeps ..) rfl
        exact Keeps.refl
      · refine Keeps.trans ?_ (Chip.setPort_keeps ..) rfl
        exact Keeps.refl
    · exact Keeps.refl

theorem Chip.rxDisc_keeps (c) (a1) : Keeps 4 c (Chip.rxDisc c a1) := by
  unfold Chip.rxDisc
  refine Keeps.trans ?_ (Chip.count_keeps ..) rfl
  exact Keeps.refl

theorem Chip.abortFrames_keeps (c) : Keeps 262152 c (Chip.abortFrames c) := by
  unfold Chip.abortFrames
  refine Keeps.trans ?_ (Keeps.each (m := 262152) _ ?_ _ _) rfl
  · exact Keeps.refl
  · intro z1 z2
    extract_lets z3
    refine Keeps.ite ?_ ?_
    · refine Keeps.trans ?_ (Chip.emit_keeps ..) rfl
      refine Keeps.trans ?_ (Chip.setPort_keeps ..) rfl
      exact Keeps.refl
    · exact Keeps.refl

theorem Chip.towYield_keeps (c) : Keeps 262156 c (Chip.towYield c) := by
  unfold Chip.towYield
  refine Keeps.ite ?_ ?_
  · exact Keeps.refl
  · refine Keeps.trans ?_ (Chip.abortFrames_keeps ..) rfl
    refine Keeps.trans ?_ (Chip.raise_keeps ..) rfl
    refine Keeps.trans ?_ (Chip.raise_keeps ..) rfl
    exact Keeps.refl

theorem Chip.foreign_keeps (c) (a1) (a2) (a3) : Keeps 262220 c (Chip.foreign c a1 a2 a3) := by
  unfold Chip.foreign
  extract_lets z1 z2
  have h3 : Keeps 262220 c z1 := by
    refine Keeps.trans ?_ (Chip.raise_keeps ..) rfl
    refine Keeps.trans ?_ (Chip.raise_keeps ..) rfl
    exact Keeps.refl
  clear_value z1
  have h4 : Keeps 262220 c z2 := by
    refine Keeps.ite ?_ ?_
    · refine Keeps.trans ?_ (Chip.towYield_keeps ..) rfl
      exact h3
    · exact h3
  clear_value z2
  refine Keeps.trans ?_ (Chip.logEvent_keeps ..) rfl
  exact h4

theorem Chip.reference_keeps (c) (a1) (a2) : Keeps 262220 c (Chip.reference c a1 a2) := by
  unfold Chip.reference
  refine Keeps.ite ?_ ?_
  · exact Keeps.refl
  · refine Keeps.ite ?_ ?_
    · refine Keeps.trans ?_ (Chip.rxDisc_keeps ..) rfl
      exact Keeps.refl
    · refine Keeps.ite ?_ ?_
      · exact Keeps.refl
      · extract_lets z1 z2 z3 z4 z5
        have h6 : Keeps 262220 c z2 := by
          refine Keeps.trans ?_ (Keeps.onlyIf (m := 262220) _ ?_ _ _) rfl
          · exact Keeps.refl
          · intro z7
            refine Keeps.trans ?_ (Chip.setPort_keeps ..) rfl
            exact Keeps.refl
        clear_value z2
        refine Keeps.ite ?_ ?_
        · refine Keeps.ite ?_ ?_
          · refine Keeps.trans ?_ (Chip.foreign_keeps ..) rfl
            refine Keeps.trans ?_ (Chip.raise_keeps ..) rfl
            exact h6
          · refine Keeps.ite ?_ ?_
            · refine Keeps.trans ?_ (Chip.foreign_keeps ..) rfl
              exact h6
            · refine Keeps.trans ?_ (Chip.foreign_keeps ..) rfl
              refine Keeps.trans ?_ (Chip.count_keeps ..) rfl
              exact h6
        · exact h6

theorem Chip.auxAge_keeps (c) (a1) (a2) : Keeps 262144 c (Chip.auxAge c a1 a2) := by
  unfold Chip.auxAge
  extract_lets z1
  refine Keeps.ite ?_ ?_
  · exact Keeps.refl
  · refine Keeps.trans ?_ (Chip.setAuxW_keeps ..) rfl
    exact Keeps.refl

theorem Chip.idleChans_keeps (c) (a1) : Keeps 1030 c (Chip.idleChans c a1) := by
  unfold Chip.idleChans
  refine Keeps.trans ?_ (Keeps.each (m := 1030) _ ?_ _ _) rfl
  · exact Keeps.refl
  · intro z1 z2
    extract_lets z3
    refine Keeps.ite ?_ ?_
    · refine Keeps.trans ?_ (Chip.chanSample_keeps ..) rfl
      exact Keeps.refl
    · exact Keeps.refl

theorem Chip.entryAge_keeps (c) (a1) : Keeps 263174 c (Chip.entryAge c a1) := by
  unfold Chip.entryAge
  extract_lets z1
  refine Keeps.trans ?_ (Keeps.each (m := 263174) _ ?_ _ _) rfl
  · exact Keeps.refl
  · intro z2 z3
    extract_lets z4
    split
    · rename_i z5 z6
      refine Keeps.ite ?_ ?_
      · refine Keeps.trans ?_ (Chip.chanSample_keeps ..) rfl
        exact Keeps.refl
      · exact Keeps.refl
    · rename_i z7 z8
      refine Keeps.trans ?_ (Keeps.each (m := 263174) _ ?_ _ _) rfl
      · exact Keeps.refl
      · intro z9 z10
        refine Keeps.trans ?_ (Chip.auxAge_keeps ..) rfl
        exact Keeps.refl
    · rename_i z11 z12 z13
      exact Keeps.refl

theorem Chip.auxBoundary_keeps (c) (a1) : Keeps 262144 c (Chip.auxBoundary c a1) := by
  unfold Chip.auxBoundary
  refine Keeps.trans ?_ (Keeps.each (m := 262144) _ ?_ _ _) rfl
  · exact Keeps.refl
  · intro z1 z2
    refine Keeps.trans ?_ (Chip.auxAge_keeps ..) rfl
    exact Keeps.refl

theorem Chip.refRelease_keeps (c) (a1) : Keeps 262152 c (Chip.refRelease c a1) := by
  unfold Chip.refRelease
  refine Keeps.ite ?_ ?_
  · refine Keeps.trans ?_ (Chip.refSend_keeps ..) rfl
    refine Keeps.trans ?_ (Chip.setPort_keeps ..) rfl
    exact Keeps.refl
  · exact Keeps.refl

theorem Chip.lateDone_keeps (c) (a1) (a2) : Keeps 262152 c (Chip.lateDone c a1 a2) := by
  unfold Chip.lateDone
  refine Keeps.ite ?_ ?_
  · exact Keeps.refl
  · refine Keeps.trans ?_ (Chip.refRelease_keeps ..) rfl
    refine Keeps.trans ?_ (Chip.setPort_keeps ..) rfl
    exact Keeps.refl

theorem Chip.pollSend_keeps (c) (a1) (a2) : Keeps 262156 c (Chip.pollSend c a1 a2) := by
  unfold Chip.pollSend
  extract_lets z1 z2 z3 z4 z5 z6
  have h7 : Keeps 262156 c z3 := by
    refine Keeps.trans ?_ (Chip.refRelease_keeps ..) rfl
    exact Keeps.refl
  clear_value z3
  have h8 : Keeps 262156 c z6 := by
    refine Keeps.ite ?_ ?_
    · refine Keeps.trans ?_ (Chip.setBarge_keeps ..) rfl
      exact h7
    · exact h7
  clear_value z6
  split
  · rename_i z9 z10
    exact h7
  · rename_i z11 z12 z13 z14
    refine Keeps.ite ?_ ?_
    · extract_lets z15
      have h16 : Keeps 262156 c z15 := by
        dsimp only [z15]
        split
        · rename_i z17 z18
          refine Keeps.trans ?_ (Chip.setPoll_keeps ..) rfl
          refine Keeps.trans ?_ (Chip.count_keeps ..) rfl
          exact h8
        · rename_i z19 z20 z21
          refine Keeps.trans ?_ (Chip.setPoll_keeps ..) rfl
          refine Keeps.trans ?_ (Chip.towSend_keeps ..) rfl
          refine Keeps.ite ?_ ?_
          · exact h8
          · refine Keeps.trans ?_ (Chip.count_keeps ..) rfl
            exact h8
      clear_value z15
      refine Keeps.trans ?_ (Chip.lateDone_keeps ..) rfl
      exact h16
    · exact h7

theorem Chip.unpolledAge_keeps (c) (a1) : Keeps 263174 c (Chip.unpolledAge c a1) := by
  unfold Chip.unpolledAge
  extract_lets z1 z2
  refine Keeps.ite ?_ ?_
  · refine Keeps.trans ?_ (Chip.entryAge_keeps ..) rfl
    exact Keeps.refl
  · exact Keeps.refl

theorem Chip.windowClose_keeps (c) (a1) : Keeps 263174 c (Chip.windowClose c a1) := by
  unfold Chip.windowClose
  extract_lets z1 z2 z3
  have h4 : Keeps 263174 c z3 := by
    refine Keeps.trans ?_ (Chip.count_keeps ..) rfl
    refine Keeps.trans ?_ (Chip.setPoll_keeps ..) rfl
    exact Keeps.refl
  clear_value z3
  refine Keeps.ite ?_ ?_
  · refine Keeps.ite ?_ ?_
    · refine Keeps.trans ?_ (Chip.setFld_keeps ..) rfl
      exact h4
    · refine Keeps.trans ?_ (Chip.entryAge_keeps ..) rfl
      exact h4
  · refine Keeps.trans ?_ (Chip.unpolledAge_keeps ..) rfl
    exact Keeps.refl

theorem Chip.posItem_keeps (c) (a1) (a2) (a3) (a4) : Keeps 39867654 c (Chip.posItem c a1 a2 a3 a4) := by
  unfold Chip.posItem
  refine Keeps.ite ?_ ?_
  · extract_lets z1 z2 z3 z4 z5 z6 z7 z8 z9 z10 z11 z12 z13 z14 z15
    have h16 : Keeps 39867654 c z6 := by
      refine Keeps.trans ?_ (Chip.setChan_keeps ..) rfl
      exact Keeps.refl
    clear_value z6
    have h17 : Keeps 39867654 c z8 := by
      refine Keeps.trans ?_ (Chip.chanSteps_keeps ..) rfl
      exact h16
    clear_value z8
    have h18 : Keeps 39867654 c z9 := by
      refine Keeps.trans ?_ (Chip.chanStart_keeps ..) rfl
      exact Keeps.refl
    clear_value z9
    have h19 : Keeps 39867654 c z11 := by
      refine Keeps.ite ?_ ?_
      · refine Keeps.ite ?_ ?_
        · exact h17
        · refine Keeps.trans ?_ (Chip.beltEdge_keeps ..) rfl
          exact h17
      · refine Keeps.trans ?_ (Chip.setChan_keeps ..) rfl
        exact h18
    clear_value z11
    have h20 : Keeps 39867654 c z15 := by
      refine Keeps.ite ?_ ?_
      · refine Keeps.trans ?_ (Chip.setChan_keeps ..) rfl
        exact h19
      · exact h19
    clear_value z15
    refine Keeps.trans ?_ (Chip.chanSample_keeps ..) rfl
    exact h20
  · exact Keeps.refl

theorem Chip.statusItem_keeps (c) (a1) (a2) : Keeps 4 c (Chip.statusItem c a1 a2) := by
  unfold Chip.statusItem
  extract_lets z1 z2 z3 z4
  have h5 : Keeps 4 c z3 := by
    refine Keeps.trans ?_ (Chip.setReg_keeps ..) rfl
    exact Keeps.refl
  clear_value z3
  have h6 : Keeps 4 c z4 := by
    refine Keeps.ite ?_ ?_
    · refine Keeps.trans ?_ (Chip.raise_keeps ..) rfl
      exact h5
    · exact h5
  clear_value z4
  refine Keeps.ite ?_ ?_
  · refine Keeps.trans ?_ (Chip.raise_keeps ..) rfl
    refine Keeps.trans ?_ (Chip.raise_keeps ..) rfl
    exact h6
  · exact h6

theorem Chip.item_keeps (c) (a1) (a2) (a3) (a4) (a5) (a6) : Keeps 40785246 c (Chip.item c a1 a2 a3 a4 a5 a6) := by
  unfold Chip.item
  extract_lets z1 z2 z3 z4
  have h5 : Keeps 40785246 c z3 := by
    refine Keeps.trans ?_ (Chip.count_keeps ..) rfl
    exact Keeps.refl
  clear_value z3
  refine Keeps.ite ?_ ?_
  · exact h5
  · split
    · rename_i z6 z7
      refine Keeps.ite ?_ ?_
      · refine Keeps.trans ?_ (Chip.posItem_keeps ..) rfl
        exact Keeps.refl
      · exact h5
    · rename_i z8 z9
      refine Keeps.ite ?_ ?_
      · refine Keeps.trans ?_ (Keeps.each (m := 40785246) _ ?_ _ _) rfl
        · exact Keeps.refl
        · intro z10 z11
          extract_lets z12
          refine Keeps.trans ?_ (Chip.setAuxW_keeps ..) rfl
          exact Keeps.refl
      · exact h5
    · rename_i z13 z14
      refine Keeps.ite ?_ ?_
      · refine Keeps.trans ?_ (Chip.statusItem_keeps ..) rfl
        exact Keeps.refl
      · exact h5
    · rename_i z15 z16
      refine Keeps.ite ?_ ?_
      · refine Keeps.trans ?_ (Chip.safetyItem_keeps ..) rfl
        exact Keeps.refl
      · exact h5
    · rename_i z17 z18
      refine Keeps.trans ?_ (Chip.ladPacket_keeps ..) rfl
      exact Keeps.refl
    · rename_i z19 z20 z21 z22 z23 z24
      exact h5

theorem Chip.routeItems_keeps (c : Chip) (p ts : Nat) (f : TowFrame) (n : Nat) (ms : List Nat) (ws : List Word) :
    Keeps 40785246 c (c.routeItems p ts f n ms ws) := by
  induction n generalizing c ms ws with
  | zero => unfold Chip.routeItems; exact Keeps.refl
  | succ n ih =>
    cases ws with
    | nil => unfold Chip.routeItems; exact Keeps.refl
    | cons h t =>
      unfold Chip.routeItems
      refine Keeps.ite Keeps.refl ?_
      refine Keeps.trans ?_ (ih ..) rfl
      split
      · exact Keeps.trans Keeps.refl (Chip.item_keeps ..) rfl
      · exact Keeps.trans Keeps.refl (Chip.count_keeps ..) rfl

theorem Chip.margin__keeps (c) (a1) (a2) (a3) : Keeps 4 c (Chip.margin_ c a1 a2 a3) := by
  unfold Chip.margin_
  extract_lets z1
  have h2 : Keeps 4 c z1 := by
    refine Keeps.ite ?_ ?_
    · refine Keeps.trans ?_ (Chip.setFld_keeps ..) rfl
      refine Keeps.trans ?_ (Chip.setFldI_keeps ..) rfl
      exact Keeps.refl
    · exact Keeps.refl
  clear_value z1
  refine Keeps.ite ?_ ?_
  · refine Keeps.trans ?_ (Chip.raise_keeps ..) rfl
    exact h2
  · exact h2

theorem Chip.lateReply_keeps (c) (a1) (a2) (a3) : Keeps 262148 c (Chip.lateReply c a1 a2 a3) := by
  unfold Chip.lateReply
  extract_lets z1 z2 z3 z4 z5 z6
  have h7 : Keeps 262148 c z2 := by
    refine Keeps.trans ?_ (Chip.count_keeps ..) rfl
    exact Keeps.refl
  clear_value z2
  have h8 : Keeps 262148 c z4 := by
    refine Keeps.ite ?_ ?_
    · refine Keeps.trans ?_ (Chip.count_keeps ..) rfl
      exact h7
    · exact h7
  clear_value z4
  have h9 : Keeps 262148 c z6 := by
    refine Keeps.trans ?_ (Chip.setPort_keeps ..) rfl
    exact h8
  clear_value z6
  refine Keeps.trans ?_ (Chip.setPoll_keeps ..) rfl
  exact h9

theorem Chip.reply__keeps (c) (a1) (a2) : Keeps 40785246 c (Chip.reply_ c a1 a2) := by
  unfold Chip.reply_
  refine Keeps.ite ?_ ?_
  · exact Keeps.refl
  · refine Keeps.ite ?_ ?_
    · refine Keeps.trans ?_ (Chip.rxDisc_keeps ..) rfl
      exact Keeps.refl
    · refine Keeps.ite ?_ ?_
      · refine Keeps.trans ?_ (Chip.rxDisc_keeps ..) rfl
        refine Keeps.trans ?_ (Chip.foreign_keeps ..) rfl
        exact Keeps.refl
      · split
        · rename_i z1 z2
          refine Keeps.trans ?_ (Chip.rxDisc_keeps ..) rfl
          exact Keeps.refl
        · rename_i z3 z4 z5
          extract_lets z6 z7 z8 z9 z10
          have h11 : Keeps 40785246 c z9 := by
            refine Keeps.trans ?_ (Chip.count_keeps ..) rfl
            refine Keeps.trans ?_ (Chip.setPoll_keeps ..) rfl
            exact Keeps.refl
          clear_value z9
          have h12 : Keeps 40785246 c z10 := by
            refine Keeps.trans ?_ (Chip.margin__keeps ..) rfl
            refine Keeps.trans ?_ (Chip.setPoll_keeps ..) rfl
            exact Keeps.refl
          clear_value z10
          refine Keeps.ite ?_ ?_
          · refine Keeps.trans ?_ (Chip.lateReply_keeps ..) rfl
            exact Keeps.refl
          · refine Keeps.ite ?_ ?_
            · refine Keeps.trans ?_ (Chip.lateReply_keeps ..) rfl
              refine Keeps.trans ?_ (Chip.windowClose_keeps ..) rfl
              exact Keeps.refl
            · refine Keeps.ite ?_ ?_
              · refine Keeps.ite ?_ ?_
                · refine Keeps.trans ?_ (Chip.setFld_keeps ..) rfl
                  exact h11
                · refine Keeps.trans ?_ (Chip.entryAge_keeps ..) rfl
                  exact h11
              · refine Keeps.ite ?_ ?_
                · refine Keeps.trans ?_ (Chip.count_keeps ..) rfl
                  exact h12
                · refine Keeps.trans ?_ (Chip.entryAge_keeps ..) rfl
                  refine Keeps.trans ?_ (Chip.routeItems_keeps ..) rfl
                  exact h12

theorem Chip.mrgRst_keeps (c) (a1) : Keeps 4 c (Chip.mrgRst c a1) := by
  unfold Chip.mrgRst
  refine Keeps.trans ?_ (Chip.setReg_keeps ..) rfl
  exact Keeps.refl

theorem Chip.quarantine_keeps (c) (a1) (a2) (a3) : Keeps 262212 c (Chip.quarantine c a1 a2 a3) := by
  unfold Chip.quarantine
  extract_lets z1 z2 z3 z4
  have h5 : Keeps 262212 c z3 := by
    refine Keeps.trans ?_ (Chip.setBarge_keeps ..) rfl
    refine Keeps.trans ?_ (Chip.setFld_keeps ..) rfl
    refine Keeps.trans ?_ (Chip.setFld_keeps ..) rfl
    exact Keeps.refl
  clear_value z3
  have h6 : Keeps 262212 c z4 := by
    refine Keeps.trans ?_ (Chip.raise_keeps ..) rfl
    refine Keeps.trans ?_ (Chip.raiseBit_keeps ..) rfl
    exact h5
  clear_value z4
  refine Keeps.trans ?_ (Chip.logEvent_keeps ..) rfl
  exact h6

theorem Chip.bargeBoundary_keeps (c) (a1) (a2) (a3) (a4) : Keeps 262212 c (Chip.bargeBoundary c a1 a2 a3 a4) := by
  unfold Chip.bargeBoundary
  extract_lets z1 z2 z3 z4 z5 z6 z7 z8 z9 z10
  have h11 : Keeps 262212 c z6 := by
    refine Keeps.ite ?_ ?_
    · exact Keeps.refl
    · refine Keeps.ite ?_ ?_
      · refine Keeps.trans ?_ (Chip.count_keeps ..) rfl
        exact Keeps.refl
      · refine Keeps.trans ?_ (Chip.setFld_keeps ..) rfl
        exact Keeps.refl
  clear_value z6
  have h12 : Keeps 262212 c z7 := by
    refine Keeps.trans ?_ (Chip.setFld_keeps ..) rfl
    refine Keeps.trans ?_ (Chip.setFld_keeps ..) rfl
    refine Keeps.trans ?_ (Chip.setFld_keeps ..) rfl
    exact h11
  clear_value z7
  have h13 : Keeps 262212 c z9 := by
    refine Keeps.trans ?_ (Chip.setBarge_keeps ..) rfl
    exact h11
  clear_value z9
  split
  · rename_i z14 z15
    refine Keeps.ite ?_ ?_
    · refine Keeps.trans ?_ (Chip.logEvent_keeps ..) rfl
      refine Keeps.trans ?_ (Chip.raise_keeps ..) rfl
      exact h12
    · refine Keeps.ite ?_ ?_
      · refine Keeps.trans ?_ (Chip.setPort_keeps ..) rfl
        exact h13
      · exact h11
  · rename_i z16 z17
    exact h11
  · rename_i z18 z19 z20
    refine Keeps.ite ?_ ?_
    · refine Keeps.trans ?_ (Chip.quarantine_keeps ..) rfl
      exact h11
    · exact h11

theorem Chip.towJudge_keeps (c) (a1) (a2) : Keeps 262212 c (Chip.towJudge c a1 a2) := by
  unfold Chip.towJudge
  extract_lets z1 z2
  refine Keeps.trans ?_ (Keeps.each (m := 262212) _ ?_ _ _) rfl
  · exact Keeps.refl
  · intro z3 z4
    refine Keeps.trans ?_ (Chip.bargeBoundary_keeps ..) rfl
    exact Keeps.refl

theorem Chip.command__keeps (c) (a1) (a2) : Keeps 786444 c (Chip.command_ c a1 a2) := by
  unfold Chip.command_
  extract_lets z1 z2 z3 z4
  have h5 : Keeps 786444 c z3.1 := by
    refine Keeps.trans ?_ (Chip.safetyItems_keeps ..) rfl
    exact Keeps.refl
  clear_value z3
  refine Keeps.ite ?_ ?_
  · refine Keeps.ite ?_ ?_
    · exact h5
    · refine Keeps.trans ?_ (Chip.towSend_keeps ..) rfl
      exact h5
  · exact Keeps.refl

theorem Chip.commands_keeps (c) (a1) : Keeps 786444 c (Chip.commands c a1) := by
  unfold Chip.commands
  refine Keeps.trans ?_ (Keeps.each (m := 786444) _ ?_ _ _) rfl
  · exact Keeps.refl
  · intro z1 z2
    refine Keeps.trans ?_ (Chip.command__keeps ..) rfl
    exact Keeps.refl

theorem Chip.mgmtOut_keeps (c) (a1) (a2) (a3) (a4) (a5) : Keeps 262152 c (Chip.mgmtOut c a1 a2 a3 a4 a5) := by
  unfold Chip.mgmtOut
  extract_lets z1 z2 z3
  have h4 : Keeps 262152 c z2.1 := by
    refine Keeps.trans ?_ (Chip.towSend_keeps ..) rfl
    exact Keeps.refl
  clear_value z2
  refine Keeps.trans ?_ (Chip.setPort_keeps ..) rfl
  exact h4

theorem Chip.mgmtDrop_keeps (c) (a1) : Keeps 262168 c (Chip.mgmtDrop c a1) := by
  unfold Chip.mgmtDrop
  extract_lets z1 z2
  refine Keeps.trans ?_ (Keeps.each (m := 262168) _ ?_ _ _) rfl
  · refine Keeps.trans ?_ (Chip.setPort_keeps ..) rfl
    exact Keeps.refl
  · intro z3 z4
    refine Keeps.trans ?_ (Chip.reply_keeps ..) rfl
    exact Keeps.refl

theorem Chip.stepBegin_keeps (c) (a1) (a2) : Keeps 262148 c (Chip.stepBegin c a1 a2) := by
  unfold Chip.stepBegin
  extract_lets z1 z2 z3
  have h4 : Keeps 262148 c z1 := by
    refine Keeps.trans ?_ (Chip.setFld_keeps ..) rfl
    exact Keeps.refl
  clear_value z1
  have h5 : Keeps 262148 c z2 := by
    refine Keeps.ite ?_ ?_
    · refine Keeps.trans ?_ (Keeps.each (m := 262148) _ ?_ _ _) rfl
      · exact h4
      · intro z6 z7
        refine Keeps.trans ?_ (Chip.setBarge_keeps ..) rfl
        refine Keeps.trans ?_ (Chip.setFld_keeps ..) rfl
        exact Keeps.refl
    · exact h4
  clear_value z2
  refine Keeps.trans ?_ (Chip.setPort_keeps ..) rfl
  exact h5

theorem Chip.portRun_keeps (c) (a1) : Keeps 262212 c (Chip.portRun c a1) := by
  unfold Chip.portRun
  extract_lets z1 z2 z3
  have h4 : Keeps 262212 c z2 := by
    refine Keeps.trans ?_ (Chip.setPort_keeps ..) rfl
    refine Keeps.trans ?_ (Chip.setFld_keeps ..) rfl
    exact Keeps.refl
  clear_value z2
  have h5 : Keeps 262212 c z3 := by
    refine Keeps.trans ?_ (Keeps.each (m := 262212) _ ?_ _ _) rfl
    · exact h4
    · intro z6 z7
      extract_lets z8 z9
      refine Keeps.ite ?_ ?_
      · refine Keeps.trans ?_ (Chip.setFld_keeps ..) rfl
        refine Keeps.trans ?_ (Chip.setFld_keeps ..) rfl
        exact Keeps.refl
      · refine Keeps.trans ?_ (Chip.quarantine_keeps ..) rfl
        exact Keeps.refl
  clear_value z3
  refine Keeps.trans ?_ (Chip.raise_keeps ..) rfl
  exact h5

theorem Chip.stepNext_keeps (c : Chip) (p n : Nat) : Keeps 262212 c (c.stepNext p n) := by
  induction n generalizing c with
  | zero => unfold Chip.stepNext; exact Keeps.refl
  | succ n ih =>
    unfold Chip.stepNext
    refine Keeps.ite Keeps.refl (Keeps.ite Keeps.refl (Keeps.ite (Keeps.ite ?_ Keeps.refl) ?_))
    · exact Chip.portRun_keeps ..
    · exact Keeps.trans (Keeps.trans Keeps.refl (Chip.stepBegin_keeps ..) rfl) (ih ..) rfl

theorem Chip.bringKick_keeps (c) (a1) (a2) : Keeps 262220 c (Chip.bringKick c a1 a2) := by
  unfold Chip.bringKick
  extract_lets z1 z2 z3
  have h4 : Keeps 262220 c z1 := by
    refine Keeps.trans ?_ (Chip.stepNext_keeps ..) rfl
    exact Keeps.refl
  clear_value z1
  refine Keeps.ite ?_ ?_
  · split
    · rename_i z5 z6
      exact h4
    · rename_i z7 z8 z9 z10
      extract_lets z11
      have h12 : Keeps 262220 c z11 := by
        refine Keeps.trans ?_ (Chip.setPort_keeps ..) rfl
        exact h4
      clear_value z11
      refine Keeps.trans ?_ (Chip.mgmtOut_keeps ..) rfl
      exact h12
  · exact h4

theorem Chip.bringBoundary_keeps (c) : Keeps 262220 c (Chip.bringBoundary c) := by
  unfold Chip.bringBoundary
  refine Keeps.trans ?_ (Keeps.each (m := 262220) _ ?_ _ _) rfl
  · exact Keeps.refl
  · intro z1 z2
    extract_lets z3 z4
    have h5 : Keeps 262220 z1 z4 := by
      refine Keeps.ite ?_ ?_
      · refine Keeps.trans ?_ (Chip.setPort_keeps ..) rfl
        exact Keeps.refl
      · exact Keeps.refl
    clear_value z4
    refine Keeps.trans ?_ (Chip.bringKick_keeps ..) rfl
    exact h5

theorem Chip.bringStart_keeps (c) (a1) : Keeps 262172 c (Chip.bringStart c a1) := by
  unfold Chip.bringStart
  refine Keeps.ite ?_ ?_
  · extract_lets z1 z2 z3
    have h4 : Keeps 262172 c z1 := by
      refine Keeps.trans ?_ (Chip.mgmtDrop_keeps ..) rfl
      exact Keeps.refl
    clear_value z1
    have h5 : Keeps 262172 c z2 := by
      refine Keeps.trans ?_ (Keeps.each (m := 262172) _ ?_ _ _) rfl
      · exact h4
      · intro z6 z7
        refine Keeps.ite ?_ ?_
        · exact Keeps.refl
        · refine Keeps.trans ?_ (Chip.setFld_keeps ..) rfl
          exact Keeps.refl
    clear_value z2
    have h8 : Keeps 262172 c z3 := by
      refine Keeps.trans ?_ (Keeps.each (m := 262172) _ ?_ _ _) rfl
      · exact h5
      · intro z9 z10
        refine Keeps.trans ?_ (Chip.setFld_keeps ..) rfl
        exact Keeps.refl
    clear_value z3
    refine Keeps.ite ?_ ?_
    · refine Keeps.trans ?_ (Chip.stepBegin_keeps ..) rfl
      exact h5
    · refine Keeps.trans ?_ (Chip.setFld_keeps ..) rfl
      exact h8
  · refine Keeps.trans ?_ (Chip.setFld_keeps ..) rfl
    exact Keeps.refl

theorem Chip.bringAll_keeps (c) : Keeps 262172 c (Chip.bringAll c) := by
  unfold Chip.bringAll
  refine Keeps.trans ?_ (Keeps.each (m := 262172) _ ?_ _ _) rfl
  · exact Keeps.refl
  · intro z1 z2
    refine Keeps.trans ?_ (Chip.bringStart_keeps ..) rfl
    exact Keeps.refl

theorem Chip.towDry_keeps (c) : Keeps 262172 c (Chip.towDry c) := by
  unfold Chip.towDry
  refine Keeps.trans ?_ (Keeps.each (m := 262172) _ ?_ _ _) rfl
  · exact Keeps.refl
  · intro z1 z2
    extract_lets z3
    have h4 : Keeps 262172 z1 z3 := by
      refine Keeps.trans ?_ (Chip.mgmtDrop_keeps ..) rfl
      refine Keeps.trans ?_ (Chip.setFld_keeps ..) rfl
      exact Keeps.refl
    clear_value z3
    refine Keeps.trans ?_ (Keeps.each (m := 262172) _ ?_ _ _) rfl
    · exact h4
    · intro z5 z6
      refine Keeps.trans ?_ (Chip.setReg_keeps ..) rfl
      exact Keeps.refl

theorem Chip.rangeSample_keeps (c) (a1) (a2) : Keeps 262144 c (Chip.rangeSample c a1 a2).1 := by
  unfold Chip.rangeSample
  extract_lets z1 z2 z3
  have h4 : Keeps 262144 c z3 := by
    refine Keeps.trans ?_ (Chip.setBarge_keeps ..) rfl
    exact Keeps.refl
  clear_value z3
  refine Keeps.ite1 ?_ ?_
  · refine Keeps.trans ?_ (Chip.setBarge_keeps ..) rfl
    exact Keeps.refl
  · refine Keeps.ite1 ?_ ?_
    · refine Keeps.ite1 ?_ ?_
      · exact h4
      · exact h4
    · refine Keeps.trans ?_ (Chip.setBarge_keeps ..) rfl
      exact Keeps.refl

theorem Chip.stepFail_keeps (c) (a1) (a2) : Keeps 262144 c (Chip.stepFail c a1 a2) := by
  unfold Chip.stepFail
  extract_lets z1 z2 z3 z4
  have h5 : Keeps 262144 c z3 := by
    refine Keeps.trans ?_ (Chip.setBarge_keeps ..) rfl
    exact Keeps.refl
  clear_value z3
  refine Keeps.trans ?_ (Chip.setPort_keeps ..) rfl
  exact h5

theorem Chip.stepDone_keeps (c) (a1) (a2) (a3) : Keeps 262144 c (Chip.stepDone c a1 a2 a3) := by
  unfold Chip.stepDone
  extract_lets z1 z2 z3
  split
  · rename_i z4 z5 z6 z7
    refine Keeps.trans ?_ (Chip.setBarge_keeps ..) rfl
    exact Keeps.refl
  · rename_i z8 z9 z10 z11 z12
    refine Keeps.trans ?_ (Chip.setBarge_keeps ..) rfl
    exact Keeps.refl
  · rename_i z13 z14 z15 z16 z17
    extract_lets z18 z19 z20
    have h21 : Keeps 262144 c z18.1 := by
      refine Keeps.trans ?_ (Chip.rangeSample_keeps ..) rfl
      exact Keeps.refl
    clear_value z18
    split
    · rename_i z22 z23
      refine Keeps.trans ?_ (Chip.stepFail_keeps ..) rfl
      exact h21
    · rename_i z24 z25 z26
      refine Keeps.trans ?_ (Chip.setBarge_keeps ..) rfl
      exact h21
    · rename_i z27 z28
      refine Keeps.ite ?_ ?_
      · refine Keeps.trans ?_ (Chip.setPort_keeps ..) rfl
        exact h21
      · exact h21
  · rename_i z29 z30 z31 z32 z33
    refine Keeps.trans ?_ (Chip.stepFail_keeps ..) rfl
    exact Keeps.refl
  · rename_i z34 z35 z36 z37 z38
    exact Keeps.refl
  · rename_i z39 z40 z41 z42 z43
    refine Keeps.trans ?_ (Chip.stepFail_keeps ..) rfl
    exact Keeps.refl
  · rename_i z44 z45 z46 z47 z48
    refine Keeps.trans ?_ (Chip.setBarge_keeps ..) rfl
    exact Keeps.refl
  · rename_i z49 z50 z51 z52 z53 z54 z55 z56 z57 z58
    exact Keeps.refl

theorem Chip.queueX_keeps (c) (a1) (a2) : Keeps 262144 c (Chip.queueX c a1 a2) := by
  unfold Chip.queueX
  extract_lets z1
  refine Keeps.trans ?_ (Chip.setPort_keeps ..) rfl
  exact Keeps.refl

theorem Chip.readmitEnd_keeps (c) (a1) : Keeps 262144 c (Chip.readmitEnd c a1) := by
  unfold Chip.readmitEnd
  extract_lets z1
  refine Keeps.trans ?_ (Chip.setBarge_keeps ..) rfl
  exact Keeps.refl

theorem Chip.readmitDone_keeps (c) (a1) (a2) (a3) (a4) : Keeps 262144 c (Chip.readmitDone c a1 a2 a3 a4) := by
  unfold Chip.readmitDone
  extract_lets z1 z2
  split
  · rename_i z3 z4 z5
    refine Keeps.trans ?_ (Chip.queueX_keeps ..) rfl
    exact Keeps.refl
  · rename_i z6 z7
    refine Keeps.trans ?_ (Chip.queueX_keeps ..) rfl
    exact Keeps.refl
  · rename_i z8 z9
    refine Keeps.trans ?_ (Chip.queueX_keeps ..) rfl
    exact Keeps.refl
  · rename_i z10 z11 z12 z13
    refine Keeps.ite ?_ ?_
    · refine Keeps.trans ?_ (Chip.queueX_keeps ..) rfl
      exact Keeps.refl
    · refine Keeps.trans ?_ (Chip.readmitEnd_keeps ..) rfl
      exact Keeps.refl
  · rename_i z14 z15 z16 z17
    extract_lets z18 z19
    have h20 : Keeps 262144 c z18.1 := by
      refine Keeps.trans ?_ (Chip.rangeSample_keeps ..) rfl
      exact Keeps.refl
    clear_value z18
    split
    · rename_i z21 z22
      refine Keeps.trans ?_ (Chip.readmitEnd_keeps ..) rfl
      exact h20
    · rename_i z23 z24 z25
      extract_lets z26
      have h27 : Keeps 262144 c z26 := by
        refine Keeps.trans ?_ (Chip.setBarge_keeps ..) rfl
        exact h20
      clear_value z26
      refine Keeps.trans ?_ (Chip.queueX_keeps ..) rfl
      exact h27
    · rename_i z28 z29
      refine Keeps.ite ?_ ?_
      · refine Keeps.trans ?_ (Chip.queueX_keeps ..) rfl
        exact h20
      · exact h20
  · rename_i z30 z31 z32 z33
    refine Keeps.ite ?_ ?_
    · refine Keeps.trans ?_ (Chip.readmitEnd_keeps ..) rfl
      exact Keeps.refl
    · exact Keeps.refl
  · rename_i z34 z35 z36 z37 z38 z39 z40 z41
    refine Keeps.trans ?_ (Chip.readmitEnd_keeps ..) rfl
    exact Keeps.refl

theorem Chip.rerangeFail_keeps (c) (a1) (a2) : Keeps 262144 c (Chip.rerangeFail c a1 a2) := by
  unfold Chip.rerangeFail
  extract_lets z1 z2 z3
  have h4 : Keeps 262144 c z2 := by
    refine Keeps.trans ?_ (Chip.setBarge_keeps ..) rfl
    exact Keeps.refl
  clear_value z2
  refine Keeps.trans ?_ (Chip.setPort_keeps ..) rfl
  exact h4

theorem Chip.rerangeStart_keeps (c) (a1) (a2) : Keeps 262144 c (Chip.rerangeStart c a1 a2) := by
  unfold Chip.rerangeStart
  extract_lets z1 z2 z3
  have h4 : Keeps 262144 c z2 := by
    refine Keeps.trans ?_ (Chip.setBarge_keeps ..) rfl
    exact Keeps.refl
  clear_value z2
  refine Keeps.trans ?_ (Chip.setPort_keeps ..) rfl
  exact h4

theorem Chip.rerangeDone_keeps (c) (a1) (a2) (a3) : Keeps 262144 c (Chip.rerangeDone c a1 a2 a3) := by
  unfold Chip.rerangeDone
  extract_lets z1 z2 z3
  split
  · rename_i z4 z5 z6 z7 z8
    extract_lets z9 z10
    have h11 : Keeps 262144 c z9.1 := by
      refine Keeps.trans ?_ (Chip.rangeSample_keeps ..) rfl
      exact Keeps.refl
    clear_value z9
    split
    · rename_i z12 z13 z14
      refine Keeps.ite ?_ ?_
      · refine Keeps.trans ?_ (Chip.queueX_keeps ..) rfl
        exact h11
      · exact h11
    · rename_i z15 z16
      refine Keeps.ite ?_ ?_
      · refine Keeps.trans ?_ (Chip.queueX_keeps ..) rfl
        exact h11
      · exact h11
    · rename_i z17 z18
      refine Keeps.trans ?_ (Chip.rerangeFail_keeps ..) rfl
      exact h11
  · rename_i z19 z20 z21 z22 z23
    refine Keeps.trans ?_ (Chip.setBarge_keeps ..) rfl
    exact Keeps.refl
  · rename_i z24 z25 z26 z27 z28
    refine Keeps.trans ?_ (Chip.rerangeFail_keeps ..) rfl
    exact Keeps.refl

theorem Chip.mgmtDone_keeps (c) (a1) (a2) (a3) : Keeps 262168 c (Chip.mgmtDone c a1 a2 a3) := by
  unfold Chip.mgmtDone
  extract_lets z1
  split
  · rename_i z2 z3 z4
    split
    · rename_i z5 z6
      refine Keeps.trans ?_ (Chip.reply_keeps ..) rfl
      exact Keeps.refl
    · rename_i z7
      refine Keeps.trans ?_ (Chip.reply_keeps ..) rfl
      exact Keeps.refl
  · rename_i z8 z9
    refine Keeps.trans ?_ (Chip.stepDone_keeps ..) rfl
    exact Keeps.refl
  · rename_i z10 z11 z12
    refine Keeps.trans ?_ (Chip.readmitDone_keeps ..) rfl
    exact Keeps.refl
  · rename_i z13 z14
    refine Keeps.trans ?_ (Chip.rerangeDone_keeps ..) rfl
    exact Keeps.refl

theorem Chip.mgmtSend_keeps (c) (a1) (a2) : Keeps 262156 c (Chip.mgmtSend c a1 a2) := by
  unfold Chip.mgmtSend
  extract_lets z1 z2 z3 z4
  have h5 : Keeps 262156 c z2 := by
    refine Keeps.trans ?_ (Chip.refRelease_keeps ..) rfl
    exact Keeps.refl
  clear_value z2
  have h6 : Keeps 262156 c z3 := by
    refine Keeps.ite ?_ ?_
    · split
      · rename_i z28 z29 z30
        refine Keeps.trans ?_ (Chip.rerangeStart_keeps ..) rfl
        exact h5
      · rename_i z31 z32
        exact h5
    · exact h5
  clear_value z3
  split
  · rename_i z7 z8
    exact h5
  · rename_i z9 z10 z11 z12
    refine Keeps.ite ?_ ?_
    · split
      · rename_i z13 z14
        exact h6
      · rename_i z15 z16 z17 z18
        extract_lets z19 z20
        have h21 : Keeps 262156 c z19 := by
          refine Keeps.trans ?_ (Chip.setPoll_keeps ..) rfl
          exact h6
        clear_value z19
        have h22 : Keeps 262156 c z20 := by
          dsimp only [z20]
          split
          · rename_i z23 z24
            refine Keeps.trans ?_ (Chip.count_keeps ..) rfl
            exact h21
          · rename_i z25 z26 z27
            refine Keeps.trans ?_ (Chip.mgmtOut_keeps ..) rfl
            refine Keeps.trans ?_ (Chip.setPort_keeps ..) rfl
            refine Keeps.ite ?_ ?_
            · exact h21
            · refine Keeps.trans ?_ (Chip.count_keeps ..) rfl
              exact h21
        clear_value z20
        refine Keeps.trans ?_ (Chip.lateDone_keeps ..) rfl
        exact h22
    · exact h5

theorem Chip.mgmtRsp_keeps (c) (a1) (a2) : Keeps 33816668 c (Chip.mgmtRsp c a1 a2) := by
  unfold Chip.mgmtRsp
  refine Keeps.ite ?_ ?_
  · exact Keeps.refl
  · refine Keeps.ite ?_ ?_
    · refine Keeps.trans ?_ (Chip.rxDisc_keeps ..) rfl
      exact Keeps.refl
    · split
      · rename_i z1 z2
        refine Keeps.trans ?_ (Chip.rxDisc_keeps ..) rfl
        exact Keeps.refl
      · rename_i z3 z4 z5
        extract_lets z6 z7 z8 z9
        have h10 : Keeps 33816668 c z6 := by
          refine Keeps.trans ?_ (Chip.ladPacket_keeps ..) rfl
          exact Keeps.refl
        clear_value z6
        have h11 : Keeps 33816668 c z8 := by
          refine Keeps.trans ?_ (Chip.setPort_keeps ..) rfl
          exact h10
        clear_value z8
        refine Keeps.ite ?_ ?_
        · refine Keeps.trans ?_ (Chip.setPort_keeps ..) rfl
          exact h10
        · refine Keeps.trans ?_ (Chip.bringKick_keeps ..) rfl
          refine Keeps.trans ?_ (Chip.mgmtDone_keeps ..) rfl
          exact h11

theorem Chip.mgmtClose_keeps (c) (a1) : Keeps 262236 c (Chip.mgmtClose c a1) := by
  unfold Chip.mgmtClose
  extract_lets z1
  split
  · rename_i z2 z3
    exact Keeps.refl
  · rename_i z4 z5 z6
    extract_lets z7 z8
    have h9 : Keeps 262236 c z7 := by
      refine Keeps.trans ?_ (Chip.setPort_keeps ..) rfl
      exact Keeps.refl
    clear_value z7
    refine Keeps.ite ?_ ?_
    · refine Keeps.trans ?_ (Chip.setPort_keeps ..) rfl
      exact h9
    · refine Keeps.trans ?_ (Chip.bringKick_keeps ..) rfl
      refine Keeps.trans ?_ (Chip.mgmtDone_keeps ..) rfl
      exact h9

theorem Chip.enumEnd_keeps (c) (a1) (a2) : Keeps 262220 c (Chip.enumEnd c a1 a2) := by
  unfold Chip.enumEnd
  split
  · rename_i z1 z2
    exact Keeps.refl
  · rename_i z3 z4 z5
    extract_lets z6 z7 z8 z9 z10 z11 z12 z13
    have h14 : Keeps 262220 c z8 := by
      refine Keeps.trans ?_ (Chip.setPort_keeps ..) rfl
      exact Keeps.refl
    clear_value z8
    have h15 : Keeps 262220 c z11 := by
      refine Keeps.trans ?_ (Chip.setFld_keeps ..) rfl
      exact h14
    clear_value z11
    split
    · rename_i z16 z17 z18
      refine Keeps.ite ?_ ?_
      · refine Keeps.trans ?_ (Chip.setPort_keeps ..) rfl
        exact h14
      · refine Keeps.ite ?_ ?_
        · refine Keeps.trans ?_ (Chip.readmitEnd_keeps ..) rfl
          exact h14
        · refine Keeps.trans ?_ (Chip.queueX_keeps ..) rfl
          refine Keeps.trans ?_ (Chip.setFld_keeps ..) rfl
          exact h14
    · rename_i z19 z20
      refine Keeps.trans ?_ (Chip.bringKick_keeps ..) rfl
      refine Keeps.trans ?_ (Chip.setPort_keeps ..) rfl
      exact h15

theorem Chip.stepAtLimit_keeps (c) (a1) : Keeps 262220 c (Chip.stepAtLimit c a1) := by
  unfold Chip.stepAtLimit
  extract_lets z1 z2 z3 z4 z5
  have h6 : Keeps 262220 c z4 := by
    refine Keeps.ite ?_ ?_
    · refine Keeps.trans ?_ (Keeps.each (m := 262220) _ ?_ _ _) rfl
      · exact Keeps.refl
      · intro z7 z8
        extract_lets z9
        refine Keeps.trans ?_ (Chip.setBarge_keeps ..) rfl
        exact Keeps.refl
    · exact Keeps.refl
  clear_value z4
  have h10 : Keeps 262220 c z5 := by
    refine Keeps.trans ?_ (Chip.setPort_keeps ..) rfl
    exact h6
  clear_value z5
  refine Keeps.ite ?_ ?_
  · refine Keeps.trans ?_ (Chip.bringKick_keeps ..) rfl
    refine Keeps.ite ?_ ?_
    · refine Keeps.trans ?_ (Chip.portRun_keeps ..) rfl
      exact h10
    · refine Keeps.trans ?_ (Chip.stepBegin_keeps ..) rfl
      exact h10
  · exact Keeps.refl

theorem Chip.receiverUp_keeps (c) (a1) : Keeps 262220 c (Chip.receiverUp c a1) := by
  unfold Chip.receiverUp
  extract_lets z1
  have h2 : Keeps 262220 c z1 := by
    refine Keeps.trans ?_ (Chip.raise_keeps ..) rfl
    exact Keeps.refl
  clear_value z1
  refine Keeps.ite ?_ ?_
  · refine Keeps.trans ?_ (Chip.bringKick_keeps ..) rfl
    refine Keeps.trans ?_ (Chip.stepBegin_keeps ..) rfl
    exact h2
  · exact h2

theorem Chip.bringFail_keeps (c) (a1) : Keeps 262148 c (Chip.bringFail c a1) := by
  unfold Chip.bringFail
  refine Keeps.ite ?_ ?_
  · refine Keeps.trans ?_ (Chip.setPort_keeps ..) rfl
    refine Keeps.trans ?_ (Chip.setFld_keeps ..) rfl
    exact Keeps.refl
  · exact Keeps.refl

theorem Chip.receiverDown_keeps (c) (a1) (a2) (a3) : Keeps 262148 c (Chip.receiverDown c a1 a2 a3) := by
  unfold Chip.receiverDown
  extract_lets z1 z2
  have h3 : Keeps 262148 c z1 := by
    refine Keeps.trans ?_ (Chip.count_keeps ..) rfl
    exact Keeps.refl
  clear_value z1
  have h4 : Keeps 262148 c z2 := by
    refine Keeps.trans ?_ (Chip.count_keeps ..) rfl
    refine Keeps.trans ?_ (Chip.setFld_keeps ..) rfl
    exact h3
  clear_value z2
  refine Keeps.ite ?_ ?_
  · refine Keeps.trans ?_ (Chip.bringFail_keeps ..) rfl
    refine Keeps.trans ?_ (Chip.raise_keeps ..) rfl
    exact h4
  · exact h3

theorem Chip.bringAgain_keeps (c) (a1) : Keeps 262172 c (Chip.bringAgain c a1) := by
  unfold Chip.bringAgain
  refine Keeps.ite ?_ ?_
  · extract_lets z1 z2 z3
    have h4 : Keeps 262172 c z1 := by
      refine Keeps.trans ?_ (Chip.mgmtDrop_keeps ..) rfl
      exact Keeps.refl
    clear_value z1
    have h5 : Keeps 262172 c z2 := by
      refine Keeps.trans ?_ (Keeps.each (m := 262172) _ ?_ _ _) rfl
      · exact h4
      · intro z7 z8
        refine Keeps.ite ?_ ?_
        · exact Keeps.refl
        · refine Keeps.trans ?_ (Chip.setFld_keeps ..) rfl
          exact Keeps.refl
    clear_value z2
    have h6 : Keeps 262172 c z3 := by
      refine Keeps.trans ?_ (Chip.stepBegin_keeps ..) rfl
      exact h5
    clear_value z3
    refine Keeps.ite ?_ ?_
    · exact h6
    · refine Keeps.trans ?_ (Chip.bringFail_keeps ..) rfl
      exact h6
  · refine Keeps.trans ?_ (Chip.setFld_keeps ..) rfl
    exact Keeps.refl

theorem Chip.bringWrite_keeps (c) (a1) : Keeps 262236 c (Chip.bringWrite c a1) := by
  unfold Chip.bringWrite
  refine Keeps.ite ?_ ?_
  · refine Keeps.trans ?_ (Chip.raise_keeps ..) rfl
    exact Keeps.refl
  · refine Keeps.ite ?_ ?_
    · refine Keeps.trans ?_ (Chip.bringKick_keeps ..) rfl
      refine Keeps.trans ?_ (Chip.bringAgain_keeps ..) rfl
      exact Keeps.refl
    · exact Keeps.refl

theorem Chip.towMgmt_keeps (c) (a1) : Keeps 262144 c (Chip.towMgmt c a1).1 := by
  unfold Chip.towMgmt
  extract_lets z1 z2 z3 z4 z5 z6
  refine Keeps.ite1 ?_ ?_
  · exact Keeps.refl
  · refine Keeps.ite1 ?_ ?_
    · exact Keeps.refl
    · refine Keeps.ite1 ?_ ?_
      · exact Keeps.refl
      · refine Keeps.trans ?_ (Chip.queueX_keeps ..) rfl
        exact Keeps.refl

theorem Chip.towInfo_keeps (c) (a1) : Keeps 0 c (Chip.towInfo c a1).1 := by
  unfold Chip.towInfo
  extract_lets z1
  exact Keeps.refl

theorem Chip.portCfgWrite_keeps (c) (a1) (a2) : Keeps 262236 c (Chip.portCfgWrite c a1 a2) := by
  unfold Chip.portCfgWrite
  extract_lets z1 z2 z3
  have h4 : Keeps 262236 c z2 := by
    refine Keeps.trans ?_ (Chip.writeBits_keeps ..) rfl
    exact Keeps.refl
  clear_value z2
  refine Keeps.ite ?_ ?_
  · refine Keeps.trans ?_ (Chip.setFld_keeps ..) rfl
    refine Keeps.trans ?_ (Chip.mgmtDrop_keeps ..) rfl
    exact h4
  · refine Keeps.ite ?_ ?_
    · refine Keeps.trans ?_ (Chip.bringKick_keeps ..) rfl
      refine Keeps.trans ?_ (Chip.bringStart_keeps ..) rfl
      exact h4
    · exact h4

theorem Chip.towWrite_keeps (c) (a1) (a2) : KeepsO 262236 c (Chip.towWrite c a1 a2) := by
  unfold Chip.towWrite
  extract_lets z1 z2
  have h3 : Keeps 262236 c z1 := by
    refine Keeps.trans ?_ (Chip.raise_keeps ..) rfl
    exact Keeps.refl
  clear_value z1
  refine KeepsO.ite ?_ ?_
  · refine KeepsO.some ?_
    refine Keeps.ite ?_ ?_
    · refine Keeps.trans ?_ (Chip.writeBits_keeps ..) rfl
      exact Keeps.refl
    · exact h3
  · split
    · rename_i z4 z5 z6 z7 z8
      refine KeepsO.some ?_
      refine Keeps.ite ?_ ?_
      · refine Keeps.trans ?_ (Chip.portCfgWrite_keeps ..) rfl
        exact Keeps.refl
      · exact h3
    · rename_i z9 z10 z11 z12 z13 z14
      refine KeepsO.some ?_
      refine Keeps.ite ?_ ?_
      · refine Keeps.trans ?_ (Chip.writeBits_keeps ..) rfl
        exact Keeps.refl
      · exact h3
    · rename_i z15 z16 z17 z18 z19 z20 z21
      extract_lets z22
      have h23 : Keeps 262236 c z22 := by
        refine Keeps.ite ?_ ?_
        · refine Keeps.trans ?_ (Chip.mrgRst_keeps ..) rfl
          exact Keeps.refl
        · exact Keeps.refl
      clear_value z22
      refine KeepsO.some ?_
      refine Keeps.ite ?_ ?_
      · refine Keeps.trans ?_ (Chip.bringWrite_keeps ..) rfl
        exact h23
      · exact h23
    · rename_i z24 z25 z26 z27 z28 z29
      exact KeepsO.none

theorem Chip.reseedOffer_keeps (c) (a1) : Keeps 12420 c (Chip.reseedOffer c a1) := by
  unfold Chip.reseedOffer
  extract_lets z1 z2 z3
  have h4 : Keeps 12420 c z2.1 := by
    refine Keeps.trans ?_ (Chip.submit_keeps ..) rfl
    exact Keeps.refl
  clear_value z2
  split
  · rename_i z5 z6
    exact Keeps.refl
  · rename_i z7 z8 z9
    refine Keeps.ite ?_ ?_
    · extract_lets z10 z11
      refine Keeps.trans ?_ (Chip.raise_keeps ..) rfl
      refine Keeps.trans ?_ (Chip.setFlight_keeps ..) rfl
      refine Keeps.trans ?_ (Chip.setJob_keeps ..) rfl
      exact h4
    · refine Keeps.trans ?_ (Chip.setFlight_keeps ..) rfl
      exact h4

theorem Chip.reseedDrop_keeps (c) (a1) : Keeps 33569222 c (Chip.reseedDrop c a1) := by
  unfold Chip.reseedDrop
  extract_lets z1 z2
  have h3 : Keeps 33569222 c z2 := by
    refine Keeps.trans ?_ (Chip.setFld_keeps ..) rfl
    refine Keeps.trans ?_ (Chip.setFlight_keeps ..) rfl
    exact Keeps.refl
  clear_value z2
  split
  · rename_i z4 z5
    exact Keeps.refl
  · rename_i z6 z7 z8
    refine Keeps.ite ?_ ?_
    · refine Keeps.trans ?_ (Chip.stopJob_keeps ..) rfl
      exact h3
    · exact h3

theorem Chip.requestBank_keeps (c) (a1) (a2) (a3) : Keeps 33569222 c (Chip.requestBank c a1 a2 a3) := by
  unfold Chip.requestBank
  extract_lets z1 z2 z3 z4 z5 z6
  have h7 : Keeps 33569222 c z1 := by
    refine Keeps.trans ?_ (Chip.reseedDrop_keeps ..) rfl
    exact Keeps.refl
  clear_value z1
  have h8 : Keeps 33569222 c z2 := by
    refine Keeps.trans ?_ (Chip.raise_keeps ..) rfl
    refine Keeps.trans ?_ (Chip.setFld_keeps ..) rfl
    exact h7
  clear_value z2
  have h9 : Keeps 33569222 c z4 := by
    refine Keeps.trans ?_ (Chip.setFlight_keeps ..) rfl
    exact h8
  clear_value z4
  refine Keeps.ite ?_ ?_
  · refine Keeps.trans ?_ (Chip.setFld_keeps ..) rfl
    exact h7
  · refine Keeps.ite ?_ ?_
    · refine Keeps.trans ?_ (Chip.reseedOffer_keeps ..) rfl
      refine Keeps.trans ?_ (Chip.setFlight_keeps ..) rfl
      exact h9
    · exact h9

theorem Chip.bankMiss_keeps (c) (a1) : Keeps 4 c (Chip.bankMiss c a1) := by
  unfold Chip.bankMiss
  refine Keeps.trans ?_ (Chip.raise_keeps ..) rfl
  refine Keeps.trans ?_ (Chip.raise_keeps ..) rfl
  refine Keeps.trans ?_ (Chip.setFld_keeps ..) rfl
  exact Keeps.refl

theorem Chip.reseedTimeout_keeps (c) (a1) : Keeps 33569223 c (Chip.reseedTimeout c a1) := by
  unfold Chip.reseedTimeout
  split
  · rename_i z1 z2
    exact Keeps.refl
  · rename_i z3 z4 z5
    extract_lets z6 z7 z8 z9 z10
    have h11 : Keeps 33569223 c z6 := by
      refine Keeps.trans ?_ (Chip.at_keeps ..) rfl
      exact Keeps.refl
    clear_value z6
    have h12 : Keeps 33569223 c z9 := by
      refine Keeps.trans ?_ (Chip.setFlight_keeps ..) rfl
      exact h11
    clear_value z9
    have h13 : Keeps 33569223 c z10 := by
      refine Keeps.ite ?_ ?_
      · refine Keeps.trans ?_ (Chip.stopJob_keeps ..) rfl
        exact h12
      · exact h12
    clear_value z10
    refine Keeps.ite ?_ ?_
    · exact h11
    · refine Keeps.trans ?_ (Chip.raise_keeps ..) rfl
      refine Keeps.trans ?_ (Chip.setFld_keeps ..) rfl
      exact h13

theorem Chip.enterTrack_keeps (c) (a1) : Keeps 4100 c (Chip.enterTrack c a1).1 := by
  unfold Chip.enterTrack
  extract_lets z1 z2 z3
  have h4 : Keeps 4100 c z2 := by
    refine Keeps.trans ?_ (Chip.setFld_keeps ..) rfl
    exact Keeps.refl
  clear_value z2
  refine Keeps.ite1 ?_ ?_
  · dsimp only
    refine Keeps.trans ?_ (Chip.setFld_keeps ..) rfl
    exact h4
  · split
    · rename_i z5 z6 z7
      dsimp only
      refine Keeps.trans ?_ (Chip.raise_keeps ..) rfl
      refine Keeps.trans ?_ (Chip.raise_keeps ..) rfl
      refine Keeps.trans ?_ (Chip.setFld_keeps ..) rfl
      exact h4
    · rename_i z8 z9
      dsimp only
      refine Keeps.trans ?_ (Chip.raise_keeps ..) rfl
      refine Keeps.trans ?_ (Chip.setFlight_keeps ..) rfl
      exact Keeps.refl

theorem Chip.takeMode_keeps (c) (a1) (a2) : Keeps 4100 c (Chip.takeMode c a1 a2) := by
  unfold Chip.takeMode
  extract_lets z1 z2 z3 z4 z5
  have h6 : Keeps 4100 c z3 := by
    refine Keeps.trans ?_ (Chip.setFld_keeps ..) rfl
    exact Keeps.refl
  clear_value z3
  have h7 : Keeps 4100 c z5 := by
    refine Keeps.trans ?_ (Chip.setFlight_keeps ..) rfl
    exact h6
  clear_value z5
  refine Keeps.ite ?_ ?_
  · refine Keeps.trans ?_ (Chip.setFlight_keeps ..) rfl
    exact Keeps.refl
  · refine Keeps.ite ?_ ?_
    · refine Keeps.trans ?_ (Chip.clearQueue_keeps ..) rfl
      exact h7
    · exact h7

theorem Chip.swapAtStart_keeps (c) (a1) : Keeps 4164 c (Chip.swapAtStart c a1).1 := by
  unfold Chip.swapAtStart
  extract_lets z1 z2 z3 z4 z5 z6
  have h7 : Keeps 4164 c z4 := by
    refine Keeps.trans ?_ (Chip.setFlight_keeps ..) rfl
    exact Keeps.refl
  clear_value z4
  have h8 : Keeps 4164 c z6 := by
    refine Keeps.trans ?_ (Chip.raise_keeps ..) rfl
    refine Keeps.trans ?_ (Chip.setFld_keeps ..) rfl
    refine Keeps.trans ?_ (Chip.setFld_keeps ..) rfl
    exact h7
  clear_value z6
  clear_value z3
  split
  · rename_i z9
    exact Keeps.refl
  · rename_i z10 z11
    refine Keeps.ite1 ?_ ?_
    · dsimp only
      refine Keeps.trans ?_ (Chip.bankMiss_keeps ..) rfl
      exact h7
    · dsimp only
      refine Keeps.trans ?_ (Chip.logEvent_keeps ..) rfl
      exact h8

theorem Chip.owedKeep_keeps (c) : Keeps 4097 c (Chip.owedKeep c) := by
  unfold Chip.owedKeep
  refine Keeps.ite ?_ ?_
  · extract_lets z1
    have h2 : Keeps 4097 c z1 := by
      refine Keeps.trans ?_ (Chip.at_keeps ..) rfl
      exact Keeps.refl
    clear_value z1
    refine Keeps.trans ?_ (Keeps.each (m := 4097) _ ?_ _ _) rfl
    · exact h2
    · intro z3 z4
      refine Keeps.trans ?_ (Chip.setFlight_keeps ..) rfl
      exact Keeps.refl
  · exact Keeps.refl

theorem Chip.limiters_keeps (c) (a1) (a2) (a3) (a4) : Keeps 4096 c (Chip.limiters c a1 a2 a3 a4).1 := by
  unfold Chip.limiters
  refine Keeps.trans ?_ (Keeps.foldl1 (m := 4096) _ ?_ _ _) rfl
  · exact Keeps.refl
  · intro z1 z2
    extract_lets z3 z4
    dsimp only
    refine Keeps.trans ?_ (Chip.setAxis_keeps ..) rfl
    exact Keeps.refl

theorem Chip.updateStart_keeps (c) (a1) (a2) : Keeps 4164 c (Chip.updateStart c a1 a2) := by
  unfold Chip.updateStart
  extract_lets z1 z2 z3 z4 z5 z6 z7 z8 z9 z10 z11 z12 z13 z14
  have h15 : Keeps 4164 c z1.1 := by
    refine Keeps.ite1 ?_ ?_
    · refine Keeps.trans ?_ (Chip.enterTrack_keeps ..) rfl
      exact Keeps.refl
    · exact Keeps.refl
  clear_value z1
  have h16 : Keeps 4164 c z2 := by
    exact h15
  clear_value z2
  have h17 : Keeps 4164 c z3 := by
    refine Keeps.trans ?_ (Chip.takeMode_keeps ..) rfl
    exact h16
  clear_value z3
  have h18 : Keeps 4164 c z6.1 := by
    refine Keeps.trans ?_ (Chip.swapAtStart_keeps ..) rfl
    exact h17
  clear_value z6
  have h19 : Keeps 4164 c z7 := by
    exact h18
  clear_value z7
  have h20 : Keeps 4164 c z10.1 := by
    refine Keeps.trans ?_ (Chip.limiters_keeps ..) rfl
    exact h19
  clear_value z10
  have h21 : Keeps 4164 c z11 := by
    exact h20
  clear_value z11
  refine Keeps.ite ?_ ?_
  · exact h15
  · refine Keeps.trans ?_ (Chip.setFlight_keeps ..) rfl
    exact h21

theorem Chip.updateTurn_keeps (c) (a1) : Keeps 4164 c (Chip.updateTurn c a1) := by
  unfold Chip.updateTurn
  split
  · rename_i z1 z2
    exact Keeps.refl
  · rename_i z3 z4 z5
    refine Keeps.ite ?_ ?_
    · split
      · rename_i z6 z7 z8 z9
        refine Keeps.trans ?_ (Chip.updateStart_keeps ..) rfl
        refine Keeps.trans ?_ (Chip.setFlight_keeps ..) rfl
        exact Keeps.refl
      · rename_i z10 z11
        refine Keeps.trans ?_ (Chip.updateStart_keeps ..) rfl
        exact Keeps.refl
    · exact Keeps.refl

theorem Chip.regions_keeps (c) (a1) (a2) (a3) : Keeps 33569222 c (Chip.regions c a1 a2 a3) := by
  unfold Chip.regions
  extract_lets z1 z2 z3 z4 z5
  refine Keeps.ite ?_ ?_
  · exact Keeps.refl
  · refine Keeps.ite ?_ ?_
    · exact Keeps.refl
    · split
      · rename_i z6 z7
        exact Keeps.refl
      · rename_i z8 z9 z10
        extract_lets z11 z12 z13
        have h14 : Keeps 33569222 c z13 := by
          refine Keeps.trans ?_ (Chip.raise_keeps ..) rfl
          refine Keeps.trans ?_ (Chip.setFld_keeps ..) rfl
          exact Keeps.refl
        clear_value z13
        refine Keeps.ite ?_ ?_
        · refine Keeps.trans ?_ (Chip.requestBank_keeps ..) rfl
          exact h14
        · refine Keeps.trans ?_ (Chip.bankMiss_keeps ..) rfl
          refine Keeps.trans ?_ (Chip.reseedDrop_keeps ..) rfl
          exact h14

theorem Chip.flightRecord_keeps (c) (a1) (a2) (a3) (a4) (a5) : Keeps 2101248 c (Chip.flightRecord c a1 a2 a3 a4 a5) := by
  unfold Chip.flightRecord
  extract_lets z1 z2 z3 z4
  refine Keeps.trans ?_ (Chip.ledger_keeps ..) rfl
  refine Keeps.trans ?_ (Chip.setFlight_keeps ..) rfl
  exact Keeps.refl

theorem Chip.stillAfter_keeps (c) (a1) (a2) : Keeps 4100 c (Chip.stillAfter c a1 a2) := by
  unfold Chip.stillAfter
  extract_lets z1 z2 z3 z4
  have h5 : Keeps 4100 c z3 := by
    refine Keeps.trans ?_ (Chip.setFlight_keeps ..) rfl
    exact Keeps.refl
  clear_value z3
  have h6 : Keeps 4100 c z4 := by
    refine Keeps.ite ?_ ?_
    · refine Keeps.trans ?_ (Chip.raise_keeps ..) rfl
      exact h5
    · exact h5
  clear_value z4
  refine Keeps.trans ?_ (Chip.setFlag_keeps ..) rfl
  refine Keeps.trans ?_ (Chip.setFlag_keeps ..) rfl
  exact h6

theorem Chip.measFault_keeps (c) (a1) (a2) : Keeps 4 c (Chip.measFault c a1 a2).1 := by
  unfold Chip.measFault
  extract_lets z1
  refine Keeps.ite1 ?_ ?_
  · refine Keeps.trans ?_ (Chip.count_keeps ..) rfl
    exact Keeps.refl
  · exact Keeps.refl

theorem Chip.lckEcc_keeps (c) (a1) (a2) : Keeps 68 c (Chip.lckEcc c a1 a2) := by
  unfold Chip.lckEcc
  refine Keeps.ite ?_ ?_
  · refine Keeps.trans ?_ (Chip.logTrigger_keeps ..) rfl
    refine Keeps.trans ?_ (Chip.logEvent_keeps ..) rfl
    refine Keeps.trans ?_ (Chip.raise_keeps ..) rfl
    refine Keeps.trans ?_ (Chip.count_keeps ..) rfl
    exact Keeps.refl
  · refine Keeps.trans ?_ (Chip.raise_keeps ..) rfl
    refine Keeps.trans ?_ (Chip.count_keeps ..) rfl
    exact Keeps.refl

theorem Chip.updateAfter_keeps (c) (a1) (a2) : Keeps 33634758 c (Chip.updateAfter c a1 a2) := by
  unfold Chip.updateAfter
  extract_lets z1
  have h2 : Keeps 33634758 c z1 := by
    refine Keeps.trans ?_ (Keeps.each (m := 33634758) _ ?_ _ _) rfl
    · exact Keeps.refl
    · intro z3 z4
      extract_lets z5 z6 z7
      have h8 : Keeps 33634758 z3 z7 := by
        refine Keeps.ite ?_ ?_
        · refine Keeps.trans ?_ (Chip.setAxis_keeps ..) rfl
          exact Keeps.refl
        · exact Keeps.refl
      clear_value z7
      refine Keeps.trans ?_ (Chip.capCommand_keeps ..) rfl
      exact h8
  clear_value z1
  refine Keeps.trans ?_ (Chip.regions_keeps ..) rfl
  exact h2

theorem Chip.updateAbandon_keeps (c) (a1) (a2) (a3) : Keeps 35731910 c (Chip.updateAbandon c a1 a2 a3) := by
  unfold Chip.updateAbandon
  extract_lets z1 z2 z3 z4 z5 z6 z7 z8
  have h9 : Keeps 35731910 c z1 := by
    refine Keeps.trans ?_ (Chip.lckEcc_keeps ..) rfl
    refine Keeps.trans ?_ (Chip.freeWord_keeps ..) rfl
    exact Keeps.refl
  clear_value z1
  have h10 : Keeps 35731910 c z2 := by
    refine Keeps.ite ?_ ?_
    · refine Keeps.trans ?_ (Chip.raiseBit_keeps ..) rfl
      exact h9
    · exact h9
  clear_value z2
  have h11 : Keeps 35731910 c z3.1 := by
    refine Keeps.trans ?_ (Chip.measFault_keeps ..) rfl
    exact h10
  clear_value z3
  have h12 : Keeps 35731910 c z5 := by
    refine Keeps.trans ?_ (Chip.updateAfter_keeps ..) rfl
    refine Keeps.trans ?_ (Chip.flightRecord_keeps ..) rfl
    exact h11
  clear_value z5
  have h13 : Keeps 35731910 c z7 := by
    refine Keeps.trans ?_ (Chip.raiseFaults_keeps ..) rfl
    exact h12
  clear_value z7
  refine Keeps.ite ?_ ?_
  · refine Keeps.trans ?_ (Chip.raiseFaults_keeps ..) rfl
    exact h12
  · refine Keeps.ite ?_ ?_
    · refine Keeps.trans ?_ (Chip.raiseFaults_keeps ..) rfl
      refine Keeps.trans ?_ (Chip.requestBank_keeps ..) rfl
      exact h12
    · refine Keeps.trans ?_ (Chip.setFlight_keeps ..) rfl
      exact h13

theorem Chip.putCommands_keeps (c) (a1) (a2) (a3) : Keeps 4096 c (Chip.putCommands c a1 a2 a3) := by
  unfold Chip.putCommands
  extract_lets z1
  refine Keeps.ite ?_ ?_
  · exact Keeps.refl
  · refine Keeps.trans ?_ (Keeps.each (m := 4096) _ ?_ _ _) rfl
    · exact Keeps.refl
    · intro z2 z3
      extract_lets z4 z5
      refine Keeps.upd_lck ?_ rfl _
      exact Keeps.refl

theorem Chip.updateStore_keeps (c) (a1) (a2) : Keeps 35731910 c (Chip.updateStore c a1 a2) := by
  unfold Chip.updateStore
  extract_lets z1 z2 z3 z4 z5 z6 z7 z8 z9 z10
  have h11 : Keeps 35731910 c z3 := by
    refine Keeps.trans ?_ (Chip.setFlight_keeps ..) rfl
    exact Keeps.refl
  clear_value z3
  have h12 : Keeps 35731910 c z4 := by
    refine Keeps.trans ?_ (Chip.putCommands_keeps ..) rfl
    exact h11
  clear_value z4
  have h13 : Keeps 35731910 c z5 := by
    refine Keeps.trans ?_ (Chip.setFld_keeps ..) rfl
    exact h12
  clear_value z5
  have h14 : Keeps 35731910 c z7.1 := by
    refine Keeps.trans ?_ (Chip.setSat_keeps ..) rfl
    exact h13
  clear_value z7
  have h15 : Keeps 35731910 c z8.1 := by
    refine Keeps.trans ?_ (Chip.measFault_keeps ..) rfl
    exact h14
  clear_value z8
  have h16 : Keeps 35731910 c z10 := by
    refine Keeps.trans ?_ (Chip.flightRecord_keeps ..) rfl
    exact h15
  clear_value z10
  refine Keeps.trans ?_ (Chip.updateAfter_keeps ..) rfl
  refine Keeps.trans ?_ (Chip.raiseFaults_keeps ..) rfl
  exact h16

theorem Chip.haltDone_keeps (c) : Keeps 524300 c (Chip.haltDone c) := by
  unfold Chip.haltDone
  refine Keeps.ite ?_ ?_
  · refine Keeps.trans ?_ (Chip.weirRefresh_keeps ..) rfl
    refine Keeps.trans ?_ (Chip.setWeir_keeps ..) rfl
    exact Keeps.refl
  · exact Keeps.refl

theorem Chip.updateComplete_keeps (c) (a1) (a2) : Keeps 36256206 c (Chip.updateComplete c a1 a2) := by
  unfold Chip.updateComplete
  extract_lets z1
  split
  · rename_i z2 z3
    exact Keeps.refl
  · rename_i z4 z5 z6
    extract_lets z7 z8 z9
    have h10 : Keeps 36256206 c z7 := by
      refine Keeps.trans ?_ (Chip.setFlight_keeps ..) rfl
      exact Keeps.refl
    clear_value z7
    have h11 : Keeps 36256206 c z8 := by
      refine Keeps.ite ?_ ?_
      · refine Keeps.trans ?_ (Chip.lckEcc_keeps ..) rfl
        exact h10
      · exact h10
    clear_value z8
    have h12 : Keeps 36256206 c z9 := by
      refine Keeps.trans ?_ (Chip.haltDone_keeps ..) rfl
      refine Keeps.trans ?_ (Chip.stillAfter_keeps ..) rfl
      exact h11
    clear_value z9
    refine Keeps.ite ?_ ?_
    · exact Keeps.refl
    · refine Keeps.ite ?_ ?_
      · refine Keeps.trans ?_ (Chip.updateAbandon_keeps ..) rfl
        exact h12
      · refine Keeps.ite ?_ ?_
        · refine Keeps.trans ?_ (Chip.updateAbandon_keeps ..) rfl
          exact h12
        · refine Keeps.trans ?_ (Chip.updateStore_keeps ..) rfl
          exact h12

theorem Chip.overruns_keeps (c) : Keeps 4420 c (Chip.overruns c) := by
  unfold Chip.overruns
  refine Keeps.trans ?_ (Keeps.each (m := 4420) _ ?_ _ _) rfl
  · exact Keeps.refl
  · intro z1 z2
    extract_lets z3 z4 z5
    have h6 : Keeps 4420 z1 z4 := by
      refine Keeps.trans ?_ (Chip.setFlight_keeps ..) rfl
      exact Keeps.refl
    clear_value z4
    have h7 : Keeps 4420 z1 z5 := by
      refine Keeps.trans ?_ (Chip.count_keeps ..) rfl
      refine Keeps.trans ?_ (Chip.raise_keeps ..) rfl
      exact h6
    clear_value z5
    refine Keeps.ite ?_ ?_
    · refine Keeps.trans ?_ (Chip.raiseFaults_keeps ..) rfl
      exact h7
    · exact Keeps.refl

theorem Chip.setLckW_keeps (c) (a1) (a2) : Keeps 2048 c (Chip.setLckW c a1 a2) := by
  unfold Chip.setLckW
  extract_lets z1
  refine Keeps.upd_mem ?_ rfl _ (Mems.wf_lck _ _ (memWriteWords_wf _ _ _ _))
  exact Keeps.refl

theorem Chip.pointerCheckDone_keeps (c) (a1) (a2) : Keeps 6148 c (Chip.pointerCheckDone c a1 a2) := by
  unfold Chip.pointerCheckDone
  extract_lets z1 z2 z3
  have h4 : Keeps 6148 c z2 := by
    refine Keeps.upd_lck ?_ rfl _
    exact Keeps.refl
  clear_value z2
  have h5 : Keeps 6148 c z3 := by
    refine Keeps.trans ?_ (Chip.raise_keeps ..) rfl
    refine Keeps.trans ?_ (Chip.raise_keeps ..) rfl
    exact h4
  clear_value z3
  split
  · rename_i z6 z7
    exact Keeps.refl
  · rename_i z8 z9 z10
    split
    · rename_i z11 z12
      refine Keeps.trans ?_ (Chip.setFld_keeps ..) rfl
      refine Keeps.trans ?_ (Chip.setLckW_keeps ..) rfl
      exact h4
    · rename_i z13 z14 z15
      refine Keeps.trans ?_ (Chip.setReg_keeps ..) rfl
      exact h5

theorem Chip.lckWindowWrite_keeps (c) (a1) (a2) : Keeps 6148 c (Chip.lckWindowWrite c a1 a2).1 := by
  unfold Chip.lckWindowWrite
  extract_lets z1 z2 z3 z4 z5 z6 z7 z8
  have h9 : Keeps 6148 c z1.1 := by
    refine Keeps.trans ?_ (Chip.raise_keeps ..) rfl
    exact Keeps.refl
  clear_value z1
  have h10 : Keeps 6148 c z7 := by
    refine Keeps.trans ?_ (Chip.setLckW_keeps ..) rfl
    refine Keeps.upd_lck ?_ rfl _
    exact Keeps.refl
  clear_value z7
  refine Keeps.ite1 ?_ ?_
  · refine Keeps.ite1 ?_ ?_
    · refine Keeps.trans ?_ (Chip.setFld_keeps ..) rfl
      refine Keeps.upd_lck ?_ rfl _
      refine Keeps.trans ?_ (Chip.setLckW_keeps ..) rfl
      exact Keeps.refl
    · refine Keeps.ite1 ?_ ?_
      · exact h9
      · refine Keeps.ite1 ?_ ?_
        · refine Keeps.upd_lck ?_ rfl _
          exact h10
        · refine Keeps.trans ?_ (Chip.setFld_keeps ..) rfl
          refine Keeps.upd_lck ?_ rfl _
          refine Keeps.trans ?_ (Chip.setLckW_keeps ..) rfl
          exact Keeps.refl
  · refine Keeps.ite1 ?_ ?_
    · refine Keeps.trans ?_ (Chip.setLckW_keeps ..) rfl
      exact Keeps.refl
    · exact h9

theorem Chip.flightStart_keeps (c) (a1) : Keeps 4100 c (Chip.flightStart c a1).1 := by
  unfold Chip.flightStart
  extract_lets z1 z2 z3 z4
  have h5 : Keeps 4100 c z3 := by
    refine Keeps.trans ?_ (Chip.setFld_keeps ..) rfl
    exact Keeps.refl
  clear_value z3
  refine Keeps.ite1 ?_ ?_
  · exact Keeps.refl
  · refine Keeps.ite1 ?_ ?_
    · refine Keeps.ite1 ?_ ?_
      · exact Keeps.refl
      · dsimp only
        refine Keeps.trans ?_ (Chip.setFlight_keeps ..) rfl
        exact h5
    · dsimp only
      refine Keeps.trans ?_ (Chip.setFld_keeps ..) rfl
      exact Keeps.refl

theorem Chip.flightHold_keeps (c) (a1) : Keeps 4096 c (Chip.flightHold c a1).1 := by
  unfold Chip.flightHold
  extract_lets z1 z2
  split
  · rename_i z3 z4
    exact Keeps.refl
  · rename_i z5 z6
    exact Keeps.refl
  · rename_i z7 z8
    refine Keeps.trans ?_ (Chip.setFlight_keeps ..) rfl
    exact Keeps.refl
  · rename_i z9 z10 z11 z12
    exact Keeps.refl

theorem Chip.flightResume_keeps (c) (a1) : Keeps 4096 c (Chip.flightResume c a1).1 := by
  unfold Chip.flightResume
  extract_lets z1 z2
  split
  · rename_i z3 z4
    exact Keeps.refl
  · rename_i z5 z6
    refine Keeps.ite1 ?_ ?_
    · exact Keeps.refl
    · dsimp only
      refine Keeps.trans ?_ (Chip.setFlight_keeps ..) rfl
      exact Keeps.refl
  · rename_i z7 z8 z9
    exact Keeps.refl

theorem Chip.flightStop_keeps (c) (a1) : Keeps 4100 c (Chip.flightStop c a1).1 := by
  unfold Chip.flightStop
  extract_lets z1 z2 z3 z4
  have h5 : Keeps 4100 c z3 := by
    refine Keeps.trans ?_ (Chip.raise_keeps ..) rfl
    exact Keeps.refl
  clear_value z3
  refine Keeps.ite1 ?_ ?_
  · exact Keeps.refl
  · refine Keeps.ite ?_ ?_
    · refine Keeps.trans ?_ (Chip.setFlight_keeps ..) rfl
      exact h5
    · exact h5

theorem Chip.clearFlags_keeps (c) (a1) : Keeps 4096 c (Chip.clearFlags c a1).1 := by
  unfold Chip.clearFlags
  extract_lets z1 z2
  refine Keeps.trans ?_ (Chip.setFlight_keeps ..) rfl
  exact Keeps.refl

theorem Chip.flagsClear_keeps (c) : Keeps 4100 c (Chip.flagsClear c) := by
  unfold Chip.flagsClear
  refine Keeps.trans ?_ (Keeps.each (m := 4100) _ ?_ _ _) rfl
  · exact Keeps.refl
  · intro z1 z2
    extract_lets z3
    split
    · rename_i z4 z5
      exact Keeps.refl
    · rename_i z6 z7 z8
      refine Keeps.trans ?_ (Chip.setFlight_keeps ..) rfl
      refine Keeps.trans ?_ (Chip.clearMask_keeps ..) rfl
      exact Keeps.refl

theorem Chip.selectBank_keeps (c) (a1) : Keeps 33569222 c (Chip.selectBank c a1).1 := by
  unfold Chip.selectBank
  extract_lets z1 z2
  refine Keeps.ite1 ?_ ?_
  · exact Keeps.refl
  · refine Keeps.ite1 ?_ ?_
    · exact Keeps.refl
    · dsimp only
      refine Keeps.trans ?_ (Chip.requestBank_keeps ..) rfl
      exact Keeps.refl

theorem Chip.bankLoad_keeps (c) (a1) : Keeps 2048 c (Chip.bankLoad c a1).1 := by
  unfold Chip.bankLoad
  extract_lets z1 z2 z3 z4
  refine Keeps.ite1 ?_ ?_
  · exact Keeps.refl
  · refine Keeps.ite1 ?_ ?_
    · exact Keeps.refl
    · dsimp only
      refine Keeps.upd_mem ?_ rfl _ (Mems.wf_bank _ _ (memWriteWords_wf _ _ _ _))
      exact Keeps.refl

theorem Chip.flightStatus_keeps (c) (a1) : Keeps 0 c (Chip.flightStatus c a1).1 := by
  unfold Chip.flightStatus
  extract_lets z1 z2 z3
  exact Keeps.refl

theorem Chip.trajAppend_keeps (c) (a1) : Keeps 4096 c (Chip.trajAppend c a1).1 := by
  unfold Chip.trajAppend
  extract_lets z1 z2 z3
  refine Keeps.ite1 ?_ ?_
  · exact Keeps.refl
  · split
    · rename_i z4 z5
      exact Keeps.refl
    · rename_i z6 z7 z8
      split
      · rename_i z9 z10 z11
        exact Keeps.refl
      · rename_i z12 z13
        refine Keeps.ite1 ?_ ?_
        · exact Keeps.refl
        · refine Keeps.ite1 ?_ ?_
          · exact Keeps.refl
          · dsimp only
            refine Keeps.trans ?_ (Chip.setFlight_keeps ..) rfl
            exact Keeps.refl

theorem Chip.trajFlush_keeps (c) (a1) : Keeps 4096 c (Chip.trajFlush c a1).1 := by
  unfold Chip.trajFlush
  extract_lets z1 z2
  refine Keeps.ite1 ?_ ?_
  · exact Keeps.refl
  · refine Keeps.trans ?_ (Chip.setFlight_keeps ..) rfl
    exact Keeps.refl

theorem Chip.flightsTrack_keeps (c) (a1) : Keeps 4096 c (Chip.flightsTrack c a1) := by
  unfold Chip.flightsTrack
  refine Keeps.trans ?_ (Keeps.each (m := 4096) _ ?_ _ _) rfl
  · exact Keeps.refl
  · intro z1 z2
    extract_lets z3 z4
    refine Keeps.trans ?_ (Chip.setFlight_keeps ..) rfl
    exact Keeps.refl

theorem Chip.flightsRun_keeps (c) : Keeps 4096 c (Chip.flightsRun c) := by
  unfold Chip.flightsRun
  refine Keeps.trans ?_ (Keeps.each (m := 4096) _ ?_ _ _) rfl
  · exact Keeps.refl
  · intro z1 z2
    extract_lets z3
    refine Keeps.ite ?_ ?_
    · refine Keeps.trans ?_ (Chip.setFlight_keeps ..) rfl
      exact Keeps.refl
    · exact Keeps.refl

theorem Chip.flightsRamp_keeps (c) : Keeps 4096 c (Chip.flightsRamp c) := by
  unfold Chip.flightsRamp
  refine Keeps.trans ?_ (Keeps.each (m := 4096) _ ?_ _ _) rfl
  · exact Keeps.refl
  · intro z1 z2
    extract_lets z3
    refine Keeps.trans ?_ (Chip.setFlight_keeps ..) rfl
    exact Keeps.refl

theorem Chip.flightsIdle_keeps (c) : Keeps 4100 c (Chip.flightsIdle c) := by
  unfold Chip.flightsIdle
  refine Keeps.trans ?_ (Keeps.each (m := 4100) _ ?_ _ _) rfl
  · exact Keeps.refl
  · intro z1 z2
    extract_lets z3 z4 z5 z6 z7
    have h8 : Keeps 4100 z1 z3 := by
      refine Keeps.trans ?_ (Chip.clearQueue_keeps ..) rfl
      exact Keeps.refl
    clear_value z3
    have h9 : Keeps 4100 z1 z6 := by
      refine Keeps.trans ?_ (Chip.setFlight_keeps ..) rfl
      exact h8
    clear_value z6
    have h10 : Keeps 4100 z1 z7 := by
      refine Keeps.trans ?_ (Chip.clearMask_keeps ..) rfl
      exact h9
    clear_value z7
    refine Keeps.trans ?_ (Chip.setFld_keeps ..) rfl
    refine Keeps.trans ?_ (Chip.setFld_keeps ..) rfl
    refine Keeps.trans ?_ (Chip.setFld_keeps ..) rfl
    refine Keeps.trans ?_ (Chip.setFld_keeps ..) rfl
    exact h10

theorem Chip.lckWrite_keeps (c) (a1) (a2) : KeepsO 4 c (Chip.lckWrite c a1 a2) := by
  unfold Chip.lckWrite
  refine KeepsO.ite ?_ ?_
  · refine KeepsO.some ?_
    refine Keeps.ite ?_ ?_
    · refine Keeps.trans ?_ (Chip.writeBits_keeps ..) rfl
      exact Keeps.refl
    · refine Keeps.trans ?_ (Chip.raise_keeps ..) rfl
      exact Keeps.refl
  · exact KeepsO.none

theorem Chip.setGau_keeps (c) (a1) : Keeps 1048576 c (Chip.setGau c a1) := by
  unfold Chip.setGau
  refine Keeps.upd_gau ?_ rfl _
  exact Keeps.refl

theorem Chip.gauTrigger_keeps (c) (a1) : Keeps 1048580 c (Chip.gauTrigger c a1) := by
  unfold Chip.gauTrigger
  refine Keeps.ite ?_ ?_
  · exact Keeps.refl
  · refine Keeps.ite ?_ ?_
    · refine Keeps.trans ?_ (Chip.setGau_keeps ..) rfl
      exact Keeps.refl
    · refine Keeps.trans ?_ (Chip.count_keeps ..) rfl
      exact Keeps.refl

theorem Chip.setMan_keeps (c) (a1) : Keeps 32768 c (Chip.setMan c a1) := by
  unfold Chip.setMan
  refine Keeps.upd_man ?_ rfl _
  exact Keeps.refl

theorem Chip.manStore_keeps (c) (a1) : Keeps 32770 c (Chip.manStore c a1).1 := by
  unfold Chip.manStore
  extract_lets z1 z2 z3 z4 z5 z6
  have h7 : Keeps 32770 c z3.1 := by
    refine Keeps.trans ?_ (Chip.freeWord_keeps ..) rfl
    exact Keeps.refl
  clear_value z3
  dsimp only
  refine Keeps.trans ?_ (Chip.setMan_keeps ..) rfl
  exact h7

theorem Chip.mevo_keeps (c) (a1) (a2) (a3) : Keeps 32776 c (Chip.mevo c a1 a2 a3) := by
  unfold Chip.mevo
  extract_lets z1 z2
  have h3 : Keeps 32776 c z2 := by
    refine Keeps.trans ?_ (Chip.setMan_keeps ..) rfl
    exact Keeps.refl
  clear_value z2
  refine Keeps.ite ?_ ?_
  · refine Keeps.trans ?_ (Chip.emit_keeps ..) rfl
    exact h3
  · exact h3

theorem Chip.pulseEnd_keeps (c) (a1) : Keeps 32777 c (Chip.pulseEnd c a1) := by
  unfold Chip.pulseEnd
  split
  · rename_i z1 z2
    exact Keeps.refl
  · rename_i z3 z4 z5
    refine Keeps.trans ?_ (Chip.mevo_keeps ..) rfl
    refine Keeps.trans ?_ (Chip.at_keeps ..) rfl
    exact Keeps.refl

theorem Chip.manInject_keeps (c) : Keeps 131076 c (Chip.manInject c).1 := by
  unfold Chip.manInject
  refine Keeps.trans ?_ (Keeps.foldl1 (m := 131076) _ ?_ _ _) rfl
  · exact Keeps.refl
  · intro z1 z2
    extract_lets z3
    have h4 : Keeps 131076 z1.fst z3.1 := by
      refine Keeps.trans ?_ (Chip.adcTrigger_keeps ..) rfl
      exact Keeps.refl
    clear_value z3
    refine Keeps.ite1 ?_ ?_
    · exact h4
    · exact Keeps.refl

theorem Chip.manAction_keeps (c) (a1) : Keeps 3313676 c (Chip.manAction c a1).1 := by
  unfold Chip.manAction
  extract_lets z1 z2 z3
  have h4 : Keeps 3313676 c z2.1 := by
    refine Keeps.trans ?_ (Chip.manInject_keeps ..) rfl
    exact Keeps.refl
  clear_value z2
  have h5 : Keeps 3313676 c z3.1 := by
    refine Keeps.trans ?_ (Chip.segRelease_keeps ..) rfl
    exact Keeps.refl
  clear_value z3
  refine Keeps.ite1 ?_ ?_
  · dsimp only
    refine Keeps.trans ?_ (Chip.count_keeps ..) rfl
    exact Keeps.refl
  · clear_value z1
    split
    · rename_i z6
      dsimp only
      refine Keeps.trans ?_ (Chip.mevo_keeps ..) rfl
      exact Keeps.refl
    · rename_i z7
      dsimp only
      refine Keeps.trans ?_ (Chip.mevo_keeps ..) rfl
      exact Keeps.refl
    · rename_i z8
      dsimp only
      refine Keeps.trans ?_ (Chip.mevo_keeps ..) rfl
      exact Keeps.refl
    · rename_i z9
      refine Keeps.ite1 ?_ ?_
      · exact h4
      · dsimp only
        refine Keeps.trans ?_ (Chip.count_keeps ..) rfl
        exact h4
    · rename_i z10
      dsimp only
      refine Keeps.trans ?_ (Chip.gauTrigger_keeps ..) rfl
      refine Keeps.trans ?_ (Chip.setMan_keeps ..) rfl
      exact Keeps.refl
    · rename_i z11
      dsimp only
      refine Keeps.trans ?_ (Chip.setMan_keeps ..) rfl
      exact Keeps.refl
    · rename_i z12
      refine Keeps.ite1 ?_ ?_
      · exact h5
      · dsimp only
        refine Keeps.trans ?_ (Chip.count_keeps ..) rfl
        exact h5
    · rename_i z13 z14 z15 z16 z17 z18 z19 z20
      exact Keeps.refl

theorem Chip.manEvent_keeps (c) (a1) (a2) : Keeps 33554436 c (Chip.manEvent c a1 a2) := by
  unfold Chip.manEvent
  refine Keeps.ite ?_ ?_
  · refine Keeps.trans ?_ (Chip.hostEvent_keeps ..) rfl
    exact Keeps.refl
  · exact Keeps.refl

theorem Chip.manFire_keeps (c) (a1) (a2) : Keeps 36868108 c (Chip.manFire c a1 a2) := by
  unfold Chip.manFire
  extract_lets z1 z2 z3 z4 z5
  have h6 : Keeps 36868108 c z1.1 := by
    refine Keeps.trans ?_ (Chip.manAction_keeps ..) rfl
    exact Keeps.refl
  clear_value z1
  have h7 : Keeps 36868108 c z3 := by
    exact h6
  clear_value z3
  have h8 : Keeps 36868108 c z4 := by
    refine Keeps.ite ?_ ?_
    · refine Keeps.trans ?_ (Chip.raise_keeps ..) rfl
      refine Keeps.trans ?_ (Chip.count_keeps ..) rfl
      exact h7
    · refine Keeps.ite ?_ ?_
      · refine Keeps.trans ?_ (Chip.count_keeps ..) rfl
        exact h7
      · exact h7
  clear_value z4
  have h9 : Keeps 36868108 c z5 := by
    refine Keeps.trans ?_ (Chip.count_keeps ..) rfl
    exact h8
  clear_value z5
  refine Keeps.trans ?_ (Chip.ledger_keeps ..) rfl
  refine Keeps.trans ?_ (Chip.manEvent_keeps ..) rfl
  exact h9

theorem Chip.manFireDue_keeps (c) : Keeps 36868108 c (Chip.manFireDue c) := by
  unfold Chip.manFireDue
  extract_lets z1 z2 z3
  split
  · rename_i z4 z5
    exact Keeps.refl
  · rename_i z6 z7 z8 z9
    extract_lets z10
    refine Keeps.ite ?_ ?_
    · exact Keeps.refl
    · refine Keeps.trans ?_ (Chip.manFire_keeps ..) rfl
      refine Keeps.trans ?_ (Chip.setMan_keeps ..) rfl
      exact Keeps.refl

theorem Chip.manArm_keeps (c) : Keeps 36868108 c (Chip.manArm c) := by
  unfold Chip.manArm
  split
  · rename_i z1 z2
    exact Keeps.refl
  · rename_i z3 z4 z5 z6
    extract_lets z7 z8 z9
    have h10 : Keeps 36868108 c z8 := by
      refine Keeps.trans ?_ (Chip.setMan_keeps ..) rfl
      exact Keeps.refl
    clear_value z8
    have h11 : Keeps 36868108 c z9 := by
      refine Keeps.trans ?_ (Chip.ledger_keeps ..) rfl
      exact h10
    clear_value z9
    refine Keeps.ite ?_ ?_
    · refine Keeps.ite ?_ ?_
      · refine Keeps.trans ?_ (Chip.ledger_keeps ..) rfl
        refine Keeps.trans ?_ (Chip.manEvent_keeps ..) rfl
        refine Keeps.trans ?_ (Chip.count_keeps ..) rfl
        exact h11
      · refine Keeps.trans ?_ (Chip.manFire_keeps ..) rfl
        exact h11
    · refine Keeps.trans ?_ (Chip.setMan_keeps ..) rfl
      exact h11

theorem Chip.manClear_keeps (c) : Keeps 32776 c (Chip.manClear c) := by
  unfold Chip.manClear
  extract_lets z1
  have h2 : Keeps 32776 c z1 := by
    refine Keeps.trans ?_ (Chip.setMan_keeps ..) rfl
    exact Keeps.refl
  clear_value z1
  refine Keeps.trans ?_ (Keeps.each (m := 32776) _ ?_ _ _) rfl
  · exact h2
  · intro z3 z4
    refine Keeps.trans ?_ (Chip.mevo_keeps ..) rfl
    exact Keeps.refl

theorem Chip.manAdd_keeps (c) (a1) : Keeps 32774 c (Chip.manAdd c a1).1 := by
  unfold Chip.manAdd
  extract_lets z1 z2 z3
  have h4 : Keeps 32774 c z3.1 := by
    refine Keeps.trans ?_ (Keeps.foldl1 (m := 32774) _ ?_ _ _) rfl
    · exact Keeps.refl
    · intro z5 z6
      extract_lets z7
      have h8 : Keeps 32774 z5.fst z7.1 := by
        refine Keeps.trans ?_ (Chip.manStore_keeps ..) rfl
        exact Keeps.refl
      clear_value z7
      exact h8
  clear_value z3
  split
  · rename_i z9 z10 z11
    exact Keeps.refl
  · rename_i z12 z13
    refine Keeps.ite1 ?_ ?_
    · exact Keeps.refl
    · refine Keeps.ite1 ?_ ?_
      · exact Keeps.refl
      · refine Keeps.ite1 ?_ ?_
        · refine Keeps.trans ?_ (Chip.raise_keeps ..) rfl
          exact Keeps.refl
        · exact h4

theorem Chip.manCancel_keeps (c) (a1) : Keeps 32768 c (Chip.manCancel c a1).1 := by
  unfold Chip.manCancel
  extract_lets z1
  refine Keeps.ite1 ?_ ?_
  · exact Keeps.refl
  · refine Keeps.ite1 ?_ ?_
    · exact Keeps.refl
    · dsimp only
      refine Keeps.trans ?_ (Chip.setMan_keeps ..) rfl
      exact Keeps.refl

theorem Chip.cancelTick_keeps (c) : Keeps 36868124 c (Chip.cancelTick c) := by
  unfold Chip.cancelTick
  extract_lets z1
  have h2 : Keeps 36868124 c z1 := by
    refine Keeps.ite ?_ ?_
    · refine Keeps.trans ?_ (Keeps.each (m := 36868124) _ ?_ _ _) rfl
      · exact Keeps.refl
      · intro z3 z4
        refine Keeps.trans ?_ (Chip.manFireDue_keeps ..) rfl
        exact Keeps.refl
    · exact Keeps.refl
  clear_value z1
  split
  · rename_i z5 z6
    exact Keeps.refl
  · rename_i z7 z8 z9 z10
    extract_lets z11 z12 z13
    have h14 : Keeps 36868124 c z12 := by
      refine Keeps.trans ?_ (Chip.setMan_keeps ..) rfl
      exact h2
    clear_value z12
    have h15 : Keeps 36868124 c z13 := by
      refine Keeps.trans ?_ (Keeps.each (m := 36868124) _ ?_ _ _) rfl
      · exact h14
      · intro z16 z17
        refine Keeps.trans ?_ (Chip.ledger_keeps ..) rfl
        exact Keeps.refl
    clear_value z13
    refine Keeps.trans ?_ (Chip.reply_keeps ..) rfl
    exact h15

theorem Chip.manList_keeps (c) (a1) : Keeps 0 c (Chip.manList c a1).1 := by
  unfold Chip.manList
  extract_lets z1 z2
  refine Keeps.ite1 ?_ ?_
  · exact Keeps.refl
  · exact Keeps.refl

theorem Chip.setAqu_keeps (c) (a1) : Keeps 2097152 c (Chip.setAqu c a1) := by
  unfold Chip.setAqu
  refine Keeps.upd_aqu ?_ rfl _
  exact Keeps.refl

theorem Chip.aquSend_keeps (c) (a1) (a2) (a3) (a4) (a5) : Keeps 2097160 c (Chip.aquSend c a1 a2 a3 a4 a5) := by
  unfold Chip.aquSend
  extract_lets z1 z2 z3
  refine Keeps.ite ?_ ?_
  · refine Keeps.trans ?_ (Chip.emit_keeps ..) rfl
    refine Keeps.trans ?_ (Chip.setAqu_keeps ..) rfl
    exact Keeps.refl
  · exact Keeps.refl

theorem Chip.aquHear_keeps (c) (a1) : Keeps 2097156 c (Chip.aquHear c a1).1 := by
  unfold Chip.aquHear
  refine Keeps.ite1 ?_ ?_
  · refine Keeps.ite1 ?_ ?_
    · dsimp only
      refine Keeps.trans ?_ (Chip.setAqu_keeps ..) rfl
      exact Keeps.refl
    · dsimp only
      refine Keeps.trans ?_ (Chip.count_keeps ..) rfl
      exact Keeps.refl
  · exact Keeps.refl

theorem Chip.clearsLedger_keeps (c) : Keeps 2101248 c (Chip.clearsLedger c) := by
  unfold Chip.clearsLedger
  refine Keeps.trans ?_ (Keeps.each (m := 2101248) _ ?_ _ _) rfl
  · exact Keeps.refl
  · intro z1 z2
    split
    · rename_i z3 z4
      exact Keeps.refl
    · rename_i z5 z6 z7
      refine Keeps.trans ?_ (Chip.ledger_keeps ..) rfl
      refine Keeps.trans ?_ (Chip.setFlight_keeps ..) rfl
      exact Keeps.refl

theorem Chip.ledgerFreeze_keeps (c) : Keeps 2101248 c (Chip.ledgerFreeze c) := by
  unfold Chip.ledgerFreeze
  extract_lets z1 z2 z3
  have h4 : Keeps 2101248 c z1 := by
    refine Keeps.trans ?_ (Chip.clearsLedger_keeps ..) rfl
    exact Keeps.refl
  clear_value z1
  refine Keeps.trans ?_ (Chip.setAqu_keeps ..) rfl
  exact h4

theorem Chip.sendFrame_keeps (c) (a1) (a2) : Keeps 2097160 c (Chip.sendFrame c a1 a2) := by
  unfold Chip.sendFrame
  refine Keeps.trans ?_ (Chip.aquSend_keeps ..) rfl
  exact Keeps.refl

theorem Chip.sendCommit_keeps (c : Chip) (k : Commit) (n room : Nat) : Keeps 2097160 c (c.sendCommit k n room).1 := by
  induction n generalizing c k room with
  | zero => unfold Chip.sendCommit; exact Keeps.refl
  | succ n ih =>
    unfold Chip.sendCommit
    refine Keeps.ite1 Keeps.refl ?_
    exact Keeps.trans (Keeps.trans Keeps.refl (Chip.sendFrame_keeps ..) rfl) (ih ..) rfl

theorem Chip.ledgerSend_keeps (c) : Keeps 2097164 c (Chip.ledgerSend c) := by
  unfold Chip.ledgerSend
  extract_lets z1
  have h2 : Keeps 2097164 c z1.1 := by
    refine Keeps.trans ?_ (Keeps.foldl1 (m := 2097164) _ ?_ _ _) rfl
    · exact Keeps.refl
    · intro z3 z4
      extract_lets z5 z6 z7 z8 z9
      have h10 : Keeps 2097164 z3.fst z5.1 := by
        refine Keeps.trans ?_ (Chip.sendCommit_keeps ..) rfl
        exact Keeps.refl
      clear_value z5
      have h11 : Keeps 2097164 z3.fst z8 := by
        refine Keeps.trans ?_ (Chip.setFld_keeps ..) rfl
        refine Keeps.trans ?_ (Chip.setReg_keeps ..) rfl
        exact h10
      clear_value z8
      have h12 : Keeps 2097164 z3.fst z9 := by
        refine Keeps.ite ?_ ?_
        · refine Keeps.ite ?_ ?_
          · refine Keeps.trans ?_ (Chip.raise_keeps ..) rfl
            exact h11
          · exact h11
        · exact h10
      clear_value z9
      exact h12
  clear_value z1
  refine Keeps.ite ?_ ?_
  · exact Keeps.refl
  · refine Keeps.trans ?_ (Chip.setAqu_keeps ..) rfl
    exact h2

theorem Chip.ledgerCommit_keeps (c) (a1) : Keeps 2097156 c (Chip.ledgerCommit c a1) := by
  unfold Chip.ledgerCommit
  refine Keeps.ite ?_ ?_
  · extract_lets z1 z2 z3
    have h4 : Keeps 2097156 c z3 := by
      refine Keeps.trans ?_ (Chip.peak_keeps ..) rfl
      refine Keeps.trans ?_ (Chip.setFld_keeps ..) rfl
      exact Keeps.refl
    clear_value z3
    split
    · rename_i z5 z6 z7 z8
      refine Keeps.ite ?_ ?_
      · refine Keeps.ite ?_ ?_
        · refine Keeps.trans ?_ (Chip.setAqu_keeps ..) rfl
          exact h4
        · refine Keeps.trans ?_ (Chip.setAqu_keeps ..) rfl
          exact h4
      · refine Keeps.trans ?_ (Chip.setAqu_keeps ..) rfl
        exact h4
    · rename_i z9 z10
      refine Keeps.trans ?_ (Chip.setAqu_keeps ..) rfl
      exact h4
  · exact Keeps.refl

theorem Chip.nakReceived_keeps (c) (a1) : Keeps 2097164 c (Chip.nakReceived c a1) := by
  unfold Chip.nakReceived
  split
  · rename_i z1 z2
    exact Keeps.refl
  · rename_i z3 z4 z5
    extract_lets z6
    have h7 : Keeps 2097164 c z6 := by
      refine Keeps.trans ?_ (Chip.count_keeps ..) rfl
      refine Keeps.trans ?_ (Keeps.each (m := 2097164) _ ?_ _ _) rfl
      · exact Keeps.refl
      · intro z8 z9
        refine Keeps.trans ?_ (Chip.sendFrame_keeps ..) rfl
        exact Keeps.refl
    clear_value z6
    refine Keeps.trans ?_ (Chip.setAqu_keeps ..) rfl
    exact h7

theorem Chip.nak_keeps (c) (a1) : Keeps 2097160 c (Chip.nak c a1) := by
  unfold Chip.nak
  refine Keeps.trans ?_ (Chip.aquSend_keeps ..) rfl
  exact Keeps.refl

theorem Chip.seqLost_keeps (c) : Keeps 2097160 c (Chip.seqLost c) := by
  unfold Chip.seqLost
  refine Keeps.ite ?_ ?_
  · refine Keeps.trans ?_ (Chip.setAqu_keeps ..) rfl
    refine Keeps.trans ?_ (Keeps.each (m := 2097160) _ ?_ _ _) rfl
    · exact Keeps.refl
    · intro z1 z2
      refine Keeps.trans ?_ (Chip.nak_keeps ..) rfl
      exact Keeps.refl
  · exact Keeps.refl

theorem Chip.onFrame_keeps {m : Nat} (c : Chip) (h : AquHead) (f : Chip → Chip) (hf : ∀ c, Keeps m c (f c)) (hm : 2097164 ||| m = m) :
    Keeps m c (c.onFrame h f) := by
  unfold Chip.onFrame
  have h1 : Keeps m c (c.aquHear h).1 := Keeps.trans Keeps.refl (Chip.aquHear_keeps ..) (by rw [← hm, ← Nat.or_assoc]; rfl)
  refine Keeps.ite (Keeps.trans (Keeps.ite ?_ h1) (hf _) (Nat.or_self m)) h1
  exact h1.trans (Chip.seqLost_keeps ..) (by rw [← hm, ← Nat.or_assoc]; rfl)

theorem Chip.twinLongsEnd_keeps (c) (a1) : Keeps 33554460 c (Chip.twinLongsEnd c a1) := by
  unfold Chip.twinLongsEnd
  refine Keeps.trans ?_ (Keeps.each (m := 33554460) _ ?_ _ _) rfl
  · exact Keeps.refl
  · intro z1 z2
    refine Keeps.ite ?_ ?_
    · refine Keeps.trans ?_ (Chip.finish_keeps ..) rfl
      exact Keeps.refl
    · exact Keeps.refl

theorem Chip.ackReceived_keeps (c) (a1) : Keeps 33554460 c (Chip.ackReceived c a1) := by
  unfold Chip.ackReceived
  extract_lets z1 z2
  have h3 : Keeps 33554460 c z1 := by
    refine Keeps.trans ?_ (Chip.setReg_keeps ..) rfl
    exact Keeps.refl
  clear_value z1
  have h4 : Keeps 33554460 c z2 := by
    refine Keeps.ite ?_ ?_
    · refine Keeps.trans ?_ (Chip.count_keeps ..) rfl
      exact h3
    · exact h3
  clear_value z2
  refine Keeps.ite ?_ ?_
  · refine Keeps.trans ?_ (Chip.twinLongsEnd_keeps ..) rfl
    exact h4
  · exact Keeps.refl

theorem Chip.logPut_keeps (c) (a1) (a2) : Keeps 64 c (Chip.logPut c a1 a2) := by
  unfold Chip.logPut
  refine Keeps.trans ?_ (Chip.setLog_keeps _ _ (fun _ h => memWriteWords_wf _ _ _ _ h)) rfl
  exact Keeps.refl

theorem Chip.saveStart_keeps (c) : Keeps 196 c (Chip.saveStart c) := by
  unfold Chip.saveStart
  extract_lets z1
  have h2 : Keeps 196 c z1.1 := by
    refine Keeps.trans ?_ (Chip.submit_keeps ..) rfl
    refine Keeps.trans ?_ (Chip.raise_keeps ..) rfl
    exact Keeps.refl
  clear_value z1
  refine Keeps.trans ?_ (Chip.setLog_keeps _ _ (fun _ h => h)) rfl
  exact h2

theorem Chip.savePump_keeps (c) : Keeps 196 c (Chip.savePump c) := by
  unfold Chip.savePump
  refine Keeps.ite ?_ ?_
  · refine Keeps.trans ?_ (Chip.saveStart_keeps ..) rfl
    exact Keeps.refl
  · exact Keeps.refl

theorem Chip.autoSave_keeps (c) : Keeps 196 c (Chip.autoSave c) := by
  unfold Chip.autoSave
  refine Keeps.ite ?_ ?_
  · refine Keeps.trans ?_ (Chip.savePump_keeps ..) rfl
    refine Keeps.trans ?_ (Chip.setLog_keeps _ _ (fun _ h => h)) rfl
    exact Keeps.refl
  · exact Keeps.refl

theorem Chip.freezeNow_keeps (c) (a1) (a2) : Keeps 196 c (Chip.freezeNow c a1 a2) := by
  unfold Chip.freezeNow
  extract_lets z1
  have h2 : Keeps 196 c z1 := by
    refine Keeps.trans ?_ (Chip.setLog_keeps _ _ (fun _ h => h)) rfl
    refine Keeps.trans ?_ (Chip.logFreeze_keeps ..) rfl
    exact Keeps.refl
  clear_value z1
  refine Keeps.ite ?_ ?_
  · refine Keeps.trans ?_ (Chip.autoSave_keeps ..) rfl
    exact h2
  · exact h2

theorem Chip.saveReply_keeps (c) (a1) : Keeps 33554460 c (Chip.saveReply c a1) := by
  unfold Chip.saveReply
  split
  · rename_i z1 z2 z3
    refine Keeps.trans ?_ (Chip.finish_keeps ..) rfl
    exact Keeps.refl
  · rename_i z4 z5
    exact Keeps.refl

theorem Chip.saveComplete_keeps (c) (a1) : Keeps 33554684 c (Chip.saveComplete c a1) := by
  unfold Chip.saveComplete
  extract_lets z1 z2 z3 z4
  have h5 : Keeps 33554684 c z1 := by
    refine Keeps.trans ?_ (Chip.setFld_keeps ..) rfl
    refine Keeps.trans ?_ (Chip.setFld_keeps ..) rfl
    refine Keeps.trans ?_ (Chip.workDone_keeps ..) rfl
    exact Keeps.refl
  clear_value z1
  have h6 : Keeps 33554684 c z3 := by
    refine Keeps.trans ?_ (Chip.setBoot_keepsFlash _ _ (fun _ => rfl) (fun _ => rfl) (fun _ h => flashPut_wf _ _ _ h)) rfl
    exact h5
  clear_value z3
  have h7 : Keeps 33554684 c z4 := by
    refine Keeps.trans ?_ (Chip.setFld_keeps ..) rfl
    refine Keeps.trans ?_ (Chip.setLog_keeps _ _ (fun _ h => h)) rfl
    exact h6
  clear_value z4
  refine Keeps.ite ?_ ?_
  · refine Keeps.ite ?_ ?_
    · refine Keeps.trans ?_ (Chip.saveReply_keeps ..) rfl
      refine Keeps.trans ?_ (Chip.raise_keeps ..) rfl
      refine Keeps.trans ?_ (Chip.raise_keeps ..) rfl
      refine Keeps.trans ?_ (Chip.setFld_keeps ..) rfl
      exact h7
    · refine Keeps.trans ?_ (Chip.saveReply_keeps ..) rfl
      refine Keeps.trans ?_ (Chip.raise_keeps ..) rfl
      refine Keeps.trans ?_ (Chip.setFld_keeps ..) rfl
      exact h5
  · exact Keeps.refl

theorem Chip.spareErased_keeps (c) : Keeps 228 c (Chip.spareErased c) := by
  unfold Chip.spareErased
  extract_lets z1
  refine Keeps.ite ?_ ?_
  · exact Keeps.refl
  · refine Keeps.trans ?_ (Chip.savePump_keeps ..) rfl
    refine Keeps.trans ?_ (Chip.raise_keeps ..) rfl
    refine Keeps.trans ?_ (Chip.setBoot_keepsFlash _ _ (fun _ => rfl) (fun _ => rfl) (fun _ h => flashErase_wf _ _ _ h)) rfl
    exact Keeps.refl

theorem Chip.snapProbe_keeps (c : Chip) : Keeps 65 c c.snapProbe := by
  unfold Chip.snapProbe
  refine Keeps.ite ?_ Keeps.refl
  refine Keeps.trans ?_ (Chip.logPut_keeps ..) rfl
  refine Keeps.trans ?_ (Chip.logPut_keeps ..) rfl
  refine Keeps.trans ?_ (Chip.setLog_keeps _ _ (fun _ h => tabClear_wf _ _ _ h)) rfl
  exact Keeps.trans Keeps.refl (Chip.at_keeps ..) rfl

theorem Chip.snapLedger_keeps (c) (a1) : Keeps 64 c (Chip.snapLedger c a1) := by
  unfold Chip.snapLedger
  extract_lets z1 z2
  refine Keeps.trans ?_ (Chip.setLog_keeps _ _ (fun _ h => h)) rfl
  exact Keeps.refl

theorem Chip.slotComplete_keeps (c : Chip) : Keeps 196 c c.slotComplete := by
  unfold Chip.slotComplete
  split
  · exact Keeps.refl
  · next e _ =>
    refine Keeps.ite ?_ Keeps.refl
    have h1 := (Keeps.trans Keeps.refl (Chip.setLog_keeps c (fun l => { l with
        pendSlots := l.pendSlots.filter (fun x => x.1 != e.1)
        mem := memWrite 0 (slotAt e.1 + 0xC0) e.2.1 l.mem }) (fun _ h => memWrite_wf _ _ _ _ h)) rfl (m := 196)).trans
        (Chip.logPut_keeps _ (slotAt e.1 + 4) [w32 (2 ^ 31 + b2n e.2.2 * 2 ^ 30 + e.2.1.length)]) rfl
    exact Keeps.ite (h1.trans (Chip.freezeNow_keeps ..) rfl) h1

theorem Chip.trigger7_keeps (c) : Keeps 196 c (Chip.trigger7 c) := by
  unfold Chip.trigger7
  refine Keeps.ite ?_ ?_
  · refine Keeps.trans ?_ (Chip.freezeNow_keeps ..) rfl
    refine Keeps.trans ?_ (Chip.logTrigger_keeps ..) rfl
    exact Keeps.refl
  · exact Keeps.refl

theorem Chip.brownoutFreeze_keeps (c) : Keeps 196 c (Chip.brownoutFreeze c) := by
  unfold Chip.brownoutFreeze
  refine Keeps.ite ?_ ?_
  · refine Keeps.trans ?_ (Chip.freezeNow_keeps ..) rfl
    exact Keeps.refl
  · exact Keeps.refl

theorem Chip.markReleased_keeps (c) : Keeps 32 c (Chip.markReleased c) := by
  unfold Chip.markReleased
  extract_lets z1
  refine Keeps.trans ?_ (Chip.setBoot_keepsFlash _ _ (fun _ => rfl) (fun _ => rfl) (fun _ h => tabPut_wf _ _ _ h)) rfl
  exact Keeps.refl

theorem Chip.logRelease_keeps (c : Chip) (k : Intake) : Keeps 100 c (c.logRelease k).1 := by
  unfold Chip.logRelease
  refine Keeps.ite1 Keeps.refl (Keeps.ite1 Keeps.refl ?_)
  have h1 : Keeps 100 c (if c.lstate = 3 ∨ c.flag LOG_STATUS__SAVED = true then c.markReleased else c) :=
    Keeps.ite (Keeps.trans Keeps.refl (Chip.markReleased_keeps ..) rfl) Keeps.refl
  dsimp only
  generalize (if c.lstate = 3 ∨ c.flag LOG_STATUS__SAVED = true then c.markReleased else c) = d at h1
  have h2 := (h1.trans (Chip.setFld_keeps d LOG_STATUS__LSTATE 0) rfl).trans (Chip.setFld_keeps _ LOG_STATUS__SAVED 0) rfl
  have h3 := h2.trans (Chip.setLog_keeps _ (fun l => { l with mem := [], q := [], bootEvt := none, freezeAt := none, pendSlots := [], savePend := false }) (fun _ _ => rfl)) rfl
  split
  · exact h3.trans (Chip.logEvent_keeps ..) rfl
  · exact h3

theorem Chip.logFreezeCmd_keeps (c) (a1) : Keeps 196 c (Chip.logFreezeCmd c a1).1 := by
  unfold Chip.logFreezeCmd
  refine Keeps.ite1 ?_ ?_
  · dsimp only
    refine Keeps.trans ?_ (Chip.freezeNow_keeps ..) rfl
    exact Keeps.refl
  · exact Keeps.refl

theorem Chip.logSaveCmd_keeps (c) (a1) : Keeps 196 c (Chip.logSaveCmd c a1).1 := by
  unfold Chip.logSaveCmd
  refine Keeps.ite1 ?_ ?_
  · exact Keeps.refl
  · refine Keeps.ite1 ?_ ?_
    · exact Keeps.refl
    · refine Keeps.trans ?_ (Chip.saveStart_keeps ..) rfl
      exact Keeps.refl

theorem Chip.logStatusCmd_keeps (c) (a1) : Keeps 0 c (Chip.logStatusCmd c a1).1 := by
  unfold Chip.logStatusCmd
  exact Keeps.refl

theorem Chip.logRead_keeps (c) (a1) : Keeps 0 c (Chip.logRead c a1).1 := by
  unfold Chip.logRead
  extract_lets z1 z2
  refine Keeps.ite1 ?_ ?_
  · exact Keeps.refl
  · refine Keeps.ite1 ?_ ?_
    · exact Keeps.refl
    · exact Keeps.refl

theorem Chip.logWr_keeps (c) (a1) (a2) : KeepsO 68 c (Chip.logWr c a1 a2) := by
  unfold Chip.logWr
  extract_lets z1 z2 z3
  have h4 : Keeps 68 c z3 := by
    refine Keeps.trans ?_ (Chip.writeBits_keeps ..) rfl
    exact Keeps.refl
  clear_value z3
  refine KeepsO.ite ?_ ?_
  · refine KeepsO.ite ?_ ?_
    · refine KeepsO.some ?_
      refine Keeps.trans ?_ (Chip.raise_keeps ..) rfl
      exact Keeps.refl
    · refine KeepsO.ite ?_ ?_
      · refine KeepsO.some ?_
        refine Keeps.trans ?_ (Chip.setLog_keeps _ _ (fun _ h => h)) rfl
        refine Keeps.trans ?_ (Chip.setFld_keeps ..) rfl
        exact h4
      · refine KeepsO.ite ?_ ?_
        · refine KeepsO.some ?_
          refine Keeps.trans ?_ (Chip.setFld_keeps ..) rfl
          exact h4
        · refine KeepsO.some ?_
          exact h4
  · refine KeepsO.ite ?_ ?_
    · refine KeepsO.ite ?_ ?_
      · refine KeepsO.some ?_
        refine Keeps.trans ?_ (Chip.writeBits_keeps ..) rfl
        exact Keeps.refl
      · refine KeepsO.some ?_
        refine Keeps.trans ?_ (Chip.raise_keeps ..) rfl
        exact Keeps.refl
    · refine KeepsO.ite ?_ ?_
      · refine KeepsO.ite ?_ ?_
        · refine KeepsO.some ?_
          refine Keeps.trans ?_ (Chip.writeBits_keeps ..) rfl
          exact Keeps.refl
        · refine KeepsO.some ?_
          refine Keeps.trans ?_ (Chip.raise_keeps ..) rfl
          exact Keeps.refl
      · refine KeepsO.ite ?_ ?_
        · refine KeepsO.ite ?_ ?_
          · refine KeepsO.some ?_
            refine Keeps.trans ?_ (Chip.writeBits_keeps ..) rfl
            exact Keeps.refl
          · refine KeepsO.some ?_
            refine Keeps.trans ?_ (Chip.raise_keeps ..) rfl
            exact Keeps.refl
        · exact KeepsO.none

theorem Chip.logRestore_keeps (c : Chip) : Keeps 68 c c.logRestore := by
  unfold Chip.logRestore
  split
  · exact Keeps.refl
  · next s cnt _ =>
    have h1 := (Keeps.trans Keeps.refl (Chip.setFld_keeps c LOG_SAVE_STAT__NEWEST s) rfl (m := 68)).trans
      (Chip.setLog_keeps _ (fun l => { l with saveCnt := cnt }) (fun _ h => h)) rfl
    dsimp only
    refine Keeps.ite ?_ h1
    refine Keeps.trans ?_ (Chip.setFld_keeps ..) rfl
    refine Keeps.trans ?_ (Chip.setFld_keeps ..) rfl
    refine Keeps.trans ?_ (Chip.setReg_keeps ..) rfl
    refine Keeps.trans ?_ (Chip.setReg_keeps ..) rfl
    exact h1.trans (Chip.setLog_keeps _ _ (fun _ _ => memFold_wf 0 _ (fun _ _ w => memWrite_wf _ _ _ _ w) _ _
      (memWrite_wf _ _ _ _ rfl))) rfl

theorem Chip.bootEvent_keeps (c) : Keeps 68 c (Chip.bootEvent c) := by
  unfold Chip.bootEvent
  extract_lets z1
  refine Keeps.ite ?_ ?_
  · refine Keeps.trans ?_ (Chip.setLog_keeps _ _ (fun _ h => h)) rfl
    exact Keeps.refl
  · refine Keeps.trans ?_ (Chip.logEvent_keeps ..) rfl
    exact Keeps.refl

theorem Chip.psetLoad_keeps (c) (a1) : Keeps 524292 c (Chip.psetLoad c a1).1 := by
  unfold Chip.psetLoad
  extract_lets z1 z2 z3 z4 z5 z6
  have h7 : Keeps 524292 c z5 := by
    refine Keeps.trans ?_ (Chip.setWeir_keeps ..) rfl
    exact Keeps.refl
  clear_value z5
  have h8 : Keeps 524292 c z6 := by
    refine Keeps.trans ?_ (Chip.setFld_keeps ..) rfl
    refine Keeps.trans ?_ (Chip.setFlag_keeps ..) rfl
    exact h7
  clear_value z6
  refine Keeps.ite1 ?_ ?_
  · exact Keeps.refl
  · refine Keeps.ite1 ?_ ?_
    · exact Keeps.refl
    · refine Keeps.ite1 ?_ ?_
      · exact Keeps.refl
      · exact h8

theorem Chip.psetChecked_keeps (c) (a1) : Keeps 34078748 c (Chip.psetChecked c a1) := by
  unfold Chip.psetChecked
  split
  · rename_i z1 z2
    exact Keeps.refl
  · rename_i z3 z4 z5
    extract_lets z6 z7 z8 z9 z10
    have h11 : Keeps 34078748 c z8 := by
      refine Keeps.trans ?_ (Chip.raise_keeps ..) rfl
      refine Keeps.trans ?_ (Chip.setReg_keeps ..) rfl
      exact Keeps.refl
    clear_value z8
    have h12 : Keeps 34078748 c z9 := by
      refine Keeps.trans ?_ (Chip.raise_keeps ..) rfl
      refine Keeps.trans ?_ (Chip.setFld_keeps ..) rfl
      refine Keeps.trans ?_ (Chip.setFld_keeps ..) rfl
      exact h11
    clear_value z9
    have h13 : Keeps 34078748 c z10 := by
      refine Keeps.trans ?_ (Chip.setWeir_keeps ..) rfl
      exact h12
    clear_value z10
    split
    · rename_i z14 z15 z16 z17
      extract_lets z18
      have h19 : Keeps 34078748 c z18 := by
        refine Keeps.trans ?_ (Chip.setFld_keeps ..) rfl
        refine Keeps.trans ?_ (Chip.setFld_keeps ..) rfl
        exact h11
      clear_value z18
      refine Keeps.trans ?_ (Chip.finish_keeps ..) rfl
      exact h19
    · rename_i z20 z21
      refine Keeps.trans ?_ (Chip.finish_keeps ..) rfl
      exact h13

theorem Chip.psetConfirm_keeps (c) (a1) : Keeps 524292 c (Chip.psetConfirm c a1).1 := by
  unfold Chip.psetConfirm
  extract_lets z1 z2
  refine Keeps.ite1 ?_ ?_
  · exact Keeps.refl
  · refine Keeps.ite1 ?_ ?_
    · exact Keeps.refl
    · refine Keeps.ite1 ?_ ?_
      · exact Keeps.refl
      · clear_value z2
        split
        · rename_i z3 z4
          dsimp only
          refine Keeps.trans ?_ (Chip.setWeir_keeps ..) rfl
          refine Keeps.trans ?_ (Chip.setFld_keeps ..) rfl
          refine Keeps.trans ?_ (Chip.setFld_keeps ..) rfl
          exact Keeps.refl
        · rename_i z5
          exact Keeps.refl

theorem Chip.confirmExpiry_keeps (c) : Keeps 524292 c (Chip.confirmExpiry c) := by
  unfold Chip.confirmExpiry
  split
  · rename_i z1 z2 z3
    refine Keeps.ite ?_ ?_
    · refine Keeps.trans ?_ (Chip.setWeir_keeps ..) rfl
      refine Keeps.trans ?_ (Chip.setFld_keeps ..) rfl
      exact Keeps.refl
    · exact Keeps.refl
  · rename_i z4 z5
    exact Keeps.refl

theorem Chip.psetFlash_keeps (c : Chip) (m : List (Nat × Byte)) : Keeps 32 c (c.psetFlash m) := by
  unfold Chip.psetFlash
  exact Keeps.upd_flash Keeps.refl rfl _ rfl rfl (fun h => memWrite_wf _ _ _ _ (memWrite_wf _ _ _ _ h))

theorem Chip.psetWritten_keeps (c) (a1) : Keeps 34078780 c (Chip.psetWritten c a1) := by
  unfold Chip.psetWritten
  extract_lets z1 z2 z3
  have h4 : Keeps 34078780 c z2 := by
    refine Keeps.trans ?_ (Chip.psetFlash_keeps ..) rfl
    exact Keeps.refl
  clear_value z2
  have h5 : Keeps 34078780 c z3 := by
    refine Keeps.trans ?_ (Chip.setWeir_keeps ..) rfl
    refine Keeps.trans ?_ (Chip.setFld_keeps ..) rfl
    exact h4
  clear_value z3
  split
  · rename_i z6 z7
    exact Keeps.refl
  · rename_i z8 z9 z10
    refine Keeps.ite ?_ ?_
    · refine Keeps.trans ?_ (Chip.finish_keeps ..) rfl
      exact h5
    · refine Keeps.trans ?_ (Chip.finish_keeps ..) rfl
      exact Keeps.refl

theorem Chip.weirFresh_keeps (c) : Keeps 524300 c (Chip.weirFresh c) := by
  unfold Chip.weirFresh
  extract_lets z1 z2 z3 z4
  have h5 : Keeps 524300 c z1 := by
    refine Keeps.trans ?_ (Chip.setWeir_keeps ..) rfl
    exact Keeps.refl
  clear_value z1
  have h6 : Keeps 524300 c z2 := by
    refine Keeps.trans ?_ (Chip.tpRelease_keeps ..) rfl
    exact h5
  clear_value z2
  have h7 : Keeps 524300 c z4 := by
    refine Keeps.trans ?_ (Keeps.each (m := 524300) _ ?_ _ _) rfl
    · exact h6
    · intro z10 z11
      refine Keeps.trans ?_ (Chip.setSafeIn_keeps ..) rfl
      exact Keeps.refl
  clear_value z4
  refine Keeps.trans ?_ (Chip.setReg_keeps ..) rfl
  refine Keeps.trans ?_ (Keeps.each (m := 524300) _ ?_ _ _) rfl
  · exact h7
  · intro z8 z9
    refine Keeps.trans ?_ (Chip.setReg_keeps ..) rfl
    exact Keeps.refl

theorem Chip.psetActivate_keeps (c) : Keeps 655708 c (Chip.psetActivate c) := by
  unfold Chip.psetActivate
  extract_lets z1 z2 z3 z4 z5 z6 z7 z8 z9 z10
  have h11 : Keeps 655708 c z2 := by
    refine Keeps.trans ?_ (Chip.setWeir_keeps ..) rfl
    exact Keeps.refl
  clear_value z2
  have h12 : Keeps 655708 c z3 := by
    refine Keeps.trans ?_ (Chip.weirFresh_keeps ..) rfl
    exact h11
  clear_value z3
  have h13 : Keeps 655708 c z4 := by
    refine Keeps.trans ?_ (Chip.setReg_keeps ..) rfl
    refine Keeps.trans ?_ (Chip.setReg_keeps ..) rfl
    exact h12
  clear_value z4
  have h14 : Keeps 655708 c z5 := by
    refine Keeps.trans ?_ (Chip.raise_keeps ..) rfl
    exact h13
  clear_value z5
  have h15 : Keeps 655708 c z6 := by
    refine Keeps.trans ?_ (Chip.clearMask_keeps ..) rfl
    exact h14
  clear_value z6
  have h16 : Keeps 655708 c z8 := by
    refine Keeps.trans ?_ (Keeps.each (m := 655708) _ ?_ _ _) rfl
    · exact h15
    · intro z21 z22
      extract_lets z23 z24
      have h25 : Keeps 655708 z21 z24 := by
        refine Keeps.trans ?_ (Chip.setReg_keeps ..) rfl
        exact Keeps.refl
      clear_value z24
      refine Keeps.ite ?_ ?_
      · exact h25
      · refine Keeps.trans ?_ (Chip.setConn_keeps ..) rfl
        exact h25
  clear_value z8
  have h17 : Keeps 655708 c z9 := by
    refine Keeps.trans ?_ (Keeps.each (m := 655708) _ ?_ _ _) rfl
    · exact h16
    · intro z19 z20
      refine Keeps.trans ?_ (Chip.setReg_keeps ..) rfl
      exact Keeps.refl
  clear_value z9
  have h18 : Keeps 655708 c z10 := by
    refine Keeps.ite ?_ ?_
    · refine Keeps.trans ?_ (Chip.setFld_keeps ..) rfl
      exact h17
    · exact h17
  clear_value z10
  refine Keeps.trans ?_ (Chip.weirRefresh_keeps ..) rfl
  refine Keeps.trans ?_ (Chip.weirFollow_keeps ..) rfl
  exact h18

theorem Chip.psetDeactivate_keeps (c) : Keeps 524300 c (Chip.psetDeactivate c) := by
  unfold Chip.psetDeactivate
  extract_lets z1 z2 z3 z4 z5 z6 z7
  have h8 : Keeps 524300 c z1 := by
    refine Keeps.trans ?_ (Chip.setWeir_keeps ..) rfl
    exact Keeps.refl
  clear_value z1
  have h9 : Keeps 524300 c z2 := by
    refine Keeps.trans ?_ (Chip.weirFresh_keeps ..) rfl
    exact h8
  clear_value z2
  have h10 : Keeps 524300 c z3 := by
    refine Keeps.trans ?_ (Chip.setReg_keeps ..) rfl
    refine Keeps.trans ?_ (Chip.setReg_keeps ..) rfl
    exact h9
  clear_value z3
  have h11 : Keeps 524300 c z4 := by
    refine Keeps.trans ?_ (Chip.clearMask_keeps ..) rfl
    exact h10
  clear_value z4
  have h12 : Keeps 524300 c z5 := by
    refine Keeps.trans ?_ (Keeps.each (m := 524300) _ ?_ _ _) rfl
    · exact h11
    · intro z17 z18
      refine Keeps.trans ?_ (Chip.setReg_keeps ..) rfl
      exact Keeps.refl
  clear_value z5
  have h13 : Keeps 524300 c z6 := by
    refine Keeps.trans ?_ (Keeps.each (m := 524300) _ ?_ _ _) rfl
    · exact h12
    · intro z15 z16
      refine Keeps.trans ?_ (Chip.setReg_keeps ..) rfl
      exact Keeps.refl
  clear_value z6
  have h14 : Keeps 524300 c z7 := by
    refine Keeps.ite ?_ ?_
    · exact h13
    · refine Keeps.trans ?_ (Chip.setFld_keeps ..) rfl
      exact h13
  clear_value z7
  refine Keeps.trans ?_ (Chip.weirRefresh_keeps ..) rfl
  exact h14

theorem Chip.psetSwap_keeps (c) : Keeps 655708 c (Chip.psetSwap c) := by
  unfold Chip.psetSwap
  refine Keeps.ite ?_ ?_
  · refine Keeps.trans ?_ (Chip.psetActivate_keeps ..) rfl
    exact Keeps.refl
  · exact Keeps.refl

theorem Chip.psetBoot_keeps (c) : Keeps 524292 c (Chip.psetBoot c) := by
  unfold Chip.psetBoot
  extract_lets z1 z2
  have h3 : Keeps 524292 c z2 := by
    refine Keeps.ite ?_ ?_
    · refine Keeps.trans ?_ (Chip.setWeir_keeps ..) rfl
      exact Keeps.refl
    · refine Keeps.ite ?_ ?_
      · refine Keeps.trans ?_ (Chip.setWeir_keeps ..) rfl
        exact Keeps.refl
      · refine Keeps.trans ?_ (Chip.setWeir_keeps ..) rfl
        exact Keeps.refl
  clear_value z2
  refine Keeps.ite ?_ ?_
  · refine Keeps.trans ?_ (Chip.setFld_keeps ..) rfl
    exact h3
  · exact h3

theorem Chip.minSvnProgram_keeps (c : Chip) : Keeps 36 c c.minSvnProgram := by
  unfold Chip.minSvnProgram
  refine Keeps.ite Keeps.refl ?_
  have h1 : Keeps 36 c { c with boot := { c.boot with moored := true } } := Keeps.upd_boot Keeps.refl rfl _ rfl rfl rfl
  dsimp only
  split
  · next v _ =>
    split
    · next hv =>
      refine Keeps.trans (b := { c with boot := { c.boot with moored := true, otp := { c.boot.otp with minSvn := BitVec.ofNat 64 (2 ^ v - 1) } } })
        ?_ (Chip.setFld_keeps ..) rfl
      exact { now := fun _ => rfl, freshEq := fun _ => rfl, regs := fun _ => rfl, edges := fun _ => rfl, outEq := fun _ => rfl, hst := fun _ => rfl,
              hstLad := fun _ => ⟨rfl, rfl⟩, hstVec := fun _ => ⟨rfl, rfl⟩, boot := fun x => absurd x (by decide),
              bootPhase := fun _ => rfl, log := fun _ => rfl, pnd := fun _ => rfl, pndClock := fun _ => rfl, lkp := fun _ => rfl,
              tim := fun _ => rfl, pf := fun _ => rfl, mem := fun _ => rfl, lck := fun _ => rfl, bsn := fun _ => rfl,
              plan := fun _ => rfl, man := fun _ => rfl, slu := fun _ => rfl, adc := fun _ => rfl, tow := fun _ => rfl,
              weir := fun _ => rfl, gau := fun _ => rfl, aqu := fun _ => rfl, mono := fun _ => Nat.le_refl _,
              fresh := Nat.le_refl _, out := List.prefix_refl _, otp := minSvn_grows v _ hv, canon := fun h => h }
    · exact h1
  · exact h1

theorem Chip.planStop_keeps (c) : Keeps 16384 c (Chip.planStop c) := by
  unfold Chip.planStop
  refine Keeps.upd_plan ?_ rfl _
  exact Keeps.refl

theorem Chip.enterDry_keeps (c) : Keeps 839708 c (Chip.enterDry c) := by
  unfold Chip.enterDry
  refine Keeps.trans ?_ (Chip.planStop_keeps ..) rfl
  refine Keeps.trans ?_ (Chip.psetDeactivate_keeps ..) rfl
  refine Keeps.trans ?_ (Chip.flightsIdle_keeps ..) rfl
  refine Keeps.trans ?_ (Chip.towDry_keeps ..) rfl
  refine Keeps.trans ?_ (Chip.manClear_keeps ..) rfl
  exact Keeps.refl

theorem Chip.leaveDry_keeps (c) : Keeps 655708 c (Chip.leaveDry c) := by
  unfold Chip.leaveDry
  refine Keeps.ite ?_ ?_
  · refine Keeps.trans ?_ (Chip.psetActivate_keeps ..) rfl
    exact Keeps.refl
  · exact Keeps.refl

theorem Chip.enterMoored_keeps (c) (a1) : Keeps 266300 c (Chip.enterMoored c a1) := by
  unfold Chip.enterMoored
  extract_lets z1
  have h2 : Keeps 266300 c z1 := by
    refine Keeps.trans ?_ (Chip.minSvnProgram_keeps ..) rfl
    refine Keeps.trans ?_ (Chip.flightsTrack_keeps ..) rfl
    exact Keeps.refl
  clear_value z1
  refine Keeps.ite ?_ ?_
  · refine Keeps.trans ?_ (Chip.bringAll_keeps ..) rfl
    exact h2
  · exact h2

theorem Chip.enterHalted_keeps (c) : Keeps 544844 c (Chip.enterHalted c) := by
  unfold Chip.enterHalted
  refine Keeps.trans ?_ (Chip.logTrigger_keeps ..) rfl
  refine Keeps.trans ?_ (Chip.haltDone_keeps ..) rfl
  refine Keeps.trans ?_ (Chip.setWeir_keeps ..) rfl
  refine Keeps.trans ?_ (Chip.flightsRamp_keeps ..) rfl
  refine Keeps.trans ?_ (Chip.planStop_keeps ..) rfl
  exact Keeps.refl

theorem Chip.enterState_keeps (c) (a1) (a2) : Keeps 971132 c (Chip.enterState c a1 a2) := by
  unfold Chip.enterState
  extract_lets z1 z2 z3 z4 z5 z6
  have h7 : Keeps 971132 c z2 := by
    refine Keeps.trans ?_ (Chip.setFld_keeps ..) rfl
    refine Keeps.trans ?_ (Chip.setFld_keeps ..) rfl
    exact Keeps.refl
  clear_value z2
  have h8 : Keeps 971132 c z3 := by
    refine Keeps.trans ?_ (Chip.logEvent_keeps ..) rfl
    exact h7
  clear_value z3
  have h9 : Keeps 971132 c z4 := by
    refine Keeps.trans ?_ (Chip.setWeir_keeps ..) rfl
    exact h8
  clear_value z4
  have h10 : Keeps 971132 c z5 := by
    refine Keeps.ite ?_ ?_
    · refine Keeps.trans ?_ (Chip.leaveDry_keeps ..) rfl
      exact h9
    · exact h9
  clear_value z5
  have h11 : Keeps 971132 c z6 := by
    dsimp only [z6]
    split
    · rename_i z12
      refine Keeps.trans ?_ (Chip.enterDry_keeps ..) rfl
      exact h10
    · rename_i z13
      refine Keeps.trans ?_ (Chip.enterMoored_keeps ..) rfl
      exact h10
    · rename_i z14
      refine Keeps.trans ?_ (Chip.flightsRun_keeps ..) rfl
      exact h10
    · rename_i z15
      refine Keeps.trans ?_ (Chip.enterHalted_keeps ..) rfl
      exact h10
    · rename_i z16 z17 z18 z19 z20
      refine Keeps.trans ?_ (Chip.flightsTrack_keeps ..) rfl
      refine Keeps.trans ?_ (Chip.planStop_keeps ..) rfl
      exact h10
  clear_value z6
  refine Keeps.ite ?_ ?_
  · exact h7
  · refine Keeps.trans ?_ (Chip.weirRefresh_keeps ..) rfl
    exact h11

theorem Chip.layWords_keeps (c) (a1) (a2) : Keeps 2048 c (Chip.layWords c a1 a2) := by
  unfold Chip.layWords
  refine Keeps.trans ?_ (Chip.arenaPut_keeps ..) rfl
  exact Keeps.refl

theorem Chip.dualZero_keeps (c) : Keeps 18432 c (Chip.dualZero c) := by
  unfold Chip.dualZero
  extract_lets z1 z2 z3
  have h4 : Keeps 18432 c z2 := by
    refine Keeps.trans ?_ (Chip.layWords_keeps ..) rfl
    exact Keeps.refl
  clear_value z2
  refine Keeps.ite ?_ ?_
  · exact Keeps.refl
  · refine Keeps.upd_plan ?_ rfl _
    exact h4

theorem Chip.layProblem_keeps (c) (a1) (a2) : Keeps 18432 c (Chip.layProblem c a1 a2) := by
  unfold Chip.layProblem
  extract_lets z1 z2 z3 z4 z5 z6 z7 z8 z9 z10 z11 z12 z13 z14
  have h15 : Keeps 18432 c z11 := by
    refine Keeps.trans ?_ (Chip.layWords_keeps ..) rfl
    refine Keeps.trans ?_ (Chip.dualZero_keeps ..) rfl
    exact Keeps.refl
  clear_value z11
  have h16 : Keeps 18432 c z12 := by
    refine Keeps.trans ?_ (Chip.layWords_keeps ..) rfl
    refine Keeps.trans ?_ (Keeps.each (m := 18432) _ ?_ _ _) rfl
    · exact h15
    · intro z18 z19
      refine Keeps.trans ?_ (Chip.layWords_keeps ..) rfl
      exact Keeps.refl
  clear_value z12
  have h17 : Keeps 18432 c z13 := by
    refine Keeps.trans ?_ (Chip.layWords_keeps ..) rfl
    exact h16
  clear_value z13
  refine Keeps.trans ?_ (Chip.layWords_keeps ..) rfl
  refine Keeps.trans ?_ (Chip.layWords_keeps ..) rfl
  refine Keeps.trans ?_ (Chip.layWords_keeps ..) rfl
  exact h17

theorem Chip.planSkip_keeps (c) (a1) : Keeps 16384 c (Chip.planSkip c a1) := by
  unfold Chip.planSkip
  extract_lets z1
  refine Keeps.upd_plan ?_ rfl _
  exact Keeps.refl

theorem Chip.planCold_keeps (c) : Keeps 24576 c (Chip.planCold c) := by
  unfold Chip.planCold
  extract_lets z1 z2
  have h3 : Keeps 24576 c z2 := by
    refine Keeps.upd_plan ?_ rfl _
    exact Keeps.refl
  clear_value z2
  split
  · rename_i z4 z5 z6
    refine Keeps.trans ?_ (Chip.setJob_keeps ..) rfl
    exact h3
  · rename_i z7 z8
    exact h3

theorem Chip.planSubmit_keeps (c) (a1) (a2) : Keeps 26756 c (Chip.planSubmit c a1 a2) := by
  unfold Chip.planSubmit
  extract_lets z1 z2 z3 z4 z5 z6 z7 z8 z9 z10
  have h11 : Keeps 26756 c z6 := by
    refine Keeps.upd_plan ?_ rfl _
    exact Keeps.refl
  have h12 : Keeps 26756 c z7.1 := by
    refine Keeps.trans ?_ (Chip.bsnSubmit_keeps ..) rfl
    refine Keeps.trans ?_ (Chip.layProblem_keeps ..) rfl
    exact h11
  have h13 : Keeps 26756 c z10 := by
    refine Keeps.upd_plan ?_ rfl _
    exact h12
  clear_value z10
  refine Keeps.ite ?_ ?_
  · refine Keeps.trans ?_ (Chip.planSkip_keeps ..) rfl
    exact h11
  · refine Keeps.ite ?_ ?_
    · refine Keeps.trans ?_ (Chip.planSkip_keeps ..) rfl
      exact h11
    · refine Keeps.ite ?_ ?_
      · refine Keeps.trans ?_ (Chip.planSkip_keeps ..) rfl
        exact h11
      · refine Keeps.ite ?_ ?_
        · refine Keeps.trans ?_ (Keeps.onlyIf (m := 26756) _ ?_ _ _) rfl
          · exact h13
          · intro z14
            refine Keeps.trans ?_ (Chip.planCold_keeps ..) rfl
            exact Keeps.refl
        · refine Keeps.trans ?_ (Chip.planSkip_keeps ..) rfl
          exact h12

theorem Chip.planBuilt_keeps (c) : Keeps 26756 c (Chip.planBuilt c) := by
  unfold Chip.planBuilt
  extract_lets z1 z2 z3 z4 z5 z6 z7 z8 z9 z10
  have h11 : Keeps 26756 c z3 := by
    refine Keeps.upd_plan ?_ rfl _
    exact Keeps.refl
  clear_value z3
  have h12 : Keeps 26756 c z9 := by
    refine Keeps.upd_plan ?_ rfl _
    exact h11
  clear_value z9
  refine Keeps.ite ?_ ?_
  · refine Keeps.trans ?_ (Chip.planSubmit_keeps ..) rfl
    exact h12
  · exact Keeps.refl

theorem Chip.setPlan_keeps (c) (a1) : Keeps 16384 c (Chip.setPlan c a1) := by
  unfold Chip.setPlan
  refine Keeps.upd_plan ?_ rfl _
  exact Keeps.refl

theorem Chip.planSegs_keeps (c) (a1) : Keeps 16384 c (Chip.planSegs c a1) := by
  unfold Chip.planSegs
  extract_lets z1 z2 z3 z4 z5
  refine Keeps.trans ?_ (Chip.setPlan_keeps ..) rfl
  exact Keeps.refl

theorem Chip.planPoll_keeps (c) : Keeps 16384 c (Chip.planPoll c) := by
  unfold Chip.planPoll
  extract_lets z1 z2 z3 z4 z5
  have h6 : Keeps 16384 c z5 := by
    refine Keeps.trans ?_ (Chip.setPlan_keeps ..) rfl
    exact Keeps.refl
  clear_value z5
  refine Keeps.ite ?_ ?_
  · split
    · rename_i z7 z8 z9
      refine Keeps.trans ?_ (Chip.setPlan_keeps ..) rfl
      exact h6
    · rename_i z10 z11
      refine Keeps.ite ?_ ?_
      · refine Keeps.trans ?_ (Chip.setPlan_keeps ..) rfl
        refine Keeps.trans ?_ (Chip.planSegs_keeps ..) rfl
        exact h6
      · refine Keeps.trans ?_ (Chip.setPlan_keeps ..) rfl
        exact h6
  · exact Keeps.refl

theorem Chip.setIk_keeps (c) (a1) (a2) : Keeps 16384 c (Chip.setIk c a1 a2) := by
  unfold Chip.setIk
  refine Keeps.trans ?_ (Chip.setPlan_keeps ..) rfl
  exact Keeps.refl

theorem Chip.ikSubmit_keeps (c) (a1) (a2) : Keeps 26756 c (Chip.ikSubmit c a1 a2) := by
  unfold Chip.ikSubmit
  split
  · rename_i z1 z2
    exact Keeps.refl
  · rename_i z3 z4 z5 z6 z7
    refine Keeps.ite ?_ ?_
    · exact Keeps.refl
    · extract_lets z8 z9 z10 z11 z12 z13 z14 z15 z16 z17 z18
      have h19 : Keeps 26756 c z18.1 := by
        refine Keeps.trans ?_ (Chip.bsnSubmit_keeps ..) rfl
        refine Keeps.trans ?_ (Chip.layWords_keeps ..) rfl
        refine Keeps.trans ?_ (Chip.layWords_keeps ..) rfl
        exact Keeps.refl
      clear_value z18
      refine Keeps.ite ?_ ?_
      · refine Keeps.trans ?_ (Chip.setIk_keeps ..) rfl
        exact h19
      · exact h19

theorem Chip.ikFinish_keeps (c) (a1) (a2) : Keeps 33570844 c (Chip.ikFinish c a1 a2) := by
  unfold Chip.ikFinish
  extract_lets z1
  have h2 : Keeps 33570844 c z1 := by
    refine Keeps.trans ?_ (Chip.setPlan_keeps ..) rfl
    exact Keeps.refl
  clear_value z1
  split
  · rename_i z3 z4
    exact h2
  · rename_i z5 z6 z7
    refine Keeps.ite ?_ ?_
    · refine Keeps.trans ?_ (Chip.finish_keeps ..) rfl
      exact h2
    · refine Keeps.trans ?_ (Chip.finish_keeps ..) rfl
      exact h2

theorem Chip.ikRun_keeps (c) (a1) (a2) : Keeps 33570844 c (Chip.ikRun c a1 a2) := by
  unfold Chip.ikRun
  split
  · rename_i z1 z2
    exact Keeps.refl
  · rename_i z3 z4 z5
    extract_lets z6
    refine Keeps.ite ?_ ?_
    · refine Keeps.trans ?_ (Chip.ikFinish_keeps ..) rfl
      exact Keeps.refl
    · refine Keeps.trans ?_ (Chip.setIk_keeps ..) rfl
      exact Keeps.refl

theorem Chip.ikStep_keeps (c) (a1) : Keeps 33581212 c (Chip.ikStep c a1) := by
  unfold Chip.ikStep
  split
  · rename_i z1 z2
    exact Keeps.refl
  · rename_i z3 z4 z5
    refine Keeps.ite ?_ ?_
    · extract_lets z6 z7 z8 z9 z10 z11
      have h12 : Keeps 33581212 c z11 := by
        refine Keeps.trans ?_ (Chip.ikRun_keeps ..) rfl
        refine Keeps.trans ?_ (Chip.setIk_keeps ..) rfl
        exact Keeps.refl
      clear_value z11
      split
      · rename_i z13 z14 z15
        refine Keeps.trans ?_ (Chip.ikSubmit_keeps ..) rfl
        exact h12
      · rename_i z16 z17
        exact h12
    · exact Keeps.refl

theorem Chip.planAfter_keeps (c) : Keeps 33581212 c (Chip.planAfter c) := by
  unfold Chip.planAfter
  refine Keeps.trans ?_ (Chip.planPoll_keeps ..) rfl
  refine Keeps.trans ?_ (Keeps.each (m := 33581212) _ ?_ _ _) rfl
  · exact Keeps.refl
  · intro z1 z2
    refine Keeps.trans ?_ (Chip.ikStep_keeps ..) rfl
    exact Keeps.refl

theorem Chip.taskSet_keeps (c) (a1) : Keeps 16384 c (Chip.taskSet c a1).1 := by
  unfold Chip.taskSet
  extract_lets z1 z2 z3 z4
  refine Keeps.ite1 ?_ ?_
  · exact Keeps.refl
  · split
    · rename_i z5 z6 z7
      exact Keeps.refl
    · rename_i z8 z9
      refine Keeps.ite1 ?_ ?_
      · exact Keeps.refl
      · refine Keeps.trans ?_ (Chip.setIk_keeps ..) rfl
        exact Keeps.refl

theorem Chip.takePlan_keeps (c) (a1) (a2) (a3) : Keeps 20484 c (Chip.takePlan c a1 a2 a3).1 := by
  unfold Chip.takePlan
  extract_lets z1 z2 z3 z4
  have h5 : Keeps 20484 c z3 := by
    refine Keeps.trans ?_ (Keeps.each (m := 20484) _ ?_ _ _) rfl
    · exact Keeps.refl
    · intro z9 z10
      refine Keeps.trans ?_ (Chip.publishSegs_keeps ..) rfl
      exact Keeps.refl
  clear_value z3
  have h6 : Keeps 20484 c z4 := by
    refine Keeps.trans ?_ (Keeps.each (m := 20484) _ ?_ _ _) rfl
    · exact h5
    · intro z7 z8
      refine Keeps.trans ?_ (Chip.setFlight_keeps ..) rfl
      exact Keeps.refl
  clear_value z4
  dsimp only
  refine Keeps.trans ?_ (Chip.setPlan_keeps ..) rfl
  exact h6

theorem Chip.planPublish_keeps (c) : Keeps 20484 c (Chip.planPublish c).1 := by
  unfold Chip.planPublish
  extract_lets z1
  have h2 : Keeps 20484 c z1.1 := by
    refine Keeps.trans ?_ (Chip.takePlan_keeps ..) rfl
    exact Keeps.refl
  clear_value z1
  dsimp only
  refine Keeps.trans ?_ (Chip.setPlan_keeps ..) rfl
  exact h2

theorem Chip.planLost_keeps (c) (a1) : Keeps 33575236 c (Chip.planLost c a1) := by
  unfold Chip.planLost
  extract_lets z1 z2 z3 z4
  have h5 : Keeps 33575236 c z2 := by
    refine Keeps.trans ?_ (Chip.setPlan_keeps ..) rfl
    exact Keeps.refl
  clear_value z2
  have h6 : Keeps 33575236 c z3 := by
    refine Keeps.trans ?_ (Chip.logEvent_keeps ..) rfl
    refine Keeps.trans ?_ (Chip.sysEvent_keeps ..) rfl
    exact h5
  clear_value z3
  have h7 : Keeps 33575236 c z4 := by
    refine Keeps.trans ?_ (Chip.logTrigger_keeps ..) rfl
    exact h6
  clear_value z4
  refine Keeps.trans ?_ (Keeps.each (m := 33575236) _ ?_ _ _) rfl
  · exact h7
  · intro z8 z9
    refine Keeps.ite ?_ ?_
    · refine Keeps.trans ?_ (Chip.react_keeps ..) rfl
      exact Keeps.refl
    · exact Keeps.refl

theorem Chip.planRegs_keeps (c) (a1) (a2) : Keeps 4 c (Chip.planRegs c a1 a2) := by
  unfold Chip.planRegs
  extract_lets z1 z2 z3 z4 z5 z6 z7
  have h8 : Keeps 4 c z3 := by
    refine Keeps.trans ?_ (Chip.setReg_keeps ..) rfl
    exact Keeps.refl
  clear_value z3
  have h9 : Keeps 4 c z4 := by
    refine Keeps.trans ?_ (Chip.setReg_keeps ..) rfl
    exact h8
  clear_value z4
  have h10 : Keeps 4 c z5 := by
    refine Keeps.trans ?_ (Chip.setReg_keeps ..) rfl
    exact h9
  clear_value z5
  have h11 : Keeps 4 c z6 := by
    refine Keeps.trans ?_ (Chip.setReg_keeps ..) rfl
    exact h10
  clear_value z6
  have h12 : Keeps 4 c z7 := by
    dsimp only [z7]
    split
    · rename_i z13 z14 z15
      refine Keeps.trans ?_ (Chip.setReg_keeps ..) rfl
      exact h11
    · rename_i z16 z17
      exact h11
  clear_value z7
  split
  · rename_i z18 z19 z20
    refine Keeps.trans ?_ (Chip.setReg_keeps ..) rfl
    exact h12
  · rename_i z21 z22
    exact h12

theorem Chip.planCounts_keeps (c) : Keeps 4 c (Chip.planCounts c) := by
  unfold Chip.planCounts
  extract_lets z1
  have h2 : Keeps 4 c z1 := by
    dsimp only [z1]
    split
    · rename_i z3 z4
      refine Keeps.trans ?_ (Chip.count_keeps ..) rfl
      exact Keeps.refl
    · rename_i z5 z6
      refine Keeps.trans ?_ (Chip.count_keeps ..) rfl
      exact Keeps.refl
    · rename_i z7 z8
      refine Keeps.trans ?_ (Chip.count_keeps ..) rfl
      exact Keeps.refl
    · rename_i z9 z10 z11 z12
      refine Keeps.trans ?_ (Chip.count_keeps ..) rfl
      exact Keeps.refl
  clear_value z1
  refine Keeps.ite ?_ ?_
  · refine Keeps.trans ?_ (Chip.count_keeps ..) rfl
    exact h2
  · exact h2

theorem Chip.planEnd_keeps (c) : Keeps 35672388 c (Chip.planEnd c) := by
  unfold Chip.planEnd
  extract_lets z1 z2 z3 z4 z5 z6 z7 z8 z9 z10 z11
  have h12 : Keeps 35672388 c z1 := by
    dsimp only [z1]
    split
    · rename_i z13 z14
      refine Keeps.trans ?_ (Chip.planSkip_keeps ..) rfl
      exact Keeps.refl
    · rename_i z15 z16
      refine Keeps.trans ?_ (Chip.setPlan_keeps ..) rfl
      exact Keeps.refl
    · rename_i z17 z18 z19
      exact Keeps.refl
  clear_value z1
  have h20 : Keeps 35672388 c z3.1 := by
    refine Keeps.ite1 ?_ ?_
    · refine Keeps.trans ?_ (Chip.planPublish_keeps ..) rfl
      exact h12
    · exact h12
  clear_value z3
  have h21 : Keeps 35672388 c z4 := by
    exact h20
  clear_value z4
  have h22 : Keeps 35672388 c z8 := by
    refine Keeps.trans ?_ (Chip.planCounts_keeps ..) rfl
    refine Keeps.trans ?_ (Chip.planRegs_keeps ..) rfl
    exact h21
  clear_value z8
  have h23 : Keeps 35672388 c z9 := by
    refine Keeps.trans ?_ (Chip.ledger_keeps ..) rfl
    exact h22
  clear_value z9
  have h24 : Keeps 35672388 c z10 := by
    refine Keeps.ite ?_ ?_
    · refine Keeps.trans ?_ (Chip.setPlan_keeps ..) rfl
      exact h23
    · exact h23
  clear_value z10
  have h25 : Keeps 35672388 c z11 := by
    refine Keeps.ite ?_ ?_
    · refine Keeps.trans ?_ (Chip.hostEvent_keeps ..) rfl
      exact h24
    · exact h24
  clear_value z11
  refine Keeps.ite ?_ ?_
  · refine Keeps.trans ?_ (Chip.planLost_keeps ..) rfl
    exact h25
  · exact h25

theorem Chip.planStart_keeps (c) : Keeps 33581212 c (Chip.planStart c) := by
  unfold Chip.planStart
  extract_lets z1 z2 z3 z4 z5
  have h6 : Keeps 33581212 c z4 := by
    refine Keeps.trans ?_ (Chip.setPlan_keeps ..) rfl
    exact Keeps.refl
  clear_value z4
  have h7 : Keeps 33581212 c z5 := by
    refine Keeps.trans ?_ (Keeps.each (m := 33581212) _ ?_ _ _) rfl
    · exact h6
    · intro z8 z9
      extract_lets z10
      have h11 : Keeps 33581212 z8 z10 := by
        refine Keeps.trans ?_ (Chip.ikRun_keeps ..) rfl
        exact Keeps.refl
      clear_value z10
      split
      · rename_i z12 z13 z14
        refine Keeps.trans ?_ (Chip.ikSubmit_keeps ..) rfl
        exact h11
      · rename_i z15 z16
        exact h11
  clear_value z5
  refine Keeps.ite ?_ ?_
  · refine Keeps.trans ?_ (Chip.planSkip_keeps ..) rfl
    exact h7
  · refine Keeps.ite ?_ ?_
    · refine Keeps.trans ?_ (Chip.planSkip_keeps ..) rfl
      exact h7
    · exact h7

theorem Chip.planRunSince_keeps (c) : Keeps 4096 c (Chip.planRunSince c) := by
  unfold Chip.planRunSince
  refine Keeps.trans ?_ (Keeps.each (m := 4096) _ ?_ _ _) rfl
  · exact Keeps.refl
  · intro z1 z2
    extract_lets z3
    refine Keeps.ite ?_ ?_
    · refine Keeps.trans ?_ (Chip.setFlight_keeps ..) rfl
      exact Keeps.refl
    · exact Keeps.refl

theorem Chip.fwWork_keeps (c) (a1) : Keeps 132 c (Chip.fwWork c a1) := by
  unfold Chip.fwWork
  refine Keeps.ite ?_ ?_
  · exact Keeps.refl
  · refine Keeps.trans ?_ (Chip.submit_keeps ..) rfl
    exact Keeps.refl

theorem Chip.planBoundary_keeps (c) (a1) : Keeps 35682780 c (Chip.planBoundary c a1) := by
  unfold Chip.planBoundary
  extract_lets z1 z2
  have h3 : Keeps 35682780 c z1 := by
    refine Keeps.trans ?_ (Chip.planRunSince_keeps ..) rfl
    exact Keeps.refl
  clear_value z1
  have h4 : Keeps 35682780 c z2 := by
    refine Keeps.ite ?_ ?_
    · exact h3
    · refine Keeps.trans ?_ (Chip.setPlan_keeps ..) rfl
      refine Keeps.trans ?_ (Chip.planEnd_keeps ..) rfl
      exact h3
  clear_value z2
  refine Keeps.ite ?_ ?_
  · refine Keeps.ite ?_ ?_
    · refine Keeps.ite ?_ ?_
      · refine Keeps.trans ?_ (Chip.fwWork_keeps ..) rfl
        refine Keeps.trans ?_ (Chip.planStart_keeps ..) rfl
        exact h4
      · exact h4
    · exact h3
  · refine Keeps.trans ?_ (Chip.setPlan_keeps ..) rfl
    exact h3

theorem Chip.takeFlight_keeps (c) (a1) (a2) : Keeps 33896902 c (Chip.takeFlight c a1 a2) := by
  unfold Chip.takeFlight
  extract_lets z1 z2 z3 z4 z5 z6 z7 z8 z9 z10 z11 z12 z13 z14 z15 z16 z17 z18 z19
  have h20 : Keeps 33896902 c z5 := by
    refine Keeps.ite ?_ ?_
    · refine Keeps.trans ?_ (Chip.clearQueue_keeps ..) rfl
      exact Keeps.refl
    · exact Keeps.refl
  clear_value z5
  have h21 : Keeps 33896902 c z7 := by
    refine Keeps.trans ?_ (Keeps.each (m := 33896902) _ ?_ _ _) rfl
    · exact h20
    · intro z34 z35
      refine Keeps.trans ?_ (Chip.raiseBit_keeps ..) rfl
      exact Keeps.refl
  clear_value z7
  have h22 : Keeps 33896902 c z8 := by
    refine Keeps.trans ?_ (Chip.setFld_keeps ..) rfl
    refine Keeps.trans ?_ (Chip.setFld_keeps ..) rfl
    exact h21
  clear_value z8
  have h23 : Keeps 33896902 c z9 := by
    refine Keeps.trans ?_ (Chip.setFld_keeps ..) rfl
    exact h22
  clear_value z9
  have h24 : Keeps 33896902 c z10 := by
    refine Keeps.ite ?_ ?_
    · refine Keeps.trans ?_ (Chip.setFld_keeps ..) rfl
      refine Keeps.trans ?_ (Chip.reseedDrop_keeps ..) rfl
      exact h23
    · exact h23
  clear_value z10
  have h25 : Keeps 33896902 c z13 := by
    refine Keeps.trans ?_ (Keeps.each (m := 33896902) _ ?_ _ _) rfl
    · exact h24
    · intro z30 z31
      extract_lets z32 z33
      refine Keeps.trans ?_ (Chip.capCommand_keeps ..) rfl
      refine Keeps.trans ?_ (Chip.setAxis_keeps ..) rfl
      exact Keeps.refl
  clear_value z13
  have h26 : Keeps 33896902 c z18 := by
    refine Keeps.trans ?_ (Chip.setFlight_keeps ..) rfl
    exact h25
  clear_value z18
  have h27 : Keeps 33896902 c z19 := by
    refine Keeps.trans ?_ (Chip.setFlag_keeps ..) rfl
    refine Keeps.trans ?_ (Chip.setFlag_keeps ..) rfl
    exact h26
  clear_value z19
  refine Keeps.trans ?_ (Keeps.each (m := 33896902) _ ?_ _ _) rfl
  · exact h27
  · intro z28 z29
    refine Keeps.ite ?_ ?_
    · refine Keeps.trans ?_ (Chip.setAuxW_keeps ..) rfl
      exact Keeps.refl
    · exact Keeps.refl

theorem Chip.shadowFlight_keeps (c) (a1) (a2) : Keeps 33896902 c (Chip.shadowFlight c a1 a2).1 := by
  unfold Chip.shadowFlight
  extract_lets z1 z2 z3 z4 z5 z6 z7 z8 z9 z10 z11
  have h12 : Keeps 33896902 c z2 := by
    dsimp only [z2]
    split
    · rename_i z17 z18 z19
      refine Keeps.trans ?_ (Chip.clearMask_keeps ..) rfl
      exact Keeps.refl
    · rename_i z20 z21
      exact Keeps.refl
  clear_value z2
  have h13 : Keeps 33896902 c z8 := by
    refine Keeps.trans ?_ (Chip.takeFlight_keeps ..) rfl
    exact h12
  clear_value z8
  have h14 : Keeps 33896902 c z9 := by
    refine Keeps.trans ?_ (Chip.regions_keeps ..) rfl
    exact h13
  clear_value z9
  have h15 : Keeps 33896902 c z10 := by
    refine Keeps.trans ?_ (Chip.raise_keeps ..) rfl
    refine Keeps.trans ?_ (Chip.count_keeps ..) rfl
    exact h14
  clear_value z10
  have h16 : Keeps 33896902 c z11 := by
    refine Keeps.trans ?_ (Chip.setReg_keeps ..) rfl
    refine Keeps.trans ?_ (Chip.setReg_keeps ..) rfl
    exact h15
  clear_value z11
  refine Keeps.ite1 ?_ ?_
  · exact h14
  · exact h16

theorem Chip.takeQueue_keeps (c) (a1) (a2) (a3) (a4) (a5) : Keeps 4100 c (Chip.takeQueue c a1 a2 a3 a4 a5) := by
  unfold Chip.takeQueue
  extract_lets z1 z2 z3
  refine Keeps.trans ?_ (Chip.setQueue_keeps ..) rfl
  exact Keeps.refl

theorem Chip.headTargets_keeps (c) (a1) (a2) (a3) : Keeps 4100 c (Chip.headTargets c a1 a2 a3) := by
  unfold Chip.headTargets
  split
  · rename_i z1 z2
    exact Keeps.refl
  · rename_i z3 z4 z5 z6
    extract_lets z7
    refine Keeps.trans ?_ (Keeps.each (m := 4100) _ ?_ _ _) rfl
    · exact Keeps.refl
    · intro z8 z9
      refine Keeps.trans ?_ (Chip.putTarget_keeps ..) rfl
      exact Keeps.refl

theorem Chip.chainMoved_keeps (c) (a1) : Keeps 1032 c (Chip.chainMoved c a1) := by
  unfold Chip.chainMoved
  refine Keeps.trans ?_ (Chip.pdChainSet_keeps ..) rfl
  refine Keeps.trans ?_ (Chip.setChain_keeps ..) rfl
  exact Keeps.refl

theorem Chip.takeWord_keeps (c) (a1) (a2) : Keeps 4 c (Chip.takeWord c a1 a2) := by
  unfold Chip.takeWord
  refine Keeps.trans ?_ (Chip.setReg_keeps ..) rfl
  refine Keeps.trans ?_ (Keeps.each (m := 4) _ ?_ _ _) rfl
  · exact Keeps.refl
  · intro z1 z2
    refine Keeps.trans ?_ (Chip.raiseBit_keeps ..) rfl
    exact Keeps.refl

theorem Chip.takeChain_keeps (c) (a1) (a2) (a3) (a4) (a5) (a6) : Keeps 1036 c (Chip.takeChain c a1 a2 a3 a4 a5 a6) := by
  unfold Chip.takeChain
  extract_lets z1 z2 z3 z4 z5
  have h6 : Keeps 1036 c z4 := by
    refine Keeps.trans ?_ (Chip.setChain_keeps ..) rfl
    exact Keeps.refl
  clear_value z4
  have h7 : Keeps 1036 c z5 := by
    refine Keeps.trans ?_ (Chip.takeWord_keeps ..) rfl
    refine Keeps.trans ?_ (Chip.setReg_keeps ..) rfl
    exact h6
  clear_value z5
  refine Keeps.trans ?_ (Keeps.onlyIf (m := 1036) _ ?_ _ _) rfl
  · exact h7
  · intro z8
    refine Keeps.trans ?_ (Chip.chainMoved_keeps ..) rfl
    exact Keeps.refl

theorem Chip.takeManifest_keeps (c) (a1) : Keeps 32768 c (Chip.takeManifest c a1) := by
  unfold Chip.takeManifest
  split
  · rename_i z1 z2 z3 z4
    extract_lets z5
    refine Keeps.trans ?_ (Chip.setMan_keeps ..) rfl
    exact Keeps.refl
  · rename_i z6 z7
    refine Keeps.trans ?_ (Chip.setMan_keeps ..) rfl
    exact Keeps.refl
  · rename_i z8 z9 z10
    split
    · rename_i z11 z12
      exact Keeps.refl
    · rename_i z13 z14 z15
      extract_lets z16 z17 z18 z19 z20
      refine Keeps.trans ?_ (Chip.setMan_keeps ..) rfl
      exact Keeps.refl
  · rename_i z21 z22 z23 z24
    exact Keeps.refl

theorem Chip.shadowSteps_keeps (c) (a1) (a2) : Keeps 1028 c (Chip.shadowSteps c a1 a2) := by
  unfold Chip.shadowSteps
  refine Keeps.ite ?_ ?_
  · extract_lets z1 z2
    have h3 : Keeps 1028 c z1 := by
      dsimp only [z1]
      split
      · rename_i z4 z5 z6 z7 z8
        refine Keeps.trans ?_ (Chip.pdChan_keeps ..) rfl
        exact Keeps.refl
      · rename_i z9 z10 z11
        exact Keeps.refl
    clear_value z1
    refine Keeps.ite ?_ ?_
    · refine Keeps.trans ?_ (Chip.setChan_keeps ..) rfl
      exact h3
    · exact h3
  · exact Keeps.refl

theorem Chip.takeChannels_keeps (c) (a1) (a2) : Keeps 2622468 c (Chip.takeChannels c a1 a2) := by
  unfold Chip.takeChannels
  extract_lets z1 z2 z3 z4
  have h5 : Keeps 2622468 c z2 := by
    refine Keeps.trans ?_ (Chip.setWeir_keeps ..) rfl
    exact Keeps.refl
  clear_value z2
  have h6 : Keeps 2622468 c z4 := by
    refine Keeps.trans ?_ (Keeps.each (m := 2622468) _ ?_ _ _) rfl
    · exact h5
    · intro z7 z8
      refine Keeps.trans ?_ (Chip.shadowSteps_keeps ..) rfl
      exact Keeps.refl
  clear_value z4
  refine Keeps.trans ?_ (Chip.setAqu_keeps ..) rfl
  exact h6

theorem Chip.setWin_keeps (c : Chip) (which : Nat) (m : List (Nat × Byte)) (h : c.mem.wf = true → Memory.wf 0 m = true) :
    Keeps 2048 c (c.setWin which m) := by
  have k : ∀ v : Mems, (c.mem.wf = true → v.wf = true) → Keeps 2048 c { c with mem := v } := fun v hv =>
    Keeps.upd_mem Keeps.refl rfl v hv
  unfold Chip.setWin
  split
  · exact k _ (fun w => Mems.wf_lck _ _ (fun _ => h w) w)
  · exact k _ (fun w => Mems.wf_bank _ _ (fun _ => h w) w)
  · exact k _ (fun w => Mems.wf_slu _ _ (fun _ => h w) w)
  · exact k _ (fun w => Mems.wf_plan _ _ (fun _ => h w) w)
  · exact k _ (fun w => Mems.wf_tow _ _ (fun _ => h w) w)

theorem winWrite_wf (c : Chip) (which a k : Nat) (bs : List Byte) (h : c.mem.wf = true) :
    Memory.wf 0 (winWrite which a bs (c.winMem k)) = true := by
  simp only [Mems.wf, Bool.and_eq_true] at h
  have h0 : Memory.wf 0 (c.winMem k) = true := by
    unfold Chip.winMem
    split <;> simp only [h]
  unfold winWrite
  refine memFold_wf 0 _ (fun m x w => ?_) _ _ (memWrite_wf _ _ _ _ h0)
  dsimp only
  split
  · exact w
  · exact memWriteWords_wf _ _ _ _ w

theorem Chip.takeBulk_keeps (c) (a1) : Keeps 2052 c (Chip.takeBulk c a1) := by
  unfold Chip.takeBulk
  split
  · exact Keeps.weaken (Chip.setWin_keeps _ _ _ (winWrite_wf _ _ _ _ _)) rfl
  · exact Keeps.weaken (Chip.writeBits_keeps ..) rfl
  · exact Keeps.refl

theorem Chip.takeState_keeps (c) (a1) (a2) (a3) (a4) : Keeps 971132 c (Chip.takeState c a1 a2 a3 a4) := by
  unfold Chip.takeState
  extract_lets z1 z2 z3
  have h4 : Keeps 971132 c z1 := by
    refine Keeps.trans ?_ (Chip.enterState_keeps ..) rfl
    exact Keeps.refl
  clear_value z1
  refine Keeps.upd_pnd ?_ rfl _ rfl
  exact h4

theorem Chip.takeBefore_keeps (c) (a1) (a2) : Keeps 972156 c (Chip.takeBefore c a1 a2) := by
  unfold Chip.takeBefore
  split
  · rename_i z1 z2 z3 z4
    refine Keeps.trans ?_ (Chip.takeState_keeps ..) rfl
    exact Keeps.refl
  · rename_i z5 z6 z7
    refine Keeps.trans ?_ (Chip.clearMask_keeps ..) rfl
    exact Keeps.refl
  · rename_i z8 z9 z10
    extract_lets z11 z12 z13
    have h14 : Keeps 972156 c z11 := by
      refine Keeps.trans ?_ (Chip.setReg_keeps ..) rfl
      exact Keeps.refl
    clear_value z11
    have h15 : Keeps 972156 c z13.1 := by
      refine Keeps.trans ?_ (Chip.takePlan_keeps ..) rfl
      exact h14
    clear_value z13
    refine Keeps.trans ?_ (Chip.setReg_keeps ..) rfl
    refine Keeps.ite ?_ ?_
    · exact h14
    · exact h15
  · rename_i z16 z17 z18 z19 z20 z21
    refine Keeps.trans ?_ (Chip.takeQueue_keeps ..) rfl
    exact Keeps.refl
  · rename_i z22 z23 z24 z25 z26 z27
    refine Keeps.trans ?_ (Chip.takeChain_keeps ..) rfl
    exact Keeps.refl
  · rename_i z28 z29 z30 z31 z32 z33
    exact Keeps.refl

theorem Chip.takeConfig_keeps (c) (a1) : Keeps 2099204 c (Chip.takeConfig c a1) := by
  unfold Chip.takeConfig
  split
  · rename_i z1 z2
    exact Keeps.refl
  · rename_i z3 z4 z5
    extract_lets z6
    have h7 : Keeps 2099204 c z6 := by
      refine Keeps.trans ?_ (Chip.setAqu_keeps ..) rfl
      exact Keeps.refl
    clear_value z6
    refine Keeps.ite ?_ ?_
    · refine Keeps.trans ?_ (Keeps.each (m := 2099204) _ ?_ _ _) rfl
      · exact h7
      · intro z8 z9
        refine Keeps.trans ?_ (Chip.takeBulk_keeps ..) rfl
        exact Keeps.refl
    · exact h7

theorem Chip.takeAfter_keeps (c) (a1) (a2) : Keeps 2661380 c (Chip.takeAfter c a1 a2) := by
  unfold Chip.takeAfter
  split
  · rename_i z1 z2 z3 z4 z5 z6
    split
    · rename_i z7 z8 z9 z10
      refine Keeps.trans ?_ (Chip.setFlight_keeps ..) rfl
      exact Keeps.refl
    · rename_i z11 z12
      exact Keeps.refl
  · rename_i z13 z14
    refine Keeps.trans ?_ (Chip.takeChannels_keeps ..) rfl
    exact Keeps.refl
  · rename_i z15 z16 z17
    refine Keeps.trans ?_ (Chip.takeConfig_keeps ..) rfl
    exact Keeps.refl
  · rename_i z18 z19 z20 z21
    refine Keeps.trans ?_ (Chip.takeManifest_keeps ..) rfl
    exact Keeps.refl

theorem Chip.applyCommit_keeps (c) (a1) (a2) : Keeps 36699646 c (Chip.applyCommit c a1 a2) := by
  unfold Chip.applyCommit
  extract_lets z1 z2 z3 z4 z5 z6 z7 z8 z9
  have h10 : Keeps 36699646 c z5 := by
    refine Keeps.trans ?_ (Keeps.each (m := 36699646) _ ?_ _ _) rfl
    · exact Keeps.refl
    · intro z11 z12
      refine Keeps.trans ?_ (Chip.takeBefore_keeps ..) rfl
      exact Keeps.refl
  clear_value z5
  have h13 : Keeps 36699646 c z6 := by
    refine Keeps.trans ?_ (Keeps.each (m := 36699646) _ ?_ _ _) rfl
    · exact h10
    · intro z14 z15
      refine Keeps.trans ?_ (Chip.headTargets_keeps ..) rfl
      exact Keeps.refl
  clear_value z6
  have h16 : Keeps 36699646 c z7.1 := by
    refine Keeps.trans ?_ (Keeps.foldl1 (m := 36699646) _ ?_ _ _) rfl
    · exact h13
    · intro z17 z18
      split
      · rename_i z19 z20
        extract_lets z21
        have h22 : Keeps 36699646 z17.fst z21.1 := by
          refine Keeps.trans ?_ (Chip.shadowFlight_keeps ..) rfl
          exact Keeps.refl
        clear_value z21
        exact h22
      · rename_i z23 z24
        exact Keeps.refl
  clear_value z7
  have h25 : Keeps 36699646 c z8 := by
    refine Keeps.trans ?_ (Keeps.each (m := 36699646) _ ?_ _ _) rfl
    · exact h16
    · intro z26 z27
      refine Keeps.trans ?_ (Chip.takeAfter_keeps ..) rfl
      exact Keeps.refl
  clear_value z8
  have h28 : Keeps 36699646 c z9 := by
    refine Keeps.trans ?_ (Chip.setAqu_keeps ..) rfl
    exact h25
  clear_value z9
  refine Keeps.trans ?_ (Chip.weirRefresh_keeps ..) rfl
  refine Keeps.trans ?_ (Chip.setReg_keeps ..) rfl
  exact h28

theorem Chip.applyInbox_keeps (c : Chip) (n : Nat) : Keeps 36699646 c (c.applyInbox n) := by
  induction n generalizing c with
  | zero => unfold Chip.applyInbox; exact Keeps.refl
  | succ n ih =>
    unfold Chip.applyInbox
    refine Keeps.ite Keeps.refl ?_
    dsimp only
    split
    · exact Keeps.refl
    · refine Keeps.ite Keeps.refl ?_
      refine Keeps.trans ?_ (ih ..) rfl
      refine Keeps.trans ?_ (Chip.applyCommit_keeps ..) rfl
      exact Keeps.trans Keeps.refl (Chip.setAqu_keeps ..) rfl

theorem Chip.resyncFail_keeps (c) : Keeps 2097156 c (Chip.resyncFail c) := by
  unfold Chip.resyncFail
  refine Keeps.ite ?_ ?_
  · extract_lets z1
    have h2 : Keeps 2097156 c z1 := by
      refine Keeps.trans ?_ (Chip.count_keeps ..) rfl
      refine Keeps.trans ?_ (Chip.raise_keeps ..) rfl
      exact Keeps.refl
    clear_value z1
    refine Keeps.trans ?_ (Chip.setAqu_keeps ..) rfl
    exact h2
  · exact Keeps.refl

theorem Chip.missedCommits_keeps (c) (a1) : Keeps 2097160 c (Chip.missedCommits c a1) := by
  unfold Chip.missedCommits
  split
  · rename_i z1 z2
    exact Keeps.refl
  · rename_i z3 z4 z5
    refine Keeps.trans ?_ (Keeps.each (m := 2097160) _ ?_ _ _) rfl
    · exact Keeps.refl
    · intro z6 z7
      refine Keeps.trans ?_ (Chip.nak_keeps ..) rfl
      exact Keeps.refl

theorem Chip.commitEnd_keeps (c) (a1) (a2) : Keeps 36699646 c (Chip.commitEnd c a1 a2) := by
  unfold Chip.commitEnd
  extract_lets z1 z2 z3 z4
  have h5 : Keeps 36699646 c z1 := by
    refine Keeps.trans ?_ (Chip.setAqu_keeps ..) rfl
    exact Keeps.refl
  clear_value z1
  have h6 : Keeps 36699646 c z2 := by
    refine Keeps.trans ?_ (Chip.aquSend_keeps ..) rfl
    exact h5
  clear_value z2
  have h7 : Keeps 36699646 c z4 := by
    refine Keeps.ite ?_ ?_
    · exact h6
    · refine Keeps.trans ?_ (Chip.setAqu_keeps ..) rfl
      exact h6
  clear_value z4
  refine Keeps.trans ?_ (Chip.applyInbox_keeps ..) rfl
  exact h7

theorem Chip.ledgerFrame_keeps (c) (a1) : Keeps 36699646 c (Chip.ledgerFrame c a1) := by
  unfold Chip.ledgerFrame
  refine Keeps.ite ?_ ?_
  · exact Keeps.refl
  · extract_lets z1 z2 z3 z4 z5 z6 z7
    have h8 : Keeps 36699646 c z4 := by
      refine Keeps.ite ?_ ?_
      · refine Keeps.trans ?_ (Chip.setAqu_keeps ..) rfl
        refine Keeps.trans ?_ (Chip.missedCommits_keeps ..) rfl
        exact Keeps.refl
      · exact Keeps.refl
    have h9 : Keeps 36699646 c z6 := by
      refine Keeps.trans ?_ (Chip.setAqu_keeps ..) rfl
      exact h8
    have h10 : Keeps 36699646 c z7 := by
      dsimp only [z7]
      clear_value z2
      split
      · rename_i z11 z12
        refine Keeps.ite ?_ ?_
        · refine Keeps.trans ?_ (Chip.commitEnd_keeps ..) rfl
          exact h9
        · exact h9
      · rename_i z13
        refine Keeps.ite ?_ ?_
        · refine Keeps.trans ?_ (Chip.nak_keeps ..) rfl
          exact h9
        · exact h9
    refine Keeps.ite ?_ ?_
    · refine Keeps.trans ?_ (Chip.resyncFail_keeps ..) rfl
      exact h10
    · refine Keeps.ite ?_ ?_
      · refine Keeps.ite ?_ ?_
        · refine Keeps.trans ?_ (Chip.setAqu_keeps ..) rfl
          exact h10
        · refine Keeps.trans ?_ (Chip.resyncFail_keeps ..) rfl
          exact h10
      · exact h10

theorem Chip.putFlightSnap_keeps (c) (a1) : Keeps 4100 c (Chip.putFlightSnap c a1) := by
  unfold Chip.putFlightSnap
  extract_lets z1 z2 z3 z4
  have h5 : Keeps 4100 c z1 := by
    refine Keeps.trans ?_ (Chip.setReg_keeps ..) rfl
    refine Keeps.trans ?_ (Chip.setReg_keeps ..) rfl
    exact Keeps.refl
  clear_value z1
  have h6 : Keeps 4100 c z2 := by
    refine Keeps.trans ?_ (Keeps.each (m := 4100) _ ?_ _ _) rfl
    · exact h5
    · intro z7 z8
      refine Keeps.trans ?_ (Chip.setAxis_keeps ..) rfl
      exact Keeps.refl
  clear_value z2
  refine Keeps.trans ?_ (Chip.setFlight_keeps ..) rfl
  exact h6

theorem Chip.putSnapshot_keeps (c) (a1) : Keeps 36699646 c (Chip.putSnapshot c a1) := by
  unfold Chip.putSnapshot
  extract_lets z1 z2 z3 z4 z5 z6 z7 z8 z9 z10 z11 z12 z13 z14
  have h15 : Keeps 36699646 c z2 := by
    refine Keeps.trans ?_ (Chip.enterState_keeps ..) rfl
    exact Keeps.refl
  clear_value z2
  have h16 : Keeps 36699646 c z3 := by
    refine Keeps.trans ?_ (Keeps.each (m := 36699646) _ ?_ _ _) rfl
    · exact h15
    · intro z23 z24
      refine Keeps.trans ?_ (Chip.putFlightSnap_keeps ..) rfl
      exact Keeps.refl
  clear_value z3
  have h17 : Keeps 36699646 c z7 := by
    refine Keeps.trans ?_ (Chip.setMan_keeps ..) rfl
    exact h16
  clear_value z7
  have h18 : Keeps 36699646 c z9 := by
    refine Keeps.trans ?_ (Chip.chainMoved_keeps ..) rfl
    refine Keeps.trans ?_ (Chip.setChain_keeps ..) rfl
    exact h17
  clear_value z9
  have h19 : Keeps 36699646 c z10 := by
    refine Keeps.trans ?_ (Chip.setReg_keeps ..) rfl
    refine Keeps.trans ?_ (Chip.setReg_keeps ..) rfl
    exact h18
  clear_value z10
  have h20 : Keeps 36699646 c z11 := by
    refine Keeps.trans ?_ (Chip.takeChannels_keeps ..) rfl
    refine Keeps.trans ?_ (Chip.setAqu_keeps ..) rfl
    exact h19
  clear_value z11
  have h21 : Keeps 36699646 c z12 := by
    refine Keeps.trans ?_ (Chip.setFld_keeps ..) rfl
    refine Keeps.trans ?_ (Chip.setReg_keeps ..) rfl
    exact h20
  clear_value z12
  have h22 : Keeps 36699646 c z14 := by
    refine Keeps.trans ?_ (Chip.setAqu_keeps ..) rfl
    exact h21
  clear_value z14
  refine Keeps.trans ?_ (Chip.applyInbox_keeps ..) rfl
  refine Keeps.trans ?_ (Chip.weirRefresh_keeps ..) rfl
  exact h22

theorem Chip.decide__keeps (c) (a1) : Keeps 2097152 c (Chip.decide_ c a1) := by
  unfold Chip.decide_
  refine Keeps.ite ?_ ?_
  · refine Keeps.trans ?_ (Chip.setAqu_keeps ..) rfl
    exact Keeps.refl
  · exact Keeps.refl

theorem Chip.helloSend_keeps (c) : Keeps 2097160 c (Chip.helloSend c) := by
  unfold Chip.helloSend
  refine Keeps.ite ?_ ?_
  · exact Keeps.refl
  · refine Keeps.trans ?_ (Chip.setAqu_keeps ..) rfl
    refine Keeps.trans ?_ (Chip.aquSend_keeps ..) rfl
    exact Keeps.refl

theorem Chip.joinReply_keeps (c) (a1) : Keeps 33554460 c (Chip.joinReply c a1) := by
  unfold Chip.joinReply
  split
  · rename_i z1 z2 z3
    refine Keeps.trans ?_ (Chip.finish_keeps ..) rfl
    exact Keeps.refl
  · rename_i z4 z5
    exact Keeps.refl

theorem Chip.rankConflict_keeps (c) : Keeps 35651612 c (Chip.rankConflict c) := by
  unfold Chip.rankConflict
  extract_lets z1
  have h2 : Keeps 35651612 c z1 := by
    refine Keeps.trans ?_ (Chip.raise_keeps ..) rfl
    exact Keeps.refl
  clear_value z1
  refine Keeps.ite ?_ ?_
  · refine Keeps.trans ?_ (Chip.joinReply_keeps ..) rfl
    refine Keeps.trans ?_ (Chip.setAqu_keeps ..) rfl
    exact h2
  · exact h2

theorem Chip.joinHears_keeps (c) (a1) : Keeps 2097152 c (Chip.joinHears c a1) := by
  unfold Chip.joinHears
  refine Keeps.ite ?_ ?_
  · refine Keeps.trans ?_ (Chip.setAqu_keeps ..) rfl
    exact Keeps.refl
  · exact Keeps.refl

theorem Chip.resyncHear_keeps (c) (a1) (a2) : Keeps 2097156 c (Chip.resyncHear c a1 a2) := by
  unfold Chip.resyncHear
  refine Keeps.ite ?_ ?_
  · exact Keeps.refl
  · refine Keeps.ite ?_ ?_
    · refine Keeps.trans ?_ (Chip.resyncFail_keeps ..) rfl
      refine Keeps.trans ?_ (Chip.raise_keeps ..) rfl
      exact Keeps.refl
    · extract_lets z1
      have h2 : Keeps 2097156 c z1 := by
        refine Keeps.ite ?_ ?_
        · refine Keeps.trans ?_ (Chip.setFld_keeps ..) rfl
          exact Keeps.refl
        · exact Keeps.refl
      clear_value z1
      refine Keeps.ite ?_ ?_
      · refine Keeps.trans ?_ (Chip.setFld_keeps ..) rfl
        exact h2
      · exact h2

theorem Chip.bulkPump_keeps (c) : Keeps 2097160 c (Chip.bulkPump c) := by
  unfold Chip.bulkPump
  refine Keeps.trans ?_ (Chip.setAqu_keeps ..) rfl
  refine Keeps.trans ?_ (Keeps.each (m := 2097160) _ ?_ _ _) rfl
  · exact Keeps.refl
  · intro z1 z2
    refine Keeps.trans ?_ (Chip.aquSend_keeps ..) rfl
    exact Keeps.refl

theorem Chip.bulkQueue_keeps (c) (a1) : Keeps 2097152 c (Chip.bulkQueue c a1) := by
  unfold Chip.bulkQueue
  refine Keeps.ite ?_ ?_
  · refine Keeps.trans ?_ (Chip.setAqu_keeps ..) rfl
    exact Keeps.refl
  · exact Keeps.refl

theorem Chip.serveResync_keeps (c) (a1) : Keeps 2097160 c (Chip.serveResync c a1) := by
  unfold Chip.serveResync
  refine Keeps.ite ?_ ?_
  · refine Keeps.trans ?_ (Chip.setAqu_keeps ..) rfl
    exact Keeps.refl
  · refine Keeps.trans ?_ (Chip.bulkPump_keeps ..) rfl
    refine Keeps.trans ?_ (Chip.bulkQueue_keeps ..) rfl
    exact Keeps.refl

theorem Chip.helloReceived_keeps (c) (a1) : Keeps 35651612 c (Chip.helloReceived c a1) := by
  unfold Chip.helloReceived
  extract_lets z1 z2 z3
  have h4 : Keeps 35651612 c z1 := by
    refine Keeps.trans ?_ (Chip.setFld_keeps ..) rfl
    refine Keeps.trans ?_ (Chip.setAqu_keeps ..) rfl
    exact Keeps.refl
  clear_value z1
  have h5 : Keeps 35651612 c z2 := by
    refine Keeps.ite ?_ ?_
    · refine Keeps.trans ?_ (Chip.rankConflict_keeps ..) rfl
      exact h4
    · refine Keeps.trans ?_ (Chip.joinHears_keeps ..) rfl
      exact h4
  clear_value z2
  have h6 : Keeps 35651612 c z3 := by
    refine Keeps.trans ?_ (Chip.resyncHear_keeps ..) rfl
    exact h5
  clear_value z3
  refine Keeps.ite ?_ ?_
  · refine Keeps.ite ?_ ?_
    · refine Keeps.trans ?_ (Chip.raise_keeps ..) rfl
      exact h6
    · refine Keeps.trans ?_ (Chip.serveResync_keeps ..) rfl
      exact h6
  · exact h6

theorem Chip.joinEnd_keeps (c) : Keeps 2097408 c (Chip.joinEnd c) := by
  unfold Chip.joinEnd
  split
  · rename_i z1 z2
    exact Keeps.refl
  · rename_i z3 z4 z5
    refine Keeps.ite ?_ ?_
    · exact Keeps.refl
    · extract_lets z6 z7 z8
      have h9 : Keeps 2097408 c z7 := by
        refine Keeps.trans ?_ (Chip.setAqu_keeps ..) rfl
        exact Keeps.refl
      clear_value z7
      refine Keeps.ite ?_ ?_
      · refine Keeps.trans ?_ (Chip.decide__keeps ..) rfl
        refine Keeps.upd_pnd ?_ rfl _ rfl
        exact h9
      · refine Keeps.trans ?_ (Chip.decide__keeps ..) rfl
        exact h9

theorem Chip.syncSend_keeps (c) : Keeps 2097160 c (Chip.syncSend c) := by
  unfold Chip.syncSend
  refine Keeps.ite ?_ ?_
  · refine Keeps.trans ?_ (Chip.aquSend_keeps ..) rfl
    exact Keeps.refl
  · exact Keeps.refl

theorem Chip.syncReceived_keeps (c) (a1) : Keeps 2097156 c (Chip.syncReceived c a1) := by
  unfold Chip.syncReceived
  extract_lets z1 z2
  have h3 : Keeps 2097156 c z1 := by
    refine Keeps.trans ?_ (Chip.joinHears_keeps ..) rfl
    refine Keeps.trans ?_ (Chip.setAqu_keeps ..) rfl
    exact Keeps.refl
  clear_value z1
  refine Keeps.ite ?_ ?_
  · exact h3
  · refine Keeps.trans ?_ (Chip.setFldI_keeps ..) rfl
    refine Keeps.trans ?_ (Chip.setAqu_keeps ..) rfl
    exact h3

theorem Chip.heartbeatSend_keeps (c) : Keeps 2097160 c (Chip.heartbeatSend c) := by
  unfold Chip.heartbeatSend
  refine Keeps.ite ?_ ?_
  · extract_lets z1
    refine Keeps.trans ?_ (Chip.aquSend_keeps ..) rfl
    exact Keeps.refl
  · exact Keeps.refl

theorem Chip.heartbeatReceived_keeps (c) (a1) : Keeps 2097156 c (Chip.heartbeatReceived c a1) := by
  unfold Chip.heartbeatReceived
  extract_lets z1 z2 z3 z4 z5 z6
  have h7 : Keeps 2097156 c z3 := by
    refine Keeps.trans ?_ (Chip.setAqu_keeps ..) rfl
    exact Keeps.refl
  clear_value z3
  have h8 : Keeps 2097156 c z4 := by
    refine Keeps.trans ?_ (Chip.joinHears_keeps ..) rfl
    refine Keeps.trans ?_ (Chip.setFld_keeps ..) rfl
    exact h7
  clear_value z4
  have h9 : Keeps 2097156 c z6 := by
    refine Keeps.ite ?_ ?_
    · refine Keeps.trans ?_ (Chip.setFld_keeps ..) rfl
      refine Keeps.trans ?_ (Chip.setReg_keeps ..) rfl
      exact h8
    · exact h8
  clear_value z6
  split
  · rename_i z10 z11
    refine Keeps.ite ?_ ?_
    · exact h8
    · refine Keeps.trans ?_ (Chip.decide__keeps ..) rfl
      exact h8
  · rename_i z12 z13
    refine Keeps.ite ?_ ?_
    · refine Keeps.trans ?_ (Chip.decide__keeps ..) rfl
      exact h8
    · exact h8
  · rename_i z14 z15 z16
    refine Keeps.trans ?_ (Chip.resyncHear_keeps ..) rfl
    exact h9

theorem Chip.refCheck_keeps (c) : Keeps 2097152 c (Chip.refCheck c) := by
  unfold Chip.refCheck
  extract_lets z1 z2
  refine Keeps.ite ?_ ?_
  · refine Keeps.trans ?_ (Chip.setAqu_keeps ..) rfl
    exact Keeps.refl
  · exact Keeps.refl

theorem Chip.standbyDecides_keeps (c) : Keeps 2097156 c (Chip.standbyDecides c) := by
  unfold Chip.standbyDecides
  extract_lets z1
  refine Keeps.ite ?_ ?_
  · refine Keeps.ite ?_ ?_
    · refine Keeps.ite ?_ ?_
      · refine Keeps.trans ?_ (Chip.decide__keeps ..) rfl
        exact Keeps.refl
      · refine Keeps.trans ?_ (Chip.decide__keeps ..) rfl
        exact Keeps.refl
    · refine Keeps.ite ?_ ?_
      · refine Keeps.trans ?_ (Chip.raise_keeps ..) rfl
        exact Keeps.refl
      · exact Keeps.refl
  · refine Keeps.ite ?_ ?_
    · refine Keeps.trans ?_ (Chip.decide__keeps ..) rfl
      exact Keeps.refl
    · exact Keeps.refl

theorem Chip.hbChk_keeps (c) : Keeps 2097156 c (Chip.hbChk c) := by
  unfold Chip.hbChk
  extract_lets z1 z2
  have h3 : Keeps 2097156 c z2 := by
    refine Keeps.ite ?_ ?_
    · exact Keeps.refl
    · refine Keeps.trans ?_ (Chip.setAqu_keeps ..) rfl
      refine Keeps.trans ?_ (Chip.count_keeps ..) rfl
      exact Keeps.refl
  clear_value z2
  refine Keeps.ite ?_ ?_
  · refine Keeps.ite ?_ ?_
    · refine Keeps.trans ?_ (Chip.standbyDecides_keeps ..) rfl
      exact h3
    · refine Keeps.ite ?_ ?_
      · refine Keeps.trans ?_ (Chip.decide__keeps ..) rfl
        exact h3
      · exact h3
  · exact Keeps.refl

theorem Chip.failSend_keeps (c) (a1) : Keeps 2097160 c (Chip.failSend c a1) := by
  unfold Chip.failSend
  refine Keeps.ite ?_ ?_
  · refine Keeps.trans ?_ (Chip.aquSend_keeps ..) rfl
    exact Keeps.refl
  · exact Keeps.refl

theorem Chip.takeoverChans_keeps (c) : Keeps 1028 c (Chip.takeoverChans c) := by
  unfold Chip.takeoverChans
  extract_lets z1
  have h2 : Keeps 1028 c z1 := by
    refine Keeps.trans ?_ (Keeps.each (m := 1028) _ ?_ _ _) rfl
    · exact Keeps.refl
    · intro z3 z4
      refine Keeps.ite ?_ ?_
      · refine Keeps.trans ?_ (Chip.setChan_keeps ..) rfl
        exact Keeps.refl
      · exact Keeps.refl
  clear_value z1
  refine Keeps.trans ?_ (Keeps.each (m := 1028) _ ?_ _ _) rfl
  · exact h2
  · intro z5 z6
    extract_lets z7 z8 z9 z10
    have h11 : Keeps 1028 z5 z7 := by
      refine Keeps.trans ?_ (Chip.chanStart_keeps ..) rfl
      exact Keeps.refl
    clear_value z7
    have h12 : Keeps 1028 z5 z9 := by
      refine Keeps.trans ?_ (Chip.setChan_keeps ..) rfl
      exact h11
    clear_value z9
    have h13 : Keeps 1028 z5 z10 := by
      refine Keeps.trans ?_ (Chip.setReg_keeps ..) rfl
      refine Keeps.trans ?_ (Chip.setReg_keeps ..) rfl
      refine Keeps.trans ?_ (Chip.setReg_keeps ..) rfl
      exact h12
    clear_value z10
    refine Keeps.ite ?_ ?_
    · refine Keeps.trans ?_ (Chip.setFld_keeps ..) rfl
      exact h13
    · exact Keeps.refl

theorem Chip.catchSources_keeps (c) (a1) (a2) : Keeps 1028 c (Chip.catchSources c a1 a2) := by
  unfold Chip.catchSources
  extract_lets z1 z2
  have h3 : Keeps 1028 c z2 := by
    refine Keeps.trans ?_ (Keeps.each (m := 1028) _ ?_ _ _) rfl
    · exact Keeps.refl
    · intro z4 z5
      refine Keeps.ite ?_ ?_
      · extract_lets z6 z7 z8
        have h9 : Keeps 1028 z4 z7 := by
          refine Keeps.trans ?_ (Chip.setFld_keeps ..) rfl
          refine Keeps.trans ?_ (Chip.setReg_keeps ..) rfl
          refine Keeps.trans ?_ (Chip.setReg_keeps ..) rfl
          exact Keeps.refl
        clear_value z7
        refine Keeps.trans ?_ (Chip.setChan_keeps ..) rfl
        exact h9
      · exact Keeps.refl
  clear_value z2
  refine Keeps.trans ?_ (Chip.virtualSamples_keeps ..) rfl
  exact h3

theorem Chip.catchUpdate_keeps (c) (a1) (a2) : Keeps 36256206 c (Chip.catchUpdate c a1 a2) := by
  unfold Chip.catchUpdate
  extract_lets z1 z2 z3 z4 z5 z6 z7 z8 z9
  have h10 : Keeps 36256206 c z3 := by
    refine Keeps.ite ?_ ?_
    · refine Keeps.trans ?_ (Chip.segEval_keeps ..) rfl
      exact Keeps.refl
    · exact Keeps.refl
  clear_value z3
  have h11 : Keeps 36256206 c z4 := by
    refine Keeps.trans ?_ (Chip.updateStart_keeps ..) rfl
    exact h10
  clear_value z4
  have h12 : Keeps 36256206 c z6 := by
    refine Keeps.trans ?_ (Chip.setFlight_keeps ..) rfl
    exact h11
  clear_value z6
  have h13 : Keeps 36256206 c z7 := by
    refine Keeps.trans ?_ (Chip.count_keeps ..) rfl
    refine Keeps.trans ?_ (Chip.raise_keeps ..) rfl
    exact h12
  clear_value z7
  have h14 : Keeps 36256206 c z8 := by
    refine Keeps.trans ?_ (Chip.updateComplete_keeps ..) rfl
    refine Keeps.trans ?_ (Chip.raiseFaults_keeps ..) rfl
    exact h13
  clear_value z8
  refine Keeps.trans ?_ (Chip.setFlight_keeps ..) rfl
  exact h14

theorem Chip.catchAges_keeps (c) : Keeps 262148 c (Chip.catchAges c) := by
  unfold Chip.catchAges
  extract_lets z1
  have h2 : Keeps 262148 c z1 := by
    refine Keeps.trans ?_ (Keeps.each (m := 262148) _ ?_ _ _) rfl
    · exact Keeps.refl
    · intro z5 z6
      refine Keeps.trans ?_ (Chip.setFld_keeps ..) rfl
      exact Keeps.refl
  clear_value z1
  refine Keeps.trans ?_ (Keeps.each (m := 262148) _ ?_ _ _) rfl
  · exact h2
  · intro z3 z4
    refine Keeps.trans ?_ (Chip.setAuxW_keeps ..) rfl
    exact Keeps.refl

theorem Chip.catchUp_keeps (c) (a1) (a2) : Keeps 36519374 c (Chip.catchUp c a1 a2) := by
  unfold Chip.catchUp
  extract_lets z1 z2
  have h3 : Keeps 36519374 c z2 := by
    refine Keeps.trans ?_ (Keeps.each (m := 36519374) _ ?_ _ _) rfl
    · exact Keeps.refl
    · intro z4 z5
      extract_lets z6 z7 z8
      have h9 : Keeps 36519374 z4 z8 := by
        refine Keeps.trans ?_ (Chip.catchSources_keeps ..) rfl
        refine Keeps.trans ?_ (Chip.setReg_keeps ..) rfl
        exact Keeps.refl
      clear_value z8
      refine Keeps.trans ?_ (Chip.catchAges_keeps ..) rfl
      refine Keeps.trans ?_ (Keeps.each (m := 36519374) _ ?_ _ _) rfl
      · exact h9
      · intro z10 z11
        refine Keeps.trans ?_ (Chip.catchUpdate_keeps ..) rfl
        exact Keeps.refl
  clear_value z2
  refine Keeps.trans ?_ (Chip.setAqu_keeps ..) rfl
  refine Keeps.trans ?_ (Chip.setReg_keeps ..) rfl
  exact h3

theorem Chip.takeoverPorts_keeps (c) : Keeps 262148 c (Chip.takeoverPorts c) := by
  unfold Chip.takeoverPorts
  refine Keeps.trans ?_ (Keeps.each (m := 262148) _ ?_ _ _) rfl
  · exact Keeps.refl
  · intro z1 z2
    refine Keeps.trans ?_ (Chip.setFld_keeps ..) rfl
    refine Keeps.trans ?_ (Keeps.each (m := 262148) _ ?_ _ _) rfl
    · exact Keeps.refl
    · intro z3 z4
      extract_lets z5 z6
      refine Keeps.trans ?_ (Chip.setBarge_keeps ..) rfl
      refine Keeps.trans ?_ (Chip.setFld_keeps ..) rfl
      exact Keeps.refl

theorem Chip.takeoverOutputs_keeps (c) : Keeps 32776 c (Chip.takeoverOutputs c) := by
  unfold Chip.takeoverOutputs
  extract_lets z1 z2 z3
  have h4 : Keeps 32776 c z1 := by
    refine Keeps.trans ?_ (Keeps.each (m := 32776) _ ?_ _ _) rfl
    · exact Keeps.refl
    · intro z5 z6
      refine Keeps.trans ?_ (Chip.pdShow_keeps ..) rfl
      exact Keeps.refl
  clear_value z1
  have h7 : Keeps 32776 c z2 := by
    refine Keeps.trans ?_ (Keeps.each (m := 32776) _ ?_ _ _) rfl
    · exact h4
    · intro z8 z9
      refine Keeps.trans ?_ (Chip.emit_keeps ..) rfl
      exact Keeps.refl
  clear_value z2
  refine Keeps.trans ?_ (Chip.setMan_keeps ..) rfl
  exact h7

theorem Chip.takeover_keeps (c) : Keeps 40893950 c (Chip.takeover c) := by
  unfold Chip.takeover
  extract_lets z1 z2 z3 z4 z5 z6 z7 z8 z9 z10 z11 z12 z13 z14 z15
  have h16 : Keeps 40893950 c z4 := by
    refine Keeps.trans ?_ (Chip.setFld_keeps ..) rfl
    refine Keeps.trans ?_ (Chip.setReg_keeps ..) rfl
    exact Keeps.refl
  clear_value z4
  have h17 : Keeps 40893950 c z5 := by
    refine Keeps.trans ?_ (Chip.count_keeps ..) rfl
    refine Keeps.trans ?_ (Chip.setReg_keeps ..) rfl
    refine Keeps.trans ?_ (Chip.setReg_keeps ..) rfl
    exact h16
  clear_value z5
  have h18 : Keeps 40893950 c z7 := by
    refine Keeps.trans ?_ (Chip.setFld_keeps ..) rfl
    exact h17
  clear_value z7
  have h19 : Keeps 40893950 c z8 := by
    refine Keeps.trans ?_ (Chip.takeoverChans_keeps ..) rfl
    refine Keeps.trans ?_ (Chip.lockUpdate_keeps ..) rfl
    exact h18
  clear_value z8
  have h20 : Keeps 40893950 c z9 := by
    refine Keeps.trans ?_ (Chip.enterState_keeps ..) rfl
    exact h19
  clear_value z9
  have h21 : Keeps 40893950 c z11 := by
    refine Keeps.ite ?_ ?_
    · refine Keeps.trans ?_ (Chip.catchUp_keeps ..) rfl
      exact h19
    · refine Keeps.trans ?_ (Chip.setAqu_keeps ..) rfl
      refine Keeps.upd_pnd ?_ rfl _ rfl
      exact h20
  clear_value z11
  have h22 : Keeps 40893950 c z12 := by
    refine Keeps.trans ?_ (Chip.setAqu_keeps ..) rfl
    exact h21
  clear_value z12
  have h23 : Keeps 40893950 c z13 := by
    refine Keeps.trans ?_ (Chip.takeoverOutputs_keeps ..) rfl
    refine Keeps.trans ?_ (Chip.takeoverPorts_keeps ..) rfl
    exact h22
  clear_value z13
  have h24 : Keeps 40893950 c z15 := by
    refine Keeps.upd_plan ?_ rfl _
    exact h23
  clear_value z15
  refine Keeps.trans ?_ (Chip.sysEvent_keeps ..) rfl
  refine Keeps.trans ?_ (Chip.connTakeover_keeps ..) rfl
  exact h24

theorem Chip.stopActing_keeps (c) : Keeps 35655708 c (Chip.stopActing c) := by
  unfold Chip.stopActing
  extract_lets z1 z2
  have h3 : Keeps 35655708 c z1 := by
    refine Keeps.trans ?_ (Chip.setAqu_keeps ..) rfl
    exact Keeps.refl
  clear_value z1
  have h4 : Keeps 35655708 c z2 := by
    refine Keeps.trans ?_ (Keeps.each (m := 35655708) _ ?_ _ _) rfl
    · exact h3
    · intro z5 z6
      refine Keeps.trans ?_ (Chip.setFlight_keeps ..) rfl
      exact Keeps.refl
  clear_value z2
  refine Keeps.trans ?_ (Chip.twinLongsEnd_keeps ..) rfl
  exact h4

theorem Chip.enterResync_keeps (c) : Keeps 2097156 c (Chip.enterResync c) := by
  unfold Chip.enterResync
  extract_lets z1
  have h2 : Keeps 2097156 c z1 := by
    refine Keeps.trans ?_ (Chip.setAqu_keeps ..) rfl
    exact Keeps.refl
  clear_value z1
  refine Keeps.trans ?_ (Chip.setFld_keeps ..) rfl
  exact h2

theorem Chip.handoverLost_keeps (c) : Keeps 2097176 c (Chip.handoverLost c) := by
  unfold Chip.handoverLost
  extract_lets z1 z2
  have h3 : Keeps 2097176 c z2 := by
    refine Keeps.trans ?_ (Chip.setAqu_keeps ..) rfl
    exact Keeps.refl
  clear_value z2
  clear_value z1
  split
  · rename_i z4 z5
    refine Keeps.trans ?_ (Chip.reply_keeps ..) rfl
    exact h3
  · rename_i z6
    exact h3

theorem Chip.roleChange_keeps (c) : Keeps 40893950 c (Chip.roleChange c) := by
  unfold Chip.roleChange
  extract_lets z1 z2 z3 z4
  have h5 : Keeps 40893950 c z1 := by
    refine Keeps.ite ?_ ?_
    · refine Keeps.trans ?_ (Chip.setAqu_keeps ..) rfl
      exact Keeps.refl
    · split
      · rename_i z40 z41 z42
        refine Keeps.ite ?_ ?_
        · refine Keeps.trans ?_ (Chip.setAqu_keeps ..) rfl
          exact Keeps.refl
        · exact Keeps.refl
      · rename_i z43 z44
        exact Keeps.refl
  clear_value z1
  have h6 : Keeps 40893950 c z2 := by
    refine Keeps.ite ?_ ?_
    · refine Keeps.trans ?_ (Chip.decide__keeps ..) rfl
      exact h5
    · exact h5
  clear_value z2
  have h7 : Keeps 40893950 c z4 := by
    refine Keeps.trans ?_ (Chip.setAqu_keeps ..) rfl
    exact h6
  clear_value z4
  split
  · rename_i z8 z9
    exact h6
  · rename_i z10 z11 z12
    extract_lets z13 z14 z15 z16 z17 z18 z19 z20 z21 z22 z23
    have h24 : Keeps 40893950 c z14 := by
      refine Keeps.trans ?_ (Keeps.each (m := 40893950) _ ?_ _ _) rfl
      · exact h7
      · intro z38 z39
        refine Keeps.trans ?_ (Chip.raiseBit_keeps ..) rfl
        exact Keeps.refl
    clear_value z14
    have h25 : Keeps 40893950 c z15 := by
      refine Keeps.trans ?_ (Keeps.onlyIf (m := 40893950) _ ?_ _ _) rfl
      · refine Keeps.trans ?_ (Chip.setFld_keeps ..) rfl
        exact h24
      · intro z37
        refine Keeps.trans ?_ (Chip.setFld_keeps ..) rfl
        exact Keeps.refl
    clear_value z15
    have h26 : Keeps 40893950 c z16 := by
      refine Keeps.trans ?_ (Keeps.onlyIf (m := 40893950) _ ?_ _ _) rfl
      · exact h25
      · intro z36
        refine Keeps.trans ?_ (Chip.handoverLost_keeps ..) rfl
        exact Keeps.refl
    clear_value z16
    have h27 : Keeps 40893950 c z17 := by
      refine Keeps.trans ?_ (Chip.setAqu_keeps ..) rfl
      refine Keeps.trans ?_ (Chip.setFld_keeps ..) rfl
      refine Keeps.trans ?_ (Chip.connSuspend_keeps ..) rfl
      exact h26
    clear_value z17
    have h28 : Keeps 40893950 c z18 := by
      refine Keeps.trans ?_ (Chip.setReg_keeps ..) rfl
      refine Keeps.trans ?_ (Chip.stopActing_keeps ..) rfl
      exact h27
    clear_value z18
    have h29 : Keeps 40893950 c z20 := by
      refine Keeps.trans ?_ (Chip.setAqu_keeps ..) rfl
      exact h28
    clear_value z20
    have h30 : Keeps 40893950 c z21 := by
      refine Keeps.ite ?_ ?_
      · refine Keeps.trans ?_ (Chip.takeover_keeps ..) rfl
        exact h26
      · refine Keeps.ite ?_ ?_
        · refine Keeps.ite ?_ ?_
          · clear_value z19
            split
            · rename_i z33 z34
              refine Keeps.trans ?_ (Chip.reply_keeps ..) rfl
              exact h29
            · rename_i z35
              exact h29
          · refine Keeps.trans ?_ (Chip.count_keeps ..) rfl
            exact h27
        · refine Keeps.ite ?_ ?_
          · refine Keeps.trans ?_ (Chip.joinReply_keeps ..) rfl
            refine Keeps.trans ?_ (Chip.enterResync_keeps ..) rfl
            refine Keeps.ite ?_ ?_
            · refine Keeps.trans ?_ (Chip.stopActing_keeps ..) rfl
              exact h26
            · exact h26
          · refine Keeps.ite ?_ ?_
            · refine Keeps.trans ?_ (Chip.twinLongsEnd_keeps ..) rfl
              refine Keeps.trans ?_ (Chip.setAqu_keeps ..) rfl
              exact h26
            · exact h26
    clear_value z21
    have h31 : Keeps 40893950 c z22 := by
      refine Keeps.trans ?_ (Chip.logEvent_keeps ..) rfl
      exact h30
    clear_value z22
    have h32 : Keeps 40893950 c z23 := by
      refine Keeps.ite ?_ ?_
      · refine Keeps.trans ?_ (Chip.logTrigger_keeps ..) rfl
        exact h31
      · exact h31
    clear_value z23
    refine Keeps.trans ?_ (Chip.weirRefresh_keeps ..) rfl
    exact h32

theorem Chip.resyncConfig_keeps (c) (a1) (a2) : Keeps 2099204 c (Chip.resyncConfig c a1 a2) := by
  unfold Chip.resyncConfig
  extract_lets z1
  have h2 : Keeps 2099204 c z1 := by
    refine Keeps.trans ?_ (Chip.takeBulk_keeps ..) rfl
    exact Keeps.refl
  clear_value z1
  split
  · rename_i z3 z4
    exact h2
  · rename_i z5 z6 z7
    extract_lets z8
    have h9 : Keeps 2099204 c z8 := by
      refine Keeps.trans ?_ (Chip.resyncHear_keeps ..) rfl
      exact h2
    clear_value z8
    refine Keeps.ite ?_ ?_
    · refine Keeps.trans ?_ (Chip.resyncFail_keeps ..) rfl
      exact h9
    · exact h9

theorem Chip.bulkReceived_keeps (c) (a1) (a2) : Keeps 36699646 c (Chip.bulkReceived c a1 a2) := by
  unfold Chip.bulkReceived
  extract_lets z1
  have h2 : Keeps 36699646 c z1 := by
    refine Keeps.trans ?_ (Chip.joinHears_keeps ..) rfl
    exact Keeps.refl
  clear_value z1
  refine Keeps.ite ?_ ?_
  · refine Keeps.trans ?_ (Chip.applyInbox_keeps ..) rfl
    refine Keeps.trans ?_ (Chip.setAqu_keeps ..) rfl
    exact h2
  · refine Keeps.ite ?_ ?_
    · refine Keeps.ite ?_ ?_
      · refine Keeps.trans ?_ (Chip.resyncFail_keeps ..) rfl
        exact h2
      · split
        · rename_i z3 z4 z5
          refine Keeps.ite ?_ ?_
          · refine Keeps.trans ?_ (Chip.putSnapshot_keeps ..) rfl
            exact h2
          · exact h2
        · rename_i z6 z7
          refine Keeps.ite ?_ ?_
          · refine Keeps.trans ?_ (Chip.resyncConfig_keeps ..) rfl
            exact h2
          · exact h2
    · exact h2

theorem Chip.resyncRestart_keeps (c) : Keeps 2097156 c (Chip.resyncRestart c) := by
  unfold Chip.resyncRestart
  split
  · rename_i z1 z2 z3
    refine Keeps.ite ?_ ?_
    · refine Keeps.trans ?_ (Chip.enterResync_keeps ..) rfl
      exact Keeps.refl
    · exact Keeps.refl
  · rename_i z4 z5
    exact Keeps.refl

theorem Chip.healthSend_keeps (c) : Keeps 2097292 c (Chip.healthSend c) := by
  unfold Chip.healthSend
  refine Keeps.ite ?_ ?_
  · extract_lets z1 z2
    have h3 : Keeps 2097292 c z1 := by
      refine Keeps.trans ?_ (Chip.fwWork_keeps ..) rfl
      exact Keeps.refl
    clear_value z1
    refine Keeps.trans ?_ (Chip.aquSend_keeps ..) rfl
    exact h3
  · exact Keeps.refl

theorem Chip.twinStatus_keeps (c) (a1) : Keeps 0 c (Chip.twinStatus c a1).1 := by
  unfold Chip.twinStatus
  exact Keeps.refl

theorem Chip.twinHandover_keeps (c) (a1) : Keeps 2097152 c (Chip.twinHandover c a1).1 := by
  unfold Chip.twinHandover
  refine Keeps.ite1 ?_ ?_
  · exact Keeps.refl
  · refine Keeps.ite1 ?_ ?_
    · exact Keeps.refl
    · dsimp only
      refine Keeps.trans ?_ (Chip.setAqu_keeps ..) rfl
      exact Keeps.refl

theorem Chip.handoverFail_keeps (c) : Keeps 2097160 c (Chip.handoverFail c) := by
  unfold Chip.handoverFail
  refine Keeps.ite ?_ ?_
  · refine Keeps.trans ?_ (Chip.setAqu_keeps ..) rfl
    refine Keeps.trans ?_ (Chip.failSend_keeps ..) rfl
    exact Keeps.refl
  · exact Keeps.refl

theorem Chip.aquWrite_keeps (c) (a1) (a2) : KeepsO 4 c (Chip.aquWrite c a1 a2) := by
  unfold Chip.aquWrite
  refine KeepsO.ite ?_ ?_
  · refine KeepsO.some ?_
    refine Keeps.ite ?_ ?_
    · refine Keeps.trans ?_ (Chip.writeBits_keeps ..) rfl
      exact Keeps.refl
    · refine Keeps.trans ?_ (Chip.raise_keeps ..) rfl
      exact Keeps.refl
  · exact KeepsO.none

theorem Chip.macFromOtp_keeps (c) : Keeps 4 c (Chip.macFromOtp c) := by
  unfold Chip.macFromOtp
  extract_lets z1
  refine Keeps.trans ?_ (Chip.setReg_keeps ..) rfl
  refine Keeps.trans ?_ (Chip.setReg_keeps ..) rfl
  refine Keeps.trans ?_ (Chip.setReg_keeps ..) rfl
  refine Keeps.trans ?_ (Chip.setReg_keeps ..) rfl
  exact Keeps.refl

theorem Chip.bootRegs_keeps (c) (a1) (a2) (a3) : Keeps 4 c (Chip.bootRegs c a1 a2 a3) := by
  unfold Chip.bootRegs
  extract_lets z1
  have h2 : Keeps 4 c z1 := by
    refine Keeps.trans ?_ (Chip.setReg_keeps ..) rfl
    exact Keeps.refl
  clear_value z1
  refine Keeps.trans ?_ (Chip.setReg_keeps ..) rfl
  exact h2

theorem Chip.bootLog_keeps (c) : Keeps 196 c (Chip.bootLog c) := by
  unfold Chip.bootLog
  extract_lets z1
  have h2 : Keeps 196 c z1 := by
    refine Keeps.ite ?_ ?_
    · refine Keeps.ite ?_ ?_
      · refine Keeps.trans ?_ (Chip.autoSave_keeps ..) rfl
        exact Keeps.refl
      · refine Keeps.trans ?_ (Chip.savePump_keeps ..) rfl
        exact Keeps.refl
    · refine Keeps.ite ?_ ?_
      · exact Keeps.refl
      · refine Keeps.trans ?_ (Chip.logRestore_keeps ..) rfl
        exact Keeps.refl
  clear_value z1
  refine Keeps.trans ?_ (Chip.bootEvent_keeps ..) rfl
  exact h2

theorem Chip.fwStart_keeps (c) (a1) (a2) (a3) : Keeps 8913132 c (Chip.fwStart c a1 a2 a3) := by
  unfold Chip.fwStart
  extract_lets z1 z2 z3 z4
  have h5 : Keeps 8913132 c z3 := by
    refine Keeps.trans ?_ (Chip.setBoot_keepsAll _ _ (fun _ => rfl) (fun _ => rfl)) rfl
    exact Keeps.refl
  clear_value z3
  have h6 : Keeps 8913132 c z4 := by
    refine Keeps.ite ?_ ?_
    · exact h5
    · refine Keeps.trans ?_ (Chip.macFromOtp_keeps ..) rfl
      exact h5
  clear_value z4
  refine Keeps.trans ?_ (Chip.bootLog_keeps ..) rfl
  refine Keeps.trans ?_ (Chip.weirRefresh_keeps ..) rfl
  refine Keeps.trans ?_ (Chip.psetBoot_keeps ..) rfl
  refine Keeps.trans ?_ (Chip.bootRegs_keeps ..) rfl
  exact h6

theorem Chip.bootWait_keeps (c) (a1) : Keeps 8388644 c (Chip.bootWait c a1) := by
  unfold Chip.bootWait
  refine Keeps.trans ?_ (Chip.setBoot_keepsAll _ _ (fun _ => rfl) (fun _ => rfl)) rfl
  refine Keeps.trans ?_ (Chip.setReg_keeps ..) rfl
  exact Keeps.refl

theorem Chip.bootVerify_keeps (c : Chip) (e : BootEnv) : Keeps 8913132 c (c.bootVerify e) := by
  unfold Chip.bootVerify
  refine Keeps.ite ?_ Keeps.refl
  have h1 : Keeps 8913132 c (c.setBoot (fun b => { b with flash := e.flash.foldl (fun f p => flashPut f p.1 p.2) b.flash })) :=
    Keeps.trans Keeps.refl (Chip.setBoot_keepsFlash _ _ (fun _ => rfl) (fun _ => rfl)
      (fun _ h => memFold_wf 0xFF _ (fun _ _ w => flashPut_wf _ _ _ w) _ _ h)) rfl
  have w : ∀ n, Keeps 8913132 c ((c.setBoot (fun b => { b with flash := e.flash.foldl (fun f p => flashPut f p.1 p.2) b.flash })).bootWait n) :=
    fun n => h1.trans (Chip.bootWait_keeps ..) rfl
  have f : ∀ a b d, Keeps 8913132 c ((c.setBoot (fun b => { b with flash := e.flash.foldl (fun f p => flashPut f p.1 p.2) b.flash })).fwStart a b d) :=
    fun a b d => h1.trans (Chip.fwStart_keeps ..) rfl
  exact Keeps.ite (w _) (Keeps.ite (w _) (Keeps.ite (w _) (Keeps.ite (f ..) (Keeps.ite (f ..) (w _)))))

theorem Chip.vinRise_keeps (c) (a1) : Keeps 134217725 c (Chip.vinRise c a1) := by
  unfold Chip.vinRise
  extract_lets z1
  have h2 : Keeps 134217725 c z1 := by
    refine Keeps.trans ?_ (Chip.setBoot_keeps _ _ (fun _ => rfl) (fun _ => rfl) (fun _ => rfl)) rfl
    exact Keeps.refl
  clear_value z1
  refine Keeps.ite ?_ ?_
  · refine Keeps.trans ?_ (Chip.release_keeps ..) rfl
    exact h2
  · refine Keeps.trans ?_ (Chip.hold_keeps ..) rfl
    exact h2

theorem Chip.resetPin_keeps (c) (a1) : Keeps 134217725 c (Chip.resetPin c a1) := by
  unfold Chip.resetPin
  extract_lets z1
  have h2 : Keeps 134217725 c z1 := by
    refine Keeps.trans ?_ (Chip.setBoot_keeps _ _ (fun _ => rfl) (fun _ => rfl) (fun _ => rfl)) rfl
    exact Keeps.refl
  clear_value z1
  refine Keeps.ite ?_ ?_
  · refine Keeps.trans ?_ (Chip.hold_keeps ..) rfl
    exact h2
  · refine Keeps.trans ?_ (Chip.release_keeps ..) rfl
    exact h2

theorem Chip.powerFail_keeps (c) : Keeps 2097356 c (Chip.powerFail c) := by
  unfold Chip.powerFail
  refine Keeps.ite ?_ ?_
  · exact Keeps.refl
  · refine Keeps.trans ?_ (Chip.brownoutFreeze_keeps ..) rfl
    refine Keeps.trans ?_ (Chip.failSend_keeps ..) rfl
    refine Keeps.trans ?_ (Chip.logEvent_keeps ..) rfl
    exact Keeps.refl

theorem Chip.vinRetLoss_keeps (c : Chip) : Keeps 100 c c.vinRetLoss := by
  unfold Chip.vinRetLoss
  refine Keeps.ite ?_ Keeps.refl
  have h1 : Keeps 100 c (c.setBoot (fun b => { b with logKept := false })) :=
    Keeps.weaken (Chip.setBoot_keeps c _ (fun _ => rfl) (fun _ => rfl) (fun _ => rfl)) rfl
  exact Keeps.upd_regs (b := { c.setBoot (fun b => { b with logKept := false }) with log := Logbook.init })
    (Keeps.upd_log h1 rfl _ (fun _ => rfl)) rfl _ (fun _ => rfl)

theorem Chip.pairFail_keeps (c) (a1) (a2) (a3) (a4) : Keeps 113246204 c (Chip.pairFail c a1 a2 a3 a4) := by
  unfold Chip.pairFail
  refine Keeps.trans ?_ (Chip.warmReset_keeps ..) rfl
  refine Keeps.trans ?_ (Chip.failSend_keeps ..) rfl
  refine Keeps.trans ?_ (Chip.trigger7_keeps ..) rfl
  refine Keeps.trans ?_ (Chip.logEvent_keeps ..) rfl
  exact Keeps.refl

theorem Chip.resetCmd_keeps (c) (a1) : Keeps 0 c (Chip.resetCmd c a1).1 := by
  unfold Chip.resetCmd
  refine Keeps.ite1 ?_ ?_
  · exact Keeps.refl
  · refine Keeps.ite1 ?_ ?_
    · exact Keeps.refl
    · exact Keeps.refl

theorem Chip.resetRun_keeps (c : Chip) (k : Intake) (o : OpInfo) : Keeps 0x6bffffc c (c.resetRun k o) := by
  unfold Chip.resetRun
  have h1 : Keeps 0x6bffffc c (c.runCommand o k Chip.resetCmd) :=
    Chip.runCommand_keeps c o k Chip.resetCmd (fun c k => Keeps.weaken (Chip.resetCmd_keeps c k) rfl) rfl
  simp only
  generalize c.runCommand o k Chip.resetCmd = d at h1
  refine Keeps.ite ?_ h1
  refine Keeps.upd_hst ?_ rfl _ rfl rfl rfl rfl
  refine Keeps.trans ?_ (Chip.warmReset_keeps ..) rfl
  exact Keeps.trans h1 (Keeps.each (m := 0x6bffffc) _ (fun c _ => Keeps.weaken (Chip.completionPost_keeps c true) rfl) _ _) rfl

theorem Chip.scrub_keeps (c) (a1) (a2) (a3) : Keeps 2097220 c (Chip.scrub c a1 a2 a3) := by
  unfold Chip.scrub
  extract_lets z1 z2 z3
  have h4 : Keeps 2097220 c z2 := by
    refine Keeps.trans ?_ (Keeps.each (m := 2097220) _ ?_ _ _) rfl
    · refine Keeps.trans ?_ (Keeps.each (m := 2097220) _ ?_ _ _) rfl
      · exact Keeps.refl
      · intro z5 z6
        refine Keeps.trans ?_ (Chip.count_keeps ..) rfl
        exact Keeps.refl
    · intro z7 z8
      refine Keeps.trans ?_ (Chip.raise_keeps ..) rfl
      exact Keeps.refl
  clear_value z2
  have h9 : Keeps 2097220 c z3 := by
    refine Keeps.ite ?_ ?_
    · refine Keeps.trans ?_ (Chip.logTrigger_keeps ..) rfl
      refine Keeps.trans ?_ (Chip.logEvent_keeps ..) rfl
      exact h4
    · exact h4
  clear_value z3
  refine Keeps.ite ?_ ?_
  · exact h9
  · refine Keeps.ite ?_ ?_
    · refine Keeps.trans ?_ (Chip.setAqu_keeps ..) rfl
      exact h9
    · refine Keeps.trans ?_ (Chip.setAqu_keeps ..) rfl
      exact h9

theorem Chip.pinControl_keeps (c) : Keeps 32 c (Chip.pinControl c) := by
  unfold Chip.pinControl
  refine Keeps.trans ?_ (Chip.setBoot_keeps _ _ (fun _ => rfl) (fun _ => rfl) (fun _ => rfl)) rfl
  exact Keeps.refl

theorem Chip.testPin_keeps (c) (a1) : Keeps 134217727 c (Chip.testPin c a1) := by
  unfold Chip.testPin
  extract_lets z1 z2
  have h3 : Keeps 134217727 c z1 := by
    refine Keeps.trans ?_ (Chip.pinControl_keeps ..) rfl
    refine Keeps.trans ?_ (Chip.setBoot_keeps _ _ (fun _ => rfl) (fun _ => rfl) (fun _ => rfl)) rfl
    exact Keeps.refl
  clear_value z1
  have h4 : Keeps 134217727 c z2.1 := by
    refine Keeps.trans ?_ (Chip.freeWord_keeps ..) rfl
    exact h3
  clear_value z2
  refine Keeps.ite ?_ ?_
  · refine Keeps.trans ?_ (Chip.hold_keeps ..) rfl
    exact h4
  · refine Keeps.trans ?_ (Chip.release_keeps ..) rfl
    exact h3

theorem Chip.corrPlan_keeps (c) : Keeps 256 c (Chip.corrPlan c) := by
  unfold Chip.corrPlan
  extract_lets z1 z2 z3 z4 z5 z6 z7
  refine Keeps.upd_pnd ?_ rfl _ rfl
  exact Keeps.refl

theorem Chip.corrMake_keeps (c) (a1) : Keeps 6291712 c (Chip.corrMake c a1) := by
  unfold Chip.corrMake
  extract_lets z1 z2 z3 z4 z5 z6
  refine Keeps.ite ?_ ?_
  · refine Keeps.trans ?_ (Chip.setAqu_keeps ..) rfl
    refine Keeps.upd_pndAll ?_ rfl rfl _
    exact Keeps.refl
  · refine Keeps.upd_pndAll ?_ rfl rfl _
    exact Keeps.refl

theorem Chip.phaseCorrection_keeps (c) : Keeps 6291712 c (Chip.phaseCorrection c) := by
  unfold Chip.phaseCorrection
  split
  · rename_i z1 z2
    exact Keeps.refl
  · rename_i z3 z4 z5 z6
    refine Keeps.ite ?_ ?_
    · refine Keeps.trans ?_ (Chip.corrMake_keeps ..) rfl
      exact Keeps.refl
    · exact Keeps.refl

theorem Chip.corrAll_keeps (c) : Keeps 6291712 c (Chip.corrAll c) := by
  unfold Chip.corrAll
  refine Keeps.trans ?_ (Keeps.each (m := 6291712) _ ?_ _ _) rfl
  · exact Keeps.refl
  · intro z1 z2
    refine Keeps.trans ?_ (Chip.corrMake_keeps ..) rfl
    exact Keeps.refl

theorem Chip.poundRej_keeps (c) : Keeps 4 c (Chip.poundRej c) := by
  unfold Chip.poundRej
  refine Keeps.trans ?_ (Chip.raise_keeps ..) rfl
  exact Keeps.refl

theorem Chip.poundCfgWrite_keeps (c) (a1) : Keeps 4194564 c (Chip.poundCfgWrite c a1) := by
  unfold Chip.poundCfgWrite
  extract_lets z1 z2 z3 z4 z5
  have h6 : Keeps 4194564 c z3 := by
    refine Keeps.trans ?_ (Chip.writeBits_keeps ..) rfl
    exact Keeps.refl
  clear_value z3
  have h7 : Keeps 4194564 c z5 := by
    refine Keeps.ite ?_ ?_
    · refine Keeps.upd_pnd ?_ rfl _ rfl
      exact h6
    · exact h6
  clear_value z5
  refine Keeps.ite ?_ ?_
  · refine Keeps.trans ?_ (Chip.poundRej_keeps ..) rfl
    exact Keeps.refl
  · refine Keeps.ite ?_ ?_
    · refine Keeps.trans ?_ (Chip.poundRej_keeps ..) rfl
      exact Keeps.refl
    · refine Keeps.ite ?_ ?_
      · refine Keeps.trans ?_ (Chip.poundRej_keeps ..) rfl
        exact Keeps.refl
      · refine Keeps.trans ?_ (Chip.lockUpdate_keeps ..) rfl
        exact h7

theorem Chip.poundOffsetWrite_keeps (c) (a1) : Keeps 4 c (Chip.poundOffsetWrite c a1) := by
  unfold Chip.poundOffsetWrite
  refine Keeps.ite ?_ ?_
  · refine Keeps.trans ?_ (Chip.writeBits_keeps ..) rfl
    exact Keeps.refl
  · refine Keeps.trans ?_ (Chip.poundRej_keeps ..) rfl
    exact Keeps.refl

theorem Chip.cmarkWrite_keeps (c) (a1) (a2) : Keeps 4 c (Chip.cmarkWrite c a1 a2) := by
  unfold Chip.cmarkWrite
  refine Keeps.ite ?_ ?_
  · refine Keeps.trans ?_ (Chip.poundRej_keeps ..) rfl
    exact Keeps.refl
  · refine Keeps.trans ?_ (Chip.writeBits_keeps ..) rfl
    exact Keeps.refl

theorem Chip.markLost_keeps (c) (a1) : Keeps 4 c (Chip.markLost c a1) := by
  unfold Chip.markLost
  refine Keeps.trans ?_ (Chip.raiseBit_keeps ..) rfl
  exact Keeps.refl

theorem Chip.markHost_keeps (c) (a1) : Keeps 33554436 c (Chip.markHost c a1) := by
  unfold Chip.markHost
  extract_lets z1
  refine Keeps.trans ?_ (Keeps.onlyIf (m := 33554436) _ ?_ _ _) rfl
  · refine Keeps.trans ?_ (Chip.hostEvent_keeps ..) rfl
    exact Keeps.refl
  · intro z2
    refine Keeps.trans ?_ (Chip.markLost_keeps ..) rfl
    exact Keeps.refl

theorem Chip.markLkp_keeps (c) (a1) : Keeps 65668 c (Chip.markLkp c a1) := by
  unfold Chip.markLkp
  extract_lets z1 z2
  have h3 : Keeps 65668 c z1 := by
    refine Keeps.trans ?_ (Keeps.each (m := 65668) _ ?_ _ _) rfl
    · exact Keeps.refl
    · intro z6 z7
      refine Keeps.ite ?_ ?_
      · refine Keeps.trans ?_ (Chip.chainTrigger_keeps ..) rfl
        exact Keeps.refl
      · exact Keeps.refl
  clear_value z1
  have h4 : Keeps 65668 c z2.1 := by
    refine Keeps.trans ?_ (Chip.submit_keeps ..) rfl
    exact h3
  clear_value z2
  refine Keeps.trans ?_ (Keeps.onlyIf (m := 65668) _ ?_ _ _) rfl
  · exact h4
  · intro z5
    refine Keeps.trans ?_ (Chip.markLost_keeps ..) rfl
    exact Keeps.refl

theorem Chip.markAdc_keeps (c) (a1) : Keeps 131076 c (Chip.markAdc c a1) := by
  unfold Chip.markAdc
  extract_lets z1
  have h2 : Keeps 131076 c z1.1 := by
    refine Keeps.trans ?_ (Chip.adcMark_keeps ..) rfl
    exact Keeps.refl
  clear_value z1
  refine Keeps.trans ?_ (Keeps.onlyIf (m := 131076) _ ?_ _ _) rfl
  · exact h2
  · intro z3
    refine Keeps.trans ?_ (Chip.markLost_keeps ..) rfl
    exact Keeps.refl

theorem Chip.markEvents_keeps (c) (a1) : Keeps 34800004 c (Chip.markEvents c a1) := by
  unfold Chip.markEvents
  refine Keeps.ite ?_ ?_
  · exact Keeps.refl
  · extract_lets z1 z2 z3 z4 z5 z6
    have h7 : Keeps 34800004 c z3 := by
      refine Keeps.upd_pnd ?_ rfl _ rfl
      exact Keeps.refl
    clear_value z3
    have h8 : Keeps 34800004 c z4 := by
      refine Keeps.trans ?_ (Keeps.onlyIf (m := 34800004) _ ?_ _ _) rfl
      · exact h7
      · intro z9
        refine Keeps.trans ?_ (Chip.markHost_keeps ..) rfl
        exact Keeps.refl
    clear_value z4
    have h10 : Keeps 34800004 c z5 := by
      refine Keeps.trans ?_ (Keeps.onlyIf (m := 34800004) _ ?_ _ _) rfl
      · exact h8
      · intro z11
        refine Keeps.trans ?_ (Chip.markLkp_keeps ..) rfl
        exact Keeps.refl
    clear_value z5
    have h12 : Keeps 34800004 c z6 := by
      refine Keeps.trans ?_ (Keeps.onlyIf (m := 34800004) _ ?_ _ _) rfl
      · exact h10
      · intro z13
        refine Keeps.trans ?_ (Chip.markAdc_keeps ..) rfl
        exact Keeps.refl
    clear_value z6
    refine Keeps.trans ?_ (Keeps.onlyIf (m := 34800004) _ ?_ _ _) rfl
    · exact h12
    · intro z14
      refine Keeps.trans ?_ (Chip.gauTrigger_keeps ..) rfl
      exact Keeps.refl

theorem Chip.markFire_keeps (c) (a1) : Keeps 34800005 c (Chip.markFire c a1) := by
  unfold Chip.markFire
  split
  · rename_i z1 z2
    exact Keeps.refl
  · rename_i z3 z4 z5
    refine Keeps.ite ?_ ?_
    · exact Keeps.refl
    · refine Keeps.trans ?_ (Keeps.each (m := 34800005) _ ?_ _ _) rfl
      · refine Keeps.trans ?_ (Chip.at_keeps ..) rfl
        exact Keeps.refl
      · intro z6 z7
        refine Keeps.trans ?_ (Chip.markEvents_keeps ..) rfl
        exact Keeps.refl

theorem Chip.setStateCmd_keeps (c) (a1) : Keeps 2097408 c (Chip.setStateCmd c a1).1 := by
  unfold Chip.setStateCmd
  extract_lets z1 z2 z3
  refine Keeps.ite1 ?_ ?_
  · exact Keeps.refl
  · refine Keeps.ite1 ?_ ?_
    · exact Keeps.refl
    · refine Keeps.ite1 ?_ ?_
      · exact Keeps.refl
      · refine Keeps.ite1 ?_ ?_
        · dsimp only
          refine Keeps.trans ?_ (Chip.setAqu_keeps ..) rfl
          exact Keeps.refl
        · dsimp only
          refine Keeps.upd_pnd ?_ rfl _ rfl
          exact Keeps.refl

theorem Chip.gauTo_keeps (c) (a1) : Keeps 4 c (Chip.gauTo c a1) := by
  unfold Chip.gauTo
  refine Keeps.trans ?_ (Chip.setFld_keeps ..) rfl
  exact Keeps.refl

theorem Chip.gauRegs_keeps (c) : Keeps 4 c (Chip.gauRegs c) := by
  unfold Chip.gauRegs
  extract_lets z1
  have h2 : Keeps 4 c z1 := by
    refine Keeps.trans ?_ (Chip.setFld_keeps ..) rfl
    exact Keeps.refl
  clear_value z1
  split
  · rename_i z3 z4 z5 z6
    refine Keeps.ite ?_ ?_
    · refine Keeps.trans ?_ (Chip.setFld_keeps ..) rfl
      exact h2
    · exact h2
  · rename_i z7 z8
    exact h2

theorem Chip.gauPut_keeps (c : Chip) (a : Nat) (bs : List Byte) : Keeps 2048 c (c.gauPut a bs) := by
  unfold Chip.gauPut
  exact Keeps.upd_mem Keeps.refl rfl _ (Mems.wf_gau _ _ (fun h => tabFold_wf _ _ _ _ h))

theorem Chip.gauWait_keeps (c) : Keeps 4 c (Chip.gauWait c) := by
  unfold Chip.gauWait
  refine Keeps.trans ?_ (Chip.setFld_keeps ..) rfl
  refine Keeps.trans ?_ (Chip.gauTo_keeps ..) rfl
  exact Keeps.refl

theorem Chip.gauArm_keeps (c) : Keeps 1048580 c (Chip.gauArm c).1 := by
  unfold Chip.gauArm
  refine Keeps.ite1 ?_ ?_
  · refine Keeps.trans ?_ (Chip.gauWait_keeps ..) rfl
    refine Keeps.trans ?_ (Chip.setGau_keeps ..) rfl
    exact Keeps.refl
  · refine Keeps.trans ?_ (Chip.raise_keeps ..) rfl
    exact Keeps.refl

theorem Chip.gauBegin_keeps (c) : Keeps 1048580 c (Chip.gauBegin c) := by
  unfold Chip.gauBegin
  refine Keeps.ite ?_ ?_
  · exact Keeps.refl
  · split
    · rename_i z1 z2
      exact Keeps.refl
    · rename_i z3 z4 z5
      extract_lets z6 z7
      have h8 : Keeps 1048580 c z6 := by
        refine Keeps.trans ?_ (Chip.setGau_keeps ..) rfl
        exact Keeps.refl
      clear_value z6
      have h9 : Keeps 1048580 c z7 := by
        refine Keeps.ite ?_ ?_
        · refine Keeps.trans ?_ (Chip.raise_keeps ..) rfl
          exact h8
        · exact h8
      clear_value z7
      refine Keeps.trans ?_ (Chip.gauRegs_keeps ..) rfl
      refine Keeps.trans ?_ (Chip.gauTo_keeps ..) rfl
      exact h9

theorem Chip.measAdd_keeps (c) (a1) : Keeps 1048576 c (Chip.measAdd c a1) := by
  unfold Chip.measAdd
  refine Keeps.trans ?_ (Keeps.each (m := 1048576) _ ?_ _ _) rfl
  · exact Keeps.refl
  · intro z1 z2
    refine Keeps.trans ?_ (Keeps.each (m := 1048576) _ ?_ _ _) rfl
    · exact Keeps.refl
    · intro z3 z4
      extract_lets z5 z6
      refine Keeps.trans ?_ (Chip.setGau_keeps ..) rfl
      exact Keeps.refl

theorem Chip.gauBlock_keeps (c) : Keeps 34603140 c (Chip.gauBlock c) := by
  unfold Chip.gauBlock
  extract_lets z1 z2 z3 z4 z5 z6 z7 z8 z9 z10 z11 z12 z13
  have h14 : Keeps 34603140 c z10 := by
    refine Keeps.trans ?_ (Chip.ladPacket_keeps ..) rfl
    exact Keeps.refl
  clear_value z10
  have h15 : Keeps 34603140 c z11 := by
    refine Keeps.ite ?_ ?_
    · refine Keeps.trans ?_ (Chip.setGau_keeps ..) rfl
      refine Keeps.trans ?_ (Chip.measAdd_keeps ..) rfl
      exact h14
    · refine Keeps.trans ?_ (Chip.raise_keeps ..) rfl
      refine Keeps.trans ?_ (Chip.setGau_keeps ..) rfl
      exact h14
  clear_value z11
  have h16 : Keeps 34603140 c z12 := by
    refine Keeps.trans ?_ (Chip.setGau_keeps ..) rfl
    exact h15
  clear_value z12
  have h17 : Keeps 34603140 c z13 := by
    refine Keeps.ite ?_ ?_
    · refine Keeps.trans ?_ (Chip.raise_keeps ..) rfl
      refine Keeps.trans ?_ (Chip.setFld_keeps ..) rfl
      exact h16
    · exact h16
  clear_value z13
  refine Keeps.ite ?_ ?_
  · exact Keeps.refl
  · refine Keeps.ite ?_ ?_
    · exact h17
    · refine Keeps.trans ?_ (Chip.submit_keeps ..) rfl
      exact h17

theorem Chip.gauFinish_keeps (c) (a1) : Keeps 34603140 c (Chip.gauFinish c a1) := by
  unfold Chip.gauFinish
  refine Keeps.trans ?_ (Chip.gauTo_keeps ..) rfl
  refine Keeps.trans ?_ (Chip.setGau_keeps ..) rfl
  refine Keeps.trans ?_ (Chip.gauBlock_keeps ..) rfl
  exact Keeps.refl

theorem Chip.gauPreRow_keeps (c) : Keeps 1050628 c (Chip.gauPreRow c) := by
  unfold Chip.gauPreRow
  extract_lets z1 z2 z3 z4 z5
  have h6 : Keeps 1050628 c z3 := by
    refine Keeps.trans ?_ (Chip.gauPut_keeps ..) rfl
    exact Keeps.refl
  clear_value z3
  have h7 : Keeps 1050628 c z4 := by
    refine Keeps.trans ?_ (Chip.measAdd_keeps ..) rfl
    exact h6
  clear_value z4
  have h8 : Keeps 1050628 c z5 := by
    refine Keeps.ite ?_ ?_
    · exact Keeps.refl
    · refine Keeps.trans ?_ (Chip.setGau_keeps ..) rfl
      exact h7
  clear_value z5
  refine Keeps.ite ?_ ?_
  · refine Keeps.trans ?_ (Chip.gauTo_keeps ..) rfl
    exact h8
  · exact h8

theorem Chip.gauPostRow_keeps (c) : Keeps 34605188 c (Chip.gauPostRow c) := by
  unfold Chip.gauPostRow
  extract_lets z1 z2 z3 z4 z5 z6 z7
  have h8 : Keeps 34605188 c z2 := by
    refine Keeps.trans ?_ (Chip.setGau_keeps ..) rfl
    exact Keeps.refl
  clear_value z2
  have h9 : Keeps 34605188 c z3 := by
    refine Keeps.trans ?_ (Chip.gauPut_keeps ..) rfl
    exact h8
  clear_value z3
  have h10 : Keeps 34605188 c z6 := by
    refine Keeps.trans ?_ (Chip.setGau_keeps ..) rfl
    exact h8
  clear_value z6
  have h11 : Keeps 34605188 c z7 := by
    refine Keeps.ite ?_ ?_
    · refine Keeps.trans ?_ (Chip.setGau_keeps ..) rfl
      refine Keeps.trans ?_ (Chip.measAdd_keeps ..) rfl
      exact h9
    · refine Keeps.ite ?_ ?_
      · refine Keeps.trans ?_ (Chip.gauBlock_keeps ..) rfl
        exact h10
      · exact h10
  clear_value z7
  refine Keeps.ite ?_ ?_
  · refine Keeps.trans ?_ (Chip.gauFinish_keeps ..) rfl
    exact h11
  · exact h11

theorem Chip.gauPattern_keeps (c) : Keeps 1048576 c (Chip.gauPattern c).1 := by
  unfold Chip.gauPattern
  extract_lets z1 z2 z3 z4 z5 z6 z7
  dsimp only
  refine Keeps.trans ?_ (Chip.setGau_keeps ..) rfl
  exact Keeps.refl

theorem Chip.gauTake_keeps (c) : Keeps 1048580 c (Chip.gauTake c) := by
  unfold Chip.gauTake
  extract_lets z1 z2 z3 z4 z5 z6
  have h7 : Keeps 1048580 c z1.1 := by
    refine Keeps.trans ?_ (Chip.gauPattern_keeps ..) rfl
    exact Keeps.refl
  clear_value z1
  have h8 : Keeps 1048580 c z2 := by
    exact h7
  clear_value z2
  refine Keeps.ite ?_ ?_
  · exact h8
  · refine Keeps.trans ?_ (Chip.raise_keeps ..) rfl
    refine Keeps.trans ?_ (Chip.gauTo_keeps ..) rfl
    refine Keeps.trans ?_ (Chip.setGau_keeps ..) rfl
    exact h8

theorem Chip.gauSample_keeps (c) : Keeps 34605188 c (Chip.gauSample c) := by
  unfold Chip.gauSample
  extract_lets z1 z2 z3 z4 z5
  have h6 : Keeps 34605188 c z3 := by
    refine Keeps.ite ?_ ?_
    · refine Keeps.trans ?_ (Chip.setGau_keeps ..) rfl
      exact Keeps.refl
    · exact Keeps.refl
  clear_value z3
  have h7 : Keeps 34605188 c z4 := by
    refine Keeps.trans ?_ (Chip.setGau_keeps ..) rfl
    exact h6
  clear_value z4
  have h8 : Keeps 34605188 c z5 := by
    refine Keeps.ite ?_ ?_
    · exact h7
    · refine Keeps.trans ?_ (Chip.gauTake_keeps ..) rfl
      exact h7
  clear_value z5
  refine Keeps.ite ?_ ?_
  · refine Keeps.ite ?_ ?_
    · refine Keeps.ite ?_ ?_
      · refine Keeps.trans ?_ (Chip.gauPostRow_keeps ..) rfl
        exact h8
      · refine Keeps.trans ?_ (Chip.gauPreRow_keeps ..) rfl
        exact h8
    · exact h8
  · exact Keeps.refl

theorem Chip.gauFirst_keeps (c) : Keeps 2 c (Chip.gauFirst c).1 := by
  unfold Chip.gauFirst
  extract_lets z1 z2
  have h3 : Keeps 2 c z1.1 := by
    refine Keeps.trans ?_ (Chip.freeWord_keeps ..) rfl
    exact Keeps.refl
  clear_value z1
  have h4 : Keeps 2 c z2.1 := by
    refine Keeps.trans ?_ (Chip.freeWord_keeps ..) rfl
    exact h3
  clear_value z2
  split
  · rename_i z5 z6 z7 z8
    exact Keeps.refl
  · rename_i z9 z10 z11 z12 z13
    exact Keeps.refl
  · rename_i z14 z15 z16 z17
    exact h4

theorem Chip.gauEnd_keeps (c) : Keeps 1050630 c (Chip.gauEnd c) := by
  unfold Chip.gauEnd
  extract_lets z1
  have h2 : Keeps 1050630 c z1.1 := by
    refine Keeps.trans ?_ (Chip.gauFirst_keeps ..) rfl
    exact Keeps.refl
  clear_value z1
  refine Keeps.ite ?_ ?_
  · split
    · rename_i z3 z4
      refine Keeps.trans ?_ (Chip.gauTo_keeps ..) rfl
      exact Keeps.refl
    · rename_i z5 z6 z7
      extract_lets z8 z9 z10 z11 z12 z13
      have h14 : Keeps 1050630 c z8 := by
        refine Keeps.trans ?_ (Chip.gauPut_keeps ..) rfl
        exact h2
      clear_value z8
      have h15 : Keeps 1050630 c z10 := by
        refine Keeps.trans ?_ (Chip.setGau_keeps ..) rfl
        exact h14
      clear_value z10
      have h16 : Keeps 1050630 c z11 := by
        refine Keeps.trans ?_ (Chip.raise_keeps ..) rfl
        exact h15
      clear_value z11
      have h17 : Keeps 1050630 c z13 := by
        refine Keeps.ite ?_ ?_
        · refine Keeps.trans ?_ (Chip.gauTo_keeps ..) rfl
          exact h16
        · refine Keeps.trans ?_ (Chip.gauWait_keeps ..) rfl
          exact h16
      clear_value z13
      refine Keeps.trans ?_ (Chip.gauRegs_keeps ..) rfl
      exact h17
  · exact Keeps.refl

theorem Chip.gauStop_keeps (c) : Keeps 34603140 c (Chip.gauStop c) := by
  unfold Chip.gauStop
  split
  · rename_i z1 z2
    refine Keeps.trans ?_ (Chip.gauTo_keeps ..) rfl
    exact Keeps.refl
  · rename_i z3 z4
    refine Keeps.trans ?_ (Chip.gauRegs_keeps ..) rfl
    refine Keeps.trans ?_ (Chip.gauTo_keeps ..) rfl
    refine Keeps.trans ?_ (Chip.setGau_keeps ..) rfl
    exact Keeps.refl
  · rename_i z5 z6
    refine Keeps.trans ?_ (Chip.gauRegs_keeps ..) rfl
    refine Keeps.trans ?_ (Chip.gauTo_keeps ..) rfl
    refine Keeps.trans ?_ (Chip.setGau_keeps ..) rfl
    exact Keeps.refl
  · rename_i z7 z8
    refine Keeps.trans ?_ (Chip.gauFinish_keeps ..) rfl
    exact Keeps.refl
  · rename_i z9 z10
    refine Keeps.trans ?_ (Chip.setGau_keeps ..) rfl
    exact Keeps.refl
  · rename_i z11 z12 z13 z14 z15 z16
    exact Keeps.refl

theorem Chip.gauRelease_keeps (c) (a1) : Keeps 1048580 c (Chip.gauRelease c a1).1 := by
  unfold Chip.gauRelease
  split
  · rename_i z1 z2 z3 z4
    refine Keeps.ite1 ?_ ?_
    · refine Keeps.trans ?_ (Chip.gauRegs_keeps ..) rfl
      refine Keeps.trans ?_ (Chip.setGau_keeps ..) rfl
      exact Keeps.refl
    · refine Keeps.trans ?_ (Chip.raise_keeps ..) rfl
      exact Keeps.refl
  · rename_i z5 z6
    refine Keeps.trans ?_ (Chip.raise_keeps ..) rfl
    exact Keeps.refl

theorem Chip.gauReset_keeps (c) : Keeps 1048580 c (Chip.gauReset c) := by
  unfold Chip.gauReset
  refine Keeps.trans ?_ (Chip.gauRegs_keeps ..) rfl
  refine Keeps.trans ?_ (Chip.gauTo_keeps ..) rfl
  refine Keeps.trans ?_ (Chip.setGau_keeps ..) rfl
  exact Keeps.refl

theorem Chip.gauCtl_keeps (c) (a1) : Keeps 34603140 c (Chip.gauCtl c a1) := by
  unfold Chip.gauCtl
  extract_lets z1
  have h2 : Keeps 34603140 c z1 := by
    refine Keeps.ite ?_ ?_
    · refine Keeps.trans ?_ (Chip.gauArm_keeps ..) rfl
      exact Keeps.refl
    · exact Keeps.refl
  clear_value z1
  refine Keeps.ite ?_ ?_
  · refine Keeps.trans ?_ (Chip.gauStop_keeps ..) rfl
    exact h2
  · refine Keeps.ite ?_ ?_
    · refine Keeps.trans ?_ (Chip.gauTrigger_keeps ..) rfl
      exact h2
    · exact h2

theorem Chip.gauWrite_keeps (c) (a1) (a2) : KeepsO 34603140 c (Chip.gauWrite c a1 a2) := by
  unfold Chip.gauWrite
  refine KeepsO.ite ?_ ?_
  · refine KeepsO.some ?_
    refine Keeps.trans ?_ (Chip.gauCtl_keeps ..) rfl
    exact Keeps.refl
  · refine KeepsO.ite ?_ ?_
    · refine KeepsO.some ?_
      refine Keeps.trans ?_ (Chip.gauRelease_keeps ..) rfl
      exact Keeps.refl
    · refine KeepsO.ite ?_ ?_
      · refine KeepsO.some ?_
        refine Keeps.ite ?_ ?_
        · refine Keeps.trans ?_ (Chip.writeBits_keeps ..) rfl
          exact Keeps.refl
        · refine Keeps.trans ?_ (Chip.raise_keeps ..) rfl
          exact Keeps.refl
      · exact KeepsO.none

theorem Chip.readPlain_keeps (c) (a1) : Keeps 4 c (Chip.readPlain c a1).1 := by
  unfold Chip.readPlain
  extract_lets z1 z2 z3
  refine Keeps.ite1 ?_ ?_
  · exact Keeps.refl
  · split
    · rename_i z4 z5
      dsimp only
      refine Keeps.trans ?_ (Chip.clearMask_keeps ..) rfl
      exact Keeps.refl
    · rename_i z6 z7 z8
      dsimp only
      refine Keeps.trans ?_ (Chip.setEdge_keeps ..) rfl
      refine Keeps.trans ?_ (Chip.setReg_keeps ..) rfl
      exact Keeps.refl

theorem Chip.readTim_keeps (c) (a1) (a2) : KeepsP 528 c (Chip.readTim c a1 a2) := by
  unfold Chip.readTim
  split
  · rename_i z1 z2 z3
    refine KeepsP.some ?_
    refine Keeps.trans ?_ (Chip.readBase_keeps ..) rfl
    exact Keeps.refl
  · rename_i z4 z5
    refine KeepsP.ite ?_ ?_
    · refine KeepsP.some ?_
      exact Keeps.refl
    · refine KeepsP.ite ?_ ?_
      · refine KeepsP.some ?_
        exact Keeps.refl
      · refine KeepsP.ite ?_ ?_
        · refine KeepsP.some ?_
          exact Keeps.refl
        · refine KeepsP.ite ?_ ?_
          · refine KeepsP.some ?_
            refine Keeps.trans ?_ (Chip.tallyRead_keeps ..) rfl
            exact Keeps.refl
          · refine KeepsP.ite ?_ ?_
            · refine KeepsP.some ?_
              exact Keeps.refl
            · refine KeepsP.ite ?_ ?_
              · refine KeepsP.some ?_
                exact Keeps.refl
              · refine KeepsP.ite ?_ ?_
                · refine KeepsP.some ?_
                  exact Keeps.refl
                · exact KeepsP.none

theorem Chip.readLad_keeps (c) (a1) (a2) : KeepsP 33554448 c (Chip.readLad c a1 a2) := by
  unfold Chip.readLad
  split
  · rename_i z1 z2 z3
    refine KeepsP.ite ?_ ?_
    · refine KeepsP.some ?_
      refine Keeps.trans ?_ (Chip.ladRead_keeps ..) rfl
      exact Keeps.refl
    · refine KeepsP.ite ?_ ?_
      · refine KeepsP.some ?_
        exact Keeps.refl
      · refine KeepsP.some ?_
        exact Keeps.refl
  · rename_i z4 z5
    exact KeepsP.none

theorem Chip.readDepth_keeps (c) (a1) : Keeps 4 c (Chip.readDepth c a1).1 := by
  unfold Chip.readDepth
  extract_lets z1
  have h2 : Keeps 4 c z1.1 := by
    refine Keeps.trans ?_ (Chip.readPlain_keeps ..) rfl
    exact Keeps.refl
  clear_value z1
  split
  · rename_i z3 z4
    exact h2
  · rename_i z5 z6 z7
    extract_lets z8
    dsimp only
    refine Keeps.trans ?_ (Chip.setReg_keeps ..) rfl
    exact h2

theorem Chip.readReg_keeps (c) (a1) (a2) : Keeps 33563156 c (Chip.readReg c a1 a2).1 := by
  unfold Chip.readReg
  refine Keeps.ite1 ?_ ?_
  · refine Keeps.trans ?_ (Chip.rdWinRead_keeps ..) rfl
    exact Keeps.refl
  · refine Keeps.ite1 ?_ ?_
    · exact Keeps.refl
    · refine Keeps.ite1 ?_ ?_
      · exact Keeps.refl
      · refine Keeps.ite1 ?_ ?_
        · exact Keeps.refl
        · refine Keeps.ite1 ?_ ?_
          · exact Keeps.refl
          · refine Keeps.ite1 ?_ ?_
            · exact Keeps.refl
            · split
              · rename_i z1 z2 z3
                refine Keeps.trans ?_ (KeepsP.get z3 (Chip.readTim_keeps ..)) rfl
                exact Keeps.refl
              · rename_i z4 z5
                split
                · rename_i z6 z7 z8
                  refine Keeps.trans ?_ (KeepsP.get z8 (Chip.readLad_keeps ..)) rfl
                  exact Keeps.refl
                · rename_i z9 z10
                  refine Keeps.ite1 ?_ ?_
                  · refine Keeps.trans ?_ (Chip.snapLo_keeps ..) rfl
                    exact Keeps.refl
                  · refine Keeps.ite1 ?_ ?_
                    · exact Keeps.refl
                    · refine Keeps.ite1 ?_ ?_
                      · refine Keeps.trans ?_ (Chip.readDepth_keeps ..) rfl
                        exact Keeps.refl
                      · exact Keeps.refl

theorem Chip.readRegs_keeps (c : Chip) (i : Iface) (off n : Nat) : Keeps 33563156 c (c.readRegs i off n).1 := by
  induction n generalizing c off with
  | zero => unfold Chip.readRegs; exact Keeps.refl
  | succ n ih =>
    unfold Chip.readRegs
    exact Keeps.trans (Chip.readReg_keeps ..) (ih ..) rfl

theorem Chip.fastUpdate_keeps (c) : Keeps 16 c (Chip.fastUpdate c) := by
  unfold Chip.fastUpdate
  extract_lets z1 z2 z3
  refine Keeps.upd_hst ?_ rfl _ rfl rfl rfl rfl
  exact Keeps.refl

theorem Chip.timWrite_keeps (c) (a1) (a2) : KeepsO 37749572 c (Chip.timWrite c a1 a2) := by
  unfold Chip.timWrite
  extract_lets z1 z2 z3 z4
  have h5 : Keeps 37749572 c z1 := by
    refine Keeps.trans ?_ (Chip.raise_keeps ..) rfl
    exact Keeps.refl
  clear_value z1
  have h6 : Keeps 37749572 c z3 := by
    refine Keeps.trans ?_ (Chip.writeBits_keeps ..) rfl
    exact Keeps.refl
  clear_value z3
  refine KeepsO.ite ?_ ?_
  · refine KeepsO.some ?_
    refine Keeps.ite ?_ ?_
    · refine Keeps.trans ?_ (Chip.snapBases_keeps ..) rfl
      exact Keeps.refl
    · exact Keeps.refl
  · refine KeepsO.ite ?_ ?_
    · refine KeepsO.some ?_
      refine Keeps.ite ?_ ?_
      · exact h5
      · refine Keeps.trans ?_ (Chip.tb3Evaluate_keeps ..) rfl
        refine Keeps.upd_tim ?_ rfl _
        exact h6
    · split
      · rename_i z7 z8 z9 z10 z11 z12 z13
        refine KeepsO.some ?_
        refine Keeps.ite ?_ ?_
        · exact h5
        · extract_lets z14
          have h15 : Keeps 37749572 c z14 := by
            refine Keeps.ite ?_ ?_
            · refine Keeps.trans ?_ (Chip.setDomState_keeps ..) rfl
              exact h6
            · refine Keeps.ite ?_ ?_
              · refine Keeps.trans ?_ (Chip.setDomState_keeps ..) rfl
                exact h6
              · exact h6
          clear_value z14
          refine Keeps.trans ?_ (Chip.tb3Evaluate_keeps ..) rfl
          refine Keeps.trans ?_ (Chip.pathRefresh_keeps ..) rfl
          exact h15
      · rename_i z16 z17 z18 z19 z20 z21 z22 z23
        refine KeepsO.some ?_
        refine Keeps.ite ?_ ?_
        · refine Keeps.trans ?_ (Chip.tb3Evaluate_keeps ..) rfl
          refine Keeps.trans ?_ (Chip.pathRefresh_keeps ..) rfl
          refine Keeps.trans ?_ (Chip.writeBits_keeps ..) rfl
          exact Keeps.refl
        · exact h5
      · rename_i z24 z25 z26 z27 z28 z29 z30 z31 z32
        refine KeepsO.some ?_
        refine Keeps.ite ?_ ?_
        · refine Keeps.trans ?_ (Chip.writeBits_keeps ..) rfl
          exact Keeps.refl
        · exact h5
      · rename_i z33 z34 z35 z36 z37 z38 z39 z40 z41 z42
        refine KeepsO.some ?_
        refine Keeps.trans ?_ (Chip.writeUserCfg_keeps ..) rfl
        exact Keeps.refl
      · rename_i z43 z44 z45 z46 z47 z48 z49 z50 z51 z52 z53
        refine KeepsO.some ?_
        refine Keeps.trans ?_ (Chip.writeUserOfs_keeps ..) rfl
        exact Keeps.refl
      · rename_i z54 z55 z56 z57 z58 z59 z60 z61 z62 z63
        exact KeepsO.none

theorem Chip.hstWrite_keeps (c) (a1) (a2) : KeepsO 103121180 c (Chip.hstWrite c a1 a2) := by
  unfold Chip.hstWrite
  refine KeepsO.ite ?_ ?_
  · refine KeepsO.some ?_
    refine Keeps.trans ?_ (Chip.ringEnable_keeps ..) rfl
    exact Keeps.refl
  · refine KeepsO.ite ?_ ?_
    · refine KeepsO.some ?_
      refine Keeps.trans ?_ (Chip.doorbell_keeps ..) rfl
      exact Keeps.refl
    · refine KeepsO.ite ?_ ?_
      · refine KeepsO.some ?_
        refine Keeps.trans ?_ (Chip.cqHead_keeps ..) rfl
        exact Keeps.refl
      · refine KeepsO.ite ?_ ?_
        · refine KeepsO.some ?_
          refine Keeps.trans ?_ (Chip.vecRearm_keeps ..) rfl
          exact Keeps.refl
        · refine KeepsO.ite ?_ ?_
          · refine KeepsO.some ?_
            refine Keeps.trans ?_ (Chip.mdioWrite_keeps ..) rfl
            exact Keeps.refl
          · refine KeepsO.ite ?_ ?_
            · refine KeepsO.some ?_
              refine Keeps.ite ?_ ?_
              · refine Keeps.trans ?_ (Chip.writeBits_keeps ..) rfl
                exact Keeps.refl
              · refine Keeps.trans ?_ (Chip.raise_keeps ..) rfl
                exact Keeps.refl
            · exact KeepsO.none

theorem Chip.lkpRegWrite_keeps (c) (a1) (a2) : Keeps 4 c (Chip.lkpRegWrite c a1 a2) := by
  unfold Chip.lkpRegWrite
  split
  · rename_i z1 z2 z3
    refine Keeps.trans ?_ (Chip.writeBits_keeps ..) rfl
    exact Keeps.refl
  · rename_i z4 z5
    refine Keeps.trans ?_ (Chip.raise_keeps ..) rfl
    exact Keeps.refl

theorem Chip.ladWrite_keeps (c) (a1) (a2) : KeepsO 33554436 c (Chip.ladWrite c a1 a2) := by
  unfold Chip.ladWrite
  extract_lets z1
  have h2 : Keeps 33554436 c z1 := by
    refine Keeps.trans ?_ (Chip.writeBits_keeps ..) rfl
    exact Keeps.refl
  clear_value z1
  split
  · rename_i z3 z4 z5
    refine KeepsO.some ?_
    refine Keeps.ite ?_ ?_
    · refine Keeps.trans ?_ (Chip.ladFlush_keeps ..) rfl
      exact h2
    · exact h2
  · rename_i z6 z7
    exact KeepsO.none

theorem Chip.sysWrite_keeps (c) (a1) (a2) : KeepsO 4194564 c (Chip.sysWrite c a1 a2) := by
  unfold Chip.sysWrite
  refine KeepsO.ite ?_ ?_
  · refine KeepsO.some ?_
    refine Keeps.trans ?_ (Chip.poundCfgWrite_keeps ..) rfl
    exact Keeps.refl
  · refine KeepsO.ite ?_ ?_
    · refine KeepsO.some ?_
      refine Keeps.trans ?_ (Chip.poundOffsetWrite_keeps ..) rfl
      exact Keeps.refl
    · refine KeepsO.map ?_
      intro z1
      refine Keeps.trans ?_ (Chip.cmarkWrite_keeps ..) rfl
      exact Keeps.refl

theorem Chip.ownerWrite_keeps (c) (a1) (a2) (a3) : KeepsO 108496860 c (Chip.ownerWrite c a1 a2 a3) := by
  unfold Chip.ownerWrite
  refine KeepsO.ite ?_ ?_
  · refine KeepsO.trans ?_ (Chip.hstWrite_keeps ..) rfl
    exact Keeps.refl
  · refine KeepsO.ite ?_ ?_
    · refine KeepsO.trans ?_ (Chip.sysWrite_keeps ..) rfl
      exact Keeps.refl
    · refine KeepsO.ite ?_ ?_
      · refine KeepsO.trans ?_ (Chip.timWrite_keeps ..) rfl
        exact Keeps.refl
      · refine KeepsO.ite ?_ ?_
        · refine KeepsO.trans ?_ (Chip.lckWrite_keeps ..) rfl
          exact Keeps.refl
        · refine KeepsO.ite ?_ ?_
          · refine KeepsO.ite ?_ ?_
            · refine KeepsO.some ?_
              refine Keeps.trans ?_ (Chip.rdSelWrite_keeps ..) rfl
              exact Keeps.refl
            · refine KeepsO.trans ?_ (Chip.bsnWrite_keeps ..) rfl
              exact Keeps.refl
          · refine KeepsO.ite ?_ ?_
            · split
              · rename_i z1 z2 z3
                refine KeepsO.some ?_
                refine Keeps.trans ?_ (KeepsO.get z3 (Chip.chnWrite_keeps ..)) rfl
                exact Keeps.refl
              · rename_i z4 z5
                refine KeepsO.trans ?_ (Chip.posWrite_keeps ..) rfl
                exact Keeps.refl
            · refine KeepsO.ite ?_ ?_
              · refine KeepsO.trans ?_ (Chip.towWrite_keeps ..) rfl
                exact Keeps.refl
              · refine KeepsO.ite ?_ ?_
                · exact KeepsO.none
                · refine KeepsO.ite ?_ ?_
                  · refine KeepsO.trans ?_ (Chip.capCfgWrite_keeps ..) rfl
                    exact Keeps.refl
                  · refine KeepsO.ite ?_ ?_
                    · refine KeepsO.trans ?_ (Chip.adcWrite_keeps ..) rfl
                      exact Keeps.refl
                    · refine KeepsO.ite ?_ ?_
                      · refine KeepsO.trans ?_ (Chip.gauWrite_keeps ..) rfl
                        exact Keeps.refl
                      · refine KeepsO.ite ?_ ?_
                        · refine KeepsO.some ?_
                          refine Keeps.trans ?_ (Chip.lkpRegWrite_keeps ..) rfl
                          exact Keeps.refl
                        · refine KeepsO.ite ?_ ?_
                          · refine KeepsO.trans ?_ (Chip.aquWrite_keeps ..) rfl
                            exact Keeps.refl
                          · refine KeepsO.trans ?_ (Chip.logWr_keeps ..) rfl
                            exact Keeps.refl

theorem Chip.msixWrite_keeps (c) (a1) (a2) : Keeps 16 c (Chip.msixWrite c a1 a2) := by
  unfold Chip.msixWrite
  extract_lets z1 z2
  refine Keeps.upd_hst ?_ rfl _ rfl rfl rfl rfl
  exact Keeps.refl

theorem Chip.sqWrite_keeps (c) (a1) (a2) : Keeps 16 c (Chip.sqWrite c a1 a2) := by
  unfold Chip.sqWrite
  extract_lets z1 z2 z3 z4 z5
  refine Keeps.trans ?_ (Chip.setRing_keeps ..) rfl
  refine Keeps.upd_hst ?_ rfl _ rfl rfl rfl rfl
  exact Keeps.refl

theorem Chip.writeReg_keeps (c) (a1) (a2) (a3) : Keeps 108496860 c (Chip.writeReg c a1 a2 a3) := by
  unfold Chip.writeReg
  refine Keeps.ite ?_ ?_
  · refine Keeps.trans ?_ (Chip.sqWrite_keeps ..) rfl
    exact Keeps.refl
  · refine Keeps.ite ?_ ?_
    · exact Keeps.refl
    · refine Keeps.ite ?_ ?_
      · refine Keeps.trans ?_ (Chip.msixWrite_keeps ..) rfl
        exact Keeps.refl
      · refine Keeps.ite ?_ ?_
        · exact Keeps.refl
        · split
          · rename_i z1 z2 z3
            refine Keeps.trans ?_ (KeepsO.get z3 (Chip.ladWrite_keeps ..)) rfl
            exact Keeps.refl
          · rename_i z4 z5
            split
            · rename_i z6 z7 z8
              refine Keeps.trans ?_ (KeepsO.get z8 (Chip.ownerWrite_keeps ..)) rfl
              exact Keeps.refl
            · rename_i z9 z10
              refine Keeps.trans ?_ (Chip.writeBits_keeps ..) rfl
              exact Keeps.refl

theorem Chip.writeRegs_keeps (c : Chip) (i : Iface) (off : Nat) (vs : List Word) : Keeps 108496860 c (c.writeRegs i off vs) := by
  induction vs generalizing c off with
  | nil => unfold Chip.writeRegs; exact Keeps.refl
  | cons v t ih =>
    unfold Chip.writeRegs
    exact Keeps.trans (Chip.writeReg_keeps ..) (ih ..) rfl

theorem Chip.accErr_keeps (c) : Keeps 4 c (Chip.accErr c) := by
  unfold Chip.accErr
  refine Keeps.trans ?_ (Chip.hstErr_keeps ..) rfl
  exact Keeps.refl

theorem Chip.regRead_keeps (c) (a1) : Keeps 33563156 c (Chip.regRead c a1).1 := by
  unfold Chip.regRead
  extract_lets z1 z2 z3
  have h4 : Keeps 33563156 c z3.1 := by
    refine Keeps.trans ?_ (Chip.readRegs_keeps ..) rfl
    exact Keeps.refl
  clear_value z3
  refine Keeps.ite1 ?_ ?_
  · exact Keeps.refl
  · refine Keeps.ite1 ?_ ?_
    · exact Keeps.refl
    · exact h4

theorem Chip.regReadRom_keeps (c) (a1) : Keeps 33563156 c (Chip.regReadRom c a1).1 := by
  unfold Chip.regReadRom
  refine Keeps.ite1 ?_ ?_
  · refine Keeps.trans ?_ (Chip.regRead_keeps ..) rfl
    exact Keeps.refl
  · exact Keeps.refl

theorem Chip.regWrite_keeps (c) (a1) : Keeps 108496860 c (Chip.regWrite c a1).1 := by
  unfold Chip.regWrite
  extract_lets z1 z2
  refine Keeps.ite1 ?_ ?_
  · exact Keeps.refl
  · refine Keeps.ite1 ?_ ?_
    · exact Keeps.refl
    · dsimp only
      refine Keeps.trans ?_ (Chip.writeRegs_keeps ..) rfl
      exact Keeps.refl

theorem Chip.budgetSet_keeps (c) (a1) : Keeps 4 c (Chip.budgetSet c a1).1 := by
  unfold Chip.budgetSet
  extract_lets z1 z2 z3
  refine Keeps.ite1 ?_ ?_
  · exact Keeps.refl
  · refine Keeps.ite1 ?_ ?_
    · exact Keeps.refl
    · refine Keeps.trans ?_ (Chip.writeBits_keeps ..) rfl
      refine Keeps.trans ?_ (Chip.writeBits_keeps ..) rfl
      exact Keeps.refl

theorem Chip.lkpStats_keeps (c) (a1) : Keeps 0 c (Chip.lkpStats c a1).1 := by
  unfold Chip.lkpStats
  extract_lets z1
  exact Keeps.refl

theorem Chip.bar2Ue_keeps (c) (a1) : Keeps 68 c (Chip.bar2Ue c a1) := by
  unfold Chip.bar2Ue
  extract_lets z1 z2
  have h3 : Keeps 68 c z2 := by
    refine Keeps.trans ?_ (Chip.raise_keeps ..) rfl
    refine Keeps.trans ?_ (Keeps.each (m := 68) _ ?_ _ _) rfl
    · exact Keeps.refl
    · intro z4 z5
      refine Keeps.trans ?_ (Chip.count_keeps ..) rfl
      exact Keeps.refl
  clear_value z2
  refine Keeps.trans ?_ (Chip.logTrigger_keeps ..) rfl
  refine Keeps.trans ?_ (Chip.logEvent_keeps ..) rfl
  exact h3

theorem Chip.bar2_keeps (c) (a1) (a2) (a3) (a4) : Keeps 76 c (Chip.bar2 c a1 a2 a3 a4) := by
  unfold Chip.bar2
  refine Keeps.ite ?_ ?_
  · refine Keeps.trans ?_ (Chip.accErr_keeps ..) rfl
    exact Keeps.refl
  · refine Keeps.trans ?_ (Keeps.each (m := 76) _ ?_ _ _) rfl
    · exact Keeps.refl
    · intro z1 z2
      extract_lets z3
      refine Keeps.ite ?_ ?_
      · refine Keeps.trans ?_ (Chip.emit_keeps ..) rfl
        refine Keeps.trans ?_ (Chip.bar2Ue_keeps ..) rfl
        exact Keeps.refl
      · refine Keeps.trans ?_ (Chip.emit_keeps ..) rfl
        exact Keeps.refl

theorem Chip.ssmCapsule_keeps (c) (a1) (a2) (a3) (a4) (a5) : Keeps 524288 a4.1 (Chip.ssmCapsule c a1 a2 a3 a4 a5).1 := by
  unfold Chip.ssmCapsule
  dsimp only
  refine Keeps.trans ?_ (Chip.setWeir_keeps ..) rfl
  exact Keeps.refl

theorem Chip.ssmFind_keeps (c) (a1) : Keeps 524288 c (Chip.ssmFind c a1).1 := by
  unfold Chip.ssmFind
  refine Keeps.trans ?_ (Keeps.foldl1 (m := 524288) _ ?_ _ _) rfl
  · exact Keeps.refl
  · intro r a
    extract_lets fs r'
    refine Keeps.trans ?_ (Keeps.foldl1 (m := 524288) _ (fun q i => Chip.ssmCapsule_keeps ..) _ _) rfl
    exact Keeps.refl

theorem Chip.ssmHint_keeps (c) (a1) (a2) : Keeps 6 c (Chip.ssmHint c a1 a2) := by
  unfold Chip.ssmHint
  extract_lets z1 z2
  clear_value z2
  split
  · rename_i z3 z4 z5 z6
    refine Keeps.trans ?_ (Chip.setFld_keeps ..) rfl
    exact Keeps.refl
  · rename_i z7 z8 z9 z10
    refine Keeps.trans ?_ (Chip.setFld_keeps ..) rfl
    refine Keeps.trans ?_ (Chip.freeWord_keeps ..) rfl
    exact Keeps.refl

theorem Chip.ssmMin_keeps (c) (a1) : Keeps 6 c (Chip.ssmMin c a1) := by
  unfold Chip.ssmMin
  refine Keeps.ite ?_ ?_
  · extract_lets z1 z2
    have h3 : Keeps 6 c z1.1 := by
      refine Keeps.trans ?_ (Chip.freeWord_keeps ..) rfl
      exact Keeps.refl
    clear_value z1
    have h4 : Keeps 6 c z2.1 := by
      refine Keeps.trans ?_ (Chip.freeWord_keeps ..) rfl
      exact h3
    clear_value z2
    refine Keeps.trans ?_ (Chip.setReg_keeps ..) rfl
    refine Keeps.trans ?_ (Chip.setReg_keeps ..) rfl
    exact h4
  · split
    · rename_i z5 z6 z7
      refine Keeps.trans ?_ (Chip.setReg_keeps ..) rfl
      refine Keeps.trans ?_ (Chip.setReg_keeps ..) rfl
      exact Keeps.refl
    · rename_i z8 z9
      refine Keeps.trans ?_ (Chip.setReg_keeps ..) rfl
      refine Keeps.trans ?_ (Chip.setReg_keeps ..) rfl
      exact Keeps.refl

theorem Chip.ssmEvaluate_keeps (c) : Keeps 655710 c (Chip.ssmEvaluate c) := by
  unfold Chip.ssmEvaluate
  extract_lets z1 z2 z3 z4 z5 z6 z7 z8 z9 z10 z11
  have h12 : Keeps 655710 c z2.1 := by
    refine Keeps.trans ?_ (Chip.ssmFind_keeps ..) rfl
    exact Keeps.refl
  clear_value z2
  have h13 : Keeps 655710 c z3 := by
    exact h12
  clear_value z3
  have h14 : Keeps 655710 c z9 := by
    refine Keeps.trans ?_ (Chip.setReg_keeps ..) rfl
    exact h13
  clear_value z9
  have h15 : Keeps 655710 c z10 := by
    refine Keeps.trans ?_ (Keeps.each (m := 655710) _ ?_ _ _) rfl
    · refine Keeps.trans ?_ (Chip.ssmMin_keeps ..) rfl
      exact h14
    · intro z16 z17
      refine Keeps.trans ?_ (Chip.ssmHint_keeps ..) rfl
      exact Keeps.refl
  clear_value z10
  refine Keeps.trans ?_ (Chip.weirFollow_keeps ..) rfl
  exact h15

theorem Chip.ssm_keeps (c) : Keeps 655710 c (Chip.ssm c) := by
  unfold Chip.ssm
  refine Keeps.ite ?_ ?_
  · refine Keeps.trans ?_ (Chip.ssmEvaluate_keeps ..) rfl
    exact Keeps.refl
  · exact Keeps.refl

theorem Chip.putEl_keeps (c) (a1) (a2) (a3) (a4) : Keeps 67584 c (Chip.putEl c a1 a2 a3 a4) := by
  unfold Chip.putEl
  extract_lets z1 z2 z3
  have h4 : Keeps 67584 c z3 := by
    refine Keeps.trans ?_ (Chip.setCoreHalf_keeps ..) rfl
    exact Keeps.refl
  clear_value z3
  refine Keeps.ite ?_ ?_
  · refine Keeps.trans ?_ (Chip.setCoreHalf_keeps ..) rfl
    exact h4
  · exact h4

theorem Chip.kFir_keeps (c) (a1) (a2) (a3) : Keeps 67584 c (Chip.kFir c a1 a2 a3).1 := by
  unfold Chip.kFir
  extract_lets z1
  refine Keeps.trans ?_ (outputs_keeps (m := 67584) _ _ _ ?_) rfl
  · exact Keeps.refl
  · intro z2 z3
    extract_lets z4 z5
    dsimp only
    refine Keeps.trans ?_ (Chip.putEl_keeps ..) rfl
    exact Keeps.refl

theorem Chip.kBiquad_keeps (c) (a1) (a2) : Keeps 67584 c (Chip.kBiquad c a1 a2).1 := by
  unfold Chip.kBiquad
  extract_lets z1 z2 z3 z4
  refine Keeps.trans ?_ (outputs_keeps (m := 67584) _ _ _ ?_) rfl
  · exact Keeps.refl
  · intro z5 z6
    extract_lets z7 z8
    have h9 : Keeps 67584 z5 z8.1 := by
      refine Keeps.trans ?_ (Keeps.foldl1 (m := 67584) _ ?_ _ _) rfl
      · exact Keeps.refl
      · intro z10 z11
        extract_lets z12 z13 z14 z15 z16 z17 z18 z19 z20 z21 z22 z23
        have h24 : Keeps 67584 z10.fst z12 := by
          exact Keeps.refl
        clear_value z12
        dsimp only
        refine Keeps.trans ?_ (Chip.setCoreHalf_keeps ..) rfl
        refine Keeps.trans ?_ (Chip.setCoreHalf_keeps ..) rfl
        refine Keeps.trans ?_ (Chip.setCoreHalf_keeps ..) rfl
        refine Keeps.trans ?_ (Chip.setCoreHalf_keeps ..) rfl
        exact h24
    clear_value z8
    dsimp only
    refine Keeps.trans ?_ (Chip.putEl_keeps ..) rfl
    exact h9

theorem Chip.butterfly_keeps (a0) (a1) (a2) (a3) (a4) (a5) (a6) (a7) (a8) (c) : Keeps 67584 c (Chip.butterfly a0 a1 a2 a3 a4 a5 a6 a7 a8 c).1 := by
  unfold Chip.butterfly
  extract_lets z1 z2 z3
  refine Keeps.trans ?_ (Keeps.foldl1 (m := 67584) _ ?_ _ _) rfl
  · exact Keeps.refl
  · intro z4 z5
    refine Keeps.trans ?_ (Chip.putEl_keeps ..) rfl
    exact Keeps.refl

theorem Chip.kFft_keeps (c : Chip) (core : Nat) (g : Stage) : Keeps 67584 c (c.kFft core g).1 := by
  unfold Chip.kFft
  refine Keeps.foldlOn (fun (r : Work2 × Nat) => r.1.1) _ (fun r x => ?_) _ ((c, 0), 1)
  refine Keeps.foldlOn (fun (r : Work2) => r.1) _ (fun r y => ?_) _ r.1
  refine Keeps.foldlOn (fun (r : Work2) => r.1) _ (fun r z => ?_) _ r
  exact Chip.butterfly_keeps ..

theorem Chip.kNco_keeps (c) (a1) (a2) (a3) : Keeps 67584 c (Chip.kNco c a1 a2 a3).1 := by
  unfold Chip.kNco
  extract_lets z1 z2 z3 z4 z5
  have h6 : Keeps 67584 c z2.1 := by
    refine Keeps.trans ?_ (outputs_keeps (m := 67584) _ _ _ ?_) rfl
    · exact Keeps.refl
    · intro z7 z8
      extract_lets z9 z10 z11
      refine Keeps.ite1 ?_ ?_
      · dsimp only
        refine Keeps.trans ?_ (Chip.putEl_keeps ..) rfl
        exact Keeps.refl
      · dsimp only
        refine Keeps.trans ?_ (Chip.putEl_keeps ..) rfl
        exact Keeps.refl
  have h12 : Keeps 67584 c z4 := by
    exact h6
  dsimp only
  refine Keeps.upd_mem ?_ rfl _ (Mems.wf_slu _ _ (memWriteWords_wf _ _ _ _))
  exact h6

theorem Chip.kGoertzel_keeps (c) (a1) (a2) : Keeps 67584 c (Chip.kGoertzel c a1 a2).1 := by
  unfold Chip.kGoertzel
  refine Keeps.trans ?_ (outputs_keeps (m := 67584) _ _ _ ?_) rfl
  · exact Keeps.refl
  · intro z1 z2
    extract_lets z3 z4 z5 z6
    dsimp only
    refine Keeps.trans ?_ (Chip.putEl_keeps ..) rfl
    exact Keeps.refl

theorem Chip.kXcorr_keeps (c) (a1) (a2) : Keeps 67584 c (Chip.kXcorr c a1 a2).1 := by
  unfold Chip.kXcorr
  refine Keeps.trans ?_ (outputs_keeps (m := 67584) _ _ _ ?_) rfl
  · exact Keeps.refl
  · intro z1 z2
    extract_lets z3 z4
    dsimp only
    refine Keeps.trans ?_ (Chip.putEl_keeps ..) rfl
    exact Keeps.refl

theorem Chip.kMagph_keeps (c) (a1) (a2) : Keeps 67584 c (Chip.kMagph c a1 a2).1 := by
  unfold Chip.kMagph
  extract_lets z1
  refine Keeps.trans ?_ (outputs_keeps (m := 67584) _ _ _ ?_) rfl
  · exact Keeps.refl
  · intro z2 z3
    extract_lets z4 z5 z6 z7 z8 z9 z10
    refine Keeps.ite1 ?_ ?_
    · dsimp only
      refine Keeps.trans ?_ (Chip.putEl_keeps ..) rfl
      exact Keeps.refl
    · dsimp only
      refine Keeps.trans ?_ (Chip.putEl_keeps ..) rfl
      exact Keeps.refl

theorem Chip.kVec_keeps (c) (a1) (a2) : Keeps 67584 c (Chip.kVec c a1 a2).1 := by
  unfold Chip.kVec
  extract_lets z1 z2 z3 z4 z5
  split
  · rename_i z6 z7
    refine Keeps.trans ?_ (outputs_keeps (m := 67584) _ _ _ ?_) rfl
    · exact Keeps.refl
    · intro z8 z9
      dsimp only
      refine Keeps.trans ?_ (Chip.putEl_keeps ..) rfl
      exact Keeps.refl
  · rename_i z10 z11
    refine Keeps.trans ?_ (outputs_keeps (m := 67584) _ _ _ ?_) rfl
    · exact Keeps.refl
    · intro z12 z13
      dsimp only
      refine Keeps.trans ?_ (Chip.putEl_keeps ..) rfl
      exact Keeps.refl
  · rename_i z14 z15
    refine Keeps.trans ?_ (outputs_keeps (m := 67584) _ _ _ ?_) rfl
    · exact Keeps.refl
    · intro z16 z17
      dsimp only
      refine Keeps.trans ?_ (Chip.putEl_keeps ..) rfl
      exact Keeps.refl
  · rename_i z18 z19
    refine Keeps.trans ?_ (outputs_keeps (m := 67584) _ _ _ ?_) rfl
    · exact Keeps.refl
    · intro z20 z21
      dsimp only
      refine Keeps.trans ?_ (Chip.putEl_keeps ..) rfl
      exact Keeps.refl
  · rename_i z22 z23
    dsimp only
    refine Keeps.trans ?_ (Chip.putEl_keeps ..) rfl
    exact Keeps.refl
  · rename_i z24 z25
    dsimp only
    refine Keeps.trans ?_ (Chip.putEl_keeps ..) rfl
    refine Keeps.trans ?_ (Chip.putEl_keeps ..) rfl
    exact Keeps.refl
  · rename_i z26 z27 z28 z29 z30 z31 z32
    refine Keeps.trans ?_ (outputs_keeps (m := 67584) _ _ _ ?_) rfl
    · exact Keeps.refl
    · intro z33 z34
      dsimp only
      refine Keeps.trans ?_ (Chip.putEl_keeps ..) rfl
      exact Keeps.refl

theorem Chip.runStage_keeps (c) (a1) (a2) (a3) (a4) : Keeps 67584 c (Chip.runStage c a1 a2 a3 a4).1 := by
  unfold Chip.runStage
  extract_lets z1
  split
  · rename_i z2 z3
    refine Keeps.trans ?_ (Chip.kFir_keeps ..) rfl
    exact Keeps.refl
  · rename_i z4 z5
    refine Keeps.trans ?_ (Chip.kBiquad_keeps ..) rfl
    exact Keeps.refl
  · rename_i z6 z7
    refine Keeps.trans ?_ (Chip.kFft_keeps ..) rfl
    exact Keeps.refl
  · rename_i z8 z9
    refine Keeps.trans ?_ (Chip.kNco_keeps ..) rfl
    exact Keeps.refl
  · rename_i z10 z11
    refine Keeps.trans ?_ (Chip.kGoertzel_keeps ..) rfl
    exact Keeps.refl
  · rename_i z12 z13
    refine Keeps.trans ?_ (Chip.kXcorr_keeps ..) rfl
    exact Keeps.refl
  · rename_i z14 z15
    refine Keeps.trans ?_ (Chip.kFir_keeps ..) rfl
    exact Keeps.refl
  · rename_i z16 z17
    refine Keeps.trans ?_ (Chip.kVec_keeps ..) rfl
    exact Keeps.refl
  · rename_i z18 z19
    refine Keeps.trans ?_ (Chip.kMagph_keeps ..) rfl
    exact Keeps.refl
  · rename_i z20 z21 z22 z23 z24 z25 z26 z27 z28 z29
    exact Keeps.refl

theorem Chip.sinkFifo_keeps (c) (a1) (a2) (a3) (a4) : Keeps 33554436 c (Chip.sinkFifo c a1 a2 a3 a4) := by
  unfold Chip.sinkFifo
  extract_lets z1 z2 z3 z4
  refine Keeps.trans ?_ (Chip.ladPacket_keeps ..) rfl
  exact Keeps.refl

theorem Chip.sinkGauge_keeps (c) (a1) (a2) (a3) : Keeps 4 c (Chip.sinkGauge c a1 a2 a3) := by
  unfold Chip.sinkGauge
  extract_lets z1
  refine Keeps.trans ?_ (Keeps.each (m := 4) _ ?_ _ _) rfl
  · exact Keeps.refl
  · intro z2 z3
    refine Keeps.trans ?_ (Chip.setFld_keeps ..) rfl
    exact Keeps.refl

theorem Chip.sinkPick_keeps (c) (a1) (a2) (a3) : Keeps 33569222 c (Chip.sinkPick c a1 a2 a3).1 := by
  unfold Chip.sinkPick
  extract_lets z1 z2 z3 z4 z5 z6
  refine Keeps.ite1 ?_ ?_
  · exact Keeps.refl
  · split
    · rename_i z7 z8
      exact Keeps.refl
    · rename_i z9 z10 z11
      extract_lets z12
      refine Keeps.ite1 ?_ ?_
      · refine Keeps.trans ?_ (Chip.raise_keeps ..) rfl
        refine Keeps.trans ?_ (Chip.count_keeps ..) rfl
        exact Keeps.refl
      · refine Keeps.trans ?_ (Chip.requestBank_keeps ..) rfl
        exact Keeps.refl

theorem Chip.chainEnd_keeps (c) (a1) (a2) (a3) : Keeps 33634758 c (Chip.chainEnd c a1 a2 a3) := by
  unfold Chip.chainEnd
  extract_lets z1 z2 z3 z4 z5 z6 z7 z8 z9 z10 z11
  have h12 : Keeps 33634758 c z3 := by
    refine Keeps.trans ?_ (Chip.unlist_keeps ..) rfl
    refine Keeps.trans ?_ (Chip.workDone_keeps ..) rfl
    refine Keeps.trans ?_ (Chip.dropRun_keeps ..) rfl
    exact Keeps.refl
  clear_value z3
  have h13 : Keeps 33634758 c z4 := by
    refine Keeps.ite ?_ ?_
    · refine Keeps.trans ?_ (Chip.sinkFifo_keeps ..) rfl
      exact h12
    · exact h12
  clear_value z4
  have h14 : Keeps 33634758 c z5 := by
    refine Keeps.ite ?_ ?_
    · refine Keeps.trans ?_ (Chip.sinkGauge_keeps ..) rfl
      exact h13
    · exact h13
  clear_value z5
  have h15 : Keeps 33634758 c z6.1 := by
    refine Keeps.ite1 ?_ ?_
    · refine Keeps.trans ?_ (Chip.sinkPick_keeps ..) rfl
      exact h14
    · exact h14
  clear_value z6
  have h16 : Keeps 33634758 c z8 := by
    refine Keeps.trans ?_ (Chip.raise_keeps ..) rfl
    refine Keeps.trans ?_ (Chip.setReg_keeps ..) rfl
    exact h15
  clear_value z8
  have h17 : Keeps 33634758 c z9 := by
    refine Keeps.ite ?_ ?_
    · refine Keeps.trans ?_ (Chip.raise_keeps ..) rfl
      exact h16
    · exact h16
  clear_value z9
  have h18 : Keeps 33634758 c z10 := by
    refine Keeps.ite ?_ ?_
    · refine Keeps.trans ?_ (Chip.raise_keeps ..) rfl
      exact h17
    · exact h17
  clear_value z10
  refine Keeps.ite ?_ ?_
  · refine Keeps.trans ?_ (Chip.hostEvent_keeps ..) rfl
    exact h18
  · exact h18

theorem Chip.abandonStage_keeps (c) (a1) (a2) (a3) (a4) : Keeps 67586 c (Chip.abandonStage c a1 a2 a3 a4) := by
  unfold Chip.abandonStage
  extract_lets z1 z2 z3 z4
  have h5 : Keeps 67586 c z4 := by
    refine Keeps.trans ?_ (Keeps.each (m := 67586) _ ?_ _ _) rfl
    · exact Keeps.refl
    · intro z6 z7
      extract_lets z8 z9
      have h10 : Keeps 67586 z6 z9 := by
        refine Keeps.trans ?_ (Chip.setCoreHalf_keeps ..) rfl
        refine Keeps.trans ?_ (Chip.freeWord_keeps ..) rfl
        exact Keeps.refl
      clear_value z9
      refine Keeps.ite ?_ ?_
      · refine Keeps.trans ?_ (Chip.setCoreHalf_keeps ..) rfl
        refine Keeps.trans ?_ (Chip.freeWord_keeps ..) rfl
        exact h10
      · exact h10
  clear_value z4
  refine Keeps.ite ?_ ?_
  · refine Keeps.trans ?_ (Keeps.each (m := 67586) _ ?_ _ _) rfl
    · exact h5
    · intro z11 z12
      refine Keeps.trans ?_ (Chip.setCoreHalf_keeps ..) rfl
      refine Keeps.trans ?_ (Chip.freeWord_keeps ..) rfl
      exact Keeps.refl
  · exact h5

theorem Chip.chainStop_keeps (c) (a1) (a2) : Keeps 33634758 c (Chip.chainStop c a1 a2) := by
  unfold Chip.chainStop
  split
  · rename_i z1 z2
    exact Keeps.refl
  · rename_i z3 z4 z5
    extract_lets z6
    have h7 : Keeps 33634758 c z6 := by
      refine Keeps.ite ?_ ?_
      · refine Keeps.trans ?_ (Chip.abandonStage_keeps ..) rfl
        exact Keeps.refl
      · exact Keeps.refl
    clear_value z6
    refine Keeps.trans ?_ (Chip.chainEnd_keeps ..) rfl
    exact h7

theorem Chip.stageEnd_keeps (c) (a1) (a2) (a3) : Keeps 33634758 c (Chip.stageEnd c a1 a2 a3) := by
  unfold Chip.stageEnd
  split
  · rename_i z1 z2
    exact Keeps.refl
  · rename_i z3 z4 z5
    extract_lets z6 z7 z8 z9 z10 z11 z12 z13
    have h14 : Keeps 33634758 c z8 := by
      refine Keeps.trans ?_ (Keeps.onlyIf (m := 33634758) _ ?_ _ _) rfl
      · exact Keeps.refl
      · intro z15
        refine Keeps.trans ?_ (Chip.raise_keeps ..) rfl
        refine Keeps.trans ?_ (Chip.count_keeps ..) rfl
        exact Keeps.refl
    clear_value z8
    have h16 : Keeps 33634758 c z9 := by
      refine Keeps.trans ?_ (Chip.raise_keeps ..) rfl
      refine Keeps.trans ?_ (Chip.count_keeps ..) rfl
      exact h14
    clear_value z9
    have h17 : Keeps 33634758 c z10 := by
      refine Keeps.trans ?_ (Chip.logTrigger_keeps ..) rfl
      refine Keeps.trans ?_ (Chip.logEvent_keeps ..) rfl
      refine Keeps.trans ?_ (Chip.freeWord_keeps ..) rfl
      exact h16
    clear_value z10
    have h18 : Keeps 33634758 c z11.1 := by
      refine Keeps.trans ?_ (Chip.runStage_keeps ..) rfl
      exact h14
    clear_value z11
    refine Keeps.ite ?_ ?_
    · refine Keeps.trans ?_ (Chip.chainStop_keeps ..) rfl
      exact h17
    · refine Keeps.ite ?_ ?_
      · refine Keeps.trans ?_ (Chip.setFld_keeps ..) rfl
        refine Keeps.trans ?_ (Chip.setRun_keeps ..) rfl
        exact h18
      · refine Keeps.trans ?_ (Chip.chainEnd_keeps ..) rfl
        exact h18

theorem Chip.chainDeadline_keeps (c) (a1) : Keeps 33634759 c (Chip.chainDeadline c a1) := by
  unfold Chip.chainDeadline
  split
  · rename_i z1 z2
    exact Keeps.refl
  · rename_i z3 z4 z5
    split
    · rename_i z6 z7
      exact Keeps.refl
    · rename_i z8 z9 z10
      refine Keeps.trans ?_ (Chip.chainStop_keeps ..) rfl
      refine Keeps.trans ?_ (Chip.at_keeps ..) rfl
      exact Keeps.refl

theorem Chip.chainStart_keeps (c) (a1) : Keeps 65540 c (Chip.chainStart c a1) := by
  unfold Chip.chainStart
  split
  · rename_i z1 z2
    exact Keeps.refl
  · rename_i z3 z4 z5
    extract_lets z6 z7
    have h8 : Keeps 65540 c z6 := by
      refine Keeps.trans ?_ (Chip.setRun_keeps ..) rfl
      exact Keeps.refl
    clear_value z6
    have h9 : Keeps 65540 c z7 := by
      refine Keeps.trans ?_ (Chip.setReg_keeps ..) rfl
      exact h8
    clear_value z7
    refine Keeps.trans ?_ (Chip.setFld_keeps ..) rfl
    refine Keeps.trans ?_ (Chip.setFld_keeps ..) rfl
    exact h9

theorem Chip.memApply1_keeps (c) (a1) : Keeps 67608 c (Chip.memApply1 c a1) := by
  unfold Chip.memApply1
  extract_lets z1
  have h2 : ∀ v0, Keeps 67608 v0 (z1 v0) := by
    intro z3
    dsimp only [z1]
    refine Keeps.upd_slu ?_ rfl _
    exact Keeps.refl
  clear_value z1
  refine Keeps.ite ?_ ?_
  · refine Keeps.trans ?_ (Chip.reply_keeps ..) rfl
    refine Keeps.trans ?_ (h2 ..) rfl
    refine Keeps.trans ?_ (Chip.setCoreBytes_keeps ..) rfl
    exact Keeps.refl
  · refine Keeps.ite ?_ ?_
    · refine Keeps.trans ?_ (Chip.reply_keeps ..) rfl
      refine Keeps.trans ?_ (h2 ..) rfl
      exact Keeps.refl
    · exact Keeps.refl

theorem Chip.sluMemWrite_keeps (c) (a1) : Keeps 67584 c (Chip.sluMemWrite c a1).1 := by
  unfold Chip.sluMemWrite
  extract_lets z1 z2 z3 z4 z5 z6 z7 z8
  refine Keeps.ite1 ?_ ?_
  · exact Keeps.refl
  · refine Keeps.ite1 ?_ ?_
    · exact Keeps.refl
    · refine Keeps.ite1 ?_ ?_
      · dsimp only
        refine Keeps.trans ?_ (Chip.setCoreBytes_keeps ..) rfl
        exact Keeps.refl
      · dsimp only
        refine Keeps.upd_slu ?_ rfl _
        exact Keeps.refl

theorem Chip.sluMemRead_keeps (c) (a1) : Keeps 0 c (Chip.sluMemRead c a1).1 := by
  unfold Chip.sluMemRead
  extract_lets z1 z2 z3 z4 z5
  refine Keeps.ite1 ?_ ?_
  · exact Keeps.refl
  · refine Keeps.ite1 ?_ ?_
    · exact Keeps.refl
    · exact Keeps.refl

theorem Chip.setSluW_keeps (c) (a1) (a2) : Keeps 2048 c (Chip.setSluW c a1 a2) := by
  unfold Chip.setSluW
  refine Keeps.upd_mem ?_ rfl _ (Mems.wf_slu _ _ (memWriteWords_wf _ _ _ _))
  exact Keeps.refl

theorem Chip.chainLoad_keeps (c) (a1) : Keeps 2048 c (Chip.chainLoad c a1).1 := by
  unfold Chip.chainLoad
  extract_lets z1
  split
  · rename_i z2 z3 z4
    exact Keeps.refl
  · rename_i z5 z6
    refine Keeps.ite1 ?_ ?_
    · exact Keeps.refl
    · dsimp only
      refine Keeps.trans ?_ (Chip.setSluW_keeps ..) rfl
      exact Keeps.refl

theorem Chip.pickLoad_keeps (c) (a1) : Keeps 2048 c (Chip.pickLoad c a1).1 := by
  unfold Chip.pickLoad
  refine Keeps.trans ?_ (Chip.setSluW_keeps ..) rfl
  exact Keeps.refl

theorem Chip.sluTrigger_keeps (c) (a1) : Keeps 65668 c (Chip.sluTrigger c a1).1 := by
  unfold Chip.sluTrigger
  extract_lets z1 z2
  have h3 : Keeps 65668 c z2.1 := by
    refine Keeps.trans ?_ (Chip.chainTrigger_keeps ..) rfl
    exact Keeps.refl
  clear_value z2
  refine Keeps.ite1 ?_ ?_
  · exact Keeps.refl
  · exact h3

theorem Chip.sluAbort_keeps (c) (a1) : Keeps 33634758 c (Chip.sluAbort c a1).1 := by
  unfold Chip.sluAbort
  extract_lets z1
  refine Keeps.ite1 ?_ ?_
  · refine Keeps.trans ?_ (Chip.chainStop_keeps ..) rfl
    exact Keeps.refl
  · exact Keeps.refl

theorem Chip.towPorts_keeps (c) (a1) (a2) : Keeps 4 c (Chip.towPorts c a1 a2) := by
  unfold Chip.towPorts
  extract_lets z1
  refine Keeps.trans ?_ (Keeps.each (m := 4) _ ?_ _ _) rfl
  · exact Keeps.refl
  · intro z2 z3
    refine Keeps.trans ?_ (Chip.setReg_keeps ..) rfl
    refine Keeps.trans ?_ (Chip.setReg_keeps ..) rfl
    exact Keeps.refl

theorem Chip.towPut_keeps (c) (a1) (a2) : Keeps 2052 c (Chip.towPut c a1 a2) := by
  unfold Chip.towPut
  extract_lets z1
  have h2 : Keeps 2052 c z1 := by
    dsimp only [z1]
    split
    · rename_i z3 z4 z5
      refine Keeps.trans ?_ (Chip.towPorts_keeps ..) rfl
      exact Keeps.refl
    · rename_i z6 z7
      exact Keeps.refl
  clear_value z1
  refine Keeps.trans ?_ (Keeps.each (m := 2052) _ ?_ _ _) rfl
  · exact h2
  · intro z8 z9
    extract_lets z10 z11
    split
    · rename_i z12 z13
      exact Keeps.refl
    · rename_i z14 z15 z16
      extract_lets z17
      refine Keeps.upd_mem ?_ rfl _ (Mems.wf_tow _ _ (memWriteWords_wf _ _ _ _))
      exact Keeps.refl

theorem Chip.imgOver_keeps (c : Chip) (g : Staging) : Keeps 2052 c (c.imgOver g) := by
  unfold Chip.imgOver
  have h1 : Keeps 2052 c (c.each [1, 2, 4, 5] (fun c id =>
    match g.sec id, secWin id with
    | some x, some w => c.setWin w.1 (winWrite w.1 0 (g.secBytes x w.2) (c.winMem w.1))
    | _, _ => c)) := Keeps.each _ (fun c id => by
      split
      · exact Keeps.weaken (Chip.setWin_keeps _ _ _ (winWrite_wf _ _ _ _ _)) rfl
      · exact Keeps.refl) _ _
  dsimp only
  split
  · exact h1.trans (Chip.towPut_keeps ..) rfl
  · exact h1

theorem Chip.setStage_keeps (c) (a1) : Keeps 16 c (Chip.setStage c a1) := by
  unfold Chip.setStage
  extract_lets z1
  refine Keeps.upd_hst ?_ rfl _ rfl rfl rfl rfl
  exact Keeps.refl

theorem Chip.imgBegin_keeps (a0) (c) (a2) : Keeps 16 c (Chip.imgBegin a0 c a2).1 := by
  unfold Chip.imgBegin
  extract_lets z1
  refine Keeps.ite1 ?_ ?_
  · exact Keeps.refl
  · refine Keeps.ite1 ?_ ?_
    · exact Keeps.refl
    · dsimp only
      refine Keeps.trans ?_ (Chip.setStage_keeps ..) rfl
      exact Keeps.refl

theorem Chip.imgData_keeps (c) (a1) : Keeps 16 c (Chip.imgData c a1).1 := by
  unfold Chip.imgData
  extract_lets z1 z2
  refine Keeps.ite1 ?_ ?_
  · exact Keeps.refl
  · refine Keeps.ite1 ?_ ?_
    · exact Keeps.refl
    · refine Keeps.ite1 ?_ ?_
      · exact Keeps.refl
      · dsimp only
        refine Keeps.trans ?_ (Chip.setStage_keeps ..) rfl
        exact Keeps.refl

theorem Chip.imgStart_keeps (c) : Keeps 16 c (Chip.imgStart c) := by
  unfold Chip.imgStart
  refine Keeps.trans ?_ (Chip.setStage_keeps ..) rfl
  exact Keeps.refl

theorem Chip.imgCommit_keeps (c) (a1) : Keeps 16 c (Chip.imgCommit c a1).1 := by
  unfold Chip.imgCommit
  extract_lets z1
  refine Keeps.ite1 ?_ ?_
  · exact Keeps.refl
  · split
    · rename_i z2 z3 z4
      exact Keeps.refl
    · rename_i z5 z6
      refine Keeps.ite1 ?_ ?_
      · exact Keeps.refl
      · refine Keeps.ite1 ?_ ?_
        · refine Keeps.trans ?_ (Chip.imgStart_keeps ..) rfl
          exact Keeps.refl
        · exact Keeps.refl

theorem Chip.imgCommitRom_keeps (c) (a1) : Keeps 16 c (Chip.imgCommitRom c a1).1 := by
  unfold Chip.imgCommitRom
  extract_lets z1
  refine Keeps.ite1 ?_ ?_
  · exact Keeps.refl
  · refine Keeps.ite1 ?_ ?_
    · exact Keeps.refl
    · refine Keeps.trans ?_ (Chip.imgStart_keeps ..) rfl
      exact Keeps.refl

theorem Chip.pointersWritten_keeps (c) (a1) : Keeps 4100 c (Chip.pointersWritten c a1) := by
  unfold Chip.pointersWritten
  refine Keeps.trans ?_ (Keeps.each (m := 4100) _ ?_ _ _) rfl
  · exact Keeps.refl
  · intro z1 z2
    extract_lets z3 z4
    have h5 : Keeps 4100 z1 z4 := by
      refine Keeps.upd_lck ?_ rfl _
      exact Keeps.refl
    clear_value z4
    refine Keeps.ite ?_ ?_
    · refine Keeps.ite ?_ ?_
      · exact h5
      · refine Keeps.trans ?_ (Chip.setFld_keeps ..) rfl
        exact h5
    · exact Keeps.refl

theorem Chip.imgSections_keeps (c) (a1) (a2) : Keeps 108503004 c (Chip.imgSections c a1 a2) := by
  unfold Chip.imgSections
  extract_lets z1 z2 z3 z4 z5 z6
  have h8 : Keeps 108503004 c z2 := by
    refine Keeps.trans ?_ (Chip.imgOver_keeps ..) rfl
    exact Keeps.refl
  clear_value z2
  have h9 : Keeps 108503004 c z3 := by
    dsimp only [z3]
    split
    · rename_i z29 z30 z31
      refine Keeps.trans ?_ (Chip.pointersWritten_keeps ..) rfl
      exact h8
    · rename_i z32 z33
      exact h8
  clear_value z3
  have h10 : Keeps 108503004 c z4 := by
    dsimp only [z4]
    split
    · rename_i z22 z23 z24
      refine Keeps.ite ?_ ?_
      · refine Keeps.trans ?_ (Keeps.each (m := 108503004) _ ?_ _ _) rfl
        · refine Keeps.trans ?_ (Chip.setReg_keeps ..) rfl
          exact h9
        · intro z25 z26
          refine Keeps.trans ?_ (Chip.bringAgain_keeps ..) rfl
          exact Keeps.refl
      · refine Keeps.trans ?_ (Chip.setReg_keeps ..) rfl
        exact h9
    · rename_i z27 z28
      exact h9
  clear_value z4
  have h11 : Keeps 108503004 c z5 := by
    dsimp only [z5]
    split
    · rename_i z15 z16 z17
      refine Keeps.trans ?_ (Keeps.each (m := 108503004) _ ?_ _ _) rfl
      · exact h10
      · intro z18 z19
        refine Keeps.trans ?_ (Chip.writeReg_keeps ..) rfl
        exact Keeps.refl
    · rename_i z20 z21
      exact h10
  clear_value z5
  have h12 : Keeps 108503004 c z6 := by
    refine Keeps.ite ?_ ?_
    · refine Keeps.trans ?_ (Chip.setFld_keeps ..) rfl
      refine Keeps.trans ?_ (Chip.setFld_keeps ..) rfl
      exact h11
    · exact h11
  clear_value z6
  refine Keeps.trans ?_ (Keeps.each (m := 108503004) _ ?_ _ _) rfl
  · exact h12
  · intro z13 z14
    refine Keeps.ite ?_ ?_
    · refine Keeps.trans ?_ (Chip.setFlight_keeps ..) rfl
      exact Keeps.refl
    · exact Keeps.refl

theorem Chip.shareChange_keeps (c) (a1) (a2) : Keeps 2097152 c (Chip.shareChange c a1 a2) := by
  unfold Chip.shareChange
  refine Keeps.ite ?_ ?_
  · exact Keeps.refl
  · refine Keeps.trans ?_ (Chip.ledger_keeps ..) rfl
    refine Keeps.trans ?_ (Chip.bulkQueue_keeps ..) rfl
    exact Keeps.refl

theorem Chip.imgApply_keeps (c) (a1) (a2) : Keeps 108503004 c (Chip.imgApply c a1 a2) := by
  unfold Chip.imgApply
  extract_lets z1 z2 z3 z4 z5
  have h6 : Keeps 108503004 c z2 := by
    refine Keeps.trans ?_ (Chip.imgSections_keeps ..) rfl
    exact Keeps.refl
  clear_value z2
  have h7 : Keeps 108503004 c z3 := by
    refine Keeps.trans ?_ (Chip.setStage_keeps ..) rfl
    exact h6
  clear_value z3
  have h8 : Keeps 108503004 c z4 := by
    refine Keeps.trans ?_ (Chip.shareChange_keeps ..) rfl
    exact h7
  clear_value z4
  refine Keeps.ite ?_ ?_
  · refine Keeps.upd_hst ?_ rfl _ rfl rfl rfl rfl
    exact h8
  · refine Keeps.trans ?_ (Chip.finish_keeps ..) rfl
    exact h7

theorem Chip.imgFail_keeps (c) (a1) (a2) (a3) (a4) : Keeps 33554460 c (Chip.imgFail c a1 a2 a3 a4) := by
  unfold Chip.imgFail
  refine Keeps.trans ?_ (Chip.finish_keeps ..) rfl
  refine Keeps.trans ?_ (Chip.setStage_keeps ..) rfl
  exact Keeps.refl

theorem Chip.imgChecked_keeps (c) (a1) : Keeps 108503004 c (Chip.imgChecked c a1) := by
  unfold Chip.imgChecked
  extract_lets z1 z2
  have h3 : Keeps 108503004 c z2 := by
    refine Keeps.trans ?_ (Chip.setStage_keeps ..) rfl
    exact Keeps.refl
  clear_value z2
  split
  · rename_i z4 z5 z6
    refine Keeps.trans ?_ (Chip.imgFail_keeps ..) rfl
    exact Keeps.refl
  · rename_i z7 z8
    split
    · rename_i z9 z10 z11
      refine Keeps.trans ?_ (Chip.imgFail_keeps ..) rfl
      exact Keeps.refl
    · rename_i z12 z13
      refine Keeps.ite ?_ ?_
      · refine Keeps.trans ?_ (Chip.imgFail_keeps ..) rfl
        exact Keeps.refl
      · refine Keeps.ite ?_ ?_
        · refine Keeps.trans ?_ (Chip.imgApply_keeps ..) rfl
          exact h3
        · refine Keeps.trans ?_ (Chip.setStage_keeps ..) rfl
          exact h3

theorem Chip.imgCheckedRom_keeps (c) (a1) : Keeps 42467580 c (Chip.imgCheckedRom c a1) := by
  unfold Chip.imgCheckedRom
  extract_lets z1 z2 z3
  have h4 : Keeps 42467580 c z3 := by
    refine Keeps.trans ?_ (Chip.setStage_keeps ..) rfl
    refine Keeps.trans ?_ (Chip.finish_keeps ..) rfl
    exact Keeps.refl
  clear_value z3
  refine Keeps.ite ?_ ?_
  · refine Keeps.trans ?_ (Chip.imgFail_keeps ..) rfl
    exact Keeps.refl
  · refine Keeps.trans ?_ (Chip.setBoot_keeps _ _ (fun _ => rfl) (fun _ => rfl) (fun _ => rfl)) rfl
    refine Keeps.trans ?_ (Chip.fwStart_keeps ..) rfl
    exact h4

theorem Chip.imgBoundary_keeps (c) (a1) : Keeps 108503004 c (Chip.imgBoundary c a1) := by
  unfold Chip.imgBoundary
  refine Keeps.ite ?_ ?_
  · split
    · rename_i z1 z2 z3
      refine Keeps.trans ?_ (Chip.imgApply_keeps ..) rfl
      exact Keeps.refl
    · rename_i z4 z5
      refine Keeps.trans ?_ (Chip.setStage_keeps ..) rfl
      exact Keeps.refl
  · exact Keeps.refl

theorem Chip.cfgRead_keeps (c) (a1) : Keeps 0 c (Chip.cfgRead c a1).1 := by
  unfold Chip.cfgRead
  extract_lets z1
  split
  · rename_i z2 z3
    exact Keeps.refl
  · rename_i z4 z5 z6
    refine Keeps.ite1 ?_ ?_
    · exact Keeps.refl
    · refine Keeps.ite1 ?_ ?_
      · exact Keeps.refl
      · exact Keeps.refl

theorem Chip.winWordWrite_keeps (c) (a1) (a2) (a3) : Keeps 6148 c (Chip.winWordWrite c a1 a2 a3).1 := by
  unfold Chip.winWordWrite
  extract_lets z1
  split
  · rename_i z2
    refine Keeps.trans ?_ (Chip.lckWindowWrite_keeps ..) rfl
    exact Keeps.refl
  · rename_i z3
    refine Keeps.ite1 ?_ ?_
    · dsimp only
      refine Keeps.upd_mem ?_ rfl _ (Mems.wf_bank _ _ (memWriteWords_wf _ _ _ _))
      exact Keeps.refl
    · dsimp only
      refine Keeps.trans ?_ (Chip.raise_keeps ..) rfl
      exact Keeps.refl
  · rename_i z4
    dsimp only
    refine Keeps.trans ?_ (Chip.raise_keeps ..) rfl
    exact Keeps.refl
  · rename_i z5
    dsimp only
    refine Keeps.trans ?_ (Chip.raise_keeps ..) rfl
    exact Keeps.refl
  · rename_i z6 z7 z8 z9 z10
    dsimp only
    refine Keeps.trans ?_ (Chip.raise_keeps ..) rfl
    exact Keeps.refl

theorem Chip.winWrites_keeps (c : Chip) (which off i : Nat) (vs : List Word) : Keeps 6148 c (c.winWrites which off i vs).1 := by
  induction vs generalizing c i with
  | nil => unfold Chip.winWrites; exact Keeps.refl
  | cons v t ih =>
    unfold Chip.winWrites
    exact Keeps.trans (Chip.winWordWrite_keeps ..) (ih ..) rfl

theorem Chip.cfgWrite_keeps (c) (a1) : Keeps 6148 c (Chip.cfgWrite c a1).1 := by
  unfold Chip.cfgWrite
  extract_lets z1
  split
  · rename_i z2 z3
    exact Keeps.refl
  · rename_i z4 z5 z6
    extract_lets z7
    have h8 : Keeps 6148 c z7.1 := by
      refine Keeps.trans ?_ (Chip.winWrites_keeps ..) rfl
      exact Keeps.refl
    clear_value z7
    refine Keeps.ite1 ?_ ?_
    · exact Keeps.refl
    · refine Keeps.ite1 ?_ ?_
      · exact Keeps.refl
      · refine Keeps.ite1 ?_ ?_
        · exact Keeps.refl
        · split
          · rename_i z9 z10
            exact h8
          · rename_i z11 z12 z13
            exact h8

theorem changeBody_keeps (a0) (c) (a2) : Keeps 108503004 c (changeBody a0 c a2).1 := by
  unfold changeBody
  split
  · rename_i z1
    refine Keeps.trans ?_ (Chip.regWrite_keeps ..) rfl
    exact Keeps.refl
  · rename_i z2
    refine Keeps.trans ?_ (Chip.cfgWrite_keeps ..) rfl
    exact Keeps.refl
  · rename_i z3
    refine Keeps.trans ?_ (Chip.bankLoad_keeps ..) rfl
    exact Keeps.refl
  · rename_i z4
    refine Keeps.trans ?_ (Chip.chainLoad_keeps ..) rfl
    exact Keeps.refl
  · rename_i z5 z6 z7 z8 z9
    refine Keeps.trans ?_ (Chip.pickLoad_keeps ..) rfl
    exact Keeps.refl

theorem Chip.changeApply_keeps (c) (a1) : Keeps 108503004 c (Chip.changeApply c a1) := by
  unfold Chip.changeApply
  extract_lets z1 z2 z3
  have h4 : Keeps 108503004 c z1.1 := by
    refine Keeps.trans ?_ (changeBody_keeps ..) rfl
    exact Keeps.refl
  clear_value z1
  have h5 : ∀ v0 v1 v2, Keeps 108503004 v0 (z2 v0 v1 v2) := by
    intro z14 z15 z16
    dsimp only [z2]
    split
    · rename_i z17 z18 z19
      refine Keeps.trans ?_ (Chip.finish_keeps ..) rfl
      exact Keeps.refl
    · rename_i z20 z21
      exact Keeps.refl
  clear_value z2
  have h6 : Keeps 108503004 c z3 := by
    refine Keeps.trans ?_ (Chip.shareChange_keeps ..) rfl
    exact h4
  clear_value z3
  split
  · rename_i z7 z8 z9 z10 z11
    refine Keeps.ite ?_ ?_
    · refine Keeps.ite ?_ ?_
      · exact h6
      · refine Keeps.trans ?_ (h5 ..) rfl
        exact h6
    · refine Keeps.trans ?_ (h5 ..) rfl
      exact h4
  · rename_i z12 z13
    exact h4

theorem Chip.changesApply_keeps (c) : Keeps 108503004 c (Chip.changesApply c) := by
  unfold Chip.changesApply
  extract_lets z1
  refine Keeps.trans ?_ (Keeps.each (m := 108503004) _ ?_ _ _) rfl
  · refine Keeps.trans ?_ (Chip.setAqu_keeps ..) rfl
    exact Keeps.refl
  · intro z2 z3
    refine Keeps.trans ?_ (Chip.changeApply_keeps ..) rfl
    exact Keeps.refl

theorem Chip.poundNext_keeps (c) : Keeps 4194565 c (Chip.poundNext c) := by
  unfold Chip.poundNext
  extract_lets z1 z2 z3 z4 z5 z6
  have h7 : Keeps 4194565 c z2 := by
    refine Keeps.trans ?_ (Chip.at_keeps ..) rfl
    exact Keeps.refl
  clear_value z2
  have h8 : Keeps 4194565 c z6 := by
    refine Keeps.upd_pndAll ?_ rfl rfl _
    exact h7
  clear_value z6
  refine Keeps.trans ?_ (Chip.setReg_keeps ..) rfl
  exact h8

theorem Chip.selApply_keeps (c) : Keeps 4194560 c (Chip.selApply c) := by
  unfold Chip.selApply
  split
  · rename_i z1 z2
    exact Keeps.refl
  · rename_i z3 z4 z5
    refine Keeps.ite ?_ ?_
    · extract_lets z6 z7
      have h8 : Keeps 4194560 c z7 := by
        refine Keeps.upd_pndAll ?_ rfl rfl _
        exact Keeps.refl
      refine Keeps.ite ?_ ?_
      · refine Keeps.trans ?_ (Chip.stepCorrection_keeps ..) rfl
        exact h8
      · exact h8
    · exact Keeps.refl

theorem Chip.lockBoundary_keeps (c) : Keeps 260 c (Chip.lockBoundary c) := by
  unfold Chip.lockBoundary
  extract_lets z1 z2 z3 z4 z5 z6 z7
  have h8 : Keeps 260 c z2 := by
    refine Keeps.trans ?_ (Chip.setFldI_keeps ..) rfl
    exact Keeps.refl
  clear_value z2
  have h9 : Keeps 260 c z6 := by
    refine Keeps.upd_pnd ?_ rfl _ rfl
    exact h8
  clear_value z6
  have h10 : Keeps 260 c z7 := by
    refine Keeps.upd_pnd ?_ rfl _ rfl
    exact h8
  clear_value z7
  refine Keeps.ite ?_ ?_
  · exact Keeps.refl
  · refine Keeps.ite ?_ ?_
    · refine Keeps.ite ?_ ?_
      · refine Keeps.trans ?_ (Chip.setFld_keeps ..) rfl
        exact h9
      · exact h9
    · refine Keeps.ite ?_ ?_
      · refine Keeps.ite ?_ ?_
        · refine Keeps.trans ?_ (Chip.setFld_keeps ..) rfl
          exact h10
        · exact h10
      · exact h8

theorem Chip.poundTurn_keeps (c) : Keeps 4194565 c (Chip.poundTurn c) := by
  unfold Chip.poundTurn
  refine Keeps.trans ?_ (Chip.corrPlan_keeps ..) rfl
  refine Keeps.trans ?_ (Chip.lockBoundary_keeps ..) rfl
  refine Keeps.trans ?_ (Chip.selApply_keeps ..) rfl
  refine Keeps.trans ?_ (Chip.poundNext_keeps ..) rfl
  exact Keeps.refl

theorem Chip.poundLatch_keeps (c) : Keeps 4194560 c (Chip.poundLatch c) := by
  unfold Chip.poundLatch
  extract_lets z1 z2 z3 z4
  refine Keeps.upd_pndAll ?_ rfl rfl _
  exact Keeps.refl

theorem Chip.ownSamples_keeps (c) (a1) : Keeps 2097152 c (Chip.ownSamples c a1) := by
  unfold Chip.ownSamples
  extract_lets z1
  refine Keeps.ite ?_ ?_
  · refine Keeps.trans ?_ (Chip.setAqu_keeps ..) rfl
    exact Keeps.refl
  · exact Keeps.refl

theorem Chip.snapSend_keeps (c) (a1) : Keeps 2097152 c (Chip.snapSend c a1) := by
  unfold Chip.snapSend
  refine Keeps.ite ?_ ?_
  · refine Keeps.trans ?_ (Chip.setAqu_keeps ..) rfl
    refine Keeps.trans ?_ (Chip.bulkQueue_keeps ..) rfl
    exact Keeps.refl
  · exact Keeps.refl

theorem Chip.poundEnd_keeps (c) (a1) : Keeps 108503004 c (Chip.poundEnd c a1) := by
  unfold Chip.poundEnd
  extract_lets z1
  have h2 : Keeps 108503004 c z1 := by
    refine Keeps.trans ?_ (Chip.changesApply_keeps ..) rfl
    refine Keeps.trans ?_ (Chip.imgBoundary_keeps ..) rfl
    exact Keeps.refl
  clear_value z1
  refine Keeps.trans ?_ (Chip.snapSend_keeps ..) rfl
  refine Keeps.trans ?_ (Chip.ledgerCommit_keeps ..) rfl
  refine Keeps.trans ?_ (Chip.snapLedger_keeps ..) rfl
  refine Keeps.trans ?_ (Chip.ledgerFreeze_keeps ..) rfl
  exact h2

theorem Chip.requestAnswer_keeps (c) (a1) (a2) : Keeps 33554716 c (Chip.requestAnswer c a1 a2) := by
  unfold Chip.requestAnswer
  extract_lets z1 z2
  have h3 : Keeps 33554716 c z2 := by
    refine Keeps.upd_pnd ?_ rfl _ rfl
    exact Keeps.refl
  clear_value z2
  split
  · rename_i z4 z5
    exact Keeps.refl
  · rename_i z6 z7 z8
    extract_lets z9
    split
    · rename_i z10 z11 z12
      refine Keeps.trans ?_ (Chip.reply_keeps ..) rfl
      exact h3
    · rename_i z13 z14
      refine Keeps.trans ?_ (Chip.joinReply_keeps ..) rfl
      exact h3

theorem Chip.requestLost_keeps (c) : Keeps 280 c (Chip.requestLost c) := by
  unfold Chip.requestLost
  extract_lets z1
  split
  · rename_i z2 z3 z4 z5 z6
    refine Keeps.trans ?_ (Chip.reply_keeps ..) rfl
    refine Keeps.upd_pnd ?_ rfl _ rfl
    exact Keeps.refl
  · rename_i z7 z8
    exact Keeps.refl

theorem Chip.stateBoundary_keeps (c) : Keeps 34525564 c (Chip.stateBoundary c) := by
  unfold Chip.stateBoundary
  extract_lets z1 z2 z3 z4
  have h5 : Keeps 34525564 c z4 := by
    refine Keeps.upd_pnd ?_ rfl _ rfl
    exact Keeps.refl
  clear_value z4
  refine Keeps.ite ?_ ?_
  · refine Keeps.trans ?_ (Chip.requestLost_keeps ..) rfl
    exact h5
  · clear_value z2
    clear_value z1
    split
    · rename_i z6
      exact h5
    · rename_i z7 z8
      refine Keeps.trans ?_ (Chip.requestAnswer_keeps ..) rfl
      refine Keeps.trans ?_ (Chip.enterState_keeps ..) rfl
      exact h5

theorem Chip.abMeasure_keeps (c) : Keeps 4 c (Chip.abMeasure c) := by
  unfold Chip.abMeasure
  refine Keeps.ite ?_ ?_
  · refine Keeps.trans ?_ (Chip.setFlag_keeps ..) rfl
    refine Keeps.trans ?_ (Chip.setFldI_keeps ..) rfl
    exact Keeps.refl
  · refine Keeps.trans ?_ (Chip.setFlag_keeps ..) rfl
    exact Keeps.refl

theorem Chip.powerPeriod_keeps (c) (a1) : Keeps 33585630 c (Chip.powerPeriod c a1) := by
  unfold Chip.powerPeriod
  refine Keeps.ite ?_ ?_
  · refine Keeps.trans ?_ (Chip.abMeasure_keeps ..) rfl
    refine Keeps.trans ?_ (Chip.lkpPeriod_keeps ..) rfl
    refine Keeps.trans ?_ (Chip.planAfter_keeps ..) rfl
    refine Keeps.trans ?_ (Chip.basinPeriod_keeps ..) rfl
    exact Keeps.refl
  · exact Keeps.refl

theorem Chip.queuesBoundary_keeps (c) (a1) : Keeps 35682780 c (Chip.queuesBoundary c a1) := by
  unfold Chip.queuesBoundary
  extract_lets z1
  have h2 : Keeps 35682780 c z1 := by
    refine Keeps.trans ?_ (Chip.planBoundary_keeps ..) rfl
    refine Keeps.trans ?_ (Keeps.each (m := 35682780) _ ?_ _ _) rfl
    · exact Keeps.refl
    · intro z5 z6
      refine Keeps.trans ?_ (Chip.segOps_keeps ..) rfl
      exact Keeps.refl
  clear_value z1
  refine Keeps.ite ?_ ?_
  · refine Keeps.trans ?_ (Keeps.each (m := 35682780) _ ?_ _ _) rfl
    · exact h2
    · intro z3 z4
      refine Keeps.trans ?_ (Chip.segEval_keeps ..) rfl
      exact Keeps.refl
  · exact h2

theorem Chip.feedAge_keeps (c) : Keeps 524288 c (Chip.feedAge c) := by
  unfold Chip.feedAge
  refine Keeps.trans ?_ (Chip.setWeir_keeps ..) rfl
  exact Keeps.refl

theorem Chip.weirBoundary_keeps (c) (a1) : Keeps 655710 c (Chip.weirBoundary c a1) := by
  unfold Chip.weirBoundary
  extract_lets z1 z2 z3
  have h4 : Keeps 655710 c z2 := by
    refine Keeps.trans ?_ (Chip.ssm_keeps ..) rfl
    refine Keeps.trans ?_ (Chip.monitors_keeps ..) rfl
    refine Keeps.trans ?_ (Chip.psetSwap_keeps ..) rfl
    exact Keeps.refl
  clear_value z2
  have h5 : Keeps 655710 c z3 := by
    refine Keeps.ite ?_ ?_
    · refine Keeps.trans ?_ (Chip.weirTick_keeps ..) rfl
      exact h4
    · exact h4
  clear_value z3
  refine Keeps.trans ?_ (Keeps.onlyIf (m := 655710) _ ?_ _ _) rfl
  · refine Keeps.trans ?_ (Chip.remoteOutDue_keeps ..) rfl
    exact h5
  · intro z6
    refine Keeps.trans ?_ (Chip.feedAge_keeps ..) rfl
    exact Keeps.refl

theorem Chip.towBoundary_keeps (c) (a1) : Keeps 262220 c (Chip.towBoundary c a1) := by
  unfold Chip.towBoundary
  refine Keeps.trans ?_ (Chip.bringBoundary_keeps ..) rfl
  refine Keeps.trans ?_ (Chip.towJudge_keeps ..) rfl
  refine Keeps.trans ?_ (Chip.towReferences_keeps ..) rfl
  exact Keeps.refl

theorem Chip.quietBoundary_keeps (c) : Keeps 1024 c (Chip.quietBoundary c) := by
  unfold Chip.quietBoundary
  refine Keeps.ite ?_ ?_
  · refine Keeps.trans ?_ (Chip.setChain_keeps ..) rfl
    exact Keeps.refl
  · exact Keeps.refl

theorem Chip.testEnded_keeps (c) : Keeps 2097152 c (Chip.testEnded c) := by
  unfold Chip.testEnded
  split
  · rename_i z1 z2
    exact Keeps.refl
  · rename_i z3 z4 z5
    extract_lets z6
    refine Keeps.ite ?_ ?_
    · refine Keeps.trans ?_ (Chip.setAqu_keeps ..) rfl
      exact Keeps.refl
    · exact Keeps.refl

theorem Chip.selfTest_keeps (c) : Keeps 2105476 c (Chip.selfTest c) := by
  unfold Chip.selfTest
  refine Keeps.ite ?_ ?_
  · extract_lets z1 z2
    have h3 : Keeps 2105476 c z1 := by
      refine Keeps.trans ?_ (Chip.fwWork_keeps ..) rfl
      exact Keeps.refl
    clear_value z1
    have h4 : Keeps 2105476 c z2 := by
      refine Keeps.trans ?_ (Chip.testEnded_keeps ..) rfl
      exact h3
    clear_value z2
    refine Keeps.ite ?_ ?_
    · exact h3
    · split
      · rename_i z5 z6
        exact h4
      · rename_i z7 z8 z9
        extract_lets z10
        have h11 : Keeps 2105476 c z10.1 := by
          refine Keeps.trans ?_ (Chip.bsnSubmit_keeps ..) rfl
          exact h4
        clear_value z10
        refine Keeps.ite ?_ ?_
        · refine Keeps.trans ?_ (Chip.setAqu_keeps ..) rfl
          exact h11
        · exact h4
  · exact Keeps.refl

theorem Chip.aquBoundary_keeps (c) (a1) : Keeps 2105484 c (Chip.aquBoundary c a1) := by
  unfold Chip.aquBoundary
  refine Keeps.trans ?_ (Chip.bulkPump_keeps ..) rfl
  refine Keeps.trans ?_ (Keeps.onlyIf (m := 2105484) _ ?_ _ _) rfl
  · refine Keeps.trans ?_ (Chip.ledgerSend_keeps ..) rfl
    refine Keeps.trans ?_ (Chip.syncSend_keeps ..) rfl
    refine Keeps.trans ?_ (Chip.selfTest_keeps ..) rfl
    exact Keeps.refl
  · intro z1
    refine Keeps.trans ?_ (Chip.healthSend_keeps ..) rfl
    exact Keeps.refl

theorem Chip.poundWork_keeps (c) (a1) (a2) (a3) : Keeps 109051902 c (Chip.poundWork c a1 a2 a3) := by
  unfold Chip.poundWork
  extract_lets z1 z2 z3 z4 z5 z6 z7 z8 z9
  have h10 : Keeps 109051902 c z1 := by
    refine Keeps.trans ?_ (Chip.poundEnd_keeps ..) rfl
    exact Keeps.refl
  clear_value z1
  have h11 : Keeps 109051902 c z2 := by
    refine Keeps.trans ?_ (Chip.quietBoundary_keeps ..) rfl
    refine Keeps.trans ?_ (Chip.poundLatch_keeps ..) rfl
    exact h10
  clear_value z2
  have h12 : Keeps 109051902 c z3 := by
    refine Keeps.trans ?_ (Chip.idleChans_keeps ..) rfl
    exact h11
  clear_value z3
  have h13 : Keeps 109051902 c z4 := by
    refine Keeps.trans ?_ (Chip.flagsClear_keeps ..) rfl
    refine Keeps.trans ?_ (Chip.stateBoundary_keeps ..) rfl
    refine Keeps.trans ?_ (Chip.roleChange_keeps ..) rfl
    exact h12
  clear_value z4
  have h14 : Keeps 109051902 c z5 := by
    refine Keeps.trans ?_ (Chip.powerPeriod_keeps ..) rfl
    exact h13
  clear_value z5
  have h15 : Keeps 109051902 c z6 := by
    refine Keeps.trans ?_ (Chip.towBoundary_keeps ..) rfl
    exact h14
  clear_value z6
  have h16 : Keeps 109051902 c z7 := by
    refine Keeps.trans ?_ (Chip.weirBoundary_keeps ..) rfl
    exact h15
  clear_value z7
  have h17 : Keeps 109051902 c z8 := by
    refine Keeps.trans ?_ (Chip.queuesBoundary_keeps ..) rfl
    exact h16
  clear_value z8
  have h18 : Keeps 109051902 c z9 := by
    refine Keeps.trans ?_ (Chip.virtualSamples_keeps ..) rfl
    exact h17
  clear_value z9
  refine Keeps.trans ?_ (Chip.savePump_keeps ..) rfl
  refine Keeps.trans ?_ (Chip.aquBoundary_keeps ..) rfl
  exact h18

theorem Chip.towLate_keeps (c) (a1) : Keeps 262144 c (Chip.towLate c a1) := by
  unfold Chip.towLate
  refine Keeps.trans ?_ (Keeps.each (m := 262144) _ ?_ _ _) rfl
  · exact Keeps.refl
  · intro z1 z2
    extract_lets z3 z4 z5 z6
    refine Keeps.ite ?_ ?_
    · exact Keeps.refl
    · refine Keeps.trans ?_ (Chip.setPort_keeps ..) rfl
      exact Keeps.refl

theorem Chip.samplesEnd_keeps (c) (a1) : Keeps 2360327 c (Chip.samplesEnd c a1) := by
  unfold Chip.samplesEnd
  refine Keeps.trans ?_ (Chip.towLate_keeps ..) rfl
  refine Keeps.trans ?_ (Chip.ownSamples_keeps ..) rfl
  refine Keeps.trans ?_ (Chip.auxBoundary_keeps ..) rfl
  refine Keeps.trans ?_ (Chip.ageChans_keeps ..) rfl
  refine Keeps.trans ?_ (Chip.at_keeps ..) rfl
  exact Keeps.refl

theorem Chip.poundBoundary_keeps (c) (a1) : Keeps 109051903 c (Chip.poundBoundary c a1) := by
  unfold Chip.poundBoundary
  refine Keeps.ite ?_ ?_
  · exact Keeps.refl
  · extract_lets z1 z2 z3 z4 z5
    have h6 : Keeps 109051903 c z3 := by
      refine Keeps.trans ?_ (Chip.corrAll_keeps ..) rfl
      exact Keeps.refl
    clear_value z3
    have h7 : Keeps 109051903 c z4 := by
      refine Keeps.ite ?_ ?_
      · refine Keeps.trans ?_ (Chip.samplesEnd_keeps ..) rfl
        refine Keeps.trans ?_ (Chip.owedKeep_keeps ..) rfl
        exact h6
      · exact h6
    clear_value z4
    have h8 : Keeps 109051903 c z5 := by
      refine Keeps.trans ?_ (Chip.poundTurn_keeps ..) rfl
      exact h7
    clear_value z5
    refine Keeps.ite ?_ ?_
    · refine Keeps.trans ?_ (Chip.poundWork_keeps ..) rfl
      exact h8
    · exact h8

theorem Chip.commandRelease_keeps (c) (a1) : Keeps 2955724 c (Chip.commandRelease c a1) := by
  unfold Chip.commandRelease
  extract_lets z1 z2 z3
  have h4 : Keeps 2955724 c z2 := by
    refine Keeps.upd_pnd ?_ rfl _ rfl
    exact Keeps.refl
  clear_value z2
  have h5 : Keeps 2955724 c z3 := by
    refine Keeps.ite ?_ ?_
    · refine Keeps.trans ?_ (Chip.overruns_keeps ..) rfl
      exact h4
    · exact h4
  clear_value z3
  refine Keeps.ite ?_ ?_
  · exact Keeps.refl
  · refine Keeps.trans ?_ (Chip.handoverFail_keeps ..) rfl
    refine Keeps.trans ?_ (Chip.heartbeatSend_keeps ..) rfl
    refine Keeps.trans ?_ (Chip.capRelease_keeps ..) rfl
    refine Keeps.trans ?_ (Chip.commands_keeps ..) rfl
    exact h5

theorem Chip.endLate_keeps (c) (a1) (a2) : Keeps 33634758 c (Chip.endLate c a1 a2) := by
  unfold Chip.endLate
  extract_lets z1
  have h2 : Keeps 33634758 c z1 := by
    refine Keeps.trans ?_ (Chip.dropEntry_keeps ..) rfl
    exact Keeps.refl
  clear_value z1
  split
  · rename_i z3 z4 z5
    refine Keeps.trans ?_ (Chip.stopJob_keeps ..) rfl
    exact h2
  · rename_i z6 z7 z8
    refine Keeps.trans ?_ (Chip.chainStop_keeps ..) rfl
    exact h2
  · rename_i z9 z10 z11
    exact h2

theorem Chip.startEntry_keeps (c) (a1) (a2) (a3) : Keeps 73862 c (Chip.startEntry c a1 a2 a3) := by
  unfold Chip.startEntry
  extract_lets z1 z2
  have h3 : Keeps 73862 c z2.1 := by
    refine Keeps.trans ?_ (Chip.freeWord_keeps ..) rfl
    exact Keeps.refl
  clear_value z2
  split
  · rename_i z4 z5 z6
    refine Keeps.trans ?_ (Chip.jobStart_keeps ..) rfl
    refine Keeps.trans ?_ (Chip.begin__keeps ..) rfl
    exact Keeps.refl
  · rename_i z7 z8 z9
    refine Keeps.trans ?_ (Chip.chainStart_keeps ..) rfl
    refine Keeps.trans ?_ (Chip.begin__keeps ..) rfl
    exact Keeps.refl
  · rename_i z10 z11
    refine Keeps.trans ?_ (Chip.begin__keeps ..) rfl
    exact Keeps.refl
  · rename_i z12 z13 z14 z15
    refine Keeps.trans ?_ (Chip.begin__keeps ..) rfl
    exact h3

theorem Chip.dispatchFrom_keeps (c : Chip) (w k : Nat) (es : List Entry) : Keeps 33634758 c (c.dispatchFrom w k es) := by
  induction es generalizing c with
  | nil => unfold Chip.dispatchFrom; exact Keeps.refl
  | cons e t ih =>
    unfold Chip.dispatchFrom
    refine Keeps.ite ?_ (Keeps.ite ?_ ?_)
    · exact Keeps.trans (Chip.endLate_keeps ..) (ih ..) rfl
    · exact Keeps.trans Keeps.refl (Chip.startEntry_keeps ..) rfl
    · exact ih _

theorem Chip.dispatch_keeps (c) (a1) : Keeps 33634758 c (Chip.dispatch c a1) := by
  unfold Chip.dispatch
  extract_lets z1
  refine Keeps.ite ?_ ?_
  · refine Keeps.trans ?_ (Chip.dispatchFrom_keeps ..) rfl
    exact Keeps.refl
  · exact Keeps.refl

theorem Chip.dispatchTo_keeps (c) (a1) : Keeps 33634758 c (Chip.dispatchTo c a1) := by
  unfold Chip.dispatchTo
  refine Keeps.trans ?_ (Keeps.each (m := 33634758) _ ?_ _ _) rfl
  · refine Keeps.trans ?_ (Chip.pairsEnd_keeps ..) rfl
    exact Keeps.refl
  · intro z1 z2
    refine Keeps.trans ?_ (Chip.dispatch_keeps ..) rfl
    exact Keeps.refl

theorem Chip.gauReadUe_keeps (c) (a1) (a2) (a3) : Keeps 68 c (Chip.gauReadUe c a1 a2 a3).1 := by
  unfold Chip.gauReadUe
  extract_lets z1
  refine Keeps.trans ?_ (Keeps.each (m := 68) _ ?_ _ _) rfl
  · exact Keeps.refl
  · intro z2 z3
    refine Keeps.trans ?_ (Chip.bar2Ue_keeps ..) rfl
    exact Keeps.refl

theorem Chip.readRequest_keeps (c) (a1) (a2) : Keeps 33563164 c (Chip.readRequest c a1 a2) := by
  unfold Chip.readRequest
  refine Keeps.ite ?_ ?_
  · refine Keeps.trans ?_ (Chip.emit_keeps ..) rfl
    exact Keeps.refl
  · extract_lets z1
    have h2 : Keeps 33563164 c z1.1 := by
      refine Keeps.trans ?_ (Chip.readRegs_keeps ..) rfl
      exact Keeps.refl
    clear_value z1
    refine Keeps.trans ?_ (Keeps.each (m := 33563164) _ ?_ _ _) rfl
    · exact h2
    · intro z3 z4
      refine Keeps.trans ?_ (Chip.emit_keeps ..) rfl
      exact Keeps.refl

end Sys2Proof.Machine
end

