-- ==== Sys2Proof/Laws/Exec.lean ====
section
/-! SUPPORT. What each command leaves alone. `Steps m s o` says that a meaning answers a next state, leaves the queue
alone and touches only the parts of the device whose bits the mask `m` has; one lemma for every command. -/

namespace Sys2Proof.Machine

theorem romNone {m : Nat} : ∀ b : Chip → Intake → Chip × Answer, none = some b → ∀ c k, Keeps m c (b c k).1 :=
  fun _ h => by cases h

theorem romSome {m : Nat} {f : Chip → Intake → Chip × Answer} (h : ∀ c k, Keeps m c (f c k).1) :
    ∀ b, some f = some b → ∀ c k, Keeps m c (b c k).1 := fun _ hb => by cases hb; exact h

theorem Chip.answer_keeps {m : Nat} {c : Chip} (r : Chip × Word) (i : Iface) (h : Keeps m c r.1) (hm : 8 ||| m = m) :
    Keeps m c (Chip.answer r i) :=
  Keeps.upd_out h (by rw [← hm, Nat.testBit_or]; rfl) _

theorem KeepsO.getD {m : Nat} {c : Chip} {o : Option Chip} (h : KeepsO m c o) : Keeps m c (o.getD c) := by
  cases o with
  | none => exact Keeps.refl
  | some d => exact KeepsO.get rfl h

/-- A command's meaning answers a next state, leaves the queue alone and touches only the mask's parts. -/
def Steps (m : Nat) (s : State) (o : Host.Outcome State Fault Refusal) : Prop :=
  ∃ s', o = .next s' ∧ s'.pending = s.pending ∧ Keeps m s.chip s'.chip

theorem State.act_steps {m : Nat} (s : State) (f : Chip → Chip) (h : ∀ c, Keeps m c (f c)) (hm : 0x4000008 ||| m = m) :
    Steps m s (s.act f) :=
  ⟨_, rfl, rfl, (h s.chip).trans (Chip.settle_keeps _) hm⟩

theorem State.event_steps {m : Nat} (s : State) (t : Nat) (f : Chip → Chip) (h : ∀ c, Keeps m c (f c))
    (hm : 0x4000009 ||| m = m) : Steps m s (s.event t f) := by
  refine State.act_steps s _ (fun c => ?_) (by rw [← hm, ← Nat.or_assoc]; rfl)
  have h1 : Keeps m c (c.at t) := Keeps.trans Keeps.refl (Chip.at_keeps ..) (by rw [← hm, ← Nat.or_assoc]; rfl)
  exact Keeps.ite (h1.trans (h _) (Nat.or_self m)) h1

theorem State.command_steps {m : Nat} (s : State) (t op : Nat) (ifc : Iface) (tag target : Word) (pl : List Word)
    (body : Chip → Intake → Chip × Answer) (h : ∀ c k, Keeps m c (body c k).1) (hm : 0x4200019 ||| m = m) :
    Steps m s (s.command t op ifc tag target pl body) := by
  refine State.act_steps s _ (fun c => ?_) (by rw [← hm, ← Nat.or_assoc]; rfl)
  exact Chip.command_keeps _ _ _ _ _ _ _ _ _ h (fun _ hb => by cases hb) (by rw [← hm, ← Nat.or_assoc]; rfl)

theorem State.access_steps {m : Nat} (s : State) (t : Nat) (i : Iface) (f : Chip → Chip) (h : ∀ c, Keeps m c (f c))
    (hm : 0x4000009 ||| m = m) : Steps m s (s.access t i f) :=
  State.event_steps s t _ (fun c => Keeps.onlyIf _ h _ c) hm

theorem execBudgetHit_keeps (a0) (a1) (s) : Steps 67109005 s (execBudgetHit a0 a1 s) := by
  unfold execBudgetHit
  refine State.event_steps _ _ _ ?_ rfl
  intro z1
  refine Keeps.trans ?_ (Chip.budgetHit_keeps ..) rfl
  exact Keeps.refl

theorem execHeadComputation_keeps (a0) (a1) (s) : Steps 67109005 s (execHeadComputation a0 a1 s) := by
  unfold execHeadComputation
  refine State.event_steps _ _ _ ?_ rfl
  intro z1
  refine Keeps.trans ?_ (Chip.headCompute_keeps ..) rfl
  exact Keeps.refl

theorem execSluCapCfgWrite_keeps (a0) (a1) (a2) (a3) (s) : Steps 67174413 s (execSluCapCfgWrite a0 a1 a2 a3 s) := by
  unfold execSluCapCfgWrite
  refine State.access_steps _ _ _ _ ?_ rfl
  intro z1
  refine KeepsO.getD ?_
  refine KeepsO.trans ?_ (Chip.capCfgWrite_keeps ..) rfl
  exact Keeps.refl

theorem execTriggerLatchRetry_keeps (a0) (a1) (s) : Steps 67174541 s (execTriggerLatchRetry a0 a1 s) := by
  unfold execTriggerLatchRetry
  refine State.event_steps _ _ _ ?_ rfl
  intro z1
  refine Keeps.trans ?_ (Chip.latchRetry_keeps ..) rfl
  exact Keeps.refl

theorem execAdcCmpWrite_keeps (a0) (a1) (a2) (a3) (s) : Steps 67239949 s (execAdcCmpWrite a0 a1 a2 a3 s) := by
  unfold execAdcCmpWrite
  refine State.access_steps _ _ _ _ ?_ rfl
  intro z1
  refine Keeps.trans ?_ (Chip.cmpWrite_keeps ..) rfl
  exact Keeps.refl

theorem execAdcConversionEnd_keeps (a0) (a1) (a2) (s) : Steps 100862093 s (execAdcConversionEnd a0 a1 a2 s) := by
  unfold execAdcConversionEnd
  refine State.event_steps _ _ _ ?_ rfl
  intro z1
  refine Keeps.trans ?_ (Chip.adcConversionEnd_keeps ..) rfl
  exact Keeps.refl

theorem execAdcRunStart_keeps (a0) (a1) (a2) (s) : Steps 67239949 s (execAdcRunStart a0 a1 a2 s) := by
  unfold execAdcRunStart
  refine State.event_steps _ _ _ ?_ rfl
  intro z1
  refine Keeps.trans ?_ (Chip.adcRunStart_keeps ..) rfl
  exact Keeps.refl

theorem execComparatorCrossing_keeps (a0) (a1) (a2) (s) : Steps 67239949 s (execComparatorCrossing a0 a1 a2 s) := by
  unfold execComparatorCrossing
  refine State.event_steps _ _ _ ?_ rfl
  intro z1
  refine Keeps.trans ?_ (Chip.comparator_keeps ..) rfl
  exact Keeps.refl

theorem execInjGo_keeps (a0) (a1) (a2) (s) : Steps 67239949 s (execInjGo a0 a1 a2 s) := by
  unfold execInjGo
  refine State.access_steps _ _ _ _ ?_ rfl
  intro z1
  refine Keeps.trans ?_ (Chip.adcTrigger_keeps ..) rfl
  exact Keeps.refl

theorem execRegGo_keeps (a0) (a1) (a2) (s) : Steps 67239949 s (execRegGo a0 a1 a2 s) := by
  unfold execRegGo
  refine State.access_steps _ _ _ _ ?_ rfl
  intro z1
  refine Keeps.trans ?_ (Chip.adcTrigger_keeps ..) rfl
  exact Keeps.refl

theorem execBsnCancel_keeps (a0) (a1) (a2) (a3) (a4) (s) : Steps 102775263 s (execBsnCancel a0 a1 a2 a3 a4 s) := by
  unfold execBsnCancel
  refine State.command_steps _ _ _ _ _ _ _ _ ?_ rfl
  intro z1 z2
  refine Keeps.trans ?_ (Chip.bsnCancel_keeps ..) rfl
  exact Keeps.refl

theorem execBsnMemRead_keeps (a0) (a1) (a2) (a3) (a4) (s) : Steps 69206041 s (execBsnMemRead a0 a1 a2 a3 a4 s) := by
  unfold execBsnMemRead
  refine State.command_steps _ _ _ _ _ _ _ _ ?_ rfl
  intro z1 z2
  extract_lets z3 z4
  refine Keeps.ite1 ?_ ?_
  · exact Keeps.refl
  · refine Keeps.ite1 ?_ ?_
    · exact Keeps.refl
    · exact Keeps.refl

theorem execBsnMemWrite_keeps (a0) (a1) (a2) (a3) (a4) (s) : Steps 69208089 s (execBsnMemWrite a0 a1 a2 a3 a4 s) := by
  unfold execBsnMemWrite
  refine State.command_steps _ _ _ _ _ _ _ _ ?_ rfl
  intro z1 z2
  refine Keeps.trans ?_ (Chip.bsnMemWrite_keeps ..) rfl
  exact Keeps.refl

theorem execBsnRdSelWrite_keeps (a0) (a1) (a2) (s) : Steps 67108893 s (execBsnRdSelWrite a0 a1 a2 s) := by
  unfold execBsnRdSelWrite
  refine State.access_steps _ _ _ _ ?_ rfl
  intro z1
  refine Keeps.trans ?_ (Chip.rdSelWrite_keeps ..) rfl
  exact Keeps.refl

theorem execBsnRdWinRead_keeps (a0) (a1) (a2) (s) : Steps 67117085 s (execBsnRdWinRead a0 a1 a2 s) := by
  unfold execBsnRdWinRead
  refine State.access_steps _ _ _ _ ?_ rfl
  intro z1
  refine Chip.answer_keeps _ _ ?_ rfl
  refine Keeps.trans ?_ (Chip.rdWinRead_keeps ..) rfl
  exact Keeps.refl

theorem execBsnRead_keeps (a0) (a1) (a2) (a3) (a4) (s) : Steps 69214237 s (execBsnRead a0 a1 a2 a3 a4 s) := by
  unfold execBsnRead
  refine State.command_steps _ _ _ _ _ _ _ _ ?_ rfl
  intro z1 z2
  refine Keeps.trans ?_ (Chip.bsnReadCmd_keeps ..) rfl
  exact Keeps.refl

theorem execBsnSubmit_keeps (a0) (a1) (a2) (a3) (a4) (s) : Steps 69214365 s (execBsnSubmit a0 a1 a2 a3 a4 s) := by
  unfold execBsnSubmit
  refine State.command_steps _ _ _ _ _ _ _ _ ?_ rfl
  intro z1 z2
  extract_lets z3
  have h4 : Keeps 69214365 z1 z3.1 := by
    refine Keeps.trans ?_ (Chip.bsnSubmit_keeps ..) rfl
    exact Keeps.refl
  clear_value z3
  exact h4

theorem execClockReturn_keeps (a0) (s) : Steps 134217725 s (execClockReturn a0 s) := by
  unfold execClockReturn
  refine State.act_steps _ _ ?_ rfl
  intro z1
  refine Keeps.trans ?_ (Chip.release_keeps ..) rfl
  refine Keeps.trans ?_ (Chip.setBoot_keeps _ _ (fun _ => rfl) (fun _ => rfl) (fun _ => rfl)) rfl
  refine Keeps.trans ?_ (Chip.at_keeps ..) rfl
  exact Keeps.refl

theorem execCorrSlew_keeps (a0) (s) : Steps 67109385 s (execCorrSlew a0 s) := by
  unfold execCorrSlew
  refine State.event_steps _ _ _ ?_ rfl
  intro z1
  refine Keeps.trans ?_ (Chip.corrSlew_keeps ..) rfl
  exact Keeps.refl

theorem execDelayReqInterval_keeps (a0) (a1) (s) : Steps 67109385 s (execDelayReqInterval a0 a1 s) := by
  unfold execDelayReqInterval
  refine State.event_steps _ _ _ ?_ rfl
  intro z1
  refine Keeps.trans ?_ (Chip.delayReq_keeps ..) rfl
  exact Keeps.refl

theorem execDelayRespReceived_keeps (a0) (a1) (a2) (s) : Steps 67109389 s (execDelayRespReceived a0 a1 a2 s) := by
  unfold execDelayRespReceived
  refine State.event_steps _ _ _ ?_ rfl
  intro z1
  refine Keeps.trans ?_ (Chip.delayResp_keeps ..) rfl
  exact Keeps.refl

theorem execFrameStamp_keeps (a0) (a1) (a2) (s) : Steps 67109389 s (execFrameStamp a0 a1 a2 s) := by
  unfold execFrameStamp
  refine State.event_steps _ _ _ ?_ rfl
  intro z1
  refine Keeps.trans ?_ (Chip.frameStamp_keeps ..) rfl
  exact Keeps.refl

theorem execHoldLimExpiry_keeps (a0) (a1) (s) : Steps 104858445 s (execHoldLimExpiry a0 a1 s) := by
  unfold execHoldLimExpiry
  refine State.event_steps _ _ _ ?_ rfl
  intro z1
  refine Keeps.ite ?_ ?_
  · refine Keeps.trans ?_ (Chip.tb3Evaluate_keeps ..) rfl
    refine Keeps.trans ?_ (Chip.raise_keeps ..) rfl
    exact Keeps.refl
  · exact Keeps.refl

theorem execPdelayReqReceived_keeps (a0) (a1) (a2) (s) : Steps 67108873 s (execPdelayReqReceived a0 a1 a2 s) := by
  unfold execPdelayReqReceived
  refine State.event_steps _ _ _ ?_ rfl
  intro z1
  refine Keeps.ite ?_ ?_
  · refine Keeps.trans ?_ (Chip.emit_keeps ..) rfl
    refine Keeps.trans ?_ (Chip.emit_keeps ..) rfl
    exact Keeps.refl
  · exact Keeps.refl

theorem execPtpSyncReceived_keeps (a0) (a1) (a2) (s) : Steps 104858445 s (execPtpSyncReceived a0 a1 a2 s) := by
  unfold execPtpSyncReceived
  refine State.event_steps _ _ _ ?_ rfl
  intro z1
  refine Keeps.trans ?_ (Chip.ptpSync_keeps ..) rfl
  exact Keeps.refl

theorem execRevertTimer_keeps (a0) (s) : Steps 104858445 s (execRevertTimer a0 s) := by
  unfold execRevertTimer
  refine State.event_steps _ _ _ ?_ rfl
  intro z1
  refine Keeps.trans ?_ (Chip.tb3Evaluate_keeps ..) rfl
  exact Keeps.refl

theorem execSnap_keeps (a0) (a1) (s) : Steps 67108877 s (execSnap a0 a1 s) := by
  unfold execSnap
  refine State.access_steps _ _ _ _ ?_ rfl
  intro z1
  refine Keeps.trans ?_ (Chip.snapBases_keeps ..) rfl
  exact Keeps.refl

theorem execSyncTimeout_keeps (a0) (a1) (s) : Steps 104858445 s (execSyncTimeout a0 a1 s) := by
  unfold execSyncTimeout
  refine State.event_steps _ _ _ ?_ rfl
  intro z1
  refine Keeps.ite ?_ ?_
  · refine Keeps.trans ?_ (Chip.tb3Evaluate_keeps ..) rfl
    refine Keeps.trans ?_ (Chip.setDomState_keeps ..) rfl
    exact Keeps.refl
  · exact Keeps.refl

theorem execTbRead_keeps (a0) (a1) (a2) (s) : Steps 67108889 s (execTbRead a0 a1 a2 s) := by
  unfold execTbRead
  refine State.access_steps _ _ _ _ ?_ rfl
  intro z1
  refine Chip.answer_keeps _ _ ?_ rfl
  refine Keeps.trans ?_ (Chip.readBase_keeps ..) rfl
  exact Keeps.refl

theorem execTimTallyW0Read_keeps (a0) (a1) (s) : Steps 67109401 s (execTimTallyW0Read a0 a1 s) := by
  unfold execTimTallyW0Read
  refine State.access_steps _ _ _ _ ?_ rfl
  intro z1
  refine Chip.answer_keeps _ _ ?_ rfl
  refine Keeps.trans ?_ (Chip.tallyRead_keeps ..) rfl
  exact Keeps.refl

theorem execTimUserCfgWrite_keeps (a0) (a1) (a2) (a3) (s) : Steps 67109389 s (execTimUserCfgWrite a0 a1 a2 a3 s) := by
  unfold execTimUserCfgWrite
  refine State.access_steps _ _ _ _ ?_ rfl
  intro z1
  refine Keeps.trans ?_ (Chip.writeUserCfg_keeps ..) rfl
  exact Keeps.refl

theorem execTimUserOfsHiWrite_keeps (a0) (a1) (a2) (a3) (s) : Steps 67109389 s (execTimUserOfsHiWrite a0 a1 a2 a3 s) := by
  unfold execTimUserOfsHiWrite
  refine State.access_steps _ _ _ _ ?_ rfl
  intro z1
  refine Keeps.trans ?_ (Chip.writeUserOfs_keeps ..) rfl
  exact Keeps.refl

theorem execArpReceived_keeps (a0) (a1) (a2) (s) : Steps 67108889 s (execArpReceived a0 a1 a2 s) := by
  unfold execArpReceived
  refine State.event_steps _ _ _ ?_ rfl
  intro z1
  refine Keeps.trans ?_ (Chip.arp_keeps ..) rfl
  exact Keeps.refl

theorem execArpRefresh_keeps (a0) (a1) (a2) (s) : Steps 67108889 s (execArpRefresh a0 a1 a2 s) := by
  unfold execArpRefresh
  refine State.event_steps _ _ _ ?_ rfl
  intro z1
  refine Keeps.trans ?_ (Chip.arpRefresh_keeps ..) rfl
  exact Keeps.refl

theorem execArpTimeout_keeps (a0) (a1) (s) : Steps 67108893 s (execArpTimeout a0 a1 s) := by
  unfold execArpTimeout
  refine State.event_steps _ _ _ ?_ rfl
  intro z1
  refine Keeps.trans ?_ (Chip.arpTimeout_keeps ..) rfl
  exact Keeps.refl

theorem execCmdStats_keeps (a0) (a1) (a2) (a3) (a4) (s) : Steps 69206041 s (execCmdStats a0 a1 a2 a3 a4 s) := by
  unfold execCmdStats
  refine State.act_steps _ _ ?_ rfl
  intro z1
  refine Keeps.trans ?_ (Chip.command_keeps (m := 69206041) _ _ _ _ _ _ _ _ _ ?_ (romSome ?_) rfl) rfl
  · exact Keeps.refl
  · intro z2 z3
    refine Keeps.trans ?_ (Chip.cmdStats_keeps ..) rfl
    exact Keeps.refl
  · intro z4 z5
    refine Keeps.trans ?_ (Chip.cmdStats_keeps ..) rfl
    exact Keeps.refl

theorem execCompletionPost_keeps (a0) (a1) (s) : Steps 100663325 s (execCompletionPost a0 a1 s) := by
  unfold execCompletionPost
  refine State.event_steps _ _ _ ?_ rfl
  intro z1
  refine Keeps.trans ?_ (Chip.completionPost_keeps ..) rfl
  exact Keeps.refl

theorem execCqHeadWrite_keeps (a0) (a1) (a2) (s) : Steps 67108893 s (execCqHeadWrite a0 a1 a2 s) := by
  unfold execCqHeadWrite
  refine State.access_steps _ _ _ _ ?_ rfl
  intro z1
  refine Keeps.trans ?_ (Chip.cqHead_keeps ..) rfl
  exact Keeps.refl

theorem execDomainStatus_keeps (a0) (a1) (a2) (a3) (a4) (s) : Steps 69206041 s (execDomainStatus a0 a1 a2 a3 a4 s) := by
  unfold execDomainStatus
  refine State.command_steps _ _ _ _ _ _ _ _ ?_ rfl
  intro z1 z2
  extract_lets z3
  exact Keeps.refl

theorem execEcho_keeps (a0) (a1) (a2) (a3) (a4) (s) : Steps 69206041 s (execEcho a0 a1 a2 a3 a4 s) := by
  unfold execEcho
  refine State.act_steps _ _ ?_ rfl
  intro z1
  refine Keeps.trans ?_ (Chip.command_keeps (m := 69206041) _ _ _ _ _ _ _ _ _ ?_ (romSome ?_) rfl) rfl
  · exact Keeps.refl
  · intro z2 z3
    refine Keeps.trans ?_ (Chip.echo_keeps ..) rfl
    exact Keeps.refl
  · intro z4 z5
    refine Keeps.trans ?_ (Chip.echo_keeps ..) rfl
    exact Keeps.refl

theorem execEthFrameReceived_keeps (a0) (a1) (a2) (s) : Steps 100663325 s (execEthFrameReceived a0 a1 a2 s) := by
  unfold execEthFrameReceived
  refine State.event_steps _ _ _ ?_ rfl
  intro z1
  refine Keeps.trans ?_ (Chip.ethFrame_keeps ..) rfl
  exact Keeps.refl

theorem execFrameSend_keeps (a0) (a1) (a2) (a3) (a4) (s) : Steps 69206553 s (execFrameSend a0 a1 a2 a3 a4 s) := by
  unfold execFrameSend
  refine State.command_steps _ _ _ _ _ _ _ _ ?_ rfl
  intro z1 z2
  refine Keeps.trans ?_ (Chip.frameSend_keeps ..) rfl
  exact Keeps.refl

theorem execMacLinkChange_keeps (a0) (a1) (a2) (s) : Steps 67108893 s (execMacLinkChange a0 a1 a2 s) := by
  unfold execMacLinkChange
  refine State.event_steps _ _ _ ?_ rfl
  intro z1
  extract_lets z2 z3 z4 z5
  have h6 : Keeps 67108893 z1 z3 := by
    refine Keeps.trans ?_ (Keeps.onlyIf (m := 67108893) _ ?_ _ _) rfl
    · exact Keeps.refl
    · intro z7
      refine Keeps.upd_hst ?_ rfl _ rfl rfl rfl rfl
      exact Keeps.refl
  clear_value z3
  refine Keeps.ite ?_ ?_
  · exact h6
  · refine Keeps.trans ?_ (Chip.raise_keeps ..) rfl
    refine Keeps.trans ?_ (Chip.setFlag_keeps ..) rfl
    exact h6

theorem execMdioDone_keeps (a0) (a1) (s) : Steps 67108893 s (execMdioDone a0 a1 s) := by
  unfold execMdioDone
  refine State.event_steps _ _ _ ?_ rfl
  intro z1
  refine Keeps.ite ?_ ?_
  · extract_lets z2 z3 z4
    have h5 : Keeps 67108893 z1 z4 := by
      refine Keeps.upd_hst ?_ rfl _ rfl rfl rfl rfl
      exact Keeps.refl
    clear_value z4
    refine Keeps.ite ?_ ?_
    · refine Keeps.trans ?_ (Chip.setFld_keeps ..) rfl
      exact h5
    · exact h5
  · exact Keeps.refl

theorem execMdioGo_keeps (a0) (a1) (a2) (s) : Steps 67108893 s (execMdioGo a0 a1 a2 s) := by
  unfold execMdioGo
  refine State.access_steps _ _ _ _ ?_ rfl
  intro z1
  refine Keeps.trans ?_ (Chip.mdioWrite_keeps ..) rfl
  exact Keeps.refl

theorem execPcieLinkUp_keeps (a0) (a1) (a2) (s) : Steps 67108877 s (execPcieLinkUp a0 a1 a2 s) := by
  unfold execPcieLinkUp
  refine State.act_steps _ _ ?_ rfl
  intro z1
  refine Keeps.trans ?_ (Chip.setFld_keeps ..) rfl
  refine Keeps.trans ?_ (Chip.setFld_keeps ..) rfl
  refine Keeps.trans ?_ (Chip.raise_keeps ..) rfl
  refine Keeps.trans ?_ (Chip.at_keeps ..) rfl
  exact Keeps.refl

theorem execPcieReset_keeps (a0) (a1) (s) : Steps 103121181 s (execPcieReset a0 a1 s) := by
  unfold execPcieReset
  refine State.act_steps _ _ ?_ rfl
  intro z1
  refine Keeps.trans ?_ (Chip.pcieReset_keeps ..) rfl
  refine Keeps.trans ?_ (Chip.at_keeps ..) rfl
  exact Keeps.refl

theorem execRingEnable_keeps (a0) (a1) (a2) (s) : Steps 103121181 s (execRingEnable a0 a1 a2 s) := by
  unfold execRingEnable
  refine State.event_steps _ _ _ ?_ rfl
  intro z1
  refine Keeps.trans ?_ (Keeps.onlyIf (m := 103121181) _ ?_ _ _) rfl
  · exact Keeps.refl
  · intro z2
    refine Keeps.trans ?_ (Chip.ringEnable_keeps ..) rfl
    exact Keeps.refl

theorem execSpiRead_keeps (a0) (a1) (s) : Steps 67108889 s (execSpiRead a0 a1 s) := by
  unfold execSpiRead
  refine State.act_steps _ _ ?_ rfl
  intro z1
  extract_lets z2
  have h3 : Keeps 67108889 z1 z2 := by
    refine Keeps.trans ?_ (Chip.at_keeps ..) rfl
    exact Keeps.refl
  clear_value z2
  refine Keeps.ite ?_ ?_
  · refine Keeps.trans ?_ (Chip.spiRead_keeps ..) rfl
    exact h3
  · exact h3

theorem execSpiStatus_keeps (a0) (s) : Steps 67108889 s (execSpiStatus a0 s) := by
  unfold execSpiStatus
  refine State.act_steps _ _ ?_ rfl
  intro z1
  extract_lets z2
  have h3 : Keeps 67108889 z1 z2 := by
    refine Keeps.trans ?_ (Chip.at_keeps ..) rfl
    exact Keeps.refl
  clear_value z2
  refine Keeps.ite ?_ ?_
  · refine Keeps.trans ?_ (Chip.spiStatus_keeps ..) rfl
    exact h3
  · exact h3

theorem execSpiWrite_keeps (a0) (a1) (s) : Steps 67108889 s (execSpiWrite a0 a1 s) := by
  unfold execSpiWrite
  refine State.act_steps _ _ ?_ rfl
  intro z1
  extract_lets z2
  have h3 : Keeps 67108889 z1 z2 := by
    refine Keeps.trans ?_ (Chip.at_keeps ..) rfl
    exact Keeps.refl
  clear_value z2
  refine Keeps.ite ?_ ?_
  · refine Keeps.trans ?_ (Chip.spiWrite_keeps ..) rfl
    exact h3
  · exact h3

theorem execSqDoorbell_keeps (a0) (a1) (a2) (s) : Steps 67108877 s (execSqDoorbell a0 a1 a2 s) := by
  unfold execSqDoorbell
  refine State.access_steps _ _ _ _ ?_ rfl
  intro z1
  refine Keeps.trans ?_ (Chip.doorbell_keeps ..) rfl
  exact Keeps.refl

theorem execSqFetch_keeps (a0) (a1) (s) : Steps 67108893 s (execSqFetch a0 a1 s) := by
  unfold execSqFetch
  refine State.event_steps _ _ _ ?_ rfl
  intro z1
  refine Keeps.trans ?_ (Chip.sqFetch_keeps ..) rfl
  exact Keeps.refl

theorem execTimeSnap_keeps (a0) (a1) (a2) (a3) (a4) (s) : Steps 69206045 s (execTimeSnap a0 a1 a2 a3 a4 s) := by
  unfold execTimeSnap
  refine State.command_steps _ _ _ _ _ _ _ _ ?_ rfl
  intro z1 z2
  extract_lets z3
  have h4 : Keeps 69206045 z1 z3 := by
    refine Keeps.trans ?_ (Chip.snapBases_keeps ..) rfl
    exact Keeps.refl
  clear_value z3
  exact h4

theorem execUdpCommandReceived_keeps (a0) (a1) (a2) (a3) (s) : Steps 67108893 s (execUdpCommandReceived a0 a1 a2 a3 s) := by
  unfold execUdpCommandReceived
  refine State.event_steps _ _ _ ?_ rfl
  intro z1
  refine Keeps.trans ?_ (Chip.udpCommand_keeps ..) rfl
  exact Keeps.refl

theorem execVecRearm_keeps (a0) (a1) (a2) (s) : Steps 67108873 s (execVecRearm a0 a1 a2 s) := by
  unfold execVecRearm
  refine State.access_steps _ _ _ _ ?_ rfl
  intro z1
  refine Keeps.trans ?_ (Chip.vecRearm_keeps ..) rfl
  exact Keeps.refl

theorem execFastDemand_keeps (a0) (a1) (a2) (s) : Steps 67764573 s (execFastDemand a0 a1 a2 s) := by
  unfold execFastDemand
  refine State.event_steps _ _ _ ?_ rfl
  intro z1
  refine Keeps.trans ?_ (Chip.fastDemand_keeps ..) rfl
  exact Keeps.refl

theorem execSafeInputSample_keeps (a0) (a1) (a2) (s) : Steps 67764573 s (execSafeInputSample a0 a1 a2 s) := by
  unfold execSafeInputSample
  refine State.event_steps _ _ _ ?_ rfl
  intro z1
  refine Keeps.trans ?_ (Chip.safeSample_keeps ..) rfl
  exact Keeps.refl

theorem execSs1Expiry_keeps (a0) (a1) (s) : Steps 67633165 s (execSs1Expiry a0 a1 s) := by
  unfold execSs1Expiry
  refine State.event_steps _ _ _ ?_ rfl
  intro z1
  refine Keeps.trans ?_ (Chip.ss1Expiry_keeps ..) rfl
  exact Keeps.refl

theorem execTestPulseEnd_keeps (a0) (a1) (a2) (a3) (a4) (s) : Steps 67764573 s (execTestPulseEnd a0 a1 a2 a3 a4 s) := by
  unfold execTestPulseEnd
  refine State.event_steps _ _ _ ?_ rfl
  intro z1
  refine Keeps.trans ?_ (Chip.tpEnd_keeps ..) rfl
  exact Keeps.refl

theorem execTestPulseStart_keeps (a0) (a1) (s) : Steps 67633161 s (execTestPulseStart a0 a1 s) := by
  unfold execTestPulseStart
  refine State.event_steps _ _ _ ?_ rfl
  intro z1
  refine Keeps.trans ?_ (Chip.tpStart_keeps ..) rfl
  exact Keeps.refl

theorem execWeirClockInterval_keeps (a0) (a1) (s) : Steps 134217727 s (execWeirClockInterval a0 a1 s) := by
  unfold execWeirClockInterval
  refine State.event_steps _ _ _ ?_ rfl
  intro z1
  refine Keeps.trans ?_ (Chip.clockInterval_keeps ..) rfl
  exact Keeps.refl

theorem execWeirInternalFault_keeps (a0) (a1) (s) : Steps 67764573 s (execWeirInternalFault a0 a1 s) := by
  unfold execWeirInternalFault
  refine State.event_steps _ _ _ ?_ rfl
  intro z1
  split
  · rename_i z2
    refine Keeps.ite ?_ ?_
    · exact Keeps.refl
    · refine Keeps.trans ?_ (Chip.weirRaise_keeps ..) rfl
      exact Keeps.refl
  · rename_i z3
    refine Keeps.ite ?_ ?_
    · exact Keeps.refl
    · refine Keeps.trans ?_ (Chip.weirRaise_keeps ..) rfl
      exact Keeps.refl
  · rename_i z4
    refine Keeps.ite ?_ ?_
    · exact Keeps.refl
    · refine Keeps.trans ?_ (Chip.weirRaise_keeps ..) rfl
      exact Keeps.refl

theorem execWeirStatus_keeps (a0) (a1) (a2) (a3) (a4) (s) : Steps 69206041 s (execWeirStatus a0 a1 a2 a3 a4 s) := by
  unfold execWeirStatus
  refine State.command_steps _ _ _ _ _ _ _ _ ?_ rfl
  intro z1 z2
  refine Keeps.trans ?_ (Chip.weirStatus_keeps ..) rfl
  exact Keeps.refl

theorem execWeirTickMissing_keeps (a0) (s) : Steps 67764573 s (execWeirTickMissing a0 s) := by
  unfold execWeirTickMissing
  refine State.event_steps _ _ _ ?_ rfl
  intro z1
  refine Keeps.ite ?_ ?_
  · exact Keeps.refl
  · refine Keeps.trans ?_ (Chip.weirRaise_keeps ..) rfl
    exact Keeps.refl

theorem execWeirTrip_keeps (a0) (a1) (a2) (a3) (a4) (s) : Steps 69861725 s (execWeirTrip a0 a1 a2 a3 a4 s) := by
  unfold execWeirTrip
  refine State.command_steps _ _ _ _ _ _ _ _ ?_ rfl
  intro z1 z2
  refine Keeps.trans ?_ (Chip.weirTripCmd_keeps ..) rfl
  exact Keeps.refl

theorem execSafetyDatagramReceived_keeps (a0) (a1) (a2) (s) : Steps 67764573 s (execSafetyDatagramReceived a0 a1 a2 s) := by
  unfold execSafetyDatagramReceived
  refine State.event_steps _ _ _ ?_ rfl
  intro z1
  refine Keeps.trans ?_ (Chip.safetyDatagram_keeps ..) rfl
  exact Keeps.refl

theorem execSafetyWatchdogExpiry_keeps (a0) (a1) (s) : Steps 67764573 s (execSafetyWatchdogExpiry a0 a1 s) := by
  unfold execSafetyWatchdogExpiry
  refine State.event_steps _ _ _ ?_ rfl
  intro z1
  refine Keeps.trans ?_ (Chip.connWatchdog_keeps ..) rfl
  exact Keeps.refl

theorem execChannelSample_keeps (a0) (a1) (s) : Steps 67109903 s (execChannelSample a0 a1 s) := by
  unfold execChannelSample
  refine State.event_steps _ _ _ ?_ rfl
  intro z1
  refine Keeps.trans ?_ (Chip.localSample_keeps ..) rfl
  exact Keeps.refl

theorem execIdxArm_keeps (a0) (a1) (a2) (s) : Steps 67109901 s (execIdxArm a0 a1 a2 s) := by
  unfold execIdxArm
  refine State.access_steps _ _ _ _ ?_ rfl
  intro z1
  refine KeepsO.getD ?_
  refine KeepsO.trans ?_ (Chip.posWrite_keeps ..) rfl
  exact Keeps.refl

theorem execPdOutputEdge_keeps (a0) (a1) (s) : Steps 67109897 s (execPdOutputEdge a0 a1 s) := by
  unfold execPdOutputEdge
  refine State.event_steps _ _ _ ?_ rfl
  intro z1
  refine Keeps.trans ?_ (Chip.pdEdge_keeps ..) rfl
  exact Keeps.refl

theorem execPosChCfgWrite_keeps (a0) (a1) (a2) (a3) (s) : Steps 67109901 s (execPosChCfgWrite a0 a1 a2 a3 s) := by
  unfold execPosChCfgWrite
  refine State.access_steps _ _ _ _ ?_ rfl
  intro z1
  refine KeepsO.getD ?_
  refine KeepsO.trans ?_ (Chip.posWrite_keeps ..) rfl
  exact Keeps.refl

theorem execPosPdCfgWrite_keeps (a0) (a1) (a2) (a3) (s) : Steps 67109901 s (execPosPdCfgWrite a0 a1 a2 a3 s) := by
  unfold execPosPdCfgWrite
  refine State.access_steps _ _ _ _ ?_ rfl
  intro z1
  refine KeepsO.getD ?_
  refine KeepsO.trans ?_ (Chip.posWrite_keeps ..) rfl
  exact Keeps.refl

theorem execSerialTimeout_keeps (a0) (a1) (s) : Steps 67109903 s (execSerialTimeout a0 a1 s) := by
  unfold execSerialTimeout
  refine State.event_steps _ _ _ ?_ rfl
  intro z1
  refine Keeps.trans ?_ (Chip.serTimeout_keeps ..) rfl
  exact Keeps.refl

theorem execSerialTransferStart_keeps (a0) (a1) (s) : Steps 67109897 s (execSerialTransferStart a0 a1 s) := by
  unfold execSerialTransferStart
  refine State.event_steps _ _ _ ?_ rfl
  intro z1
  refine Keeps.trans ?_ (Chip.serStart_keeps ..) rfl
  exact Keeps.refl

theorem execAbzEdge_keeps (a0) (a1) (a2) (a3) (a4) (s) : Steps 106976525 s (execAbzEdge a0 a1 a2 a3 a4 s) := by
  unfold execAbzEdge
  refine State.event_steps _ _ _ ?_ rfl
  intro z1
  refine Keeps.trans ?_ (Chip.abzEdge_keeps ..) rfl
  exact Keeps.refl

theorem execChainAlign_keeps (a0) (a1) (a2) (a3) (a4) (s) : Steps 69207069 s (execChainAlign a0 a1 a2 a3 a4 s) := by
  unfold execChainAlign
  refine State.command_steps _ _ _ _ _ _ _ _ ?_ rfl
  intro z1 z2
  refine Keeps.trans ?_ (Chip.chainAlign_keeps ..) rfl
  exact Keeps.refl

theorem execChainageCountRise_keeps (a0) (s) : Steps 67109901 s (execChainageCountRise a0 s) := by
  unfold execChainageCountRise
  refine State.event_steps _ _ _ ?_ rfl
  intro z1
  refine Keeps.trans ?_ (Chip.chainRise_keeps ..) rfl
  exact Keeps.refl

theorem execChnStandstill_keeps (a0) (s) : Steps 100664333 s (execChnStandstill a0 s) := by
  unfold execChnStandstill
  refine State.event_steps _ _ _ ?_ rfl
  intro z1
  refine Keeps.trans ?_ (Chip.chainStill_keeps ..) rfl
  exact Keeps.refl

theorem execIndexEvent_keeps (a0) (a1) (s) : Steps 100664397 s (execIndexEvent a0 a1 s) := by
  unfold execIndexEvent
  refine State.event_steps _ _ _ ?_ rfl
  intro z1
  refine Keeps.trans ?_ (Chip.indexEvent_keeps ..) rfl
  exact Keeps.refl

theorem execPosChnCfgWrite_keeps (a0) (a1) (a2) (a3) (s) : Steps 100664333 s (execPosChnCfgWrite a0 a1 a2 a3 s) := by
  unfold execPosChnCfgWrite
  refine State.access_steps _ _ _ _ ?_ rfl
  intro z1
  refine KeepsO.getD ?_
  refine KeepsO.trans ?_ (Chip.chnWrite_keeps ..) rfl
  exact Keeps.refl

theorem execSerialReadingCheck_keeps (a0) (a1) (a2) (s) : Steps 106976527 s (execSerialReadingCheck a0 a1 a2 s) := by
  unfold execSerialReadingCheck
  refine State.event_steps _ _ _ ?_ rfl
  intro z1
  refine Keeps.trans ?_ (Chip.serCheckBelt_keeps ..) rfl
  exact Keeps.refl

theorem execMrgRst_keeps (a0) (a1) (a2) (s) : Steps 67108877 s (execMrgRst a0 a1 a2 s) := by
  unfold execMrgRst
  refine State.access_steps _ _ _ _ ?_ rfl
  intro z1
  refine Keeps.trans ?_ (Chip.mrgRst_keeps ..) rfl
  exact Keeps.refl

theorem execPollSend_keeps (a0) (a1) (a2) (s) : Steps 67371021 s (execPollSend a0 a1 a2 s) := by
  unfold execPollSend
  refine State.event_steps _ _ _ ?_ rfl
  intro z1
  refine Keeps.trans ?_ (Chip.pollSend_keeps ..) rfl
  exact Keeps.refl

theorem execReferenceReceived_keeps (a0) (a1) (a2) (s) : Steps 67371085 s (execReferenceReceived a0 a1 a2 s) := by
  unfold execReferenceReceived
  refine State.event_steps _ _ _ ?_ rfl
  intro z1
  refine Keeps.trans ?_ (Chip.reference_keeps ..) rfl
  exact Keeps.refl

theorem execReplyReceived_keeps (a0) (a1) (a2) (s) : Steps 107894111 s (execReplyReceived a0 a1 a2 s) := by
  unfold execReplyReceived
  refine State.event_steps _ _ _ ?_ rfl
  intro z1
  refine Keeps.trans ?_ (Chip.reply__keeps ..) rfl
  exact Keeps.refl

theorem execReplyWindowClose_keeps (a0) (a1) (s) : Steps 67372047 s (execReplyWindowClose a0 a1 s) := by
  unfold execReplyWindowClose
  refine State.event_steps _ _ _ ?_ rfl
  intro z1
  refine Keeps.trans ?_ (Chip.windowClose_keeps ..) rfl
  exact Keeps.refl

theorem execBringupStepLimit_keeps (a0) (a1) (s) : Steps 67371085 s (execBringupStepLimit a0 a1 s) := by
  unfold execBringupStepLimit
  refine State.event_steps _ _ _ ?_ rfl
  intro z1
  refine Keeps.trans ?_ (Chip.stepAtLimit_keeps ..) rfl
  exact Keeps.refl

theorem execEnumWindowEnd_keeps (a0) (a1) (a2) (s) : Steps 67371085 s (execEnumWindowEnd a0 a1 a2 s) := by
  unfold execEnumWindowEnd
  refine State.event_steps _ _ _ ?_ rfl
  intro z1
  refine Keeps.trans ?_ (Chip.enumEnd_keeps ..) rfl
  exact Keeps.refl

theorem execMgmtRspReceived_keeps (a0) (a1) (a2) (s) : Steps 100925533 s (execMgmtRspReceived a0 a1 a2 s) := by
  unfold execMgmtRspReceived
  refine State.event_steps _ _ _ ?_ rfl
  intro z1
  refine Keeps.trans ?_ (Chip.mgmtRsp_keeps ..) rfl
  exact Keeps.refl

theorem execMgmtSend_keeps (a0) (a1) (a2) (s) : Steps 67371021 s (execMgmtSend a0 a1 a2 s) := by
  unfold execMgmtSend
  refine State.event_steps _ _ _ ?_ rfl
  intro z1
  refine Keeps.trans ?_ (Chip.mgmtSend_keeps ..) rfl
  exact Keeps.refl

theorem execMgmtWindowClose_keeps (a0) (a1) (s) : Steps 67371101 s (execMgmtWindowClose a0 a1 s) := by
  unfold execMgmtWindowClose
  refine State.event_steps _ _ _ ?_ rfl
  intro z1
  refine Keeps.trans ?_ (Chip.mgmtClose_keeps ..) rfl
  exact Keeps.refl

theorem execReceiverDown_keeps (a0) (a1) (a2) (s) : Steps 67371021 s (execReceiverDown a0 a1 a2 s) := by
  unfold execReceiverDown
  refine State.event_steps _ _ _ ?_ rfl
  intro z1
  refine Keeps.trans ?_ (Chip.receiverDown_keeps ..) rfl
  exact Keeps.refl

theorem execReceiverUp_keeps (a0) (a1) (s) : Steps 67371085 s (execReceiverUp a0 a1 s) := by
  unfold execReceiverUp
  refine State.event_steps _ _ _ ?_ rfl
  intro z1
  refine Keeps.trans ?_ (Chip.receiverUp_keeps ..) rfl
  exact Keeps.refl

theorem execTowBargeInfo_keeps (a0) (a1) (a2) (a3) (a4) (s) : Steps 69206041 s (execTowBargeInfo a0 a1 a2 a3 a4 s) := by
  unfold execTowBargeInfo
  refine State.command_steps _ _ _ _ _ _ _ _ ?_ rfl
  intro z1 z2
  refine Keeps.trans ?_ (Chip.towInfo_keeps ..) rfl
  exact Keeps.refl

theorem execTowMgmt_keeps (a0) (a1) (a2) (a3) (a4) (s) : Steps 69468185 s (execTowMgmt a0 a1 a2 a3 a4 s) := by
  unfold execTowMgmt
  refine State.command_steps _ _ _ _ _ _ _ _ ?_ rfl
  intro z1 z2
  refine Keeps.trans ?_ (Chip.towMgmt_keeps ..) rfl
  exact Keeps.refl

theorem execTowPortCtlBringup_keeps (a0) (a1) (a2) (s) : Steps 67371101 s (execTowPortCtlBringup a0 a1 a2 s) := by
  unfold execTowPortCtlBringup
  refine State.access_steps _ _ _ _ ?_ rfl
  intro z1
  refine Keeps.trans ?_ (Chip.bringWrite_keeps ..) rfl
  exact Keeps.refl

theorem execBankLoad_keeps (a0) (a1) (a2) (a3) (a4) (s) : Steps 69208089 s (execBankLoad a0 a1 a2 a3 a4 s) := by
  unfold execBankLoad
  refine State.command_steps _ _ _ _ _ _ _ _ ?_ rfl
  intro z1 z2
  refine Keeps.trans ?_ (Chip.bankLoad_keeps ..) rfl
  exact Keeps.refl

theorem execBankPointerCheckDone_keeps (a0) (a1) (a2) (s) : Steps 67115021 s (execBankPointerCheckDone a0 a1 a2 s) := by
  unfold execBankPointerCheckDone
  refine State.event_steps _ _ _ ?_ rfl
  intro z1
  refine Keeps.trans ?_ (Chip.pointerCheckDone_keeps ..) rfl
  exact Keeps.refl

theorem execClearFlags_keeps (a0) (a1) (a2) (a3) (a4) (s) : Steps 69210137 s (execClearFlags a0 a1 a2 a3 a4 s) := by
  unfold execClearFlags
  refine State.command_steps _ _ _ _ _ _ _ _ ?_ rfl
  intro z1 z2
  refine Keeps.trans ?_ (Chip.clearFlags_keeps ..) rfl
  exact Keeps.refl

theorem execFlightHold_keeps (a0) (a1) (a2) (a3) (a4) (s) : Steps 69210137 s (execFlightHold a0 a1 a2 a3 a4 s) := by
  unfold execFlightHold
  refine State.command_steps _ _ _ _ _ _ _ _ ?_ rfl
  intro z1 z2
  refine Keeps.trans ?_ (Chip.flightHold_keeps ..) rfl
  exact Keeps.refl

theorem execFlightResume_keeps (a0) (a1) (a2) (a3) (a4) (s) : Steps 69210137 s (execFlightResume a0 a1 a2 a3 a4 s) := by
  unfold execFlightResume
  refine State.command_steps _ _ _ _ _ _ _ _ ?_ rfl
  intro z1 z2
  refine Keeps.trans ?_ (Chip.flightResume_keeps ..) rfl
  exact Keeps.refl

theorem execFlightStart_keeps (a0) (a1) (a2) (a3) (a4) (s) : Steps 69210141 s (execFlightStart a0 a1 a2 a3 a4 s) := by
  unfold execFlightStart
  refine State.command_steps _ _ _ _ _ _ _ _ ?_ rfl
  intro z1 z2
  refine Keeps.trans ?_ (Chip.flightStart_keeps ..) rfl
  exact Keeps.refl

theorem execFlightStatus_keeps (a0) (a1) (a2) (a3) (a4) (s) : Steps 69206041 s (execFlightStatus a0 a1 a2 a3 a4 s) := by
  unfold execFlightStatus
  refine State.command_steps _ _ _ _ _ _ _ _ ?_ rfl
  intro z1 z2
  refine Keeps.trans ?_ (Chip.flightStatus_keeps ..) rfl
  exact Keeps.refl

theorem execFlightStop_keeps (a0) (a1) (a2) (a3) (a4) (s) : Steps 69210141 s (execFlightStop a0 a1 a2 a3 a4 s) := by
  unfold execFlightStop
  refine State.command_steps _ _ _ _ _ _ _ _ ?_ rfl
  intro z1 z2
  refine Keeps.trans ?_ (Chip.flightStop_keeps ..) rfl
  exact Keeps.refl

theorem execFlightUpdateComplete_keeps (a0) (a1) (a2) (s) : Steps 103365071 s (execFlightUpdateComplete a0 a1 a2 s) := by
  unfold execFlightUpdateComplete
  refine State.event_steps _ _ _ ?_ rfl
  intro z1
  refine Keeps.trans ?_ (Chip.updateComplete_keeps ..) rfl
  exact Keeps.refl

theorem execFlightUpdateStart_keeps (a0) (a1) (s) : Steps 67113037 s (execFlightUpdateStart a0 a1 s) := by
  unfold execFlightUpdateStart
  refine State.event_steps _ _ _ ?_ rfl
  intro z1
  refine Keeps.trans ?_ (Chip.updateTurn_keeps ..) rfl
  exact Keeps.refl

theorem execReseedRetry_keeps (a0) (a1) (s) : Steps 67121293 s (execReseedRetry a0 a1 s) := by
  unfold execReseedRetry
  refine State.event_steps _ _ _ ?_ rfl
  intro z1
  split
  · rename_i z2 z3 z4
    refine Keeps.ite ?_ ?_
    · refine Keeps.trans ?_ (Chip.reseedOffer_keeps ..) rfl
      exact Keeps.refl
    · exact Keeps.refl
  · rename_i z5 z6
    exact Keeps.refl

theorem execReseedTimeout_keeps (a0) (s) : Steps 100678095 s (execReseedTimeout a0 s) := by
  unfold execReseedTimeout
  refine State.event_steps _ _ _ ?_ rfl
  intro z1
  refine Keeps.trans ?_ (Chip.reseedTimeout_keeps ..) rfl
  exact Keeps.refl

theorem execSelectBank_keeps (a0) (a1) (a2) (a3) (a4) (s) : Steps 102775263 s (execSelectBank a0 a1 a2 a3 a4 s) := by
  unfold execSelectBank
  refine State.command_steps _ _ _ _ _ _ _ _ ?_ rfl
  intro z1 z2
  refine Keeps.trans ?_ (Chip.selectBank_keeps ..) rfl
  exact Keeps.refl

theorem execTrajAppend_keeps (a0) (a1) (a2) (a3) (a4) (s) : Steps 69210137 s (execTrajAppend a0 a1 a2 a3 a4 s) := by
  unfold execTrajAppend
  refine State.command_steps _ _ _ _ _ _ _ _ ?_ rfl
  intro z1 z2
  refine Keeps.trans ?_ (Chip.trajAppend_keeps ..) rfl
  exact Keeps.refl

theorem execTrajFlush_keeps (a0) (a1) (a2) (a3) (a4) (s) : Steps 69210137 s (execTrajFlush a0 a1 a2 a3 a4 s) := by
  unfold execTrajFlush
  refine State.command_steps _ _ _ _ _ _ _ _ ?_ rfl
  intro z1 z2
  refine Keeps.trans ?_ (Chip.trajFlush_keeps ..) rfl
  exact Keeps.refl

theorem execFinishEnd_keeps (a0) (s) : Steps 68159503 s (execFinishEnd a0 s) := by
  unfold execFinishEnd
  refine State.event_steps _ _ _ ?_ rfl
  intro z1
  refine Keeps.trans ?_ (Chip.gauEnd_keeps ..) rfl
  exact Keeps.refl

theorem execGauArm_keeps (a0) (a1) (a2) (a3) (a4) (s) : Steps 70254621 s (execGauArm a0 a1 a2 a3 a4 s) := by
  unfold execGauArm
  refine State.command_steps _ _ _ _ _ _ _ _ ?_ rfl
  intro z1 z2
  extract_lets z3
  have h4 : Keeps 70254621 z1 z3.1 := by
    refine Keeps.trans ?_ (Chip.gauArm_keeps ..) rfl
    exact Keeps.refl
  clear_value z3
  refine Keeps.ite1 ?_ ?_
  · exact h4
  · exact Keeps.refl

theorem execGauCtlArm_keeps (a0) (a1) (s) : Steps 101712013 s (execGauCtlArm a0 a1 s) := by
  unfold execGauCtlArm
  refine State.access_steps _ _ _ _ ?_ rfl
  intro z1
  refine Keeps.trans ?_ (Chip.gauCtl_keeps ..) rfl
  exact Keeps.refl

theorem execGauCtlForce_keeps (a0) (a1) (s) : Steps 101712013 s (execGauCtlForce a0 a1 s) := by
  unfold execGauCtlForce
  refine State.access_steps _ _ _ _ ?_ rfl
  intro z1
  refine Keeps.trans ?_ (Chip.gauCtl_keeps ..) rfl
  exact Keeps.refl

theorem execGauCtlStop_keeps (a0) (a1) (s) : Steps 101712013 s (execGauCtlStop a0 a1 s) := by
  unfold execGauCtlStop
  refine State.access_steps _ _ _ _ ?_ rfl
  intro z1
  refine Keeps.trans ?_ (Chip.gauCtl_keeps ..) rfl
  exact Keeps.refl

theorem execGauForce_keeps (a0) (a1) (a2) (a3) (a4) (s) : Steps 70254621 s (execGauForce a0 a1 a2 a3 a4 s) := by
  unfold execGauForce
  refine State.command_steps _ _ _ _ _ _ _ _ ?_ rfl
  intro z1 z2
  dsimp only
  refine Keeps.trans ?_ (Chip.gauTrigger_keeps ..) rfl
  exact Keeps.refl

theorem execGauRead_keeps (a0) (a1) (a2) (a3) (a4) (s) : Steps 69206109 s (execGauRead a0 a1 a2 a3 a4 s) := by
  unfold execGauRead
  refine State.command_steps _ _ _ _ _ _ _ _ ?_ rfl
  intro z1 z2
  extract_lets z3 z4 z5
  have h6 : Keeps 69206109 z1 z5.1 := by
    refine Keeps.trans ?_ (Chip.gauReadUe_keeps ..) rfl
    exact Keeps.refl
  clear_value z5
  refine Keeps.ite1 ?_ ?_
  · exact Keeps.refl
  · refine Keeps.ite1 ?_ ?_
    · exact Keeps.refl
    · exact h6

theorem execGauRelWrite_keeps (a0) (a1) (a2) (s) : Steps 68157453 s (execGauRelWrite a0 a1 a2 s) := by
  unfold execGauRelWrite
  refine State.access_steps _ _ _ _ ?_ rfl
  intro z1
  refine Keeps.trans ?_ (Chip.gauRelease_keeps ..) rfl
  exact Keeps.refl

theorem execGauRelease_keeps (a0) (a1) (a2) (a3) (a4) (s) : Steps 70254621 s (execGauRelease a0 a1 a2 a3 a4 s) := by
  unfold execGauRelease
  refine State.command_steps _ _ _ _ _ _ _ _ ?_ rfl
  intro z1 z2
  extract_lets z3
  have h4 : Keeps 70254621 z1 z3.1 := by
    refine Keeps.trans ?_ (Chip.gauRelease_keeps ..) rfl
    exact Keeps.refl
  clear_value z3
  refine Keeps.ite1 ?_ ?_
  · exact h4
  · exact Keeps.refl

theorem execGauStop_keeps (a0) (a1) (a2) (a3) (a4) (s) : Steps 103809181 s (execGauStop a0 a1 a2 a3 a4 s) := by
  unfold execGauStop
  refine State.command_steps _ _ _ _ _ _ _ _ ?_ rfl
  intro z1 z2
  dsimp only
  refine Keeps.trans ?_ (Chip.gauStop_keeps ..) rfl
  exact Keeps.refl

theorem execGaugeSample_keeps (a0) (s) : Steps 101714061 s (execGaugeSample a0 s) := by
  unfold execGaugeSample
  refine State.event_steps _ _ _ ?_ rfl
  intro z1
  refine Keeps.trans ?_ (Chip.gauSample_keeps ..) rfl
  exact Keeps.refl

theorem execMemoryReserved_keeps (a0) (s) : Steps 68157453 s (execMemoryReserved a0 s) := by
  unfold execMemoryReserved
  refine State.event_steps _ _ _ ?_ rfl
  intro z1
  refine Keeps.trans ?_ (Chip.gauBegin_keeps ..) rfl
  exact Keeps.refl

theorem execCancelTick_keeps (a0) (s) : Steps 103976989 s (execCancelTick a0 s) := by
  unfold execCancelTick
  refine State.event_steps _ _ _ ?_ rfl
  intro z1
  refine Keeps.trans ?_ (Chip.cancelTick_keeps ..) rfl
  exact Keeps.refl

theorem execManifestAdd_keeps (a0) (a1) (a2) (a3) (a4) (s) : Steps 69238815 s (execManifestAdd a0 a1 a2 a3 a4 s) := by
  unfold execManifestAdd
  refine State.command_steps _ _ _ _ _ _ _ _ ?_ rfl
  intro z1 z2
  refine Keeps.trans ?_ (Chip.manAdd_keeps ..) rfl
  exact Keeps.refl

theorem execManifestArm_keeps (a0) (s) : Steps 103976973 s (execManifestArm a0 s) := by
  unfold execManifestArm
  refine State.event_steps _ _ _ ?_ rfl
  intro z1
  refine Keeps.ite ?_ ?_
  · refine Keeps.trans ?_ (Chip.manArm_keeps ..) rfl
    exact Keeps.refl
  · exact Keeps.refl

theorem execManifestCancel_keeps (a0) (a1) (a2) (a3) (a4) (s) : Steps 69238809 s (execManifestCancel a0 a1 a2 a3 a4 s) := by
  unfold execManifestCancel
  refine State.command_steps _ _ _ _ _ _ _ _ ?_ rfl
  intro z1 z2
  refine Keeps.trans ?_ (Chip.manCancel_keeps ..) rfl
  exact Keeps.refl

theorem execManifestFire_keeps (a0) (s) : Steps 103976973 s (execManifestFire a0 s) := by
  unfold execManifestFire
  refine State.event_steps _ _ _ ?_ rfl
  intro z1
  refine Keeps.ite ?_ ?_
  · refine Keeps.trans ?_ (Chip.manFireDue_keeps ..) rfl
    exact Keeps.refl
  · exact Keeps.refl

theorem execManifestList_keeps (a0) (a1) (a2) (a3) (a4) (s) : Steps 69206041 s (execManifestList a0 a1 a2 a3 a4 s) := by
  unfold execManifestList
  refine State.command_steps _ _ _ _ _ _ _ _ ?_ rfl
  intro z1 z2
  refine Keeps.trans ?_ (Chip.manList_keeps ..) rfl
  exact Keeps.refl

theorem execOutPulseEnd_keeps (a0) (s) : Steps 67141641 s (execOutPulseEnd a0 s) := by
  unfold execOutPulseEnd
  refine State.event_steps _ _ _ ?_ rfl
  intro z1
  refine Keeps.trans ?_ (Chip.pulseEnd_keeps ..) rfl
  exact Keeps.refl

theorem execAckReceived_keeps (a0) (a1) (a2) (s) : Steps 102760477 s (execAckReceived a0 a1 a2 s) := by
  unfold execAckReceived
  refine State.event_steps _ _ _ ?_ rfl
  intro z1
  refine Keeps.trans ?_ (Chip.onFrame_keeps (m := 102760477) _ _ _ ?_ rfl) rfl
  · exact Keeps.refl
  · intro z2
    refine Keeps.trans ?_ (Chip.ackReceived_keeps ..) rfl
    refine Keeps.trans ?_ (Chip.joinHears_keeps ..) rfl
    exact Keeps.refl

theorem execNakReceived_keeps (a0) (a1) (a2) (s) : Steps 69206029 s (execNakReceived a0 a1 a2 s) := by
  unfold execNakReceived
  refine State.event_steps _ _ _ ?_ rfl
  intro z1
  refine Keeps.trans ?_ (Chip.onFrame_keeps (m := 69206029) _ _ _ ?_ rfl) rfl
  · exact Keeps.refl
  · intro z2
    refine Keeps.trans ?_ (Chip.nakReceived_keeps ..) rfl
    refine Keeps.trans ?_ (Chip.joinHears_keeps ..) rfl
    exact Keeps.refl

theorem execPlanBuildComplete_keeps (a0) (s) : Steps 67135629 s (execPlanBuildComplete a0 s) := by
  unfold execPlanBuildComplete
  refine State.event_steps _ _ _ ?_ rfl
  intro z1
  refine Keeps.trans ?_ (Chip.planBuilt_keeps ..) rfl
  exact Keeps.refl

theorem execJobComplete_keeps (a0) (a1) (a2) (s) : Steps 100694495 s (execJobComplete a0 a1 a2 s) := by
  unfold execJobComplete
  refine State.event_steps _ _ _ ?_ rfl
  intro z1
  refine Keeps.trans ?_ (Chip.planAfter_keeps ..) rfl
  refine Keeps.trans ?_ (Chip.jobComplete_keeps ..) rfl
  exact Keeps.refl

theorem execJobDeadline_keeps (a0) (s) : Steps 100694495 s (execJobDeadline a0 s) := by
  unfold execJobDeadline
  refine State.event_steps _ _ _ ?_ rfl
  intro z1
  refine Keeps.trans ?_ (Chip.planAfter_keeps ..) rfl
  refine Keeps.trans ?_ (Chip.jobAtDeadline_keeps ..) rfl
  exact Keeps.refl

theorem execQpIterationEnd_keeps (a0) (a1) (s) : Steps 100694493 s (execQpIterationEnd a0 a1 s) := by
  unfold execQpIterationEnd
  refine State.event_steps _ _ _ ?_ rfl
  intro z1
  refine Keeps.trans ?_ (Chip.planAfter_keeps ..) rfl
  refine Keeps.trans ?_ (Chip.qpIterEnd_keeps ..) rfl
  exact Keeps.refl

theorem execTaskClear_keeps (a0) (a1) (a2) (a3) (a4) (s) : Steps 69222425 s (execTaskClear a0 a1 a2 a3 a4 s) := by
  unfold execTaskClear
  refine State.command_steps _ _ _ _ _ _ _ _ ?_ rfl
  intro z1 z2
  dsimp only
  refine Keeps.trans ?_ (Chip.setPlan_keeps ..) rfl
  exact Keeps.refl

theorem execTaskSet_keeps (a0) (a1) (a2) (a3) (a4) (s) : Steps 102776861 s (execTaskSet a0 a1 a2 a3 a4 s) := by
  unfold execTaskSet
  refine State.act_steps _ _ ?_ rfl
  intro z1
  extract_lets z2
  have h3 : Keeps 102776861 z1 z2 := by
    refine Keeps.trans ?_ (Chip.command_keeps (m := 102776861) _ _ _ _ _ _ _ _ _ ?_ romNone rfl) rfl
    · exact Keeps.refl
    · intro z4 z5
      refine Keeps.trans ?_ (Chip.taskSet_keeps ..) rfl
      exact Keeps.refl
  clear_value z2
  refine Keeps.ite ?_ ?_
  · refine Keeps.trans ?_ (Chip.ikRun_keeps ..) rfl
    exact h3
  · exact h3

theorem execConfirmWindowExpiry_keeps (a0) (s) : Steps 67633165 s (execConfirmWindowExpiry a0 s) := by
  unfold execConfirmWindowExpiry
  refine State.event_steps _ _ _ ?_ rfl
  intro z1
  refine Keeps.trans ?_ (Chip.confirmExpiry_keeps ..) rfl
  exact Keeps.refl

theorem execPsetCheckComplete_keeps (a0) (s) : Steps 101187613 s (execPsetCheckComplete a0 s) := by
  unfold execPsetCheckComplete
  refine State.event_steps _ _ _ ?_ rfl
  intro z1
  refine Keeps.trans ?_ (Chip.psetChecked_keeps ..) rfl
  exact Keeps.refl

theorem execPsetCrcRecheck_keeps (a0) (a1) (a2) (s) : Steps 67764573 s (execPsetCrcRecheck a0 a1 a2 s) := by
  unfold execPsetCrcRecheck
  refine State.event_steps _ _ _ ?_ rfl
  intro z1
  refine Keeps.ite ?_ ?_
  · refine Keeps.trans ?_ (Chip.weirRaise_keeps ..) rfl
    exact Keeps.refl
  · exact Keeps.refl

theorem execPsetFlashWriteDone_keeps (a0) (a1) (s) : Steps 101187645 s (execPsetFlashWriteDone a0 a1 s) := by
  unfold execPsetFlashWriteDone
  refine State.event_steps _ _ _ ?_ rfl
  intro z1
  refine Keeps.trans ?_ (Chip.psetWritten_keeps ..) rfl
  exact Keeps.refl

theorem execWeirPsetConfirm_keeps (a0) (a1) (a2) (a3) (a4) (s) : Steps 69730333 s (execWeirPsetConfirm a0 a1 a2 a3 a4 s) := by
  unfold execWeirPsetConfirm
  refine State.command_steps _ _ _ _ _ _ _ _ ?_ rfl
  intro z1 z2
  refine Keeps.trans ?_ (Chip.psetConfirm_keeps ..) rfl
  exact Keeps.refl

theorem execWeirPsetLoad_keeps (a0) (a1) (a2) (a3) (a4) (s) : Steps 69730333 s (execWeirPsetLoad a0 a1 a2 a3 a4 s) := by
  unfold execWeirPsetLoad
  refine State.command_steps _ _ _ _ _ _ _ _ ?_ rfl
  intro z1 z2
  refine Keeps.trans ?_ (Chip.psetLoad_keeps ..) rfl
  exact Keeps.refl

theorem execLedgerFrameReceived_keeps (a0) (a1) (s) : Steps 103808511 s (execLedgerFrameReceived a0 a1 s) := by
  unfold execLedgerFrameReceived
  refine State.event_steps _ _ _ ?_ rfl
  intro z1
  refine Keeps.trans ?_ (Chip.onFrame_keeps (m := 103808511) _ _ _ ?_ rfl) rfl
  · exact Keeps.refl
  · intro z2
    refine Keeps.trans ?_ (Chip.ledgerFrame_keeps ..) rfl
    refine Keeps.trans ?_ (Chip.joinHears_keeps ..) rfl
    exact Keeps.refl

theorem execAqueductLinkDown_keeps (a0) (a1) (s) : Steps 69206029 s (execAqueductLinkDown a0 a1 s) := by
  unfold execAqueductLinkDown
  refine State.event_steps _ _ _ ?_ rfl
  intro z1
  refine Keeps.ite ?_ ?_
  · extract_lets z2 z3
    have h4 : Keeps 69206029 z1 z2 := by
      refine Keeps.trans ?_ (Chip.setFld_keeps ..) rfl
      refine Keeps.trans ?_ (Chip.setFld_keeps ..) rfl
      refine Keeps.trans ?_ (Chip.setFld_keeps ..) rfl
      exact Keeps.refl
    clear_value z2
    have h5 : Keeps 69206029 z1 z3 := by
      refine Keeps.trans ?_ (Chip.count_keeps ..) rfl
      refine Keeps.trans ?_ (Chip.raise_keeps ..) rfl
      exact h4
    clear_value z3
    refine Keeps.trans ?_ (Chip.resyncFail_keeps ..) rfl
    refine Keeps.trans ?_ (Chip.setAqu_keeps ..) rfl
    exact h5
  · exact Keeps.refl

theorem execAqueductLinkUp_keeps (a0) (s) : Steps 69206029 s (execAqueductLinkUp a0 s) := by
  unfold execAqueductLinkUp
  refine State.event_steps _ _ _ ?_ rfl
  intro z1
  extract_lets z2
  have h3 : Keeps 69206029 z1 z2 := by
    refine Keeps.ite ?_ ?_
    · exact Keeps.refl
    · refine Keeps.trans ?_ (Chip.setAqu_keeps ..) rfl
      exact Keeps.refl
  clear_value z2
  refine Keeps.trans ?_ (Chip.setFld_keeps ..) rfl
  refine Keeps.trans ?_ (Chip.setFld_keeps ..) rfl
  refine Keeps.trans ?_ (Chip.setFld_keeps ..) rfl
  exact h3

theorem execBistPassComplete_keeps (a0) (a1) (s) : Steps 69206025 s (execBistPassComplete a0 a1 s) := by
  unfold execBistPassComplete
  refine State.event_steps _ _ _ ?_ rfl
  intro z1
  refine Keeps.ite ?_ ?_
  · refine Keeps.trans ?_ (Chip.setAqu_keeps ..) rfl
    exact Keeps.refl
  · exact Keeps.refl

theorem execBulkReceived_keeps (a0) (a1) (s) : Steps 103808511 s (execBulkReceived a0 a1 s) := by
  unfold execBulkReceived
  refine State.event_steps _ _ _ ?_ rfl
  intro z1
  extract_lets z2
  refine Keeps.trans ?_ (Chip.onFrame_keeps (m := 103808511) _ _ _ ?_ rfl) rfl
  · exact Keeps.refl
  · intro z3
    refine Keeps.trans ?_ (Chip.bulkReceived_keeps ..) rfl
    exact Keeps.refl

theorem execFailReceived_keeps (a0) (a1) (a2) (s) : Steps 69206029 s (execFailReceived a0 a1 a2 s) := by
  unfold execFailReceived
  refine State.event_steps _ _ _ ?_ rfl
  intro z1
  refine Keeps.trans ?_ (Chip.onFrame_keeps (m := 69206029) _ _ _ ?_ rfl) rfl
  · exact Keeps.refl
  · intro z2
    refine Keeps.trans ?_ (Chip.setAqu_keeps ..) rfl
    refine Keeps.trans ?_ (Chip.joinHears_keeps ..) rfl
    refine Keeps.trans ?_ (Chip.raise_keeps ..) rfl
    exact Keeps.refl

theorem execHbChk_keeps (a0) (s) : Steps 69206029 s (execHbChk a0 s) := by
  unfold execHbChk
  refine State.event_steps _ _ _ ?_ rfl
  intro z1
  refine Keeps.trans ?_ (Chip.hbChk_keeps ..) rfl
  exact Keeps.refl

theorem execHealthReceived_keeps (a0) (a1) (a2) (s) : Steps 69206029 s (execHealthReceived a0 a1 a2 s) := by
  unfold execHealthReceived
  refine State.event_steps _ _ _ ?_ rfl
  intro z1
  refine Keeps.trans ?_ (Chip.onFrame_keeps (m := 69206029) _ _ _ ?_ rfl) rfl
  · exact Keeps.refl
  · intro z2
    refine Keeps.ite ?_ ?_
    · refine Keeps.trans ?_ (Chip.raise_keeps ..) rfl
      refine Keeps.trans ?_ (Keeps.each (m := 69206029) _ ?_ _ _) rfl
      · refine Keeps.trans ?_ (Chip.joinHears_keeps ..) rfl
        exact Keeps.refl
      · intro z3 z4
        refine Keeps.trans ?_ (Chip.setReg_keeps ..) rfl
        exact Keeps.refl
    · refine Keeps.trans ?_ (Chip.joinHears_keeps ..) rfl
      exact Keeps.refl

theorem execHeartbeatReceived_keeps (a0) (a1) (s) : Steps 69206029 s (execHeartbeatReceived a0 a1 s) := by
  unfold execHeartbeatReceived
  refine State.event_steps _ _ _ ?_ rfl
  intro z1
  refine Keeps.trans ?_ (Chip.onFrame_keeps (m := 69206029) _ _ _ ?_ rfl) rfl
  · exact Keeps.refl
  · intro z2
    refine Keeps.trans ?_ (Chip.heartbeatReceived_keeps ..) rfl
    exact Keeps.refl

theorem execHelloReceived_keeps (a0) (a1) (s) : Steps 102760477 s (execHelloReceived a0 a1 s) := by
  unfold execHelloReceived
  refine State.event_steps _ _ _ ?_ rfl
  intro z1
  refine Keeps.trans ?_ (Chip.onFrame_keeps (m := 102760477) _ _ _ ?_ rfl) rfl
  · exact Keeps.refl
  · intro z2
    refine Keeps.trans ?_ (Chip.helloReceived_keeps ..) rfl
    exact Keeps.refl

theorem execHelloSend_keeps (a0) (s) : Steps 69206025 s (execHelloSend a0 s) := by
  unfold execHelloSend
  refine State.event_steps _ _ _ ?_ rfl
  intro z1
  refine Keeps.trans ?_ (Chip.helloSend_keeps ..) rfl
  exact Keeps.refl

theorem execJoinEnd_keeps (a0) (s) : Steps 69206281 s (execJoinEnd a0 s) := by
  unfold execJoinEnd
  refine State.event_steps _ _ _ ?_ rfl
  intro z1
  refine Keeps.trans ?_ (Chip.joinEnd_keeps ..) rfl
  exact Keeps.refl

theorem execRefCheck_keeps (a0) (s) : Steps 69206025 s (execRefCheck a0 s) := by
  unfold execRefCheck
  refine State.event_steps _ _ _ ?_ rfl
  intro z1
  refine Keeps.trans ?_ (Chip.refCheck_keeps ..) rfl
  exact Keeps.refl

theorem execResyncRestart_keeps (a0) (s) : Steps 69206029 s (execResyncRestart a0 s) := by
  unfold execResyncRestart
  refine State.event_steps _ _ _ ?_ rfl
  intro z1
  refine Keeps.trans ?_ (Chip.resyncRestart_keeps ..) rfl
  exact Keeps.refl

theorem execSyncReceived_keeps (a0) (a1) (s) : Steps 69206029 s (execSyncReceived a0 a1 s) := by
  unfold execSyncReceived
  refine State.event_steps _ _ _ ?_ rfl
  intro z1
  refine Keeps.trans ?_ (Chip.onFrame_keeps (m := 69206029) _ _ _ ?_ rfl) rfl
  · exact Keeps.refl
  · intro z2
    refine Keeps.trans ?_ (Chip.syncReceived_keeps ..) rfl
    exact Keeps.refl

theorem execTwinHandover_keeps (a0) (a1) (a2) (a3) (a4) (s) : Steps 69206041 s (execTwinHandover a0 a1 a2 a3 a4 s) := by
  unfold execTwinHandover
  refine State.command_steps _ _ _ _ _ _ _ _ ?_ rfl
  intro z1 z2
  refine Keeps.trans ?_ (Chip.twinHandover_keeps ..) rfl
  exact Keeps.refl

theorem execTwinStatus_keeps (a0) (a1) (a2) (a3) (a4) (s) : Steps 69206041 s (execTwinStatus a0 a1 a2 a3 a4 s) := by
  unfold execTwinStatus
  refine State.command_steps _ _ _ _ _ _ _ _ ?_ rfl
  intro z1 z2
  refine Keeps.trans ?_ (Chip.twinStatus_keeps ..) rfl
  exact Keeps.refl

theorem execFastStatusUpdate_keeps (s) : Steps 67108889 s (execFastStatusUpdate s) := by
  unfold execFastStatusUpdate
  refine State.event_steps _ _ _ ?_ rfl
  intro z1
  refine Keeps.trans ?_ (Chip.fastUpdate_keeps ..) rfl
  exact Keeps.refl

theorem execFlushTimeout_keeps (a0) (a1) (s) : Steps 100663309 s (execFlushTimeout a0 a1 s) := by
  unfold execFlushTimeout
  refine State.event_steps _ _ _ ?_ rfl
  intro z1
  refine Keeps.trans ?_ (Chip.ladFlushTimeout_keeps ..) rfl
  exact Keeps.refl

theorem execLadingDataLoRead_keeps (a0) (a1) (a2) (s) : Steps 100663321 s (execLadingDataLoRead a0 a1 a2 s) := by
  unfold execLadingDataLoRead
  refine State.access_steps _ _ _ _ ?_ rfl
  intro z1
  refine Chip.answer_keeps _ _ ?_ rfl
  refine Keeps.trans ?_ (Chip.ladRead_keeps ..) rfl
  exact Keeps.refl

theorem execLadingFlush_keeps (a0) (a1) (a2) (s) : Steps 100663305 s (execLadingFlush a0 a1 a2 s) := by
  unfold execLadingFlush
  refine State.access_steps _ _ _ _ ?_ rfl
  intro z1
  refine Keeps.trans ?_ (Chip.ladFlush_keeps ..) rfl
  exact Keeps.refl

theorem execRcFieldRead_keeps (a0) (a1) (a2) (s) : Steps 100672029 s (execRcFieldRead a0 a1 a2 s) := by
  unfold execRcFieldRead
  refine State.access_steps _ _ _ _ ?_ rfl
  intro z1
  refine Keeps.trans ?_ (Chip.readRequest_keeps ..) rfl
  exact Keeps.refl

theorem execWideValueLoRead_keeps (a0) (a1) (a2) (s) : Steps 100672029 s (execWideValueLoRead a0 a1 a2 s) := by
  unfold execWideValueLoRead
  refine State.access_steps _ _ _ _ ?_ rfl
  intro z1
  refine Keeps.trans ?_ (Chip.readRequest_keeps ..) rfl
  exact Keeps.refl

theorem execCycleMarkFire_keeps (a0) (s) : Steps 101908877 s (execCycleMarkFire a0 s) := by
  unfold execCycleMarkFire
  refine State.event_steps _ _ _ ?_ rfl
  intro z1
  refine Keeps.trans ?_ (Chip.markFire_keeps ..) rfl
  exact Keeps.refl

theorem execPhaseCorrection_keeps (a0) (s) : Steps 73400585 s (execPhaseCorrection a0 s) := by
  unfold execPhaseCorrection
  refine State.act_steps _ _ ?_ rfl
  intro z1
  extract_lets z2
  have h3 : Keeps 73400585 z1 z2 := by
    refine Keeps.trans ?_ (Chip.at_keeps ..) rfl
    exact Keeps.refl
  clear_value z2
  refine Keeps.ite ?_ ?_
  · exact h3
  · refine Keeps.trans ?_ (Chip.phaseCorrection_keeps ..) rfl
    exact h3

theorem execSetState_keeps (a0) (a1) (a2) (a3) (a4) (s) : Steps 69206297 s (execSetState a0 a1 a2 a3 a4 s) := by
  unfold execSetState
  refine State.command_steps _ _ _ _ _ _ _ _ ?_ rfl
  intro z1 z2
  refine Keeps.trans ?_ (Chip.setStateCmd_keeps ..) rfl
  exact Keeps.refl

theorem execSysCmarkWrite_keeps (a0) (a1) (a2) (a3) (s) : Steps 67108877 s (execSysCmarkWrite a0 a1 a2 a3 s) := by
  unfold execSysCmarkWrite
  refine State.access_steps _ _ _ _ ?_ rfl
  intro z1
  refine Keeps.trans ?_ (Chip.cmarkWrite_keeps ..) rfl
  exact Keeps.refl

theorem execSysPoundCfgWrite_keeps (a0) (a1) (a2) (a3) (s) : Steps 71303437 s (execSysPoundCfgWrite a0 a1 a2 a3 s) := by
  unfold execSysPoundCfgWrite
  refine State.access_steps _ _ _ _ ?_ rfl
  intro z1
  refine Keeps.ite ?_ ?_
  · refine Keeps.trans ?_ (Chip.poundCfgWrite_keeps ..) rfl
    exact Keeps.refl
  · refine Keeps.trans ?_ (Chip.poundOffsetWrite_keeps ..) rfl
    exact Keeps.refl

theorem execLogFreeze_keeps (a0) (a1) (a2) (a3) (a4) (s) : Steps 69206237 s (execLogFreeze a0 a1 a2 a3 a4 s) := by
  unfold execLogFreeze
  refine State.command_steps _ _ _ _ _ _ _ _ ?_ rfl
  intro z1 z2
  refine Keeps.trans ?_ (Chip.logFreezeCmd_keeps ..) rfl
  exact Keeps.refl

theorem execLogRead_keeps (a0) (a1) (a2) (a3) (a4) (s) : Steps 69206041 s (execLogRead a0 a1 a2 a3 a4 s) := by
  unfold execLogRead
  refine State.command_steps _ _ _ _ _ _ _ _ ?_ rfl
  intro z1 z2
  refine Keeps.trans ?_ (Chip.logRead_keeps ..) rfl
  exact Keeps.refl

theorem execLogRelease_keeps (a0) (a1) (a2) (a3) (a4) (s) : Steps 69206141 s (execLogRelease a0 a1 a2 a3 a4 s) := by
  unfold execLogRelease
  refine State.command_steps _ _ _ _ _ _ _ _ ?_ rfl
  intro z1 z2
  refine Keeps.trans ?_ (Chip.logRelease_keeps ..) rfl
  exact Keeps.refl

theorem execLogSave_keeps (a0) (a1) (a2) (a3) (a4) (s) : Steps 69206237 s (execLogSave a0 a1 a2 a3 a4 s) := by
  unfold execLogSave
  refine State.command_steps _ _ _ _ _ _ _ _ ?_ rfl
  intro z1 z2
  refine Keeps.trans ?_ (Chip.logSaveCmd_keeps ..) rfl
  exact Keeps.refl

theorem execLogSaveComplete_keeps (a0) (a1) (s) : Steps 100663549 s (execLogSaveComplete a0 a1 s) := by
  unfold execLogSaveComplete
  refine State.event_steps _ _ _ ?_ rfl
  intro z1
  refine Keeps.trans ?_ (Chip.saveComplete_keeps ..) rfl
  exact Keeps.refl

theorem execLogSlotComplete_keeps (a0) (s) : Steps 67109069 s (execLogSlotComplete a0 s) := by
  unfold execLogSlotComplete
  refine State.event_steps _ _ _ ?_ rfl
  intro z1
  refine Keeps.trans ?_ (Chip.slotComplete_keeps ..) rfl
  exact Keeps.refl

theorem execLogSnapshotProbe_keeps (s) : Steps 67108937 s (execLogSnapshotProbe s) := by
  unfold execLogSnapshotProbe
  refine State.event_steps _ _ _ ?_ rfl
  intro z1
  refine Keeps.trans ?_ (Chip.snapProbe_keeps ..) rfl
  exact Keeps.refl

theorem execLogStatus_keeps (a0) (a1) (a2) (a3) (a4) (s) : Steps 69206041 s (execLogStatus a0 a1 a2 a3 a4 s) := by
  unfold execLogStatus
  refine State.command_steps _ _ _ _ _ _ _ _ ?_ rfl
  intro z1 z2
  refine Keeps.trans ?_ (Chip.logStatusCmd_keeps ..) rfl
  exact Keeps.refl

theorem execSpareEraseDone_keeps (a0) (s) : Steps 67109101 s (execSpareEraseDone a0 s) := by
  unfold execSpareEraseDone
  refine State.event_steps _ _ _ ?_ rfl
  intro z1
  refine Keeps.trans ?_ (Chip.spareErased_keeps ..) rfl
  exact Keeps.refl

theorem execBootVerifyComplete_keeps (a0) (a1) (s) : Steps 76021997 s (execBootVerifyComplete a0 a1 s) := by
  unfold execBootVerifyComplete
  refine State.act_steps _ _ ?_ rfl
  intro z1
  refine Keeps.trans ?_ (Chip.bootVerify_keeps ..) rfl
  refine Keeps.trans ?_ (Chip.at_keeps ..) rfl
  exact Keeps.refl

theorem execBrownout_keeps (a0) (s) : Steps 134217725 s (execBrownout a0 s) := by
  unfold execBrownout
  refine State.act_steps _ _ ?_ rfl
  intro z1
  refine Keeps.trans ?_ (Chip.hold_keeps ..) rfl
  refine Keeps.trans ?_ (Chip.setBoot_keeps _ _ (fun _ => rfl) (fun _ => rfl) (fun _ => rfl)) rfl
  refine Keeps.trans ?_ (Chip.powerFail_keeps ..) rfl
  refine Keeps.trans ?_ (Chip.at_keeps ..) rfl
  exact Keeps.refl

theorem execJtagInstruction_keeps (a0) (a1) (s) : Steps 67108905 s (execJtagInstruction a0 a1 s) := by
  unfold execJtagInstruction
  refine State.act_steps _ _ ?_ rfl
  intro z1
  refine Keeps.trans ?_ (Chip.pinControl_keeps ..) rfl
  refine Keeps.trans ?_ (Chip.setBoot_keeps _ _ (fun _ => rfl) (fun _ => rfl) (fun _ => rfl)) rfl
  refine Keeps.trans ?_ (Chip.at_keeps ..) rfl
  exact Keeps.refl

theorem execLockstepError_keeps (a0) (a1) (s) : Steps 113246205 s (execLockstepError a0 a1 s) := by
  unfold execLockstepError
  refine State.event_steps _ _ _ ?_ rfl
  intro z1
  refine Keeps.trans ?_ (Chip.pairFail_keeps ..) rfl
  exact Keeps.refl

theorem execReset_keeps (a0) (a1) (a2) (a3) (a4) (s) : Steps 113246205 s (execReset a0 a1 a2 a3 a4 s) := by
  unfold execReset
  refine State.act_steps _ _ ?_ rfl
  intro z1
  extract_lets z2 z3
  have h4 : Keeps 113246205 z1 z2 := by
    refine Keeps.trans ?_ (Chip.at_keeps ..) rfl
    exact Keeps.refl
  clear_value z2
  have h5 : Keeps 113246205 z1 z3.1 := by
    refine Keeps.trans ?_ (Chip.takeIntake_keeps ..) rfl
    exact h4
  clear_value z3
  refine Keeps.ite ?_ ?_
  · split
    · rename_i z6 z7 z8
      refine Keeps.ite ?_ ?_
      · refine Keeps.trans ?_ (Chip.intakeFlush_keeps ..) rfl
        refine Keeps.trans ?_ (Chip.resetRun_keeps ..) rfl
        exact h5
      · exact h4
    · rename_i z9 z10
      exact h4
  · refine Keeps.trans ?_ (Chip.command_keeps (m := 113246205) _ _ _ _ _ _ _ _ _ ?_ romNone rfl) rfl
    · exact h4
    · intro z11 z12
      refine Keeps.trans ?_ (Chip.resetCmd_keeps ..) rfl
      exact Keeps.refl

theorem execResetN_keeps (a0) (a1) (s) : Steps 134217725 s (execResetN a0 a1 s) := by
  unfold execResetN
  refine State.act_steps _ _ ?_ rfl
  intro z1
  refine Keeps.trans ?_ (Chip.resetPin_keeps ..) rfl
  refine Keeps.trans ?_ (Chip.at_keeps ..) rfl
  exact Keeps.refl

theorem execSramScrub_keeps (a0) (a1) (a2) (a3) (s) : Steps 69206093 s (execSramScrub a0 a1 a2 a3 s) := by
  unfold execSramScrub
  refine State.event_steps _ _ _ ?_ rfl
  intro z1
  refine Keeps.trans ?_ (Chip.scrub_keeps ..) rfl
  exact Keeps.refl

theorem execTestmodeChange_keeps (a0) (a1) (s) : Steps 134217727 s (execTestmodeChange a0 a1 s) := by
  unfold execTestmodeChange
  refine State.act_steps _ _ ?_ rfl
  intro z1
  refine Keeps.trans ?_ (Chip.testPin_keeps ..) rfl
  refine Keeps.trans ?_ (Chip.at_keeps ..) rfl
  exact Keeps.refl

theorem execThermalHold_keeps (a0) (s) : Steps 134217725 s (execThermalHold a0 s) := by
  unfold execThermalHold
  refine State.act_steps _ _ ?_ rfl
  intro z1
  refine Keeps.trans ?_ (Chip.hold_keeps ..) rfl
  refine Keeps.trans ?_ (Chip.setBoot_keeps _ _ (fun _ => rfl) (fun _ => rfl) (fun _ => rfl)) rfl
  refine Keeps.trans ?_ (Chip.powerFail_keeps ..) rfl
  refine Keeps.trans ?_ (Chip.at_keeps ..) rfl
  exact Keeps.refl

theorem execThermalHoldEnd_keeps (a0) (s) : Steps 134217725 s (execThermalHoldEnd a0 s) := by
  unfold execThermalHoldEnd
  refine State.act_steps _ _ ?_ rfl
  intro z1
  refine Keeps.trans ?_ (Chip.release_keeps ..) rfl
  refine Keeps.trans ?_ (Chip.setBoot_keeps _ _ (fun _ => rfl) (fun _ => rfl) (fun _ => rfl)) rfl
  refine Keeps.trans ?_ (Chip.at_keeps ..) rfl
  exact Keeps.refl

theorem execVinRetLoss_keeps (a0) (s) : Steps 67108973 s (execVinRetLoss a0 s) := by
  unfold execVinRetLoss
  refine State.act_steps _ _ ?_ rfl
  intro z1
  refine Keeps.trans ?_ (Chip.vinRetLoss_keeps ..) rfl
  refine Keeps.trans ?_ (Chip.at_keeps ..) rfl
  exact Keeps.refl

theorem execVinRise_keeps (a0) (s) : Steps 134217725 s (execVinRise a0 s) := by
  unfold execVinRise
  refine State.act_steps _ _ ?_ rfl
  intro z1
  refine Keeps.trans ?_ (Chip.vinRise_keeps ..) rfl
  refine Keeps.trans ?_ (Chip.at_keeps ..) rfl
  exact Keeps.refl

theorem execWatchdogExpiry_keeps (a0) (a1) (s) : Steps 113246205 s (execWatchdogExpiry a0 a1 s) := by
  unfold execWatchdogExpiry
  refine State.event_steps _ _ _ ?_ rfl
  intro z1
  refine Keeps.trans ?_ (Chip.pairFail_keeps ..) rfl
  exact Keeps.refl

theorem execBar0Write_keeps (a0) (a1) (a2) (s) : Steps 108496861 s (execBar0Write a0 a1 a2 s) := by
  unfold execBar0Write
  refine State.access_steps _ _ _ _ ?_ rfl
  intro z1
  refine Keeps.ite ?_ ?_
  · refine Keeps.trans ?_ (Chip.writeRegs_keeps ..) rfl
    exact Keeps.refl
  · refine Keeps.trans ?_ (Chip.accErr_keeps ..) rfl
    exact Keeps.refl

theorem execBar2Access_keeps (a0) (a1) (a2) (a3) (a4) (s) : Steps 67108941 s (execBar2Access a0 a1 a2 a3 a4 s) := by
  unfold execBar2Access
  refine State.access_steps _ _ _ _ ?_ rfl
  intro z1
  refine Keeps.trans ?_ (Chip.bar2_keeps ..) rfl
  exact Keeps.refl

theorem execBudgetSet_keeps (a0) (a1) (a2) (a3) (a4) (s) : Steps 69206045 s (execBudgetSet a0 a1 a2 a3 a4 s) := by
  unfold execBudgetSet
  refine State.command_steps _ _ _ _ _ _ _ _ ?_ rfl
  intro z1 z2
  refine Keeps.trans ?_ (Chip.budgetSet_keeps ..) rfl
  exact Keeps.refl

theorem execGetInfo_keeps (a0) (a1) (a2) (a3) (a4) (s) : Steps 69206041 s (execGetInfo a0 a1 a2 a3 a4 s) := by
  unfold execGetInfo
  refine State.act_steps _ _ ?_ rfl
  intro z1
  refine Keeps.trans ?_ (Chip.command_keeps (m := 69206041) _ _ _ _ _ _ _ _ _ ?_ (romSome ?_) rfl) rfl
  · exact Keeps.refl
  · intro z2 z3
    exact Keeps.refl
  · intro z4 z5
    exact Keeps.refl

theorem execHeadStatus_keeps (a0) (a1) (a2) (a3) (a4) (s) : Steps 69206041 s (execHeadStatus a0 a1 a2 a3 a4 s) := by
  unfold execHeadStatus
  refine State.command_steps _ _ _ _ _ _ _ _ ?_ rfl
  intro z1 z2
  exact Keeps.refl

theorem execLkpStats_keeps (a0) (a1) (a2) (a3) (a4) (s) : Steps 69206041 s (execLkpStats a0 a1 a2 a3 a4 s) := by
  unfold execLkpStats
  refine State.command_steps _ _ _ _ _ _ _ _ ?_ rfl
  intro z1 z2
  refine Keeps.trans ?_ (Chip.lkpStats_keeps ..) rfl
  exact Keeps.refl

theorem execRegRead_keeps (a0) (a1) (a2) (a3) (a4) (s) : Steps 102769181 s (execRegRead a0 a1 a2 a3 a4 s) := by
  unfold execRegRead
  refine State.act_steps _ _ ?_ rfl
  intro z1
  refine Keeps.trans ?_ (Chip.command_keeps (m := 102769181) _ _ _ _ _ _ _ _ _ ?_ (romSome ?_) rfl) rfl
  · exact Keeps.refl
  · intro z2 z3
    refine Keeps.trans ?_ (Chip.regRead_keeps ..) rfl
    exact Keeps.refl
  · intro z4 z5
    refine Keeps.trans ?_ (Chip.regReadRom_keeps ..) rfl
    exact Keeps.refl

theorem execRegWrite_keeps (a0) (a1) (a2) (a3) (a4) (s) : Steps 108496861 s (execRegWrite a0 a1 a2 a3 a4 s) := by
  unfold execRegWrite
  refine State.command_steps _ _ _ _ _ _ _ _ ?_ rfl
  intro z1 z2
  refine Keeps.trans ?_ (Chip.regWrite_keeps ..) rfl
  exact Keeps.refl

theorem execChainDeadline_keeps (a0) (s) : Steps 100743631 s (execChainDeadline a0 s) := by
  unfold execChainDeadline
  refine State.event_steps _ _ _ ?_ rfl
  intro z1
  refine Keeps.trans ?_ (Chip.chainDeadline_keeps ..) rfl
  exact Keeps.refl

theorem execSluAbort_keeps (a0) (a1) (a2) (a3) (a4) (s) : Steps 102840799 s (execSluAbort a0 a1 a2 a3 a4 s) := by
  unfold execSluAbort
  refine State.command_steps _ _ _ _ _ _ _ _ ?_ rfl
  intro z1 z2
  refine Keeps.trans ?_ (Chip.sluAbort_keeps ..) rfl
  exact Keeps.refl

theorem execSluChainLoad_keeps (a0) (a1) (a2) (a3) (a4) (s) : Steps 69208089 s (execSluChainLoad a0 a1 a2 a3 a4 s) := by
  unfold execSluChainLoad
  refine State.command_steps _ _ _ _ _ _ _ _ ?_ rfl
  intro z1 z2
  refine Keeps.trans ?_ (Chip.chainLoad_keeps ..) rfl
  exact Keeps.refl

theorem execSluMemApply_keeps (a0) (a1) (s) : Steps 67176473 s (execSluMemApply a0 a1 s) := by
  unfold execSluMemApply
  refine State.event_steps _ _ _ ?_ rfl
  intro z1
  refine Keeps.trans ?_ (Keeps.each (m := 67176473) _ ?_ _ _) rfl
  · exact Keeps.refl
  · intro z2 z3
    refine Keeps.trans ?_ (Chip.memApply1_keeps ..) rfl
    exact Keeps.refl

theorem execSluMemRead_keeps (a0) (a1) (a2) (a3) (a4) (s) : Steps 69206041 s (execSluMemRead a0 a1 a2 a3 a4 s) := by
  unfold execSluMemRead
  refine State.command_steps _ _ _ _ _ _ _ _ ?_ rfl
  intro z1 z2
  refine Keeps.trans ?_ (Chip.sluMemRead_keeps ..) rfl
  exact Keeps.refl

theorem execSluMemWrite_keeps (a0) (a1) (a2) (a3) (a4) (s) : Steps 69273625 s (execSluMemWrite a0 a1 a2 a3 a4 s) := by
  unfold execSluMemWrite
  refine State.command_steps _ _ _ _ _ _ _ _ ?_ rfl
  intro z1 z2
  refine Keeps.trans ?_ (Chip.sluMemWrite_keeps ..) rfl
  exact Keeps.refl

theorem execSluPickLoad_keeps (a0) (a1) (a2) (a3) (a4) (s) : Steps 69208089 s (execSluPickLoad a0 a1 a2 a3 a4 s) := by
  unfold execSluPickLoad
  refine State.command_steps _ _ _ _ _ _ _ _ ?_ rfl
  intro z1 z2
  refine Keeps.trans ?_ (Chip.pickLoad_keeps ..) rfl
  exact Keeps.refl

theorem execSluTrigger_keeps (a0) (a1) (a2) (a3) (a4) (s) : Steps 69271709 s (execSluTrigger a0 a1 a2 a3 a4 s) := by
  unfold execSluTrigger
  refine State.command_steps _ _ _ _ _ _ _ _ ?_ rfl
  intro z1 z2
  refine Keeps.trans ?_ (Chip.sluTrigger_keeps ..) rfl
  exact Keeps.refl

theorem execSluiceStageEnd_keeps (a0) (a1) (a2) (s) : Steps 100743631 s (execSluiceStageEnd a0 a1 a2 s) := by
  unfold execSluiceStageEnd
  refine State.event_steps _ _ _ ?_ rfl
  intro z1
  refine Keeps.trans ?_ (Chip.stageEnd_keeps ..) rfl
  exact Keeps.refl

theorem execCfgRead_keeps (a0) (a1) (a2) (a3) (a4) (s) : Steps 69206041 s (execCfgRead a0 a1 a2 a3 a4 s) := by
  unfold execCfgRead
  refine State.command_steps _ _ _ _ _ _ _ _ ?_ rfl
  intro z1 z2
  refine Keeps.trans ?_ (Chip.cfgRead_keeps ..) rfl
  exact Keeps.refl

theorem execCfgWrite_keeps (a0) (a1) (a2) (a3) (a4) (s) : Steps 69212189 s (execCfgWrite a0 a1 a2 a3 a4 s) := by
  unfold execCfgWrite
  refine State.command_steps _ _ _ _ _ _ _ _ ?_ rfl
  intro z1 z2
  refine Keeps.trans ?_ (Chip.cfgWrite_keeps ..) rfl
  exact Keeps.refl

theorem execImgBegin_keeps (a0) (a1) (a2) (a3) (a4) (s) : Steps 69206041 s (execImgBegin a0 a1 a2 a3 a4 s) := by
  unfold execImgBegin
  refine State.act_steps _ _ ?_ rfl
  intro z1
  refine Keeps.trans ?_ (Chip.command_keeps (m := 69206041) _ _ _ _ _ _ _ _ _ ?_ (romSome ?_) rfl) rfl
  · exact Keeps.refl
  · intro z2 z3
    refine Keeps.trans ?_ (Chip.imgBegin_keeps ..) rfl
    exact Keeps.refl
  · intro z4 z5
    refine Keeps.trans ?_ (Chip.imgBegin_keeps ..) rfl
    exact Keeps.refl

theorem execImgCheckComplete_keeps (a0) (s) : Steps 117415933 s (execImgCheckComplete a0 s) := by
  unfold execImgCheckComplete
  refine State.act_steps _ _ ?_ rfl
  intro z1
  extract_lets z2
  have h3 : Keeps 117415933 z1 z2 := by
    refine Keeps.trans ?_ (Chip.at_keeps ..) rfl
    exact Keeps.refl
  clear_value z2
  refine Keeps.ite ?_ ?_
  · split
    · rename_i z4 z5 z6 z7 z8
      refine Keeps.trans ?_ (Chip.imgChecked_keeps ..) rfl
      exact h3
    · rename_i z9 z10 z11 z12 z13
      refine Keeps.trans ?_ (Chip.imgCheckedRom_keeps ..) rfl
      exact h3
    · rename_i z14 z15 z16 z17 z18
      refine Keeps.trans ?_ (Chip.imgCheckedRom_keeps ..) rfl
      exact h3
    · rename_i z19 z20 z21 z22 z23
      exact h3
  · exact h3

theorem execImgCommit_keeps (a0) (a1) (a2) (a3) (a4) (s) : Steps 69206041 s (execImgCommit a0 a1 a2 a3 a4 s) := by
  unfold execImgCommit
  refine State.act_steps _ _ ?_ rfl
  intro z1
  refine Keeps.trans ?_ (Chip.command_keeps (m := 69206041) _ _ _ _ _ _ _ _ _ ?_ (romSome ?_) rfl) rfl
  · exact Keeps.refl
  · intro z2 z3
    refine Keeps.trans ?_ (Chip.imgCommit_keeps ..) rfl
    exact Keeps.refl
  · intro z4 z5
    refine Keeps.trans ?_ (Chip.imgCommitRom_keeps ..) rfl
    exact Keeps.refl

theorem execImgData_keeps (a0) (a1) (a2) (a3) (a4) (s) : Steps 69206041 s (execImgData a0 a1 a2 a3 a4 s) := by
  unfold execImgData
  refine State.act_steps _ _ ?_ rfl
  intro z1
  refine Keeps.trans ?_ (Chip.command_keeps (m := 69206041) _ _ _ _ _ _ _ _ _ ?_ (romSome ?_) rfl) rfl
  · exact Keeps.refl
  · intro z2 z3
    refine Keeps.trans ?_ (Chip.imgData_keeps ..) rfl
    exact Keeps.refl
  · intro z4 z5
    refine Keeps.trans ?_ (Chip.imgData_keeps ..) rfl
    exact Keeps.refl

theorem execImgStatus_keeps (a0) (a1) (a2) (a3) (a4) (s) : Steps 69206041 s (execImgStatus a0 a1 a2 a3 a4 s) := by
  unfold execImgStatus
  refine State.command_steps _ _ _ _ _ _ _ _ ?_ rfl
  intro z1 z2
  extract_lets z3
  exact Keeps.refl

theorem execCommandRelease_keeps (a0) (s) : Steps 70064589 s (execCommandRelease a0 s) := by
  unfold execCommandRelease
  refine State.event_steps _ _ _ ?_ rfl
  intro z1
  refine Keeps.trans ?_ (Chip.commandRelease_keeps ..) rfl
  exact Keeps.refl

theorem execPoundBoundary_keeps (a0) (s) : Steps 109051903 s (execPoundBoundary a0 s) := by
  unfold execPoundBoundary
  refine State.act_steps _ _ ?_ rfl
  intro z1
  refine Keeps.trans ?_ (Chip.poundBoundary_keeps ..) rfl
  exact Keeps.refl

theorem execDispatch_keeps (a0) (a1) (s) : Steps 100760031 s (execDispatch a0 a1 s) := by
  unfold execDispatch
  refine State.event_steps _ _ _ ?_ rfl
  intro z1
  refine Keeps.trans ?_ (Chip.planAfter_keeps ..) rfl
  refine Keeps.trans ?_ (Chip.dispatchTo_keeps ..) rfl
  exact Keeps.refl

/-- The mask of a command's lemma. -/
def maskOf : Instr → Nat
  | .poundBoundary _ => 109051903
  | .phaseCorrection _ => 73400585
  | .sysPoundCfgWrite _ _ _ _ => 71303437
  | .commandRelease _ => 70064589
  | .flightUpdateStart _ _ => 67113037
  | .flightUpdateComplete _ _ _ => 103365071
  | .cycleMarkFire _ => 101908877
  | .sysCmarkWrite _ _ _ _ => 67108877
  | .reseedRetry _ _ => 67121293
  | .reseedTimeout _ => 100678095
  | .bankPointerCheckDone _ _ _ => 67115021
  | .posChnCfgWrite _ _ _ _ => 100664333
  | .chnStandstill _ => 100664333
  | .manifestArm _ => 103976973
  | .manifestFire _ => 103976973
  | .outPulseEnd _ => 67141641
  | .cancelTick _ => 103976989
  | .dispatch _ _ => 100760031
  | .triggerLatchRetry _ _ => 67174541
  | .jobComplete _ _ _ => 100694495
  | .jobDeadline _ => 100694495
  | .qpIterationEnd _ _ => 100694493
  | .bsnRdSelWrite _ _ _ => 67108893
  | .bsnRdWinRead _ _ _ => 67117085
  | .planBuildComplete _ => 67135629
  | .abzEdge _ _ _ _ _ => 106976525
  | .channelSample _ _ => 67109903
  | .serialTransferStart _ _ => 67109897
  | .serialReadingCheck _ _ _ => 106976527
  | .serialTimeout _ _ => 67109903
  | .indexEvent _ _ => 100664397
  | .idxArm _ _ _ => 67109901
  | .posChCfgWrite _ _ _ _ => 67109901
  | .pdOutputEdge _ _ => 67109897
  | .posPdCfgWrite _ _ _ _ => 67109901
  | .receiverUp _ _ => 67371085
  | .receiverDown _ _ _ => 67371021
  | .pollSend _ _ _ => 67371021
  | .replyReceived _ _ _ => 107894111
  | .replyWindowClose _ _ => 67372047
  | .referenceReceived _ _ _ => 67371085
  | .mgmtSend _ _ _ => 67371021
  | .mgmtRspReceived _ _ _ => 100925533
  | .mgmtWindowClose _ _ => 67371101
  | .bringupStepLimit _ _ => 67371085
  | .enumWindowEnd _ _ _ => 67371085
  | .towPortCtlBringup _ _ _ => 67371101
  | .mrgRst _ _ _ => 67108877
  | .ladingDataLoRead _ _ _ => 100663321
  | .ladingFlush _ _ _ => 100663305
  | .flushTimeout _ _ => 100663309
  | .ptpSyncReceived _ _ _ => 104858445
  | .delayRespReceived _ _ _ => 67109389
  | .pdelayReqReceived _ _ _ => 67108873
  | .syncTimeout _ _ => 104858445
  | .holdLimExpiry _ _ => 104858445
  | .revertTimer _ => 104858445
  | .corrSlew _ => 67109385
  | .snap _ _ => 67108877
  | .timUserCfgWrite _ _ _ _ => 67109389
  | .timUserOfsHiWrite _ _ _ _ => 67109389
  | .tbRead _ _ _ => 67108889
  | .wideValueLoRead _ _ _ => 100672029
  | .rcFieldRead _ _ _ => 100672029
  | .frameStamp _ _ _ => 67109389
  | .timTallyW0Read _ _ => 67109401
  | .sluiceStageEnd _ _ _ => 100743631
  | .chainDeadline _ => 100743631
  | .sluMemApply _ _ => 67176473
  | .sluCapCfgWrite _ _ _ _ => 67174413
  | .adcRunStart _ _ _ => 67239949
  | .adcConversionEnd _ _ _ => 100862093
  | .comparatorCrossing _ _ _ => 67239949
  | .regGo _ _ _ => 67239949
  | .injGo _ _ _ => 67239949
  | .adcCmpWrite _ _ _ _ => 67239949
  | .gauCtlArm _ _ => 101712013
  | .gauCtlStop _ _ => 101712013
  | .gauCtlForce _ _ => 101712013
  | .memoryReserved _ => 68157453
  | .gaugeSample _ => 101714061
  | .finishEnd _ => 68159503
  | .gauRelWrite _ _ _ => 68157453
  | .weirTickMissing _ => 67764573
  | .weirClockInterval _ _ => 134217727
  | .safeInputSample _ _ _ => 67764573
  | .fastDemand _ _ _ => 67764573
  | .testPulseStart _ _ => 67633161
  | .testPulseEnd _ _ _ _ _ => 67764573
  | .ss1Expiry _ _ => 67633165
  | .psetCheckComplete _ => 101187613
  | .confirmWindowExpiry _ => 67633165
  | .psetFlashWriteDone _ _ => 101187645
  | .psetCrcRecheck _ _ _ => 67764573
  | .safetyDatagramReceived _ _ _ => 67764573
  | .safetyWatchdogExpiry _ _ => 67764573
  | .headComputation _ _ => 67109005
  | .budgetHit _ _ => 67109005
  | .joinEnd _ => 69206281
  | .helloSend _ => 69206025
  | .helloReceived _ _ => 102760477
  | .aqueductLinkUp _ => 69206029
  | .aqueductLinkDown _ _ => 69206029
  | .syncReceived _ _ => 69206029
  | .heartbeatReceived _ _ => 69206029
  | .hbChk _ => 69206029
  | .refCheck _ => 69206025
  | .ledgerFrameReceived _ _ => 103808511
  | .ackReceived _ _ _ => 102760477
  | .nakReceived _ _ _ => 69206029
  | .failReceived _ _ _ => 69206029
  | .healthReceived _ _ _ => 69206029
  | .bulkReceived _ _ => 103808511
  | .resyncRestart _ => 69206029
  | .pcieReset _ _ => 103121181
  | .bar0Write _ _ _ => 108496861
  | .sqDoorbell _ _ _ => 67108877
  | .sqFetch _ _ => 67108893
  | .completionPost _ _ => 100663325
  | .cqHeadWrite _ _ _ => 67108893
  | .ringEnable _ _ _ => 103121181
  | .vecRearm _ _ _ => 67108873
  | .udpCommandReceived _ _ _ _ => 67108893
  | .ethFrameReceived _ _ _ => 100663325
  | .arpReceived _ _ _ => 67108889
  | .arpTimeout _ _ => 67108893
  | .arpRefresh _ _ _ => 67108889
  | .macLinkChange _ _ _ => 67108893
  | .mdioGo _ _ _ => 67108893
  | .mdioDone _ _ => 67108893
  | .spiWrite _ _ => 67108889
  | .spiRead _ _ => 67108889
  | .spiStatus _ => 67108889
  | .fastStatusUpdate => 67108889
  | .getInfo _ _ _ _ _ => 69206041
  | .setState _ _ _ _ _ => 69206297
  | .reset _ _ _ _ _ => 113246205
  | .regRead _ _ _ _ _ => 102769181
  | .regWrite _ _ _ _ _ => 108496861
  | .imgBegin _ _ _ _ _ => 69206041
  | .imgData _ _ _ _ _ => 69206041
  | .imgCommit _ _ _ _ _ => 69206041
  | .imgCheckComplete _ => 117415933
  | .imgStatus _ _ _ _ _ => 69206041
  | .cfgRead _ _ _ _ _ => 69206041
  | .cfgWrite _ _ _ _ _ => 69212189
  | .flightStart _ _ _ _ _ => 69210141
  | .flightHold _ _ _ _ _ => 69210137
  | .flightResume _ _ _ _ _ => 69210137
  | .flightStop _ _ _ _ _ => 69210141
  | .clearFlags _ _ _ _ _ => 69210137
  | .selectBank _ _ _ _ _ => 102775263
  | .bankLoad _ _ _ _ _ => 69208089
  | .flightStatus _ _ _ _ _ => 69206041
  | .trajAppend _ _ _ _ _ => 69210137
  | .trajFlush _ _ _ _ _ => 69210137
  | .taskSet _ _ _ _ _ => 102776861
  | .taskClear _ _ _ _ _ => 69222425
  | .manifestAdd _ _ _ _ _ => 69238815
  | .manifestCancel _ _ _ _ _ => 69238809
  | .chainAlign _ _ _ _ _ => 69207069
  | .manifestList _ _ _ _ _ => 69206041
  | .towMgmt _ _ _ _ _ => 69468185
  | .towBargeInfo _ _ _ _ _ => 69206041
  | .timeSnap _ _ _ _ _ => 69206045
  | .domainStatus _ _ _ _ _ => 69206041
  | .frameSend _ _ _ _ _ => 69206553
  | .bsnSubmit _ _ _ _ _ => 69214365
  | .bsnRead _ _ _ _ _ => 69214237
  | .bsnCancel _ _ _ _ _ => 102775263
  | .bsnMemWrite _ _ _ _ _ => 69208089
  | .bsnMemRead _ _ _ _ _ => 69206041
  | .sluChainLoad _ _ _ _ _ => 69208089
  | .sluPickLoad _ _ _ _ _ => 69208089
  | .sluTrigger _ _ _ _ _ => 69271709
  | .sluAbort _ _ _ _ _ => 102840799
  | .sluMemWrite _ _ _ _ _ => 69273625
  | .sluMemRead _ _ _ _ _ => 69206041
  | .gauArm _ _ _ _ _ => 70254621
  | .gauStop _ _ _ _ _ => 103809181
  | .gauForce _ _ _ _ _ => 70254621
  | .gauRelease _ _ _ _ _ => 70254621
  | .gauRead _ _ _ _ _ => 69206109
  | .weirPsetLoad _ _ _ _ _ => 69730333
  | .weirPsetConfirm _ _ _ _ _ => 69730333
  | .weirTrip _ _ _ _ _ => 69861725
  | .weirStatus _ _ _ _ _ => 69206041
  | .twinStatus _ _ _ _ _ => 69206041
  | .twinHandover _ _ _ _ _ => 69206041
  | .headStatus _ _ _ _ _ => 69206041
  | .budgetSet _ _ _ _ _ => 69206045
  | .lkpStats _ _ _ _ _ => 69206041
  | .logStatus _ _ _ _ _ => 69206041
  | .logRead _ _ _ _ _ => 69206041
  | .logFreeze _ _ _ _ _ => 69206237
  | .logRelease _ _ _ _ _ => 69206141
  | .logSave _ _ _ _ _ => 69206237
  | .echo _ _ _ _ _ => 69206041
  | .cmdStats _ _ _ _ _ => 69206041
  | .vinRise _ => 134217725
  | .resetN _ _ => 134217725
  | .bootVerifyComplete _ _ => 76021997
  | .brownout _ => 134217725
  | .vinRetLoss _ => 67108973
  | .watchdogExpiry _ _ => 113246205
  | .lockstepError _ _ => 113246205
  | .thermalHold _ => 134217725
  | .thermalHoldEnd _ => 134217725
  | .logSnapshotProbe => 67108937
  | .logSlotComplete _ => 67109069
  | .logSaveComplete _ _ => 100663549
  | .spareEraseDone _ => 67109101
  | .jtagInstruction _ _ => 67108905
  | .chainageCountRise _ => 67109901
  | .delayReqInterval _ _ => 67109385
  | .weirInternalFault _ _ => 67764573
  | .sramScrub _ _ _ _ => 69206093
  | .bistPassComplete _ _ => 69206025
  | .clockReturn _ => 134217725
  | .testmodeChange _ _ => 134217727
  | .bar2Access _ _ _ _ _ => 67108941
  | .pcieLinkUp _ _ _ => 67108877

/-- What every command leaves alone. -/
theorem exec_keeps (i : Instr) (s : State) : Steps (maskOf i) s (exec i s) := by
  cases i with
  | poundBoundary e => exact execPoundBoundary_keeps e s
  | phaseCorrection t => exact execPhaseCorrection_keeps t s
  | sysPoundCfgWrite t ifc off v => exact execSysPoundCfgWrite_keeps t ifc off v s
  | commandRelease e => exact execCommandRelease_keeps e s
  | flightUpdateStart t f => exact execFlightUpdateStart_keeps t f s
  | flightUpdateComplete t f ecc => exact execFlightUpdateComplete_keeps t f ecc s
  | cycleMarkFire m => exact execCycleMarkFire_keeps m s
  | sysCmarkWrite t ifc m v => exact execSysCmarkWrite_keeps t ifc m v s
  | reseedRetry t f => exact execReseedRetry_keeps t f s
  | reseedTimeout f => exact execReseedTimeout_keeps f s
  | bankPointerCheckDone t f slot => exact execBankPointerCheckDone_keeps t f slot s
  | posChnCfgWrite t ifc off v => exact execPosChnCfgWrite_keeps t ifc off v s
  | chnStandstill t => exact execChnStandstill_keeps t s
  | manifestArm t => exact execManifestArm_keeps t s
  | manifestFire t => exact execManifestFire_keeps t s
  | outPulseEnd line => exact execOutPulseEnd_keeps line s
  | cancelTick t => exact execCancelTick_keeps t s
  | dispatch t worker => exact execDispatch_keeps t worker s
  | triggerLatchRetry t chain => exact execTriggerLatchRetry_keeps t chain s
  | jobComplete t slot fault => exact execJobComplete_keeps t slot fault s
  | jobDeadline slot => exact execJobDeadline_keeps slot s
  | qpIterationEnd t slot => exact execQpIterationEnd_keeps t slot s
  | bsnRdSelWrite t ifc v => exact execBsnRdSelWrite_keeps t ifc v s
  | bsnRdWinRead t ifc w => exact execBsnRdWinRead_keeps t ifc w s
  | planBuildComplete t => exact execPlanBuildComplete_keeps t s
  | abzEdge t k a b z => exact execAbzEdge_keeps t k a b z s
  | channelSample t ch => exact execChannelSample_keeps t ch s
  | serialTransferStart t p => exact execSerialTransferStart_keeps t p s
  | serialReadingCheck t p r => exact execSerialReadingCheck_keeps t p r s
  | serialTimeout t p => exact execSerialTimeout_keeps t p s
  | indexEvent t ch => exact execIndexEvent_keeps t ch s
  | idxArm t ifc ch => exact execIdxArm_keeps t ifc ch s
  | posChCfgWrite t ifc off v => exact execPosChCfgWrite_keeps t ifc off v s
  | pdOutputEdge t d => exact execPdOutputEdge_keeps t d s
  | posPdCfgWrite t ifc d v => exact execPosPdCfgWrite_keeps t ifc d v s
  | receiverUp t p => exact execReceiverUp_keeps t p s
  | receiverDown t p errs => exact execReceiverDown_keeps t p errs s
  | pollSend t entry rx => exact execPollSend_keeps t entry rx s
  | replyReceived t p fr => exact execReplyReceived_keeps t p fr s
  | replyWindowClose t entry => exact execReplyWindowClose_keeps t entry s
  | referenceReceived t p fr => exact execReferenceReceived_keeps t p fr s
  | mgmtSend t entry rx => exact execMgmtSend_keeps t entry rx s
  | mgmtRspReceived t p fr => exact execMgmtRspReceived_keeps t p fr s
  | mgmtWindowClose t p => exact execMgmtWindowClose_keeps t p s
  | bringupStepLimit t p => exact execBringupStepLimit_keeps t p s
  | enumWindowEnd t p n => exact execEnumWindowEnd_keeps t p n s
  | towPortCtlBringup t ifc p => exact execTowPortCtlBringup_keeps t ifc p s
  | mrgRst t ifc p => exact execMrgRst_keeps t ifc p s
  | ladingDataLoRead t ifc l => exact execLadingDataLoRead_keeps t ifc l s
  | ladingFlush t ifc l => exact execLadingFlush_keeps t ifc l s
  | flushTimeout t l => exact execFlushTimeout_keeps t l s
  | ptpSyncReceived t d y => exact execPtpSyncReceived_keeps t d y s
  | delayRespReceived t d y => exact execDelayRespReceived_keeps t d y s
  | pdelayReqReceived t h seq => exact execPdelayReqReceived_keeps t h seq s
  | syncTimeout t d => exact execSyncTimeout_keeps t d s
  | holdLimExpiry t d => exact execHoldLimExpiry_keeps t d s
  | revertTimer t => exact execRevertTimer_keeps t s
  | corrSlew t => exact execCorrSlew_keeps t s
  | snap t ifc => exact execSnap_keeps t ifc s
  | timUserCfgWrite t ifc u v => exact execTimUserCfgWrite_keeps t ifc u v s
  | timUserOfsHiWrite t ifc u v => exact execTimUserOfsHiWrite_keeps t ifc u v s
  | tbRead t ifc k => exact execTbRead_keeps t ifc k s
  | wideValueLoRead t ifc off => exact execWideValueLoRead_keeps t ifc off s
  | rcFieldRead t ifc off => exact execRcFieldRead_keeps t ifc off s
  | frameStamp t m aborted => exact execFrameStamp_keeps t m aborted s
  | timTallyW0Read t ifc => exact execTimTallyW0Read_keeps t ifc s
  | sluiceStageEnd t core ecc => exact execSluiceStageEnd_keeps t core ecc s
  | chainDeadline core => exact execChainDeadline_keeps core s
  | sluMemApply t core => exact execSluMemApply_keeps t core s
  | sluCapCfgWrite t ifc off v => exact execSluCapCfgWrite_keeps t ifc off v s
  | adcRunStart t x inj => exact execAdcRunStart_keeps t x inj s
  | adcConversionEnd t x ains => exact execAdcConversionEnd_keeps t x ains s
  | comparatorCrossing t k v => exact execComparatorCrossing_keeps t k v s
  | regGo t ifc x => exact execRegGo_keeps t ifc x s
  | injGo t ifc x => exact execInjGo_keeps t ifc x s
  | adcCmpWrite t ifc k v => exact execAdcCmpWrite_keeps t ifc k v s
  | gauCtlArm t ifc => exact execGauCtlArm_keeps t ifc s
  | gauCtlStop t ifc => exact execGauCtlStop_keeps t ifc s
  | gauCtlForce t ifc => exact execGauCtlForce_keeps t ifc s
  | memoryReserved t => exact execMemoryReserved_keeps t s
  | gaugeSample t => exact execGaugeSample_keeps t s
  | finishEnd t => exact execFinishEnd_keeps t s
  | gauRelWrite t ifc v => exact execGauRelWrite_keeps t ifc v s
  | weirTickMissing t => exact execWeirTickMissing_keeps t s
  | weirClockInterval t ticks => exact execWeirClockInterval_keeps t ticks s
  | safeInputSample t pinsA pinsB => exact execSafeInputSample_keeps t pinsA pinsB s
  | fastDemand t k chB => exact execFastDemand_keeps t k chB s
  | testPulseStart t k => exact execTestPulseStart_keeps t k s
  | testPulseEnd t k pinsA pinsB tpLevel => exact execTestPulseEnd_keeps t k pinsA pinsB tpLevel s
  | ss1Expiry t g => exact execSs1Expiry_keeps t g s
  | psetCheckComplete t => exact execPsetCheckComplete_keeps t s
  | confirmWindowExpiry t => exact execConfirmWindowExpiry_keeps t s
  | psetFlashWriteDone t ok => exact execPsetFlashWriteDone_keeps t ok s
  | psetCrcRecheck t okA okB => exact execPsetCrcRecheck_keeps t okA okB s
  | safetyDatagramReceived t m bytes => exact execSafetyDatagramReceived_keeps t m bytes s
  | safetyWatchdogExpiry t conn => exact execSafetyWatchdogExpiry_keeps t conn s
  | headComputation t r => exact execHeadComputation_keeps t r s
  | budgetHit t cls => exact execBudgetHit_keeps t cls s
  | joinEnd t => exact execJoinEnd_keeps t s
  | helloSend t => exact execHelloSend_keeps t s
  | helloReceived t h => exact execHelloReceived_keeps t h s
  | aqueductLinkUp t => exact execAqueductLinkUp_keeps t s
  | aqueductLinkDown t lanes => exact execAqueductLinkDown_keeps t lanes s
  | syncReceived t y => exact execSyncReceived_keeps t y s
  | heartbeatReceived t h => exact execHeartbeatReceived_keeps t h s
  | hbChk t => exact execHbChk_keeps t s
  | refCheck t => exact execRefCheck_keeps t s
  | ledgerFrameReceived t fr => exact execLedgerFrameReceived_keeps t fr s
  | ackReceived t h pound => exact execAckReceived_keeps t h pound s
  | nakReceived t h pound => exact execNakReceived_keeps t h pound s
  | failReceived t h code => exact execFailReceived_keeps t h code s
  | healthReceived t h w => exact execHealthReceived_keeps t h w s
  | bulkReceived t b => exact execBulkReceived_keeps t b s
  | resyncRestart t => exact execResyncRestart_keeps t s
  | pcieReset t kind => exact execPcieReset_keeps t kind s
  | bar0Write t off vs => exact execBar0Write_keeps t off vs s
  | sqDoorbell t ifc v => exact execSqDoorbell_keeps t ifc v s
  | sqFetch t pkt => exact execSqFetch_keeps t pkt s
  | completionPost t dmaOk => exact execCompletionPost_keeps t dmaOk s
  | cqHeadWrite t ifc v => exact execCqHeadWrite_keeps t ifc v s
  | ringEnable t ifc v => exact execRingEnable_keeps t ifc v s
  | vecRearm t ifc v => exact execVecRearm_keeps t ifc v s
  | udpCommandReceived t m src bytes => exact execUdpCommandReceived_keeps t m src bytes s
  | ethFrameReceived t m fr => exact execEthFrameReceived_keeps t m fr s
  | arpReceived t m a => exact execArpReceived_keeps t m a s
  | arpTimeout t m => exact execArpTimeout_keeps t m s
  | arpRefresh t m k => exact execArpRefresh_keeps t m k s
  | macLinkChange t m up => exact execMacLinkChange_keeps t m up s
  | mdioGo t ifc v => exact execMdioGo_keeps t ifc v s
  | mdioDone t data => exact execMdioDone_keeps t data s
  | spiWrite t bytes => exact execSpiWrite_keeps t bytes s
  | spiRead t n => exact execSpiRead_keeps t n s
  | spiStatus t => exact execSpiStatus_keeps t s
  | fastStatusUpdate => exact execFastStatusUpdate_keeps s
  | getInfo t ifc tag target pl => exact execGetInfo_keeps t ifc tag target pl s
  | setState t ifc tag target pl => exact execSetState_keeps t ifc tag target pl s
  | reset t ifc tag target pl => exact execReset_keeps t ifc tag target pl s
  | regRead t ifc tag target pl => exact execRegRead_keeps t ifc tag target pl s
  | regWrite t ifc tag target pl => exact execRegWrite_keeps t ifc tag target pl s
  | imgBegin t ifc tag target pl => exact execImgBegin_keeps t ifc tag target pl s
  | imgData t ifc tag target pl => exact execImgData_keeps t ifc tag target pl s
  | imgCommit t ifc tag target pl => exact execImgCommit_keeps t ifc tag target pl s
  | imgCheckComplete t => exact execImgCheckComplete_keeps t s
  | imgStatus t ifc tag target pl => exact execImgStatus_keeps t ifc tag target pl s
  | cfgRead t ifc tag target pl => exact execCfgRead_keeps t ifc tag target pl s
  | cfgWrite t ifc tag target pl => exact execCfgWrite_keeps t ifc tag target pl s
  | flightStart t ifc tag target pl => exact execFlightStart_keeps t ifc tag target pl s
  | flightHold t ifc tag target pl => exact execFlightHold_keeps t ifc tag target pl s
  | flightResume t ifc tag target pl => exact execFlightResume_keeps t ifc tag target pl s
  | flightStop t ifc tag target pl => exact execFlightStop_keeps t ifc tag target pl s
  | clearFlags t ifc tag target pl => exact execClearFlags_keeps t ifc tag target pl s
  | selectBank t ifc tag target pl => exact execSelectBank_keeps t ifc tag target pl s
  | bankLoad t ifc tag target pl => exact execBankLoad_keeps t ifc tag target pl s
  | flightStatus t ifc tag target pl => exact execFlightStatus_keeps t ifc tag target pl s
  | trajAppend t ifc tag target pl => exact execTrajAppend_keeps t ifc tag target pl s
  | trajFlush t ifc tag target pl => exact execTrajFlush_keeps t ifc tag target pl s
  | taskSet t ifc tag target pl => exact execTaskSet_keeps t ifc tag target pl s
  | taskClear t ifc tag target pl => exact execTaskClear_keeps t ifc tag target pl s
  | manifestAdd t ifc tag target pl => exact execManifestAdd_keeps t ifc tag target pl s
  | manifestCancel t ifc tag target pl => exact execManifestCancel_keeps t ifc tag target pl s
  | chainAlign t ifc tag target pl => exact execChainAlign_keeps t ifc tag target pl s
  | manifestList t ifc tag target pl => exact execManifestList_keeps t ifc tag target pl s
  | towMgmt t ifc tag target pl => exact execTowMgmt_keeps t ifc tag target pl s
  | towBargeInfo t ifc tag target pl => exact execTowBargeInfo_keeps t ifc tag target pl s
  | timeSnap t ifc tag target pl => exact execTimeSnap_keeps t ifc tag target pl s
  | domainStatus t ifc tag target pl => exact execDomainStatus_keeps t ifc tag target pl s
  | frameSend t ifc tag target pl => exact execFrameSend_keeps t ifc tag target pl s
  | bsnSubmit t ifc tag target pl => exact execBsnSubmit_keeps t ifc tag target pl s
  | bsnRead t ifc tag target pl => exact execBsnRead_keeps t ifc tag target pl s
  | bsnCancel t ifc tag target pl => exact execBsnCancel_keeps t ifc tag target pl s
  | bsnMemWrite t ifc tag target pl => exact execBsnMemWrite_keeps t ifc tag target pl s
  | bsnMemRead t ifc tag target pl => exact execBsnMemRead_keeps t ifc tag target pl s
  | sluChainLoad t ifc tag target pl => exact execSluChainLoad_keeps t ifc tag target pl s
  | sluPickLoad t ifc tag target pl => exact execSluPickLoad_keeps t ifc tag target pl s
  | sluTrigger t ifc tag target pl => exact execSluTrigger_keeps t ifc tag target pl s
  | sluAbort t ifc tag target pl => exact execSluAbort_keeps t ifc tag target pl s
  | sluMemWrite t ifc tag target pl => exact execSluMemWrite_keeps t ifc tag target pl s
  | sluMemRead t ifc tag target pl => exact execSluMemRead_keeps t ifc tag target pl s
  | gauArm t ifc tag target pl => exact execGauArm_keeps t ifc tag target pl s
  | gauStop t ifc tag target pl => exact execGauStop_keeps t ifc tag target pl s
  | gauForce t ifc tag target pl => exact execGauForce_keeps t ifc tag target pl s
  | gauRelease t ifc tag target pl => exact execGauRelease_keeps t ifc tag target pl s
  | gauRead t ifc tag target pl => exact execGauRead_keeps t ifc tag target pl s
  | weirPsetLoad t ifc tag target pl => exact execWeirPsetLoad_keeps t ifc tag target pl s
  | weirPsetConfirm t ifc tag target pl => exact execWeirPsetConfirm_keeps t ifc tag target pl s
  | weirTrip t ifc tag target pl => exact execWeirTrip_keeps t ifc tag target pl s
  | weirStatus t ifc tag target pl => exact execWeirStatus_keeps t ifc tag target pl s
  | twinStatus t ifc tag target pl => exact execTwinStatus_keeps t ifc tag target pl s
  | twinHandover t ifc tag target pl => exact execTwinHandover_keeps t ifc tag target pl s
  | headStatus t ifc tag target pl => exact execHeadStatus_keeps t ifc tag target pl s
  | budgetSet t ifc tag target pl => exact execBudgetSet_keeps t ifc tag target pl s
  | lkpStats t ifc tag target pl => exact execLkpStats_keeps t ifc tag target pl s
  | logStatus t ifc tag target pl => exact execLogStatus_keeps t ifc tag target pl s
  | logRead t ifc tag target pl => exact execLogRead_keeps t ifc tag target pl s
  | logFreeze t ifc tag target pl => exact execLogFreeze_keeps t ifc tag target pl s
  | logRelease t ifc tag target pl => exact execLogRelease_keeps t ifc tag target pl s
  | logSave t ifc tag target pl => exact execLogSave_keeps t ifc tag target pl s
  | echo t ifc tag target pl => exact execEcho_keeps t ifc tag target pl s
  | cmdStats t ifc tag target pl => exact execCmdStats_keeps t ifc tag target pl s
  | vinRise t => exact execVinRise_keeps t s
  | resetN t low => exact execResetN_keeps t low s
  | bootVerifyComplete t b => exact execBootVerifyComplete_keeps t b s
  | brownout t => exact execBrownout_keeps t s
  | vinRetLoss t => exact execVinRetLoss_keeps t s
  | watchdogExpiry t pair => exact execWatchdogExpiry_keeps t pair s
  | lockstepError t pair => exact execLockstepError_keeps t pair s
  | thermalHold t => exact execThermalHold_keeps t s
  | thermalHoldEnd t => exact execThermalHoldEnd_keeps t s
  | logSnapshotProbe => exact execLogSnapshotProbe_keeps s
  | logSlotComplete t => exact execLogSlotComplete_keeps t s
  | logSaveComplete t ok => exact execLogSaveComplete_keeps t ok s
  | spareEraseDone t => exact execSpareEraseDone_keeps t s
  | jtagInstruction t ir => exact execJtagInstruction_keeps t ir s
  | chainageCountRise t => exact execChainageCountRise_keeps t s
  | delayReqInterval t d => exact execDelayReqInterval_keeps t d s
  | weirInternalFault t src => exact execWeirInternalFault_keeps t src s
  | sramScrub t owner ue addr => exact execSramScrub_keeps t owner ue addr s
  | bistPassComplete t failed => exact execBistPassComplete_keeps t failed s
  | clockReturn t => exact execClockReturn_keeps t s
  | testmodeChange t high => exact execTestmodeChange_keeps t high s
  | bar2Access t off write ndw ue => exact execBar2Access_keeps t off write ndw ue s
  | pcieLinkUp t width2 speed => exact execPcieLinkUp_keeps t width2 speed s

/-! ## The dispatch, arm by arm -/

theorem exec_poundBoundary (e : BoundaryEnv) (s : State) : exec (.poundBoundary e) s = execPoundBoundary e s := rfl
theorem exec_phaseCorrection (t : Nat) (s : State) : exec (.phaseCorrection t) s = execPhaseCorrection t s := rfl
theorem exec_sysPoundCfgWrite (t : Nat) (ifc : Iface) (off : Fin 2) (v : Word) (s : State) : exec (.sysPoundCfgWrite t ifc off v) s = execSysPoundCfgWrite t ifc off v s := rfl
theorem exec_commandRelease (e : ReleaseEnv) (s : State) : exec (.commandRelease e) s = execCommandRelease e s := rfl
theorem exec_flightUpdateStart (t : Nat) (f : Fin 32) (s : State) : exec (.flightUpdateStart t f) s = execFlightUpdateStart t f s := rfl
theorem exec_flightUpdateComplete (t : Nat) (f : Fin 32) (ecc : BankEcc) (s : State) : exec (.flightUpdateComplete t f ecc) s = execFlightUpdateComplete t f ecc s := rfl
theorem exec_cycleMarkFire (m : Fin 32) (s : State) : exec (.cycleMarkFire m) s = execCycleMarkFire m s := rfl
theorem exec_sysCmarkWrite (t : Nat) (ifc : Iface) (m : Fin 32) (v : Word) (s : State) : exec (.sysCmarkWrite t ifc m v) s = execSysCmarkWrite t ifc m v s := rfl
theorem exec_reseedRetry (t : Nat) (f : Fin 32) (s : State) : exec (.reseedRetry t f) s = execReseedRetry t f s := rfl
theorem exec_reseedTimeout (f : Fin 32) (s : State) : exec (.reseedTimeout f) s = execReseedTimeout f s := rfl
theorem exec_bankPointerCheckDone (t : Nat) (f : Fin 32) (slot : Fin 16) (s : State) : exec (.bankPointerCheckDone t f slot) s = execBankPointerCheckDone t f slot s := rfl
theorem exec_posChnCfgWrite (t : Nat) (ifc : Iface) (off : Fin 2) (v : Word) (s : State) : exec (.posChnCfgWrite t ifc off v) s = execPosChnCfgWrite t ifc off v s := rfl
theorem exec_chnStandstill (t : Nat) (s : State) : exec (.chnStandstill t) s = execChnStandstill t s := rfl
theorem exec_manifestArm (t : Nat) (s : State) : exec (.manifestArm t) s = execManifestArm t s := rfl
theorem exec_manifestFire (t : Nat) (s : State) : exec (.manifestFire t) s = execManifestFire t s := rfl
theorem exec_outPulseEnd (line : Fin 8) (s : State) : exec (.outPulseEnd line) s = execOutPulseEnd line s := rfl
theorem exec_cancelTick (t : Nat) (s : State) : exec (.cancelTick t) s = execCancelTick t s := rfl
theorem exec_dispatch (t : Nat) (worker : Fin 70) (s : State) : exec (.dispatch t worker) s = execDispatch t worker s := rfl
theorem exec_triggerLatchRetry (t : Nat) (chain : Fin 64) (s : State) : exec (.triggerLatchRetry t chain) s = execTriggerLatchRetry t chain s := rfl
theorem exec_jobComplete (t : Nat) (slot : Fin 256) (fault : JobFault) (s : State) : exec (.jobComplete t slot fault) s = execJobComplete t slot fault s := rfl
theorem exec_jobDeadline (slot : Fin 256) (s : State) : exec (.jobDeadline slot) s = execJobDeadline slot s := rfl
theorem exec_qpIterationEnd (t : Nat) (slot : Fin 256) (s : State) : exec (.qpIterationEnd t slot) s = execQpIterationEnd t slot s := rfl
theorem exec_bsnRdSelWrite (t : Nat) (ifc : Iface) (v : Word) (s : State) : exec (.bsnRdSelWrite t ifc v) s = execBsnRdSelWrite t ifc v s := rfl
theorem exec_bsnRdWinRead (t : Nat) (ifc : Iface) (w : Fin 1024) (s : State) : exec (.bsnRdWinRead t ifc w) s = execBsnRdWinRead t ifc w s := rfl
theorem exec_planBuildComplete (t : Nat) (s : State) : exec (.planBuildComplete t) s = execPlanBuildComplete t s := rfl
theorem exec_abzEdge (t : Nat) (k : Fin 32) (a : Bool) (b : Bool) (z : Bool) (s : State) : exec (.abzEdge t k a b z) s = execAbzEdge t k a b z s := rfl
theorem exec_channelSample (t : Nat) (ch : Fin 256) (s : State) : exec (.channelSample t ch) s = execChannelSample t ch s := rfl
theorem exec_serialTransferStart (t : Nat) (p : Fin 16) (s : State) : exec (.serialTransferStart t p) s = execSerialTransferStart t p s := rfl
theorem exec_serialReadingCheck (t : Nat) (p : Fin 16) (r : SerialReading) (s : State) : exec (.serialReadingCheck t p r) s = execSerialReadingCheck t p r s := rfl
theorem exec_serialTimeout (t : Nat) (p : Fin 16) (s : State) : exec (.serialTimeout t p) s = execSerialTimeout t p s := rfl
theorem exec_indexEvent (t : Nat) (ch : Fin 256) (s : State) : exec (.indexEvent t ch) s = execIndexEvent t ch s := rfl
theorem exec_idxArm (t : Nat) (ifc : Iface) (ch : Fin 256) (s : State) : exec (.idxArm t ifc ch) s = execIdxArm t ifc ch s := rfl
theorem exec_posChCfgWrite (t : Nat) (ifc : Iface) (off : Nat) (v : Word) (s : State) : exec (.posChCfgWrite t ifc off v) s = execPosChCfgWrite t ifc off v s := rfl
theorem exec_pdOutputEdge (t : Nat) (d : Fin 8) (s : State) : exec (.pdOutputEdge t d) s = execPdOutputEdge t d s := rfl
theorem exec_posPdCfgWrite (t : Nat) (ifc : Iface) (d : Fin 8) (v : Word) (s : State) : exec (.posPdCfgWrite t ifc d v) s = execPosPdCfgWrite t ifc d v s := rfl
theorem exec_receiverUp (t : Nat) (p : Fin 64) (s : State) : exec (.receiverUp t p) s = execReceiverUp t p s := rfl
theorem exec_receiverDown (t : Nat) (p : Fin 64) (errs : RxErrors) (s : State) : exec (.receiverDown t p errs) s = execReceiverDown t p errs s := rfl
theorem exec_pollSend (t : Nat) (entry : Fin 4096) (rx : Option (Nat × Option Nat)) (s : State) : exec (.pollSend t entry rx) s = execPollSend t entry rx s := rfl
theorem exec_replyReceived (t : Nat) (p : Fin 64) (fr : TowFrame) (s : State) : exec (.replyReceived t p fr) s = execReplyReceived t p fr s := rfl
theorem exec_replyWindowClose (t : Nat) (entry : Fin 4096) (s : State) : exec (.replyWindowClose t entry) s = execReplyWindowClose t entry s := rfl
theorem exec_referenceReceived (t : Nat) (p : Fin 64) (fr : TowFrame) (s : State) : exec (.referenceReceived t p fr) s = execReferenceReceived t p fr s := rfl
theorem exec_mgmtSend (t : Nat) (entry : Fin 4096) (rx : Option (Nat × Option Nat)) (s : State) : exec (.mgmtSend t entry rx) s = execMgmtSend t entry rx s := rfl
theorem exec_mgmtRspReceived (t : Nat) (p : Fin 64) (fr : TowFrame) (s : State) : exec (.mgmtRspReceived t p fr) s = execMgmtRspReceived t p fr s := rfl
theorem exec_mgmtWindowClose (t : Nat) (p : Fin 64) (s : State) : exec (.mgmtWindowClose t p) s = execMgmtWindowClose t p s := rfl
theorem exec_bringupStepLimit (t : Nat) (p : Fin 64) (s : State) : exec (.bringupStepLimit t p) s = execBringupStepLimit t p s := rfl
theorem exec_enumWindowEnd (t : Nat) (p : Fin 64) (n : Nat) (s : State) : exec (.enumWindowEnd t p n) s = execEnumWindowEnd t p n s := rfl
theorem exec_towPortCtlBringup (t : Nat) (ifc : Iface) (p : Fin 64) (s : State) : exec (.towPortCtlBringup t ifc p) s = execTowPortCtlBringup t ifc p s := rfl
theorem exec_mrgRst (t : Nat) (ifc : Iface) (p : Fin 64) (s : State) : exec (.mrgRst t ifc p) s = execMrgRst t ifc p s := rfl
theorem exec_ladingDataLoRead (t : Nat) (ifc : Iface) (l : LadId) (s : State) : exec (.ladingDataLoRead t ifc l) s = execLadingDataLoRead t ifc l s := rfl
theorem exec_ladingFlush (t : Nat) (ifc : Iface) (l : LadId) (s : State) : exec (.ladingFlush t ifc l) s = execLadingFlush t ifc l s := rfl
theorem exec_flushTimeout (t : Nat) (l : LadId) (s : State) : exec (.flushTimeout t l) s = execFlushTimeout t l s := rfl
theorem exec_ptpSyncReceived (t : Nat) (d : Fin 2) (y : PtpSync) (s : State) : exec (.ptpSyncReceived t d y) s = execPtpSyncReceived t d y s := rfl
theorem exec_delayRespReceived (t : Nat) (d : Fin 2) (y : PtpDelay) (s : State) : exec (.delayRespReceived t d y) s = execDelayRespReceived t d y s := rfl
theorem exec_pdelayReqReceived (t : Nat) (h : PtpHead) (seq : Word) (s : State) : exec (.pdelayReqReceived t h seq) s = execPdelayReqReceived t h seq s := rfl
theorem exec_syncTimeout (t : Nat) (d : Fin 2) (s : State) : exec (.syncTimeout t d) s = execSyncTimeout t d s := rfl
theorem exec_holdLimExpiry (t : Nat) (d : Fin 2) (s : State) : exec (.holdLimExpiry t d) s = execHoldLimExpiry t d s := rfl
theorem exec_revertTimer (t : Nat) (s : State) : exec (.revertTimer t) s = execRevertTimer t s := rfl
theorem exec_corrSlew (t : Nat) (s : State) : exec (.corrSlew t) s = execCorrSlew t s := rfl
theorem exec_snap (t : Nat) (ifc : Iface) (s : State) : exec (.snap t ifc) s = execSnap t ifc s := rfl
theorem exec_timUserCfgWrite (t : Nat) (ifc : Iface) (u : Fin 2) (v : Word) (s : State) : exec (.timUserCfgWrite t ifc u v) s = execTimUserCfgWrite t ifc u v s := rfl
theorem exec_timUserOfsHiWrite (t : Nat) (ifc : Iface) (u : Fin 2) (v : Word) (s : State) : exec (.timUserOfsHiWrite t ifc u v) s = execTimUserOfsHiWrite t ifc u v s := rfl
theorem exec_tbRead (t : Nat) (ifc : Iface) (k : Fin 8) (s : State) : exec (.tbRead t ifc k) s = execTbRead t ifc k s := rfl
theorem exec_wideValueLoRead (t : Nat) (ifc : Iface) (off : RegRead) (s : State) : exec (.wideValueLoRead t ifc off) s = execWideValueLoRead t ifc off s := rfl
theorem exec_rcFieldRead (t : Nat) (ifc : Iface) (off : RegRead) (s : State) : exec (.rcFieldRead t ifc off) s = execRcFieldRead t ifc off s := rfl
theorem exec_frameStamp (t : Nat) (m : Fin 2) (aborted : Bool) (s : State) : exec (.frameStamp t m aborted) s = execFrameStamp t m aborted s := rfl
theorem exec_timTallyW0Read (t : Nat) (ifc : Iface) (s : State) : exec (.timTallyW0Read t ifc) s = execTimTallyW0Read t ifc s := rfl
theorem exec_sluiceStageEnd (t : Nat) (core : Fin 4) (ecc : StageEcc) (s : State) : exec (.sluiceStageEnd t core ecc) s = execSluiceStageEnd t core ecc s := rfl
theorem exec_chainDeadline (core : Fin 4) (s : State) : exec (.chainDeadline core) s = execChainDeadline core s := rfl
theorem exec_sluMemApply (t : Nat) (core : Fin 4) (s : State) : exec (.sluMemApply t core) s = execSluMemApply t core s := rfl
theorem exec_sluCapCfgWrite (t : Nat) (ifc : Iface) (off : Nat) (v : Word) (s : State) : exec (.sluCapCfgWrite t ifc off v) s = execSluCapCfgWrite t ifc off v s := rfl
theorem exec_adcRunStart (t : Nat) (x : Fin 2) (inj : Bool) (s : State) : exec (.adcRunStart t x inj) s = execAdcRunStart t x inj s := rfl
theorem exec_adcConversionEnd (t : Nat) (x : Fin 2) (ains : List Int) (s : State) : exec (.adcConversionEnd t x ains) s = execAdcConversionEnd t x ains s := rfl
theorem exec_comparatorCrossing (t : Nat) (k : Fin 8) (v : Int) (s : State) : exec (.comparatorCrossing t k v) s = execComparatorCrossing t k v s := rfl
theorem exec_regGo (t : Nat) (ifc : Iface) (x : Fin 2) (s : State) : exec (.regGo t ifc x) s = execRegGo t ifc x s := rfl
theorem exec_injGo (t : Nat) (ifc : Iface) (x : Fin 2) (s : State) : exec (.injGo t ifc x) s = execInjGo t ifc x s := rfl
theorem exec_adcCmpWrite (t : Nat) (ifc : Iface) (k : Fin 8) (v : Word) (s : State) : exec (.adcCmpWrite t ifc k v) s = execAdcCmpWrite t ifc k v s := rfl
theorem exec_gauCtlArm (t : Nat) (ifc : Iface) (s : State) : exec (.gauCtlArm t ifc) s = execGauCtlArm t ifc s := rfl
theorem exec_gauCtlStop (t : Nat) (ifc : Iface) (s : State) : exec (.gauCtlStop t ifc) s = execGauCtlStop t ifc s := rfl
theorem exec_gauCtlForce (t : Nat) (ifc : Iface) (s : State) : exec (.gauCtlForce t ifc) s = execGauCtlForce t ifc s := rfl
theorem exec_memoryReserved (t : Nat) (s : State) : exec (.memoryReserved t) s = execMemoryReserved t s := rfl
theorem exec_gaugeSample (t : Nat) (s : State) : exec (.gaugeSample t) s = execGaugeSample t s := rfl
theorem exec_finishEnd (t : Nat) (s : State) : exec (.finishEnd t) s = execFinishEnd t s := rfl
theorem exec_gauRelWrite (t : Nat) (ifc : Iface) (v : Word) (s : State) : exec (.gauRelWrite t ifc v) s = execGauRelWrite t ifc v s := rfl
theorem exec_weirTickMissing (t : Nat) (s : State) : exec (.weirTickMissing t) s = execWeirTickMissing t s := rfl
theorem exec_weirClockInterval (t : Nat) (ticks : Nat) (s : State) : exec (.weirClockInterval t ticks) s = execWeirClockInterval t ticks s := rfl
theorem exec_safeInputSample (t : Nat) (pinsA pinsB : PinLevels) (s : State) : exec (.safeInputSample t pinsA pinsB) s = execSafeInputSample t pinsA pinsB s := rfl
theorem exec_fastDemand (t : Nat) (k : Fin 24) (chB : Bool) (s : State) : exec (.fastDemand t k chB) s = execFastDemand t k chB s := rfl
theorem exec_testPulseStart (t : Nat) (k : Fin 8) (s : State) : exec (.testPulseStart t k) s = execTestPulseStart t k s := rfl
theorem exec_testPulseEnd (t : Nat) (k : Fin 8) (pinsA pinsB : PinLevels) (tpLevel : Bool) (s : State) : exec (.testPulseEnd t k pinsA pinsB tpLevel) s = execTestPulseEnd t k pinsA pinsB tpLevel s := rfl
theorem exec_ss1Expiry (t : Nat) (g : Fin 16) (s : State) : exec (.ss1Expiry t g) s = execSs1Expiry t g s := rfl
theorem exec_psetCheckComplete (t : CheckEnd) (s : State) : exec (.psetCheckComplete t) s = execPsetCheckComplete t s := rfl
theorem exec_confirmWindowExpiry (t : Nat) (s : State) : exec (.confirmWindowExpiry t) s = execConfirmWindowExpiry t s := rfl
theorem exec_psetFlashWriteDone (t : Nat) (ok : Bool) (s : State) : exec (.psetFlashWriteDone t ok) s = execPsetFlashWriteDone t ok s := rfl
theorem exec_psetCrcRecheck (t : Nat) (okA : Bool) (okB : Bool) (s : State) : exec (.psetCrcRecheck t okA okB) s = execPsetCrcRecheck t okA okB s := rfl
theorem exec_safetyDatagramReceived (t : Nat) (m : Fin 2) (bytes : List Byte) (s : State) : exec (.safetyDatagramReceived t m bytes) s = execSafetyDatagramReceived t m bytes s := rfl
theorem exec_safetyWatchdogExpiry (t : Nat) (conn : Fin 256) (s : State) : exec (.safetyWatchdogExpiry t conn) s = execSafetyWatchdogExpiry t conn s := rfl
theorem exec_headComputation (t : Nat) (r : HeadReadings) (s : State) : exec (.headComputation t r) s = execHeadComputation t r s := rfl
theorem exec_budgetHit (t : Nat) (cls : Fin 10) (s : State) : exec (.budgetHit t cls) s = execBudgetHit t cls s := rfl
theorem exec_joinEnd (t : Nat) (s : State) : exec (.joinEnd t) s = execJoinEnd t s := rfl
theorem exec_helloSend (t : Nat) (s : State) : exec (.helloSend t) s = execHelloSend t s := rfl
theorem exec_helloReceived (t : Nat) (h : Hello) (s : State) : exec (.helloReceived t h) s = execHelloReceived t h s := rfl
theorem exec_aqueductLinkUp (t : Nat) (s : State) : exec (.aqueductLinkUp t) s = execAqueductLinkUp t s := rfl
theorem exec_aqueductLinkDown (t : Nat) (lanes : Fin 16) (s : State) : exec (.aqueductLinkDown t lanes) s = execAqueductLinkDown t lanes s := rfl
theorem exec_syncReceived (t : Nat) (y : AquSync) (s : State) : exec (.syncReceived t y) s = execSyncReceived t y s := rfl
theorem exec_heartbeatReceived (t : Nat) (h : Heartbeat) (s : State) : exec (.heartbeatReceived t h) s = execHeartbeatReceived t h s := rfl
theorem exec_hbChk (t : Nat) (s : State) : exec (.hbChk t) s = execHbChk t s := rfl
theorem exec_refCheck (t : Nat) (s : State) : exec (.refCheck t) s = execRefCheck t s := rfl
theorem exec_ledgerFrameReceived (t : Nat) (fr : LedgerFrame) (s : State) : exec (.ledgerFrameReceived t fr) s = execLedgerFrameReceived t fr s := rfl
theorem exec_ackReceived (t : Nat) (h : AquHead) (pound : Word) (s : State) : exec (.ackReceived t h pound) s = execAckReceived t h pound s := rfl
theorem exec_nakReceived (t : Nat) (h : AquHead) (pound : Word) (s : State) : exec (.nakReceived t h pound) s = execNakReceived t h pound s := rfl
theorem exec_failReceived (t : Nat) (h : AquHead) (code : Nat) (s : State) : exec (.failReceived t h code) s = execFailReceived t h code s := rfl
theorem exec_healthReceived (t : Nat) (h : AquHead) (w : List Word) (s : State) : exec (.healthReceived t h w) s = execHealthReceived t h w s := rfl
theorem exec_bulkReceived (t : Nat) (b : BulkFrame) (s : State) : exec (.bulkReceived t b) s = execBulkReceived t b s := rfl
theorem exec_resyncRestart (t : Nat) (s : State) : exec (.resyncRestart t) s = execResyncRestart t s := rfl
theorem exec_pcieReset (t : Nat) (kind : PcieReset) (s : State) : exec (.pcieReset t kind) s = execPcieReset t kind s := rfl
theorem exec_bar0Write (t : Nat) (off : Nat) (vs : List Word) (s : State) : exec (.bar0Write t off vs) s = execBar0Write t off vs s := rfl
theorem exec_sqDoorbell (t : Nat) (ifc : Iface) (v : Word) (s : State) : exec (.sqDoorbell t ifc v) s = execSqDoorbell t ifc v s := rfl
theorem exec_sqFetch (t : Nat) (pkt : Option (List Word)) (s : State) : exec (.sqFetch t pkt) s = execSqFetch t pkt s := rfl
theorem exec_completionPost (t : Nat) (dmaOk : Bool) (s : State) : exec (.completionPost t dmaOk) s = execCompletionPost t dmaOk s := rfl
theorem exec_cqHeadWrite (t : Nat) (ifc : Iface) (v : Word) (s : State) : exec (.cqHeadWrite t ifc v) s = execCqHeadWrite t ifc v s := rfl
theorem exec_ringEnable (t : Nat) (ifc : Iface) (v : Word) (s : State) : exec (.ringEnable t ifc v) s = execRingEnable t ifc v s := rfl
theorem exec_vecRearm (t : Nat) (ifc : Iface) (v : Word) (s : State) : exec (.vecRearm t ifc v) s = execVecRearm t ifc v s := rfl
theorem exec_udpCommandReceived (t : Nat) (m : Fin 2) (src : UdpSrc) (bytes : List Byte) (s : State) : exec (.udpCommandReceived t m src bytes) s = execUdpCommandReceived t m src bytes s := rfl
theorem exec_ethFrameReceived (t : Nat) (m : Fin 2) (fr : EthFrame) (s : State) : exec (.ethFrameReceived t m fr) s = execEthFrameReceived t m fr s := rfl
theorem exec_arpReceived (t : Nat) (m : Fin 2) (a : ArpFrame) (s : State) : exec (.arpReceived t m a) s = execArpReceived t m a s := rfl
theorem exec_arpTimeout (t : Nat) (m : Fin 2) (s : State) : exec (.arpTimeout t m) s = execArpTimeout t m s := rfl
theorem exec_arpRefresh (t : Nat) (m : Fin 2) (k : Fin 16) (s : State) : exec (.arpRefresh t m k) s = execArpRefresh t m k s := rfl
theorem exec_macLinkChange (t : Nat) (m : Fin 2) (l : MacLink) (s : State) : exec (.macLinkChange t m l) s = execMacLinkChange t m l s := rfl
theorem exec_mdioGo (t : Nat) (ifc : Iface) (v : Word) (s : State) : exec (.mdioGo t ifc v) s = execMdioGo t ifc v s := rfl
theorem exec_mdioDone (t : Nat) (data : BitVec 16) (s : State) : exec (.mdioDone t data) s = execMdioDone t data s := rfl
theorem exec_spiWrite (t : Nat) (bytes : List Byte) (s : State) : exec (.spiWrite t bytes) s = execSpiWrite t bytes s := rfl
theorem exec_spiRead (t : Nat) (n : Nat) (s : State) : exec (.spiRead t n) s = execSpiRead t n s := rfl
theorem exec_spiStatus (t : Nat) (s : State) : exec (.spiStatus t) s = execSpiStatus t s := rfl
theorem exec_fastStatusUpdate (s : State) : exec (.fastStatusUpdate) s = execFastStatusUpdate s := rfl
theorem exec_getInfo (t : Nat) (ifc : Iface) (tag : Word) (target : Word) (pl : List Word) (s : State) : exec (.getInfo t ifc tag target pl) s = execGetInfo t ifc tag target pl s := rfl
theorem exec_setState (t : Nat) (ifc : Iface) (tag : Word) (target : Word) (pl : List Word) (s : State) : exec (.setState t ifc tag target pl) s = execSetState t ifc tag target pl s := rfl
theorem exec_reset (t : Nat) (ifc : Iface) (tag : Word) (target : Word) (pl : List Word) (s : State) : exec (.reset t ifc tag target pl) s = execReset t ifc tag target pl s := rfl
theorem exec_regRead (t : Nat) (ifc : Iface) (tag : Word) (target : Word) (pl : List Word) (s : State) : exec (.regRead t ifc tag target pl) s = execRegRead t ifc tag target pl s := rfl
theorem exec_regWrite (t : Nat) (ifc : Iface) (tag : Word) (target : Word) (pl : List Word) (s : State) : exec (.regWrite t ifc tag target pl) s = execRegWrite t ifc tag target pl s := rfl
theorem exec_imgBegin (t : Nat) (ifc : Iface) (tag : Word) (target : Word) (pl : List Word) (s : State) : exec (.imgBegin t ifc tag target pl) s = execImgBegin t ifc tag target pl s := rfl
theorem exec_imgData (t : Nat) (ifc : Iface) (tag : Word) (target : Word) (pl : List Word) (s : State) : exec (.imgData t ifc tag target pl) s = execImgData t ifc tag target pl s := rfl
theorem exec_imgCommit (t : Nat) (ifc : Iface) (tag : Word) (target : Word) (pl : List Word) (s : State) : exec (.imgCommit t ifc tag target pl) s = execImgCommit t ifc tag target pl s := rfl
theorem exec_imgCheckComplete (t : Nat) (s : State) : exec (.imgCheckComplete t) s = execImgCheckComplete t s := rfl
theorem exec_imgStatus (t : Nat) (ifc : Iface) (tag : Word) (target : Word) (pl : List Word) (s : State) : exec (.imgStatus t ifc tag target pl) s = execImgStatus t ifc tag target pl s := rfl
theorem exec_cfgRead (t : Nat) (ifc : Iface) (tag : Word) (target : Word) (pl : List Word) (s : State) : exec (.cfgRead t ifc tag target pl) s = execCfgRead t ifc tag target pl s := rfl
theorem exec_cfgWrite (t : Nat) (ifc : Iface) (tag : Word) (target : Word) (pl : List Word) (s : State) : exec (.cfgWrite t ifc tag target pl) s = execCfgWrite t ifc tag target pl s := rfl
theorem exec_flightStart (t : Nat) (ifc : Iface) (tag : Word) (target : Word) (pl : List Word) (s : State) : exec (.flightStart t ifc tag target pl) s = execFlightStart t ifc tag target pl s := rfl
theorem exec_flightHold (t : Nat) (ifc : Iface) (tag : Word) (target : Word) (pl : List Word) (s : State) : exec (.flightHold t ifc tag target pl) s = execFlightHold t ifc tag target pl s := rfl
theorem exec_flightResume (t : Nat) (ifc : Iface) (tag : Word) (target : Word) (pl : List Word) (s : State) : exec (.flightResume t ifc tag target pl) s = execFlightResume t ifc tag target pl s := rfl
theorem exec_flightStop (t : Nat) (ifc : Iface) (tag : Word) (target : Word) (pl : List Word) (s : State) : exec (.flightStop t ifc tag target pl) s = execFlightStop t ifc tag target pl s := rfl
theorem exec_clearFlags (t : Nat) (ifc : Iface) (tag : Word) (target : Word) (pl : List Word) (s : State) : exec (.clearFlags t ifc tag target pl) s = execClearFlags t ifc tag target pl s := rfl
theorem exec_selectBank (t : Nat) (ifc : Iface) (tag : Word) (target : Word) (pl : List Word) (s : State) : exec (.selectBank t ifc tag target pl) s = execSelectBank t ifc tag target pl s := rfl
theorem exec_bankLoad (t : Nat) (ifc : Iface) (tag : Word) (target : Word) (pl : List Word) (s : State) : exec (.bankLoad t ifc tag target pl) s = execBankLoad t ifc tag target pl s := rfl
theorem exec_flightStatus (t : Nat) (ifc : Iface) (tag : Word) (target : Word) (pl : List Word) (s : State) : exec (.flightStatus t ifc tag target pl) s = execFlightStatus t ifc tag target pl s := rfl
theorem exec_trajAppend (t : Nat) (ifc : Iface) (tag : Word) (target : Word) (pl : List Word) (s : State) : exec (.trajAppend t ifc tag target pl) s = execTrajAppend t ifc tag target pl s := rfl
theorem exec_trajFlush (t : Nat) (ifc : Iface) (tag : Word) (target : Word) (pl : List Word) (s : State) : exec (.trajFlush t ifc tag target pl) s = execTrajFlush t ifc tag target pl s := rfl
theorem exec_taskSet (t : Nat) (ifc : Iface) (tag : Word) (target : Word) (pl : List Word) (s : State) : exec (.taskSet t ifc tag target pl) s = execTaskSet t ifc tag target pl s := rfl
theorem exec_taskClear (t : Nat) (ifc : Iface) (tag : Word) (target : Word) (pl : List Word) (s : State) : exec (.taskClear t ifc tag target pl) s = execTaskClear t ifc tag target pl s := rfl
theorem exec_manifestAdd (t : Nat) (ifc : Iface) (tag : Word) (target : Word) (pl : List Word) (s : State) : exec (.manifestAdd t ifc tag target pl) s = execManifestAdd t ifc tag target pl s := rfl
theorem exec_manifestCancel (t : Nat) (ifc : Iface) (tag : Word) (target : Word) (pl : List Word) (s : State) : exec (.manifestCancel t ifc tag target pl) s = execManifestCancel t ifc tag target pl s := rfl
theorem exec_chainAlign (t : Nat) (ifc : Iface) (tag : Word) (target : Word) (pl : List Word) (s : State) : exec (.chainAlign t ifc tag target pl) s = execChainAlign t ifc tag target pl s := rfl
theorem exec_manifestList (t : Nat) (ifc : Iface) (tag : Word) (target : Word) (pl : List Word) (s : State) : exec (.manifestList t ifc tag target pl) s = execManifestList t ifc tag target pl s := rfl
theorem exec_towMgmt (t : Nat) (ifc : Iface) (tag : Word) (target : Word) (pl : List Word) (s : State) : exec (.towMgmt t ifc tag target pl) s = execTowMgmt t ifc tag target pl s := rfl
theorem exec_towBargeInfo (t : Nat) (ifc : Iface) (tag : Word) (target : Word) (pl : List Word) (s : State) : exec (.towBargeInfo t ifc tag target pl) s = execTowBargeInfo t ifc tag target pl s := rfl
theorem exec_timeSnap (t : Nat) (ifc : Iface) (tag : Word) (target : Word) (pl : List Word) (s : State) : exec (.timeSnap t ifc tag target pl) s = execTimeSnap t ifc tag target pl s := rfl
theorem exec_domainStatus (t : Nat) (ifc : Iface) (tag : Word) (target : Word) (pl : List Word) (s : State) : exec (.domainStatus t ifc tag target pl) s = execDomainStatus t ifc tag target pl s := rfl
theorem exec_frameSend (t : Nat) (ifc : Iface) (tag : Word) (target : Word) (pl : List Word) (s : State) : exec (.frameSend t ifc tag target pl) s = execFrameSend t ifc tag target pl s := rfl
theorem exec_bsnSubmit (t : Nat) (ifc : Iface) (tag : Word) (target : Word) (pl : List Word) (s : State) : exec (.bsnSubmit t ifc tag target pl) s = execBsnSubmit t ifc tag target pl s := rfl
theorem exec_bsnRead (t : Nat) (ifc : Iface) (tag : Word) (target : Word) (pl : List Word) (s : State) : exec (.bsnRead t ifc tag target pl) s = execBsnRead t ifc tag target pl s := rfl
theorem exec_bsnCancel (t : Nat) (ifc : Iface) (tag : Word) (target : Word) (pl : List Word) (s : State) : exec (.bsnCancel t ifc tag target pl) s = execBsnCancel t ifc tag target pl s := rfl
theorem exec_bsnMemWrite (t : Nat) (ifc : Iface) (tag : Word) (target : Word) (pl : List Word) (s : State) : exec (.bsnMemWrite t ifc tag target pl) s = execBsnMemWrite t ifc tag target pl s := rfl
theorem exec_bsnMemRead (t : Nat) (ifc : Iface) (tag : Word) (target : Word) (pl : List Word) (s : State) : exec (.bsnMemRead t ifc tag target pl) s = execBsnMemRead t ifc tag target pl s := rfl
theorem exec_sluChainLoad (t : Nat) (ifc : Iface) (tag : Word) (target : Word) (pl : List Word) (s : State) : exec (.sluChainLoad t ifc tag target pl) s = execSluChainLoad t ifc tag target pl s := rfl
theorem exec_sluPickLoad (t : Nat) (ifc : Iface) (tag : Word) (target : Word) (pl : List Word) (s : State) : exec (.sluPickLoad t ifc tag target pl) s = execSluPickLoad t ifc tag target pl s := rfl
theorem exec_sluTrigger (t : Nat) (ifc : Iface) (tag : Word) (target : Word) (pl : List Word) (s : State) : exec (.sluTrigger t ifc tag target pl) s = execSluTrigger t ifc tag target pl s := rfl
theorem exec_sluAbort (t : Nat) (ifc : Iface) (tag : Word) (target : Word) (pl : List Word) (s : State) : exec (.sluAbort t ifc tag target pl) s = execSluAbort t ifc tag target pl s := rfl
theorem exec_sluMemWrite (t : Nat) (ifc : Iface) (tag : Word) (target : Word) (pl : List Word) (s : State) : exec (.sluMemWrite t ifc tag target pl) s = execSluMemWrite t ifc tag target pl s := rfl
theorem exec_sluMemRead (t : Nat) (ifc : Iface) (tag : Word) (target : Word) (pl : List Word) (s : State) : exec (.sluMemRead t ifc tag target pl) s = execSluMemRead t ifc tag target pl s := rfl
theorem exec_gauArm (t : Nat) (ifc : Iface) (tag : Word) (target : Word) (pl : List Word) (s : State) : exec (.gauArm t ifc tag target pl) s = execGauArm t ifc tag target pl s := rfl
theorem exec_gauStop (t : Nat) (ifc : Iface) (tag : Word) (target : Word) (pl : List Word) (s : State) : exec (.gauStop t ifc tag target pl) s = execGauStop t ifc tag target pl s := rfl
theorem exec_gauForce (t : Nat) (ifc : Iface) (tag : Word) (target : Word) (pl : List Word) (s : State) : exec (.gauForce t ifc tag target pl) s = execGauForce t ifc tag target pl s := rfl
theorem exec_gauRelease (t : Nat) (ifc : Iface) (tag : Word) (target : Word) (pl : List Word) (s : State) : exec (.gauRelease t ifc tag target pl) s = execGauRelease t ifc tag target pl s := rfl
theorem exec_gauRead (e : ReadEnv) (ifc : Iface) (tag : Word) (target : Word) (pl : List Word) (s : State) : exec (.gauRead e ifc tag target pl) s = execGauRead e ifc tag target pl s := rfl
theorem exec_weirPsetLoad (t : Nat) (ifc : Iface) (tag : Word) (target : Word) (pl : List Word) (s : State) : exec (.weirPsetLoad t ifc tag target pl) s = execWeirPsetLoad t ifc tag target pl s := rfl
theorem exec_weirPsetConfirm (t : Nat) (ifc : Iface) (tag : Word) (target : Word) (pl : List Word) (s : State) : exec (.weirPsetConfirm t ifc tag target pl) s = execWeirPsetConfirm t ifc tag target pl s := rfl
theorem exec_weirTrip (t : Nat) (ifc : Iface) (tag : Word) (target : Word) (pl : List Word) (s : State) : exec (.weirTrip t ifc tag target pl) s = execWeirTrip t ifc tag target pl s := rfl
theorem exec_weirStatus (t : Nat) (ifc : Iface) (tag : Word) (target : Word) (pl : List Word) (s : State) : exec (.weirStatus t ifc tag target pl) s = execWeirStatus t ifc tag target pl s := rfl
theorem exec_twinStatus (t : Nat) (ifc : Iface) (tag : Word) (target : Word) (pl : List Word) (s : State) : exec (.twinStatus t ifc tag target pl) s = execTwinStatus t ifc tag target pl s := rfl
theorem exec_twinHandover (t : Nat) (ifc : Iface) (tag : Word) (target : Word) (pl : List Word) (s : State) : exec (.twinHandover t ifc tag target pl) s = execTwinHandover t ifc tag target pl s := rfl
theorem exec_headStatus (t : Nat) (ifc : Iface) (tag : Word) (target : Word) (pl : List Word) (s : State) : exec (.headStatus t ifc tag target pl) s = execHeadStatus t ifc tag target pl s := rfl
theorem exec_budgetSet (t : Nat) (ifc : Iface) (tag : Word) (target : Word) (pl : List Word) (s : State) : exec (.budgetSet t ifc tag target pl) s = execBudgetSet t ifc tag target pl s := rfl
theorem exec_lkpStats (t : Nat) (ifc : Iface) (tag : Word) (target : Word) (pl : List Word) (s : State) : exec (.lkpStats t ifc tag target pl) s = execLkpStats t ifc tag target pl s := rfl
theorem exec_logStatus (t : Nat) (ifc : Iface) (tag : Word) (target : Word) (pl : List Word) (s : State) : exec (.logStatus t ifc tag target pl) s = execLogStatus t ifc tag target pl s := rfl
theorem exec_logRead (t : Nat) (ifc : Iface) (tag : Word) (target : Word) (pl : List Word) (s : State) : exec (.logRead t ifc tag target pl) s = execLogRead t ifc tag target pl s := rfl
theorem exec_logFreeze (t : Nat) (ifc : Iface) (tag : Word) (target : Word) (pl : List Word) (s : State) : exec (.logFreeze t ifc tag target pl) s = execLogFreeze t ifc tag target pl s := rfl
theorem exec_logRelease (t : Nat) (ifc : Iface) (tag : Word) (target : Word) (pl : List Word) (s : State) : exec (.logRelease t ifc tag target pl) s = execLogRelease t ifc tag target pl s := rfl
theorem exec_logSave (t : Nat) (ifc : Iface) (tag : Word) (target : Word) (pl : List Word) (s : State) : exec (.logSave t ifc tag target pl) s = execLogSave t ifc tag target pl s := rfl
theorem exec_echo (t : Nat) (ifc : Iface) (tag : Word) (target : Word) (pl : List Word) (s : State) : exec (.echo t ifc tag target pl) s = execEcho t ifc tag target pl s := rfl
theorem exec_cmdStats (t : Nat) (ifc : Iface) (tag : Word) (target : Word) (pl : List Word) (s : State) : exec (.cmdStats t ifc tag target pl) s = execCmdStats t ifc tag target pl s := rfl
theorem exec_vinRise (t : VinRise) (s : State) : exec (.vinRise t) s = execVinRise t s := rfl
theorem exec_resetN (t : Nat) (low : Bool) (s : State) : exec (.resetN t low) s = execResetN t low s := rfl
theorem exec_bootVerifyComplete (t : Nat) (b : BootEnv) (s : State) : exec (.bootVerifyComplete t b) s = execBootVerifyComplete t b s := rfl
theorem exec_brownout (t : Nat) (s : State) : exec (.brownout t) s = execBrownout t s := rfl
theorem exec_vinRetLoss (t : Nat) (s : State) : exec (.vinRetLoss t) s = execVinRetLoss t s := rfl
theorem exec_watchdogExpiry (t : Nat) (pair : Fin 2) (s : State) : exec (.watchdogExpiry t pair) s = execWatchdogExpiry t pair s := rfl
theorem exec_lockstepError (t : Nat) (pair : Fin 2) (s : State) : exec (.lockstepError t pair) s = execLockstepError t pair s := rfl
theorem exec_thermalHold (t : Nat) (s : State) : exec (.thermalHold t) s = execThermalHold t s := rfl
theorem exec_thermalHoldEnd (t : Nat) (s : State) : exec (.thermalHoldEnd t) s = execThermalHoldEnd t s := rfl
theorem exec_logSnapshotProbe (s : State) : exec (.logSnapshotProbe) s = execLogSnapshotProbe s := rfl
theorem exec_logSlotComplete (t : Nat) (s : State) : exec (.logSlotComplete t) s = execLogSlotComplete t s := rfl
theorem exec_logSaveComplete (t : Nat) (ok : Bool) (s : State) : exec (.logSaveComplete t ok) s = execLogSaveComplete t ok s := rfl
theorem exec_spareEraseDone (t : Nat) (s : State) : exec (.spareEraseDone t) s = execSpareEraseDone t s := rfl
theorem exec_jtagInstruction (t : Nat) (ir : BitVec 6) (s : State) : exec (.jtagInstruction t ir) s = execJtagInstruction t ir s := rfl
theorem exec_chainageCountRise (t : Nat) (s : State) : exec (.chainageCountRise t) s = execChainageCountRise t s := rfl
theorem exec_delayReqInterval (t : Nat) (d : Fin 2) (s : State) : exec (.delayReqInterval t d) s = execDelayReqInterval t d s := rfl
theorem exec_weirInternalFault (t : Nat) (src : WeirFaultSrc) (s : State) : exec (.weirInternalFault t src) s = execWeirInternalFault t src s := rfl
theorem exec_sramScrub (t : Nat) (owner : Fin 12) (ue : Bool) (addr : Nat) (s : State) : exec (.sramScrub t owner ue addr) s = execSramScrub t owner ue addr s := rfl
theorem exec_bistPassComplete (t : Nat) (failed : Bool) (s : State) : exec (.bistPassComplete t failed) s = execBistPassComplete t failed s := rfl
theorem exec_clockReturn (t : Nat) (s : State) : exec (.clockReturn t) s = execClockReturn t s := rfl
theorem exec_testmodeChange (t : Nat) (high : Bool) (s : State) : exec (.testmodeChange t high) s = execTestmodeChange t high s := rfl
theorem exec_bar2Access (t : Nat) (off : Nat) (write : Bool) (ndw : Nat) (ue : List Nat) (s : State) : exec (.bar2Access t off write ndw ue) s = execBar2Access t off write ndw ue s := rfl
theorem exec_pcieLinkUp (t : Nat) (width2 : Bool) (speed : Fin 4) (s : State) : exec (.pcieLinkUp t width2 speed) s = execPcieLinkUp t width2 speed s := rfl

end Sys2Proof.Machine
end

