-- ==== Sys2Proof/Laws/State.lean ====
section
/-! SUPPORT. What each elementary update of the device leaves alone: one lemma per field and update, true by computation,
so that no proof unfolds a record update. -/

namespace Sys2Proof.Machine

@[simp] theorem Chip.setReg_now (c : Chip) (off v : Nat) : (c.setReg off v).now = c.now := rfl
@[simp] theorem Chip.setReg_fresh (c : Chip) (off v : Nat) : (c.setReg off v).fresh = c.fresh := rfl
@[simp] theorem Chip.setReg_edges (c : Chip) (off v : Nat) : (c.setReg off v).edges = c.edges := rfl
@[simp] theorem Chip.setReg_out (c : Chip) (off v : Nat) : (c.setReg off v).out = c.out := rfl
@[simp] theorem Chip.setReg_hst (c : Chip) (off v : Nat) : (c.setReg off v).hst = c.hst := rfl
@[simp] theorem Chip.setReg_boot (c : Chip) (off v : Nat) : (c.setReg off v).boot = c.boot := rfl
@[simp] theorem Chip.setReg_log (c : Chip) (off v : Nat) : (c.setReg off v).log = c.log := rfl
@[simp] theorem Chip.setReg_lkp (c : Chip) (off v : Nat) : (c.setReg off v).lkp = c.lkp := rfl
@[simp] theorem Chip.setReg_pnd (c : Chip) (off v : Nat) : (c.setReg off v).pnd = c.pnd := rfl
@[simp] theorem Chip.setReg_tim (c : Chip) (off v : Nat) : (c.setReg off v).tim = c.tim := rfl
@[simp] theorem Chip.setReg_pf (c : Chip) (off v : Nat) : (c.setReg off v).pf = c.pf := rfl
@[simp] theorem Chip.setReg_mem (c : Chip) (off v : Nat) : (c.setReg off v).mem = c.mem := rfl
@[simp] theorem Chip.setReg_lck (c : Chip) (off v : Nat) : (c.setReg off v).lck = c.lck := rfl
@[simp] theorem Chip.setReg_bsn (c : Chip) (off v : Nat) : (c.setReg off v).bsn = c.bsn := rfl
@[simp] theorem Chip.setReg_plan (c : Chip) (off v : Nat) : (c.setReg off v).plan = c.plan := rfl
@[simp] theorem Chip.setReg_man (c : Chip) (off v : Nat) : (c.setReg off v).man = c.man := rfl
@[simp] theorem Chip.setReg_slu (c : Chip) (off v : Nat) : (c.setReg off v).slu = c.slu := rfl
@[simp] theorem Chip.setReg_adc (c : Chip) (off v : Nat) : (c.setReg off v).adc = c.adc := rfl
@[simp] theorem Chip.setReg_tow (c : Chip) (off v : Nat) : (c.setReg off v).tow = c.tow := rfl
@[simp] theorem Chip.setReg_weir (c : Chip) (off v : Nat) : (c.setReg off v).weir = c.weir := rfl
@[simp] theorem Chip.setReg_gau (c : Chip) (off v : Nat) : (c.setReg off v).gau = c.gau := rfl
@[simp] theorem Chip.setReg_aqu (c : Chip) (off v : Nat) : (c.setReg off v).aqu = c.aqu := rfl

@[simp] theorem Chip.setFld_now (c : Chip) (x : Fld) (v : Nat) : (c.setFld x v).now = c.now := rfl
@[simp] theorem Chip.setFld_fresh (c : Chip) (x : Fld) (v : Nat) : (c.setFld x v).fresh = c.fresh := rfl
@[simp] theorem Chip.setFld_out (c : Chip) (x : Fld) (v : Nat) : (c.setFld x v).out = c.out := rfl
@[simp] theorem Chip.setFld_hst (c : Chip) (x : Fld) (v : Nat) : (c.setFld x v).hst = c.hst := rfl
@[simp] theorem Chip.setFld_boot (c : Chip) (x : Fld) (v : Nat) : (c.setFld x v).boot = c.boot := rfl
@[simp] theorem Chip.setFld_log (c : Chip) (x : Fld) (v : Nat) : (c.setFld x v).log = c.log := rfl
@[simp] theorem Chip.setFld_lkp (c : Chip) (x : Fld) (v : Nat) : (c.setFld x v).lkp = c.lkp := rfl
@[simp] theorem Chip.setFld_pnd (c : Chip) (x : Fld) (v : Nat) : (c.setFld x v).pnd = c.pnd := rfl
@[simp] theorem Chip.setFld_tim (c : Chip) (x : Fld) (v : Nat) : (c.setFld x v).tim = c.tim := rfl
@[simp] theorem Chip.setFld_pf (c : Chip) (x : Fld) (v : Nat) : (c.setFld x v).pf = c.pf := rfl
@[simp] theorem Chip.setFld_mem (c : Chip) (x : Fld) (v : Nat) : (c.setFld x v).mem = c.mem := rfl
@[simp] theorem Chip.setFld_lck (c : Chip) (x : Fld) (v : Nat) : (c.setFld x v).lck = c.lck := rfl
@[simp] theorem Chip.setFld_bsn (c : Chip) (x : Fld) (v : Nat) : (c.setFld x v).bsn = c.bsn := rfl
@[simp] theorem Chip.setFld_plan (c : Chip) (x : Fld) (v : Nat) : (c.setFld x v).plan = c.plan := rfl
@[simp] theorem Chip.setFld_man (c : Chip) (x : Fld) (v : Nat) : (c.setFld x v).man = c.man := rfl
@[simp] theorem Chip.setFld_slu (c : Chip) (x : Fld) (v : Nat) : (c.setFld x v).slu = c.slu := rfl
@[simp] theorem Chip.setFld_adc (c : Chip) (x : Fld) (v : Nat) : (c.setFld x v).adc = c.adc := rfl
@[simp] theorem Chip.setFld_tow (c : Chip) (x : Fld) (v : Nat) : (c.setFld x v).tow = c.tow := rfl
@[simp] theorem Chip.setFld_weir (c : Chip) (x : Fld) (v : Nat) : (c.setFld x v).weir = c.weir := rfl
@[simp] theorem Chip.setFld_gau (c : Chip) (x : Fld) (v : Nat) : (c.setFld x v).gau = c.gau := rfl
@[simp] theorem Chip.setFld_aqu (c : Chip) (x : Fld) (v : Nat) : (c.setFld x v).aqu = c.aqu := rfl

@[simp] theorem Chip.setFldI_now (c : Chip) (x : Fld) (v : Int) : (c.setFldI x v).now = c.now := rfl
@[simp] theorem Chip.setFldI_fresh (c : Chip) (x : Fld) (v : Int) : (c.setFldI x v).fresh = c.fresh := rfl
@[simp] theorem Chip.setFldI_out (c : Chip) (x : Fld) (v : Int) : (c.setFldI x v).out = c.out := rfl
@[simp] theorem Chip.setFldI_hst (c : Chip) (x : Fld) (v : Int) : (c.setFldI x v).hst = c.hst := rfl
@[simp] theorem Chip.setFldI_boot (c : Chip) (x : Fld) (v : Int) : (c.setFldI x v).boot = c.boot := rfl
@[simp] theorem Chip.setFldI_log (c : Chip) (x : Fld) (v : Int) : (c.setFldI x v).log = c.log := rfl
@[simp] theorem Chip.setFldI_lkp (c : Chip) (x : Fld) (v : Int) : (c.setFldI x v).lkp = c.lkp := rfl
@[simp] theorem Chip.setFldI_pnd (c : Chip) (x : Fld) (v : Int) : (c.setFldI x v).pnd = c.pnd := rfl
@[simp] theorem Chip.setFldI_tim (c : Chip) (x : Fld) (v : Int) : (c.setFldI x v).tim = c.tim := rfl
@[simp] theorem Chip.setFldI_pf (c : Chip) (x : Fld) (v : Int) : (c.setFldI x v).pf = c.pf := rfl
@[simp] theorem Chip.setFldI_mem (c : Chip) (x : Fld) (v : Int) : (c.setFldI x v).mem = c.mem := rfl
@[simp] theorem Chip.setFldI_lck (c : Chip) (x : Fld) (v : Int) : (c.setFldI x v).lck = c.lck := rfl
@[simp] theorem Chip.setFldI_bsn (c : Chip) (x : Fld) (v : Int) : (c.setFldI x v).bsn = c.bsn := rfl
@[simp] theorem Chip.setFldI_plan (c : Chip) (x : Fld) (v : Int) : (c.setFldI x v).plan = c.plan := rfl
@[simp] theorem Chip.setFldI_man (c : Chip) (x : Fld) (v : Int) : (c.setFldI x v).man = c.man := rfl
@[simp] theorem Chip.setFldI_slu (c : Chip) (x : Fld) (v : Int) : (c.setFldI x v).slu = c.slu := rfl
@[simp] theorem Chip.setFldI_adc (c : Chip) (x : Fld) (v : Int) : (c.setFldI x v).adc = c.adc := rfl
@[simp] theorem Chip.setFldI_tow (c : Chip) (x : Fld) (v : Int) : (c.setFldI x v).tow = c.tow := rfl
@[simp] theorem Chip.setFldI_weir (c : Chip) (x : Fld) (v : Int) : (c.setFldI x v).weir = c.weir := rfl
@[simp] theorem Chip.setFldI_gau (c : Chip) (x : Fld) (v : Int) : (c.setFldI x v).gau = c.gau := rfl
@[simp] theorem Chip.setFldI_aqu (c : Chip) (x : Fld) (v : Int) : (c.setFldI x v).aqu = c.aqu := rfl

@[simp] theorem Chip.setFlag_now (c : Chip) (x : Fld) (b : Bool) : (c.setFlag x b).now = c.now := rfl
@[simp] theorem Chip.setFlag_fresh (c : Chip) (x : Fld) (b : Bool) : (c.setFlag x b).fresh = c.fresh := rfl
@[simp] theorem Chip.setFlag_out (c : Chip) (x : Fld) (b : Bool) : (c.setFlag x b).out = c.out := rfl
@[simp] theorem Chip.setFlag_hst (c : Chip) (x : Fld) (b : Bool) : (c.setFlag x b).hst = c.hst := rfl
@[simp] theorem Chip.setFlag_boot (c : Chip) (x : Fld) (b : Bool) : (c.setFlag x b).boot = c.boot := rfl
@[simp] theorem Chip.setFlag_log (c : Chip) (x : Fld) (b : Bool) : (c.setFlag x b).log = c.log := rfl
@[simp] theorem Chip.setFlag_lkp (c : Chip) (x : Fld) (b : Bool) : (c.setFlag x b).lkp = c.lkp := rfl
@[simp] theorem Chip.setFlag_pnd (c : Chip) (x : Fld) (b : Bool) : (c.setFlag x b).pnd = c.pnd := rfl
@[simp] theorem Chip.setFlag_tim (c : Chip) (x : Fld) (b : Bool) : (c.setFlag x b).tim = c.tim := rfl
@[simp] theorem Chip.setFlag_pf (c : Chip) (x : Fld) (b : Bool) : (c.setFlag x b).pf = c.pf := rfl
@[simp] theorem Chip.setFlag_mem (c : Chip) (x : Fld) (b : Bool) : (c.setFlag x b).mem = c.mem := rfl
@[simp] theorem Chip.setFlag_lck (c : Chip) (x : Fld) (b : Bool) : (c.setFlag x b).lck = c.lck := rfl
@[simp] theorem Chip.setFlag_bsn (c : Chip) (x : Fld) (b : Bool) : (c.setFlag x b).bsn = c.bsn := rfl
@[simp] theorem Chip.setFlag_plan (c : Chip) (x : Fld) (b : Bool) : (c.setFlag x b).plan = c.plan := rfl
@[simp] theorem Chip.setFlag_man (c : Chip) (x : Fld) (b : Bool) : (c.setFlag x b).man = c.man := rfl
@[simp] theorem Chip.setFlag_slu (c : Chip) (x : Fld) (b : Bool) : (c.setFlag x b).slu = c.slu := rfl
@[simp] theorem Chip.setFlag_adc (c : Chip) (x : Fld) (b : Bool) : (c.setFlag x b).adc = c.adc := rfl
@[simp] theorem Chip.setFlag_tow (c : Chip) (x : Fld) (b : Bool) : (c.setFlag x b).tow = c.tow := rfl
@[simp] theorem Chip.setFlag_weir (c : Chip) (x : Fld) (b : Bool) : (c.setFlag x b).weir = c.weir := rfl
@[simp] theorem Chip.setFlag_gau (c : Chip) (x : Fld) (b : Bool) : (c.setFlag x b).gau = c.gau := rfl
@[simp] theorem Chip.setFlag_aqu (c : Chip) (x : Fld) (b : Bool) : (c.setFlag x b).aqu = c.aqu := rfl

@[simp] theorem Chip.raise_now (c : Chip) (x : Fld) : (c.raise x).now = c.now := rfl
@[simp] theorem Chip.raise_fresh (c : Chip) (x : Fld) : (c.raise x).fresh = c.fresh := rfl
@[simp] theorem Chip.raise_out (c : Chip) (x : Fld) : (c.raise x).out = c.out := rfl
@[simp] theorem Chip.raise_hst (c : Chip) (x : Fld) : (c.raise x).hst = c.hst := rfl
@[simp] theorem Chip.raise_boot (c : Chip) (x : Fld) : (c.raise x).boot = c.boot := rfl
@[simp] theorem Chip.raise_log (c : Chip) (x : Fld) : (c.raise x).log = c.log := rfl
@[simp] theorem Chip.raise_lkp (c : Chip) (x : Fld) : (c.raise x).lkp = c.lkp := rfl
@[simp] theorem Chip.raise_pnd (c : Chip) (x : Fld) : (c.raise x).pnd = c.pnd := rfl
@[simp] theorem Chip.raise_tim (c : Chip) (x : Fld) : (c.raise x).tim = c.tim := rfl
@[simp] theorem Chip.raise_pf (c : Chip) (x : Fld) : (c.raise x).pf = c.pf := rfl
@[simp] theorem Chip.raise_mem (c : Chip) (x : Fld) : (c.raise x).mem = c.mem := rfl
@[simp] theorem Chip.raise_lck (c : Chip) (x : Fld) : (c.raise x).lck = c.lck := rfl
@[simp] theorem Chip.raise_bsn (c : Chip) (x : Fld) : (c.raise x).bsn = c.bsn := rfl
@[simp] theorem Chip.raise_plan (c : Chip) (x : Fld) : (c.raise x).plan = c.plan := rfl
@[simp] theorem Chip.raise_man (c : Chip) (x : Fld) : (c.raise x).man = c.man := rfl
@[simp] theorem Chip.raise_slu (c : Chip) (x : Fld) : (c.raise x).slu = c.slu := rfl
@[simp] theorem Chip.raise_adc (c : Chip) (x : Fld) : (c.raise x).adc = c.adc := rfl
@[simp] theorem Chip.raise_tow (c : Chip) (x : Fld) : (c.raise x).tow = c.tow := rfl
@[simp] theorem Chip.raise_weir (c : Chip) (x : Fld) : (c.raise x).weir = c.weir := rfl
@[simp] theorem Chip.raise_gau (c : Chip) (x : Fld) : (c.raise x).gau = c.gau := rfl
@[simp] theorem Chip.raise_aqu (c : Chip) (x : Fld) : (c.raise x).aqu = c.aqu := rfl

@[simp] theorem Chip.count_now (c : Chip) (x : Fld) (n : Nat) : (c.count x n).now = c.now := rfl
@[simp] theorem Chip.count_fresh (c : Chip) (x : Fld) (n : Nat) : (c.count x n).fresh = c.fresh := rfl
@[simp] theorem Chip.count_out (c : Chip) (x : Fld) (n : Nat) : (c.count x n).out = c.out := rfl
@[simp] theorem Chip.count_hst (c : Chip) (x : Fld) (n : Nat) : (c.count x n).hst = c.hst := rfl
@[simp] theorem Chip.count_boot (c : Chip) (x : Fld) (n : Nat) : (c.count x n).boot = c.boot := rfl
@[simp] theorem Chip.count_log (c : Chip) (x : Fld) (n : Nat) : (c.count x n).log = c.log := rfl
@[simp] theorem Chip.count_lkp (c : Chip) (x : Fld) (n : Nat) : (c.count x n).lkp = c.lkp := rfl
@[simp] theorem Chip.count_pnd (c : Chip) (x : Fld) (n : Nat) : (c.count x n).pnd = c.pnd := rfl
@[simp] theorem Chip.count_tim (c : Chip) (x : Fld) (n : Nat) : (c.count x n).tim = c.tim := rfl
@[simp] theorem Chip.count_pf (c : Chip) (x : Fld) (n : Nat) : (c.count x n).pf = c.pf := rfl
@[simp] theorem Chip.count_mem (c : Chip) (x : Fld) (n : Nat) : (c.count x n).mem = c.mem := rfl
@[simp] theorem Chip.count_lck (c : Chip) (x : Fld) (n : Nat) : (c.count x n).lck = c.lck := rfl
@[simp] theorem Chip.count_bsn (c : Chip) (x : Fld) (n : Nat) : (c.count x n).bsn = c.bsn := rfl
@[simp] theorem Chip.count_plan (c : Chip) (x : Fld) (n : Nat) : (c.count x n).plan = c.plan := rfl
@[simp] theorem Chip.count_man (c : Chip) (x : Fld) (n : Nat) : (c.count x n).man = c.man := rfl
@[simp] theorem Chip.count_slu (c : Chip) (x : Fld) (n : Nat) : (c.count x n).slu = c.slu := rfl
@[simp] theorem Chip.count_adc (c : Chip) (x : Fld) (n : Nat) : (c.count x n).adc = c.adc := rfl
@[simp] theorem Chip.count_tow (c : Chip) (x : Fld) (n : Nat) : (c.count x n).tow = c.tow := rfl
@[simp] theorem Chip.count_weir (c : Chip) (x : Fld) (n : Nat) : (c.count x n).weir = c.weir := rfl
@[simp] theorem Chip.count_gau (c : Chip) (x : Fld) (n : Nat) : (c.count x n).gau = c.gau := rfl
@[simp] theorem Chip.count_aqu (c : Chip) (x : Fld) (n : Nat) : (c.count x n).aqu = c.aqu := rfl

@[simp] theorem Chip.raiseBit_now (c : Chip) (off i : Nat) : (c.raiseBit off i).now = c.now := rfl
@[simp] theorem Chip.raiseBit_fresh (c : Chip) (off i : Nat) : (c.raiseBit off i).fresh = c.fresh := rfl
@[simp] theorem Chip.raiseBit_out (c : Chip) (off i : Nat) : (c.raiseBit off i).out = c.out := rfl
@[simp] theorem Chip.raiseBit_hst (c : Chip) (off i : Nat) : (c.raiseBit off i).hst = c.hst := rfl
@[simp] theorem Chip.raiseBit_boot (c : Chip) (off i : Nat) : (c.raiseBit off i).boot = c.boot := rfl
@[simp] theorem Chip.raiseBit_log (c : Chip) (off i : Nat) : (c.raiseBit off i).log = c.log := rfl
@[simp] theorem Chip.raiseBit_lkp (c : Chip) (off i : Nat) : (c.raiseBit off i).lkp = c.lkp := rfl
@[simp] theorem Chip.raiseBit_pnd (c : Chip) (off i : Nat) : (c.raiseBit off i).pnd = c.pnd := rfl
@[simp] theorem Chip.raiseBit_tim (c : Chip) (off i : Nat) : (c.raiseBit off i).tim = c.tim := rfl
@[simp] theorem Chip.raiseBit_pf (c : Chip) (off i : Nat) : (c.raiseBit off i).pf = c.pf := rfl
@[simp] theorem Chip.raiseBit_mem (c : Chip) (off i : Nat) : (c.raiseBit off i).mem = c.mem := rfl
@[simp] theorem Chip.raiseBit_lck (c : Chip) (off i : Nat) : (c.raiseBit off i).lck = c.lck := rfl
@[simp] theorem Chip.raiseBit_bsn (c : Chip) (off i : Nat) : (c.raiseBit off i).bsn = c.bsn := rfl
@[simp] theorem Chip.raiseBit_plan (c : Chip) (off i : Nat) : (c.raiseBit off i).plan = c.plan := rfl
@[simp] theorem Chip.raiseBit_man (c : Chip) (off i : Nat) : (c.raiseBit off i).man = c.man := rfl
@[simp] theorem Chip.raiseBit_slu (c : Chip) (off i : Nat) : (c.raiseBit off i).slu = c.slu := rfl
@[simp] theorem Chip.raiseBit_adc (c : Chip) (off i : Nat) : (c.raiseBit off i).adc = c.adc := rfl
@[simp] theorem Chip.raiseBit_tow (c : Chip) (off i : Nat) : (c.raiseBit off i).tow = c.tow := rfl
@[simp] theorem Chip.raiseBit_weir (c : Chip) (off i : Nat) : (c.raiseBit off i).weir = c.weir := rfl
@[simp] theorem Chip.raiseBit_gau (c : Chip) (off i : Nat) : (c.raiseBit off i).gau = c.gau := rfl
@[simp] theorem Chip.raiseBit_aqu (c : Chip) (off i : Nat) : (c.raiseBit off i).aqu = c.aqu := rfl

@[simp] theorem Chip.clearMask_now (c : Chip) (off mask : Nat) : (c.clearMask off mask).now = c.now := rfl
@[simp] theorem Chip.clearMask_fresh (c : Chip) (off mask : Nat) : (c.clearMask off mask).fresh = c.fresh := rfl
@[simp] theorem Chip.clearMask_edges (c : Chip) (off mask : Nat) : (c.clearMask off mask).edges = c.edges := rfl
@[simp] theorem Chip.clearMask_out (c : Chip) (off mask : Nat) : (c.clearMask off mask).out = c.out := rfl
@[simp] theorem Chip.clearMask_hst (c : Chip) (off mask : Nat) : (c.clearMask off mask).hst = c.hst := rfl
@[simp] theorem Chip.clearMask_boot (c : Chip) (off mask : Nat) : (c.clearMask off mask).boot = c.boot := rfl
@[simp] theorem Chip.clearMask_log (c : Chip) (off mask : Nat) : (c.clearMask off mask).log = c.log := rfl
@[simp] theorem Chip.clearMask_lkp (c : Chip) (off mask : Nat) : (c.clearMask off mask).lkp = c.lkp := rfl
@[simp] theorem Chip.clearMask_pnd (c : Chip) (off mask : Nat) : (c.clearMask off mask).pnd = c.pnd := rfl
@[simp] theorem Chip.clearMask_tim (c : Chip) (off mask : Nat) : (c.clearMask off mask).tim = c.tim := rfl
@[simp] theorem Chip.clearMask_pf (c : Chip) (off mask : Nat) : (c.clearMask off mask).pf = c.pf := rfl
@[simp] theorem Chip.clearMask_mem (c : Chip) (off mask : Nat) : (c.clearMask off mask).mem = c.mem := rfl
@[simp] theorem Chip.clearMask_lck (c : Chip) (off mask : Nat) : (c.clearMask off mask).lck = c.lck := rfl
@[simp] theorem Chip.clearMask_bsn (c : Chip) (off mask : Nat) : (c.clearMask off mask).bsn = c.bsn := rfl
@[simp] theorem Chip.clearMask_plan (c : Chip) (off mask : Nat) : (c.clearMask off mask).plan = c.plan := rfl
@[simp] theorem Chip.clearMask_man (c : Chip) (off mask : Nat) : (c.clearMask off mask).man = c.man := rfl
@[simp] theorem Chip.clearMask_slu (c : Chip) (off mask : Nat) : (c.clearMask off mask).slu = c.slu := rfl
@[simp] theorem Chip.clearMask_adc (c : Chip) (off mask : Nat) : (c.clearMask off mask).adc = c.adc := rfl
@[simp] theorem Chip.clearMask_tow (c : Chip) (off mask : Nat) : (c.clearMask off mask).tow = c.tow := rfl
@[simp] theorem Chip.clearMask_weir (c : Chip) (off mask : Nat) : (c.clearMask off mask).weir = c.weir := rfl
@[simp] theorem Chip.clearMask_gau (c : Chip) (off mask : Nat) : (c.clearMask off mask).gau = c.gau := rfl
@[simp] theorem Chip.clearMask_aqu (c : Chip) (off mask : Nat) : (c.clearMask off mask).aqu = c.aqu := rfl

@[simp] theorem Chip.at_fresh (c : Chip) (t : Nat) : (c.at t).fresh = c.fresh := rfl
@[simp] theorem Chip.at_edges (c : Chip) (t : Nat) : (c.at t).edges = c.edges := rfl
@[simp] theorem Chip.at_regs (c : Chip) (t : Nat) : (c.at t).regs = c.regs := rfl
@[simp] theorem Chip.at_out (c : Chip) (t : Nat) : (c.at t).out = c.out := rfl
@[simp] theorem Chip.at_hst (c : Chip) (t : Nat) : (c.at t).hst = c.hst := rfl
@[simp] theorem Chip.at_boot (c : Chip) (t : Nat) : (c.at t).boot = c.boot := rfl
@[simp] theorem Chip.at_log (c : Chip) (t : Nat) : (c.at t).log = c.log := rfl
@[simp] theorem Chip.at_lkp (c : Chip) (t : Nat) : (c.at t).lkp = c.lkp := rfl
@[simp] theorem Chip.at_pnd (c : Chip) (t : Nat) : (c.at t).pnd = c.pnd := rfl
@[simp] theorem Chip.at_tim (c : Chip) (t : Nat) : (c.at t).tim = c.tim := rfl
@[simp] theorem Chip.at_pf (c : Chip) (t : Nat) : (c.at t).pf = c.pf := rfl
@[simp] theorem Chip.at_mem (c : Chip) (t : Nat) : (c.at t).mem = c.mem := rfl
@[simp] theorem Chip.at_lck (c : Chip) (t : Nat) : (c.at t).lck = c.lck := rfl
@[simp] theorem Chip.at_bsn (c : Chip) (t : Nat) : (c.at t).bsn = c.bsn := rfl
@[simp] theorem Chip.at_plan (c : Chip) (t : Nat) : (c.at t).plan = c.plan := rfl
@[simp] theorem Chip.at_man (c : Chip) (t : Nat) : (c.at t).man = c.man := rfl
@[simp] theorem Chip.at_slu (c : Chip) (t : Nat) : (c.at t).slu = c.slu := rfl
@[simp] theorem Chip.at_adc (c : Chip) (t : Nat) : (c.at t).adc = c.adc := rfl
@[simp] theorem Chip.at_tow (c : Chip) (t : Nat) : (c.at t).tow = c.tow := rfl
@[simp] theorem Chip.at_weir (c : Chip) (t : Nat) : (c.at t).weir = c.weir := rfl
@[simp] theorem Chip.at_gau (c : Chip) (t : Nat) : (c.at t).gau = c.gau := rfl
@[simp] theorem Chip.at_aqu (c : Chip) (t : Nat) : (c.at t).aqu = c.aqu := rfl

@[simp] theorem Chip.emit_now (c : Chip) (o : Output) : (c.emit o).now = c.now := rfl
@[simp] theorem Chip.emit_fresh (c : Chip) (o : Output) : (c.emit o).fresh = c.fresh := rfl
@[simp] theorem Chip.emit_edges (c : Chip) (o : Output) : (c.emit o).edges = c.edges := rfl
@[simp] theorem Chip.emit_regs (c : Chip) (o : Output) : (c.emit o).regs = c.regs := rfl
@[simp] theorem Chip.emit_hst (c : Chip) (o : Output) : (c.emit o).hst = c.hst := rfl
@[simp] theorem Chip.emit_boot (c : Chip) (o : Output) : (c.emit o).boot = c.boot := rfl
@[simp] theorem Chip.emit_log (c : Chip) (o : Output) : (c.emit o).log = c.log := rfl
@[simp] theorem Chip.emit_lkp (c : Chip) (o : Output) : (c.emit o).lkp = c.lkp := rfl
@[simp] theorem Chip.emit_pnd (c : Chip) (o : Output) : (c.emit o).pnd = c.pnd := rfl
@[simp] theorem Chip.emit_tim (c : Chip) (o : Output) : (c.emit o).tim = c.tim := rfl
@[simp] theorem Chip.emit_pf (c : Chip) (o : Output) : (c.emit o).pf = c.pf := rfl
@[simp] theorem Chip.emit_mem (c : Chip) (o : Output) : (c.emit o).mem = c.mem := rfl
@[simp] theorem Chip.emit_lck (c : Chip) (o : Output) : (c.emit o).lck = c.lck := rfl
@[simp] theorem Chip.emit_bsn (c : Chip) (o : Output) : (c.emit o).bsn = c.bsn := rfl
@[simp] theorem Chip.emit_plan (c : Chip) (o : Output) : (c.emit o).plan = c.plan := rfl
@[simp] theorem Chip.emit_man (c : Chip) (o : Output) : (c.emit o).man = c.man := rfl
@[simp] theorem Chip.emit_slu (c : Chip) (o : Output) : (c.emit o).slu = c.slu := rfl
@[simp] theorem Chip.emit_adc (c : Chip) (o : Output) : (c.emit o).adc = c.adc := rfl
@[simp] theorem Chip.emit_tow (c : Chip) (o : Output) : (c.emit o).tow = c.tow := rfl
@[simp] theorem Chip.emit_weir (c : Chip) (o : Output) : (c.emit o).weir = c.weir := rfl
@[simp] theorem Chip.emit_gau (c : Chip) (o : Output) : (c.emit o).gau = c.gau := rfl
@[simp] theorem Chip.emit_aqu (c : Chip) (o : Output) : (c.emit o).aqu = c.aqu := rfl

@[simp] theorem Chip.ledger_now (c : Chip) (r : LedgerRec) : (c.ledger r).now = c.now := rfl
@[simp] theorem Chip.ledger_fresh (c : Chip) (r : LedgerRec) : (c.ledger r).fresh = c.fresh := rfl
@[simp] theorem Chip.ledger_edges (c : Chip) (r : LedgerRec) : (c.ledger r).edges = c.edges := rfl
@[simp] theorem Chip.ledger_regs (c : Chip) (r : LedgerRec) : (c.ledger r).regs = c.regs := rfl
@[simp] theorem Chip.ledger_out (c : Chip) (r : LedgerRec) : (c.ledger r).out = c.out := rfl
@[simp] theorem Chip.ledger_hst (c : Chip) (r : LedgerRec) : (c.ledger r).hst = c.hst := rfl
@[simp] theorem Chip.ledger_boot (c : Chip) (r : LedgerRec) : (c.ledger r).boot = c.boot := rfl
@[simp] theorem Chip.ledger_log (c : Chip) (r : LedgerRec) : (c.ledger r).log = c.log := rfl
@[simp] theorem Chip.ledger_lkp (c : Chip) (r : LedgerRec) : (c.ledger r).lkp = c.lkp := rfl
@[simp] theorem Chip.ledger_pnd (c : Chip) (r : LedgerRec) : (c.ledger r).pnd = c.pnd := rfl
@[simp] theorem Chip.ledger_tim (c : Chip) (r : LedgerRec) : (c.ledger r).tim = c.tim := rfl
@[simp] theorem Chip.ledger_pf (c : Chip) (r : LedgerRec) : (c.ledger r).pf = c.pf := rfl
@[simp] theorem Chip.ledger_mem (c : Chip) (r : LedgerRec) : (c.ledger r).mem = c.mem := rfl
@[simp] theorem Chip.ledger_lck (c : Chip) (r : LedgerRec) : (c.ledger r).lck = c.lck := rfl
@[simp] theorem Chip.ledger_bsn (c : Chip) (r : LedgerRec) : (c.ledger r).bsn = c.bsn := rfl
@[simp] theorem Chip.ledger_plan (c : Chip) (r : LedgerRec) : (c.ledger r).plan = c.plan := rfl
@[simp] theorem Chip.ledger_man (c : Chip) (r : LedgerRec) : (c.ledger r).man = c.man := rfl
@[simp] theorem Chip.ledger_slu (c : Chip) (r : LedgerRec) : (c.ledger r).slu = c.slu := rfl
@[simp] theorem Chip.ledger_adc (c : Chip) (r : LedgerRec) : (c.ledger r).adc = c.adc := rfl
@[simp] theorem Chip.ledger_tow (c : Chip) (r : LedgerRec) : (c.ledger r).tow = c.tow := rfl
@[simp] theorem Chip.ledger_weir (c : Chip) (r : LedgerRec) : (c.ledger r).weir = c.weir := rfl
@[simp] theorem Chip.ledger_gau (c : Chip) (r : LedgerRec) : (c.ledger r).gau = c.gau := rfl

@[simp] theorem Chip.setLad_now (c : Chip) (l : LadId) (x : Lading) : (c.setLad l x).now = c.now := rfl
@[simp] theorem Chip.setLad_fresh (c : Chip) (l : LadId) (x : Lading) : (c.setLad l x).fresh = c.fresh := rfl
@[simp] theorem Chip.setLad_edges (c : Chip) (l : LadId) (x : Lading) : (c.setLad l x).edges = c.edges := rfl
@[simp] theorem Chip.setLad_regs (c : Chip) (l : LadId) (x : Lading) : (c.setLad l x).regs = c.regs := rfl
@[simp] theorem Chip.setLad_out (c : Chip) (l : LadId) (x : Lading) : (c.setLad l x).out = c.out := rfl
@[simp] theorem Chip.setLad_boot (c : Chip) (l : LadId) (x : Lading) : (c.setLad l x).boot = c.boot := rfl
@[simp] theorem Chip.setLad_log (c : Chip) (l : LadId) (x : Lading) : (c.setLad l x).log = c.log := rfl
@[simp] theorem Chip.setLad_lkp (c : Chip) (l : LadId) (x : Lading) : (c.setLad l x).lkp = c.lkp := rfl
@[simp] theorem Chip.setLad_pnd (c : Chip) (l : LadId) (x : Lading) : (c.setLad l x).pnd = c.pnd := rfl
@[simp] theorem Chip.setLad_tim (c : Chip) (l : LadId) (x : Lading) : (c.setLad l x).tim = c.tim := rfl
@[simp] theorem Chip.setLad_pf (c : Chip) (l : LadId) (x : Lading) : (c.setLad l x).pf = c.pf := rfl
@[simp] theorem Chip.setLad_mem (c : Chip) (l : LadId) (x : Lading) : (c.setLad l x).mem = c.mem := rfl
@[simp] theorem Chip.setLad_lck (c : Chip) (l : LadId) (x : Lading) : (c.setLad l x).lck = c.lck := rfl
@[simp] theorem Chip.setLad_bsn (c : Chip) (l : LadId) (x : Lading) : (c.setLad l x).bsn = c.bsn := rfl
@[simp] theorem Chip.setLad_plan (c : Chip) (l : LadId) (x : Lading) : (c.setLad l x).plan = c.plan := rfl
@[simp] theorem Chip.setLad_man (c : Chip) (l : LadId) (x : Lading) : (c.setLad l x).man = c.man := rfl
@[simp] theorem Chip.setLad_slu (c : Chip) (l : LadId) (x : Lading) : (c.setLad l x).slu = c.slu := rfl
@[simp] theorem Chip.setLad_adc (c : Chip) (l : LadId) (x : Lading) : (c.setLad l x).adc = c.adc := rfl
@[simp] theorem Chip.setLad_tow (c : Chip) (l : LadId) (x : Lading) : (c.setLad l x).tow = c.tow := rfl
@[simp] theorem Chip.setLad_weir (c : Chip) (l : LadId) (x : Lading) : (c.setLad l x).weir = c.weir := rfl
@[simp] theorem Chip.setLad_gau (c : Chip) (l : LadId) (x : Lading) : (c.setLad l x).gau = c.gau := rfl
@[simp] theorem Chip.setLad_aqu (c : Chip) (l : LadId) (x : Lading) : (c.setLad l x).aqu = c.aqu := rfl

@[simp] theorem Chip.setSnap_now (c : Chip) (i : Iface) (x : Snap) : (c.setSnap i x).now = c.now := rfl
@[simp] theorem Chip.setSnap_fresh (c : Chip) (i : Iface) (x : Snap) : (c.setSnap i x).fresh = c.fresh := rfl
@[simp] theorem Chip.setSnap_edges (c : Chip) (i : Iface) (x : Snap) : (c.setSnap i x).edges = c.edges := rfl
@[simp] theorem Chip.setSnap_regs (c : Chip) (i : Iface) (x : Snap) : (c.setSnap i x).regs = c.regs := rfl
@[simp] theorem Chip.setSnap_out (c : Chip) (i : Iface) (x : Snap) : (c.setSnap i x).out = c.out := rfl
@[simp] theorem Chip.setSnap_boot (c : Chip) (i : Iface) (x : Snap) : (c.setSnap i x).boot = c.boot := rfl
@[simp] theorem Chip.setSnap_log (c : Chip) (i : Iface) (x : Snap) : (c.setSnap i x).log = c.log := rfl
@[simp] theorem Chip.setSnap_lkp (c : Chip) (i : Iface) (x : Snap) : (c.setSnap i x).lkp = c.lkp := rfl
@[simp] theorem Chip.setSnap_pnd (c : Chip) (i : Iface) (x : Snap) : (c.setSnap i x).pnd = c.pnd := rfl
@[simp] theorem Chip.setSnap_tim (c : Chip) (i : Iface) (x : Snap) : (c.setSnap i x).tim = c.tim := rfl
@[simp] theorem Chip.setSnap_pf (c : Chip) (i : Iface) (x : Snap) : (c.setSnap i x).pf = c.pf := rfl
@[simp] theorem Chip.setSnap_mem (c : Chip) (i : Iface) (x : Snap) : (c.setSnap i x).mem = c.mem := rfl
@[simp] theorem Chip.setSnap_lck (c : Chip) (i : Iface) (x : Snap) : (c.setSnap i x).lck = c.lck := rfl
@[simp] theorem Chip.setSnap_bsn (c : Chip) (i : Iface) (x : Snap) : (c.setSnap i x).bsn = c.bsn := rfl
@[simp] theorem Chip.setSnap_plan (c : Chip) (i : Iface) (x : Snap) : (c.setSnap i x).plan = c.plan := rfl
@[simp] theorem Chip.setSnap_man (c : Chip) (i : Iface) (x : Snap) : (c.setSnap i x).man = c.man := rfl
@[simp] theorem Chip.setSnap_slu (c : Chip) (i : Iface) (x : Snap) : (c.setSnap i x).slu = c.slu := rfl
@[simp] theorem Chip.setSnap_adc (c : Chip) (i : Iface) (x : Snap) : (c.setSnap i x).adc = c.adc := rfl
@[simp] theorem Chip.setSnap_tow (c : Chip) (i : Iface) (x : Snap) : (c.setSnap i x).tow = c.tow := rfl
@[simp] theorem Chip.setSnap_weir (c : Chip) (i : Iface) (x : Snap) : (c.setSnap i x).weir = c.weir := rfl
@[simp] theorem Chip.setSnap_gau (c : Chip) (i : Iface) (x : Snap) : (c.setSnap i x).gau = c.gau := rfl
@[simp] theorem Chip.setSnap_aqu (c : Chip) (i : Iface) (x : Snap) : (c.setSnap i x).aqu = c.aqu := rfl

@[simp] theorem Chip.setBoot_now (c : Chip) (f : Boot → Boot) : (c.setBoot f).now = c.now := rfl
@[simp] theorem Chip.setBoot_fresh (c : Chip) (f : Boot → Boot) : (c.setBoot f).fresh = c.fresh := rfl
@[simp] theorem Chip.setBoot_edges (c : Chip) (f : Boot → Boot) : (c.setBoot f).edges = c.edges := rfl
@[simp] theorem Chip.setBoot_regs (c : Chip) (f : Boot → Boot) : (c.setBoot f).regs = c.regs := rfl
@[simp] theorem Chip.setBoot_out (c : Chip) (f : Boot → Boot) : (c.setBoot f).out = c.out := rfl
@[simp] theorem Chip.setBoot_hst (c : Chip) (f : Boot → Boot) : (c.setBoot f).hst = c.hst := rfl
@[simp] theorem Chip.setBoot_log (c : Chip) (f : Boot → Boot) : (c.setBoot f).log = c.log := rfl
@[simp] theorem Chip.setBoot_lkp (c : Chip) (f : Boot → Boot) : (c.setBoot f).lkp = c.lkp := rfl
@[simp] theorem Chip.setBoot_pnd (c : Chip) (f : Boot → Boot) : (c.setBoot f).pnd = c.pnd := rfl
@[simp] theorem Chip.setBoot_tim (c : Chip) (f : Boot → Boot) : (c.setBoot f).tim = c.tim := rfl
@[simp] theorem Chip.setBoot_pf (c : Chip) (f : Boot → Boot) : (c.setBoot f).pf = c.pf := rfl
@[simp] theorem Chip.setBoot_mem (c : Chip) (f : Boot → Boot) : (c.setBoot f).mem = c.mem := rfl
@[simp] theorem Chip.setBoot_lck (c : Chip) (f : Boot → Boot) : (c.setBoot f).lck = c.lck := rfl
@[simp] theorem Chip.setBoot_bsn (c : Chip) (f : Boot → Boot) : (c.setBoot f).bsn = c.bsn := rfl
@[simp] theorem Chip.setBoot_plan (c : Chip) (f : Boot → Boot) : (c.setBoot f).plan = c.plan := rfl
@[simp] theorem Chip.setBoot_man (c : Chip) (f : Boot → Boot) : (c.setBoot f).man = c.man := rfl
@[simp] theorem Chip.setBoot_slu (c : Chip) (f : Boot → Boot) : (c.setBoot f).slu = c.slu := rfl
@[simp] theorem Chip.setBoot_adc (c : Chip) (f : Boot → Boot) : (c.setBoot f).adc = c.adc := rfl
@[simp] theorem Chip.setBoot_tow (c : Chip) (f : Boot → Boot) : (c.setBoot f).tow = c.tow := rfl
@[simp] theorem Chip.setBoot_weir (c : Chip) (f : Boot → Boot) : (c.setBoot f).weir = c.weir := rfl
@[simp] theorem Chip.setBoot_gau (c : Chip) (f : Boot → Boot) : (c.setBoot f).gau = c.gau := rfl
@[simp] theorem Chip.setBoot_aqu (c : Chip) (f : Boot → Boot) : (c.setBoot f).aqu = c.aqu := rfl

@[simp] theorem Chip.setLog_now (c : Chip) (f : Logbook → Logbook) : (c.setLog f).now = c.now := rfl
@[simp] theorem Chip.setLog_fresh (c : Chip) (f : Logbook → Logbook) : (c.setLog f).fresh = c.fresh := rfl
@[simp] theorem Chip.setLog_edges (c : Chip) (f : Logbook → Logbook) : (c.setLog f).edges = c.edges := rfl
@[simp] theorem Chip.setLog_regs (c : Chip) (f : Logbook → Logbook) : (c.setLog f).regs = c.regs := rfl
@[simp] theorem Chip.setLog_out (c : Chip) (f : Logbook → Logbook) : (c.setLog f).out = c.out := rfl
@[simp] theorem Chip.setLog_hst (c : Chip) (f : Logbook → Logbook) : (c.setLog f).hst = c.hst := rfl
@[simp] theorem Chip.setLog_boot (c : Chip) (f : Logbook → Logbook) : (c.setLog f).boot = c.boot := rfl
@[simp] theorem Chip.setLog_lkp (c : Chip) (f : Logbook → Logbook) : (c.setLog f).lkp = c.lkp := rfl
@[simp] theorem Chip.setLog_pnd (c : Chip) (f : Logbook → Logbook) : (c.setLog f).pnd = c.pnd := rfl
@[simp] theorem Chip.setLog_tim (c : Chip) (f : Logbook → Logbook) : (c.setLog f).tim = c.tim := rfl
@[simp] theorem Chip.setLog_pf (c : Chip) (f : Logbook → Logbook) : (c.setLog f).pf = c.pf := rfl
@[simp] theorem Chip.setLog_mem (c : Chip) (f : Logbook → Logbook) : (c.setLog f).mem = c.mem := rfl
@[simp] theorem Chip.setLog_lck (c : Chip) (f : Logbook → Logbook) : (c.setLog f).lck = c.lck := rfl
@[simp] theorem Chip.setLog_bsn (c : Chip) (f : Logbook → Logbook) : (c.setLog f).bsn = c.bsn := rfl
@[simp] theorem Chip.setLog_plan (c : Chip) (f : Logbook → Logbook) : (c.setLog f).plan = c.plan := rfl
@[simp] theorem Chip.setLog_man (c : Chip) (f : Logbook → Logbook) : (c.setLog f).man = c.man := rfl
@[simp] theorem Chip.setLog_slu (c : Chip) (f : Logbook → Logbook) : (c.setLog f).slu = c.slu := rfl
@[simp] theorem Chip.setLog_adc (c : Chip) (f : Logbook → Logbook) : (c.setLog f).adc = c.adc := rfl
@[simp] theorem Chip.setLog_tow (c : Chip) (f : Logbook → Logbook) : (c.setLog f).tow = c.tow := rfl
@[simp] theorem Chip.setLog_weir (c : Chip) (f : Logbook → Logbook) : (c.setLog f).weir = c.weir := rfl
@[simp] theorem Chip.setLog_gau (c : Chip) (f : Logbook → Logbook) : (c.setLog f).gau = c.gau := rfl
@[simp] theorem Chip.setLog_aqu (c : Chip) (f : Logbook → Logbook) : (c.setLog f).aqu = c.aqu := rfl

@[simp] theorem Chip.setAqu_now (c : Chip) (f : Aqu → Aqu) : (c.setAqu f).now = c.now := rfl
@[simp] theorem Chip.setAqu_fresh (c : Chip) (f : Aqu → Aqu) : (c.setAqu f).fresh = c.fresh := rfl
@[simp] theorem Chip.setAqu_edges (c : Chip) (f : Aqu → Aqu) : (c.setAqu f).edges = c.edges := rfl
@[simp] theorem Chip.setAqu_regs (c : Chip) (f : Aqu → Aqu) : (c.setAqu f).regs = c.regs := rfl
@[simp] theorem Chip.setAqu_out (c : Chip) (f : Aqu → Aqu) : (c.setAqu f).out = c.out := rfl
@[simp] theorem Chip.setAqu_hst (c : Chip) (f : Aqu → Aqu) : (c.setAqu f).hst = c.hst := rfl
@[simp] theorem Chip.setAqu_boot (c : Chip) (f : Aqu → Aqu) : (c.setAqu f).boot = c.boot := rfl
@[simp] theorem Chip.setAqu_log (c : Chip) (f : Aqu → Aqu) : (c.setAqu f).log = c.log := rfl
@[simp] theorem Chip.setAqu_lkp (c : Chip) (f : Aqu → Aqu) : (c.setAqu f).lkp = c.lkp := rfl
@[simp] theorem Chip.setAqu_pnd (c : Chip) (f : Aqu → Aqu) : (c.setAqu f).pnd = c.pnd := rfl
@[simp] theorem Chip.setAqu_tim (c : Chip) (f : Aqu → Aqu) : (c.setAqu f).tim = c.tim := rfl
@[simp] theorem Chip.setAqu_pf (c : Chip) (f : Aqu → Aqu) : (c.setAqu f).pf = c.pf := rfl
@[simp] theorem Chip.setAqu_mem (c : Chip) (f : Aqu → Aqu) : (c.setAqu f).mem = c.mem := rfl
@[simp] theorem Chip.setAqu_lck (c : Chip) (f : Aqu → Aqu) : (c.setAqu f).lck = c.lck := rfl
@[simp] theorem Chip.setAqu_bsn (c : Chip) (f : Aqu → Aqu) : (c.setAqu f).bsn = c.bsn := rfl
@[simp] theorem Chip.setAqu_plan (c : Chip) (f : Aqu → Aqu) : (c.setAqu f).plan = c.plan := rfl
@[simp] theorem Chip.setAqu_man (c : Chip) (f : Aqu → Aqu) : (c.setAqu f).man = c.man := rfl
@[simp] theorem Chip.setAqu_slu (c : Chip) (f : Aqu → Aqu) : (c.setAqu f).slu = c.slu := rfl
@[simp] theorem Chip.setAqu_adc (c : Chip) (f : Aqu → Aqu) : (c.setAqu f).adc = c.adc := rfl
@[simp] theorem Chip.setAqu_tow (c : Chip) (f : Aqu → Aqu) : (c.setAqu f).tow = c.tow := rfl
@[simp] theorem Chip.setAqu_weir (c : Chip) (f : Aqu → Aqu) : (c.setAqu f).weir = c.weir := rfl
@[simp] theorem Chip.setAqu_gau (c : Chip) (f : Aqu → Aqu) : (c.setAqu f).gau = c.gau := rfl

@[simp] theorem Chip.setFlight_now (c : Chip) (f : Nat) (x : Flight) : (c.setFlight f x).now = c.now := rfl
@[simp] theorem Chip.setFlight_fresh (c : Chip) (f : Nat) (x : Flight) : (c.setFlight f x).fresh = c.fresh := rfl
@[simp] theorem Chip.setFlight_edges (c : Chip) (f : Nat) (x : Flight) : (c.setFlight f x).edges = c.edges := rfl
@[simp] theorem Chip.setFlight_regs (c : Chip) (f : Nat) (x : Flight) : (c.setFlight f x).regs = c.regs := rfl
@[simp] theorem Chip.setFlight_out (c : Chip) (f : Nat) (x : Flight) : (c.setFlight f x).out = c.out := rfl
@[simp] theorem Chip.setFlight_hst (c : Chip) (f : Nat) (x : Flight) : (c.setFlight f x).hst = c.hst := rfl
@[simp] theorem Chip.setFlight_boot (c : Chip) (f : Nat) (x : Flight) : (c.setFlight f x).boot = c.boot := rfl
@[simp] theorem Chip.setFlight_log (c : Chip) (f : Nat) (x : Flight) : (c.setFlight f x).log = c.log := rfl
@[simp] theorem Chip.setFlight_lkp (c : Chip) (f : Nat) (x : Flight) : (c.setFlight f x).lkp = c.lkp := rfl
@[simp] theorem Chip.setFlight_pnd (c : Chip) (f : Nat) (x : Flight) : (c.setFlight f x).pnd = c.pnd := rfl
@[simp] theorem Chip.setFlight_tim (c : Chip) (f : Nat) (x : Flight) : (c.setFlight f x).tim = c.tim := rfl
@[simp] theorem Chip.setFlight_pf (c : Chip) (f : Nat) (x : Flight) : (c.setFlight f x).pf = c.pf := rfl
@[simp] theorem Chip.setFlight_mem (c : Chip) (f : Nat) (x : Flight) : (c.setFlight f x).mem = c.mem := rfl
@[simp] theorem Chip.setFlight_bsn (c : Chip) (f : Nat) (x : Flight) : (c.setFlight f x).bsn = c.bsn := rfl
@[simp] theorem Chip.setFlight_plan (c : Chip) (f : Nat) (x : Flight) : (c.setFlight f x).plan = c.plan := rfl
@[simp] theorem Chip.setFlight_man (c : Chip) (f : Nat) (x : Flight) : (c.setFlight f x).man = c.man := rfl
@[simp] theorem Chip.setFlight_slu (c : Chip) (f : Nat) (x : Flight) : (c.setFlight f x).slu = c.slu := rfl
@[simp] theorem Chip.setFlight_adc (c : Chip) (f : Nat) (x : Flight) : (c.setFlight f x).adc = c.adc := rfl
@[simp] theorem Chip.setFlight_tow (c : Chip) (f : Nat) (x : Flight) : (c.setFlight f x).tow = c.tow := rfl
@[simp] theorem Chip.setFlight_weir (c : Chip) (f : Nat) (x : Flight) : (c.setFlight f x).weir = c.weir := rfl
@[simp] theorem Chip.setFlight_gau (c : Chip) (f : Nat) (x : Flight) : (c.setFlight f x).gau = c.gau := rfl
@[simp] theorem Chip.setFlight_aqu (c : Chip) (f : Nat) (x : Flight) : (c.setFlight f x).aqu = c.aqu := rfl

@[simp] theorem Chip.setAxis_now (c : Chip) (a : Nat) (x : Axis) : (c.setAxis a x).now = c.now := rfl
@[simp] theorem Chip.setAxis_fresh (c : Chip) (a : Nat) (x : Axis) : (c.setAxis a x).fresh = c.fresh := rfl
@[simp] theorem Chip.setAxis_edges (c : Chip) (a : Nat) (x : Axis) : (c.setAxis a x).edges = c.edges := rfl
@[simp] theorem Chip.setAxis_regs (c : Chip) (a : Nat) (x : Axis) : (c.setAxis a x).regs = c.regs := rfl
@[simp] theorem Chip.setAxis_out (c : Chip) (a : Nat) (x : Axis) : (c.setAxis a x).out = c.out := rfl
@[simp] theorem Chip.setAxis_hst (c : Chip) (a : Nat) (x : Axis) : (c.setAxis a x).hst = c.hst := rfl
@[simp] theorem Chip.setAxis_boot (c : Chip) (a : Nat) (x : Axis) : (c.setAxis a x).boot = c.boot := rfl
@[simp] theorem Chip.setAxis_log (c : Chip) (a : Nat) (x : Axis) : (c.setAxis a x).log = c.log := rfl
@[simp] theorem Chip.setAxis_lkp (c : Chip) (a : Nat) (x : Axis) : (c.setAxis a x).lkp = c.lkp := rfl
@[simp] theorem Chip.setAxis_pnd (c : Chip) (a : Nat) (x : Axis) : (c.setAxis a x).pnd = c.pnd := rfl
@[simp] theorem Chip.setAxis_tim (c : Chip) (a : Nat) (x : Axis) : (c.setAxis a x).tim = c.tim := rfl
@[simp] theorem Chip.setAxis_pf (c : Chip) (a : Nat) (x : Axis) : (c.setAxis a x).pf = c.pf := rfl
@[simp] theorem Chip.setAxis_mem (c : Chip) (a : Nat) (x : Axis) : (c.setAxis a x).mem = c.mem := rfl
@[simp] theorem Chip.setAxis_bsn (c : Chip) (a : Nat) (x : Axis) : (c.setAxis a x).bsn = c.bsn := rfl
@[simp] theorem Chip.setAxis_plan (c : Chip) (a : Nat) (x : Axis) : (c.setAxis a x).plan = c.plan := rfl
@[simp] theorem Chip.setAxis_man (c : Chip) (a : Nat) (x : Axis) : (c.setAxis a x).man = c.man := rfl
@[simp] theorem Chip.setAxis_slu (c : Chip) (a : Nat) (x : Axis) : (c.setAxis a x).slu = c.slu := rfl
@[simp] theorem Chip.setAxis_adc (c : Chip) (a : Nat) (x : Axis) : (c.setAxis a x).adc = c.adc := rfl
@[simp] theorem Chip.setAxis_tow (c : Chip) (a : Nat) (x : Axis) : (c.setAxis a x).tow = c.tow := rfl
@[simp] theorem Chip.setAxis_weir (c : Chip) (a : Nat) (x : Axis) : (c.setAxis a x).weir = c.weir := rfl
@[simp] theorem Chip.setAxis_gau (c : Chip) (a : Nat) (x : Axis) : (c.setAxis a x).gau = c.gau := rfl
@[simp] theorem Chip.setAxis_aqu (c : Chip) (a : Nat) (x : Axis) : (c.setAxis a x).aqu = c.aqu := rfl

@[simp] theorem Chip.setWeir_now (c : Chip) (f : Weir → Weir) : (c.setWeir f).now = c.now := rfl
@[simp] theorem Chip.setWeir_fresh (c : Chip) (f : Weir → Weir) : (c.setWeir f).fresh = c.fresh := rfl
@[simp] theorem Chip.setWeir_edges (c : Chip) (f : Weir → Weir) : (c.setWeir f).edges = c.edges := rfl
@[simp] theorem Chip.setWeir_regs (c : Chip) (f : Weir → Weir) : (c.setWeir f).regs = c.regs := rfl
@[simp] theorem Chip.setWeir_out (c : Chip) (f : Weir → Weir) : (c.setWeir f).out = c.out := rfl
@[simp] theorem Chip.setWeir_hst (c : Chip) (f : Weir → Weir) : (c.setWeir f).hst = c.hst := rfl
@[simp] theorem Chip.setWeir_boot (c : Chip) (f : Weir → Weir) : (c.setWeir f).boot = c.boot := rfl
@[simp] theorem Chip.setWeir_log (c : Chip) (f : Weir → Weir) : (c.setWeir f).log = c.log := rfl
@[simp] theorem Chip.setWeir_lkp (c : Chip) (f : Weir → Weir) : (c.setWeir f).lkp = c.lkp := rfl
@[simp] theorem Chip.setWeir_pnd (c : Chip) (f : Weir → Weir) : (c.setWeir f).pnd = c.pnd := rfl
@[simp] theorem Chip.setWeir_tim (c : Chip) (f : Weir → Weir) : (c.setWeir f).tim = c.tim := rfl
@[simp] theorem Chip.setWeir_pf (c : Chip) (f : Weir → Weir) : (c.setWeir f).pf = c.pf := rfl
@[simp] theorem Chip.setWeir_mem (c : Chip) (f : Weir → Weir) : (c.setWeir f).mem = c.mem := rfl
@[simp] theorem Chip.setWeir_lck (c : Chip) (f : Weir → Weir) : (c.setWeir f).lck = c.lck := rfl
@[simp] theorem Chip.setWeir_bsn (c : Chip) (f : Weir → Weir) : (c.setWeir f).bsn = c.bsn := rfl
@[simp] theorem Chip.setWeir_plan (c : Chip) (f : Weir → Weir) : (c.setWeir f).plan = c.plan := rfl
@[simp] theorem Chip.setWeir_man (c : Chip) (f : Weir → Weir) : (c.setWeir f).man = c.man := rfl
@[simp] theorem Chip.setWeir_slu (c : Chip) (f : Weir → Weir) : (c.setWeir f).slu = c.slu := rfl
@[simp] theorem Chip.setWeir_adc (c : Chip) (f : Weir → Weir) : (c.setWeir f).adc = c.adc := rfl
@[simp] theorem Chip.setWeir_tow (c : Chip) (f : Weir → Weir) : (c.setWeir f).tow = c.tow := rfl
@[simp] theorem Chip.setWeir_gau (c : Chip) (f : Weir → Weir) : (c.setWeir f).gau = c.gau := rfl
@[simp] theorem Chip.setWeir_aqu (c : Chip) (f : Weir → Weir) : (c.setWeir f).aqu = c.aqu := rfl

@[simp] theorem Chip.setPort_now (c : Chip) (p : Nat) (x : Port) : (c.setPort p x).now = c.now := rfl
@[simp] theorem Chip.setPort_fresh (c : Chip) (p : Nat) (x : Port) : (c.setPort p x).fresh = c.fresh := rfl
@[simp] theorem Chip.setPort_edges (c : Chip) (p : Nat) (x : Port) : (c.setPort p x).edges = c.edges := rfl
@[simp] theorem Chip.setPort_regs (c : Chip) (p : Nat) (x : Port) : (c.setPort p x).regs = c.regs := rfl
@[simp] theorem Chip.setPort_out (c : Chip) (p : Nat) (x : Port) : (c.setPort p x).out = c.out := rfl
@[simp] theorem Chip.setPort_hst (c : Chip) (p : Nat) (x : Port) : (c.setPort p x).hst = c.hst := rfl
@[simp] theorem Chip.setPort_boot (c : Chip) (p : Nat) (x : Port) : (c.setPort p x).boot = c.boot := rfl
@[simp] theorem Chip.setPort_log (c : Chip) (p : Nat) (x : Port) : (c.setPort p x).log = c.log := rfl
@[simp] theorem Chip.setPort_lkp (c : Chip) (p : Nat) (x : Port) : (c.setPort p x).lkp = c.lkp := rfl
@[simp] theorem Chip.setPort_pnd (c : Chip) (p : Nat) (x : Port) : (c.setPort p x).pnd = c.pnd := rfl
@[simp] theorem Chip.setPort_tim (c : Chip) (p : Nat) (x : Port) : (c.setPort p x).tim = c.tim := rfl
@[simp] theorem Chip.setPort_pf (c : Chip) (p : Nat) (x : Port) : (c.setPort p x).pf = c.pf := rfl
@[simp] theorem Chip.setPort_mem (c : Chip) (p : Nat) (x : Port) : (c.setPort p x).mem = c.mem := rfl
@[simp] theorem Chip.setPort_lck (c : Chip) (p : Nat) (x : Port) : (c.setPort p x).lck = c.lck := rfl
@[simp] theorem Chip.setPort_bsn (c : Chip) (p : Nat) (x : Port) : (c.setPort p x).bsn = c.bsn := rfl
@[simp] theorem Chip.setPort_plan (c : Chip) (p : Nat) (x : Port) : (c.setPort p x).plan = c.plan := rfl
@[simp] theorem Chip.setPort_man (c : Chip) (p : Nat) (x : Port) : (c.setPort p x).man = c.man := rfl
@[simp] theorem Chip.setPort_slu (c : Chip) (p : Nat) (x : Port) : (c.setPort p x).slu = c.slu := rfl
@[simp] theorem Chip.setPort_adc (c : Chip) (p : Nat) (x : Port) : (c.setPort p x).adc = c.adc := rfl
@[simp] theorem Chip.setPort_weir (c : Chip) (p : Nat) (x : Port) : (c.setPort p x).weir = c.weir := rfl
@[simp] theorem Chip.setPort_gau (c : Chip) (p : Nat) (x : Port) : (c.setPort p x).gau = c.gau := rfl
@[simp] theorem Chip.setPort_aqu (c : Chip) (p : Nat) (x : Port) : (c.setPort p x).aqu = c.aqu := rfl

@[simp] theorem Chip.setBarge_now (c : Chip) (i : Nat) (x : Barge) : (c.setBarge i x).now = c.now := rfl
@[simp] theorem Chip.setBarge_fresh (c : Chip) (i : Nat) (x : Barge) : (c.setBarge i x).fresh = c.fresh := rfl
@[simp] theorem Chip.setBarge_edges (c : Chip) (i : Nat) (x : Barge) : (c.setBarge i x).edges = c.edges := rfl
@[simp] theorem Chip.setBarge_regs (c : Chip) (i : Nat) (x : Barge) : (c.setBarge i x).regs = c.regs := rfl
@[simp] theorem Chip.setBarge_out (c : Chip) (i : Nat) (x : Barge) : (c.setBarge i x).out = c.out := rfl
@[simp] theorem Chip.setBarge_hst (c : Chip) (i : Nat) (x : Barge) : (c.setBarge i x).hst = c.hst := rfl
@[simp] theorem Chip.setBarge_boot (c : Chip) (i : Nat) (x : Barge) : (c.setBarge i x).boot = c.boot := rfl
@[simp] theorem Chip.setBarge_log (c : Chip) (i : Nat) (x : Barge) : (c.setBarge i x).log = c.log := rfl
@[simp] theorem Chip.setBarge_lkp (c : Chip) (i : Nat) (x : Barge) : (c.setBarge i x).lkp = c.lkp := rfl
@[simp] theorem Chip.setBarge_pnd (c : Chip) (i : Nat) (x : Barge) : (c.setBarge i x).pnd = c.pnd := rfl
@[simp] theorem Chip.setBarge_tim (c : Chip) (i : Nat) (x : Barge) : (c.setBarge i x).tim = c.tim := rfl
@[simp] theorem Chip.setBarge_pf (c : Chip) (i : Nat) (x : Barge) : (c.setBarge i x).pf = c.pf := rfl
@[simp] theorem Chip.setBarge_mem (c : Chip) (i : Nat) (x : Barge) : (c.setBarge i x).mem = c.mem := rfl
@[simp] theorem Chip.setBarge_lck (c : Chip) (i : Nat) (x : Barge) : (c.setBarge i x).lck = c.lck := rfl
@[simp] theorem Chip.setBarge_bsn (c : Chip) (i : Nat) (x : Barge) : (c.setBarge i x).bsn = c.bsn := rfl
@[simp] theorem Chip.setBarge_plan (c : Chip) (i : Nat) (x : Barge) : (c.setBarge i x).plan = c.plan := rfl
@[simp] theorem Chip.setBarge_man (c : Chip) (i : Nat) (x : Barge) : (c.setBarge i x).man = c.man := rfl
@[simp] theorem Chip.setBarge_slu (c : Chip) (i : Nat) (x : Barge) : (c.setBarge i x).slu = c.slu := rfl
@[simp] theorem Chip.setBarge_adc (c : Chip) (i : Nat) (x : Barge) : (c.setBarge i x).adc = c.adc := rfl
@[simp] theorem Chip.setBarge_weir (c : Chip) (i : Nat) (x : Barge) : (c.setBarge i x).weir = c.weir := rfl
@[simp] theorem Chip.setBarge_gau (c : Chip) (i : Nat) (x : Barge) : (c.setBarge i x).gau = c.gau := rfl
@[simp] theorem Chip.setBarge_aqu (c : Chip) (i : Nat) (x : Barge) : (c.setBarge i x).aqu = c.aqu := rfl

@[simp] theorem Chip.setPoll_now (c : Chip) (e : Nat) (x : Poll) : (c.setPoll e x).now = c.now := rfl
@[simp] theorem Chip.setPoll_fresh (c : Chip) (e : Nat) (x : Poll) : (c.setPoll e x).fresh = c.fresh := rfl
@[simp] theorem Chip.setPoll_edges (c : Chip) (e : Nat) (x : Poll) : (c.setPoll e x).edges = c.edges := rfl
@[simp] theorem Chip.setPoll_regs (c : Chip) (e : Nat) (x : Poll) : (c.setPoll e x).regs = c.regs := rfl
@[simp] theorem Chip.setPoll_out (c : Chip) (e : Nat) (x : Poll) : (c.setPoll e x).out = c.out := rfl
@[simp] theorem Chip.setPoll_hst (c : Chip) (e : Nat) (x : Poll) : (c.setPoll e x).hst = c.hst := rfl
@[simp] theorem Chip.setPoll_boot (c : Chip) (e : Nat) (x : Poll) : (c.setPoll e x).boot = c.boot := rfl
@[simp] theorem Chip.setPoll_log (c : Chip) (e : Nat) (x : Poll) : (c.setPoll e x).log = c.log := rfl
@[simp] theorem Chip.setPoll_lkp (c : Chip) (e : Nat) (x : Poll) : (c.setPoll e x).lkp = c.lkp := rfl
@[simp] theorem Chip.setPoll_pnd (c : Chip) (e : Nat) (x : Poll) : (c.setPoll e x).pnd = c.pnd := rfl
@[simp] theorem Chip.setPoll_tim (c : Chip) (e : Nat) (x : Poll) : (c.setPoll e x).tim = c.tim := rfl
@[simp] theorem Chip.setPoll_pf (c : Chip) (e : Nat) (x : Poll) : (c.setPoll e x).pf = c.pf := rfl
@[simp] theorem Chip.setPoll_mem (c : Chip) (e : Nat) (x : Poll) : (c.setPoll e x).mem = c.mem := rfl
@[simp] theorem Chip.setPoll_lck (c : Chip) (e : Nat) (x : Poll) : (c.setPoll e x).lck = c.lck := rfl
@[simp] theorem Chip.setPoll_bsn (c : Chip) (e : Nat) (x : Poll) : (c.setPoll e x).bsn = c.bsn := rfl
@[simp] theorem Chip.setPoll_plan (c : Chip) (e : Nat) (x : Poll) : (c.setPoll e x).plan = c.plan := rfl
@[simp] theorem Chip.setPoll_man (c : Chip) (e : Nat) (x : Poll) : (c.setPoll e x).man = c.man := rfl
@[simp] theorem Chip.setPoll_slu (c : Chip) (e : Nat) (x : Poll) : (c.setPoll e x).slu = c.slu := rfl
@[simp] theorem Chip.setPoll_adc (c : Chip) (e : Nat) (x : Poll) : (c.setPoll e x).adc = c.adc := rfl
@[simp] theorem Chip.setPoll_weir (c : Chip) (e : Nat) (x : Poll) : (c.setPoll e x).weir = c.weir := rfl
@[simp] theorem Chip.setPoll_gau (c : Chip) (e : Nat) (x : Poll) : (c.setPoll e x).gau = c.gau := rfl
@[simp] theorem Chip.setPoll_aqu (c : Chip) (e : Nat) (x : Poll) : (c.setPoll e x).aqu = c.aqu := rfl

@[simp] theorem Chip.setChan_now (c : Chip) (ch : Nat) (x : Chan) : (c.setChan ch x).now = c.now := rfl
@[simp] theorem Chip.setChan_fresh (c : Chip) (ch : Nat) (x : Chan) : (c.setChan ch x).fresh = c.fresh := rfl
@[simp] theorem Chip.setChan_edges (c : Chip) (ch : Nat) (x : Chan) : (c.setChan ch x).edges = c.edges := rfl
@[simp] theorem Chip.setChan_regs (c : Chip) (ch : Nat) (x : Chan) : (c.setChan ch x).regs = c.regs := rfl
@[simp] theorem Chip.setChan_out (c : Chip) (ch : Nat) (x : Chan) : (c.setChan ch x).out = c.out := rfl
@[simp] theorem Chip.setChan_hst (c : Chip) (ch : Nat) (x : Chan) : (c.setChan ch x).hst = c.hst := rfl
@[simp] theorem Chip.setChan_boot (c : Chip) (ch : Nat) (x : Chan) : (c.setChan ch x).boot = c.boot := rfl
@[simp] theorem Chip.setChan_log (c : Chip) (ch : Nat) (x : Chan) : (c.setChan ch x).log = c.log := rfl
@[simp] theorem Chip.setChan_lkp (c : Chip) (ch : Nat) (x : Chan) : (c.setChan ch x).lkp = c.lkp := rfl
@[simp] theorem Chip.setChan_pnd (c : Chip) (ch : Nat) (x : Chan) : (c.setChan ch x).pnd = c.pnd := rfl
@[simp] theorem Chip.setChan_tim (c : Chip) (ch : Nat) (x : Chan) : (c.setChan ch x).tim = c.tim := rfl
@[simp] theorem Chip.setChan_mem (c : Chip) (ch : Nat) (x : Chan) : (c.setChan ch x).mem = c.mem := rfl
@[simp] theorem Chip.setChan_lck (c : Chip) (ch : Nat) (x : Chan) : (c.setChan ch x).lck = c.lck := rfl
@[simp] theorem Chip.setChan_bsn (c : Chip) (ch : Nat) (x : Chan) : (c.setChan ch x).bsn = c.bsn := rfl
@[simp] theorem Chip.setChan_plan (c : Chip) (ch : Nat) (x : Chan) : (c.setChan ch x).plan = c.plan := rfl
@[simp] theorem Chip.setChan_man (c : Chip) (ch : Nat) (x : Chan) : (c.setChan ch x).man = c.man := rfl
@[simp] theorem Chip.setChan_slu (c : Chip) (ch : Nat) (x : Chan) : (c.setChan ch x).slu = c.slu := rfl
@[simp] theorem Chip.setChan_adc (c : Chip) (ch : Nat) (x : Chan) : (c.setChan ch x).adc = c.adc := rfl
@[simp] theorem Chip.setChan_tow (c : Chip) (ch : Nat) (x : Chan) : (c.setChan ch x).tow = c.tow := rfl
@[simp] theorem Chip.setChan_weir (c : Chip) (ch : Nat) (x : Chan) : (c.setChan ch x).weir = c.weir := rfl
@[simp] theorem Chip.setChan_gau (c : Chip) (ch : Nat) (x : Chan) : (c.setChan ch x).gau = c.gau := rfl
@[simp] theorem Chip.setChan_aqu (c : Chip) (ch : Nat) (x : Chan) : (c.setChan ch x).aqu = c.aqu := rfl

@[simp] theorem Chip.setChain_now (c : Chip) (x : Chain) : (c.setChain x).now = c.now := rfl
@[simp] theorem Chip.setChain_fresh (c : Chip) (x : Chain) : (c.setChain x).fresh = c.fresh := rfl
@[simp] theorem Chip.setChain_edges (c : Chip) (x : Chain) : (c.setChain x).edges = c.edges := rfl
@[simp] theorem Chip.setChain_regs (c : Chip) (x : Chain) : (c.setChain x).regs = c.regs := rfl
@[simp] theorem Chip.setChain_out (c : Chip) (x : Chain) : (c.setChain x).out = c.out := rfl
@[simp] theorem Chip.setChain_hst (c : Chip) (x : Chain) : (c.setChain x).hst = c.hst := rfl
@[simp] theorem Chip.setChain_boot (c : Chip) (x : Chain) : (c.setChain x).boot = c.boot := rfl
@[simp] theorem Chip.setChain_log (c : Chip) (x : Chain) : (c.setChain x).log = c.log := rfl
@[simp] theorem Chip.setChain_lkp (c : Chip) (x : Chain) : (c.setChain x).lkp = c.lkp := rfl
@[simp] theorem Chip.setChain_pnd (c : Chip) (x : Chain) : (c.setChain x).pnd = c.pnd := rfl
@[simp] theorem Chip.setChain_tim (c : Chip) (x : Chain) : (c.setChain x).tim = c.tim := rfl
@[simp] theorem Chip.setChain_mem (c : Chip) (x : Chain) : (c.setChain x).mem = c.mem := rfl
@[simp] theorem Chip.setChain_lck (c : Chip) (x : Chain) : (c.setChain x).lck = c.lck := rfl
@[simp] theorem Chip.setChain_bsn (c : Chip) (x : Chain) : (c.setChain x).bsn = c.bsn := rfl
@[simp] theorem Chip.setChain_plan (c : Chip) (x : Chain) : (c.setChain x).plan = c.plan := rfl
@[simp] theorem Chip.setChain_man (c : Chip) (x : Chain) : (c.setChain x).man = c.man := rfl
@[simp] theorem Chip.setChain_slu (c : Chip) (x : Chain) : (c.setChain x).slu = c.slu := rfl
@[simp] theorem Chip.setChain_adc (c : Chip) (x : Chain) : (c.setChain x).adc = c.adc := rfl
@[simp] theorem Chip.setChain_tow (c : Chip) (x : Chain) : (c.setChain x).tow = c.tow := rfl
@[simp] theorem Chip.setChain_weir (c : Chip) (x : Chain) : (c.setChain x).weir = c.weir := rfl
@[simp] theorem Chip.setChain_gau (c : Chip) (x : Chain) : (c.setChain x).gau = c.gau := rfl
@[simp] theorem Chip.setChain_aqu (c : Chip) (x : Chain) : (c.setChain x).aqu = c.aqu := rfl

@[simp] theorem Chip.setSer_now (c : Chip) (p : Nat) (x : Option Nat) : (c.setSer p x).now = c.now := rfl
@[simp] theorem Chip.setSer_fresh (c : Chip) (p : Nat) (x : Option Nat) : (c.setSer p x).fresh = c.fresh := rfl
@[simp] theorem Chip.setSer_edges (c : Chip) (p : Nat) (x : Option Nat) : (c.setSer p x).edges = c.edges := rfl
@[simp] theorem Chip.setSer_regs (c : Chip) (p : Nat) (x : Option Nat) : (c.setSer p x).regs = c.regs := rfl
@[simp] theorem Chip.setSer_out (c : Chip) (p : Nat) (x : Option Nat) : (c.setSer p x).out = c.out := rfl
@[simp] theorem Chip.setSer_hst (c : Chip) (p : Nat) (x : Option Nat) : (c.setSer p x).hst = c.hst := rfl
@[simp] theorem Chip.setSer_boot (c : Chip) (p : Nat) (x : Option Nat) : (c.setSer p x).boot = c.boot := rfl
@[simp] theorem Chip.setSer_log (c : Chip) (p : Nat) (x : Option Nat) : (c.setSer p x).log = c.log := rfl
@[simp] theorem Chip.setSer_lkp (c : Chip) (p : Nat) (x : Option Nat) : (c.setSer p x).lkp = c.lkp := rfl
@[simp] theorem Chip.setSer_pnd (c : Chip) (p : Nat) (x : Option Nat) : (c.setSer p x).pnd = c.pnd := rfl
@[simp] theorem Chip.setSer_tim (c : Chip) (p : Nat) (x : Option Nat) : (c.setSer p x).tim = c.tim := rfl
@[simp] theorem Chip.setSer_mem (c : Chip) (p : Nat) (x : Option Nat) : (c.setSer p x).mem = c.mem := rfl
@[simp] theorem Chip.setSer_lck (c : Chip) (p : Nat) (x : Option Nat) : (c.setSer p x).lck = c.lck := rfl
@[simp] theorem Chip.setSer_bsn (c : Chip) (p : Nat) (x : Option Nat) : (c.setSer p x).bsn = c.bsn := rfl
@[simp] theorem Chip.setSer_plan (c : Chip) (p : Nat) (x : Option Nat) : (c.setSer p x).plan = c.plan := rfl
@[simp] theorem Chip.setSer_man (c : Chip) (p : Nat) (x : Option Nat) : (c.setSer p x).man = c.man := rfl
@[simp] theorem Chip.setSer_slu (c : Chip) (p : Nat) (x : Option Nat) : (c.setSer p x).slu = c.slu := rfl
@[simp] theorem Chip.setSer_adc (c : Chip) (p : Nat) (x : Option Nat) : (c.setSer p x).adc = c.adc := rfl
@[simp] theorem Chip.setSer_tow (c : Chip) (p : Nat) (x : Option Nat) : (c.setSer p x).tow = c.tow := rfl
@[simp] theorem Chip.setSer_weir (c : Chip) (p : Nat) (x : Option Nat) : (c.setSer p x).weir = c.weir := rfl
@[simp] theorem Chip.setSer_gau (c : Chip) (p : Nat) (x : Option Nat) : (c.setSer p x).gau = c.gau := rfl
@[simp] theorem Chip.setSer_aqu (c : Chip) (p : Nat) (x : Option Nat) : (c.setSer p x).aqu = c.aqu := rfl

@[simp] theorem Chip.setPd_now (c : Chip) (d : Nat) (x : Divider) : (c.setPd d x).now = c.now := rfl
@[simp] theorem Chip.setPd_fresh (c : Chip) (d : Nat) (x : Divider) : (c.setPd d x).fresh = c.fresh := rfl
@[simp] theorem Chip.setPd_edges (c : Chip) (d : Nat) (x : Divider) : (c.setPd d x).edges = c.edges := rfl
@[simp] theorem Chip.setPd_regs (c : Chip) (d : Nat) (x : Divider) : (c.setPd d x).regs = c.regs := rfl
@[simp] theorem Chip.setPd_out (c : Chip) (d : Nat) (x : Divider) : (c.setPd d x).out = c.out := rfl
@[simp] theorem Chip.setPd_hst (c : Chip) (d : Nat) (x : Divider) : (c.setPd d x).hst = c.hst := rfl
@[simp] theorem Chip.setPd_boot (c : Chip) (d : Nat) (x : Divider) : (c.setPd d x).boot = c.boot := rfl
@[simp] theorem Chip.setPd_log (c : Chip) (d : Nat) (x : Divider) : (c.setPd d x).log = c.log := rfl
@[simp] theorem Chip.setPd_lkp (c : Chip) (d : Nat) (x : Divider) : (c.setPd d x).lkp = c.lkp := rfl
@[simp] theorem Chip.setPd_pnd (c : Chip) (d : Nat) (x : Divider) : (c.setPd d x).pnd = c.pnd := rfl
@[simp] theorem Chip.setPd_tim (c : Chip) (d : Nat) (x : Divider) : (c.setPd d x).tim = c.tim := rfl
@[simp] theorem Chip.setPd_mem (c : Chip) (d : Nat) (x : Divider) : (c.setPd d x).mem = c.mem := rfl
@[simp] theorem Chip.setPd_lck (c : Chip) (d : Nat) (x : Divider) : (c.setPd d x).lck = c.lck := rfl
@[simp] theorem Chip.setPd_bsn (c : Chip) (d : Nat) (x : Divider) : (c.setPd d x).bsn = c.bsn := rfl
@[simp] theorem Chip.setPd_plan (c : Chip) (d : Nat) (x : Divider) : (c.setPd d x).plan = c.plan := rfl
@[simp] theorem Chip.setPd_man (c : Chip) (d : Nat) (x : Divider) : (c.setPd d x).man = c.man := rfl
@[simp] theorem Chip.setPd_slu (c : Chip) (d : Nat) (x : Divider) : (c.setPd d x).slu = c.slu := rfl
@[simp] theorem Chip.setPd_adc (c : Chip) (d : Nat) (x : Divider) : (c.setPd d x).adc = c.adc := rfl
@[simp] theorem Chip.setPd_tow (c : Chip) (d : Nat) (x : Divider) : (c.setPd d x).tow = c.tow := rfl
@[simp] theorem Chip.setPd_weir (c : Chip) (d : Nat) (x : Divider) : (c.setPd d x).weir = c.weir := rfl
@[simp] theorem Chip.setPd_gau (c : Chip) (d : Nat) (x : Divider) : (c.setPd d x).gau = c.gau := rfl
@[simp] theorem Chip.setPd_aqu (c : Chip) (d : Nat) (x : Divider) : (c.setPd d x).aqu = c.aqu := rfl

@[simp] theorem Chip.setGau_now (c : Chip) (f : Gau → Gau) : (c.setGau f).now = c.now := rfl
@[simp] theorem Chip.setGau_fresh (c : Chip) (f : Gau → Gau) : (c.setGau f).fresh = c.fresh := rfl
@[simp] theorem Chip.setGau_edges (c : Chip) (f : Gau → Gau) : (c.setGau f).edges = c.edges := rfl
@[simp] theorem Chip.setGau_regs (c : Chip) (f : Gau → Gau) : (c.setGau f).regs = c.regs := rfl
@[simp] theorem Chip.setGau_out (c : Chip) (f : Gau → Gau) : (c.setGau f).out = c.out := rfl
@[simp] theorem Chip.setGau_hst (c : Chip) (f : Gau → Gau) : (c.setGau f).hst = c.hst := rfl
@[simp] theorem Chip.setGau_boot (c : Chip) (f : Gau → Gau) : (c.setGau f).boot = c.boot := rfl
@[simp] theorem Chip.setGau_log (c : Chip) (f : Gau → Gau) : (c.setGau f).log = c.log := rfl
@[simp] theorem Chip.setGau_lkp (c : Chip) (f : Gau → Gau) : (c.setGau f).lkp = c.lkp := rfl
@[simp] theorem Chip.setGau_pnd (c : Chip) (f : Gau → Gau) : (c.setGau f).pnd = c.pnd := rfl
@[simp] theorem Chip.setGau_tim (c : Chip) (f : Gau → Gau) : (c.setGau f).tim = c.tim := rfl
@[simp] theorem Chip.setGau_pf (c : Chip) (f : Gau → Gau) : (c.setGau f).pf = c.pf := rfl
@[simp] theorem Chip.setGau_mem (c : Chip) (f : Gau → Gau) : (c.setGau f).mem = c.mem := rfl
@[simp] theorem Chip.setGau_lck (c : Chip) (f : Gau → Gau) : (c.setGau f).lck = c.lck := rfl
@[simp] theorem Chip.setGau_bsn (c : Chip) (f : Gau → Gau) : (c.setGau f).bsn = c.bsn := rfl
@[simp] theorem Chip.setGau_plan (c : Chip) (f : Gau → Gau) : (c.setGau f).plan = c.plan := rfl
@[simp] theorem Chip.setGau_man (c : Chip) (f : Gau → Gau) : (c.setGau f).man = c.man := rfl
@[simp] theorem Chip.setGau_slu (c : Chip) (f : Gau → Gau) : (c.setGau f).slu = c.slu := rfl
@[simp] theorem Chip.setGau_adc (c : Chip) (f : Gau → Gau) : (c.setGau f).adc = c.adc := rfl
@[simp] theorem Chip.setGau_tow (c : Chip) (f : Gau → Gau) : (c.setGau f).tow = c.tow := rfl
@[simp] theorem Chip.setGau_weir (c : Chip) (f : Gau → Gau) : (c.setGau f).weir = c.weir := rfl
@[simp] theorem Chip.setGau_aqu (c : Chip) (f : Gau → Gau) : (c.setGau f).aqu = c.aqu := rfl

@[simp] theorem Chip.stat_now (c : Chip) (i : Nat) : (c.stat i).now = c.now := rfl
@[simp] theorem Chip.stat_fresh (c : Chip) (i : Nat) : (c.stat i).fresh = c.fresh := rfl
@[simp] theorem Chip.stat_edges (c : Chip) (i : Nat) : (c.stat i).edges = c.edges := rfl
@[simp] theorem Chip.stat_regs (c : Chip) (i : Nat) : (c.stat i).regs = c.regs := rfl
@[simp] theorem Chip.stat_out (c : Chip) (i : Nat) : (c.stat i).out = c.out := rfl
@[simp] theorem Chip.stat_boot (c : Chip) (i : Nat) : (c.stat i).boot = c.boot := rfl
@[simp] theorem Chip.stat_log (c : Chip) (i : Nat) : (c.stat i).log = c.log := rfl
@[simp] theorem Chip.stat_lkp (c : Chip) (i : Nat) : (c.stat i).lkp = c.lkp := rfl
@[simp] theorem Chip.stat_pnd (c : Chip) (i : Nat) : (c.stat i).pnd = c.pnd := rfl
@[simp] theorem Chip.stat_tim (c : Chip) (i : Nat) : (c.stat i).tim = c.tim := rfl
@[simp] theorem Chip.stat_pf (c : Chip) (i : Nat) : (c.stat i).pf = c.pf := rfl
@[simp] theorem Chip.stat_mem (c : Chip) (i : Nat) : (c.stat i).mem = c.mem := rfl
@[simp] theorem Chip.stat_lck (c : Chip) (i : Nat) : (c.stat i).lck = c.lck := rfl
@[simp] theorem Chip.stat_bsn (c : Chip) (i : Nat) : (c.stat i).bsn = c.bsn := rfl
@[simp] theorem Chip.stat_plan (c : Chip) (i : Nat) : (c.stat i).plan = c.plan := rfl
@[simp] theorem Chip.stat_man (c : Chip) (i : Nat) : (c.stat i).man = c.man := rfl
@[simp] theorem Chip.stat_slu (c : Chip) (i : Nat) : (c.stat i).slu = c.slu := rfl
@[simp] theorem Chip.stat_adc (c : Chip) (i : Nat) : (c.stat i).adc = c.adc := rfl
@[simp] theorem Chip.stat_tow (c : Chip) (i : Nat) : (c.stat i).tow = c.tow := rfl
@[simp] theorem Chip.stat_weir (c : Chip) (i : Nat) : (c.stat i).weir = c.weir := rfl
@[simp] theorem Chip.stat_gau (c : Chip) (i : Nat) : (c.stat i).gau = c.gau := rfl
@[simp] theorem Chip.stat_aqu (c : Chip) (i : Nat) : (c.stat i).aqu = c.aqu := rfl

@[simp] theorem Chip.setPlan_now (c : Chip) (f : Plan → Plan) : (c.setPlan f).now = c.now := rfl
@[simp] theorem Chip.setPlan_fresh (c : Chip) (f : Plan → Plan) : (c.setPlan f).fresh = c.fresh := rfl
@[simp] theorem Chip.setPlan_edges (c : Chip) (f : Plan → Plan) : (c.setPlan f).edges = c.edges := rfl
@[simp] theorem Chip.setPlan_regs (c : Chip) (f : Plan → Plan) : (c.setPlan f).regs = c.regs := rfl
@[simp] theorem Chip.setPlan_out (c : Chip) (f : Plan → Plan) : (c.setPlan f).out = c.out := rfl
@[simp] theorem Chip.setPlan_hst (c : Chip) (f : Plan → Plan) : (c.setPlan f).hst = c.hst := rfl
@[simp] theorem Chip.setPlan_boot (c : Chip) (f : Plan → Plan) : (c.setPlan f).boot = c.boot := rfl
@[simp] theorem Chip.setPlan_log (c : Chip) (f : Plan → Plan) : (c.setPlan f).log = c.log := rfl
@[simp] theorem Chip.setPlan_lkp (c : Chip) (f : Plan → Plan) : (c.setPlan f).lkp = c.lkp := rfl
@[simp] theorem Chip.setPlan_pnd (c : Chip) (f : Plan → Plan) : (c.setPlan f).pnd = c.pnd := rfl
@[simp] theorem Chip.setPlan_tim (c : Chip) (f : Plan → Plan) : (c.setPlan f).tim = c.tim := rfl
@[simp] theorem Chip.setPlan_pf (c : Chip) (f : Plan → Plan) : (c.setPlan f).pf = c.pf := rfl
@[simp] theorem Chip.setPlan_mem (c : Chip) (f : Plan → Plan) : (c.setPlan f).mem = c.mem := rfl
@[simp] theorem Chip.setPlan_lck (c : Chip) (f : Plan → Plan) : (c.setPlan f).lck = c.lck := rfl
@[simp] theorem Chip.setPlan_bsn (c : Chip) (f : Plan → Plan) : (c.setPlan f).bsn = c.bsn := rfl
@[simp] theorem Chip.setPlan_man (c : Chip) (f : Plan → Plan) : (c.setPlan f).man = c.man := rfl
@[simp] theorem Chip.setPlan_slu (c : Chip) (f : Plan → Plan) : (c.setPlan f).slu = c.slu := rfl
@[simp] theorem Chip.setPlan_adc (c : Chip) (f : Plan → Plan) : (c.setPlan f).adc = c.adc := rfl
@[simp] theorem Chip.setPlan_tow (c : Chip) (f : Plan → Plan) : (c.setPlan f).tow = c.tow := rfl
@[simp] theorem Chip.setPlan_weir (c : Chip) (f : Plan → Plan) : (c.setPlan f).weir = c.weir := rfl
@[simp] theorem Chip.setPlan_gau (c : Chip) (f : Plan → Plan) : (c.setPlan f).gau = c.gau := rfl
@[simp] theorem Chip.setPlan_aqu (c : Chip) (f : Plan → Plan) : (c.setPlan f).aqu = c.aqu := rfl

@[simp] theorem Chip.setMan_now (c : Chip) (f : Man → Man) : (c.setMan f).now = c.now := rfl
@[simp] theorem Chip.setMan_fresh (c : Chip) (f : Man → Man) : (c.setMan f).fresh = c.fresh := rfl
@[simp] theorem Chip.setMan_edges (c : Chip) (f : Man → Man) : (c.setMan f).edges = c.edges := rfl
@[simp] theorem Chip.setMan_regs (c : Chip) (f : Man → Man) : (c.setMan f).regs = c.regs := rfl
@[simp] theorem Chip.setMan_out (c : Chip) (f : Man → Man) : (c.setMan f).out = c.out := rfl
@[simp] theorem Chip.setMan_hst (c : Chip) (f : Man → Man) : (c.setMan f).hst = c.hst := rfl
@[simp] theorem Chip.setMan_boot (c : Chip) (f : Man → Man) : (c.setMan f).boot = c.boot := rfl
@[simp] theorem Chip.setMan_log (c : Chip) (f : Man → Man) : (c.setMan f).log = c.log := rfl
@[simp] theorem Chip.setMan_lkp (c : Chip) (f : Man → Man) : (c.setMan f).lkp = c.lkp := rfl
@[simp] theorem Chip.setMan_pnd (c : Chip) (f : Man → Man) : (c.setMan f).pnd = c.pnd := rfl
@[simp] theorem Chip.setMan_tim (c : Chip) (f : Man → Man) : (c.setMan f).tim = c.tim := rfl
@[simp] theorem Chip.setMan_pf (c : Chip) (f : Man → Man) : (c.setMan f).pf = c.pf := rfl
@[simp] theorem Chip.setMan_mem (c : Chip) (f : Man → Man) : (c.setMan f).mem = c.mem := rfl
@[simp] theorem Chip.setMan_lck (c : Chip) (f : Man → Man) : (c.setMan f).lck = c.lck := rfl
@[simp] theorem Chip.setMan_bsn (c : Chip) (f : Man → Man) : (c.setMan f).bsn = c.bsn := rfl
@[simp] theorem Chip.setMan_plan (c : Chip) (f : Man → Man) : (c.setMan f).plan = c.plan := rfl
@[simp] theorem Chip.setMan_slu (c : Chip) (f : Man → Man) : (c.setMan f).slu = c.slu := rfl
@[simp] theorem Chip.setMan_adc (c : Chip) (f : Man → Man) : (c.setMan f).adc = c.adc := rfl
@[simp] theorem Chip.setMan_tow (c : Chip) (f : Man → Man) : (c.setMan f).tow = c.tow := rfl
@[simp] theorem Chip.setMan_weir (c : Chip) (f : Man → Man) : (c.setMan f).weir = c.weir := rfl
@[simp] theorem Chip.setMan_gau (c : Chip) (f : Man → Man) : (c.setMan f).gau = c.gau := rfl
@[simp] theorem Chip.setMan_aqu (c : Chip) (f : Man → Man) : (c.setMan f).aqu = c.aqu := rfl

@[simp] theorem Chip.setAdcC_now (c : Chip) (x : Nat) (v : AdcConv) : (c.setAdcC x v).now = c.now := rfl
@[simp] theorem Chip.setAdcC_fresh (c : Chip) (x : Nat) (v : AdcConv) : (c.setAdcC x v).fresh = c.fresh := rfl
@[simp] theorem Chip.setAdcC_edges (c : Chip) (x : Nat) (v : AdcConv) : (c.setAdcC x v).edges = c.edges := rfl
@[simp] theorem Chip.setAdcC_regs (c : Chip) (x : Nat) (v : AdcConv) : (c.setAdcC x v).regs = c.regs := rfl
@[simp] theorem Chip.setAdcC_out (c : Chip) (x : Nat) (v : AdcConv) : (c.setAdcC x v).out = c.out := rfl
@[simp] theorem Chip.setAdcC_hst (c : Chip) (x : Nat) (v : AdcConv) : (c.setAdcC x v).hst = c.hst := rfl
@[simp] theorem Chip.setAdcC_boot (c : Chip) (x : Nat) (v : AdcConv) : (c.setAdcC x v).boot = c.boot := rfl
@[simp] theorem Chip.setAdcC_log (c : Chip) (x : Nat) (v : AdcConv) : (c.setAdcC x v).log = c.log := rfl
@[simp] theorem Chip.setAdcC_lkp (c : Chip) (x : Nat) (v : AdcConv) : (c.setAdcC x v).lkp = c.lkp := rfl
@[simp] theorem Chip.setAdcC_pnd (c : Chip) (x : Nat) (v : AdcConv) : (c.setAdcC x v).pnd = c.pnd := rfl
@[simp] theorem Chip.setAdcC_tim (c : Chip) (x : Nat) (v : AdcConv) : (c.setAdcC x v).tim = c.tim := rfl
@[simp] theorem Chip.setAdcC_pf (c : Chip) (x : Nat) (v : AdcConv) : (c.setAdcC x v).pf = c.pf := rfl
@[simp] theorem Chip.setAdcC_mem (c : Chip) (x : Nat) (v : AdcConv) : (c.setAdcC x v).mem = c.mem := rfl
@[simp] theorem Chip.setAdcC_lck (c : Chip) (x : Nat) (v : AdcConv) : (c.setAdcC x v).lck = c.lck := rfl
@[simp] theorem Chip.setAdcC_bsn (c : Chip) (x : Nat) (v : AdcConv) : (c.setAdcC x v).bsn = c.bsn := rfl
@[simp] theorem Chip.setAdcC_plan (c : Chip) (x : Nat) (v : AdcConv) : (c.setAdcC x v).plan = c.plan := rfl
@[simp] theorem Chip.setAdcC_man (c : Chip) (x : Nat) (v : AdcConv) : (c.setAdcC x v).man = c.man := rfl
@[simp] theorem Chip.setAdcC_slu (c : Chip) (x : Nat) (v : AdcConv) : (c.setAdcC x v).slu = c.slu := rfl
@[simp] theorem Chip.setAdcC_tow (c : Chip) (x : Nat) (v : AdcConv) : (c.setAdcC x v).tow = c.tow := rfl
@[simp] theorem Chip.setAdcC_weir (c : Chip) (x : Nat) (v : AdcConv) : (c.setAdcC x v).weir = c.weir := rfl
@[simp] theorem Chip.setAdcC_gau (c : Chip) (x : Nat) (v : AdcConv) : (c.setAdcC x v).gau = c.gau := rfl
@[simp] theorem Chip.setAdcC_aqu (c : Chip) (x : Nat) (v : AdcConv) : (c.setAdcC x v).aqu = c.aqu := rfl

@[simp] theorem Chip.setStage_now (c : Chip) (f : Staging → Staging) : (c.setStage f).now = c.now := rfl
@[simp] theorem Chip.setStage_fresh (c : Chip) (f : Staging → Staging) : (c.setStage f).fresh = c.fresh := rfl
@[simp] theorem Chip.setStage_edges (c : Chip) (f : Staging → Staging) : (c.setStage f).edges = c.edges := rfl
@[simp] theorem Chip.setStage_regs (c : Chip) (f : Staging → Staging) : (c.setStage f).regs = c.regs := rfl
@[simp] theorem Chip.setStage_out (c : Chip) (f : Staging → Staging) : (c.setStage f).out = c.out := rfl
@[simp] theorem Chip.setStage_boot (c : Chip) (f : Staging → Staging) : (c.setStage f).boot = c.boot := rfl
@[simp] theorem Chip.setStage_log (c : Chip) (f : Staging → Staging) : (c.setStage f).log = c.log := rfl
@[simp] theorem Chip.setStage_lkp (c : Chip) (f : Staging → Staging) : (c.setStage f).lkp = c.lkp := rfl
@[simp] theorem Chip.setStage_pnd (c : Chip) (f : Staging → Staging) : (c.setStage f).pnd = c.pnd := rfl
@[simp] theorem Chip.setStage_tim (c : Chip) (f : Staging → Staging) : (c.setStage f).tim = c.tim := rfl
@[simp] theorem Chip.setStage_pf (c : Chip) (f : Staging → Staging) : (c.setStage f).pf = c.pf := rfl
@[simp] theorem Chip.setStage_mem (c : Chip) (f : Staging → Staging) : (c.setStage f).mem = c.mem := rfl
@[simp] theorem Chip.setStage_lck (c : Chip) (f : Staging → Staging) : (c.setStage f).lck = c.lck := rfl
@[simp] theorem Chip.setStage_bsn (c : Chip) (f : Staging → Staging) : (c.setStage f).bsn = c.bsn := rfl
@[simp] theorem Chip.setStage_plan (c : Chip) (f : Staging → Staging) : (c.setStage f).plan = c.plan := rfl
@[simp] theorem Chip.setStage_man (c : Chip) (f : Staging → Staging) : (c.setStage f).man = c.man := rfl
@[simp] theorem Chip.setStage_slu (c : Chip) (f : Staging → Staging) : (c.setStage f).slu = c.slu := rfl
@[simp] theorem Chip.setStage_adc (c : Chip) (f : Staging → Staging) : (c.setStage f).adc = c.adc := rfl
@[simp] theorem Chip.setStage_tow (c : Chip) (f : Staging → Staging) : (c.setStage f).tow = c.tow := rfl
@[simp] theorem Chip.setStage_weir (c : Chip) (f : Staging → Staging) : (c.setStage f).weir = c.weir := rfl
@[simp] theorem Chip.setStage_gau (c : Chip) (f : Staging → Staging) : (c.setStage f).gau = c.gau := rfl
@[simp] theorem Chip.setStage_aqu (c : Chip) (f : Staging → Staging) : (c.setStage f).aqu = c.aqu := rfl

@[simp] theorem Chip.setDom_now (c : Chip) (d : Nat) (x : Domain) : (c.setDom d x).now = c.now := rfl
@[simp] theorem Chip.setDom_fresh (c : Chip) (d : Nat) (x : Domain) : (c.setDom d x).fresh = c.fresh := rfl
@[simp] theorem Chip.setDom_edges (c : Chip) (d : Nat) (x : Domain) : (c.setDom d x).edges = c.edges := rfl
@[simp] theorem Chip.setDom_regs (c : Chip) (d : Nat) (x : Domain) : (c.setDom d x).regs = c.regs := rfl
@[simp] theorem Chip.setDom_out (c : Chip) (d : Nat) (x : Domain) : (c.setDom d x).out = c.out := rfl
@[simp] theorem Chip.setDom_hst (c : Chip) (d : Nat) (x : Domain) : (c.setDom d x).hst = c.hst := rfl
@[simp] theorem Chip.setDom_boot (c : Chip) (d : Nat) (x : Domain) : (c.setDom d x).boot = c.boot := rfl
@[simp] theorem Chip.setDom_log (c : Chip) (d : Nat) (x : Domain) : (c.setDom d x).log = c.log := rfl
@[simp] theorem Chip.setDom_lkp (c : Chip) (d : Nat) (x : Domain) : (c.setDom d x).lkp = c.lkp := rfl
@[simp] theorem Chip.setDom_pnd (c : Chip) (d : Nat) (x : Domain) : (c.setDom d x).pnd = c.pnd := rfl
@[simp] theorem Chip.setDom_pf (c : Chip) (d : Nat) (x : Domain) : (c.setDom d x).pf = c.pf := rfl
@[simp] theorem Chip.setDom_mem (c : Chip) (d : Nat) (x : Domain) : (c.setDom d x).mem = c.mem := rfl
@[simp] theorem Chip.setDom_lck (c : Chip) (d : Nat) (x : Domain) : (c.setDom d x).lck = c.lck := rfl
@[simp] theorem Chip.setDom_bsn (c : Chip) (d : Nat) (x : Domain) : (c.setDom d x).bsn = c.bsn := rfl
@[simp] theorem Chip.setDom_plan (c : Chip) (d : Nat) (x : Domain) : (c.setDom d x).plan = c.plan := rfl
@[simp] theorem Chip.setDom_man (c : Chip) (d : Nat) (x : Domain) : (c.setDom d x).man = c.man := rfl
@[simp] theorem Chip.setDom_slu (c : Chip) (d : Nat) (x : Domain) : (c.setDom d x).slu = c.slu := rfl
@[simp] theorem Chip.setDom_adc (c : Chip) (d : Nat) (x : Domain) : (c.setDom d x).adc = c.adc := rfl
@[simp] theorem Chip.setDom_tow (c : Chip) (d : Nat) (x : Domain) : (c.setDom d x).tow = c.tow := rfl
@[simp] theorem Chip.setDom_weir (c : Chip) (d : Nat) (x : Domain) : (c.setDom d x).weir = c.weir := rfl
@[simp] theorem Chip.setDom_gau (c : Chip) (d : Nat) (x : Domain) : (c.setDom d x).gau = c.gau := rfl
@[simp] theorem Chip.setDom_aqu (c : Chip) (d : Nat) (x : Domain) : (c.setDom d x).aqu = c.aqu := rfl

@[simp] theorem Chip.setUser_now (c : Chip) (u : Nat) (x : UserBase) : (c.setUser u x).now = c.now := rfl
@[simp] theorem Chip.setUser_fresh (c : Chip) (u : Nat) (x : UserBase) : (c.setUser u x).fresh = c.fresh := rfl
@[simp] theorem Chip.setUser_edges (c : Chip) (u : Nat) (x : UserBase) : (c.setUser u x).edges = c.edges := rfl
@[simp] theorem Chip.setUser_regs (c : Chip) (u : Nat) (x : UserBase) : (c.setUser u x).regs = c.regs := rfl
@[simp] theorem Chip.setUser_out (c : Chip) (u : Nat) (x : UserBase) : (c.setUser u x).out = c.out := rfl
@[simp] theorem Chip.setUser_hst (c : Chip) (u : Nat) (x : UserBase) : (c.setUser u x).hst = c.hst := rfl
@[simp] theorem Chip.setUser_boot (c : Chip) (u : Nat) (x : UserBase) : (c.setUser u x).boot = c.boot := rfl
@[simp] theorem Chip.setUser_log (c : Chip) (u : Nat) (x : UserBase) : (c.setUser u x).log = c.log := rfl
@[simp] theorem Chip.setUser_lkp (c : Chip) (u : Nat) (x : UserBase) : (c.setUser u x).lkp = c.lkp := rfl
@[simp] theorem Chip.setUser_pnd (c : Chip) (u : Nat) (x : UserBase) : (c.setUser u x).pnd = c.pnd := rfl
@[simp] theorem Chip.setUser_pf (c : Chip) (u : Nat) (x : UserBase) : (c.setUser u x).pf = c.pf := rfl
@[simp] theorem Chip.setUser_mem (c : Chip) (u : Nat) (x : UserBase) : (c.setUser u x).mem = c.mem := rfl
@[simp] theorem Chip.setUser_lck (c : Chip) (u : Nat) (x : UserBase) : (c.setUser u x).lck = c.lck := rfl
@[simp] theorem Chip.setUser_bsn (c : Chip) (u : Nat) (x : UserBase) : (c.setUser u x).bsn = c.bsn := rfl
@[simp] theorem Chip.setUser_plan (c : Chip) (u : Nat) (x : UserBase) : (c.setUser u x).plan = c.plan := rfl
@[simp] theorem Chip.setUser_man (c : Chip) (u : Nat) (x : UserBase) : (c.setUser u x).man = c.man := rfl
@[simp] theorem Chip.setUser_slu (c : Chip) (u : Nat) (x : UserBase) : (c.setUser u x).slu = c.slu := rfl
@[simp] theorem Chip.setUser_adc (c : Chip) (u : Nat) (x : UserBase) : (c.setUser u x).adc = c.adc := rfl
@[simp] theorem Chip.setUser_tow (c : Chip) (u : Nat) (x : UserBase) : (c.setUser u x).tow = c.tow := rfl
@[simp] theorem Chip.setUser_weir (c : Chip) (u : Nat) (x : UserBase) : (c.setUser u x).weir = c.weir := rfl
@[simp] theorem Chip.setUser_gau (c : Chip) (u : Nat) (x : UserBase) : (c.setUser u x).gau = c.gau := rfl
@[simp] theorem Chip.setUser_aqu (c : Chip) (u : Nat) (x : UserBase) : (c.setUser u x).aqu = c.aqu := rfl

@[simp] theorem Chip.setRun_now (c : Chip) (k : Nat) (r : ChainRun) : (c.setRun k r).now = c.now := rfl
@[simp] theorem Chip.setRun_fresh (c : Chip) (k : Nat) (r : ChainRun) : (c.setRun k r).fresh = c.fresh := rfl
@[simp] theorem Chip.setRun_edges (c : Chip) (k : Nat) (r : ChainRun) : (c.setRun k r).edges = c.edges := rfl
@[simp] theorem Chip.setRun_regs (c : Chip) (k : Nat) (r : ChainRun) : (c.setRun k r).regs = c.regs := rfl
@[simp] theorem Chip.setRun_out (c : Chip) (k : Nat) (r : ChainRun) : (c.setRun k r).out = c.out := rfl
@[simp] theorem Chip.setRun_hst (c : Chip) (k : Nat) (r : ChainRun) : (c.setRun k r).hst = c.hst := rfl
@[simp] theorem Chip.setRun_boot (c : Chip) (k : Nat) (r : ChainRun) : (c.setRun k r).boot = c.boot := rfl
@[simp] theorem Chip.setRun_log (c : Chip) (k : Nat) (r : ChainRun) : (c.setRun k r).log = c.log := rfl
@[simp] theorem Chip.setRun_lkp (c : Chip) (k : Nat) (r : ChainRun) : (c.setRun k r).lkp = c.lkp := rfl
@[simp] theorem Chip.setRun_pnd (c : Chip) (k : Nat) (r : ChainRun) : (c.setRun k r).pnd = c.pnd := rfl
@[simp] theorem Chip.setRun_tim (c : Chip) (k : Nat) (r : ChainRun) : (c.setRun k r).tim = c.tim := rfl
@[simp] theorem Chip.setRun_pf (c : Chip) (k : Nat) (r : ChainRun) : (c.setRun k r).pf = c.pf := rfl
@[simp] theorem Chip.setRun_mem (c : Chip) (k : Nat) (r : ChainRun) : (c.setRun k r).mem = c.mem := rfl
@[simp] theorem Chip.setRun_lck (c : Chip) (k : Nat) (r : ChainRun) : (c.setRun k r).lck = c.lck := rfl
@[simp] theorem Chip.setRun_bsn (c : Chip) (k : Nat) (r : ChainRun) : (c.setRun k r).bsn = c.bsn := rfl
@[simp] theorem Chip.setRun_plan (c : Chip) (k : Nat) (r : ChainRun) : (c.setRun k r).plan = c.plan := rfl
@[simp] theorem Chip.setRun_man (c : Chip) (k : Nat) (r : ChainRun) : (c.setRun k r).man = c.man := rfl
@[simp] theorem Chip.setRun_adc (c : Chip) (k : Nat) (r : ChainRun) : (c.setRun k r).adc = c.adc := rfl
@[simp] theorem Chip.setRun_tow (c : Chip) (k : Nat) (r : ChainRun) : (c.setRun k r).tow = c.tow := rfl
@[simp] theorem Chip.setRun_weir (c : Chip) (k : Nat) (r : ChainRun) : (c.setRun k r).weir = c.weir := rfl
@[simp] theorem Chip.setRun_gau (c : Chip) (k : Nat) (r : ChainRun) : (c.setRun k r).gau = c.gau := rfl
@[simp] theorem Chip.setRun_aqu (c : Chip) (k : Nat) (r : ChainRun) : (c.setRun k r).aqu = c.aqu := rfl

@[simp] theorem Chip.setCapUnit_now (c : Chip) (i : Nat) (x : Capture) : (c.setCapUnit i x).now = c.now := rfl
@[simp] theorem Chip.setCapUnit_fresh (c : Chip) (i : Nat) (x : Capture) : (c.setCapUnit i x).fresh = c.fresh := rfl
@[simp] theorem Chip.setCapUnit_edges (c : Chip) (i : Nat) (x : Capture) : (c.setCapUnit i x).edges = c.edges := rfl
@[simp] theorem Chip.setCapUnit_regs (c : Chip) (i : Nat) (x : Capture) : (c.setCapUnit i x).regs = c.regs := rfl
@[simp] theorem Chip.setCapUnit_out (c : Chip) (i : Nat) (x : Capture) : (c.setCapUnit i x).out = c.out := rfl
@[simp] theorem Chip.setCapUnit_hst (c : Chip) (i : Nat) (x : Capture) : (c.setCapUnit i x).hst = c.hst := rfl
@[simp] theorem Chip.setCapUnit_boot (c : Chip) (i : Nat) (x : Capture) : (c.setCapUnit i x).boot = c.boot := rfl
@[simp] theorem Chip.setCapUnit_log (c : Chip) (i : Nat) (x : Capture) : (c.setCapUnit i x).log = c.log := rfl
@[simp] theorem Chip.setCapUnit_lkp (c : Chip) (i : Nat) (x : Capture) : (c.setCapUnit i x).lkp = c.lkp := rfl
@[simp] theorem Chip.setCapUnit_pnd (c : Chip) (i : Nat) (x : Capture) : (c.setCapUnit i x).pnd = c.pnd := rfl
@[simp] theorem Chip.setCapUnit_tim (c : Chip) (i : Nat) (x : Capture) : (c.setCapUnit i x).tim = c.tim := rfl
@[simp] theorem Chip.setCapUnit_pf (c : Chip) (i : Nat) (x : Capture) : (c.setCapUnit i x).pf = c.pf := rfl
@[simp] theorem Chip.setCapUnit_mem (c : Chip) (i : Nat) (x : Capture) : (c.setCapUnit i x).mem = c.mem := rfl
@[simp] theorem Chip.setCapUnit_lck (c : Chip) (i : Nat) (x : Capture) : (c.setCapUnit i x).lck = c.lck := rfl
@[simp] theorem Chip.setCapUnit_bsn (c : Chip) (i : Nat) (x : Capture) : (c.setCapUnit i x).bsn = c.bsn := rfl
@[simp] theorem Chip.setCapUnit_plan (c : Chip) (i : Nat) (x : Capture) : (c.setCapUnit i x).plan = c.plan := rfl
@[simp] theorem Chip.setCapUnit_man (c : Chip) (i : Nat) (x : Capture) : (c.setCapUnit i x).man = c.man := rfl
@[simp] theorem Chip.setCapUnit_adc (c : Chip) (i : Nat) (x : Capture) : (c.setCapUnit i x).adc = c.adc := rfl
@[simp] theorem Chip.setCapUnit_tow (c : Chip) (i : Nat) (x : Capture) : (c.setCapUnit i x).tow = c.tow := rfl
@[simp] theorem Chip.setCapUnit_weir (c : Chip) (i : Nat) (x : Capture) : (c.setCapUnit i x).weir = c.weir := rfl
@[simp] theorem Chip.setCapUnit_gau (c : Chip) (i : Nat) (x : Capture) : (c.setCapUnit i x).gau = c.gau := rfl
@[simp] theorem Chip.setCapUnit_aqu (c : Chip) (i : Nat) (x : Capture) : (c.setCapUnit i x).aqu = c.aqu := rfl

@[simp] theorem Chip.setLckW_now (c : Chip) (off v : Nat) : (c.setLckW off v).now = c.now := rfl
@[simp] theorem Chip.setLckW_fresh (c : Chip) (off v : Nat) : (c.setLckW off v).fresh = c.fresh := rfl
@[simp] theorem Chip.setLckW_edges (c : Chip) (off v : Nat) : (c.setLckW off v).edges = c.edges := rfl
@[simp] theorem Chip.setLckW_regs (c : Chip) (off v : Nat) : (c.setLckW off v).regs = c.regs := rfl
@[simp] theorem Chip.setLckW_out (c : Chip) (off v : Nat) : (c.setLckW off v).out = c.out := rfl
@[simp] theorem Chip.setLckW_hst (c : Chip) (off v : Nat) : (c.setLckW off v).hst = c.hst := rfl
@[simp] theorem Chip.setLckW_boot (c : Chip) (off v : Nat) : (c.setLckW off v).boot = c.boot := rfl
@[simp] theorem Chip.setLckW_log (c : Chip) (off v : Nat) : (c.setLckW off v).log = c.log := rfl
@[simp] theorem Chip.setLckW_lkp (c : Chip) (off v : Nat) : (c.setLckW off v).lkp = c.lkp := rfl
@[simp] theorem Chip.setLckW_pnd (c : Chip) (off v : Nat) : (c.setLckW off v).pnd = c.pnd := rfl
@[simp] theorem Chip.setLckW_tim (c : Chip) (off v : Nat) : (c.setLckW off v).tim = c.tim := rfl
@[simp] theorem Chip.setLckW_pf (c : Chip) (off v : Nat) : (c.setLckW off v).pf = c.pf := rfl
@[simp] theorem Chip.setLckW_lck (c : Chip) (off v : Nat) : (c.setLckW off v).lck = c.lck := rfl
@[simp] theorem Chip.setLckW_bsn (c : Chip) (off v : Nat) : (c.setLckW off v).bsn = c.bsn := rfl
@[simp] theorem Chip.setLckW_plan (c : Chip) (off v : Nat) : (c.setLckW off v).plan = c.plan := rfl
@[simp] theorem Chip.setLckW_man (c : Chip) (off v : Nat) : (c.setLckW off v).man = c.man := rfl
@[simp] theorem Chip.setLckW_slu (c : Chip) (off v : Nat) : (c.setLckW off v).slu = c.slu := rfl
@[simp] theorem Chip.setLckW_adc (c : Chip) (off v : Nat) : (c.setLckW off v).adc = c.adc := rfl
@[simp] theorem Chip.setLckW_tow (c : Chip) (off v : Nat) : (c.setLckW off v).tow = c.tow := rfl
@[simp] theorem Chip.setLckW_weir (c : Chip) (off v : Nat) : (c.setLckW off v).weir = c.weir := rfl
@[simp] theorem Chip.setLckW_gau (c : Chip) (off v : Nat) : (c.setLckW off v).gau = c.gau := rfl
@[simp] theorem Chip.setLckW_aqu (c : Chip) (off v : Nat) : (c.setLckW off v).aqu = c.aqu := rfl

@[simp] theorem Chip.setSluW_now (c : Chip) (off : Nat) (ws : List Word) : (c.setSluW off ws).now = c.now := rfl
@[simp] theorem Chip.setSluW_fresh (c : Chip) (off : Nat) (ws : List Word) : (c.setSluW off ws).fresh = c.fresh := rfl
@[simp] theorem Chip.setSluW_edges (c : Chip) (off : Nat) (ws : List Word) : (c.setSluW off ws).edges = c.edges := rfl
@[simp] theorem Chip.setSluW_regs (c : Chip) (off : Nat) (ws : List Word) : (c.setSluW off ws).regs = c.regs := rfl
@[simp] theorem Chip.setSluW_out (c : Chip) (off : Nat) (ws : List Word) : (c.setSluW off ws).out = c.out := rfl
@[simp] theorem Chip.setSluW_hst (c : Chip) (off : Nat) (ws : List Word) : (c.setSluW off ws).hst = c.hst := rfl
@[simp] theorem Chip.setSluW_boot (c : Chip) (off : Nat) (ws : List Word) : (c.setSluW off ws).boot = c.boot := rfl
@[simp] theorem Chip.setSluW_log (c : Chip) (off : Nat) (ws : List Word) : (c.setSluW off ws).log = c.log := rfl
@[simp] theorem Chip.setSluW_lkp (c : Chip) (off : Nat) (ws : List Word) : (c.setSluW off ws).lkp = c.lkp := rfl
@[simp] theorem Chip.setSluW_pnd (c : Chip) (off : Nat) (ws : List Word) : (c.setSluW off ws).pnd = c.pnd := rfl
@[simp] theorem Chip.setSluW_tim (c : Chip) (off : Nat) (ws : List Word) : (c.setSluW off ws).tim = c.tim := rfl
@[simp] theorem Chip.setSluW_pf (c : Chip) (off : Nat) (ws : List Word) : (c.setSluW off ws).pf = c.pf := rfl
@[simp] theorem Chip.setSluW_lck (c : Chip) (off : Nat) (ws : List Word) : (c.setSluW off ws).lck = c.lck := rfl
@[simp] theorem Chip.setSluW_bsn (c : Chip) (off : Nat) (ws : List Word) : (c.setSluW off ws).bsn = c.bsn := rfl
@[simp] theorem Chip.setSluW_plan (c : Chip) (off : Nat) (ws : List Word) : (c.setSluW off ws).plan = c.plan := rfl
@[simp] theorem Chip.setSluW_man (c : Chip) (off : Nat) (ws : List Word) : (c.setSluW off ws).man = c.man := rfl
@[simp] theorem Chip.setSluW_slu (c : Chip) (off : Nat) (ws : List Word) : (c.setSluW off ws).slu = c.slu := rfl
@[simp] theorem Chip.setSluW_adc (c : Chip) (off : Nat) (ws : List Word) : (c.setSluW off ws).adc = c.adc := rfl
@[simp] theorem Chip.setSluW_tow (c : Chip) (off : Nat) (ws : List Word) : (c.setSluW off ws).tow = c.tow := rfl
@[simp] theorem Chip.setSluW_weir (c : Chip) (off : Nat) (ws : List Word) : (c.setSluW off ws).weir = c.weir := rfl
@[simp] theorem Chip.setSluW_gau (c : Chip) (off : Nat) (ws : List Word) : (c.setSluW off ws).gau = c.gau := rfl
@[simp] theorem Chip.setSluW_aqu (c : Chip) (off : Nat) (ws : List Word) : (c.setSluW off ws).aqu = c.aqu := rfl

@[simp] theorem Chip.setAuxW_now (c : Chip) (i : Nat) (x : AuxWord) : (c.setAuxW i x).now = c.now := rfl
@[simp] theorem Chip.setAuxW_fresh (c : Chip) (i : Nat) (x : AuxWord) : (c.setAuxW i x).fresh = c.fresh := rfl
@[simp] theorem Chip.setAuxW_edges (c : Chip) (i : Nat) (x : AuxWord) : (c.setAuxW i x).edges = c.edges := rfl
@[simp] theorem Chip.setAuxW_regs (c : Chip) (i : Nat) (x : AuxWord) : (c.setAuxW i x).regs = c.regs := rfl
@[simp] theorem Chip.setAuxW_out (c : Chip) (i : Nat) (x : AuxWord) : (c.setAuxW i x).out = c.out := rfl
@[simp] theorem Chip.setAuxW_hst (c : Chip) (i : Nat) (x : AuxWord) : (c.setAuxW i x).hst = c.hst := rfl
@[simp] theorem Chip.setAuxW_boot (c : Chip) (i : Nat) (x : AuxWord) : (c.setAuxW i x).boot = c.boot := rfl
@[simp] theorem Chip.setAuxW_log (c : Chip) (i : Nat) (x : AuxWord) : (c.setAuxW i x).log = c.log := rfl
@[simp] theorem Chip.setAuxW_lkp (c : Chip) (i : Nat) (x : AuxWord) : (c.setAuxW i x).lkp = c.lkp := rfl
@[simp] theorem Chip.setAuxW_pnd (c : Chip) (i : Nat) (x : AuxWord) : (c.setAuxW i x).pnd = c.pnd := rfl
@[simp] theorem Chip.setAuxW_tim (c : Chip) (i : Nat) (x : AuxWord) : (c.setAuxW i x).tim = c.tim := rfl
@[simp] theorem Chip.setAuxW_pf (c : Chip) (i : Nat) (x : AuxWord) : (c.setAuxW i x).pf = c.pf := rfl
@[simp] theorem Chip.setAuxW_mem (c : Chip) (i : Nat) (x : AuxWord) : (c.setAuxW i x).mem = c.mem := rfl
@[simp] theorem Chip.setAuxW_lck (c : Chip) (i : Nat) (x : AuxWord) : (c.setAuxW i x).lck = c.lck := rfl
@[simp] theorem Chip.setAuxW_bsn (c : Chip) (i : Nat) (x : AuxWord) : (c.setAuxW i x).bsn = c.bsn := rfl
@[simp] theorem Chip.setAuxW_plan (c : Chip) (i : Nat) (x : AuxWord) : (c.setAuxW i x).plan = c.plan := rfl
@[simp] theorem Chip.setAuxW_man (c : Chip) (i : Nat) (x : AuxWord) : (c.setAuxW i x).man = c.man := rfl
@[simp] theorem Chip.setAuxW_slu (c : Chip) (i : Nat) (x : AuxWord) : (c.setAuxW i x).slu = c.slu := rfl
@[simp] theorem Chip.setAuxW_adc (c : Chip) (i : Nat) (x : AuxWord) : (c.setAuxW i x).adc = c.adc := rfl
@[simp] theorem Chip.setAuxW_weir (c : Chip) (i : Nat) (x : AuxWord) : (c.setAuxW i x).weir = c.weir := rfl
@[simp] theorem Chip.setAuxW_gau (c : Chip) (i : Nat) (x : AuxWord) : (c.setAuxW i x).gau = c.gau := rfl
@[simp] theorem Chip.setAuxW_aqu (c : Chip) (i : Nat) (x : AuxWord) : (c.setAuxW i x).aqu = c.aqu := rfl

@[simp] theorem Chip.setCoreHalf_now (c : Chip) (core m h v : Nat) : (c.setCoreHalf core m h v).now = c.now := rfl
@[simp] theorem Chip.setCoreHalf_fresh (c : Chip) (core m h v : Nat) : (c.setCoreHalf core m h v).fresh = c.fresh := rfl
@[simp] theorem Chip.setCoreHalf_edges (c : Chip) (core m h v : Nat) : (c.setCoreHalf core m h v).edges = c.edges := rfl
@[simp] theorem Chip.setCoreHalf_regs (c : Chip) (core m h v : Nat) : (c.setCoreHalf core m h v).regs = c.regs := rfl
@[simp] theorem Chip.setCoreHalf_out (c : Chip) (core m h v : Nat) : (c.setCoreHalf core m h v).out = c.out := rfl
@[simp] theorem Chip.setCoreHalf_hst (c : Chip) (core m h v : Nat) : (c.setCoreHalf core m h v).hst = c.hst := rfl
@[simp] theorem Chip.setCoreHalf_boot (c : Chip) (core m h v : Nat) : (c.setCoreHalf core m h v).boot = c.boot := rfl
@[simp] theorem Chip.setCoreHalf_log (c : Chip) (core m h v : Nat) : (c.setCoreHalf core m h v).log = c.log := rfl
@[simp] theorem Chip.setCoreHalf_lkp (c : Chip) (core m h v : Nat) : (c.setCoreHalf core m h v).lkp = c.lkp := rfl
@[simp] theorem Chip.setCoreHalf_pnd (c : Chip) (core m h v : Nat) : (c.setCoreHalf core m h v).pnd = c.pnd := rfl
@[simp] theorem Chip.setCoreHalf_tim (c : Chip) (core m h v : Nat) : (c.setCoreHalf core m h v).tim = c.tim := rfl
@[simp] theorem Chip.setCoreHalf_pf (c : Chip) (core m h v : Nat) : (c.setCoreHalf core m h v).pf = c.pf := rfl
@[simp] theorem Chip.setCoreHalf_lck (c : Chip) (core m h v : Nat) : (c.setCoreHalf core m h v).lck = c.lck := rfl
@[simp] theorem Chip.setCoreHalf_bsn (c : Chip) (core m h v : Nat) : (c.setCoreHalf core m h v).bsn = c.bsn := rfl
@[simp] theorem Chip.setCoreHalf_plan (c : Chip) (core m h v : Nat) : (c.setCoreHalf core m h v).plan = c.plan := rfl
@[simp] theorem Chip.setCoreHalf_man (c : Chip) (core m h v : Nat) : (c.setCoreHalf core m h v).man = c.man := rfl
@[simp] theorem Chip.setCoreHalf_adc (c : Chip) (core m h v : Nat) : (c.setCoreHalf core m h v).adc = c.adc := rfl
@[simp] theorem Chip.setCoreHalf_tow (c : Chip) (core m h v : Nat) : (c.setCoreHalf core m h v).tow = c.tow := rfl
@[simp] theorem Chip.setCoreHalf_weir (c : Chip) (core m h v : Nat) : (c.setCoreHalf core m h v).weir = c.weir := rfl
@[simp] theorem Chip.setCoreHalf_gau (c : Chip) (core m h v : Nat) : (c.setCoreHalf core m h v).gau = c.gau := rfl
@[simp] theorem Chip.setCoreHalf_aqu (c : Chip) (core m h v : Nat) : (c.setCoreHalf core m h v).aqu = c.aqu := rfl

@[simp] theorem Chip.setJob_now (c : Chip) (s : Nat) (j : Job) : (c.setJob s j).now = c.now := rfl
@[simp] theorem Chip.setJob_fresh (c : Chip) (s : Nat) (j : Job) : (c.setJob s j).fresh = c.fresh := rfl
@[simp] theorem Chip.setJob_edges (c : Chip) (s : Nat) (j : Job) : (c.setJob s j).edges = c.edges := rfl
@[simp] theorem Chip.setJob_regs (c : Chip) (s : Nat) (j : Job) : (c.setJob s j).regs = c.regs := rfl
@[simp] theorem Chip.setJob_out (c : Chip) (s : Nat) (j : Job) : (c.setJob s j).out = c.out := rfl
@[simp] theorem Chip.setJob_hst (c : Chip) (s : Nat) (j : Job) : (c.setJob s j).hst = c.hst := rfl
@[simp] theorem Chip.setJob_boot (c : Chip) (s : Nat) (j : Job) : (c.setJob s j).boot = c.boot := rfl
@[simp] theorem Chip.setJob_log (c : Chip) (s : Nat) (j : Job) : (c.setJob s j).log = c.log := rfl
@[simp] theorem Chip.setJob_lkp (c : Chip) (s : Nat) (j : Job) : (c.setJob s j).lkp = c.lkp := rfl
@[simp] theorem Chip.setJob_pnd (c : Chip) (s : Nat) (j : Job) : (c.setJob s j).pnd = c.pnd := rfl
@[simp] theorem Chip.setJob_tim (c : Chip) (s : Nat) (j : Job) : (c.setJob s j).tim = c.tim := rfl
@[simp] theorem Chip.setJob_pf (c : Chip) (s : Nat) (j : Job) : (c.setJob s j).pf = c.pf := rfl
@[simp] theorem Chip.setJob_mem (c : Chip) (s : Nat) (j : Job) : (c.setJob s j).mem = c.mem := rfl
@[simp] theorem Chip.setJob_lck (c : Chip) (s : Nat) (j : Job) : (c.setJob s j).lck = c.lck := rfl
@[simp] theorem Chip.setJob_plan (c : Chip) (s : Nat) (j : Job) : (c.setJob s j).plan = c.plan := rfl
@[simp] theorem Chip.setJob_man (c : Chip) (s : Nat) (j : Job) : (c.setJob s j).man = c.man := rfl
@[simp] theorem Chip.setJob_slu (c : Chip) (s : Nat) (j : Job) : (c.setJob s j).slu = c.slu := rfl
@[simp] theorem Chip.setJob_adc (c : Chip) (s : Nat) (j : Job) : (c.setJob s j).adc = c.adc := rfl
@[simp] theorem Chip.setJob_tow (c : Chip) (s : Nat) (j : Job) : (c.setJob s j).tow = c.tow := rfl
@[simp] theorem Chip.setJob_weir (c : Chip) (s : Nat) (j : Job) : (c.setJob s j).weir = c.weir := rfl
@[simp] theorem Chip.setJob_gau (c : Chip) (s : Nat) (j : Job) : (c.setJob s j).gau = c.gau := rfl
@[simp] theorem Chip.setJob_aqu (c : Chip) (s : Nat) (j : Job) : (c.setJob s j).aqu = c.aqu := rfl

@[simp] theorem Chip.setRslot_now (c : Chip) (s : Nat) (x : RSlot) : (c.setRslot s x).now = c.now := rfl
@[simp] theorem Chip.setRslot_fresh (c : Chip) (s : Nat) (x : RSlot) : (c.setRslot s x).fresh = c.fresh := rfl
@[simp] theorem Chip.setRslot_edges (c : Chip) (s : Nat) (x : RSlot) : (c.setRslot s x).edges = c.edges := rfl
@[simp] theorem Chip.setRslot_regs (c : Chip) (s : Nat) (x : RSlot) : (c.setRslot s x).regs = c.regs := rfl
@[simp] theorem Chip.setRslot_out (c : Chip) (s : Nat) (x : RSlot) : (c.setRslot s x).out = c.out := rfl
@[simp] theorem Chip.setRslot_hst (c : Chip) (s : Nat) (x : RSlot) : (c.setRslot s x).hst = c.hst := rfl
@[simp] theorem Chip.setRslot_boot (c : Chip) (s : Nat) (x : RSlot) : (c.setRslot s x).boot = c.boot := rfl
@[simp] theorem Chip.setRslot_log (c : Chip) (s : Nat) (x : RSlot) : (c.setRslot s x).log = c.log := rfl
@[simp] theorem Chip.setRslot_lkp (c : Chip) (s : Nat) (x : RSlot) : (c.setRslot s x).lkp = c.lkp := rfl
@[simp] theorem Chip.setRslot_pnd (c : Chip) (s : Nat) (x : RSlot) : (c.setRslot s x).pnd = c.pnd := rfl
@[simp] theorem Chip.setRslot_tim (c : Chip) (s : Nat) (x : RSlot) : (c.setRslot s x).tim = c.tim := rfl
@[simp] theorem Chip.setRslot_pf (c : Chip) (s : Nat) (x : RSlot) : (c.setRslot s x).pf = c.pf := rfl
@[simp] theorem Chip.setRslot_mem (c : Chip) (s : Nat) (x : RSlot) : (c.setRslot s x).mem = c.mem := rfl
@[simp] theorem Chip.setRslot_lck (c : Chip) (s : Nat) (x : RSlot) : (c.setRslot s x).lck = c.lck := rfl
@[simp] theorem Chip.setRslot_plan (c : Chip) (s : Nat) (x : RSlot) : (c.setRslot s x).plan = c.plan := rfl
@[simp] theorem Chip.setRslot_man (c : Chip) (s : Nat) (x : RSlot) : (c.setRslot s x).man = c.man := rfl
@[simp] theorem Chip.setRslot_slu (c : Chip) (s : Nat) (x : RSlot) : (c.setRslot s x).slu = c.slu := rfl
@[simp] theorem Chip.setRslot_adc (c : Chip) (s : Nat) (x : RSlot) : (c.setRslot s x).adc = c.adc := rfl
@[simp] theorem Chip.setRslot_tow (c : Chip) (s : Nat) (x : RSlot) : (c.setRslot s x).tow = c.tow := rfl
@[simp] theorem Chip.setRslot_weir (c : Chip) (s : Nat) (x : RSlot) : (c.setRslot s x).weir = c.weir := rfl
@[simp] theorem Chip.setRslot_gau (c : Chip) (s : Nat) (x : RSlot) : (c.setRslot s x).gau = c.gau := rfl
@[simp] theorem Chip.setRslot_aqu (c : Chip) (s : Nat) (x : RSlot) : (c.setRslot s x).aqu = c.aqu := rfl

@[simp] theorem Chip.setList_now (c : Chip) (w p : Nat) (l : List Entry) : (c.setList w p l).now = c.now := rfl
@[simp] theorem Chip.setList_fresh (c : Chip) (w p : Nat) (l : List Entry) : (c.setList w p l).fresh = c.fresh := rfl
@[simp] theorem Chip.setList_edges (c : Chip) (w p : Nat) (l : List Entry) : (c.setList w p l).edges = c.edges := rfl
@[simp] theorem Chip.setList_regs (c : Chip) (w p : Nat) (l : List Entry) : (c.setList w p l).regs = c.regs := rfl
@[simp] theorem Chip.setList_out (c : Chip) (w p : Nat) (l : List Entry) : (c.setList w p l).out = c.out := rfl
@[simp] theorem Chip.setList_hst (c : Chip) (w p : Nat) (l : List Entry) : (c.setList w p l).hst = c.hst := rfl
@[simp] theorem Chip.setList_boot (c : Chip) (w p : Nat) (l : List Entry) : (c.setList w p l).boot = c.boot := rfl
@[simp] theorem Chip.setList_log (c : Chip) (w p : Nat) (l : List Entry) : (c.setList w p l).log = c.log := rfl
@[simp] theorem Chip.setList_pnd (c : Chip) (w p : Nat) (l : List Entry) : (c.setList w p l).pnd = c.pnd := rfl
@[simp] theorem Chip.setList_tim (c : Chip) (w p : Nat) (l : List Entry) : (c.setList w p l).tim = c.tim := rfl
@[simp] theorem Chip.setList_pf (c : Chip) (w p : Nat) (l : List Entry) : (c.setList w p l).pf = c.pf := rfl
@[simp] theorem Chip.setList_mem (c : Chip) (w p : Nat) (l : List Entry) : (c.setList w p l).mem = c.mem := rfl
@[simp] theorem Chip.setList_lck (c : Chip) (w p : Nat) (l : List Entry) : (c.setList w p l).lck = c.lck := rfl
@[simp] theorem Chip.setList_bsn (c : Chip) (w p : Nat) (l : List Entry) : (c.setList w p l).bsn = c.bsn := rfl
@[simp] theorem Chip.setList_plan (c : Chip) (w p : Nat) (l : List Entry) : (c.setList w p l).plan = c.plan := rfl
@[simp] theorem Chip.setList_man (c : Chip) (w p : Nat) (l : List Entry) : (c.setList w p l).man = c.man := rfl
@[simp] theorem Chip.setList_slu (c : Chip) (w p : Nat) (l : List Entry) : (c.setList w p l).slu = c.slu := rfl
@[simp] theorem Chip.setList_adc (c : Chip) (w p : Nat) (l : List Entry) : (c.setList w p l).adc = c.adc := rfl
@[simp] theorem Chip.setList_tow (c : Chip) (w p : Nat) (l : List Entry) : (c.setList w p l).tow = c.tow := rfl
@[simp] theorem Chip.setList_weir (c : Chip) (w p : Nat) (l : List Entry) : (c.setList w p l).weir = c.weir := rfl
@[simp] theorem Chip.setList_gau (c : Chip) (w p : Nat) (l : List Entry) : (c.setList w p l).gau = c.gau := rfl
@[simp] theorem Chip.setList_aqu (c : Chip) (w p : Nat) (l : List Entry) : (c.setList w p l).aqu = c.aqu := rfl

@[simp] theorem Chip.setRing_now (c : Chip) (off : Nat) (ws : List Word) : (c.setRing off ws).now = c.now := rfl
@[simp] theorem Chip.setRing_fresh (c : Chip) (off : Nat) (ws : List Word) : (c.setRing off ws).fresh = c.fresh := rfl
@[simp] theorem Chip.setRing_edges (c : Chip) (off : Nat) (ws : List Word) : (c.setRing off ws).edges = c.edges := rfl
@[simp] theorem Chip.setRing_regs (c : Chip) (off : Nat) (ws : List Word) : (c.setRing off ws).regs = c.regs := rfl
@[simp] theorem Chip.setRing_out (c : Chip) (off : Nat) (ws : List Word) : (c.setRing off ws).out = c.out := rfl
@[simp] theorem Chip.setRing_boot (c : Chip) (off : Nat) (ws : List Word) : (c.setRing off ws).boot = c.boot := rfl
@[simp] theorem Chip.setRing_log (c : Chip) (off : Nat) (ws : List Word) : (c.setRing off ws).log = c.log := rfl
@[simp] theorem Chip.setRing_lkp (c : Chip) (off : Nat) (ws : List Word) : (c.setRing off ws).lkp = c.lkp := rfl
@[simp] theorem Chip.setRing_pnd (c : Chip) (off : Nat) (ws : List Word) : (c.setRing off ws).pnd = c.pnd := rfl
@[simp] theorem Chip.setRing_tim (c : Chip) (off : Nat) (ws : List Word) : (c.setRing off ws).tim = c.tim := rfl
@[simp] theorem Chip.setRing_pf (c : Chip) (off : Nat) (ws : List Word) : (c.setRing off ws).pf = c.pf := rfl
@[simp] theorem Chip.setRing_mem (c : Chip) (off : Nat) (ws : List Word) : (c.setRing off ws).mem = c.mem := rfl
@[simp] theorem Chip.setRing_lck (c : Chip) (off : Nat) (ws : List Word) : (c.setRing off ws).lck = c.lck := rfl
@[simp] theorem Chip.setRing_bsn (c : Chip) (off : Nat) (ws : List Word) : (c.setRing off ws).bsn = c.bsn := rfl
@[simp] theorem Chip.setRing_plan (c : Chip) (off : Nat) (ws : List Word) : (c.setRing off ws).plan = c.plan := rfl
@[simp] theorem Chip.setRing_man (c : Chip) (off : Nat) (ws : List Word) : (c.setRing off ws).man = c.man := rfl
@[simp] theorem Chip.setRing_slu (c : Chip) (off : Nat) (ws : List Word) : (c.setRing off ws).slu = c.slu := rfl
@[simp] theorem Chip.setRing_adc (c : Chip) (off : Nat) (ws : List Word) : (c.setRing off ws).adc = c.adc := rfl
@[simp] theorem Chip.setRing_tow (c : Chip) (off : Nat) (ws : List Word) : (c.setRing off ws).tow = c.tow := rfl
@[simp] theorem Chip.setRing_weir (c : Chip) (off : Nat) (ws : List Word) : (c.setRing off ws).weir = c.weir := rfl
@[simp] theorem Chip.setRing_gau (c : Chip) (off : Nat) (ws : List Word) : (c.setRing off ws).gau = c.gau := rfl
@[simp] theorem Chip.setRing_aqu (c : Chip) (off : Nat) (ws : List Word) : (c.setRing off ws).aqu = c.aqu := rfl

@[simp] theorem Chip.arenaPut_now (c : Chip) (a : Nat) (ws : List Nat) : (c.arenaPut a ws).now = c.now := rfl
@[simp] theorem Chip.arenaPut_fresh (c : Chip) (a : Nat) (ws : List Nat) : (c.arenaPut a ws).fresh = c.fresh := rfl
@[simp] theorem Chip.arenaPut_edges (c : Chip) (a : Nat) (ws : List Nat) : (c.arenaPut a ws).edges = c.edges := rfl
@[simp] theorem Chip.arenaPut_regs (c : Chip) (a : Nat) (ws : List Nat) : (c.arenaPut a ws).regs = c.regs := rfl
@[simp] theorem Chip.arenaPut_out (c : Chip) (a : Nat) (ws : List Nat) : (c.arenaPut a ws).out = c.out := rfl
@[simp] theorem Chip.arenaPut_hst (c : Chip) (a : Nat) (ws : List Nat) : (c.arenaPut a ws).hst = c.hst := rfl
@[simp] theorem Chip.arenaPut_boot (c : Chip) (a : Nat) (ws : List Nat) : (c.arenaPut a ws).boot = c.boot := rfl
@[simp] theorem Chip.arenaPut_log (c : Chip) (a : Nat) (ws : List Nat) : (c.arenaPut a ws).log = c.log := rfl
@[simp] theorem Chip.arenaPut_lkp (c : Chip) (a : Nat) (ws : List Nat) : (c.arenaPut a ws).lkp = c.lkp := rfl
@[simp] theorem Chip.arenaPut_pnd (c : Chip) (a : Nat) (ws : List Nat) : (c.arenaPut a ws).pnd = c.pnd := rfl
@[simp] theorem Chip.arenaPut_tim (c : Chip) (a : Nat) (ws : List Nat) : (c.arenaPut a ws).tim = c.tim := rfl
@[simp] theorem Chip.arenaPut_pf (c : Chip) (a : Nat) (ws : List Nat) : (c.arenaPut a ws).pf = c.pf := rfl
@[simp] theorem Chip.arenaPut_lck (c : Chip) (a : Nat) (ws : List Nat) : (c.arenaPut a ws).lck = c.lck := rfl
@[simp] theorem Chip.arenaPut_bsn (c : Chip) (a : Nat) (ws : List Nat) : (c.arenaPut a ws).bsn = c.bsn := rfl
@[simp] theorem Chip.arenaPut_plan (c : Chip) (a : Nat) (ws : List Nat) : (c.arenaPut a ws).plan = c.plan := rfl
@[simp] theorem Chip.arenaPut_man (c : Chip) (a : Nat) (ws : List Nat) : (c.arenaPut a ws).man = c.man := rfl
@[simp] theorem Chip.arenaPut_slu (c : Chip) (a : Nat) (ws : List Nat) : (c.arenaPut a ws).slu = c.slu := rfl
@[simp] theorem Chip.arenaPut_adc (c : Chip) (a : Nat) (ws : List Nat) : (c.arenaPut a ws).adc = c.adc := rfl
@[simp] theorem Chip.arenaPut_tow (c : Chip) (a : Nat) (ws : List Nat) : (c.arenaPut a ws).tow = c.tow := rfl
@[simp] theorem Chip.arenaPut_weir (c : Chip) (a : Nat) (ws : List Nat) : (c.arenaPut a ws).weir = c.weir := rfl
@[simp] theorem Chip.arenaPut_gau (c : Chip) (a : Nat) (ws : List Nat) : (c.arenaPut a ws).gau = c.gau := rfl
@[simp] theorem Chip.arenaPut_aqu (c : Chip) (a : Nat) (ws : List Nat) : (c.arenaPut a ws).aqu = c.aqu := rfl

@[simp] theorem Chip.gauPut_now (c : Chip) (a : Nat) (bs : List Byte) : (c.gauPut a bs).now = c.now := rfl
@[simp] theorem Chip.gauPut_fresh (c : Chip) (a : Nat) (bs : List Byte) : (c.gauPut a bs).fresh = c.fresh := rfl
@[simp] theorem Chip.gauPut_edges (c : Chip) (a : Nat) (bs : List Byte) : (c.gauPut a bs).edges = c.edges := rfl
@[simp] theorem Chip.gauPut_regs (c : Chip) (a : Nat) (bs : List Byte) : (c.gauPut a bs).regs = c.regs := rfl
@[simp] theorem Chip.gauPut_out (c : Chip) (a : Nat) (bs : List Byte) : (c.gauPut a bs).out = c.out := rfl
@[simp] theorem Chip.gauPut_hst (c : Chip) (a : Nat) (bs : List Byte) : (c.gauPut a bs).hst = c.hst := rfl
@[simp] theorem Chip.gauPut_boot (c : Chip) (a : Nat) (bs : List Byte) : (c.gauPut a bs).boot = c.boot := rfl
@[simp] theorem Chip.gauPut_log (c : Chip) (a : Nat) (bs : List Byte) : (c.gauPut a bs).log = c.log := rfl
@[simp] theorem Chip.gauPut_lkp (c : Chip) (a : Nat) (bs : List Byte) : (c.gauPut a bs).lkp = c.lkp := rfl
@[simp] theorem Chip.gauPut_pnd (c : Chip) (a : Nat) (bs : List Byte) : (c.gauPut a bs).pnd = c.pnd := rfl
@[simp] theorem Chip.gauPut_tim (c : Chip) (a : Nat) (bs : List Byte) : (c.gauPut a bs).tim = c.tim := rfl
@[simp] theorem Chip.gauPut_pf (c : Chip) (a : Nat) (bs : List Byte) : (c.gauPut a bs).pf = c.pf := rfl
@[simp] theorem Chip.gauPut_lck (c : Chip) (a : Nat) (bs : List Byte) : (c.gauPut a bs).lck = c.lck := rfl
@[simp] theorem Chip.gauPut_bsn (c : Chip) (a : Nat) (bs : List Byte) : (c.gauPut a bs).bsn = c.bsn := rfl
@[simp] theorem Chip.gauPut_plan (c : Chip) (a : Nat) (bs : List Byte) : (c.gauPut a bs).plan = c.plan := rfl
@[simp] theorem Chip.gauPut_man (c : Chip) (a : Nat) (bs : List Byte) : (c.gauPut a bs).man = c.man := rfl
@[simp] theorem Chip.gauPut_slu (c : Chip) (a : Nat) (bs : List Byte) : (c.gauPut a bs).slu = c.slu := rfl
@[simp] theorem Chip.gauPut_adc (c : Chip) (a : Nat) (bs : List Byte) : (c.gauPut a bs).adc = c.adc := rfl
@[simp] theorem Chip.gauPut_tow (c : Chip) (a : Nat) (bs : List Byte) : (c.gauPut a bs).tow = c.tow := rfl
@[simp] theorem Chip.gauPut_weir (c : Chip) (a : Nat) (bs : List Byte) : (c.gauPut a bs).weir = c.weir := rfl
@[simp] theorem Chip.gauPut_gau (c : Chip) (a : Nat) (bs : List Byte) : (c.gauPut a bs).gau = c.gau := rfl
@[simp] theorem Chip.gauPut_aqu (c : Chip) (a : Nat) (bs : List Byte) : (c.gauPut a bs).aqu = c.aqu := rfl

@[simp] theorem Chip.setEdge_now (c : Chip) (off : Nat) (e : Word × Word) : (c.setEdge off e).now = c.now := rfl
@[simp] theorem Chip.setEdge_fresh (c : Chip) (off : Nat) (e : Word × Word) : (c.setEdge off e).fresh = c.fresh := rfl
@[simp] theorem Chip.setEdge_regs (c : Chip) (off : Nat) (e : Word × Word) : (c.setEdge off e).regs = c.regs := rfl
@[simp] theorem Chip.setEdge_out (c : Chip) (off : Nat) (e : Word × Word) : (c.setEdge off e).out = c.out := rfl
@[simp] theorem Chip.setEdge_hst (c : Chip) (off : Nat) (e : Word × Word) : (c.setEdge off e).hst = c.hst := rfl
@[simp] theorem Chip.setEdge_boot (c : Chip) (off : Nat) (e : Word × Word) : (c.setEdge off e).boot = c.boot := rfl
@[simp] theorem Chip.setEdge_log (c : Chip) (off : Nat) (e : Word × Word) : (c.setEdge off e).log = c.log := rfl
@[simp] theorem Chip.setEdge_lkp (c : Chip) (off : Nat) (e : Word × Word) : (c.setEdge off e).lkp = c.lkp := rfl
@[simp] theorem Chip.setEdge_pnd (c : Chip) (off : Nat) (e : Word × Word) : (c.setEdge off e).pnd = c.pnd := rfl
@[simp] theorem Chip.setEdge_tim (c : Chip) (off : Nat) (e : Word × Word) : (c.setEdge off e).tim = c.tim := rfl
@[simp] theorem Chip.setEdge_pf (c : Chip) (off : Nat) (e : Word × Word) : (c.setEdge off e).pf = c.pf := rfl
@[simp] theorem Chip.setEdge_mem (c : Chip) (off : Nat) (e : Word × Word) : (c.setEdge off e).mem = c.mem := rfl
@[simp] theorem Chip.setEdge_lck (c : Chip) (off : Nat) (e : Word × Word) : (c.setEdge off e).lck = c.lck := rfl
@[simp] theorem Chip.setEdge_bsn (c : Chip) (off : Nat) (e : Word × Word) : (c.setEdge off e).bsn = c.bsn := rfl
@[simp] theorem Chip.setEdge_plan (c : Chip) (off : Nat) (e : Word × Word) : (c.setEdge off e).plan = c.plan := rfl
@[simp] theorem Chip.setEdge_man (c : Chip) (off : Nat) (e : Word × Word) : (c.setEdge off e).man = c.man := rfl
@[simp] theorem Chip.setEdge_slu (c : Chip) (off : Nat) (e : Word × Word) : (c.setEdge off e).slu = c.slu := rfl
@[simp] theorem Chip.setEdge_adc (c : Chip) (off : Nat) (e : Word × Word) : (c.setEdge off e).adc = c.adc := rfl
@[simp] theorem Chip.setEdge_tow (c : Chip) (off : Nat) (e : Word × Word) : (c.setEdge off e).tow = c.tow := rfl
@[simp] theorem Chip.setEdge_weir (c : Chip) (off : Nat) (e : Word × Word) : (c.setEdge off e).weir = c.weir := rfl
@[simp] theorem Chip.setEdge_gau (c : Chip) (off : Nat) (e : Word × Word) : (c.setEdge off e).gau = c.gau := rfl
@[simp] theorem Chip.setEdge_aqu (c : Chip) (off : Nat) (e : Word × Word) : (c.setEdge off e).aqu = c.aqu := rfl

@[simp] theorem Chip.noteEdge_now (c : Chip) (x : Fld) (f : Nat → Nat) : (c.noteEdge x f).now = c.now := rfl
@[simp] theorem Chip.noteEdge_fresh (c : Chip) (x : Fld) (f : Nat → Nat) : (c.noteEdge x f).fresh = c.fresh := rfl
@[simp] theorem Chip.noteEdge_regs (c : Chip) (x : Fld) (f : Nat → Nat) : (c.noteEdge x f).regs = c.regs := rfl
@[simp] theorem Chip.noteEdge_out (c : Chip) (x : Fld) (f : Nat → Nat) : (c.noteEdge x f).out = c.out := rfl
@[simp] theorem Chip.noteEdge_hst (c : Chip) (x : Fld) (f : Nat → Nat) : (c.noteEdge x f).hst = c.hst := rfl
@[simp] theorem Chip.noteEdge_boot (c : Chip) (x : Fld) (f : Nat → Nat) : (c.noteEdge x f).boot = c.boot := rfl
@[simp] theorem Chip.noteEdge_log (c : Chip) (x : Fld) (f : Nat → Nat) : (c.noteEdge x f).log = c.log := rfl
@[simp] theorem Chip.noteEdge_lkp (c : Chip) (x : Fld) (f : Nat → Nat) : (c.noteEdge x f).lkp = c.lkp := rfl
@[simp] theorem Chip.noteEdge_pnd (c : Chip) (x : Fld) (f : Nat → Nat) : (c.noteEdge x f).pnd = c.pnd := rfl
@[simp] theorem Chip.noteEdge_tim (c : Chip) (x : Fld) (f : Nat → Nat) : (c.noteEdge x f).tim = c.tim := rfl
@[simp] theorem Chip.noteEdge_pf (c : Chip) (x : Fld) (f : Nat → Nat) : (c.noteEdge x f).pf = c.pf := rfl
@[simp] theorem Chip.noteEdge_mem (c : Chip) (x : Fld) (f : Nat → Nat) : (c.noteEdge x f).mem = c.mem := rfl
@[simp] theorem Chip.noteEdge_lck (c : Chip) (x : Fld) (f : Nat → Nat) : (c.noteEdge x f).lck = c.lck := rfl
@[simp] theorem Chip.noteEdge_bsn (c : Chip) (x : Fld) (f : Nat → Nat) : (c.noteEdge x f).bsn = c.bsn := rfl
@[simp] theorem Chip.noteEdge_plan (c : Chip) (x : Fld) (f : Nat → Nat) : (c.noteEdge x f).plan = c.plan := rfl
@[simp] theorem Chip.noteEdge_man (c : Chip) (x : Fld) (f : Nat → Nat) : (c.noteEdge x f).man = c.man := rfl
@[simp] theorem Chip.noteEdge_slu (c : Chip) (x : Fld) (f : Nat → Nat) : (c.noteEdge x f).slu = c.slu := rfl
@[simp] theorem Chip.noteEdge_adc (c : Chip) (x : Fld) (f : Nat → Nat) : (c.noteEdge x f).adc = c.adc := rfl
@[simp] theorem Chip.noteEdge_tow (c : Chip) (x : Fld) (f : Nat → Nat) : (c.noteEdge x f).tow = c.tow := rfl
@[simp] theorem Chip.noteEdge_weir (c : Chip) (x : Fld) (f : Nat → Nat) : (c.noteEdge x f).weir = c.weir := rfl
@[simp] theorem Chip.noteEdge_gau (c : Chip) (x : Fld) (f : Nat → Nat) : (c.noteEdge x f).gau = c.gau := rfl
@[simp] theorem Chip.noteEdge_aqu (c : Chip) (x : Fld) (f : Nat → Nat) : (c.noteEdge x f).aqu = c.aqu := rfl

@[simp] theorem Chip.setCoreBytes_now (c : Chip) (core m h : Nat) (bytes : List Byte) : (c.setCoreBytes core m h bytes).now = c.now := rfl
@[simp] theorem Chip.setCoreBytes_fresh (c : Chip) (core m h : Nat) (bytes : List Byte) : (c.setCoreBytes core m h bytes).fresh = c.fresh := rfl
@[simp] theorem Chip.setCoreBytes_regs (c : Chip) (core m h : Nat) (bytes : List Byte) : (c.setCoreBytes core m h bytes).regs = c.regs := rfl
@[simp] theorem Chip.setCoreBytes_edges (c : Chip) (core m h : Nat) (bytes : List Byte) : (c.setCoreBytes core m h bytes).edges = c.edges := rfl
@[simp] theorem Chip.setCoreBytes_out (c : Chip) (core m h : Nat) (bytes : List Byte) : (c.setCoreBytes core m h bytes).out = c.out := rfl
@[simp] theorem Chip.setCoreBytes_hst (c : Chip) (core m h : Nat) (bytes : List Byte) : (c.setCoreBytes core m h bytes).hst = c.hst := rfl
@[simp] theorem Chip.setCoreBytes_boot (c : Chip) (core m h : Nat) (bytes : List Byte) : (c.setCoreBytes core m h bytes).boot = c.boot := rfl
@[simp] theorem Chip.setCoreBytes_log (c : Chip) (core m h : Nat) (bytes : List Byte) : (c.setCoreBytes core m h bytes).log = c.log := rfl
@[simp] theorem Chip.setCoreBytes_lkp (c : Chip) (core m h : Nat) (bytes : List Byte) : (c.setCoreBytes core m h bytes).lkp = c.lkp := rfl
@[simp] theorem Chip.setCoreBytes_pnd (c : Chip) (core m h : Nat) (bytes : List Byte) : (c.setCoreBytes core m h bytes).pnd = c.pnd := rfl
@[simp] theorem Chip.setCoreBytes_tim (c : Chip) (core m h : Nat) (bytes : List Byte) : (c.setCoreBytes core m h bytes).tim = c.tim := rfl
@[simp] theorem Chip.setCoreBytes_pf (c : Chip) (core m h : Nat) (bytes : List Byte) : (c.setCoreBytes core m h bytes).pf = c.pf := rfl
@[simp] theorem Chip.setCoreBytes_lck (c : Chip) (core m h : Nat) (bytes : List Byte) : (c.setCoreBytes core m h bytes).lck = c.lck := rfl
@[simp] theorem Chip.setCoreBytes_bsn (c : Chip) (core m h : Nat) (bytes : List Byte) : (c.setCoreBytes core m h bytes).bsn = c.bsn := rfl
@[simp] theorem Chip.setCoreBytes_plan (c : Chip) (core m h : Nat) (bytes : List Byte) : (c.setCoreBytes core m h bytes).plan = c.plan := rfl
@[simp] theorem Chip.setCoreBytes_man (c : Chip) (core m h : Nat) (bytes : List Byte) : (c.setCoreBytes core m h bytes).man = c.man := rfl
@[simp] theorem Chip.setCoreBytes_adc (c : Chip) (core m h : Nat) (bytes : List Byte) : (c.setCoreBytes core m h bytes).adc = c.adc := rfl
@[simp] theorem Chip.setCoreBytes_tow (c : Chip) (core m h : Nat) (bytes : List Byte) : (c.setCoreBytes core m h bytes).tow = c.tow := rfl
@[simp] theorem Chip.setCoreBytes_weir (c : Chip) (core m h : Nat) (bytes : List Byte) : (c.setCoreBytes core m h bytes).weir = c.weir := rfl
@[simp] theorem Chip.setCoreBytes_gau (c : Chip) (core m h : Nat) (bytes : List Byte) : (c.setCoreBytes core m h bytes).gau = c.gau := rfl
@[simp] theorem Chip.setCoreBytes_aqu (c : Chip) (core m h : Nat) (bytes : List Byte) : (c.setCoreBytes core m h bytes).aqu = c.aqu := rfl

@[simp] theorem Chip.setPeer_now (c : Chip) (m : Nat) (v : Int) : (c.setPeer m v).now = c.now := rfl
@[simp] theorem Chip.setPeer_fresh (c : Chip) (m : Nat) (v : Int) : (c.setPeer m v).fresh = c.fresh := rfl
@[simp] theorem Chip.setPeer_regs (c : Chip) (m : Nat) (v : Int) : (c.setPeer m v).regs = c.regs := rfl
@[simp] theorem Chip.setPeer_edges (c : Chip) (m : Nat) (v : Int) : (c.setPeer m v).edges = c.edges := rfl
@[simp] theorem Chip.setPeer_out (c : Chip) (m : Nat) (v : Int) : (c.setPeer m v).out = c.out := rfl
@[simp] theorem Chip.setPeer_hst (c : Chip) (m : Nat) (v : Int) : (c.setPeer m v).hst = c.hst := rfl
@[simp] theorem Chip.setPeer_boot (c : Chip) (m : Nat) (v : Int) : (c.setPeer m v).boot = c.boot := rfl
@[simp] theorem Chip.setPeer_log (c : Chip) (m : Nat) (v : Int) : (c.setPeer m v).log = c.log := rfl
@[simp] theorem Chip.setPeer_lkp (c : Chip) (m : Nat) (v : Int) : (c.setPeer m v).lkp = c.lkp := rfl
@[simp] theorem Chip.setPeer_pnd (c : Chip) (m : Nat) (v : Int) : (c.setPeer m v).pnd = c.pnd := rfl
@[simp] theorem Chip.setPeer_pf (c : Chip) (m : Nat) (v : Int) : (c.setPeer m v).pf = c.pf := rfl
@[simp] theorem Chip.setPeer_mem (c : Chip) (m : Nat) (v : Int) : (c.setPeer m v).mem = c.mem := rfl
@[simp] theorem Chip.setPeer_lck (c : Chip) (m : Nat) (v : Int) : (c.setPeer m v).lck = c.lck := rfl
@[simp] theorem Chip.setPeer_bsn (c : Chip) (m : Nat) (v : Int) : (c.setPeer m v).bsn = c.bsn := rfl
@[simp] theorem Chip.setPeer_plan (c : Chip) (m : Nat) (v : Int) : (c.setPeer m v).plan = c.plan := rfl
@[simp] theorem Chip.setPeer_man (c : Chip) (m : Nat) (v : Int) : (c.setPeer m v).man = c.man := rfl
@[simp] theorem Chip.setPeer_slu (c : Chip) (m : Nat) (v : Int) : (c.setPeer m v).slu = c.slu := rfl
@[simp] theorem Chip.setPeer_adc (c : Chip) (m : Nat) (v : Int) : (c.setPeer m v).adc = c.adc := rfl
@[simp] theorem Chip.setPeer_tow (c : Chip) (m : Nat) (v : Int) : (c.setPeer m v).tow = c.tow := rfl
@[simp] theorem Chip.setPeer_weir (c : Chip) (m : Nat) (v : Int) : (c.setPeer m v).weir = c.weir := rfl
@[simp] theorem Chip.setPeer_gau (c : Chip) (m : Nat) (v : Int) : (c.setPeer m v).gau = c.gau := rfl
@[simp] theorem Chip.setPeer_aqu (c : Chip) (m : Nat) (v : Int) : (c.setPeer m v).aqu = c.aqu := rfl

@[simp] theorem Chip.cmpRestart_now (c : Chip) (k : Nat) : (c.cmpRestart k).now = c.now := rfl
@[simp] theorem Chip.cmpRestart_fresh (c : Chip) (k : Nat) : (c.cmpRestart k).fresh = c.fresh := rfl
@[simp] theorem Chip.cmpRestart_regs (c : Chip) (k : Nat) : (c.cmpRestart k).regs = c.regs := rfl
@[simp] theorem Chip.cmpRestart_edges (c : Chip) (k : Nat) : (c.cmpRestart k).edges = c.edges := rfl
@[simp] theorem Chip.cmpRestart_out (c : Chip) (k : Nat) : (c.cmpRestart k).out = c.out := rfl
@[simp] theorem Chip.cmpRestart_hst (c : Chip) (k : Nat) : (c.cmpRestart k).hst = c.hst := rfl
@[simp] theorem Chip.cmpRestart_boot (c : Chip) (k : Nat) : (c.cmpRestart k).boot = c.boot := rfl
@[simp] theorem Chip.cmpRestart_log (c : Chip) (k : Nat) : (c.cmpRestart k).log = c.log := rfl
@[simp] theorem Chip.cmpRestart_lkp (c : Chip) (k : Nat) : (c.cmpRestart k).lkp = c.lkp := rfl
@[simp] theorem Chip.cmpRestart_pnd (c : Chip) (k : Nat) : (c.cmpRestart k).pnd = c.pnd := rfl
@[simp] theorem Chip.cmpRestart_tim (c : Chip) (k : Nat) : (c.cmpRestart k).tim = c.tim := rfl
@[simp] theorem Chip.cmpRestart_pf (c : Chip) (k : Nat) : (c.cmpRestart k).pf = c.pf := rfl
@[simp] theorem Chip.cmpRestart_mem (c : Chip) (k : Nat) : (c.cmpRestart k).mem = c.mem := rfl
@[simp] theorem Chip.cmpRestart_lck (c : Chip) (k : Nat) : (c.cmpRestart k).lck = c.lck := rfl
@[simp] theorem Chip.cmpRestart_bsn (c : Chip) (k : Nat) : (c.cmpRestart k).bsn = c.bsn := rfl
@[simp] theorem Chip.cmpRestart_plan (c : Chip) (k : Nat) : (c.cmpRestart k).plan = c.plan := rfl
@[simp] theorem Chip.cmpRestart_man (c : Chip) (k : Nat) : (c.cmpRestart k).man = c.man := rfl
@[simp] theorem Chip.cmpRestart_slu (c : Chip) (k : Nat) : (c.cmpRestart k).slu = c.slu := rfl
@[simp] theorem Chip.cmpRestart_tow (c : Chip) (k : Nat) : (c.cmpRestart k).tow = c.tow := rfl
@[simp] theorem Chip.cmpRestart_weir (c : Chip) (k : Nat) : (c.cmpRestart k).weir = c.weir := rfl
@[simp] theorem Chip.cmpRestart_gau (c : Chip) (k : Nat) : (c.cmpRestart k).gau = c.gau := rfl
@[simp] theorem Chip.cmpRestart_aqu (c : Chip) (k : Nat) : (c.cmpRestart k).aqu = c.aqu := rfl

@[simp] theorem Chip.peak_now (c : Chip) (x : Fld) (v : Nat) : (c.peak x v).now = c.now := rfl
@[simp] theorem Chip.peak_fresh (c : Chip) (x : Fld) (v : Nat) : (c.peak x v).fresh = c.fresh := rfl
@[simp] theorem Chip.peak_out (c : Chip) (x : Fld) (v : Nat) : (c.peak x v).out = c.out := rfl
@[simp] theorem Chip.peak_hst (c : Chip) (x : Fld) (v : Nat) : (c.peak x v).hst = c.hst := rfl
@[simp] theorem Chip.peak_boot (c : Chip) (x : Fld) (v : Nat) : (c.peak x v).boot = c.boot := rfl
@[simp] theorem Chip.peak_log (c : Chip) (x : Fld) (v : Nat) : (c.peak x v).log = c.log := rfl
@[simp] theorem Chip.peak_lkp (c : Chip) (x : Fld) (v : Nat) : (c.peak x v).lkp = c.lkp := rfl
@[simp] theorem Chip.peak_pnd (c : Chip) (x : Fld) (v : Nat) : (c.peak x v).pnd = c.pnd := rfl
@[simp] theorem Chip.peak_tim (c : Chip) (x : Fld) (v : Nat) : (c.peak x v).tim = c.tim := rfl
@[simp] theorem Chip.peak_pf (c : Chip) (x : Fld) (v : Nat) : (c.peak x v).pf = c.pf := rfl
@[simp] theorem Chip.peak_mem (c : Chip) (x : Fld) (v : Nat) : (c.peak x v).mem = c.mem := rfl
@[simp] theorem Chip.peak_lck (c : Chip) (x : Fld) (v : Nat) : (c.peak x v).lck = c.lck := rfl
@[simp] theorem Chip.peak_bsn (c : Chip) (x : Fld) (v : Nat) : (c.peak x v).bsn = c.bsn := rfl
@[simp] theorem Chip.peak_plan (c : Chip) (x : Fld) (v : Nat) : (c.peak x v).plan = c.plan := rfl
@[simp] theorem Chip.peak_man (c : Chip) (x : Fld) (v : Nat) : (c.peak x v).man = c.man := rfl
@[simp] theorem Chip.peak_slu (c : Chip) (x : Fld) (v : Nat) : (c.peak x v).slu = c.slu := rfl
@[simp] theorem Chip.peak_adc (c : Chip) (x : Fld) (v : Nat) : (c.peak x v).adc = c.adc := rfl
@[simp] theorem Chip.peak_tow (c : Chip) (x : Fld) (v : Nat) : (c.peak x v).tow = c.tow := rfl
@[simp] theorem Chip.peak_weir (c : Chip) (x : Fld) (v : Nat) : (c.peak x v).weir = c.weir := rfl
@[simp] theorem Chip.peak_gau (c : Chip) (x : Fld) (v : Nat) : (c.peak x v).gau = c.gau := rfl
@[simp] theorem Chip.peak_aqu (c : Chip) (x : Fld) (v : Nat) : (c.peak x v).aqu = c.aqu := rfl

@[simp] theorem Chip.setMon_now (c : Chip) (m : Nat) (x y : AxMon) : (c.setMon m x y).now = c.now := rfl
@[simp] theorem Chip.setMon_fresh (c : Chip) (m : Nat) (x y : AxMon) : (c.setMon m x y).fresh = c.fresh := rfl
@[simp] theorem Chip.setMon_regs (c : Chip) (m : Nat) (x y : AxMon) : (c.setMon m x y).regs = c.regs := rfl
@[simp] theorem Chip.setMon_edges (c : Chip) (m : Nat) (x y : AxMon) : (c.setMon m x y).edges = c.edges := rfl
@[simp] theorem Chip.setMon_out (c : Chip) (m : Nat) (x y : AxMon) : (c.setMon m x y).out = c.out := rfl
@[simp] theorem Chip.setMon_hst (c : Chip) (m : Nat) (x y : AxMon) : (c.setMon m x y).hst = c.hst := rfl
@[simp] theorem Chip.setMon_boot (c : Chip) (m : Nat) (x y : AxMon) : (c.setMon m x y).boot = c.boot := rfl
@[simp] theorem Chip.setMon_log (c : Chip) (m : Nat) (x y : AxMon) : (c.setMon m x y).log = c.log := rfl
@[simp] theorem Chip.setMon_lkp (c : Chip) (m : Nat) (x y : AxMon) : (c.setMon m x y).lkp = c.lkp := rfl
@[simp] theorem Chip.setMon_pnd (c : Chip) (m : Nat) (x y : AxMon) : (c.setMon m x y).pnd = c.pnd := rfl
@[simp] theorem Chip.setMon_tim (c : Chip) (m : Nat) (x y : AxMon) : (c.setMon m x y).tim = c.tim := rfl
@[simp] theorem Chip.setMon_pf (c : Chip) (m : Nat) (x y : AxMon) : (c.setMon m x y).pf = c.pf := rfl
@[simp] theorem Chip.setMon_mem (c : Chip) (m : Nat) (x y : AxMon) : (c.setMon m x y).mem = c.mem := rfl
@[simp] theorem Chip.setMon_lck (c : Chip) (m : Nat) (x y : AxMon) : (c.setMon m x y).lck = c.lck := rfl
@[simp] theorem Chip.setMon_bsn (c : Chip) (m : Nat) (x y : AxMon) : (c.setMon m x y).bsn = c.bsn := rfl
@[simp] theorem Chip.setMon_plan (c : Chip) (m : Nat) (x y : AxMon) : (c.setMon m x y).plan = c.plan := rfl
@[simp] theorem Chip.setMon_man (c : Chip) (m : Nat) (x y : AxMon) : (c.setMon m x y).man = c.man := rfl
@[simp] theorem Chip.setMon_slu (c : Chip) (m : Nat) (x y : AxMon) : (c.setMon m x y).slu = c.slu := rfl
@[simp] theorem Chip.setMon_adc (c : Chip) (m : Nat) (x y : AxMon) : (c.setMon m x y).adc = c.adc := rfl
@[simp] theorem Chip.setMon_tow (c : Chip) (m : Nat) (x y : AxMon) : (c.setMon m x y).tow = c.tow := rfl
@[simp] theorem Chip.setMon_gau (c : Chip) (m : Nat) (x y : AxMon) : (c.setMon m x y).gau = c.gau := rfl
@[simp] theorem Chip.setMon_aqu (c : Chip) (m : Nat) (x y : AxMon) : (c.setMon m x y).aqu = c.aqu := rfl

@[simp] theorem Chip.setSafeIn_now (c : Chip) (i : Nat) (x y : SafeIn) : (c.setSafeIn i x y).now = c.now := rfl
@[simp] theorem Chip.setSafeIn_fresh (c : Chip) (i : Nat) (x y : SafeIn) : (c.setSafeIn i x y).fresh = c.fresh := rfl
@[simp] theorem Chip.setSafeIn_regs (c : Chip) (i : Nat) (x y : SafeIn) : (c.setSafeIn i x y).regs = c.regs := rfl
@[simp] theorem Chip.setSafeIn_edges (c : Chip) (i : Nat) (x y : SafeIn) : (c.setSafeIn i x y).edges = c.edges := rfl
@[simp] theorem Chip.setSafeIn_out (c : Chip) (i : Nat) (x y : SafeIn) : (c.setSafeIn i x y).out = c.out := rfl
@[simp] theorem Chip.setSafeIn_hst (c : Chip) (i : Nat) (x y : SafeIn) : (c.setSafeIn i x y).hst = c.hst := rfl
@[simp] theorem Chip.setSafeIn_boot (c : Chip) (i : Nat) (x y : SafeIn) : (c.setSafeIn i x y).boot = c.boot := rfl
@[simp] theorem Chip.setSafeIn_log (c : Chip) (i : Nat) (x y : SafeIn) : (c.setSafeIn i x y).log = c.log := rfl
@[simp] theorem Chip.setSafeIn_lkp (c : Chip) (i : Nat) (x y : SafeIn) : (c.setSafeIn i x y).lkp = c.lkp := rfl
@[simp] theorem Chip.setSafeIn_pnd (c : Chip) (i : Nat) (x y : SafeIn) : (c.setSafeIn i x y).pnd = c.pnd := rfl
@[simp] theorem Chip.setSafeIn_tim (c : Chip) (i : Nat) (x y : SafeIn) : (c.setSafeIn i x y).tim = c.tim := rfl
@[simp] theorem Chip.setSafeIn_pf (c : Chip) (i : Nat) (x y : SafeIn) : (c.setSafeIn i x y).pf = c.pf := rfl
@[simp] theorem Chip.setSafeIn_mem (c : Chip) (i : Nat) (x y : SafeIn) : (c.setSafeIn i x y).mem = c.mem := rfl
@[simp] theorem Chip.setSafeIn_lck (c : Chip) (i : Nat) (x y : SafeIn) : (c.setSafeIn i x y).lck = c.lck := rfl
@[simp] theorem Chip.setSafeIn_bsn (c : Chip) (i : Nat) (x y : SafeIn) : (c.setSafeIn i x y).bsn = c.bsn := rfl
@[simp] theorem Chip.setSafeIn_plan (c : Chip) (i : Nat) (x y : SafeIn) : (c.setSafeIn i x y).plan = c.plan := rfl
@[simp] theorem Chip.setSafeIn_man (c : Chip) (i : Nat) (x y : SafeIn) : (c.setSafeIn i x y).man = c.man := rfl
@[simp] theorem Chip.setSafeIn_slu (c : Chip) (i : Nat) (x y : SafeIn) : (c.setSafeIn i x y).slu = c.slu := rfl
@[simp] theorem Chip.setSafeIn_adc (c : Chip) (i : Nat) (x y : SafeIn) : (c.setSafeIn i x y).adc = c.adc := rfl
@[simp] theorem Chip.setSafeIn_tow (c : Chip) (i : Nat) (x y : SafeIn) : (c.setSafeIn i x y).tow = c.tow := rfl
@[simp] theorem Chip.setSafeIn_gau (c : Chip) (i : Nat) (x y : SafeIn) : (c.setSafeIn i x y).gau = c.gau := rfl
@[simp] theorem Chip.setSafeIn_aqu (c : Chip) (i : Nat) (x y : SafeIn) : (c.setSafeIn i x y).aqu = c.aqu := rfl

@[simp] theorem Chip.setConn_now (c : Chip) (k : Nat) (x : Conn) : (c.setConn k x).now = c.now := rfl
@[simp] theorem Chip.setConn_fresh (c : Chip) (k : Nat) (x : Conn) : (c.setConn k x).fresh = c.fresh := rfl
@[simp] theorem Chip.setConn_regs (c : Chip) (k : Nat) (x : Conn) : (c.setConn k x).regs = c.regs := rfl
@[simp] theorem Chip.setConn_edges (c : Chip) (k : Nat) (x : Conn) : (c.setConn k x).edges = c.edges := rfl
@[simp] theorem Chip.setConn_out (c : Chip) (k : Nat) (x : Conn) : (c.setConn k x).out = c.out := rfl
@[simp] theorem Chip.setConn_hst (c : Chip) (k : Nat) (x : Conn) : (c.setConn k x).hst = c.hst := rfl
@[simp] theorem Chip.setConn_boot (c : Chip) (k : Nat) (x : Conn) : (c.setConn k x).boot = c.boot := rfl
@[simp] theorem Chip.setConn_log (c : Chip) (k : Nat) (x : Conn) : (c.setConn k x).log = c.log := rfl
@[simp] theorem Chip.setConn_lkp (c : Chip) (k : Nat) (x : Conn) : (c.setConn k x).lkp = c.lkp := rfl
@[simp] theorem Chip.setConn_pnd (c : Chip) (k : Nat) (x : Conn) : (c.setConn k x).pnd = c.pnd := rfl
@[simp] theorem Chip.setConn_tim (c : Chip) (k : Nat) (x : Conn) : (c.setConn k x).tim = c.tim := rfl
@[simp] theorem Chip.setConn_pf (c : Chip) (k : Nat) (x : Conn) : (c.setConn k x).pf = c.pf := rfl
@[simp] theorem Chip.setConn_mem (c : Chip) (k : Nat) (x : Conn) : (c.setConn k x).mem = c.mem := rfl
@[simp] theorem Chip.setConn_lck (c : Chip) (k : Nat) (x : Conn) : (c.setConn k x).lck = c.lck := rfl
@[simp] theorem Chip.setConn_bsn (c : Chip) (k : Nat) (x : Conn) : (c.setConn k x).bsn = c.bsn := rfl
@[simp] theorem Chip.setConn_plan (c : Chip) (k : Nat) (x : Conn) : (c.setConn k x).plan = c.plan := rfl
@[simp] theorem Chip.setConn_man (c : Chip) (k : Nat) (x : Conn) : (c.setConn k x).man = c.man := rfl
@[simp] theorem Chip.setConn_slu (c : Chip) (k : Nat) (x : Conn) : (c.setConn k x).slu = c.slu := rfl
@[simp] theorem Chip.setConn_adc (c : Chip) (k : Nat) (x : Conn) : (c.setConn k x).adc = c.adc := rfl
@[simp] theorem Chip.setConn_tow (c : Chip) (k : Nat) (x : Conn) : (c.setConn k x).tow = c.tow := rfl
@[simp] theorem Chip.setConn_gau (c : Chip) (k : Nat) (x : Conn) : (c.setConn k x).gau = c.gau := rfl
@[simp] theorem Chip.setConn_aqu (c : Chip) (k : Nat) (x : Conn) : (c.setConn k x).aqu = c.aqu := rfl

@[simp] theorem Chip.setIk_now (c : Chip) (a : Nat) (x : Ik) : (c.setIk a x).now = c.now := rfl
@[simp] theorem Chip.setIk_fresh (c : Chip) (a : Nat) (x : Ik) : (c.setIk a x).fresh = c.fresh := rfl
@[simp] theorem Chip.setIk_regs (c : Chip) (a : Nat) (x : Ik) : (c.setIk a x).regs = c.regs := rfl
@[simp] theorem Chip.setIk_edges (c : Chip) (a : Nat) (x : Ik) : (c.setIk a x).edges = c.edges := rfl
@[simp] theorem Chip.setIk_out (c : Chip) (a : Nat) (x : Ik) : (c.setIk a x).out = c.out := rfl
@[simp] theorem Chip.setIk_hst (c : Chip) (a : Nat) (x : Ik) : (c.setIk a x).hst = c.hst := rfl
@[simp] theorem Chip.setIk_boot (c : Chip) (a : Nat) (x : Ik) : (c.setIk a x).boot = c.boot := rfl
@[simp] theorem Chip.setIk_log (c : Chip) (a : Nat) (x : Ik) : (c.setIk a x).log = c.log := rfl
@[simp] theorem Chip.setIk_lkp (c : Chip) (a : Nat) (x : Ik) : (c.setIk a x).lkp = c.lkp := rfl
@[simp] theorem Chip.setIk_pnd (c : Chip) (a : Nat) (x : Ik) : (c.setIk a x).pnd = c.pnd := rfl
@[simp] theorem Chip.setIk_tim (c : Chip) (a : Nat) (x : Ik) : (c.setIk a x).tim = c.tim := rfl
@[simp] theorem Chip.setIk_pf (c : Chip) (a : Nat) (x : Ik) : (c.setIk a x).pf = c.pf := rfl
@[simp] theorem Chip.setIk_mem (c : Chip) (a : Nat) (x : Ik) : (c.setIk a x).mem = c.mem := rfl
@[simp] theorem Chip.setIk_lck (c : Chip) (a : Nat) (x : Ik) : (c.setIk a x).lck = c.lck := rfl
@[simp] theorem Chip.setIk_bsn (c : Chip) (a : Nat) (x : Ik) : (c.setIk a x).bsn = c.bsn := rfl
@[simp] theorem Chip.setIk_man (c : Chip) (a : Nat) (x : Ik) : (c.setIk a x).man = c.man := rfl
@[simp] theorem Chip.setIk_slu (c : Chip) (a : Nat) (x : Ik) : (c.setIk a x).slu = c.slu := rfl
@[simp] theorem Chip.setIk_adc (c : Chip) (a : Nat) (x : Ik) : (c.setIk a x).adc = c.adc := rfl
@[simp] theorem Chip.setIk_tow (c : Chip) (a : Nat) (x : Ik) : (c.setIk a x).tow = c.tow := rfl
@[simp] theorem Chip.setIk_weir (c : Chip) (a : Nat) (x : Ik) : (c.setIk a x).weir = c.weir := rfl
@[simp] theorem Chip.setIk_gau (c : Chip) (a : Nat) (x : Ik) : (c.setIk a x).gau = c.gau := rfl
@[simp] theorem Chip.setIk_aqu (c : Chip) (a : Nat) (x : Ik) : (c.setIk a x).aqu = c.aqu := rfl

end Sys2Proof.Machine
end

