-- ==== Sys2Proof/Laws/Ops.lean ====
section
/-! SUPPORT. What the shared operations do: fields of a word, registers read after a write, the settling of interrupt
vectors, an event row in firmware, a host command whose checks pass and its reply. -/

namespace Sys2Proof.Machine

/-! ## Fields of a word -/

theorem bits_lt (w hi lo : Nat) : bits w hi lo < 2 ^ (hi + 1 - lo) := Nat.mod_lt _ (Nat.two_pow_pos _)

theorem testBit_bits (w hi lo i : Nat) : (bits w hi lo).testBit i = (decide (i < hi + 1 - lo) && w.testBit (lo + i)) := by
  unfold bits
  rw [Nat.testBit_mod_two_pow, Nat.testBit_shiftRight]

/-- A field taken out of a word: what stays of the word. -/
theorem testBit_putBits (w hi lo v i : Nat) (hl : lo ≤ hi) : (putBits w hi lo v).testBit i
    = if lo ≤ i ∧ i ≤ hi then v.testBit (i - lo) else w.testBit i := by
  have split : w = (w / 2 ^ (hi + 1) * 2 ^ (hi + 1 - lo) + bits w hi lo) * 2 ^ lo + w % 2 ^ lo := by
    unfold bits
    rw [Nat.shiftRight_eq_div_pow]
    have e : w / 2 ^ (hi + 1) = w / 2 ^ lo / 2 ^ (hi + 1 - lo) := by
      rw [Nat.div_div_eq_div_mul, ← Nat.pow_add]
      congr 2
      omega
    rw [e, Nat.div_add_mod', Nat.div_add_mod']
  have e : putBits w hi lo v
      = (w / 2 ^ (hi + 1) * 2 ^ (hi + 1 - lo) + v % 2 ^ (hi + 1 - lo)) * 2 ^ lo + w % 2 ^ lo := by
    unfold putBits
    have s := split
    generalize w / 2 ^ (hi + 1) * 2 ^ (hi + 1 - lo) = A at s ⊢
    generalize bits w hi lo = B at s ⊢
    generalize w % 2 ^ lo = C at s ⊢
    generalize v % 2 ^ (hi + 1 - lo) = D at s ⊢
    rw [Nat.add_mul] at s ⊢
    omega
  have lowlt : w % 2 ^ lo < 2 ^ lo := Nat.mod_lt _ (Nat.two_pow_pos _)
  have vlt : v % 2 ^ (hi + 1 - lo) < 2 ^ (hi + 1 - lo) := Nat.mod_lt _ (Nat.two_pow_pos _)
  rw [e]
  rw [Nat.mul_comm _ (2 ^ lo), Nat.testBit_two_pow_mul_add _ lowlt, Nat.mul_comm _ (2 ^ (hi + 1 - lo)),
    Nat.testBit_two_pow_mul_add _ vlt]
  by_cases h1 : i < lo
  · have : ¬ (lo ≤ i ∧ i ≤ hi) := by omega
    rw [if_pos h1, if_neg this, Nat.testBit_mod_two_pow]
    simp [h1]
  · rw [if_neg h1]
    by_cases h2 : i ≤ hi
    · have : lo ≤ i ∧ i ≤ hi := ⟨by omega, h2⟩
      have h3 : i - lo < hi + 1 - lo := by omega
      rw [if_pos this, if_pos h3, Nat.testBit_mod_two_pow]
      simp [h3]
    · have : ¬ (lo ≤ i ∧ i ≤ hi) := by omega
      have h3 : ¬ (i - lo < hi + 1 - lo) := by omega
      rw [if_neg this, if_neg h3, Nat.testBit_div_two_pow]
      congr 1
      omega

theorem putBits_lt (w hi lo v n : Nat) (hl : lo ≤ hi) (hn : hi < n) (hw : w < 2 ^ n) : putBits w hi lo v < 2 ^ n := by
  refine Nat.lt_pow_two_of_testBit _ (fun i hi' => ?_)
  rw [testBit_putBits _ _ _ _ _ hl, if_neg (by omega)]
  exact Nat.testBit_lt_two_pow (Nat.lt_of_lt_of_le hw (Nat.pow_le_pow_right (by decide) hi'))

theorem bits_putBits (w hi lo v : Nat) (hl : lo ≤ hi) : bits (putBits w hi lo v) hi lo = v % 2 ^ (hi + 1 - lo) := by
  refine Nat.eq_of_testBit_eq (fun i => ?_)
  rw [testBit_bits, testBit_putBits _ _ _ _ _ hl, Nat.testBit_mod_two_pow]
  by_cases h : i < hi + 1 - lo
  · rw [if_pos (by omega)]
    simp [h]
  · simp [h]

theorem bits_putBits_apart (w hi lo v hi' lo' : Nat) (hl : lo ≤ hi) (h : hi' < lo ∨ hi < lo') :
    bits (putBits w hi lo v) hi' lo' = bits w hi' lo' := by
  refine Nat.eq_of_testBit_eq (fun i => ?_)
  rw [testBit_bits, testBit_bits, testBit_putBits _ _ _ _ _ hl]
  by_cases k : i < hi' + 1 - lo'
  · rw [if_neg (by omega)]
  · simp [k]

/-! ## Registers -/

theorem Chip.reg_lt (c : Chip) (off : Nat) : c.reg off < 2 ^ 32 := (tabGet regReset c.regs off).isLt

theorem Chip.reg_congr {a b : Chip} (h : b.regs = a.regs) (off : Nat) : b.reg off = a.reg off := by
  unfold Chip.reg; rw [h]

theorem Chip.fld_congr {a b : Chip} (h : b.regs = a.regs) (x : Fld) : b.fld x = a.fld x := by
  unfold Chip.fld; rw [Chip.reg_congr h]

theorem Chip.flag_congr {a b : Chip} (h : b.regs = a.regs) (x : Fld) : b.flag x = a.flag x := by
  unfold Chip.flag; rw [Chip.fld_congr h]

theorem Chip.reg_setReg (c : Chip) (off v o : Nat) :
    (c.setReg off v).reg o = if off = o then v % 2 ^ 32 else c.reg o := by
  unfold Chip.reg Chip.setReg
  rw [tabGet_put]
  split
  · simp [w32]
  · rfl

theorem Chip.reg_setReg_same (c : Chip) (off v : Nat) : (c.setReg off v).reg off = v % 2 ^ 32 := by
  rw [Chip.reg_setReg _ _ _ _, if_pos rfl]

theorem Chip.reg_setReg_ne (c : Chip) (off v o : Nat) (h : off ≠ o) : (c.setReg off v).reg o = c.reg o := by
  rw [Chip.reg_setReg _ _ _ _, if_neg h]

/-- The record of the tick's events is no register. -/
@[simp] theorem Chip.reg_noteEdge (c : Chip) (x : Fld) (f : Nat → Nat) (o : Nat) : (c.noteEdge x f).reg o = c.reg o := rfl
@[simp] theorem Chip.reg_setEdge (c : Chip) (off : Nat) (e : Word × Word) (o : Nat) : (c.setEdge off e).reg o = c.reg o := rfl

/-- A field that fits a register word. -/
def Fld.ok (x : Fld) : Prop := x.lo ≤ x.hi ∧ x.hi < 32

theorem Chip.reg_setFld (c : Chip) (x : Fld) (v o : Nat) (hx : x.ok) :
    (c.setFld x v).reg o = if x.off = o then putBits (c.reg x.off) x.hi x.lo v else c.reg o := by
  unfold Chip.setFld
  rw [Chip.reg_setReg _ _ _ _, Chip.reg_noteEdge, Nat.mod_eq_of_lt (putBits_lt _ _ _ _ _ hx.1 hx.2 (c.reg_lt _))]

theorem Chip.reg_setFld_ne (c : Chip) (x : Fld) (v o : Nat) (h : x.off ≠ o) :
    (c.setFld x v).reg o = c.reg o := Chip.reg_setReg_ne _ _ _ _ h

theorem Chip.fld_setFld (c : Chip) (x : Fld) (v : Nat) (hx : x.ok) :
    (c.setFld x v).fld x = v % 2 ^ x.width := by
  unfold Chip.fld
  rw [Chip.reg_setFld _ _ _ _ hx, if_pos rfl, bits_putBits _ _ _ _ hx.1]
  rfl

theorem Chip.fld_setFld_apart (c : Chip) (x y : Fld) (v : Nat) (hx : x.ok)
    (h : x.off ≠ y.off ∨ y.hi < x.lo ∨ x.hi < y.lo) : (c.setFld x v).fld y = c.fld y := by
  unfold Chip.fld
  rw [Chip.reg_setFld _ _ _ _ hx]
  split
  · next e =>
    rw [e]
    exact bits_putBits_apart _ _ _ _ _ _ hx.1 (h.resolve_left (fun k => k e))
  · rfl

theorem Chip.fld_setReg_ne (c : Chip) (off v : Nat) (y : Fld) (h : off ≠ y.off) :
    (c.setReg off v).fld y = c.fld y := by
  unfold Chip.fld
  rw [Chip.reg_setReg_ne _ _ _ _ h]

/-! ## Whole parts kept -/

theorem Pnd.eq_of (a b : Pnd) (h : b.main = a.main) (k : b.clock = a.clock) : b = a := by
  cases a; cases b
  simp only [Pnd.main, Pnd.clock, Prod.mk.injEq] at h k
  simp only [h, k]

theorem Boot.eq_of (a b : Boot) (h : b.main = a.main) (k : b.phase = a.phase) : b = a := by
  cases a; cases b
  simp only [Boot.main, Prod.mk.injEq] at h
  simp only at k
  simp only [h, k]

theorem Keeps.pndAll {m : Nat} {a b : Chip} (h : Keeps m a b) (h1 : m.testBit 8 = false) (h2 : m.testBit 22 = false) :
    b.pnd = a.pnd := Pnd.eq_of _ _ (h.pnd h1) (h.pndClock h2)

theorem Keeps.bootAll {m : Nat} {a b : Chip} (h : Keeps m a b) (h1 : m.testBit 5 = false) (h2 : m.testBit 23 = false) :
    b.boot = a.boot := Boot.eq_of _ _ (h.boot h1) (h.bootPhase h2)

/-! ## The settling of the interrupt vectors -/

/-- The Hst part of a settled device. -/
theorem Chip.settle_hst_main (c : Chip) : c.settle.hst.main = c.hst.main := (Chip.settle_keeps c).hst rfl
theorem Chip.settle_out (c : Chip) : c.out <+: c.settle.out := (Chip.settle_keeps c).out
@[simp] theorem Chip.settle_now (c : Chip) : c.settle.now = c.now := (Chip.settle_keeps c).now rfl
@[simp] theorem Chip.settle_fresh (c : Chip) : c.settle.fresh = c.fresh := (Chip.settle_keeps c).freshEq rfl
@[simp] theorem Chip.settle_regs (c : Chip) : c.settle.regs = c.regs := (Chip.settle_keeps c).regs rfl
@[simp] theorem Chip.settle_log (c : Chip) : c.settle.log = c.log := (Chip.settle_keeps c).log rfl
@[simp] theorem Chip.settle_lkp (c : Chip) : c.settle.lkp = c.lkp := (Chip.settle_keeps c).lkp rfl
@[simp] theorem Chip.settle_tim (c : Chip) : c.settle.tim = c.tim := (Chip.settle_keeps c).tim rfl
@[simp] theorem Chip.settle_pf (c : Chip) : c.settle.pf = c.pf := (Chip.settle_keeps c).pf rfl
@[simp] theorem Chip.settle_mem (c : Chip) : c.settle.mem = c.mem := (Chip.settle_keeps c).mem rfl
@[simp] theorem Chip.settle_lck (c : Chip) : c.settle.lck = c.lck := (Chip.settle_keeps c).lck rfl
@[simp] theorem Chip.settle_bsn (c : Chip) : c.settle.bsn = c.bsn := (Chip.settle_keeps c).bsn rfl
@[simp] theorem Chip.settle_plan (c : Chip) : c.settle.plan = c.plan := (Chip.settle_keeps c).plan rfl
@[simp] theorem Chip.settle_man (c : Chip) : c.settle.man = c.man := (Chip.settle_keeps c).man rfl
@[simp] theorem Chip.settle_slu (c : Chip) : c.settle.slu = c.slu := (Chip.settle_keeps c).slu rfl
@[simp] theorem Chip.settle_adc (c : Chip) : c.settle.adc = c.adc := (Chip.settle_keeps c).adc rfl
@[simp] theorem Chip.settle_tow (c : Chip) : c.settle.tow = c.tow := (Chip.settle_keeps c).tow rfl
@[simp] theorem Chip.settle_weir (c : Chip) : c.settle.weir = c.weir := (Chip.settle_keeps c).weir rfl
@[simp] theorem Chip.settle_gau (c : Chip) : c.settle.gau = c.gau := (Chip.settle_keeps c).gau rfl
@[simp] theorem Chip.settle_aqu (c : Chip) : c.settle.aqu = c.aqu := (Chip.settle_keeps c).aqu rfl
@[simp] theorem Chip.settle_pnd (c : Chip) : c.settle.pnd = c.pnd := Keeps.pndAll (Chip.settle_keeps c) rfl rfl
@[simp] theorem Chip.settle_boot (c : Chip) : c.settle.boot = c.boot := Keeps.bootAll (Chip.settle_keeps c) rfl rfl
@[simp] theorem Chip.settle_lad (c : Chip) : c.settle.hst.lad = c.hst.lad := ((Chip.settle_keeps c).hstLad rfl).1
@[simp] theorem Chip.settle_eseq (c : Chip) : c.settle.hst.eseq = c.hst.eseq := ((Chip.settle_keeps c).hstLad rfl).2
@[simp] theorem Chip.settle_reg (c : Chip) (off : Nat) : c.settle.reg off = c.reg off := Chip.reg_congr (Chip.settle_regs c) off
@[simp] theorem Chip.settle_fld (c : Chip) (x : Fld) : c.settle.fld x = c.fld x := Chip.fld_congr (Chip.settle_regs c) x
@[simp] theorem Chip.settle_flag (c : Chip) (x : Fld) : c.settle.flag x = c.flag x := Chip.flag_congr (Chip.settle_regs c) x

/-! ## An event row in firmware -/

theorem Chip.at_eq (c : Chip) (t : Nat) (h : c.now ≤ t) : c.at t = { c with now := t } := by
  unfold Chip.at; rw [Nat.max_eq_right h]

theorem State.event_run (s : State) (t : Nat) (f : Chip → Chip) (h : s.chip.boot.phase = .run) :
    s.event t f = .next { s with chip := (f (s.chip.at t)).settle } := by
  unfold State.event State.act
  simp only [Chip.at_boot, h, if_true]

/-- An event row in firmware whose operation makes `P` true. -/
theorem State.event_next (s : State) (t : Nat) (f : Chip → Chip) (P : Chip → Prop) (h : s.chip.boot.phase = .run)
    (hp : P (f (s.chip.at t)).settle) : ∃ s', s.event t f = .next s' ∧ s'.pending = s.pending ∧ P s'.chip :=
  ⟨_, State.event_run s t f h, rfl, hp⟩

/-- An event row while no firmware runs. -/
theorem State.event_idle (s : State) (t : Nat) (f : Chip → Chip) (h : s.chip.boot.phase ≠ .run) :
    s.event t f = .next { s with chip := (s.chip.at t).settle } := by
  unfold State.event State.act
  simp only [Chip.at_boot, h, if_false]

/-- An event row in a device that is ready at its tick: the operation runs at that tick. -/
theorem State.event_ready {s : State} {t : Nat} {f : Chip → Chip} {P : State → Prop} (h : s.chip.ready t)
    (hp : ∀ s', s'.chip = (f { s.chip with now := t }).settle → P s') : ∃ s', s.event t f = .next s' ∧ P s' := by
  rw [State.event_run s t f h.1, Chip.at_eq _ _ h.2]
  exact ⟨_, rfl, hp _ rfl⟩

theorem Chip.at_ready {c : Chip} {t : Nat} (h : c.ready t) : c.at t = { c with now := t } := Chip.at_eq _ _ h.2

theorem Chip.sent_settle {a c : Chip} {l : List Output} (h : a.out ++ l <+: c.out) : a.sent c.settle l :=
  List.IsPrefix.trans h (Chip.settle_out c)

@[simp] theorem Chip.settle_snap (c : Chip) (i : Iface) : c.settle.snap i = c.snap i := by
  have hm := Chip.settle_hst_main c
  simp only [Hst.main, Prod.mk.injEq] at hm
  unfold Chip.snap; rw [hm.2.2.2.2.1]

/-! ## Tables of records read after a write -/

@[simp] theorem Chip.setSnap_snap (c : Chip) (i : Iface) (x : Snap) : (c.setSnap i x).snap i = x := by
  unfold Chip.snap Chip.setSnap
  simp only [tabGet_put, if_true]

theorem Chip.dom_setDom (c : Chip) (d e : Nat) (x : Domain) : (c.setDom d x).dom e = if d = e then x else c.dom e := by
  unfold Chip.dom Chip.setDom
  simp only [tabGet_put]

theorem Chip.user_setUser (c : Chip) (u e : Nat) (x : UserBase) : (c.setUser u x).user e = if u = e then x else c.user e := by
  unfold Chip.user Chip.setUser
  simp only [tabGet_put]

theorem Chip.lad_setLad (c : Chip) (l m : LadId) (x : Lading) : (c.setLad l x).lad m = if l.key = m.key then x else c.lad m := by
  unfold Chip.lad Chip.setLad
  simp only [tabGet_put]

end Sys2Proof.Machine
end

