-- ==== Sys2Proof/Laws/Cmd.lean ====
section
/-! SUPPORT. Host commands: the entry of the command queue a row takes, its reply, and a command whose checks pass. -/

namespace Sys2Proof.Machine

/-- The entry a command's row takes is the command itself. -/
theorem Chip.takeIntake_spec (c : Chip) (op : Nat) (ifc : Iface) (tag target : Word) (pl : List Word) :
    (c.takeIntake op ifc tag target pl).2.op = op ∧ (c.takeIntake op ifc tag target pl).2.org.ifc = ifc
      ∧ (c.takeIntake op ifc tag target pl).2.tag = tag ∧ (c.takeIntake op ifc tag target pl).2.target = target
      ∧ (c.takeIntake op ifc tag target pl).2.payload = pl := by
  unfold Chip.takeIntake
  split
  · next k h =>
    have := List.find?_some h
    simp only [Intake.is, decide_eq_true_eq] at this
    exact ⟨this.1, this.2.1, this.2.2.1, this.2.2.2.1, this.2.2.2.2.1⟩
  · exact ⟨rfl, rfl, rfl, rfl, rfl⟩

theorem Chip.takeIntake_at (c : Chip) (t op : Nat) (ifc : Iface) (tag target : Word) (pl : List Word) :
    ((c.at t).takeIntake op ifc tag target pl).2 = (c.takeIntake op ifc tag target pl).2 := by
  unfold Chip.takeIntake
  simp only [Chip.at_hst]
  cases h : (c.hst.intake.find? (fun k => k.is op ifc tag target pl)) <;> rfl

theorem Chip.intakeTurn_at (c : Chip) (t op : Nat) (ifc : Iface) (tag target : Word) (pl : List Word) :
    (c.at t).intakeTurn op ifc tag target pl = c.intakeTurn op ifc tag target pl := rfl

theorem Chip.taken_keeps (c : Chip) (t op : Nat) (ifc : Iface) (tag target : Word) (pl : List Word) :
    Keeps 17 c (c.taken t op ifc tag target pl) :=
  Keeps.trans (Keeps.weaken (Chip.at_keeps c t) rfl) (Chip.takeIntake_keeps ..) rfl

theorem Chip.taken_regs (c : Chip) (t op : Nat) (ifc : Iface) (tag target : Word) (pl : List Word) :
    (c.taken t op ifc tag target pl).regs = c.regs := (Chip.taken_keeps ..).regs rfl

theorem Chip.taken_now (c : Chip) (t op : Nat) (ifc : Iface) (tag target : Word) (pl : List Word) :
    (c.taken t op ifc tag target pl).now = max c.now t :=
  ((Chip.takeIntake_keeps (c.at t) ..).now rfl)

theorem Chip.reply_gone (c : Chip) (k : Intake) (st d : Nat) (pl : List Word) :
    (c.reply k st d pl).replyGone k.org (replyWords k.op k.tag st d pl) := by
  unfold Chip.reply Chip.deliver Chip.replyGone
  generalize replyWords k.op k.tag st d pl = ws
  cases hi : k.org.ifc
  · simp only
    split
    · trivial
    · split
      · simp [Chip.emit]
      · simp
  · dsimp only
    split <;> simp [Chip.emit, Chip.cacheReply, Chip.stat, Chip.fld, Chip.reg]
  · dsimp only
    split <;> simp [Chip.emit, Chip.cacheReply, Chip.stat, Chip.fld, Chip.reg]
  · simp

theorem Chip.settle_gone (c : Chip) (org : Origin) (ws : List Word) (h : c.replyGone org ws) : c.settle.replyGone org ws := by
  have hm := Chip.settle_hst_main c
  have ho := Chip.settle_out c
  have hf : c.settle.fld (HST_ETH_CFG__CMD_PORT org.ifc.mac) = c.fld (HST_ETH_CFG__CMD_PORT org.ifc.mac) :=
    Chip.fld_congr ((Chip.settle_keeps c).regs rfl) _
  simp only [Hst.main, Prod.mk.injEq] at hm
  unfold Chip.replyGone at h ⊢
  cases hi : org.ifc <;> simp only [hi] at h hf ⊢
  · split at h
    · rename_i hd; simp only [hd, if_true]
    · rename_i hd
      simp only [hd]
      split at h
      · rename_i hx; rw [if_pos hx]; exact ho.subset h
      · rename_i hx; rw [if_neg hx, hm.2.2.2.2.2.2.2.1]; exact h
  · rw [hf]; exact ho.subset h
  · rw [hf]; exact ho.subset h
  · rw [hm.2.2.2.2.2.2.2.2.2.1]; exact h

/-- A reply adds to the replies that wait. -/
theorem Chip.deliver_waits (c : Chip) (org : Origin) (ws : List Word) (final : Bool) :
    c.hst.pendCpl <+: (c.deliver org ws final).hst.pendCpl ∧ c.hst.spiReplies <+: (c.deliver org ws final).hst.spiReplies := by
  unfold Chip.deliver
  cases hi : org.ifc
  · dsimp only
    split
    · exact ⟨List.prefix_refl _, List.prefix_refl _⟩
    · split
      · exact ⟨List.prefix_refl _, List.prefix_refl _⟩
      · exact ⟨List.prefix_append _ _, List.prefix_refl _⟩
  · dsimp only
    split <;> exact ⟨List.prefix_refl _, List.prefix_refl _⟩
  · dsimp only
    split <;> exact ⟨List.prefix_refl _, List.prefix_refl _⟩
  · have e : (c.onlyIf c.hst.spiReplies.isEmpty (fun c => c.emit (.pin pinSPIRDY 0 true))).hst = c.hst := by
      unfold Chip.onlyIf
      split <;> rfl
    dsimp only
    split
    · simp only [e]
      exact ⟨List.prefix_refl _, List.prefix_append _ _⟩
    · simp only [e]
      exact ⟨List.prefix_refl _, List.prefix_append _ _⟩

/-- The answers to the packets that wait add to the replies that wait. -/
theorem Chip.intakeFlush_waits (c : Chip) (i : Iface) (n : Nat) :
    c.hst.pendCpl <+: (c.intakeFlush i n).hst.pendCpl ∧ c.hst.spiReplies <+: (c.intakeFlush i n).hst.spiReplies := by
  induction n generalizing c with
  | zero => exact ⟨List.prefix_refl _, List.prefix_refl _⟩
  | succ n ih =>
    unfold Chip.intakeFlush
    split
    · exact ⟨List.prefix_refl _, List.prefix_refl _⟩
    · rename_i k hk
      split
      · exact ⟨List.prefix_refl _, List.prefix_refl _⟩
      · have step : ∀ d : Chip, d.hst.pendCpl <+: (d.answerWaiting k).hst.pendCpl
            ∧ d.hst.spiReplies <+: (d.answerWaiting k).hst.spiReplies := by
          intro d
          unfold Chip.answerWaiting
          split
          · exact ⟨List.prefix_refl _, List.prefix_refl _⟩
          · exact Chip.deliver_waits (d.stat _) _ _ _
          · unfold Chip.failedFetch
            split
            · exact ⟨List.prefix_refl _, List.prefix_refl _⟩
            · exact ⟨List.prefix_append _ _, List.prefix_refl _⟩
        have a := step { c with hst := { c.hst with intake := c.hst.intake.erase k } }
        have b := ih (Chip.answerWaiting { c with hst := { c.hst with intake := c.hst.intake.erase k } } k)
        exact ⟨a.1.trans b.1, a.2.trans b.2⟩

theorem Chip.intakeFlush_gone (c : Chip) (i : Iface) (n : Nat) (org : Origin) (ws : List Word) (h : c.replyGone org ws) :
    (c.intakeFlush i n).replyGone org ws := by
  have hk := Chip.intakeFlush_keeps c i n
  have hw := Chip.intakeFlush_waits c i n
  have hf : (c.intakeFlush i n).fld (HST_ETH_CFG__CMD_PORT org.ifc.mac) = c.fld (HST_ETH_CFG__CMD_PORT org.ifc.mac) :=
    Chip.fld_congr (hk.regs rfl) _
  unfold Chip.replyGone at h ⊢
  cases hi : org.ifc <;> simp only [hi] at h hf ⊢
  · split at h
    · rename_i hd; simp only [hd, if_true]
    · rename_i hd
      simp only [hd]
      split at h
      · rename_i hx; rw [if_pos hx]; exact hk.out.subset h
      · rename_i hx
        rw [if_neg hx]
        obtain ⟨cp, hm, r⟩ := h
        exact ⟨cp, hw.1.subset hm, r⟩
  · rw [hf]; exact hk.out.subset h
  · rw [hf]; exact hk.out.subset h
  · exact hw.2.subset h

/-- A host command whose checks pass and whose own rules answer at once: its effect and its reply. -/
theorem State.command_now (s : State) (t op : Nat) (ifc : Iface) (tag target : Word) (pl : List Word)
    (rom : Option (Chip → Intake → Chip × Answer)) (body : Chip → Intake → Chip × Answer) (o : OpInfo) (d : Chip) (st dt : Nat) (rpl : List Word)
    (ho : opInfo op = some o) (ha : s.chip.accepts op target pl) (hi : s.chip.intakeTurn op ifc tag target pl = true)
    (hb : body (s.chip.taken t op ifc tag target pl) (s.chip.takeIntake op ifc tag target pl).2 = (d, .now st dt rpl))
    (hl : replyTooLong ifc rpl.length = false)
    (hw : ¬ (s.chip.role = 1 ∧ o.long = false ∧ o.twin = true ∧ (s.chip.takeIntake op ifc tag target pl).2.twinWide o = true)) :
    ∃ s', s.act (fun c => c.command t op ifc tag target pl rom body) = .next s' ∧ s'.pending = s.pending
      ∧ s'.chip = ((d.reply (s.chip.takeIntake op ifc tag target pl).2 st dt rpl).intakeFlush ifc s.chip.hst.intake.length).settle
      ∧ Replied s.chip op ifc tag target pl st dt rpl s'.chip := by
  have hk := Chip.takeIntake_spec s.chip op ifc tag target pl
  have ht := Chip.takeIntake_at s.chip t op ifc tag target pl
  have hr : (s.chip.taken t op ifc tag target pl).role = s.chip.role := by
    unfold Chip.role; exact Chip.fld_congr (Chip.taken_regs ..) _
  have e : s.chip.command t op ifc tag target pl rom body
      = (d.reply (s.chip.takeIntake op ifc tag target pl).2 st dt rpl).intakeFlush ifc s.chip.hst.intake.length := by
    obtain ⟨hp, hlen, hacc⟩ := ha
    rw [ho] at hacc
    unfold Chip.command
    simp only [Chip.at_boot, hp, ho, Chip.intakeTurn_at, hi, if_true, Chip.at_hst]
    rw [ht]
    congr 1
    change (s.chip.taken t op ifc tag target pl).runCommand _ _ _ = _
    unfold Chip.runCommand
    rw [hk.1, hk.2.2.2.1, hk.2.2.2.2, hlen, if_neg (by decide)]
    rw [hr]
    have h1 : ¬ ((s.chip.role = 2 ∨ s.chip.role = 3) ∧ o.standby = false) := by
      rintro ⟨a, b⟩
      rcases hacc.1 with h | h
      · omega
      · rw [h] at b; cases b
    have h2 : ¬ ((o.targets = 0 ∧ target.toNat ≠ 0) ∨ (0 < o.targets ∧ o.targets ≤ target.toNat)) := by
      have h := hacc.2
      intro k
      by_cases z : o.targets = 0
      · rw [if_pos z] at h
        omega
      · rw [if_neg z] at h
        omega
    rw [if_neg h1, if_neg h2, hb]
    simp only [hk.2.1, hl]
    rw [if_neg (by decide), if_neg]
    rintro ⟨a, b, c, _⟩
    refine hw ⟨a, b, ?_, c⟩
    unfold Intake.twinWide at c
    rw [Bool.and_eq_true] at c
    exact c.1
  refine ⟨{ s with chip := ((d.reply (s.chip.takeIntake op ifc tag target pl).2 st dt rpl).intakeFlush ifc s.chip.hst.intake.length).settle }, ?_, rfl, rfl, ?_⟩
  · unfold State.act
    dsimp only
    rw [e]
  · have := Chip.settle_gone _ _ _ (Chip.intakeFlush_gone _ ifc s.chip.hst.intake.length _ _ (Chip.reply_gone d (s.chip.takeIntake op ifc tag target pl).2 st dt rpl))
    rw [hk.1, hk.2.2.1] at this
    exact this

end Sys2Proof.Machine
end

