-- ==== Sys2Proof/Laws/Frame.lean ====
section
/-! SUPPORT. From masks to parts: a clear bit of the mask of a command's lemma says that a part is unchanged. -/

namespace Sys2Proof.Machine

/-- The mask bit of a part. -/
def Part.bit : Part → Nat
  | .time => 0
  | .free => 1
  | .regs => 2
  | .sent => 3
  | .host => 4
  | .boot => 5
  | .logbook => 6
  | .lockkeeper => 7
  | .pound => 8
  | .timeBases => 9
  | .position => 10
  | .memories => 11
  | .lock => 12
  | .basin => 13
  | .planner => 14
  | .manifest => 15
  | .sluice => 16
  | .converters => 17
  | .towpath => 18
  | .weir => 19
  | .gauge => 20
  | .aqueduct => 21
  | .poundClock => 22
  | .phase => 23
  | .fifos => 25
  | .vectors => 26

theorem Hst.but_eq (x y : Hst) (h : y.main = x.main) : y.but = x.but := by
  cases x; cases y
  simp only [Hst.main, Prod.mk.injEq] at h
  simp only [Hst.but, h]

theorem Keeps.same {m : Nat} {a b : Chip} (h : Keeps m a b) (p : Part) (hb : m.testBit p.bit = false) : p.same a b := by
  cases p
  case time => exact h.now hb
  case free => exact h.freshEq hb
  case regs => exact ⟨h.regs hb, h.edges hb⟩
  case sent => exact h.outEq hb
  case host => exact Hst.but_eq _ _ (h.hst hb)
  case boot =>
    have k := h.boot hb
    show { b.boot with phase := a.boot.phase } = a.boot
    generalize a.boot = x at k ⊢
    generalize b.boot = y at k ⊢
    cases x; cases y
    simp only [Boot.main, Prod.mk.injEq] at k
    simp only [k]
  case logbook => exact h.log hb
  case lockkeeper => exact h.lkp hb
  case pound =>
    have k := h.pnd hb
    simp only [Part.same]
    generalize a.pnd = x at k ⊢
    generalize b.pnd = y at k ⊢
    cases x; cases y
    simp only [Pnd.main, Prod.mk.injEq] at k
    simp only [k]
  case timeBases => exact h.tim hb
  case position => exact h.pf hb
  case memories => exact h.mem hb
  case lock => exact h.lck hb
  case basin => exact h.bsn hb
  case planner => exact h.plan hb
  case manifest => exact h.man hb
  case sluice => exact h.slu hb
  case converters => exact h.adc hb
  case towpath => exact h.tow hb
  case weir => exact h.weir hb
  case gauge => exact h.gau hb
  case aqueduct => exact h.aqu hb
  case poundClock =>
    have k := h.pndClock hb
    simp only [Pnd.clock, Prod.mk.injEq] at k
    exact k
  case phase => exact h.bootPhase hb
  case fifos => exact h.hstLad hb
  case vectors => exact h.hstVec hb

end Sys2Proof.Machine
end

