-- ==== Sys2Proof/Tests/Slice0.lean ====
section
/-! SUPPORT. The package's own tests: refusals of ill-formed terms, single steps, known answers from outside the model,
and for every statement with hypotheses a theorem that shows, clause by clause, a state and operands that meet them
together. -/

namespace Sys2Proof.Tests
open Sys2Proof Machine
set_option Elab.async false

/-- A device whose firmware runs, right after its cold reset. -/
def w0 : Chip := { Chip.initial Otp.init [] with boot := { Boot.init Otp.init [] with phase := .run } }
/-- The state of a device with no command waiting. -/
def st (c : Chip) : State := ⟨c, []⟩
/-- Register fields set. -/
def fs (l : List (Fld × Nat)) (c : Chip) : Chip := l.foldl (fun c x => c.setFld x.1 x.2) c
/-- The running device with these register fields set. -/
def sf (l : List (Fld × Nat)) : State := st (fs l w0)
/-- Bytes written as words at offsets. -/
def mw (l : List (Nat × Word)) (m : List (Nat × Byte)) : List (Nat × Byte) := l.foldl (fun m x => memWriteWords 0 x.1 [x.2] m) m
/-- Words of the Lock window. -/
def lk (l : List (Nat × Word)) (c : Chip) : Chip := { c with mem := { c.mem with lck := mw l c.mem.lck } }
/-- Words of the Towpath window. -/
def tw (l : List (Nat × Word)) (c : Chip) : Chip := { c with mem := { c.mem with tow := mw l c.mem.tow } }
/-- Words of the Sluice window. -/
def sl (l : List (Nat × Word)) (c : Chip) : Chip := { c with mem := { c.mem with slu := mw l c.mem.slu } }
/-- Words of the planner window. -/
def pn (l : List (Nat × Word)) (c : Chip) : Chip := { c with mem := { c.mem with plan := mw l c.mem.plan } }
/-- Words of an active parameter set. -/
def wa (l : List (Nat × Word)) (c : Chip) : Chip := { c with weir := { c.weir with act := mw l c.weir.act, actV := true } }
/-- A device with one flight in the state `x`. -/
def fl (x : Flight) (c : Chip) : Chip := { c with lck := { c.lck with flights := [(0, x)] } }
/-- A device with one Basin job, on result slot `n`. -/
def bj (n : Nat) (j : Job) (c : Chip) : Chip := { c with bsn := { c.bsn with jobs := [(n, j)] } }
/-- A device with one chain run. -/
def cr (n : Nat) (x : ChainRun) (c : Chip) : Chip := { c with slu := { c.slu with runs := [(n, x)] } }
/-- A device with a ready list. -/
def rl (n : Nat) (l : List Entry) (c : Chip) : Chip := { c with lkp := { c.lkp with lists := [(n, l)] } }
/-- A device with port 0 in the state `x`. -/
def po (x : Port) (c : Chip) : Chip := { c with tow := { c.tow with ports := [(0, x)] } }
/-- A device with one poll. -/
def pl1 (x : Poll) (c : Chip) : Chip := { c with tow := { c.tow with polls := [(0, x)] } }
/-- A device with these long commands. -/
def lg (l : List LongCmd) (c : Chip) : Chip := { c with hst := { c.hst with longs := l } }
/-- A device with this staging. -/
def sg (g : Staging) (c : Chip) : Chip := { c with hst := { c.hst with stage := g } }
/-- A device with converter 0 in the state `x`. -/
def ad (x : AdcConv) (c : Chip) : Chip := { c with adc := { c.adc with conv := [(0, x)] } }
/-- The origin of a command on SPI. -/
def og : Origin := ⟨.spi, 0, 0, 0, 0, false, false, true, ⟨0, 0, 0⟩, 0⟩
/-- A long command. -/
def lc (op : Nat) : LongCmd := ⟨op, 0, 0, 0, og⟩
/-- A Basin job. -/
def jb (d : List Word) (run fac : Bool) (x z y : List Word) (own dl : Nat) : Job :=
  { d := d, owner := own, submitted := 0, deadline := dl, running := run, lane := 0, startT := 0, iter := 0, iterT := 0, facDone := fac,
    newFac := false, nreg := 0, firstReg := none, cold := false, coldStart := false, warm := false, x := x, z := z, y := y, resP := 0, resD := 0, xh := [],
    r := [], slotA := 0, slotB := 0, fail := none }
/-- A chain run of core 0. -/
def rn (latched running : Bool) (dl : Option Nat) : ChainRun := ⟨0, 0, dl, none, 0, latched, running, 0, 0⟩
/-- A management exchange. -/
def ex (bcast addressing : Bool) (why : MgmtWhy) (sends : Nat) : Exchange := ⟨false, bcast, if addressing then 7 else 0, addressing, 0, 1, [], why, sends⟩
/-- A sequence run of a converter. -/
def ar (begun : Bool) : AdcRun := ⟨0, begun, 0, 0, 1, 0, 0, false, none, false⟩

/-! ## Known answers from outside the model -/

/-- CRC-32 of IEEE 802.3: the check value of the string "123456789". -/
theorem test_crc32_check_value : crc32 [0x31, 0x32, 0x33, 0x34, 0x35, 0x36, 0x37, 0x38, 0x39] = 0xCBF43926 := by
  decide +kernel

/-- SHA-256 of "abc" (FIPS 180). -/
theorem test_sha256_abc :
    sha256 [0x61, 0x62, 0x63] = 0xBA7816BF8F01CFEA414140DE5DAE2223B00361A396177A9CB410FF61F20015AD := by
  decide +kernel

/-- binary32: 1 + 2 is 3, 1 / 3 rounds to 0x3EAAAAAB, √2 to 0x3FB504F3, and a tie goes to even. -/
theorem test_binary32 :
    fAdd 0x3F800000 0x40000000 = 0x40400000 ∧ fDiv 0x3F800000 0x40400000 = 0x3EAAAAAB ∧ fSqrt 0x40000000 = 0x3FB504F3 ∧
      fAdd 0x4B800000 0x3F800000 = 0x4B800000 := by
  decide +kernel

/-- The table of R13. -/
theorem test_pound_lengths : [0, 1, 2, 3, 4].map poundTicks = [12500, 25000, 50000, 100000, 200000] := by decide

/-- The worked example after R144: a regularised pivot, solved. -/
theorem test_regularised_pivot :
    let a : List (List Nat) := [[0x40800000, 0x40000000, 0x40000000], [0x40000000, 0x3F800000, 0x3F800000],
      [0x40000000, 0x3F800000, 0x40400000]]
    let x := cholF 3 (fun i j => (a.getD i []).getD j 0) 0x35800000 0x3A800000
    x.nreg = 1 ∧ x.solve 3 [0x41000000, 0x40800000, 0x40C00000] = [0x3FC00000, 0, 0x3F800000] := by
  decide +kernel

/-- The worked example of the Lock engine: the conversion's tie, steps S.4, S.8, C.5, and the clamped command. -/
theorem test_lock_rows :
    rnd 528 5 = 16 ∧ scl 970194 (-2) = (242548, false) ∧ stQ 2066068 = (63, false) ∧ stQ 125845504 = (3840, false) ∧
      stQ 1190805504 = (32767, true) := by
  decide +kernel

/-- Entries of the table of R295, whose peak alone is clamped. -/
theorem test_twiddles :
    [0, 1024, 2048, 3072].map (fun m => ((Machine.tw m).re, (Machine.tw m).im)) = [(32767, 0), (0, 32767), (-32768, 0), (0, -32768)] ∧
      [3066, 3068, 3076, 3078].map (fun m => ((Machine.tw m).re, (Machine.tw m).im)) = [(-302, -32767), (-201, -32767), (201, -32767), (302, -32767)] ∧
      Machine.tw 512 = ⟨23170, 23170⟩ := by
  decide +kernel

/-- Codes by the formulas of R318: 1.25 V and 2.5 V on AIN0 against ground, the pair AIN2/AIN3 0.1 V apart at
gain 4, and the pair AIN0/AIN1 0.5 V apart at gain 1. -/
theorem test_adc_codes :
    adcCode 0 [1250000000] = 0 ∧ clampCode (adcCode 0 [2500000000]) = (32767, true) ∧
      adcCode 0x282 [0, 0, 200000000, 100000000] = 5243 ∧ adcCode 0x80 [500000000, 0] = 6554 := by
  decide +kernel

/-! ## Single steps -/

/-- An idle step changes nothing. -/
theorem test_idle : step State.reset = .next State.reset := rfl

/-- A command's outcome reduced to a test of the next state. -/
def nextIs (o : Host.Outcome State Fault Refusal) (p : State → Bool) : Bool :=
  match o with
  | .next s => p s
  | .fault _ => false
  | .refused _ => false

/-- A step takes the command at the front and leaves the rest waiting. -/
theorem test_front_first :
    nextIs (step ⟨w0, [.vecRearm 5 .pcie 0, .cancelTick 9]⟩) (fun s => decide (s.pending = [.cancelTick 9]) && s.chip.now == 5) = true := by
  decide +kernel

/-- ECHO on SPI answers at once with its tag and its payload (R496). -/
theorem test_echo :
    nextIs (exec (.echo 7 .spi 0x1234 0 [5, 6]) (st w0)) (fun s => s.chip.hst.spiReplies.any (fun r => r.contains 0x1234 && r.contains 5 && r.contains 6)) = true := by
  decide +kernel

/-- A write of SYS_CMARK_m stores its word. -/
theorem test_mark_write :
    nextIs (exec (.sysCmarkWrite 1 .pcie 3 0x80000010) (st w0)) (fun s => s.chip.reg (SYS_CMARK 3) == 0x80000010) = true := by
  decide +kernel

/-! ## Ill-formed terms are refused -/

theorem test_wf_pins :
    (Instr.poundBoundary ⟨false, 2 ^ 24, 0, [], [], 0, []⟩).wf = false ∧ (Instr.poundBoundary ⟨false, 0, 2 ^ 24, [], [], 0, []⟩).wf = false ∧
      (Instr.poundBoundary ⟨false, 0, 0, [256], [], 0, []⟩).wf = false ∧ (Instr.poundBoundary ⟨false, 0, 0, [], [256], 0, []⟩).wf = false ∧
      (Instr.poundBoundary ⟨false, 0, 0, [], [], 0, [256]⟩).wf = false ∧ (Instr.poundBoundary ⟨false, 2 ^ 24 - 1, 0, [255], [], 0, []⟩).wf = true ∧
      (Instr.safeInputSample 0 ⟨2 ^ 24, 0⟩ ⟨0, 0⟩).wf = false ∧ (Instr.safeInputSample 0 ⟨0, 0⟩ ⟨0, 2 ^ 24⟩).wf = false ∧
      (Instr.testPulseEnd 0 0 ⟨0, 2 ^ 24⟩ ⟨0, 0⟩ false).wf = false ∧ (Instr.testPulseEnd 0 0 ⟨0, 0⟩ ⟨2 ^ 24, 0⟩ false).wf = false := by
  decide +kernel

theorem test_wf_release : (Instr.commandRelease ⟨[256]⟩).wf = false ∧ (Instr.commandRelease ⟨[255]⟩).wf = true := by decide +kernel

theorem test_wf_readings :
    (Instr.serialReadingCheck 0 0 ⟨2 ^ 40, 0, 0, false, false, false, false⟩).wf = false ∧
      (Instr.serialReadingCheck 0 0 ⟨0, 2 ^ 40, 0, false, false, false, false⟩).wf = false ∧
      (Instr.serialReadingCheck 0 0 ⟨0, 0, 2 ^ 16, false, false, false, false⟩).wf = false ∧
      (Instr.adcConversionEnd 0 0 []).wf = false ∧ (Instr.adcConversionEnd 0 0 (List.replicate 24 0)).wf = true ∧
      (Instr.headComputation 0 ⟨0, 0, 0, 0, []⟩).wf = false := by
  decide +kernel

theorem test_wf_offsets :
    (Instr.posChCfgWrite 0 .spi 2 0).wf = false ∧ (Instr.wideValueLoRead 0 .spi ⟨0x10000, 1⟩).wf = false ∧
      (Instr.rcFieldRead 0 .spi ⟨1, 1⟩).wf = false ∧ (Instr.rcFieldRead 0 .spi ⟨0, 0⟩).wf = false ∧
      (Instr.wideValueLoRead 0 .spi ⟨0, 1025⟩).wf = false ∧ (Instr.sluCapCfgWrite 0 .spi 3 0).wf = false ∧
      (Instr.bar0Write 0 0 []).wf = false ∧ (Instr.bar0Write 0 0xFFFC [0, 0]).wf = false ∧
      (Instr.bar2Access 0 0x2000000 false 1 []).wf = false ∧ (Instr.sramScrub 0 0 false (2 ^ 32)).wf = false := by
  decide +kernel

/-- A Towpath frame has at most 255 payload words. -/
theorem test_wf_towpath :
    (Instr.replyReceived 0 0 ⟨0, 0, List.replicate 256 0, true, 0⟩).wf = false ∧
      (Instr.referenceReceived 0 0 ⟨0, 0, List.replicate 256 0, true, 0⟩).wf = false ∧
      (Instr.mgmtRspReceived 0 0 ⟨0, 0, List.replicate 256 0, true, 0⟩).wf = false := by
  decide +kernel

theorem test_wf_ptp :
    let h : PtpHead := ⟨0, 0, 0, false, 0⟩
    (Instr.ptpSyncReceived 0 0 ⟨h, 0, 0, 0, 128, 0⟩).wf = false ∧ (Instr.ptpSyncReceived 0 0 ⟨h, 0, 0, 0, -129, 0⟩).wf = false ∧
      (Instr.ptpSyncReceived 0 0 ⟨h, 0, 0, 0, 0, 65536⟩).wf = false ∧ (Instr.delayRespReceived 0 0 ⟨h, 0, some 128⟩).wf = false := by
  decide +kernel

/-- A UDP payload is at most 1,472 bytes. -/
theorem test_wf_datagrams :
    (Instr.safetyDatagramReceived 0 0 (List.replicate 1473 0)).wf = false ∧
      (Instr.udpCommandReceived 0 0 ⟨0, 0, 0⟩ (List.replicate 1473 0)).wf = false := by
  decide +kernel

/-- Fields of Aqueduct frames within their widths. -/
theorem test_wf_aqueduct :
    (Instr.helloReceived 0 ⟨⟨true, 2 ^ 16, 0⟩, 0, 0, 0, 0⟩).wf = false ∧ (Instr.helloReceived 0 ⟨⟨true, 0, 0⟩, 8, 0, 0, 0⟩).wf = false ∧
      (Instr.helloReceived 0 ⟨⟨true, 0, 0⟩, 0, 8, 0, 0⟩).wf = false ∧ (Instr.helloReceived 0 ⟨⟨true, 0, 0⟩, 0, 0, 16, 0⟩).wf = false ∧
      (Instr.ledgerFrameReceived 0 ⟨⟨true, 0, 0⟩, 0, 256, false, 0, []⟩).wf = false ∧
      (Instr.ledgerFrameReceived 0 ⟨⟨true, 0, 0⟩, 0, 0, false, 1025, []⟩).wf = false ∧
      (Instr.ackReceived 0 ⟨true, 2 ^ 16, 0⟩ 0).wf = false ∧ (Instr.nakReceived 0 ⟨true, 2 ^ 16, 0⟩ 0).wf = false ∧
      (Instr.failReceived 0 ⟨true, 0, 0⟩ 256).wf = false ∧ (Instr.healthReceived 0 ⟨true, 0, 0⟩ [0]).wf = false ∧
      (Instr.syncReceived 0 ⟨⟨true, 2 ^ 16, 0⟩, 0, 0⟩).wf = false ∧
      (Instr.heartbeatReceived 0 ⟨⟨true, 2 ^ 16, 0⟩, 0, 0, 0, 0, 0⟩).wf = false ∧
      (Instr.bulkReceived 0 ⟨⟨true, 2 ^ 16, 0⟩, true, .memory 0 0 []⟩).wf = false ∧
      (Instr.bulkReceived 0 ⟨⟨true, 0, 0⟩, true, .memory 4 0 []⟩).wf = false ∧
      (Instr.bulkReceived 0 ⟨⟨true, 0, 0⟩, true, .memory 0 2 []⟩).wf = false ∧
      (Instr.bulkReceived 0 ⟨⟨true, 0, 0⟩, true, .memory 0 0 (List.replicate 255 0)⟩).wf = false ∧
      (Instr.bulkReceived 0 ⟨⟨true, 0, 0⟩, true, .register 2 0⟩).wf = false := by
  decide +kernel

/-- A command packet: TARGET below 2^16, at most 4,095 payload words. -/
theorem test_wf_commands :
    (Instr.echo 0 .spi 0 0x10000 []).wf = false ∧ (Instr.echo 0 .spi 0 0 (List.replicate 4096 0)).wf = false ∧
      (Instr.echo 0 .spi 0 0xFFFF []).wf = true := by
  decide +kernel

/-! ## Every hypothesis is met -/

/-- The conditions of `takes`, as a test. -/
def tkB (c : Chip) (t op : Nat) (ifc : Iface) (tag target : Word) (pl : List Word) (n : Nat) : Bool :=
  decide (c.boot.phase = .run) && lenOk op pl && (match opInfo op with
    | none => false
    | some o => (decide (c.role ≤ 1) || o.standby) && (if o.targets = 0 then decide (target.toNat = 0) else decide (target.toNat < o.targets)))
    && decide (c.now ≤ t) && !replyTooLong ifc n && c.intakeTurn op ifc tag target pl

theorem takes_of {c : Chip} {t op : Nat} {ifc : Iface} {tag target : Word} {pl : List Word} {n : Nat}
    (h : tkB c t op ifc tag target pl n = true) : c.takes t op ifc tag target pl n := by
  simp only [tkB, Bool.and_eq_true, decide_eq_true_eq, Bool.not_eq_true'] at h
  obtain ⟨⟨⟨⟨⟨h1, h2⟩, h3⟩, h4⟩, h5⟩, h6⟩ := h
  refine ⟨⟨h1, h2, ?_⟩, h4, h5, h6⟩
  cases ho : opInfo op with
  | none => simp [ho] at h3
  | some o =>
    simp only [ho, Bool.and_eq_true, Bool.or_eq_true, decide_eq_true_eq] at h3
    refine ⟨h3.1, ?_⟩
    have h7 := h3.2
    by_cases hz : o.targets = 0
    · rw [if_pos hz] at h7 ⊢; simpa using h7
    · rw [if_neg hz] at h7 ⊢; simpa using h7

/-- A parameter set whose one safe input is the reset input. -/
def okSet : List (Nat × Byte) :=
  mw [(0x0, 0x1003A40), (0x10, 0x5011809F), (0x40, 0x64000A), (0x80, 0xC4000000), (0x1A0, 0x3852BB27), (0x3A18, 0x3F800000)] []

theorem get_gap {lo hi i : Nat} (m : List (Nat × Byte)) (h : m.all (fun e => decide (e.1 < lo ∨ hi ≤ e.1)) = true) (h1 : lo ≤ i)
    (h2 : i < hi) : tabGet (fun _ => (0 : Byte)) m i = 0 := by
  induction m with
  | nil => rfl
  | cons e t ih =>
    simp only [List.all_cons, Bool.and_eq_true, decide_eq_true_eq] at h
    rw [tabGet, if_neg (by omega)]
    exact ih h.2

/-- Zero bytes leave a remainder of 0. -/
theorem fold_zeros (n : Nat) : (List.replicate n (0 : Byte)).foldl (crcMsbByte 0xF4ACFB13) 0 = 0 := by
  induction n with
  | zero => rfl
  | succ n ih => rw [List.replicate_succ, List.foldl_cons, show crcMsbByte 0xF4ACFB13 0 0 = 0 by decide, ih]

/-- A fold over bytes that computes its number at every byte. -/
def foldS (f : Nat → Byte → Nat) : List Byte → Nat → Nat
  | [], a => a
  | b :: t, 0 => foldS f t (f 0 b)
  | b :: t, n + 1 => foldS f t (f (n + 1) b)

theorem foldS_eq (f : Nat → Byte → Nat) : ∀ (l : List Byte) (a : Nat), foldS f l a = l.foldl f a
  | [], _ => rfl
  | b :: t, 0 => foldS_eq f t (f 0 b)
  | b :: t, n + 1 => foldS_eq f t (f (n + 1) b)

/-- A range of bytes as a head, zeros and a tail. -/
theorem map_gap (g : Nat → Byte) (a b c : Nat) (h : ∀ i, a ≤ i → i < a + b → g i = 0) :
    (List.range (a + (b + c))).map g =
      (List.range a).map g ++ (List.replicate b 0 ++ (List.range c).map (fun i => g (a + (b + i)))) := by
  rw [List.range_add, List.map_append, List.map_map, List.range_add, List.map_append]
  congr 1
  congr 1
  · rw [List.eq_replicate_iff]
    refine ⟨by simp, fun x hb => ?_⟩
    obtain ⟨i, hi, rfl⟩ := List.mem_map.1 hb
    rw [List.mem_range] at hi
    exact h _ (Nat.le_add_right a i) (Nat.add_lt_add_left hi a)
  · rw [List.map_map]
    rfl

theorem okSet_crc : (setCrc okSet).toNat = 0x5011809F := by
  have hn : min (setLen okSet) 65536 = 0x1A4 + (0x3874 + 0x28) := by decide +kernel
  unfold setCrc crcMsb
  rw [hn]
  dsimp only
  rw [map_gap _ _ _ _ (fun i h1 h2 => by
      rw [if_neg (by omega)]
      exact get_gap (lo := 0x1A4) (hi := 0x1A4 + 0x3874) okSet (by decide +kernel) h1 h2),
    List.foldl_append, List.foldl_append, ← foldS_eq _ ((List.range 0x1A4).map _),
    show foldS (crcMsbByte 0xF4ACFB13) ((List.range 0x1A4).map _) 0xFFFFFFFF = 0 by decide +kernel, fold_zeros]
  decide +kernel

/-- A word below the exponent of all ones, without a sign, is a finite number not below 0. -/
theorem small_finite {w : Nat} (h : w < 0x7F800000) : fFinite w = true := by
  have : w >>> 23 < 255 := by rw [Nat.shiftRight_eq_div_pow]; omega
  simp only [fFinite, fExp, bits, bne_iff_ne]
  omega

theorem small_nonneg {w : Nat} (h : w < 0x7F800000) : fNonNeg w = true := by
  have hm : 0 ≤ fMant w := by
    have hs : fSign w = false := Nat.testBit_lt_two_pow (by omega)
    unfold fMant
    rw [hs]
    split
    · exact Int.le_refl 0
    · exact Int.natCast_nonneg _
  have hr : 0 ≤ fRat w := by
    unfold fRat
    dsimp only
    split
    · exact Rat.mul_nonneg (by exact_mod_cast hm) (by exact_mod_cast Nat.zero_le _)
    · rw [Rat.div_def]
      exact Rat.mul_nonneg (by exact_mod_cast hm) (Rat.le_of_lt (Rat.inv_pos.2 (by exact_mod_cast Nat.two_pow_pos _)))
  rw [fNonNeg, small_finite h, Bool.true_and]
  exact decide_eq_true hr

/-- The global words of the set are in order whatever Z_R is. -/
theorem okSet_globals : setSsmOk (setBody okSet) = true := by
  have hz : ssmGlobal (setBody okSet) 4 < 0x7F800000 := Nat.mod_lt _ (by decide)
  have hf : ∀ i ∈ [0, 1, 2, 3, 5, 6, 7], fFinite (ssmGlobal (setBody okSet) i) = true := by decide +kernel
  have hn : ∀ i ∈ [0, 1, 2, 3], fNonNeg (ssmGlobal (setBody okSet) i) = true := by decide +kernel
  have h8 : ∀ i ∈ List.range 8, i = 4 ∨ i ∈ [0, 1, 2, 3, 5, 6, 7] := by decide
  have h5 : ∀ i ∈ List.range 5, i = 4 ∨ i ∈ [0, 1, 2, 3] := by decide
  have h1 : (List.range 8).all (fun i => fFinite (ssmGlobal (setBody okSet) i)) = true :=
    List.all_eq_true.2 (fun i hi => (h8 i hi).elim (fun e => e ▸ small_finite hz) (hf i))
  have h2 : (List.range 5).all (fun i => fNonNeg (ssmGlobal (setBody okSet) i)) = true :=
    List.all_eq_true.2 (fun i hi => (h5 i hi).elim (fun e => e ▸ small_nonneg hz) (hn i))
  unfold setSsmOk
  dsimp only
  rw [h1, h2]
  decide +kernel

theorem okSet_passes : setFailure ⟨1, 0, false, 0, 0, 0, 0⟩ okSet (0 == (0 : Word)) = none := by
  have h : setCheck1 okSet = true := by
    unfold setCheck1
    rw [okSet_crc]
    decide +kernel
  unfold setFailure
  rw [h]
  dsimp only
  rw [okSet_globals]
  decide +kernel

/-- The header of a firmware image of one payload byte 0x2A: mark, format 1 with SVN 0, version, size, SHA-256 of the payload. -/
def fwHdr : List Byte :=
  [87, 70, 77, 81, 0, 0, 0, 1, 1, 0, 0, 0, 1, 0, 0, 0, 104, 72, 136, 192, 235, 177, 127, 55, 66, 152, 182, 94, 226, 128, 117, 38,
   192, 102, 9, 76, 112, 27, 204, 126, 187, 225, 193, 9, 95, 73, 79, 193]

/-- Its public key, X and Y of a P-256 point. -/
def fwPub : List Byte :=
  [150, 146, 157, 2, 85, 181, 252, 207, 146, 245, 228, 58, 1, 185, 177, 63, 231, 191, 190, 72, 73, 253, 146, 226, 48, 31, 104, 199, 58, 83, 241, 15,
   230, 215, 12, 212, 234, 61, 11, 47, 233, 59, 9, 149, 158, 53, 173, 7, 189, 196, 37, 31, 57, 154, 252, 62, 142, 49, 248, 68, 59, 167, 116, 221]

/-- Its signature, r and s (computed outside Lean; the key is the one for which the two scalars of the check are 2 and 3). -/
def fwSig : List Byte :=
  [63, 149, 225, 132, 221, 13, 183, 64, 255, 8, 239, 38, 126, 254, 177, 17, 48, 109, 215, 45, 8, 243, 48, 222, 245, 19, 237, 219, 194, 203, 94, 1,
   21, 49, 245, 214, 244, 89, 231, 192, 85, 2, 250, 98, 42, 84, 229, 176, 101, 121, 242, 100, 88, 81, 16, 74, 81, 177, 79, 73, 64, 238, 116, 171]

/-- The image as flash bytes from `a` on. -/
def fwAt (a : Nat) : List (Nat × Byte) :=
  ((fwHdr ++ fwPub ++ fwSig).zipIdx.filterMap (fun e => if e.1 = 0xFF then none else some (a + e.2, e.1))) ++ [(a + 0x100, 0x2A)]

/-- Known answers: SHA-256 of the key, the header and the payload as another implementation gives them. -/
theorem test_sha256_key : sha256 fwPub = 0xE2379A474296567415477C629DFA0CB2B480BCFB05D00682F2C9D245085E3913 := by
  decide +kernel

theorem test_sha256_header : sha256 fwHdr = 0x2A63EBADE8B3CF80AA05F4C454A9CB60CAF3E4C8B0A22094A3629E9281DCE956 := by
  decide +kernel

theorem test_sha256_payload : sha256 [0x2A] = 0x684888C0EBB17F374298B65EE2807526C066094C701BCC7EBBE1C1095F494FC1 := by
  decide +kernel

/-- The signature verifies. -/
theorem test_ecdsa_verifies :
    ecdsaVerify (beNat (fwPub.take 32)) (beNat (fwPub.drop 32)) 0x2A63EBADE8B3CF80AA05F4C454A9CB60CAF3E4C8B0A22094A3629E9281DCE956
      (beNat (fwSig.take 32)) (beNat (fwSig.drop 32)) = true := by
  decide +kernel

/-- What the boot ROM checks of a firmware image of the test key, its values worked out once: the header and the key, the numbers
of the signature, the one code byte with its length and hash, the mark and the SVN (R505, R506). -/
abbrev FwImage.genuine (x : FwImage) (o : Otp) : Prop :=
  o.fwKeyHash.toNat = 0xE2379A474296567415477C629DFA0CB2B480BCFB05D00682F2C9D245085E3913
  ∧ memBytes x.d x.m x.base 0x30 = fwHdr ∧ memBytes x.d x.m (x.base + 0x30) 64 = fwPub
  ∧ (x.num 0x30 32, x.num 0x50 32, x.num 0x70 32, x.num 0x90 32)
    = (beNat (fwPub.take 32), beNat (fwPub.drop 32), beNat (fwSig.take 32), beNat (fwSig.drop 32))
  ∧ memBytes x.d x.m (x.base + 0x100) 1 = [0x2A] ∧ x.w 0x0C = 1
  ∧ x.num 0x10 32 = 0x684888C0EBB17F374298B65EE2807526C066094C701BCC7EBBE1C1095F494FC1
  ∧ x.marked = true ∧ o.minSvnNum ≤ x.svn

/-- An image that is so starts. -/
theorem fw_starts (x : FwImage) (o : Otp) (g : FwImage.genuine x o) : x.fail o = 0 := by
  obtain ⟨h, h0, h1, h2, h3, h4, h5, h6, h7⟩ := g
  simp only [Prod.mk.injEq] at h2
  have hk : o.fwKeyHash ≠ 0 := fun e => by rw [e] at h; exact absurd h (by decide)
  have hs : x.signed o = true := by
    simp only [FwImage.signed, h0, h1, h2, h, test_sha256_key, test_sha256_header, test_ecdsa_verifies, decide_true, Bool.and_self]
  have hw : x.whole = true := by
    simp only [FwImage.whole, h3, h4, h5, test_sha256_payload]
    decide
  simp only [FwImage.fail, h6, hs, hw, hk, Nat.not_lt.2 h7, if_false, Bool.true_eq_false]

/-- A boot ROM that meets a flash. -/
def rom (m : List (Nat × Byte)) : State :=
  st { w0 with boot := { w0.boot with phase := .rom, otp := ⟨0xE2379A474296567415477C629DFA0CB2B480BCFB05D00682F2C9D245085E3913, 0, false, 0, 0, 0, 0⟩, flash := m } }

/-- States and operands that meet the hypotheses of `Obligations.StepKeepsCanonicalForm`. -/
theorem test_met_StepKeepsCanonicalForm :
    (∃ s : State, s.chip.canon = true) :=
  ⟨(st w0), by decide +kernel⟩

/-- States and operands that meet the hypotheses of `Obligations.PacketsReadBackWhole`. -/
theorem test_met_PacketsReadBackWhole :
    (∃ op : Nat, ∃ target : Word, ∃ pl : List Word, opInfo op ≠ none ∧ lenOk op pl = true ∧ target.toNat < 2 ^ 16 ∧ pl.length ≤ 4095) :=
  ⟨0x0F01, 0, [], by decide +kernel⟩

/-- States and operands that meet the hypotheses of `Obligations.TimeBasesAreReadAndSnappedWhole`. -/
theorem test_met_TimeBasesAreReadAndSnappedWhole :
    (∃ s : State, ∃ t : Nat, ∃ ifc : Iface, s.chip.ready t ∧ s.chip.serves ifc = true) ∧
    (∃ s : State, ∃ t : Nat, ∃ m : Fin 2, ∃ q : StampReq, s.chip.ready t ∧ s.chip.tim.stamps.find? (fun q => q.mac == m.val) = some q ∧ s.chip.tim.tally.length < 32) ∧
    (∃ s : State, ∃ t : Nat, ∃ ifc : Iface, ∃ tag : Word, ∃ target : Word, ∃ pl : List Word, s.chip.ready t ∧ s.chip.takes t 0x0703 ifc tag target pl 0 ∧ bits (wordAt pl 0) 5 4 = 3) ∧
    (∃ s : State, ∃ t : Nat, ∃ ifc : Iface, ∃ tag : Word, ∃ target : Word, ∃ pl : List Word, s.chip.ready t ∧ s.chip.takes t 0x0703 ifc tag target pl 0 ∧ bits (wordAt pl 0) 5 4 ≠ 3 ∧ (bits (wordAt pl 1) 10 0 < 14 ∨ 1518 < bits (wordAt pl 1) 10 0)) ∧
    (∃ s : State, ∃ t : Nat, ∃ ifc : Iface, ∃ tag : Word, ∃ target : Word, ∃ pl : List Word, s.chip.ready t ∧ s.chip.takes t 0x0703 ifc tag target pl 0 ∧ bits (wordAt pl 0) 5 4 ≠ 3 ∧ 14 ≤ bits (wordAt pl 1) 10 0 ∧ bits (wordAt pl 1) 10 0 ≤ 1518 ∧ 10000 ≤ ((tabGet (fun _ => ([] : List Nat)) s.chip.hst.sendTicks (bits (wordAt pl 0) 0 0)).filter (fun x => decide (t < x + 800000000))).length) ∧
    (∃ s : State, ∃ t : Nat, ∃ ifc : Iface, ∃ tag : Word, ∃ target : Word, ∃ pl : List Word, s.chip.ready t ∧ s.chip.takes t 0x0703 ifc tag target pl 0 ∧ bits (wordAt pl 0) 5 4 ≠ 3 ∧ 14 ≤ bits (wordAt pl 1) 10 0 ∧ bits (wordAt pl 1) 10 0 ≤ 1518 ∧ ((tabGet (fun _ => ([] : List Nat)) s.chip.hst.sendTicks (bits (wordAt pl 0) 0 0)).filter (fun x => decide (t < x + 800000000))).length < 10000) :=
  ⟨⟨(st w0), 0, Iface.spi, ⟨rfl, by decide +kernel⟩, by decide +kernel⟩,
   ⟨st ((fun c => { c with tim := { c.tim with stamps := [⟨0, 0, 0⟩] } }) w0), 0, 0, ⟨0, 0, 0⟩, ⟨rfl, by decide +kernel⟩, by decide +kernel⟩,
   ⟨(st w0), 0, Iface.spi, 0, 0, [48, 14, 0, 0, 0, 0], ⟨rfl, by decide +kernel⟩, takes_of (by decide +kernel), by decide +kernel⟩,
   ⟨(st w0), 0, Iface.spi, 0, 0, [0, 13, 0, 0, 0, 0], ⟨rfl, by decide +kernel⟩, takes_of (by decide +kernel), by decide +kernel⟩,
   ⟨st ((fun c => { c with hst := { c.hst with sendTicks := [(0, List.replicate 10000 1)] } }) w0), 0, Iface.spi, 0, 0, [0, 14, 0, 0, 0, 0], ⟨rfl, by decide +kernel⟩, takes_of (by decide +kernel), by decide +kernel⟩,
   ⟨(st w0), 0, Iface.spi, 0, 0, [0, 14, 0, 0, 0, 0], ⟨rfl, by decide +kernel⟩, takes_of (by decide +kernel), by decide +kernel⟩⟩

/-- States and operands that meet the hypotheses of `Obligations.PtpServoFollowsTheMaster`, part 1 of 2. -/
theorem test_met_PtpServoFollowsTheMaster_1 :
    (∃ s : State, ∃ t : Nat, ∃ d : Fin 2, ∃ y : PtpSync, s.chip.ready t ∧ s.chip.ptpHeard d.val y.head = true ∧ (s.chip.at t).syncAllowed d.val = true) ∧
    (∃ s : State, ∃ t : Nat, ∃ d : Fin 2, ∃ y : PtpSync, s.chip.ready t ∧ s.chip.ptpHeard d.val y.head = false) ∧
    (∃ s : State, ∃ t : Nat, ∃ d : Fin 2, ∃ y : PtpSync, s.chip.ready t ∧ s.chip.ptpHeard d.val y.head = true ∧ (s.chip.at t).syncAllowed d.val = false) ∧
    (∃ s : State, ∃ t : Nat, ∃ d : Fin 2, ∃ y : PtpDelay, s.chip.ready t ∧ s.chip.ptpHeard d.val y.head = true) ∧
    (∃ s : State, ∃ t : Nat, ∃ d : Fin 2, ∃ y : PtpDelay, s.chip.ready t ∧ s.chip.ptpHeard d.val y.head = false) ∧
    (∃ s : State, ∃ t : Nat, ∃ h : PtpHead, s.chip.ready t ∧ s.chip.macPeer h = true) ∧
    (∃ s : State, ∃ t : Nat, ∃ h : PtpHead, s.chip.ready t ∧ s.chip.macPeer h = false) ∧
    (∃ s : State, ∃ t : Nat, ∃ d : Fin 2, s.chip.ready t ∧ s.chip.flag (TIM_DOM_CFG__EN d.val) = true ∧ (∀ t0 : Nat, (s.chip.dom d.val).reqT = some t0 → t0 + s.chip.reqTicks d.val ≤ t)) :=
  ⟨⟨sf [(TIM_DOM_CFG__EN 0, 1)], 0, 0, ⟨⟨0, 0, 0, false, 0⟩, 0, 0, 0, 0, 0⟩, ⟨rfl, by decide +kernel⟩, by decide +kernel⟩,
   ⟨(st w0), 0, 0, ⟨⟨0, 0, 0, false, 0⟩, 0, 0, 0, 0, 0⟩, ⟨rfl, by decide +kernel⟩, by decide +kernel⟩,
   ⟨st (fs [(TIM_DOM_CFG__EN 0, 1)] ((fun c => { c with tim := { c.tim with dom := [(0, { Domain.init with secCnt := 128 })] } }) w0)), 0, 0, ⟨⟨0, 0, 0, false, 0⟩, 0, 0, 0, 0, 0⟩, ⟨rfl, by decide +kernel⟩, by decide +kernel⟩,
   ⟨sf [(TIM_DOM_CFG__EN 0, 1)], 0, 0, ⟨⟨0, 0, 0, false, 0⟩, 0, none⟩, ⟨rfl, by decide +kernel⟩, by decide +kernel⟩,
   ⟨(st w0), 0, 0, ⟨⟨0, 0, 0, false, 0⟩, 0, none⟩, ⟨rfl, by decide +kernel⟩, by decide +kernel⟩,
   ⟨st (fs [(TIM_DOM_CFG__EN 0, 1), (TIM_DOM_CFG__PROFILE 0, 1)] w0), 0, ⟨0, 0, 0, false, 0⟩, ⟨rfl, by decide +kernel⟩, by decide +kernel⟩,
   ⟨(st w0), 0, ⟨0, 0, 0, false, 0⟩, ⟨rfl, by decide +kernel⟩, by decide +kernel⟩,
   ⟨sf [(TIM_DOM_CFG__EN 0, 1)], 0, 0, ⟨rfl, by decide +kernel⟩, by decide +kernel⟩⟩

/-- States and operands that meet the hypotheses of `Obligations.PtpServoFollowsTheMaster`, part 2 of 2. -/
theorem test_met_PtpServoFollowsTheMaster_2 :
    (∃ s : State, ∃ t : Nat, ∃ d : Fin 2, s.chip.ready t ∧ (s.chip.flag (TIM_DOM_CFG__EN d.val) = false ∨ ∃ t0, (s.chip.dom d.val).reqT = some t0 ∧ t < t0 + s.chip.reqTicks d.val)) :=
  ⟨(st w0), 0, 0, ⟨rfl, by decide +kernel⟩, by decide +kernel⟩

/-- States and operands that meet the hypotheses of `Obligations.TimeDomainsFallBackAndTb3Slews`. -/
theorem test_met_TimeDomainsFallBackAndTb3Slews :
    (∃ s : State, ∃ t : Nat, ∃ d : Fin 2, s.chip.ready t ∧ (s.chip.domState d.val = 2 ∨ s.chip.domState d.val = 3) ∧ (s.chip.dom d.val).lastSync + s.chip.syncTmo d.val ≤ t) ∧
    (∃ s : State, ∃ t : Nat, ∃ d : Fin 2, s.chip.ready t ∧ s.chip.domState d.val = 4 ∧ (s.chip.dom d.val).holdStart + s.chip.fld (TIM_DOM_CFG2__HOLD_LIM d.val) * 800000000 ≤ t) ∧
    (∃ s : State, ∃ t : Nat, s.chip.ready t) :=
  ⟨⟨sf [(TIM_DOM_STAT__STATE 0, 2)], 10^12, 0, ⟨rfl, by decide +kernel⟩, by decide +kernel⟩,
   ⟨sf [(TIM_DOM_STAT__STATE 0, 4)], 10^16, 0, ⟨rfl, by decide +kernel⟩, by decide +kernel⟩,
   ⟨(st w0), 0, ⟨rfl, by decide +kernel⟩⟩⟩

/-- States and operands that meet the hypotheses of `Obligations.UserBasesTakeModeAndOffset`. -/
theorem test_met_UserBasesTakeModeAndOffset :
    (∃ s : State, ∃ t : Nat, ∃ ifc : Iface, ∃ u : Fin 2, ∃ v : Word, s.chip.ready t ∧ s.chip.serves ifc = true ∧ s.chip.userLoop u.val v.toNat = true) ∧
    (∃ s : State, ∃ t : Nat, ∃ ifc : Iface, ∃ u : Fin 2, ∃ v : Word, s.chip.ready t ∧ s.chip.serves ifc = true ∧ s.chip.userLoop u.val v.toNat = false) ∧
    (∃ s : State, ∃ t : Nat, ∃ ifc : Iface, s.chip.ready t ∧ s.chip.serves ifc = true) :=
  ⟨⟨(st w0), 0, Iface.spi, 0, 0x86000000, ⟨rfl, by decide +kernel⟩, by decide +kernel⟩,
   ⟨(st w0), 0, Iface.spi, 0, 0, ⟨rfl, by decide +kernel⟩, by decide +kernel⟩,
   ⟨(st w0), 0, Iface.spi, ⟨rfl, by decide +kernel⟩, by decide +kernel⟩⟩

/-- States and operands that meet the hypotheses of `Obligations.ReadsTakeSnapshotsAndClear`, part 1 of 2. -/
theorem test_met_ReadsTakeSnapshotsAndClear_1 :
    (∃ s : State, ∃ t : Nat, ∃ ifc : Iface, ∃ off : Nat, s.chip.ready t ∧ s.chip.serves ifc = true ∧ isWideLo off = true) ∧
    (∃ s : State, ∃ t : Nat, ∃ ifc : Iface, ∃ off : Nat, s.chip.ready t ∧ s.chip.serves ifc = true ∧ isWideLo off = true ∧ off % 8 = 0) ∧
    (∃ s : State, ∃ t : Nat, ∃ ifc : Iface, ∃ r : RegRead, s.chip.ready t ∧ s.chip.serves ifc = true ∧ r.ndw ≠ 1 ∧ (r.ndw ≠ 2 ∨ r.off % 8 ≠ 0) ∧ s.chip.serves .pcie = true) ∧
    (∃ s : State, ∃ t : Nat, ∃ ifc : Iface, ∃ off : Nat, ∃ k : Fin 8, s.chip.ready t ∧ s.chip.serves ifc = true ∧ baseLo off = some k.val) ∧
    (∃ s : State, ∃ t : Nat, ∃ ifc : Iface, s.chip.ready t ∧ s.chip.serves ifc = true) ∧
    (∃ s : State, ∃ t : Nat, ∃ ifc : Iface, ∃ off : Nat, s.chip.ready t ∧ s.chip.serves ifc = true ∧ rcMask off ≠ 0 ∧ (∀ (w : Fin 3) (p : Fin 8), off ≠ LKP_DEPTH w.val p.val) ∧ (s.chip.at t).edge off = none) ∧
    (∃ s : State, ∃ t : Nat, ∃ ifc : Iface, ∃ off : Nat, ∃ e : Word × Word, s.chip.ready t ∧ s.chip.serves ifc = true ∧ rcMask off ≠ 0 ∧ (∀ (w : Fin 3) (p : Fin 8), off ≠ LKP_DEPTH w.val p.val) ∧ (s.chip.at t).edge off = some e) ∧
    (∃ s : State, ∃ t : Nat, ∃ ifc : Iface, ∃ l : LadId, ∃ w : LadWord, ∃ rest : List LadWord, s.chip.ready t ∧ s.chip.serves ifc = true ∧ (s.chip.lad l).flushAt = none ∧ (s.chip.lad l).words = w :: rest) :=
  ⟨⟨(st w0), 0, Iface.spi, TIM_USER_OFS_LO 0, ⟨rfl, by decide +kernel⟩, by decide +kernel⟩,
   ⟨(st w0), 0, Iface.spi, POS_CH_POS_LO 0, ⟨rfl, by decide +kernel⟩, by decide +kernel⟩,
   ⟨(st w0), 0, Iface.spi, ⟨8, 3⟩, ⟨rfl, by decide +kernel⟩, by decide +kernel⟩,
   ⟨(st w0), 0, Iface.spi, TIM_TB0_LO, 0, ⟨rfl, by decide +kernel⟩, by decide +kernel⟩,
   ⟨(st w0), 0, Iface.spi, ⟨rfl, by decide +kernel⟩, by decide +kernel⟩,
   ⟨(st w0), 0, Iface.spi, LCK_ECC_CNT, ⟨rfl, by decide +kernel⟩, by decide +kernel⟩,
   ⟨st ((fun c => { c with edges := ⟨0, [(LCK_ECC_CNT, some (0, 0))]⟩ }) w0), 0, Iface.spi, LCK_ECC_CNT, (0, 0), ⟨rfl, by decide +kernel⟩, by decide +kernel⟩,
   ⟨st ((fun c => { c with hst := { c.hst with lad := [(22, ⟨[⟨0, false, false, 8⟩], [], false, none, false⟩)] } }) w0), 0, Iface.spi, LadId.gau, ⟨0, false, false, 8⟩, [], ⟨rfl, by decide +kernel⟩, by decide +kernel⟩⟩

/-- States and operands that meet the hypotheses of `Obligations.ReadsTakeSnapshotsAndClear`, part 2 of 2. -/
theorem test_met_ReadsTakeSnapshotsAndClear_2 :
    (∃ s : State, ∃ t : Nat, ∃ ifc : Iface, ∃ l : LadId, s.chip.ready t ∧ s.chip.serves ifc = true ∧ ((s.chip.lad l).flushAt.isSome = true ∨ (s.chip.lad l).words = [])) :=
  ⟨(st w0), 0, Iface.spi, LadId.gau, ⟨rfl, by decide +kernel⟩, by decide +kernel⟩

/-- States and operands that meet the hypotheses of `Obligations.FlushDiscardsNowOrAtItsTimeout`. -/
theorem test_met_FlushDiscardsNowOrAtItsTimeout :
    (∃ s : State, ∃ t : Nat, ∃ ifc : Iface, s.chip.ready t ∧ s.chip.serves ifc = true) ∧
    (∃ s : State, ∃ t : Nat, ∃ l : LadId, ∃ t0 : Nat, s.chip.ready t ∧ (s.chip.lad l).flushAt = some t0 ∧ t0 + max (bits (s.chip.reg l.ctl) 15 0) 1 * 800 ≤ t) ∧
    (∃ s : State, ∃ t : Nat, ∃ l : LadId, s.chip.ready t ∧ ((s.chip.lad l).flushAt = none ∨ ∃ t0, (s.chip.lad l).flushAt = some t0 ∧ t < t0 + max (bits (s.chip.reg l.ctl) 15 0) 1 * 800)) :=
  ⟨⟨(st w0), 0, Iface.spi, ⟨rfl, by decide +kernel⟩, by decide +kernel⟩,
   ⟨st ((fun c => { c with hst := { c.hst with lad := [(22, ⟨[], [], true, some 0, false⟩)] } }) w0), 10^9, LadId.gau, 0, ⟨rfl, by decide +kernel⟩, by decide +kernel⟩,
   ⟨(st w0), 0, LadId.gau, ⟨rfl, by decide +kernel⟩, by decide +kernel⟩⟩

/-- States and operands that meet the hypotheses of `Obligations.Bar0TakesWholeWordsAndBar2OnlyReads`. -/
theorem test_met_Bar0TakesWholeWordsAndBar2OnlyReads :
    (∃ s : State, ∃ t : Nat, ∃ off : Nat, ∃ v : Word, ∃ r : RegRow, s.chip.ready t ∧ off % 4 = 0 ∧ off < 0x10000 ∧ (¬ (0x200 ≤ off ∧ off < 0x400)) ∧ (¬ (0x1000 ≤ off ∧ off < 0x5000)) ∧ regRow off = some r ∧ LadId.all.find? (fun l => l.ctl == off) = none ∧ (s.chip.at t).ownerWrite .pcie off v.toNat = none ∧ s.chip.serves .pcie = true) ∧
    (∃ s : State, ∃ t : Nat, ∃ off : Nat, ∃ vs : List Word, s.chip.ready t ∧ bar0SizeOk off vs.length = false ∧ s.chip.serves .pcie = true) ∧
    (∃ s : State, ∃ t : Nat, s.chip.ready t ∧ s.chip.serves .pcie = true) ∧
    (∃ s : State, ∃ t : Nat, s.chip.ready t ∧ s.chip.now ≤ s.chip.pnd.start + 8) :=
  ⟨⟨(st w0), 0, SLU_INT_EN, 0, ((regRow SLU_INT_EN).get (by decide)), ⟨rfl, by decide +kernel⟩, by decide +kernel⟩,
   ⟨(st w0), 0, 0, [], ⟨rfl, by decide +kernel⟩, by decide +kernel⟩,
   ⟨(st w0), 0, ⟨rfl, by decide +kernel⟩, by decide +kernel⟩,
   ⟨(st w0), 0, ⟨rfl, by decide +kernel⟩, by decide +kernel⟩⟩

/-- States and operands that meet the hypotheses of `Obligations.RingsTakeAndAnswerCommands`. -/
theorem test_met_RingsTakeAndAnswerCommands :
    (∃ s : State, ∃ t : Nat, ∃ ifc : Iface, s.chip.ready t ∧ s.chip.serves ifc = true) ∧
    (∃ s : State, ∃ t : Nat, ∃ op : Nat, ∃ target : Word, ∃ pl : List Word, s.chip.ready t ∧ s.chip.sqReady = true ∧ opInfo op ≠ none ∧ lenOk op pl = true ∧ target.toNat < 2 ^ 16 ∧ pl.length ≤ 4095) ∧
    (∃ s : State, ∃ t : Nat, s.chip.ready t ∧ s.chip.sqReady = true) ∧
    (∃ s : State, ∃ t : Nat, ∃ cp : Completion, ∃ rest : List Completion, s.chip.ready t ∧ s.chip.flag HST_RING_CTL__EN = true ∧ s.chip.cqFree = true ∧ s.chip.hst.pendCpl = cp :: rest ∧ cp.final = false) ∧
    (∃ s : State, ∃ t : Nat, ∃ cp : Completion, ∃ rest : List Completion, s.chip.ready t ∧ s.chip.flag HST_RING_CTL__EN = true ∧ s.chip.hst.pendCpl = cp :: rest ∧ cp.final = true) ∧
    (∃ s : State, ∃ t : Nat, ∃ ifc : Iface, ∃ v : Word, s.chip.ready t ∧ (s.chip.serves ifc = true ∨ v.toNat.testBit 0 = true)) :=
  ⟨⟨(st w0), 0, Iface.spi, ⟨rfl, by decide +kernel⟩, by decide +kernel⟩,
   ⟨sf [(HST_RING_CTL__EN, 1), (HST_SQ_TAIL__TAIL, 1)], 0, 0x0F01, 0, [], ⟨rfl, by decide +kernel⟩, by decide +kernel⟩,
   ⟨sf [(HST_RING_CTL__EN, 1), (HST_SQ_TAIL__TAIL, 1)], 0, ⟨rfl, by decide +kernel⟩, by decide +kernel⟩,
   ⟨st (fs [(HST_RING_CTL__EN, 1)] ((fun c => { c with hst := { c.hst with pendCpl := [⟨0, 0, 0, 0, false, false, false, 0, 0, false, [], 0, 0⟩] } }) w0)), 0, ⟨0, 0, 0, 0, false, false, false, 0, 0, false, [], 0, 0⟩, [], ⟨rfl, by decide +kernel⟩, by decide +kernel⟩,
   ⟨st (fs [(HST_RING_CTL__EN, 1)] ((fun c => { c with hst := { c.hst with pendCpl := [⟨0, 0, 0, 0, true, false, false, 4, 0, false, [1, 2, 3, 4], 0, 0⟩] } }) w0)), 0, ⟨0, 0, 0, 0, true, false, false, 4, 0, false, [1, 2, 3, 4], 0, 0⟩, [], ⟨rfl, by decide +kernel⟩, by decide +kernel⟩,
   ⟨(st w0), 0, Iface.spi, 0, ⟨rfl, by decide +kernel⟩, by decide +kernel⟩⟩

/-- States and operands that meet the hypotheses of `Obligations.PcieResetsReachOnlyTheEndpoint`. -/
theorem test_met_PcieResetsReachOnlyTheEndpoint :
    (∃ s : State, ∃ t : Nat, s.chip.ready t) ∧
    (∃ s : State, ∃ t : Nat, ∃ ifc : Iface, s.chip.ready t ∧ s.chip.serves ifc = true) ∧
    (∃ s : State, ∃ t : Nat, s.chip.ready t ∧ s.chip.hst.d3 = true) :=
  ⟨⟨(st w0), 0, ⟨rfl, by decide +kernel⟩⟩,
   ⟨(st w0), 0, Iface.spi, ⟨rfl, by decide +kernel⟩, by decide +kernel⟩,
   ⟨st ((fun c => { c with hst := { c.hst with d3 := true } }) w0), 0, ⟨rfl, by decide +kernel⟩, by decide +kernel⟩⟩

/-- States and operands that meet the hypotheses of `Obligations.DatagramsEnterTheQueueOnce`. -/
theorem test_met_DatagramsEnterTheQueueOnce :
    (∃ s : State, ∃ t : Nat, ∃ m : Fin 2, ∃ src : UdpSrc, ∃ op : Nat, ∃ tag : Word, ∃ target : Word, ∃ pl : List Word, s.chip.ready t ∧ s.chip.flag (HST_ETH_CFG__EN m.val) = true ∧ s.chip.flag (HST_ETH_CFG__CMD_EN m.val) = true ∧ opInfo op ≠ none ∧ lenOk op pl = true ∧ target.toNat < 2 ^ 16 ∧ pl.length ≤ 4095 ∧ tabGet (fun _ => []) s.chip.hst.cache m.val = [] ∧ s.chip.udpBusy m.val src tag = false ∧ (s.chip.hst.intake.filter (fun k => k.org.ifc == (if m.val = 0 then .mac0 else .mac1))).length < 16) ∧
    (∃ s : State, ∃ t : Nat, ∃ m : Fin 2, s.chip.ready t ∧ (s.chip.flag (HST_ETH_CFG__EN m.val) = false ∨ s.chip.flag (HST_ETH_CFG__CMD_EN m.val) = false)) ∧
    (∃ s : State, ∃ t : Nat, ∃ m : Fin 2, ∃ src : UdpSrc, ∃ bytes : List Byte, s.chip.ready t ∧ s.chip.udpBusy m.val src ((bytesWords bytes).getD 1 0) = true) ∧
    (∃ s : State, ∃ t : Nat, ∃ m : Fin 2, ∃ src : UdpSrc, ∃ bytes : List Byte, ∃ r : CachedReply, s.chip.ready t ∧ s.chip.flag (HST_ETH_CFG__EN m.val) = true ∧ s.chip.flag (HST_ETH_CFG__CMD_EN m.val) = true ∧ 16 ≤ bytes.length ∧ tabGet (fun _ => []) s.chip.hst.cache m.val = [r] ∧ r.src = src ∧ r.tag = (bytesWords bytes).getD 1 0 ∧ r.crc = (bytesWords bytes).getD 3 0 ∧ t ≤ r.tick + 1600000000) ∧
    (∃ s : State, ∃ t : Nat, ∃ m : Fin 2, s.chip.ready t ∧ s.chip.flag (HST_ETH_CFG__EN m.val) = true) ∧
    (∃ s : State, ∃ t : Nat, s.chip.ready t) :=
  ⟨⟨sf [(HST_ETH_CFG__EN 0, 1), (HST_ETH_CFG__CMD_EN 0, 1)], 0, 0, ⟨0, 0, 0⟩, 0x0F01, 0, 0, [], ⟨rfl, by decide +kernel⟩, by decide +kernel⟩,
   ⟨(st w0), 0, 0, ⟨rfl, by decide +kernel⟩, by decide +kernel⟩,
   ⟨st ((fun c => { c with hst := { c.hst with intake := [⟨0x0F01, 0, 0, [], { og with ifc := .mac0 }, .command⟩] } }) w0), 0, 0, ⟨0, 0, 0⟩, [], ⟨rfl, by decide +kernel⟩, by decide +kernel⟩,
   ⟨st (fs [(HST_ETH_CFG__EN 0, 1), (HST_ETH_CFG__CMD_EN 0, 1)] ((fun c => { c with hst := { c.hst with cache := [(0, [⟨⟨0, 0, 0⟩, 0, 0, 0, []⟩])] } }) w0)), 0, 0, ⟨0, 0, 0⟩, List.replicate 16 0, ⟨⟨0, 0, 0⟩, 0, 0, 0, []⟩, ⟨rfl, by decide +kernel⟩, by decide +kernel⟩,
   ⟨sf [(HST_ETH_CFG__EN 0, 1), (HST_ETH_CFG__CMD_EN 0, 1)], 0, 0, ⟨rfl, by decide +kernel⟩, by decide +kernel⟩,
   ⟨(st w0), 0, ⟨rfl, by decide +kernel⟩⟩⟩

/-- States and operands that meet the hypotheses of `Obligations.SpiServesOneCommandAtATime`. -/
theorem test_met_SpiServesOneCommandAtATime :
    (∃ s : State, ∃ t : Nat, ∃ op : Nat, ∃ target : Word, ∃ pl : List Word, s.chip.ready t ∧ opInfo op ≠ none ∧ lenOk op pl = true ∧ target.toNat < 2 ^ 16 ∧ pl.length ≤ 4095 ∧ s.chip.hst.spiReplies.length < 4 ∧ s.chip.hst.spiExec = false) ∧
    (∃ s : State, ∃ t : Nat, s.chip.ready t ∧ (4 ≤ s.chip.hst.spiReplies.length ∨ s.chip.hst.spiExec = true)) ∧
    (∃ s : State, ∃ t : Nat, ∃ bytes : List Byte, s.chip.ready t ∧ bytes.length < 16) ∧
    (∃ s : State, ∃ t : Nat, s.chip.ready t) :=
  ⟨⟨(st w0), 0, 0x0F01, 0, [], ⟨rfl, by decide +kernel⟩, by decide +kernel⟩,
   ⟨st ((fun c => { c with hst := { c.hst with spiExec := true } }) w0), 0, ⟨rfl, by decide +kernel⟩, by decide +kernel⟩,
   ⟨(st w0), 0, [], ⟨rfl, by decide +kernel⟩, by decide +kernel⟩,
   ⟨(st w0), 0, ⟨rfl, by decide +kernel⟩⟩⟩

/-- States and operands that meet the hypotheses of `Obligations.ClearedRingsDiscardReplies`. -/
theorem test_met_ClearedRingsDiscardReplies :
    (∃ s : State, ∃ t : Nat, ∃ v : Word, s.chip.ready t ∧ v.toNat.testBit 0 = true) ∧
    (∃ s : State, ∃ t : Nat, ∃ ifc : Iface, ∃ v : Word, s.chip.ready t ∧ v.toNat.testBit 0 = false ∧ s.chip.serves ifc = true) ∧
    (∃ s : State, ∃ t : Nat, s.chip.ready t) ∧
    (∃ s : State, ∃ t : Nat, s.chip.ready t ∧ s.chip.flag HST_RING_CTL__EN = false) ∧
    (∃ s : State, ∃ t : Nat, s.chip.ready t ∧ s.chip.flag HST_RING_CTL__EN = true ∧ s.chip.hst.d3 = false ∧ s.chip.fld HST_SQ_TAIL__TAIL ≠ s.chip.fld HST_SQ_HEAD__HEAD) ∧
    (∃ s : State, ∃ t : Nat, s.chip.ready t ∧ s.chip.flag HST_RING_CTL__EN = true ∧ s.chip.hst.pendCpl ≠ [] ∧ s.chip.cqFree = true ∧ (∀ cp ∈ s.chip.hst.pendCpl, cp.final = false)) ∧
    (∃ s : State, ∃ t : Nat, ∃ org : Origin, s.chip.ready t ∧ org.ifc = .pcie ∧ org.drop = true) :=
  ⟨⟨(st w0), 0, 1, ⟨rfl, by decide +kernel⟩, by decide +kernel⟩,
   ⟨(st w0), 0, Iface.spi, 0, ⟨rfl, by decide +kernel⟩, by decide +kernel⟩,
   ⟨(st w0), 0, ⟨rfl, by decide +kernel⟩⟩,
   ⟨(st w0), 0, ⟨rfl, by decide +kernel⟩, by decide +kernel⟩,
   ⟨sf [(HST_RING_CTL__EN, 1), (HST_SQ_TAIL__TAIL, 1)], 0, ⟨rfl, by decide +kernel⟩, by decide +kernel⟩,
   ⟨st (fs [(HST_RING_CTL__EN, 1)] ((fun c => { c with hst := { c.hst with pendCpl := [⟨0, 0, 0, 0, false, false, false, 0, 0, false, [], 0, 0⟩] } }) w0)), 0, ⟨rfl, by decide +kernel⟩, by decide +kernel⟩,
   ⟨(st w0), 0, ⟨.pcie, 0, 0, 0, 0, false, true, false, ⟨0, 0, 0⟩, 0⟩, ⟨rfl, by decide +kernel⟩, by decide +kernel⟩⟩

/-- States and operands that meet the hypotheses of `Obligations.HostCommandsAreCheckedFirst`. -/
theorem test_met_HostCommandsAreCheckedFirst :
    (∃ i : Instr, ∃ s : State, ∃ h : HostCall, ∃ o : OpInfo, hostCall i = some h ∧ opInfo h.op = some o ∧ s.chip.now ≤ h.t ∧ s.chip.boot.phase = .run ∧ (s.chip.at h.t).intakeTurn h.op h.ifc h.tag h.target h.pl = true ∧ (lenOk h.op h.pl = false ∨ ((s.chip.role = 2 ∨ s.chip.role = 3) ∧ o.standby = false) ∨ ¬ (if o.targets = 0 then h.target.toNat = 0 else h.target.toNat < o.targets))) ∧
    (∃ i : Instr, ∃ s : State, ∃ h : HostCall, ∃ o : OpInfo, hostCall i = some h ∧ opInfo h.op = some o ∧ s.chip.now ≤ h.t ∧ s.chip.boot.phase = .run ∧ (s.chip.at h.t).intakeTurn h.op h.ifc h.tag h.target h.pl = false) ∧
    (∃ i : Instr, ∃ s : State, ∃ h : HostCall, ∃ o : OpInfo, hostCall i = some h ∧ opInfo h.op = some o ∧ s.chip.now ≤ h.t ∧ (s.chip.boot.phase = .rom ∨ s.chip.boot.phase = .wait) ∧ h.ifc ≠ .spi) ∧
    (∃ i : Instr, ∃ s : State, ∃ h : HostCall, ∃ o : OpInfo, hostCall i = some h ∧ opInfo h.op = some o ∧ s.chip.now ≤ h.t ∧ (s.chip.boot.phase = .rom ∨ s.chip.boot.phase = .wait) ∧ h.ifc = .spi ∧ h.op ∉ romOps) ∧
    (∃ i : Instr, ∃ s : State, ∃ h : HostCall, ∃ o : OpInfo, hostCall i = some h ∧ opInfo h.op = some o ∧ s.chip.now ≤ h.t ∧ s.chip.boot.phase = .hold) :=
  ⟨⟨Instr.echo 0 .spi 0 5 [], (st w0), ⟨0, 0x0F01, .spi, 0, 5, []⟩, ((opInfo 0x0F01).get (by decide)), by decide +kernel⟩,
   ⟨Instr.echo 0 .spi 0 0 [], st ((fun c => { c with hst := { c.hst with intake := [⟨0x0101, 0, 0, [], og, .command⟩] } }) w0), ⟨0, 0x0F01, .spi, 0, 0, []⟩, (((opInfo 0x0F01).get (by decide))), by decide +kernel⟩,
   ⟨Instr.echo 0 .pcie 0 0 [], State.reset, ⟨0, 0x0F01, .pcie, 0, 0, []⟩, ((opInfo 0x0F01).get (by decide)), by decide +kernel⟩,
   ⟨Instr.twinStatus 0 .spi 0 0 [], State.reset, ⟨0, 0x0C01, .spi, 0, 0, []⟩, ((opInfo 0x0C01).get (by decide)), by decide +kernel⟩,
   ⟨Instr.echo 0 .spi 0 0 [], st ((fun c => { c with boot := { c.boot with phase := .hold } }) w0), ⟨0, 0x0F01, .spi, 0, 0, []⟩, ((opInfo 0x0F01).get (by decide)), by decide +kernel⟩⟩

/-- States and operands that meet the hypotheses of `Obligations.StatusCommandsReportOneTick`, part 1 of 2. -/
theorem test_met_StatusCommandsReportOneTick_1 :
    (∃ s : State, ∃ t : Nat, ∃ ifc : Iface, ∃ tag : Word, ∃ target : Word, ∃ pl : List Word, s.chip.takes t 0x0101 ifc tag target pl 5) ∧
    (∃ s : State, ∃ t : Nat, ∃ ifc : Iface, ∃ tag : Word, ∃ target : Word, ∃ pl : List Word, s.chip.takes t 0x0204 ifc tag target pl 3) ∧
    (∃ s : State, ∃ t : Nat, ∃ ifc : Iface, ∃ tag : Word, ∃ target : Word, ∃ pl : List Word, s.chip.takes t 0x0308 ifc tag target pl (5 + (s.chip.fNx target.toNat + 1) / 2 + (s.chip.fNu target.toNat + 1) / 2)) ∧
    (∃ s : State, ∃ t : Nat, ∃ ifc : Iface, ∃ tag : Word, ∃ target : Word, ∃ pl : List Word, s.chip.takes t 0x0602 ifc tag target pl 22) ∧
    (∃ s : State, ∃ t : Nat, ∃ ifc : Iface, ∃ tag : Word, ∃ target : Word, ∃ pl : List Word, s.chip.takes t 0x0702 ifc tag target pl 8) ∧
    (∃ s : State, ∃ t : Nat, ∃ ifc : Iface, ∃ tag : Word, ∃ target : Word, ∃ pl : List Word, s.chip.takes t 0x0701 ifc tag target pl 20) ∧
    (∃ s : State, ∃ t : Nat, ∃ ifc : Iface, ∃ tag : Word, ∃ target : Word, ∃ pl : List Word, s.chip.takes t 0x0B04 ifc tag target pl 12) ∧
    (∃ s : State, ∃ t : Nat, ∃ ifc : Iface, ∃ tag : Word, ∃ target : Word, ∃ pl : List Word, s.chip.takes t 0x0C01 ifc tag target pl 12) :=
  ⟨⟨(st w0), 0, Iface.spi, 0, 0, [], takes_of (by decide +kernel)⟩,
   ⟨(st w0), 0, Iface.spi, 0, 0, [], takes_of (by decide +kernel)⟩,
   ⟨(st w0), 0, Iface.spi, 0, 0, [], takes_of (by decide +kernel)⟩,
   ⟨(st w0), 0, Iface.spi, 0, 0, [], takes_of (by decide +kernel)⟩,
   ⟨(st w0), 0, Iface.spi, 0, 0, [], takes_of (by decide +kernel)⟩,
   ⟨(st w0), 0, Iface.spi, 0, 0, [], takes_of (by decide +kernel)⟩,
   ⟨(st w0), 0, Iface.spi, 0, 0, [], takes_of (by decide +kernel)⟩,
   ⟨(st w0), 0, Iface.spi, 0, 0, [], takes_of (by decide +kernel)⟩⟩

/-- States and operands that meet the hypotheses of `Obligations.StatusCommandsReportOneTick`, part 2 of 2. -/
theorem test_met_StatusCommandsReportOneTick_2 :
    (∃ s : State, ∃ t : Nat, ∃ ifc : Iface, ∃ tag : Word, ∃ target : Word, ∃ pl : List Word, s.chip.takes t 0x0D01 ifc tag target pl 68) ∧
    (∃ s : State, ∃ t : Nat, ∃ ifc : Iface, ∃ tag : Word, ∃ target : Word, ∃ pl : List Word, s.chip.takes t 0x0D03 ifc tag target pl 42) ∧
    (∃ s : State, ∃ t : Nat, ∃ ifc : Iface, ∃ tag : Word, ∃ target : Word, ∃ pl : List Word, s.chip.takes t 0x0E01 ifc tag target pl 9) ∧
    (∃ s : State, ∃ t : Nat, ∃ ifc : Iface, ∃ tag : Word, ∃ target : Word, ∃ pl : List Word, s.chip.takes t 0x0F01 ifc tag target pl pl.length) ∧
    (∃ s : State, ∃ t : Nat, ∃ ifc : Iface, ∃ tag : Word, ∃ target : Word, ∃ pl : List Word, s.chip.takes t 0x0F02 ifc tag target pl 35) :=
  ⟨⟨(st w0), 0, Iface.spi, 0, 0, [], takes_of (by decide +kernel)⟩,
   ⟨(st w0), 0, Iface.spi, 0, 0, [], takes_of (by decide +kernel)⟩,
   ⟨(st w0), 0, Iface.spi, 0, 0, [], takes_of (by decide +kernel)⟩,
   ⟨(st w0), 0, Iface.spi, 0, 0, [], takes_of (by decide +kernel)⟩,
   ⟨(st w0), 0, Iface.spi, 0, 0, [], takes_of (by decide +kernel)⟩⟩

/-- States and operands that meet the hypotheses of `Obligations.MemoryReadCommandsReadWhatIsThere`, part 1 of 3. -/
theorem test_met_MemoryReadCommandsReadWhatIsThere_1 :
    (∃ s : State, ∃ t : Nat, ∃ ifc : Iface, ∃ tag : Word, ∃ target : Word, ∃ pl : List Word, s.chip.takes t 0x0805 ifc tag target pl (wordAt pl 1) ∧ (¬ (wordAt pl 0 % 4 ≠ 0)) ∧ (¬ (wordAt pl 1 = 0 ∨ 1024 < wordAt pl 1 ∨ 2 ^ 23 < wordAt pl 0 + 4 * wordAt pl 1))) ∧
    (∃ s : State, ∃ t : Nat, ∃ ifc : Iface, ∃ tag : Word, ∃ target : Word, ∃ pl : List Word, s.chip.takes t 0x0805 ifc tag target pl 0 ∧ (wordAt pl 0 % 4 ≠ 0)) ∧
    (∃ s : State, ∃ t : Nat, ∃ ifc : Iface, ∃ tag : Word, ∃ target : Word, ∃ pl : List Word, s.chip.takes t 0x0805 ifc tag target pl 0 ∧ (¬ (wordAt pl 0 % 4 ≠ 0)) ∧ (wordAt pl 1 = 0 ∨ 1024 < wordAt pl 1 ∨ 2 ^ 23 < wordAt pl 0 + 4 * wordAt pl 1)) ∧
    (∃ s : State, ∃ t : Nat, ∃ ifc : Iface, ∃ tag : Word, ∃ target : Word, ∃ pl : List Word, s.chip.takes t 0x0A05 ifc tag target pl (wordAt pl 1) ∧ (¬ (wordAt pl 0 % 4 ≠ 0 ∨ gauBytes ≤ wordAt pl 0)) ∧ (¬ (wordAt pl 1 = 0 ∨ 1024 < wordAt pl 1))) ∧
    (∃ s : State, ∃ t : Nat, ∃ ifc : Iface, ∃ tag : Word, ∃ target : Word, ∃ pl : List Word, s.chip.takes t 0x0A05 ifc tag target pl 0 ∧ (wordAt pl 0 % 4 ≠ 0 ∨ gauBytes ≤ wordAt pl 0)) ∧
    (∃ s : State, ∃ t : Nat, ∃ ifc : Iface, ∃ tag : Word, ∃ target : Word, ∃ pl : List Word, s.chip.takes t 0x0A05 ifc tag target pl 0 ∧ (¬ (wordAt pl 0 % 4 ≠ 0 ∨ gauBytes ≤ wordAt pl 0)) ∧ (wordAt pl 1 = 0 ∨ 1024 < wordAt pl 1)) ∧
    (∃ s : State, ∃ t : Nat, ∃ ifc : Iface, ∃ tag : Word, ∃ target : Word, ∃ pl : List Word, s.chip.takes t 0x0E02 ifc tag target pl (wordAt pl 1) ∧ (¬ (wordAt pl 0 % 4 ≠ 0 ∨ wordAt pl 0 < 0x0800000 ∨ 0x0FFFFFF < wordAt pl 0)) ∧ (¬ (wordAt pl 1 = 0 ∨ 1024 < wordAt pl 1 ∨ 0x1000000 < wordAt pl 0 + 4 * wordAt pl 1))) ∧
    (∃ s : State, ∃ t : Nat, ∃ ifc : Iface, ∃ tag : Word, ∃ target : Word, ∃ pl : List Word, s.chip.takes t 0x0E02 ifc tag target pl 0 ∧ (wordAt pl 0 % 4 ≠ 0 ∨ wordAt pl 0 < 0x0800000 ∨ 0x0FFFFFF < wordAt pl 0)) :=
  ⟨⟨(st w0), 0, Iface.spi, 0, 0, [0, 1], takes_of (by decide +kernel), by decide +kernel⟩,
   ⟨(st w0), 0, Iface.spi, 0, 0, [1, 1], takes_of (by decide +kernel), by decide +kernel⟩,
   ⟨(st w0), 0, Iface.spi, 0, 0, [0, 0], takes_of (by decide +kernel), by decide +kernel⟩,
   ⟨(st w0), 0, Iface.spi, 0, 0, [0, 1], takes_of (by decide +kernel), by decide +kernel⟩,
   ⟨(st w0), 0, Iface.spi, 0, 0, [1, 1], takes_of (by decide +kernel), by decide +kernel⟩,
   ⟨(st w0), 0, Iface.spi, 0, 0, [0, 0], takes_of (by decide +kernel), by decide +kernel⟩,
   ⟨(st w0), 0, Iface.spi, 0, 0, [0x800000, 1], takes_of (by decide +kernel), by decide +kernel⟩,
   ⟨(st w0), 0, Iface.spi, 0, 0, [0, 1], takes_of (by decide +kernel), by decide +kernel⟩⟩

/-- States and operands that meet the hypotheses of `Obligations.MemoryReadCommandsReadWhatIsThere`, part 2 of 3. -/
theorem test_met_MemoryReadCommandsReadWhatIsThere_2 :
    (∃ s : State, ∃ t : Nat, ∃ ifc : Iface, ∃ tag : Word, ∃ target : Word, ∃ pl : List Word, s.chip.takes t 0x0E02 ifc tag target pl 0 ∧ (¬ (wordAt pl 0 % 4 ≠ 0 ∨ wordAt pl 0 < 0x0800000 ∨ 0x0FFFFFF < wordAt pl 0)) ∧ (wordAt pl 1 = 0 ∨ 1024 < wordAt pl 1 ∨ 0x1000000 < wordAt pl 0 + 4 * wordAt pl 1)) ∧
    (∃ s : State, ∃ t : Nat, ∃ ifc : Iface, ∃ tag : Word, ∃ target : Word, ∃ pl : List Word, s.chip.takes t 0x0906 ifc tag target pl ((wordAt pl 1 + 1) / 2) ∧ (¬ (bits (wordAt pl 0) 5 4 = 3 ∨ coreSize (bits (wordAt pl 0) 5 4) ≤ bits (wordAt pl 0) 31 16)) ∧ (¬ (wordAt pl 1 = 0 ∨ 2048 < wordAt pl 1 ∨ coreSize (bits (wordAt pl 0) 5 4) < bits (wordAt pl 0) 31 16 + wordAt pl 1))) ∧
    (∃ s : State, ∃ t : Nat, ∃ ifc : Iface, ∃ tag : Word, ∃ target : Word, ∃ pl : List Word, s.chip.takes t 0x0906 ifc tag target pl 0 ∧ (bits (wordAt pl 0) 5 4 = 3 ∨ coreSize (bits (wordAt pl 0) 5 4) ≤ bits (wordAt pl 0) 31 16)) ∧
    (∃ s : State, ∃ t : Nat, ∃ ifc : Iface, ∃ tag : Word, ∃ target : Word, ∃ pl : List Word, s.chip.takes t 0x0906 ifc tag target pl 0 ∧ (¬ (bits (wordAt pl 0) 5 4 = 3 ∨ coreSize (bits (wordAt pl 0) 5 4) ≤ bits (wordAt pl 0) 31 16)) ∧ (wordAt pl 1 = 0 ∨ 2048 < wordAt pl 1 ∨ coreSize (bits (wordAt pl 0) 5 4) < bits (wordAt pl 0) 31 16 + wordAt pl 1)) ∧
    (∃ s : State, ∃ t : Nat, ∃ ifc : Iface, ∃ tag : Word, ∃ target : Word, ∃ pl : List Word, s.chip.takes t 0x0504 ifc tag target pl (1 + (((s.chip.man.armed.drop (wordAt pl 0)).take (wordAt pl 1)).flatMap (fun e => w32 e.handle :: e.w)).length) ∧ (¬ (wordAt pl 1 = 0 ∨ 32 < wordAt pl 1))) ∧
    (∃ s : State, ∃ t : Nat, ∃ ifc : Iface, ∃ tag : Word, ∃ target : Word, ∃ pl : List Word, s.chip.takes t 0x0504 ifc tag target pl 0 ∧ (wordAt pl 1 = 0 ∨ 32 < wordAt pl 1)) ∧
    (∃ s : State, ∃ t : Nat, ∃ ifc : Iface, ∃ tag : Word, ∃ target : Word, ∃ pl : List Word, ∃ w : Nat × Nat × Nat, s.chip.takes t 0x0205 ifc tag target pl (wordAt pl 1) ∧ winAt (wordAt pl 0) = some w ∧ wordAt pl 0 % 4 = 0 ∧ (¬ (wordAt pl 1 = 0 ∨ 1024 < wordAt pl 1 ∨ w.2.2 < w.2.1 + 4 * wordAt pl 1))) ∧
    (∃ s : State, ∃ t : Nat, ∃ ifc : Iface, ∃ tag : Word, ∃ target : Word, ∃ pl : List Word, s.chip.takes t 0x0205 ifc tag target pl 0 ∧ (winAt (wordAt pl 0) = none ∨ wordAt pl 0 % 4 ≠ 0)) :=
  ⟨⟨(st w0), 0, Iface.spi, 0, 0, [0x800000, 0], takes_of (by decide +kernel), by decide +kernel⟩,
   ⟨(st w0), 0, Iface.spi, 0, 0, [0, 1], takes_of (by decide +kernel), by decide +kernel⟩,
   ⟨(st w0), 0, Iface.spi, 0, 0, [48, 1], takes_of (by decide +kernel), by decide +kernel⟩,
   ⟨(st w0), 0, Iface.spi, 0, 0, [0, 0], takes_of (by decide +kernel), by decide +kernel⟩,
   ⟨(st w0), 0, Iface.spi, 0, 0, [0, 1], takes_of (by decide +kernel), by decide +kernel⟩,
   ⟨(st w0), 0, Iface.spi, 0, 0, [0, 0], takes_of (by decide +kernel), by decide +kernel⟩,
   ⟨(st w0), 0, Iface.spi, 0, 0, [0x100000, 1], (0, 0, 0x10000), takes_of (by decide +kernel), by decide +kernel⟩,
   ⟨(st w0), 0, Iface.spi, 0, 0, [0, 1], takes_of (by decide +kernel), by decide +kernel⟩⟩

/-- States and operands that meet the hypotheses of `Obligations.MemoryReadCommandsReadWhatIsThere`, part 3 of 3. -/
theorem test_met_MemoryReadCommandsReadWhatIsThere_3 :
    (∃ s : State, ∃ t : Nat, ∃ ifc : Iface, ∃ tag : Word, ∃ target : Word, ∃ pl : List Word, s.chip.takes t 0x0104 ifc tag target pl (wordAt pl 1) ∧ (¬ (wordAt pl 0 % 4 ≠ 0 ∨ 0x10000 ≤ wordAt pl 0)) ∧ (¬ (wordAt pl 1 = 0 ∨ 1024 < wordAt pl 1 ∨ 0x10000 < wordAt pl 0 + 4 * wordAt pl 1))) ∧
    (∃ s : State, ∃ t : Nat, ∃ ifc : Iface, ∃ tag : Word, ∃ target : Word, ∃ pl : List Word, s.chip.takes t 0x0104 ifc tag target pl 0 ∧ (wordAt pl 0 % 4 ≠ 0 ∨ 0x10000 ≤ wordAt pl 0)) ∧
    (∃ s : State, ∃ t : Nat, ∃ ifc : Iface, ∃ tag : Word, ∃ target : Word, ∃ pl : List Word, s.chip.takes t 0x0104 ifc tag target pl 0 ∧ (¬ (wordAt pl 0 % 4 ≠ 0 ∨ 0x10000 ≤ wordAt pl 0)) ∧ (wordAt pl 1 = 0 ∨ 1024 < wordAt pl 1 ∨ 0x10000 < wordAt pl 0 + 4 * wordAt pl 1)) ∧
    (∃ s : State, ∃ t : Nat, ∃ ifc : Iface, ∃ tag : Word, ∃ target : Word, ∃ pl : List Word, s.chip.takes t 0x0802 ifc tag target pl ((s.chip.at t).slotView target.toNat).length) :=
  ⟨⟨(st w0), 0, Iface.spi, 0, 0, [0, 1], takes_of (by decide +kernel), by decide +kernel⟩,
   ⟨(st w0), 0, Iface.spi, 0, 0, [1, 1], takes_of (by decide +kernel), by decide +kernel⟩,
   ⟨(st w0), 0, Iface.spi, 0, 0, [0, 0], takes_of (by decide +kernel), by decide +kernel⟩,
   ⟨(st w0), 0, Iface.spi, 0, 0, [0], takes_of (by decide +kernel)⟩⟩

/-- States and operands that meet the hypotheses of `Obligations.PoundsFollowOneAnother`. -/
theorem test_met_PoundsFollowOneAnother :
    (∃ s : State, s.chip.boot.phase = .run ∧ s.chip.now ≤ s.chip.pnd.start + s.chip.poundLen ∧ s.chip.hst.stage.applyAt = false ∧ s.chip.aqu.changes = []) ∧
    (∃ s : State, (s.chip.boot.phase = .rom ∨ s.chip.boot.phase = .wait) ∧ s.chip.pnd.selNew = none) ∧
    (∃ s : State, s.chip.boot.phase = .hold) :=
  ⟨⟨(st w0), by decide +kernel⟩,
   ⟨State.reset, by decide +kernel⟩,
   ⟨st ((fun c => { c with boot := { c.boot with phase := .hold } }) w0), by decide +kernel⟩⟩

/-- States and operands that meet the hypotheses of `Obligations.CorrectionsTakeOneTickAtATime`. -/
theorem test_met_CorrectionsTakeOneTickAtATime :
    (∃ s : State, ∃ t : Nat, ∃ t0 : Nat, ∃ rest : List Nat, s.chip.now ≤ t ∧ s.chip.boot.phase ≠ .hold ∧ s.chip.pnd.corr = t0 :: rest ∧ t0 ≤ t) ∧
    (∃ s : State, ∃ t : Nat, s.chip.now ≤ t ∧ s.chip.boot.phase ≠ .hold ∧ (∀ t0 ∈ s.chip.pnd.corr.head?, t < t0)) ∧
    (∃ s : State, ∃ t : Nat, s.chip.now ≤ t) ∧
    (∃ s : State, ∃ t : Nat, ∃ ifc : Iface, ∃ v : Word, s.chip.now ≤ t ∧ s.chip.boot.phase = .run ∧ s.chip.serves ifc = true ∧ (s.chip.dryOrMoored = false ∨ 5 ≤ bits v.toNat 2 0 ∨ (bits v.toNat 2 0 ≠ s.chip.fld SYS_POUND_CFG__POUND_SEL ∧ s.chip.phasesFit (poundTicks (bits v.toNat 2 0)) = false))) ∧
    (∃ s : State, ∃ t : Nat, ∃ ifc : Iface, ∃ v : Word, s.chip.now ≤ t ∧ s.chip.boot.phase = .run ∧ s.chip.serves ifc = true ∧ s.chip.dryOrMoored = true ∧ bits v.toNat 2 0 < 5 ∧ (bits v.toNat 2 0 ≠ s.chip.fld SYS_POUND_CFG__POUND_SEL → s.chip.phasesFit (poundTicks (bits v.toNat 2 0)) = true)) ∧
    (∃ s : State, ∃ t : Nat, ∃ ifc : Iface, s.chip.now ≤ t ∧ s.chip.boot.phase = .run ∧ s.chip.serves ifc = true) :=
  ⟨⟨st ((fun c => { c with pnd := { c.pnd with corr := [0] } }) w0), 0, 0, [], by decide +kernel⟩,
   ⟨(st w0), 0, by decide +kernel⟩,
   ⟨(st w0), 0, by decide +kernel⟩,
   ⟨(st w0), 0, Iface.spi, 0, by decide +kernel⟩,
   ⟨(st w0), 0, Iface.spi, 1, by decide +kernel⟩,
   ⟨(st w0), 0, Iface.spi, by decide +kernel⟩⟩

/-- States and operands that meet the hypotheses of `Obligations.MarksAndReleaseActOncePerPound`. -/
theorem test_met_MarksAndReleaseActOncePerPound :
    (∃ s : State, ∃ m : Fin 32, ∃ t : Nat, s.chip.boot.phase = .run ∧ s.chip.markTick m.val = some t ∧ m.val ∉ s.chip.pnd.fired ∧ s.chip.now ≤ t) ∧
    (∃ s : State, ∃ m : Fin 32, s.chip.boot.phase = .run ∧ (s.chip.markTick m.val = none ∨ m.val ∈ s.chip.pnd.fired)) ∧
    (∃ s : State, ∃ t : Nat, ∃ ifc : Iface, s.chip.boot.phase = .run ∧ s.chip.now ≤ t ∧ s.chip.serves ifc = true) ∧
    (∃ s : State, s.chip.boot.phase = .run ∧ s.chip.pnd.released = false ∧ s.chip.pnd.due = [] ∧ s.chip.now ≤ s.chip.pnd.start + s.chip.P / 2) ∧
    (∃ s : State, s.chip.boot.phase = .run ∧ s.chip.pnd.released = true) :=
  ⟨⟨st ((fun c => { c with pnd := { c.pnd with marks := [(0, 0x80000000)] } }) w0), 0, 0, by decide +kernel⟩,
   ⟨(st w0), 0, by decide +kernel⟩,
   ⟨(st w0), 0, Iface.spi, by decide +kernel⟩,
   ⟨(st w0), by decide +kernel⟩,
   ⟨st ((fun c => { c with pnd := { c.pnd with released := true } }) w0), by decide +kernel⟩⟩

/-- States and operands that meet the hypotheses of `Obligations.FlightUpdatesStartAndComplete`. -/
theorem test_met_FlightUpdatesStartAndComplete :
    (∃ s : State, ∃ t : Nat, ∃ f : Fin 32, ∃ r : Nat, ∃ o : Owed, s.chip.ready t ∧ (s.chip.at t).waitTick f.val = some r ∧ (s.chip.at t).mayStart f.val r = true ∧ s.chip.fMode f.val ≠ 0 ∧ ((s.chip.flight f.val).owed.head?).getD ((s.chip.at t).dueUpdate f.val r) = o) ∧
    (∃ s : State, ∃ t : Nat, ∃ f : Fin 32, ∃ r : Nat, s.chip.ready t ∧ (s.chip.at t).waitTick f.val = some r ∧ (s.chip.at t).mayStart f.val r = true ∧ s.chip.fMode f.val = 0 ∧ s.chip.bankUsable f.val (bits (s.chip.fCtl f.val) 3 0) = true ∧ s.chip.flag (LCK_FSTAT__PEND_V f.val) = false) ∧
    (∃ s : State, ∃ t : Nat, ∃ f : Fin 32, s.chip.ready t ∧ (∀ r : Nat, (s.chip.at t).waitTick f.val = some r → (s.chip.at t).mayStart f.val r = false)) ∧
    (∃ s : State, ∃ t : Nat, ∃ f : Fin 32, ∃ r : Nat, s.chip.ready t ∧ (s.chip.at t).waitTick f.val = some r ∧ (s.chip.at t).mayStart f.val r = true ∧ s.chip.fMode f.val = 0 ∧ (∀ b : Nat, b < 16 → s.chip.bankUsable f.val b = false)) ∧
    (∃ s : State, ∃ t : Nat, ∃ f : Fin 32, ∃ u : Upd, s.chip.ready t ∧ (s.chip.flight f.val).upd = some u ∧ u.done ≤ t) ∧
    (∃ s : State, ∃ t : Nat, ∃ f : Fin 32, s.chip.ready t ∧ ((s.chip.flight f.val).upd = none ∨ ∃ u, (s.chip.flight f.val).upd = some u ∧ t < u.done)) :=
  ⟨⟨st (fs [(LCK_FSTAT__MODE 0, 1)] ((fun c => { c with pnd := { c.pnd with due := [0] } }) w0)), 0, 0, 0, ⟨0, 0, [], [], []⟩, ⟨rfl, by decide +kernel⟩, by decide +kernel⟩,
   ⟨st (fl { Flight.init with wantTrack := true } ((fun c => { c with pnd := { c.pnd with due := [0] } }) (lk [(0x1000, 0x80000000)] w0))), 0, 0, 0, ⟨rfl, by decide +kernel⟩, by decide +kernel⟩,
   ⟨(st w0), 0, 0, ⟨rfl, by decide +kernel⟩, by decide +kernel⟩,
   ⟨st (fl { Flight.init with wantTrack := true } ((fun c => { c with pnd := { c.pnd with due := [0] } }) w0)), 0, 0, 0, ⟨rfl, by decide +kernel⟩, by decide +kernel⟩,
   ⟨st (fl { Flight.init with upd := some ⟨0, 0, 0, 0, 0, [], [], [], [], [], false, false, false, none, false, false⟩ } w0), 0, 0, ⟨0, 0, 0, 0, 0, [], [], [], [], [], false, false, false, none, false, false⟩, ⟨rfl, by decide +kernel⟩, by decide +kernel⟩,
   ⟨(st w0), 0, 0, ⟨rfl, by decide +kernel⟩, by decide +kernel⟩⟩

/-- States and operands that meet the hypotheses of `Obligations.ReseedsAndBankPointersAreSettled`. -/
theorem test_met_ReseedsAndBankPointersAreSettled :
    (∃ s : State, ∃ t : Nat, ∃ f : Fin 32, ∃ q : Reseed, s.chip.ready t ∧ (s.chip.flight f.val).reseed = some q ∧ q.waiting = true ∧ t ≤ q.deadline + 256) ∧
    (∃ s : State, ∃ t : Nat, ∃ f : Fin 32, s.chip.ready t ∧ (s.chip.flight f.val).reseed = none) ∧
    (∃ s : State, ∃ t : Nat, ∃ f : Fin 32, ∃ q : Reseed, s.chip.ready t ∧ (s.chip.flight f.val).reseed = some q ∧ q.ready = none ∧ q.waiting = true) ∧
    (∃ s : State, ∃ t : Nat, ∃ f : Fin 32, ∃ q : Reseed, s.chip.ready t ∧ (s.chip.flight f.val).reseed = some q ∧ q.ready.isSome = true) ∧
    (∃ s : State, ∃ t : Nat, ∃ f : Fin 32, ∃ slot : Fin 16, ∃ e : Nat × Nat × Word × Nat, s.chip.ready t ∧ s.chip.lck.check.find? (fun e => e.1 == f.val && e.2.1 == slot.val) = some e) ∧
    (∃ s : State, ∃ t : Nat, ∃ f : Fin 32, ∃ slot : Fin 16, s.chip.ready t ∧ s.chip.lck.check.find? (fun e => e.1 == f.val && e.2.1 == slot.val) = none) :=
  ⟨⟨st (fl { Flight.init with reseed := some ⟨0, 0, true, none, []⟩ } w0), 0, 0, ⟨0, 0, true, none, []⟩, ⟨rfl, by decide +kernel⟩, by decide +kernel⟩,
   ⟨(st w0), 0, 0, ⟨rfl, by decide +kernel⟩, by decide +kernel⟩,
   ⟨st (fl { Flight.init with reseed := some ⟨0, 0, true, none, []⟩ } w0), 0, 0, ⟨0, 0, true, none, []⟩, ⟨rfl, by decide +kernel⟩, by decide +kernel⟩,
   ⟨st (fl { Flight.init with reseed := some ⟨0, 0, true, some (0, none), []⟩ } w0), 0, 0, ⟨0, 0, true, some (0, none), []⟩, ⟨rfl, by decide +kernel⟩, by decide +kernel⟩,
   ⟨st ((fun c => { c with lck := { c.lck with check := [(0, 0, 0, 0)] } }) w0), 0, 0, 0, (0, 0, 0, 0), ⟨rfl, by decide +kernel⟩, by decide +kernel⟩,
   ⟨(st w0), 0, 0, 0, ⟨rfl, by decide +kernel⟩, by decide +kernel⟩⟩

/-- States and operands that meet the hypotheses of `Obligations.FlightCommandsFollowTheMode`, part 1 of 2. -/
theorem test_met_FlightCommandsFollowTheMode_1 :
    (∃ s : State, ∃ t : Nat, ∃ ifc : Iface, ∃ tag : Word, ∃ target : Word, ∃ pl : List Word, s.chip.takes t 0x0306 ifc tag target pl 0 ∧ s.chip.bankValid target.toNat (bits (wordAt pl 0) 3 0) = true ∧ (s.chip.fCtl target.toNat).testBit 15 = false) ∧
    (∃ s : State, ∃ t : Nat, ∃ ifc : Iface, ∃ tag : Word, ∃ target : Word, ∃ pl : List Word, ∃ l : List Seg, s.chip.takes t 0x0401 ifc tag target pl 0 ∧ 1 ≤ wordAt pl 0 ∧ wordAt pl 0 ≤ 8 ∧ parseSegs (s.chip.fNu target.toNat) (wordAt pl 0) (pl.drop 1) = some l ∧ segsBad (s.chip.fNu target.toNat) l = none ∧ s.chip.flag (LCK_SEGQ_CTL__QSRC target.toNat) = false ∧ (applyOps (s.chip.flight target.toNat).queue (s.chip.flight target.toNat).ops).length + l.length ≤ 32) ∧
    (∃ s : State, ∃ t : Nat, ∃ ifc : Iface, ∃ tag : Word, ∃ target : Word, ∃ pl : List Word, s.chip.takes t 0x0402 ifc tag target pl 0 ∧ s.chip.flag (LCK_SEGQ_CTL__QSRC target.toNat) = false) ∧
    (∃ s : State, ∃ t : Nat, ∃ ifc : Iface, ∃ tag : Word, ∃ target : Word, ∃ pl : List Word, s.chip.takes t 0x0301 ifc tag target pl 0 ∧ (s.chip.fMode target.toNat = 0 ∨ (s.chip.fMode target.toNat = 1 ∧ s.chip.opState = 2 ∧ s.chip.faultHolds target.toNat = true))) ∧
    (∃ s : State, ∃ t : Nat, ∃ ifc : Iface, ∃ tag : Word, ∃ target : Word, ∃ pl : List Word, s.chip.takes t 0x0301 ifc tag target pl 0 ∧ (¬ (s.chip.fMode target.toNat = 0 ∨ (s.chip.fMode target.toNat = 1 ∧ s.chip.opState = 2 ∧ s.chip.faultHolds target.toNat = true)))) ∧
    (∃ s : State, ∃ t : Nat, ∃ ifc : Iface, ∃ tag : Word, ∃ target : Word, ∃ pl : List Word, s.chip.takes t 0x0302 ifc tag target pl 0 ∧ s.chip.fMode target.toNat ≤ 1) ∧
    (∃ s : State, ∃ t : Nat, ∃ ifc : Iface, ∃ tag : Word, ∃ target : Word, ∃ pl : List Word, s.chip.takes t 0x0302 ifc tag target pl 0 ∧ 2 ≤ s.chip.fMode target.toNat) ∧
    (∃ s : State, ∃ t : Nat, ∃ ifc : Iface, ∃ tag : Word, ∃ target : Word, ∃ pl : List Word, s.chip.takes t 0x0303 ifc tag target pl 0 ∧ (s.chip.fMode target.toNat ≤ 1 ∨ 4 ≤ s.chip.fMode target.toNat ∨ (s.chip.fMode target.toNat = 3 ∧ s.chip.faultHolds target.toNat = true))) :=
  ⟨⟨st (lk [(0x1000, 0x80000000)] w0), 0, Iface.spi, 0, 0, [0], takes_of (by decide +kernel), by decide +kernel⟩,
   ⟨(st w0), 0, Iface.spi, 0, 0, [1, 0, 0, 0, 1, 0, 0x3F800000, 0, 0], [Seg.make [0, 0, 0, 1, 0, 0x3F800000, 0, 0] []], takes_of (by decide +kernel), by decide +kernel⟩,
   ⟨(st w0), 0, Iface.spi, 0, 0, [], takes_of (by decide +kernel), by decide +kernel⟩,
   ⟨(st w0), 0, Iface.spi, 0, 0, [], takes_of (by decide +kernel), by decide +kernel⟩,
   ⟨sf [(LCK_FSTAT__MODE 0, 2)], 0, Iface.spi, 0, 0, [], takes_of (by decide +kernel), by decide +kernel⟩,
   ⟨(st w0), 0, Iface.spi, 0, 0, [], takes_of (by decide +kernel), by decide +kernel⟩,
   ⟨sf [(LCK_FSTAT__MODE 0, 2)], 0, Iface.spi, 0, 0, [], takes_of (by decide +kernel), by decide +kernel⟩,
   ⟨(st w0), 0, Iface.spi, 0, 0, [], takes_of (by decide +kernel), by decide +kernel⟩⟩

/-- States and operands that meet the hypotheses of `Obligations.FlightCommandsFollowTheMode`, part 2 of 2. -/
theorem test_met_FlightCommandsFollowTheMode_2 :
    (∃ s : State, ∃ t : Nat, ∃ ifc : Iface, ∃ tag : Word, ∃ target : Word, ∃ pl : List Word, s.chip.takes t 0x0303 ifc tag target pl 0 ∧ (s.chip.fMode target.toNat = 2 ∨ (s.chip.fMode target.toNat = 3 ∧ s.chip.faultHolds target.toNat = false))) ∧
    (∃ s : State, ∃ t : Nat, ∃ ifc : Iface, ∃ tag : Word, ∃ target : Word, ∃ pl : List Word, s.chip.takes t 0x0304 ifc tag target pl 0 ∧ s.chip.fMode target.toNat = 0) ∧
    (∃ s : State, ∃ t : Nat, ∃ ifc : Iface, ∃ tag : Word, ∃ target : Word, ∃ pl : List Word, s.chip.takes t 0x0304 ifc tag target pl 0 ∧ s.chip.fMode target.toNat ≠ 0) ∧
    (∃ s : State, ∃ t : Nat, ∃ ifc : Iface, ∃ tag : Word, ∃ target : Word, ∃ pl : List Word, s.chip.takes t 0x0305 ifc tag target pl 0) :=
  ⟨⟨sf [(LCK_FSTAT__MODE 0, 2)], 0, Iface.spi, 0, 0, [], takes_of (by decide +kernel), by decide +kernel⟩,
   ⟨(st w0), 0, Iface.spi, 0, 0, [], takes_of (by decide +kernel), by decide +kernel⟩,
   ⟨sf [(LCK_FSTAT__MODE 0, 1)], 0, Iface.spi, 0, 0, [], takes_of (by decide +kernel), by decide +kernel⟩,
   ⟨(st w0), 0, Iface.spi, 0, 0, [1], takes_of (by decide +kernel)⟩⟩

/-- States and operands that meet the hypotheses of `Obligations.BanksAndQueuesTakeTheirCommands`, part 1 of 2. -/
theorem test_met_BanksAndQueuesTakeTheirCommands_1 :
    (∃ s : State, ∃ t : Nat, ∃ ifc : Iface, ∃ tag : Word, ∃ target : Word, ∃ pl : List Word, s.chip.takes t 0x0306 ifc tag target pl 0 ∧ s.chip.bankValid target.toNat (bits (wordAt pl 0) 3 0) = true ∧ (s.chip.fCtl target.toNat).testBit 15 = true) ∧
    (∃ s : State, ∃ t : Nat, ∃ ifc : Iface, ∃ tag : Word, ∃ target : Word, ∃ pl : List Word, s.chip.takes t 0x0306 ifc tag target pl 0 ∧ s.chip.bankValid target.toNat (bits (wordAt pl 0) 3 0) = false) ∧
    (∃ s : State, ∃ t : Nat, ∃ ifc : Iface, ∃ tag : Word, ∃ target : Word, ∃ pl : List Word, s.chip.takes t 0x0306 ifc tag target pl 0 ∧ (s.chip.fCtl target.toNat).testBit 15 = false ∧ s.chip.bankValid target.toNat (bits (wordAt pl 0) 3 0) = true ∧ (s.chip.flight target.toNat).reseed = none) ∧
    (∃ s : State, ∃ t : Nat, ∃ ifc : Iface, ∃ tag : Word, ∃ target : Word, ∃ pl : List Word, s.chip.takes t 0x0307 ifc tag target pl 0 ∧ s.chip.role = 0 ∧ (wordAt pl 0 % 16 ≠ 0 ∨ 2 ^ 22 < wordAt pl 0 + 4 * (pl.length - 1))) ∧
    (∃ s : State, ∃ t : Nat, ∃ ifc : Iface, ∃ tag : Word, ∃ target : Word, ∃ pl : List Word, s.chip.takes t 0x0307 ifc tag target pl 0 ∧ s.chip.role = 0 ∧ (¬ (wordAt pl 0 % 16 ≠ 0 ∨ 2 ^ 22 < wordAt pl 0 + 4 * (pl.length - 1))) ∧ (s.chip.opState ≠ 0 ∧ s.chip.lockedBanks.any (fun e => overlap (wordAt pl 0) (4 * (pl.length - 1)) e.1 e.2) = true)) ∧
    (∃ s : State, ∃ t : Nat, ∃ ifc : Iface, ∃ tag : Word, ∃ target : Word, ∃ pl : List Word, s.chip.takes t 0x0307 ifc tag target pl 0 ∧ s.chip.role = 0 ∧ (¬ (wordAt pl 0 % 16 ≠ 0 ∨ 2 ^ 22 < wordAt pl 0 + 4 * (pl.length - 1))) ∧ (¬ (s.chip.opState ≠ 0 ∧ s.chip.lockedBanks.any (fun e => overlap (wordAt pl 0) (4 * (pl.length - 1)) e.1 e.2) = true))) ∧
    (∃ s : State, ∃ t : Nat, ∃ ifc : Iface, ∃ tag : Word, ∃ target : Word, ∃ pl : List Word, s.chip.takes t 0x0401 ifc tag target pl 0 ∧ (wordAt pl 0 = 0 ∨ 8 < wordAt pl 0)) ∧
    (∃ s : State, ∃ t : Nat, ∃ ifc : Iface, ∃ tag : Word, ∃ target : Word, ∃ pl : List Word, s.chip.takes t 0x0401 ifc tag target pl 0 ∧ 1 ≤ wordAt pl 0 ∧ wordAt pl 0 ≤ 8 ∧ parseSegs (s.chip.fNu target.toNat) (wordAt pl 0) (pl.drop 1) = none) :=
  ⟨⟨st (lk [(0xA800, 0x8000), (0x1000, 0x80000000)] w0), 0, Iface.spi, 0, 0, [0], takes_of (by decide +kernel), by decide +kernel⟩,
   ⟨(st w0), 0, Iface.spi, 0, 0, [0], takes_of (by decide +kernel), by decide +kernel⟩,
   ⟨st (lk [(0x1000, 0x80000000)] w0), 0, Iface.spi, 0, 0, [0], takes_of (by decide +kernel), by decide +kernel⟩,
   ⟨(st w0), 0, Iface.spi, 0, 0, [1, 1, 2, 3, 4], takes_of (by decide +kernel), by decide +kernel⟩,
   ⟨st (fs [(SYS_STATE__STATE, 2), (LCK_FSTAT__MODE 0, 1)] (lk [(0, 0x80000000), (4, 0x00010101), (0x1000, 0x80000000)] w0)), 0, Iface.spi, 0, 0, [0, 1, 2, 3, 4], takes_of (by decide +kernel), by decide +kernel⟩,
   ⟨(st w0), 0, Iface.spi, 0, 0, [0, 1, 2, 3, 4], takes_of (by decide +kernel), by decide +kernel⟩,
   ⟨(st w0), 0, Iface.spi, 0, 0, [0, 0], takes_of (by decide +kernel), by decide +kernel⟩,
   ⟨(st w0), 0, Iface.spi, 0, 0, [1, 0], takes_of (by decide +kernel), by decide +kernel⟩⟩

/-- States and operands that meet the hypotheses of `Obligations.BanksAndQueuesTakeTheirCommands`, part 2 of 2. -/
theorem test_met_BanksAndQueuesTakeTheirCommands_2 :
    (∃ s : State, ∃ t : Nat, ∃ ifc : Iface, ∃ tag : Word, ∃ target : Word, ∃ pl : List Word, ∃ l : List Seg, s.chip.takes t 0x0401 ifc tag target pl 0 ∧ parseSegs (s.chip.fNu target.toNat) (wordAt pl 0) (pl.drop 1) = some l ∧ 1 ≤ wordAt pl 0 ∧ wordAt pl 0 ≤ 8) ∧
    (∃ s : State, ∃ t : Nat, ∃ ifc : Iface, ∃ tag : Word, ∃ target : Word, ∃ pl : List Word, s.chip.takes t 0x0402 ifc tag target pl 0 ∧ s.chip.flag (LCK_SEGQ_CTL__QSRC target.toNat) = true) ∧
    (∃ s : State, ∃ t : Nat, ∃ ifc : Iface, ∃ tag : Word, ∃ target : Word, ∃ pl : List Word, s.chip.takes t 0x0402 ifc tag target pl 0 ∧ s.chip.flag (LCK_SEGQ_CTL__QSRC target.toNat) = false) :=
  ⟨⟨(st w0), 0, Iface.spi, 0, 0, 1 :: List.replicate 8 0, [Seg.make (List.replicate 8 0) []], takes_of (by decide +kernel), by decide +kernel⟩,
   ⟨sf [(LCK_SEGQ_CTL__QSRC 0, 1)], 0, Iface.spi, 0, 0, [], takes_of (by decide +kernel), by decide +kernel⟩,
   ⟨(st w0), 0, Iface.spi, 0, 0, [], takes_of (by decide +kernel), by decide +kernel⟩⟩

/-- States and operands that meet the hypotheses of `Obligations.ConfigurationWritesFollowTheirOwners`, part 1 of 2. -/
theorem test_met_ConfigurationWritesFollowTheirOwners_1 :
    (∃ s : State, ∃ t : Nat, ∃ ifc : Iface, ∃ tag : Word, ∃ target : Word, ∃ pl : List Word, s.chip.takes t 0x0105 ifc tag target pl 0 ∧ s.chip.role = 0 ∧ (wordAt pl 0 % 4 ≠ 0 ∨ 0x10000 ≤ wordAt pl 0)) ∧
    (∃ s : State, ∃ t : Nat, ∃ ifc : Iface, ∃ tag : Word, ∃ target : Word, ∃ pl : List Word, s.chip.takes t 0x0105 ifc tag target pl 0 ∧ s.chip.role = 0 ∧ (¬ (wordAt pl 0 % 4 ≠ 0 ∨ 0x10000 ≤ wordAt pl 0)) ∧ (wordAt pl 1 = 0 ∨ 1024 < wordAt pl 1 ∨ 0x10000 < wordAt pl 0 + 4 * wordAt pl 1)) ∧
    (∃ s : State, ∃ t : Nat, ∃ ifc : Iface, ∃ tag : Word, ∃ target : Word, ∃ pl : List Word, s.chip.takes t 0x0105 ifc tag target pl 0 ∧ s.chip.role = 0 ∧ (¬ (wordAt pl 0 % 4 ≠ 0 ∨ 0x10000 ≤ wordAt pl 0)) ∧ (¬ (wordAt pl 1 = 0 ∨ 1024 < wordAt pl 1 ∨ 0x10000 < wordAt pl 0 + 4 * wordAt pl 1))) ∧
    (∃ s : State, ∃ t : Nat, ∃ ifc : Iface, ∃ tag : Word, ∃ target : Word, ∃ pl : List Word, s.chip.takes t 0x0206 ifc tag target pl 0 ∧ s.chip.role = 0 ∧ (winAt (wordAt pl 0) = none ∨ wordAt pl 0 % 4 ≠ 0)) ∧
    (∃ s : State, ∃ t : Nat, ∃ ifc : Iface, ∃ tag : Word, ∃ target : Word, ∃ pl : List Word, ∃ w : Nat × Nat × Nat, s.chip.takes t 0x0206 ifc tag target pl 0 ∧ s.chip.role = 0 ∧ winAt (wordAt pl 0) = some w ∧ w.2.1 % 4 = 0 ∧ (wordAt pl 1 = 0 ∨ 1024 < wordAt pl 1 ∨ w.2.2 < w.2.1 + 4 * wordAt pl 1)) ∧
    (∃ s : State, ∃ t : Nat, ∃ ifc : Iface, ∃ tag : Word, ∃ target : Word, ∃ pl : List Word, ∃ w : Nat × Nat × Nat, s.chip.takes t 0x0206 ifc tag target pl 0 ∧ s.chip.role = 0 ∧ winAt (wordAt pl 0) = some w ∧ w.2.1 % 4 = 0 ∧ 1 ≤ wordAt pl 1 ∧ wordAt pl 1 ≤ 1024 ∧ w.2.1 + 4 * wordAt pl 1 ≤ w.2.2 ∧ s.chip.hst.stage.running = true) ∧
    (∃ s : State, ∃ t : Nat, ∃ ifc : Iface, ∃ tag : Word, ∃ target : Word, ∃ pl : List Word, ∃ w : Nat × Nat × Nat, s.chip.takes t 0x0206 ifc tag target pl 0 ∧ s.chip.role = 0 ∧ winAt (wordAt pl 0) = some w ∧ w.2.1 % 4 = 0 ∧ 1 ≤ wordAt pl 1 ∧ wordAt pl 1 ≤ 1024 ∧ w.2.1 + 4 * wordAt pl 1 ≤ w.2.2 ∧ s.chip.hst.stage.running = false ∧ w.1 = 1 ∧ s.chip.opState = 0) ∧
    (∃ s : State, ∃ t : Nat, ∃ ifc : Iface, ∃ tag : Word, ∃ target : Word, ∃ pl : List Word, ∃ w : Nat × Nat × Nat, s.chip.takes t 0x0206 ifc tag target pl 0 ∧ s.chip.role = 0 ∧ winAt (wordAt pl 0) = some w ∧ w.2.1 % 4 = 0 ∧ 1 ≤ wordAt pl 1 ∧ wordAt pl 1 ≤ 1024 ∧ w.2.1 + 4 * wordAt pl 1 ≤ w.2.2 ∧ s.chip.hst.stage.running = false ∧ (2 ≤ w.1 ∨ (w.1 = 1 ∧ s.chip.opState ≠ 0))) :=
  ⟨⟨(st w0), 0, Iface.spi, 0, 0, [1, 1, 0], takes_of (by decide +kernel), by decide +kernel⟩,
   ⟨(st w0), 0, Iface.spi, 0, 0, [0xFFFC, 2, 0, 0], takes_of (by decide +kernel), by decide +kernel⟩,
   ⟨(st w0), 0, Iface.spi, 0, 0, [0, 1, 0], takes_of (by decide +kernel), by decide +kernel⟩,
   ⟨(st w0), 0, Iface.spi, 0, 0, [0, 1, 5], takes_of (by decide +kernel), by decide +kernel⟩,
   ⟨(st w0), 0, Iface.spi, 0, 0, [0x10FFFC, 2, 0, 0], (0, 0xFFFC, 0x10000), takes_of (by decide +kernel), by decide +kernel⟩,
   ⟨st (sg { Staging.init with running := true } w0), 0, Iface.spi, 0, 0, [0x100000, 1, 0], (0, 0, 0x10000), takes_of (by decide +kernel), by decide +kernel⟩,
   ⟨(st w0), 0, Iface.spi, 0, 0, [0x1000000, 1, 0], (1, 0, 0x400000), takes_of (by decide +kernel), by decide +kernel⟩,
   ⟨(st w0), 0, Iface.spi, 0, 0, [0x300000, 1, 0], (2, 0, 0x20000), takes_of (by decide +kernel), by decide +kernel⟩⟩

/-- States and operands that meet the hypotheses of `Obligations.ConfigurationWritesFollowTheirOwners`, part 2 of 2. -/
theorem test_met_ConfigurationWritesFollowTheirOwners_2 :
    (∃ s : State, ∃ t : Nat, ∃ ifc : Iface, ∃ tag : Word, ∃ target : Word, ∃ pl : List Word, ∃ w : Nat × Nat × Nat, s.chip.takes t 0x0206 ifc tag target pl 0 ∧ s.chip.role = 0 ∧ winAt (wordAt pl 0) = some w ∧ w.2.1 % 4 = 0 ∧ 1 ≤ wordAt pl 1 ∧ wordAt pl 1 ≤ 1024 ∧ w.2.1 + 4 * wordAt pl 1 ≤ w.2.2 ∧ s.chip.hst.stage.running = false ∧ w.1 = 0 ∧ wordAt pl 1 = 1 ∧ (¬ (0x1000 ≤ w.2.1 ∧ w.2.1 < 0x1800)) ∧ s.chip.dryOrMoored = true) ∧
    (∃ s : State, ∃ t : Nat, ∃ ifc : Iface, ∃ tag : Word, ∃ target : Word, ∃ pl : List Word, ∃ w : Nat × Nat × Nat, s.chip.takes t 0x0206 ifc tag target pl 0 ∧ s.chip.role = 0 ∧ winAt (wordAt pl 0) = some w ∧ w.2.1 % 4 = 0 ∧ 1 ≤ wordAt pl 1 ∧ wordAt pl 1 ≤ 1024 ∧ w.2.1 + 4 * wordAt pl 1 ≤ w.2.2 ∧ s.chip.hst.stage.running = false ∧ w.1 = 0 ∧ wordAt pl 1 = 1 ∧ (¬ (0x1000 ≤ w.2.1 ∧ w.2.1 < 0x1800)) ∧ s.chip.dryOrMoored = false) ∧
    (∃ s : State, ∃ t : Nat, ∃ ifc : Iface, ∃ tag : Word, ∃ target : Word, ∃ pl : List Word, s.chip.takes t 0x0D02 ifc tag target pl 0 ∧ lkpWrite (LKP_CLS_TB target.toNat) (wordAt pl 0) = none) ∧
    (∃ s : State, ∃ t : Nat, ∃ ifc : Iface, ∃ tag : Word, ∃ target : Word, ∃ pl : List Word, s.chip.takes t 0x0D02 ifc tag target pl 0 ∧ lkpWrite (LKP_CLS_TB target.toNat) (wordAt pl 0) ≠ none ∧ lkpWrite (LKP_CLS_EB target.toNat) (wordAt pl 1) = none) ∧
    (∃ s : State, ∃ t : Nat, ∃ ifc : Iface, ∃ tag : Word, ∃ target : Word, ∃ pl : List Word, s.chip.takes t 0x0D02 ifc tag target pl 0 ∧ lkpWrite (LKP_CLS_TB target.toNat) (wordAt pl 0) ≠ none ∧ lkpWrite (LKP_CLS_EB target.toNat) (wordAt pl 1) ≠ none) :=
  ⟨⟨(st w0), 0, Iface.spi, 0, 0, [0x100000, 1, 0], (0, 0, 0x10000), takes_of (by decide +kernel), by decide +kernel⟩,
   ⟨sf [(SYS_STATE__STATE, 2)], 0, Iface.spi, 0, 0, [0x100000, 1, 0], (0, 0, 0x10000), takes_of (by decide +kernel), by decide +kernel⟩,
   ⟨(st w0), 0, Iface.spi, 0, 0, [5, 5], takes_of (by decide +kernel), by decide +kernel⟩,
   ⟨(st w0), 0, Iface.spi, 0, 0, [80000, 5], takes_of (by decide +kernel), by decide +kernel⟩,
   ⟨(st w0), 0, Iface.spi, 0, 0, [80000, 50000], takes_of (by decide +kernel), by decide +kernel⟩⟩

/-- States and operands that meet the hypotheses of `Obligations.StateAndTwinChangesWaitForABoundary`. -/
theorem test_met_StateAndTwinChangesWaitForABoundary :
    (∃ s : State, ∃ t : Nat, ∃ ifc : Iface, ∃ tag : Word, ∃ target : Word, ∃ pl : List Word, s.chip.takes t 0x0102 ifc tag target pl 0 ∧ target.toNat = s.chip.opState) ∧
    (∃ s : State, ∃ t : Nat, ∃ ifc : Iface, ∃ tag : Word, ∃ target : Word, ∃ pl : List Word, s.chip.takes t 0x0102 ifc tag target pl 0 ∧ target.toNat ≠ s.chip.opState ∧ s.chip.stateAllowed target.toNat = true ∧ s.chip.pnd.request.isSome = true) ∧
    (∃ s : State, ∃ t : Nat, ∃ ifc : Iface, ∃ tag : Word, ∃ target : Word, ∃ pl : List Word, s.chip.takes t 0x0102 ifc tag target pl 0 ∧ target.toNat ≠ s.chip.opState ∧ s.chip.stateAllowed target.toNat = false) ∧
    (∃ s : State, ∃ t : Nat, ∃ ifc : Iface, ∃ tag : Word, ∃ target : Word, ∃ pl : List Word, s.chip.takes t 0x0102 ifc tag target pl 0 ∧ target.toNat ≠ s.chip.opState ∧ s.chip.pnd.request = none ∧ s.chip.stateAllowed target.toNat = true ∧ s.chip.opState = 0 ∧ s.chip.flag AQU_CFG__TWIN_EN = true ∧ s.chip.longFree 0x0102 0 = true) ∧
    (∃ s : State, ∃ t : Nat, ∃ ifc : Iface, ∃ tag : Word, ∃ target : Word, ∃ pl : List Word, s.chip.takes t 0x0102 ifc tag target pl 0 ∧ target.toNat ≠ s.chip.opState ∧ s.chip.pnd.request = none ∧ s.chip.stateAllowed target.toNat = true ∧ (¬ (s.chip.opState = 0 ∧ s.chip.flag AQU_CFG__TWIN_EN = true))) ∧
    (∃ s : State, ∃ i : Instr, ∃ h : HostCall, s.chip.takes h.t h.op h.ifc h.tag h.target h.pl 0 ∧ hostCall i = some h ∧ h.op ∈ [0x0206, 0x0307, 0x0901, 0x0902] ∧ s.chip.role = 1 ∧ s.chip.longFree h.op 0 = true ∧ (changeBody h.op (s.chip.taken h.t h.op h.ifc h.tag h.target h.pl) (s.chip.takeIntake h.op h.ifc h.tag h.target h.pl).2).2 = .now stOK 0 []) :=
  ⟨⟨(st w0), 0, Iface.spi, 0, 0, [], takes_of (by decide +kernel), by decide +kernel⟩,
   ⟨st ((fun c => { c with pnd := { c.pnd with request := some ⟨2, 0, none⟩ } }) (sg { Staging.init with loaded := true } ((fun c => { c with weir := { c.weir with confV := true } }) w0))), 0, Iface.spi, 0, 1, [], takes_of (by decide +kernel), by decide +kernel⟩,
   ⟨(st w0), 0, Iface.spi, 0, 2, [], takes_of (by decide +kernel), by decide +kernel⟩,
   ⟨st (fs [(AQU_CFG__TWIN_EN, 1)] (sg { Staging.init with loaded := true } ((fun c => { c with weir := { c.weir with confV := true } }) w0))), 0, Iface.spi, 0, 1, [], takes_of (by decide +kernel), by decide +kernel⟩,
   ⟨st (sg { Staging.init with loaded := true } ((fun c => { c with weir := { c.weir with confV := true } }) w0)), 0, Iface.spi, 0, 1, [], takes_of (by decide +kernel), by decide +kernel⟩,
   ⟨sf [(AQU_ROLE__ROLE, 1)], Instr.cfgWrite 0 .spi 0 0 [0x100000, 1, 0], ⟨0, 0x0206, .spi, 0, 0, [0x100000, 1, 0]⟩, takes_of (by decide +kernel), by decide +kernel⟩⟩

/-- States and operands that meet the hypotheses of `Obligations.ChainageIsSetOnlyAtRest`, part 1 of 2. -/
theorem test_met_ChainageIsSetOnlyAtRest_1 :
    (∃ s : State, ∃ t : Nat, ∃ ifc : Iface, ∃ tag : Word, ∃ target : Word, ∃ pl : List Word, s.chip.takes t 0x0503 ifc tag target pl 0 ∧ (wordAt pl 0 + bits (wordAt pl 1) 15 0 * 2 ^ 32) % 2 ^ s.chip.fld POS_CHN_HO__HO_SH ≠ 0) ∧
    (∃ s : State, ∃ t : Nat, ∃ ifc : Iface, ∃ tag : Word, ∃ target : Word, ∃ pl : List Word, s.chip.takes t 0x0503 ifc tag target pl 0 ∧ (wordAt pl 0 + bits (wordAt pl 1) 15 0 * 2 ^ 32) % 2 ^ s.chip.fld POS_CHN_HO__HO_SH = 0 ∧ (s.chip.dryOrMoored = false ∨ s.chip.flag POS_CHN_CFG__EN = false)) ∧
    (∃ s : State, ∃ t : Nat, ∃ ifc : Iface, ∃ tag : Word, ∃ target : Word, ∃ pl : List Word, s.chip.takes t 0x0503 ifc tag target pl 0 ∧ (wordAt pl 0 + bits (wordAt pl 1) 15 0 * 2 ^ 32) % 2 ^ s.chip.fld POS_CHN_HO__HO_SH = 0 ∧ s.chip.dryOrMoored = true ∧ s.chip.flag POS_CHN_CFG__EN = true ∧ s.chip.manEmpty = false) ∧
    (∃ s : State, ∃ t : Nat, ∃ ifc : Iface, ∃ tag : Word, ∃ target : Word, ∃ pl : List Word, s.chip.takes t 0x0503 ifc tag target pl 0 ∧ (wordAt pl 0 + bits (wordAt pl 1) 15 0 * 2 ^ 32) % 2 ^ s.chip.fld POS_CHN_HO__HO_SH = 0 ∧ s.chip.dryOrMoored = true ∧ s.chip.flag POS_CHN_CFG__EN = true ∧ s.chip.manEmpty = true) ∧
    (∃ s : State, ∃ t : Nat, ∃ ifc : Iface, ∃ v : Word, s.chip.ready t ∧ s.chip.serves ifc = true ∧ (s.chip.dryOrMoored = false ∨ (v.toNat.testBit 31 ≠ s.chip.flag POS_CHN_CFG__EN ∧ (s.chip.manEmpty = false ∨ s.chip.chainSegs = true)))) ∧
    (∃ s : State, ∃ t : Nat, ∃ ifc : Iface, ∃ v : Word, s.chip.ready t ∧ s.chip.serves ifc = true ∧ s.chip.dryOrMoored = true ∧ v.toNat.testBit 31 = true ∧ s.chip.flag POS_CHN_CFG__EN = false ∧ s.chip.manEmpty = true ∧ s.chip.chainSegs = false) ∧
    (∃ s : State, ∃ t : Nat, ∃ ifc : Iface, ∃ v : Word, s.chip.ready t ∧ s.chip.serves ifc = true ∧ s.chip.dryOrMoored = true ∧ v.toNat.testBit 31 = false ∧ s.chip.flag POS_CHN_CFG__EN = true ∧ s.chip.manEmpty = true ∧ s.chip.chainSegs = false) ∧
    (∃ s : State, ∃ t : Nat, ∃ ifc : Iface, ∃ v : Word, s.chip.ready t ∧ s.chip.serves ifc = true ∧ (s.chip.dryOrMoored = false ∨ 24 < bits v.toNat 20 16)) :=
  ⟨⟨sf [(POS_CHN_HO__HO_SH, 1)], 0, Iface.spi, 0, 0, [1, 0], takes_of (by decide +kernel), by decide +kernel⟩,
   ⟨(st w0), 0, Iface.spi, 0, 0, [0, 0], takes_of (by decide +kernel), by decide +kernel⟩,
   ⟨st (fs [(POS_CHN_CFG__EN, 1)] ((fun c => { c with man := { c.man with armed := [⟨0, 0, List.replicate 8 0, 0, none⟩] } }) w0)), 0, Iface.spi, 0, 0, [0, 0], takes_of (by decide +kernel), by decide +kernel⟩,
   ⟨sf [(POS_CHN_CFG__EN, 1)], 0, Iface.spi, 0, 0, [0, 0], takes_of (by decide +kernel), by decide +kernel⟩,
   ⟨sf [(SYS_STATE__STATE, 2)], 0, Iface.spi, 0, ⟨rfl, by decide +kernel⟩, by decide +kernel⟩,
   ⟨(st w0), 0, Iface.spi, 0x80000000, ⟨rfl, by decide +kernel⟩, by decide +kernel⟩,
   ⟨sf [(POS_CHN_CFG__EN, 1)], 0, Iface.spi, 0, ⟨rfl, by decide +kernel⟩, by decide +kernel⟩,
   ⟨sf [(SYS_STATE__STATE, 2)], 0, Iface.spi, 0, ⟨rfl, by decide +kernel⟩, by decide +kernel⟩⟩

/-- States and operands that meet the hypotheses of `Obligations.ChainageIsSetOnlyAtRest`, part 2 of 2. -/
theorem test_met_ChainageIsSetOnlyAtRest_2 :
    (∃ s : State, ∃ t : Nat, ∃ ifc : Iface, ∃ v : Word, s.chip.ready t ∧ s.chip.serves ifc = true ∧ s.chip.dryOrMoored = true ∧ bits v.toNat 20 16 ≤ 24) ∧
    (∃ s : State, ∃ t : Nat, s.chip.ready t ∧ s.chip.stillDue = true) ∧
    (∃ s : State, ∃ t : Nat, s.chip.ready t ∧ s.chip.stillDue = false) ∧
    (∃ s : State, ∃ t : Nat, s.chip.ready t ∧ s.chip.flag POS_CHN_CFG__EN = true) ∧
    (∃ s : State, ∃ t : Nat, s.chip.ready t ∧ s.chip.flag POS_CHN_CFG__EN = false) :=
  ⟨⟨(st w0), 0, Iface.spi, 0, ⟨rfl, by decide +kernel⟩, by decide +kernel⟩,
   ⟨st (fs [(POS_CHN_CFG__EN, 1)] ((fun c => { c with pf := { c.pf with chain := { c.pf.chain with quiet := 100000 } } }) w0)), 0, ⟨rfl, by decide +kernel⟩, by decide +kernel⟩,
   ⟨(st w0), 0, ⟨rfl, by decide +kernel⟩, by decide +kernel⟩,
   ⟨sf [(POS_CHN_CFG__EN, 1)], 0, ⟨rfl, by decide +kernel⟩, by decide +kernel⟩,
   ⟨(st w0), 0, ⟨rfl, by decide +kernel⟩, by decide +kernel⟩⟩

/-- States and operands that meet the hypotheses of `Obligations.ManifestEntriesFireInOrder`, part 1 of 2. -/
theorem test_met_ManifestEntriesFireInOrder_1 :
    (∃ s : State, ∃ t : Nat, ∃ ifc : Iface, ∃ tag : Word, ∃ target : Word, ∃ pl : List Word, s.chip.takes t 0x0501 ifc tag target pl 32 ∧ s.chip.opState ≠ 0 ∧ 1 ≤ wordAt pl 0 ∧ wordAt pl 0 ≤ 64 ∧ (∀ i < wordAt pl 0, manBad ((pl.drop (1 + 8 * i)).take 8) = none) ∧ s.chip.man.armed.length + s.chip.man.waiting.length + wordAt pl 0 ≤ 4096) ∧
    (∃ s : State, ∃ t : Nat, ∃ ifc : Iface, ∃ tag : Word, ∃ target : Word, ∃ pl : List Word, s.chip.takes t 0x0501 ifc tag target pl 0 ∧ s.chip.opState = 0 ∧ 1 ≤ wordAt pl 0 ∧ wordAt pl 0 ≤ 64 ∧ (∀ i < wordAt pl 0, manBad ((pl.drop (1 + 8 * i)).take 8) = none)) ∧
    (∃ s : State, ∃ t : Nat, ∃ ifc : Iface, ∃ tag : Word, ∃ target : Word, ∃ pl : List Word, s.chip.takes t 0x0501 ifc tag target pl 0 ∧ s.chip.opState ≠ 0 ∧ 1 ≤ wordAt pl 0 ∧ wordAt pl 0 ≤ 64 ∧ (∀ i < wordAt pl 0, manBad ((pl.drop (1 + 8 * i)).take 8) = none) ∧ 4096 < s.chip.man.armed.length + s.chip.man.waiting.length + wordAt pl 0) ∧
    (∃ s : State, ∃ t : Nat, ∃ ifc : Iface, ∃ tag : Word, ∃ target : Word, ∃ pl : List Word, ∃ j : Nat, s.chip.takes t 0x0501 ifc tag target pl 0 ∧ 1 ≤ wordAt pl 0 ∧ manBad ((pl.drop 1).take 8) = some j) ∧
    (∃ s : State, ∃ t : Nat, s.chip.ready t ∧ (s.chip.man.waiting = [] ∨ s.chip.drives = false)) ∧
    (∃ s : State, ∃ t : Nat, ∃ e : ManEntry, ∃ rest : List ManEntry, s.chip.ready t ∧ s.chip.man.waiting = e :: rest ∧ s.chip.drives = true ∧ (s.chip.at t).tb5 < e.key) ∧
    (∃ s : State, ∃ t : Nat, ∃ e : ManEntry, ∃ rest : List ManEntry, s.chip.ready t ∧ s.chip.man.waiting = e :: rest ∧ s.chip.drives = true ∧ e.key ≤ (s.chip.at t).tb5) ∧
    (∃ s : State, ∃ t : Nat, s.chip.ready t ∧ (s.chip.drives = false ∨ s.chip.man.armed = [] ∨ (∃ e, s.chip.man.armed.head? = some e ∧ (s.chip.at t).tb5 < e.key) ∨ (s.chip.man.fireT = t ∧ 8 ≤ s.chip.man.fireN))) :=
  ⟨⟨sf [(SYS_STATE__STATE, 1)], 0, Iface.spi, 0, 0, 1 :: List.replicate 8 0, takes_of (by decide +kernel), by decide +kernel⟩,
   ⟨(st w0), 0, Iface.spi, 0, 0, 1 :: List.replicate 8 0, takes_of (by decide +kernel), by decide +kernel⟩,
   ⟨st (fs [(SYS_STATE__STATE, 1)] ((fun c => { c with man := { c.man with armed := List.replicate 4096 ⟨0, 0, List.replicate 8 0, 0, none⟩ } }) w0)), 0, Iface.spi, 0, 0, 1 :: List.replicate 8 0, takes_of (by decide +kernel), by decide +kernel⟩,
   ⟨(st w0), 0, Iface.spi, 0, 0, [1, 0, 0, 0, 0x08000000, 0, 0, 0, 0], 3, takes_of (by decide +kernel), by decide +kernel⟩,
   ⟨(st w0), 0, ⟨rfl, by decide +kernel⟩, by decide +kernel⟩,
   ⟨st ((fun c => { c with man := { c.man with waiting := [⟨0, 0, [1, 0, 0, 0, 0, 0, 0, 0], 0, none⟩] } }) w0), 0, ⟨0, 0, [1, 0, 0, 0, 0, 0, 0, 0], 0, none⟩, [], ⟨rfl, by decide +kernel⟩, by decide +kernel⟩,
   ⟨st ((fun c => { c with man := { c.man with waiting := [⟨0, 0, List.replicate 8 0, 0, none⟩] } }) w0), 0, ⟨0, 0, List.replicate 8 0, 0, none⟩, [], ⟨rfl, by decide +kernel⟩, by decide +kernel⟩,
   ⟨(st w0), 0, ⟨rfl, by decide +kernel⟩, by decide +kernel⟩⟩

/-- States and operands that meet the hypotheses of `Obligations.ManifestEntriesFireInOrder`, part 2 of 2. -/
theorem test_met_ManifestEntriesFireInOrder_2 :
    (∃ s : State, ∃ t : Nat, ∃ e : ManEntry, ∃ rest : List ManEntry, s.chip.ready t ∧ s.chip.man.armed = e :: rest ∧ s.chip.drives = true ∧ e.key ≤ (s.chip.at t).tb5 ∧ (¬ (s.chip.man.fireT = t ∧ 8 ≤ s.chip.man.fireN))) ∧
    (∃ s : State, ∃ i : Fin 8, ∃ w : Nat, s.chip.boot.phase = .run ∧ tabGet (fun _ => none) s.chip.man.falls i.val = some w) ∧
    (∃ s : State, ∃ t : Nat, ∃ ifc : Iface, ∃ tag : Word, ∃ target : Word, ∃ pl : List Word, s.chip.takes t 0x0502 ifc tag target pl 0 ∧ (¬ (2 < wordAt pl 0)) ∧ (¬ (wordAt pl 0 = 0 ∧ ∀ e ∈ s.chip.man.armed ++ s.chip.man.waiting, e.handle ≠ wordAt pl 1 % 2 ^ 16))) ∧
    (∃ s : State, ∃ t : Nat, ∃ ifc : Iface, ∃ tag : Word, ∃ target : Word, ∃ pl : List Word, s.chip.takes t 0x0502 ifc tag target pl 0 ∧ 2 < wordAt pl 0) ∧
    (∃ s : State, ∃ t : Nat, ∃ ifc : Iface, ∃ tag : Word, ∃ target : Word, ∃ pl : List Word, s.chip.takes t 0x0502 ifc tag target pl 0 ∧ wordAt pl 0 = 0 ∧ (∀ e ∈ s.chip.man.armed ++ s.chip.man.waiting, e.handle ≠ wordAt pl 1 % 2 ^ 16)) ∧
    (∃ s : State, ∃ t : Nat, ∃ x : ManCancel, ∃ rest : List ManCancel, s.chip.ready t ∧ s.chip.man.cancels = x :: rest ∧ s.chip.drives = false) ∧
    (∃ s : State, ∃ t : Nat, ∃ x : ManCancel, ∃ rest : List ManCancel, s.chip.ready t ∧ s.chip.man.cancels = x :: rest) ∧
    (∃ s : State, ∃ t : Nat, s.chip.ready t ∧ s.chip.man.cancels = []) :=
  ⟨⟨st ((fun c => { c with man := { c.man with armed := [⟨0, 0, List.replicate 8 0, 0, none⟩] } }) w0), 0, ⟨0, 0, List.replicate 8 0, 0, none⟩, [], ⟨rfl, by decide +kernel⟩, by decide +kernel⟩,
   ⟨st ((fun c => { c with man := { c.man with falls := [(0, some 5)] } }) w0), 0, 5, by decide +kernel⟩,
   ⟨(st w0), 0, Iface.spi, 0, 0, [1, 0, 0], takes_of (by decide +kernel), by decide +kernel⟩,
   ⟨(st w0), 0, Iface.spi, 0, 0, [3, 0, 0], takes_of (by decide +kernel), by decide +kernel⟩,
   ⟨(st w0), 0, Iface.spi, 0, 0, [0, 1, 0], takes_of (by decide +kernel), by decide +kernel⟩,
   ⟨st ((fun c => { c with man := { c.man with cancels := [⟨0, 0, 0, ⟨0x0502, 0, 0, [], og, .command⟩⟩] } }) (fs [(AQU_ROLE__ROLE, 2)] w0)), 0, ⟨0, 0, 0, ⟨0x0502, 0, 0, [], og, .command⟩⟩, [], ⟨rfl, by decide +kernel⟩, by decide +kernel⟩,
   ⟨st ((fun c => { c with man := { c.man with cancels := [⟨0, 0, 0, ⟨0x0502, 0, 0, [], og, .command⟩⟩] } }) w0), 0, ⟨0, 0, 0, ⟨0x0502, 0, 0, [], og, .command⟩⟩, [], ⟨rfl, by decide +kernel⟩, by decide +kernel⟩,
   ⟨(st w0), 0, ⟨rfl, by decide +kernel⟩, by decide +kernel⟩⟩

/-- States and operands that meet the hypotheses of `Obligations.WorkersTakeEntriesUnderTheHead`, part 1 of 2. -/
theorem test_met_WorkersTakeEntriesUnderTheHead_1 :
    (∃ s : State, ∃ t : Nat, s.chip.ready t) ∧
    (∃ s : State, ∃ t : Nat, ∃ k : Fin 10, s.chip.ready t ∧ (s.chip.at t).gated k.val = true ∧ tabGet (fun _ => false) s.chip.lkp.gatedNow k.val = false) ∧
    (∃ s : State, ∃ t : Nat, ∃ k : Fin 10, s.chip.ready t ∧ ((s.chip.at t).gated k.val = false ∨ tabGet (fun _ => false) s.chip.lkp.gatedNow k.val = true)) ∧
    (∃ s : State, ∃ t : Nat, ∃ k : Fin 64, ∃ x : ChainRun, s.chip.ready t ∧ s.chip.run k.val = some x ∧ x.latched = true ∧ ((s.chip.at t).list 1 ((s.chip.at t).chEntry k.val x.deadline none).prio).length < 256) ∧
    (∃ s : State, ∃ t : Nat, ∃ k : Fin 64, ∃ x : ChainRun, s.chip.ready t ∧ s.chip.run k.val = some x ∧ (x.latched = false ∨ 256 ≤ (s.chip.list 1 (s.chip.chEntry k.val x.deadline none).prio).length)) ∧
    (∃ s : State, ∃ t : Nat, ∃ k : Fin 70, s.chip.ready t ∧ (∀ i ≤ k.val, workerClass i = workerClass k.val → ((s.chip.at t).workersOf (workerClass k.val) i).any (s.chip.at t).pairsEnd.busyOn = true)) ∧
    (∃ s : State, ∃ t : Nat, ∃ k : Fin 70, ∃ e : Entry, ∃ rest : List Entry, ∃ n : Nat, s.chip.ready t ∧ workerClass k.val = 0 ∧ (∀ i < k.val, workerClass i = 0 → ((s.chip.at t).workersOf 0 i).any (s.chip.at t).pairsEnd.busyOn = true) ∧ ((s.chip.at t).workersOf 0 k.val).any (s.chip.at t).pairsEnd.busyOn = false ∧ ((s.chip.at t).pairsEnd.dispatchOrder 0).dropWhile (fun x => !(s.chip.at t).pairsEnd.entryLate x && ((s.chip.at t).pairsEnd.gated x.cls || !(s.chip.at t).pairsEnd.kindOk k.val x)) = e :: rest ∧ (s.chip.at t).pairsEnd.entryLate e = false ∧ e.work = .job n) ∧
    (∃ s : State, ∃ t : Nat, ∃ k : Fin 70, ∃ e : Entry, ∃ rest : List Entry, ∃ n : Nat, s.chip.ready t ∧ workerClass k.val = 1 ∧ (∀ i < k.val, workerClass i = 1 → ((s.chip.at t).workersOf 1 i).any (s.chip.at t).pairsEnd.busyOn = true) ∧ ((s.chip.at t).workersOf 1 k.val).any (s.chip.at t).pairsEnd.busyOn = false ∧ ((s.chip.at t).pairsEnd.dispatchOrder 1).dropWhile (fun x => !(s.chip.at t).pairsEnd.entryLate x && ((s.chip.at t).pairsEnd.gated x.cls || !(s.chip.at t).pairsEnd.kindOk k.val x)) = e :: rest ∧ (s.chip.at t).pairsEnd.entryLate e = false ∧ e.work = .chain n) :=
  ⟨⟨(st w0), 0, ⟨rfl, by decide +kernel⟩⟩,
   ⟨st ((fun c => { c with lkp := { c.lkp with tUsed := [(1, 1000000000)] } }) w0), 0, 1, ⟨rfl, by decide +kernel⟩, by decide +kernel⟩,
   ⟨(st w0), 0, 0, ⟨rfl, by decide +kernel⟩, by decide +kernel⟩,
   ⟨st (cr 0 (rn true false none) w0), 0, 0, rn true false none, ⟨rfl, by decide +kernel⟩, by decide +kernel⟩,
   ⟨st (cr 0 (rn false false none) w0), 0, 0, rn false false none, ⟨rfl, by decide +kernel⟩, by decide +kernel⟩,
   ⟨st ((fun c => { c with lkp := { c.lkp with running := [(0, ⟨0, .job 0, 0, 0, none⟩)] } }) w0), 0, 0, ⟨rfl, by decide +kernel⟩, by decide +kernel⟩,
   ⟨st (fs [(SYS_STATE__STATE, 1)] (rl 0 [⟨0, 0, none, .job 0, 0, .firmware⟩] (bj 0 (jb [0, 1, 0x10001] false false [] [] [] 2 1000000) w0))), 0, 0, ⟨0, 0, none, .job 0, 0, .firmware⟩, [], 0, ⟨rfl, by decide +kernel⟩, by decide +kernel⟩,
   ⟨st (rl 8 [⟨0, 0, none, .chain 0, 0, .firmware⟩] w0), 0, 64, ⟨0, 0, none, .chain 0, 0, .firmware⟩, [], 0, ⟨rfl, by decide +kernel⟩, by decide +kernel⟩⟩

/-- States and operands that meet the hypotheses of `Obligations.WorkersTakeEntriesUnderTheHead`, part 2 of 2. -/
theorem test_met_WorkersTakeEntriesUnderTheHead_2 :
    (∃ s : State, ∃ t : Nat, ∃ k : Fin 70, ∃ e : Entry, ∃ rest : List Entry, s.chip.ready t ∧ workerClass k.val = 2 ∧ (∀ i < k.val, workerClass i = 2 → ((s.chip.at t).workersOf 2 i).any (s.chip.at t).pairsEnd.busyOn = true) ∧ ((s.chip.at t).workersOf 2 k.val).any (s.chip.at t).pairsEnd.busyOn = false ∧ ((s.chip.at t).pairsEnd.dispatchOrder 2).dropWhile (fun x => !(s.chip.at t).pairsEnd.entryLate x && ((s.chip.at t).pairsEnd.gated x.cls || !(s.chip.at t).pairsEnd.kindOk k.val x)) = e :: rest ∧ (s.chip.at t).pairsEnd.entryLate e = false) ∧
    (∃ s : State, ∃ t : Nat, ∃ k : Fin 70, s.chip.ready t ∧ (∀ i ≤ k.val, workerClass i = workerClass k.val → ((s.chip.at t).pairsEnd.dispatchOrder (workerClass k.val)).any (fun x => (s.chip.at t).pairsEnd.entryLate x || (!(s.chip.at t).pairsEnd.gated x.cls && (s.chip.at t).pairsEnd.kindOk i x)) = false)) ∧
    (∃ s : State, ∃ t : Nat, ∃ k : Fin 70, ∃ e : Entry, s.chip.ready t ∧ s.chip.dispatchOrder (workerClass k.val) = [e] ∧ ((s.chip.at t).workersOf (workerClass k.val) k.val).any (s.chip.at t).pairsEnd.busyOn = false ∧ (match e.work with | .job _ => workerClass k.val = 0 | .chain _ => workerClass k.val = 1 | _ => workerClass k.val = 2) ∧ (s.chip.at t).pairsEnd.entryLate e = true) :=
  ⟨⟨st (rl 16 [⟨0, 0, none, .gauge, 0, .firmware⟩] w0), 0, 68, ⟨0, 0, none, .gauge, 0, .firmware⟩, [], ⟨rfl, by decide +kernel⟩, by decide +kernel⟩,
   ⟨(st w0), 0, 0, ⟨rfl, by decide +kernel⟩, by decide +kernel⟩,
   ⟨st (rl 0 [⟨0, 0, none, .job 0, 0, .firmware⟩] w0), 0, 0, ⟨0, 0, none, .job 0, 0, .firmware⟩, ⟨rfl, by decide +kernel⟩, by decide +kernel⟩⟩

/-- States and operands that meet the hypotheses of `Obligations.BasinJobsEndWithTheirStatus`, part 1 of 3. -/
theorem test_met_BasinJobsEndWithTheirStatus_1 :
    (∃ s : State, ∃ t : Nat, ∃ n : Fin 256, s.chip.ready t ∧ s.chip.job n.val = none) ∧
    (∃ s : State, ∃ t : Nat, ∃ n : Fin 256, ∃ f : JobFault, ∃ j : Job, s.chip.ready t ∧ s.chip.job n.val = some j ∧ (j.running = false ∨ (jKind j.d = 5 ∧ f ≠ .uncorrectable ∧ j.fail = none ∧ (j.facDone = true ∨ (s.chip.qpFac j).finite = true)))) ∧
    (∃ s : State, ∃ t : Nat, ∃ n : Fin 256, ∃ j : Job, s.chip.ready t ∧ s.chip.job n.val = some j ∧ j.running = true) ∧
    (∃ s : State, ∃ t : Nat, ∃ n : Fin 256, ∃ f : JobFault, ∃ j : Job, s.chip.ready t ∧ s.chip.job n.val = some j ∧ j.running = true ∧ f ≠ .uncorrectable ∧ jKind j.d ≤ 4) ∧
    (∃ s : State, ∃ t : Nat, ∃ n : Fin 256, ∃ f : JobFault, ∃ j : Job, s.chip.ready t ∧ s.chip.job n.val = some j ∧ j.running = true ∧ f ≠ .uncorrectable ∧ jKind j.d = 6) ∧
    (∃ s : State, ∃ t : Nat, ∃ n : Fin 256, ∃ f : JobFault, ∃ j : Job, s.chip.ready t ∧ s.chip.job n.val = some j ∧ j.running = true ∧ f ≠ .uncorrectable ∧ jKind j.d = 7) ∧
    (∃ s : State, ∃ t : Nat, ∃ n : Fin 256, ∃ f : JobFault, ∃ j : Job, ∃ r : Nat, s.chip.ready t ∧ s.chip.job n.val = some j ∧ j.running = true ∧ f ≠ .uncorrectable ∧ jKind j.d = 5 ∧ j.fail = some r ∧ r < 16) ∧
    (∃ s : State, ∃ t : Nat, ∃ n : Fin 256, ∃ f : JobFault, ∃ j : Job, s.chip.ready t ∧ s.chip.job n.val = some j ∧ j.running = true ∧ f ≠ .uncorrectable ∧ jKind j.d = 5 ∧ j.fail = none ∧ j.facDone = false ∧ (s.chip.qpFac j).finite = false) :=
  ⟨⟨(st w0), 0, 0, ⟨rfl, by decide +kernel⟩, by decide +kernel⟩,
   ⟨st (bj 0 (jb [0x00000000] false false [] [] [] 2 1000000) w0), 0, 0, JobFault.none, (jb [0x00000000] false false [] [] [] 2 1000000), ⟨rfl, by decide +kernel⟩, by decide +kernel⟩,
   ⟨st (bj 0 (jb [0x00000000] true false [] [] [] 2 1000000) w0), 0, 0, (jb [0x00000000] true false [] [] [] 2 1000000), ⟨rfl, by decide +kernel⟩, by decide +kernel⟩,
   ⟨st (bj 0 (jb [0x00000000] true false [] [] [] 2 1000000) w0), 0, 0, JobFault.none, (jb [0x00000000] true false [] [] [] 2 1000000), ⟨rfl, by decide +kernel⟩, by decide +kernel⟩,
   ⟨st (bj 0 (jb [0x60000000] true false [] [] [] 2 1000000) w0), 0, 0, JobFault.none, (jb [0x60000000] true false [] [] [] 2 1000000), ⟨rfl, by decide +kernel⟩, by decide +kernel⟩,
   ⟨st (bj 0 (jb [0x70000000] true false [] [] [] 2 1000000) w0), 0, 0, JobFault.none, (jb [0x70000000] true false [] [] [] 2 1000000), ⟨rfl, by decide +kernel⟩, by decide +kernel⟩,
   ⟨st (bj 0 ({ (jb [0x50000000] true false [] [] [] 2 1000000) with fail := some 3 } : Job) w0), 0, 0, JobFault.none, { (jb [0x50000000] true false [] [] [] 2 1000000) with fail := some 3 }, 3, ⟨rfl, by decide +kernel⟩, by decide +kernel⟩,
   ⟨st (bj 0 (jb [0x50000000, 0x10001, 0] true false [] [] [] 2 1000000) ((fun c => { c with mem := { c.mem with arena := mw [(0, 0x80000000), (4, 0x7F800000)] [] } }) w0)), 0, 0, JobFault.none, (jb [0x50000000, 0x10001, 0] true false [] [] [] 2 1000000), ⟨rfl, by decide +kernel⟩, by decide +kernel⟩⟩

/-- States and operands that meet the hypotheses of `Obligations.BasinJobsEndWithTheirStatus`, part 2 of 3. -/
theorem test_met_BasinJobsEndWithTheirStatus_2 :
    (∃ s : State, ∃ n : Fin 256, s.chip.boot.phase = .run ∧ ((s.chip.job n.val).map Job.running).getD false = false) ∧
    (∃ s : State, ∃ n : Fin 256, ∃ j : Job, ∃ r : Nat, s.chip.boot.phase = .run ∧ s.chip.job n.val = some j ∧ j.running = true ∧ j.fail = some r ∧ r < 16) ∧
    (∃ s : State, ∃ n : Fin 256, ∃ j : Job, s.chip.boot.phase = .run ∧ s.chip.job n.val = some j ∧ j.running = true ∧ j.fail = none ∧ 0 < j.iter) ∧
    (∃ s : State, ∃ n : Fin 256, ∃ j : Job, s.chip.boot.phase = .run ∧ s.chip.job n.val = some j ∧ j.running = true ∧ j.fail = none ∧ j.iter = 0 ∧ jKind j.d ≠ 5) ∧
    (∃ s : State, ∃ n : Fin 256, ∃ j : Job, s.chip.boot.phase = .run ∧ s.chip.job n.val = some j ∧ j.running = true ∧ j.fail = none ∧ j.iter = 0 ∧ jKind j.d = 5) ∧
    (∃ s : State, ∃ t : Nat, ∃ n : Fin 256, s.chip.ready t ∧ (∀ j : Job, s.chip.job n.val = some j → j.running = false ∨ jKind j.d ≠ 5)) ∧
    (∃ s : State, ∃ t : Nat, ∃ n : Fin 256, ∃ j : Job, ∃ r : Nat, s.chip.ready t ∧ s.chip.job n.val = some j ∧ j.running = true ∧ jKind j.d = 5 ∧ j.fail = some r ∧ r < 16) ∧
    (∃ s : State, ∃ t : Nat, ∃ n : Fin 256, ∃ j : Job, s.chip.ready t ∧ s.chip.job n.val = some j ∧ j.running = true ∧ jKind j.d = 5 ∧ j.fail = none ∧ j.facDone = false ∧ (s.chip.qpFac j).finite = false) :=
  ⟨⟨st (bj 0 (jb [0x00000000] false false [] [] [] 2 1000000) w0), 0, by decide +kernel⟩,
   ⟨st (bj 0 ({ (jb [0x50000000] true false [] [] [] 2 1000000) with fail := some 3 } : Job) w0), 0, { (jb [0x50000000] true false [] [] [] 2 1000000) with fail := some 3 }, 3, by decide +kernel⟩,
   ⟨st (bj 0 ({ (jb [0x50000000] true false [] [] [] 2 1000000) with iter := 1 } : Job) w0), 0, { (jb [0x50000000] true false [] [] [] 2 1000000) with iter := 1 }, by decide +kernel⟩,
   ⟨st (bj 0 (jb [0x00000000] true false [] [] [] 2 1000000) w0), 0, (jb [0x00000000] true false [] [] [] 2 1000000), by decide +kernel⟩,
   ⟨st (bj 0 (jb [0x50000000] true false [] [] [] 2 1000000) w0), 0, (jb [0x50000000] true false [] [] [] 2 1000000), by decide +kernel⟩,
   ⟨st (bj 0 (jb [0x00000000] true false [] [] [] 2 1000000) w0), 0, 0, ⟨rfl, by decide +kernel⟩, by decide +kernel⟩,
   ⟨st (bj 0 ({ (jb [0x50000000] true false [] [] [] 2 1000000) with fail := some 3 } : Job) w0), 0, 0, { (jb [0x50000000] true false [] [] [] 2 1000000) with fail := some 3 }, 3, ⟨rfl, by decide +kernel⟩, by decide +kernel⟩,
   ⟨st (bj 0 (jb [0x50000000, 0x10001, 0] true false [] [] [] 2 1000000) ((fun c => { c with mem := { c.mem with arena := mw [(0, 0x80000000), (4, 0x7F800000)] [] } }) w0)), 0, 0, (jb [0x50000000, 0x10001, 0] true false [] [] [] 2 1000000), ⟨rfl, by decide +kernel⟩, by decide +kernel⟩⟩

/-- States and operands that meet the hypotheses of `Obligations.BasinJobsEndWithTheirStatus`, part 3 of 3. -/
theorem test_met_BasinJobsEndWithTheirStatus_3 :
    (∃ s : State, ∃ t : Nat, ∃ n : Fin 256, ∃ j : Job, s.chip.ready t ∧ s.chip.job n.val = some j ∧ j.running = true ∧ jKind j.d = 5 ∧ j.fail = none ∧ j.facDone = false ∧ (s.chip.qpFac j).finite = true) ∧
    (∃ s : State, ∃ t : Nat, ∃ n : Fin 256, ∃ j : Job, s.chip.ready t ∧ s.chip.job n.val = some j ∧ j.running = true ∧ jKind j.d = 5 ∧ j.fail = none ∧ j.facDone = true ∧ (s.chip.qpNext j).2.2.2.2 = false) ∧
    (∃ s : State, ∃ t : Nat, ∃ n : Fin 256, ∃ j : Job, s.chip.ready t ∧ s.chip.job n.val = some j ∧ j.running = true ∧ jKind j.d = 5 ∧ j.fail = none ∧ j.facDone = true ∧ (s.chip.qpNext j).2.2.2.2 = true ∧ (s.chip.qpConverged j = true ∨ jKp j.d ≤ j.iter + 1)) ∧
    (∃ s : State, ∃ t : Nat, ∃ n : Fin 256, ∃ j : Job, s.chip.ready t ∧ s.chip.job n.val = some j ∧ j.running = true ∧ jKind j.d = 5 ∧ j.fail = none ∧ j.facDone = true ∧ (s.chip.qpNext j).2.2.2.2 = true ∧ s.chip.qpConverged j = false ∧ j.iter + 1 < jKp j.d ∧ s.chip.jobDeadline j < t + (if j.iter = 0 then min (t - j.iterT) (qpCycles (jN j.d) (jM j.d)) else t - j.iterT)) ∧
    (∃ s : State, ∃ t : Nat, ∃ n : Fin 256, ∃ j : Job, s.chip.ready t ∧ s.chip.job n.val = some j ∧ j.running = true ∧ jKind j.d = 5 ∧ j.fail = none ∧ j.facDone = true ∧ (s.chip.qpNext j).2.2.2.2 = true ∧ s.chip.qpConverged j = false ∧ j.iter + 1 < jKp j.d ∧ t + (if j.iter = 0 then min (t - j.iterT) (qpCycles (jN j.d) (jM j.d)) else t - j.iterT) ≤ s.chip.jobDeadline j) :=
  ⟨⟨st (bj 0 (jb [0x50000000] true false [] [] [] 2 1000000) w0), 0, 0, (jb [0x50000000] true false [] [] [] 2 1000000), ⟨rfl, by decide +kernel⟩, by decide +kernel⟩,
   ⟨st (bj 0 (jb [0x50000000, 0x00010001, 0x10001] true true [0x7F800000] [0] [0] 2 1000000) w0), 0, 0, (jb [0x50000000, 0x00010001, 0x10001] true true [0x7F800000] [0] [0] 2 1000000), ⟨rfl, by decide +kernel⟩, by decide +kernel⟩,
   ⟨st (bj 0 (jb [0x50000000] true true [] [] [] 2 1000000) w0), 0, 0, (jb [0x50000000] true true [] [] [] 2 1000000), ⟨rfl, by decide +kernel⟩, by decide +kernel⟩,
   ⟨st (bj 0 (jb [0x50000000, 0, 0xFF0000, 0, 0, 0, 0, 0, 0, 0xBF800000] true true [] [] [] 2 0) w0), 1, 0, (jb [0x50000000, 0, 0xFF0000, 0, 0, 0, 0, 0, 0, 0xBF800000] true true [] [] [] 2 0), ⟨rfl, by decide +kernel⟩, by decide +kernel⟩,
   ⟨st (bj 0 (jb [0x50000000, 0, 0xFF0000, 0, 0, 0, 0, 0, 0, 0xBF800000] true true [] [] [] 2 1000000) w0), 0, 0, (jb [0x50000000, 0, 0xFF0000, 0, 0, 0, 0, 0, 0, 0xBF800000] true true [] [] [] 2 1000000), ⟨rfl, by decide +kernel⟩, by decide +kernel⟩⟩

/-- States and operands that meet the hypotheses of `Obligations.BasinCommandsAndWindowKeepSlots`, part 1 of 2. -/
theorem test_met_BasinCommandsAndWindowKeepSlots_1 :
    (∃ s : State, ∃ t : Nat, ∃ ifc : Iface, ∃ tag : Word, ∃ target : Word, ∃ pl : List Word, s.chip.takes t 0x0801 ifc tag target pl 0 ∧ s.chip.descOk pl true = false) ∧
    (∃ s : State, ∃ t : Nat, ∃ ifc : Iface, ∃ tag : Word, ∃ target : Word, ∃ pl : List Word, s.chip.takes t 0x0801 ifc tag target pl 0 ∧ s.chip.descOk pl true = true ∧ s.chip.opState = 0 ∧ jKind pl ≠ 7) ∧
    (∃ s : State, ∃ t : Nat, ∃ ifc : Iface, ∃ tag : Word, ∃ target : Word, ∃ pl : List Word, s.chip.takes t 0x0801 ifc tag target pl 0 ∧ s.chip.descOk pl true = true ∧ (s.chip.opState ≠ 0 ∨ jKind pl = 7) ∧ (s.chip.job (jRslot pl)).isSome = true) ∧
    (∃ s : State, ∃ t : Nat, ∃ ifc : Iface, ∃ tag : Word, ∃ target : Word, ∃ pl : List Word, s.chip.takes t 0x0801 ifc tag target pl 0 ∧ s.chip.descOk pl true = true ∧ (s.chip.opState ≠ 0 ∨ jKind pl = 7) ∧ s.chip.job (jRslot pl) = none ∧ 256 ≤ (s.chip.list 0 (jPrio pl)).length) ∧
    (∃ s : State, ∃ t : Nat, ∃ ifc : Iface, ∃ tag : Word, ∃ target : Word, ∃ pl : List Word, s.chip.takes t 0x0801 ifc tag target pl 0 ∧ s.chip.descOk pl true = true ∧ (s.chip.opState ≠ 0 ∨ jKind pl = 7) ∧ s.chip.job (jRslot pl) = none ∧ (s.chip.list 0 (jPrio pl)).length < 256) ∧
    (∃ s : State, ∃ t : Nat, ∃ ifc : Iface, ∃ tag : Word, ∃ target : Word, ∃ pl : List Word, s.chip.takes t 0x0803 ifc tag target pl 0 ∧ s.chip.job target.toNat = none) ∧
    (∃ s : State, ∃ t : Nat, ∃ ifc : Iface, ∃ tag : Word, ∃ target : Word, ∃ pl : List Word, ∃ j, s.chip.takes t 0x0803 ifc tag target pl 0 ∧ s.chip.job target.toNat = some j ∧ j.running = false ∧ j.owner ≠ 2) ∧
    (∃ s : State, ∃ t : Nat, ∃ ifc : Iface, ∃ tag : Word, ∃ target : Word, ∃ pl : List Word, ∃ j, s.chip.takes t 0x0803 ifc tag target pl 0 ∧ s.chip.job target.toNat = some j ∧ j.running = true ∧ j.owner ≠ 2) :=
  ⟨⟨(st w0), 0, Iface.spi, 0, 0, List.replicate 16 0, takes_of (by decide +kernel), by decide +kernel⟩,
   ⟨(st w0), 0, Iface.spi, 0, 0, [0x80, 1, 0x10001, 0, 0, 0, 0, 0x3F800000, 0, 0, 0, 0, 0, 0, 0, 0], takes_of (by decide +kernel), by decide +kernel⟩,
   ⟨st (bj 128 (jb [0x70000080] false false [] [] [] 0 0) w0), 0, Iface.spi, 0, 0, [0x70000080, 0x10001, 0, 0, 0, 0, 0, 0x3F800000, 0, 0, 0, 0, 0, 0, 0, 0], takes_of (by decide +kernel), by decide +kernel⟩,
   ⟨st (rl 0 (List.replicate 256 ⟨0, 0, none, .job 0, 0, .firmware⟩) w0), 0, Iface.spi, 0, 0, [0x70000080, 0x10001, 0, 0, 0, 0, 0, 0x3F800000, 0, 0, 0, 0, 0, 0, 0, 0], takes_of (by decide +kernel), by decide +kernel⟩,
   ⟨(st w0), 0, Iface.spi, 0, 0, [0x70000080, 0x10001, 0, 0, 0, 0, 0, 0x3F800000, 0, 0, 0, 0, 0, 0, 0, 0], takes_of (by decide +kernel), by decide +kernel⟩,
   ⟨(st w0), 0, Iface.spi, 0, 0, [], takes_of (by decide +kernel), by decide +kernel⟩,
   ⟨st (bj 0 (jb [0x70000080, 1, 0x10001] false false [] [] [] 0 0) w0), 0, Iface.spi, 0, 0, [], (jb [0x70000080, 1, 0x10001] false false [] [] [] 0 0), takes_of (by decide +kernel), by decide +kernel⟩,
   ⟨st (bj 0 (jb [0x70000080, 1, 0x10001] true false [] [] [] 0 0) w0), 0, Iface.spi, 0, 0, [], (jb [0x70000080, 1, 0x10001] true false [] [] [] 0 0), takes_of (by decide +kernel), by decide +kernel⟩⟩

/-- States and operands that meet the hypotheses of `Obligations.BasinCommandsAndWindowKeepSlots`, part 2 of 2. -/
theorem test_met_BasinCommandsAndWindowKeepSlots_2 :
    (∃ s : State, ∃ t : Nat, ∃ ifc : Iface, ∃ tag : Word, ∃ target : Word, ∃ pl : List Word, s.chip.takes t 0x0804 ifc tag target pl 0 ∧ (wordAt pl 0 % 16 ≠ 0 ∨ 2 ^ 23 < wordAt pl 0 + 4 * (pl.drop 1).length)) ∧
    (∃ s : State, ∃ t : Nat, ∃ ifc : Iface, ∃ tag : Word, ∃ target : Word, ∃ pl : List Word, s.chip.takes t 0x0804 ifc tag target pl 0 ∧ wordAt pl 0 % 16 = 0 ∧ wordAt pl 0 + 4 * (pl.drop 1).length ≤ 2 ^ 23 ∧ meets s.chip.jobParts (wordAt pl 0) (4 * (pl.drop 1).length) = true) ∧
    (∃ s : State, ∃ t : Nat, ∃ ifc : Iface, ∃ tag : Word, ∃ target : Word, ∃ pl : List Word, s.chip.takes t 0x0804 ifc tag target pl 0 ∧ wordAt pl 0 % 16 = 0 ∧ wordAt pl 0 + 4 * (pl.drop 1).length ≤ 2 ^ 23 ∧ meets s.chip.jobParts (wordAt pl 0) (4 * (pl.drop 1).length) = false) ∧
    (∃ s : State, ∃ t : Nat, ∃ ifc : Iface, s.chip.ready t ∧ s.chip.serves ifc = true) ∧
    (∃ s : State, ∃ t : Nat, ∃ ifc : Iface, ∃ w : Fin 1024, s.chip.ready t ∧ s.chip.serves ifc = true ∧ w.val = 0) ∧
    (∃ s : State, ∃ t : Nat, ∃ ifc : Iface, ∃ w : Fin 1024, ∃ x : Nat × List Word, s.chip.ready t ∧ s.chip.serves ifc = true ∧ (s.chip.snap ifc).slot = some x ∧ w.val ≠ 0 ∧ x.1 = s.chip.fld BSN_RD_SEL__SLOT) ∧
    (∃ s : State, ∃ t : Nat, ∃ ifc : Iface, ∃ w : Fin 1024, s.chip.ready t ∧ s.chip.serves ifc = true ∧ w.val ≠ 0 ∧ ((s.chip.snap ifc).slot.map (·.1)) ≠ some (s.chip.fld BSN_RD_SEL__SLOT)) :=
  ⟨⟨(st w0), 0, Iface.spi, 0, 0, [1, 1, 2, 3, 4], takes_of (by decide +kernel), by decide +kernel⟩,
   ⟨st (bj 128 (jb [0x80, 1, 0x10001] true false [] [] [] 0 0) w0), 0, Iface.spi, 0, 0, [0, 1, 2, 3, 4], takes_of (by decide +kernel), by decide +kernel⟩,
   ⟨(st w0), 0, Iface.spi, 0, 0, [0, 1, 2, 3, 4], takes_of (by decide +kernel), by decide +kernel⟩,
   ⟨(st w0), 0, Iface.spi, ⟨rfl, by decide +kernel⟩, by decide +kernel⟩,
   ⟨(st w0), 0, Iface.spi, 0, ⟨rfl, by decide +kernel⟩, by decide +kernel⟩,
   ⟨st ((fun c => { c with hst := { c.hst with snaps := [(3, { Snap.none with slot := some (0, []) })] } }) w0), 0, Iface.spi, 1, (0, []), ⟨rfl, by decide +kernel⟩, by decide +kernel⟩,
   ⟨(st w0), 0, Iface.spi, 1, ⟨rfl, by decide +kernel⟩, by decide +kernel⟩⟩

/-- States and operands that meet the hypotheses of `Obligations.TasksWaitForTheNextBuild`. -/
theorem test_met_TasksWaitForTheNextBuild :
    (∃ s : State, ∃ t : Nat, s.chip.ready t ∧ s.chip.plan.phase ≠ .building) ∧
    (∃ s : State, ∃ t : Nat, s.chip.ready t ∧ s.chip.plan.phase = .building) ∧
    (∃ s : State, ∃ t : Nat, ∃ ifc : Iface, ∃ tag : Word, ∃ target : Word, ∃ pl : List Word, s.chip.takes t 0x0403 ifc tag target pl 0 ∧ s.chip.armEn target.toNat = false) ∧
    (∃ s : State, ∃ t : Nat, ∃ ifc : Iface, ∃ tag : Word, ∃ target : Word, ∃ pl : List Word, ∃ i, s.chip.takes t 0x0403 ifc tag target pl 0 ∧ s.chip.armEn target.toNat = true ∧ s.chip.taskBad target.toNat ((wordAt pl 0).testBit 0) ((pl.length - 1) / 12) pl = some i) ∧
    (∃ s : State, ∃ t : Nat, ∃ ifc : Iface, ∃ tag : Word, ∃ target : Word, ∃ pl : List Word, s.chip.takes t 0x0403 ifc tag target pl 0 ∧ s.chip.armEn target.toNat = true ∧ s.chip.taskBad target.toNat ((wordAt pl 0).testBit 0) ((pl.length - 1) / 12) pl = none ∧ ((s.chip.ikOf target.toNat).isSome = true ∨ s.chip.longFree 0x0403 target.toNat = false)) ∧
    (∃ s : State, ∃ t : Nat, ∃ ifc : Iface, ∃ tag : Word, ∃ target : Word, ∃ pl : List Word, s.chip.takes t 0x0403 ifc tag target pl 0 ∧ s.chip.armEn target.toNat = true ∧ s.chip.taskBad target.toNat ((wordAt pl 0).testBit 0) ((pl.length - 1) / 12) pl = none ∧ s.chip.ikOf target.toNat = none ∧ s.chip.longFree 0x0403 target.toNat = true) ∧
    (∃ s : State, ∃ t : Nat, ∃ ifc : Iface, ∃ tag : Word, ∃ target : Word, ∃ pl : List Word, s.chip.takes t 0x0404 ifc tag target pl 0) :=
  ⟨⟨(st w0), 0, ⟨rfl, by decide +kernel⟩, by decide +kernel⟩,
   ⟨st ((fun c => { c with plan := { c.plan with phase := .building } }) w0), 0, ⟨rfl, by decide +kernel⟩, by decide +kernel⟩,
   ⟨(st w0), 0, Iface.spi, 0, 0, 1 :: List.replicate 192 0, takes_of (by decide +kernel), by decide +kernel⟩,
   ⟨st (pn [(0x100, 0x80000000)] w0), 0, Iface.spi, 0, 0, 1 :: List.replicate 192 0, 13, takes_of (by decide +kernel), by decide +kernel⟩,
   ⟨st (pn [(0x100, 0x80000000)] ((fun c => { c with plan := { c.plan with ik := [(0, ⟨false, [], [], [], 0, false, 0, (0, 0)⟩)] } }) w0)), 0, Iface.spi, 0, 0, 0x100 :: List.replicate 12 0, takes_of (by decide +kernel), by decide +kernel⟩,
   ⟨st (pn [(0x100, 0x80000000)] w0), 0, Iface.spi, 0, 0, 0x100 :: List.replicate 12 0, takes_of (by decide +kernel), by decide +kernel⟩,
   ⟨(st w0), 0, Iface.spi, 0, 0, [], takes_of (by decide +kernel)⟩⟩

/-- States and operands that meet the hypotheses of `Obligations.PositionInputsCountEdgesAndReadings`, part 1 of 2. -/
theorem test_met_PositionInputsCountEdgesAndReadings_1 :
    (∃ s : State, ∃ t : Nat, s.chip.ready t) ∧
    (∃ s : State, ∃ t : Nat, ∃ ch : Fin 256, s.chip.ready t ∧ s.chip.chType ch.val = 1 ∧ (s.chip.at t).phase = s.chip.fld (POS_CH_SMP__SMP_PHASE ch.val) ∧ (s.chip.chan ch.val).availP ≠ some s.chip.poundNum) ∧
    (∃ s : State, ∃ t : Nat, ∃ ch : Fin 256, s.chip.ready t ∧ (¬ (s.chip.chType ch.val = 1 ∧ (s.chip.at t).phase = s.chip.fld (POS_CH_SMP__SMP_PHASE ch.val) ∧ (s.chip.chan ch.val).availP ≠ some s.chip.poundNum))) ∧
    (∃ s : State, ∃ t : Nat, ∃ p : Fin 16, ∃ ch : Nat, ∃ rest : List Nat, s.chip.ready t ∧ s.chip.serChans p.val = ch :: rest ∧ s.chip.fld (POS_SER_CFG__PROTO p.val) ≠ 0 ∧ (s.chip.at t).phase = s.chip.fld (POS_CH_SMP__SMP_PHASE ch) ∧ s.chip.role ≠ 2) ∧
    (∃ s : State, ∃ t : Nat, ∃ p : Fin 16, s.chip.ready t ∧ (s.chip.serChans p.val = [] ∨ s.chip.fld (POS_SER_CFG__PROTO p.val) = 0 ∨ s.chip.role = 2 ∨ (∃ ch, (s.chip.serChans p.val).head? = some ch ∧ (s.chip.at t).phase ≠ s.chip.fld (POS_CH_SMP__SMP_PHASE ch)))) ∧
    (∃ s : State, ∃ t : Nat, ∃ p : Fin 16, s.chip.ready t ∧ s.chip.ser p.val = none) ∧
    (∃ s : State, ∃ t : Nat, ∃ p : Fin 16, ∃ t0 : Nat, s.chip.ready t ∧ s.chip.ser p.val = some t0) ∧
    (∃ s : State, ∃ t : Nat, ∃ p : Fin 16, ∃ t0 : Nat, s.chip.ready t ∧ s.chip.ser p.val = some t0 ∧ s.chip.serLimit p.val t0 ≤ t) :=
  ⟨⟨(st w0), 0, ⟨rfl, by decide +kernel⟩⟩,
   ⟨sf [(POS_CH_CFG__TYPE 0, 1)], 0, 0, ⟨rfl, by decide +kernel⟩, by decide +kernel⟩,
   ⟨(st w0), 0, 0, ⟨rfl, by decide +kernel⟩, by decide +kernel⟩,
   ⟨sf [(POS_CH_CFG__TYPE 0, 2), (POS_SER_CFG__PROTO 0, 1)], 0, 0, 0, [], ⟨rfl, by decide +kernel⟩, by decide +kernel⟩,
   ⟨(st w0), 0, 0, ⟨rfl, by decide +kernel⟩, by decide +kernel⟩,
   ⟨(st w0), 0, 0, ⟨rfl, by decide +kernel⟩, by decide +kernel⟩,
   ⟨st ((fun c => { c with pf := { c.pf with ser := [(0, some 0)] } }) w0), 0, 0, 0, ⟨rfl, by decide +kernel⟩, by decide +kernel⟩,
   ⟨st ((fun c => { c with pf := { c.pf with ser := [(0, some 0)] } }) w0), 10^9, 0, 0, ⟨rfl, by decide +kernel⟩, by decide +kernel⟩⟩

/-- States and operands that meet the hypotheses of `Obligations.PositionInputsCountEdgesAndReadings`, part 2 of 2. -/
theorem test_met_PositionInputsCountEdgesAndReadings_2 :
    (∃ s : State, ∃ t : Nat, ∃ p : Fin 16, ∃ t0 : Nat, s.chip.ready t ∧ s.chip.ser p.val = some t0 ∧ t < s.chip.serLimit p.val t0) :=
  ⟨st ((fun c => { c with pf := { c.pf with ser := [(0, some 0)] } }) w0), 0, 0, 0, ⟨rfl, by decide +kernel⟩, by decide +kernel⟩

/-- States and operands that meet the hypotheses of `Obligations.IndexDividersAndChannelSetup`, part 1 of 2. -/
theorem test_met_IndexDividersAndChannelSetup_1 :
    (∃ s : State, ∃ t : Nat, ∃ ch : Fin 256, s.chip.ready t ∧ (s.chip.chan ch.val).idx = none) ∧
    (∃ s : State, ∃ t : Nat, ∃ ch : Fin 256, ∃ e : Nat × Nat × Nat, s.chip.ready t ∧ (s.chip.chan ch.val).idx = some e) ∧
    (∃ s : State, ∃ t : Nat, ∃ ifc : Iface, s.chip.ready t ∧ s.chip.serves ifc = true ∧ s.chip.dryOrMoored = false) ∧
    (∃ s : State, ∃ t : Nat, ∃ ifc : Iface, ∃ ch : Fin 256, s.chip.ready t ∧ s.chip.serves ifc = true ∧ s.chip.dryOrMoored = true ∧ s.chip.fld (POS_CH_CFG__IDX_MODE ch.val) = 2) ∧
    (∃ s : State, ∃ t : Nat, ∃ ifc : Iface, ∃ ch : Fin 256, s.chip.ready t ∧ s.chip.serves ifc = true ∧ s.chip.dryOrMoored = true ∧ s.chip.fld (POS_CH_CFG__IDX_MODE ch.val) ≠ 2) ∧
    (∃ s : State, ∃ t : Nat, ∃ ifc : Iface, ∃ off : Nat, ∃ v : Word, ∃ i : Nat, s.chip.ready t ∧ s.chip.serves ifc = true ∧ inSet (POS_CH_CFG 0) 4 256 off = some i ∧ (s.chip.dryOrMoored = false ∨ 4 < bits v.toNat 31 29 ∨ 6 < bits v.toNat 22 20)) ∧
    (∃ s : State, ∃ t : Nat, ∃ ifc : Iface, ∃ off : Nat, ∃ v : Word, ∃ i : Nat, s.chip.ready t ∧ s.chip.serves ifc = true ∧ inSet (POS_CH_CFG 0) 4 256 off = some i ∧ s.chip.dryOrMoored = true ∧ bits v.toNat 31 29 ≤ 4 ∧ bits v.toNat 22 20 ≤ 6) ∧
    (∃ s : State, ∃ t : Nat, ∃ ifc : Iface, ∃ off : Nat, ∃ v : Word, ∃ i : Nat, s.chip.ready t ∧ s.chip.serves ifc = true ∧ inSet (POS_CH_MOD 0) 4 256 off = some i ∧ (s.chip.dryOrMoored = false ∨ bits v.toNat 16 0 = 0 ∨ 65536 < bits v.toNat 16 0)) :=
  ⟨⟨(st w0), 0, 0, ⟨rfl, by decide +kernel⟩, by decide +kernel⟩,
   ⟨st ((fun c => { c with pf := { c.pf with chan := [(0, { Chan.init with idx := some (0, 0, 0) })] } }) w0), 0, 0, (0, 0, 0), ⟨rfl, by decide +kernel⟩, by decide +kernel⟩,
   ⟨sf [(SYS_STATE__STATE, 2)], 0, Iface.spi, ⟨rfl, by decide +kernel⟩, by decide +kernel⟩,
   ⟨sf [(POS_CH_CFG__IDX_MODE 0, 2)], 0, Iface.spi, 0, ⟨rfl, by decide +kernel⟩, by decide +kernel⟩,
   ⟨(st w0), 0, Iface.spi, 0, ⟨rfl, by decide +kernel⟩, by decide +kernel⟩,
   ⟨sf [(SYS_STATE__STATE, 2)], 0, Iface.spi, POS_CH_CFG 0, 0, 0, ⟨rfl, by decide +kernel⟩, by decide +kernel⟩,
   ⟨(st w0), 0, Iface.spi, POS_CH_CFG 0, 0, 0, ⟨rfl, by decide +kernel⟩, by decide +kernel⟩,
   ⟨(st w0), 0, Iface.spi, POS_CH_MOD 0, 0, 0, ⟨rfl, by decide +kernel⟩, by decide +kernel⟩⟩

/-- States and operands that meet the hypotheses of `Obligations.IndexDividersAndChannelSetup`, part 2 of 2. -/
theorem test_met_IndexDividersAndChannelSetup_2 :
    (∃ s : State, ∃ t : Nat, ∃ ifc : Iface, ∃ off : Nat, ∃ v : Word, ∃ i : Nat, s.chip.ready t ∧ s.chip.serves ifc = true ∧ inSet (POS_CH_MOD 0) 4 256 off = some i ∧ s.chip.dryOrMoored = true ∧ 1 ≤ bits v.toNat 16 0 ∧ bits v.toNat 16 0 ≤ 65536) ∧
    (∃ s : State, ∃ t : Nat, ∃ ifc : Iface, ∃ off : Nat, ∃ v : Word, ∃ i : Nat, s.chip.ready t ∧ s.chip.serves ifc = true ∧ inSet (POS_CH_SMP 0) 4 256 off = some i ∧ (s.chip.dryOrMoored = false ∨ s.chip.P ≤ bits v.toNat 17 0)) ∧
    (∃ s : State, ∃ t : Nat, ∃ ifc : Iface, ∃ off : Nat, ∃ v : Word, ∃ i : Nat, s.chip.ready t ∧ s.chip.serves ifc = true ∧ inSet (POS_CH_SMP 0) 4 256 off = some i ∧ s.chip.dryOrMoored = true ∧ bits v.toNat 17 0 < s.chip.P) ∧
    (∃ s : State, ∃ t : Nat, ∃ d : Fin 8, s.chip.ready t ∧ s.chip.flag (POS_PD_CFG__EN d.val) = true ∧ (s.chip.pd d.val).b ≠ 0 ∧ (∀ u ∈ (s.chip.pd d.val).lastT, u + max (s.chip.fld (POS_PD_CFG__GAP d.val)) 80 ≤ t)) ∧
    (∃ s : State, ∃ t : Nat, ∃ d : Fin 8, s.chip.ready t ∧ (s.chip.flag (POS_PD_CFG__EN d.val) = false ∨ (s.chip.pd d.val).b = 0 ∨ ∃ u, (s.chip.pd d.val).lastT = some u ∧ t < u + max (s.chip.fld (POS_PD_CFG__GAP d.val)) 80)) ∧
    (∃ s : State, ∃ t : Nat, ∃ ifc : Iface, ∃ v : Word, s.chip.ready t ∧ s.chip.serves ifc = true ∧ (s.chip.dryOrMoored = false ∨ bits v.toNat 4 0 = 1 ∨ 24 < bits v.toNat 4 0)) ∧
    (∃ s : State, ∃ t : Nat, ∃ ifc : Iface, ∃ v : Word, s.chip.ready t ∧ s.chip.serves ifc = true ∧ s.chip.dryOrMoored = true ∧ bits v.toNat 4 0 ≠ 1 ∧ bits v.toNat 4 0 ≤ 24) :=
  ⟨⟨(st w0), 0, Iface.spi, POS_CH_MOD 0, 1, 0, ⟨rfl, by decide +kernel⟩, by decide +kernel⟩,
   ⟨(st w0), 0, Iface.spi, POS_CH_SMP 0, 25000, 0, ⟨rfl, by decide +kernel⟩, by decide +kernel⟩,
   ⟨(st w0), 0, Iface.spi, POS_CH_SMP 0, 0, 0, ⟨rfl, by decide +kernel⟩, by decide +kernel⟩,
   ⟨st (fs [(POS_PD_CFG__EN 0, 1)] ((fun c => { c with pf := { c.pf with pd := [(0, ⟨0, 1, 0, none⟩)] } }) w0)), 0, 0, ⟨rfl, by decide +kernel⟩, by decide +kernel⟩,
   ⟨(st w0), 0, 0, ⟨rfl, by decide +kernel⟩, by decide +kernel⟩,
   ⟨(st w0), 0, Iface.spi, 1, ⟨rfl, by decide +kernel⟩, by decide +kernel⟩,
   ⟨(st w0), 0, Iface.spi, 0, ⟨rfl, by decide +kernel⟩, by decide +kernel⟩⟩

/-- States and operands that meet the hypotheses of `Obligations.PollsAreSentAndRepliesJudged`, part 1 of 3. -/
theorem test_met_PollsAreSentAndRepliesJudged_1 :
    (∃ s : State, ∃ t : Nat, ∃ e : Fin 4096, s.chip.ready t ∧ s.chip.pollDue t e.val = false ∧ (s.chip.port (s.chip.ePort e.val)).late = [] ∧ (s.chip.port (s.chip.ePort e.val)).refLate = false) ∧
    (∃ s : State, ∃ t : Nat, ∃ e : Fin 4096, ∃ rx : Option (Nat × Option Nat), s.chip.ready t ∧ s.chip.pollDue t e.val = true ∧ s.chip.guardCheck (s.chip.ePort e.val) e.val t rx = none) ∧
    (∃ s : State, ∃ t : Nat, ∃ e : Fin 4096, ∃ rx : Option (Nat × Option Nat), ∃ d : Nat, s.chip.ready t ∧ s.chip.guardCheck (s.chip.ePort e.val) e.val t rx = some d ∧ s.chip.pollDue t e.val = true) ∧
    (∃ s : State, ∃ t : Nat, ∃ e : Fin 4096, ∃ rx : Option (Nat × Option Nat), ∃ d : Nat, s.chip.ready t ∧ s.chip.guardCheck (s.chip.ePort e.val) e.val t rx = some d ∧ (s.chip.at t).lateOf (s.chip.ePort e.val) ≠ [] ∧ ((s.chip.at t).lateOf (s.chip.ePort e.val)).head? = some e.val ∧ (s.chip.port (s.chip.ePort e.val)).txFree = t ∧ s.chip.towMaster = true ∧ s.chip.flag (TOW_PORT_CFG__EN (s.chip.ePort e.val)) = true ∧ s.chip.eEn e.val = true ∧ s.chip.eMgmt e.val = false) ∧
    (∃ s : State, ∃ t : Nat, ∃ e : Fin 4096, s.chip.ready t ∧ (s.chip.poll e.val).judged = .waiting ∧ (s.chip.poll e.val).t + s.chip.eClose e.val ≤ t) ∧
    (∃ s : State, ∃ t : Nat, ∃ e : Fin 4096, s.chip.ready t ∧ (¬ ((s.chip.poll e.val).judged = .waiting ∧ (s.chip.poll e.val).t + s.chip.eClose e.val ≤ t))) ∧
    (∃ s : State, ∃ t : Nat, ∃ p : Fin 64, s.chip.ready t ∧ s.chip.rxUp p.val = false) ∧
    (∃ s : State, ∃ t : Nat, ∃ p : Fin 64, ∃ f : TowFrame, s.chip.ready t ∧ s.chip.rxUp p.val = true ∧ (f.valid 2 false = false ∨ (f.fm = false ∧ s.chip.matchPoll p.val f = none))) :=
  ⟨⟨(st w0), 0, 0, ⟨rfl, by decide +kernel⟩, by decide +kernel⟩,
   ⟨st (fs [(SYS_STATE__STATE, 1), (TOW_PORT_CFG__EN 0, 1), (TOW_PORT_STAT__PSTATE 0, 8)] (tw [(0, 0x80000000)] w0)), 0, 0, none, ⟨rfl, by decide +kernel⟩, by decide +kernel⟩,
   ⟨st (fs [(SYS_STATE__STATE, 1), (TOW_PORT_CFG__EN 0, 1), (TOW_PORT_STAT__PSTATE 0, 8)] (tw [(0, 0x80000000), (8, 0xFFFF0000)] w0)), 0, 0, none, 0, ⟨rfl, by decide +kernel⟩, by decide +kernel⟩,
   ⟨st (fs [(SYS_STATE__STATE, 1), (TOW_PORT_CFG__EN 0, 1), (TOW_PORT_STAT__PSTATE 0, 8)] (tw [(0, 0x80000000), (8, 0xFFFF0000)] (po { Port.init with late := [0] } w0))), 0, 0, none, 0, ⟨rfl, by decide +kernel⟩, by decide +kernel⟩,
   ⟨st (pl1 ⟨0, 0, 0, .waiting, false, false⟩ w0), 0, 0, ⟨rfl, by decide +kernel⟩, by decide +kernel⟩,
   ⟨(st w0), 0, 0, ⟨rfl, by decide +kernel⟩, by decide +kernel⟩,
   ⟨(st w0), 0, 0, ⟨rfl, by decide +kernel⟩, by decide +kernel⟩,
   ⟨sf [(TOW_PORT_STAT__RX_UP 0, 1)], 0, 0, ⟨0, 0, [], true, 0⟩, ⟨rfl, by decide +kernel⟩, by decide +kernel⟩⟩

/-- States and operands that meet the hypotheses of `Obligations.PollsAreSentAndRepliesJudged`, part 2 of 3. -/
theorem test_met_PollsAreSentAndRepliesJudged_2 :
    (∃ s : State, ∃ t : Nat, ∃ p : Fin 64, ∃ f : TowFrame, s.chip.ready t ∧ s.chip.rxUp p.val = true ∧ f.valid 2 false = true ∧ f.fm = true) ∧
    (∃ s : State, ∃ t : Nat, ∃ p : Fin 64, ∃ f : TowFrame, ∃ e : Nat, s.chip.ready t ∧ s.chip.matchPoll p.val f = some e ∧ s.chip.rxUp p.val = true ∧ f.valid 2 false = true ∧ f.fm = false ∧ ((s.chip.poll e).judged = .missing ∨ (s.chip.poll e).t + s.chip.eClose e < t)) ∧
    (∃ s : State, ∃ t : Nat, ∃ p : Fin 64, ∃ f : TowFrame, ∃ e : Nat, s.chip.ready t ∧ s.chip.matchPoll p.val f = some e ∧ s.chip.rxUp p.val = true ∧ f.valid 2 false = true ∧ f.fm = false ∧ (s.chip.poll e).judged ≠ .missing ∧ t ≤ (s.chip.poll e).t + s.chip.eClose e ∧ t < (s.chip.poll e).t + s.chip.eOpen e) ∧
    (∃ s : State, ∃ t : Nat, ∃ p : Fin 64, ∃ f : TowFrame, ∃ e : Nat, s.chip.ready t ∧ s.chip.matchPoll p.val f = some e ∧ s.chip.rxUp p.val = true ∧ f.valid 2 false = true ∧ f.fm = false ∧ (s.chip.poll e).judged ≠ .missing ∧ t ≤ (s.chip.poll e).t + s.chip.eClose e ∧ (s.chip.poll e).t + s.chip.eOpen e ≤ t) ∧
    (∃ s : State, ∃ t : Nat, ∃ ifc : Iface, s.chip.ready t ∧ s.chip.serves ifc = true) ∧
    (∃ s : State, ∃ t : Nat, ∃ p : Fin 64, ∃ f : TowFrame, s.chip.ready t ∧ (s.chip.rxUp p.val = false ∨ (f.valid 0 true = true ∧ f.payload.length = 6 ∧ (wordAt f.payload 4).testBit 31 = true))) ∧
    (∃ s : State, ∃ t : Nat, ∃ p : Fin 64, ∃ f : TowFrame, s.chip.ready t ∧ s.chip.rxUp p.val = true ∧ (f.valid 0 true = false ∨ f.payload.length ≠ 6)) ∧
    (∃ s : State, ∃ t : Nat, ∃ p : Fin 64, ∃ f : TowFrame, s.chip.ready t ∧ s.chip.rxUp p.val = true ∧ f.valid 0 true = true ∧ f.payload.length = 6 ∧ (wordAt f.payload 4).testBit 31 = false ∧ s.chip.drives = false) :=
  ⟨⟨sf [(TOW_PORT_STAT__RX_UP 0, 1)], 0, 0, ⟨0x21008000, 0x0, List.replicate 0 0, true, 0⟩, ⟨rfl, by decide +kernel⟩, by decide +kernel⟩,
   ⟨st (fs [(TOW_PORT_STAT__RX_UP 0, 1)] (pl1 ⟨0, 0, 0, .missing, false, false⟩ w0)), 0, 0, ⟨0x21000000, 0x0, List.replicate 0 0, true, 0⟩, 0, ⟨rfl, by decide +kernel⟩, by decide +kernel⟩,
   ⟨st (fs [(TOW_PORT_STAT__RX_UP 0, 1)] (tw [(8, 0x00050009)] (pl1 ⟨0, 0, 0, .waiting, false, false⟩ w0))), 0, 0, ⟨0x21000000, 0x0, List.replicate 0 0, true, 0⟩, 0, ⟨rfl, by decide +kernel⟩, by decide +kernel⟩,
   ⟨st (fs [(TOW_PORT_STAT__RX_UP 0, 1)] (pl1 ⟨0, 0, 0, .waiting, false, false⟩ w0)), 0, 0, ⟨0x21000000, 0x0, List.replicate 0 0, true, 0⟩, 0, ⟨rfl, by decide +kernel⟩, by decide +kernel⟩,
   ⟨(st w0), 0, Iface.spi, ⟨rfl, by decide +kernel⟩, by decide +kernel⟩,
   ⟨(st w0), 0, 0, ⟨0, 0, [], true, 0⟩, ⟨rfl, by decide +kernel⟩, by decide +kernel⟩,
   ⟨sf [(TOW_PORT_STAT__RX_UP 0, 1)], 0, 0, ⟨0, 0, [], true, 0⟩, ⟨rfl, by decide +kernel⟩, by decide +kernel⟩,
   ⟨sf [(TOW_PORT_STAT__RX_UP 0, 1), (AQU_ROLE__ROLE, 2)], 0, 0, ⟨0x1800018, 0x0, List.replicate 6 0, true, 0⟩, ⟨rfl, by decide +kernel⟩, by decide +kernel⟩⟩

/-- States and operands that meet the hypotheses of `Obligations.PollsAreSentAndRepliesJudged`, part 3 of 3. -/
theorem test_met_PollsAreSentAndRepliesJudged_3 :
    (∃ s : State, ∃ t : Nat, ∃ p : Fin 64, ∃ f : TowFrame, s.chip.ready t ∧ s.chip.rxUp p.val = true ∧ f.valid 0 true = true ∧ f.payload.length = 6 ∧ (wordAt f.payload 4).testBit 31 = false ∧ s.chip.drives = true) :=
  ⟨sf [(TOW_PORT_STAT__RX_UP 0, 1)], 0, 0, ⟨0x1800018, 0x0, List.replicate 6 0, true, 0⟩, ⟨rfl, by decide +kernel⟩, by decide +kernel⟩

/-- States and operands that meet the hypotheses of `Obligations.BringUpAndManagementExchange`, part 1 of 4. -/
theorem test_met_BringUpAndManagementExchange_1 :
    (∃ s : State, ∃ t : Nat, s.chip.ready t) ∧
    (∃ s : State, ∃ t : Nat, ∃ p : Fin 64, ∃ n : Nat, ∃ lost : Bool, s.chip.ready t ∧ s.chip.rxUp p.val = true ∧ (4 ≤ n ∨ lost = true)) ∧
    (∃ s : State, ∃ t : Nat, ∃ p : Fin 64, ∃ n : Nat, ∃ lost : Bool, s.chip.ready t ∧ (s.chip.rxUp p.val = false ∨ (n < 4 ∧ lost = false))) ∧
    (∃ s : State, ∃ t : Nat, ∃ ifc : Iface, s.chip.ready t ∧ s.chip.serves ifc = true ∧ s.chip.opState ≠ 1) ∧
    (∃ s : State, ∃ t : Nat, ∃ ifc : Iface, ∃ p : Fin 64, s.chip.ready t ∧ s.chip.serves ifc = true ∧ s.chip.opState = 1 ∧ s.chip.flag (TOW_PORT_CFG__EN p.val) = false) ∧
    (∃ s : State, ∃ t : Nat, ∃ ifc : Iface, ∃ p : Fin 64, s.chip.ready t ∧ s.chip.serves ifc = true ∧ s.chip.opState = 1 ∧ s.chip.flag (TOW_PORT_CFG__EN p.val) = true) ∧
    (∃ s : State, ∃ t : Nat, ∃ p : Fin 64, s.chip.ready t ∧ (¬ (2 ≤ s.chip.pstate p.val ∧ s.chip.pstate p.val ≤ 7 ∧ (stepLimit (s.chip.pstate p.val) : Int) ≤ modDiff 32 s.chip.poundNum (s.chip.port p.val).stepP))) ∧
    (∃ s : State, ∃ t : Nat, ∃ p : Fin 64, s.chip.ready t ∧ (2 ≤ s.chip.pstate p.val ∧ s.chip.pstate p.val ≤ 7 ∧ (stepLimit (s.chip.pstate p.val) : Int) ≤ modDiff 32 s.chip.poundNum (s.chip.port p.val).stepP)) :=
  ⟨⟨(st w0), 0, ⟨rfl, by decide +kernel⟩⟩,
   ⟨sf [(TOW_PORT_STAT__RX_UP 0, 1)], 0, 0, 4, false, ⟨rfl, by decide +kernel⟩, by decide +kernel⟩,
   ⟨(st w0), 0, 0, 0, false, ⟨rfl, by decide +kernel⟩, by decide +kernel⟩,
   ⟨(st w0), 0, Iface.spi, ⟨rfl, by decide +kernel⟩, by decide +kernel⟩,
   ⟨sf [(SYS_STATE__STATE, 1)], 0, Iface.spi, 0, ⟨rfl, by decide +kernel⟩, by decide +kernel⟩,
   ⟨sf [(SYS_STATE__STATE, 1), (TOW_PORT_CFG__EN 0, 1)], 0, Iface.spi, 0, ⟨rfl, by decide +kernel⟩, by decide +kernel⟩,
   ⟨(st w0), 0, 0, ⟨rfl, by decide +kernel⟩, by decide +kernel⟩,
   ⟨sf [(TOW_PORT_STAT__PSTATE 0, 2), (SYS_POUND_NUM__NUM, 2)], 0, 0, ⟨rfl, by decide +kernel⟩, by decide +kernel⟩⟩

/-- States and operands that meet the hypotheses of `Obligations.BringUpAndManagementExchange`, part 2 of 4. -/
theorem test_met_BringUpAndManagementExchange_2 :
    (∃ s : State, ∃ t : Nat, ∃ e : Fin 4096, s.chip.ready t ∧ s.chip.mgmtDue t e.val = false ∧ (s.chip.port (s.chip.ePort e.val)).late = [] ∧ (s.chip.port (s.chip.ePort e.val)).refLate = false) ∧
    (∃ s : State, ∃ t : Nat, ∃ e : Fin 4096, s.chip.ready t ∧ s.chip.mgmtDue t e.val = true ∧ (s.chip.port (s.chip.ePort e.val)).queue = [] ∧ ((s.chip.port (s.chip.ePort e.val)).sent ≠ [] ∨ s.chip.rerangeNext (s.chip.ePort e.val) = none)) ∧
    (∃ s : State, ∃ t : Nat, ∃ e : Fin 4096, ∃ rx : Option (Nat × Option Nat), ∃ x : Exchange, ∃ rest : List Exchange, s.chip.ready t ∧ (s.chip.port (s.chip.ePort e.val)).queue = x :: rest ∧ s.chip.mgmtDue t e.val = true ∧ s.chip.guardCheck (s.chip.ePort e.val) e.val t rx = none) ∧
    (∃ s : State, ∃ t : Nat, ∃ e : Fin 4096, ∃ rx : Option (Nat × Option Nat), ∃ x : Exchange, ∃ rest : List Exchange, s.chip.ready t ∧ (s.chip.port (s.chip.ePort e.val)).queue = x :: rest ∧ s.chip.mgmtDue t e.val = true ∧ (s.chip.guardCheck (s.chip.ePort e.val) e.val t rx).isSome = true) ∧
    (∃ s : State, ∃ t : Nat, ∃ e : Fin 4096, ∃ rx : Option (Nat × Option Nat), ∃ b : Nat, s.chip.ready t ∧ s.chip.rerangeNext (s.chip.ePort e.val) = some b ∧ (s.chip.port (s.chip.ePort e.val)).queue = [] ∧ (s.chip.port (s.chip.ePort e.val)).sent = [] ∧ s.chip.mgmtDue t e.val = true ∧ (s.chip.guardCheck (s.chip.ePort e.val) e.val t rx).isSome = true) ∧
    (∃ s : State, ∃ t : Nat, ∃ p : Fin 64, s.chip.ready t ∧ s.chip.rxUp p.val = false) ∧
    (∃ s : State, ∃ t : Nat, ∃ p : Fin 64, ∃ f : TowFrame, s.chip.ready t ∧ s.chip.rxUp p.val = true ∧ (f.valid 5 false = false ∨ s.chip.mgmtAsked t p.val f = none)) ∧
    (∃ s : State, ∃ t : Nat, ∃ p : Fin 64, ∃ f : TowFrame, ∃ r : Sent, s.chip.ready t ∧ s.chip.mgmtAsked t p.val f = some r ∧ s.chip.rxUp p.val = true ∧ f.valid 5 false = true ∧ r.x.addressing = true) :=
  ⟨⟨(st w0), 0, 0, ⟨rfl, by decide +kernel⟩, by decide +kernel⟩,
   ⟨st (fs [(SYS_STATE__STATE, 1), (TOW_PORT_CFG__EN 0, 1), (TOW_PORT_STAT__PSTATE 0, 8)] (tw [(0, 0xC0000000)] w0)), 0, 0, ⟨rfl, by decide +kernel⟩, by decide +kernel⟩,
   ⟨st (po { Port.init with queue := [ex false false .step 0] } (fs [(SYS_STATE__STATE, 1), (TOW_PORT_CFG__EN 0, 1), (TOW_PORT_STAT__PSTATE 0, 8)] (tw [(0, 0xC0000000)] w0))), 0, 0, none, ex false false .step 0, [], ⟨rfl, by decide +kernel⟩, by decide +kernel⟩,
   ⟨st (po { Port.init with queue := [ex false false .step 0] } (fs [(SYS_STATE__STATE, 1), (TOW_PORT_CFG__EN 0, 1), (TOW_PORT_STAT__PSTATE 0, 8)] (tw [(0, 0xC0000000), (8, 0xFFFF0000)] w0))), 0, 0, none, ex false false .step 0, [], ⟨rfl, by decide +kernel⟩, by decide +kernel⟩,
   ⟨st (fs [(SYS_STATE__STATE, 1), (TOW_PORT_CFG__EN 0, 1), (TOW_PORT_STAT__PSTATE 0, 8), (TOW_BSTAT__ADMST 0, 1)] (tw [(0, 0xC0000000), (8, 0xFFFF0000), (towBarges + 4, 0x80000000)] w0)), 0, 0, none, 0, ⟨rfl, by decide +kernel⟩, by decide +kernel⟩,
   ⟨(st w0), 0, 0, ⟨rfl, by decide +kernel⟩, by decide +kernel⟩,
   ⟨sf [(TOW_PORT_STAT__RX_UP 0, 1)], 0, 0, ⟨0, 0, [], true, 0⟩, ⟨rfl, by decide +kernel⟩, by decide +kernel⟩,
   ⟨st (po { Port.init with sent := [⟨ex false true .step 1, 0, 0, 9, 0⟩] } (fs [(TOW_PORT_STAT__RX_UP 0, 1)] w0)), 0, 0, ⟨0x51700000, 0x0, List.replicate 0 0, true, 0⟩, ⟨ex false true .step 1, 0, 0, 9, 0⟩, ⟨rfl, by decide +kernel⟩, by decide +kernel⟩⟩

/-- States and operands that meet the hypotheses of `Obligations.BringUpAndManagementExchange`, part 3 of 4. -/
theorem test_met_BringUpAndManagementExchange_3 :
    (∃ s : State, ∃ t : Nat, ∃ p : Fin 64, ∃ f : TowFrame, ∃ r : Sent, s.chip.ready t ∧ s.chip.mgmtAsked t p.val f = some r ∧ s.chip.rxUp p.val = true ∧ f.valid 5 false = true ∧ r.x.addressing = false ∧ s.chip.pstate p.val = 8) ∧
    (∃ s : State, ∃ t : Nat, ∃ p : Fin 64, ∃ f : TowFrame, ∃ r : Sent, s.chip.ready t ∧ s.chip.mgmtAsked t p.val f = some r ∧ s.chip.rxUp p.val = true ∧ f.valid 5 false = true ∧ r.x.addressing = false ∧ s.chip.pstate p.val = 2 ∧ r.x.why = .step) ∧
    (∃ s : State, ∃ t : Nat, ∃ p : Fin 64, s.chip.ready t ∧ (s.chip.port p.val).sent.find? (fun r => !(r.x.addressing && !r.x.bcast) && decide (r.t + r.closes ≤ t)) = none) ∧
    (∃ s : State, ∃ t : Nat, ∃ p : Fin 64, ∃ r : Sent, s.chip.ready t ∧ (s.chip.port p.val).sent.find? (fun r => !(r.x.addressing && !r.x.bcast) && decide (r.t + r.closes ≤ t)) = some r ∧ r.x.why ≠ .step ∧ r.x.bcast = false ∧ r.x.sends < 3) ∧
    (∃ s : State, ∃ t : Nat, ∃ p : Fin 64, ∃ r : Sent, s.chip.ready t ∧ (s.chip.port p.val).sent.find? (fun r => !(r.x.addressing && !r.x.bcast) && decide (r.t + r.closes ≤ t)) = some r ∧ 3 ≤ r.x.sends ∧ s.chip.pstate p.val = 8) ∧
    (∃ s : State, ∃ t : Nat, ∃ p : Fin 64, ∃ n : Nat, s.chip.ready t ∧ s.chip.enumAsked t p.val n = none) ∧
    (∃ s : State, ∃ t : Nat, ∃ p : Fin 64, ∃ n : Nat, ∃ r : Sent, s.chip.ready t ∧ s.chip.enumAsked t p.val n = some r ∧ r.x.why = .step ∧ s.chip.pstate p.val = 3) ∧
    (∃ s : State, ∃ t : Nat, ∃ p : Fin 64, ∃ n : Nat, ∃ r : Sent, s.chip.ready t ∧ s.chip.enumAsked t p.val n = some r ∧ (r.x.why = .readmit 3 ∨ r.x.why = .readmit 2)) :=
  ⟨⟨st (po { Port.init with sent := [⟨ex false false .step 1, 0, 0, 9, 0⟩] } (fs [(TOW_PORT_STAT__RX_UP 0, 1), (TOW_PORT_STAT__PSTATE 0, 8)] w0)), 0, 0, ⟨0x51000000, 0x0, List.replicate 0 0, true, 0⟩, ⟨ex false false .step 1, 0, 0, 9, 0⟩, ⟨rfl, by decide +kernel⟩, by decide +kernel⟩,
   ⟨st (po { Port.init with sent := [⟨ex false false .step 1, 0, 0, 9, 0⟩] } (fs [(TOW_PORT_STAT__RX_UP 0, 1), (TOW_PORT_STAT__PSTATE 0, 2)] w0)), 0, 0, ⟨0x51000000, 0x0, List.replicate 0 0, true, 0⟩, ⟨ex false false .step 1, 0, 0, 9, 0⟩, ⟨rfl, by decide +kernel⟩, by decide +kernel⟩,
   ⟨(st w0), 0, 0, ⟨rfl, by decide +kernel⟩, by decide +kernel⟩,
   ⟨st (po { Port.init with sent := [⟨ex false false .rerange 1, 0, 0, 0, 0⟩] } (fs [(TOW_PORT_STAT__RX_UP 0, 1)] w0)), 0, 0, ⟨ex false false .rerange 1, 0, 0, 0, 0⟩, ⟨rfl, by decide +kernel⟩, by decide +kernel⟩,
   ⟨st (po { Port.init with sent := [⟨ex false false .rerange 3, 0, 0, 0, 0⟩] } (fs [(TOW_PORT_STAT__RX_UP 0, 1), (TOW_PORT_STAT__PSTATE 0, 8)] w0)), 0, 0, ⟨ex false false .rerange 3, 0, 0, 0, 0⟩, ⟨rfl, by decide +kernel⟩, by decide +kernel⟩,
   ⟨(st w0), 0, 0, 0, ⟨rfl, by decide +kernel⟩, by decide +kernel⟩,
   ⟨st (po { Port.init with sent := [⟨ex false true .step 1, 0, 0, 0, 0⟩] } (fs [(TOW_PORT_STAT__RX_UP 0, 1), (TOW_PORT_STAT__PSTATE 0, 3)] w0)), 0, 0, 0, ⟨ex false true .step 1, 0, 0, 0, 0⟩, ⟨rfl, by decide +kernel⟩, by decide +kernel⟩,
   ⟨st (po { Port.init with sent := [⟨ex false true (.readmit 3) 1, 0, 0, 0, 0⟩] } (fs [(TOW_PORT_STAT__RX_UP 0, 1)] w0)), 0, 0, 0, ⟨ex false true (.readmit 3) 1, 0, 0, 0, 0⟩, ⟨rfl, by decide +kernel⟩, by decide +kernel⟩⟩

/-- States and operands that meet the hypotheses of `Obligations.BringUpAndManagementExchange`, part 4 of 4. -/
theorem test_met_BringUpAndManagementExchange_4 :
    (∃ s : State, ∃ t : Nat, ∃ ifc : Iface, ∃ tag : Word, ∃ target : Word, ∃ pl : List Word, s.chip.takes t 0x0601 ifc tag target pl 0 ∧ (1 < bits (wordAt pl 0) 31 30 ∨ bits (wordAt pl 0) 6 0 = 0 ∨ 64 < bits (wordAt pl 0) 6 0)) ∧
    (∃ s : State, ∃ t : Nat, ∃ ifc : Iface, ∃ tag : Word, ∃ target : Word, ∃ pl : List Word, s.chip.takes t 0x0601 ifc tag target pl 0 ∧ bits (wordAt pl 0) 31 30 ≤ 1 ∧ 1 ≤ bits (wordAt pl 0) 6 0 ∧ bits (wordAt pl 0) 6 0 ≤ 64 ∧ ((wordAt pl 1) % 4 ≠ 0 ∨ 65535 < wordAt pl 1)) ∧
    (∃ s : State, ∃ t : Nat, ∃ ifc : Iface, ∃ tag : Word, ∃ target : Word, ∃ pl : List Word, s.chip.takes t 0x0601 ifc tag target pl 0 ∧ bits (wordAt pl 0) 31 30 ≤ 1 ∧ 1 ≤ bits (wordAt pl 0) 6 0 ∧ bits (wordAt pl 0) 6 0 ≤ 64 ∧ (wordAt pl 1) % 4 = 0 ∧ wordAt pl 1 ≤ 65535 ∧ (s.chip.pstate target.toNat ≠ 8 ∨ s.chip.hasMgmt target.toNat = false)) ∧
    (∃ s : State, ∃ t : Nat, ∃ ifc : Iface, ∃ tag : Word, ∃ target : Word, ∃ pl : List Word, s.chip.takes t 0x0601 ifc tag target pl 0 ∧ bits (wordAt pl 0) 31 30 ≤ 1 ∧ 1 ≤ bits (wordAt pl 0) 6 0 ∧ bits (wordAt pl 0) 6 0 ≤ 64 ∧ (wordAt pl 1) % 4 = 0 ∧ wordAt pl 1 ≤ 65535 ∧ s.chip.pstate target.toNat = 8 ∧ s.chip.hasMgmt target.toNat = true) :=
  ⟨⟨(st w0), 0, Iface.spi, 0, 0, [0, 0], takes_of (by decide +kernel), by decide +kernel⟩,
   ⟨(st w0), 0, Iface.spi, 0, 0, [1, 1], takes_of (by decide +kernel), by decide +kernel⟩,
   ⟨(st w0), 0, Iface.spi, 0, 0, [1, 0], takes_of (by decide +kernel), by decide +kernel⟩,
   ⟨st (fs [(TOW_PORT_STAT__PSTATE 0, 8)] (tw [(0, 0xC0000000)] w0)), 0, Iface.spi, 0, 0, [1, 0], takes_of (by decide +kernel), by decide +kernel⟩⟩

/-- States and operands that meet the hypotheses of `Obligations.StagesEndChainsAndCaptureRestarts`, part 1 of 2. -/
theorem test_met_StagesEndChainsAndCaptureRestarts_1 :
    (∃ s : State, ∃ t : Nat, ∃ core : Fin 4, s.chip.ready t ∧ s.chip.coreChain core.val = none) ∧
    (∃ s : State, ∃ t : Nat, ∃ core : Fin 4, ∃ e : Nat × ChainRun, s.chip.ready t ∧ s.chip.coreChain core.val = some e) ∧
    (∃ s : State, ∃ t : Nat, ∃ core : Fin 4, ∃ e : Nat × ChainRun, s.chip.ready t ∧ s.chip.coreChain core.val = some e ∧ e.2.stage + 1 < s.chip.chStages e.1) ∧
    (∃ s : State, ∃ t : Nat, ∃ core : Fin 4, ∃ e : Nat × ChainRun, s.chip.ready t ∧ s.chip.coreChain core.val = some e ∧ s.chip.chStages e.1 ≤ e.2.stage + 1) ∧
    (∃ s : State, ∃ core : Fin 4, s.chip.boot.phase = .run ∧ ((s.chip.coreChain core.val).bind (fun e => e.2.deadline)) = none) ∧
    (∃ s : State, ∃ core : Fin 4, ∃ e : Nat × ChainRun, ∃ d : Nat, s.chip.boot.phase = .run ∧ s.chip.coreChain core.val = some e ∧ e.2.deadline = some d) ∧
    (∃ s : State, ∃ t : Nat, ∃ core : Fin 4, s.chip.ready t ∧ (s.chip.coreChain core.val).isSome = true) ∧
    (∃ s : State, ∃ t : Nat, ∃ ifc : Iface, ∃ v : Word, s.chip.ready t ∧ s.chip.serves ifc = true ∧ (s.chip.dryOrMoored = false ∨ capSrcOk (bits v.toNat 30 28) (bits v.toNat 25 16) = false ∨ 3 < bits v.toNat 10 8)) :=
  ⟨⟨(st w0), 0, 0, ⟨rfl, by decide +kernel⟩, by decide +kernel⟩,
   ⟨st (cr 0 (rn false true (some 0)) w0), 0, 0, (0, rn false true (some 0)), ⟨rfl, by decide +kernel⟩, by decide +kernel⟩,
   ⟨st (cr 0 (rn false true (some 0)) (sl [(0, 0x01000000)] w0)), 0, 0, (0, rn false true (some 0)), ⟨rfl, by decide +kernel⟩, by decide +kernel⟩,
   ⟨st (cr 0 (rn false true (some 0)) w0), 0, 0, (0, rn false true (some 0)), ⟨rfl, by decide +kernel⟩, by decide +kernel⟩,
   ⟨(st w0), 0, by decide +kernel⟩,
   ⟨st (cr 0 (rn false true (some 0)) w0), 0, (0, rn false true (some 0)), 0, by decide +kernel⟩,
   ⟨st (cr 0 (rn false true (some 0)) w0), 0, 0, ⟨rfl, by decide +kernel⟩, by decide +kernel⟩,
   ⟨sf [(SYS_STATE__STATE, 2)], 0, Iface.spi, 0, ⟨rfl, by decide +kernel⟩, by decide +kernel⟩⟩

/-- States and operands that meet the hypotheses of `Obligations.StagesEndChainsAndCaptureRestarts`, part 2 of 2. -/
theorem test_met_StagesEndChainsAndCaptureRestarts_2 :
    (∃ s : State, ∃ t : Nat, ∃ ifc : Iface, ∃ v : Word, s.chip.ready t ∧ s.chip.serves ifc = true ∧ s.chip.dryOrMoored = true ∧ capSrcOk (bits v.toNat 30 28) (bits v.toNat 25 16) = true ∧ bits v.toNat 10 8 ≤ 3) ∧
    (∃ s : State, ∃ t : Nat, ∃ ifc : Iface, s.chip.ready t ∧ s.chip.serves ifc = true ∧ (s.chip.dryOrMoored = false ∨ False)) ∧
    (∃ s : State, ∃ t : Nat, ∃ ifc : Iface, s.chip.ready t ∧ s.chip.serves ifc = true ∧ s.chip.dryOrMoored = true) ∧
    (∃ s : State, ∃ t : Nat, ∃ ifc : Iface, ∃ v : Word, s.chip.ready t ∧ s.chip.serves ifc = true ∧ (s.chip.dryOrMoored = false ∨ bits v.toNat 31 16 = 0 ∨ bits v.toNat 15 0 = 0 ∨ bits v.toNat 31 16 % bits v.toNat 15 0 ≠ 0)) ∧
    (∃ s : State, ∃ t : Nat, ∃ ifc : Iface, ∃ v : Word, s.chip.ready t ∧ s.chip.serves ifc = true ∧ s.chip.dryOrMoored = true ∧ bits v.toNat 31 16 ≠ 0 ∧ bits v.toNat 15 0 ≠ 0 ∧ bits v.toNat 31 16 % bits v.toNat 15 0 = 0) :=
  ⟨⟨(st w0), 0, Iface.spi, 0, ⟨rfl, by decide +kernel⟩, by decide +kernel⟩,
   ⟨sf [(SYS_STATE__STATE, 2)], 0, Iface.spi, ⟨rfl, by decide +kernel⟩, by decide +kernel⟩,
   ⟨(st w0), 0, Iface.spi, ⟨rfl, by decide +kernel⟩, by decide +kernel⟩,
   ⟨(st w0), 0, Iface.spi, 0, ⟨rfl, by decide +kernel⟩, by decide +kernel⟩,
   ⟨(st w0), 0, Iface.spi, 0x00010001, ⟨rfl, by decide +kernel⟩, by decide +kernel⟩⟩

/-- States and operands that meet the hypotheses of `Obligations.SluiceCommandsActWhereAllowed`, part 1 of 2. -/
theorem test_met_SluiceCommandsActWhereAllowed_1 :
    (∃ s : State, ∃ t : Nat, ∃ ifc : Iface, ∃ tag : Word, ∃ target : Word, ∃ pl : List Word, s.chip.takes t 0x0901 ifc tag target pl 0 ∧ chainFails pl = none ∧ (s.chip.run target.toNat).isSome = true) ∧
    (∃ s : State, ∃ t : Nat, ∃ ifc : Iface, ∃ tag : Word, ∃ target : Word, ∃ pl : List Word, ∃ f, s.chip.takes t 0x0901 ifc tag target pl 0 ∧ chainFails pl = some f) ∧
    (∃ s : State, ∃ t : Nat, ∃ ifc : Iface, ∃ tag : Word, ∃ target : Word, ∃ pl : List Word, s.chip.takes t 0x0901 ifc tag target pl 0 ∧ s.chip.role ≠ 1 ∧ s.chip.run target.toNat = none ∧ chainFails pl = none) ∧
    (∃ s : State, ∃ t : Nat, ∃ ifc : Iface, ∃ tag : Word, ∃ target : Word, ∃ pl : List Word, s.chip.takes t 0x0902 ifc tag target pl 0 ∧ s.chip.role ≠ 1) ∧
    (∃ s : State, ∃ t : Nat, ∃ ifc : Iface, ∃ tag : Word, ∃ target : Word, ∃ pl : List Word, s.chip.takes t 0x0903 ifc tag target pl 0 ∧ (s.chip.chEn target.toNat = false ∨ s.chip.chTrig target.toNat ≠ 0)) ∧
    (∃ s : State, ∃ t : Nat, ∃ ifc : Iface, ∃ tag : Word, ∃ target : Word, ∃ pl : List Word, s.chip.takes t 0x0903 ifc tag target pl 0 ∧ s.chip.chEn target.toNat = true ∧ s.chip.chTrig target.toNat = 0 ∧ (s.chip.run target.toNat).isSome = true) ∧
    (∃ s : State, ∃ t : Nat, ∃ ifc : Iface, ∃ tag : Word, ∃ target : Word, ∃ pl : List Word, s.chip.takes t 0x0903 ifc tag target pl 0 ∧ s.chip.chEn target.toNat = true ∧ s.chip.chTrig target.toNat = 0 ∧ s.chip.run target.toNat = none ∧ 256 ≤ (s.chip.list 1 (s.chip.chEntry target.toNat none none).prio).length) ∧
    (∃ s : State, ∃ t : Nat, ∃ ifc : Iface, ∃ tag : Word, ∃ target : Word, ∃ pl : List Word, s.chip.takes t 0x0903 ifc tag target pl 0 ∧ s.chip.chEn target.toNat = true ∧ s.chip.chTrig target.toNat = 0 ∧ s.chip.run target.toNat = none ∧ (s.chip.list 1 (s.chip.chEntry target.toNat none none).prio).length < 256) :=
  ⟨⟨st (cr 0 (rn false true (some 0)) w0), 0, Iface.spi, 0, 0, List.replicate 20 0, takes_of (by decide +kernel), by decide +kernel⟩,
   ⟨(st w0), 0, Iface.spi, 0, 0, 0x80000000 :: List.replicate 19 0, (0, 1), takes_of (by decide +kernel), by decide +kernel⟩,
   ⟨(st w0), 0, Iface.spi, 0, 0, List.replicate 20 0, takes_of (by decide +kernel), by decide +kernel⟩,
   ⟨(st w0), 0, Iface.spi, 0, 0, List.replicate 16 0, takes_of (by decide +kernel), by decide +kernel⟩,
   ⟨(st w0), 0, Iface.spi, 0, 0, [], takes_of (by decide +kernel), by decide +kernel⟩,
   ⟨st (cr 0 (rn false true (some 0)) (sl [(0, 0x80000000)] w0)), 0, Iface.spi, 0, 0, [], takes_of (by decide +kernel), by decide +kernel⟩,
   ⟨st (rl 8 (List.replicate 256 ⟨0, 0, none, .chain 0, 0, .firmware⟩) (sl [(0, 0x80000000)] w0)), 0, Iface.spi, 0, 0, [], takes_of (by decide +kernel), by decide +kernel⟩,
   ⟨st (sl [(0, 0x80000000)] w0), 0, Iface.spi, 0, 0, [], takes_of (by decide +kernel), by decide +kernel⟩⟩

/-- States and operands that meet the hypotheses of `Obligations.SluiceCommandsActWhereAllowed`, part 2 of 2. -/
theorem test_met_SluiceCommandsActWhereAllowed_2 :
    (∃ s : State, ∃ t : Nat, ∃ ifc : Iface, ∃ tag : Word, ∃ target : Word, ∃ pl : List Word, s.chip.takes t 0x0904 ifc tag target pl 0 ∧ s.chip.run target.toNat = none) ∧
    (∃ s : State, ∃ t : Nat, ∃ ifc : Iface, ∃ tag : Word, ∃ target : Word, ∃ pl : List Word, s.chip.takes t 0x0904 ifc tag target pl 0 ∧ (s.chip.run target.toNat).isSome = true) ∧
    (∃ s : State, ∃ t : Nat, ∃ ifc : Iface, ∃ tag : Word, ∃ target : Word, ∃ pl : List Word, s.chip.takes t 0x0905 ifc tag target pl 0 ∧ (bits (wordAt pl 0) 5 4 = 3 ∨ coreSize (bits (wordAt pl 0) 5 4) ≤ bits (wordAt pl 0) 31 16)) ∧
    (∃ s : State, ∃ t : Nat, ∃ ifc : Iface, ∃ tag : Word, ∃ target : Word, ∃ pl : List Word, s.chip.takes t 0x0905 ifc tag target pl 0 ∧ bits (wordAt pl 0) 5 4 ≠ 3 ∧ bits (wordAt pl 0) 31 16 < coreSize (bits (wordAt pl 0) 5 4) ∧ coreSize (bits (wordAt pl 0) 5 4) < bits (wordAt pl 0) 31 16 + wordAt pl 1) ∧
    (∃ s : State, ∃ t : Nat, ∃ ifc : Iface, ∃ tag : Word, ∃ target : Word, ∃ pl : List Word, s.chip.takes t 0x0905 ifc tag target pl 0 ∧ bits (wordAt pl 0) 5 4 ≠ 3 ∧ bits (wordAt pl 0) 31 16 + wordAt pl 1 ≤ coreSize (bits (wordAt pl 0) 5 4) ∧ bits (wordAt pl 0) 31 16 < coreSize (bits (wordAt pl 0) 5 4) ∧ s.chip.coreIdle (bits (wordAt pl 0) 1 0) = true) ∧
    (∃ s : State, ∃ t : Nat, ∃ ifc : Iface, ∃ tag : Word, ∃ target : Word, ∃ pl : List Word, s.chip.takes t 0x0905 ifc tag target pl 0 ∧ bits (wordAt pl 0) 5 4 ≠ 3 ∧ bits (wordAt pl 0) 31 16 + wordAt pl 1 ≤ coreSize (bits (wordAt pl 0) 5 4) ∧ bits (wordAt pl 0) 31 16 < coreSize (bits (wordAt pl 0) 5 4) ∧ s.chip.coreIdle (bits (wordAt pl 0) 1 0) = false) :=
  ⟨⟨(st w0), 0, Iface.spi, 0, 0, [], takes_of (by decide +kernel), by decide +kernel⟩,
   ⟨st (cr 0 (rn false true (some 0)) w0), 0, Iface.spi, 0, 0, [], takes_of (by decide +kernel), by decide +kernel⟩,
   ⟨(st w0), 0, Iface.spi, 0, 0, [48, 1, 7], takes_of (by decide +kernel), by decide +kernel⟩,
   ⟨(st w0), 0, Iface.spi, 0, 0, [0xFFFF0000, 2, 7], takes_of (by decide +kernel), by decide +kernel⟩,
   ⟨(st w0), 0, Iface.spi, 0, 0, [0, 1, 7], takes_of (by decide +kernel), by decide +kernel⟩,
   ⟨st (cr 0 (rn false true (some 0)) w0), 0, Iface.spi, 0, 0, [0, 1, 7], takes_of (by decide +kernel), by decide +kernel⟩⟩

/-- States and operands that meet the hypotheses of `Obligations.ConvertersRunTheirSequences`, part 1 of 3. -/
theorem test_met_ConvertersRunTheirSequences_1 :
    (∃ s : State, ∃ t : Nat, ∃ ifc : Iface, ∃ x : Fin 2, s.chip.ready t ∧ s.chip.serves ifc = true ∧ s.chip.flag (ADC_CFG__EN x.val) = false) ∧
    (∃ s : State, ∃ t : Nat, ∃ ifc : Iface, ∃ x : Fin 2, s.chip.ready t ∧ s.chip.serves ifc = true ∧ s.chip.flag (ADC_CFG__EN x.val) = true ∧ (s.chip.adcC x.val).reg = none ∧ (s.chip.adcC x.val).inj = none) ∧
    (∃ s : State, ∃ t : Nat, ∃ ifc : Iface, ∃ x : Fin 2, s.chip.ready t ∧ s.chip.serves ifc = true ∧ s.chip.flag (ADC_CFG__EN x.val) = true ∧ (s.chip.adcC x.val).reg = none ∧ (s.chip.adcC x.val).inj.isSome = true ∧ (s.chip.adcC x.val).held = false) ∧
    (∃ s : State, ∃ t : Nat, ∃ ifc : Iface, ∃ x : Fin 2, s.chip.ready t ∧ s.chip.serves ifc = true ∧ s.chip.flag (ADC_CFG__EN x.val) = true ∧ ((s.chip.adcC x.val).reg.isSome = true ∨ ((s.chip.adcC x.val).inj.isSome = true ∧ (s.chip.adcC x.val).held = true))) ∧
    (∃ s : State, ∃ t : Nat, ∃ ifc : Iface, ∃ x : Fin 2, s.chip.ready t ∧ s.chip.serves ifc = true ∧ s.chip.flag (ADC_CFG__EN x.val) = true ∧ (s.chip.adcC x.val).inj = none) ∧
    (∃ s : State, ∃ t : Nat, ∃ ifc : Iface, ∃ x : Fin 2, s.chip.ready t ∧ s.chip.serves ifc = true ∧ s.chip.flag (ADC_CFG__EN x.val) = true ∧ (s.chip.adcC x.val).inj.isSome = true) ∧
    (∃ s : State, ∃ t : Nat, ∃ x : Fin 2, ∃ inj : Bool, s.chip.ready t ∧ (if inj = true then (s.chip.adcC x.val).inj else if (s.chip.adcC x.val).inj = none then (s.chip.adcC x.val).reg else none) = none) ∧
    (∃ s : State, ∃ t : Nat, ∃ x : Fin 2, ∃ inj : Bool, ∃ r : AdcRun, s.chip.ready t ∧ (if inj = true then (s.chip.adcC x.val).inj else if (s.chip.adcC x.val).inj = none then (s.chip.adcC x.val).reg else none) = some r ∧ (r.begun = true ∨ t < r.next)) :=
  ⟨⟨(st w0), 0, Iface.spi, 0, ⟨rfl, by decide +kernel⟩, by decide +kernel⟩,
   ⟨sf [(ADC_CFG__EN 0, 1)], 0, Iface.spi, 0, ⟨rfl, by decide +kernel⟩, by decide +kernel⟩,
   ⟨st (fs [(ADC_CFG__EN 0, 1)] (ad ⟨none, some (ar true), false, none⟩ w0)), 0, Iface.spi, 0, ⟨rfl, by decide +kernel⟩, by decide +kernel⟩,
   ⟨st (fs [(ADC_CFG__EN 0, 1)] (ad ⟨some (ar true), none, false, none⟩ w0)), 0, Iface.spi, 0, ⟨rfl, by decide +kernel⟩, by decide +kernel⟩,
   ⟨sf [(ADC_CFG__EN 0, 1)], 0, Iface.spi, 0, ⟨rfl, by decide +kernel⟩, by decide +kernel⟩,
   ⟨st (fs [(ADC_CFG__EN 0, 1)] (ad ⟨none, some (ar true), false, none⟩ w0)), 0, Iface.spi, 0, ⟨rfl, by decide +kernel⟩, by decide +kernel⟩,
   ⟨(st w0), 0, 0, false, ⟨rfl, by decide +kernel⟩, by decide +kernel⟩,
   ⟨st (ad ⟨some (ar true), none, false, none⟩ w0), 0, 0, false, ar true, ⟨rfl, by decide +kernel⟩, by decide +kernel⟩⟩

/-- States and operands that meet the hypotheses of `Obligations.ConvertersRunTheirSequences`, part 2 of 3. -/
theorem test_met_ConvertersRunTheirSequences_2 :
    (∃ s : State, ∃ t : Nat, ∃ x : Fin 2, ∃ inj : Bool, ∃ r : AdcRun, s.chip.ready t ∧ (if inj = true then (s.chip.adcC x.val).inj else if (s.chip.adcC x.val).inj = none then (s.chip.adcC x.val).reg else none) = some r ∧ r.begun = false ∧ r.next ≤ t) ∧
    (∃ s : State, ∃ t : Nat, ∃ x : Fin 2, s.chip.ready t ∧ ((match (s.chip.adcC x.val).inj, (s.chip.adcC x.val).reg with | some r, _ => r.begun && decide (r.next + convTicks (s.chip.adcLp x.val) ≤ t) | none, some r => r.begun && decide (r.next + convTicks (s.chip.adcLp x.val) ≤ t) | none, none => false) = false)) ∧
    (∃ s : State, ∃ t : Nat, ∃ x : Fin 2, ∃ r : AdcRun, s.chip.ready t ∧ (s.chip.adcC x.val).inj = some r ∧ r.begun = true ∧ r.next + convTicks (s.chip.adcLp x.val) ≤ t ∧ r.got + 1 < 2 ^ entryD (s.chip.adcEntry x.val true r.entry)) ∧
    (∃ s : State, ∃ t : Nat, ∃ x : Fin 2, ∃ r : AdcRun, s.chip.ready t ∧ (s.chip.adcC x.val).inj = some r ∧ r.begun = true ∧ r.next + convTicks (s.chip.adcLp x.val) ≤ t ∧ 2 ^ entryD (s.chip.adcEntry x.val true r.entry) ≤ r.got + 1 ∧ r.entry < 4) ∧
    (∃ s : State, ∃ t : Nat, ∃ x : Fin 2, ∃ r : AdcRun, s.chip.ready t ∧ (s.chip.adcC x.val).reg = some r ∧ (s.chip.adcC x.val).inj = none ∧ r.begun = true ∧ r.next + convTicks (s.chip.adcLp x.val) ≤ t ∧ r.got + 1 < 2 ^ entryD (s.chip.adcEntry x.val false r.entry)) ∧
    (∃ s : State, ∃ t : Nat, ∃ x : Fin 2, ∃ r : AdcRun, s.chip.ready t ∧ (s.chip.adcC x.val).reg = some r ∧ (s.chip.adcC x.val).inj = none ∧ r.begun = true ∧ r.next + convTicks (s.chip.adcLp x.val) ≤ t ∧ 2 ^ entryD (s.chip.adcEntry x.val false r.entry) ≤ r.got + 1 ∧ r.entry < 16) ∧
    (∃ s : State, ∃ t : Nat, ∃ k : Fin 8, ∃ v : Int, s.chip.ready t ∧ (s.chip.at t).cmpTake k.val v = (s.chip.reg ADC_CMP_STAT).testBit k.val) ∧
    (∃ s : State, ∃ t : Nat, ∃ k : Fin 8, ∃ v : Int, ∃ level : Bool, s.chip.ready t ∧ (s.chip.at t).cmpTake k.val v = level ∧ level ≠ (s.chip.reg ADC_CMP_STAT).testBit k.val ∧ (¬ (s.chip.fld (ADC_CMP__EDGE k.val) = 3 ∨ (s.chip.fld (ADC_CMP__EDGE k.val) = 1 ∧ level = true) ∨ (s.chip.fld (ADC_CMP__EDGE k.val) = 2 ∧ level = false)))) :=
  ⟨⟨st (ad ⟨some (ar false), none, false, none⟩ w0), 0, 0, false, ar false, ⟨rfl, by decide +kernel⟩, by decide +kernel⟩,
   ⟨(st w0), 0, 0, ⟨rfl, by decide +kernel⟩, by decide +kernel⟩,
   ⟨st (ad ⟨none, some (ar true), false, none⟩ ((fun c => { c with regs := [(ADC_INJ 0 0, 0x10000)] }) w0)), 10000, 0, ar true, ⟨rfl, by decide +kernel⟩, by decide +kernel⟩,
   ⟨st (ad ⟨none, some (ar true), false, none⟩ w0), 10000, 0, ar true, ⟨rfl, by decide +kernel⟩, by decide +kernel⟩,
   ⟨st (ad ⟨some (ar true), none, false, none⟩ ((fun c => { c with regs := [(ADC_SEQ 0 0, 0x10000)] }) w0)), 10000, 0, ar true, ⟨rfl, by decide +kernel⟩, by decide +kernel⟩,
   ⟨st (ad ⟨some (ar true), none, false, none⟩ w0), 10000, 0, ar true, ⟨rfl, by decide +kernel⟩, by decide +kernel⟩,
   ⟨(st w0), 0, 0, 0, ⟨rfl, by decide +kernel⟩, by decide +kernel⟩,
   ⟨(st w0), 1000, 0, 3000000000, true, ⟨rfl, by decide +kernel⟩, by decide +kernel⟩⟩

/-- States and operands that meet the hypotheses of `Obligations.ConvertersRunTheirSequences`, part 3 of 3. -/
theorem test_met_ConvertersRunTheirSequences_3 :
    (∃ s : State, ∃ t : Nat, ∃ k : Fin 8, ∃ v : Int, ∃ level : Bool, s.chip.ready t ∧ (s.chip.at t).cmpTake k.val v = level ∧ level ≠ (s.chip.reg ADC_CMP_STAT).testBit k.val ∧ (s.chip.fld (ADC_CMP__EDGE k.val) = 3 ∨ (s.chip.fld (ADC_CMP__EDGE k.val) = 1 ∧ level = true) ∨ (s.chip.fld (ADC_CMP__EDGE k.val) = 2 ∧ level = false))) ∧
    (∃ s : State, ∃ t : Nat, ∃ ifc : Iface, s.chip.ready t ∧ s.chip.serves ifc = true) :=
  ⟨⟨sf [(ADC_CMP__EDGE 0, 1)], 1000, 0, 3000000000, true, ⟨rfl, by decide +kernel⟩, by decide +kernel⟩,
   ⟨(st w0), 0, Iface.spi, ⟨rfl, by decide +kernel⟩, by decide +kernel⟩⟩

/-- States and operands that meet the hypotheses of `Obligations.GaugeIsArmedStoppedAndReleased`, part 1 of 3. -/
theorem test_met_GaugeIsArmedStoppedAndReleased_1 :
    (∃ s : State, ∃ t : Nat, ∃ ifc : Iface, s.chip.ready t ∧ s.chip.serves ifc = true ∧ s.chip.gauState = 0 ∧ s.chip.gauOk = true) ∧
    (∃ s : State, ∃ t : Nat, ∃ ifc : Iface, ∃ tag : Word, ∃ target : Word, ∃ pl : List Word, s.chip.takes t 0x0A01 ifc tag target pl 0 ∧ s.chip.gauState = 0 ∧ s.chip.gauOk = true) ∧
    (∃ s : State, ∃ t : Nat, ∃ ifc : Iface, s.chip.ready t ∧ s.chip.serves ifc = true ∧ (s.chip.gauState ≠ 0 ∨ s.chip.gauOk = false)) ∧
    (∃ s : State, ∃ t : Nat, ∃ ifc : Iface, ∃ tag : Word, ∃ target : Word, ∃ pl : List Word, s.chip.takes t 0x0A01 ifc tag target pl 0 ∧ (s.chip.gauState ≠ 0 ∨ s.chip.gauOk = false)) ∧
    (∃ s : State, ∃ t : Nat, ∃ ifc : Iface, s.chip.ready t ∧ s.chip.serves ifc = true ∧ (s.chip.gauState = 0 ∨ 5 < s.chip.gauState)) ∧
    (∃ s : State, ∃ t : Nat, ∃ ifc : Iface, ∃ tag : Word, ∃ target : Word, ∃ pl : List Word, s.chip.takes t 0x0A02 ifc tag target pl 0 ∧ (s.chip.gauState = 0 ∨ 5 < s.chip.gauState)) ∧
    (∃ s : State, ∃ t : Nat, ∃ ifc : Iface, s.chip.ready t ∧ s.chip.serves ifc = true ∧ s.chip.gauState = 1) ∧
    (∃ s : State, ∃ t : Nat, ∃ ifc : Iface, ∃ tag : Word, ∃ target : Word, ∃ pl : List Word, s.chip.takes t 0x0A02 ifc tag target pl 0 ∧ s.chip.gauState = 1) :=
  ⟨⟨st ((fun c => { c with regs := [(GAU_CH_EN_LO, 1)] }) w0), 0, Iface.spi, ⟨rfl, by decide +kernel⟩, by decide +kernel⟩,
   ⟨st ((fun c => { c with regs := [(GAU_CH_EN_LO, 1)] }) w0), 0, Iface.spi, 0, 0, [], takes_of (by decide +kernel), by decide +kernel⟩,
   ⟨(st w0), 0, Iface.spi, ⟨rfl, by decide +kernel⟩, by decide +kernel⟩,
   ⟨(st w0), 0, Iface.spi, 0, 0, [], takes_of (by decide +kernel), by decide +kernel⟩,
   ⟨(st w0), 0, Iface.spi, ⟨rfl, by decide +kernel⟩, by decide +kernel⟩,
   ⟨(st w0), 0, Iface.spi, 0, 0, [], takes_of (by decide +kernel), by decide +kernel⟩,
   ⟨sf [(GAU_STATUS__STATE, 1)], 0, Iface.spi, ⟨rfl, by decide +kernel⟩, by decide +kernel⟩,
   ⟨sf [(GAU_STATUS__STATE, 1)], 0, Iface.spi, 0, 0, [], takes_of (by decide +kernel), by decide +kernel⟩⟩

/-- States and operands that meet the hypotheses of `Obligations.GaugeIsArmedStoppedAndReleased`, part 2 of 3. -/
theorem test_met_GaugeIsArmedStoppedAndReleased_2 :
    (∃ s : State, ∃ t : Nat, ∃ ifc : Iface, s.chip.ready t ∧ s.chip.serves ifc = true ∧ (s.chip.gauState = 2 ∨ s.chip.gauState = 3)) ∧
    (∃ s : State, ∃ t : Nat, ∃ ifc : Iface, ∃ tag : Word, ∃ target : Word, ∃ pl : List Word, s.chip.takes t 0x0A02 ifc tag target pl 0 ∧ (s.chip.gauState = 2 ∨ s.chip.gauState = 3)) ∧
    (∃ s : State, ∃ t : Nat, ∃ ifc : Iface, s.chip.ready t ∧ s.chip.serves ifc = true ∧ s.chip.gauState = 4) ∧
    (∃ s : State, ∃ t : Nat, ∃ ifc : Iface, ∃ tag : Word, ∃ target : Word, ∃ pl : List Word, s.chip.takes t 0x0A02 ifc tag target pl 0 ∧ s.chip.gauState = 4) ∧
    (∃ s : State, ∃ t : Nat, ∃ ifc : Iface, s.chip.ready t ∧ s.chip.serves ifc = true ∧ s.chip.gauState = 5) ∧
    (∃ s : State, ∃ t : Nat, ∃ ifc : Iface, ∃ tag : Word, ∃ target : Word, ∃ pl : List Word, s.chip.takes t 0x0A02 ifc tag target pl 0 ∧ s.chip.gauState = 5) ∧
    (∃ s : State, ∃ t : Nat, ∃ ifc : Iface, ∃ tag : Word, ∃ target : Word, ∃ pl : List Word, s.chip.takes t 0x0A03 ifc tag target pl 0 ∧ (s.chip.gauState = 2 ∨ s.chip.gauState = 3)) ∧
    (∃ s : State, ∃ t : Nat, ∃ ifc : Iface, s.chip.ready t ∧ s.chip.serves ifc = true ∧ s.chip.gauState ≠ 2 ∧ s.chip.gauState ≠ 3) :=
  ⟨⟨sf [(GAU_STATUS__STATE, 2)], 0, Iface.spi, ⟨rfl, by decide +kernel⟩, by decide +kernel⟩,
   ⟨sf [(GAU_STATUS__STATE, 2)], 0, Iface.spi, 0, 0, [], takes_of (by decide +kernel), by decide +kernel⟩,
   ⟨sf [(GAU_STATUS__STATE, 4)], 0, Iface.spi, ⟨rfl, by decide +kernel⟩, by decide +kernel⟩,
   ⟨sf [(GAU_STATUS__STATE, 4)], 0, Iface.spi, 0, 0, [], takes_of (by decide +kernel), by decide +kernel⟩,
   ⟨sf [(GAU_STATUS__STATE, 5)], 0, Iface.spi, ⟨rfl, by decide +kernel⟩, by decide +kernel⟩,
   ⟨sf [(GAU_STATUS__STATE, 5)], 0, Iface.spi, 0, 0, [], takes_of (by decide +kernel), by decide +kernel⟩,
   ⟨sf [(GAU_STATUS__STATE, 2)], 0, Iface.spi, 0, 0, [], takes_of (by decide +kernel), by decide +kernel⟩,
   ⟨(st w0), 0, Iface.spi, ⟨rfl, by decide +kernel⟩, by decide +kernel⟩⟩

/-- States and operands that meet the hypotheses of `Obligations.GaugeIsArmedStoppedAndReleased`, part 3 of 3. -/
theorem test_met_GaugeIsArmedStoppedAndReleased_3 :
    (∃ s : State, ∃ t : Nat, ∃ ifc : Iface, ∃ tag : Word, ∃ target : Word, ∃ pl : List Word, s.chip.takes t 0x0A03 ifc tag target pl 0 ∧ s.chip.gauState ≠ 2 ∧ s.chip.gauState ≠ 3) ∧
    (∃ s : State, ∃ t : Nat, ∃ ifc : Iface, ∃ v : Word, ∃ r : Record, ∃ rest : List Record, s.chip.ready t ∧ s.chip.serves ifc = true ∧ s.chip.gau.recs = r :: rest ∧ r.done = true ∧ r.seq = v.toNat % 2 ^ 16) ∧
    (∃ s : State, ∃ t : Nat, ∃ ifc : Iface, ∃ v : Word, s.chip.ready t ∧ s.chip.serves ifc = true ∧ s.chip.gau.recs.head?.all (fun r => !r.done || r.seq != v.toNat % 2 ^ 16) = true) ∧
    (∃ s : State, ∃ t : Nat, ∃ ifc : Iface, ∃ tag : Word, ∃ target : Word, ∃ pl : List Word, ∃ r : Record, ∃ rest : List Record, s.chip.takes t 0x0A04 ifc tag target pl 0 ∧ s.chip.gau.recs = r :: rest ∧ r.done = true ∧ r.seq = wordAt pl 0 % 2 ^ 16) ∧
    (∃ s : State, ∃ t : Nat, ∃ ifc : Iface, ∃ tag : Word, ∃ target : Word, ∃ pl : List Word, s.chip.takes t 0x0A04 ifc tag target pl 0 ∧ s.chip.gau.recs.head?.all (fun r => !r.done || r.seq != wordAt pl 0 % 2 ^ 16) = true) :=
  ⟨⟨(st w0), 0, Iface.spi, 0, 0, [], takes_of (by decide +kernel), by decide +kernel⟩,
   ⟨st ((fun c => { c with gau := { c.gau with recs := [⟨0, 0, 256, true⟩] } }) w0), 0, Iface.spi, 0, ⟨0, 0, 256, true⟩, [], ⟨rfl, by decide +kernel⟩, by decide +kernel⟩,
   ⟨(st w0), 0, Iface.spi, 0, ⟨rfl, by decide +kernel⟩, by decide +kernel⟩,
   ⟨st ((fun c => { c with gau := { c.gau with recs := [⟨0, 0, 256, true⟩] } }) w0), 0, Iface.spi, 0, 0, [0], ⟨0, 0, 256, true⟩, [], takes_of (by decide +kernel), by decide +kernel⟩,
   ⟨(st w0), 0, Iface.spi, 0, 0, [0], takes_of (by decide +kernel), by decide +kernel⟩⟩

/-- States and operands that meet the hypotheses of `Obligations.GaugeRecordsRowsInOrder`. -/
theorem test_met_GaugeRecordsRowsInOrder :
    (∃ s : State, ∃ t : Nat, s.chip.ready t ∧ (s.chip.gauState ≠ 1 ∨ s.chip.gauReserve = none)) ∧
    (∃ s : State, ∃ t : Nat, ∃ r : Nat × Nat × Bool × Bool, s.chip.ready t ∧ s.chip.gauReserve = some r ∧ s.chip.gauState = 1) ∧
    (∃ s : State, ∃ t : Nat, s.chip.ready t ∧ (¬ (s.chip.gauState = 2 ∨ s.chip.gauState = 3 ∨ s.chip.gauState = 4) ∨ (s.chip.at t).gauTick = false)) ∧
    (∃ s : State, ∃ t : Nat, s.chip.ready t ∧ (s.chip.gauState = 2 ∨ s.chip.gauState = 3 ∨ s.chip.gauState = 4) ∧ (s.chip.at t).gauTick = true) ∧
    (∃ s : State, ∃ t : Nat, s.chip.ready t ∧ s.chip.gauState = 4 ∧ (s.chip.at t).gauTick = true ∧ s.chip.gau.samples % 2 ^ s.chip.fld GAU_STATUS__DLOG_NOW = 0 ∧ s.chip.gau.memRows < s.chip.gau.postMem) ∧
    (∃ s : State, ∃ t : Nat, s.chip.ready t ∧ (s.chip.gauState = 2 ∨ s.chip.gauState = 3) ∧ (s.chip.at t).gauTick = true ∧ s.chip.gau.samples % 2 ^ s.chip.fld GAU_STATUS__DLOG_NOW = 0 ∧ ((s.chip.at t).gauPattern.2 && (s.chip.fld GAU_CFG__TSRC).testBit 0) = false ∧ s.chip.gau.latched = []) ∧
    (∃ s : State, ∃ t : Nat, s.chip.ready t ∧ (¬ (s.chip.gauState = 5 ∧ s.chip.gau.finishT ≤ t))) ∧
    (∃ s : State, ∃ t : Nat, ∃ r : Record, s.chip.ready t ∧ s.chip.gau.recs.getLast? = some r ∧ s.chip.gauState = 5 ∧ s.chip.gau.finishT ≤ t) :=
  ⟨⟨(st w0), 0, ⟨rfl, by decide +kernel⟩, by decide +kernel⟩,
   ⟨sf [(GAU_STATUS__STATE, 1)], 0, (w0.gauReserve.get (by decide)), ⟨rfl, by decide +kernel⟩, by decide +kernel⟩,
   ⟨(st w0), 0, ⟨rfl, by decide +kernel⟩, by decide +kernel⟩,
   ⟨sf [(GAU_STATUS__STATE, 2)], 0, ⟨rfl, by decide +kernel⟩, by decide +kernel⟩,
   ⟨st (fs [(GAU_STATUS__STATE, 4)] ((fun c => { c with gau := { c.gau with postMem := 1 } }) w0)), 0, ⟨rfl, by decide +kernel⟩, by decide +kernel⟩,
   ⟨sf [(GAU_STATUS__STATE, 2), (GAU_CFG__TSRC, 0)], 0, ⟨rfl, by decide +kernel⟩, by decide +kernel⟩,
   ⟨(st w0), 0, ⟨rfl, by decide +kernel⟩, by decide +kernel⟩,
   ⟨st (fs [(GAU_STATUS__STATE, 5)] ((fun c => { c with gau := { c.gau with recs := [⟨0, 0, 256, true⟩] } }) w0)), 0, ⟨0, 0, 256, true⟩, ⟨rfl, by decide +kernel⟩, by decide +kernel⟩⟩

/-- States and operands that meet the hypotheses of `Obligations.CausesLatchAndCutTheOutputs`, part 1 of 2. -/
theorem test_met_CausesLatchAndCutTheOutputs_1 :
    (∃ s : State, ∃ t : Nat, ∃ ifc : Iface, ∃ tag : Word, ∃ target : Word, ∃ pl : List Word, s.chip.takes t 0x0B03 ifc tag target pl 0 ∧ s.chip.wstate ≤ 2) ∧
    (∃ s : State, ∃ t : Nat, ∃ ifc : Iface, ∃ tag : Word, ∃ target : Word, ∃ pl : List Word, s.chip.takes t 0x0B03 ifc tag target pl 0 ∧ 3 ≤ s.chip.wstate) ∧
    (∃ s : State, ∃ t : Nat, s.chip.ready t ∧ (s.chip.reg WEI_CAUSE).testBit 15 = true) ∧
    (∃ s : State, ∃ t : Nat, s.chip.ready t ∧ (s.chip.reg WEI_CAUSE).testBit 15 = false) ∧
    (∃ s : State, ∃ t : Nat, ∃ n : Nat, s.chip.ready t ∧ 3992 ≤ n ∧ n ≤ 4008 ∧ (3996 ≤ n ∧ n ≤ 4004 ∨ (s.chip.reg WEI_CAUSE).testBit 15 = true)) ∧
    (∃ s : State, ∃ t : Nat, ∃ n : Nat, s.chip.ready t ∧ 3992 ≤ n ∧ n ≤ 4008 ∧ (n < 3996 ∨ 4004 < n) ∧ (s.chip.reg WEI_CAUSE).testBit 15 = false) ∧
    (∃ s : State, ∃ t : Nat, ∃ n : Nat, s.chip.ready t ∧ (n < 3992 ∨ 4008 < n)) ∧
    (∃ s : State, ∃ t : Nat, s.chip.ready t ∧ (s.chip.reg WEI_CAUSE).testBit 17 = true) :=
  ⟨⟨sf [(WEI_STATUS__WSTATE, 2)], 0, Iface.spi, 0, 0, [], takes_of (by decide +kernel), by decide +kernel⟩,
   ⟨sf [(WEI_STATUS__WSTATE, 3)], 0, Iface.spi, 0, 0, [], takes_of (by decide +kernel), by decide +kernel⟩,
   ⟨st ((fun c => { c with regs := [(WEI_CAUSE, 0x8000)] }) w0), 0, ⟨rfl, by decide +kernel⟩, by decide +kernel⟩,
   ⟨(st w0), 0, ⟨rfl, by decide +kernel⟩, by decide +kernel⟩,
   ⟨(st w0), 0, 4000, ⟨rfl, by decide +kernel⟩, by decide +kernel⟩,
   ⟨(st w0), 0, 3992, ⟨rfl, by decide +kernel⟩, by decide +kernel⟩,
   ⟨(st w0), 0, 0, ⟨rfl, by decide +kernel⟩, by decide +kernel⟩,
   ⟨st ((fun c => { c with regs := [(WEI_CAUSE, 0x20000)] }) w0), 0, ⟨rfl, by decide +kernel⟩, by decide +kernel⟩⟩

/-- States and operands that meet the hypotheses of `Obligations.CausesLatchAndCutTheOutputs`, part 2 of 2. -/
theorem test_met_CausesLatchAndCutTheOutputs_2 :
    (∃ s : State, ∃ t : Nat, s.chip.ready t ∧ (s.chip.reg WEI_CAUSE).testBit 17 = false) ∧
    (∃ s : State, ∃ t : Nat, ∃ okA : Bool, ∃ okB : Bool, s.chip.ready t ∧ (s.chip.weir.actV = false ∨ (okA = true ∧ okB = true) ∨ (s.chip.reg WEI_CAUSE).testBit 16 = true)) ∧
    (∃ s : State, ∃ t : Nat, ∃ okA : Bool, ∃ okB : Bool, s.chip.ready t ∧ s.chip.weir.actV = true ∧ (okA = false ∨ okB = false) ∧ (s.chip.reg WEI_CAUSE).testBit 16 = false) :=
  ⟨⟨(st w0), 0, ⟨rfl, by decide +kernel⟩, by decide +kernel⟩,
   ⟨(st w0), 0, false, false, ⟨rfl, by decide +kernel⟩, by decide +kernel⟩,
   ⟨st (wa [] w0), 0, false, false, ⟨rfl, by decide +kernel⟩, by decide +kernel⟩⟩

/-- States and operands that meet the hypotheses of `Obligations.SafeInputsAreFilteredAndTested`, part 1 of 2. -/
theorem test_met_SafeInputsAreFilteredAndTested_1 :
    (∃ s : State, ∃ t : Nat, s.chip.ready t) ∧
    (∃ s : State, ∃ t : Nat, ∃ i : Fin 24, ∃ b : Bool, s.chip.ready t ∧ (fastWatch (s.chip.ws (inOff i.val)) && !(b && (s.chip.ws (inOff i.val)).testBit 26) && !(s.chip.at t).inMasked (s.chip.ws (inOff i.val)) b) = false) ∧
    (∃ s : State, ∃ t : Nat, ∃ i : Fin 24, ∃ b : Bool, s.chip.ready t ∧ (fastWatch (s.chip.ws (inOff i.val)) && !(b && (s.chip.ws (inOff i.val)).testBit 26) && !(s.chip.at t).inMasked (s.chip.ws (inOff i.val)) b) = true) ∧
    (∃ s : State, ∃ t : Nat, ∃ k : Fin 8, s.chip.ready t ∧ (s.chip.at t).tpPhase k.val ≠ some 0) ∧
    (∃ s : State, ∃ t : Nat, ∃ k : Fin 8, s.chip.ready t ∧ (s.chip.at t).tpPhase k.val = some 0) ∧
    (∃ s : State, ∃ t : Nat, ∃ k : Fin 8, s.chip.ready t ∧ tabGet (fun _ => (none : Option Nat)) s.chip.weir.pulse k.val = none) ∧
    (∃ s : State, ∃ t : Nat, ∃ k : Fin 8, ∃ st : Nat, s.chip.ready t ∧ tabGet (fun _ => (none : Option Nat)) s.chip.weir.pulse k.val = some st ∧ (¬ (st + (bits (s.chip.ws 0x40) 25 16 - 1) * 800 ≤ t ∧ t < st + bits (s.chip.ws 0x40) 25 16 * 800))) ∧
    (∃ s : State, ∃ t : Nat, ∃ k : Fin 8, ∃ st : Nat, s.chip.ready t ∧ tabGet (fun _ => (none : Option Nat)) s.chip.weir.pulse k.val = some st ∧ st + (bits (s.chip.ws 0x40) 25 16 - 1) * 800 ≤ t ∧ t < st + bits (s.chip.ws 0x40) 25 16 * 800) :=
  ⟨⟨(st w0), 0, ⟨rfl, by decide +kernel⟩⟩,
   ⟨(st w0), 0, 0, false, ⟨rfl, by decide +kernel⟩, by decide +kernel⟩,
   ⟨st (wa [(0x80, 0x88000000)] w0), 0, 0, false, ⟨rfl, by decide +kernel⟩, by decide +kernel⟩,
   ⟨(st w0), 0, 0, ⟨rfl, by decide +kernel⟩, by decide +kernel⟩,
   ⟨st (wa [(0x40, 0x00640001)] w0), 0, 0, ⟨rfl, by decide +kernel⟩, by decide +kernel⟩,
   ⟨(st w0), 0, 0, ⟨rfl, by decide +kernel⟩, by decide +kernel⟩,
   ⟨st ((fun c => { c with weir := { c.weir with pulse := [(0, some 0)] } }) (wa [(0x40, 0x00640001)] w0)), 0, 0, 0, ⟨rfl, by decide +kernel⟩, by decide +kernel⟩,
   ⟨st ((fun c => { c with weir := { c.weir with pulse := [(0, some 0)] } }) (wa [(0x40, 0x00640001)] w0)), 79200, 0, 0, ⟨rfl, by decide +kernel⟩, by decide +kernel⟩⟩

/-- States and operands that meet the hypotheses of `Obligations.SafeInputsAreFilteredAndTested`, part 2 of 2. -/
theorem test_met_SafeInputsAreFilteredAndTested_2 :
    (∃ s : State, ∃ t : Nat, ∃ g : Fin 16, s.chip.ready t ∧ (¬ (s.chip.ss1Runs g.val = true ∧ (s.chip.at t).phase = 0 ∧ s.chip.weirTickHere = true ∧ s.chip.weir.tripT + bits (s.chip.ws (groupOff g.val)) 13 0 * 800000 ≤ t))) ∧
    (∃ s : State, ∃ t : Nat, ∃ g : Fin 16, s.chip.ready t ∧ (s.chip.ss1Runs g.val = true ∧ (s.chip.at t).phase = 0 ∧ s.chip.weirTickHere = true ∧ s.chip.weir.tripT + bits (s.chip.ws (groupOff g.val)) 13 0 * 800000 ≤ t)) :=
  ⟨⟨(st w0), 0, 0, ⟨rfl, by decide +kernel⟩, by decide +kernel⟩,
   ⟨st (wa [(0x1A0, 0xC0000000)] (fs [(WEI_STATUS__WSTATE, 3)] w0)), 0, 0, ⟨rfl, by decide +kernel⟩, by decide +kernel⟩⟩

/-- States and operands that meet the hypotheses of `Obligations.ParameterSetsAreCheckedThenConfirmed`, part 1 of 3. -/
theorem test_met_ParameterSetsAreCheckedThenConfirmed_1 :
    (∃ s : State, ∃ t : Nat, ∃ ifc : Iface, ∃ tag : Word, ∃ target : Word, ∃ pl : List Word, s.chip.takes t 0x0B01 ifc tag target pl 0 ∧ s.chip.dryOrMoored = false) ∧
    (∃ s : State, ∃ t : Nat, ∃ ifc : Iface, ∃ tag : Word, ∃ target : Word, ∃ pl : List Word, s.chip.takes t 0x0B01 ifc tag target pl 0 ∧ s.chip.dryOrMoored = true ∧ (wordAt pl 0 % 4 ≠ 0 ∨ 65600 < wordAt pl 0)) ∧
    (∃ s : State, ∃ t : Nat, ∃ ifc : Iface, ∃ tag : Word, ∃ target : Word, ∃ pl : List Word, s.chip.takes t 0x0B01 ifc tag target pl 0 ∧ s.chip.dryOrMoored = true ∧ wordAt pl 0 % 4 = 0 ∧ wordAt pl 0 ≤ 65600 ∧ 65600 < wordAt pl 0 + bits (wordAt pl 1) 16 0) ∧
    (∃ s : State, ∃ t : Nat, ∃ ifc : Iface, ∃ tag : Word, ∃ target : Word, ∃ pl : List Word, s.chip.takes t 0x0B01 ifc tag target pl 0 ∧ s.chip.dryOrMoored = true ∧ wordAt pl 0 % 4 = 0 ∧ wordAt pl 0 + bits (wordAt pl 1) 16 0 ≤ 65600 ∧ s.chip.longOf 0x0B02 ≠ none) ∧
    (∃ s : State, ∃ t : Nat, ∃ ifc : Iface, ∃ tag : Word, ∃ target : Word, ∃ pl : List Word, s.chip.takes t 0x0B01 ifc tag target pl 0 ∧ s.chip.dryOrMoored = true ∧ wordAt pl 0 % 4 = 0 ∧ wordAt pl 0 + bits (wordAt pl 1) 16 0 ≤ 65600 ∧ s.chip.longOf 0x0B02 = none ∧ (wordAt pl 1).testBit 31 = false) ∧
    (∃ s : State, ∃ t : Nat, ∃ ifc : Iface, ∃ tag : Word, ∃ target : Word, ∃ pl : List Word, s.chip.takes t 0x0B01 ifc tag target pl 0 ∧ s.chip.dryOrMoored = true ∧ wordAt pl 0 % 4 = 0 ∧ wordAt pl 0 + bits (wordAt pl 1) 16 0 ≤ 65600 ∧ s.chip.longOf 0x0B02 = none ∧ (wordAt pl 1).testBit 31 = true ∧ s.chip.longFree 0x0B01 0 = true) ∧
    (∃ s : State, ∃ t : Nat, ∃ ifc : Iface, ∃ tag : Word, ∃ target : Word, ∃ pl : List Word, s.chip.takes t 0x0B01 ifc tag target pl 0 ∧ s.chip.dryOrMoored = true ∧ wordAt pl 0 % 4 = 0 ∧ wordAt pl 0 + bits (wordAt pl 1) 16 0 ≤ 65600 ∧ s.chip.longOf 0x0B02 = none ∧ (wordAt pl 1).testBit 31 = true ∧ s.chip.longFree 0x0B01 0 = false) ∧
    (∃ s : State, ∃ t : Nat, s.chip.ready t ∧ s.chip.longOf 0x0B01 = none) :=
  ⟨⟨sf [(SYS_STATE__STATE, 2)], 0, Iface.spi, 0, 0, [0, 4, 9], takes_of (by decide +kernel), by decide +kernel⟩,
   ⟨(st w0), 0, Iface.spi, 0, 0, [1, 4, 9], takes_of (by decide +kernel), by decide +kernel⟩,
   ⟨(st w0), 0, Iface.spi, 0, 0, [65600, 4, 9], takes_of (by decide +kernel), by decide +kernel⟩,
   ⟨st (lg [lc 0x0B02] w0), 0, Iface.spi, 0, 0, [0, 4, 9], takes_of (by decide +kernel), by decide +kernel⟩,
   ⟨(st w0), 0, Iface.spi, 0, 0, [0, 4, 9], takes_of (by decide +kernel), by decide +kernel⟩,
   ⟨(st w0), 0, Iface.spi, 0, 0, [0, 0x80000004, 9], takes_of (by decide +kernel), by decide +kernel⟩,
   ⟨st (lg [lc 0x0B01] w0), 0, Iface.spi, 0, 0, [0, 0x80000004, 9], takes_of (by decide +kernel), by decide +kernel⟩,
   ⟨(st w0), 0, ⟨rfl, by decide +kernel⟩, by decide +kernel⟩⟩

/-- States and operands that meet the hypotheses of `Obligations.ParameterSetsAreCheckedThenConfirmed`, part 2 of 3. -/
theorem test_met_ParameterSetsAreCheckedThenConfirmed_2 :
    (∃ s : State, ∃ t : Nat, ∃ d : Word, ∃ l : LongCmd, ∃ p : Nat × Nat, s.chip.ready t ∧ s.chip.longOf 0x0B01 = some l ∧ setFailure s.chip.boot.otp s.chip.weir.stage (d == 0) = some p) ∧
    (∃ s : State, ∃ t : Nat, ∃ d : Word, ∃ l : LongCmd, s.chip.ready t ∧ s.chip.longOf 0x0B01 = some l ∧ setFailure s.chip.boot.otp s.chip.weir.stage (d == 0) = none) ∧
    (∃ s : State, ∃ t : Nat, s.chip.ready t ∧ (s.chip.weir.okT = none ∨ s.chip.longOf 0x0B02 ≠ none ∨ s.chip.weir.okT.any (fun t0 => decide (t ≤ t0 + 480000000000)) = true)) ∧
    (∃ s : State, ∃ t : Nat, ∃ t0 : Nat, s.chip.ready t ∧ s.chip.weir.okT = some t0 ∧ t0 + 480000000000 < t ∧ s.chip.longOf 0x0B02 = none) ∧
    (∃ s : State, ∃ t : Nat, ∃ ifc : Iface, ∃ tag : Word, ∃ target : Word, ∃ pl : List Word, s.chip.takes t 0x0B02 ifc tag target pl 0 ∧ s.chip.dryOrMoored = false) ∧
    (∃ s : State, ∃ t : Nat, ∃ ifc : Iface, ∃ tag : Word, ∃ target : Word, ∃ pl : List Word, s.chip.takes t 0x0B02 ifc tag target pl 0 ∧ s.chip.dryOrMoored = true ∧ s.chip.longOf 0x0B02 ≠ none) ∧
    (∃ s : State, ∃ t : Nat, ∃ ifc : Iface, ∃ tag : Word, ∃ target : Word, ∃ pl : List Word, s.chip.takes t 0x0B02 ifc tag target pl 0 ∧ s.chip.dryOrMoored = true ∧ s.chip.longOf 0x0B02 = none ∧ (¬ s.chip.weir.okT.any (fun t0 => decide (t ≤ t0 + 480000000000)) = true)) ∧
    (∃ s : State, ∃ t : Nat, ∃ ifc : Iface, ∃ tag : Word, ∃ target : Word, ∃ pl : List Word, s.chip.takes t 0x0B02 ifc tag target pl 0 ∧ s.chip.dryOrMoored = true ∧ s.chip.longOf 0x0B02 = none ∧ s.chip.weir.okT.any (fun t0 => decide (t ≤ t0 + 480000000000)) = true ∧ (wordAt pl 0 ≠ setW s.chip.weir.stage 4 ∨ wordAt pl 1 ≠ setW s.chip.weir.stage 0x10)) :=
  ⟨⟨st (lg [lc 0x0B01] w0), 0, 0, lc 0x0B01, (1, 0), ⟨rfl, by decide +kernel⟩, by decide +kernel⟩,
   ⟨st { lg [lc 0x0B01] w0 with boot := { w0.boot with otp := ⟨1, 0, false, 0, 0, 0, 0⟩ }, weir := { w0.weir with stage := okSet } }, 0, 0, lc 0x0B01, ⟨rfl, by decide +kernel⟩, by decide +kernel, okSet_passes⟩,
   ⟨(st w0), 0, ⟨rfl, by decide +kernel⟩, by decide +kernel⟩,
   ⟨st ((fun c => { c with weir := { c.weir with okT := some 0 } }) w0), 480000000001, 0, ⟨rfl, by decide +kernel⟩, by decide +kernel⟩,
   ⟨sf [(SYS_STATE__STATE, 2)], 0, Iface.spi, 0, 0, [0, 0], takes_of (by decide +kernel), by decide +kernel⟩,
   ⟨st (lg [lc 0x0B02] w0), 0, Iface.spi, 0, 0, [0, 0], takes_of (by decide +kernel), by decide +kernel⟩,
   ⟨(st w0), 0, Iface.spi, 0, 0, [0, 0], takes_of (by decide +kernel), by decide +kernel⟩,
   ⟨st ((fun c => { c with weir := { c.weir with okT := some 0 } }) w0), 0, Iface.spi, 0, 0, [1, 0], takes_of (by decide +kernel), by decide +kernel⟩⟩

/-- States and operands that meet the hypotheses of `Obligations.ParameterSetsAreCheckedThenConfirmed`, part 3 of 3. -/
theorem test_met_ParameterSetsAreCheckedThenConfirmed_3 :
    (∃ s : State, ∃ t : Nat, ∃ ifc : Iface, ∃ tag : Word, ∃ target : Word, ∃ pl : List Word, s.chip.takes t 0x0B02 ifc tag target pl 0 ∧ s.chip.dryOrMoored = true ∧ s.chip.longOf 0x0B02 = none ∧ s.chip.weir.okT.any (fun t0 => decide (t ≤ t0 + 480000000000)) = true ∧ wordAt pl 0 = setW s.chip.weir.stage 4 ∧ wordAt pl 1 = setW s.chip.weir.stage 0x10) ∧
    (∃ s : State, ∃ t : Nat, s.chip.ready t ∧ s.chip.longOf 0x0B02 = none) ∧
    (∃ s : State, ∃ t : Nat, ∃ l : LongCmd, s.chip.ready t ∧ s.chip.longOf 0x0B02 = some l) :=
  ⟨⟨st ((fun c => { c with weir := { c.weir with okT := some 0 } }) w0), 0, Iface.spi, 0, 0, [0, 0], takes_of (by decide +kernel), by decide +kernel⟩,
   ⟨(st w0), 0, ⟨rfl, by decide +kernel⟩, by decide +kernel⟩,
   ⟨st (lg [lc 0x0B02] w0), 0, lc 0x0B02, ⟨rfl, by decide +kernel⟩, by decide +kernel⟩⟩

/-- States and operands that meet the hypotheses of `Obligations.SafetyFramesAreCheckedAndTimed`. -/
theorem test_met_SafetyFramesAreCheckedAndTimed :
    (∃ s : State, ∃ t : Nat, ∃ k : Fin 256, s.chip.ready t ∧ (¬ ((s.chip.ws (connOff k.val)).testBit 31 = true ∧ rxKind (connKind (s.chip.ws (connOff k.val))) = true ∧ (s.chip.conn k.val).last + bits (s.chip.ws (connOff k.val + 8)) 31 16 * 8000 < t ∧ (s.chip.cstate k.val = 2 ∨ (s.chip.cstate k.val = 1 ∧ (s.chip.conn k.val).last = s.chip.weir.actT))))) ∧
    (∃ s : State, ∃ t : Nat, ∃ k : Fin 256, s.chip.ready t ∧ ((s.chip.ws (connOff k.val)).testBit 31 = true ∧ rxKind (connKind (s.chip.ws (connOff k.val))) = true ∧ (s.chip.conn k.val).last + bits (s.chip.ws (connOff k.val + 8)) 31 16 * 8000 < t ∧ (s.chip.cstate k.val = 2 ∨ (s.chip.cstate k.val = 1 ∧ (s.chip.conn k.val).last = s.chip.weir.actT)))) ∧
    (∃ s : State, ∃ t : Nat, s.chip.ready t ∧ (s.chip.weir.actV = false ∨ s.chip.safetyPort = 0)) ∧
    (∃ s : State, ∃ t : Nat, ∃ bs : List Byte, s.chip.ready t ∧ s.chip.weir.actV = true ∧ s.chip.safetyPort ≠ 0 ∧ (if bs = [] then none else cutFrames 8 bs) = none) ∧
    (∃ s : State, ∃ t : Nat, ∃ bs : List Byte, s.chip.ready t ∧ s.chip.weir.actV = true ∧ s.chip.safetyPort ≠ 0 ∧ bs ≠ [] ∧ cutFrames 8 bs = some [bs] ∧ (List.range 256).find? (fun k => (s.chip.ws (connOff k)).testBit 31 && (connKind (s.chip.ws (connOff k)) == 3 || connKind (s.chip.ws (connOff k)) == 4) && s.chip.ws (connOff k + 4) == wordAt (bytesWords (bs.take 4)) 0) = none) ∧
    (∃ s : State, ∃ t : Nat, ∃ bs : List Byte, ∃ k : Nat, s.chip.ready t ∧ (List.range 256).find? (fun k => (s.chip.ws (connOff k)).testBit 31 && (connKind (s.chip.ws (connOff k)) == 3 || connKind (s.chip.ws (connOff k)) == 4) && s.chip.ws (connOff k + 4) == wordAt (bytesWords (bs.take 4)) 0) = some k ∧ s.chip.weir.actV = true ∧ s.chip.safetyPort ≠ 0 ∧ bs ≠ [] ∧ cutFrames 8 bs = some [bs] ∧ s.chip.cstate k ≠ 1 ∧ s.chip.cstate k ≠ 2 ∧ s.chip.cstate k ≠ 3) ∧
    (∃ s : State, ∃ t : Nat, ∃ bs : List Byte, ∃ k : Nat, s.chip.ready t ∧ (List.range 256).find? (fun k => (s.chip.ws (connOff k)).testBit 31 && (connKind (s.chip.ws (connOff k)) == 3 || connKind (s.chip.ws (connOff k)) == 4) && s.chip.ws (connOff k + 4) == wordAt (bytesWords (bs.take 4)) 0) = some k ∧ s.chip.weir.actV = true ∧ s.chip.safetyPort ≠ 0 ∧ bs ≠ [] ∧ cutFrames 8 bs = some [bs] ∧ (s.chip.cstate k = 1 ∨ s.chip.cstate k = 2 ∨ s.chip.cstate k = 3) ∧ (s.chip.at t).frameErr k bs true = 0) ∧
    (∃ s : State, ∃ t : Nat, ∃ bs : List Byte, ∃ k : Nat, s.chip.ready t ∧ (List.range 256).find? (fun k => (s.chip.ws (connOff k)).testBit 31 && (connKind (s.chip.ws (connOff k)) == 3 || connKind (s.chip.ws (connOff k)) == 4) && s.chip.ws (connOff k + 4) == wordAt (bytesWords (bs.take 4)) 0) = some k ∧ s.chip.weir.actV = true ∧ s.chip.safetyPort ≠ 0 ∧ bs ≠ [] ∧ cutFrames 8 bs = some [bs] ∧ (s.chip.cstate k = 1 ∨ s.chip.cstate k = 2 ∨ s.chip.cstate k = 3) ∧ (s.chip.at t).frameErr k bs true ≠ 0) :=
  ⟨⟨(st w0), 0, 0, ⟨rfl, by decide +kernel⟩, by decide +kernel⟩,
   ⟨st (fs [(WEI_CONN_STAT__CSTATE 0, 2)] (wa [(connOff 0, 0xA0000000)] w0)), 1, 0, ⟨rfl, by decide +kernel⟩, by decide +kernel⟩,
   ⟨(st w0), 0, ⟨rfl, by decide +kernel⟩, by decide +kernel⟩,
   ⟨st (wa [(0x3A00, 0x1234)] w0), 0, [], ⟨rfl, by decide +kernel⟩, by decide +kernel⟩,
   ⟨st (wa [(0x3A00, 0x1234)] w0), 0, List.replicate 16 0, ⟨rfl, by decide +kernel⟩, by decide +kernel⟩,
   ⟨st (wa [(0x3A00, 0x1234), (connOff 0, 0xC0000000), (connOff 0 + 4, 7)] w0), 0, [7, 0, 0, 0, 4, 0, 0, 0, 0, 0, 0, 0, 0, 0, 0, 0, 227, 121, 26, 46], 0, ⟨rfl, by decide +kernel⟩, by decide +kernel⟩,
   ⟨st (fs [(WEI_CONN_STAT__CSTATE 0, 1), (TIM_SEL_STAT__TB3_VALID, 1)] (wa [(0x3A00, 0x1234), (connOff 0, 0xC0000000), (connOff 0 + 4, 7)] w0)), 0, [7, 0, 0, 0, 4, 0, 0, 0, 0, 0, 0, 0, 0, 0, 0, 0, 227, 121, 26, 46], 0, ⟨rfl, by decide +kernel⟩, by decide +kernel⟩,
   ⟨st (fs [(WEI_CONN_STAT__CSTATE 0, 1), (TIM_SEL_STAT__TB3_VALID, 1)] (wa [(0x3A00, 0x1234), (connOff 0, 0xC0000000), (connOff 0 + 4, 7)] w0)), 0, [7, 0, 0, 0, 4, 0, 0, 0, 0, 0, 0, 0, 0, 0, 0, 0, 0, 0, 0, 0], 0, ⟨rfl, by decide +kernel⟩, by decide +kernel⟩⟩

/-- States and operands that meet the hypotheses of `Obligations.TwinsHearEachOtherAndDecideRoles`, part 1 of 3. -/
theorem test_met_TwinsHearEachOtherAndDecideRoles_1 :
    (∃ s : State, ∃ t : Nat, s.chip.ready t ∧ (s.chip.role = 2 ∨ s.chip.aqu.followed = true ∨ t < s.chip.aqu.helloT + 800000)) ∧
    (∃ s : State, ∃ t : Nat, s.chip.ready t ∧ (¬ (s.chip.role = 2 ∨ s.chip.aqu.followed = true ∨ t < s.chip.aqu.helloT + 800000))) ∧
    (∃ s : State, ∃ t : Nat, ∃ h : Hello, s.chip.ready t ∧ (s.chip.aquOn = false ∨ h.h.ok = false)) ∧
    (∃ s : State, ∃ t : Nat, ∃ h : Hello, s.chip.ready t ∧ s.chip.aquOn = true ∧ h.h.ok = true ∧ h.role < 8) ∧
    (∃ s : State, ∃ t : Nat, s.chip.ready t) ∧
    (∃ s : State, ∃ t : Nat, s.chip.ready t ∧ s.chip.flag AQU_ROLE__LINK_UP = false) ∧
    (∃ s : State, ∃ t : Nat, s.chip.ready t ∧ s.chip.flag AQU_ROLE__LINK_UP = true) ∧
    (∃ s : State, ∃ t : Nat, ∃ y : AquSync, s.chip.ready t ∧ (s.chip.aquOn = false ∨ y.h.ok = false)) :=
  ⟨⟨(st w0), 0, ⟨rfl, by decide +kernel⟩, by decide +kernel⟩,
   ⟨(st w0), 800000, ⟨rfl, by decide +kernel⟩, by decide +kernel⟩,
   ⟨(st w0), 0, ⟨⟨true, 0, 0⟩, 0, 0, 0, 0⟩, ⟨rfl, by decide +kernel⟩, by decide +kernel⟩,
   ⟨sf [(AQU_CFG__TWIN_EN, 1), (AQU_ROLE__LINK_UP, 1)], 0, ⟨⟨true, 0, 0⟩, 0, 0, 0, 0⟩, ⟨rfl, by decide +kernel⟩, by decide +kernel⟩,
   ⟨(st w0), 0, ⟨rfl, by decide +kernel⟩⟩,
   ⟨(st w0), 0, ⟨rfl, by decide +kernel⟩, by decide +kernel⟩,
   ⟨sf [(AQU_ROLE__LINK_UP, 1)], 0, ⟨rfl, by decide +kernel⟩, by decide +kernel⟩,
   ⟨(st w0), 0, ⟨⟨true, 0, 0⟩, 0, 0⟩, ⟨rfl, by decide +kernel⟩, by decide +kernel⟩⟩

/-- States and operands that meet the hypotheses of `Obligations.TwinsHearEachOtherAndDecideRoles`, part 2 of 3. -/
theorem test_met_TwinsHearEachOtherAndDecideRoles_2 :
    (∃ s : State, ∃ t : Nat, ∃ y : AquSync, s.chip.ready t ∧ s.chip.aquOn = true ∧ y.h.ok = true) ∧
    (∃ s : State, ∃ t : Nat, ∃ h : Heartbeat, s.chip.ready t ∧ (s.chip.aquOn = false ∨ h.h.ok = false)) ∧
    (∃ s : State, ∃ t : Nat, ∃ h : Heartbeat, s.chip.ready t ∧ s.chip.aquOn = true ∧ h.h.ok = true) ∧
    (∃ s : State, ∃ t : Nat, ∃ h : AquHead, s.chip.ready t ∧ (s.chip.aquOn = false ∨ h.ok = false)) ∧
    (∃ s : State, ∃ t : Nat, ∃ h : AquHead, s.chip.ready t ∧ s.chip.aquOn = true ∧ h.ok = true) ∧
    (∃ s : State, ∃ t : Nat, s.chip.ready t ∧ (¬ ((s.chip.at t).phase = 3200 ∧ s.chip.role = 2))) ∧
    (∃ s : State, ∃ t : Nat, s.chip.ready t ∧ ((s.chip.at t).phase = 3200 ∧ s.chip.role = 2)) ∧
    (∃ s : State, ∃ t : Nat, s.chip.ready t ∧ (¬ ((s.chip.at t).phase = (s.chip.at t).P / 2 + 1600 ∧ (s.chip.role = 1 ∨ s.chip.role = 2)))) :=
  ⟨⟨sf [(AQU_CFG__TWIN_EN, 1), (AQU_ROLE__LINK_UP, 1)], 0, ⟨⟨true, 0, 0⟩, 0, 0⟩, ⟨rfl, by decide +kernel⟩, by decide +kernel⟩,
   ⟨(st w0), 0, ⟨⟨true, 0, 0⟩, 0, 0, 0, 0, 0⟩, ⟨rfl, by decide +kernel⟩, by decide +kernel⟩,
   ⟨sf [(AQU_CFG__TWIN_EN, 1), (AQU_ROLE__LINK_UP, 1)], 0, ⟨⟨true, 0, 0⟩, 0, 0, 0, 0, 0⟩, ⟨rfl, by decide +kernel⟩, by decide +kernel⟩,
   ⟨(st w0), 0, ⟨true, 0, 0⟩, ⟨rfl, by decide +kernel⟩, by decide +kernel⟩,
   ⟨sf [(AQU_CFG__TWIN_EN, 1), (AQU_ROLE__LINK_UP, 1)], 0, ⟨true, 0, 0⟩, ⟨rfl, by decide +kernel⟩, by decide +kernel⟩,
   ⟨(st w0), 0, ⟨rfl, by decide +kernel⟩, by decide +kernel⟩,
   ⟨sf [(AQU_ROLE__ROLE, 2)], 3200, ⟨rfl, by decide +kernel⟩, by decide +kernel⟩,
   ⟨(st w0), 0, ⟨rfl, by decide +kernel⟩, by decide +kernel⟩⟩

/-- States and operands that meet the hypotheses of `Obligations.TwinsHearEachOtherAndDecideRoles`, part 3 of 3. -/
theorem test_met_TwinsHearEachOtherAndDecideRoles_3 :
    (∃ s : State, ∃ t : Nat, s.chip.ready t ∧ ((s.chip.at t).phase = (s.chip.at t).P / 2 + 1600 ∧ (s.chip.role = 1 ∨ s.chip.role = 2))) ∧
    (∃ s : State, ∃ t : Nat, s.chip.ready t ∧ s.chip.aqu.joinT.all (fun u => decide (t < u)) = true) ∧
    (∃ s : State, ∃ t : Nat, ∃ u : Nat, s.chip.ready t ∧ s.chip.aqu.joinT = some u ∧ u ≤ t ∧ s.chip.aqu.joinHeard ≤ 1) ∧
    (∃ s : State, ∃ t : Nat, ∃ u : Nat, s.chip.ready t ∧ s.chip.aqu.joinT = some u ∧ u ≤ t ∧ 2 ≤ s.chip.aqu.joinHeard) ∧
    (∃ s : State, ∃ t : Nat, ∃ ifc : Iface, ∃ tag : Word, ∃ target : Word, ∃ pl : List Word, s.chip.takes t 0x0C02 ifc tag target pl 0 ∧ (¬ (s.chip.role = 1 ∧ (s.chip.reg (AQU_HEALTH 0)).testBit 31 = true ∧ s.chip.fld AQU_LEDGER_LAG__LAG = 0))) ∧
    (∃ s : State, ∃ t : Nat, ∃ ifc : Iface, ∃ tag : Word, ∃ target : Word, ∃ pl : List Word, s.chip.takes t 0x0C02 ifc tag target pl 0 ∧ (s.chip.role = 1 ∧ (s.chip.reg (AQU_HEALTH 0)).testBit 31 = true ∧ s.chip.fld AQU_LEDGER_LAG__LAG = 0) ∧ s.chip.aqu.handCmd ≠ none) ∧
    (∃ s : State, ∃ t : Nat, ∃ ifc : Iface, ∃ tag : Word, ∃ target : Word, ∃ pl : List Word, s.chip.takes t 0x0C02 ifc tag target pl 0 ∧ (s.chip.role = 1 ∧ (s.chip.reg (AQU_HEALTH 0)).testBit 31 = true ∧ s.chip.fld AQU_LEDGER_LAG__LAG = 0) ∧ s.chip.aqu.handCmd = none) :=
  ⟨⟨sf [(AQU_ROLE__ROLE, 1)], 14100, ⟨rfl, by decide +kernel⟩, by decide +kernel⟩,
   ⟨(st w0), 0, ⟨rfl, by decide +kernel⟩, by decide +kernel⟩,
   ⟨st ((fun c => { c with aqu := { c.aqu with joinT := some 0 } }) w0), 0, 0, ⟨rfl, by decide +kernel⟩, by decide +kernel⟩,
   ⟨st ((fun c => { c with aqu := { c.aqu with joinT := some 0, joinHeard := 2 } }) w0), 0, 0, ⟨rfl, by decide +kernel⟩, by decide +kernel⟩,
   ⟨(st w0), 0, Iface.spi, 0, 0, [], takes_of (by decide +kernel), by decide +kernel⟩,
   ⟨st (fs [(AQU_ROLE__ROLE, 1)] ((fun c => { c with regs := (AQU_HEALTH 0, 0x80000000) :: c.regs }) ((fun c => { c with aqu := { c.aqu with handCmd := some ⟨0x0C02, 0, 0, [], og, .command⟩ } }) w0))), 0, Iface.spi, 0, 0, [], takes_of (by decide +kernel), by decide +kernel⟩,
   ⟨st (fs [(AQU_ROLE__ROLE, 1)] ((fun c => { c with regs := (AQU_HEALTH 0, 0x80000000) :: c.regs }) w0)), 0, Iface.spi, 0, 0, [], takes_of (by decide +kernel), by decide +kernel⟩⟩

/-- States and operands that meet the hypotheses of `Obligations.LedgerFramesCommitAndResynchronise`, part 1 of 3. -/
theorem test_met_LedgerFramesCommitAndResynchronise_1 :
    (∃ s : State, ∃ t : Nat, ∃ fr : LedgerFrame, s.chip.ready t ∧ (s.chip.aquOn = false ∨ fr.h.ok = false)) ∧
    (∃ s : State, ∃ t : Nat, ∃ fr : LedgerFrame, s.chip.ready t ∧ s.chip.aquOn = true ∧ fr.h.ok = true ∧ s.chip.takesCommits = false) ∧
    (∃ s : State, ∃ t : Nat, ∃ fr : LedgerFrame, ∃ l : List LedgerRec, s.chip.ready t ∧ s.chip.aquOn = true ∧ fr.h.ok = true ∧ s.chip.role = 2 ∧ fr.last = false ∧ s.chip.seqGap fr.h = false ∧ s.chip.partsNow fr.pound.toNat fr = some l) ∧
    (∃ s : State, ∃ t : Nat, ∃ fr : LedgerFrame, s.chip.ready t ∧ s.chip.aquOn = true ∧ fr.h.ok = true ∧ s.chip.role = 2 ∧ s.chip.seqGap fr.h = false ∧ s.chip.partsNow fr.pound.toNat fr = none) ∧
    (∃ s : State, ∃ t : Nat, ∃ fr : LedgerFrame, s.chip.ready t ∧ s.chip.aquOn = true ∧ fr.h.ok = true ∧ s.chip.role = 2 ∧ fr.last = false ∧ s.chip.seqGap fr.h = true) ∧
    (∃ s : State, ∃ t : Nat, ∃ fr : LedgerFrame, s.chip.ready t ∧ s.chip.aquOn = true ∧ fr.h.ok = true ∧ s.chip.role = 2 ∧ fr.last = true ∧ fr.part = 0 ∧ s.chip.seqGap fr.h = false ∧ s.chip.aqu.inbox = [] ∧ fr.pound.toNat = (s.chip.reg AQU_COMMIT + 1) % 2 ^ 32 ∧ s.chip.bulkHere fr.recs = true) ∧
    (∃ s : State, ∃ t : Nat, ∃ fr : LedgerFrame, s.chip.ready t ∧ s.chip.aquOn = true ∧ fr.h.ok = true ∧ s.chip.role = 2 ∧ fr.last = true ∧ fr.part = 0 ∧ s.chip.seqGap fr.h = false ∧ s.chip.aqu.inbox = [] ∧ (fr.pound.toNat ≠ (s.chip.reg AQU_COMMIT + 1) % 2 ^ 32 ∨ s.chip.bulkHere fr.recs = false) ∧ 0 < modDiff 32 fr.pound.toNat (s.chip.reg AQU_COMMIT)) ∧
    (∃ s : State, ∃ t : Nat, ∃ h : AquHead, s.chip.ready t ∧ (s.chip.aquOn = false ∨ h.ok = false)) :=
  ⟨⟨(st w0), 0, ⟨⟨true, 0, 0⟩, 0, 0, false, 0, []⟩, ⟨rfl, by decide +kernel⟩, by decide +kernel⟩,
   ⟨sf [(AQU_CFG__TWIN_EN, 1), (AQU_ROLE__LINK_UP, 1)], 0, ⟨⟨true, 0, 0⟩, 0, 0, false, 0, []⟩, ⟨rfl, by decide +kernel⟩, by decide +kernel⟩,
   ⟨sf [(AQU_CFG__TWIN_EN, 1), (AQU_ROLE__LINK_UP, 1), (AQU_ROLE__ROLE, 2)], 0, ⟨⟨true, 0, 0⟩, 0, 0, false, 0, []⟩, [], ⟨rfl, by decide +kernel⟩, by decide +kernel⟩,
   ⟨sf [(AQU_CFG__TWIN_EN, 1), (AQU_ROLE__LINK_UP, 1), (AQU_ROLE__ROLE, 2)], 0, ⟨⟨true, 0, 0⟩, 0, 1, true, 0, []⟩, ⟨rfl, by decide +kernel⟩, by decide +kernel⟩,
   ⟨st (fs [(AQU_CFG__TWIN_EN, 1), (AQU_ROLE__LINK_UP, 1), (AQU_ROLE__ROLE, 2)] ((fun c => { c with aqu := { c.aqu with seqRx := some 5 } }) w0)), 0, ⟨⟨true, 0, 0⟩, 0, 0, false, 0, []⟩, ⟨rfl, by decide +kernel⟩, by decide +kernel⟩,
   ⟨sf [(AQU_CFG__TWIN_EN, 1), (AQU_ROLE__LINK_UP, 1), (AQU_ROLE__ROLE, 2)], 0, ⟨⟨true, 0, 0⟩, 1, 0, true, 0, []⟩, ⟨rfl, by decide +kernel⟩, by decide +kernel⟩,
   ⟨sf [(AQU_CFG__TWIN_EN, 1), (AQU_ROLE__LINK_UP, 1), (AQU_ROLE__ROLE, 2)], 0, ⟨⟨true, 0, 0⟩, 2, 0, true, 0, []⟩, ⟨rfl, by decide +kernel⟩, by decide +kernel⟩,
   ⟨(st w0), 0, ⟨true, 0, 0⟩, ⟨rfl, by decide +kernel⟩, by decide +kernel⟩⟩

/-- States and operands that meet the hypotheses of `Obligations.LedgerFramesCommitAndResynchronise`, part 2 of 3. -/
theorem test_met_LedgerFramesCommitAndResynchronise_2 :
    (∃ s : State, ∃ t : Nat, ∃ h : AquHead, s.chip.ready t ∧ s.chip.aquOn = true ∧ h.ok = true) ∧
    (∃ s : State, ∃ t : Nat, ∃ h : AquHead, ∃ p : Word, s.chip.ready t ∧ s.chip.aquOn = true ∧ h.ok = true ∧ s.chip.aqu.commits.find? (fun k => k.pound == p.toNat && k.sent != 0 && !k.resent) = none) ∧
    (∃ s : State, ∃ t : Nat, ∃ h : AquHead, ∃ p : Word, ∃ k : Commit, s.chip.ready t ∧ s.chip.aqu.commits.find? (fun k => k.pound == p.toNat && k.sent != 0 && !k.resent) = some k ∧ s.chip.aquOn = true ∧ h.ok = true) ∧
    (∃ s : State, ∃ t : Nat, ∃ b : BulkFrame, s.chip.ready t ∧ (s.chip.aquOn = false ∨ b.h.ok = false)) ∧
    (∃ s : State, ∃ t : Nat, ∃ b : BulkFrame, s.chip.ready t ∧ s.chip.aquOn = true ∧ b.h.ok = true ∧ (s.chip.role = 2 ∨ (s.chip.role = 3 ∧ s.chip.aqu.followed = true)) ∧ (∀ e ∈ s.chip.aqu.inbox, e.1 = (s.chip.reg AQU_COMMIT + 1) % 2 ^ 32 → ((s.chip.aqu.bulk ++ [(b.data, b.last)]).filter (·.2)).length < (e.2.filter (fun r => r.kind == 8)).length)) ∧
    (∃ s : State, ∃ t : Nat, ∃ b : BulkFrame, s.chip.ready t ∧ s.chip.aquOn = true ∧ b.h.ok = true ∧ (s.chip.role < 2 ∨ 3 < s.chip.role ∨ (s.chip.role = 3 ∧ s.chip.aqu.followed = false ∧ (s.chip.aqu.restartT ≠ none ∨ s.chip.fld AQU_ROLE__RS_STEP < 2)))) ∧
    (∃ s : State, ∃ t : Nat, ∃ h : AquHead, s.chip.ready t ∧ s.chip.aquOn = true ∧ h.ok = true ∧ s.chip.role = 3 ∧ s.chip.aqu.followed = false ∧ s.chip.aqu.restartT = none) ∧
    (∃ s : State, ∃ t : Nat, ∃ h : AquHead, s.chip.ready t ∧ s.chip.aquOn = true ∧ h.ok = true ∧ s.chip.role = 3 ∧ s.chip.aqu.followed = false ∧ s.chip.aqu.restartT = none ∧ s.chip.fld AQU_ROLE__RS_STEP = 3 ∧ s.chip.seqGap h = false ∧ s.chip.aqu.inbox = []) :=
  ⟨⟨sf [(AQU_CFG__TWIN_EN, 1), (AQU_ROLE__LINK_UP, 1)], 0, ⟨true, 0, 0⟩, ⟨rfl, by decide +kernel⟩, by decide +kernel⟩,
   ⟨sf [(AQU_CFG__TWIN_EN, 1), (AQU_ROLE__LINK_UP, 1)], 0, ⟨true, 0, 0⟩, 0, ⟨rfl, by decide +kernel⟩, by decide +kernel⟩,
   ⟨st (fs [(AQU_CFG__TWIN_EN, 1), (AQU_ROLE__LINK_UP, 1)] ((fun c => { c with aqu := { c.aqu with commits := [⟨0, [], 1, false⟩] } }) w0)), 0, ⟨true, 0, 0⟩, 0, ⟨0, [], 1, false⟩, ⟨rfl, by decide +kernel⟩, by decide +kernel⟩,
   ⟨(st w0), 0, ⟨⟨true, 0, 0⟩, true, .memory 0 0 []⟩, ⟨rfl, by decide +kernel⟩, by decide +kernel⟩,
   ⟨sf [(AQU_CFG__TWIN_EN, 1), (AQU_ROLE__LINK_UP, 1), (AQU_ROLE__ROLE, 2)], 0, ⟨⟨true, 0, 0⟩, true, .memory 0 0 []⟩, ⟨rfl, by decide +kernel⟩, by decide +kernel⟩,
   ⟨sf [(AQU_CFG__TWIN_EN, 1), (AQU_ROLE__LINK_UP, 1)], 0, ⟨⟨true, 0, 0⟩, true, .memory 0 0 []⟩, ⟨rfl, by decide +kernel⟩, by decide +kernel⟩,
   ⟨sf [(AQU_CFG__TWIN_EN, 1), (AQU_ROLE__LINK_UP, 1), (AQU_ROLE__ROLE, 3)], 0, ⟨true, 0, 0⟩, ⟨rfl, by decide +kernel⟩, by decide +kernel⟩,
   ⟨sf [(AQU_CFG__TWIN_EN, 1), (AQU_ROLE__LINK_UP, 1), (AQU_ROLE__ROLE, 3), (AQU_ROLE__RS_STEP, 3)], 0, ⟨true, 0, 0⟩, ⟨rfl, by decide +kernel⟩, by decide +kernel⟩⟩

/-- States and operands that meet the hypotheses of `Obligations.LedgerFramesCommitAndResynchronise`, part 3 of 3. -/
theorem test_met_LedgerFramesCommitAndResynchronise_3 :
    (∃ s : State, ∃ t : Nat, s.chip.ready t ∧ (s.chip.role ≠ 3 ∨ s.chip.aqu.restartT.all (fun u => decide (t < u)) = true)) ∧
    (∃ s : State, ∃ t : Nat, ∃ u : Nat, s.chip.ready t ∧ s.chip.aqu.restartT = some u ∧ u ≤ t ∧ s.chip.role = 3) ∧
    (∃ s : State, ∃ t : Nat, s.chip.ready t ∧ s.chip.role ≠ 2 ∧ s.chip.aqu.followed = false) ∧
    (∃ s : State, ∃ t : Nat, s.chip.ready t ∧ (s.chip.role = 2 ∨ s.chip.aqu.followed = true)) ∧
    (∃ s : State, ∃ t : Nat, s.chip.ready t) :=
  ⟨⟨(st w0), 0, ⟨rfl, by decide +kernel⟩, by decide +kernel⟩,
   ⟨st (fs [(AQU_ROLE__ROLE, 3)] ((fun c => { c with aqu := { c.aqu with restartT := some 0 } }) w0)), 0, 0, ⟨rfl, by decide +kernel⟩, by decide +kernel⟩,
   ⟨(st w0), 0, ⟨rfl, by decide +kernel⟩, by decide +kernel⟩,
   ⟨sf [(AQU_ROLE__ROLE, 2)], 0, ⟨rfl, by decide +kernel⟩, by decide +kernel⟩,
   ⟨(st w0), 0, ⟨rfl, by decide +kernel⟩⟩⟩

/-- States and operands that meet the hypotheses of `Obligations.ImagesAreStagedCheckedAndAppliedWhole`, part 1 of 2. -/
theorem test_met_ImagesAreStagedCheckedAndAppliedWhole_1 :
    (∃ s : State, ∃ t : Nat, ∃ ifc : Iface, ∃ tag : Word, ∃ target : Word, ∃ pl : List Word, s.chip.takes t 0x0201 ifc tag target pl 0 ∧ (wordAt pl 0 < 32 ∨ 0x600000 < wordAt pl 0)) ∧
    (∃ s : State, ∃ t : Nat, ∃ ifc : Iface, ∃ tag : Word, ∃ target : Word, ∃ pl : List Word, s.chip.takes t 0x0201 ifc tag target pl 0 ∧ 32 ≤ wordAt pl 0 ∧ wordAt pl 0 ≤ 0x600000 ∧ s.chip.hst.stage.running = true) ∧
    (∃ s : State, ∃ t : Nat, ∃ ifc : Iface, ∃ tag : Word, ∃ target : Word, ∃ pl : List Word, s.chip.takes t 0x0201 ifc tag target pl 0 ∧ 32 ≤ wordAt pl 0 ∧ wordAt pl 0 ≤ 0x600000 ∧ s.chip.hst.stage.running = false) ∧
    (∃ s : State, ∃ t : Nat, ∃ ifc : Iface, ∃ tag : Word, ∃ target : Word, ∃ pl : List Word, s.chip.takes t 0x0202 ifc tag target pl 0 ∧ (wordAt pl 0 % 4 ≠ 0 ∨ s.chip.hst.stage.size < wordAt pl 0 + 4 * (pl.length - 1))) ∧
    (∃ s : State, ∃ t : Nat, ∃ ifc : Iface, ∃ tag : Word, ∃ target : Word, ∃ pl : List Word, s.chip.takes t 0x0202 ifc tag target pl 0 ∧ wordAt pl 0 % 4 = 0 ∧ wordAt pl 0 + 4 * (pl.length - 1) ≤ s.chip.hst.stage.size ∧ s.chip.hst.stage.running = true) ∧
    (∃ s : State, ∃ t : Nat, ∃ ifc : Iface, ∃ tag : Word, ∃ target : Word, ∃ pl : List Word, s.chip.takes t 0x0202 ifc tag target pl 0 ∧ wordAt pl 0 % 4 = 0 ∧ wordAt pl 0 + 4 * (pl.length - 1) ≤ s.chip.hst.stage.size ∧ s.chip.hst.stage.running = false) ∧
    (∃ s : State, ∃ t : Nat, ∃ ifc : Iface, ∃ tag : Word, ∃ target : Word, ∃ pl : List Word, s.chip.takes t 0x0203 ifc tag target pl 0 ∧ (s.chip.hst.stage.whole = false ∨ pl.getD 0 0 ≠ s.chip.hst.stage.imageId)) ∧
    (∃ s : State, ∃ t : Nat, ∃ ifc : Iface, ∃ tag : Word, ∃ target : Word, ∃ pl : List Word, ∃ d : Nat, s.chip.takes t 0x0203 ifc tag target pl 0 ∧ s.chip.imgWrongState s.chip.hst.stage = some d ∧ s.chip.hst.stage.whole = true ∧ pl.getD 0 0 = s.chip.hst.stage.imageId) :=
  ⟨⟨(st w0), 0, Iface.spi, 0, 0, [31, 1], takes_of (by decide +kernel), by decide +kernel⟩,
   ⟨st (sg { Staging.init with running := true } w0), 0, Iface.spi, 0, 0, [32, 1], takes_of (by decide +kernel), by decide +kernel⟩,
   ⟨(st w0), 0, Iface.spi, 0, 0, [32, 1], takes_of (by decide +kernel), by decide +kernel⟩,
   ⟨(st w0), 0, Iface.spi, 0, 0, [0, 7], takes_of (by decide +kernel), by decide +kernel⟩,
   ⟨st (sg { Staging.init with running := true, size := 32 } w0), 0, Iface.spi, 0, 0, [0, 7], takes_of (by decide +kernel), by decide +kernel⟩,
   ⟨st (sg { Staging.init with size := 32 } w0), 0, Iface.spi, 0, 0, [0, 7], takes_of (by decide +kernel), by decide +kernel⟩,
   ⟨(st w0), 0, Iface.spi, 0, 0, [0], takes_of (by decide +kernel), by decide +kernel⟩,
   ⟨st (sg { Staging.init with size := 32, staged := [(0, 32)] } (fs [(SYS_STATE__STATE, 2)] w0)), 0, Iface.spi, 0, 0, [0], 0, takes_of (by decide +kernel), by decide +kernel⟩⟩

/-- States and operands that meet the hypotheses of `Obligations.ImagesAreStagedCheckedAndAppliedWhole`, part 2 of 2. -/
theorem test_met_ImagesAreStagedCheckedAndAppliedWhole_2 :
    (∃ s : State, ∃ t : Nat, ∃ ifc : Iface, ∃ tag : Word, ∃ target : Word, ∃ pl : List Word, s.chip.takes t 0x0203 ifc tag target pl 0 ∧ s.chip.hst.stage.whole = true ∧ pl.getD 0 0 = s.chip.hst.stage.imageId ∧ s.chip.imgWrongState s.chip.hst.stage = none ∧ (s.chip.hst.stage.running = true ∨ s.chip.imgChainBusy s.chip.hst.stage = true ∨ s.chip.longFree 0x0203 0 = false)) ∧
    (∃ s : State, ∃ t : Nat, ∃ ifc : Iface, ∃ tag : Word, ∃ target : Word, ∃ pl : List Word, s.chip.takes t 0x0203 ifc tag target pl 0 ∧ s.chip.hst.stage.whole = true ∧ pl.getD 0 0 = s.chip.hst.stage.imageId ∧ s.chip.imgWrongState s.chip.hst.stage = none ∧ s.chip.hst.stage.running = false ∧ s.chip.imgChainBusy s.chip.hst.stage = false ∧ s.chip.longFree 0x0203 0 = true) ∧
    (∃ s : State, ∃ t : Nat, s.chip.ready t ∧ (s.chip.hst.stage.running = false ∨ s.chip.hst.stage.applyAt = true)) ∧
    (∃ s : State, ∃ t : Nat, ∃ l : LongCmd, ∃ f : Nat × Nat, s.chip.ready t ∧ s.chip.commitCmd = some l ∧ s.chip.imgFails s.chip.hst.stage = some f ∧ s.chip.hst.stage.running = true ∧ s.chip.hst.stage.applyAt = false) ∧
    (∃ s : State, ∃ t : Nat, ∃ l : LongCmd, ∃ d : Nat, s.chip.ready t ∧ s.chip.commitCmd = some l ∧ s.chip.imgWrongState s.chip.hst.stage = some d ∧ s.chip.hst.stage.running = true ∧ s.chip.hst.stage.applyAt = false ∧ s.chip.imgFails s.chip.hst.stage = none) ∧
    (∃ s : State, ∃ t : Nat, ∃ l : LongCmd, s.chip.ready t ∧ s.chip.commitCmd = some l ∧ s.chip.hst.stage.running = true ∧ s.chip.hst.stage.applyAt = false ∧ s.chip.imgFails s.chip.hst.stage = none ∧ s.chip.imgWrongState s.chip.hst.stage = none ∧ s.chip.imgChainBusy s.chip.hst.stage = true) ∧
    (∃ s : State, ∃ t : Nat, ∃ l : LongCmd, s.chip.ready t ∧ s.chip.commitCmd = some l ∧ s.chip.hst.stage.running = true ∧ s.chip.hst.stage.applyAt = false ∧ s.chip.imgFails s.chip.hst.stage = none ∧ s.chip.imgWrongState s.chip.hst.stage = none ∧ s.chip.imgChainBusy s.chip.hst.stage = false ∧ (s.chip.opState ≠ 0 ∨ s.chip.role = 1)) ∧
    (∃ s : State, ∃ t : Nat, ∃ l : LongCmd, s.chip.ready t ∧ s.chip.commitCmd = some l ∧ s.chip.hst.stage.running = true ∧ s.chip.hst.stage.applyAt = false ∧ s.chip.imgFails s.chip.hst.stage = none ∧ s.chip.imgWrongState s.chip.hst.stage = none ∧ s.chip.imgChainBusy s.chip.hst.stage = false ∧ s.chip.opState = 0 ∧ s.chip.role ≠ 1) :=
  ⟨⟨st (sg { Staging.init with size := 32, staged := [(0, 32)], running := true } w0), 0, Iface.spi, 0, 0, [0], takes_of (by decide +kernel), by decide +kernel⟩,
   ⟨st (sg { Staging.init with size := 32, staged := [(0, 32)] } w0), 0, Iface.spi, 0, 0, [0], takes_of (by decide +kernel), by decide +kernel⟩,
   ⟨(st w0), 0, ⟨rfl, by decide +kernel⟩, by decide +kernel⟩,
   ⟨st (lg [lc 0x0203] (sg { Staging.init with running := true } w0)), 0, lc 0x0203, (0, 0), ⟨rfl, by decide +kernel⟩, by decide +kernel⟩,
   ⟨st (fs [(SYS_STATE__STATE, 2)] (lg [lc 0x0203] (sg { Staging.init with size := 44, staged := [(0, 44)], running := true, bytes := [(0, 1), (3, 1), (8, 44), (12, 58), (13, 112), (14, 114), (15, 227), (32, 4), (35, 5), (36, 40)] } w0))), 0, lc 0x0203, 0, ⟨rfl, by decide +kernel⟩, by decide +kernel⟩,
   ⟨st (cr 0 (rn false true (some 0)) (lg [lc 0x0203] (sg { Staging.init with size := 44, staged := [(0, 44)], running := true, bytes := [(0, 1), (3, 1), (8, 44), (12, 121), (13, 100), (14, 9), (15, 244), (32, 4), (35, 4), (36, 40)] } w0))), 0, lc 0x0203, ⟨rfl, by decide +kernel⟩, by decide +kernel⟩,
   ⟨st (fs [(SYS_STATE__STATE, 1)] (lg [lc 0x0203] (sg { Staging.init with size := 44, staged := [(0, 44)], running := true, bytes := [(0, 1), (3, 1), (8, 44), (12, 58), (13, 112), (14, 114), (15, 227), (32, 4), (35, 5), (36, 40)] } w0))), 0, lc 0x0203, ⟨rfl, by decide +kernel⟩, by decide +kernel⟩,
   ⟨st (lg [lc 0x0203] (sg { Staging.init with size := 44, staged := [(0, 44)], running := true, bytes := [(0, 1), (3, 1), (8, 44), (12, 58), (13, 112), (14, 114), (15, 227), (32, 4), (35, 5), (36, 40)] } w0)), 0, lc 0x0203, ⟨rfl, by decide +kernel⟩, by decide +kernel⟩⟩

/-- States and operands that meet the hypotheses of `Obligations.FrozenLogsAreReleasedAndWarmResetsKeepThem`. -/
theorem test_met_FrozenLogsAreReleasedAndWarmResetsKeepThem :
    (∃ s : State, ∃ t : Nat, ∃ ifc : Iface, ∃ tag : Word, ∃ target : Word, ∃ pl : List Word, s.chip.takes t 0x0E04 ifc tag target pl 0 ∧ s.chip.lstate ≠ 2 ∧ s.chip.lstate ≠ 3) ∧
    (∃ s : State, ∃ t : Nat, ∃ ifc : Iface, ∃ tag : Word, ∃ target : Word, ∃ pl : List Word, s.chip.takes t 0x0E04 ifc tag target pl 0 ∧ (s.chip.lstate = 2 ∨ s.chip.lstate = 3) ∧ s.chip.flag LOG_STATUS__SAVING = true) ∧
    (∃ s : State, ∃ t : Nat, ∃ ifc : Iface, ∃ tag : Word, ∃ target : Word, ∃ pl : List Word, s.chip.takes t 0x0E04 ifc tag target pl 0 ∧ (s.chip.lstate = 2 ∨ s.chip.lstate = 3) ∧ s.chip.flag LOG_STATUS__SAVING = false ∧ s.chip.log.bootEvt = none) ∧
    (∃ s : State, ∃ t : Nat, ∃ ifc : Iface, ∃ tag : Word, ∃ target : Word, ∃ pl : List Word, ∃ e : Word × Word × Word, s.chip.takes t 0x0E04 ifc tag target pl 0 ∧ s.chip.log.bootEvt = some e ∧ (s.chip.lstate = 2 ∨ s.chip.lstate = 3) ∧ s.chip.flag LOG_STATUS__SAVING = false ∧ s.chip.log.lostPend = 0) ∧
    (∃ s : State, ∃ t : Nat, ∃ ifc : Iface, ∃ tag : Word, ∃ target : Word, ∃ pl : List Word, s.chip.takes t 0x0E03 ifc tag target pl 0 ∧ 1 < s.chip.lstate) ∧
    (∃ s : State, ∃ t : Nat, ∃ ifc : Iface, ∃ tag : Word, ∃ target : Word, ∃ pl : List Word, s.chip.takes t 0x0E03 ifc tag target pl 0 ∧ s.chip.lstate ≤ 1) ∧
    (∃ s : State, ∃ t : Nat, ∃ ifc : Iface, ∃ tag : Word, ∃ target : Word, ∃ pl : List Word, s.chip.takes t 0x0103 ifc tag target pl 0 ∧ tabWf regReset s.chip.regs = true ∧ target = 1 ∧ (s.chip.opState ≤ 1 ∨ s.chip.opState = 4)) :=
  ⟨⟨(st w0), 0, Iface.spi, 0, 0, [], takes_of (by decide +kernel), by decide +kernel⟩,
   ⟨sf [(LOG_STATUS__LSTATE, 2), (LOG_STATUS__SAVING, 1)], 0, Iface.spi, 0, 0, [], takes_of (by decide +kernel), by decide +kernel⟩,
   ⟨sf [(LOG_STATUS__LSTATE, 2)], 0, Iface.spi, 0, 0, [], takes_of (by decide +kernel), by decide +kernel⟩,
   ⟨st (fs [(LOG_STATUS__LSTATE, 2)] ((fun c => { c with log := { c.log with bootEvt := some (0, 0, 0) } }) w0)), 0, Iface.spi, 0, 0, [], (0, 0, 0), takes_of (by decide +kernel), by decide +kernel⟩,
   ⟨sf [(LOG_STATUS__LSTATE, 2)], 0, Iface.spi, 0, 0, [], takes_of (by decide +kernel), by decide +kernel⟩,
   ⟨(st w0), 0, Iface.spi, 0, 0, [], takes_of (by decide +kernel), by decide +kernel⟩,
   ⟨(st w0), 0, Iface.spi, 0, 1, [], takes_of (by decide +kernel), by decide +kernel⟩⟩

/-- States and operands that meet the hypotheses of `Obligations.PoundsAreSnappedAndFrozenLogsSaved`, part 1 of 2. -/
theorem test_met_PoundsAreSnappedAndFrozenLogsSaved_1 :
    (∃ s : State, ∃ t : Nat, ∃ ifc : Iface, ∃ tag : Word, ∃ target : Word, ∃ pl : List Word, s.chip.takes t 0x0E05 ifc tag target pl 0 ∧ s.chip.lstate ≠ 2) ∧
    (∃ s : State, ∃ t : Nat, ∃ ifc : Iface, ∃ tag : Word, ∃ target : Word, ∃ pl : List Word, s.chip.takes t 0x0E05 ifc tag target pl 0 ∧ s.chip.lstate = 2 ∧ (s.chip.flag LOG_STATUS__SAVING = true ∨ s.chip.flag LOG_STATUS__SPARE_ERASED = false ∨ s.chip.longFree 0x0E05 0 = false)) ∧
    (∃ s : State, ∃ t : Nat, ∃ ifc : Iface, ∃ tag : Word, ∃ target : Word, ∃ pl : List Word, s.chip.takes t 0x0E05 ifc tag target pl 0 ∧ s.chip.lstate = 2 ∧ s.chip.flag LOG_STATUS__SAVING = false ∧ s.chip.flag LOG_STATUS__SPARE_ERASED = true ∧ s.chip.longFree 0x0E05 0 = true) ∧
    (∃ s : State, s.chip.boot.phase = .run ∧ (1 < s.chip.lstate ∨ (s.chip.log.pendSlots.any (fun e => e.1 == s.chip.poundNum)) = true)) ∧
    (∃ s : State, s.chip.boot.phase = .run ∧ s.chip.lstate ≤ 1 ∧ (s.chip.log.pendSlots.all (fun e => e.1 != s.chip.poundNum)) = true) ∧
    (∃ s : State, ∃ t : Nat, s.chip.ready t ∧ (s.chip.log.pendSlots.find? (fun e => e.1 != s.chip.poundNum) = none ∨ 1 < s.chip.lstate)) ∧
    (∃ s : State, ∃ t : Nat, ∃ e : Nat × List Byte × Bool, s.chip.ready t ∧ s.chip.log.pendSlots.find? (fun e => e.1 != s.chip.poundNum) = some e ∧ s.chip.lstate ≤ 1) ∧
    (∃ s : State, ∃ t : Nat, s.chip.ready t ∧ (s.chip.flag LOG_STATUS__SAVING = false ∨ s.chip.works .logSave = false)) :=
  ⟨⟨(st w0), 0, Iface.spi, 0, 0, [], takes_of (by decide +kernel), by decide +kernel⟩,
   ⟨sf [(LOG_STATUS__LSTATE, 2)], 0, Iface.spi, 0, 0, [], takes_of (by decide +kernel), by decide +kernel⟩,
   ⟨sf [(LOG_STATUS__LSTATE, 2), (LOG_STATUS__SPARE_ERASED, 1)], 0, Iface.spi, 0, 0, [], takes_of (by decide +kernel), by decide +kernel⟩,
   ⟨sf [(LOG_STATUS__LSTATE, 2)], by decide +kernel⟩,
   ⟨(st w0), by decide +kernel⟩,
   ⟨(st w0), 0, ⟨rfl, by decide +kernel⟩, by decide +kernel⟩,
   ⟨st ((fun c => { c with log := { c.log with pendSlots := [(1, [], false)] } }) w0), 0, (1, [], false), ⟨rfl, by decide +kernel⟩, by decide +kernel⟩,
   ⟨(st w0), 0, ⟨rfl, by decide +kernel⟩, by decide +kernel⟩⟩

/-- States and operands that meet the hypotheses of `Obligations.PoundsAreSnappedAndFrozenLogsSaved`, part 2 of 2. -/
theorem test_met_PoundsAreSnappedAndFrozenLogsSaved_2 :
    (∃ s : State, ∃ t : Nat, s.chip.ready t ∧ s.chip.flag LOG_STATUS__SAVING = true ∧ s.chip.works .logSave = true) ∧
    (∃ s : State, ∃ t : Nat, s.chip.ready t ∧ (s.chip.flag LOG_STATUS__SPARE_ERASED = true ∨ s.chip.flag LOG_STATUS__SAVING = true)) ∧
    (∃ s : State, ∃ t : Nat, s.chip.ready t ∧ s.chip.flag LOG_STATUS__SPARE_ERASED = false ∧ s.chip.flag LOG_STATUS__SAVING = false) :=
  ⟨⟨st (fs [(LOG_STATUS__SAVING, 1)] ((fun c => { c with lkp := { c.lkp with running := [(68, ⟨0, .logSave, 0, 0, none⟩)] } }) w0)), 0, ⟨rfl, by decide +kernel⟩, by decide +kernel⟩,
   ⟨sf [(LOG_STATUS__SPARE_ERASED, 1)], 0, ⟨rfl, by decide +kernel⟩, by decide +kernel⟩,
   ⟨(st w0), 0, ⟨rfl, by decide +kernel⟩, by decide +kernel⟩⟩

/-- States and operands that meet the hypotheses of `Obligations.ResetsAndSecureBoot`, part 1 of 4. -/
theorem test_met_ResetsAndSecureBoot_1 :
    (∃ s : State, (s.chip.boot.phase ≠ .hold ∨ s.chip.boot.holdPin = true ∨ s.chip.boot.holdThermal = true ∨ s.chip.boot.holdClock = true ∨ s.chip.boot.holdTest = true)) ∧
    (∃ s : State, s.chip.boot.phase = .hold ∧ s.chip.boot.holdPin = false ∧ s.chip.boot.holdThermal = false ∧ s.chip.boot.holdClock = false ∧ s.chip.boot.holdTest = false) ∧
    (∃ s : State, s.chip.boot.phase = .hold) ∧
    (∃ s : State, s.chip.boot.phase ≠ .hold) ∧
    (∃ s : State, (s.chip.boot.phase ≠ .hold ∨ s.chip.boot.holdVin = true ∨ s.chip.boot.holdThermal = true ∨ s.chip.boot.holdClock = true ∨ s.chip.boot.holdTest = true)) ∧
    (∃ s : State, s.chip.boot.phase = .hold ∧ s.chip.boot.holdVin = false ∧ s.chip.boot.holdThermal = false ∧ s.chip.boot.holdClock = false ∧ s.chip.boot.holdTest = false) ∧
    (∃ s : State, (s.chip.boot.phase ≠ .hold ∨ s.chip.boot.holdVin = true ∨ s.chip.boot.holdPin = true ∨ s.chip.boot.holdClock = true ∨ s.chip.boot.holdTest = true)) ∧
    (∃ s : State, s.chip.boot.phase = .hold ∧ s.chip.boot.holdVin = false ∧ s.chip.boot.holdPin = false ∧ s.chip.boot.holdClock = false ∧ s.chip.boot.holdTest = false) :=
  ⟨⟨(st w0), by decide +kernel⟩,
   ⟨st ((fun c => { c with boot := { c.boot with phase := .hold } }) w0), by decide +kernel⟩,
   ⟨st ((fun c => { c with boot := { c.boot with phase := .hold } }) w0), by decide +kernel⟩,
   ⟨(st w0), by decide +kernel⟩,
   ⟨(st w0), by decide +kernel⟩,
   ⟨st ((fun c => { c with boot := { c.boot with phase := .hold } }) w0), by decide +kernel⟩,
   ⟨(st w0), by decide +kernel⟩,
   ⟨st ((fun c => { c with boot := { c.boot with phase := .hold } }) w0), by decide +kernel⟩⟩

/-- States and operands that meet the hypotheses of `Obligations.ResetsAndSecureBoot`, part 2 of 4. -/
theorem test_met_ResetsAndSecureBoot_2 :
    (∃ s : State, (s.chip.boot.phase ≠ .hold ∨ s.chip.boot.holdVin = true ∨ s.chip.boot.holdPin = true ∨ s.chip.boot.holdThermal = true ∨ s.chip.boot.holdTest = true)) ∧
    (∃ s : State, s.chip.boot.phase = .hold ∧ s.chip.boot.holdVin = false ∧ s.chip.boot.holdPin = false ∧ s.chip.boot.holdThermal = false ∧ s.chip.boot.holdTest = false) ∧
    (∃ s : State, (s.chip.boot.phase ≠ .hold ∨ s.chip.boot.holdVin = true ∨ s.chip.boot.holdPin = true ∨ s.chip.boot.holdThermal = true ∨ s.chip.boot.holdClock = true)) ∧
    (∃ s : State, s.chip.boot.phase = .hold ∧ s.chip.boot.holdVin = false ∧ s.chip.boot.holdPin = false ∧ s.chip.boot.holdThermal = false ∧ s.chip.boot.holdClock = false) ∧
    (∃ s : State, (s.chip.boot.phase ≠ .hold ∨ s.chip.boot.logKept = false)) ∧
    (∃ s : State, s.chip.boot.phase = .hold ∧ s.chip.boot.logKept = true) ∧
    (∃ s : State, ∃ t : Nat, s.chip.ready t) ∧
    (∃ s : State, ∃ t : Nat, ∃ ifc : Iface, ∃ tag : Word, ∃ target : Word, ∃ pl : List Word, s.chip.takes t 0x0103 ifc tag target pl 0 ∧ target ≠ 1) :=
  ⟨⟨(st w0), by decide +kernel⟩,
   ⟨st ((fun c => { c with boot := { c.boot with phase := .hold } }) w0), by decide +kernel⟩,
   ⟨(st w0), by decide +kernel⟩,
   ⟨st ((fun c => { c with boot := { c.boot with phase := .hold } }) w0), by decide +kernel⟩,
   ⟨(st w0), by decide +kernel⟩,
   ⟨st ((fun c => { c with boot := { c.boot with phase := .hold, logKept := true } }) w0), by decide +kernel⟩,
   ⟨(st w0), 0, ⟨rfl, by decide +kernel⟩⟩,
   ⟨(st w0), 0, Iface.spi, 0, 0, [], takes_of (by decide +kernel), by decide +kernel⟩⟩

/-- States and operands that meet the hypotheses of `Obligations.ResetsAndSecureBoot`, part 3 of 4. -/
theorem test_met_ResetsAndSecureBoot_3 :
    (∃ s : State, ∃ t : Nat, ∃ ifc : Iface, ∃ tag : Word, ∃ target : Word, ∃ pl : List Word, s.chip.takes t 0x0103 ifc tag target pl 0 ∧ target = 1 ∧ (s.chip.opState = 2 ∨ s.chip.opState = 3)) ∧
    (∃ s : State, ∃ t : Nat, ∃ ifc : Iface, ∃ tag : Word, ∃ target : Word, ∃ pl : List Word, s.chip.takes t 0x0103 ifc tag target pl 0 ∧ target = 1 ∧ (s.chip.opState ≤ 1 ∨ s.chip.opState = 4)) ∧
    (∃ s : State, s.chip.boot.phase ≠ .rom) ∧
    (∃ s : State, ∃ b : BootEnv, s.chip.boot.phase = .rom ∧ b.sramOk = false ∧ s.chip.boot.warm = false) ∧
    (∃ s : State, ∃ b : BootEnv, s.chip.boot.phase = .rom ∧ (b.sramOk = true ∨ s.chip.boot.warm = true) ∧ s.chip.boot.otp.fwKeyHash = 0) ∧
    (∃ s : State, ∃ b : BootEnv, s.chip.boot.phase = .rom ∧ (b.sramOk = true ∨ s.chip.boot.warm = true) ∧ s.chip.boot.otp.fwKeyHash ≠ 0 ∧ b.flashOk = false) ∧
    (∃ s : State, ∃ b : BootEnv, s.chip.boot.phase = .rom ∧ (b.sramOk = true ∨ s.chip.boot.warm = true) ∧ s.chip.boot.otp.fwKeyHash ≠ 0 ∧ b.flashOk = true ∧ ((s.chip.programmed b).fwSlot (s.chip.programmed b).firstSlot).fail s.chip.boot.otp ≠ 0 ∧ ((s.chip.programmed b).fwSlot (1 - (s.chip.programmed b).firstSlot)).fail s.chip.boot.otp ≠ 0) ∧
    (∃ s : State, ∃ b : BootEnv, s.chip.boot.phase = .rom ∧ (b.sramOk = true ∨ s.chip.boot.warm = true) ∧ s.chip.boot.otp.fwKeyHash ≠ 0 ∧ b.flashOk = true ∧ ((s.chip.programmed b).fwSlot (s.chip.programmed b).firstSlot).fail s.chip.boot.otp = 0) :=
  ⟨⟨sf [(SYS_STATE__STATE, 2)], 0, Iface.spi, 0, 1, [], takes_of (by decide +kernel), by decide +kernel⟩,
   ⟨(st w0), 0, Iface.spi, 0, 1, [], takes_of (by decide +kernel), by decide +kernel⟩,
   ⟨(st w0), by decide +kernel⟩,
   ⟨State.reset, ⟨[], true, false⟩, by decide +kernel⟩,
   ⟨st ((fun c => { c with boot := { c.boot with phase := .rom, otp := ⟨0, 0, false, 0, 0, 0, 0⟩ } }) w0), ⟨[], true, true⟩, by decide +kernel⟩,
   ⟨st ((fun c => { c with boot := { c.boot with phase := .rom, otp := ⟨1, 0, false, 0, 0, 0, 0⟩ } }) w0), ⟨[], false, true⟩, by decide +kernel⟩,
   ⟨st ((fun c => { c with boot := { c.boot with phase := .rom, otp := ⟨1, 0, false, 0, 0, 0, 0⟩ } }) w0), ⟨[], true, true⟩, by decide +kernel⟩,
   ⟨rom (fwAt 0 ++ [(0x400006, 0), (0x400008, 1), (0x400009, 0), (0x40000A, 0), (0x40000B, 0)]), ⟨[], true, true⟩, by decide +kernel, by decide +kernel, by decide +kernel, by decide +kernel, fw_starts _ _ (by decide +kernel)⟩⟩

/-- States and operands that meet the hypotheses of `Obligations.ResetsAndSecureBoot`, part 4 of 4. -/
theorem test_met_ResetsAndSecureBoot_4 :
    (∃ s : State, ∃ b : BootEnv, s.chip.boot.phase = .rom ∧ (b.sramOk = true ∨ s.chip.boot.warm = true) ∧ s.chip.boot.otp.fwKeyHash ≠ 0 ∧ b.flashOk = true ∧ ((s.chip.programmed b).fwSlot (s.chip.programmed b).firstSlot).fail s.chip.boot.otp ≠ 0 ∧ ((s.chip.programmed b).fwSlot (1 - (s.chip.programmed b).firstSlot)).fail s.chip.boot.otp = 0) :=
  ⟨rom (fwAt 0x400000), ⟨[], true, true⟩, by decide +kernel, by decide +kernel, by decide +kernel, by decide +kernel, by decide +kernel, fw_starts _ _ (by decide +kernel)⟩

end Sys2Proof.Tests
end

section
/-! SUPPORT. Register accesses and host commands that act: an access of an interface that serves it runs its operation at its
tick, and what the reply to a host command leaves of what the command's own rules did. -/

namespace Sys2Proof.Machine

/-! ## Register accesses -/

/-- In a device that is ready a served access runs its operation at its tick. -/
theorem State.access_next {s : State} {t : Nat} {i : Iface} {f : Chip → Chip} (hr : s.chip.ready t)
    (hs : s.chip.serves i = true) : s.access t i f = .next { s with chip := (f (s.chip.at t)).settle } := by
  have hserve : (s.chip.at t).serves i = true := hs
  unfold State.access
  rw [State.event_run s t _ hr.1, Chip.onlyIf, hserve, if_pos rfl]

theorem Chip.at_now_ready {c : Chip} {t : Nat} (h : c.ready t) : (c.at t).now = t := Nat.max_eq_right h.2

theorem Chip.regsBut_settle {a b : Chip} {l : List Nat} (h : ∀ off, off ∉ l → b.reg off = a.reg off) :
    a.regsBut b.settle l := fun off ho => (Chip.settle_reg b off).trans (h off ho)

/-- What an operation adds to the record of what left the device has been sent. -/
theorem Chip.sent_emit {a b : Chip} {l : List Output} (h : b.out = a.out ++ l) : a.sent b.settle l :=
  Chip.sent_settle (h ▸ List.prefix_refl _)

/-! ## Host commands -/

@[simp] theorem Chip.stat_sendTicks (c : Chip) (i : Nat) : (c.stat i).hst.sendTicks = c.hst.sendTicks := rfl

theorem Chip.deliver_sendTicks (c : Chip) (org : Origin) (ws : List Word) (final : Bool) :
    (c.deliver org ws final).hst.sendTicks = c.hst.sendTicks := by
  unfold Chip.deliver
  cases org.ifc
  case pcie =>
    dsimp only
    split
    · rfl
    · split <;> rfl
  case spi => dsimp only [Chip.onlyIf]; split <;> split <;> rfl
  all_goals dsimp only; split <;> rfl

theorem Chip.answerWaiting_sendTicks (c : Chip) (k : Intake) : (c.answerWaiting k).hst.sendTicks = c.hst.sendTicks := by
  unfold Chip.answerWaiting
  split
  · rfl
  · exact Chip.deliver_sendTicks ..
  · unfold Chip.failedFetch
    split <;> rfl

theorem Chip.intakeFlush_sendTicks (c : Chip) (i : Iface) (n : Nat) :
    (c.intakeFlush i n).hst.sendTicks = c.hst.sendTicks := by
  induction n generalizing c with
  | zero => rfl
  | succ n ih =>
    unfold Chip.intakeFlush
    split
    · rfl
    · split
      · rfl
      · rw [ih, Chip.answerWaiting_sendTicks]

@[simp] theorem Chip.settle_sendTicks (c : Chip) : c.settle.hst.sendTicks = c.hst.sendTicks := by
  have h := Chip.settle_hst_main c
  simp only [Hst.main, Prod.mk.injEq] at h
  obtain ⟨-, -, -, -, -, -, -, -, -, -, -, -, -, -, -, -, h, -⟩ := h
  exact h

theorem Chip.taken_sendTicks (c : Chip) (t op : Nat) (ifc : Iface) (tag target : Word) (pl : List Word) :
    (c.taken t op ifc tag target pl).hst.sendTicks = c.hst.sendTicks := by
  unfold Chip.taken Chip.takeIntake
  split <;> rfl

theorem Chip.taken_out (c : Chip) (t op : Nat) (ifc : Iface) (tag target : Word) (pl : List Word) :
    (c.taken t op ifc tag target pl).out = c.out := (Chip.taken_keeps ..).outEq rfl

theorem Chip.taken_mem (c : Chip) (t op : Nat) (ifc : Iface) (tag target : Word) (pl : List Word) :
    (c.taken t op ifc tag target pl).mem = c.mem := (Chip.taken_keeps ..).mem rfl

theorem Chip.taken_tim (c : Chip) (t op : Nat) (ifc : Iface) (tag target : Word) (pl : List Word) :
    (c.taken t op ifc tag target pl).tim = c.tim := (Chip.taken_keeps ..).tim rfl

theorem Chip.taken_stage (c : Chip) (t op : Nat) (ifc : Iface) (tag target : Word) (pl : List Word) :
    (c.taken t op ifc tag target pl).hst.stage = c.hst.stage := by
  unfold Chip.taken Chip.takeIntake
  split <;> rfl

theorem Chip.taken_opState (c : Chip) (t op : Nat) (ifc : Iface) (tag target : Word) (pl : List Word) :
    (c.taken t op ifc tag target pl).opState = c.opState := Chip.fld_congr (Chip.taken_regs ..) _

theorem Chip.takes_now {c : Chip} {t op n : Nat} {ifc : Iface} {tag target : Word} {pl : List Word}
    (h : c.takes t op ifc tag target pl n) : (c.taken t op ifc tag target pl).now = t := by
  obtain ⟨-, hle, -⟩ := h
  rw [Chip.taken_now, Nat.max_eq_right hle]

/-- What stands between the effect `d` of a command's own rules and the end of its step: the reply, the answers to packets that
waited behind it and the interrupt messages add to what was sent and to the host's queues, and touch nothing else. -/
structure AfterReply (d b : Chip) : Prop where
  keeps : Keeps 0x4000018 d b
  sendTicks : b.hst.sendTicks = d.hst.sendTicks

theorem AfterReply.of_reply (d : Chip) (k : Intake) (st dt : Nat) (rpl : List Word) (i : Iface) (n : Nat) :
    AfterReply d ((d.reply k st dt rpl).intakeFlush i n).settle where
  keeps := by
    have hr : Keeps 0x4000018 d (d.reply k st dt rpl) := (Chip.reply_keeps ..).weaken rfl
    exact (hr.trans (Chip.intakeFlush_keeps _ i n) rfl).trans (Chip.settle_keeps _) rfl
  sendTicks := by
    rw [Chip.settle_sendTicks, Chip.intakeFlush_sendTicks, Chip.reply, Chip.deliver_sendTicks, Chip.stat_sendTicks]

/-- What holds the same before and after: registers, memories, time bases and the record of frames sent. -/
structure Untouched (a b : Chip) : Prop where
  regs : a.regsSame b
  mem : b.mem = a.mem
  tim : b.tim = a.tim
  sendTicks : b.hst.sendTicks = a.hst.sendTicks

section Command
variable {s : State} {t op : Nat} {ifc : Iface} {tag target : Word} {pl : List Word} {body : Chip → Intake → Chip × Answer}
  {o : OpInfo} {st dt : Nat}

/-- A host command that takes its turn and whose own rules answer at once with effect `d`: it is done, with `d` and the
reply's trail. The rules see the command through an entry `k` that carries its payload, TARGET and interface. A twin-wide change in
role PRIMARY is excluded, which waits for the boundary instead (R436). -/
theorem State.command_done {d : Chip} {rpl : List Word} (ho : opInfo op = some o)
    (ht : s.chip.takes t op ifc tag target pl rpl.length) (hw : ¬ (s.chip.role = 1 ∧ o.twin = true))
    (hb : ∀ k : Intake, k.payload = pl → k.target = target → k.org.ifc = ifc →
      body (s.chip.taken t op ifc tag target pl) k = (d, .now st dt rpl))
    (hd : d.now = t) :
    ∃ s', s.command t op ifc tag target pl body = .next s' ∧ Done s t op ifc tag target pl st dt rpl s'
      ∧ AfterReply d s'.chip := by
  obtain ⟨hacc, -, hlong, hturn⟩ := ht
  obtain ⟨-, hifc, -, htarget, hpl⟩ := Chip.takeIntake_spec s.chip op ifc tag target pl
  obtain ⟨s', hnext, -, hchip, hreplied⟩ := State.command_now s t op ifc tag target pl none body o d st dt rpl ho hacc hturn
    (hb _ hpl htarget hifc) hlong (fun ⟨h1, _, h3, _⟩ => hw ⟨h1, h3⟩)
  have hafter : AfterReply d s'.chip := hchip ▸ AfterReply.of_reply ..
  exact ⟨s', hnext, ⟨(hafter.keeps.now rfl).trans hd, hreplied⟩, hafter⟩

/-- A command whose own rules have no effect is answered and touches nothing. -/
theorem State.command_refused (ho : opInfo op = some o) (ht : s.chip.takes t op ifc tag target pl 0)
    (hw : ¬ (s.chip.role = 1 ∧ o.twin = true))
    (hb : ∀ k : Intake, k.payload = pl → k.target = target → k.org.ifc = ifc →
      body (s.chip.taken t op ifc tag target pl) k = (s.chip.taken t op ifc tag target pl, .now st dt [])) :
    ∃ s', s.command t op ifc tag target pl body = .next s' ∧ Done s t op ifc tag target pl st dt [] s'
      ∧ Untouched s.chip s'.chip := by
  obtain ⟨s', hnext, hdone, hkeeps, hticks⟩ := State.command_done (rpl := []) ho ht hw hb (Chip.takes_now ht)
  exact ⟨s', hnext, hdone, (hkeeps.regs rfl).trans (Chip.taken_regs ..), (hkeeps.mem rfl).trans (Chip.taken_mem ..),
    (hkeeps.tim rfl).trans (Chip.taken_tim ..), hticks.trans (Chip.taken_sendTicks ..)⟩

end Command

end Sys2Proof.Machine
end

section
/-! SUPPORT. The time bases, the Tally and FRAME_SEND: what a snapshot writes, what a read of a base keeps, what a stamp does
to the Tally, and FRAME_SEND's answers case by case. -/

namespace Sys2Proof.Machine

/-- A register access that answers with a word and touches no register: the word leaves, and the next state is the operation's
with its interrupt messages. -/
theorem State.access_read {s : State} {t m : Nat} {i : Iface} {r : Chip → Chip × Word} (hr : s.chip.ready t)
    (hs : s.chip.serves i = true) (hk : Keeps m (s.chip.at t) (r (s.chip.at t)).1) (h0 : m.testBit 0 = false)
    (h2 : m.testBit 2 = false) (h3 : m.testBit 3 = false) :
    ∃ s', s.access t i (fun c => Chip.answer (r c) i) = .next s' ∧ s'.chip.now = t
      ∧ s.chip.sent s'.chip [.read i (r (s.chip.at t)).2] ∧ s.chip.regsSame s'.chip
      ∧ s'.chip = (Chip.answer (r (s.chip.at t)) i).settle := by
  refine ⟨_, State.access_next hr hs, ?_, ?_, ?_, rfl⟩
  · exact (Chip.settle_now _).trans ((hk.now h0).trans (Chip.at_now_ready hr))
  · refine Chip.sent_emit ?_
    rw [← Chip.at_out s.chip t, ← hk.outEq h3]
    rfl
  · exact (Chip.settle_regs _).trans (hk.regs h2)

/-! ## SNAP (R278) -/

/-- Writing a run of registers leaves any register outside the run as before. -/
theorem Chip.reg_each_setReg_ne (off v : Nat → Nat) (l : List Nat) (c : Chip) (o : Nat)
    (ho : ∀ j ∈ l, off j ≠ o) : (c.each l (fun c j => c.setReg (off j) (v j))).reg o = c.reg o := by
  induction l generalizing c with
  | nil => rfl
  | cons j l ih =>
    have htail := ih (c.setReg (off j) (v j)) (fun k hk => ho k (List.mem_cons_of_mem _ hk))
    exact htail.trans (Chip.reg_setReg_ne _ _ _ _ (ho j List.mem_cons_self))

/-- Writing a run of registers, each at its own offset: a read of one of them. -/
theorem Chip.reg_each_setReg_mem (off v : Nat → Nat) (hinj : ∀ i j, off i = off j → i = j) (l : List Nat)
    (c : Chip) (i : Nat) (hi : i ∈ l) :
    (c.each l (fun c j => c.setReg (off j) (v j))).reg (off i) = v i % 2 ^ 32 := by
  induction l generalizing c with
  | nil => cases hi
  | cons j l ih =>
    by_cases htail : i ∈ l
    · exact ih (c.setReg (off j) (v j)) htail
    · obtain rfl : i = j := (List.mem_cons.mp hi).resolve_right htail
      have hkeep := Chip.reg_each_setReg_ne off v l (c.setReg (off i) (v i)) (off i)
        (fun k hk e => htail (hinj k i e ▸ hk))
      exact hkeep.trans (by rw [Chip.reg_setReg, if_pos rfl])

theorem TIM_SNAP_inj (i j : Nat) (h : TIM_SNAP i = TIM_SNAP j) : i = j := by
  unfold TIM_SNAP at h; omega

/-- TIM_SNAP_CTL lies behind the 19 words of the snapshot. -/
theorem TIM_SNAP_ne_ctl (i : Nat) (hi : i < 19) : TIM_SNAP i ≠ TIM_SNAP_CTL := by
  unfold TIM_SNAP_CTL TIM_SNAP; omega

theorem wordAt_lt (l : List Word) (i : Nat) : wordAt l i < 2 ^ 32 := (l.getD i 0).isLt

theorem Chip.snapBases_snap (c : Chip) (i : Nat) (hi : i < 19) : c.snapBases.reg (TIM_SNAP i) = wordAt c.allBases i := by
  unfold Chip.snapBases
  rw [Chip.reg_setFld_ne _ _ _ _ (TIM_SNAP_ne_ctl i hi).symm,
    Chip.reg_each_setReg_mem TIM_SNAP (wordAt c.allBases) TIM_SNAP_inj _ c i (List.mem_range.mpr hi),
    Nat.mod_eq_of_lt (wordAt_lt _ _)]

theorem Chip.snapBases_seq (c : Chip) :
    c.snapBases.fld TIM_SNAP_CTL__SEQ = (c.fld TIM_SNAP_CTL__SEQ + 1) % 2 ^ 16 := by
  have hctl := Chip.reg_each_setReg_ne TIM_SNAP (wordAt c.allBases) (List.range 19) c TIM_SNAP_CTL
    (fun j hj => TIM_SNAP_ne_ctl j (List.mem_range.mp hj))
  unfold Chip.snapBases
  rw [Chip.fld_setFld _ _ _ ⟨by decide, by decide⟩]
  unfold Chip.fld
  rw [hctl]
  rfl

theorem Chip.snapBases_reg_ne (c : Chip) (o : Nat) (ho : o ∉ TIM_SNAP_CTL :: (List.range 19).map TIM_SNAP) :
    c.snapBases.reg o = c.reg o := by
  rw [List.mem_cons, not_or, List.mem_map] at ho
  obtain ⟨hctl, hsnap⟩ := ho
  unfold Chip.snapBases
  rw [Chip.reg_setFld_ne _ _ _ _ (fun h => hctl h.symm)]
  exact Chip.reg_each_setReg_ne TIM_SNAP _ _ c _ (fun j hj h => hsnap ⟨j, hj, h⟩)

/-- The first two words of a snapshot are TB0 (R271). -/
theorem Chip.allBases_tb0 (c : Chip) : wordAt c.allBases 0 = c.now * 5 / 4 % 2 ^ 32
    ∧ wordAt c.allBases 1 = c.now * 5 / 4 / 2 ^ 32 % 2 ^ 32 := ⟨rfl, rfl⟩

/-! ## Reads of a base and of the Tally (R277, R290) -/

/-- What a read of base `k` leaves for its interface: the other words of a plant-format base, the upper word of any other. -/
theorem Chip.readBase_snap (c : Chip) (i : Iface) (k : Nat) :
    if 1 ≤ k ∧ k ≤ 3 then ((c.readBase i k).1.snap i).wide = (c.baseWords k).drop 1
    else ((c.readBase i k).1.snap i).hi = (c.baseWords k).getD 1 0 := by
  unfold Chip.readBase
  split <;> simp only [Chip.setSnap_snap]

theorem Chip.answer_settle_snap (r : Chip × Word) (i j : Iface) : (Chip.answer r i).settle.snap j = r.1.snap j :=
  Chip.settle_snap _ _

theorem Chip.tallyRead_nil {c : Chip} (h : c.tim.tally = []) (i : Iface) :
    c.tallyRead i = (c.setSnap i { c.snap i with tally := [0, 0, 0] }, 0) := by
  unfold Chip.tallyRead
  rw [h]

theorem Chip.tallyRead_cons {c : Chip} {e : List Word} {rest : List (List Word)} (h : c.tim.tally = e :: rest) (i : Iface) :
    c.tallyRead i = (({ c with tim := { c.tim with tally := rest } }).setSnap i { c.snap i with tally := e.drop 1 },
      e.getD 0 0) := by
  unfold Chip.tallyRead
  rw [h]
  rfl

/-! ## Stamps (R288 to R290) -/

theorem Tim.tallyWith_length_le (x : Tim) (now : Nat) (ws : List Word) :
    (x.tallyWith now ws).length ≤ x.tally.length + 1 := by
  unfold Tim.tallyWith
  split
  · next e he =>
    split
    · have hpos := List.length_pos_of_mem (List.mem_of_getLast? he)
      simp only [List.length_append, List.length_dropLast, List.length_cons, List.length_nil]
      omega
    · exact Nat.le_of_eq (List.length_append ..)
  · exact Nat.le_add_left 1 _

/-- A stamp of a later tick than the last one stands behind the others. -/
theorem Tim.tallyWith_of_ne {x : Tim} {now : Nat} (h : x.tallyT ≠ now) (ws : List Word) :
    x.tallyWith now ws = x.tally ++ [ws] := by
  unfold Tim.tallyWith
  split
  · rw [if_neg (fun k => h k.1)]
  · next hl => rw [List.getLast?_eq_none_iff.mp hl]; rfl

/-- A stamp that finds room is entered at its tick, and raises no more than the interrupt of a Tally that was empty. -/
theorem Chip.tallyPut_room (c : Chip) (ws : List Word) (h : c.tim.tally.length < 32) :
    (c.tallyPut ws).tim = { c.tim with tally := c.tim.tallyWith c.now ws, tallyT := c.now }
      ∧ ∀ o, o ∉ [TIM_INT_STATUS] → (c.tallyPut ws).reg o = c.reg o := by
  have hle : (c.tim.tallyWith c.now ws).length ≤ 32 := Nat.le_trans (Tim.tallyWith_length_le ..) h
  have hfit : ¬ 32 < (c.tim.tallyWith c.now ws).length := Nat.not_lt.mpr hle
  unfold Chip.tallyPut
  simp only [hfit, if_false, List.take_of_length_le hle]
  split
  · exact ⟨rfl, fun o ho => Chip.reg_setFld_ne _ _ _ _ (fun e => ho (List.mem_singleton.mpr e.symm))⟩
  · exact ⟨rfl, fun _ _ => rfl⟩

theorem exec_frameStamp_event (t : Nat) (m : Fin 2) (ab : Bool) (s : State) :
    exec (.frameStamp t m ab) s = s.event t (fun c => c.frameStamp m.val ab) := rfl

/-- The oldest awaited stamp of a MAC goes into a Tally with room. -/
theorem Chip.frameStamp_room {c : Chip} {m : Nat} {q : StampReq} (hq : c.tim.stamps.find? (fun q => q.mac == m) = some q)
    (h : c.tim.tally.length < 32) (ab : Bool) :
    (c.frameStamp m ab).tim = { c.tim with
        stamps := c.tim.stamps.erase q, tally := c.tim.tallyWith c.now (c.tallyEntry q ab), tallyT := c.now }
      ∧ ∀ o, o ∉ [TIM_INT_STATUS] → (c.frameStamp m ab).reg o = c.reg o := by
  unfold Chip.frameStamp
  rw [hq]
  exact Chip.tallyPut_room _ _ h

/-! ## FRAME_SEND (R478) -/

/-- The ticks at which MAC `m` sent a frame within the second before `t`. -/
def Chip.recentSends (c : Chip) (m t : Nat) : List Nat :=
  (tabGet (fun _ => ([] : List Nat)) c.hst.sendTicks m).filter (fun x => decide (t < x + 800000000))

theorem Chip.frameSend_badBase {c : Chip} {k : Intake} (h : bits (wordAt k.payload 0) 5 4 = 3) :
    c.frameSend k = (c, ansArg 0) := by
  unfold Chip.frameSend
  rw [if_pos h]

theorem Chip.frameSend_badLength {c : Chip} {k : Intake} (h : bits (wordAt k.payload 0) 5 4 ≠ 3)
    (hn : bits (wordAt k.payload 1) 10 0 < 14 ∨ 1518 < bits (wordAt k.payload 1) 10 0) :
    c.frameSend k = (c, ansArg 1) := by
  unfold Chip.frameSend
  rw [if_neg h, if_pos hn]

theorem Chip.frameSend_busy {c : Chip} {k : Intake} (h : bits (wordAt k.payload 0) 5 4 ≠ 3)
    (hn : ¬ (bits (wordAt k.payload 1) 10 0 < 14 ∨ 1518 < bits (wordAt k.payload 1) 10 0))
    (hb : 10000 ≤ (c.recentSends (bits (wordAt k.payload 0) 0 0) c.now).length) :
    c.frameSend k = (c, ansBusy) := by
  unfold Chip.frameSend
  rw [if_neg h, if_neg hn]
  exact if_pos hb

theorem opInfo_frameSend : opInfo 0x0703 = some ⟨0x0703, 2, 382, 0, false, false, false⟩ := by decide

/-- The sends that count against a command that is in its turn at `t`. -/
theorem Chip.recentSends_taken {c : Chip} {t op n : Nat} {ifc : Iface} {tag target : Word} {pl : List Word}
    (h : c.takes t op ifc tag target pl n) (m : Nat) :
    (c.taken t op ifc tag target pl).recentSends m (c.taken t op ifc tag target pl).now
      = (tabGet (fun _ => ([] : List Nat)) c.hst.sendTicks m).filter (fun x => decide (t < x + 800000000)) := by
  unfold Chip.recentSends
  rw [Chip.takes_now h, Chip.taken_sendTicks]

/-- The stamp a frame with this first payload word asks for. -/
def stampAsked (w0 : Nat) : List StampReq :=
  if w0.testBit 1 then [(⟨bits w0 0 0, bits w0 31 16, bits w0 5 4⟩ : StampReq)] else []

/-- A frame leaves MAC `m`, its tick joins the sends of the last second, and the stamps it asks for are awaited. -/
def Chip.frameOut (c : Chip) (m : Nat) (bs : List Byte) (asked : List StampReq) : Chip :=
  let ticks := tabPut (fun _ => ([] : List Nat)) m (c.recentSends m c.now ++ [c.now]) c.hst.sendTicks
  { c with out := c.out ++ [.eth m bs], hst := { c.hst with sendTicks := ticks },
           tim := { c.tim with stamps := c.tim.stamps ++ asked } }

theorem Chip.frameSend_sent {c : Chip} {k : Intake} (h : bits (wordAt k.payload 0) 5 4 ≠ 3)
    (hn : ¬ (bits (wordAt k.payload 1) 10 0 < 14 ∨ 1518 < bits (wordAt k.payload 1) 10 0))
    (hb : (c.recentSends (bits (wordAt k.payload 0) 0 0) c.now).length < 10000) :
    c.frameSend k = (c.frameOut (bits (wordAt k.payload 0) 0 0)
      ((wordsBytes (k.payload.drop 2)).take (bits (wordAt k.payload 1) 10 0)) (stampAsked (wordAt k.payload 0)), ansOK) := by
  unfold Chip.frameSend
  rw [if_neg h, if_neg hn]
  refine (if_neg (Nat.not_le.mpr hb)).trans ?_
  unfold stampAsked Chip.frameOut
  split
  · rfl
  · rw [List.append_nil]
    rfl

/-- A FRAME_SEND that is refused: neither the time bases nor the MACs' sends nor a register changes. -/
theorem State.frameSend_refused {s : State} {t : Nat} {ifc : Iface} {tag target : Word} {pl : List Word} {st dt : Nat}
    (ht : s.chip.takes t 0x0703 ifc tag target pl 0)
    (hb : ∀ k : Intake, k.payload = pl → k.target = target → k.org.ifc = ifc →
      (s.chip.taken t 0x0703 ifc tag target pl).frameSend k = (s.chip.taken t 0x0703 ifc tag target pl, .now st dt [])) :
    ∃ s', exec (.frameSend t ifc tag target pl) s = .next s' ∧ Done s t 0x0703 ifc tag target pl st dt [] s'
      ∧ s'.chip.tim = s.chip.tim ∧ s'.chip.hst.sendTicks = s.chip.hst.sendTicks ∧ s.chip.regsSame s'.chip := by
  obtain ⟨s', hnext, hdone, hun⟩ := State.command_refused opInfo_frameSend ht (by simp) hb
  exact ⟨s', hnext, hdone, hun.tim, hun.sendTicks, hun.regs⟩

/-- Settles O12: an access runs at its tick and its snapshot, base or Tally word is read off the operation; a command's effect
is its own rules' with the trail of the reply. -/
theorem timeBasesAreReadAndSnappedWhole : Obligations.TimeBasesAreReadAndSnappedWhole := by
  intro s t ifc hr
  have hnow : (s.chip.at t).now = t := Chip.at_now_ready hr
  refine ⟨fun hs => ?snap, fun k hs => ?base, fun hs => ?tally, fun m ab q hq hroom => ?stamp, fun tag target pl ht hbase => ?bad,
    fun tag target pl ht hbase hlen => ?len, fun tag target pl ht hbase hlo hhi hbusy => ?busy,
    fun tag target pl ht hbase hlo hhi hfree => ?sent⟩
  case snap =>
    refine ⟨_, State.access_next hr hs, ?_, fun i hi => ?_, ?_, ?_, ?_, Chip.regsBut_settle (fun o ho => ?_)⟩
    · exact (Chip.settle_now _).trans (((Chip.snapBases_keeps _).now rfl).trans hnow)
    · exact (Chip.settle_reg _ _).trans (Chip.snapBases_snap _ i hi)
    · refine (Chip.settle_reg _ _).trans ((Chip.snapBases_snap _ 0 (by decide)).trans ?_)
      rw [(Chip.allBases_tb0 _).1, hnow]
    · refine (Chip.settle_reg _ _).trans ((Chip.snapBases_snap _ 1 (by decide)).trans ?_)
      rw [(Chip.allBases_tb0 _).2, hnow]
    · exact (Chip.settle_fld _ _).trans (Chip.snapBases_seq _)
    · exact Chip.snapBases_reg_ne _ o ho
  case base =>
    obtain ⟨s', hnext, hn, hsent, hregs, hchip⟩ :=
      State.access_read (r := fun c => c.readBase ifc k.val) hr hs (Chip.readBase_keeps ..) rfl rfl rfl
    refine ⟨s', hnext, hn, hsent, ?_, hregs⟩
    rw [hchip, Chip.answer_settle_snap]
    exact Chip.readBase_snap (s.chip.at t) ifc k.val
  case tally =>
    obtain ⟨s', hnext, hn, hsent, hregs, hchip⟩ :=
      State.access_read (r := fun c => c.tallyRead ifc) hr hs (Chip.tallyRead_keeps ..) rfl rfl rfl
    refine ⟨s', hnext, hn, hregs, ?_⟩
    have hsnap : s'.chip.snap ifc = ((s.chip.at t).tallyRead ifc).1.snap ifc := by rw [hchip, Chip.answer_settle_snap]
    have htim : s'.chip.tim = ((s.chip.at t).tallyRead ifc).1.tim := by rw [hchip, Chip.settle_tim]; rfl
    split
    · next hnil =>
      rw [Chip.tallyRead_nil (c := s.chip.at t) hnil] at hsent hsnap htim
      exact ⟨hsent, by rw [hsnap, Chip.setSnap_snap], htim⟩
    · next e rest hcons =>
      rw [Chip.tallyRead_cons (c := s.chip.at t) hcons] at hsent hsnap htim
      exact ⟨hsent, by rw [hsnap, Chip.setSnap_snap], htim⟩
  case stamp =>
    obtain ⟨htim, hreg⟩ := Chip.frameStamp_room (c := s.chip.at t) hq hroom ab
    rw [hnow] at htim
    rw [exec_frameStamp_event]
    refine ⟨_, State.event_run s t _ hr.1, ?_, ?_, fun hne => ?_, Chip.regsBut_settle hreg⟩
    · exact (Chip.settle_now _).trans (((Chip.frameStamp_keeps ..).now rfl).trans hnow)
    · exact (Chip.settle_tim _).trans htim
    · rw [Chip.settle_tim, htim]
      exact Tim.tallyWith_of_ne hne _
  case bad =>
    exact State.frameSend_refused ht (by rintro k rfl - -; exact Chip.frameSend_badBase hbase)
  case len =>
    exact State.frameSend_refused ht (by rintro k rfl - -; exact Chip.frameSend_badLength hbase hlen)
  case busy =>
    rw [← Chip.recentSends_taken ht] at hbusy
    exact State.frameSend_refused ht (by rintro k rfl - -; exact Chip.frameSend_busy hbase (by omega) hbusy)
  case sent =>
    have hrecent := Chip.recentSends_taken ht (bits (wordAt pl 0) 0 0)
    have hbody : ∀ k : Intake, k.payload = pl → k.target = target → k.org.ifc = ifc →
        (s.chip.taken t 0x0703 ifc tag target pl).frameSend k = ((s.chip.taken t 0x0703 ifc tag target pl).frameOut
          (bits (wordAt pl 0) 0 0) ((wordsBytes (pl.drop 2)).take (bits (wordAt pl 1) 10 0)) (stampAsked (wordAt pl 0)),
          .now stOK 0 []) := by
      rintro k rfl - -
      exact Chip.frameSend_sent hbase (by omega) (by rw [hrecent]; exact hfree)
    obtain ⟨s', hnext, hdone, hkeeps, hst⟩ :=
      State.command_done (rpl := []) opInfo_frameSend ht (by simp) hbody (Chip.takes_now ht)
    refine ⟨s', hnext, hdone, ?_, ?_, ?_, (hkeeps.regs rfl).trans (Chip.taken_regs ..)⟩
    · have hout := hkeeps.out
      rw [Chip.frameOut, Chip.taken_out] at hout
      exact hout
    · rw [hst, Chip.frameOut, tabGet_put, if_pos rfl, hrecent, Chip.takes_now ht]
    · rw [hkeeps.tim rfl, Chip.frameOut, Chip.taken_tim]
      rfl

end Sys2Proof.Machine
end

section
/-! SUPPORT. Configuration written by the host: a register written by its access codes, memories read back as they were
written, and the answers of REG_WRITE, CFG_WRITE and BUDGET_SET case by case. -/

namespace Sys2Proof.Machine

/-! ## Writes by the access codes alone (R5, R6) -/

theorem testBit_ones_xor (w i : Nat) (hi : i < 32) : ((2 ^ 32 - 1) ^^^ w).testBit i = !w.testBit i := by
  rw [Nat.testBit_xor, Nat.testBit_two_pow_sub_one]
  simp [hi]

/-- What the events of this tick alone have set in a register. -/
def Chip.gotBits (c : Chip) (off : Nat) : Nat := ((c.edge off).getD (0, 0)).2.toNat

theorem Chip.writeBits_of_row {c : Chip} {off : Nat} {r : RegRow} (hr : regRow off = some r) (v : Nat) :
    c.writeBits off v = c.setReg off (((c.reg off &&& ((2 ^ 32 - 1) ^^^ r.rw)) ||| (v &&& r.rw))
      &&& ((2 ^ 32 - 1) ^^^ (v &&& r.w1c &&& ((2 ^ 32 - 1) ^^^ c.gotBits off)))) := by
  unfold Chip.writeBits Chip.gotBits
  rw [hr]
  cases c.edge off <;> rfl

/-- A write by the access codes, bit by bit: a W1C bit written as 1 clears unless an event of the tick set it, an RW bit takes
the value, any other bit stays. -/
theorem Chip.testBit_writeBits {c : Chip} {off : Nat} {r : RegRow} (hr : regRow off = some r) (v i : Nat) (hi : i < 32) :
    ((c.writeBits off v).reg off).testBit i
      = if v.testBit i && r.w1c.testBit i && !(c.gotBits off).testBit i then false
        else if r.rw.testBit i then v.testBit i else (c.reg off).testBit i := by
  rw [Chip.writeBits_of_row hr, Chip.reg_setReg_same, Nat.testBit_mod_two_pow]
  simp only [Nat.testBit_and, Nat.testBit_or, testBit_ones_xor _ _ hi, hi, decide_true, Bool.true_and]
  exact (by decide : ∀ v w g r x : Bool, ((x && !r || v && r) && !(v && w && !g))
    = if v && w && !g then false else if r then v else x) _ _ _ _ _

theorem Chip.reg_writeBits_ne (c : Chip) {off o : Nat} (v : Nat) (h : off ≠ o) : (c.writeBits off v).reg o = c.reg o := by
  unfold Chip.writeBits
  split
  · rfl
  · exact Chip.reg_setReg_ne _ _ _ _ h

/-- A register all of whose bits are RW takes the whole word. -/
theorem Chip.reg_writeBits_allRw {c : Chip} {off : Nat} {r : RegRow} (hr : regRow off = some r) (hrw : r.rw = 2 ^ 32 - 1)
    (hw1c : r.w1c = 0) {v : Nat} (hv : v < 2 ^ 32) : (c.writeBits off v).reg off = v := by
  refine Nat.eq_of_testBit_eq (fun i => ?_)
  by_cases hi : i < 32
  · rw [Chip.testBit_writeBits hr v i hi, hrw, hw1c, Nat.testBit_two_pow_sub_one]
    simp [hi]
  · have hle : 2 ^ 32 ≤ 2 ^ i := Nat.pow_le_pow_right (by decide) (Nat.le_of_not_lt hi)
    rw [Nat.testBit_lt_two_pow (Nat.lt_of_lt_of_le (Chip.reg_lt _ _) hle), Nat.testBit_lt_two_pow (Nat.lt_of_lt_of_le hv hle)]

/-! ## Words written to a memory and read back -/

theorem wordsBytes_length (ws : List Word) : (wordsBytes ws).length = 4 * ws.length := by
  induction ws with
  | nil => rfl
  | cons w t ih =>
    have hcons : wordsBytes (w :: t) = wordBytes w ++ wordsBytes t := rfl
    rw [hcons, List.length_append, ih, List.length_cons]
    simp only [wordBytes, List.length_cons, List.length_nil]
    omega

/-- The bytes of a word spell it. -/
theorem w32_leNat_wordBytes (w : Word) : w32 (leNat (wordBytes w)) = w := by
  refine BitVec.eq_of_toNat_eq ?_
  have hw := w.isLt
  simp only [w32, leNat, wordBytes, BitVec.toNat_ofNat]
  omega

theorem memWriteWords_cons (d : Byte) (a : Nat) (w : Word) (t : List Word) (m : List (Nat × Byte)) :
    memWriteWords d a (w :: t) m = memWriteWords d (a + 4) t (memWriteWords d a [w] m) := rfl

/-- A byte outside the words written is as before. -/
theorem memWriteWords_get_ne (d : Byte) (a j : Nat) (ws : List Word) (m : List (Nat × Byte))
    (h : j < a ∨ a + 4 * ws.length ≤ j) : tabGet (fun _ => d) (memWriteWords d a ws m) j = tabGet (fun _ => d) m j := by
  unfold memWriteWords
  rw [memWrite_get, wordsBytes_length, if_neg (by omega)]

theorem memWord_congr {d : Byte} {m m' : List (Nat × Byte)} {a : Nat}
    (h : ∀ i < 4, tabGet (fun _ => d) m' (a + i) = tabGet (fun _ => d) m (a + i)) : memWord d m' a = memWord d m a := by
  unfold memWord memBytes
  rw [List.map_congr_left (fun i hi => h i (List.mem_range.mp hi))]

theorem memWord_writeWords_same (d : Byte) (a : Nat) (w : Word) (m : List (Nat × Byte)) :
    memWord d (memWriteWords d a [w] m) a = w := by
  have hbytes : memBytes d (memWriteWords d a [w] m) a 4 = wordBytes w := by
    unfold memBytes memWriteWords
    simp only [List.range_succ, List.range_zero, List.nil_append, List.cons_append, List.map_cons, List.map_nil, memWrite_get,
      wordsBytes_length, List.length_cons, List.length_nil]
    simp [wordsBytes, wordBytes]
  unfold memWord
  rw [hbytes, w32_leNat_wordBytes]

/-- Words written to a memory read back. -/
theorem memWords_writeWords (d : Byte) (a : Nat) (ws : List Word) (m : List (Nat × Byte)) :
    memWords d (memWriteWords d a ws m) a ws.length = ws := by
  induction ws generalizing a m with
  | nil => rfl
  | cons w t ih =>
    have hhead : memWord d (memWriteWords d a (w :: t) m) a = w := by
      rw [memWriteWords_cons, memWord_congr (m := memWriteWords d a [w] m)
        (fun i hi => memWriteWords_get_ne d (a + 4) (a + i) t _ (Or.inl (by omega)))]
      exact memWord_writeWords_same d a w m
    have htail := ih (a + 4) (memWriteWords d a [w] m)
    unfold memWords at htail ⊢
    rw [List.length_cons, List.range_succ_eq_map, List.map_cons, List.map_map, Nat.mul_zero, Nat.add_zero, hhead]
    congr 1
    rw [memWriteWords_cons]
    refine Eq.trans (List.map_congr_left (fun i _ => ?_)) htail
    exact congrArg (memWord d _) (by simp only [Nat.succ_eq_add_one]; omega)

end Sys2Proof.Machine
end

section
/-! SUPPORT. REG_WRITE, CFG_WRITE and BUDGET_SET (R429, R466, R496). -/

namespace Sys2Proof.Machine

/-- A configuration write that is refused: no register and no memory changes. -/
theorem State.refused_keeps_mem {s : State} {t op : Nat} {ifc : Iface} {tag target : Word} {pl : List Word}
    {body : Chip → Intake → Chip × Answer} {o : OpInfo} {st dt : Nat} (ho : opInfo op = some o)
    (ht : s.chip.takes t op ifc tag target pl 0) (hw : ¬ (s.chip.role = 1 ∧ o.twin = true))
    (hb : ∀ k : Intake, k.payload = pl → k.target = target → k.org.ifc = ifc →
      body (s.chip.taken t op ifc tag target pl) k = (s.chip.taken t op ifc tag target pl, .now st dt [])) :
    ∃ s', s.command t op ifc tag target pl body = .next s' ∧ Done s t op ifc tag target pl st dt [] s'
      ∧ s.chip.regsSame s'.chip ∧ s'.chip.mem = s.chip.mem := by
  obtain ⟨s', hnext, hdone, hun⟩ := State.command_refused ho ht hw hb
  exact ⟨s', hnext, hdone, hun.regs, hun.mem⟩

/-! ## REG_WRITE -/

theorem opInfo_regWrite : opInfo 0x0105 = some ⟨0x0105, 3, 1026, 0, false, false, true⟩ := by decide
theorem opInfo_cfgWrite : opInfo 0x0206 = some ⟨0x0206, 3, 1026, 0, false, false, true⟩ := by decide
theorem opInfo_budgetSet : opInfo 0x0D02 = some ⟨0x0D02, 2, 2, 10, false, false, false⟩ := by decide

theorem Chip.regWrite_badOffset {c : Chip} {k : Intake} (h : wordAt k.payload 0 % 4 ≠ 0 ∨ 0x10000 ≤ wordAt k.payload 0) :
    c.regWrite k = (c, ansArg 0) := by
  unfold Chip.regWrite
  exact if_pos h

theorem Chip.regWrite_badCount {c : Chip} {k : Intake} (h : ¬ (wordAt k.payload 0 % 4 ≠ 0 ∨ 0x10000 ≤ wordAt k.payload 0))
    (hn : wordAt k.payload 1 = 0 ∨ 1024 < wordAt k.payload 1 ∨ 0x10000 < wordAt k.payload 0 + 4 * wordAt k.payload 1) :
    c.regWrite k = (c, ansArg 1) := by
  unfold Chip.regWrite
  exact (if_neg h).trans (if_pos hn)

theorem Chip.regWrite_writes {c : Chip} {k : Intake} (h : ¬ (wordAt k.payload 0 % 4 ≠ 0 ∨ 0x10000 ≤ wordAt k.payload 0))
    (hn : ¬ (wordAt k.payload 1 = 0 ∨ 1024 < wordAt k.payload 1 ∨ 0x10000 < wordAt k.payload 0 + 4 * wordAt k.payload 1)) :
    c.regWrite k = (c.writeRegs k.org.ifc (wordAt k.payload 0) ((k.payload.drop 2).take (wordAt k.payload 1)), ansOK) := by
  unfold Chip.regWrite
  exact (if_neg h).trans (if_neg hn)

/-! ## CFG_WRITE -/

/-- Every window starts at a multiple of 4, so that an address and its offset are aligned together. -/
theorem winAt_mod_four {a : Nat} {w : Nat × Nat × Nat} (h : winAt a = some w) : w.2.1 % 4 = a % 4 := by
  unfold winAt at h
  obtain ⟨x, hx, rfl⟩ := Option.map_eq_some_iff.mp h
  have hin := List.find?_some hx
  rw [decide_eq_true_eq] at hin
  have hal : x.2.1 % 4 = 0 := (by decide : ∀ x ∈ winTable, x.2.1 % 4 = 0) x (List.mem_of_find?_eq_some hx)
  dsimp only
  omega

theorem Chip.cfgWrite_badAddress {c : Chip} {k : Intake} (h : winAt (wordAt k.payload 0) = none ∨ wordAt k.payload 0 % 4 ≠ 0) :
    c.cfgWrite k = (c, ansArg 0) := by
  unfold Chip.cfgWrite
  dsimp only
  split
  · rfl
  · next w hw =>
    have hmis : wordAt k.payload 0 % 4 ≠ 0 := h.resolve_left (by rw [hw]; exact Option.some_ne_none w)
    exact if_pos (by rw [winAt_mod_four hw]; exact hmis)

/-- CFG_WRITE's answer: OK, or WRONG_STATE with the index of the first word ignored. -/
def cfgAnswer : Option Nat → Answer
  | none => ansOK
  | some i => .now stWRONG_STATE i []

section InWindow
variable {c : Chip} {k : Intake} {w : Nat × Nat × Nat}

theorem Chip.cfgWrite_badCount (hw : winAt (wordAt k.payload 0) = some w) (ha : w.2.1 % 4 = 0)
    (hn : wordAt k.payload 1 = 0 ∨ 1024 < wordAt k.payload 1 ∨ w.2.2 < w.2.1 + 4 * wordAt k.payload 1) :
    c.cfgWrite k = (c, ansArg 1) := by
  unfold Chip.cfgWrite
  simp only [hw]
  rw [if_neg (not_not_intro ha), if_pos hn]

theorem Chip.cfgWrite_busy (hw : winAt (wordAt k.payload 0) = some w) (ha : w.2.1 % 4 = 0)
    (hn : ¬ (wordAt k.payload 1 = 0 ∨ 1024 < wordAt k.payload 1 ∨ w.2.2 < w.2.1 + 4 * wordAt k.payload 1))
    (hg : c.hst.stage.running = true) : c.cfgWrite k = (c, ansBusy) := by
  unfold Chip.cfgWrite
  simp only [hw]
  rw [if_neg (not_not_intro ha), if_neg hn, if_pos hg]

theorem Chip.cfgWrite_words (hw : winAt (wordAt k.payload 0) = some w) (ha : w.2.1 % 4 = 0)
    (hn : ¬ (wordAt k.payload 1 = 0 ∨ 1024 < wordAt k.payload 1 ∨ w.2.2 < w.2.1 + 4 * wordAt k.payload 1))
    (hg : c.hst.stage.running = false) :
    c.cfgWrite k = ((c.winWrites w.1 w.2.1 0 ((k.payload.drop 2).take (wordAt k.payload 1))).1,
      cfgAnswer (c.winWrites w.1 w.2.1 0 ((k.payload.drop 2).take (wordAt k.payload 1))).2) := by
  unfold Chip.cfgWrite
  simp only [hw]
  rw [if_neg (not_not_intro ha), if_neg hn, if_neg (by rw [hg]; decide)]
  generalize c.winWrites w.1 w.2.1 0 ((k.payload.drop 2).take (wordAt k.payload 1)) = q
  obtain ⟨d, r⟩ := q
  cases r <;> rfl

end InWindow

/-- In DRY the words of bank memory are written in order. -/
theorem Chip.winWrites_bank (c : Chip) (h : c.opState = 0) (off i : Nat) (ws : List Word) :
    c.winWrites 1 off i ws = (c.setWin 1 (memWriteWords 0 (off + 4 * i) ws c.mem.bank), none) := by
  induction ws generalizing c i with
  | nil => rfl
  | cons w t ih =>
    have hword : c.winWordWrite 1 (off + 4 * i) w.toNat
        = (c.setWin 1 (memWriteWords 0 (off + 4 * i) [w] c.mem.bank), true) := by
      have hw : w32 w.toNat = w := BitVec.eq_of_toNat_eq (Nat.mod_eq_of_lt w.isLt)
      refine (if_pos h).trans ?_
      rw [hw]
      rfl
    have htail := ih (c.setWin 1 (memWriteWords 0 (off + 4 * i) [w] c.mem.bank)) h (i + 1)
    unfold Chip.winWrites
    rw [hword]
    dsimp only
    rw [htail, memWriteWords_cons _ _ w t]
    rfl

/-- The CFG_REJ flag of a window's owner. -/
def cfgRej (which : Nat) : Fld :=
  if which = 1 then LCK_STATUS__CFG_REJ else if which = 2 then SLU_STATUS__CFG_REJ
  else if which = 3 then BSN_STATUS__CFG_REJ else TOW_STATUS__CFG_REJ

/-- A window that CFG_WRITE may not write: the Sluice, planner and Towpath windows, and bank memory outside DRY. -/
def Chip.winClosed (c : Chip) (which : Nat) : Prop := 2 ≤ which ∨ (which = 1 ∧ c.opState ≠ 0)

theorem Chip.winWordWrite_closed {c : Chip} {which : Nat} (h : c.winClosed which) (off v : Nat) :
    c.winWordWrite which off v = (c.raise (cfgRej which), false) := by
  unfold Chip.winWordWrite
  rcases h with hge | ⟨rfl, hst⟩
  · split
    · omega
    · omega
    · rfl
    · rfl
    · next h2 h3 => rw [cfgRej, if_neg (by omega), if_neg (fun e => h2 e), if_neg (fun e => h3 e)]
  · exact if_neg hst

/-- A choice between two members of a list is a member of it. -/
theorem choice_mem {α : Type} {p : Prop} [Decidable p] {a b : α} {l : List α} (ha : a ∈ l) (hb : b ∈ l) :
    (if p then a else b) ∈ l := by
  split
  · exact ha
  · exact hb

/-- The flags CFG_REJ of the four owners. -/
def cfgRejs : List Fld := [LCK_STATUS__CFG_REJ, SLU_STATUS__CFG_REJ, BSN_STATUS__CFG_REJ, TOW_STATUS__CFG_REJ]

theorem cfgRej_mem (which : Nat) : cfgRej which ∈ cfgRejs :=
  choice_mem (by decide) (choice_mem (by decide) (choice_mem (by decide) (by decide)))

theorem cfgRej_ok (which : Nat) : (cfgRej which).ok :=
  (by unfold Fld.ok; decide : ∀ x ∈ cfgRejs, x.ok) _ (cfgRej_mem which)

theorem cfgRej_width (which : Nat) : (cfgRej which).width = 1 :=
  (by decide : ∀ x ∈ cfgRejs, x.width = 1) _ (cfgRej_mem which)

theorem cfgRej_off (which : Nat) : (cfgRej which).off ∈ [LCK_STATUS, SLU_STATUS, BSN_STATUS, TOW_STATUS] :=
  (by decide : ∀ x ∈ cfgRejs, x.off ∈ [LCK_STATUS, SLU_STATUS, BSN_STATUS, TOW_STATUS]) _ (cfgRej_mem which)

theorem Chip.flag_raise (c : Chip) {x : Fld} (hx : x.ok) (hw : x.width = 1) : (c.raise x).flag x = true := by
  unfold Chip.flag Chip.raise
  rw [Chip.fld_setFld _ _ _ hx, hw]
  rfl

theorem Chip.reg_raise_ne (c : Chip) {x : Fld} {o : Nat} (h : x.off ≠ o) : (c.raise x).reg o = c.reg o :=
  Chip.reg_setFld_ne _ _ _ _ h

theorem Chip.taken_dryOrMoored (c : Chip) (t op : Nat) (ifc : Iface) (tag target : Word) (pl : List Word) :
    (c.taken t op ifc tag target pl).dryOrMoored = c.dryOrMoored := by
  unfold Chip.dryOrMoored
  rw [Chip.taken_opState]

/-- A CFG_REJ opens no window. -/
theorem Chip.winClosed_raise {c : Chip} {which : Nat} (h : c.winClosed which) : (c.raise (cfgRej which)).winClosed which := by
  refine h.imp_right (fun ⟨hone, hst⟩ => ⟨hone, ?_⟩)
  have hne : (cfgRej which).off ≠ SYS_STATE := fun e =>
    absurd (e ▸ cfgRej_off which) (by decide)
  unfold Chip.opState Chip.fld
  rw [Chip.reg_raise_ne _ hne]
  exact hst

/-- Words offered to a closed window: none is written, and only the owner's CFG_REJ changes, which stays set. -/
theorem Chip.winWrites_closed {c : Chip} {which : Nat} (h : c.winClosed which) (off i : Nat) (ws : List Word) :
    (c.winWrites which off i ws).1.mem = c.mem
      ∧ (∀ o, o ≠ (cfgRej which).off → (c.winWrites which off i ws).1.reg o = c.reg o)
      ∧ ((c.flag (cfgRej which) = true ∨ ws ≠ []) → (c.winWrites which off i ws).1.flag (cfgRej which) = true)
      ∧ (ws ≠ [] → (c.winWrites which off i ws).2 = some i) := by
  induction ws generalizing c i with
  | nil => exact ⟨rfl, fun _ _ => rfl, fun hf => hf.resolve_right (fun hne => hne rfl), fun hne => absurd rfl hne⟩
  | cons w t ih =>
    obtain ⟨hmem, hreg, hflag, -⟩ := ih (Chip.winClosed_raise h) (i + 1)
    unfold Chip.winWrites
    rw [Chip.winWordWrite_closed h]
    refine ⟨hmem, fun o ho => (hreg o ho).trans (Chip.reg_raise_ne c (fun e => ho e.symm)), fun _ => ?_, fun _ => rfl⟩
    exact hflag (Or.inl (Chip.flag_raise c (cfgRej_ok which) (cfgRej_width which)))

/-- One word of the Lock engine window outside the bank pointers, in DRY or MOORED. -/
theorem Chip.winWrites_lock_open {c : Chip} (h : c.dryOrMoored = true) {off : Nat} (ho : ¬ (0x1000 ≤ off ∧ off < 0x1800))
    (w : Word) : c.winWrites 0 off 0 [w] = (c.setLckW off (w.toNat &&& lckMask off), none) := by
  unfold Chip.winWrites Chip.winWordWrite Chip.lckWindowWrite
  simp only [Nat.mul_zero, Nat.add_zero]
  rw [if_neg ho, if_pos h]
  rfl

/-- The same word in any other operating state. -/
theorem Chip.winWrites_lock_shut {c : Chip} (h : c.dryOrMoored = false) {off : Nat} (ho : ¬ (0x1000 ≤ off ∧ off < 0x1800))
    (w : Word) : c.winWrites 0 off 0 [w] = (c.raise LCK_STATUS__CFG_REJ, some 0) := by
  unfold Chip.winWrites Chip.winWordWrite Chip.lckWindowWrite
  simp only [Nat.mul_zero, Nat.add_zero]
  rw [if_neg ho, if_neg (by rw [h]; decide)]
  rfl

/-- A configuration write's payload: address, count and as many words as the count says. -/
theorem Chip.cfgWrite_length {c : Chip} {t : Nat} {ifc : Iface} {tag target : Word} {pl : List Word} {n : Nat}
    (h : c.takes t 0x0206 ifc tag target pl n) : pl.length = 2 + wordAt pl 1 := by
  obtain ⟨⟨-, hlen, -⟩, -⟩ := h
  unfold lenOk at hlen
  rw [opInfo_cfgWrite] at hlen
  simp only [Bool.and_eq_true, beq_iff_eq] at hlen
  exact hlen.2

theorem cfgWrite_data_length {pl : List Word} (h : pl.length = 2 + wordAt pl 1) :
    ((pl.drop 2).take (wordAt pl 1)).length = wordAt pl 1 := by
  rw [List.length_take, List.length_drop]
  omega

theorem cfgWrite_data_single {pl : List Word} (h : pl.length = 2 + wordAt pl 1) (h1 : wordAt pl 1 = 1) :
    (pl.drop 2).take (wordAt pl 1) = [pl.getD 2 0] := by
  have hlen : 2 < pl.length := by omega
  rw [h1, List.drop_eq_getElem_cons hlen, List.take_succ_cons, List.take_zero, List.getD_eq_getElem?_getD,
    List.getElem?_eq_getElem hlen, Option.getD_some]

/-- CFG_WRITE of words within a window, while no image is checked and in a role that writes at once. -/
theorem State.cfgWrite_done {s : State} {t : Nat} {ifc : Iface} {tag target : Word} {pl : List Word} {w : Nat × Nat × Nat}
    {st i : Nat} (ht : s.chip.takes t 0x0206 ifc tag target pl 0) (hrole : s.chip.role = 0) (hw : winAt (wordAt pl 0) = some w)
    (ha : w.2.1 % 4 = 0) (hn : ¬ (wordAt pl 1 = 0 ∨ 1024 < wordAt pl 1 ∨ w.2.2 < w.2.1 + 4 * wordAt pl 1))
    (hrun : s.chip.hst.stage.running = false)
    (hans : cfgAnswer ((s.chip.taken t 0x0206 ifc tag target pl).winWrites w.1 w.2.1 0 ((pl.drop 2).take (wordAt pl 1))).2
      = .now st i []) :
    ∃ s', exec (.cfgWrite t ifc tag target pl) s = .next s' ∧ Done s t 0x0206 ifc tag target pl st i [] s'
      ∧ AfterReply ((s.chip.taken t 0x0206 ifc tag target pl).winWrites w.1 w.2.1 0 ((pl.drop 2).take (wordAt pl 1))).1
        s'.chip := by
  refine State.command_done (rpl := []) opInfo_cfgWrite ht (by omega) ?_
    (((Chip.winWrites_keeps ..).now rfl).trans (Chip.takes_now ht))
  rintro k rfl - -
  rw [Chip.cfgWrite_words hw ha hn (by rw [Chip.taken_stage]; exact hrun), hans]

/-! ## BUDGET_SET -/

theorem Chip.budgetSet_badTb {c : Chip} {k : Intake} (h : lkpWrite (LKP_CLS_TB k.target.toNat) (wordAt k.payload 0) = none) :
    c.budgetSet k = (c, ansArg 0) := by
  unfold Chip.budgetSet
  exact if_pos h

theorem Chip.budgetSet_badEb {c : Chip} {k : Intake} (h : lkpWrite (LKP_CLS_TB k.target.toNat) (wordAt k.payload 0) ≠ none)
    (he : lkpWrite (LKP_CLS_EB k.target.toNat) (wordAt k.payload 1) = none) : c.budgetSet k = (c, ansArg 1) := by
  unfold Chip.budgetSet
  exact (if_neg h).trans (if_pos he)

/-- TB and EB of a class written by their access codes. -/
def Chip.budgetPair (c : Chip) (i tb eb : Nat) : Chip := (c.writeBits (LKP_CLS_TB i) tb).writeBits (LKP_CLS_EB i) eb

theorem Chip.budgetPair_keeps (c : Chip) (i tb eb : Nat) : Keeps 4 c (c.budgetPair i tb eb) :=
  (Chip.writeBits_keeps ..).trans (Chip.writeBits_keeps ..) rfl

theorem Chip.budgetSet_both {c : Chip} {k : Intake} (h : lkpWrite (LKP_CLS_TB k.target.toNat) (wordAt k.payload 0) ≠ none)
    (he : lkpWrite (LKP_CLS_EB k.target.toNat) (wordAt k.payload 1) ≠ none) :
    c.budgetSet k = (c.budgetPair k.target.toNat (wordAt k.payload 0) (wordAt k.payload 1), ansOK) := by
  unfold Chip.budgetSet
  exact (if_neg h).trans (if_neg he)

/-- The budget registers of the ten classes are RW throughout. -/
theorem regRow_budget (i : Fin 10) : (regRow (LKP_CLS_TB i.val)).any (fun r => r.rw == 2 ^ 32 - 1 && r.w1c == 0) = true
    ∧ (regRow (LKP_CLS_EB i.val)).any (fun r => r.rw == 2 ^ 32 - 1 && r.w1c == 0) = true := by
  revert i
  decide +kernel

theorem Chip.reg_writeBits_of_any {c : Chip} {off v : Nat}
    (h : (regRow off).any (fun r => r.rw == 2 ^ 32 - 1 && r.w1c == 0) = true) (hv : v < 2 ^ 32) :
    (c.writeBits off v).reg off = v := by
  obtain ⟨r, hr, hbits⟩ := Option.any_eq_true _ _ |>.mp h
  simp only [Bool.and_eq_true, beq_iff_eq] at hbits
  exact Chip.reg_writeBits_allRw hr hbits.1 hbits.2 hv

theorem Chip.budgetPair_tb (c : Chip) (i : Fin 10) {tb : Nat} (eb : Nat) (h : tb < 2 ^ 32) :
    (c.budgetPair i.val tb eb).reg (LKP_CLS_TB i.val) = tb := by
  have hne : LKP_CLS_EB i.val ≠ LKP_CLS_TB i.val := by unfold LKP_CLS_EB LKP_CLS_TB; omega
  unfold Chip.budgetPair
  rw [Chip.reg_writeBits_ne _ _ hne, Chip.reg_writeBits_of_any (regRow_budget i).1 h]

theorem Chip.budgetPair_eb (c : Chip) (i : Fin 10) (tb : Nat) {eb : Nat} (h : eb < 2 ^ 32) :
    (c.budgetPair i.val tb eb).reg (LKP_CLS_EB i.val) = eb := Chip.reg_writeBits_of_any (regRow_budget i).2 h

theorem Chip.budgetPair_reg_ne (c : Chip) {i tb eb o : Nat} (h : o ∉ [LKP_CLS_TB i, LKP_CLS_EB i]) :
    (c.budgetPair i tb eb).reg o = c.reg o := by
  simp only [List.mem_cons, List.not_mem_nil, or_false, not_or] at h
  exact (Chip.reg_writeBits_ne _ _ (Ne.symm h.2)).trans (Chip.reg_writeBits_ne _ _ (Ne.symm h.1))

/-- The TARGET of a BUDGET_SET that passes the checks is a class. -/
theorem Chip.budgetSet_class {c : Chip} {t n : Nat} {ifc : Iface} {tag target : Word} {pl : List Word}
    (h : c.takes t 0x0D02 ifc tag target pl n) : target.toNat < 10 := by
  obtain ⟨⟨-, -, hacc⟩, -⟩ := h
  rw [opInfo_budgetSet] at hacc
  exact hacc.2

/-- Settles O34: each command's own rules answer on the device as its command was taken, and its reply touches neither register
nor memory. -/
theorem configurationWritesFollowTheirOwners : Obligations.ConfigurationWritesFollowTheirOwners := by
  intro s t ifc tag target pl
  refine ⟨fun ht hrole hoff => ?regOff, fun ht hrole hoff hn => ?regCount, fun ht hrole hoff hn => ?regWrite,
    fun ht hrole haddr => ?cfgAddr, fun ht hrole w hw ha hn => ?cfgCount, fun ht hrole w hw ha hlo hhi hfit hrun => ?cfgBusy,
    fun ht hrole w hw ha hlo hhi hfit hrun hwin hst => ?bank, fun ht hrole w hw ha hlo hhi hfit hrun hclosed => ?closed,
    fun ht hrole w hw ha hlo hhi hfit hrun hwin hone hptr hst => ?lockOpen,
    fun ht hrole w hw ha hlo hhi hfit hrun hwin hone hptr hst => ?lockShut,
    fun ht htb => ?budgetTb, fun ht htb heb => ?budgetEb, fun ht htb heb => ?budget⟩
  case regOff =>
    exact State.refused_keeps_mem opInfo_regWrite ht (by omega) (by rintro k rfl - -; exact Chip.regWrite_badOffset hoff)
  case regCount =>
    exact State.refused_keeps_mem opInfo_regWrite ht (by omega) (by rintro k rfl - -; exact Chip.regWrite_badCount hoff hn)
  case regWrite =>
    have hbody : ∀ k : Intake, k.payload = pl → k.target = target → k.org.ifc = ifc →
        (s.chip.taken t 0x0105 ifc tag target pl).regWrite k = ((s.chip.taken t 0x0105 ifc tag target pl).writeRegs ifc
          (wordAt pl 0) ((pl.drop 2).take (wordAt pl 1)), .now stOK 0 []) := by
      rintro k rfl - rfl
      exact Chip.regWrite_writes hoff hn
    obtain ⟨s', hnext, hdone, hafter⟩ := State.command_done (rpl := []) opInfo_regWrite ht (by omega) hbody
      (((Chip.writeRegs_keeps ..).now rfl).trans (Chip.takes_now ht))
    exact ⟨s', hnext, hdone, hafter.keeps.regs rfl⟩
  case cfgAddr =>
    exact State.refused_keeps_mem opInfo_cfgWrite ht (by omega) (by rintro k rfl - -; exact Chip.cfgWrite_badAddress haddr)
  case cfgCount =>
    exact State.refused_keeps_mem opInfo_cfgWrite ht (by omega) (by rintro k rfl - -; exact Chip.cfgWrite_badCount hw ha hn)
  case cfgBusy =>
    exact State.refused_keeps_mem opInfo_cfgWrite ht (by omega)
      (by rintro k rfl - -; exact Chip.cfgWrite_busy hw ha (by omega) (by rw [Chip.taken_stage]; exact hrun))
  case bank =>
    have hbank := Chip.winWrites_bank (s.chip.taken t 0x0206 ifc tag target pl) ((Chip.taken_opState ..).trans hst)
      w.2.1 0 ((pl.drop 2).take (wordAt pl 1))
    have hlen := cfgWrite_data_length (Chip.cfgWrite_length ht)
    obtain ⟨s', hnext, hdone, hafter⟩ := State.cfgWrite_done ht hrole hw ha (by omega) hrun (by rw [hwin, hbank]; rfl)
    have hmem : s'.chip.mem = { s.chip.mem with
        bank := memWriteWords 0 w.2.1 ((pl.drop 2).take (wordAt pl 1)) s.chip.mem.bank } := by
      rw [hafter.keeps.mem rfl, hwin, hbank, ← Chip.taken_mem s.chip t 0x0206 ifc tag target pl]
      rfl
    have hread := memWords_writeWords 0 w.2.1 ((pl.drop 2).take (wordAt pl 1)) s.chip.mem.bank
    rw [hlen] at hread
    refine ⟨s', hnext, hdone, ?_, ?_, fun b hb => ?_, ?_⟩
    · rw [hwin, hbank] at hafter
      exact (hafter.keeps.regs rfl).trans (Chip.taken_regs ..)
    · rw [hmem]
      exact hread
    · rw [hmem]
      exact memWriteWords_get_ne 0 w.2.1 b _ _ (by rw [hlen]; exact hb)
    · rw [hmem]
  case closed =>
    have hlen := cfgWrite_data_length (Chip.cfgWrite_length ht)
    have hne : (pl.drop 2).take (wordAt pl 1) ≠ [] := List.ne_nil_of_length_pos (by omega)
    have hopen : (s.chip.taken t 0x0206 ifc tag target pl).winClosed w.1 :=
      hclosed.imp_right (fun ⟨h1, h2⟩ => ⟨h1, by rw [Chip.taken_opState]; exact h2⟩)
    obtain ⟨hmem, hreg, hflag, hidx⟩ := Chip.winWrites_closed hopen w.2.1 0 ((pl.drop 2).take (wordAt pl 1))
    obtain ⟨s', hnext, hdone, hafter⟩ := State.cfgWrite_done ht hrole hw ha (by omega) hrun (by rw [hidx hne]; rfl)
    refine ⟨s', hnext, hdone, ?_, ?_, fun o ho => ?_⟩
    · rw [hafter.keeps.mem rfl, hmem, Chip.taken_mem]
    · exact (Chip.flag_congr (hafter.keeps.regs rfl) _).trans (hflag (Or.inr hne))
    · have hoff : o ≠ (cfgRej w.1).off := fun e => ho (e ▸ cfgRej_off w.1)
      rw [Chip.reg_congr (hafter.keeps.regs rfl), hreg o hoff, Chip.reg_congr (Chip.taken_regs ..)]
  case lockOpen =>
    have hwords := Chip.winWrites_lock_open (c := s.chip.taken t 0x0206 ifc tag target pl)
      ((Chip.taken_dryOrMoored ..).trans hst) hptr (pl.getD 2 0)
    rw [← cfgWrite_data_single (Chip.cfgWrite_length ht) hone] at hwords
    obtain ⟨s', hnext, hdone, hafter⟩ := State.cfgWrite_done ht hrole hw ha (by omega) hrun (by rw [hwin, hwords]; rfl)
    rw [hwin, hwords] at hafter
    have hmem : s'.chip.mem = { s.chip.mem with
        lck := memWriteWords 0 w.2.1 [w32 (wordAt pl 2 &&& lckMask w.2.1)] s.chip.mem.lck } := by
      rw [hafter.keeps.mem rfl, ← Chip.taken_mem s.chip t 0x0206 ifc tag target pl]
      rfl
    refine ⟨s', hnext, hdone, (hafter.keeps.regs rfl).trans (Chip.taken_regs ..), ?_, fun b hb => ?_, ?_⟩
    · have hlt : wordAt pl 2 &&& lckMask w.2.1 < 2 ^ 32 := Nat.lt_of_le_of_lt Nat.and_le_left (wordAt_lt pl 2)
      rw [Chip.lckW, hmem, memWord_writeWords_same]
      exact Nat.mod_eq_of_lt hlt
    · rw [hmem]
      exact memWriteWords_get_ne 0 w.2.1 b _ _ hb
    · rw [hmem]
  case lockShut =>
    have hwords := Chip.winWrites_lock_shut (c := s.chip.taken t 0x0206 ifc tag target pl)
      ((Chip.taken_dryOrMoored ..).trans hst) hptr (pl.getD 2 0)
    rw [← cfgWrite_data_single (Chip.cfgWrite_length ht) hone] at hwords
    obtain ⟨s', hnext, hdone, hafter⟩ := State.cfgWrite_done ht hrole hw ha (by omega) hrun (by rw [hwin, hwords]; rfl)
    rw [hwin, hwords] at hafter
    refine ⟨s', hnext, hdone, (hafter.keeps.mem rfl).trans (Chip.taken_mem ..), ?_, fun o ho => ?_⟩
    · exact (Chip.flag_congr (hafter.keeps.regs rfl) _).trans (Chip.flag_raise _ ⟨by decide, by decide⟩ rfl)
    · have hoff : LCK_STATUS ≠ o := fun e => ho (List.mem_singleton.mpr e.symm)
      rw [Chip.reg_congr (hafter.keeps.regs rfl), Chip.reg_raise_ne _ hoff, Chip.reg_congr (Chip.taken_regs ..)]
  case budgetTb =>
    exact State.refused_keeps_mem opInfo_budgetSet ht (by simp) (by rintro k rfl rfl -; exact Chip.budgetSet_badTb htb)
  case budgetEb =>
    exact State.refused_keeps_mem opInfo_budgetSet ht (by simp) (by rintro k rfl rfl -; exact Chip.budgetSet_badEb htb heb)
  case budget =>
    have hbody : ∀ k : Intake, k.payload = pl → k.target = target → k.org.ifc = ifc →
        (s.chip.taken t 0x0D02 ifc tag target pl).budgetSet k
          = ((s.chip.taken t 0x0D02 ifc tag target pl).budgetPair target.toNat (wordAt pl 0) (wordAt pl 1), .now stOK 0 []) := by
      rintro k rfl rfl -
      exact Chip.budgetSet_both htb heb
    obtain ⟨s', hnext, hdone, hafter⟩ := State.command_done (rpl := []) opInfo_budgetSet ht (by simp) hbody
      (((Chip.budgetPair_keeps ..).now rfl).trans (Chip.takes_now ht))
    have hreg := fun o => Chip.reg_congr (hafter.keeps.regs rfl) o
    have hclass := Chip.budgetSet_class ht
    refine ⟨s', hnext, hdone, ?_, ?_, fun o ho => ?_⟩
    · exact (hreg _).trans (Chip.budgetPair_tb _ ⟨_, hclass⟩ _ (wordAt_lt ..))
    · exact (hreg _).trans (Chip.budgetPair_eb _ ⟨_, hclass⟩ _ (wordAt_lt ..))
    · rw [hreg, Chip.budgetPair_reg_ne _ ho, Chip.reg_congr (Chip.taken_regs ..)]

end Sys2Proof.Machine
end

section
/-! SUPPORT. The register windows of PCIe: a BAR0 write the access codes alone govern, the accesses BAR0 and BAR2 refuse, a BAR2
read, and the fast status page (R463, R467, R480). -/

namespace Sys2Proof.Machine

/-! ## BAR0 writes (R463) -/

/-- A word written to a register that neither a Lading FIFO nor another owner has a rule for. -/
theorem Chip.writeReg_codes {c : Chip} {i : Iface} {off v : Nat} {r : RegRow} (hmsix : ¬ (0x200 ≤ off ∧ off < 0x400))
    (hring : ¬ (0x1000 ≤ off ∧ off < 0x5000)) (hr : regRow off = some r)
    (hlad : LadId.all.find? (fun l => l.ctl == off) = none) (hown : c.ownerWrite i off v = none) :
    c.writeReg i off v = c.writeBits off v := by
  have hladw : c.ladWrite off v = none := by unfold Chip.ladWrite; rw [hlad]
  unfold Chip.writeReg
  rw [if_neg (by omega), if_neg (by omega), if_neg hmsix, hr, hladw, hown]
  rfl

theorem Chip.flag_raise_apart (c : Chip) {x y : Fld} (hx : x.ok) (h : x.off ≠ y.off) : (c.raise x).flag y = c.flag y := by
  unfold Chip.flag Chip.raise
  rw [Chip.fld_setFld_apart _ _ _ _ hx (Or.inl h)]

/-- A status bit of HST_STATUS and its interrupt: the status bit is set, the interrupt bit where the status bit became set, and
no other register changes (R481). -/
theorem Chip.hstErr_spec (c : Chip) {x i : Fld} (hx : x.ok) (hi : i.ok) (hxw : x.width = 1) (hiw : i.width = 1)
    (hne : x.off ≠ i.off) :
    (c.hstErr x i).flag x = true ∧ (c.hstErr x i).flag i = (!c.flag x || c.flag i)
      ∧ ∀ o, o ∉ [x.off, i.off] → (c.hstErr x i).reg o = c.reg o := by
  unfold Chip.hstErr
  split
  · next hset =>
    refine ⟨Chip.flag_raise c hx hxw, ?_, fun o ho => Chip.reg_raise_ne c (fun e => ho (by simp [← e]))⟩
    rw [Chip.flag_raise_apart c hx hne, hset]
    rfl
  · next hclear =>
    refine ⟨?_, ?_, fun o ho => ?_⟩
    · rw [Chip.flag_raise_apart _ hi hne.symm, Chip.flag_raise c hx hxw]
    · rw [Chip.flag_raise _ hi hiw, Bool.of_not_eq_true hclear]
      rfl
    · rw [Chip.reg_raise_ne _ (fun e => ho (by simp [← e])), Chip.reg_raise_ne _ (fun e => ho (by simp [← e]))]

/-- ACC_ERR of an access that is not served. -/
theorem Chip.accErr_spec (c : Chip) : c.accErr.flag HST_STATUS__ACC_ERR = true
    ∧ c.accErr.flag HST_INT_STATUS__ACC_ERR = (!c.flag HST_STATUS__ACC_ERR || c.flag HST_INT_STATUS__ACC_ERR)
    ∧ ∀ o, o ∉ [HST_STATUS, HST_INT_STATUS] → c.accErr.reg o = c.reg o :=
  Chip.hstErr_spec c ⟨by decide, by decide⟩ ⟨by decide, by decide⟩ rfl rfl (by decide)

/-! ## BAR2 reads (R467) -/

/-- A read of `n` DWs free of errors: the words leave in order and nothing else happens. -/
theorem Chip.bar2_read (c : Chip) (off n : Nat) : c.bar2 off false n []
    = { c with out := c.out ++ (List.range n).map (fun i => .read .pcie (c.bar2Word (off + 4 * i))) } := by
  unfold Chip.bar2
  rw [if_neg Bool.false_ne_true]
  generalize List.range n = l
  induction l generalizing c with
  | nil => rw [List.map_nil, List.append_nil]; rfl
  | cons i l ih =>
    refine (ih (c.emit (.read .pcie (c.bar2Word (off + 4 * i))))).trans ?_
    rw [List.map_cons, List.append_cons]
    rfl

/-! ## The fast status page (R480) -/

/-- A run of records put into a table, each under its own key: what a key reads as. -/
theorem tabGet_foldl_zipIdx {α : Type} [DecidableEq α] {d : Nat → α} (key : Nat → Nat) (hinj : ∀ i j, key i = key j → i = j)
    (l : List α) (n j : Nat) (m : List (Nat × α)) (z : α) :
    tabGet d ((l.zipIdx n).foldl (fun m e => tabPut d (key e.2) e.1 m) m) (key j)
      = if n ≤ j ∧ j < n + l.length then l.getD (j - n) z else tabGet d m (key j) := by
  induction l generalizing n m with
  | nil => rw [if_neg (by simp only [List.length_nil]; omega)]; rfl
  | cons x l ih =>
    rw [List.zipIdx_cons, List.foldl_cons, ih, tabGet_put, List.length_cons]
    by_cases h : n = j
    · subst h
      rw [if_neg (by omega), if_pos rfl, if_pos (by omega), Nat.sub_self, List.getD_cons_zero]
    · rw [if_neg (fun e => h (hinj _ _ e))]
      by_cases hin : n + 1 ≤ j ∧ j < n + 1 + l.length
      · obtain ⟨r, hr⟩ : ∃ r, j = n + r + 1 := ⟨j - n - 1, by omega⟩
        rw [if_pos hin, if_pos (by omega), hr, show n + r + 1 - n = r + 1 by omega, List.getD_cons_succ,
          show n + r + 1 - (n + 1) = r by omega]
      · rw [if_neg hin, if_neg (by omega)]

theorem Chip.fastWords_length (c : Chip) : c.fastWords.length = 13 := rfl

/-- Word `i` of the page after an update: FAST_SEQ first, then the words of the tick. -/
theorem Chip.fastUpdate_word (c : Chip) (i : Nat) (hi : i < 14) :
    tabGet (fun _ => (0 : Word)) c.fastUpdate.hst.fast (0x480 + 4 * i)
      = (w32 ((tabGet (fun _ => 0) c.hst.fast 0x480).toNat + 1) :: c.fastWords).getD i 0 := by
  unfold Chip.fastUpdate
  dsimp only
  have hword := tabGet_foldl_zipIdx (d := fun _ => (0 : Word)) (fun i => 0x480 + 4 * i) (fun i j h => by omega)
    (w32 ((tabGet (fun _ => 0) c.hst.fast 0x480).toNat + 1) :: c.fastWords) 0 i c.hst.fast 0
  rw [List.length_cons, Chip.fastWords_length, if_pos (by omega), Nat.sub_zero] at hword
  exact hword

@[simp] theorem Chip.settle_fast (c : Chip) : c.settle.hst.fast = c.hst.fast := by
  have h := Chip.settle_hst_main c
  simp only [Hst.main, Prod.mk.injEq] at h
  obtain ⟨-, -, -, -, -, -, -, -, -, -, -, -, -, -, -, -, -, h, -⟩ := h
  exact h

/-- Settles O18: a served access runs its operation at its tick, and each operation is read off by its own rule. -/
theorem bar0TakesWholeWordsAndBar2OnlyReads : Obligations.Bar0TakesWholeWordsAndBar2OnlyReads := by
  intro s t hr
  refine ⟨fun off v hal _ hmsix hring r hrow hlad hown hs => ?codes, fun off vs hsize hs => ?size, fun off ndw ue hs => ?bar2Write,
    fun off ndw hs => ?bar2Read, fun hle => ?fast⟩
  case codes =>
    have hsize : bar0SizeOk off [v].length = true := by simp [bar0SizeOk, hal]
    have hwrite : (s.chip.at t).writeRegs .pcie off [v] = (s.chip.at t).writeBits off v.toNat :=
      Chip.writeReg_codes hmsix hring hrow hlad hown
    refine ⟨_, State.access_next hr hs, ?_, fun i hi => ?_, Chip.regsBut_settle (fun o ho => ?_)⟩
    · rw [if_pos hsize, hwrite]
      exact (Chip.settle_now _).trans (((Chip.writeBits_keeps ..).now rfl).trans (Chip.at_now_ready hr))
    · rw [if_pos hsize, hwrite, Chip.settle_reg]
      exact Chip.testBit_writeBits (c := s.chip.at t) hrow v.toNat i hi
    · rw [if_pos hsize, hwrite]
      exact Chip.reg_writeBits_ne _ _ (fun e => ho (List.mem_singleton.mpr e.symm))
  case size =>
    obtain ⟨hflag, hint, hreg⟩ := Chip.accErr_spec (s.chip.at t)
    refine ⟨_, State.access_next hr hs, ?_⟩
    rw [if_neg (by rw [hsize]; decide)]
    exact ⟨(Chip.settle_now _).trans (((Chip.accErr_keeps _).now rfl).trans (Chip.at_now_ready hr)),
      (Chip.settle_flag ..).trans hflag, (Chip.settle_flag ..).trans hint, Chip.regsBut_settle hreg⟩
  case bar2Write =>
    obtain ⟨hflag, hint, hreg⟩ := Chip.accErr_spec (s.chip.at t)
    refine ⟨_, State.access_next hr hs, ?_⟩
    exact ⟨(Chip.settle_now _).trans (((Chip.accErr_keeps _).now rfl).trans (Chip.at_now_ready hr)),
      (Chip.settle_flag ..).trans hflag, (Chip.settle_flag ..).trans hint, Chip.regsBut_settle hreg,
      (Chip.settle_log _).trans ((Chip.accErr_keeps _).log rfl), (Chip.settle_mem _).trans ((Chip.accErr_keeps _).mem rfl)⟩
  case bar2Read =>
    refine ⟨_, State.access_next hr hs, ?_⟩
    rw [Chip.bar2_read]
    exact ⟨(Chip.settle_now _).trans (Chip.at_now_ready hr), Chip.sent_emit rfl, Chip.settle_regs _, Chip.settle_log _⟩
  case fast =>
    have hr8 : s.chip.ready (s.chip.pnd.start + 8) := ⟨hr.1, hle⟩
    have hpage := Chip.fastUpdate_word (s.chip.at (s.chip.pnd.start + 8))
    refine ⟨_, State.event_run s _ _ hr.1, ?_, ?_, fun i hi => ?_, ?_⟩
    · exact (Chip.settle_now _).trans (((Chip.fastUpdate_keeps _).now rfl).trans (Chip.at_now_ready hr8))
    · rw [Chip.settle_fast]
      exact hpage 0 (by decide)
    · rw [Chip.settle_fast, show 0x484 + 4 * i = 0x480 + 4 * (i + 1) by omega, hpage (i + 1) (by omega), List.getD_cons_succ]
    · exact (Chip.settle_regs _).trans ((Chip.fastUpdate_keeps _).regs rfl)

end Sys2Proof.Machine
end

section
/-! SUPPORT. The map of the registers as reads see it: which offsets have no read rule of their own, which registers show what is
stored, and where the 64-bit values and the registers with clear-on-read fields lie (R5, R9, R243). -/

namespace Sys2Proof.Machine

/-! ## Offsets without a read rule of their own -/

/-- The time-base words a read serves from a base, a snapshot or the Tally (R277, R290). -/
def timReads : List Nat :=
  [TIM_TB0_LO, TIM_TB0_HI, TIM_TB4_LO, TIM_TB4_HI, TIM_TB5_LO, TIM_TB5_HI, TIM_TBu_LO 0, TIM_TBu_HI 0, TIM_TBu_LO 1, TIM_TBu_HI 1,
   TIM_TBk_W0 0, TIM_TBk_W0 1, TIM_TBk_W0 2, TIM_TBk_W1 0, TIM_TBk_W1 1, TIM_TBk_W1 2, TIM_TBk_W2 0, TIM_TBk_W2 1, TIM_TBk_W2 2,
   TIM_TALLY_W0, TIM_TALLY_W1, TIM_TALLY_W2, TIM_TALLY_W3]

/-- The words a read serves from a Lading FIFO (R243). -/
def ladReads : List Nat := LadId.all.flatMap (fun l => [l.data, l.data + 4, l.tagReg])

/-- No rings, windows, interrupt tables, fast page, time bases or Lading data lie at the offset. -/
def ReadsPlain (off : Nat) : Prop :=
  ¬ (0x200 ≤ off ∧ off < 0x500) ∧ ¬ (0x1000 ≤ off ∧ off < 0x5000) ∧ off ∉ timReads ∧ off ∉ ladReads

theorem baseLo_eq_none {off : Nat} (h : off ∉ timReads) : baseLo off = none := by
  simp only [timReads, List.mem_cons, List.not_mem_nil, or_false, not_or] at h
  unfold baseLo
  simp only [h, if_false]

theorem Chip.readTim_eq_none (c : Chip) (i : Iface) {off : Nat} (h : off ∉ timReads) : c.readTim i off = none := by
  unfold Chip.readTim
  rw [baseLo_eq_none h]
  simp only [timReads, List.mem_cons, List.not_mem_nil, or_false, not_or] at h
  simp only [h, if_false, or_false]

theorem Chip.readLad_eq_none (c : Chip) (i : Iface) {off : Nat} (h : off ∉ ladReads) : c.readLad i off = none := by
  have hfind : LadId.all.find? (fun l => l.data == off || l.data + 4 == off || l.tagReg == off) = none := by
    rw [List.find?_eq_none]
    intro l hl hhit
    refine h (List.mem_flatMap.mpr ⟨l, hl, ?_⟩)
    simp only [Bool.or_eq_true, beq_iff_eq] at hhit
    simp only [List.mem_cons, List.not_mem_nil, or_false]
    omega
  unfold Chip.readLad
  rw [hfind]

/-- A read of such an offset is of a 64-bit value's half or of a register by its access codes. -/
theorem Chip.readReg_plain {off : Nat} (h : ReadsPlain off) (c : Chip) (i : Iface) :
    c.readReg i off =
      if isWideLo off then c.snapLo i (c.view off + c.view (off + 4) * 2 ^ 32)
      else if isWideHi off then (c, (c.snap i).hi)
      else if (regRow off).isSome then c.readDepth off
      else (c, 0) := by
  obtain ⟨hlow, hring, htim, hlad⟩ := h
  unfold Chip.readReg
  rw [if_neg (by omega), if_neg (by omega), if_neg (by omega), if_neg (by omega), if_neg (by omega), if_neg (by omega),
    Chip.readTim_eq_none c i htim, Chip.readLad_eq_none c i hlad]

/-- The bytes from `lo` to `hi` hold no word with a read rule of its own. -/
def regionPlain (lo hi : Nat) : Bool :=
  decide (hi ≤ 0x200 ∨ 0x500 ≤ lo) && decide (hi ≤ 0x1000 ∨ 0x5000 ≤ lo)
    && (timReads ++ ladReads).all (fun x => decide (x < lo ∨ hi ≤ x))

theorem readsPlain_of_region {lo hi off : Nat} (h : regionPlain lo hi = true) (hlo : lo ≤ off) (hhi : off < hi) :
    ReadsPlain off := by
  simp only [regionPlain, Bool.and_eq_true, decide_eq_true_eq, List.all_eq_true, List.mem_append] at h
  obtain ⟨⟨hlow, hring⟩, hout⟩ := h
  refine ⟨by omega, by omega, fun hm => ?_, fun hm => ?_⟩
  · have := hout off (Or.inl hm); omega
  · have := hout off (Or.inr hm); omega

/-! ## Registers that show what is stored -/

/-- The registers whose value follows the state. -/
def computedRegs : List Nat :=
  [HST_ID, HST_MDIO_CMD, TIM_SEL_STAT, TIM_SEL_CORR, TIM_TALLY_STAT, LCK_STATUS, BSN_STATUS, POS_CHN_HW_LO, POS_CHN_HW_HI,
    POS_MAN_STATUS, POS_MAN_NEXT_LO, POS_MAN_NEXT_HI, POS_TICK_LO, POS_TICK_HI, SLU_STATUS, ADC_STATUS, AQU_ROLE]
  ++ LadId.all.map LadId.stat ++ (List.range 32).map LCK_SEGQ_STAT ++ (List.range 8).map POS_PD_STAT
  ++ (List.range 64).map TOW_PORT_STAT ++ (List.range 4).map SLU_CORE_STAT ++ (List.range 10).map LKP_CLS_TUSED
  ++ (List.range 10).map LKP_CLS_EUSED ++ (List.range 24).map (fun i => LKP_DEPTH (i / 8) (i % 8))
  ++ (List.range 64).map SLU_CHST

theorem hitOf_eq_none {f : Nat → Nat} {n off : Nat} (h : off ∉ (List.range n).map f) : hitOf f n off = none := by
  unfold hitOf
  rw [List.find?_eq_none]
  exact fun i hi e => h (List.mem_map.mpr ⟨i, hi, eq_of_beq e⟩)

theorem Chip.view_stored {off : Nat} (h : off ∉ computedRegs) (c : Chip) : c.view off = c.reg off := by
  simp only [computedRegs, List.mem_append, not_or] at h
  obtain ⟨⟨⟨⟨⟨⟨⟨⟨⟨ha, hlad⟩, hseg⟩, hpd⟩, htow⟩, hcore⟩, ht⟩, he⟩, hdep⟩, hch⟩ := h
  have hA : c.viewA off = none := by
    simp only [List.mem_cons, List.not_mem_nil, or_false, not_or] at ha
    unfold Chip.viewA
    simp only [ha, if_false]
  have hfind : LadId.all.find? (fun l => l.stat == off) = none := by
    rw [List.find?_eq_none]
    exact fun l hl e => hlad (List.mem_map.mpr ⟨l, hl, eq_of_beq e⟩)
  have hB : c.viewB off = none := by
    unfold Chip.viewB
    rw [hfind, hitOf_eq_none hseg, hitOf_eq_none hpd, hitOf_eq_none htow, hitOf_eq_none hcore, hitOf_eq_none ht,
      hitOf_eq_none he, hitOf_eq_none hdep, hitOf_eq_none hch]
  unfold Chip.view
  rw [hA, hB]

/-! ## 64-bit values (R9) -/

theorem isWideLo_cases {off : Nat} (h : isWideLo off = true) : off ∈ wideLo ∨ ∃ i < 256, off = POS_CH_POS_LO i := by
  unfold isWideLo hitOf at h
  rcases Bool.or_eq_true _ _ |>.mp h with hl | hpos
  · exact Or.inl (List.contains_iff_mem.mp hl)
  · obtain ⟨i, hi⟩ := Option.isSome_iff_exists.mp hpos
    have heq := List.find?_some hi
    exact Or.inr ⟨i, List.mem_range.mp (List.mem_of_find?_eq_some hi), (eq_of_beq heq).symm⟩

/-- The channel positions lie from 0x6C88 to 0x7488, apart from every other 64-bit value and every computed register. -/
theorem posRegion_apart : regionPlain 0x6C88 0x7488 = true
    ∧ (∀ x ∈ computedRegs, x < 0x6C88 ∨ 0x7488 ≤ x) ∧ (∀ x ∈ wideLo, x + 8 ≤ 0x6C88 ∨ 0x7488 ≤ x) := by decide +kernel

/-- Of the listed 64-bit values: no read rule of their own, no LO word next to another, and a stored LO word but for three. -/
theorem wideLo_apart : ∀ x ∈ wideLo, regionPlain x (x + 8) = true ∧ x + 4 ∉ wideLo
    ∧ (x ∈ [POS_CHN_HW_LO, POS_MAN_NEXT_LO, POS_TICK_LO] ∨ x ∉ computedRegs) := by decide +kernel

theorem wide_readsPlain {off : Nat} (h : isWideLo off = true) : ReadsPlain off ∧ ReadsPlain (off + 4) := by
  rcases isWideLo_cases h with hl | ⟨i, hi, rfl⟩
  · have hreg := (wideLo_apart off hl).1
    exact ⟨readsPlain_of_region hreg (by omega) (by omega), readsPlain_of_region hreg (by omega) (by omega)⟩
  · have hreg := posRegion_apart.1
    exact ⟨readsPlain_of_region hreg (by unfold POS_CH_POS_LO; omega) (by unfold POS_CH_POS_LO; omega),
      readsPlain_of_region hreg (by unfold POS_CH_POS_LO; omega) (by unfold POS_CH_POS_LO; omega)⟩

/-- The HI word of a 64-bit value is no LO word. -/
theorem isWideLo_hi {off : Nat} (h : isWideLo off = true) : isWideLo (off + 4) = false := by
  rw [Bool.eq_false_iff]
  intro h4
  obtain ⟨-, -, hpos⟩ := posRegion_apart
  rcases isWideLo_cases h with hl | ⟨i, hi, rfl⟩ <;> rcases isWideLo_cases h4 with hl4 | ⟨j, hj, heq⟩
  · exact (wideLo_apart off hl).2.1 hl4
  · have := hpos off hl
    unfold POS_CH_POS_LO at heq
    omega
  · have := hpos _ hl4
    unfold POS_CH_POS_LO at this
    omega
  · unfold POS_CH_POS_LO at heq
    omega

theorem Chip.view_computed_lt (c : Chip) {off : Nat} (h : off ∈ [POS_CHN_HW_LO, POS_MAN_NEXT_LO, POS_TICK_LO]) :
    c.view off < 2 ^ 32 := by
  have hmod : ∀ n : Nat, n % 2 ^ 32 < 2 ^ 32 := fun n => Nat.mod_lt n (by decide)
  simp only [List.mem_cons, List.not_mem_nil, or_false] at h
  rcases h with rfl | rfl | rfl
  · exact hmod c.pf.chain.h
  · exact hmod c.manNext
  · exact hmod c.now

/-- The LO word of a 64-bit value shows 32 bits. -/
theorem Chip.view_wideLo_lt (c : Chip) {off : Nat} (h : isWideLo off = true) : c.view off < 2 ^ 32 := by
  rcases isWideLo_cases h with hl | ⟨i, hi, rfl⟩
  · rcases (wideLo_apart off hl).2.2 with hc | hs
    · exact Chip.view_computed_lt c hc
    · rw [Chip.view_stored hs]
      exact Chip.reg_lt c off
  · have hs : POS_CH_POS_LO i ∉ computedRegs := fun hm => by
      have := posRegion_apart.2.1 _ hm
      unfold POS_CH_POS_LO at this
      omega
    rw [Chip.view_stored hs]
    exact Chip.reg_lt c _

/-! ## Registers with clear-on-read fields (R5) -/

/-- The lines of the register map, region by region. -/
def rowGroups : List (List RegRow) :=
  [rowsHST, rowsSYS, rowsTIM, rowsLCK, rowsBSN, rowsPOS, rowsTOW, rowsWEI, rowsSLU, rowsADC, rowsGAU, rowsLKP, rowsAQU, rowsLOG]

theorem regionRows_cases (off : Nat) : regionRows off ∈ [] :: rowGroups := by
  unfold regionRows rowGroups
  generalize rowsHST = hst, rowsSYS = sys, rowsTIM = tim, rowsLCK = lck, rowsBSN = bsn, rowsPOS = pos, rowsTOW = tow,
    rowsWEI = wei, rowsSLU = slu, rowsADC = adc, rowsGAU = gau, rowsLKP = lkp, rowsAQU = aqu, rowsLOG = log
  iterate 16 refine choice_mem (by simp only [List.mem_cons, true_or, or_true]) ?_
  exact List.mem_cons_self

/-- The line of a register is a line of the map, and the register lies in its run. -/
theorem regRow_spec {off : Nat} {r : RegRow} (h : regRow off = some r) :
    (∃ g ∈ rowGroups, r ∈ g) ∧ r.base ≤ off ∧ off < r.base + r.stride * r.count := by
  have hhit := List.find?_some h
  rw [decide_eq_true_eq] at hhit
  have hr := List.mem_of_find?_eq_some h
  refine ⟨?_, hhit.1, hhit.2.1⟩
  rcases List.mem_cons.mp (regionRows_cases off) with hnil | hg
  · rw [hnil] at hr
    exact absurd hr List.not_mem_nil
  · exact ⟨_, hg, hr⟩

/-- Where a line with clear-on-read bits lies no word has a read rule of its own, nor is any a half of a 64-bit value. -/
theorem rcRows_apart : ∀ g ∈ rowGroups, ∀ r ∈ g, r.rc ≠ 0 →
    regionPlain r.base (r.base + r.stride * r.count) = true
      ∧ (∀ x ∈ wideLo, x + 8 ≤ r.base ∨ r.base + r.stride * r.count ≤ x)
      ∧ (r.base + r.stride * r.count ≤ 0x6C88 ∨ 0x7488 ≤ r.base) := by decide +kernel

/-- What holds of an offset whose register has clear-on-read bits. -/
theorem rc_offset {off : Nat} (h : rcMask off ≠ 0) :
    (regRow off).isSome = true ∧ ReadsPlain off ∧ isWideLo off = false ∧ isWideHi off = false := by
  unfold rcMask at h
  cases hrow : regRow off with
  | none => rw [hrow] at h; exact absurd rfl h
  | some r =>
    rw [hrow] at h
    obtain ⟨⟨g, hg, hmem⟩, hlo, hhi⟩ := regRow_spec hrow
    obtain ⟨hplain, hwide, hpos⟩ := rcRows_apart g hg r hmem h
    have hnot : ∀ x, x ≤ off → off < x + 8 → isWideLo x ≠ true := fun x h1 h2 hx => by
      rcases isWideLo_cases hx with hl | ⟨i, hi, rfl⟩
      · have := hwide x hl; omega
      · unfold POS_CH_POS_LO at h1 h2; omega
    refine ⟨rfl, readsPlain_of_region hplain hlo hhi, Bool.eq_false_iff.mpr (hnot off (by omega) (by omega)), ?_⟩
    unfold isWideHi
    by_cases h4 : 4 ≤ off
    · rw [Bool.eq_false_iff.mpr (hnot (off - 4) (by omega) (by omega)), Bool.and_false]
    · rw [decide_eq_false h4, Bool.false_and]

/-- A read of a register with clear-on-read bits is a read by its access codes. -/
theorem Chip.readReg_rc (c : Chip) (i : Iface) {off : Nat} (h : rcMask off ≠ 0) : c.readReg i off = c.readDepth off := by
  obtain ⟨hrow, hplain, hlo, hhi⟩ := rc_offset h
  rw [Chip.readReg_plain hplain, hlo, hhi, hrow]
  rfl

end Sys2Proof.Machine
end

section
/-! SUPPORT. The reads of R6, R9 and R243: what a read of one word or two answers, what it leaves for its interface and what it
clears. -/

namespace Sys2Proof.Machine

/-! ## Read requests (R463) -/

/-- A request of one word is answered with that word. -/
theorem Chip.readRequest_one (c : Chip) (i : Iface) (off : Nat) :
    c.readRequest i ⟨off, 1⟩ = Chip.answer (c.readReg i off) i :=
  if_neg (fun h => h.2.1 rfl)

/-- A read of one word by an interface that serves it: the word leaves, and the next state is the read's with its interrupt
messages. -/
theorem State.read_one {s : State} {t : Nat} {i : Iface} {off : Nat} {d : Chip} {w : Word} (hr : s.chip.ready t)
    (hs : s.chip.serves i = true) (hread : (s.chip.at t).readReg i off = (d, w)) :
    ∃ s', s.access t i (fun c => c.readRequest i ⟨off, 1⟩) = .next s' ∧ s'.chip.now = t ∧ s.chip.sent s'.chip [.read i w]
      ∧ s'.chip.regs = d.regs ∧ s'.chip.snap i = d.snap i := by
  have hk : Keeps 33563156 (s.chip.at t) d := by
    have := Chip.readReg_keeps (s.chip.at t) i off
    rwa [hread] at this
  refine ⟨_, State.access_next hr hs, ?_⟩
  rw [Chip.readRequest_one, hread]
  refine ⟨(Chip.settle_now _).trans ((hk.now rfl).trans (Chip.at_now_ready hr)), Chip.sent_emit ?_, Chip.settle_regs _,
    Chip.settle_snap _ _⟩
  rw [← Chip.at_out s.chip t, ← hk.outEq rfl]
  rfl

@[simp] theorem Chip.settle_snaps (c : Chip) : c.settle.hst.snaps = c.hst.snaps := by
  have h := Chip.settle_hst_main c
  simp only [Hst.main, Prod.mk.injEq] at h
  obtain ⟨-, -, -, -, h, -⟩ := h
  exact h

/-! ## 64-bit values (R9) -/

theorem w32_add_mul (a b : Nat) : w32 (a + b * 2 ^ 32) = w32 a := by
  refine BitVec.eq_of_toNat_eq ?_
  simp only [w32, BitVec.toNat_ofNat, Nat.add_mul_mod_self_right]

/-- A read of a LO word returns it and keeps the HI word of the same tick. -/
theorem Chip.readReg_wideLo (c : Chip) (i : Iface) {off : Nat} (h : isWideLo off = true) :
    c.readReg i off = (c.setSnap i { c.snap i with hi := w32 (c.view (off + 4)) }, w32 (c.view off)) := by
  rw [Chip.readReg_plain (wide_readsPlain h).1, if_pos h, Chip.snapLo, w32_add_mul,
    Nat.add_mul_div_right _ _ (by decide), Nat.div_eq_of_lt (c.view_wideLo_lt h), Nat.zero_add]

/-- A read of a HI word returns what the last LO read kept. -/
theorem Chip.readReg_wideHi (c : Chip) (i : Iface) {off : Nat} (h : isWideLo off = true) :
    c.readReg i (off + 4) = (c, (c.snap i).hi) := by
  have hhi : isWideHi (off + 4) = true := by
    unfold isWideHi
    rw [Nat.add_sub_cancel, h]
    simp
  rw [Chip.readReg_plain (wide_readsPlain h).2, if_neg (by rw [isWideLo_hi h]; decide), if_pos hhi]

/-- The device after the LO word and the HI word of a 64-bit value were read in one request. -/
theorem Chip.readRequest_two (c : Chip) (i : Iface) {off : Nat} (h : isWideLo off = true) (h8 : off % 8 = 0) :
    c.readRequest i ⟨off, 2⟩
      = ((c.setSnap i { c.snap i with hi := w32 (c.view (off + 4)) }).emit (.read i (w32 (c.view off)))).emit
          (.read i (w32 (c.view (off + 4)))) := by
  have hwords : c.readRegs i off 2 = (c.setSnap i { c.snap i with hi := w32 (c.view (off + 4)) },
      [w32 (c.view off), w32 (c.view (off + 4))]) := by
    simp only [Chip.readRegs, Chip.readReg_wideLo c i h, Chip.readReg_wideHi _ i h, Chip.setSnap_snap]
  unfold Chip.readRequest
  rw [if_neg (fun hno => hno.2.2.elim (fun h2 => h2 rfl) (fun h0 => h0 h8)), hwords]
  rfl

/-! ## Bases (R277) -/

theorem baseLo_range {off k : Nat} (h : baseLo off = some k) : 0x700 ≤ off ∧ off < 0xA00 := by
  unfold baseLo at h
  iterate 8
    split at h
    · next e => exact e ▸ ⟨by decide, by decide⟩
  cases h

theorem Chip.readReg_base (c : Chip) (i : Iface) {off k : Nat} (h : baseLo off = some k) : c.readReg i off = c.readBase i k := by
  obtain ⟨hlo, hhi⟩ := baseLo_range h
  have htim : c.readTim i off = some (c.readBase i k) := by unfold Chip.readTim; rw [h]
  unfold Chip.readReg
  rw [if_neg (by omega), if_neg (by omega), if_neg (by omega), if_neg (by omega), if_neg (by omega), if_neg (by omega), htim]

/-! ## Clear-on-read fields (R5, R6) -/

theorem Chip.testBit_reg_ge (c : Chip) (off : Nat) {i : Nat} (h : ¬ i < 32) : (c.reg off).testBit i = false :=
  Nat.testBit_lt_two_pow (Nat.lt_of_lt_of_le (c.reg_lt off) (Nat.pow_le_pow_right (by decide) (Nat.le_of_not_lt h)))

/-- A register whose bits under a mask are replaced by those of another word, the others kept. -/
def replaced (x m e : Nat) : Nat := (x &&& ((2 ^ 32 - 1) ^^^ m)) ||| (e &&& m)

theorem testBit_replaced (x m e : Nat) {i : Nat} (hi : i < 32) :
    (replaced x m e).testBit i = if m.testBit i then e.testBit i else x.testBit i := by
  unfold replaced
  rw [Nat.testBit_or, Nat.testBit_and, Nat.testBit_and, testBit_ones_xor _ _ hi]
  cases m.testBit i <;> simp

/-- A register left with its masked bits replaced by those of the word `e`: what it shows under the mask and beside it. -/
theorem Chip.reg_replaced {c d : Chip} {off m e : Nat} (he : e < 2 ^ 32) (h : d.reg off = replaced (c.reg off) m e % 2 ^ 32) :
    d.reg off &&& m = e &&& m ∧ d.reg off ||| m = c.reg off ||| m := by
  have hbit : ∀ i, (d.reg off).testBit i = if m.testBit i then e.testBit i else (c.reg off).testBit i := by
    intro i
    by_cases hi : i < 32
    · rw [h, Nat.testBit_mod_two_pow, testBit_replaced _ _ _ hi, decide_eq_true hi, Bool.true_and]
    · have hei : e.testBit i = false :=
        Nat.testBit_lt_two_pow (Nat.lt_of_lt_of_le he (Nat.pow_le_pow_right (by decide) (Nat.le_of_not_lt hi)))
      rw [Chip.testBit_reg_ge _ _ hi, hei, Chip.testBit_reg_ge _ _ hi, ite_self]
  constructor <;> refine Nat.eq_of_testBit_eq (fun i => ?_)
  · rw [Nat.testBit_and, Nat.testBit_and, hbit]
    cases m.testBit i <;> simp
  · rw [Nat.testBit_or, Nat.testBit_or, hbit]
    cases m.testBit i <;> simp

theorem rcMask_lt (off : Nat) : rcMask off < 2 ^ 32 := by
  have hrows : ∀ g ∈ rowGroups, ∀ r ∈ g, r.rc < 2 ^ 32 := by decide +kernel
  unfold rcMask
  split
  · next r hrow =>
    obtain ⟨g, hg, hr⟩ := (regRow_spec hrow).1
    exact hrows g hg r hr
  · decide

/-- Where no event of the tick touched the register the read clears its clear-on-read bits. -/
theorem Chip.readPlain_quiet {c : Chip} {off : Nat} (hm : rcMask off ≠ 0) (he : c.edge off = none) :
    c.readPlain off = (c.clearMask off (rcMask off), w32 (c.view off)) := by
  unfold Chip.readPlain
  rw [if_neg hm, he]

/-- Where one did, the read returns the clear-on-read bits as they stood before it and leaves the event's. -/
theorem Chip.readPlain_event {c : Chip} {off : Nat} {e : Word × Word} (hm : rcMask off ≠ 0) (he : c.edge off = some e) :
    c.readPlain off = ((c.setReg off (replaced (c.reg off) (rcMask off) e.2.toNat)).setEdge off
        (w32 (e.1.toNat &&& ((2 ^ 32 - 1) ^^^ rcMask off)), e.2),
      w32 (replaced (c.view off) (rcMask off) e.1.toNat)) := by
  unfold Chip.readPlain
  rw [if_neg hm, he]
  rfl

theorem Chip.reg_clearMask (c : Chip) (off : Nat) :
    (c.clearMask off (rcMask off)).reg off = replaced (c.reg off) (rcMask off) 0 % 2 ^ 32 := by
  unfold Chip.clearMask replaced
  rw [Chip.reg_setReg_same, Nat.mod_eq_of_lt (rcMask_lt off), Nat.zero_and, Nat.or_zero]

theorem Chip.readDepth_other (c : Chip) {off : Nat} (h : ∀ (w : Fin 3) (p : Fin 8), off ≠ LKP_DEPTH w.val p.val) :
    c.readDepth off = c.readPlain off := by
  have hnone : hitOf (fun i => LKP_DEPTH (i / 8) (i % 8)) 24 off = none := by
    refine hitOf_eq_none (fun hm => ?_)
    obtain ⟨i, hi, rfl⟩ := List.mem_map.mp hm
    have := List.mem_range.mp hi
    exact h ⟨i / 8, by omega⟩ ⟨i % 8, by omega⟩ rfl
  unfold Chip.readDepth
  rw [hnone]

theorem depth_index (w : Fin 3) (p : Fin 8) : hitOf (fun i => LKP_DEPTH (i / 8) (i % 8)) 24 (LKP_DEPTH w.val p.val)
    = some (8 * w.val + p.val) := by
  revert w p
  decide +kernel

/-- FULL_CNT and MAX of a list's depth register are clear-on-read. -/
theorem depth_rcMask (w : Fin 3) (p : Fin 8) : rcMask (LKP_DEPTH w.val p.val) = 0xFF1FF000 := by
  revert w p
  decide +kernel

/-- A read of LKP_DEPTH: the read by the access codes, then MAX raised to the present depth (R433). -/
theorem Chip.readDepth_depth (c : Chip) (w : Fin 3) (p : Fin 8) :
    c.readDepth (LKP_DEPTH w.val p.val)
      = (let d := (c.readPlain (LKP_DEPTH w.val p.val)).1
         d.setReg (LKP_DEPTH w.val p.val) (putBits (d.reg (LKP_DEPTH w.val p.val)) 20 12
           (max (d.fld (LKP_DEPTH__MAX w.val p.val)) (d.list w.val p.val).length)),
        (c.readPlain (LKP_DEPTH w.val p.val)).2) := by
  have hw : (8 * w.val + p.val) / 8 = w.val := by omega
  have hp : (8 * w.val + p.val) % 8 = p.val := by omega
  unfold Chip.readDepth
  rw [depth_index]
  dsimp only
  rw [hw, hp]

/-- A field that a mask covers is read through it. -/
theorem bits_and_mask (x m : Nat) {hi lo : Nat} (h : bits m hi lo = 2 ^ (hi + 1 - lo) - 1) :
    bits (x &&& m) hi lo = bits x hi lo := by
  refine Nat.eq_of_testBit_eq (fun i => ?_)
  have hm := congrArg (fun n => n.testBit i) h
  simp only [testBit_bits, Nat.testBit_two_pow_sub_one] at hm
  rw [testBit_bits, testBit_bits, Nat.testBit_and]
  by_cases hin : i < hi + 1 - lo
  · simp only [hin, decide_true, Bool.true_and] at hm ⊢
    rw [hm, Bool.and_true]
  · simp [hin]

/-- After a read of LKP_DEPTH in a tick without an event on it MAX is the present depth. -/
theorem Chip.readDepth_max {c : Chip} {w : Fin 3} {p : Fin 8} (he : c.edge (LKP_DEPTH w.val p.val) = none) :
    (c.readDepth (LKP_DEPTH w.val p.val)).1.fld (LKP_DEPTH__MAX w.val p.val) = (c.list w.val p.val).length % 2 ^ 9 := by
  have hm : rcMask (LKP_DEPTH w.val p.val) ≠ 0 := by rw [depth_rcMask]; decide
  have hmask := (Chip.reg_replaced (e := 0) (by decide) (c.reg_clearMask (LKP_DEPTH w.val p.val))).1
  have hzero : (c.clearMask (LKP_DEPTH w.val p.val) (rcMask (LKP_DEPTH w.val p.val))).fld (LKP_DEPTH__MAX w.val p.val) = 0 := by
    have hbits : bits ((c.clearMask (LKP_DEPTH w.val p.val) (rcMask (LKP_DEPTH w.val p.val))).reg (LKP_DEPTH w.val p.val)
        &&& rcMask (LKP_DEPTH w.val p.val)) 20 12 = 0 := by
      rw [hmask, Nat.zero_and]
      decide
    rw [depth_rcMask, bits_and_mask _ _ (by decide)] at hbits
    rw [← depth_rcMask w p] at hbits
    exact hbits
  rw [Chip.readDepth_depth, Chip.readPlain_quiet hm he]
  dsimp only
  rw [hzero, Nat.zero_max]
  unfold Chip.fld
  rw [Chip.reg_setReg_same, Nat.mod_eq_of_lt (putBits_lt _ _ _ _ _ (by decide) (by decide) (Chip.reg_lt _ _)),
    bits_putBits _ _ _ _ (by decide)]
  rfl

theorem Chip.readPlain_reg_ne (c : Chip) {off o : Nat} (h : o ∉ [off]) : (c.readPlain off).1.reg o = c.reg o := by
  have hne : off ≠ o := fun e => h (List.mem_singleton.mpr e.symm)
  by_cases hm : rcMask off = 0
  · unfold Chip.readPlain
    rw [if_pos hm]
  · cases he : c.edge off with
    | none => rw [Chip.readPlain_quiet hm he]; exact Chip.reg_setReg_ne _ _ _ _ hne
    | some e => rw [Chip.readPlain_event hm he]; exact Chip.reg_setReg_ne _ _ _ _ hne

/-! ## Lading FIFOs (R242, R243) -/

@[simp] theorem Chip.lad_settle (c : Chip) (l : LadId) : c.settle.lad l = c.lad l := by
  unfold Chip.lad
  rw [Chip.settle_lad]

theorem Chip.ladRead_head {c : Chip} {l : LadId} {w : LadWord} {rest : List LadWord} (hf : (c.lad l).flushAt = none)
    (hw : (c.lad l).words = w :: rest) (i : Iface) :
    c.ladRead i l = ((c.setLad l { c.lad l with words := rest }).setSnap i
      { c.snap i with hi := w32 (w.data.toNat / 2 ^ 32), tag := w.tagWord }, w32 w.data.toNat) := by
  unfold Chip.ladRead
  simp only [hf, hw]
  rfl

theorem Chip.ladRead_idle {c : Chip} {l : LadId} (h : (c.lad l).flushAt.isSome = true ∨ (c.lad l).words = []) (i : Iface) :
    c.ladRead i l = (c.setSnap i { c.snap i with hi := 0, tag := idleTag }, 0) := by
  unfold Chip.ladRead
  dsimp only
  split
  · next hf hw => rcases h with h | h <;> simp_all
  · rfl

/-- Settles O16: a read request of a served interface is answered word by word, and each word's read is told by where it lies in
the register map. -/
theorem readsTakeSnapshotsAndClear : Obligations.ReadsTakeSnapshotsAndClear := by
  intro s t ifc hr hs
  refine ⟨fun off hw => ?wide1, fun off hw h8 => ?wide2, fun r h1 h2 i hi hsp => ?other, fun off k hk => ?base,
    fun w p => ?depth, fun off hm hne he => ?quiet, fun off e hm hne he => ?event, fun l hf w rest hw => ?ladHead,
    fun l hidle => ?ladIdle⟩
  case wide1 =>
    obtain ⟨s', hnext, hnow, hsent, hregs, hsnap⟩ := State.read_one hr hs (Chip.readReg_wideLo (s.chip.at t) ifc hw)
    exact ⟨s', hnext, hnow, hsent, by rw [hsnap, Chip.setSnap_snap], hregs⟩
  case wide2 =>
    refine ⟨_, State.access_next hr hs, ?_⟩
    rw [Chip.readRequest_two _ _ hw h8]
    exact ⟨(Chip.settle_now _).trans (Chip.at_now_ready hr), Chip.sent_emit (List.append_assoc _ _ _), Chip.settle_regs _⟩
  case other =>
    have hexec : exec i s = s.access t .pcie (fun c => c.readRequest .pcie r) := by
      simp only [List.mem_cons, List.not_mem_nil, or_false] at hi
      rcases hi with rfl | rfl <;> rfl
    have hreq : (s.chip.at t).readRequest .pcie r = (s.chip.at t).emit (.unsupported .pcie) := if_pos ⟨rfl, h1, h2⟩
    rw [hexec]
    refine ⟨_, State.access_next hr hsp, ?_⟩
    rw [hreq]
    exact ⟨(Chip.settle_now _).trans (Chip.at_now_ready hr), Chip.sent_emit rfl, Chip.settle_regs _, Chip.settle_snaps _⟩
  case base =>
    have hread : (fun c : Chip => c.readRequest ifc ⟨off, 1⟩) = fun c => Chip.answer (c.readBase ifc k.val) ifc := by
      funext c
      rw [Chip.readRequest_one, Chip.readReg_base c ifc hk]
    exact congrArg (s.access t ifc) hread
  case depth =>
    have hm : rcMask (LKP_DEPTH w.val p.val) ≠ 0 := by rw [depth_rcMask]; decide
    have hread := (Chip.readReg_rc (s.chip.at t) ifc hm).trans (Chip.readDepth_depth (s.chip.at t) w p)
    obtain ⟨s', hnext, hnow, hsent, hregs, -⟩ := State.read_one hr hs hread
    refine ⟨s', hnext, hnow, fun o ho => ?_, fun he => ⟨?_, ?_⟩⟩
    · rw [Chip.reg_congr hregs, Chip.reg_setReg_ne _ _ _ _ (fun e => ho (List.mem_singleton.mpr e.symm)),
        Chip.readPlain_reg_ne _ ho]
      rfl
    · rw [Chip.readPlain_quiet hm he] at hsent
      exact hsent
    · have hmax := Chip.readDepth_max he
      rw [Chip.readDepth_depth] at hmax
      exact (Chip.fld_congr hregs _).trans hmax
  case quiet =>
    have hread := ((Chip.readReg_rc (s.chip.at t) ifc hm).trans (Chip.readDepth_other _ hne)).trans (Chip.readPlain_quiet hm he)
    obtain ⟨s', hnext, hnow, hsent, hregs, -⟩ := State.read_one hr hs hread
    have hreg := Chip.reg_congr hregs off
    obtain ⟨hand, hor⟩ := Chip.reg_replaced (e := 0) (by decide) (hreg.trans (Chip.reg_clearMask (s.chip.at t) off))
    exact ⟨s', hnext, hnow, hsent, hand.trans (Nat.zero_and _), hor, fun o ho =>
      (Chip.reg_congr hregs o).trans (Chip.reg_setReg_ne _ _ _ _ (fun e => ho (List.mem_singleton.mpr e.symm)))⟩
  case event =>
    have hread := ((Chip.readReg_rc (s.chip.at t) ifc hm).trans (Chip.readDepth_other _ hne)).trans (Chip.readPlain_event hm he)
    obtain ⟨s', hnext, hnow, hsent, hregs, -⟩ := State.read_one hr hs hread
    have hreg := Chip.reg_congr hregs off
    obtain ⟨hand, hor⟩ := Chip.reg_replaced (c := s.chip.at t) e.2.isLt (hreg.trans (Chip.reg_setReg_same _ _ _))
    exact ⟨s', hnext, hnow, hsent, hand, hor, fun o ho =>
      (Chip.reg_congr hregs o).trans (Chip.reg_setReg_ne _ _ _ _ (fun e => ho (List.mem_singleton.mpr e.symm)))⟩
  case ladHead =>
    have hread := Chip.ladRead_head (c := s.chip.at t) hf hw ifc
    obtain ⟨s', hnext, hnow, hsent, hregs, hchip⟩ :=
      State.access_read (r := fun c => c.ladRead ifc l) hr hs (Chip.ladRead_keeps ..) rfl rfl rfl
    have hsnap : s'.chip.snap ifc = ((s.chip.at t).ladRead ifc l).1.snap ifc := by rw [hchip, Chip.answer_settle_snap]
    rw [hread] at hsent hsnap hchip
    rw [Chip.setSnap_snap] at hsnap
    refine ⟨s', hnext, hnow, hsent, by rw [hsnap], by rw [hsnap], ?_, hregs⟩
    rw [hchip, Chip.lad_settle]
    exact (Chip.lad_setLad _ l l _).trans (if_pos rfl)
  case ladIdle =>
    have hread := Chip.ladRead_idle (c := s.chip.at t) hidle ifc
    obtain ⟨s', hnext, hnow, hsent, hregs, hchip⟩ :=
      State.access_read (r := fun c => c.ladRead ifc l) hr hs (Chip.ladRead_keeps ..) rfl rfl rfl
    have hsnap : s'.chip.snap ifc = ((s.chip.at t).ladRead ifc l).1.snap ifc := by rw [hchip, Chip.answer_settle_snap]
    rw [hread] at hsent hsnap hchip
    rw [Chip.setSnap_snap] at hsnap
    exact ⟨s', hnext, hnow, hsent, by rw [hsnap], by rw [hsnap]; rfl, by rw [hchip, Chip.settle_lad]; rfl, hregs⟩

end Sys2Proof.Machine
end

section
/-! SUPPORT. Flights read back: what a flight reads as after an operation of the Lock engine, and the part of the flights that an
operation leaves alone. `Chip.Agree p a b` says that every flight reads the same through `p` before and after; `p` is the results
of a flight (the stored vectors and the update in progress), or everything but the flight an update starts in. -/

namespace Sys2Proof.Machine

/-! ## Flights after a write -/

theorem Chip.flight_setFlight (c : Chip) (f g : Nat) (x : Flight) :
    (c.setFlight f x).flight g = if f = g then x else c.flight g := tabGet_put f g x _

@[simp] theorem Chip.flight_setFlight_same (c : Chip) (f : Nat) (x : Flight) : (c.setFlight f x).flight f = x := by
  rw [Chip.flight_setFlight, if_pos rfl]

theorem Chip.flight_congr {a b : Chip} (h : b.lck = a.lck) (g : Nat) : b.flight g = a.flight g := by
  unfold Chip.flight; rw [h]

theorem Chip.lckW_congr {a b : Chip} (h : b.mem = a.mem) (off : Nat) : b.lckW off = a.lckW off := by
  unfold Chip.lckW; rw [h]

/-! ## What the flights keep -/

/-- Every flight reads the same through `p`. -/
structure Chip.Agree {α : Type} (p : Nat → Flight → α) (a b : Chip) : Prop where
  at_flight : ∀ g, p g (b.flight g) = p g (a.flight g)

namespace Chip.Agree

variable {α β : Type} {p : Nat → Flight → α} {m : Nat} {a b d : Chip}

theorem refl : Agree p a a := ⟨fun _ => rfl⟩

theorem trans (h : Agree p a b) (k : Agree p b d) : Agree p a d := ⟨fun g => (k.at_flight g).trans (h.at_flight g)⟩

/-- An operation whose mask leaves the Lock engine out keeps the flights whole. -/
theorem of_keeps (h : Keeps m a b) (hm : m.testBit 12 = false := by rfl) : Agree p a b :=
  ⟨fun g => by rw [Chip.flight_congr (h.lck hm)]⟩

/-- Such an operation as a further step. -/
theorem keeps (h : Agree p a b) (k : Keeps m b d) (hm : m.testBit 12 = false := by rfl) : Agree p a d :=
  h.trans (of_keeps k hm)

theorem setFlight (h : Agree p a b) {f : Nat} {x : Flight} (hx : p f x = p f (a.flight f) := by rfl) :
    Agree p a (b.setFlight f x) := by
  refine ⟨fun g => ?_⟩
  rw [Chip.flight_setFlight]
  split
  · next e => exact e ▸ hx
  · exact h.at_flight g

theorem ite {q : Prop} [Decidable q] {x y : Chip} (h : Agree p a x) (k : Agree p a y) : Agree p a (if q then x else y) := by
  split
  · exact h
  · exact k

theorem each (f : Chip → β → Chip) (h : ∀ c x, Agree p c (f c x)) (xs : List β) (c : Chip) : Agree p c (c.each xs f) := by
  unfold Chip.each
  induction xs generalizing c with
  | nil => exact refl
  | cons x xs ih => exact (h c x).trans (ih _)

theorem foldl1 {γ : Type} (step : Chip × γ → β → Chip × γ) (h : ∀ r x, Agree p r.1 (step r x).1) (xs : List β)
    (r : Chip × γ) : Agree p r.1 (xs.foldl step r).1 := by
  induction xs generalizing r with
  | nil => exact refl
  | cons x xs ih => exact (h r x).trans (ih _)

end Chip.Agree

/-- The stored vectors of a flight, its update in progress and the pound of its last completed one, whatever the flight's
number. -/
def Flight.results (_ : Nat) (x : Flight) : List Int × List Int × List Int × Option Upd × Option Nat :=
  (x.xh, x.u, x.r, x.upd, x.doneP)

/-- Every flight but `f` whole, and the updates owed to each. -/
def Flight.apart (f g : Nat) (x : Flight) : Option Flight × List Owed := (if g = f then none else some x, x.owed)

/-! ## Operations that keep the results of every flight -/

theorem Chip.react_results (c : Chip) (f r cause : Nat) : Agree Flight.results c (c.react f r cause) := by
  unfold Chip.react
  extract_lets m
  split
  · exact .refl
  · split
    · exact .refl
    · exact .ite Agree.refl.setFlight Agree.refl.setFlight
    · exact Agree.refl.setFlight
    · exact .ite ⟨fun _ => rfl⟩ Agree.refl.setFlight

theorem Chip.raiseFaults_results (c : Chip) (f : Nat) (l : List (Fld × Nat)) :
    Agree Flight.results c (c.raiseFaults f l) := by
  unfold Chip.raiseFaults
  extract_lets c1 c2 r c3 c4
  have h1 : Agree Flight.results c c1 := .each _ (fun c x => .of_keeps (Chip.raise_keeps ..)) _ _
  have h2 : Agree Flight.results c c2 := (h1.keeps (Chip.raiseBit_keeps ..)).keeps (Chip.raise_keeps ..)
  have h4 : Agree Flight.results c c4 := (h2.trans (Chip.react_results ..)).keeps (Chip.logEvent_keeps ..)
  exact .ite .refl (.ite h4 (h4.keeps (Chip.logTrigger_keeps ..)))

theorem Chip.reseedResult_results (c : Chip) (f rst : Nat) (vals : List Int) (clamped : Bool) :
    Agree Flight.results c (c.reseedResult f rst vals clamped) := by
  unfold Chip.reseedResult
  extract_lets x
  split
  · exact .refl
  · extract_lets c1 c2 r
    have h2 : Agree Flight.results c c2 := Agree.refl.setFlight.keeps (Chip.setFld_keeps ..)
    have hr : Agree Flight.results c r.1 := h2.keeps (Chip.setSat_keeps ..)
    exact .ite .refl (.ite (.ite (.ite (hr.trans (Chip.raiseFaults_results ..)) hr) h2) (h2.keeps (Chip.raise_keeps ..)))

theorem Chip.failJob_results (c : Chip) (s : Nat) (j : Job) (rst : Nat) (cut : Bool) :
    Agree Flight.results c (c.failJob s j rst cut) := by
  have h : Agree Flight.results c (c.endJob s j rst (some (false, List.replicate (jLen j.d) 0)) cut) :=
    .of_keeps (Chip.endJob_keeps ..)
  exact .ite (h.trans (Chip.reseedResult_results ..)) h

theorem Chip.qpEnd_results (c : Chip) (s : Nat) (j : Job) (rst : Nat) (conv cut : Bool) :
    Agree Flight.results c (c.qpEnd s j rst conv cut) :=
  .ite (Chip.failJob_results ..) (.of_keeps (Chip.qpWrite_keeps ..))

theorem Chip.qpEndStart_results (c : Chip) (s : Nat) (j : Job) (rst : Nat) (cut : Bool) :
    Agree Flight.results c (c.qpEndStart s j rst cut) :=
  .ite (Chip.failJob_results ..) (.ite (.of_keeps (Chip.endJob_keeps ..)) (.of_keeps (Chip.qpWrite_keeps ..)))

theorem Chip.stopJob_results (c : Chip) (s rstD rstS : Nat) (cut : Bool) :
    Agree Flight.results c (c.stopJob s rstD rstS cut) := by
  unfold Chip.stopJob
  split
  · exact .refl
  · next j _ =>
    extract_lets c1 r m j1 c2 c3
    have h1 : Agree Flight.results c c1 := .ite (.of_keeps (Chip.raise_keeps ..)) .refl
    have hr : Agree Flight.results c r.1 := h1.keeps (Chip.stopFac_keeps ..)
    have h2 : Agree Flight.results c c2 := by
      dsimp only [c2]
      split
      · exact hr.keeps (Chip.facWrite_keeps ..)
      · exact hr
    have h3 : Agree Flight.results c c3 :=
      .ite (h1.keeps (Chip.endJob_keeps ..)) (.ite (h1.trans (Chip.failJob_results ..))
        (.ite (h1.trans (Chip.qpEnd_results ..))
          (.ite (h2.trans (Chip.qpEndStart_results ..)) (h2.keeps (Chip.endJob_keeps ..)))))
    exact .ite (h3.trans (Chip.reseedResult_results ..)) h3

theorem Chip.reseedOffer_results (c : Chip) (f : Nat) : Agree Flight.results c (c.reseedOffer f) := by
  unfold Chip.reseedOffer
  extract_lets x r stat
  split
  · exact .refl
  · have hr : Agree Flight.results c r.1 := .of_keeps (Chip.submit_keeps ..)
    exact .ite (((hr.keeps (Chip.setJob_keeps ..)).setFlight).keeps (Chip.raise_keeps ..)) (hr.setFlight)

theorem Chip.reseedDrop_results (c : Chip) (f : Nat) : Agree Flight.results c (c.reseedDrop f) := by
  unfold Chip.reseedDrop
  extract_lets x c1
  split
  · exact .refl
  · have h1 : Agree Flight.results c c1 := Agree.refl.setFlight.keeps (Chip.setFld_keeps ..)
    exact .ite (h1.trans (Chip.stopJob_results ..)) h1

theorem Chip.requestBank_results (c : Chip) (f slot : Nat) (reseed : Bool) :
    Agree Flight.results c (c.requestBank f slot reseed) := by
  unfold Chip.requestBank
  extract_lets c1 c2 x c3 q
  have h1 : Agree Flight.results c c1 := Chip.reseedDrop_results ..
  have h2 : Agree Flight.results c c2 := (h1.keeps (Chip.setFld_keeps ..)).keeps (Chip.raise_keeps ..)
  have h3 : Agree Flight.results c c3 := h2.setFlight (by exact h2.at_flight f)
  exact .ite (h1.keeps (Chip.setFld_keeps ..))
    (.ite ((h3.setFlight (by exact h3.at_flight f)).trans (Chip.reseedOffer_results ..)) h3)

theorem Chip.regions_results (c : Chip) (f : Nat) (y : List Int) (age : List Nat) :
    Agree Flight.results c (c.regions f y age) := by
  unfold Chip.regions
  split
  · exact .refl
  · extract_lets en frz frozen act holds
    split
    · exact .refl
    · split
      · exact .refl
      · extract_lets w slot c1
        have h1 : Agree Flight.results c c1 := (Agree.of_keeps (Chip.setFld_keeps ..)).keeps (Chip.raise_keeps ..)
        exact .ite (h1.trans (Chip.requestBank_results ..))
          ((h1.trans (Chip.reseedDrop_results ..)).keeps (Chip.bankMiss_keeps ..))

theorem Chip.stillAfter_results (c : Chip) (f : Nat) (u : Upd) : Agree Flight.results c (c.stillAfter f u) := by
  unfold Chip.stillAfter
  extract_lets x n c1 c2
  have h1 : Agree Flight.results c c1 := Agree.refl.setFlight
  have h2 : Agree Flight.results c c2 := .ite (h1.keeps (Chip.raise_keeps ..)) h1
  exact (h2.keeps (Chip.setFlag_keeps ..)).keeps (Chip.setFlag_keeps ..)

theorem Chip.flightRecord_results (c : Chip) (f : Nat) (u : Upd) (raised faults : Nat) (gone : Bool) :
    Agree Flight.results c (c.flightRecord f u raised faults gone) := by
  unfold Chip.flightRecord
  exact Agree.refl.setFlight.keeps (Chip.ledger_keeps ..)

theorem Chip.setAxis_agree {α : Type} {p : Nat → Flight → α} (c : Chip) (a : Nat) (x : Axis) : Agree p c (c.setAxis a x) :=
  ⟨fun _ => rfl⟩

theorem Chip.updateAfter_results (c : Chip) (f : Nat) (u : Upd) : Agree Flight.results c (c.updateAfter f u) := by
  unfold Chip.updateAfter
  extract_lets c1
  refine .trans (.each _ (fun c k => ?_) _ _) (Chip.regions_results ..)
  exact (Agree.ite (Chip.setAxis_agree ..) .refl).keeps (Chip.capCommand_keeps ..)

theorem Chip.putCommands_results (c : Chip) (f : Nat) (u : Upd) (cmd : List Int) :
    Agree Flight.results c (c.putCommands f u cmd) := by
  unfold Chip.putCommands
  extract_lets d
  refine .ite .refl (.each _ (fun _ _ => ?_) _ _)
  exact ⟨fun _ => rfl⟩

end Sys2Proof.Machine
end

section
/-! SUPPORT. The completion of an update (R54, R56, R57). -/

namespace Sys2Proof.Machine

/-! ## The law reads the memories only (R59) -/

theorem Chip.matRow_congr {a b : Chip} (h : b.mem = a.mem) (base : Nat) : b.matRow base = a.matRow base := by
  funext m i
  unfold Chip.matRow Chip.coef
  rw [h]

theorem Chip.expo_congr {a b : Chip} (h : b.mem = a.mem) (base : Nat) : b.expo base = a.expo base := by
  funext m i
  unfold Chip.expo
  rw [h]

theorem Chip.law_congr {a b : Chip} (h : b.mem = a.mem) (base : Nat) (i : LawIn) : b.law base i = a.law base i := by
  have hI : b.lawI base = a.lawI base := by
    funext i m
    unfold Chip.lawI
    rw [Chip.matRow_congr h, Chip.expo_congr h]
  have hS : b.lawS base = a.lawS base := by
    funext i inn k
    unfold Chip.lawS
    rw [Chip.matRow_congr h, Chip.expo_congr h]
  have hC : b.lawC base = a.lawC base := by
    funext i x k
    unfold Chip.lawC
    rw [Chip.matRow_congr h, Chip.expo_congr h]
  unfold Chip.law
  rw [hI, hS, hC]

theorem Chip.lawIn_congr {a b : Chip} (h : b.mem = a.mem) (f : Nat) : b.lawIn f = a.lawIn f := by
  funext x u y age r
  unfold Chip.lawIn Chip.fNx Chip.fNu Chip.fNy Chip.fAgeFrz Chip.intEntries Chip.intEntry
  simp only [Chip.lckW_congr h]

theorem Chip.bankBase_congr {a b : Chip} (h : b.mem = a.mem) (f slot : Nat) : b.bankBase f slot = a.bankBase f slot := by
  unfold Chip.bankBase Chip.bankPtr
  rw [Chip.lckW_congr h]

/-- What the law gives for the inputs fixed at the start of an update (R44). -/
def Chip.updLaw (c : Chip) (f : Nat) (u : Upd) : LawOut :=
  c.law (c.bankBase f u.slot) (c.lawIn f u.x u.u u.y u.age u.r)

theorem Chip.updLaw_congr {a b : Chip} (h : b.mem = a.mem) (f : Nat) (u : Upd) : b.updLaw f u = a.updLaw f u := by
  unfold Chip.updLaw
  rw [Chip.law_congr h, Chip.lawIn_congr h, Chip.bankBase_congr h]

/-! ## The completion -/

/-- Storing an update writes its results, and what follows leaves them. -/
theorem Chip.updateStore_results (c : Chip) (f : Nat) (u : Upd) :
    Agree Flight.results (c.setFlight f { c.flight f with
      xh := (c.updLaw f u).x, u := storedU u (c.updLaw f u).u, r := u.r }) (c.updateStore f u) := by
  unfold Chip.updateStore
  extract_lets x o c1 c2 c3 sat s m faults c4
  have h2 : Agree Flight.results c1 c2 := Chip.putCommands_results ..
  have hs : Agree Flight.results c1 s.1 := (h2.keeps (Chip.setFld_keeps ..)).keeps (Chip.setSat_keeps ..)
  have h4 : Agree Flight.results c1 c4 := (hs.keeps (Chip.measFault_keeps ..)).trans (Chip.flightRecord_results ..)
  exact (h4.trans (Chip.raiseFaults_results ..)).trans (Chip.updateAfter_results ..)

/-- An abandoned update stores nothing (R56). -/
theorem Chip.updateAbandon_results (c : Chip) (f : Nat) (u : Upd) (bank : Bool) :
    Agree Flight.results c (c.updateAbandon f u bank) := by
  unfold Chip.updateAbandon
  extract_lets c1 c2 m faults c3 fb c4
  have h1 : Agree Flight.results c c1 := (Agree.of_keeps (Chip.freeWord_keeps ..)).keeps (Chip.lckEcc_keeps ..)
  have h2 : Agree Flight.results c c2 := .ite (h1.keeps (Chip.raiseBit_keeps ..)) h1
  have h3 : Agree Flight.results c c3 :=
    ((h2.keeps (Chip.measFault_keeps ..)).trans (Chip.flightRecord_results ..)).trans (Chip.updateAfter_results ..)
  have h4 : Agree Flight.results c c4 := h3.trans (Chip.raiseFaults_results ..)
  exact .ite (h3.trans (Chip.raiseFaults_results ..))
    (.ite ((h3.trans (Chip.requestBank_results ..)).trans (Chip.raiseFaults_results ..))
      (h4.setFlight (by exact h4.at_flight f)))

/-- The device in the done tick of an update, before its results are stored or the update is abandoned: the update has left the
flight, its unit is free from the next tick, and standstill and a halt are settled. -/
def Chip.updateEnded (c : Chip) (f : Nat) (u : Upd) (ecc : BankEcc) : Chip :=
  let c := c.setFlight f { c.flight f with upd := none, doneP := some u.pound, freeT := c.now + 1 }
  let c := if ecc = .corrected then c.lckEcc false 0 else c
  (c.stillAfter f u).haltDone

theorem Chip.updateEnded_keeps (c : Chip) (f : Nat) (u : Upd) (ecc : BankEcc) : Keeps 0x8104C c (c.updateEnded f u ecc) := by
  unfold Chip.updateEnded
  extract_lets x c1 c2
  have h1 : Keeps 0x8104C c c1 := (Chip.setFlight_keeps ..).weaken rfl
  have h2 : Keeps 0x8104C c c2 := .ite (h1.trans (Chip.lckEcc_keeps ..) rfl) h1
  exact (h2.trans (Chip.stillAfter_keeps ..) rfl).trans (Chip.haltDone_keeps ..) rfl

theorem Chip.updateEnded_results (c : Chip) (f : Nat) (u : Upd) (ecc : BankEcc) :
    Agree Flight.results (c.setFlight f { c.flight f with upd := none, doneP := some u.pound }) (c.updateEnded f u ecc) := by
  unfold Chip.updateEnded
  extract_lets x c1 c2
  have h1 : Agree Flight.results (c.setFlight f { c.flight f with upd := none, doneP := some u.pound }) c1 := by
    refine ⟨fun g => ?_⟩
    simp only [c1, Chip.flight_setFlight]
    split <;> rfl
  have h2 := Agree.ite (q := ecc = .corrected) (h1.keeps (Chip.lckEcc_keeps _ false 0)) h1
  exact (h2.trans (Chip.stillAfter_results ..)).keeps (Chip.haltDone_keeps ..)

/-- The update in progress ends in its done tick, stored or abandoned. -/
theorem Chip.updateComplete_done {c : Chip} {f : Nat} {u : Upd} (hu : (c.flight f).upd = some u) (ht : u.done ≤ c.now)
    (ecc : BankEcc) :
    c.updateComplete f ecc = (if ecc = .bank then (c.updateEnded f u ecc).updateAbandon f u true
      else if ecc = .stored then (c.updateEnded f u ecc).updateAbandon f u false
      else (c.updateEnded f u ecc).updateStore f u) := by
  unfold Chip.updateComplete
  rw [hu]
  exact if_neg (Nat.not_lt.mpr ht)

/-- With no update in progress, or one whose done tick has not come, nothing ends. -/
theorem Chip.updateComplete_early {c : Chip} {f : Nat}
    (h : (c.flight f).upd = none ∨ ∃ u, (c.flight f).upd = some u ∧ c.now < u.done) (ecc : BankEcc) :
    c.updateComplete f ecc = c := by
  unfold Chip.updateComplete
  rcases h with hn | ⟨u, hu, ht⟩
  · rw [hn]
  · rw [hu]
    exact if_pos ht

theorem Chip.updateComplete_stores {c : Chip} {f : Nat} {u : Upd} (hu : (c.flight f).upd = some u) (ht : u.done ≤ c.now) :
    ((c.updateComplete f .none).flight f).results f
      = ((c.updLaw f u).x, storedU u (c.updLaw f u).u, u.r, none, some u.pound) := by
  have hlaw := Chip.updLaw_congr ((Chip.updateEnded_keeps c f u .none).mem rfl) f u
  have hend := (Chip.updateEnded_results c f u .none).at_flight f
  rw [Chip.flight_setFlight_same] at hend
  simp only [Flight.results, Prod.mk.injEq] at hend
  obtain ⟨-, -, -, hupd, hdone⟩ := hend
  rw [Chip.updateComplete_done hu ht, if_neg (by decide), if_neg (by decide),
    (Chip.updateStore_results _ f u).at_flight f, Chip.flight_setFlight_same, hlaw, Flight.results, hupd, hdone]

theorem Chip.updateComplete_abandons {c : Chip} {f : Nat} {u : Upd} (hu : (c.flight f).upd = some u) (ht : u.done ≤ c.now) :
    ((c.updateComplete f .bank).flight f).results f
      = ((c.flight f).xh, (c.flight f).u, (c.flight f).r, none, some u.pound) := by
  rw [Chip.updateComplete_done hu ht, if_pos rfl, (Chip.updateAbandon_results ..).at_flight f,
    (Chip.updateEnded_results ..).at_flight f, Chip.flight_setFlight_same]
  rfl

end Sys2Proof.Machine
end

section
/-! SUPPORT. The start of an update (R53, R62 to R68, R77 to R83): the mode and the bank it takes, and what it leaves alone. -/

namespace Sys2Proof.Machine

/-! ## What a start leaves of the flights -/

theorem Flight.apart_self (f : Nat) (x : Flight) : Flight.apart f f x = (none, x.owed) := by
  unfold Flight.apart; rw [if_pos rfl]

namespace Chip.Agree

variable {a b : Chip} {f : Nat}

/-- A write of flight `f` itself that keeps what it is owed. -/
theorem setFlight_self (h : Agree (Flight.apart f) a b) {x : Flight} (hx : x.owed = (a.flight f).owed := by rfl) :
    Agree (Flight.apart f) a (b.setFlight f x) :=
  h.setFlight (by rw [Flight.apart_self, Flight.apart_self, hx])

theorem owed_eq (h : Agree (Flight.apart f) a b) (g : Nat) : (b.flight g).owed = (a.flight g).owed :=
  congrArg Prod.snd (h.at_flight g)

theorem flight_ne (h : Agree (Flight.apart f) a b) {g : Nat} (hg : g ≠ f) : b.flight g = a.flight g := by
  have hfst := congrArg Prod.fst (h.at_flight g)
  simp only [Flight.apart, if_neg hg, Option.some.injEq] at hfst
  exact hfst

end Chip.Agree

/-! ## Modes -/

theorem Chip.fMode_congr {a b : Chip} (h : b.regs = a.regs) (f : Nat) : b.fMode f = a.fMode f := Chip.fld_congr h _

/-- Every branch answers with one of the five modes. -/
theorem Chip.nextMode_lt (c : Chip) (f n : Nat) : c.nextMode f n < 8 := by
  unfold Chip.nextMode
  extract_lets x reached
  split
  all_goals (repeat' split) <;> decide

/-- A flight in IDLE that is to enter TRACK runs its next update in TRACK (R63). -/
theorem Chip.nextMode_idle {c : Chip} {f : Nat} (h : c.fMode f = 0) (hw : (c.flight f).wantTrack = true) (n : Nat) :
    c.nextMode f n = 1 := by
  unfold Chip.nextMode
  rw [h]
  exact if_pos hw

/-- The queue of a flight emptied: no register changes but its queue status. -/
theorem Chip.clearQueue_reg_ne (c : Chip) (f o : Nat) (h : LCK_SEGQ_STAT f ≠ o) : (c.clearQueue f).reg o = c.reg o :=
  Chip.reg_setFld_ne _ (LCK_SEGQ_STAT__QUEUE_DRY f) 0 o h

theorem Chip.clearQueue_apart (c : Chip) (f : Nat) : Agree (Flight.apart f) c (c.clearQueue f) := by
  unfold Chip.clearQueue Chip.setQueue
  extract_lets x c1
  have h1 : Agree (Flight.apart f) c c1 := Agree.refl.setFlight_self
  exact .ite (h1.keeps (Chip.setFld_keeps ..)) h1

theorem Chip.takeMode_apart (c : Chip) (f m : Nat) : Agree (Flight.apart f) c (c.takeMode f m) := by
  unfold Chip.takeMode
  extract_lets old x c1 y c2
  have h1 : Agree (Flight.apart f) c c1 := .of_keeps (Chip.setFld_keeps ..)
  have h2 : Agree (Flight.apart f) c c2 := h1.setFlight_self
  exact .ite Agree.refl.setFlight_self (.ite (h2.trans (Chip.clearQueue_apart ..)) h2)

theorem LCK_SEGQ_STAT_ne_FSTAT (f : Nat) : LCK_SEGQ_STAT f ≠ LCK_FSTAT f := by
  unfold LCK_SEGQ_STAT LCK_FSTAT; omega

theorem fld_ok {off hi lo : Nat} (h : lo ≤ hi) (k : hi < 32) : (⟨off, hi, lo⟩ : Fld).ok := ⟨h, k⟩

/-- A flight that takes another mode: its status register changes in the MODE field only. -/
theorem Chip.takeMode_reg {c : Chip} {f m : Nat} (h : m ≠ c.fMode f) :
    (c.takeMode f m).reg (LCK_FSTAT f) = (c.setFld (LCK_FSTAT__MODE f) m).reg (LCK_FSTAT f) := by
  unfold Chip.takeMode
  extract_lets old x c1 y c2
  rw [if_neg h]
  split
  · exact Chip.clearQueue_reg_ne _ _ _ (LCK_SEGQ_STAT_ne_FSTAT f)
  · rfl

theorem Chip.takeMode_same {c : Chip} {f m : Nat} (h : m = c.fMode f) : (c.takeMode f m).regs = c.regs := by
  unfold Chip.takeMode
  rw [if_pos h]
  rfl

theorem Chip.takeMode_fMode (c : Chip) (f : Nat) {m : Nat} (hm : m < 8) : (c.takeMode f m).fMode f = m := by
  by_cases h : m = c.fMode f
  · exact (Chip.fMode_congr (Chip.takeMode_same h) f).trans h.symm
  · have hset : (c.setFld (LCK_FSTAT__MODE f) m).fMode f = m :=
      (Chip.fld_setFld _ _ _ (fld_ok (by decide) (by decide))).trans (Nat.mod_eq_of_lt hm)
    rw [Chip.fMode, Chip.fld, Chip.takeMode_reg h]
    exact hset

/-- The other fields of the status register stay. -/
theorem Chip.takeMode_fld {f : Nat} (c : Chip) (m : Nat) {hi lo : Nat} (hb : hi < 28) :
    (c.takeMode f m).fld ⟨LCK_FSTAT f, hi, lo⟩ = c.fld ⟨LCK_FSTAT f, hi, lo⟩ := by
  by_cases h : m = c.fMode f
  · exact Chip.fld_congr (Chip.takeMode_same h) _
  · rw [Chip.fld, Chip.takeMode_reg h]
    exact Chip.fld_setFld_apart c (LCK_FSTAT__MODE f) ⟨LCK_FSTAT f, hi, lo⟩ m (fld_ok (by decide) (by decide))
      (.inr (.inl hb))

/-! ## Entry to TRACK from IDLE (R81) -/

theorem Chip.initSlot_lt (c : Chip) (f : Nat) : bits (c.fCtl f) 3 0 < 16 := bits_lt _ _ _

/-- A usable INIT_SLOT becomes the active slot; the flight's mode and its pending swap stay. -/
theorem Chip.enterTrack_init {c : Chip} {f : Nat} (h : c.bankUsable f (bits (c.fCtl f) 3 0) = true) :
    ∃ e, c.enterTrack f = (e, true) ∧ Keeps 4 c e ∧ e.fMode f = c.fMode f
      ∧ e.flag (LCK_FSTAT__PEND_V f) = c.flag (LCK_FSTAT__PEND_V f)
      ∧ e.fld (LCK_FSTAT__ACTIVE f) = bits (c.fCtl f) 3 0 := by
  have henter : c.enterTrack f
      = ((c.setFld (LCK_FSTAT__REGION_V f) 0).setFld (LCK_FSTAT__ACTIVE f) (bits (c.fCtl f) 3 0), true) := if_pos h
  have happart : ∀ hi lo : Nat, 19 < lo → ((c.setFld (LCK_FSTAT__REGION_V f) 0).setFld (LCK_FSTAT__ACTIVE f)
      (bits (c.fCtl f) 3 0)).fld ⟨LCK_FSTAT f, hi, lo⟩ = c.fld ⟨LCK_FSTAT f, hi, lo⟩ := by
    intro hi lo hlo
    rw [Chip.fld_setFld_apart _ _ _ _ (fld_ok (by decide) (by decide)) (.inr (.inr hlo)),
      Chip.fld_setFld_apart _ (LCK_FSTAT__REGION_V f) ⟨LCK_FSTAT f, hi, lo⟩ _ (fld_ok (by decide) (by decide))
        (.inr (.inr (Nat.lt_trans (by decide : 11 < 19) hlo)))]
  refine ⟨_, henter, (Chip.setFld_keeps ..).trans (Chip.setFld_keeps ..) rfl, happart 30 28 (by decide), ?_, ?_⟩
  · unfold Chip.flag
    rw [happart 24 24 (by decide)]
  · exact (Chip.fld_setFld _ _ _ (fld_ok (by decide) (by decide))).trans (Nat.mod_eq_of_lt (Chip.initSlot_lt c f))

/-- No slot is usable: the flight stays in IDLE and CFG_REJ is set. -/
theorem Chip.enterTrack_unusable {c : Chip} {f : Nat} (h : ∀ b < 16, c.bankUsable f b = false) :
    c.enterTrack f
      = ((c.setFlight f { c.flight f with idleOut := true, wantTrack := false }).raise LCK_STATUS__CFG_REJ, false) := by
  have hnone : (List.range 16).find? (c.bankUsable f) = none :=
    List.find?_eq_none.mpr (fun b hb => by rw [h b (List.mem_range.mp hb)]; decide)
  unfold Chip.enterTrack
  extract_lets init c0
  rw [if_neg (by rw [h _ (Chip.initSlot_lt c f)]; decide), hnone]

/-! ## Swaps and limiters -/

theorem Chip.swapAtStart_apart (c : Chip) (f : Nat) : Agree (Flight.apart f) c (c.swapAtStart f).1 := by
  unfold Chip.swapAtStart
  extract_lets x slot due c1 old c2
  clear_value due
  split
  · exact .refl
  · have h1 : Agree (Flight.apart f) c c1 := Agree.refl.setFlight_self
    split
    · exact h1.keeps (Chip.bankMiss_keeps ..)
    · exact (((h1.keeps (Chip.setFld_keeps ..)).keeps (Chip.setFld_keeps ..)).keeps (Chip.raise_keeps ..)).keeps
        (Chip.logEvent_keeps ..)

/-- With no swap pending none is made. -/
theorem Chip.swapAtStart_none {c : Chip} {f : Nat} (h : c.flag (LCK_FSTAT__PEND_V f) = false) :
    c.swapAtStart f = (c, none, false) := by
  unfold Chip.swapAtStart
  extract_lets x slot due
  have hdue : due = none := if_pos h
  rw [hdue]

/-- The limiters of a flight touch its axes only. -/
theorem Chip.limiters_apart (c : Chip) (f mode : Nat) (first : Bool) (o : Owed) :
    Agree (Flight.apart f) c (c.limiters f mode first o).1 := by
  unfold Chip.limiters
  refine Agree.foldl1 _ (fun acc k => ?_) _ (c, [], false)
  exact Chip.setAxis_agree ..

/-! ## The start -/

/-- The update that starts in `e`, the device in which the flight has a mode to leave: what stands of the device just before the
update is entered in the flight (`d`), and the update `u`. -/
structure UpdateStarts (e : Chip) (f : Nat) (o : Owed) (d : Chip) (u : Upd) : Prop where
  keeps : Keeps 0x1044 e d
  apart : Chip.Agree (Flight.apart f) e d
  start : u.start = e.now
  done : u.done = e.now + updateCycles (e.fNx f) (e.fNu f) (e.fNy f) (e.fPair f)
  pound : u.pound = o.pound
  mode : u.mode = e.nextMode f o.pound
  y : u.y = o.conv.map (·.1)
  unswapped : e.flag (LCK_FSTAT__PEND_V f) = false →
    u.slot = e.fld (LCK_FSTAT__ACTIVE f) ∧ d.fMode f = e.nextMode f o.pound

theorem updateCycles_congr {a b : Chip} (h : b.mem = a.mem) (f : Nat) :
    updateCycles (b.fNx f) (b.fNu f) (b.fNy f) (b.fPair f) = updateCycles (a.fNx f) (a.fNu f) (a.fNy f) (a.fPair f) := by
  unfold Chip.fNx Chip.fNu Chip.fNy Chip.fPair
  simp only [Chip.lckW_congr h]

theorem Chip.updateStart_out {c e : Chip} {f : Nat}
    (he : (if c.fMode f = 0 then c.enterTrack f else (c, true)) = (e, false)) (o : Owed) : c.updateStart f o = e := by
  unfold Chip.updateStart
  rw [he]
  exact if_pos rfl

/-- A flight that has a mode, or enters TRACK, starts its update. -/
theorem Chip.updateStart_starts {c e : Chip} {f : Nat}
    (he : (if c.fMode f = 0 then c.enterTrack f else (c, true)) = (e, true)) (o : Owed) :
    ∃ d u, c.updateStart f o = d.setFlight f { d.flight f with upd := some u, startedP := some o.pound, firstRun := false }
      ∧ UpdateStarts e f o d u := by
  unfold Chip.updateStart
  rw [he]
  extract_lets enter c0 c1 mode first sw c2 y inp lim c3 zero u x
  have hmode : mode = e.nextMode f o.pound := Chip.takeMode_fMode _ _ (Chip.nextMode_lt ..)
  have hlim : Keeps 0x1000 c2 c3 := Chip.limiters_keeps ..
  have hkeeps : Keeps 0x1044 e c3 :=
    (((Chip.takeMode_keeps ..).weaken rfl : Keeps 0x1044 e c1).trans (Chip.swapAtStart_keeps ..) rfl).trans hlim rfl
  have hnow : c3.now = e.now := hkeeps.now rfl
  refine ⟨c3, u, if_neg Bool.noConfusion, hkeeps, ?_, hnow, ?_, rfl, hmode, rfl, fun hp => ?_⟩
  · exact ((Chip.takeMode_apart ..).trans (Chip.swapAtStart_apart ..)).trans (Chip.limiters_apart ..)
  · change c3.now + updateCycles (c3.fNx f) (c3.fNu f) (c3.fNy f) (c3.fPair f) = _
    rw [hnow, updateCycles_congr (hkeeps.mem rfl)]
  · have hpend : c1.flag (LCK_FSTAT__PEND_V f) = false := by
      unfold Chip.flag at hp ⊢
      rw [Chip.takeMode_fld _ _ (by decide)]
      exact hp
    have hsw : c2 = c1 := congrArg Prod.fst (Chip.swapAtStart_none hpend)
    have hregs : c3.regs = c1.regs := hsw ▸ hlim.regs rfl
    exact ⟨(Chip.fld_congr hregs _).trans (Chip.takeMode_fld _ _ (by decide)), (Chip.fMode_congr hregs f).trans hmode⟩

end Sys2Proof.Machine
end

section
/-! PROOF. The turn of a flight's next update, and the statement on FLIGHT_UPDATE_START and FLIGHT_UPDATE_COMPLETE. -/

namespace Sys2Proof.Machine

/-! ## The update that comes next -/

/-- The device once the oldest update owed to a flight is taken up, if one is owed. -/
def Chip.dropOwed (c : Chip) (f : Nat) : Chip := match (c.flight f).owed with
  | [] => c
  | _ :: rest => c.setFlight f { c.flight f with owed := rest }

theorem Chip.dropOwed_keeps (c : Chip) (f : Nat) : Keeps 0x1000 c (c.dropOwed f) := by
  unfold Chip.dropOwed
  split
  · exact Keeps.refl
  · exact Chip.setFlight_keeps ..

theorem Flight.drop_of_owed_nil {x : Flight} (h : x.owed = []) : { x with owed := x.owed.drop 1 } = x := by
  cases x
  simp only at h
  subst h
  rfl

theorem Chip.dropOwed_flight_same (c : Chip) (f : Nat) :
    (c.dropOwed f).flight f = { c.flight f with owed := (c.flight f).owed.drop 1 } := by
  unfold Chip.dropOwed
  split
  · next h => exact (Flight.drop_of_owed_nil h).symm
  · next h => rw [Chip.flight_setFlight_same, h]; rfl

theorem Chip.dropOwed_flight_ne (c : Chip) {f g : Nat} (h : g ≠ f) : (c.dropOwed f).flight g = c.flight g := by
  unfold Chip.dropOwed
  split
  · rfl
  · rw [Chip.flight_setFlight, if_neg h.symm]

theorem Chip.dropOwed_nextMode (c : Chip) (f n : Nat) : (c.dropOwed f).nextMode f n = c.nextMode f n := by
  unfold Chip.nextMode
  rw [Chip.dropOwed_flight_same, Chip.fMode_congr ((Chip.dropOwed_keeps c f).regs rfl),
    Chip.flag_congr ((Chip.dropOwed_keeps c f).regs rfl)]

theorem Chip.fCtl_congr {a b : Chip} (h : b.mem = a.mem) (f : Nat) : b.fCtl f = a.fCtl f := Chip.lckW_congr h _

theorem Chip.bankUsable_congr {a b : Chip} (h : b.mem = a.mem) (k : b.regs = a.regs) (f slot : Nat) :
    b.bankUsable f slot = a.bankUsable f slot := by
  unfold Chip.bankUsable Chip.bankValid Chip.bankPtr Chip.bankFailed
  rw [Chip.lckW_congr h, Chip.fld_congr k]

/-- A flight that may start takes up its oldest update owed, or this pound's (R24, R53). -/
theorem Chip.updateTurn_starts {c : Chip} {f r : Nat} (hw : c.waitTick f = some r) (hm : c.mayStart f r = true) :
    c.updateTurn f = (c.dropOwed f).updateStart f (((c.flight f).owed.head?).getD (c.dueUpdate f r)) := by
  unfold Chip.updateTurn Chip.dropOwed
  rw [hw]
  dsimp only
  rw [if_pos hm]
  cases (c.flight f).owed <;> rfl

theorem Chip.updateTurn_waits {c : Chip} {f : Nat} (h : ∀ r, c.waitTick f = some r → c.mayStart f r = false) :
    c.updateTurn f = c := by
  unfold Chip.updateTurn
  split
  · rfl
  · next r hw => rw [h r hw]; rfl

/-- A flight in IDLE waits for an update only when it is to enter TRACK. -/
theorem Chip.waitTick_idle {c : Chip} {f r : Nat} (hw : c.waitTick f = some r) (h0 : c.fMode f = 0) :
    (c.flight f).wantTrack = true := by
  have hact : c.fActive f = true := by
    unfold Chip.waitTick at hw
    split at hw
    · exact Decidable.byContradiction (fun h => by rw [if_neg h] at hw; cases hw)
    · have hwaits : c.fWaits f = true := Decidable.byContradiction (fun h => by rw [if_neg h] at hw; cases hw)
      simp only [Chip.fWaits, Bool.and_eq_true] at hwaits
      exact hwaits.1.2
  simp only [Chip.fActive, h0, Bool.and_eq_true] at hact
  exact hact.2

/-- A flight that has a mode starts its update from that mode. -/
theorem Chip.updateTurn_moded {c : Chip} {f r : Nat} (hw : c.waitTick f = some r) (hm : c.mayStart f r = true)
    (h0 : c.fMode f ≠ 0) {o : Owed} (ho : ((c.flight f).owed.head?).getD (c.dueUpdate f r) = o) :
    ∃ d u, c.updateTurn f = d.setFlight f { d.flight f with upd := some u, startedP := some o.pound, firstRun := false }
      ∧ UpdateStarts (c.dropOwed f) f o d u := by
  rw [Chip.updateTurn_starts hw hm, ho]
  refine Chip.updateStart_starts (if_neg ?_) o
  rwa [Chip.fMode_congr ((Chip.dropOwed_keeps c f).regs rfl)]

/-- A flight in IDLE with a usable INIT_SLOT and no swap pending starts its first update in TRACK on that bank (R81). -/
theorem Chip.updateTurn_enters {c : Chip} {f r : Nat} (hw : c.waitTick f = some r) (hm : c.mayStart f r = true)
    (h0 : c.fMode f = 0) (hb : c.bankUsable f (bits (c.fCtl f) 3 0) = true)
    (hp : c.flag (LCK_FSTAT__PEND_V f) = false) :
    (c.updateTurn f).now = c.now ∧ (c.updateTurn f).fMode f = 1
      ∧ ((c.updateTurn f).flight f).upd.map (fun u => (u.start, u.mode, u.slot)) = some (c.now, 1, bits (c.fCtl f) 3 0) := by
  have hk := Chip.dropOwed_keeps c f
  have hregs := hk.regs rfl
  have hctl := Chip.fCtl_congr (hk.mem rfl) f
  have hidle : (c.dropOwed f).fMode f = 0 := (Chip.fMode_congr hregs f).trans h0
  obtain ⟨e, he, hke, hmode, hpend, hslot⟩ := Chip.enterTrack_init (c := c.dropOwed f) (f := f)
    (by rw [hctl, Chip.bankUsable_congr (hk.mem rfl) hregs]; exact hb)
  obtain ⟨d, u, hturn, hstart⟩ :=
    Chip.updateStart_starts ((if_pos hidle).trans he) (((c.flight f).owed.head?).getD (c.dueUpdate f r))
  rw [← Chip.updateTurn_starts hw hm] at hturn
  have hwant : (e.flight f).wantTrack = true := by
    rw [Chip.flight_congr (hke.lck rfl), Chip.dropOwed_flight_same]
    exact Chip.waitTick_idle hw h0
  have hnext := Chip.nextMode_idle (hmode.trans hidle) hwant
  have hnow : e.now = c.now := (hke.now rfl).trans (hk.now rfl)
  obtain ⟨hactive, htrack⟩ := hstart.unswapped (hpend.trans ((Chip.flag_congr hregs _).trans hp))
  rw [hturn, Chip.flight_setFlight_same]
  refine ⟨(hstart.keeps.now rfl).trans hnow, htrack.trans (hnext _), ?_⟩
  rw [Option.map_some, hstart.start, hstart.mode, hnext, hactive, hslot, hctl, hnow]

/-- A flight in IDLE without a usable bank stays there (R81). -/
theorem Chip.updateTurn_unusable {c : Chip} {f r : Nat} (hw : c.waitTick f = some r) (hm : c.mayStart f r = true)
    (h0 : c.fMode f = 0) (hb : ∀ b < 16, c.bankUsable f b = false) :
    ((c.updateTurn f).flight f).idleOut = true ∧ ((c.updateTurn f).flight f).upd = (c.flight f).upd
      ∧ (c.updateTurn f).flag LCK_STATUS__CFG_REJ = true
      ∧ ∀ o, o ∉ [LCK_STATUS] → (c.updateTurn f).reg o = c.reg o := by
  have hk := Chip.dropOwed_keeps c f
  have hregs := hk.regs rfl
  have hidle : (c.dropOwed f).fMode f = 0 := (Chip.fMode_congr hregs f).trans h0
  have henter := Chip.enterTrack_unusable (c := c.dropOwed f) (f := f)
    (fun b hlt => (Chip.bankUsable_congr (hk.mem rfl) hregs f b).trans (hb b hlt))
  have hturn := Chip.updateTurn_starts hw hm
  rw [Chip.updateStart_out ((if_pos hidle).trans henter)] at hturn
  rw [hturn, Chip.flight_congr (Chip.raise_lck ..), Chip.flight_setFlight_same, Chip.dropOwed_flight_same]
  refine ⟨rfl, rfl, Chip.flag_raise _ ⟨by decide, by decide⟩ rfl, fun o ho => ?_⟩
  rw [Chip.reg_raise_ne _ (fun e => ho (List.mem_singleton.mpr e.symm))]
  exact Chip.reg_congr hregs o

/-! ## The statement -/

theorem State.flightUpdateStart_next {s : State} {t : Nat} (hr : s.chip.ready t) (f : Fin 32) :
    exec (.flightUpdateStart t f) s = .next { s with chip := ((s.chip.at t).updateTurn f.val).settle } :=
  (exec_flightUpdateStart t f s).trans (State.event_run s t (fun c => c.updateTurn f.val) hr.1)

theorem State.flightUpdateComplete_next {s : State} {t : Nat} (hr : s.chip.ready t) (f : Fin 32) (e : BankEcc) :
    exec (.flightUpdateComplete t f e) s = .next { s with chip := ((s.chip.at t).updateComplete f.val e).settle } :=
  (exec_flightUpdateComplete t f e s).trans (State.event_run s t (fun c => c.updateComplete f.val e) hr.1)

theorem Chip.flight_settle (c : Chip) (g : Nat) : c.settle.flight g = c.flight g := Chip.flight_congr (Chip.settle_lck c) g

/-- Settles O30: a start takes its mode and bank from the flight as it stands and keeps the other flights, and after a completion
has stored its results nothing in its tick writes them again. -/
theorem flightUpdatesStartAndComplete : Obligations.FlightUpdatesStartAndComplete := by
  intro s t f hr
  have hnow : (s.chip.at t).now = t := Chip.at_now_ready hr
  refine ⟨fun r o hw hm h0 ho => ?moded, fun r hw hm h0 hb hp => ?enters, fun h => ?waits, fun r hw hm h0 hb => ?unusable,
    fun u hu ht => ?stored, fun u hu ht => ?abandoned, fun e h => ?early⟩
  case moded =>
    obtain ⟨d, u, hturn, hstart⟩ := Chip.updateTurn_moded hw hm h0 ho
    have hk := Chip.dropOwed_keeps (s.chip.at t) f.val
    have hregs := hk.regs rfl
    have hdrop := Chip.dropOwed_flight_same (s.chip.at t) f.val
    refine ⟨_, State.flightUpdateStart_next hr f, ?_⟩
    rw [hturn, Chip.settle_now, Chip.flight_settle, Chip.flight_setFlight_same]
    refine ⟨(hstart.keeps.now rfl).trans ((hk.now rfl).trans hnow), rfl, ?_, ?_, fun hp => ?_, fun g hg => ?_⟩
    · rw [hstart.apart.owed_eq, hdrop]
      rfl
    · rw [Option.map_some, hstart.start, hstart.done, hstart.pound, hk.now rfl, hnow, updateCycles_congr (hk.mem rfl)]
      rfl
    · obtain ⟨hslot, -⟩ := hstart.unswapped ((Chip.flag_congr hregs _).trans hp)
      rw [Option.map_some, hstart.mode, hstart.y, hslot, Chip.dropOwed_nextMode, Chip.fld_congr hregs]
      rfl
    · rw [Chip.flight_settle, Chip.flight_setFlight, if_neg hg.symm, hstart.apart.flight_ne hg, Chip.dropOwed_flight_ne _ hg]
      rfl
  case enters =>
    obtain ⟨hn, hmode, hupd⟩ := Chip.updateTurn_enters hw hm h0 hb hp
    refine ⟨_, State.flightUpdateStart_next hr f, (Chip.settle_now _).trans (hn.trans hnow),
      (Chip.settle_fld ..).trans hmode, ?_⟩
    rw [Chip.flight_settle, hupd, hnow]
    rfl
  case waits =>
    refine ⟨_, State.flightUpdateStart_next hr f, ?_⟩
    rw [Chip.updateTurn_waits h]
    exact ⟨(Chip.settle_now _).trans hnow, Chip.settle_lck _, Chip.settle_regs _⟩
  case unusable =>
    obtain ⟨hidle, hupd, hrej, hreg⟩ := Chip.updateTurn_unusable hw hm h0 hb
    refine ⟨_, State.flightUpdateStart_next hr f, ?_⟩
    rw [Chip.flight_settle, Chip.settle_flag]
    exact ⟨hidle, hupd, hrej, Chip.regsBut_settle hreg⟩
  case stored =>
    have h := Chip.updateComplete_stores (c := s.chip.at t) hu (Nat.le_trans ht (Nat.le_of_eq hnow.symm))
    simp only [Flight.results, Prod.mk.injEq] at h
    obtain ⟨hxh, hcmd, hset, hupd, hdone⟩ := h
    refine ⟨_, State.flightUpdateComplete_next hr f .none, ?_⟩
    rw [Chip.flight_settle, Chip.settle_now]
    exact ⟨((Chip.updateComplete_keeps ..).now rfl).trans hnow, hupd, hdone, hxh, hset, hcmd⟩
  case abandoned =>
    have h := Chip.updateComplete_abandons (c := s.chip.at t) hu (Nat.le_trans ht (Nat.le_of_eq hnow.symm))
    simp only [Flight.results, Prod.mk.injEq] at h
    obtain ⟨hxh, hcmd, -, hupd, hdone⟩ := h
    refine ⟨_, State.flightUpdateComplete_next hr f .bank, ?_⟩
    rw [Chip.flight_settle, Chip.settle_now]
    exact ⟨((Chip.updateComplete_keeps ..).now rfl).trans hnow, hupd, hdone, hxh, hcmd⟩
  case early =>
    refine ⟨_, State.flightUpdateComplete_next hr f e, ?_⟩
    rw [Chip.updateComplete_early (by rw [hnow]; exact h)]
    exact ⟨(Chip.settle_now _).trans hnow, Chip.settle_lck _, Chip.settle_regs _⟩

end Sys2Proof.Machine
end

section
/-! PROOF. The statement on chainage, refuted: the dividers take no step while the running chainage is not ahead of the count they
last saw (R209). -/

namespace Sys2Proof.Machine

/-- A device whose firmware runs, right after its cold reset. -/
def Chip.started : Chip := { Chip.initial Otp.init [] with boot := { Boot.init Otp.init [] with phase := .run } }

/-- Chainage that is not ahead of the count the dividers last saw, the difference taken as signed, has not risen. -/
theorem Chip.chainRise_of_not_ahead {c : Chip} (h : modDiff 48 (c.tb5 / 2 ^ 16) c.pf.chain.whole ≤ 0) : c.chainRise = c := by
  have hzero : (modDiff 48 (c.tb5 / 2 ^ 16) c.pf.chain.whole).toNat = 0 := Int.toNat_of_nonpos h
  exact if_neg (fun hrise => hrise.2 hzero)

/-- Then CHAINAGE_COUNT_RISE changes nothing of the position feedback. -/
theorem State.chainageCountRise_not_ahead {s s' : State} {t : Nat} (hr : s.chip.ready t)
    (h : modDiff 48 ((s.chip.at t).tb5 / 2 ^ 16) s.chip.pf.chain.whole ≤ 0)
    (hnext : exec (.chainageCountRise t) s = .next s') : s'.chip.pf = s.chip.pf := by
  rw [exec_chainageCountRise, execChainageCountRise, State.event_run s t _ hr.1,
    Chip.chainRise_of_not_ahead (c := s.chip.at t) h] at hnext
  obtain rfl := Host.Outcome.next.inj hnext
  exact Chip.settle_pf _

/-- A twin in STANDBY with chainage enabled and at 0, one count behind the count its dividers last saw: such a twin takes C(n)
from the primary's record, where it had run on by itself at the INC of the record before (R96, R445). -/
def State.chainageBehind : State :=
  let c := (Chip.started.setFld AQU_ROLE__ROLE 2).setFld POS_CHN_CFG__EN 1
  ⟨c.setChain { c.pf.chain with whole := 1 }, []⟩

/-- Refutes O36: where the chainage stands at 0 and the dividers last saw the count 1, CHAINAGE_COUNT_RISE keeps that count, for
the difference is −1 and nothing has risen. The statement takes the difference modulo 2⁴⁸ as it is: it has the count replaced by 0
and lets the dividers take 2⁴⁸ − 1 steps. -/
theorem not_chainageIsSetOnlyAtRest : ¬ Obligations.ChainageIsSetOnlyAtRest := by
  intro h
  obtain ⟨-, -, -, -, -, -, -, -, -, -, -, hrise, -⟩ := h State.chainageBehind 0 .spi 0 0 []
  have hready : State.chainageBehind.chip.ready 0 := ⟨rfl, Nat.le_refl 0⟩
  obtain ⟨s', hnext, -, hchain, -⟩ := hrise hready (by decide +kernel)
  have hkept : s'.chip.pf = State.chainageBehind.chip.pf :=
    State.chainageCountRise_not_ahead hready (by decide +kernel) hnext
  rw [hkept] at hchain
  exact absurd (congrArg Chain.whole hchain) (by decide +kernel)

end Sys2Proof.Machine
end

section
/-! PROOF. The statement on the Manifest, refuted: at the end of every command the interrupt messages that are due leave the device
(R475), at the end of a pulse of a device that does not drive the pin too. -/

namespace Sys2Proof.Machine

/-- A twin in STANDBY whose output 0 has a pulse that ends at tick 5, with a message held for vector 0, which is not masked (its
control word, at offset 0x20C, is 0). -/
def State.messageHeld : State :=
  let c := Chip.started.setFld AQU_ROLE__ROLE 2
  ⟨{ c with man := { c.man with level := 1, falls := [(0, some 5)] }
            hst := { c.hst with pba := 1, msix := [(0x20C, 0)] } }, []⟩

/-- The end of the pulse itself sends nothing; the message leaves with the end of the command. -/
theorem State.messageHeld_pulseEnd :
    ((State.messageHeld.chip.at State.messageHeld.chip.now).pulseEnd 0).out = State.messageHeld.chip.out
      ∧ ((State.messageHeld.chip.at State.messageHeld.chip.now).pulseEnd 0).settle.out = [.msix 0] := by
  decide +kernel

/-- Refutes O37: OUT_PULSE_END of a device that does not drive its pins sends no pin edge, but the message held in
`State.messageHeld` leaves at its end, and the statement has nothing leave. -/
theorem not_manifestEntriesFireInOrder : ¬ Obligations.ManifestEntriesFireInOrder := by
  intro h
  obtain ⟨-, -, -, -, -, -, -, -, -, hpulse, -⟩ := h State.messageHeld 0 .spi 0 0 []
  obtain ⟨s', hnext, -, -, -, -, hquiet, -⟩ := hpulse 0 5 rfl (by decide +kernel)
  have hout : s'.chip.out = [.msix 0] := by
    rw [exec_outPulseEnd, execOutPulseEnd, State.event_run _ _ _ rfl] at hnext
    obtain rfl := Host.Outcome.next.inj hnext
    exact State.messageHeld_pulseEnd.2
  rw [hquiet (by decide +kernel)] at hout
  exact absurd hout (by decide +kernel)

end Sys2Proof.Machine
end

section
/-! SUPPORT. The end of an ACCEPTED command: what its final reply and COMPLETION event leave of the replies that have gone, of the
registers and of the list of long commands (R473, R488). -/

namespace Sys2Proof.Machine

/-! ## A host event writes registers of the event FIFOs alone -/

theorem Chip.reg_count_ne (c : Chip) {x : Fld} {o : Nat} (n : Nat) (h : x.off ≠ o) : (c.count x n).reg o = c.reg o :=
  Chip.reg_setReg_ne _ _ _ _ h

theorem Chip.reg_each {β : Type} {o : Nat} (f : Chip → β → Chip) (h : ∀ c x, (f c x).reg o = c.reg o) (xs : List β)
    (c : Chip) : (c.each xs f).reg o = c.reg o := by
  unfold Chip.each
  induction xs generalizing c with
  | nil => rfl
  | cons x xs ih => exact (ih _).trans (h c x)

section EventFifo
variable {o : Nat} (ho : 0x0100 ≤ o)
include ho

/-- The last register a host event may write is the drop counter of the last event FIFO, at 0x00D4. -/
theorem Chip.ladDropped_reg (c : Chip) (i : Fin 4) : (c.ladDropped (.evt i)).reg o = c.reg o := by
  have hi := i.isLt
  have hstat : LadId.stat (.evt i) ≠ o := by simp only [LadId.stat, HST_EVT_LAD_STAT]; omega
  have hdrop : LadId.drop (.evt i) ≠ o := by simp only [LadId.drop, HST_EVT_LAD_DROP]; omega
  have hint : HST_INT_STATUS ≠ o := by unfold HST_INT_STATUS; omega
  exact (Chip.reg_raise_ne _ hint).trans ((Chip.reg_count_ne _ _ hdrop).trans (Chip.reg_raise_ne _ hstat))

theorem Chip.ladWhole_reg (c : Chip) (i : Fin 4) (ws : List LadWord) : (c.ladWhole (.evt i) ws).reg o = c.reg o := by
  unfold Chip.ladWhole
  dsimp only
  split
  · rfl
  · split
    · exact Chip.ladDropped_reg ho c i
    · rfl

theorem Chip.eventBefore_reg (c : Chip) (i : Fin 4) (src : Nat) (payload : List Word) (early late : List (List LadWord)) :
    (c.eventBefore i src payload early late).reg o = c.reg o := by
  unfold Chip.eventBefore
  dsimp only
  exact (Chip.reg_each _ (fun _ _ => Chip.ladWhole_reg ho _ _ _) _ _).trans (Chip.ladWhole_reg ho _ _ _)

theorem Chip.hostEvent_reg (c : Chip) (src : Nat) (payload : List Word) : (c.hostEvent src payload).reg o = c.reg o := by
  unfold Chip.hostEvent
  split
  · dsimp only
    split
    · exact Chip.ladWhole_reg ho _ _ _
    · exact Chip.eventBefore_reg ho _ _ _ _ _ _
  · rfl

end EventFifo

/-! ## The long commands in progress -/

theorem Hst.longs_of_main {x y : Hst} (h : y.main = x.main) : y.longs = x.longs := by
  simp only [Hst.main, Prod.mk.injEq] at h
  obtain ⟨-, -, -, -, -, -, h, -⟩ := h
  exact h

theorem Hst.waits_of_main {x y : Hst} (h : y.main = x.main) : y.pendCpl = x.pendCpl ∧ y.spiReplies = x.spiReplies := by
  simp only [Hst.main, Prod.mk.injEq] at h
  obtain ⟨-, -, -, -, -, -, -, hcpl, -, hspi, -⟩ := h
  exact ⟨hcpl, hspi⟩

theorem Chip.deliver_longs (c : Chip) (org : Origin) (ws : List Word) (final : Bool) :
    (c.deliver org ws final).hst.longs = c.hst.longs := by
  unfold Chip.deliver
  cases org.ifc
  case pcie =>
    dsimp only
    split
    · rfl
    · split <;> rfl
  case spi => dsimp only [Chip.onlyIf]; split <;> split <;> rfl
  all_goals dsimp only; split <;> rfl

theorem Chip.answerWaiting_longs (c : Chip) (k : Intake) : (c.answerWaiting k).hst.longs = c.hst.longs := by
  unfold Chip.answerWaiting
  split
  · rfl
  · exact Chip.deliver_longs ..
  · unfold Chip.failedFetch
    split <;> rfl

theorem Chip.intakeFlush_longs (c : Chip) (i : Iface) (n : Nat) : (c.intakeFlush i n).hst.longs = c.hst.longs := by
  induction n generalizing c with
  | zero => rfl
  | succ n ih =>
    unfold Chip.intakeFlush
    split
    · rfl
    · split
      · rfl
      · rw [ih, Chip.answerWaiting_longs]

theorem Chip.taken_longs (c : Chip) (t op : Nat) (ifc : Iface) (tag target : Word) (pl : List Word) :
    (c.taken t op ifc tag target pl).hst.longs = c.hst.longs := by
  unfold Chip.taken Chip.takeIntake
  split <;> rfl

@[simp] theorem Chip.settle_longs (c : Chip) : c.settle.hst.longs = c.hst.longs :=
  Hst.longs_of_main (Chip.settle_hst_main c)

theorem Chip.longFree_congr {a b : Chip} (h : b.hst.longs = a.hst.longs) (op arg : Nat) :
    b.longFree op arg = a.longFree op arg := by
  unfold Chip.longFree; rw [h]

/-! ## The final reply -/

/-- The device with its list of long commands replaced. -/
def Chip.setLongs (c : Chip) (l : List LongCmd) : Chip := { c with hst := { c.hst with longs := l } }

/-- The device once the final reply of a long command has been sent, before its COMPLETION event. -/
def Chip.finalReply (c : Chip) (l : LongCmd) (st d : Nat) (pl : List Word) : Chip :=
  ((c.setLongs (c.hst.longs.erase l)).stat (9 + st)).deliver l.org (replyWords l.op l.tag st d pl) true

theorem Chip.finish_eq (c : Chip) (l : LongCmd) (st d : Nat) (pl : List Word) :
    c.finish l st d pl = if l.org.posted then c.finalReply l st d pl
      else (c.finalReply l st d pl).hostEvent 3 ((replyWords l.op l.tag st d pl).take 4) := rfl

theorem Chip.finish_hst_main (c : Chip) (l : LongCmd) (st d : Nat) (pl : List Word) :
    (c.finish l st d pl).hst.main = (c.finalReply l st d pl).hst.main := by
  rw [Chip.finish_eq]
  split
  · rfl
  · exact (Chip.hostEvent_keeps ..).hst rfl

/-- The command that ends leaves the list of long commands. -/
theorem Chip.finish_longs (c : Chip) (l : LongCmd) (st d : Nat) (pl : List Word) :
    (c.finish l st d pl).hst.longs = c.hst.longs.erase l :=
  (Hst.longs_of_main (Chip.finish_hst_main c l st d pl)).trans (Chip.deliver_longs ..)

/-- A final reply adds to the replies that wait. -/
theorem Chip.finish_waits (c : Chip) (l : LongCmd) (st d : Nat) (pl : List Word) :
    c.hst.pendCpl <+: (c.finish l st d pl).hst.pendCpl ∧ c.hst.spiReplies <+: (c.finish l st d pl).hst.spiReplies := by
  obtain ⟨hcpl, hspi⟩ := Hst.waits_of_main (Chip.finish_hst_main c l st d pl)
  rw [hcpl, hspi]
  exact Chip.deliver_waits ((c.setLongs (c.hst.longs.erase l)).stat (9 + st)) ..

theorem Chip.finish_reg {o : Nat} (ho : 0x0100 ≤ o) (c : Chip) (l : LongCmd) (st d : Nat) (pl : List Word) :
    (c.finish l st d pl).reg o = c.reg o := by
  have hreply : (c.finalReply l st d pl).reg o = c.reg o := Chip.reg_congr ((Chip.deliver_keeps ..).regs rfl) o
  rw [Chip.finish_eq]
  split
  · exact hreply
  · exact (Chip.hostEvent_reg ho ..).trans hreply

/-- A reply that has gone stays gone while what has left and what waits only grows and the command ports stand. -/
theorem Chip.replyGone_mono {a b : Chip} {org : Origin} {ws : List Word} (hout : a.out <+: b.out)
    (hwaits : a.hst.pendCpl <+: b.hst.pendCpl ∧ a.hst.spiReplies <+: b.hst.spiReplies)
    (hport : ∀ m, b.fld (HST_ETH_CFG__CMD_PORT m) = a.fld (HST_ETH_CFG__CMD_PORT m)) (h : a.replyGone org ws) :
    b.replyGone org ws := by
  obtain ⟨hcpl, hspi⟩ := hwaits
  unfold Chip.replyGone at h ⊢
  cases hi : org.ifc
  all_goals rw [hi] at h
  case pcie =>
    dsimp only at h ⊢
    split at h
    · next hd => rwa [if_pos hd]
    · next hd =>
      rw [if_neg hd]
      split at h
      · next hx => rw [if_pos hx]; exact hout.subset h
      · next hx =>
        rw [if_neg hx]
        obtain ⟨cp, hmem, hcp⟩ := h
        exact ⟨cp, hcpl.subset hmem, hcp⟩
  case spi => exact hspi.subset h
  all_goals
    dsimp only at h ⊢
    rw [hport]
    exact hout.subset h

theorem Chip.finish_gone {c : Chip} {org : Origin} {ws : List Word} (l : LongCmd) (st d : Nat) (pl : List Word)
    (h : c.replyGone org ws) : (c.finish l st d pl).replyGone org ws := by
  refine Chip.replyGone_mono (Chip.finish_keeps ..).out (Chip.finish_waits ..) (fun m => ?_) h
  have hoff : 0x0100 ≤ (HST_ETH_CFG__CMD_PORT m).off := Nat.le_trans (by decide) (Nat.le_add_right 0x0108 (4 * m))
  unfold Chip.fld
  rw [Chip.finish_reg hoff]

/-! ## A host command that is ACCEPTED -/

theorem Chip.setLongs_keeps (c : Chip) (l : List LongCmd) : Keeps 0x18 c (c.setLongs l) :=
  Keeps.upd_hst Keeps.refl rfl _ rfl rfl rfl rfl

/-- A long command that takes its turn and whose own rules accept it with effect `d` is answered ACCEPTED and joins the commands in
progress. -/
theorem Chip.command_accepted {c d : Chip} {t op arg : Nat} {ifc : Iface} {tag target : Word} {pl : List Word} {o : OpInfo}
    {rom : Option (Chip → Intake → Chip × Answer)} {body : Chip → Intake → Chip × Answer} (ho : opInfo op = some o)
    (ht : c.takes t op ifc tag target pl 0) (hfree : c.longFree op arg = true)
    (hb : ∀ k : Intake, k.payload = pl → k.target = target → body (c.taken t op ifc tag target pl) k = (d, .accepted arg)) :
    Replied c op ifc tag target pl stACCEPTED 0 [] (c.command t op ifc tag target pl rom body)
      ∧ Keeps 0x18 d (c.command t op ifc tag target pl rom body)
      ∧ ∃ l : LongCmd, l.op = op ∧ l.arg = arg ∧ (c.command t op ifc tag target pl rom body).hst.longs = d.hst.longs ++ [l] := by
  obtain ⟨⟨hphase, hlen, hacc⟩, -, -, hturn⟩ := ht
  rw [ho] at hacc
  obtain ⟨hrole, htargets⟩ := hacc
  obtain ⟨hkop, -, hktag, hktarget, hkpl⟩ := Chip.takeIntake_spec c op ifc tag target pl
  have hsame : (c.taken t op ifc tag target pl).role = c.role := Chip.fld_congr (Chip.taken_regs ..) _
  have hroles : ¬ ((c.role = 2 ∨ c.role = 3) ∧ o.standby = false) := by
    rintro ⟨hr, hs⟩
    rcases hrole with h | h
    · omega
    · rw [h] at hs; cases hs
  have htarget : ¬ ((o.targets = 0 ∧ target.toNat ≠ 0) ∨ (0 < o.targets ∧ o.targets ≤ target.toNat)) := by
    split at htargets <;> omega
  have hroom : (c.taken t op ifc tag target pl).longFree op arg = true :=
    (Chip.longFree_congr (Chip.taken_longs ..) op arg).trans hfree
  unfold Replied
  generalize hk : (c.takeIntake op ifc tag target pl).2 = k at *
  obtain ⟨l, hl⟩ : ∃ l : LongCmd, l = ⟨op, k.tag, target, arg, k.org⟩ := ⟨_, rfl⟩
  have hcmd : c.command t op ifc tag target pl rom body
      = ((d.setLongs (d.hst.longs ++ [l])).reply k stACCEPTED 0 []).intakeFlush ifc c.hst.intake.length := by
    unfold Chip.command
    simp only [Chip.at_boot, hphase, ho, Chip.intakeTurn_at, hturn, if_true, Chip.at_hst]
    rw [Chip.takeIntake_at, hk]
    congr 1
    change (c.taken t op ifc tag target pl).runCommand _ _ _ = _
    unfold Chip.runCommand
    rw [hkop, hktarget, hkpl, hlen, if_neg (by decide), hsame, if_neg hroles, if_neg htarget, hb _ hkpl hktarget, hl]
    exact if_pos hroom
  rw [hcmd]
  refine ⟨?_, ?_, l, by rw [hl], by rw [hl], ?_⟩
  · have hgone := Chip.intakeFlush_gone _ ifc c.hst.intake.length _ _
      (Chip.reply_gone (d.setLongs (d.hst.longs ++ [l])) k stACCEPTED 0 [])
    rwa [hkop, hktag] at hgone
  · exact ((Chip.setLongs_keeps ..).trans (Chip.reply_keeps ..) rfl).trans (Chip.intakeFlush_keeps ..) rfl
  · rw [Chip.intakeFlush_longs]
    exact Chip.deliver_longs ..

end Sys2Proof.Machine
end

section
/-! SUPPORT. The build of a plan: a Basin submission that is taken, the words of the QP's descriptor, and how a build ends (R131,
R158, R159, R169, R182). -/

namespace Sys2Proof.Machine

/-! ## Jobs -/

theorem Chip.job_congr {a b : Chip} (h : b.bsn = a.bsn) (n : Nat) : b.job n = a.job n := by
  unfold Chip.job; rw [h]

/-- A list of numbered records with one record replaced holds the new one under its number. -/
theorem find?_replaced {α : Type} (l : List (Nat × α)) (n : Nat) (x : α) :
    (l.filter (fun e => e.1 != n) ++ [(n, x)]).find? (fun e => e.1 == n) = some (n, x) := by
  have hnone : (l.filter (fun e => e.1 != n)).find? (fun e => e.1 == n) = none :=
    List.find?_eq_none.mpr (fun e he => by simpa [bne] using (List.mem_filter.mp he).2)
  rw [List.find?_append, hnone, Option.none_or, List.find?_singleton, if_pos (beq_self_eq_true n)]

theorem Chip.job_setJob_same (c : Chip) (n : Nat) (j : Job) : (c.setJob n j).job n = some j :=
  congrArg (Option.map Prod.snd) (find?_replaced c.bsn.jobs n j)

/-- A submission by firmware that is taken puts a new job on its result slot. -/
theorem Chip.bsnSubmit_job {c : Chip} {d : List Word} (h : (c.bsnSubmit d none).2 = stOK) :
    (c.bsnSubmit d none).1.job (jRslot d) = some (Job.new d 1 c.now 0) := by
  revert h
  unfold Chip.bsnSubmit
  extract_lets host sender owner r
  split
  · intro h; cases h
  · split
    · intro h; cases h
    · split
      · intro h; cases h
      · split
        · intro _
          exact (Chip.job_congr ((Chip.setHeld_keeps ..).bsn rfl) _).trans (Chip.job_setJob_same ..)
        · intro h; cases h

/-! ## The QP's descriptor -/

theorem Chip.qpDescriptor_word0 (c : Chip) (n m it : Nat) :
    wordAt (c.qpDescriptor n m it) 0 = 5 * 2 ^ 28 + 2 ^ 27 + bits (c.plW 0) 2 0 * 2 ^ 16 + 32 * 2 ^ 8 + 32 := by
  have hprio : bits (c.plW 0) 2 0 < 8 := bits_lt _ 2 0
  refine (BitVec.toNat_ofNat ..).trans (Nat.mod_eq_of_lt ?_)
  omega

theorem Chip.jRslot_qpDescriptor (c : Chip) (n m it : Nat) : jRslot (c.qpDescriptor n m it) = 32 := by
  unfold jRslot
  rw [Chip.qpDescriptor_word0]
  simp only [bits, Nat.shiftRight_eq_div_pow]
  omega

theorem Chip.jKind_qpDescriptor (c : Chip) (n m it : Nat) : jKind (c.qpDescriptor n m it) = 5 := by
  unfold jKind
  rw [Chip.qpDescriptor_word0]
  simp only [bits, Nat.shiftRight_eq_div_pow]
  omega

/-! ## What a build leaves of the planner -/

/-- The parts of the planner that the submission of a build's programme leaves alone: the planned joints, the tasks in force and the
publication. -/
def Plan.built (p : Plan) := (p.joints, p.tasks, p.pub)

theorem Plan.built_eq {p : Plan} {joints : List PJoint} {tasks : List (Nat × Task)} {pub : List (Nat × List Seg)}
    (h : p.built = (joints, tasks, pub)) : p.joints = joints ∧ p.tasks = tasks ∧ p.pub = pub := by
  simpa only [Plan.built, Prod.mk.injEq] using h

theorem Chip.layWords_plan (c : Chip) (a : Nat) (ws : List Word) : (c.layWords a ws).plan = c.plan :=
  (Chip.layWords_keeps ..).plan rfl

theorem Chip.dualZero_built (c : Chip) : c.dualZero.plan.built = c.plan.built := by
  unfold Chip.dualZero
  dsimp only
  split
  · rfl
  · simp only [Plan.built, Chip.layWords_plan]

/-- The problem is laid out in the arena; of the planner only the place of the dual area is noted. -/
theorem Chip.layProblem_built (c : Chip) (js : List PJoint) (rows : List QpRow) :
    (c.layProblem js rows).plan.built = c.plan.built := by
  refine Eq.trans (congrArg Plan.built ?_) (Chip.dualZero_built c)
  unfold Chip.layProblem
  simp only [Chip.layWords_plan]
  refine ((Keeps.each (m := 2048) _ (fun _ _ => ?_) _ _).plan rfl).trans (Chip.layWords_plan ..)
  exact Chip.layWords_keeps ..

/-- How a build ends: with its plan SKIPPED, or with its quadratic programme queued on slot 32 (R158, R159, R169). -/
inductive Chip.BuildEnds (c : Chip) : Chip → Prop where
  | skipped {d : Chip} {cause : Nat} (hcause : cause ∈ [4, 5, 6]) (hbuilt : d.plan.built = c.plan.built)
      (hmem : c.fld BSN_STATUS__MODE = 0 → d.mem = c.mem) : BuildEnds c (d.planSkip cause)
  | queued {d : Chip} (hmode : c.fld BSN_STATUS__MODE ≠ 0) (hbuilt : d.plan.built = c.plan.built) (hphase : d.plan.phase = .job)
      (hjob : (d.job 32).map (fun j => (j.owner, jKind j.d, j.submitted)) = some (1, 5, c.now)) : BuildEnds c d

/-- The flag that the first job after a takeover reports COLD is no part of the job's descriptor. -/
theorem Chip.planCold_job (c : Chip) (f : Job → Nat × Nat × Nat) (hf : ∀ j, f { j with coldStart := true } = f j) :
    (c.planCold.job 32).map f = (c.job 32).map f := by
  unfold Chip.planCold
  dsimp only
  split
  · next j hj =>
    rw [Chip.job_setJob_same, show c.job 32 = some j from hj]
    exact congrArg some (hf j)
  · rfl

theorem Chip.planCold_plan (c : Chip) : c.planCold.plan = { c.plan with coldNext := false } := by
  unfold Chip.planCold
  dsimp only
  split <;> rfl

theorem Chip.planSubmit_ends (c : Chip) (js : List PJoint) (rows : List QpRow) : c.BuildEnds (c.planSubmit js rows) := by
  unfold Chip.planSubmit
  extract_lets n m it d p e r q q' e'
  have hslot : jRslot d = 32 := Chip.jRslot_qpDescriptor ..
  have hkind : jKind d = 5 := Chip.jKind_qpDescriptor ..
  have hr : r.1.plan.built = c.plan.built :=
    (congrArg Plan.built ((Chip.bsnSubmit_keeps ..).plan rfl)).trans (Chip.layProblem_built e js rows)
  have hnow : (e.layProblem js rows).now = c.now := (Chip.layProblem_keeps e js rows).now rfl
  split
  · exact .skipped (by decide) rfl (fun _ => rfl)
  · split
    · exact .skipped (by decide) rfl (fun _ => rfl)
    · next hmode =>
      split
      · exact .skipped (by decide) rfl (fun _ => rfl)
      · split
        · next hok =>
          have hjob := Chip.bsnSubmit_job hok
          rw [hslot, hnow] at hjob
          have hmap : (e'.job 32).map (fun j => (j.owner, jKind j.d, j.submitted)) = some (1, 5, c.now) := by
            rw [show e'.job 32 = some (Job.new d 1 c.now 0) from hjob, Option.map_some, ← hkind]
            rfl
          unfold Chip.onlyIf
          split
          · refine .queued hmode ?_ ?_ ?_
            · rw [Chip.planCold_plan]; exact hr
            · rw [Chip.planCold_plan]
            · exact (Chip.planCold_job e' _ (fun _ => rfl)).trans hmap
          · exact .queued hmode hr rfl hmap
        · exact .skipped (by decide) hr (fun h => absurd h hmode)

/-- The joints of the cycle's arms, from their start states (R161, R162). -/
def Chip.plannedJoints (c : Chip) : List PJoint :=
  ((List.range 16).filter (fun a => c.plan.arms.testBit a)).flatMap (fun a => (List.range (c.armNj a)).map (c.startState a))

theorem Chip.planBuilt_idle {c : Chip} (h : c.plan.phase ≠ .building) : c.planBuilt = c := if_neg h

/-- The build finds its joints, pairs and rows, and then ends. -/
theorem Chip.planBuilt_ends {c : Chip} (h : c.plan.phase = .building) :
    ∃ d : Chip, d.BuildEnds c.planBuilt ∧ d.plan.built = (c.plannedJoints, c.plan.tasks, c.plan.pub) ∧ d.mem = c.mem
      ∧ d.now = c.now ∧ d.regs = c.regs := by
  unfold Chip.planBuilt
  rw [if_pos h]
  exact ⟨_, Chip.planSubmit_ends .., rfl, rfl, rfl, rfl⟩

end Sys2Proof.Machine
end

section
/-! PROOF. Tasks and their conversions, and the statement on PLAN_BUILD_COMPLETE, TASK_SET and TASK_CLEAR. -/

namespace Sys2Proof.Machine

/-! ## What the planner's window says -/

section Window
variable {a b : Chip} (h : b.mem = a.mem)
include h

theorem Chip.plW_congr (off : Nat) : b.plW off = a.plW off := by
  unfold Chip.plW; rw [h]

theorem Chip.armNj_congr (arm : Nat) : b.armNj arm = a.armNj arm := by
  unfold Chip.armNj; rw [Chip.plW_congr h]

theorem Chip.armEn_congr (arm : Nat) : b.armEn arm = a.armEn arm := by
  unfold Chip.armEn; rw [Chip.plW_congr h]

theorem Chip.taskBad_congr (arm : Nat) (chain : Bool) (n : Nat) (pl : List Word) :
    b.taskBad arm chain n pl = a.taskBad arm chain n pl := by
  unfold Chip.taskBad Chip.jointOk
  simp only [Chip.plW_congr h, Chip.armNj_congr h]

end Window

/-! ## Conversions -/

theorem Chip.ikOf_congr {a b : Chip} (h : b.plan = a.plan) (arm : Nat) : b.ikOf arm = a.ikOf arm := by
  unfold Chip.ikOf; rw [h]

/-- Without a conversion of an arm the removal of the arm's conversions removes nothing. -/
theorem Chip.ik_filter_of_none {c : Chip} {arm : Nat} (h : c.ikOf arm = none) :
    c.plan.ik.filter (fun e => e.1 != arm) = c.plan.ik := by
  refine List.filter_eq_self.mpr (fun e he => ?_)
  have hne := List.find?_eq_none.mp (Option.map_eq_none_iff.mp h) e he
  simpa [bne] using hne

theorem Chip.ikOf_setIk_same (c : Chip) (arm : Nat) (x : Ik) : (c.setIk arm x).ikOf arm = some x :=
  congrArg (Option.map Prod.snd) (find?_replaced c.plan.ik arm x)

/-- The waypoint that a command's words give by joint values. -/
def Chip.jointPoint (c : Chip) (arm : Nat) (chain : Bool) (w : List Word) : Waypoint :=
  ⟨wpKey chain w, (w.drop 4).take (c.armNj arm), w.getD 3 0⟩

/-- A conversion whose waypoints all give joint values enters them all (R497). -/
theorem Chip.ikAdvance_joints (c : Chip) (arm : Nat) (poses : Bool) (fuel : Nat) (x : Ik) (hsteps : x.steps = 0)
    (hout : x.out = false) (hlen : x.rest.length ≤ fuel) (hj : ∀ e ∈ x.rest, (wordAt e.2 2).testBit 0 = false) :
    c.ikAdvance arm poses fuel x
      = { x with done := x.done ++ x.rest.map (fun e => c.jointPoint arm x.chain e.2), rest := [] } := by
  induction fuel generalizing x with
  | zero =>
    obtain ⟨chain, rest, done, q, steps, out, failed, first⟩ := x
    obtain rfl : rest = [] := List.length_eq_zero_iff.mp (Nat.le_zero.mp hlen)
    simp [Chip.ikAdvance]
  | succ fuel ih =>
    obtain ⟨chain, rest, done, q, steps, out, failed, first⟩ := x
    obtain rfl : steps = 0 := hsteps
    obtain rfl : out = false := hout
    cases rest with
    | nil => simp [Chip.ikAdvance]
    | cons e rest =>
      unfold Chip.ikAdvance
      simp only
      rw [if_pos (hj e List.mem_cons_self),
        ih _ rfl rfl (Nat.le_of_succ_le_succ hlen) (fun e' he => hj e' (List.mem_cons_of_mem _ he))]
      simp [Ik.enter, Chip.jointPoint]

/-- The planner with the conversion of an arm replaced. -/
def Plan.putIk (p : Plan) (arm : Nat) (x : Ik) : Plan := { p with ik := p.ik.filter (fun e => e.1 != arm) ++ [(arm, x)] }

/-- The only conversion of an arm is gone once it is removed again. -/
theorem Plan.putIk_filter {p : Plan} {arm : Nat} (h : p.ik.filter (fun e => e.1 != arm) = p.ik) (x : Ik) :
    (p.putIk arm x).ik.filter (fun e => e.1 != arm) = p.ik := by
  simp only [Plan.putIk, List.filter_append, h, List.filter_cons, List.filter_nil, bne_self_eq_false, Bool.false_eq_true, if_false,
    List.append_nil]

/-- The planner once the conversion of an arm has ended as `x`. -/
def Plan.endIk (p : Plan) (arm : Nat) (x : Ik) : Plan :=
  { p with ik := p.ik.filter (fun e => e.1 != arm)
           ready := p.ready ++ [(arm, if x.done = [] then none else some ⟨x.chain, x.done⟩)] }

/-- The planner with an arm left without a task from the next build start. -/
def Plan.clearTask (p : Plan) (arm : Nat) : Plan := { p with ready := p.ready ++ [(arm, none)] }

/-- What a run of a conversion does to the device: the planner changes, but not its tasks in force, and the TASK_SET may end. -/
theorem Chip.ikRun_cases (c : Chip) (arm : Nat) (poses : Bool) : ∃ f : Plan → Plan, (∀ p, (f p).tasks = p.tasks) ∧
    (c.ikRun arm poses = c.setPlan f ∨ ∃ l st d, c.ikRun arm poses = (c.setPlan f).finish l st d []) := by
  unfold Chip.ikRun
  split
  · exact ⟨id, fun _ => rfl, Or.inl rfl⟩
  · extract_lets x
    split
    · refine ⟨fun p => p.endIk arm x, fun _ => rfl, ?_⟩
      unfold Chip.ikFinish
      extract_lets d
      split
      · exact Or.inl rfl
      · next l _ =>
        split
        · exact Or.inr ⟨l, _, _, rfl⟩
        · exact Or.inr ⟨l, _, _, rfl⟩
    · exact ⟨fun p => p.putIk arm x, fun _ => rfl, Or.inl rfl⟩

theorem Chip.ikRun_none {c : Chip} {arm : Nat} (h : c.ikOf arm = none) (poses : Bool) : c.ikRun arm poses = c := by
  unfold Chip.ikRun
  rw [h]

/-- The tasks in force change at build starts alone. -/
theorem Chip.ikRun_tasks (c : Chip) (arm : Nat) (poses : Bool) : (c.ikRun arm poses).plan.tasks = c.plan.tasks := by
  obtain ⟨f, hf, h | ⟨l, st, d, h⟩⟩ := Chip.ikRun_cases c arm poses
  · rw [h]; exact hf _
  · rw [h, (Chip.finish_keeps ..).plan rfl]; exact hf _

theorem Chip.ikRun_gone {c : Chip} {org : Origin} {ws : List Word} (arm : Nat) (poses : Bool) (hg : c.replyGone org ws) :
    (c.ikRun arm poses).replyGone org ws := by
  obtain ⟨f, -, h | ⟨l, st, d, h⟩⟩ := Chip.ikRun_cases c arm poses
  · rw [h]; exact hg
  · rw [h]
    exact Chip.finish_gone (c := c.setPlan f) l st d [] hg

/-- The newest long command is found by its opcode and arm where none before it has them. -/
theorem find?_newest {p : LongCmd → Bool} {L : List LongCmd} {l : LongCmd} (hL : L.any p = false) (hl : p l = true) :
    (L ++ [l]).find? p = some l ∧ (L ++ [l]).erase l = L := by
  have hnot : ∀ m ∈ L, ¬ p m = true := fun m hm hp => by
    rw [List.any_eq_false] at hL
    exact hL m hm hp
  refine ⟨?_, ?_⟩
  · rw [List.find?_append, List.find?_eq_none.mpr hnot, Option.none_or, List.find?_singleton, if_pos hl]
  · rw [List.erase_append_right _ (fun hm => hnot l hm hl), List.erase_cons_head, List.append_nil]

/-- A conversion all of whose waypoints give joint values ends at once, and the newest TASK_SET of the arm ends OK with it; the task
waits for the next build start (R497). -/
theorem Chip.ikRun_joints {c : Chip} {arm : Nat} {x : Ik} {L : List LongCmd} {l : LongCmd} (hx : c.ikOf arm = some x)
    (hstart : x = ⟨x.chain, x.rest, [], [], 0, false, 0, (0, 0)⟩) (hlen : x.rest.length ≤ 17)
    (hj : ∀ e ∈ x.rest, (wordAt e.2 2).testBit 0 = false) (hl : c.hst.longs = L ++ [l])
    (hL : L.any (fun l => l.op == 0x0403 && l.arg == arm) = false) (hop : l.op = 0x0403) (harg : l.arg = arm) :
    (c.ikRun arm false).plan = c.plan.endIk arm { x with done := x.rest.map (fun e => c.jointPoint arm x.chain e.2), rest := [] }
      ∧ (c.ikRun arm false).hst.longs = L := by
  obtain ⟨chain, rest, done, q, steps, out, failed, first⟩ := x
  simp only [Ik.mk.injEq, true_and] at hstart
  obtain ⟨rfl, rfl, rfl, rfl, rfl, rfl⟩ := hstart
  obtain ⟨hfind, herase⟩ := find?_newest (p := fun l => l.op == 0x0403 && l.arg == arm) (l := l) hL (by simp [hop, harg])
  have hrun : c.ikRun arm false = (c.setPlan (fun p => p.endIk arm
      ⟨chain, [], rest.map (fun e => c.jointPoint arm chain e.2), [], 0, false, 0, (0, 0)⟩)).finish l stOK 0 [] := by
    unfold Chip.ikRun
    rw [hx]
    dsimp only
    rw [Chip.ikAdvance_joints c arm false 17 _ rfl rfl hlen hj]
    dsimp only
    rw [if_pos rfl, List.nil_append]
    unfold Chip.ikFinish
    dsimp only
    rw [Chip.setPlan_hst, hl, hfind]
    exact if_pos rfl
  rw [hrun]
  refine ⟨(Chip.finish_keeps ..).plan rfl, ?_⟩
  rw [Chip.finish_longs, Chip.setPlan_hst, hl, herase]

/-! ## TASK_SET's own rules -/

/-- The waypoints of a TASK_SET, as their numbers and words. -/
def taskWords (pl : List Word) : List (Nat × List Word) :=
  (List.range ((pl.length - 1) / 12)).map (fun i => (i, (pl.drop (1 + 12 * i)).take 12))

/-- The conversion a TASK_SET starts. -/
def taskIk (pl : List Word) : Ik := ⟨(wordAt pl 0).testBit 0, taskWords pl, [], [], 0, false, 0, (0, 0)⟩

section Rules
variable {c : Chip} {k : Intake}

theorem Chip.taskSet_noArm (h : c.armEn k.target.toNat = false) : c.taskSet k = (c, ansArg 0xFFFF) := if_pos h

theorem Chip.taskSet_badWord {i : Nat} (ha : c.armEn k.target.toNat = true)
    (hbad : c.taskBad k.target.toNat ((wordAt k.payload 0).testBit 0) ((k.payload.length - 1) / 12) k.payload = some i) :
    c.taskSet k = (c, ansArg i) := by
  unfold Chip.taskSet
  dsimp only
  rw [if_neg (by simp [ha]), hbad]

theorem Chip.taskSet_busy (ha : c.armEn k.target.toNat = true)
    (hbad : c.taskBad k.target.toNat ((wordAt k.payload 0).testBit 0) ((k.payload.length - 1) / 12) k.payload = none)
    (hbusy : (c.ikOf k.target.toNat).isSome = true ∨ c.longFree 0x0403 k.target.toNat = false) :
    c.taskSet k = (c, ansBusy) := by
  unfold Chip.taskSet
  dsimp only
  rw [if_neg (by simp [ha]), hbad]
  exact if_pos hbusy

theorem Chip.taskSet_starts (ha : c.armEn k.target.toNat = true)
    (hbad : c.taskBad k.target.toNat ((wordAt k.payload 0).testBit 0) ((k.payload.length - 1) / 12) k.payload = none)
    (hik : c.ikOf k.target.toNat = none) (hfree : c.longFree 0x0403 k.target.toNat = true) :
    c.taskSet k = (c.setIk k.target.toNat (taskIk k.payload), .accepted k.target.toNat) := by
  unfold Chip.taskSet
  dsimp only
  rw [if_neg (by simp [ha]), hbad]
  exact if_neg (by simp [hik, hfree])

end Rules

theorem opInfo_taskSet : opInfo 0x0403 = some ⟨0x0403, 13, 193, 16, false, true, false⟩ := by decide

/-- A TASK_SET whose LEN fits carries 1 to 16 waypoints (R497). -/
theorem taskWords_length {pl : List Word} (h : lenOk 0x0403 pl = true) :
    1 ≤ (taskWords pl).length ∧ (taskWords pl).length ≤ 16 := by
  unfold lenOk at h
  rw [opInfo_taskSet] at h
  simp only [Bool.and_eq_true, decide_eq_true_eq] at h
  obtain ⟨⟨hmin, hmax⟩, -⟩ := h
  simp only [taskWords, List.length_map, List.length_range]
  omega

/-! ## The commands -/

theorem opInfo_taskClear : opInfo 0x0404 = some ⟨0x0404, 0, 0, 16, false, false, false⟩ := by decide

theorem Chip.taken_plan (c : Chip) (t op : Nat) (ifc : Iface) (tag target : Word) (pl : List Word) :
    (c.taken t op ifc tag target pl).plan = c.plan := (Chip.taken_keeps ..).plan rfl

/-- The device `c` after an ACCEPTED TASK_SET for an arm, before its conversion runs, as against the device `a` before it: the
conversion is begun and the command is the newest of the long commands. -/
structure Chip.TaskAccepted (a : Chip) (arm : Nat) (pl : List Word) (c : Chip) : Prop where
  mem : c.mem = a.mem
  plan : c.plan = a.plan.putIk arm (taskIk pl)
  longs : ∃ l : LongCmd, l.op = 0x0403 ∧ l.arg = arm ∧ c.hst.longs = a.hst.longs ++ [l]

/-- An ACCEPTED TASK_SET whose waypoints all give joint values ends as its conversion runs: its task stands last in the list for the
next build start (R497). -/
theorem Chip.TaskAccepted.run_joints {a c : Chip} {arm : Nat} {pl : List Word} (h : a.TaskAccepted arm pl c)
    (hlen : lenOk 0x0403 pl = true) (hik : a.ikOf arm = none) (hfree : a.longFree 0x0403 arm = true)
    (hj : ∀ e ∈ taskWords pl, (wordAt e.2 2).testBit 0 = false) :
    (c.ikRun arm false).plan.ready = a.plan.ready ++ [(arm, some ⟨(wordAt pl 0).testBit 0,
        (taskWords pl).map (fun e => a.jointPoint arm ((wordAt pl 0).testBit 0) e.2)⟩)]
      ∧ (c.ikRun arm false).hst.longs = a.hst.longs ∧ (c.ikRun arm false).plan.ik = a.plan.ik := by
  obtain ⟨hmem, hplan, l, hop, harg, hlongs⟩ := h
  obtain ⟨hmin, hmax⟩ := taskWords_length hlen
  have hnew : a.hst.longs.any (fun l => l.op == 0x0403 && l.arg == arm) = false := by
    simp only [Chip.longFree, Bool.and_eq_true, Bool.not_eq_true'] at hfree
    exact hfree.2
  have hbegun : c.ikOf arm = some (taskIk pl) :=
    (Chip.ikOf_congr (a := a.setIk arm (taskIk pl)) hplan arm).trans (Chip.ikOf_setIk_same ..)
  obtain ⟨hrun, hend⟩ := Chip.ikRun_joints hbegun rfl (Nat.le_succ_of_le hmax) hj hlongs hnew hop harg
  have hpoint : c.jointPoint arm = a.jointPoint arm := by
    unfold Chip.jointPoint
    rw [Chip.armNj_congr hmem]
  have hne : (taskWords pl).map (fun e => a.jointPoint arm ((wordAt pl 0).testBit 0) e.2) ≠ [] :=
    fun h => by rw [List.map_eq_nil_iff.mp h] at hmin; cases hmin
  rw [hrun, hplan, hpoint]
  refine ⟨?_, hend, Plan.putIk_filter (Chip.ik_filter_of_none hik) _⟩
  exact congrArg (fun x => a.plan.ready ++ [(arm, x)]) (if_neg hne)

section Command
variable {s : State} {t : Nat} {ifc : Iface} {tag target : Word} {pl : List Word}

/-- A TASK_SET that its own rules turn away starts no conversion and leaves the planner and the registers alone. -/
theorem State.taskSet_refused {st dt : Nat} (ht : s.chip.takes t 0x0403 ifc tag target pl 0)
    (hb : ∀ k : Intake, k.payload = pl → k.target = target →
      (s.chip.taken t 0x0403 ifc tag target pl).taskSet k = (s.chip.taken t 0x0403 ifc tag target pl, .now st dt [])) :
    ∃ s', exec (.taskSet t ifc tag target pl) s = .next s' ∧ Done s t 0x0403 ifc tag target pl st dt [] s'
      ∧ s'.chip.plan = s.chip.plan ∧ s.chip.regsSame s'.chip := by
  obtain ⟨s', hnext, hdone, hkeeps, -⟩ := State.command_done (rpl := []) opInfo_taskSet ht (by simp)
    (fun k hpl htarget _ => hb k hpl htarget) (Chip.takes_now ht)
  have hplan : s'.chip.plan = s.chip.plan := (hkeeps.plan rfl).trans (Chip.taken_plan ..)
  obtain rfl := Host.Outcome.next.inj hnext
  refine ⟨_, ?_, hdone, hplan, (hkeeps.regs rfl).trans (Chip.taken_regs ..)⟩
  rw [exec_taskSet, execTaskSet]
  unfold State.act
  dsimp only
  split
  · next hik =>
    rw [Chip.ikRun_none ((Chip.ikOf_congr ((Chip.settle_plan _).symm.trans hplan) _).trans hik)]
  · rfl

theorem State.taskSet_accepted (ht : s.chip.takes t 0x0403 ifc tag target pl 0) (ha : s.chip.armEn target.toNat = true)
    (hbad : s.chip.taskBad target.toNat ((wordAt pl 0).testBit 0) ((pl.length - 1) / 12) pl = none)
    (hik : s.chip.ikOf target.toNat = none) (hfree : s.chip.longFree 0x0403 target.toNat = true) :
    ∃ c : Chip, exec (.taskSet t ifc tag target pl) s = .next { s with chip := (c.ikRun target.toNat false).settle }
      ∧ c.now = t ∧ Replied s.chip 0x0403 ifc tag target pl stACCEPTED 0 [] c ∧ s.chip.TaskAccepted target.toNat pl c := by
  have hmem : (s.chip.taken t 0x0403 ifc tag target pl).mem = s.chip.mem := Chip.taken_mem ..
  have hplan : (s.chip.taken t 0x0403 ifc tag target pl).plan = s.chip.plan := Chip.taken_plan ..
  have hlongs := Chip.taken_longs s.chip t 0x0403 ifc tag target pl
  obtain ⟨hreplied, hkeeps, l, hop, harg, hnew⟩ := Chip.command_accepted (rom := none) (body := Chip.taskSet)
    (d := (s.chip.taken t 0x0403 ifc tag target pl).setIk target.toNat (taskIk pl)) opInfo_taskSet ht hfree
    (fun k hpl htarget => by
      subst hpl htarget
      exact Chip.taskSet_starts ((Chip.armEn_congr hmem _).trans ha) ((Chip.taskBad_congr hmem ..).trans hbad)
        ((Chip.ikOf_congr hplan _).trans hik) ((Chip.longFree_congr hlongs _ _).trans hfree))
  refine ⟨_, ?_, (hkeeps.now rfl).trans (Chip.takes_now ht), hreplied, (hkeeps.mem rfl).trans hmem,
    (hkeeps.plan rfl).trans (congrArg (fun p => Plan.putIk p target.toNat (taskIk pl)) hplan),
    ⟨l, hop, harg, hnew.trans (congrArg (· ++ [l]) hlongs)⟩⟩
  rw [exec_taskSet, execTaskSet]
  unfold State.act
  dsimp only
  rw [if_pos hik]

theorem State.planBuildComplete_next (hr : s.chip.ready t) :
    exec (.planBuildComplete t) s = .next { s with chip := (s.chip.at t).planBuilt.settle } :=
  (exec_planBuildComplete t s).trans (State.event_run s t Chip.planBuilt hr.1)

theorem State.taskClear_command : exec (.taskClear t ifc tag target pl) s
    = s.command t 0x0404 ifc tag target pl (fun c k => (c.setPlan (fun p => p.clearTask k.target.toNat), ansOK)) := rfl

/-- TASK_CLEAR changes nothing but what the next build start takes over. -/
theorem State.taskClear_done (ht : s.chip.takes t 0x0404 ifc tag target pl 0) :
    ∃ s', exec (.taskClear t ifc tag target pl) s = .next s' ∧ Done s t 0x0404 ifc tag target pl stOK 0 [] s'
      ∧ s'.chip.plan = s.chip.plan.clearTask target.toNat ∧ s.chip.regsSame s'.chip := by
  rw [State.taskClear_command]
  obtain ⟨s', hnext, hdone, hkeeps, -⟩ := State.command_done (rpl := []) (st := stOK) (dt := 0) opInfo_taskClear ht (by simp)
    (d := (s.chip.taken t 0x0404 ifc tag target pl).setPlan (fun p => p.clearTask target.toNat))
    (body := fun c k => (c.setPlan (fun p => p.clearTask k.target.toNat), ansOK))
    (fun k _ htarget _ => by rw [htarget]; rfl) (Chip.takes_now ht)
  exact ⟨s', hnext, hdone, (hkeeps.plan rfl).trans (congrArg (fun p => Plan.clearTask p target.toNat) (Chip.taken_plan ..)),
    (hkeeps.regs rfl).trans (Chip.taken_regs ..)⟩

end Command

/-! ## The statement -/

/-- Settles O41: a build ends as its submission does, and the trail of TASK_SET's reply and of its final reply leaves the planner as
the command's own rules and the run of its conversion made it. -/
theorem tasksWaitForTheNextBuild : Obligations.TasksWaitForTheNextBuild := by
  intro s t ifc tag target pl
  have htaken (op : Nat) : (s.chip.taken t op ifc tag target pl).mem = s.chip.mem := Chip.taken_mem ..
  refine ⟨fun hr hphase => ?idle, fun hr hphase => ?built, fun ht harm => ?noArm, fun ht harm i hbad => ?badWord,
    fun ht harm hbad hbusy => ?busy, fun ht harm hbad hik hfree => ?accepted, fun ht => ?clear⟩
  case idle =>
    refine ⟨_, State.planBuildComplete_next hr, ?_⟩
    rw [Chip.planBuilt_idle (c := s.chip.at t) hphase]
    exact ⟨(Chip.settle_now _).trans (Chip.at_now_ready hr), Chip.settle_plan _, Chip.settle_bsn _, Chip.settle_mem _,
      Chip.settle_regs _⟩
  case built =>
    obtain ⟨d, hends, hbuilt, hmem, hnow, hregs⟩ := Chip.planBuilt_ends (c := s.chip.at t) hphase
    have hend : (s.chip.at t).planBuilt.now = t := ((Chip.planBuilt_keeps _).now rfl).trans (Chip.at_now_ready hr)
    refine ⟨_, State.planBuildComplete_next hr, ?_⟩
    dsimp only
    rw [Chip.settle_now, Chip.settle_plan, Chip.settle_mem, Chip.job_congr (Chip.settle_bsn _)]
    generalize (s.chip.at t).planBuilt = b at hends hend ⊢
    cases hends with
    | skipped hcause hkept hskip =>
      obtain ⟨hjoints, htasks, hpub⟩ := Plan.built_eq (hkept.trans hbuilt)
      exact ⟨hend, hjoints, Or.inr ⟨rfl, rfl, hcause⟩,
        fun h => ⟨rfl, (hskip ((Chip.fld_congr hregs _).trans h)).trans hmem⟩, fun h => (nomatch h), htasks, hpub⟩
    | queued hmode hkept hjob hqueued =>
      obtain ⟨hjoints, htasks, hpub⟩ := Plan.built_eq (hkept.trans hbuilt)
      rw [hnow, Chip.at_now_ready hr] at hqueued
      exact ⟨hend, hjoints, Or.inl hjob, fun h => absurd ((Chip.fld_congr hregs _).trans h) hmode,
        fun _ => hqueued, htasks, hpub⟩
  case noArm =>
    refine State.taskSet_refused ht (fun k hpl htarget => ?_)
    subst hpl htarget
    exact Chip.taskSet_noArm ((Chip.armEn_congr (htaken _) _).trans harm)
  case badWord =>
    refine State.taskSet_refused ht (fun k hpl htarget => ?_)
    subst hpl htarget
    exact Chip.taskSet_badWord ((Chip.armEn_congr (htaken _) _).trans harm) ((Chip.taskBad_congr (htaken _) ..).trans hbad)
  case busy =>
    refine State.taskSet_refused ht (fun k hpl htarget => ?_)
    subst hpl htarget
    refine Chip.taskSet_busy ((Chip.armEn_congr (htaken _) _).trans harm) ((Chip.taskBad_congr (htaken _) ..).trans hbad) ?_
    rwa [Chip.ikOf_congr (Chip.taken_plan ..), Chip.longFree_congr (Chip.taken_longs ..)]
  case accepted =>
    obtain ⟨c, hnext, hnow, hgone, hacc⟩ := State.taskSet_accepted ht harm hbad hik hfree
    refine ⟨_, hnext, ⟨?_, Chip.settle_gone _ _ _ (Chip.ikRun_gone _ _ hgone)⟩, ?_, fun hjoint => ?_⟩
    · rw [Chip.settle_now, (Chip.ikRun_keeps ..).now rfl, hnow]
    · rw [Chip.settle_plan, Chip.ikRun_tasks, hacc.plan]
      rfl
    · obtain ⟨⟨-, hlen, -⟩, -⟩ := ht
      obtain ⟨hready, hend, hiks⟩ := hacc.run_joints hlen hik hfree (fun e he => by
        obtain ⟨i, hi, rfl⟩ := List.mem_map.mp he
        exact hjoint i (List.mem_range.mp hi))
      rw [Chip.settle_plan, Chip.settle_longs]
      refine ⟨hready.trans ?_, hend, hiks⟩
      rw [taskWords, List.map_map]
      rfl
  case clear => exact State.taskClear_done ht

end Sys2Proof.Machine
end
